-- ==== Sys2Proof/Word.lean ====
section
/-! DEFINITION. The word types of the block (R9, R10): bytes, 32-bit register words, FP32 bit patterns. -/

namespace Sys2Proof

/-- One byte of a record, a flit, an image or attached memory. -/
abbrev Byte := BitVec 8

/-- A 32-bit register word (R66). -/
abbrev Word := BitVec 32

/-- The bit pattern of an FP32 value. -/
abbrev F32 := BitVec 32

/-- A run of bytes, the first at the lowest address. -/
abbrev Bytes := List Byte

end Sys2Proof
end

