-- ==== Sys2Proof/Syntax.lean ====
section
/-! DEFINITION. The commands of the block: one constructor of `Instr` per row of the opcode table, with the operands
that the surroundings supply. A command that is an event inside the block carries only what State cannot hold:
the data that arrives at a port, a measured value, an injected hardware error. -/

namespace Sys2Proof

/-- The two image copies of the boot flash (R78). -/
inductive CopyId where
  | a
  | b
  deriving DecidableEq, Repr

/-- What the SFDP area declares (R63): the flash size in bytes, if any, and 8D-8D-8D support. -/
structure Sfdp where
  size  : Option Nat
  octal : Bool
  deriving DecidableEq, Repr

/-- The data that the flash returns to the four SFDP transfers of R63: the SFDP header, the parameter header of the Basic
Flash Parameter Table, the density DWORD and the 8D-8D-8D DWORD. -/
structure SfdpRead where
  head    : Bytes
  param   : Bytes
  density : Bytes
  octal   : Bytes
  deriving DecidableEq, Repr

/-- A write by the host to attached memory that an inbound write announces (R77): physical address and bytes. -/
structure HostWrite where
  addr : Nat
  data : Bytes
  deriving DecidableEq, Repr

/-- An inbound attach-port write to a slot (R42, R45): generation, ordering domain, tag, slot index, the eight
used bytes, and the attached-memory writes made visible before it (R77). -/
structure SeamReq where
  gen2 : Bool
  dom  : Nat
  tag  : Nat
  slot : Nat
  data : Bytes
  host : List HostWrite
  deriving DecidableEq, Repr

/-- An inbound attach-port request of any form (R42, R45); `beats` is the BEATS field, the number of beats minus 1. -/
structure SeamRaw where
  gen2  : Bool
  opc   : Nat
  dom   : Nat
  tag   : Nat
  beats : Nat
  addr  : Nat
  deriving DecidableEq, Repr

/-- A message of the exchange as its last flit completes it (R294). `owner` is the OWNER code of its flits and
`chan` the number of the channel it arrived on. -/
structure Msg where
  chan    : Nat
  owner   : Nat
  typ     : Nat
  flags   : Nat
  src     : Nat
  dst     : Nat
  trigger : Nat
  msgNo   : Nat
  length  : Nat
  body    : Bytes
  deriving DecidableEq, Repr

/-- The object an attached-memory access serves: the rows of R407. -/
inductive MemObj where
  /-- hidden-state row `row` of pass `layer`, read in stage 1 -/
  | hidden (part layer row : Nat)
  /-- the same row read again for RESIDUAL -/
  | residual (part layer row : Nat)
  /-- a router segment (row block, tile, segment) read in stage 3 -/
  | router (part layer block tile seg : Nat)
  /-- an expert output row read by a destination for the return to `src` -/
  | expertOut (part layer micro src : Nat)
  /-- a returned row held in the memory pool, read by Fold -/
  | returned (part layer row expert : Nat)
  /-- a shared row held for token row `row` -/
  | shared (part layer row : Nat)
  /-- the write of a combined row -/
  | combined (part layer row : Nat)
  /-- the write of a work table or its input rows -/
  | workTable (tag : Nat)
  /-- a sealed reduction result -/
  | sealed (part layer chunk : Nat)
  /-- the write of a reduction result chunk -/
  | redResult (part layer chunk : Nat)
  /-- a journal record of a partition -/
  | journal (part : Nat)
  /-- a ledger write of a partition -/
  | ledger (part : Nat)
  /-- the write of the completion record of a group's command -/
  | complRec (group : Nat)
  /-- a save area, written or read back -/
  | saveArea (group : Nat)
  /-- the write of a stream context by PAUSE -/
  | context (part : Nat)
  /-- the output of a batch command -/
  | batchOut (group : Nat)
  /-- a memory-pool link entry; `sys` when its chain belongs to the system owner -/
  | linkEntry (part : Nat) (sys : Bool)
  /-- the ring descriptor of the command at a group's HEAD and what it names: segment list, stream context, table entries,
  journal entry, tensor descriptors, index tensors, router constants and input rows (R54, R134, R135, R259, R395) -/
  | command (group : Nat)
  /-- tensor descriptors, index tensors, γ, β, router bias and bias table of a layer pass -/
  | operand (part layer : Nat)
  /-- a target of a scatter-add of OUT_TD, read once (R168) -/
  | target (part layer : Nat)
  /-- the contributions of a reduction on the member -/
  | contrib (part layer : Nat)
  /-- the inputs of a node addition in the Fold region -/
  | foldIn (part layer node chunk : Nat)
  /-- every other object of the last row of R407 -/
  | fatal (part : Nat)
  /-- records of segment 255 and handles, read in system slots (R283, R345, R384, R410) -/
  | record (part : Nat)
  deriving DecidableEq, Repr

/-- A cell of an array whose partial a hardware fault changed in a run: row, column, the value the cell held. -/
structure CellErr where
  row   : Nat
  col   : Nat
  value : F32
  deriving DecidableEq, Repr

/-- A failing bit found by the memory test (R447). -/
structure BadBit where
  macroNo : Nat
  row     : Nat
  bit     : Nat
  deriving DecidableEq, Repr

/-- A registered request of R175: the requester's place in the fixed order, the owner group, cells, consumers. -/
structure CellReq where
  rank    : Nat
  owner   : Nat
  memory  : Bool
  contig  : Bool
  cells   : Nat
  refs    : Nat
  /-- head cell of the buffer whose data the new one holds, if it is made from one (R177, R179) -/
  src     : Option (Bool × Nat)
  deriving DecidableEq, Repr

/-- A data beat at a memory port (R51, R55): its granule-valid bits, and whether it came after the bound. -/
structure MemBeat where
  valid : Nat
  late  : Bool
  deriving DecidableEq, Repr

/-- A beat whose granule carries an uncorrectable error (R56): what the read carries, and whether it came late. -/
structure UeBeat where
  obj  : MemObj
  late : Bool
  deriving DecidableEq, Repr

/-- How the repetition of an access ended: without an error, and whether a request was held up by RDY or a beat came late
(R55, R406). -/
structure RetryEnd where
  ok   : Bool
  late : Bool
  deriving DecidableEq, Repr

/-- A flit as it arrives (R291, R312): its 512 bytes and the time since the boundary, in ps. -/
structure RxFlit where
  bytes : Bytes
  ps    : Nat
  deriving DecidableEq, Repr

/-- What reaches a buffer in one cycle beside its ADD_REFs (R177): releases, and the request that copies the buffer where
an ADD_REF is refused. -/
structure RefCycle where
  releases : Nat
  copy     : CellReq
  deriving DecidableEq, Repr

/-- The commands of the block, in the order of the opcode table. -/
inductive Instr where
  | rstNAssert
  | rstNDeassert (sfdp : SfdpRead) (hdrA hdrB : Bytes) (us : Nat)
  | copyReadDone (copy : CopyId) (img : Bytes) (us : Nat)
  | clockCheck (cycles us : Nat)
  | repair (record : Option Bytes) (page : Byte) (logs : List Bytes) (us : Nat)
  | domainSwitchOn (dom : Nat)
  | load (img : Bytes) (us : Nat)
  | linkTrainEnd (timeout : Bool)
  | headListenEnd
  | lockAcquired
  | stitchLockTimeout (us : Nat)
  | partitionUp (us : Nat)
  | keyProgram (value : Word)
  | keyProgramDone
  | pwrAlert
  | pwrAlertRelease (us : Nat)
  | thermTrip (us : Nat)
  | thermTripRelease
  | stitchRefEdge (offsetPs : Int)
  | stitchRefMiss
  | stitchBoundary (runs others : List Nat)
  | lockLoss
  | stitchSlip (refCount : Nat)
  | stitchRelaySwitch (lockedDirect : List Nat)
  | stitchDirectRestore
  | countFlitSend (port : Nat)
  | timeSend (chan txOfs : Nat)
  | ringDoorbell (req : SeamReq)
  | layerDoorbell (req : SeamReq)
  | engineCompletion (req : SeamReq)
  | weightWriteRelease (req : SeamReq)
  | holdClear (part layer : Nat)
  | abortRequest (req : SeamReq)
  | abortRegister (group : Nat)
  | seamInvalidRequest (req : SeamRaw)
  | completionNotify (group : Nat)
  | workReadyNotify (tag : Nat)
  | divertNotify (group : Nat)
  | abortNotify (group : Nat)
  | memReadBeat (port : Nat) (beat : MemBeat)
  | memUe (port : Nat) (beat : UeBeat)
  | memWriteResponse (port : Nat)
  | memWriteError (port : Nat)
  | memRetry (again : RetryEnd)
  | partRestart (part : Nat) (value : Word)
  | linkRetireForced (port : Nat) (value : Word)
  | jrnConsumedWrite (part : Nat) (value : Word)
  | shutdownRequest (value : Word)
  | calSet (value : Word)
  | evtMapWrite (line : Nat) (value : Word)
  | pwrTelemWrite (value : Word)
  | w1cClear (addr : Nat) (value setNow : Word)
  | rcCounterRead (addr add : Nat)
  | splitLoRead (addr : Nat)
  | registerWriteOther (addr : Nat) (value : Word)
  | wsBypass
  | wsExtest
  | wsIntest
  | selftestRun
  | scanAccess
  | mbistAccess
  | nop (group : Nat)
  | step (group : Nat)
  | streamOpen (group : Nat)
  | streamPause (group : Nat)
  | streamResume (group : Nat)
  | streamClose (group : Nat)
  | tableLoadLayer (group : Nat)
  | tableLoadPlacement (group : Nat)
  | tableLoadProfile (group : Nat)
  | tableLoadBias (group : Nat)
  | tableLoadHold (group : Nat)
  | park (group : Nat)
  | parkComplete (part : Nat)
  | wakeCheckDone (part layers : Nat)
  | replayNorm (group : Nat)
  | replayScores (group : Nat)
  | replayTickets (group : Nat)
  | replayPayload (group : Nat)
  | replayCombine (group : Nat)
  | replayReduce (group : Nat)
  | readySend (part : Nat)
  | ready (msg : Msg)
  | podReady (msg : Msg)
  | launch (msg : Msg)
  | stepLaunch (part : Nat)
  | passStart (part : Nat)
  | normalise (part block : Nat)
  | pressRunIssue (part array block tile setNo seg : Nat)
  | pressRunEnd (array : Nat) (errs : List CellErr)
  | tileReduce (part row tile : Nat)
  | softmaxMerge (part row : Nat)
  | tokenSelect (part row : Nat)
  | admission (part : Nat)
  | sortEnd (part layer : Nat)
  | microStepStart (part layer : Nat)
  | roster (msg : Msg)
  | activeSetFixed (part : Nat)
  | tally (msg : Msg)
  | tallyIn (part layer micro : Nat)
  | gwTally (msg : Msg)
  | grant (msg : Msg)
  | gwCollect (part layer micro src : Nat)
  | gwGrant (msg : Msg)
  | pile (msg : Msg)
  | gwPile (msg : Msg)
  | pileIn (part layer micro : Nat)
  | inputRunAlloc (part layer micro : Nat)
  | returnPile (msg : Msg)
  | gwReturn (msg : Msg)
  | returnIn (part layer micro : Nat)
  | voidMsg (msg : Msg)
  | finalMsg (msg : Msg)
  | waitSend (part layer micro handler : Nat)
  | waitMsg (msg : Msg)
  | straggle (msg : Msg)
  | deadDeclare (block : Nat)
  | dead (msg : Msg)
  | withdraw (msg : Msg)
  | biasCounts (msg : Msg)
  | biasTable (msg : Msg)
  | linkMap (msg : Msg)
  | railMap (msg : Msg)
  | portReportSend
  | portReport (msg : Msg)
  | cal (msg : Msg)
  | calSend
  | plan (msg : Msg)
  | sharedTableWrite (part layer : Nat)
  | foldCombine (part layer row : Nat) (mismatch : Nat)
  | passComplete (part layer : Nat)
  | stepComplete (part : Nat)
  | reductionStart (part layer : Nat)
  | nodeAdd (part node chunk : Nat) (mismatch : Nat)
  | fdValue (msg : Msg)
  | fdResult (msg : Msg)
  | chunkSeal (part chunk : Nat)
  | fdAbort (msg : Msg)
  | fdPoison (msg : Msg)
  | sealAudit (part : Nat)
  | preemptRegister (group : Nat)
  | preemptSaveDone (group : Nat)
  | preemptRestore (group : Nat)
  | teardownFinish (part : Nat)
  | journalWrite (part : Nat)
  | hamperAlloc (reqs : List CellReq)
  | hamperRelease (buffer : Bool × Nat) (n : Nat)
  | hamperAddRef (buffer : Bool × Nat) (refs : List Nat) (rest : RefCycle)
  | dataFlitReceive (chan : Nat) (flit : RxFlit)
  | idleFlitReceive (chan : Nat) (flit : RxFlit)
  | failedFlit (port : Nat)
  | nackSend (chan : Nat)
  | nackTimeout (chan seq : Nat)
  | nack (chan : Nat) (flit : Bytes)
  | resend (chan : Nat)
  | hello (chan : Nat) (flit : Bytes)
  | time (chan : Nat) (flit : Bytes) (arrivalPs : Nat)
  | count (chan : Nat) (flit : Bytes)
  | probe (chan : Nat) (flit : Bytes) (roundTripPs : Nat)
  | retire (chan : Nat) (flit : Bytes)
  | relayReject (chan : Nat) (flit : Bytes)
  | relayForward (msg : Msg)
  | phyAlign (port : Nat)
  | trainBoundExpire (port : Nat)
  | retrainExpire (port : Nat)
  | portServiceStart (port : Nat)
  | uplinkIdleFrame (chan : Nat)
  | uplinkFrameLost (port : Nat)
  | uplinkShareRedivide (port : Nat)
  | lkBucketLeak (port : Nat)
  | prBucketLeak (array : Nat)
  | fdBucketLeak (cluster : Nat)
  | memBucketLeak (port : Nat)
  | energyWindowClose (ops : List Nat)
  | drainEnd
  | selftestCheck (cycles vddMv : Nat)
  | logicTestEnd (misr : List (Nat × Nat × BitVec 64)) (reinit : List (Nat × Nat))
  | memoryTestEnd (bits : List BadBit)
  | resultWriteEnd (ok : Bool)
  | lintPart (fail : Option Nat)
  | logWrite
  | calendarTick
  | alignmentLoss (port : Nat)
  | helloSend (chan : Nat)
  | seamCreditReturn (gen2 response : Bool)
  | memRequestAccepted (port : Nat)
  | alwaysOnSupplyLoss
  | alwaysOnSupplyUp
  deriving DecidableEq, Repr

end Sys2Proof
end

