-- ==== Sys2Proof/Decode.lean ====
section
/-! DEFINITION. The command a table word spells. No row of the opcode table gives bits, so no word spells one: the
commands reach the block as transactions and events at its ports, not as words. -/

namespace Sys2Proof

/-- The command that a word of `nbits` bits spells: none, since no row of the table has bits. -/
def decodeTableWord (_nbits _w : Nat) : Option Instr := none

end Sys2Proof
end

