-- ==== Sys2Proof/Machine/Sparse.lean ====
section
/-! DEFINITION. Sparse maps in canonical form (attached memory, the register file) and the byte order of records
(R10): a list of (key, value) pairs, keys strictly rising, no value zero; an unlisted key reads as zero. -/

namespace Sys2Proof.Machine

/-- The value at key `k`; an unlisted key reads as zero. DESIGN CHOICE, log entry 1. -/
def spGet {w : Nat} : List (Nat × BitVec w) → Nat → BitVec w
  | [], _ => 0
  | (a, v) :: r, k => if a = k then v else spGet r k

/-- Store `v` at key `k`, keeping the canonical form. -/
def spSet {w : Nat} : List (Nat × BitVec w) → Nat → BitVec w → List (Nat × BitVec w)
  | [], k, v => if v = 0 then [] else [(k, v)]
  | (a, x) :: r, k, v =>
    if k < a then (if v = 0 then (a, x) :: r else (k, v) :: (a, x) :: r)
    else if k = a then (if v = 0 then r else (k, v) :: r)
    else (a, x) :: spSet r k v

/-- Every key of `m` lies above `k`. -/
def spAbove {w : Nat} (k : Nat) : List (Nat × BitVec w) → Bool
  | [] => true
  | (a, _) :: r => decide (k < a) && spAbove k r

/-- The canonical form: keys strictly rising, no stored zero. -/
def spWf {w : Nat} : List (Nat × BitVec w) → Bool
  | [] => true
  | (a, v) :: r => decide (v ≠ 0) && spAbove a r && spWf r

/-- The `n` bytes from address `a` on. -/
def memRead (m : List (Nat × Byte)) (a : Nat) : Nat → Bytes
  | 0 => []
  | n + 1 => spGet m a :: memRead m (a + 1) n

/-- Store the bytes `bs` from address `a` on. -/
def memWrite (m : List (Nat × Byte)) (a : Nat) : Bytes → List (Nat × Byte)
  | [] => m
  | b :: bs => memWrite (spSet m a b) (a + 1) bs

/-- The number a little-endian field holds (R10). -/
def leNat : Bytes → Nat
  | [] => 0
  | b :: bs => b.toNat + 256 * leNat bs

/-- The number a big-endian field holds (R83). -/
def beNat (bs : Bytes) : Nat := leNat bs.reverse

/-- The `n`-byte little-endian field holding `v` (R10). -/
def toLE : Nat → Nat → Bytes
  | 0, _ => []
  | n + 1, v => BitVec.ofNat 8 v :: toLE n (v / 256)

/-- The `n` bytes at offset `off` of a record. -/
def slice (b : Bytes) (off n : Nat) : Bytes := (b.drop off).take n

/-- The little-endian field of `n` bytes at offset `off` of a record. -/
def fld (b : Bytes) (off n : Nat) : Nat := leNat (slice b off n)

/-- Bits [lo + n − 1 : lo] of a number. -/
def bits (v lo n : Nat) : Nat := v / 2 ^ lo % 2 ^ n

/-- Bit `i` of a number. -/
def bit (v i : Nat) : Bool := v / 2 ^ i % 2 = 1

/-- The number whose bit i is element i of the list. -/
def bitsOf : List Bool → Nat
  | [] => 0
  | b :: r => (if b then 1 else 0) + 2 * bitsOf r

/-- Every byte of a run is zero: a reserved field as R12 requires it. -/
def allZero (b : Bytes) : Bool := b.all (· == 0)

/-- `n` zero bytes. -/
def zeros (n : Nat) : Bytes := List.replicate n 0

/-- Pad a run with zeros to a multiple of `k` bytes. -/
def padTo (k : Nat) (b : Bytes) : Bytes := b ++ zeros ((k - b.length % k) % k)

/-- Cut a run into records of `k` bytes, the last one short if need be; `n` bounds their number. -/
def chunks (k : Nat) : Nat → Bytes → List Bytes
  | 0, _ => []
  | n + 1, b => if b.isEmpty then [] else b.take k :: chunks k n (b.drop k)

/-- ceil(a / b). -/
def ceilDiv (a b : Nat) : Nat := (a + b - 1) / b

/-- Element `i` of a list replaced. -/
def setAt {α : Type} (l : List α) (i : Nat) (f : α → α) : List α :=
  match l, i with
  | [], _ => []
  | x :: r, 0 => f x :: r
  | x :: r, n + 1 => x :: setAt r n f

/-- The number a signed 64-bit field holds. -/
def signed64 (v : Nat) : Int := if v < 2 ^ 63 then (v : Int) else (v : Int) - 2 ^ 64

/-- Insertion into a list kept ascending by a key. -/
def insertBy {α : Type} (le : α → α → Bool) (x : α) : List α → List α
  | [] => [x]
  | y :: r => if le x y then x :: y :: r else y :: insertBy le x r

/-- Stable insertion sort: ascending under `le`, equal elements in their order of arrival. -/
def sortBy {α : Type} (le : α → α → Bool) : List α → List α
  | [] => []
  | x :: r => insertBy le x (sortBy le r)

/-- Strictly ascending under `lt`. -/
def ascending {α : Type} (lt : α → α → Bool) : List α → Bool
  | x :: y :: r => lt x y && ascending lt (y :: r)
  | _ => true

/-- No element occurs twice. -/
def noDup : List Nat → Bool
  | [] => true
  | x :: r => !r.contains x && noDup r

/-- The sum of a list. -/
def sumNat (l : List Nat) : Nat := l.foldl (· + ·) 0

/-- The largest element of a list, 0 for none. -/
def maxNat (l : List Nat) : Nat := l.foldl max 0

end Sys2Proof.Machine
end

