-- ==== Sys2Proof/Machine/Float.lean ====
section
/-! DEFINITION. The arithmetic of the manual: FP32 rounded to nearest, ties to even (R15), the one NaN pattern of
R482, BF16, the FP8, FP4 and MX formats (R159, R161, R185, R224, R269), and the four special functions of Starch
(R216, R217). A value is decoded to an exact dyadic number, computed exactly, and rounded once. -/

namespace Sys2Proof.Machine

/-- A decoded value: NaN, a signed infinity, or ± m · 2^e. -/
inductive Fp where
  | nan
  | inf (neg : Bool)
  | fin (neg : Bool) (m : Nat) (e : Int)
  deriving DecidableEq, Repr

/-- The NaN pattern of R482. -/
def nan32 : F32 := 0x7FC00000#32

/-- The encodings of a binary format with `mb` mantissa bits, exponent bias `bias` and IEEE specials at the
exponent field `top`. -/
def decodeIeee (mb bias top : Nat) (neg : Bool) (mag : Nat) : Fp :=
  let f := mag / 2 ^ mb
  let m := mag % 2 ^ mb
  if f = top then (if m = 0 then .inf neg else .nan)
  else if f = 0 then .fin neg m (1 - (bias : Int) - mb)
  else .fin neg (2 ^ mb + m) ((f : Int) - bias - mb)

/-- The value of an FP32 pattern. -/
def dec32 (x : F32) : Fp := decodeIeee 23 127 255 (decide (2 ^ 31 ≤ x.toNat)) (x.toNat % 2 ^ 31)

/-- The value of a BF16 pattern. -/
def decBf (x : Nat) : Fp := decodeIeee 7 127 255 (decide (2 ^ 15 ≤ x % 2 ^ 16)) (x % 2 ^ 15)

/-- Round m · 2^e to `p` bits with the last bit no lower than 2^emin, to nearest, ties to even (R15). -/
def roundRne (p : Nat) (emin : Int) (m : Nat) (e : Int) : Nat × Int :=
  let len : Int := if m = 0 then 0 else (m.log2 : Int) + 1
  let sh : Int := max (len - p) (emin - e)
  if sh ≤ 0 then (m, e)
  else
    let s := sh.toNat
    let q := m / 2 ^ s
    let r := m % 2 ^ s
    let half := 2 ^ (s - 1)
    (if half < r ∨ (r = half ∧ q % 2 = 1) then q + 1 else q, e + s)

/-- The magnitude bits of m · 2^e rounded to a format with `mb` mantissa bits; `none` where the exponent field
would pass `maxF`. -/
def packMag (mb bias maxF : Nat) (m : Nat) (e : Int) : Option Nat :=
  let emin : Int := 1 - (bias : Int) - mb
  let (q, f) := roundRne (mb + 1) emin m e
  if q = 0 then some 0
  else
    let up := (min ((mb : Int) - (q.log2 : Int)) (f - emin)).toNat
    let q1 := q * 2 ^ up
    let f1 := f - up
    let (q2, f2) := if 2 ^ (mb + 1) ≤ q1 then (q1 / 2, f1 + 1) else (q1, f1)
    if q2 < 2 ^ mb then some q2
    else
      let field := (f2 - emin).toNat + 1
      if maxF < field then none else some (field * 2 ^ mb + (q2 - 2 ^ mb))

/-- The FP32 pattern of an exact value, rounded once (R15). -/
def enc32 : Fp → F32
  | .nan => nan32
  | .inf neg => if neg then 0xFF800000#32 else 0x7F800000#32
  | .fin neg m e =>
    let mag := (packMag 23 127 254 m e).getD 0x7F800000
    BitVec.ofNat 32 (mag + if neg then 2 ^ 31 else 0)

/-- The BF16 pattern of an exact value, rounded to nearest, ties to even (R224, R348); NaN is 0x7FC0 (R482). -/
def encBf : Fp → Nat
  | .nan => 0x7FC0
  | .inf neg => if neg then 0xFF80 else 0x7F80
  | .fin neg m e => (packMag 7 127 254 m e).getD 0x7F80 + if neg then 2 ^ 15 else 0

/-- The exact sum of two values, as IEEE 754 orders the special cases. -/
def fpAdd : Fp → Fp → Fp
  | .nan, _ => .nan
  | _, .nan => .nan
  | .inf a, .inf b => if a = b then .inf a else .nan
  | .inf a, _ => .inf a
  | _, .inf b => .inf b
  | .fin na ma ea, .fin nb mb eb =>
    let e := min ea eb
    let x : Int := ma * 2 ^ (ea - e).toNat
    let y : Int := mb * 2 ^ (eb - e).toNat
    let s : Int := (if na then -x else x) + (if nb then -y else y)
    if s = 0 then .fin (na && nb) 0 e else .fin (decide (s < 0)) s.natAbs e

/-- The exact product of two values. -/
def fpMul : Fp → Fp → Fp
  | .nan, _ => .nan
  | _, .nan => .nan
  | .inf a, .inf b => .inf (a != b)
  | .inf a, .fin b m _ => if m = 0 then .nan else .inf (a != b)
  | .fin a m _, .inf b => if m = 0 then .nan else .inf (a != b)
  | .fin a ma ea, .fin b mb eb => .fin (a != b) (ma * mb) (ea + eb)

/-- The negated value. -/
def fpNeg : Fp → Fp
  | .nan => .nan
  | .inf a => .inf (!a)
  | .fin a m e => .fin (!a) m e

/-- The quotient of two values, with a sticky last bit below every rounding position. -/
def fpDiv : Fp → Fp → Fp
  | .nan, _ => .nan
  | _, .nan => .nan
  | .inf _, .inf _ => .nan
  | .inf a, .fin b _ _ => .inf (a != b)
  | .fin a _ _, .inf b => .fin (a != b) 0 0
  | .fin a ma ea, .fin b mb eb =>
    if mb = 0 then (if ma = 0 then .nan else .inf (a != b))
    else
      let k := 64 + mb.log2
      let n := ma * 2 ^ k
      .fin (a != b) (2 * (n / mb) + if n % mb = 0 then 0 else 1) (ea - eb - k - 1)

/-- FP32 addition (R15, R482). -/
def f32Add (x y : F32) : F32 := enc32 (fpAdd (dec32 x) (dec32 y))
/-- FP32 subtraction. -/
def f32Sub (x y : F32) : F32 := enc32 (fpAdd (dec32 x) (fpNeg (dec32 y)))
/-- FP32 multiplication. -/
def f32Mul (x y : F32) : F32 := enc32 (fpMul (dec32 x) (dec32 y))
/-- FP32 division, correctly rounded (R213). -/
def f32Div (x y : F32) : F32 := enc32 (fpDiv (dec32 x) (dec32 y))
/-- The FP32 value of a whole number. -/
def f32OfNat (n : Nat) : F32 := enc32 (.fin false n 0)
/-- Whether a pattern is a NaN. -/
def isNan32 (x : F32) : Bool := decide (0x7F800000 < x.toNat % 2 ^ 31)
/-- Whether a pattern is finite. -/
def isFin32 (x : F32) : Bool := decide (x.toNat % 2 ^ 31 < 0x7F800000)
/-- The absolute value of a pattern. -/
def f32Abs (x : F32) : F32 := BitVec.ofNat 32 (x.toNat % 2 ^ 31)
/-- +1.0. -/
def f32One : F32 := 0x3F800000#32
/-- −∞. -/
def f32NegInf : F32 := 0xFF800000#32
/-- +∞. -/
def f32PosInf : F32 := 0x7F800000#32

/-- BF16 to FP32, exact; a NaN operand does not carry its payload (R482). -/
def bfTo32 (x : Nat) : F32 := enc32 (decBf x)
/-- FP32 to BF16, rounded to nearest, ties to even (R224). -/
def f32ToBf (x : F32) : Nat := encBf (dec32 x)

/-- Whether x < y as numbers; false with a NaN. -/
def f32Lt (x y : F32) : Bool :=
  match dec32 x, dec32 y with
  | .nan, _ => false
  | _, .nan => false
  | .inf a, .inf b => a && !b
  | .inf a, _ => a
  | _, .inf b => !b
  | .fin na ma ea, .fin nb mb eb =>
    let e := min ea eb
    let u : Int := ma * 2 ^ (ea - e).toNat
    let v : Int := mb * 2 ^ (eb - e).toNat
    decide ((if na then -u else u) < (if nb then -v else v))

/-- The canonical comparison key of R235. -/
def canonKey (u : F32) : Nat :=
  let u := if isNan32 u then 0xFF800000 else u.toNat
  let u := if u = 0x80000000 then 0 else u
  if 2 ^ 31 ≤ u then 2 ^ 32 - 1 - u else u + 2 ^ 31

/-- canon(x) of R235: NaN becomes −∞ and −0 becomes +0. -/
def canon (u : F32) : F32 :=
  if isNan32 u then f32NegInf else if u = 0x80000000#32 then 0 else u

/-! ### Narrow formats -/

/-- FP8 E4M3: no infinities, 0x7F and 0xFF are NaN (R159). -/
def decE4m3 (x : Nat) : Fp :=
  let mag := x % 128
  if mag = 0x7F then .nan else
    let neg := decide (128 ≤ x % 256)
    if mag / 8 = 0 then .fin neg (mag % 8) (-9) else .fin neg (8 + mag % 8) ((mag / 8 : Nat) - 10 : Int)

/-- FP8 E5M2, with IEEE specials (R159). -/
def decE5m2 (x : Nat) : Fp := decodeIeee 2 15 31 (decide (128 ≤ x % 256)) (x % 128)

/-- FP4 E2M1 (R159). -/
def decE2m1 (x : Nat) : Fp :=
  let neg := decide (8 ≤ x % 16)
  let mag := x % 8
  if mag / 2 = 0 then .fin neg (mag % 2) (-1) else .fin neg (2 + mag % 2) ((mag / 2 : Nat) - 2 : Int)

/-- Scale a value by the E8M0 byte X: 2^(X − 127), NaN for 0xFF (R161, R185). -/
def scaleE8 (x : Nat) : Fp → Fp
  | .nan => .nan
  | .inf n => if x = 255 then .nan else .inf n
  | .fin n m e => if x = 255 then .nan else .fin n m (e + x - 127)

/-- FP8 E4M3 of a value, rounded to nearest, ties to even, saturating at ±448 (R224), and whether it saturated:
a finite magnitude above 448 or an infinity. -/
def encE4m3 : Fp → Nat × Bool
  | .nan => (0x7F, false)
  | .inf neg => (0x7E + (if neg then 128 else 0), true)
  | .fin neg m e =>
    let s := if neg then 128 else 0
    let past : Bool := decide (0 < m) &&
      (let f := min e 0
       decide (448 * 2 ^ (0 - f).toNat < m * 2 ^ (e - f).toNat))
    match packMag 3 7 15 m e with
    | some b => (min b 0x7E + s, past)
    | none => (0x7E + s, past)

/-- floor(log2 v) of a finite non-zero value. -/
def floorLog2 (m : Nat) (e : Int) : Int := (m.log2 : Int) + e

/-- One 32-element block of an MXFP8 E4M3 payload row (R269): the scale byte and the 32 element bytes. -/
def mxBlock (xs : List F32) : Bytes :=
  let vs := xs.map dec32
  if vs.any (fun v => decide (v = .nan)) then 0xFF#8 :: zeros xs.length
  else
    let logs := vs.filterMap (fun v => match v with
      | .fin _ m e => if m = 0 then none else some (floorLog2 m e)
      | _ => none)
    let x : Nat := match logs with
      | [] => 127
      | l :: r => (max 0 (min 254 (r.foldl max l - 8 + 127))).toNat
    BitVec.ofNat 8 x :: vs.map (fun v => match v with
      | .fin n m e => BitVec.ofNat 8 (encE4m3 (.fin n m (e - x + 127))).1
      | .inf n => BitVec.ofNat 8 (0x7E + if n then 128 else 0)
      | .nan => 0#8)

/-! ### Special functions (R216, R217)

Each function is computed with 320 fractional bits and rounded once; log entry 7. -/

/-- Fractional bits of the fixed-point evaluation. -/
def fxP : Nat := 320

/-- Σ 2^P / (k · 2^k) for k = n, …, 1: ln 2 in fixed point. -/
def fxLn2 : Nat → Nat
  | 0 => 0
  | n + 1 => fxLn2 n + 2 ^ fxP / ((n + 1) * 2 ^ (n + 1))

/-- Σ t_k with t_k = t · r / k for `n` terms, from index `k`. -/
def fxSeries (r : Nat) : Nat → Nat → Nat → Nat
  | 0, _, _ => 0
  | n + 1, k, t => t + fxSeries r n (k + 1) (t * r / 2 ^ fxP / (k + 1))

/-- exp(x) for a finite x with |x| < 256, as (m, e) with value m · 2^e, exact to about 300 bits. -/
def fxExp (neg : Bool) (m : Nat) (e : Int) : Nat × Int :=
  let ln2 := fxLn2 330
  let a : Int := e + fxP
  let ax : Nat := if 0 ≤ a then m * 2 ^ a.toNat else m / 2 ^ (-a).toNat
  let x : Int := if neg then -(ax : Int) else ax
  let n : Int := x / ln2
  let r : Nat := (x - n * ln2).toNat
  (fxSeries r 90 0 (2 ^ fxP), n - fxP)

/-- Whether |m · 2^e| ≥ b. -/
def absGe (m : Nat) (e : Int) (b : Nat) : Bool :=
  let f := min e 0
  decide (b * 2 ^ (0 - f).toNat ≤ m * 2 ^ (e - f).toNat)

/-- exp of R216. -/
def f32Exp (x : F32) : F32 :=
  match dec32 x with
  | .nan => nan32
  | .inf neg => if neg then 0 else f32PosInf
  | .fin neg m e =>
    if m = 0 then f32One
    else if absGe m e 128 then (if neg then 0 else f32PosInf)
    else let (q, f) := fxExp neg m e; enc32 (.fin false (2 * q + 1) (f - 1))

/-- logistic(x) = 1 / (1 + exp(−x)) of R216. -/
def f32Logistic (x : F32) : F32 :=
  match dec32 x with
  | .nan => nan32
  | .inf neg => if neg then 0 else f32One
  | .fin neg m e =>
    if m = 0 then 0x3F000000#32
    else if absGe m e 128 then (if neg then 0 else f32One)
    else
      let (q, f) := fxExp (!neg) m e
      let g := min f 0
      let d := q * 2 ^ (f - g).toNat + 2 ^ (0 - g).toNat
      let k : Nat := 700
      enc32 (.fin false (2 * (2 ^ (k + (0 - g).toNat) / d) + 1) (-(k : Int) - 1))

/-- tanh of R216. -/
def f32Tanh (x : F32) : F32 :=
  match dec32 x with
  | .nan => nan32
  | .inf neg => if neg then 0xBF800000#32 else f32One
  | .fin neg m e =>
    if m = 0 then x
    else if absGe m e 32 then (if neg then 0xBF800000#32 else f32One)
    else if !absGe (m * 4096) e 1 then x
    else
      let (q, f) := fxExp false m (e + 1)
      let g := min f 0
      let ex := q * 2 ^ (f - g).toNat
      let one := 2 ^ (0 - g).toNat
      let k : Nat := 400
      enc32 (.fin neg (2 * ((ex - one) * 2 ^ k / (ex + one)) + 1) (-(k : Int) - 1))

/-- Integer square root by digits: the largest r with r² ≤ v, `n` binary digits. -/
def isqrt (v : Nat) : Nat → Nat → Nat
  | 0, r => r
  | n + 1, r => let t := r + 2 ^ n; isqrt v n (if t * t ≤ v then t else r)

/-- rsqrt(x) = 1 / sqrt(x) of R216. -/
def f32Rsqrt (x : F32) : F32 :=
  match dec32 x with
  | .nan => nan32
  | .inf neg => if neg then nan32 else 0
  | .fin neg m e =>
    if m = 0 then (if neg then f32NegInf else f32PosInf)
    else if neg then nan32
    else
      let (m, e) := if e % 2 = 0 then (m, e) else (2 * m, e - 1)
      let v := 2 ^ 240 / m
      let r := isqrt v 121 0
      let exact := decide (r * r * m = 2 ^ 240)
      enc32 (.fin false (2 * r + if exact then 0 else 1) (-120 - e / 2 - 1))

end Sys2Proof.Machine
end

