-- ==== Sys2Proof/Machine/Crypto.lean ====
section
/-! DEFINITION. The checks over bytes: CRC-64 (R263, R291), CRC-32C (R83), SHA-384 and ECDSA P-384 (R79, R85). The
two cryptographic functions are the standards' own (FIPS 180-4, FIPS 186-5), which R79 and R85 name. -/

namespace Sys2Proof.Machine

/-- One bit step of the unreflected CRC-64. -/
def crc64Bit (c : BitVec 64) : BitVec 64 :=
  if c.msb then (c <<< 1) ^^^ 0x42F0E1EBA9EA3693#64 else c <<< 1

/-- Eight bit steps after one byte is taken in at the top. -/
def crc64Byte (c : BitVec 64) (b : Byte) : BitVec 64 :=
  crc64Bit (crc64Bit (crc64Bit (crc64Bit (crc64Bit (crc64Bit (crc64Bit (crc64Bit
    (c ^^^ (b.setWidth 64 <<< 56)))))))))

/-- The wake-signature CRC of R263: initial value 0, no final XOR. -/
def crcWake (bs : Bytes) : BitVec 64 := bs.foldl crc64Byte 0

/-- The flit, journal and digest CRC of R291: initial value and final XOR all ones. -/
def crc64 (bs : Bytes) : BitVec 64 := (bs.foldl crc64Byte (BitVec.allOnes 64)) ^^^ BitVec.allOnes 64

/-- One bit step of the reflected CRC-32C. -/
def crc32Bit (c : BitVec 32) : BitVec 32 :=
  if c.getLsbD 0 then (c >>> 1) ^^^ 0x82F63B78#32 else c >>> 1

/-- CRC-32C of R83: reflected, initial value and final XOR 0xFFFF_FFFF. -/
def crc32c (bs : Bytes) : BitVec 32 :=
  (bs.foldl (fun c b => crc32Bit (crc32Bit (crc32Bit (crc32Bit (crc32Bit (crc32Bit (crc32Bit (crc32Bit
    (c ^^^ b.setWidth 32))))))))) (BitVec.allOnes 32)) ^^^ BitVec.allOnes 32

/-! ### SHA-384 -/

/-- One bit of the CRC-32 of IEEE 802.3, reflected. -/
def fcsBit (c : BitVec 32) : BitVec 32 := if c.getLsbD 0 then (c >>> 1) ^^^ 0xEDB88320#32 else c >>> 1

/-- The frame check sequence of IEEE 802.3 (R60). -/
def fcs32 (bs : Bytes) : BitVec 32 :=
  (bs.foldl (fun c b =>
    let x := c ^^^ b.setWidth 32
    fcsBit (fcsBit (fcsBit (fcsBit (fcsBit (fcsBit (fcsBit (fcsBit x)))))))) (BitVec.allOnes 32)) ^^^ BitVec.allOnes 32

/-- The eighty round constants of SHA-384, in four parts. -/
def shaK1 : List (BitVec 64) := [
  0x428a2f98d728ae22#64, 0x7137449123ef65cd#64, 0xb5c0fbcfec4d3b2f#64, 0xe9b5dba58189dbbc#64,
  0x3956c25bf348b538#64, 0x59f111f1b605d019#64, 0x923f82a4af194f9b#64, 0xab1c5ed5da6d8118#64,
  0xd807aa98a3030242#64, 0x12835b0145706fbe#64, 0x243185be4ee4b28c#64, 0x550c7dc3d5ffb4e2#64,
  0x72be5d74f27b896f#64, 0x80deb1fe3b1696b1#64, 0x9bdc06a725c71235#64, 0xc19bf174cf692694#64,
  0xe49b69c19ef14ad2#64, 0xefbe4786384f25e3#64, 0x0fc19dc68b8cd5b5#64, 0x240ca1cc77ac9c65#64]
/-- Round constants 20 to 39. -/
def shaK2 : List (BitVec 64) := [
  0x2de92c6f592b0275#64, 0x4a7484aa6ea6e483#64, 0x5cb0a9dcbd41fbd4#64, 0x76f988da831153b5#64,
  0x983e5152ee66dfab#64, 0xa831c66d2db43210#64, 0xb00327c898fb213f#64, 0xbf597fc7beef0ee4#64,
  0xc6e00bf33da88fc2#64, 0xd5a79147930aa725#64, 0x06ca6351e003826f#64, 0x142929670a0e6e70#64,
  0x27b70a8546d22ffc#64, 0x2e1b21385c26c926#64, 0x4d2c6dfc5ac42aed#64, 0x53380d139d95b3df#64,
  0x650a73548baf63de#64, 0x766a0abb3c77b2a8#64, 0x81c2c92e47edaee6#64, 0x92722c851482353b#64]
/-- Round constants 40 to 59. -/
def shaK3 : List (BitVec 64) := [
  0xa2bfe8a14cf10364#64, 0xa81a664bbc423001#64, 0xc24b8b70d0f89791#64, 0xc76c51a30654be30#64,
  0xd192e819d6ef5218#64, 0xd69906245565a910#64, 0xf40e35855771202a#64, 0x106aa07032bbd1b8#64,
  0x19a4c116b8d2d0c8#64, 0x1e376c085141ab53#64, 0x2748774cdf8eeb99#64, 0x34b0bcb5e19b48a8#64,
  0x391c0cb3c5c95a63#64, 0x4ed8aa4ae3418acb#64, 0x5b9cca4f7763e373#64, 0x682e6ff3d6b2b8a3#64,
  0x748f82ee5defb2fc#64, 0x78a5636f43172f60#64, 0x84c87814a1f0ab72#64, 0x8cc702081a6439ec#64]
/-- Round constants 60 to 79. -/
def shaK4 : List (BitVec 64) := [
  0x90befffa23631e28#64, 0xa4506cebde82bde9#64, 0xbef9a3f7b2c67915#64, 0xc67178f2e372532b#64,
  0xca273eceea26619c#64, 0xd186b8c721c0c207#64, 0xeada7dd6cde0eb1e#64, 0xf57d4f7fee6ed178#64,
  0x06f067aa72176fba#64, 0x0a637dc5a2c898a6#64, 0x113f9804bef90dae#64, 0x1b710b35131c471b#64,
  0x28db77f523047d84#64, 0x32caab7b40c72493#64, 0x3c9ebe0a15c9bebc#64, 0x431d67c49c100d4c#64,
  0x4cc5d4becb3e42b6#64, 0x597f299cfc657e2a#64, 0x5fcb6fab3ad6faec#64, 0x6c44198c4a475817#64]

/-- The initial hash value of SHA-384. -/
def shaInit : List (BitVec 64) := [
  0xcbbb9d5dc1059ed8#64, 0x629a292a367cd507#64, 0x9159015a3070dd17#64, 0x152fecd8f70e5939#64,
  0x67332667ffc00b31#64, 0x8eb44a8768581511#64, 0xdb0c2e0d64f98fa7#64, 0x47b5481dbefa4fa4#64]

/-- The message schedule, newest word first: `n` more words after the sixteen given. -/
def shaSchedule : Nat → List (BitVec 64) → List (BitVec 64)
  | 0, w => w
  | n + 1, w =>
    let g (i : Nat) := w.getD i 0
    let s0 := (g 14).rotateRight 1 ^^^ (g 14).rotateRight 8 ^^^ (g 14 >>> 7)
    let s1 := (g 1).rotateRight 19 ^^^ (g 1).rotateRight 61 ^^^ (g 1 >>> 6)
    shaSchedule n ((s1 + g 6 + s0 + g 15) :: w)

/-- One round of the compression function on the eight working words. -/
def shaRound (v : List (BitVec 64)) (kw : BitVec 64 × BitVec 64) : List (BitVec 64) :=
  let g (i : Nat) := v.getD i 0
  let a := g 0
  let e := g 4
  let t1 := g 7 + (e.rotateRight 14 ^^^ e.rotateRight 18 ^^^ e.rotateRight 41)
    + ((e &&& g 5) ^^^ (~~~e &&& g 6)) + kw.1 + kw.2
  let t2 := (a.rotateRight 28 ^^^ a.rotateRight 34 ^^^ a.rotateRight 39)
    + ((a &&& g 1) ^^^ (a &&& g 2) ^^^ (g 1 &&& g 2))
  [t1 + t2, a, g 1, g 2, g 3 + t1, e, g 5, g 6]

/-- The compression of one 128-byte block. -/
def shaBlock (h : List (BitVec 64)) (blk : Bytes) : List (BitVec 64) :=
  let w0 := (chunks 8 16 blk).map (fun c => BitVec.ofNat 64 (beNat c))
  let w := (shaSchedule 64 w0.reverse).reverse
  let v := ((shaK1 ++ shaK2 ++ shaK3 ++ shaK4).zip w).foldl shaRound h
  List.zipWith (· + ·) h v

/-- SHA-384 of a byte string (FIPS 180-4): 48 bytes. -/
def sha384 (m : Bytes) : Bytes :=
  let n := m.length
  let p := m ++ [0x80#8] ++ zeros ((239 - n % 128) % 128) ++ (toLE 16 (8 * n)).reverse
  let h := (chunks 128 (p.length / 128) p).foldl shaBlock shaInit
  (h.take 6).flatMap (fun w => (toLE 8 w.toNat).reverse)

/-! ### ECDSA on P-384 -/

/-- The field prime of P-384. -/
def ecP : Nat := 2 ^ 384 - 2 ^ 128 - 2 ^ 96 + 2 ^ 32 - 1
/-- The group order of P-384. -/
def ecN : Nat :=
  0xFFFFFFFFFFFFFFFFFFFFFFFFFFFFFFFFFFFFFFFFFFFFFFFFC7634D81F4372DDF581A0DB248B0A77AECEC196ACCC52973
/-- The coefficient b of P-384. -/
def ecB : Nat :=
  0xB3312FA7E23EE7E4988E056BE3F82D19181D9C6EFE8141120314088F5013875AC656398D8A2ED19D2A85C8EDD3EC2AEF
/-- The base point of P-384. -/
def ecG : Nat × Nat :=
  (0xAA87CA22BE8B05378EB1C71EF320AD746E1D3B628BA79B9859F741E082542A385502F25DBF55296C3A545E3872760AB7,
   0x3617DE4A96262C6F5D9E98BF9292DC29F8F41DBD289A147CE9DA3113B5F0B8C00A60B1CE1D7E819D7A431D7C90EA0E5F)

/-- b ^ e mod m by `n` binary digits of e, most significant first. -/
def powMod (m b e : Nat) : Nat → Nat → Nat
  | 0, r => r
  | n + 1, r => let s := r * r % m; powMod m b e n (if bit e n then s * b % m else s)

/-- The inverse of x modulo the prime m. -/
def invMod (m x : Nat) : Nat := powMod m (x % m) (m - 2) 384 1

/-- Point addition on P-384; `none` is the point at infinity. -/
def ecAdd : Option (Nat × Nat) → Option (Nat × Nat) → Option (Nat × Nat)
  | none, q => q
  | p, none => p
  | some (x1, y1), some (x2, y2) =>
    if x1 = x2 ∧ (y1 + y2) % ecP = 0 then none
    else
      let l := if x1 = x2 then (3 * x1 * x1 + (ecP - 3)) * invMod ecP (2 * y1) % ecP
        else (y2 + ecP - y1) * invMod ecP (x2 + ecP - x1) % ecP
      let x3 := (l * l + 2 * ecP - x1 - x2) % ecP
      some (x3, (l * (x1 + ecP - x3) + ecP - y1) % ecP)

/-- k · p by `n` binary digits of k. -/
def ecMul (k : Nat) (p : Option (Nat × Nat)) : Nat → Option (Nat × Nat) → Option (Nat × Nat)
  | 0, r => r
  | n + 1, r => let d := ecAdd r r; ecMul k p n (if bit k n then ecAdd d p else d)

/-- Whether (r, s) is a valid signature over the digest under the public key x ‖ y (FIPS 186-5). -/
def ecdsaOk (pubkey digest sigR sigS : Bytes) : Bool :=
  let x := beNat (pubkey.take 48)
  let y := beNat (pubkey.drop 48)
  let r := beNat sigR
  let s := beNat sigS
  let onCurve := decide (x < ecP) && decide (y < ecP)
    && decide (y * y % ecP = (x * x * x + (ecP - 3) * x + ecB) % ecP)
  let w := invMod ecN s
  let u1 := beNat digest * w % ecN
  let u2 := r * w % ecN
  onCurve && decide (0 < r) && decide (r < ecN) && decide (0 < s) && decide (s < ecN)
    && (match ecAdd (ecMul u1 (some ecG) 384 none) (ecMul u2 (some (x, y)) 384 none) with
      | none => false
      | some (px, _) => decide (px % ecN = r))

end Sys2Proof.Machine
end

