-- ==== Sys2Proof/Config.lean ====
section
/-! DEFINITION. What an implementation fixes and the manual does not: constants and free values without a body. -/

namespace Sys2Proof.Config

/-- ARITH_CLASS bits [15:0] are assigned per netlist and given by no rule of the manual (R382): a free value.
Log entry 4. -/
opaque implRaw : BitVec 16

/-- The implementation class of R382, which never reads 0x0000. -/
def implClass : BitVec 16 := if implRaw = 0 then 1 else implRaw

/-- The contents of a memory range the manual leaves undefined (R375, R407): one free byte per draw and offset.
Log entry 5. -/
opaque freeByte : Nat → Nat → Byte

/-- The reference signature that the boot/NVM ROM holds for MISR partition `part` of domain `dom` (R446): given by
no rule of the manual. Log entry 6. -/
opaque misrReference (dom part : Nat) : BitVec 64

/-- The block number of the pod manager of pod `q`: the image names only a member's own role (R80), and no rule says
how a member knows its manager. Log entry 11. -/
opaque podManager (q : Nat) : Nat

/-- The pod of the head manager. Log entry 11. -/
opaque headPod : Nat

/-- The bias window U that a member without POD_MGR goes by; the manual gives such a member no section to read it from.
Log entry 14. -/
opaque biasWindow : Nat

/-- What STITCH_PHASE.PHASE_ERR shows of a phase error that its 16 signed bits do not hold: the manual states no value.
Log entry 15. -/
opaque phaseOut : Int → BitVec 16

/-- TAG of the n-th outbound request: the manual names a TAG field and no rule by which the block chooses it (R42).
Log entry 94. -/
opaque outTag (n : Nat) : Byte

end Sys2Proof.Config
end

