-- ==== Sys2Proof/Machine/State.lean ====
section
/-! DEFINITION. The state of one block: everything the manual gives a member, as plain data, and the state right
after reset (R39, R89). Register words that the block only counts or latches live in the register file `regs`,
keyed by management address; every other register is a view of the fields below (Machine/Regs.lean). -/

namespace Sys2Proof.Machine

/-- Why the block stops. No rule of the manual stops it: every fault the manual names is an effect on the state.
The type has one constructor so that it is not empty; no meaning answers it. -/
inductive Fault where
  /-- Raised by nothing. Safe. -/
  | unused
  deriving DecidableEq, Repr

/-- Why the model gives a command no meaning. -/
inductive Refusal where
  /-- Raised by the dispatcher for a row not modelled yet, by mnemonic. Safe: nothing can be proved of it. -/
  | notModelled (mnemonic : String)
  deriving DecidableEq, Repr

/-! ### Boot and identity -/

/-- What the block drives on the boot port besides erasing and programming (R62, R63, R86): BOOT_FRST_N held low for some
µs, a Read SFDP (0x5A), a single-SPI 4-byte-address Fast Read (0x0C) and an 8D-8D-8D read, each an address and bytes. -/
inductive BootXfer where
  | reset (us : Nat)
  | sfdp (addr len : Nat)
  | single (addr len : Nat)
  | octal (addr len : Nat)
  deriving DecidableEq, Repr

/-- The start sequence and the boot registers (R78 to R97). -/
structure BootSt where
  rstLow    : Bool
  /-- transfers driven on the boot port since RST_N deasserted -/
  xfers     : List BootXfer
  state     : Nat
  code      : Nat
  detail    : Nat
  waiting   : Option Nat
  copySel   : Option CopyId
  octalSel  : Bool
  noRecord  : Bool
  stale     : Bool
  partDown  : Bool
  copyRej   : Bool
  reasonA   : Nat
  reasonB   : Nat
  slowA     : Bool
  slowB     : Bool
  /-- a single-SPI re-read of the copy is still to complete (R86) -/
  againA    : Bool
  againB    : Bool
  sfdp      : Option Sfdp
  octalMode : Bool
  hdrA      : Bytes
  hdrB      : Bytes
  imgA      : Bytes
  imgB      : Bytes
  imgHash   : Bytes
  startUs   : Nat
  keys      : List Word
  keyData   : Word
  keyWord   : Nat
  keyBusy   : Option (Nat × Word)
  keyErr    : Bool
  recordUse : Bool
  repairs   : List Bytes
  lock      : Bool
  deriving DecidableEq, Repr

/-- The loaded image: header of the selected copy and the sections by TYPE (R80 to R82). -/
structure ImgSt where
  hdr      : Bytes
  sections : List (Nat × Bytes)
  deriving DecidableEq, Repr

/-- Units in service: bit masks of usable and retired units (R91, R476). -/
structure UnitSt where
  arrays    : Nat
  arraysRet : Nat
  arraysPend : Nat
  folds     : Nat
  foldsRet  : Nat
  foldsPend : Nat
  links     : Nat
  memPorts  : Nat
  memRet    : Nat
  /-- UNIT_ARRAYS, the Fold field of UNIT_MISC and UNIT_LINKS as the registers show them (R476) -/
  shownArrays : Nat
  shownFolds  : Nat
  shownMem    : Nat
  shownLinks  : Nat
  /-- ACTIVE of ST_STATUS: the cores whose Starch slice serves a partition, from PARTITION_UP or the last step boundary on
  (R234) -/
  slices      : Nat
  deriving DecidableEq, Repr

/-! ### Stitch time -/

/-- The stitch unit (R98 to R109, R312, R313). STATE: 0 ACQUIRING, 1 LOCKED, 2 HOLDOVER, 3 SOURCE. -/
structure StitchSt where
  count     : Nat
  state     : Nat
  src       : Nat
  relay     : Nat
  lockRun   : Nat
  badRun    : Nat
  silentRun : Nat
  phasePs   : Int
  /-- phase error that the source's last symbol, edge or TIME showed (R105, R106, R312) -/
  measured  : Int
  /-- own count at the stitch of the source's last mark, and the reference's count less the own one (R109, R312) -/
  markOwn   : Option Nat
  refOfs    : Int
  missRun   : Nat
  goodRun   : Nat
  refLost   : Bool
  relocked  : Bool
  directRun : Nat
  heard     : Option Nat
  /-- count of the stitch last marked (R312) -/
  marked    : Nat
  /-- per channel: count at which its last COUNT or TIME left (R312, R313) -/
  sentAt    : List (Nat × Nat)
  /-- a time input of the source, and a symbol of the direct port, since the last boundary; stitches since the last
  direct symbol (R105, R107) -/
  got       : Bool
  directGot : Bool
  directSilent : Nat
  /-- per manager channel: COUNT, TX_OFS of the peer's last TIME, our count and offset at its arrival -/
  peers     : List (Nat × Nat × Nat × Nat × Nat)
  roundPs   : Int
  deriving DecidableEq, Repr

/-! ### Attach port -/

/-- A notification waiting to leave (R49, R137, R149, R285, R419). `kind`: 0 completion, 1 work-ready, 2 divert,
3 abort. `held` is set while its record or writes are not yet visible (R76). -/
structure Note where
  kind : Nat
  key  : Nat
  gen2 : Bool
  dom  : Nat
  addr : Nat
  data : Bytes
  held : Bool
  deriving DecidableEq, Repr

/-- A response driven or waiting on SEAM3_IP or SEAM2_IP (R42): `beats` is its BEATS field, `data` its beats. -/
structure SeamRsp where
  gen2 : Bool
  sts  : Nat
  tag  : Nat
  dom  : Nat
  beats : Nat
  data : Bytes
  deriving DecidableEq, Repr

/-- A request driven on SEAM3_OQ or SEAM2_OQ (R42, R49): generation, OPC, domain, TAG, BEATS, address, the whole beat. -/
structure SeamOut where
  gen2 : Bool
  opc  : Nat
  dom  : Nat
  tag  : Nat
  beats : Nat
  addr : Nat
  beat : Bytes
  deriving DecidableEq, Repr

/-- The attach port (R41 to R50): the credits that the block holds for the channels toward the host, those that it has
advertised for the channels from the host (IQ and OP), the credit returns that it has driven on the inbound request
channels, and the responses and notifications waiting and driven. -/
structure SeamSt where
  crdIp   : Nat
  crdOq   : Nat
  crdIp2  : Nat
  crdOq2  : Nat
  advIq   : Nat
  advOp   : Nat
  advIq2  : Nat
  advOp2  : Nat
  retIq   : Nat
  retIq2  : Nat
  rspWait : List SeamRsp
  rspSent : List SeamRsp
  /-- expert-engine completions accepted since the last stitch boundary: slot and the eight used bytes (R111) -/
  cmpls   : List (Nat × Bytes)
  notes   : List Note
  sent    : List SeamOut
  deriving DecidableEq, Repr

/-! ### Memory ports -/

/-- A read request of a port (R51): attached-memory address, port-local granule address as SMPn_AQ_ADDR carries it,
granules left, object; `stalled` marks one that the seal table has stalled (R369). -/
structure ReadReq where
  port : Nat
  addr : Nat
  gran : Nat
  left : Nat
  obj  : MemObj
  stalled : Bool
  deriving DecidableEq, Repr

/-- A write request of a port (R51): attached-memory address, port-local granule address, bytes and object. The bytes of
its granules outside the range have their byte enables clear. -/
structure WriteReq where
  port  : Nat
  addr  : Nat
  gran  : Nat
  len   : Nat
  obj   : MemObj
  deriving DecidableEq, Repr

/-- A repetition waiting for its slot (R406). -/
structure Retry where
  port  : Nat
  write : Bool
  addr  : Nat
  len   : Nat
  obj   : MemObj
  deriving DecidableEq, Repr

/-- The twelve memory ports (R51 to R56, R406 to R408): requests outstanding, and requests that wait for a stitch in which
their owner has a slot on their port (R114). -/
structure MemSt where
  reads   : List ReadReq
  writes  : List WriteReq
  readQ   : List ReadReq
  writeQ  : List WriteReq
  retries : List Retry
  buckets : List Nat
  deriving DecidableEq, Repr

/-! ### Hamper -/

/-- A chain of cells (R171): `cells` lists (memory pool?, cell), head first; `poison` those with POISON set; `data` the
bytes that the unit that took the cells put into them, from the first cell on (R24). -/
structure Chain where
  id     : Nat
  owner  : Nat
  cells  : List (Bool × Nat)
  ref    : Nat
  poison : List (Bool × Nat)
  data   : Bytes
  /-- the pass whose data the chain holds (partition, layer), for R372 -/
  pass   : Option (Nat × Nat)
  deriving DecidableEq, Repr

/-- The buffer pools: live chains, reservations of memory cells per owner (R281), staging cells withheld by the
Lint sweep (R459), requests presented again (R176). -/
structure HamperSt where
  chains   : List Chain
  /-- contents that freed staging buffers leave in their cells, by head cell (R180) -/
  left     : List (Nat × Bytes)
  nextId   : Nat
  reserved : List (Nat × Nat)
  withheld : List Nat
  waiting  : List CellReq
  deriving DecidableEq, Repr

/-! ### Tables, partitions and groups -/

/-- One bank of a table: epoch, entries in section format (R255). For the bias table the entries are the bank number
in attached memory, held in `ix`. -/
structure Bank where
  epoch   : Nat
  entries : List Bytes
  ix      : Nat
  digest  : Nat
  deriving DecidableEq, Repr

/-- The two banks of a table. `sh`: 0 EMPTY, 1 PENDING, 2 RETIRED. -/
structure TablePair where
  live   : Bank
  shadow : Bank
  sh     : Nat
  deriving DecidableEq, Repr

/-- A segment of a STEP as submitted (R134); `kept` is clear where R136 or R148 dropped it. -/
structure Seg where
  stream : Nat
  kind   : Nat
  client : Nat
  pos    : Nat
  cnt    : Nat
  kept   : Bool
  prio   : Nat
  dline  : Nat
  seed   : Nat
  last   : Nat
  deriving DecidableEq, Repr

/-- The states of a ticket on its way (R251, R280, R337): 0 to be admitted, 1 admitted, 2 deferred at the source,
3 deferred by a grant, 4 sent, 5 returned, 6 spilled, 7 lost, 8 dropped. -/
structure Ticket where
  row     : Nat
  stream  : Nat
  pos     : Nat
  expert  : Nat
  rank    : Nat
  dest    : Nat
  replica : Nat
  subst   : Bool
  gate    : F32
  micro   : Nat
  order   : Nat
  st      : Nat
  out     : Bytes
  /-- the chain that holds the returned row -/
  chain   : Option Nat
  deriving DecidableEq, Repr

/-- A score tile of one token row in the assembly store (R187): the core of its assembler, segments added, scores,
partials of later segments that wait for an earlier one, local pair (R227). -/
structure TileSt where
  tile   : Nat
  core   : Nat
  segs   : Nat
  scores : List F32
  early  : List (Nat × List F32)
  pair   : Option (F32 × F32)
  deriving DecidableEq, Repr

/-- A token row of a layer pass. -/
structure Tok where
  row     : Nat
  stream  : Nat
  pos     : Nat
  prio    : Nat
  y       : List F32
  actHi   : List Nat
  actLo   : List Nat
  payload : Bytes
  tiles   : List TileSt
  m       : F32
  z       : F32
  nextTile : Nat
  chosen  : List (Nat × F32)
  cand    : List (Nat × F32)
  refW    : List (Nat × F32)
  selected : Bool
  nullRt  : Bool
  emptied : Bool
  lost    : Bool
  whole   : Bool
  written : Bool
  deriving DecidableEq, Repr

/-- An entry of a tally: expert, replica, destination, count (R274). -/
structure TallyEnt where
  expert  : Nat
  replica : Nat
  dest    : Nat
  cnt     : Nat
  deriving DecidableEq, Repr

/-- A tally, FINAL or VOID counted at a destination for one source (R326): `via` sent it; `state` 0 awaiting the
pile, 1 pile here, 2 no pile owed (FINAL, VOID, dead). -/
structure RxTally where
  src     : Nat
  via     : Nat
  final   : Bool
  entries : List TallyEnt
  tickets : Nat
  granted : Nat
  state   : Nat
  voided  : Bool
  /-- the experts of the rows of its pile, once the pile's list is here (R276, R330) -/
  list    : Option (List Nat)
  deriving DecidableEq, Repr

/-- A wire ticket of a pile and its payload row (R276). -/
structure WireRow where
  stream : Nat
  pos    : Nat
  expert : Nat
  rank   : Nat
  data   : Bytes
  deriving DecidableEq, Repr

/-- A pile held at a destination. -/
structure RxPile where
  src  : Nat
  via  : Nat
  mx   : Bool
  rows : List WireRow
  /-- transit rows of the own gateway share that hold its rows until they are placed, one release each (R278) -/
  cells : List Nat
  deriving DecidableEq, Repr

/-- A gateway entry: one token with its choices in the pod (R277). -/
structure GwRow where
  stream  : Nat
  pos     : Nat
  choices : List (Nat × Nat × Nat)
  data    : Bytes
  deriving DecidableEq, Repr

/-- What a gateway keeps for one source's fan-out (R278, R326). -/
structure GwFan where
  src     : Nat
  entries : List TallyEnt
  /-- collected answers: destination, withheld, void -/
  answers : List (Nat × Nat × Bool)
  sentGrant : Bool
  piled   : Bool
  /-- transit buffers granted so far to the rows of the gateway pile, in row order (R278) -/
  cells   : List Nat
  dead    : Bool
  /-- destinations whose RETURN, or a VOID in its place, is still to pass here (R331) -/
  owed    : List Nat
  deriving DecidableEq, Repr

/-- A micro-step of a pass on the member, as source, destination and gateway. -/
structure Micro where
  m        : Nat
  start    : Nat
  /-- source side: list order of R270 after the sort -/
  sorted   : Bool
  /-- gateways: pod, member, whether it is a substitute (R340) -/
  gates    : List (Nat × Nat × Bool)
  /-- tallies sent: receiver, and 0 its pile waits for a grant, 1 pile sent, 2 no pile is owed any more -/
  out      : List (Nat × Nat)
  /-- destinations that the gateway tallies list, with their tickets (R329) -/
  listed   : List (Nat × Nat)
  finalOut : Bool
  /-- a stitch boundary has come since every payload flit left and was acknowledged (R122) -/
  acked    : Bool
  returnsDone : Bool
  retRx    : List Nat
  /-- destinations whose RETURN a VOID stood in for (R333) -/
  voidRx   : List Nat
  /-- destination side -/
  tallies  : List RxTally
  tallyIn  : Bool
  piles    : List RxPile
  pileIn   : Bool
  /-- memory cells still reserved for the micro-step's rows; input runs: expert, replica, rows, chain; table run and
  output runs granted so far (R281, R284) -/
  resv     : Nat
  runs     : List (Nat × Nat × Nat × Nat)
  /-- every entry that needs an input run has one -/
  ranAll   : Bool
  tabRuns  : List Nat
  tableTag : Option Nat
  destDone : Bool
  /-- gateway side -/
  fans     : List GwFan
  /-- counts of R390: admitted, rejected, substituted, deferred, grant deferred, spilled, null, emptied, lost -/
  counts   : List Nat
  vary     : Nat
  /-- TOKENS entries: stream, position, rank (255 for a whole token), CODE (R391) -/
  events   : List (Nat × Nat × Nat × Nat)
  deriving DecidableEq, Repr

/-- What a Press run scores for: a layer pass of a step, a batch command of a group, or a wake check (R141, R146). -/
inductive JobRef where
  | step (layer : Nat)
  | batch (group : Nat)
  | wake
  deriving DecidableEq, Repr

/-- A Press run (R189), planned or in flight: row block, token set, first segment, activation lane (R191), the arrays it
spans with the tile of each, whether it drains token-major (R198), whether it repeats a failed run (R205), and whether it
was moved from a retired array (R206). In flight, one entry stands for each array. -/
structure Run where
  job   : JobRef
  part  : Nat
  layer : Nat
  block : Nat
  setNo : Nat
  seg   : Nat
  lane  : Nat
  span  : List (Nat × Nat)
  major : Bool
  retry : Bool
  moved : Bool
  deriving DecidableEq, Repr

/-- A layer pass in progress (R27, R121). -/
structure Pass where
  layer    : Nat
  start    : Nat
  toks     : List Tok
  blocks   : List Nat
  /-- row blocks whose runs have been planned, and the planned runs not yet issued (R193) -/
  planBlk  : Nat
  plan     : List Run
  stage4   : Bool
  /-- the stitch in which stage 4 was complete -/
  s4At     : Nat
  admitted : Bool
  tickets  : List Ticket
  /-- admissions per expert so far in the pass, for R246 -/
  replUse  : List (Nat × Nat)
  micros   : List Micro
  /-- the chain of the pass's ticket records (R268) -/
  ticketChain : Option Nat
  sharedTag : Option Nat
  /-- runs of the shared table granted so far: table, inputs, outputs (R351) -/
  sharedRuns : List Nat
  sharedAns : Bool
  lastMicro : Nat
  srcDone  : Bool
  ended    : Bool
  /-- the PASS and TOKENS records are queued (R385, R393) -/
  journaled : Bool
  /-- the index tensors of HIDDEN_TD and OUT_TD as the pass read them (R166) -/
  inIdx    : List Int
  outIdx   : List Int
  /-- rows whose hidden state comes with the reads of other rows, in stage 1 and again for RESIDUAL (R163, R167) -/
  hidDeps  : List (Nat × List Nat)
  resDeps  : List (Nat × List Nat)
  /-- contributions of the pass to scatter-add targets that it has not written yet: address, logical index + 1, FP32 (R168) -/
  sadd     : List (Nat × Nat × F32)
  deriving DecidableEq, Repr

/-- Scoring outside a layer pass of a step: the token rows, the layer entry and profile, whether runs are wanted. -/
structure Job where
  pass   : Pass
  e      : Bytes
  pr     : Bytes
  scores : Bool
  deriving DecidableEq, Repr

/-- The reduction of a layer on the member (R356 to R375). `vals`: (node, chunk, values). `chunkSt`: per chunk 0
waiting, 1 running, 2 result written, 3 sealed, 4 released; `crcs` the sealed CRCs. STATE as RED_STATUS. -/
structure Red where
  block   : Nat
  layer   : Nat
  start   : Nat
  vals    : List (Nat × Nat × List F32)
  right   : List (Nat × Nat × List F32)
  /-- node whose value a buffer of the Fold region holds: chunk, buffer, node (R363) -/
  bufs    : List (Nat × Nat × Nat)
  /-- nodes whose inputs in the Fold region have been requested: node, chunk -/
  asked   : List (Nat × Nat)
  /-- nodes whose repetition failed, with the retired unit: node, chunk, unit (R354) -/
  moved   : List (Nat × Nat × Nat)
  chunkSt : List Nat
  crcs    : List (Nat × Nat)
  state   : Nat
  narrowed : Nat
  audited : Bool
  deriving DecidableEq, Repr

/-- The step in flight, or at the ring head, of a partition (R115 to R121). -/
structure StepSt where
  group    : Nat
  seq      : Nat
  client   : Nat
  stepNo   : Nat
  segs     : List Seg
  fault    : Nat
  diverted : List (Nat × Nat × Nat)
  hiddenTd : Bytes
  outTd    : Bytes
  waited   : Bool
  readySent : Bool
  launchAt : Option Nat
  /-- stitch of the launch at which the records of segment 255 were asked for (R283, R345, R384, R410) -/
  askedAt  : Option Nat
  epochs   : List Nat
  launched : Bool
  engRec   : Bytes
  combRec  : Bytes
  active   : Bool
  rosters  : List (Nat × Bool)
  aset     : Option (List Nat)
  /-- members withdrawn: member, destination too?, from layer (R416); a dead member is withdrawn from layer 0 -/
  gone     : List (Nat × Bool × Nat)
  passes   : List Pass
  nextLayer : Nat
  reds     : List Red
  lstat    : List Nat
  abortReg : Bool
  withdrawn : Option Nat
  poisonAt : Option Nat
  redAbort : Option Nat
  /-- passes below it need no layer doorbell: the boundary after a first message of theirs has come, after an abort (R418) -/
  opened   : Nat
  tornBy   : Option Nat
  vary     : Nat
  /-- scatter-add targets of OUT_TD: address, logical index + 1 (0 for the value found), FP32 (R168) -/
  sadd     : List (Nat × Nat × F32)
  stragglers : List Nat
  ledger   : Nat
  ledLost  : Bool
  /-- completion: 0 running, 1 final ledger header written, 2 STEP_END queued (R413, R393), 3 the record of a torn step
  written; `endOut`: STEP_END has left and is not queued again -/
  fin      : Nat
  endOut   : Bool
  /-- stitch at which the end of the step began: END -/
  endAt    : Nat
  deriving DecidableEq, Repr

/-- A wait of R341: layer, micro-step, handler, stitch of its start, WAITs sent. -/
structure WaitSt where
  layer : Nat
  micro : Nat
  handler : Nat
  /-- the source whose fan-out a gateway's wait concerns, handlers 5 to 7 -/
  src   : Option Nat
  since : Nat
  sent  : Nat
  deriving DecidableEq, Repr

/-- An outstanding work table or shared table (R285, R289). -/
structure WorkTab where
  tag     : Nat
  part    : Nat
  engq    : Nat
  layer   : Nat
  micro   : Nat
  shared  : Bool
  addr    : Nat
  chain   : Nat
  /-- entries: expert, replica, rows, input chain, output chain, output address, row identities (src, stream, pos) -/
  entries : List (Nat × Nat × Nat × Nat × Nat × Nat)
  rowIds  : List (Nat × Nat × Nat × Nat)
  outStride : Nat
  notified : Bool
  answered : Bool
  deriving DecidableEq, Repr

/-- A partition (R124). STATE: 0 DOWN, 1 UP, 2 PARKED, 3 WAKING, 4 TORN_DOWN. -/
structure Part where
  state   : Nat
  fault   : Nat
  lastNo  : Option Nat
  anyNo   : Bool
  /-- number of the first step that completed since then (R136, R244) -/
  firstNo : Nat
  periods : List Nat
  lastStart : Option Nat
  tables  : List TablePair
  /-- held layers with the pending wake signature and whether a release has been accepted and has registered -/
  holds   : List (Nat × Nat × Bool × Bool)
  ledNext : Nat
  jrnRec  : Bytes
  ledRec  : Bytes
  jrnW    : Nat
  jrnC    : Nat
  jrnQ    : List Bytes
  jrnWait : Bool
  jrnCrc  : Bytes
  step    : Option StepSt
  stopping : Bool
  /-- stitch of the last teardown (R417, R426) -/
  tornAt  : Nat
  /-- stitch in which a batch command gave the cores back to work that pre-empts it (R142, R143) -/
  lentAt  : Option Nat
  wakeTry : Nat
  /-- the arrays that the planner works with: those usable at the last step boundary (R193, R206) -/
  arrays  : Nat
  /-- the wake check: layers compared, the layer in progress, partials of runs whose second or third copy is awaited: tile,
  segment, array, values (R146, R208) -/
  wakeLayer : Nat
  wake    : Option Job
  wakeGot : List (Nat × Nat × Nat × List F32)
  issueF  : Nat
  waits   : List WaitSt
  deriving DecidableEq, Repr

/-- A command that a group is executing (R136): phase 0 PARK waiting, 1 batch command running, 2 STEP. -/
structure Cmd where
  /-- the STATUS and FAULT with which an abort or a teardown ends the command once its data writes are visible (R403), and
  whether a teardown did -/
  endAs  : Option (Nat × Nat)
  torn   : Bool
  /-- a load overwrote a bank that the command has bound (R258) -/
  cut    : Bool
  phase  : Nat
  seq    : Nat
  desc   : Bytes
  epochs : List Nat
  index  : Nat
  saved  : Nat
  /-- the rows that a batch command scores (R395) -/
  job    : Option Job
  deriving DecidableEq, Repr

/-- A group and its ring (R127 to R131). `saved`: 0 none, 1 save area being written, 2 saved, 3 being restored. -/
structure Group where
  head    : Nat
  tail    : Nat
  tailEff : Nat
  tailErr : Bool
  /-- layer doorbells held: layer, low 16 bits of the step number, accepted before the last boundary -/
  bells   : List (Nat × Nat × Bool)
  /-- reads of the command at HEAD: 0 none asked, 1 its descriptor, each one more what the command names (R54, R56) -/
  fetch   : Nat
  cur     : Option Cmd
  recBusy : Bool
  lastSeq : Option Nat
  /-- abort requests: SEQ, ill-formed, accepted before the last boundary -/
  aborts  : List (Nat × Bool × Bool)
  /-- an abort of the command at HEAD registered before the command started (R418) -/
  abortHead : Bool
  deriving DecidableEq, Repr

/-! ### Press -/

/-- The persistent state of a Starch lane at an instruction boundary (R233). -/
structure Lane where
  m        : F32
  z        : F32
  nextTile : Nat
  active   : Bool
  rowNan   : Bool
  clamped  : Bool
  deriving DecidableEq, Repr

/-- A core (R17, R24): the FP32 accumulators of its four arrays, 8 rows of 128 columns each (R183), the 16 lanes of its
Starch slice (R212), its 3 MiB scratchpad and its issue state (R143). An empty list stands for zeros. -/
structure CoreSt where
  acc   : List (List F32)
  lanes : List Lane
  pad   : Bytes
  issue : Bytes
  deriving DecidableEq, Repr

/-- The Press arrays (R183 to R210). -/
structure PressSt where
  runs    : List Run
  runCnt  : List Nat
  buckets : List Nat
  deriving DecidableEq, Repr

/-! ### Links -/

/-- A flit of the transmit side: header fields and payload (R291). -/
structure Flit where
  kind    : Nat
  resend  : Bool
  owner   : Nat
  seq     : Nat
  ack     : Nat
  credit  : Nat
  mark    : Bool
  ofs     : Nat
  payload : Bytes
  deriving DecidableEq, Repr

/-- A message at a receiver: channel, owner of its stream, head SRC and MSG_NO. -/
abbrev MsgKey := Nat × Nat × Nat × Nat

/-- A flit in the replay buffer or before it: its 64-bit number, the owner it had before it travelled RELAYED, times
sent, a re-send owed (R296 to R298, R309). `flit` is the original header once it has been sent (R297). -/
structure TxFlit where
  x     : Nat
  orig  : Nat
  sends : Nat
  owed  : Bool
  /-- its place in its message, and the message as it came while the bytes of the flit have not (R310, R331) -/
  idx   : Nat
  wait  : Option MsgKey
  flit  : Flit
  deriving DecidableEq, Repr

/-- A message stream (R295): the other member, owner, next MSG_NO; at a receiver the body bytes of that message
already handed over. -/
structure Stream where
  peer  : Nat
  owner : Nat
  next  : Nat
  part  : Bytes
  deriving DecidableEq, Repr

/-- A channel (R299): an intra-pod port 0 to 30, the rail channel toward pod q as 64 + q, a manager channel on port
35 toward pod q as 96 + q. -/
structure Chan where
  id      : Nat
  port    : Nat
  peer    : Nat
  peerPort : Nat
  session : Option Nat
  share   : Nat
  peerShare : Nat
  nextX   : Nat
  unacked : List TxFlit
  waiting : List TxFlit
  credSeen : Nat
  credits : Nat
  rxX     : Nat
  /-- receive slots that hold flits not yet in order: number and flit -/
  held    : List (Nat × Flit)
  /-- missing numbers and the NACKs sent for each -/
  missing : List (Nat × Nat)
  freed   : Nat
  asm     : List (Nat × Bytes)
  /-- ACK and CREDIT of the last frame sent, for R300 -/
  lastAck : Nat
  lastCred : Nat
  active  : Bool
  wasActive : Bool
  /-- the next flit that is not a re-send carries the stitch mark (R312) -/
  markDue : Bool
  /-- consecutive agreeing HELLOs and the last one -/
  helloRun : Nat
  lastHello : Bytes
  deriving DecidableEq, Repr

/-- A link port (R302). STATE: 0 DOWN, 1 PHY_UP, 2 FLIT_LOCK, 3 HELLO, 4 MEASURE, 5 ACTIVE, 6 RETRAIN, 7 RETIRED;
`sub` is the training state within RETRAIN. -/
structure Port where
  state   : Nat
  sub     : Nat
  mode    : Nat
  absent  : Bool
  fail    : Nat
  bucket  : Nat
  failRun : Nat
  goodRun : Nat
  tries   : Nat
  probes  : List Nat
  rtt     : Nat
  rttLong : Bool
  relayed : Option Nat
  excluded : List Nat
  pendSvc : Bool
  rediv   : Bool
  deriving DecidableEq, Repr

/-- Receive slots of a channel whose flits no consumer has taken yet (R110, R299): the message they belong to, their
number, whether the message is only passed on here, and the staging cells its bytes took (R310, R331). -/
structure SlotHold where
  chan    : Nat
  owner   : Nat
  src     : Nat
  msgNo   : Nat
  typ     : Nat
  trigger : Nat
  whole   : Bool
  transit : Bool
  /-- the member the message finally goes to -/
  goal    : Nat
  /-- slots held, flits that have come in order, and LENGTH -/
  n       : Nat
  got     : Nat
  len     : Nat
  chains  : List Nat
  /-- a message passed on: 0 nothing of it has left, 1 its flits leave as they arrive, 2 it is discarded (R310, R331) -/
  fate    : Nat
  deriving DecidableEq, Repr

/-- A message sent and not yet fully acknowledged (R309): first hop channel, number of its last flit, staging cells held
for a message that is passed on (R310, R331). -/
structure TxMsg where
  chan    : Nat
  owner   : Nat
  typ     : Nat
  flags   : Nat
  src     : Nat
  dst     : Nat
  trigger : Nat
  msgNo   : Nat
  /-- LENGTH, and the body bytes that are here -/
  len     : Nat
  body    : Bytes
  /-- the message as it came, where it is passed on before the whole of it is here: channel, owner, SRC, MSG_NO -/
  via     : Option MsgKey
  lastX   : Nat
  chains  : List Nat
  deriving DecidableEq, Repr

/-- The link layer and the exchange's member-wide state. -/
structure LinkSt where
  ports   : List Port
  chans   : List Chan
  txStr   : List Stream
  rxStr   : List Stream
  sent    : List TxMsg
  /-- complete messages for the consumers, and messages ahead of their stream's MSG_NO (R295) -/
  inbox   : List Msg
  early   : List Msg
  slots   : List SlotHold
  /-- flits and frames driven: port and bytes -/
  frames  : List (Nat × Bytes)
  linkMap : List Nat
  railMap : List Nat
  dead    : List (Nat × Nat)
  /-- retirements to report, and a PORT_REPORT owed (R307, R320) -/
  retRep  : List (Nat × Nat)
  reportDue : Bool
  deriving DecidableEq, Repr

/-! ### Manager -/

/-- What a pod manager or the decider holds for a launch (R118, R257): group, step, members heard with their
epochs (live then PENDING, or the two common epochs), and whether it is decided. -/
structure LaunchSt where
  group : Nat
  stepNo : Nat
  heard : List (Nat × List Nat × List Nat)
  pods  : List (Nat × List Nat × List Nat)
  done  : Bool
  deriving DecidableEq, Repr

/-- The wait count of R422 for a (group's step, layer, micro-step, handler, waiting member) and a missing member. -/
structure WaitAcct where
  group   : Nat
  stepNo  : Nat
  layer   : Nat
  micro   : Nat
  handler : Nat
  waiter  : Nat
  missing : Nat
  total   : Nat
  deriving DecidableEq, Repr

/-- The manager machines (R23, R244, R308, R338, R340, R422, R437). -/
structure MgrSt where
  launches : List LaunchSt
  linkRows : List Nat
  railRows : List Nat
  /-- stitches without a path: of a block, of a pair of blocks (R338) -/
  reachRun : List (Nat × Nat)
  pairRun  : List ((Nat × Nat) × Nat)
  waits   : List WaitAcct
  /-- stragglers declared: group, step, member -/
  straggled : List (Nat × Nat × Nat)
  podF    : Nat
  goodSteps : Nat
  /-- bias counts: partition, window's last step, contributors, counts -/
  biasAcc : List (Nat × Nat × List Nat × List Nat)
  /-- own counts of the open window: partition, step, layer, expert, tickets -/
  biasMine : List (Nat × Nat × Nat × Nat × Nat)
  /-- bias epochs computed: partition, window's last step, epoch -/
  biasEp   : List (Nat × Nat × Nat)
  sessions : List (Nat × Nat)
  calPend : Bool
  deriving DecidableEq, Repr

/-! ### Fold, power, self-test, recorder -/

/-- The Fold units (R354, R355) and the member-wide reduction record of each FOLD block. -/
structure FoldSt where
  buckets : List Nat
  redState : List Nat
  redSealed : List Nat
  deriving DecidableEq, Repr

/-- Power domains, cost table, energy account and the two power pins (R428 to R440). -/
structure PowerSt where
  alertLow : Bool
  thermLow : Bool
  resume  : Bool
  held    : Bool
  calDone : Bool
  domOn   : Nat
  /-- domains still to switch on, the first one ramping while `rampOn` -/
  ramps   : List Nat
  rampOn  : Bool
  /-- staged repairs now in the repair registers of the macros of domains that are on (R452) -/
  repaired : List Bytes
  cost    : List Nat
  seeded  : Nat
  clamped : Nat
  window  : Nat
  telem   : Word
  /-- accepted telemetry: window, energy in µJ -/
  telemOk : List (Nat × Nat)
  /-- windows in which a pin was low -/
  lowWin  : List Nat
  /-- per window of a calibration kernel: window number, operation counts of entries 0 to 14 -/
  kernOps : List (Nat × List Nat)
  /-- the window in which the recalibration of the partition at the head of `wakeq` began -/
  wakeWin : Option Nat
  wakeq   : List Nat
  ops     : List Nat
  charges : List Nat
  bucket  : Int
  winPj   : Nat
  energyWin : Nat
  issueF  : Nat
  digest  : Nat
  deriving DecidableEq, Repr

/-- The always-on recorder (R460 to R464). -/
structure RecSt where
  startCnt : Nat
  uptime  : Nat
  lifeSec : Nat
  calendar : Nat
  calSrc  : Nat
  calSetLo : Word
  calSetHi : Word
  calPend : Option Nat
  linkErr : List Nat
  linkRt  : List Nat
  linkRet : List Nat
  arrMis  : List Nat
  arrLint : List Nat
  energyUj : Nat
  steps   : Nat
  selftests : Nat
  lintFails : Nat
  lintPos : Nat
  logSeq  : Nat
  lost    : Bool
  present : Bool
  resultOfs : Option Nat
  rejected : Bool
  testRefused : Bool
  restored : Bool
  /-- UPTIME of the last log write, stitch count of the last calendar tick -/
  logAt   : Nat
  tickAt  : Nat
  /-- flash operations driven on the boot port: (offset, none for a sector erase or the bytes programmed) -/
  flashOps : List (Nat × Option Bytes)
  deriving DecidableEq, Repr

/-- The self-test controller (R443 to R459). -/
structure SelfSt where
  state   : Nat
  code    : Nat
  entries : Nat
  cclk    : Nat
  vdd     : Nat
  request : Bool
  floor   : Bool
  wrapper : Nat
  wrapHeld : Option Nat
  found   : List Bytes
  domFail : Nat
  badArrays : Nat
  badCores : Nat
  badClusters : Nat
  badFolds : Nat
  badLinks : Nat
  badMem  : Nat
  truncated : Bool
  notWritten : Bool
  writeTry : Nat
  lintAgain : Bool
  /-- stitch and part of the Lint part last taken (R456) -/
  lintAt  : Option (Nat × Nat)
  deriving DecidableEq, Repr

/-- The whole state of the block. `pending` is the queue of commands waiting, first in, first out; `free` counts the
draws of free values (a field of the model, not of the manual). -/
structure State where
  pending : List Instr
  free    : Nat
  /-- MGT_RDATA and MGT_ERR of the last acknowledged management access (R66) -/
  mgtData : Word
  mgtErr  : Bool
  regs    : List (Nat × Word)
  mem     : List (Nat × Byte)
  boot    : BootSt
  img     : ImgSt
  units   : UnitSt
  stitch  : StitchSt
  seam    : SeamSt
  memp    : MemSt
  hamper  : HamperSt
  ctx     : List (Nat × Bytes)
  parts   : List Part
  groups  : List Group
  press   : PressSt
  /-- per leaky bucket: the stitch in which it rose above zero or last fell (R207, R306, R355, R408) -/
  leaks   : List (Nat × Nat)
  cores   : List CoreSt
  link    : LinkSt
  mgr     : MgrSt
  fold    : FoldSt
  power   : PowerSt
  recd    : RecSt
  self    : SelfSt
  tabs    : List WorkTab
  nextTag : Nat
  deriving DecidableEq, Repr

/-! ### Reset

The state while RST_N is low (R39, R89 STATE 0x0). A part whose always-on supply has just come up has every recorder
counter empty (R460, R461). Fields that no rule gives a reset value take zero or nothing; log entry 8. -/

/-- The boot state under RST_N: REASON_A and REASON_B read 0xF (R97). -/
def resetBoot : BootSt where
  rstLow := true
  xfers := []
  state := 0
  code := 0
  detail := 0
  waiting := none
  copySel := none
  octalSel := false
  noRecord := false
  stale := false
  partDown := false
  copyRej := false
  reasonA := 15
  reasonB := 15
  slowA := false
  slowB := false
  againA := false
  againB := false
  sfdp := none
  octalMode := false
  hdrA := []
  hdrB := []
  imgA := []
  imgB := []
  imgHash := []
  startUs := 0
  keys := List.replicate 12 0
  keyData := 0
  keyWord := 0
  keyBusy := none
  keyErr := false
  recordUse := false
  repairs := []
  lock := false

/-- The stitch unit after reset: ACQUIRING (R107). -/
def resetStitch : StitchSt where
  count := 0
  state := 0
  src := 0
  relay := 0
  lockRun := 0
  badRun := 0
  silentRun := 0
  phasePs := 0
  measured := 0
  markOwn := none
  refOfs := 0
  missRun := 0
  goodRun := 0
  refLost := false
  relocked := false
  directRun := 0
  heard := none
  marked := 0
  sentAt := []
  got := false
  directGot := false
  directSilent := 0
  peers := []
  roundPs := 0

/-- A bank with nothing in it. -/
def emptyBank : Bank where
  epoch := 0
  entries := []
  ix := 0
  digest := 0

/-- A table before PARTITION_UP: both banks empty (R255). -/
def emptyTable : TablePair where
  live := emptyBank
  shadow := emptyBank
  sh := 0

/-- A partition after reset: DOWN (R124). -/
def resetPart : Part where
  state := 0
  fault := 0
  lastNo := none
  anyNo := true
  firstNo := 0
  periods := []
  lastStart := none
  tables := List.replicate 4 emptyTable
  holds := []
  ledNext := 0
  jrnRec := []
  ledRec := []
  jrnW := 0
  jrnC := 0
  jrnQ := []
  jrnWait := false
  jrnCrc := []
  step := none
  stopping := false
  tornAt := 0
  lentAt := none
  wakeTry := 0
  arrays := 0
  wakeLayer := 0
  wake := none
  wakeGot := []
  issueF := 16
  waits := []

/-- A group after reset: HEAD and TAIL 0 (R129). -/
def resetGroup : Group where
  head := 0
  tail := 0
  tailEff := 0
  tailErr := false
  bells := []
  fetch := 0
  cur := none
  recBusy := false
  lastSeq := none
  aborts := []
  abortHead := false

/-- A link port after reset: DOWN (R315). -/
def resetPort : Port where
  state := 0
  sub := 0
  mode := 0
  absent := false
  fail := 0
  bucket := 0
  failRun := 0
  goodRun := 0
  tries := 0
  probes := []
  rtt := 0
  rttLong := false
  relayed := none
  excluded := []
  pendSvc := false
  rediv := false

/-- The link layer after reset. -/
def resetLink : LinkSt where
  ports := List.replicate 36 resetPort
  chans := []
  txStr := []
  rxStr := []
  sent := []
  inbox := []
  early := []
  slots := []
  frames := []
  linkMap := List.replicate 32 0
  railMap := List.replicate 32 0
  dead := []
  retRep := []
  reportDue := false

/-- The manager machines after reset: F is 16 (R437, POD_CAP reset 0x10). -/
def resetMgr : MgrSt where
  launches := []
  linkRows := List.replicate 32 0
  railRows := List.replicate 32 0
  reachRun := []
  pairRun := []
  waits := []
  straggled := []
  podF := 16
  goodSteps := 0
  biasAcc := []
  biasMine := []
  biasEp := []
  sessions := []
  calPend := false

/-- Power after reset: only the always-on and boot/NVM domains 46 and 47 are on (R89, DOM_ON_HI 0x0000_C000). -/
def resetPower : PowerSt where
  alertLow := false
  thermLow := false
  resume := false
  held := false
  calDone := false
  domOn := 2 ^ 46 + 2 ^ 47
  ramps := []
  rampOn := false
  repaired := []
  cost := List.replicate 16 0
  seeded := 0
  clamped := 0
  window := 0
  telem := 0
  telemOk := []
  lowWin := []
  kernOps := []
  wakeWin := none
  wakeq := []
  ops := List.replicate 15 0
  charges := []
  bucket := 0
  winPj := 0
  energyWin := 0
  issueF := 16
  digest := 0

/-- The recorder of a part whose supply has just come up (R460, R461). -/
def resetRec : RecSt where
  startCnt := 0
  uptime := 0
  lifeSec := 0
  calendar := 0
  calSrc := 0
  calSetLo := 0
  calSetHi := 0
  calPend := none
  linkErr := List.replicate 36 0
  linkRt := List.replicate 36 0
  linkRet := List.replicate 36 0
  arrMis := List.replicate 32 0
  arrLint := List.replicate 32 0
  energyUj := 0
  steps := 0
  selftests := 0
  lintFails := 0
  lintPos := 0
  logSeq := 0
  lost := true
  present := true
  resultOfs := none
  rejected := false
  testRefused := false
  restored := false
  logAt := 0
  tickAt := 0
  flashOps := []

/-- The self-test controller after reset: IDLE (R445). -/
def resetSelf : SelfSt where
  state := 0
  code := 0
  entries := 0
  cclk := 0
  vdd := 0
  request := false
  floor := false
  wrapper := 0
  wrapHeld := none
  found := []
  domFail := 0
  badArrays := 0
  badCores := 0
  badClusters := 0
  badFolds := 0
  badLinks := 0
  badMem := 0
  truncated := false
  notWritten := false
  writeTry := 0
  lintAgain := false
  lintAt := none

/-- The units before UNIT_INIT: the availability registers read zero (R476). -/
def resetUnits : UnitSt where
  arrays := 0
  arraysRet := 0
  arraysPend := 0
  folds := 0
  foldsRet := 0
  foldsPend := 0
  links := 0
  memPorts := 0
  memRet := 0
  shownArrays := 0
  shownFolds := 0
  shownMem := 0
  shownLinks := 0
  slices := 0

/-- The attach port after reset: the block's own credit counts (R43, R47); the host's are not known yet. -/
def resetSeam : SeamSt where
  crdIp := 0
  crdOq := 0
  crdIp2 := 0
  crdOq2 := 0
  advIq := 64
  advOp := 16
  advIq2 := 32
  advOp2 := 16
  retIq := 0
  retIq2 := 0
  rspWait := []
  rspSent := []
  cmpls := []
  notes := []
  sent := []

/-- The register file after reset: EVT_MAP[n] at its default line assignment (R479), every other stored word zero. -/
def resetRegs : List (Nat × Word) := [(0x40, 1), (0x44, 2), (0x48, 4), (0x4C, 8)]

/-- A lane that holds nothing. -/
def resetLane : Lane where
  m := 0
  z := 0
  nextTile := 0
  active := false
  rowNan := false
  clamped := false

/-- A core after reset. -/
def resetCore : CoreSt where
  acc := List.replicate 4 []
  lanes := List.replicate 16 resetLane
  pad := []
  issue := []

/-- The machine right after reset, RST_N low. -/
def State.reset : State where
  pending := []
  free := 0
  mgtData := 0
  mgtErr := false
  regs := resetRegs
  mem := []
  boot := resetBoot
  img := { hdr := [], sections := [] }
  units := resetUnits
  stitch := resetStitch
  seam := resetSeam
  memp := { reads := [], writes := [], readQ := [], writeQ := [], retries := [], buckets := List.replicate 12 0 }
  hamper := { chains := [], left := [], nextId := 0, reserved := [], withheld := [], waiting := [] }
  ctx := []
  parts := List.replicate 8 resetPart
  groups := List.replicate 64 resetGroup
  press := { runs := [], runCnt := List.replicate 32 0, buckets := List.replicate 32 0 }
  leaks := []
  cores := List.replicate 8 resetCore
  link := resetLink
  mgr := resetMgr
  fold := { buckets := List.replicate 4 0, redState := List.replicate 4 0, redSealed := List.replicate 4 0 }
  power := resetPower
  recd := resetRec
  self := resetSelf
  tabs := []
  nextTag := 1

end Sys2Proof.Machine
end

