-- ==== Sys2Proof/Machine/Ops.lean ====
section
/-! DEFINITION. The shared operations: the register file (R11, R69, R472), power domains (R428, R469), the loaded
image (R80 to R83), attached memory and its writes (R51 to R54, R76), and the update of one partition, group, port
or channel. -/

namespace Sys2Proof.Machine

/-- A flag as a number. -/
def flag (b : Bool) : Nat := if b then 1 else 0

/-- A number from fields: (lowest bit, width, value). -/
def pack (fs : List (Nat × Nat × Nat)) : Nat := sumNat (fs.map (fun f => 2 ^ f.1 * (f.2.2 % 2 ^ f.2.1)))

/-! ### Register addresses (R481) -/

/-- Base addresses and strides of the register file. Each name is the manual's register. -/
def rGLOBAL_EVT : Nat := 0x14
def rEVT_MAP (n : Nat) : Nat := 0x40 + 4 * n
def rATTACH_GEN_MISMATCH_CNT : Nat := 0x60
def rSTITCH_HI : Nat := 0x20004
def rSTITCH_EVT : Nat := 0x20010
def rREF_MISS_CNT : Nat := 0x20014
def rREF_EXTRA_CNT : Nat := 0x20018
def rLOCK_LOSS_CNT : Nat := 0x2001C
def rSLIP_CNT : Nat := 0x20020
def rLATE_LAUNCH_CNT : Nat := 0x20024
def rDIVERT_CNT : Nat := 0x30800
def rLAYER_ORDER_CNT : Nat := 0x30804
def rPREEMPT_CNT : Nat := 0x30808
def rRING_FAULT_CNT : Nat := 0x3080C
def rACCT_DONE (c : Nat) : Nat := 0x31000 + 8 * c
def rACCT_ABORT (c : Nat) : Nat := 0x31004 + 8 * c
def rSEG_OOB_RD_CNT (p : Nat) : Nat := 0x48000 + 16 * p
def rSEG_OOB_WR_CNT (p : Nat) : Nat := 0x48004 + 16 * p
def rGATHER_OOR_CNT (p : Nat) : Nat := 0x48008 + 16 * p
def rPR_EVT (c : Nat) : Nat := 0x80004 + 0x2000 * c
def rPR_RETRY_CNT (c : Nat) : Nat := 0x80008 + 0x2000 * c
def rPR_RETIRE_CNT (c : Nat) : Nat := 0x8000C + 0x2000 * c
def rPR_SKIP_CNT (c : Nat) : Nat := 0x80010 + 0x2000 * c
def rPR_LAST_CHK (c : Nat) : Nat := 0x80014 + 0x2000 * c
def rST_VAR_CLAMP_CNT (p : Nat) : Nat := 0xC0000 + 16 * p
def rST_ZERO_DEN_CNT (p : Nat) : Nat := 0xC0004 + 16 * p
def rST_NAN_ROW_CNT (p : Nat) : Nat := 0xC0008 + 16 * p
def rST_FP8_SAT_CNT (p : Nat) : Nat := 0xC000C + 16 * p
def rSEL_EVT : Nat := 0x100500
/-- Counter i of partition p (R267, R290): 0 SEL_NAN, 1 SEL_NULL, 2 SEL_SHORT, 3 SEL_REJECT, 4 SEL_SUBST, 5 SEL_DEFER,
6 SEL_ELASTIC_DEFER, 7 SEL_SPILL, 8 SEL_CAP_EMPTY, 9 RELEASE_IGN, 10 SEL_BATCH_ABORT, 11 SORT_DEDUP, 12 ENG_TABLE,
13 ENG_FAIL. -/
def rSEL_CNT (p i : Nat) : Nat := 0x101000 + 64 * p + 4 * i
def rENG_CMPL_IGN_CNT : Nat := 0x100600
def rSTAGE_FALLBACK_CNT : Nat := 0x140008
def rMPOOL_DENY_CNT : Nat := 0x14000C
def rREF_ERR_CNT : Nat := 0x140010
def rLK_EVT (p : Nat) : Nat := 0x180004 + 0x400 * p
def rLK_CRC_CNT (p : Nat) : Nat := 0x180018 + 0x400 * p
def rLK_RESEND_CNT (p : Nat) : Nat := 0x18001C + 0x400 * p
def rLK_RETRAIN_CNT (p : Nat) : Nat := 0x180020 + 0x400 * p
def rLK_RELAY_CNT (p : Nat) : Nat := 0x180024 + 0x400 * p
def rXCH_EVT : Nat := 0x18E000
def rXCH_LAST_BAD : Nat := 0x18E004
def rXCH_CORRUPT_CNT : Nat := 0x18E010
def rXCH_VOID_CNT : Nat := 0x18E014
def rXCH_STALE_CNT : Nat := 0x18E018
def rXCH_DUP_CNT : Nat := 0x18E01C
def rXCH_WAIT_CNT : Nat := 0x18E020
def rXCH_SUBST_CNT : Nat := 0x18E024
def rXCH_LOST_CNT : Nat := 0x18E028
def rFD_EVT : Nat := 0x1C0004
def rFD_LAST_RES : Nat := 0x1C0008
def rFD_NAN_ROW_CNT (p : Nat) : Nat := 0x1C0100 + 16 * p
def rFD_RETRY_CNT : Nat := 0x1C0200
def rFD_RETIRE_CNT : Nat := 0x1C0204
def rFD_SEAL_STALL_CNT : Nat := 0x1C0208
def rFD_AUDIT_FAIL_CNT : Nat := 0x1C020C
def rFD_POISON_CNT : Nat := 0x1C0210
def rFD_SR_OVF_CNT : Nat := 0x1C0214
def rFD_RED_ABORT_CNT : Nat := 0x1C0218
def rFLT_EVT : Nat := 0x200000
def rFLT_LAST : Nat := 0x200004
def rABORT_RESULT (g : Nat) : Nat := 0x200040 + 4 * g
def rMEM_UE_CNT (n : Nat) : Nat := 0x200204 + 16 * n
def rMEM_WERR_CNT (n : Nat) : Nat := 0x200208 + 16 * n
def rMEM_CONTRACT_CNT (n : Nat) : Nat := 0x20020C + 16 * n
def rSTRAGGLE_CNT : Nat := 0x200304
def rWITHDRAW_CNT : Nat := 0x200308
def rABORT_CNT : Nat := 0x20030C
def rTOKEN_LOSS_CNT : Nat := 0x200310
def rJRN_WRITE_HI (p : Nat) : Nat := 0x201004 + 32 * p
def rJRN_CONSUMED_LO (p : Nat) : Nat := 0x201008 + 32 * p
def rJRN_CONSUMED_HI (p : Nat) : Nat := 0x20100C + 32 * p
def rTBL_DIGEST_HI (p t : Nat) : Nat := 0x201104 + 32 * p + 8 * t
def rJRN_EVT : Nat := 0x201400
def rJRN_LAST_REPLAY : Nat := 0x201404
def rJRN_FULL_CNT : Nat := 0x201408
def rJRN_DIVERGE_CNT : Nat := 0x20140C
def rENERGY_DIGEST_HI : Nat := 0x201414
def rVARY_CNT (p i : Nat) : Nat := 0x201600 + 32 * p + 4 * i
def rPWR_EVT : Nat := 0x240004
def rPWR_ALERT_CNT : Nat := 0x240080
def rTHERM_CNT : Nat := 0x240084
def rTHROTTLE_CNT : Nat := 0x240088
def rREADY_WAIT_CNT : Nat := 0x24008C
def rTELEM_IGN_CNT : Nat := 0x240090
def rST_EVT : Nat := 0x28000C
def rLINT_LAST : Nat := 0x280014
def rLINT_FAIL_CNT : Nat := 0x28001C
def rTEST_REFUSED_CNT : Nat := 0x280020
def rCAL_HI : Nat := 0x280114
def rSTEPS_HI : Nat := 0x280128

/-! ### The register file -/

/-- The power domains of the family that holds a register (R67, R469), as a mask; the always-on region needs none. -/
def regDomains (a : Nat) : Nat :=
  if a < 0x30000 then 2 ^ 46
  else if a < 0x80000 then 0xF * 2 ^ 32
  else if a < 0xC0000 then 0xF * 2 ^ (4 * ((a - 0x80000) / 0x2000))
  else if a < 0x100000 then 2 ^ 45
  else if a < 0x140000 then 0xF * 2 ^ 32
  else if a < 0x180000 then 3 * 2 ^ 43
  else if a < 0x1C0000 then 0xF * 2 ^ 32
  else if a < 0x200000 then 0xF * 2 ^ 36
  else 2 ^ 46

/-- A register answers, and counts, while a domain of its family is on (R68, R469, R472). -/
def State.powered (s : State) (a : Nat) : Bool := decide (s.power.domOn &&& regDomains a ≠ 0)

/-- The stored word at a management address. -/
def State.reg (s : State) (a : Nat) : Word := spGet s.regs a

/-- Store a word at a management address. -/
def State.setReg (s : State) (a : Nat) (v : Word) : State := { s with regs := spSet s.regs a v }

/-- Latch a word the block writes, lost where its domain is off (R428). -/
def State.latch (s : State) (a : Nat) (v : Word) : State := if s.powered a then s.setReg a v else s

/-- Saturating count at 0xFFFF_FFFF (R472). -/
def satAdd (v : Word) (n : Nat) : Word := BitVec.ofNat 32 (min (v.toNat + n) (2 ^ 32 - 1))

/-- Count `n` events in an RC counter; events while its domain is off are not counted (R472). -/
def State.bump (s : State) (a n : Nat) : State :=
  if s.powered a then s.setReg a (satAdd (s.reg a) n) else s

/-- Set bit `i` of a W1C field (R11). -/
def State.raise (s : State) (a i : Nat) : State :=
  if s.powered a then s.setReg a (s.reg a ||| BitVec.ofNat 32 (2 ^ i)) else s

/-- Switching off the last domain of a family returns its stored registers to their reset values (R469). -/
def dropRegs (dom : Nat) (regs : List (Nat × Word)) : List (Nat × Word) :=
  regs.filter (fun e => decide (dom &&& regDomains e.1 ≠ 0))

/-- PR_BUCKET of a core whose four array domains are off is at its reset value (R469). -/
def dropBuckets (dom : Nat) (bs : List Nat) : List Nat :=
  ((List.range bs.length).zip bs).map (fun e => if bits dom (4 * (e.1 / 4)) 4 = 0 then 0 else e.2)

/-- A domain that is off holds no state (R428): the accumulators of each array that is off, the scratchpad of a core whose
four arrays are off, and every lane while the Starch domain is off are back at their reset values. -/
def dropCores (dom : Nat) (cs : List CoreSt) : List CoreSt :=
  ((List.range cs.length).zip cs).map (fun e => { e.2 with
    acc := ((List.range e.2.acc.length).zip e.2.acc).map (fun a => if bit dom (4 * e.1 + a.1) then a.2 else [])
    lanes := if bit dom 45 then e.2.lanes else resetCore.lanes
    pad := if bits dom (4 * e.1) 4 = 0 then [] else e.2.pad })

/-- Switch domain `n` off (R428, R429). -/
def State.domainOff (s : State) (n : Nat) : State :=
  let dom := s.power.domOn - (if bit s.power.domOn n then 2 ^ n else 0)
  { s with
    press := { s.press with buckets := dropBuckets dom s.press.buckets }
    cores := dropCores dom s.cores
    power := { s.power with domOn := dom, repaired := s.power.repaired.filter (fun e => decide (fld e 1 1 ≠ n)) }
    regs := dropRegs dom s.regs }

/-- Switch domain `n` on: its staged repairs are loaded before it leaves isolation (R429, R452). -/
def State.domainOn (s : State) (n : Nat) : State :=
  { s with power := { s.power with
      domOn := s.power.domOn ||| 2 ^ n
      repaired := s.power.repaired.filter (fun e => decide (fld e 1 1 ≠ n))
        ++ s.boot.repairs.filter (fun e => decide (fld e 1 1 = n)) } }

/-- Switch every domain of a list off. -/
def State.domainsOff (s : State) (ns : List Nat) : State := ns.foldl State.domainOff s

/-- No domain is to be switched on. -/
def State.rampsOff (s : State) : State := { s with power := { s.power with ramps := [], rampOn := false } }

/-! ### A row range under the Lint sweep (R456) -/

/-- The 16 rows of macro `m` that hold a row are under test in this stitch: an access to them waits (R442, R456). -/
def State.underTest (s : State) (m row : Nat) : Bool :=
  match s.self.lintAt with
  | some (t, n) => t == s.stitch.count && decide (272 ≤ n) && (n - 272) / 64 == m && (n - 272) % 64 == row / 16
  | none => false

/-- The row of a stream context is under test: 64 B to a row, from macro 1,216 on. DESIGN CHOICE, log entry 120. -/
def State.ctxUnderTest (s : State) (n : Nat) : Bool := s.underTest (1216 + n / 1024) (n % 1024)

/-- The rows of the replay slot of a flit on a port are under test: 512 B to a slot, slot SEQ mod 1,000.
DESIGN CHOICE, log entry 120. -/
def State.replayUnderTest (s : State) (p seq : Nat) : Bool :=
  s.underTest (384 + 8 * p + seq % 1000 / 128) (8 * (seq % 1000 % 128))

/-! ### Updates of one element -/

/-- Partition p. -/
def State.part (s : State) (p : Nat) : Part := s.parts.getD p resetPart
/-- Update partition p. -/
def State.onPart (s : State) (p : Nat) (f : Part → Part) : State := { s with parts := setAt s.parts p f }
/-- Group g. -/
def State.group (s : State) (g : Nat) : Group := s.groups.getD g resetGroup
/-- Update group g. -/
def State.onGroup (s : State) (g : Nat) (f : Group → Group) : State := { s with groups := setAt s.groups g f }
/-- Link port p. -/
def State.port (s : State) (p : Nat) : Port := s.link.ports.getD p resetPort
/-- Update link port p. -/
def State.onPort (s : State) (p : Nat) (f : Port → Port) : State :=
  { s with link := { s.link with ports := setAt s.link.ports p f } }
/-- Channel `id`, if the member holds it. -/
def State.chan (s : State) (id : Nat) : Option Chan := s.link.chans.find? (fun c => c.id = id)
/-- Update channel `id`. -/
def State.onChan (s : State) (id : Nat) (f : Chan → Chan) : State :=
  { s with link := { s.link with chans := s.link.chans.map (fun c => if c.id = id then f c else c) } }
/-- Update the step of partition p. -/
def State.onStep (s : State) (p : Nat) (f : StepSt → StepSt) : State :=
  s.onPart p (fun x => { x with step := x.step.map f })
/-- Update the pass of layer l in a step. -/
def onPassOf (l : Nat) (f : Pass → Pass) (x : StepSt) : StepSt :=
  { x with passes := x.passes.map (fun q => if q.layer = l then f q else q) }
/-- Update the pass of layer l of partition p. -/
def State.onPass (s : State) (p l : Nat) (f : Pass → Pass) : State := s.onStep p (onPassOf l f)
/-- The pass of layer l of partition p, if it is in progress. -/
def State.pass (s : State) (p l : Nat) : Option Pass :=
  (s.part p).step.bind (fun x => x.passes.find? (fun q => q.layer = l))
/-- An empty micro-step m that starts at a stitch. -/
def freshMicro (m start : Nat) : Micro where
  m := m
  start := start
  sorted := false
  gates := []
  out := []
  listed := []
  finalOut := false
  acked := false
  returnsDone := false
  retRx := []
  voidRx := []
  tallies := []
  tallyIn := false
  piles := []
  pileIn := false
  resv := 0
  runs := []
  ranAll := false
  tabRuns := []
  tableTag := none
  destDone := false
  fans := []
  counts := List.replicate 9 0
  vary := 0
  events := []
/-- A token row at the start of its pass. -/
def freshTok (row stream pos prio : Nat) : Tok where
  row := row
  stream := stream
  pos := pos
  prio := prio
  y := []
  actHi := []
  actLo := []
  payload := []
  tiles := []
  m := 0
  z := 0
  nextTile := 0
  chosen := []
  cand := []
  refW := []
  selected := false
  nullRt := false
  emptied := false
  lost := false
  whole := false
  written := false

/-- A pass that starts. -/
def freshPass (l start : Nat) (toks : List Tok) : Pass where
  layer := l
  start := start
  toks := toks
  blocks := []
  planBlk := 0
  plan := []
  stage4 := toks.isEmpty
  s4At := start
  admitted := false
  tickets := []
  replUse := []
  micros := []
  ticketChain := none
  sharedTag := none
  sharedRuns := []
  sharedAns := false
  lastMicro := 0
  srcDone := toks.isEmpty
  ended := false
  journaled := false
  inIdx := []
  outIdx := []
  hidDeps := []
  resDeps := []
  sadd := []
/-- Update micro-step m of a pass, which comes into being when first touched. -/
def onMicroOf (m start : Nat) (f : Micro → Micro) (q : Pass) : Pass :=
  if q.micros.any (fun x => x.m = m)
  then { q with micros := q.micros.map (fun x => if x.m = m then f x else x) }
  else { q with micros := q.micros ++ [f (freshMicro m start)] }
/-- Update micro-step m of the pass of layer l of partition p. -/
def State.onMicro (s : State) (p l m : Nat) (f : Micro → Micro) : State :=
  s.onPass p l (onMicroOf m s.stitch.count f)
/-- Micro-step m of a pass. -/
def microOf (q : Pass) (m : Nat) : Micro := (q.micros.find? (fun x => x.m = m)).getD (freshMicro m 0)
/-- Update token row r of a pass. -/
def onTokOf (r : Nat) (f : Tok → Tok) (q : Pass) : Pass :=
  { q with toks := q.toks.map (fun t => if t.row = r then f t else t) }

/-! ### The loaded image -/

/-- A field of the selected image's header (R80). -/
def State.hdrF (s : State) (off n : Nat) : Nat := fld s.img.hdr off n
/-- The logical member number, POD × 32 + BLOCK (R474). -/
def State.member (s : State) : Nat := s.hdrF 0x19 1 * 32 + s.hdrF 0x1A 1
def State.pod (s : State) : Nat := s.hdrF 0x19 1
def State.block (s : State) : Nat := s.hdrF 0x1A 1
def State.podSize (s : State) : Nat := s.hdrF 0x1B 1
def State.pods (s : State) : Nat := s.hdrF 0x1C 1
/-- The flags of R80. -/
def State.headMgr (s : State) : Bool := bit (s.hdrF 0x15 1) 1
def State.podMgr (s : State) : Bool := bit (s.hdrF 0x15 1) 2
def State.extStitch (s : State) : Bool := bit (s.hdrF 0x15 1) 3
/-- A loaded section's contents by TYPE (R82); an absent one is empty. -/
def secOf (secs : List (Nat × Bytes)) (t : Nat) : Bytes := ((secs.find? (fun e => e.1 = t)).map (·.2)).getD []
def State.sect (s : State) (t : Nat) : Bytes := secOf s.img.sections t

/-- A field of partition p's PARTITIONS entry (R125). -/
def State.pcfg (s : State) (p off n : Nat) : Nat := fld (s.sect 2) (32 * p + off) n
def State.pValid (s : State) (p : Nat) : Bool := decide (p < 8) && s.pcfg p 0 1 == 1
def State.pCores (s : State) (p : Nat) : Nat := s.pcfg p 3 1
def State.pLayers (s : State) (p : Nat) : Nat := s.pcfg p 4 2
/-- A field of group g's GROUPS entry (R127). -/
def State.gcfg (s : State) (g off n : Nat) : Nat := fld (s.sect 3) (32 * g + off) n
def State.gValid (s : State) (g : Nat) : Bool := decide (g < 64) && s.gcfg g 0 1 == 1
def State.gPart (s : State) (g : Nat) : Nat := s.gcfg g 1 1
def State.gPrio (s : State) (g : Nat) : Nat := s.gcfg g 2 1 % 4
/-- CLASS: a batch group (R127). -/
def State.gBatch (s : State) (g : Nat) : Bool := bit (s.gcfg g 2 1) 2
/-- PREEMPT: INSTRUCTION mode. -/
def State.gInstr (s : State) (g : Nat) : Bool := bit (s.gcfg g 2 1) 3
def State.gPriv (s : State) (g : Nat) : Bool := bit (s.gcfg g 2 1) 4
def State.gPods (s : State) (g : Nat) : Nat := s.gcfg g 4 2
/-- The generation a group is bound to (R48). -/
def State.gGen2 (s : State) (g : Nat) : Bool := bit (s.hdrF 0x70 8) g
/-- The step group of partition p (R128). -/
def State.stepGroup (s : State) (p : Nat) : Nat :=
  ((List.range 64).find? (fun g => s.gValid g && s.gPart g == p && !s.gBatch g)).getD 64
/-- The members of a group: every member of every pod of POD_MASK (R127). -/
def State.members (s : State) (g : Nat) : List Nat :=
  (List.range 16).flatMap (fun q => if bit (s.gPods g) q && decide (q < s.pods)
    then (List.range s.podSize).map (fun b => 32 * q + b) else [])
/-- The usable arrays of partition p, ascending (R17, R193). -/
def State.arraysOf (s : State) (p : Nat) : List Nat :=
  (List.range 32).filter (fun a => bit (s.pCores p) (a / 4) && bit s.units.arrays a)
/-- The arrays that the planner of partition p works with, ascending: those usable at its last step boundary
(R35, R193, R206). -/
def State.planArrays (s : State) (p : Nat) : List Nat :=
  (List.range 32).filter (fun a => bit (s.pCores p) (a / 4) && bit (s.part p).arrays a)
/-- A step boundary of partition p: its planner takes the arrays usable now (R193, R206). -/
def State.replan (s : State) (p : Nat) : State :=
  s.onPart p (fun x => { x with arrays := sumNat ((s.arraysOf p).map (2 ^ ·)) })
/-- The usable cores of partition p, ascending, as of its last step boundary (R187, R206). -/
def State.coresOf (s : State) (p : Nat) : List Nat :=
  (List.range 8).filter (fun c => (s.planArrays p).any (fun a => a / 4 == c))
/-- The start of a leaky bucket's period. -/
def State.leakMark (s : State) (key : Nat) : State :=
  { s with leaks := s.leaks.filter (fun x => x.1 != key) ++ [(key, s.stitch.count)] }
/-- A leaky bucket has stood above zero for a period since it rose or last fell (R207). DESIGN CHOICE, log entry 111. -/
def State.leakDue (s : State) (key period level : Nat) : Bool :=
  decide (0 < level) && decide (((s.leaks.find? (fun x => x.1 == key)).map (·.2)).getD 0 + period ≤ s.stitch.count)
/-- Keys of the buckets of arrays, Fold units, memory ports and links. -/
def keyArray (a : Nat) : Nat := a
def keyFold (c : Nat) : Nat := 64 + c
def keyMem (n : Nat) : Nat := 128 + n
def keyLink (q : Nat) : Nat := 192 + q
/-- The cells per memory port fitted, in bytes of the whole space (R156). -/
def capBytes (seg : Bytes) : Nat := 12 * fld seg 0 2 * 2 ^ 30
/-- FRAME_LEN and LAUNCH_LEAD (R112). -/
def State.frameLen (s : State) : Nat := max 1 (fld (s.sect 10) 0 1)
def State.launchLead (s : State) : Nat := fld (s.sect 10) 1 1

/-! ### Segment translation (R154 to R157) -/

/-- Entry i of partition p's segment table (R155). -/
def segEnt (sec : Bytes) (p i : Nat) : Bytes := slice sec (64 + 4096 * p + 16 * i) 16

/-- Translation of a `len`-byte object at a logical address: `perm` is the mask of PERM bits the access needs
(2 RD, 4 WR). `none` is the translation fault of R157. -/
def translate (sec : Bytes) (p addr len perm : Nat) : Option Nat :=
  let e := segEnt sec p (addr / 2 ^ 56)
  let off := addr % 2 ^ 56
  let pm := fld e 6 1
  if bit pm 0 && decide (pm &&& perm = perm) && decide (off + len ≤ fld e 8 6) then some (fld e 0 6 + off) else none

/-- Translation through partition p's table of the loaded image. -/
def State.tr (s : State) (p addr len perm : Nat) : Option Nat := translate (s.sect 4) p addr len perm

/-! ### Attached memory -/

/-- Count operations of a kind of R431 in the current stitch. DESIGN CHOICE, log entry 89. -/
def State.charge (s : State) (k n : Nat) : State :=
  { s with power := { s.power with ops := setAt s.power.ops k (· + n) } }

/-! ### Slots (R112, R114) -/

/-- The owner code of resource r in slot k of frame entry f (R112). -/
def slotOwner (b : Bytes) (f k r : Nat) : Nat :=
  bits (fld b (16 + (16 * f + k) * 32 + r / 2) 1) (4 * (r % 2)) 4

/-- An owner has a slot on a resource in the stitch that runs: frame entry f = s mod FRAME_LEN. A stitch is the model's
unit of time, so the slots of a stitch count together; no schedule applies before one is loaded.
DESIGN CHOICE, log entry 91. -/
def State.slotOpen (s : State) (owner r : Nat) : Bool :=
  let b := s.sect 10
  b.isEmpty || (List.range 16).any (fun k => slotOwner b (s.stitch.count % s.frameLen) k r == owner)

/-- The owner code of system traffic. -/
def sysOwner : Nat := 8

/-- The partition that an access serves. -/
def State.objPart (s : State) (o : MemObj) : Option Nat :=
  match o with
  | .hidden p _ _ => some p
  | .residual p _ _ => some p
  | .router p _ _ _ _ => some p
  | .expertOut p _ _ _ => some p
  | .returned p _ _ _ => some p
  | .shared p _ _ => some p
  | .combined p _ _ => some p
  | .workTable tag => (s.tabs.find? (fun t => t.tag == tag)).map (·.part)
  | .sealed p _ _ => some p
  | .redResult p _ _ => some p
  | .journal p => some p
  | .ledger p => some p
  | .complRec g => some (s.gPart g)
  | .saveArea g => some (s.gPart g)
  | .context p => some p
  | .batchOut g => some (s.gPart g)
  | .linkEntry p sys => if sys then none else some p
  | .command g => some (s.gPart g)
  | .operand p _ => some p
  | .target p _ => some p
  | .contrib p _ => some p
  | .foldIn p _ _ _ => some p
  | .fatal p => some p
  | .record p => some p

/-- The owner code under which an access issues: the journal, the ledger, link entries, the records of segment 255, handles and
the seal audit go in system slots (R112, R171, R283, R345, R370). -/
def State.objOwner (s : State) (o : MemObj) : Nat :=
  match o with
  | .journal _ => sysOwner
  | .ledger _ => sysOwner
  | .linkEntry _ _ => sysOwner
  | .record _ => sysOwner
  | .sealed _ _ _ => sysOwner
  | o => (s.objPart o).getD sysOwner

/-- The memory port of an address (R52). -/
def memPort (a : Nat) : Nat := a / 4096 % 12

/-- The port-local address of an address (R52). -/
def portLocal (a : Nat) : Nat := a / 49152 * 4096 + a % 4096

/-- Split a range at 4 KiB boundaries (R51); `n` bounds the pieces. -/
def pages : Nat → Nat → Nat → List (Nat × Nat)
  | 0, _, _ => []
  | n + 1, a, len =>
    if len = 0 then [] else
      let k := min len (4096 - a % 4096)
      (a, k) :: pages n (a + k) (len - k)

/-- The pieces of a range. -/
def piecesOf (a len : Nat) : List (Nat × Nat) := pages (len / 4096 + 2) a len

/-- Granules of a piece (R51). -/
def granules (a len : Nat) : Nat := (a % 64 + len + 63) / 64

/-- The byte enables of a write's granules, first byte first (R51). -/
def byteEnables (w : WriteReq) : List Bool :=
  (List.range (64 * granules w.addr w.len)).map (fun i => decide (w.addr % 64 ≤ i) && decide (i < w.addr % 64 + w.len))

/-- Read attached memory. -/
def State.rd (s : State) (a n : Nat) : Bytes := memRead s.mem a n

/-- The read request of a piece (R51, R52). -/
def readReq (obj : MemObj) (q : Nat × Nat) : ReadReq where
  port := memPort q.1
  addr := q.1
  gran := portLocal q.1 / 64
  left := granules q.1 q.2
  obj := obj
  stalled := false

/-- The write request of a piece (R51, R52). -/
def writeReq (obj : MemObj) (q : Nat × Nat) : WriteReq where
  port := memPort q.1
  addr := q.1
  gran := portLocal q.1 / 64
  len := q.2
  obj := obj

/-- The lowest state of R438 or R439 holds issue, up to the stitch boundary after its release. -/
def State.lowest (s : State) : Bool := s.power.alertLow || s.power.thermLow || s.power.resume

/-- The write of a save area (R145). -/
def isSave : MemObj → Bool
  | .saveArea _ => true
  | _ => false

/-- A read for an object may issue at a port: its owner has a slot, and no lowest state holds reads that are not of issued
work (R114, R438). DEDUCED, log entry 116. -/
def State.readOpen (s : State) (o : MemObj) (port : Nat) : Bool := s.slotOpen (s.objOwner o) port && !s.lowest

/-- A write for an object may issue at a port: in the lowest state a save area's alone (R114, R438). -/
def State.writeOpen (s : State) (o : MemObj) (port : Nat) : Bool := s.slotOpen (s.objOwner o) port && (isSave o || !s.lowest)

/-- Requests issue at their ports, after those that issued before, and are charged by their granules (R53, R434). -/
def State.issueNow (s : State) (rs : List ReadReq) (ws : List WriteReq) : State :=
  (({ s with memp := { s.memp with reads := s.memp.reads ++ rs, writes := s.memp.writes ++ ws } } : State).charge 6
    (sumNat (rs.map (·.left)))).charge 7 (sumNat (ws.map (fun w => granules w.addr w.len)))

/-- Read requests for an object issue where they may, the others wait (R114). -/
def State.askReads (s : State) (ps : List (Nat × Nat)) (obj : MemObj) : State :=
  let rs := ps.map (readReq obj)
  let now (r : ReadReq) := s.readOpen obj r.port
  ({ s with memp := { s.memp with readQ := s.memp.readQ ++ rs.filter (fun r => !now r) } } : State).issueNow (rs.filter now) []

/-- Write requests for an object issue where they may, the others wait (R114). -/
def State.askWrites (s : State) (ps : List (Nat × Nat)) (obj : MemObj) : State :=
  let rs := ps.map (writeReq obj)
  let now (r : WriteReq) := s.writeOpen obj r.port
  ({ s with memp := { s.memp with writeQ := s.memp.writeQ ++ rs.filter (fun r => !now r) } } : State).issueNow [] (rs.filter now)

/-- At a stitch boundary the waiting requests whose owners have slots in the new stitch issue (R114). -/
def State.issueSlots (s : State) : State :=
  let r (x : ReadReq) := s.readOpen x.obj x.port
  let w (x : WriteReq) := s.writeOpen x.obj x.port
  ({ s with memp := { s.memp with
      readQ := s.memp.readQ.filter (fun x => !r x), writeQ := s.memp.writeQ.filter (fun x => !w x) } } : State).issueNow
    (s.memp.readQ.filter r) (s.memp.writeQ.filter w)

/-- Write attached memory for an object: the data is stored and one write is requested per piece.
DESIGN CHOICE, log entry 18. -/
def State.wr (s : State) (a : Nat) (bs : Bytes) (obj : MemObj) : State :=
  ({ s with mem := memWrite s.mem a bs } : State).askWrites (piecesOf a bs.length) obj

/-- Request the reads of a range for an object (R51, R54). DESIGN CHOICE, log entry 19. -/
def State.issueRead (s : State) (a len : Nat) (obj : MemObj) : State :=
  s.askReads (piecesOf a len) obj

/-- Whether a read of an object is still to complete: waiting for a slot, outstanding, or waiting to be repeated. -/
def State.reading (s : State) (obj : MemObj) : Bool :=
  s.memp.reads.any (fun r => r.obj = obj) || s.memp.readQ.any (fun r => r.obj = obj) || s.memp.retries.any (fun r => !r.write && r.obj = obj)

/-- Whether a write of an object lacks its response (R53, R76). -/
def State.writing (s : State) (obj : MemObj) : Bool :=
  s.memp.writes.any (fun r => r.obj = obj) || s.memp.writeQ.any (fun r => r.obj = obj) || s.memp.retries.any (fun r => r.write && r.obj = obj)

/-- The attached-memory writes that an inbound write announces become visible to the block (R77).
DESIGN CHOICE, log entry 87. -/
def State.hostWrites (s : State) (ws : List HostWrite) : State :=
  { s with mem := ws.foldl (fun m w => memWrite m w.addr w.data) s.mem }

/-- Draw a free value: the number of the draw, and the state after it. DESIGN CHOICE, log entry 5. -/
def State.draw (s : State) : Nat × State := (s.free, { s with free := s.free + 1 })

/-- Layer l of partition p is held (R261). -/
def State.layerHeld (s : State) (p l : Nat) : Bool := (s.part p).holds.any (fun h => h.1 == l)

/-- A partition is DOWN or TORN_DOWN. -/
def State.stopped (s : State) (p : Nat) : Bool := (s.part p).state == 0 || (s.part p).state == 4

/-- `n` free bytes of draw `k`. -/
def freeBytes (k n : Nat) : Bytes := (List.range n).map (Config.freeByte k)

end Sys2Proof.Machine
end

