-- ==== Sys2Proof/Machine/Flags.lean ====
section
/-! DEFINITION. The status flags of the block: the W1C event words, the event classes and the event lines
(R11, R75, R477 to R479). -/

namespace Sys2Proof.Machine

/-- The W1C bits of the event word at a management address; zero for an address that holds none. -/
def evtMask (a : Nat) : Nat :=
  if a = rGLOBAL_EVT then 0x1
  else if a = rSTITCH_EVT then 0x1F
  else if (List.range 8).any (fun c => a == rPR_EVT c) then 0x7
  else if a = rSEL_EVT then 0x7
  else if (List.range 36).any (fun p => a == rLK_EVT p) then 0xF
  else if a = rXCH_EVT then 0x1F
  else if a = rFD_EVT then 0xF
  else if a = rJRN_EVT then 0x7
  else if a = rFLT_EVT then 0xFF
  else if a = rPWR_EVT then 0x7
  else if a = rST_EVT then 0x7
  else 0

/-- Some bit of `m` is set in the event word at `a`; a switched-off domain holds no set bit (R469). -/
def State.evt (s : State) (a m : Nat) : Bool := s.powered a && decide ((s.reg a).toNat &&& m ≠ 0)

/-- Whether an event class is pending (R477). -/
def State.evtClass (s : State) (k : Nat) : Bool :=
  match k with
  | 0 => s.evt rFLT_EVT 0x4F || s.evt rFD_EVT 0xC || s.evt rJRN_EVT 0x2
  | 1 => s.evt rGLOBAL_EVT 0x1
  | 2 => s.evt rPWR_EVT 0x7
  | 3 => (List.range 36).any (fun p => s.evt (rLK_EVT p) 0xF) || s.evt rXCH_EVT 0x1F || s.evt rFLT_EVT 0x30
  | 4 => s.evt rSTITCH_EVT 0x1F
  | 5 => (List.range 8).any (fun c => s.evt (rPR_EVT c) 0x7)
  | 6 => s.evt rSEL_EVT 0x7
  | 7 => s.evt rFD_EVT 0x3
  | 8 => s.evt rJRN_EVT 0x5
  | 9 => s.evt rFLT_EVT 0x80
  | 10 => s.evt rST_EVT 0x7
  | 11 => s.powered 0x30000 && s.groups.any (·.tailErr)
  | _ => false

/-- EVT_PEND: the pending classes (R479). -/
def State.evtPend (s : State) : Nat := bitsOf ((List.range 12).map s.evtClass)

/-- EVT_LINES: the lines driven low (R478). -/
def State.evtLines (s : State) : Nat :=
  bitsOf ((List.range 4).map (fun n => decide ((s.reg (rEVT_MAP n)).toNat &&& s.evtPend ≠ 0)))

end Sys2Proof.Machine
end

