-- ==== Sys2Proof/Machine/Ports.lean ====
section
/-! DEFINITION. Ports, channels and managers of a member: who is where, and how training begins (R21, R299, R302, R316,
R317). -/

namespace Sys2Proof.Machine

/-! ### Managers and paths -/

/-- The block number of the pod manager of pod `q`: the member itself where its image says so.
DESIGN CHOICE, log entry 11. -/
def State.mgrBlock (s : State) (q : Nat) : Nat :=
  if s.podMgr ∧ q = s.pod then s.block else Config.podManager q % 32

/-- The logical member that is the pod manager of pod `q`. -/
def State.mgrOf (s : State) (q : Nat) : Nat := 32 * q + s.mgrBlock q

/-- The head manager. -/
def State.headMember (s : State) : Nat := if s.headMgr then s.member else s.mgrOf (Config.headPod % 16)

/-- The intra-pod port toward block `b` (R21). -/
def State.portTo (s : State) (b : Nat) : Nat := (b + 63 - s.block) % 32

/-- The peer block of intra-pod port `p` (R21). -/
def State.peerBlock (s : State) (p : Nat) : Nat := (s.block + p + 1) % 32

/-- The training state of a port: within RETRAIN, the one it has reached. -/
def stage (p : Port) : Nat := if p.state = 6 then p.sub else p.state

/-- Lanes carry flits on the port: from FLIT_LOCK on. -/
def State.hears (s : State) (p : Nat) : Bool :=
  !s.boot.rstLow && decide (2 ≤ stage (s.port p)) && decide (stage (s.port p) ≤ 5)

/-- A port carries flits in service. -/
def State.active (s : State) (p : Nat) : Bool := (s.port p).state == 5

/-- A link port of the header is absent (R21, R60): mode 3, or toward an absent block number. -/
def portAbsent (h : Bytes) (p : Nat) : Bool :=
  fld h (0x48 + p) 1 == 3 || (decide (p < 31) && decide (fld h 0x1B 1 ≤ (fld h 0x1A 1 + p + 1) % 32))

/-- Bit n of a mask list. -/
def maskOf (n : Nat) (f : Nat → Bool) : Nat := bitsOf ((List.range n).map f)

/-! ### Channels -/

/-- An uplink port is out of use for good: absent, or retired. -/
def State.portGone (s : State) (p : Nat) : Bool := (s.port p).absent || (s.port p).state == 7

/-- The uplink port that carries a channel placed on port `p`: the lowest-numbered one left where `p` is absent or retired
(R311, R317). -/
def State.uplinkFor (s : State) (p : Nat) : Nat :=
  if s.portGone p then ([31, 32, 33, 34, 35].find? (fun x => !s.portGone x)).getD p else p

/-- The port of the rail channel of pod `a` toward pod `b` (R317). -/
def railPort (a b n : Nat) : Nat := 31 + ((b + n - a) % n + 4) % 5

/-- A channel that has not been ACTIVE. -/
def freshChan (id port peer peerPort : Nat) : Chan where
  id := id
  port := port
  peer := peer
  peerPort := peerPort
  session := none
  share := 1000
  peerShare := 0
  nextX := 0
  unacked := []
  waiting := []
  credSeen := 0
  credits := 0
  rxX := 0
  held := []
  missing := []
  freed := 0
  asm := []
  lastAck := 0
  lastCred := 0
  active := false
  wasActive := false
  markDue := false
  helloRun := 0
  lastHello := []

/-- The uplink ports that satisfy `f` share their places among their channels: floor(1,000 / n) each (R299). -/
def State.divideShares (s : State) (f : Nat → Bool) : State :=
  let n (p : Nat) := (s.link.chans.filter (fun c => c.port == p)).length
  { s with link := { s.link with chans := s.link.chans.map (fun c =>
      if c.id < 31 ∨ !f c.port then c else { c with share := 1000 / max 1 (n c.port) }) } }

/-- The channels of the member: one per intra-pod port, a rail channel per other pod, and the manager channels
(R299, R316, R317). -/
def State.chansStart (s : State) : State :=
  let others := (List.range s.pods).filter (· ≠ s.pod)
  let intra := ((List.range 31).filter (fun p => !(s.port p).absent)).map (fun p =>
    freshChan p p (32 * s.pod + s.peerBlock p) (30 - p))
  let rails := others.map (fun q =>
    freshChan (64 + q) (s.uplinkFor (railPort s.pod q s.pods)) (32 * q + s.block) (railPort q s.pod s.pods))
  let mgrs := if s.podMgr then
      (others.filter (fun q => s.mgrBlock q ≠ s.block)).map (fun q =>
        freshChan (96 + q) (s.uplinkFor 35) (s.mgrOf q) 35)
    else []
  ({ s with link := { s.link with chans := intra ++ rails ++ mgrs } }).divideShares (fun _ => true)

/-- Link training begins: every usable port goes to PHY_UP, a port the result record marks is a failed port (R91,
R302). -/
def State.trainAll (s : State) : State :=
  let s := { s with link := { s.link with ports := (List.range 36).map (fun p =>
    let x := { s.port p with mode := fld s.img.hdr (0x48 + p) 1, absent := portAbsent s.img.hdr p }
    if x.absent then x
    else if bit s.units.links p then { x with state := 1 } else { x with state := 7 }) } }
  s.chansStart


end Sys2Proof.Machine
end

