-- ==== Sys2Proof/Machine/Sections.lean ====
section
/-! DEFINITION. The content checks of the image sections, each as its owning chapter states it (R89). -/

namespace Sys2Proof.Machine

/-- A value lies in a closed range. -/
def within (v lo hi : Nat) : Bool := decide (lo ≤ v) && decide (v ≤ hi)

/-- Reserved bytes of a record are zero (R12, R13). -/
def rsv (b : Bytes) (off n : Nat) : Bool := allZero (slice b off n)

/-! ### POWER (R430) -/

/-- Seed i of the POWER section. -/
def seedOf (b : Bytes) (i : Nat) : Nat := fld b (32 + 4 * i) 4

/-- The content check of the POWER section. -/
def powerOk (b : Bytes) : Bool :=
  let peak := fld b 0 4
  let sust := fld b 4 4
  let cap := fld b 8 4
  decide (b.length = 128) && within peak 10000 200000 && within sust 10000 peak && within cap 1000 16000000
    && decide (fld b 12 4 ≤ peak) && decide (fld b 16 4 ≤ cap) && within (fld b 20 1) 4 16
    && decide (fld b 21 1 ≤ 1) && rsv b 22 10 && rsv b 96 32
    && decide (seedOf b 15 = 0) && (List.range 15).all (fun i => decide (seedOf b i ≠ 0))
    && decide (seedOf b 1 + 32 * seedOf b 0 < sust * 640)

/-! ### SELFTEST (R455) -/

/-- The content check of the SELFTEST section. -/
def selftestOk (b : Bytes) : Bool :=
  let p := fld b 0 4
  decide (b.length = 16) && (List.range 15).any (fun k => p == 1024 * 2 ^ k) && decide (fld b 4 4 < p)
    && decide (fld b 8 1 ≤ 1) && rsv b 9 7

/-! ### The parts of an image that the checks read -/

/-- A section of the image (R82). -/
def ImgSt.sec (m : ImgSt) (t : Nat) : Bytes := secOf m.sections t
/-- Field of PARTITIONS entry p. -/
def ImgSt.pf (m : ImgSt) (p off n : Nat) : Nat := fld (m.sec 2) (32 * p + off) n
/-- Partition p exists. -/
def ImgSt.pOk (m : ImgSt) (p : Nat) : Bool := decide (p < 8) && m.pf p 0 1 == 1
/-- Field of GROUPS entry g. -/
def ImgSt.gf (m : ImgSt) (g off n : Nat) : Nat := fld (m.sec 3) (32 * g + off) n
/-- Group g is a step group of partition p. -/
def ImgSt.isStepOf (m : ImgSt) (p g : Nat) : Bool :=
  m.gf g 0 1 == 1 && m.gf g 1 1 == p && !bit (m.gf g 2 1) 2
/-- POD_MASK of partition p's step group. -/
def ImgSt.podMask (m : ImgSt) (p : Nat) : Nat :=
  match (List.range 64).find? (m.isStepOf p) with
  | some g => m.gf g 4 2
  | none => 0
/-- Members of partition p's step group. -/
def ImgSt.groupSize (m : ImgSt) (p : Nat) : Nat :=
  ((List.range (fld m.hdr 0x1C 1)).filter (bit (m.podMask p))).length * fld m.hdr 0x1B 1
/-- This member's logical number. -/
def ImgSt.self (m : ImgSt) : Nat := fld m.hdr 0x19 1 * 32 + fld m.hdr 0x1A 1

/-- Two ranges (base, length) share a byte; an empty one shares none. -/
def overlap (a b : Nat × Nat) : Bool :=
  decide (0 < a.2) && decide (0 < b.2) && decide (a.1 < b.1 + b.2) && decide (b.1 < a.1 + a.2)
/-- A range lies within the fitted capacity (R156). -/
def ImgSt.fits (m : ImgSt) (r : Nat × Nat) : Bool := decide (r.1 + r.2 ≤ capBytes (m.sec 4))
/-- The Hamper memory pool and its link array (R181). -/
def ImgSt.pool (m : ImgSt) : Nat × Nat := (fld (m.sec 5) 0 8, 4096 * fld (m.sec 5) 8 4)
def ImgSt.linkArr (m : ImgSt) : Nat × Nat := (fld (m.sec 5) 16 8, 4 * fld (m.sec 5) 8 4)
/-- The bias region of partition p: two banks (R243). -/
def ImgSt.biasArea (m : ImgSt) (p : Nat) : Nat × Nat := (fld (m.sec 6) (8 * p) 8, 8388608)

/-! ### PARTITIONS (R126) -/

/-- The content check of the PARTITIONS section. -/
def partitionsOk (m : ImgSt) : Bool :=
  let b := m.sec 2
  decide (b.length = 256) && (List.range 8).all (fun p =>
    let fb := m.pf p 1 1
    if m.pf p 0 1 = 0 then rsv b (32 * p) 32
    else
      decide (m.pf p 0 1 = 1) && decide (m.pf p 2 1 ≤ 1) && decide (m.pf p 3 1 ≠ 0) && within (m.pf p 4 2) 1 256
        && decide (1 ≤ m.pf p 6 2) && rsv b (32 * p + 8) 24
        && (fb == 255 || (m.pOk fb && fb != p && m.pf fb 1 1 == 255))
        && (List.range p).all (fun q => m.pf q 0 1 == 0 || decide (m.pf q 3 1 &&& m.pf p 3 1 = 0)))

/-! ### GROUPS (R128) -/

/-- Bytes of the save area of a partition's groups. -/
def saveExtent (cores : Nat) : Nat := 4096 + 3166208 * ((List.range 8).filter (bit cores)).length

/-- The check of one GROUPS entry. -/
def groupOk (m : ImgSt) (g : Nat) : Bool :=
  let b := m.sec 3
  let p := m.gf g 1 1
  let at_ := m.gf g 2 1
  let mask := m.gf g 4 2
  if m.gf g 0 1 = 0 then rsv b (32 * g) 32
  else
    decide (m.gf g 0 1 = 1) && m.pOk p && decide (at_ < 32) && within (m.gf g 3 1) 4 16 && rsv b (32 * g + 6) 2
      && decide (m.gf g 8 8 % 4096 = 0) && decide (m.gf g 16 8 % 4096 = 0) && decide (m.gf g 24 8 % 64 = 0)
      && bit mask (fld m.hdr 0x19 1) && decide (mask < 2 ^ fld m.hdr 0x1C 1)
      && (if bit at_ 2 && bit at_ 3
          then (translate (m.sec 4) p (m.gf g 16 8) (saveExtent (m.pf p 3 1)) 6).isSome
          else decide (m.gf g 16 8 = 0) && !bit at_ 3)

/-- The content check of the GROUPS section. PREEMPT is legal on batch groups only, SAVE_BASE with it only. -/
def groupsOk (m : ImgSt) : Bool :=
  decide ((m.sec 3).length = 2048) && (List.range 64).all (groupOk m)
    && (List.range 8).all (fun p => !m.pOk p || decide (((List.range 64).filter (m.isStepOf p)).length = 1))
    && decide (((List.range 64).filter (fun g => m.gf g 0 1 == 1 && bit (m.gf g 2 1) 4)).length ≤ 4)

/-! ### SEGMENTS (R156) -/

/-- Base, length and PERM of segment i of partition p. -/
def segBase (sec : Bytes) (p i : Nat) : Nat := fld (segEnt sec p i) 0 6
def segLimit (sec : Bytes) (p i : Nat) : Nat := fld (segEnt sec p i) 8 6
def segPerm (sec : Bytes) (p i : Nat) : Nat := fld (segEnt sec p i) 6 1
/-- The valid segments of partition p: range and write permission. -/
def validSegs (sec : Bytes) (p : Nat) : List ((Nat × Nat) × Bool) :=
  ((List.range 256).filter (fun i => bit (segPerm sec p i) 0)).map
    (fun i => ((segBase sec p i, segLimit sec p i), bit (segPerm sec p i) 2))

/-- Every valid segment of partition p lies within the fitted capacity (R93, R156). -/
def segmentsFit (sec : Bytes) (p : Nat) : Bool :=
  (validSegs sec p).all (fun r => decide (r.1.1 + r.1.2 ≤ capBytes sec))

/-- The content check of the SEGMENTS section (R156); base and limit of an entry that is not VALID are not looked at. DESIGN
CHOICE, log entry 125. -/
def segmentsOk (m : ImgSt) : Bool :=
  let b := m.sec 4
  decide (b.length = 32832) && within (fld b 0 2) 1 16384 && rsv b 2 62
    && (List.range 8).all (fun p => (List.range 256).all (fun i =>
        let e := segEnt b p i
        decide (segPerm b p i < 8) && rsv e 7 1 && rsv e 14 2))
    && (List.range 8).all (fun p => (validSegs b p).all (fun r =>
        decide (r.1.1 % 4096 = 0) && decide (r.1.2 % 4096 = 0) && decide (r.1.2 ≠ 0)
          && decide (r.1.1 + r.1.2 ≤ 2 ^ 48)
          && (!r.2 || (List.range 8).all (fun q => q == p || (validSegs b q).all (fun t => !overlap r.1 t.1)))
          && (!m.pOk p || (!overlap r.1 m.pool && !overlap r.1 m.linkArr))))

/-! ### HAMPER (R181) -/

/-- A field of owner group o. -/
def ownF (b : Bytes) (o off n : Nat) : Nat := fld b (32 + 16 * o + off) n
/-- Owner group o is defined. -/
def ownOk (b : Bytes) (o : Nat) : Bool := decide (o < 16) && ownF b o 0 1 == 1
/-- The owner group of an OWNER code: a partition, or 8 for the system owner. -/
def ownerOf (b : Bytes) (w : Nat) : Nat := ((List.range 16).find? (fun o => ownOk b o && ownF b o 1 1 == w)).getD 16
/-- Number of owner groups of an OWNER code. -/
def ownerCnt (b : Bytes) (w : Nat) : Nat := ((List.range 16).filter (fun o => ownOk b o && ownF b o 1 1 == w)).length

/-- The content check of the HAMPER section. -/
def hamperOk (m : ImgSt) : Bool :=
  let b := m.sec 5
  decide (b.length = 288) && decide (fld b 0 8 % 4096 = 0) && decide (fld b 16 8 % 4096 = 0)
    && decide (fld b 8 4 ≤ 1048576) && rsv b 12 4 && rsv b 24 8
    && (List.range 16).all (fun o =>
        if ownF b o 0 1 = 0 then rsv b (32 + 16 * o) 16
        else decide (ownF b o 0 1 = 1) && (ownF b o 1 1 == 8 || m.pOk (ownF b o 1 1))
          && rsv b (34 + 16 * o) 2 && rsv b (44 + 16 * o) 4)
    && (List.range 8).all (fun p => !m.pOk p || ownerCnt b p == 1)
    && ownerCnt b 8 == 1
    && decide (sumNat ((List.range 16).map (fun o => ownF b o 4 4)) ≤ 65536)
    && decide (sumNat ((List.range 16).map (fun o => ownF b o 8 4)) ≤ fld b 8 4)
    && !overlap m.pool m.linkArr && m.fits m.pool && m.fits m.linkArr

/-! ### PROFILES (R265) -/

/-- Every range and dependency of a used profile. -/
def profileOk (e : Bytes) : Bool :=
  let fuse := fld e 5 1
  let pol := fld e 6 1
  let scale := BitVec.ofNat 32 (fld e 12 4)
  let eps := BitVec.ofNat 32 (fld e 8 4)
  decide (e.length = 32) && decide (fld e 0 1 ≤ 2) && within (fld e 1 1) 1 16 && within (fld e 2 1) 1 8
    && within (fld e 3 1) 1 4 && decide (fld e 4 1 ≤ 2) && decide (fuse % 4 ≤ 2) && decide (fuse / 4 % 4 ≤ 2)
    && decide (fuse < 16) && decide (pol ≤ 3) && within (fld e 7 1) 1 8
    && isFin32 eps && !f32Lt eps 0
    && isFin32 scale && (fuse % 4 == 1 || scale == f32One)
    && (if pol = 0 then decide (fld e 16 2 = 0) else decide (1 ≤ fld e 16 2))
    && (if pol = 2 then within (fld e 18 1) 1 16 && decide (fld e 1 1 + fld e 18 1 ≤ 32) else decide (fld e 18 1 = 0))
    && decide (fld e 19 1 ≤ 1) && within (fld e 20 2) 1 4096 && rsv e 22 10

/-- A profile slot is unused (R265). -/
def profUnused (e : Bytes) : Bool := allZero e

/-- Profile slot i of partition p in the section. -/
def ImgSt.prof (m : ImgSt) (p i : Nat) : Bytes := slice (m.sec 8) (512 * p + 32 * i) 32

/-- The content check of the PROFILES section. -/
def profilesOk (m : ImgSt) : Bool :=
  decide ((m.sec 8).length = 4096) && (List.range 8).all (fun p => (List.range 16).all (fun i =>
    profUnused (m.prof p i) || (m.pOk p && profileOk (m.prof p i))))

/-! ### PLACEMENT (R264) -/

/-- Map n of the section. -/
def ImgSt.map (m : ImgSt) (n : Nat) : Bytes := slice (m.sec 7) (32784 * n) 32784
/-- EXPERTS of a map. -/
def mapExperts (b : Bytes) : Nat := fld b 2 2
/-- Replica r of expert e in a map; 0xFFFF for none. -/
def mapReplica (b : Bytes) (e r : Nat) : Nat := fld b (16 + 8 * e + 2 * r) 2
/-- The replicas of expert e, the home first. -/
def replicasOf (b : Bytes) (e : Nat) : List Nat := ((List.range 4).map (mapReplica b e)).filter (· ≠ 0xFFFF)

/-- The rules of one entry of a map owned by a partition with step-group mask `mask`. -/
def mapEntryOk (mask podSize : Nat) (e : Bytes) : Bool :=
  let r := (List.range 4).map (fun i => fld e (2 * i) 2)
  let v := r.filter (· ≠ 0xFFFF)
  decide (e.length = 8) && r.headD 0xFFFF != 0xFFFF && r.take v.length == v && noDup v
    && v.all (fun x => x / 32 == v.headD 0 / 32 && bit mask (x / 32) && decide (x % 32 < podSize))

/-- The content check of the PLACEMENT section. -/
def placementOk (m : ImgSt) : Bool :=
  decide ((m.sec 7).length = 524544) && (List.range 16).all (fun n =>
    let b := m.map n
    let x := mapExperts b
    let p := fld b 1 1
    if fld b 0 1 = 0 then allZero b
    else
      decide (fld b 0 1 = 1) && m.pOk p && decide (x ≤ 4096) && rsv b 4 12
        && (List.range x).all (fun e => mapEntryOk (m.podMask p) (fld m.hdr 0x1B 1) (slice b (16 + 8 * e) 8))
        && allZero (b.drop (16 + 8 * x)))

/-! ### LAYERS (R263, R253) -/

/-- Bytes of one row of K elements of an ETYPE (R159, R161). -/
def rowBytes (et k : Nat) : Nat :=
  if et = 0 ∨ et = 7 then 4 * k else if et = 1 then 2 * k
  else if et = 4 ∨ et = 5 then 33 * ceilDiv k 32 else if et = 6 then 17 * ceilDiv k 32 else k
/-- RSTRIDE of R263. -/
def rstride (et k : Nat) : Nat := 64 * ceilDiv (rowBytes et k) 64
/-- Fields of a layer entry. -/
def leEtype (e : Bytes) : Nat := fld e 8 1
def leProf (e : Bytes) : Nat := fld e 9 1
def leMap (e : Bytes) : Nat := fld e 10 1
def leExperts (e : Bytes) : Nat := fld e 12 2
def leK (e : Bytes) : Nat := 128 * fld e 14 2
/-- Bytes of a ticket's payload row (R30, R269). -/
def payloadBytes (payload k : Nat) : Nat := if payload = 1 then 33 * ceilDiv k 32 else 2 * k

/-- The rules of one layer entry against a profile table and the maps its partition owns. -/
def layerEntryOk (seg : Bytes) (p : Nat) (prof : Nat → Bytes) (map : Nat → Bytes) (e : Bytes) : Bool :=
  let pr := prof (leProf e)
  let compat := decide (fld pr 5 1 % 4 = 2)
  let nm := fld pr 4 1
  let x := leExperts e
  let k := leK e
  let rows := if compat then 2 * x else x
  let fine (off len : Nat) := (translate seg p (fld e off 8) len 2).isSome
  let mp := map (leMap e)
  decide (e.length = 64) && decide (fld e 0 8 % 64 = 0) && [0, 1, 4, 5, 6].contains (leEtype e)
    && decide (leProf e ≤ 15) && rsv e 11 1 && within x 1 (if compat then 2048 else 4096)
    && within (fld e 14 2) 1 256 && rsv e 48 16
    && !profUnused pr
    && (decide (fld e 16 8 ≠ 0) == (nm == 1 || nm == 2)) && (decide (fld e 24 8 ≠ 0) == (nm == 2))
    && fine 0 (rows * rstride (leEtype e) k)
    && (decide (fld e 16 8 = 0) || fine 16 (2 * k)) && (decide (fld e 24 8 = 0) || fine 24 (2 * k))
    && (decide (fld e 32 8 = 0) || fine 32 (4 * x))
    && decide (leMap e ≤ 15) && fld mp 0 1 == 1 && fld mp 1 1 == p && decide (x ≤ mapExperts mp)

/-- Replicas of a layer's experts on a member. -/
def replicasHere (self : Nat) (mp : Bytes) (x : Nat) : Nat :=
  sumNat ((List.range x).map (fun e => ((replicasOf mp e).filter (· == self)).length))

/-- The worst reservation of a layer (R253); zero under ELASTIC. -/
def worstCells (self size : Nat) (prof : Nat → Bytes) (map : Nat → Bytes) (e : Bytes) : Nat :=
  let pr := prof (leProf e)
  if fld pr 6 1 = 0 then 0
  else replicasHere self (map (leMap e)) (leExperts e) * size * fld pr 16 2
    * ceilDiv (payloadBytes (fld pr 19 1) (leK e)) 4096

/-- R253 over a layer table. -/
def reserveOk (self size minMem : Nat) (prof : Nat → Bytes) (map : Nat → Bytes) (layers : List Bytes) : Bool :=
  layers.all (fun e => decide (worstCells self size prof map e ≤ minMem))

/-- MIN_MEM of partition p's owner group. -/
def ImgSt.minMem (m : ImgSt) (p : Nat) : Nat := ownF (m.sec 5) (ownerOf (m.sec 5) p) 8 4

/-- Layer entry l of partition p in the section. -/
def ImgSt.layer (m : ImgSt) (p l : Nat) : Bytes := slice (m.sec 6) (64 + 16384 * p + 64 * l) 64

/-- The content check of the LAYERS section. -/
def layersOk (m : ImgSt) : Bool :=
  let b := m.sec 6
  decide (b.length = 131136) && (List.range 8).all (fun p =>
    let n := m.pf p 4 2
    let used := (List.range n).map (m.layer p)
    let a := m.biasArea p
    allZero (slice b (64 + 16384 * p + 64 * n) (64 * (256 - n)))
      && (if m.pOk p then decide (a.1 % 4096 = 0) && m.fits a && !overlap a m.pool else decide (a.1 = 0))
      && used.all (layerEntryOk (m.sec 4) p (m.prof p) m.map)
      && reserveOk m.self (m.groupSize p) (m.minMem p) (m.prof p) m.map used)

/-! ### BIAS (R266) -/

/-- The records of the section, `none` where one is ill-formed; `n` bounds their number. -/
def biasRecords : Nat → Bytes → Option (List (Nat × Nat × Bytes))
  | 0, b => if b.isEmpty then some [] else none
  | n + 1, b =>
    if b.isEmpty then some []
    else
      let c := fld b 4 2
      let len := 8 + 4 * c
      if b.length < len ∨ rsv b 1 1 = false ∨ rsv b 6 2 = false then none
      else (biasRecords n (b.drop len)).map (fun r => (fld b 0 1, fld b 2 2, slice b 8 (4 * c)) :: r)

/-- Every FP32 value of a run is finite. -/
def allFinite (b : Bytes) : Bool := (chunks 4 (b.length / 4 + 1) b).all (fun w => isFin32 (BitVec.ofNat 32 (leNat w)))

/-- The content check of the BIAS section; an absent section passes. -/
def biasOk (m : ImgSt) : Bool :=
  match biasRecords 2048 (m.sec 9) with
  | none => false
  | some rs =>
    ascending (fun a b => decide (256 * a.1 + a.2.1 < 256 * b.1 + b.2.1)) rs
      && rs.all (fun r => m.pOk r.1 && decide (r.2.1 < m.pf r.1 4 2)
        && decide (r.2.2.length = 4 * leExperts (m.layer r.1 r.2.1)) && allFinite r.2.2)

/-! ### SCHEDULE (R112, R113) -/

/-- The content check of the SCHEDULE section. -/
def scheduleOk (m : ImgSt) : Bool :=
  let b := m.sec 10
  let n := fld b 0 1
  within n 1 16 && within (fld b 1 1) 2 64 && decide (b.length = 16 + 512 * n) && rsv b 2 14
    && (List.range n).all (fun f => (List.range 16).all (fun k =>
        rsv b (16 + (16 * f + k) * 32 + 26) 6 && (List.range 52).all (fun r =>
          let o := slotOwner b f k r
          if o < 8 then m.pOk o && (decide (r < 48) || decide (m.pf o 3 1 &&& (3 * 4 ^ (r - 48)) ≠ 0))
          else o == 8 || o == 15)))
    && (List.range 48).all (fun r =>
        (decide (12 ≤ r) && fld m.hdr (0x48 + (r - 12)) 1 == 3)
          || (List.range n).any (fun f => (List.range 16).any (fun k => slotOwner b f k r == 8)))

/-! ### MANAGER (R421) -/

/-- The content check of the MANAGER section. -/
def managerOk (b : Bytes) : Bool :=
  let g := BitVec.ofNat 32 (fld b 4 4)
  let lim := fld b 8 4
  decide (b.length = 64) && rsv b 2 2 && rsv b 12 52 && within lim 64 1048576 && decide (lim % 32 = 0)
    && (if fld b 0 2 = 0 then decide (g = 0) else isFin32 g && f32Lt 0 g)

/-! ### FOLD (R357, R358) -/

/-- Group block i of the FOLD section. -/
def foldBlock (b : Bytes) (i : Nat) : Bytes := slice b (64 + 10304 * i) 10304
/-- The member that holds shard j. -/
def shardOf (k : Bytes) (j : Nat) : Nat := fld k (64 + 2 * j) 2
/-- Layer entry l of a group block. -/
def foldLayer (k : Bytes) (l : Nat) : Bytes := slice k (2112 + 32 * l) 32
/-- The shards of a member, ascending. -/
def shardsOf (k : Bytes) (x : Nat) : List Nat := (List.range 1024).filter (fun j => shardOf k j == x)
/-- Bytes of an element: 0x00 FP32, 0x01 BF16. -/
def elemBytes (t : Nat) : Nat := if t = 0 then 4 else 2

/-- The rules of a valid group block. -/
def foldBlockOk (m : ImgSt) (k : Bytes) : Bool :=
  let g := fld k 1 1
  let p := m.gf g 1 1
  let mask := m.gf g 4 2
  let lev := fld k 2 1
  let mine := (shardsOf k m.self).length
  fld k 0 1 == 1 && decide (g < 64) && m.isStepOf p g && bit (m.gf g 2 1) 4
    && (within lev 1 10 || lev == 255) && (lev == 255 || m.pf p 2 1 == 0)
    && within (fld k 3 1) 1 5 && rsv k 4 60
    && (List.range 1024).all (fun j => let x := shardOf k j
        decide (x / 32 < 16) && bit mask (x / 32) && decide (x % 32 < fld m.hdr 0x1B 1))
    && (List.range 512).all (fun x =>
        !(bit mask (x / 32) && decide (x / 32 < fld m.hdr 0x1C 1) && decide (x % 32 < fld m.hdr 0x1B 1)) ||
          (let sh := shardsOf k x
           !sh.isEmpty && sh == (List.range sh.length).map (sh.headD 0 + ·)))
    && (List.range 256).all (fun l =>
        let e := foldLayer k l
        if fld e 0 8 = 0 ∨ m.pf p 4 2 ≤ l then allZero e
        else
          decide (fld e 0 8 % 64 = 0) && decide (fld e 8 8 % 64 = 0) && within (fld e 16 4) 32 67108864
            && decide (fld e 16 4 % 32 = 0) && decide (fld e 20 1 ≤ 1) && decide (fld e 21 1 ≤ 1) && rsv e 22 10
            && (translate (m.sec 4) p (fld e 0 8) (mine * fld e 16 4 * elemBytes (fld e 20 1)) 2).isSome
            && (translate (m.sec 4) p (fld e 8 8) (fld e 16 4 * elemBytes (fld e 21 1)) 6).isSome)

/-- The content check of the FOLD section. -/
def foldOk (m : ImgSt) : Bool :=
  let b := m.sec 12
  let area := (fld b 0 8, 8388608)
  let vs := (List.range 4).filter (fun i => fld (foldBlock b i) 0 1 ≠ 0)
  decide (b.length = 41280) && rsv b 16 48 && decide (area.1 % 4096 = 0) && m.fits area
    && !overlap area m.pool && !overlap area m.linkArr
    && (List.range 8).all (fun p => !m.pOk p || !overlap area (m.biasArea p))
    && (List.range 8).all (fun p => (validSegs (m.sec 4) p).all (fun r => !r.2 || !overlap area r.1))
    && (List.range 4).all (fun i => if vs.contains i then foldBlockOk m (foldBlock b i) else allZero (foldBlock b i))
    && noDup (vs.map (fun i => fld (foldBlock b i) 1 1))
    && decide (sumNat (vs.map (fun i => fld (foldBlock b i) 3 1)) ≤ 5)

/-! ### The checks of LOAD (R89) -/

/-- The content check of a section type. An absent optional section passes (R82); MANAGER is checked on a member with
POD_MGR only (R421). DEDUCED, log entry 43. -/
def sectionOk (m : ImgSt) (t : Nat) : Bool :=
  match t with
  | 1 => powerOk (m.sec 1)
  | 2 => partitionsOk m
  | 3 => groupsOk m
  | 4 => segmentsOk m
  | 5 => hamperOk m
  | 6 => layersOk m
  | 7 => placementOk m
  | 8 => profilesOk m
  | 9 => biasOk m
  | 10 => scheduleOk m
  | 11 => !bit (fld m.hdr 0x15 1) 2 || managerOk (m.sec 11)
  | 12 => foldOk m
  | 13 => !m.sections.any (fun e => e.1 == 13) || selftestOk (m.sec 13)
  | _ => true

/-- The failing section with the lowest TYPE. -/
def firstBadSection (m : ImgSt) : Option Nat := (List.range 14).find? (fun t => !sectionOk m t)

/-! ### The live banks of a partition (R255) -/

/-- Table t of partition p: 0 layer, 1 placement, 2 profile, 3 bias. -/
def State.tab (s : State) (p t : Nat) : TablePair := (s.part p).tables.getD t emptyTable
/-- The layer entry of layer l. -/
def State.layerEnt (s : State) (p l : Nat) : Bytes := (s.tab p 0).live.entries.getD l []
/-- The profile of layer l. -/
def State.profEnt (s : State) (p l : Nat) : Bytes := (s.tab p 2).live.entries.getD (leProf (s.layerEnt p l)) []
/-- The placement map of layer l. -/
def State.mapEnt (s : State) (p l : Nat) : Bytes := (s.tab p 1).live.entries.getD (leMap (s.layerEnt p l)) []
/-- MICRO_MAX and CAP_POLICY of layer l (R265). -/
def State.microMax (s : State) (p l : Nat) : Nat := fld (s.profEnt p l) 7 1
def State.capPolicy (s : State) (p l : Nat) : Nat := fld (s.profEnt p l) 6 1

end Sys2Proof.Machine
end

