-- ==== Sys2Proof/Machine/Start.lean ====
section
/-! DEFINITION. The start sequence as shared operations: refusal (R95), the entry of each state (R89, R94), the
header checks of CLOCK_CHECK (R43, R60, R78) and the checks of an image copy (R80 to R88). -/

namespace Sys2Proof.Machine

/-! ### Where the block stands -/

/-- In RUNNING and not under RST_N. -/
def State.running (s : State) : Bool := !s.boot.rstLow && s.boot.state == 11

/-- In service: RUNNING, with a shutdown self-test at most draining (R443). -/
def State.inService (s : State) : Bool := s.running && decide (s.self.state ≤ 1)

/-- The held classes may issue for partition p in this stitch (R435, R437, R438). -/
def State.mayIssue (s : State) (p : Nat) : Bool :=
  s.inService && !s.lowest && !s.power.held && decide (s.stitch.count % 16 < (s.part p).issueF)

/-! ### The boot flash (R62, R63)

The places of the fields of the SFDP area are those of JESD216, which R63 names: PRESUMED, log entry 99. -/

/-- The first transfer returns the SFDP signature. -/
def sfdpSigned (r : SfdpRead) : Bool := decide (fld r.head 0 4 = 0x50444653)

/-- DWORDs of the Basic Flash Parameter Table, and its address, as the parameter header declares them. -/
def bfptLen (r : SfdpRead) : Nat := fld r.param 3 1
def bfptAt (r : SfdpRead) : Nat := fld r.param 4 3

/-- The table reaches the DWORD, the 20th, that declares 8D-8D-8D support. -/
def bfptOctal (r : SfdpRead) : Bool := decide (20 ≤ bfptLen r)

/-- The SFDP transfers that the block makes: one where there is no signature, at most four, 24 bytes in all. -/
def sfdpXfers (r : SfdpRead) : List BootXfer :=
  .sfdp 0 8 :: if sfdpSigned r then
    [.sfdp 8 8, .sfdp (bfptAt r + 4) 4] ++ (if bfptOctal r then [.sfdp (bfptAt r + 76) 4] else [])
  else []

/-- The flash size of a density DWORD, in bytes: bits minus 1, or with bit 31 set the power of two of the bits. -/
def densityBytes (d : Bytes) : Nat :=
  let v := fld d 0 4
  if bit v 31 then 2 ^ (v % 2 ^ 31) / 8 else (v + 1) / 8

/-- A read of the flash in the mode of the selected copy (R63). -/
def BootSt.readFlash (b : BootSt) (at_ len : Nat) : BootSt :=
  { b with xfers := b.xfers ++ [if b.octalSel then .octal at_ len else .single at_ len] }

/-- What the SFDP area declares; none without the signature (R63). -/
def parseSfdp (r : SfdpRead) : Option Sfdp :=
  if sfdpSigned r then
    some { size := some (densityBytes r.density)
           octal := bfptOctal r && within (bits (fld r.octal 0 4) 28 4) 1 14 }
  else none

/-! ### Copy checks (R80 to R85) -/

/-- Check 1 of R85: MAGIC and FMT_VER. -/
def hdrKnown (h : Bytes) : Bool :=
  decide (512 ≤ h.length) && decide (fld h 0 4 = 0x49335243) && decide (fld h 4 2 = 1)

/-- IMG_LEN of a header. -/
def imgLen (h : Bytes) : Nat := fld h 0x0C 4

/-- Check 2 of R85. -/
def lenOk (h : Bytes) : Bool := within (imgLen h) 8192 33554432 && imgLen h % 4096 == 0

/-- The signed range of an image (R79). -/
def signedRange (img : Bytes) : Bytes := img.take (imgLen img - 256)

/-- The image hash: SHA-384 of the signed range. -/
def imgHashOf (img : Bytes) : Bytes := sha384 (signedRange img)

/-- Byte i of the trailer, as a field (R83). -/
def trailer (img : Bytes) (off n : Nat) : Bytes := slice img (imgLen img - 256 + off) n

/-- The bytes of the key store, word by word, least significant byte first (R84). -/
def keyBytes (keys : List Word) : Bytes := keys.flatMap (fun w => toLE 4 w.toNat)

/-- Directory entry i of an image (R81). -/
def dirEnt (img : Bytes) (i : Nat) : Bytes := slice img (512 + 16 * i) 16

/-- The directory of an image as (TYPE, SFMT, OFFSET, LENGTH). -/
def directory (img : Bytes) : List (Nat × Nat × Nat × Nat) :=
  (List.range (fld img 0x16 2)).map (fun i =>
    let e := dirEnt img i
    (fld e 0 2, fld e 2 2, fld e 4 4, fld e 8 4))

/-- Header ranges of R80. -/
def headerOk (h : Bytes) : Bool :=
  let fl := fld h 0x15 1
  decide (fld h 6 2 = 512) && within (fld h 8 4) 1 0xFFFFFFFE && decide (fld h 0x14 1 ≤ 8) && decide (fl < 32)
    && within (fld h 0x16 2) 1 64 && decide (fld h 0x19 1 ≤ 15) && decide (fld h 0x1A 1 ≤ 31)
    && within (fld h 0x1B 1) 1 32 && within (fld h 0x1C 1) 1 16 && rsv h 0x1D 3
    && decide (fld h 0x20 8 % 65536 = 0) && decide (fld h 0x28 8 % 65536 = 0)
    && within (fld h 0x34 2) 64 1024 && rsv h 0x3A 2 && rsv h 0x44 4
    && (slice h 0x48 36).all (fun b => decide (b.toNat ≤ 3)) && rsv h 0x6C 4 && rsv h 0x78 392
    && (!bit fl 1 || bit fl 2) && (!bit fl 3 || bit fl 2)
    && decide (fld h 0x19 1 < fld h 0x1C 1) && decide (fld h 0x1A 1 < fld h 0x1B 1)

/-- Directory rules of R81 and R82. -/
def directoryOk (img : Bytes) : Bool :=
  let d := directory img
  let n := d.length
  d.all (fun e => within e.1 1 13 && decide (e.2.1 = 1) && decide (e.2.2.1 % 256 = 0) && decide (1 ≤ e.2.2.2)
      && decide (512 + 16 * n ≤ e.2.2.1) && decide (e.2.2.1 + e.2.2.2 ≤ imgLen img - 256))
    && (List.range n).all (fun i => rsv (dirEnt img i) 12 4)
    && noDup (d.map (·.1))
    && ascending (fun a b => decide (a.2.2.1 + a.2.2.2 ≤ b.2.2.1)) d
    && [1, 2, 3, 4, 5, 6, 7, 8, 10, 12].all (fun t => (d.map (·.1)).contains t)
    && (!bit (fld img 0x15 1) 2 || (d.map (·.1)).contains 11)

/-- The reason code of a copy (R85, R97): the first check that fails, 0 VALID. -/
def copyReason (keys : List Word) (img : Bytes) : Nat :=
  let n := imgLen img
  if !hdrKnown img then 1
  else if !lenOk img then 2
  else if decide (img.length < n) || decide (leNat (slice img (n - 4) 4) ≠ (crc32c (img.take (n - 4))).toNat) then 3
  else if sha384 (trailer img 0 96) ≠ keyBytes keys then 4
  else if !ecdsaOk (trailer img 0 96) (imgHashOf img) (trailer img 96 48) (trailer img 144 48) then 5
  else if decide (fld img 0x12 2 ≠ 3) || decide (2 < fld img 0x11 1) then 6
  else if !(headerOk img && directoryOk img) then 7
  else 0

/-- The sections of an image by TYPE, in ascending TYPE. -/
def sectionsOf (img : Bytes) : List (Nat × Bytes) :=
  (List.range 14).filterMap (fun t =>
    ((directory img).find? (fun e => e.1 = t)).map (fun e => (t, slice img e.2.2.1 e.2.2.2)))

/-! ### Refusal and entry -/

/-- The header of the selected copy, before LOAD as after it. -/
def selHdr (b : BootSt) : Bytes := if b.copySel = some .b then b.hdrB else b.hdrA

/-- Start refused: REFUSED with a code until RST_N; every switched domain goes off (R95, R96). -/
def State.refuseStart (s : State) (code detail us : Nat) : State :=
  let s := s.domainsOff (List.range 46)
  let s := { s with
    boot := { s.boot with state := 15, code := code, detail := detail, waiting := none, startUs := us }
    link := resetLink }
  s.rampsOff.raise rGLOBAL_EVT 0

/-- The header checks on entry to CLOCK_CHECK, in their order (R89): ATTACH_CREDIT, LINK_MODE_INVALID, FLASH_LAYOUT;
0 when all pass. -/
def selectCode (h : Bytes) (sfdp : Option Sfdp) : Nat :=
  let lo := fld h 0x3C 4
  let ro := fld h 0x40 4
  if !((slice h 0x30 4).all (fun b => decide (8 ≤ b.toNat))) then 6
  else if (slice h (0x48 + 31) 5).any (fun b => b == 2) then 7
  else if decide (lo % 4096 ≠ 0) || decide (ro % 4096 ≠ 0) || decide (lo < 0x4000000) || decide (ro < 0x4000000)
      || (decide (lo < ro + 65536) && decide (ro < lo + 262144))
      || (match sfdp.bind (·.size) with
          | some n => decide (n < lo + 262144) || decide (n < ro + 65536)
          | none => false) then 8
  else 0

/-- The unit availability registers take the units in service (R476). -/
def State.showUnits (s : State) : State :=
  { s with units := { s.units with
      shownArrays := s.units.arrays, shownFolds := s.units.folds
      shownMem := s.units.memPorts, shownLinks := s.units.links } }

/-- The Starch slices of the cores of partition p serve it from now on, as far as they are usable (R234). -/
def State.showSlices (s : State) (p : Nat) : State :=
  { s with units := { s.units with slices := maskOf 8 (fun c =>
      if bit (s.pCores p) c then (s.coresOf p).contains c else bit s.units.slices c) } }

/-- The order in which UNIT_INIT switches domains on (R429), unusable arrays and Fold units left off. -/
def initOrder (u : UnitSt) : List Nat :=
  [32, 33, 34, 35, 40, 41, 42, 43, 44, 45]
    ++ ((List.range 4).filter (bit u.folds)).map (36 + ·)
    ++ (List.range 32).filter (bit u.arrays)

/-- The entry of a start state after AUTH, its work done up to what waits for an event. -/
def State.enterWork (s : State) (n us : Nat) : State :=
  let s := { s with boot := { s.boot with state := n, waiting := none } }
  match n with
  | 3 =>
    let c := selectCode (selHdr s.boot) s.boot.sfdp
    if c ≠ 0 then s.refuseStart c 0 us
    else { s with recd := { s.recd with resultOfs := some (fld (selHdr s.boot) 0x40 4) } }
  | 5 => ({ s with power := { s.power with ramps := initOrder s.units, rampOn := true } }).showUnits
  | 7 => { s with power := { s.power with window := 0, kernOps := [], telemOk := [], lowWin := [] } }
  | 9 =>
    let src := if s.extStitch then 2 else if s.headMgr then 4 else if s.podMgr then 3 else 0
    { s with stitch := { resetStitch with src := src, peers := s.stitch.peers, roundPs := s.stitch.roundPs } }
  | 8 => ({ s with recd := { s.recd with startCnt := s.recd.startCnt + 1 } }).trainAll
  | 11 =>
    ({ s with
        boot := { s.boot with lock := true, startUs := us, recordUse := false }
        recd := { s.recd with
          uptime := 0, lost := false
          flashOps := s.recd.flashOps ++ (if s.boot.recordUse then [(s.hdrF 0x40 4 + 65280, some [0])] else []) }
        power := { s.power with bucket := (fld (s.sect 1) 8 4 * 1000000 : Nat), charges := [] } }).raise rGLOBAL_EVT 0
  | _ => s

/-- Move to the next start state, or wait at the boundary while PWR_ALERT_N is low (R94). -/
def State.enter (s : State) (n us : Nat) : State :=
  if s.power.alertLow then { s with boot := { s.boot with waiting := some n } } else s.enterWork n us

/-- Take a copy (R87, R88): IMG_HASH holds its image hash. -/
def State.takeCopy (s : State) (c : CopyId) (rejected : Bool) (us : Nat) : State :=
  let img := if c = .a then s.boot.imgA else s.boot.imgB
  let slow := if c = .a then s.boot.slowA else s.boot.slowB
  let s := { s with
    boot := { s.boot with
      copySel := some c, octalSel := s.boot.octalMode && !slow, copyRej := rejected
      imgHash := imgHashOf img, imgA := [], imgB := [] }
    recd := { s.recd with rejected := s.recd.rejected || rejected } }
  s.enter 3 us

/-- COPY_SELECT: the table of R87. -/
def State.selectCopy (s : State) (us : Nat) : State :=
  let a := s.boot.imgA
  let b := s.boot.imgB
  match s.boot.reasonA == 0, s.boot.reasonB == 0 with
  | true, true =>
    let ga := fld a 8 4
    let gb := fld b 8 4
    if gb < ga then s.takeCopy .a false us
    else if ga < gb then s.takeCopy .b false us
    else if imgHashOf a = imgHashOf b then s.takeCopy .a false us
    else s.refuseStart 2 0 us
  | true, false => s.takeCopy .a true us
  | false, true => s.takeCopy .b true us
  | false, false => s.refuseStart 1 0 us

/-- AUTH, entered from FLASH_READ: where no copy is VALID after octal reads, those that failed with LENGTH or CRC are
read again in single SPI, and the block shows AUTH meanwhile; else the selection (R86, R87, R89).
DESIGN CHOICE, log entry 100. -/
def State.auth (s : State) (us : Nat) : State :=
  let b := { s.boot with state := 2, waiting := none }
  let redo (r : Nat) := r == 2 || r == 3
  if b.reasonA ≠ 0 ∧ b.reasonB ≠ 0 ∧ b.octalMode ∧ (redo b.reasonA ∨ redo b.reasonB) then
    { s with boot := { b with
      octalMode := false
      slowA := redo b.reasonA, againA := redo b.reasonA
      slowB := redo b.reasonB, againB := redo b.reasonB } }
  else ({ s with boot := b } : State).selectCopy us

/-- From FLASH_READ to AUTH, or wait at the boundary while PWR_ALERT_N is low (R94). -/
def State.enterAuth (s : State) (us : Nat) : State :=
  if s.power.alertLow then { s with boot := { s.boot with waiting := some 2 } } else s.auth us

/-- A start that waited at a state boundary goes on. -/
def State.enterNow (s : State) (n us : Nat) : State := if n = 2 then s.auth us else s.enterWork n us

end Sys2Proof.Machine
end

