-- ==== Sys2Proof/Machine/Power.lean ====
section
/-! DEFINITION. Power domains, the energy account and governor, calibration, the alert and the thermal trip
(R428 to R440). -/

namespace Sys2Proof.Machine

/-! ### The account (R434) -/

/-- Array domains that are on. -/
def arrayDomains (dom : Nat) : Nat := ((List.range 32).filter (bit dom)).length

/-- Entry i of the cost table. -/
def State.costOf (s : State) (i : Nat) : Nat := s.power.cost.getD i 0

/-- The static charge of a stitch: entry 0 per array domain that is on, entry 1 for the others. -/
def State.staticPj (s : State) : Nat := s.costOf 0 * arrayDomains s.power.domOn + s.costOf 1

/-- Operation counts priced by a table; entries 0 and 1 do not count operations. -/
def priced (cost ops : List Nat) : Nat :=
  sumNat ((List.range 13).map (fun i => cost.getD (i + 2) 0 * ops.getD (i + 2) 0))

/-- ROLL: the charges of the last 1,563 stitches. -/
def State.roll (s : State) : Nat := sumNat s.power.charges

/-- Charge the stitch that ends: ROLL, the sustained bucket and the open window (R434). -/
def State.account (s : State) : State :=
  let c := s.staticPj + priced s.power.cost s.power.ops
  let cap : Int := (fld (s.sect 1) 8 4 * 1000000 : Nat)
  let gain : Int := (fld (s.sect 1) 4 4 * 640 : Nat)
  { s with power := { s.power with
      charges := (s.power.charges ++ [c]).drop (s.power.charges.length + 1 - 1563)
      bucket := min cap (s.power.bucket + gain) - (c : Int)
      winPj := s.power.winPj + c
      ops := List.replicate 15 0 } }

/-- The peak budget in pJ over 1,563 stitches. -/
def State.peakPj (s : State) : Nat := fld (s.sect 1) 0 4 * 1000320

/-- The governor (R435): `runs` and `others` count the issues of the held classes that the schedule and the resident operands
allow in the coming stitch, by entries 2 to 5 and 10 to 13; `last` are the operations of the stitch that ended. -/
def State.govern (s : State) (runs others last : List Nat) : State :=
  let traffic := (List.range 15).map (fun i => if 6 ≤ i ∧ i ≤ 9 then last.getD i 0 else 0)
  let heldOps := (List.range 15).map (fun i =>
    if 2 ≤ i ∧ i ≤ 5 then runs.getD (i - 2) 0 else if 10 ≤ i ∧ i ≤ 13 then others.getD (i - 10) 0 else 0)
  let p := s.staticPj + priced s.power.cost heldOps + priced s.power.cost traffic
  let oldest := if s.power.charges.length < 1563 then 0 else s.power.charges.headD 0
  let past := decide (s.peakPj < s.roll - oldest + p) || decide (s.power.bucket < (p : Int))
  let s := { s with power := { s.power with held := past } }
  if past then s.bump rTHROTTLE_CNT 1 else s

/-- READY may leave (R436, R439). -/
def State.readyEnergy (s : State) : Bool :=
  decide (s.roll + fld (s.sect 1) 12 4 * 1000000 ≤ s.peakPj)
    && decide ((fld (s.sect 1) 16 4 * 1000000 : Nat) ≤ s.power.bucket)

/-! ### Calibration (R431 to R433) -/

/-- The entries a kernel calibrates (R431). -/
def kernelEntries (k : Nat) : List Nat :=
  match k with
  | 0 => [0, 1]
  | 1 => [2]
  | 2 => [3, 5]
  | 3 => [4]
  | 4 => [6]
  | 5 => [7]
  | 6 => [10, 11]
  | 7 => [12, 13, 14]
  | _ => []

/-- An integer times a positive FP32 factor, rounded to the nearest integer, ties to even (R432). -/
def roundScale (c : Nat) (s : F32) : Nat :=
  match dec32 s with
  | .fin _ m e =>
    if 0 ≤ e then c * m * 2 ^ e.toNat
    else
      let d := 2 ^ (-e).toNat
      let x := c * m
      let q := x / d
      if d < 2 * (x % d) ∨ (2 * (x % d) = d ∧ q % 2 = 1) then q + 1 else q
  | _ => c

/-- The accepted telemetry of a window, none where missing (R433, R440). -/
def State.telemOf (s : State) (w : Nat) : Option Nat :=
  if s.power.lowWin.contains w then none else (s.power.telemOk.find? (fun e => e.1 = w)).map (·.2)

/-- The operation counts of a kernel's window. -/
def State.kernelOps (s : State) (w : Nat) : List Nat :=
  ((s.power.kernOps.find? (fun e => e.1 = w)).map (·.2)).getD []

/-- The scale factor of a kernel over its measured windows: eight times the energies in pJ, summed exactly and then
taken to FP32; `none` where the kernel keeps its seeds. DESIGN CHOICE, log entry 10. -/
def State.kernelScale (s : State) (k : Nat) (wins : List Nat) : Option F32 :=
  let seed := (List.range 16).map (seedOf (s.sect 1))
  let tel := wins.map s.telemOf
  let ops := wins.map s.kernelOps
  let st (c0 c1 : Nat) := wins.length * 3125 * (c0 * arrayDomains s.power.domOn + c1)
  let sumS := (if k = 0 then st (seed.getD 0 0) (seed.getD 1 0) else st (s.costOf 0) (s.costOf 1))
    + 8 * sumNat (ops.map (priced seed))
  let sumD := if k = 0 then sumS
    else 8 * sumNat (ops.map (fun o => sumNat ((kernelEntries k).map (fun e => seed.getD e 0 * o.getD e 0))))
  let idle := (k = 4 ∨ k = 5) ∧ fld (s.sect 5) 8 4 = 0
  if fld (s.sect 1) 21 1 = 0 ∨ tel.any (·.isNone) ∨ sumD = 0 ∨ idle then none
  else
    let sumQ := 8 * sumNat (tel.map (fun t => t.getD 0 * 1000000))
    some (f32Div (f32Sub (f32OfNat sumQ) (f32Sub (f32OfNat sumS) (f32OfNat sumD))) (f32OfNat sumD))

/-- Mark bit k of a mask. -/
def setBit (m k : Nat) (b : Bool) : Nat := if bit m k then (if b then m else m - 2 ^ k) else if b then m + 2 ^ k else m

/-- Calibrate the entries `upd` by kernel k over its measured windows, or keep their seeds (R432). -/
def State.calibrate (s : State) (k : Nat) (wins upd : List Nat) : State :=
  match s.kernelScale k wins with
  | none => { s with power := { s.power with
      seeded := setBit s.power.seeded k true, clamped := setBit s.power.clamped k false
      cost := upd.foldl (fun c e => setAt c e (fun _ => seedOf (s.sect 1) e)) s.power.cost } }
  | some f =>
    let low := f32Lt f 0x3F000000#32
    let high := f32Lt 0x40000000#32 f
    let g := if low then 0x3F000000#32 else if high then 0x40000000#32 else f
    { s with power := { s.power with
        seeded := setBit s.power.seeded k false
        clamped := setBit s.power.clamped k (low || high)
        cost := upd.foldl (fun c e => setAt c e (fun _ => roundScale (seedOf (s.sect 1) e) g)) s.power.cost } }

/-- The energy digest (R383): CRC-64 over the envelope fields and the cost table. -/
def State.energyDigest (s : State) : State :=
  { s with power := { s.power with
      digest := (crc64 ((s.sect 1).take 32 ++ s.power.cost.flatMap (toLE 4))).toNat } }

/-- Start the recalibration of the partition at the head of the waking queue: kernels 0 and 1 from the next window. -/
def State.startRecal (s : State) : State :=
  { s with power := { s.power with wakeWin := some (s.power.window + 1), kernOps := [], telemOk := [], lowWin := [] } }

/-- The domains that a partition needs and that are off, behind those already to be switched on: Starch where no partition
kept it on, then its arrays in ascending number (R428, R429). DEDUCED, log entry 117. -/
def State.rampUp (s : State) (p : Nat) : State :=
  let need := ((45 :: s.arraysOf p).filter (fun a => !bit s.power.domOn a)).filter (fun a => !s.power.ramps.contains a)
  { s with power := { s.power with
      ramps := s.power.ramps ++ need
      rampOn := !(s.power.ramps ++ need).isEmpty && !(s.power.alertLow || s.power.thermLow) } }

/-- Begin the switch-on of the array domains of the partition at the head of the waking queue (R429). -/
def State.startRamps (s : State) : State :=
  match s.power.wakeq with
  | [] => s
  | p :: _ => s.rampUp p

/-- Starch goes off while no partition is UP or WAKING (R428). -/
def State.dropStarch (s : State) : State :=
  if s.parts.any (fun x => x.state == 1 || x.state == 3) then s else s.domainOff 45

/-- The array domains of a partition that has stopped go off, and Starch with the last one (R428, R429). -/
def State.partOff (s : State) (p : Nat) : State :=
  (s.domainsOff ((List.range 32).filter (fun a => bit (s.pCores p) (a / 4)))).dropStarch

/-- Queue a partition for waking: one partition's domains come up at a time (R429). DEDUCED, log entry 40. -/
def State.wake (s : State) (p : Nat) : State :=
  let first := s.power.wakeq.isEmpty
  let s := { s with power := { s.power with wakeq := s.power.wakeq ++ [p] } }
  if first then
    let s := s.startRamps
    if s.power.ramps.isEmpty then s.startRecal else s
  else s

/-- The recalibration of the head partition is over: it stands before its wake check, and the next one ramps. -/
def State.endRecal (s : State) : State :=
  match s.power.wakeq with
  | [] => s
  | p :: rest =>
    let s := { s with power := { s.power with wakeq := rest, wakeWin := none } }
    let s := s.onPart p (fun x => { x with wakeTry := 1 })
    let s := s.startRamps
    if s.power.ramps.isEmpty && !s.power.wakeq.isEmpty then s.startRecal else s

/-! ### Commands -/

/-- DOMAIN_SWITCH_ON: a domain completes its ramp and is released; the next ramp starts, or waits for release of an
alert (R429, R440). The last ramp of UNIT_INIT leads to LOAD, the last of WAKING to the recalibration. Under RST_N only
SELFTEST_RUN switches domains on (R454). -/
def execDomainSwitchOn (dom : Nat) (s : State) : Host.Outcome State Fault Refusal :=
  match s.power.ramps with
  | [] => .next s
  | d :: rest =>
    if d ≠ dom ∨ s.power.rampOn = false ∨ (s.boot.rstLow ∧ s.self.wrapper ≠ 4) then .next s
    else
      let s := s.domainOn dom
      let s := { s with power := { s.power with
        ramps := rest, rampOn := !rest.isEmpty && !(s.power.alertLow || s.power.thermLow) } }
      if rest.isEmpty then
        if s.boot.state = 5 then .next (s.enter 6 0)
        else if s.boot.state = 11 ∧ s.power.wakeq ≠ [] ∧ s.power.wakeWin = none then .next s.startRecal
        else .next s
      else .next s

/-- The current window counts as missing (R440). -/
def State.lowWindow (s : State) : State :=
  if s.power.lowWin.contains s.power.window then s
  else { s with power := { s.power with lowWin := s.power.lowWin ++ [s.power.window] } }

/-- A self-test in CHECK to MEMORY is refused with POWER (R465): its record is written. -/
def State.powerRefuse (s : State) : State :=
  if 2 ≤ s.self.state ∧ s.self.state ≤ 4 then
    { s with self := { s.self with state := 5, code := 3, found := [], writeTry := 0 } }
  else s

/-- PWR_ALERT: PWR_ALERT_N recognised low (R73, R438). -/
def execPwrAlert (s : State) : Host.Outcome State Fault Refusal :=
  if s.power.alertLow then .next s
  else if s.boot.rstLow then .next ({ s with power := { s.power with alertLow := true } }.powerRefuse)
  else
    let s := { s with power := { s.power with alertLow := true } }
    let s := (s.raise rPWR_EVT 0).bump rPWR_ALERT_CNT 1
    .next s.lowWindow.powerRefuse

/-- PWR_ALERT_RELEASE: the signal has been high for 64 AOCLK cycles; issue resumes at the next stitch boundary, and a
start that waits at a state boundary goes on (R94, R438, R440). -/
def execPwrAlertRelease (us : Nat) (s : State) : Host.Outcome State Fault Refusal :=
  if !s.power.alertLow then .next s
  else
    let s := { s with power := { s.power with
      alertLow := false, resume := !s.boot.rstLow, rampOn := !s.power.ramps.isEmpty && !s.power.thermLow } }
    match s.boot.waiting with
    | some n => .next (s.enterNow n us)
    | none => .next s

/-- THERM_TRIP: THERM_TRIP_N recognised low; during start the trip refuses start (R73, R94, R439). -/
def execThermTrip (us : Nat) (s : State) : Host.Outcome State Fault Refusal :=
  if s.power.thermLow then .next s
  else if s.boot.rstLow then .next ({ s with power := { s.power with thermLow := true } }.powerRefuse)
  else
    let s := { s with power := { s.power with thermLow := true } }
    let s := (s.raise rPWR_EVT 1).bump rTHERM_CNT 1
    let s := s.lowWindow.powerRefuse
    if 1 ≤ s.boot.state ∧ s.boot.state ≤ 10 then .next (s.refuseStart 13 0 us) else .next s

/-- THERM_TRIP_RELEASE: the signal has been high for 100,000 AOCLK cycles (R439). -/
def execThermTripRelease (s : State) : Host.Outcome State Fault Refusal :=
  if !s.power.thermLow then .next s
  else .next { s with power := { s.power with
    thermLow := false, resume := !s.boot.rstLow, rampOn := !s.power.ramps.isEmpty && !s.power.alertLow } }

/-- A management write is acknowledged without error. -/
def State.mgtAck (s : State) : State := { s with mgtData := 0, mgtErr := false }

/-- PWR_TELEM_WRITE (R433): a write whose tag names the window just ended is accepted; any other is ignored and
counted. -/
def execPwrTelemWrite (value : Word) (s : State) : Host.Outcome State Fault Refusal :=
  if s.boot.rstLow then .next s
  else
    let s := s.mgtAck
    let w := s.power.window
    let started := 7 ≤ s.boot.state ∧ s.boot.state ≤ 11 ∧ 1 ≤ w
    if started ∧ value.toNat / 2 ^ 24 = (w - 1) % 256 then
      let e := (w - 1, value.toNat % 2 ^ 24)
      .next { s with power := { s.power with
        telem := value
        telemOk := s.power.telemOk.filter (fun x => decide (x.1 ≠ w - 1)) ++ [e] } }
    else .next (s.bump rTELEM_IGN_CNT 1)

/-- Kernels whose windows and whose last telemetry are in by the close of window `w` (R432, R433). -/
def State.kernelsAt (s : State) (w : Nat) : State :=
  let s := if 8 ≤ w ∧ w ≤ 64 ∧ w % 8 = 0 then
      let k := w / 8 - 1
      let s := s.calibrate k ((List.range 6).map (fun i => 8 * k + 2 + i)) (kernelEntries k)
      if w = 64 then s.energyDigest else s
    else s
  match s.power.wakeWin with
  | some w0 =>
    if w = w0 + 4 then
      (((s.calibrate 0 [w0 + 1] [0]).calibrate 1 [w0 + 3] [2]).energyDigest).endRecal
    else s
  | none => s

/-- ENERGY_WINDOW_CLOSE: the charges of the window are added, the calibration kernels advance, and CALIBRATE ends
with its 64th window (R432 to R434). `ops` are the operations the block counted in a calibration window.
DEDUCED, log entry 9. -/
def execEnergyWindowClose (ops : List Nat) (s : State) : Host.Outcome State Fault Refusal :=
  if s.boot.rstLow ∨ s.boot.state < 7 ∨ 11 < s.boot.state then .next s
  else
    let w := s.power.window
    let uj := s.power.winPj / 1000000
    let keep := decide (w < 64) || s.power.wakeWin.isSome
    let s := { s with
      power := { s.power with
        energyWin := uj, winPj := 0, window := w + 1
        kernOps := if keep then s.power.kernOps ++ [(w, ops.take 15)] else s.power.kernOps }
      recd := { s.recd with energyUj := s.recd.energyUj + uj } }
    let s := s.kernelsAt w
    let s := if s.power.alertLow || s.power.thermLow then s.lowWindow else s
    if w = 63 ∧ s.boot.state = 7 then
      .next (({ s with power := { s.power with calDone := true } }.energyDigest).enter 8 0)
    else .next s

end Sys2Proof.Machine
end

