-- ==== Sys2Proof/Machine/Hamper.lean ====
section
/-! DEFINITION. The Hamper buffer pools: cells, chains, owners, reservations, references, poison (R170 to R181,
R281). -/

namespace Sys2Proof.Machine

/-- Cells of a pool (R170). -/
def State.poolCells (s : State) (mem : Bool) : Nat := if mem then fld (s.sect 5) 8 4 else 65536

/-- Numbers of the cells of a pool that chains hold. -/
def chainCells (h : HamperSt) (mem : Bool) : List Nat :=
  h.chains.flatMap (fun c => (c.cells.filter (fun x => x.1 == mem)).map (·.2))

/-- Memory cells reserved for an owner group (R281). -/
def reservedBy (h : HamperSt) (o : Nat) : Nat := sumNat ((h.reserved.filter (fun r => r.1 == o)).map (·.2))

/-- used(o, pool) of R174; a reservation counts as used. -/
def usedBy (h : HamperSt) (o : Nat) (mem : Bool) : Nat :=
  sumNat ((h.chains.filter (fun c => c.owner == o)).map (fun c => (c.cells.filter (fun x => x.1 == mem)).length))
    + (if mem then reservedBy h o else 0)

/-- Cells of a pool that no allocation may take: in chains, or withheld by the Lint sweep (R459). -/
def takenCells (h : HamperSt) (mem : Bool) : List Nat := chainCells h mem ++ (if mem then [] else h.withheld)

/-- free(pool) of R174. -/
def State.freeCells (s : State) (mem : Bool) : Nat :=
  s.poolCells mem - (takenCells s.hamper mem).length
    - (if mem then sumNat (s.hamper.reserved.map (·.2)) else 0)

/-- min(o, pool) of R173. -/
def State.minCells (s : State) (o : Nat) (mem : Bool) : Nat :=
  if ownOk (s.sect 5) o then ownF (s.sect 5) o (if mem then 8 else 4) 4 else 0

/-- The minima of the other owners that are not yet used (R174). -/
def State.guarded (s : State) (o : Nat) (mem : Bool) : Nat :=
  sumNat (((List.range 16).filter (· ≠ o)).map (fun q => s.minCells q mem - usedBy s.hamper q mem))

/-- The grant condition of R174. A retired memory port makes the memory pool refuse (R408). -/
def State.mayGrant (s : State) (o n : Nat) (mem : Bool) : Bool :=
  decide (n ≤ s.freeCells mem) && decide (s.guarded o mem ≤ s.freeCells mem - n)
    && (!mem || s.units.memRet == 0)

/-- The `n` lowest-numbered cells from `c` on that are not taken; `k` bounds the search. -/
def lowestFree (taken : List Nat) : Nat → Nat → Nat → List Nat
  | 0, _, _ => []
  | k + 1, c, n =>
    if n = 0 then []
    else if taken.contains c then lowestFree taken k (c + 1) n
    else c :: lowestFree taken k (c + 1) (n - 1)

/-- The lowest-numbered run of `n` consecutive free cells (R172). -/
def lowestRun (taken : List Nat) (total n : Nat) : Option Nat :=
  let starts := sortBy (fun a b => decide (a ≤ b)) (0 :: taken.map (· + 1))
  starts.find? (fun c => decide (c + n ≤ total) && !taken.any (fun t => decide (c ≤ t) && decide (t < c + n)))

/-- The link entry of cell `i` of a chain (R171). -/
def linkWord (c : Chain) (i : Nat) : Nat :=
  let nxt := match c.cells[i + 1]? with
    | some (m, k) => k + (if m then 2 ^ 20 else 0)
    | none => 2 ^ 21
  nxt + (if i = 0 then 2 ^ 22 * c.ref else 0) + (if (c.cells[i]?).any c.poison.contains then 2 ^ 30 else 0)

/-- The partition whose link entries an owner group's chains hold, and whether it is the system owner. -/
def State.ownerPart (s : State) (o : Nat) : Nat × Bool :=
  let w := ownF (s.sect 5) o 1 1
  (w, w == 8)

/-- Write the link entries of the memory cells of a chain, before it is handed to any consumer (R171). -/
def State.writeLinks (s : State) (c : Chain) : State :=
  let base := fld (s.sect 5) 16 8
  let w := s.ownerPart c.owner
  (List.range c.cells.length).foldl (fun s i =>
    match c.cells[i]? with
    | some (true, k) => s.wr (base + 4 * k) (toLE 4 (linkWord c i)) (.linkEntry w.1 w.2)
    | _ => s) s

/-- The data of a pass is poisoned (R371). -/
def State.passPoison (s : State) (p l : Nat) : Bool :=
  match (s.part p).step with
  | some x => (match x.poisonAt with | some f => decide (f ≤ l) | none => false)
  | none => false

/-- Make a chain of given cells. Cells made from poisoned data carry POISON (R179). -/
def State.newChain (s : State) (o : Nat) (cells : List (Bool × Nat)) (refs : Nat) (pass : Option (Nat × Nat))
    (dirty : Bool) (data : Bytes) : Nat × State :=
  let bad := dirty || pass.any (fun q => s.passPoison q.1 q.2)
  let c : Chain := { id := s.hamper.nextId, owner := o, cells := cells, ref := refs, poison := if bad then cells else []
                     data := data, pass := pass }
  let s := { s with hamper := { s.hamper with
    chains := s.hamper.chains ++ [c], nextId := s.hamper.nextId + 1
    left := s.hamper.left.filter (fun e => !cells.contains (false, e.1)) } }
  (c.id, (s.charge 14 1).writeLinks c)

/-- Physical address of a memory cell. -/
def State.cellAddr (s : State) (k : Nat) : Nat := fld (s.sect 5) 0 8 + 4096 * k

/-- Write the bytes of a buffer into its memory cells. -/
def State.fillCells (s : State) (cells : List (Bool × Nat)) (data : Bytes) (obj : MemObj) : State :=
  (List.range cells.length).foldl (fun s i =>
    let b := slice data (4096 * i) 4096
    if b.isEmpty then s else s.wr (s.cellAddr (cells.getD i (true, 0)).2) b obj) s

/-- Allocate `n` staging cells, or the same bytes of the memory pool where staging refuses, and put data into them (R172,
R174, R176). -/
def State.allocStage (s : State) (o n refs : Nat) (pass : Option (Nat × Nat)) (dirty : Bool) (data : Bytes) (obj : MemObj) :
    Option (Nat × State) :=
  if s.mayGrant o n false then
    let t := takenCells s.hamper false
    some (s.newChain o ((lowestFree t (n + t.length) 0 n).map (fun c => (false, c))) refs pass dirty data)
  else
    let s := s.bump rSTAGE_FALLBACK_CNT 1
    let m := ceilDiv n 16
    if s.mayGrant o m true then
      let t := takenCells s.hamper true
      let cells := (lowestFree t (m + t.length) 0 m).map (fun c => (true, c))
      let r := s.newChain o cells refs pass dirty data
      some (r.1, r.2.fillCells cells data obj)
    else none

/-- Allocate memory cells, one run where `contig` asks for it (R172). -/
def State.allocMem (s : State) (o n refs : Nat) (contig : Bool) (pass : Option (Nat × Nat)) (dirty : Bool) (data : Bytes) :
    Option (Nat × State) :=
  let t := takenCells s.hamper true
  if !s.mayGrant o n true then none
  else if contig then
    (lowestRun t (s.poolCells true) n).map (fun c =>
      s.newChain o ((List.range n).map (fun i => (true, c + i))) refs pass dirty data)
  else some (s.newChain o ((lowestFree t (n + t.length) 0 n).map (fun c => (true, c))) refs pass dirty data)

/-- The counts of a refused request (R176). -/
def State.denied (s : State) (mem : Bool) : State :=
  (if mem then s else s.bump rSTAGE_FALLBACK_CNT 1).bump rMPOOL_DENY_CNT 1

/-- Reserve memory cells for an owner group in one request (R281); `none` where R174 refuses. -/
def State.reserve (s : State) (o n : Nat) : Option State :=
  if s.mayGrant o n true then
    some { s with hamper := { s.hamper with reserved := s.hamper.reserved ++ [(o, n)] } }
  else none

/-- Take `n` cells out of the reservations of an owner group. -/
def dropReserved (o : Nat) : Nat → List (Nat × Nat) → List (Nat × Nat)
  | _, [] => []
  | n, (q, k) :: r =>
    if q = o then (if k ≤ n then dropReserved o (n - k) r else (q, k - n) :: r)
    else (q, k) :: dropReserved o n r

/-- Give back a reservation. -/
def State.unreserve (s : State) (o n : Nat) : State :=
  { s with hamper := { s.hamper with reserved := dropReserved o n s.hamper.reserved } }

/-- Turn `n` reserved cells into one run (R281); `none` where no run of the size is free. -/
def State.runFromReserved (s : State) (o n : Nat) (pass : Option (Nat × Nat)) : Option (Nat × State) :=
  (lowestRun (takenCells s.hamper true) (s.poolCells true) n).map (fun c =>
    (s.unreserve o n).newChain o ((List.range n).map (fun i => (true, c + i))) 1 pass false [])

/-- A chain by its number. -/
def State.chainOf (s : State) (id : Nat) : Option Chain := s.hamper.chains.find? (fun c => c.id == id)

/-- Physical address of the first cell of a memory run. -/
def State.runAddr (s : State) (id : Nat) : Nat :=
  match (s.chainOf id).bind (fun c => c.cells.head?) with
  | some (_, k) => s.cellAddr k
  | none => 0

/-- Free the chains that satisfy `f`, whatever their REF. What their staging cells held stays there (R180). -/
def State.dropChains (s : State) (f : Chain → Bool) : State :=
  let gone := (s.hamper.chains.filter f).filterMap (fun c => match c.cells.head? with
    | some (false, k) => some (k, c.data)
    | _ => none)
  { s with hamper := { s.hamper with
      chains := s.hamper.chains.filter (fun c => !f c)
      left := gone ++ s.hamper.left.filter (fun e => !gone.any (fun g => g.1 == e.1)) } }

/-- Free a chain by its number, whatever its REF. -/
def State.freeChain (s : State) (id : Nat) : State := s.dropChains (fun c => c.id == id)

/-- Every chain and reservation of an owner group is freed (R180). -/
def State.freeOwner (s : State) (o : Nat) : State :=
  let s := s.dropChains (fun c => c.owner == o)
  { s with hamper := { s.hamper with
      reserved := s.hamper.reserved.filter (fun r => r.1 != o)
      waiting := s.hamper.waiting.filter (fun r => r.owner != o) } }

/-- The chain whose head cell is a given one. -/
def State.headedBy (s : State) (mem : Bool) (cell : Nat) : Option Chain :=
  s.hamper.chains.find? (fun c => c.cells.head? == some (mem, cell))

/-- Read the link entries of a chain's memory cells, the first `n` of them (R171). -/
def State.readLinks (s : State) (c : Chain) (n : Nat) : State :=
  let w := s.ownerPart c.owner
  ((c.cells.take n).filter (·.1)).foldl (fun s k => s.issueRead (fld (s.sect 5) 16 8 + 4 * k.2) 4 (.linkEntry w.1 w.2)) s

/-- Replace a chain and its link entries. -/
def State.setChain (s : State) (d : Chain) : State :=
  { s with hamper := { s.hamper with
    chains := s.hamper.chains.map (fun (x : Chain) => if x.id = d.id then d else x) } }.writeLinks d

/-- Release a buffer `n` times in one cycle: REF falls by the total, and at 0 the whole chain is freed, once. A release
that finds REF at 0 is ignored and counted (R177, R178); of several in one cycle those beyond REF.
DESIGN CHOICE, log entry 105. -/
def State.releaseN (s : State) (mem : Bool) (cell n : Nat) : State :=
  match s.headedBy mem cell with
  | none => s.bump rREF_ERR_CNT n
  | some c =>
    if c.ref ≤ n then
      let s := (s.readLinks c c.cells.length).freeChain c.id
      if c.ref < n then s.bump rREF_ERR_CNT (n - c.ref) else s
    else (s.readLinks c 1).setChain { c with ref := c.ref - n }

/-- Release a buffer once. -/
def State.release (s : State) (mem : Bool) (cell : Nat) : State := s.releaseN mem cell 1

/-- Release a chain by its number. -/
def State.releaseId (s : State) (id : Nat) : State :=
  match (s.chainOf id).bind (fun c => c.cells.head?) with
  | some (m, k) => s.release m k
  | none => s

/-- The data of the buffer a request copies, and whether it is poisoned (R177, R179). A buffer already freed still has the
contents of its cells (R178, R180). -/
def State.copied (s : State) (r : CellReq) : Bool × Bytes :=
  match r.src with
  | none => (false, [])
  | some (mem, k) =>
    match s.headedBy mem k with
    | some c => (!c.poison.isEmpty, c.data)
    | none =>
      let n := r.cells * (if r.memory || r.contig then 4096 else 256)
      (false, if mem then s.rd (s.cellAddr k) n else ((s.hamper.left.find? (fun e => e.1 == k)).map (·.2)).getD [])

/-- Allocate memory cells and put the data of the request into them (R172, R177). -/
def State.allocFilled (s : State) (r : CellReq) (dirty : Bool) (data : Bytes) (obj : MemObj) : Option (Nat × State) :=
  (s.allocMem r.owner r.cells r.refs r.contig none dirty data).map (fun g =>
    (g.1, g.2.fillCells (((g.2.chainOf g.1).map (·.cells)).getD []) data obj))

/-- Serve one registered request: granted in whole, or counted and kept for its next slot (R174, R176). -/
def State.serveReq (s : State) (r : CellReq) : State :=
  let d := s.copied r
  let w := s.ownerPart r.owner
  let got := if r.memory || r.contig then s.allocFilled r d.1 d.2 (.linkEntry w.1 w.2)
    else s.allocStage r.owner r.cells r.refs none d.1 d.2 (.linkEntry w.1 w.2)
  match got with
  | some (_, t) => t
  | none =>
    let s := s.denied (r.memory || r.contig)
    { s with hamper := { s.hamper with waiting := insertBy (fun a b => decide (a.rank < b.rank)) r s.hamper.waiting } }

/-- Serve requests of one cycle, those that wait among them, in the fixed order of R175. DESIGN CHOICE, log entry 32. -/
def State.serveCycle (s : State) (reqs : List CellReq) : State :=
  let rs := reqs.foldl (fun l r => insertBy (fun a b => decide (a.rank < b.rank)) r l) s.hamper.waiting
  rs.foldl State.serveReq { s with hamper := { s.hamper with waiting := [] } }

/-- Raise REF by `k`; refused where REF would pass 255 or no chain is there, and the requester copies the data into a new
chain (R177, R178). -/
def State.addRef (s : State) (mem : Bool) (cell : Nat) (copy : CellReq) (k : Nat) : State :=
  let refuse := (s.bump rREF_ERR_CNT 1).serveReq { copy with refs := k, src := some (mem, cell) }
  match s.headedBy mem cell with
  | none => refuse
  | some c => if 255 < c.ref + k then refuse else (s.readLinks c 1).setChain { c with ref := c.ref + k }

/-- HAMPER_RELEASE: the releases that reach one buffer in one cycle. -/
def execHamperRelease (buffer : Bool × Nat) (n : Nat) (s : State) : Host.Outcome State Fault Refusal :=
  .next (s.releaseN buffer.1 buffer.2 n)

/-- HAMPER_ADD_REF: the ADD_REFs that reach one buffer in one cycle count before the releases of that cycle (R177,
R178). -/
def execHamperAddRef (buffer : Bool × Nat) (refs : List Nat) (rest : RefCycle) (s : State) :
    Host.Outcome State Fault Refusal :=
  let s := refs.foldl (State.addRef · buffer.1 buffer.2 rest.copy ·) s
  .next (if rest.releases = 0 then s else s.releaseN buffer.1 buffer.2 rest.releases)

/-- A request that the pools take: an owner group, 1 to 255 consumers, at least one cell, a run of at most 256. -/
def State.reqOk (s : State) (r : CellReq) : Bool :=
  ownOk (s.sect 5) r.owner && within r.refs 1 255 && decide (1 ≤ r.cells) && (!r.contig || decide (r.cells ≤ 256))

/-- HAMPER_ALLOC: the requests of one cycle join those that wait, and all are served. -/
def execHamperAlloc (reqs : List CellReq) (s : State) : Host.Outcome State Fault Refusal :=
  .next (s.serveCycle (reqs.filter s.reqOk))

end Sys2Proof.Machine
end

