-- ==== Sys2Proof/Machine/Journal.lean ====
section
/-! DEFINITION. The runtime's records in segment 255, the ledger and the route journal (R283, R345, R384 to R394,
R410 to R413). -/

namespace Sys2Proof.Machine

/-! ### Segment 255 (R283, R345, R384, R410) -/

/-- The 64-byte record at an offset of segment 255, `none` where it fails translation. -/
def State.rec255 (s : State) (p off : Nat) : Option Bytes := (s.tr p (255 * 2 ^ 56 + off) 64 2).map (fun a => s.rd a 64)

/-- The engine record is well-formed (R283). -/
def engRecOk (b : Bytes) : Bool :=
  fld b 0 1 == 1 && decide (fld b 1 1 < 64) && decide (fld b 2 1 < 2) && rsv b 3 5 && decide (fld b 8 8 % 64 = 0)
    && decide (fld b 16 8 % 8 = 0) && rsv b 24 40

/-- The combine record is well-formed (R345). -/
def combRecOk (b : Bytes) : Bool :=
  let f := fld b 1 1
  let sc := BitVec.ofNat 32 (fld b 4 4)
  decide (fld b 0 1 ≤ 1) && decide (f < 8) && rsv b 2 2 && rsv b 16 48
    && (fld b 0 1 == 0 || (isFin32 sc && (bit f 1 || sc == f32One)
      && (if bit f 0 then decide (fld b 8 8 % 8 = 0) && decide (fld b 8 8 ≠ 0) else decide (fld b 8 8 = 0))))

/-- The journal record is well-formed (R384). -/
def State.jrnRecOk (s : State) (p : Nat) (b : Bytes) : Bool :=
  let j := fld b 1 1
  fld b 0 1 == 1 && within j 16 32 && rsv b 2 6 && rsv b 16 48 && decide (fld b 8 8 % 2 ^ min j 12 = 0)
    && (s.tr p (fld b 8 8) (2 ^ j) 6).isSome

/-- LSTRIDE of R411. -/
def lstride (layers : Nat) : Nat := 4096 * ceilDiv (1088 + 2048 * layers) 4096

/-- The ledger record is well-formed (R410). -/
def State.ledRecOk (s : State) (p : Nat) (b : Bytes) : Bool :=
  fld b 0 1 == 1 && decide (fld b 1 1 ≤ 8) && rsv b 2 6 && rsv b 16 48 && decide (fld b 8 8 % 4096 = 0)
    && (s.tr p (fld b 8 8) (2 ^ fld b 1 1 * lstride (s.pLayers p)) 6).isSome

/-- The journal and ledger records are read (R384, R410): both good, or `none`. -/
def State.readRecords (s : State) (p : Nat) : Option (Bytes × Bytes) :=
  match s.rec255 p 128, s.rec255 p 192 with
  | some j, some l => if s.jrnRecOk p j && s.ledRecOk p l then some (j, l) else none
  | _, _ => none

/-! ### The ledger (R411 to R413) -/

/-- Physical address of a ledger entry of partition p. -/
def State.ledgerAddr (s : State) (p idx : Nat) : Nat :=
  let r := (s.part p).ledRec
  (s.tr p (fld r 8 8) 1 6).getD 0 + lstride (s.pLayers p) * (idx % 2 ^ fld r 1 1)

/-- The next ledger index; 0xFFFF_FFFF is skipped. -/
def nextLedger (n : Nat) : Nat := if n + 1 = 0xFFFFFFFF then 0 else n + 1

/-- Token rows of the segments as submitted (R117). -/
def rowsOf (segs : List Seg) : Nat := sumNat (segs.map (·.cnt))

/-- Token rows of a step: none where a fault dropped its segments (R136, R411). -/
def stepRows (x : StepSt) : Nat := if x.fault = 0 then rowsOf x.segs else 0

/-- The first layer that did not complete in full. -/
def abortLayer (lstat : List Nat) : Nat := ((List.range lstat.length).find? (fun l => lstat.getD l 0 % 8 ≠ 0)).getD 0xFFFF

/-- The header of a ledger entry (R411). -/
def State.ledgerHead (s : State) (p : Nat) (x : StepSt) (status fault endAt : Nat) : Bytes :=
  toLE 4 x.ledger ++ toLE 1 status ++ toLE 1 fault ++ toLE 2 (s.pLayers p) ++ toLE 8 x.stepNo
    ++ toLE 8 (x.launchAt.getD 0) ++ toLE 8 endAt ++ toLE 2 (stepRows x)
    ++ toLE 2 (if status = 0xFF then 0xFFFF else abortLayer x.lstat)
    ++ toLE 1 ((if x.ledLost then 1 else 0) + (if x.abortReg then 2 else 0)) ++ zeros 27

/-- Write bytes of the step's ledger entry. -/
def State.ledgerWrite (s : State) (p : Nat) (x : StepSt) (off : Nat) (b : Bytes) : State :=
  s.wr (s.ledgerAddr p x.ledger + off) b (.ledger p)

/-- The entry at launch: header IN_PROGRESS and every LSTAT word NOT_STARTED (R413). -/
def State.ledgerOpen (s : State) (p : Nat) (x : StepSt) : State :=
  let n := s.pLayers p
  s.ledgerWrite p x 0 (s.ledgerHead p x 0xFF 0 0 ++ (List.replicate n (toLE 4 7)).flatten ++ zeros (4 * (256 - n)))

/-- The BITMAP of a layer, then its LSTAT word (R413). -/
def State.ledgerLayer (s : State) (p : Nat) (x : StepSt) (l : Nat) (bitmap : Bytes) : State :=
  (s.ledgerWrite p x (1088 + 2048 * l) bitmap).ledgerWrite p x (64 + 4 * l) (toLE 4 (x.lstat.getD l 7))

/-! ### Tumbler (R364) -/

/-- The generator. -/
def tumble (key ctr : BitVec 64) : BitVec 64 :=
  let x := key ^^^ (ctr * 0x9e3779b97f4a7c15#64)
  let x := (x ^^^ (x >>> 30)) * 0xbf58476d1ce4e5b9#64
  let x := (x ^^^ (x >>> 27)) * 0x94d049bb133111eb#64
  x ^^^ (x >>> 31)

/-- The FOLD block that names a group. -/
def State.foldOf (s : State) (g : Nat) : Option Nat :=
  (List.range 4).find? (fun i => let k := foldBlock (s.sect 12) i
    fld k 0 1 == 1 && fld k 1 1 == g)

/-- The Tumbler step seed of a group (R364). -/
def State.tseed (s : State) (g stepNo : Nat) : BitVec 64 :=
  tumble (BitVec.ofNat 64 (fld (s.sect 12) 8 8) ^^^ BitVec.ofNat 64 g) (BitVec.ofNat 64 stepNo)

/-! ### Journal records (R386 to R392) -/

/-- The 16-byte head. -/
def jrnHead (rtype p layer len stepNo : Nat) : Bytes :=
  toLE 1 rtype ++ toLE 1 p ++ toLE 2 layer ++ toLE 4 len ++ toLE 8 stepNo

/-- A record: head and body, padded to a multiple of 64 bytes. -/
def jrnRecord (rtype p layer stepNo : Nat) (body : Bytes) : Bytes :=
  let len := 64 * ceilDiv (16 + body.length) 64
  jrnHead rtype p layer len stepNo ++ body ++ zeros (len - 16 - body.length)

/-- ARITH_CLASS (R382). DESIGN CHOICE, log entry 4. -/
def arithClass : Nat := Config.implClass.toNat + 0x02 * 2 ^ 16 + 0x03 * 2 ^ 24

/-- STEP_HEAD (R387). -/
def State.recHead (s : State) (p : Nat) (x : StepSt) : Bytes :=
  let kept := x.segs.filter (·.kept)
  let comb := if fld x.combRec 0 1 = 1 then fld x.combRec 1 1 else 0
  jrnRecord 1 p 0 x.stepNo (
    toLE 8 (x.launchAt.getD 0)
    ++ toLE 8 (if (s.foldOf x.group).isSome then (s.tseed x.group x.stepNo).toNat else 0)
    ++ x.epochs.flatMap (toLE 4)
    ++ (s.part p).tables.flatMap (fun t => toLE 8 t.live.digest)
    ++ s.boot.imgHash.take 48 ++ zeros (48 - s.boot.imgHash.length)
    ++ toLE 4 arithClass ++ toLE 1 (s.hdrF 0x14 1) ++ toLE 1 (s.pcfg p 2 1) ++ toLE 1 x.group
    ++ toLE 1 (if x.active then 1 else 0) ++ toLE 8 s.power.digest ++ toLE 2 s.member
    ++ toLE 2 kept.length ++ toLE 4 (rowsOf kept) ++ toLE 1 comb ++ zeros 3 ++ toLE 4 (fld x.combRec 4 4) ++ zeros 32)

/-- SEGMENTS (R389). -/
def recSegs (p : Nat) (x : StepSt) : Bytes :=
  jrnRecord 2 p 0 x.stepNo ((x.segs.filter (·.kept)).flatMap (fun g =>
    toLE 2 g.stream ++ toLE 1 g.kind ++ toLE 1 g.prio ++ toLE 4 g.pos ++ toLE 2 g.cnt ++ toLE 1 g.client ++ zeros 5
      ++ toLE 8 g.seed ++ toLE 8 g.last))

/-- PASS (R390). `counts`: admitted, rejected, substituted, deferred, grant deferred, spilled, null, emptied, lost. -/
def recPass (p l stepNo narrowed : Nat) (m : Micro) : Bytes :=
  let c (i : Nat) := m.counts.getD i 0
  jrnRecord 3 p l stepNo (
    (List.range 6).flatMap (fun i => toLE 4 (c i)) ++ toLE 4 (c 6) ++ toLE 4 (c 7) ++ toLE 8 m.start ++ toLE 1 m.m
    ++ toLE 1 m.vary ++ toLE 2 (min 65535 narrowed) ++ toLE 4 (c 8))

/-- The order of TOKENS entries: ascending (stream, position, rank). -/
def tokLe (a b : Nat × Nat × Nat × Nat) : Bool :=
  decide (a.1 < b.1 ∨ (a.1 = b.1 ∧ (a.2.1 < b.2.1 ∨ (a.2.1 = b.2.1 ∧ a.2.2.1 ≤ b.2.2.1))))

/-- TOKENS (R391). -/
def recTokens (p l stepNo : Nat) (ev : List (Nat × Nat × Nat × Nat)) : Bytes :=
  jrnRecord 4 p l stepNo ((sortBy tokLe ev).flatMap (fun e =>
    toLE 2 e.1 ++ toLE 1 e.2.2.1 ++ toLE 1 e.2.2.2 ++ toLE 4 e.2.1))

/-- STEP_END (R392): the CRC covers the entry up to offset 55 of this record. -/
def recEnd (p : Nat) (x : StepSt) (status endAt : Nat) (entry : Bytes) : Bytes :=
  let b := jrnHead 5 p 0 64 x.stepNo ++ toLE 8 endAt ++ toLE 1 status ++ toLE 1 x.vary ++ toLE 2 x.diverted.length
    ++ toLE 4 x.stragglers.length ++ zeros 24
  b ++ toLE 8 (crc64 (entry ++ b)).toNat

/-- Queue a record of the step's entry; a STEP_HEAD begins the entry. -/
def State.jrnPush (s : State) (p : Nat) (b : Bytes) : State :=
  s.onPart p (fun x => { x with
    jrnQ := x.jrnQ ++ [b]
    jrnCrc := (if fld b 0 1 = 1 then [] else x.jrnCrc) ++ b })

/-- The journal of partition p has nothing left to write (R385). -/
def State.jrnIdle (s : State) (p : Nat) : Bool := (s.part p).jrnQ.isEmpty

/-- JOURNAL_WRITE: the next record is written once the ring has room; a record that does not fit before the ring's
end is preceded by a PAD record (R385). -/
def execJournalWrite (part : Nat) (s : State) : Host.Outcome State Fault Refusal :=
  let x := s.part part
  match x.jrnQ with
  | [] => .next s
  | r :: _ =>
    if s.writing (.journal part) then .next s
    else
      let size := 2 ^ fld x.jrnRec 1 1
      let at_ := x.jrnW % size
      let left := size - at_
      let pad := decide (left < r.length)
      let b := if pad then jrnHead 0 part 0 left 0 ++ zeros (left - 16) else r
      if size - (x.jrnW - x.jrnC) < b.length then
        if x.jrnWait then .next s
        else .next ((s.onPart part (fun y => { y with jrnWait := true })).bump rJRN_FULL_CNT 1)
      else
        let s := s.onPart part (fun y => { y with jrnWait := false, jrnQ := if pad then b :: y.jrnQ else y.jrnQ })
        .next (s.wr ((s.tr part (fld x.jrnRec 8 8) 1 6).getD 0 + at_) b (.journal part))

/-- The write responses of the record at the front have arrived: JRN_WRITE advances (R385). -/
def State.jrnDone (s : State) (p : Nat) : State :=
  if s.writing (.journal p) then s
  else s.onPart p (fun x => { x with
    jrnW := (x.jrnW + (x.jrnQ.headD []).length) % 2 ^ 64, jrnQ := x.jrnQ.drop 1 })

/-- JRN_CONSUMED_WRITE: a write of JRN_CONSUMED_HI applies both halves, or is ignored (R385). -/
def execJrnConsumedWrite (part : Nat) (value : Word) (s : State) : Host.Outcome State Fault Refusal :=
  if s.boot.rstLow then .next s
  else if 8 ≤ part ∨ !s.powered (rJRN_CONSUMED_HI part) then .next { s with mgtData := 0, mgtErr := true }
  else
    let s := { s with mgtData := 0, mgtErr := false }
    let v := value.toNat * 2 ^ 32 + (s.reg (rJRN_CONSUMED_LO part)).toNat
    let x := s.part part
    if v < x.jrnC ∨ x.jrnW < v then .next (s.raise rJRN_EVT 0)
    else .next ((s.onPart part (fun y => { y with jrnC := v })).setReg (rJRN_CONSUMED_HI part) value)

end Sys2Proof.Machine
end

