-- ==== Sys2Proof/Machine/Wire.lean ====
section
/-! DEFINITION. The wire: flits, channels, messages and the paths they take (R291 to R300, R309 to R311, R316 to R318,
R322). -/

namespace Sys2Proof.Machine

/-! ### Paths -/

/-- A message that travels from manager to manager between pods: the types of R320, and DEAD (R318, R338). -/
def mgrTyp (typ : Nat) : Bool := (decide (0x10 ≤ typ) && decide (typ < 0x20)) || typ == 0x0D

/-- First hop toward member `d` of a message of a type: channel, and whether the message travels RELAYED. `back` names
the way in reverse of a substitute gateway, over its own rail (R309, R316 to R318, R340). DEDUCED, log entry 51. -/
def State.route (s : State) (d typ : Nat) (back : Bool) : Nat × Bool :=
  if d / 32 = s.pod then
    match (s.port (s.portTo (d % 32))).relayed with
    | some r => (s.portTo r, true)
    | none => (s.portTo (d % 32), false)
  else if d % 32 = s.block then (64 + d / 32, false)
  else if back then (64 + d / 32, true)
  else if mgrTyp typ && s.podMgr && decide (d = s.mgrOf (d / 32)) then (96 + d / 32, false)
  else (s.portTo (d % 32), true)

/-! ### Flits (R291) -/

/-- The 64-bit header of a flit. -/
def flitHeader (f : Flit) : Nat :=
  f.kind + (if f.resend then 8 else 0) + 16 * f.owner + 2 ^ 8 * f.seq + 2 ^ 24 * f.ack + 2 ^ 40 * f.credit
    + (if f.mark then 2 ^ 52 else 0) + 2 ^ 54 * f.ofs

/-- The 512 bytes of a flit: header, payload padded to 496 bytes, CRC-64. -/
def flitBytes (f : Flit) : Bytes :=
  let b := toLE 8 (flitHeader f) ++ f.payload.take 496 ++ zeros (496 - f.payload.length)
  b ++ toLE 8 (crc64 b).toNat

/-- A received flit, `none` where it is a failed flit: CRC, reserved KIND, bit 53. -/
def parseFlit (b : Bytes) : Option Flit :=
  let h := fld b 0 8
  if b.length = 512 ∧ leNat (slice b 504 8) = (crc64 (b.take 504)).toNat ∧ h % 8 ≤ 2 ∧ bit h 53 = false then
    some { kind := h % 8, resend := bit h 3, owner := bits h 4 4, seq := bits h 8 16, ack := bits h 24 16
           credit := bits h 40 12, mark := bit h 52, ofs := bits h 54 10, payload := slice b 8 496 }
  else none

/-- The MAC address 02:C3:dd:pp:bb:qq (R60). -/
def State.mac (s : State) (member port : Nat) : Bytes :=
  toLE 1 0x02 ++ toLE 1 0xC3 ++ toLE 1 (s.hdrF 0x18 1) ++ toLE 1 (member / 32) ++ toLE 1 (member % 32) ++ toLE 1 port

/-- An uplink frame of eight flits (R60). -/
def State.frame (s : State) (c : Chan) (flits : List Bytes) : Bytes :=
  let tag := if bit (s.hdrF 0x15 1) 4 then (toLE 2 0x8100).reverse ++ (toLE 2 (s.hdrF 0x38 2)).reverse else []
  let b := s.mac c.peer c.peerPort ++ s.mac s.member c.port ++ tag ++ (toLE 2 (s.hdrF 0x36 2)).reverse ++ flits.flatten
  b ++ toLE 4 (fcs32 b).toNat

/-- A flit of a channel with its current SEQ announcement, ACK and CREDIT (R291, R293). -/
def chanFlit (c : Chan) (kind owner : Nat) (payload : Bytes) : Flit where
  kind := kind
  resend := false
  owner := owner
  seq := ((c.waiting.head?.map (·.x)).getD c.nextX) % 65536
  ack := c.rxX % 65536
  credit := c.freed % 4096
  mark := false
  ofs := 0
  payload := payload

/-- An IDLE flit of a channel. -/
def idleFlit (c : Chan) : Flit := chanFlit c 0 15 []

/-- Eight to a frame, missing flits padded with IDLE flits (R292); `n` bounds the frames. -/
def State.framesOf (s : State) (c : Chan) : Nat → List Flit → List Bytes
  | 0, _ => []
  | n + 1, fs =>
    if fs.isEmpty then [] else
      let g := fs.take 8
      s.frame c ((g ++ List.replicate (8 - g.length) (idleFlit c)).map flitBytes) :: s.framesOf c n (fs.drop 8)

/-- The largest STITCH_OFS of a port: one flit time, 5.12 ns in mode 1 and 2.56 ns else (R312). -/
def markMax (mode : Nat) : Nat := if mode = 1 then 640 else 320

/-- The first flit after a stitch boundary that is not a re-send carries the mark (R312). Its offset within a flit time is
a free value: the model has no time within a stitch (log entry 13). DESIGN CHOICE, log entry 48. -/
def State.stamp (s : State) (c : Chan) (fs : List Flit) : List Flit × State :=
  match fs with
  | f :: r =>
    if c.markDue && !f.resend then
      let (k, s) := s.draw
      let ofs := ((Config.freeByte k 0).toNat + 256 * (Config.freeByte k 1).toNat) % (markMax (s.port c.port).mode + 1)
      ({ f with mark := true, ofs := ofs } :: r, s.onChan c.id (fun x => { x with markDue := false }))
    else (fs, s)
  | [] => ([], s)

/-- Emit flits that carry their marks on a channel: singly on an intra-pod port, eight to a frame on an uplink; every flit
driven is charged, padding included (R434). What the block drives is kept in a list: DESIGN CHOICE, log entry 17. -/
def State.emit (s : State) (c : Chan) (fs : List Flit) : State :=
  let outs := if c.id < 31 then fs.map flitBytes else s.framesOf c (fs.length + 1) fs
  let s := s.charge 8 (if c.id < 31 then fs.length else 8 * outs.length)
  let s := { s with link := { s.link with frames := s.link.frames ++ outs.map (fun b => (c.port, b)) } }
  s.onChan c.id (fun x => { x with lastAck := c.rxX % 65536, lastCred := c.freed % 4096 })

/-- Drive flits on a channel; the first that is not a re-send takes a mark that is due. -/
def State.drive (s : State) (c : Chan) (fs : List Flit) : State :=
  let r := s.stamp c fs
  r.2.emit c r.1

/-- Send a CONTROL flit on channel `id` while its lanes carry flits (R301, R307). -/
def State.control (s : State) (id : Nat) (payload : Bytes) : State :=
  match s.chan id with
  | some c => if s.hears c.port then s.drive c [chanFlit c 2 8 payload] else s
  | none => s

/-! ### Transmission (R296, R299) -/

/-- New DATA flits leave on the channel: port ACTIVE and in service, HELLO agreed, no lowest state (R305, R438). -/
def State.chanOpen (s : State) (c : Chan) : Bool :=
  s.active c.port && !(s.port c.port).pendSvc && c.active && !s.lowest

/-- A flit of an owner waits to leave on a port. -/
def State.owing (s : State) (port owner : Nat) : Bool :=
  s.link.chans.any (fun c => c.port == port && c.waiting.any (fun t => t.flit.owner == owner && t.wait.isNone))

/-- A flit's bytes are here and its owner has a slot on the port in this stitch; a RELAYED flit also takes the slots of the
partition it belongs to that this one leaves idle (R34, R114, R309). -/
def State.flitOpen (s : State) (port : Nat) (t : TxFlit) : Bool :=
  t.wait.isNone && (s.slotOpen t.flit.owner (12 + port)
    || (t.flit.owner == sysOwner && s.slotOpen t.orig (12 + port) && !s.owing port t.orig))

/-- Split waiting flits into the first `n` that may leave, and those that stay; no flit passes another of its owner. -/
def pickFlits (may : TxFlit → Bool) : Nat → List Nat → List TxFlit → List TxFlit × List TxFlit
  | _, _, [] => ([], [])
  | 0, _, ts => ([], ts)
  | n + 1, stop, t :: r =>
    if may t && !stop.contains t.flit.owner then
      let q := pickFlits may n stop r
      (t :: q.1, q.2)
    else
      let q := pickFlits may (n + 1) (t.flit.owner :: stop) r
      (q.1, t :: q.2)

/-- The place of flit number `x` among flits in order; its own number where it is not one of them. -/
def numberIn (base : Nat) (order : List TxFlit) (x : Nat) : Nat :=
  match order.findIdx? (fun t => t.x == x) with
  | some i => base + i
  | none => x

/-- Send what slots, credits and replay places allow, a place under test not among them (R114, R296, R299, R456). SEQ follows the order of sending; the replay buffer
keeps each flit as it was sent, but for a mark (R297). -/
def State.pump (s : State) (id : Nat) : State :=
  match s.chan id with
  | none => s
  | some c =>
    let base := ((c.waiting.head?.map (·.x)).getD c.nextX)
    let places := (List.range (min c.credits (c.share - c.unacked.length))).takeWhile (fun i =>
      !s.replayUnderTest c.port (base + i))
    let (go, stay) := pickFlits (s.flitOpen c.port) places.length [] c.waiting
    if !s.chanOpen c || go.isEmpty then s
    else
      let num := numberIn base (go ++ stay)
      let go := go.map (fun t => { t with
        x := num t.x, sends := 1
        flit := { t.flit with seq := num t.x % 65536, ack := c.rxX % 65536, credit := c.freed % 4096 } })
      let r := s.stamp c (go.map TxFlit.flit)
      let kept := (go.zip r.1).map (fun e => { e.1 with flit := { e.2 with mark := false } })
      let s := r.2.onChan id (fun x => { x with
        waiting := stay.map (fun t => { t with x := num t.x }), unacked := x.unacked ++ kept
        credits := x.credits - go.length })
      let s := { s with link := { s.link with
        sent := s.link.sent.map (fun (m : TxMsg) => if m.chan = id then { m with lastX := num m.lastX } else m) } }
      s.emit ((s.chan id).getD c) r.1

/-- Every channel sends what it may. -/
def State.pumpAll (s : State) : State := (s.link.chans.map (·.id)).foldl State.pump s

/-- The 16-byte head of a message (R294). -/
def msgHead (typ flags src dst trigger msgNo len : Nat) : Bytes :=
  toLE 1 typ ++ toLE 1 flags ++ toLE 2 src ++ toLE 2 dst ++ toLE 2 trigger ++ toLE 4 msgNo ++ toLE 4 len

/-- The flits that a message with `len` body bytes takes (R294). -/
def flitsOf (len : Nat) : Nat := ceilDiv (len + 16) 496

/-- The payload of flit `i` of a message, as far as its bytes are here. -/
def TxMsg.payload (m : TxMsg) (i : Nat) : Bytes :=
  slice (msgHead m.typ m.flags m.src m.dst m.trigger m.msgNo m.len ++ m.body) (496 * i) 496

/-- What flit `i` of a message still waits for: nothing once its bytes are here. -/
def TxMsg.waits (m : TxMsg) (i : Nat) : Option MsgKey :=
  if m.len ≤ m.body.length ∨ 496 * (i + 1) ≤ 16 + m.body.length then none else m.via

/-- Queue a message's flits on a channel of a wire owner, and keep the message until it is acknowledged. Flits whose bytes
have not come yet keep their places (R310, R331). -/
def State.enqueue (s : State) (id wire : Nat) (m : TxMsg) : State :=
  match s.chan id with
  | none => s
  | some c =>
    let n := flitsOf m.len
    let ts := (List.range n).map (fun i =>
      { x := c.nextX + i, orig := m.owner, sends := 0, owed := false, idx := i, wait := m.waits i
        flit := { (chanFlit c 1 wire (m.payload i)) with seq := 0 } })
    let s := s.onChan id (fun x => { x with nextX := x.nextX + n, waiting := x.waiting ++ ts })
    let s := { s with link := { s.link with
      sent := s.link.sent ++ [{ m with chan := id, lastX := c.nextX + n - 1 }] } }
    s.pump id

/-- The next MSG_NO of a transmit stream (R295). -/
def State.txNext (s : State) (peer owner : Nat) : Nat :=
  ((s.link.txStr.find? (fun x => x.peer == peer && x.owner == owner)).map (·.next)).getD 0

/-- Set the next MSG_NO of a stream in a list of streams. -/
def setStream (l : List Stream) (peer owner n : Nat) : List Stream :=
  l.filter (fun x => !(x.peer == peer && x.owner == owner)) ++ [{ peer := peer, owner := owner, next := n, part := [] }]

/-- Send a message, whole or as its bytes arrive: the head names this member, the path and the stream's next MSG_NO (R294,
R295, R309, R316, R322, R331). -/
def State.sendOn (s : State) (m : TxMsg) (back : Bool) : State :=
  let n := s.txNext m.dst m.owner
  let (id, rel) := s.route m.dst m.typ back
  let s := { s with link := { s.link with txStr := setStream s.link.txStr m.dst m.owner (n + 1) } }
  let direct := s.portTo (m.dst % 32)
  let s := if rel && m.dst / 32 == s.pod then s.bump (rLK_RELAY_CNT direct) 1 else s
  s.enqueue id (if rel then 8 else m.owner)
    { m with chan := id, flags := if rel then 1 + 16 * m.owner else 0, src := s.member, msgNo := n }

/-- Send a message to member `dst`, with the buffers that it releases once it is acknowledged (R278). -/
def State.sendWith (s : State) (chains : List Nat) (dst owner typ trigger : Nat) (body : Bytes) (back : Bool) : State :=
  s.sendOn { chan := 0, owner := owner, typ := typ, flags := 0, src := 0, dst := dst, trigger := trigger, msgNo := 0
             len := body.length, body := body, via := none, lastX := 0, chains := chains } back

/-- Send a message of the member's own. -/
def State.send (s : State) (dst owner typ trigger : Nat) (body : Bytes) (back : Bool) : State :=
  s.sendWith [] dst owner typ trigger body back

/-- Send a message to each of a list of members. -/
def State.sendAll (s : State) (dsts : List Nat) (owner typ trigger : Nat) (body : Bytes) : State :=
  dsts.foldl (fun s d => s.send d owner typ trigger body false) s

/-- The members of the own pod but oneself. -/
def State.podPeers (s : State) : List Nat :=
  ((List.range s.podSize).map (32 * s.pod + ·)).filter (· ≠ s.member)

/-- Manager traffic goes as system traffic with TRIGGER 0xFFFF (R320). -/
def State.sendMgr (s : State) (dst typ : Nat) (body : Bytes) : State := s.send dst 8 typ 0xFFFF body false

/-- The pod managers of the other pods. -/
def State.otherMgrs (s : State) : List Nat := ((List.range s.pods).filter (· ≠ s.pod)).map s.mgrOf

/-! ### Reception (R295 to R299) -/

/-- The 64-bit number of a SEQ within 1,000 of the next expected one. -/
def resolveX (rx seq : Nat) : Option Nat :=
  let d := (seq + 65536 - rx % 65536) % 65536
  if d ≤ 1000 then some (rx + d)
  else if 64536 ≤ d ∧ 65536 - d ≤ rx then some (rx - (65536 - d))
  else none

/-- A flit number is acknowledged by an ACK field. -/
def ackedBy (ack x : Nat) : Bool :=
  let d := (ack + 65536 - x % 65536) % 65536
  decide (1 ≤ d) && decide (d ≤ 1000)

/-- Apply the header of a good flit: acknowledgement, credits, and the numbers it shows to be missing. A re-send carries
its original header (R297): a CREDIT behind the newest one seen frees nothing. DEDUCED, log entry 47. -/
def rxHeader (c : Chan) (f : Flit) : Chan :=
  let more := (f.credit + 4096 - c.credSeen) % 4096
  let fresh := decide (more ≤ 1000)
  let c := { c with
    unacked := c.unacked.filter (fun t => !ackedBy f.ack t.x)
    credits := if fresh then c.credits + more else c.credits
    credSeen := if fresh then f.credit else c.credSeen }
  if f.kind = 1 ∧ f.resend then c
  else match resolveX c.rxX f.seq with
    | some x =>
      let new := ((List.range (x - c.rxX)).map (c.rxX + ·)).filter (fun y =>
        !c.held.any (fun h => h.1 == y) && !c.missing.any (fun m => m.1 == y))
      { c with missing := c.missing ++ new.map (fun y => (y, 0)) }
    | none => c

/-- Messages whose last flit is acknowledged are no longer kept. -/
def State.freeSent (s : State) (id : Nat) : State :=
  match s.chan id with
  | none => s
  | some c =>
    let first := ((c.unacked ++ c.waiting).map (·.x)).foldl min c.nextX
    let done (m : TxMsg) := m.chan == id && decide (m.lastX < first)
    let cells := (s.link.sent.filter done).flatMap (·.chains)
    cells.foldl State.releaseId { s with link := { s.link with sent := s.link.sent.filter (fun m => !done m) } }

/-! ### Receive slots and their consumers (R110, R299, R310, R331) -/

/-- The owner of the stream a message belongs to: the one before it travelled RELAYED. -/
def streamOwner (m : Msg) : Nat := if bit m.flags 0 then m.flags / 16 else m.owner

/-- The next MSG_NO of a receive stream, and the body bytes of that message already handed over. -/
def State.rxNext (s : State) (src owner : Nat) : Nat × Bytes :=
  ((s.link.rxStr.find? (fun x => x.peer == src && x.owner == owner)).map (fun x => (x.next, x.part))).getD (0, [])

/-- The message is only passed on here: RELAYED for another member, or a RETURN for another source (R310, R331). -/
def State.passesOn (s : State) (m : Msg) : Bool :=
  (bit m.flags 0 && m.dst != s.member) || (m.typ == 7 && fld m.body 0 2 != s.member)

/-- A member is declared dead (R338). -/
def State.isDead (s : State) (m : Nat) : Bool := s.link.dead.any (fun d => d.1 == m)

/-- The key of a message as it came. -/
def keyOf (m : Msg) : MsgKey := (m.chan, streamOwner m, m.src, m.msgNo)

/-- The key of the message that holds slots. -/
def SlotHold.key (h : SlotHold) : MsgKey := (h.chan, h.owner, h.src, h.msgNo)

/-- The slots held for a message that came on its channel. -/
def holdIs (m : Msg) (h : SlotHold) : Bool := h.key == keyOf m

/-- Slots of a channel become free: CREDIT rises (R291). -/
def State.freeSlots (s : State) (chan n : Nat) : State := s.onChan chan (fun c => { c with freed := c.freed + n })

/-- One more slot is held for a message; `whole` with its last flit. Holds stand in the order of their first flits. -/
def State.holdSlot (s : State) (m : Msg) (whole : Bool) : State :=
  let old := s.link.slots.find? (holdIs m)
  let h : SlotHold := { chan := m.chan, owner := streamOwner m, src := m.src, msgNo := m.msgNo, typ := m.typ
                        trigger := m.trigger, whole := whole, transit := s.passesOn m
                        goal := if m.typ = 7 then fld m.body 0 2 else m.dst
                        n := (old.map (·.n)).getD 0 + 1, got := (old.map (·.got)).getD 0 + 1, len := m.length
                        chains := (old.map (·.chains)).getD [], fate := (old.map (·.fate)).getD 0 }
  { s with link := { s.link with slots :=
    if old.isSome then s.link.slots.map (fun x => if holdIs m x then h else x) else s.link.slots ++ [h] } }

/-- The slots of every hold that satisfies `f` are free, and the cells its bytes took. -/
def State.dropHolds (s : State) (f : SlotHold → Bool) : State :=
  (s.link.slots.filter f).foldl (fun s h => (h.chains.foldl State.releaseId s).freeSlots h.chan h.n)
    { s with link := { s.link with slots := s.link.slots.filter (fun h => !f h) } }

/-- The consumer of a message has taken it, or it is dropped: its slots are free. -/
def State.dropHold (s : State) (m : Msg) : State := s.dropHolds (holdIs m)

/-- Replace the hold of a message. -/
def State.putHold (s : State) (h : SlotHold) : State :=
  { s with link := { s.link with slots := s.link.slots.map (fun (x : SlotHold) => if x.key = h.key then h else x) } }

/-- The cells that the bytes of a message took pass to its handler. -/
def State.claim (s : State) (m : Msg) : List Nat × State :=
  match s.link.slots.find? (holdIs m) with
  | none => ([], s)
  | some h => (h.chains, s.putHold { h with chains := [] })

/-- What the inbox holds of a message. -/
def State.inboxOf (s : State) (k : MsgKey) : Option Msg := s.link.inbox.find? (fun m => keyOf m == k)

/-- The inbox holds a message as far as it is here. -/
def State.putInbox (s : State) (m : Msg) : State :=
  let old := s.link.inbox
  let new := if old.any (fun k => keyOf k == keyOf m) then old.map (fun k => if keyOf k = keyOf m then m else k)
    else old ++ [m]
  { s with link := { s.link with inbox := new } }

/-- A tally, pile, grant, return or reduction value: what waits for a pass of the step in flight. -/
def waitsForPass (typ : Nat) : Bool := (decide (1 ≤ typ) && decide (typ ≤ 7)) || typ == 0x20 || typ == 0x21

/-- The pass that an arriving message names, while it is open here; the layer is known by its parity (R321). -/
def State.openPass (s : State) (h : SlotHold) : Option Pass :=
  (s.part h.owner).step.bind (fun x => x.passes.find? (fun q => !q.ended && q.layer % 2 == h.trigger / 8 % 2))

/-- A consumer takes the bytes of a message as they arrive: its pass is open (R333). -/
def State.consumer (s : State) (h : SlotHold) : Bool :=
  !waitsForPass h.typ || s.stopped h.owner
    || (match (s.part h.owner).step with
      | none => decide (8 ≤ h.owner)
      | some _ => (s.openPass h).isSome)

/-- Free all slots that a hold has. -/
def State.freeHold (s : State) (h : SlotHold) : State := (s.putHold { h with n := 0 }).freeSlots h.chan h.n

/-- The list of a pile is here: `b` is the body as far as it is here (R275). -/
def listHere (b : Bytes) : Bool := decide (64 ≤ b.length) && decide (64 + 64 * fld b 18 2 ≤ b.length)

/-- Bytes from row to row of a pile of LENGTH `len`. -/
def rowStride (b : Bytes) (len : Nat) : Nat := (len - 64 - 64 * fld b 18 2) / max 1 (fld b 24 4)

/-- The rows of a pile that are here in whole. -/
def rowsHere (b : Bytes) (len : Nat) : Nat :=
  min (fld b 24 4) ((b.length - 64 - 64 * fld b 18 2) / max 1 (rowStride b len))

/-- The entries of a gateway pile list from an offset, `none` where they run out; `n` bounds their number. -/
def parseGw (b : Bytes) : Nat → Nat → Option (List GwRow × Nat)
  | 0, off => some ([], off)
  | n + 1, off =>
    let k := fld b (off + 2) 1
    let len := 8 * ceilDiv (8 + 4 * k) 8
    if b.length < off + len then none
    else (parseGw b n (off + len)).map (fun r =>
      ({ stream := fld b off 2, pos := fld b (off + 4) 4
         choices := (List.range k).map (fun j =>
           let w := fld b (off + 8 + 4 * j) 2
           (w % 4096, w / 4096, fld b (off + 10 + 4 * j) 2))
         data := [] } :: r.1, r.2))

/-- A buffer for row `i` of a pile that arrives: of the system owner, with REF equal to NDEST, for a gateway pile (R278); of
the partition for a RETURN. -/
def State.rowCell (s : State) (h : SlotHold) (q : Pass) (b : Bytes) (i : Nat) : Option (Nat × State) :=
  let w := rowStride b h.len
  let data := slice b (64 + 64 * fld b 18 2 + w * i) w
  if h.typ = 5 then
    let refs := match parseGw b (fld b 24 4) 64 with
      | some (rs, _) => ((rs[i]?).map (fun r => r.choices.length)).getD 1
      | none => 1
    s.allocStage (ownerOf (s.sect 5) sysOwner) (ceilDiv w 256) refs none (s.passPoison h.owner q.layer) data
      (.linkEntry sysOwner true)
  else s.allocStage (ownerOf (s.sect 5) h.owner) (ceilDiv w 256) 1 (some (h.owner, q.layer)) false data (.fatal h.owner)

/-- Buffers for rows of a pile that arrive, as far as the pools grant them; `n` bounds their number. The cells stand in the
hold in row order. -/
def State.rowCells (s : State) (h : SlotHold) (q : Pass) (b : Bytes) : Nat → SlotHold × State
  | 0 => (h, s)
  | n + 1 =>
    if rowsHere b h.len ≤ h.chains.length then (h, s)
    else match s.rowCell h q b h.chains.length with
      | none => (h, s.denied false)
      | some (id, t) => t.rowCells { h with chains := h.chains ++ [id] } q b n

/-- Rows of a RETURN or a gateway pile go to buffers as they arrive; the slots of flits whose rows have theirs are free
(R278, R299, R314). -/
def State.handRows (s : State) (h : SlotHold) (q : Pass) (b : Bytes) : State :=
  if !listHere b then s.freeHold h
  else
    let (h, s) := s.rowCells h q b (fld b 24 4)
    let done := (16 + 64 + 64 * fld b 18 2 + rowStride b h.len * h.chains.length) / 496
    let k := min h.n (done - (h.got - h.n))
    (s.putHold { h with n := h.n - k }).freeSlots h.chan k

/-- The micro-step that a message of an exchange names, where it has begun here. -/
def microAt (h : SlotHold) (q : Pass) : Option Micro := q.micros.find? (fun y => y.m % 8 == h.trigger / 16 % 8)

/-- Tickets of a micro-step were withheld at the destination (R252, R330). -/
def withheldAny (y : Micro) : Bool := y.tallies.any (fun t => !t.voided && !t.final && decide (t.granted < t.tickets))

/-- Rows of some of these experts have offsets that depend on the list of a lower-numbered source which has not come
(R282, R330). -/
def needsList (y : Micro) (src : Nat) (experts : List Nat) : Bool :=
  y.tallies.any (fun t => decide (t.src < src) && t.state == 0 && t.list.isNone && decide (0 < t.granted)
    && t.entries.any (fun e => experts.contains e.expert))

/-- The experts that the list of a direct pile names, row by row (R276). -/
def listExperts (b : Bytes) : List Nat := (List.range (fld b 20 4)).map (fun i => fld b (66 + 8 * i) 2 % 4096)

/-- Rows of a pile at its destination go into their input runs once these exist. Where tickets were withheld, rows whose
offsets depend on another source's list wait in staging cells until then; all others wait in the receive slots (R281, R289,
R330). -/
def State.handPile (s : State) (h : SlotHold) (q : Pass) (b : Bytes) : State :=
  match microAt h q with
  | none => s
  | some y =>
    if y.ranAll || y.destDone then (if h.whole then s else s.freeHold h)
    else if !y.tallyIn || !withheldAny y then s
    else if !listHere b then s.freeHold h
    else if !needsList y (fld b 0 2) (listExperts b) then s
    else match s.allocStage (ownerOf (s.sect 5) h.owner) (ceilDiv (496 * h.n) 256) 1 (some (h.owner, q.layer)) false
        (slice b (496 * (h.got - h.n) - 16) (496 * h.n)) (.fatal h.owner) with
      | some (id, t) => t.freeHold { h with chains := h.chains ++ [id] }
      | none => s.denied false

/-- The bytes that have come fill the flits that waited for them (R310, R331). -/
def TxMsg.fill (m : TxMsg) (t : TxFlit) : TxFlit :=
  if t.wait.isSome ∧ t.wait = m.via ∧ m.waits t.idx = none then
    { t with wait := none, flit := { t.flit with payload := m.payload t.idx } }
  else t

/-- Flits of a message that is being passed on leave as they arrive; the system owner's cells that hold them go with the
message (R310, R331). -/
def State.moveOn (s : State) (h : SlotHold) : State :=
  match s.inboxOf h.key, s.link.sent.find? (fun m => m.via == some h.key) with
  | some b, some m =>
    let m := { m with body := b.body, chains := m.chains ++ h.chains }
    let s := s.putHold { h with chains := [] }
    let s := { s with link := { s.link with
      sent := s.link.sent.map (fun (x : TxMsg) => if x.via = m.via then m else x)
      chans := s.link.chans.map (fun (c : Chan) => { c with waiting := c.waiting.map m.fill }) } }
    let s := if h.whole then
        { s with link := { s.link with
          slots := s.link.slots.filter (fun x => x.key != h.key), inbox := s.link.inbox.filter (fun x => keyOf x != h.key) } }
      else s
    s.pumpAll
  | _, _ => (h.chains.foldl State.releaseId s).putHold { h with chains := [], fate := 2 }

/-- The flits of a message passed on go to the system owner's staging cells; a discarded one is dropped as it arrives
(R174, R310, R331). -/
def State.handTransit (s : State) (h : SlotHold) : State :=
  if h.fate = 2 then
    let s := s.freeHold h
    if h.whole then
      { s with link := { s.link with
        slots := s.link.slots.filter (fun x => x.key != h.key), inbox := s.link.inbox.filter (fun x => keyOf x != h.key) } }
    else s
  else
    let b := ((s.inboxOf h.key).map (·.body)).getD []
    match s.allocStage (ownerOf (s.sect 5) sysOwner) (ceilDiv (496 * h.n) 256) 1 none false
        (slice b (496 * (h.got - h.n) - 16) (496 * h.n)) (.linkEntry sysOwner true) with
    | some (id, t) =>
      let t := t.freeHold { h with chains := h.chains ++ [id] }
      if h.fate = 1 then t.moveOn { h with n := 0, chains := h.chains ++ [id] } else t
    | none => s.denied false

/-- The bytes of one hold pass to their consumer, or to the system owner's staging cells while the message is passed on;
a refused request withholds the credits (R176, R299, R310, R314). -/
def State.handOne (s : State) (h : SlotHold) : State :=
  let r := s.rxNext h.src h.owner
  let b := if h.whole then ((s.inboxOf h.key).map (·.body)).getD [] else r.2
  if h.n = 0 then s
  else if h.transit then s.handTransit h
  else if (h.whole && h.typ != 2) || decide (r.1 < h.msgNo) || !s.consumer h then s
  else match s.openPass h with
    | some q =>
      if s.stopped h.owner then s.freeHold h
      else if h.typ = 2 then s.handPile h q b
      else if h.typ = 5 ∨ h.typ = 7 then s.handRows h q b
      else s.freeHold h
    | none => if h.whole then s else s.freeHold h

/-- The list of a pile is noted at its tally as soon as it is here (R276, R330). -/
def State.noteList (s : State) (h : SlotHold) : State :=
  let b := if h.whole then ((s.inboxOf h.key).map (·.body)).getD [] else (s.rxNext h.src h.owner).2
  if h.typ ≠ 2 ∨ h.transit ∨ !listHere b then s
  else match s.openPass h with
    | none => s
    | some q =>
      let es := listExperts b
      let good (t : RxTally) := t.src == fld b 0 2 && t.state == 0 && decide (es.length ≤ t.tickets)
        && es.all (fun e => t.entries.any (fun k => k.expert == e))
      s.onPass h.owner q.layer (fun q => { q with micros := q.micros.map (fun (y : Micro) =>
        if y.m % 8 = h.trigger / 16 % 8 then
          { y with tallies := y.tallies.map (fun (t : RxTally) => if good t then { t with list := some es } else t) }
        else y) })

/-- Every hold whose consumer is ready. -/
def State.handOver (s : State) : State :=
  let s := s.link.slots.foldl State.noteList s
  s.link.slots.foldl State.handOne s

/-- A TYPE that R319 and R320 reserve: no consumer takes it. -/
def reservedTyp (typ : Nat) : Bool :=
  !([1, 2, 3, 4, 5, 6, 7, 9, 0x0A, 0x0B, 0x0C, 0x0D, 0x10, 0x11, 0x12, 0x13, 0x14, 0x16, 0x17, 0x18, 0x1A, 0x1C, 0x1D,
    0x1E, 0x20, 0x21, 0x22, 0x23] : List Nat).contains typ

/-- Record a corrupt message (R334, R343). -/
def State.markCorrupt (s : State) (msg : Msg) (check : Nat) : State :=
  let w := BitVec.ofNat 32 (msg.src % 512 + 65536 * (msg.typ % 256) + 2 ^ 24 * check)
  ((s.bump rXCH_CORRUPT_CNT 1).latch rXCH_LAST_BAD w).raise rXCH_EVT 0

/-- A whole message: one of an earlier MSG_NO is dropped, the one in progress is delivered with the bytes handed over
before, a later one is held (R295). RELAYED messages for another member pass to the relay; one of a reserved TYPE is
discarded (R334). A message that a dead member sent is stale (R342), but for a PORT_REPORT: from it the map of R308 shows that
the member is back (R424). DEDUCED, log entry 65. -/
def State.arrive (s : State) (m : Msg) : State :=
  if bit m.flags 0 ∧ m.dst ≠ s.member then s.putInbox m
  else
    let o := streamOwner m
    let (n, part) := s.rxNext m.src o
    if m.msgNo < n then s.dropHold m
    else if m.msgNo = n then
      let s := { s with link := { s.link with rxStr := setStream s.link.rxStr m.src o (n + 1) } }
      if reservedTyp m.typ then (s.dropHold m).markCorrupt m 7
      else if s.isDead m.src ∧ m.typ ≠ 0x18 then (s.dropHold m).bump rXCH_STALE_CNT 1
      else s.putInbox { m with owner := o, body := part ++ m.body.drop part.length }
    else { s with link := { s.link with early := s.link.early ++ [m] } }

/-- Messages held ahead of their stream are taken up as their turn comes; `n` bounds the rounds. -/
def State.arriveEarly : Nat → State → State
  | 0, s => s
  | n + 1, s =>
    let ms := s.link.early
    if ms.isEmpty then s
    else
      let s' := ms.foldl State.arrive { s with link := { s.link with early := [] } }
      if s'.link.early.length = ms.length then s' else State.arriveEarly n s'

/-- The message of an owner's flits on a channel, as far as its bytes are here. -/
def msgOf (c : Chan) (owner : Nat) (b : Bytes) : Msg where
  chan := c.id
  owner := owner
  typ := fld b 0 1
  flags := fld b 1 1
  src := fld b 2 2
  dst := fld b 4 2
  trigger := fld b 6 2
  msgNo := fld b 8 4
  length := fld b 12 4
  body := slice b 16 (fld b 12 4)

/-- Body bytes of the message in progress are handed over as they arrive, each once (R295). -/
def State.handBytes (s : State) (m : Msg) : State :=
  let o := streamOwner m
  let (n, part) := s.rxNext m.src o
  if s.passesOn m || m.msgNo != n then s
  else { s with link := { s.link with rxStr := s.link.rxStr.filter (fun x => !(x.peer == m.src && x.owner == o))
    ++ [{ peer := m.src, owner := o, next := n, part := part ++ m.body.drop part.length }] } }

/-- A message that is only passed on stands in the inbox from its first flit on (R310, R331). -/
def State.showTransit (s : State) (m : Msg) : State :=
  if bit m.flags 0 && m.dst != s.member then s.putInbox m
  else if s.passesOn m && (s.rxNext m.src (streamOwner m)).1 == m.msgNo then s.putInbox { m with owner := streamOwner m }
  else s

/-- An in-order flit joins the message of its owner and holds its slot; a whole message is delivered (R294, R295,
R299). -/
def State.join (s : State) (id : Nat) (f : Flit) : State :=
  match s.chan id with
  | none => s
  | some c =>
    let b := ((c.asm.find? (fun a => a.1 = f.owner)).map (·.2)).getD [] ++ f.payload
    let rest := c.asm.filter (fun a => decide (a.1 ≠ f.owner))
    let m := msgOf c f.owner b
    let whole := decide (m.length + 16 ≤ b.length)
    let s := s.onChan id (fun x => { x with asm := if whole then rest else rest ++ [(f.owner, b)] })
    let s := (s.holdSlot m whole).handBytes m
    if whole then s.arrive m else s.showTransit m

/-- The flits now in order; `n` bounds their number. -/
def drain : Nat → Chan → List Flit → Chan × List Flit
  | 0, c, fs => (c, fs)
  | n + 1, c, fs =>
    match c.held.find? (fun h => h.1 = c.rxX) with
    | none => (c, fs)
    | some (_, f) =>
      drain n { c with held := c.held.filter (fun h => decide (h.1 ≠ c.rxX)), rxX := c.rxX + 1 } (fs ++ [f])

/-- Place a good DATA flit in its receive slot; the flits now in order (R297, R299). DEDUCED, log entry 49. -/
def rxData (c : Chan) (f : Flit) : Chan × List Flit :=
  match resolveX c.rxX f.seq with
  | none => (c, [])
  | some x =>
    if x < c.rxX ∨ c.held.any (fun h => h.1 == x) then (c, [])
    else drain (c.held.length + 1)
      { c with held := c.held ++ [(x, f)], missing := c.missing.filter (fun m => decide (m.1 ≠ x)) } []

/-- The difference between a time of the source and the own boundary, in ps, taken to the nearest boundary; and how many
boundaries on that one lies. -/
def nearest (e : Int) : Int × Int := (e - 640000 * ((e + 320000) / 640000), (e + 320000) / 640000)

/-- A stitch mark arrives on a channel `arrivalPs` after the own boundary: the sender's boundary lies STITCH_OFS × 8 ps and
the one-way delay LK_RTT / 2 before it (R105, R304, R312). It is used from the time source only. A mark on a CONTROL flit
brings no arrival time: the boundary it gives is a free value. DESIGN CHOICE, log entry 48. -/
def State.rxMark (s : State) (c : Chan) (f : Flit) (arrivalPs : Option Nat) : State :=
  let b := c.peer % 32
  let direct := decide (c.id < 31) && !s.podMgr && decide (b = s.mgrBlock s.pod)
  let relay := decide (c.id < 31) && !s.podMgr && s.stitch.src == 1 && decide (b = s.stitch.relay)
  let used := (direct && s.stitch.src == 0) || relay
  let s := { s with stitch := { s.stitch with
    directGot := s.stitch.directGot || direct, got := s.stitch.got || used } }
  let place (s : State) (ps : Nat) : State :=
    let e := nearest ((ps : Int) - (f.ofs * 8 : Nat) - ((s.port c.port).rtt / 2 : Nat))
    { s with stitch := { s.stitch with measured := e.1, markOwn := some ((s.stitch.count : Int) + e.2).toNat } }
  if !used then s
  else match arrivalPs with
    | some t => place s t
    | none =>
      let r := s.draw
      place r.2 (leNat (freeBytes r.1 3) % 640000)

/-- A good flit arrives: header, mark, messages. -/
def State.rxFlit (s : State) (id : Nat) (f : Flit) (arrivalPs : Option Nat) : State :=
  match s.chan id with
  | none => s
  | some c =>
    let s := if f.mark then s.rxMark c f arrivalPs else s
    let (c2, fs) := if f.kind = 1 then rxData (rxHeader c f) f else (rxHeader c f, [])
    let s := s.onChan id (fun _ => c2)
    let s := fs.foldl (fun s g => s.join id g) s
    let s := (State.arriveEarly (s.link.early.length + 1) s).handOver
    (s.freeSent id).pump id

/-- The message stands in the inbox. DESIGN CHOICE, log entry 90. -/
def State.holds (s : State) (m : Msg) : Bool := s.link.inbox.contains m

/-- Take a message from the inbox: its receive slots are free (R299). -/
def State.take (s : State) (m : Msg) : State :=
  { s with link := { s.link with inbox := s.link.inbox.erase m } }.dropHold m

/-- Drop a message that is only passed on: what is still to come of it is dropped as it arrives. -/
def State.discard (s : State) (m : Msg) : State :=
  match s.link.slots.find? (holdIs m) with
  | none => s.take m
  | some h =>
    if h.whole then s.take m
    else (((h.chains.foldl State.releaseId s).freeHold { h with chains := [], fate := 2 }))

/-- Pass a message on through `go`, which sends what is here and keeps the places of what is still to come; `none` while no
flit of it has its staging cells (R310, R331). -/
def State.passOn (s : State) (m : Msg) (go : State → Nat → Bytes → Option MsgKey → List Nat → State) : Option State :=
  match s.link.slots.find? (holdIs m) with
  | none => some (go (s.take m) m.length m.body none [])
  | some h =>
    if h.fate ≠ 0 ∨ h.got ≤ h.n then none
    else if h.whole ∧ h.n = 0 then some (go (s.putHold { h with chains := [] } |>.take m) m.length m.body none h.chains)
    else some (go (s.putHold { h with chains := [], fate := 1 }) m.length (m.body.take (496 * (h.got - h.n) - 16))
      (some h.key) h.chains)

end Sys2Proof.Machine
end

