-- ==== Sys2Proof/Machine/Link.lean ====
section
/-! DEFINITION. The link commands: reception, re-send, training, retirement, relays, uplinks, time messages
(R296 to R314). -/

namespace Sys2Proof.Machine

/-! ### Training states -/

/-- Move a port to a training state. -/
def atStage (k : Nat) (p : Port) : Port :=
  if p.state = 6 then { p with sub := k, goodRun := 0, probes := [] } else { p with state := k, goodRun := 0, probes := [] }

/-- Update the channels on a port. -/
def State.onPortChans (s : State) (p : Nat) (f : Chan → Chan) : State :=
  { s with link := { s.link with chans := s.link.chans.map (fun c => if c.port = p then f c else c) } }

/-- A PORT_REPORT is owed (R320). -/
def State.oweReport (s : State) : State := { s with link := { s.link with reportDue := true } }

/-- RELAY_REJECT for a message (R301, R310). -/
def rejectPayload (dst owner msgNo : Nat) : Bytes :=
  [7] ++ toLE 1 owner ++ zeros 2 ++ toLE 2 dst ++ zeros 2 ++ toLE 4 msgNo

/-- The relay that R309 gives for block `b`, none where `b` is unreachable. -/
def State.relayFor (s : State) (b : Nat) : Option Nat :=
  (List.range s.podSize).find? (fun r => r ≠ s.block && r ≠ b && s.active (s.portTo r)
    && !((s.port (s.portTo b)).excluded.contains r) && !s.link.dead.any (fun d => d.1 == 32 * s.pod + r)
    && bit (s.link.linkMap.getD r 0) b)

/-- Own messages kept for member `d` on channel `old`, or on a channel whose port is not ACTIVE, are sent again through
relay block `r`, lowest MSG_NO first; a message counts once as relayed (R309). -/
def State.resendVia (s : State) (old r d : Nat) : State :=
  let lost (m : TxMsg) := m.chan == old || (match s.chan m.chan with | some c => !s.active c.port | none => true)
  let mine (m : TxMsg) := m.dst == d && m.src == s.member && lost m
  let ms := sortBy (fun a b => decide (a.msgNo ≤ b.msgNo)) (s.link.sent.filter mine)
  let s := { s with link := { s.link with sent := s.link.sent.filter (fun m => !mine m) } }
  ms.foldl (fun s m =>
    let s := if bit m.flags 0 then s else s.bump (rLK_RELAY_CNT (s.portTo (m.dst % 32))) 1
    s.enqueue (s.portTo r) 8 { m with flags := 1 + 16 * m.owner }) s

/-- Port `p` chooses its relay anew; the messages of its peer kept on channel `old` follow (R309). Where none qualifies, an
ACTIVE port that waited for service carries its messages at once (R305). -/
def State.chooseRelay (s : State) (p old : Nat) : State :=
  let b := s.peerBlock p
  let r := s.relayFor b
  let s := s.onPort p (fun x => { x with relayed := r })
  match r with
  | some k =>
    let s := s.raise (rLK_EVT p) 2
    s.resendVia old k (32 * s.pod + b)
  | none => (s.onPort p (fun x => { x with pendSvc := false })).pump p

/-- An intra-pod port leaves ACTIVE: its peer's traffic takes a relay, ports that relayed through it choose again, and
messages it was forwarding for others are rejected and their cells freed (R309, R310). A port that leaves RETRAIN for
RETIRED keeps the relay it has (R314). -/
def State.leaveActive (s : State) (p : Nat) : State :=
  if 31 ≤ p then s
  else
    let b := s.peerBlock p
    let fwd := s.link.sent.filter (fun m => m.chan == p && decide (m.src ≠ s.member))
    let s := { s with link := { s.link with
      sent := s.link.sent.filter (fun m => !(m.chan == p && decide (m.src ≠ s.member))) } }
    let s := (fwd.flatMap (·.chains)).foldl State.releaseId s
    let s := fwd.foldl (fun s m => s.control (s.route m.src 0 false).1 (rejectPayload m.dst m.owner m.msgNo)) s
    let s := if (s.port p).relayed.isSome then s else s.chooseRelay p p
    ((List.range 31).filter (fun q => q ≠ p && (s.port q).relayed == some b)).foldl
      (fun s q => s.chooseRelay q p) s

/-- HELLO of a channel (R303). -/
def State.sendHello (s : State) (id : Nat) : State :=
  match s.chan id with
  | none => s
  | some c =>
    s.control id ([2, 0] ++ toLE 1 (s.hdrF 0x18 1) ++ toLE 1 s.pod ++ toLE 1 s.block ++ toLE 1 c.port
      ++ toLE 1 (s.port c.port).mode ++ zeros 1 ++ toLE 2 (s.recd.startCnt % 65536) ++ toLE 2 c.share)

/-- The channels of retired uplinks move to the lowest-numbered ACTIVE uplink: each keeps its SEQ, MSG_NO and replay
contents, sends a HELLO from the new port and re-sends its unacknowledged flits there (R311, R317). With no uplink ACTIVE
they wait for one. -/
def State.rehome (s : State) : State :=
  match [31, 32, 33, 34, 35].find? s.active with
  | none => s
  | some n =>
    let moves (c : Chan) := decide (31 ≤ c.port) && s.portGone c.port
    let ids := (s.link.chans.filter moves).map (·.id)
    if ids.isEmpty then s
    else
      let s := { s with link := { s.link with chans := s.link.chans.map (fun (c : Chan) =>
        if moves c then { c with
          port := n, active := c.wasActive, unacked := c.unacked.map (fun (t : TxFlit) => { t with owed := true }) }
        else c) } }
      let s := s.onPort n (fun x => { x with rediv := true })
      ids.foldl (fun s id => s.sendHello id) s

/-- Retire a port at once (R307). A retiring intra-pod port sends RETIRE 4 times while its lanes carry flits; the
channels of a retiring uplink move to the lowest-numbered ACTIVE uplink (R311). -/
def State.retirePort (s : State) (p fail : Nat) : State :=
  let x := s.port p
  if x.state = 7 ∨ x.absent then s
  else
    let lanes := decide (3 ≤ stage x) && decide (stage x ≤ 5)
    let s := if p < 31 ∧ lanes then
        (List.range 4).foldl (fun s _ => s.control p ([6, 0] ++ toLE 2 p)) s
      else s
    let s := s.onPort p (fun x => { x with state := 7, sub := 0, fail := fail, pendSvc := false })
    let s := s.raise (rLK_EVT p) 0
    let s := { s with
      units := { s.units with links := s.units.links - (if bit s.units.links p then 2 ^ p else 0) }
      recd := { s.recd with linkRet := setAt s.recd.linkRet p (· + 1) }
      link := { s.link with retRep := s.link.retRep ++ [(p, fail)] } }
    let s := s.oweReport
    if p < 31 then (s.onPortChans p (fun c => { c with active := false })).leaveActive p
    else (s.onPortChans p (fun c => { c with active := false })).rehome

/-- A port loses lock and enters RETRAIN (R302). -/
def State.enterRetrain (s : State) (p : Nat) : State :=
  let s := s.onPort p (fun x => { x with
    state := 6, sub := 1, tries := 0, failRun := 0, goodRun := 0, probes := [], pendSvc := false })
  let s := s.onPortChans p (fun c => { c with active := false, helloRun := 0, lastHello := [] })
  let s := (s.raise (rLK_EVT p) 1).bump (rLK_RETRAIN_CNT p) 1
  let s := { s with recd := { s.recd with linkRt := setAt s.recd.linkRt p (· + 1) } }
  s.oweReport.leaveActive p

/-- A training attempt ends: at start it begins again at PHY_UP; in RETRAIN the third failed attempt retires the port
(R302). -/
def State.restartTraining (s : State) (p : Nat) : State :=
  let x := s.port p
  let s := s.onPortChans p (fun c => { c with active := false, helloRun := 0, lastHello := [] })
  if x.state = 6 then
    if 3 ≤ x.tries + 1 then s.retirePort p 3
    else s.onPort p (fun x => { x with sub := 1, tries := x.tries + 1, failRun := 0, goodRun := 0, probes := [] })
  else if 1 ≤ x.state ∧ x.state ≤ 4 then s.onPort p (fun x => { (atStage 1 x) with failRun := 0 })
  else s

/-- A flit fails on a port: count, bucket, loss of lock (R302, R306). While the port still searches for flit boundaries the
bits it cannot read are no flits, so they count nowhere; loss of lock before ACTIVE ends the training attempt. DESIGN CHOICE,
log entry 123. -/
def State.failFlit (s : State) (p : Nat) : State :=
  let x := s.port p
  if !s.hears p then s
  else if stage x = 2 then s.onPort p (fun x => { x with goodRun := 0 })
  else
    let s := s.bump (rLK_CRC_CNT p) 1
    let s := { s with recd := { s.recd with linkErr := setAt s.recd.linkErr p (· + 1) } }
    let s := if x.bucket = 0 then s.leakMark (keyLink p) else s
    let s := s.onPort p (fun x => { x with bucket := min 1024 (x.bucket + 1), failRun := x.failRun + 1 })
    if 1024 ≤ x.bucket + 1 then s.retirePort p 1
    else if 16 ≤ x.failRun + 1 then (if x.state = 5 then s.enterRetrain p else s.restartTraining p)
    else s

/-- A failed flit has been received: it is charged like any other (R434). -/
def State.badFlit (s : State) (p : Nat) : State := if s.hears p then (s.charge 9 1).failFlit p else s

/-- A good flit on a port: eight in a row end FLIT_LOCK (R302). -/
def State.goodFlit (s : State) (p : Nat) : State :=
  let x := s.port p
  let s := s.onPort p (fun x => { x with failRun := 0 })
  if stage x = 2 then
    if 8 ≤ x.goodRun + 1 then s.onPort p (atStage 3) else s.onPort p (fun x => { x with goodRun := x.goodRun + 1 })
  else s

/-- A flit arrives on channel `id`: `f` acts on a good one of the right kind, a failed flit is counted. Its header is
used once HELLO has been agreed. -/
def State.onFlit (s : State) (id : Nat) (b : Bytes) (arrivalPs : Option Nat) (right : Flit → Bool)
    (f : State → Chan → Flit → State) : State :=
  match s.chan id with
  | none => s
  | some c =>
    if !s.hears c.port then s
    else match parseFlit b with
      | none => s.badFlit c.port
      | some fl =>
        if !right fl then s
        else
          let s := (s.charge 9 1).goodFlit c.port
          let s := if c.active then s.rxFlit id fl arrivalPs else s
          f s ((s.chan id).getD c) fl

/-- A CONTROL flit of a SUBTYPE. -/
def isControl (sub : Nat) (f : Flit) : Bool := f.kind == 2 && fld f.payload 0 1 == sub

/-- DATA_FLIT_RECEIVE. -/
def execDataFlitReceive (chan : Nat) (flit : RxFlit) (s : State) : Host.Outcome State Fault Refusal :=
  .next (s.onFlit chan flit.bytes (some flit.ps) (fun f => f.kind == 1) (fun s _ _ => s))

/-- IDLE_FLIT_RECEIVE. -/
def execIdleFlitReceive (chan : Nat) (flit : RxFlit) (s : State) : Host.Outcome State Fault Refusal :=
  .next (s.onFlit chan flit.bytes (some flit.ps) (fun f => f.kind == 0) (fun s _ _ => s))

/-- FAILED_FLIT: a flit fails its CRC or format (R291, R301, R306). -/
def execFailedFlit (port : Nat) (s : State) : Host.Outcome State Fault Refusal := .next (s.badFlit port)

/-- NACK payload (R301). -/
def nackPayload (xs : List Nat) : Bytes :=
  [1, 0] ++ toLE 2 xs.length ++ zeros 12 ++ xs.flatMap (fun x => toLE 2 (x % 65536))

/-- NACK_SEND: a NACK for the missing numbers not yet NACKed, at most 240 (R297, R301). -/
def execNackSend (chan : Nat) (s : State) : Host.Outcome State Fault Refusal :=
  match s.chan chan with
  | none => .next s
  | some c =>
    let xs := ((c.missing.filter (fun m => m.2 == 0)).map (·.1)).take 240
    if xs.isEmpty || !s.hears c.port then .next s
    else
      let s := s.onChan chan (fun c => { c with
        missing := c.missing.map (fun m => if xs.contains m.1 then (m.1, 1) else m) })
      .next (s.control chan (nackPayload xs))

/-- NACK_TIMEOUT: a NACKed number has not arrived; it is NACKed again, or after its ninth transmission the port is
retired (R297, R298). The receiving end counts a transmission for each NACK it sent: eight of them and the original make
nine. DESIGN CHOICE, log entry 123. -/
def execNackTimeout (chan seq : Nat) (s : State) : Host.Outcome State Fault Refusal :=
  match s.chan chan with
  | none => .next s
  | some c =>
    match c.missing.find? (fun m => m.1 % 65536 == seq && decide (1 ≤ m.2)) with
    | none => .next s
    | some (x, n) =>
      if !s.hears c.port then .next s
      else if 8 ≤ n then .next (s.retirePort c.port 2)
      else
        let s := s.onChan chan (fun c => { c with
          missing := c.missing.map (fun m => if m.1 = x then (x, n + 1) else m) })
        .next (s.control chan (nackPayload [x]))

/-- NACK: re-sends are scheduled; a number sent 9 times retires the port; one already acknowledged is ignored
(R297, R298, R314). -/
def execNack (chan : Nat) (flit : Bytes) (s : State) : Host.Outcome State Fault Refusal :=
  .next (s.onFlit chan flit none (isControl 1) (fun s c f =>
    let seqs := (List.range (min 240 (fld f.payload 2 2))).map (fun i => fld f.payload (16 + 2 * i) 2)
    let hit (t : TxFlit) := seqs.contains (t.x % 65536)
    if c.unacked.any (fun t => hit t && decide (9 ≤ t.sends)) then s.retirePort c.port 2
    else s.onChan chan (fun c => { c with
      unacked := c.unacked.map (fun t => if hit t then { t with owed := true } else t) })))

/-- RESEND: a NACKed flit leaves again with its original header, RESEND set and STITCH clear, ahead of scheduled DATA flits
(R297). -/
def execResend (chan : Nat) (s : State) : Host.Outcome State Fault Refusal :=
  match s.chan chan with
  | none => .next s
  | some c =>
    match c.unacked.find? (·.owed) with
    | none => .next s
    | some t =>
      if !s.active c.port || s.replayUnderTest c.port t.x then .next s
      else
        let s := s.onChan chan (fun c => { c with
          unacked := c.unacked.map (fun u => if u.x = t.x then { u with owed := false, sends := u.sends + 1 } else u) })
        let s := s.bump (rLK_RESEND_CNT c.port) 1
        .next (s.drive c [{ t.flit with resend := true }])

/-! ### Training commands -/

/-- PHY_ALIGN: PHY_UP ends with alignment (R302). -/
def execPhyAlign (port : Nat) (s : State) : Host.Outcome State Fault Refusal :=
  if stage (s.port port) = 1 then .next (s.onPort port (atStage 2)) else .next s

/-- TRAIN_BOUND_EXPIRE: a training state exceeds its bound (R302). -/
def execTrainBoundExpire (port : Nat) (s : State) : Host.Outcome State Fault Refusal :=
  if 1 ≤ stage (s.port port) ∧ stage (s.port port) ≤ 4 then .next (s.restartTraining port) else .next s

/-- RETRAIN_EXPIRE: 10 ms in RETRAIN without reaching ACTIVE (R302). -/
def execRetrainExpire (port : Nat) (s : State) : Host.Outcome State Fault Refusal :=
  if (s.port port).state = 6 then .next (s.retirePort port 3) else .next s

/-- ALIGNMENT_LOSS: an ACTIVE port enters RETRAIN; a port in training starts again (R302). DESIGN CHOICE, log entry 123. -/
def execAlignmentLoss (port : Nat) (s : State) : Host.Outcome State Fault Refusal :=
  if (s.port port).state = 5 then .next (s.enterRetrain port)
  else if 2 ≤ stage (s.port port) ∧ stage (s.port port) ≤ 4 then .next (s.restartTraining port)
  else .next s

/-- HELLO_SEND: a HELLO of the channel while its port is in the HELLO state (R303). -/
def execHelloSend (chan : Nat) (s : State) : Host.Outcome State Fault Refusal :=
  match s.chan chan with
  | none => .next s
  | some c =>
    if stage (s.port c.port) = 3 ∨ (31 ≤ c.port ∧ s.active c.port ∧ !c.active) then .next (s.sendHello chan)
    else .next s

/-- PROBE request number `n` on a channel (R301, R304). -/
def State.sendProbe (s : State) (id n : Nat) : State := s.control id ([5, 0] ++ zeros 6 ++ toLE 8 n)

/-- The channel of a restarted peer is cleared: replay places, receive slots, SEQ and MSG_NO. The messages they held are
lost, and the cells that these held are free (R303). -/
def State.clearChan (s : State) (c : Chan) : State :=
  let s := s.onChan c.id (fun x =>
    { freshChan x.id x.port x.peer x.peerPort with
      share := x.share, wasActive := x.wasActive, helloRun := x.helloRun, lastHello := x.lastHello })
  let slotted (m : Msg) := m.chan == c.id && s.link.slots.any (holdIs m)
  let cells := (s.link.sent.filter (fun m => m.chan == c.id)).flatMap (·.chains)
    ++ (s.link.slots.filter (fun h => h.chan == c.id)).flatMap (·.chains)
  let s := { s with link := { s.link with
      txStr := s.link.txStr.filter (fun t => decide (t.peer ≠ c.peer))
      rxStr := s.link.rxStr.filter (fun t => decide (t.peer ≠ c.peer))
      sent := s.link.sent.filter (fun m => decide (m.chan ≠ c.id))
      inbox := s.link.inbox.filter (fun m => !slotted m)
      early := s.link.early.filter (fun m => decide (m.src ≠ c.peer) && !slotted m)
      slots := s.link.slots.filter (fun h => decide (h.chan ≠ c.id)) } }
  cells.foldl State.releaseId s

/-- The bit of a member in XCH_DEAD clears when the link map shows it with an ACTIVE port, in its own row, and its SESSION
differs from the one held at the declaration (R308, R424). -/
def State.reviveDead (s : State) : State :=
  let mine (m : Nat) := (s.link.chans.find? (fun c => c.peer = m)).bind (·.session)
  let shown (m : Nat) := decide (m / 32 = s.pod) && decide (s.link.linkMap.getD (m % 32) 0 % 2 ^ 32 ≠ 0)
  { s with link := { s.link with dead := s.link.dead.filter (fun d =>
      !(shown d.1 && (match mine d.1 with | some n => decide (n ≠ d.2) | none => false))) } }

/-- A HELLO that names the right peer: session, share and port are taken up; 16 agreeing ones end HELLO (R303).
DEDUCED, log entry 50. -/
def State.helloOk (s : State) (id : Nat) (c : Chan) (pl : Bytes) : State :=
  let ses := fld pl 8 2
  let share := fld pl 10 2
  let isNew := c.wasActive && c.session != some ses
  let s := if isNew then
      let s := s.clearChan c
      let flying := s.parts.any (fun p => match p.step with | some x => x.launched | none => false)
      if s.podMgr && c.peer / 32 == s.pod && flying then
        { s with mgr := { s.mgr with sessions := s.mgr.sessions ++ [(c.peer, ses)] } }
      else s
    else s
  let first := isNew || !c.wasActive
  let agree := c.lastHello == pl.take 12
  let run := if agree then c.helloRun + 1 else 1
  let s := s.onChan id (fun x => { x with
    session := some ses, peerPort := fld pl 5 1, lastHello := pl.take 12, helloRun := run, peerShare := share
    credits := if first then share else if x.unacked.isEmpty then x.credits + share - x.peerShare else x.credits })
  let s := s.reviveDead
  let ok := decide (16 ≤ run) || (31 ≤ c.port && s.active c.port && c.wasActive)
  let s := if ok then s.onChan id (fun x => { x with active := true, wasActive := true }) else s
  let s := if ok && !c.active then s.oweReport else s
  if stage (s.port c.port) = 3 ∧ 16 ≤ run then (s.onPort c.port (atStage 4)).sendProbe id 0
  else if ok then s.pump id
  else s

/-- HELLO: the peer's identity, mode and session are checked (R303), on an uplink channel but for PORT; a difference there
retires the uplink port, as the rule says of an intra-pod one. DESIGN CHOICE, log entry 123. -/
def execHello (chan : Nat) (flit : Bytes) (s : State) : Host.Outcome State Fault Refusal :=
  .next (s.onFlit chan flit none (isControl 2) (fun s c f =>
    let pl := f.payload
    let st := stage (s.port c.port)
    if !(st == 3 || st == 4 || (st == 5 && decide (31 ≤ c.port))) then s
    else
      let id := decide (fld pl 2 1 = s.hdrF 0x18 1) && decide (fld pl 3 1 = c.peer / 32)
        && decide (fld pl 4 1 = c.peer % 32) && (decide (31 ≤ c.port) || decide (fld pl 5 1 = 30 - c.port))
      if !id then s.retirePort c.port 6
      else if fld pl 6 1 ≠ (s.port c.port).mode then s.retirePort c.port 7
      else s.helloOk chan c pl))

/-- The median of 64 round trips: the mean of the middle two. DESIGN CHOICE, log entry 12. -/
def medianOf (l : List Nat) : Nat :=
  let q := sortBy (fun a b => decide (a ≤ b)) l
  (q.getD (l.length / 2 - 1) 0 + q.getD (l.length / 2) 0) / 2

/-- A substitute gateway exists toward pod `q`: the block numbers that qualify under R340. -/
def State.substFor (s : State) (q : Nat) : Option Nat :=
  let dead (m : Nat) := s.link.dead.any (fun d => d.1 == m)
  (List.range s.podSize).find? (fun c => c ≠ s.block && !dead (32 * s.pod + c) && !dead (32 * q + c)
    && s.active (s.portTo c) && bit (s.link.railMap.getD c 0) q)

/-- Another path carries the port's messages (R305): a relay, or a substitute for every channel of an uplink. A manager
channel has none. -/
def State.otherPath (s : State) (p : Nat) : Bool :=
  if p < 31 then (s.port p).relayed.isSome
  else (s.link.chans.filter (fun c => c.port == p)).all (fun c => decide (c.id < 96) && (s.substFor (c.id - 64)).isSome)

/-- The intra-pod ports out of service that have no relay. -/
def State.cutPorts (s : State) : List Nat :=
  (List.range 31).filter (fun p => !(s.port p).absent && decide (6 ≤ (s.port p).state) && (s.port p).relayed.isNone)

/-- A port reaches ACTIVE (R302, R304, R305); a port without a path may relay through it (R309). -/
def State.portUp (s : State) (p : Nat) : State :=
  let x := s.port p
  let rtt := medianOf x.probes
  let long := decide ((if x.mode = 1 then 5120000 else 2560000) < rtt)
  let wait := decide (8 < s.boot.state) && s.otherPath p
  let s := s.onPort p (fun x => { x with
    state := 5, sub := 0, rtt := rtt, rttLong := long, pendSvc := wait, failRun := 0
    relayed := if wait then x.relayed else none })
  let s := if long then s.raise (rLK_EVT p) 3 else s
  let s := s.cutPorts.foldl (fun s q => s.chooseRelay q q) s
  s.oweReport.rehome.pumpAll

/-- An ACTIVE port that waits for service carries messages at once when no other path carries them any more (R305). -/
def State.serveLost (s : State) : State :=
  (List.range 36).foldl (fun s p =>
    if (s.port p).pendSvc && !s.otherPath p then s.onPort p (fun x => { x with pendSvc := false }) else s) s

/-- PROBE: a request is answered after 8 flit times; a reply in MEASURE is timed (R304). -/
def execProbe (chan : Nat) (flit : Bytes) (roundTripPs : Nat) (s : State) : Host.Outcome State Fault Refusal :=
  .next (s.onFlit chan flit none (isControl 5) (fun s c f =>
    if fld f.payload 1 1 = 0 then s.control chan ([5, 1] ++ zeros 6 ++ slice f.payload 8 8)
    else if stage (s.port c.port) = 4 then
      let n := (s.port c.port).probes.length + 1
      let s := s.onPort c.port (fun x => { x with probes := x.probes ++ [roundTripPs] })
      if 64 ≤ n then s.portUp c.port else s.sendProbe chan n
    else s))

/-- RETIRE from the peer of an intra-pod port retires this end; on an uplink channel it retires nothing (R307). -/
def execRetire (chan : Nat) (flit : Bytes) (s : State) : Host.Outcome State Fault Refusal :=
  .next (s.onFlit chan flit none (isControl 6) (fun s c _ => if c.id < 31 then s.retirePort c.port 5 else s))

/-- LINK_RETIRE_FORCED: a write of LK_CTL (R307). -/
def execLinkRetireForced (port : Nat) (value : Word) (s : State) : Host.Outcome State Fault Refusal :=
  if s.boot.rstLow then .next s
  else if 36 ≤ port ∨ !s.powered (0x180008 + 0x400 * port) then .next { s with mgtData := 0, mgtErr := true }
  else
    let s := { s with mgtData := 0, mgtErr := false }
    if bit value.toNat 0 then .next (s.retirePort port 4) else .next s

/-- PORT_SERVICE_START: a newly ACTIVE port takes new DATA flits from a launch stitch of any step, or with no partition
up from a count that is a multiple of 64 (R305). -/
def execPortServiceStart (port : Nat) (s : State) : Host.Outcome State Fault Refusal :=
  let launch := s.parts.any (fun p => match p.step with
    | some x => x.launched && x.launchAt == some s.stitch.count
    | none => false)
  let none64 := s.parts.all (fun p => p.state ≠ 1) && s.stitch.count % 64 == 0
  if (s.port port).pendSvc && (launch || none64) then
    .next (s.onPort port (fun x => { x with pendSvc := false, relayed := none, excluded := [] })).pumpAll
  else .next s

/-! ### Relays (R309, R310) -/

/-- RELAY_REJECT: the relay is cleared and another chosen, and the message goes again while the sender still keeps it
(R310). The flit's own ACK is applied after that. -/
def execRelayReject (chan : Nat) (flit : Bytes) (s : State) : Host.Outcome State Fault Refusal :=
  let turn (s : State) (c : Chan) (pl : Bytes) : State :=
    let dst := fld pl 4 2
    let p := s.portTo (dst % 32)
    let r := c.peer % 32
    if dst / 32 = s.pod ∧ (s.port p).relayed = some r then
      (s.onPort p (fun x => { x with excluded := x.excluded ++ [r] })).chooseRelay p c.id
    else s
  let first := match s.chan chan, parseFlit flit with
    | some c, some f => if s.hears c.port && c.active && isControl 7 f then turn s c f.payload else s
    | _, _ => s
  .next (first.onFlit chan flit none (isControl 7) (fun s _ _ => s))

/-- RELAY_FORWARD: the relay passes a RELAYED message on unchanged, its flits as they arrive, or discards it and returns
RELAY_REJECT (R310). Its flits leave in the slots R309 allows. -/
def execRelayForward (msg : Msg) (s : State) : Host.Outcome State Fault Refusal :=
  if !(s.holds msg && bit msg.flags 0 && msg.dst != s.member) then .next s
  else
    let id := if msg.dst / 32 = s.pod then s.portTo (msg.dst % 32) else 64 + msg.dst / 32
    let ok := (msg.dst / 32 == s.pod || msg.dst % 32 == s.block)
      && (match s.chan id with | some c => s.active c.port | none => false)
    let go (s : State) (len : Nat) (body : Bytes) (via : Option MsgKey) (cells : List Nat) : State :=
      s.enqueue id 8 { chan := id, owner := msg.flags / 16, typ := msg.typ, flags := msg.flags, src := msg.src
                       dst := msg.dst, trigger := msg.trigger, msgNo := msg.msgNo, len := len, body := body, via := via
                       lastX := 0, chains := cells }
    let fresh := !s.link.slots.any (fun h => holdIs msg h && h.fate != 0)
    if !fresh then .next s
    else if !ok then .next ((s.discard msg).control msg.chan (rejectPayload msg.dst (msg.flags / 16) msg.msgNo))
    else match s.passOn msg go with
      | some s => .next s
      | none => .next s.handOver

/-! ### Uplinks (R300, R311) -/

/-- UPLINK_IDLE_FRAME: eight IDLE flits where ACK or CREDIT has changed since the channel's last frame (R300). -/
def execUplinkIdleFrame (chan : Nat) (s : State) : Host.Outcome State Fault Refusal :=
  match s.chan chan with
  | none => .next s
  | some c =>
    if 31 ≤ c.port ∧ s.active c.port ∧ (c.lastAck ≠ c.rxX % 65536 ∨ c.lastCred ≠ c.freed % 4096) then
      .next (s.drive c (List.replicate 8 (idleFlit c)))
    else .next s

/-- UPLINK_FRAME_LOST: eight failed flits (R61, R300). -/
def execUplinkFrameLost (port : Nat) (s : State) : Host.Outcome State Fault Refusal :=
  if 31 ≤ port then .next ((List.range 8).foldl (fun s _ => s.badFlit port) s) else .next s

/-- UPLINK_SHARE_REDIVIDE: the shares of a receiving port once no flit is unacknowledged at either end: the own flits, and
those of the peers that a flit of this end has not acknowledged yet (R311). -/
def execUplinkShareRedivide (port : Nat) (s : State) : Host.Outcome State Fault Refusal :=
  let cs := s.link.chans.filter (fun c => c.port == port)
  let still (c : Chan) := c.unacked.isEmpty && c.held.isEmpty && c.missing.isEmpty && c.lastAck == c.rxX % 65536
  if (s.port port).rediv && cs.all still then
    .next ((s.onPort port (fun x => { x with rediv := false })).divideShares (· == port))
  else .next s

/-- LK_BUCKET_LEAK (R306). -/
def execLkBucketLeak (port : Nat) (s : State) : Host.Outcome State Fault Refusal :=
  if s.leakDue (keyLink port) 1024 (s.port port).bucket then
    .next ((s.onPort port (fun x => { x with bucket := x.bucket - 1 })).leakMark (keyLink port))
  else .next s

end Sys2Proof.Machine
end

