-- ==== Sys2Proof/Machine/Msgs.lean ====
section
/-! DEFINITION. The messages of the exchange: triggers, bodies, gateways, and the VOIDs a member owes (R319 to R329,
R336, R340, R341, R415). -/

namespace Sys2Proof.Machine

/-- The TRIGGER of a message for handler `h` (R321). DEDUCED, log entry 61. -/
def trig (p l m h : Nat) : Nat := p % 8 + 8 * (l % 2) + 16 * (m % 8) + 128 * (h % 16)

/-- The pods of a group but one's own. -/
def State.otherPods (s : State) (g : Nat) : List Nat :=
  (List.range s.pods).filter (fun q => bit (s.gPods g) q && q != s.pod)

/-- The own rail channel toward pod q is ACTIVE. -/
def State.railUp (s : State) (q : Nat) : Bool :=
  match s.chan (64 + q) with
  | some c => c.active && s.active c.port
  | none => false

/-- The own rail channel toward pod q takes new messages: it is ACTIVE, and its port does not wait for a launch stitch while
a substitute carries them (R305). -/
def State.railServes (s : State) (q : Nat) : Bool :=
  s.railUp q && (match s.chan (64 + q) with
    | some c => !(s.port c.port).pendSvc
    | none => false)

/-- The gateway toward pod q: the rail-aligned peer, or a substitute (R305, R340). -/
def State.gateFor (s : State) (q : Nat) : Option (Nat × Nat × Bool) :=
  let r := 32 * q + s.block
  if !s.isDead r && s.railServes q then some (q, r, false)
  else (s.substFor q).map (fun c => (q, 32 * q + c, true))

/-- The gateways toward the other pods of a group, as they stand. -/
def State.gatesOf (s : State) (g : Nat) : List (Nat × Nat × Bool) := (s.otherPods g).filterMap s.gateFor

/-- Use of a substitute gateway is counted (R340). -/
def State.countSubst (s : State) (gs : List (Nat × Nat × Bool)) : State :=
  let n := (gs.filter (fun g => g.2.2)).length
  if n = 0 then s else (s.bump rXCH_SUBST_CNT n).raise rXCH_EVT 2

/-- Send to every other member of the pod and to each of a list of gateways (R323, R325, R361). -/
def State.spread (s : State) (p typ t : Nat) (body : Bytes) (gs : List (Nat × Nat × Bool)) : State :=
  s.sendAll (s.podPeers ++ gs.map (fun g => g.2.1)) p typ t body

/-- A gateway passes a message on to every other member of its pod (R323). -/
def State.fanPod (s : State) (p typ t : Nat) (body : Bytes) : State := s.sendAll s.podPeers p typ t body

/-! ### Bodies -/

/-- ROSTER (R323). -/
def bodyRoster (stepNo g : Nat) (active : Bool) (orig : Nat) : Bytes :=
  toLE 8 stepNo ++ toLE 1 g ++ toLE 1 (if active then 1 else 0) ++ toLE 2 orig ++ zeros 4

/-- FINAL (R325). -/
def bodyFinal (stepNo l m orig : Nat) : Bytes :=
  toLE 8 stepNo ++ toLE 2 l ++ toLE 1 m ++ zeros 1 ++ toLE 2 orig ++ zeros 2

/-- GRANT (R328). -/
def bodyGrant (dest src l m stepNo granted withheld : Nat) : Bytes :=
  toLE 2 dest ++ toLE 2 src ++ toLE 2 l ++ toLE 1 m ++ zeros 1 ++ toLE 8 stepNo ++ toLE 4 granted ++ toLE 4 withheld
    ++ zeros 8

/-- GW_GRANT (R329): entries are (destination, withheld, void). -/
def bodyGwGrant (gw src l m stepNo : Nat) (es : List (Nat × Nat × Bool)) : Bytes :=
  toLE 2 gw ++ toLE 2 src ++ toLE 2 l ++ toLE 1 m ++ zeros 1 ++ toLE 8 stepNo ++ toLE 2 es.length ++ zeros 14
    ++ es.flatMap (fun e => toLE 2 e.1 ++ toLE 2 (if e.2.2 then 1 else 0) ++ toLE 4 e.2.1)

/-- VOID (R336). -/
def bodyVoid (replaces reason subject l m stepNo party : Nat) : Bytes :=
  toLE 1 replaces ++ toLE 1 reason ++ toLE 2 subject ++ toLE 2 l ++ toLE 1 m ++ zeros 1 ++ toLE 8 stepNo
    ++ toLE 2 party ++ zeros 14

/-- WAIT (R341). -/
def bodyWait (stepNo l m h orig g : Nat) (missing : List Nat) : Bytes :=
  toLE 8 stepNo ++ toLE 2 l ++ toLE 1 m ++ toLE 1 h ++ toLE 2 orig ++ toLE 1 g ++ zeros 1
    ++ toLE 64 (bitsOf ((List.range 512).map (fun i => missing.contains i)))

/-- WITHDRAW (R415). -/
def bodyWithdraw (stepNo g scope fromL orig : Nat) : Bytes :=
  toLE 8 stepNo ++ toLE 1 g ++ toLE 1 scope ++ toLE 2 fromL ++ toLE 2 orig ++ zeros 2

/-- DEAD (R338). -/
def bodyDead (member orig stitch : Nat) : Bytes := toLE 2 member ++ toLE 2 orig ++ zeros 4 ++ toLE 8 stitch

/-- The 32-byte header of a tally, or the start of a pile's header (R274, R275). `n` is ENTRIES, or the list length. -/
def tallyHead (src dst l m flags stepNo g n tickets rows : Nat) : Bytes :=
  toLE 2 src ++ toLE 2 dst ++ toLE 2 l ++ toLE 1 m ++ toLE 1 flags ++ toLE 8 stepNo ++ toLE 1 g ++ zeros 1 ++ toLE 2 n
    ++ toLE 4 tickets ++ toLE 4 rows ++ zeros 4

/-! ### Sending VOIDs and withdrawing -/

/-- The handler that consumes a VOID at its receiver (R326, R336). -/
def voidHandler (replaces : Nat) (toGateway : Bool) : Nat :=
  match replaces with
  | 0x01 => 0
  | 0x02 => 1
  | 0x03 => if toGateway then 6 else 2
  | 0x04 => if toGateway then 4 else 3
  | 0x05 => if toGateway then 5 else 3
  | 0x06 => 2
  | _ => 3

/-- Send a VOID (R336). -/
def State.sendVoid (s : State) (p dst replaces reason subject l m stepNo party : Nat) (toGateway back : Bool) : State :=
  (s.bump rXCH_VOID_CNT 1).send dst p 0x09 (trig p l m (voidHandler replaces toGateway))
    (bodyVoid replaces reason subject l m stepNo party) back

/-- The way back to the member that sent a tally: a substitute path is taken in reverse (R331, R340). -/
def State.backTo (s : State) (via : Nat) : Bool := via / 32 != s.pod && via % 32 != s.block

/-- The next hop of a RETURN toward source `src`, or of a VOID in its place: the member that sent the tally; where that is
the member itself as the gateway, the source (R331). -/
def State.retHop (s : State) (via src : Nat) : Nat := if via = s.member then src else via

/-- A VOID in place of the RETURN owed to source `src`, whose tally came from `via` (R331, R336). -/
def State.voidReturn (s : State) (p via src l m stepNo reason : Nat) : State :=
  let hop := s.retHop via src
  s.sendVoid p hop 0x07 reason s.member l m stepNo src (hop != src) (s.backTo hop)

/-- A VOID in place of the GRANT owed to source `src`: where the member itself is the gateway its fan-out takes it as its
own answer (R326, R329, R336). -/
def State.voidGrant (s : State) (p via src l m stepNo reason : Nat) : State :=
  let me := s.member
  if via = me then
    s.onMicro p l m (fun y => { y with fans := y.fans.map (fun (f : GwFan) =>
      if f.src = src ∧ !f.answers.any (fun a => a.1 == me) then { f with answers := f.answers ++ [(me, 0, true)] } else f) })
  else s.sendVoid p via 0x03 reason src l m stepNo me (via != src) (s.backTo via)

/-- Spread a manager message in the own pod, and from a pod manager to the others (R318). -/
def State.spreadMgr (s : State) (typ : Nat) (body : Bytes) : State :=
  let s := s.sendAll s.podPeers 8 typ 0xFFFF body
  if s.podMgr then s.sendAll s.otherMgrs 8 typ 0xFFFF body else s

/-- Send WITHDRAW for the rest of a step, from the next layer on (R415, R418, R420). -/
def State.sendWithdraw (s : State) (p : Nat) (x : StepSt) (scope : Nat) : State :=
  if x.nextLayer < s.pLayers p then
    s.spreadMgr 0x1E (bodyWithdraw x.stepNo x.group scope x.nextLayer s.member)
  else s

/-- The member has left the step's role from some layer on: as a source, or with `dest` as a destination
(R339, R416). -/
def goneFrom (x : StepSt) (m l : Nat) (dest : Bool) : Bool :=
  x.gone.any (fun e => e.1 == m && (e.2.1 || !dest) && decide (e.2.2 ≤ l))

/-- FINAL for a micro-step, unless it lies at or beyond MICRO_MAX (R325). -/
def State.sendFinal (s : State) (p l m microMax stepNo : Nat) (gs : List (Nat × Nat × Bool)) : State :=
  if microMax ≤ m then s
  else s.spread p 0x0A (trig p l m 0) (bodyFinal stepNo l m s.member) gs

/-- A wait is entered with the stitch of its start, at a gateway one for each source whose fan-out it concerns (R341).
DEDUCED, log entry 66. -/
def State.waitOn (s : State) (p l m h : Nat) (src : Option Nat) (since : Nat) : State :=
  let hit (w : WaitSt) := w.layer == l && w.micro == m && w.handler == h && w.src == src
  if (s.part p).waits.any hit then s
  else s.onPart p (fun x => { x with
    waits := x.waits ++ [{ layer := l, micro := m, handler := h, src := src, since := since, sent := 0 }] })

/-- A wait that concerns no source's fan-out. -/
def State.waitSince (s : State) (p l m h since : Nat) : State := s.waitOn p l m h none since

/-- A wait begins now. -/
def State.waitFor (s : State) (p l m h : Nat) : State := s.waitSince p l m h s.stitch.count

/-- A gateway's wait for a source's fan-out begins now. -/
def State.waitFan (s : State) (p l m h src : Nat) : State := s.waitOn p l m h (some src) s.stitch.count

/-! ### What a torn-down member owes (R336, R420) -/

/-- The VOIDs that a destination owes the sources of a micro-step: in place of a GRANT not yet sent, or of a RETURN that is
still owed: its pile has not come, or its rows have not been returned. -/
def State.voidDest (s : State) (p l stepNo : Nat) (elastic : Bool) (m : Micro) : State :=
  (m.tallies.filter (fun t => t.src != s.member && !t.final && !t.voided && decide (0 < t.tickets))).foldl (fun s t =>
    if elastic && !m.tallyIn then s.voidGrant p t.via t.src l m.m stepNo 1
    else if t.granted = 0 ∨ m.destDone ∨ (t.state = 1 ∧ !m.piles.any (fun r => r.src == t.src)) then s
    else s.voidReturn p t.via t.src l m.m stepNo 1) s

/-- The VOIDs that a source owes in a micro-step: in place of its tallies, or of the piles that wait for a grant. -/
def State.voidSrc (s : State) (p l stepNo : Nat) (gs : List (Nat × Nat × Bool)) (m : Micro) : State :=
  if m.finalOut then s
  else if !m.sorted then
    let s := s.podPeers.foldl (fun s d => s.sendVoid p d 0x01 1 s.member l m.m stepNo d false false) s
    gs.foldl (fun s g => s.sendVoid p g.2.1 0x04 1 s.member l m.m stepNo 0xFFFF true false) s
  else (m.out.filter (fun o => o.2 == 0)).foldl (fun s o =>
    if o.1 / 32 = s.pod then s.sendVoid p o.1 0x02 1 s.member l m.m stepNo o.1 false false
    else s.sendVoid p o.1 0x05 1 s.member l m.m stepNo 0xFFFF true false) s

end Sys2Proof.Machine
end

