-- ==== Sys2Proof/Machine/Operands.lean ====
section
/-! DEFINITION. Tensor descriptors, the operand form of the commands: record, checks, addressing, bounds, gather, scatter
and MX blocks (R157 to R169). -/

namespace Sys2Proof.Machine

/-- A descriptor record (R158). -/
structure Td where
  rank    : Nat
  etype   : Nat
  blk     : Nat
  flags   : Nat
  idxMode : Nat
  gDim    : Nat
  base    : Nat
  size    : List Nat
  stride  : List Int
  fill    : Nat
  idxAddr : Nat
  extent  : Nat
  deriving DecidableEq, Repr

/-- The record's fields. -/
def parseTd (b : Bytes) : Td where
  rank := fld b 0 1
  etype := fld b 1 1
  blk := fld b 2 1
  flags := fld b 3 1
  idxMode := fld b 4 1
  gDim := fld b 5 1
  base := fld b 8 8
  size := (List.range 6).map (fun d => fld b (16 + 4 * d) 4)
  stride := (List.range 6).map (fun d => signed64 (fld b (40 + 8 * d) 8))
  fill := fld b 88 8
  idxAddr := fld b 96 8
  extent := fld b 104 4

/-- The element type is an MX type (R159). -/
def isMx (et : Nat) : Bool := et == 4 || et == 5 || et == 6
/-- Bytes of an element of a type that is not MX. -/
def etBytes (et : Nat) : Nat := if et = 0 ∨ et = 7 then 4 else if et = 1 then 2 else 1
/-- Bytes per 32-element block of an MX type. -/
def mxBB (et : Nat) : Nat := if et = 6 then 17 else 33
/-- SIZE[d] and STRIDE[d]. -/
def Td.sz (t : Td) (d : Nat) : Nat := t.size.getD d 0
def Td.st (t : Td) (d : Nat) : Int := t.stride.getD d 0
/-- TRANSPOSE and SCATTER_ADD. -/
def Td.transpose (t : Td) : Bool := bit t.flags 0
def Td.scatter (t : Td) : Bool := bit t.flags 1
/-- The coordinates in memory of an element as it is delivered: TRANSPOSE exchanges dimensions 0 and 1 (R169). -/
def Td.mem (t : Td) (c : List Nat) : List Nat :=
  match c with
  | a :: b :: r => if t.transpose then b :: a :: r else c
  | _ => c
/-- The descriptor of the tensor as it is delivered (R169). DEDUCED, log entry 108. -/
def Td.delivered (t : Td) : Td := if t.transpose then { t with size := t.mem t.size } else t
/-- The dimension in memory that the rows of a delivered tensor run along. -/
def Td.rowDim (t : Td) : Nat := if t.transpose then 0 else 1
/-- A descriptor has an indexed dimension. -/
def Td.gathers (t : Td) : Bool := t.gDim != 255

/-- Row 4 of R160: RANK, SIZE, BLK_LEN, GATHER_DIM and GATHER_EXTENT in range and consistent, and the fields that
R158 holds at 0 beside them. DEDUCED, log entry 39. -/
def Td.rangesOk (t : Td) : Bool :=
  decide (1 ≤ t.rank) && decide (t.rank ≤ 6)
    && (List.range 6).all (fun d => if d < t.rank then decide (1 ≤ t.sz d) else decide (t.sz d = 0) && decide (t.st d = 0))
    && t.blk == (if isMx t.etype then 32 else 0)
    && (if t.gathers then decide (t.gDim < t.rank) && decide (1 ≤ t.extent)
        else decide (t.extent = 0) && decide (t.idxAddr = 0))

/-- Row 5 of R160: the alignment of R162 and the MX rules of R161. -/
def Td.alignOk (t : Td) : Bool :=
  decide (t.base % 64 = 0)
    && (List.range 5).all (fun i =>
        let d := i + 1
        t.sz d ≤ 1 || (if isMx t.etype then decide ((t.st d / 32 * mxBB t.etype) % 64 = 0)
          else decide ((t.st d * etBytes t.etype) % 64 = 0)))
    && (!isMx t.etype || (decide (t.st 0 = 1) && decide (t.sz 0 % 32 = 0)
        && (List.range 5).all (fun i => decide (t.st (i + 1) % 32 = 0))))

/-- Row 6 of R160: a write stride of zero on a dimension of SIZE above 1. -/
def Td.zeroStride (t : Td) : Bool :=
  (List.range 6).any (fun d => decide (d < t.rank) && decide (1 < t.sz d) && decide (t.st d = 0))

/-- The largest coordinate of a dimension in memory. -/
def Td.top (t : Td) (d : Nat) : Int := ((if t.gDim = d then t.extent else t.sz d) : Int) - 1

/-- The smallest and the largest element offset; that of an MX element stands behind its scale byte (R161). -/
def Td.span (t : Td) : Int × Int :=
  let off : Int := (t.base % 2 ^ 56 : Nat)
  let term (d : Nat) : Int := if t.sz d = 0 then 0 else t.st d * t.top d
  let ds := if isMx t.etype then [1, 2, 3, 4, 5] else [0, 1, 2, 3, 4, 5]
  let lo := ds.foldl (fun (a : Int) d => a + min 0 (term d)) 0
  let hi := ds.foldl (fun (a : Int) d => a + max 0 (term d)) 0
  if isMx t.etype then
    let last := t.top 0 % 32
    (off + lo / 32 * mxBB t.etype + 1,
      off + (hi / 32 + t.top 0 / 32) * mxBB t.etype + 1 + (if t.etype = 6 then last / 2 else last))
  else (off + lo * etBytes t.etype, off + hi * etBytes t.etype)

/-- The checks of R160 for the descriptor record at a logical address: the FAULT of the first row that applies, 0 for
none. `shape` is the shape that the naming command requires of the tensor as it is delivered. -/
def State.tdCheck (s : State) (p addr : Nat) (write : Bool) (shape : Td → Bool) : Nat :=
  if addr % 64 ≠ 0 then 3
  else match s.tr p addr 128 2 with
    | none => 8
    | some a =>
      let b := s.rd a 128
      let t := parseTd b
      let perm := if write then (if t.scatter then 6 else 4) else 2
      let limit := fld (segEnt (s.sect 4) p (t.base / 2 ^ 56)) 6 1
      if 4 ≤ t.flags ∨ fld b 6 2 ≠ 0 ∨ !allZero (slice b 108 20) ∨ 7 < t.etype ∨ 2 < t.idxMode then 2
      else if !t.rangesOk then 3
      else if !t.alignOk then 3
      else if write && t.zeroStride then 3
      else if t.transpose && (write || isMx t.etype || t.rank == 1) then 3
      else if t.scatter && (!write || !(t.etype == 0 || t.etype == 1 || t.etype == 7)) then 3
      else if t.span.1 < -(2 ^ 55) ∨ (2 : Int) ^ 55 ≤ t.span.2 then 3
      else if !(bit limit 0 && limit &&& perm == perm) then 8
      else if t.gathers && (s.tr p t.idxAddr (4 * t.sz t.gDim) 2).isNone then 8
      else if !shape t.delivered then 3
      else 0

/-- The descriptor at a logical address that has passed its check. -/
def State.td (s : State) (p addr : Nat) : Td := parseTd (s.rd ((s.tr p addr 128 2).getD 0) 128)

/-- The index tensor of a use of a descriptor (R166). -/
def State.indices (s : State) (p : Nat) (t : Td) : List Int :=
  if t.gathers then
    (chunks 4 (t.sz t.gDim + 1) (s.rd ((s.tr p t.idxAddr (4 * t.sz t.gDim) 2).getD 0) (4 * t.sz t.gDim))).map
      (fun w => let v := leNat w; if v < 2 ^ 31 then (v : Int) else (v : Int) - 2 ^ 32)
  else []

/-- The index tensor of a descriptor, read first and once for each use (R166). A pass of a STEP is one use.
DESIGN CHOICE, log entry 107. -/
def State.indexRead (s : State) (p : Nat) (t : Td) : List (Nat × Nat) :=
  if t.gathers then [((s.tr p t.idxAddr (4 * t.sz t.gDim) 2).getD 0, 4 * t.sz t.gDim)] else []

/-- Request the reads of a list of ranges for an object. -/
def State.issueReads (s : State) (rs : List (Nat × Nat)) (obj : MemObj) : State :=
  rs.foldl (fun s r => s.issueRead r.1 r.2 obj) s

/-- The use of a descriptor whose index tensor is here: the indices outside the extent are counted (R166). -/
def State.useTd (s : State) (p : Nat) (t : Td) : State :=
  s.bump (rGATHER_OOR_CNT p) ((s.indices p t).filter (fun v => decide (v < 0) || decide ((t.extent : Int) ≤ v))).length

/-- The resolved coordinates of an element; `none` where the index makes it FILL (R166). -/
def Td.resolve (t : Td) (idx : List Int) (c : List Nat) : Option (List Int) :=
  let z : List Int := c.map Int.ofNat
  if !t.gathers then some z
  else
    let v := idx.getD (c.getD t.gDim 0) 0
    let n : Int := t.extent
    let put (j : Int) := some (setAt z t.gDim (fun _ => j))
    if 0 ≤ v ∧ v < n then put v
    else if t.idxMode = 0 then none
    else if t.idxMode = 1 then put (if v < 0 then 0 else n - 1)
    else put (v % n)

/-- The bytes an element needs: offsets within the segment and lengths, the scale byte first for an MX type (R161). -/
def Td.places (t : Td) (c : List Int) : List (Int × Nat) :=
  let off : Int := (t.base % 2 ^ 56 : Nat)
  let dot (ds : List Nat) : Int := ds.foldl (fun (a : Int) d => a + c.getD d 0 * t.st d) 0
  if isMx t.etype then
    let i0 := c.headD 0
    let blk := off + (dot [1, 2, 3, 4, 5] / 32 + i0 / 32) * mxBB t.etype
    [(blk, 1), (blk + 1 + (if t.etype = 6 then i0 % 32 / 2 else i0 % 32), 1)]
  else [(off + dot [0, 1, 2, 3, 4, 5] * etBytes t.etype, etBytes t.etype)]

/-- The value of an element's bits under a scale byte. -/
def elemFp (et raw scale : Nat) : Fp :=
  match et with
  | 0 => dec32 (BitVec.ofNat 32 raw)
  | 1 => decBf raw
  | 2 => decE4m3 raw
  | 3 => decE5m2 raw
  | 4 => scaleE8 scale (decE4m3 raw)
  | 5 => scaleE8 scale (decE5m2 raw)
  | 6 => scaleE8 scale (decE2m1 raw)
  | _ => if raw < 2 ^ 31 then .fin false raw 0 else .fin true (2 ^ 32 - raw) 0

/-- FILL as a value: an MX FILL is used without a scale (R164). -/
def Td.fillFp (t : Td) : Fp := elemFp t.etype (t.fill % 2 ^ (8 * etBytes t.etype)) 127

/-- A range of the descriptor's segment lies in bounds. -/
def inSeg (limit : Nat) (r : Int × Nat) : Bool := decide (0 ≤ r.1) && decide (r.1 + r.2 ≤ limit)

/-- Segment base and limit of a descriptor. -/
def State.tdSeg (s : State) (p : Nat) (t : Td) : Nat × Nat :=
  let e := segEnt (s.sect 4) p (t.base / 2 ^ 56)
  (fld e 0 6, fld e 8 6)

/-- The bits of one element with its scale byte, `none` where it reads as FILL, and whether it lies out of bounds
(R164). -/
def State.tdCell (s : State) (p : Nat) (t : Td) (idx : List Int) (c : List Nat) : Option (Nat × Nat) × Bool :=
  match t.resolve idx (t.mem c) with
  | none => (none, false)
  | some z =>
    let g := s.tdSeg p t
    let ps := t.places z
    if !ps.all (inSeg g.2) then (none, true)
    else
      let raws := ps.map (fun r => leNat (s.rd (g.1 + r.1.toNat) r.2))
      if isMx t.etype then
        let b := raws.getD 1 0
        let b := if t.etype = 6 then (if z.headD 0 % 2 = 1 then b / 16 else b % 16) else b
        (some (b, raws.headD 0), false)
      else (some (raws.headD 0, 127), false)

/-- An element as FP32: the bits of an FP32 element as they stand, another type by its value (R15, R482). -/
def Td.cell32 (t : Td) (v : Option (Nat × Nat)) : F32 :=
  match v with
  | none => if t.etype = 0 then BitVec.ofNat 32 t.fill else enc32 t.fillFp
  | some (raw, scale) => if t.etype = 0 then BitVec.ofNat 32 raw else enc32 (elemFp t.etype raw scale)

/-- Read elements of a delivered tensor: values, and the number of elements out of bounds. -/
def State.tdVec (s : State) (p : Nat) (t : Td) (idx : List Int) (cs : List (List Nat)) : List F32 × Nat :=
  let es := cs.map (s.tdCell p t idx)
  (es.map (fun e => t.cell32 e.1), (es.filter (·.2)).length)

/-- Read a row of `k` elements at coordinates (i, r, l). -/
def State.tdRow (s : State) (p : Nat) (t : Td) (idx : List Int) (k r l : Nat) : List F32 × Nat :=
  s.tdVec p t idx ((List.range k).map (fun i => [i, r, l].take t.rank))

/-! ### Fetching the rows of a read (R162 to R164, R167) -/

/-- A list without immediate repetitions. -/
def squeeze : List Nat → List Nat
  | a :: b :: r => if a = b then squeeze (b :: r) else a :: squeeze (b :: r)
  | l => l

/-- The distinct 64 B granules of a row that hold an element in bounds. -/
def State.rowGranules (s : State) (p : Nat) (t : Td) (idx : List Int) (k r l : Nat) : List Nat :=
  let g := s.tdSeg p t
  let bs := (List.range k).flatMap (fun i =>
    match t.resolve idx (t.mem ([i, r, l].take t.rank)) with
    | none => []
    | some z =>
      let ps := t.places z
      if ps.all (inSeg g.2) then ps.map (fun q => (g.1 + q.1.toNat, q.2)) else [])
  (squeeze (bs.flatMap (fun q => [q.1 / 64, (q.1 + q.2 - 1) / 64]))).eraseDups

/-- Index a of a dimension of the memory tensor reads what index b reads: a zero stride, or equal resolved coordinates within
one group of 32 index positions (R163, R167). -/
def Td.sameAt (t : Td) (idx : List Int) (d a b : Nat) : Bool :=
  let at_ (i : Nat) := t.resolve idx (setAt [0, 0, 0] d (fun _ => i))
  a == b || t.st d == 0 || (t.gathers && t.gDim == d && a / 32 == b / 32 && at_ a == at_ b)

/-- What was fetched at (row, third index) `u` serves `r` too: the same elements (R163, R167), or one transposition tile
(R169). -/
def Td.serves (t : Td) (idx : List Int) (u r : Nat × Nat) : Bool :=
  (t.sameAt idx t.rowDim u.1 r.1 || (t.transpose && u.1 / 32 == r.1 / 32)) && t.sameAt idx 2 u.2 r.2

/-- Join addresses in their order into ranges. -/
def runsOf : List Nat → List (Nat × Nat)
  | [] => []
  | a :: r =>
    match runsOf r with
    | (b, n) :: q => if b = a + 1 then (a, n + 1) :: q else (a, 1) :: (b, n) :: q
    | [] => [(a, 1)]

/-- Rows fetched so far: the reads requested, the rows that waits hang on, and the granules with the row and third index
each was fetched for. -/
structure Fetch where
  st   : State
  deps : List (Nat × List Nat)
  seen : List (Nat × Nat × Nat)
  deriving DecidableEq, Repr

/-- Fetch the granules of a row at a third index that nothing fetched earlier brings with it. -/
def Fetch.row (p : Nat) (t : Td) (idx : List Int) (k : Nat) (obj : Nat → MemObj) (f : Fetch) (r : Nat × Nat) : Fetch :=
  let gs := f.st.rowGranules p t idx k r.1 r.2
  let hit (g : Nat) := f.seen.find? (fun x => x.1 == g && t.serves idx x.2 r)
  let mine := gs.filter (fun g => (hit g).isNone)
  let from_ := ((gs.filterMap (fun g => (hit g).map (·.2.1))).filter (· ≠ r.1)).eraseDups
  let wide := t.st t.rowDim == 0 || t.st 2 == 0 || t.transpose || t.gathers
  { st := f.st.issueReads ((runsOf mine).map (fun q => (64 * q.1, 64 * q.2))) (obj r.1)
    deps := if from_.isEmpty then f.deps else f.deps ++ [(r.1, from_)]
    seen := if wide then f.seen ++ mine.map (fun g => (g, r)) else [] }

/-- Issue the reads of a use of a descriptor at places (row, third index); returns the rows whose data comes with other
rows as well. -/
def State.fetchAt (s : State) (p : Nat) (t : Td) (idx : List Int) (k : Nat) (places : List (Nat × Nat))
    (obj : Nat → MemObj) : State × List (Nat × List Nat) :=
  let f := places.foldl (Fetch.row p t idx k obj) { st := s, deps := [], seen := [] }
  (f.st, f.deps)

/-- Issue the reads of rows of a use of a descriptor at one third index. -/
def State.fetchRows (s : State) (p : Nat) (t : Td) (idx : List Int) (k l : Nat) (rows : List Nat)
    (obj : Nat → MemObj) : State × List (Nat × List Nat) := s.fetchAt p t idx k (rows.map (fun r => (r, l))) obj

/-- The rows whose reads row r waits for: its own, and those that fetch for it. -/
def sources (deps : List (Nat × List Nat)) (r : Nat) : List Nat := r :: ((deps.find? (fun d => d.1 == r)).map (·.2)).getD []

/-- The rows that need what was read for row u. -/
def served (deps : List (Nat × List Nat)) (u : Nat) : List Nat := u :: (deps.filter (fun d => d.2.contains u)).map (·.1)

/-- The logical index of an element (R165). -/
def Td.logical (t : Td) (c : List Nat) : Nat :=
  (List.range 6).foldr (fun d a => c.getD d 0 + t.sz d * a) 0

/-- The bits of an FP32 value in a plain float type (R348). -/
def encElem (et : Nat) (v : F32) : Nat := if et = 1 then f32ToBf v else v.toNat

/-- The bytes that writing element bits (and a scale byte) stores, and whether a byte was dropped (R164). -/
def State.tdBytes (s : State) (p : Nat) (t : Td) (idx : List Int) (c : List Nat) (raw scale : Nat) :
    List (Nat × Byte) × Bool :=
  match t.resolve idx c with
  | none => ([], false)
  | some z =>
    let g := s.tdSeg p t
    let ps := t.places z
    let vals := if isMx t.etype then [toLE 1 scale, toLE 1 raw] else [toLE (etBytes t.etype) raw]
    let byts := (ps.zip vals).flatMap (fun (r, v) =>
      (List.range r.2).map (fun (i : Nat) => (r.1 + Int.ofNat i, v.getD i (0 : Byte))))
    let good := byts.filter (fun b => inSeg g.2 (b.1, 1))
    (good.map (fun b => (g.1 + b.1.toNat, b.2)), decide (good.length < byts.length))

/-- Store single bytes for an object: the data, and one request per 4 KiB piece of each range. -/
def State.wrBytes (s : State) (bs : List (Nat × Byte)) (obj : MemObj) : State :=
  let ps := (runsOf (bs.map (·.1))).flatMap (fun r => piecesOf r.1 r.2)
  ({ s with mem := bs.foldl (fun m x => spSet m x.1 x.2) s.mem } : State).askWrites ps obj

/-- The bytes of element writes in their order, and the number of elements of which a byte was dropped. -/
def State.putBytes (s : State) (p : Nat) (t : Td) (idx : List Int) (es : List (List Nat × Nat × Nat)) :
    List (Nat × Byte) × Nat :=
  let ws := es.map (fun e => s.tdBytes p t idx e.1 e.2.1 e.2.2)
  (ws.flatMap (·.1), (ws.filter (·.2)).length)

/-- Write elements (coordinates, bits, scale byte) in ascending logical index, but at the addresses that elements of
higher logical index hold already (R164, R165). -/
def State.tdPut (s : State) (p : Nat) (t : Td) (idx : List Int) (es : List (List Nat × Nat × Nat)) (above : List Nat)
    (obj : MemObj) : State :=
  let ws := s.putBytes p t idx es
  (s.wrBytes (ws.1.filter (fun b => !above.contains b.1)) obj).bump (rSEG_OOB_WR_CNT p) ws.2

/-- The bytes that the elements of a row can reach: first, and past the last. -/
def Td.rowSpan (t : Td) (idx : List Int) (k r l : Nat) : Option (Int × Int) :=
  let at_ := [0, r, l].take t.rank
  let z := if t.gDim = 0 then some (at_.map Int.ofNat) else t.resolve idx at_
  z.map (fun z =>
    let n : Int := etBytes t.etype
    let reach := t.st 0 * ((if t.gDim = 0 then t.extent else k : Nat) - 1 : Int) * n
    let a := ((t.places z).headD (0, 0)).1
    (a + min 0 reach, a + max 0 reach + n))

/-- Two spans meet. -/
def spansMeet (a b : Option (Int × Int)) : Bool :=
  match a, b with
  | some a, some b => decide (a.1 < b.2) && decide (b.1 < a.2)
  | _, _ => false

/-! ### Scatter-add (R168) -/

/-- The sum of a target and its contributions in ascending logical index (R168). -/
def scatterSum (adds : List (Nat × Nat × F32)) (a : Nat) : F32 :=
  match sortBy (fun x y => decide (x.2.1 ≤ y.2.1)) (adds.filter (fun x => x.1 == a)) with
  | [] => 0
  | x :: r => r.foldl (fun v y => f32Add v y.2.2) x.2.2

/-- The ranges of scatter-add targets of a size. -/
def targetRanges (n : Nat) (as : List Nat) : List (Nat × Nat) := runsOf (as.flatMap (fun a => (List.range n).map (a + ·)))

/-- The addresses of the elements of a scatter-add at coordinates. -/
def State.targetsAt (s : State) (p : Nat) (t : Td) (idx : List Int) (cs : List (List Nat)) : List Nat :=
  (cs.filterMap (fun c => ((s.tdBytes p t idx c 0 127).1.head?).map (·.1))).eraseDups

/-- The values found at the targets that a scatter-add touches for the first time, and its contributions, beside those that
the command has made already; elements out of bounds are dropped and counted (R164, R168). -/
def State.tdAdd (s : State) (p : Nat) (t : Td) (idx : List Int) (es : List (List Nat × F32))
    (adds : List (Nat × Nat × F32)) : State × List (Nat × Nat × F32) × List (Nat × Nat × F32) :=
  let tg := es.map (fun e => (s.tdBytes p t idx e.1 0 127, e))
  let hits := tg.filterMap (fun x => (x.1.1.head?).map (fun b => (b.1, t.logical x.2.1 + 1, x.2.2)))
  let new := (hits.map (·.1)).eraseDups.filter (fun a => !adds.any (fun x => x.1 == a))
  let bases := new.map (fun a => (a, 0, enc32 (elemFp t.etype (leNat (s.rd a (etBytes t.etype))) 127)))
  (s.bump (rSEG_OOB_WR_CNT p) (tg.filter (fun x => x.1.2)).length, bases, hits)

/-- The row of the last contribution to a target. -/
def Td.lastRow (t : Td) (adds : List (Nat × Nat × F32)) (a : Nat) : Nat :=
  (maxNat ((adds.filter (fun x => x.1 == a)).map (·.2.1)) - 1) / max 1 (t.sz 0) % max 1 (t.sz 1)

/-- Every target of the contributions `mine` is written, its sum with all contributions of the command rounded once to its type
(R168). -/
def State.tdFlush (s : State) (t : Td) (adds mine : List (Nat × Nat × F32)) (obj : Nat → MemObj) : State :=
  let ts := (mine.map (·.1)).eraseDups.map (fun a => (a, t.lastRow mine a))
  (ts.map (·.2)).eraseDups.foldl (fun s r =>
    s.wrBytes ((ts.filter (fun x => x.2 == r)).flatMap (fun x =>
      let v := toLE (etBytes t.etype) (encElem t.etype (scatterSum adds x.1))
      (List.range v.length).map (fun i => (x.1 + i, v.getD i 0)))) (obj r)) s

/-- FP32 values as the element writes of a plain float type. -/
def Td.puts (t : Td) (es : List (List Nat × F32)) : List (List Nat × Nat × Nat) :=
  es.map (fun e => (e.1, encElem t.etype e.2, 127))

end Sys2Proof.Machine
end

