-- ==== Sys2Proof/Machine/Queue.lean ====
section
/-! DEFINITION. The attach port's doorbells and notifications, the groups' rings, completion records, aborts, parking,
pre-emption, teardown and restart (R41 to R50, R129 to R152, R417 to R420). -/

namespace Sys2Proof.Machine

/-! ### Attach port (R42 to R50) -/

/-- The bytes of a beat (R41, R47). -/
def beatBytes (gen2 : Bool) : Nat := if gen2 then 64 else 128

/-- Drive the first waiting response of a generation while the block holds a credit, `n` times at most (R43, R44). -/
def State.driveRsps (s : State) (gen2 : Bool) : Nat → State
  | 0 => s
  | n + 1 =>
    match s.seam.rspWait.find? (fun r => r.gen2 == gen2) with
    | none => s
    | some r =>
      if (if gen2 then s.seam.crdIp2 else s.seam.crdIp) = 0 then s
      else
        ({ s with seam := { s.seam with
            rspWait := s.seam.rspWait.erase r
            rspSent := s.seam.rspSent ++ [r]
            crdIp := if gen2 then s.seam.crdIp else s.seam.crdIp - 1
            crdIp2 := if gen2 then s.seam.crdIp2 - 1 else s.seam.crdIp2 } } : State).driveRsps gen2 n

/-- Drive every waiting response that has a credit, in the order of the requests (R44). -/
def State.drainRsps (s : State) : State :=
  (s.driveRsps false s.seam.rspWait.length).driveRsps true s.seam.rspWait.length

/-- Answer an inbound request in the order of R44. Its credit goes back to the host whether or not the response can
leave (R43). A response to a write has one beat of zero data, one to a read the beats asked for. While the host's counts
are not known, before LOAD ends, the response waits. DESIGN CHOICE, log entry 92. -/
def State.respondTo (s : State) (gen2 : Bool) (sts tag dom beats : Nat) : State :=
  let r : SeamRsp := { gen2 := gen2, sts := sts, tag := tag, dom := if gen2 then 0 else dom, beats := beats
                       data := zeros ((beats + 1) * beatBytes gen2) }
  ({ s with seam := { s.seam with
      rspWait := s.seam.rspWait ++ [r]
      retIq := if gen2 then s.seam.retIq else s.seam.retIq + 1
      retIq2 := if gen2 then s.seam.retIq2 + 1 else s.seam.retIq2 } } : State).drainRsps

/-- Answer a write. -/
def State.respond (s : State) (gen2 : Bool) (sts tag dom : Nat) : State := s.respondTo gen2 sts tag dom 0

/-- Answer a slot write. -/
def State.reply (s : State) (r : SeamReq) (sts : Nat) : State := s.respond r.gen2 sts r.tag r.dom

/-- The ordering domain of a command that is an inbound request: 8 for Seam-2 (R44, R50). -/
def seamDomain (i : Instr) : Option Nat :=
  let dom (gen2 : Bool) (d : Nat) := some (if gen2 then 8 else d)
  match i with
  | .ringDoorbell r => dom r.gen2 r.dom
  | .layerDoorbell r => dom r.gen2 r.dom
  | .engineCompletion r => dom r.gen2 r.dom
  | .weightWriteRelease r => dom r.gen2 r.dom
  | .abortRequest r => dom r.gen2 r.dom
  | .seamInvalidRequest r => dom r.gen2 r.dom
  | _ => none

/-- The requests that the two generations deliver in one CCLK enter the block in domain order (R44, R50). -/
def State.seamDeliver (s : State) (rs : List Instr) : State :=
  { s with pending := s.pending ++ sortBy (fun a b => decide ((seamDomain a).getD 9 ≤ (seamDomain b).getD 9)) rs }

/-- The header of a response as the channel carries it (R42). -/
def rspHeader (r : SeamRsp) : Nat := pack [(0, 4, r.sts), (8, 8, r.tag), (16, 2, r.beats)]

/-- The header of an outbound request as the channel carries it (R42). -/
def outHeader (o : SeamOut) : Nat :=
  pack [(0, 4, o.opc), (4, 3, o.dom), (8, 8, o.tag), (16, 2, o.beats), (32, 64, o.addr)]

/-- Drive a waiting notification as one beat while the block holds a credit (R43, R49). No rule states the TAG of a request
of the block: a free value. DESIGN CHOICE, log entry 94. -/
def State.driveNote (s : State) (f : Note → Bool) : State :=
  match s.seam.notes.find? (fun n => f n && !n.held) with
  | none => s
  | some n =>
    let have_ := if n.gen2 then s.seam.crdOq2 else s.seam.crdOq
    if have_ = 0 then s
    else
      let beat := n.data ++ zeros (beatBytes n.gen2 - n.data.length)
      { s with seam := { s.seam with
          notes := s.seam.notes.erase n
          sent := s.seam.sent ++ [{ gen2 := n.gen2, opc := 2, dom := n.dom
                                    tag := (Config.outTag s.seam.sent.length).toNat, beats := 0, addr := n.addr, beat := beat }]
          crdOq := if n.gen2 then s.seam.crdOq else s.seam.crdOq - 1
          crdOq2 := if n.gen2 then s.seam.crdOq2 - 1 else s.seam.crdOq2 } }

/-- A notification can be driven. -/
def State.noteDue (s : State) (f : Note → Bool) : Bool :=
  match s.seam.notes.find? (fun n => f n && !n.held) with
  | none => false
  | some n => decide (0 < (if n.gen2 then s.seam.crdOq2 else s.seam.crdOq))

/-- Queue a notification of a group. It goes to NOTIFY_ADDR as the image holds it, a host address that no segment table
translates. DESIGN CHOICE, log entry 98. -/
def State.groupNote (s : State) (kind g dom : Nat) (data : Bytes) (held : Bool) : State :=
  { s with seam := { s.seam with notes := s.seam.notes ++
      [{ kind := kind, key := g, gen2 := s.gGen2 g, dom := dom, addr := s.gcfg g 24 8, data := data, held := held }] } }

/-- COMPLETION_NOTIFY (R76, R137). -/
def execCompletionNotify (group : Nat) (s : State) : Host.Outcome State Fault Refusal :=
  .next (s.driveNote (fun n => n.kind == 0 && n.key == group))

/-- WORK_READY_NOTIFY (R285). -/
def execWorkReadyNotify (tag : Nat) (s : State) : Host.Outcome State Fault Refusal :=
  let f (n : Note) := n.kind == 1 && n.key == tag
  if !s.noteDue f then .next s
  else
    let s := s.driveNote f
    match s.tabs.find? (fun t => t.tag == tag) with
    | none => .next s
    | some t =>
      let ts := s.tabs.map (fun (x : WorkTab) => if x.tag = tag then { x with notified := true } else x)
      .next (({ s with tabs := ts } : State).bump (rSEL_CNT t.part 12) 1)

/-- DIVERT_NOTIFY (R149). -/
def execDivertNotify (group : Nat) (s : State) : Host.Outcome State Fault Refusal :=
  .next (s.driveNote (fun n => n.kind == 2 && n.key == group))

/-- ABORT_NOTIFY (R419). -/
def execAbortNotify (group : Nat) (s : State) : Host.Outcome State Fault Refusal :=
  .next (s.driveNote (fun n => n.kind == 3 && n.key == group))

/-- SEAM_CREDIT_RETURN: the host returns a credit; a waiting response is driven (R43). -/
def execSeamCreditReturn (gen2 response : Bool) (s : State) : Host.Outcome State Fault Refusal :=
  if s.boot.rstLow then .next s
  else if response then .next (({ s with seam := { s.seam with
      crdIp := if gen2 then s.seam.crdIp else s.seam.crdIp + 1
      crdIp2 := if gen2 then s.seam.crdIp2 + 1 else s.seam.crdIp2 } } : State).drainRsps)
  else .next { s with seam := { s.seam with
      crdOq := if gen2 then s.seam.crdOq else s.seam.crdOq + 1
      crdOq2 := if gen2 then s.seam.crdOq2 + 1 else s.seam.crdOq2 } }

/-- A write lies in a slot of R45, at an offset from the base of its generation. -/
def seamSlot (off : Nat) : Bool :=
  decide (off % 64 = 0) && (decide (off < 0x1000) || (decide (0x1000 ≤ off) && decide (off < 0x2000))
    || (decide (0x2000 ≤ off) && decide (off < 0x2200)) || (decide (0x3000 ≤ off) && decide (off < 0x4000)))

/-- The response that an invalid request meets, `none` for a single-beat write to a slot, which is no invalid request
(R42, R45, R94). A reserved OPC is refused whatever its address. Before LOAD ends the bases are not known: ADDR_ERR; from
then to RUNNING, and in REFUSED, ACCESS_ERR. In RUNNING an address outside the slots answers ADDR_ERR, a read and a
multi-beat write included. DEDUCED, log entry 34. DESIGN CHOICE, log entry 93. -/
def State.invalidSts (s : State) (req : SeamRaw) : Option Nat :=
  let base := s.hdrF (if req.gen2 then 0x28 else 0x20) 8
  if req.opc ≠ 1 ∧ req.opc ≠ 2 then some 2
  else if s.boot.state ≤ 6 then some 1
  else if s.boot.state ≠ 11 then some 2
  else if !(decide (base ≤ req.addr) && seamSlot (req.addr - base)) then some 1
  else if req.opc = 1 ∨ 0 < req.beats then some 2
  else none

/-- SEAM_INVALID_REQUEST: the response of R42 and R45, and no other effect. A read is answered with the beats it asks
for, of zero data. -/
def execSeamInvalidRequest (req : SeamRaw) (s : State) : Host.Outcome State Fault Refusal :=
  if s.boot.rstLow then .next s
  else match s.invalidSts req with
    | some k => .next (s.respondTo req.gen2 k req.tag req.dom (if req.opc = 1 then req.beats else 0))
    | none => .next s

/-! ### Doorbells (R130, R131) -/

/-- An inbound write before LOAD has ended is answered ADDR_ERR, one up to PARTITION_UP, or in REFUSED, ACCESS_ERR,
with no effect (R94, R95). -/
def State.earlyGate (s : State) (r : SeamReq) : Option State :=
  if s.boot.state ≤ 6 then some (s.reply r 1)
  else if s.boot.state ≠ 11 then some (s.reply r 2)
  else none

/-- The checks a group's slot write meets first: start, generation, then the partition's state (R48, R94, R131).
`none` where it goes on. DEDUCED, log entry 34. -/
def State.slotGate (s : State) (r : SeamReq) : Option State :=
  if s.boot.state ≠ 11 then s.earlyGate r
  else if s.gGen2 r.slot ≠ r.gen2 then some ((s.bump rATTACH_GEN_MISMATCH_CNT 1).reply r 3)
  else if !s.gValid r.slot || s.stopped (s.gPart r.slot) then some (s.reply r 2)
  else none

/-- RING_DOORBELL (R131). -/
def execRingDoorbell (req : SeamReq) (s : State) : Host.Outcome State Fault Refusal :=
  if s.boot.rstLow || fld req.data 7 1 == 1 then .next s
  else
    let s := s.hostWrites req.host
    match s.slotGate req with
    | some t => .next t
    | none =>
      let g := req.slot
      let v := fld req.data 0 4
      let x := s.group g
      if fld req.data 7 1 ≠ 0 ∨ fld req.data 4 3 ≠ 0 then .next ((s.bump rRING_FAULT_CNT 1).reply req 0)
      else if 2 ^ s.gcfg g 3 1 < (v + 2 ^ 32 - x.head) % 2 ^ 32 ∨ 2 ^ 31 ≤ (v + 2 ^ 32 - x.tail) % 2 ^ 32 then
        .next (((s.onGroup g (fun y => { y with tailErr := true })).bump rRING_FAULT_CNT 1).reply req 0)
      else .next ((s.onGroup g (fun y => { y with tail := v })).reply req 0)

/-- The descriptor with index HEAD, `none` where the ring does not translate (R129, R157). -/
def State.headDesc (s : State) (g : Nat) : Option Bytes :=
  (s.tr (s.gPart g) (s.gcfg g 8 8 + 64 * ((s.group g).head % 2 ^ s.gcfg g 3 1)) 64 2).map (fun a => s.rd a 64)

/-- A submitted descriptor stands at HEAD. -/
def State.atHead (s : State) (g : Nat) : Bool := (s.group g).head != (s.group g).tailEff

/-- The layer that the next layer doorbell must name for a step number's low 16 bits: that of the step in flight, or
of the step at the ring head (R131); a step that a teardown ended is neither. DEDUCED, log entry 27. -/
def State.nextBell (s : State) (g low : Nat) : Option Nat :=
  match (s.part (s.gPart g)).step.filter (fun x => x.tornBy.isNone) with
  | some x =>
    if x.stepNo % 65536 = low ∧ x.group = g then
      let n := max 1 x.nextLayer
      if n < s.pLayers (s.gPart g) then some n else none
    else none
  | none =>
    match s.headDesc g with
    | some d => if s.atHead g ∧ fld d 0 1 = 1 ∧ fld d 16 2 = low ∧ 1 < s.pLayers (s.gPart g) then some 1 else none
    | none => none

/-- LAYER_DOORBELL: an accepted doorbell is held, and decided when it registers at the next stitch boundary
(R111, R131). -/
def execLayerDoorbell (req : SeamReq) (s : State) : Host.Outcome State Fault Refusal :=
  if s.boot.rstLow || fld req.data 7 1 != 1 then .next s
  else
    let s := s.hostWrites req.host
    match s.slotGate req with
    | some t => .next t
    | none =>
      let g := req.slot
      if fld req.data 4 3 ≠ 0 then .next ((s.bump rRING_FAULT_CNT 1).reply req 0)
      else
        let s := s.onGroup g (fun y => { y with bells := y.bells ++ [(fld req.data 0 2, fld req.data 2 2, false)] })
        .next (s.reply req 0)

/-- A doorbell that registers is held where it names the next pass, or ignored and counted (R131). A repeated one is held
once. -/
def State.registerBell (s : State) (g layer low : Nat) : State :=
  if !s.gBatch g && decide (layer ≠ 0) && s.nextBell g low == some layer then
    s.onGroup g (fun y => { y with
      bells := if y.bells.any (fun b => b.1 == layer && b.2.1 == low) then y.bells else y.bells ++ [(layer, low, true)] })
  else s.bump rLAYER_ORDER_CNT 1

/-- The layer doorbells of a group that were accepted since the last boundary register, in their order. -/
def State.registerBells (s : State) (g : Nat) : State :=
  let bs := (s.group g).bells
  let s := s.onGroup g (fun y => { y with bells := bs.filter (fun b => b.2.2) })
  (bs.filter (fun b => !b.2.2)).foldl (fun s b => s.registerBell g b.1 b.2.1) s

/-- ABORT_REQUEST: accepted and counted, decided at the next stitch boundary (R417). -/
def execAbortRequest (req : SeamReq) (s : State) : Host.Outcome State Fault Refusal :=
  if s.boot.rstLow then .next s
  else
    let s := s.hostWrites req.host
    match s.slotGate req with
    | some t => .next t
    | none =>
      let bad := decide (fld req.data 7 1 ≠ 0) || decide (fld req.data 4 3 ≠ 0)
      let s := s.onGroup req.slot (fun y => { y with aborts := y.aborts ++ [(fld req.data 0 4, bad, false)] })
      .next ((s.bump rABORT_CNT 1).reply req 0)

/-- The group may take the descriptor at HEAD (R136). A batch group's REPLAY waits for its partition to be UP. From a
shutdown request on no batch command starts (R443). -/
def State.ready (s : State) (g : Nat) : Bool :=
  s.inService && !(s.self.request && s.gBatch g) && s.gValid g && (s.group g).cur.isNone && !(s.group g).recBusy && s.atHead g
    && !s.stopped (s.gPart g)

/-- An opcode belongs to a group's class (R133). -/
def classOk (batch : Bool) (opc : Nat) : Bool :=
  opc == 0 || (if batch then opc == 5 else opc == 1 || opc == 2 || opc == 3 || opc == 4)

/-- The header checks of a command: opcode and class, the completion record's address; 0 passes. -/
def State.headFault (s : State) (g : Nat) (d : Bytes) : Nat :=
  if !classOk (s.gBatch g) (fld d 0 1) then 1
  else if fld d 8 8 % 32 ≠ 0 then 3
  else if (s.tr (s.gPart g) (fld d 8 8) 32 4).isNone then 8
  else 0

/-- The reserved fields of the common header (R132). -/
def headRsv (d : Bytes) : Bool := decide (fld d 1 1 < 2) && rsv d 3 1

/-! ### Who uses the cores (R141) -/

/-- A layer pass of the partition uses or is about to use the cores: a pass in stages 1 to 4, or a bell that lets the
next pass start. -/
def State.coresWanted (s : State) (p : Nat) : Bool :=
  match (s.part p).step with
  | some x => x.launched && x.tornBy.isNone && (x.passes.any (fun q => !q.stage4 && !q.ended)
      || (s.group x.group).bells.any (fun b => b.2.2) || (x.nextLayer == 0 && x.active))
  | none => false

/-- A command of a batch group that would use the cores could start or go on now: one at HEAD whose header is good and whose layer
is not held, or a saved one (R141, R144, R261). -/
def State.runnable (s : State) (b : Nat) : Bool :=
  match (s.group b).cur with
  | some c => c.phase == 1 && c.saved == 2 && !s.layerHeld (s.gPart b) (fld c.desc 24 2)
  | none => s.ready b && (match s.headDesc b with
    | some d => fld d 0 1 == 5 && s.headFault b d == 0 && !s.layerHeld (s.gPart b) (fld d 24 2)
    | none => false)

/-- Batch group b of the partition has a runnable command and a strictly higher priority than group g. -/
def State.outranks (s : State) (b g : Nat) : Bool :=
  s.gValid b && s.gBatch b && s.gPart b == s.gPart g && decide (s.gPrio b < s.gPrio g) && s.runnable b

/-- Something pre-empts the running command of batch group g (R141). -/
def State.preempted (s : State) (g : Nat) : Bool :=
  s.coresWanted (s.gPart g) || (List.range 64).any (fun b => s.outranks b g)

/-- A batch command gives the cores back to work that waits for them: that work starts at the next stitch boundary (R142,
R143). -/
def State.coresBack (s : State) (g : Nat) : State :=
  if s.gBatch g && s.preempted g then s.onPart (s.gPart g) (fun x => { x with lentAt := some s.stitch.count }) else s

/-- The cores were given back in this stitch (R142, R143). -/
def State.lentNow (s : State) (p : Nat) : Bool := (s.part p).lentAt == some s.stitch.count

/-! ### Completion (R129, R137, R150) -/

/-- The lanes of the partition's cores hold no row. -/
def State.clearLanes (s : State) (p : Nat) : State :=
  { s with cores := (List.range s.cores.length).map (fun c =>
      let x := s.cores.getD c resetCore
      if bit (s.pCores p) c then { x with lanes := x.lanes.map (fun l => { l with active := false }) } else x) }

/-- A job is credited to its client (R150). -/
def State.credit (s : State) (client status : Nat) : State :=
  s.bump (if status ≤ 1 then rACCT_DONE (client % 256) else rACCT_ABORT (client % 256)) 1

/-- A command that used the cores leaves them: they go back to what waits, and its lanes hold no row. -/
def State.leaveCores (s : State) (g status : Nat) (c : Cmd) : State :=
  let s := if c.saved != 2 && fld c.desc 0 1 == 5 && (c.job.isSome || status != 4) then s.coresBack g else s
  if c.saved != 2 && c.job.isSome then s.clearLanes (s.gPart g) else s

/-- The completion record is written with an END_STITCH, the command ends and HEAD advances (R129, R137). `jobs` are the
(client, STATUS) pairs, credited when a record is written (R150). -/
def State.complete (s : State) (g status fault diverted stepNo ledger endAt : Nat) (jobs : List (Nat × Nat)) : State :=
  match (s.group g).cur with
  | none => s
  | some c =>
    let s := s.leaveCores g status c
    let p := s.gPart g
    let addr := fld c.desc 8 8
    let place := if addr % 32 = 0 then s.tr p addr 32 4 else none
    let head := toLE 4 c.seq ++ toLE 1 status ++ toLE 1 fault ++ toLE 2 diverted
    let s := match place with
      | some a => s.wr a (head ++ toLE 8 stepNo ++ toLE 8 endAt ++ toLE 4 ledger ++ zeros 4) (.complRec g)
      | none => s
    let held := place.isSome
    let s := if held then jobs.foldl (fun s j => s.credit j.1 j.2) s else s
    let torn := c.torn || (c.phase == 2 && ((s.part p).step.bind (·.tornBy)).isSome)
    let s := if bit (fld c.desc 1 1) 0 then s.groupNote 0 g 0 (head ++ toLE 1 g) held else s
    let s := if (s.group g).abortHead then
        s.groupNote 3 g 0 (toLE 4 c.seq ++ toLE 1 0x81 ++ zeros 3 ++ toLE 1 g) held
      else s
    let s : State := { s with press := { s.press with runs := s.press.runs.filter (fun r => r.job != .batch g) } }
    s.onGroup g (fun x => { x with
      fetch := 0, cur := none, recBusy := held, lastSeq := some c.seq, abortHead := false
      head := if s.stopped p || torn then x.head else (x.head + 1) % 2 ^ 32 })

/-- A command other than STEP completes. -/
def State.completeCmd (s : State) (g status fault : Nat) : State :=
  match (s.group g).cur with
  | some c => s.complete g status fault 0 0 0xFFFFFFFF s.stitch.count [(fld c.desc 2 1, status)]
  | none => s

/-- A data write of the group's command lacks its response (R76). -/
def State.cmdWriting (s : State) (g : Nat) : Bool :=
  s.writing (.context (s.gPart g)) || s.writing (.batchOut g) || s.writing (.fatal (s.gPart g))

/-- A Press run of the group's command is on an array. -/
def State.runsOn (s : State) (g : Nat) : Bool := s.press.runs.any (fun r => r.job == .batch g)

/-- A command other than STEP is to end with a STATUS and FAULT: it does so at once, or, where it is `busy`, later; from now on it
issues no run. -/
def State.endWhen (s : State) (g status fault : Nat) (torn : Bool) (busy : Cmd → Bool) : State :=
  match (s.group g).cur with
  | some c =>
    if busy c then
      if c.endAs.isSome then s
      else s.onGroup g (fun x => { x with cur := some { c with endAs := some (status, fault), torn := torn } })
    else s.completeCmd g status fault
  | none => s

/-- A command other than STEP ends once its data writes have responses (R403). -/
def State.endWritten (s : State) (g status fault : Nat) (torn : Bool) : State :=
  s.endWhen g status fault torn (fun c => c.phase == 3 && s.cmdWriting g)

/-- A command other than STEP stops: it ends once its runs have drained and its data writes have responses (R143, R403, R418). -/
def State.endCmd (s : State) (g status fault : Nat) : State :=
  s.endWhen g status fault false (fun c => (c.phase == 3 && s.cmdWriting g) || (c.phase == 1 && s.runsOn g))

/-- A run of the group's command has ended: a command that an abort stopped ends with its last one (R143, R418). -/
def State.runsDrained (s : State) (g : Nat) : State :=
  match (s.group g).cur with
  | some c => match c.endAs with
    | some e => if c.phase = 1 ∧ !s.runsOn g then s.completeCmd g e.1 e.2 else s
    | none => s
  | none => s

/-- The completion record is visible: its notifications may leave, and the next descriptor may start (R76, R136). -/
def State.recVisible (s : State) (g : Nat) : State :=
  if s.writing (.complRec g) then s
  else
    let s := s.onGroup g (fun x => { x with recBusy := false })
    { s with seam := { s.seam with
        notes := s.seam.notes.map (fun n => if n.kind ≠ 1 ∧ n.key = g then { n with held := false } else n) } }

/-- The range of an object of a partition at a logical address, where it translates. -/
def State.rangeOf (s : State) (p addr len : Nat) : List (Nat × Nat) :=
  match s.tr p addr len 2 with
  | some a => if len = 0 then [] else [(a, len)]
  | none => []

/-- The reads of the command at HEAD are requested; it goes on once they are here (R54, R56). -/
def State.askCmd (s : State) (g : Nat) (rs : List (Nat × Nat)) : State :=
  (s.issueReads rs (.command g)).onGroup g (fun x => { x with fetch := x.fetch + 1 })

/-- Request the records of segment 255 from an offset on (R283, R345, R384, R410). -/
def State.fetchRecords (s : State) (p off len : Nat) : State :=
  match s.tr p (255 * 2 ^ 56 + off) len 2 with
  | some a => s.issueRead a len (.record p)
  | none => s

/-- The command begins: its descriptor is held. -/
def State.begin (s : State) (g phase : Nat) (d : Bytes) : State :=
  s.onGroup g (fun x => { x with
    cur := some { endAs := none, torn := false, cut := false, phase := phase, seq := fld d 4 4, desc := d, epochs := []
                  index := 0, saved := 0, job := none } })

/-- Segment i of a segment list. -/
def segOf (b : Bytes) (i : Nat) : Bytes := slice b (16 * i) 16

/-- The segment list of a STEP as it stands in memory, empty where it cannot be read (R134). -/
def State.segList (s : State) (p : Nat) (d : Bytes) : List Bytes :=
  let n := fld d 32 2
  match s.tr p (fld d 24 8) (16 * n) 2 with
  | some a => if n ≤ 16384 then (List.range n).map (segOf (s.rd a (16 * n))) else []
  | none => []

/-- A descriptor completes REFUSED with no other effect; the jobs of a STEP are its segments (R136, R150). -/
def State.refuseDesc (s : State) (g fault : Nat) (d : Bytes) : State :=
  let s := s.begin g 1 d
  if fld d 0 1 = 1 ∧ !s.gBatch g then
    s.complete g 4 fault 0 (fld d 16 8) 0xFFFFFFFF s.stitch.count ((s.segList (s.gPart g) d).map (fun b => (fld b 3 1, 4)))
  else s.completeCmd g 4 fault

/-- The segment list of a STEP, where it can be read. -/
def State.listRange (s : State) (p : Nat) (d : Bytes) : List (Nat × Nat) :=
  if fld d 32 2 ≤ 16384 then s.rangeOf p (fld d 24 8) (16 * fld d 32 2) else []

/-- A row that reads nothing but its descriptor. -/
def noReads (_ : Nat) (_ : Bytes) (_ : State) : List (Nat × Nat) := []

/-- What the descriptor `d` of group g still has to read before its command acts: `ops` gives the reads of stage 1, 2, … of a
command with a good header; a refused STEP reads its segment list for the accounts of its jobs (R136, R150). -/
def State.toRead (s : State) (g : Nat) (ops : Nat → Bytes → State → List (Nat × Nat)) (d : Bytes) : List (Nat × Nat) :=
  if s.headFault g d = 0 then ops (s.group g).fetch d s
  else if (s.group g).fetch = 1 ∧ fld d 0 1 = 1 ∧ !s.gBatch g then s.listRange (s.gPart g) d
  else []

/-- Take the descriptor at HEAD for a row that executes descriptors satisfying `mine`: it is read, then what it names, and the
command acts once all that is here (R54, R56). A descriptor whose header
fails completes REFUSED, whichever row is commanded; a ring that does not translate leaves the group at HEAD and is
counted. DESIGN CHOICE, log entries 21, 23 and 122. -/
def State.runDesc (s : State) (g : Nat) (mine : Bytes → Bool) (ops : Nat → Bytes → State → List (Nat × Nat))
    (f : Bytes → State → State) : State :=
  if !s.ready g then s
  else match s.headDesc g with
    | none => s.bump rRING_FAULT_CNT 1
    | some d =>
      if (s.group g).fetch = 0 then
        s.askCmd g (s.rangeOf (s.gPart g) (s.gcfg g 8 8 + 64 * ((s.group g).head % 2 ^ s.gcfg g 3 1)) 64)
      else if s.reading (.command g) then s
      else
        let bad := s.headFault g d
        if bad ≠ 1 ∧ !mine d then s
        else
          let rs := s.toRead g ops d
          if !rs.isEmpty then s.askCmd g rs
          else if bad ≠ 0 then s.refuseDesc g bad d
          else f d s

/-- A command that completes in this step with a fault code, 0 for none. DESIGN CHOICE, log entry 22. -/
def State.answer (s : State) (g fault : Nat) : State := s.completeCmd g (if fault = 0 then 0 else 4) fault

/-- NOP (R133). Its bytes 16 to 63, which no table names, are taken as reserved. DESIGN CHOICE, log entry 95. -/
def execNop (group : Nat) (s : State) : Host.Outcome State Fault Refusal :=
  .next (s.runDesc group (fun d => fld d 0 1 == 0) noReads (fun d s =>
    (s.begin group 1 d).answer group (if headRsv d && rsv d 16 48 then 0 else 2)))

/-! ### Reductions that end (R362, R369, R374, R375) -/

/-- The FOLD block of a step's group, empty where no block names it. -/
def State.redBlock (s : State) (g : Nat) : Bytes := ((s.foldOf g).map (foldBlock (s.sect 12))).getD []

/-- ELEMS of a layer's reduction, and the elements of chunk c (R363). -/
def redElems (e : Bytes) : Nat := fld e 16 4
def chunkElems (e : Bytes) (c : Nat) : Nat := min 32768 (redElems e - 32768 * c)
def chunkCount (e : Bytes) : Nat := ceilDiv (redElems e) 32768

/-- Physical range of chunk c of a result: address and bytes. -/
def State.resultRange (s : State) (p : Nat) (e : Bytes) (c : Nat) : Nat × Nat :=
  let size := elemBytes (fld e 21 1)
  ((s.tr p (fld e 8 8) 1 6).getD 0 + 32768 * c * size, chunkElems e c * size)

/-- FD_ABORT or FD_POISON. -/
def bodyFd (stepNo l reason orig : Nat) : Bytes :=
  toLE 8 stepNo ++ toLE 2 l ++ toLE 1 reason ++ zeros 1 ++ toLE 2 orig ++ zeros 2

/-- Update the reduction of a layer. -/
def onRed (l : Nat) (f : Red → Red) (x : StepSt) : StepSt :=
  { x with reds := x.reds.map (fun r => if r.layer = l then f r else r) }

/-- A reduction is abandoned: every chunk is released, the result region is undefined, and the step ends ABORTED after its earlier
passes (R375). -/
def State.abortRed (s : State) (p l : Nat) : State :=
  match (s.part p).step.bind (fun x => (x.reds.find? (fun r => r.layer == l && r.state ≠ 3)).map (fun r => (x, r))) with
  | none => s
  | some (x, r) =>
    let e := foldLayer (s.redBlock x.group) l
    let (k, s) := s.draw
    let m := (List.range r.chunkSt.length).foldl (fun m c => let a := s.resultRange p e c
      memWrite m a.1 ((List.range a.2).map (fun i => Config.freeByte k (131072 * c + i)))) s.mem
    let s := { s with mem := m, fold := { s.fold with redState := setAt s.fold.redState r.block (fun _ => 3) } }
    let s := s.onStep p (fun x => { onRed l (fun r => { r with
      state := 3, chunkSt := r.chunkSt.map (fun _ => 4), vals := [], right := [], bufs := [] }) x with
      redAbort := some l })
    (s.bump rFD_RED_ABORT_CNT 1).raise rFD_EVT 3

/-- Send FD_ABORT for a running reduction and act on it (R374, R375). -/
def State.raiseAbort (s : State) (p l reason : Nat) : State :=
  match (s.part p).step with
  | none => s
  | some x =>
    if x.reds.any (fun r => r.layer == l && r.state == 1) then
      (s.spread p 0x22 (trig p l 0 11) (bodyFd x.stepNo l reason s.member) (s.gatesOf x.group)).abortRed p l
    else s

/-! ### Teardown (R151, R420) -/

/-- STEP_END is queued and no write of it has been issued: it is the last record, and not the one being written. -/
def State.endQueued (s : State) (p : Nat) : Bool :=
  let q := (s.part p).jrnQ
  !q.isEmpty && !(decide (q.length = 1) && s.writing (.journal p))

/-- An event changes the STATUS of a step whose end has begun: its header is written again, and STEP_END is taken back where it has
not left (R394, R418, R420). DESIGN CHOICE, log entry 71. -/
def State.endAgain (s : State) (p : Nat) : State :=
  match (s.part p).step with
  | none => s
  | some x =>
    if x.fin = 1 then s.onStep p (fun x => { x with fin := 0 })
    else if x.fin = 2 then
      if x.endOut || !s.endQueued p then s.onStep p (fun x => { x with fin := 0, endOut := true })
      else (s.onPart p (fun y => { y with
        jrnQ := y.jrnQ.dropLast, jrnCrc := y.jrnCrc.take (y.jrnCrc.length - 64) })).onStep p (fun x => { x with fin := 0 })
    else s

/-- No table of a partition that the host holds is still to be answered. -/
def State.tabsAnswered (s : State) (p : Nat) : Bool := !s.tabs.any (fun t => t.part == p && t.notified && !t.answered)

/-- The cells of a partition that a teardown ended are free as soon as every outstanding table is answered (R151, R180,
R289). -/
def State.freeTorn (s : State) (p : Nat) : State :=
  if (s.part p).stopping && s.tabsAnswered p then s.freeOwner (ownerOf (s.sect 5) p) else s

/-- The layer of a step that is in progress: the last pass begun that has not ended, 0 for none (R420, R427). -/
def layerNow (x : StepSt) : Nat := maxNat ((x.passes.filter (fun q => !q.ended)).map (·.layer))

/-- The partition-fatal teardown of partition p with a FAULT code. The step in flight sends its VOIDs and WITHDRAW and
waits for TEARDOWN_FINISH, as does a step that an abort reached before its launch, which has no ledger entry (R426); any other step
not yet launched is dropped with HEAD. DEDUCED, log entry 26. The batch commands that it
ends take its code as FAULT, and a waiting PARK or STREAM_CTL ends with them. DESIGN CHOICE, log entry 101. -/
def State.teardown (s : State) (p fault : Nat) : State :=
  if s.stopped p || !s.pValid p then s
  else
    let x := (s.part p).step.filter (fun y => y.launched || y.abortReg)
    let layer := match x with
      | some y => layerNow y
      | none => 0
    let s := s.endAgain p
    let s := (s.raise rFLT_EVT 0).latch rFLT_LAST (BitVec.ofNat 32 (p + 256 * fault + 65536 * (layer % 256)))
    let s := s.onPart p (fun y => { y with
      state := 4, fault := fault, stopping := true, anyNo := true, wakeTry := 0, wakeLayer := 0, wake := none, wakeGot := []
      waits := [], tornAt := s.stitch.count
      step := (y.step.filter (fun y => y.launched || y.abortReg)).map (fun z => { z with tornBy := some fault }) })
    let gs := (List.range 64).filter (fun g => s.gValid g && s.gPart g == p)
    let s := gs.foldl (fun s g =>
      let s := match (s.group g).cur with
        | some c => if c.phase = 2 then s else s.endWritten g 2 fault true
        | none => s
      s.onGroup g (fun y => { y with
        head := y.tail, tailEff := y.tail, bells := y.bells.filter (fun b => !b.2.2), fetch := 0
        abortHead := y.abortHead && (y.cur.filter (fun c => c.phase != 2 || x.isSome)).isSome
        cur := y.cur.filter (fun c => c.phase != 2 || x.isSome) })) s
    let s := { s.clearLanes p with
      press := { s.press with runs := s.press.runs.filter (fun r => r.part != p) }
      power := { s.power with wakeq := s.power.wakeq.filter (· ≠ p) } }
    let s := s.freeTorn p
    match x.filter (·.launched) with
    | none => s
    | some y =>
      let s := (y.passes.filter (fun q => !q.ended)).foldl (fun s q =>
        let s := q.micros.foldl (fun s m => s.voidDest p q.layer y.stepNo (s.capPolicy p q.layer == 0) m) s
        if y.active && !q.srcDone then
          let m := microOf q q.lastMicro
          let gates := if m.gates.isEmpty then s.gatesOf y.group else m.gates
          (s.voidSrc p q.layer y.stepNo gates m).sendFinal p q.layer (q.lastMicro + 1) (s.microMax p q.layer) y.stepNo gates
        else s) s
      let s := (y.reds.filter (fun r => r.state == 1)).foldl (fun s r => s.raiseAbort p r.layer 3) s
      s.sendWithdraw p y 1

/-- Tear down every partition of the member. -/
def State.teardownAll (s : State) (fault : Nat) : State := (List.range 8).foldl (fun s p => s.teardown p fault) s

/-- The journal and ledger records of a partition that came up are here: they are held, or a failing one tears the partition down
(R384, R410). -/
def State.takeRecords (s : State) (p : Nat) : State :=
  if s.stopped p || (s.part p).jrnRec.length ≠ 0 then s
  else match s.readRecords p with
    | some (j, l) => s.onPart p (fun x => { x with jrnRec := j, ledRec := l })
    | none => s.teardown p 8

/-- PART_RESTART: a torn-down partition comes UP with empty rings, its domains are switched on again, and its records are
requested again; their check follows when they are here (R152, R384, R410, R428). A
retired memory port and an own declaration of death keep it without effect (R408, R424). DEDUCED, log entry 30.
DESIGN CHOICE, log entry 33. -/
def execPartRestart (part : Nat) (value : Word) (s : State) : Host.Outcome State Fault Refusal :=
  if s.boot.rstLow then .next s
  else if 8 ≤ part ∨ !s.powered (0x30020 + 4 * part) then .next { s with mgtData := 0, mgtErr := true }
  else
    let s := s.mgtAck
    if !bit value.toNat 0 ∨ (s.part part).state ≠ 4 ∨ s.units.memRet ≠ 0 ∨ s.isDead s.member then .next s
    else
      let s := s.onPart part (fun x => { x with
        state := 1, ledNext := 0, anyNo := true, jrnRec := [], ledRec := [], step := x.step.filter (fun y => y.fin ≠ 3)
        lastNo := match x.step with | some y => some y.stepNo | none => x.lastNo })
      let s := ((s.replan part).rampUp part).fetchRecords part 128 128
      .next (if s.reading (.record part) then s else s.takeRecords part)

/-! ### Stream contexts (R135, R139) -/

/-- The context of a stream; a stream never opened is CLOSED. -/
def State.context (s : State) (n : Nat) : Bytes := ((s.ctx.find? (fun e => e.1 == n)).map (·.2)).getD (zeros 64)

/-- Store a context, a closed one by leaving it out. -/
def State.setContext (s : State) (n : Nat) (b : Bytes) : State :=
  let rest := s.ctx.filter (fun e => e.1 != n)
  { s with ctx := if allZero b then rest else insertBy (fun a c => decide (a.1 ≤ c.1)) (n, b) rest }

/-- Overwrite bytes of a record. -/
def patch (b : Bytes) (off : Nat) (v : Bytes) : Bytes := b.take off ++ v ++ b.drop (off + v.length)

/-- A context as OPEN and RESUME store it. -/
def openCtx (b : Bytes) (p : Nat) : Bytes := patch b 0 (toLE 1 1 ++ toLE 1 p)

/-- A context loaded from memory: the context, or its fault (R139). A CTX_LEN outside its range is taken as an operand
outside its range. DESIGN CHOICE, log entry 97. -/
def State.loadCtx (s : State) (p addr : Nat) : Bytes ⊕ Nat :=
  match s.tr p addr 64 2 with
  | none => .inr 8
  | some a =>
    let b := s.rd a 64
    if !within (fld b 0 1) 1 2 || decide (4 ≤ fld b 2 1) || decide (2 ≤ fld b 3 1) || !rsv b 32 32 then .inr 2
    else if !within (fld b 4 4) 1 16777216 then .inr 3
    else .inl b

/-- A STREAM_CTL descriptor of an action; a reserved action is taken by whichever of the four rows is commanded. -/
def isStream (a : Nat) (d : Bytes) : Bool := fld d 0 1 == 2 && (fld d 18 1 == a || decide (3 < fld d 18 1))

/-- The fault of the operands themselves (R135); 0 passes. Bytes 32 to 63 are taken as reserved.
DESIGN CHOICE, log entries 28 and 95. -/
def streamFault (d : Bytes) : Nat :=
  if !headRsv d || !rsv d 19 5 || !rsv d 32 32 || bit (fld d 16 2) 15 || decide (3 < fld d 18 1) then 2
  else if fld d 24 8 % 64 ≠ 0 then 3
  else 0

/-- The context that OPEN and RESUME read (R135). -/
def ctxReads (g a n : Nat) (d : Bytes) (s : State) : List (Nat × Nat) :=
  if n = 1 ∧ a ≠ 3 ∧ fld d 24 8 ≠ 0 ∧ streamFault d = 0 then s.rangeOf (s.gPart g) (fld d 24 8) 64 else []

/-- Run a STREAM_CTL: `f` gives the new context, or a fault code. A context whose row is under test waits (R456). -/
def State.runStream (s : State) (g a : Nat) (f : State → Nat → Bytes → Nat → Bytes ⊕ Nat) : State :=
  s.runDesc g (isStream a) (ctxReads g a) (fun d s =>
    if s.ctxUnderTest (fld d 16 2) then s else
    let s := s.begin g 1 d
    let n := fld d 16 2
    if streamFault d ≠ 0 then s.answer g (streamFault d)
    else
      let p := s.gPart g
      match f s p (s.context n) (fld d 24 8) with
      | .inr k => s.answer g k
      | .inl b => (s.setContext n b).answer g 0)

/-- STREAM_OPEN: a CLOSED context is loaded or zeroed and set OPEN (R135). -/
def execStreamOpen (group : Nat) (s : State) : Host.Outcome State Fault Refusal :=
  .next (s.runStream group 0 (fun s p c addr =>
    if fld c 0 1 ≠ 0 then .inr 5
    else if addr = 0 then .inl (openCtx (patch (zeros 64) 4 (toLE 4 16777216)) p)
    else match s.loadCtx p addr with
      | .inl b => .inl (openCtx b p)
      | .inr k => .inr k))

/-- STREAM_RESUME: a PAUSED context, or a CLOSED one with CTX_ADDR, is set OPEN (R135). -/
def execStreamResume (group : Nat) (s : State) : Host.Outcome State Fault Refusal :=
  .next (s.runStream group 2 (fun s p c addr =>
    let st := fld c 0 1
    if !((st == 2 && fld c 1 1 == p) || (st == 0 && addr != 0)) then .inr 5
    else if addr = 0 then .inl (openCtx c p)
    else match s.loadCtx p addr with
      | .inl b => .inl (openCtx b p)
      | .inr k => .inr k))

/-- STREAM_CLOSE: the context becomes CLOSED and its other fields zero (R135). A stream of another partition is
refused. -/
def execStreamClose (group : Nat) (s : State) : Host.Outcome State Fault Refusal :=
  .next (s.runStream group 3 (fun _ p c _ =>
    if fld c 0 1 ≠ 0 ∧ fld c 1 1 ≠ p then .inr 5 else .inl (zeros 64)))

/-- STREAM_PAUSE: an OPEN context becomes PAUSED and is written to CTX_ADDR when that is not 0 (R135). With a write,
the command completes once it is visible (R76). -/
def execStreamPause (group : Nat) (s : State) : Host.Outcome State Fault Refusal :=
  .next (s.runDesc group (isStream 1) noReads (fun d s =>
    if s.ctxUnderTest (fld d 16 2) then s else
    let s := s.begin group 1 d
    let n := fld d 16 2
    let p := s.gPart group
    let c := s.context n
    let addr := fld d 24 8
    let b := patch c 0 (toLE 1 2)
    if streamFault d ≠ 0 then s.answer group (streamFault d)
    else if fld c 0 1 ≠ 1 ∨ fld c 1 1 ≠ p then s.answer group 5
    else if addr = 0 then (s.setContext n b).answer group 0
    else match s.tr p addr 64 4 with
      | none => s.answer group 8
      | some a => ((s.setContext n b).wr a b (.context p)).onGroup group (fun x => { x with
          cur := x.cur.map (fun k => { k with phase := 3 }) })))

/-- The data writes of a command are visible: it completes COMPLETE, or as an abort or a teardown has ended it
(R31, R76, R403). -/
def State.cmdWritten (s : State) (g : Nat) : State :=
  match (s.group g).cur with
  | some c =>
    if c.phase = 3 ∧ !s.cmdWriting g then
      match c.endAs with
      | some e => s.completeCmd g e.1 e.2
      | none => s.answer g 0
    else s
  | none => s

/-! ### STEP (R115 to R117, R134, R136, R140, R148) -/

/-- A stream is diverted to partition p: DIVERT is set and p is its partition's FALLBACK (R148). -/
def State.divertedTo (s : State) (c : Bytes) (p : Nat) : Bool :=
  bit (fld c 3 1) 0 && s.pcfg (fld c 1 1) 1 1 == p

/-- The fault of a segment (R134, R116, R140), given the streams and tokens before it; 0 passes. Of several breaches in one
segment the first in this order is reported. DESIGN CHOICE, log entry 96. -/
def State.segFault (s : State) (p : Nat) (b : Bytes) (streams : List Nat) (tokens : Nat) : Nat :=
  let n := fld b 0 2
  let kind := fld b 2 1
  let pos := fld b 4 4
  let cnt := fld b 8 2
  let c := s.context n
  if bit n 15 || !rsv b 10 6 || decide (2 < kind) then 2
  else if !(match kind with | 0 => cnt == 1 | 1 => within cnt 2 16 | _ => within cnt 1 8192) then 3
  else if streams.contains n then 4
  else if fld c 0 1 ≠ 1 ∨ (fld c 1 1 ≠ p ∧ !s.divertedTo c p) then 5
  else if fld c 8 4 < pos ∨ fld c 4 4 < pos + cnt then 6
  else if 16384 < tokens + cnt then 7
  else 0

/-- The fault of the first failing segment in list order; 0 passes. -/
def State.segsFault (s : State) (p : Nat) : List Bytes → List Nat → Nat → Nat
  | [], _, _ => 0
  | b :: r, streams, tokens =>
    let k := s.segFault p b streams tokens
    if k ≠ 0 then k else s.segsFault p r (fld b 0 2 :: streams) (tokens + fld b 8 2)

/-- The segments as the step holds them. -/
def State.makeSegs (s : State) (p : Nat) (keep : Bool) (bs : List Bytes) : List Seg :=
  bs.map (fun b =>
    let c := s.context (fld b 0 2)
    { stream := fld b 0 2, kind := fld b 2 1, client := fld b 3 1, pos := fld b 4 4, cnt := fld b 8 2
      kept := keep && !(bit (fld c 3 1) 0 && fld c 1 1 == p)
      prio := fld c 2 1 % 4, dline := fld c 12 4, seed := fld c 24 8, last := fld c 16 8 })

/-- d_model of the partition's largest layer (R134). DEDUCED, log entry 31. -/
def State.maxK (s : State) (p : Nat) : Nat := maxNat ((List.range (s.pLayers p)).map (fun l => leK (s.layerEnt p l)))

/-- The shape that R134 requires of HIDDEN_TD (`out` clear) and OUT_TD. -/
def State.stepShape (s : State) (p rows : Nat) (out : Bool) (t : Td) : Bool :=
  t.rank == 3 && (if out then t.etype == 0 || t.etype == 1 else t.etype == 1)
    && decide (s.maxK p ≤ t.sz 0) && t.sz 1 == rows && decide (s.pLayers p ≤ t.sz 2)

/-- The fault that drops a STEP's segments (R136, R160): operands, segment list, HIDDEN_TD, OUT_TD; 0 passes.
DEDUCED, log entry 24. -/
def State.stepFault (s : State) (p : Nat) (d : Bytes) : Nat :=
  let n := fld d 32 2
  if !rsv d 34 6 || !rsv d 56 8 then 2
  else if 16384 < n ∨ fld d 24 8 % 16 ≠ 0 then 3
  else if n = 0 then 0
  else match s.tr p (fld d 24 8) (16 * n) 2 with
    | none => 8
    | some a =>
      let bs := (List.range n).map (segOf (s.rd a (16 * n)))
      let k := s.segsFault p bs [] 0
      let rows := sumNat (bs.map (fun b => fld b 8 2))
      if k ≠ 0 then k
      else
        let h := s.tdCheck p (fld d 40 8) false (s.stepShape p rows false)
        if h ≠ 0 then h else s.tdCheck p (fld d 48 8) true (s.stepShape p rows true)

/-- The step of a descriptor at the ring head, before READY. -/
def State.newStep (s : State) (g : Nat) (d : Bytes) : StepSt :=
  let p := s.gPart g
  let k := s.stepFault p d
  let segs := s.makeSegs p (k == 0) (s.segList p d)
  let drop := if k = 0 then segs.filter (fun x => !x.kept) else []
  { group := g, seq := fld d 4 4, client := fld d 2 1
    stepNo := fld d 16 8, segs := segs, fault := k, diverted := drop.map (fun x => (x.stream, x.pos, x.cnt))
    hiddenTd := toLE 8 (fld d 40 8), outTd := toLE 8 (fld d 48 8), waited := false, readySent := false
    launchAt := none, askedAt := none, epochs := [], launched := false, engRec := [], combRec := [], active := false
    rosters := [], aset := none, gone := s.link.dead.map (fun m => (m.1, true, 0)), passes := [], nextLayer := 0
    reds := [], lstat := List.replicate (s.pLayers p) 7, abortReg := (s.group g).abortHead, withdrawn := none
    poisonAt := none, redAbort := none, opened := 0, tornBy := none, vary := if drop.isEmpty then 0 else 1, sadd := [], stragglers := []
    ledger := 0, ledLost := false, fin := 0, endOut := false, endAt := 0 }

/-- The reads of a STEP: its segment list and its tensor descriptors (R134). -/
def stepReads (g n : Nat) (d : Bytes) (s : State) : List (Nat × Nat) :=
  let p := s.gPart g
  if n ≠ 1 ∨ fld d 32 2 = 0 then []
  else s.listRange p d ++ s.rangeOf p (fld d 40 8) 128 ++ s.rangeOf p (fld d 48 8) 128

/-- STEP: the command at the ring head checks its number, segments and descriptors and stands before READY; on a PARKED
partition it wakes the partition. A reserved bit of the common header refuses it. A partition whose teardown has not
ended takes no STEP yet (R132, R136, R146, R148, R152): DESIGN CHOICE, log entry 109. One out of order gets no record:
DEDUCED, log entry 25. -/
def execStep (group : Nat) (s : State) : Host.Outcome State Fault Refusal :=
  let p := s.gPart group
  .next (s.runDesc group (fun d => fld d 0 1 == 1) (stepReads group) (fun d s =>
    let x := s.part p
    if !headRsv d then s.refuseDesc group 2 d
    else if x.state = 2 then (s.onPart p (fun y => { y with state := 3 })).wake p
    else if x.state ≠ 1 || x.stopping || x.step.isSome || (s.segList p d).any (fun b => s.ctxUnderTest (fld b 0 2)) then s
    else if !x.anyNo && x.lastNo.map (fun n => (n + 1) % 2 ^ 64) != some (fld d 16 8) then
      (s.begin group 1 d).onGroup group (fun y => { y with cur := none }) |>.teardown p 9
    else
      let st := s.newStep group d
      let n := st.diverted.length
      let s := (s.begin group 2 d).onPart p (fun y => { y with step := some st })
      (s.bump rDIVERT_CNT n).bump (rVARY_CNT p 0) n))

/-! ### PARK (R146) -/

/-- No step of the partition is in flight and no batch command is running or saved. -/
def State.parkClear (s : State) (p : Nat) : Bool :=
  (s.part p).step.isNone
    && (List.range 64).all (fun g => !(s.gValid g && s.gPart g == p && s.gBatch g) || (s.group g).cur.isNone)

/-- PARK: the command waits; a PARKED partition has nothing to wait for (R133, R146). Its bytes 16 to 63 are taken as
reserved. DESIGN CHOICE, log entry 95. -/
def execPark (group : Nat) (s : State) : Host.Outcome State Fault Refusal :=
  .next (s.runDesc group (fun d => fld d 0 1 == 4) noReads (fun d s =>
    if !headRsv d || !rsv d 16 48 then (s.begin group 1 d).answer group 2
    else if (s.part (s.gPart group)).state = 3 then s
    else s.begin group 0 d))

/-- PARK_COMPLETE: the partition's array domains go off, Starch with those of the last partition, and it is PARKED (R146,
R428). -/
def execParkComplete (part : Nat) (s : State) : Host.Outcome State Fault Refusal :=
  let g := s.stepGroup part
  match (s.group g).cur with
  | none => .next s
  | some c =>
    if c.phase ≠ 0 ∨ !((s.part part).state = 1 ∨ (s.part part).state = 2) ∨ !s.parkClear part then .next s
    else
      let s := (s.onPart part (fun x => { x with state := 2 })).partOff part
      .next (s.answer g 0)

/-! ### Aborts (R417 to R419) -/

/-- RESULT of an abort request at boundary B (R417). -/
def State.abortResult (s : State) (g seq : Nat) (bad : Bool) : Nat :=
  let x := s.group g
  let opc := match x.cur with
    | some c => if c.seq = seq then some (fld c.desc 0 1) else none
    | none => if s.atHead g && !x.recBusy then (s.headDesc g).bind (fun d =>
        if fld d 4 4 = seq then some (fld d 0 1) else none) else none
  if bad then 4
  else if x.lastSeq = some seq then 2
  else match opc with
    | none => 3
    | some o => if x.abortHead then 4 else if o = 1 ∨ o = 4 ∨ o = 5 then 1 else 4

/-- The effect of RESULT 1 (R418); on a step that a teardown has ended the abort is only noted (R426). -/
def State.abortNow (s : State) (g : Nat) : State :=
  let p := s.gPart g
  let s := s.onGroup g (fun x => { x with abortHead := true })
  match (s.group g).cur with
  | none =>
    match s.headDesc g with
    | some d => if fld d 0 1 = 1 then s else (s.begin g 1 d).completeCmd g 2 15
    | none => s
  | some c =>
    if c.phase ≠ 2 then s.endCmd g 2 15
    else match (s.part p).step with
      | none => s
      | some x =>
        if x.tornBy.isSome then s.onStep p (fun y => { y with abortReg := true })
        else if x.launched then
          ((s.endAgain p).onStep p (fun y => { y with
            abortReg := true, withdrawn := some y.nextLayer })).sendWithdraw p x 0
        else s.onStep p (fun y => { y with abortReg := true })

/-- ABORT_REGISTER: the oldest registered request of the group is decided; one for a partition that went down before the boundary has
no further effect, one at the boundary of its teardown is decided (R417, R419, R426). -/
def execAbortRegister (group : Nat) (s : State) : Host.Outcome State Fault Refusal :=
  match (s.group group).aborts with
  | [] => .next s
  | (seq, bad, reg) :: rest =>
    if !reg then .next s
    else
      let r := s.abortResult group seq bad
      let s := s.onGroup group (fun x => { x with aborts := rest })
      if s.stopped (s.gPart group) && (s.part (s.gPart group)).tornAt != s.stitch.count then .next s else
      let s := (s.latch (rABORT_RESULT group) (BitVec.ofNat 32 (r + 256 * (seq % 2 ^ 24)))).raise rFLT_EVT 7
      if r = 1 then .next (s.abortNow group)
      else .next (s.groupNote 3 group 0 (toLE 4 seq ++ toLE 1 (0x80 + r) ++ zeros 3 ++ toLE 1 group) false)

/-! ### Pre-emption (R141 to R145) -/

/-- A batch command has the partition's cores (R141 to R143). -/
def State.batchHasCores (s : State) (p : Nat) : Bool :=
  (List.range 64).any (fun g => s.gValid g && s.gPart g == p && s.gBatch g
    && (match (s.group g).cur with
      | some c => c.phase == 1 && fld c.desc 0 1 == 5 && c.saved != 2
      | none => false))

/-- A lane as the save area holds it (R233). -/
def laneBytes (l : Lane) : Bytes :=
  toLE 4 l.m.toNat ++ toLE 4 l.z.toNat ++ toLE 2 l.nextTile ++ toLE 1 (pack [(0, 1, flag l.active), (1, 1, flag l.rowNan),
    (2, 1, flag l.clamped)]) ++ zeros 5

/-- A lane as it is read back. -/
def laneOf (b : Bytes) : Lane where
  m := BitVec.ofNat 32 (fld b 0 4)
  z := BitVec.ofNat 32 (fld b 4 4)
  nextTile := fld b 8 2
  active := bit (fld b 10 1) 0
  rowNan := bit (fld b 10 1) 1
  clamped := bit (fld b 10 1) 2

/-- Core c. -/
def State.core (s : State) (c : Nat) : CoreSt := s.cores.getD c resetCore

/-- Bytes filled up with zeros to a length. -/
def fillTo (n : Nat) (b : Bytes) : Bytes := b ++ zeros (n - b.length)

/-- Scratchpad, accumulators and issue state of a core as the save area holds them (R143). -/
def coreBytes (c : CoreSt) : Bytes :=
  fillTo 3145728 c.pad ++ (List.range 4).flatMap (fun i => fillTo 4096 ((c.acc.getD i []).flatMap (fun v => toLE 4 v.toNat)))
    ++ fillTo 4096 c.issue

/-- The cores of a partition, ascending: those that the image assigns to it (R143). -/
def State.ownCores (s : State) (p : Nat) : List Nat := (List.range 8).filter (bit (s.pCores p))

/-- What core number j of a partition holds once its running command has stopped at an instruction boundary: its
accumulators and lanes as they stand (R183, R233). No rule lays out the scratchpad and the issue state: free values of
draw `k`. DEDUCED, log entry 29. -/
def stoppedCore (k j : Nat) (c : CoreSt) : CoreSt :=
  let at_ (i : Nat) := 4194304 * (j + 1) + i
  { c with
    pad := (List.range 3145728).map (fun i => Config.freeByte k (at_ i))
    issue := (List.range 4096).map (fun i => Config.freeByte k (at_ (3162112 + i))) }

/-- The running batch command stops: its cores hold what it left; no rule numbers its instructions, so the index of the
next one is a free value.
DEDUCED, log entry 29. -/
def State.stopCores (s : State) (g p : Nat) : State :=
  let (k, s) := s.draw
  let own := s.ownCores p
  let s := { s with cores := (List.range 8).map (fun c => if own.contains c then stoppedCore k c (s.core c) else s.core c) }
  s.onGroup g (fun x => { x with cur := x.cur.map (fun c => { c with
    index := leNat ((List.range 4).map (Config.freeByte k)), saved := 1 }) })

/-- The save area of a partition (R143, R233): lanes of cores that the partition does not own are zero. -/
def State.saveArea (s : State) (g : Nat) (c : Cmd) : Bytes :=
  let p := s.gPart g
  let own := s.ownCores p
  toLE 4 c.seq ++ toLE 1 g ++ toLE 1 (s.pCores p) ++ zeros 2 ++ toLE 8 s.stitch.count ++ toLE 4 c.index ++ zeros 44
    ++ (List.range 8).flatMap (fun c => if own.contains c then (s.core c).lanes.flatMap laneBytes else zeros 256)
    ++ zeros 1984 ++ own.flatMap (fun c => coreBytes (s.core c))

/-- The state of a core read back from the save area: place j among the partition's cores, core number c (R144, R233). -/
def coreFrom (b : Bytes) (j c : Nat) : CoreSt :=
  let at_ := 4096 + 3166208 * j
  { pad := slice b at_ 3145728
    acc := (List.range 4).map (fun a => (List.range 1024).map (fun i =>
      BitVec.ofNat 32 (fld b (at_ + 3145728 + 4096 * a + 4 * i) 4)))
    issue := slice b (at_ + 3162112) 4096
    lanes := (List.range 16).map (fun l => laneOf (slice b (64 + 256 * c + 16 * l) 16)) }

/-- The save area of a group has been read back: the cores hold what was saved, and the command goes on at its saved
instruction (R144). -/
def State.restored (s : State) (g : Nat) : State :=
  let p := s.gPart g
  match (s.group g).cur, s.tr p (s.gcfg g 16 8) (saveExtent (s.pCores p)) 6 with
  | some c, some a =>
    if c.saved ≠ 3 then s
    else
      let b := s.rd a (saveExtent (s.pCores p))
      let own := s.ownCores p
      let s := { s with cores := (List.range 8).map (fun c =>
        if own.contains c then coreFrom b (own.takeWhile (· ≠ c)).length c else s.core c) }
      s.onGroup g (fun x => { x with cur := x.cur.map (fun c => { c with index := fld b 16 4, saved := 0 }) })
  | _, _ => s

/-- A run of the group's batch command is on an array, or must still be made before its save: a retry, or a run of an
array that retired (R143, R209). -/
def State.runsLeft (s : State) (g : Nat) : Bool :=
  s.runsOn g || (((s.group g).cur.bind (·.job)).any (fun j => j.pass.plan.any (fun r => r.retry || r.moved)))

/-- Instructions of the group's command remain: rows to normalise, or runs to plan, issue or add; of a command that scores no rows,
its end (R145). -/
def State.instrLeft (s : State) (g : Nat) : Bool :=
  match (s.group g).cur.bind (·.job) with
  | none => true
  | some j => (List.range (ceilDiv j.pass.toks.length 8)).any (fun b => !j.pass.blocks.contains b)
      || (j.scores && (!j.pass.plan.isEmpty || decide (j.pass.planBlk < ceilDiv j.pass.toks.length 8)))

/-- PREEMPT_REGISTER: an INSTRUCTION-mode command stops at an instruction boundary, its runs drained, and its save area is
written; a command whose last instruction has issued is not saved (R143, R145, R209).
DESIGN CHOICE, log entry 86. -/
def execPreemptRegister (group : Nat) (s : State) : Host.Outcome State Fault Refusal :=
  match (s.group group).cur with
  | none => .next s
  | some c =>
    let p := s.gPart group
    match s.tr p (s.gcfg group 16 8) (saveExtent (s.pCores p)) 6 with
    | none => .next s
    | some a =>
      if !s.gBatch group || !s.gInstr group || c.phase ≠ 1 || c.saved ≠ 0 || c.endAs.isSome || !s.preempted group || s.runsLeft group
          || !s.instrLeft group then .next s
      else
        let s := s.stopCores group p
        let b := s.saveArea group ((s.group group).cur.getD c)
        .next ((s.wr a b (.saveArea group)).bump rPREEMPT_CNT 1)

/-- PREEMPT_SAVE_DONE: the save's last write response has arrived (R143). After a shutdown request the command saved completes
ABORTED (R443). -/
def execPreemptSaveDone (group : Nat) (s : State) : Host.Outcome State Fault Refusal :=
  match (s.group group).cur with
  | some c =>
    if c.saved = 1 ∧ !s.writing (.saveArea group) then
      if s.self.request then .next (s.completeCmd group 2 0) else
      .next ((s.onPart (s.gPart group) (fun x => { x with lentAt := some s.stitch.count })).onGroup group (fun x => { x with
        cur := some { c with saved := 2 } }))
    else .next s
  | none => .next s

/-- Batch group b of the partition stands before group g at equal priority: a lower number with a command to start or a
saved one (R141). -/
def State.standsBefore (s : State) (b g : Nat) : Bool :=
  s.gValid b && s.gBatch b && s.gPart b == s.gPart g && s.gPrio b == s.gPrio g && decide (b < g)
    && s.runnable b

/-- Group g is the highest runnable batch group of its partition and the cores are lent to it (R141, R144). -/
def State.highest (s : State) (g : Nat) : Bool :=
  !s.preempted g && !s.batchHasCores (s.gPart g) && !s.lentNow (s.gPart g) && (List.range 64).all (fun b => !s.standsBefore b g)

/-- PREEMPT_RESTORE: the save area is requested back; the command goes on once it is there (R144). -/
def execPreemptRestore (group : Nat) (s : State) : Host.Outcome State Fault Refusal :=
  match (s.group group).cur with
  | some c =>
    let p := s.gPart group
    match s.tr p (s.gcfg group 16 8) (saveExtent (s.pCores p)) 6 with
    | none => .next s
    | some a =>
      if c.saved = 2 ∧ s.highest group then
        let s := s.issueRead a (saveExtent (s.pCores p)) (.saveArea group)
        .next (s.onGroup group (fun x => { x with cur := some { c with saved := 3 } }))
      else .next s
  | none => .next s

/-- Saved batch commands complete ABORTED without restore (R443). -/
def State.abortSaved (s : State) : State :=
  (List.range 64).foldl (fun s g => match (s.group g).cur with
    | some c => if c.saved = 2 then s.completeCmd g 2 0 else s
    | none => s) s

end Sys2Proof.Machine
end

