-- ==== Sys2Proof/Machine/SelfTest.lean ====
section
/-! DEFINITION. Shutdown self-test, result record, wrapper instructions, Lint sweep, lifetime recorder and log
(R442 to R465). -/

namespace Sys2Proof.Machine

/-! ### The lifetime log (R462) -/

/-- A word saturating at 32 bits. -/
def sat32 (n : Nat) : Nat := min n (2 ^ 32 - 1)

/-- LINK_EVT of port p: entries to RETRAIN in the low half, retirements in the high half, each saturating (R460). -/
def State.linkEvt (s : State) (p : Nat) : Nat :=
  min (s.recd.linkRt.getD p 0) 65535 + 65536 * min (s.recd.linkRet.getD p 0) 65535

/-- ARRAY_FLT of array a: check mismatches in bits [23:0], Lint failures in bits [31:24], saturating (R460). -/
def State.arrayFlt (s : State) (a : Nat) : Nat :=
  min (s.recd.arrMis.getD a 0) (2 ^ 24 - 1) + 2 ^ 24 * min (s.recd.arrLint.getD a 0) 255

/-- A log record with a sequence number (R462). -/
def State.logRecord (s : State) (seq : Nat) : Bytes :=
  let flags := bitsOf [s.recd.rejected, decide (s.recd.calSrc ≠ 0), s.recd.restored, s.recd.testRefused]
  let body := toLE 4 0x4C335243 ++ toLE 2 1 ++ toLE 2 512 ++ toLE 4 seq ++ toLE 4 s.recd.startCnt
    ++ toLE 8 s.recd.lifeSec ++ toLE 4 s.recd.uptime ++ toLE 4 flags ++ toLE 8 s.recd.calendar
    ++ toLE 8 (s.recd.energyUj / 1000) ++ toLE 8 s.recd.steps ++ toLE 4 s.recd.selftests ++ toLE 4 s.recd.lintFails
    ++ (List.range 36).flatMap (fun p => toLE 4 (sat32 (s.recd.linkErr.getD p 0)) ++ toLE 4 (s.linkEvt p))
    ++ (List.range 32).flatMap (fun a => toLE 4 (s.arrayFlt a)) ++ zeros 28
  body ++ toLE 4 (crc32c body).toNat

/-- A log record is valid (R464). -/
def logValid (b : Bytes) : Bool :=
  decide (512 ≤ b.length) && decide (fld b 0 4 = 0x4C335243) && decide (fld b 4 2 = 1) && decide (fld b 6 2 = 512)
    && decide (fld b 508 4 = (crc32c (b.take 508)).toNat)

/-- Program a run of bytes in 256 B pages (R64). -/
def programOps (ofs : Nat) (b : Bytes) : List (Nat × Option Bytes) :=
  let ps := chunks 256 (b.length / 256 + 1) b
  (List.range ps.length).map (fun i => (ofs + 256 * i, some (ps.getD i [])))

/-- Drive flash operations on the boot port. -/
def State.flash (s : State) (ops : List (Nat × Option Bytes)) : State :=
  { s with recd := { s.recd with flashOps := s.recd.flashOps ++ ops } }

/-- LOG_WRITE (R463): while RUNNING, at each UPTIME that is a multiple of 600 s, sector SEQ mod 64 is erased and the
record programmed. -/
def execLogWrite (s : State) : Host.Outcome State Fault Refusal :=
  if s.inService ∧ 0 < s.recd.uptime ∧ s.recd.uptime % 600 = 0 ∧ s.recd.logAt ≠ s.recd.uptime then
    let seq := s.recd.logSeq + 1
    let ofs := s.hdrF 0x3C 4 + 4096 * (seq % 64)
    let s1 := s.flash ((ofs, none) :: programOps ofs (s.logRecord seq))
    .next { s1 with recd := { s1.recd with
      logSeq := seq, logAt := s.recd.uptime, rejected := false, testRefused := false, restored := false } }
  else .next s

/-- CALENDAR_TICK (R460, R461): one second. With time kept by the stitch it falls at each count that is a multiple of
1,562,500; under RST_N, before lock and in HOLDOVER it falls on AOCLK. DEDUCED, log entry 52. -/
def execCalendarTick (s : State) : Host.Outcome State Fault Refusal :=
  let byStitch := !s.boot.rstLow && (s.stitch.state == 1 || s.stitch.state == 3)
  if !s.recd.present then .next s
  else if byStitch && (decide (s.stitch.count % 1562500 ≠ 0) || decide (s.recd.tickAt = s.stitch.count)) then .next s
  else
    let r := { s.recd with
      lifeSec := s.recd.lifeSec + 1
      uptime := if s.running then s.recd.uptime + 1 else s.recd.uptime
      tickAt := s.stitch.count }
    match s.recd.calPend with
    | some v =>
      if byStitch then
        .next { s with
          recd := { r with calendar := v, calSrc := 2, calPend := none }
          mgr := { s.mgr with calPend := s.podMgr } }
      else .next { s with recd := { r with calendar := r.calendar + (if r.calSrc = 0 then 0 else 1) } }
    | none => .next { s with
        recd := { r with calendar := r.calendar + (if r.calSrc = 0 then 0 else 1) }
        mgr := { s.mgr with calPend := s.mgr.calPend || (s.podMgr && s.stitch.count % 25000000 == 0) } }

/-- CAL_SET (R461): a write of CAL_SET_HI on the head manager; the value takes effect at the next second. -/
def execCalSet (value : Word) (s : State) : Host.Outcome State Fault Refusal :=
  if s.boot.rstLow then .next s
  else
    let s := s.mgtAck
    if s.headMgr && s.running then
      .next { s with recd := { s.recd with
        calSetHi := value, calPend := some (value.toNat * 2 ^ 32 + s.recd.calSetLo.toNat) } }
    else .next s

/-! ### Wrapper instructions (R71, R453, R454) -/

/-- An instruction that the table of R453 does not allow here is not applied (R71). -/
def State.testRefuse (s : State) : State := s.bump rTEST_REFUSED_CNT 1

/-- The self-test controller at rest. -/
def State.selfIdle (s : State) : State := { s with self := { resetSelf with wrapper := s.self.wrapper } }

/-- A wrapper instruction other than WS_BYPASS and SELFTEST_RUN is updated (R453). DEDUCED, log entry 54. -/
def State.wrapUpdate (s : State) (code : Nat) : State :=
  if s.boot.rstLow then { s.selfIdle with self := { resetSelf with wrapper := code } }
  else if s.self.state = 6 ∨ s.self.state = 7 then { s with self := { s.self with wrapper := code } }
  else if 1 ≤ s.self.state ∧ s.self.state ≤ 5 then { s with self := { s.self with wrapHeld := some code } }
  else s.testRefuse

/-- WS_BYPASS, and the reserved codes, which act as it: the wrapper is transparent; a SELFTEST_RUN ends and the block
returns to RESET, its switched domains off (R453, R454). -/
def execWsBypass (s : State) : Host.Outcome State Fault Refusal :=
  if s.self.wrapper = 4 then .next { (s.domainsOff (List.range 46)).rampsOff with self := resetSelf }
  else .next { s with self := { s.self with wrapper := 0, wrapHeld := none } }

/-- WS_EXTEST. -/
def execWsExtest (s : State) : Host.Outcome State Fault Refusal := .next (s.wrapUpdate 1)

/-- WS_INTEST. -/
def execWsIntest (s : State) : Host.Outcome State Fault Refusal := .next (s.wrapUpdate 2)

/-- SCAN_ACCESS. -/
def execScanAccess (s : State) : Host.Outcome State Fault Refusal := .next (s.wrapUpdate 5)

/-- MBIST_ACCESS. -/
def execMbistAccess (s : State) : Host.Outcome State Fault Refusal := .next (s.wrapUpdate 6)

/-- Every switched domain, in the order of UNIT_INIT (R429): under RST_N no unit is known to be unusable. -/
def testOrder : List Nat := initOrder { resetUnits with arrays := 2 ^ 32 - 1, folds := 15 }

/-- SELFTEST_RUN applies only under RST_N: CHECK begins, with TEST_FLOOR set, and the domains come up in the order that
UNIT_INIT uses (R429, R454). -/
def execSelftestRun (s : State) : Host.Outcome State Fault Refusal :=
  if s.boot.rstLow ∧ s.recd.present then
    .next { s with
      self := { resetSelf with wrapper := 4, state := 2, floor := true }
      power := { s.power with ramps := testOrder.filter (fun d => !bit s.power.domOn d), rampOn := true } }
  else if 1 ≤ s.self.state ∧ s.self.state ≤ 5 then .next { s with self := { s.self with wrapHeld := some 4 } }
  else .next s.testRefuse

/-! ### The shutdown self-test (R443 to R451) -/

/-- SHUTDOWN_REQUEST: a write of ST_CTL (R443). Saved batch commands complete ABORTED; a save that runs ends so too, when it
is done. -/
def execShutdownRequest (value : Word) (s : State) : Host.Outcome State Fault Refusal :=
  if s.boot.rstLow then .next s
  else
    let s := s.mgtAck
    let v := value.toNat
    if v / 256 % 256 ≠ 0xC3 then .next (s.raise rST_EVT 0)
    else if bit v 0 ∧ s.running ∧ s.self.state = 0 then
      .next ({ s with self := { s.self with state := 1, request := true } }.abortSaved)
    else .next s

/-- A partition has a step in flight: one that has launched and whose record is not written (R115). -/
def Part.inFlight (x : Part) : Bool := x.step.any (fun y => y.launched && y.fin != 3)

/-- A batch command of a partition is in flight: running or saved. -/
def State.batchInFlight (s : State) (p : Nat) : Bool :=
  (List.range 64).any (fun g => s.gValid g && s.gPart g == p && s.gBatch g && (s.group g).cur.isSome)

/-- No step and no batch command of any partition is in flight (R443). -/
def State.drained (s : State) : Bool :=
  s.parts.all (fun p => !p.inFlight) && (List.range 8).all (fun p => !s.batchInFlight p)

/-- DRAIN_END: the ports carry nothing from here on and the test enters CHECK (R443, R445). -/
def execDrainEnd (s : State) : Host.Outcome State Fault Refusal :=
  if s.running ∧ s.self.state = 1 ∧ s.drained then
    .next { s with
      self := { s.self with state := 2 }
      link := { s.link with ports := s.link.ports.map (fun p => { p with state := 0, sub := 0 }), chans := [] } }
  else .next s

/-- SELFTEST_CHECK (R444): `cycles` CCLK cycles in 1,000 AOCLK cycles, VDD in mV. -/
def execSelftestCheck (cycles vddMv : Nat) (s : State) : Host.Outcome State Fault Refusal :=
  if s.self.state ≠ 2 then .next s
  else
    let code := if !within cycles 11940 16080 then 1 else if !within vddMv 700 850 then 2 else 0
    .next { s with self := { s.self with
      cclk := cycles / 10, vdd := vddMv, code := code, state := if code = 0 then 3 else 5, writeTry := 0 } }

/-- MISR partitions of a domain (R446). -/
def misrParts (dom : Nat) : Nat :=
  if dom < 32 then 1 else if dom < 36 then 10 else if dom < 40 then 1 else if dom < 43 then 4
  else if dom = 45 then 1 else 0

/-- A record entry (R450). -/
def resultEntry (kind dom mac row bt spare part : Nat) : Bytes :=
  toLE 1 kind ++ toLE 1 dom ++ toLE 2 mac ++ toLE 2 row ++ toLE 2 bt ++ toLE 1 spare ++ toLE 1 part ++ zeros 6

/-- Set every bit of `v` in `m`. -/
def orMask (m v : Nat) : Nat := m ||| v

/-- All four clusters marked. -/
def SelfSt.allClusters (x : SelfSt) : SelfSt := { x with badClusters := 15 }

/-- The unit that a failed MISR partition marks unusable (R448). -/
def SelfSt.markPart (x : SelfSt) (dom part : Nat) : SelfSt :=
  if dom < 32 then { x with badArrays := orMask x.badArrays (2 ^ dom) }
  else if dom < 36 then
    if part < 9 then { x with badLinks := orMask x.badLinks (2 ^ (9 * (dom - 32) + part)) }
    else { x with badClusters := orMask x.badClusters (2 ^ (dom - 32)) }
  else if dom < 40 then { x with badFolds := orMask x.badFolds (2 ^ (dom - 36)) }
  else if dom < 43 then { x with badMem := orMask x.badMem (2 ^ (4 * (dom - 40) + part)) }
  else x.allClusters

/-- Every unit of a domain marked unusable (R450, TRUNCATED). -/
def SelfSt.markDomain (x : SelfSt) (dom : Nat) : SelfSt :=
  (List.range (max 1 (misrParts dom))).foldl (fun y i => y.markPart dom i) x

/-- LOGIC_TEST_END: each partition's MISR is compared with its reference; `reinit` lists the partitions whose reset
values failed, the logic of a Hamper bank among them (R446, R448). The domains that SELFTEST_RUN brings up are on before
the test ends (R454). DESIGN CHOICE, log entry 6. -/
def execLogicTestEnd (misr : List (Nat × Nat × BitVec 64)) (reinit : List (Nat × Nat)) (s : State) :
    Host.Outcome State Fault Refusal :=
  if s.self.state ≠ 3 ∨ s.power.ramps ≠ [] then .next s
  else
    let bad := (misr.filter (fun e => decide (e.2.1 < misrParts e.1)
        && decide (e.2.2 ≠ Config.misrReference e.1 e.2.1))).map (fun e => (e.1, e.2.1))
    let ri := reinit.filter (fun e => decide (e.1 < 46) && decide (e.2 < max 1 (misrParts e.1)))
    let ents := bad.map (fun e => resultEntry 1 e.1 0xFFFF 0 0 0xFF e.2)
      ++ ri.map (fun e => resultEntry 5 e.1 0xFFFF 0 0 0xFF e.2)
    let x := (bad ++ ri).foldl (fun x e =>
      { (x.markPart e.1 e.2) with domFail := orMask x.domFail (2 ^ e.1) }) s.self
    .next { s with self := { x with state := 4, found := x.found ++ ents } }

/-- The power domain of a macro (R442). -/
def macroDomain (m : Nat) : Nat :=
  if m < 384 then m / 12 else if m < 672 then 32 + (m - 384) / 72 else if m < 960 then 32 + (m - 672) / 72
  else if m < 1088 then 43 else if m < 1216 then 44 else 32 + (m - 1216) / 16

/-- The unit that an unrepaired bit of a macro marks unusable (R448). -/
def SelfSt.markMacro (x : SelfSt) (m : Nat) : SelfSt :=
  if m < 384 then { x with badCores := orMask x.badCores (2 ^ (m / 48)) }
  else if m < 672 then { x with badLinks := orMask x.badLinks (2 ^ ((m - 384) / 8)) }
  else if m < 960 then { x with badLinks := orMask x.badLinks (2 ^ ((m - 672) / 8)) }
  else x.allClusters

/-- Spare assignment within one macro: spare rows and columns free, entries formed, columns repaired. -/
structure SpareSt where
  rows : List Nat
  cols : List Nat
  done : List Nat
  ents : List Bytes
  bad  : Bool
  deriving DecidableEq, Repr

/-- Give one failing row of a macro its spare (R447): `bts` are its failing bits, `others` the failing bits of the
macro's other rows. -/
def spareRow (m : Nat) (others : List Nat) (x : SpareSt) (row : Nat) (bts : List Nat) : SpareSt :=
  let dom := macroDomain m
  let unrep := { x with ents := x.ents ++ bts.map (fun b => resultEntry 4 dom m row b 0xFF 0), bad := true }
  let b := bts.headD 0
  if bts.length = 1 ∧ others.contains b then
    if x.done.contains b then x
    else match x.cols with
      | k :: r => { x with cols := r, done := b :: x.done, ents := x.ents ++ [resultEntry 3 dom m row b k 0] }
      | [] => unrep
  else match x.rows with
    | k :: r => { x with rows := r, ents := x.ents ++ [resultEntry 2 dom m row b k 0] }
    | [] => unrep

/-- Spares of one macro: those in force and those that fail the test are not free (R447, R450). -/
def spareMacro (repairs : List Bytes) (bs : List BadBit) (m : Nat) : SpareSt :=
  let mine := bs.filter (fun b => b.macroNo = m)
  let used (kind k : Nat) := repairs.any (fun e => fld e 0 1 == kind && fld e 2 2 == m && fld e 8 1 == k)
  let start : SpareSt :=
    { rows := (List.range 4).filter (fun k => !used 2 k && !mine.any (fun b => b.row == 1024 + k))
      cols := (List.range 2).filter (fun k => !used 3 k && !mine.any (fun b => b.bit == 512 + k))
      done := [], ents := [], bad := false }
  let data := mine.filter (fun b => decide (b.row < 1024) && decide (b.bit < 512))
  let rows := (sortBy (fun a b => decide (a ≤ b)) (data.map (·.row))).eraseDups
  rows.foldl (fun x r =>
    let bts := (sortBy (fun a b => decide (a ≤ b)) ((data.filter (fun b => b.row = r)).map (·.bit))).eraseDups
    spareRow m ((data.filter (fun b => b.row ≠ r)).map (·.bit)) x r bts) start

/-- The order of entries (R450): KIND, DOMAIN, MACRO, ROW, BIT. -/
def entryKey (e : Bytes) : Nat :=
  (((fld e 0 1 * 256 + fld e 1 1) * 65536 + fld e 2 2) * 65536 + fld e 4 2) * 65536 + fld e 6 2

/-- Close the entry list of a test: repairs in force join the new entries, and entries beyond 4,040 are dropped by
domain, their domains marked whole (R450). -/
def SelfSt.closeEntries (x : SelfSt) (repairs : List Bytes) : SelfSt :=
  let all := sortBy (fun a b => decide (entryKey a ≤ entryKey b)) (x.found ++ repairs)
  if all.length ≤ 4040 then { x with found := all }
  else
    let fits (d : Nat) := decide ((all.filter (fun e => decide (fld e 1 1 ≤ d))).length ≤ 4040)
    let keep := (List.range 48).filter fits
    let inD (e : Bytes) := keep.contains (fld e 1 1)
    let out := ((all.filter (fun e => !inD e)).map (fun e => fld e 1 1)).eraseDups
    let y := out.foldl SelfSt.markDomain x
    { y with found := all.filter inD, truncated := true }

/-- MEMORY_TEST_END: spares are assigned macro by macro and failures mark units (R447, R448, R450).
DEDUCED, log entry 53. -/
def execMemoryTestEnd (bits : List BadBit) (s : State) : Host.Outcome State Fault Refusal :=
  if s.self.state ≠ 4 then .next s
  else
    let ms := ((sortBy (fun a b => decide (a ≤ b)) (bits.map (·.macroNo))).eraseDups).filter (fun m => decide (m < 1280))
    let x := ms.foldl (fun x m =>
      let r := spareMacro s.boot.repairs bits m
      let x := { x with found := x.found ++ r.ents, domFail := orMask x.domFail (2 ^ macroDomain m) }
      if r.bad then x.markMacro m else x) s.self
    .next { s with self := { (x.closeEntries s.boot.repairs) with state := 5, writeTry := 0 } }

/-- A core is also unusable when its four arrays are; a cluster when both its cores are (R448). -/
def coresClosed (arrays cores : Nat) : Nat :=
  maskOf 8 (fun c => bit cores c || (List.range 4).all (fun i => bit arrays (4 * c + i)))

/-- The clusters unusable with their closure over cores. -/
def clustersClosed (cores clusters : Nat) : Nat :=
  maskOf 4 (fun c => bit clusters c || (bit cores (2 * c) && bit cores (2 * c + 1)))

/-- The result record without its consumed page (R449). DEDUCED, log entry 56. -/
def State.resultRecord (s : State) : Bytes :=
  let x := s.self
  let refused := decide (x.code ≠ 0)
  let ents := if refused then [] else x.found
  let cores := coresClosed x.badArrays x.badCores
  let head := toLE 4 0x54335243 ++ toLE 2 1 ++ toLE 1 (if refused then 1 else 0) ++ toLE 1 x.code
    ++ toLE 4 s.recd.startCnt ++ toLE 2 ents.length ++ toLE 2 x.cclk ++ toLE 2 x.vdd
    ++ toLE 1 (bitsOf [x.truncated, x.floor]) ++ zeros 1 ++ toLE 8 x.domFail ++ toLE 4 x.badArrays
    ++ toLE 1 cores ++ toLE 1 (clustersClosed cores x.badClusters) ++ toLE 1 x.badFolds ++ zeros 1
    ++ toLE 8 x.badLinks ++ toLE 2 x.badMem ++ zeros 78
  let tail := s.logRecord s.recd.logSeq ++ ents.flatten
  head ++ toLE 4 (crc32c (head ++ zeros 4 ++ tail)).toNat ++ tail

/-- The flash operations of WRITE: the sectors occupied and sector 15 are erased, then the record is programmed
(R451). -/
def resultOps (ofs : Nat) (rec : Bytes) : List (Nat × Option Bytes) :=
  let n := ceilDiv rec.length 4096
  let secs := (List.range 16).filter (fun i => decide (i < n) || i == 15)
  secs.map (fun i => (ofs + 4096 * i, none)) ++ programOps ofs rec

/-- Entry to DONE or REFUSED: the domains go off, ST_EVT.DONE is set and a held wrapper instruction applies. -/
def State.selfFinish (s : State) : State :=
  let st := if s.self.code = 0 then 6 else 7
  let done := decide (s.self.code = 0) && !s.self.floor
  let s := (s.domainsOff (List.range 46)).rampsOff.raise rST_EVT 2
  let s := { s with
    self := { s.self with state := st, entries := if s.self.code = 0 then s.self.found.length else 0 }
    recd := { s.recd with
      selftests := s.recd.selftests + (if done then 1 else 0)
      testRefused := s.recd.testRefused || decide (s.self.code ≠ 0) } }
  match s.self.wrapHeld with
  | some 4 => { s with self := { s.self with wrapHeld := none } }.testRefuse
  | some c => { s with self := { s.self with wrapHeld := none, wrapper := c } }
  | none => s

/-- RESULT_WRITE_END: the record has been erased, programmed and read back; `ok` says the read-back matched
(R63, R445, R451, R454, R465). -/
def execResultWriteEnd (ok : Bool) (s : State) : Host.Outcome State Fault Refusal :=
  if s.self.state ≠ 5 then .next s
  else match s.recd.resultOfs with
    | none => .next ({ s with self := { s.self with notWritten := true } }.selfFinish)
    | some ofs =>
      let rec_ := s.resultRecord
      let s : State := { s.flash (resultOps ofs rec_) with boot := s.boot.readFlash ofs rec_.length }
      if ok then .next s.selfFinish
      else if s.self.writeTry = 0 then .next { s with self := { s.self with writeTry := 1 } }
      else .next ({ s with self := { s.self with code := 4 } }.selfFinish)

/-! ### The Lint sweep (R455 to R459) -/

/-- The parts of a full rotation (R456). -/
def lintParts : Nat := 82192

/-- A part is skipped: its array or Fold unit is unusable, its domain is off, or its array is being woken (R456,
R465). DEDUCED, log entry 55. -/
def State.lintSkip (s : State) (n : Nat) : Bool :=
  if n < 256 then
    !bit s.units.arrays (n / 8) || !bit s.power.domOn (n / 8)
      || (List.range 8).any (fun p => (s.part p).state == 3 && bit (s.pCores p) (n / 32))
  else if n < 272 then !bit s.units.folds ((n - 256) / 4)
  else !bit s.power.domOn (macroDomain ((n - 272) / 64))

/-- The next part from a position, skipping; `k` bounds the parts looked at. -/
def State.lintNext (s : State) : Nat → Nat → Nat
  | 0, n => n
  | k + 1, n => if s.lintSkip n then s.lintNext k ((n + 1) % lintParts) else n

/-- Every partition that a part's unit serves keeps the idle-stitch rule of R458: LINK_ADAPTIVE, no step and no batch command
in flight. -/
def State.lintIdle (s : State) (n : Nat) : Bool :=
  decide (n < 272) && (List.range 8).all (fun p =>
    !s.pValid p || (decide (n < 256) && !bit (s.pCores p) (n / 32))
      || (s.pcfg p 2 1 == 1 && !(s.part p).inFlight && !s.batchInFlight p))

/-- A Lint part may be taken in this stitch (R456, R458). -/
def State.lintDue (s : State) (n : Nat) : Bool :=
  let b := s.sect 13
  !b.isEmpty && s.inService && !s.power.alertLow && !s.power.thermLow
    && (match s.self.lintAt with | some (t, _) => decide (t ≠ s.stitch.count) | none => true)
    && (decide (s.stitch.count % fld b 0 4 = fld b 4 4)
        || (fld b 8 1 == 1 && !s.self.lintAgain && s.lintIdle n))

/-- The unit of a part that failed twice (R459). -/
def State.lintRetire (s : State) (n : Nat) : State :=
  if n < 256 then { s with units := { s.units with arraysPend := orMask s.units.arraysPend (2 ^ (n / 8)) } }
  else if n < 272 then { s with units := { s.units with foldsPend := orMask s.units.foldsPend (2 ^ ((n - 256) / 4)) } }
  else
    let m := (n - 272) / 64
    let r := (n - 272) % 64
    if m < 384 then
      { s with units := { s.units with arraysPend := orMask s.units.arraysPend (15 * 2 ^ (4 * (m / 48))) } }
    else if 960 ≤ m ∧ m < 1216 then
      { s with hamper := { s.hamper with
          withheld := s.hamper.withheld ++ (List.range 4).map (fun i => 256 * (m - 960) + 4 * r + i) } }
    else s

/-- LINT_PART: the sweep tests the next part; `fail` is the failing row, if any; an
array is never taken during a run (R209, R456 to R459). -/
def execLintPart (fail : Option Nat) (s : State) : Host.Outcome State Fault Refusal :=
  let n := s.lintNext 30000 s.recd.lintPos
  if !s.lintDue n ∨ (n < 256 ∧ s.press.runs.any (fun r => r.span.any (fun x => x.1 == n / 8))) then .next s
  else
    let s := { s with self := { s.self with lintAt := some (s.stitch.count, n) } }
    match fail with
    | none => .next { s with
        self := { s.self with lintAgain := false }, recd := { s.recd with lintPos := (n + 1) % lintParts } }
    | some row =>
      let second := s.self.lintAgain
      let s := (s.bump rLINT_FAIL_CNT 1).raise rST_EVT 1
      let s := s.latch rLINT_LAST (BitVec.ofNat 32
        (n + (if second then 2 ^ 17 else 0) + (if 272 ≤ n then row % 1024 * 2 ^ 18 else 0)))
      let s := { s with recd := { s.recd with
        lintFails := s.recd.lintFails + 1
        arrLint := if n < 256 then setAt s.recd.arrLint (n / 8) (· + 1) else s.recd.arrLint } }
      if second then
        let s := s.lintRetire n
        .next { s with
          self := { s.self with lintAgain := false }, recd := { s.recd with lintPos := (n + 1) % lintParts } }
      else .next { s with self := { s.self with lintAgain := true }, recd := { s.recd with lintPos := n } }

end Sys2Proof.Machine
end

