-- ==== Sys2Proof/Machine/Tables.lean ====
section
/-! DEFINITION. The tables of a partition: bring-up of the live banks, TABLE_LOAD, weight holds and their release
(R93, R243, R255 to R262, R388). -/

namespace Sys2Proof.Machine

/-! ### The bias banks in attached memory (R243) -/

/-- Bytes of a bias bank. -/
def biasBytes : Nat := 4194304

/-- Physical address of bias bank `ix` of partition p. -/
def State.biasBank (s : State) (p ix : Nat) : Nat := (s.img.biasArea p).1 + biasBytes * ix

/-- The bias values of a layer in a bank. -/
def State.biasVals (s : State) (p ix l n : Nat) : List F32 :=
  (chunks 4 (n + 1) (s.rd (s.biasBank p ix + 16384 * l) (4 * n))).map (fun b => BitVec.ofNat 32 (leNat b))

/-- A range of memory cells set to zero. -/
def memErase (m : List (Nat × Byte)) (a n : Nat) : List (Nat × Byte) :=
  m.filter (fun c => !(decide (a ≤ c.1) && decide (c.1 < a + n)))

/-- A range of memory cells copied to another place. -/
def memCopy (m : List (Nat × Byte)) (src dst n : Nat) : List (Nat × Byte) :=
  (m.filter (fun c => decide (src ≤ c.1) && decide (c.1 < src + n))).foldl
    (fun m c => spSet m (c.1 - src + dst) c.2) (memErase m dst n)

/-- Attached memory that has been read is written elsewhere for a partition's command, through its ports. -/
def State.copyMem (s : State) (p src dst n : Nat) : State :=
  ({ s with mem := memCopy s.mem src dst n } : State).askWrites (piecesOf dst n) (.fatal p)

/-! ### Banks, epochs and digests (R255 to R258, R388) -/

/-- The banks that a later LAUNCH could bind: the live bank, and a PENDING shadow. -/
def TablePair.banks (t : TablePair) : List Bank := if t.sh = 1 then [t.live, t.shadow] else [t.live]

/-- The bank that holds an epoch: live, or the shadow where it is not EMPTY. -/
def TablePair.bankOf (t : TablePair) (epoch : Nat) : Option Bank :=
  if t.live.epoch = epoch then some t.live
  else if t.sh ≠ 0 ∧ t.shadow.epoch = epoch then some t.shadow
  else none

/-- The PENDING epoch, 0 for none. -/
def TablePair.pending (t : TablePair) : Nat := if t.sh = 1 then t.shadow.epoch else 0

/-- The epoch a step binds becomes live (R256). -/
def TablePair.bind (t : TablePair) (epoch : Nat) : TablePair :=
  if t.sh = 1 ∧ t.shadow.epoch = epoch ∧ t.live.epoch ≠ epoch then { live := t.shadow, shadow := t.live, sh := 2 } else t

/-- Update table t of partition p. -/
def State.onTab (s : State) (p t : Nat) (f : TablePair → TablePair) : State :=
  s.onPart p (fun x => { x with tables := setAt x.tables t f })

/-- The entries of an on-block bank as its digest covers them: WAKE_SIG is taken as zero. -/
def digestBytes (t : Nat) (es : List Bytes) : Bytes :=
  if t = 0 then es.flatMap (fun e => patch e 40 (zeros 8)) else es.flatten

/-- The digest of an on-block bank. -/
def bankDigest (t : Nat) (es : List Bytes) : Nat := (crc64 (digestBytes t es)).toNat

/-- The digest of bias bank `ix`: layers 0 to LAYERS − 1, each with the EXPERTS of the live layer bank.
DEDUCED, log entry 36. -/
def State.biasDigest (s : State) (p ix : Nat) : Nat :=
  (crc64 ((List.range (s.pLayers p)).flatMap (fun l =>
    s.rd (s.biasBank p ix + 16384 * l) (4 * leExperts (s.layerEnt p l))))).toNat

/-- A table with a live bank at epoch 1 and an empty shadow. -/
def freshTable (t : Nat) (es : List Bytes) : TablePair where
  live := { epoch := 1, entries := es, ix := 0, digest := bankDigest t es }
  shadow := { emptyBank with ix := 1 }
  sh := 0

/-- The bias records of the image go to the partition's bank 0, over zeros in both banks.
DESIGN CHOICE, log entry 35. -/
def State.loadBias (s : State) (p : Nat) : State :=
  let m := memErase s.mem (s.biasBank p 0) (2 * biasBytes)
  let rs := ((biasRecords 2048 (s.sect 9)).getD []).filter (fun r => r.1 == p)
  { s with mem := rs.foldl (fun m r => memWrite m (s.biasBank p 0 + 16384 * r.2.1) r.2.2) m }

/-- The live banks of partition p take the image's contents at epoch 1, its shadow banks are empty (R93). -/
def State.loadTables (s : State) (p : Nat) : State :=
  let s := s.loadBias p
  let layers := (List.range 256).map (s.img.layer p)
  let maps := (List.range 16).map (fun n => let b := s.img.map n
    if fld b 0 1 = 1 ∧ fld b 1 1 = p then b else [])
  let profs := (List.range 16).map (s.img.prof p)
  let s := s.onPart p (fun x => { x with
    tables := [freshTable 0 layers, freshTable 1 maps, freshTable 2 profs, freshTable 3 []] })
  s.onTab p 3 (fun t => { t with live := { t.live with digest := s.biasDigest p 0 } })

/-- Partition p comes up and its records are requested (R93, R384, R410); their check follows when they are here, at once where a
record does not translate. -/
def State.bringUp (s : State) (p : Nat) : State :=
  let s := (s.onPart p (fun x => { x with
    state := 1, issueF := s.power.issueF, jrnRec := [], ledRec := [], ledNext := 0 })).fetchRecords p 128 128
  if s.reading (.record p) then s else s.takeRecords p

/-! ### TABLE_LOAD (R258, R259) -/

/-- A TABLE_LOAD descriptor of a table; a reserved TABLE is taken by whichever of the five rows is commanded. -/
def isLoad (t : Nat) (d : Bytes) : Bool := fld d 0 1 == 3 && (fld d 16 1 == t || decide (4 < fld d 16 1))

/-- The base of a load: the PENDING shadow, else the live bank. -/
def TablePair.base (t : TablePair) : Bank := if t.sh = 1 then t.shadow else t.live

/-- The operands common to the loads of tables 0 to 3 (R259): reserved fields, fields held at 0, COUNT, EPOCH.
DEDUCED, log entry 37. -/
def State.loadFault (s : State) (p t : Nat) (d : Bytes) : Nat :=
  let x := s.tab p t
  if !headRsv d || decide (4 < fld d 16 1) || !rsv d 28 4 || !rsv d 48 16 then 2
  else if (t ≠ 1 ∧ fld d 17 1 ≠ 0) ∨ (t ≠ 3 ∧ fld d 22 2 ≠ 0) ∨ fld d 40 8 ≠ 0 ∨ fld d 20 2 = 0 then 3
  else if fld d 24 4 ≤ x.live.epoch ∨ fld d 24 4 ≤ x.pending then 3
  else 0

/-- The source of a load: the bytes of its entries, or SEGMENT_FAULT. -/
def State.loadBytes (s : State) (p size : Nat) (d : Bytes) : Option Bytes :=
  (s.tr p (fld d 32 8) (size * fld d 20 2) 2).map (fun a => s.rd a (size * fld d 20 2))

/-- The entries that a load of table t reads, where its operands are good (R259). -/
def loadReads (g t size n : Nat) (d : Bytes) (s : State) : List (Nat × Nat) :=
  if n = 1 ∧ s.loadFault (s.gPart g) t d = 0 then s.rangeOf (s.gPart g) (fld d 32 8) (size * fld d 20 2) else []

/-- Entries FIRST on replaced by records of a size. -/
def replaceEnts (es : List Bytes) (first : Nat) (new : List Bytes) : List Bytes :=
  es.take first ++ new ++ es.drop (first + new.length)

/-- A bank entry, absent ones empty. -/
def entAt (es : List Bytes) (i : Nat) : Bytes := es.getD i []

/-- Whether layer, profile and map banks agree: every entry in use passes its check and R253 holds. -/
def State.banksAgree (s : State) (p : Nat) (layers profs maps : List Bytes) : Bool :=
  let used := layers.take (s.pLayers p)
  used.all (layerEntryOk (s.sect 4) p (entAt profs) (entAt maps))
    && reserveOk s.img.self (s.img.groupSize p) (s.img.minMem p) (entAt profs) (entAt maps) used

/-- The entry lists of a table that a later LAUNCH could bind. -/
def State.entryBanks (s : State) (p t : Nat) : List (List Bytes) := (s.tab p t).banks.map (·.entries)

/-- The fault of a layer entry at index i (R160, R263), the rows of R160 in their order. -/
def State.layerFault (s : State) (p i : Nat) (e : Bytes) : Nat :=
  let fine (off len : Nat) := (s.tr p (fld e off 8) len 2).isSome
  let k := leK e
  let rows (pr : Bytes) := if fld pr 5 1 % 4 = 2 then 2 * leExperts e else leExperts e
  if s.pLayers p ≤ i then (if allZero e then 0 else 3)
  else if !rsv e 11 1 || !rsv e 48 16 || decide (7 < leEtype e) then 2
  else if fld e 0 8 % 64 ≠ 0 ∨ !([0, 1, 4, 5, 6].contains (leEtype e)) ∨ 15 < leProf e ∨ 15 < leMap e
      ∨ !within (leExperts e) 1 4096 ∨ !within (fld e 14 2) 1 256 then 3
  else if !(s.entryBanks p 2).all (fun ps => fine 0 (rows (entAt ps (leProf e)) * rstride (leEtype e) k))
      || !(fld e 16 8 == 0 || fine 16 (2 * k)) || !(fld e 24 8 == 0 || fine 24 (2 * k))
      || !(fld e 32 8 == 0 || fine 32 (4 * leExperts e)) then 8
  else 0

/-- The first non-zero fault of a list. -/
def firstFault (l : List Nat) : Nat := (l.find? (· ≠ 0)).getD 0

/-- The shadow bank of a table is built with an epoch and becomes PENDING. -/
def State.setShadow (s : State) (p t epoch : Nat) (es : List Bytes) : State :=
  s.onTab p t (fun x => { x with
    sh := 1, shadow := { x.shadow with epoch := epoch, entries := es, digest := bankDigest t es } })

/-- The RETIRED epoch that a load overwrites: the batch commands that bound it end at the next stitch boundary
(R258). -/
def State.retireBatch (s : State) (p t : Nat) : State :=
  let x := s.tab p t
  if x.sh ≠ 2 then s
  else { s with groups := (List.range 64).map (fun g =>
    let y := s.group g
    if s.gValid g && s.gPart g == p && s.gBatch g then
      { y with cur := y.cur.map (fun c => if c.epochs.getD t 0 = x.shadow.epoch then { c with cut := true } else c) }
    else y) }

/-- At the stitch boundary the batch commands whose bank a load overwrote complete ABORTED, once their data writes have
responses (R258, R403). -/
def State.batchAborts (s : State) : State :=
  (List.range 64).foldl (fun s g => match (s.group g).cur with
    | some c =>
      if c.cut then
        let s := s.onGroup g (fun x => { x with cur := x.cur.map (fun c => { c with cut := false, epochs := [] }) })
        (s.bump (rSEL_CNT (s.gPart g) 10) 1).endWritten g 2 3 false
      else s
    | none => s) s

/-- Run a TABLE_LOAD of an on-block table: `build` gives the new entries or a fault. -/
def State.runLoad (s : State) (g t : Nat) (build : State → Nat → Bytes → List Bytes ⊕ Nat) : State :=
  s.runDesc g (isLoad t) (loadReads g t ([64, 8, 32].getD t 0)) (fun d s =>
    let s := s.begin g 1 d
    let p := s.gPart g
    let k := s.loadFault p t d
    if k ≠ 0 then s.answer g k
    else
      match build s p d with
      | .inr k => s.answer g k
      | .inl es => ((s.retireBatch p t).setShadow p t (fld d 24 4) es).answer g 0)

/-- The new layer bank of a load. -/
def buildLayers (s : State) (p : Nat) (d : Bytes) : List Bytes ⊕ Nat :=
  let first := fld d 18 2
  if 256 < first + fld d 20 2 then .inr 3
  else match s.loadBytes p 64 d with
    | none => .inr 8
    | some b =>
      let new := chunks 64 (fld d 20 2) b
      let es := replaceEnts (s.tab p 0).base.entries first new
      let k := firstFault ((List.range new.length).map (fun i => s.layerFault p (first + i) (new.getD i [])))
      if k ≠ 0 then .inr k
      else if (s.entryBanks p 2).all (fun ps => (s.entryBanks p 1).all (fun ms => s.banksAgree p es ps ms)) then .inl es
      else .inr 3

/-- The new placement bank of a load: entries of one map are replaced, never its header. -/
def buildMaps (s : State) (p : Nat) (d : Bytes) : List Bytes ⊕ Nat :=
  let n := fld d 17 1
  let first := fld d 18 2
  let base := (s.tab p 1).base.entries
  let mp := entAt base n
  if 15 < n ∨ mp.isEmpty ∨ mapExperts mp < first + fld d 20 2 then .inr 3
  else match s.loadBytes p 8 d with
    | none => .inr 8
    | some b =>
      let es := setAt base n (fun m => patch m (16 + 8 * first) b)
      if !(chunks 8 (fld d 20 2) b).all (mapEntryOk (s.img.podMask p) s.podSize) then .inr 3
      else if (s.entryBanks p 0).all (fun ls => (s.entryBanks p 2).all (fun ps => s.banksAgree p ls ps es)) then .inl es
      else .inr 3

/-- The fault of a profile slot. -/
def profFault (e : Bytes) : Nat :=
  if profUnused e then 0 else if !rsv e 22 10 || decide (15 < fld e 5 1) then 2 else if profileOk e then 0 else 3

/-- The new profile bank of a load. -/
def buildProfs (s : State) (p : Nat) (d : Bytes) : List Bytes ⊕ Nat :=
  let first := fld d 18 2
  if 16 < first + fld d 20 2 then .inr 3
  else match s.loadBytes p 32 d with
    | none => .inr 8
    | some b =>
      let new := chunks 32 (fld d 20 2) b
      let es := replaceEnts (s.tab p 2).base.entries first new
      let k := firstFault (new.map profFault)
      if k ≠ 0 then .inr k
      else if (s.entryBanks p 0).all (fun ls => (s.entryBanks p 1).all (fun ms => s.banksAgree p ls es ms)) then .inl es
      else .inr 3

/-- TABLE_LOAD_LAYER. -/
def execTableLoadLayer (group : Nat) (s : State) : Host.Outcome State Fault Refusal :=
  .next (s.runLoad group 0 buildLayers)

/-- TABLE_LOAD_PLACEMENT. -/
def execTableLoadPlacement (group : Nat) (s : State) : Host.Outcome State Fault Refusal :=
  .next (s.runLoad group 1 buildMaps)

/-- TABLE_LOAD_PROFILE. -/
def execTableLoadProfile (group : Nat) (s : State) : Host.Outcome State Fault Refusal :=
  .next (s.runLoad group 2 buildProfs)

/-- U, the window length of the bias loop: the MANAGER section's on a pod manager. A member without POD_MGR does not
use that section (R421), so what it goes by is not stated: a constant of the configuration, log entry 14. -/
def State.biasU (s : State) : Nat := if s.podMgr then fld (s.sect 11) 0 2 else Config.biasWindow % 65536

/-- The shadow bias bank is made ready for writing: a bank that is not PENDING takes a copy of the live bank. -/
def State.openBias (s : State) (p : Nat) : State :=
  let t := s.tab p 3
  if t.sh = 1 then s else s.copyMem p (s.biasBank p t.live.ix) (s.biasBank p (1 - t.live.ix)) biasBytes

/-- The shadow bias bank has its new values: it is PENDING with an epoch. -/
def State.closeBias (s : State) (p epoch : Nat) : State :=
  let ix := 1 - (s.tab p 3).live.ix
  let dig := s.biasDigest p ix
  s.onTab p 3 (fun x => { x with sh := 1, shadow := { x.shadow with epoch := epoch, ix := ix, digest := dig } })

/-- What a load of the bias table reads: its entries, and the live bank where the shadow takes a copy of it (R258, R259). -/
def biasReads (g n : Nat) (d : Bytes) (s : State) : List (Nat × Nat) :=
  let rs := loadReads g 3 4 n d s
  if rs.isEmpty || s.biasU != 0 || (s.tab (s.gPart g) 3).sh == 1 then rs
  else rs ++ [(s.biasBank (s.gPart g) (s.tab (s.gPart g) 3).live.ix, biasBytes)]

/-- TABLE_LOAD_BIAS: the command completes once its writes are visible (R243, R244, R258, R259). -/
def execTableLoadBias (group : Nat) (s : State) : Host.Outcome State Fault Refusal :=
  .next (s.runDesc group (isLoad 3) (biasReads group) (fun d s =>
    let s := s.begin group 1 d
    let p := s.gPart group
    let k := s.loadFault p 3 d
    let l := fld d 22 2
    let most := maxNat ((s.entryBanks p 0).map (fun es => leExperts (entAt es l)))
    if k ≠ 0 then s.answer group k
    else if s.biasU ≠ 0 ∨ s.pLayers p ≤ l ∨ most < fld d 18 2 + fld d 20 2 then s.answer group 3
    else match s.loadBytes p 4 d with
      | none => s.answer group 8
      | some b =>
        if !allFinite b then s.answer group 3
        else
          let s := (s.retireBatch p 3).openBias p
          let s := s.wr (s.biasBank p (1 - (s.tab p 3).live.ix) + 16384 * l + 4 * fld d 18 2) b (.fatal p)
          (s.closeBias p (fld d 24 4)).onGroup group (fun x => { x with
            cur := x.cur.map (fun c => { c with phase := 3 }) })))

/-! ### Weight holds (R261, R262) -/

/-- A batch pass of layer l of the partition runs or is saved. -/
def State.batchOn (s : State) (p l : Nat) : Bool :=
  (List.range 64).any (fun g => s.gValid g && s.gPart g == p && s.gBatch g
    && (match (s.group g).cur with
      | some c => fld c.desc 0 1 == 5 && fld c.desc 24 2 == l
      | none => false))

/-- TABLE_LOAD_HOLD: the hold bit is set when the command completes, once no batch pass of the layer runs.
DEDUCED, log entry 38. -/
def execTableLoadHold (group : Nat) (s : State) : Host.Outcome State Fault Refusal :=
  .next (s.runDesc group (isLoad 4) noReads (fun d s =>
    let p := s.gPart group
    let l := fld d 22 2
    if !headRsv d || decide (4 < fld d 16 1) || !rsv d 28 4 || !rsv d 48 16 then (s.begin group 1 d).answer group 2
    else if fld d 17 1 ≠ 0 ∨ fld d 18 2 ≠ 0 ∨ fld d 20 2 ≠ 0 ∨ fld d 24 4 ≠ 0 ∨ fld d 32 8 ≠ 0 ∨ s.pLayers p ≤ l
        ∨ s.layerHeld p l then (s.begin group 1 d).answer group 3
    else if s.batchOn p l then s
    else ((s.begin group 1 d).onPart p (fun x => { x with
      holds := x.holds ++ [(l, fld d 40 8, false, false)] })).answer group 0))

/-- WEIGHT_WRITE_RELEASE: a release is accepted, or ignored and counted; it takes effect at the stitch boundary
(R48, R94, R261, R262). -/
def execWeightWriteRelease (req : SeamReq) (s : State) : Host.Outcome State Fault Refusal :=
  if s.boot.rstLow then .next s
  else
    let s := s.hostWrites req.host
    match s.earlyGate req with
    | some t => .next t
    | none =>
      let p := req.slot
      let l := fld req.data 0 2
      if !s.pValid p || s.stopped p then .next (s.reply req 2)
      else if fld req.data 2 6 ≠ 0 ∨ !s.layerHeld p l then .next ((s.bump (rSEL_CNT p 9) 1).reply req 0)
      else
        let s := s.onPart p (fun x => { x with
          holds := x.holds.map (fun h => if h.1 = l then (h.1, h.2.1, true, h.2.2.2) else h) })
        .next (s.reply req 0)

/-- HOLD_CLEAR: the bit clears and WAKE_SIG replaces the layer's wake signature in both banks (R261). -/
def execHoldClear (part layer : Nat) (s : State) : Host.Outcome State Fault Refusal :=
  match (s.part part).holds.find? (fun h => h.1 == layer && h.2.2.2) with
  | none => .next s
  | some h =>
    let sig (b : Bank) : Bank := { b with entries := setAt b.entries layer (fun e =>
      if e.isEmpty then e else patch e 40 (toLE 8 h.2.1)) }
    let s := s.onPart part (fun x => { x with holds := x.holds.filter (fun k => k.1 != layer) })
    .next (s.onTab part 0 (fun t => { t with live := sig t.live, shadow := sig t.shadow }))

end Sys2Proof.Machine
end

