-- ==== Sys2Proof/Machine/Boot.lean ====
section
/-! DEFINITION. The commands of the start sequence: reset, copy reads, clock check, repair, load, partition up, key
programming, supply (R36 to R40, R78 to R97). -/

namespace Sys2Proof.Machine

/-- The recorder fields that RST_N keeps (R39, R460); UPTIME is cleared. -/
def keepRec (r : RecSt) : RecSt :=
  { r with uptime := 0, calSetLo := 0, calSetHi := 0, calPend := none, logSeq := 0, logAt := 0, tickAt := 0
           flashOps := [] }

/-- RST_N_ASSERT: every port transaction ends and all state resets but the recorder, the key store and the levels at
the pins; attached memory is not the block's (R39, R40). -/
def execRstNAssert (s : State) : Host.Outcome State Fault Refusal :=
  if s.boot.rstLow then .next s
  else
    .next { State.reset with
      pending := s.pending
      free := s.free
      mem := s.mem
      boot := { resetBoot with keys := s.boot.keys }
      power := { resetPower with alertLow := s.power.alertLow, thermLow := s.power.thermLow }
      recd := keepRec s.recd
      self := { resetSelf with wrapper := 0 } }

/-- ALWAYS_ON_SUPPLY_LOSS: the recorder counters and the calendar are lost with everything else (R39). -/
def execAlwaysOnSupplyLoss (s : State) : Host.Outcome State Fault Refusal :=
  .next { State.reset with
    pending := s.pending
    free := s.free
    mem := s.mem
    boot := { resetBoot with keys := s.boot.keys }
    recd := { resetRec with present := false } }

/-- ALWAYS_ON_SUPPLY_UP: the always-on and boot/NVM domains are powered, the counters empty (R38, R428). -/
def execAlwaysOnSupplyUp (s : State) : Host.Outcome State Fault Refusal :=
  if s.recd.present then .next s else .next { s with recd := { resetRec with present := true } }

/-- RST_N_DEASSERT: after the key-store test the flash is reset, SFDP and both headers are read, and the read mode is
chosen (R62, R63, R84, R86, R89). With PWR_ALERT_N low the block leaves RESET all the same, and waits at the next boundary
(R94). DESIGN CHOICE, log entries 41 and 119. -/
def execRstNDeassert (sfdp : SfdpRead) (hdrA hdrB : Bytes) (us : Nat) (s : State) :
    Host.Outcome State Fault Refusal :=
  if !s.boot.rstLow || !s.recd.present then .next s
  else
    let s := (s.domainsOff (List.range 46)).rampsOff
    let s := { s with self := resetSelf, boot := { s.boot with rstLow := false, state := 1, xfers := [.reset 10] } }
    if s.boot.keys.all (· == 0) then .next (s.refuseStart 3 0 us)
    else if s.power.thermLow then .next (s.refuseStart 13 0 us)
    else
      let xs := sfdpXfers sfdp ++ [.single 0 512, .single 0x2000000 512]
      let sfdp := parseSfdp sfdp
      let known := [hdrA, hdrB].filter hdrKnown
      let octal := (match sfdp with | some x => x.octal | none => false)
        && !known.isEmpty && known.all (fun h => bit (fld h 0x15 1) 0)
      .next { s with boot := { s.boot with
        xfers := s.boot.xfers ++ xs
        sfdp := sfdp, hdrA := hdrA.take 512, hdrB := hdrB.take 512, octalMode := octal } }

/-- A copy's read result is stored. -/
def storeCopy (b : BootSt) (c : CopyId) (img : Bytes) (r : Nat) : BootSt :=
  match c with
  | .a => { b with hdrA := img.take 512, imgA := img, reasonA := r, againA := false }
  | .b => { b with hdrB := img.take 512, imgB := img, reasonB := r, againB := false }

/-- The copy whose read is next (R86): A before B, first reads before re-reads. -/
def nextCopy (b : BootSt) : Option CopyId :=
  if b.reasonA = 15 then some .a
  else if b.reasonB = 15 then some .b
  else if b.againA then some .a
  else if b.againB then some .b
  else none

/-- Where a copy lies in the flash (R78). -/
def copyAt (c : CopyId) : Nat := match c with
  | .a => 0
  | .b => 0x2000000

/-- A read of a copy in the mode of the moment. -/
def BootSt.readXfer (b : BootSt) (c : CopyId) (octal : Bool) (len : Nat) : BootSt :=
  { b with xfers := b.xfers ++ [if octal then .octal (copyAt c) len else .single (copyAt c) len] }

/-- COPY_READ_DONE: a copy is read in full and meets checks 1 to 7; once both copies stand the block goes to AUTH, and from
a re-read there to the selection (R85 to R87, R89). -/
def execCopyReadDone (copy : CopyId) (img : Bytes) (us : Nat) (s : State) : Host.Outcome State Fault Refusal :=
  if s.boot.rstLow ∨ ¬(s.boot.state = 1 ∨ s.boot.state = 2) ∨ s.boot.waiting.isSome ∨ nextCopy s.boot ≠ some copy then
    .next s
  else
    let b := storeCopy (s.boot.readXfer copy s.boot.octalMode img.length) copy img (copyReason s.boot.keys img)
    let s := { s with boot := b }
    match nextCopy b with
    | some _ => .next s
    | none => .next (if b.state = 1 then s.enterAuth us else s.selectCopy us)

/-- CLOCK_CHECK: `cycles` CCLK cycles in 1,000 AOCLK cycles against the named setting, within 0.5 % (R37). -/
def execClockCheck (cycles us : Nat) (s : State) : Host.Outcome State Fault Refusal :=
  if s.boot.rstLow ∨ s.boot.state ≠ 3 ∨ s.boot.waiting.isSome then .next s
  else
    let nom := 10000 + 1000 * fld (selHdr s.boot) 0x14 1
    let off := if cycles < nom then nom - cycles else cycles - nom
    if nom < 200 * off then .next (s.refuseStart 5 0 us) else .next (s.enter 4 us)

/-! ### REPAIR (R90, R91, R451, R452, R464) -/

/-- A result record is not corrupt: the reserved fields of its snapshot are looked at too (R449, R451, R462). -/
def recordOk (b : Bytes) : Bool :=
  let n := fld b 12 2
  let len := 640 + 16 * n
  decide (fld b 0 4 = 0x54335243) && decide (fld b 4 2 = 1) && decide (n ≤ 4040) && decide (len ≤ b.length)
    && decide (fld b 124 4 = (crc32c (b.take 124 ++ zeros 4 ++ slice b 128 (len - 128))).toNat)
    && decide (fld b 18 1 < 4) && rsv b 19 1 && decide (fld b 33 1 < 16) && decide (fld b 34 1 < 16) && rsv b 35 1
    && decide (fld b 36 8 < 2 ^ 36) && decide (fld b 44 2 < 2 ^ 12) && rsv b 46 78
    && decide (fld b 156 4 < 16) && rsv b 608 28
    && (List.range n).all (fun i => rsv b (640 + 16 * i + 10) 6)

/-- The spare entries of a record (R452). -/
def recordRepairs (b : Bytes) : List Bytes :=
  ((List.range (fld b 12 2)).map (fun i => slice b (640 + 16 * i) 16)).filter
    (fun e => fld e 0 1 == 2 || fld e 0 1 == 3)

/-- The recorder counters a log record or snapshot holds (R462, R464). -/
def restoreRec (r : RecSt) (b : Bytes) : RecSt :=
  let has := bit (fld b 28 4) 1
  { r with
    startCnt := fld b 12 4
    lifeSec := fld b 16 8
    calendar := if has then fld b 32 8 else 0
    calSrc := if has then 1 else 0
    energyUj := 1000 * fld b 40 8
    steps := fld b 48 8
    selftests := fld b 56 4
    lintFails := fld b 60 4
    linkErr := (List.range 36).map (fun p => fld b (64 + 8 * p) 4)
    linkRt := (List.range 36).map (fun p => fld b (68 + 8 * p) 2)
    linkRet := (List.range 36).map (fun p => fld b (70 + 8 * p) 2)
    arrMis := (List.range 32).map (fun a => fld b (352 + 4 * a) 3)
    arrLint := (List.range 32).map (fun a => fld b (355 + 4 * a) 1)
    restored := true }

/-- The log is read: the highest SEQ always; the counters only where the supply was lost since the last RUNNING. -/
def State.readLog (s : State) (logs : List Bytes) (snap : Option Bytes) : State :=
  let ok := logs.filter logValid
  let best := ok.foldl (fun (m : Option Bytes) b => match m with
    | some x => if fld x 8 4 < fld b 8 4 then some b else some x
    | none => some b) none
  let r := { s.recd with logSeq := (best.map (fun b => fld b 8 4)).getD 0 }
  let pick := match best, snap with
    | some b, some c => some (if fld b 16 8 < fld c 16 8 then c else b)
    | some b, none => some b
    | none, c => c
  match s.recd.lost, pick with
  | true, some b => { s with recd := restoreRec r b }
  | _, _ => { s with recd := r }

/-- The units in service from the marks of a record, with the closures of R448 (R91). DEDUCED, log entry 42. -/
def unitsOf (h b : Bytes) : UnitSt :=
  let cl0 := fld b 33 1
  let co0 := fld b 32 1
  let cores := maskOf 8 (fun c => bit (coresClosed (fld b 28 4) co0) c || bit cl0 (c / 2))
  let clus := clustersClosed cores cl0
  { resetUnits with
    arrays := maskOf 32 (fun a => !bit (fld b 28 4) a && !bit cores (a / 4))
    folds := maskOf 4 (fun c => !bit (fld b 34 1) c && !bit clus c)
    links := maskOf 36 (fun p => !bit (fld b 36 8) p && !portAbsent h p)
    memPorts := maskOf 12 (fun n => !bit (fld b 44 2) n) }

/-- Where the selected image puts the lifetime log and the self-test result record (R78, R79). -/
def BootSt.logOfs (b : BootSt) : Nat := fld (selHdr b) 0x3C 4
def BootSt.resultOfs (b : BootSt) : Nat := fld (selHdr b) 0x40 4

/-- The reads of REPAIR: the header of the result record, its snapshot and entries where the header is a record's, the
consumed byte, bytes 0 to 15 of every sector of the log, and the whole records of the sectors that may be the newest
valid one, in descending SEQ (R79, R90, R451, R464). DESIGN CHOICE, log entry 118. -/
def BootSt.repairReads (b : BootSt) (record : Option Bytes) (logs : List Bytes) : BootSt :=
  let n := match record with
    | some r => if decide (fld r 0 4 = 0x54335243) && decide (fld r 12 2 ≤ 4040) then 512 + 16 * fld r 12 2 else 0
    | none => 0
  let b := b.readFlash b.resultOfs 128
  let b := if n = 0 then b else (b.readFlash (b.resultOfs + 128) n).readFlash (b.resultOfs + 65280) 1
  let b := (List.range 64).foldl (fun b i => b.readFlash (b.logOfs + 4096 * i) 16) b
  let heads := (List.range logs.length).filter (fun i => fld (logs.getD i []) 0 4 == 0x4C335243)
  let order := sortBy (fun i j => decide (fld (logs.getD j []) 8 4 ≤ fld (logs.getD i []) 8 4)) heads
  let tried := order.takeWhile (fun i => !logValid (logs.getD i []))
  (order.take (tried.length + 1)).foldl (fun b i => b.readFlash (b.logOfs + 4096 * i) 512) b

/-- REPAIR: the result record `record` with its consumed byte `page`, and the 64 sectors of the log, as the flash holds
them at the offsets that the selected image names; nothing is read elsewhere (R79, R90, R91, R464). -/
def execRepair (record : Option Bytes) (page : Byte) (logs : List Bytes) (us : Nat) (s : State) :
    Host.Outcome State Fault Refusal :=
  if s.boot.rstLow ∨ s.boot.state ≠ 4 ∨ s.boot.waiting.isSome then .next s
  else
    let rec? := record.filter recordOk
    let use := rec?.filter (fun b => fld b 6 1 == 0)
    let b := use.getD []
    let s := { s with boot := s.boot.repairReads record logs }
    let s := s.readLog (logs.take 64) (rec?.map (fun r => slice r 128 512))
    let u := unitsOf (selHdr s.boot) b
    let s := { s with
      units := u
      boot := { s.boot with
        noRecord := use.isNone, stale := use.isSome && page == 0, recordUse := use.isSome
        repairs := recordRepairs b } }
    let clusters := clustersClosed (coresClosed (fld b 28 4) (fld b 32 1)) (fld b 33 1)
    if clusters = 15 then .next (s.refuseStart 11 0 us)
    else if u.memPorts ≠ 4095 then .next (s.refuseStart 10 0 us)
    else .next (s.enter 5 us)

/-! ### LOAD (R88, R89) -/

/-- LOAD: the selected copy is read again; the hash must match, every section is loaded, then checked in ascending TYPE.
The host's credit counts are known from then on, and the responses that wait for them are driven (R43, R94). -/
def execLoad (img : Bytes) (us : Nat) (s : State) : Host.Outcome State Fault Refusal :=
  if s.boot.rstLow ∨ s.boot.state ≠ 6 ∨ s.boot.waiting.isSome then .next s
  else
    let s := { s with boot := s.boot.readXfer (s.boot.copySel.getD .a) s.boot.octalSel img.length }
    if imgHashOf img ≠ s.boot.imgHash then .next (s.refuseStart 4 0 us) else
    let s := { s with img := { hdr := img.take 512, sections := sectionsOf img } }
    match firstBadSection s.img with
    | some t => .next (s.refuseStart 9 t us)
    | none =>
      let s := { s with
        seam := { s.seam with
          crdIp := s.hdrF 0x30 1, crdOq := s.hdrF 0x31 1, crdIp2 := s.hdrF 0x32 1, crdOq2 := s.hdrF 0x33 1 }
        power := { s.power with cost := (List.range 16).map (seedOf (s.sect 1)) } }
      .next (s.drainRsps.enter 7 us)

/-! ### PARTITION_UP (R93) -/

/-- PARTITION_UP: every partition's live banks are loaded at epoch 1, each partition with a usable core and fitting
segments comes up, then RUNNING is entered. -/
def execPartitionUp (us : Nat) (s : State) : Host.Outcome State Fault Refusal :=
  if s.boot.rstLow ∨ s.boot.state ≠ 10 ∨ s.boot.waiting.isSome then .next s
  else
    let valid := (List.range 8).filter s.pValid
    let s := valid.foldl State.replan s
    let ups := valid.filter (fun p => !(s.coresOf p).isEmpty && segmentsFit (s.sect 4) p)
    let s := valid.foldl State.loadTables s
    let s := (ups.foldl State.bringUp s)
    let s := ups.foldl State.showSlices s
    let s := { s with boot := { s.boot with partDown := decide (ups.length < valid.length) } }
    let off := (List.range 32).filter (fun a => !ups.any (fun p => (s.arraysOf p).contains a))
    let s := s.domainsOff (off ++ if ups.isEmpty then [45] else [])
    .next (s.enter 11 us)

/-! ### The key store (R84) -/

/-- KEY_PROGRAM: a write of KEY_PROG_CTL. WORD is stored as written; GO programs the word, or sets ERR. -/
def execKeyProgram (value : Word) (s : State) : Host.Outcome State Fault Refusal :=
  if s.boot.rstLow then .next s
  else
    let s := s.mgtAck
    let v := value.toNat
    let n := v % 16
    let clr := bit v 17
    let b := { s.boot with keyWord := n, keyErr := s.boot.keyErr && !clr }
    if !bit v 8 then .next { s with boot := b }
    else if b.state = 15 ∧ b.code = 3 ∧ b.keyBusy.isNone ∧ n < 12 ∧ b.keys.getD n 0 = 0 then
      .next { s with boot := { b with keyBusy := some (n, b.keyData) } }
    else .next { s with boot := { b with keyErr := true } }

/-- KEY_PROGRAM_DONE: the word is programmed and BUSY clears. -/
def execKeyProgramDone (s : State) : Host.Outcome State Fault Refusal :=
  match s.boot.keyBusy with
  | some (n, w) => .next { s with boot := { s.boot with keys := setAt s.boot.keys n (fun _ => w), keyBusy := none } }
  | none => .next s

end Sys2Proof.Machine
end

