-- ==== Sys2Proof/Machine/Starch.lean ====
section
/-! DEFINITION. Starch as functions of their operands: row statistics, normalisation, the cast for the router, the
payload encoding, the fused score forms, the online softmax and the gating weights (R216 to R229, R242, R269). -/

namespace Sys2Proof.Machine

/-! ### Row statistics (R219 to R221) -/

/-- The two accumulators after one element of index i. -/
def statStep (x0 : F32) (acc : List F32 × List F32) (ix : Nat × F32) : List F32 × List F32 :=
  let d := f32Sub ix.2 x0
  (setAt acc.1 (ix.1 % 64) (fun v => f32Add v d), setAt acc.2 (ix.1 % 64) (fun v => f32Add v (f32Mul d d)))

/-- One level of the pairwise tree. -/
def pairSums : List F32 → List F32
  | x :: y :: r => f32Add x y :: pairSums r
  | _ => []

/-- `n` levels of the tree. -/
def treeSum : Nat → List F32 → List F32
  | 0, l => l
  | n + 1, l => treeSum n (pairSums l)

/-- Statistics of a row. -/
structure RowStat where
  mean  : F32
  r     : F32
  q     : F32
  clamp : Bool
  zero  : Bool
  nan   : Bool
  deriving DecidableEq, Repr

/-- A value is +0 or −0. -/
def isZero32 (x : F32) : Bool := decide (x.toNat % 2 ^ 31 = 0)

/-- Mean, rsqrt and counts of a row of K elements (R220, R221). -/
def rowStat (layerNorm : Bool) (eps : F32) (xs : List F32) : RowStat :=
  let x0 := xs.headD 0
  let z := List.replicate 64 (0 : F32)
  let (s1, s2) := ((List.range xs.length).zip xs).foldl (statStep x0) (z, z)
  let n := f32OfNat xs.length
  let a := f32Div ((treeSum 6 s1).headD 0) n
  let b := f32Div ((treeSum 6 s2).headD 0) n
  let v0 := if layerNorm then f32Sub b (f32Mul a a)
    else f32Add (f32Add b (f32Mul (f32Mul 0x40000000#32 x0) a)) (f32Mul x0 x0)
  let clamp := f32Lt v0 0
  let v := if clamp then 0 else v0
  let q := f32Add v eps
  { mean := if layerNorm then f32Add x0 a else 0, r := f32Rsqrt q, q := q, clamp := clamp, zero := isZero32 q
    nan := isNan32 a || isNan32 b || isNan32 v || isNan32 q }

/-- The normalised row and its statistics (R218, R222). -/
def normRow (mode : Nat) (eps : F32) (gamma beta xs : List F32) : List F32 × Option RowStat :=
  if mode = 0 then (xs, none)
  else
    let t := rowStat (mode == 2) eps xs
    let y (i : Nat) (x : F32) :=
      let v := if t.zero then 0 else f32Mul (f32Mul (f32Sub x t.mean) t.r) (gamma.getD i 0)
      if mode = 2 then f32Add v (beta.getD i 0) else v
    (((List.range xs.length).zip xs).map (fun e => y e.1 e.2), some t)

/-! ### Casts (R200, R224, R269) -/

/-- hi and lo BF16 halves of a value. -/
def split2 (v : F32) : Nat × Nat :=
  let hi := f32ToBf v
  match decBf hi with
  | .nan => (hi, hi)
  | .inf _ => (hi, 0)
  | .fin _ _ _ => (hi, f32ToBf (f32Sub v (bfTo32 hi)))

/-- The activations delivered for a router format: codes, second halves, and the elements that saturated. -/
def castRow (et : Nat) (y : List F32) : List Nat × List Nat × Nat :=
  if et = 1 then (y.map f32ToBf, [], 0)
  else if et = 0 then (y.map (fun v => (split2 v).1), y.map (fun v => (split2 v).2), 0)
  else
    let c := y.map (fun v => encE4m3 (dec32 v))
    (c.map (·.1), [], (c.filter (·.2)).length)

/-- Cut a list into groups; `n` bounds their number. -/
def groupsOf {α : Type} (k : Nat) : Nat → List α → List (List α)
  | 0, _ => []
  | n + 1, l => if l.isEmpty then [] else l.take k :: groupsOf k n (l.drop k)

/-- The payload row of a normalised row (R269). -/
def payloadRow (mx : Bool) (y : List F32) : Bytes :=
  if mx then (groupsOf 32 (y.length / 32 + 1) y).flatMap mxBlock else y.flatMap (fun v => toLE 2 (f32ToBf v))

/-! ### Fused forms (R225, R226) -/

/-- f of a fused form. -/
def fuseF (k : Nat) (x : F32) : F32 := if k = 1 then f32Logistic x else if k = 2 then f32Tanh x else x

/-- y_e of a score, a gate or an activation score: `fuse` is the FUSE byte. -/
def fuseScore (fuse : Nat) (scale b s act : F32) : F32 :=
  match fuse % 4 with
  | 1 => f32Mul scale (fuseF (fuse / 4 % 4) (f32Add s b))
  | 2 => f32Mul s (fuseF (fuse / 4 % 4) (f32Add act b))
  | _ => s

/-! ### Online softmax (R227, R228) -/

/-- x ranks above y under the canonical comparison (R235). -/
def above (x y : F32) : Bool := decide (canonKey y < canonKey x)

/-- The canonical maximum of a list. -/
def canonMax (l : List F32) : F32 := l.foldl (fun m s => if above s m then canon s else m) f32NegInf

/-- The local pair of a tile. -/
def tilePair (ss : List F32) : F32 × F32 :=
  let m := canonMax ss
  (m, ss.foldl (fun z s =>
    if m = f32PosInf then f32Add z (if s = f32PosInf then f32One else 0)
    else if m ≠ f32NegInf ∧ above s f32NegInf then f32Add z (f32Exp (f32Sub s m))
    else z) 0)

/-- The weight w(x, y) of a merge. -/
def mergeW (x y : F32) : F32 :=
  if x = y then f32One else if x = f32NegInf ∨ y = f32PosInf then 0 else f32Exp (f32Sub x y)

/-- Merge the next tile's pair into the running pair. -/
def mergePair (a b : F32 × F32) : F32 × F32 :=
  if above b.1 a.1 then (b.1, f32Add (f32Mul a.2 (mergeW a.1 b.1)) b.2)
  else (a.1, f32Add a.2 (f32Mul b.2 (mergeW b.1 a.1)))

/-! ### Gating weights (R242) -/

/-- Ascending expert index. -/
def byExpert (l : List (Nat × F32)) : List (Nat × F32) := sortBy (fun a b => decide (a.1 ≤ b.1)) l

/-- The gating weights of a final set of (expert, y), in ascending expert index; `m` and `z` are the merged state. -/
def gating (fn : Nat) (m z : F32) (set : List (Nat × F32)) : List (Nat × F32) :=
  let f := byExpert set
  let num (mx y : F32) := if mx = f32PosInf then (if y = f32PosInf then f32One else 0) else f32Exp (f32Sub y mx)
  if fn = 0 then f.map (fun e => (e.1, f32Div (num m e.2) z))
  else if fn = 1 then
    let mk := canonMax (f.map (·.2))
    let zk := f.foldl (fun a e => f32Add a (num mk e.2)) 0
    f.map (fun e => (e.1, f32Div (num mk e.2) zk))
  else
    let sg := f.foldl (fun a e => f32Add a (f32Logistic e.2)) 0
    f.map (fun e => (e.1, if isZero32 sg then f32Div f32One (f32OfNat f.length) else f32Div (f32Logistic e.2) sg))

/-- The weights that remain after removals, from the reference set and its weights (R249). -/
def rescale (ref : List (Nat × F32)) (remain : Nat → Bool) : List (Nat × F32) :=
  let f := byExpert ref
  let s := f.foldl (fun a e => f32Add a e.2) 0
  let a := f.foldl (fun a e => if remain e.1 then f32Add a e.2 else a) 0
  let left := f.filter (fun e => remain e.1)
  if isZero32 a then left
  else
    let k := f32Div s a
    left.map (fun e => (e.1, f32Mul e.2 k))

end Sys2Proof.Machine
end

