-- ==== Sys2Proof/Machine/Press.lean ====
section
/-! DEFINITION. Press: scores and their order of summation, runs, checksums, retry and retirement; normalisation as it
feeds the arrays; the wake check (R146, R183 to R211, R218 to R224). -/

namespace Sys2Proof.Machine

/-! ### Router rows and scores (R184 to R186, R200, R263) -/

/-- Weight k of a router row with its scale. -/
def wVal (et : Nat) (row : Bytes) (k : Nat) : Fp :=
  match et with
  | 0 => dec32 (BitVec.ofNat 32 (fld row (4 * k) 4))
  | 1 => decBf (fld row (2 * k) 2)
  | 6 =>
    let b := fld row (17 * (k / 32) + 1 + k % 32 / 2) 1
    scaleE8 (fld row (17 * (k / 32)) 1) (decE2m1 (if k % 2 = 1 then b / 16 else b % 16))
  | 5 => scaleE8 (fld row (33 * (k / 32)) 1) (decE5m2 (fld row (33 * (k / 32) + 1 + k % 32) 1))
  | _ => scaleE8 (fld row (33 * (k / 32)) 1) (decE4m3 (fld row (33 * (k / 32) + 1 + k % 32) 1))

/-- The weights of segment j in the order of their products; an FP32 router takes its three passes. -/
def wStream (et : Nat) (row : Bytes) (j : Nat) : List Fp :=
  let ws := (List.range 128).map (fun i => wVal et row (128 * j + i))
  if et = 0 then
    let hs := ws.map (fun w => split2 (enc32 w))
    let hi := hs.map (fun h => decBf h.1)
    hi ++ hs.map (fun h => decBf h.2) ++ hi
  else ws

/-- The activations of segment j in the order of their products. -/
def aStream (et : Nat) (hi lo : List Nat) (j : Nat) : List Fp :=
  let at_ (l : List Nat) := (List.range 128).map (fun i =>
    let c := l.getD (128 * j + i) 0
    if et ≤ 1 then decBf c else decE4m3 c)
  if et = 0 then at_ lo ++ at_ hi ++ at_ hi else at_ hi

/-- The partial of a segment (R185, R186). -/
def segPartial (a w : List Fp) : F32 := (a.zip w).foldl (fun p e => f32Add p (enc32 (fpMul e.1 e.2))) 0

/-- A score with the partial of segment j added. -/
def addPartial (j : Nat) (score p : F32) : F32 := if j = 0 then p else f32Add score p

/-- Router rows of a layer: two per expert in the compatibility form (R226). -/
def routerRows (pr e : Bytes) : Nat := if fld pr 5 1 % 4 = 2 then 2 * leExperts e else leExperts e

/-- Segments of a layer. -/
def segCount (e : Bytes) : Nat := fld e 14 2

/-- Router row r of a layer entry. -/
def State.routerRow (s : State) (p : Nat) (e : Bytes) (r : Nat) : Bytes :=
  let n := rowBytes (leEtype e) (leK e)
  s.rd ((s.tr p (fld e 0 8 + r * rstride (leEtype e) (leK e)) n 2).getD 0) n

/-- A vector of a layer entry, absent where its address is 0. -/
def State.entVec (s : State) (p : Nat) (e : Bytes) (off size n : Nat) : List F32 :=
  if fld e off 8 = 0 then []
  else (chunks size (n + 1) (s.rd ((s.tr p (fld e off 8) (size * n) 2).getD 0) (size * n))).map (fun b =>
    if size = 2 then bfTo32 (leNat b) else BitVec.ofNat 32 (leNat b))

/-! ### The pass in stages 1 to 4 -/

/-- The pass whose tokens are not yet all selected (R32). -/
def State.curPass (s : State) (p : Nat) : Option Pass :=
  match (s.part p).step with
  | some x => if x.launched && x.tornBy.isNone then x.passes.find? (fun q => !q.stage4 && !q.ended) else none
  | none => none

/-- The tokens of row block b: eight rows in row order (R192). -/
def blockToks (q : Pass) (b : Nat) : List Tok := (q.toks.drop (8 * b)).take 8

/-- Router tiles of a layer. -/
def tileCount (pr e : Bytes) : Nat := ceilDiv (routerRows pr e) 128

/-- Router rows of tile n. -/
def tileRows (pr e : Bytes) (n : Nat) : Nat := min 128 (routerRows pr e - 128 * n)

/-! ### What the arrays score for -/

/-- The batch command of partition p that has rows on the cores, with its group; one that is to end starts nothing more
(R418). -/
def State.batchJob (s : State) (p : Nat) : Option (Nat × Job) :=
  ((List.range 64).filterMap (fun g =>
    if s.gValid g && s.gPart g == p && s.gBatch g then
      (s.group g).cur.bind (fun c =>
        if c.phase == 1 && c.saved == 0 && c.endAs.isNone && !c.cut then c.job.map (fun j => (g, j)) else none)
    else none)).head?

/-- A batch command that is pre-empted stops at the next instruction boundary; one of a BOUNDARY group runs on to its end
(R142, R143). -/
def State.jobHeld (s : State) (ref : JobRef) : Bool :=
  match ref with
  | .batch g => s.gInstr g && s.preempted g
  | _ => false

/-- What the cores of partition p score: the layer of a wake check, a batch command, or the pass in stages 1 to 4. -/
def State.job (s : State) (p : Nat) : Option (JobRef × Job) :=
  if (s.part p).state = 3 then (s.part p).wake.map (fun j => (.wake, j))
  else match s.batchJob p with
    | some (g, j) => some (.batch g, j)
    | none => (s.curPass p).map (fun q =>
        (.step q.layer, { pass := q, e := s.layerEnt p q.layer, pr := s.profEnt p q.layer, scores := true }))

/-- What a run of partition p scores for. -/
def State.jobAt (s : State) (p : Nat) (r : JobRef) : Option Job :=
  match r with
  | .step l => ((s.curPass p).filter (fun q => q.layer == l)).map (fun q =>
      { pass := q, e := s.layerEnt p l, pr := s.profEnt p l, scores := true })
  | .batch g => (s.group g).cur.bind (·.job)
  | .wake => (s.part p).wake

/-- Update the rows of a job. -/
def State.onJob (s : State) (p : Nat) (r : JobRef) (f : Pass → Pass) : State :=
  let g (j : Job) : Job := { j with pass := f j.pass }
  match r with
  | .step l => s.onPass p l f
  | .batch n => s.onGroup n (fun x => { x with cur := x.cur.map (fun c => { c with job := c.job.map g }) })
  | .wake => s.onPart p (fun x => { x with wake := x.wake.map g })

/-- Score tiles of a layer. -/
def scoreTiles (e : Bytes) : Nat := ceilDiv (leExperts e) 128

/-- The rows of a job are selected, and so reduced and merged: those of a step, and of a REPLAY of TICKETS or COMBINE
(R198, R227). -/
def State.merges (s : State) (ref : JobRef) : Bool :=
  match ref with
  | .step _ => true
  | .batch g => (((s.group g).cur).map (fun c => fld c.desc 26 1 == 2 || fld c.desc 26 1 == 4)).getD false
  | .wake => false

/-- A lane holds nothing more for a token row: it is selected or lost, or, in a REPLAY, merged to its last tile, or its
scoring function needs no merge (R229). -/
def State.rowOver (s : State) (ref : JobRef) (j : Job) (t : Tok) : Bool :=
  !s.merges ref || fld j.pr 0 1 != 0 || t.whole || (match ref with
    | .step _ => t.selected
    | _ => t.nextTile == scoreTiles j.e)

/-- The home core of a row and the lane that serves the row in every core, from the row's place among the pass's rows
(R213, R228). -/
def State.laneFor (s : State) (p : Nat) (q : Pass) (row : Nat) : Nat × Nat :=
  let i := q.toks.findIdx (fun t => t.row == row)
  let cs := s.coresOf p
  (cs.getD (i / 8 % max 1 cs.length) 8, i % 8 + 8 * (i / 8 % 2))

/-- Update a lane of a core. -/
def State.onLane (s : State) (c l : Nat) (f : Lane → Lane) : State :=
  { s with cores := setAt s.cores c (fun x => { x with lanes := setAt x.lanes l f }) }

/-! ### Normalisation (R222, R224, R269) -/

/-- Count the statistics of a row (R221). -/
def State.countStat (s : State) (p : Nat) (t : Option RowStat) : State :=
  match t with
  | none => s
  | some t =>
    let s := if t.clamp then s.bump (rST_VAR_CLAMP_CNT p) 1 else s
    let s := if t.zero then s.bump (rST_ZERO_DEN_CNT p) 1 else s
    if t.nan then s.bump (rST_NAN_ROW_CNT p) 1 else s

/-- The hidden-state row of a token as FP32, and its elements out of bounds. -/
def State.hiddenRow (s : State) (p : Nat) (x : StepSt) (q : Pass) (k row : Nat) : List F32 × Nat :=
  s.tdRow p (s.td p (leNat x.hiddenTd)) q.inIdx k row q.layer

/-- The descriptor that a job reads its rows through, and the coordinate of the layer pass in it. -/
def State.rowsOf (s : State) (p : Nat) (r : JobRef) (q : Pass) : Td × Nat :=
  match r with
  | .batch g =>
    let d := (((s.group g).cur).map (·.desc)).getD []
    (s.td p (if fld d 26 1 = 4 then fld d 40 8 else fld d 32 8), 0)
  | _ => (s.td p ((((s.part p).step).map (fun x => leNat x.hiddenTd)).getD 0), q.layer)

/-- Normalise and cast one row; its lane of every core takes it up (R213, R222, R223, R224, R233, R269). DEDUCED, log
entry 110. -/
def State.normTok (s : State) (p : Nat) (r : JobRef) (j : Job) (t : Tok) : State × Tok :=
  if t.whole then (s, t)
  else
    let e := j.e
    let pr := j.pr
    let k := leK e
    let src := s.rowsOf p r j.pass
    let (xs, oob) := s.tdRow p src.1 j.pass.inIdx k t.row src.2
    let (y, st) := normRow (fld pr 4 1) (BitVec.ofNat 32 (fld pr 8 4)) (s.entVec p e 16 2 k) (s.entVec p e 24 2 k) xs
    let (hi, lo, sat) := castRow (leEtype e) y
    let s := ((s.bump (rSEG_OOB_RD_CNT p) oob).countStat p st).bump (rST_FP8_SAT_CNT p) sat
    let cs := s.coresOf p
    let n := cs.length
    let s := (s.charge 11 (2 * ceilDiv k 64 * n)).charge 10 (if st.isSome then n else 0)
    let lane := (s.laneFor p j.pass t.row).2
    let s := cs.foldl (fun s c => s.onLane c lane (fun _ =>
      { resetLane with rowNan := st.any (·.nan), clamped := st.any (·.clamp) })) s
    (s, { t with y := y, actHi := hi, actLo := lo, payload := payloadRow (fld pr 19 1 == 1) y })

/-- Bytes of a segment of a router row (R159, R186). -/
def segBytes (et : Nat) : Nat := if et = 0 then 512 else if et = 1 then 256 else if et = 6 then 68 else 132

/-- The granules of a router row that first serve segment j: offset and bytes. -/
def segPart (et j : Nat) : Nat × Nat :=
  let lo := ceilDiv (segBytes et * j) 64
  (64 * lo, 64 * (ceilDiv (segBytes et * (j + 1)) 64 - lo))

/-- Read segment j of tile n of a router for row block b. -/
def State.askTile (s : State) (p : Nat) (e pr : Bytes) (l b j n : Nat) : State :=
  let st := rstride (leEtype e) (leK e)
  let a := (s.tr p (fld e 0 8) 1 2).getD 0
  let q := segPart (leEtype e) j
  let ps := (List.range (tileRows pr e n)).flatMap (fun r => piecesOf (a + (128 * n + r) * st + q.1) q.2)
  s.askReads ps (.router p l b n j)

/-- Issue the router reads of a row block, so that segments become resident in ascending order, and within a segment the
tiles (R194). Each row block reads the matrix afresh (R192, R201). DEDUCED, log entry 57. -/
def State.issueRouter (s : State) (p : Nat) (e pr : Bytes) (l b : Nat) : State :=
  (List.range (segCount e)).foldl (fun s j =>
    (List.range (tileCount pr e)).foldl (fun s n => s.askTile p e pr l b j n) s) s

/-- The rows that a row block needs from memory are not all there. A batch command's inputs are partition-fatal reads. -/
def State.rowsAwaited (s : State) (p : Nat) (r : JobRef) (q : Pass) (ts : List Tok) : Bool :=
  match r with
  | .step l => s.reading (.operand p l) || ts.any (fun t => (sources q.hidDeps t.row).any (fun u => s.reading (.hidden p l u)))
  | .batch g => s.reading (.command g)
  | .wake => false

/-- NORMALISE: the rows of a row block are normalised and cast once they are resident and the lanes that serve them hold no
row of the block two before; the block's router reads issue (R28, R213, R222 to R224). -/
def execNormalise (part block : Nat) (s : State) : Host.Outcome State Fault Refusal :=
  match s.job part with
  | some (ref, j) =>
    let q := j.pass
    let ts := blockToks q block
    if q.blocks.contains block ∨ ts.isEmpty ∨ !s.mayIssue part ∨ s.jobHeld ref ∨ s.rowsAwaited part ref q ts
        ∨ (2 ≤ block ∧ !(blockToks q (block - 2)).all (s.rowOver ref j)) then .next s
    else
      let (s, us) := ts.foldl (fun (a : State × List Tok) t =>
        let (s, u) := a.1.normTok part ref j t
        (s, a.2 ++ [u])) (s, [])
      let s := s.onJob part ref (fun q => { q with
        blocks := q.blocks ++ [block]
        toks := q.toks.take (8 * block) ++ us ++ q.toks.drop (8 * block + us.length) })
      .next (if j.scores then s.issueRouter part j.e j.pr q.layer block else s)
  | none => .next s

/-! ### The plan of a row block (R18, R189 to R193)

The assignment of R193 is the model's own where the rule leaves it open: DESIGN CHOICE, log entry 88. -/

/-- The token sets of a row block of m rows: first token, tokens, K-split factor (R192). `four` allows s = 4. -/
def tokenSets (four : Bool) (m : Nat) : List (Nat × Nat × Nat) :=
  let k := if four then 4 else 2
  match m with
  | 0 => []
  | 1 => [(0, 1, 1)]
  | 2 => [(0, 2, k)]
  | 3 => [(0, 3, 2)]
  | 4 => [(0, 4, 2)]
  | 5 => [(0, 3, 2), (3, 2, k)]
  | 6 => [(0, 4, 2), (4, 2, k)]
  | 7 => [(0, 4, 2), (4, 3, 2)]
  | _ => [(0, 8, 1)]

/-- The tokens and K-split factor of a set of a row block. -/
def setOf (et : Nat) (ts : List Tok) (setNo : Nat) : Option (List Tok × Nat) :=
  ((tokenSets (decide (4 ≤ et)) ts.length)[setNo]?).map (fun e => ((ts.drop e.1).take e.2.1, e.2.2))

/-- Two instructions may run on one core, one per array pair (R191). -/
def paired (et : Nat) : Bool := et == 4 || et == 5

/-- The array is in pair A of its core. -/
def pairA (a : Nat) : Bool := decide (a % 4 < 2)

/-- The Lint sweep has an array in this stitch (R456). -/
def State.lintOn (s : State) (a : Nat) : Bool :=
  match s.self.lintAt with
  | some (t, n) => t == s.stitch.count && decide (n < 256) && n / 8 == a
  | none => false

/-- The groups of arrays of one core that take an instruction each, from its usable arrays: its pairs, or where `whole` asks
for it all four arrays (R191, R193). -/
def coreUnits (whole : Bool) (as : List Nat) : List (List Nat) :=
  if whole && as.length == 4 then [as]
  else [as.filter pairA, as.filter (fun x => !pairA x)].filter (fun u => !u.isEmpty)

/-- The groups of arrays that the planner of partition p assigns the instructions of a segment's tiles to, ascending: pairs,
and whole cores only where the pairs do not take the tiles and a core runs one instruction at a time (R191, R193). An array
under test is left out (R456). -/
def State.pressUnits (s : State) (p et tiles : Nat) : List (List Nat) :=
  let as := (s.planArrays p).filter (fun a => !s.lintOn a)
  let cores := (s.coresOf p).map (fun c => as.filter (fun a => a / 4 == c))
  let pairs := cores.flatMap (coreUnits false)
  if paired et || decide (tiles ≤ 2 * pairs.length) then pairs else cores.flatMap (coreUnits true)

/-- Arrays that an instruction spans: 1, 2 or 4 (R18, R189). -/
def spanOf (arrays tiles : Nat) : Nat :=
  let n := min arrays tiles
  if 4 ≤ n then 4 else if 2 ≤ n then 2 else 1

/-- Assign tiles to groups of arrays in turn: the instructions, and the groups as the next assignment finds them. -/
def assignTiles (mk : List (Nat × Nat) → Run) : Nat → List (List Nat) → List Nat → List Run × List (List Nat)
  | n + 1, u :: us, t :: ts =>
    let k := spanOf u.length (ts.length + 1)
    let r := assignTiles mk n (us ++ [u]) ((t :: ts).drop k)
    (mk ((u.take k).zip (t :: ts)) :: r.1, r.2)
  | _, us, _ => ([], us)

/-- The runs of row block b of a job in order: ascending segment, then tile, then token set. -/
def planBlock (p : Nat) (ref : JobRef) (j : Job) (b : Nat) (major : Bool) (units : List (List Nat)) : List Run :=
  let et := leEtype j.e
  let sets := tokenSets (decide (4 ≤ et)) (blockToks j.pass b).length
  let tiles := List.range (tileCount j.pr j.e)
  let chunks := groupsOf (maxNat (units.map (·.length))) tiles.length tiles
  let tasks := (List.range (segCount j.e)).flatMap (fun seg => chunks.flatMap (fun c =>
    ((List.range sets.length).filter (fun i => seg % (sets.getD i (0, 0, 1)).2.2 = 0)).map (fun i => (seg, c, i))))
  (tasks.foldl (fun (a : List Run × List (List Nat)) t =>
    let mk (sp : List (Nat × Nat)) : Run :=
      { job := ref, part := p, layer := j.pass.layer, block := b, setNo := t.2.2, seg := t.1
        lane := if paired et && !pairA (sp.headD (0, 0)).1 then 1 else 0
        span := sp, major := major, retry := false, moved := false }
    let r := assignTiles mk t.2.1.length a.2 t.2.1
    (a.1 ++ r.1, r.2)) ([], units)).1

/-- A span that lost an array is cut where it is no longer one array, a pair or a whole core. -/
def legalSpan (sp : List (Nat × Nat)) : List (List (Nat × Nat)) :=
  let a := sp.filter (fun x => pairA x.1)
  let b := sp.filter (fun x => !pairA x.1)
  if sp.length = 4 then [sp] else [a, b].filter (fun x => !x.isEmpty)

/-- The runs of array a are appended in their order to those of array t, on their lanes; the other arrays of an
instruction keep their part (R206, R209). -/
def moveRuns (a t : Nat) (rs : List Run) : List Run :=
  rs.flatMap (fun r => (legalSpan (r.span.filter (fun x => x.1 != a))).map (fun sp => { r with span := sp }))
    ++ rs.flatMap (fun r => (r.span.filter (fun x => x.1 == a)).map (fun x =>
        { r with span := [(t, x.2)], retry := false, moved := true }))

/-- The array that takes the runs of a retired one: the lowest usable of its core, else of its partition (R206). -/
def State.heir (s : State) (p a : Nat) : Option Nat :=
  match (s.arraysOf p).find? (fun b => b / 4 == a / 4) with
  | some b => some b
  | none => (s.arraysOf p).head?

/-- The plan of row block b: assigned to the arrays of the last step boundary, with the runs of those retired since
moved. -/
def State.makePlan (s : State) (p : Nat) (ref : JobRef) (j : Job) (b : Nat) : List Run :=
  let major := match ref with
    | .batch g => (((s.group g).cur).map (fun c => fld c.desc 26 1 == 1)).getD false
    | _ => false
  let gone := (s.planArrays p).filter (fun a => !(s.arraysOf p).contains a)
  gone.foldl (fun rs a => match s.heir p a with
    | some t => moveRuns a t rs
    | none => rs) (planBlock p ref j b major (s.pressUnits p (leEtype j.e) (tileCount j.pr j.e)))

/-! ### Issue (R191 to R196, R201) -/

/-- Segments of tile n that have been added for a token. -/
def segsOf (t : Tok) (n : Nat) : Nat := ((t.tiles.find? (fun x => x.tile == n)).map (·.segs)).getD 0

/-- Every segment of every tile has been added for every token of a row block. -/
def blockDone (q : Pass) (pr e : Bytes) (b : Nat) : Bool :=
  (blockToks q b).all (fun t => (List.range (tileCount pr e)).all (fun n => decide (segCount e ≤ segsOf t n)))

/-- The rows of a job with its plan: the next row block is planned once every run of the one before has issued and the
assembly store has room, two blocks back being complete (R192, R201). -/
def State.planned (s : State) (p : Nat) (ref : JobRef) (j : Job) : Pass :=
  let q := j.pass
  let b := q.planBlk
  if q.plan.isEmpty && j.scores && q.blocks.contains b && (decide (b < 2) || blockDone q j.pr j.e (b - 2)) then
    { q with planBlk := b + 1, plan := s.makePlan p ref j b }
  else q

/-- The cost entry of a run (R431). -/
def runCost (et : Nat) : Nat := if et = 0 then 5 else if et = 1 then 3 else if et = 6 then 4 else 2

/-- An array carries a run. -/
def State.arrayBusy (s : State) (a : Nat) : Bool := s.press.runs.any (fun r => r.span.any (fun x => x.1 == a))

/-- A run waits for weights of its tiles: segments become resident in ascending order, so those up to its last count. -/
def State.routerAwaited (s : State) (r : Run) (last : Nat) : Bool :=
  let hit (o : MemObj) := match o with
    | .router p l b n j => p == r.part && l == r.layer && b == r.block && r.span.any (fun x => x.2 == n) && decide (j ≤ last)
    | _ => false
  s.memp.reads.any (fun x => hit x.obj) || s.memp.readQ.any (fun x => hit x.obj)
    || s.memp.retries.any (fun x => !x.write && hit x.obj)

/-- A lane of the run's core, or in a format other than MXFP8 the core, is taken by another instruction (R191). -/
def State.laneBusy (s : State) (et : Nat) (r : Run) : Bool :=
  let core := (r.span.headD (0, 0)).1 / 4
  s.press.runs.any (fun x => x.span.any (fun y => y.1 / 4 == core) && (!paired et || x.lane == r.lane))

/-- The first run of the plan for an array. -/
def firstFor (q : Pass) (a : Nat) : Option Run := q.plan.find? (fun r => r.span.any (fun x => x.1 == a))

/-- A run before it in the plan serves the same rows and a tile of it at a lower segment (R187). -/
def behind (q : Pass) (r : Run) : Bool :=
  (q.plan.takeWhile (fun x => x != r)).any (fun x =>
    x.setNo == r.setNo && decide (x.seg < r.seg) && x.span.any (fun y => r.span.any (fun z => z.2 == y.2)))

/-- The runs that may issue now, in their order: of a batch command that is to stop, only those that a mismatch left to do
before its save (R143, R209). -/
def State.openRuns (s : State) (ref : JobRef) (q : Pass) : Pass :=
  if s.jobHeld ref then { q with plan := q.plan.filter (fun r => r.retry || r.moved) } else q

/-- Everything that a run's issue waits for is there. -/
def State.runReady (s : State) (p : Nat) (j : Job) (q : Pass) (r : Run) : Bool :=
  let et := leEtype j.e
  let k := ((setOf et (blockToks q r.block) r.setNo).map (·.2)).getD 1
  s.mayIssue p && !s.laneBusy et r && !behind q r && !s.routerAwaited r (r.seg + k - 1)
    && r.span.all (fun x => (s.arraysOf p).contains x.1 && bit s.power.domOn x.1 && !s.arrayBusy x.1 && !s.lintOn x.1 && firstFor q x.1 == some r)

/-- A run issues: it takes its arrays and leaves the plan. -/
def State.issueRun (s : State) (p : Nat) (ref : JobRef) (j : Job) (q : Pass) (r : Run) : State :=
  let s : State := { s with press := { s.press with
    runs := s.press.runs ++ r.span.map (fun x => { r with span := [x] })
    runCnt := r.span.foldl (fun n x => setAt n x.1 (· + 1)) s.press.runCnt } }
  (s.charge (runCost (leEtype j.e)) r.span.length).onJob p ref (fun _ => { q with plan := q.plan.erase r })

/-- PRESS_RUN_ISSUE: the next run planned for an array issues on all the arrays it spans, once its weights and
activations are resident (R187 to R196, R201). The command names its row block, the array's tile, its token set and its
segment; a run that is not the next one planned is not due. -/
def execPressRunIssue (part array block tile setNo seg : Nat) (s : State) : Host.Outcome State Fault Refusal :=
  match s.job part with
  | none => .next s
  | some (ref, j) =>
    let q := s.planned part ref j
    let open_ := s.openRuns ref q
    match firstFor open_ array with
    | none => .next s
    | some r =>
      let named := r.block == block && r.span.contains (array, tile) && r.setNo == setNo && r.seg == seg
      .next (if named && s.runReady part j open_ r then s.issueRun part ref j q r else s)

/-! ### Checksums (R202 to R204) -/

/-- Ascending FP32 sum. -/
def sum32 (l : List F32) : F32 := l.foldl f32Add 0

/-- Accumulated products of FP32 values. -/
def dot32 (a w : List F32) : F32 := (a.zip w).foldl (fun p e => f32Add p (f32Mul e.1 e.2)) 0

/-- Column i of equally long lists. -/
def column (ls : List (List F32)) (i : Nat) : List F32 := ls.map (fun l => l.getD i 0)

/-- The comparison of R203: `none` where it is not made (R204), else whether it is a mismatch.
DEDUCED, log entry 58. -/
def checkSum (sv tv gv : F32) : Option Bool :=
  if !(isFin32 sv && isFin32 tv && isFin32 gv) then none
  else some (f32Lt (f32Add (f32Mul 0x39800000#32 gv) 0x00800000#32) (f32Abs (f32Sub sv tv)))

/-- What the checks of a run found: comparisons skipped, the first failing row and column, the corner. -/
structure RunCheck where
  skips  : Nat
  row    : Option Nat
  col    : Option Nat
  corner : Bool
  deriving DecidableEq, Repr

/-- A check failed. -/
def RunCheck.bad (c : RunCheck) : Bool := c.row.isSome || c.col.isSome || c.corner

/-- The checks of a run. `acts` and `wts` are per group: activations per token row and weights per column, as FP32
streams; `parts` the partials per group and token row; `cov` the group that the checksum row covers; `k` the K-split
factor; `errs` the checksum cells that hold another value: row 8, column 128 and the corner (R183). -/
def runChecks (k cov : Nat) (errs : List CellErr) (acts wts : List (List (List F32))) (parts : List (List (List F32))) :
    RunCheck :=
  let cell (r c : Nat) (v : F32) : F32 := ((errs.reverse.find? (fun e => e.row == r && e.col == c)).map (·.value)).getD v
  let ng := acts.length
  let len := ((wts.headD []).headD []).length
  let wsum (g : Nat) := (List.range len).map (fun i => sum32 (column (wts.getD g []) i))
  let wmag (g : Nat) := (List.range len).map (fun i => sum32 ((column (wts.getD g []) i).map f32Abs))
  let rows := (List.range ng).flatMap (fun g =>
    let as := acts.getD g []
    (List.range as.length).map (fun i =>
      let a := as.getD i []
      (g * (8 / k) + i, checkSum (cell (g * (8 / k) + i) 128 (dot32 a (wsum g))) (sum32 ((parts.getD g []).getD i []))
        (dot32 (a.map f32Abs) (wmag g)))))
  let asum := (List.range len).map (fun i => sum32 (column (acts.getD cov []) i))
  let amag := (List.range len).map (fun i => sum32 ((column (acts.getD cov []) i).map f32Abs))
  let cells := ((wts.getD cov []).zip (List.range 128)).map (fun w => cell 8 w.2 (dot32 asum w.1))
  let cols := (List.range cells.length).map (fun c =>
    (c, checkSum (cells.getD c 0) (sum32 (column (parts.getD cov []) c))
      (dot32 amag (((wts.getD cov []).getD c []).map f32Abs))))
  let corner := checkSum (cell 8 128 (dot32 asum (wsum cov))) (sum32 cells) (dot32 amag (wmag cov))
  { skips := ((rows ++ cols).filter (fun e => e.2.isNone)).length + (if corner.isNone then 1 else 0)
    row := (rows.find? (fun e => e.2 == some true)).map (·.1)
    col := (cols.find? (fun e => e.2 == some true)).map (·.1)
    corner := corner == some true }

/-- The streams and partials of a run on an array, per group: activations per token row and weights per column as FP32,
and partials per token row; columns beyond the router count as zero (R188). -/
structure RunData where
  acts  : List (List (List F32))
  wts   : List (List (List F32))
  parts : List (List (List F32))
  /-- what a row without a token accumulates, per group and column: its activations are zero (R189) -/
  idle  : List (List F32)
  deriving DecidableEq, Repr

/-- A weight is finite. -/
def finite (w : Fp) : Bool :=
  match w with
  | .fin _ _ _ => true
  | _ => false

/-- What an array works on in a run: segments `seg` to `seg + k − 1` of a tile for tokens `ts`. The last run of a token set
has fewer where K / 128 is no multiple of `k`: its other groups are idle (R189, R190). DESIGN CHOICE, log entry 126. -/
def State.runData (s : State) (p : Nat) (e pr : Bytes) (tile seg k : Nat) (ts : List Tok) : RunData :=
  let et := leEtype e
  let groups := (List.range k).filter (fun g => decide (seg + g < segCount e))
  let rows := (List.range 128).map (fun c => if c < tileRows pr e tile then s.routerRow p e (128 * tile + c) else [])
  let len := if et = 0 then 384 else 128
  let wts := groups.map (fun g => rows.map (fun w =>
    if w.isEmpty then List.replicate len (Fp.fin false 0 0) else wStream et w (seg + g)))
  let acts := groups.map (fun g => ts.map (fun t => aStream et t.actHi t.actLo (seg + g)))
  { acts := acts.map (·.map (·.map enc32))
    wts := wts.map (·.map (·.map enc32))
    parts := (acts.zip wts).map (fun (as, ws) => as.map (fun a => (ws.zip rows).map (fun (w, b) =>
      if b.isEmpty then 0 else segPartial a w)))
    idle := wts.map (·.map (fun w => if w.all finite then 0 else 0x7FC00000#32)) }

/-- The partials as the data cells hold them: a faulty cell holds another value. -/
def withErrs (k : Nat) (errs : List CellErr) (parts : List (List (List F32))) : List (List (List F32)) :=
  errs.foldl (fun ps e => setAt ps (e.row / (8 / k)) (fun g =>
    setAt g (e.row % (8 / k)) (fun row => setAt row e.col (fun _ => e.value)))) parts

/-- The accumulators of an array after a run: row i of group g is row 8 / k × g + i of the grid (R183, R189). -/
def accOf (k : Nat) (parts : List (List (List F32))) (idle : List (List F32)) : List F32 :=
  (List.range 8).flatMap (fun r =>
    let g := r / (8 / k)
    match (parts.getD g [])[r % (8 / k)]? with
    | some row => row
    | none => idle.getD g (List.replicate 128 0))

/-- The accumulators of an array take the partials of a run. -/
def State.holdAcc (s : State) (a : Nat) (v : List F32) : State :=
  { s with cores := setAt s.cores (a / 4) (fun x => { x with acc := setAt x.acc (a % 4) (fun _ => v) }) }

/-- The assembler adds the partials that it has, as far as they follow one another in ascending segment order (R187). -/
def absorb : Nat → TileSt → TileSt
  | 0, t => t
  | n + 1, t =>
    match t.early.find? (fun e => e.1 == t.segs) with
    | none => t
    | some e => absorb n { t with
        segs := t.segs + 1
        scores := (List.range 128).map (fun c => addPartial t.segs (t.scores.getD c 0) (e.2.getD c 0))
        early := t.early.filter (fun x => x.1 != t.segs) }

/-- The partials of a run reach the assembler of a token's tile, in core `core` (R187). -/
def addRun (core tile seg : Nat) (per : List (List F32)) (t : Tok) : Tok :=
  let old := (t.tiles.find? (fun x => x.tile == tile)).getD
    { tile := tile, core := core, segs := 0, scores := [], early := [], pair := none }
  let early := old.early ++ (List.range per.length).map (fun g => (seg + g, per.getD g []))
  { t with tiles := t.tiles.filter (fun x => x.tile != tile) ++ [absorb early.length { old with early := early }] }

/-- The core of the assembler of tile n (R187). -/
def State.assembler (s : State) (p n : Nat) : Nat :=
  let cs := s.coresOf p
  cs.getD (n % max 1 cs.length) 8

/-- PR_LAST_CHK of a failed check on an array (R211). -/
def lastChk (array tile seg : Nat) (c : RunCheck) (failed : Bool) : Word :=
  BitVec.ofNat 32 (array % 4 + (match c.row with | some i => 4 * i + 32 | none => 0)
    + (match c.col with | some i => 64 * i + 8192 | none => 0) + (if c.corner then 16384 else 0)
    + (if failed then 32768 else 0) + 65536 * (seg % 256) + 2 ^ 24 * (tile % 32))

/-- The level of an array's bucket after one more mismatch; at 16 the array retires at the step boundary (R207). -/
def State.raiseBucket (s : State) (a : Nat) : State :=
  let n := min 16 (s.press.buckets.getD a 0 + 1)
  let s := if n = 1 then s.leakMark (keyArray a) else s
  { s with
    press := { s.press with buckets := setAt s.press.buckets a (fun _ => n) }
    units := { s.units with arraysPend := setBit s.units.arraysPend a (n = 16 || bit s.units.arraysPend a) } }

/-- ARRAY_FLT counts check mismatches, saturating at 24 bits (R460). -/
def State.countMis (s : State) (a : Nat) : State :=
  { s with recd := { s.recd with arrMis := setAt s.recd.arrMis a (fun n => min (n + 1) (2 ^ 24 - 1)) } }

/-! ### Retirement of an array (R206, R207) -/

/-- The partition that owns an array's core. -/
def State.arrayPart (s : State) (a : Nat) : Nat :=
  ((List.range 8).find? (fun p => s.pValid p && bit (s.pCores p) (a / 4))).getD 8

/-- The run on an array ends there. -/
def State.leaveArray (s : State) (a : Nat) : State :=
  { s with press := { s.press with runs := s.press.runs.filter (fun r => !r.span.any (fun x => x.1 == a)) } }

/-- The row block, segment and tile of everything that array a was to work on in runs of a job. -/
def tilesOn (j : Job) (a : Nat) (rs : List Run) : List (Nat × Nat × Nat) :=
  (rs.flatMap (fun r =>
    let k := ((setOf (leEtype j.e) (blockToks j.pass r.block) r.setNo).map (·.2)).getD 1
    (r.span.filter (fun x => x.1 == a)).flatMap (fun x =>
      ((List.range k).map (fun i => (r.block, r.seg + i, x.2))).filter (fun y => decide (y.2.1 < segCount j.e))))).eraseDups

/-- The runs of array a of a job, the one on it first, go to array t; one of another core reads their weights again
(R206). -/
def State.moveJob (s : State) (p a t : Nat) (on : List Run) (ref : JobRef) : State :=
  match s.jobAt p ref with
  | none => s
  | some j =>
    let rs := on.filter (fun r => r.job == ref) ++ j.pass.plan
    let s := s.onJob p ref (fun q => { q with plan := moveRuns a t rs })
    if t / 4 = a / 4 then s
    else (tilesOn j a rs).foldl (fun s x => s.askTile p j.e j.pr j.pass.layer x.1 x.2.1 x.2.2) s

/-- The array issues nothing more: its remaining runs go to another; a partition with no usable array left is torn down
with COMPUTE_LOST (R206). -/
def State.retireArray (s : State) (a : Nat) : State :=
  if !bit s.units.arrays a then s
  else
    let p := s.arrayPart a
    let on := s.press.runs.filter (fun r => r.span.any (fun x => x.1 == a))
    let s := ({ s with units := { s.units with
        arrays := setBit s.units.arrays a false, arraysRet := setBit s.units.arraysRet a true
        arraysPend := setBit s.units.arraysPend a false } } : State).leaveArray a
    let s := (s.raise (rPR_EVT (a / 4)) 1).bump (rPR_RETIRE_CNT (a / 4)) 1
    if 8 ≤ p then s
    else match s.heir p a with
      | none => s.teardown p 11
      | some t =>
        let steps := match s.curPass p with | some q => [JobRef.step q.layer] | none => []
        (steps ++ (List.range 64).map JobRef.batch ++ [JobRef.wake]).foldl (State.moveJob · p a t on ·) s

/-- The arrays of partition p whose bucket reached 16 are retired at its step boundary. -/
def State.retirePending (s : State) (p : Nat) : State :=
  (s.arraysOf p).foldl (fun s a => if bit s.units.arraysPend a then s.retireArray a else s) s

/-! ### The wake check (R146, R208, R263) -/

/-- The row of ones that the wake check scores. -/
def onesTok (et k : Nat) : Tok :=
  { freshTok 0 0 0 0 with
    actHi := List.replicate k (if et ≤ 1 then 0x3F80 else 0x38), actLo := List.replicate k 0 }

/-- The runs of a layer of the wake check: each twice, on two arrays where the partition has two. DESIGN CHOICE, log
entry 112. -/
def wakePlan (p l : Nat) (et segs tiles : Nat) (as : List Nat) : List Run :=
  let cells := (List.range segs).flatMap (fun j => (List.range tiles).map (fun n => (j, n)))
  (List.range (2 * cells.length)).map (fun i =>
    let c := cells.getD (i / 2) (0, 0)
    let a := as.getD (i % max 1 as.length) 0
    { job := .wake, part := p, layer := l, block := 0, setNo := 0, seg := c.1
      lane := if paired et && !pairA a then 1 else 0, span := [(a, c.2)], major := false, retry := false, moved := false })

/-- The check of a layer begins: its router is read, and its runs are planned. -/
def State.startWake (s : State) (p l : Nat) : State :=
  let e := s.layerEnt p l
  let pr := s.profEnt p l
  let et := leEtype e
  let q := { freshPass l s.stitch.count [onesTok et (leK e)] with
    blocks := [0], planBlk := 1, plan := wakePlan p l et (segCount e) (tileCount pr e) (s.arraysOf p) }
  let s := s.onPart p (fun x => { x with
    wakeLayer := l, wakeGot := [], wake := some { pass := q, e := e, pr := pr, scores := true } })
  s.issueRouter p e pr l 0

/-- Partitions that stand before the check of a layer begin it; a layer under a hold waits (R261, R262). -/
def State.startWakes (s : State) : State :=
  (List.range 8).foldl (fun s p =>
    let x := s.part p
    if x.state = 3 && x.wakeTry ≠ 0 && x.wake.isNone && decide (x.wakeLayer < s.pLayers p)
        && !s.layerHeld p x.wakeLayer && s.mayIssue p
    then s.startWake p x.wakeLayer else s) s

/-- The score of router row r of a token. -/
def tokScore (t : Tok) (r : Nat) : F32 :=
  match t.tiles.find? (fun x => x.tile == r / 128) with
  | some x => x.scores.getD (r % 128) 0
  | none => 0

/-- The wake signature of a scored row (R263). -/
def wakeSig (pr e : Bytes) (t : Tok) : Nat :=
  (crcWake ((List.range (routerRows pr e)).flatMap (fun r =>
    toLE 4 (tokScore t r).toNat))).toNat

/-- A layer is scored: its signature agrees and the next layer follows; one that differs while the partials agreed is
checked once more, then the partition is torn down (R146, R208). -/
def State.endWakeLayer (s : State) (p : Nat) (j : Job) : State :=
  let l := j.pass.layer
  let t := j.pass.toks.headD (onesTok 0 0)
  let x := s.part p
  if wakeSig j.pr j.e t = fld j.e 40 8 then
    let s := s.onPart p (fun x => { x with wakeLayer := l + 1, wake := none, wakeGot := [] })
    if l + 1 < s.pLayers p ∧ !s.layerHeld p (l + 1) then s.startWake p (l + 1) else s
  else if x.wakeTry = 1 then (s.onPart p (fun x => { x with wakeTry := 2 })).startWake p l
  else s.teardown p 11

/-- The arrays whose partial differs from every other one. -/
def oddOnes (vs : List (Nat × List F32)) : List Nat :=
  (vs.filter (fun v => (vs.filter (fun w => w.2 == v.2)).length == 1)).map (·.1)

/-- A partial of the wake check goes to the assembler; with the last one its layer is scored. -/
def State.takeWake (s : State) (p tile seg : Nat) (v : List F32) : State :=
  let core := s.assembler p tile
  let s := s.onPart p (fun x => { x with wakeGot := x.wakeGot.filter (fun g => !(g.1 == tile && g.2.1 == seg)) })
  let s := s.onJob p .wake (fun q => { q with toks := q.toks.map (addRun core tile seg [v]) })
  match s.jobAt p .wake with
  | some j => if blockDone j.pass j.pr j.e 0 then s.endWakeLayer p j else s
  | none => s

/-- Further runs of the wake check like `r`, on arrays `as`; `now` puts them before all others. -/
def State.addWake (s : State) (p tile : Nat) (now : Bool) (r : Run) (as : List Nat) : State :=
  let rs := as.map (fun a => { r with span := [(a, tile)], retry := false, moved := false })
  s.onJob p .wake (fun q => { q with plan := if now then rs ++ q.plan else q.plan ++ rs })

/-- A partial of the wake check: two of a run are compared; where they differ the run is issued on a third usable array, and an
array that differs from the other two retires as after a failed retry while the agreed partial stands (R146, R206, R208). The
rule says nothing of a partition without a third usable array, where its lowest one runs again, nor of three partials that all
differ, where the three arrays retire and the run is made anew. DESIGN CHOICE, log entry 112. -/
def State.wakePartial (s : State) (p tile seg a : Nat) (r : Run) (v : List F32) : State :=
  let got := (s.part p).wakeGot ++ [(tile, seg, a, v)]
  let mine := (got.filter (fun g => g.1 == tile && g.2.1 == seg)).map (·.2.2)
  let s := s.onPart p (fun x => { x with wakeGot := got })
  if mine.length < 2 then s
  else match mine.find? (fun g => decide (2 ≤ (mine.filter (fun w => w.2 == g.2)).length)) with
    | some g =>
      let s := (oddOnes mine).foldl State.retireArray s
      if (s.part p).state = 3 then s.takeWake p tile seg g.2 else s
    | none =>
      let s := mine.foldl (fun s g => s.raise (rPR_EVT (g.1 / 4)) 2) s
      let as := s.arraysOf p
      if mine.length = 2 then
        s.addWake p tile true r
          [((as.find? (fun b => !mine.any (fun g => g.1 == b))).orElse (fun _ => as.head?)).getD a]
      else
        let s := (oddOnes mine).foldl State.retireArray s
        let as := s.arraysOf p
        if (s.part p).state ≠ 3 then s
        else (s.onPart p (fun x => { x with wakeGot := x.wakeGot.filter (fun g => !(g.1 == tile && g.2.1 == seg)) })).addWake
          p tile false r [as.headD 0, as.getD 1 (as.headD 0)]

/-- WAKE_CHECK_DONE: the signature of every layer, `layers` of them, agreed; the partition is UP (R146, R208). -/
def execWakeCheckDone (part layers : Nat) (s : State) : Host.Outcome State Fault Refusal :=
  let x := s.part part
  if layers ≠ s.pLayers part ∨ x.state ≠ 3 ∨ x.wakeTry = 0 ∨ x.wakeLayer < s.pLayers part ∨ !s.running then .next s
  else .next ((s.onPart part (fun y => { y with state := 1, wakeTry := 0, wakeLayer := 0 })).replan part)

/-! ### The end of a run (R203 to R206, R209) -/

/-- The partials of a run that passed its checks go to the assembler. -/
def State.toAssembler (s : State) (r : Run) (a tile : Nat) (ts : List Tok) (parts : List (List (List F32))) : State :=
  match r.job with
  | .wake => s.wakePartial r.part tile r.seg a r ((parts.headD []).headD [])
  | ref =>
    let rows := ts.map (·.row)
    let core := s.assembler r.part tile
    s.onJob r.part ref (fun q => { q with toks := q.toks.map (fun t =>
      match rows.findIdx? (· == t.row) with
      | some i => addRun core tile r.seg (parts.map (fun g => g.getD i [])) t
      | none => t) })

/-- A run failed a check: it is retried once as the array's next run, and a failed retry retires the array. -/
def State.failRun (s : State) (r : Run) (a tile : Nat) (c : RunCheck) : State :=
  let s := ((s.raise (rPR_EVT (a / 4)) 0).latch (rPR_LAST_CHK (a / 4)) (lastChk a tile r.seg c r.retry)).countMis a
  if r.retry then s.retireArray a
  else (s.leaveArray a).onJob r.part r.job (fun q => { q with plan := { r with retry := true } :: q.plan })

/-- PRESS_RUN_END: the checks of an array's run are made; a run that passes gives its partials to the assembler, one that
fails is retried once on the same array, and a failed retry retires the array (R203 to R206). The faults of the run's data
and checksum cells come with the command. DESIGN CHOICE, log entry 20. The covered group counts the array's runs from 0 on,
a retry among them (R202). DESIGN CHOICE, log entry 127. -/
def execPressRunEnd (array : Nat) (errs : List CellErr) (s : State) : Host.Outcome State Fault Refusal :=
  match s.press.runs.find? (fun r => r.span.any (fun x => x.1 == array)) with
  | none => .next s
  | some r =>
    match (s.jobAt r.part r.job).bind (fun j => (setOf (leEtype j.e) (blockToks j.pass r.block) r.setNo).map (fun t => (j, t))) with
    | none => .next (s.leaveArray array)
    | some (j, ts, k) =>
      let tile := ((r.span.find? (fun x => x.1 == array)).map (·.2)).getD 0
      let d := s.runData r.part j.e j.pr tile r.seg k ts
      let parts := withErrs k errs d.parts
      let c := runChecks k ((s.press.runCnt.getD array 1 - 1) % k) errs d.acts d.wts parts
      let s := (s.bump (rPR_SKIP_CNT (array / 4)) c.skips).holdAcc array (accOf k parts d.idle)
      let s := if c.bad then s.failRun r array tile c
        else
          let s := if r.retry then (s.bump (rPR_RETRY_CNT (array / 4)) 1).raiseBucket array else s
          (s.leaveArray array).toAssembler r array tile ts parts
      .next (match r.job with
        | .batch g => s.runsDrained g
        | _ => s)

/-- PR_BUCKET_LEAK: a bucket above zero falls by one every 2,097,152 stitches (R207). -/
def execPrBucketLeak (array : Nat) (s : State) : Host.Outcome State Fault Refusal :=
  if s.leakDue (keyArray array) 2097152 (s.press.buckets.getD array 0) then
    .next (({ s with press := { s.press with buckets := setAt s.press.buckets array (· - 1) } } : State).leakMark (keyArray array))
  else .next s

end Sys2Proof.Machine
end

