-- ==== Sys2Proof/Machine/Select.lean ====
section
/-! DEFINITION. Selection and admission: tile reduction and merge, selection values, the pod limit, the chosen list, the
capacity policies and the gating weights (R227 to R254). -/

namespace Sys2Proof.Machine

/-! ### Selection values (R225, R226, R237) -/

/-- y_e of every expert from the scores of the router rows. -/
def yValues (pr e : Bytes) (rbias : List F32) (score : Nat → F32) : List F32 :=
  let n := leExperts e
  (List.range n).map (fun x =>
    fuseScore (fld pr 5 1) (BitVec.ofNat 32 (fld pr 12 4)) (rbias.getD x 0) (score x) (score (n + x)))

/-- The selection value v_e. -/
def selValue (fn : Nat) (y bias : F32) : F32 := f32Add (if fn = 2 then f32Logistic y else y) bias

/-- Experts (index, v, y) in ranking order: larger key first, then lower index (R235). -/
def ranking (l : List (Nat × F32 × F32)) : List (Nat × F32 × F32) :=
  sortBy (fun a b => decide (canonKey b.2.1 < canonKey a.2.1 ∨ (canonKey a.2.1 = canonKey b.2.1 ∧ a.1 ≤ b.1))) l

/-- The home pod of an expert (R245). -/
def homePod (mp : Bytes) (x : Nat) : Nat := mapReplica mp x 0 / 32

/-- The pods that a token may use (R238); `ranked` are the selectable experts in ranking order. -/
def allowedPods (pr mp : Bytes) (experts : Nat) (ranked : List (Nat × F32 × F32)) : List Nat :=
  let pods := ((List.range experts).map (homePod mp)).eraseDups
  if pods.length ≤ fld pr 2 1 then pods
  else
    let score (q : Nat) : F32 :=
      match (ranked.filter (fun e => homePod mp e.1 == q)).take (fld pr 3 1) with
      | [] => f32NegInf
      | l => sum32 (l.map (·.2.1))
    let scored := pods.map (fun q => (q, score q))
    let order := sortBy (fun a b => decide (canonKey b.2 < canonKey a.2 ∨ (canonKey a.2 = canonKey b.2 ∧ a.1 ≤ b.1)))
      (scored.filter (fun e => above e.2 f32NegInf))
    (order.take (fld pr 2 1)).map (·.1)

/-- The chosen list and the candidate list of a token, as (expert, y) (R239). -/
def choose (pr mp : Bytes) (ys bias : List F32) : List (Nat × F32) × List (Nat × F32) :=
  let fn := fld pr 0 1
  let all := (List.range ys.length).map (fun x => (x, selValue fn (ys.getD x 0) (bias.getD x 0), ys.getD x 0))
  let ranked := ranking (all.filter (fun e => above e.2.1 f32NegInf))
  let pods := allowedPods pr mp ys.length ranked
  let open_ := (ranked.filter (fun e => pods.contains (homePod mp e.1))).map (fun e => (e.1, e.2.2))
  let k := fld pr 1 1
  (open_.take k, (open_.drop k).take (if fld pr 6 1 = 2 then fld pr 18 1 else 0))

/-! ### Admission (R246 to R251) -/

/-- The count of an expert in a list of (expert, count). -/
def countOf (l : List (Nat × Nat)) (x : Nat) : Nat := ((l.find? (fun e => e.1 == x)).map (·.2)).getD 0

/-- Add one to the count of an expert. -/
def addCount (l : List (Nat × Nat)) (x : Nat) : List (Nat × Nat) :=
  l.filter (fun e => e.1 != x) ++ [(x, countOf l x + 1)]

/-- What an admission pass holds: admissions per expert of the micro-step, of the pass (R246), the tickets in order of
admission, and the choices it could not admit, in order. -/
structure Adm where
  used    : List (Nat × Nat)
  replUse : List (Nat × Nat)
  tickets : List Ticket
  past    : List (Tok × Nat × Nat)
  deriving DecidableEq, Repr

/-- The replica and destination of the next ticket of an expert (R246). -/
def pickReplica (self : Nat) (mp : Bytes) (replUse : List (Nat × Nat)) (x : Nat) : Nat × Nat :=
  let rs := replicasOf mp x
  let i := (countOf replUse x + self) % max 1 rs.length
  (i, rs.getD i 0)

/-- A ticket of a token's choice. -/
def mkTicket (t : Tok) (x rank micro order : Nat) (rd : Nat × Nat) (subst : Bool) (st : Nat) : Ticket where
  row := t.row
  stream := t.stream
  pos := t.pos
  expert := x
  rank := rank
  dest := rd.2
  replica := rd.1
  subst := subst
  gate := 0
  micro := micro
  order := order
  st := st
  out := []
  chain := none

/-- Admit a choice. -/
def Adm.take (a : Adm) (self : Nat) (mp : Bytes) (t : Tok) (x rank micro : Nat) (subst : Bool) : Adm :=
  { a with
    used := addCount a.used x
    replUse := addCount a.replUse x
    tickets := a.tickets ++ [mkTicket t x rank micro a.tickets.length (pickReplica self mp a.replUse x) subst 1] }

/-- A choice is admitted, or set aside where the expert's capacity is used up (R248). -/
def Adm.offer (a : Adm) (self : Nat) (pr mp : Bytes) (micro : Nat) (c : Tok × Nat × Nat) : Adm :=
  if fld pr 6 1 ≠ 0 ∧ fld pr 16 2 ≤ countOf a.used c.2.1 then { a with past := a.past ++ [c] }
  else a.take self mp c.1 c.2.1 c.2.2 micro false

/-- Tokens in (prio, stream, position) order (R247). -/
def admitOrder (ts : List Tok) : List Tok :=
  sortBy (fun a b => decide (a.prio < b.prio ∨ (a.prio = b.prio ∧ (a.stream < b.stream ∨ (a.stream = b.stream
    ∧ a.pos ≤ b.pos))))) ts

/-- The choices of the tokens, rank by rank: (token, expert, rank). -/
def rankMajor (k : Nat) (ts : List Tok) : List (Tok × Nat × Nat) :=
  (List.range k).flatMap (fun r => (admitOrder ts).filterMap (fun t => (t.chosen[r]?).map (fun c => (t, c.1, r))))

/-- A substitute for a rejected choice: the first candidate the token does not hold and that has room (R250). -/
def Adm.substitute (a : Adm) (self : Nat) (pr mp : Bytes) (c : Tok × Nat × Nat) : Adm :=
  let holds (x : Nat) := a.tickets.any (fun k => k.row == c.1.row && k.expert == x)
  match c.1.cand.find? (fun k => !holds k.1 && decide (countOf a.used k.1 < fld pr 16 2)) with
  | some k => a.take self mp c.1 k.1 c.2.2 0 true
  | none => a

/-- The y value of an expert of a token. -/
def yOf (t : Tok) (x : Nat) : F32 := (((t.chosen ++ t.cand).find? (fun e => e.1 == x)).map (·.2)).getD 0

/-- Set the gates of a token's remaining tickets from its reference weights (R249). -/
def regate (t : Tok) (ks : List Ticket) : List Ticket :=
  let live (k : Ticket) := k.row == t.row && decide (k.st < 6)
  let g := rescale t.refW (fun x => ks.any (fun k => live k && k.expert == x))
  let whole := t.refW.all (fun e => ks.any (fun k => live k && k.expert == e.1))
  let src := if whole then t.refW else g
  ks.map (fun k => if live k then { k with gate := ((src.find? (fun e => e.1 == k.expert)).map (·.2)).getD 0 } else k)

/-- The result of the admission of a pass. -/
structure Admitted where
  toks    : List Tok
  tickets : List Ticket
  replUse : List (Nat × Nat)
  counts  : List Nat
  events  : List (Nat × Nat × Nat × Nat)
  deriving DecidableEq, Repr

/-- Admission of the pass, and its first gating weights (R242, R247 to R251). Counts are those of R390: admitted,
rejected, substituted, deferred, grant deferred, spilled, null, emptied, lost. -/
def admitPass (self : Nat) (pr mp : Bytes) (ts : List Tok) : Admitted :=
  let pol := fld pr 6 1
  let able := ts.filter (fun t => t.selected && !t.whole)
  let a0 : Adm := { used := [], replUse := [], tickets := [], past := [] }
  let a := (rankMajor (fld pr 1 1) able).foldl (fun a c => a.offer self pr mp 0 c) a0
  let n := a.tickets.length
  let a := if pol = 2 then a.past.foldl (fun a c => a.substitute self pr mp c) a else a
  let deferred := if pol = 3 then a.past else []
  let ks := a.tickets ++ (List.range deferred.length).filterMap (fun i =>
    (deferred[i]?).map (fun c => mkTicket c.1 c.2.1 c.2.2 0 (a.tickets.length + i) (0, 0) false 2))
  let mine (t : Tok) := ks.filter (fun k => k.row == t.row)
  let toks := ts.map (fun t =>
    if !t.selected || t.whole then t
    else
      let ref := if pol = 2 then (mine t).map (fun k => (k.expert, yOf t k.expert)) else t.chosen
      { t with refW := gating (fld pr 0 1) t.m t.z ref, emptied := !t.nullRt && (mine t).isEmpty })
  let ks := toks.foldl (fun ks t => regate t ks) ks
  let nulls := toks.filter (fun t => t.nullRt && t.selected && !t.whole)
  let empties := toks.filter (·.emptied)
  { toks := toks, tickets := ks, replUse := a.replUse
    counts := [a.tickets.length, if pol = 1 ∨ pol = 2 then a.past.length else 0, a.tickets.length - n, deferred.length,
      0, 0, nulls.length, empties.length, 0]
    events := nulls.map (fun t => (t.stream, t.pos, 255, 1)) ++ empties.map (fun t => (t.stream, t.pos, 255, 2))
      ++ deferred.map (fun c => (c.1.stream, c.1.pos, c.2.2, 3)) }

/-- The tickets that a later micro-step m carries (R251, R252, R272): those deferred by a grant go as they are; those
deferred at the source are admitted afresh in the order of R247. -/
def admitMicro (self : Nat) (pr mp : Bytes) (m : Nat) (ts : List Tok) (replUse : List (Nat × Nat)) (ks : List Ticket) :
    Admitted :=
  let waiting := ks.filter (fun k => k.st == 2)
  let cs := (List.range 16).flatMap (fun r => (admitOrder ts).flatMap (fun t =>
    (waiting.filter (fun k => k.row == t.row && k.rank == r)).map (fun k => (t, k.expert, r))))
  let a0 : Adm := { used := [], replUse := replUse, tickets := [], past := [] }
  let a := cs.foldl (fun a c => a.offer self pr mp m c) a0
  let again := ks.filter (fun k => k.st == 3)
  let put (k : Ticket) : Ticket :=
    if k.st = 3 then { k with st := 1, micro := m }
    else if k.st ≠ 2 then k
    else match a.tickets.find? (fun n => n.row == k.row && n.expert == k.expert) with
      | some n => { k with st := 1, micro := m, dest := n.dest, replica := n.replica, order := n.order }
      | none => k
  { toks := ts, tickets := ks.map put, replUse := a.replUse
    counts := [again.length + a.tickets.length, 0, 0, a.past.length, 0, 0, 0, 0, 0]
    events := a.past.map (fun c => (c.1.stream, c.1.pos, c.2.2, 3)) }

/-! ### The commands of stage 4 -/

/-- Every segment of the router rows that score tile n needs has been added. -/
def tileDrained (pr e : Bytes) (t : Tok) (n : Nat) : Bool :=
  let x := leExperts e
  let hi := min (128 * n + 127) (x - 1)
  let need := [128 * n / 128, hi / 128]
    ++ (if fld pr 5 1 % 4 = 2 then [(x + 128 * n) / 128, (x + hi) / 128] else [])
  need.all (fun k => decide (segCount e ≤ segsOf t k))

/-- y_e of every expert of a token. -/
def State.tokYs (s : State) (p : Nat) (pr e : Bytes) (t : Tok) : List F32 :=
  yValues pr e (s.entVec p e 32 4 (leExperts e)) (tokScore t)

/-- The token row of the pass in stages 1 to 4. -/
def State.curTok (s : State) (p row : Nat) : Option (Pass × Tok) :=
  (s.curPass p).bind (fun q => (q.toks.find? (fun t => t.row == row && !t.whole)).map (fun t => (q, t)))

/-- Update a token of a pass. -/
def State.onTok (s : State) (p l row : Nat) (f : Tok → Tok) : State := s.onPass p l (onTokOf row f)

/-- A token row that the cores of a partition score and that is to be selected. -/
def State.jobTok (s : State) (p row : Nat) : Option (JobRef × Job × Tok) :=
  (s.job p).bind (fun r =>
    if s.merges r.1 then (r.2.pass.toks.find? (fun t => t.row == row && !t.whole)).map (fun t => (r.1, r.2, t)) else none)

/-- TILE_REDUCE: a drained tile is reduced to its local pair; the work of SOFTMAX_TOPK only (R227, R229). -/
def execTileReduce (part row tile : Nat) (s : State) : Host.Outcome State Fault Refusal :=
  match s.jobTok part row with
  | none => .next s
  | some (ref, j, t) =>
    let done := t.tiles.any (fun x => x.tile == tile && x.pair.isSome)
    if fld j.pr 0 1 ≠ 0 ∨ !s.mayIssue part ∨ s.jobHeld ref ∨ scoreTiles j.e ≤ tile ∨ !tileDrained j.pr j.e t tile ∨ done then .next s
    else
      let pair := tilePair (((s.tokYs part j.pr j.e t).drop (128 * tile)).take 128)
      .next ((s.charge 10 8).onJob part ref (onTokOf row (fun t => { t with
        tiles := t.tiles.map (fun x => if x.tile = tile then { x with pair := some pair } else x) })))

/-- Exponentials that a merge evaluates: none where w is fixed (R228, R230). -/
def mergeExp (m mn : F32) : Nat :=
  let (x, y) := if above mn m then (m, mn) else (mn, m)
  if x = y ∨ x = f32NegInf ∨ y = f32PosInf then 0 else 1

/-- SOFTMAX_MERGE: the next tile's pair is merged at the home core, in the row's lane, which is ACTIVE until the row is selected, or
in a REPLAY until its last tile is merged (R213, R228, R233). -/
def execSoftmaxMerge (part row : Nat) (s : State) : Host.Outcome State Fault Refusal :=
  match s.jobTok part row with
  | none => .next s
  | some (ref, j, t) =>
    match (t.tiles.find? (fun x => x.tile == t.nextTile)).bind (·.pair) with
    | none => .next s
    | some pr =>
      if !s.mayIssue part ∨ s.jobHeld ref then .next s
      else
        let (m, z) := if t.nextTile = 0 then pr else mergePair (t.m, t.z) pr
        let n := t.nextTile + 1
        let s := s.charge 10 (if t.nextTile = 0 then 0 else mergeExp t.m pr.1)
        let at_ := s.laneFor part j.pass row
        let s := s.onLane at_.1 at_.2 (fun l => { l with
          m := m, z := z, nextTile := n, active := !s.rowOver ref j { t with nextTile := n } })
        .next (s.onJob part ref (onTokOf row (fun t => { t with m := m, z := z, nextTile := n })))

/-- Function evaluations of a row's selection over n tiles with k experts chosen (R229, R230, R434). -/
def selCost (fn n k : Nat) : Nat := if fn = 2 then 8 * n else ceilDiv k 16

/-- TOKEN_SELECT: after its last tile a token's chosen and candidate lists are fixed (R236 to R240). -/
def execTokenSelect (part row : Nat) (s : State) : Host.Outcome State Fault Refusal :=
  match s.curTok part row with
  | none => .next s
  | some (q, t) =>
    let e := s.layerEnt part q.layer
    let pr := s.profEnt part q.layer
    let n := scoreTiles e
    if t.selected ∨ !s.mayIssue part ∨ !(List.range n).all (tileDrained pr e t)
        ∨ (fld pr 0 1 = 0 ∧ t.nextTile ≠ n) then .next s
    else
      let ys := s.tokYs part pr e t
      let (ch, ca) := choose pr (s.mapEnt part q.layer) ys
        (s.biasVals part (s.tab part 3).live.ix q.layer (leExperts e))
      let s := s.bump (rSEL_CNT part 0) (ys.filter isNan32).length
      let s := if ch.isEmpty then s.bump (rSEL_CNT part 1) 1
        else if ch.length < fld pr 1 1 then s.bump (rSEL_CNT part 2) 1 else s
      let s := s.charge 10 (selCost (fld pr 0 1) n ch.length)
      let at_ := s.laneFor part q row
      let s := s.onLane at_.1 at_.2 (fun l => { l with active := false })
      .next (s.onTok part q.layer row (fun t => { t with
        chosen := ch, cand := ca, selected := true, nullRt := ch.isEmpty }))

/-- Counts of a micro-step added to its record. -/
def addCounts (a b : List Nat) : List Nat := (List.range 9).map (fun i => a.getD i 0 + b.getD i 0)

/-- The selection counters of an admission (R240, R248 to R251, R267). -/
def State.countAdm (s : State) (p : Nat) (c : List Nat) : State :=
  let b (s : State) (i v : Nat) := if v = 0 then s else s.bump (rSEL_CNT p i) v
  b (b (b (b s 3 (c.getD 1 0)) 4 (c.getD 2 0)) 5 (c.getD 3 0)) 8 (c.getD 7 0)

/-- A ticket in the format of R268. -/
def ticketBytes (k : Ticket) : Bytes :=
  toLE 4 k.pos ++ toLE 2 (k.stream + (if 0 < k.micro then 32768 else 0)) ++ toLE 2 k.row
    ++ toLE 2 (k.expert + 4096 * k.rank) ++ toLE 2 (k.dest + 512 * k.replica + (if k.subst then 2048 else 0))
    ++ toLE 4 k.gate.toNat

/-- The staging cells of the pass's tickets, 16 to a cell, with their records (R268): `none` where the pools refuse.
DESIGN CHOICE, log entry 106. -/
def State.ticketCells (s : State) (p l : Nat) (ks : List Ticket) : Option State :=
  if ks.isEmpty then some s
  else (s.allocStage (ownerOf (s.sect 5) p) (ceilDiv ks.length 16) 1 (some (p, l)) false (ks.flatMap ticketBytes) (.fatal p)).map
    (fun r => r.2.onPass p l (fun q => { q with ticketChain := some r.1 }))

/-- The records of a pass's tickets follow what a later micro-step or a rescale makes of them (R249, R252, R268). -/
def State.keepTickets (s : State) (p l : Nat) : State :=
  match s.pass p l with
  | none => s
  | some q =>
    match q.ticketChain.bind s.chainOf with
    | none => s
    | some c =>
      let b := q.tickets.flatMap ticketBytes
      if b = c.data then s
      else
        let s : State := { s with hamper := { s.hamper with
          chains := s.hamper.chains.map (fun x => if x.id = c.id then { x with data := b } else x) } }
        if c.cells.all (·.1) then s.fillCells c.cells b (.fatal p) else s

/-- The ticket cells of a pass are freed once Fold has combined every token of it (R268). -/
def State.freeTickets (s : State) (p l : Nat) : State :=
  match s.pass p l with
  | none => s
  | some q =>
    match q.ticketChain with
    | none => s
    | some id =>
      if q.toks.all (fun t => t.written || t.whole) then
        (s.freeChain id).onPass p l (fun q => { q with ticketChain := none })
      else s

/-- Read the hidden-state rows of the tokens once more for RESIDUAL (R346). -/
def State.readResiduals (s : State) (p l : Nat) (x : StepSt) (k : Nat) (toks : List Tok) : State :=
  match s.pass p l with
  | none => s
  | some q =>
    let (s, deps) := s.fetchRows p (s.td p (leNat x.hiddenTd)) q.inIdx k l (toks.map (·.row)) (.residual p l)
    s.onPass p l (fun q => { q with resDeps := deps })

/-- A fusion bit of the step's combine record: 0 SHARED, 1 SCALE, 2 RESIDUAL (R345). -/
def fuses (x : StepSt) (i : Nat) : Bool := fld x.combRec 0 1 == 1 && bit (fld x.combRec 1 1) i

/-- ADMISSION: once stage 4 is over for every token of the pass (R28, R247). A refused request for ticket cells is
counted and presented again (R176, R268). The rows of RESIDUAL are requested once more (R346). -/
def execAdmission (part : Nat) (s : State) : Host.Outcome State Fault Refusal :=
  match s.curPass part with
  | none => .next s
  | some q =>
    if !s.mayIssue part ∨ q.toks.isEmpty ∨ !q.toks.all (fun t => t.selected || t.whole) then .next s
    else
      let l := q.layer
      let a := admitPass s.member (s.profEnt part l) (s.mapEnt part l) q.toks
      match s.ticketCells part l a.tickets with
      | none => .next (s.denied false)
      | some s =>
        let s := (s.clearLanes part).countAdm part a.counts
        let s := s.onPass part l (fun q => { q with
          toks := a.toks, tickets := a.tickets, replUse := a.replUse, stage4 := true, s4At := s.stitch.count, admitted := true })
        let s := match (s.part part).step with
          | some x => if fuses x 2 then s.readResiduals part l x (leK (s.layerEnt part l)) (q.toks.filter (fun t => !t.whole)) else s
          | none => s
        .next (s.onMicro part l 0 (fun m => { m with
          start := s.stitch.count, counts := addCounts m.counts a.counts, events := m.events ++ a.events }))

end Sys2Proof.Machine
end

