-- ==== Sys2Proof/Machine/Sort.lean ====
section
/-! DEFINITION. The sorter: list order, tallies, piles and gateway piles as bytes, their layouts and content checks,
and the rows of a destination (R268 to R284, R334). -/

namespace Sys2Proof.Machine

/-! ### List order and tallies (R270, R274) -/

/-- The key order (DEST, expert, stream, position). -/
def listOrder (ks : List Ticket) : List Ticket :=
  sortBy (fun a b => decide (a.dest < b.dest ∨ (a.dest = b.dest ∧ (a.expert < b.expert ∨ (a.expert = b.expert
    ∧ (a.stream < b.stream ∨ (a.stream = b.stream ∧ a.pos ≤ b.pos))))))) ks

/-- Entries of tickets in list order: one per (DEST, expert). -/
def tallyOf : List Ticket → List TallyEnt
  | [] => []
  | k :: r =>
    match tallyOf r with
    | e :: q =>
      if e.dest = k.dest ∧ e.expert = k.expert then { e with cnt := e.cnt + 1 } :: q
      else { expert := k.expert, replica := k.replica, dest := k.dest, cnt := 1 } :: e :: q
    | [] => [{ expert := k.expert, replica := k.replica, dest := k.dest, cnt := 1 }]

/-- The tickets an entry list covers. -/
def entTickets (es : List TallyEnt) : Nat := sumNat (es.map (·.cnt))

/-- FLAGS of a header (R275). -/
def hdrFlags (gateway via mx ret : Bool) : Nat :=
  (if gateway then 1 else 0) + (if via then 2 else 0) + (if mx then 4 else 0) + (if ret then 8 else 0)

/-- The body of a tally. -/
def tallyBody (src dst l m flags stepNo g rows : Nat) (es : List TallyEnt) : Bytes :=
  tallyHead src dst l m flags stepNo g es.length (entTickets es) rows
    ++ es.flatMap (fun e => toLE 2 (e.expert + 4096 * e.replica) ++ toLE 2 e.cnt)

/-- The distinct tokens of tickets, in ascending (stream, position). -/
def tokenKeys (ks : List Ticket) : List (Nat × Nat) :=
  sortBy (fun a b => decide (a.1 < b.1 ∨ (a.1 = b.1 ∧ a.2 ≤ b.2))) (ks.map (fun k => (k.stream, k.pos))).eraseDups

/-! ### Piles (R275 to R277) -/

/-- Header, padded list and padded rows of a pile. -/
def pileBody (src dst l m flags stepNo g tickets : Nat) (list : Bytes) (rows : List Bytes) : Bytes :=
  let pl := padTo 64 list
  tallyHead src dst l m flags stepNo g (pl.length / 64) tickets rows.length ++ zeros 32 ++ pl ++ rows.flatMap (padTo 64)

/-- A wire ticket. -/
def wireTicket (w : WireRow) : Bytes := toLE 2 w.stream ++ toLE 2 (w.expert + 4096 * w.rank) ++ toLE 4 w.pos

/-- A direct pile of wire rows. -/
def directPile (src dst l m flags stepNo g : Nat) (ws : List WireRow) : Bytes :=
  pileBody src dst l m flags stepNo g ws.length (ws.flatMap wireTicket) (ws.map (·.data))

/-- An entry of a gateway pile: choices (expert, rank, destination) in ascending expert. -/
def gwEntry (r : GwRow) : Bytes :=
  padTo 8 (toLE 2 r.stream ++ toLE 1 r.choices.length ++ zeros 1 ++ toLE 4 r.pos
    ++ r.choices.flatMap (fun c => toLE 2 (c.1 + 4096 * c.2.1) ++ toLE 2 c.2.2))

/-- A gateway pile. -/
def gwPileBody (src dst l m flags stepNo g : Nat) (rs : List GwRow) : Bytes :=
  pileBody src dst l m flags stepNo g (sumNat (rs.map (·.choices.length))) (rs.flatMap gwEntry) (rs.map (·.data))

/-- The wire rows of tickets in list order, with the payload of their tokens. -/
def wireRows (toks : List Tok) (ks : List Ticket) : List WireRow :=
  (listOrder ks).map (fun k => { stream := k.stream, pos := k.pos, expert := k.expert, rank := k.rank
                                 data := ((toks.find? (fun t => t.row == k.row)).map (·.payload)).getD [] })

/-- The entries of a gateway pile for tickets bound to one pod. -/
def gwRows (toks : List Tok) (ks : List Ticket) : List GwRow :=
  (tokenKeys ks).map (fun key =>
    let mine := sortBy (fun a b => decide (a.expert ≤ b.expert)) (ks.filter (fun k => k.stream == key.1 && k.pos == key.2))
    { stream := key.1, pos := key.2, choices := mine.map (fun k => (k.expert, k.rank, k.dest))
      data := ((mine.head?.bind (fun k => toks.find? (fun t => t.row == k.row))).map (·.payload)).getD [] })

/-- The choices of gateway rows for one destination, as wire rows in the order of R270 (R278). -/
def fanRows (rs : List GwRow) (dest : Nat) : List WireRow :=
  let ws := rs.flatMap (fun r => (r.choices.filter (fun c => c.2.2 == dest)).map (fun c =>
    ({ stream := r.stream, pos := r.pos, expert := c.1, rank := c.2.1, data := r.data } : WireRow)))
  sortBy (fun a b => decide (a.expert < b.expert ∨ (a.expert = b.expert ∧ (a.stream < b.stream
    ∨ (a.stream = b.stream ∧ a.pos ≤ b.pos))))) ws

/-! ### Reading tallies and piles -/

/-- The header of a tally or pile. -/
structure PileHdr where
  src     : Nat
  dst     : Nat
  layer   : Nat
  micro   : Nat
  flags   : Nat
  stepNo  : Nat
  group   : Nat
  n       : Nat
  tickets : Nat
  rows    : Nat
  deriving DecidableEq, Repr

/-- Parse a header. -/
def parseHdr (b : Bytes) : PileHdr where
  src := fld b 0 2
  dst := fld b 2 2
  layer := fld b 4 2
  micro := fld b 6 1
  flags := fld b 7 1
  stepNo := fld b 8 8
  group := fld b 16 1
  n := fld b 18 2
  tickets := fld b 20 4
  rows := fld b 24 4

/-- Entries of a tally; `dest` finds the destination of an (expert, replica). -/
def parseEntries (b : Bytes) (dest : Nat → Nat → Nat) : List TallyEnt :=
  (List.range (fld b 18 2)).map (fun i =>
    let w := fld b (32 + 4 * i) 2
    let x := w % 4096
    let r := w / 4096 % 4
    { expert := x, replica := r, dest := dest x r, cnt := fld b (34 + 4 * i) 2 })

/-- Layout of a tally: length, flags, reserved fields (CHECK 1). -/
def tallyLayout (b : Bytes) (gateway : Bool) : Bool :=
  decide (32 ≤ b.length) && decide (b.length = 32 + 4 * fld b 18 2) && rsv b 17 1 && rsv b 28 4
    && decide (fld b 7 1 < 8) && (bit (fld b 7 1) 0 == gateway) && (!gateway || !bit (fld b 7 1) 1)
    && (List.range (fld b 18 2)).all (fun i => decide (fld b (32 + 4 * i) 2 < 16384))

/-- Content of a tally (CHECK 2): strictly ascending (DEST, expert), counts, homes accepted by `home`. -/
def tallyContent (b : Bytes) (es : List TallyEnt) (home : TallyEnt → Bool) : Bool :=
  ascending (fun x y => decide (x.dest < y.dest ∨ (x.dest = y.dest ∧ x.expert < y.expert))) es
    && es.all (fun e => within e.cnt 1 16384 && home e) && decide (entTickets es = fld b 20 4)

/-- Wire tickets of a pile list. -/
def parseWire (b : Bytes) (n : Nat) : List (Nat × Nat × Nat × Nat) :=
  (List.range n).map (fun i =>
    let w := slice b (64 + 8 * i) 8
    (fld w 0 2, fld w 4 4, fld w 2 2 % 4096, fld w 2 2 / 4096))

/-- Row i of a pile whose rows of `len` bytes start after a list of `units` 64-byte units. -/
def pileRow (b : Bytes) (units len i : Nat) : Bytes := slice b (64 + 64 * units + 64 * ceilDiv len 64 * i) len

/-- Layout of a direct pile or a return pile with rows of `len` bytes (CHECK 1). That ROWS is TICKETS a direct pile is held to
by its tally (CHECK 3). -/
def pileLayout (b : Bytes) (ret : Bool) (len : Nat) : Bool :=
  let h := parseHdr b
  decide (64 ≤ b.length) && rsv b 17 1 && rsv b 28 36 && decide (h.flags < 16) && !bit h.flags 0 && (bit h.flags 3 == ret)
    && (!ret || decide (h.rows = h.tickets)) && decide (h.n = ceilDiv (8 * h.tickets) 64)
    && decide (b.length = 64 + 64 * h.n + 64 * ceilDiv len 64 * h.rows)
    && allZero (slice b (64 + 8 * h.tickets) (64 * h.n - 8 * h.tickets))
    && (parseWire b h.tickets).all (fun w => decide (w.1 < 32768))

/-- The wire rows of a pile. -/
def parsePile (b : Bytes) (len : Nat) : List WireRow :=
  let h := parseHdr b
  let ws := parseWire b h.tickets
  (List.range ws.length).filterMap (fun i => (ws[i]?).map (fun w =>
    { stream := w.1, pos := w.2.1, expert := w.2.2.1, rank := w.2.2.2, data := pileRow b h.n len i }))

/-- Rows in the order of R270 within one destination. -/
def rowsAscend (ws : List WireRow) : Bool :=
  ascending (fun a b => decide (a.expert < b.expert ∨ (a.expert = b.expert ∧ (a.stream < b.stream
    ∨ (a.stream = b.stream ∧ a.pos < b.pos))))) ws

/-- Entries and rows of a gateway pile whose layout holds (CHECK 1), `none` otherwise. -/
def parseGwPile (b : Bytes) (len : Nat) : Option (List GwRow) :=
  let h := parseHdr b
  match parseGw b h.rows 64 with
  | none => none
  | some (rs, stop) =>
    if decide (64 ≤ b.length) && rsv b 17 1 && rsv b 28 36 && decide (h.flags < 8) && bit h.flags 0 && !bit h.flags 1
        && decide (h.n = ceilDiv (stop - 64) 64) && decide (b.length = 64 + 64 * h.n + 64 * ceilDiv len 64 * h.rows)
        && allZero (slice b stop (64 + 64 * h.n - stop)) && decide (sumNat (rs.map (·.choices.length)) = h.tickets)
        && rs.all (fun r => decide (r.stream < 32768) && r.choices.all (fun c => decide (c.2.2 < 512))) then
      some ((List.range rs.length).filterMap (fun i => (rs[i]?).map (fun r => { r with data := pileRow b h.n len i })))
    else none

/-- Content of a gateway pile (CHECK 4). -/
def gwContent (rs : List GwRow) (home : Nat → Nat → Bool) : Bool :=
  rs.all (fun r => within r.choices.length 1 16 && r.choices.all (fun c => home c.1 c.2.2))
    && ascending (fun a b => decide (a.stream < b.stream ∨ (a.stream = b.stream ∧ a.pos < b.pos))) rs

/-! ### Rows at a destination (R281, R282, R284) -/

/-- Cells of an input row and of an output row. -/
def inCells (payload k : Nat) : Nat := ceilDiv (payloadBytes payload k) 4096
def outCells (k : Nat) : Nat := ceilDiv (2 * k) 4096

/-- RMAX. -/
def rmax (payload k : Nat) : Nat := min (256 / inCells payload k) (256 / outCells k)

/-- The (expert, replica) pairs of a layer homed on a member, ascending. -/
def homedHere (self : Nat) (mp : Bytes) (experts : Nat) : List (Nat × Nat) :=
  (List.range experts).flatMap (fun x => ((List.range 4).filter (fun r => mapReplica mp x r == self)).map (fun r => (x, r)))

/-- The rows of an expert over all piles, by (source, stream, position). -/
def rowsFor (piles : List RxPile) (x : Nat) : List (Nat × WireRow) :=
  let all := piles.flatMap (fun p => (p.rows.filter (fun w => w.expert == x)).map (fun w => (p.src, w)))
  sortBy (fun a b => decide (a.1 < b.1 ∨ (a.1 = b.1 ∧ (a.2.stream < b.2.stream ∨ (a.2.stream = b.2.stream
    ∧ a.2.pos ≤ b.2.pos))))) all

/-- The entries of a work table: expert, replica and rows, in ascending (expert, replica, chunk); a homed replica with
no row has one empty entry. -/
def tableEntries (self rm : Nat) (mp : Bytes) (experts : Nat) (piles : List RxPile) :
    List (Nat × Nat × List (Nat × WireRow)) :=
  (homedHere self mp experts).flatMap (fun h =>
    let rows := rowsFor piles h.1
    if rows.isEmpty then [(h.1, h.2, [])]
    else (groupsOf (max 1 rm) (rows.length + 1) rows).map (fun g => (h.1, h.2, g)))

end Sys2Proof.Machine
end

