-- ==== Sys2Proof/Machine/Micro.lean ====
section
/-! DEFINITION. Micro-steps of a pass on a source: what becomes of tickets, the sort, tallies and piles, deferral, spill
and FINAL (R122, R251, R252, R270 to R280, R324 to R327, R337, R340, R409). -/

namespace Sys2Proof.Machine

/-! ### The constants of a layer's exchange -/

/-- What the exchange of a layer reads from its entry, profile and map. -/
structure XCfg where
  experts : Nat
  k       : Nat
  mp      : Bytes
  elastic : Bool
  mx      : Bool
  /-- bytes of a payload row, and its memory cells -/
  plen    : Nat
  cells   : Nat
  owner   : Nat
  most    : Nat
  deriving DecidableEq, Repr

/-- The constants of layer l of partition p. -/
def State.xCfg (s : State) (p l : Nat) : XCfg :=
  let e := s.layerEnt p l
  let pay := fld (s.profEnt p l) 19 1
  { experts := leExperts e, k := leK e, mp := s.mapEnt p l, elastic := s.capPolicy p l == 0, mx := pay == 1
    plen := payloadBytes pay (leK e), cells := inCells pay (leK e), owner := ownerOf (s.sect 5) p, most := s.microMax p l }

/-- The step and pass of layer l while the member takes part in it: launched, not torn down, its sources known. -/
def State.xLive (s : State) (p l : Nat) : Option (StepSt × Pass) :=
  match (s.part p).step with
  | none => none
  | some x =>
    if !x.launched || x.tornBy.isSome || x.aset.isNone then none
    else (x.passes.find? (fun q => q.layer == l && !q.ended)).map (fun q => (x, q))

/-- The member itself has left the step as a source (R418). -/
def selfOut (x : StepSt) (l : Nat) : Bool :=
  match x.withdrawn with
  | some w => decide (w ≤ l)
  | none => false

/-- A source of A_m (R325): in A, not gone, no FINAL for an earlier micro-step. -/
def liveSource (x : StepSt) (q : Pass) (self src m : Nat) : Bool :=
  (x.aset.getD []).contains src && !goneFrom x src q.layer false && !(src == self && selfOut x q.layer)
    && !q.micros.any (fun y => decide (y.m < m) && y.tallies.any (fun t => t.src == src && t.final))

/-- The members of A_m. -/
def sourcesAt (x : StepSt) (q : Pass) (self m : Nat) : List Nat :=
  (x.aset.getD []).filter (fun a => liveSource x q self a m)

/-! ### Updates of a micro-step -/

/-- Add an arrival of a source. -/
def State.addTally (s : State) (p l m : Nat) (t : RxTally) : State :=
  s.onMicro p l m (fun y => { y with tallies := y.tallies ++ [t] })

/-- Update the arrival of a source. -/
def State.onRx (s : State) (p l m src : Nat) (f : RxTally → RxTally) : State :=
  s.onMicro p l m (fun y => { y with tallies := y.tallies.map (fun t => if t.src = src then f t else t) })

/-- The arrival of a source in a micro-step. -/
def rxOf (y : Micro) (src : Nat) : Option RxTally := y.tallies.find? (fun t => t.src == src)

/-- A tally and a pile of a source that both count as arrived with no ticket. -/
def emptyRx (src via : Nat) (final : Bool) : RxTally where
  src := src
  via := via
  final := final
  entries := []
  tickets := 0
  granted := 0
  state := 2
  voided := !final
  list := none

/-- Reserve memory cells for the rows of a micro-step (R281). -/
def State.reserveFor (s : State) (p l m o n : Nat) : Option State :=
  (s.reserve o n).map (fun s => s.onMicro p l m (fun y => { y with resv := y.resv + n }))

/-- Give back up to `n` of the cells that a micro-step still has reserved. -/
def State.unreserveFor (s : State) (p l m o n : Nat) : State :=
  match s.pass p l with
  | none => s
  | some q =>
    let k := min n (microOf q m).resv
    if k = 0 then s else (s.unreserve o k).onMicro p l m (fun y => { y with resv := y.resv - k })

/-- Record a tally at a destination; a RESERVED one takes its cells with it (R281). `none` where the pools refuse. -/
def State.takeTally (s : State) (p l m : Nat) (c : XCfg) (src via : Nat) (es : List TallyEnt) : Option State :=
  let n := entTickets es
  let t : RxTally := { src := src, via := via, final := false, entries := es, tickets := n
                       granted := if c.elastic then 0 else n, state := 0, voided := false, list := none }
  if c.elastic || n == 0 then some (s.addTally p l m t)
  else (s.reserveFor p l m c.owner (n * c.cells)).map (fun s => s.addTally p l m t)

/-- Set what became of the pile toward a receiver. -/
def State.setOut (s : State) (p l m d v : Nat) : State :=
  s.onMicro p l m (fun y => { y with out := y.out.map (fun o => if o.1 = d then (d, v) else o) })

/-- What became of the pile toward a receiver; 3 where no tally went to it. -/
def outOf (y : Micro) (d : Nat) : Nat := ((y.out.find? (fun o => o.1 == d)).map (·.2)).getD 3

/-- Change the state of tickets of a pass. -/
def State.setTickets (s : State) (p l : Nat) (f : Ticket → Bool) (st : Nat) : State :=
  s.onPass p l (fun q => { q with tickets := q.tickets.map (fun k => if f k then { k with st := st } else k) })

/-! ### Tickets that leave their token (R249, R251, R337, R409) -/

/-- TOKENS entries of tickets. DESIGN CHOICE, log entry 59. -/
def ticketEvents (ks : List Ticket) (code : Nat) : List (Nat × Nat × Nat × Nat) :=
  ks.map (fun k => (k.stream, k.pos, k.rank, code))

/-- Add to count i of a micro-step. -/
def bumpCount (i n : Nat) (y : Micro) : Micro := { y with counts := setAt y.counts i (· + n) }

/-- Remove tickets from their tokens: the weights are rescaled and tokens left with none are counted (R249). `st` is the
tickets' new state, `code` their TOKENS code, `ci` their count of R390, `vb` their VARY bit. -/
def State.dropTickets (s : State) (p l m : Nat) (f : Ticket → Bool) (st code ci vb : Nat) : State :=
  match s.pass p l with
  | none => s
  | some q =>
    let hit (k : Ticket) := decide (k.st < 6) && f k
    let gone := q.tickets.filter hit
    if gone.isEmpty then s
    else
      let ks := q.tickets.map (fun k => if hit k then { k with st := st } else k)
      let rows := (gone.map (·.row)).eraseDups
      let bare (t : Tok) := rows.contains t.row && !t.emptied && !t.whole
        && !ks.any (fun k => k.row == t.row && decide (k.st < 6))
      let bares := q.toks.filter bare
      let toks := q.toks.map (fun t => if bare t then { t with emptied := true } else t)
      let ks := (q.toks.filter (fun t => rows.contains t.row)).foldl (fun ks t => regate t ks) ks
      let s := (s.onPass p l (fun q => { q with toks := toks, tickets := ks })).keepTickets p l
      let s := s.onMicro p l m (fun y =>
        let y := bumpCount 7 bares.length (bumpCount ci gone.length y)
        { y with
          vary := y.vary ||| 2 ^ vb
          events := y.events ++ ticketEvents gone code ++ bares.map (fun t => (t.stream, t.pos, 255, 2)) })
      (s.bump (rVARY_CNT p vb) gone.length).bump (rSEL_CNT p 8) bares.length

/-- The tokens of rows have lost work: counted once per token (R409). -/
def State.markLost (s : State) (p l : Nat) (rows : List Nat) : State :=
  match s.pass p l with
  | none => s
  | some q =>
    let fresh (t : Tok) := rows.contains t.row && !t.lost && !t.whole
    let n := (q.toks.filter fresh).length
    if n = 0 then s
    else
      let s := s.onPass p l (fun q => { q with toks := q.toks.map (fun t => if fresh t then { t with lost := true } else t) })
      (s.bump rTOKEN_LOSS_CNT n).raise rFLT_EVT 3

/-- Tickets are lost (R337, R409). -/
def State.loseTickets (s : State) (p l m : Nat) (f : Ticket → Bool) : State :=
  match s.pass p l with
  | none => s
  | some q =>
    let gone := q.tickets.filter (fun k => decide (k.st < 6) && f k)
    if gone.isEmpty then s
    else
      let s := (s.bump rXCH_LOST_CNT gone.length).raise rXCH_EVT 4
      (s.dropTickets p l m f 7 6 8 5).markLost p l (gone.map (·.row)).eraseDups

/-- The tickets of micro-step m on their way to a destination. -/
def wayTo (m d : Nat) (k : Ticket) : Bool := k.micro == m && k.dest == d && (k.st == 1 || k.st == 4)

/-- The tickets of micro-step m not yet sent to a destination, in list order. -/
def bound (q : Pass) (m d : Nat) : List Ticket :=
  listOrder (q.tickets.filter (fun k => k.micro == m && k.dest == d && k.st == 1))

/-- The tickets of micro-step m not yet sent to members of a pod, in list order. -/
def boundPod (q : Pass) (m pod : Nat) : List Ticket :=
  listOrder (q.tickets.filter (fun k => k.micro == m && k.dest / 32 == pod && k.st == 1))

/-! ### Piles (R275 to R280) -/

/-- Send the pile for a member of the own pod as it stands. -/
def State.sendPile (s : State) (p l m d : Nat) : State :=
  match (s.part p).step, s.pass p l with
  | some x, some q =>
    let c := s.xCfg p l
    let body := directPile s.member d l m (hdrFlags false false c.mx false) x.stepNo x.group (wireRows q.toks (bound q m d))
    let s := s.setTickets p l (fun k => k.micro == m && k.dest == d && k.st == 1) 4
    let s := if (bound q m d).isEmpty then s else s.waitFor p l m 3
    (s.setOut p l m d 1).send d p 2 (trig p l m 1) body false
  | _, _ => s

/-- Send the gateway pile as it stands, and count its deduplicated rows (R279). -/
def State.sendGwPile (s : State) (p l m gw : Nat) : State :=
  match (s.part p).step, s.pass p l with
  | some x, some q =>
    let c := s.xCfg p l
    let ks := boundPod q m (gw / 32)
    let rows := gwRows q.toks ks
    let body := gwPileBody s.member gw l m (hdrFlags true false c.mx false) x.stepNo x.group rows
    let s := s.setTickets p l (fun k => k.micro == m && k.dest / 32 == gw / 32 && k.st == 1) 4
    let s := s.bump (rSEL_CNT p 11) (ks.length - rows.length)
    let s := if ks.isEmpty then s else s.waitFor p l m 3
    (s.setOut p l m gw 1).send gw p 5 (trig p l m 5) body false
  | _, _ => s

/-- The member's own tickets go straight into its input runs (R273). -/
def State.ownPile (s : State) (p l m : Nat) : State :=
  match s.pass p l with
  | some q =>
    let c := s.xCfg p l
    let ks := bound q m s.member
    let me := s.member
    let s := s.setTickets p l (fun k => k.micro == m && k.dest == me && k.st == 1) 4
    let s := s.onRx p l m me (fun t => { t with state := 1 })
    if ks.isEmpty then s
    else s.onMicro p l m (fun y => { y with
      piles := y.piles ++ [{ src := me, via := me, mx := c.mx, rows := wireRows q.toks ks, cells := [] }] })
  | none => s

/-! ### Deferral by a grant (R252, R280) -/

/-- The `n` tickets toward a destination admitted latest. -/
def latest (q : Pass) (m d n : Nat) : List Ticket :=
  (sortBy (fun a b => decide (b.order ≤ a.order)) (bound q m d)).take n

/-- Defer `n` tickets toward a destination, those admitted latest first. -/
def State.withhold (s : State) (p l m d n : Nat) : State :=
  match s.pass p l with
  | none => s
  | some q =>
    let ks := latest q m d n
    if ks.isEmpty then s
    else
      let s := s.setTickets p l (fun k => ks.contains k) 3
      let s := s.onMicro p l m (fun y =>
        let y := bumpCount 4 ks.length y
        { y with vary := y.vary ||| 2, events := y.events ++ ticketEvents ks 4 })
      (s.bump (rSEL_CNT p 6) ks.length).bump (rVARY_CNT p 1) ks.length

/-! ### The end of the sort (R326, R327) -/

/-- Tickets toward destinations that have left the step are lost (R339, R416). -/
def State.loseGone (s : State) (p l m : Nat) : State :=
  match (s.part p).step with
  | none => s
  | some x => s.loseTickets p l m (fun k => k.micro == m && k.st == 1 && goneFrom x k.dest l true)

/-- The pile or gateway pile toward a receiver follows its tally at once, or waits for its grant (R327). -/
def State.follow (s : State) (p l m d n : Nat) (c : XCfg) : State :=
  let s := s.onMicro p l m (fun y => { y with out := y.out ++ [(d, 0)] })
  if c.elastic && decide (0 < n) then s.waitFor p l m 2
  else if d / 32 = s.pod then s.sendPile p l m d
  else s.sendGwPile p l m d

/-- The own tickets of a micro-step join the member's destination side; `none` where a reservation is refused. -/
def State.ownTally (s : State) (p l m : Nat) (c : XCfg) : Option State :=
  match s.pass p l with
  | none => none
  | some q =>
    let es := tallyOf (bound q m s.member)
    (s.takeTally p l m c s.member s.member es).map (fun s =>
      if c.elastic && !es.isEmpty then s else s.ownPile p l m)

/-- The tallies of a sorted micro-step, each with the pile that may follow it. -/
def State.spreadSort (s : State) (p l m : Nat) (x : StepSt) (c : XCfg) (gates : List (Nat × Nat × Bool)) : State :=
  let body (d : Nat) (gw : Bool) (rows : Nat) (ks : List Ticket) :=
    tallyBody s.member d l m (hdrFlags gw false c.mx false) x.stepNo x.group rows (tallyOf ks)
  let q := (s.pass p l).getD (freshPass l 0 [])
  let s := (s.podPeers.filter (fun d => !s.isDead d)).foldl (fun s d =>
    let ks := bound q m d
    (s.send d p 1 (trig p l m 0) (body d false ks.length ks) false).follow p l m d ks.length c) s
  gates.foldl (fun s g =>
    let ks := boundPod q m g.1
    let ds := (ks.map (·.dest)).eraseDups.map (fun d => (d, (ks.filter (fun k => k.dest == d)).length))
    let s := s.onMicro p l m (fun y => { y with listed := y.listed ++ ds })
    (s.send g.2.1 p 4 (trig p l m 4) (body g.2.1 true (tokenKeys ks).length ks) false).follow p l m g.2.1 ks.length c) s

/-- A sorter slice of one of the partition's clusters has a slot of the partition in this stitch (R33, R112, R114). -/
def State.sorterOpen (s : State) (p : Nat) : Bool :=
  (s.coresOf p).isEmpty || (s.coresOf p).any (fun c => s.slotOpen p (48 + c / 2))

/-- SORT_END: in a slot of the partition, while tickets may issue (R435, R437 to R439), the sorter has ordered the tickets of the current micro-step; tallies leave, and the piles that R327
allows (R270 to R277, R326). A refused reservation of own RESERVED tickets is presented again. -/
def execSortEnd (part layer : Nat) (s : State) : Host.Outcome State Fault Refusal :=
  match (s.part part).step, s.pass part layer with
  | some x, some q =>
    let m := q.lastMicro
    let y := microOf q m
    if !x.launched || x.tornBy.isSome || q.ended || !q.admitted || q.srcDone || y.sorted || selfOut x layer
        || !s.sorterOpen part || !s.mayIssue part then .next s
    else
      let c := s.xCfg part layer
      let n := (q.tickets.filter (fun k => k.micro == m && k.st == 1)).length
      let t := (s.charge 13 n).loseGone part layer m
      match t.ownTally part layer m c with
      | none => .next (s.denied true)
      | some t =>
        let gates := t.gatesOf x.group
        let t := (t.countSubst gates).onMicro part layer m (fun y => { y with sorted := true, gates := gates })
        let t := if gates.length < (t.otherPods x.group).length then t.waitFor part layer m 4 else t
        .next (t.spreadSort part layer m x c gates)
  | _, _ => .next s

/-! ### The start of a micro-step (R122, R251, R325) -/

/-- Every payload flit of the member's own piles of a micro-step is acknowledged. -/
def State.pilesAcked (s : State) (p l m : Nat) : Bool :=
  !s.link.sent.any (fun t => (t.typ == 2 || t.typ == 5) && t.src == s.member && fld t.body 0 2 == s.member
    && (t.trigger == trig p l m 1 || t.trigger == trig p l m 5))

/-- The source ends its part in the pass: FINAL for micro-step n (R325). -/
def State.endSource (s : State) (p l n : Nat) (x : StepSt) : State :=
  let gates := s.gatesOf x.group
  let most := s.microMax p l
  let me := s.member
  let s := s.onPass p l (fun q => { q with srcDone := true })
  let s := if n < most then s.addTally p l n (emptyRx me me true) else s
  (s.countSubst (if n < most then gates else [])).sendFinal p l n most x.stepNo gates

/-- MICRO_STEP_START: the next micro-step begins with the deferred tickets, or they are spilled and the source sends
FINAL. -/
def execMicroStepStart (part layer : Nat) (s : State) : Host.Outcome State Fault Refusal :=
  match s.xLive part layer with
  | none => .next s
  | some (x, q) =>
    let m := q.lastMicro
    let y := microOf q m
    if !q.admitted || q.srcDone || !y.sorted || y.out.any (fun o => o.2 == 0) || selfOut x layer
        || !y.acked then .next s
    else
      let wait := q.tickets.any (fun k => k.st == 2 || k.st == 3)
      let pr := s.profEnt part layer
      let n := m + 1
      if wait ∧ n < s.microMax part layer ∧ s.stitch.count ≤ q.start + fld pr 20 2 then
        let a := admitMicro s.member pr (s.mapEnt part layer) n q.toks q.replUse q.tickets
        let s := s.countAdm part a.counts
        let s := (s.onPass part layer (fun q => { q with tickets := a.tickets, replUse := a.replUse, lastMicro := n })).keepTickets
          part layer
        .next (s.onMicro part layer n (fun y => { y with
          start := s.stitch.count, counts := addCounts y.counts a.counts, events := y.events ++ a.events }))
      else
        let left (k : Ticket) := k.st == 2 || k.st == 3
        let k := (q.tickets.filter left).length
        let s := if k = 0 then s else (s.bump (rSEL_CNT part 7) k).raise rSEL_EVT 2
        .next ((s.dropTickets part layer m left 6 5 5 2).endSource part layer n x)

end Sys2Proof.Machine
end

