-- ==== Sys2Proof/Machine/Exchange.lean ====
section
/-! DEFINITION. The exchange of a micro-step as messages: rosters, tallies, grants, piles, returns, VOIDs and FINALs at
sources, destinations and gateways (R278, R319 to R337). -/

namespace Sys2Proof.Machine

/-! ### What a receiver does with a message (R333, R334) -/

/-- Where a message of (step, layer) stands at the receiver: 0 it is held, 1 it is stale, 2 it is consumed now. What a member
of a torn-down partition still takes it takes as a gateway (R336). -/
def State.xWhen (s : State) (p stepNo l : Nat) : Nat :=
  let y := s.part p
  match y.step with
  | none =>
    if s.stopped p then 1
    else match y.lastNo with
      | some n => if stepNo = n ∨ (!y.anyNo ∧ stepNo < n) then 1 else 0
      | none => 0
  | some x =>
    if stepNo < x.stepNo then 1
    else if x.stepNo < stepNo then (if s.stopped p then 1 else 0)
    else if x.tornBy.isNone && (!x.launched || x.aset.isNone) then 0
    else if s.pLayers p ≤ l then 1
    else match x.passes.find? (fun q => q.layer == l) with
      | some q => if q.ended then 1 else 2
      | none => if x.tornBy.isSome then 2 else if x.nextLayer ≤ l then 0 else 1

/-- The step and pass that a message meets. A torn-down partition keeps its gateway duties (R336): it opens the pass as
one without tokens. -/
def State.xOpen (s : State) (p l : Nat) : Option (State × StepSt × Pass) :=
  match (s.part p).step with
  | none => none
  | some x =>
    match x.passes.find? (fun q => q.layer == l) with
    | some q => some (s, x, q)
    | none =>
      let q := freshPass l s.stitch.count []
      some (s.onStep p (fun x => { x with passes := x.passes ++ [q] }), x, q)

/-- Discard a stale message. DEDUCED, log entry 63. -/
def State.stale (s : State) (msg : Msg) : State := (s.take msg).bump rXCH_STALE_CNT 1

/-- Discard a duplicate. -/
def State.dup (s : State) (msg : Msg) : State := (s.take msg).bump rXCH_DUP_CNT 1

/-- Take a corrupt message, record it (R334, R343). -/
def State.corrupt (s : State) (msg : Msg) (check : Nat) : State :=
  (s.take msg).markCorrupt msg check

/-- A message of the step in flight names a layer that the partition does not have (R334, R362). -/
def State.noLayer (s : State) (p stepNo l : Nat) : Bool :=
  match (s.part p).step with
  | some x => x.launched && x.stepNo == stepNo && decide (s.pLayers p ≤ l)
  | none => false

/-- A field that names a member is in range. -/
def memberOk (n : Nat) : Bool := decide (n < 512)

/-- Receive a message of a TYPE that names a step and a layer. -/
def State.receive (s : State) (msg : Msg) (typ stepNo l : Nat) (f : State → StepSt → Pass → State) : State :=
  if !(s.holds msg && msg.typ == typ && (!bit msg.flags 0 || msg.dst == s.member)) then s
  else match s.xWhen msg.owner stepNo l with
    | 0 => s
    | 1 => s.stale msg
    | _ => match s.xOpen msg.owner l with
      | some (s, x, q) => f s x q
      | none => s

/-- An earlier message of the same stream with a TYPE still waits in the inbox. -/
def State.behind (s : State) (msg : Msg) (typ : Nat) : Bool :=
  s.link.inbox.any (fun k => k.typ == typ && k.src == msg.src && k.owner == msg.owner && decide (k.msgNo < msg.msgNo))

/-- A source sent the message (directly or through a gateway) and may speak in micro-step m. A torn-down partition whose active
set was not fixed passes on what any member of the group sends. -/
def State.maySpeak (s : State) (x : StepSt) (q : Pass) (c : XCfg) (src m : Nat) : Bool :=
  decide (m < c.most) && !s.isDead src && (liveSource x q s.member src m
    || (x.tornBy.isSome && x.aset.isNone && (s.members x.group).contains src && !goneFrom x src q.layer false))

/-- The head of a message names its receiver, and its reserved bits are zero (CHECK 1; R294, R321). -/
def State.headOk (s : State) (msg : Msg) : Bool :=
  msg.dst == s.member && decide (msg.flags / 2 % 8 = 0) && (bit msg.flags 0 || decide (msg.flags / 16 = 0))
    && (msg.trigger == 0xFFFF || decide (msg.trigger < 2048))

/-! ### Rosters and FINAL (R323 to R325) -/

/-- A message that crossed the pods is passed on in the receiver's pod. -/
def State.fanOn (s : State) (msg : Msg) : State :=
  if msg.src / 32 = s.pod then s else s.fanPod msg.owner msg.typ msg.trigger msg.body

/-- ROSTER: a member's ACTIVE bit is recorded; a gateway forwards it (R323). A corrupt roster counts as ACTIVE 0
(R335). -/
def execRoster (msg : Msg) (s : State) : Host.Outcome State Fault Refusal :=
  let b := msg.body
  let p := msg.owner
  let no := fld b 0 8
  let orig := fld b 10 2
  if !(s.holds msg && msg.typ == 0x0B && (!bit msg.flags 0 || msg.dst == s.member)) then .next s
  else match (s.part p).step with
    | some x =>
      if x.stepNo < no ∧ s.stopped p then .next ((s.fanOn msg).stale msg)
      else if x.stepNo < no ∨ (!x.launched ∧ x.tornBy.isNone) then .next s
      else if no < x.stepNo then .next ((s.fanOn msg).stale msg)
      else if s.isDead orig || x.tornBy.isSome then .next ((s.fanOn msg).stale msg)
      else if x.rosters.any (fun r => r.1 == orig) then .next ((s.fanOn msg).dup msg)
      else
        let s := s.fanOn msg
        let lay := s.headOk msg && decide (b.length = 16) && rsv b 12 4
        let range := decide (fld b 9 1 ≤ 1) && fld b 8 1 == x.group && (s.members x.group).contains orig
        let s := if !lay then s.corrupt msg 1 else if !range then s.corrupt msg 7 else s.take msg
        let active := lay && range && fld b 9 1 == 1
        .next (s.onStep p (fun x => { x with rosters := x.rosters ++ [(orig, active)] }))
    | none =>
      if s.xWhen p no 0 = 1 then .next ((s.fanOn msg).stale msg) else .next s

/-- ACTIVE_SET_FIXED: the rosters of all other members of the group are here; a dead member holds no token (R323,
R326). -/
def execActiveSetFixed (part : Nat) (s : State) : Host.Outcome State Fault Refusal :=
  match (s.part part).step with
  | none => .next s
  | some x =>
    let others := (s.members x.group).filter (· ≠ s.member)
    let heard (m : Nat) := x.rosters.any (fun r => r.1 == m) || s.isDead m
    if !x.launched || x.aset.isSome || !others.all heard then .next s
    else
      let act (m : Nat) := if m = s.member then x.active else x.rosters.contains (m, true)
      .next (s.onStep part (fun x => { x with aset := some ((s.members x.group).filter act) }))

/-- A source's tally counted as void because the gateway toward it died: one that comes through a substitute before TALLY_IN
fires takes its place (R339, R340). DEDUCED, log entry 65. -/
def RxTally.lost (t : RxTally) (s : State) (src : Nat) : Bool :=
  t.voided && t.via != t.src && s.isDead t.via && t.via != src

/-- Drop such a void of a source. -/
def State.unvoid (s : State) (p l m src from_ : Nat) : State :=
  s.onMicro p l m (fun y =>
    if y.tallyIn then y else { y with tallies := y.tallies.filter (fun t => !(t.src == src && t.lost s from_)) })

/-- FINAL: the source sends nothing from this micro-step on; it counts toward both counters (R325). A corrupt FINAL is a
valid FINAL (R335). -/
def execFinalMsg (msg : Msg) (s : State) : Host.Outcome State Fault Refusal :=
  let b := msg.body
  let l := fld b 8 2
  let m := fld b 10 1
  let orig := fld b 12 2
  let when_ := s.xWhen msg.owner (fld b 0 8) l
  let s := if when_ = 1 ∧ s.holds msg ∧ msg.typ = 0x0A then s.fanOn msg else s
  if s.holds msg && msg.typ == 0x0A && (!bit msg.flags 0 || msg.dst == s.member) && s.noLayer msg.owner (fld b 0 8) l then
    .next (s.corrupt msg 7)
  else .next (s.receive msg 0x0A (fld b 0 8) l (fun s x q =>
    let p := msg.owner
    let s := s.fanOn msg
    let y := microOf q m
    let y := if y.tallyIn then y else { y with tallies := y.tallies.filter (fun t => !t.lost s msg.src) }
    if !memberOk orig || decide ((s.xCfg p l).most ≤ m) then s.corrupt msg 7
    else if x.tornBy.isSome then s.stale msg
    else if !s.maySpeak x q (s.xCfg p l) orig m then s.stale msg
    else match rxOf y orig with
      | some r => if r.final then s.dup msg else s.stale msg
      | none =>
        let lay := s.headOk msg && decide (b.length = 16) && rsv b 11 1 && rsv b 14 2
        let s := if !lay then s.corrupt msg 1 else s.take msg
        (s.unvoid p l m orig msg.src).addTally p l m (emptyRx orig msg.src true)))

/-! ### Tallies (R274, R278, R281) -/

/-- The VOID by which a destination answers a tally that it cannot serve: in place of the GRANT, or of the RETURN. -/
def State.voidBack (s : State) (p l m stepNo src via reason : Nat) (elastic : Bool) : State :=
  if elastic then s.voidGrant p via src l m stepNo reason else s.voidReturn p via src l m stepNo reason

/-- The destination of an (expert, replica) of a layer. -/
def XCfg.home (c : XCfg) (x r : Nat) : Nat := if x < c.experts then mapReplica c.mp x r else 0xFFFF

/-- TALLY: checked and counted toward TALLY_IN; under RESERVED policies its cells are reserved, and a refused request is
presented again (R281, R334). A torn-down partition discards it as stale, and sends the VOID that it then owes (R333, R336).
-/
def execTally (msg : Msg) (s : State) : Host.Outcome State Fault Refusal :=
  let b := msg.body
  let h := parseHdr b
  let p := msg.owner
  let l := h.layer
  let m := h.micro
  .next (s.receive msg 1 h.stepNo l (fun s x q =>
    let c := s.xCfg p l
    let y := microOf q m
    let y := if y.tallyIn then y else { y with tallies := y.tallies.filter (fun t => !t.lost s msg.src) }
    let s := s.unvoid p l m h.src msg.src
    if !s.maySpeak x q c h.src m then s.stale msg
    else match rxOf y h.src with
      | some r => if r.voided || r.final then s.stale msg else s.dup msg
      | none =>
        let es := parseEntries b c.home
        let bad := if !(s.headOk msg && tallyLayout b false && h.dst == s.member) then 1
          else if !tallyContent b es (fun e => e.dest == s.member) then 2 else 0
        if bad ≠ 0 then
          ((s.corrupt msg bad).addTally p l m (emptyRx h.src msg.src false)).voidBack p l m h.stepNo h.src msg.src 3 c.elastic
        else if x.tornBy.isSome then
          let s := (s.stale msg).addTally p l m (emptyRx h.src msg.src false)
          if h.tickets = 0 then s else s.voidBack p l m h.stepNo h.src msg.src 1 c.elastic
        else match s.takeTally p l m c h.src msg.src es with
          | some s => s.take msg
          | none => s.denied true))

/-- The fan-out of a gateway tally: a tally to every other member of the pod, and the gateway's own share (R278). `none`
where a reservation is refused. -/
def State.fanTally (s : State) (p l m : Nat) (x : StepSt) (c : XCfg) (src flags : Nat) (es : List TallyEnt) :
    Option State :=
  let own := es.filter (fun e => e.dest == s.member)
  let me := s.member
  let mine := if x.tornBy.isSome then
      let s := s.addTally p l m (emptyRx src me false)
      some (if own.isEmpty ∨ c.elastic then s else s.sendVoid p src 0x07 1 me l m x.stepNo src false (s.backTo src))
    else s.takeTally p l m c src me own
  mine.map (fun s =>
    let s := s.podPeers.foldl (fun s d =>
      let mes := es.filter (fun e => e.dest == d)
      s.send d p 1 (trig p l m 0)
        (tallyBody src d l m (hdrFlags false true (bit flags 2) false) x.stepNo x.group (entTickets mes) mes) false) s
    let ans := if x.tornBy.isSome && !own.isEmpty then [(me, 0, true)] else []
    let fan : GwFan := { src := src, entries := es, answers := ans, sentGrant := false, piled := false, cells := []
                         dead := false, owed := [] }
    let s := s.onMicro p l m (fun y => { y with fans := y.fans ++ [fan] })
    s.waitFan p l m (if c.elastic && !es.isEmpty then 6 else 5) src)

/-- The fan-out of a source at a gateway. -/
def fanOf (y : Micro) (src : Nat) : Option GwFan := y.fans.find? (fun f => f.src == src)

/-- Update the fan-out of a source. -/
def State.onFan (s : State) (p l m src : Nat) (f : GwFan → GwFan) : State :=
  s.onMicro p l m (fun y => { y with fans := y.fans.map (fun g => if g.src = src then f g else g) })

/-- A fan-out with no entry whose piles are not awaited any more. -/
def deadFan (src : Nat) : GwFan where
  src := src
  entries := []
  answers := []
  sentGrant := true
  piled := true
  cells := []
  dead := true
  owed := []

/-- A gateway tells its pod that a source's tally does not come. -/
def State.fanVoidTally (s : State) (p l m stepNo src reason : Nat) : State :=
  let s := s.podPeers.foldl (fun s d => s.sendVoid p d 0x01 reason src l m stepNo d false false) s
  let s := s.addTally p l m (emptyRx src s.member false)
  s.onMicro p l m (fun y => { y with fans := y.fans ++ [deadFan src] })

/-- GW_TALLY: the gateway fans the tally out (R278, R326). -/
def execGwTally (msg : Msg) (s : State) : Host.Outcome State Fault Refusal :=
  let b := msg.body
  let h := parseHdr b
  let p := msg.owner
  let l := h.layer
  let m := h.micro
  .next (s.receive msg 4 h.stepNo l (fun s x q =>
    let c := s.xCfg p l
    let y := microOf q m
    if !s.maySpeak x q c h.src m then s.stale msg
    else if (fanOf y h.src).isSome then (if y.fans.any (fun f => f.src == h.src && f.dead) then s.stale msg else s.dup msg)
    else
      let es := parseEntries b c.home
      let bad := if !(s.headOk msg && tallyLayout b true && h.dst == s.member) then 1
        else if !tallyContent b es (fun e => decide (e.dest / 32 = s.pod)) then 2 else 0
      if bad ≠ 0 then
        ((s.corrupt msg bad).fanVoidTally p l m h.stepNo h.src 3).sendVoid p h.src (if c.elastic then 0x06 else 0x04) 3 h.src
          l m h.stepNo 0xFFFF false (s.backTo h.src)
      else match s.fanTally p l m x c h.src h.flags es with
        | some s => s.take msg
        | none => s.denied true))

/-! ### Grants (R252, R326, R328, R329) -/

/-- Members in cyclic order from a position. -/
def cyclic (ms : List Nat) (k : Nat) : List Nat := ms.drop (k % max 1 ms.length) ++ ms.take (k % max 1 ms.length)

/-- Grants of (source, tickets) in turn from what is left. -/
def grantsOf : List (Nat × Nat) → Nat → List (Nat × Nat)
  | [], _ => []
  | (src, n) :: r, left => (src, min n left) :: grantsOf r (left - min n left)

/-- The memory cells that R174 would grant an owner group in one request. -/
def State.grantable (s : State) (o : Nat) : Nat :=
  if s.units.memRet ≠ 0 then 0 else s.freeCells true - s.guarded o true

/-- Give a source its grant: a GRANT to the member that sent its tally, or at once where that is the member itself. -/
def State.giveGrant (s : State) (p l m stepNo : Nat) (t : RxTally) (g : Nat) : State :=
  let me := s.member
  let s := s.onRx p l m t.src (fun t => { t with granted := g })
  let w := t.tickets - g
  if t.src = me then (s.withhold p l m me w).ownPile p l m
  else if t.via = me then s.onFan p l m t.src (fun f => { f with answers := f.answers ++ [(me, w, false)] })
  else s.send t.via p 3 (trig p l m (if t.via = t.src then 2 else 6)) (bodyGrant me t.src l m stepNo g w) (s.backTo t.via)

/-- TALLY_IN: every source of the micro-step has spoken; under ELASTIC the destination grants (R252, R326). Where every
arrival of a later micro-step is a FINAL the destination's part in the pass ends (R325). -/
def execTallyIn (part layer micro : Nat) (s : State) : Host.Outcome State Fault Refusal :=
  match s.xLive part layer with
  | none => .next s
  | some (x, q) =>
    let m := micro
    let y := microOf q m
    let src := sourcesAt x q s.member m
    let c := s.xCfg part layer
    if c.most ≤ m ∨ y.tallyIn ∨ (0 < m ∧ !(microOf q (m - 1)).tallyIn) ∨ (src.isEmpty ∧ x.aset ≠ some [])
        ∨ !src.all (fun a => (rxOf y a).isSome) then .next s
    else
      let s := s.onMicro part layer m (fun y => { y with tallyIn := true })
      let past := decide (0 < m) && y.tallies.all (fun t => t.final || (t.state == 2 && goneFrom x t.src layer false))
      if past then .next (s.onMicro part layer m (fun y => { y with pileIn := true, destDone := true }))
      else
        let s := ((s.waitFor part layer m 1).waitSince part layer (m + 1) 0 q.start).waitSince part layer (m + 1) 4 q.start
        if !c.elastic then .next s
        else
          let ms := s.members x.group
          let ts := (cyclic ms (x.stepNo % ms.length)).filterMap (fun a => rxOf y a)
          let ts := ts.filter (fun t => !t.voided && decide (0 < t.tickets))
          let cap := min 262144 (s.grantable c.owner / max 1 c.cells)
          let gs := grantsOf (ts.map (fun t => (t.src, t.tickets))) cap
          let n := sumNat (gs.map (·.2))
          match (if n = 0 then some s else s.reserveFor part layer m c.owner (n * c.cells)) with
          | none => .next s
          | some s => .next ((ts.zip gs).foldl (fun s e => s.giveGrant part layer m x.stepNo e.1 e.2.2) s)

/-- GRANT: at a source the withheld tickets are deferred and the pile leaves; at a gateway it is collected (R280, R326,
R328). A corrupt GRANT withholds every ticket (R335). -/
def execGrant (msg : Msg) (s : State) : Host.Outcome State Fault Refusal :=
  let b := msg.body
  let p := msg.owner
  let dest := fld b 0 2
  let src := fld b 2 2
  let l := fld b 4 2
  let m := fld b 6 1
  let lay (s : State) := s.headOk msg && decide (b.length = 32) && rsv b 7 1 && rsv b 24 8
  .next (s.receive msg 3 (fld b 8 8) l (fun s x q =>
    let y := microOf q m
    if src = s.member then
      let n := (bound q m dest).length
      let o := outOf y dest
      if x.tornBy.isSome ∨ !y.sorted ∨ 2 ≤ o then s.stale msg
      else if o = 1 then (if (s.xCfg p l).elastic then s.dup msg else s.stale msg)
      else
        let bad := if !lay s then 1 else if fld b 16 4 + fld b 20 4 ≠ n then 5 else 0
        let s := if bad ≠ 0 then s.corrupt msg bad else s.take msg
        (s.withhold p l m dest (if bad ≠ 0 then n else fld b 20 4)).sendPile p l m dest
    else match fanOf y src with
      | none => s.stale msg
      | some f =>
        let n := entTickets (f.entries.filter (fun e => e.dest == dest))
        if n = 0 ∨ f.sentGrant ∨ s.isDead dest then s.stale msg
        else if f.answers.any (fun a => a.1 == dest) then
          (if f.answers.any (fun a => a.1 == dest && a.2.2) then s.stale msg else s.dup msg)
        else
          let bad := if !lay s then 1 else if fld b 16 4 + fld b 20 4 ≠ n then 5 else 0
          let s := if bad ≠ 0 then s.corrupt msg bad else s.take msg
          s.onFan p l m src (fun f => { f with answers := f.answers ++ [(dest, if bad ≠ 0 then n else fld b 20 4, false)] })))

/-- The destinations that a fan-out names, ascending. -/
def fanDests (f : GwFan) : List Nat := sortBy (fun a b => decide (a ≤ b)) (f.entries.map (·.dest)).eraseDups

/-- What a gateway reports of a destination: its answer, or a VOID where it has left the step (R339). -/
def fanAnswer (x : StepSt) (l : Nat) (f : GwFan) (d : Nat) : Option (Nat × Nat × Bool) :=
  match f.answers.find? (fun a => a.1 == d) with
  | some a => some a
  | none => if goneFrom x d l true then some (d, 0, true) else none

/-- GW_COLLECT: every destination that a source's fan-out named has answered; GW_GRANT goes to the source (R326,
R329). -/
def execGwCollect (part layer micro src : Nat) (s : State) : Host.Outcome State Fault Refusal :=
  match (s.part part).step, s.pass part layer with
  | some x, some q =>
    match fanOf (microOf q micro) src with
    | none => .next s
    | some f =>
      let c := s.xCfg part layer
      let ds := fanDests f
      let as := ds.filterMap (fanAnswer x layer f)
      if !c.elastic ∨ f.dead ∨ f.sentGrant ∨ ds.isEmpty ∨ as.length ≠ ds.length then .next s
      else
        let s := s.onFan part layer micro src (fun f => { f with sentGrant := true, answers := as })
        let s := s.waitFan part layer micro 5 src
        .next (s.send src part 6 (trig part layer micro 2) (bodyGwGrant s.member src layer micro x.stepNo as) (s.backTo src))
  | _, _ => .next s

/-- Entries of a GW_GRANT: destination, withheld, void. -/
def gwEntries (b : Bytes) : List (Nat × Nat × Bool) :=
  (List.range (fld b 16 2)).map (fun i => (fld b (32 + 8 * i) 2, fld b (36 + 8 * i) 4, bit (fld b (34 + 8 * i) 2) 0))

/-- GW_GRANT: withheld tickets are deferred, those of VOID entries lost, and the gateway pile leaves (R280, R329). -/
def execGwGrant (msg : Msg) (s : State) : Host.Outcome State Fault Refusal :=
  let b := msg.body
  let p := msg.owner
  let gw := fld b 0 2
  let l := fld b 4 2
  let m := fld b 6 1
  .next (s.receive msg 6 (fld b 8 8) l (fun s x q =>
    let y := microOf q m
    let o := outOf y gw
    if x.tornBy.isSome ∨ !y.sorted ∨ 2 ≤ o then s.stale msg
    else if o = 1 then (if (s.xCfg p l).elastic then s.dup msg else s.stale msg)
    else
      let n := fld b 16 2
      let lay := s.headOk msg && fld b 2 2 == s.member && decide (32 ≤ b.length) && decide (b.length = 32 + 8 * n)
        && rsv b 7 1 && rsv b 18 14 && (List.range n).all (fun i => decide (fld b (34 + 8 * i) 2 < 2))
      let es := gwEntries b
      let mine (d : Nat) := (bound q m d).length
      let listed (d : Nat) := ((y.listed.find? (fun e => e.1 == d)).map (·.2)).getD 0
      let good := es.all (fun e => decide (0 < listed e.1) && decide (e.1 / 32 = gw / 32) && decide (e.2.1 ≤ listed e.1)
        && (!e.2.2 || e.2.1 == 0))
      let bad := if !lay then 1 else if !good then 5 else 0
      if bad ≠ 0 then
        let ds := ((boundPod q m (gw / 32)).map (·.dest)).eraseDups
        (ds.foldl (fun s d => s.withhold p l m d (mine d)) (s.corrupt msg bad)).sendGwPile p l m gw
      else
        let s := es.foldl (fun s e =>
          if e.2.2 then s.loseTickets p l m (fun k => k.micro == m && k.dest == e.1 && k.st == 1)
          else s.withhold p l m e.1 e.2.1) (s.take msg)
        s.sendGwPile p l m gw))

/-! ### Piles (R275 to R278, R326) -/

/-- The pile of a source counts as arrived with no ticket: its reservation ends, unless the runs are being taken from the
tallies already; cells left over go back with the work table. -/
def State.noPile (s : State) (p l m src : Nat) (c : XCfg) : State :=
  match (s.pass p l).bind (fun q => rxOf (microOf q m) src) with
  | none => s
  | some t =>
    let taken := ((s.pass p l).map (fun q => !(microOf q m).runs.isEmpty)).getD false
    let s := if taken then s else s.unreserveFor p l m c.owner (t.granted * c.cells)
    s.onRx p l m src (fun t => { t with state := 2, granted := 0, voided := true, list := none })

/-- The rows of a pile can be placed: there are none, or every input run exists (R281, R289, R330). -/
def canPlace (y : Micro) (ws : List WireRow) : Bool := ws.isEmpty || y.ranAll

/-- The rows of a pile are taken at the destination, with the transit rows that hold them until they are placed. -/
def State.takePile (s : State) (p l m src via : Nat) (mx : Bool) (ws : List WireRow) (cells : List Nat) : State :=
  let s := s.onRx p l m src (fun t => { t with state := 1 })
  if ws.isEmpty then s
  else s.onMicro p l m (fun y => { y with piles := y.piles ++ [{ src := src, via := via, mx := mx, rows := ws, cells := cells }] })

/-- A pile of a layout that holds, by its tally (CHECK 3, and CHECK 1 where ROWS is not TICKETS). -/
def pileCheck (t : RxTally) (h : PileHdr) (ws : List WireRow) : Nat :=
  if t.tickets < h.tickets ∨ t.tickets < h.rows then 3
  else if h.rows ≠ h.tickets then 1
  else if rowsAscend ws && ws.all (fun w => t.entries.any (fun e => e.expert == w.expert)) then 0 else 3

/-- PILE (R334, R335). A pile behind a tally that still waits for its reservation waits with it, and so does one whose
input runs do not exist yet (R289); staging cells that its rows took meanwhile are free once they are placed (R330). -/
def execPile (msg : Msg) (s : State) : Host.Outcome State Fault Refusal :=
  let b := msg.body
  let h := parseHdr b
  let p := msg.owner
  let l := h.layer
  let m := h.micro
  .next (s.receive msg 2 h.stepNo l (fun s x q =>
    let c := s.xCfg p l
    match rxOf (microOf q m) h.src with
    | none => if s.behind msg 1 then s else s.stale msg
    | some t =>
      if x.tornBy.isSome ∨ t.state = 2 ∨ !s.maySpeak x q c h.src m then s.stale msg
      else if t.state = 1 then s.dup msg
      else
        let ws := parsePile b c.plen
        let bad := if !(s.headOk msg && h.dst == s.member && pileLayout b false c.plen) then 1 else pileCheck t h ws
        if bad ≠ 0 then
          ((s.corrupt msg bad).noPile p l m h.src c).voidReturn p t.via h.src l m h.stepNo 3
        else if canPlace (microOf q m) ws then (s.take msg).takePile p l m h.src msg.src (bit h.flags 2) ws []
        else s))

/-- Transit buffers of the system owner for the rows of a gateway pile, one for each row with REF equal to its NDEST, as far
as the pools grant them; rows that came before the last flit may have theirs already (R173, R278). -/
def State.transitRows (s : State) (p l m src len : Nat) : List GwRow → State
  | [] => s
  | r :: rs =>
    match s.allocStage (ownerOf (s.sect 5) sysOwner) (ceilDiv len 256) r.choices.length none
        (s.passPoison p l) r.data (.linkEntry sysOwner true) with
    | some (id, t) => (t.onFan p l m src (fun f => { f with cells := f.cells ++ [id] })).transitRows p l m src len rs
    | none => s.denied false

/-- The transit buffers of the rows that a destination's choices name, once for each choice. -/
def fanCells (rs : List GwRow) (cells : List Nat) (d : Nat) : List Nat :=
  (rs.zip cells).flatMap (fun e => ((e.1.choices.filter (fun c => c.2.2 == d)).map (fun _ => e.2)))

/-- The fan-out piles of a gateway pile; the choices for the gateway itself join its own input runs. Each consumer releases
the rows it names: with the acknowledgement of its pile, or when they are placed (R278). DEDUCED, log entry 104. -/
def State.fanPiles (s : State) (p l m : Nat) (x : StepSt) (f : GwFan) (mx : Bool) (rs : List GwRow) : State :=
  let me := s.member
  let voided (d : Nat) := f.answers.any (fun a => a.1 == d && a.2.2) || s.isDead d
  let s := s.podPeers.foldl (fun s d =>
    let cells := fanCells rs f.cells d
    if voided d then cells.foldl State.releaseId s
    else s.sendWith cells d p 2 (trig p l m 1)
      (directPile f.src d l m (hdrFlags false true mx false) x.stepNo x.group (fanRows rs d)) false) s
  let own := fanCells rs f.cells me
  let s := match (s.pass p l).bind (fun q => rxOf (microOf q m) f.src) with
    | some t => if t.state = 0 then s.takePile p l m f.src me mx (fanRows rs me) own else own.foldl State.releaseId s
    | none => own.foldl State.releaseId s
  let owed := s.podPeers.filter (fun d => !voided d && rs.any (fun r => r.choices.any (fun c => c.2.2 == d)))
  let s := s.onFan p l m f.src (fun g => { g with piled := true, cells := [], owed := owed })
  if owed.isEmpty then s else s.waitFan p l m 7 f.src

/-- The fan-out of a gateway pile that does not come: a VOID to each destination tallied with tickets, an empty pile to
the others (R335, R336). -/
def State.fanNoPiles (s : State) (p l m : Nat) (x : StepSt) (c : XCfg) (f : GwFan) (reason : Nat) : State :=
  let named (d : Nat) := f.entries.any (fun e => e.dest == d)
  let voided (d : Nat) := f.answers.any (fun a => a.1 == d && a.2.2)
  let s := s.podPeers.foldl (fun s d =>
    if !named d then
      s.send d p 2 (trig p l m 1) (directPile f.src d l m (hdrFlags false true c.mx false) x.stepNo x.group []) false
    else if voided d then s
    else s.sendVoid p d 0x02 reason f.src l m x.stepNo d false false) s
  let s := match (s.pass p l).bind (fun q => rxOf (microOf q m) f.src) with
    | some t => if t.state ≠ 0 then s else if named s.member then s.noPile p l m f.src c
      else s.onRx p l m f.src (fun t => { t with state := 1 })
    | none => s
  s.onFan p l m f.src (fun g => { g with piled := true, dead := true })

/-- GW_PILE: the gateway fans the pile out (R278, R326, R334). -/
def execGwPile (msg : Msg) (s : State) : Host.Outcome State Fault Refusal :=
  let b := msg.body
  let h := parseHdr b
  let p := msg.owner
  let l := h.layer
  let m := h.micro
  .next (s.receive msg 5 h.stepNo l (fun s x q =>
    let c := s.xCfg p l
    match fanOf (microOf q m) h.src with
    | none => if s.behind msg 4 then s else s.stale msg
    | some f =>
      if f.dead ∨ !(x.aset.getD []).contains h.src ∨ goneFrom x h.src l false then s.stale msg
      else if f.piled then s.dup msg
      else
        let rs := parseGwPile b c.plen
        let homes (e d : Nat) := decide (d / 32 = s.pod) && (replicasOf c.mp e).contains d && decide (e < c.experts)
        let bad := if !(s.headOk msg && h.dst == s.member && rs.isSome) then 1
          else if !gwContent (rs.getD []) homes then 4 else 0
        if bad ≠ 0 then
          ((s.corrupt msg bad).fanNoPiles p l m x c f 3).sendVoid p h.src 0x05 3 h.src l m h.stepNo 0xFFFF false
            (s.backTo h.src)
        else
          let rows := rs.getD []
          let (came, s) := s.claim msg
          let s := s.onFan p l m h.src (fun f => { f with cells := f.cells ++ came })
          let s := s.transitRows p l m h.src c.plen (rows.drop (f.cells ++ came).length)
          match (s.pass p l).bind (fun q => fanOf (microOf q m) h.src) with
          | some g => if g.cells.length < rows.length then s else (s.take msg).fanPiles p l m x g (bit h.flags 2) rows
          | none => s))

/-! ### Returns (R287, R331, R332) -/

/-- The buffer of a returned row: the one it took as it arrived, or a new one; `none` where the pools refuse. -/
def State.returnCell (s : State) (p l k : Nat) (t : Ticket) (row : Bytes) (came : Option Nat) : Option (Nat × State) :=
  match came with
  | some id => some (id, s)
  | none => s.allocStage (ownerOf (s.sect 5) p) (ceilDiv (2 * k) 256) 1 (some (p, l)) false row (.returned p l t.row t.expert)

/-- Store returned rows with their tickets, each in a chain of its own; `none` where the pools refuse. The destination is
`d`; `rows` are in list order, `came` the buffers that the first of them took as they arrived (R299).
DEDUCED, log entry 64. -/
def State.storeReturns (s : State) (p l m d k : Nat) (rows : List Bytes) (came : List Nat) : Option State :=
  match s.pass p l with
  | none => some s
  | some q =>
    let ks := listOrder (q.tickets.filter (fun t => t.micro == m && t.dest == d && t.st == 4))
    (List.range (min ks.length rows.length)).foldl (fun (a : Option State) i => a.bind (fun s =>
      let row := rows.getD i []
      match ks[i]? with
      | none => some s
      | some e =>
        if q.toks.any (fun t => t.row == e.row && t.whole) then
          some ((came[i]?.toList.foldl State.releaseId s).setTickets p l (fun t => t == e) 5)
        else (s.returnCell p l k e row came[i]?).map (fun r =>
          r.2.onPass p l (fun q => { q with tickets := q.tickets.map (fun t =>
            if t = e then { t with st := 5, out := row, chain := some r.1 } else t) })))) (some s)

/-- A return of a destination is counted. -/
def State.countReturn (s : State) (p l m d : Nat) : State :=
  s.onMicro p l m (fun y => { y with retRx := y.retRx ++ [d] })

/-- RETURN at its source: the rows are matched to their tickets by position (R287, R332). A corrupt return loses the
tickets of its pile (R335). -/
def execReturnPile (msg : Msg) (s : State) : Host.Outcome State Fault Refusal :=
  let b := msg.body
  let h := parseHdr b
  let p := msg.owner
  let l := h.layer
  let m := h.micro
  if h.src ≠ s.member then .next s
  else .next (s.receive msg 7 h.stepNo l (fun s x q =>
    let c := s.xCfg p l
    let y := microOf q m
    let ks := listOrder (q.tickets.filter (fun t => t.micro == m && t.dest == h.dst && t.st == 4))
    if x.tornBy.isSome then s.stale msg
    else if y.voidRx.contains h.dst || s.isDead h.dst then s.stale msg
    else if y.retRx.contains h.dst then s.dup msg
    else if ks.isEmpty then s.stale msg
    else
      let ws := parsePile b (2 * c.k)
      let same := ws.map (fun w => (w.stream, w.pos, w.expert, w.rank)) == ks.map (fun t => (t.stream, t.pos, t.expert, t.rank))
      let bad := if !(s.headOk msg && pileLayout b true (2 * c.k)) then 1 else if !same then 6 else 0
      if bad ≠ 0 then
        ((s.corrupt msg bad).loseTickets p l m (fun t => t.micro == m && t.dest == h.dst && t.st == 4)).countReturn p l m h.dst
      else
        let (came, t) := s.claim msg
        match t.storeReturns p l m h.dst c.k (ws.map (·.data)) came with
        | some t => (t.take msg).countReturn p l m h.dst
        | none => s.denied false))

/-- A RETURN of the same owner toward the same pod began to arrive before this one, and has not begun to leave (R331). -/
def State.returnBefore (s : State) (msg : Msg) (src : Nat) : Bool :=
  (s.link.slots.takeWhile (fun h => !holdIs msg h)).any (fun h =>
    h.transit && h.typ == 7 && h.fate == 0 && h.owner == msg.owner && h.goal / 32 == src / 32)

/-- A RETURN, or a VOID in its place, of a destination for a source has reached its gateway (R331, R341). -/
def State.wentBack (s : State) (p l m src dest : Nat) : State :=
  s.onFan p l m src (fun f => { f with owed := f.owed.filter (· ≠ dest) })

/-- GW_RETURN: a gateway forwards a RETURN to the source its header names, unchanged and unchecked, its flits as they arrive
and in the order of the first flits (R326, R331). That of a dead member is stale (R333). It forwards also where its own part in
the pass has ended. DEDUCED, log entry 63. -/
def execGwReturn (msg : Msg) (s : State) : Host.Outcome State Fault Refusal :=
  let h := parseHdr msg.body
  let src := h.src
  let fresh := !s.link.slots.any (fun h => holdIs msg h && h.fate != 0)
  if !(s.holds msg && msg.typ == 7 && (!bit msg.flags 0 || msg.dst == s.member)) || src == s.member
      || s.returnBefore msg src || !fresh then .next s
  else if s.isDead h.dst then .next ((s.discard msg).bump rXCH_STALE_CNT 1)
  else
    let go (s : State) (len : Nat) (body : Bytes) (via : Option MsgKey) (cells : List Nat) : State :=
      (s.wentBack msg.owner h.layer h.micro src h.dst).sendOn
        { chan := 0, owner := msg.owner, typ := 7, flags := 0, src := 0, dst := src, trigger := msg.trigger, msgNo := 0
          len := len, body := body, via := via, lastX := 0, chains := cells } (s.backTo src)
    match s.passOn msg go with
    | some s => .next s
    | none => .next s.handOver

/-- RETURN_IN: every ticket of the micro-step is back; rows held in the memory pool are read for Fold (R326, R332). -/
def execReturnIn (part layer micro : Nat) (s : State) : Host.Outcome State Fault Refusal :=
  match s.xLive part layer with
  | none => .next s
  | some (_, q) =>
    let y := microOf q micro
    let ks := q.tickets.filter (fun t => t.micro == micro)
    if y.returnsDone ∨ !y.sorted ∨ y.out.any (fun o => o.2 == 0) ∨ ks.any (fun t => t.st == 1 || t.st == 4) then .next s
    else
      let s := s.onMicro part layer micro (fun y => { y with returnsDone := true })
      .next (ks.foldl (fun s t =>
        match t.chain.bind s.chainOf with
        | some c => (c.cells.filter (·.1)).foldl (fun s k =>
            s.issueRead (s.cellAddr k.2) 4096 (.returned part layer t.row t.expert)) (s.readLinks c c.cells.length)
        | none => s) s)

/-! ### VOIDs (R336, R337) -/

/-- What a VOID does at its receiver, `none` where the receiver does not await what it stands for. -/
def State.void (s : State) (x : StepSt) (q : Pass) (msg : Msg) (reason : Nat) : Option State :=
  let b := msg.body
  let p := msg.owner
  let l := q.layer
  let rep := fld b 0 1
  let subj := fld b 2 2
  let m := fld b 6 1
  let party := fld b 16 2
  let c := s.xCfg p l
  let y := microOf q m
  let me := s.member
  let torn := x.tornBy.isSome
  let source := subj == me && !torn
  match rep with
  | 0x01 => if torn ∨ !s.maySpeak x q c subj m ∨ (rxOf y subj).isSome then none
      else some (s.addTally p l m (emptyRx subj msg.src false))
  | 0x02 => match rxOf y subj with
      | some t => if t.state = 0 ∧ !torn ∧ !s.isDead subj then some (s.noPile p l m subj c) else none
      | none => none
  | 0x03 =>
    if s.isDead party then none
    else if subj = me then
      if source && outOf y party == 0 then
        some ((s.loseTickets p l m (fun k => k.micro == m && k.dest == party && k.st == 1)).setOut p l m party 2)
      else none
    else match fanOf y subj with
      | some f =>
        if !f.sentGrant && f.entries.any (fun e => e.dest == party) && !f.answers.any (fun a => a.1 == party) then
          some (s.onFan p l m subj (fun f => { f with answers := f.answers ++ [(party, 0, true)] }))
        else none
      | none => none
  | 0x06 =>
    if source && outOf y msg.src == 0 && !s.isDead msg.src then
      some ((s.loseTickets p l m (fun k => k.micro == m && k.dest / 32 == msg.src / 32 && k.st == 1)).setOut p l m msg.src 2)
    else none
  | 0x07 =>
    if !torn && !s.isDead subj && !y.retRx.contains subj && q.tickets.any (fun k => k.micro == m && k.dest == subj && k.st == 4) then
      some (((s.loseTickets p l m (fun k => k.micro == m && k.dest == subj && k.st == 4)).countReturn p l m subj).onMicro p l m
        (fun y => { y with voidRx := y.voidRx ++ [subj] }))
    else none
  | _ =>
    if subj = me then
      let hit (k : Ticket) := k.micro == m && k.dest / 32 == msg.src / 32 && (k.st == 1 || k.st == 4)
      if source && !s.isDead msg.src && y.sorted && decide (outOf y msg.src ≤ 1) && q.tickets.any hit then
        some ((s.loseTickets p l m hit).setOut p l m msg.src 2)
      else none
    else if rep = 0x04 then
      if !s.maySpeak x q c subj m ∨ (fanOf y subj).isSome then none
      else some (s.fanVoidTally p l m x.stepNo subj reason)
    else match fanOf y subj with
      | some f => if f.piled || f.dead || s.isDead subj then none else some (s.fanNoPiles p l m x c f reason)
      | none => none

/-- VOID: it counts toward the handler of the message it replaces; one in place of a RETURN owed to another member is
forwarded (R331, R336). A corrupt VOID acts as one with REASON 3 (R335). -/
def execVoidMsg (msg : Msg) (s : State) : Host.Outcome State Fault Refusal :=
  let b := msg.body
  let party := fld b 16 2
  if s.holds msg && msg.typ == 9 && (!bit msg.flags 0 || msg.dst == s.member) && fld b 0 1 == 7 && party != s.member then
    if s.isDead (fld b 2 2) then .next (s.stale msg)
    else .next ((((s.take msg).wentBack msg.owner (fld b 4 2) (fld b 6 1) party (fld b 2 2)).bump rXCH_VOID_CNT 1).send
      party msg.owner 9 msg.trigger b (s.backTo party))
  else if s.holds msg && msg.typ == 9 && (!bit msg.flags 0 || msg.dst == s.member) && s.noLayer msg.owner (fld b 8 8) (fld b 4 2) then
    .next (s.corrupt msg 7)
  else .next (s.receive msg 9 (fld b 8 8) (fld b 4 2) (fun s x q =>
    let lay := s.headOk msg && decide (b.length = 32) && rsv b 7 1 && rsv b 18 14
    let range := within (fld b 0 1) 1 7 && within (fld b 1 1) 1 3 && memberOk (fld b 2 2)
      && decide (fld b 6 1 < (s.xCfg msg.owner (fld b 4 2)).most) && (memberOk party || party == 0xFFFF)
    let reason := if lay && range then fld b 1 1 else 3
    match (if within (fld b 0 1) 1 7 then s.void x q msg reason else none) with
    | some t => if !lay then t.corrupt msg 1 else if !range then t.corrupt msg 7 else t.take msg
    | none => if lay && range then s.stale msg else s.corrupt msg (if lay then 7 else 1)))

end Sys2Proof.Machine
end

