-- ==== Sys2Proof/Machine/WorkTabs.lean ====
section
/-! DEFINITION. Destinations: input runs, work tables, the engines' completions and the returns (R281 to R289). -/

namespace Sys2Proof.Machine

/-! ### Input runs (R281, R282) -/

/-- The entries of the work table of a micro-step: expert, replica, rows with their sources. -/
def State.entriesOf (s : State) (p l : Nat) (y : Micro) : List (Nat × Nat × List (Nat × WireRow)) :=
  let c := s.xCfg p l
  tableEntries s.member (rmax (fld (s.profEnt p l) 19 1) c.k) c.mp c.experts y.piles

/-- Entries that need a run. -/
def filled (es : List (Nat × Nat × List (Nat × WireRow))) : List (Nat × Nat × List (Nat × WireRow)) :=
  es.filter (fun e => !e.2.2.isEmpty)

/-- The list of every pile of the micro-step is here or accounted for (R276, R330). -/
def listsIn (x : StepSt) (q : Pass) (y : Micro) (self : Nat) : Bool :=
  y.tallyIn && !y.pileIn && y.tallies.all (fun t => t.state != 0 || t.list.isSome)
    && (sourcesAt x q self y.m).all (fun a => (rxOf y a).isSome)

/-- Every pile of the micro-step is here or accounted for. -/
def pilesIn (x : StepSt) (q : Pass) (y : Micro) (self : Nat) : Bool :=
  y.tallyIn && !y.pileIn && y.tallies.all (fun t => t.state != 0)
    && (sourcesAt x q self y.m).all (fun a => (rxOf y a).isSome)

/-- Entry sizes for given rows of each expert: expert, replica and rows, in ascending (expert, replica, chunk) (R281, R282). -/
def State.sizesOf (s : State) (p l : Nat) (rows : Nat → Nat) : List (Nat × Nat × Nat) :=
  let c := s.xCfg p l
  let rm := max 1 (rmax (fld (s.profEnt p l) 19 1) c.k)
  (homedHere s.member c.mp c.experts).flatMap (fun h =>
    (List.range (ceilDiv (rows h.1) rm)).map (fun i => (h.1, h.2, min rm (rows h.1 - rm * i))))

/-- The rows of an expert that the tallies give. -/
def tallyRows (y : Micro) (e : Nat) : Nat :=
  sumNat ((y.tallies.filter (fun t => !t.voided)).map (fun t =>
    sumNat ((t.entries.filter (fun k => k.expert == e)).map (·.cnt))))

/-- The rows of an expert that the lists of the piles give. -/
def listRows (y : Micro) (e : Nat) : Nat :=
  sumNat (y.piles.map (fun r => (r.rows.filter (fun w => w.expert == e)).length))
    + sumNat ((y.tallies.filter (fun t => t.state == 0)).map (fun t => ((t.list.getD []).filter (· == e)).length))

/-- The entry sizes as they are known: from the tallies where no ticket was withheld, else from the pile lists (R281,
R330); `none` while they are not. -/
def State.runSizes (s : State) (p l : Nat) (x : StepSt) (q : Pass) (y : Micro) : Option (List (Nat × Nat × Nat)) :=
  if !y.tallyIn || y.pileIn then none
  else if !withheldAny y then some (s.sizesOf p l (tallyRows y))
  else if listsIn x q y s.member then some (s.sizesOf p l (listRows y))
  else none

/-- The entry at an index is the `n`-th of its expert and replica, from 0. -/
def chunkNo (es : List (Nat × Nat)) (i : Nat) : Nat :=
  ((es.take i).filter (fun e => e == es.getD i (0, 0))).length

/-- The input run of the `n`-th entry of an expert and replica. -/
def runOf (y : Micro) (x r n : Nat) : Option Nat :=
  ((y.runs.filter (fun e => e.1 == x && e.2.1 == r))[n]?).map (fun e => e.2.2.2)

/-- Take a run for each entry that has none yet, in order, as far as runs of their sizes are free. -/
def State.takeRuns (s : State) (p l m : Nat) (c : XCfg) : List (Nat × Nat × Nat) → State
  | [] => s
  | (x, r, n) :: es =>
    match s.runFromReserved c.owner (n * c.cells) (some (p, l)) with
    | none => s
    | some (id, s) =>
      (s.onMicro p l m (fun y => { y with runs := y.runs ++ [(x, r, n, id)], resv := y.resv - n * c.cells })).takeRuns
        p l m c es

/-- Every entry that needs an input run has one: rows may be placed from now on. -/
def State.noteRuns (s : State) (p l m n : Nat) : State :=
  s.onMicro p l m (fun y => { y with ranAll := decide (n ≤ y.runs.length) })

/-- INPUT_RUN_ALLOC: the reservation of a micro-step becomes one run per work-table entry, in ascending (expert,
replica, chunk), once their sizes are known; a run that finds no free place is presented again (R281). Rows that waited in
receive slots or in staging cells go into the runs (R289, R330). -/
def execInputRunAlloc (part layer micro : Nat) (s : State) : Host.Outcome State Fault Refusal :=
  match s.xLive part layer with
  | none => .next s
  | some (x, q) =>
    let y := microOf q micro
    match s.runSizes part layer x q y with
    | none => .next s
    | some es =>
      let keys := es.map (fun e => (e.1, e.2.1))
      let miss := (List.range es.length).filter (fun i =>
        let e := es.getD i (0, 0, 0)
        (runOf y e.1 e.2.1 (chunkNo keys i)).isNone)
      let s := s.takeRuns part layer micro (s.xCfg part layer) (miss.map (fun i => es.getD i (0, 0, 0)))
      .next (s.noteRuns part layer micro es.length).handOver

/-! ### Work tables (R284, R285) -/

/-- The header of a table. -/
def tableHead (tag l m : Nat) (mx : Bool) (stepNo entries rows k inS outS p : Nat) : Bytes :=
  toLE 4 tag ++ toLE 2 l ++ toLE 1 m ++ toLE 1 (if mx then 1 else 0) ++ toLE 8 stepNo ++ toLE 4 entries ++ toLE 4 rows
    ++ toLE 4 k ++ toLE 4 inS ++ toLE 4 outS ++ toLE 1 p ++ zeros 27

/-- An entry of a table. -/
def tableEntry (x r cnt inp out handle : Nat) : Bytes :=
  toLE 2 x ++ toLE 1 r ++ zeros 1 ++ toLE 4 cnt ++ toLE 8 inp ++ toLE 8 out ++ toLE 8 handle

/-- The next tag: a 32-bit counter that skips 0. -/
def tagAfter (t : Nat) : Nat := if t + 1 = 2 ^ 32 then 1 else t + 1

/-- One CONTIG run per size, in order, up to the first that is refused (R176, R284). -/
def State.allocRuns (s : State) (o : Nat) (pass : Option (Nat × Nat)) : List Nat → List Nat × State
  | [] => ([], s)
  | n :: r =>
    match s.allocMem o n 1 true pass false [] with
    | none => ([], s.denied true)
    | some (id, t) =>
      let q := t.allocRuns o pass r
      (id :: q.1, q.2)

/-- The work-ready notification of a table (R285); it leaves once the writes of the table are visible. -/
def State.tableNote (s : State) (p : Nat) (eng : Bytes) (addr tag entries rows : Nat) : State :=
  let note : Note := { kind := 1, key := tag, gen2 := bit (fld eng 2 1) 0, dom := 1, addr := fld eng 8 8, held := true
                       data := toLE 8 addr ++ toLE 4 tag ++ toLE 1 (fld eng 1 1) ++ toLE 1 p ++ zeros 2
                         ++ toLE 4 entries ++ toLE 4 rows }
  { s with seam := { s.seam with notes := s.seam.notes ++ [note] } }

/-- A handle of an array of handles at a logical address (R283, R345). -/
def State.handle (s : State) (p addr : Nat) : Nat := fld (s.rd ((s.tr p addr 8 2).getD 0) 8) 0 8

/-- Write a table with its input rows and queue its notification. `ents` are (expert, replica, rows, input chain, output
chain, handle), `rows` the rows of all entries in order with their identities. -/
def State.writeTable (s : State) (p l m : Nat) (x : StepSt) (shared : Bool) (tab : Nat)
    (ents : List (Nat × Nat × Nat × Nat × Nat × Nat)) (datas : List (List Bytes)) (ids : List (Nat × Nat × Nat × Nat)) :
    State :=
  let c := s.xCfg p l
  let tag := s.nextTag
  let inS := 4096 * c.cells
  let outS := 4096 * outCells c.k
  let addr := s.runAddr tab
  let rows := sumNat (ents.map (·.2.2.1))
  let inAt (s : State) (e : Nat × Nat × Nat × Nat × Nat × Nat) := if e.2.2.1 = 0 then 0 else s.runAddr e.2.2.2.1
  let outAt (s : State) (e : Nat × Nat × Nat × Nat × Nat × Nat) := if e.2.2.1 = 0 then 0 else s.runAddr e.2.2.2.2.1
  let body := tableHead tag l m c.mx x.stepNo ents.length rows c.k inS outS p
    ++ ents.flatMap (fun e => tableEntry e.1 e.2.1 e.2.2.1 (inAt s e) (outAt s e) e.2.2.2.2.2)
  let t : WorkTab := { tag := tag, part := p, engq := fld x.engRec 1 1, layer := l, micro := m, shared := shared, addr := addr
                       chain := tab, rowIds := ids, outStride := outS, notified := false, answered := false
                       entries := ents.map (fun e => (e.1, e.2.1, e.2.2.1, e.2.2.2.1, e.2.2.2.2.1, outAt s e)) }
  let s := { s with nextTag := tagAfter tag, tabs := s.tabs ++ [t] }
  let s := (ents.zip datas).foldl (fun s e => (List.range e.2.length).foldl (fun s i =>
    s.wr (inAt s e.1 + inS * i) (e.2.getD i []) (.workTable tag)) s) s
  let s := s.wr addr body (.workTable tag)
  s.tableNote p x.engRec addr tag ents.length rows

/-- Cells of a table run. -/
def tableCells (entries : Nat) : Nat := ceilDiv (64 + 32 * entries) 4096

/-- A buffer is poisoned. -/
def State.dirtyChain (s : State) (id : Nat) : Bool := (s.chainOf id).any (fun c => !c.poison.isEmpty)

/-- POISON in every cell of a chain, in its link entries too (R171, R179). -/
def State.taint (s : State) (id : Nat) : State :=
  match s.chainOf id with
  | some c => s.setChain { c with poison := c.cells }
  | none => s

/-- An input run into which a row of a poisoned transit buffer was placed is poisoned (R179). `ents` are the table's entries
with their rows. -/
def State.taintRuns (s : State) (y : Micro) (ents : List (Nat × List (Nat × WireRow))) : State :=
  let bad := (y.piles.filter (fun r => r.cells.any s.dirtyChain)).map (·.src)
  (ents.filter (fun e => e.2.any (fun w => bad.contains w.1))).foldl (fun s e => s.taint e.1) s

/-- The rows of a micro-step are placed: the buffers that held them and the input runs no entry uses are freed, and the
reservation that is left goes back (R278, R281, R330). -/
def State.placed (s : State) (p l m : Nat) (used : List Nat) : State :=
  match s.pass p l with
  | none => s
  | some q =>
    let y := microOf q m
    let s := (y.piles.flatMap (·.cells)).foldl State.releaseId s
    let s := ((y.runs.map (fun r => r.2.2.2)).filter (fun id => !used.contains id)).foldl State.freeChain s
    (s.unreserveFor p l m (s.xCfg p l).owner y.resv).onMicro p l m (fun y => { y with
      pileIn := true, piles := y.piles.map (fun r => { r with cells := [] }) })

/-- PILE_IN: the rows are placed and the work table is written; a member that homes no replica of the layer's experts
writes none. A table or output run that is refused is presented again (R284). -/
def execPileIn (part layer micro : Nat) (s : State) : Host.Outcome State Fault Refusal :=
  match s.xLive part layer with
  | none => .next s
  | some (x, q) =>
    let y := microOf q micro
    let c := s.xCfg part layer
    let es := s.entriesOf part layer y
    let keys := (filled es).map (fun e => (e.1, e.2.1))
    let ins := (List.range keys.length).map (fun i =>
      runOf y (keys.getD i (0, 0)).1 (keys.getD i (0, 0)).2 (chunkNo keys i))
    if !pilesIn x q y s.member || !ins.all (·.isSome) then .next s
    else if es.isEmpty then
      .next ((s.placed part layer micro []).onMicro part layer micro (fun y => { y with destDone := true }))
    else
      let sizes := tableCells es.length :: (filled es).map (fun e => e.2.2.length * outCells c.k)
      let (more, s) := s.allocRuns c.owner (some (part, layer)) (sizes.drop y.tabRuns.length)
      let got := y.tabRuns ++ more
      let s := s.onMicro part layer micro (fun y => { y with tabRuns := got })
      if got.length < sizes.length then .next s
      else
        let wh := fld x.engRec 16 8
        let at_ (i : Nat) := ((filled (es.take i)).length)
        let ents := (List.range es.length).map (fun i =>
          let e := es.getD i (0, 0, [])
          let j := at_ i
          let some_ (id : Nat) := if e.2.2.isEmpty then 0 else id
          (e.1, e.2.1, e.2.2.length, some_ ((ins.getD j none).getD 0), some_ (got.getD (j + 1) 0),
            s.handle part (wh + 8 * (4096 * layer + e.1))))
        let ids := es.flatMap (fun e => e.2.2.map (fun w => (w.1, w.2.stream, w.2.pos, e.1)))
        let tag := s.nextTag
        let s := s.taintRuns y ((List.range es.length).map (fun i =>
          ((ents.getD i (0, 0, 0, 0, 0, 0)).2.2.2.1, (es.getD i (0, 0, [])).2.2)))
        let s := s.writeTable part layer micro x false (got.headD 0) ents (es.map (fun e => e.2.2.map (fun w => w.2.data))) ids
        .next ((s.placed part layer micro (ins.filterMap id)).onMicro part layer micro (fun y => { y with tableTag := some tag }))

/-! ### Completions (R286 to R289, R352) -/

/-- The output addresses of a table's rows, in the order of their identities. -/
def outAddrs (t : WorkTab) : List Nat :=
  t.entries.flatMap (fun e => (List.range e.2.2.1).map (fun i => e.2.2.2.2.2 + t.outStride * i))

/-- The output address of a row: source, stream, position, expert. -/
def outRow (t : WorkTab) (id : Nat × Nat × Nat × Nat) : Nat :=
  (((t.rowIds.zip (outAddrs t)).find? (fun e => e.1 == id)).map (·.2)).getD 0

/-- Free the table run and the input runs of a table. -/
def State.freeInputs (s : State) (t : WorkTab) : State :=
  (t.entries.filter (fun e => decide (0 < e.2.2.1))).foldl (fun s e => s.freeChain e.2.2.2.1) (s.freeChain t.chain)

/-- Free the output runs of a table. -/
def State.freeOutputs (s : State) (t : WorkTab) : State :=
  (t.entries.filter (fun e => decide (0 < e.2.2.1))).foldl (fun s e => s.freeChain e.2.2.2.2.1) s

/-- A table is no longer outstanding. -/
def State.dropTab (s : State) (tag : Nat) : State := { s with tabs := s.tabs.filter (fun t => t.tag != tag) }

/-- The destination's part in a micro-step ends once every return has left (R287). -/
def State.destOut (s : State) (p l m : Nat) (t : WorkTab) : State :=
  match (s.pass p l).map (fun q => microOf q m) with
  | none => s
  | some y =>
    if y.piles.isEmpty then
      ((s.freeOutputs t).dropTab t.tag).onMicro p l m (fun y => { y with destDone := true })
    else s

/-- A destination owes a source nothing more. -/
def State.pileBack (s : State) (p l m src : Nat) : State :=
  s.onMicro p l m (fun y => { y with piles := y.piles.filter (fun r => r.src != src) })

/-- Output runs whose last row has left toward its source are freed (R287). -/
def State.freeReturned (s : State) (p l m : Nat) (t : WorkTab) : State :=
  match s.pass p l with
  | none => s
  | some q =>
    let left (id : Nat × Nat × Nat × Nat) := (microOf q m).piles.any (fun r => r.src == id.1)
    let starts := (List.range t.entries.length).map (fun i => sumNat ((t.entries.take i).map (·.2.2.1)))
    (List.range t.entries.length).foldl (fun s i =>
      let e := t.entries.getD i (0, 0, 0, 0, 0, 0)
      if e.2.2.1 = 0 || ((t.rowIds.drop (starts.getD i 0)).take e.2.2.1).any left then s else s.freeChain e.2.2.2.2.1) s

/-- Return the output rows of a source: its pile with the rows in BF16 (R287). The member's own are counted at once; where
the pools refuse their cells the return is presented again. -/
def State.sendReturn (s : State) (p l m src : Nat) : State :=
  match (s.part p).step, (s.pass p l).map (fun q => microOf q m) with
  | some x, some y =>
    match y.piles.find? (fun r => r.src == src), s.tabs.find? (fun t => some t.tag == y.tableTag) with
    | some r, some t =>
      if s.reading (.expertOut p l m src) || x.tornBy.isSome then s
      else
        let c := s.xCfg p l
        let rows := r.rows.map (fun w => { w with data := s.rd (outRow t (src, w.stream, w.pos, w.expert)) (2 * c.k) })
        let me := s.member
        let body := directPile src me l m (hdrFlags false (r.via != src) false true) x.stepNo x.group rows
        let s := if src = me then
            match s.storeReturns p l m me c.k (rows.map (·.data)) [] with
            | some s => s.countReturn p l m me
            | none =>
              let own : Msg := { chan := 0, owner := p, typ := 7, flags := 0, src := me, dst := me, trigger := trig p l m 3
                                 msgNo := 0, length := body.length, body := body }
              let s := s.denied false
              { s with link := { s.link with inbox := s.link.inbox ++ [own] } }
          else s.send (s.retHop r.via src) p 7 (trig p l m 3) body (s.backTo (s.retHop r.via src))
        ((s.pileBack p l m src).freeReturned p l m t).destOut p l m t
    | _, _ => s
  | _, _ => s

/-- The output rows of each source are read; sources that are gone get none (R287, R339). -/
def State.readOutputs (s : State) (p l m : Nat) (t : WorkTab) : State :=
  match s.pass p l, (s.part p).step with
  | some q, some x =>
    let y := microOf q m
    let s := (y.piles.filter (fun r => goneFrom x r.src l false)).foldl (fun s r => s.pileBack p l m r.src) s
    let c := s.xCfg p l
    let s := (y.piles.filter (fun r => !goneFrom x r.src l false)).foldl (fun s r =>
      r.rows.foldl (fun s w =>
        s.issueRead (outRow t (r.src, w.stream, w.pos, w.expert)) (2 * c.k) (.expertOut p l m r.src)) s) s
    s.destOut p l m t
  | _, _ => s

/-- A table answered FAILED: its outputs are lost; VOIDs replace its returns (R288, R336). -/
def State.failTable (s : State) (p l m : Nat) (t : WorkTab) : State :=
  match s.pass p l, (s.part p).step with
  | some q, some x =>
    let s := ((s.freeInputs t).freeOutputs t).dropTab t.tag
    let me := s.member
    let s := (microOf q m).piles.foldl (fun s r =>
      if r.src = me then
        (s.loseTickets p l m (fun k => k.micro == m && k.dest == me && k.st == 4)).countReturn p l m me
      else s.voidReturn p r.via r.src l m x.stepNo 2) s
    s.onMicro p l m (fun y => { y with piles := [], destDone := true })
  | _, _ => s.dropTab t.tag

/-- The shared outputs of a pass are lost with their tokens (R352, R409). -/
def State.loseToken (s : State) (p l row : Nat) : State :=
  match (s.pass p l).bind (fun q => q.toks.find? (fun t => t.row == row)) with
  | none => s
  | some t =>
    if t.whole || t.written then s
    else
      let s := s.markLost p l [row]
      let s := s.onTok p l row (fun t => { t with whole := true, lost := true })
      s.onMicro p l 0 (fun y => { y with events := y.events ++ [(t.stream, t.pos, 255, 6)] })

/-- The shared table of a pass is answered (R352). -/
def State.sharedAnswer (s : State) (p l : Nat) (t : WorkTab) (ok : Bool) : State :=
  match s.pass p l with
  | none => s.dropTab t.tag
  | some q =>
    let s := s.freeInputs t
    if ok then
      let s := s.onPass p l (fun q => { q with sharedAns := true })
      let c := s.xCfg p l
      (q.toks.filter (fun k => !k.whole)).foldl (fun s k =>
        s.issueRead (outRow t (0, k.stream, k.pos, 0xFFFF)) (2 * c.k) (.shared p l k.row)) s
    else
      let live := q.toks.filter (fun k => !k.whole && t.rowIds.contains (0, k.stream, k.pos, 0xFFFF))
      let s := ((s.freeOutputs t).dropTab t.tag).onPass p l (fun q => { q with sharedAns := true })
      let s := live.foldl (fun s k => s.loseToken p l k.row) s
      (s.bump (rVARY_CNT p 5) live.length).onMicro p l 0 (fun y => { y with vary := y.vary ||| 32 })

/-- A completion takes effect: that of an outstanding table of the queue answers it; any other is ignored and counted; a
reserved STATUS or reserved bytes mean FAILED (R286 to R289). A torn-down partition's table is only taken off. -/
def State.applyCompletion (s : State) (slot : Nat) (data : Bytes) : State :=
  let tag := fld data 0 4
  match s.tabs.find? (fun t => t.tag == tag && t.engq == slot && t.notified && !t.answered) with
  | none => s.bump rENG_CMPL_IGN_CNT 1
  | some t =>
    let odd := decide (1 < fld data 4 1) || decide (fld data 5 3 ≠ 0)
    let s := if odd then s.bump rENG_CMPL_IGN_CNT 1 else s
    let ok := !odd && fld data 4 1 == 0
    let s := if ok then s else s.bump (rSEL_CNT t.part 13) 1
    let ts := s.tabs.map (fun (x : WorkTab) => if x.tag = tag then { x with answered := true } else x)
    let s : State := { s with tabs := ts }
    let torn := match (s.part t.part).step with
      | some x => x.tornBy.isSome
      | none => true
    if torn then (s.dropTab tag).freeTorn t.part
    else if t.shared then s.sharedAnswer t.part t.layer t ok
    else if ok then (s.freeInputs t).readOutputs t.part t.layer t.micro t
    else s.failTable t.part t.layer t.micro t

/-- ENGINE_COMPLETION: the write is accepted on either generation and answered; it takes effect at the next stitch
boundary (R48, R111). DESIGN CHOICE, log entry 60. -/
def execEngineCompletion (req : SeamReq) (s : State) : Host.Outcome State Fault Refusal :=
  if s.boot.rstLow then .next s
  else
    let s := s.hostWrites req.host
    match s.earlyGate req with
    | some t => .next t
    | none =>
      let s := { s with seam := { s.seam with cmpls := s.seam.cmpls ++ [(req.slot, req.data)] } }
      .next (s.reply req 0)

end Sys2Proof.Machine
end

