-- ==== Sys2Proof/Machine/Fold.lean ====
section
/-! DEFINITION. Fold as the combine unit: shared tables, residue checks, buckets and retirement of units, the combine of a
token, poison (R344 to R355, R371, R372). -/

namespace Sys2Proof.Machine

/-! ### Fold units (R344, R354, R355) -/

/-- A Fold unit is retired; with the last one every partition of the member is torn down. -/
def State.retireFold (s : State) (c : Nat) : State :=
  if !bit s.units.folds c then s
  else
    let s := { s with units := { s.units with
      folds := setBit s.units.folds c false, foldsRet := setBit s.units.foldsRet c true
      foldsPend := setBit s.units.foldsPend c false } }
    let s := (s.raise rFD_EVT 1).bump rFD_RETIRE_CNT 1
    if s.units.folds = 0 then s.teardownAll 11 else s

/-- Units whose bucket reached 16 are retired at a step boundary of any partition. -/
def State.retireFoldsPending (s : State) : State :=
  (List.range 4).foldl (fun s c => if bit s.units.foldsPend c then s.retireFold c else s) s

/-- The usable Fold units, ascending. -/
def State.foldUnits (s : State) : List Nat := (List.range 4).filter (bit s.units.folds)

/-- The Lint sweep has a Fold unit in this stitch (R456). -/
def State.lintFold (s : State) (c : Nat) : Bool :=
  match s.self.lintAt with
  | some (t, n) => t == s.stitch.count && decide (256 ≤ n) && decide (n < 272) && (n - 256) / 4 == c
  | none => false

/-- The unit that works for unit c, itself or the lowest usable one, and whether it has a slot of the partition: a
substitute works in the slots of both (R112, R344, R456). -/
def State.foldFor (s : State) (p c : Nat) : Nat × Bool :=
  if bit s.units.folds c && !s.lintFold c then (c, s.slotOpen p (48 + c))
  else
    let u := (s.foldUnits.filter (fun u => !s.lintFold u)).headD 4
    (u, s.slotOpen p (48 + c) || s.slotOpen p (48 + u))

/-- The cluster that holds the home core of row block b (R228, R344). -/
def State.homeCluster (s : State) (p b : Nat) : Nat :=
  let cs := s.coresOf p
  cs.getD (b % max 1 cs.length) 0 / 2

/-- FD_LAST_RES. -/
def lastRes (unit : Nat) (node failed : Bool) (level index : Nat) : Word :=
  BitVec.ofNat 32 (unit % 4 + (if node then 4 else 0) + (if failed then 8 else 0) + 16 * (level % 16)
    + 65536 * (index % 16384))

/-- A residue mismatch of a unit: counted, recorded, the bucket rises (R354, R355). `failed`: the repetition failed as well
and the unit is retired. -/
def State.residue (s : State) (unit : Nat) (node failed : Bool) (level index : Nat) : State :=
  let n := min 16 (s.fold.buckets.getD unit 0 + 1)
  let s := (s.bump rFD_RETRY_CNT 1).raise rFD_EVT 0
  let s := if n = 1 then s.leakMark (keyFold unit) else s
  let s := s.latch rFD_LAST_RES (lastRes unit node failed level index)
  let s := { s with
    fold := { s.fold with buckets := setAt s.fold.buckets unit (fun _ => n) }
    units := { s.units with foldsPend := setBit s.units.foldsPend unit (n = 16 || bit s.units.foldsPend unit) } }
  if failed then s.retireFold unit else s

/-- FD_BUCKET_LEAK (R355). -/
def execFdBucketLeak (cluster : Nat) (s : State) : Host.Outcome State Fault Refusal :=
  if s.leakDue (keyFold cluster) 2097152 (s.fold.buckets.getD cluster 0) then
    .next (({ s with fold := { s.fold with buckets := setAt s.fold.buckets cluster (· - 1) } } : State).leakMark (keyFold cluster))
  else .next s

/-! ### Poison (R371, R372) -/

/-- The chains of a partition's passes from layer l on take POISON, all their cells (R179, R371). -/
def State.poisonCells (s : State) (p l : Nat) : State :=
  let hit (c : Chain) : Bool := match c.pass with | some (q, k) => q == p && decide (l ≤ k) && c.poison.isEmpty | none => false
  let cs := s.hamper.chains.filter hit
  let s : State := { s with hamper := { s.hamper with
    chains := s.hamper.chains.map (fun c => if hit c then { c with poison := c.cells } else c) } }
  cs.foldl (fun s c => s.writeLinks { c with poison := c.cells }) s

/-- The step in flight is marked POISONED from a layer on, never once its record has been written (R373); `raised` where the member
itself found the cause. -/
def State.poison (s : State) (p l : Nat) (raised : Bool) : State :=
  match (s.part p).step with
  | none => s
  | some x =>
    if x.poisonAt.isSome || !x.launched || x.fin = 3 then s
    else
      let s := (s.endAgain p).onStep p (fun x => { x with poisonAt := some l })
      let s := ((s.poisonCells p l).bump rFD_POISON_CNT 1).raise rFD_EVT 2
      if raised then s.spread p 0x23 (trig p l 0 11) (bodyFd x.stepNo l 0 s.member) (s.gatesOf x.group) else s

/-! ### The shared table (R351) -/

/-- SHARED_TABLE_WRITE: once stage 2 is over for every token of the pass. A pass without a token left writes none. Runs granted
before a token was lost whose size no longer fits go back first. -/
def execSharedTableWrite (part layer : Nat) (s : State) : Host.Outcome State Fault Refusal :=
  match (s.part part).step, s.pass part layer with
  | some x, some q =>
    let toks := q.toks.filter (fun t => !t.whole)
    let norm := (List.range (ceilDiv q.toks.length 8)).all q.blocks.contains
    if !fuses x 0 || x.tornBy.isSome || q.ended || q.toks.isEmpty || !norm || q.sharedTag.isSome || q.sharedAns then .next s
    else if toks.isEmpty then .next (s.onPass part layer (fun q => { q with sharedAns := true }))
    else
      let c := s.xCfg part layer
      let ord := sortBy (fun (a b : Tok) => decide (a.stream < b.stream ∨ (a.stream = b.stream ∧ a.pos ≤ b.pos))) toks
      let rm := rmax (fld (s.profEnt part layer) 19 1) c.k
      let es := groupsOf (max 1 rm) (ord.length + 1) ord
      let n := es.length
      let sizes := tableCells n :: es.map (fun e => e.length * c.cells) ++ es.map (fun e => e.length * outCells c.k)
      let fits (e : Nat × Nat) := (s.chainOf e.1).any (fun c => c.cells.length == e.2)
      let held := ((q.sharedRuns.zip sizes).takeWhile fits).map (·.1)
      let s := (q.sharedRuns.drop held.length).foldl (fun s i => s.freeChain i) s
      let (more, s) := s.allocRuns c.owner (some (part, layer)) (sizes.drop held.length)
      let got := held ++ more
      let s := s.onPass part layer (fun q => { q with sharedRuns := got })
      if got.length < sizes.length then .next s
      else
        let runs := got.drop 1
        let h := s.handle part (fld x.combRec 8 8 + 8 * layer)
        let ents := (List.range n).map (fun i => (0xFFFF, 0, (es.getD i []).length, runs.getD i 0, runs.getD (n + i) 0, h))
        let ids := ord.map (fun t => (0, t.stream, t.pos, 0xFFFF))
        let tag := s.nextTag
        let s := s.writeTable part layer 0 x true (got.headD 0) ents (es.map (fun e => e.map (·.payload))) ids
        .next (s.onPass part layer (fun q => { q with sharedTag := some tag }))
  | _, _ => .next s

/-! ### The combine (R346 to R350) -/

/-- The final set of a token: its tickets not removed, in ascending expert index. -/
def finalSet (q : Pass) (row : Nat) : List Ticket :=
  sortBy (fun a b => decide (a.expert ≤ b.expert)) (q.tickets.filter (fun k => k.row == row && decide (k.st < 6)))

/-- BF16 elements of a row as FP32. -/
def bfRow (b : Bytes) (k : Nat) : List F32 := (List.range k).map (fun i => bfTo32 (fld b (2 * i) 2))

/-- Element-by-element operation on two rows. -/
def rowOp (f : F32 → F32 → F32) (a b : List F32) : List F32 := (a.zip b).map (fun e => f e.1 e.2)

/-- The row that Fold forms: the routed sum, then the fusions that are set, in their order (R347). -/
def combineRow (k : Nat) (set : List Ticket) (scale : Option F32) (shared residual : Option (List F32)) : List F32 :=
  let acc := set.foldl (fun a t => rowOp f32Add a ((bfRow t.out k).map (f32Mul t.gate))) (List.replicate k (0 : F32))
  let acc := match scale with | some c => acc.map (fun v => f32Mul v c) | none => acc
  let acc := match shared with | some r => rowOp f32Add acc r | none => acc
  match residual with | some r => rowOp f32Add acc r | none => acc

/-! ### Residue codes (R353) -/

/-- An operation of Fold as its residue checks see it: the significands, their alignment shifts, the aligned significands, the exact
product or unrounded sum, the normalisation amount, the rounding increment and the rounded significand. -/
structure ResStep where
  mul  : Bool
  minus : Bool
  a    : Nat
  b    : Nat
  sa   : Nat
  sb   : Nat
  wa   : Nat
  wb   : Nat
  raw  : Nat
  norm : Nat
  inc  : Nat
  out  : Nat
  deriving DecidableEq, Repr

/-- The rounding of an exact result m · 2^e: normalisation amount, rounded significand (R15). -/
def resRound (m : Nat) (e : Int) : Nat × Nat :=
  let r := roundRne 24 (-149) m e
  ((r.2 - e).toNat, r.1)

/-- An operation of finite operands (negative?, significand, exponent). -/
def resStep (mul : Bool) (x y : Bool × Nat × Int) : ResStep :=
  let e := if mul then x.2.2 + y.2.2 else min x.2.2 y.2.2
  let sa := if mul then 0 else (x.2.2 - e).toNat
  let sb := if mul then 0 else (y.2.2 - e).toNat
  let wa := x.2.1 * 2 ^ sa
  let wb := y.2.1 * 2 ^ sb
  let minus := !mul && x.1 != y.1
  let swap := minus && decide (wa < wb)
  let raw := if mul then wa * wb else if minus then max wa wb - min wa wb else wa + wb
  let r := resRound raw e
  { mul := mul, minus := minus
    a := if swap then y.2.1 else x.2.1, b := if swap then x.2.1 else y.2.1
    sa := if swap then sb else sa, sb := if swap then sa else sb
    wa := if swap then wb else wa, wb := if swap then wa else wb
    raw := raw, norm := r.1, inc := r.2 - raw / 2 ^ r.1, out := r.2 }

/-- An operation of two FP32 patterns; a NaN or an infinity has no significand to check. -/
def resOp (mul : Bool) (x y : F32) : List ResStep :=
  match dec32 x, dec32 y with
  | .fin n m e, .fin k o f => [resStep mul (n, m, e) (k, o, f)]
  | _, _ => []

/-- The four checks of R353. -/
def ResStep.holds (r : ResStep) : Bool :=
  r.wa % 15 == r.a % 15 * 2 ^ (r.sa % 4) % 15 && r.wb % 15 == r.b % 15 * 2 ^ (r.sb % 4) % 15
    && r.raw % 15 == (if r.mul then r.wa % 15 * (r.wb % 15) else if r.minus then r.wa % 15 + (15 - r.wb % 15)
      else r.wa % 15 + r.wb % 15) % 15
    && r.out % 15 == (r.raw / 2 ^ r.norm % 15 + r.inc % 15) % 15

/-- A hardware fault inverts bit i of one of the four quantities. -/
def ResStep.flip (q i : Nat) (r : ResStep) : ResStep :=
  match q with
  | 0 => { r with wa := r.wa ^^^ 2 ^ i }
  | 1 => { r with wb := r.wb ^^^ 2 ^ i }
  | 2 => { r with raw := r.raw ^^^ 2 ^ i }
  | _ => { r with out := r.out ^^^ 2 ^ i }

/-- The attempts of a combine or node, 0 to 2, whose residue checks fail, from a fault: its remainder by 3 is the attempts it meets,
the rest its place, as quantity, bit and operation of the operations `ops` of one element. DESIGN CHOICE, log entry 20. -/
def failedTries (fault : Nat) (ops : List ResStep) : Nat :=
  let at_ := fault / 3
  match ops[at_ / 256 % max 1 ops.length]? with
  | some r => if (r.flip (at_ % 4) (at_ / 4 % 64)).holds then 0 else fault % 3
  | none => 0

/-- The operations of element j of a combine, in their order (R347). -/
def combineOps (j : Nat) (set : List Ticket) (scale : Option F32) (shared residual : Option (List F32)) : List ResStep :=
  let add (a : F32 × List ResStep) (v : F32) := (f32Add a.1 v, a.2 ++ resOp false a.1 v)
  let a := set.foldl (fun (a : F32 × List ResStep) t =>
    let o := bfTo32 (fld t.out (2 * j) 2)
    add (a.1, a.2 ++ resOp true t.gate o) (f32Mul t.gate o)) ((0 : F32), [])
  let a := match scale with | some c => (f32Mul a.1 c, a.2 ++ resOp true a.1 c) | none => a
  let a := match shared with | some r => add a (r.getD j 0) | none => a
  (match residual with | some r => add a (r.getD j 0) | none => a).2

/-- The token's turn in stream order has come (R350). -/
def turnOf (q : Pass) (t : Tok) : Bool :=
  q.toks.all (fun u => u.stream != t.stream || decide (t.pos ≤ u.pos) || u.written || u.whole)

/-- The outstanding shared table of a pass. -/
def State.sharedTab (s : State) (q : Pass) : Option WorkTab :=
  q.sharedTag.bind (fun n => s.tabs.find? (fun t => t.tag == n))

/-- Output runs of the shared table whose tokens are all combined are freed (R352). -/
def State.freeShared (s : State) (p l : Nat) : State :=
  match s.pass p l with
  | none => s
  | some q =>
    match s.sharedTab q with
    | none => s
    | some t =>
      if !t.answered then s
      else
        let past (id : Nat × Nat × Nat × Nat) :=
          q.toks.all (fun k => k.stream != id.2.1 || k.pos != id.2.2.1 || k.written || k.whole)
        let starts := (List.range t.entries.length).map (fun i => sumNat ((t.entries.take i).map (·.2.2.1)))
        let done := (List.range t.entries.length).filter (fun i =>
          ((t.rowIds.drop (starts.getD i 0)).take (t.entries.getD i (0, 0, 0, 0, 0, 0)).2.2.1).all past)
        let s := done.foldl (fun s i => s.freeChain (t.entries.getD i (0, 0, 0, 0, 0, 0)).2.2.2.2.1) s
        if done.length = t.entries.length then s.dropTab t.tag else s

/-- Everything a combine of a token waits for is present (R346). -/
def State.combineReady (s : State) (p : Nat) (x : StepSt) (q : Pass) (t : Tok) : Bool :=
  let l := q.layer
  q.admitted && !t.written && !t.whole
    && (finalSet q t.row).all (fun k => k.st == 5 && !s.reading (.returned p l t.row k.expert))
    && (!fuses x 0 || (q.sharedAns && !s.reading (.shared p l t.row)))
    && (!fuses x 2 || (sources q.resDeps t.row).all (fun u => !s.reading (.residual p l u)))
    && turnOf q t

/-- The inputs of a token's fusions: scale, shared row, hidden-state row with its elements out of bounds (R345 to R347). -/
def State.fusionsOf (s : State) (p : Nat) (x : StepSt) (q : Pass) (t : Tok) :
    Option F32 × Option (List F32) × Option (List F32 × Nat) :=
  let k := leK (s.layerEnt p q.layer)
  (if fuses x 1 then some (BitVec.ofNat 32 (fld x.combRec 4 4)) else none,
    if fuses x 0 then (s.sharedTab q).map (fun w => bfRow (s.rd (outRow w (0, t.stream, t.pos, 0xFFFF)) (2 * k)) k) else none,
    if fuses x 2 then some (s.hiddenRow p x q k t.row) else none)

/-- The row of a token (R347), and the elements of its hidden-state row out of bounds. -/
def State.combined (s : State) (p : Nat) (x : StepSt) (q : Pass) (t : Tok) : List F32 × Nat :=
  let f := s.fusionsOf p x q t
  (combineRow (leK (s.layerEnt p q.layer)) (finalSet q t.row) f.1 f.2.1 (f.2.2.map (·.1)), (f.2.2.map (·.2)).getD 0)

/-- The attempts of a token's combine whose residue checks fail (R353). -/
def State.combineTries (s : State) (p : Nat) (x : StepSt) (q : Pass) (t : Tok) (fault : Nat) : Nat :=
  let f := s.fusionsOf p x q t
  failedTries fault (combineOps (fault / 49152 % max 1 (leK (s.layerEnt p q.layer))) (finalSet q t.row) f.1 f.2.1
    (f.2.2.map (·.1)))

/-- The addresses that rows of higher logical index have written already, in this pass or a later one (R165). -/
def State.rowsAbove (s : State) (p : Nat) (x : StepSt) (t : Td) (q : Pass) (k row : Nat) : List Nat :=
  let mine := t.rowSpan q.outIdx k row q.layer
  (x.passes.filter (fun r => decide (q.layer ≤ r.layer))).flatMap (fun r =>
    let n := leK (s.layerEnt p r.layer)
    (r.toks.filter (fun u => u.written && (decide (q.layer < r.layer) || decide (row < u.row))
        && spansMeet mine (t.rowSpan r.outIdx n u.row r.layer))).flatMap (fun u =>
      (s.putBytes p t r.outIdx ((List.range n).map (fun i => ([i, u.row, r.layer].take t.rank, 0, 127)))).1.map (·.1)))

/-- The combined row of a token goes out through OUT_TD: written, or added to the sums of the step, whose targets are read
when they are first touched (R165, R168). DESIGN CHOICE, log entry 107. -/
def State.rowOut (s : State) (p : Nat) (x : StepSt) (q : Pass) (k row : Nat) (v : List F32) : State :=
  let t := s.td p (leNat x.outTd)
  let es := (List.range k).map (fun i => ([i, row, q.layer].take t.rank, v.getD i 0))
  if t.scatter then
    let (s, bases, hits) := s.tdAdd p t q.outIdx es x.sadd
    let s := s.issueReads (targetRanges (etBytes t.etype) (bases.map (·.1))) (.target p q.layer)
    (s.onStep p (fun x => { x with sadd := x.sadd ++ bases ++ hits })).onPass p q.layer (fun q => { q with
      sadd := q.sadd ++ hits })
  else s.tdPut p t q.outIdx (t.puts es) (s.rowsAbove p x t q k row) (.combined p q.layer row)

/-- The targets of a scatter-add are written after the last contribution of a pass, once what they held has been read. A pass
that writes a target again writes its sum with every contribution of the step (R165, R168). -/
def State.writeAdds (s : State) (p l : Nat) : State :=
  match (s.part p).step, s.pass p l with
  | some x, some q =>
    if q.sadd.isEmpty || x.passes.any (fun r => s.reading (.target p r.layer)) || !q.toks.all (fun t => t.written || t.whole) then s
    else (s.tdFlush (s.td p (leNat x.outTd)) x.sadd q.sadd (.combined p l)).onPass p l (fun q => { q with sadd := [] })
  | _, _ => s

/-- A chain's cells carry the mark of poison (R179). -/
def State.tainted (s : State) (id : Nat) : Bool := (s.chainOf id).any (fun c => !c.poison.isEmpty)

/-- An input cell of a token's combine is poisoned: a returned row's, or its shared row's (R371). -/
def State.poisonedInput (s : State) (q : Pass) (t : Tok) : Bool :=
  (q.tickets.any (fun k => k.row == t.row && k.chain.any s.tainted))
    || (match s.sharedTab q with
      | some w => (w.rowIds.contains (0, t.stream, t.pos, 0xFFFF)) && w.entries.any (fun e => s.tainted e.2.2.2.2.1)
      | none => false)

/-- FOLD_COMBINE: in a slot of the partition on the unit (R112, R344) the token is combined and its row written. `mismatch` is a
hardware fault; where the residue checks of its attempt fail, the combine is repeated; where they fail again the unit is retired, and
the token is combined afresh on its substitute by a command of its own (R353, R354). A poisoned input cell marks the step (R371). -/
def execFoldCombine (part layer row mismatch : Nat) (s : State) : Host.Outcome State Fault Refusal :=
  match (s.part part).step, s.pass part layer with
  | some x, some q =>
    match q.toks.find? (fun t => t.row == row) with
    | none => .next s
    | some t =>
      if !x.launched || x.tornBy.isSome || q.ended || !s.mayIssue part || !s.combineReady part x q t then .next s
      else
        let (unit, open_) := s.foldFor part (s.homeCluster part ((q.toks.findIdx (fun u => u.row == row)) / 8))
        if !open_ then .next s else
        let bad := s.combineTries part x q t mismatch
        let s := s.charge 12 (ceilDiv (leK (s.layerEnt part layer)) 64 * (1 + min bad 1))
        let s := if bad = 0 then s else s.residue unit false (decide (1 < bad)) 0 row
        if 1 < bad ∨ (s.part part).state ≠ 1 then .next s
        else
          let k := leK (s.layerEnt part layer)
          let s := if s.poisonedInput q t then s.poison part layer true else s
          let (v, oob) := s.combined part x q t
          let s := s.bump (rSEG_OOB_RD_CNT part) oob
          let s := if v.any isNan32 then s.bump (rFD_NAN_ROW_CNT part) 1 else s
          let s := s.rowOut part x q k row v
          let s := (q.tickets.filter (fun k => k.row == row)).foldl (fun s k =>
            match k.chain with | some c => s.releaseId c | none => s) s
          let s := s.onPass part layer (fun q => { q with
            toks := q.toks.map (fun u => if u.row = row then { u with written := true } else u)
            tickets := q.tickets.map (fun k => if k.row = row then { k with chain := none } else k) })
          .next (((s.freeShared part layer).freeTickets part layer).writeAdds part layer)
  | _, _ => .next s

end Sys2Proof.Machine
end

