-- ==== Sys2Proof/Machine/Reduce.lean ====
section
/-! DEFINITION. The privileged all-reduce: tree, narrowing, messages, seals, the audit, abandonment (R356 to R376). -/

namespace Sys2Proof.Machine

/-! ### The tree (R359, R360) -/

/-- The level of a node identifier. -/
def nodeLevel (id : Nat) : Nat := 10 - Nat.log2 id

/-- The lowest shard of a node. -/
def lowShard (id : Nat) : Nat := (id - 2 ^ Nat.log2 id) * 2 ^ nodeLevel id

/-- The member that computes a node. -/
def holder (k : Bytes) (id : Nat) : Nat := shardOf k (lowShard id)

/-- A member's leaf j of chunk c as FP32 (R359). -/
def State.leaf (s : State) (p : Nat) (k e : Bytes) (j c : Nat) : List F32 :=
  let size := elemBytes (fld e 20 1)
  let at_ := (s.tr p (fld e 0 8) 1 2).getD 0 + ((j - (shardsOf k s.member).headD 0) * redElems e + 32768 * c) * size
  (chunks size (chunkElems e c + 1) (s.rd at_ (chunkElems e c * size))).map (fun b =>
    if size = 2 then bfTo32 (leNat b) else BitVec.ofNat 32 (leNat b))

/-- Chunk c of the reduction of a step may be worked on: its set is free, of an earlier chunk and of an earlier layer's reduction
(R363). -/
def chunkOpen (x : StepSt) (k : Bytes) (r : Red) (c : Nat) : Bool :=
  decide (c < r.chunkSt.length) && x.reds.all (fun y => y.state != 1 || decide (r.layer ≤ y.layer)) && (decide (c < fld k 3 1) || decide (3 ≤ r.chunkSt.getD (c - fld k 3 1) 0))

/-- Buffer `h` of the chunk set of chunk c in the Fold region: 0 holds the running node value, `h` the right child of level h
(R25, R363). -/
def State.foldBuf (s : State) (blk c h : Nat) : Nat :=
  let b := s.sect 12
  let sets (i : Nat) := if fld b (64 + 10304 * i) 1 = 1 then fld b (64 + 10304 * i + 3) 1 else 0
  fld b 0 8 + 131072 * (11 * (sumNat ((List.range blk).map sets) + c % max 1 (sets blk)) + h)

/-- The level under which a node's value lies in the Fold region: as the right child of its parent where the member computes
that, else as the running value. DEDUCED, log entry 67. -/
def State.foldLevel (s : State) (k : Bytes) (id : Nat) : Nat :=
  if id % 2 = 1 ∧ 1 < id ∧ holder k (id / 2) = s.member then nodeLevel (id / 2) else 0

/-- A node's value in a buffer is still to be used: its parent is computed here and is not computed yet. -/
def State.bufLive (s : State) (k : Bytes) (r : Red) (c id : Nat) : Bool :=
  decide (1 < id) && holder k (id / 2) == s.member && !r.vals.any (fun v => v.1 == id / 2 && v.2.1 == c)

/-- A node's value of chunk c goes into its buffer of the Fold region, unless the buffer holds one that is still to be used, in which
case the unit keeps it. DEDUCED, log entry 67. -/
def State.putNode (s : State) (p l c h id : Nat) (k : Bytes) (r : Red) (vs : List F32) : State :=
  if r.bufs.any (fun b => b.1 == c && b.2.1 == h && b.2.2 != id && s.bufLive k r c b.2.2) then s
  else (s.wr (s.foldBuf r.block c h) (vs.flatMap (fun v => toLE 4 v.toNat)) (.fatal p)).onStep p (onRed l (fun r => { r with
    bufs := r.bufs.filter (fun b => !(b.1 == c && b.2.1 == h)) ++ [(c, h, id)] }))

/-- The values of a node of chunk c as its buffer in the Fold region holds them (R363). -/
def State.bufVal (s : State) (r : Red) (id c n : Nat) : Option (List F32) :=
  (r.bufs.find? (fun b => b.1 == c && b.2.2 == id)).map (fun b =>
    let bs := s.rd (s.foldBuf r.block c b.2.1) (4 * n)
    (List.range n).map (fun i => BitVec.ofNat 32 (fld bs (4 * i) 4)))

/-- The ranges of the inputs of a node that lie in the Fold region. -/
def State.inputRanges (s : State) (r : Red) (id c n : Nat) : List (Nat × Nat) :=
  (r.bufs.filter (fun b => b.1 == c && (b.2.2 == 2 * id || b.2.2 == 2 * id + 1))).map (fun b =>
    (s.foldBuf r.block c b.2.1, 4 * n))

/-- The values of a node of a chunk, where the member has them: a leaf; a node computed here, from its buffer in the Fold region or,
where it has none, from the unit. -/
def State.nodeVal (s : State) (p : Nat) (k e : Bytes) (r : Red) (id c : Nat) : Option (List F32) :=
  if 1024 ≤ id then (if holder k id = s.member then some (s.leaf p k e (id - 1024) c) else none)
  else (r.vals.find? (fun v => v.1 == id && v.2.1 == c)).map (fun v => (s.bufVal r id c (chunkElems e c)).getD v.2.2)

/-- The right child's values: computed here, or received into its buffer. -/
def State.rightVal (s : State) (p : Nat) (k e : Bytes) (r : Red) (id c : Nat) : Option (List F32) :=
  if holder k id = s.member then s.nodeVal p k e r id c
  else (r.right.find? (fun v => v.1 == id && v.2.1 == c)).map (fun v => (s.bufVal r id c (chunkElems e c)).getD v.2.2)

/-! ### Narrowing (R364 to R366) -/

/-- Stochastic rounding of a value with r: the narrowed value as FP32, and whether it overflowed. -/
def narrow (v : F32) (r : Nat) : F32 × Bool :=
  if isNan32 v then (0x7FC00000#32, false)
  else if v.toNat % 2 ^ 31 = 0x7F800000 then (v, false)
  else
    let m := v.toNat % 2 ^ 31 + r
    let b := v.toNat / 2 ^ 31 * 2 ^ 15 + m / 65536 % 2 ^ 15
    (BitVec.ofNat 32 (b * 65536), decide (b % 2 ^ 15 = 0x7F80))

/-- Narrow the values of a node of chunk c. -/
def narrowAll (key : BitVec 64) (id c : Nat) (vs : List F32) : List (F32 × Bool) :=
  ((List.range vs.length).zip vs).map (fun e =>
    narrow e.2 ((tumble key (BitVec.ofNat 64 ((32768 * c + e.1) * 2048 + id))).toNat % 65536))

/-- The partition's mode is ARRANGEMENT_FREE (R125). -/
def State.arrFree (s : State) (p : Nat) : Bool := s.pcfg p 2 1 == 0

/-- Under ARRANGEMENT_FREE a node's value is narrowed from NARROW_LEVEL up. -/
def State.levelNarrow (s : State) (p : Nat) (k : Bytes) (id : Nat) : Bool :=
  s.arrFree p && fld k 2 1 != 255 && decide (fld k 2 1 ≤ nodeLevel id)

/-- The root's value is narrowed. -/
def State.rootNarrow (s : State) (p : Nat) (k : Bytes) (g : Nat) : Bool :=
  if s.arrFree p then s.levelNarrow p k 1 else decide (1 < ((List.range 16).filter (bit (s.gPods g))).length)

/-- Narrow values of a node where asked; LINK_ADAPTIVE narrowings are counted (R381). -/
def State.narrowed (s : State) (p l id c : Nat) (yes : Bool) (vs : List F32) : State × List F32 :=
  match (s.part p).step with
  | none => (s, vs)
  | some x =>
    if !yes then (s, vs)
    else
      let rs := narrowAll (tumble (s.tseed x.group x.stepNo) (BitVec.ofNat 64 l)) id c vs
      let s := s.bump rFD_SR_OVF_CNT (rs.filter (·.2)).length
      let s := if s.arrFree p then s
        else (s.bump (rVARY_CNT p 4) rs.length).onStep p (fun x => { onRed l (fun r => { r with
          narrowed := r.narrowed + rs.length }) x with vary := x.vary ||| 16 })
      (s, rs.map (·.1))

/-! ### Messages (R361, R362, R367) -/

/-- Value bytes in a FORMAT. -/
def valueBytes (bf : Bool) (vs : List F32) : Bytes := vs.flatMap (fun v => if bf then toLE 2 (v.toNat / 65536) else toLE 4 v.toNat)

/-- The values of a body. -/
def bodyValues (b : Bytes) : List F32 :=
  let n := fld b 16 4
  let size := if fld b 20 1 = 1 then 2 else 4
  (List.range (min n 32768)).map (fun i =>
    if size = 2 then BitVec.ofNat 32 (fld b (32 + 2 * i) 2 * 65536) else BitVec.ofNat 32 (fld b (32 + 4 * i) 4))

/-- FD_VALUE or FD_RESULT. -/
def bodyFdValue (stepNo l id c : Nat) (bf crc : Bool) (vs : List F32) : Bytes :=
  let v := valueBytes bf vs
  toLE 8 stepNo ++ toLE 2 l ++ toLE 2 id ++ toLE 4 c ++ toLE 4 vs.length ++ toLE 1 (if bf then 1 else 0) ++ zeros 3
    ++ toLE 8 (if crc then (crc64 v).toNat else 0) ++ v

/-- Send the value of a right child to the member that computes its parent; across pods through the gateway (R361).
DEDUCED, log entry 68. -/
def State.sendValue (s : State) (p l id c : Nat) (k : Bytes) (vs : List F32) : State :=
  match (s.part p).step with
  | none => s
  | some x =>
    let d := holder k (id / 2)
    let cross := decide (d / 32 ≠ s.pod)
    let adaptive := !s.arrFree p && cross
    let (s, vs) := s.narrowed p l id c adaptive vs
    let body := bodyFdValue x.stepNo l id c (adaptive || s.levelNarrow p k id) false vs
    if cross then
      match s.gateFor (d / 32) with
      | some g => (s.countSubst [g]).send g.2.1 p 0x20 (trig p l 0 9) body false
      | none => s
    else s.send d p 0x20 (trig p l 0 9) body false

/-- A chunk begins on the member: leaves that are right children of another member's node are sent.
DEDUCED, log entry 69. -/
def State.startChunk (s : State) (p l c : Nat) : State :=
  match (s.part p).step with
  | none => s
  | some x =>
    let k := s.redBlock x.group
    let e := foldLayer k l
    let js := (shardsOf k s.member).filter (fun j => j % 2 = 1 && holder k ((1024 + j) / 2) != s.member)
    if c < chunkCount e then js.foldl (fun s j => s.sendValue p l (1024 + j) c k (s.leaf p k e j c)) s else s

/-- The result of a chunk is converted and written (R367). -/
def State.writeResult (s : State) (p l c : Nat) (e : Bytes) (vs : List F32) : State :=
  let b := vs.flatMap (fun v => if fld e 21 1 = 1 then toLE 2 (f32ToBf v) else toLE 4 v.toNat)
  let s := s.onStep p (onRed l (fun r => { r with
    chunkSt := setAt r.chunkSt c (fun _ => 2), crcs := r.crcs ++ [(c, (crc64 b).toNat)] }))
  s.wr (s.resultRange p e c).1 b (.redResult p l c)

/-! ### Messages passed on by a gateway (R361) -/

/-- System-owner staging cells for a message body that a gateway passes on to `n` members (R174, R361). -/
def State.heldFor (s : State) (b : Bytes) (n : Nat) : Option (Nat × State) :=
  s.allocStage (ownerOf (s.sect 5) sysOwner) (ceilDiv (b.length + 16) 256) (max 1 n) none false b (.linkEntry sysOwner true)

/-- A gateway passes FD_RESULT, FD_ABORT or FD_POISON on in its pod, its bytes in staging cells until every hop has acknowledged; `none` where the
pools refuse. -/
def State.fanHeld (s : State) (msg : Msg) : Option State :=
  if msg.src / 32 = s.pod ∨ s.podPeers.isEmpty then some s
  else (s.heldFor msg.body s.podPeers.length).map (fun r =>
    s.podPeers.foldl (fun t d => t.sendWith [r.1] d msg.owner msg.typ msg.trigger msg.body false) r.2)

/-! ### Commands -/

/-- A running reduction of a step. -/
def runningRed (x : StepSt) (l : Nat) : Option Red := x.reds.find? (fun r => r.layer == l && r.state == 1)

/-- The step and the layer that a message of the exchange or of Fold names. -/
def msgAt (k : Msg) : Nat × Nat :=
  if k.typ == 0x0A || (decide (0x20 ≤ k.typ) && decide (k.typ ≤ 0x23)) then (fld k.body 0 8, fld k.body 8 2)
  else if decide (1 ≤ k.typ) && decide (k.typ ≤ 0x09) then (fld k.body 8 8, fld k.body 4 2)
  else (0, 0xFFFF)

/-- Layer l of an aborted step needs no doorbell once its first message is here, or once no other member is left as a
source of it (R416, R418). DEDUCED, log entry 70. -/
def State.unbelled (s : State) (p : Nat) (x : StepSt) (l : Nat) : Bool :=
  selfOut x l && (s.link.inbox.any (fun k => k.owner == p && msgAt k == (x.stepNo, l))
    || (match x.aset with
      | some a => a.all (fun m => m == s.member || goneFrom x m l false)
      | none => false))

/-- The group's registered doorbell for a layer of the step, or what stands for one (R121, R356, R418). -/
def State.bellFor (s : State) (x : StepSt) (l : Nat) : Bool :=
  l == 0 || (s.group x.group).bells.any (fun b => b.1 == l && b.2.1 == x.stepNo % 65536 && b.2.2) || decide (l < x.opened)

/-- From this boundary on the next pass of an aborted step whose first message is here may start (R418). -/
def State.openAborted (s : State) : State :=
  (List.range 8).foldl (fun s p => match (s.part p).step with
    | none => s
    | some x => if s.unbelled p x x.nextLayer then s.onStep p (fun x => { x with opened := x.nextLayer + 1 }) else s) s

/-- The layer's reduction may start: at L for layer 0, after its doorbell for a later one (R356). -/
def State.redDue (s : State) (p l : Nat) (x : StepSt) : Bool :=
  let e := foldLayer (s.redBlock x.group) l
  x.launched && x.tornBy.isNone && x.redAbort.isNone && fld e 0 8 != 0 && decide (l < s.pLayers p)
    && !x.reds.any (fun r => r.layer == l) && decide (x.nextLayer ≤ l) && s.bellFor x l

/-- The first chunks of a reduction begin once its contributions are here and an earlier layer's reduction is over (R54, R363). -/
def State.startChunks (s : State) (p l : Nat) : State :=
  match (s.part p).step with
  | none => s
  | some x =>
    let k := s.redBlock x.group
    match runningRed x l with
    | none => s
    | some r =>
      if s.reading (.contrib p l) || !chunkOpen x k r 0 then s
      else (List.range (min r.chunkSt.length (fld k 3 1))).foldl (fun s c => s.startChunk p l c) s

/-- REDUCTION_START: the contributions are read, the result's range enters the seal table (R356, R369). -/
def execReductionStart (part layer : Nat) (s : State) : Host.Outcome State Fault Refusal :=
  match (s.part part).step with
  | none => .next s
  | some x =>
    if !s.redDue part layer x then .next s
    else
      let k := s.redBlock x.group
      let e := foldLayer k layer
      let blk := (s.foldOf x.group).getD 0
      let n := chunkCount e
      let r : Red := { block := blk, layer := layer, start := s.stitch.count, vals := [], right := [], bufs := []
                       asked := [], moved := [], chunkSt := List.replicate n 0, crcs := [], state := 1, narrowed := 0, audited := false }
      let s := s.onStep part (fun x => { x with reds := x.reds ++ [r] })
      let s := { s with fold := { s.fold with
        redState := setAt s.fold.redState blk (fun _ => 1), redSealed := setAt s.fold.redSealed blk (fun _ => 0) } }
      let len := (shardsOf k s.member).length * redElems e * elemBytes (fld e 20 1)
      let s := s.issueRead ((s.tr part (fld e 0 8) 1 2).getD 0) len (.contrib part layer)
      let s := (s.waitFor part layer 0 9).waitFor part layer 0 10
      .next (if s.reading (.contrib part layer) then s else s.startChunks part layer)

/-- The running reduction of a step of the lowest layer above l begins its chunks. -/
def State.startNext (s : State) (p l : Nat) : State :=
  match (s.part p).step.bind (fun x => x.reds.find? (fun r => r.state == 1 && decide (l < r.layer))) with
  | some r => s.startChunks p r.layer
  | none => s

/-- The nodes that the member computes of a level below, and the same node of the chunk before, are computed: nodes go in
ascending level and the chunks of a reduction in ascending order (R360, R363). -/
def State.nodesBelow (s : State) (k : Bytes) (r : Red) (id c : Nat) : Bool :=
  let have_ (n d : Nat) := r.vals.any (fun v => v.1 == n && v.2.1 == d)
  ((List.range 1024).drop (2 * 2 ^ Nat.log2 id)).all (fun n => holder k n != s.member || have_ n c)
    && (c == 0 || decide (3 ≤ r.chunkSt.getD (c - 1) 0) || have_ id (c - 1))

/-- NODE_ADD: the values of a node are added and narrowed; the value goes to the parent's member, and the root's to
every member as FD_RESULT (R360, R366, R367). Inputs that lie in the Fold region are read first (R25, R54). `mismatch` as for
FOLD_COMBINE; a node whose repetition failed is computed afresh on the substitute of R344, in the slots of both units (R353,
R354). -/
def execNodeAdd (part node chunk mismatch : Nat) (s : State) : Host.Outcome State Fault Refusal :=
  match (s.part part).step with
  | none => .next s
  | some x =>
    match x.reds.find? (fun r => r.state == 1) with
    | none => .next s
    | some r =>
      let l := r.layer
      let k := s.redBlock x.group
      let e := foldLayer k l
      let ok := within node 1 1023 && holder k node == s.member && chunkOpen x k r chunk && x.tornBy.isNone
        && decide (r.chunkSt.getD chunk 0 ≤ 1) && !r.vals.any (fun v => v.1 == node && v.2.1 == chunk)
        && s.nodesBelow k r node chunk && s.mayIssue part && !s.reading (.contrib part l) && !s.reading (.foldIn part l node chunk)
      match s.nodeVal part k e r (2 * node) chunk, s.rightVal part k e r (2 * node + 1) chunk with
      | some a, some b =>
        if !ok then .next s
        else
          let us := s.foldUnits
          let home := ((r.moved.find? (fun v => v.1 == node && v.2.1 == chunk)).map (·.2.2)).getD (us.getD (chunk % max 1 us.length) 0)
          let (unit, open_) := s.foldFor part home
          let ins := s.inputRanges r node chunk a.length
          if !open_ then .next s
          else if !ins.isEmpty && !r.asked.contains (node, chunk) then
            .next ((s.issueReads ins (.foldIn part l node chunk)).onStep part (onRed l (fun r => { r with
              asked := r.asked ++ [(node, chunk)] })))
          else
          let j := mismatch / 49152 % max 1 a.length
          let bad := failedTries mismatch (resOp false (a.getD j 0) (b.getD j 0))
          let s := s.charge 12 (ceilDiv a.length 64 * (1 + min bad 1))
          let s := if bad = 0 then s else s.residue unit true (decide (1 < bad)) (nodeLevel node) chunk
          if 1 < bad ∨ (s.part part).state ≠ 1 then
            .next (s.onStep part (onRed l (fun r => { r with moved := r.moved ++ [(node, chunk, home)] })))
          else
            let yes := if node = 1 then s.rootNarrow part k x.group else s.levelNarrow part k node
            let (s, v) := s.narrowed part l node chunk yes (rowOp f32Add a b)
            let s := s.onStep part (onRed l (fun r => { r with
              vals := r.vals ++ [(node, chunk, v)], chunkSt := setAt r.chunkSt chunk (max 1) }))
            let s := s.putNode part l chunk (s.foldLevel k node) node k { r with vals := r.vals ++ [(node, chunk, v)] } v
            if node = 1 then
              let gs := s.gatesOf x.group
              .next ((s.spread part 0x21 (trig part l 0 10) (bodyFdValue x.stepNo l 1 chunk yes true v) gs).writeResult
                part l chunk e v)
            else if node % 2 = 1 ∧ holder k (node / 2) ≠ s.member then .next (s.sendValue part l node chunk k v)
            else .next s
      | _, _ => .next s

/-- Where a message of a reduction of member `orig` stands: 0 held, 1 stale, 2 now. One of a dead member is stale (R333, R342); an
FD_ABORT (`ends`) acts on a reduction whose chunks are all sealed too (R375). -/
def State.redWhen (s : State) (p stepNo l orig : Nat) (ends : Bool) : Nat :=
  if s.isDead orig then 1 else
  match (s.part p).step with
  | none => s.xWhen p stepNo 0
  | some x =>
    if stepNo < x.stepNo then 1
    else if x.stepNo < stepNo || !x.launched then 0
    else if x.tornBy.isSome || x.redAbort.isSome || s.pLayers p ≤ l then 1
    else match x.reds.find? (fun r => r.layer == l) with
      | some r => if r.state = 1 ∨ (ends ∧ r.state = 2) then 2 else 1
      | none => if l < x.nextLayer then 1 else 0

/-- The layout and ranges of a value message common to FD_VALUE and FD_RESULT (R362). -/
def fdLayout (b e : Bytes) (bf : Bool) : Bool :=
  let n := fld b 16 4
  decide (32 ≤ b.length) && decide (b.length = 32 + n * (if fld b 20 1 = 1 then 2 else 4)) && rsv b 21 3
    && decide (fld b 12 4 < chunkCount e) && decide (n = chunkElems e (fld b 12 4)) && fld b 20 1 == (if bf then 1 else 0)

/-- FD_VALUE: the value of a right child is held for its node; a gateway forwards one for another member of its pod
(R361, R362). A corrupt one aborts the reduction (R374). -/
def execFdValue (msg : Msg) (s : State) : Host.Outcome State Fault Refusal :=
  let b := msg.body
  let p := msg.owner
  let l := fld b 8 2
  let id := fld b 10 2
  let c := fld b 12 4
  let k := s.redBlock (s.stepGroup p)
  let d := holder k (id / 2)
  if !(s.holds msg && msg.typ == 0x20 && (!bit msg.flags 0 || msg.dst == s.member)) then .next s
  else if within id 2 2047 ∧ d ≠ s.member ∧ d / 32 = s.pod ∧ msg.src / 32 ≠ s.pod ∧ !k.isEmpty then
    match s.heldFor b 1 with
    | some (id, s) => .next ((s.take msg).sendWith [id] d p 0x20 msg.trigger b false)
    | none => .next (s.denied false)
  else match s.redWhen p (fld b 0 8) l (holder k id) false, (s.part p).step with
    | 0, _ => .next s
    | 1, _ => .next (if s.noLayer p (fld b 0 8) l then s.corrupt msg 0 else s.stale msg)
    | _, none => .next s
    | _, some x =>
      match runningRed x l with
      | none => .next (s.stale msg)
      | some r =>
        let e := foldLayer k l
        let bf := if s.arrFree p then s.levelNarrow p k id else decide (holder k id / 32 ≠ s.pod)
        let good := s.headOk msg && fdLayout b e bf && within id 2 2047 && id % 2 == 1 && d == s.member
          && holder k id != s.member && decide (fld b 24 8 = 0)
        if !good then .next ((s.corrupt msg 0).raiseAbort p l 2)
        else if r.right.any (fun v => v.1 == id && v.2.1 == c) then .next (s.dup msg)
        else if !chunkOpen x k r c then .next s
        else .next (((s.take msg).onStep p (onRed l (fun r => { r with
          right := r.right ++ [(id, c, bodyValues b)] }))).putNode p l c (nodeLevel (id / 2)) id k r (bodyValues b))

/-- FD_RESULT: a gateway passes it on; its values are converted and written (R361, R367). -/
def execFdResult (msg : Msg) (s : State) : Host.Outcome State Fault Refusal :=
  let b := msg.body
  let p := msg.owner
  let l := fld b 8 2
  let c := fld b 12 4
  if !(s.holds msg && msg.typ == 0x21 && (!bit msg.flags 0 || msg.dst == s.member)) then .next s
  else match s.redWhen p (fld b 0 8) l (holder (s.redBlock (s.stepGroup p)) 1) false, (s.part p).step with
    | 0, _ => .next s
    | w, st =>
      match s.fanHeld msg with
      | none => .next (s.denied false)
      | some s =>
      match st, (if w = 1 then none else st.bind (fun x => runningRed x l)) with
      | none, _ => .next (if w = 1 then s.stale msg else s)
      | _, none => .next (if s.noLayer p (fld b 0 8) l then s.corrupt msg 0 else s.stale msg)
      | some x, some r =>
        let k := s.redBlock x.group
        let e := foldLayer k l
        let good := s.headOk msg && fdLayout b e (s.rootNarrow p k x.group) && fld b 10 2 == 1
          && decide (fld b 24 8 = (crc64 (b.drop 32)).toNat) && holder k 1 != s.member
        if !good then .next ((s.corrupt msg 0).raiseAbort p l 2)
        else if 2 ≤ r.chunkSt.getD c 0 then .next (s.dup msg)
        else .next ((s.take msg).writeResult p l c e (bodyValues b))

/-- CHUNK_SEAL: the write responses of a chunk's result have arrived (R368); the set is free for the next chunk. -/
def execChunkSeal (part chunk : Nat) (s : State) : Host.Outcome State Fault Refusal :=
  match (s.part part).step with
  | none => .next s
  | some x =>
    match x.reds.find? (fun r => r.state == 1) with
    | none => .next s
    | some r =>
      let l := r.layer
      if r.chunkSt.getD chunk 0 ≠ 2 ∨ s.writing (.redResult part l chunk) then .next s
      else
        let st := setAt r.chunkSt chunk (fun _ => 3)
        let all := st.all (· == 3)
        let s := s.onStep part (onRed l (fun r => { r with
          chunkSt := st, state := if all then 2 else 1
          vals := r.vals.filter (fun v => v.2.1 != chunk), right := r.right.filter (fun v => v.2.1 != chunk)
          bufs := r.bufs.filter (fun b => b.1 != chunk) }))
        let s := { s with fold := { s.fold with
          redSealed := setAt s.fold.redSealed r.block (· + 1)
          redState := if all then setAt s.fold.redState r.block (fun _ => 2) else s.fold.redState } }
        let s := s.startChunk part l (chunk + fld (s.redBlock x.group) 3 1)
        .next (if all then s.startNext part l else s)

/-- A control message of Fold: FD_ABORT or FD_POISON. Corrupt ones count as valid (R362). -/
def State.fdControl (s : State) (msg : Msg) (typ : Nat) (f : State → Nat → State) : State :=
  let b := msg.body
  let p := msg.owner
  if !(s.holds msg && msg.typ == typ && (!bit msg.flags 0 || msg.dst == s.member)) then s
  else
    let l := fld b 8 2
    let w := s.redWhen p (fld b 0 8) l (fld b 12 2) (typ == 0x22)
    let w := if typ = 0x23 ∧ !s.isDead (fld b 12 2) then (match (s.part p).step with
      | some x => if fld b 0 8 = x.stepNo ∧ x.launched ∧ x.fin ≠ 3 then 2 else w
      | none => w) else w
    if w = 0 then s
    else match s.fanHeld msg with
    | none => s.denied false
    | some s =>
      if w = 1 then (if s.noLayer p (fld b 0 8) l then s.corrupt msg 0 else s.stale msg)
      else
        let lay := s.headOk msg && decide (b.length = 16) && rsv b 11 1 && rsv b 14 2
          && memberOk (fld b 12 2) && decide (l < s.pLayers p)
          && (if typ = 0x22 then within (fld b 10 1) 1 3 else fld b 10 1 == 0)
        f (if lay then s.take msg else s.corrupt msg 0) l

/-- FD_ABORT (R375). -/
def execFdAbort (msg : Msg) (s : State) : Host.Outcome State Fault Refusal :=
  .next (s.fdControl msg 0x22 (fun s l => s.abortRed msg.owner l))

/-- FD_POISON: the step is marked on the receiver (R371, R372). -/
def execFdPoison (msg : Msg) (s : State) : Host.Outcome State Fault Refusal :=
  .next (s.fdControl msg 0x23 (fun s l => s.poison msg.owner l false))

/-- The sealed chunks of a step that the audit reads: layer, chunk. -/
def auditList (x : StepSt) : List (Nat × Nat) :=
  (x.reds.filter (fun r => !r.audited)).flatMap (fun r =>
    ((List.range r.chunkSt.length).filter (fun c => r.chunkSt.getD c 0 == 3)).map (fun c => (r.layer, c)))

/-- SEAL_AUDIT: before the completion record every sealed chunk is read back and its CRC compared (R370). -/
def execSealAudit (part : Nat) (s : State) : Host.Outcome State Fault Refusal :=
  match (s.part part).step with
  | none => .next s
  | some x =>
    let past := x.launched && x.tornBy.isNone && decide (x.fin = 0) && x.passes.all (·.ended)
      && (x.nextLayer == s.pLayers part || x.redAbort.isSome)
    if !past ∨ x.reds.all (·.audited) then .next s
    else
      let k := s.redBlock x.group
      let s := (auditList x).foldl (fun s a =>
        let g := s.resultRange part (foldLayer k a.1) a.2
        s.issueRead g.1 g.2 (.sealed part a.1 a.2)) s
      let crc (a : Nat × Nat) := ((x.reds.find? (fun r => r.layer == a.1)).bind (fun r =>
        (r.crcs.find? (fun e => e.1 == a.2)).map (·.2))).getD 0
      let bad := (auditList x).filter (fun a =>
        let g := s.resultRange part (foldLayer k a.1) a.2
        (crc64 (s.rd g.1 g.2)).toNat != crc a)
      let s := s.onStep part (fun x => { x with reds := x.reds.map (fun r => { r with audited := true }) })
      let s := s.bump rFD_AUDIT_FAIL_CNT bad.length
      .next (match bad with
        | a :: _ => s.poison part a.1 true
        | [] => s)

/-- A physical range overlaps a chunk that a running reduction has neither sealed nor released (R369). -/
def State.unsealed (s : State) (addr len : Nat) : Bool :=
  (List.range 8).any (fun p => match (s.part p).step with
    | none => false
    | some x => x.reds.any (fun r => r.state == 1 && (List.range r.chunkSt.length).any (fun c =>
        r.chunkSt.getD c 0 ≤ 2 && overlap (addr, len) (s.resultRange p (foldLayer (s.redBlock x.group) r.layer) c))))

end Sys2Proof.Machine
end

