-- ==== Sys2Proof/Machine/StitchTime.lean ====
section
/-! DEFINITION. Stitch time: boundaries, sources, lock and its loss, marks and TIME messages (R98 to R113, R312,
R313). -/

namespace Sys2Proof.Machine

/-- A port leads to a present peer: an intra-pod port that is not absent, or an uplink that carries a channel. An uplink without a
channel receives nothing and stays below ACTIVE. DEDUCED, log entry 113. -/
def State.hasPeer (s : State) (p : Nat) : Bool :=
  !(s.port p).absent && (decide (p < 31) || s.link.chans.any (fun c => c.port == p))

/-- The end of LINK_TRAIN: every port toward a present peer has trained, or its 100 ms are over; a port that failed has
not trained (R92). -/
def execLinkTrainEnd (timeout : Bool) (s : State) : Host.Outcome State Fault Refusal :=
  let done := (List.range 36).all (fun p => !s.hasPeer p || (s.port p).state == 5)
  if !s.boot.rstLow && s.boot.state == 8 && s.boot.waiting.isNone && (timeout || done) then .next (s.enter 9 0)
  else .next s

/-- HEAD_LISTEN_END: the head manager adopts the highest count it heard, which has run on since, or starts at 0, in SOURCE
state (R92, R102). -/
def execHeadListenEnd (s : State) : Host.Outcome State Fault Refusal :=
  if !s.boot.rstLow && s.boot.state == 9 && s.boot.waiting.isNone && s.headMgr && s.stitch.state == 0 then
    let s := { s with stitch := { s.stitch with count := s.stitch.heard.getD 0, state := 3, phasePs := 0 } }
    .next (s.enter 10 0)
  else .next s

/-- LOCK_ACQUIRED: 1,000 consecutive stitches within tolerance (R92, R107). -/
def execLockAcquired (s : State) : Host.Outcome State Fault Refusal :=
  if !s.boot.rstLow && decide (9 ≤ s.boot.state) && decide (s.boot.state ≤ 11) && !s.headMgr
      && (s.stitch.state == 0 || s.stitch.state == 2) && decide (1000 ≤ s.stitch.lockRun) then
    let s := { s with stitch := { s.stitch with state := 1, relocked := s.stitch.state == 2, badRun := 0 } }
    if s.boot.state = 9 then .next (s.enter 10 0) else .next s
  else .next s

/-- STITCH_LOCK_TIMEOUT: not LOCKED within 1 s of entering STITCH_LOCK; a member that reached LOCKED and waits to leave the
state is not refused (R92, R94). -/
def execStitchLockTimeout (us : Nat) (s : State) : Host.Outcome State Fault Refusal :=
  if !s.boot.rstLow && s.boot.state == 9 && s.boot.waiting.isNone && !s.headMgr && s.stitch.state != 1 then
    .next (s.refuseStart 12 0 us)
  else .next s

/-- LOCK_LOSS: 4 stitches out of tolerance or 16 without a time input move LOCKED to HOLDOVER (R107). -/
def execLockLoss (s : State) : Host.Outcome State Fault Refusal :=
  if s.stitch.state == 1 && (decide (4 ≤ s.stitch.badRun) || decide (16 ≤ s.stitch.silentRun)) then
    let s := { s with stitch := { s.stitch with state := 2, lockRun := 0, badRun := 0, relocked := false } }
    .next ((s.raise rSTITCH_EVT 0).bump rLOCK_LOSS_CNT 1)
  else .next s

/-- No step of any partition is in flight on the member: one whose completion record is written is over (R153). -/
def State.noStep (s : State) : Bool :=
  s.parts.all (fun p => match p.step with | some x => !x.launched || x.fin == 3 | none => true)

/-- The count of the reference, from the last COUNT or TIME of the source (R109, R312, R313). -/
def State.refCount (s : State) : Nat := ((s.stitch.count : Int) + s.stitch.refOfs).toNat

/-- STITCH_SLIP: after relocking, with no step in flight, the member takes the reference's count, `refCount` (R109); a
slip to another count is not due. -/
def execStitchSlip (refCount : Nat) (s : State) : Host.Outcome State Fault Refusal :=
  if s.refCount == refCount && s.stitch.state == 1 && s.stitch.relocked && s.noStep && s.stitch.count != s.refCount then
    let s := { s with stitch := { s.stitch with count := s.refCount, refOfs := 0, markOwn := none, relocked := false } }
    .next ((s.raise rSTITCH_EVT 3).bump rSLIP_CNT 1)
  else .next s

/-- What the source's count is against the own one: a member in ACQUIRING takes it at once, later it waits for a slip
(R109). -/
def State.heardCount (s : State) (ofs : Int) : State :=
  if s.stitch.state = 0 then
    { s with stitch := { s.stitch with count := ((s.stitch.count : Int) + ofs).toNat, refOfs := 0, markOwn := none } }
  else { s with stitch := { s.stitch with refOfs := ofs } }

/-! ### Phase sources (R105, R106) -/

/-- A manager that STITCH_REF drives (R74, R101). -/
def State.usesRef (s : State) : Bool :=
  !s.boot.rstLow && decide (9 ≤ s.boot.state) && decide (s.boot.state ≤ 11) && s.podMgr && s.extStitch

/-- STITCH_REF_EDGE: an edge `offsetPs` from its prediction. Inside ±16 ns it steers; outside it is ignored and
counted; 64 inside in a row bring the source back (R106). -/
def execStitchRefEdge (offsetPs : Int) (s : State) : Host.Outcome State Fault Refusal :=
  if !s.usesRef then .next s
  else if offsetPs.natAbs ≤ 16000 then
    let good := s.stitch.goodRun + 1
    let back := s.stitch.refLost && decide (64 ≤ good)
    let s := { s with stitch := { s.stitch with
      missRun := 0, goodRun := good, got := s.stitch.got || s.stitch.src == 2 || back
      measured := if s.stitch.src == 2 || back then offsetPs else s.stitch.measured
      refLost := s.stitch.refLost && !back, src := if back then 2 else s.stitch.src } }
    .next (if back then s.raise rSTITCH_EVT 2 else s)
  else
    .next ({ s with stitch := { s.stitch with goodRun := 0 } }.bump rREF_EXTRA_CNT 1)

/-- STITCH_REF_MISS: a predicted edge does not come; after 16 the manager takes its fallback source (R106). -/
def execStitchRefMiss (s : State) : Host.Outcome State Fault Refusal :=
  if !s.usesRef then .next s
  else
    let miss := s.stitch.missRun + 1
    let lost := decide (16 ≤ miss) && !s.stitch.refLost
    let s := { s with stitch := { s.stitch with
      missRun := miss, goodRun := 0, refLost := s.stitch.refLost || lost
      src := if lost then (if s.headMgr then 4 else 3) else s.stitch.src } }
    let s := s.bump rREF_MISS_CNT 1
    .next (if lost then s.raise rSTITCH_EVT 1 else s)

/-- STITCH_RELAY_SWITCH: symbols come through the lowest-numbered member locked directly (R105). -/
def execStitchRelaySwitch (lockedDirect : List Nat) (s : State) : Host.Outcome State Fault Refusal :=
  let c := lockedDirect.filter (fun b => b ≠ s.block && b ≠ s.mgrBlock s.pod && decide (b < s.podSize))
  let d := s.port (s.portTo (s.mgrBlock s.pod))
  let due := decide (d.state < 5) || d.state == 7 || decide (16 ≤ s.stitch.directSilent)
  if s.podMgr || !due || !decide (9 ≤ s.boot.state ∧ s.boot.state ≤ 11) then .next s
  else match c with
    | [] => .next s
    | b :: r => .next { s with stitch := { s.stitch with src := 1, relay := r.foldl min b } }

/-- STITCH_DIRECT_RESTORE: the direct port has delivered 64 consecutive symbols (R105). -/
def execStitchDirectRestore (s : State) : Host.Outcome State Fault Refusal :=
  if s.stitch.src == 1 && decide (64 ≤ s.stitch.directRun) then
    .next { s with stitch := { s.stitch with src := 0, relay := 0 } }
  else .next s

/-! ### Marks, counts and TIME (R312, R313) -/

/-- A member in LOCKED or SOURCE state marks the stitch on every ACTIVE intra-pod port: the first flit that leaves now
and is no re-send carries the mark (R312, R314). -/
def State.markStitch (s : State) : State :=
  let on := s.stitch.state == 1 || s.stitch.state == 3
  { s with
    stitch := { s.stitch with marked := if on then s.stitch.count else s.stitch.marked }
    link := { s.link with chans := s.link.chans.map (fun (c : Chan) =>
      { c with markDue := on && decide (c.id < 31) && s.active c.port }) } }

/-- IDLE flits fill every gap (R292): a port that has sent nothing yet sends its mark in one. -/
def State.idleMarks (s : State) : State :=
  (s.link.chans.map (·.id)).foldl (fun s id => match s.chan id with
    | some c => if c.markDue then s.drive c [idleFlit c] else s
    | none => s) s

/-- Stitches since a message of the channel's COUNT or TIME reach `n`, or none has left (R312, R313). -/
def State.sendDue (s : State) (chan now n : Nat) : Bool :=
  match s.stitch.sentAt.find? (fun e => e.1 == chan) with
  | some e => decide (now < e.2) || decide (e.2 + n ≤ now)
  | none => true

/-- Note when a COUNT or TIME left on a channel. -/
def State.noteSent (s : State) (chan now : Nat) : State :=
  { s with stitch := { s.stitch with
    sentAt := s.stitch.sentAt.filter (fun (e : Nat × Nat) => e.1 != chan) ++ [(chan, now)] } }

/-- COUNT_FLIT_SEND: every 64 stitches the count of the stitch last marked (R301, R312). -/
def execCountFlitSend (port : Nat) (s : State) : Host.Outcome State Fault Refusal :=
  if (s.stitch.state == 1 || s.stitch.state == 3) && decide (port < 31) && s.active port
      && s.sendDue port s.stitch.marked 64 then
    .next ((s.noteSent port s.stitch.marked).control port ([4] ++ zeros 7 ++ toLE 8 s.stitch.marked))
  else .next s

/-- The manager channels that carry TIME: between each pod manager and the head manager. -/
def State.timeChan (s : State) (c : Chan) : Bool :=
  decide (64 ≤ c.id) && s.podMgr
    && (if s.headMgr then decide (c.peer = s.mgrOf (c.peer / 32)) else decide (c.peer = s.headMember))

/-- TIME_SEND: every 8 stitches, in a system slot of the uplink, one TIME message, `txOfs` ps after the boundary; a head
manager that listens has no count to send yet (R102, R112, R313). -/
def execTimeSend (chan txOfs : Nat) (s : State) : Host.Outcome State Fault Refusal :=
  match s.chan chan with
  | none => .next s
  | some c =>
    if !(s.timeChan c && s.active c.port && !s.boot.rstLow && decide (9 ≤ s.boot.state)
        && s.slotOpen sysOwner (12 + c.port) && (!s.headMgr || s.stitch.state == 3) && s.sendDue chan s.stitch.count 8) then .next s
    else
      let e := (s.stitch.peers.find? (fun x => x.1 = chan)).getD (chan, 0, 0, 0, 0)
      .next ((s.noteSent chan s.stitch.count).control chan ([3, 0] ++ toLE 2 s.member ++ zeros 4 ++ toLE 8 s.stitch.count ++ toLE 4 txOfs
        ++ toLE 4 e.2.2.2.2 ++ toLE 8 e.2.1 ++ toLE 8 e.2.2.2.1 ++ toLE 4 e.2.2.1 ++ zeros 4
        ++ toLE 8 (if s.headMgr then s.recd.calendar else 0)))

/-- A pod manager adopts the head manager's calendar and counts on (R461): a change made by CAL_SET is passed on. -/
def State.takeCalendar (s : State) (count secs : Nat) : State :=
  let now := secs + (s.stitch.count / 1562500 - count / 1562500)
  if secs = 0 ∨ (now = s.recd.calendar ∧ s.recd.calSrc = 3) then s
  else { s with recd := { s.recd with calendar := now, calSrc := 3 }, mgr := { s.mgr with calPend := true } }

/-- TIME: the two-way exchange, the count source and the calendar (R101 to R103, R107, R313). `arrivalPs` is the arrival
after the own boundary. A TIME whose PEER_COUNT is 0 answers none of ours: it ends a silence, and gives no round trip, phase
or count. -/
def execTime (chan : Nat) (flit : Bytes) (arrivalPs : Nat) (s : State) : Host.Outcome State Fault Refusal :=
  .next (s.onFlit chan flit none (isControl 3) (fun s c f =>
    if !s.timeChan c then s
    else
      let pl := f.payload
      let count := fld pl 8 8
      let tx := fld pl 16 4
      let at4 : Int := (s.stitch.count * 640000 + arrivalPs : Nat)
      let dep1 : Int := (fld pl 24 8 * 640000 + fld pl 40 4 : Nat)
      let dep3 : Int := (count * 640000 + tx : Nat)
      let arr2 : Int := (fld pl 32 8 * 640000 + fld pl 20 4 : Nat)
      let s := { s with stitch := { s.stitch with
        peers := s.stitch.peers.filter (fun (x : Nat × Nat × Nat × Nat × Nat) => decide (x.1 ≠ chan))
          ++ [(chan, count, tx, s.stitch.count, arrivalPs)]
        got := s.stitch.got || !s.headMgr
        roundPs := if fld pl 24 8 = 0 then s.stitch.roundPs else (at4 - dep1) - (dep3 - arr2) } }
      if s.headMgr then
        if s.boot.state = 9 ∧ s.stitch.state = 0 then
          { s with stitch := { s.stitch with heard := some (max count (s.stitch.heard.getD 0)) } }
        else s
      else if fld pl 24 8 = 0 then s
      else
        let e := nearest ((arrivalPs : Int) - s.stitch.roundPs / 2 - tx)
        let two := s.stitch.src == 3
        let s := { s with stitch := { s.stitch with
          measured := if two then e.1 else s.stitch.measured } }
        (s.heardCount ((count : Int) - (s.stitch.count + e.2))).takeCalendar count (fld pl 48 8)))

/-- COUNT: the count of the sender's last marked stitch, used from the time source (R301, R312). The mark stands at its own
count of the boundary that the mark named. -/
def execCount (chan : Nat) (flit : Bytes) (s : State) : Host.Outcome State Fault Refusal :=
  .next (s.onFlit chan flit none (isControl 4) (fun s c f =>
    let b := if s.stitch.src = 1 then s.stitch.relay else s.mgrBlock s.pod
    if s.podMgr || decide (31 ≤ c.id) || decide (c.peer % 32 ≠ b) then s
    else
      match s.stitch.markOwn with
      | some k => s.heardCount ((fld f.payload 8 8 : Int) - k)
      | none => s))

/-! ### The boundary -/

/-- The phase error of the stitch that ends is judged: what the source's last symbol, edge or TIME showed (R101, R105,
R107). A stitch in which none came is judged by the last reading, 0 before the first, until 16 in a row were silent.
DESIGN CHOICE, log entry 121. A head manager in SOURCE has no tolerance to judge: LOCK_RUN keeps its value there. DESIGN CHOICE, log entry 103. -/
def State.judgePhase (s : State) : State :=
  let x := s.stitch
  if x.state = 3 then { s with stitch := { x with phasePs := 0, got := false, directGot := false } }
  else
    let silent := if x.got then 0 else x.silentRun + 1
    let ok := decide (x.measured.natAbs ≤ if s.podMgr then 16000 else 8000) && decide (silent < 16)
    { s with stitch := { x with
      phasePs := x.measured, silentRun := silent
      lockRun := if ok then min 65535 (x.lockRun + 1) else 0
      badRun := if ok then 0 else x.badRun + 1
      directRun := if x.directGot then x.directRun + 1 else 0
      directSilent := if x.directGot then 0 else x.directSilent + 1
      got := false, directGot := false } }

/-- Increment or clear a run in a keyed list. -/
def bumpRun {α : Type} [BEq α] (l : List (α × Nat)) (k : α) (on : Bool) : List (α × Nat) :=
  let n := ((l.find? (fun e => e.1 == k)).map (·.2)).getD 0
  l.filter (fun e => !(e.1 == k)) ++ (if on then [(k, n + 1)] else [])

/-- Bit (a, b) of the pod manager's link map (R308). -/
def State.linkBit (s : State) (a b : Nat) : Bool := bit (s.mgr.linkRows.getD a 0) b

/-- Members a and b reach each other under R309. -/
def State.reach (s : State) (a b : Nat) : Bool :=
  s.linkBit a b || (List.range s.podSize).any (fun r => r ≠ a && r ≠ b && s.linkBit a r && s.linkBit r b)

/-- A pod manager counts the stitches in which a member of its pod is cut off, or a pair of them (R338). -/
def State.countReach (s : State) : State :=
  if !s.podMgr then s
  else
    let bs := List.range s.podSize
    let cut (b : Nat) := !bs.any (fun a => a ≠ b && s.linkBit a b)
    let pairs := bs.flatMap (fun a => (bs.filter (fun b => decide (a < b))).map (fun b => (a, b)))
    { s with mgr := { s.mgr with
      reachRun := bs.foldl (fun l b => bumpRun l b (cut b && b ≠ s.block)) s.mgr.reachRun
      pairRun := pairs.foldl (fun l e => bumpRun l e (!(s.reach e.1 e.2 && s.reach e.2 e.1))) s.mgr.pairRun } }

end Sys2Proof.Machine
end

