-- ==== Sys2Proof/Machine/Manager.lean ====
section
/-! DEFINITION. Manager traffic: the launch agreement, the bias loop, the pod's maps, stragglers and the pod throttle, death
and withdrawal, port reports, the calendar (R118 to R120, R244, R257, R307, R308, R318, R320, R338 to R341, R415, R416,
R422 to R424, R437, R461). -/

namespace Sys2Proof.Machine

/-! ### Manager messages (R318, R320, R334) -/

/-- Hand a manager message to a member, oneself included. -/
def State.toMember (s : State) (dst typ : Nat) (body : Bytes) : State :=
  if dst = s.member then
    let own : Msg := { chan := 0, owner := 8, typ := typ, flags := 0, src := dst, dst := dst, trigger := 0xFFFF, msgNo := 0
                       length := body.length, body := body }
    { s with link := { s.link with inbox := s.link.inbox ++ [own] } }
  else s.sendMgr dst typ body

/-- Send a manager message to the own pod, oneself included. -/
def State.toPod (s : State) (typ : Nat) (body : Bytes) : State :=
  (s.sendAll s.podPeers 8 typ 0xFFFF body).toMember s.member typ body

/-- Receive a message of a manager: `ok` is its layout, `orig` the member whose message it is.
DEDUCED, log entry 78. -/
def State.mgrTake (s : State) (msg : Msg) (typ orig : Nat) (ok : Bool) (f : State → State) : State :=
  if !(s.holds msg && msg.typ == typ && (!bit msg.flags 0 || msg.dst == s.member)) then s
  else if !s.headOk msg then s.corrupt msg 1
  else if !ok then s.corrupt msg 7
  else if decide (orig < 512) && s.isDead orig then s.stale msg
  else f (s.take msg)

/-- A message of another pod is passed on in the receiver's pod by its manager (R318). -/
def State.deliver (s : State) (msg : Msg) : State :=
  if s.podMgr && msg.src / 32 != s.pod then s.sendAll s.podPeers 8 msg.typ 0xFFFF msg.body else s

/-- The member that decides the launches of a group (R118). -/
def State.decider (s : State) (g : Nat) : Nat := if (s.otherPods g).isEmpty then s.mgrOf s.pod else s.headMember

/-! ### READY, POD_READY and LAUNCH (R118 to R120, R257) -/

/-- Four 4-byte epochs. -/
def epochsAt (b : Bytes) (off : Nat) : List Nat := (List.range 4).map (fun t => fld b (off + 4 * t) 4)

/-- READY and POD_READY. -/
def bodyReady (stepNo g orig : Nat) (a b : List Nat) : Bytes :=
  toLE 8 stepNo ++ toLE 1 g ++ zeros 1 ++ toLE 2 orig ++ zeros 4 ++ a.flatMap (toLE 4) ++ b.flatMap (toLE 4) ++ zeros 16

/-- The layout of READY and POD_READY. -/
def readyLayout (b : Bytes) : Bool := decide (b.length = 64) && rsv b 9 1 && rsv b 12 4 && rsv b 48 16

/-- LAUNCH. -/
def bodyLaunch (stepNo g l : Nat) (es : List Nat) : Bytes :=
  toLE 8 stepNo ++ toLE 1 g ++ zeros 7 ++ toLE 8 l ++ es.flatMap (toLE 4) ++ zeros 24

/-- The launch that a manager collects for a group. -/
def State.launchOf (s : State) (g : Nat) : Option LaunchSt := s.mgr.launches.find? (fun l => l.group == g)

/-- A collection with nothing heard. -/
def freshLaunch (g stepNo : Nat) : LaunchSt where
  group := g
  stepNo := stepNo
  heard := []
  pods := []
  done := false

/-- Update the collection of a group for a step. A decided one, or one of an earlier step, makes room. -/
def State.onLaunch (s : State) (g stepNo : Nat) (f : LaunchSt → LaunchSt) : State :=
  let old := match s.launchOf g with
    | some l => if l.done || decide (l.stepNo ≠ stepNo) then freshLaunch g stepNo else l
    | none => freshLaunch g stepNo
  { s with mgr := { s.mgr with launches := s.mgr.launches.filter (fun l => l.group != g) ++ [f old] } }

/-- Descending without repeats or zeros. -/
def epochSet (es : List Nat) : List Nat := (sortBy (fun a b => decide (b ≤ a)) (es.filter (· ≠ 0))).eraseDups

/-- For each table the epochs that all reports hold, largest first. -/
def commonEpochs (rs : List (List Nat × List Nat)) : List (List Nat) :=
  (List.range 4).map (fun t => match rs with
    | [] => []
    | r :: rest => (epochSet [r.1.getD t 0, r.2.getD t 0]).filter (fun e =>
        rest.all (fun q => q.1.getD t 0 == e || q.2.getD t 0 == e)))

/-- The last step of the window whose bias a STEP runs under: the newest window that ends three steps or more before it, where
its last step completed here since the partition came up (R244). -/
def State.biasWindow (s : State) (p stepNo : Nat) : Option Nat :=
  let u := s.biasU
  let last := (stepNo - 2) / max 1 u * u - 1
  if u = 0 ∨ (s.part p).anyNo ∨ stepNo < u + 2 ∨ last < (s.part p).firstNo then none else some last

/-- The bias epoch that the LAUNCH of a step names: that of its window, and never one of a later window; `none` while not
every member holds it (R244, R257). -/
def State.biasChoice (s : State) (g stepNo : Nat) (common : List Nat) : Option Nat :=
  let mine := s.mgr.biasEp.filter (fun e => e.1 == s.gPart g)
  match s.biasWindow (s.gPart g) stepNo with
  | some last => (mine.find? (fun e => e.2.1 == last)).bind (fun e =>
      if common.contains e.2.2 then some e.2.2 else none)
  | none => (common.filter (fun e => !mine.any (fun k => decide (stepNo < k.2.1 + 3) && k.2.2 == e))).head?

/-- The decider chooses the launch stitch and the epochs, or withholds the LAUNCH (R119, R244, R257). -/
def State.decideLaunch (s : State) (g stepNo : Nat) (sets : List (List Nat)) : State :=
  if sets.any (·.isEmpty) then s.raise rSEL_EVT 0
  else match s.biasChoice g stepNo (sets.getD 3 []) with
    | none => s
    | some bias =>
      let l := s.frameLen * ceilDiv (s.stitch.count + s.launchLead) s.frameLen
      let body := bodyLaunch stepNo g l ((sets.take 3).map (fun e => e.headD 0) ++ [bias])
      let s := s.onLaunch g stepNo (fun x => { x with done := true })
      let s := (s.otherPods g).foldl (fun s q => s.sendMgr (s.mgrOf q) 0x12 body) s
      s.toPod 0x12 body

/-- A manager acts on what it has collected for a group. -/
def State.tryLaunch (s : State) (g : Nat) : State :=
  match s.launchOf g with
  | none => s
  | some l =>
    let mine := (s.members g).filter (fun m => m / 32 == s.pod)
    let rs := mine.filterMap (fun m => (l.heard.find? (fun h => h.1 == m)).map (·.2))
    if l.done || rs.length != mine.length then s
    else
      let common := commonEpochs rs
      if (s.otherPods g).isEmpty then s.decideLaunch g l.stepNo common
      else if s.headMgr then
        let ps := (s.otherPods g).filterMap (fun q => (l.pods.find? (fun h => h.1 == q)).map (·.2))
        if ps.length != (s.otherPods g).length then s
        else
          let own := (common.map (fun e => e.getD 0 0), common.map (fun e => e.getD 1 0))
          s.decideLaunch g l.stepNo (commonEpochs (own :: ps))
      else s.sendMgr s.headMember 0x11
        (bodyReady l.stepNo g s.member (common.map (fun e => e.getD 0 0)) (common.map (fun e => e.getD 1 0)))

/-- READY_SEND's tests pass: no READY leaves while THERM_TRIP_N is low, nor after a shutdown request (R108, R118, R424, R436,
R439, R443). DEDUCED, log entry 76. -/
def State.readyOk (s : State) (p : Nat) : Bool :=
  (s.stitch.state == 1 || s.stitch.state == 3) && (s.part p).state == 1 && s.readyEnergy && !s.isDead s.member
    && !s.power.thermLow && !s.self.request

/-- READY_SEND: READY goes to the pod manager; a member that must wait tests again at each boundary and counts the step
once. -/
def execReadySend (part : Nat) (s : State) : Host.Outcome State Fault Refusal :=
  match (s.part part).step with
  | none => .next s
  | some x =>
    if x.launched || x.launchAt.isSome || x.readySent || !s.inService then .next s
    else if !s.readyOk part then
      if x.waited || s.readyEnergy then .next s
      else .next ((s.onStep part (fun y => { y with waited := true })).bump rREADY_WAIT_CNT 1)
    else
      let ts := (s.part part).tables
      let body := bodyReady x.stepNo x.group s.member (ts.map (·.live.epoch)) (ts.map TablePair.pending)
      .next ((s.onStep part (fun y => { y with readySent := true })).toMember (s.mgrOf s.pod) 0x10 body)

/-- READY at the pod manager. A later READY of the same step replaces the member's report. -/
def execReady (msg : Msg) (s : State) : Host.Outcome State Fault Refusal :=
  let b := msg.body
  let g := fld b 8 1
  let orig := fld b 10 2
  let ok := readyLayout b && s.podMgr && s.gValid g && (s.members g).contains orig && orig / 32 == s.pod
  .next (s.mgrTake msg 0x10 orig ok (fun s =>
    let rep := (orig, epochsAt b 16, epochsAt b 32)
    let s := s.onLaunch g (fld b 0 8) (fun l => { l with heard := l.heard.filter (fun h => h.1 != orig) ++ [rep] })
    s.tryLaunch g))

/-- POD_READY at the head manager. -/
def execPodReady (msg : Msg) (s : State) : Host.Outcome State Fault Refusal :=
  let b := msg.body
  let g := fld b 8 1
  let orig := fld b 10 2
  let ok := readyLayout b && s.headMgr && s.gValid g && (s.otherPods g).contains (orig / 32)
  .next (s.mgrTake msg 0x11 orig ok (fun s =>
    let rep := (orig / 32, epochsAt b 16, epochsAt b 32)
    let s := s.onLaunch g (fld b 0 8) (fun l => { l with pods := l.pods.filter (fun h => h.1 != orig / 32) ++ [rep] })
    s.tryLaunch g))

/-- LAUNCH: the member's launch stitch is fixed, as L or late; a pod manager forwards it (R118, R120).
DEDUCED, log entry 75. -/
def execLaunch (msg : Msg) (s : State) : Host.Outcome State Fault Refusal :=
  let b := msg.body
  let g := fld b 8 1
  let no := fld b 0 8
  let l := fld b 16 8
  let ok := decide (b.length = 64) && rsv b 9 7 && rsv b 40 24 && s.gValid g
  .next (s.mgrTake msg 0x12 msg.src ok (fun s =>
    let s := s.deliver msg
    let s := if s.podMgr && msg.src / 32 != s.pod then s.onLaunch g no (fun x => { x with done := true }) else s
    let p := s.gPart g
    match (s.part p).step with
    | some x =>
      if x.group ≠ g ∨ x.stepNo ≠ no ∨ x.launchAt.isSome then s.bump rXCH_STALE_CNT 1
      else if s.stitch.count < l then s.onStep p (fun x => { x with launchAt := some l, epochs := epochsAt b 24 })
      else
        let late := s.frameLen * (s.stitch.count / s.frameLen + 1)
        let s := s.onStep p (fun x => { x with launchAt := some late, epochs := epochsAt b 24 })
        (s.raise rSTITCH_EVT 4).bump rLATE_LAUNCH_CNT 1
    | none => s.bump rXCH_STALE_CNT 1))

/-! ### The pod throttle (R437) -/

/-- PLAN. -/
def bodyPlan (f stitch : Nat) : Bytes := toLE 1 f ++ zeros 7 ++ toLE 8 stitch

/-- The manager changes F and tells its pod. -/
def State.setPodF (s : State) (f : Nat) : State :=
  if f = s.mgr.podF then s
  else ({ s with mgr := { s.mgr with podF := f } }).toPod 0x1D (bodyPlan f s.stitch.count)

/-- A step of one of the pod's groups has completed: 256 in a row without a declaration raise F. -/
def State.goodStep (s : State) : State :=
  if !s.podMgr then s
  else
    let n := s.mgr.goodSteps + 1
    if n < 256 then { s with mgr := { s.mgr with goodSteps := n } }
    else ({ s with mgr := { s.mgr with goodSteps := 0 } }).setPodF (min 16 (s.mgr.podF + 2))

/-- PLAN at a member: F applies from the next step boundary of each partition; a PLAN that changes it sets PWR_EVT.PLAN
(R437, R441). -/
def execPlan (msg : Msg) (s : State) : Host.Outcome State Fault Refusal :=
  let b := msg.body
  let ok := decide (b.length = 16) && rsv b 1 7 && within (fld b 0 1) 4 16
  .next (s.mgrTake msg 0x1D msg.src ok (fun s =>
    if fld b 0 1 = s.power.issueF then s
    else ({ s with power := { s.power with issueF := fld b 0 1 } } : State).raise rPWR_EVT 2))

/-! ### Waits and stragglers (R341, R422, R423) -/

/-- STRAGGLE. -/
def bodyStraggle (stepNo g x : Nat) : Bytes := toLE 8 stepNo ++ toLE 1 g ++ zeros 1 ++ toLE 2 x ++ zeros 4

/-- The members of the pods toward which a source has no gateway in a micro-step (R340). -/
def State.cutPods (s : State) (x : StepSt) (y : Micro) : List Nat :=
  let qs := (s.otherPods x.group).filter (fun q => !y.gates.any (fun g => g.1 == q))
  if !y.sorted || y.returnsDone then [] else (s.members x.group).filter (fun m => qs.contains (m / 32))

/-- The members whose value or result a running reduction awaits (R360, R376). -/
def State.redMissing (s : State) (x : StepSt) (l h : Nat) : List Nat :=
  match runningRed x l with
  | none => []
  | some r =>
    let k := s.redBlock x.group
    let open_ := (List.range r.chunkSt.length).filter (fun c => chunkOpen x k r c && decide (r.chunkSt.getD c 0 ≤ 1))
    let lacks (id c : Nat) := !r.vals.any (fun v => v.1 == id && v.2.1 == c)
      && !r.right.any (fun v => v.1 == 2 * id + 1 && v.2.1 == c)
    if h = 9 then
      (((List.range 1024).filter (fun id => decide (1 ≤ id) && holder k id == s.member
        && holder k (2 * id + 1) != s.member && open_.any (lacks id))).map (fun id => holder k (2 * id + 1))).eraseDups
    else if h = 10 ∧ holder k 1 ≠ s.member ∧ !open_.isEmpty then [holder k 1]
    else []

/-- The members whose messages a wait of the exchange misses; `src` names the source of a gateway's fan-out (R326, R341). -/
def State.microMissing (s : State) (x : StepSt) (q : Pass) (m h : Nat) (src : Option Nat) : List Nat :=
  let y := microOf q m
  let begun := m == 0 || (microOf q (m - 1)).tallyIn
  let srcs := (sourcesAt x q s.member m).filter (· ≠ s.member)
  let c := s.xCfg (s.gPart x.group) q.layer
  let fan := y.fans.filter (fun f => some f.src == src)
  match h with
  | 0 => if y.tallyIn || !begun then [] else srcs.filter (fun a => (rxOf y a).isNone)
  | 1 => if y.pileIn then [] else (y.tallies.filter (fun t => t.state == 0 && t.src != s.member)).map (·.src)
  | 2 => (y.out.filter (fun o => o.2 == 0)).map (·.1)
  | 3 => if y.returnsDone then [] else
      ((q.tickets.filter (fun k => k.micro == m && k.st == 4)).map (·.dest)).eraseDups.filter (· ≠ s.member)
  | 4 => s.cutPods x y ++ (if !begun then [] else srcs.filter (fun a => decide (a / 32 ≠ s.pod ∧ a % 32 = s.block)
      && (rxOf y a).isNone && (fanOf y a).isNone))
  | 5 => (fan.filter (fun f => !f.piled && (f.sentGrant || !c.elastic || f.entries.isEmpty))).map (·.src)
  | 6 => (fan.filter (fun f => !f.sentGrant && c.elastic)).flatMap (fun f =>
      (fanDests f).filter (fun d => (fanAnswer x q.layer f d).isNone && d != s.member))
  | 7 => fan.flatMap (·.owed)
  | _ => []

/-- The members whose messages a wait misses (R341). -/
def State.missing (s : State) (p l m h : Nat) (src : Option Nat) : List Nat :=
  match (s.part p).step with
  | none => []
  | some x =>
    if !x.launched || x.tornBy.isSome then []
    else if h = 8 then
      if x.aset.isSome then [] else (s.members x.group).filter (fun a =>
        a ≠ s.member && !x.rosters.any (fun r => r.1 == a) && !s.isDead a)
    else if 9 ≤ h then s.redMissing x l h
    else match x.passes.find? (fun q => q.layer == l && !q.ended) with
      | some q => if x.aset.isNone then [] else s.microMissing x q m h src
      | none => []

/-- A wait of a handler that is to be reported: it still misses messages, and has lasted 32 stitches more. -/
def State.waitDue (s : State) (p l m h : Nat) (w : WaitSt) : Bool :=
  w.layer == l && w.micro == m && w.handler == h && decide (w.since + 32 * (w.sent + 1) ≤ s.stitch.count)
    && !(s.missing p l m h w.src).isEmpty

/-- WAIT_SEND: a wait that has lasted 32 stitches, and every further 32, is reported to the pod manager. -/
def execWaitSend (part layer micro handler : Nat) (s : State) : Host.Outcome State Fault Refusal :=
  match (s.part part).waits.find? (s.waitDue part layer micro handler), (s.part part).step with
  | some w, some x =>
    let ms := s.missing part layer micro handler w.src
    let s := s.onPart part (fun y => { y with
      waits := y.waits.map (fun v => if v = w then { v with sent := v.sent + 1 } else v) })
    let s := (s.bump rXCH_WAIT_CNT 1).raise rXCH_EVT 3
    .next (s.toMember (s.mgrOf s.pod) 0x0C (bodyWait x.stepNo layer micro handler s.member x.group ms))
  | _, _ => .next s

/-- A member is declared a straggler on a step, once (R422, R437). -/
def State.declareStraggler (s : State) (g stepNo x : Nat) : State :=
  if s.mgr.straggled.contains (g, stepNo, x) then s
  else
    let s := { s with mgr := { s.mgr with straggled := s.mgr.straggled ++ [(g, stepNo, x)], goodSteps := 0 } }
    let body := bodyStraggle stepNo g x
    let s := (s.spreadMgr 0x1C body).toMember s.member 0x1C body
    s.setPodF (max (fld (s.sect 1) 20 1) (s.mgr.podF - 2))

/-- Add 32 stitches to a wait count; the new count. -/
def State.addWait (s : State) (a : WaitAcct) : Nat × State :=
  let same (w : WaitAcct) := w.group == a.group && w.stepNo == a.stepNo && w.layer == a.layer && w.micro == a.micro
    && w.handler == a.handler && w.waiter == a.waiter && w.missing == a.missing
  let n := ((s.mgr.waits.find? same).map (·.total)).getD 0 + 32
  (n, { s with mgr := { s.mgr with waits := s.mgr.waits.filter (fun w => !same w) ++ [{ a with total := n }] } })

/-- WAIT at the pod manager (R422). It is no manager message of R320: a body that breaks its layout is CHECK 1 (R319, R334). -/
def execWaitMsg (msg : Msg) (s : State) : Host.Outcome State Fault Refusal :=
  let b := msg.body
  let orig := fld b 12 2
  let g := fld b 14 1
  let no := fld b 0 8
  let lay := decide (b.length = 80) && rsv b 15 1
  let ok := s.podMgr && s.gValid g && decide (fld b 11 1 ≤ 11)
  if s.holds msg && msg.typ == 0x0C && (!bit msg.flags 0 || msg.dst == s.member) && !lay then .next (s.corrupt msg 1)
  else .next (s.mgrTake msg 0x0C orig ok (fun s =>
    let named := (List.range 512).filter (fun i => bit (fld b (16 + i / 8) 1) (i % 8))
    named.foldl (fun s x =>
      let (n, s) := s.addWait { group := g, stepNo := no, layer := fld b 8 2, micro := fld b 10 1, handler := fld b 11 1
                                waiter := orig, missing := x, total := 0 }
      if fld (s.sect 11) 8 4 ≤ n then s.declareStraggler g no x else s) s))

/-- STRAGGLE at a member: the straggler is counted once per step (R423). -/
def execStraggle (msg : Msg) (s : State) : Host.Outcome State Fault Refusal :=
  let b := msg.body
  let no := fld b 0 8
  let g := fld b 8 1
  let x := fld b 10 2
  let p := s.gPart g
  let ok := decide (b.length = 16) && rsv b 9 1 && rsv b 12 4 && decide (x < 512)
  let early := s.gValid g && (match (s.part p).step with
    | some y => decide (y.stepNo < no)
    | none => s.xWhen p no 0 == 0)
  if early && ok then .next s
  else .next (s.mgrTake msg 0x1C msg.src ok (fun s =>
    let s := s.deliver msg
    match (s.part p).step with
    | some y =>
      if !s.gValid g || y.stepNo != no then s.bump rXCH_STALE_CNT 1
      else if y.stragglers.contains x then s
      else
        let s := s.onStep p (fun y => { y with stragglers := y.stragglers ++ [x], vary := y.vary ||| 8 })
        ((s.bump rSTRAGGLE_CNT 1).bump (rVARY_CNT p 3) 1).raise rFLT_EVT 4
    | none => s.bump rXCH_STALE_CNT 1))

/-! ### Death and withdrawal (R338, R339, R416, R424) -/

/-- What a member owes a destination as a source of a pass counts as arrived with no ticket: tallies, piles, FINALs, and
what a gateway would fan out of them (R339). -/
def State.dropSource (s : State) (p l m : Nat) (src : Nat) : State :=
  let c := s.xCfg p l
  match (s.pass p l).map (fun q => microOf q m) with
  | none => s
  | some y =>
    let s := match rxOf y src with
      | some t => if t.state = 0 then s.noPile p l m src c else s
      | none => s
    s.onFan p l m src (fun f => { f with sentGrant := true, piled := true, dead := true })

/-- The tickets of a micro-step toward a destination that has left are lost, and its GRANT and RETURN count as VOIDs
(R339). -/
def State.dropDest (s : State) (p l m d : Nat) : State :=
  let s := s.loseTickets p l m (wayTo m d)
  match (s.pass p l).map (fun q => microOf q m) with
  | none => s
  | some y =>
    let s := s.onMicro p l m (fun y => { y with fans := y.fans.map (fun (f : GwFan) => { f with owed := f.owed.filter (· ≠ d) }) })
    if outOf y d = 0 then s.setOut p l m d 2 else s

/-- A gateway of a micro-step is dead: at a source the tickets through it are lost, at a destination the piles it owes do
not come. Sources of other pods on its rail whose tally is missing in a micro-step that has begun count as void. -/
def State.dropGate (s : State) (p : Nat) (x : StepSt) (q : Pass) (m gw : Nat) : State :=
  let l := q.layer
  let c := s.xCfg p l
  let y := microOf q m
  let s := if outOf y gw ≤ 1 ∧ gw / 32 ≠ s.pod then
      let s := s.loseTickets p l m (fun k => k.micro == m && k.dest / 32 == gw / 32 && (k.st == 1 || k.st == 4))
      s.setOut p l m gw 2
    else s
  if gw / 32 ≠ s.pod then s
  else
    let s := (y.tallies.filter (fun t => t.via == gw && t.src != gw && t.state == 0)).foldl (fun s t =>
      s.noPile p l m t.src c) s
    ((sourcesAt x q s.member m).filter (fun a => a / 32 != s.pod && a % 32 == gw % 32 && (rxOf y a).isNone)).foldl
      (fun s a => s.addTally p l m (emptyRx a gw false)) s

/-- A member leaves a step from a layer on: as a source, with `dest` as a destination, with `gate` as a gateway. -/
def State.leaveStep (s : State) (p m fromL : Nat) (dest gate : Bool) : State :=
  match (s.part p).step with
  | none => s
  | some x =>
    let s := s.onStep p (fun x => { x with gone := x.gone ++ [(m, dest, fromL)] })
    if x.tornBy.isSome || x.aset.isNone then s
    else (x.passes.filter (fun q => !q.ended && decide (fromL ≤ q.layer))).foldl (fun s q =>
      q.micros.foldl (fun s y =>
        let s := s.dropSource p q.layer y.m m
        let s := if dest then s.dropDest p q.layer y.m m else s
        if gate then s.dropGate p x q y.m m else s) s) s

/-- A reduction in progress that holds a shard of a dead member is abandoned; a member that still awaits a value tells the
others (R374). -/
def State.deadShard (s : State) (p m : Nat) : State :=
  match (s.part p).step with
  | none => s
  | some x =>
    if (shardsOf (s.redBlock x.group) m).isEmpty then s
    else (x.reds.filter (fun r => r.state == 1)).foldl (fun s r =>
      if r.chunkSt.any (fun c => decide (c ≤ 1)) then s.raiseAbort p r.layer 1 else s.abortRed p r.layer) s

/-- A member is dead on this member (R338, R339, R342, R424). What is partly here of its messages is discarded: their slots are
free, and what still comes is stale when it ends. DEDUCED, log entry 65. -/
def State.markDead (s : State) (m : Nat) : State :=
  if s.isDead m then s
  else
    let held := ((s.link.chans.find? (fun c => c.peer == m)).bind (·.session)).getD 65536
    let s := { s with link := { s.link with
      dead := s.link.dead ++ [(m, held)]
      early := s.link.early.filter (fun k => k.src != m) } }
    let s := s.dropHolds (fun h => h.src == m && !h.transit && !s.link.inbox.any (fun k => holdIs k h))
    let s := s.raise rXCH_EVT 1
    if m = s.member then (s.raise rFLT_EVT 6).teardownAll 14
    else
      let via := (List.range 31).filter (fun q => m / 32 == s.pod && (s.port q).relayed == some (m % 32))
      let s := via.foldl (fun s q => s.chooseRelay q (s.portTo (m % 32))) s
      (List.range 8).foldl (fun s p => (s.leaveStep p m 0 true true).deadShard p m) s

/-- Of two members that cannot reach each other, the one declared dead (R338). -/
def State.loser (s : State) (a b : Nat) : Nat :=
  let n (x : Nat) := ((List.range 32).filter (fun i => s.linkBit x i)).length
  if n a < n b then a else if n b < n a then b else max a b

/-- For 16 stitches no member of the pod has had an ACTIVE port toward block b (R338). -/
def State.cutOff (s : State) (b : Nat) : Bool := s.mgr.reachRun.any (fun r => r.1 == b && decide (16 ≤ r.2))

/-- A rule of R338 makes block `b` of the pod dead. Of a pair that cannot reach each other neither is declared while one is dead
already or is cut off from the whole pod. DEDUCED, log entry 65. -/
def State.deathDue (s : State) (b : Nat) : Bool :=
  let live (x : Nat) := !s.isDead (32 * s.pod + x) && !s.cutOff x
  s.cutOff b || (s.mgr.sessions.any (fun e => e.1 == 32 * s.pod + b))
    || s.mgr.pairRun.any (fun r => decide (16 ≤ r.2) && live r.1.1 && live r.1.2 && s.loser r.1.1 r.1.2 == b)

/-- DEAD_DECLARE: a pod manager declares a member of its pod dead (R338). -/
def execDeadDeclare (block : Nat) (s : State) : Host.Outcome State Fault Refusal :=
  let x := 32 * s.pod + block
  if !s.inService || !s.podMgr || s.podSize ≤ block || s.isDead x || !s.deathDue block then .next s
  else
    let body := bodyDead x s.member s.stitch.count
    let s := { s with mgr := { s.mgr with sessions := s.mgr.sessions.filter (fun e => e.1 != x) } }
    .next ((s.spreadMgr 0x0D body).toMember s.member 0x0D body)

/-- DEAD at a member; one of a manager that is dead itself is stale (R333, R338). -/
def execDead (msg : Msg) (s : State) : Host.Outcome State Fault Refusal :=
  let b := msg.body
  let x := fld b 0 2
  let lay := s.headOk msg && decide (b.length = 16) && rsv b 4 4
  if !(s.holds msg && msg.typ == 0x0D && (!bit msg.flags 0 || msg.dst == s.member)) then .next s
  else if !lay then .next (s.corrupt msg 1)
  else if 512 ≤ x then .next (s.corrupt msg 7)
  else if s.isDead (fld b 2 2) then .next (s.stale msg)
  else .next (((s.take msg).deliver msg).markDead x)

/-- A pod manager passes a WITHDRAW on: its own pod's to the other managers, another pod's to its own pod (R415). -/
def State.passWithdraw (s : State) (msg : Msg) : State :=
  if !s.podMgr then s
  else if msg.src / 32 = s.pod then s.sendAll s.otherMgrs 8 0x1E 0xFFFF msg.body
  else s.sendAll s.podPeers 8 0x1E 0xFFFF msg.body

/-- WITHDRAW: its member leaves the named roles from a layer on (R416). It is held until its step stands here. -/
def execWithdraw (msg : Msg) (s : State) : Host.Outcome State Fault Refusal :=
  let b := msg.body
  let no := fld b 0 8
  let g := fld b 8 1
  let orig := fld b 12 2
  let p := s.gPart g
  let ok := decide (b.length = 16) && rsv b 14 2 && decide (fld b 9 1 ≤ 1) && decide (orig < 512)
  let early := s.gValid g && (match (s.part p).step with
    | some y => decide (y.stepNo < no)
    | none => s.xWhen p no 0 == 0)
  let seen (s : State) := (s.bump rWITHDRAW_CNT 1).raise rFLT_EVT 5
  let here := s.holds msg && msg.typ == 0x1E && (!bit msg.flags 0 || msg.dst == s.member)
  if early && ok then .next s
  else if here && s.headOk msg && ok && s.isDead orig then .next (seen (s.stale msg))
  else .next (s.mgrTake msg 0x1E orig ok (fun s =>
    let s := seen (s.passWithdraw msg)
    if !s.gValid g then s.bump rXCH_STALE_CNT 1
    else
      match (s.part p).step with
      | some y =>
        if y.stepNo ≠ no then s.bump rXCH_STALE_CNT 1
        else s.leaveStep p orig (fld b 10 2) (fld b 9 1 == 1) false
      | none => s.bump rXCH_STALE_CNT 1))

/-! ### The bias loop (R244) -/

/-- The experts of each layer of a partition, layers 0 to LAYERS − 1, by the layer bank that is live when a message is made or
read. DESIGN CHOICE, log entry 124. -/
def State.expertCounts (s : State) (p : Nat) : List Nat := (List.range (s.pLayers p)).map (fun l => leExperts (s.layerEnt p l))

/-- BIAS_COUNTS. -/
def bodyBias (stepNo g : Nat) (pod : Bool) (orig layers : Nat) (counts : List Nat) : Bytes :=
  toLE 8 stepNo ++ toLE 1 g ++ toLE 1 (if pod then 1 else 0) ++ toLE 2 orig ++ toLE 2 layers ++ zeros 18
    ++ counts.flatMap (toLE 8)

/-- The new bias values of a layer: loads below the mean go up by γ, above it down; only finite values are taken.
DEDUCED, log entry 77. -/
def newBias (gamma : F32) (old : List F32) (load : List Nat) : List F32 :=
  let mean := f32Div (f32OfNat (sumNat load)) (f32OfNat load.length)
  (old.zip load).map (fun e =>
    let d := f32OfNat e.2
    let b := if f32Lt d mean then f32Add e.1 gamma else if f32Lt mean d then f32Sub e.1 gamma else e.1
    if isFin32 b then b else e.1)

/-- BIAS_TABLE. -/
def bodyBiasTable (stepNo g l epoch : Nat) (vs : List F32) : Bytes :=
  toLE 8 stepNo ++ toLE 1 g ++ zeros 1 ++ toLE 2 l ++ toLE 2 vs.length ++ zeros 2 ++ toLE 4 epoch ++ zeros 12
    ++ vs.flatMap (fun v => toLE 4 v.toNat)

/-- The decider has every count of a window: it computes the new bias and distributes it. The epochs of the last three windows
are kept. -/
def State.decideBias (s : State) (g last : Nat) (counts : List Nat) : State :=
  let p := s.gPart g
  let live := (s.tab p 3).live
  let ns := s.expertCounts p
  let epoch := live.epoch + 1
  let gamma := BitVec.ofNat 32 (fld (s.sect 11) 4 4)
  let s := { s with mgr := { s.mgr with
    biasEp := s.mgr.biasEp.filter (fun e => e.1 != p || decide (last ≤ e.2.1 + 3 * s.biasU)) ++ [(p, last, epoch)] } }
  (List.range ns.length).foldl (fun s l =>
    let n := ns.getD l 0
    let load := (counts.drop (sumNat (ns.take l))).take n
    let body := bodyBiasTable last g l epoch (newBias gamma (s.biasVals p live.ix l n) load)
    let s := (s.otherPods g).foldl (fun s q => s.sendMgr (s.mgrOf q) 0x14 body) s
    s.toPod 0x14 body) s

/-- The counts of all contributors to a window are here. -/
def State.biasFull (s : State) (g : Nat) (whos : List Nat) : Bool :=
  ((s.members g).filter (fun m => m / 32 == s.pod)).all whos.contains
    && (s.decider g != s.member || (s.otherPods g).all (fun q => whos.contains (512 + q)))

/-- The decider takes the next window whose counts are all here, once no bias it distributed waits for its LAUNCH: the new
epoch is one above the live one (R244). DEDUCED, log entry 77. -/
def State.nextBias (s : State) (p : Nat) : State :=
  let g := s.stepGroup p
  let waits := s.mgr.biasEp.any (fun e => e.1 == p && decide ((s.tab p 3).live.epoch < e.2.2))
  if !s.podMgr || s.decider g != s.member || waits then s
  else match s.mgr.biasAcc.find? (fun a => a.1 == p && s.biasFull g a.2.2.1) with
    | none => s
    | some a =>
      ({ s with mgr := { s.mgr with biasAcc := s.mgr.biasAcc.filter (fun b => b != a) } }).decideBias g a.2.1 a.2.2.2

/-- BIAS_COUNTS at a pod manager or the decider: counts are added exactly; once all are here they are passed on, or the
new bias is computed. Contributors are members, and 512 + q for the sum of pod q. -/
def execBiasCounts (msg : Msg) (s : State) : Host.Outcome State Fault Refusal :=
  let b := msg.body
  let last := fld b 0 8
  let g := fld b 8 1
  let orig := fld b 10 2
  let p := s.gPart g
  let n := sumNat (s.expertCounts p)
  let ok := decide (32 ≤ b.length) && decide (fld b 9 1 ≤ 1) && rsv b 14 18 && s.podMgr && s.gValid g
    && fld b 12 2 == s.pLayers p && decide (b.length = 32 + 8 * n) && s.biasU != 0
  .next (s.mgrTake msg 0x13 orig ok (fun s =>
    let who := if fld b 9 1 = 1 then 512 + orig / 32 else orig
    let cs := (List.range n).map (fun i => fld b (32 + 8 * i) 8)
    let old := (s.mgr.biasAcc.find? (fun a => a.1 == p && a.2.1 == last)).getD (p, last, [], List.replicate n 0)
    if old.2.2.1.contains who then s.bump rXCH_DUP_CNT 1
    else
      let whos := old.2.2.1 ++ [who]
      let sum := (old.2.2.2.zip cs).map (fun e => (e.1 + e.2) % 2 ^ 64)
      let rest := s.mgr.biasAcc.filter (fun a => !(a.1 == p && a.2.1 == last))
      if s.decider g == s.member || !s.biasFull g whos then
        let s := { s with mgr := { s.mgr with biasAcc := rest ++ [(p, last, whos, sum)] } }
        (s.nextBias p).tryLaunch g
      else
        let s := { s with mgr := { s.mgr with biasAcc := rest } }
        s.sendMgr (s.decider g) 0x13 (bodyBias last g true s.member (s.pLayers p) sum)))

/-- BIAS_TABLE: the layer's values go to the shadow bank, which is PENDING under the new epoch after the last layer. A
READY already sent for the next step is then sent again with the new epoch. -/
def execBiasTable (msg : Msg) (s : State) : Host.Outcome State Fault Refusal :=
  let b := msg.body
  let g := fld b 8 1
  let l := fld b 10 2
  let n := fld b 12 2
  let epoch := fld b 16 4
  let p := s.gPart g
  let ok := decide (b.length = 32 + 4 * n) && decide (32 ≤ b.length) && rsv b 9 1 && rsv b 14 2 && rsv b 20 12
    && s.gValid g && decide (l < s.pLayers p) && n == leExperts (s.layerEnt p l) && allFinite (b.drop 32)
  .next (s.mgrTake msg 0x14 msg.src ok (fun s =>
    let s := s.deliver msg
    let t := s.tab p 3
    if s.stopped p || decide (epoch ≤ t.live.epoch) then s.bump rXCH_STALE_CNT 1
    else
      let s := if l = 0 ∧ t.sh ≠ 1 then s.issueRead (s.biasBank p t.live.ix) biasBytes (.fatal p) else s
      let s := if l = 0 then (s.retireBatch p 3).openBias p else s
      let s := s.wr (s.biasBank p (1 - t.live.ix) + 16384 * l) (b.drop 32) (.fatal p)
      if l + 1 < s.pLayers p then s
      else (s.closeBias p epoch).onStep p (fun x => { x with readySent := x.readySent && x.launchAt.isSome })))

/-! ### The maps of the pod (R307, R308, R320, R340) -/

/-- LINK_MAP and RAIL_MAP. -/
def bodyMap (pod stitch w : Nat) (rows : List Nat) : Bytes :=
  toLE 1 pod ++ zeros 7 ++ toLE 8 stitch ++ rows.flatMap (toLE w)

/-- Every relay may be chosen again. -/
def State.clearExcluded (s : State) : State :=
  (List.range 31).foldl (fun s p => s.onPort p (fun x => { x with excluded := [] })) s

/-- LINK_MAP at a member: its copy of the map; relays that were excluded may be chosen again, and a port without a path
chooses one (R308 to R310, R424). -/
def execLinkMap (msg : Msg) (s : State) : Host.Outcome State Fault Refusal :=
  let b := msg.body
  let ok := decide (b.length = 144) && rsv b 1 7 && fld b 0 1 == s.pod
  .next (s.mgrTake msg 0x16 msg.src ok (fun s =>
    let s := { s with link := { s.link with linkMap := (List.range 32).map (fun a => fld b (16 + 4 * a) 4) } }
    let s := s.reviveDead.clearExcluded
    s.cutPorts.foldl (fun s p => s.chooseRelay p p) s))

/-- RAIL_MAP at a member: its copy of the map (R340). -/
def execRailMap (msg : Msg) (s : State) : Host.Outcome State Fault Refusal :=
  let b := msg.body
  let ok := decide (b.length = 80) && rsv b 1 7 && fld b 0 1 == s.pod
  .next (s.mgrTake msg 0x17 msg.src ok (fun s =>
    { s with link := { s.link with railMap := (List.range 32).map (fun a => fld b (16 + 2 * a) 2) } }))

/-- PORT_REPORT_SEND: after a port or rail channel changed, and at every count that is a multiple of 1,024 (R320). -/
def execPortReportSend (s : State) : Host.Outcome State Fault Refusal :=
  if s.boot.rstLow ∨ s.boot.state < 8 ∨ 11 < s.boot.state ∨ !(s.link.reportDue || s.stitch.count % 1024 == 0) then .next s
  else
    let intra := bitsOf ((List.range 32).map (fun b => b ≠ s.block && decide (b < s.podSize) && s.active (s.portTo b)))
    let rail := bitsOf ((List.range 16).map (fun q => q ≠ s.pod && s.railUp q))
    let r := s.link.retRep.headD (0xFF, 0)
    let body := toLE 2 s.member ++ zeros 2 ++ toLE 4 intra ++ toLE 2 rail ++ toLE 1 r.1 ++ toLE 1 r.2 ++ zeros 4
      ++ toLE 8 s.stitch.count ++ zeros 8
    let rest := s.link.retRep.drop 1
    let s := { s with link := { s.link with retRep := rest, reportDue := !rest.isEmpty } }
    .next (s.toMember (s.mgrOf s.pod) 0x18 body)

/-- PORT_REPORT at the pod manager: its maps, sent to the pod when they change (R308, R340). That of a member declared dead is
taken too: the map it changes is what ends its declaration (R424). DEDUCED, log entry 65. -/
def execPortReport (msg : Msg) (s : State) : Host.Outcome State Fault Refusal :=
  let b := msg.body
  let orig := fld b 0 2
  let ok := decide (b.length = 32) && rsv b 2 2 && rsv b 12 4 && rsv b 24 8 && s.podMgr && orig / 32 == s.pod
  .next (s.mgrTake msg 0x18 65535 ok (fun s =>
    let a := orig % 32
    let link := setAt s.mgr.linkRows a (fun _ => fld b 4 4)
    let rail := setAt s.mgr.railRows a (fun _ => fld b 8 2)
    if link = s.mgr.linkRows ∧ rail = s.mgr.railRows then s
    else
      let s := { s with mgr := { s.mgr with linkRows := link, railRows := rail } }
      (s.toPod 0x16 (bodyMap s.pod s.stitch.count 4 link)).toPod 0x17 (bodyMap s.pod s.stitch.count 2 rail)))

/-! ### The calendar (R461) -/

/-- CAL_SEND: each pod manager tells its pod the calendar every 25,000,000 stitches and after every CAL_SET. -/
def execCalSend (s : State) : Host.Outcome State Fault Refusal :=
  if !s.inService || !s.podMgr || !s.mgr.calPend then .next s
  else
    let s := { s with mgr := { s.mgr with calPend := false } }
    .next (s.sendAll s.podPeers 8 0x1A 0xFFFF (toLE 8 (s.stitch.count / 1562500 * 1562500) ++ toLE 8 s.recd.calendar))

/-- CAL: the member adopts the value and counts on from its own stitch count. -/
def execCal (msg : Msg) (s : State) : Host.Outcome State Fault Refusal :=
  let b := msg.body
  let ok := decide (b.length = 16) && decide (fld b 0 8 % 1562500 = 0)
  .next (s.mgrTake msg 0x1A msg.src ok (fun s =>
    let now := fld b 8 8 + (s.stitch.count / 1562500 - fld b 0 8 / 1562500)
    { s with recd := { s.recd with calendar := now, calSrc := 3 } }))

end Sys2Proof.Machine
end

