-- ==== Sys2Proof/Machine/Steps.lean ====
section
/-! DEFINITION. A step from launch to its completion record: launch, layer passes, ledger and journal at their ends, bias
windows, and the end of a torn-down step (R115 to R121, R137, R140, R147, R148, R244, R256, R323, R384 to R393,
R410 to R413, R420). -/

namespace Sys2Proof.Machine

/-! ### Launch (R118 to R120, R256, R283, R323, R345, R384, R410) -/

/-- The segments with what their contexts hold at launch (R389). -/
def State.segsNow (s : State) (segs : List Seg) : List Seg :=
  segs.map (fun g =>
    let c := s.context g.stream
    { g with prio := fld c 2 1 % 4, dline := fld c 12 4, seed := fld c 24 8, last := fld c 16 8 })

/-- Each table of the partition goes to its bound epoch; a bias bank that the loop of R244 left PENDING is reported. -/
def State.bindTables (s : State) (p : Nat) (es : List Nat) : State :=
  let t := s.tab p 3
  let loop := s.biasU != 0 && t.sh == 1 && t.shadow.epoch == es.getD 3 0
  let s := (List.range 4).foldl (fun s t => s.onTab p t (fun x => x.bind (es.getD t 0))) s
  if loop then s.raise rSEL_EVT 1 else s

/-- The engine and combine records, both good, or `none` (R283, R345). -/
def State.readEngines (s : State) (p : Nat) : Option (Bytes × Bytes) :=
  match s.rec255 p 0, s.rec255 p 64 with
  | some e, some c =>
    let wh := fld e 16 8
    if engRecOk e && combRecOk c && (s.tr p wh 8 2).isSome then some (e, c) else none
  | _, _ => none

/-- The launch stitch of a step has come on a locked member (R108, R120). -/
def State.launchDue (s : State) (x : StepSt) : Bool :=
  !x.launched && x.askedAt.isNone && (s.stitch.state == 1 || s.stitch.state == 3) && s.running
    && (match x.launchAt with
      | some l => decide (l ≤ s.stitch.count) && decide (s.stitch.count % s.frameLen = 0)
      | none => false)

/-- The step is launched: its state, its ledger entry, the first journal records and its roster.
DEDUCED, log entry 79. -/
def State.launchNow (s : State) (p : Nat) (x : StepSt) (eng comb jrn led : Bytes) : State :=
  let segs := s.segsNow x.segs
  let y := { x with
    launched := true, segs := segs, launchAt := some (x.askedAt.getD s.stitch.count), engRec := eng, combRec := comb
    active := segs.any (·.kept) && !x.abortReg, withdrawn := if x.abortReg then some 0 else none
    ledger := (s.part p).ledNext }
  let s := s.onPart p (fun q => { q with
    step := some y, ledNext := nextLedger q.ledNext, jrnRec := jrn, ledRec := led, lastStart := none
    issueF := s.power.issueF })
  let s := s.ledgerOpen p y
  let s := (s.jrnPush p (s.recHead p y)).jrnPush p (recSegs p y)
  let gs := s.gatesOf y.group
  ((s.countSubst gs).spread p 0x0B (trig p 0 0 8) (bodyRoster y.stepNo y.group y.active s.member) gs).waitFor p 0 0 8

/-- The domains of retired arrays of partition p and of retired Fold units go off at its step boundary (R35, R429). -/
def State.dropRetired (s : State) (p : Nat) : State :=
  let arrays := (List.range 32).filter (fun a => bit s.units.arraysRet a && bit (s.pCores p) (a / 4))
  let folds := ((List.range 4).filter (bit s.units.foldsRet)).map (36 + ·)
  s.domainsOff ((arrays ++ folds).filter (bit s.power.domOn))

/-- STEP_LAUNCH: the step boundary. The records of segment 255 are requested in the launch stitch; once they are here units in
their last steps retire, tables switch, a failing record tears the partition down, and the roster leaves.
DESIGN CHOICE, log entry 122. -/
def execStepLaunch (part : Nat) (s : State) : Host.Outcome State Fault Refusal :=
  match (s.part part).step with
  | none => .next s
  | some x =>
    if s.launchDue x then
      .next ((s.fetchRecords part 0 256).onStep part (fun x => { x with askedAt := some s.stitch.count }))
    else if x.launched || x.askedAt.isNone || s.reading (.record part) then .next s
    else
      let s := ((((s.retirePending part).replan part).retireFoldsPending.showUnits).dropRetired part).showSlices part
      if (s.part part).state ≠ 1 then .next s
      else
        let s := s.bindTables part x.epochs
        let old := s.part part
        match s.readEngines part, s.readRecords part with
        | some (e, c), some (j, l) => .next ((s.launchNow part x e c j l).nextBias part)
        | some (e, c), none => .next ((s.launchNow part x e c old.jrnRec old.ledRec).teardown part 8)
        | none, _ => .next ((s.launchNow part x [] [] old.jrnRec old.ledRec).teardown part 8)

/-! ### The start of a layer pass (R27, R32, R121, R141, R147, R356, R418) -/

/-- The token rows of segments from row `n` on; the rows of a segment that was dropped keep their numbers. -/
def tokensFrom : Nat → List Seg → List Tok
  | _, [] => []
  | n, g :: r =>
    (if g.kept then (List.range g.cnt).map (fun i => freshTok (n + i) g.stream (g.pos + i) g.prio) else [])
      ++ tokensFrom (n + g.cnt) r

/-- The token rows of the member in the pass of layer l. -/
def passToks (x : StepSt) (l : Nat) : List Tok := if x.active && !selfOut x l then tokensFrom 0 x.segs else []

/-- The reduction of the layer, where it has one, is sealed (R356). -/
def State.redSealedFor (s : State) (x : StepSt) (l : Nat) : Bool :=
  fld (foldLayer (s.redBlock x.group) l) 0 8 == 0 || x.reds.any (fun r => r.layer == l && r.state == 2)

/-- P of R147: the largest of the last 8 pass periods, a missing one counting as PASS_EST. DEDUCED, log entry 72. -/
def State.passPeriod (s : State) (p : Nat) : Nat :=
  let ps := (s.part p).periods
  max (maxNat ps) (if ps.length < 8 then s.pcfg p 6 2 else 0)

/-- The segments whose streams will miss their deadline at the start of a pass (R147). -/
def State.lateSegs (s : State) (p : Nat) (x : StepSt) (l : Nat) : List Seg :=
  if s.pcfg p 1 1 = 255 then []
  else
    let pred := s.stitch.count + (s.pLayers p - l) * s.passPeriod p
    x.segs.filter (fun g => g.kept && decide (g.dline ≠ 0) && decide (x.launchAt.getD 0 + g.dline < pred))

/-- The deadline monitor at the start of a pass (R147): streams that will miss their deadline have DIVERT set. -/
def State.monitor (s : State) (p : Nat) (x : StepSt) (l : Nat) : State :=
  (s.lateSegs p x l).foldl (fun s g =>
    let c := s.context g.stream
    s.setContext g.stream (patch c 3 (toLE 1 (fld c 3 1 ||| 1)))) s

/-- The pass of layer l, the next one, may start; the contexts that its start marks are not under test (R147, R456).
DEDUCED, log entry 62. -/
def State.passDue (s : State) (p : Nat) (x : StepSt) (l : Nat) : Bool :=
  x.launched && x.tornBy.isNone && x.redAbort.isNone && decide (l < s.pLayers p)
    && x.passes.all (fun q => q.stage4 && decide (q.s4At < s.stitch.count) && (q.ended || decide (l ≤ q.layer + 1)))
    && s.bellFor x l && !s.layerHeld p l && s.redSealedFor x l
    && ((passToks x l).isEmpty || (!s.batchHasCores p && !s.lentNow p))
    && !(s.lateSegs p x l).any (fun g => s.ctxUnderTest g.stream)

/-- The addresses of the handles that a pass reads: those of the experts homed on the member, and the shared one.
DEDUCED, log entry 80. -/
def State.handleAddrs (s : State) (p : Nat) (x : StepSt) (l : Nat) : List Nat :=
  let e := s.layerEnt p l
  let mp := s.mapEnt p l
  ((List.range (leExperts e)).filter (fun n => (replicasOf mp n).contains s.member)).map
      (fun n => fld x.engRec 16 8 + 8 * (4096 * l + n))
    ++ (if fuses x 0 then [fld x.combRec 8 8 + 8 * l] else [])

/-- The reads of γ, β and the router bias that a layer entry names. -/
def State.vecReads (s : State) (p : Nat) (e : Bytes) : List (Nat × Nat) :=
  let vec (off len : Nat) := if fld e off 8 = 0 then [] else [((s.tr p (fld e off 8) 1 2).getD 0, len)]
  vec 16 (2 * leK e) ++ vec 24 (2 * leK e) ++ vec 32 (4 * leExperts e)

/-- The reads of a pass that its partition depends on: γ, β, router bias and bias table, the index tensors of the two descriptors,
which the step read at its head, and the handles. -/
def State.issuePassReads (s : State) (p : Nat) (x : StepSt) (l : Nat) (tokens : Bool) : State :=
  let e := s.layerEnt p l
  let s := if tokens then
      s.issueReads (s.vecReads p e ++ [(s.biasBank p (s.tab p 3).live.ix + 16384 * l, 4 * leExperts e)]
        ++ s.indexRead p (s.td p (leNat x.hiddenTd)) ++ s.indexRead p (s.td p (leNat x.outTd))) (.operand p l)
    else s
  s.issueReads ((s.handleAddrs p x l).map (fun a => ((s.tr p a 1 2).getD 0, 8))) (.record p)

/-- The operands of a pass are here: its index tensors are used, and its hidden-state rows are requested (R54, R166). -/
def State.readTokens (s : State) (p l : Nat) : State :=
  match (s.part p).step, s.pass p l with
  | some x, some q =>
    let ti := s.td p (leNat x.hiddenTd)
    let tw := s.td p (leNat x.outTd)
    let idx := s.indices p ti
    let out := s.indices p tw
    let s := (s.useTd p ti).useTd p tw
    let (s, deps) := s.fetchRows p ti idx (leK (s.layerEnt p l)) l (q.toks.map (·.row)) (.hidden p l)
    s.onPass p l (fun q => { q with inIdx := idx, outIdx := out, hidDeps := deps })
  | _, _ => s

/-- The pass of layer l starts. -/
def State.startPass (s : State) (p : Nat) (x : StepSt) (l : Nat) : State :=
  let now := s.stitch.count
  let toks := passToks x l
  let s := s.onPart p (fun q => { q with
    lastStart := some now
    periods := match q.lastStart with
      | some t => (q.periods ++ [now - t]).drop (q.periods.length - 7)
      | none => q.periods })
  let s := s.monitor p x l
  let s := s.onGroup x.group (fun g => { g with bells := g.bells.filter (fun b => b.1 != l) })
  let s := s.onStep p (fun x => { x with passes := x.passes ++ [freshPass l now toks], nextLayer := l + 1 })
  let s := s.issuePassReads p x l (!toks.isEmpty)
  let s := s.waitFor p l 0 0
  if (s.otherPods x.group).isEmpty then s else s.waitFor p l 0 4

/-- PASS_START: the next pass starts and requests what it needs, or a handle that does not translate tears the partition down (R283, R345). -/
def execPassStart (part : Nat) (s : State) : Host.Outcome State Fault Refusal :=
  match (s.part part).step with
  | none => .next s
  | some x =>
    let l := x.nextLayer
    if !s.passDue part x l then .next s
    else if !(s.handleAddrs part x l).all (fun a => (s.tr part a 8 2).isSome) then .next (s.teardown part 8)
    else .next (s.startPass part x l)

/-! ### The end of a layer pass (R31, R325, R390 to R393, R412, R413) -/

/-- The member's part in the pass as destination has ended. -/
def destOver (x : StepSt) (q : Pass) (self most : Nat) : Bool :=
  let open_ (m : Nat) := !(sourcesAt x q self m).isEmpty
  let done (m : Nat) := (microOf q m).destDone
  match x.aset with
  | none => false
  | some [] => true
  | some _ =>
    if !open_ 0 then q.micros.all (fun y => y.tableTag.isNone || y.destDone)
    else (List.range most).any (fun i => (i + 1 == most || !open_ (i + 1)) && (List.range (i + 1)).all done)

/-- The member's part in the pass as source and as gateway has ended, and every data write of it has its response. -/
def State.srcOver (s : State) (p : Nat) (x : StepSt) (q : Pass) : Bool :=
  q.srcDone && q.toks.all (fun t => t.whole || (t.written && !s.writing (.combined p q.layer t.row)))
    && q.micros.all (fun y => (!y.sorted || y.returnsDone) && y.fans.all (fun f => f.piled || f.dead))
    && (!fuses x 0 || q.toks.isEmpty || q.sharedAns)

/-- A token's bit of the ledger (R412). -/
def rowKept (t : Tok) : Bool := t.written && !t.lost && !t.whole

/-- BITMAP of a pass. -/
def passBitmap (q : Pass) : Bytes :=
  toLE 2048 (sumNat ((q.toks.filter rowKept).map (fun t => 2 ^ t.row)))

/-- A micro-step above 0 took place. -/
def tookMicro (q : Pass) : Bool :=
  decide (0 < q.lastMicro) || q.micros.any (fun y => decide (0 < y.m) && y.tallies.any (fun t => !t.final))

/-- LSTAT of a pass with a STATUS (R412). DEDUCED, log entry 74. -/
def passWord (q : Pass) (status : Nat) : Nat :=
  status + (if q.toks.any (·.nullRt) then 8 else 0) + (if q.toks.any (fun t => t.lost || t.whole) then 16 else 0)
    + (if tookMicro q then 32 else 0) + 65536 * (q.toks.filter rowKept).length

/-- STATUS of a pass that ran to its end. -/
def passStatus (x : StepSt) (q : Pass) : Nat :=
  if x.poisonAt.any (fun f => decide (f ≤ q.layer)) then 3
  else if selfOut x q.layer then 2
  else if q.toks.all rowKept then 0
  else 1

/-- The narrowings of the layer's reduction, which the record of micro-step 0 counts. -/
def narrowedAt (x : StepSt) (l : Nat) : Nat := ((x.reds.find? (fun r => r.layer == l)).map (·.narrowed)).getD 0

/-- The micro-steps that a source journals: those up to its last. -/
def journaled (x : StepSt) (q : Pass) : List Micro :=
  (List.range (q.lastMicro + 1)).map (fun m =>
    let y := microOf q m
    if m = 0 ∧ 0 < narrowedAt x q.layer then { y with vary := y.vary ||| 16 } else y)

/-- The PASS and TOKENS records of a pass of a member in the active set, once; none after an abandoned reduction (R394). -/
def State.journalPass (s : State) (p : Nat) (x : StepSt) (q : Pass) : State :=
  if q.journaled || !q.admitted || x.redAbort.isSome then s
  else (journaled x q).foldl (fun s y =>
    let n := if y.m = 0 then narrowedAt x q.layer else 0
    let s := s.jrnPush p (recPass p q.layer x.stepNo n y)
    if y.events.isEmpty then s else s.jrnPush p (recTokens p q.layer x.stepNo y.events)) s

/-- The ledger and the journal take a pass with an LSTAT word; the step's VARY takes its bits. -/
def State.closePass (s : State) (p : Nat) (q : Pass) (w : Nat) : State :=
  match (s.part p).step with
  | none => s
  | some x =>
    let s := s.journalPass p x q
    let v := q.micros.foldl (fun v y => v ||| y.vary) 0
    let s := s.onStep p (fun x => { x with lstat := setAt x.lstat q.layer (fun _ => w), vary := x.vary ||| v })
    match (s.part p).step with
    | some y => s.ledgerLayer p y q.layer (passBitmap q)
    | none => s

/-- PASS_COMPLETE: the member's part in the pass has ended and its writes are visible; passes end in layer order. Sums
of a scatter-add that a lost token held back are written first, and the pass's records reach the journal (R385). -/
def execPassComplete (part layer : Nat) (s : State) : Host.Outcome State Fault Refusal :=
  match (s.part part).step, s.pass part layer with
  | some x, some q =>
    let first := x.passes.all (fun r => r.ended || decide (layer ≤ r.layer))
    if !x.launched || x.tornBy.isSome || q.ended || !first || !s.srcOver part x q
        || !destOver x q s.member (s.microMax part layer) then .next s
    else
      if !q.sadd.isEmpty then .next (s.writeAdds part layer) else
      let s := (s.journalPass part x q).onPass part layer (fun q => { q with journaled := true })
      if !s.jrnIdle part then .next s else
      let s := s.closePass part { q with journaled := true } (passWord q (passStatus x q))
      let s := s.dropChains (fun c => c.pass == some (part, layer))
      let s := s.onPart part (fun y => { y with waits := y.waits.filter (fun w => w.layer != layer) })
      .next (s.onPass part layer (fun q => { q with ended := true }))
  | _, _ => .next s

/-! ### The bias window (R244) -/

/-- The tickets that the member received as a destination in a step: layer, expert, count. -/
def received (x : StepSt) : List (Nat × Nat × Nat) :=
  x.passes.flatMap (fun q => q.micros.flatMap (fun y => y.runs.map (fun r => (q.layer, r.1, r.2.2.1))))

/-- A count of partition p belongs to the window of step n (R244). -/
def State.inWindow (s : State) (p n : Nat) (b : Nat × Nat × Nat × Nat × Nat) : Bool :=
  b.1 == p && b.2.1 / max 1 s.biasU == n / max 1 s.biasU

/-- The step's tickets join its window, where its STATUS counts; what is left of a window that a teardown abandoned is
dropped. -/
def State.countBias (s : State) (p : Nat) (x : StepSt) (status : Nat) : State :=
  if s.biasU = 0 ∨ 1 < status then s
  else { s with mgr := { s.mgr with
    biasMine := s.mgr.biasMine.filter (fun b => b.1 != p || s.inWindow p x.stepNo b)
      ++ (received x).map (fun e => (p, x.stepNo, e.1, e.2.1, e.2.2)) } }

/-- The counts of the window of step n in the order of BIAS_COUNTS. -/
def State.windowCounts (s : State) (p n : Nat) : List Nat :=
  (List.range (s.pLayers p)).flatMap (fun l => (List.range (leExperts (s.layerEnt p l))).map (fun e =>
    sumNat ((s.mgr.biasMine.filter (fun b => s.inWindow p n b && b.2.2.1 == l && b.2.2.2.1 == e)).map (·.2.2.2.2))))

/-- At the completion of a window's last step the counts leave and the next window opens. -/
def State.endWindow (s : State) (p : Nat) (x : StepSt) (status : Nat) : State :=
  let s := s.countBias p x status
  if s.biasU = 0 ∨ status = 3 ∨ (x.stepNo + 1) % s.biasU ≠ 0 then s
  else
    let body := bodyBias x.stepNo x.group false s.member (s.pLayers p) (s.windowCounts p x.stepNo)
    let s : State := { s with mgr := { s.mgr with biasMine := s.mgr.biasMine.filter (fun b => b.1 != p) } }
    s.toMember (s.mgrOf s.pod) 0x13 body

/-! ### The end of a step (R137, R140, R148 to R150, R392, R413, R418) -/

/-- STATUS of the step, the first that applies (R413). -/
def stepStatus (x : StepSt) : Nat :=
  let any (n : Nat) := x.lstat.any (fun w => w % 8 == n)
  if x.fault ≠ 0 then 4
  else if x.poisonAt.isSome then 3
  else if x.abortReg || any 2 || any 7 then 2
  else if any 1 then 1
  else 0

/-- FAULT of the step's record. -/
def stepFaultCode (x : StepSt) : Nat :=
  if x.fault ≠ 0 then x.fault else if x.redAbort.isSome then 0x10 else if x.abortReg then 0x0F else 0

/-- The step's last pass, reduction and audit are over. DEDUCED, log entry 73. -/
def State.stepOver (s : State) (p : Nat) (x : StepSt) : Bool :=
  x.launched && x.tornBy.isNone && x.passes.all (·.ended) && (x.nextLayer == s.pLayers p || x.redAbort.isSome)
    && x.reds.all (fun r => r.state != 1 && r.audited)
    && x.reds.all (fun r => (List.range r.chunkSt.length).all (fun c => !s.writing (.redResult p r.layer c)))

/-- LSTAT at the end of a step: the layers of abandoned reductions are ABORTED, a
poisoned layer and the later ones POISONED (R412). -/
def finalStat (x : StepSt) : List Nat :=
  (List.range x.lstat.length).map (fun l =>
    let w := x.lstat.getD l 7
    if x.poisonAt.any (fun f => decide (f ≤ l)) then w / 8 * 8 + 3
    else if x.redAbort = some l || x.reds.any (fun r => r.layer == l && r.state == 3) then w / 8 * 8 + 2
    else w)

/-- The final header and the LSTAT words that the end of the step changes. -/
def State.ledgerClose (s : State) (p : Nat) (x : StepSt) (status fault : Nat) (st : List Nat) : State :=
  let y := { x with lstat := st }
  let s := ((List.range st.length).filter (fun l => st.getD l 7 != x.lstat.getD l 7)).foldl (fun s l =>
    s.ledgerWrite p y (64 + 4 * l) (toLE 4 (st.getD l 7))) s
  let s := s.ledgerWrite p y 0 (s.ledgerHead p y status fault s.stitch.count)
  s.onStep p (fun x => { x with lstat := st, fin := 1, endAt := s.stitch.count })

/-- The contexts of a COMPLETE step advance; a stream diverted here is no longer diverted (R140, R148). -/
def State.commitSegs (s : State) (p : Nat) (x : StepSt) : State :=
  (x.segs.filter (·.kept)).foldl (fun s g =>
    let c := s.context g.stream
    let c := if fld c 1 1 = p then c else patch c 3 (toLE 1 (fld c 3 1 / 2 * 2))
    s.setContext g.stream (patch (patch c 8 (toLE 4 (g.pos + g.cnt))) 16 (toLE 8 x.stepNo))) s

/-- The divert notifications of a step, in segment order (R149). -/
def State.divertNotes (s : State) (p : Nat) (x : StepSt) : State :=
  x.diverted.foldl (fun s d => s.groupNote 2 x.group 1
    (toLE 4 d.2.1 ++ toLE 2 d.2.2 ++ toLE 2 d.1 ++ toLE 1 x.group ++ toLE 1 p ++ zeros 5 ++ [0x01] ++ toLE 8 x.stepNo)
    true) s

/-- The jobs of a step: its segments, but those that were diverted; a step with a fault diverts none (R148, R150). -/
def stepJobs (x : StepSt) (status : Nat) : List (Nat × Nat) :=
  (x.segs.filter (fun g => g.kept || decide (x.fault ≠ 0))).map (fun g => (g.client, status))

/-- The completion record of a step, its notifications, and what the member keeps of it. END_STITCH is the END of its ledger header
and STEP_END (R137, R392, R411). DESIGN CHOICE, log entry 71. -/
def State.recordStep (s : State) (p : Nat) (x : StepSt) (status fault : Nat) : State :=
  let s := s.complete x.group status fault x.diverted.length x.stepNo (if x.launched then x.ledger else 0xFFFFFFFF)
    (if x.launched then x.endAt else s.stitch.count) (stepJobs x status)
  let s := (s.divertNotes p x).endWindow p x status
  { s with recd := { s.recd with steps := (s.recd.steps + 1) % 2 ^ 64 } }

/-- STEP_END is queued for the step (R392). -/
def State.pushEnd (s : State) (p : Nat) (x : StepSt) (status : Nat) : State :=
  (s.jrnPush p (recEnd p x status x.endAt (s.part p).jrnCrc)).onStep p (fun x => { x with fin := 2 })

/-- STEP_COMPLETE: the final ledger header, then STEP_END once it is visible, then the completion record once that is
(R413): one command for each. A context whose row is under test waits (R456).
DESIGN CHOICE, log entry 71. -/
def execStepComplete (part : Nat) (s : State) : Host.Outcome State Fault Refusal :=
  match (s.part part).step with
  | none => .next s
  | some x =>
    if !s.stepOver part x then .next s
    else if x.fin = 0 then
      let st := finalStat x
      let y := { x with lstat := st }
      .next (s.ledgerClose part x (stepStatus y) (stepFaultCode y) st)
    else if x.fin = 1 then
      if s.writing (.ledger part) then .next s
      else if x.endOut then .next (s.onStep part (fun x => { x with fin := 2 }))
      else .next (s.pushEnd part x (stepStatus x))
    else if !s.jrnIdle part || (stepStatus x == 0 && x.segs.any (fun g => g.kept && s.ctxUnderTest g.stream)) then .next s
    else
      let status := stepStatus x
      let s := if status = 0 then s.commitSegs part x else s
      let s := s.recordStep part x status (stepFaultCode x)
      let s := s.onPart part (fun y => { y with
        step := none, waits := [], lastStart := none
        lastNo := if status = 3 then y.lastNo else some x.stepNo
        firstNo := if y.anyNo ∧ status ≠ 3 then x.stepNo else y.firstNo
        anyNo := y.anyNo && decide (status = 3) })
      let s := s.onGroup x.group (fun g => { g with bells := g.bells.filter (fun b => !b.2.2) })
      .next (if status = 3 then s else s.goodStep)

/-! ### The end of a torn-down step (R151, R420) -/

/-- A write of the partition lacks its response. -/
def State.writesOf (s : State) (p : Nat) : Bool :=
  s.memp.writes.any (fun w => s.objPart w.obj == some p) || s.memp.writeQ.any (fun w => s.objPart w.obj == some p)
    || s.memp.retries.any (fun r => r.write && s.objPart r.obj == some p)

/-- Tables of the partition that were never notified are given up with their notifications. -/
def State.dropUnsent (s : State) (p : Nat) : State :=
  let mine (t : WorkTab) := t.part == p && !t.notified
  let tags := (s.tabs.filter mine).map (·.tag)
  { s with
    tabs := s.tabs.filter (fun t => !mine t)
    seam := { s.seam with notes := s.seam.notes.filter (fun n => !(n.kind == 1 && tags.contains n.key)) } }

/-- LSTAT of the passes that the teardown stopped, with their records, once (R412, R420). Sums of a scatter-add that were not
written count no row as written. -/
def State.closeTorn (s : State) (p : Nat) (x : StepSt) : State :=
  let stopped_ (q : Pass) : Pass :=
    if q.sadd.isEmpty then q else { q with toks := q.toks.map (fun t => { t with written := false }) }
  let s := ((x.passes.filter (fun q => !q.ended && decide (q.layer < x.nextLayer))).map stopped_).foldl (fun s q =>
    s.closePass p q (passWord q 2)) s
  s.onStep p (fun x => { x with passes := x.passes.map (fun q => { q with ended := true }) })

/-- Cells that the partition still held go back, its domains go off unless it has been restarted, and nothing of it is left in progress
(R180, R428). -/
def State.endTeardown (s : State) (p : Nat) : State :=
  let s := s.freeOwner (ownerOf (s.sect 5) p)
  let up := (s.part p).state != 4
  let s := if up then s else s.partOff p
  s.onPart p (fun y => { y with
    stopping := false, waits := [], lastStart := none
    lastNo := if up then (y.step.map (fun x => some x.stepNo)).getD y.lastNo else y.lastNo
    step := if up then y.step.filter (fun x => x.tornBy.isNone) else y.step.map (fun x => { x with fin := 3 }) })

/-- TEARDOWN_FINISH: once every outstanding table is answered and every write has its response, the ledger, STEP_END and
the completion record of the step end it, one command for each; a step that was not launched has the record alone (R426). -/
def execTeardownFinish (part : Nat) (s : State) : Host.Outcome State Fault Refusal :=
  let y := s.part part
  if !y.stopping || !s.tabsAnswered part || s.writesOf part then .next s
  else
    let s := s.dropUnsent part
    match y.step.filter (fun x => x.tornBy.isSome) with
    | none => .next (s.endTeardown part)
    | some x =>
      let fault := x.tornBy.getD 0
      if !x.launched then .next ((s.recordStep part x 2 fault).endTeardown part)
      else if x.fin = 0 then
        let s := s.closeTorn part x
        match (s.part part).step with
        | some x => .next (s.ledgerClose part x 2 fault (finalStat x))
        | none => .next s
      else if x.fin = 1 then
        .next (if x.endOut then s.onStep part (fun x => { x with fin := 2 }) else s.pushEnd part x 2)
      else if !s.jrnIdle part then .next s
      else .next ((s.recordStep part x 2 fault).endTeardown part)

end Sys2Proof.Machine
end

