-- ==== Sys2Proof/Machine/Replay.lean ====
section
/-! DEFINITION. REPLAY: the journal entry, its checks, the choices it imposes and the six targets (R395 to R400). -/

namespace Sys2Proof.Machine

/-! ### The journal entry (R386 to R393, R400) -/

/-- The records of an entry from a logical address on, up to STEP_END; or a fault code. -/
def State.entryAt (s : State) (p : Nat) : Nat → Nat → List Bytes ⊕ Nat
  | 0, _ => .inr 3
  | n + 1, a =>
    match s.tr p a 64 2 with
    | none => .inr 8
    | some h =>
      let len := fld (s.rd h 16) 4 4
      if len % 64 ≠ 0 ∨ len = 0 then .inr 3
      else match s.tr p a len 2 with
        | none => .inr 8
        | some h =>
          let r := s.rd h len
          if fld r 0 1 = 5 then .inl [r]
          else match s.entryAt p n (a + len) with
            | .inl rs => .inl (r :: rs)
            | .inr k => .inr k

/-- The records after SEGMENTS stand in the order of R393: PASS records rising, each with at most one TOKENS record, then
STEP_END. `last` is the place of the last PASS, `prev` its layer + 1 where it stands just before. -/
def passSeq : Nat → Nat → List Bytes → Bool
  | _, _, [] => false
  | last, prev, r :: rest =>
    let l := fld r 2 2
    match fld r 0 1 with
    | 5 => rest.isEmpty && r.length == 64
    | 3 => decide (last < 256 * l + fld r 56 1 + 1) && r.length == 64 && passSeq (256 * l + fld r 56 1 + 1) (l + 1) rest
    | 4 => prev == l + 1 && passSeq last 0 rest
    | _ => false

/-- The entry is whole: record order, PART, STEP_NO, lengths and CRC. -/
def entryOk (p : Nat) (rs : List Bytes) : Bool :=
  match rs with
  | h :: g :: rest =>
    let last := rest.getLastD []
    fld h 0 1 == 1 && h.length == 192 && fld g 0 1 == 2 && g.length == 64 * ceilDiv (16 + 32 * fld h 146 2) 64
      && passSeq 0 0 rest && rs.all (fun r => fld r 1 1 == p && fld r 8 8 == fld h 8 8)
      && (crc64 (rs.dropLast.flatten ++ last.take 56)).toNat == fld last 56 8
  | _ => false

/-- TOKENS entries: stream, position, rank, CODE. -/
def tokenEvents (r : Bytes) : List (Nat × Nat × Nat × Nat) :=
  ((List.range ((r.length - 16) / 8)).map (fun i => let at_ := 16 + 8 * i
    (fld r at_ 2, fld r (at_ + 4) 4, fld r (at_ + 2) 1, fld r (at_ + 3) 1))).filter (fun e => e.2.2.2 ≠ 0)

/-- The PASS records of a layer with what their TOKENS records hold. -/
def passRecs (l : Nat) : List Bytes → List (Bytes × List (Nat × Nat × Nat × Nat))
  | [] => []
  | r :: rest =>
    if fld r 0 1 = 3 ∧ fld r 2 2 = l then
      (r, match rest.head? with
        | some t => if fld t 0 1 = 4 then tokenEvents t else []
        | none => []) :: passRecs l rest
    else passRecs l rest

/-- The token rows of a SEGMENTS record of n segments. -/
def entryToks (g : Bytes) (n : Nat) : List Tok :=
  tokensFrom 0 ((List.range n).map (fun i => let at_ := 16 + 32 * i
    { stream := fld g at_ 2, kind := fld g (at_ + 2) 1, client := fld g (at_ + 10) 1, pos := fld g (at_ + 4) 4
      cnt := fld g (at_ + 8) 2, kept := true, prio := fld g (at_ + 3) 1, dline := 0, seed := fld g (at_ + 16) 8
      last := fld g (at_ + 24) 8 }))

/-! ### Bound tables (R398) -/

/-- What a replay reads of the tables it binds. -/
structure RepTabs where
  e      : Bytes
  pr     : Bytes
  mp     : Bytes
  bias   : List F32
  epochs : List Nat
  deriving DecidableEq, Repr

/-- The bank of a table that a replay binds; one that runs keeps the epochs it has bound, whatever is live by then (R258). -/
def State.repBank (s : State) (p t : Nat) (any : Bool) (bound : List Nat) (h : Bytes) : Option Bank :=
  let x := s.tab p t
  if !bound.isEmpty then x.bankOf (bound.getD t 0)
  else if any then (if x.live.digest = fld h (48 + 8 * t) 8 then some x.live else none)
  else x.bankOf (fld h (32 + 4 * t) 4)

/-- The tables of a replay of layer l, `none` where one cannot be bound. -/
def State.repTabs (s : State) (p l : Nat) (any : Bool) (bound : List Nat) (h : Bytes) : Option RepTabs :=
  let bank (t : Nat) := s.repBank p t any bound h
  match bank 0, bank 1, bank 2, bank 3 with
  | some a, some b, some c, some d =>
    let e := a.entries.getD l []
    some { e := e, pr := c.entries.getD (leProf e) [], mp := b.entries.getD (leMap e) []
           bias := s.biasVals p d.ix l (leExperts e), epochs := [a.epoch, b.epoch, c.epoch, d.epoch] }
  | _, _, _, _ => none

/-! ### Operands and checks (R395 to R397, R400) -/

/-- What a REPLAY works on. -/
structure Rep where
  target : Nat
  layer  : Nat
  node   : Nat
  head   : Bytes
  recs   : List Bytes
  tabs   : RepTabs
  deriving DecidableEq, Repr

/-- T, the token rows of the entry. -/
def Rep.toks (r : Rep) : List Tok := entryToks (r.recs.getD 1 []) (fld r.head 146 2)
/-- The d_model of the layer. -/
def Rep.k (r : Rep) : Nat := leK r.tabs.e
/-- TOPK of the profile. -/
def Rep.topk (r : Rep) : Nat := fld r.tabs.pr 1 1
/-- A fusion bit of the entry. -/
def Rep.fuse (r : Rep) (i : Nat) : Bool := bit (fld r.head 152 1) i

/-- Elements of a descriptor. -/
def Td.count (t : Td) : Nat := ((List.range t.rank).map t.sz).foldl (· * ·) 1

/-- A descriptor has a type and exactly these sizes. -/
def Td.is (t : Td) (et : Nat) (sz : List Nat) : Bool :=
  t.etype == et && t.rank == sz.length && (List.range sz.length).all (fun i => t.sz i == sz.getD i 0)

/-- A right child whose value a rail channel carries under the SHARD map of a block. -/
def overRail (k : Bytes) (id : Nat) : Bool :=
  id % 2 == 1 && decide (1 < id) && holder k id / 32 != holder k (id / 2) / 32

/-- A node's value is narrowed (R366). -/
def State.nodeNarrow (s : State) (p : Nat) (k : Bytes) (g id : Nat) : Bool :=
  if id = 1 then s.rootNarrow p k g else if s.arrFree p then s.levelNarrow p k id else overRail k id

/-- The shape that R396 requires of a descriptor: 0 IN_TD, 1 AUX_TD, 2 AUX2_TD, 3 OUT_TD. -/
def State.repShape (s : State) (p : Nat) (r : Rep) (n : Nat) (t : Td) : Bool :=
  let k := r.k
  let rows := r.toks.length
  let blk := s.redBlock (s.stepGroup p)
  let e := foldLayer blk r.layer
  match n with
  | 0 =>
    if r.target = 4 then t.is 1 [k, r.topk, rows]
    else if r.target = 5 then t.is (fld e 20 1) [redElems e, 1024]
    else t.is 1 [k, rows]
  | 3 =>
    match r.target with
    | 0 => t.is 0 [k, rows]
    | 1 => t.is 0 [leExperts r.tabs.e, rows]
    | 2 => t.etype == 7 && t.count == 4 * r.topk * rows
    | 3 => t.is (if fld r.tabs.pr 19 1 = 1 then 4 else 1) [k, rows]
    | 4 => t.is 0 [k, rows] || t.is 1 [k, rows]
    | _ => t.is (if r.node = 1 then fld e 21 1 else if s.nodeNarrow p blk (s.stepGroup p) r.node then 1 else 0) [redElems e]
  | _ => t.is 1 [k, rows]

/-- The faults of the descriptors, in the order of their fields; 0 passes. -/
def State.repTdFault (s : State) (p : Nat) (d : Bytes) (r : Rep) : Nat :=
  let chk (off n : Nat) (out : Bool) := s.tdCheck p (fld d off 8) out (s.repShape p r n)
  firstFault [chk 32 0 false,
    if r.target = 4 ∧ (r.fuse 2 ∨ fld d 40 8 ≠ 0) then chk 40 1 false else 0,
    if r.target = 4 ∧ r.fuse 0 then chk 48 2 false else 0,
    chk 56 3 true]

/-- Records that an entry of partition p can have. -/
def State.mostRecs (s : State) (p : Nat) : Nat := 32 * s.pLayers p + 3

/-- The entry, tables and operands of a REPLAY that has bound epochs, none before it starts, or its fault (R400).
DEDUCED, log entry 84. -/
def State.repOf (s : State) (g : Nat) (bound : List Nat) (d : Bytes) : Rep ⊕ Nat :=
  let p := s.gPart g
  let target := fld d 26 1
  let l := fld d 24 2
  let any := bit (fld d 27 1) 0
  if !headRsv d || decide (1 < fld d 27 1) || !rsv d 30 2 || decide (5 < target) then .inr 2
  else if (if target = 5 then !within (fld d 28 2) 1 2047 else decide (fld d 28 2 ≠ 0))
      || (target ≠ 4 && (decide (fld d 40 8 ≠ 0) || decide (fld d 48 8 ≠ 0))) || decide (s.pLayers p ≤ l) then .inr 3
  else match s.entryAt p (s.mostRecs p) (fld d 16 8) with
    | .inr k => .inr k
    | .inl rs =>
      let h := rs.headD []
      if !entryOk p rs || fld h 128 4 != arithClass then .inr 3
      else match s.repTabs p l any bound h with
        | none => .inr 3
        | some t =>
          let r : Rep := { target := target, layer := l, node := fld d 28 2, head := h, recs := rs, tabs := t }
          let sg := s.stepGroup p
          let hash := s.boot.imgHash.take 48 ++ zeros (48 - s.boot.imgHash.length)
          if (target = 2 ∨ target = 4) ∧ (passRecs l rs).isEmpty then .inr 3
          else if target = 5 ∧ (!s.gPriv g ∨ fld (foldLayer (s.redBlock sg) l) 0 8 = 0
              ∨ (!s.arrFree p ∧ slice h 80 48 ≠ hash)) then .inr 3
          else
            let k := s.repTdFault p d r
            if k ≠ 0 then .inr k else .inl r

/-- A REPLAY of a target; a reserved TARGET is taken by whichever of the six rows is commanded. -/
def isReplay (t : Nat) (d : Bytes) : Bool := fld d 0 1 == 5 && (fld d 26 1 == t || decide (5 < fld d 26 1))

/-! ### Rows, scores and selection (R396, R399) -/

/-- Selection of a scored row, whose running pair its lane has merged (R229, R237 to R239). -/
def State.repSelect (s : State) (p : Nat) (r : Rep) (k : Tok) : Tok :=
  let pr := r.tabs.pr
  let ys := s.tokYs p pr r.tabs.e k
  let (ch, ca) := choose pr r.tabs.mp ys r.tabs.bias
  { k with chosen := ch, cand := ca, selected := true, nullRt := ch.isEmpty }

/-- Selection of the rows of a replay, charged as a step's (R434). -/
def State.repChoose (s : State) (p : Nat) (r : Rep) (ks : List Tok) : List Tok × State :=
  let ts := ks.map (s.repSelect p r)
  (ts, s.charge 10 (sumNat (ts.map (fun t => selCost (fld r.tabs.pr 0 1) (scoreTiles r.tabs.e) t.chosen.length))))

/-- Tickets and tokens while a replay imposes the entry's choices: `bad` counts the PASS records whose counts differ,
`diff` notes any difference. -/
structure Imposed where
  toks    : List Tok
  tickets : List Ticket
  replUse : List (Nat × Nat)
  bad     : Nat
  diff    : Bool
  deriving DecidableEq, Repr

/-- Take tickets from their tokens (R249): the tokens left with none are counted. -/
def removeTickets (st : Nat) (f : Ticket → Bool) (toks : List Tok) (ks : List Ticket) : List Tok × List Ticket :=
  let hit (k : Ticket) := decide (k.st < 6) && f k
  let rows := ((ks.filter hit).map (·.row)).eraseDups
  let ks := ks.map (fun k => if hit k then { k with st := st } else k)
  let bare (t : Tok) := rows.contains t.row && !t.emptied && !t.whole
    && !ks.any (fun k => k.row == t.row && decide (k.st < 6))
  (toks.map (fun t => if bare t then { t with emptied := true } else t),
    (toks.filter (fun t => rows.contains t.row)).foldl (fun ks t => regate t ks) ks)

/-- A TOKENS entry with a CODE names a ticket. -/
def named (ev : List (Nat × Nat × Nat × Nat)) (code : Nat) (k : Ticket) : Bool := ev.contains (k.stream, k.pos, k.rank, code)

/-- One micro-step: admission as the original made it, then the tickets that the record names are removed. -/
def imposeMicro (self : Nat) (t : RepTabs) (a : Imposed) (rec_ : Bytes × List (Nat × Nat × Nat × Nat)) : Imposed :=
  let m := fld rec_.1 56 1
  let ev := rec_.2
  let d := if m = 0 then admitPass self t.pr t.mp a.toks else admitMicro self t.pr t.mp m a.toks a.replUse a.tickets
  let gone (k : Tok) := ev.contains (k.stream, k.pos, 255, 6)
  let ks := d.tickets.map (fun k => if k.st = 1 ∧ k.micro = m ∧ named ev 4 k then { k with st := 3 } else k)
  let toks := d.toks.map (fun k => if gone k then { k with whole := true, lost := true } else k)
  let x := removeTickets 8 (fun k => toks.any (fun u => u.row == k.row && u.whole)) toks ks
  let x := removeTickets 6 (named ev 5) x.1 x.2
  let x := removeTickets 7 (named ev 6) x.1 x.2
  let bares := (x.1.filter (fun u => u.emptied && !d.toks.any (fun v => v.row == u.row && v.emptied)))
  let mine := d.events ++ bares.map (fun u => (u.stream, u.pos, 255, 2))
  let cs := [d.counts.getD 0 0, d.counts.getD 1 0, d.counts.getD 2 0, d.counts.getD 3 0, d.counts.getD 6 0,
    d.counts.getD 7 0 + bares.length]
  let same := cs == [16, 20, 24, 28, 40, 44].map (fun off => fld rec_.1 off 4)
  let codes (l : List (Nat × Nat × Nat × Nat)) := sortBy tokLe (l.filter (fun e => decide (e.2.2.2 ≤ 3)))
  { toks := x.1, tickets := x.2, replUse := d.replUse, bad := a.bad + (if same then 0 else 1)
    diff := a.diff || !same || codes mine != codes ev }

/-- Every micro-step of the layer. -/
def Rep.impose (r : Rep) (self : Nat) (toks : List Tok) : Imposed :=
  (passRecs r.layer r.recs).foldl (imposeMicro self r.tabs)
    { toks := toks, tickets := [], replUse := [], bad := 0, diff := false }

/-- The final tickets in ascending (stream, position, rank). -/
def finalTickets (ks : List Ticket) : List Ticket :=
  sortBy (fun a b => decide (a.stream < b.stream ∨ (a.stream = b.stream ∧ (a.pos < b.pos ∨ (a.pos = b.pos
    ∧ a.rank ≤ b.rank))))) (ks.filter (fun k => k.st == 1))

/-! ### Targets -/

/-- Coordinates of a logical index of a descriptor. -/
def coordsOf (sz : List Nat) (i : Nat) : List Nat :=
  match sz with
  | [] => []
  | n :: r => i % max 1 n :: coordsOf r (i / max 1 n)

/-- A floating scatter-add of a batch command (R168). -/
def State.repAdd (s : State) (g p : Nat) (t : Td) (idx : List Int) (es : List (List Nat × F32)) : State :=
  let (s, bases, hits) := s.tdAdd p t idx es []
  s.tdFlush t (bases ++ hits) hits (fun _ => .batchOut g)

/-- Write rows of FP32 values, row r at (i, r), converted to the descriptor's type. -/
def State.repOut (s : State) (g p addr : Nat) (rows : List (Nat × List F32)) : State :=
  let t := s.td p addr
  let es := rows.flatMap (fun r => (List.range r.2.length).map (fun i => ([i, r.1].take t.rank, r.2.getD i 0)))
  let idx := s.indices p t
  let s := s.useTd p t
  if t.scatter then s.repAdd g p t idx es
  else s.tdPut p t idx (t.puts es) [] (.batchOut g)

/-- Write element bits in ascending logical index; an INT32 scatter-add adds modulo 2^32, one of a float type as FP32 (R168). -/
def State.repPut (s : State) (g p addr : Nat) (es : List (List Nat × Nat × Nat)) : State :=
  let t := s.td p addr
  let idx := s.indices p t
  let s := s.useTd p t
  if !t.scatter then s.tdPut p t idx es [] (.batchOut g)
  else if t.etype ≠ 7 then s.repAdd g p t idx (es.map (fun e => (e.1, enc32 (elemFp t.etype e.2.1 127))))
  else
    let tg := es.map (fun e => (s.tdBytes p t idx e.1 0 127, e.2.1))
    let hits := tg.filterMap (fun x => (x.1.1.head?).map (fun b => (b.1, x.2)))
    let s := s.bump (rSEG_OOB_WR_CNT p) (tg.filter (fun x => x.1.2)).length
    (hits.map (·.1)).eraseDups.foldl (fun s a =>
      s.wr a (toLE 4 (leNat (s.rd a 4) + sumNat ((hits.filter (fun h => h.1 == a)).map (·.2)))) (.batchOut g)) s

/-- PAYLOAD elements of a row: bits and scale byte. -/
def payloadElems (mx : Bool) (k row : Nat) (b : Bytes) : List (List Nat × Nat × Nat) :=
  (List.range k).map (fun i =>
    if mx then ([i, row], fld b (33 * (i / 32) + 1 + i % 32) 1, fld b (33 * (i / 32)) 1)
    else ([i, row], fld b (2 * i) 2, 127))

/-- The normalised rows are written. -/
def State.replayNormNow (s : State) (g : Nat) (d : Bytes) (_r : Rep) (ks : List Tok) : State × Nat × Bool :=
  let p := s.gPart g
  (s.repOut g p (fld d 56 8) (ks.map (fun k => (k.row, k.y))), 0, false)

/-- The scores as selection receives them are written. -/
def State.replayScoresNow (s : State) (g : Nat) (d : Bytes) (r : Rep) (ks : List Tok) : State × Nat × Bool :=
  let p := s.gPart g
  (s.repOut g p (fld d 56 8) (ks.map (fun k => (k.row, s.tokYs p r.tabs.pr r.tabs.e k))), 0, false)

/-- The final tickets of every micro-step are written, unused slots zero. -/
def State.replayTicketsNow (s : State) (g : Nat) (d : Bytes) (r : Rep) (ks : List Tok) : State × Nat × Bool :=
  let p := s.gPart g
  let (ts, s) := s.repChoose p r ks
  let a := r.impose s.member ts
  let b := (finalTickets a.tickets).flatMap ticketBytes
  let n := 4 * r.topk * r.toks.length
  let sz := (s.td p (fld d 56 8)).size.take (s.td p (fld d 56 8)).rank
  (s.repPut g p (fld d 56 8) ((List.range n).map (fun i => (coordsOf sz i, fld b (4 * i) 4, 127))), a.bad, a.diff)

/-- The payload rows are written. -/
def State.replayPayloadNow (s : State) (g : Nat) (d : Bytes) (r : Rep) (ks : List Tok) : State × Nat × Bool :=
  let p := s.gPart g
  let mx := fld r.tabs.pr 19 1 == 1
  (s.repPut g p (fld d 56 8) (ks.flatMap (fun k => payloadElems mx r.k k.row k.payload)), 0, false)

/-- A row of a descriptor as FP32, and its elements out of bounds. -/
def State.repVec (s : State) (p addr k row : Nat) : List F32 × Nat :=
  let t := s.td p addr
  s.tdRow p t (s.indices p t) k row 0

/-- The expert output of a ticket's rank in IN_TD, as BF16 bytes, and its elements out of bounds. -/
def State.repOutRow (s : State) (p addr k rank row : Nat) : Bytes × Nat :=
  let t := s.td p addr
  let v := s.tdVec p t (s.indices p t) ((List.range k).map (fun i => [i, rank, row]))
  (v.1.flatMap (fun x => toLE 2 (f32ToBf x)), v.2)

/-- The combined row of a token of an entry, from its final tickets (R347), and the elements read out of bounds. -/
def State.repCombine (s : State) (p : Nat) (d : Bytes) (r : Rep) (ks : List Ticket) (t : Tok) : List F32 × Nat :=
  let k := r.k
  let outs := (ks.filter (fun x => x.row == t.row && x.st == 1)).map (fun x =>
    let o := s.repOutRow p (fld d 32 8) k x.rank t.row
    ({ x with out := o.1 }, o.2))
  let set := sortBy (fun (x y : Ticket) => decide (x.expert ≤ y.expert)) (outs.map (·.1))
  let shared := if r.fuse 0 then some (s.repVec p (fld d 48 8) k t.row) else none
  let res := if r.fuse 2 then some (s.repVec p (fld d 40 8) k t.row) else none
  (combineRow k set (if r.fuse 1 then some (BitVec.ofNat 32 (fld r.head 156 4)) else none) (shared.map (·.1))
      (res.map (·.1)),
    sumNat (outs.map (·.2)) + (shared.map (·.2)).getD 0 + (res.map (·.2)).getD 0)

/-- A free FP32 result: a NaN has the one pattern that arithmetic makes (R482). -/
def canon32 (v : F32) : F32 := if isNan32 v then 0x7FC00000#32 else v

/-- The CODE that the entry records for a whole token, in any micro-step of the layer (R391). -/
def Rep.coded (r : Rep) (code : Nat) (t : Tok) : Bool :=
  (passRecs r.layer r.recs).any (fun x => x.2.contains (t.stream, t.pos, 255, code))

/-- A ticket of rank 0 with a gating weight. -/
def soleTicket (t : Tok) (gate : F32) : Ticket where
  row := t.row
  stream := t.stream
  pos := t.pos
  expert := 0
  rank := 0
  dest := 0
  replica := 0
  subst := false
  gate := gate
  micro := 0
  order := 0
  st := 1
  out := []
  chain := none

/-- The combined row of a token without hidden rows, from draw `n`: a token on the null route and an emptied one have no routed
contribution (R240, R249), and a sole choice has the weight 1.0 under a renormalising function, or NaN under TOPK_SOFTMAX where its
value is −∞ (R242). No rule states the other weights without the hidden rows: a free value. DESIGN CHOICE, log entry 16. -/
def State.repBlind (s : State) (p : Nat) (d : Bytes) (r : Rep) (n : Nat) (t : Tok) : List F32 × Nat :=
  let word (i : Nat) : F32 := canon32 (BitVec.ofNat 32 (leNat ((List.range 4).map (fun b =>
    Config.freeByte n (4 * (r.k * t.row + i) + b)))))
  let f := fld r.tabs.pr 0 1
  if r.coded 1 t || r.coded 2 t then s.repCombine p d r [] t
  else if r.topk = 1 ∧ 1 ≤ f ∧ f ≤ 2 then
    s.repCombine p d r [soleTicket t (if f = 1 ∧ isNan32 (word 0) then 0x7FC00000#32 else f32One)] t
  else ((List.range r.k).map word, 0)

/-- The combined rows are written (R347). The choices are re-derived from the hidden rows of AUX_TD, where they are given; a token
that was lost as a whole is not written (R409). -/
def State.replayCombineNow (s : State) (g : Nat) (d : Bytes) (r : Rep) (ks : List Tok) : State × Nat × Bool :=
  let p := s.gPart g
  let k := r.k
  let blind := decide (fld d 40 8 = 0)
  let (n, s) := if blind then s.draw else (0, s)
  let (ts, s) := s.repChoose p r ks
  let a := r.impose s.member ts
  let outs := if blind then (r.toks.filter (fun t => !r.coded 6 t)).map (fun t => (t.row, s.repBlind p d r n t))
    else (a.toks.filter (fun t => !t.whole)).map (fun t => (t.row, s.repCombine p d r a.tickets t))
  let s := s.bump (rSEG_OOB_RD_CNT p) (sumNat (outs.map (fun o => o.2.2)))
  let rows := outs.map (fun o => (o.1, o.2.1))
  let s := s.bump (rFD_NAN_ROW_CNT p) (rows.filter (fun e => e.2.any isNan32)).length
  let s := s.charge 12 (ceilDiv k 64 * rows.length)
  (s.repOut g p (fld d 56 8) rows, if blind then 0 else a.bad, !blind && a.diff)

/-- The value of a node computed on the member alone, with its overflows in narrowing. -/
def repNode (leaf : Nat → List F32) (nar : Nat → Bool) (key : BitVec 64) : Nat → Nat → List F32 × Nat
  | 0, id => shut leaf nar key id (leaf (id - 1024)) 0
  | h + 1, id =>
    let a := repNode leaf nar key h (2 * id)
    let b := repNode leaf nar key h (2 * id + 1)
    shut leaf nar key id (rowOp f32Add a.1 b.1) (a.2 + b.2)
where
  /-- Narrow a node's value where its format asks for it. -/
  shut (_leaf : Nat → List F32) (nar : Nat → Bool) (key : BitVec 64) (id : Nat) (v : List F32) (n : Nat) :
      List F32 × Nat :=
    if nar id then
      let rs := narrowAll key id 0 v
      (rs.map (·.1), n + (rs.filter (·.2)).length)
    else (v, n)

/-- Node NODE of the layer's reduction is computed and written (R397). -/
def State.replayReduceNow (s : State) (g : Nat) (d : Bytes) (r : Rep) (_ks : List Tok) : State × Nat × Bool :=
  let p := s.gPart g
  let sg := s.stepGroup p
  let blk := s.redBlock sg
  let n := redElems (foldLayer blk r.layer)
  let key := tumble (BitVec.ofNat 64 (fld r.head 24 8)) (BitVec.ofNat 64 r.layer)
  let h := nodeLevel r.node
  let leaves := (List.range (2 ^ h)).map (fun i => s.repVec p (fld d 32 8) n (r.node * 2 ^ h + i - 1024))
  let s := s.bump (rSEG_OOB_RD_CNT p) (sumNat (leaves.map (·.2)))
  let v := repNode (fun j => (leaves.getD (j + 1024 - r.node * 2 ^ h) ([], 0)).1) (s.nodeNarrow p blk sg) key (nodeLevel r.node) r.node
  let s := s.bump rFD_SR_OVF_CNT v.2
  let s := s.charge 12 (ceilDiv n 64 * (2 ^ nodeLevel r.node - 1))
  (s.repOut g p (fld d 56 8) [(0, v.1)], 0, false)

/-! ### Execution -/

/-- The cores are lent to the batch command at the head of group g (R141), and no hold stands against its layer
(R261). DESIGN CHOICE, log entry 85. -/
def State.coresFree (s : State) (g l : Nat) : Bool :=
  (s.part (s.gPart g)).state == 1 && s.highest g && !s.layerHeld (s.gPart g) l

/-- The bound tables of a running batch command are recorded, so that a load that overwrites them can find it (R258). -/
def State.bindCmd (s : State) (g : Nat) (es : List Nat) : State :=
  s.onGroup g (fun x => { x with cur := x.cur.map (fun c => { c with epochs := es }) })

/-- The replay's outputs are written: its record follows once they are visible. -/
def State.replayDone (s : State) (g l bad : Nat) (diff : Bool) : State :=
  let w := BitVec.ofNat 32 (g % 64 + 256 * (l % 256) + 65536 * min 65535 bad)
  let s := s.latch rJRN_LAST_REPLAY w
  let s := if diff then (s.bump rJRN_DIVERGE_CNT 1).raise rJRN_EVT 2 else s
  let s := s.onGroup g (fun x => { x with cur := x.cur.map (fun c => { c with phase := 3 }) })
  s.cmdWritten g

/-- The descriptor through which a REPLAY reads token rows, 0 for none: the main input, or for COMBINE the hidden rows. -/
def Rep.rowTd (r : Rep) (d : Bytes) : Nat := if r.target = 5 then 0 else if r.target = 4 then fld d 40 8 else fld d 32 8

/-- The places of a descriptor that a batch command reads, at (i, r, l) for each row r and each l, are requested. A second failure
is partition-fatal. DESIGN CHOICE, log entry 107. -/
def State.fetchInputs (s : State) (g addr k : Nat) (rows ls : List Nat) : State :=
  let p := s.gPart g
  let t := s.td p addr
  (s.fetchAt p t (s.indices p t) k (ls.flatMap (fun l => rows.map (fun r => (r, l)))) (fun _ => .command g)).1

/-- The descriptors through which a REPLAY reads, by their fields: IN_TD, AUX_TD and AUX2_TD. -/
def Rep.inTds (r : Rep) (d : Bytes) : List Nat :=
  [32] ++ (if r.target = 4 ∧ fld d 40 8 ≠ 0 then [40] else []) ++ (if r.target = 4 ∧ r.fuse 0 then [48] else [])

/-- The scatter-add targets of OUT_TD, which are read before what adds to them (R168). -/
def State.outTargets (s : State) (p addr : Nat) : List (Nat × Nat) :=
  let t := s.td p addr
  if t.scatter then targetRanges (etBytes t.etype) (s.targetsAt p t (s.indices p t)
    ((List.range t.count).map (coordsOf (t.size.take t.rank))))
  else []

/-- What a REPLAY reads before it starts: its journal entry, then the tensor descriptors, then their index tensors, then the targets
of a scatter-add (R54, R56, R166, R168, R400). -/
def repReads (g n : Nat) (d : Bytes) (s : State) : List (Nat × Nat) :=
  let p := s.gPart g
  let out := s.indexRead p (s.td p (fld d 56 8))
  let used (f : Rep → List (Nat × Nat)) := match s.repOf g [] d with
    | .inl r => f r
    | .inr _ => []
  match n with
  | 1 => match s.entryAt p (s.mostRecs p) (fld d 16 8) with
    | .inl rs => s.rangeOf p (fld d 16 8) (sumNat (rs.map (·.length)))
    | .inr _ => []
  | 2 => ([32, 40, 48, 56].filter (fun o => fld d o 8 ≠ 0)).flatMap (fun o => s.rangeOf p (fld d o 8) 128)
  | 3 => used (fun r => (r.inTds d).flatMap (fun o => s.indexRead p (s.td p (fld d o 8)))
      ++ (if out.isEmpty then s.outTargets p (fld d 56 8) else out))
  | 4 => used (fun _ => if out.isEmpty then [] else s.outTargets p (fld d 56 8))
  | _ => []

/-- A REPLAY that passed its checks begins: its tables are bound, its index tensors are used, its input rows and vectors are
requested, and rows that it normalises go to the cores (R28, R398). -/
def State.startRep (s : State) (g : Nat) (d : Bytes) (r : Rep) : State :=
  let p := s.gPart g
  let k := r.k
  let rows := r.toks.map (·.row)
  let s := (s.begin g 1 d).bindCmd g r.tabs.epochs
  let s := (r.inTds d).foldl (fun s o => s.useTd p (s.td p (fld d o 8))) s
  let s := if r.target = 4 ∧ r.fuse 0 then s.fetchInputs g (fld d 48 8) k rows [0] else s
  let s := if r.target = 4 then s.fetchInputs g (fld d 32 8) k (List.range r.topk) rows
    else if r.target = 5 then
      let h := nodeLevel r.node
      s.fetchInputs g (fld d 32 8) (redElems (foldLayer (s.redBlock (s.stepGroup p)) r.layer))
        ((List.range (2 ^ h)).map (fun i => r.node * 2 ^ h + i - 1024)) [0]
    else s
  if r.rowTd d = 0 then s
  else
    let t := s.td p (r.rowTd d)
    let s := (s.issueReads (s.vecReads p r.tabs.e) (.command g)).fetchInputs g (r.rowTd d) k rows [0]
    let q := { freshPass r.layer s.stitch.count r.toks with inIdx := s.indices p t }
    s.onGroup g (fun x => { x with cur := x.cur.map (fun c => { c with
      job := some { pass := q, e := r.tabs.e, pr := r.tabs.pr
                    scores := r.target == 1 || r.target == 2 || r.target == 4 } }) })

/-- Every row of a job is normalised, and scored where it is to be. -/
def Job.done (j : Job) : Bool :=
  (List.range (ceilDiv j.pass.toks.length 8)).all (fun b =>
    j.pass.blocks.contains b && (!j.scores || blockDone j.pass j.pr j.e b))

/-- Run a REPLAY of a target: the first command takes the descriptor and binds its tables, or refuses it; NORMALISE and
the Press runs work on its rows; the next command, once they are done, ends the run. DESIGN CHOICE, log entry 83. -/
def State.runReplay (s : State) (g target : Nat) (f : State → Nat → Bytes → Rep → List Tok → State × Nat × Bool) : State :=
  match (s.group g).cur with
  | some c =>
    let p := s.gPart g
    let l := fld c.desc 24 2
    if c.phase ≠ 1 ∨ c.saved ≠ 0 ∨ c.cut ∨ c.endAs.isSome ∨ s.reading (.command g) ∨ !isReplay target c.desc ∨ (s.part p).state ≠ 1 ∨ !s.mayIssue p ∨ s.layerHeld p l
        ∨ c.job.any (fun j => !j.done || !j.pass.toks.all (s.rowOver (.batch g) j)) then s
    else match s.repOf g c.epochs c.desc with
      | .inr k => s.answer g k
      | .inl r =>
        let (s, bad, diff) := f s g c.desc r ((c.job.map (·.pass.toks)).getD [])
        s.replayDone g l bad diff
  | none =>
    s.runDesc g (isReplay target) (repReads g) (fun d s =>
      if !s.coresFree g (fld d 24 2) then s
      else
        match s.repOf g [] d with
        | .inr k => (s.begin g 1 d).answer g k
        | .inl r => s.startRep g d r)

/-- REPLAY_NORM. -/
def execReplayNorm (group : Nat) (s : State) : Host.Outcome State Fault Refusal :=
  .next (s.runReplay group 0 State.replayNormNow)

/-- REPLAY_SCORES. -/
def execReplayScores (group : Nat) (s : State) : Host.Outcome State Fault Refusal :=
  .next (s.runReplay group 1 State.replayScoresNow)

/-- REPLAY_TICKETS. -/
def execReplayTickets (group : Nat) (s : State) : Host.Outcome State Fault Refusal :=
  .next (s.runReplay group 2 State.replayTicketsNow)

/-- REPLAY_PAYLOAD. -/
def execReplayPayload (group : Nat) (s : State) : Host.Outcome State Fault Refusal :=
  .next (s.runReplay group 3 State.replayPayloadNow)

/-- REPLAY_COMBINE. -/
def execReplayCombine (group : Nat) (s : State) : Host.Outcome State Fault Refusal :=
  .next (s.runReplay group 4 State.replayCombineNow)

/-- REPLAY_REDUCE. -/
def execReplayReduce (group : Nat) (s : State) : Host.Outcome State Fault Refusal :=
  .next (s.runReplay group 5 State.replayReduceNow)

end Sys2Proof.Machine
end

