-- ==== Sys2Proof/Machine/MemPorts.lean ====
section
/-! DEFINITION. The memory ports: beats, responses, errors, their repetition and what a second failure means (R51 to R56,
R76, R369, R371, R394, R406 to R409). -/

namespace Sys2Proof.Machine

/-! ### Requests of a port -/

/-- The request at the front of a port: its place in a list that keeps the order of issue. -/
def frontOf {α : Type} (port : α → Nat) (n : Nat) (l : List α) : Option Nat := l.findIdx? (fun r => port r == n)

/-- The read whose data a port delivers next (R53). -/
def State.frontRead (s : State) (n : Nat) : Option (Nat × ReadReq) :=
  (frontOf (·.port) n s.memp.reads).bind (fun i => s.memp.reads[i]?.map (fun r => (i, r)))

/-- The write that a port answers next (R53). -/
def State.frontWrite (s : State) (n : Nat) : Option (Nat × WriteReq) :=
  (frontOf (·.port) n s.memp.writes).bind (fun i => s.memp.writes[i]?.map (fun r => (i, r)))

/-- The seal audit reads through the seal table (R370). -/
def isAudit : MemObj → Bool
  | .sealed _ _ _ => true
  | _ => false

/-- The seal table stalls a read (R369). -/
def State.sealStall (s : State) (r : ReadReq) : Bool := !isAudit r.obj && s.unsealed r.addr (64 * r.left)

/-- `k` granules of the read at place i are delivered. -/
def State.tookGranules (s : State) (i k : Nat) (r : ReadReq) : State :=
  let rs := if r.left ≤ k then s.memp.reads.eraseIdx i
    else setAt s.memp.reads i (fun r => { r with
      addr := r.addr / 64 * 64 + 64 * k, gran := r.gran + k, left := r.left - k })
  { s with memp := { s.memp with reads := rs } }

/-- The last read of an object has its data: a destination's output rows go back to their source (R287), a save area is
restored (R144), a pass requests its rows (R166), records are taken (R384, R410). -/
def State.readDone (s : State) (o : MemObj) : State :=
  if s.reading o then s
  else match o with
    | .expertOut p l m src => s.sendReturn p l m src
    | .saveArea g => s.restored g
    | .operand p l => s.readTokens p l
    | .target p l => s.writeAdds p l
    | .contrib p l => s.startChunks p l
    | .record p => s.takeRecords p
    | _ => s

/-- The writes of a command's data are visible. -/
def State.dataWritten (s : State) (p : Nat) : State :=
  (List.range 64).foldl (fun s g => if s.gValid g && s.gPart g == p then s.cmdWritten g else s) s

/-- The last write of an object has its response (R53, R76). -/
def State.writeDone (s : State) (o : MemObj) : State :=
  if s.writing o then s
  else match o with
    | .journal p => s.jrnDone p
    | .complRec g => s.recVisible g
    | .context p => s.dataWritten p
    | .batchOut g => s.cmdWritten g
    | .fatal p => s.dataWritten p
    | .workTable tag => { s with seam := { s.seam with
        notes := s.seam.notes.map (fun n => if n.kind = 1 ∧ n.key = tag then { n with held := false } else n) } }
    | _ => s

/-! ### Commands of a port in order -/

/-- The contract of R54 is broken by a late beat: it is counted (R55). -/
def State.lateBeat (s : State) (port : Nat) (late : Bool) : State :=
  if late then s.bump (rMEM_CONTRACT_CNT port) 1 else s

/-- Granules that a beat with granule-valid bits `gv` holds (R51). -/
def validGranules (gv : Nat) : Nat := ((List.range 8).filter (bit gv)).length

/-- MEM_READ_BEAT: a beat arrives with the granules that `gv` marks; its data is what the memory holds. A late one broke
the memory contract and is counted. A read that overlaps an unsealed result stalls and is counted once
(R51, R54, R55, R369). -/
def execMemReadBeat (port : Nat) (beat : MemBeat) (s : State) : Host.Outcome State Fault Refusal :=
  match s.frontRead port with
  | none => .next s
  | some (i, r) =>
    if s.sealStall r then
      if r.stalled then .next s
      else
        let rs := setAt s.memp.reads i (fun r => { r with stalled := true })
        .next (({ s with memp := { s.memp with reads := rs } } : State).bump rFD_SEAL_STALL_CNT 1)
    else
      .next (((s.lateBeat port beat.late).tookGranules i (validGranules beat.valid) r).readDone r.obj)

/-- MEM_REQUEST_ACCEPTED: RDY was low on a port with a request; it rises and the stall ends, counted (R55).
DESIGN CHOICE, log entry 82. -/
def execMemRequestAccepted (port : Nat) (s : State) : Host.Outcome State Fault Refusal :=
  if (s.frontRead port).isSome || (s.frontWrite port).isSome then .next (s.bump (rMEM_CONTRACT_CNT port) 1)
  else .next s

/-- MEM_WRITE_RESPONSE: the data of the port's oldest write is visible to all agents (R53, R76). -/
def execMemWriteResponse (port : Nat) (s : State) : Host.Outcome State Fault Refusal :=
  match s.frontWrite port with
  | none => .next s
  | some (i, w) =>
    .next (({ s with memp := { s.memp with writes := s.memp.writes.eraseIdx i } } : State).writeDone w.obj)

/-! ### Errors (R56, R406, R408) -/

/-- The saves of pre-empted commands that run end with SAVE_FAULT (R145, R426). -/
def State.endSaves (s : State) : State :=
  (List.range 64).foldl (fun s g => match (s.group g).cur with
    | some c => if c.saved = 1 then s.completeCmd g 2 10 else s
    | none => s) s

/-- A port is retired: saves that run end, every partition is torn down, and no restart takes effect until RST_N. -/
def State.retireMemPort (s : State) (n : Nat) : State :=
  if bit s.units.memRet n then s
  else
    let s : State := { s with units := { s.units with
      memRet := setBit s.units.memRet n true, memPorts := setBit s.units.memPorts n false } }
    (s.raise rFLT_EVT 2).endSaves.teardownAll 13

/-- An event of R406 on a port: counted, and its bucket rises. DEDUCED, log entry 81. -/
def State.memEvent (s : State) (n cnt : Nat) : State :=
  let k := min 64 (s.memp.buckets.getD n 0 + 1)
  let s : State := { s with memp := { s.memp with buckets := setAt s.memp.buckets n (fun _ => k) } }
  let s := (if k = 1 then s.leakMark (keyMem n) else s).bump cnt 1
  if k = 64 then s.retireMemPort n else s

/-- A repetition waits for its slot. -/
def State.retryLater (s : State) (r : Retry) : State :=
  { s with memp := { s.memp with retries := s.memp.retries ++ [r] } }

/-- MEM_UE: a granule of the port's oldest read came with UE; its data is not consumed and it is read once more. A late
beat is counted as such (R55, R56, R406). -/
def execMemUe (port : Nat) (beat : UeBeat) (s : State) : Host.Outcome State Fault Refusal :=
  match s.frontRead port with
  | none => .next s
  | some (i, r) =>
    if r.obj ≠ beat.obj ∨ s.sealStall r then .next s
    else
      let s := s.retryLater { port := port, write := false, addr := r.addr / 64 * 64, len := 64, obj := r.obj }
      .next (((s.lateBeat port beat.late).tookGranules i 1 r).memEvent port (rMEM_UE_CNT port))

/-- MEM_WRITE_ERROR: the port's oldest write was answered with WP_ERR and is issued once more; an error on a save area
ends the saved command instead (R145). -/
def execMemWriteError (port : Nat) (s : State) : Host.Outcome State Fault Refusal :=
  match s.frontWrite port with
  | none => .next s
  | some (i, w) =>
    let s : State := { s with memp := { s.memp with writes := s.memp.writes.eraseIdx i } }
    match w.obj with
    | .saveArea g =>
      let s := match (s.group g).cur with
        | some c => if c.saved = 1 ∨ c.saved = 2 then s.completeCmd g 2 10 else s
        | none => s
      .next (s.memEvent port (rMEM_WERR_CNT port))
    | _ =>
      let s := s.retryLater { port := port, write := true, addr := w.addr, len := w.len, obj := w.obj }
      .next (s.memEvent port (rMEM_WERR_CNT port))

/-! ### The second failure of an access (R145, R371, R394, R407, R409) -/

/-- The range of a failed write holds undefined bytes. -/
def State.undefinedAt (s : State) (a n : Nat) : State :=
  let (k, s) := s.draw
  { s with mem := memWrite s.mem a (freeBytes k n) }

/-- A token whose combined row was not stored loses its work for the pass. -/
def State.loseWritten (s : State) (p l row : Nat) : State :=
  match (s.pass p l).bind (fun q => q.toks.find? (fun t => t.row == row)) with
  | none => s
  | some t =>
    if t.whole then s
    else
      let s := s.markLost p l [row]
      let s := s.onTok p l row (fun t => { t with whole := true, lost := true })
      s.onMicro p l 0 (fun y => { y with events := y.events ++ [(t.stream, t.pos, 255, 6)] })

/-- A token loses its work, and its returned outputs are released. -/
def State.loseRow (s : State) (p l row : Nat) : State :=
  let s := s.loseToken p l row
  match s.pass p l with
  | none => s
  | some q =>
    let s := (q.tickets.filter (fun k => k.row == row)).foldl (fun s k =>
      match k.chain with | some c => s.releaseId c | none => s) s
    s.onPass p l (fun q => { q with tickets := q.tickets.map (fun k => if k.row = row then { k with chain := none } else k) })

/-- Every token that needs what was read for a row loses its work (R167, R407). -/
def State.loseRows (s : State) (p l : Nat) (deps : Pass → List (Nat × List Nat)) (row : Nat) : State :=
  (served (((s.pass p l).map deps).getD []) row).foldl (fun s r => s.loseRow p l r) s

/-- A RETURN that cannot be read is replaced by a VOID (R336), its tickets are lost. -/
def State.loseReturn (s : State) (p l m src : Nat) : State :=
  match (s.part p).step, (s.pass p l).map (fun q => microOf q m) with
  | some x, some y =>
    match y.piles.find? (fun r => r.src == src), s.tabs.find? (fun t => some t.tag == y.tableTag) with
    | some r, some t =>
      let me := s.member
      let s := if src = me then
          (s.loseTickets p l m (fun k => k.micro == m && k.dest == me && k.st == 4)).countReturn p l m me
        else s.voidReturn p r.via src l m x.stepNo 2
      (s.pileBack p l m src).destOut p l m t
    | _, _ => s
  | _, _ => s

/-- A work table that could not be written is not notified and counts as answered FAILED (R288). -/
def State.loseTable (s : State) (tag : Nat) : State :=
  match s.tabs.find? (fun t => t.tag == tag) with
  | none => s
  | some t =>
    let ns := s.seam.notes.filter (fun n => !(n.kind == 1 && n.key == tag))
    let ts := s.tabs.map (fun (x : WorkTab) => if x.tag = tag then { x with answered := true } else x)
    let s : State := { s with seam := { s.seam with notes := ns }, tabs := ts }
    let s := s.bump (rSEL_CNT t.part 13) 1
    if t.shared then s.sharedAnswer t.part t.layer t false else s.failTable t.part t.layer t.micro t

/-- A shared output is lost with its token (R352, R381). -/
def State.loseShared (s : State) (p l row : Nat) : State :=
  let s := s.loseRow p l row
  (s.bump (rVARY_CNT p 5) 1).onMicro p l 0 (fun y => { y with vary := y.vary ||| 32 })

/-- The outcome of R407 for a read. -/
def State.readLost (s : State) (o : MemObj) : State :=
  match o with
  | .hidden p l row => s.loseRows p l (·.hidDeps) row
  | .residual p l row => s.loseRows p l (·.resDeps) row
  | .expertOut p l m src => s.loseReturn p l m src
  | .returned p l row x =>
    match s.pass p l with
    | some q =>
      let m := ((q.tickets.find? (fun k => k.row == row && k.expert == x)).map (·.micro)).getD 0
      s.loseTickets p l m (fun k => k.row == row && k.expert == x)
    | none => s
  | .shared p l row => s.loseShared p l row
  | .sealed p l _ => s.poison p l true
  | .router p _ _ _ _ => s.teardown p 12
  | .linkEntry p sys => if sys then s.teardownAll 12 else s.teardown p 12
  | .saveArea g => s.teardown (s.gPart g) 12
  | .command g => s.teardown (s.gPart g) 12
  | .operand p _ => s.teardown p 12
  | .target p _ => s.teardown p 12
  | .contrib p _ => s.teardown p 12
  | .foldIn p _ _ _ => s.teardown p 12
  | .fatal p => s.teardown p 12
  | .record p => s.teardown p 12
  | _ => s

/-- LEDGER_LOST is set in the entry of the step: a final header that is composed already is composed again, once (R407). -/
def State.loseLedger (s : State) (p : Nat) : State :=
  let first := (s.part p).step.any (fun x => !x.ledLost)
  (if first then s.endAgain p else s).onStep p (fun x => { x with ledLost := true })

/-- The outcome of R407 for a write of `len` bytes at an address. -/
def State.writeLost (s : State) (o : MemObj) (a len : Nat) : State :=
  match o with
  | .combined p l row => (s.undefinedAt a len).loseWritten p l row
  | .workTable tag => s.loseTable tag
  | .redResult p l _ => (s.undefinedAt a len).poison p l true
  | .journal p => ((s.undefinedAt a len).raise rJRN_EVT 1).writeDone (.journal p)
  | .ledger p => (s.undefinedAt a len).loseLedger p
  | .complRec g =>
    let s := s.onGroup g (fun x => { x with recBusy := false })
    let ns := s.seam.notes.filter (fun n => !(n.kind != 1 && n.key == g && n.held))
    ({ s with seam := { s.seam with notes := ns } } : State).teardown (s.gPart g) 12
  | .batchOut g => (s.undefinedAt a len).cmdWritten g
  | .linkEntry p sys => if sys then s.teardownAll 12 else s.teardown p 12
  | .context p => s.teardown p 12
  | .fatal p => s.teardown p 12
  | _ => s

/-- The pass or step that an access served is still there to be acted on: not torn down. -/
def State.objLive (s : State) (o : MemObj) : Bool :=
  match s.objPart o with
  | some p => (match (s.part p).step with
    | some x => x.tornBy.isNone
    | none => true)
  | none => true

/-- The steps in flight, with a layer, whose sealed results a range overlaps (R371). -/
def State.sealedAt (s : State) (a n : Nat) : List (Nat × Nat) :=
  (List.range 8).flatMap (fun p => match (s.part p).step with
    | none => []
    | some x => (x.reds.filter (fun r => (List.range r.chunkSt.length).any (fun c => r.chunkSt.getD c 0 == 3
        && overlap (a, n) (s.resultRange p (foldLayer (s.redBlock x.group) r.layer) c)))).map (fun r => (p, r.layer)))

/-- The oldest repetition whose owner has a slot on its port (R406); a read completes issued work in the lowest state too
(R438). -/
def State.nextRetry (s : State) : Option Retry := s.memp.retries.find? (fun r =>
  if r.write then s.writeOpen r.obj r.port else s.slotOpen (s.objOwner r.obj) r.port)

/-- MEM_RETRY: the oldest repetition that has its slot is made and charged; it succeeds, or has the outcome of R407. One that
broke the contract of its port is counted (R55, R406, R434). -/
def execMemRetry (again : RetryEnd) (s : State) : Host.Outcome State Fault Refusal :=
  match s.nextRetry with
  | none => .next s
  | some r =>
    let s : State := { s with memp := { s.memp with retries := s.memp.retries.erase r } }
    let s := (s.lateBeat r.port again.late).charge (if r.write then 7 else 6) (granules r.addr r.len)
    if again.ok then .next (if r.write then s.writeDone r.obj else s.readDone r.obj)
    else
      let s := s.memEvent r.port (if r.write then rMEM_WERR_CNT r.port else rMEM_UE_CNT r.port)
      let s := s.raise rFLT_EVT 1
      let keeps := match r.obj with
        | .journal _ => true
        | .ledger _ => true
        | .complRec _ => true
        | _ => false
      if !keeps && !s.objLive r.obj then .next s
      else if r.write then .next (s.writeLost r.obj r.addr r.len)
      else .next ((s.sealedAt r.addr r.len).foldl (fun s e => s.poison e.1 e.2 true) (s.readLost r.obj))

/-- MEM_BUCKET_LEAK (R408). -/
def execMemBucketLeak (port : Nat) (s : State) : Host.Outcome State Fault Refusal :=
  if s.leakDue (keyMem port) 2097152 (s.memp.buckets.getD port 0) then
    .next (({ s with memp := { s.memp with buckets := setAt s.memp.buckets port (· - 1) } } : State).leakMark (keyMem port))
  else .next s

end Sys2Proof.Machine
end

