-- ==== Sys2Proof/Machine/Boundary.lean ====
section
/-! DEFINITION. The stitch boundary: what is charged, judged, registered and issued at it (R98, R111, R114, R122, R176,
R312, R435). -/

namespace Sys2Proof.Machine

/-- Ring doorbells, abort requests and hold releases accepted before the boundary register (R111). -/
def State.registerInputs (s : State) : State :=
  { s with
    groups := s.groups.map (fun g => { g with
      tailEff := g.tail
      aborts := g.aborts.map (fun a => (a.1, a.2.1, true)) })
    parts := s.parts.map (fun p => { p with
      holds := p.holds.map (fun h => (h.1, h.2.1, h.2.2.1, h.2.2.2 || h.2.2.1)) }) }

/-- Expert-engine completions accepted before the boundary take effect, in their order (R111). -/
def State.applyCompletions (s : State) : State :=
  let cs := s.seam.cmpls
  cs.foldl (fun s c => s.applyCompletion c.1 c.2) { s with seam := { s.seam with cmpls := [] } }

/-- Inbound attach-port writes accepted before the boundary take effect (R111): TAIL before the layer doorbells that depend
on it. -/
def State.registerAll (s : State) : State :=
  ((List.range 64).foldl State.registerBells s.registerInputs).applyCompletions

/-- The micro-steps whose payload flits have all left and been acknowledged: the next one may begin from this boundary on
(R122). -/
def State.markAcked (s : State) : State :=
  (List.range 8).foldl (fun s p => match (s.part p).step with
    | none => s
    | some x => (x.passes.filter (fun q => !q.srcDone)).foldl (fun s q =>
        (q.micros.filter (fun y => y.sorted && !y.acked && !y.out.any (fun o => o.2 == 0) && s.pilesAcked p q.layer y.m)).foldl (fun s y =>
          s.onMicro p q.layer y.m (fun z => { z with acked := true })) s) s) s

/-- Refused requests of the buffer pools are presented again in the next owned slot (R176). -/
def State.serveWaiting (s : State) : State := if s.hamper.waiting.isEmpty then s else s.serveCycle []

/-- With no partition up the availability registers follow at counts that are multiples of 64 (R476). -/
def State.showIdle (s : State) : State :=
  if s.boot.state == 11 && s.stitch.count % 64 == 0 && s.parts.all (fun p => p.state ≠ 1) then s.showUnits else s

/-- STITCH_BOUNDARY (R98): the stitch that ends is charged and judged, the count rises by one, inputs register, the
governor projects and the stitch is marked. `runs` and `others` count the issues of the held classes that the schedule and
the resident operands allow in the coming stitch (R435): Press runs as entries 2 to 5 of the cost table price them, and what
entries 10 to 13 price. -/
def execStitchBoundary (runs others : List Nat) (s : State) : Host.Outcome State Fault Refusal :=
  if s.boot.rstLow ∨ s.boot.state < 9 ∨ 11 < s.boot.state then .next s
  else
    let last := s.power.ops
    let s := s.account
    let s := s.judgePhase
    let s := { s with stitch := { s.stitch with count := s.stitch.count + 1, heard := s.stitch.heard.map (· + 1) } }
    let s := { s with power := { s.power with
      resume := s.power.resume && (s.power.alertLow || s.power.thermLow) } }
    let s := s.registerAll.batchAborts.openAborted.markAcked.issueSlots.serveWaiting.startWakes
    let s := if s.running then s.govern runs others last else s
    let s := s.markStitch.countReach.showIdle.serveLost.handOver
    .next s.pumpAll.idleMarks

end Sys2Proof.Machine
end

