-- ==== Sys2Proof/Machine/Regs.lean ====
section
/-! DEFINITION. The management port (R66 to R69): the map of every register of the block with its read value
(R97, R123, R153, R182, R211, R234, R267, R290, R315, R343, R378, R402, R427, R441, R466, R474 to R481), and the
accesses that have no row of their own: W1C writes, RC reads, split reads, EVT_MAP and the other writes. -/

namespace Sys2Proof.Machine

/-- How a register answers an access (R11): read-only, written with an effect, event word, counter cleared by its read,
LO half of a split pair (R470). -/
inductive RegKind where
  | ro
  | rw
  | w1c
  | rc
  | lo
  deriving DecidableEq, Repr

/-- A row of a register table: `count` registers from `base` on, `stride` apart, and the value the i-th one reads. -/
structure RegRow where
  base : Nat
  stride : Nat
  count : Nat
  kind : RegKind
  val : State → Nat → Nat

/-- The index within its row of the register at an address. -/
def RegRow.index (r : RegRow) (a : Nat) : Option Nat :=
  if r.base ≤ a ∧ (a - r.base) % r.stride = 0 ∧ (a - r.base) / r.stride < r.count then some ((a - r.base) / r.stride)
  else none

/-- Words held in the register file. -/
def stored (base stride count : Nat) (kind : RegKind) : RegRow :=
  { base := base, stride := stride, count := count, kind := kind
    val := fun s i => (s.reg (base + stride * i)).toNat }

/-- One register with a view. -/
def one (a : Nat) (kind : RegKind) (f : State → Nat) : RegRow :=
  { base := a, stride := 4, count := 1, kind := kind, val := fun s _ => f s }

/-- A value in two's complement of 32 bits. -/
def twos32 (v : Int) : Nat := (v % 2 ^ 32).toNat

/-- The image has been loaded (R88). -/
def State.loaded (s : State) : Bool := !s.img.sections.isEmpty

/-! ### Views (each cites the rule of its field map) -/

/-- UNIT_MISC (R476). -/
def State.unitMisc (s : State) : Nat :=
  let a := s.units.shownArrays
  let core (c : Nat) := decide (bits a (4 * c) 4 ≠ 0)
  pack [(0, 8, maskOf 8 core), (8, 4, maskOf 4 (fun k => core (2 * k) || core (2 * k + 1))),
    (12, 4, s.units.shownFolds), (16, 12, s.units.shownMem)]

/-- START_STATUS (R97). -/
def State.startStatus (s : State) : Nat :=
  let b := s.boot
  pack [(0, 4, b.state), (8, 8, b.code), (16, 8, b.detail), (24, 1, flag (b.copySel == some .b)),
    (25, 1, flag b.octalSel), (26, 1, flag b.noRecord), (27, 1, flag b.stale), (28, 1, flag b.partDown),
    (29, 1, flag b.copyRej)]

/-- COPY_STATUS (R97). -/
def State.copyStatus (s : State) : Nat :=
  pack [(0, 4, s.boot.reasonA), (4, 4, s.boot.reasonB), (8, 1, flag s.boot.slowA), (9, 1, flag s.boot.slowB)]

/-- IMG_GEN of a header: 0 if check 1 failed (R97). -/
def genOf (h : Bytes) : Nat := if hdrKnown h then fld h 8 4 else 0

/-- STITCH_STATUS (R123). -/
def State.stitchStatus (s : State) : Nat :=
  let t := s.stitch
  pack [(0, 3, t.state), (3, 3, t.src), (6, 5, if t.src = 1 then t.relay else 0), (11, 1, flag (s.loaded && s.headMgr)),
    (12, 1, flag (s.loaded && s.podMgr)), (16, 16, min t.lockRun 65535)]

/-- STITCH_PHASE (R123): CYC is set in CLOCK_CHECK. DESIGN CHOICE, log entry 15. -/
def State.stitchPhase (s : State) : Nat :=
  let p := s.stitch.phasePs
  let e : Nat := if s.stitch.state = 3 then 0
    else if -32768 ≤ p ∧ p < 32768 then (p % 65536).toNat else (Config.phaseOut p).toNat
  pack [(0, 16, e), (16, 16,
    if 3 ≤ s.boot.state ∧ s.boot.copySel.isSome then 640 + 64 * fld (selHdr s.boot) 0x14 1 else 0)]

/-- PART_STATUS (R153). -/
def State.partStatus (s : State) (p : Nat) : Nat :=
  let f := s.pcfg p 1 1
  let fb := s.pValid p && f != 255
  pack [(0, 3, (s.part p).state), (8, 8, maskOf 8 (fun c => (s.coresOf p).contains c)),
    (16, 3, if fb then f else 0), (19, 1, flag fb), (24, 8, (s.part p).fault)]

/-- GRP_STATUS (R153). A group the image does not name reads 0. DEDUCED, log entry 45. -/
def State.grpStatus (s : State) (g : Nat) : Nat :=
  if !s.gValid g then 0 else
    let x := s.group g
    let held := match x.cur with
      | some c => decide (2 ≤ c.saved)
      | none => false
    let st := (s.part (s.gPart g)).state
    pack [(0, 5, s.gcfg g 2 1), (5, 1, flag (s.gGen2 g)), (6, 3, s.gPart g), (9, 1, flag (x.cur.isSome && !held)),
      (10, 1, flag held), (11, 1, flag (st == 0 || st == 4)), (12, 1, flag x.tailErr)]

/-- Cells of a pool held by an owner group (R173). -/
def State.ownUsed (s : State) (o : Nat) (mem : Bool) : Nat := usedBy s.hamper o mem

/-- MPOOL_FREE: 0 before UNIT_INIT; the size stands once the section is loaded (R182). -/
def State.hamperFree (s : State) (mem : Bool) : Nat := s.freeCells mem

/-- PR_STATUS of a core (R211): two instructions run when runs in flight take both lanes (R191). -/
def State.prStatus (s : State) (c : Nat) : Nat :=
  let rs := s.press.runs.filter (fun r => r.span.any (fun x => x.1 / 4 == c))
  let two := rs.any (fun a => rs.any (fun b => a.lane != b.lane))
  pack [(0, 4, bits s.units.arrays (4 * c) 4), (4, 4, bits s.units.arraysRet (4 * c) 4),
    (8, 4, bits s.units.arraysPend (4 * c) 4), (12, 1, flag two)]

/-- ST_STATUS of Starch (R234): a slice is busy while a lane of it is ACTIVE (R233). -/
def State.starchStatus (s : State) : Nat :=
  pack [(0, 8, s.units.slices), (8, 8, maskOf 8 (fun c => (s.core c).lanes.any (·.active)))]

/-- Table t of partition p. -/
def State.tableOf (s : State) (p t : Nat) : TablePair := (s.part p).tables.getD t emptyTable

/-- SEL_HOLD (R267). -/
def State.selHold (s : State) (p w : Nat) : Nat := maskOf 32 (fun i => s.layerHeld p (32 * w + i))

/-- ENG_STATUS (R290); OUTSTANDING shows at most 255. -/
def State.engStatus (s : State) : Nat :=
  let out := s.tabs.filter (fun t => t.notified && !t.answered)
  pack [(0, 8, min 255 out.length),
    (8, 8, maskOf 8 (fun p => (s.part p).stopping && out.any (fun t => t.part == p)))]

/-- LK_STATUS (R315). -/
def State.lkStatus (s : State) (p : Nat) : Nat :=
  let x := s.port p
  pack [(0, 3, x.state), (3, 2, x.mode), (5, 1, flag x.relayed.isSome), (6, 1, flag x.rttLong), (7, 1, flag x.absent),
    (8, 5, x.relayed.getD 0), (16, 8, if x.state = 7 then x.fail else 0)]

/-- LK_PEER (R315): an uplink port reads 0. -/
def State.lkPeer (s : State) (p : Nat) : Nat :=
  if 31 ≤ p then 0 else
    match s.chan p with
    | none => 0
    | some c => match c.session with
      | none => 0
      | some n => pack [(0, 16, n), (16, 9, c.peer), (25, 6, c.peerPort), (31, 1, 1)]

/-- RED_STATUS of FOLD block i (R378). -/
def State.redStatus (s : State) (i : Nat) : Nat :=
  let k := foldBlock (s.sect 12) i
  pack [(0, 6, fld k 1 1), (6, 1, flag (fld k 0 1 == 1)), (8, 3, s.fold.redState.getD i 0),
    (16, 16, min (s.fold.redSealed.getD i 0) 65535)]

/-- PWR_STATUS (R441). -/
def State.pwrStatus (s : State) : Nat :=
  pack [(0, 1, flag s.power.alertLow), (1, 1, flag s.power.thermLow), (2, 1, flag s.power.held),
    (3, 1, flag s.power.calDone)]

/-! ### The map (R474, R481) -/

/-- Identity and global control (R474). -/
def regsIdentity : List RegRow :=
  [ one 0x00 .ro (fun _ => 0x00030200)
  , one 0x04 .ro (fun _ => Config.implClass.toNat + 0x03020000)
  , one 0x08 .ro (fun s => if s.loaded then pack [(0, 9, s.member), (16, 8, s.hdrF 0x18 1), (24, 1, flag s.headMgr),
      (25, 1, flag s.podMgr), (26, 1, flag s.extStitch)] else 0)
  , one 0x0C .ro (fun s => if s.loaded then pack [(0, 6, s.podSize), (8, 5, s.pods), (16, 4, s.hdrF 0x14 1)] else 0)
  , one 0x10 .ro (fun s => pack [(0, 1, flag s.boot.lock), (1, 1, flag s.self.request)])
  , stored rGLOBAL_EVT 4 1 .w1c
  , one 0x20 .ro (fun s => s.units.shownArrays)
  , one 0x24 .ro State.unitMisc
  , one 0x28 .ro (fun s => s.units.shownLinks % 2 ^ 32)
  , one 0x2C .ro (fun s => s.units.shownLinks / 2 ^ 32)
  , stored (rEVT_MAP 0) 4 4 .rw
  , one 0x50 .ro State.evtPend
  , one 0x54 .ro State.evtLines
  , stored rATTACH_GEN_MISMATCH_CNT 4 1 .rc ]

/-- Boot and configuration status (R97). -/
def regsBoot : List RegRow :=
  [ one 0x10000 .ro State.startStatus
  , one 0x10004 .ro State.copyStatus
  , one 0x10008 .ro (fun s => genOf s.boot.hdrA)
  , one 0x1000C .ro (fun s => genOf s.boot.hdrB)
  , { base := 0x10010, stride := 4, count := 12, kind := .ro, val := fun s i => fld s.boot.imgHash (4 * i) 4 }
  , one 0x10040 .ro (fun s => maskOf 8 (fun p => (s.part p).state == 1))
  , one 0x10044 .ro (fun s => s.boot.startUs)
  , { base := 0x10080, stride := 4, count := 12, kind := .ro, val := fun s i => (s.boot.keys.getD i 0).toNat }
  , one 0x100B0 .rw (fun s => s.boot.keyData.toNat)
  , one 0x100B4 .rw (fun s => pack [(0, 4, s.boot.keyWord), (16, 1, flag s.boot.keyBusy.isSome),
      (17, 1, flag s.boot.keyErr)]) ]

/-- Stitch and time (R123). -/
def regsStitch : List RegRow :=
  [ one 0x20000 .lo (fun s => s.stitch.count % 2 ^ 32)
  , stored rSTITCH_HI 4 1 .ro
  , one 0x20008 .ro State.stitchStatus
  , one 0x2000C .ro State.stitchPhase
  , stored rSTITCH_EVT 4 1 .w1c
  , stored rREF_MISS_CNT 4 5 .rc ]

/-- Partitions and queues (R153). -/
def regsQueue : List RegRow :=
  [ { base := 0x30000, stride := 4, count := 8, kind := .ro, val := State.partStatus }
  , { base := 0x30020, stride := 4, count := 8, kind := .rw, val := fun _ _ => 0 }
  , { base := 0x30100, stride := 16, count := 64, kind := .ro, val := fun s g => (s.group g).head % 2 ^ 32 }
  , { base := 0x30104, stride := 16, count := 64, kind := .ro, val := fun s g => (s.group g).tail % 2 ^ 32 }
  , { base := 0x30108, stride := 16, count := 64, kind := .w1c, val := State.grpStatus }
  , stored rDIVERT_CNT 4 4 .rc
  , stored (rACCT_DONE 0) 4 512 .rc ]

/-- Segment tables (R182). -/
def regsSeg : List RegRow :=
  (List.range 8).flatMap (fun p =>
    let seg (off : Nat) (f : Bytes → Nat) : RegRow :=
      { base := 0x40000 + 0x1000 * p + off, stride := 16, count := 256, kind := .ro
        val := fun s i => f (segEnt (s.sect 4) p i) }
    [ seg 0 (fun e => fld e 0 4)
    , seg 4 (fun e => fld e 4 2 + 2 ^ 16 * fld e 6 1)
    , seg 8 (fun e => fld e 8 4)
    , seg 12 (fun e => fld e 12 2)
    , stored (rSEG_OOB_RD_CNT p) 4 3 .rc ])

/-- Press (R211). -/
def regsPress : List RegRow :=
  (List.range 8).flatMap (fun c =>
    let b := 0x80000 + 0x2000 * c
    [ one b .ro (fun s => s.prStatus c)
    , stored (rPR_EVT c) 4 1 .w1c
    , stored (rPR_RETRY_CNT c) 4 3 .rc
    , stored (rPR_LAST_CHK c) 4 1 .ro
    , { base := b + 0x20, stride := 4, count := 4, kind := .ro, val := fun s i => s.press.buckets.getD (4 * c + i) 0 } ])

/-- Starch (R234). -/
def regsStarch : List RegRow := [stored (rST_VAR_CLAMP_CNT 0) 4 32 .rc, one 0xC0100 .ro State.starchStatus]

/-- Selection tables (R267, R290). -/
def regsSelect : List RegRow :=
  (List.range 8).flatMap (fun p =>
    [ { base := 0x100000 + 32 * p, stride := 4, count := 4, kind := .ro
        val := fun s t => (s.tableOf p t).live.epoch }
    , { base := 0x100010 + 32 * p, stride := 4, count := 4, kind := .ro
        val := fun s t => if (s.tableOf p t).sh = 0 then 0 else (s.tableOf p t).shadow.epoch }
    , { base := 0x100200 + 32 * p, stride := 4, count := 8, kind := .ro, val := fun s w => s.selHold p w }
    , one (0x100400 + 4 * p) .ro (fun s => pack ((List.range 4).map (fun t => (2 * t, 2, (s.tableOf p t).sh))))
    , stored (rSEL_CNT p 0) 4 14 .rc ])
  ++ [ stored rSEL_EVT 4 1 .w1c, stored rENG_CMPL_IGN_CNT 4 1 .rc, one 0x100604 .ro State.engStatus ]

/-- Hamper (R182). -/
def regsHamper : List RegRow :=
  [ one 0x140000 .ro (fun s => s.hamperFree false)
  , one 0x140004 .ro (fun s => s.hamperFree true)
  , stored rSTAGE_FALLBACK_CNT 4 3 .rc
  , { base := 0x140100, stride := 8, count := 16, kind := .ro, val := fun s o => s.ownUsed o false }
  , { base := 0x140104, stride := 8, count := 16, kind := .ro, val := fun s o => s.ownUsed o true } ]

/-- Links and exchange (R315, R343). -/
def regsLink : List RegRow :=
  [ { base := 0x180000, stride := 0x400, count := 36, kind := .ro, val := State.lkStatus }
  , stored (rLK_EVT 0) 0x400 36 .w1c
  , { base := 0x180008, stride := 0x400, count := 36, kind := .rw, val := fun _ _ => 0 }
  , { base := 0x18000C, stride := 0x400, count := 36, kind := .ro, val := fun s p => (s.port p).rtt }
  , { base := 0x180010, stride := 0x400, count := 36, kind := .ro, val := fun s p => (s.port p).bucket }
  , { base := 0x180014, stride := 0x400, count := 36, kind := .ro, val := State.lkPeer }
  , stored (rLK_CRC_CNT 0) 0x400 36 .rc
  , stored (rLK_RESEND_CNT 0) 0x400 36 .rc
  , stored (rLK_RETRAIN_CNT 0) 0x400 36 .rc
  , stored (rLK_RELAY_CNT 0) 0x400 36 .rc
  , one 0x18F000 .ro (fun s => maskOf 32 (fun p => (s.port p).state == 7))
  , one 0x18F004 .ro (fun s => maskOf 4 (fun p => (s.port (32 + p)).state == 7))
  , stored rXCH_EVT 4 1 .w1c
  , stored rXCH_LAST_BAD 4 1 .ro
  , stored rXCH_CORRUPT_CNT 4 7 .rc
  , { base := 0x18E100, stride := 4, count := 16, kind := .ro
      val := fun s w => maskOf 32 (fun i => s.isDead (32 * w + i)) } ]

/-- Fold and collectives (R378). -/
def regsFold : List RegRow :=
  [ one 0x1C0000 .ro (fun s => pack [(0, 4, s.units.folds), (4, 4, s.units.foldsRet), (8, 4, s.units.foldsPend)])
  , stored rFD_EVT 4 1 .w1c
  , stored rFD_LAST_RES 4 1 .ro
  , { base := 0x1C0010, stride := 4, count := 4, kind := .ro, val := fun s c => s.fold.buckets.getD c 0 }
  , { base := 0x1C0020, stride := 4, count := 4, kind := .ro, val := State.redStatus }
  , one 0x1C0040 .ro (fun s => fld (s.sect 12) 8 4)
  , one 0x1C0044 .ro (fun s => fld (s.sect 12) 12 4)
  , stored (rFD_NAN_ROW_CNT 0) 16 8 .rc
  , stored rFD_RETRY_CNT 4 7 .rc ]

/-- Faults and ledger (R427). -/
def regsFault : List RegRow :=
  [ stored rFLT_EVT 4 1 .w1c
  , stored rFLT_LAST 4 1 .ro
  , { base := 0x200010, stride := 4, count := 8, kind := .ro, val := fun s p => (s.part p).ledNext % 2 ^ 32 }
  , stored (rABORT_RESULT 0) 4 64 .ro
  , { base := 0x200200, stride := 16, count := 12, kind := .ro, val := fun s n => s.memp.buckets.getD n 0 }
  , stored (rMEM_UE_CNT 0) 16 12 .rc
  , stored (rMEM_WERR_CNT 0) 16 12 .rc
  , stored (rMEM_CONTRACT_CNT 0) 16 12 .rc
  , one 0x200300 .ro (fun s => s.units.memRet)
  , stored rSTRAGGLE_CNT 4 4 .rc ]

/-- Journal (R402). -/
def regsJournal : List RegRow :=
  [ { base := 0x201000, stride := 32, count := 8, kind := .lo, val := fun s p => (s.part p).jrnW % 2 ^ 32 }
  , stored (rJRN_WRITE_HI 0) 32 8 .ro
  , stored (rJRN_CONSUMED_LO 0) 32 8 .rw
  , stored (rJRN_CONSUMED_HI 0) 32 8 .rw
  , { base := 0x201100, stride := 8, count := 32, kind := .lo
      val := fun s i => (s.tableOf (i / 4) (i % 4)).live.digest % 2 ^ 32 }
  , stored (rTBL_DIGEST_HI 0 0) 8 32 .ro
  , stored rJRN_EVT 4 1 .w1c
  , stored rJRN_LAST_REPLAY 4 1 .ro
  , stored rJRN_FULL_CNT 4 2 .rc
  , one 0x201410 .lo (fun s => s.power.digest % 2 ^ 32)
  , stored rENERGY_DIGEST_HI 4 1 .ro ]
  ++ (List.range 8).map (fun p => stored (rVARY_CNT p 0) 4 6 .rc)

/-- Power and energy (R441). -/
def regsPower : List RegRow :=
  [ one 0x240000 .ro State.pwrStatus
  , stored rPWR_EVT 4 1 .w1c
  , one 0x240008 .rw (fun s => s.power.telem.toNat)
  , one 0x24000C .ro (fun s => pack [(0, 8, s.power.seeded), (8, 8, s.power.clamped)])
  , one 0x240010 .ro (fun s => s.power.domOn % 2 ^ 32)
  , one 0x240014 .ro (fun s => s.power.domOn / 2 ^ 32)
  , one 0x240018 .ro (fun s => s.power.energyWin)
  , one 0x24001C .ro (fun s => s.roll / 1000000)
  , one 0x240020 .ro (fun s => twos32 (s.power.bucket / 1000000))
  , one 0x240024 .ro (fun s => s.power.issueF)
  , { base := 0x240040, stride := 4, count := 16, kind := .ro, val := State.costOf }
  , stored rPWR_ALERT_CNT 4 5 .rc ]

/-- Self-test and lifetime (R466). -/
def regsSelf : List RegRow :=
  [ one 0x280000 .rw (fun _ => 0)
  , one 0x280004 .ro (fun s => pack [(0, 4, s.self.state), (8, 8, s.self.code), (16, 16, s.self.entries)])
  , one 0x280008 .ro (fun s => pack [(0, 16, s.self.cclk), (16, 16, s.self.vdd)])
  , stored rST_EVT 4 1 .w1c
  , one 0x280010 .ro (fun s => pack [(0, 8, ((List.range 48).filter (bit s.self.domFail)).length), (8, 1, flag s.self.truncated),
      (9, 1, flag s.self.notWritten)])
  , stored rLINT_LAST 4 1 .ro
  , one 0x280018 .ro (fun s => s.recd.lintPos)
  , stored rLINT_FAIL_CNT 4 2 .rc
  , one 0x280100 .ro (fun s => s.recd.startCnt)
  , one 0x280104 .ro (fun s => s.recd.uptime)
  , one 0x280108 .ro (fun s => s.recd.lifeSec / 3600)
  , one 0x28010C .ro (fun s => s.recd.energyUj / 1000 / 3600000)
  , one 0x280110 .lo (fun s => s.recd.calendar % 2 ^ 32)
  , stored rCAL_HI 4 1 .ro
  , one 0x280118 .rw (fun s => s.recd.calSetLo.toNat)
  , one 0x28011C .rw (fun s => s.recd.calSetHi.toNat)
  , one 0x280120 .ro (fun s => s.recd.calSrc)
  , one 0x280124 .lo (fun s => s.recd.steps % 2 ^ 32)
  , stored rSTEPS_HI 4 1 .ro
  , one 0x28012C .ro (fun s => s.recd.logSeq)
  , { base := 0x280200, stride := 8, count := 36, kind := .ro, val := fun s p => sat32 (s.recd.linkErr.getD p 0) }
  , { base := 0x280204, stride := 8, count := 36, kind := .ro, val := State.linkEvt }
  , { base := 0x280400, stride := 4, count := 32, kind := .ro, val := State.arrayFlt } ]

/-- The rows of the region of an address (R67); none beyond the mapped regions. -/
def regionRows (a : Nat) : List RegRow :=
  if a < 0x10000 then regsIdentity
  else if a < 0x20000 then regsBoot
  else if a < 0x30000 then regsStitch
  else if a < 0x40000 then regsQueue
  else if a < 0x80000 then regsSeg
  else if a < 0xC0000 then regsPress
  else if a < 0x100000 then regsStarch
  else if a < 0x140000 then regsSelect
  else if a < 0x180000 then regsHamper
  else if a < 0x1C0000 then regsLink
  else if a < 0x200000 then regsFold
  else if a < 0x240000 then (if a < 0x201000 then regsFault else regsJournal)
  else if a < 0x280000 then regsPower
  else if a < 0x2C0000 then regsSelf
  else []

/-- The first row of a list that holds an address, and the register's index in it. -/
def findReg : List RegRow → Nat → Option (RegRow × Nat)
  | [], _ => none
  | r :: rest, a => match r.index a with
    | some i => some (r, i)
    | none => findReg rest a

/-- The register at an address; none where the manual names none (R468). -/
def regAt (a : Nat) : Option (RegRow × Nat) := findReg (regionRows a) a

/-- The kind of the register at an address. -/
def kindAt (a : Nat) : Option RegKind := (regAt a).map (·.1.kind)

/-- What a read of an address returns; none where it is answered with MGT_ERR (R68). -/
def State.readReg (s : State) (a : Nat) : Option Word :=
  if s.powered a then (regAt a).map (fun r => BitVec.ofNat 32 (r.1.val s r.2)) else none

/-! ### Accesses -/

/-- An access to an unmapped address, or to a register whose domain is off (R68). -/
def State.mgtFail (s : State) : State := { s with mgtData := 0, mgtErr := true }

/-- A read answers a word. -/
def State.mgtRead (s : State) (v : Word) : State := { s with mgtData := v, mgtErr := false }

/-- The access cannot be answered (R68, R468). DEDUCED, log entry 44. -/
def State.mgtBad (s : State) (a : Nat) : Bool := (kindAt a).isNone || !s.powered a

/-- A W1C word after a write of `value`: a hardware set of the same cycle wins (R11, R69). -/
def w1cWord (old value set mask : Word) : Word := (old &&& ~~~value) ||| (set &&& mask)

/-- The group whose GRP_STATUS lies at an address (R153). -/
def statusGroup (a : Nat) : Option Nat :=
  if 0x30108 ≤ a ∧ (a - 0x30108) % 16 = 0 ∧ (a - 0x30108) / 16 < 64 then some ((a - 0x30108) / 16) else none

/-- W1C_CLEAR: a write of `value` to an event register; `setNow` are the bits that the block sets in the same AOCLK
cycle, START among them while REFUSED (R69, R475). The event lines follow from the words (R478). -/
def execW1cClear (addr : Nat) (value setNow : Word) (s : State) : Host.Outcome State Fault Refusal :=
  if s.boot.rstLow then .next s
  else if s.mgtBad addr then .next s.mgtFail
  else if kindAt addr ≠ some .w1c then .next s
  else
    let s := s.mgtAck
    match statusGroup addr with
    | some g => .next (s.onGroup g (fun x => { x with
        tailErr := (x.tailErr && !bit value.toNat 12) || bit setNow.toNat 12 }))
    | none =>
      let set := if addr = rGLOBAL_EVT ∧ s.boot.state = 15 then setNow ||| 1 else setNow
      .next (s.setReg addr (w1cWord (s.reg addr) value set (BitVec.ofNat 32 (evtMask addr))))

/-- RC_COUNTER_READ, the read access of the management port: a read of an RC counter returns the count and clears it, and
`add` events of the same cycle stay (R11, R69, R472); a read of any other register but the LO half of a pair returns its
word and changes nothing (R66, R68). The table has no row for that read. DESIGN CHOICE, log entry 102. -/
def execRcCounterRead (addr add : Nat) (s : State) : Host.Outcome State Fault Refusal :=
  if s.boot.rstLow then .next s
  else if s.mgtBad addr then .next s.mgtFail
  else if kindAt addr = some .lo then .next s
  else if kindAt addr = some .rc then .next ((s.mgtRead (s.reg addr)).setReg addr (satAdd 0 add))
  else .next (s.mgtRead ((s.readReg addr).getD 0))

/-- The 64-bit value of a split pair whose LO register lies at an address, and its HI register (R470). -/
def State.splitAt (s : State) (a : Nat) : Option (Nat × Nat) :=
  if a = 0x20000 then some (s.stitch.count, rSTITCH_HI)
  else if a = 0x201410 then some (s.power.digest, rENERGY_DIGEST_HI)
  else if a = 0x280110 then some (s.recd.calendar, rCAL_HI)
  else if a = 0x280124 then some (s.recd.steps, rSTEPS_HI)
  else if 0x201000 ≤ a ∧ a < 0x201100 ∧ (a - 0x201000) % 32 = 0 then
    let p := (a - 0x201000) / 32
    some ((s.part p).jrnW, rJRN_WRITE_HI p)
  else if 0x201100 ≤ a ∧ a < 0x201200 ∧ (a - 0x201100) % 8 = 0 then
    let i := (a - 0x201100) / 8
    some ((s.tableOf (i / 4) (i % 4)).live.digest, rTBL_DIGEST_HI (i / 4) (i % 4))
  else none

/-- SPLIT_LO_READ: the read returns the low half and copies the high half into HI (R470). -/
def execSplitLoRead (addr : Nat) (s : State) : Host.Outcome State Fault Refusal :=
  if s.boot.rstLow then .next s
  else if s.mgtBad addr then .next s.mgtFail
  else match s.splitAt addr with
    | none => .next s
    | some (v, hi) => .next ((s.mgtRead (BitVec.ofNat 32 v)).setReg hi (BitVec.ofNat 32 (v / 2 ^ 32)))

/-- EVT_MAP_WRITE: EVT_MAP[line] takes the class bits (R478, R479). -/
def execEvtMapWrite (line : Nat) (value : Word) (s : State) : Host.Outcome State Fault Refusal :=
  if s.boot.rstLow ∨ 4 ≤ line then .next s
  else .next (s.mgtAck.setReg (rEVT_MAP line) (value &&& 0xFFF))

/-- Registers whose writes have a row of their own (R473): W1C words and the commands. DEDUCED, log entry 46. -/
def ownWrite (a : Nat) : Bool :=
  kindAt a == some .w1c || (kindAt a == some .rw
    && !(a == 0x100B0 || a == 0x280118 || (decide (0x201000 ≤ a) && decide (a < 0x201100) && a % 32 == 8)))

/-- REGISTER_WRITE_OTHER: KEY_PROG_DATA, JRN_CONSUMED_LO and CAL_SET_LO hold what is written; every other register
ignores it; an unmapped or unpowered address answers MGT_ERR (R68, R468, R470, R473). CAL_SET_LO is held on the head
manager only (R461). An access that is raised while RST_N is low is not acknowledged, this one like every other.
DESIGN CHOICE, log entry 115. -/
def execRegisterWriteOther (addr : Nat) (value : Word) (s : State) : Host.Outcome State Fault Refusal :=
  if s.boot.rstLow then .next s
  else if s.mgtBad addr then .next s.mgtFail
  else if ownWrite addr then .next s
  else
    let s := s.mgtAck
    if addr = 0x100B0 then .next { s with boot := { s.boot with keyData := value } }
    else if addr = 0x280118 then
      .next (if s.headMgr && s.running then { s with recd := { s.recd with calSetLo := value } } else s)
    else if kindAt addr = some .rw then .next (s.setReg addr value)
    else .next s

end Sys2Proof.Machine
end

