-- ==== Sys2Proof/Machine/Dispatch.lean ====
section
/-! DEFINITION. The dispatcher: one direct call of a meaning per command. -/

namespace Sys2Proof.Machine

/-- The effect of a command on everything but the queue. -/
def exec (i : Instr) (s : State) : Host.Outcome State Fault Refusal :=
  match i with
  | .rstNAssert => Sys2Proof.Machine.execRstNAssert s
  | .rstNDeassert sfdp hdrA hdrB us => Sys2Proof.Machine.execRstNDeassert sfdp hdrA hdrB us s
  | .copyReadDone copy img us => Sys2Proof.Machine.execCopyReadDone copy img us s
  | .clockCheck cycles us => Sys2Proof.Machine.execClockCheck cycles us s
  | .repair record page logs us => Sys2Proof.Machine.execRepair record page logs us s
  | .domainSwitchOn dom => Sys2Proof.Machine.execDomainSwitchOn dom s
  | .load img us => Sys2Proof.Machine.execLoad img us s
  | .linkTrainEnd timeout => Sys2Proof.Machine.execLinkTrainEnd timeout s
  | .headListenEnd => Sys2Proof.Machine.execHeadListenEnd s
  | .lockAcquired => Sys2Proof.Machine.execLockAcquired s
  | .stitchLockTimeout us => Sys2Proof.Machine.execStitchLockTimeout us s
  | .partitionUp us => Sys2Proof.Machine.execPartitionUp us s
  | .keyProgram value => Sys2Proof.Machine.execKeyProgram value s
  | .keyProgramDone => Sys2Proof.Machine.execKeyProgramDone s
  | .pwrAlert => Sys2Proof.Machine.execPwrAlert s
  | .pwrAlertRelease us => Sys2Proof.Machine.execPwrAlertRelease us s
  | .thermTrip us => Sys2Proof.Machine.execThermTrip us s
  | .thermTripRelease => Sys2Proof.Machine.execThermTripRelease s
  | .stitchRefEdge offsetPs => Sys2Proof.Machine.execStitchRefEdge offsetPs s
  | .stitchRefMiss => Sys2Proof.Machine.execStitchRefMiss s
  | .stitchBoundary runs others => Sys2Proof.Machine.execStitchBoundary runs others s
  | .lockLoss => Sys2Proof.Machine.execLockLoss s
  | .stitchSlip refCount => Sys2Proof.Machine.execStitchSlip refCount s
  | .stitchRelaySwitch lockedDirect => Sys2Proof.Machine.execStitchRelaySwitch lockedDirect s
  | .stitchDirectRestore => Sys2Proof.Machine.execStitchDirectRestore s
  | .countFlitSend port => Sys2Proof.Machine.execCountFlitSend port s
  | .timeSend chan txOfs => Sys2Proof.Machine.execTimeSend chan txOfs s
  | .ringDoorbell req => Sys2Proof.Machine.execRingDoorbell req s
  | .layerDoorbell req => Sys2Proof.Machine.execLayerDoorbell req s
  | .engineCompletion req => Sys2Proof.Machine.execEngineCompletion req s
  | .weightWriteRelease req => Sys2Proof.Machine.execWeightWriteRelease req s
  | .holdClear part layer => Sys2Proof.Machine.execHoldClear part layer s
  | .abortRequest req => Sys2Proof.Machine.execAbortRequest req s
  | .abortRegister group => Sys2Proof.Machine.execAbortRegister group s
  | .seamInvalidRequest req => Sys2Proof.Machine.execSeamInvalidRequest req s
  | .completionNotify group => Sys2Proof.Machine.execCompletionNotify group s
  | .workReadyNotify tag => Sys2Proof.Machine.execWorkReadyNotify tag s
  | .divertNotify group => Sys2Proof.Machine.execDivertNotify group s
  | .abortNotify group => Sys2Proof.Machine.execAbortNotify group s
  | .memReadBeat port beat => Sys2Proof.Machine.execMemReadBeat port beat s
  | .memUe port beat => Sys2Proof.Machine.execMemUe port beat s
  | .memWriteResponse port => Sys2Proof.Machine.execMemWriteResponse port s
  | .memWriteError port => Sys2Proof.Machine.execMemWriteError port s
  | .memRetry again => Sys2Proof.Machine.execMemRetry again s
  | .partRestart part value => Sys2Proof.Machine.execPartRestart part value s
  | .linkRetireForced port value => Sys2Proof.Machine.execLinkRetireForced port value s
  | .jrnConsumedWrite part value => Sys2Proof.Machine.execJrnConsumedWrite part value s
  | .shutdownRequest value => Sys2Proof.Machine.execShutdownRequest value s
  | .calSet value => Sys2Proof.Machine.execCalSet value s
  | .evtMapWrite line value => Sys2Proof.Machine.execEvtMapWrite line value s
  | .pwrTelemWrite value => Sys2Proof.Machine.execPwrTelemWrite value s
  | .w1cClear addr value setNow => Sys2Proof.Machine.execW1cClear addr value setNow s
  | .rcCounterRead addr add => Sys2Proof.Machine.execRcCounterRead addr add s
  | .splitLoRead addr => Sys2Proof.Machine.execSplitLoRead addr s
  | .registerWriteOther addr value => Sys2Proof.Machine.execRegisterWriteOther addr value s
  | .wsBypass => Sys2Proof.Machine.execWsBypass s
  | .wsExtest => Sys2Proof.Machine.execWsExtest s
  | .wsIntest => Sys2Proof.Machine.execWsIntest s
  | .selftestRun => Sys2Proof.Machine.execSelftestRun s
  | .scanAccess => Sys2Proof.Machine.execScanAccess s
  | .mbistAccess => Sys2Proof.Machine.execMbistAccess s
  | .nop group => Sys2Proof.Machine.execNop group s
  | .step group => Sys2Proof.Machine.execStep group s
  | .streamOpen group => Sys2Proof.Machine.execStreamOpen group s
  | .streamPause group => Sys2Proof.Machine.execStreamPause group s
  | .streamResume group => Sys2Proof.Machine.execStreamResume group s
  | .streamClose group => Sys2Proof.Machine.execStreamClose group s
  | .tableLoadLayer group => Sys2Proof.Machine.execTableLoadLayer group s
  | .tableLoadPlacement group => Sys2Proof.Machine.execTableLoadPlacement group s
  | .tableLoadProfile group => Sys2Proof.Machine.execTableLoadProfile group s
  | .tableLoadBias group => Sys2Proof.Machine.execTableLoadBias group s
  | .tableLoadHold group => Sys2Proof.Machine.execTableLoadHold group s
  | .park group => Sys2Proof.Machine.execPark group s
  | .parkComplete part => Sys2Proof.Machine.execParkComplete part s
  | .wakeCheckDone part layers => Sys2Proof.Machine.execWakeCheckDone part layers s
  | .replayNorm group => Sys2Proof.Machine.execReplayNorm group s
  | .replayScores group => Sys2Proof.Machine.execReplayScores group s
  | .replayTickets group => Sys2Proof.Machine.execReplayTickets group s
  | .replayPayload group => Sys2Proof.Machine.execReplayPayload group s
  | .replayCombine group => Sys2Proof.Machine.execReplayCombine group s
  | .replayReduce group => Sys2Proof.Machine.execReplayReduce group s
  | .readySend part => Sys2Proof.Machine.execReadySend part s
  | .ready msg => Sys2Proof.Machine.execReady msg s
  | .podReady msg => Sys2Proof.Machine.execPodReady msg s
  | .launch msg => Sys2Proof.Machine.execLaunch msg s
  | .stepLaunch part => Sys2Proof.Machine.execStepLaunch part s
  | .passStart part => Sys2Proof.Machine.execPassStart part s
  | .normalise part block => Sys2Proof.Machine.execNormalise part block s
  | .pressRunIssue part array block tile setNo seg => Sys2Proof.Machine.execPressRunIssue part array block tile setNo seg s
  | .pressRunEnd array errs => Sys2Proof.Machine.execPressRunEnd array errs s
  | .tileReduce part row tile => Sys2Proof.Machine.execTileReduce part row tile s
  | .softmaxMerge part row => Sys2Proof.Machine.execSoftmaxMerge part row s
  | .tokenSelect part row => Sys2Proof.Machine.execTokenSelect part row s
  | .admission part => Sys2Proof.Machine.execAdmission part s
  | .sortEnd part layer => Sys2Proof.Machine.execSortEnd part layer s
  | .microStepStart part layer => Sys2Proof.Machine.execMicroStepStart part layer s
  | .roster msg => Sys2Proof.Machine.execRoster msg s
  | .activeSetFixed part => Sys2Proof.Machine.execActiveSetFixed part s
  | .tally msg => Sys2Proof.Machine.execTally msg s
  | .tallyIn part layer micro => Sys2Proof.Machine.execTallyIn part layer micro s
  | .gwTally msg => Sys2Proof.Machine.execGwTally msg s
  | .grant msg => Sys2Proof.Machine.execGrant msg s
  | .gwCollect part layer micro src => Sys2Proof.Machine.execGwCollect part layer micro src s
  | .gwGrant msg => Sys2Proof.Machine.execGwGrant msg s
  | .pile msg => Sys2Proof.Machine.execPile msg s
  | .gwPile msg => Sys2Proof.Machine.execGwPile msg s
  | .pileIn part layer micro => Sys2Proof.Machine.execPileIn part layer micro s
  | .inputRunAlloc part layer micro => Sys2Proof.Machine.execInputRunAlloc part layer micro s
  | .returnPile msg => Sys2Proof.Machine.execReturnPile msg s
  | .gwReturn msg => Sys2Proof.Machine.execGwReturn msg s
  | .returnIn part layer micro => Sys2Proof.Machine.execReturnIn part layer micro s
  | .voidMsg msg => Sys2Proof.Machine.execVoidMsg msg s
  | .finalMsg msg => Sys2Proof.Machine.execFinalMsg msg s
  | .waitSend part layer micro handler => Sys2Proof.Machine.execWaitSend part layer micro handler s
  | .waitMsg msg => Sys2Proof.Machine.execWaitMsg msg s
  | .straggle msg => Sys2Proof.Machine.execStraggle msg s
  | .deadDeclare block => Sys2Proof.Machine.execDeadDeclare block s
  | .dead msg => Sys2Proof.Machine.execDead msg s
  | .withdraw msg => Sys2Proof.Machine.execWithdraw msg s
  | .biasCounts msg => Sys2Proof.Machine.execBiasCounts msg s
  | .biasTable msg => Sys2Proof.Machine.execBiasTable msg s
  | .linkMap msg => Sys2Proof.Machine.execLinkMap msg s
  | .railMap msg => Sys2Proof.Machine.execRailMap msg s
  | .portReportSend => Sys2Proof.Machine.execPortReportSend s
  | .portReport msg => Sys2Proof.Machine.execPortReport msg s
  | .cal msg => Sys2Proof.Machine.execCal msg s
  | .calSend => Sys2Proof.Machine.execCalSend s
  | .plan msg => Sys2Proof.Machine.execPlan msg s
  | .sharedTableWrite part layer => Sys2Proof.Machine.execSharedTableWrite part layer s
  | .foldCombine part layer row mismatch => Sys2Proof.Machine.execFoldCombine part layer row mismatch s
  | .passComplete part layer => Sys2Proof.Machine.execPassComplete part layer s
  | .stepComplete part => Sys2Proof.Machine.execStepComplete part s
  | .reductionStart part layer => Sys2Proof.Machine.execReductionStart part layer s
  | .nodeAdd part node chunk mismatch => Sys2Proof.Machine.execNodeAdd part node chunk mismatch s
  | .fdValue msg => Sys2Proof.Machine.execFdValue msg s
  | .fdResult msg => Sys2Proof.Machine.execFdResult msg s
  | .chunkSeal part chunk => Sys2Proof.Machine.execChunkSeal part chunk s
  | .fdAbort msg => Sys2Proof.Machine.execFdAbort msg s
  | .fdPoison msg => Sys2Proof.Machine.execFdPoison msg s
  | .sealAudit part => Sys2Proof.Machine.execSealAudit part s
  | .preemptRegister group => Sys2Proof.Machine.execPreemptRegister group s
  | .preemptSaveDone group => Sys2Proof.Machine.execPreemptSaveDone group s
  | .preemptRestore group => Sys2Proof.Machine.execPreemptRestore group s
  | .teardownFinish part => Sys2Proof.Machine.execTeardownFinish part s
  | .journalWrite part => Sys2Proof.Machine.execJournalWrite part s
  | .hamperAlloc reqs => Sys2Proof.Machine.execHamperAlloc reqs s
  | .hamperRelease buffer n => Sys2Proof.Machine.execHamperRelease buffer n s
  | .hamperAddRef buffer refs rest => Sys2Proof.Machine.execHamperAddRef buffer refs rest s
  | .dataFlitReceive chan flit => Sys2Proof.Machine.execDataFlitReceive chan flit s
  | .idleFlitReceive chan flit => Sys2Proof.Machine.execIdleFlitReceive chan flit s
  | .failedFlit port => Sys2Proof.Machine.execFailedFlit port s
  | .nackSend chan => Sys2Proof.Machine.execNackSend chan s
  | .nackTimeout chan seq => Sys2Proof.Machine.execNackTimeout chan seq s
  | .nack chan flit => Sys2Proof.Machine.execNack chan flit s
  | .resend chan => Sys2Proof.Machine.execResend chan s
  | .hello chan flit => Sys2Proof.Machine.execHello chan flit s
  | .time chan flit arrivalPs => Sys2Proof.Machine.execTime chan flit arrivalPs s
  | .count chan flit => Sys2Proof.Machine.execCount chan flit s
  | .probe chan flit roundTripPs => Sys2Proof.Machine.execProbe chan flit roundTripPs s
  | .retire chan flit => Sys2Proof.Machine.execRetire chan flit s
  | .relayReject chan flit => Sys2Proof.Machine.execRelayReject chan flit s
  | .relayForward msg => Sys2Proof.Machine.execRelayForward msg s
  | .phyAlign port => Sys2Proof.Machine.execPhyAlign port s
  | .trainBoundExpire port => Sys2Proof.Machine.execTrainBoundExpire port s
  | .retrainExpire port => Sys2Proof.Machine.execRetrainExpire port s
  | .portServiceStart port => Sys2Proof.Machine.execPortServiceStart port s
  | .uplinkIdleFrame chan => Sys2Proof.Machine.execUplinkIdleFrame chan s
  | .uplinkFrameLost port => Sys2Proof.Machine.execUplinkFrameLost port s
  | .uplinkShareRedivide port => Sys2Proof.Machine.execUplinkShareRedivide port s
  | .lkBucketLeak port => Sys2Proof.Machine.execLkBucketLeak port s
  | .prBucketLeak array => Sys2Proof.Machine.execPrBucketLeak array s
  | .fdBucketLeak cluster => Sys2Proof.Machine.execFdBucketLeak cluster s
  | .memBucketLeak port => Sys2Proof.Machine.execMemBucketLeak port s
  | .energyWindowClose ops => Sys2Proof.Machine.execEnergyWindowClose ops s
  | .drainEnd => Sys2Proof.Machine.execDrainEnd s
  | .selftestCheck cycles vddMv => Sys2Proof.Machine.execSelftestCheck cycles vddMv s
  | .logicTestEnd misr reinit => Sys2Proof.Machine.execLogicTestEnd misr reinit s
  | .memoryTestEnd bits => Sys2Proof.Machine.execMemoryTestEnd bits s
  | .resultWriteEnd ok => Sys2Proof.Machine.execResultWriteEnd ok s
  | .lintPart fail => Sys2Proof.Machine.execLintPart fail s
  | .logWrite => Sys2Proof.Machine.execLogWrite s
  | .calendarTick => Sys2Proof.Machine.execCalendarTick s
  | .alignmentLoss port => Sys2Proof.Machine.execAlignmentLoss port s
  | .helloSend chan => Sys2Proof.Machine.execHelloSend chan s
  | .seamCreditReturn gen2 response => Sys2Proof.Machine.execSeamCreditReturn gen2 response s
  | .memRequestAccepted port => Sys2Proof.Machine.execMemRequestAccepted port s
  | .alwaysOnSupplyLoss => Sys2Proof.Machine.execAlwaysOnSupplyLoss s
  | .alwaysOnSupplyUp => Sys2Proof.Machine.execAlwaysOnSupplyUp s

end Sys2Proof.Machine
end

