-- ==== Sys2Proof/Safety.lean ====
section
/-! DEFINITION. What a sound state of the block is: the canonical form of attached memory and of the register file, one
record per partition, group, port and key word, and the promises of the start sequence (R84, R89, R93, R95). A run is
safe while its states are sound; no command of the block faults or is refused. -/

namespace Sys2Proof.Machine

/-- Attached memory and the register file are in canonical form: keys strictly rising, no stored zero. -/
def State.canonical (s : State) : Prop := spWf s.mem = true ∧ spWf s.regs = true

/-- One record per partition (R124), group (R127), link port (R21) and key word (R84). -/
def State.shaped (s : State) : Prop :=
  s.parts.length = 8 ∧ s.groups.length = 64 ∧ s.link.ports.length = 36 ∧ s.boot.keys.length = 12

/-- The start sequence: LOCK is set exactly in RUNNING (R93), a wait at a state boundary stands before RUNNING (R94),
RESET holds while RST_N is low (R89), and a key word being programmed is still zero (R84). -/
def BootSt.started (b : BootSt) : Prop :=
  (b.lock = true ↔ b.state = 11)
    ∧ (∀ n, b.waiting = some n → b.state ≤ 10 ∧ 2 ≤ n ∧ n ≤ 11)
    ∧ (b.rstLow = true → b.state = 0 ∧ b.waiting = none)
    ∧ (∀ n w, b.keyBusy = some (n, w) → n < 12 ∧ b.keys.getD n 0 = 0)

/-- The start sequence of a state. -/
def State.started (s : State) : Prop := s.boot.started

/-- A sound state. -/
def State.sound (s : State) : Prop := s.canonical ∧ s.shaped ∧ s.started

/-- A step that answers a sound state. -/
def safeStep (s : State) : Prop := ∃ t, step s = .next t ∧ t.sound

/-- The command answers a next state of which `P` holds. -/
def answers (c : Instr) (s : State) (P : State → Prop) : Prop := ∃ t, exec c s = .next t ∧ P t

/-- The command whose descriptor is `d` has completed on group `g` (R129, R137): HEAD has advanced by one, no command
is running, and the 32 bytes of its completion record stand in memory. -/
def completed (s t : State) (g : Nat) (d : Bytes) (status fault : Nat) : Prop :=
  (t.group g).cur = none ∧ (t.group g).lastSeq = some (fld d 4 4) ∧ (t.group g).recBusy = true
    ∧ (t.group g).head = ((s.group g).head + 1) % 2 ^ 32
    ∧ ∀ a, s.tr (s.gPart g) (fld d 8 8) 32 4 = some a → t.rd a 32
      = toLE 4 (fld d 4 4) ++ toLE 1 status ++ toLE 1 fault ++ toLE 2 0 ++ toLE 8 0 ++ toLE 8 s.stitch.count
        ++ toLE 4 0xFFFFFFFF ++ zeros 4

/-- What `ops` asks to be read for the descriptor `d` at HEAD is here, the descriptor itself among it (R54, R56). -/
def fetched (s : State) (g : Nat) (d : Bytes) (ops : Nat → Bytes → State → List (Nat × Nat)) : Prop :=
  (s.group g).fetch ≠ 0 ∧ s.reading (.command g) = false ∧ s.toRead g ops d = []

/-- A descriptor `d` of opcode `opc` stands at the HEAD of a group that may take it, its header is sound, and what the command
reads is here (R56, R129, R133, R136). -/
def taken (s : State) (g : Nat) (d : Bytes) (opc : Nat) (ops : Nat → Bytes → State → List (Nat × Nat)) : Prop :=
  s.sound ∧ s.ready g = true ∧ s.headDesc g = some d ∧ s.headFault g d = 0 ∧ fld d 0 1 = opc ∧ headRsv d = true
    ∧ fetched s g d ops

/-- The one-beat response that a slot write meets on SEAM3_IP or SEAM2_IP (R42, R44). -/
def responseTo (r : SeamReq) (sts : Nat) : SeamRsp where
  gen2 := r.gen2
  sts := sts
  tag := r.tag
  dom := if r.gen2 then 0 else r.dom
  beats := 0
  data := zeros (beatBytes r.gen2)

/-- A slot write is answered: with no response before it and a credit in hand the response leaves at once, else it waits
behind the others (R43, R44). -/
def replied (s t : State) (r : SeamReq) (sts : Nat) : Prop :=
  s.seam.rspWait = [] →
    let credits := if r.gen2 then s.seam.crdIp2 else s.seam.crdIp
    (credits ≠ 0 → t.seam.rspWait = [] ∧ t.seam.rspSent = s.seam.rspSent ++ [responseTo r sts]
        ∧ t.seam.crdIp + t.seam.crdIp2 + 1 = s.seam.crdIp + s.seam.crdIp2)
      ∧ (credits = 0 → t.seam.rspWait = [responseTo r sts] ∧ t.seam.rspSent = s.seam.rspSent)

/-- Byte `a` of attached memory belongs to the memory pool: to one of its cells or link entries, or to those of a cell that
a chain holds (R170, R171). -/
def State.pooled (s : State) (a : Nat) : Prop :=
  let cells := fld (s.sect 5) 0 8
  let links := fld (s.sect 5) 16 8
  ∃ k, (k < s.poolCells true ∨ ∃ c ∈ s.hamper.chains, (true, k) ∈ c.cells)
    ∧ (cells + 4096 * k ≤ a ∧ a < cells + 4096 * k + 4096 ∨ links + 4 * k ≤ a ∧ a < links + 4 * k + 4)

/-- Attached memory is unchanged but in the memory pool. -/
def poolOnly (s t : State) : Prop := ∀ a, ¬ s.pooled a → spGet t.mem a = spGet s.mem a

/-- No register is changed but the count of releases that find a reference count at 0 (R177). -/
def refErrOnly (s t : State) : Prop := ∀ a, a ≠ rREF_ERR_CNT → t.reg a = s.reg a

/-- A message of a TYPE stands in the inbox for the member itself, and its head is sound (R294, R321). -/
def due (s : State) (m : Msg) (typ : Nat) : Prop :=
  s.holds m = true ∧ m.typ = typ ∧ m.dst = s.member ∧ s.headOk m = true

/-- Nothing of the block waits for the last read of an object but the command or the row that reads it (R53, R144, R166, R287,
R384). -/
def plainRead (o : MemObj) : Bool :=
  match o with
  | .expertOut _ _ _ _ => false
  | .saveArea _ => false
  | .operand _ _ => false
  | .target _ _ => false
  | .contrib _ _ => false
  | .record _ => false
  | _ => true

/-- The step and the pass that an exchange message of (step, layer) meets now (R333). -/
def meets (s : State) (p stepNo l : Nat) (x : StepSt) (q : Pass) : Prop :=
  s.sound ∧ p < 8 ∧ (s.part p).step = some x ∧ s.pass p l = some q ∧ q.layer = l ∧ s.xWhen p stepNo l = 2

/-- The reset part of the start sequence: RST_N asserted or the always-on supply lost. -/
def isReset (c : Instr) : Bool :=
  match c with
  | .rstNAssert => true
  | .alwaysOnSupplyLoss => true
  | _ => false

/-- The commands of the ports, the channels and the maps (R291 to R313). -/
def isLink (c : Instr) : Bool :=
  match c with
  | .count _ _ => true
  | .dataFlitReceive _ _ => true
  | .idleFlitReceive _ _ => true
  | .nack _ _ => true
  | .nackSend _ => true
  | .nackTimeout _ _ => true
  | .probe _ _ _ => true
  | .relayReject _ _ => true
  | .retire _ _ => true
  | .alignmentLoss _ => true
  | .failedFlit _ => true
  | .retrainExpire _ => true
  | .trainBoundExpire _ => true
  | .uplinkFrameLost _ => true
  | .hello _ _ => true
  | .time _ _ _ => true
  | .countFlitSend _ => true
  | .helloSend _ => true
  | .resend _ => true
  | .timeSend _ _ => true
  | .uplinkIdleFrame _ => true
  | .uplinkShareRedivide _ => true
  | .phyAlign _ => true
  | .lkBucketLeak _ => true
  | .portServiceStart _ => true
  | .relayForward _ => true
  | .linkMap _ => true
  | .railMap _ => true
  | .portReportSend => true
  | _ => false

/-- The link commands that only send or train (R300 to R312). -/
def isQuietLink (c : Instr) : Bool :=
  match c with
  | .nackSend _ => true
  | .countFlitSend _ => true
  | .helloSend _ => true
  | .resend _ => true
  | .timeSend _ _ => true
  | .uplinkIdleFrame _ => true
  | .uplinkShareRedivide _ => true
  | .phyAlign _ => true
  | .lkBucketLeak _ => true
  | .portServiceStart _ => true
  | .portReportSend => true
  | _ => false

/-- A partition without what its tallies hold of the lists that have come (R276, R330). -/
def linkView (y : Part) : Part :=
  { y with step := y.step.map (fun x => { x with passes := x.passes.map (fun q => { q with micros := [] }) }) }

/-- The commands of the start sequence before PARTITION_UP, the power pins, the stitch reference, the tests, the recorder
and the management registers that name no partition, group or port. -/
def isStart (c : Instr) : Bool :=
  match c with
  | .rstNDeassert _ _ _ _ => true
  | .copyReadDone _ _ _ => true
  | .clockCheck _ _ => true
  | .repair _ _ _ _ => true
  | .domainSwitchOn _ => true
  | .load _ _ => true
  | .linkTrainEnd _ => true
  | .headListenEnd => true
  | .lockAcquired => true
  | .stitchLockTimeout _ => true
  | .keyProgram _ => true
  | .keyProgramDone => true
  | .pwrAlert => true
  | .pwrAlertRelease _ => true
  | .thermTrip _ => true
  | .thermTripRelease => true
  | .stitchRefEdge _ => true
  | .stitchRefMiss => true
  | .lockLoss => true
  | .stitchSlip _ => true
  | .stitchRelaySwitch _ => true
  | .stitchDirectRestore => true
  | .drainEnd => true
  | .selftestCheck _ _ => true
  | .logicTestEnd _ _ => true
  | .memoryTestEnd _ => true
  | .resultWriteEnd _ => true
  | .wsBypass => true
  | .wsExtest => true
  | .wsIntest => true
  | .selftestRun => true
  | .scanAccess => true
  | .mbistAccess => true
  | .logWrite => true
  | .calendarTick => true
  | .cal _ => true
  | .calSet _ => true
  | .evtMapWrite _ _ => true
  | .rcCounterRead _ _ => true
  | .splitLoRead _ => true
  | .registerWriteOther _ _ => true
  | .pwrTelemWrite _ => true
  | .alwaysOnSupplyUp => true
  | .prBucketLeak _ => true
  | .memRequestAccepted _ => true
  | _ => false

/-- The partition of a command of a step in progress that makes no table and no result. -/
def stepPart (c : Instr) : Option Nat :=
  match c with
  | .readySend p => some p
  | .normalise p _ => some p
  | .tileReduce p _ _ => some p
  | .softmaxMerge p _ => some p
  | .tokenSelect p _ => some p
  | .microStepStart p _ => some p
  | .sortEnd p _ => some p
  | .activeSetFixed p => some p
  | .tallyIn p _ _ => some p
  | .gwCollect p _ _ _ => some p
  | .returnIn p _ _ => some p
  | .waitSend p _ _ _ => some p
  | .chunkSeal p _ => some p
  | .reductionStart p _ => some p
  | .holdClear p _ => some p
  | .roster m => some m.owner
  | .tally m => some m.owner
  | .gwTally m => some m.owner
  | .grant m => some m.owner
  | .gwGrant m => some m.owner
  | .pile m => some m.owner
  | .voidMsg m => some m.owner
  | .finalMsg m => some m.owner
  | _ => none

/-- The commands of a step that neither take a message nor ask for cells. -/
def isQuietStep (c : Instr) : Bool :=
  match c with
  | .readySend _ => true
  | .normalise _ _ => true
  | .tileReduce _ _ _ => true
  | .softmaxMerge _ _ => true
  | .tokenSelect _ _ => true
  | .activeSetFixed _ => true
  | .tallyIn _ _ _ => true
  | .gwCollect _ _ _ _ => true
  | .returnIn _ _ _ => true
  | .waitSend _ _ _ _ => true
  | .chunkSeal _ _ => true
  | .reductionStart _ _ => true
  | .holdClear _ _ => true
  | _ => false

/-- The commands that may work on the rows of a batch command (R227, R397). -/
def worksRows (c : Instr) : Bool :=
  match c with
  | .normalise _ _ => true
  | .tileReduce _ _ _ => true
  | .softmaxMerge _ _ => true
  | _ => false

/-- The group of a NOP, a STREAM_CTL or a PARK. -/
def queueGroup (c : Instr) : Option Nat :=
  match c with
  | .nop g => some g
  | .streamOpen g => some g
  | .streamPause g => some g
  | .streamResume g => some g
  | .streamClose g => some g
  | .park g => some g
  | _ => none

/-- A byte that the command at the HEAD of a group does not store to: it lies outside the completion record (R129) and,
for a STREAM_CTL, outside the context at CTX_ADDR (R135). -/
def untouched (s : State) (g a : Nat) : Prop :=
  ∀ d b, s.headDesc g = some d →
    (s.tr (s.gPart g) (fld d 8 8) 32 4 = some b → a < b ∨ b + 32 ≤ a)
      ∧ (fld d 0 1 = 2 → s.tr (s.gPart g) (fld d 24 8) 64 4 = some b → a < b ∨ b + 64 ≤ a)

end Sys2Proof.Machine
end

