-- ==== Sys2Proof/WellFormed.lean ====
section
/-! DEFINITION. Well-formed commands: operands that the ports and units of the block can carry. A unit, partition, group,
layer, port or member number lies in its range (R20, R21, R112, R124, R127); a flit is 512 bytes (R291); a message
head holds what its fields can hold (R294); an attach-port request fits its header and slots (R42, R45); a register
access is aligned and within 24 address bits (R66). -/

namespace Sys2Proof

/-- A partition number. -/
def partOk (p : Nat) : Bool := decide (p < 8)
/-- A group number. -/
def groupOk (g : Nat) : Bool := decide (g < 64)
/-- A layer number. -/
def layerOk (l : Nat) : Bool := decide (l < 256)
/-- A link port number. -/
def portOk (p : Nat) : Bool := decide (p < 36)
/-- A memory port number. -/
def memPortOk (p : Nat) : Bool := decide (p < 12)
/-- A Press array number. -/
def arrayOk (a : Nat) : Bool := decide (a < 32)
/-- A cluster number. -/
def clusterOk (c : Nat) : Bool := decide (c < 4)
/-- A power domain number. -/
def domOk (d : Nat) : Bool := decide (d < 48)
/-- A block number within a pod. -/
def blockOk (b : Nat) : Bool := decide (b < 32)
/-- A logical member number. -/
def memberOk (m : Nat) : Bool := decide (m < 512)
/-- An event line. -/
def lineOk (n : Nat) : Bool := decide (n < 4)
/-- A channel: an intra-pod port, a rail channel or a manager channel. -/
def chanOk (c : Nat) : Bool := decide (c < 31) || (decide (64 ≤ c) && decide (c < 80)) || (decide (96 ≤ c) && decide (c < 112))
/-- A handler code of R326. -/
def handlerOk (h : Nat) : Bool := decide (h < 12)
/-- How often the residue of a row or a node fails: never, once, twice (R354). -/
def mismatchOk (m : Nat) : Bool := decide (m ≤ 2)
/-- A node of the reduction tree (R360). -/
def nodeOk (n : Nat) : Bool := decide (1 ≤ n) && decide (n < 1024)
/-- A work-table tag (R285). -/
def tagOk (t : Nat) : Bool := decide (1 ≤ t) && decide (t < 2 ^ 32)
/-- A flit sequence number. -/
def seqOk (q : Nat) : Bool := decide (q < 2 ^ 16)
/-- An aligned register address of 24 bits. -/
def regAddrOk (a : Nat) : Bool := decide (a < 2 ^ 24) && a % 4 == 0
/-- A flit of 512 bytes. -/
def flitOk (f : Bytes) : Bool := f.length == 512
/-- A flit that arrives within its stitch. -/
def rxFlitOk (f : RxFlit) : Bool := flitOk f.bytes && decide (f.ps < 656000)
/-- An image header of 512 bytes. -/
def hdrOk (h : Bytes) : Bool := h.length == 512

/-- A write to one of `n` slots: domain 0 to 7, an 8-bit tag, the eight used bytes. -/
def seamOk (n : Nat) (r : SeamReq) : Bool :=
  decide (r.dom < 8) && decide (r.tag < 256) && decide (r.slot < n) && r.data.length == 8

/-- A request header of R42: the address is 64 B aligned. -/
def rawOk (r : SeamRaw) : Bool :=
  decide (r.opc < 16) && decide (r.dom < 8) && decide (r.tag < 256) && decide (r.beats < 4)
    && decide (r.addr < 2 ^ 64) && r.addr % 64 == 0

/-- A complete message: head fields in their widths and a body of LENGTH bytes. -/
def msgOk (m : Msg) : Bool :=
  chanOk m.chan && decide (m.owner < 9) && decide (1 ≤ m.typ) && decide (m.typ < 256) && decide (m.flags < 256)
    && decide (m.src < 2 ^ 16) && decide (m.dst < 2 ^ 16) && decide (m.trigger < 2 ^ 16) && decide (m.msgNo < 2 ^ 32)
    && decide (1 ≤ m.length) && decide (m.length < 2 ^ 32) && m.body.length == m.length

/-- A cell request: an owner group, at least one cell and one consumer. -/
def cellReqOk (r : CellReq) : Bool := decide (r.owner < 16) && decide (1 ≤ r.cells) && decide (1 ≤ r.refs)

/-- A cell of an array (R183). -/
def cellErrOk (e : CellErr) : Bool := decide (e.row < 8) && decide (e.col < 128)

/-- A bit of a macro, spare rows and columns included (R442). -/
def badBitOk (b : BadBit) : Bool := decide (b.macroNo < 1280) && decide (b.row < 1028) && decide (b.bit < 514)

/-- The well-formed commands. -/
def wellFormed (i : Instr) : Bool :=
  match i with
  | .rstNAssert => true
  | .rstNDeassert _ hdrA hdrB _ => hdrOk hdrA && hdrOk hdrB
  | .copyReadDone _ _ _ => true
  | .clockCheck _ _ => true
  | .repair _ _ _ _ => true
  | .domainSwitchOn dom => domOk dom
  | .load _ _ => true
  | .linkTrainEnd _ => true
  | .headListenEnd => true
  | .lockAcquired => true
  | .stitchLockTimeout _ => true
  | .partitionUp _ => true
  | .keyProgram _ => true
  | .keyProgramDone => true
  | .pwrAlert => true
  | .pwrAlertRelease _ => true
  | .thermTrip _ => true
  | .thermTripRelease => true
  | .stitchRefEdge _ => true
  | .stitchRefMiss => true
  | .stitchBoundary runs others => runs.length == 4 && others.length == 4
  | .lockLoss => true
  | .stitchSlip n => decide (n < 2 ^ 64)
  | .stitchRelaySwitch lockedDirect => lockedDirect.all blockOk
  | .stitchDirectRestore => true
  | .countFlitSend port => portOk port
  | .timeSend chan _ => chanOk chan
  | .ringDoorbell req => seamOk 64 req
  | .layerDoorbell req => seamOk 64 req
  | .engineCompletion req => seamOk 64 req
  | .weightWriteRelease req => seamOk 8 req
  | .holdClear part layer => partOk part && layerOk layer
  | .abortRequest req => seamOk 64 req
  | .abortRegister group => groupOk group
  | .seamInvalidRequest req => rawOk req
  | .completionNotify group => groupOk group
  | .workReadyNotify tag => tagOk tag
  | .divertNotify group => groupOk group
  | .abortNotify group => groupOk group
  | .memReadBeat port beat => memPortOk port && decide (beat.valid < 256)
  | .memUe port _ => memPortOk port
  | .memWriteResponse port => memPortOk port
  | .memWriteError port => memPortOk port
  | .memRetry _ => true
  | .partRestart part _ => partOk part
  | .linkRetireForced port _ => portOk port
  | .jrnConsumedWrite part _ => partOk part
  | .shutdownRequest _ => true
  | .calSet _ => true
  | .evtMapWrite line _ => lineOk line
  | .pwrTelemWrite _ => true
  | .w1cClear addr _ _ => regAddrOk addr
  | .rcCounterRead addr _ => regAddrOk addr
  | .splitLoRead addr => regAddrOk addr
  | .registerWriteOther addr _ => regAddrOk addr
  | .wsBypass => true
  | .wsExtest => true
  | .wsIntest => true
  | .selftestRun => true
  | .scanAccess => true
  | .mbistAccess => true
  | .nop group => groupOk group
  | .step group => groupOk group
  | .streamOpen group => groupOk group
  | .streamPause group => groupOk group
  | .streamResume group => groupOk group
  | .streamClose group => groupOk group
  | .tableLoadLayer group => groupOk group
  | .tableLoadPlacement group => groupOk group
  | .tableLoadProfile group => groupOk group
  | .tableLoadBias group => groupOk group
  | .tableLoadHold group => groupOk group
  | .park group => groupOk group
  | .parkComplete part => partOk part
  | .wakeCheckDone part layers => partOk part && decide (layers ≤ 256)
  | .replayNorm group => groupOk group
  | .replayScores group => groupOk group
  | .replayTickets group => groupOk group
  | .replayPayload group => groupOk group
  | .replayCombine group => groupOk group
  | .replayReduce group => groupOk group
  | .readySend part => partOk part
  | .ready msg => msgOk msg
  | .podReady msg => msgOk msg
  | .launch msg => msgOk msg
  | .stepLaunch part => partOk part
  | .passStart part => partOk part
  | .normalise part _ => partOk part
  | .pressRunIssue part array _ tile _ _ => partOk part && arrayOk array && decide (tile < 16)
  | .pressRunEnd array errs => arrayOk array && errs.all cellErrOk
  | .tileReduce part _ _ => partOk part
  | .softmaxMerge part _ => partOk part
  | .tokenSelect part _ => partOk part
  | .admission part => partOk part
  | .sortEnd part layer => partOk part && layerOk layer
  | .microStepStart part layer => partOk part && layerOk layer
  | .roster msg => msgOk msg
  | .activeSetFixed part => partOk part
  | .tally msg => msgOk msg
  | .tallyIn part layer _ => partOk part && layerOk layer
  | .gwTally msg => msgOk msg
  | .grant msg => msgOk msg
  | .gwCollect part layer _ src => partOk part && layerOk layer && memberOk src
  | .gwGrant msg => msgOk msg
  | .pile msg => msgOk msg
  | .gwPile msg => msgOk msg
  | .pileIn part layer _ => partOk part && layerOk layer
  | .inputRunAlloc part layer _ => partOk part && layerOk layer
  | .returnPile msg => msgOk msg
  | .gwReturn msg => msgOk msg
  | .returnIn part layer _ => partOk part && layerOk layer
  | .voidMsg msg => msgOk msg
  | .finalMsg msg => msgOk msg
  | .waitSend part layer _ handler => partOk part && layerOk layer && handlerOk handler
  | .waitMsg msg => msgOk msg
  | .straggle msg => msgOk msg
  | .deadDeclare block => blockOk block
  | .dead msg => msgOk msg
  | .withdraw msg => msgOk msg
  | .biasCounts msg => msgOk msg
  | .biasTable msg => msgOk msg
  | .linkMap msg => msgOk msg
  | .railMap msg => msgOk msg
  | .portReportSend => true
  | .portReport msg => msgOk msg
  | .cal msg => msgOk msg
  | .calSend => true
  | .plan msg => msgOk msg
  | .sharedTableWrite part layer => partOk part && layerOk layer
  | .foldCombine part layer _ mismatch => partOk part && layerOk layer && mismatchOk mismatch
  | .passComplete part layer => partOk part && layerOk layer
  | .stepComplete part => partOk part
  | .reductionStart part layer => partOk part && layerOk layer
  | .nodeAdd part node _ mismatch => partOk part && nodeOk node && mismatchOk mismatch
  | .fdValue msg => msgOk msg
  | .fdResult msg => msgOk msg
  | .chunkSeal part _ => partOk part
  | .fdAbort msg => msgOk msg
  | .fdPoison msg => msgOk msg
  | .sealAudit part => partOk part
  | .preemptRegister group => groupOk group
  | .preemptSaveDone group => groupOk group
  | .preemptRestore group => groupOk group
  | .teardownFinish part => partOk part
  | .journalWrite part => partOk part
  | .hamperAlloc reqs => reqs.all cellReqOk
  | .hamperRelease _ n => decide (1 ≤ n)
  | .hamperAddRef _ refs rest => !refs.isEmpty && refs.all (fun k => decide (1 ≤ k)) && cellReqOk rest.copy
  | .dataFlitReceive chan flit => chanOk chan && rxFlitOk flit
  | .idleFlitReceive chan flit => chanOk chan && rxFlitOk flit
  | .failedFlit port => portOk port
  | .nackSend chan => chanOk chan
  | .nackTimeout chan seq => chanOk chan && seqOk seq
  | .nack chan flit => chanOk chan && flitOk flit
  | .resend chan => chanOk chan
  | .hello chan flit => chanOk chan && flitOk flit
  | .time chan flit _ => chanOk chan && flitOk flit
  | .count chan flit => chanOk chan && flitOk flit
  | .probe chan flit _ => chanOk chan && flitOk flit
  | .retire chan flit => chanOk chan && flitOk flit
  | .relayReject chan flit => chanOk chan && flitOk flit
  | .relayForward msg => msgOk msg
  | .phyAlign port => portOk port
  | .trainBoundExpire port => portOk port
  | .retrainExpire port => portOk port
  | .portServiceStart port => portOk port
  | .uplinkIdleFrame chan => chanOk chan
  | .uplinkFrameLost port => portOk port
  | .uplinkShareRedivide port => portOk port
  | .lkBucketLeak port => portOk port
  | .prBucketLeak array => arrayOk array
  | .fdBucketLeak cluster => clusterOk cluster
  | .memBucketLeak port => memPortOk port
  | .energyWindowClose _ => true
  | .drainEnd => true
  | .selftestCheck _ _ => true
  | .logicTestEnd _ _ => true
  | .memoryTestEnd bits => bits.all badBitOk
  | .resultWriteEnd _ => true
  | .lintPart _ => true
  | .logWrite => true
  | .calendarTick => true
  | .alignmentLoss port => portOk port
  | .helloSend chan => chanOk chan
  | .seamCreditReturn _ _ => true
  | .memRequestAccepted port => memPortOk port
  | .alwaysOnSupplyLoss => true
  | .alwaysOnSupplyUp => true

end Sys2Proof
end

