-- ==== Sys2Proof/Certificates/Slice0/Obligations.lean ====
section
/-! DEFINITION. The statements about the block, from the rules of the specification: what a step is, what the start
sequence promises, that every command completes and with which effect, and what each kind of command leaves alone. -/

open Sys2Proof Sys2Proof.Machine

/-! ### The step -/

/-- A step takes the command at the front of the queue and answers what the command answers on the rest of the queue. The
model's choice (log entry 3): with no command waiting the block stays as it is. -/
def Obligations.StepTakesFront : Prop :=
  (∀ (c : Instr) (rest : List Instr) (s : State), s.pending = c :: rest → step s = exec c { s with pending := rest })
    ∧ (∀ s : State, s.pending = [] → step s = .next s)

/-- The state after reset is sound. -/
def Obligations.ResetSound : Prop := State.reset.sound ∧ State.reset.boot.rstLow = true ∧ State.reset.boot.state = 0

/-- The headline: a step from any sound state answers a sound state. Memory and registers keep their canonical form,
every partition, group, port and key word keeps its record, LOCK is set exactly in RUNNING, a wait at a boundary
stands before RUNNING, RESET holds under RST_N, and a key word being programmed is still zero. -/
def Obligations.StepKeepsSound : Prop := ∀ s : State, s.sound → safeStep s

/-- No command touches the queue, and every command answers a next state. -/
def Obligations.ExecKeepsQueue : Prop := ∀ (c : Instr) (s : State), ∃ t, exec c s = .next t ∧ t.pending = s.pending

/-- The configuration is fixed once loaded: only LOAD and a reset change the image in force; and only the commands of the
start sequence, the entry of RUNNING, the energy window that ends CALIBRATE and a reset change the start state. -/
def Obligations.ImageStays : Prop :=
  (∀ (c : Instr) (s t : State), isReset c = false → (∀ img us, c ≠ .load img us) → exec c s = .next t → t.img = s.img)
    ∧ (∀ (c : Instr) (s t : State), isReset c = false → isStart c = false → (∀ us, c ≠ .partitionUp us) →
      (∀ ops, c ≠ .energyWindowClose ops) → exec c s = .next t → t.boot = s.boot)

/-- R95: a refused start stays refused, with its code, under every command but a reset. R84: a key word that holds a value
is never programmed again, by any command and across every reset. -/
def Obligations.RefusedStays : Prop :=
  (∀ (c : Instr) (s t : State), s.sound → isReset c = false → s.boot.state = 15 → exec c s = .next t →
      t.boot.state = 15 ∧ t.boot.code = s.boot.code)
    ∧ (∀ (c : Instr) (s t : State) (n : Nat), s.sound → s.boot.keys.getD n 0 ≠ 0 → exec c s = .next t →
      t.boot.keys.getD n 0 = s.boot.keys.getD n 0)

/-! ### Reset and the start sequence -/

/-- An assertion of RST_N (R39) answers the state after reset, but for the recorder's lifetime counters and calendar, which
survive it, and for what no reset of the block reaches: the queue, the key store, attached memory and the levels at the
power pins (log entry 114). While RST_N is low it changes nothing. The loss of the always-on supply loses the counters and
the calendar too, and its return starts them at zero; a return of a supply that is present changes nothing. -/
def Obligations.ResetCompletes : Prop :=
  (∀ s : State, s.boot.rstLow = false → answers .rstNAssert s (fun t =>
      t = { State.reset with
          pending := s.pending, free := s.free, mem := s.mem, recd := t.recd
          boot := { resetBoot with keys := s.boot.keys }
          power := { resetPower with alertLow := s.power.alertLow, thermLow := s.power.thermLow } }
        ∧ t.recd.startCnt = s.recd.startCnt ∧ t.recd.lifeSec = s.recd.lifeSec ∧ t.recd.calendar = s.recd.calendar
        ∧ t.recd.calSrc = s.recd.calSrc ∧ t.recd.linkErr = s.recd.linkErr ∧ t.recd.linkRt = s.recd.linkRt
        ∧ t.recd.linkRet = s.recd.linkRet ∧ t.recd.arrMis = s.recd.arrMis ∧ t.recd.arrLint = s.recd.arrLint
        ∧ t.recd.energyUj = s.recd.energyUj ∧ t.recd.steps = s.recd.steps ∧ t.recd.selftests = s.recd.selftests
        ∧ t.recd.lintFails = s.recd.lintFails ∧ t.recd.uptime = 0))
    ∧ (∀ s : State, s.boot.rstLow = true → answers .rstNAssert s (fun t => t = s))
    ∧ (∀ s : State, answers .alwaysOnSupplyLoss s (fun t =>
      t = { State.reset with
        pending := s.pending, free := s.free, mem := s.mem
        boot := { resetBoot with keys := s.boot.keys }, recd := { resetRec with present := false } }))
    ∧ (∀ s : State, (s.recd.present = false → answers .alwaysOnSupplyUp s (fun t => t = { s with recd := resetRec }))
      ∧ (s.recd.present = true → answers .alwaysOnSupplyUp s (fun t => t = s)))

/-- The start begins at the rise of RST_N in FLASH_READ: the flash is reset, the SFDP area and both headers are read (R62,
R63, R89), unless an unfused key store (R84) or a low THERM_TRIP_N (R94) refuses it first. A copy's read, in the mode of
the moment, gives its reason code (R85, R86). With both read the valid copy beside one that is not is taken with
COPY_REJECTED; of two valid ones that of the higher generation; equal generations with different hashes refuse the start
with CONFIG_CONFLICT (R87). -/
def Obligations.StartBegins : Prop :=
  (∀ (s : State) (x : SfdpRead) (a b : Bytes) (us : Nat), s.boot.rstLow = true → s.recd.present = true →
      s.power.thermLow = false → s.boot.keys.all (· == 0) = false → answers (.rstNDeassert x a b us) s (fun t =>
        t.boot.state = 1 ∧ t.boot.rstLow = false ∧ t.boot.sfdp = parseSfdp x ∧ t.boot.hdrA = a.take 512
          ∧ t.boot.hdrB = b.take 512 ∧ t.boot.keys = s.boot.keys
          ∧ t.boot.xfers = .reset 10 :: sfdpXfers x ++ [.single 0 512, .single 0x2000000 512]
          ∧ t.mem = s.mem ∧ t.regs = (s.domainsOff (List.range 46)).regs ∧ t.parts = s.parts))
    ∧ (∀ (s : State) (x : SfdpRead) (a b : Bytes) (us : Nat), s.boot.rstLow = true → s.recd.present = true →
      s.boot.keys.all (· == 0) = true → answers (.rstNDeassert x a b us) s (fun t =>
        t.boot.state = 15 ∧ t.boot.code = 3 ∧ t.boot.startUs = us ∧ t.boot.keys = s.boot.keys))
    ∧ (∀ (s : State) (x : SfdpRead) (a b : Bytes) (us : Nat), s.boot.rstLow = true → s.recd.present = true →
      s.power.thermLow = true → s.boot.keys.all (· == 0) = false → answers (.rstNDeassert x a b us) s (fun t =>
        t.boot.state = 15 ∧ t.boot.code = 13 ∧ t.boot.startUs = us))
    ∧ (∀ (s : State) (img : Bytes) (us : Nat), s.boot.rstLow = false → s.boot.state = 1 → s.boot.waiting = none →
      s.boot.reasonA = 15 → s.boot.reasonB = 15 → answers (.copyReadDone .a img us) s (fun t =>
        t = { s with boot := { s.boot with
          hdrA := img.take 512, imgA := img, reasonA := copyReason s.boot.keys img, againA := false
          xfers := s.boot.xfers ++ [if s.boot.octalMode then .octal 0 img.length else .single 0 img.length] } }))
    ∧ (∀ (s : State) (img : Bytes) (us : Nat), s.boot.rstLow = false → s.boot.state = 1 → s.boot.waiting = none →
      s.power.alertLow = false → s.boot.reasonA = 0 → s.boot.reasonB = 15 → s.boot.againA = false →
      s.boot.againB = false → answers (.copyReadDone .b img us) s (fun t =>
        (copyReason s.boot.keys img ≠ 0 → t.boot.copySel = some .a ∧ t.boot.copyRej = true
            ∧ t.boot.imgHash = imgHashOf s.boot.imgA ∧ t.recd.rejected = true)
          ∧ (copyReason s.boot.keys img = 0 →
            (fld s.boot.imgA 8 4 < fld img 8 4 → t.boot.copySel = some .b ∧ t.boot.copyRej = false
                ∧ t.boot.imgHash = imgHashOf img)
              ∧ (fld img 8 4 < fld s.boot.imgA 8 4 → t.boot.copySel = some .a ∧ t.boot.copyRej = false
                ∧ t.boot.imgHash = imgHashOf s.boot.imgA)
              ∧ (fld img 8 4 = fld s.boot.imgA 8 4 → imgHashOf s.boot.imgA ≠ imgHashOf img →
                t.boot.state = 15 ∧ t.boot.code = 2 ∧ t.boot.startUs = us))))
    ∧ (∀ (s : State) (us : Nat), s.boot.reasonA = 0 → s.boot.reasonB = 0 →
      (fld s.boot.imgA 8 4 < fld s.boot.imgB 8 4 → (s.selectCopy us).boot.copySel = some .b
          ∧ (s.selectCopy us).boot.copyRej = false ∧ (s.selectCopy us).boot.imgHash = imgHashOf s.boot.imgB)
        ∧ (fld s.boot.imgB 8 4 < fld s.boot.imgA 8 4 → (s.selectCopy us).boot.copySel = some .a
          ∧ (s.selectCopy us).boot.copyRej = false ∧ (s.selectCopy us).boot.imgHash = imgHashOf s.boot.imgA)
        ∧ (fld s.boot.imgA 8 4 = fld s.boot.imgB 8 4 → imgHashOf s.boot.imgA ≠ imgHashOf s.boot.imgB →
          (s.selectCopy us).boot.state = 15 ∧ (s.selectCopy us).boot.code = 2))

/-- CLOCK_CHECK within 0.5 % of the named setting goes to REPAIR and outside refuses the start (R37); REPAIR without a
record goes to UNIT_INIT with every array, Fold unit, memory port and every link port that is not absent usable (R90, R91); a domain that completes its ramp is on (R429). R88, R92,
R93: a second read with the verified hash and sound sections is loaded; a different hash refuses with
READBACK_MISMATCH and loads nothing; training ends at its bound; the head manager takes the highest count it heard;
1,000 stitches in tolerance lock; no lock within its bound refuses; RUNNING sets the lock. -/
def Obligations.StartStatesComplete : Prop :=
  (∀ (s : State) (cycles us : Nat), s.boot.rstLow = false → s.boot.state = 3 → s.boot.waiting = none →
      let nom := 10000 + 1000 * fld (selHdr s.boot) 0x14 1
      (s.power.alertLow = false → 995 * nom ≤ 1000 * cycles → 1000 * cycles ≤ 1005 * nom →
          answers (.clockCheck cycles us) s (fun t => t.boot.state = 4 ∧ t.mem = s.mem ∧ t.parts = s.parts))
        ∧ (1000 * cycles < 995 * nom ∨ 1005 * nom < 1000 * cycles →
          answers (.clockCheck cycles us) s (fun t => t.boot.state = 15 ∧ t.boot.code = 5)))
    ∧ (∀ (s : State) (page : Byte) (logs : List Bytes) (us : Nat), s.boot.rstLow = false → s.boot.state = 4 →
      s.boot.waiting = none → s.power.alertLow = false → answers (.repair none page logs us) s (fun t =>
        t.boot.state = 5 ∧ t.boot.noRecord = true ∧ t.boot.stale = false ∧ t.units.arrays = 2 ^ 32 - 1
          ∧ t.units.folds = 15 ∧ t.units.memPorts = 4095
          ∧ t.units.links = maskOf 36 (fun p => !portAbsent (selHdr s.boot) p) ∧ t.power.ramps.take 5 = [32, 33, 34, 35, 40]))
    ∧ (∀ (s : State) (dom d : Nat) (rest : List Nat), s.boot.rstLow = false → s.power.rampOn = true →
      s.power.ramps = dom :: d :: rest → answers (.domainSwitchOn dom) s (fun t =>
        t.power.domOn = s.power.domOn ||| 2 ^ dom ∧ t.power.ramps = d :: rest ∧ t.boot = s.boot ∧ t.mem = s.mem
          ∧ t.regs = s.regs))
    ∧ (∀ (s : State) (img : Bytes) (us : Nat), s.boot.rstLow = false → s.boot.state = 6 → s.boot.waiting = none →
      (imgHashOf img ≠ s.boot.imgHash → answers (.load img us) s (fun t =>
          t.boot.state = 15 ∧ t.boot.code = 4 ∧ t.img = s.img))
        ∧ (imgHashOf img = s.boot.imgHash → s.power.alertLow = false → s.seam.rspWait = [] →
          firstBadSection { hdr := img.take 512, sections := sectionsOf img } = none →
          answers (.load img us) s (fun t => t.boot.state = 7 ∧ t.img.hdr = img.take 512
            ∧ t.img.sections = sectionsOf img ∧ t.seam.crdIp = fld (img.take 512) 0x30 1)))
    ∧ (∀ s : State, s.boot.rstLow = false → s.power.alertLow = false →
      (s.boot.state = 8 → s.boot.waiting = none → answers (.linkTrainEnd true) s (fun t =>
          t.boot.state = 9 ∧ t.stitch.state = 0 ∧ t.link = s.link))
        ∧ (s.boot.state = 9 → s.boot.waiting = none → s.headMgr = true → s.stitch.state = 0 → answers .headListenEnd s (fun t =>
          t.boot.state = 10 ∧ t.stitch.state = 3 ∧ t.stitch.count = s.stitch.heard.getD 0))
        ∧ (s.boot.state = 9 → s.headMgr = false → s.stitch.state = 0 → 1000 ≤ s.stitch.lockRun →
          answers .lockAcquired s (fun t => t.boot.state = 10 ∧ t.stitch.state = 1 ∧ t.stitch.count = s.stitch.count)))
    ∧ (∀ (s : State) (us : Nat), s.boot.rstLow = false → s.boot.state = 9 → s.boot.waiting = none → s.headMgr = false →
      s.stitch.state ≠ 1 → answers (.stitchLockTimeout us) s (fun t => t.boot.state = 15 ∧ t.boot.code = 12))
    ∧ (∀ (s : State) (us : Nat), s.boot.rstLow = false → s.boot.state = 10 → s.boot.waiting = none →
      s.power.alertLow = false → answers (.partitionUp us) s (fun t =>
        t.boot.state = 11 ∧ t.boot.lock = true ∧ t.boot.startUs = us ∧ t.recd.uptime = 0 ∧ t.img = s.img))

/-- R84: GO in the REFUSED state of an unfused start begins the programming of a zero word, and its end stores the
word; any other GO sets ERR and programs nothing. -/
def Obligations.KeyStoreCompletes : Prop :=
  (∀ (s : State) (v : Word), s.boot.rstLow = false → bit v.toNat 8 = true →
      (s.boot.state = 15 → s.boot.code = 3 → s.boot.keyBusy = none → v.toNat % 16 < 12 →
          s.boot.keys.getD (v.toNat % 16) 0 = 0 → answers (.keyProgram v) s (fun t =>
            t.boot.keyBusy = some (v.toNat % 16, s.boot.keyData) ∧ t.boot.keyWord = v.toNat % 16
              ∧ t.boot.keys = s.boot.keys))
        ∧ (s.boot.state ≠ 15 ∨ s.boot.code ≠ 3 ∨ s.boot.keyBusy ≠ none ∨ 12 ≤ v.toNat % 16
            ∨ s.boot.keys.getD (v.toNat % 16) 0 ≠ 0 → answers (.keyProgram v) s (fun t =>
              t.boot.keyErr = true ∧ t.boot.keyBusy = s.boot.keyBusy ∧ t.boot.keys = s.boot.keys)))
    ∧ (∀ (s : State) (n : Nat) (w : Word), s.boot.keyBusy = some (n, w) → answers .keyProgramDone s (fun t =>
      t.boot.keyBusy = none ∧ (n < s.boot.keys.length → t.boot.keys.getD n 0 = w)
        ∧ (∀ k, k ≠ n → t.boot.keys.getD k 0 = s.boot.keys.getD k 0)))

/-! ### Power pins -/

/-- R94, R438, R439: PWR_ALERT_N and THERM_TRIP_N recognised low are counted and shown; a trip during start refuses it
with THERMAL; a release lets a start that waits go on. -/
def Obligations.PowerPinsComplete : Prop :=
  (∀ s : State, s.boot.rstLow = false → s.power.alertLow = false → spWf s.regs = true →
      s.powered rPWR_ALERT_CNT = true → answers .pwrAlert s (fun t => t.power.alertLow = true
        ∧ t.reg rPWR_ALERT_CNT = satAdd (s.reg rPWR_ALERT_CNT) 1 ∧ t.boot = s.boot ∧ t.mem = s.mem))
    ∧ (∀ (s : State) (us : Nat), s.power.alertLow = true →
      (s.boot.waiting = none → answers (.pwrAlertRelease us) s (fun t =>
          t.power.alertLow = false ∧ t.boot = s.boot ∧ t.mem = s.mem ∧ t.regs = s.regs))
        ∧ (s.boot.waiting = some 8 → answers (.pwrAlertRelease us) s (fun t =>
          t.power.alertLow = false ∧ t.boot.state = 8 ∧ t.boot.waiting = none)))
    ∧ (∀ (s : State) (us : Nat), s.boot.rstLow = false → s.power.thermLow = false →
      (s.boot.state = 11 → spWf s.regs = true → s.powered rTHERM_CNT = true → answers (.thermTrip us) s (fun t =>
          t.power.thermLow = true ∧ t.reg rTHERM_CNT = satAdd (s.reg rTHERM_CNT) 1 ∧ t.boot = s.boot))
        ∧ (1 ≤ s.boot.state → s.boot.state ≤ 10 → answers (.thermTrip us) s (fun t =>
          t.power.thermLow = true ∧ t.boot.state = 15 ∧ t.boot.code = 13)))
    ∧ (∀ s : State, s.power.thermLow = true → answers .thermTripRelease s (fun t =>
      t.power.thermLow = false ∧ t.boot = s.boot ∧ t.mem = s.mem ∧ t.regs = s.regs))

/-! ### Managers -/

/-- R308, R320, R340, R437, R461: a PLAN that changes F sets it and PWR_EVT.PLAN, CAL and CAL_SET reach the members, the maps are taken as sent, a port
report is sent and enters the manager's rows. R244: a pod manager keeps the counts of a window until every member's
are here; a BIAS_TABLE writes its layer's values to the shadow bank, which is PENDING under the new epoch after the
last layer. -/
def Obligations.ManagersComplete : Prop :=
  (∀ (s : State) (m : Msg), s.isDead m.src = false →
      (due s m 0x1D → m.body.length = 16 → rsv m.body 1 7 = true → 4 ≤ fld m.body 0 1 → fld m.body 0 1 ≤ 16 →
          answers (.plan m) s (fun t => t = if fld m.body 0 1 = s.power.issueF then s.take m
            else ({ s.take m with power := { s.power with issueF := fld m.body 0 1 } } : State).raise rPWR_EVT 2))
        ∧ (due s m 0x1A → m.body.length = 16 → fld m.body 0 8 % 1562500 = 0 → answers (.cal m) s (fun t =>
          t.recd.calendar = fld m.body 8 8 + (s.stitch.count / 1562500 - fld m.body 0 8 / 1562500) ∧ t.recd.calSrc = 3
            ∧ t.link.inbox = s.link.inbox.erase m ∧ poolOnly s t ∧ t.regs = (s.take m).regs))
        ∧ (due s m 0x17 → m.body.length = 80 → rsv m.body 1 7 = true → fld m.body 0 1 = s.pod →
          answers (.railMap m) s (fun t => t.link.railMap = (List.range 32).map (fun a => fld m.body (16 + 2 * a) 2)
            ∧ t.link.inbox = s.link.inbox.erase m ∧ poolOnly s t ∧ t.regs = (s.take m).regs))
        ∧ (due s m 0x16 → m.body.length = 144 → rsv m.body 1 7 = true → fld m.body 0 1 = s.pod →
          answers (.linkMap m) s (fun t => t.link.linkMap = (List.range 32).map (fun a => fld m.body (16 + 4 * a) 4)
            ∧ t.link.inbox = s.link.inbox.erase m ∧ poolOnly s t)))
    ∧ (∀ (s : State) (m : Msg), due s m 0x18 → m.body.length = 32 → rsv m.body 2 2 = true → rsv m.body 12 4 = true →
      rsv m.body 24 8 = true → s.podMgr = true → fld m.body 0 2 / 32 = s.pod →
      s.mgr.linkRows.length = 32 → s.mgr.railRows.length = 32 → answers (.portReport m) s (fun t =>
        t.mgr.linkRows.getD (fld m.body 0 2 % 32) 0 = fld m.body 4 4
          ∧ t.mgr.railRows.getD (fld m.body 0 2 % 32) 0 = fld m.body 8 2
          ∧ (∀ a, a ≠ fld m.body 0 2 % 32 → t.mgr.linkRows.getD a 0 = s.mgr.linkRows.getD a 0) ∧ poolOnly s t))
    ∧ (∀ s : State, s.boot.rstLow = false → 8 ≤ s.boot.state → s.boot.state ≤ 11 → s.link.reportDue = true →
      s.link.retRep = [] → s.mgrOf s.pod = s.member → answers .portReportSend s (fun t => t.link.reportDue = false
        ∧ t.link.inbox.map (·.typ) = s.link.inbox.map (·.typ) ++ [0x18] ∧ t.link.ports = s.link.ports ∧ t.mem = s.mem))
    ∧ (∀ (s : State) (d : Nat), s.inService = true → s.podMgr = true → s.mgr.calPend = true → s.podPeers = [d] →
      answers .calSend s (fun t => t.mgr.calPend = false ∧ t.txNext d 8 = s.txNext d 8 + 1 ∧ t.recd = s.recd
        ∧ t.mem = s.mem))
    ∧ (∀ (s : State) (m : Msg) (a : Nat), due s m 0x13 →
      let p := s.gPart (fld m.body 8 1)
      let n := sumNat (s.expertCounts p)
      32 ≤ m.body.length → fld m.body 9 1 = 0 → rsv m.body 14 18 = true → s.podMgr = true →
      s.gValid (fld m.body 8 1) = true → fld m.body 12 2 = s.pLayers p → m.body.length = 32 + 8 * n → s.biasU ≠ 0 →
      s.isDead (fld m.body 10 2) = false → s.mgr.biasAcc = [] → a ∈ s.members (fld m.body 8 1) → a / 32 = s.pod →
      a ≠ fld m.body 10 2 → s.stepGroup p = fld m.body 8 1 → s.launchOf (fld m.body 8 1) = none → answers (.biasCounts m) s (fun t => t.mgr.biasAcc = [(p, fld m.body 0 8, [fld m.body 10 2],
          (List.range n).map (fun i => fld m.body (32 + 8 * i) 8))]
        ∧ t.link.inbox = s.link.inbox.erase m ∧ poolOnly s t ∧ t.regs = (s.take m).regs))
    ∧ (∀ (s : State) (m : Msg), s.sound → due s m 0x14 →
      let p := s.gPart (fld m.body 8 1)
      let l := fld m.body 10 2
      let n := fld m.body 12 2
      p < 8 → m.body.length = 32 + 4 * n → rsv m.body 9 1 = true → rsv m.body 14 2 = true → rsv m.body 20 12 = true →
      s.gValid (fld m.body 8 1) = true → l < s.pLayers p → n = leExperts (s.layerEnt p l) →
      allFinite (m.body.drop 32) = true → s.isDead m.src = false → s.stopped p = false →
      (s.tab p 3).live.epoch < fld m.body 16 4 → 0 < l →
      answers (.biasTable m) s (fun t => t.rd (s.biasBank p (1 - (s.tab p 3).live.ix) + 16384 * l) (4 * n)
          = m.body.drop 32 ∧ (t.tab p 3).live = (s.tab p 3).live ∧ t.link.inbox = s.link.inbox.erase m
        ∧ (l + 1 = s.pLayers p → (s.part p).tables.length = 4 → (t.tab p 3).sh = 1
          ∧ (t.tab p 3).shadow.epoch = fld m.body 16 4)))

/-- R338, R415, R416, R423: a straggler is kept and counted once, a death due is declared to every member, a member
declared dead is dead here, and a WITHDRAW takes its member out of the step from its layer on. R341, R422: a wait of
32 stitches is reported once more, and the pod manager adds 32 for each member named. -/
def Obligations.DeathsComplete : Prop :=
  (∀ (s : State) (m : Msg) (y : StepSt), s.sound → due s m 0x1C → m.body.length = 16 → rsv m.body 9 1 = true →
      rsv m.body 12 4 = true → fld m.body 10 2 < 512 → s.gValid (fld m.body 8 1) = true → s.gPart (fld m.body 8 1) < 8 →
      s.isDead m.src = false → m.src / 32 = s.pod → (s.part (s.gPart (fld m.body 8 1))).step = some y →
      y.stepNo = fld m.body 0 8 → fld m.body 10 2 ∉ y.stragglers → s.powered rSTRAGGLE_CNT = true →
      answers (.straggle m) s (fun t => (∃ z, (t.part (s.gPart (fld m.body 8 1))).step = some z
          ∧ z.stragglers = y.stragglers ++ [fld m.body 10 2]) ∧ t.reg rSTRAGGLE_CNT = satAdd (s.reg rSTRAGGLE_CNT) 1
        ∧ (t.reg rFLT_EVT).getLsbD 4 = true ∧ t.link.inbox = s.link.inbox.erase m ∧ poolOnly s t))
    ∧ (∀ (s : State) (b : Nat), s.inService = true → s.podMgr = true → b < s.podSize →
      s.isDead (32 * s.pod + b) = false → s.deathDue b = true → answers (.deadDeclare b) s (fun t =>
        t.link.inbox.map (fun k => (k.typ, k.body)) = s.link.inbox.map (fun k => (k.typ, k.body))
            ++ [(0x0D, bodyDead (32 * s.pod + b) s.member s.stitch.count)]
          ∧ (∀ e ∈ t.mgr.sessions, e.1 ≠ 32 * s.pod + b) ∧ t.parts = s.parts ∧ t.mem = s.mem))
    ∧ (∀ (s : State) (m : Msg), due s m 0x0D → m.body.length = 16 → rsv m.body 4 4 = true → fld m.body 0 2 < 512 →
      s.isDead (fld m.body 0 2) = false → s.isDead (fld m.body 2 2) = false → answers (.dead m) s (fun t => t.isDead (fld m.body 0 2) = true
        ∧ t.boot = s.boot))
    ∧ (∀ (s : State) (m : Msg) (y : StepSt), s.sound → due s m 0x1E → m.body.length = 16 → rsv m.body 14 2 = true →
      fld m.body 9 1 ≤ 1 → fld m.body 12 2 < 512 → s.gValid (fld m.body 8 1) = true → s.gPart (fld m.body 8 1) < 8 →
      s.isDead (fld m.body 12 2) = false → (s.part (s.gPart (fld m.body 8 1))).step = some y →
      y.stepNo = fld m.body 0 8 → s.powered rWITHDRAW_CNT = true → answers (.withdraw m) s (fun t =>
        (∃ z, (t.part (s.gPart (fld m.body 8 1))).step = some z
            ∧ (fld m.body 12 2, fld m.body 9 1 == 1, fld m.body 10 2) ∈ z.gone)
          ∧ (y.aset = none → t.reg rWITHDRAW_CNT = satAdd (s.reg rWITHDRAW_CNT) 1
            ∧ (t.reg rFLT_EVT).getLsbD 5 = true)))
    ∧ (∀ (s : State) (m : Msg), s.sound → due s m 0x1E → m.body.length = 16 → rsv m.body 14 2 = true → fld m.body 9 1 ≤ 1 →
      fld m.body 12 2 < 512 → s.isDead (fld m.body 12 2) = true → s.gValid (fld m.body 8 1) = false →
      s.powered rWITHDRAW_CNT = true → s.powered rXCH_STALE_CNT = true → answers (.withdraw m) s (fun t => t.parts = s.parts
        ∧ t.reg rWITHDRAW_CNT = satAdd (s.reg rWITHDRAW_CNT) 1
        ∧ t.reg rXCH_STALE_CNT = satAdd (s.reg rXCH_STALE_CNT) 1))
    ∧ (∀ (s : State) (p l m h : Nat) (w : WaitSt) (x : StepSt), s.sound → p < 8 → (s.part p).step = some x →
      (s.part p).waits = [w] → w.layer = l → w.micro = m → w.handler = h → s.missing p l m h w.src ≠ [] →
      w.since + 32 * (w.sent + 1) ≤ s.stitch.count → s.powered rXCH_WAIT_CNT = true → answers (.waitSend p l m h) s
        (fun t => (t.part p).waits = [{ w with sent := w.sent + 1 }]
          ∧ t.reg rXCH_WAIT_CNT = satAdd (s.reg rXCH_WAIT_CNT) 1 ∧ (t.reg rXCH_EVT).getLsbD 3 = true ∧ t.mem = s.mem))
    ∧ (∀ (s : State) (m : Msg) (a : Nat), due s m 0x0C → m.body.length = 80 → rsv m.body 15 1 = true →
      s.podMgr = true → s.gValid (fld m.body 14 1) = true → fld m.body 11 1 ≤ 11 → s.isDead (fld m.body 12 2) = false →
      (List.range 512).filter (fun i => bit (fld m.body (16 + i / 8) 1) (i % 8)) = [a] → s.mgr.waits = [] →
      32 < fld (s.sect 11) 8 4 → answers (.waitMsg m) s (fun t =>
        t.mgr.waits = [WaitAcct.mk (fld m.body 14 1) (fld m.body 0 8) (fld m.body 8 2) (fld m.body 10 1)
          (fld m.body 11 1) (fld m.body 12 2) a 32] ∧ t.link.inbox = s.link.inbox.erase m ∧ t.parts = s.parts
          ∧ poolOnly s t))
    ∧ (∀ (s : State) (m : Msg), due s m 0x0C → m.body.length ≠ 80 ∨ rsv m.body 15 1 = false → answers (.waitMsg m) s
      (fun t => t = s.corrupt m 1))

/-! ### Replay -/

/-- R397 to R405: a REPLAY of each target whose entry and descriptors are sound and here begins and stays at HEAD, with the token
rows of its entry where it reads rows; once its inputs are here and its rows are done, the next command of its row writes its output and ends
its run: JRN_LAST_REPLAY names the group, the layer and the members of its chosen lists that did not fit, and the command waits
for its data writes. -/
def Obligations.ReplaysComplete : Prop :=
  (∀ (s : State) (g : Nat) (d : Bytes) (r : Rep), taken s g d 5 (repReads g) → (s.group g).cur = none →
      s.coresFree g (fld d 24 2) = true → s.repOf g [] d = .inl r →
      let begun (t : State) : Prop := (t.group g).head = (s.group g).head ∧ t.mem = s.mem ∧ t.parts = s.parts
        ∧ ∃ c, (t.group g).cur = some c ∧ c.phase = 1 ∧ c.seq = fld d 4 4 ∧ c.desc = d ∧ c.epochs = r.tabs.epochs
          ∧ c.job.map (fun j => j.pass.toks) = if r.rowTd d = 0 then none else some r.toks
      (fld d 26 1 = 0 → answers (.replayNorm g) s begun) ∧ (fld d 26 1 = 1 → answers (.replayScores g) s begun)
        ∧ (fld d 26 1 = 2 → answers (.replayTickets g) s begun) ∧ (fld d 26 1 = 3 → answers (.replayPayload g) s begun)
        ∧ (fld d 26 1 = 4 → answers (.replayCombine g) s begun) ∧ (fld d 26 1 = 5 → answers (.replayReduce g) s begun))
    ∧ (∀ (s : State) (g : Nat) (c : Cmd) (r : Rep), s.sound → g < 64 → (s.group g).cur = some c → c.phase = 1 →
      c.saved = 0 → c.cut = false → c.endAs = none → s.reading (.command g) = false → fld c.desc 0 1 = 5 →
      (s.part (s.gPart g)).state = 1 → s.mayIssue (s.gPart g) = true → s.layerHeld (s.gPart g) (fld c.desc 24 2) = false →
      s.repOf g c.epochs c.desc = .inl r →
      c.job.all (fun j => j.done && j.pass.toks.all (s.rowOver (.batch g) j)) = true →
      s.powered rJRN_LAST_REPLAY = true →
      let rows := (c.job.map (·.pass.toks)).getD []
      let ran (o : State × Nat × Bool) (t : State) : Prop := (t.group g).cur.map (·.phase) ≠ some 1
        ∧ t.reg rJRN_LAST_REPLAY
          = BitVec.ofNat 32 (g % 64 + 256 * (fld c.desc 24 2 % 256) + 65536 * min 65535 o.2.1)
        ∧ (o.1.cmdWriting g = true → t.mem = o.1.mem ∧ (t.group g).cur = some { c with phase := 3 }
          ∧ (t.group g).head = (s.group g).head)
      (fld c.desc 26 1 = 0 → answers (.replayNorm g) s (ran (s.replayNormNow g c.desc r rows)))
        ∧ (fld c.desc 26 1 = 1 → answers (.replayScores g) s (ran (s.replayScoresNow g c.desc r rows)))
        ∧ (fld c.desc 26 1 = 2 → answers (.replayTickets g) s (ran (s.replayTicketsNow g c.desc r rows)))
        ∧ (fld c.desc 26 1 = 3 → answers (.replayPayload g) s (ran (s.replayPayloadNow g c.desc r rows)))
        ∧ (fld c.desc 26 1 = 4 → answers (.replayCombine g) s (ran (s.replayCombineNow g c.desc r rows)))
        ∧ (fld c.desc 26 1 = 5 → answers (.replayReduce g) s (ran (s.replayReduceNow g c.desc r rows))))

/-! ### Stitch time -/

/-- R105, R106, R107, R109: reference edges inside and outside the window, missed edges and the fallback after the 16th,
the loss of lock, the slip after relocking, and the change to and from a relayed direct reference. -/
def Obligations.StitchReferenceCompletes : Prop :=
  (∀ (s : State) (ofs : Int), s.usesRef = true →
      (ofs.natAbs ≤ 16000 → answers (.stitchRefEdge ofs) s (fun t =>
          t.stitch.missRun = 0 ∧ t.stitch.goodRun = s.stitch.goodRun + 1 ∧ t.stitch.count = s.stitch.count
            ∧ (s.stitch.refLost = true → 64 ≤ s.stitch.goodRun + 1 → t.stitch.refLost = false ∧ t.stitch.src = 2)
            ∧ (s.stitch.refLost = false ∨ s.stitch.goodRun + 1 < 64 → t.stitch.src = s.stitch.src ∧ t.regs = s.regs)))
        ∧ (16000 < ofs.natAbs → spWf s.regs = true → s.powered rREF_EXTRA_CNT = true →
          answers (.stitchRefEdge ofs) s (fun t => t.stitch = { s.stitch with goodRun := 0 }
            ∧ t.reg rREF_EXTRA_CNT = satAdd (s.reg rREF_EXTRA_CNT) 1))
        ∧ (spWf s.regs = true → s.powered rREF_MISS_CNT = true → answers .stitchRefMiss s (fun t =>
          t.stitch.missRun = s.stitch.missRun + 1 ∧ t.stitch.goodRun = 0 ∧ t.stitch.count = s.stitch.count
            ∧ t.reg rREF_MISS_CNT = satAdd (s.reg rREF_MISS_CNT) 1
            ∧ (s.stitch.missRun + 1 < 16 → t.stitch.src = s.stitch.src ∧ t.stitch.refLost = s.stitch.refLost)
            ∧ (16 ≤ s.stitch.missRun + 1 → s.stitch.refLost = false →
              t.stitch.refLost = true ∧ t.stitch.src = (if s.headMgr then 4 else 3)
                ∧ (t.reg rSTITCH_EVT).getLsbD 1 = true))))
    ∧ (∀ s : State, s.stitch.state = 1 → 4 ≤ s.stitch.badRun ∨ 16 ≤ s.stitch.silentRun → spWf s.regs = true →
      s.powered rSTITCH_EVT = true → answers .lockLoss s (fun t => t.stitch.state = 2 ∧ t.stitch.count = s.stitch.count
        ∧ (t.reg rSTITCH_EVT).getLsbD 0 = true ∧ t.reg rLOCK_LOSS_CNT = satAdd (s.reg rLOCK_LOSS_CNT) 1))
    ∧ (∀ s : State, s.stitch.state = 1 → s.stitch.relocked = true → s.noStep = true → s.stitch.count ≠ s.refCount →
      spWf s.regs = true → s.powered rSTITCH_EVT = true → answers (.stitchSlip s.refCount) s (fun t =>
        t.stitch.count = s.refCount ∧ t.stitch.refOfs = 0 ∧ t.stitch.relocked = false
          ∧ (t.reg rSTITCH_EVT).getLsbD 3 = true ∧ t.reg rSLIP_CNT = satAdd (s.reg rSLIP_CNT) 1))
    ∧ (∀ (s : State) (b : Nat), s.podMgr = false → 16 ≤ s.stitch.directSilent → 9 ≤ s.boot.state → s.boot.state ≤ 11 →
      b ≠ s.block → b ≠ s.mgrBlock s.pod → b < s.podSize → answers (.stitchRelaySwitch [b]) s (fun t =>
        t = { s with stitch := { s.stitch with src := 1, relay := b } }))
    ∧ (∀ s : State, s.stitch.src = 1 → 64 ≤ s.stitch.directRun → answers .stitchDirectRestore s (fun t =>
        t = { s with stitch := { s.stitch with src := 0, relay := 0 } }))

/-- R98: a boundary ends one stitch and begins the next: the count rises by one, and no image, table or start state
changes. Outside STITCH_LOCK to RUNNING there is no boundary. R109: in RUNNING, once the member has left ACQUIRING, the count
changes with no command but a boundary, by one, and a slip, with no step of any partition in flight, to the count of the
reference. -/
def Obligations.BoundaryCounts : Prop :=
  (∀ (s : State) (runs others : List Nat), s.boot.rstLow = false → 9 ≤ s.boot.state → s.boot.state ≤ 11 →
      answers (.stitchBoundary runs others) s (fun t => t.stitch.count = s.stitch.count + 1 ∧ t.boot = s.boot
        ∧ t.img = s.img ∧ (s.stitch.state = 3 → t.stitch.state = 3)
        ∧ (s.stitch.state = 3 → t.stitch.marked = s.stitch.count + 1)))
    ∧ (∀ (s : State) (runs others : List Nat), s.boot.rstLow = true ∨ s.boot.state < 9 ∨ 11 < s.boot.state →
      answers (.stitchBoundary runs others) s (fun t => t = s))
    ∧ (∀ (c : Instr) (s t : State), isReset c = false → s.boot.state = 11 → s.stitch.state ≠ 0 → exec c s = .next t →
      t.stitch.count = s.stitch.count
        ∨ ((∃ runs others, c = .stitchBoundary runs others) ∧ t.stitch.count = s.stitch.count + 1)
        ∨ (c = .stitchSlip s.refCount ∧ t.stitch.count = s.refCount ∧ s.noStep = true))

/-- R301, R312, R313: a member that marks stitches sends, at most every 64 stitches, the count of the stitch last marked as
a CONTROL flit of SUBTYPE 4, and a pod manager, at most every 8 and in a system slot of the uplink, TIME with its member number,
count, offset and what it knows of the peer's last; the state notes when each left. A good TIME flit of a time channel that
answers one of ours gives the round trip of the two-way exchange, and the head manager in STITCH_LOCK keeps the highest count it heard (R101, R102). A COUNT of the pod
manager names the stitch whose mark came last: a member in ACQUIRING takes the count over, any other notes the difference
for a slip (R109). -/
def Obligations.TimeFlitsComplete : Prop :=
  (∀ (s : State) (c : Chan) (port : Nat), (s.stitch.state = 1 ∨ s.stitch.state = 3) → port < 31 → s.active port = true →
      s.boot.rstLow = false → s.chan port = some c → c.id = port → c.port = port → c.markDue = false →
      s.sendDue port s.stitch.marked 64 = true → answers (.countFlitSend port) s (fun t =>
        t.link.frames = s.link.frames
            ++ [(port, flitBytes (chanFlit c 2 8 ([4] ++ zeros 7 ++ toLE 8 s.stitch.marked)))]
          ∧ (port, s.stitch.marked) ∈ t.stitch.sentAt ∧ t.stitch.count = s.stitch.count ∧ t.mem = s.mem
          ∧ t.regs = s.regs))
    ∧ (∀ (s : State) (c : Chan) (chan ofs : Nat), s.chan chan = some c → s.timeChan c = true → s.active c.port = true →
      s.boot.rstLow = false → 9 ≤ s.boot.state → c.markDue = false → s.sendDue chan s.stitch.count 8 = true →
      s.slotOpen sysOwner (12 + c.port) = true → s.headMgr = false ∨ s.stitch.state = 3 → (s.stitch.peers.find? (fun x => x.1 = chan)) = none → answers (.timeSend chan ofs) s (fun t =>
        t.link.frames = s.link.frames ++ [(c.port, s.frame c
          ((chanFlit c 2 8 ([3, 0] ++ toLE 2 s.member ++ zeros 4 ++ toLE 8 s.stitch.count ++ toLE 4 ofs ++ toLE 4 0
            ++ toLE 8 0 ++ toLE 8 0 ++ toLE 4 0 ++ zeros 4 ++ toLE 8 (if s.headMgr then s.recd.calendar else 0))
            :: List.replicate 7 (idleFlit c)).map flitBytes))]
          ∧ (chan, s.stitch.count) ∈ t.stitch.sentAt ∧ t.stitch.count = s.stitch.count ∧ t.mem = s.mem))
    ∧ (∀ (s : State) (c : Chan) (f : Flit) (b : Bytes) (at4 : Nat), s.chan c.id = some c → s.hears c.port = true →
      parseFlit b = some f → isControl 3 f = true → s.timeChan c = true →
      s.headMgr = true → s.boot.state = 9 → s.stitch.state = 0 → answers (.time c.id b at4) s (fun t =>
        t.stitch.heard = some (max (fld f.payload 8 8) (s.stitch.heard.getD 0)) ∧ t.stitch.count = s.stitch.count
          ∧ (fld f.payload 24 8 = 0 → t.stitch.roundPs = s.stitch.roundPs)
          ∧ (fld f.payload 24 8 ≠ 0 → t.stitch.roundPs = ((s.stitch.count * 640000 + at4 : Nat) - (fld f.payload 24 8 * 640000 + fld f.payload 40 4 : Nat) : Int)
              - ((fld f.payload 8 8 * 640000 + fld f.payload 16 4 : Nat) - (fld f.payload 32 8 * 640000 + fld f.payload 20 4 : Nat) : Int))))
    ∧ (∀ (s : State) (c : Chan) (f : Flit) (b : Bytes) (k : Nat), s.chan c.id = some c → s.hears c.port = true →
      parseFlit b = some f → isControl 4 f = true → c.active = false ∨ f.mark = false → c.id < 31 → s.podMgr = false →
      s.stitch.src = 0 → c.peer % 32 = s.mgrBlock s.pod → s.stitch.markOwn = some k → answers (.count c.id b) s (fun t =>
        t.boot = s.boot ∧ poolOnly s t
          ∧ (s.stitch.state = 0 → t.stitch.count = ((s.stitch.count : Int) + ((fld f.payload 8 8 : Int) - k)).toNat)
          ∧ (s.stitch.state ≠ 0 → t.stitch.count = s.stitch.count
            ∧ t.stitch.refOfs = (fld f.payload 8 8 : Int) - k)))

/-! ### Management registers and events -/

/-- R11, R69: a write of 1 to a bit of an event register clears it, a bit set in the same cycle stays set, a write of 0
leaves it; no other register and no memory changes. R475: in REFUSED the START bit is set in every cycle, so that a
write of 1 never clears it; in RUNNING it clears. -/
def Obligations.EventClearCompletes : Prop :=
  (∀ (s : State) (a : Nat) (v now : Word), s.boot.rstLow = false → s.mgtBad a = false → kindAt a = some .w1c →
      statusGroup a = none → spWf s.regs = true → s.boot.state ≠ 15 →
      answers (.w1cClear a v now) s (fun t => t.mgtErr = false
        ∧ (∀ i, i < 32 → (t.reg a).getLsbD i
          = (((s.reg a).getLsbD i && !v.getLsbD i) || (now.getLsbD i && evtMask a / 2 ^ i % 2 == 1)))
        ∧ (∀ b, b ≠ a → t.reg b = s.reg b) ∧ t.mem = s.mem ∧ t.boot = s.boot ∧ t.parts = s.parts))
    ∧ (∀ s : State, s.boot.rstLow = false → s.powered rGLOBAL_EVT = true → spWf s.regs = true →
      (s.boot.state = 15 → answers (.w1cClear rGLOBAL_EVT 1 0) s (fun t => (t.reg rGLOBAL_EVT).getLsbD 0 = true))
        ∧ (s.boot.state = 11 → answers (.w1cClear rGLOBAL_EVT 1 0) s (fun t => (t.reg rGLOBAL_EVT).getLsbD 0 = false)))

/-- R68, R468: an address that is not aligned, that lies in no region or that names no register, and a register whose
domains are all off, answer every access with MGT_ERR, read data 0 and no effect; a write to a read-only register is
acknowledged and ignored. No register of the block has an RWL field. -/
def Obligations.IrregularAccesses : Prop :=
  (∀ a, a % 4 ≠ 0 ∨ 0x2C0000 ≤ a → kindAt a = none)
    ∧ (∀ (s : State) (a n : Nat) (v now : Word), s.boot.rstLow = false → kindAt a = none ∨ s.powered a = false →
      answers (.w1cClear a v now) s (fun t => t = { s with mgtData := 0, mgtErr := true })
        ∧ answers (.rcCounterRead a n) s (fun t => t = { s with mgtData := 0, mgtErr := true })
        ∧ answers (.splitLoRead a) s (fun t => t = { s with mgtData := 0, mgtErr := true })
        ∧ answers (.registerWriteOther a v) s (fun t => t = { s with mgtData := 0, mgtErr := true }))
    ∧ (∀ (s : State) (p : Nat) (v : Word), s.boot.rstLow = false →
      (s.powered (0x30020 + 4 * p) = false → answers (.partRestart p v) s (fun t =>
          t = { s with mgtData := 0, mgtErr := true }))
        ∧ (s.powered (0x180008 + 0x400 * p) = false → answers (.linkRetireForced p v) s (fun t =>
          t = { s with mgtData := 0, mgtErr := true }))
        ∧ (s.powered (rJRN_CONSUMED_HI p) = false → answers (.jrnConsumedWrite p v) s (fun t =>
          t = { s with mgtData := 0, mgtErr := true })))
    ∧ (∀ (s : State) (a : Nat) (v : Word), s.boot.rstLow = false → s.powered a = true → kindAt a = some .ro →
      answers (.registerWriteOther a v) s (fun t => t = { s with mgtData := 0, mgtErr := false }))

/-- R472: a counter saturates at 0xFFFF_FFFF and its read returns it and clears it, but for what the block counts in that
cycle (R69); events while every domain of its family is off are not counted, and it counts while one is on. -/
def Obligations.CountersCount : Prop :=
  (∀ (s : State) (a n : Nat), spWf s.regs = true →
      (s.powered a = true ↔ ∃ d, bit (regDomains a) d = true ∧ bit s.power.domOn d = true)
        ∧ (s.powered a = true → ((s.bump a n).reg a).toNat = min ((s.reg a).toNat + n) (2 ^ 32 - 1)
          ∧ (∀ b, b ≠ a → (s.bump a n).reg b = s.reg b) ∧ s.bump a n = { s with regs := (s.bump a n).regs })
        ∧ (s.powered a = false → s.bump a n = s))
    ∧ (∀ (s : State) (a n : Nat), s.boot.rstLow = false → s.powered a = true → kindAt a = some .rc → spWf s.regs = true →
      answers (.rcCounterRead a n) s (fun t => t.mgtData = s.reg a ∧ t.mgtErr = false
        ∧ (t.reg a).toNat = min n (2 ^ 32 - 1) ∧ (∀ b, b ≠ a → t.reg b = s.reg b) ∧ t.mem = s.mem))

/-- R470: the read of a LO half returns it and copies the high half into its HI register. -/
def Obligations.SplitReadCompletes : Prop :=
  ∀ (s : State) (a v hi : Nat), s.boot.rstLow = false → s.mgtBad a = false → s.splitAt a = some (v, hi) →
    spWf s.regs = true → answers (.splitLoRead a) s (fun t => t.mgtErr = false ∧ t.mgtData = BitVec.ofNat 32 v
      ∧ t.reg hi = BitVec.ofNat 32 (v / 2 ^ 32) ∧ (∀ b, b ≠ hi → t.reg b = s.reg b) ∧ t.mem = s.mem)

/-- R470, R473: KEY_PROG_DATA and the two LO halves, JRN_CONSUMED_LO and on the head manager CAL_SET_LO, hold what is written,
and EVT_MAP keeps the twelve class bits of what is written. R461: CAL_SET_HI on the head manager joins both halves into the
value that waits for the next second, and that second makes it the calendar. -/
def Obligations.PlainWritesComplete : Prop :=
  (∀ (s : State) (v : Word), s.boot.rstLow = false → s.powered 0x100B0 = true →
      answers (.registerWriteOther 0x100B0 v) s (fun t =>
        t = { s with mgtData := 0, mgtErr := false, boot := { s.boot with keyData := v } }))
    ∧ (∀ (s : State) (v : Word) (p : Nat), p < 8 → s.boot.rstLow = false → s.powered (rJRN_CONSUMED_LO p) = true →
      spWf s.regs = true → answers (.registerWriteOther (rJRN_CONSUMED_LO p) v) s (fun t =>
        t.reg (rJRN_CONSUMED_LO p) = v ∧ (∀ b, b ≠ rJRN_CONSUMED_LO p → t.reg b = s.reg b)
          ∧ t = { s with mgtData := 0, mgtErr := false, regs := t.regs }))
    ∧ (∀ (s : State) (v : Word), s.headMgr = true → s.running = true → s.powered 0x280118 = true →
      answers (.registerWriteOther 0x280118 v) s (fun t =>
        t = { s with mgtData := 0, mgtErr := false, recd := { s.recd with calSetLo := v } }))
    ∧ (∀ (s : State) (n : Nat) (v : Word), s.boot.rstLow = false → n < 4 → spWf s.regs = true →
      answers (.evtMapWrite n v) s (fun t => t.reg (rEVT_MAP n) = (v &&& 0xFFF)
        ∧ (∀ b, b ≠ rEVT_MAP n → t.reg b = s.reg b) ∧ t = { s with mgtData := 0, mgtErr := false, regs := t.regs }))
    ∧ (∀ (s : State) (v : Word), s.headMgr = true → s.running = true → answers (.calSet v) s (fun t =>
        t = { s with
          mgtData := 0, mgtErr := false
          recd := { s.recd with calSetHi := v, calPend := some (v.toNat * 2 ^ 32 + s.recd.calSetLo.toNat) } }))
    ∧ (∀ (s : State) (n : Nat), s.recd.present = true → s.boot.rstLow = false → s.stitch.state = 1 ∨ s.stitch.state = 3 →
      s.stitch.count % 1562500 = 0 → s.recd.tickAt ≠ s.stitch.count → s.recd.calPend = some n →
      answers .calendarTick s (fun t => t.recd.calendar = n ∧ t.recd.calPend = none ∧ t.regs = s.regs ∧ t.mem = s.mem))

/-- R385, R433: JRN_CONSUMED_HI applies both halves where the value lies between the old count and what is written, else
it is ignored and JRN_EVT bit 0 is set; telemetry for the window just ended is kept and any other is counted. -/
def Obligations.RuntimeWritesComplete : Prop :=
  (∀ (s : State) (p : Nat) (v : Word), s.boot.rstLow = false → p < 8 → p < s.parts.length →
      s.powered (rJRN_CONSUMED_HI p) = true → spWf s.regs = true →
      let n := v.toNat * 2 ^ 32 + (s.reg (rJRN_CONSUMED_LO p)).toNat
      ((s.part p).jrnC ≤ n → n ≤ (s.part p).jrnW → answers (.jrnConsumedWrite p v) s (fun t =>
          (t.part p).jrnC = n ∧ (t.part p).jrnW = (s.part p).jrnW ∧ t.reg (rJRN_CONSUMED_HI p) = v ∧ t.mgtErr = false
            ∧ (∀ q, q ≠ p → t.part q = s.part q) ∧ t.mem = s.mem))
        ∧ (n < (s.part p).jrnC ∨ (s.part p).jrnW < n → s.powered rJRN_EVT = true →
          answers (.jrnConsumedWrite p v) s (fun t =>
            t.parts = s.parts ∧ (t.reg rJRN_EVT).getLsbD 0 = true ∧ t.mem = s.mem)))
    ∧ (∀ (s : State) (v : Word), s.boot.rstLow = false → 7 ≤ s.boot.state → s.boot.state ≤ 11 → 1 ≤ s.power.window →
      (v.toNat / 2 ^ 24 = (s.power.window - 1) % 256 → answers (.pwrTelemWrite v) s (fun t =>
          t.power.telem = v ∧ (s.power.window - 1, v.toNat % 2 ^ 24) ∈ t.power.telemOk ∧ t.regs = s.regs ∧ t.mem = s.mem))
        ∧ (v.toNat / 2 ^ 24 ≠ (s.power.window - 1) % 256 → s.powered rTELEM_IGN_CNT = true → spWf s.regs = true →
          answers (.pwrTelemWrite v) s (fun t => t.power = s.power
            ∧ t.reg rTELEM_IGN_CNT = satAdd (s.reg rTELEM_IGN_CNT) 1)))

/-- R307, R443: LK_CTL RETIRE retires an ACTIVE port with code 4; ST_CTL with the key 0xC3 requests the shutdown test
and with any other key is ignored with KEY_ERR. -/
def Obligations.ForcedWritesComplete : Prop :=
  (∀ (s : State) (p : Nat) (v : Word), s.boot.rstLow = false → p < 36 → s.link.ports.length = 36 →
      s.powered (0x180008 + 0x400 * p) = true → (s.port p).state = 5 → (s.port p).absent = false →
      (bit v.toNat 0 = true → answers (.linkRetireForced p v) s (fun t =>
          (t.port p).state = 7 ∧ (t.port p).fail = 4 ∧ t.mgtErr = false ∧ poolOnly s t ∧ t.parts = s.parts))
        ∧ (bit v.toNat 0 = false → answers (.linkRetireForced p v) s (fun t =>
          t = { s with mgtData := 0, mgtErr := false })))
    ∧ (∀ (s : State) (v : Word), s.running = true → s.self.state = 0 →
      (v.toNat / 256 % 256 = 0xC3 → bit v.toNat 0 = true → (∀ g, (s.group g).cur = none) →
          answers (.shutdownRequest v) s (fun t => t.self.state = 1 ∧ t.self.request = true ∧ t.mgtErr = false
            ∧ t.boot = s.boot ∧ t.mem = s.mem ∧ t.regs = s.regs))
        ∧ (v.toNat / 256 % 256 ≠ 0xC3 → spWf s.regs = true → s.powered rST_EVT = true →
          answers (.shutdownRequest v) s (fun t => t.self = s.self ∧ (t.reg rST_EVT).getLsbD 0 = true ∧ t.mem = s.mem)))

/-! ### Self-test and lifetime records -/

/-- R454: outside a test the wrapper takes EXTEST, INTEST and the two access instructions under RST_N, BYPASS makes it
transparent, ends a SELFTEST_RUN and switches its domains off, and SELFTEST_RUN begins CHECK with TEST_FLOOR and the domains to
be switched on. R443 to R448, R451: a drained block enters CHECK with its
ports down; CHECK in range goes to LOGIC and out of range to WRITE with its code; a MISR that differs from its
reference marks the domain; the memory test goes to WRITE; a record read back ends in DONE, and a first mismatch is
written again. -/
def Obligations.SelfTestCompletes : Prop :=
  (∀ s : State, s.boot.rstLow = true →
      answers .wsExtest s (fun t => t.self = { resetSelf with wrapper := 1 } ∧ t.boot = s.boot ∧ t.mem = s.mem)
        ∧ answers .wsIntest s (fun t => t.self = { resetSelf with wrapper := 2 } ∧ t.boot = s.boot ∧ t.mem = s.mem)
        ∧ answers .scanAccess s (fun t => t.self = { resetSelf with wrapper := 5 } ∧ t.boot = s.boot ∧ t.mem = s.mem)
        ∧ answers .mbistAccess s (fun t => t.self = { resetSelf with wrapper := 6 } ∧ t.boot = s.boot ∧ t.mem = s.mem)
        ∧ (s.self.wrapper ≠ 4 → answers .wsBypass s (fun t =>
            t = { s with self := { s.self with wrapper := 0, wrapHeld := none } }))
        ∧ (s.self.wrapper = 4 → answers .wsBypass s (fun t => t.self = resetSelf ∧ t.power.ramps = []
            ∧ (∀ d, d < 46 → bit t.power.domOn d = false) ∧ t.boot = s.boot ∧ t.mem = s.mem))
        ∧ (s.recd.present = true → answers .selftestRun s (fun t => t.self.wrapper = 4 ∧ t.self.state = 2
            ∧ t.self.floor = true ∧ t.power.ramps = testOrder.filter (fun d => !bit s.power.domOn d) ∧ t.boot = s.boot
            ∧ t.mem = s.mem)))
    ∧ (∀ s : State, s.running = true → s.self.state = 1 → s.drained = true → answers .drainEnd s (fun t =>
      t.self.state = 2 ∧ t.link.chans = [] ∧ (∀ p ∈ t.link.ports, p.state = 0) ∧ t.mem = s.mem ∧ t.regs = s.regs))
    ∧ (∀ (s : State) (cy mv : Nat), s.self.state = 2 →
      (11940 ≤ cy → cy ≤ 16080 → 700 ≤ mv → mv ≤ 850 → answers (.selftestCheck cy mv) s (fun t =>
          t.self.state = 3 ∧ t.self.code = 0 ∧ t.self.cclk = cy / 10 ∧ t.self.vdd = mv ∧ t.mem = s.mem))
        ∧ (cy < 11940 ∨ 16080 < cy → answers (.selftestCheck cy mv) s (fun t => t.self.state = 5 ∧ t.self.code = 1))
        ∧ (11940 ≤ cy → cy ≤ 16080 → mv < 700 ∨ 850 < mv → answers (.selftestCheck cy mv) s (fun t =>
          t.self.state = 5 ∧ t.self.code = 2)))
    ∧ (∀ (s : State) (d k : Nat) (m : BitVec 64), s.self.state = 3 → s.power.ramps = [] → k < misrParts d → m ≠ Config.misrReference d k →
      answers (.logicTestEnd [(d, k, m)] []) s (fun t => t.self.state = 4
        ∧ t.self.found = s.self.found ++ [resultEntry 1 d 0xFFFF 0 0 0xFF k] ∧ t.boot = s.boot ∧ t.mem = s.mem))
    ∧ (∀ s : State, s.self.state = 4 → answers (.memoryTestEnd []) s (fun t =>
        t.self.state = 5 ∧ t.self.writeTry = 0 ∧ t.boot = s.boot ∧ t.mem = s.mem))
    ∧ (∀ (s : State) (ofs : Nat), s.self.state = 5 → s.recd.resultOfs = some ofs → s.self.code = 0 →
      (s.self.wrapHeld = none → answers (.resultWriteEnd true) s (fun t => t.self.state = 6
          ∧ t.recd.flashOps = s.recd.flashOps ++ resultOps ofs s.resultRecord ∧ t.self.entries = s.self.found.length))
        ∧ (s.self.writeTry = 0 → answers (.resultWriteEnd false) s (fun t => t.self.state = 5 ∧ t.self.writeTry = 1)))

/-- R456 to R459, R460, R461, R463: a Lint part whose array no run holds, and that passes, moves the rotation on and one that fails is counted and
repeated; the log is written each 600 s of UPTIME; a second counts in the lifetime registers and takes a calendar that
was set. R432, R434: the close of an energy window publishes its charges, restarts the account and counts the window;
the 64th of CALIBRATE ends that state. -/
def Obligations.RecorderCompletes : Prop :=
  (∀ s : State, let n := s.lintNext 30000 s.recd.lintPos
      s.lintDue n = true → (n < 256 → ∀ r ∈ s.press.runs, ∀ x ∈ r.span, x.1 ≠ n / 8) →
        answers (.lintPart none) s (fun t => t.recd.lintPos = (n + 1) % lintParts
          ∧ t.self.lintAgain = false ∧ t.regs = s.regs ∧ t.mem = s.mem)
        ∧ (∀ row, s.self.lintAgain = false → answers (.lintPart (some row)) s (fun t => t.recd.lintPos = n
          ∧ t.self.lintAgain = true ∧ t.recd.lintFails = s.recd.lintFails + 1 ∧ t.units = s.units ∧ t.mem = s.mem)))
    ∧ (∀ s : State, s.inService = true → 0 < s.recd.uptime → s.recd.uptime % 600 = 0 → s.recd.logAt ≠ s.recd.uptime →
      answers .logWrite s (fun t => t.recd.logSeq = s.recd.logSeq + 1 ∧ t.recd.logAt = s.recd.uptime
        ∧ t.recd.flashOps = s.recd.flashOps ++ (s.hdrF 0x3C 4 + 4096 * ((s.recd.logSeq + 1) % 64), none)
          :: programOps (s.hdrF 0x3C 4 + 4096 * ((s.recd.logSeq + 1) % 64)) (s.logRecord (s.recd.logSeq + 1))
        ∧ t.mem = s.mem ∧ t.regs = s.regs))
    ∧ (∀ s : State, s.recd.present = true → s.boot.rstLow = false → s.stitch.state = 3 →
      s.stitch.count % 1562500 = 0 → s.recd.tickAt ≠ s.stitch.count → answers .calendarTick s (fun t =>
        t.recd.lifeSec = s.recd.lifeSec + 1 ∧ t.recd.tickAt = s.stitch.count ∧ t.mem = s.mem ∧ t.regs = s.regs
          ∧ (∀ v, s.recd.calPend = some v → t.recd.calendar = v ∧ t.recd.calSrc = 2 ∧ t.recd.calPend = none)
          ∧ (s.recd.calPend = none → s.recd.calSrc ≠ 0 → t.recd.calendar = s.recd.calendar + 1)))
    ∧ (∀ (s : State) (ops : List Nat), s.boot.rstLow = false → 7 ≤ s.boot.state → s.boot.state ≤ 11 →
      s.power.wakeWin = none → answers (.energyWindowClose ops) s (fun t =>
        t.power.energyWin = s.power.winPj / 1000000 ∧ t.power.winPj = 0 ∧ t.power.window = s.power.window + 1
          ∧ t.recd.energyUj = s.recd.energyUj + s.power.winPj / 1000000 ∧ t.mem = s.mem))
    ∧ (∀ (s : State) (ops : List Nat), s.boot.rstLow = false → s.boot.state = 7 → s.power.window = 63 →
      s.power.wakeWin = none → s.power.alertLow = false → s.power.thermLow = false → answers (.energyWindowClose ops) s (fun t =>
        t.boot.state = 8 ∧ t.power.calDone = true))

/-! ### The attach port -/

/-- R131: a ring doorbell that passes the checks of its group's slot moves TAIL, and one outside the ring sets TAIL_ERR and
moves nothing; a layer doorbell is held until it registers, and one that registers is held for its pass where it names the
next layer, and is otherwise dropped and counted. R417: an abort request waits for the boundary. Each is answered OK, and
the attached-memory writes that it announces are visible to the block (R77). -/
def Obligations.DoorbellsComplete : Prop :=
  (∀ (s : State) (r : SeamReq), s.sound → s.running = true → (s.hostWrites r.host).slotGate r = none → r.slot < 64 →
      let v := fld r.data 0 4
      let out := 2 ^ s.gcfg r.slot 3 1 < (v + 2 ^ 32 - (s.group r.slot).head) % 2 ^ 32
        ∨ 2 ^ 31 ≤ (v + 2 ^ 32 - (s.group r.slot).tail) % 2 ^ 32
      (fld r.data 7 1 = 0 → fld r.data 4 3 = 0 → ¬ out → answers (.ringDoorbell r) s (fun t =>
          (t.group r.slot).tail = v ∧ (t.group r.slot).tailEff = (s.group r.slot).tailEff
            ∧ (t.group r.slot).head = (s.group r.slot).head ∧ t.mem = (s.hostWrites r.host).mem ∧ t.regs = s.regs
            ∧ replied s t r 0))
        ∧ (fld r.data 7 1 = 0 → fld r.data 4 3 = 0 → out → answers (.ringDoorbell r) s (fun t =>
          (t.group r.slot).tail = (s.group r.slot).tail ∧ (t.group r.slot).tailErr = true
            ∧ t.mem = (s.hostWrites r.host).mem ∧ replied s t r 0))
        ∧ answers (.abortRequest r) s (fun t => (t.group r.slot).aborts = (s.group r.slot).aborts
            ++ [(fld r.data 0 4, decide (fld r.data 7 1 ≠ 0) || decide (fld r.data 4 3 ≠ 0), false)]
          ∧ t.mem = (s.hostWrites r.host).mem ∧ replied s t r 0)
        ∧ (fld r.data 7 1 = 1 → fld r.data 4 3 = 0 → answers (.layerDoorbell r) s (fun t =>
          (t.group r.slot).bells = (s.group r.slot).bells ++ [(fld r.data 0 2, fld r.data 2 2, false)]
            ∧ t.mem = (s.hostWrites r.host).mem ∧ t.regs = s.regs ∧ replied s t r 0)))
    ∧ (∀ (s : State) (g layer low : Nat), g < s.groups.length →
      (s.gBatch g = false → layer ≠ 0 → s.nextBell g low = some layer →
          (∃ b ∈ ((s.registerBell g layer low).group g).bells, b.1 = layer ∧ b.2.1 = low)
            ∧ (s.registerBell g layer low).regs = s.regs)
        ∧ (s.gBatch g = true ∨ layer = 0 ∨ s.nextBell g low ≠ some layer → spWf s.regs = true →
          s.powered rLAYER_ORDER_CNT = true → (s.registerBell g layer low).groups = s.groups
            ∧ (s.registerBell g layer low).reg rLAYER_ORDER_CNT = satAdd (s.reg rLAYER_ORDER_CNT) 1))

/-- R42, R45, R94: a request that is no single-beat write to a slot is answered with its error, a read with the beats it
asks for, and has no other effect but the credit it gives back; which error wins where several hold is the model's choice
(log entries 34 and 93). R43, R44: a credit returned is counted, or drives the oldest waiting response of its generation;
of the requests of one CCLK the lower domain enters first. R43, R49, R137, R149, R285, R419: a notification that is no
longer held leaves as one WRITE beat, its data at the bottom and zeros above, with a TAG that is a free value (log entry
94), and takes one credit of its generation. -/
def Obligations.AttachPortCompletes : Prop :=
  (∀ (s : State) (r : SeamRaw) (k : Nat), s.boot.rstLow = false → s.invalidSts r = some k → s.seam.rspWait = [] →
      let n := if r.opc = 1 then r.beats else 0
      let rsp : SeamRsp := { gen2 := r.gen2, sts := k, tag := r.tag, dom := if r.gen2 then 0 else r.dom, beats := n
                             data := zeros ((n + 1) * beatBytes r.gen2) }
      ((if r.gen2 then s.seam.crdIp2 else s.seam.crdIp) ≠ 0 → answers (.seamInvalidRequest r) s (fun t =>
          t.seam.rspSent = s.seam.rspSent ++ [rsp] ∧ t.seam.rspWait = [] ∧ t = { s with seam := t.seam }))
        ∧ ((if r.gen2 then s.seam.crdIp2 else s.seam.crdIp) = 0 → answers (.seamInvalidRequest r) s (fun t =>
          t.seam.rspSent = s.seam.rspSent ∧ t.seam.rspWait = [rsp] ∧ t = { s with seam := t.seam })))
    ∧ (∀ (s : State) (r : SeamRaw),
      (r.opc ≠ 1 → r.opc ≠ 2 → s.invalidSts r = some 2)
        ∧ (r.opc = 1 ∨ r.opc = 2 → s.boot.state ≤ 6 → s.invalidSts r = some 1)
        ∧ (r.opc = 1 ∨ r.opc = 2 → 7 ≤ s.boot.state → s.boot.state ≠ 11 → s.invalidSts r = some 2)
        ∧ (r.opc = 1 ∨ r.opc = 2 → s.boot.state = 11 → r.addr < s.hdrF (if r.gen2 then 0x28 else 0x20) 8 →
          s.invalidSts r = some 1)
        ∧ (r.opc = 1 → s.boot.state = 11 → s.hdrF (if r.gen2 then 0x28 else 0x20) 8 ≤ r.addr →
          seamSlot (r.addr - s.hdrF (if r.gen2 then 0x28 else 0x20) 8) = true → s.invalidSts r = some 2))
    ∧ (∀ s : State, s.boot.rstLow = false →
      answers (.seamCreditReturn false false) s (fun t => t = { s with seam := { s.seam with crdOq := s.seam.crdOq + 1 } })
        ∧ answers (.seamCreditReturn true false) s (fun t =>
          t = { s with seam := { s.seam with crdOq2 := s.seam.crdOq2 + 1 } })
        ∧ (s.seam.rspWait = [] → answers (.seamCreditReturn false true) s (fun t =>
          t = { s with seam := { s.seam with crdIp := s.seam.crdIp + 1 } }))
        ∧ (∀ w rest, s.seam.rspWait = w :: rest → s.seam.crdIp = 0 → s.seam.crdIp2 = 0 →
          answers (.seamCreditReturn w.gen2 true) s (fun t =>
            t = { s with seam := { s.seam with rspWait := rest, rspSent := s.seam.rspSent ++ [w] } })))
    ∧ (∀ (s : State) (rs : List Instr), ∃ l, (s.seamDeliver rs).pending = s.pending ++ l ∧ l.Perm rs
      ∧ l.Pairwise (fun a b => (seamDomain a).getD 9 ≤ (seamDomain b).getD 9))
    ∧ (∀ (s : State) (n : Note) (rest : List Note), s.seam.notes = n :: rest → n.held = false →
      (if n.gen2 then s.seam.crdOq2 else s.seam.crdOq) ≠ 0 →
      let out : SeamOut :=
        { gen2 := n.gen2, opc := 2, dom := n.dom, tag := (Config.outTag s.seam.sent.length).toNat, beats := 0
          addr := n.addr, beat := n.data ++ zeros (beatBytes n.gen2 - n.data.length) }
      let left (t : State) : Prop := t.seam.notes = rest ∧ t.seam.sent = s.seam.sent ++ [out]
        ∧ t.seam.crdOq + t.seam.crdOq2 + 1 = s.seam.crdOq + s.seam.crdOq2 ∧ t.mem = s.mem ∧ t.groups = s.groups
      (n.kind = 0 → answers (.completionNotify n.key) s left) ∧ (n.kind = 1 → answers (.workReadyNotify n.key) s left)
        ∧ (n.kind = 2 → answers (.divertNotify n.key) s left) ∧ (n.kind = 3 → answers (.abortNotify n.key) s left))

/-! ### Attached memory -/

/-- R51, R53, R55: a beat takes its valid granules of the port's oldest read, a late one is counted, and a response retires
the port's oldest write, ends a journal record's wait, makes a completion record visible and completes a command that
waited for it; a stalled request that is accepted is counted. R56, R406: an access with an error is counted, raises the
port's bucket and is to be repeated once in a slot of its owner; R408: the 64th event retires the port and tears every
partition down, and the bucket leaks after its period. R406, R407: a repetition that succeeds ends there, and one that
fails on a router segment tears its partition down with MEM_DATA. -/
def Obligations.MemoryPortsComplete : Prop :=
  (∀ (s : State) (n i gv : Nat) (r : ReadReq), s.frontRead n = some (i, r) → s.sealStall r = false →
      validGranules gv < r.left → answers (.memReadBeat n ⟨gv, false⟩) s (fun t =>
        t.memp = { s.memp with reads := setAt s.memp.reads i (fun (r : ReadReq) => { r with
            addr := r.addr / 64 * 64 + 64 * validGranules gv, gran := r.gran + validGranules gv,
            left := r.left - validGranules gv }) }
          ∧ t.mem = s.mem ∧ t.regs = s.regs))
    ∧ (∀ (s : State) (n i gv : Nat) (r : ReadReq), s.frontRead n = some (i, r) → s.sealStall r = false →
      r.left ≤ validGranules gv → plainRead r.obj = true → answers (.memReadBeat n ⟨gv, false⟩) s (fun t =>
        t.memp = { s.memp with reads := s.memp.reads.eraseIdx i } ∧ t.mem = s.mem ∧ t.regs = s.regs))
    ∧ (∀ (s : State) (n i gv : Nat) (r : ReadReq), s.frontRead n = some (i, r) → s.sealStall r = false →
      validGranules gv < r.left → spWf s.regs = true → s.powered (rMEM_CONTRACT_CNT n) = true →
      answers (.memReadBeat n ⟨gv, true⟩) s (fun t =>
        t.reg (rMEM_CONTRACT_CNT n) = satAdd (s.reg (rMEM_CONTRACT_CNT n)) 1 ∧ t.mem = s.mem))
    ∧ (∀ (s : State) (n i : Nat) (w : WriteReq), s.sound → s.frontWrite n = some (i, w) →
      let u : State := { s with memp := { s.memp with writes := s.memp.writes.eraseIdx i } }
      let off (x : State) : Prop := x.memp.writes = s.memp.writes.eraseIdx i ∧ x.mem = s.mem ∧ x.regs = s.regs
      (u.writing w.obj = true → answers (.memWriteResponse n) s (fun t => t = u))
        ∧ (∀ p l k, w.obj = .combined p l k ∨ w.obj = .redResult p l k ∨ w.obj = .ledger p ∨ w.obj = .saveArea p
            ∨ w.obj = .linkEntry p true ∨ w.obj = .linkEntry p false → answers (.memWriteResponse n) s (fun t => t = u))
        ∧ (∀ tag, w.obj = .workTable tag → u.writing w.obj = false → answers (.memWriteResponse n) s (fun t =>
          off t ∧ ∀ x ∈ t.seam.notes, x.kind = 1 → x.key = tag → x.held = false))
        ∧ (∀ p, w.obj = .journal p → p < 8 → u.writing w.obj = false → answers (.memWriteResponse n) s (fun t =>
          off t ∧ (t.part p).jrnW = ((s.part p).jrnW + ((s.part p).jrnQ.headD []).length) % 2 ^ 64
            ∧ (t.part p).jrnQ = (s.part p).jrnQ.drop 1))
        ∧ (∀ g, w.obj = .complRec g → g < 64 → u.writing w.obj = false → answers (.memWriteResponse n) s (fun t =>
          off t ∧ (t.group g).recBusy = false ∧ ∀ x ∈ t.seam.notes, x.kind ≠ 1 → x.key = g → x.held = false))
        ∧ (∀ g c, w.obj = .batchOut g → g < 64 → u.cmdWriting g = false → (s.group g).cur = some c → c.phase = 3 →
          c.endAs = none → c.torn = false → s.stopped (s.gPart g) = false →
          (s.tr (s.gPart g) (fld c.desc 8 8) 32 4).isSome = true → fld c.desc 8 8 % 32 = 0 → c.seq = fld c.desc 4 4 →
          answers (.memWriteResponse n) s (fun t => completed s t g c.desc 0 0)))
    ∧ (∀ (s : State) (n i : Nat) (w : WriteReq), s.frontWrite n = some (i, w) → spWf s.regs = true →
      s.powered (rMEM_CONTRACT_CNT n) = true → answers (.memRequestAccepted n) s (fun t =>
        t.reg (rMEM_CONTRACT_CNT n) = satAdd (s.reg (rMEM_CONTRACT_CNT n)) 1 ∧ t.memp = s.memp ∧ t.mem = s.mem))
    ∧ (∀ (s : State) (n : Nat), n < s.memp.buckets.length →
      s.leakDue (keyMem n) 2097152 (s.memp.buckets.getD n 0) = true → answers (.memBucketLeak n) s (fun t =>
        t.memp.buckets.getD n 0 = s.memp.buckets.getD n 0 - 1
          ∧ (∀ k, k ≠ n → t.memp.buckets.getD k 0 = s.memp.buckets.getD k 0) ∧ t.mem = s.mem ∧ t.regs = s.regs))
    ∧ (∀ (s : State) (n i : Nat) (r : ReadReq), s.sound → n < 12 → s.memp.buckets.length = 12 → s.powered (rMEM_UE_CNT n) = true →
      s.frontRead n = some (i, r) → s.sealStall r = false →
      (s.memp.buckets.getD n 0 < 63 → answers (.memUe n ⟨r.obj, false⟩) s (fun t =>
          t.memp.buckets.getD n 0 = s.memp.buckets.getD n 0 + 1
            ∧ t.reg (rMEM_UE_CNT n) = satAdd (s.reg (rMEM_UE_CNT n)) 1
            ∧ t.memp.retries = s.memp.retries
              ++ [{ port := n, write := false, addr := r.addr / 64 * 64, len := 64, obj := r.obj }]
            ∧ t.parts = s.parts ∧ t.mem = s.mem))
        ∧ (63 ≤ s.memp.buckets.getD n 0 → bit s.units.memRet n = false → answers (.memUe n ⟨r.obj, false⟩) s (fun t =>
          bit t.units.memRet n = true ∧ ∀ p, s.pValid p = true → (t.part p).state = 0 ∨ (t.part p).state = 4)))
    ∧ (∀ (s : State) (n i : Nat) (w : WriteReq), s.sound → n < 12 → s.memp.buckets.length = 12 →
      s.powered (rMEM_WERR_CNT n) = true → s.frontWrite n = some (i, w) → s.memp.buckets.getD n 0 < 63 →
      ((∀ g, w.obj ≠ .saveArea g) → answers (.memWriteError n) s (fun t =>
          t.memp.writes = s.memp.writes.eraseIdx i ∧ t.reg (rMEM_WERR_CNT n) = satAdd (s.reg (rMEM_WERR_CNT n)) 1
            ∧ t.memp.retries = s.memp.retries ++ [{ port := n, write := true, addr := w.addr, len := w.len, obj := w.obj }]
            ∧ t.mem = s.mem))
        ∧ (∀ g c, w.obj = .saveArea g → g < 64 → (s.group g).cur = some c → c.saved = 1 → c.phase = 1 → c.torn = false →
          s.stopped (s.gPart g) = false → (s.tr (s.gPart g) (fld c.desc 8 8) 32 4).isSome = true →
          fld c.desc 8 8 % 32 = 0 → c.seq = fld c.desc 4 4 →
          answers (.memWriteError n) s (fun t => completed s t g c.desc 2 10)))
    ∧ (∀ (s : State) (r : Retry), s.nextRetry = some r →
      (r.write = false → plainRead r.obj = true → answers (.memRetry ⟨true, false⟩) s (fun t =>
          t.memp.retries = s.memp.retries.erase r ∧ t.mem = s.mem ∧ t.regs = s.regs)
          ∧ (spWf s.regs = true → s.powered (rMEM_CONTRACT_CNT r.port) = true → answers (.memRetry ⟨true, true⟩) s (fun t =>
            t.memp.retries = s.memp.retries.erase r ∧ t.mem = s.mem
              ∧ t.reg (rMEM_CONTRACT_CNT r.port) = satAdd (s.reg (rMEM_CONTRACT_CNT r.port)) 1)))
        ∧ (∀ tag, r.write = true → r.obj = .workTable tag → answers (.memRetry ⟨true, false⟩) s (fun t =>
          t.memp.retries = s.memp.retries.erase r ∧ t.mem = s.mem ∧ t.regs = s.regs))
        ∧ (∀ p l b k g, s.sound → r.obj = .router p l b k g → r.write = false → p < 8 → s.pValid p = true →
          s.stopped p = false → s.objLive r.obj = true → s.memp.buckets.getD r.port 0 < 63 →
          answers (.memRetry ⟨false, false⟩) s (fun t => (t.part p).state = 4 ∧ (t.part p).fault = 12)))

/-! ### The command queues -/

/-- R129, R132, R133, R137: a NOP completes with STATUS 0, or with STATUS 4 and FAULT 2 where a reserved byte is set.
R133, R137: an opcode that the group's class does not execute is refused with FAULT 1 by a completion record. R54, R56: the
descriptor at HEAD is read first, and nothing is done with it while its data is on the way. -/
def Obligations.NopCompletes : Prop :=
  (∀ (s : State) (g : Nat) (d : Bytes), taken s g d 0 noReads →
      (rsv d 16 48 = true → answers (.nop g) s (fun t => completed s t g d 0 0))
        ∧ (rsv d 16 48 = false → answers (.nop g) s (fun t => completed s t g d 4 2)))
    ∧ (∀ (s : State) (g : Nat) (d : Bytes), s.sound → s.ready g = true → s.headDesc g = some d → fld d 8 8 % 32 = 0 →
      (s.tr (s.gPart g) (fld d 8 8) 32 4).isSome = true → classOk (s.gBatch g) (fld d 0 1) = false →
      (s.group g).fetch ≠ 0 → s.reading (.command g) = false →
      answers (.nop g) s (fun t => completed s t g d 4 1) ∧ answers (.step g) s (fun t => completed s t g d 4 1))
    ∧ (∀ (s : State) (g : Nat) (d : Bytes), s.sound → g < 64 → s.ready g = true → s.headDesc g = some d →
      ((s.group g).fetch = 0 → answers (.nop g) s (fun t => t.reading (.command g) = true
          ∧ t.group g = { s.group g with fetch := 1 } ∧ (∀ k, k ≠ g → t.group k = s.group k) ∧ t.mem = s.mem
          ∧ t.regs = s.regs ∧ t.parts = s.parts))
        ∧ ((s.group g).fetch ≠ 0 → s.reading (.command g) = true → answers (.nop g) s (fun t => t = s)))

/-- R135: OPEN of a CLOSED stream without CTX_ADDR gives a fresh context of the partition with scale 2^24, and with
CTX_ADDR the context that stands there; RESUME opens a PAUSED context of the partition, CLOSE clears it, PAUSE without
CTX_ADDR marks it PAUSED; each completes with STATUS 0. PAUSE with CTX_ADDR writes the context there and completes once it
is visible. OPEN of a stream that is not CLOSED completes with STATUS 4 and FAULT 5. -/
def Obligations.StreamControlCompletes : Prop :=
  (∀ (s : State) (g : Nat) (d : Bytes), taken s g d 2 noReads → streamFault d = 0 → fld d 24 8 = 0 →
    s.ctxUnderTest (fld d 16 2) = false →
    let n := fld d 16 2
    let c := s.context n
    (fld d 18 1 = 0 → fld c 0 1 = 0 → answers (.streamOpen g) s (fun t => completed s t g d 0 0
        ∧ t.context n = patch (patch (zeros 64) 4 (toLE 4 16777216)) 0 (toLE 1 1 ++ toLE 1 (s.gPart g))))
      ∧ (fld d 18 1 = 1 → fld c 0 1 = 1 → fld c 1 1 = s.gPart g → answers (.streamPause g) s (fun t =>
        completed s t g d 0 0 ∧ t.context n = patch c 0 (toLE 1 2)))
      ∧ (fld d 18 1 = 2 → fld c 0 1 = 2 → fld c 1 1 = s.gPart g → answers (.streamResume g) s (fun t =>
        completed s t g d 0 0 ∧ t.context n = patch c 0 (toLE 1 1 ++ toLE 1 (s.gPart g))))
      ∧ (fld d 18 1 = 3 → fld c 0 1 = 1 → fld c 1 1 = s.gPart g → answers (.streamClose g) s (fun t =>
        completed s t g d 0 0 ∧ t.context n = zeros 64))
      ∧ (fld d 18 1 = 0 → fld c 0 1 ≠ 0 → answers (.streamOpen g) s (fun t => completed s t g d 4 5
        ∧ t.context n = c)))
    ∧ (∀ (s : State) (g : Nat) (d : Bytes) (a : Nat), streamFault d = 0 → fld d 24 8 ≠ 0 →
      s.ctxUnderTest (fld d 16 2) = false →
      let n := fld d 16 2
      let c := s.context n
      (∀ b, taken s g d 2 (ctxReads g 0) → fld d 18 1 = 0 → fld c 0 1 = 0 →
          s.loadCtx (s.gPart g) (fld d 24 8) = .inl b → answers (.streamOpen g) s (fun t => completed s t g d 0 0
            ∧ t.context n = patch b 0 (toLE 1 1 ++ toLE 1 (s.gPart g))))
        ∧ (taken s g d 2 noReads → g < 64 → fld d 18 1 = 1 → fld c 0 1 = 1 → fld c 1 1 = s.gPart g →
          s.tr (s.gPart g) (fld d 24 8) 64 4 = some a → answers (.streamPause g) s (fun t =>
            t.context n = patch c 0 (toLE 1 2)
            ∧ t.rd a (patch c 0 (toLE 1 2)).length = patch c 0 (toLE 1 2) ∧ t.writing (.context (s.gPart g)) = true
            ∧ (t.group g).cur.map (fun k => (k.phase, k.seq)) = some (3, fld d 4 4)
            ∧ (t.group g).head = (s.group g).head)))

/-- R255, R258, R259, R261: a table load that passes its checks, its entries being here, fills the shadow bank with the new
epoch, leaves the live bank in force and completes with STATUS 0; where it overwrites a RETIRED epoch, the batch commands
that bound it are marked to end at the next stitch boundary; HOLD sets the layer's hold. A bias load puts its values into
the shadow bank and waits for its writes. R48, R94, R261, R262: a weight-write release of a held layer is answered and
takes effect at the boundary; a release of a layer not held is answered and counted. The hold clears once its release has
taken effect: the wake signature then replaces that of the layer in both banks, and no other entry and no other hold
changes. -/
def Obligations.TableLoadsComplete : Prop :=
  (∀ (s : State) (g : Nat) (d : Bytes), s.gPart g < 8 → (s.part (s.gPart g)).tables.length = 4 →
      let p := s.gPart g
      let loads (t : State) (k : Nat) : Prop := completed s t g d 0 0 ∧ (t.tab p k).sh = 1
        ∧ (t.tab p k).shadow.epoch = fld d 24 4 ∧ (t.tab p k).live = (s.tab p k).live
        ∧ (∀ b c, b < 64 → s.gValid b = true → s.gPart b = p → s.gBatch b = true → (s.group b).cur = some c →
          (s.tab p k).sh = 2 → c.epochs.getD k 0 = (s.tab p k).shadow.epoch → (t.group b).cur = some { c with cut := true })
      (∀ k es, k < 3 → taken s g d 3 (loadReads g k ([64, 8, 32].getD k 0)) → fld d 16 1 = k → s.loadFault p k d = 0 →
          (k = 0 → buildLayers (s.begin g 1 d) p d = .inl es → answers (.tableLoadLayer g) s (fun t =>
              loads t 0 ∧ (t.tab p 0).shadow.entries = es))
            ∧ (k = 1 → buildMaps (s.begin g 1 d) p d = .inl es → answers (.tableLoadPlacement g) s (fun t =>
              loads t 1 ∧ (t.tab p 1).shadow.entries = es))
            ∧ (k = 2 → buildProfs (s.begin g 1 d) p d = .inl es → answers (.tableLoadProfile g) s (fun t =>
              loads t 2 ∧ (t.tab p 2).shadow.entries = es)))
        ∧ (∀ b, taken s g d 3 (biasReads g) → fld d 16 1 = 3 → s.loadFault p 3 d = 0 → s.biasU = 0 →
          fld d 22 2 < s.pLayers p → s.loadBytes p 4 d = some b → allFinite b = true →
          fld d 18 2 + fld d 20 2 ≤ maxNat ((s.entryBanks p 0).map (fun es => leExperts (entAt es (fld d 22 2)))) →
          answers (.tableLoadBias g) s (fun t => (t.tab p 3).sh = 1 ∧ (t.tab p 3).shadow.epoch = fld d 24 4
            ∧ (t.tab p 3).live = (s.tab p 3).live ∧ (t.group g).cur.map (·.phase) = some 3
            ∧ t.rd (s.biasBank p (1 - (s.tab p 3).live.ix) + 16384 * fld d 22 2 + 4 * fld d 18 2) b.length = b))
        ∧ (taken s g d 3 noReads → fld d 16 1 = 4 → rsv d 28 4 = true → rsv d 48 16 = true → fld d 17 1 = 0 →
          fld d 18 2 = 0 → fld d 20 2 = 0 → fld d 24 4 = 0 → fld d 32 8 = 0 → fld d 22 2 < s.pLayers p →
          s.layerHeld p (fld d 22 2) = false → s.batchOn p (fld d 22 2) = false →
          answers (.tableLoadHold g) s (fun t => completed s t g d 0 0
            ∧ (t.part p).holds = (s.part p).holds ++ [(fld d 22 2, fld d 40 8, false, false)])))
    ∧ (∀ (s : State) (r : SeamReq), s.sound → s.running = true → r.slot < 8 → s.pValid r.slot = true →
      s.stopped r.slot = false → fld r.data 2 6 = 0 →
      (s.layerHeld r.slot (fld r.data 0 2) = true → answers (.weightWriteRelease r) s (fun t =>
          (∀ h ∈ (t.part r.slot).holds, h.1 = fld r.data 0 2 → h.2.2.1 = true)
            ∧ t.layerHeld r.slot (fld r.data 0 2) = true ∧ t.regs = s.regs ∧ t.mem = (s.hostWrites r.host).mem
            ∧ replied s t r 0))
        ∧ (s.layerHeld r.slot (fld r.data 0 2) = false → s.powered (rSEL_CNT r.slot 9) = true →
          answers (.weightWriteRelease r) s (fun t => t.parts = s.parts
            ∧ t.reg (rSEL_CNT r.slot 9) = satAdd (s.reg (rSEL_CNT r.slot 9)) 1 ∧ replied s t r 0)))
    ∧ (∀ (s : State) (p : Nat), (s.registerInputs.part p).holds
      = (s.part p).holds.map (fun h => (h.1, h.2.1, h.2.2.1, h.2.2.2 || h.2.2.1)))
    ∧ (∀ (s : State) (p l : Nat) (h : Nat × Nat × Bool × Bool), s.sound → p < 8 → (s.part p).tables.length = 4 →
      (s.part p).holds.find? (fun h => h.1 == l && h.2.2.2) = some h →
      let signed (i : Nat) (e : Bytes) : Bytes := if i ≠ l ∨ e = [] then e else patch e 40 (toLE 8 h.2.1)
      answers (.holdClear p l) s (fun t => t.mem = s.mem ∧ t.regs = s.regs ∧ t.groups = s.groups
        ∧ (∀ k, t.layerHeld p k = if k = l then false else s.layerHeld p k)
        ∧ (∀ i, (t.tab p 0).live.entries.getD i [] = signed i ((s.tab p 0).live.entries.getD i []))
        ∧ (∀ i, (t.tab p 0).shadow.entries.getD i [] = signed i ((s.tab p 0).shadow.entries.getD i []))))

/-- R115, R136: a STEP with the next step number at the HEAD of an UP partition without a step and without a teardown under
way becomes its step, its segments checked, and stays at HEAD; a wrong number tears the partition down; on a PARKED
partition it wakes it (R146); one with a reserved bit in the common header is refused with FAULT 2 (R132). -/
def Obligations.StepCommandCompletes : Prop :=
  (∀ (s : State) (g : Nat) (d : Bytes), taken s g d 1 (stepReads g) → s.gPart g < 8 →
      (s.segList (s.gPart g) d).any (fun b => s.ctxUnderTest (fld b 0 2)) = false →
      let p := s.gPart g
      ((s.part p).state = 1 → (s.part p).step = none → (s.part p).stopping = false →
          (s.part p).anyNo = true ∨ (s.part p).lastNo.map (fun n => (n + 1) % 2 ^ 64) = some (fld d 16 8) →
          answers (.step g) s (fun t => (t.part p).step = some (s.newStep g d) ∧ (t.group g).head = (s.group g).head
            ∧ (t.group g).cur.map (fun c => (c.phase, c.seq, c.desc)) = some (2, fld d 4 4, d) ∧ t.mem = s.mem))
        ∧ ((s.part p).state = 1 → (s.part p).step = none → (s.part p).stopping = false → (s.part p).anyNo = false →
          s.pValid p = true → (s.part p).lastNo.map (fun n => (n + 1) % 2 ^ 64) ≠ some (fld d 16 8) →
          answers (.step g) s (fun t => (t.part p).state = 4 ∧ (t.part p).fault = 9 ∧ (t.part p).step = none))
        ∧ ((s.part p).state = 2 → s.power.wakeq ≠ [] → answers (.step g) s (fun t => (t.part p).state = 3
            ∧ t.power.wakeq = s.power.wakeq ++ [p] ∧ (t.group g).head = (s.group g).head ∧ t.mem = s.mem)))
    ∧ (∀ (s : State) (g : Nat) (d : Bytes), s.sound → s.ready g = true → s.headDesc g = some d → s.headFault g d = 0 →
      fld d 0 1 = 1 → s.gBatch g = false → headRsv d = false → fetched s g d (stepReads g) → answers (.step g) s (fun t =>
        (t.group g).cur = none ∧ (t.group g).lastSeq = some (fld d 4 4) ∧ t.parts = s.parts
          ∧ (t.group g).head = ((s.group g).head + 1) % 2 ^ 32
          ∧ ∀ a, s.tr (s.gPart g) (fld d 8 8) 32 4 = some a → t.rd a 8 = toLE 4 (fld d 4 4) ++ [4, 2] ++ toLE 2 0))

/-- R146: PARK of a partition that is UP or PARKED waits at HEAD; once nothing of the partition runs its array domains go
off and the command completes. R208: a layer of the wake check that was scored with its signature gives way to the next
one; one with another signature is checked once more, and then tears the partition down with SIGNATURE (11). The partition
comes UP once every layer has passed, not before. -/
def Obligations.ParkAndWakeComplete : Prop :=
  (∀ (s : State) (g : Nat) (d : Bytes), taken s g d 4 noReads → rsv d 16 48 = true → (s.part (s.gPart g)).state ≠ 3 →
      answers (.park g) s (fun t => (t.group g).cur.map (fun c => (c.phase, c.seq)) = some (0, fld d 4 4)
        ∧ (t.group g).head = (s.group g).head ∧ t.parts = s.parts ∧ t.mem = s.mem ∧ t.regs = s.regs))
    ∧ (∀ (s : State) (p : Nat) (c : Cmd), s.sound → p < 8 → s.stepGroup p < 64 → s.gPart (s.stepGroup p) = p →
      (s.group (s.stepGroup p)).cur = some c → c.phase = 0 → (s.part p).state = 1 ∨ (s.part p).state = 2 →
      s.parkClear p = true → answers (.parkComplete p) s (fun t => (t.part p).state = 2
        ∧ (t.group (s.stepGroup p)).cur = none ∧ (t.group (s.stepGroup p)).lastSeq = some c.seq
        ∧ (∀ a, a < 32 → bit (s.pCores p) (a / 4) = true → bit t.power.domOn a = false)))
    ∧ (∀ (s : State) (p : Nat), s.sound → p < 8 → s.running = true → (s.part p).state = 3 → (s.part p).wakeTry ≠ 0 →
      (s.pLayers p ≤ (s.part p).wakeLayer → answers (.wakeCheckDone p (s.pLayers p)) s (fun t =>
          (t.part p).state = 1 ∧ t.mem = s.mem ∧ t.regs = s.regs ∧ t.groups = s.groups))
        ∧ ((s.part p).wakeLayer < s.pLayers p → ∀ n, answers (.wakeCheckDone p n) s (fun t => t = s)))
    ∧ (∀ (s : State) (p : Nat) (j : Job), s.sound → p < 8 → (s.part p).state = 3 →
      let seen := wakeSig j.pr j.e (j.pass.toks.headD (onesTok 0 0))
      (seen = fld j.e 40 8 → ((s.endWakeLayer p j).part p).wakeLayer = j.pass.layer + 1
          ∧ ((s.endWakeLayer p j).part p).state = 3)
        ∧ (seen ≠ fld j.e 40 8 → (s.part p).wakeTry = 1 → ((s.endWakeLayer p j).part p).wakeTry = 2
          ∧ ((s.endWakeLayer p j).part p).wakeLayer = j.pass.layer ∧ ((s.endWakeLayer p j).part p).state = 3)
        ∧ (seen ≠ fld j.e 40 8 → (s.part p).wakeTry ≠ 1 → s.pValid p = true →
          ((s.endWakeLayer p j).part p).state = 4 ∧ ((s.endWakeLayer p j).part p).fault = 11))

/-- R151, R152, R384, R410: a restart brings a torn-down partition UP, its ledger number starting again at 0 and its records
requested again; they are held once their last beat is here, and records that fail their check tear the partition down. A
teardown without a step ends with the partition's cells freed and, where no restart came first, its array domains off
(R428). Without the RESTART bit, or in another state, nothing happens. -/
def Obligations.RestartCompletes : Prop :=
  (∀ (s : State) (p : Nat) (v : Word), s.sound → s.boot.rstLow = false → p < 8 →
      s.powered (0x30020 + 4 * p) = true → bit v.toNat 0 = true → (s.part p).state = 4 → s.units.memRet = 0 →
      s.isDead s.member = false → (s.part p).step = none → (s.tr p (255 * 2 ^ 56 + 128) 128 2).isSome = true →
      answers (.partRestart p v) s (fun t => (t.part p).state = 1 ∧ t.reading (.record p) = true ∧ (t.part p).jrnRec = []
        ∧ (t.part p).ledNext = 0 ∧ (t.part p).anyNo = true ∧ t.mgtErr = false ∧ t.mem = s.mem ∧ t.regs = s.regs
        ∧ (∀ q, q ≠ p → t.part q = s.part q)))
    ∧ (∀ (s : State) (n i gv p : Nat) (r : ReadReq), s.sound → p < 8 → s.frontRead n = some (i, r) → r.obj = .record p →
      s.sealStall r = false → r.left ≤ validGranules gv →
      ({ s with memp := { s.memp with reads := s.memp.reads.eraseIdx i } } : State).reading (.record p) = false →
      s.stopped p = false → (s.part p).jrnRec = [] →
      (∀ j l, s.readRecords p = some (j, l) → answers (.memReadBeat n ⟨gv, false⟩) s (fun t =>
          t.part p = { s.part p with jrnRec := j, ledRec := l } ∧ t.mem = s.mem ∧ t.regs = s.regs))
        ∧ (s.readRecords p = none → s.pValid p = true → answers (.memReadBeat n ⟨gv, false⟩) s (fun t =>
          (t.part p).state = 4 ∧ (t.part p).fault = 8)))
    ∧ (∀ (s : State) (p : Nat) (v : Word), s.boot.rstLow = false → p < 8 → s.powered (0x30020 + 4 * p) = true →
      bit v.toNat 0 = false ∨ (s.part p).state ≠ 4 → answers (.partRestart p v) s (fun t =>
        t = { s with mgtData := 0, mgtErr := false }))
    ∧ (∀ (s : State) (p : Nat), s.sound → p < 8 → (s.part p).stopping = true → s.tabs = [] → s.writesOf p = false →
      (s.part p).step = none → answers (.teardownFinish p) s (fun t => (t.part p).stopping = false
        ∧ (t.part p).state = (s.part p).state ∧ t.mem = s.mem
        ∧ (∀ c ∈ t.hamper.chains, c.owner ≠ ownerOf (s.sect 5) p)
        ∧ ((s.part p).state = 4 → ∀ a, a < 32 → bit (s.pCores p) (a / 4) = true → bit t.power.domOn a = false)))

/-- R417, R418, R419: a registered abort of the PARK or the REPLAY that runs ends it with STATUS 2 and FAULT 15, at once
where nothing of it is in flight, else once its runs have drained and its data writes have responses; one of a PARK or a
REPLAY at HEAD ends it the same way; one of a launched STEP withdraws its next layer and those after it, the passes begun
go on, and an end of the step that has begun is made again; one of a STEP before its launch is noted for the launch. One of
a command that completed, was not found or takes no abort, and one whose write is malformed, change no command. Each
result stands in ABORT_RESULT. One of a partition that went down before the boundary changes nothing. R143, R144, R233: a
pre-empted INSTRUCTION-mode command with instructions left and no run in flight is saved with its header and the lanes of
the partition's cores; it is saved in full once the writes have their responses, or ends then where a shutdown was
requested (R443); it asks for its save area once it has the highest priority, and with the last of it the lanes hold what
was read and the command goes on. -/
def Obligations.AbortsComplete : Prop :=
  (∀ (s : State) (g seq : Nat) (bad : Bool) (rest : List (Nat × Bool × Bool)), s.sound → g < 64 →
      (s.group g).aborts = (seq, bad, true) :: rest → s.powered (rABORT_RESULT g) = true → s.powered rFLT_EVT = true →
      s.stopped (s.gPart g) = false →
      let result (t : State) (r : Nat) : Prop := t.reg (rABORT_RESULT g) = BitVec.ofNat 32 (r + 256 * (seq % 2 ^ 24))
        ∧ (t.reg rFLT_EVT).getLsbD 7 = true ∧ (t.group g).aborts = rest
      let stays (t : State) : Prop := (t.group g).cur = (s.group g).cur ∧ (t.group g).head = (s.group g).head
      (bad = false → (s.group g).lastSeq ≠ some seq → (s.group g).abortHead = false →
          (∀ c, (s.group g).cur = some c → c.seq = seq → fld c.desc 0 1 = 4 ∨ fld c.desc 0 1 = 5 → c.phase ≠ 2 →
            (c.torn = false → c.phase ≠ 3 ∨ s.cmdWriting g = false → c.phase ≠ 1 ∨ s.runsOn g = false →
                answers (.abortRegister g) s (fun t => result t 1 ∧ (t.group g).cur = none
                  ∧ (t.group g).lastSeq = some seq ∧ (t.group g).head = ((s.group g).head + 1) % 2 ^ 32))
              ∧ (c.endAs = none → c.phase = 3 ∧ s.cmdWriting g = true ∨ c.phase = 1 ∧ s.runsOn g = true →
                answers (.abortRegister g) s (fun t => result t 1
                  ∧ (t.group g).cur = some { c with endAs := some (2, 15), torn := false }
                  ∧ (t.group g).head = (s.group g).head ∧ t.mem = s.mem)))
            ∧ (∀ c x, (s.group g).cur = some c → c.seq = seq → c.phase = 2 → fld c.desc 0 1 = 1 → s.gPart g < 8 →
              (s.part (s.gPart g)).step = some x → x.tornBy = none →
              (x.launched = true → x.fin ≤ 2 → answers (.abortRegister g) s (fun t => result t 1 ∧ stays t
                  ∧ ∃ y, (t.part (s.gPart g)).step = some y ∧ y.abortReg = true ∧ y.withdrawn = some x.nextLayer
                    ∧ y.fin = 0 ∧ y.passes = x.passes ∧ y.lstat = x.lstat))
                ∧ (x.launched = false → answers (.abortRegister g) s (fun t => result t 1 ∧ stays t
                  ∧ (t.part (s.gPart g)).step = some { x with abortReg := true } ∧ t.mem = s.mem)))
            ∧ (∀ d, (s.group g).cur = none → s.atHead g = true → (s.group g).recBusy = false → s.headDesc g = some d →
              fld d 4 4 = seq →
              (fld d 0 1 = 4 ∨ fld d 0 1 = 5 → fld d 8 8 % 32 = 0 → (s.tr (s.gPart g) (fld d 8 8) 32 4).isSome = true →
                  answers (.abortRegister g) s (fun t => result t 1 ∧ completed s t g d 2 15))
                ∧ (fld d 0 1 = 1 → answers (.abortRegister g) s (fun t => result t 1 ∧ stays t
                  ∧ (t.group g).abortHead = true ∧ t.parts = s.parts ∧ t.mem = s.mem))))
        ∧ (∀ r, bad = true ∧ r = 4
            ∨ bad = false ∧ (s.group g).lastSeq = some seq ∧ r = 2
            ∨ bad = false ∧ (s.group g).lastSeq ≠ some seq ∧ r = 3 ∧ (∃ c, (s.group g).cur = some c ∧ c.seq ≠ seq)
            ∨ bad = false ∧ (s.group g).lastSeq ≠ some seq ∧ r = 3 ∧ (s.group g).cur = none ∧ s.atHead g = false
            ∨ bad = false ∧ (s.group g).lastSeq ≠ some seq ∧ r = 4 ∧ (∃ c, (s.group g).cur = some c ∧ c.seq = seq
              ∧ ((s.group g).abortHead = true ∨ fld c.desc 0 1 = 0 ∨ fld c.desc 0 1 = 2 ∨ fld c.desc 0 1 = 3)) →
          answers (.abortRegister g) s (fun t => result t r ∧ stays t
            ∧ t.seam.notes.length = s.seam.notes.length + 1 ∧ t.mem = s.mem ∧ t.parts = s.parts)))
    ∧ (∀ (s : State) (g seq : Nat) (bad : Bool) (rest : List (Nat × Bool × Bool)), s.sound → g < 64 →
      (s.group g).aborts = (seq, bad, true) :: rest → s.stopped (s.gPart g) = true →
      (s.part (s.gPart g)).tornAt ≠ s.stitch.count → answers (.abortRegister g) s (fun t =>
        t.group g = { s.group g with aborts := rest } ∧ t.regs = s.regs ∧ t.seam = s.seam ∧ t.parts = s.parts
          ∧ t.mem = s.mem))
    ∧ (∀ (s : State) (g a : Nat) (c : Cmd), s.sound → g < 64 → (s.group g).cur = some c →
      s.tr (s.gPart g) (s.gcfg g 16 8) (saveExtent (s.pCores (s.gPart g))) 6 = some a →
      (s.gBatch g = true → s.gInstr g = true → c.phase = 1 → c.saved = 0 → c.endAs = none → s.preempted g = true →
          s.runsLeft g = false → s.instrLeft g = true → s.powered rPREEMPT_CNT = true → answers (.preemptRegister g) s (fun t =>
            (t.group g).cur.map (fun d => (d.saved, d.seq, d.desc, d.phase)) = some (1, c.seq, c.desc, c.phase)
            ∧ t.reg rPREEMPT_CNT = satAdd (s.reg rPREEMPT_CNT) 1
            ∧ t.rd a 16 = toLE 4 c.seq ++ toLE 1 g ++ toLE 1 (s.pCores (s.gPart g)) ++ zeros 2 ++ toLE 8 s.stitch.count
            ∧ (∀ k ∈ s.ownCores (s.gPart g), ∀ j l, (s.core k).lanes.length = 16 → (s.core k).lanes[j]? = some l →
              (∀ i, i < 8 → (s.core i).lanes.length = 16) → t.rd (a + 64 + 256 * k + 16 * j) 16 = laneBytes l)
            ∧ (∀ k, k ≠ g → t.group k = s.group k)))
        ∧ (c.saved = 1 → s.writing (.saveArea g) = false →
          (s.self.request = false → answers (.preemptSaveDone g) s (fun t =>
              (t.group g).cur = some { c with saved := 2 } ∧ t.mem = s.mem ∧ t.regs = s.regs))
            ∧ (s.self.request = true → answers (.preemptSaveDone g) s (fun t =>
              (t.group g).cur = none ∧ (t.group g).lastSeq = some c.seq)))
        ∧ (c.saved = 2 → s.highest g = true → answers (.preemptRestore g) s (fun t =>
          (t.group g).cur = some { c with saved := 3 } ∧ t.reading (.saveArea g) = true
            ∧ (∀ k, k ≠ g → t.group k = s.group k) ∧ t.memp.writes = s.memp.writes ∧ t.mem = s.mem ∧ t.regs = s.regs))
        ∧ (∀ n i gv (r : ReadReq), c.saved = 3 → s.frontRead n = some (i, r) → r.obj = .saveArea g →
          s.sealStall r = false → r.left ≤ validGranules gv →
          ({ s with memp := { s.memp with reads := s.memp.reads.eraseIdx i } } : State).reading (.saveArea g) = false →
          answers (.memReadBeat n ⟨gv, false⟩) s (fun t =>
            (t.group g).cur.map (fun d => (d.saved, d.seq, d.desc, d.phase)) = some (0, c.seq, c.desc, c.phase)
            ∧ (∀ k ∈ s.ownCores (s.gPart g), ∀ j l, (t.core k).lanes[j]? = some l →
              l = laneOf (s.rd (a + 64 + 256 * k + 16 * j) 16))
            ∧ (∀ k, k < 8 → k ∉ s.ownCores (s.gPart g) → t.core k = s.core k) ∧ t.mem = s.mem ∧ t.regs = s.regs)))

/-- R385: the next record is written at the write count's place in the ring; a ring without room holds it back and is
counted once. -/
def Obligations.JournalWritesComplete : Prop :=
  ∀ (s : State) (p a : Nat) (r : Bytes) (rest : List Bytes), s.sound → p < 8 → (s.part p).jrnQ = r :: rest →
    s.writing (.journal p) = false → s.tr p (fld (s.part p).jrnRec 8 8) 1 6 = some a →
    let size := 2 ^ fld (s.part p).jrnRec 1 1
    let used := (s.part p).jrnW - (s.part p).jrnC
    (r.length ≤ size - (s.part p).jrnW % size → r.length ≤ size - used → answers (.journalWrite p) s (fun t =>
        t.rd (a + (s.part p).jrnW % size) r.length = r ∧ t.writing (.journal p) = !r.isEmpty
          ∧ (t.part p).jrnQ = r :: rest ∧ t.regs = s.regs
          ∧ (∀ b, b < a + (s.part p).jrnW % size ∨ a + (s.part p).jrnW % size + r.length ≤ b →
            spGet t.mem b = spGet s.mem b)))
      ∧ (r.length ≤ size - (s.part p).jrnW % size → size - used < r.length → (s.part p).jrnWait = false →
        s.powered rJRN_FULL_CNT = true → answers (.journalWrite p) s (fun t => (t.part p).jrnWait = true
          ∧ t.reg rJRN_FULL_CNT = satAdd (s.reg rJRN_FULL_CNT) 1 ∧ t.mem = s.mem))

/-! ### Hamper -/

/-- R172, R174 to R178: a staging request that may be granted takes the lowest-numbered free cells, and two requests of
one cycle are served by rank, whichever is listed first; a refused one waits and is counted; releases that take REF to 0
free the chain and fewer lower its count; an added reference raises it, and counts before the releases of its cycle; an
ADD_REF past 255, or on a cell that heads no chain, is counted and the data goes into a new chain with the references
asked for; a release on a cell that heads no chain is counted. -/
def Obligations.HamperCompletes : Prop :=
  (∀ (s : State) (o n refs rank : Nat), ownOk (s.sect 5) o = true → 1 ≤ refs → refs ≤ 255 → 1 ≤ n →
      s.hamper.waiting = [] → s.hamper.chains = [] → s.hamper.withheld = [] →
      let ask (rank n : Nat) : CellReq :=
        { rank := rank, owner := o, memory := false, contig := false, cells := n, refs := refs, src := none }
      let got (id at_ n : Nat) : Chain :=
        { id := id, owner := o, cells := (List.range n).map (fun i => (false, at_ + i)), ref := refs, poison := []
          data := [], pass := none }
      (s.mayGrant o n false = true → answers (.hamperAlloc [ask rank n]) s (fun t =>
          t.hamper.chains = [got s.hamper.nextId 0 n] ∧ t.hamper.waiting = [] ∧ t.mem = s.mem ∧ t.regs = s.regs))
        ∧ (∀ k m, k < rank → 1 ≤ m → s.mayGrant o (m + n) false = true →
          answers (.hamperAlloc [ask rank n, ask k m]) s (fun t =>
            t.hamper.chains = [got s.hamper.nextId 0 m, got (s.hamper.nextId + 1) m n] ∧ t.hamper.waiting = []
              ∧ t.mem = s.mem ∧ t.regs = s.regs)))
    ∧ (∀ (s : State) (a b : CellReq), s.hamper.waiting = [] → a.rank ≠ b.rank → answers (.hamperAlloc [a, b]) s (fun t =>
      exec (.hamperAlloc [b, a]) s = .next t))
    ∧ (∀ (s : State) (o n refs rank : Nat), ownOk (s.sect 5) o = true → 1 ≤ refs → refs ≤ 255 → 1 ≤ n →
      s.hamper.waiting = [] → s.mayGrant o n true = false → spWf s.regs = true → s.powered rMPOOL_DENY_CNT = true →
      let ask : CellReq := { rank := rank, owner := o, memory := true, contig := false, cells := n, refs := refs, src := none }
      answers (.hamperAlloc [ask]) s (fun t => t.hamper.chains = s.hamper.chains ∧ t.hamper.waiting = [ask]
          ∧ t.reg rMPOOL_DENY_CNT = satAdd (s.reg rMPOOL_DENY_CNT) 1 ∧ t.mem = s.mem))
    ∧ (∀ (s : State) (cell n k : Nat) (copy : CellReq) (c : Chain), s.hamper.chains = [c] →
      c.cells.head? = some (false, cell) → (∀ e ∈ c.cells, e.1 = false) →
      (c.ref = n → answers (.hamperRelease (false, cell) n) s (fun t => t.hamper.chains = [] ∧ t.mem = s.mem ∧ t.regs = s.regs))
        ∧ (n < c.ref → answers (.hamperRelease (false, cell) n) s (fun t =>
          t.hamper.chains = [{ c with ref := c.ref - n }] ∧ t.mem = s.mem ∧ t.regs = s.regs))
        ∧ (c.ref + k ≤ 255 → answers (.hamperAddRef (false, cell) [k] ⟨0, copy⟩) s (fun t =>
          t.hamper.chains = [{ c with ref := c.ref + k }] ∧ t.mem = s.mem ∧ t.regs = s.regs))
        ∧ (c.ref + k ≤ 255 → 1 ≤ n → n < c.ref + k → answers (.hamperAddRef (false, cell) [k] ⟨n, copy⟩) s (fun t =>
          t.hamper.chains = [{ c with ref := c.ref + k - n }] ∧ t.mem = s.mem ∧ t.regs = s.regs)))
    ∧ (∀ (s : State) (cell n : Nat) (c : Chain), s.sound → s.hamper.chains = [c] → c.cells.head? = some (true, cell) →
      c.poison = [] → n < c.ref → answers (.hamperRelease (true, cell) n) s (fun t =>
        t.hamper.chains = [{ c with ref := c.ref - n }] ∧ t.regs = s.regs
          ∧ (∀ i, c.cells = [(true, cell)] → i = fld (s.sect 5) 16 8 + 4 * cell →
            t.rd i 4 = toLE 4 (2 ^ 21 + 2 ^ 22 * (c.ref - n)))))
    ∧ (∀ (s : State) (m : Bool) (cell n k : Nat) (copy : CellReq), spWf s.regs = true → s.powered rREF_ERR_CNT = true →
      (s.headedBy m cell = none → answers (.hamperRelease (m, cell) n) s (fun t => t.hamper = s.hamper
          ∧ t.reg rREF_ERR_CNT = satAdd (s.reg rREF_ERR_CNT) n ∧ t.mem = s.mem))
        ∧ (s.headedBy m cell = none ∨ (∃ c, s.headedBy m cell = some c ∧ 255 < c.ref + k) → copy.memory = false →
          copy.contig = false → s.mayGrant copy.owner copy.cells false = true →
          answers (.hamperAddRef (m, cell) [k] ⟨0, copy⟩) s (fun t =>
            t.reg rREF_ERR_CNT = satAdd (s.reg rREF_ERR_CNT) 1 ∧ t.mem = s.mem
              ∧ ∃ e : Chain, t.hamper.chains = s.hamper.chains ++ [e] ∧ e.ref = k ∧ e.owner = copy.owner
                ∧ e.data = (match s.headedBy m cell with
                  | some c => c.data
                  | none => if m then s.rd (s.cellAddr cell) (copy.cells * 256)
                    else ((s.hamper.left.find? (fun e => e.1 == cell)).map (·.2)).getD [])
                ∧ (∀ x ∈ e.cells, x.1 = false ∧ x.2 ∉ takenCells s.hamper false))))

/-! ### Links -/

/-- R291, R294, R297, R299, R302: an in-order DATA flit on an agreed channel advances the channel's receive number; a
message of one flit stands in the inbox with its slot held, and the slot is free once the message is taken; an IDLE flit
delivers nothing and its CREDIT is taken up where it is newer; a flit that fails its CRC is counted, in the port and over
the lifetime. Of attached memory only bytes of the memory pool may change. -/
def Obligations.FlitsArrive : Prop :=
  (∀ (s : State) (c : Chan) (f : Flit) (b : Bytes) (ps : Nat), s.chan c.id = some c → s.hears c.port = true →
      c.active = true → parseFlit b = some f →
      let keeps (t : State) : Prop := poolOnly s t
      (f.kind = 1 → f.seq = c.rxX % 65536 → c.held = [] → answers (.dataFlitReceive c.id ⟨b, ps⟩) s (fun t =>
          keeps t ∧ ∃ e, t.chan c.id = some e ∧ e.rxX = c.rxX + 1 ∧ e.held = []))
        ∧ (f.kind = 1 → f.seq = c.rxX % 65536 → c.held = [] → c.asm = [] → s.link.slots = [] → s.link.early = [] →
          let m := msgOf c f.owner f.payload
          m.length + 16 ≤ f.payload.length → bit m.flags 0 = false → m.typ ≠ 7 → m.typ ≠ 2 → reservedTyp m.typ = false →
          s.isDead m.src = false → (∀ k ∈ s.link.inbox, keyOf k ≠ keyOf m) →
          s.rxNext m.src f.owner = (m.msgNo, []) → answers (.dataFlitReceive c.id ⟨b, ps⟩) s (fun t =>
            t.link.inbox = s.link.inbox ++ [m] ∧ (t.chan c.id).map (·.freed) = some c.freed
              ∧ ((t.take m).chan c.id).map (·.freed) = some (c.freed + 1)))
        ∧ (f.kind = 0 → answers (.idleFlitReceive c.id ⟨b, ps⟩) s (fun t => keeps t
          ∧ (s.link.early = [] → s.link.slots = [] → t.link.inbox = s.link.inbox)
          ∧ ∃ e, t.chan c.id = some e ∧ e.rxX = c.rxX ∧ e.held = c.held
            ∧ ((f.credit + 4096 - c.credSeen) % 4096 ≤ 1000 → e.credSeen = f.credit))))
    ∧ (∀ (s : State) (p : Nat), s.sound → p < 36 → s.hears p = true → stage (s.port p) ≠ 2 → (s.port p).failRun < 15 →
      (s.port p).bucket < 1023 → p < s.recd.linkErr.length → s.powered (rLK_CRC_CNT p) = true →
      answers (.failedFlit p) s (fun t => t.reg (rLK_CRC_CNT p) = satAdd (s.reg (rLK_CRC_CNT p)) 1
        ∧ t.recd.linkErr.getD p 0 = s.recd.linkErr.getD p 0 + 1 ∧ (t.port p).bucket = (s.port p).bucket + 1
        ∧ (t.port p).failRun = (s.port p).failRun + 1 ∧ (t.port p).state = (s.port p).state ∧ t.mem = s.mem))

/-- R297, R298: a NACK names the missing numbers once, a timeout names the number again and the ninth failure retires
the port with code 2, a NACK received marks the flits for sending, and a re-send leaves with its original header, RESEND
set and the mark clear. -/
def Obligations.ResendsComplete : Prop :=
  (∀ (s : State) (c : Chan) (x n : Nat), s.chan c.id = some c → c.id < 31 → c.missing = [(x, n)] → s.hears c.port = true →
      (n = 0 → c.markDue = false → answers (.nackSend c.id) s (fun t => (t.chan c.id).map (·.missing) = some [(x, 1)]
          ∧ t.link.frames = s.link.frames ++ [(c.port, flitBytes (chanFlit c 2 8 (nackPayload [x])))] ∧ t.mem = s.mem))
        ∧ (1 ≤ n → n < 8 → c.markDue = false → answers (.nackTimeout c.id (x % 65536)) s (fun t =>
          (t.chan c.id).map (·.missing) = some [(x, n + 1)]
            ∧ t.link.frames = s.link.frames ++ [(c.port, flitBytes (chanFlit c 2 8 (nackPayload [x])))] ∧ t.mem = s.mem))
        ∧ (8 ≤ n → c.port < s.link.ports.length → (s.port c.port).absent = false → answers (.nackTimeout c.id (x % 65536)) s
          (fun t => (t.port c.port).state = 7 ∧ (t.port c.port).fail = 2
            ∧ poolOnly s t)))
    ∧ (∀ (s : State) (c : Chan) (f : Flit) (b : Bytes) (u : TxFlit), s.chan c.id = some c → s.hears c.port = true →
      ackedBy f.ack u.x = false → c.waiting = [] → parseFlit b = some f → isControl 1 f = true → fld f.payload 2 2 = 1 → c.unacked = [u] →
      u.sends < 9 → fld f.payload 16 2 = u.x % 65536 → answers (.nack c.id b) s (fun t =>
        (t.chan c.id).map (·.unacked) = some [{ u with owed := true }]
          ∧ poolOnly s t))
    ∧ (∀ (s : State) (c : Chan) (u : TxFlit), s.chan c.id = some c → c.id < 31 → s.active c.port = true →
      c.unacked = [u] → u.owed = true → s.replayUnderTest c.port u.x = false → answers (.resend c.id) s (fun t =>
        (t.chan c.id).map (·.unacked) = some [{ u with owed := false, sends := u.sends + 1 }]
          ∧ t.link.frames = s.link.frames ++ [(c.port, flitBytes { u.flit with resend := true })] ∧ t.mem = s.mem))

/-- R302, R306: alignment ends PHY_UP, a bound restarts training, ten milliseconds in RETRAIN retire the port with code
3, an ACTIVE port that loses alignment enters RETRAIN and is counted, and the bucket leaks after its period. -/
def Obligations.TrainingCompletes : Prop :=
  ∀ (s : State) (p : Nat), s.sound → p < 36 →
    let keeps (t : State) : Prop := poolOnly s t
    ((s.port p).state = 1 → answers (.phyAlign p) s (fun t => (t.port p).state = 2 ∧ (∀ q, q ≠ p → t.port q = s.port q)
        ∧ t.mem = s.mem ∧ t.regs = s.regs))
      ∧ (1 ≤ (s.port p).state → (s.port p).state ≤ 4 → answers (.trainBoundExpire p) s (fun t => (t.port p).state = 1
        ∧ t.mem = s.mem ∧ t.regs = s.regs))
      ∧ ((s.port p).state = 6 → (s.port p).absent = false → answers (.retrainExpire p) s (fun t =>
        (t.port p).state = 7 ∧ (t.port p).fail = 3 ∧ bit t.units.links p = false ∧ keeps t))
      ∧ ((s.port p).state = 5 → p < s.recd.linkRt.length →
        answers (.alignmentLoss p) s (fun t => (t.port p).state = 6 ∧ (t.port p).sub = 1
          ∧ t.recd.linkRt.getD p 0 = s.recd.linkRt.getD p 0 + 1 ∧ t.link.reportDue = true ∧ keeps t))
      ∧ (s.leakDue (keyLink p) 1024 (s.port p).bucket = true → answers (.lkBucketLeak p) s (fun t =>
        (t.port p).bucket = (s.port p).bucket - 1 ∧ (t.port p).state = (s.port p).state ∧ t.mem = s.mem
          ∧ t.regs = s.regs))

/-- R301, R303, R304, R307: a HELLO with the wrong identity retires the port with code 6 and with the wrong mode with
code 7, an agreeing one takes up the session and the share; a PROBE request is answered and a 64th reply brings the port
ACTIVE; RETIRE retires this end of an intra-pod port with code 5; a HELLO leaves while the port is in that state. -/
def Obligations.HelloAndProbeComplete : Prop :=
  (∀ (s : State) (c : Chan) (f : Flit) (b : Bytes), s.chan c.id = some c → s.hears c.port = true →
      c.port < s.link.ports.length → (s.port c.port).absent = false → parseFlit b = some f →
      let id := fld f.payload 2 1 = s.hdrF 0x18 1 ∧ fld f.payload 3 1 = c.peer / 32 ∧ fld f.payload 4 1 = c.peer % 32
        ∧ (c.port < 31 → fld f.payload 5 1 = 30 - c.port)
      let keeps (t : State) : Prop := poolOnly s t
      (isControl 2 f = true → stage (s.port c.port) = 3 → ¬ id → answers (.hello c.id b) s (fun t =>
          (t.port c.port).state = 7 ∧ (t.port c.port).fail = 6 ∧ keeps t))
        ∧ (isControl 2 f = true → stage (s.port c.port) = 3 → id → fld f.payload 6 1 ≠ (s.port c.port).mode →
          answers (.hello c.id b) s (fun t => (t.port c.port).state = 7 ∧ (t.port c.port).fail = 7 ∧ keeps t))
        ∧ (isControl 2 f = true → (s.port c.port).state = 3 → id → fld f.payload 6 1 = (s.port c.port).mode →
          c.active = false → c.wasActive = false → c.helloRun < 15 → answers (.hello c.id b) s (fun t => ∃ e, t.chan c.id = some e
            ∧ e.session = some (fld f.payload 8 2) ∧ e.credits = fld f.payload 10 2 ∧ e.lastHello = f.payload.take 12
            ∧ (t.port c.port).state = 3 ∧ t.mem = s.mem))
        ∧ (isControl 6 f = true → c.id < 31 → (s.port c.port).state = 5 → answers (.retire c.id b) s (fun t =>
          (t.port c.port).state = 7 ∧ (t.port c.port).fail = 5 ∧ keeps t))
        ∧ (isControl 5 f = true → fld f.payload 1 1 = 0 → c.id < 31 → c.waiting = [] → c.markDue = false →
          s.link.slots = [] → s.link.early = [] → (s.port c.port).state = 5 →
          ∀ rt, answers (.probe c.id b rt) s (fun t => t.link.frames = s.link.frames
            ++ [(c.port, flitBytes (chanFlit c 2 8 ([5, 1] ++ zeros 6 ++ slice f.payload 8 8)))] ∧ keeps t))
        ∧ (isControl 5 f = true → fld f.payload 1 1 = 1 → (s.port c.port).state = 4 →
          (s.port c.port).probes.length = 63 → ∀ rt, answers (.probe c.id b rt) s (fun t =>
            (t.port c.port).state = 5 ∧ t.link.reportDue = true ∧ keeps t)))
    ∧ (∀ (s : State) (c : Chan), s.chan c.id = some c → c.id < 31 → s.hears c.port = true → stage (s.port c.port) = 3 →
      answers (.helloSend c.id) s (fun t => t.link.frames.length = s.link.frames.length + 1 ∧ t.mem = s.mem
        ∧ t.regs = s.regs))

/-- R300, R305, R309 to R311: a port in waiting takes service at a count that is a multiple of 64 with no partition up; a
RELAY_REJECT excludes the relay it names; a RELAYED message for another member goes on over the destination's port where
that is ACTIVE, unchanged: as a whole with its cells where all of it is here, else the flits that have their staging cells,
while the rest is still awaited, and one none of whose flits has its cells waits; where the port is not ACTIVE it is
discarded and a RELAY_REJECT drawn; one that goes on already, or was discarded, is passed on no second time; an uplink
channel whose ACK moved sends one IDLE frame; a lost frame counts eight failed flits; the shares of the channels of a port,
and of no other port, are divided once nothing is unacknowledged at either end. -/
def Obligations.RelayAndUplinkComplete : Prop :=
  (∀ (s : State) (p : Nat), s.sound → p < 36 → (s.port p).pendSvc = true → (∀ q ∈ s.parts, q.state ≠ 1) →
      s.stitch.count % 64 = 0 → answers (.portServiceStart p) s (fun t => (t.port p).pendSvc = false
        ∧ (t.port p).relayed = none ∧ (t.port p).excluded = [] ∧ t.mem = s.mem ∧ t.regs = s.regs))
    ∧ (∀ (s : State) (c : Chan) (f : Flit) (b : Bytes), s.sound → s.chan c.id = some c → s.hears c.port = true →
      c.active = true → parseFlit b = some f → isControl 7 f = true → fld f.payload 4 2 / 32 = s.pod →
      s.portTo (fld f.payload 4 2 % 32) < 31 →
      (s.port (s.portTo (fld f.payload 4 2 % 32))).relayed = some (c.peer % 32) →
      answers (.relayReject c.id b) s (fun t =>
        (t.port (s.portTo (fld f.payload 4 2 % 32))).excluded
            = (s.port (s.portTo (fld f.payload 4 2 % 32))).excluded ++ [c.peer % 32]
          ∧ poolOnly s t))
    ∧ (∀ (s : State) (m : Msg) (c : Chan), s.link.inbox = [m] → bit m.flags 0 = true → m.dst ≠ s.member →
      m.dst / 32 = s.pod → s.chan (s.portTo (m.dst % 32)) = some c →
      let goes (t : State) (body : Bytes) (via : Option MsgKey) (cells : List Nat) : Prop := t.mem = s.mem ∧ t.regs = s.regs
        ∧ ∃ x ∈ t.link.sent, x.chan = s.portTo (m.dst % 32) ∧ x.owner = m.flags / 16 ∧ x.dst = m.dst ∧ x.src = m.src
          ∧ x.flags = m.flags ∧ x.msgNo = m.msgNo ∧ x.typ = m.typ ∧ x.trigger = m.trigger ∧ x.len = m.length ∧ x.body = body
          ∧ x.via = via ∧ x.chains = cells
      (s.active c.port = true → s.link.slots.find? (holdIs m) = none → answers (.relayForward m) s (fun t =>
          goes t m.body none [] ∧ t.link.inbox = []))
        ∧ (∀ h, s.active c.port = true → s.link.slots = [h] → holdIs m h = true → h.fate = 0 →
          (h.got ≤ h.n → answers (.relayForward m) s (fun t => t.link.inbox = [m] ∧ t.link.sent = s.link.sent
              ∧ poolOnly s t))
            ∧ (h.n = 0 → 0 < h.got → h.whole = true → answers (.relayForward m) s (fun t =>
              goes t m.body none h.chains ∧ t.link.inbox = [] ∧ t.link.slots = []))
            ∧ (h.n < h.got → h.whole = false ∨ h.n ≠ 0 → answers (.relayForward m) s (fun t =>
              goes t (m.body.take (496 * (h.got - h.n) - 16)) (some h.key) h.chains ∧ t.link.inbox = [m]
                ∧ t.link.slots = [{ h with chains := [], fate := 1 }])))
        ∧ (∀ h, s.link.slots = [h] → holdIs m h = true → h.fate ≠ 0 → answers (.relayForward m) s (fun t => t = s))
        ∧ (∀ e, s.active c.port = false → s.chan m.chan = some e → e.id < 31 → s.hears e.port = true →
          (s.link.slots.find? (holdIs m) = none → answers (.relayForward m) s (fun t => t.link.inbox = []
              ∧ t.link.sent = s.link.sent ∧ t.link.frames.length = s.link.frames.length + 1 ∧ poolOnly s t))
            ∧ (∀ h, s.link.slots = [h] → holdIs m h = true → h.fate = 0 → answers (.relayForward m) s (fun t =>
              t.link.sent = s.link.sent ∧ t.link.frames.length = s.link.frames.length + 1 ∧ poolOnly s t
                ∧ t.link.slots = if h.whole then [] else [{ h with chains := [], fate := 2, n := 0 }]))))
    ∧ (∀ (s : State) (c : Chan), s.chan c.id = some c → 31 ≤ c.id → 31 ≤ c.port → s.active c.port = true →
      c.lastAck ≠ c.rxX % 65536 → c.markDue = false → answers (.uplinkIdleFrame c.id) s (fun t =>
        t.link.frames = s.link.frames ++ [(c.port, s.frame c ((List.replicate 8 (idleFlit c)).map flitBytes))]
        ∧ (t.chan c.id).map (fun e => (e.lastAck, e.lastCred)) = some (c.rxX % 65536, c.freed % 4096) ∧ t.mem = s.mem))
    ∧ (∀ (s : State) (p : Nat), s.sound → 31 ≤ p → p < 36 → (s.port p).state = 5 → s.boot.rstLow = false →
      (s.port p).failRun < 8 → (s.port p).bucket < 1016 → s.powered (rLK_CRC_CNT p) = true →
      answers (.uplinkFrameLost p) s (fun t => (t.port p).bucket = (s.port p).bucket + 8
        ∧ (t.port p).failRun = (s.port p).failRun + 8 ∧ (t.reg (rLK_CRC_CNT p)) = satAdd (s.reg (rLK_CRC_CNT p)) 8
        ∧ t.mem = s.mem))
    ∧ (∀ (s : State) (p : Nat), s.sound → p < 36 → (s.port p).rediv = true →
      (∀ c ∈ s.link.chans, c.port = p →
        c.unacked = [] ∧ c.held = [] ∧ c.missing = [] ∧ c.lastAck = c.rxX % 65536) →
      answers (.uplinkShareRedivide p) s (fun t => (t.port p).rediv = false
        ∧ (∀ c ∈ t.link.chans, 31 ≤ c.id → c.port = p →
          c.share = 1000 / max 1 (t.link.chans.filter (fun e => e.port == p)).length)
        ∧ (∀ c ∈ t.link.chans, c.port ≠ p → c ∈ s.link.chans)
        ∧ t.link.frames = s.link.frames ∧ t.mem = s.mem ∧ t.regs = s.regs))

/-! ### Launch and layer passes -/

/-- R118 to R120: a ready member sends READY once, the manager keeps what each member holds, a LAUNCH fixes the member's
launch stitch or, where it has passed, the next frame and the count of late launches. -/
def Obligations.LaunchMessagesComplete : Prop :=
  (∀ (s : State) (p : Nat) (x : StepSt), s.sound → p < 8 → (s.part p).step = some x → x.launched = false →
      x.launchAt = none → x.readySent = false → s.inService = true → s.readyOk p = true → s.mgrOf s.pod = s.member →
      answers (.readySend p) s (fun t => (t.part p).step = some { x with readySent := true } ∧ t.mem = s.mem
        ∧ t.regs = s.regs ∧ t.link.inbox.map (fun m => (m.typ, m.body)) = s.link.inbox.map (fun m => (m.typ, m.body))
          ++ [(0x10, bodyReady x.stepNo x.group s.member ((s.part p).tables.map (·.live.epoch))
              ((s.part p).tables.map TablePair.pending))]))
    ∧ (∀ (s : State) (m : Msg), due s m 0x10 → readyLayout m.body = true → s.podMgr = true →
      s.gValid (fld m.body 8 1) = true → fld m.body 10 2 ∈ s.members (fld m.body 8 1) → fld m.body 10 2 / 32 = s.pod →
      s.isDead (fld m.body 10 2) = false → answers (.ready m) s (fun t => ∃ l ∈ t.mgr.launches,
        l.group = fld m.body 8 1 ∧ l.stepNo = fld m.body 0 8
          ∧ (fld m.body 10 2, epochsAt m.body 16, epochsAt m.body 32) ∈ l.heard))
    ∧ (∀ (s : State) (m : Msg), due s m 0x11 → readyLayout m.body = true → s.headMgr = true →
      s.gValid (fld m.body 8 1) = true → fld m.body 10 2 / 32 ∈ s.otherPods (fld m.body 8 1) →
      s.isDead (fld m.body 10 2) = false → answers (.podReady m) s (fun t => ∃ l ∈ t.mgr.launches,
        l.group = fld m.body 8 1 ∧ l.stepNo = fld m.body 0 8
          ∧ (fld m.body 10 2 / 32, epochsAt m.body 16, epochsAt m.body 32) ∈ l.pods))
    ∧ (∀ (s : State) (m : Msg) (x : StepSt), s.sound → due s m 0x12 → m.body.length = 64 → rsv m.body 9 7 = true →
      rsv m.body 40 24 = true → s.gValid (fld m.body 8 1) = true → s.isDead m.src = false → m.src / 32 = s.pod →
      s.gPart (fld m.body 8 1) < 8 → (s.part (s.gPart (fld m.body 8 1))).step = some x → x.group = fld m.body 8 1 →
      x.stepNo = fld m.body 0 8 → x.launchAt = none → s.powered rLATE_LAUNCH_CNT = true →
      (s.stitch.count < fld m.body 16 8 → answers (.launch m) s (fun t =>
          (t.part (s.gPart (fld m.body 8 1))).step
            = some { x with launchAt := some (fld m.body 16 8), epochs := epochsAt m.body 24 }
          ∧ t.link.inbox = s.link.inbox.erase m ∧ poolOnly s t ∧ t.regs = (s.take m).regs))
        ∧ (fld m.body 16 8 ≤ s.stitch.count → answers (.launch m) s (fun t =>
          (t.part (s.gPart (fld m.body 8 1))).step = some { x with
            launchAt := some (s.frameLen * (s.stitch.count / s.frameLen + 1)), epochs := epochsAt m.body 24 }
          ∧ t.reg rLATE_LAUNCH_CNT = satAdd (s.reg rLATE_LAUNCH_CNT) 1 ∧ (t.reg rSTITCH_EVT).getLsbD 4 = true)))

/-- R116, R120, R121, R256, R283, R384: in its launch stitch a step asks for its records, and once they are here it is
launched: with that stitch as its launch stitch, the tables bound to its epochs and a ledger entry of its own; while they
are on the way nothing changes. The next pass starts with the tokens of the kept segments. -/
def Obligations.LaunchAndPassStart : Prop :=
  (∀ (s : State) (p : Nat) (x : StepSt), s.sound → p < 8 → (s.part p).step = some x → s.launchDue x = true →
      answers (.stepLaunch p) s (fun t => (t.part p).step = some { x with askedAt := some s.stitch.count }
        ∧ ((s.tr p (255 * 2 ^ 56) 256 2).isSome = true → t.reading (.record p) = true) ∧ t.mem = s.mem ∧ t.regs = s.regs))
    ∧ (∀ (s : State) (p a : Nat) (x : StepSt), s.sound → p < 8 → (s.part p).step = some x → x.launched = false →
      x.askedAt = some a →
      (s.reading (.record p) = true → answers (.stepLaunch p) s (fun t => t = s))
        ∧ (∀ e c j l, s.reading (.record p) = false → s.units.arraysPend = 0 → s.units.foldsPend = 0 →
          (s.part p).state = 1 → (s.part p).tables.length = 4 → s.readEngines p = some (e, c) →
          s.readRecords p = some (j, l) → answers (.stepLaunch p) s (fun t => (∃ y, (t.part p).step = some y
              ∧ y.launched = true ∧ y.launchAt = some a ∧ y.stepNo = x.stepNo ∧ y.ledger = (s.part p).ledNext
              ∧ y.engRec = e ∧ y.combRec = c)
            ∧ (∀ k, k < 4 → t.tab p k = (s.tab p k).bind (x.epochs.getD k 0)) ∧ (t.part p).jrnRec = j
            ∧ (t.part p).ledRec = l ∧ (t.part p).state = 1)))
    ∧ (∀ (s : State) (p : Nat) (x : StepSt), s.sound → p < 8 → (s.part p).step = some x →
      s.passDue p x x.nextLayer = true →
      (s.handleAddrs p x x.nextLayer).all (fun a => (s.tr p a 8 2).isSome) = true →
      answers (.passStart p) s (fun t => ∃ y q, (t.part p).step = some y ∧ y.nextLayer = x.nextLayer + 1
        ∧ y.passes = x.passes ++ [q] ∧ q.layer = x.nextLayer ∧ q.start = s.stitch.count
        ∧ q.toks = passToks x x.nextLayer ∧ t.mem = s.mem))

/-- R18, R28, R183, R187 to R207: a resident row block of a pass or of a batch command is normalised; every instruction
planned for a row block spans 1, 2 or 4 arrays; the next run planned for an array issues on the arrays it spans once
nothing holds it back, and is counted; a run whose checks pass leaves its array, its partials stand in the accumulators
and are added; the first failure plans it once more as the array's next run, the second retires the array; the bucket
leaks after its period. -/
def Obligations.PressCompletes : Prop :=
  (∀ (s : State) (p b : Nat) (ref : JobRef) (j : Job), s.sound → p < 8 → s.job p = some (ref, j) → b ∉ j.pass.blocks →
      blockToks j.pass b ≠ [] → s.mayIssue p = true → s.rowsAwaited p ref j.pass (blockToks j.pass b) = false →
      s.jobHeld ref = false → b < 2 ∨ (blockToks j.pass (b - 2)).all (s.rowOver ref j) = true →
      let done (r : Pass) : Prop := r.blocks = j.pass.blocks ++ [b] ∧ r.tickets = j.pass.tickets
        ∧ r.toks.map (·.row) = j.pass.toks.map (·.row)
      (∀ l, ref = .step l → s.pass p l = some j.pass → answers (.normalise p b) s (fun t =>
          (∃ r, t.pass p l = some r ∧ done r) ∧ t.mem = s.mem))
        ∧ (∀ g c, ref = .batch g → g < 64 → (s.group g).cur = some c → c.job = some j → answers (.normalise p b) s (fun t =>
          (∃ d r, (t.group g).cur = some d ∧ d.job = some r ∧ done r.pass) ∧ t.mem = s.mem)))
    ∧ (∀ (p b : Nat) (ref : JobRef) (j : Job) (major : Bool) (units : List (List Nat)), (∀ u ∈ units, u ≠ []) →
      ∀ r ∈ planBlock p ref j b major units, r.span.length = 1 ∨ r.span.length = 2 ∨ r.span.length = 4)
    ∧ (∀ (s : State) (p a n : Nat) (ref : JobRef) (j : Job) (r : Run), s.sound → p < 8 → s.job p = some (ref, j) →
      let q := s.planned p ref j
      firstFor (s.openRuns ref q) a = some r → (a, n) ∈ r.span → s.runReady p j (s.openRuns ref q) r = true →
      answers (.pressRunIssue p a r.block n r.setNo r.seg) s (fun t =>
        t.press.runs = s.press.runs ++ r.span.map (fun x => { r with span := [x] })
          ∧ ((r.span.map (·.1)).Nodup → a < s.press.runCnt.length →
            t.press.runCnt.getD a 0 = s.press.runCnt.getD a 0 + 1)
          ∧ (∀ l w, ref = .step l → s.pass p l = some w → ∃ v, t.pass p l = some v ∧ v.plan = q.plan.erase r)
          ∧ t.mem = s.mem ∧ t.regs = s.regs))
    ∧ (∀ (s : State) (r : Run) (a n l k : Nat) (q : Pass) (us : List Tok) (errs : List CellErr), s.sound →
      s.press.runs = [r] → r.span = [(a, n)] → r.job = .step l → r.part < 8 → s.curPass r.part = some q → q.layer = l →
      s.pass r.part l = some q →
      let e := s.layerEnt r.part l
      let d := s.runData r.part e (s.profEnt r.part l) n r.seg k us
      let ps := withErrs k errs d.parts
      let c := runChecks k ((s.press.runCnt.getD a 1 - 1) % k) errs d.acts d.wts ps
      setOf (leEtype e) (blockToks q r.block) r.setNo = some (us, k) →
      (c.bad = false → r.retry = false → answers (.pressRunEnd a errs) s (fun t => t.press.runs = []
          ∧ t.press.runCnt = s.press.runCnt ∧ t.mem = s.mem
          ∧ (a / 4 < s.cores.length → a % 4 < (s.core (a / 4)).acc.length →
            (t.core (a / 4)).acc.getD (a % 4) [] = accOf k ps d.idle)
          ∧ ∃ w, t.pass r.part l = some w
            ∧ w.toks = q.toks.map (fun u => match (us.map (·.row)).findIdx? (· == u.row) with
              | some i => addRun (s.assembler r.part n) n r.seg (ps.map (fun g => g.getD i [])) u
              | none => u)))
        ∧ (c.bad = true → r.retry = false → answers (.pressRunEnd a errs) s (fun t => t.press.runs = [] ∧ t.mem = s.mem
          ∧ ∃ w, t.pass r.part l = some w ∧ w.plan = { r with retry := true } :: q.plan ∧ w.toks = q.toks))
        ∧ (c.bad = true → r.retry = true → bit s.units.arrays a = true → answers (.pressRunEnd a errs) s (fun t =>
          t.press.runs = [] ∧ bit t.units.arrays a = false)))
    ∧ (∀ (s : State) (a : Nat), a < s.press.buckets.length →
      s.leakDue (keyArray a) 2097152 (s.press.buckets.getD a 0) = true → answers (.prBucketLeak a) s (fun t =>
        t.press.buckets.getD a 0 = s.press.buckets.getD a 0 - 1
          ∧ (∀ b, b ≠ a → t.press.buckets.getD b 0 = s.press.buckets.getD b 0)
          ∧ t.press.runs = s.press.runs ∧ t.mem = s.mem ∧ t.regs = s.regs))

/-- R227 to R229, R236 to R240, R247: a drained tile gives its local pair, the next pair merges into the token's, a token
whose tiles are all in is selected, and the pass is admitted once every token is. -/
def Obligations.SelectionCompletes : Prop :=
  (∀ (s : State) (p row : Nat) (ref : JobRef) (j : Job) (u : Tok), s.sound → p < 8 → s.jobTok p row = some (ref, j, u) →
      s.jobHeld ref = false → s.mayIssue p = true →
      let after (t : State) (f : Tok → Prop) : Prop := t.mem = s.mem ∧ t.regs = s.regs
        ∧ (∀ l, ref = .step l → s.pass p l = some j.pass → ∃ r v, t.pass p l = some r
          ∧ r.toks.find? (fun k => k.row == row && !k.whole) = some v ∧ f v)
        ∧ (∀ g c, ref = .batch g → g < 64 → (s.group g).cur = some c → c.job = some j → ∃ d r v,
          (t.group g).cur = some d ∧ d.job = some r ∧ r.pass.toks.find? (fun k => k.row == row && !k.whole) = some v ∧ f v)
      (∀ n, fld j.pr 0 1 = 0 → n < scoreTiles j.e → tileDrained j.pr j.e u n = true →
          (∀ x ∈ u.tiles, x.tile = n → x.pair = none) → answers (.tileReduce p row n) s (fun t => after t (fun v =>
            ∀ x ∈ v.tiles, x.tile = n → x.pair = some (tilePair (((s.tokYs p j.pr j.e u).drop (128 * n)).take 128)))))
        ∧ (∀ pr, (u.tiles.find? (fun x => x.tile == u.nextTile)).bind (·.pair) = some pr →
          answers (.softmaxMerge p row) s (fun t => after t (fun v => v.nextTile = u.nextTile + 1
            ∧ (v.m, v.z) = if u.nextTile = 0 then pr else mergePair (u.m, u.z) pr))))
    ∧ (∀ (s : State) (p row : Nat) (q : Pass) (u : Tok), s.sound → p < 8 → s.curTok p row = some (q, u) →
      s.pass p q.layer = some q → u.selected = false → s.mayIssue p = true →
      (List.range (scoreTiles (s.layerEnt p q.layer))).all (tileDrained (s.profEnt p q.layer) (s.layerEnt p q.layer) u) = true →
      u.nextTile = scoreTiles (s.layerEnt p q.layer) →
      let ch := choose (s.profEnt p q.layer) (s.mapEnt p q.layer)
        (s.tokYs p (s.profEnt p q.layer) (s.layerEnt p q.layer) u)
        (s.biasVals p (s.tab p 3).live.ix q.layer (leExperts (s.layerEnt p q.layer)))
      answers (.tokenSelect p row) s (fun t => t.mem = s.mem ∧ ∃ r v, t.pass p q.layer = some r
        ∧ r.toks.find? (fun k => k.row == row && !k.whole) = some v ∧ v.selected = true ∧ v.chosen = ch.1 ∧ v.cand = ch.2
        ∧ v.nullRt = ch.1.isEmpty))
    ∧ (∀ (s : State) (p : Nat) (q : Pass), s.sound → p < 8 → s.curPass p = some q → s.pass p q.layer = some q →
      s.mayIssue p = true → q.toks ≠ [] → (∀ u ∈ q.toks, u.selected = true ∨ u.whole = true) →
      let a := admitPass s.member (s.profEnt p q.layer) (s.mapEnt p q.layer) q.toks
      ((s.ticketCells p q.layer a.tickets).isSome = true → answers (.admission p) s (fun t =>
          ∃ r, t.pass p q.layer = some r ∧ r.admitted = true ∧ r.stage4 = true ∧ r.toks = a.toks ∧ r.tickets = a.tickets))
        ∧ (s.ticketCells p q.layer a.tickets = none → answers (.admission p) s (fun t => t.parts = s.parts
          ∧ t.hamper = s.hamper ∧ t.mem = s.mem)))

/-- R270 to R277, R325, R326: in a slot of the partition the end of the sort marks the micro-step; once its payload is
acknowledged the next one begins with what was deferred, or the source ends. -/
def Obligations.MicroStepsComplete : Prop :=
  (∀ (s : State) (p l : Nat) (x : StepSt) (q : Pass), s.sound → p < 8 → (s.part p).step = some x → s.pass p l = some q →
      x.launched = true → x.tornBy = none → q.ended = false → q.admitted = true → q.srcDone = false →
      (microOf q q.lastMicro).sorted = false → selfOut x l = false → s.sorterOpen p = true → s.mayIssue p = true →
      (((s.charge 13 (q.tickets.filter (fun k => k.micro == q.lastMicro && k.st == 1)).length).loseGone p l
        q.lastMicro).ownTally p l q.lastMicro (s.xCfg p l)).isSome = true →
      answers (.sortEnd p l) s (fun t => ∃ r, t.pass p l = some r ∧ (microOf r q.lastMicro).sorted = true
        ∧ r.lastMicro = q.lastMicro))
    ∧ (∀ (s : State) (p l : Nat) (x : StepSt) (q : Pass), s.sound → p < 8 → s.xLive p l = some (x, q) →
      s.pass p l = some q → q.admitted = true → q.srcDone = false → (microOf q q.lastMicro).sorted = true →
      (∀ o ∈ (microOf q q.lastMicro).out, o.2 ≠ 0) → selfOut x l = false → (microOf q q.lastMicro).acked = true →
      ((∃ k ∈ q.tickets, k.st = 2 ∨ k.st = 3) → q.lastMicro + 1 < s.microMax p l →
          s.stitch.count ≤ q.start + fld (s.profEnt p l) 20 2 → answers (.microStepStart p l) s (fun t =>
            ∃ r, t.pass p l = some r ∧ r.lastMicro = q.lastMicro + 1 ∧ r.srcDone = false ∧ poolOnly s t))
        ∧ ((∀ k ∈ q.tickets, k.st ≠ 2 ∧ k.st ≠ 3) → answers (.microStepStart p l) s (fun t =>
          ∃ r, t.pass p l = some r ∧ r.lastMicro = q.lastMicro ∧ r.srcDone = true)))

/-! ### The exchange -/

/-- R323, R325, R326: a ROSTER records its member's ACTIVE bit, the active set is fixed once every other member has been
heard, and a FINAL counts as an arrival with no ticket. -/
def Obligations.RosterAndFinalComplete : Prop :=
  (∀ (s : State) (m : Msg) (x : StepSt), s.sound → due s m 0x0B → m.owner < 8 → (s.part m.owner).step = some x →
      x.launched = true → x.tornBy = none → x.stepNo = fld m.body 0 8 → (∀ r ∈ x.rosters, r.1 ≠ fld m.body 10 2) →
      s.isDead (fld m.body 10 2) = false → m.src / 32 = s.pod → m.body.length = 16 → rsv m.body 12 4 = true →
      fld m.body 9 1 ≤ 1 → fld m.body 8 1 = x.group → fld m.body 10 2 ∈ s.members x.group →
      answers (.roster m) s (fun t => (t.part m.owner).step
          = some { x with rosters := x.rosters ++ [(fld m.body 10 2, fld m.body 9 1 == 1)] }
        ∧ t.link.inbox = s.link.inbox.erase m ∧ poolOnly s t ∧ refErrOnly s t))
    ∧ (∀ (s : State) (p : Nat) (x : StepSt), s.sound → p < 8 → (s.part p).step = some x → x.launched = true →
      x.aset = none → (∀ a ∈ s.members x.group, a ≠ s.member → (∃ r ∈ x.rosters, r.1 = a) ∨ s.isDead a = true) →
      answers (.activeSetFixed p) s (fun t => (∃ y, (t.part p).step = some y ∧ y.aset = some ((s.members x.group).filter
          (fun a => if a = s.member then x.active else x.rosters.contains (a, true)))) ∧ t.mem = s.mem ∧ t.regs = s.regs))
    ∧ (∀ (s : State) (m : Msg) (x : StepSt) (q : Pass), due s m 0x0A →
      meets s m.owner (fld m.body 0 8) (fld m.body 8 2) x q → x.tornBy = none → m.src / 32 = s.pod → m.body.length = 16 →
      rsv m.body 11 1 = true → rsv m.body 14 2 = true → fld m.body 12 2 < 512 →
      s.maySpeak x q (s.xCfg m.owner (fld m.body 8 2)) (fld m.body 12 2) (fld m.body 10 1) = true →
      rxOf (microOf q (fld m.body 10 1)) (fld m.body 12 2) = none → answers (.finalMsg m) s (fun t =>
        (∃ r, t.pass m.owner (fld m.body 8 2) = some r ∧ rxOf (microOf r (fld m.body 10 1)) (fld m.body 12 2)
            = some (emptyRx (fld m.body 12 2) m.src true))
          ∧ t.link.inbox = s.link.inbox.erase m ∧ poolOnly s t ∧ refErrOnly s t))

/-- R274, R281, R326, R334, R335: a TALLY with a sound layout and content is counted with its entries, and a GW_TALLY
opens its fan-out; a TALLY whose layout fails is recorded as corrupt and counts as one without tickets. -/
def Obligations.TalliesComplete : Prop :=
  (∀ (s : State) (m : Msg) (x : StepSt) (q : Pass), due s m 1 →
      let h := parseHdr m.body
      let c := s.xCfg m.owner h.layer
      let es := parseEntries m.body c.home
      meets s m.owner h.stepNo h.layer x q → s.maySpeak x q c h.src h.micro = true →
      rxOf (microOf q h.micro) h.src = none →
      (tallyLayout m.body false = true → h.dst = s.member → tallyContent m.body es (fun e => e.dest == s.member) = true →
          x.tornBy = none → (s.takeTally m.owner h.layer h.micro c h.src m.src es).isSome = true →
          answers (.tally m) s (fun t => (∃ r e, t.pass m.owner h.layer = some r
              ∧ rxOf (microOf r h.micro) h.src = some e ∧ e.entries = es ∧ e.tickets = entTickets es ∧ e.via = m.src
              ∧ e.state = 0 ∧ e.granted = if c.elastic then 0 else entTickets es)
            ∧ t.link.inbox = s.link.inbox.erase m ∧ poolOnly s t ∧ refErrOnly s t))
        ∧ (tallyLayout m.body false = false → s.powered rXCH_CORRUPT_CNT = true → answers (.tally m) s (fun t =>
          (∃ r, t.pass m.owner h.layer = some r ∧ rxOf (microOf r h.micro) h.src = some (emptyRx h.src m.src false))
            ∧ t.reg rXCH_CORRUPT_CNT = satAdd (s.reg rXCH_CORRUPT_CNT) 1 ∧ poolOnly s t)))
    ∧ (∀ (s : State) (m : Msg) (x : StepSt) (q : Pass), due s m 4 →
      let h := parseHdr m.body
      let c := s.xCfg m.owner h.layer
      let es := parseEntries m.body c.home
      meets s m.owner h.stepNo h.layer x q → s.maySpeak x q c h.src h.micro = true →
      fanOf (microOf q h.micro) h.src = none → tallyLayout m.body true = true → h.dst = s.member →
      tallyContent m.body es (fun e => decide (e.dest / 32 = s.pod)) = true →
      (s.fanTally m.owner h.layer h.micro x c h.src h.flags es).isSome = true → answers (.gwTally m) s (fun t =>
        (∃ r f, t.pass m.owner h.layer = some r ∧ fanOf (microOf r h.micro) h.src = some f ∧ f.entries = es
            ∧ f.piled = false ∧ f.sentGrant = false)
          ∧ t.link.inbox = s.link.inbox.erase m ∧ poolOnly s t))
    ∧ (∀ (s : State) (m : Msg), s.sound → due s m 1 → s.xWhen m.owner (parseHdr m.body).stepNo (parseHdr m.body).layer = 1 →
      s.powered rXCH_STALE_CNT = true → answers (.tally m) s (fun t => t.link.inbox = s.link.inbox.erase m
        ∧ t.reg rXCH_STALE_CNT = satAdd (s.reg rXCH_STALE_CNT) 1 ∧ t.parts = s.parts ∧ poolOnly s t))

/-- R252, R280, R326 to R329: with every source heard TALLY_IN is over; a GRANT and a GW_GRANT release their pile; a gateway
that has every answer sends its GW_GRANT. -/
def Obligations.GrantsComplete : Prop :=
  (∀ (s : State) (p l m : Nat) (x : StepSt) (q : Pass), s.sound → p < 8 → s.xLive p l = some (x, q) →
      s.pass p l = some q → m < (s.xCfg p l).most → (microOf q m).tallyIn = false →
      (m = 0 ∨ (microOf q (m - 1)).tallyIn = true) → sourcesAt x q s.member m ≠ [] →
      (∀ a ∈ sourcesAt x q s.member m, (rxOf (microOf q m) a).isSome = true) → answers (.tallyIn p l m) s (fun t =>
        (∃ r, t.pass p l = some r ∧ (microOf r m).tallyIn = true) ∧ t.mem = s.mem))
    ∧ (∀ (s : State) (m : Msg) (x : StepSt) (q : Pass), due s m 3 → m.body.length = 32 → rsv m.body 7 1 = true →
      rsv m.body 24 8 = true → fld m.body 2 2 = s.member → x.tornBy = none →
      meets s m.owner (fld m.body 8 8) (fld m.body 4 2) x q →
      (microOf q (fld m.body 6 1)).sorted = true → outOf (microOf q (fld m.body 6 1)) (fld m.body 0 2) = 0 →
      fld m.body 16 4 + fld m.body 20 4 = (bound q (fld m.body 6 1) (fld m.body 0 2)).length →
      answers (.grant m) s (fun t => (∃ r, t.pass m.owner (fld m.body 4 2) = some r
          ∧ outOf (microOf r (fld m.body 6 1)) (fld m.body 0 2) = 1
          ∧ (∀ k ∈ r.tickets, k.micro = fld m.body 6 1 → k.dest = fld m.body 0 2 → k.st ≠ 1))
        ∧ t.link.inbox = s.link.inbox.erase m ∧ poolOnly s t))
    ∧ (∀ (s : State) (m : Msg) (x : StepSt) (q : Pass), due s m 6 → m.body.length = 32 + 8 * fld m.body 16 2 →
      rsv m.body 7 1 = true → rsv m.body 18 14 = true → (∀ i, i < fld m.body 16 2 → fld m.body (34 + 8 * i) 2 < 2) →
      fld m.body 2 2 = s.member → x.tornBy = none →
      meets s m.owner (fld m.body 8 8) (fld m.body 4 2) x q →
      (microOf q (fld m.body 6 1)).sorted = true → outOf (microOf q (fld m.body 6 1)) (fld m.body 0 2) = 0 →
      (∀ e ∈ gwEntries m.body, e.1 / 32 = fld m.body 0 2 / 32 ∧ (e.2.2 = true → e.2.1 = 0)
        ∧ ∃ n, ((microOf q (fld m.body 6 1)).listed.find? (fun d => d.1 == e.1)).map (·.2) = some n ∧ 0 < n ∧ e.2.1 ≤ n) →
      answers (.gwGrant m) s (fun t => (∃ r, t.pass m.owner (fld m.body 4 2) = some r
          ∧ outOf (microOf r (fld m.body 6 1)) (fld m.body 0 2) = 1
          ∧ (∀ k ∈ r.tickets, k.micro = fld m.body 6 1 → k.dest / 32 = fld m.body 0 2 / 32 → k.st ≠ 1))
        ∧ t.link.inbox = s.link.inbox.erase m ∧ poolOnly s t))
    ∧ (∀ (s : State) (p l m src : Nat) (x : StepSt) (q : Pass) (f : GwFan), s.sound → p < 8 → (s.part p).step = some x →
      s.pass p l = some q → fanOf (microOf q m) src = some f → (∃ y ∈ q.micros, y.m = m) → (s.xCfg p l).elastic = true →
      f.dead = false → f.sentGrant = false → fanDests f ≠ [] →
      (∀ d ∈ fanDests f, (fanAnswer x l f d).isSome = true) → answers (.gwCollect p l m src) s (fun t =>
        (∃ r g, t.pass p l = some r ∧ fanOf (microOf r m) src = some g ∧ g.sentGrant = true) ∧ t.mem = s.mem))

/-- R276, R278, R281, R284, R289, R326, R330, R334: a PILE with a sound layout and content has arrived with its rows, or
stays where it is while an input run of the micro-step does not exist; a GW_PILE is fanned out once the transit buffers hold
its rows, those that took theirs as they arrived among them; the reservation becomes the run of a table entry; PILE_IN writes the work table and gives it the next tag, once the table
and output runs are granted. -/
def Obligations.PilesComplete : Prop :=
  (∀ (s : State) (m : Msg) (x : StepSt) (q : Pass) (e : RxTally), due s m 2 →
      let h := parseHdr m.body
      let c := s.xCfg m.owner h.layer
      let ws := parsePile m.body c.plen
      let y := microOf q h.micro
      meets s m.owner h.stepNo h.layer x q → rxOf y h.src = some e → x.tornBy = none → e.state = 0 →
      s.maySpeak x q c h.src h.micro = true → h.dst = s.member → pileLayout m.body false c.plen = true →
      h.tickets ≤ e.tickets → h.rows = h.tickets → rowsAscend ws = true →
      (∀ w ∈ ws, ∃ k ∈ e.entries, k.expert = w.expert) →
      (ws = [] ∨ y.ranAll = true → answers (.pile m) s (fun t =>
          (∃ r, t.pass m.owner h.layer = some r ∧ (rxOf (microOf r h.micro) h.src).map (·.state) = some 1
            ∧ (ws ≠ [] → RxPile.mk h.src m.src (bit h.flags 2) ws [] ∈ (microOf r h.micro).piles))
          ∧ t.link.inbox = s.link.inbox.erase m ∧ poolOnly s t ∧ refErrOnly s t))
        ∧ (ws ≠ [] → y.ranAll = false → answers (.pile m) s (fun t => t = s)))
    ∧ (∀ (s : State) (m : Msg) (x : StepSt) (q : Pass) (f : GwFan) (rs : List GwRow), due s m 5 →
      let h := parseHdr m.body
      let c := s.xCfg m.owner h.layer
      meets s m.owner h.stepNo h.layer x q → fanOf (microOf q h.micro) h.src = some f → f.dead = false →
      f.piled = false → h.src ∈ x.aset.getD [] → goneFrom x h.src h.layer false = false → h.dst = s.member →
      parseGwPile m.body c.plen = some rs →
      gwContent rs (fun e d => decide (d / 32 = s.pod) && (replicasOf c.mp e).contains d && decide (e < c.experts)) = true →
      let came := (s.claim m).1
      let v := (s.claim m).2.onFan m.owner h.layer h.micro h.src (fun f => { f with cells := f.cells ++ came })
      let u := v.transitRows m.owner h.layer h.micro h.src c.plen (rs.drop (f.cells ++ came).length)
      ∀ g, (u.pass m.owner h.layer).bind (fun r => fanOf (microOf r h.micro) h.src) = some g →
      (rs.length ≤ g.cells.length → answers (.gwPile m) s (fun t => (∃ r, t.pass m.owner h.layer = some r
          ∧ (fanOf (microOf r h.micro) h.src).map (fun k => (k.piled, k.cells)) = some (true, []))
        ∧ t.link.inbox = s.link.inbox.erase m ∧ poolOnly s t))
        ∧ (g.cells.length < rs.length → answers (.gwPile m) s (fun t => t = u ∧ t.link.inbox = s.link.inbox)))
    ∧ (∀ (s : State) (p l m : Nat) (x : StepSt) (q : Pass) (a b n : Nat), s.sound → p < 8 →
      s.xLive p l = some (x, q) → s.pass p l = some q → (microOf q m).runs = [] →
      s.runSizes p l x q (microOf q m) = some [(a, b, n)] →
      (s.runFromReserved (s.xCfg p l).owner (n * (s.xCfg p l).cells) (some (p, l))).isSome = true →
      answers (.inputRunAlloc p l m) s (fun t => (∃ r i, t.pass p l = some r ∧ (microOf r m).runs = [(a, b, n, i)]
          ∧ (microOf r m).ranAll = true ∧ (microOf r m).piles = (microOf q m).piles
          ∧ (microOf r m).resv = (microOf q m).resv - n * (s.xCfg p l).cells)
        ∧ poolOnly s t))
    ∧ (∀ (s : State) (p l m : Nat) (x : StepSt) (q : Pass), s.sound → p < 8 → s.xLive p l = some (x, q) →
      s.pass p l = some q → pilesIn x q (microOf q m) s.member = true →
      let y := microOf q m
      let es := s.entriesOf p l y
      let keys := (filled es).map (fun e => (e.1, e.2.1))
      let sizes := tableCells es.length :: (filled es).map (fun e => e.2.2.length * outCells (s.xCfg p l).k)
      let runs := (s.allocRuns (s.xCfg p l).owner (some (p, l)) (sizes.drop y.tabRuns.length)).1
      (es = [] → answers (.pileIn p l m) s (fun t => (∃ r, t.pass p l = some r
          ∧ (microOf r m).pileIn = true ∧ (microOf r m).destDone = true) ∧ t.tabs = s.tabs
          ∧ ((∀ r ∈ y.piles, r.cells = []) → t.mem = s.mem)))
        ∧ (es ≠ [] → (∀ i, i < keys.length →
            (runOf y (keys.getD i (0, 0)).1 (keys.getD i (0, 0)).2 (chunkNo keys i)).isSome = true) →
          (y.tabRuns.length + runs.length = sizes.length → answers (.pileIn p l m) s (fun t =>
            (∃ r, t.pass p l = some r ∧ (microOf r m).pileIn = true ∧ (microOf r m).tableTag = some s.nextTag)
              ∧ (∃ w ∈ t.tabs, w.tag = s.nextTag ∧ w.part = p ∧ w.layer = l ∧ w.micro = m ∧ w.notified = false)
              ∧ t.nextTag = tagAfter s.nextTag))
          ∧ (y.tabRuns.length + runs.length < sizes.length → answers (.pileIn p l m) s (fun t =>
            (∃ r, t.pass p l = some r ∧ (microOf r m).pileIn = false ∧ (microOf r m).tabRuns = y.tabRuns ++ runs)
              ∧ t.tabs = s.tabs ∧ t.nextTag = s.nextTag))))

/-- R111, R286 to R289, R326, R331, R332, R336: a table's completion is answered at once and takes effect at a boundary, where
it marks its table answered, and one that matches none is counted; a RETURN fills its tickets and is counted; a gateway
passes one on in its turn, as a whole where all of it is here, else the flits that have their staging cells while the rest
is awaited, and drops one of a dead member as stale; RETURN_IN ends the returns; a VOID in place of a TALLY counts as a tally
without tickets. -/
def Obligations.ReturnsComplete : Prop :=
  (∀ (s : State) (r : SeamReq), s.sound → s.running = true → answers (.engineCompletion r) s (fun t =>
      t.seam.cmpls = s.seam.cmpls ++ [(r.slot, r.data)] ∧ t.tabs = s.tabs ∧ t.parts = s.parts ∧ t.regs = s.regs
        ∧ t.mem = (s.hostWrites r.host).mem ∧ replied s t r 0))
    ∧ (∀ (s : State) (runs others : List Nat), s.boot.rstLow = false → 9 ≤ s.boot.state → s.boot.state ≤ 11 →
      answers (.stitchBoundary runs others) s (fun t => t.seam.cmpls = []))
    ∧ (∀ (s : State) (slot : Nat) (data : Bytes), s.sound →
      ((∀ w ∈ s.tabs, w.tag ≠ fld data 0 4) → s.powered rENG_CMPL_IGN_CNT = true →
          (s.applyCompletion slot data).tabs = s.tabs ∧ (s.applyCompletion slot data).parts = s.parts
            ∧ (s.applyCompletion slot data).reg rENG_CMPL_IGN_CNT = satAdd (s.reg rENG_CMPL_IGN_CNT) 1)
        ∧ (∀ w, s.tabs = [w] → w.tag = fld data 0 4 → w.engq = slot → w.notified = true → w.answered = false →
          fld data 4 1 = 0 → fld data 5 3 = 0 →
          ∀ v ∈ (s.applyCompletion slot data).tabs, v.tag = w.tag → v.answered = true))
    ∧ (∀ (s : State) (m : Msg) (x : StepSt) (q : Pass), due s m 7 →
      let h := parseHdr m.body
      let c := s.xCfg m.owner h.layer
      let ks := listOrder (q.tickets.filter (fun t => t.micro == h.micro && t.dest == h.dst && t.st == 4))
      let ws := parsePile m.body (2 * c.k)
      h.src = s.member → meets s m.owner h.stepNo h.layer x q → x.tornBy = none → h.dst ∉ (microOf q h.micro).retRx →
      h.dst ∉ (microOf q h.micro).voidRx → s.isDead h.dst = false → ks ≠ [] → pileLayout m.body true (2 * c.k) = true →
      ws.map (fun w => (w.stream, w.pos, w.expert, w.rank)) = ks.map (fun t => (t.stream, t.pos, t.expert, t.rank)) →
      ((s.claim m).2.storeReturns m.owner h.layer h.micro h.dst c.k (ws.map (·.data)) (s.claim m).1).isSome = true →
      answers (.returnPile m) s (fun t => (∃ r, t.pass m.owner h.layer = some r ∧ h.dst ∈ (microOf r h.micro).retRx
          ∧ (∀ k ∈ r.tickets, k.micro = h.micro → k.dest = h.dst → k.st ≠ 4))
        ∧ t.link.inbox = s.link.inbox.erase m ∧ poolOnly s t))
    ∧ (∀ (s : State) (m : Msg), due s m 7 →
      let h := parseHdr m.body
      let path := (s.route h.src 7 (s.backTo h.src)).1
      h.src ≠ s.member → s.returnBefore m h.src = false →
      let goes (t : State) (body : Bytes) (via : Option MsgKey) (cells : List Nat) : Prop := poolOnly s t
        ∧ (∃ x ∈ t.link.sent, x.chan = path ∧ x.owner = m.owner ∧ x.dst = h.src ∧ x.src = s.member ∧ x.typ = 7
          ∧ x.trigger = m.trigger ∧ x.msgNo = s.txNext h.src m.owner ∧ x.len = m.length ∧ x.body = body ∧ x.via = via
          ∧ x.chains = cells)
        ∧ t.txNext h.src m.owner = s.txNext h.src m.owner + 1
        ∧ (∀ r, t.pass m.owner h.layer = some r → ∀ f ∈ (microOf r h.micro).fans, f.src = h.src → h.dst ∉ f.owed)
      (s.isDead h.dst = false → (s.chan path).isSome = true →
          (s.link.slots.find? (holdIs m) = none → answers (.gwReturn m) s (fun t =>
              goes t m.body none [] ∧ t.link.inbox = s.link.inbox.erase m))
            ∧ (∀ k, s.link.slots = [k] → holdIs m k = true → k.fate = 0 →
              (k.n = 0 → 0 < k.got → k.whole = true → answers (.gwReturn m) s (fun t =>
                  goes t m.body none k.chains ∧ t.link.inbox = s.link.inbox.erase m))
                ∧ (k.n < k.got → k.whole = false ∨ k.n ≠ 0 → answers (.gwReturn m) s (fun t =>
                  goes t (m.body.take (496 * (k.got - k.n) - 16)) (some k.key) k.chains ∧ t.link.inbox = s.link.inbox
                    ∧ t.link.slots = [{ k with chains := [], fate := 1 }]))
                ∧ (k.got ≤ k.n → answers (.gwReturn m) s (fun t => t.link.inbox = s.link.inbox
                  ∧ t.link.sent = s.link.sent ∧ poolOnly s t))))
        ∧ (s.sound → s.isDead h.dst = true → s.link.slots.find? (holdIs m) = none → s.powered rXCH_STALE_CNT = true →
          answers (.gwReturn m) s (fun t => t.link.inbox = s.link.inbox.erase m ∧ t.link.sent = s.link.sent
            ∧ t.reg rXCH_STALE_CNT = satAdd (s.reg rXCH_STALE_CNT) 1 ∧ poolOnly s t)))
    ∧ (∀ (s : State) (p l m : Nat) (x : StepSt) (q : Pass), s.sound → p < 8 → s.xLive p l = some (x, q) →
      s.pass p l = some q → (microOf q m).returnsDone = false → (microOf q m).sorted = true →
      (∀ o ∈ (microOf q m).out, o.2 ≠ 0) → (∀ k ∈ q.tickets, k.micro = m → k.st ≠ 1 ∧ k.st ≠ 4) →
      answers (.returnIn p l m) s (fun t => (∃ r, t.pass p l = some r ∧ (microOf r m).returnsDone = true
        ∧ r.tickets = q.tickets) ∧ t.mem = s.mem ∧ t.regs = s.regs))
    ∧ (∀ (s : State) (m : Msg) (x : StepSt) (q : Pass), due s m 9 → m.body.length = 32 → rsv m.body 7 1 = true →
      rsv m.body 18 14 = true → fld m.body 0 1 = 1 → fld m.body 1 1 = 1 → fld m.body 2 2 < 512 → fld m.body 16 2 < 512 →
      m.src / 32 = s.pod → x.tornBy = none →
      meets s m.owner (fld m.body 8 8) (fld m.body 4 2) x q →
      s.maySpeak x q (s.xCfg m.owner (fld m.body 4 2)) (fld m.body 2 2) (fld m.body 6 1) = true →
      rxOf (microOf q (fld m.body 6 1)) (fld m.body 2 2) = none → answers (.voidMsg m) s (fun t =>
        (∃ r, t.pass m.owner (fld m.body 4 2) = some r ∧ rxOf (microOf r (fld m.body 6 1)) (fld m.body 2 2)
            = some (emptyRx (fld m.body 2 2) m.src false))
          ∧ t.link.inbox = s.link.inbox.erase m ∧ poolOnly s t ∧ refErrOnly s t))

/-! ### Fold, reductions and the end of passes and steps -/

/-- R343 to R354, R355: a pass without a token left needs no shared table and another writes one with the next tag; in a slot of
the partition a token whose inputs are here is combined and counts as written; a fault whose residues fail twice is counted and
retires the unit, the token not combined yet; the residue bucket leaks after its period. -/
def Obligations.FoldCompletes : Prop :=
  (∀ (s : State) (p l : Nat) (x : StepSt) (q : Pass), s.sound → p < 8 → (s.part p).step = some x → s.pass p l = some q →
      fuses x 0 = true → x.tornBy = none → q.ended = false → q.toks ≠ [] →
      (∀ b, b < ceilDiv q.toks.length 8 → b ∈ q.blocks) → q.sharedTag = none → q.sharedAns = false →
      q.sharedRuns = [] →
      ((∀ u ∈ q.toks, u.whole = true) → answers (.sharedTableWrite p l) s (fun t => (∃ r, t.pass p l = some r
          ∧ r.sharedAns = true ∧ r.sharedTag = none) ∧ t.tabs = s.tabs ∧ t.mem = s.mem))
        ∧ (∀ u, q.toks = [u] → u.whole = false → (s.allocRuns (s.xCfg p l).owner (some (p, l))
            [tableCells 1, (s.xCfg p l).cells, outCells (s.xCfg p l).k]).1.length = 3 →
          answers (.sharedTableWrite p l) s (fun t => (∃ r, t.pass p l = some r ∧ r.sharedTag = some s.nextTag)
            ∧ (∃ w ∈ t.tabs, w.tag = s.nextTag ∧ w.shared = true ∧ w.rowIds = [(0, u.stream, u.pos, 0xFFFF)]))))
    ∧ (∀ (s : State) (p l row : Nat) (x : StepSt) (q : Pass) (u : Tok), s.sound → p < 8 → (s.part p).step = some x →
      s.pass p l = some q → q.layer = l → q.toks.find? (fun t => t.row == row) = some u → x.launched = true →
      x.tornBy = none → q.ended = false → s.mayIssue p = true → s.combineReady p x q u = true → (s.part p).state = 1 →
      let unit := s.foldFor p (s.homeCluster p ((q.toks.findIdx (fun t => t.row == row)) / 8))
      unit.2 = true →
      answers (.foldCombine p l row 0) s (fun t => ∃ r, t.pass p l = some r
        ∧ (∀ v ∈ r.toks, v.row = row → v.written = true) ∧ (∀ k ∈ r.tickets, k.row = row → k.chain = none)
        ∧ r.toks.length = q.toks.length)
        ∧ (bit s.units.folds unit.1 = true → 2 ^ unit.1 ≠ s.units.folds → s.powered rFD_RETRY_CNT = true →
          ∀ fault, 1 < s.combineTries p x q u fault → answers (.foldCombine p l row fault) s (fun t =>
            bit t.units.folds unit.1 = false ∧ t.parts = s.parts
              ∧ t.reg rFD_RETRY_CNT = satAdd (s.reg rFD_RETRY_CNT) 1 ∧ t.mem = s.mem)))
    ∧ (∀ (s : State) (c : Nat), c < s.fold.buckets.length →
      s.leakDue (keyFold c) 2097152 (s.fold.buckets.getD c 0) = true → answers (.fdBucketLeak c) s (fun t =>
        t.fold.buckets.getD c 0 = s.fold.buckets.getD c 0 - 1
          ∧ (∀ k, k ≠ c → t.fold.buckets.getD k 0 = s.fold.buckets.getD k 0) ∧ t.mem = s.mem ∧ t.regs = s.regs))

/-- R31, R325, R385, R390 to R393, R412, R413: a pass whose roles are over writes the sums of a scatter-add, queues its
journal records, and ends with its LSTAT word once they are written; the step then writes its ledger
header, its STEP_END and its completion record, in that order, and leaves the partition. -/
def Obligations.PassAndStepEnd : Prop :=
  (∀ (s : State) (p l : Nat) (x : StepSt) (q : Pass), s.sound → p < 8 → (s.part p).step = some x → s.pass p l = some q →
      q.layer = l → x.launched = true → x.tornBy = none → q.ended = false →
      (∀ r ∈ x.passes, r.ended = true ∨ l ≤ r.layer) → s.srcOver p x q = true →
      destOver x q s.member (s.microMax p l) = true →
      (q.sadd ≠ [] → (∀ u ∈ q.toks, u.written = true ∨ u.whole = true) →
        (∀ r ∈ x.passes, s.reading (.target p r.layer) = false) → answers (.passComplete p l) s (fun t =>
          ∃ r, t.pass p l = some r ∧ r.sadd = [] ∧ r.ended = false ∧ r.toks = q.toks))
      ∧ (q.sadd = [] → q.journaled = false → q.admitted = true → x.redAbort = none → answers (.passComplete p l) s (fun t =>
          (∃ r, t.pass p l = some r ∧ r.journaled = true ∧ r.ended = false ∧ r.toks = q.toks)
            ∧ (s.part p).jrnQ.length < (t.part p).jrnQ.length ∧ t.mem = s.mem))
      ∧ (q.sadd = [] → q.journaled = true → s.jrnIdle p = true → l < x.lstat.length → answers (.passComplete p l) s (fun t =>
        (∃ y r, (t.part p).step = some y ∧ t.pass p l = some r ∧ r.ended = true
            ∧ y.lstat.getD l 7 = passWord q (passStatus x q) ∧ (∀ k, k ≠ l → y.lstat.getD k 7 = x.lstat.getD k 7))
          ∧ (∀ w ∈ (t.part p).waits, w.layer ≠ l) ∧ (∀ c ∈ t.hamper.chains, c.pass ≠ some (p, l)))))
    ∧ (∀ (s : State) (p : Nat) (x : StepSt), s.sound → p < 8 → (s.part p).step = some x → s.stepOver p x = true →
      (x.fin = 0 → answers (.stepComplete p) s (fun t => ∃ y, (t.part p).step = some y ∧ y.fin = 1
          ∧ y.endAt = s.stitch.count ∧ y.lstat = finalStat x))
        ∧ (x.fin = 1 → s.writing (.ledger p) = false → answers (.stepComplete p) s (fun t =>
          (∃ y, (t.part p).step = some y ∧ y.fin = 2) ∧ t.mem = s.mem))
        ∧ (x.fin = 2 → s.jrnIdle p = true
          → (stepStatus x = 0 → ∀ g ∈ x.segs, g.kept = true → s.ctxUnderTest g.stream = false) → x.group < 64 → s.gPart x.group = p → (s.part p).state = 1 →
          ∀ c, (s.group x.group).cur = some c → c.torn = false → answers (.stepComplete p) s (fun t => (t.part p).step = none
            ∧ (t.group x.group).cur = none ∧ (t.group x.group).lastSeq = some c.seq ∧ (∀ b ∈ (t.group x.group).bells, b.2.2 = false)
            ∧ (t.group x.group).head = ((s.group x.group).head + 1) % 2 ^ 32
            ∧ t.recd.steps = (s.recd.steps + 1) % 2 ^ 64
            ∧ (stepStatus x ≠ 3 → (t.part p).lastNo = some x.stepNo ∧ (t.part p).anyNo = false))))

/-- R25, R54, R353, R354, R356 to R369, R371, R375: a reduction begins with every chunk waiting and its contributions asked for; a
node whose inputs lie in the Fold region asks for them, and then its value joins the reduction and stands in the region; a node
whose residues fail twice goes to another unit; the value of a right child is held, a result is written, a chunk with its
responses is sealed, FD_ABORT abandons the reduction, and FD_POISON marks the step. -/
def Obligations.ReductionCompletes : Prop :=
  (∀ (s : State) (p l : Nat) (x : StepSt), s.sound → p < 8 → (s.part p).step = some x → s.redDue p l x = true →
      answers (.reductionStart p l) s (fun t => (∃ y r, (t.part p).step = some y ∧ r ∈ y.reds ∧ r.layer = l ∧ r.state = 1
          ∧ r.start = s.stitch.count
          ∧ r.chunkSt = List.replicate (chunkCount (foldLayer (s.redBlock x.group) l)) 0) ∧ t.mem = s.mem))
    ∧ (∀ (s : State) (p n c : Nat) (x : StepSt) (r : Red) (a b : List F32), s.sound → p < 8 →
      (s.part p).step = some x → x.reds = [r] → r.state = 1 → x.tornBy = none → s.mayIssue p = true →
      let k := s.redBlock x.group
      let e := foldLayer k r.layer
      let home := s.foldUnits.getD (c % max 1 s.foldUnits.length) 0
      let unit := s.foldFor p home
      1 ≤ n → n ≤ 1023 → holder k n = s.member → chunkOpen x k r c = true → r.chunkSt.getD c 0 ≤ 1 →
      s.nodesBelow k r n c = true → r.moved = [] → unit.2 = true → s.reading (.contrib p r.layer) = false →
      s.reading (.foldIn p r.layer n c) = false →
      (∀ v ∈ r.vals, v.1 ≠ n ∨ v.2.1 ≠ c) → s.nodeVal p k e r (2 * n) c = some a →
      s.rightVal p k e r (2 * n + 1) c = some b → (s.part p).state = 1 →
      (s.inputRanges r n c a.length ≠ [] → (n, c) ∉ r.asked → answers (.nodeAdd p n c 0) s (fun t =>
          (∃ y, (t.part p).step = some y ∧ y.reds = [{ r with asked := r.asked ++ [(n, c)] }]) ∧ t.mem = s.mem))
        ∧ (s.inputRanges r n c a.length = [] ∨ (n, c) ∈ r.asked →
          (answers (.nodeAdd p n c 0) s (fun t =>
            ∃ y w v, (t.part p).step = some y ∧ y.reds = [w] ∧ v ∈ w.vals ∧ v.1 = n ∧ v.2.1 = c ∧ w.layer = r.layer
              ∧ (n ≠ 1 → (∀ u ∈ r.bufs, u.1 = c → u.2.1 = s.foldLevel k n →
                  u.2.2 = n ∨ u.2.2 / 2 = n ∨ s.bufLive k r c u.2.2 = false) →
                let at_ := s.foldBuf r.block c (s.foldLevel k n)
                (c, s.foldLevel k n, n) ∈ w.bufs
                  ∧ t.rd at_ (4 * v.2.2.length) = v.2.2.flatMap (fun u => toLE 4 u.toNat)
                  ∧ ∀ i, i < at_ ∨ at_ + 4 * v.2.2.length ≤ i → spGet t.mem i = spGet s.mem i)))
          ∧ (bit s.units.folds unit.1 = true → 2 ^ unit.1 ≠ s.units.folds → s.powered rFD_RETRY_CNT = true →
            ∀ fault, (let j := fault / 49152 % max 1 a.length
              1 < failedTries fault (resOp false (a.getD j 0) (b.getD j 0))) →
            answers (.nodeAdd p n c fault) s (fun t => bit t.units.folds unit.1 = false
              ∧ (∃ y, (t.part p).step = some y ∧ y.reds = [{ r with moved := [(n, c, home)] }])
              ∧ t.reg rFD_RETRY_CNT = satAdd (s.reg rFD_RETRY_CNT) 1 ∧ t.mem = s.mem))))
    ∧ (∀ (s : State) (m : Msg) (x : StepSt) (r : Red), s.sound → m.owner < 8 → (s.part m.owner).step = some x →
      x.reds = [r] → r.layer = fld m.body 8 2 →
      let l := fld m.body 8 2
      let id := fld m.body 10 2
      let c := fld m.body 12 4
      let k := s.redBlock (s.stepGroup m.owner)
      let e := foldLayer k l
      (due s m 0x20 → r.state = 1 → s.redWhen m.owner (fld m.body 0 8) l (holder k id) false = 2 →
          within id 2 2047 = true → id % 2 = 1 → holder k (id / 2) = s.member → holder k id ≠ s.member →
          fdLayout m.body e (if s.arrFree m.owner then s.levelNarrow m.owner k id else decide (holder k id / 32 ≠ s.pod)) = true →
          fld m.body 24 8 = 0 → (∀ v ∈ r.right, v.1 ≠ id ∨ v.2.1 ≠ c) → chunkOpen x k r c = true →
          (∀ u ∈ r.bufs, u.1 = c → u.2.1 = nodeLevel (id / 2) → u.2.2 = id ∨ s.bufLive k r c u.2.2 = false) →
          answers (.fdValue m) s (fun t => (∃ y w, (t.part m.owner).step = some y ∧ y.reds = [w]
            ∧ w.right = r.right ++ [(id, c, bodyValues m.body)] ∧ (c, nodeLevel (id / 2), id) ∈ w.bufs
            ∧ w.vals = r.vals ∧ w.chunkSt = r.chunkSt ∧ w.layer = l ∧ w.state = 1)
            ∧ t.link.inbox = s.link.inbox.erase m ∧ refErrOnly s t
            ∧ (let at_ := s.foldBuf r.block c (nodeLevel (id / 2))
              t.rd at_ (4 * (bodyValues m.body).length) = (bodyValues m.body).flatMap (fun u => toLE 4 u.toNat)
                ∧ ∀ i, i < at_ ∨ at_ + 4 * (bodyValues m.body).length ≤ i → ¬ s.pooled i → spGet t.mem i = spGet s.mem i)))
        ∧ (due s m 0x22 → s.redWhen m.owner (fld m.body 0 8) l (fld m.body 12 2) true = 2 → m.body.length = 16 →
          rsv m.body 11 1 = true → rsv m.body 14 2 = true → Machine.memberOk (fld m.body 12 2) = true → l < s.pLayers m.owner →
          within (fld m.body 10 1) 1 3 = true → m.src / 32 = s.pod → s.powered rFD_RED_ABORT_CNT = true →
          answers (.fdAbort m) s (fun t => (∃ y w, (t.part m.owner).step = some y ∧ y.redAbort = some l ∧ y.reds = [w]
            ∧ w.state = 3 ∧ w.vals = [] ∧ w.right = [] ∧ ∀ v ∈ w.chunkSt, v = 4)
            ∧ t.reg rFD_RED_ABORT_CNT = satAdd (s.reg rFD_RED_ABORT_CNT) 1 ∧ t.link.inbox = s.link.inbox.erase m)))
    ∧ (∀ (s : State) (m : Msg) (x : StepSt) (r : Red), s.sound → m.owner < 8 → (s.part m.owner).step = some x →
      x.reds = [r] → r.layer = fld m.body 8 2 → r.state = 1 →
      s.redWhen m.owner (fld m.body 0 8) (fld m.body 8 2) (holder (s.redBlock (s.stepGroup m.owner)) 1) false = 2 →
      let e := foldLayer (s.redBlock x.group) (fld m.body 8 2)
      due s m 0x21 → m.src / 32 = s.pod → fdLayout m.body e (s.rootNarrow m.owner (s.redBlock x.group) x.group) = true →
      fld m.body 10 2 = 1 → fld m.body 24 8 = (crc64 (m.body.drop 32)).toNat → holder (s.redBlock x.group) 1 ≠ s.member →
      fld m.body 12 4 < r.chunkSt.length → r.chunkSt.getD (fld m.body 12 4) 0 < 2 → fld e 21 1 = 0 →
      answers (.fdResult m) s (fun t => (∃ y w, (t.part m.owner).step = some y ∧ y.reds = [w]
          ∧ w.chunkSt.getD (fld m.body 12 4) 0 = 2)
        ∧ t.rd (s.resultRange m.owner e (fld m.body 12 4)).1 (4 * (bodyValues m.body).length)
          = (bodyValues m.body).flatMap (fun v => toLE 4 v.toNat)
        ∧ t.link.inbox = s.link.inbox.erase m))
    ∧ (∀ (s : State) (p c : Nat) (x : StepSt) (r : Red), s.sound → p < 8 → (s.part p).step = some x → x.reds = [r] →
      r.state = 1 → c < r.chunkSt.length → r.chunkSt.getD c 0 = 2 → s.writing (.redResult p r.layer c) = false →
      r.block < s.fold.redSealed.length → answers (.chunkSeal p c) s (fun t =>
        (∃ y w, (t.part p).step = some y ∧ y.reds = [w] ∧ w.chunkSt.getD c 0 = 3
          ∧ (w.chunkSt.all (· == 3) = true → w.state = 2))
        ∧ t.fold.redSealed.getD r.block 0 = s.fold.redSealed.getD r.block 0 + 1 ∧ t.mem = s.mem))
    ∧ (∀ (s : State) (m : Msg) (x : StepSt), s.sound → due s m 0x23 → m.owner < 8 → (s.part m.owner).step = some x →
      x.launched = true → fld m.body 0 8 = x.stepNo → x.poisonAt = none → x.fin ≤ 2 → s.isDead (fld m.body 12 2) = false →
      m.body.length = 16 → rsv m.body 11 1 = true → rsv m.body 14 2 = true → Machine.memberOk (fld m.body 12 2) = true →
      fld m.body 8 2 < s.pLayers m.owner → fld m.body 10 1 = 0 → m.src / 32 = s.pod → s.powered rFD_POISON_CNT = true →
      answers (.fdPoison m) s (fun t => (∃ y, (t.part m.owner).step = some y ∧ y.poisonAt = some (fld m.body 8 2)
          ∧ y.fin = 0 ∧ y.lstat = x.lstat ∧ y.passes = x.passes)
        ∧ t.reg rFD_POISON_CNT = satAdd (s.reg rFD_POISON_CNT) 1 ∧ t.link.inbox = s.link.inbox.erase m))
    ∧ (∀ (s : State) (p : Nat) (x : StepSt) (r : Red), s.sound → p < 8 → (s.part p).step = some x → x.launched = true →
      x.tornBy = none → x.fin = 0 → (∀ q ∈ x.passes, q.ended = true) → x.nextLayer = s.pLayers p → x.reds = [r] →
      r.audited = false → r.chunkSt = [3] → r.crcs = [(0, (crc64 (s.rd (s.resultRange p (foldLayer (s.redBlock x.group)
        r.layer) 0).1 (s.resultRange p (foldLayer (s.redBlock x.group) r.layer) 0).2)).toNat)] →
      answers (.sealAudit p) s (fun t => (t.part p).step = some { x with reds := [{ r with audited := true }] }
        ∧ t.mem = s.mem ∧ (s.powered rFD_AUDIT_FAIL_CNT = true → t.reg rFD_AUDIT_FAIL_CNT = s.reg rFD_AUDIT_FAIL_CNT)))

/-! ### Frames -/

/-- R291 to R313: what the link commands leave alone. Groups, runs, cores, stream contexts, reductions, tables, the start state, the
image, the attach port and the self-test state are as before, the partitions but for the lists of piles that have come, and of
attached memory every byte outside the memory pool; commands that only send or train leave the partitions, the memory, its
ports and the pools as they are. -/
def Obligations.FrameOfLinks : Prop :=
  (∀ (c : Instr) (s t : State), isLink c = true → exec c s = .next t →
    poolOnly s t ∧ t.parts.map linkView = s.parts.map linkView ∧ t.groups = s.groups ∧ t.press = s.press
      ∧ t.cores = s.cores ∧ t.ctx = s.ctx ∧ t.fold = s.fold ∧ t.tabs = s.tabs ∧ t.nextTag = s.nextTag
      ∧ t.boot = s.boot ∧ t.img = s.img ∧ t.seam = s.seam ∧ t.self = s.self ∧ t.mgtData = s.mgtData ∧ t.mgtErr = s.mgtErr)
    ∧ (∀ (c : Instr) (s t : State), isQuietLink c = true → exec c s = .next t →
      (∀ a, spGet t.mem a = spGet s.mem a) ∧ t.parts = s.parts ∧ t.memp = s.memp ∧ t.hamper = s.hamper)

/-- R89 to R95, R105 to R109, R428, R438 to R466: what the start sequence, the pins, the tests, the recorder and the register
accesses leave alone. Partitions, groups, stream contexts, reductions and tables are as before, and so is what a core holds whose
array domains and Starch are on; attached memory, the pools and the outstanding accesses too, but for a CAL, whose cells go back. -/
def Obligations.FrameOfStart : Prop :=
  ∀ (c : Instr) (s t : State), isStart c = true → exec c s = .next t →
    poolOnly s t ∧ t.parts = s.parts ∧ t.groups = s.groups ∧ t.ctx = s.ctx ∧ t.fold = s.fold ∧ t.tabs = s.tabs
      ∧ t.nextTag = s.nextTag ∧ t.free = s.free
      ∧ (∀ n, bits t.power.domOn (4 * n) 4 = 15 → bit t.power.domOn 45 = true →
        t.cores.getD n resetCore = s.cores.getD n resetCore)
      ∧ ((∀ m, c ≠ .cal m) → (∀ a, spGet t.mem a = spGet s.mem a) ∧ t.hamper = s.hamper ∧ t.memp = s.memp)

/-- R229 to R341: what a command of a step in progress that makes no table and no result leaves alone: every other partition and its
groups, the runs on the arrays, the links' reference, the start state, the image, stream contexts, the attach port and the
managers' accounts; the partition's groups too, but for the commands that may work on the rows of a batch command; and attached
memory but for the memory pool, all of it where the command neither takes a message nor asks for cells. -/
def Obligations.FrameOfSteps : Prop :=
  ∀ (c : Instr) (s t : State) (p : Nat), stepPart c = some p → exec c s = .next t →
    poolOnly s t ∧ (isQuietStep c = true → ∀ a, spGet t.mem a = spGet s.mem a) ∧ (∀ q, q ≠ p → t.part q = s.part q)
      ∧ (worksRows c = false → t.groups = s.groups) ∧ (∀ g, s.gPart g ≠ p → t.group g = s.group g)
      ∧ t.press = s.press ∧ t.ctx = s.ctx ∧ t.tabs = s.tabs ∧ t.nextTag = s.nextTag ∧ t.boot = s.boot ∧ t.img = s.img
      ∧ t.stitch = s.stitch ∧ t.units = s.units ∧ t.seam = s.seam ∧ t.mgr = s.mgr ∧ t.recd = s.recd ∧ t.self = s.self

/-- R42, R129, R131, R135, R417: a NOP, a STREAM_CTL or a PARK stores its completion record and, for a STREAM_CTL, the context
at CTX_ADDR, and no other byte; a doorbell or an abort request stores nothing beside the writes it announces; no other
group and no partition changes; a notification changes no memory, group or partition. -/
def Obligations.FrameOfQueues : Prop :=
  (∀ (c : Instr) (s t : State) (g : Nat), s.sound → queueGroup c = some g → exec c s = .next t →
      (∀ a, untouched s g a → spGet t.mem a = spGet s.mem a) ∧ (∀ k, k ≠ g → t.group k = s.group k)
        ∧ t.parts = s.parts ∧ t.press.buckets = s.press.buckets ∧ t.press.runCnt = s.press.runCnt
        ∧ (∀ r ∈ t.press.runs, r ∈ s.press.runs) ∧ t.cores = s.cores
        ∧ t.hamper = s.hamper ∧ t.fold = s.fold ∧ t.tabs = s.tabs
        ∧ t.boot = s.boot ∧ t.img = s.img ∧ t.stitch = s.stitch ∧ t.units = s.units ∧ t.recd = s.recd
        ∧ t.mgr = s.mgr ∧ t.self = s.self ∧ (c = .nop g ∨ c = .park g → t.ctx = s.ctx))
    ∧ (∀ (c : Instr) (r : SeamReq) (s t : State), c = .ringDoorbell r ∨ c = .layerDoorbell r ∨ c = .abortRequest r →
      exec c s = .next t → (t.mem = s.mem ∨ t.mem = (s.hostWrites r.host).mem)
        ∧ (∀ k, k ≠ r.slot → t.group k = s.group k) ∧ t.parts = s.parts ∧ t.press = s.press ∧ t.hamper = s.hamper
        ∧ t.ctx = s.ctx ∧ t.fold = s.fold ∧ t.tabs = s.tabs ∧ t.boot = s.boot ∧ t.img = s.img)
    ∧ (∀ (c : Instr) (n : Nat) (s t : State), c = .completionNotify n ∨ c = .workReadyNotify n ∨ c = .divertNotify n
        ∨ c = .abortNotify n → exec c s = .next t →
      (∀ a, spGet t.mem a = spGet s.mem a) ∧ t.groups = s.groups ∧ t.parts = s.parts ∧ t.hamper = s.hamper
        ∧ t.boot = s.boot ∧ t.img = s.img)
end

