-- ==== Sys2Proof/Laws/Memory.lean ====
section
/-! SUPPORT. The laws of sparse maps (attached memory, the register file): a read after a write, the canonical form
kept by every operation, and lists whose length an update keeps. -/

namespace Sys2Proof.Machine

variable {w : Nat}

theorem spGet_of_above (m : List (Nat × BitVec w)) (k a : Nat) (h : spAbove k m = true) (ha : a ≤ k) :
    spGet m a = 0 := by
  induction m with
  | nil => rfl
  | cons e r ih =>
    obtain ⟨b, v⟩ := e
    simp only [spAbove, Bool.and_eq_true, decide_eq_true_eq] at h
    simp only [spGet]
    rw [if_neg (by omega)]
    exact ih h.2

theorem spAbove_mono (m : List (Nat × BitVec w)) (j k : Nat) (h : spAbove k m = true) (hj : j ≤ k) :
    spAbove j m = true := by
  induction m with
  | nil => rfl
  | cons e r ih =>
    obtain ⟨b, v⟩ := e
    simp only [spAbove, Bool.and_eq_true, decide_eq_true_eq] at h ⊢
    exact ⟨by omega, ih h.2⟩

theorem spAbove_spSet (m : List (Nat × BitVec w)) (j k : Nat) (v : BitVec w) (h : spAbove j m = true) (hk : j < k) :
    spAbove j (spSet m k v) = true := by
  induction m with
  | nil => by_cases hv : v = 0#w <;> simp [spSet, spAbove, hv, hk]
  | cons e r ih =>
    obtain ⟨b, x⟩ := e
    simp only [spAbove, Bool.and_eq_true, decide_eq_true_eq] at h
    have i := ih h.2
    by_cases h1 : k < b
    · by_cases hv : v = 0#w <;> simp [spSet, spAbove, h1, hv, h.1, h.2, hk]
    · by_cases h2 : k = b
      · by_cases hv : v = 0#w <;> simp [spSet, spAbove, h2, hv, h.2]; omega
      · simp [spSet, spAbove, h1, h2, h.1, i]

/-- A stored value keeps the canonical form. -/
theorem spWf_spSet (m : List (Nat × BitVec w)) (k : Nat) (v : BitVec w) (h : spWf m = true) :
    spWf (spSet m k v) = true := by
  induction m with
  | nil => by_cases hv : v = 0#w <;> simp [spSet, spWf, spAbove, hv]
  | cons e r ih =>
    obtain ⟨b, x⟩ := e
    simp only [spWf, Bool.and_eq_true, decide_eq_true_eq] at h
    obtain ⟨⟨hx, ha⟩, hr⟩ := h
    have hx : ¬x = 0#w := hx
    by_cases h1 : k < b
    · by_cases hv : v = 0#w
      · simp [spSet, spWf, h1, hv, hx, ha, hr]
      · simp [spSet, spWf, spAbove, h1, hv, hx, ha, hr, spAbove_mono r k b ha (by omega)]
    · by_cases h2 : k = b
      · subst h2
        by_cases hv : v = 0#w
        · simp [spSet, hv, hr]
        · simp [spSet, spWf, hv, ha, hr]
      · simp [spSet, spWf, h1, h2, hx, ih hr, spAbove_spSet r b k v ha (by omega)]

/-- What a key reads after a store: the stored value at its key, every other key as before. -/
theorem spGet_spSet (m : List (Nat × BitVec w)) (k a : Nat) (v : BitVec w) (h : spWf m = true) :
    spGet (spSet m k v) a = if a = k then v else spGet m a := by
  induction m with
  | nil =>
    by_cases hv : v = 0#w
    · simp [spSet, spGet, hv]
    · by_cases ha : a = k
      · simp [spSet, spGet, hv, ha]
      · simp [spSet, spGet, hv, ha, Ne.symm ha]
  | cons e r ih =>
    obtain ⟨b, x⟩ := e
    simp only [spWf, Bool.and_eq_true, decide_eq_true_eq] at h
    obtain ⟨⟨_, hab⟩, hr⟩ := h
    have low := spGet_of_above r b
    by_cases h1 : k < b
    · by_cases ha : a = k
      · subst ha
        by_cases hv : v = 0#w <;> simp [spSet, spGet, h1, hv, show b ≠ a by omega, low a hab (by omega)]
      · by_cases hv : v = 0#w <;> simp [spSet, spGet, h1, hv, ha, Ne.symm ha]
    · by_cases h2 : k = b
      · subst h2
        by_cases ha : a = k
        · subst ha
          by_cases hv : v = 0#w <;> simp [spSet, spGet, hv, low a hab (by omega)]
        · by_cases hv : v = 0#w <;> simp [spSet, spGet, hv, ha, Ne.symm ha]
      · by_cases hb : b = a
        · subst hb
          simp [spSet, spGet, h1, h2, Ne.symm h2]
        · simp [spSet, spGet, h1, h2, hb, ih hr]

/-- A run of stored bytes keeps the canonical form. -/
theorem spWf_memWrite (bs : Bytes) (m : List (Nat × Byte)) (a : Nat) (h : spWf m = true) :
    spWf (memWrite m a bs) = true := by
  induction bs generalizing m a with
  | nil => exact h
  | cons b bs ih => exact ih _ _ (spWf_spSet m a b h)

/-- What an address reads after a run of bytes is stored. -/
theorem spGet_memWrite (bs : Bytes) (m : List (Nat × Byte)) (a k : Nat) (h : spWf m = true) :
    spGet (memWrite m a bs) k = if a ≤ k ∧ k < a + bs.length then bs.getD (k - a) 0 else spGet m k := by
  induction bs generalizing m a with
  | nil =>
    have : ¬(a ≤ k ∧ k < a + ([] : Bytes).length) := by simp
    rw [if_neg this]
    rfl
  | cons b bs ih =>
    simp only [memWrite]
    rw [ih _ _ (spWf_spSet m a b h), spGet_spSet m a k b h]
    by_cases h1 : k = a
    · subst h1
      simp
    · by_cases h2 : a + 1 ≤ k ∧ k < a + 1 + bs.length
      · rw [if_pos h2, if_pos (by simp only [List.length_cons]; omega)]
        obtain ⟨d, rfl⟩ : ∃ d, k = a + 1 + d := ⟨k - (a + 1), by omega⟩
        have e1 : a + 1 + d - (a + 1) = d := by omega
        have e2 : a + 1 + d - a = d + 1 := by omega
        rw [e1, e2, List.getD_cons_succ]
      · rw [if_neg h2, if_neg h1, if_neg (by simp only [List.length_cons]; omega)]

/-- Addresses outside a stored run read as before. -/
theorem spGet_memWrite_outside (bs : Bytes) (m : List (Nat × Byte)) (a k : Nat) (h : spWf m = true)
    (hk : k < a ∨ a + bs.length ≤ k) : spGet (memWrite m a bs) k = spGet m k := by
  rw [spGet_memWrite bs m a k h, if_neg (by omega)]

/-- Runs of bytes stored one after the other keep the canonical form. -/
theorem spWf_foldl {α : Type} (l : List α) (f : List (Nat × BitVec w) → α → List (Nat × BitVec w))
    (hf : ∀ m a, spWf m = true → spWf (f m a) = true) (m : List (Nat × BitVec w)) (h : spWf m = true) :
    spWf (l.foldl f m) = true := by
  induction l generalizing m with
  | nil => exact h
  | cons a l ih => exact ih _ (hf m a h)

/-- Dropping entries keeps the canonical form. -/
theorem spWf_filter (m : List (Nat × BitVec w)) (f : Nat × BitVec w → Bool) (h : spWf m = true) :
    spWf (m.filter f) = true := by
  have above : ∀ (r : List (Nat × BitVec w)) (k : Nat), spAbove k r = true → spAbove k (r.filter f) = true := by
    intro r k
    induction r with
    | nil => exact id
    | cons e r ih =>
      obtain ⟨b, x⟩ := e
      intro hr
      simp only [spAbove, Bool.and_eq_true, decide_eq_true_eq] at hr
      simp only [List.filter_cons]
      split
      · simp [spAbove, hr.1, ih hr.2]
      · exact ih hr.2
  induction m with
  | nil => rfl
  | cons e r ih =>
    obtain ⟨b, x⟩ := e
    simp only [spWf, Bool.and_eq_true, decide_eq_true_eq] at h
    simp only [List.filter_cons]
    split
    · have hx : ¬x = 0#w := h.1.1
      simp [spWf, hx, ih h.2, above r b h.1.2]
    · exact ih h.2

/-- A replaced element keeps a list's length. -/
@[simp] theorem length_setAt {α : Type} (l : List α) (i : Nat) (f : α → α) : (setAt l i f).length = l.length := by
  induction l generalizing i with
  | nil => rfl
  | cons x r ih => cases i <;> simp [setAt, ih]

/-- What a replaced list holds at an index. -/
theorem getD_setAt {α : Type} (l : List α) (i j : Nat) (f : α → α) (d : α) :
    (setAt l i f).getD j d = if i = j ∧ j < l.length then f (l.getD j d) else l.getD j d := by
  induction l generalizing i j with
  | nil => simp [setAt]
  | cons x r ih =>
    cases i with
    | zero => cases j <;> simp [setAt]
    | succ i =>
      cases j with
      | zero => simp [setAt]
      | succ j =>
        have := ih i j
        simp only [setAt, List.getD_cons_succ, this, List.length_cons, Nat.add_right_cancel_iff,
          Nat.add_lt_add_iff_right]

end Sys2Proof.Machine
end

