-- ==== Sys2Proof/Laws/Keeps.lean ====
section
/-! SUPPORT. What every shared operation of a running block keeps: the queue, the start sequence, the canonical form
of attached memory and of the register file, and the shape of the record arrays. One lemma per operation follows in
Laws/Shared.lean; this file has the relation and how it composes. -/

namespace Sys2Proof.Machine

/-- `t` keeps of `s` the queue, the start sequence, the image, the two power pins, the canonical forms and the
shape. -/
structure State.Keeps (s t : State) : Prop where
  pending : t.pending = s.pending
  boot : t.boot = s.boot
  img : t.img = s.img
  alert : t.power.alertLow = s.power.alertLow
  therm : t.power.thermLow = s.power.thermLow
  mem : spWf s.mem = true → spWf t.mem = true
  regs : spWf s.regs = true → spWf t.regs = true
  parts : s.parts.length = 8 → t.parts.length = 8
  groups : s.groups.length = 64 → t.groups.length = 64
  ports : s.link.ports.length = 36 → t.link.ports.length = 36

/-- Whatever an operation answers, it keeps the same. -/
def State.KeepsAll {α : Type} (s : State) (pr : α → State) (o : Option α) : Prop := ∀ a, o = some a → s.Keeps (pr a)

namespace Keeps

theorem refl (s : State) : s.Keeps s := ⟨rfl, rfl, rfl, rfl, rfl, id, id, id, id, id⟩

theorem trans {s t u : State} (h : s.Keeps t) (k : t.Keeps u) : s.Keeps u :=
  ⟨k.pending.trans h.pending, k.boot.trans h.boot, k.img.trans h.img, k.alert.trans h.alert,
    k.therm.trans h.therm, fun x => k.mem (h.mem x), fun x => k.regs (h.regs x),
    fun x => k.parts (h.parts x), fun x => k.groups (h.groups x), fun x => k.ports (h.ports x)⟩

/-- A sound state stays sound. -/
theorem sound {s t : State} (h : s.Keeps t) (k : s.sound) : t.sound := by
  obtain ⟨⟨hm, hr⟩, ⟨hp, hg, hl, hk⟩, hs⟩ := k
  refine ⟨⟨h.mem hm, h.regs hr⟩, ⟨h.parts hp, h.groups hg, h.ports hl, ?_⟩, ?_⟩
  · rw [h.boot]; exact hk
  · unfold State.started
    rw [h.boot]; exact hs

/-- One more update of a record. -/
theorem upd {s t : State} {a0 : List Instr} {a1 : Nat} {a2 : Word} {a3 : Bool} {a4 : List (Nat × Word)} {a5 :
    List (Nat × Byte)} {a6 : BootSt} {a7 : ImgSt} {a8 : UnitSt} {a9 : StitchSt} {a10 : SeamSt} {a11 : MemSt}
    {a12 : HamperSt} {a13 : List (Nat × Bytes)} {a14 : List Part} {a15 : List Group} {a16 : PressSt} {a17 : List
    (Nat × Nat)} {a18 : List CoreSt} {a19 : LinkSt} {a20 : MgrSt} {a21 : FoldSt} {a22 : PowerSt} {a23 : RecSt}
    {a24 : SelfSt} {a25 : List WorkTab} {a26 : Nat}
    (h : s.Keeps t) (hp : a0 = t.pending) (hb : a6 = t.boot) (hi : a7 = t.img)
    (ha : a22.alertLow = t.power.alertLow) (ht : a22.thermLow = t.power.thermLow)
    (hm : spWf t.mem = true → spWf a5 = true) (hr : spWf t.regs = true → spWf a4 = true)
    (h1 : t.parts.length = 8 → a14.length = 8) (h2 : t.groups.length = 64 → a15.length = 64)
    (h3 : t.link.ports.length = 36 → a19.ports.length = 36) :
    s.Keeps (State.mk a0 a1 a2 a3 a4 a5 a6 a7 a8 a9 a10 a11 a12 a13
      a14 a15 a16 a17 a18 a19 a20 a21 a22 a23 a24 a25 a26) :=
  trans h ⟨hp, hb, hi, ha, ht, hm, hr, h1, h2, h3⟩

/-- A replaced element keeps the length a list has. -/
theorem setLen {α : Type} {l : List α} {n i : Nat} {f : α → α} (h : l.length = n) : (setAt l i f).length = n := by
  rw [length_setAt, h]

theorem ofIte {s a b : State} {c : Prop} [Decidable c] (ha : c → s.Keeps a) (hb : ¬c → s.Keeps b) :
    s.Keeps (if c then a else b) := by
  split
  · exact ha ‹_›
  · exact hb ‹_›

theorem foldl {α : Type} {s t : State} (l : List α) (f : State → α → State) (hf : ∀ u a, s.Keeps u → s.Keeps (f u a))
    (h : s.Keeps t) : s.Keeps (l.foldl f t) := by
  induction l generalizing t with
  | nil => exact h
  | cons a l ih => exact ih (hf t a h)

/-- A fold over a pair whose first part is the state. -/
theorem foldl_fst {α β : Type} {s : State} (l : List α) (f : State × β → α → State × β)
    (hf : ∀ u a, s.Keeps u.1 → s.Keeps (f u a).1) (p : State × β) (h : s.Keeps p.1) : s.Keeps (l.foldl f p).1 := by
  induction l generalizing p with
  | nil => exact h
  | cons a l ih => exact ih (f p a) (hf p a h)

/-- A fold over a pair whose second part is the state. -/
theorem foldl_snd {α β : Type} {s : State} (l : List α) (f : β × State → α → β × State)
    (hf : ∀ u a, s.Keeps u.2 → s.Keeps (f u a).2) (p : β × State) (h : s.Keeps p.2) : s.Keeps (l.foldl f p).2 := by
  induction l generalizing p with
  | nil => exact h
  | cons a l ih => exact ih (f p a) (hf p a h)

/-- A state bound to a name. -/
theorem cut {s x v : State} {g : Prop} (_ : x = v) (hv : s.Keeps v) (hg : s.Keeps x → g) : g := by
  subst x
  exact hg hv

/-- The same for an operation that may answer nothing. -/
theorem cutAll {α : Type} {s : State} {pr : α → State} {x v : Option α} {g : Prop} (_ : x = v)
    (hv : s.KeepsAll pr v) (hg : s.KeepsAll pr x → g) : g := by
  subst x
  exact hg hv

theorem allOf {α : Type} {s : State} {pr : α → State} {o : Option α} (h : ∀ a, o = some a → s.Keeps (pr a)) :
    s.KeepsAll pr o := h

theorem allNone {α : Type} {s : State} {pr : α → State} : s.KeepsAll pr none := fun _ e => by cases e

theorem allSome {α : Type} {s : State} {pr : α → State} {a : α} (h : s.Keeps (pr a)) : s.KeepsAll pr (some a) :=
  fun _ e => by cases e; exact h

theorem allIte {α : Type} {s : State} {pr : α → State} {a b : Option α} {c : Prop} [Decidable c]
    (ha : c → s.KeepsAll pr a) (hb : ¬c → s.KeepsAll pr b) : s.KeepsAll pr (if c then a else b) := by
  split
  · exact ha ‹_›
  · exact hb ‹_›

theorem allMap {α β : Type} {s : State} {pr : α → State} (f : β → α) (o : Option β)
    (h : ∀ b, o = some b → s.Keeps (pr (f b))) :
    s.KeepsAll pr (o.map f) := by
  intro a e
  cases o with
  | none => cases e
  | some b => cases e; exact h b rfl

theorem allMapOf {α : Type} {s : State} {pr : α → State} (o : Option State) (f : State → α)
    (h : s.KeepsAll (fun x => x) o) (hf : ∀ t, s.Keeps t → s.Keeps (pr (f t))) : s.KeepsAll pr (o.map f) := by
  cases o with
  | none => exact allNone
  | some t => exact allSome (hf t (h t rfl))

theorem allBind {α : Type} {s : State} {pr : α → State} (o : Option State) (f : State → Option α)
    (h : s.KeepsAll (fun x => x) o) (hf : ∀ t, s.Keeps t → s.KeepsAll pr (f t)) : s.KeepsAll pr (o.bind f) := by
  cases o with
  | none => exact allNone
  | some t => exact hf t (h t rfl)

theorem allFoldl {α β : Type} {s : State} {pr : β → State} (l : List α) (f : Option β → α → Option β)
    (hf : ∀ o a, s.KeepsAll pr o → s.KeepsAll pr (f o a)) (o : Option β) (h : s.KeepsAll pr o) :
    s.KeepsAll pr (l.foldl f o) := by
  induction l generalizing o with
  | nil => exact h
  | cons a l ih => exact ih _ (hf o a h)

end Keeps

end Sys2Proof.Machine
end

