-- ==== Sys2Proof/Laws/PerInstr.lean ====
section
/-! SUPPORT. The family Commands: the unit, partition, group or port that a well-formed command names is one the block
has (R20, R21, R52, R112, R124, R127), one lemma per command. -/

namespace Sys2Proof.Laws.Commands

/-- The number of the unit a command acts on, with how many the block has of that kind; none where the command names
no unit, or names it inside a request or a message. -/
def unitOf (i : Instr) : Option (Nat × Nat) :=
  match i with
  | .domainSwitchOn dom => some (dom, 48)
  | .countFlitSend port => some (port, 36)
  | .holdClear part _ => some (part, 8)
  | .abortRegister group => some (group, 64)
  | .completionNotify group => some (group, 64)
  | .divertNotify group => some (group, 64)
  | .abortNotify group => some (group, 64)
  | .memReadBeat port _ => some (port, 12)
  | .memUe port _ => some (port, 12)
  | .memWriteResponse port => some (port, 12)
  | .memWriteError port => some (port, 12)
  | .partRestart part _ => some (part, 8)
  | .linkRetireForced port _ => some (port, 36)
  | .jrnConsumedWrite part _ => some (part, 8)
  | .evtMapWrite line _ => some (line, 4)
  | .nop group => some (group, 64)
  | .step group => some (group, 64)
  | .streamOpen group => some (group, 64)
  | .streamPause group => some (group, 64)
  | .streamResume group => some (group, 64)
  | .streamClose group => some (group, 64)
  | .tableLoadLayer group => some (group, 64)
  | .tableLoadPlacement group => some (group, 64)
  | .tableLoadProfile group => some (group, 64)
  | .tableLoadBias group => some (group, 64)
  | .tableLoadHold group => some (group, 64)
  | .park group => some (group, 64)
  | .parkComplete part => some (part, 8)
  | .wakeCheckDone part _ => some (part, 8)
  | .replayNorm group => some (group, 64)
  | .replayScores group => some (group, 64)
  | .replayTickets group => some (group, 64)
  | .replayPayload group => some (group, 64)
  | .replayCombine group => some (group, 64)
  | .replayReduce group => some (group, 64)
  | .readySend part => some (part, 8)
  | .stepLaunch part => some (part, 8)
  | .passStart part => some (part, 8)
  | .normalise part _ => some (part, 8)
  | .pressRunIssue part _ _ _ _ _ => some (part, 8)
  | .pressRunEnd array _ => some (array, 32)
  | .tileReduce part _ _ => some (part, 8)
  | .softmaxMerge part _ => some (part, 8)
  | .tokenSelect part _ => some (part, 8)
  | .admission part => some (part, 8)
  | .sortEnd part _ => some (part, 8)
  | .microStepStart part _ => some (part, 8)
  | .activeSetFixed part => some (part, 8)
  | .tallyIn part _ _ => some (part, 8)
  | .gwCollect part _ _ _ => some (part, 8)
  | .pileIn part _ _ => some (part, 8)
  | .inputRunAlloc part _ _ => some (part, 8)
  | .returnIn part _ _ => some (part, 8)
  | .waitSend part _ _ _ => some (part, 8)
  | .deadDeclare block => some (block, 32)
  | .sharedTableWrite part _ => some (part, 8)
  | .foldCombine part _ _ _ => some (part, 8)
  | .passComplete part _ => some (part, 8)
  | .stepComplete part => some (part, 8)
  | .reductionStart part _ => some (part, 8)
  | .nodeAdd part _ _ _ => some (part, 8)
  | .chunkSeal part _ => some (part, 8)
  | .sealAudit part => some (part, 8)
  | .preemptRegister group => some (group, 64)
  | .preemptSaveDone group => some (group, 64)
  | .preemptRestore group => some (group, 64)
  | .teardownFinish part => some (part, 8)
  | .journalWrite part => some (part, 8)
  | .failedFlit port => some (port, 36)
  | .phyAlign port => some (port, 36)
  | .trainBoundExpire port => some (port, 36)
  | .retrainExpire port => some (port, 36)
  | .portServiceStart port => some (port, 36)
  | .uplinkFrameLost port => some (port, 36)
  | .uplinkShareRedivide port => some (port, 36)
  | .lkBucketLeak port => some (port, 36)
  | .prBucketLeak array => some (array, 32)
  | .fdBucketLeak cluster => some (cluster, 4)
  | .memBucketLeak port => some (port, 12)
  | .alignmentLoss port => some (port, 36)
  | .memRequestAccepted port => some (port, 12)
  | _ => none

/-- A well-formed command names a unit that the block has. -/
def Statement (i : Instr) : Prop := wellFormed i = true → ∀ n b, unitOf i = some (n, b) → n < b

/-- A command that names no unit has nothing to show. -/
theorem of_none {i : Instr} (e : unitOf i = none) : Statement i := by
  intro _ n b k
  rw [e] at k
  cases k

/-- The first of two checks. -/
theorem left {a b : Bool} (h : (a && b) = true) : a = true := (Bool.and_eq_true_iff.mp h).1

/-- A command that names one has its range in its check. -/
theorem of_some {i : Instr} {n b : Nat} (e : unitOf i = some (n, b)) (h : wellFormed i = true → n < b) :
    Statement i := by
  intro k m c f
  rw [e] at f
  cases f
  exact h k

theorem rstNAssert : Statement .rstNAssert := of_none rfl
theorem rstNDeassert (sfdp : SfdpRead) (hdrA hdrB : Bytes) (us : Nat) : Statement (.rstNDeassert sfdp hdrA hdrB us) :=
  of_none rfl
theorem copyReadDone (copy : CopyId) (img : Bytes) (us : Nat) : Statement (.copyReadDone copy img us) := of_none rfl
theorem clockCheck (cycles us : Nat) : Statement (.clockCheck cycles us) := of_none rfl
theorem repair (record : Option Bytes) (page : Byte) (logs : List Bytes) (us : Nat) : Statement (.repair record page logs us) :=
  of_none rfl
theorem domainSwitchOn (dom : Nat) : Statement (.domainSwitchOn dom) := of_some rfl fun h => of_decide_eq_true h
theorem load (img : Bytes) (us : Nat) : Statement (.load img us) := of_none rfl
theorem linkTrainEnd (timeout : Bool) : Statement (.linkTrainEnd timeout) := of_none rfl
theorem headListenEnd : Statement .headListenEnd := of_none rfl
theorem lockAcquired : Statement .lockAcquired := of_none rfl
theorem stitchLockTimeout (us : Nat) : Statement (.stitchLockTimeout us) := of_none rfl
theorem partitionUp (us : Nat) : Statement (.partitionUp us) := of_none rfl
theorem keyProgram (value : Word) : Statement (.keyProgram value) := of_none rfl
theorem keyProgramDone : Statement .keyProgramDone := of_none rfl
theorem pwrAlert : Statement .pwrAlert := of_none rfl
theorem pwrAlertRelease (us : Nat) : Statement (.pwrAlertRelease us) := of_none rfl
theorem thermTrip (us : Nat) : Statement (.thermTrip us) := of_none rfl
theorem thermTripRelease : Statement .thermTripRelease := of_none rfl
theorem stitchRefEdge (offsetPs : Int) : Statement (.stitchRefEdge offsetPs) := of_none rfl
theorem stitchRefMiss : Statement .stitchRefMiss := of_none rfl
theorem stitchBoundary (runs others : List Nat) : Statement (.stitchBoundary runs others) := of_none rfl
theorem lockLoss : Statement .lockLoss := of_none rfl
theorem stitchSlip (refCount : Nat) : Statement (.stitchSlip refCount) := of_none rfl
theorem stitchRelaySwitch (lockedDirect : List Nat) : Statement (.stitchRelaySwitch lockedDirect) := of_none rfl
theorem stitchDirectRestore : Statement .stitchDirectRestore := of_none rfl
theorem countFlitSend (port : Nat) : Statement (.countFlitSend port) := of_some rfl fun h => of_decide_eq_true h
theorem timeSend (chan txOfs : Nat) : Statement (.timeSend chan txOfs) := of_none rfl
theorem ringDoorbell (req : SeamReq) : Statement (.ringDoorbell req) := of_none rfl
theorem layerDoorbell (req : SeamReq) : Statement (.layerDoorbell req) := of_none rfl
theorem engineCompletion (req : SeamReq) : Statement (.engineCompletion req) := of_none rfl
theorem weightWriteRelease (req : SeamReq) : Statement (.weightWriteRelease req) := of_none rfl
theorem holdClear (part layer : Nat) : Statement (.holdClear part layer) :=
  of_some rfl fun h => of_decide_eq_true (left h)
theorem abortRequest (req : SeamReq) : Statement (.abortRequest req) := of_none rfl
theorem abortRegister (group : Nat) : Statement (.abortRegister group) := of_some rfl fun h => of_decide_eq_true h
theorem seamInvalidRequest (req : SeamRaw) : Statement (.seamInvalidRequest req) := of_none rfl
theorem completionNotify (group : Nat) : Statement (.completionNotify group) := of_some rfl fun h => of_decide_eq_true h
theorem workReadyNotify (tag : Nat) : Statement (.workReadyNotify tag) := of_none rfl
theorem divertNotify (group : Nat) : Statement (.divertNotify group) := of_some rfl fun h => of_decide_eq_true h
theorem abortNotify (group : Nat) : Statement (.abortNotify group) := of_some rfl fun h => of_decide_eq_true h
theorem memReadBeat (port : Nat) (beat : MemBeat) : Statement (.memReadBeat port beat) :=
  of_some rfl fun h => of_decide_eq_true (left h)
theorem memUe (port : Nat) (beat : UeBeat) : Statement (.memUe port beat) :=
  of_some rfl fun h => of_decide_eq_true h
theorem memWriteResponse (port : Nat) : Statement (.memWriteResponse port) := of_some rfl fun h => of_decide_eq_true h
theorem memWriteError (port : Nat) : Statement (.memWriteError port) := of_some rfl fun h => of_decide_eq_true h
theorem memRetry (again : RetryEnd) : Statement (.memRetry again) := of_none rfl
theorem partRestart (part : Nat) (value : Word) : Statement (.partRestart part value) :=
  of_some rfl fun h => of_decide_eq_true h
theorem linkRetireForced (port : Nat) (value : Word) : Statement (.linkRetireForced port value) :=
  of_some rfl fun h => of_decide_eq_true h
theorem jrnConsumedWrite (part : Nat) (value : Word) : Statement (.jrnConsumedWrite part value) :=
  of_some rfl fun h => of_decide_eq_true h
theorem shutdownRequest (value : Word) : Statement (.shutdownRequest value) := of_none rfl
theorem calSet (value : Word) : Statement (.calSet value) := of_none rfl
theorem evtMapWrite (line : Nat) (value : Word) : Statement (.evtMapWrite line value) :=
  of_some rfl fun h => of_decide_eq_true h
theorem pwrTelemWrite (value : Word) : Statement (.pwrTelemWrite value) := of_none rfl
theorem w1cClear (addr : Nat) (value setNow : Word) : Statement (.w1cClear addr value setNow) := of_none rfl
theorem rcCounterRead (addr add : Nat) : Statement (.rcCounterRead addr add) := of_none rfl
theorem splitLoRead (addr : Nat) : Statement (.splitLoRead addr) := of_none rfl
theorem registerWriteOther (addr : Nat) (value : Word) : Statement (.registerWriteOther addr value) := of_none rfl
theorem wsBypass : Statement .wsBypass := of_none rfl
theorem wsExtest : Statement .wsExtest := of_none rfl
theorem wsIntest : Statement .wsIntest := of_none rfl
theorem selftestRun : Statement .selftestRun := of_none rfl
theorem scanAccess : Statement .scanAccess := of_none rfl
theorem mbistAccess : Statement .mbistAccess := of_none rfl
theorem nop (group : Nat) : Statement (.nop group) := of_some rfl fun h => of_decide_eq_true h
theorem step (group : Nat) : Statement (.step group) := of_some rfl fun h => of_decide_eq_true h
theorem streamOpen (group : Nat) : Statement (.streamOpen group) := of_some rfl fun h => of_decide_eq_true h
theorem streamPause (group : Nat) : Statement (.streamPause group) := of_some rfl fun h => of_decide_eq_true h
theorem streamResume (group : Nat) : Statement (.streamResume group) := of_some rfl fun h => of_decide_eq_true h
theorem streamClose (group : Nat) : Statement (.streamClose group) := of_some rfl fun h => of_decide_eq_true h
theorem tableLoadLayer (group : Nat) : Statement (.tableLoadLayer group) := of_some rfl fun h => of_decide_eq_true h
theorem tableLoadPlacement (group : Nat) : Statement (.tableLoadPlacement group) :=
  of_some rfl fun h => of_decide_eq_true h
theorem tableLoadProfile (group : Nat) : Statement (.tableLoadProfile group) := of_some rfl fun h => of_decide_eq_true h
theorem tableLoadBias (group : Nat) : Statement (.tableLoadBias group) := of_some rfl fun h => of_decide_eq_true h
theorem tableLoadHold (group : Nat) : Statement (.tableLoadHold group) := of_some rfl fun h => of_decide_eq_true h
theorem park (group : Nat) : Statement (.park group) := of_some rfl fun h => of_decide_eq_true h
theorem parkComplete (part : Nat) : Statement (.parkComplete part) := of_some rfl fun h => of_decide_eq_true h
theorem wakeCheckDone (part layers : Nat) : Statement (.wakeCheckDone part layers) :=
  of_some rfl fun h => of_decide_eq_true (left h)
theorem replayNorm (group : Nat) : Statement (.replayNorm group) := of_some rfl fun h => of_decide_eq_true h
theorem replayScores (group : Nat) : Statement (.replayScores group) := of_some rfl fun h => of_decide_eq_true h
theorem replayTickets (group : Nat) : Statement (.replayTickets group) := of_some rfl fun h => of_decide_eq_true h
theorem replayPayload (group : Nat) : Statement (.replayPayload group) := of_some rfl fun h => of_decide_eq_true h
theorem replayCombine (group : Nat) : Statement (.replayCombine group) := of_some rfl fun h => of_decide_eq_true h
theorem replayReduce (group : Nat) : Statement (.replayReduce group) := of_some rfl fun h => of_decide_eq_true h
theorem readySend (part : Nat) : Statement (.readySend part) := of_some rfl fun h => of_decide_eq_true h
theorem ready (msg : Msg) : Statement (.ready msg) := of_none rfl
theorem podReady (msg : Msg) : Statement (.podReady msg) := of_none rfl
theorem launch (msg : Msg) : Statement (.launch msg) := of_none rfl
theorem stepLaunch (part : Nat) : Statement (.stepLaunch part) := of_some rfl fun h => of_decide_eq_true h
theorem passStart (part : Nat) : Statement (.passStart part) := of_some rfl fun h => of_decide_eq_true h
theorem normalise (part block : Nat) : Statement (.normalise part block) := of_some rfl fun h => of_decide_eq_true h
theorem pressRunIssue (part array block tile setNo seg : Nat) :
    Statement (.pressRunIssue part array block tile setNo seg) :=
  of_some rfl fun h => of_decide_eq_true (left (left h))
theorem pressRunEnd (array : Nat) (errs : List CellErr) : Statement (.pressRunEnd array errs) :=
  of_some rfl fun h => of_decide_eq_true (left h)
theorem tileReduce (part row tile : Nat) : Statement (.tileReduce part row tile) :=
  of_some rfl fun h => of_decide_eq_true h
theorem softmaxMerge (part row : Nat) : Statement (.softmaxMerge part row) := of_some rfl fun h => of_decide_eq_true h
theorem tokenSelect (part row : Nat) : Statement (.tokenSelect part row) := of_some rfl fun h => of_decide_eq_true h
theorem admission (part : Nat) : Statement (.admission part) := of_some rfl fun h => of_decide_eq_true h
theorem sortEnd (part layer : Nat) : Statement (.sortEnd part layer) := of_some rfl fun h => of_decide_eq_true (left h)
theorem microStepStart (part layer : Nat) : Statement (.microStepStart part layer) :=
  of_some rfl fun h => of_decide_eq_true (left h)
theorem roster (msg : Msg) : Statement (.roster msg) := of_none rfl
theorem activeSetFixed (part : Nat) : Statement (.activeSetFixed part) := of_some rfl fun h => of_decide_eq_true h
theorem tally (msg : Msg) : Statement (.tally msg) := of_none rfl
theorem tallyIn (part layer micro : Nat) : Statement (.tallyIn part layer micro) :=
  of_some rfl fun h => of_decide_eq_true (left h)
theorem gwTally (msg : Msg) : Statement (.gwTally msg) := of_none rfl
theorem grant (msg : Msg) : Statement (.grant msg) := of_none rfl
theorem gwCollect (part layer micro src : Nat) : Statement (.gwCollect part layer micro src) :=
  of_some rfl fun h => of_decide_eq_true (left (left h))
theorem gwGrant (msg : Msg) : Statement (.gwGrant msg) := of_none rfl
theorem pile (msg : Msg) : Statement (.pile msg) := of_none rfl
theorem gwPile (msg : Msg) : Statement (.gwPile msg) := of_none rfl
theorem pileIn (part layer micro : Nat) : Statement (.pileIn part layer micro) :=
  of_some rfl fun h => of_decide_eq_true (left h)
theorem inputRunAlloc (part layer micro : Nat) : Statement (.inputRunAlloc part layer micro) :=
  of_some rfl fun h => of_decide_eq_true (left h)
theorem returnPile (msg : Msg) : Statement (.returnPile msg) := of_none rfl
theorem gwReturn (msg : Msg) : Statement (.gwReturn msg) := of_none rfl
theorem returnIn (part layer micro : Nat) : Statement (.returnIn part layer micro) :=
  of_some rfl fun h => of_decide_eq_true (left h)
theorem voidMsg (msg : Msg) : Statement (.voidMsg msg) := of_none rfl
theorem finalMsg (msg : Msg) : Statement (.finalMsg msg) := of_none rfl
theorem waitSend (part layer micro handler : Nat) : Statement (.waitSend part layer micro handler) :=
  of_some rfl fun h => of_decide_eq_true (left (left h))
theorem waitMsg (msg : Msg) : Statement (.waitMsg msg) := of_none rfl
theorem straggle (msg : Msg) : Statement (.straggle msg) := of_none rfl
theorem deadDeclare (block : Nat) : Statement (.deadDeclare block) := of_some rfl fun h => of_decide_eq_true h
theorem dead (msg : Msg) : Statement (.dead msg) := of_none rfl
theorem withdraw (msg : Msg) : Statement (.withdraw msg) := of_none rfl
theorem biasCounts (msg : Msg) : Statement (.biasCounts msg) := of_none rfl
theorem biasTable (msg : Msg) : Statement (.biasTable msg) := of_none rfl
theorem linkMap (msg : Msg) : Statement (.linkMap msg) := of_none rfl
theorem railMap (msg : Msg) : Statement (.railMap msg) := of_none rfl
theorem portReportSend : Statement .portReportSend := of_none rfl
theorem portReport (msg : Msg) : Statement (.portReport msg) := of_none rfl
theorem cal (msg : Msg) : Statement (.cal msg) := of_none rfl
theorem calSend : Statement .calSend := of_none rfl
theorem plan (msg : Msg) : Statement (.plan msg) := of_none rfl
theorem sharedTableWrite (part layer : Nat) : Statement (.sharedTableWrite part layer) :=
  of_some rfl fun h => of_decide_eq_true (left h)
theorem foldCombine (part layer row : Nat) (mismatch : Nat) : Statement (.foldCombine part layer row mismatch) :=
  of_some rfl fun h => of_decide_eq_true (left (left h))
theorem passComplete (part layer : Nat) : Statement (.passComplete part layer) :=
  of_some rfl fun h => of_decide_eq_true (left h)
theorem stepComplete (part : Nat) : Statement (.stepComplete part) := of_some rfl fun h => of_decide_eq_true h
theorem reductionStart (part layer : Nat) : Statement (.reductionStart part layer) :=
  of_some rfl fun h => of_decide_eq_true (left h)
theorem nodeAdd (part node chunk : Nat) (mismatch : Nat) : Statement (.nodeAdd part node chunk mismatch) :=
  of_some rfl fun h => of_decide_eq_true (left (left h))
theorem fdValue (msg : Msg) : Statement (.fdValue msg) := of_none rfl
theorem fdResult (msg : Msg) : Statement (.fdResult msg) := of_none rfl
theorem chunkSeal (part chunk : Nat) : Statement (.chunkSeal part chunk) := of_some rfl fun h => of_decide_eq_true h
theorem fdAbort (msg : Msg) : Statement (.fdAbort msg) := of_none rfl
theorem fdPoison (msg : Msg) : Statement (.fdPoison msg) := of_none rfl
theorem sealAudit (part : Nat) : Statement (.sealAudit part) := of_some rfl fun h => of_decide_eq_true h
theorem preemptRegister (group : Nat) : Statement (.preemptRegister group) := of_some rfl fun h => of_decide_eq_true h
theorem preemptSaveDone (group : Nat) : Statement (.preemptSaveDone group) := of_some rfl fun h => of_decide_eq_true h
theorem preemptRestore (group : Nat) : Statement (.preemptRestore group) := of_some rfl fun h => of_decide_eq_true h
theorem teardownFinish (part : Nat) : Statement (.teardownFinish part) := of_some rfl fun h => of_decide_eq_true h
theorem journalWrite (part : Nat) : Statement (.journalWrite part) := of_some rfl fun h => of_decide_eq_true h
theorem hamperAlloc (reqs : List CellReq) : Statement (.hamperAlloc reqs) := of_none rfl
theorem hamperRelease (buffer : Bool × Nat) (n : Nat) : Statement (.hamperRelease buffer n) := of_none rfl
theorem hamperAddRef (buffer : Bool × Nat) (refs : List Nat) (rest : RefCycle) : Statement (.hamperAddRef buffer refs rest) :=
  of_none rfl
theorem dataFlitReceive (chan : Nat) (flit : RxFlit) : Statement (.dataFlitReceive chan flit) :=
  of_none rfl
theorem idleFlitReceive (chan : Nat) (flit : RxFlit) : Statement (.idleFlitReceive chan flit) :=
  of_none rfl
theorem failedFlit (port : Nat) : Statement (.failedFlit port) := of_some rfl fun h => of_decide_eq_true h
theorem nackSend (chan : Nat) : Statement (.nackSend chan) := of_none rfl
theorem nackTimeout (chan seq : Nat) : Statement (.nackTimeout chan seq) := of_none rfl
theorem nack (chan : Nat) (flit : Bytes) : Statement (.nack chan flit) := of_none rfl
theorem resend (chan : Nat) : Statement (.resend chan) := of_none rfl
theorem hello (chan : Nat) (flit : Bytes) : Statement (.hello chan flit) := of_none rfl
theorem time (chan : Nat) (flit : Bytes) (arrivalPs : Nat) : Statement (.time chan flit arrivalPs) := of_none rfl
theorem count (chan : Nat) (flit : Bytes) : Statement (.count chan flit) := of_none rfl
theorem probe (chan : Nat) (flit : Bytes) (roundTripPs : Nat) : Statement (.probe chan flit roundTripPs) := of_none rfl
theorem retire (chan : Nat) (flit : Bytes) : Statement (.retire chan flit) := of_none rfl
theorem relayReject (chan : Nat) (flit : Bytes) : Statement (.relayReject chan flit) := of_none rfl
theorem relayForward (msg : Msg) : Statement (.relayForward msg) := of_none rfl
theorem phyAlign (port : Nat) : Statement (.phyAlign port) := of_some rfl fun h => of_decide_eq_true h
theorem trainBoundExpire (port : Nat) : Statement (.trainBoundExpire port) := of_some rfl fun h => of_decide_eq_true h
theorem retrainExpire (port : Nat) : Statement (.retrainExpire port) := of_some rfl fun h => of_decide_eq_true h
theorem portServiceStart (port : Nat) : Statement (.portServiceStart port) := of_some rfl fun h => of_decide_eq_true h
theorem uplinkIdleFrame (chan : Nat) : Statement (.uplinkIdleFrame chan) := of_none rfl
theorem uplinkFrameLost (port : Nat) : Statement (.uplinkFrameLost port) := of_some rfl fun h => of_decide_eq_true h
theorem uplinkShareRedivide (port : Nat) : Statement (.uplinkShareRedivide port) :=
  of_some rfl fun h => of_decide_eq_true h
theorem lkBucketLeak (port : Nat) : Statement (.lkBucketLeak port) := of_some rfl fun h => of_decide_eq_true h
theorem prBucketLeak (array : Nat) : Statement (.prBucketLeak array) := of_some rfl fun h => of_decide_eq_true h
theorem fdBucketLeak (cluster : Nat) : Statement (.fdBucketLeak cluster) := of_some rfl fun h => of_decide_eq_true h
theorem memBucketLeak (port : Nat) : Statement (.memBucketLeak port) := of_some rfl fun h => of_decide_eq_true h
theorem energyWindowClose (ops : List Nat) : Statement (.energyWindowClose ops) := of_none rfl
theorem drainEnd : Statement .drainEnd := of_none rfl
theorem selftestCheck (cycles vddMv : Nat) : Statement (.selftestCheck cycles vddMv) := of_none rfl
theorem logicTestEnd (misr : List (Nat × Nat × BitVec 64)) (reinit : List (Nat × Nat)) : Statement (.logicTestEnd misr reinit) :=
  of_none rfl
theorem memoryTestEnd (bits : List BadBit) : Statement (.memoryTestEnd bits) := of_none rfl
theorem resultWriteEnd (ok : Bool) : Statement (.resultWriteEnd ok) := of_none rfl
theorem lintPart (fail : Option Nat) : Statement (.lintPart fail) := of_none rfl
theorem logWrite : Statement .logWrite := of_none rfl
theorem calendarTick : Statement .calendarTick := of_none rfl
theorem alignmentLoss (port : Nat) : Statement (.alignmentLoss port) := of_some rfl fun h => of_decide_eq_true h
theorem helloSend (chan : Nat) : Statement (.helloSend chan) := of_none rfl
theorem seamCreditReturn (gen2 response : Bool) : Statement (.seamCreditReturn gen2 response) := of_none rfl
theorem memRequestAccepted (port : Nat) : Statement (.memRequestAccepted port) :=
  of_some rfl fun h => of_decide_eq_true h
theorem alwaysOnSupplyLoss : Statement .alwaysOnSupplyLoss := of_none rfl
theorem alwaysOnSupplyUp : Statement .alwaysOnSupplyUp := of_none rfl

end Sys2Proof.Laws.Commands
end

