-- ==== Sys2Proof/Laws/SharedLink.lean ====
section
/-! SUPPORT. What the shared operations over registers, descriptors, ports, HAMPER, wires, links and messages keep: one lemma per operation,
cited by the proofs about single commands instead of unfolding it. -/

namespace Sys2Proof.Machine

theorem State.setReg_keeps {s0 s : State} (a : Nat) (v : Word) (h : s0.Keeps s) : s0.Keeps (s.setReg a v) :=
  Keeps.upd h rfl rfl rfl rfl rfl id (spWf_spSet _ _ _) id id id

theorem State.latch_keeps {s0 s : State} (a : Nat) (v : Word) (h0 : s0.Keeps s) :
    s0.Keeps (s.latch a v) := by
  unfold State.latch
  repeat' with_reducible first
    | assumption
    | exact fun h => h
    | apply State.setReg_keeps
    | (refine Keeps.ofIte (fun _ => ?_) (fun _ => ?_))

theorem State.bump_keeps {s0 s : State} (a n : Nat) (h0 : s0.Keeps s) :
    s0.Keeps (s.bump a n) := by
  unfold State.bump
  repeat' with_reducible first
    | assumption
    | exact fun h => h
    | apply State.setReg_keeps
    | (refine Keeps.ofIte (fun _ => ?_) (fun _ => ?_))

theorem State.raise_keeps {s0 s : State} (a i : Nat) (h0 : s0.Keeps s) :
    s0.Keeps (s.raise a i) := by
  unfold State.raise
  repeat' with_reducible first
    | assumption
    | exact fun h => h
    | apply State.setReg_keeps
    | (refine Keeps.ofIte (fun _ => ?_) (fun _ => ?_))

theorem State.domainOff_keeps {s0 s : State} (n : Nat) (h : s0.Keeps s) : s0.Keeps (s.domainOff n) :=
  Keeps.upd h rfl rfl rfl rfl rfl id (spWf_filter _ _) id id id

theorem State.domainOn_keeps {s0 s : State} (n : Nat) (h0 : s0.Keeps s) :
    s0.Keeps (s.domainOn n) := by
  unfold State.domainOn
  repeat' with_reducible first
    | assumption
    | exact fun h => h
    | (extract_lets +onlyGivenNames x; clear_value (e : x = _); subst e)
    | (refine Keeps.upd ?_ rfl rfl rfl rfl rfl ?_ ?_ ?_ ?_ ?_)

theorem State.domainsOff_keeps {s0 s : State} (ns : List Nat) (h0 : s0.Keeps s) :
    s0.Keeps (s.domainsOff ns) := by
  unfold State.domainsOff
  repeat' with_reducible first
    | assumption
    | exact fun h => h
    | apply State.domainOff_keeps
    | (refine Keeps.foldl _ _ (fun u a hu => ?_) ?_)

theorem State.rampsOff_keeps {s0 s : State}  (h0 : s0.Keeps s) :
    s0.Keeps (s.rampsOff) := by
  unfold State.rampsOff
  repeat' with_reducible first
    | assumption
    | exact fun h => h
    | (extract_lets +onlyGivenNames x; clear_value (e : x = _); subst e)
    | (refine Keeps.upd ?_ rfl rfl rfl rfl rfl ?_ ?_ ?_ ?_ ?_)

theorem State.onPart_keeps {s0 s : State} (p : Nat) (f : Part → Part) (h0 : s0.Keeps s) :
    s0.Keeps (s.onPart p f) := by
  unfold State.onPart
  repeat' with_reducible first
    | assumption
    | exact fun h => h
    | (refine Keeps.upd ?_ rfl rfl rfl rfl rfl ?_ ?_ ?_ ?_ ?_)
    | exact Keeps.setLen

theorem State.onGroup_keeps {s0 s : State} (g : Nat) (f : Group → Group) (h0 : s0.Keeps s) :
    s0.Keeps (s.onGroup g f) := by
  unfold State.onGroup
  repeat' with_reducible first
    | assumption
    | exact fun h => h
    | (refine Keeps.upd ?_ rfl rfl rfl rfl rfl ?_ ?_ ?_ ?_ ?_)
    | exact Keeps.setLen

theorem State.onPort_keeps {s0 s : State} (p : Nat) (f : Port → Port) (h0 : s0.Keeps s) :
    s0.Keeps (s.onPort p f) := by
  unfold State.onPort
  repeat' with_reducible first
    | assumption
    | exact fun h => h
    | (extract_lets +onlyGivenNames x; clear_value (e : x = _); subst e)
    | (refine Keeps.upd ?_ rfl rfl rfl rfl rfl ?_ ?_ ?_ ?_ ?_)
    | exact Keeps.setLen

theorem State.onChan_keeps {s0 s : State} (id : Nat) (f : Chan → Chan) (h0 : s0.Keeps s) :
    s0.Keeps (s.onChan id f) := by
  unfold State.onChan
  repeat' with_reducible first
    | assumption
    | exact fun h => h
    | (extract_lets +onlyGivenNames x; clear_value (e : x = _); subst e)
    | (refine Keeps.ofIte (fun _ => ?_) (fun _ => ?_))
    | split
    | (refine Keeps.upd ?_ rfl rfl rfl rfl rfl ?_ ?_ ?_ ?_ ?_)

theorem State.onStep_keeps {s0 s : State} (p : Nat) (f : StepSt → StepSt) (h0 : s0.Keeps s) :
    s0.Keeps (s.onStep p f) := by
  unfold State.onStep
  repeat' with_reducible first
    | assumption
    | exact fun h => h
    | apply State.onPart_keeps

theorem State.onPass_keeps {s0 s : State} (p l : Nat) (f : Pass → Pass) (h0 : s0.Keeps s) :
    s0.Keeps (s.onPass p l f) := by
  unfold State.onPass
  repeat' with_reducible first
    | assumption
    | exact fun h => h
    | apply State.onStep_keeps

theorem State.onMicro_keeps {s0 s : State} (p l m : Nat) (f : Micro → Micro) (h0 : s0.Keeps s) :
    s0.Keeps (s.onMicro p l m f) := by
  unfold State.onMicro
  repeat' with_reducible first
    | assumption
    | exact fun h => h
    | apply State.onPass_keeps

theorem State.replan_keeps {s0 s : State} (p : Nat) (h0 : s0.Keeps s) :
    s0.Keeps (s.replan p) := by
  unfold State.replan
  repeat' with_reducible first
    | assumption
    | exact fun h => h
    | apply State.onPart_keeps

theorem State.leakMark_keeps {s0 s : State} (key : Nat) (h0 : s0.Keeps s) :
    s0.Keeps (s.leakMark key) := by
  unfold State.leakMark
  repeat' with_reducible first
    | assumption
    | exact fun h => h
    | (refine Keeps.upd ?_ rfl rfl rfl rfl rfl ?_ ?_ ?_ ?_ ?_)

theorem State.charge_keeps {s0 s : State} (k n : Nat) (h0 : s0.Keeps s) :
    s0.Keeps (s.charge k n) := by
  unfold State.charge
  repeat' with_reducible first
    | assumption
    | exact fun h => h
    | (extract_lets +onlyGivenNames x; clear_value (e : x = _); subst e)
    | (refine Keeps.upd ?_ rfl rfl rfl rfl rfl ?_ ?_ ?_ ?_ ?_)

theorem State.issueNow_keeps {s0 s : State} (rs : List ReadReq) (ws : List WriteReq) (h0 : s0.Keeps s) :
    s0.Keeps (s.issueNow rs ws) := by
  unfold State.issueNow
  repeat' with_reducible first
    | assumption
    | exact fun h => h
    | (extract_lets +onlyGivenNames x; clear_value (e : x = _); subst e)
    | apply State.charge_keeps
    | (refine Keeps.upd ?_ rfl rfl rfl rfl rfl ?_ ?_ ?_ ?_ ?_)

theorem State.askReads_keeps {s0 s : State} (ps : List (Nat × Nat)) (obj : MemObj) (h0 : s0.Keeps s) :
    s0.Keeps (s.askReads ps obj) := by
  unfold State.askReads
  repeat' with_reducible first
    | assumption
    | exact fun h => h
    | (extract_lets +onlyGivenNames x; clear_value (e : x = _); subst e)
    | apply State.issueNow_keeps
    | (refine Keeps.upd ?_ rfl rfl rfl rfl rfl ?_ ?_ ?_ ?_ ?_)

theorem State.askWrites_keeps {s0 s : State} (ps : List (Nat × Nat)) (obj : MemObj) (h0 : s0.Keeps s) :
    s0.Keeps (s.askWrites ps obj) := by
  unfold State.askWrites
  repeat' with_reducible first
    | assumption
    | exact fun h => h
    | (extract_lets +onlyGivenNames x; clear_value (e : x = _); subst e)
    | apply State.issueNow_keeps
    | (refine Keeps.upd ?_ rfl rfl rfl rfl rfl ?_ ?_ ?_ ?_ ?_)

theorem State.issueSlots_keeps {s0 s : State}  (h0 : s0.Keeps s) :
    s0.Keeps (s.issueSlots) := by
  unfold State.issueSlots
  repeat' with_reducible first
    | assumption
    | exact fun h => h
    | (extract_lets +onlyGivenNames x; clear_value (e : x = _); subst e)
    | apply State.issueNow_keeps
    | (refine Keeps.upd ?_ rfl rfl rfl rfl rfl ?_ ?_ ?_ ?_ ?_)

theorem State.wr_keeps {s0 s : State} (a : Nat) (bs : Bytes) (obj : MemObj) (h : s0.Keeps s) :
    s0.Keeps (s.wr a bs obj) :=
  State.askWrites_keeps _ _ (Keeps.upd h rfl rfl rfl rfl rfl (spWf_memWrite _ _ _) id id id id)

theorem State.issueRead_keeps {s0 s : State} (a len : Nat) (obj : MemObj) (h0 : s0.Keeps s) :
    s0.Keeps (s.issueRead a len obj) := by
  unfold State.issueRead
  repeat' with_reducible first
    | assumption
    | exact fun h => h
    | apply State.askReads_keeps

theorem State.hostWrites_keeps {s0 s : State} (ws : List HostWrite) (h : s0.Keeps s) : s0.Keeps (s.hostWrites ws) := by
  refine Keeps.upd h rfl rfl rfl rfl rfl ?_ id id id id
  intro k
  generalize s.mem = m at k
  induction ws generalizing m with
  | nil => exact k
  | cons w ws ih => exact ih _ (spWf_memWrite _ _ _ k)

theorem State.draw_keeps {s0 s : State}  (h0 : s0.Keeps s) :
    s0.Keeps (s.draw).2 := by
  unfold State.draw
  repeat' with_reducible first
    | assumption
    | exact fun h => h
    | dsimp only
    | (refine Keeps.upd ?_ rfl rfl rfl rfl rfl ?_ ?_ ?_ ?_ ?_)

theorem State.issueReads_keeps {s0 s : State} (rs : List (Nat × Nat)) (obj : MemObj) (h0 : s0.Keeps s) :
    s0.Keeps (s.issueReads rs obj) := by
  unfold State.issueReads
  repeat' with_reducible first
    | assumption
    | exact fun h => h
    | apply State.issueRead_keeps
    | (refine Keeps.foldl _ _ (fun u a hu => ?_) ?_)

theorem State.useTd_keeps {s0 s : State} (p : Nat) (t : Td) (h0 : s0.Keeps s) :
    s0.Keeps (s.useTd p t) := by
  unfold State.useTd
  repeat' with_reducible first
    | assumption
    | exact fun h => h
    | apply State.bump_keeps

theorem Fetch.row_keeps {s0 : State} (p : Nat) (t : Td) (idx : List Int) (k : Nat) (obj : Nat → MemObj) (f : Fetch)
    (r : Nat × Nat) (h0 : s0.Keeps f.st) : s0.Keeps (Fetch.row p t idx k obj f r).st :=
  Keeps.foldl _ _ (fun _ _ h => State.issueRead_keeps _ _ _ h) h0

theorem State.fetchAt_keeps {s0 s : State} (p : Nat) (t : Td) (idx : List Int) (k : Nat) (places : List (Nat × Nat))
    (obj : Nat → MemObj) (h0 : s0.Keeps s) : s0.Keeps (s.fetchAt p t idx k places obj).1 := by
  have key : ∀ (places : List (Nat × Nat)) (f : Fetch), s0.Keeps f.st →
      s0.Keeps (places.foldl (Fetch.row p t idx k obj) f).st := by
    intro places
    induction places with
    | nil => exact fun _ h => h
    | cons r places ih => exact fun f h => ih _ (Fetch.row_keeps p t idx k obj f r h)
  exact key places _ h0

theorem State.fetchRows_keeps {s0 s : State} (p : Nat) (t : Td) (idx : List Int) (k l : Nat) (rows : List Nat)
    (obj : Nat → MemObj) (h0 : s0.Keeps s) : s0.Keeps (s.fetchRows p t idx k l rows obj).1 :=
  State.fetchAt_keeps _ _ _ _ _ _ h0

theorem State.wrBytes_keeps {s0 s : State} (bs : List (Nat × Byte)) (obj : MemObj) (h0 : s0.Keeps s) :
    s0.Keeps (s.wrBytes bs obj) :=
  State.askWrites_keeps _ _ (Keeps.upd h0 rfl rfl rfl rfl rfl (spWf_foldl _ _ (fun _ _ k => spWf_spSet _ _ _ k) _) id id id id)

theorem State.tdPut_keeps {s0 s : State} (p : Nat) (t : Td) (idx : List Int) (es : List (List Nat × Nat × Nat)) (above : List Nat) (obj : MemObj) (h0 : s0.Keeps s) :
    s0.Keeps (s.tdPut p t idx es above obj) := by
  unfold State.tdPut
  repeat' with_reducible first
    | assumption
    | exact fun h => h
    | (extract_lets +onlyGivenNames x; clear_value (e : x = _); subst e)
    | apply State.bump_keeps
    | apply State.wrBytes_keeps

theorem State.tdAdd_keeps {s0 s : State} (p : Nat) (t : Td) (idx : List Int) (es : List (List Nat × F32)) (adds : List (Nat × Nat × F32)) (h0 : s0.Keeps s) :
    s0.Keeps (s.tdAdd p t idx es adds).1 := by
  unfold State.tdAdd
  repeat' with_reducible first
    | assumption
    | exact fun h => h
    | (extract_lets +onlyGivenNames x; clear_value (e : x = _); subst e)
    | apply State.bump_keeps

theorem State.tdFlush_keeps {s0 s : State} (t : Td) (adds mine : List (Nat × Nat × F32)) (obj : Nat → MemObj) (h0 : s0.Keeps s) :
    s0.Keeps (s.tdFlush t adds mine obj) := by
  unfold State.tdFlush
  repeat' with_reducible first
    | assumption
    | exact fun h => h
    | (extract_lets +onlyGivenNames x; clear_value (e : x = _); subst e)
    | apply State.wrBytes_keeps
    | (refine Keeps.foldl _ _ (fun u a hu => ?_) ?_)

theorem State.divideShares_keeps {s0 s : State} (f : Nat → Bool) (h0 : s0.Keeps s) :
    s0.Keeps (s.divideShares f) := by
  unfold State.divideShares
  repeat' with_reducible first
    | assumption
    | exact fun h => h
    | (extract_lets +onlyGivenNames x; clear_value (e : x = _); subst e)
    | (refine Keeps.ofIte (fun _ => ?_) (fun _ => ?_))
    | split
    | (refine Keeps.upd ?_ rfl rfl rfl rfl rfl ?_ ?_ ?_ ?_ ?_)

theorem State.chansStart_keeps {s0 s : State}  (h0 : s0.Keeps s) :
    s0.Keeps (s.chansStart) := by
  unfold State.chansStart
  repeat' with_reducible first
    | assumption
    | exact fun h => h
    | (extract_lets +onlyGivenNames x; clear_value (e : x = _); subst e)
    | apply State.divideShares_keeps
    | (refine Keeps.ofIte (fun _ => ?_) (fun _ => ?_))
    | split
    | (refine Keeps.upd ?_ rfl rfl rfl rfl rfl ?_ ?_ ?_ ?_ ?_)

theorem State.trainAll_keeps {s0 s : State}  (h0 : s0.Keeps s) :
    s0.Keeps (s.trainAll) := by
  unfold State.trainAll
  repeat' with_reducible first
    | assumption
    | exact fun h => h
    | (extract_lets +onlyGivenNames x; clear_value (e : x = _); subst e)
    | apply State.chansStart_keeps
    | (refine Keeps.ofIte (fun _ => ?_) (fun _ => ?_))
    | split
    | (refine Keeps.upd ?_ rfl rfl rfl rfl rfl ?_ ?_ ?_ ?_ ?_)
    | exact Keeps.setLen
    | (intro k; simp)

theorem State.showUnits_keeps {s0 s : State}  (h0 : s0.Keeps s) :
    s0.Keeps (s.showUnits) := by
  unfold State.showUnits
  repeat' with_reducible first
    | assumption
    | exact fun h => h
    | (extract_lets +onlyGivenNames x; clear_value (e : x = _); subst e)
    | (refine Keeps.upd ?_ rfl rfl rfl rfl rfl ?_ ?_ ?_ ?_ ?_)

theorem State.showSlices_keeps {s0 s : State} (p : Nat) (h0 : s0.Keeps s) :
    s0.Keeps (s.showSlices p) := by
  unfold State.showSlices
  repeat' with_reducible first
    | assumption
    | exact fun h => h
    | (extract_lets +onlyGivenNames x; clear_value (e : x = _); subst e)
    | (refine Keeps.ofIte (fun _ => ?_) (fun _ => ?_))
    | split
    | (refine Keeps.upd ?_ rfl rfl rfl rfl rfl ?_ ?_ ?_ ?_ ?_)

theorem State.writeLinks_keeps {s0 s : State} (c : Chain) (h0 : s0.Keeps s) :
    s0.Keeps (s.writeLinks c) := by
  unfold State.writeLinks
  repeat' with_reducible first
    | assumption
    | exact fun h => h
    | (extract_lets +onlyGivenNames x; clear_value (e : x = _); subst e)
    | apply State.wr_keeps
    | (refine Keeps.foldl _ _ (fun u a hu => ?_) ?_)
    | split

theorem State.newChain_keeps {s0 s : State} (o : Nat) (cells : List (Bool × Nat)) (refs : Nat) (pass : Option (Nat × Nat)) (dirty : Bool) (data : Bytes) (h0 : s0.Keeps s) :
    s0.Keeps (s.newChain o cells refs pass dirty data).2 := by
  unfold State.newChain
  repeat' with_reducible first
    | assumption
    | exact fun h => h
    | (extract_lets +onlyGivenNames x; clear_value (e : x = _); subst e)
    | apply State.charge_keeps
    | apply State.writeLinks_keeps
    | apply State.poison_keeps
    | (refine Keeps.ofIte (fun _ => ?_) (fun _ => ?_))
    | split
    | dsimp only
    | (refine Keeps.upd ?_ rfl rfl rfl rfl rfl ?_ ?_ ?_ ?_ ?_)

theorem State.fillCells_keeps {s0 s : State} (cells : List (Bool × Nat)) (data : Bytes) (obj : MemObj) (h0 : s0.Keeps s) :
    s0.Keeps (s.fillCells cells data obj) := by
  unfold State.fillCells
  repeat' with_reducible first
    | assumption
    | exact fun h => h
    | (extract_lets +onlyGivenNames x; clear_value (e : x = _); subst e)
    | apply State.wr_keeps
    | (refine Keeps.ofIte (fun _ => ?_) (fun _ => ?_))
    | (refine Keeps.foldl _ _ (fun u a hu => ?_) ?_)

theorem State.allocStage_keeps {s0 s : State} {o n refs : Nat} {pass : Option (Nat × Nat)} {dirty : Bool} {data : Bytes} {obj : MemObj} {v : Nat} {u : State} (e : (s.allocStage o n refs pass dirty data obj) = some (v, u))
    (h0 : s0.Keeps s) : s0.Keeps u := by
  refine (?_ : s0.KeepsAll (·.2) (s.allocStage o n refs pass dirty data obj)) _ e
  clear e
  unfold State.allocStage
  repeat' with_reducible first
    | assumption
    | exact fun h => h
    | exact Keeps.allNone
    | refine Keeps.allSome ?_
    | (refine Keeps.allIte (fun _ => ?_) (fun _ => ?_))
    | refine Keeps.allMapOf _ _ ?_ (fun _ _ => ?_)
    | refine Keeps.allMap _ _ (fun _ _ => ?_)
    | refine Keeps.allBind _ _ ?_ (fun _ _ => ?_)
    | refine Keeps.allFoldl _ _ (fun _ _ _ => ?_) _ ?_
    | apply State.bump_keeps
    | apply State.newChain_keeps
    | apply State.fillCells_keeps

theorem State.allocMem_keeps {s0 s : State} {o n refs : Nat} {contig : Bool} {pass : Option (Nat × Nat)} {dirty : Bool} {data : Bytes} {v : Nat} {u : State} (e : (s.allocMem o n refs contig pass dirty data) = some (v, u))
    (h0 : s0.Keeps s) : s0.Keeps u := by
  refine (?_ : s0.KeepsAll (·.2) (s.allocMem o n refs contig pass dirty data)) _ e
  clear e
  unfold State.allocMem
  repeat' with_reducible first
    | assumption
    | exact fun h => h
    | exact Keeps.allNone
    | refine Keeps.allSome ?_
    | (refine Keeps.allIte (fun _ => ?_) (fun _ => ?_))
    | refine Keeps.allMapOf _ _ ?_ (fun _ _ => ?_)
    | refine Keeps.allMap _ _ (fun _ _ => ?_)
    | refine Keeps.allBind _ _ ?_ (fun _ _ => ?_)
    | refine Keeps.allFoldl _ _ (fun _ _ _ => ?_) _ ?_
    | apply State.newChain_keeps

theorem State.denied_keeps {s0 s : State} (mem : Bool) (h0 : s0.Keeps s) :
    s0.Keeps (s.denied mem) := by
  unfold State.denied
  repeat' with_reducible first
    | assumption
    | exact fun h => h
    | apply State.bump_keeps
    | (refine Keeps.ofIte (fun _ => ?_) (fun _ => ?_))

theorem State.reserve_keeps {s0 s : State} {o n : Nat} {u : State} (e : (s.reserve o n) = some u)
    (h0 : s0.Keeps s) : s0.Keeps u := by
  refine (?_ : s0.KeepsAll (fun x => x) (s.reserve o n)) _ e
  clear e
  unfold State.reserve
  repeat' with_reducible first
    | assumption
    | exact fun h => h
    | exact Keeps.allNone
    | refine Keeps.allSome ?_
    | (refine Keeps.allIte (fun _ => ?_) (fun _ => ?_))
    | refine Keeps.allMapOf _ _ ?_ (fun _ _ => ?_)
    | refine Keeps.allMap _ _ (fun _ _ => ?_)
    | refine Keeps.allBind _ _ ?_ (fun _ _ => ?_)
    | refine Keeps.allFoldl _ _ (fun _ _ _ => ?_) _ ?_
    | (extract_lets +onlyGivenNames x; clear_value (e : x = _); subst e)
    | (refine Keeps.ofIte (fun _ => ?_) (fun _ => ?_))
    | split
    | dsimp only
    | (refine Keeps.upd ?_ rfl rfl rfl rfl rfl ?_ ?_ ?_ ?_ ?_)

theorem State.unreserve_keeps {s0 s : State} (o n : Nat) (h0 : s0.Keeps s) :
    s0.Keeps (s.unreserve o n) := by
  unfold State.unreserve
  repeat' with_reducible first
    | assumption
    | exact fun h => h
    | (extract_lets +onlyGivenNames x; clear_value (e : x = _); subst e)
    | (refine Keeps.upd ?_ rfl rfl rfl rfl rfl ?_ ?_ ?_ ?_ ?_)

theorem State.runFromReserved_keeps {s0 s : State} {o n : Nat} {pass : Option (Nat × Nat)} {v : Nat} {u : State} (e : (s.runFromReserved o n pass) = some (v, u))
    (h0 : s0.Keeps s) : s0.Keeps u := by
  refine (?_ : s0.KeepsAll (·.2) (s.runFromReserved o n pass)) _ e
  clear e
  unfold State.runFromReserved
  repeat' with_reducible first
    | assumption
    | exact fun h => h
    | exact Keeps.allNone
    | refine Keeps.allSome ?_
    | (refine Keeps.allIte (fun _ => ?_) (fun _ => ?_))
    | refine Keeps.allMapOf _ _ ?_ (fun _ _ => ?_)
    | refine Keeps.allMap _ _ (fun _ _ => ?_)
    | refine Keeps.allBind _ _ ?_ (fun _ _ => ?_)
    | refine Keeps.allFoldl _ _ (fun _ _ _ => ?_) _ ?_
    | apply State.newChain_keeps
    | apply State.unreserve_keeps

theorem State.dropChains_keeps {s0 s : State} (f : Chain → Bool) (h0 : s0.Keeps s) :
    s0.Keeps (s.dropChains f) := by
  unfold State.dropChains
  repeat' with_reducible first
    | assumption
    | exact fun h => h
    | (extract_lets +onlyGivenNames x; clear_value (e : x = _); subst e)
    | split
    | (refine Keeps.upd ?_ rfl rfl rfl rfl rfl ?_ ?_ ?_ ?_ ?_)

theorem State.freeChain_keeps {s0 s : State} (id : Nat) (h0 : s0.Keeps s) :
    s0.Keeps (s.freeChain id) := by
  unfold State.freeChain
  repeat' with_reducible first
    | assumption
    | exact fun h => h
    | apply State.dropChains_keeps

theorem State.freeOwner_keeps {s0 s : State} (o : Nat) (h0 : s0.Keeps s) :
    s0.Keeps (s.freeOwner o) := by
  unfold State.freeOwner
  repeat' with_reducible first
    | assumption
    | exact fun h => h
    | (extract_lets +onlyGivenNames x; clear_value (e : x = _); subst e)
    | apply State.dropChains_keeps
    | (refine Keeps.upd ?_ rfl rfl rfl rfl rfl ?_ ?_ ?_ ?_ ?_)

theorem State.readLinks_keeps {s0 s : State} (c : Chain) (n : Nat) (h0 : s0.Keeps s) :
    s0.Keeps (s.readLinks c n) := by
  unfold State.readLinks
  repeat' with_reducible first
    | assumption
    | exact fun h => h
    | (extract_lets +onlyGivenNames x; clear_value (e : x = _); subst e)
    | apply State.issueRead_keeps
    | apply State.take_keeps
    | (refine Keeps.foldl _ _ (fun u a hu => ?_) ?_)

theorem State.setChain_keeps {s0 s : State} (d : Chain) (h0 : s0.Keeps s) :
    s0.Keeps (s.setChain d) := by
  unfold State.setChain
  repeat' with_reducible first
    | assumption
    | exact fun h => h
    | (extract_lets +onlyGivenNames x; clear_value (e : x = _); subst e)
    | apply State.writeLinks_keeps
    | (refine Keeps.ofIte (fun _ => ?_) (fun _ => ?_))
    | split
    | (refine Keeps.upd ?_ rfl rfl rfl rfl rfl ?_ ?_ ?_ ?_ ?_)

theorem State.releaseN_keeps {s0 s : State} (mem : Bool) (cell n : Nat) (h0 : s0.Keeps s) :
    s0.Keeps (s.releaseN mem cell n) := by
  unfold State.releaseN
  repeat' with_reducible first
    | assumption
    | exact fun h => h
    | (extract_lets +onlyGivenNames x; clear_value (e : x = _); subst e)
    | apply State.bump_keeps
    | apply State.freeChain_keeps
    | apply State.readLinks_keeps
    | apply State.setChain_keeps
    | (refine Keeps.ofIte (fun _ => ?_) (fun _ => ?_))
    | split

theorem State.release_keeps {s0 s : State} (mem : Bool) (cell : Nat) (h0 : s0.Keeps s) :
    s0.Keeps (s.release mem cell) := by
  unfold State.release
  repeat' with_reducible first
    | assumption
    | exact fun h => h
    | apply State.releaseN_keeps

theorem State.releaseId_keeps {s0 s : State} (id : Nat) (h0 : s0.Keeps s) :
    s0.Keeps (s.releaseId id) := by
  unfold State.releaseId
  repeat' with_reducible first
    | assumption
    | exact fun h => h
    | apply State.release_keeps
    | split

theorem State.allocFilled_keeps {s0 s : State} {r : CellReq} {dirty : Bool} {data : Bytes} {obj : MemObj} {v : Nat} {u : State} (e : (s.allocFilled r dirty data obj) = some (v, u))
    (h0 : s0.Keeps s) : s0.Keeps u := by
  refine (?_ : s0.KeepsAll (·.2) (s.allocFilled r dirty data obj)) _ e
  clear e
  unfold State.allocFilled
  repeat' with_reducible first
    | assumption
    | exact fun h => h
    | exact Keeps.allNone
    | refine Keeps.allSome ?_
    | (refine Keeps.allIte (fun _ => ?_) (fun _ => ?_))
    | refine Keeps.allMapOf _ _ ?_ (fun _ _ => ?_)
    | refine Keeps.allMap _ _ (fun _ _ => ?_)
    | refine Keeps.allBind _ _ ?_ (fun _ _ => ?_)
    | refine Keeps.allFoldl _ _ (fun _ _ _ => ?_) _ ?_
    | apply State.fillCells_keeps
    | (refine State.allocMem_keeps (by assumption) ?_)

theorem State.serveReq_keeps {s0 s : State} (r : CellReq) (h0 : s0.Keeps s) :
    s0.Keeps (s.serveReq r) := by
  unfold State.serveReq
  repeat' with_reducible first
    | assumption
    | exact fun h => h
    | (extract_lets +onlyGivenNames x; clear_value (e : x = _); subst e)
    | (refine State.allocStage_keeps (by assumption) ?_)
    | apply State.denied_keeps
    | (refine State.allocFilled_keeps (by assumption) ?_)
    | (rename_i q; split at q)
    | (refine Keeps.ofIte (fun _ => ?_) (fun _ => ?_))
    | split
    | (refine Keeps.upd ?_ rfl rfl rfl rfl rfl ?_ ?_ ?_ ?_ ?_)

theorem State.serveCycle_keeps {s0 s : State} (reqs : List CellReq) (h0 : s0.Keeps s) :
    s0.Keeps (s.serveCycle reqs) := by
  unfold State.serveCycle
  repeat' with_reducible first
    | assumption
    | exact fun h => h
    | (extract_lets +onlyGivenNames x; clear_value (e : x = _); subst e)
    | apply State.serveReq_keeps
    | (refine Keeps.foldl _ _ (fun u a hu => ?_) ?_)
    | (refine Keeps.upd ?_ rfl rfl rfl rfl rfl ?_ ?_ ?_ ?_ ?_)

theorem State.addRef_keeps {s0 s : State} (mem : Bool) (cell : Nat) (copy : CellReq) (k : Nat) (h0 : s0.Keeps s) :
    s0.Keeps (s.addRef mem cell copy k) := by
  unfold State.addRef
  repeat' with_reducible first
    | assumption
    | exact fun h => h
    | (extract_lets +onlyGivenNames x; clear_value (e : x = _); subst e)
    | apply State.bump_keeps
    | apply State.readLinks_keeps
    | apply State.setChain_keeps
    | apply State.serveReq_keeps
    | (refine Keeps.ofIte (fun _ => ?_) (fun _ => ?_))
    | split

theorem State.stamp_keeps {s0 s : State} (c : Chan) (fs : List Flit) (h0 : s0.Keeps s) :
    s0.Keeps (s.stamp c fs).2 := by
  unfold State.stamp
  repeat' with_reducible first
    | assumption
    | exact fun h => h
    | apply State.onChan_keeps
    | apply State.draw_keeps
    | (refine Keeps.ofIte (fun _ => ?_) (fun _ => ?_))
    | split

theorem State.emit_keeps {s0 s : State} (c : Chan) (fs : List Flit) (h0 : s0.Keeps s) :
    s0.Keeps (s.emit c fs) := by
  unfold State.emit
  repeat' with_reducible first
    | assumption
    | exact fun h => h
    | (extract_lets +onlyGivenNames x; clear_value (e : x = _); subst e)
    | apply State.onChan_keeps
    | apply State.charge_keeps
    | (refine Keeps.ofIte (fun _ => ?_) (fun _ => ?_))
    | split
    | (refine Keeps.upd ?_ rfl rfl rfl rfl rfl ?_ ?_ ?_ ?_ ?_)

theorem State.drive_keeps {s0 s : State} (c : Chan) (fs : List Flit) (h0 : s0.Keeps s) :
    s0.Keeps (s.drive c fs) := by
  unfold State.drive
  repeat' with_reducible first
    | assumption
    | exact fun h => h
    | (extract_lets +onlyGivenNames x; clear_value (e : x = _); subst e)
    | apply State.stamp_keeps
    | apply State.emit_keeps

theorem State.control_keeps {s0 s : State} (id : Nat) (payload : Bytes) (h0 : s0.Keeps s) :
    s0.Keeps (s.control id payload) := by
  unfold State.control
  repeat' with_reducible first
    | assumption
    | exact fun h => h
    | apply State.drive_keeps
    | (refine Keeps.ofIte (fun _ => ?_) (fun _ => ?_))
    | split

theorem State.pump_keeps {s0 s : State} (id : Nat) (h0 : s0.Keeps s) :
    s0.Keeps (s.pump id) := by
  unfold State.pump
  repeat' with_reducible first
    | assumption
    | exact fun h => h
    | (extract_lets +onlyGivenNames x; clear_value (e : x = _); subst e)
    | apply State.onChan_keeps
    | apply State.stamp_keeps
    | apply State.emit_keeps
    | apply State.credit_keeps
    | (refine Keeps.ofIte (fun _ => ?_) (fun _ => ?_))
    | split
    | (refine Keeps.upd ?_ rfl rfl rfl rfl rfl ?_ ?_ ?_ ?_ ?_)

theorem State.pumpAll_keeps {s0 s : State}  (h0 : s0.Keeps s) :
    s0.Keeps (s.pumpAll) := by
  unfold State.pumpAll
  repeat' with_reducible first
    | assumption
    | exact fun h => h
    | apply State.pump_keeps
    | (refine Keeps.foldl _ _ (fun u a hu => ?_) ?_)

theorem State.enqueue_keeps {s0 s : State} (id wire : Nat) (m : TxMsg) (h0 : s0.Keeps s) :
    s0.Keeps (s.enqueue id wire m) := by
  unfold State.enqueue
  repeat' with_reducible first
    | assumption
    | exact fun h => h
    | (extract_lets +onlyGivenNames x; clear_value (e : x = _); subst e)
    | apply State.onChan_keeps
    | apply State.pump_keeps
    | split
    | (refine Keeps.upd ?_ rfl rfl rfl rfl rfl ?_ ?_ ?_ ?_ ?_)

theorem State.sendOn_keeps {s0 s : State} (m : TxMsg) (back : Bool) (h0 : s0.Keeps s) :
    s0.Keeps (s.sendOn m back) := by
  unfold State.sendOn
  repeat' with_reducible first
    | assumption
    | exact fun h => h
    | (extract_lets +onlyGivenNames x; clear_value (e : x = _); subst e)
    | apply State.bump_keeps
    | apply State.enqueue_keeps
    | (refine Keeps.ofIte (fun _ => ?_) (fun _ => ?_))
    | split
    | (refine Keeps.upd ?_ rfl rfl rfl rfl rfl ?_ ?_ ?_ ?_ ?_)

theorem State.sendWith_keeps {s0 s : State} (chains : List Nat) (dst owner typ trigger : Nat) (body : Bytes) (back : Bool) (h0 : s0.Keeps s) :
    s0.Keeps (s.sendWith chains dst owner typ trigger body back) := by
  unfold State.sendWith
  repeat' with_reducible first
    | assumption
    | exact fun h => h
    | apply State.sendOn_keeps

theorem State.send_keeps {s0 s : State} (dst owner typ trigger : Nat) (body : Bytes) (back : Bool) (h0 : s0.Keeps s) :
    s0.Keeps (s.send dst owner typ trigger body back) := by
  unfold State.send
  repeat' with_reducible first
    | assumption
    | exact fun h => h
    | apply State.sendWith_keeps

theorem State.sendAll_keeps {s0 s : State} (dsts : List Nat) (owner typ trigger : Nat) (body : Bytes) (h0 : s0.Keeps s) :
    s0.Keeps (s.sendAll dsts owner typ trigger body) := by
  unfold State.sendAll
  repeat' with_reducible first
    | assumption
    | exact fun h => h
    | apply State.send_keeps
    | (refine Keeps.foldl _ _ (fun u a hu => ?_) ?_)

theorem State.sendMgr_keeps {s0 s : State} (dst typ : Nat) (body : Bytes) (h0 : s0.Keeps s) :
    s0.Keeps (s.sendMgr dst typ body) := by
  unfold State.sendMgr
  repeat' with_reducible first
    | assumption
    | exact fun h => h
    | apply State.send_keeps

theorem State.freeSent_keeps {s0 s : State} (id : Nat) (h0 : s0.Keeps s) :
    s0.Keeps (s.freeSent id) := by
  unfold State.freeSent
  repeat' with_reducible first
    | assumption
    | exact fun h => h
    | (extract_lets +onlyGivenNames x; clear_value (e : x = _); subst e)
    | apply State.releaseId_keeps
    | (refine Keeps.foldl _ _ (fun u a hu => ?_) ?_)
    | split
    | (refine Keeps.upd ?_ rfl rfl rfl rfl rfl ?_ ?_ ?_ ?_ ?_)

theorem State.freeSlots_keeps {s0 s : State} (chan n : Nat) (h0 : s0.Keeps s) :
    s0.Keeps (s.freeSlots chan n) := by
  unfold State.freeSlots
  repeat' with_reducible first
    | assumption
    | exact fun h => h
    | apply State.onChan_keeps

theorem State.holdSlot_keeps {s0 s : State} (m : Msg) (whole : Bool) (h0 : s0.Keeps s) :
    s0.Keeps (s.holdSlot m whole) := by
  unfold State.holdSlot
  repeat' with_reducible first
    | assumption
    | exact fun h => h
    | (extract_lets +onlyGivenNames x; clear_value (e : x = _); subst e)
    | (refine Keeps.ofIte (fun _ => ?_) (fun _ => ?_))
    | split
    | (refine Keeps.upd ?_ rfl rfl rfl rfl rfl ?_ ?_ ?_ ?_ ?_)

theorem State.dropHolds_keeps {s0 s : State} (f : SlotHold → Bool) (h0 : s0.Keeps s) :
    s0.Keeps (s.dropHolds f) := by
  unfold State.dropHolds
  repeat' with_reducible first
    | assumption
    | exact fun h => h
    | (extract_lets +onlyGivenNames x; clear_value (e : x = _); subst e)
    | apply State.releaseId_keeps
    | apply State.freeSlots_keeps
    | (refine Keeps.foldl _ _ (fun u a hu => ?_) ?_)
    | (refine Keeps.upd ?_ rfl rfl rfl rfl rfl ?_ ?_ ?_ ?_ ?_)

theorem State.dropHold_keeps {s0 s : State} (m : Msg) (h0 : s0.Keeps s) :
    s0.Keeps (s.dropHold m) := by
  unfold State.dropHold
  repeat' with_reducible first
    | assumption
    | exact fun h => h
    | apply State.dropHolds_keeps

theorem State.putHold_keeps {s0 s : State} (h : SlotHold) (h0 : s0.Keeps s) :
    s0.Keeps (s.putHold h) := by
  unfold State.putHold
  repeat' with_reducible first
    | assumption
    | exact fun h => h
    | (extract_lets +onlyGivenNames x; clear_value (e : x = _); subst e)
    | (refine Keeps.ofIte (fun _ => ?_) (fun _ => ?_))
    | split
    | (refine Keeps.upd ?_ rfl rfl rfl rfl rfl ?_ ?_ ?_ ?_ ?_)

theorem State.claim_keeps {s0 s : State} (m : Msg) (h0 : s0.Keeps s) :
    s0.Keeps (s.claim m).2 := by
  unfold State.claim
  repeat' with_reducible first
    | assumption
    | exact fun h => h
    | apply State.putHold_keeps
    | split

theorem State.putInbox_keeps {s0 s : State} (m : Msg) (h0 : s0.Keeps s) :
    s0.Keeps (s.putInbox m) := by
  unfold State.putInbox
  repeat' with_reducible first
    | assumption
    | exact fun h => h
    | (extract_lets +onlyGivenNames x; clear_value (e : x = _); subst e)
    | (refine Keeps.ofIte (fun _ => ?_) (fun _ => ?_))
    | split
    | (refine Keeps.upd ?_ rfl rfl rfl rfl rfl ?_ ?_ ?_ ?_ ?_)

theorem State.freeHold_keeps {s0 s : State} (h : SlotHold) (h0 : s0.Keeps s) :
    s0.Keeps (s.freeHold h) := by
  unfold State.freeHold
  repeat' with_reducible first
    | assumption
    | exact fun h => h
    | apply State.freeSlots_keeps
    | apply State.putHold_keeps

theorem State.rowCell_keeps {s0 s : State} {h : SlotHold} {q : Pass} {b : Bytes} {i : Nat} {v : Nat} {u : State} (e : (s.rowCell h q b i) = some (v, u))
    (h0 : s0.Keeps s) : s0.Keeps u := by
  refine (?_ : s0.KeepsAll (·.2) (s.rowCell h q b i)) _ e
  clear e
  unfold State.rowCell
  repeat' with_reducible first
    | assumption
    | exact fun h => h
    | exact Keeps.allNone
    | refine Keeps.allSome ?_
    | (refine Keeps.allIte (fun _ => ?_) (fun _ => ?_))
    | refine Keeps.allMapOf _ _ ?_ (fun _ _ => ?_)
    | refine Keeps.allMap _ _ (fun _ _ => ?_)
    | refine Keeps.allBind _ _ ?_ (fun _ _ => ?_)
    | refine Keeps.allFoldl _ _ (fun _ _ _ => ?_) _ ?_
    | (extract_lets +onlyGivenNames x; clear_value (e : x = _); subst e)
    | (refine State.allocStage_keeps (by assumption) ?_)
    | exact Keeps.allOf (fun _ e => State.allocStage_keeps e (by assumption))

theorem State.rowCells_keeps {s0 s : State} (h : SlotHold) (q : Pass) (b : Bytes) (n : Nat) (h0 : s0.Keeps s) :
    s0.Keeps (s.rowCells h q b n).2 := by
  induction n generalizing s h with
  | zero => exact h0
  | succ n ih =>
    unfold State.rowCells
    split
    · exact h0
    · split
      · exact State.denied_keeps _ h0
      · exact ih _ (State.rowCell_keeps (by assumption) h0)

theorem State.handRows_keeps {s0 s : State} (h : SlotHold) (q : Pass) (b : Bytes) (h0 : s0.Keeps s) :
    s0.Keeps (s.handRows h q b) := by
  unfold State.handRows
  split
  · exact State.freeHold_keeps _ h0
  · exact State.freeSlots_keeps _ _ (State.putHold_keeps _ (State.rowCells_keeps _ _ _ _ h0))

theorem State.handPile_keeps {s0 s : State} (h : SlotHold) (q : Pass) (b : Bytes) (h0 : s0.Keeps s) :
    s0.Keeps (s.handPile h q b) := by
  unfold State.handPile
  repeat' with_reducible first
    | assumption
    | exact fun h => h
    | (refine State.allocStage_keeps (by assumption) ?_)
    | apply State.denied_keeps
    | apply State.freeHold_keeps
    | (refine Keeps.ofIte (fun _ => ?_) (fun _ => ?_))
    | split

theorem State.moveOn_keeps {s0 s : State} (h : SlotHold) (h0 : s0.Keeps s) :
    s0.Keeps (s.moveOn h) := by
  unfold State.moveOn
  repeat' with_reducible first
    | assumption
    | exact fun h => h
    | (extract_lets +onlyGivenNames x; clear_value (e : x = _); subst e)
    | apply State.releaseId_keeps
    | apply State.pumpAll_keeps
    | apply State.putHold_keeps
    | (refine Keeps.ofIte (fun _ => ?_) (fun _ => ?_))
    | (refine Keeps.foldl _ _ (fun u a hu => ?_) ?_)
    | split
    | (refine Keeps.upd ?_ rfl rfl rfl rfl rfl ?_ ?_ ?_ ?_ ?_)

theorem State.handTransit_keeps {s0 s : State} (h : SlotHold) (h0 : s0.Keeps s) :
    s0.Keeps (s.handTransit h) := by
  unfold State.handTransit
  repeat' with_reducible first
    | assumption
    | exact fun h => h
    | (extract_lets +onlyGivenNames x; clear_value (e : x = _); subst e)
    | (refine State.allocStage_keeps (by assumption) ?_)
    | apply State.denied_keeps
    | apply State.freeHold_keeps
    | apply State.moveOn_keeps
    | (refine Keeps.ofIte (fun _ => ?_) (fun _ => ?_))
    | split
    | (refine Keeps.upd ?_ rfl rfl rfl rfl rfl ?_ ?_ ?_ ?_ ?_)

theorem State.handOne_keeps {s0 s : State} (h : SlotHold) (h0 : s0.Keeps s) :
    s0.Keeps (s.handOne h) := by
  unfold State.handOne
  repeat' with_reducible first
    | assumption
    | exact fun h => h
    | (extract_lets +onlyGivenNames x; clear_value (e : x = _); subst e)
    | apply State.freeHold_keeps
    | apply State.handRows_keeps
    | apply State.handPile_keeps
    | apply State.handTransit_keeps
    | (refine Keeps.ofIte (fun _ => ?_) (fun _ => ?_))
    | split

theorem State.noteList_keeps {s0 s : State} (h : SlotHold) (h0 : s0.Keeps s) :
    s0.Keeps (s.noteList h) := by
  unfold State.noteList
  repeat' with_reducible first
    | assumption
    | exact fun h => h
    | (extract_lets +onlyGivenNames x; clear_value (e : x = _); subst e)
    | apply State.onPass_keeps
    | (refine Keeps.ofIte (fun _ => ?_) (fun _ => ?_))
    | split

theorem State.handOver_keeps {s0 s : State}  (h0 : s0.Keeps s) :
    s0.Keeps (s.handOver) := by
  unfold State.handOver
  repeat' with_reducible first
    | assumption
    | exact fun h => h
    | (extract_lets +onlyGivenNames x; clear_value (e : x = _); subst e)
    | apply State.handOne_keeps
    | apply State.noteList_keeps
    | (refine Keeps.foldl _ _ (fun u a hu => ?_) ?_)

theorem State.markCorrupt_keeps {s0 s : State} (msg : Msg) (check : Nat) (h0 : s0.Keeps s) :
    s0.Keeps (s.markCorrupt msg check) := by
  unfold State.markCorrupt
  repeat' with_reducible first
    | assumption
    | exact fun h => h
    | (extract_lets +onlyGivenNames x; clear_value (e : x = _); subst e)
    | apply State.latch_keeps
    | apply State.bump_keeps
    | apply State.raise_keeps

theorem State.arrive_keeps {s0 s : State} (m : Msg) (h0 : s0.Keeps s) :
    s0.Keeps (s.arrive m) := by
  unfold State.arrive
  repeat' with_reducible first
    | assumption
    | exact fun h => h
    | (extract_lets +onlyGivenNames x; clear_value (e : x = _); subst e)
    | apply State.bump_keeps
    | apply State.dropHold_keeps
    | apply State.putInbox_keeps
    | apply State.markCorrupt_keeps
    | (refine Keeps.ofIte (fun _ => ?_) (fun _ => ?_))
    | split
    | (refine Keeps.upd ?_ rfl rfl rfl rfl rfl ?_ ?_ ?_ ?_ ?_)

theorem State.arriveEarly_keeps {s0 s : State} (n : Nat) (h : s0.Keeps s) : s0.Keeps (State.arriveEarly n s) := by
  induction n generalizing s with
  | zero => exact h
  | succ n ih =>
    have k : s0.Keeps (s.link.early.foldl State.arrive { s with link := { s.link with early := [] } }) :=
      Keeps.foldl _ _ (fun _ _ hu => State.arrive_keeps _ hu) (Keeps.upd h rfl rfl rfl rfl rfl id id id id id)
    unfold State.arriveEarly
    exact Keeps.ofIte (fun _ => h) (fun _ => Keeps.ofIte (fun _ => k) (fun _ => ih k))

theorem State.handBytes_keeps {s0 s : State} (m : Msg) (h0 : s0.Keeps s) :
    s0.Keeps (s.handBytes m) := by
  unfold State.handBytes
  repeat' with_reducible first
    | assumption
    | exact fun h => h
    | (extract_lets +onlyGivenNames x; clear_value (e : x = _); subst e)
    | (refine Keeps.ofIte (fun _ => ?_) (fun _ => ?_))
    | split
    | (refine Keeps.upd ?_ rfl rfl rfl rfl rfl ?_ ?_ ?_ ?_ ?_)

theorem State.showTransit_keeps {s0 s : State} (m : Msg) (h0 : s0.Keeps s) :
    s0.Keeps (s.showTransit m) := by
  unfold State.showTransit
  repeat' with_reducible first
    | assumption
    | exact fun h => h
    | apply State.putInbox_keeps
    | (refine Keeps.ofIte (fun _ => ?_) (fun _ => ?_))

theorem State.join_keeps {s0 s : State} (id : Nat) (f : Flit) (h0 : s0.Keeps s) :
    s0.Keeps (s.join id f) := by
  unfold State.join
  repeat' with_reducible first
    | assumption
    | exact fun h => h
    | (extract_lets +onlyGivenNames x; clear_value (e : x = _); subst e)
    | apply State.onChan_keeps
    | apply State.holdSlot_keeps
    | apply State.arrive_keeps
    | apply State.handBytes_keeps
    | apply State.showTransit_keeps
    | (refine Keeps.ofIte (fun _ => ?_) (fun _ => ?_))
    | split

theorem State.rxMark_keeps {s0 s : State} (c : Chan) (f : Flit) (arrivalPs : Option Nat) (h0 : s0.Keeps s) :
    s0.Keeps (s.rxMark c f arrivalPs) := by
  unfold State.rxMark
  repeat' with_reducible first
    | assumption
    | exact fun h => h
    | (extract_lets +onlyGivenNames x; clear_value (e : x = _); subst e)
    | apply State.draw_keeps
    | (refine Keeps.ofIte (fun _ => ?_) (fun _ => ?_))
    | split
    | (refine Keeps.upd ?_ rfl rfl rfl rfl rfl ?_ ?_ ?_ ?_ ?_)

theorem State.rxFlit_keeps {s0 s : State} (id : Nat) (f : Flit) (arrivalPs : Option Nat) (h0 : s0.Keeps s) :
    s0.Keeps (s.rxFlit id f arrivalPs) := by
  unfold State.rxFlit
  repeat' with_reducible first
    | assumption
    | exact fun h => h
    | (extract_lets +onlyGivenNames x; clear_value (e : x = _); subst e)
    | apply State.onChan_keeps
    | apply State.pump_keeps
    | apply State.freeSent_keeps
    | apply State.handOver_keeps
    | apply State.arriveEarly_keeps
    | apply State.join_keeps
    | apply State.rxMark_keeps
    | (refine Keeps.ofIte (fun _ => ?_) (fun _ => ?_))
    | (refine Keeps.foldl _ _ (fun u a hu => ?_) ?_)
    | split

theorem State.take_keeps {s0 s : State} (m : Msg) (h0 : s0.Keeps s) :
    s0.Keeps (s.take m) := by
  unfold State.take
  repeat' with_reducible first
    | assumption
    | exact fun h => h
    | (extract_lets +onlyGivenNames x; clear_value (e : x = _); subst e)
    | apply State.dropHold_keeps
    | (refine Keeps.upd ?_ rfl rfl rfl rfl rfl ?_ ?_ ?_ ?_ ?_)

theorem State.discard_keeps {s0 s : State} (m : Msg) (h0 : s0.Keeps s) :
    s0.Keeps (s.discard m) := by
  unfold State.discard
  repeat' with_reducible first
    | assumption
    | exact fun h => h
    | apply State.releaseId_keeps
    | apply State.freeHold_keeps
    | apply State.take_keeps
    | (refine Keeps.ofIte (fun _ => ?_) (fun _ => ?_))
    | (refine Keeps.foldl _ _ (fun u a hu => ?_) ?_)
    | split

theorem State.passOn_keeps {s0 s u : State} (m : Msg) (go : State → Nat → Bytes → Option MsgKey → List Nat → State)
    (hg : ∀ v n b w c, s0.Keeps v → s0.Keeps (go v n b w c)) (e : s.passOn m go = some u) (h0 : s0.Keeps s) : s0.Keeps u := by
  unfold State.passOn at e
  split at e
  · cases e
    exact hg _ _ _ _ _ (State.take_keeps _ h0)
  · split at e
    · cases e
    · split at e
      · cases e
        exact hg _ _ _ _ _ (State.take_keeps _ (State.putHold_keeps _ h0))
      · cases e
        exact hg _ _ _ _ _ (State.putHold_keeps _ h0)

theorem State.onPortChans_keeps {s0 s : State} (p : Nat) (f : Chan → Chan) (h0 : s0.Keeps s) :
    s0.Keeps (s.onPortChans p f) := by
  unfold State.onPortChans
  repeat' with_reducible first
    | assumption
    | exact fun h => h
    | (extract_lets +onlyGivenNames x; clear_value (e : x = _); subst e)
    | (refine Keeps.ofIte (fun _ => ?_) (fun _ => ?_))
    | split
    | (refine Keeps.upd ?_ rfl rfl rfl rfl rfl ?_ ?_ ?_ ?_ ?_)

theorem State.oweReport_keeps {s0 s : State}  (h0 : s0.Keeps s) :
    s0.Keeps (s.oweReport) := by
  unfold State.oweReport
  repeat' with_reducible first
    | assumption
    | exact fun h => h
    | (extract_lets +onlyGivenNames x; clear_value (e : x = _); subst e)
    | (refine Keeps.upd ?_ rfl rfl rfl rfl rfl ?_ ?_ ?_ ?_ ?_)

theorem State.resendVia_keeps {s0 s : State} (old r d : Nat) (h0 : s0.Keeps s) :
    s0.Keeps (s.resendVia old r d) := by
  unfold State.resendVia
  repeat' with_reducible first
    | assumption
    | exact fun h => h
    | (extract_lets +onlyGivenNames x; clear_value (e : x = _); subst e)
    | apply State.bump_keeps
    | apply State.enqueue_keeps
    | (refine Keeps.ofIte (fun _ => ?_) (fun _ => ?_))
    | (refine Keeps.foldl _ _ (fun u a hu => ?_) ?_)
    | split
    | (refine Keeps.upd ?_ rfl rfl rfl rfl rfl ?_ ?_ ?_ ?_ ?_)

theorem State.chooseRelay_keeps {s0 s : State} (p old : Nat) (h0 : s0.Keeps s) :
    s0.Keeps (s.chooseRelay p old) := by
  unfold State.chooseRelay
  repeat' with_reducible first
    | assumption
    | exact fun h => h
    | (extract_lets +onlyGivenNames x; clear_value (e : x = _); subst e)
    | apply State.raise_keeps
    | apply State.onPort_keeps
    | apply State.pump_keeps
    | apply State.resendVia_keeps
    | split

theorem State.leaveActive_keeps {s0 s : State} (p : Nat) (h0 : s0.Keeps s) :
    s0.Keeps (s.leaveActive p) := by
  unfold State.leaveActive
  repeat' with_reducible first
    | assumption
    | exact fun h => h
    | (extract_lets +onlyGivenNames x; clear_value (e : x = _); subst e)
    | apply State.releaseId_keeps
    | apply State.control_keeps
    | apply State.chooseRelay_keeps
    | (refine Keeps.ofIte (fun _ => ?_) (fun _ => ?_))
    | (refine Keeps.foldl _ _ (fun u a hu => ?_) ?_)
    | split
    | (refine Keeps.upd ?_ rfl rfl rfl rfl rfl ?_ ?_ ?_ ?_ ?_)

theorem State.sendHello_keeps {s0 s : State} (id : Nat) (h0 : s0.Keeps s) :
    s0.Keeps (s.sendHello id) := by
  unfold State.sendHello
  repeat' with_reducible first
    | assumption
    | exact fun h => h
    | apply State.control_keeps
    | split

theorem State.rehome_keeps {s0 s : State}  (h0 : s0.Keeps s) :
    s0.Keeps (s.rehome) := by
  unfold State.rehome
  repeat' with_reducible first
    | assumption
    | exact fun h => h
    | (extract_lets +onlyGivenNames x; clear_value (e : x = _); subst e)
    | apply State.onPort_keeps
    | apply State.sendHello_keeps
    | (refine Keeps.ofIte (fun _ => ?_) (fun _ => ?_))
    | (refine Keeps.foldl _ _ (fun u a hu => ?_) ?_)
    | split
    | (refine Keeps.upd ?_ rfl rfl rfl rfl rfl ?_ ?_ ?_ ?_ ?_)

theorem State.retirePort_keeps {s0 s : State} (p fail : Nat) (h0 : s0.Keeps s) :
    s0.Keeps (s.retirePort p fail) := by
  unfold State.retirePort
  repeat' with_reducible first
    | assumption
    | exact fun h => h
    | (extract_lets +onlyGivenNames x; clear_value (e : x = _); subst e)
    | apply State.raise_keeps
    | apply State.onPort_keeps
    | apply State.control_keeps
    | apply State.onPortChans_keeps
    | apply State.oweReport_keeps
    | apply State.leaveActive_keeps
    | apply State.rehome_keeps
    | (refine Keeps.ofIte (fun _ => ?_) (fun _ => ?_))
    | (refine Keeps.foldl _ _ (fun u a hu => ?_) ?_)
    | split
    | (refine Keeps.upd ?_ rfl rfl rfl rfl rfl ?_ ?_ ?_ ?_ ?_)

theorem State.enterRetrain_keeps {s0 s : State} (p : Nat) (h0 : s0.Keeps s) :
    s0.Keeps (s.enterRetrain p) := by
  unfold State.enterRetrain
  repeat' with_reducible first
    | assumption
    | exact fun h => h
    | (extract_lets +onlyGivenNames x; clear_value (e : x = _); subst e)
    | apply State.bump_keeps
    | apply State.raise_keeps
    | apply State.onPort_keeps
    | apply State.onPortChans_keeps
    | apply State.oweReport_keeps
    | apply State.leaveActive_keeps
    | apply State.failRun_keeps
    | (refine Keeps.upd ?_ rfl rfl rfl rfl rfl ?_ ?_ ?_ ?_ ?_)

theorem State.restartTraining_keeps {s0 s : State} (p : Nat) (h0 : s0.Keeps s) :
    s0.Keeps (s.restartTraining p) := by
  unfold State.restartTraining
  repeat' with_reducible first
    | assumption
    | exact fun h => h
    | (extract_lets +onlyGivenNames x; clear_value (e : x = _); subst e)
    | apply State.onPort_keeps
    | apply State.onPortChans_keeps
    | apply State.retirePort_keeps
    | apply State.failRun_keeps
    | (refine Keeps.ofIte (fun _ => ?_) (fun _ => ?_))

theorem State.failFlit_keeps {s0 s : State} (p : Nat) (h0 : s0.Keeps s) :
    s0.Keeps (s.failFlit p) := by
  unfold State.failFlit
  repeat' with_reducible first
    | assumption
    | exact fun h => h
    | (extract_lets +onlyGivenNames x; clear_value (e : x = _); subst e)
    | apply State.bump_keeps
    | apply State.onPort_keeps
    | apply State.leakMark_keeps
    | apply State.retirePort_keeps
    | apply State.enterRetrain_keeps
    | apply State.restartTraining_keeps
    | apply State.failRun_keeps
    | (refine Keeps.ofIte (fun _ => ?_) (fun _ => ?_))
    | split
    | (refine Keeps.upd ?_ rfl rfl rfl rfl rfl ?_ ?_ ?_ ?_ ?_)

theorem State.badFlit_keeps {s0 s : State} (p : Nat) (h0 : s0.Keeps s) :
    s0.Keeps (s.badFlit p) := by
  unfold State.badFlit
  repeat' with_reducible first
    | assumption
    | exact fun h => h
    | apply State.charge_keeps
    | apply State.failFlit_keeps
    | (refine Keeps.ofIte (fun _ => ?_) (fun _ => ?_))

theorem State.goodFlit_keeps {s0 s : State} (p : Nat) (h0 : s0.Keeps s) :
    s0.Keeps (s.goodFlit p) := by
  unfold State.goodFlit
  repeat' with_reducible first
    | assumption
    | exact fun h => h
    | (extract_lets +onlyGivenNames x; clear_value (e : x = _); subst e)
    | apply State.onPort_keeps
    | apply State.failRun_keeps
    | (refine Keeps.ofIte (fun _ => ?_) (fun _ => ?_))

theorem State.onFlit_keeps {s0 s : State} (id : Nat) (b : Bytes) (t : Option Nat) (right : Flit → Bool)
    (f : State → Chan → Flit → State) (hf : ∀ u c x, s0.Keeps u → s0.Keeps (f u c x)) (h : s0.Keeps s) :
    s0.Keeps (s.onFlit id b t right f) := by
  unfold State.onFlit
  repeat' with_reducible first
    | assumption
    | exact fun h => h
    | (extract_lets +onlyGivenNames x; clear_value (e : x = _); subst e)
    | apply State.charge_keeps
    | apply State.rxFlit_keeps
    | apply State.badFlit_keeps
    | apply State.goodFlit_keeps
    | apply hf
    | (refine Keeps.ofIte (fun _ => ?_) (fun _ => ?_))
    | split

theorem State.sendProbe_keeps {s0 s : State} (id n : Nat) (h0 : s0.Keeps s) :
    s0.Keeps (s.sendProbe id n) := by
  unfold State.sendProbe
  repeat' with_reducible first
    | assumption
    | exact fun h => h
    | apply State.control_keeps

theorem State.clearChan_keeps {s0 s : State} (c : Chan) (h0 : s0.Keeps s) :
    s0.Keeps (s.clearChan c) := by
  unfold State.clearChan
  repeat' with_reducible first
    | assumption
    | exact fun h => h
    | (extract_lets +onlyGivenNames x; clear_value (e : x = _); subst e)
    | apply State.onChan_keeps
    | apply State.releaseId_keeps
    | (refine Keeps.foldl _ _ (fun u a hu => ?_) ?_)
    | (refine Keeps.upd ?_ rfl rfl rfl rfl rfl ?_ ?_ ?_ ?_ ?_)

theorem State.reviveDead_keeps {s0 s : State}  (h0 : s0.Keeps s) :
    s0.Keeps (s.reviveDead) := by
  unfold State.reviveDead
  repeat' with_reducible first
    | assumption
    | exact fun h => h
    | (extract_lets +onlyGivenNames x; clear_value (e : x = _); subst e)
    | split
    | (refine Keeps.upd ?_ rfl rfl rfl rfl rfl ?_ ?_ ?_ ?_ ?_)

theorem State.helloOk_keeps {s0 s : State} (id : Nat) (c : Chan) (pl : Bytes) (h0 : s0.Keeps s) :
    s0.Keeps (s.helloOk id c pl) := by
  unfold State.helloOk
  repeat' with_reducible first
    | assumption
    | exact fun h => h
    | (extract_lets +onlyGivenNames x; clear_value (e : x = _); subst e)
    | apply State.onPort_keeps
    | apply State.onChan_keeps
    | apply State.pump_keeps
    | apply State.take_keeps
    | apply State.oweReport_keeps
    | apply State.sendProbe_keeps
    | apply State.clearChan_keeps
    | apply State.reviveDead_keeps
    | (refine Keeps.ofIte (fun _ => ?_) (fun _ => ?_))
    | split
    | (refine Keeps.upd ?_ rfl rfl rfl rfl rfl ?_ ?_ ?_ ?_ ?_)

theorem State.portUp_keeps {s0 s : State} (p : Nat) (h0 : s0.Keeps s) :
    s0.Keeps (s.portUp p) := by
  unfold State.portUp
  repeat' with_reducible first
    | assumption
    | exact fun h => h
    | (extract_lets +onlyGivenNames x; clear_value (e : x = _); subst e)
    | apply State.raise_keeps
    | apply State.onPort_keeps
    | apply State.pumpAll_keeps
    | apply State.oweReport_keeps
    | apply State.chooseRelay_keeps
    | apply State.rehome_keeps
    | apply State.failRun_keeps
    | (refine Keeps.ofIte (fun _ => ?_) (fun _ => ?_))
    | (refine Keeps.foldl _ _ (fun u a hu => ?_) ?_)

theorem State.serveLost_keeps {s0 s : State}  (h0 : s0.Keeps s) :
    s0.Keeps (s.serveLost) := by
  unfold State.serveLost
  repeat' with_reducible first
    | assumption
    | exact fun h => h
    | apply State.onPort_keeps
    | (refine Keeps.ofIte (fun _ => ?_) (fun _ => ?_))
    | (refine Keeps.foldl _ _ (fun u a hu => ?_) ?_)

theorem State.countSubst_keeps {s0 s : State} (gs : List (Nat × Nat × Bool)) (h0 : s0.Keeps s) :
    s0.Keeps (s.countSubst gs) := by
  unfold State.countSubst
  repeat' with_reducible first
    | assumption
    | exact fun h => h
    | (extract_lets +onlyGivenNames x; clear_value (e : x = _); subst e)
    | apply State.bump_keeps
    | apply State.raise_keeps
    | (refine Keeps.ofIte (fun _ => ?_) (fun _ => ?_))

theorem State.spread_keeps {s0 s : State} (p typ t : Nat) (body : Bytes) (gs : List (Nat × Nat × Bool)) (h0 : s0.Keeps s) :
    s0.Keeps (s.spread p typ t body gs) := by
  unfold State.spread
  repeat' with_reducible first
    | assumption
    | exact fun h => h
    | apply State.sendAll_keeps

theorem State.fanPod_keeps {s0 s : State} (p typ t : Nat) (body : Bytes) (h0 : s0.Keeps s) :
    s0.Keeps (s.fanPod p typ t body) := by
  unfold State.fanPod
  repeat' with_reducible first
    | assumption
    | exact fun h => h
    | apply State.sendAll_keeps

theorem State.sendVoid_keeps {s0 s : State} (p dst replaces reason subject l m stepNo party : Nat) (toGateway back : Bool) (h0 : s0.Keeps s) :
    s0.Keeps (s.sendVoid p dst replaces reason subject l m stepNo party toGateway back) := by
  unfold State.sendVoid
  repeat' with_reducible first
    | assumption
    | exact fun h => h
    | apply State.bump_keeps
    | apply State.send_keeps

theorem State.voidReturn_keeps {s0 s : State} (p via src l m stepNo reason : Nat) (h0 : s0.Keeps s) :
    s0.Keeps (s.voidReturn p via src l m stepNo reason) := by
  unfold State.voidReturn
  repeat' with_reducible first
    | assumption
    | exact fun h => h
    | (extract_lets +onlyGivenNames x; clear_value (e : x = _); subst e)
    | apply State.sendVoid_keeps

theorem State.voidGrant_keeps {s0 s : State} (p via src l m stepNo reason : Nat) (h0 : s0.Keeps s) :
    s0.Keeps (s.voidGrant p via src l m stepNo reason) := by
  unfold State.voidGrant
  repeat' with_reducible first
    | assumption
    | exact fun h => h
    | (extract_lets +onlyGivenNames x; clear_value (e : x = _); subst e)
    | apply State.onMicro_keeps
    | apply State.sendVoid_keeps
    | (refine Keeps.ofIte (fun _ => ?_) (fun _ => ?_))

theorem State.spreadMgr_keeps {s0 s : State} (typ : Nat) (body : Bytes) (h0 : s0.Keeps s) :
    s0.Keeps (s.spreadMgr typ body) := by
  unfold State.spreadMgr
  repeat' with_reducible first
    | assumption
    | exact fun h => h
    | (extract_lets +onlyGivenNames x; clear_value (e : x = _); subst e)
    | apply State.sendAll_keeps
    | (refine Keeps.ofIte (fun _ => ?_) (fun _ => ?_))

theorem State.sendWithdraw_keeps {s0 s : State} (p : Nat) (x : StepSt) (scope : Nat) (h0 : s0.Keeps s) :
    s0.Keeps (s.sendWithdraw p x scope) := by
  unfold State.sendWithdraw
  repeat' with_reducible first
    | assumption
    | exact fun h => h
    | apply State.spreadMgr_keeps
    | (refine Keeps.ofIte (fun _ => ?_) (fun _ => ?_))

theorem State.sendFinal_keeps {s0 s : State} (p l m microMax stepNo : Nat) (gs : List (Nat × Nat × Bool)) (h0 : s0.Keeps s) :
    s0.Keeps (s.sendFinal p l m microMax stepNo gs) := by
  unfold State.sendFinal
  repeat' with_reducible first
    | assumption
    | exact fun h => h
    | apply State.spread_keeps
    | (refine Keeps.ofIte (fun _ => ?_) (fun _ => ?_))

theorem State.waitOn_keeps {s0 s : State} (p l m h : Nat) (src : Option Nat) (since : Nat) (h0 : s0.Keeps s) :
    s0.Keeps (s.waitOn p l m h src since) := by
  unfold State.waitOn
  repeat' with_reducible first
    | assumption
    | exact fun h => h
    | (extract_lets +onlyGivenNames x; clear_value (e : x = _); subst e)
    | apply State.onPart_keeps
    | (refine Keeps.ofIte (fun _ => ?_) (fun _ => ?_))

theorem State.waitSince_keeps {s0 s : State} (p l m h since : Nat) (h0 : s0.Keeps s) :
    s0.Keeps (s.waitSince p l m h since) := by
  unfold State.waitSince
  repeat' with_reducible first
    | assumption
    | exact fun h => h
    | apply State.waitOn_keeps

theorem State.waitFor_keeps {s0 s : State} (p l m h : Nat) (h0 : s0.Keeps s) :
    s0.Keeps (s.waitFor p l m h) := by
  unfold State.waitFor
  repeat' with_reducible first
    | assumption
    | exact fun h => h
    | apply State.waitSince_keeps

theorem State.waitFan_keeps {s0 s : State} (p l m h src : Nat) (h0 : s0.Keeps s) :
    s0.Keeps (s.waitFan p l m h src) := by
  unfold State.waitFan
  repeat' with_reducible first
    | assumption
    | exact fun h => h
    | apply State.waitOn_keeps

theorem State.voidDest_keeps {s0 s : State} (p l stepNo : Nat) (elastic : Bool) (m : Micro) (h0 : s0.Keeps s) :
    s0.Keeps (s.voidDest p l stepNo elastic m) := by
  unfold State.voidDest
  repeat' with_reducible first
    | assumption
    | exact fun h => h
    | apply State.voidReturn_keeps
    | apply State.voidGrant_keeps
    | (refine Keeps.ofIte (fun _ => ?_) (fun _ => ?_))
    | (refine Keeps.foldl _ _ (fun u a hu => ?_) ?_)

theorem State.voidSrc_keeps {s0 s : State} (p l stepNo : Nat) (gs : List (Nat × Nat × Bool)) (m : Micro) (h0 : s0.Keeps s) :
    s0.Keeps (s.voidSrc p l stepNo gs m) := by
  unfold State.voidSrc
  repeat' with_reducible first
    | assumption
    | exact fun h => h
    | (extract_lets +onlyGivenNames x; clear_value (e : x = _); subst e)
    | apply State.sendVoid_keeps
    | (refine Keeps.ofIte (fun _ => ?_) (fun _ => ?_))
    | (refine Keeps.foldl _ _ (fun u a hu => ?_) ?_)

end Sys2Proof.Machine
end

