-- ==== Sys2Proof/Laws/SharedQueue.lean ====
section
/-! SUPPORT. What the shared operations of the journal, power, queues and tables keep: one lemma per operation,
cited by the proofs about single commands instead of unfolding it. -/

namespace Sys2Proof.Machine

theorem State.ledgerWrite_keeps {s0 s : State} (p : Nat) (x : StepSt) (off : Nat) (b : Bytes) (h0 : s0.Keeps s) :
    s0.Keeps (s.ledgerWrite p x off b) := by
  unfold State.ledgerWrite
  repeat' with_reducible first
    | assumption
    | exact fun h => h
    | apply State.wr_keeps

theorem State.ledgerOpen_keeps {s0 s : State} (p : Nat) (x : StepSt) (h0 : s0.Keeps s) :
    s0.Keeps (s.ledgerOpen p x) := by
  unfold State.ledgerOpen
  repeat' with_reducible first
    | assumption
    | exact fun h => h
    | (extract_lets +onlyGivenNames x; clear_value (e : x = _); subst e)
    | apply State.ledgerWrite_keeps

theorem State.ledgerLayer_keeps {s0 s : State} (p : Nat) (x : StepSt) (l : Nat) (bitmap : Bytes) (h0 : s0.Keeps s) :
    s0.Keeps (s.ledgerLayer p x l bitmap) := by
  unfold State.ledgerLayer
  repeat' with_reducible first
    | assumption
    | exact fun h => h
    | apply State.ledgerWrite_keeps

theorem State.jrnPush_keeps {s0 s : State} (p : Nat) (b : Bytes) (h0 : s0.Keeps s) :
    s0.Keeps (s.jrnPush p b) := by
  unfold State.jrnPush
  repeat' with_reducible first
    | assumption
    | exact fun h => h
    | apply State.onPart_keeps

theorem State.jrnDone_keeps {s0 s : State} (p : Nat) (h0 : s0.Keeps s) :
    s0.Keeps (s.jrnDone p) := by
  unfold State.jrnDone
  repeat' with_reducible first
    | assumption
    | exact fun h => h
    | apply State.onPart_keeps
    | (refine Keeps.ofIte (fun _ => ?_) (fun _ => ?_))

theorem State.account_keeps {s0 s : State}  (h0 : s0.Keeps s) :
    s0.Keeps (s.account) := by
  unfold State.account
  repeat' with_reducible first
    | assumption
    | exact fun h => h
    | (extract_lets +onlyGivenNames x; clear_value (e : x = _); subst e)
    | (refine Keeps.upd ?_ rfl rfl rfl rfl rfl ?_ ?_ ?_ ?_ ?_)

theorem State.govern_keeps {s0 s : State} (runs others last : List Nat) (h0 : s0.Keeps s) :
    s0.Keeps (s.govern runs others last) := by
  unfold State.govern
  repeat' with_reducible first
    | assumption
    | exact fun h => h
    | (extract_lets +onlyGivenNames x; clear_value (e : x = _); subst e)
    | apply State.bump_keeps
    | (refine Keeps.ofIte (fun _ => ?_) (fun _ => ?_))
    | split
    | (refine Keeps.upd ?_ rfl rfl rfl rfl rfl ?_ ?_ ?_ ?_ ?_)

theorem State.calibrate_keeps {s0 s : State} (k : Nat) (wins upd : List Nat) (h0 : s0.Keeps s) :
    s0.Keeps (s.calibrate k wins upd) := by
  unfold State.calibrate
  repeat' with_reducible first
    | assumption
    | exact fun h => h
    | (extract_lets +onlyGivenNames x; clear_value (e : x = _); subst e)
    | (refine Keeps.ofIte (fun _ => ?_) (fun _ => ?_))
    | (refine Keeps.foldl _ _ (fun u a hu => ?_) ?_)
    | split
    | (refine Keeps.upd ?_ rfl rfl rfl rfl rfl ?_ ?_ ?_ ?_ ?_)

theorem State.energyDigest_keeps {s0 s : State}  (h0 : s0.Keeps s) :
    s0.Keeps (s.energyDigest) := by
  unfold State.energyDigest
  repeat' with_reducible first
    | assumption
    | exact fun h => h
    | (extract_lets +onlyGivenNames x; clear_value (e : x = _); subst e)
    | apply State.take_keeps
    | (refine Keeps.upd ?_ rfl rfl rfl rfl rfl ?_ ?_ ?_ ?_ ?_)

theorem State.startRecal_keeps {s0 s : State}  (h0 : s0.Keeps s) :
    s0.Keeps (s.startRecal) := by
  unfold State.startRecal
  repeat' with_reducible first
    | assumption
    | exact fun h => h
    | (extract_lets +onlyGivenNames x; clear_value (e : x = _); subst e)
    | (refine Keeps.upd ?_ rfl rfl rfl rfl rfl ?_ ?_ ?_ ?_ ?_)

theorem State.rampUp_keeps {s0 s : State} (p : Nat) (h0 : s0.Keeps s) :
    s0.Keeps (s.rampUp p) := by
  unfold State.rampUp
  repeat' with_reducible first
    | assumption
    | exact fun h => h
    | (extract_lets +onlyGivenNames x; clear_value (e : x = _); subst e)
    | (refine Keeps.upd ?_ rfl rfl rfl rfl rfl ?_ ?_ ?_ ?_ ?_)

theorem State.startRamps_keeps {s0 s : State}  (h0 : s0.Keeps s) :
    s0.Keeps (s.startRamps) := by
  unfold State.startRamps
  repeat' with_reducible first
    | assumption
    | exact fun h => h
    | apply State.rampUp_keeps
    | split

theorem State.dropStarch_keeps {s0 s : State}  (h0 : s0.Keeps s) :
    s0.Keeps (s.dropStarch) := by
  unfold State.dropStarch
  repeat' with_reducible first
    | assumption
    | exact fun h => h
    | apply State.domainOff_keeps
    | (refine Keeps.ofIte (fun _ => ?_) (fun _ => ?_))

theorem State.partOff_keeps {s0 s : State} (p : Nat) (h0 : s0.Keeps s) :
    s0.Keeps (s.partOff p) := by
  unfold State.partOff
  repeat' with_reducible first
    | assumption
    | exact fun h => h
    | apply State.domainsOff_keeps
    | apply State.dropStarch_keeps

theorem State.wake_keeps {s0 s : State} (p : Nat) (h0 : s0.Keeps s) :
    s0.Keeps (s.wake p) := by
  unfold State.wake
  repeat' with_reducible first
    | assumption
    | exact fun h => h
    | (extract_lets +onlyGivenNames x; clear_value (e : x = _); subst e)
    | apply State.startRecal_keeps
    | apply State.startRamps_keeps
    | (refine Keeps.ofIte (fun _ => ?_) (fun _ => ?_))
    | split
    | (refine Keeps.upd ?_ rfl rfl rfl rfl rfl ?_ ?_ ?_ ?_ ?_)

theorem State.endRecal_keeps {s0 s : State}  (h0 : s0.Keeps s) :
    s0.Keeps (s.endRecal) := by
  unfold State.endRecal
  repeat' with_reducible first
    | assumption
    | exact fun h => h
    | (extract_lets +onlyGivenNames x; clear_value (e : x = _); subst e)
    | apply State.onPart_keeps
    | apply State.startRecal_keeps
    | apply State.startRamps_keeps
    | (refine Keeps.ofIte (fun _ => ?_) (fun _ => ?_))
    | split
    | (refine Keeps.upd ?_ rfl rfl rfl rfl rfl ?_ ?_ ?_ ?_ ?_)

theorem State.lowWindow_keeps {s0 s : State}  (h0 : s0.Keeps s) :
    s0.Keeps (s.lowWindow) := by
  unfold State.lowWindow
  repeat' with_reducible first
    | assumption
    | exact fun h => h
    | (extract_lets +onlyGivenNames x; clear_value (e : x = _); subst e)
    | (refine Keeps.ofIte (fun _ => ?_) (fun _ => ?_))
    | split
    | (refine Keeps.upd ?_ rfl rfl rfl rfl rfl ?_ ?_ ?_ ?_ ?_)

theorem State.powerRefuse_keeps {s0 s : State}  (h0 : s0.Keeps s) :
    s0.Keeps (s.powerRefuse) := by
  unfold State.powerRefuse
  repeat' with_reducible first
    | assumption
    | exact fun h => h
    | (extract_lets +onlyGivenNames x; clear_value (e : x = _); subst e)
    | (refine Keeps.ofIte (fun _ => ?_) (fun _ => ?_))
    | split
    | (refine Keeps.upd ?_ rfl rfl rfl rfl rfl ?_ ?_ ?_ ?_ ?_)

theorem State.mgtAck_keeps {s0 s : State}  (h0 : s0.Keeps s) :
    s0.Keeps (s.mgtAck) := by
  unfold State.mgtAck
  repeat' with_reducible first
    | assumption
    | exact fun h => h
    | (refine Keeps.upd ?_ rfl rfl rfl rfl rfl ?_ ?_ ?_ ?_ ?_)

theorem State.kernelsAt_keeps {s0 s : State} (w : Nat) (h0 : s0.Keeps s) :
    s0.Keeps (s.kernelsAt w) := by
  unfold State.kernelsAt
  repeat' with_reducible first
    | assumption
    | exact fun h => h
    | (extract_lets +onlyGivenNames x; clear_value (e : x = _); subst e)
    | apply State.calibrate_keeps
    | apply State.energyDigest_keeps
    | apply State.endRecal_keeps
    | (refine Keeps.ofIte (fun _ => ?_) (fun _ => ?_))
    | split

theorem State.driveRsps_keeps {s0 s : State} (g : Bool) (n : Nat) (h0 : s0.Keeps s) : s0.Keeps (s.driveRsps g n) := by
  induction n generalizing s with
  | zero => exact h0
  | succ n ih =>
    unfold State.driveRsps
    split
    · exact h0
    · exact Keeps.ofIte (fun _ => h0) (fun _ => ih (Keeps.upd h0 rfl rfl rfl rfl rfl id id id id id))

theorem State.drainRsps_keeps {s0 s : State}  (h0 : s0.Keeps s) :
    s0.Keeps (s.drainRsps) := by
  unfold State.drainRsps
  repeat' with_reducible first
    | assumption
    | exact fun h => h
    | apply State.driveRsps_keeps

theorem State.respondTo_keeps {s0 s : State} (gen2 : Bool) (sts tag dom beats : Nat) (h0 : s0.Keeps s) :
    s0.Keeps (s.respondTo gen2 sts tag dom beats) := by
  unfold State.respondTo
  repeat' with_reducible first
    | assumption
    | exact fun h => h
    | (extract_lets +onlyGivenNames x; clear_value (e : x = _); subst e)
    | apply State.drainRsps_keeps
    | (refine Keeps.ofIte (fun _ => ?_) (fun _ => ?_))
    | split
    | (refine Keeps.upd ?_ rfl rfl rfl rfl rfl ?_ ?_ ?_ ?_ ?_)

theorem State.respond_keeps {s0 s : State} (gen2 : Bool) (sts tag dom : Nat) (h0 : s0.Keeps s) :
    s0.Keeps (s.respond gen2 sts tag dom) := by
  unfold State.respond
  repeat' with_reducible first
    | assumption
    | exact fun h => h
    | apply State.respondTo_keeps

theorem State.reply_keeps {s0 s : State} (r : SeamReq) (sts : Nat) (h0 : s0.Keeps s) :
    s0.Keeps (s.reply r sts) := by
  unfold State.reply
  repeat' with_reducible first
    | assumption
    | exact fun h => h
    | apply State.respond_keeps

theorem State.driveNote_keeps {s0 s : State} (f : Note → Bool) (h0 : s0.Keeps s) :
    s0.Keeps (s.driveNote f) := by
  unfold State.driveNote
  repeat' with_reducible first
    | assumption
    | exact fun h => h
    | (extract_lets +onlyGivenNames x; clear_value (e : x = _); subst e)
    | (refine Keeps.ofIte (fun _ => ?_) (fun _ => ?_))
    | split
    | (refine Keeps.upd ?_ rfl rfl rfl rfl rfl ?_ ?_ ?_ ?_ ?_)

theorem State.groupNote_keeps {s0 s : State} (kind g dom : Nat) (data : Bytes) (held : Bool) (h0 : s0.Keeps s) :
    s0.Keeps (s.groupNote kind g dom data held) := by
  unfold State.groupNote
  repeat' with_reducible first
    | assumption
    | exact fun h => h
    | (extract_lets +onlyGivenNames x; clear_value (e : x = _); subst e)
    | (refine Keeps.upd ?_ rfl rfl rfl rfl rfl ?_ ?_ ?_ ?_ ?_)

theorem State.earlyGate_keeps {s0 s : State} {r : SeamReq} {u : State} (e : (s.earlyGate r) = some u)
    (h0 : s0.Keeps s) : s0.Keeps u := by
  refine (?_ : s0.KeepsAll (fun x => x) (s.earlyGate r)) _ e
  clear e
  unfold State.earlyGate
  repeat' with_reducible first
    | assumption
    | exact fun h => h
    | exact Keeps.allNone
    | refine Keeps.allSome ?_
    | (refine Keeps.allIte (fun _ => ?_) (fun _ => ?_))
    | refine Keeps.allMapOf _ _ ?_ (fun _ _ => ?_)
    | refine Keeps.allMap _ _ (fun _ _ => ?_)
    | refine Keeps.allBind _ _ ?_ (fun _ _ => ?_)
    | refine Keeps.allFoldl _ _ (fun _ _ _ => ?_) _ ?_
    | apply State.reply_keeps

theorem State.slotGate_keeps {s0 s : State} {r : SeamReq} {u : State} (e : (s.slotGate r) = some u)
    (h0 : s0.Keeps s) : s0.Keeps u := by
  refine (?_ : s0.KeepsAll (fun x => x) (s.slotGate r)) _ e
  clear e
  unfold State.slotGate
  repeat' with_reducible first
    | assumption
    | exact fun h => h
    | exact Keeps.allNone
    | refine Keeps.allSome ?_
    | (refine Keeps.allIte (fun _ => ?_) (fun _ => ?_))
    | refine Keeps.allMapOf _ _ ?_ (fun _ _ => ?_)
    | refine Keeps.allMap _ _ (fun _ _ => ?_)
    | refine Keeps.allBind _ _ ?_ (fun _ _ => ?_)
    | refine Keeps.allFoldl _ _ (fun _ _ _ => ?_) _ ?_
    | apply State.bump_keeps
    | apply State.reply_keeps
    | (refine State.earlyGate_keeps (by assumption) ?_)
    | exact Keeps.allOf (fun _ e => State.earlyGate_keeps e (by assumption))

theorem State.registerBell_keeps {s0 s : State} (g layer low : Nat) (h0 : s0.Keeps s) :
    s0.Keeps (s.registerBell g layer low) := by
  unfold State.registerBell
  repeat' with_reducible first
    | assumption
    | exact fun h => h
    | apply State.bump_keeps
    | apply State.onGroup_keeps
    | (refine Keeps.ofIte (fun _ => ?_) (fun _ => ?_))

theorem State.registerBells_keeps {s0 s : State} (g : Nat) (h0 : s0.Keeps s) :
    s0.Keeps (s.registerBells g) := by
  unfold State.registerBells
  repeat' with_reducible first
    | assumption
    | exact fun h => h
    | (extract_lets +onlyGivenNames x; clear_value (e : x = _); subst e)
    | apply State.onGroup_keeps
    | apply State.registerBell_keeps
    | (refine Keeps.foldl _ _ (fun u a hu => ?_) ?_)

theorem State.coresBack_keeps {s0 s : State} (g : Nat) (h0 : s0.Keeps s) :
    s0.Keeps (s.coresBack g) := by
  unfold State.coresBack
  repeat' with_reducible first
    | assumption
    | exact fun h => h
    | apply State.onPart_keeps
    | (refine Keeps.ofIte (fun _ => ?_) (fun _ => ?_))

theorem State.clearLanes_keeps {s0 s : State} (p : Nat) (h0 : s0.Keeps s) :
    s0.Keeps (s.clearLanes p) := by
  unfold State.clearLanes
  repeat' with_reducible first
    | assumption
    | exact fun h => h
    | (refine Keeps.ofIte (fun _ => ?_) (fun _ => ?_))
    | split
    | (refine Keeps.upd ?_ rfl rfl rfl rfl rfl ?_ ?_ ?_ ?_ ?_)

theorem State.credit_keeps {s0 s : State} (client status : Nat) (h0 : s0.Keeps s) :
    s0.Keeps (s.credit client status) := by
  unfold State.credit
  repeat' with_reducible first
    | assumption
    | exact fun h => h
    | apply State.bump_keeps

theorem State.leaveCores_keeps {s0 s : State} (g status : Nat) (c : Cmd) (h0 : s0.Keeps s) :
    s0.Keeps (s.leaveCores g status c) := by
  unfold State.leaveCores
  repeat' with_reducible first
    | assumption
    | exact fun h => h
    | (extract_lets +onlyGivenNames x; clear_value (e : x = _); subst e)
    | apply State.coresBack_keeps
    | apply State.clearLanes_keeps
    | (refine Keeps.ofIte (fun _ => ?_) (fun _ => ?_))

theorem State.complete_keeps {s0 s : State} (g status fault diverted stepNo ledger endAt : Nat) (jobs : List (Nat × Nat)) (h0 : s0.Keeps s) :
    s0.Keeps (s.complete g status fault diverted stepNo ledger endAt jobs) := by
  unfold State.complete
  repeat' with_reducible first
    | assumption
    | exact fun h => h
    | (extract_lets +onlyGivenNames x; clear_value (e : x = _); subst e)
    | apply State.onGroup_keeps
    | apply State.wr_keeps
    | apply State.groupNote_keeps
    | apply State.credit_keeps
    | apply State.leaveCores_keeps
    | (refine Keeps.ofIte (fun _ => ?_) (fun _ => ?_))
    | (refine Keeps.foldl _ _ (fun u a hu => ?_) ?_)
    | split
    | (refine Keeps.upd ?_ rfl rfl rfl rfl rfl ?_ ?_ ?_ ?_ ?_)

theorem State.completeCmd_keeps {s0 s : State} (g status fault : Nat) (h0 : s0.Keeps s) :
    s0.Keeps (s.completeCmd g status fault) := by
  unfold State.completeCmd
  repeat' with_reducible first
    | assumption
    | exact fun h => h
    | apply State.complete_keeps
    | split

theorem State.endWhen_keeps {s0 s : State} (g status fault : Nat) (torn : Bool) (busy : Cmd → Bool) (h0 : s0.Keeps s) :
    s0.Keeps (s.endWhen g status fault torn busy) := by
  unfold State.endWhen
  repeat' with_reducible first
    | assumption
    | exact fun h => h
    | apply State.onGroup_keeps
    | apply State.completeCmd_keeps
    | (refine Keeps.ofIte (fun _ => ?_) (fun _ => ?_))
    | split

theorem State.endWritten_keeps {s0 s : State} (g status fault : Nat) (torn : Bool) (h0 : s0.Keeps s) :
    s0.Keeps (s.endWritten g status fault torn) := by
  unfold State.endWritten
  repeat' with_reducible first
    | assumption
    | exact fun h => h
    | apply State.endWhen_keeps

theorem State.endCmd_keeps {s0 s : State} (g status fault : Nat) (h0 : s0.Keeps s) :
    s0.Keeps (s.endCmd g status fault) := by
  unfold State.endCmd
  repeat' with_reducible first
    | assumption
    | exact fun h => h
    | apply State.endWhen_keeps

theorem State.runsDrained_keeps {s0 s : State} (g : Nat) (h0 : s0.Keeps s) :
    s0.Keeps (s.runsDrained g) := by
  unfold State.runsDrained
  repeat' with_reducible first
    | assumption
    | exact fun h => h
    | apply State.completeCmd_keeps
    | (refine Keeps.ofIte (fun _ => ?_) (fun _ => ?_))
    | split

theorem State.recVisible_keeps {s0 s : State} (g : Nat) (h0 : s0.Keeps s) :
    s0.Keeps (s.recVisible g) := by
  unfold State.recVisible
  repeat' with_reducible first
    | assumption
    | exact fun h => h
    | (extract_lets +onlyGivenNames x; clear_value (e : x = _); subst e)
    | apply State.onGroup_keeps
    | (refine Keeps.ofIte (fun _ => ?_) (fun _ => ?_))
    | split
    | (refine Keeps.upd ?_ rfl rfl rfl rfl rfl ?_ ?_ ?_ ?_ ?_)

theorem State.askCmd_keeps {s0 s : State} (g : Nat) (rs : List (Nat × Nat)) (h0 : s0.Keeps s) :
    s0.Keeps (s.askCmd g rs) := by
  unfold State.askCmd
  repeat' with_reducible first
    | assumption
    | exact fun h => h
    | apply State.onGroup_keeps
    | apply State.issueReads_keeps

theorem State.fetchRecords_keeps {s0 s : State} (p off len : Nat) (h0 : s0.Keeps s) :
    s0.Keeps (s.fetchRecords p off len) := by
  unfold State.fetchRecords
  repeat' with_reducible first
    | assumption
    | exact fun h => h
    | apply State.issueRead_keeps
    | split

theorem State.begin_keeps {s0 s : State} (g phase : Nat) (d : Bytes) (h0 : s0.Keeps s) :
    s0.Keeps (s.begin g phase d) := by
  unfold State.begin
  repeat' with_reducible first
    | assumption
    | exact fun h => h
    | apply State.onGroup_keeps

theorem State.refuseDesc_keeps {s0 s : State} (g fault : Nat) (d : Bytes) (h0 : s0.Keeps s) :
    s0.Keeps (s.refuseDesc g fault d) := by
  unfold State.refuseDesc
  repeat' with_reducible first
    | assumption
    | exact fun h => h
    | (extract_lets +onlyGivenNames x; clear_value (e : x = _); subst e)
    | apply State.complete_keeps
    | apply State.completeCmd_keeps
    | apply State.begin_keeps
    | (refine Keeps.ofIte (fun _ => ?_) (fun _ => ?_))

theorem State.runDesc_keeps {s0 s : State} (g : Nat) (mine : Bytes → Bool) (ops : Nat → Bytes → State → List (Nat × Nat))
    (f : Bytes → State → State) (hf : ∀ d u, s0.Keeps u → s0.Keeps (f d u)) (h0 : s0.Keeps s) :
    s0.Keeps (s.runDesc g mine ops f) := by
  unfold State.runDesc
  repeat' with_reducible first
    | assumption
    | exact fun h => h
    | (extract_lets +onlyGivenNames x; clear_value (e : x = _); subst e)
    | apply State.bump_keeps
    | apply State.askCmd_keeps
    | apply State.refuseDesc_keeps
    | apply hf
    | (refine Keeps.ofIte (fun _ => ?_) (fun _ => ?_))
    | split

theorem State.answer_keeps {s0 s : State} (g fault : Nat) (h0 : s0.Keeps s) :
    s0.Keeps (s.answer g fault) := by
  unfold State.answer
  repeat' with_reducible first
    | assumption
    | exact fun h => h
    | apply State.completeCmd_keeps

theorem State.abortRed_keeps {s0 s : State} (p l : Nat) (h0 : s0.Keeps s) :
    s0.Keeps (s.abortRed p l) := by
  unfold State.abortRed
  repeat' with_reducible first
    | assumption
    | exact fun h => h
    | (extract_lets +onlyGivenNames x; clear_value (e : x = _); subst e)
    | apply State.bump_keeps
    | apply State.raise_keeps
    | apply State.onStep_keeps
    | apply State.draw_keeps
    | (refine Keeps.foldl _ _ (fun u a hu => ?_) ?_)
    | split
    | (refine Keeps.upd ?_ rfl rfl rfl rfl rfl ?_ ?_ ?_ ?_ ?_)
    | exact Keeps.setLen
    | exact spWf_memWrite _ _ _
    | exact spWf_foldl _ _ (fun _ _ k => spWf_memWrite _ _ _ k) _

theorem State.raiseAbort_keeps {s0 s : State} (p l reason : Nat) (h0 : s0.Keeps s) :
    s0.Keeps (s.raiseAbort p l reason) := by
  unfold State.raiseAbort
  repeat' with_reducible first
    | assumption
    | exact fun h => h
    | apply State.spread_keeps
    | apply State.abortRed_keeps
    | (refine Keeps.ofIte (fun _ => ?_) (fun _ => ?_))
    | split

theorem State.endAgain_keeps {s0 s : State} (p : Nat) (h0 : s0.Keeps s) :
    s0.Keeps (s.endAgain p) := by
  unfold State.endAgain
  repeat' with_reducible first
    | assumption
    | exact fun h => h
    | apply State.onPart_keeps
    | apply State.onStep_keeps
    | apply State.take_keeps
    | (refine Keeps.ofIte (fun _ => ?_) (fun _ => ?_))
    | split

theorem State.freeTorn_keeps {s0 s : State} (p : Nat) (h0 : s0.Keeps s) :
    s0.Keeps (s.freeTorn p) := by
  unfold State.freeTorn
  repeat' with_reducible first
    | assumption
    | exact fun h => h
    | apply State.freeOwner_keeps
    | (refine Keeps.ofIte (fun _ => ?_) (fun _ => ?_))

theorem State.teardown_keeps {s0 s : State} (p fault : Nat) (h0 : s0.Keeps s) :
    s0.Keeps (s.teardown p fault) := by
  unfold State.teardown
  repeat' with_reducible first
    | assumption
    | exact fun h => h
    | (extract_lets +onlyGivenNames x; clear_value (e : x = _); subst e)
    | apply State.latch_keeps
    | apply State.raise_keeps
    | apply State.onPart_keeps
    | apply State.onGroup_keeps
    | apply State.sendWithdraw_keeps
    | apply State.sendFinal_keeps
    | apply State.voidDest_keeps
    | apply State.voidSrc_keeps
    | apply State.wake_keeps
    | apply State.clearLanes_keeps
    | apply State.endWritten_keeps
    | apply State.raiseAbort_keeps
    | apply State.endAgain_keeps
    | apply State.freeTorn_keeps
    | (refine Keeps.ofIte (fun _ => ?_) (fun _ => ?_))
    | (refine Keeps.foldl _ _ (fun u a hu => ?_) ?_)
    | split
    | (refine Keeps.upd ?_ rfl rfl rfl rfl rfl ?_ ?_ ?_ ?_ ?_)

theorem State.teardownAll_keeps {s0 s : State} (fault : Nat) (h0 : s0.Keeps s) :
    s0.Keeps (s.teardownAll fault) := by
  unfold State.teardownAll
  repeat' with_reducible first
    | assumption
    | exact fun h => h
    | apply State.teardown_keeps
    | (refine Keeps.foldl _ _ (fun u a hu => ?_) ?_)

theorem State.takeRecords_keeps {s0 s : State} (p : Nat) (h0 : s0.Keeps s) :
    s0.Keeps (s.takeRecords p) := by
  unfold State.takeRecords
  repeat' with_reducible first
    | assumption
    | exact fun h => h
    | apply State.onPart_keeps
    | apply State.teardown_keeps
    | (refine Keeps.ofIte (fun _ => ?_) (fun _ => ?_))
    | split

theorem State.setContext_keeps {s0 s : State} (n : Nat) (b : Bytes) (h0 : s0.Keeps s) :
    s0.Keeps (s.setContext n b) := by
  unfold State.setContext
  repeat' with_reducible first
    | assumption
    | exact fun h => h
    | (extract_lets +onlyGivenNames x; clear_value (e : x = _); subst e)
    | (refine Keeps.ofIte (fun _ => ?_) (fun _ => ?_))
    | split
    | (refine Keeps.upd ?_ rfl rfl rfl rfl rfl ?_ ?_ ?_ ?_ ?_)

theorem State.runStream_keeps {s0 s : State} (g a : Nat) (f : State → Nat → Bytes → Nat → Bytes ⊕ Nat) (h0 : s0.Keeps s) :
    s0.Keeps (s.runStream g a f) := by
  unfold State.runStream
  repeat' with_reducible first
    | assumption
    | exact fun h => h
    | (extract_lets +onlyGivenNames x; clear_value (e : x = _); subst e)
    | apply State.begin_keeps
    | apply State.runDesc_keeps
    | apply State.answer_keeps
    | apply State.setContext_keeps
    | (refine Keeps.ofIte (fun _ => ?_) (fun _ => ?_))
    | split
    | intro _

theorem State.cmdWritten_keeps {s0 s : State} (g : Nat) (h0 : s0.Keeps s) :
    s0.Keeps (s.cmdWritten g) := by
  unfold State.cmdWritten
  repeat' with_reducible first
    | assumption
    | exact fun h => h
    | apply State.completeCmd_keeps
    | apply State.answer_keeps
    | (refine Keeps.ofIte (fun _ => ?_) (fun _ => ?_))
    | split

theorem State.abortNow_keeps {s0 s : State} (g : Nat) (h0 : s0.Keeps s) :
    s0.Keeps (s.abortNow g) := by
  unfold State.abortNow
  repeat' with_reducible first
    | assumption
    | exact fun h => h
    | (extract_lets +onlyGivenNames x; clear_value (e : x = _); subst e)
    | apply State.onGroup_keeps
    | apply State.onStep_keeps
    | apply State.sendWithdraw_keeps
    | apply State.completeCmd_keeps
    | apply State.endCmd_keeps
    | apply State.begin_keeps
    | apply State.endAgain_keeps
    | (refine Keeps.ofIte (fun _ => ?_) (fun _ => ?_))
    | split

theorem State.stopCores_keeps {s0 s : State} (g p : Nat) (h0 : s0.Keeps s) :
    s0.Keeps (s.stopCores g p) := by
  unfold State.stopCores
  repeat' with_reducible first
    | assumption
    | exact fun h => h
    | apply State.onGroup_keeps
    | apply State.draw_keeps
    | (refine Keeps.ofIte (fun _ => ?_) (fun _ => ?_))
    | split
    | (refine Keeps.upd ?_ rfl rfl rfl rfl rfl ?_ ?_ ?_ ?_ ?_)

theorem State.restored_keeps {s0 s : State} (g : Nat) (h0 : s0.Keeps s) :
    s0.Keeps (s.restored g) := by
  unfold State.restored
  repeat' with_reducible first
    | assumption
    | exact fun h => h
    | (extract_lets +onlyGivenNames x; clear_value (e : x = _); subst e)
    | apply State.onGroup_keeps
    | (refine Keeps.ofIte (fun _ => ?_) (fun _ => ?_))
    | split
    | (refine Keeps.upd ?_ rfl rfl rfl rfl rfl ?_ ?_ ?_ ?_ ?_)

theorem State.abortSaved_keeps {s0 s : State}  (h0 : s0.Keeps s) :
    s0.Keeps (s.abortSaved) := by
  unfold State.abortSaved
  repeat' with_reducible first
    | assumption
    | exact fun h => h
    | apply State.completeCmd_keeps
    | (refine Keeps.ofIte (fun _ => ?_) (fun _ => ?_))
    | (refine Keeps.foldl _ _ (fun u a hu => ?_) ?_)
    | split

theorem spWf_memErase (m : List (Nat × Byte)) (a n : Nat) (h : spWf m = true) : spWf (memErase m a n) = true :=
  spWf_filter _ _ h

theorem spWf_memCopy (m : List (Nat × Byte)) (src dst n : Nat) (h : spWf m = true) :
    spWf (memCopy m src dst n) = true :=
  spWf_foldl _ _ (fun _ _ k => spWf_spSet _ _ _ k) _ (spWf_memErase m dst n h)

theorem State.copyMem_keeps {s0 s : State} (p src dst n : Nat) (h0 : s0.Keeps s) :
    s0.Keeps (s.copyMem p src dst n) :=
  State.askWrites_keeps _ _ (Keeps.upd h0 rfl rfl rfl rfl rfl (spWf_memCopy _ _ _ _) id id id id)

theorem State.onTab_keeps {s0 s : State} (p t : Nat) (f : TablePair → TablePair) (h0 : s0.Keeps s) :
    s0.Keeps (s.onTab p t f) := by
  unfold State.onTab
  repeat' with_reducible first
    | assumption
    | exact fun h => h
    | apply State.onPart_keeps

theorem State.loadBias_keeps {s0 s : State} (p : Nat) (h0 : s0.Keeps s) : s0.Keeps (s.loadBias p) :=
  Keeps.upd h0 rfl rfl rfl rfl rfl
    (fun k => spWf_foldl _ _ (fun _ _ k => spWf_memWrite _ _ _ k) _ (spWf_memErase _ _ _ k)) id id id id

theorem State.loadTables_keeps {s0 s : State} (p : Nat) (h0 : s0.Keeps s) :
    s0.Keeps (s.loadTables p) := by
  unfold State.loadTables
  repeat' with_reducible first
    | assumption
    | exact fun h => h
    | (extract_lets +onlyGivenNames x; clear_value (e : x = _); subst e)
    | apply State.onPart_keeps
    | apply State.onTab_keeps
    | apply State.loadBias_keeps

theorem State.bringUp_keeps {s0 s : State} (p : Nat) (h0 : s0.Keeps s) :
    s0.Keeps (s.bringUp p) := by
  unfold State.bringUp
  repeat' with_reducible first
    | assumption
    | exact fun h => h
    | (extract_lets +onlyGivenNames x; clear_value (e : x = _); subst e)
    | apply State.onPart_keeps
    | apply State.fetchRecords_keeps
    | apply State.takeRecords_keeps
    | (refine Keeps.ofIte (fun _ => ?_) (fun _ => ?_))

theorem State.setShadow_keeps {s0 s : State} (p t epoch : Nat) (es : List Bytes) (h0 : s0.Keeps s) :
    s0.Keeps (s.setShadow p t epoch es) := by
  unfold State.setShadow
  repeat' with_reducible first
    | assumption
    | exact fun h => h
    | apply State.onTab_keeps

theorem State.retireBatch_keeps {s0 s : State} (p t : Nat) (h0 : s0.Keeps s) :
    s0.Keeps (s.retireBatch p t) := by
  unfold State.retireBatch
  repeat' with_reducible first
    | assumption
    | exact fun h => h
    | (extract_lets +onlyGivenNames x; clear_value (e : x = _); subst e)
    | (refine Keeps.ofIte (fun _ => ?_) (fun _ => ?_))
    | split
    | (refine Keeps.upd ?_ rfl rfl rfl rfl rfl ?_ ?_ ?_ ?_ ?_)
    | exact Keeps.setLen
    | (intro k; simp)

theorem State.batchAborts_keeps {s0 s : State}  (h0 : s0.Keeps s) :
    s0.Keeps (s.batchAborts) := by
  unfold State.batchAborts
  repeat' with_reducible first
    | assumption
    | exact fun h => h
    | (extract_lets +onlyGivenNames x; clear_value (e : x = _); subst e)
    | apply State.bump_keeps
    | apply State.onGroup_keeps
    | apply State.endWritten_keeps
    | (refine Keeps.ofIte (fun _ => ?_) (fun _ => ?_))
    | (refine Keeps.foldl _ _ (fun u a hu => ?_) ?_)
    | split

theorem State.runLoad_keeps {s0 s : State} (g t : Nat) (build : State → Nat → Bytes → List Bytes ⊕ Nat) (h0 : s0.Keeps s) :
    s0.Keeps (s.runLoad g t build) := by
  unfold State.runLoad
  repeat' with_reducible first
    | assumption
    | exact fun h => h
    | (extract_lets +onlyGivenNames x; clear_value (e : x = _); subst e)
    | apply State.begin_keeps
    | apply State.runDesc_keeps
    | apply State.answer_keeps
    | apply State.setShadow_keeps
    | apply State.retireBatch_keeps
    | (refine Keeps.ofIte (fun _ => ?_) (fun _ => ?_))
    | split
    | intro _

theorem State.openBias_keeps {s0 s : State} (p : Nat) (h0 : s0.Keeps s) :
    s0.Keeps (s.openBias p) := by
  unfold State.openBias
  repeat' with_reducible first
    | assumption
    | exact fun h => h
    | (extract_lets +onlyGivenNames x; clear_value (e : x = _); subst e)
    | apply State.copyMem_keeps
    | (refine Keeps.ofIte (fun _ => ?_) (fun _ => ?_))

theorem State.closeBias_keeps {s0 s : State} (p epoch : Nat) (h0 : s0.Keeps s) :
    s0.Keeps (s.closeBias p epoch) := by
  unfold State.closeBias
  repeat' with_reducible first
    | assumption
    | exact fun h => h
    | (extract_lets +onlyGivenNames x; clear_value (e : x = _); subst e)
    | apply State.onTab_keeps

end Sys2Proof.Machine
end

