-- ==== Sys2Proof/Laws/SharedLayer.lean ====
section
/-! SUPPORT. What the shared operations of the stitch, the start, the presses and the expert exchange keep: one lemma per operation,
cited by the proofs about single commands instead of unfolding it. -/

namespace Sys2Proof.Machine

theorem State.heardCount_keeps {s0 s : State} (ofs : Int) (h0 : s0.Keeps s) :
    s0.Keeps (s.heardCount ofs) := by
  unfold State.heardCount
  repeat' with_reducible first
    | assumption
    | exact fun h => h
    | (extract_lets +onlyGivenNames x; clear_value (e : x = _); subst e)
    | (refine Keeps.ofIte (fun _ => ?_) (fun _ => ?_))
    | split
    | (refine Keeps.upd ?_ rfl rfl rfl rfl rfl ?_ ?_ ?_ ?_ ?_)

theorem State.markStitch_keeps {s0 s : State}  (h0 : s0.Keeps s) :
    s0.Keeps (s.markStitch) := by
  unfold State.markStitch
  repeat' with_reducible first
    | assumption
    | exact fun h => h
    | (extract_lets +onlyGivenNames x; clear_value (e : x = _); subst e)
    | (refine Keeps.ofIte (fun _ => ?_) (fun _ => ?_))
    | split
    | (refine Keeps.upd ?_ rfl rfl rfl rfl rfl ?_ ?_ ?_ ?_ ?_)

theorem State.idleMarks_keeps {s0 s : State}  (h0 : s0.Keeps s) :
    s0.Keeps (s.idleMarks) := by
  unfold State.idleMarks
  repeat' with_reducible first
    | assumption
    | exact fun h => h
    | apply State.drive_keeps
    | (refine Keeps.ofIte (fun _ => ?_) (fun _ => ?_))
    | (refine Keeps.foldl _ _ (fun u a hu => ?_) ?_)
    | split

theorem State.noteSent_keeps {s0 s : State} (chan now : Nat) (h0 : s0.Keeps s) :
    s0.Keeps (s.noteSent chan now) := by
  unfold State.noteSent
  repeat' with_reducible first
    | assumption
    | exact fun h => h
    | (extract_lets +onlyGivenNames x; clear_value (e : x = _); subst e)
    | (refine Keeps.upd ?_ rfl rfl rfl rfl rfl ?_ ?_ ?_ ?_ ?_)

theorem State.takeCalendar_keeps {s0 s : State} (count secs : Nat) (h0 : s0.Keeps s) :
    s0.Keeps (s.takeCalendar count secs) := by
  unfold State.takeCalendar
  repeat' with_reducible first
    | assumption
    | exact fun h => h
    | (extract_lets +onlyGivenNames x; clear_value (e : x = _); subst e)
    | (refine Keeps.ofIte (fun _ => ?_) (fun _ => ?_))
    | split
    | (refine Keeps.upd ?_ rfl rfl rfl rfl rfl ?_ ?_ ?_ ?_ ?_)

theorem State.judgePhase_keeps {s0 s : State}  (h0 : s0.Keeps s) :
    s0.Keeps (s.judgePhase) := by
  unfold State.judgePhase
  repeat' with_reducible first
    | assumption
    | exact fun h => h
    | (extract_lets +onlyGivenNames x; clear_value (e : x = _); subst e)
    | (refine Keeps.ofIte (fun _ => ?_) (fun _ => ?_))
    | split
    | (refine Keeps.upd ?_ rfl rfl rfl rfl rfl ?_ ?_ ?_ ?_ ?_)

theorem State.countReach_keeps {s0 s : State}  (h0 : s0.Keeps s) :
    s0.Keeps (s.countReach) := by
  unfold State.countReach
  repeat' with_reducible first
    | assumption
    | exact fun h => h
    | (extract_lets +onlyGivenNames x; clear_value (e : x = _); subst e)
    | (refine Keeps.ofIte (fun _ => ?_) (fun _ => ?_))
    | (refine Keeps.foldl _ _ (fun u a hu => ?_) ?_)
    | split
    | (refine Keeps.upd ?_ rfl rfl rfl rfl rfl ?_ ?_ ?_ ?_ ?_)

theorem State.flash_keeps {s0 s : State} (ops : List (Nat × Option Bytes)) (h0 : s0.Keeps s) :
    s0.Keeps (s.flash ops) := by
  unfold State.flash
  repeat' with_reducible first
    | assumption
    | exact fun h => h
    | (extract_lets +onlyGivenNames x; clear_value (e : x = _); subst e)
    | (refine Keeps.upd ?_ rfl rfl rfl rfl rfl ?_ ?_ ?_ ?_ ?_)

theorem State.testRefuse_keeps {s0 s : State}  (h0 : s0.Keeps s) :
    s0.Keeps (s.testRefuse) := by
  unfold State.testRefuse
  repeat' with_reducible first
    | assumption
    | exact fun h => h
    | apply State.bump_keeps

theorem State.selfIdle_keeps {s0 s : State}  (h0 : s0.Keeps s) :
    s0.Keeps (s.selfIdle) := by
  unfold State.selfIdle
  repeat' with_reducible first
    | assumption
    | exact fun h => h
    | (extract_lets +onlyGivenNames x; clear_value (e : x = _); subst e)
    | (refine Keeps.upd ?_ rfl rfl rfl rfl rfl ?_ ?_ ?_ ?_ ?_)

theorem State.wrapUpdate_keeps {s0 s : State} (code : Nat) (h0 : s0.Keeps s) :
    s0.Keeps (s.wrapUpdate code) := by
  unfold State.wrapUpdate
  repeat' with_reducible first
    | assumption
    | exact fun h => h
    | (extract_lets +onlyGivenNames x; clear_value (e : x = _); subst e)
    | apply State.testRefuse_keeps
    | apply State.selfIdle_keeps
    | (refine Keeps.ofIte (fun _ => ?_) (fun _ => ?_))
    | split
    | (refine Keeps.upd ?_ rfl rfl rfl rfl rfl ?_ ?_ ?_ ?_ ?_)

theorem State.selfFinish_keeps {s0 s : State}  (h0 : s0.Keeps s) :
    s0.Keeps (s.selfFinish) := by
  unfold State.selfFinish
  repeat' with_reducible first
    | assumption
    | exact fun h => h
    | (extract_lets +onlyGivenNames x; clear_value (e : x = _); subst e)
    | apply State.raise_keeps
    | apply State.domainsOff_keeps
    | apply State.rampsOff_keeps
    | apply State.testRefuse_keeps
    | (refine Keeps.ofIte (fun _ => ?_) (fun _ => ?_))
    | split
    | (refine Keeps.upd ?_ rfl rfl rfl rfl rfl ?_ ?_ ?_ ?_ ?_)

theorem State.lintRetire_keeps {s0 s : State} (n : Nat) (h0 : s0.Keeps s) :
    s0.Keeps (s.lintRetire n) := by
  unfold State.lintRetire
  repeat' with_reducible first
    | assumption
    | exact fun h => h
    | (extract_lets +onlyGivenNames x; clear_value (e : x = _); subst e)
    | (refine Keeps.ofIte (fun _ => ?_) (fun _ => ?_))
    | split
    | (refine Keeps.upd ?_ rfl rfl rfl rfl rfl ?_ ?_ ?_ ?_ ?_)

theorem State.readLog_keeps {s0 s : State} (logs : List Bytes) (snap : Option Bytes) (h0 : s0.Keeps s) :
    s0.Keeps (s.readLog logs snap) := by
  unfold State.readLog
  repeat' with_reducible first
    | assumption
    | exact fun h => h
    | (extract_lets +onlyGivenNames x; clear_value (e : x = _); subst e)
    | (refine Keeps.ofIte (fun _ => ?_) (fun _ => ?_))
    | (refine Keeps.foldl _ _ (fun u a hu => ?_) ?_)
    | split
    | (refine Keeps.upd ?_ rfl rfl rfl rfl rfl ?_ ?_ ?_ ?_ ?_)

theorem State.onJob_keeps {s0 s : State} (p : Nat) (r : JobRef) (f : Pass → Pass) (h0 : s0.Keeps s) :
    s0.Keeps (s.onJob p r f) := by
  unfold State.onJob
  repeat' with_reducible first
    | assumption
    | exact fun h => h
    | (extract_lets +onlyGivenNames x; clear_value (e : x = _); subst e)
    | apply State.onPart_keeps
    | apply State.onGroup_keeps
    | apply State.onPass_keeps
    | apply State.wake_keeps
    | split

theorem State.onLane_keeps {s0 s : State} (c l : Nat) (f : Lane → Lane) (h0 : s0.Keeps s) :
    s0.Keeps (s.onLane c l f) := by
  unfold State.onLane
  repeat' with_reducible first
    | assumption
    | exact fun h => h
    | (refine Keeps.upd ?_ rfl rfl rfl rfl rfl ?_ ?_ ?_ ?_ ?_)

theorem State.countStat_keeps {s0 s : State} (p : Nat) (t : Option RowStat) (h0 : s0.Keeps s) :
    s0.Keeps (s.countStat p t) := by
  unfold State.countStat
  repeat' with_reducible first
    | assumption
    | exact fun h => h
    | (extract_lets +onlyGivenNames x; clear_value (e : x = _); subst e)
    | apply State.bump_keeps
    | (refine Keeps.ofIte (fun _ => ?_) (fun _ => ?_))
    | split

theorem State.normTok_keeps {s0 s : State} (p : Nat) (r : JobRef) (j : Job) (t : Tok) (h0 : s0.Keeps s) :
    s0.Keeps (s.normTok p r j t).1 := by
  unfold State.normTok
  repeat' with_reducible first
    | assumption
    | exact fun h => h
    | (extract_lets +onlyGivenNames x; clear_value (e : x = _); subst e)
    | (refine Keeps.foldl_fst _ _ (fun u a hu => ?_) _ ?_)
    | apply State.bump_keeps
    | apply State.charge_keeps
    | apply State.onLane_keeps
    | apply State.countStat_keeps
    | (refine Keeps.ofIte (fun _ => ?_) (fun _ => ?_))
    | (refine Keeps.foldl _ _ (fun u a hu => ?_) ?_)
    | split

theorem State.askTile_keeps {s0 s : State} (p : Nat) (e pr : Bytes) (l b j n : Nat) (h0 : s0.Keeps s) :
    s0.Keeps (s.askTile p e pr l b j n) := by
  unfold State.askTile
  repeat' with_reducible first
    | assumption
    | exact fun h => h
    | (extract_lets +onlyGivenNames x; clear_value (e : x = _); subst e)
    | apply State.askReads_keeps

theorem State.issueRouter_keeps {s0 s : State} (p : Nat) (e pr : Bytes) (l b : Nat) (h0 : s0.Keeps s) :
    s0.Keeps (s.issueRouter p e pr l b) := by
  unfold State.issueRouter
  repeat' with_reducible first
    | assumption
    | exact fun h => h
    | apply State.askTile_keeps
    | (refine Keeps.foldl _ _ (fun u a hu => ?_) ?_)

theorem State.issueRun_keeps {s0 s : State} (p : Nat) (ref : JobRef) (j : Job) (q : Pass) (r : Run) (h0 : s0.Keeps s) :
    s0.Keeps (s.issueRun p ref j q r) := by
  unfold State.issueRun
  repeat' with_reducible first
    | assumption
    | exact fun h => h
    | (extract_lets +onlyGivenNames x; clear_value (e : x = _); subst e)
    | apply State.charge_keeps
    | apply State.onJob_keeps
    | (refine Keeps.foldl _ _ (fun u a hu => ?_) ?_)
    | (refine Keeps.upd ?_ rfl rfl rfl rfl rfl ?_ ?_ ?_ ?_ ?_)

theorem State.holdAcc_keeps {s0 s : State} (a : Nat) (v : List F32) (h0 : s0.Keeps s) :
    s0.Keeps (s.holdAcc a v) := by
  unfold State.holdAcc
  repeat' with_reducible first
    | assumption
    | exact fun h => h
    | (refine Keeps.upd ?_ rfl rfl rfl rfl rfl ?_ ?_ ?_ ?_ ?_)

theorem State.raiseBucket_keeps {s0 s : State} (a : Nat) (h0 : s0.Keeps s) :
    s0.Keeps (s.raiseBucket a) := by
  unfold State.raiseBucket
  repeat' with_reducible first
    | assumption
    | exact fun h => h
    | (extract_lets +onlyGivenNames x; clear_value (e : x = _); subst e)
    | apply State.leakMark_keeps
    | (refine Keeps.ofIte (fun _ => ?_) (fun _ => ?_))
    | split
    | (refine Keeps.upd ?_ rfl rfl rfl rfl rfl ?_ ?_ ?_ ?_ ?_)

theorem State.countMis_keeps {s0 s : State} (a : Nat) (h0 : s0.Keeps s) :
    s0.Keeps (s.countMis a) := by
  unfold State.countMis
  repeat' with_reducible first
    | assumption
    | exact fun h => h
    | (extract_lets +onlyGivenNames x; clear_value (e : x = _); subst e)
    | (refine Keeps.upd ?_ rfl rfl rfl rfl rfl ?_ ?_ ?_ ?_ ?_)

theorem State.leaveArray_keeps {s0 s : State} (a : Nat) (h0 : s0.Keeps s) :
    s0.Keeps (s.leaveArray a) := by
  unfold State.leaveArray
  repeat' with_reducible first
    | assumption
    | exact fun h => h
    | (extract_lets +onlyGivenNames x; clear_value (e : x = _); subst e)
    | (refine Keeps.upd ?_ rfl rfl rfl rfl rfl ?_ ?_ ?_ ?_ ?_)

theorem State.moveJob_keeps {s0 s : State} (p a t : Nat) (on : List Run) (ref : JobRef) (h0 : s0.Keeps s) :
    s0.Keeps (s.moveJob p a t on ref) := by
  unfold State.moveJob
  repeat' with_reducible first
    | assumption
    | exact fun h => h
    | (extract_lets +onlyGivenNames x; clear_value (e : x = _); subst e)
    | apply State.onJob_keeps
    | apply State.askTile_keeps
    | (refine Keeps.ofIte (fun _ => ?_) (fun _ => ?_))
    | (refine Keeps.foldl _ _ (fun u a hu => ?_) ?_)
    | split

theorem State.retireArray_keeps {s0 s : State} (a : Nat) (h0 : s0.Keeps s) :
    s0.Keeps (s.retireArray a) := by
  unfold State.retireArray
  repeat' with_reducible first
    | assumption
    | exact fun h => h
    | (extract_lets +onlyGivenNames x; clear_value (e : x = _); subst e)
    | apply State.bump_keeps
    | apply State.raise_keeps
    | apply State.wake_keeps
    | apply State.teardown_keeps
    | apply State.leaveArray_keeps
    | apply State.moveJob_keeps
    | (refine Keeps.ofIte (fun _ => ?_) (fun _ => ?_))
    | (refine Keeps.foldl _ _ (fun u a hu => ?_) ?_)
    | split
    | (refine Keeps.upd ?_ rfl rfl rfl rfl rfl ?_ ?_ ?_ ?_ ?_)

theorem State.retirePending_keeps {s0 s : State} (p : Nat) (h0 : s0.Keeps s) :
    s0.Keeps (s.retirePending p) := by
  unfold State.retirePending
  repeat' with_reducible first
    | assumption
    | exact fun h => h
    | apply State.retireArray_keeps
    | (refine Keeps.ofIte (fun _ => ?_) (fun _ => ?_))
    | (refine Keeps.foldl _ _ (fun u a hu => ?_) ?_)

theorem State.startWake_keeps {s0 s : State} (p l : Nat) (h0 : s0.Keeps s) :
    s0.Keeps (s.startWake p l) := by
  unfold State.startWake
  repeat' with_reducible first
    | assumption
    | exact fun h => h
    | (extract_lets +onlyGivenNames x; clear_value (e : x = _); subst e)
    | apply State.onPart_keeps
    | apply State.wake_keeps
    | apply State.issueRouter_keeps

theorem State.startWakes_keeps {s0 s : State}  (h0 : s0.Keeps s) :
    s0.Keeps (s.startWakes) := by
  unfold State.startWakes
  repeat' with_reducible first
    | assumption
    | exact fun h => h
    | (extract_lets +onlyGivenNames x; clear_value (e : x = _); subst e)
    | apply State.wake_keeps
    | apply State.startWake_keeps
    | (refine Keeps.ofIte (fun _ => ?_) (fun _ => ?_))
    | (refine Keeps.foldl _ _ (fun u a hu => ?_) ?_)

theorem State.endWakeLayer_keeps {s0 s : State} (p : Nat) (j : Job) (h0 : s0.Keeps s) :
    s0.Keeps (s.endWakeLayer p j) := by
  unfold State.endWakeLayer
  repeat' with_reducible first
    | assumption
    | exact fun h => h
    | (extract_lets +onlyGivenNames x; clear_value (e : x = _); subst e)
    | apply State.onPart_keeps
    | apply State.wake_keeps
    | apply State.teardown_keeps
    | apply State.startWake_keeps
    | (refine Keeps.ofIte (fun _ => ?_) (fun _ => ?_))

theorem State.takeWake_keeps {s0 s : State} (p tile seg : Nat) (v : List F32) (h0 : s0.Keeps s) :
    s0.Keeps (s.takeWake p tile seg v) := by
  unfold State.takeWake
  repeat' with_reducible first
    | assumption
    | exact fun h => h
    | (extract_lets +onlyGivenNames x; clear_value (e : x = _); subst e)
    | apply State.onPart_keeps
    | apply State.wake_keeps
    | apply State.onJob_keeps
    | apply State.endWakeLayer_keeps
    | (refine Keeps.ofIte (fun _ => ?_) (fun _ => ?_))
    | split

theorem State.addWake_keeps {s0 s : State} (p tile : Nat) (now : Bool) (r : Run) (as : List Nat) (h0 : s0.Keeps s) :
    s0.Keeps (s.addWake p tile now r as) := by
  unfold State.addWake
  repeat' with_reducible first
    | assumption
    | exact fun h => h
    | (extract_lets +onlyGivenNames x; clear_value (e : x = _); subst e)
    | apply State.wake_keeps
    | apply State.onJob_keeps

theorem State.wakePartial_keeps {s0 s : State} (p tile seg a : Nat) (r : Run) (v : List F32) (h0 : s0.Keeps s) :
    s0.Keeps (s.wakePartial p tile seg a r v) := by
  unfold State.wakePartial
  repeat' with_reducible first
    | assumption
    | exact fun h => h
    | (extract_lets +onlyGivenNames x; clear_value (e : x = _); subst e)
    | apply State.raise_keeps
    | apply State.onPart_keeps
    | apply State.retireArray_keeps
    | apply State.takeWake_keeps
    | apply State.addWake_keeps
    | (refine Keeps.ofIte (fun _ => ?_) (fun _ => ?_))
    | (refine Keeps.foldl _ _ (fun u a hu => ?_) ?_)
    | split

theorem State.failRun_keeps {s0 s : State} (r : Run) (a tile : Nat) (c : RunCheck) (h0 : s0.Keeps s) :
    s0.Keeps (s.failRun r a tile c) := by
  unfold State.failRun
  repeat' with_reducible first
    | assumption
    | exact fun h => h
    | (extract_lets +onlyGivenNames x; clear_value (e : x = _); subst e)
    | apply State.latch_keeps
    | apply State.raise_keeps
    | apply State.onJob_keeps
    | apply State.countMis_keeps
    | apply State.leaveArray_keeps
    | apply State.retireArray_keeps
    | (refine Keeps.ofIte (fun _ => ?_) (fun _ => ?_))

theorem State.onTok_keeps {s0 s : State} (p l row : Nat) (f : Tok → Tok) (h0 : s0.Keeps s) :
    s0.Keeps (s.onTok p l row f) := by
  unfold State.onTok
  repeat' with_reducible first
    | assumption
    | exact fun h => h
    | apply State.onPass_keeps

theorem State.countAdm_keeps {s0 s : State} (p : Nat) (c : List Nat) (h0 : s0.Keeps s) :
    s0.Keeps (s.countAdm p c) := by
  unfold State.countAdm
  repeat' with_reducible first
    | assumption
    | exact fun h => h
    | (extract_lets +onlyGivenNames x; clear_value (e : x = _); subst e)
    | apply State.bump_keeps
    | (refine Keeps.ofIte (fun _ => ?_) (fun _ => ?_))

theorem State.ticketCells_keeps {s0 s : State} {p l : Nat} {ks : List Ticket} {u : State} (e : (s.ticketCells p l ks) = some u)
    (h0 : s0.Keeps s) : s0.Keeps u := by
  refine (?_ : s0.KeepsAll (fun x => x) (s.ticketCells p l ks)) _ e
  clear e
  unfold State.ticketCells
  repeat' with_reducible first
    | assumption
    | exact fun h => h
    | exact Keeps.allNone
    | refine Keeps.allSome ?_
    | (refine Keeps.allIte (fun _ => ?_) (fun _ => ?_))
    | refine Keeps.allMapOf _ _ ?_ (fun _ _ => ?_)
    | refine Keeps.allMap _ _ (fun _ _ => ?_)
    | refine Keeps.allBind _ _ ?_ (fun _ _ => ?_)
    | refine Keeps.allFoldl _ _ (fun _ _ _ => ?_) _ ?_
    | apply State.onPass_keeps
    | (refine State.allocStage_keeps (by assumption) ?_)

theorem State.keepTickets_keeps {s0 s : State} (p l : Nat) (h0 : s0.Keeps s) :
    s0.Keeps (s.keepTickets p l) := by
  unfold State.keepTickets
  repeat' with_reducible first
    | assumption
    | exact fun h => h
    | (extract_lets +onlyGivenNames x; clear_value (e : x = _); subst e)
    | apply State.fillCells_keeps
    | (refine Keeps.ofIte (fun _ => ?_) (fun _ => ?_))
    | split
    | (refine Keeps.upd ?_ rfl rfl rfl rfl rfl ?_ ?_ ?_ ?_ ?_)

theorem State.freeTickets_keeps {s0 s : State} (p l : Nat) (h0 : s0.Keeps s) :
    s0.Keeps (s.freeTickets p l) := by
  unfold State.freeTickets
  repeat' with_reducible first
    | assumption
    | exact fun h => h
    | apply State.onPass_keeps
    | apply State.freeChain_keeps
    | (refine Keeps.ofIte (fun _ => ?_) (fun _ => ?_))
    | split

theorem State.readResiduals_keeps {s0 s : State} (p l : Nat) (x : StepSt) (k : Nat) (toks : List Tok) (h0 : s0.Keeps s) :
    s0.Keeps (s.readResiduals p l x k toks) := by
  unfold State.readResiduals
  repeat' with_reducible first
    | assumption
    | exact fun h => h
    | apply State.onPass_keeps
    | apply State.fetchRows_keeps
    | split

theorem State.addTally_keeps {s0 s : State} (p l m : Nat) (t : RxTally) (h0 : s0.Keeps s) :
    s0.Keeps (s.addTally p l m t) := by
  unfold State.addTally
  repeat' with_reducible first
    | assumption
    | exact fun h => h
    | apply State.onMicro_keeps

theorem State.onRx_keeps {s0 s : State} (p l m src : Nat) (f : RxTally → RxTally) (h0 : s0.Keeps s) :
    s0.Keeps (s.onRx p l m src f) := by
  unfold State.onRx
  repeat' with_reducible first
    | assumption
    | exact fun h => h
    | apply State.onMicro_keeps

theorem State.reserveFor_keeps {s0 s : State} {p l m o n : Nat} {u : State} (e : (s.reserveFor p l m o n) = some u)
    (h0 : s0.Keeps s) : s0.Keeps u := by
  refine (?_ : s0.KeepsAll (fun x => x) (s.reserveFor p l m o n)) _ e
  clear e
  unfold State.reserveFor
  repeat' with_reducible first
    | assumption
    | exact fun h => h
    | exact Keeps.allNone
    | refine Keeps.allSome ?_
    | (refine Keeps.allIte (fun _ => ?_) (fun _ => ?_))
    | refine Keeps.allMapOf _ _ ?_ (fun _ _ => ?_)
    | refine Keeps.allMap _ _ (fun _ _ => ?_)
    | refine Keeps.allBind _ _ ?_ (fun _ _ => ?_)
    | refine Keeps.allFoldl _ _ (fun _ _ _ => ?_) _ ?_
    | apply State.onMicro_keeps
    | (refine State.reserve_keeps (by assumption) ?_)
    | exact Keeps.allOf (fun _ e => State.reserve_keeps e (by assumption))

theorem State.unreserveFor_keeps {s0 s : State} (p l m o n : Nat) (h0 : s0.Keeps s) :
    s0.Keeps (s.unreserveFor p l m o n) := by
  unfold State.unreserveFor
  repeat' with_reducible first
    | assumption
    | exact fun h => h
    | (extract_lets +onlyGivenNames x; clear_value (e : x = _); subst e)
    | apply State.onMicro_keeps
    | apply State.unreserve_keeps
    | (refine Keeps.ofIte (fun _ => ?_) (fun _ => ?_))
    | split

theorem State.takeTally_keeps {s0 s : State} {p l m : Nat} {c : XCfg} {src via : Nat} {es : List TallyEnt} {u : State} (e : (s.takeTally p l m c src via es) = some u)
    (h0 : s0.Keeps s) : s0.Keeps u := by
  refine (?_ : s0.KeepsAll (fun x => x) (s.takeTally p l m c src via es)) _ e
  clear e
  unfold State.takeTally
  repeat' with_reducible first
    | assumption
    | exact fun h => h
    | exact Keeps.allNone
    | refine Keeps.allSome ?_
    | (refine Keeps.allIte (fun _ => ?_) (fun _ => ?_))
    | refine Keeps.allMapOf _ _ ?_ (fun _ _ => ?_)
    | refine Keeps.allMap _ _ (fun _ _ => ?_)
    | refine Keeps.allBind _ _ ?_ (fun _ _ => ?_)
    | refine Keeps.allFoldl _ _ (fun _ _ _ => ?_) _ ?_
    | apply State.addTally_keeps
    | (refine State.reserveFor_keeps (by assumption) ?_)
    | exact Keeps.allOf (fun _ e => State.reserveFor_keeps e (by assumption))

theorem State.setOut_keeps {s0 s : State} (p l m d v : Nat) (h0 : s0.Keeps s) :
    s0.Keeps (s.setOut p l m d v) := by
  unfold State.setOut
  repeat' with_reducible first
    | assumption
    | exact fun h => h
    | apply State.onMicro_keeps

theorem State.setTickets_keeps {s0 s : State} (p l : Nat) (f : Ticket → Bool) (st : Nat) (h0 : s0.Keeps s) :
    s0.Keeps (s.setTickets p l f st) := by
  unfold State.setTickets
  repeat' with_reducible first
    | assumption
    | exact fun h => h
    | apply State.onPass_keeps

theorem State.dropTickets_keeps {s0 s : State} (p l m : Nat) (f : Ticket → Bool) (st code ci vb : Nat) (h0 : s0.Keeps s) :
    s0.Keeps (s.dropTickets p l m f st code ci vb) := by
  unfold State.dropTickets
  repeat' with_reducible first
    | assumption
    | exact fun h => h
    | (extract_lets +onlyGivenNames x; clear_value (e : x = _); subst e)
    | apply State.bump_keeps
    | apply State.onPass_keeps
    | apply State.onMicro_keeps
    | apply State.keepTickets_keeps
    | (refine Keeps.ofIte (fun _ => ?_) (fun _ => ?_))
    | (refine Keeps.foldl _ _ (fun u a hu => ?_) ?_)
    | split

theorem State.markLost_keeps {s0 s : State} (p l : Nat) (rows : List Nat) (h0 : s0.Keeps s) :
    s0.Keeps (s.markLost p l rows) := by
  unfold State.markLost
  repeat' with_reducible first
    | assumption
    | exact fun h => h
    | (extract_lets +onlyGivenNames x; clear_value (e : x = _); subst e)
    | apply State.bump_keeps
    | apply State.raise_keeps
    | apply State.onPass_keeps
    | (refine Keeps.ofIte (fun _ => ?_) (fun _ => ?_))
    | split

theorem State.loseTickets_keeps {s0 s : State} (p l m : Nat) (f : Ticket → Bool) (h0 : s0.Keeps s) :
    s0.Keeps (s.loseTickets p l m f) := by
  unfold State.loseTickets
  repeat' with_reducible first
    | assumption
    | exact fun h => h
    | (extract_lets +onlyGivenNames x; clear_value (e : x = _); subst e)
    | apply State.bump_keeps
    | apply State.raise_keeps
    | apply State.dropTickets_keeps
    | apply State.markLost_keeps
    | (refine Keeps.ofIte (fun _ => ?_) (fun _ => ?_))
    | split

theorem State.sendPile_keeps {s0 s : State} (p l m d : Nat) (h0 : s0.Keeps s) :
    s0.Keeps (s.sendPile p l m d) := by
  unfold State.sendPile
  repeat' with_reducible first
    | assumption
    | exact fun h => h
    | (extract_lets +onlyGivenNames x; clear_value (e : x = _); subst e)
    | apply State.send_keeps
    | apply State.waitFor_keeps
    | apply State.setOut_keeps
    | apply State.setTickets_keeps
    | (refine Keeps.ofIte (fun _ => ?_) (fun _ => ?_))
    | split

theorem State.sendGwPile_keeps {s0 s : State} (p l m gw : Nat) (h0 : s0.Keeps s) :
    s0.Keeps (s.sendGwPile p l m gw) := by
  unfold State.sendGwPile
  repeat' with_reducible first
    | assumption
    | exact fun h => h
    | (extract_lets +onlyGivenNames x; clear_value (e : x = _); subst e)
    | apply State.bump_keeps
    | apply State.send_keeps
    | apply State.waitFor_keeps
    | apply State.setOut_keeps
    | apply State.setTickets_keeps
    | (refine Keeps.ofIte (fun _ => ?_) (fun _ => ?_))
    | split

theorem State.ownPile_keeps {s0 s : State} (p l m : Nat) (h0 : s0.Keeps s) :
    s0.Keeps (s.ownPile p l m) := by
  unfold State.ownPile
  repeat' with_reducible first
    | assumption
    | exact fun h => h
    | (extract_lets +onlyGivenNames x; clear_value (e : x = _); subst e)
    | apply State.onMicro_keeps
    | apply State.onRx_keeps
    | apply State.setTickets_keeps
    | (refine Keeps.ofIte (fun _ => ?_) (fun _ => ?_))
    | split

theorem State.withhold_keeps {s0 s : State} (p l m d n : Nat) (h0 : s0.Keeps s) :
    s0.Keeps (s.withhold p l m d n) := by
  unfold State.withhold
  repeat' with_reducible first
    | assumption
    | exact fun h => h
    | (extract_lets +onlyGivenNames x; clear_value (e : x = _); subst e)
    | apply State.bump_keeps
    | apply State.onMicro_keeps
    | apply State.setTickets_keeps
    | (refine Keeps.ofIte (fun _ => ?_) (fun _ => ?_))
    | split

theorem State.loseGone_keeps {s0 s : State} (p l m : Nat) (h0 : s0.Keeps s) :
    s0.Keeps (s.loseGone p l m) := by
  unfold State.loseGone
  repeat' with_reducible first
    | assumption
    | exact fun h => h
    | apply State.loseTickets_keeps
    | split

theorem State.follow_keeps {s0 s : State} (p l m d n : Nat) (c : XCfg) (h0 : s0.Keeps s) :
    s0.Keeps (s.follow p l m d n c) := by
  unfold State.follow
  repeat' with_reducible first
    | assumption
    | exact fun h => h
    | (extract_lets +onlyGivenNames x; clear_value (e : x = _); subst e)
    | apply State.onMicro_keeps
    | apply State.waitFor_keeps
    | apply State.sendPile_keeps
    | apply State.sendGwPile_keeps
    | (refine Keeps.ofIte (fun _ => ?_) (fun _ => ?_))

theorem State.ownTally_keeps {s0 s : State} {p l m : Nat} {c : XCfg} {u : State} (e : (s.ownTally p l m c) = some u)
    (h0 : s0.Keeps s) : s0.Keeps u := by
  refine (?_ : s0.KeepsAll (fun x => x) (s.ownTally p l m c)) _ e
  clear e
  unfold State.ownTally
  repeat' with_reducible first
    | assumption
    | exact fun h => h
    | exact Keeps.allNone
    | refine Keeps.allSome ?_
    | (refine Keeps.allIte (fun _ => ?_) (fun _ => ?_))
    | refine Keeps.allMapOf _ _ ?_ (fun _ _ => ?_)
    | refine Keeps.allMap _ _ (fun _ _ => ?_)
    | refine Keeps.allBind _ _ ?_ (fun _ _ => ?_)
    | refine Keeps.allFoldl _ _ (fun _ _ _ => ?_) _ ?_
    | (refine State.takeTally_keeps (by assumption) ?_)
    | exact Keeps.allOf (fun _ e => State.takeTally_keeps e (by assumption))
    | apply State.ownPile_keeps
    | (refine Keeps.ofIte (fun _ => ?_) (fun _ => ?_))
    | split

theorem State.spreadSort_keeps {s0 s : State} (p l m : Nat) (x : StepSt) (c : XCfg) (gates : List (Nat × Nat × Bool)) (h0 : s0.Keeps s) :
    s0.Keeps (s.spreadSort p l m x c gates) := by
  unfold State.spreadSort
  repeat' with_reducible first
    | assumption
    | exact fun h => h
    | (extract_lets +onlyGivenNames x; clear_value (e : x = _); subst e)
    | apply State.onMicro_keeps
    | apply State.send_keeps
    | apply State.follow_keeps
    | (refine Keeps.foldl _ _ (fun u a hu => ?_) ?_)

theorem State.endSource_keeps {s0 s : State} (p l n : Nat) (x : StepSt) (h0 : s0.Keeps s) :
    s0.Keeps (s.endSource p l n x) := by
  unfold State.endSource
  repeat' with_reducible first
    | assumption
    | exact fun h => h
    | (extract_lets +onlyGivenNames x; clear_value (e : x = _); subst e)
    | apply State.onPass_keeps
    | apply State.countSubst_keeps
    | apply State.sendFinal_keeps
    | apply State.addTally_keeps
    | (refine Keeps.ofIte (fun _ => ?_) (fun _ => ?_))

theorem State.xOpen_keeps {s0 s : State} {p l : Nat} {v : StepSt × Pass} {u : State} (e : (s.xOpen p l) = some (u, v))
    (h0 : s0.Keeps s) : s0.Keeps u := by
  refine (?_ : s0.KeepsAll (·.1) (s.xOpen p l)) _ e
  clear e
  unfold State.xOpen
  repeat' with_reducible first
    | assumption
    | exact fun h => h
    | exact Keeps.allNone
    | refine Keeps.allSome ?_
    | (refine Keeps.allIte (fun _ => ?_) (fun _ => ?_))
    | refine Keeps.allMapOf _ _ ?_ (fun _ _ => ?_)
    | refine Keeps.allMap _ _ (fun _ _ => ?_)
    | refine Keeps.allBind _ _ ?_ (fun _ _ => ?_)
    | refine Keeps.allFoldl _ _ (fun _ _ _ => ?_) _ ?_
    | (extract_lets +onlyGivenNames x; clear_value (e : x = _); subst e)
    | apply State.onStep_keeps
    | split

theorem State.stale_keeps {s0 s : State} (msg : Msg) (h0 : s0.Keeps s) :
    s0.Keeps (s.stale msg) := by
  unfold State.stale
  repeat' with_reducible first
    | assumption
    | exact fun h => h
    | apply State.bump_keeps
    | apply State.take_keeps

theorem State.dup_keeps {s0 s : State} (msg : Msg) (h0 : s0.Keeps s) :
    s0.Keeps (s.dup msg) := by
  unfold State.dup
  repeat' with_reducible first
    | assumption
    | exact fun h => h
    | apply State.bump_keeps
    | apply State.take_keeps

theorem State.corrupt_keeps {s0 s : State} (msg : Msg) (check : Nat) (h0 : s0.Keeps s) :
    s0.Keeps (s.corrupt msg check) := by
  unfold State.corrupt
  repeat' with_reducible first
    | assumption
    | exact fun h => h
    | apply State.markCorrupt_keeps
    | apply State.take_keeps

theorem State.receive_keeps {s0 s : State} (msg : Msg) (typ stepNo l : Nat) (f : State → StepSt → Pass → State)
    (hf : ∀ u x q, s0.Keeps u → s0.Keeps (f u x q)) (h0 : s0.Keeps s) : s0.Keeps (s.receive msg typ stepNo l f) := by
  unfold State.receive
  repeat' with_reducible first
    | assumption
    | exact fun h => h
    | (refine State.xOpen_keeps (by assumption) ?_)
    | apply State.stale_keeps
    | apply hf
    | (refine Keeps.ofIte (fun _ => ?_) (fun _ => ?_))
    | split

theorem State.fanOn_keeps {s0 s : State} (msg : Msg) (h0 : s0.Keeps s) :
    s0.Keeps (s.fanOn msg) := by
  unfold State.fanOn
  repeat' with_reducible first
    | assumption
    | exact fun h => h
    | apply State.fanPod_keeps
    | (refine Keeps.ofIte (fun _ => ?_) (fun _ => ?_))

theorem State.unvoid_keeps {s0 s : State} (p l m src from_ : Nat) (h0 : s0.Keeps s) :
    s0.Keeps (s.unvoid p l m src from_) := by
  unfold State.unvoid
  repeat' with_reducible first
    | assumption
    | exact fun h => h
    | apply State.onMicro_keeps

theorem State.voidBack_keeps {s0 s : State} (p l m stepNo src via reason : Nat) (elastic : Bool) (h0 : s0.Keeps s) :
    s0.Keeps (s.voidBack p l m stepNo src via reason elastic) := by
  unfold State.voidBack
  repeat' with_reducible first
    | assumption
    | exact fun h => h
    | apply State.voidReturn_keeps
    | apply State.voidGrant_keeps
    | (refine Keeps.ofIte (fun _ => ?_) (fun _ => ?_))

theorem State.fanTally_keeps {s0 s : State} {p l m : Nat} {x : StepSt} {c : XCfg} {src flags : Nat} {es : List TallyEnt} {u : State} (e : (s.fanTally p l m x c src flags es) = some u)
    (h0 : s0.Keeps s) : s0.Keeps u := by
  refine (?_ : s0.KeepsAll (fun x => x) (s.fanTally p l m x c src flags es)) _ e
  clear e
  unfold State.fanTally
  repeat' with_reducible first
    | assumption
    | exact fun h => h
    | exact Keeps.allNone
    | refine Keeps.allSome ?_
    | (refine Keeps.allIte (fun _ => ?_) (fun _ => ?_))
    | refine Keeps.allMapOf _ _ ?_ (fun _ _ => ?_)
    | refine Keeps.allMap _ _ (fun _ _ => ?_)
    | refine Keeps.allBind _ _ ?_ (fun _ _ => ?_)
    | refine Keeps.allFoldl _ _ (fun _ _ _ => ?_) _ ?_
    | (extract_lets +onlyGivenNames x; clear_value (e : x = _); subst e)
    | apply State.onMicro_keeps
    | apply State.send_keeps
    | apply State.sendVoid_keeps
    | apply State.waitFan_keeps
    | apply State.addTally_keeps
    | (refine State.takeTally_keeps (by assumption) ?_)
    | exact Keeps.allOf (fun _ e => State.takeTally_keeps e (by assumption))
    | (refine Keeps.ofIte (fun _ => ?_) (fun _ => ?_))
    | (refine Keeps.foldl _ _ (fun u a hu => ?_) ?_)

theorem State.onFan_keeps {s0 s : State} (p l m src : Nat) (f : GwFan → GwFan) (h0 : s0.Keeps s) :
    s0.Keeps (s.onFan p l m src f) := by
  unfold State.onFan
  repeat' with_reducible first
    | assumption
    | exact fun h => h
    | apply State.onMicro_keeps

theorem State.fanVoidTally_keeps {s0 s : State} (p l m stepNo src reason : Nat) (h0 : s0.Keeps s) :
    s0.Keeps (s.fanVoidTally p l m stepNo src reason) := by
  unfold State.fanVoidTally
  repeat' with_reducible first
    | assumption
    | exact fun h => h
    | (extract_lets +onlyGivenNames x; clear_value (e : x = _); subst e)
    | apply State.onMicro_keeps
    | apply State.sendVoid_keeps
    | apply State.addTally_keeps
    | (refine Keeps.foldl _ _ (fun u a hu => ?_) ?_)

theorem State.giveGrant_keeps {s0 s : State} (p l m stepNo : Nat) (t : RxTally) (g : Nat) (h0 : s0.Keeps s) :
    s0.Keeps (s.giveGrant p l m stepNo t g) := by
  unfold State.giveGrant
  repeat' with_reducible first
    | assumption
    | exact fun h => h
    | (extract_lets +onlyGivenNames x; clear_value (e : x = _); subst e)
    | apply State.send_keeps
    | apply State.onRx_keeps
    | apply State.ownPile_keeps
    | apply State.withhold_keeps
    | apply State.onFan_keeps
    | (refine Keeps.ofIte (fun _ => ?_) (fun _ => ?_))

theorem State.noPile_keeps {s0 s : State} (p l m src : Nat) (c : XCfg) (h0 : s0.Keeps s) :
    s0.Keeps (s.noPile p l m src c) := by
  unfold State.noPile
  repeat' with_reducible first
    | assumption
    | exact fun h => h
    | (extract_lets +onlyGivenNames x; clear_value (e : x = _); subst e)
    | apply State.onRx_keeps
    | apply State.unreserveFor_keeps
    | (refine Keeps.ofIte (fun _ => ?_) (fun _ => ?_))
    | split

theorem State.takePile_keeps {s0 s : State} (p l m src via : Nat) (mx : Bool) (ws : List WireRow) (cells : List Nat) (h0 : s0.Keeps s) :
    s0.Keeps (s.takePile p l m src via mx ws cells) := by
  unfold State.takePile
  repeat' with_reducible first
    | assumption
    | exact fun h => h
    | (extract_lets +onlyGivenNames x; clear_value (e : x = _); subst e)
    | apply State.onMicro_keeps
    | apply State.onRx_keeps
    | (refine Keeps.ofIte (fun _ => ?_) (fun _ => ?_))

theorem State.transitRows_keeps {s0 s : State} (p l m src len : Nat) (rs : List GwRow) (h0 : s0.Keeps s) :
    s0.Keeps (s.transitRows p l m src len rs) := by
  induction rs generalizing s with
  | nil => exact h0
  | cons r rs ih =>
    unfold State.transitRows
    split
    · exact ih (State.onFan_keeps _ _ _ _ _ (State.allocStage_keeps (by assumption) h0))
    · exact State.denied_keeps _ h0

theorem State.fanPiles_keeps {s0 s : State} (p l m : Nat) (x : StepSt) (f : GwFan) (mx : Bool) (rs : List GwRow) (h0 : s0.Keeps s) :
    s0.Keeps (s.fanPiles p l m x f mx rs) := by
  unfold State.fanPiles
  repeat' with_reducible first
    | assumption
    | exact fun h => h
    | (extract_lets +onlyGivenNames x; clear_value (e : x = _); subst e)
    | apply State.releaseId_keeps
    | apply State.sendWith_keeps
    | apply State.waitFan_keeps
    | apply State.onFan_keeps
    | apply State.takePile_keeps
    | (refine Keeps.ofIte (fun _ => ?_) (fun _ => ?_))
    | (refine Keeps.foldl _ _ (fun u a hu => ?_) ?_)
    | split

theorem State.fanNoPiles_keeps {s0 s : State} (p l m : Nat) (x : StepSt) (c : XCfg) (f : GwFan) (reason : Nat) (h0 : s0.Keeps s) :
    s0.Keeps (s.fanNoPiles p l m x c f reason) := by
  unfold State.fanNoPiles
  repeat' with_reducible first
    | assumption
    | exact fun h => h
    | (extract_lets +onlyGivenNames x; clear_value (e : x = _); subst e)
    | apply State.send_keeps
    | apply State.sendVoid_keeps
    | apply State.onRx_keeps
    | apply State.onFan_keeps
    | apply State.noPile_keeps
    | (refine Keeps.ofIte (fun _ => ?_) (fun _ => ?_))
    | (refine Keeps.foldl _ _ (fun u a hu => ?_) ?_)
    | split

theorem State.returnCell_keeps {s0 s : State} {p l k : Nat} {t : Ticket} {row : Bytes} {came : Option Nat} {v : Nat} {u : State} (e : (s.returnCell p l k t row came) = some (v, u))
    (h0 : s0.Keeps s) : s0.Keeps u := by
  refine (?_ : s0.KeepsAll (·.2) (s.returnCell p l k t row came)) _ e
  clear e
  unfold State.returnCell
  repeat' with_reducible first
    | assumption
    | exact fun h => h
    | exact Keeps.allNone
    | refine Keeps.allSome ?_
    | (refine Keeps.allIte (fun _ => ?_) (fun _ => ?_))
    | refine Keeps.allMapOf _ _ ?_ (fun _ _ => ?_)
    | refine Keeps.allMap _ _ (fun _ _ => ?_)
    | refine Keeps.allBind _ _ ?_ (fun _ _ => ?_)
    | refine Keeps.allFoldl _ _ (fun _ _ _ => ?_) _ ?_
    | (refine State.allocStage_keeps (by assumption) ?_)
    | exact Keeps.allOf (fun _ e => State.allocStage_keeps e (by assumption))
    | split

theorem State.storeReturns_keeps {s0 s : State} {p l m d k : Nat} {rows : List Bytes} {came : List Nat} {u : State} (e : (s.storeReturns p l m d k rows came) = some u)
    (h0 : s0.Keeps s) : s0.Keeps u := by
  refine (?_ : s0.KeepsAll (fun x => x) (s.storeReturns p l m d k rows came)) _ e
  clear e
  unfold State.storeReturns
  repeat' with_reducible first
    | assumption
    | exact fun h => h
    | exact Keeps.allNone
    | refine Keeps.allSome ?_
    | (refine Keeps.allIte (fun _ => ?_) (fun _ => ?_))
    | refine Keeps.allMapOf _ _ ?_ (fun _ _ => ?_)
    | refine Keeps.allMap _ _ (fun _ _ => ?_)
    | refine Keeps.allBind _ _ ?_ (fun _ _ => ?_)
    | refine Keeps.allFoldl _ _ (fun _ _ _ => ?_) _ ?_
    | (extract_lets +onlyGivenNames x; clear_value (e : x = _); subst e)
    | apply State.onPass_keeps
    | apply State.releaseId_keeps
    | apply State.setTickets_keeps
    | (refine State.returnCell_keeps (by assumption) ?_)
    | exact Keeps.allOf (fun _ e => State.returnCell_keeps e (by assumption))
    | (refine Keeps.ofIte (fun _ => ?_) (fun _ => ?_))
    | (refine Keeps.foldl _ _ (fun u a hu => ?_) ?_)
    | split

theorem State.countReturn_keeps {s0 s : State} (p l m d : Nat) (h0 : s0.Keeps s) :
    s0.Keeps (s.countReturn p l m d) := by
  unfold State.countReturn
  repeat' with_reducible first
    | assumption
    | exact fun h => h
    | apply State.onMicro_keeps

theorem State.wentBack_keeps {s0 s : State} (p l m src dest : Nat) (h0 : s0.Keeps s) :
    s0.Keeps (s.wentBack p l m src dest) := by
  unfold State.wentBack
  repeat' with_reducible first
    | assumption
    | exact fun h => h
    | apply State.onFan_keeps

theorem State.void_keeps {s0 s : State} {x : StepSt} {q : Pass} {msg : Msg} {reason : Nat} {u : State} (e : (s.void x q msg reason) = some u)
    (h0 : s0.Keeps s) : s0.Keeps u := by
  refine (?_ : s0.KeepsAll (fun x => x) (s.void x q msg reason)) _ e
  clear e
  unfold State.void
  repeat' with_reducible first
    | assumption
    | exact fun h => h
    | exact Keeps.allNone
    | refine Keeps.allSome ?_
    | (refine Keeps.allIte (fun _ => ?_) (fun _ => ?_))
    | refine Keeps.allMapOf _ _ ?_ (fun _ _ => ?_)
    | refine Keeps.allMap _ _ (fun _ _ => ?_)
    | refine Keeps.allBind _ _ ?_ (fun _ _ => ?_)
    | refine Keeps.allFoldl _ _ (fun _ _ _ => ?_) _ ?_
    | (extract_lets +onlyGivenNames x; clear_value (e : x = _); subst e)
    | apply State.onMicro_keeps
    | apply State.addTally_keeps
    | apply State.setOut_keeps
    | apply State.loseTickets_keeps
    | apply State.onFan_keeps
    | apply State.fanVoidTally_keeps
    | apply State.noPile_keeps
    | apply State.fanNoPiles_keeps
    | apply State.countReturn_keeps
    | (refine Keeps.ofIte (fun _ => ?_) (fun _ => ?_))
    | split

theorem State.takeRuns_keeps {s0 s : State} (p l m : Nat) (c : XCfg) (es : List (Nat × Nat × Nat))
    (h0 : s0.Keeps s) : s0.Keeps (s.takeRuns p l m c es) := by
  induction es generalizing s with
  | nil => exact h0
  | cons e es ih =>
    obtain ⟨x, r, n⟩ := e
    unfold State.takeRuns
    split
    · exact h0
    · exact ih (State.onMicro_keeps _ _ _ _ (State.runFromReserved_keeps (by assumption) h0))

theorem State.noteRuns_keeps {s0 s : State} (p l m n : Nat) (h0 : s0.Keeps s) :
    s0.Keeps (s.noteRuns p l m n) := by
  unfold State.noteRuns
  repeat' with_reducible first
    | assumption
    | exact fun h => h
    | apply State.onMicro_keeps

theorem State.allocRuns_keeps {s0 s : State} (o : Nat) (pass : Option (Nat × Nat)) (ns : List Nat) (h0 : s0.Keeps s) :
    s0.Keeps (s.allocRuns o pass ns).2 := by
  induction ns generalizing s with
  | nil => exact h0
  | cons n r ih =>
    unfold State.allocRuns
    split
    · exact State.denied_keeps _ h0
    · exact ih (State.allocMem_keeps (by assumption) h0)

theorem State.tableNote_keeps {s0 s : State} (p : Nat) (eng : Bytes) (addr tag entries rows : Nat) (h0 : s0.Keeps s) :
    s0.Keeps (s.tableNote p eng addr tag entries rows) := by
  unfold State.tableNote
  repeat' with_reducible first
    | assumption
    | exact fun h => h
    | (extract_lets +onlyGivenNames x; clear_value (e : x = _); subst e)
    | (refine Keeps.upd ?_ rfl rfl rfl rfl rfl ?_ ?_ ?_ ?_ ?_)

theorem State.writeTable_keeps {s0 s : State} (p l m : Nat) (x : StepSt) (shared : Bool) (tab : Nat) (ents : List (Nat × Nat × Nat × Nat × Nat × Nat)) (datas : List (List Bytes)) (ids : List (Nat × Nat × Nat × Nat)) (h0 : s0.Keeps s) :
    s0.Keeps (s.writeTable p l m x shared tab ents datas ids) := by
  unfold State.writeTable
  repeat' with_reducible first
    | assumption
    | exact fun h => h
    | (extract_lets +onlyGivenNames x; clear_value (e : x = _); subst e)
    | apply State.wr_keeps
    | apply State.tableNote_keeps
    | (refine Keeps.ofIte (fun _ => ?_) (fun _ => ?_))
    | (refine Keeps.foldl _ _ (fun u a hu => ?_) ?_)
    | split
    | (refine Keeps.upd ?_ rfl rfl rfl rfl rfl ?_ ?_ ?_ ?_ ?_)

theorem State.taint_keeps {s0 s : State} (id : Nat) (h0 : s0.Keeps s) :
    s0.Keeps (s.taint id) := by
  unfold State.taint
  repeat' with_reducible first
    | assumption
    | exact fun h => h
    | apply State.setChain_keeps
    | apply State.poison_keeps
    | split

theorem State.placed_keeps {s0 s : State} (p l m : Nat) (used : List Nat) (h0 : s0.Keeps s) :
    s0.Keeps (s.placed p l m used) := by
  unfold State.placed
  repeat' with_reducible first
    | assumption
    | exact fun h => h
    | (extract_lets +onlyGivenNames x; clear_value (e : x = _); subst e)
    | apply State.onMicro_keeps
    | apply State.freeChain_keeps
    | apply State.releaseId_keeps
    | apply State.unreserveFor_keeps
    | (refine Keeps.foldl _ _ (fun u a hu => ?_) ?_)
    | split

theorem State.freeInputs_keeps {s0 s : State} (t : WorkTab) (h0 : s0.Keeps s) :
    s0.Keeps (s.freeInputs t) := by
  unfold State.freeInputs
  repeat' with_reducible first
    | assumption
    | exact fun h => h
    | apply State.freeChain_keeps
    | (refine Keeps.foldl _ _ (fun u a hu => ?_) ?_)

theorem State.freeOutputs_keeps {s0 s : State} (t : WorkTab) (h0 : s0.Keeps s) :
    s0.Keeps (s.freeOutputs t) := by
  unfold State.freeOutputs
  repeat' with_reducible first
    | assumption
    | exact fun h => h
    | apply State.freeChain_keeps
    | (refine Keeps.foldl _ _ (fun u a hu => ?_) ?_)

theorem State.dropTab_keeps {s0 s : State} (tag : Nat) (h0 : s0.Keeps s) :
    s0.Keeps (s.dropTab tag) := by
  unfold State.dropTab
  repeat' with_reducible first
    | assumption
    | exact fun h => h
    | (refine Keeps.upd ?_ rfl rfl rfl rfl rfl ?_ ?_ ?_ ?_ ?_)

theorem State.destOut_keeps {s0 s : State} (p l m : Nat) (t : WorkTab) (h0 : s0.Keeps s) :
    s0.Keeps (s.destOut p l m t) := by
  unfold State.destOut
  repeat' with_reducible first
    | assumption
    | exact fun h => h
    | apply State.onMicro_keeps
    | apply State.freeOutputs_keeps
    | apply State.dropTab_keeps
    | (refine Keeps.ofIte (fun _ => ?_) (fun _ => ?_))
    | split

theorem State.pileBack_keeps {s0 s : State} (p l m src : Nat) (h0 : s0.Keeps s) :
    s0.Keeps (s.pileBack p l m src) := by
  unfold State.pileBack
  repeat' with_reducible first
    | assumption
    | exact fun h => h
    | apply State.onMicro_keeps

theorem State.freeReturned_keeps {s0 s : State} (p l m : Nat) (t : WorkTab) (h0 : s0.Keeps s) :
    s0.Keeps (s.freeReturned p l m t) := by
  unfold State.freeReturned
  repeat' with_reducible first
    | assumption
    | exact fun h => h
    | (extract_lets +onlyGivenNames x; clear_value (e : x = _); subst e)
    | apply State.freeChain_keeps
    | apply State.take_keeps
    | (refine Keeps.ofIte (fun _ => ?_) (fun _ => ?_))
    | (refine Keeps.foldl _ _ (fun u a hu => ?_) ?_)
    | split

theorem State.sendReturn_keeps {s0 s : State} (p l m src : Nat) (h0 : s0.Keeps s) :
    s0.Keeps (s.sendReturn p l m src) := by
  unfold State.sendReturn
  repeat' with_reducible first
    | assumption
    | exact fun h => h
    | (extract_lets +onlyGivenNames x; clear_value (e : x = _); subst e)
    | apply State.denied_keeps
    | apply State.send_keeps
    | (refine State.storeReturns_keeps (by assumption) ?_)
    | apply State.countReturn_keeps
    | apply State.destOut_keeps
    | apply State.pileBack_keeps
    | apply State.freeReturned_keeps
    | (refine Keeps.ofIte (fun _ => ?_) (fun _ => ?_))
    | split
    | (refine Keeps.upd ?_ rfl rfl rfl rfl rfl ?_ ?_ ?_ ?_ ?_)

theorem State.readOutputs_keeps {s0 s : State} (p l m : Nat) (t : WorkTab) (h0 : s0.Keeps s) :
    s0.Keeps (s.readOutputs p l m t) := by
  unfold State.readOutputs
  repeat' with_reducible first
    | assumption
    | exact fun h => h
    | (extract_lets +onlyGivenNames x; clear_value (e : x = _); subst e)
    | apply State.issueRead_keeps
    | apply State.destOut_keeps
    | apply State.pileBack_keeps
    | (refine Keeps.foldl _ _ (fun u a hu => ?_) ?_)
    | split

theorem State.failTable_keeps {s0 s : State} (p l m : Nat) (t : WorkTab) (h0 : s0.Keeps s) :
    s0.Keeps (s.failTable p l m t) := by
  unfold State.failTable
  repeat' with_reducible first
    | assumption
    | exact fun h => h
    | (extract_lets +onlyGivenNames x; clear_value (e : x = _); subst e)
    | apply State.onMicro_keeps
    | apply State.voidReturn_keeps
    | apply State.loseTickets_keeps
    | apply State.countReturn_keeps
    | apply State.freeInputs_keeps
    | apply State.freeOutputs_keeps
    | apply State.dropTab_keeps
    | (refine Keeps.ofIte (fun _ => ?_) (fun _ => ?_))
    | (refine Keeps.foldl _ _ (fun u a hu => ?_) ?_)
    | split

theorem State.loseToken_keeps {s0 s : State} (p l row : Nat) (h0 : s0.Keeps s) :
    s0.Keeps (s.loseToken p l row) := by
  unfold State.loseToken
  repeat' with_reducible first
    | assumption
    | exact fun h => h
    | (extract_lets +onlyGivenNames x; clear_value (e : x = _); subst e)
    | apply State.onMicro_keeps
    | apply State.onTok_keeps
    | apply State.markLost_keeps
    | (refine Keeps.ofIte (fun _ => ?_) (fun _ => ?_))
    | split

theorem State.sharedAnswer_keeps {s0 s : State} (p l : Nat) (t : WorkTab) (ok : Bool) (h0 : s0.Keeps s) :
    s0.Keeps (s.sharedAnswer p l t ok) := by
  unfold State.sharedAnswer
  repeat' with_reducible first
    | assumption
    | exact fun h => h
    | (extract_lets +onlyGivenNames x; clear_value (e : x = _); subst e)
    | apply State.bump_keeps
    | apply State.onPass_keeps
    | apply State.onMicro_keeps
    | apply State.issueRead_keeps
    | apply State.freeInputs_keeps
    | apply State.freeOutputs_keeps
    | apply State.dropTab_keeps
    | apply State.loseToken_keeps
    | (refine Keeps.ofIte (fun _ => ?_) (fun _ => ?_))
    | (refine Keeps.foldl _ _ (fun u a hu => ?_) ?_)
    | split

theorem State.applyCompletion_keeps {s0 s : State} (slot : Nat) (data : Bytes) (h0 : s0.Keeps s) :
    s0.Keeps (s.applyCompletion slot data) := by
  unfold State.applyCompletion
  repeat' with_reducible first
    | assumption
    | exact fun h => h
    | (extract_lets +onlyGivenNames x; clear_value (e : x = _); subst e)
    | apply State.bump_keeps
    | apply State.freeTorn_keeps
    | apply State.freeInputs_keeps
    | apply State.dropTab_keeps
    | apply State.readOutputs_keeps
    | apply State.failTable_keeps
    | apply State.sharedAnswer_keeps
    | (refine Keeps.ofIte (fun _ => ?_) (fun _ => ?_))
    | split
    | (refine Keeps.upd ?_ rfl rfl rfl rfl rfl ?_ ?_ ?_ ?_ ?_)

end Sys2Proof.Machine
end

