-- ==== Sys2Proof/Laws/SharedGroup.lean ====
section
/-! SUPPORT. What the shared operations of reductions, the manager, steps, replay, memory ports, boundaries and registers keep: one lemma per operation,
cited by the proofs about single commands instead of unfolding it. -/

namespace Sys2Proof.Machine

theorem State.retireFold_keeps {s0 s : State} (c : Nat) (h0 : s0.Keeps s) :
    s0.Keeps (s.retireFold c) := by
  unfold State.retireFold
  repeat' with_reducible first
    | assumption
    | exact fun h => h
    | (extract_lets +onlyGivenNames x; clear_value (e : x = _); subst e)
    | apply State.bump_keeps
    | apply State.raise_keeps
    | apply State.teardownAll_keeps
    | (refine Keeps.ofIte (fun _ => ?_) (fun _ => ?_))
    | split
    | (refine Keeps.upd ?_ rfl rfl rfl rfl rfl ?_ ?_ ?_ ?_ ?_)

theorem State.retireFoldsPending_keeps {s0 s : State}  (h0 : s0.Keeps s) :
    s0.Keeps (s.retireFoldsPending) := by
  unfold State.retireFoldsPending
  repeat' with_reducible first
    | assumption
    | exact fun h => h
    | apply State.retireFold_keeps
    | (refine Keeps.ofIte (fun _ => ?_) (fun _ => ?_))
    | (refine Keeps.foldl _ _ (fun u a hu => ?_) ?_)

theorem State.residue_keeps {s0 s : State} (unit : Nat) (node failed : Bool) (level index : Nat) (h0 : s0.Keeps s) :
    s0.Keeps (s.residue unit node failed level index) := by
  unfold State.residue
  repeat' with_reducible first
    | assumption
    | exact fun h => h
    | (extract_lets +onlyGivenNames x; clear_value (e : x = _); subst e)
    | apply State.latch_keeps
    | apply State.bump_keeps
    | apply State.raise_keeps
    | apply State.leakMark_keeps
    | apply State.retireFold_keeps
    | (refine Keeps.ofIte (fun _ => ?_) (fun _ => ?_))
    | split
    | (refine Keeps.upd ?_ rfl rfl rfl rfl rfl ?_ ?_ ?_ ?_ ?_)

theorem State.poisonCells_keeps {s0 s : State} (p l : Nat) (h0 : s0.Keeps s) :
    s0.Keeps (s.poisonCells p l) := by
  unfold State.poisonCells
  repeat' with_reducible first
    | assumption
    | exact fun h => h
    | (extract_lets +onlyGivenNames x; clear_value (e : x = _); subst e)
    | apply State.writeLinks_keeps
    | apply State.poison_keeps
    | (refine Keeps.ofIte (fun _ => ?_) (fun _ => ?_))
    | (refine Keeps.foldl _ _ (fun u a hu => ?_) ?_)
    | split
    | (refine Keeps.upd ?_ rfl rfl rfl rfl rfl ?_ ?_ ?_ ?_ ?_)

theorem State.poison_keeps {s0 s : State} (p l : Nat) (raised : Bool) (h0 : s0.Keeps s) :
    s0.Keeps (s.poison p l raised) := by
  unfold State.poison
  repeat' with_reducible first
    | assumption
    | exact fun h => h
    | (extract_lets +onlyGivenNames x; clear_value (e : x = _); subst e)
    | apply State.bump_keeps
    | apply State.raise_keeps
    | apply State.onStep_keeps
    | apply State.spread_keeps
    | apply State.endAgain_keeps
    | apply State.poisonCells_keeps
    | (refine Keeps.ofIte (fun _ => ?_) (fun _ => ?_))
    | split

theorem State.freeShared_keeps {s0 s : State} (p l : Nat) (h0 : s0.Keeps s) :
    s0.Keeps (s.freeShared p l) := by
  unfold State.freeShared
  repeat' with_reducible first
    | assumption
    | exact fun h => h
    | (extract_lets +onlyGivenNames x; clear_value (e : x = _); subst e)
    | apply State.freeChain_keeps
    | apply State.take_keeps
    | apply State.dropTab_keeps
    | (refine Keeps.ofIte (fun _ => ?_) (fun _ => ?_))
    | (refine Keeps.foldl _ _ (fun u a hu => ?_) ?_)
    | split

theorem State.rowOut_keeps {s0 s : State} (p : Nat) (x : StepSt) (q : Pass) (k row : Nat) (v : List F32)
    (h0 : s0.Keeps s) : s0.Keeps (s.rowOut p x q k row v) := by
  unfold State.rowOut
  dsimp only
  split
  · exact State.onPass_keeps _ _ _ (State.onStep_keeps _ _ (State.issueReads_keeps _ _ (State.tdAdd_keeps _ _ _ _ _ h0)))
  · exact State.tdPut_keeps _ _ _ _ _ _ h0

theorem State.writeAdds_keeps {s0 s : State} (p l : Nat) (h0 : s0.Keeps s) :
    s0.Keeps (s.writeAdds p l) := by
  unfold State.writeAdds
  repeat' with_reducible first
    | assumption
    | exact fun h => h
    | apply State.onPass_keeps
    | apply State.tdFlush_keeps
    | (refine Keeps.ofIte (fun _ => ?_) (fun _ => ?_))
    | split

theorem State.putNode_keeps {s0 s : State} (p l c h id : Nat) (k : Bytes) (r : Red) (vs : List F32) (h0 : s0.Keeps s) :
    s0.Keeps (s.putNode p l c h id k r vs) := by
  unfold State.putNode
  repeat' with_reducible first
    | assumption
    | exact fun h => h
    | apply State.onStep_keeps
    | apply State.wr_keeps
    | (refine Keeps.ofIte (fun _ => ?_) (fun _ => ?_))

theorem State.narrowed_keeps {s0 s : State} (p l id c : Nat) (yes : Bool) (vs : List F32) (h0 : s0.Keeps s) :
    s0.Keeps (s.narrowed p l id c yes vs).1 := by
  unfold State.narrowed
  repeat' with_reducible first
    | assumption
    | exact fun h => h
    | (extract_lets +onlyGivenNames x; clear_value (e : x = _); subst e)
    | apply State.bump_keeps
    | apply State.onStep_keeps
    | (refine Keeps.ofIte (fun _ => ?_) (fun _ => ?_))
    | split

theorem State.sendValue_keeps {s0 s : State} (p l id c : Nat) (k : Bytes) (vs : List F32) (h0 : s0.Keeps s) :
    s0.Keeps (s.sendValue p l id c k vs) := by
  unfold State.sendValue
  repeat' with_reducible first
    | assumption
    | exact fun h => h
    | (extract_lets +onlyGivenNames x; clear_value (e : x = _); subst e)
    | apply State.send_keeps
    | apply State.countSubst_keeps
    | apply State.narrowed_keeps
    | (refine Keeps.ofIte (fun _ => ?_) (fun _ => ?_))
    | split

theorem State.startChunk_keeps {s0 s : State} (p l c : Nat) (h0 : s0.Keeps s) :
    s0.Keeps (s.startChunk p l c) := by
  unfold State.startChunk
  repeat' with_reducible first
    | assumption
    | exact fun h => h
    | (extract_lets +onlyGivenNames x; clear_value (e : x = _); subst e)
    | apply State.sendValue_keeps
    | (refine Keeps.ofIte (fun _ => ?_) (fun _ => ?_))
    | (refine Keeps.foldl _ _ (fun u a hu => ?_) ?_)
    | split

theorem State.writeResult_keeps {s0 s : State} (p l c : Nat) (e : Bytes) (vs : List F32) (h0 : s0.Keeps s) :
    s0.Keeps (s.writeResult p l c e vs) := by
  unfold State.writeResult
  repeat' with_reducible first
    | assumption
    | exact fun h => h
    | (extract_lets +onlyGivenNames x; clear_value (e : x = _); subst e)
    | apply State.onStep_keeps
    | apply State.wr_keeps

theorem State.heldFor_keeps {s0 s : State} {b : Bytes} {n : Nat} {v : Nat} {u : State} (e : (s.heldFor b n) = some (v, u))
    (h0 : s0.Keeps s) : s0.Keeps u := by
  refine (?_ : s0.KeepsAll (·.2) (s.heldFor b n)) _ e
  clear e
  unfold State.heldFor
  repeat' with_reducible first
    | assumption
    | exact fun h => h
    | exact Keeps.allNone
    | refine Keeps.allSome ?_
    | (refine Keeps.allIte (fun _ => ?_) (fun _ => ?_))
    | refine Keeps.allMapOf _ _ ?_ (fun _ _ => ?_)
    | refine Keeps.allMap _ _ (fun _ _ => ?_)
    | refine Keeps.allBind _ _ ?_ (fun _ _ => ?_)
    | refine Keeps.allFoldl _ _ (fun _ _ _ => ?_) _ ?_
    | (refine State.allocStage_keeps (by assumption) ?_)
    | exact Keeps.allOf (fun _ e => State.allocStage_keeps e (by assumption))

theorem State.fanHeld_keeps {s0 s : State} {msg : Msg} {u : State} (e : (s.fanHeld msg) = some u)
    (h0 : s0.Keeps s) : s0.Keeps u := by
  refine (?_ : s0.KeepsAll (fun x => x) (s.fanHeld msg)) _ e
  clear e
  unfold State.fanHeld
  repeat' with_reducible first
    | assumption
    | exact fun h => h
    | exact Keeps.allNone
    | refine Keeps.allSome ?_
    | (refine Keeps.allIte (fun _ => ?_) (fun _ => ?_))
    | refine Keeps.allMapOf _ _ ?_ (fun _ _ => ?_)
    | refine Keeps.allMap _ _ (fun _ _ => ?_)
    | refine Keeps.allBind _ _ ?_ (fun _ _ => ?_)
    | refine Keeps.allFoldl _ _ (fun _ _ _ => ?_) _ ?_
    | apply State.sendWith_keeps
    | (refine State.heldFor_keeps (by assumption) ?_)
    | exact Keeps.allOf (fun _ e => State.heldFor_keeps e (by assumption))
    | (refine Keeps.ofIte (fun _ => ?_) (fun _ => ?_))
    | (refine Keeps.foldl _ _ (fun u a hu => ?_) ?_)

theorem State.openAborted_keeps {s0 s : State}  (h0 : s0.Keeps s) :
    s0.Keeps (s.openAborted) := by
  unfold State.openAborted
  repeat' with_reducible first
    | assumption
    | exact fun h => h
    | apply State.onStep_keeps
    | (refine Keeps.ofIte (fun _ => ?_) (fun _ => ?_))
    | (refine Keeps.foldl _ _ (fun u a hu => ?_) ?_)
    | split

theorem State.startChunks_keeps {s0 s : State} (p l : Nat) (h0 : s0.Keeps s) :
    s0.Keeps (s.startChunks p l) := by
  unfold State.startChunks
  repeat' with_reducible first
    | assumption
    | exact fun h => h
    | (extract_lets +onlyGivenNames x; clear_value (e : x = _); subst e)
    | apply State.startChunk_keeps
    | (refine Keeps.ofIte (fun _ => ?_) (fun _ => ?_))
    | (refine Keeps.foldl _ _ (fun u a hu => ?_) ?_)
    | split

theorem State.startNext_keeps {s0 s : State} (p l : Nat) (h0 : s0.Keeps s) :
    s0.Keeps (s.startNext p l) := by
  unfold State.startNext
  repeat' with_reducible first
    | assumption
    | exact fun h => h
    | apply State.startChunks_keeps
    | split

theorem State.fdControl_keeps {s0 s : State} (msg : Msg) (typ : Nat) (f : State → Nat → State)
    (hf : ∀ u l, s0.Keeps u → s0.Keeps (f u l)) (h0 : s0.Keeps s) : s0.Keeps (s.fdControl msg typ f) := by
  unfold State.fdControl
  repeat' with_reducible first
    | assumption
    | exact fun h => h
    | (extract_lets +onlyGivenNames x; clear_value (e : x = _); subst e)
    | apply State.denied_keeps
    | apply State.take_keeps
    | apply State.stale_keeps
    | apply State.corrupt_keeps
    | (refine State.fanHeld_keeps (by assumption) ?_)
    | apply hf
    | (refine Keeps.ofIte (fun _ => ?_) (fun _ => ?_))
    | split

theorem State.toMember_keeps {s0 s : State} (dst typ : Nat) (body : Bytes) (h0 : s0.Keeps s) :
    s0.Keeps (s.toMember dst typ body) := by
  unfold State.toMember
  repeat' with_reducible first
    | assumption
    | exact fun h => h
    | (extract_lets +onlyGivenNames x; clear_value (e : x = _); subst e)
    | apply State.sendMgr_keeps
    | (refine Keeps.ofIte (fun _ => ?_) (fun _ => ?_))
    | split
    | (refine Keeps.upd ?_ rfl rfl rfl rfl rfl ?_ ?_ ?_ ?_ ?_)

theorem State.toPod_keeps {s0 s : State} (typ : Nat) (body : Bytes) (h0 : s0.Keeps s) :
    s0.Keeps (s.toPod typ body) := by
  unfold State.toPod
  repeat' with_reducible first
    | assumption
    | exact fun h => h
    | apply State.sendAll_keeps
    | apply State.toMember_keeps

theorem State.mgrTake_keeps {s0 s : State} (msg : Msg) (typ orig : Nat) (ok : Bool) (f : State → State)
    (hf : ∀ u, s0.Keeps u → s0.Keeps (f u)) (h0 : s0.Keeps s) : s0.Keeps (s.mgrTake msg typ orig ok f) := by
  unfold State.mgrTake
  repeat' with_reducible first
    | assumption
    | exact fun h => h
    | apply State.take_keeps
    | apply State.stale_keeps
    | apply State.corrupt_keeps
    | apply hf
    | (refine Keeps.ofIte (fun _ => ?_) (fun _ => ?_))

theorem State.deliver_keeps {s0 s : State} (msg : Msg) (h0 : s0.Keeps s) :
    s0.Keeps (s.deliver msg) := by
  unfold State.deliver
  repeat' with_reducible first
    | assumption
    | exact fun h => h
    | apply State.sendAll_keeps
    | (refine Keeps.ofIte (fun _ => ?_) (fun _ => ?_))

theorem State.onLaunch_keeps {s0 s : State} (g stepNo : Nat) (f : LaunchSt → LaunchSt) (h0 : s0.Keeps s) :
    s0.Keeps (s.onLaunch g stepNo f) := by
  unfold State.onLaunch
  repeat' with_reducible first
    | assumption
    | exact fun h => h
    | (extract_lets +onlyGivenNames x; clear_value (e : x = _); subst e)
    | (refine Keeps.ofIte (fun _ => ?_) (fun _ => ?_))
    | split
    | (refine Keeps.upd ?_ rfl rfl rfl rfl rfl ?_ ?_ ?_ ?_ ?_)

theorem State.decideLaunch_keeps {s0 s : State} (g stepNo : Nat) (sets : List (List Nat)) (h0 : s0.Keeps s) :
    s0.Keeps (s.decideLaunch g stepNo sets) := by
  unfold State.decideLaunch
  repeat' with_reducible first
    | assumption
    | exact fun h => h
    | (extract_lets +onlyGivenNames x; clear_value (e : x = _); subst e)
    | apply State.raise_keeps
    | apply State.sendMgr_keeps
    | apply State.take_keeps
    | apply State.toPod_keeps
    | apply State.onLaunch_keeps
    | (refine Keeps.ofIte (fun _ => ?_) (fun _ => ?_))
    | (refine Keeps.foldl _ _ (fun u a hu => ?_) ?_)
    | split

theorem State.tryLaunch_keeps {s0 s : State} (g : Nat) (h0 : s0.Keeps s) :
    s0.Keeps (s.tryLaunch g) := by
  unfold State.tryLaunch
  repeat' with_reducible first
    | assumption
    | exact fun h => h
    | (extract_lets +onlyGivenNames x; clear_value (e : x = _); subst e)
    | apply State.sendMgr_keeps
    | apply State.decideLaunch_keeps
    | (refine Keeps.ofIte (fun _ => ?_) (fun _ => ?_))
    | split

theorem State.setPodF_keeps {s0 s : State} (f : Nat) (h0 : s0.Keeps s) :
    s0.Keeps (s.setPodF f) := by
  unfold State.setPodF
  repeat' with_reducible first
    | assumption
    | exact fun h => h
    | (extract_lets +onlyGivenNames x; clear_value (e : x = _); subst e)
    | apply State.toPod_keeps
    | (refine Keeps.ofIte (fun _ => ?_) (fun _ => ?_))
    | split
    | (refine Keeps.upd ?_ rfl rfl rfl rfl rfl ?_ ?_ ?_ ?_ ?_)

theorem State.goodStep_keeps {s0 s : State}  (h0 : s0.Keeps s) :
    s0.Keeps (s.goodStep) := by
  unfold State.goodStep
  repeat' with_reducible first
    | assumption
    | exact fun h => h
    | (extract_lets +onlyGivenNames x; clear_value (e : x = _); subst e)
    | apply State.setPodF_keeps
    | (refine Keeps.ofIte (fun _ => ?_) (fun _ => ?_))
    | split
    | (refine Keeps.upd ?_ rfl rfl rfl rfl rfl ?_ ?_ ?_ ?_ ?_)

theorem State.declareStraggler_keeps {s0 s : State} (g stepNo x : Nat) (h0 : s0.Keeps s) :
    s0.Keeps (s.declareStraggler g stepNo x) := by
  unfold State.declareStraggler
  repeat' with_reducible first
    | assumption
    | exact fun h => h
    | (extract_lets +onlyGivenNames x; clear_value (e : x = _); subst e)
    | apply State.spreadMgr_keeps
    | apply State.toMember_keeps
    | apply State.setPodF_keeps
    | (refine Keeps.ofIte (fun _ => ?_) (fun _ => ?_))
    | split
    | (refine Keeps.upd ?_ rfl rfl rfl rfl rfl ?_ ?_ ?_ ?_ ?_)

theorem State.addWait_keeps {s0 s : State} (a : WaitAcct) (h0 : s0.Keeps s) :
    s0.Keeps (s.addWait a).2 := by
  unfold State.addWait
  repeat' with_reducible first
    | assumption
    | exact fun h => h
    | (extract_lets +onlyGivenNames x; clear_value (e : x = _); subst e)
    | dsimp only
    | (refine Keeps.upd ?_ rfl rfl rfl rfl rfl ?_ ?_ ?_ ?_ ?_)

theorem State.dropSource_keeps {s0 s : State} (p l m : Nat) (src : Nat) (h0 : s0.Keeps s) :
    s0.Keeps (s.dropSource p l m src) := by
  unfold State.dropSource
  repeat' with_reducible first
    | assumption
    | exact fun h => h
    | (extract_lets +onlyGivenNames x; clear_value (e : x = _); subst e)
    | apply State.onFan_keeps
    | apply State.noPile_keeps
    | (refine Keeps.ofIte (fun _ => ?_) (fun _ => ?_))
    | split

theorem State.dropDest_keeps {s0 s : State} (p l m d : Nat) (h0 : s0.Keeps s) :
    s0.Keeps (s.dropDest p l m d) := by
  unfold State.dropDest
  repeat' with_reducible first
    | assumption
    | exact fun h => h
    | (extract_lets +onlyGivenNames x; clear_value (e : x = _); subst e)
    | apply State.onMicro_keeps
    | apply State.setOut_keeps
    | apply State.loseTickets_keeps
    | (refine Keeps.ofIte (fun _ => ?_) (fun _ => ?_))
    | split

theorem State.dropGate_keeps {s0 s : State} (p : Nat) (x : StepSt) (q : Pass) (m gw : Nat) (h0 : s0.Keeps s) :
    s0.Keeps (s.dropGate p x q m gw) := by
  unfold State.dropGate
  repeat' with_reducible first
    | assumption
    | exact fun h => h
    | (extract_lets +onlyGivenNames x; clear_value (e : x = _); subst e)
    | apply State.addTally_keeps
    | apply State.setOut_keeps
    | apply State.loseTickets_keeps
    | apply State.noPile_keeps
    | (refine Keeps.ofIte (fun _ => ?_) (fun _ => ?_))
    | (refine Keeps.foldl _ _ (fun u a hu => ?_) ?_)

theorem State.leaveStep_keeps {s0 s : State} (p m fromL : Nat) (dest gate : Bool) (h0 : s0.Keeps s) :
    s0.Keeps (s.leaveStep p m fromL dest gate) := by
  unfold State.leaveStep
  repeat' with_reducible first
    | assumption
    | exact fun h => h
    | (extract_lets +onlyGivenNames x; clear_value (e : x = _); subst e)
    | apply State.onStep_keeps
    | apply State.dropSource_keeps
    | apply State.dropDest_keeps
    | apply State.dropGate_keeps
    | (refine Keeps.ofIte (fun _ => ?_) (fun _ => ?_))
    | (refine Keeps.foldl _ _ (fun u a hu => ?_) ?_)
    | split

theorem State.deadShard_keeps {s0 s : State} (p m : Nat) (h0 : s0.Keeps s) :
    s0.Keeps (s.deadShard p m) := by
  unfold State.deadShard
  repeat' with_reducible first
    | assumption
    | exact fun h => h
    | apply State.abortRed_keeps
    | apply State.raiseAbort_keeps
    | (refine Keeps.ofIte (fun _ => ?_) (fun _ => ?_))
    | (refine Keeps.foldl _ _ (fun u a hu => ?_) ?_)
    | split

theorem State.markDead_keeps {s0 s : State} (m : Nat) (h0 : s0.Keeps s) :
    s0.Keeps (s.markDead m) := by
  unfold State.markDead
  repeat' with_reducible first
    | assumption
    | exact fun h => h
    | (extract_lets +onlyGivenNames x; clear_value (e : x = _); subst e)
    | apply State.raise_keeps
    | apply State.dropHolds_keeps
    | apply State.chooseRelay_keeps
    | apply State.teardownAll_keeps
    | apply State.leaveStep_keeps
    | apply State.deadShard_keeps
    | (refine Keeps.ofIte (fun _ => ?_) (fun _ => ?_))
    | (refine Keeps.foldl _ _ (fun u a hu => ?_) ?_)
    | split
    | (refine Keeps.upd ?_ rfl rfl rfl rfl rfl ?_ ?_ ?_ ?_ ?_)

theorem State.passWithdraw_keeps {s0 s : State} (msg : Msg) (h0 : s0.Keeps s) :
    s0.Keeps (s.passWithdraw msg) := by
  unfold State.passWithdraw
  repeat' with_reducible first
    | assumption
    | exact fun h => h
    | apply State.sendAll_keeps
    | (refine Keeps.ofIte (fun _ => ?_) (fun _ => ?_))

theorem State.decideBias_keeps {s0 s : State} (g last : Nat) (counts : List Nat) (h0 : s0.Keeps s) :
    s0.Keeps (s.decideBias g last counts) := by
  unfold State.decideBias
  repeat' with_reducible first
    | assumption
    | exact fun h => h
    | (extract_lets +onlyGivenNames x; clear_value (e : x = _); subst e)
    | apply State.sendMgr_keeps
    | apply State.take_keeps
    | apply State.toPod_keeps
    | (refine Keeps.foldl _ _ (fun u a hu => ?_) ?_)
    | (refine Keeps.upd ?_ rfl rfl rfl rfl rfl ?_ ?_ ?_ ?_ ?_)

theorem State.nextBias_keeps {s0 s : State} (p : Nat) (h0 : s0.Keeps s) :
    s0.Keeps (s.nextBias p) := by
  unfold State.nextBias
  repeat' with_reducible first
    | assumption
    | exact fun h => h
    | (extract_lets +onlyGivenNames x; clear_value (e : x = _); subst e)
    | apply State.decideBias_keeps
    | (refine Keeps.ofIte (fun _ => ?_) (fun _ => ?_))
    | split
    | (refine Keeps.upd ?_ rfl rfl rfl rfl rfl ?_ ?_ ?_ ?_ ?_)

theorem State.clearExcluded_keeps {s0 s : State}  (h0 : s0.Keeps s) :
    s0.Keeps (s.clearExcluded) := by
  unfold State.clearExcluded
  repeat' with_reducible first
    | assumption
    | exact fun h => h
    | apply State.onPort_keeps
    | (refine Keeps.foldl _ _ (fun u a hu => ?_) ?_)

theorem State.bindTables_keeps {s0 s : State} (p : Nat) (es : List Nat) (h0 : s0.Keeps s) :
    s0.Keeps (s.bindTables p es) := by
  unfold State.bindTables
  repeat' with_reducible first
    | assumption
    | exact fun h => h
    | (extract_lets +onlyGivenNames x; clear_value (e : x = _); subst e)
    | apply State.raise_keeps
    | apply State.onTab_keeps
    | (refine Keeps.ofIte (fun _ => ?_) (fun _ => ?_))
    | (refine Keeps.foldl _ _ (fun u a hu => ?_) ?_)

theorem State.launchNow_keeps {s0 s : State} (p : Nat) (x : StepSt) (eng comb jrn led : Bytes) (h0 : s0.Keeps s) :
    s0.Keeps (s.launchNow p x eng comb jrn led) := by
  unfold State.launchNow
  repeat' with_reducible first
    | assumption
    | exact fun h => h
    | (extract_lets +onlyGivenNames x; clear_value (e : x = _); subst e)
    | apply State.onPart_keeps
    | apply State.countSubst_keeps
    | apply State.spread_keeps
    | apply State.waitFor_keeps
    | apply State.ledgerOpen_keeps
    | apply State.jrnPush_keeps

theorem State.dropRetired_keeps {s0 s : State} (p : Nat) (h0 : s0.Keeps s) :
    s0.Keeps (s.dropRetired p) := by
  unfold State.dropRetired
  repeat' with_reducible first
    | assumption
    | exact fun h => h
    | (extract_lets +onlyGivenNames x; clear_value (e : x = _); subst e)
    | apply State.domainsOff_keeps

theorem State.monitor_keeps {s0 s : State} (p : Nat) (x : StepSt) (l : Nat) (h0 : s0.Keeps s) :
    s0.Keeps (s.monitor p x l) := by
  unfold State.monitor
  repeat' with_reducible first
    | assumption
    | exact fun h => h
    | (extract_lets +onlyGivenNames x; clear_value (e : x = _); subst e)
    | apply State.setContext_keeps
    | (refine Keeps.foldl _ _ (fun u a hu => ?_) ?_)

theorem State.issuePassReads_keeps {s0 s : State} (p : Nat) (x : StepSt) (l : Nat) (tokens : Bool) (h0 : s0.Keeps s) :
    s0.Keeps (s.issuePassReads p x l tokens) := by
  unfold State.issuePassReads
  repeat' with_reducible first
    | assumption
    | exact fun h => h
    | (extract_lets +onlyGivenNames x; clear_value (e : x = _); subst e)
    | apply State.issueReads_keeps
    | (refine Keeps.ofIte (fun _ => ?_) (fun _ => ?_))

theorem State.readTokens_keeps {s0 s : State} (p l : Nat) (h0 : s0.Keeps s) :
    s0.Keeps (s.readTokens p l) := by
  unfold State.readTokens
  repeat' with_reducible first
    | assumption
    | exact fun h => h
    | (extract_lets +onlyGivenNames x; clear_value (e : x = _); subst e)
    | apply State.onPass_keeps
    | apply State.useTd_keeps
    | apply State.fetchRows_keeps
    | split

theorem State.startPass_keeps {s0 s : State} (p : Nat) (x : StepSt) (l : Nat) (h0 : s0.Keeps s) :
    s0.Keeps (s.startPass p x l) := by
  unfold State.startPass
  repeat' with_reducible first
    | assumption
    | exact fun h => h
    | (extract_lets +onlyGivenNames x; clear_value (e : x = _); subst e)
    | apply State.onPart_keeps
    | apply State.onGroup_keeps
    | apply State.onStep_keeps
    | apply State.waitFor_keeps
    | apply State.monitor_keeps
    | apply State.issuePassReads_keeps
    | (refine Keeps.ofIte (fun _ => ?_) (fun _ => ?_))

theorem State.journalPass_keeps {s0 s : State} (p : Nat) (x : StepSt) (q : Pass) (h0 : s0.Keeps s) :
    s0.Keeps (s.journalPass p x q) := by
  unfold State.journalPass
  repeat' with_reducible first
    | assumption
    | exact fun h => h
    | (extract_lets +onlyGivenNames x; clear_value (e : x = _); subst e)
    | apply State.jrnPush_keeps
    | (refine Keeps.ofIte (fun _ => ?_) (fun _ => ?_))
    | (refine Keeps.foldl _ _ (fun u a hu => ?_) ?_)

theorem State.closePass_keeps {s0 s : State} (p : Nat) (q : Pass) (w : Nat) (h0 : s0.Keeps s) :
    s0.Keeps (s.closePass p q w) := by
  unfold State.closePass
  repeat' with_reducible first
    | assumption
    | exact fun h => h
    | (extract_lets +onlyGivenNames x; clear_value (e : x = _); subst e)
    | apply State.onStep_keeps
    | apply State.ledgerLayer_keeps
    | apply State.journalPass_keeps
    | (refine Keeps.foldl _ _ (fun u a hu => ?_) ?_)
    | split

theorem State.countBias_keeps {s0 s : State} (p : Nat) (x : StepSt) (status : Nat) (h0 : s0.Keeps s) :
    s0.Keeps (s.countBias p x status) := by
  unfold State.countBias
  repeat' with_reducible first
    | assumption
    | exact fun h => h
    | (extract_lets +onlyGivenNames x; clear_value (e : x = _); subst e)
    | (refine Keeps.ofIte (fun _ => ?_) (fun _ => ?_))
    | split
    | (refine Keeps.upd ?_ rfl rfl rfl rfl rfl ?_ ?_ ?_ ?_ ?_)

theorem State.endWindow_keeps {s0 s : State} (p : Nat) (x : StepSt) (status : Nat) (h0 : s0.Keeps s) :
    s0.Keeps (s.endWindow p x status) := by
  unfold State.endWindow
  repeat' with_reducible first
    | assumption
    | exact fun h => h
    | (extract_lets +onlyGivenNames x; clear_value (e : x = _); subst e)
    | apply State.toMember_keeps
    | apply State.countBias_keeps
    | (refine Keeps.ofIte (fun _ => ?_) (fun _ => ?_))
    | split
    | (refine Keeps.upd ?_ rfl rfl rfl rfl rfl ?_ ?_ ?_ ?_ ?_)

theorem State.ledgerClose_keeps {s0 s : State} (p : Nat) (x : StepSt) (status fault : Nat) (st : List Nat) (h0 : s0.Keeps s) :
    s0.Keeps (s.ledgerClose p x status fault st) := by
  unfold State.ledgerClose
  repeat' with_reducible first
    | assumption
    | exact fun h => h
    | (extract_lets +onlyGivenNames x; clear_value (e : x = _); subst e)
    | apply State.onStep_keeps
    | apply State.ledgerWrite_keeps
    | (refine Keeps.foldl _ _ (fun u a hu => ?_) ?_)

theorem State.commitSegs_keeps {s0 s : State} (p : Nat) (x : StepSt) (h0 : s0.Keeps s) :
    s0.Keeps (s.commitSegs p x) := by
  unfold State.commitSegs
  repeat' with_reducible first
    | assumption
    | exact fun h => h
    | (extract_lets +onlyGivenNames x; clear_value (e : x = _); subst e)
    | apply State.setContext_keeps
    | (refine Keeps.ofIte (fun _ => ?_) (fun _ => ?_))
    | (refine Keeps.foldl _ _ (fun u a hu => ?_) ?_)

theorem State.divertNotes_keeps {s0 s : State} (p : Nat) (x : StepSt) (h0 : s0.Keeps s) :
    s0.Keeps (s.divertNotes p x) := by
  unfold State.divertNotes
  repeat' with_reducible first
    | assumption
    | exact fun h => h
    | apply State.groupNote_keeps
    | (refine Keeps.foldl _ _ (fun u a hu => ?_) ?_)

theorem State.recordStep_keeps {s0 s : State} (p : Nat) (x : StepSt) (status fault : Nat) (h0 : s0.Keeps s) :
    s0.Keeps (s.recordStep p x status fault) := by
  unfold State.recordStep
  repeat' with_reducible first
    | assumption
    | exact fun h => h
    | (extract_lets +onlyGivenNames x; clear_value (e : x = _); subst e)
    | apply State.complete_keeps
    | apply State.endWindow_keeps
    | apply State.divertNotes_keeps
    | (refine Keeps.ofIte (fun _ => ?_) (fun _ => ?_))
    | split
    | (refine Keeps.upd ?_ rfl rfl rfl rfl rfl ?_ ?_ ?_ ?_ ?_)

theorem State.pushEnd_keeps {s0 s : State} (p : Nat) (x : StepSt) (status : Nat) (h0 : s0.Keeps s) :
    s0.Keeps (s.pushEnd p x status) := by
  unfold State.pushEnd
  repeat' with_reducible first
    | assumption
    | exact fun h => h
    | apply State.onStep_keeps
    | apply State.jrnPush_keeps

theorem State.dropUnsent_keeps {s0 s : State} (p : Nat) (h0 : s0.Keeps s) :
    s0.Keeps (s.dropUnsent p) := by
  unfold State.dropUnsent
  repeat' with_reducible first
    | assumption
    | exact fun h => h
    | (extract_lets +onlyGivenNames x; clear_value (e : x = _); subst e)
    | (refine Keeps.upd ?_ rfl rfl rfl rfl rfl ?_ ?_ ?_ ?_ ?_)

theorem State.closeTorn_keeps {s0 s : State} (p : Nat) (x : StepSt) (h0 : s0.Keeps s) :
    s0.Keeps (s.closeTorn p x) := by
  unfold State.closeTorn
  repeat' with_reducible first
    | assumption
    | exact fun h => h
    | (extract_lets +onlyGivenNames x; clear_value (e : x = _); subst e)
    | apply State.onStep_keeps
    | apply State.closePass_keeps
    | (refine Keeps.ofIte (fun _ => ?_) (fun _ => ?_))
    | (refine Keeps.foldl _ _ (fun u a hu => ?_) ?_)

theorem State.endTeardown_keeps {s0 s : State} (p : Nat) (h0 : s0.Keeps s) :
    s0.Keeps (s.endTeardown p) := by
  unfold State.endTeardown
  repeat' with_reducible first
    | assumption
    | exact fun h => h
    | (extract_lets +onlyGivenNames x; clear_value (e : x = _); subst e)
    | apply State.onPart_keeps
    | apply State.freeOwner_keeps
    | apply State.partOff_keeps
    | (refine Keeps.ofIte (fun _ => ?_) (fun _ => ?_))

theorem State.repChoose_keeps {s0 s : State} (p : Nat) (r : Rep) (ks : List Tok) (h0 : s0.Keeps s) :
    s0.Keeps (s.repChoose p r ks).2 := by
  unfold State.repChoose
  repeat' with_reducible first
    | assumption
    | exact fun h => h
    | (extract_lets +onlyGivenNames x; clear_value (e : x = _); subst e)
    | apply State.charge_keeps

theorem State.repAdd_keeps {s0 s : State} (g p : Nat) (t : Td) (idx : List Int) (es : List (List Nat × F32))
    (h0 : s0.Keeps s) : s0.Keeps (s.repAdd g p t idx es) := by
  unfold State.repAdd
  dsimp only
  exact State.tdFlush_keeps _ _ _ _ (State.tdAdd_keeps _ _ _ _ _ h0)

theorem State.repOut_keeps {s0 s : State} (g p addr : Nat) (rows : List (Nat × List F32)) (h0 : s0.Keeps s) :
    s0.Keeps (s.repOut g p addr rows) := by
  unfold State.repOut
  repeat' with_reducible first
    | assumption
    | exact fun h => h
    | (extract_lets +onlyGivenNames x; clear_value (e : x = _); subst e)
    | apply State.useTd_keeps
    | apply State.tdPut_keeps
    | apply State.take_keeps
    | apply State.repAdd_keeps
    | (refine Keeps.ofIte (fun _ => ?_) (fun _ => ?_))

theorem State.repPut_keeps {s0 s : State} (g p addr : Nat) (es : List (List Nat × Nat × Nat)) (h0 : s0.Keeps s) :
    s0.Keeps (s.repPut g p addr es) := by
  unfold State.repPut
  repeat' with_reducible first
    | assumption
    | exact fun h => h
    | (extract_lets +onlyGivenNames x; clear_value (e : x = _); subst e)
    | apply State.bump_keeps
    | apply State.wr_keeps
    | apply State.useTd_keeps
    | apply State.tdPut_keeps
    | apply State.repAdd_keeps
    | (refine Keeps.ofIte (fun _ => ?_) (fun _ => ?_))
    | (refine Keeps.foldl _ _ (fun u a hu => ?_) ?_)

theorem State.replayNormNow_keeps {s0 s : State} (g : Nat) (d : Bytes) (_r : Rep) (ks : List Tok) (h0 : s0.Keeps s) :
    s0.Keeps (s.replayNormNow g d _r ks).1 := by
  unfold State.replayNormNow
  repeat' with_reducible first
    | assumption
    | exact fun h => h
    | (extract_lets +onlyGivenNames x; clear_value (e : x = _); subst e)
    | apply State.repOut_keeps

theorem State.replayScoresNow_keeps {s0 s : State} (g : Nat) (d : Bytes) (r : Rep) (ks : List Tok) (h0 : s0.Keeps s) :
    s0.Keeps (s.replayScoresNow g d r ks).1 := by
  unfold State.replayScoresNow
  repeat' with_reducible first
    | assumption
    | exact fun h => h
    | (extract_lets +onlyGivenNames x; clear_value (e : x = _); subst e)
    | apply State.repOut_keeps

theorem State.replayTicketsNow_keeps {s0 s : State} (g : Nat) (d : Bytes) (r : Rep) (ks : List Tok) (h0 : s0.Keeps s) :
    s0.Keeps (s.replayTicketsNow g d r ks).1 := by
  unfold State.replayTicketsNow
  repeat' with_reducible first
    | assumption
    | exact fun h => h
    | (extract_lets +onlyGivenNames x; clear_value (e : x = _); subst e)
    | apply State.take_keeps
    | apply State.repChoose_keeps
    | apply State.repPut_keeps

theorem State.replayPayloadNow_keeps {s0 s : State} (g : Nat) (d : Bytes) (r : Rep) (ks : List Tok) (h0 : s0.Keeps s) :
    s0.Keeps (s.replayPayloadNow g d r ks).1 := by
  unfold State.replayPayloadNow
  repeat' with_reducible first
    | assumption
    | exact fun h => h
    | (extract_lets +onlyGivenNames x; clear_value (e : x = _); subst e)
    | apply State.repPut_keeps

theorem State.replayCombineNow_keeps {s0 s : State} (g : Nat) (d : Bytes) (r : Rep) (ks : List Tok) (h0 : s0.Keeps s) :
    s0.Keeps (s.replayCombineNow g d r ks).1 := by
  unfold State.replayCombineNow
  repeat' with_reducible first
    | assumption
    | exact fun h => h
    | (extract_lets +onlyGivenNames x; clear_value (e : x = _); subst e)
    | apply State.bump_keeps
    | apply State.charge_keeps
    | apply State.draw_keeps
    | apply State.repChoose_keeps
    | apply State.repOut_keeps
    | (refine Keeps.ofIte (fun _ => ?_) (fun _ => ?_))
    | split

theorem State.replayReduceNow_keeps {s0 s : State} (g : Nat) (d : Bytes) (r : Rep) (_ks : List Tok) (h0 : s0.Keeps s) :
    s0.Keeps (s.replayReduceNow g d r _ks).1 := by
  unfold State.replayReduceNow
  repeat' with_reducible first
    | assumption
    | exact fun h => h
    | (extract_lets +onlyGivenNames x; clear_value (e : x = _); subst e)
    | apply State.bump_keeps
    | apply State.charge_keeps
    | apply State.repOut_keeps

theorem State.bindCmd_keeps {s0 s : State} (g : Nat) (es : List Nat) (h0 : s0.Keeps s) :
    s0.Keeps (s.bindCmd g es) := by
  unfold State.bindCmd
  repeat' with_reducible first
    | assumption
    | exact fun h => h
    | apply State.onGroup_keeps

theorem State.replayDone_keeps {s0 s : State} (g l bad : Nat) (diff : Bool) (h0 : s0.Keeps s) :
    s0.Keeps (s.replayDone g l bad diff) := by
  unfold State.replayDone
  repeat' with_reducible first
    | assumption
    | exact fun h => h
    | (extract_lets +onlyGivenNames x; clear_value (e : x = _); subst e)
    | apply State.latch_keeps
    | apply State.bump_keeps
    | apply State.raise_keeps
    | apply State.onGroup_keeps
    | apply State.cmdWritten_keeps
    | (refine Keeps.ofIte (fun _ => ?_) (fun _ => ?_))

theorem State.fetchInputs_keeps {s0 s : State} (g addr k : Nat) (rows ls : List Nat) (h0 : s0.Keeps s) :
    s0.Keeps (s.fetchInputs g addr k rows ls) := by
  unfold State.fetchInputs
  repeat' with_reducible first
    | assumption
    | exact fun h => h
    | (extract_lets +onlyGivenNames x; clear_value (e : x = _); subst e)
    | apply State.fetchAt_keeps

theorem State.startRep_keeps {s0 s : State} (g : Nat) (d : Bytes) (r : Rep) (h0 : s0.Keeps s) :
    s0.Keeps (s.startRep g d r) := by
  unfold State.startRep
  repeat' with_reducible first
    | assumption
    | exact fun h => h
    | (extract_lets +onlyGivenNames x; clear_value (e : x = _); subst e)
    | apply State.onGroup_keeps
    | apply State.issueReads_keeps
    | apply State.useTd_keeps
    | apply State.begin_keeps
    | apply State.bindCmd_keeps
    | apply State.fetchInputs_keeps
    | (refine Keeps.ofIte (fun _ => ?_) (fun _ => ?_))
    | (refine Keeps.foldl _ _ (fun u a hu => ?_) ?_)

theorem State.runReplay_keeps {s0 s : State} (g target : Nat)
    (f : State → Nat → Bytes → Rep → List Tok → State × Nat × Bool)
    (hf : ∀ u d r ks, s0.Keeps u → s0.Keeps (f u g d r ks).1) (h0 : s0.Keeps s) : s0.Keeps (s.runReplay g target f) := by
  unfold State.runReplay
  repeat' with_reducible first
    | assumption
    | exact fun h => h
    | (extract_lets +onlyGivenNames x; clear_value (e : x = _); subst e)
    | apply State.begin_keeps
    | apply State.runDesc_keeps
    | apply State.answer_keeps
    | apply State.replayDone_keeps
    | apply State.startRep_keeps
    | apply hf
    | (refine Keeps.ofIte (fun _ => ?_) (fun _ => ?_))
    | split
    | intro _

theorem State.tookGranules_keeps {s0 s : State} (i k : Nat) (r : ReadReq) (h0 : s0.Keeps s) :
    s0.Keeps (s.tookGranules i k r) := by
  unfold State.tookGranules
  repeat' with_reducible first
    | assumption
    | exact fun h => h
    | (extract_lets +onlyGivenNames x; clear_value (e : x = _); subst e)
    | (refine Keeps.ofIte (fun _ => ?_) (fun _ => ?_))
    | split
    | (refine Keeps.upd ?_ rfl rfl rfl rfl rfl ?_ ?_ ?_ ?_ ?_)

theorem State.readDone_keeps {s0 s : State} (o : MemObj) (h0 : s0.Keeps s) :
    s0.Keeps (s.readDone o) := by
  unfold State.readDone
  repeat' with_reducible first
    | assumption
    | exact fun h => h
    | apply State.takeRecords_keeps
    | apply State.restored_keeps
    | apply State.sendReturn_keeps
    | apply State.writeAdds_keeps
    | apply State.startChunks_keeps
    | apply State.readTokens_keeps
    | (refine Keeps.ofIte (fun _ => ?_) (fun _ => ?_))
    | split

theorem State.dataWritten_keeps {s0 s : State} (p : Nat) (h0 : s0.Keeps s) :
    s0.Keeps (s.dataWritten p) := by
  unfold State.dataWritten
  repeat' with_reducible first
    | assumption
    | exact fun h => h
    | apply State.cmdWritten_keeps
    | (refine Keeps.ofIte (fun _ => ?_) (fun _ => ?_))
    | (refine Keeps.foldl _ _ (fun u a hu => ?_) ?_)

theorem State.writeDone_keeps {s0 s : State} (o : MemObj) (h0 : s0.Keeps s) :
    s0.Keeps (s.writeDone o) := by
  unfold State.writeDone
  repeat' with_reducible first
    | assumption
    | exact fun h => h
    | (extract_lets +onlyGivenNames x; clear_value (e : x = _); subst e)
    | apply State.jrnDone_keeps
    | apply State.recVisible_keeps
    | apply State.cmdWritten_keeps
    | apply State.dataWritten_keeps
    | (refine Keeps.ofIte (fun _ => ?_) (fun _ => ?_))
    | split
    | (refine Keeps.upd ?_ rfl rfl rfl rfl rfl ?_ ?_ ?_ ?_ ?_)

theorem State.lateBeat_keeps {s0 s : State} (port : Nat) (late : Bool) (h0 : s0.Keeps s) :
    s0.Keeps (s.lateBeat port late) := by
  unfold State.lateBeat
  repeat' with_reducible first
    | assumption
    | exact fun h => h
    | apply State.bump_keeps
    | (refine Keeps.ofIte (fun _ => ?_) (fun _ => ?_))

theorem State.endSaves_keeps {s0 s : State}  (h0 : s0.Keeps s) :
    s0.Keeps (s.endSaves) := by
  unfold State.endSaves
  repeat' with_reducible first
    | assumption
    | exact fun h => h
    | apply State.completeCmd_keeps
    | (refine Keeps.ofIte (fun _ => ?_) (fun _ => ?_))
    | (refine Keeps.foldl _ _ (fun u a hu => ?_) ?_)
    | split

theorem State.retireMemPort_keeps {s0 s : State} (n : Nat) (h0 : s0.Keeps s) :
    s0.Keeps (s.retireMemPort n) := by
  unfold State.retireMemPort
  repeat' with_reducible first
    | assumption
    | exact fun h => h
    | (extract_lets +onlyGivenNames x; clear_value (e : x = _); subst e)
    | apply State.raise_keeps
    | apply State.teardownAll_keeps
    | apply State.endSaves_keeps
    | (refine Keeps.ofIte (fun _ => ?_) (fun _ => ?_))
    | split
    | (refine Keeps.upd ?_ rfl rfl rfl rfl rfl ?_ ?_ ?_ ?_ ?_)

theorem State.memEvent_keeps {s0 s : State} (n cnt : Nat) (h0 : s0.Keeps s) :
    s0.Keeps (s.memEvent n cnt) := by
  unfold State.memEvent
  repeat' with_reducible first
    | assumption
    | exact fun h => h
    | (extract_lets +onlyGivenNames x; clear_value (e : x = _); subst e)
    | apply State.bump_keeps
    | apply State.leakMark_keeps
    | apply State.retireMemPort_keeps
    | (refine Keeps.ofIte (fun _ => ?_) (fun _ => ?_))
    | split
    | (refine Keeps.upd ?_ rfl rfl rfl rfl rfl ?_ ?_ ?_ ?_ ?_)

theorem State.retryLater_keeps {s0 s : State} (r : Retry) (h0 : s0.Keeps s) :
    s0.Keeps (s.retryLater r) := by
  unfold State.retryLater
  repeat' with_reducible first
    | assumption
    | exact fun h => h
    | (extract_lets +onlyGivenNames x; clear_value (e : x = _); subst e)
    | (refine Keeps.upd ?_ rfl rfl rfl rfl rfl ?_ ?_ ?_ ?_ ?_)

theorem State.undefinedAt_keeps {s0 s : State} (a n : Nat) (h0 : s0.Keeps s) : s0.Keeps (s.undefinedAt a n) :=
  Keeps.upd h0 rfl rfl rfl rfl rfl (spWf_memWrite _ _ _) id id id id

theorem State.loseWritten_keeps {s0 s : State} (p l row : Nat) (h0 : s0.Keeps s) :
    s0.Keeps (s.loseWritten p l row) := by
  unfold State.loseWritten
  repeat' with_reducible first
    | assumption
    | exact fun h => h
    | (extract_lets +onlyGivenNames x; clear_value (e : x = _); subst e)
    | apply State.onMicro_keeps
    | apply State.onTok_keeps
    | apply State.markLost_keeps
    | (refine Keeps.ofIte (fun _ => ?_) (fun _ => ?_))
    | split

theorem State.loseRow_keeps {s0 s : State} (p l row : Nat) (h0 : s0.Keeps s) :
    s0.Keeps (s.loseRow p l row) := by
  unfold State.loseRow
  repeat' with_reducible first
    | assumption
    | exact fun h => h
    | (extract_lets +onlyGivenNames x; clear_value (e : x = _); subst e)
    | apply State.onPass_keeps
    | apply State.releaseId_keeps
    | apply State.loseToken_keeps
    | (refine Keeps.ofIte (fun _ => ?_) (fun _ => ?_))
    | (refine Keeps.foldl _ _ (fun u a hu => ?_) ?_)
    | split

theorem State.loseRows_keeps {s0 s : State} (p l : Nat) (deps : Pass → List (Nat × List Nat)) (row : Nat) (h0 : s0.Keeps s) :
    s0.Keeps (s.loseRows p l deps row) := by
  unfold State.loseRows
  repeat' with_reducible first
    | assumption
    | exact fun h => h
    | apply State.loseRow_keeps
    | (refine Keeps.foldl _ _ (fun u a hu => ?_) ?_)

theorem State.loseReturn_keeps {s0 s : State} (p l m src : Nat) (h0 : s0.Keeps s) :
    s0.Keeps (s.loseReturn p l m src) := by
  unfold State.loseReturn
  repeat' with_reducible first
    | assumption
    | exact fun h => h
    | (extract_lets +onlyGivenNames x; clear_value (e : x = _); subst e)
    | apply State.voidReturn_keeps
    | apply State.loseTickets_keeps
    | apply State.countReturn_keeps
    | apply State.destOut_keeps
    | apply State.pileBack_keeps
    | (refine Keeps.ofIte (fun _ => ?_) (fun _ => ?_))
    | split

theorem State.loseTable_keeps {s0 s : State} (tag : Nat) (h0 : s0.Keeps s) :
    s0.Keeps (s.loseTable tag) := by
  unfold State.loseTable
  repeat' with_reducible first
    | assumption
    | exact fun h => h
    | (extract_lets +onlyGivenNames x; clear_value (e : x = _); subst e)
    | apply State.bump_keeps
    | apply State.failTable_keeps
    | apply State.sharedAnswer_keeps
    | (refine Keeps.ofIte (fun _ => ?_) (fun _ => ?_))
    | split
    | (refine Keeps.upd ?_ rfl rfl rfl rfl rfl ?_ ?_ ?_ ?_ ?_)

theorem State.loseShared_keeps {s0 s : State} (p l row : Nat) (h0 : s0.Keeps s) :
    s0.Keeps (s.loseShared p l row) := by
  unfold State.loseShared
  repeat' with_reducible first
    | assumption
    | exact fun h => h
    | (extract_lets +onlyGivenNames x; clear_value (e : x = _); subst e)
    | apply State.bump_keeps
    | apply State.onMicro_keeps
    | apply State.loseRow_keeps

theorem State.readLost_keeps {s0 s : State} (o : MemObj) (h0 : s0.Keeps s) :
    s0.Keeps (s.readLost o) := by
  unfold State.readLost
  repeat' with_reducible first
    | assumption
    | exact fun h => h
    | (extract_lets +onlyGivenNames x; clear_value (e : x = _); subst e)
    | apply State.teardown_keeps
    | apply State.teardownAll_keeps
    | apply State.loseTickets_keeps
    | apply State.poison_keeps
    | apply State.loseRows_keeps
    | apply State.loseReturn_keeps
    | apply State.loseShared_keeps
    | (refine Keeps.ofIte (fun _ => ?_) (fun _ => ?_))
    | split

theorem State.loseLedger_keeps {s0 s : State} (p : Nat) (h0 : s0.Keeps s) :
    s0.Keeps (s.loseLedger p) := by
  unfold State.loseLedger
  repeat' with_reducible first
    | assumption
    | exact fun h => h
    | (extract_lets +onlyGivenNames x; clear_value (e : x = _); subst e)
    | apply State.onStep_keeps
    | apply State.endAgain_keeps
    | (refine Keeps.ofIte (fun _ => ?_) (fun _ => ?_))

theorem State.writeLost_keeps {s0 s : State} (o : MemObj) (a len : Nat) (h0 : s0.Keeps s) :
    s0.Keeps (s.writeLost o a len) := by
  unfold State.writeLost
  repeat' with_reducible first
    | assumption
    | exact fun h => h
    | (extract_lets +onlyGivenNames x; clear_value (e : x = _); subst e)
    | apply State.raise_keeps
    | apply State.onGroup_keeps
    | apply State.teardown_keeps
    | apply State.teardownAll_keeps
    | apply State.cmdWritten_keeps
    | apply State.poison_keeps
    | apply State.writeDone_keeps
    | apply State.undefinedAt_keeps
    | apply State.loseWritten_keeps
    | apply State.loseTable_keeps
    | apply State.loseLedger_keeps
    | (refine Keeps.ofIte (fun _ => ?_) (fun _ => ?_))
    | split
    | (refine Keeps.upd ?_ rfl rfl rfl rfl rfl ?_ ?_ ?_ ?_ ?_)

theorem State.registerInputs_keeps {s0 s : State}  (h0 : s0.Keeps s) :
    s0.Keeps (s.registerInputs) := by
  unfold State.registerInputs
  repeat' with_reducible first
    | assumption
    | exact fun h => h
    | (refine Keeps.upd ?_ rfl rfl rfl rfl rfl ?_ ?_ ?_ ?_ ?_)
    | exact Keeps.setLen
    | (intro k; simpa using k)

theorem State.applyCompletions_keeps {s0 s : State}  (h0 : s0.Keeps s) :
    s0.Keeps (s.applyCompletions) := by
  unfold State.applyCompletions
  repeat' with_reducible first
    | assumption
    | exact fun h => h
    | (extract_lets +onlyGivenNames x; clear_value (e : x = _); subst e)
    | apply State.applyCompletion_keeps
    | (refine Keeps.foldl _ _ (fun u a hu => ?_) ?_)
    | (refine Keeps.upd ?_ rfl rfl rfl rfl rfl ?_ ?_ ?_ ?_ ?_)

theorem State.registerAll_keeps {s0 s : State}  (h0 : s0.Keeps s) :
    s0.Keeps (s.registerAll) := by
  unfold State.registerAll
  repeat' with_reducible first
    | assumption
    | exact fun h => h
    | apply State.registerBells_keeps
    | apply State.registerInputs_keeps
    | apply State.applyCompletions_keeps
    | (refine Keeps.foldl _ _ (fun u a hu => ?_) ?_)

theorem State.markAcked_keeps {s0 s : State}  (h0 : s0.Keeps s) :
    s0.Keeps (s.markAcked) := by
  unfold State.markAcked
  repeat' with_reducible first
    | assumption
    | exact fun h => h
    | apply State.onMicro_keeps
    | (refine Keeps.foldl _ _ (fun u a hu => ?_) ?_)
    | split

theorem State.serveWaiting_keeps {s0 s : State}  (h0 : s0.Keeps s) :
    s0.Keeps (s.serveWaiting) := by
  unfold State.serveWaiting
  repeat' with_reducible first
    | assumption
    | exact fun h => h
    | apply State.serveCycle_keeps
    | (refine Keeps.ofIte (fun _ => ?_) (fun _ => ?_))

theorem State.showIdle_keeps {s0 s : State}  (h0 : s0.Keeps s) :
    s0.Keeps (s.showIdle) := by
  unfold State.showIdle
  repeat' with_reducible first
    | assumption
    | exact fun h => h
    | apply State.showUnits_keeps
    | (refine Keeps.ofIte (fun _ => ?_) (fun _ => ?_))

theorem State.mgtFail_keeps {s0 s : State}  (h0 : s0.Keeps s) :
    s0.Keeps (s.mgtFail) := by
  unfold State.mgtFail
  repeat' with_reducible first
    | assumption
    | exact fun h => h
    | (refine Keeps.upd ?_ rfl rfl rfl rfl rfl ?_ ?_ ?_ ?_ ?_)

theorem State.mgtRead_keeps {s0 s : State} (v : Word) (h0 : s0.Keeps s) :
    s0.Keeps (s.mgtRead v) := by
  unfold State.mgtRead
  repeat' with_reducible first
    | assumption
    | exact fun h => h
    | (refine Keeps.upd ?_ rfl rfl rfl rfl rfl ?_ ?_ ?_ ?_ ?_)

end Sys2Proof.Machine
end

