-- ==== Sys2Proof/Laws/Starts.lean ====
section
/-! SUPPORT. What the operations of the start sequence keep: the queue, the canonical forms, the shape, and the promises
of the start sequence (R84, R89, R93 to R95). -/

namespace Sys2Proof.Machine

/-- `t` keeps of `s` the queue, the canonical forms, the shape and the promises of the start sequence. -/
structure State.Safe (s t : State) : Prop where
  pending : t.pending = s.pending
  mem : spWf s.mem = true → spWf t.mem = true
  regs : spWf s.regs = true → spWf t.regs = true
  parts : s.parts.length = 8 → t.parts.length = 8
  groups : s.groups.length = 64 → t.groups.length = 64
  ports : s.link.ports.length = 36 → t.link.ports.length = 36
  keys : s.boot.keys.length = 12 → t.boot.keys.length = 12
  started : s.boot.started → t.boot.started

namespace Safe

theorem ofKeeps {s t : State} (h : s.Keeps t) : s.Safe t :=
  ⟨h.pending, h.mem, h.regs, h.parts, h.groups, h.ports, fun k => h.boot ▸ k, fun k => h.boot ▸ k⟩

theorem refl (s : State) : s.Safe s := ofKeeps (Keeps.refl s)

theorem trans {s t u : State} (h : s.Safe t) (k : t.Safe u) : s.Safe u :=
  ⟨k.pending.trans h.pending, fun x => k.mem (h.mem x), fun x => k.regs (h.regs x), fun x => k.parts (h.parts x),
    fun x => k.groups (h.groups x), fun x => k.ports (h.ports x), fun x => k.keys (h.keys x),
    fun x => k.started (h.started x)⟩

/-- A sound state stays sound. -/
theorem sound {s t : State} (h : s.Safe t) (k : s.sound) : t.sound := by
  obtain ⟨⟨hm, hr⟩, ⟨hp, hg, hl, hk⟩, hs⟩ := k
  exact ⟨⟨h.mem hm, h.regs hr⟩, ⟨h.parts hp, h.groups hg, h.ports hl, h.keys hk⟩, h.started hs⟩

/-- An update of the start sequence alone. -/
theorem onBoot {s t : State} {b : BootSt} (h : s.Safe t) (hk : t.boot.keys.length = 12 → b.keys.length = 12)
    (hs : t.boot.started → b.started) : s.Safe { t with boot := b } :=
  trans h ⟨rfl, id, id, id, id, id, hk, hs⟩

end Safe

/-- Before RUNNING the lock is open. -/
theorem BootSt.started_lock {b : BootSt} (h : b.started) (hs : b.state ≠ 11) : b.lock = false := by
  cases e : b.lock with
  | false => rfl
  | true => exact absurd (h.1.1 e) hs

/-- Another state of the start sequence, its lock and wait as they must be there. -/
theorem BootSt.started_to {b c : BootSt} (h : b.started) (hs : b.state ≠ 11) (hr : b.rstLow = false)
    (h1 : c.lock = b.lock) (h2 : c.state ≠ 11) (h3 : c.waiting = none) (h4 : c.rstLow = b.rstLow)
    (h5 : c.keyBusy = b.keyBusy) (h6 : c.keys = b.keys) : c.started := by
  refine ⟨?_, ?_, ?_, ?_⟩
  · rw [h1, BootSt.started_lock h hs]
    simp [h2]
  · intro n k
    rw [h3] at k
    cases k
  · intro k
    rw [h4, hr] at k
    cases k
  · intro n w k
    rw [h5] at k
    rw [h6]
    exact h.2.2.2 n w k

end Sys2Proof.Machine
end

