-- ==== Sys2Proof/Laws/SharedStart.lean ====
section
/-! SUPPORT. What the operations that change the start state keep (R84, R89, R93, R94): one lemma per operation. -/

namespace Sys2Proof.Machine

theorem State.refuseStart_safe {s : State} (c d us : Nat) (hs : s.boot.state ≠ 11) (hr : s.boot.rstLow = false) :
    s.Safe (s.refuseStart c d us) := by
  unfold State.refuseStart
  extract_lets x b y
  have k : s.Keeps x := State.domainsOff_keeps (List.range 46) (Keeps.refl s)
  clear_value x
  have hb := k.boot
  have hy : x.Safe y :=
    ⟨rfl, id, id, id, id, fun _ => rfl, id, fun h =>
      BootSt.started_to h (hb ▸ hs) (hb ▸ hr) rfl (show (15 : Nat) ≠ 11 by decide) rfl rfl rfl rfl⟩
  clear_value y
  exact Safe.trans (Safe.ofKeeps k) (Safe.trans hy (Safe.ofKeeps (State.raise_keeps _ _ (State.rampsOff_keeps (Keeps.refl _)))))

/-- The entry of RUNNING sets LOCK; every other entry leaves it. -/
theorem State.enterWork_safe {s : State} (n us : Nat) (hs : s.boot.state ≠ 11) (hr : s.boot.rstLow = false) :
    s.Safe (s.enterWork n us) := by
  have hx (h : n ≠ 11) : s.Safe { s with boot := { s.boot with state := n, waiting := none } } :=
    ⟨rfl, id, id, id, id, id, id, fun k => BootSt.started_to k hs hr rfl h rfl rfl rfl rfl⟩
  unfold State.enterWork
  dsimp only
  split
  · split
    · exact Safe.trans (hx (by decide)) (State.refuseStart_safe _ _ _ (show (3 : Nat) ≠ 11 by decide) hr)
    · exact Safe.trans (hx (by decide)) (Safe.ofKeeps (Keeps.upd (Keeps.refl _) rfl rfl rfl rfl rfl id id id id id))
  · exact Safe.trans (hx (by decide)) (Safe.ofKeeps (State.showUnits_keeps
      (Keeps.upd (Keeps.refl _) rfl rfl rfl rfl rfl id id id id id)))
  · exact Safe.trans (hx (by decide)) (Safe.ofKeeps (Keeps.upd (Keeps.refl _) rfl rfl rfl rfl rfl id id id id id))
  · exact Safe.trans (hx (by decide)) (Safe.ofKeeps (Keeps.upd (Keeps.refl _) rfl rfl rfl rfl rfl id id id id id))
  · exact Safe.trans (hx (by decide)) (Safe.ofKeeps (State.trainAll_keeps
      (Keeps.upd (Keeps.refl _) rfl rfl rfl rfl rfl id id id id id)))
  · refine Safe.trans ?_ (Safe.ofKeeps (State.raise_keeps _ _ (Keeps.refl _)))
    refine ⟨rfl, id, id, id, id, id, id, fun h => ⟨?_, ?_, ?_, h.2.2.2⟩⟩
    · exact ⟨fun _ => rfl, fun _ => rfl⟩
    · intro n k
      cases k
    · intro k
      exact absurd (hr.symm.trans k) (by decide)
  · exact hx (by assumption)

/-- A state boundary: the next state, or a wait for the release of the alert (R94). -/
theorem State.enter_safe {s : State} (n us : Nat) (hn : 2 ≤ n) (hm : n ≤ 11) (hs : s.boot.state ≤ 10)
    (hr : s.boot.rstLow = false) : s.Safe (s.enter n us) := by
  unfold State.enter
  split
  · refine ⟨rfl, id, id, id, id, id, id, fun h => ⟨h.1, ?_, ?_, h.2.2.2⟩⟩
    · intro k e
      cases e
      exact ⟨hs, hn, hm⟩
    · intro k
      exact absurd (hr.symm.trans k) (by decide)
  · exact State.enterWork_safe n us (by omega) hr

theorem State.takeCopy_safe {s : State} (c : CopyId) (rejected : Bool) (us : Nat) (hs : s.boot.state ≤ 10)
    (hr : s.boot.rstLow = false) : s.Safe (s.takeCopy c rejected us) := by
  unfold State.takeCopy
  refine Safe.trans ?_ (State.enter_safe 3 us (by decide) (by decide) hs hr)
  exact ⟨rfl, id, id, id, id, id, id, fun h => h⟩

theorem State.selectCopy_safe {s : State} (us : Nat) (hs : s.boot.state ≤ 10) (hr : s.boot.rstLow = false) :
    s.Safe (s.selectCopy us) := by
  have h11 : s.boot.state ≠ 11 := by omega
  unfold State.selectCopy
  dsimp only
  repeat' split
  all_goals first
    | exact State.takeCopy_safe _ _ _ hs hr
    | exact State.refuseStart_safe _ _ _ h11 hr

/-- AUTH: another read of the copies that failed, or the selection (R86, R87). -/
theorem State.auth_safe {s : State} (us : Nat) (hs : s.boot.state ≤ 10) (hr : s.boot.rstLow = false) :
    s.Safe (s.auth us) := by
  have h11 : s.boot.state ≠ 11 := by omega
  have hx : s.Safe { s with boot := { s.boot with state := 2, waiting := none } } :=
    ⟨rfl, id, id, id, id, id, id, fun k => BootSt.started_to k h11 hr rfl (show (2 : Nat) ≠ 11 by decide) rfl rfl rfl rfl⟩
  unfold State.auth
  dsimp only
  split
  · exact Safe.trans hx ⟨rfl, id, id, id, id, id, id, fun h => h⟩
  · exact Safe.trans hx (State.selectCopy_safe us (show (2 : Nat) ≤ 10 by decide) hr)

theorem State.enterAuth_safe {s : State} (us : Nat) (hs : s.boot.state ≤ 10) (hr : s.boot.rstLow = false) :
    s.Safe (s.enterAuth us) := by
  unfold State.enterAuth
  split
  · refine ⟨rfl, id, id, id, id, id, id, fun h => ⟨h.1, ?_, ?_, h.2.2.2⟩⟩
    · intro k e
      cases e
      exact ⟨hs, by decide, by decide⟩
    · intro k
      exact absurd (hr.symm.trans k) (by decide)
  · exact State.auth_safe us hs hr

theorem State.enterNow_safe {s : State} (n us : Nat) (hs : s.boot.state ≤ 10) (hr : s.boot.rstLow = false) :
    s.Safe (s.enterNow n us) := by
  unfold State.enterNow
  split
  · exact State.auth_safe us hs hr
  · exact State.enterWork_safe n us (by omega) hr

end Sys2Proof.Machine
end

