-- ==== Sys2Proof/Laws/State.lean ====
section
/-! SUPPORT. The laws of the updates of a state: what each update leaves of every other field, true by unfolding it
once, and what an element reads after it was replaced. -/

namespace Sys2Proof.Machine

@[simp] theorem State.setReg_pending (s : State) (a : Nat) (v : Word) : (s.setReg a v).pending = s.pending := rfl
@[simp] theorem State.setReg_free (s : State) (a : Nat) (v : Word) : (s.setReg a v).free = s.free := rfl
@[simp] theorem State.setReg_mgtData (s : State) (a : Nat) (v : Word) : (s.setReg a v).mgtData = s.mgtData := rfl
@[simp] theorem State.setReg_mgtErr (s : State) (a : Nat) (v : Word) : (s.setReg a v).mgtErr = s.mgtErr := rfl
@[simp] theorem State.setReg_mem (s : State) (a : Nat) (v : Word) : (s.setReg a v).mem = s.mem := rfl
@[simp] theorem State.setReg_boot (s : State) (a : Nat) (v : Word) : (s.setReg a v).boot = s.boot := rfl
@[simp] theorem State.setReg_img (s : State) (a : Nat) (v : Word) : (s.setReg a v).img = s.img := rfl
@[simp] theorem State.setReg_units (s : State) (a : Nat) (v : Word) : (s.setReg a v).units = s.units := rfl
@[simp] theorem State.setReg_stitch (s : State) (a : Nat) (v : Word) : (s.setReg a v).stitch = s.stitch := rfl
@[simp] theorem State.setReg_seam (s : State) (a : Nat) (v : Word) : (s.setReg a v).seam = s.seam := rfl
@[simp] theorem State.setReg_memp (s : State) (a : Nat) (v : Word) : (s.setReg a v).memp = s.memp := rfl
@[simp] theorem State.setReg_hamper (s : State) (a : Nat) (v : Word) : (s.setReg a v).hamper = s.hamper := rfl
@[simp] theorem State.setReg_ctx (s : State) (a : Nat) (v : Word) : (s.setReg a v).ctx = s.ctx := rfl
@[simp] theorem State.setReg_parts (s : State) (a : Nat) (v : Word) : (s.setReg a v).parts = s.parts := rfl
@[simp] theorem State.setReg_groups (s : State) (a : Nat) (v : Word) : (s.setReg a v).groups = s.groups := rfl
@[simp] theorem State.setReg_press (s : State) (a : Nat) (v : Word) : (s.setReg a v).press = s.press := rfl
@[simp] theorem State.setReg_leaks (s : State) (a : Nat) (v : Word) : (s.setReg a v).leaks = s.leaks := rfl
@[simp] theorem State.setReg_cores (s : State) (a : Nat) (v : Word) : (s.setReg a v).cores = s.cores := rfl
@[simp] theorem State.setReg_link (s : State) (a : Nat) (v : Word) : (s.setReg a v).link = s.link := rfl
@[simp] theorem State.setReg_mgr (s : State) (a : Nat) (v : Word) : (s.setReg a v).mgr = s.mgr := rfl
@[simp] theorem State.setReg_fold (s : State) (a : Nat) (v : Word) : (s.setReg a v).fold = s.fold := rfl
@[simp] theorem State.setReg_power (s : State) (a : Nat) (v : Word) : (s.setReg a v).power = s.power := rfl
@[simp] theorem State.setReg_recd (s : State) (a : Nat) (v : Word) : (s.setReg a v).recd = s.recd := rfl
@[simp] theorem State.setReg_self (s : State) (a : Nat) (v : Word) : (s.setReg a v).self = s.self := rfl
@[simp] theorem State.setReg_tabs (s : State) (a : Nat) (v : Word) : (s.setReg a v).tabs = s.tabs := rfl
@[simp] theorem State.setReg_nextTag (s : State) (a : Nat) (v : Word) : (s.setReg a v).nextTag = s.nextTag := rfl

@[simp] theorem State.latch_pending (s : State) (a : Nat) (v : Word) :
    (s.latch a v).pending = s.pending := by unfold State.latch; split <;> rfl
@[simp] theorem State.latch_free (s : State) (a : Nat) (v : Word) :
    (s.latch a v).free = s.free := by unfold State.latch; split <;> rfl
@[simp] theorem State.latch_mgtData (s : State) (a : Nat) (v : Word) :
    (s.latch a v).mgtData = s.mgtData := by unfold State.latch; split <;> rfl
@[simp] theorem State.latch_mgtErr (s : State) (a : Nat) (v : Word) :
    (s.latch a v).mgtErr = s.mgtErr := by unfold State.latch; split <;> rfl
@[simp] theorem State.latch_mem (s : State) (a : Nat) (v : Word) :
    (s.latch a v).mem = s.mem := by unfold State.latch; split <;> rfl
@[simp] theorem State.latch_boot (s : State) (a : Nat) (v : Word) :
    (s.latch a v).boot = s.boot := by unfold State.latch; split <;> rfl
@[simp] theorem State.latch_img (s : State) (a : Nat) (v : Word) :
    (s.latch a v).img = s.img := by unfold State.latch; split <;> rfl
@[simp] theorem State.latch_units (s : State) (a : Nat) (v : Word) :
    (s.latch a v).units = s.units := by unfold State.latch; split <;> rfl
@[simp] theorem State.latch_stitch (s : State) (a : Nat) (v : Word) :
    (s.latch a v).stitch = s.stitch := by unfold State.latch; split <;> rfl
@[simp] theorem State.latch_seam (s : State) (a : Nat) (v : Word) :
    (s.latch a v).seam = s.seam := by unfold State.latch; split <;> rfl
@[simp] theorem State.latch_memp (s : State) (a : Nat) (v : Word) :
    (s.latch a v).memp = s.memp := by unfold State.latch; split <;> rfl
@[simp] theorem State.latch_hamper (s : State) (a : Nat) (v : Word) :
    (s.latch a v).hamper = s.hamper := by unfold State.latch; split <;> rfl
@[simp] theorem State.latch_ctx (s : State) (a : Nat) (v : Word) :
    (s.latch a v).ctx = s.ctx := by unfold State.latch; split <;> rfl
@[simp] theorem State.latch_parts (s : State) (a : Nat) (v : Word) :
    (s.latch a v).parts = s.parts := by unfold State.latch; split <;> rfl
@[simp] theorem State.latch_groups (s : State) (a : Nat) (v : Word) :
    (s.latch a v).groups = s.groups := by unfold State.latch; split <;> rfl
@[simp] theorem State.latch_press (s : State) (a : Nat) (v : Word) :
    (s.latch a v).press = s.press := by unfold State.latch; split <;> rfl
@[simp] theorem State.latch_leaks (s : State) (a : Nat) (v : Word) :
    (s.latch a v).leaks = s.leaks := by unfold State.latch; split <;> rfl
@[simp] theorem State.latch_cores (s : State) (a : Nat) (v : Word) :
    (s.latch a v).cores = s.cores := by unfold State.latch; split <;> rfl
@[simp] theorem State.latch_link (s : State) (a : Nat) (v : Word) :
    (s.latch a v).link = s.link := by unfold State.latch; split <;> rfl
@[simp] theorem State.latch_mgr (s : State) (a : Nat) (v : Word) :
    (s.latch a v).mgr = s.mgr := by unfold State.latch; split <;> rfl
@[simp] theorem State.latch_fold (s : State) (a : Nat) (v : Word) :
    (s.latch a v).fold = s.fold := by unfold State.latch; split <;> rfl
@[simp] theorem State.latch_power (s : State) (a : Nat) (v : Word) :
    (s.latch a v).power = s.power := by unfold State.latch; split <;> rfl
@[simp] theorem State.latch_recd (s : State) (a : Nat) (v : Word) :
    (s.latch a v).recd = s.recd := by unfold State.latch; split <;> rfl
@[simp] theorem State.latch_self (s : State) (a : Nat) (v : Word) :
    (s.latch a v).self = s.self := by unfold State.latch; split <;> rfl
@[simp] theorem State.latch_tabs (s : State) (a : Nat) (v : Word) :
    (s.latch a v).tabs = s.tabs := by unfold State.latch; split <;> rfl
@[simp] theorem State.latch_nextTag (s : State) (a : Nat) (v : Word) :
    (s.latch a v).nextTag = s.nextTag := by unfold State.latch; split <;> rfl

@[simp] theorem State.bump_pending (s : State) (a n : Nat) :
    (s.bump a n).pending = s.pending := by unfold State.bump; split <;> rfl
@[simp] theorem State.bump_free (s : State) (a n : Nat) :
    (s.bump a n).free = s.free := by unfold State.bump; split <;> rfl
@[simp] theorem State.bump_mgtData (s : State) (a n : Nat) :
    (s.bump a n).mgtData = s.mgtData := by unfold State.bump; split <;> rfl
@[simp] theorem State.bump_mgtErr (s : State) (a n : Nat) :
    (s.bump a n).mgtErr = s.mgtErr := by unfold State.bump; split <;> rfl
@[simp] theorem State.bump_mem (s : State) (a n : Nat) : (s.bump a n).mem = s.mem := by unfold State.bump; split <;> rfl
@[simp] theorem State.bump_boot (s : State) (a n : Nat) :
    (s.bump a n).boot = s.boot := by unfold State.bump; split <;> rfl
@[simp] theorem State.bump_img (s : State) (a n : Nat) : (s.bump a n).img = s.img := by unfold State.bump; split <;> rfl
@[simp] theorem State.bump_units (s : State) (a n : Nat) :
    (s.bump a n).units = s.units := by unfold State.bump; split <;> rfl
@[simp] theorem State.bump_stitch (s : State) (a n : Nat) :
    (s.bump a n).stitch = s.stitch := by unfold State.bump; split <;> rfl
@[simp] theorem State.bump_seam (s : State) (a n : Nat) :
    (s.bump a n).seam = s.seam := by unfold State.bump; split <;> rfl
@[simp] theorem State.bump_memp (s : State) (a n : Nat) :
    (s.bump a n).memp = s.memp := by unfold State.bump; split <;> rfl
@[simp] theorem State.bump_hamper (s : State) (a n : Nat) :
    (s.bump a n).hamper = s.hamper := by unfold State.bump; split <;> rfl
@[simp] theorem State.bump_ctx (s : State) (a n : Nat) : (s.bump a n).ctx = s.ctx := by unfold State.bump; split <;> rfl
@[simp] theorem State.bump_parts (s : State) (a n : Nat) :
    (s.bump a n).parts = s.parts := by unfold State.bump; split <;> rfl
@[simp] theorem State.bump_groups (s : State) (a n : Nat) :
    (s.bump a n).groups = s.groups := by unfold State.bump; split <;> rfl
@[simp] theorem State.bump_press (s : State) (a n : Nat) :
    (s.bump a n).press = s.press := by unfold State.bump; split <;> rfl
@[simp] theorem State.bump_leaks (s : State) (a n : Nat) :
    (s.bump a n).leaks = s.leaks := by unfold State.bump; split <;> rfl
@[simp] theorem State.bump_cores (s : State) (a n : Nat) :
    (s.bump a n).cores = s.cores := by unfold State.bump; split <;> rfl
@[simp] theorem State.bump_link (s : State) (a n : Nat) :
    (s.bump a n).link = s.link := by unfold State.bump; split <;> rfl
@[simp] theorem State.bump_mgr (s : State) (a n : Nat) : (s.bump a n).mgr = s.mgr := by unfold State.bump; split <;> rfl
@[simp] theorem State.bump_fold (s : State) (a n : Nat) :
    (s.bump a n).fold = s.fold := by unfold State.bump; split <;> rfl
@[simp] theorem State.bump_power (s : State) (a n : Nat) :
    (s.bump a n).power = s.power := by unfold State.bump; split <;> rfl
@[simp] theorem State.bump_recd (s : State) (a n : Nat) :
    (s.bump a n).recd = s.recd := by unfold State.bump; split <;> rfl
@[simp] theorem State.bump_self (s : State) (a n : Nat) :
    (s.bump a n).self = s.self := by unfold State.bump; split <;> rfl
@[simp] theorem State.bump_tabs (s : State) (a n : Nat) :
    (s.bump a n).tabs = s.tabs := by unfold State.bump; split <;> rfl
@[simp] theorem State.bump_nextTag (s : State) (a n : Nat) :
    (s.bump a n).nextTag = s.nextTag := by unfold State.bump; split <;> rfl

@[simp] theorem State.raise_pending (s : State) (a i : Nat) :
    (s.raise a i).pending = s.pending := by unfold State.raise; split <;> rfl
@[simp] theorem State.raise_free (s : State) (a i : Nat) :
    (s.raise a i).free = s.free := by unfold State.raise; split <;> rfl
@[simp] theorem State.raise_mgtData (s : State) (a i : Nat) :
    (s.raise a i).mgtData = s.mgtData := by unfold State.raise; split <;> rfl
@[simp] theorem State.raise_mgtErr (s : State) (a i : Nat) :
    (s.raise a i).mgtErr = s.mgtErr := by unfold State.raise; split <;> rfl
@[simp] theorem State.raise_mem (s : State) (a i : Nat) :
    (s.raise a i).mem = s.mem := by unfold State.raise; split <;> rfl
@[simp] theorem State.raise_boot (s : State) (a i : Nat) :
    (s.raise a i).boot = s.boot := by unfold State.raise; split <;> rfl
@[simp] theorem State.raise_img (s : State) (a i : Nat) :
    (s.raise a i).img = s.img := by unfold State.raise; split <;> rfl
@[simp] theorem State.raise_units (s : State) (a i : Nat) :
    (s.raise a i).units = s.units := by unfold State.raise; split <;> rfl
@[simp] theorem State.raise_stitch (s : State) (a i : Nat) :
    (s.raise a i).stitch = s.stitch := by unfold State.raise; split <;> rfl
@[simp] theorem State.raise_seam (s : State) (a i : Nat) :
    (s.raise a i).seam = s.seam := by unfold State.raise; split <;> rfl
@[simp] theorem State.raise_memp (s : State) (a i : Nat) :
    (s.raise a i).memp = s.memp := by unfold State.raise; split <;> rfl
@[simp] theorem State.raise_hamper (s : State) (a i : Nat) :
    (s.raise a i).hamper = s.hamper := by unfold State.raise; split <;> rfl
@[simp] theorem State.raise_ctx (s : State) (a i : Nat) :
    (s.raise a i).ctx = s.ctx := by unfold State.raise; split <;> rfl
@[simp] theorem State.raise_parts (s : State) (a i : Nat) :
    (s.raise a i).parts = s.parts := by unfold State.raise; split <;> rfl
@[simp] theorem State.raise_groups (s : State) (a i : Nat) :
    (s.raise a i).groups = s.groups := by unfold State.raise; split <;> rfl
@[simp] theorem State.raise_press (s : State) (a i : Nat) :
    (s.raise a i).press = s.press := by unfold State.raise; split <;> rfl
@[simp] theorem State.raise_leaks (s : State) (a i : Nat) :
    (s.raise a i).leaks = s.leaks := by unfold State.raise; split <;> rfl
@[simp] theorem State.raise_cores (s : State) (a i : Nat) :
    (s.raise a i).cores = s.cores := by unfold State.raise; split <;> rfl
@[simp] theorem State.raise_link (s : State) (a i : Nat) :
    (s.raise a i).link = s.link := by unfold State.raise; split <;> rfl
@[simp] theorem State.raise_mgr (s : State) (a i : Nat) :
    (s.raise a i).mgr = s.mgr := by unfold State.raise; split <;> rfl
@[simp] theorem State.raise_fold (s : State) (a i : Nat) :
    (s.raise a i).fold = s.fold := by unfold State.raise; split <;> rfl
@[simp] theorem State.raise_power (s : State) (a i : Nat) :
    (s.raise a i).power = s.power := by unfold State.raise; split <;> rfl
@[simp] theorem State.raise_recd (s : State) (a i : Nat) :
    (s.raise a i).recd = s.recd := by unfold State.raise; split <;> rfl
@[simp] theorem State.raise_self (s : State) (a i : Nat) :
    (s.raise a i).self = s.self := by unfold State.raise; split <;> rfl
@[simp] theorem State.raise_tabs (s : State) (a i : Nat) :
    (s.raise a i).tabs = s.tabs := by unfold State.raise; split <;> rfl
@[simp] theorem State.raise_nextTag (s : State) (a i : Nat) :
    (s.raise a i).nextTag = s.nextTag := by unfold State.raise; split <;> rfl

@[simp] theorem State.domainOff_pending (s : State) (n : Nat) : (s.domainOff n).pending = s.pending := rfl
@[simp] theorem State.domainOff_free (s : State) (n : Nat) : (s.domainOff n).free = s.free := rfl
@[simp] theorem State.domainOff_mgtData (s : State) (n : Nat) : (s.domainOff n).mgtData = s.mgtData := rfl
@[simp] theorem State.domainOff_mgtErr (s : State) (n : Nat) : (s.domainOff n).mgtErr = s.mgtErr := rfl
@[simp] theorem State.domainOff_mem (s : State) (n : Nat) : (s.domainOff n).mem = s.mem := rfl
@[simp] theorem State.domainOff_boot (s : State) (n : Nat) : (s.domainOff n).boot = s.boot := rfl
@[simp] theorem State.domainOff_img (s : State) (n : Nat) : (s.domainOff n).img = s.img := rfl
@[simp] theorem State.domainOff_units (s : State) (n : Nat) : (s.domainOff n).units = s.units := rfl
@[simp] theorem State.domainOff_stitch (s : State) (n : Nat) : (s.domainOff n).stitch = s.stitch := rfl
@[simp] theorem State.domainOff_seam (s : State) (n : Nat) : (s.domainOff n).seam = s.seam := rfl
@[simp] theorem State.domainOff_memp (s : State) (n : Nat) : (s.domainOff n).memp = s.memp := rfl
@[simp] theorem State.domainOff_hamper (s : State) (n : Nat) : (s.domainOff n).hamper = s.hamper := rfl
@[simp] theorem State.domainOff_ctx (s : State) (n : Nat) : (s.domainOff n).ctx = s.ctx := rfl
@[simp] theorem State.domainOff_parts (s : State) (n : Nat) : (s.domainOff n).parts = s.parts := rfl
@[simp] theorem State.domainOff_groups (s : State) (n : Nat) : (s.domainOff n).groups = s.groups := rfl
@[simp] theorem State.domainOff_leaks (s : State) (n : Nat) : (s.domainOff n).leaks = s.leaks := rfl
@[simp] theorem State.domainOff_link (s : State) (n : Nat) : (s.domainOff n).link = s.link := rfl
@[simp] theorem State.domainOff_mgr (s : State) (n : Nat) : (s.domainOff n).mgr = s.mgr := rfl
@[simp] theorem State.domainOff_fold (s : State) (n : Nat) : (s.domainOff n).fold = s.fold := rfl
@[simp] theorem State.domainOff_recd (s : State) (n : Nat) : (s.domainOff n).recd = s.recd := rfl
@[simp] theorem State.domainOff_self (s : State) (n : Nat) : (s.domainOff n).self = s.self := rfl
@[simp] theorem State.domainOff_tabs (s : State) (n : Nat) : (s.domainOff n).tabs = s.tabs := rfl
@[simp] theorem State.domainOff_nextTag (s : State) (n : Nat) : (s.domainOff n).nextTag = s.nextTag := rfl

@[simp] theorem State.domainOn_pending (s : State) (n : Nat) : (s.domainOn n).pending = s.pending := rfl
@[simp] theorem State.domainOn_free (s : State) (n : Nat) : (s.domainOn n).free = s.free := rfl
@[simp] theorem State.domainOn_mgtData (s : State) (n : Nat) : (s.domainOn n).mgtData = s.mgtData := rfl
@[simp] theorem State.domainOn_mgtErr (s : State) (n : Nat) : (s.domainOn n).mgtErr = s.mgtErr := rfl
@[simp] theorem State.domainOn_regs (s : State) (n : Nat) : (s.domainOn n).regs = s.regs := rfl
@[simp] theorem State.domainOn_mem (s : State) (n : Nat) : (s.domainOn n).mem = s.mem := rfl
@[simp] theorem State.domainOn_boot (s : State) (n : Nat) : (s.domainOn n).boot = s.boot := rfl
@[simp] theorem State.domainOn_img (s : State) (n : Nat) : (s.domainOn n).img = s.img := rfl
@[simp] theorem State.domainOn_units (s : State) (n : Nat) : (s.domainOn n).units = s.units := rfl
@[simp] theorem State.domainOn_stitch (s : State) (n : Nat) : (s.domainOn n).stitch = s.stitch := rfl
@[simp] theorem State.domainOn_seam (s : State) (n : Nat) : (s.domainOn n).seam = s.seam := rfl
@[simp] theorem State.domainOn_memp (s : State) (n : Nat) : (s.domainOn n).memp = s.memp := rfl
@[simp] theorem State.domainOn_hamper (s : State) (n : Nat) : (s.domainOn n).hamper = s.hamper := rfl
@[simp] theorem State.domainOn_ctx (s : State) (n : Nat) : (s.domainOn n).ctx = s.ctx := rfl
@[simp] theorem State.domainOn_parts (s : State) (n : Nat) : (s.domainOn n).parts = s.parts := rfl
@[simp] theorem State.domainOn_groups (s : State) (n : Nat) : (s.domainOn n).groups = s.groups := rfl
@[simp] theorem State.domainOn_press (s : State) (n : Nat) : (s.domainOn n).press = s.press := rfl
@[simp] theorem State.domainOn_leaks (s : State) (n : Nat) : (s.domainOn n).leaks = s.leaks := rfl
@[simp] theorem State.domainOn_cores (s : State) (n : Nat) : (s.domainOn n).cores = s.cores := rfl
@[simp] theorem State.domainOn_link (s : State) (n : Nat) : (s.domainOn n).link = s.link := rfl
@[simp] theorem State.domainOn_mgr (s : State) (n : Nat) : (s.domainOn n).mgr = s.mgr := rfl
@[simp] theorem State.domainOn_fold (s : State) (n : Nat) : (s.domainOn n).fold = s.fold := rfl
@[simp] theorem State.domainOn_recd (s : State) (n : Nat) : (s.domainOn n).recd = s.recd := rfl
@[simp] theorem State.domainOn_self (s : State) (n : Nat) : (s.domainOn n).self = s.self := rfl
@[simp] theorem State.domainOn_tabs (s : State) (n : Nat) : (s.domainOn n).tabs = s.tabs := rfl
@[simp] theorem State.domainOn_nextTag (s : State) (n : Nat) : (s.domainOn n).nextTag = s.nextTag := rfl

@[simp] theorem State.onPart_pending (s : State) (p : Nat) (f : Part → Part) : (s.onPart p f).pending = s.pending := rfl
@[simp] theorem State.onPart_free (s : State) (p : Nat) (f : Part → Part) : (s.onPart p f).free = s.free := rfl
@[simp] theorem State.onPart_mgtData (s : State) (p : Nat) (f : Part → Part) : (s.onPart p f).mgtData = s.mgtData := rfl
@[simp] theorem State.onPart_mgtErr (s : State) (p : Nat) (f : Part → Part) : (s.onPart p f).mgtErr = s.mgtErr := rfl
@[simp] theorem State.onPart_regs (s : State) (p : Nat) (f : Part → Part) : (s.onPart p f).regs = s.regs := rfl
@[simp] theorem State.onPart_mem (s : State) (p : Nat) (f : Part → Part) : (s.onPart p f).mem = s.mem := rfl
@[simp] theorem State.onPart_boot (s : State) (p : Nat) (f : Part → Part) : (s.onPart p f).boot = s.boot := rfl
@[simp] theorem State.onPart_img (s : State) (p : Nat) (f : Part → Part) : (s.onPart p f).img = s.img := rfl
@[simp] theorem State.onPart_units (s : State) (p : Nat) (f : Part → Part) : (s.onPart p f).units = s.units := rfl
@[simp] theorem State.onPart_stitch (s : State) (p : Nat) (f : Part → Part) : (s.onPart p f).stitch = s.stitch := rfl
@[simp] theorem State.onPart_seam (s : State) (p : Nat) (f : Part → Part) : (s.onPart p f).seam = s.seam := rfl
@[simp] theorem State.onPart_memp (s : State) (p : Nat) (f : Part → Part) : (s.onPart p f).memp = s.memp := rfl
@[simp] theorem State.onPart_hamper (s : State) (p : Nat) (f : Part → Part) : (s.onPart p f).hamper = s.hamper := rfl
@[simp] theorem State.onPart_ctx (s : State) (p : Nat) (f : Part → Part) : (s.onPart p f).ctx = s.ctx := rfl
@[simp] theorem State.onPart_groups (s : State) (p : Nat) (f : Part → Part) : (s.onPart p f).groups = s.groups := rfl
@[simp] theorem State.onPart_press (s : State) (p : Nat) (f : Part → Part) : (s.onPart p f).press = s.press := rfl
@[simp] theorem State.onPart_leaks (s : State) (p : Nat) (f : Part → Part) : (s.onPart p f).leaks = s.leaks := rfl
@[simp] theorem State.onPart_cores (s : State) (p : Nat) (f : Part → Part) : (s.onPart p f).cores = s.cores := rfl
@[simp] theorem State.onPart_link (s : State) (p : Nat) (f : Part → Part) : (s.onPart p f).link = s.link := rfl
@[simp] theorem State.onPart_mgr (s : State) (p : Nat) (f : Part → Part) : (s.onPart p f).mgr = s.mgr := rfl
@[simp] theorem State.onPart_fold (s : State) (p : Nat) (f : Part → Part) : (s.onPart p f).fold = s.fold := rfl
@[simp] theorem State.onPart_power (s : State) (p : Nat) (f : Part → Part) : (s.onPart p f).power = s.power := rfl
@[simp] theorem State.onPart_recd (s : State) (p : Nat) (f : Part → Part) : (s.onPart p f).recd = s.recd := rfl
@[simp] theorem State.onPart_self (s : State) (p : Nat) (f : Part → Part) : (s.onPart p f).self = s.self := rfl
@[simp] theorem State.onPart_tabs (s : State) (p : Nat) (f : Part → Part) : (s.onPart p f).tabs = s.tabs := rfl
@[simp] theorem State.onPart_nextTag (s : State) (p : Nat) (f : Part → Part) : (s.onPart p f).nextTag = s.nextTag := rfl

@[simp] theorem State.onGroup_pending (s : State) (g : Nat) (f : Group → Group) :
    (s.onGroup g f).pending = s.pending := rfl
@[simp] theorem State.onGroup_free (s : State) (g : Nat) (f : Group → Group) : (s.onGroup g f).free = s.free := rfl
@[simp] theorem State.onGroup_mgtData (s : State) (g : Nat) (f : Group → Group) :
    (s.onGroup g f).mgtData = s.mgtData := rfl
@[simp] theorem State.onGroup_mgtErr (s : State) (g : Nat) (f : Group → Group) :
    (s.onGroup g f).mgtErr = s.mgtErr := rfl
@[simp] theorem State.onGroup_regs (s : State) (g : Nat) (f : Group → Group) : (s.onGroup g f).regs = s.regs := rfl
@[simp] theorem State.onGroup_mem (s : State) (g : Nat) (f : Group → Group) : (s.onGroup g f).mem = s.mem := rfl
@[simp] theorem State.onGroup_boot (s : State) (g : Nat) (f : Group → Group) : (s.onGroup g f).boot = s.boot := rfl
@[simp] theorem State.onGroup_img (s : State) (g : Nat) (f : Group → Group) : (s.onGroup g f).img = s.img := rfl
@[simp] theorem State.onGroup_units (s : State) (g : Nat) (f : Group → Group) : (s.onGroup g f).units = s.units := rfl
@[simp] theorem State.onGroup_stitch (s : State) (g : Nat) (f : Group → Group) :
    (s.onGroup g f).stitch = s.stitch := rfl
@[simp] theorem State.onGroup_seam (s : State) (g : Nat) (f : Group → Group) : (s.onGroup g f).seam = s.seam := rfl
@[simp] theorem State.onGroup_memp (s : State) (g : Nat) (f : Group → Group) : (s.onGroup g f).memp = s.memp := rfl
@[simp] theorem State.onGroup_hamper (s : State) (g : Nat) (f : Group → Group) :
    (s.onGroup g f).hamper = s.hamper := rfl
@[simp] theorem State.onGroup_ctx (s : State) (g : Nat) (f : Group → Group) : (s.onGroup g f).ctx = s.ctx := rfl
@[simp] theorem State.onGroup_parts (s : State) (g : Nat) (f : Group → Group) : (s.onGroup g f).parts = s.parts := rfl
@[simp] theorem State.onGroup_press (s : State) (g : Nat) (f : Group → Group) : (s.onGroup g f).press = s.press := rfl
@[simp] theorem State.onGroup_leaks (s : State) (g : Nat) (f : Group → Group) : (s.onGroup g f).leaks = s.leaks := rfl
@[simp] theorem State.onGroup_cores (s : State) (g : Nat) (f : Group → Group) : (s.onGroup g f).cores = s.cores := rfl
@[simp] theorem State.onGroup_link (s : State) (g : Nat) (f : Group → Group) : (s.onGroup g f).link = s.link := rfl
@[simp] theorem State.onGroup_mgr (s : State) (g : Nat) (f : Group → Group) : (s.onGroup g f).mgr = s.mgr := rfl
@[simp] theorem State.onGroup_fold (s : State) (g : Nat) (f : Group → Group) : (s.onGroup g f).fold = s.fold := rfl
@[simp] theorem State.onGroup_power (s : State) (g : Nat) (f : Group → Group) : (s.onGroup g f).power = s.power := rfl
@[simp] theorem State.onGroup_recd (s : State) (g : Nat) (f : Group → Group) : (s.onGroup g f).recd = s.recd := rfl
@[simp] theorem State.onGroup_self (s : State) (g : Nat) (f : Group → Group) : (s.onGroup g f).self = s.self := rfl
@[simp] theorem State.onGroup_tabs (s : State) (g : Nat) (f : Group → Group) : (s.onGroup g f).tabs = s.tabs := rfl
@[simp] theorem State.onGroup_nextTag (s : State) (g : Nat) (f : Group → Group) :
    (s.onGroup g f).nextTag = s.nextTag := rfl

@[simp] theorem State.onPort_pending (s : State) (p : Nat) (f : Port → Port) : (s.onPort p f).pending = s.pending := rfl
@[simp] theorem State.onPort_free (s : State) (p : Nat) (f : Port → Port) : (s.onPort p f).free = s.free := rfl
@[simp] theorem State.onPort_mgtData (s : State) (p : Nat) (f : Port → Port) : (s.onPort p f).mgtData = s.mgtData := rfl
@[simp] theorem State.onPort_mgtErr (s : State) (p : Nat) (f : Port → Port) : (s.onPort p f).mgtErr = s.mgtErr := rfl
@[simp] theorem State.onPort_regs (s : State) (p : Nat) (f : Port → Port) : (s.onPort p f).regs = s.regs := rfl
@[simp] theorem State.onPort_mem (s : State) (p : Nat) (f : Port → Port) : (s.onPort p f).mem = s.mem := rfl
@[simp] theorem State.onPort_boot (s : State) (p : Nat) (f : Port → Port) : (s.onPort p f).boot = s.boot := rfl
@[simp] theorem State.onPort_img (s : State) (p : Nat) (f : Port → Port) : (s.onPort p f).img = s.img := rfl
@[simp] theorem State.onPort_units (s : State) (p : Nat) (f : Port → Port) : (s.onPort p f).units = s.units := rfl
@[simp] theorem State.onPort_stitch (s : State) (p : Nat) (f : Port → Port) : (s.onPort p f).stitch = s.stitch := rfl
@[simp] theorem State.onPort_seam (s : State) (p : Nat) (f : Port → Port) : (s.onPort p f).seam = s.seam := rfl
@[simp] theorem State.onPort_memp (s : State) (p : Nat) (f : Port → Port) : (s.onPort p f).memp = s.memp := rfl
@[simp] theorem State.onPort_hamper (s : State) (p : Nat) (f : Port → Port) : (s.onPort p f).hamper = s.hamper := rfl
@[simp] theorem State.onPort_ctx (s : State) (p : Nat) (f : Port → Port) : (s.onPort p f).ctx = s.ctx := rfl
@[simp] theorem State.onPort_parts (s : State) (p : Nat) (f : Port → Port) : (s.onPort p f).parts = s.parts := rfl
@[simp] theorem State.onPort_groups (s : State) (p : Nat) (f : Port → Port) : (s.onPort p f).groups = s.groups := rfl
@[simp] theorem State.onPort_press (s : State) (p : Nat) (f : Port → Port) : (s.onPort p f).press = s.press := rfl
@[simp] theorem State.onPort_leaks (s : State) (p : Nat) (f : Port → Port) : (s.onPort p f).leaks = s.leaks := rfl
@[simp] theorem State.onPort_cores (s : State) (p : Nat) (f : Port → Port) : (s.onPort p f).cores = s.cores := rfl
@[simp] theorem State.onPort_mgr (s : State) (p : Nat) (f : Port → Port) : (s.onPort p f).mgr = s.mgr := rfl
@[simp] theorem State.onPort_fold (s : State) (p : Nat) (f : Port → Port) : (s.onPort p f).fold = s.fold := rfl
@[simp] theorem State.onPort_power (s : State) (p : Nat) (f : Port → Port) : (s.onPort p f).power = s.power := rfl
@[simp] theorem State.onPort_recd (s : State) (p : Nat) (f : Port → Port) : (s.onPort p f).recd = s.recd := rfl
@[simp] theorem State.onPort_self (s : State) (p : Nat) (f : Port → Port) : (s.onPort p f).self = s.self := rfl
@[simp] theorem State.onPort_tabs (s : State) (p : Nat) (f : Port → Port) : (s.onPort p f).tabs = s.tabs := rfl
@[simp] theorem State.onPort_nextTag (s : State) (p : Nat) (f : Port → Port) : (s.onPort p f).nextTag = s.nextTag := rfl

@[simp] theorem State.onChan_pending (s : State) (i : Nat) (f : Chan → Chan) : (s.onChan i f).pending = s.pending := rfl
@[simp] theorem State.onChan_free (s : State) (i : Nat) (f : Chan → Chan) : (s.onChan i f).free = s.free := rfl
@[simp] theorem State.onChan_mgtData (s : State) (i : Nat) (f : Chan → Chan) : (s.onChan i f).mgtData = s.mgtData := rfl
@[simp] theorem State.onChan_mgtErr (s : State) (i : Nat) (f : Chan → Chan) : (s.onChan i f).mgtErr = s.mgtErr := rfl
@[simp] theorem State.onChan_regs (s : State) (i : Nat) (f : Chan → Chan) : (s.onChan i f).regs = s.regs := rfl
@[simp] theorem State.onChan_mem (s : State) (i : Nat) (f : Chan → Chan) : (s.onChan i f).mem = s.mem := rfl
@[simp] theorem State.onChan_boot (s : State) (i : Nat) (f : Chan → Chan) : (s.onChan i f).boot = s.boot := rfl
@[simp] theorem State.onChan_img (s : State) (i : Nat) (f : Chan → Chan) : (s.onChan i f).img = s.img := rfl
@[simp] theorem State.onChan_units (s : State) (i : Nat) (f : Chan → Chan) : (s.onChan i f).units = s.units := rfl
@[simp] theorem State.onChan_stitch (s : State) (i : Nat) (f : Chan → Chan) : (s.onChan i f).stitch = s.stitch := rfl
@[simp] theorem State.onChan_seam (s : State) (i : Nat) (f : Chan → Chan) : (s.onChan i f).seam = s.seam := rfl
@[simp] theorem State.onChan_memp (s : State) (i : Nat) (f : Chan → Chan) : (s.onChan i f).memp = s.memp := rfl
@[simp] theorem State.onChan_hamper (s : State) (i : Nat) (f : Chan → Chan) : (s.onChan i f).hamper = s.hamper := rfl
@[simp] theorem State.onChan_ctx (s : State) (i : Nat) (f : Chan → Chan) : (s.onChan i f).ctx = s.ctx := rfl
@[simp] theorem State.onChan_parts (s : State) (i : Nat) (f : Chan → Chan) : (s.onChan i f).parts = s.parts := rfl
@[simp] theorem State.onChan_groups (s : State) (i : Nat) (f : Chan → Chan) : (s.onChan i f).groups = s.groups := rfl
@[simp] theorem State.onChan_press (s : State) (i : Nat) (f : Chan → Chan) : (s.onChan i f).press = s.press := rfl
@[simp] theorem State.onChan_leaks (s : State) (i : Nat) (f : Chan → Chan) : (s.onChan i f).leaks = s.leaks := rfl
@[simp] theorem State.onChan_cores (s : State) (i : Nat) (f : Chan → Chan) : (s.onChan i f).cores = s.cores := rfl
@[simp] theorem State.onChan_mgr (s : State) (i : Nat) (f : Chan → Chan) : (s.onChan i f).mgr = s.mgr := rfl
@[simp] theorem State.onChan_fold (s : State) (i : Nat) (f : Chan → Chan) : (s.onChan i f).fold = s.fold := rfl
@[simp] theorem State.onChan_power (s : State) (i : Nat) (f : Chan → Chan) : (s.onChan i f).power = s.power := rfl
@[simp] theorem State.onChan_recd (s : State) (i : Nat) (f : Chan → Chan) : (s.onChan i f).recd = s.recd := rfl
@[simp] theorem State.onChan_self (s : State) (i : Nat) (f : Chan → Chan) : (s.onChan i f).self = s.self := rfl
@[simp] theorem State.onChan_tabs (s : State) (i : Nat) (f : Chan → Chan) : (s.onChan i f).tabs = s.tabs := rfl
@[simp] theorem State.onChan_nextTag (s : State) (i : Nat) (f : Chan → Chan) : (s.onChan i f).nextTag = s.nextTag := rfl

@[simp] theorem State.onStep_pending (s : State) (p : Nat) (f : StepSt → StepSt) :
    (s.onStep p f).pending = s.pending := rfl
@[simp] theorem State.onStep_free (s : State) (p : Nat) (f : StepSt → StepSt) : (s.onStep p f).free = s.free := rfl
@[simp] theorem State.onStep_mgtData (s : State) (p : Nat) (f : StepSt → StepSt) :
    (s.onStep p f).mgtData = s.mgtData := rfl
@[simp] theorem State.onStep_mgtErr (s : State) (p : Nat) (f : StepSt → StepSt) :
    (s.onStep p f).mgtErr = s.mgtErr := rfl
@[simp] theorem State.onStep_regs (s : State) (p : Nat) (f : StepSt → StepSt) : (s.onStep p f).regs = s.regs := rfl
@[simp] theorem State.onStep_mem (s : State) (p : Nat) (f : StepSt → StepSt) : (s.onStep p f).mem = s.mem := rfl
@[simp] theorem State.onStep_boot (s : State) (p : Nat) (f : StepSt → StepSt) : (s.onStep p f).boot = s.boot := rfl
@[simp] theorem State.onStep_img (s : State) (p : Nat) (f : StepSt → StepSt) : (s.onStep p f).img = s.img := rfl
@[simp] theorem State.onStep_units (s : State) (p : Nat) (f : StepSt → StepSt) : (s.onStep p f).units = s.units := rfl
@[simp] theorem State.onStep_stitch (s : State) (p : Nat) (f : StepSt → StepSt) :
    (s.onStep p f).stitch = s.stitch := rfl
@[simp] theorem State.onStep_seam (s : State) (p : Nat) (f : StepSt → StepSt) : (s.onStep p f).seam = s.seam := rfl
@[simp] theorem State.onStep_memp (s : State) (p : Nat) (f : StepSt → StepSt) : (s.onStep p f).memp = s.memp := rfl
@[simp] theorem State.onStep_hamper (s : State) (p : Nat) (f : StepSt → StepSt) :
    (s.onStep p f).hamper = s.hamper := rfl
@[simp] theorem State.onStep_ctx (s : State) (p : Nat) (f : StepSt → StepSt) : (s.onStep p f).ctx = s.ctx := rfl
@[simp] theorem State.onStep_groups (s : State) (p : Nat) (f : StepSt → StepSt) :
    (s.onStep p f).groups = s.groups := rfl
@[simp] theorem State.onStep_press (s : State) (p : Nat) (f : StepSt → StepSt) : (s.onStep p f).press = s.press := rfl
@[simp] theorem State.onStep_leaks (s : State) (p : Nat) (f : StepSt → StepSt) : (s.onStep p f).leaks = s.leaks := rfl
@[simp] theorem State.onStep_cores (s : State) (p : Nat) (f : StepSt → StepSt) : (s.onStep p f).cores = s.cores := rfl
@[simp] theorem State.onStep_link (s : State) (p : Nat) (f : StepSt → StepSt) : (s.onStep p f).link = s.link := rfl
@[simp] theorem State.onStep_mgr (s : State) (p : Nat) (f : StepSt → StepSt) : (s.onStep p f).mgr = s.mgr := rfl
@[simp] theorem State.onStep_fold (s : State) (p : Nat) (f : StepSt → StepSt) : (s.onStep p f).fold = s.fold := rfl
@[simp] theorem State.onStep_power (s : State) (p : Nat) (f : StepSt → StepSt) : (s.onStep p f).power = s.power := rfl
@[simp] theorem State.onStep_recd (s : State) (p : Nat) (f : StepSt → StepSt) : (s.onStep p f).recd = s.recd := rfl
@[simp] theorem State.onStep_self (s : State) (p : Nat) (f : StepSt → StepSt) : (s.onStep p f).self = s.self := rfl
@[simp] theorem State.onStep_tabs (s : State) (p : Nat) (f : StepSt → StepSt) : (s.onStep p f).tabs = s.tabs := rfl
@[simp] theorem State.onStep_nextTag (s : State) (p : Nat) (f : StepSt → StepSt) :
    (s.onStep p f).nextTag = s.nextTag := rfl

@[simp] theorem State.onPass_pending (s : State) (p l : Nat) (f : Pass → Pass) :
    (s.onPass p l f).pending = s.pending := rfl
@[simp] theorem State.onPass_free (s : State) (p l : Nat) (f : Pass → Pass) : (s.onPass p l f).free = s.free := rfl
@[simp] theorem State.onPass_mgtData (s : State) (p l : Nat) (f : Pass → Pass) :
    (s.onPass p l f).mgtData = s.mgtData := rfl
@[simp] theorem State.onPass_mgtErr (s : State) (p l : Nat) (f : Pass → Pass) :
    (s.onPass p l f).mgtErr = s.mgtErr := rfl
@[simp] theorem State.onPass_regs (s : State) (p l : Nat) (f : Pass → Pass) : (s.onPass p l f).regs = s.regs := rfl
@[simp] theorem State.onPass_mem (s : State) (p l : Nat) (f : Pass → Pass) : (s.onPass p l f).mem = s.mem := rfl
@[simp] theorem State.onPass_boot (s : State) (p l : Nat) (f : Pass → Pass) : (s.onPass p l f).boot = s.boot := rfl
@[simp] theorem State.onPass_img (s : State) (p l : Nat) (f : Pass → Pass) : (s.onPass p l f).img = s.img := rfl
@[simp] theorem State.onPass_units (s : State) (p l : Nat) (f : Pass → Pass) : (s.onPass p l f).units = s.units := rfl
@[simp] theorem State.onPass_stitch (s : State) (p l : Nat) (f : Pass → Pass) :
    (s.onPass p l f).stitch = s.stitch := rfl
@[simp] theorem State.onPass_seam (s : State) (p l : Nat) (f : Pass → Pass) : (s.onPass p l f).seam = s.seam := rfl
@[simp] theorem State.onPass_memp (s : State) (p l : Nat) (f : Pass → Pass) : (s.onPass p l f).memp = s.memp := rfl
@[simp] theorem State.onPass_hamper (s : State) (p l : Nat) (f : Pass → Pass) :
    (s.onPass p l f).hamper = s.hamper := rfl
@[simp] theorem State.onPass_ctx (s : State) (p l : Nat) (f : Pass → Pass) : (s.onPass p l f).ctx = s.ctx := rfl
@[simp] theorem State.onPass_groups (s : State) (p l : Nat) (f : Pass → Pass) :
    (s.onPass p l f).groups = s.groups := rfl
@[simp] theorem State.onPass_press (s : State) (p l : Nat) (f : Pass → Pass) : (s.onPass p l f).press = s.press := rfl
@[simp] theorem State.onPass_leaks (s : State) (p l : Nat) (f : Pass → Pass) : (s.onPass p l f).leaks = s.leaks := rfl
@[simp] theorem State.onPass_cores (s : State) (p l : Nat) (f : Pass → Pass) : (s.onPass p l f).cores = s.cores := rfl
@[simp] theorem State.onPass_link (s : State) (p l : Nat) (f : Pass → Pass) : (s.onPass p l f).link = s.link := rfl
@[simp] theorem State.onPass_mgr (s : State) (p l : Nat) (f : Pass → Pass) : (s.onPass p l f).mgr = s.mgr := rfl
@[simp] theorem State.onPass_fold (s : State) (p l : Nat) (f : Pass → Pass) : (s.onPass p l f).fold = s.fold := rfl
@[simp] theorem State.onPass_power (s : State) (p l : Nat) (f : Pass → Pass) : (s.onPass p l f).power = s.power := rfl
@[simp] theorem State.onPass_recd (s : State) (p l : Nat) (f : Pass → Pass) : (s.onPass p l f).recd = s.recd := rfl
@[simp] theorem State.onPass_self (s : State) (p l : Nat) (f : Pass → Pass) : (s.onPass p l f).self = s.self := rfl
@[simp] theorem State.onPass_tabs (s : State) (p l : Nat) (f : Pass → Pass) : (s.onPass p l f).tabs = s.tabs := rfl
@[simp] theorem State.onPass_nextTag (s : State) (p l : Nat) (f : Pass → Pass) :
    (s.onPass p l f).nextTag = s.nextTag := rfl

@[simp] theorem State.onMicro_pending (s : State) (p l m : Nat) (f : Micro → Micro) :
    (s.onMicro p l m f).pending = s.pending := rfl
@[simp] theorem State.onMicro_free (s : State) (p l m : Nat) (f : Micro → Micro) :
    (s.onMicro p l m f).free = s.free := rfl
@[simp] theorem State.onMicro_mgtData (s : State) (p l m : Nat) (f : Micro → Micro) :
    (s.onMicro p l m f).mgtData = s.mgtData := rfl
@[simp] theorem State.onMicro_mgtErr (s : State) (p l m : Nat) (f : Micro → Micro) :
    (s.onMicro p l m f).mgtErr = s.mgtErr := rfl
@[simp] theorem State.onMicro_regs (s : State) (p l m : Nat) (f : Micro → Micro) :
    (s.onMicro p l m f).regs = s.regs := rfl
@[simp] theorem State.onMicro_mem (s : State) (p l m : Nat) (f : Micro → Micro) : (s.onMicro p l m f).mem = s.mem := rfl
@[simp] theorem State.onMicro_boot (s : State) (p l m : Nat) (f : Micro → Micro) :
    (s.onMicro p l m f).boot = s.boot := rfl
@[simp] theorem State.onMicro_img (s : State) (p l m : Nat) (f : Micro → Micro) : (s.onMicro p l m f).img = s.img := rfl
@[simp] theorem State.onMicro_units (s : State) (p l m : Nat) (f : Micro → Micro) :
    (s.onMicro p l m f).units = s.units := rfl
@[simp] theorem State.onMicro_stitch (s : State) (p l m : Nat) (f : Micro → Micro) :
    (s.onMicro p l m f).stitch = s.stitch := rfl
@[simp] theorem State.onMicro_seam (s : State) (p l m : Nat) (f : Micro → Micro) :
    (s.onMicro p l m f).seam = s.seam := rfl
@[simp] theorem State.onMicro_memp (s : State) (p l m : Nat) (f : Micro → Micro) :
    (s.onMicro p l m f).memp = s.memp := rfl
@[simp] theorem State.onMicro_hamper (s : State) (p l m : Nat) (f : Micro → Micro) :
    (s.onMicro p l m f).hamper = s.hamper := rfl
@[simp] theorem State.onMicro_ctx (s : State) (p l m : Nat) (f : Micro → Micro) : (s.onMicro p l m f).ctx = s.ctx := rfl
@[simp] theorem State.onMicro_groups (s : State) (p l m : Nat) (f : Micro → Micro) :
    (s.onMicro p l m f).groups = s.groups := rfl
@[simp] theorem State.onMicro_press (s : State) (p l m : Nat) (f : Micro → Micro) :
    (s.onMicro p l m f).press = s.press := rfl
@[simp] theorem State.onMicro_leaks (s : State) (p l m : Nat) (f : Micro → Micro) :
    (s.onMicro p l m f).leaks = s.leaks := rfl
@[simp] theorem State.onMicro_cores (s : State) (p l m : Nat) (f : Micro → Micro) :
    (s.onMicro p l m f).cores = s.cores := rfl
@[simp] theorem State.onMicro_link (s : State) (p l m : Nat) (f : Micro → Micro) :
    (s.onMicro p l m f).link = s.link := rfl
@[simp] theorem State.onMicro_mgr (s : State) (p l m : Nat) (f : Micro → Micro) : (s.onMicro p l m f).mgr = s.mgr := rfl
@[simp] theorem State.onMicro_fold (s : State) (p l m : Nat) (f : Micro → Micro) :
    (s.onMicro p l m f).fold = s.fold := rfl
@[simp] theorem State.onMicro_power (s : State) (p l m : Nat) (f : Micro → Micro) :
    (s.onMicro p l m f).power = s.power := rfl
@[simp] theorem State.onMicro_recd (s : State) (p l m : Nat) (f : Micro → Micro) :
    (s.onMicro p l m f).recd = s.recd := rfl
@[simp] theorem State.onMicro_self (s : State) (p l m : Nat) (f : Micro → Micro) :
    (s.onMicro p l m f).self = s.self := rfl
@[simp] theorem State.onMicro_tabs (s : State) (p l m : Nat) (f : Micro → Micro) :
    (s.onMicro p l m f).tabs = s.tabs := rfl
@[simp] theorem State.onMicro_nextTag (s : State) (p l m : Nat) (f : Micro → Micro) :
    (s.onMicro p l m f).nextTag = s.nextTag := rfl

@[simp] theorem State.charge_pending (s : State) (k n : Nat) : (s.charge k n).pending = s.pending := rfl
@[simp] theorem State.charge_free (s : State) (k n : Nat) : (s.charge k n).free = s.free := rfl
@[simp] theorem State.charge_mgtData (s : State) (k n : Nat) : (s.charge k n).mgtData = s.mgtData := rfl
@[simp] theorem State.charge_mgtErr (s : State) (k n : Nat) : (s.charge k n).mgtErr = s.mgtErr := rfl
@[simp] theorem State.charge_regs (s : State) (k n : Nat) : (s.charge k n).regs = s.regs := rfl
@[simp] theorem State.charge_mem (s : State) (k n : Nat) : (s.charge k n).mem = s.mem := rfl
@[simp] theorem State.charge_boot (s : State) (k n : Nat) : (s.charge k n).boot = s.boot := rfl
@[simp] theorem State.charge_img (s : State) (k n : Nat) : (s.charge k n).img = s.img := rfl
@[simp] theorem State.charge_units (s : State) (k n : Nat) : (s.charge k n).units = s.units := rfl
@[simp] theorem State.charge_stitch (s : State) (k n : Nat) : (s.charge k n).stitch = s.stitch := rfl
@[simp] theorem State.charge_seam (s : State) (k n : Nat) : (s.charge k n).seam = s.seam := rfl
@[simp] theorem State.charge_memp (s : State) (k n : Nat) : (s.charge k n).memp = s.memp := rfl
@[simp] theorem State.charge_hamper (s : State) (k n : Nat) : (s.charge k n).hamper = s.hamper := rfl
@[simp] theorem State.charge_ctx (s : State) (k n : Nat) : (s.charge k n).ctx = s.ctx := rfl
@[simp] theorem State.charge_parts (s : State) (k n : Nat) : (s.charge k n).parts = s.parts := rfl
@[simp] theorem State.charge_groups (s : State) (k n : Nat) : (s.charge k n).groups = s.groups := rfl
@[simp] theorem State.charge_press (s : State) (k n : Nat) : (s.charge k n).press = s.press := rfl
@[simp] theorem State.charge_leaks (s : State) (k n : Nat) : (s.charge k n).leaks = s.leaks := rfl
@[simp] theorem State.charge_cores (s : State) (k n : Nat) : (s.charge k n).cores = s.cores := rfl
@[simp] theorem State.charge_link (s : State) (k n : Nat) : (s.charge k n).link = s.link := rfl
@[simp] theorem State.charge_mgr (s : State) (k n : Nat) : (s.charge k n).mgr = s.mgr := rfl
@[simp] theorem State.charge_fold (s : State) (k n : Nat) : (s.charge k n).fold = s.fold := rfl
@[simp] theorem State.charge_recd (s : State) (k n : Nat) : (s.charge k n).recd = s.recd := rfl
@[simp] theorem State.charge_self (s : State) (k n : Nat) : (s.charge k n).self = s.self := rfl
@[simp] theorem State.charge_tabs (s : State) (k n : Nat) : (s.charge k n).tabs = s.tabs := rfl
@[simp] theorem State.charge_nextTag (s : State) (k n : Nat) : (s.charge k n).nextTag = s.nextTag := rfl

@[simp] theorem State.wr_pending (s : State) (a : Nat) (bs : Bytes) (o : MemObj) :
    (s.wr a bs o).pending = s.pending := rfl
@[simp] theorem State.wr_free (s : State) (a : Nat) (bs : Bytes) (o : MemObj) : (s.wr a bs o).free = s.free := rfl
@[simp] theorem State.wr_mgtData (s : State) (a : Nat) (bs : Bytes) (o : MemObj) :
    (s.wr a bs o).mgtData = s.mgtData := rfl
@[simp] theorem State.wr_mgtErr (s : State) (a : Nat) (bs : Bytes) (o : MemObj) : (s.wr a bs o).mgtErr = s.mgtErr := rfl
@[simp] theorem State.wr_regs (s : State) (a : Nat) (bs : Bytes) (o : MemObj) : (s.wr a bs o).regs = s.regs := rfl
@[simp] theorem State.wr_boot (s : State) (a : Nat) (bs : Bytes) (o : MemObj) : (s.wr a bs o).boot = s.boot := rfl
@[simp] theorem State.wr_img (s : State) (a : Nat) (bs : Bytes) (o : MemObj) : (s.wr a bs o).img = s.img := rfl
@[simp] theorem State.wr_units (s : State) (a : Nat) (bs : Bytes) (o : MemObj) : (s.wr a bs o).units = s.units := rfl
@[simp] theorem State.wr_stitch (s : State) (a : Nat) (bs : Bytes) (o : MemObj) : (s.wr a bs o).stitch = s.stitch := rfl
@[simp] theorem State.wr_seam (s : State) (a : Nat) (bs : Bytes) (o : MemObj) : (s.wr a bs o).seam = s.seam := rfl
@[simp] theorem State.wr_hamper (s : State) (a : Nat) (bs : Bytes) (o : MemObj) : (s.wr a bs o).hamper = s.hamper := rfl
@[simp] theorem State.wr_ctx (s : State) (a : Nat) (bs : Bytes) (o : MemObj) : (s.wr a bs o).ctx = s.ctx := rfl
@[simp] theorem State.wr_parts (s : State) (a : Nat) (bs : Bytes) (o : MemObj) : (s.wr a bs o).parts = s.parts := rfl
@[simp] theorem State.wr_groups (s : State) (a : Nat) (bs : Bytes) (o : MemObj) : (s.wr a bs o).groups = s.groups := rfl
@[simp] theorem State.wr_press (s : State) (a : Nat) (bs : Bytes) (o : MemObj) : (s.wr a bs o).press = s.press := rfl
@[simp] theorem State.wr_leaks (s : State) (a : Nat) (bs : Bytes) (o : MemObj) : (s.wr a bs o).leaks = s.leaks := rfl
@[simp] theorem State.wr_cores (s : State) (a : Nat) (bs : Bytes) (o : MemObj) : (s.wr a bs o).cores = s.cores := rfl
@[simp] theorem State.wr_link (s : State) (a : Nat) (bs : Bytes) (o : MemObj) : (s.wr a bs o).link = s.link := rfl
@[simp] theorem State.wr_mgr (s : State) (a : Nat) (bs : Bytes) (o : MemObj) : (s.wr a bs o).mgr = s.mgr := rfl
@[simp] theorem State.wr_fold (s : State) (a : Nat) (bs : Bytes) (o : MemObj) : (s.wr a bs o).fold = s.fold := rfl
@[simp] theorem State.wr_recd (s : State) (a : Nat) (bs : Bytes) (o : MemObj) : (s.wr a bs o).recd = s.recd := rfl
@[simp] theorem State.wr_self (s : State) (a : Nat) (bs : Bytes) (o : MemObj) : (s.wr a bs o).self = s.self := rfl
@[simp] theorem State.wr_tabs (s : State) (a : Nat) (bs : Bytes) (o : MemObj) : (s.wr a bs o).tabs = s.tabs := rfl
@[simp] theorem State.wr_nextTag (s : State) (a : Nat) (bs : Bytes) (o : MemObj) :
    (s.wr a bs o).nextTag = s.nextTag := rfl

@[simp] theorem State.issueRead_pending (s : State) (a n : Nat) (o : MemObj) :
    (s.issueRead a n o).pending = s.pending := rfl
@[simp] theorem State.issueRead_free (s : State) (a n : Nat) (o : MemObj) : (s.issueRead a n o).free = s.free := rfl
@[simp] theorem State.issueRead_mgtData (s : State) (a n : Nat) (o : MemObj) :
    (s.issueRead a n o).mgtData = s.mgtData := rfl
@[simp] theorem State.issueRead_mgtErr (s : State) (a n : Nat) (o : MemObj) :
    (s.issueRead a n o).mgtErr = s.mgtErr := rfl
@[simp] theorem State.issueRead_regs (s : State) (a n : Nat) (o : MemObj) : (s.issueRead a n o).regs = s.regs := rfl
@[simp] theorem State.issueRead_mem (s : State) (a n : Nat) (o : MemObj) : (s.issueRead a n o).mem = s.mem := rfl
@[simp] theorem State.issueRead_boot (s : State) (a n : Nat) (o : MemObj) : (s.issueRead a n o).boot = s.boot := rfl
@[simp] theorem State.issueRead_img (s : State) (a n : Nat) (o : MemObj) : (s.issueRead a n o).img = s.img := rfl
@[simp] theorem State.issueRead_units (s : State) (a n : Nat) (o : MemObj) : (s.issueRead a n o).units = s.units := rfl
@[simp] theorem State.issueRead_stitch (s : State) (a n : Nat) (o : MemObj) :
    (s.issueRead a n o).stitch = s.stitch := rfl
@[simp] theorem State.issueRead_seam (s : State) (a n : Nat) (o : MemObj) : (s.issueRead a n o).seam = s.seam := rfl
@[simp] theorem State.issueRead_hamper (s : State) (a n : Nat) (o : MemObj) :
    (s.issueRead a n o).hamper = s.hamper := rfl
@[simp] theorem State.issueRead_ctx (s : State) (a n : Nat) (o : MemObj) : (s.issueRead a n o).ctx = s.ctx := rfl
@[simp] theorem State.issueRead_parts (s : State) (a n : Nat) (o : MemObj) : (s.issueRead a n o).parts = s.parts := rfl
@[simp] theorem State.issueRead_groups (s : State) (a n : Nat) (o : MemObj) :
    (s.issueRead a n o).groups = s.groups := rfl
@[simp] theorem State.issueRead_press (s : State) (a n : Nat) (o : MemObj) : (s.issueRead a n o).press = s.press := rfl
@[simp] theorem State.issueRead_leaks (s : State) (a n : Nat) (o : MemObj) : (s.issueRead a n o).leaks = s.leaks := rfl
@[simp] theorem State.issueRead_cores (s : State) (a n : Nat) (o : MemObj) : (s.issueRead a n o).cores = s.cores := rfl
@[simp] theorem State.issueRead_link (s : State) (a n : Nat) (o : MemObj) : (s.issueRead a n o).link = s.link := rfl
@[simp] theorem State.issueRead_mgr (s : State) (a n : Nat) (o : MemObj) : (s.issueRead a n o).mgr = s.mgr := rfl
@[simp] theorem State.issueRead_fold (s : State) (a n : Nat) (o : MemObj) : (s.issueRead a n o).fold = s.fold := rfl
@[simp] theorem State.issueRead_recd (s : State) (a n : Nat) (o : MemObj) : (s.issueRead a n o).recd = s.recd := rfl
@[simp] theorem State.issueRead_self (s : State) (a n : Nat) (o : MemObj) : (s.issueRead a n o).self = s.self := rfl
@[simp] theorem State.issueRead_tabs (s : State) (a n : Nat) (o : MemObj) : (s.issueRead a n o).tabs = s.tabs := rfl
@[simp] theorem State.issueRead_nextTag (s : State) (a n : Nat) (o : MemObj) :
    (s.issueRead a n o).nextTag = s.nextTag := rfl

@[simp] theorem State.askReads_pending (s : State) (ps : List (Nat × Nat)) (o : MemObj) :
    (s.askReads ps o).pending = s.pending := rfl
@[simp] theorem State.askReads_free (s : State) (ps : List (Nat × Nat)) (o : MemObj) :
    (s.askReads ps o).free = s.free := rfl
@[simp] theorem State.askReads_mgtData (s : State) (ps : List (Nat × Nat)) (o : MemObj) :
    (s.askReads ps o).mgtData = s.mgtData := rfl
@[simp] theorem State.askReads_mgtErr (s : State) (ps : List (Nat × Nat)) (o : MemObj) :
    (s.askReads ps o).mgtErr = s.mgtErr := rfl
@[simp] theorem State.askReads_regs (s : State) (ps : List (Nat × Nat)) (o : MemObj) :
    (s.askReads ps o).regs = s.regs := rfl
@[simp] theorem State.askReads_mem (s : State) (ps : List (Nat × Nat)) (o : MemObj) :
    (s.askReads ps o).mem = s.mem := rfl
@[simp] theorem State.askReads_boot (s : State) (ps : List (Nat × Nat)) (o : MemObj) :
    (s.askReads ps o).boot = s.boot := rfl
@[simp] theorem State.askReads_img (s : State) (ps : List (Nat × Nat)) (o : MemObj) :
    (s.askReads ps o).img = s.img := rfl
@[simp] theorem State.askReads_units (s : State) (ps : List (Nat × Nat)) (o : MemObj) :
    (s.askReads ps o).units = s.units := rfl
@[simp] theorem State.askReads_stitch (s : State) (ps : List (Nat × Nat)) (o : MemObj) :
    (s.askReads ps o).stitch = s.stitch := rfl
@[simp] theorem State.askReads_seam (s : State) (ps : List (Nat × Nat)) (o : MemObj) :
    (s.askReads ps o).seam = s.seam := rfl
@[simp] theorem State.askReads_hamper (s : State) (ps : List (Nat × Nat)) (o : MemObj) :
    (s.askReads ps o).hamper = s.hamper := rfl
@[simp] theorem State.askReads_ctx (s : State) (ps : List (Nat × Nat)) (o : MemObj) :
    (s.askReads ps o).ctx = s.ctx := rfl
@[simp] theorem State.askReads_parts (s : State) (ps : List (Nat × Nat)) (o : MemObj) :
    (s.askReads ps o).parts = s.parts := rfl
@[simp] theorem State.askReads_groups (s : State) (ps : List (Nat × Nat)) (o : MemObj) :
    (s.askReads ps o).groups = s.groups := rfl
@[simp] theorem State.askReads_press (s : State) (ps : List (Nat × Nat)) (o : MemObj) :
    (s.askReads ps o).press = s.press := rfl
@[simp] theorem State.askReads_leaks (s : State) (ps : List (Nat × Nat)) (o : MemObj) :
    (s.askReads ps o).leaks = s.leaks := rfl
@[simp] theorem State.askReads_cores (s : State) (ps : List (Nat × Nat)) (o : MemObj) :
    (s.askReads ps o).cores = s.cores := rfl
@[simp] theorem State.askReads_link (s : State) (ps : List (Nat × Nat)) (o : MemObj) :
    (s.askReads ps o).link = s.link := rfl
@[simp] theorem State.askReads_mgr (s : State) (ps : List (Nat × Nat)) (o : MemObj) :
    (s.askReads ps o).mgr = s.mgr := rfl
@[simp] theorem State.askReads_fold (s : State) (ps : List (Nat × Nat)) (o : MemObj) :
    (s.askReads ps o).fold = s.fold := rfl
@[simp] theorem State.askReads_recd (s : State) (ps : List (Nat × Nat)) (o : MemObj) :
    (s.askReads ps o).recd = s.recd := rfl
@[simp] theorem State.askReads_self (s : State) (ps : List (Nat × Nat)) (o : MemObj) :
    (s.askReads ps o).self = s.self := rfl
@[simp] theorem State.askReads_tabs (s : State) (ps : List (Nat × Nat)) (o : MemObj) :
    (s.askReads ps o).tabs = s.tabs := rfl
@[simp] theorem State.askReads_nextTag (s : State) (ps : List (Nat × Nat)) (o : MemObj) :
    (s.askReads ps o).nextTag = s.nextTag := rfl

@[simp] theorem State.askWrites_pending (s : State) (ps : List (Nat × Nat)) (o : MemObj) :
    (s.askWrites ps o).pending = s.pending := rfl
@[simp] theorem State.askWrites_free (s : State) (ps : List (Nat × Nat)) (o : MemObj) :
    (s.askWrites ps o).free = s.free := rfl
@[simp] theorem State.askWrites_mgtData (s : State) (ps : List (Nat × Nat)) (o : MemObj) :
    (s.askWrites ps o).mgtData = s.mgtData := rfl
@[simp] theorem State.askWrites_mgtErr (s : State) (ps : List (Nat × Nat)) (o : MemObj) :
    (s.askWrites ps o).mgtErr = s.mgtErr := rfl
@[simp] theorem State.askWrites_regs (s : State) (ps : List (Nat × Nat)) (o : MemObj) :
    (s.askWrites ps o).regs = s.regs := rfl
@[simp] theorem State.askWrites_mem (s : State) (ps : List (Nat × Nat)) (o : MemObj) :
    (s.askWrites ps o).mem = s.mem := rfl
@[simp] theorem State.askWrites_boot (s : State) (ps : List (Nat × Nat)) (o : MemObj) :
    (s.askWrites ps o).boot = s.boot := rfl
@[simp] theorem State.askWrites_img (s : State) (ps : List (Nat × Nat)) (o : MemObj) :
    (s.askWrites ps o).img = s.img := rfl
@[simp] theorem State.askWrites_units (s : State) (ps : List (Nat × Nat)) (o : MemObj) :
    (s.askWrites ps o).units = s.units := rfl
@[simp] theorem State.askWrites_stitch (s : State) (ps : List (Nat × Nat)) (o : MemObj) :
    (s.askWrites ps o).stitch = s.stitch := rfl
@[simp] theorem State.askWrites_seam (s : State) (ps : List (Nat × Nat)) (o : MemObj) :
    (s.askWrites ps o).seam = s.seam := rfl
@[simp] theorem State.askWrites_hamper (s : State) (ps : List (Nat × Nat)) (o : MemObj) :
    (s.askWrites ps o).hamper = s.hamper := rfl
@[simp] theorem State.askWrites_ctx (s : State) (ps : List (Nat × Nat)) (o : MemObj) :
    (s.askWrites ps o).ctx = s.ctx := rfl
@[simp] theorem State.askWrites_parts (s : State) (ps : List (Nat × Nat)) (o : MemObj) :
    (s.askWrites ps o).parts = s.parts := rfl
@[simp] theorem State.askWrites_groups (s : State) (ps : List (Nat × Nat)) (o : MemObj) :
    (s.askWrites ps o).groups = s.groups := rfl
@[simp] theorem State.askWrites_press (s : State) (ps : List (Nat × Nat)) (o : MemObj) :
    (s.askWrites ps o).press = s.press := rfl
@[simp] theorem State.askWrites_leaks (s : State) (ps : List (Nat × Nat)) (o : MemObj) :
    (s.askWrites ps o).leaks = s.leaks := rfl
@[simp] theorem State.askWrites_cores (s : State) (ps : List (Nat × Nat)) (o : MemObj) :
    (s.askWrites ps o).cores = s.cores := rfl
@[simp] theorem State.askWrites_link (s : State) (ps : List (Nat × Nat)) (o : MemObj) :
    (s.askWrites ps o).link = s.link := rfl
@[simp] theorem State.askWrites_mgr (s : State) (ps : List (Nat × Nat)) (o : MemObj) :
    (s.askWrites ps o).mgr = s.mgr := rfl
@[simp] theorem State.askWrites_fold (s : State) (ps : List (Nat × Nat)) (o : MemObj) :
    (s.askWrites ps o).fold = s.fold := rfl
@[simp] theorem State.askWrites_recd (s : State) (ps : List (Nat × Nat)) (o : MemObj) :
    (s.askWrites ps o).recd = s.recd := rfl
@[simp] theorem State.askWrites_self (s : State) (ps : List (Nat × Nat)) (o : MemObj) :
    (s.askWrites ps o).self = s.self := rfl
@[simp] theorem State.askWrites_tabs (s : State) (ps : List (Nat × Nat)) (o : MemObj) :
    (s.askWrites ps o).tabs = s.tabs := rfl
@[simp] theorem State.askWrites_nextTag (s : State) (ps : List (Nat × Nat)) (o : MemObj) :
    (s.askWrites ps o).nextTag = s.nextTag := rfl

@[simp] theorem State.issueNow_pending (s : State) (rs : List ReadReq) (ws : List WriteReq) :
    (s.issueNow rs ws).pending = s.pending := rfl
@[simp] theorem State.issueNow_free (s : State) (rs : List ReadReq) (ws : List WriteReq) :
    (s.issueNow rs ws).free = s.free := rfl
@[simp] theorem State.issueNow_mgtData (s : State) (rs : List ReadReq) (ws : List WriteReq) :
    (s.issueNow rs ws).mgtData = s.mgtData := rfl
@[simp] theorem State.issueNow_mgtErr (s : State) (rs : List ReadReq) (ws : List WriteReq) :
    (s.issueNow rs ws).mgtErr = s.mgtErr := rfl
@[simp] theorem State.issueNow_regs (s : State) (rs : List ReadReq) (ws : List WriteReq) :
    (s.issueNow rs ws).regs = s.regs := rfl
@[simp] theorem State.issueNow_mem (s : State) (rs : List ReadReq) (ws : List WriteReq) :
    (s.issueNow rs ws).mem = s.mem := rfl
@[simp] theorem State.issueNow_boot (s : State) (rs : List ReadReq) (ws : List WriteReq) :
    (s.issueNow rs ws).boot = s.boot := rfl
@[simp] theorem State.issueNow_img (s : State) (rs : List ReadReq) (ws : List WriteReq) :
    (s.issueNow rs ws).img = s.img := rfl
@[simp] theorem State.issueNow_units (s : State) (rs : List ReadReq) (ws : List WriteReq) :
    (s.issueNow rs ws).units = s.units := rfl
@[simp] theorem State.issueNow_stitch (s : State) (rs : List ReadReq) (ws : List WriteReq) :
    (s.issueNow rs ws).stitch = s.stitch := rfl
@[simp] theorem State.issueNow_seam (s : State) (rs : List ReadReq) (ws : List WriteReq) :
    (s.issueNow rs ws).seam = s.seam := rfl
@[simp] theorem State.issueNow_hamper (s : State) (rs : List ReadReq) (ws : List WriteReq) :
    (s.issueNow rs ws).hamper = s.hamper := rfl
@[simp] theorem State.issueNow_ctx (s : State) (rs : List ReadReq) (ws : List WriteReq) :
    (s.issueNow rs ws).ctx = s.ctx := rfl
@[simp] theorem State.issueNow_parts (s : State) (rs : List ReadReq) (ws : List WriteReq) :
    (s.issueNow rs ws).parts = s.parts := rfl
@[simp] theorem State.issueNow_groups (s : State) (rs : List ReadReq) (ws : List WriteReq) :
    (s.issueNow rs ws).groups = s.groups := rfl
@[simp] theorem State.issueNow_press (s : State) (rs : List ReadReq) (ws : List WriteReq) :
    (s.issueNow rs ws).press = s.press := rfl
@[simp] theorem State.issueNow_leaks (s : State) (rs : List ReadReq) (ws : List WriteReq) :
    (s.issueNow rs ws).leaks = s.leaks := rfl
@[simp] theorem State.issueNow_cores (s : State) (rs : List ReadReq) (ws : List WriteReq) :
    (s.issueNow rs ws).cores = s.cores := rfl
@[simp] theorem State.issueNow_link (s : State) (rs : List ReadReq) (ws : List WriteReq) :
    (s.issueNow rs ws).link = s.link := rfl
@[simp] theorem State.issueNow_mgr (s : State) (rs : List ReadReq) (ws : List WriteReq) :
    (s.issueNow rs ws).mgr = s.mgr := rfl
@[simp] theorem State.issueNow_fold (s : State) (rs : List ReadReq) (ws : List WriteReq) :
    (s.issueNow rs ws).fold = s.fold := rfl
@[simp] theorem State.issueNow_recd (s : State) (rs : List ReadReq) (ws : List WriteReq) :
    (s.issueNow rs ws).recd = s.recd := rfl
@[simp] theorem State.issueNow_self (s : State) (rs : List ReadReq) (ws : List WriteReq) :
    (s.issueNow rs ws).self = s.self := rfl
@[simp] theorem State.issueNow_tabs (s : State) (rs : List ReadReq) (ws : List WriteReq) :
    (s.issueNow rs ws).tabs = s.tabs := rfl
@[simp] theorem State.issueNow_nextTag (s : State) (rs : List ReadReq) (ws : List WriteReq) :
    (s.issueNow rs ws).nextTag = s.nextTag := rfl

@[simp] theorem State.issueSlots_pending (s : State) : (s.issueSlots).pending = s.pending := rfl
@[simp] theorem State.issueSlots_free (s : State) : (s.issueSlots).free = s.free := rfl
@[simp] theorem State.issueSlots_mgtData (s : State) : (s.issueSlots).mgtData = s.mgtData := rfl
@[simp] theorem State.issueSlots_mgtErr (s : State) : (s.issueSlots).mgtErr = s.mgtErr := rfl
@[simp] theorem State.issueSlots_regs (s : State) : (s.issueSlots).regs = s.regs := rfl
@[simp] theorem State.issueSlots_mem (s : State) : (s.issueSlots).mem = s.mem := rfl
@[simp] theorem State.issueSlots_boot (s : State) : (s.issueSlots).boot = s.boot := rfl
@[simp] theorem State.issueSlots_img (s : State) : (s.issueSlots).img = s.img := rfl
@[simp] theorem State.issueSlots_units (s : State) : (s.issueSlots).units = s.units := rfl
@[simp] theorem State.issueSlots_stitch (s : State) : (s.issueSlots).stitch = s.stitch := rfl
@[simp] theorem State.issueSlots_seam (s : State) : (s.issueSlots).seam = s.seam := rfl
@[simp] theorem State.issueSlots_hamper (s : State) : (s.issueSlots).hamper = s.hamper := rfl
@[simp] theorem State.issueSlots_ctx (s : State) : (s.issueSlots).ctx = s.ctx := rfl
@[simp] theorem State.issueSlots_parts (s : State) : (s.issueSlots).parts = s.parts := rfl
@[simp] theorem State.issueSlots_groups (s : State) : (s.issueSlots).groups = s.groups := rfl
@[simp] theorem State.issueSlots_press (s : State) : (s.issueSlots).press = s.press := rfl
@[simp] theorem State.issueSlots_leaks (s : State) : (s.issueSlots).leaks = s.leaks := rfl
@[simp] theorem State.issueSlots_cores (s : State) : (s.issueSlots).cores = s.cores := rfl
@[simp] theorem State.issueSlots_link (s : State) : (s.issueSlots).link = s.link := rfl
@[simp] theorem State.issueSlots_mgr (s : State) : (s.issueSlots).mgr = s.mgr := rfl
@[simp] theorem State.issueSlots_fold (s : State) : (s.issueSlots).fold = s.fold := rfl
@[simp] theorem State.issueSlots_recd (s : State) : (s.issueSlots).recd = s.recd := rfl
@[simp] theorem State.issueSlots_self (s : State) : (s.issueSlots).self = s.self := rfl
@[simp] theorem State.issueSlots_tabs (s : State) : (s.issueSlots).tabs = s.tabs := rfl
@[simp] theorem State.issueSlots_nextTag (s : State) : (s.issueSlots).nextTag = s.nextTag := rfl

@[simp] theorem State.leakMark_pending (s : State) (k : Nat) : (s.leakMark k).pending = s.pending := rfl
@[simp] theorem State.leakMark_free (s : State) (k : Nat) : (s.leakMark k).free = s.free := rfl
@[simp] theorem State.leakMark_mgtData (s : State) (k : Nat) : (s.leakMark k).mgtData = s.mgtData := rfl
@[simp] theorem State.leakMark_mgtErr (s : State) (k : Nat) : (s.leakMark k).mgtErr = s.mgtErr := rfl
@[simp] theorem State.leakMark_regs (s : State) (k : Nat) : (s.leakMark k).regs = s.regs := rfl
@[simp] theorem State.leakMark_mem (s : State) (k : Nat) : (s.leakMark k).mem = s.mem := rfl
@[simp] theorem State.leakMark_boot (s : State) (k : Nat) : (s.leakMark k).boot = s.boot := rfl
@[simp] theorem State.leakMark_img (s : State) (k : Nat) : (s.leakMark k).img = s.img := rfl
@[simp] theorem State.leakMark_units (s : State) (k : Nat) : (s.leakMark k).units = s.units := rfl
@[simp] theorem State.leakMark_stitch (s : State) (k : Nat) : (s.leakMark k).stitch = s.stitch := rfl
@[simp] theorem State.leakMark_seam (s : State) (k : Nat) : (s.leakMark k).seam = s.seam := rfl
@[simp] theorem State.leakMark_memp (s : State) (k : Nat) : (s.leakMark k).memp = s.memp := rfl
@[simp] theorem State.leakMark_hamper (s : State) (k : Nat) : (s.leakMark k).hamper = s.hamper := rfl
@[simp] theorem State.leakMark_ctx (s : State) (k : Nat) : (s.leakMark k).ctx = s.ctx := rfl
@[simp] theorem State.leakMark_parts (s : State) (k : Nat) : (s.leakMark k).parts = s.parts := rfl
@[simp] theorem State.leakMark_groups (s : State) (k : Nat) : (s.leakMark k).groups = s.groups := rfl
@[simp] theorem State.leakMark_press (s : State) (k : Nat) : (s.leakMark k).press = s.press := rfl
@[simp] theorem State.leakMark_cores (s : State) (k : Nat) : (s.leakMark k).cores = s.cores := rfl
@[simp] theorem State.leakMark_link (s : State) (k : Nat) : (s.leakMark k).link = s.link := rfl
@[simp] theorem State.leakMark_mgr (s : State) (k : Nat) : (s.leakMark k).mgr = s.mgr := rfl
@[simp] theorem State.leakMark_fold (s : State) (k : Nat) : (s.leakMark k).fold = s.fold := rfl
@[simp] theorem State.leakMark_power (s : State) (k : Nat) : (s.leakMark k).power = s.power := rfl
@[simp] theorem State.leakMark_recd (s : State) (k : Nat) : (s.leakMark k).recd = s.recd := rfl
@[simp] theorem State.leakMark_self (s : State) (k : Nat) : (s.leakMark k).self = s.self := rfl
@[simp] theorem State.leakMark_tabs (s : State) (k : Nat) : (s.leakMark k).tabs = s.tabs := rfl
@[simp] theorem State.leakMark_nextTag (s : State) (k : Nat) : (s.leakMark k).nextTag = s.nextTag := rfl

@[simp] theorem State.flash_pending (s : State) (ops : List (Nat × Option Bytes)) :
    (s.flash ops).pending = s.pending := rfl
@[simp] theorem State.flash_free (s : State) (ops : List (Nat × Option Bytes)) : (s.flash ops).free = s.free := rfl
@[simp] theorem State.flash_mgtData (s : State) (ops : List (Nat × Option Bytes)) :
    (s.flash ops).mgtData = s.mgtData := rfl
@[simp] theorem State.flash_mgtErr (s : State) (ops : List (Nat × Option Bytes)) :
    (s.flash ops).mgtErr = s.mgtErr := rfl
@[simp] theorem State.flash_regs (s : State) (ops : List (Nat × Option Bytes)) : (s.flash ops).regs = s.regs := rfl
@[simp] theorem State.flash_mem (s : State) (ops : List (Nat × Option Bytes)) : (s.flash ops).mem = s.mem := rfl
@[simp] theorem State.flash_boot (s : State) (ops : List (Nat × Option Bytes)) : (s.flash ops).boot = s.boot := rfl
@[simp] theorem State.flash_img (s : State) (ops : List (Nat × Option Bytes)) : (s.flash ops).img = s.img := rfl
@[simp] theorem State.flash_units (s : State) (ops : List (Nat × Option Bytes)) : (s.flash ops).units = s.units := rfl
@[simp] theorem State.flash_stitch (s : State) (ops : List (Nat × Option Bytes)) :
    (s.flash ops).stitch = s.stitch := rfl
@[simp] theorem State.flash_seam (s : State) (ops : List (Nat × Option Bytes)) : (s.flash ops).seam = s.seam := rfl
@[simp] theorem State.flash_memp (s : State) (ops : List (Nat × Option Bytes)) : (s.flash ops).memp = s.memp := rfl
@[simp] theorem State.flash_hamper (s : State) (ops : List (Nat × Option Bytes)) :
    (s.flash ops).hamper = s.hamper := rfl
@[simp] theorem State.flash_ctx (s : State) (ops : List (Nat × Option Bytes)) : (s.flash ops).ctx = s.ctx := rfl
@[simp] theorem State.flash_parts (s : State) (ops : List (Nat × Option Bytes)) : (s.flash ops).parts = s.parts := rfl
@[simp] theorem State.flash_groups (s : State) (ops : List (Nat × Option Bytes)) :
    (s.flash ops).groups = s.groups := rfl
@[simp] theorem State.flash_press (s : State) (ops : List (Nat × Option Bytes)) : (s.flash ops).press = s.press := rfl
@[simp] theorem State.flash_leaks (s : State) (ops : List (Nat × Option Bytes)) : (s.flash ops).leaks = s.leaks := rfl
@[simp] theorem State.flash_cores (s : State) (ops : List (Nat × Option Bytes)) : (s.flash ops).cores = s.cores := rfl
@[simp] theorem State.flash_link (s : State) (ops : List (Nat × Option Bytes)) : (s.flash ops).link = s.link := rfl
@[simp] theorem State.flash_mgr (s : State) (ops : List (Nat × Option Bytes)) : (s.flash ops).mgr = s.mgr := rfl
@[simp] theorem State.flash_fold (s : State) (ops : List (Nat × Option Bytes)) : (s.flash ops).fold = s.fold := rfl
@[simp] theorem State.flash_power (s : State) (ops : List (Nat × Option Bytes)) : (s.flash ops).power = s.power := rfl
@[simp] theorem State.flash_self (s : State) (ops : List (Nat × Option Bytes)) : (s.flash ops).self = s.self := rfl
@[simp] theorem State.flash_tabs (s : State) (ops : List (Nat × Option Bytes)) : (s.flash ops).tabs = s.tabs := rfl
@[simp] theorem State.flash_nextTag (s : State) (ops : List (Nat × Option Bytes)) :
    (s.flash ops).nextTag = s.nextTag := rfl

@[simp] theorem State.hostWrites_pending (s : State) (ws : List HostWrite) :
    (s.hostWrites ws).pending = s.pending := rfl
@[simp] theorem State.hostWrites_free (s : State) (ws : List HostWrite) : (s.hostWrites ws).free = s.free := rfl
@[simp] theorem State.hostWrites_mgtData (s : State) (ws : List HostWrite) :
    (s.hostWrites ws).mgtData = s.mgtData := rfl
@[simp] theorem State.hostWrites_mgtErr (s : State) (ws : List HostWrite) : (s.hostWrites ws).mgtErr = s.mgtErr := rfl
@[simp] theorem State.hostWrites_regs (s : State) (ws : List HostWrite) : (s.hostWrites ws).regs = s.regs := rfl
@[simp] theorem State.hostWrites_boot (s : State) (ws : List HostWrite) : (s.hostWrites ws).boot = s.boot := rfl
@[simp] theorem State.hostWrites_img (s : State) (ws : List HostWrite) : (s.hostWrites ws).img = s.img := rfl
@[simp] theorem State.hostWrites_units (s : State) (ws : List HostWrite) : (s.hostWrites ws).units = s.units := rfl
@[simp] theorem State.hostWrites_stitch (s : State) (ws : List HostWrite) : (s.hostWrites ws).stitch = s.stitch := rfl
@[simp] theorem State.hostWrites_seam (s : State) (ws : List HostWrite) : (s.hostWrites ws).seam = s.seam := rfl
@[simp] theorem State.hostWrites_memp (s : State) (ws : List HostWrite) : (s.hostWrites ws).memp = s.memp := rfl
@[simp] theorem State.hostWrites_hamper (s : State) (ws : List HostWrite) : (s.hostWrites ws).hamper = s.hamper := rfl
@[simp] theorem State.hostWrites_ctx (s : State) (ws : List HostWrite) : (s.hostWrites ws).ctx = s.ctx := rfl
@[simp] theorem State.hostWrites_parts (s : State) (ws : List HostWrite) : (s.hostWrites ws).parts = s.parts := rfl
@[simp] theorem State.hostWrites_groups (s : State) (ws : List HostWrite) : (s.hostWrites ws).groups = s.groups := rfl
@[simp] theorem State.hostWrites_press (s : State) (ws : List HostWrite) : (s.hostWrites ws).press = s.press := rfl
@[simp] theorem State.hostWrites_leaks (s : State) (ws : List HostWrite) : (s.hostWrites ws).leaks = s.leaks := rfl
@[simp] theorem State.hostWrites_cores (s : State) (ws : List HostWrite) : (s.hostWrites ws).cores = s.cores := rfl
@[simp] theorem State.hostWrites_link (s : State) (ws : List HostWrite) : (s.hostWrites ws).link = s.link := rfl
@[simp] theorem State.hostWrites_mgr (s : State) (ws : List HostWrite) : (s.hostWrites ws).mgr = s.mgr := rfl
@[simp] theorem State.hostWrites_fold (s : State) (ws : List HostWrite) : (s.hostWrites ws).fold = s.fold := rfl
@[simp] theorem State.hostWrites_power (s : State) (ws : List HostWrite) : (s.hostWrites ws).power = s.power := rfl
@[simp] theorem State.hostWrites_recd (s : State) (ws : List HostWrite) : (s.hostWrites ws).recd = s.recd := rfl
@[simp] theorem State.hostWrites_self (s : State) (ws : List HostWrite) : (s.hostWrites ws).self = s.self := rfl
@[simp] theorem State.hostWrites_tabs (s : State) (ws : List HostWrite) : (s.hostWrites ws).tabs = s.tabs := rfl
@[simp] theorem State.hostWrites_nextTag (s : State) (ws : List HostWrite) :
    (s.hostWrites ws).nextTag = s.nextTag := rfl

/-! ### What an element reads after an update -/

/-- A word is read where it was stored, and every other word is as before. -/
theorem State.reg_setReg (s : State) (a b : Nat) (v : Word) (h : spWf s.regs = true) :
    (s.setReg a v).reg b = if b = a then v else s.reg b := by
  unfold State.setReg State.reg
  simp [spGet_spSet, h]

/-- A partition that is there takes its update, and the others are as before. -/
theorem State.part_onPart (s : State) (p q : Nat) (f : Part → Part) (h : p < s.parts.length) :
    (s.onPart p f).part q = if p = q then f (s.part q) else s.part q := by
  unfold State.onPart State.part
  rw [getD_setAt]
  by_cases e : p = q
  · subst e; simp [h]
  · simp [e]

/-- A group that is there takes its update, and the others are as before. -/
theorem State.group_onGroup (s : State) (g k : Nat) (f : Group → Group) (h : g < s.groups.length) :
    (s.onGroup g f).group k = if g = k then f (s.group k) else s.group k := by
  unfold State.onGroup State.group
  rw [getD_setAt]
  by_cases e : g = k
  · subst e; simp [h]
  · simp [e]

/-- A port that is there takes its update, and the others are as before. -/
theorem State.port_onPort (s : State) (p q : Nat) (f : Port → Port) (h : p < s.link.ports.length) :
    (s.onPort p f).port q = if p = q then f (s.port q) else s.port q := by
  unfold State.onPort State.port
  rw [getD_setAt]
  by_cases e : p = q
  · subst e; simp [h]
  · simp [e]

/-- A step in progress takes its update. -/
theorem State.step_onStep (s : State) (p : Nat) (f : StepSt → StepSt) (h : p < s.parts.length) :
    ((s.onStep p f).part p).step = (s.part p).step.map f := by
  unfold State.onStep
  simp [State.part_onPart, h]

/-- Every byte outside a write is as before. -/
theorem State.byte_wr (s : State) (a k : Nat) (bs : Bytes) (o : MemObj) (h : spWf s.mem = true)
    (hk : k < a ∨ a + bs.length ≤ k) : spGet (s.wr a bs o).mem k = spGet s.mem k :=
  spGet_memWrite_outside bs s.mem a k h hk

end Sys2Proof.Machine
end

