-- ==== Sys2Proof/Laws/Wire.lean ====
section
/-! SUPPORT. Little-endian fields read back what was stored, and a flit reads back as it was driven (R291). -/

namespace Sys2Proof.Machine

/-- A little-endian field has its length. -/
@[simp] theorem length_toLE (n v : Nat) : (toLE n v).length = n := by
  induction n generalizing v with
  | zero => rfl
  | succ n ih => simp [toLE, ih]

/-- A little-endian field holds its value, less what does not fit. -/
theorem leNat_toLE (n v : Nat) : leNat (toLE n v) = v % 256 ^ n := by
  induction n generalizing v with
  | zero => simp [toLE, leNat, Nat.mod_one]
  | succ n ih =>
    simp only [toLE, leNat, ih, BitVec.toNat_ofNat, Nat.reducePow]
    rw [Nat.pow_succ, Nat.mul_comm (256 ^ n) 256, Nat.mod_mul]

/-- The bytes that follow a prefix. -/
theorem slice_after (a b : Bytes) (n : Nat) (h : b.length = n) : slice (a ++ b) a.length n = b := by
  simp [slice, ← h]

/-- A field whose value fits reads back. -/
theorem fld_after (a c : Bytes) (n v : Nat) (h : v < 256 ^ n) : fld (a ++ (toLE n v ++ c)) a.length n = v := by
  simp [fld, slice, leNat_toLE, Nat.mod_eq_of_lt h]

/-- The fields of a flit fit their places. -/
def Flit.fits (f : Flit) : Bool :=
  let h := flitHeader f
  decide (f.payload.length = 496) && decide (h < 2 ^ 64) && decide (h % 8 = f.kind) && decide (f.kind ≤ 2)
    && (bit h 53 == false) && (bit h 3 == f.resend) && decide (bits h 4 4 = f.owner) && decide (bits h 8 16 = f.seq)
    && decide (bits h 24 16 = f.ack) && decide (bits h 40 12 = f.credit) && (bit h 52 == f.mark)
    && decide (bits h 54 10 = f.ofs)

/-- A flit reads back as it was driven: its CRC agrees, and every field has its value. -/
theorem parse_flitBytes (f : Flit) (h : f.fits = true) : parseFlit (flitBytes f) = some f := by
  simp only [Flit.fits, Bool.and_eq_true, decide_eq_true_eq, beq_iff_eq] at h
  obtain ⟨⟨⟨⟨⟨⟨⟨⟨⟨⟨⟨hp, hh⟩, hk⟩, hl⟩, h53⟩, h3⟩, ho⟩, hs⟩, ha⟩, hc⟩, hm⟩, hf⟩ := h
  have hb : flitBytes f = (toLE 8 (flitHeader f) ++ f.payload)
      ++ toLE 8 (crc64 (toLE 8 (flitHeader f) ++ f.payload)).toNat := by
    simp [flitBytes, ← hp, zeros]
  have hlen : (toLE 8 (flitHeader f) ++ f.payload).length = 504 := by simp [hp]
  have hw : fld (flitBytes f) 0 8 = flitHeader f := by
    rw [hb, List.append_assoc]
    exact fld_after [] _ 8 _ (by simpa using hh)
  have hcrc : leNat (slice (flitBytes f) 504 8) = (crc64 (toLE 8 (flitHeader f) ++ f.payload)).toNat := by
    rw [hb, ← hlen, slice_after _ _ 8 (by simp), leNat_toLE]
    exact Nat.mod_eq_of_lt (by simpa using (crc64 _).isLt)
  have htake : (flitBytes f).take 504 = toLE 8 (flitHeader f) ++ f.payload := by
    rw [hb, ← hlen, List.take_left]
  have hpay : slice (flitBytes f) 8 496 = f.payload := by
    simp [hb, slice, ← hp]
  unfold parseFlit
  simp only [hw, hcrc, htake, hpay, hk, h53, h3, ho, hs, ha, hc, hm, hf]
  rw [if_pos ⟨by rw [hb]; simp [hp], trivial, hl, trivial⟩]

end Sys2Proof.Machine
end

