-- ==== Sys2Proof/Tests/Slice0.lean ====
section
/-! SUPPORT. Tests: an ill-formed command for each check of WellFormed, values that the specification works out, and for
every clause of every statement a small concrete state and operands that meet its premises together. -/

namespace Sys2Proof.Tests

open Sys2Proof.Machine

set_option Elab.async false

/-! ### Small states -/

/-- The bytes from offset `k` to `n` of a record with little-endian fields (offset, bytes, value), offsets rising. -/
def fields (n : Nat) : Nat → List (Nat × Nat × Nat) → Bytes
  | k, [] => zeros (n - k)
  | k, f :: r => zeros (f.1 - k) ++ (toLE f.2.1 f.2.2 ++ fields n (f.1 + f.2.1) r)
/-- A record of `n` bytes. -/
def recOf (n : Nat) (fs : List (Nat × Nat × Nat)) : Bytes := fields n 0 fs
/-- The memory cells of bytes at an address. -/
def cells : Nat → Bytes → List Host.Cell
  | _, [] => []
  | a, b :: r => if b = 0 then cells (a + 1) r else (a, b) :: cells (a + 1) r

/-- An image header: the flags of R80, pod, block, two blocks a pod, two pods. -/
def wHdr (flags pod block : Nat) : Bytes :=
  recOf 128 [(0x15, 1, flags), (0x18, 1, 7), (0x19, 1, pod), (0x1A, 1, block), (0x1B, 1, 2), (0x1C, 1, 2), (0x20, 8, 0x10000), (0x30, 1, 8)]

/-- Sections: partition 0 with one core and two layers; group 0 its step group over both pods, group 1 a batch group in
INSTRUCTION mode; one readable and writable segment; a pool of
1,000 memory cells with an owner for partition 0 and one for the system; a frame of 8 stitches; a bias window of 64 steps, a straggler bound of 100 stitches. -/
def wSectsOf (min flags : Nat) : List (Nat × Bytes) :=
  [(2, recOf 32 [(0, 1, 1), (3, 1, 1), (4, 2, 2)]),
   (3, recOf 32 [(0, 1, 1), (3, 1, 4), (4, 2, 3), (8, 8, 0x1000)] ++ recOf 32 [(0, 1, 1), (2, 1, flags), (3, 1, 4), (4, 2, 3), (8, 8, 0x2000), (16, 8, 0x10000)]),
   (4, recOf 80 [(0, 2, 16), (64, 6, 0x100000), (70, 1, 7), (72, 6, 0x100000000)]),
   (5, recOf 288 [(0, 8, 0x40000000), (8, 4, 1000), (16, 8, 0x48000000), (32, 1, 1), (48, 1, 1), (49, 1, 8), (52, 4, min), (56, 4, min)]),
   (10, recOf 16 [(0, 1, 8), (1, 1, 4)] ++ (zeros 32 ++ List.replicate 32 0x88)), (11, recOf 16 [(0, 2, 64), (8, 4, 100)])]

def wSects : List (Nat × Bytes) := wSectsOf 0 12

/-- The start state of a member in RUNNING. -/
def wBoot : BootSt := { resetBoot with rstLow := false, state := 11, lock := true }

/-- A member in RUNNING with every domain on and every unit usable. -/
def wUp (flags pod block : Nat) : State :=
  { State.reset with
    boot := wBoot
    img := { hdr := wHdr flags pod block, sections := wSects }
    power := { resetPower with domOn := 2 ^ 48 - 1 }
    units := { resetUnits with arrays := 2 ^ 32 - 1, folds := 15, links := 2 ^ 36 - 1, memPorts := 4095 }
    stitch := { resetStitch with state := 1, count := 1000 } }

/-- The head manager of pod 0, in RUNNING. -/
def wHead : State := wUp 6 0 0
/-- A member that is no manager. -/
def wMem : State := wUp 0 0 1

theorem sound_up {s : State} (hb : s.boot = wBoot) (h : (spWf s.mem && spWf s.regs && s.parts.length == 8
    && s.groups.length == 64 && s.link.ports.length == 36) = true) : s.sound := by
  simp only [Bool.and_eq_true, beq_iff_eq] at h
  refine ⟨⟨h.1.1.1.1, h.1.1.1.2⟩, ⟨h.1.1.2, h.1.2, h.2, by rw [hb]; rfl⟩, ?_⟩
  unfold State.started
  rw [hb]
  simp [BootSt.started, wBoot, resetBoot]

/-- The same state in another state of the start sequence. -/
def atBoot (n : Nat) (s : State) : State := { s with boot := { s.boot with state := n, lock := n == 11 } }
/-- A state with RST_N low and a fused key store. -/
def wLow : State := { State.reset with boot := { resetBoot with keys := 1 :: List.replicate 11 0 } }
/-- An early state of the start. -/
def wAt (n : Nat) : State := atBoot n wHead
/-- A message for member 0 from block 1 of its pod. -/
def wMsg (typ owner : Nat) (body : Bytes) : Msg :=
  { chan := 30, owner := owner, typ := typ, flags := 0, src := 1, dst := 0, trigger := 0, msgNo := 0, length := body.length, body := body }
/-- The message in the inbox. -/
def holding (m : Msg) (s : State) : State := { s with link := { s.link with inbox := [m] } }

/-- Step 5 of group 0, launched, with no pass in progress. -/
def wStep : StepSt :=
  { group := 0, seq := 9, client := 0, stepNo := 5, segs := [], fault := 0, diverted := []
    hiddenTd := [], outTd := [], waited := false, readySent := true, launchAt := some 990, askedAt := some 990, epochs := [0, 0, 0, 0]
    launched := true, engRec := [], combRec := [], active := true, rosters := [], aset := none, gone := [], passes := []
    nextLayer := 0, reds := [], lstat := [7, 7], abortReg := false, withdrawn := none, poisonAt := none, redAbort := none, opened := 0
    tornBy := none, vary := 0, stragglers := [], ledger := 0, ledLost := false, sadd := [], fin := 0, endOut := false, endAt := 0 }
/-- Partition 0 UP, with a step. -/
def wPart (x : Option StepSt) : Part := { resetPart with state := 1, step := x, lastNo := some 4, anyNo := false }
/-- The state with partition 0 replaced. -/
def part0 (x : Part) (s : State) : State := s.onPart 0 (fun _ => x)
/-- The member with a step in flight. -/
def wBusy (x : StepSt) : State := part0 (wPart (some x)) wHead

/-- A layer entry: eight experts, one segment, a BF16 router at 0. -/
def wLayer : Bytes := recOf 64 [(8, 1, 1), (12, 2, 8), (14, 2, 1)]
/-- Partition 0 UP with two layers of eight experts in force. -/
def wTabs (x : Option StepSt) : Part :=
  { wPart x with tables := [{ emptyTable with live := { emptyBank with entries := [wLayer, wLayer] } }, emptyTable, emptyTable, emptyTable] }
/-- Counts of a window from block 1, and the last BIAS_TABLE of epoch 1. -/
def wCounts : Msg := wMsg 0x13 8 (recOf 160 [(0, 8, 63), (10, 2, 1), (12, 2, 2), (32, 8, 5)])
def wBias : Msg := wMsg 0x14 8 (recOf 64 [(0, 8, 63), (10, 2, 1), (12, 2, 8), (16, 4, 1), (32, 4, 0x3F800000)])

/-- A channel of an intra-pod port toward block 1. -/
def wChan : Chan :=
  { id := 30, port := 30, peer := 31, peerPort := 0, session := none, share := 64, peerShare := 64, nextX := 0, unacked := [], waiting := []
    credSeen := 0, credits := 64, rxX := 0, held := [], missing := [], freed := 0, asm := [], lastAck := 0, lastCred := 0
    active := true, wasActive := true, markDue := false, helloRun := 0, lastHello := [] }
/-- The state with one channel and every port in a state. -/
def chan1 (c : Chan) (n : Nat) (s : State) : State :=
  { s with link := { s.link with chans := [c], ports := List.replicate 36 { resetPort with state := n } } }
/-- A control flit of a SUBTYPE. -/
def ctl (payload : Bytes) : Flit :=
  { kind := 2, resend := false, owner := 8, seq := 0, ack := 0, credit := 0, mark := false, ofs := 0
    payload := payload ++ zeros (496 - payload.length) }
/-- The manager with the external reference. -/
def wRef : State := wUp 14 0 0
/-- A request to slot n of the attach port. -/
def wReq (n : Nat) (data : Bytes) : SeamReq := { gen2 := false, dom := 0, tag := 7, slot := n, data := data, host := [⟨0x500000, [5]⟩] }
/-- The same without a host write. -/
def wOne (n : Nat) (data : Bytes) : SeamReq := { wReq n data with host := [] }
/-- The member with partition 0 UP and idle, credits at the attach port. -/
def wIdle : State := { part0 (wTabs none) wHead with seam := { State.reset.seam with crdIp := 8, crdOq := 8 } }
/-- A note waiting at the attach port. -/
def noted (k : Nat) : State := { wIdle with seam := { wIdle.seam with notes := [⟨k, 0, false, 0, 0x40, [1, 2], false⟩] } }
/-- A read, and a write, outstanding on port 11. -/
def reading (left : Nat) (o : MemObj) (n : Nat) : State :=
  { wIdle with memp := { wIdle.memp with reads := [⟨11, 0xB000, 0, left, o, false⟩], buckets := List.replicate 12 n } }
def wrote (o : MemObj) : State := { wIdle with memp := { wIdle.memp with writes := [⟨11, 0xB000, 0, 64, o⟩] } }
/-- The descriptor d at HEAD of group g, submitted. -/
def desc (g : Nat) (d : Bytes) (s : State) : State :=
  ({ s with mem := cells (0x101000 + 0x1000 * g) d ++ s.mem } : State).onGroup g (fun x => { x with tail := 1, tailEff := 1, fetch := 9 })
/-- A descriptor of an opcode with SEQ 3 and a completion record at 0x8000. -/
def wDesc (opc : Nat) (fs : List (Nat × Nat × Nat)) : Bytes := recOf 64 ([(0, 1, opc), (4, 4, 3), (8, 8, 0x8000)] ++ fs)
/-- A stream's context. -/
def withCtx (b : Bytes) (s : State) : State := { s with ctx := [(1, b)] }
/-- A profile, and a map of eight experts at home on member 0. -/
def wProf : Bytes := recOf 32 [(1, 1, 2), (2, 1, 2), (3, 1, 1), (7, 1, 2), (12, 4, 0x3F800000), (20, 2, 100)]
def wMapAt (home n : Nat) : Bytes :=
  recOf 16 [(0, 1, 1), (2, 2, n)] ++ (List.range n).flatMap (fun _ => toLE 2 home ++ List.replicate 6 255)
def wMap (n : Nat) : Bytes := wMapAt 0 n
/-- Partition 0 with all four tables in force. -/
def wFull (x : Option StepSt) : Part :=
  { wPart x with tables := [{ emptyTable with live := { emptyBank with entries := [wLayer, wLayer] } },
      { emptyTable with live := { emptyBank with entries := [wMap 8] } },
      { emptyTable with live := { emptyBank with entries := [wProf] } }, emptyTable] }
def wLoad : State := part0 (wFull none) wIdle
/-- Partition 0 with a field of its record changed. -/
def withPart (f : Part → Part) (s : State) : State := s.onPart 0 f
/-- Group g running a command. -/
def running (g : Nat) (c : Cmd) (s : State) : State := s.onGroup g (fun x => { x with cur := some c })
/-- A batch command of group 1. -/
def wCmd (saved : Nat) : Cmd := { endAs := none, torn := false, cut := false, job := none, phase := 1, seq := 3, desc := wDesc 5 [], epochs := [], index := 0, saved := saved }
/-- The four records of segment 255, and a member that holds them. -/
def wRecs : Bytes :=
  recOf 256 [(0, 1, 1), (128, 1, 1), (129, 1, 16), (136, 8, 0x200000), (192, 1, 1), (200, 8, 0x300000)]
def withRecs (s : State) : State :=
  { s with
    img := { s.img with sections := (4, recOf 4160 [(64, 6, 0x100000), (70, 1, 7), (72, 6, 0x100000000), (4144, 6, 0x900000), (4150, 1, 7), (4152, 6, 0x10000)]) :: wSects }
    mem := cells 0x900000 wRecs }
/-- A member with one channel, its port in state n. -/
def linked (c : Chan) (n : Nat) : State := chan1 c n wLoad
/-- The same with port 30 replaced. -/
def ported (p : Port) (c : Chan) : State := (linked c 5).onPort 30 (fun _ => p)
/-- A flit in the replay buffer. -/
def wTx (owed : Bool) : TxFlit := { x := 65537, orig := 0, sends := 8, owed := owed, idx := 0, wait := none, flit := { ctl [] with kind := 1, payload := zeros 496 } }
/-- A HELLO payload from block 1 of pod 0, of a deployment and a mode. -/
def wHello (dep mode : Nat) : Flit := ctl [2, 1, BitVec.ofNat 8 dep, 0, 31, 0, BitVec.ofNat 8 mode, 0, 5, 0, 64, 0]
/-- A token of the pass in stages 1 to 4. -/
def wTok (f : Tok → Tok) : Tok := f { freshTok 0 1 7 1 with actHi := List.replicate 128 0x3F80, actLo := List.replicate 128 0 }
/-- A step with a pass of layer 0 over tokens. -/
def wPass (toks : List Tok) (f : Pass → Pass) : Pass := f (freshPass 0 980 toks)
def wRun (q : Pass) : StepSt := { wStep with passes := [q], nextLayer := 1, aset := some [0, 1, 32, 33], segs := [⟨1, 1, 0, 7, 1, true, 1, 0, 0, 0⟩], engRec := recOf 64 [(0, 1, 1)], combRec := recOf 64 [(0, 1, 1)] }
/-- The member with that pass, layers without a compatibility form; issue allowed. -/
def inPass (q : Pass) : State := withPart (fun x => { x with issueF := 16, step := some (wRun q) }) (withRecs wLoad)
def armed (q : Pass) : State :=
  withPart (fun x => { x with arrays := 15 }) { inPass q with units := { wLoad.units with arrays := 2 ^ 32 - 1 } }
def wTile (n : Nat) (pr : Option (F32 × F32)) : TileSt := { tile := n, core := 0, early := [], segs := 1, scores := (List.range 128).map (fun i => BitVec.ofNat 32 (0x3F800000 + i)), pair := pr }
def wRunOf (retry : Bool) : Run := ⟨.step 0, 0, 0, 0, 0, 0, 0, [(0, 0)], false, retry, false⟩
/-- The job of a pass. -/
def jobOf (s : State) (q : Pass) : Job := ⟨q, s.layerEnt 0 q.layer, s.profEnt 0 q.layer, true⟩
def wBlk : Pass := wPass [wTok id] (fun q => { q with blocks := [0] })
def inRun (q : Pass) (r : Run) : State := { armed q with press := { (armed q).press with runs := [r] } }
/-- The pools with nothing left for partition 0. -/
def starved (s : State) : State :=
  { s with img := { s.img with sections := wSectsOf 0xFFFFFFF 12 } }
def wSel : Tok := wTok (fun u => { u with selected := true, chosen := [(0, 0x3F800000), (3, 0x40000000)] })
/-- A ticket of the token. -/
def wTick (x dest st : Nat) : Ticket :=
  { mkTicket (wTok id) x 0 0 0 (0, dest) false st with gate := 0x3F800000 }
/-- A pass after admission, with micro-step 0 as given. -/
def wAdm (ks : List Ticket) (f : Micro → Micro) : Pass :=
  wPass [wSel] (fun q => { q with blocks := [0], stage4 := true, admitted := true, tickets := ks, micros := [f (freshMicro 0 980)] })
/-- Arrivals of the four members. -/
def wRx (st : Nat) : List RxTally := [0, 1, 32, 33].map (fun a => emptyRx a a false) |>.map (fun t => { t with state := st, voided := false })
/-- A direct tally of two tickets, a gateway tally, a pile and a gateway pile for member 0. -/
def wTally : Msg := wMsg 1 0 (tallyBody 1 0 0 0 0 5 0 2 [⟨0, 0, 0, 1⟩, ⟨3, 0, 0, 1⟩])
def wGwTally : Msg := { wMsg 4 0 (tallyBody 32 0 0 0 1 5 0 1 [⟨0, 0, 0, 1⟩]) with src := 32 }
def wRowOf (x : Nat) : WireRow := ⟨1, 7, x, 0, zeros 256⟩
def wPile : Msg := wMsg 2 0 (directPile 1 0 0 0 0 5 0 [wRowOf 0])
def wGwPile : Msg := { wMsg 5 0 (gwPileBody 32 0 0 0 1 5 0 [⟨1, 7, [(0, 0, 0)], zeros 256⟩]) with src := 32 }
def wFan (f : GwFan → GwFan) : GwFan := f ⟨32, [⟨0, 0, 0, 1⟩], [], false, false, [], false, []⟩
def wHeld (m : Msg) (q : Pass) : State := holding m (inPass q)
def wTab (f : WorkTab → WorkTab) : WorkTab :=
  f ⟨5, 0, 2, 0, 0, false, 0x5000, 0, [], [], 256, true, false⟩
def tabbed (w : WorkTab) (s : State) : State := { s with tabs := [w] }
/-- The same with every expert at home on member 1. -/
def moved (s : State) : State :=
  withPart (fun x => { x with tables := setAt x.tables 1 (fun _ => { emptyTable with live := { emptyBank with
    entries := [wMapAt 1 8] } }) }) s
/-- A FOLD section with one block, for group 0: shards from `j` on at member 1, the others at member 0, two FP32 elements
in layer 0. -/
def wFold (j : Nat) : Bytes :=
  recOf 128 [(8, 8, 99), (64, 1, 1), (66, 1, 255), (67, 1, 1)] ++ (zeros (2 * j)
    ++ ((List.range (1024 - j)).flatMap (fun _ => [1, 0]) ++ recOf 64 [(0, 8, 0x6000), (8, 8, 0x7000), (16, 4, 2)]))
def folded (j : Nat) (s : State) : State := { s with img := { s.img with sections := (12, wFold j) :: s.img.sections } }
def wRed (f : Red → Red) : Red := f ⟨0, 0, 985, [], [], [], [], [], [1], [], 1, 0, false⟩
def wReds (r : List Red) (f : StepSt → StepSt) : StepSt := f { wRun (wAdm [] id) with reds := r, passes := [], nextLayer := 0 }
def inRed (j : Nat) (x : StepSt) : State :=
  folded j (withPart (fun y => { y with step := some x }) (inPass (wAdm [] id)))
def ownMsg (typ src : Nat) (b : Bytes) : Msg := { wMsg typ 0 b with src := src }
/-- A tensor descriptor in segment 0: type, sizes and strides. -/
def wTd (et base : Nat) (sz st : List Nat) : Bytes :=
  recOf 128 ([(0, 1, sz.length), (1, 1, et), (5, 1, 255), (8, 8, base)]
    ++ (List.range sz.length).map (fun i => (16 + 4 * i, 4, sz.getD i 0))
    ++ (List.range sz.length).map (fun i => (40 + 8 * i, 8, st.getD i 0)))
/-- A STEP with a reserved header byte. -/
def wRsvStep : Bytes := (wDesc 1 [(16, 8, 5)]).set 3 1
def wIssue (s : State) (c : Cmd) : State := withPart (fun x => { x with issueF := 16 }) (running 1 c s)
/-- A bucket that rose above zero in stitch 0, now in stitch n. -/
def leaking (key n : Nat) (s : State) : State := { s with leaks := [(key, 0)], stitch := { s.stitch with count := n } }
/-- A write outstanding on port 11, and the read request of `reading`. -/
def wWr (o : MemObj) : WriteReq := ⟨11, 0xB000, 0, 64, o⟩
def wRd (left : Nat) : ReadReq := ⟨11, 0xB000, 0, left, .hidden 0 0 0, false⟩
/-- A repetition waiting. -/
def retrying (r : Retry) : State := { wIdle with memp := { wIdle.memp with retries := [r] } }
/-- The same with a note behind it. -/
def wJob : Job := ⟨wPass [onesTok 1 128] id, wLayer, wProf, true⟩
/-- The pools with nothing left for the system. -/
def starvedSys (s : State) : State :=
  { s with img := { s.img with sections := wSects.map (fun e => if e.1 = 5 then (5, recOf 288
      [(0, 8, 0x40000000), (8, 4, 1000), (16, 8, 0x48000000), (32, 1, 1), (36, 4, 0xFFFFFFF), (40, 4, 0xFFFFFFF), (48, 1, 1), (49, 1, 8)]) else e) } }
/-- The member with one chain of a staging cell, with n references. -/
def chained (m : Bool) (n : Nat) : State := { wLoad with hamper := { wLoad.hamper with chains := [⟨0, 0, [(m, 7)], n, [], [], none⟩] } }
def wChain (m : Bool) (n : Nat) : Chain := ⟨0, 0, [(m, 7)], n, [], [], none⟩
def wReq1 (rank n refs : Nat) : CellReq := ⟨rank, 0, false, false, n, refs, none⟩
/-- A flit that carries the whole message of one byte, TYPE 1. -/
def wData : Flit := { ctl (recOf 16 [(0, 1, 1), (2, 2, 1), (12, 4, 1)]) with kind := 1 }
/-- A whole message that the relay passes on, and its last flit still in a receive slot. -/
def wPassOn : Msg := { wMsg 1 0 [1] with flags := 1, dst := 1 }
def wHold (f : SlotHold → SlotHold) : SlotHold := f ⟨30, 0, 1, 0, 1, 0, true, true, 1, 1, 1, 1, [], 0⟩
def slotAs (h : SlotHold) (s : State) : State := { holding wPassOn s with link := { (holding wPassOn s).link with slots := [h] } }
def slotted (s : State) : State := slotAs (wHold id) s
/-- The channel toward block 1. -/
def wRel : Chan := { wChan with id := 0, port := 0 }
/-- A stream's context in segment 0. -/
def wCtxAt : State := { wIdle with mem := cells 0x109000 (recOf 64 [(0, 1, 1), (4, 4, 1)]) }
/-- Two channels, the port of the second in RETRAIN. -/
def twoChans : State :=
  ({ linked wChan 5 with link := { (linked wChan 5).link with chans := [wChan, { wChan with id := 1, port := 1 }] } } : State).onPort 1
    (fun x => { x with state := 6 })
/-- A tally of one ticket whose pile is owed; the arrivals of all four members. -/
def wOwed : RxTally := { emptyRx 1 1 false with entries := [⟨0, 0, 0, 1⟩], tickets := 1, granted := 1, state := 0, voided := false }
def wArr (y : Micro) : Micro :=
  { y with tallyIn := true, piles := [⟨1, 1, false, [wRowOf 0], []⟩], resv := 1
           tallies := (wRx 1).map (fun t => if t.src = 1 then { t with entries := [⟨0, 0, 0, 1⟩], tickets := 1, granted := 1, state := 1 } else { t with state := 2 }) }
/-- A pass whose source and destination parts are over, with the targets of a scatter-add. -/
def wOver (sadd : List (Nat × Nat × F32)) : Pass :=
  wPass [] (fun q => { q with
    stage4 := true, sadd := sadd
    micros := [{ freshMicro 0 980 with destDone := true, tallies := (wRx 2).map (fun t => { t with final := true }) }] })
/-- The STEP of a group at its end. -/
def wEnds : Cmd := { wCmd 0 with phase := 2, seq := 9, desc := zeros 64, epochs := [0, 0, 0, 0] }
/-- A work table with one row, and the state with its pile and pass. -/
def wRowTab : WorkTab := wTab (fun w => { w with entries := [(0, 0, 1, 0, 1, 0x6000)], rowIds := [(1, 1, 7, 0)] })
def rowTabbed : State := tabbed wRowTab (inPass (wAdm [] (fun y => { y with piles := [⟨1, 1, false, [wRowOf 0], []⟩] })))

/-! ### The states and operands of the witnesses -/

def stepTakesFront1_c : Instr := Instr.lockAcquired
def stepTakesFront1_s : State := { wHead with pending := [Instr.lockAcquired] }
def reset3_s : State := { wHead with recd := { resetRec with present := false } }
def startBegins1_x : SfdpRead := ⟨zeros 8, zeros 8, zeros 4, zeros 4⟩
def startBegins1_a : Bytes := zeros 512
def startBegins2_s : State := State.reset
def startBegins3_s : State := { wLow with power := { resetPower with thermLow := true } }
def startBegins4_s : State := wAt 1
def startBegins5_s : State := { wAt 1 with boot := { (wAt 1).boot with reasonA := 0 } }
def startBegins6_s : State := { wAt 1 with boot := { (wAt 1).boot with reasonA := 0, reasonB := 0, imgA := recOf 16 [(8, 4, 3)], imgB := recOf 16 [(8, 4, 4)] } }
def startBegins9_s : State := { wAt 1 with boot := { (wAt 1).boot with reasonA := 0, reasonB := 0, imgA := recOf 16 [(8, 4, 5)], imgB := recOf 16 [(8, 4, 4)] } }
def startBegins12_s : State := { wAt 1 with boot := { (wAt 1).boot with reasonA := 0, reasonB := 0, imgA := recOf 16 [(8, 4, 4), (12, 4, 257)], imgB := recOf 16 [(0, 1, 1), (8, 4, 4), (12, 4, 257)] } }
def startStates1_s : State := wAt 3
def startStates3_s : State := wAt 4
def startStates3_page : Byte := 0
def startStates4_s : State := { wAt 5 with power := { resetPower with rampOn := true, ramps := [33, 34] } }
def startStates5_s : State := wAt 6
def startStates7_s : State := wAt 8
def startStates8_s : State := { wAt 9 with stitch := { resetStitch with heard := some 7 } }
def startStates9_s : State := { atBoot 9 wMem with stitch := { resetStitch with lockRun := 1000 } }
def startStates10_s : State := { atBoot 9 wMem with stitch := resetStitch }
def startStates11_s : State := wAt 10
def keyStore1_s : State := { wAt 15 with boot := { (wAt 15).boot with code := 3 } }
def keyStore1_v : Word := 0x10B
def keyStore2_v : Word := 0x10C
def keyStore3_s : State := { wAt 15 with boot := { (wAt 15).boot with keyBusy := some (11, 9) } }
def keyStore3_w : Word := 9
def powerPins2_s : State := { wHead with power := { wHead.power with alertLow := true } }
def powerPins3_s : State := { wAt 7 with boot := { (wAt 7).boot with waiting := some 8 }, power := { wHead.power with alertLow := true } }
def powerPins6_s : State := { wHead with power := { wHead.power with thermLow := true } }
def managers1_s : State := holding (wMsg 0x1D 8 (recOf 16 [(0,1,16)])) wHead
def managers1_m : Msg := wMsg 0x1D 8 (recOf 16 [(0,1,16)])
def managers2_s : State := holding (wMsg 0x1A 8 (recOf 16 [(8,8,77)])) wHead
def managers2_m : Msg := wMsg 0x1A 8 (recOf 16 [(8,8,77)])
def managers3_s : State := holding (wMsg 0x17 8 (recOf 80 [(18,2,5)])) wHead
def managers3_m : Msg := wMsg 0x17 8 (recOf 80 [(18,2,5)])
def managers4_s : State := holding (wMsg 0x16 8 (recOf 144 [(20,4,5)])) wHead
def managers4_m : Msg := wMsg 0x16 8 (recOf 144 [(20,4,5)])
def managers5_s : State := holding (wMsg 0x18 8 (recOf 32 [(0,2,1),(4,4,5),(8,2,3)])) wHead
def managers5_m : Msg := wMsg 0x18 8 (recOf 32 [(0,2,1),(4,4,5),(8,2,3)])
def managers6_s : State := { wHead with link := { wHead.link with reportDue := true } }
def managers7_s : State := { wHead with mgr := { wHead.mgr with calPend := true } }
def managers8_s : State := holding wCounts (part0 (wTabs none) wHead)
def managers9_s : State := holding wBias (part0 (wTabs none) wHead)
def deaths1_s : State := holding (wMsg 0x1C 8 (recOf 16 [(0,8,5),(10,2,511)])) (wBusy wStep)
def deaths1_m : Msg := wMsg 0x1C 8 (recOf 16 [(0,8,5),(10,2,511)])
def deaths2_s : State := { wHead with mgr := { wHead.mgr with reachRun := [(1, 16)] } }
def deaths3_s : State := holding (wMsg 0x0D 8 (recOf 16 [(0,2,33)])) wHead
def deaths3_m : Msg := wMsg 0x0D 8 (recOf 16 [(0,2,33)])
def deaths4_s : State := holding (wMsg 0x1E 8 (recOf 16 [(0,8,5),(9,1,1),(12,2,33)])) (wBusy wStep)
def deaths4_m : Msg := wMsg 0x1E 8 (recOf 16 [(0,8,5),(9,1,1),(12,2,33)])
def deaths5_s : State := holding (wMsg 0x1E 8 (recOf 16 [(0,8,5),(8,1,7),(12,2,5)])) wHead |> fun s => { s with link := { s.link with dead := [(5, 0)] } }
def deaths5_m : Msg := wMsg 0x1E 8 (recOf 16 [(0,8,5),(8,1,7),(12,2,5)])
def deaths6_s : State := part0 { wPart (some wStep) with waits := [⟨0, 0, 8, none, 968, 0⟩] } wHead
def deaths6_w : WaitSt := ⟨0, 0, 8, none, 968, 0⟩
def deaths7_s : State := holding (wMsg 0x0C 8 (recOf 80 [(0,8,5),(11,1,11),(12,2,1),(16,1,2)])) wHead
def deaths7_m : Msg := wMsg 0x0C 8 (recOf 80 [(0,8,5),(11,1,11),(12,2,1),(16,1,2)])
def deaths8_s : State := holding (wMsg 0x0C 8 (recOf 16 [])) wHead
def deaths8_m : Msg := wMsg 0x0C 8 (recOf 16 [])
def stitchReference1b_s : State := { wRef with stitch := { wRef.stitch with refLost := true, goodRun := 63 } }
def stitchReference3b_s : State := { wRef with stitch := { wRef.stitch with missRun := 15 } }
def stitchReference4_s : State := { wMem with stitch := { wMem.stitch with badRun := 4 } }
def stitchReference5_s : State := { wMem with stitch := { wMem.stitch with relocked := true, refOfs := -7 } }
def stitchReference6_s : State := { (wUp 0 0 0) with img := {hdr := recOf 128 [(0x18, 1, 7), (0x1B, 1, 32), (0x1C, 1, 2), (0x20, 8, 0x10000), (0x30, 1, 8)], sections := []}, stitch := { wMem.stitch with directSilent := 16 } }
def stitchReference7_s : State := { wMem with stitch := { wMem.stitch with src := 1, directRun := 64 } }
def boundaryCounts1_runs : List Nat := [0]
def boundaryCounts1b_s : State := {wHead with stitch := {wHead.stitch with state := 3}}
def boundaryCounts1b_others : List Nat := [0, 0, 0, 1]
def timeFlits1_s : State := chan1 wChan 5 wHead
def eventClear1_v : Word := 1
def eventClear1_now : Word := 2
def eventClear2_s : State := {wAt 15 with regs := spSet resetRegs rGLOBAL_EVT 1}
def eventClear3_s : State := {wHead with regs := spSet resetRegs rGLOBAL_EVT 1}
def irregularAccesses6_s : State := { wHead with power := { wHead.power with domOn := 2 ^ 46 + 2 ^ 47 } }
def irregularAccesses8_s : State := { wHead with power := { wHead.power with domOn := 0 } }
def countersCount1_s : State := {wHead with regs := spSet resetRegs rREF_MISS_CNT 9}
def countersCount5_a : Nat := rLK_CRC_CNT 0
def plainWrites6_s : State := { wHead with recd := { resetRec with present := true, calPend := some 7 }, stitch := { wHead.stitch with count := 1562500 } }
def runtimeWrites1_s : State := part0 {wPart none with jrnW := 2^32 } {wHead with regs := spSet resetRegs (rJRN_CONSUMED_LO 0) 0}
def runtimeWrites2_s : State := part0 {wPart none with jrnW := 2^32 } {wHead with regs := spSet resetRegs (rJRN_CONSUMED_LO 0) 1}
def runtimeWrites3_s : State := {wHead with power := {wHead.power with window := 256}}
def runtimeWrites3_v : Word := 0xFF000005
def runtimeWrites4_v : Word := 0xFE000005
def forcedWrites3_v : Word := 0xC301
def forcedWrites4_v : Word := 0xC401
def selfTest6_s : State := { State.reset with self := { resetSelf with wrapper := 4 } }
def selfTest8_s : State := {chan1 wChan 5 wHead with self := {resetSelf with state := 1}}
def selfTest9_s : State := {wHead with self := {resetSelf with state := 2}}
def selfTest12_s : State := {wHead with self := {resetSelf with state := 3}}
def selfTest13_s : State := {wHead with self := {resetSelf with state := 4}}
def selfTest14_s : State := {wHead with self := {resetSelf with state := 5}, recd := {resetRec with resultOfs := some 4096}}
def recorder1_s : State := {wHead with img := {hdr := wHead.img.hdr, sections := (13, recOf 16 [(0,4,1000)]) :: wSects}}
def recorder3_s : State := {wHead with recd := {resetRec with uptime := 600}}
def recorder4_s : State := {wHead with stitch := {wHead.stitch with state := 3, count := 1562500}, recd := {resetRec with calPend := some 5}}
def recorder4b_s : State := {wHead with stitch := {wHead.stitch with state := 3, count := 1562500}, recd := {resetRec with calSrc := 1}}
def recorder5b_s : State := {wAt 7 with power := {resetPower with winPj := 5000000}}
def recorder5b_ops : List Nat := [1]
def recorder6_s : State := {wAt 7 with power := {resetPower with window := 63, winPj := 5000000}}
def doorbells1_r : SeamReq := wReq 0 [16,0,0,0,0,0,0,0]
def doorbells2_r : SeamReq := wReq 0 [17,0,0,0,0,0,0,0]
def doorbells3_r : SeamReq := wReq 0 [17,0,0,0,0,0,0,1]
def doorbells4_s : State := part0 (wTabs (some {wStep with nextLayer := 1})) wIdle
def doorbells4_r : SeamReq := wReq 0 [1,0,5,0,0,0,0,1]
def doorbells5_s : State := part0 (wTabs (some wStep)) wIdle
def attachPort1_s : State := {wIdle with seam := {wIdle.seam with crdIp := 1}}
def attachPort1_r : SeamRaw := ⟨false,3,0,5,1,64⟩
def attachPort1b_r : SeamRaw := ⟨false,1,0,5,0,64⟩
def attachPort2_r : SeamRaw := ⟨true,1,0,5,1,64⟩
def attachPort3_s : State := wAt 7
def attachPort4_r : SeamRaw := ⟨false,2,0,5,1,64⟩
def attachPort6_r : SeamRaw := ⟨false,2,0,5,0,0xFFC0⟩
def attachPort7_r : SeamRaw := ⟨false,1,0,5,0,0x10000⟩
def attachPort11_s : State := {wHead with seam := {wIdle.seam with crdIp := 0, rspWait := [⟨true,0,1,0,0,[]⟩]}}
def attachPort11_w : SeamRsp := ⟨true,0,1,0,0,[]⟩
def attachPort13_s : State := noted 0
def attachPort13_n : Note := ⟨0, 0, false, 0, 0x40, [1, 2], false⟩
def attachPort14_s : State := noted 1
def attachPort14_n : Note := ⟨1, 0, false, 0, 0x40, [1, 2], false⟩
def attachPort15_s : State := noted 2
def attachPort15_n : Note := ⟨2, 0, false, 0, 0x40, [1, 2], false⟩
def attachPort16_s : State := noted 3
def attachPort16_n : Note := ⟨3, 0, false, 0, 0x40, [1, 2], false⟩
def memoryPorts1_s : State := reading 9 (.hidden 0 0 0) 0
def memoryPorts1_r : ReadReq := wRd 9
def memoryPorts2_s : State := reading 8 (.hidden 0 0 0) 0
def memoryPorts2_r : ReadReq := wRd 8
def memoryPorts4_s : State := {wrote (.workTable 1) with memp := {(wrote (.workTable 1)).memp with writes := [wWr (.workTable 1), wWr (.workTable 1)]}}
def memoryPorts4_w : WriteReq := wWr (.workTable 1)
def memoryPorts5_s : State := wrote (.linkEntry 0 true)
def memoryPorts5_w : WriteReq := wWr (.linkEntry 0 true)
def memoryPorts6_s : State := wrote (.workTable 1)
def memoryPorts7_s : State := wrote (.journal 0)
def memoryPorts7_w : WriteReq := wWr (.journal 0)
def memoryPorts8_s : State := wrote (.complRec 0)
def memoryPorts8_w : WriteReq := wWr (.complRec 0)
def memoryPorts9_s : State := running 1 {wCmd 0 with phase := 3} (wrote (.batchOut 1))
def memoryPorts9_w : WriteReq := wWr (.batchOut 1)
def memoryPorts9_c : Cmd := {wCmd 0 with phase := 3}
def memoryPorts11_s : State := leaking (keyMem 11) 2097152 (reading 8 (.hidden 0 0 0) 5)
def memoryPorts12_s : State := reading 8 (.hidden 0 0 0) 62
def memoryPorts13_s : State := reading 8 (.hidden 0 0 0) 63
def memoryPorts15_s : State := running 1 (wCmd 1) (wrote (.saveArea 1))
def memoryPorts15_w : WriteReq := wWr (.saveArea 1)
def memoryPorts15_c : Cmd := wCmd 1
def memoryPorts16_s : State := retrying ⟨11, false, 0xB000, 64, .hidden 0 0 0⟩
def memoryPorts16_r : Retry := ⟨11, false, 0xB000, 64, .hidden 0 0 0⟩
def memoryPorts18_s : State := retrying ⟨11, true, 0xB000, 64, .workTable 1⟩
def memoryPorts18_r : Retry := ⟨11, true, 0xB000, 64, .workTable 1⟩
def memoryPorts19_s : State := retrying ⟨11, false, 0xB000, 64, .router 0 0 0 0 0⟩
def memoryPorts19_r : Retry := ⟨11, false, 0xB000, 64, .router 0 0 0 0 0⟩
def nop1_s : State := desc 0 (wDesc 0 []) wIdle
def nop1_d : Bytes := wDesc 0 []
def nop2_s : State := desc 0 (wDesc 0 [(63,1,1)]) wIdle
def nop2_d : Bytes := wDesc 0 [(63,1,1)]
def nop3_s : State := desc 0 (wDesc 5 []) wIdle
def nop3_d : Bytes := wDesc 5 []
def nop4_s : State := desc 1 (wDesc 1 []) wIdle
def nop4_d : Bytes := wDesc 1 []
def nop5_s : State := (desc 0 (wDesc 0 []) wLoad).onGroup 0 (fun x => {x with fetch := 0})
def nop6_s : State := {desc 0 (wDesc 0 []) wLoad with memp := {wLoad.memp with reads := [⟨11, 0xB000, 0, 0, .command 0, false⟩]}}
def streamControl1_s : State := desc 0 (wDesc 2 [(16,2,1)]) wIdle
def streamControl1_d : Bytes := wDesc 2 [(16,2,1)]
def streamControl2_s : State := withCtx (recOf 64 [(0,1,1)]) (desc 0 (wDesc 2 [(16,2,1),(18,1,1)]) wIdle)
def streamControl2_d : Bytes := wDesc 2 [(16,2,1),(18,1,1)]
def streamControl3_s : State := withCtx (recOf 64 [(0,1,2)]) (desc 0 (wDesc 2 [(16,2,1),(18,1,2)]) wIdle)
def streamControl3_d : Bytes := wDesc 2 [(16,2,1),(18,1,2)]
def streamControl4_s : State := withCtx (recOf 64 [(0,1,1)]) (desc 0 (wDesc 2 [(16,2,1),(18,1,3)]) wIdle)
def streamControl4_d : Bytes := wDesc 2 [(16,2,1),(18,1,3)]
def streamControl5_s : State := withCtx (recOf 64 [(0,1,1)]) (desc 0 (wDesc 2 [(16,2,1)]) wIdle)
def streamControl6_s : State := desc 0 (wDesc 2 [(16,2,1),(24,8,0x9000)]) wCtxAt
def streamControl6_d : Bytes := wDesc 2 [(16,2,1),(24,8,0x9000)]
def streamControl6_b : Bytes := recOf 64 [(0,1,1),(4,4,1)]
def streamControl7_s : State := withCtx (recOf 64 [(0,1,1)]) (desc 0 (wDesc 2 [(16,2,1),(18,1,1),(24,8,0x40)]) wIdle)
def streamControl7_d : Bytes := wDesc 2 [(16,2,1),(18,1,1),(24,8,0x40)]
def tableLoads1_s : State := desc 0 (wDesc 3 [(20,2,1),(24,4,1),(32,8,0x3000)]) {wLoad with mem := cells 0x103000 (wLayer)}
def tableLoads1_d : Bytes := wDesc 3 [(20,2,1),(24,4,1),(32,8,0x3000)]
def tableLoads1_es : List Bytes := [wLayer, wLayer]
def tableLoads2_s : State := desc 0 (wDesc 3 [(16,1,1),(20,2,1),(24,4,1),(32,8,0x3000)]) {wLoad with mem := cells 0x103000 (([1,0] ++ List.replicate 6 255))}
def tableLoads2_d : Bytes := wDesc 3 [(16,1,1),(20,2,1),(24,4,1),(32,8,0x3000)]
def tableLoads2_es : List Bytes := [recOf 16 [(0, 1, 1), (2, 2, 8)] ++ ([1, 0] ++ (List.replicate 6 255 ++ (wMap 8).drop 24))]
def tableLoads3_s : State := desc 0 (wDesc 3 [(16,1,2),(20,2,1),(24,4,1),(32,8,0x3000)]) {wLoad with mem := cells 0x103000 (wProf)}
def tableLoads3_d : Bytes := wDesc 3 [(16,1,2),(20,2,1),(24,4,1),(32,8,0x3000)]
def tableLoads3_es : List Bytes := [wProf]
def tableLoads4_s : State := (let s := {desc 0 (wDesc 3 [(16,1,3),(20,2,8),(24,4,1),(32,8,0x3000)]) wLoad with img := {hdr := wHdr 6 0 0, sections := wSects.take 4}}; s)
def tableLoads4_d : Bytes := wDesc 3 [(16,1,3),(20,2,8),(24,4,1),(32,8,0x3000)]
def tableLoads4_b : Bytes := zeros 32
def tableLoads5_s : State := desc 0 (wDesc 3 [(16,1,4),(22,2,1),(40,8,9)]) wLoad
def tableLoads5_d : Bytes := wDesc 3 [(16,1,4),(22,2,1),(40,8,9)]
def tableLoads6_s : State := part0 {wFull none with holds := [(1,9,false,false)]} wIdle
def tableLoads6_r : SeamReq := wOne 0 [1,0,0,0,0,0,0,0]
def tableLoads8_s : State := part0 { wFull none with holds := [(1,9,true,true)] } wIdle
def tableLoads9_h : Nat × Nat × Bool × Bool := (1,9,true,true)
def stepCommand1_s : State := desc 0 (wDesc 1 [(16,8,5)]) wLoad
def stepCommand1_d : Bytes := wDesc 1 [(16,8,5)]
def stepCommand2_s : State := desc 0 (wDesc 1 [(16,8,6)]) wLoad
def stepCommand2_d : Bytes := wDesc 1 [(16,8,6)]
def stepCommand3_s : State := {withPart (fun x => {x with state := 2}) (desc 0 (wDesc 1 [(16,8,6)]) wLoad) with power := {wLoad.power with wakeq := [1]}}
def stepCommand4_s : State := desc 0 wRsvStep wLoad
def parkAndWake1_s : State := desc 0 (wDesc 4 []) wLoad
def parkAndWake1_d : Bytes := wDesc 4 []
def parkAndWake2_s : State := running 0 {wCmd 0 with phase := 0, desc := wDesc 4 []} wLoad
def parkAndWake2_c : Cmd := {wCmd 0 with phase := 0, desc := wDesc 4 []}
def parkAndWake3_s : State := withPart (fun x => {x with state := 3, wakeTry := 1, wakeLayer := 2}) wLoad
def parkAndWake4_s : State := withPart (fun x => {x with state := 3, wakeTry := 1, wakeLayer := 1}) wLoad
def parkAndWake5_s : State := withPart (fun x => {x with state := 3, wakeTry := 1}) wLoad
def parkAndWake5_j : Job := {wJob with e := recOf 64 [(8, 1, 1), (12, 2, 8), (14, 2, 1), (40, 8, (wakeSig wProf wLayer (onesTok 1 128)))]}
def parkAndWake7_j : Job := {wJob with e := recOf 64 [(8, 1, 1), (12, 2, 8), (14, 2, 1), (40, 8, 1)]}
def parkAndWake10_s : State := withPart (fun x => {x with state := 3, wakeTry := 2}) wLoad
def restart1_s : State := withPart (fun x => {x with state := 4}) (withRecs wLoad)
def restart2_s : State := { withRecs wLoad with memp := { wLoad.memp with reads := [⟨11, 0x900080, 0, 2, .record 0, false⟩] } }
def restart2_r : ReadReq := ⟨11, 0x900080, 0, 2, .record 0, false⟩
def restart2_j : Bytes := slice wRecs 128 64
def restart2_l : Bytes := slice wRecs 192 64
def restart3_s : State := { wLoad with memp := { wLoad.memp with reads := [⟨11, 0x900080, 0, 2, .record 0, false⟩] } }
def restart5_s : State := withPart (fun x => {x with state := 4, stopping := true}) wLoad
def aborts1_s : State := (running 1 (wCmd 0) wLoad).onGroup 1 (fun x => {x with aborts := [(3,false,true)]})
def aborts1_c : Cmd := wCmd 0
def aborts2_s : State := (running 1 (wCmd 0) (inRun (wPass [wTok id] id) { wRunOf false with job := .batch 1 })).onGroup 1 (fun x => {x with aborts := [(3,false,true)]})
def aborts3_s : State := (running 0 {wCmd 0 with phase := 2, seq := 9, desc := wDesc 1 []} (part0 (wFull (some wStep)) wIdle)).onGroup 0 (fun x => {x with aborts := [(9,false,true)]})
def aborts3_c : Cmd := {wCmd 0 with phase := 2, seq := 9, desc := wDesc 1 []}
def aborts4_s : State := (running 0 {wCmd 0 with phase := 2, seq := 9, desc := wDesc 1 []} (part0 (wFull (some { wStep with launched := false })) wIdle)).onGroup 0 (fun x => {x with aborts := [(9,false,true)]})
def aborts4_x : StepSt := { wStep with launched := false }
def aborts5_s : State := (desc 1 (wDesc 5 []) wLoad).onGroup 1 (fun x => {x with aborts := [(3,false,true)]})
def aborts6_s : State := (desc 0 (wDesc 1 []) wLoad).onGroup 0 (fun x => {x with aborts := [(3,false,true)]})
def aborts7_s : State := wLoad.onGroup 1 (fun x => {x with aborts := [(3,false,true)], lastSeq := some 3})
def aborts7b_s : State := wLoad.onGroup 1 (fun x => {x with aborts := [(3,true,true)]})
def aborts7c_s : State := (running 1 (wCmd 0) wLoad).onGroup 1 (fun x => {x with aborts := [(4,false,true)], lastSeq := some 2})
def aborts7d_s : State := wLoad.onGroup 1 (fun x => {x with aborts := [(4,false,true)]})
def aborts7e_s : State := (running 1 {wCmd 0 with phase := 3, desc := wDesc 2 []} wLoad).onGroup 1 (fun x => {x with aborts := [(3,false,true)]})
def aborts8_s : State := (part0 { wFull none with state := 4 } wLoad).onGroup 1 (fun x => {x with aborts := [(3,false,true)]})
def aborts9_s : State := running 1 (wCmd 0) (part0 (wFull (some wStep)) wIdle)
def aborts10_s : State := running 1 (wCmd 1) wLoad
def aborts11_s : State := { running 1 (wCmd 1) wLoad with self := { resetSelf with request := true } }
def aborts12_s : State := running 1 (wCmd 2) wLoad
def aborts12_c : Cmd := wCmd 2
def aborts13_s : State := running 1 (wCmd 3) (reading 8 (.saveArea 1) 0)
def aborts13_c : Cmd := wCmd 3
def aborts13_r : ReadReq := ⟨11, 0xB000, 0, 8, .saveArea 1, false⟩
def journalWrites1_s : State := withPart (fun x => {x with jrnRec := slice wRecs 128 64, jrnQ := [[1,2,3]], jrnW := 65533, jrnC := 0}) wLoad
def journalWrites1_r : Bytes := [1,2,3]
def journalWrites2_s : State := withPart (fun x => {x with jrnRec := slice wRecs 128 64, jrnQ := [[1,2,3]], jrnW := 65536, jrnC := 2}) wLoad
def hamper3_a : CellReq := wReq1 2 3 1
def hamper3_b : CellReq := wReq1 1 3 1
def hamper4_s : State := {wLoad with units := {wLoad.units with memRet := 1}}
def hamper5_s : State := chained false 1
def hamper5_c : Chain := wChain false 1
def hamper6_s : State := chained false 2
def hamper6_c : Chain := wChain false 2
def hamper9_s : State := chained true 2
def hamper9_c : Chain := wChain true 2
def flitsArrive1_s : State := linked {wChan with rxX := 65536} 5
def flitsArrive1_c : Chan := {wChan with rxX := 65536}
def flitsArrive1_f : Flit := {ctl [] with kind := 1}
def flitsArrive1_b : Bytes := flitBytes {ctl [] with kind := 1}
def flitsArrive2_s : State := linked wChan 5
def flitsArrive2_b : Bytes := flitBytes wData
def flitsArrive3_f : Flit := {ctl [] with kind := 0, credit := 9}
def flitsArrive3_b : Bytes := flitBytes {ctl [] with kind := 0, credit := 9}
def flitsArrive4_s : State := (linked wChan 5).onPort 35 (fun x => {x with failRun := 14, bucket := 1022})
def resends1_s : State := linked {wChan with missing := [(65537,0)]} 5
def resends1_c : Chan := {wChan with missing := [(65537,0)]}
def resends2_s : State := linked {wChan with missing := [(65537,7)]} 5
def resends2_c : Chan := {wChan with missing := [(65537,7)]}
def resends3_s : State := linked {wChan with missing := [(65537,8)]} 5
def resends3_c : Chan := {wChan with missing := [(65537,8)]}
def resends4_s : State := linked {wChan with unacked := [wTx false]} 5
def resends4_c : Chan := {wChan with unacked := [wTx false]}
def resends4_f : Flit := {ctl ([1,0,1,0] ++ zeros 12 ++ [1,0]) with ack := 1}
def resends4_b : Bytes := flitBytes {ctl ([1,0,1,0] ++ zeros 12 ++ [1,0]) with ack := 1}
def resends4_u : TxFlit := wTx false
def resends5_s : State := linked {wChan with unacked := [wTx true]} 5
def resends5_c : Chan := {wChan with unacked := [wTx true]}
def resends5_u : TxFlit := wTx true
def training1_s : State := linked wChan 1
def training2_s : State := linked wChan 4
def training3_s : State := linked wChan 6
def training5_s : State := leaking (keyLink 30) 1024 ((linked wChan 5).onPort 30 (fun x => {x with bucket := 1}))
def helloAndProbe1_s : State := linked {wChan with active := false, wasActive := false} 3
def helloAndProbe1_c : Chan := {wChan with active := false, wasActive := false}
def helloAndProbe1_f : Flit := wHello 8 0
def helloAndProbe1_b : Bytes := flitBytes (wHello 8 0)
def helloAndProbe2_f : Flit := wHello 7 1
def helloAndProbe2_b : Bytes := flitBytes (wHello 7 1)
def helloAndProbe3_s : State := linked {wChan with active := false, wasActive := false, helloRun := 14} 3
def helloAndProbe3_c : Chan := {wChan with active := false, wasActive := false, helloRun := 14}
def helloAndProbe3_f : Flit := wHello 7 0
def helloAndProbe3_b : Bytes := flitBytes (wHello 7 0)
def helloAndProbe4_f : Flit := ctl [6]
def helloAndProbe4_b : Bytes := flitBytes (ctl [6])
def helloAndProbe5_f : Flit := ctl [5,0,0,0,0,0,0,0,9]
def helloAndProbe5_b : Bytes := flitBytes (ctl [5,0,0,0,0,0,0,0,9])
def helloAndProbe6_s : State := ported {resetPort with state := 4, probes := List.replicate 63 100} wChan
def helloAndProbe6_f : Flit := ctl [5,1,0,0,0,0,0,0,9]
def helloAndProbe6_b : Bytes := flitBytes (ctl [5,1,0,0,0,0,0,0,9])
def helloAndProbe7_s : State := linked wChan 3
def relayAndUplink1_s : State := (withPart (fun x => {x with state := 2}) (ported {resetPort with pendSvc := true} wChan)) |> fun s => {s with stitch := {s.stitch with count := 64}}
def relayAndUplink2_s : State := ported {resetPort with state := 5, relayed := some 31} wChan
def relayAndUplink2_f : Flit := ctl [7,0,0,0,31,0]
def relayAndUplink2_b : Bytes := flitBytes (ctl [7,0,0,0,31,0])
def relayAndUplink3_s : State := holding wPassOn (linked wRel 5)
def relayAndUplink4_s : State := slotted (linked wRel 5)
def relayAndUplink4_h : SlotHold := wHold id
def relayAndUplink5_s : State := slotAs (wHold fun h => { h with n := 0 }) (linked wRel 5)
def relayAndUplink5_h : SlotHold := wHold fun h => { h with n := 0 }
def relayAndUplink6_s : State := slotAs (wHold fun h => { h with n := 0, whole := false, len := 900 }) (linked wRel 5)
def relayAndUplink6_h : SlotHold := wHold fun h => { h with n := 0, whole := false, len := 900 }
def relayAndUplink7_s : State := slotAs (wHold fun h => { h with fate := 1 }) (linked wRel 5)
def relayAndUplink7_h : SlotHold := wHold fun h => { h with fate := 1 }
def relayAndUplink8_s : State := holding {wPassOn with dst := 2} twoChans
def relayAndUplink8_m : Msg := {wPassOn with dst := 2}
def relayAndUplink8_c : Chan := {wChan with id := 1, port := 1}
def relayAndUplink9_s : State := (holding {wPassOn with dst := 2} twoChans) |> fun s => {s with link := {s.link with slots := [wHold fun h => { h with goal := 2 }]}}
def relayAndUplink9_h : SlotHold := wHold fun h => { h with goal := 2 }
def relayAndUplink10_s : State := linked {wChan with id := 65, port := 31, peer := 33, rxX := 65537} 5
def relayAndUplink10_c : Chan := {wChan with id := 65, port := 31, peer := 33, rxX := 65537}
def relayAndUplink11_s : State := (linked wChan 5).onPort 31 (fun x => {x with failRun := 7, bucket := 1015})
def relayAndUplink12_s : State := (linked {wChan with port := 35, id := 97} 5).onPort 35 (fun x => {x with rediv := true})
def launchMessages1_s : State := withPart (fun x => {x with step := some {wStep with launched := false, readySent := false, launchAt := none}}) wLoad
def launchMessages1_x : StepSt := {wStep with launched := false, readySent := false, launchAt := none}
def launchMessages2_s : State := holding (wMsg 0x10 8 (bodyReady 5 0 1 [0,0,0,0] [0,0,0,0])) wLoad
def launchMessages2_m : Msg := (wMsg 0x10 8 (bodyReady 5 0 1 [0,0,0,0] [0,0,0,0]))
def launchMessages3_s : State := holding (wMsg 0x11 8 (bodyReady 5 0 32 [0,0,0,0] [0,0,0,0])) wLoad
def launchMessages3_m : Msg := (wMsg 0x11 8 (bodyReady 5 0 32 [0,0,0,0] [0,0,0,0]))
def launchMessages4_s : State := holding (wMsg 0x12 8 (bodyLaunch 5 0 1016 [0,0,0,0])) (withPart (fun x => {x with step := some {wStep with launched := false, launchAt := none}}) wLoad)
def launchMessages4_m : Msg := (wMsg 0x12 8 (bodyLaunch 5 0 1016 [0,0,0,0]))
def launchMessages4_x : StepSt := {wStep with launched := false, launchAt := none}
def launchMessages5_s : State := holding (wMsg 0x12 8 (bodyLaunch 5 0 992 [0,0,0,0])) (withPart (fun x => {x with step := some {wStep with launched := false, launchAt := none}}) wLoad)
def launchMessages5_m : Msg := (wMsg 0x12 8 (bodyLaunch 5 0 992 [0,0,0,0]))
def launchAndPassStart1_s : State := withPart (fun x => {x with step := some {wStep with launched := false, askedAt := none}}) (withRecs wLoad)
def launchAndPassStart1_x : StepSt := {wStep with launched := false, askedAt := none}
def launchAndPassStart2_s : State := { withPart (fun x => {x with step := some {wStep with launched := false}}) (withRecs wLoad) with memp := { wLoad.memp with reads := [⟨11, 0x900080, 0, 2, .record 0, false⟩] } }
def launchAndPassStart2_x : StepSt := {wStep with launched := false}
def launchAndPassStart3_s : State := withPart (fun x => {x with step := some {wStep with launched := false}}) (withRecs wLoad)
def launchAndPassStart3_e : Bytes := slice wRecs 0 64
def launchAndPassStart3_c : Bytes := slice wRecs 64 64
def launchAndPassStart4_s : State := inPass (wPass [] id) |> withPart (fun x => {x with step := some {wRun (wPass [] id) with passes := [], nextLayer := 0}})
def launchAndPassStart4_x : StepSt := {wRun (wPass [] id) with passes := [], nextLayer := 0}
def press1_s : State := armed (wPass [wTok id] id)
def press1_ref : JobRef := .step 0
def press1_j : Job := jobOf (armed (wPass [wTok id] id)) (wPass [wTok id] id)
def press2_s : State := wIssue wLoad {wCmd 0 with job := some wJob}
def press2_ref : JobRef := .batch 1
def press2_c : Cmd := {wCmd 0 with job := some wJob}
def press3_j : Job := jobOf (armed wBlk) wBlk
def press3_units : List (List Nat) := [[0, 1, 2]]
def press3_r : Run := wRunOf false
def press4_s : State := armed wBlk
def press5_s : State := inRun wBlk (wRunOf false)
def press5_us : List Tok := [wTok id]
def press6_errs : List CellErr := [⟨0,0,0x3F800000⟩]
def press7_s : State := inRun wBlk (wRunOf true)
def press7_r : Run := wRunOf true
def press8_s : State := let s := leaking (keyArray 31) 2097152 wLoad; {s with press := {s.press with buckets := List.replicate 32 1}}
def selection1_s : State := armed (wPass [wTok (fun u => {u with tiles := [wTile 0 none]})] id)
def selection1_j : Job := jobOf (armed (wPass [wTok (fun u => {u with tiles := [wTile 0 none]})] id)) (wPass [wTok (fun u => {u with tiles := [wTile 0 none]})] id)
def selection1_u : Tok := wTok (fun u => {u with tiles := [wTile 0 none]})
def selection2_s : State := armed (wPass [wTok (fun u => {u with tiles := [wTile 0 (some (0x3F800000,0x40000000))]})] id)
def selection2_j : Job := jobOf (armed (wPass [wTok (fun u => {u with tiles := [wTile 0 (some (0x3F800000,0x40000000))]})] id)) (wPass [wTok (fun u => {u with tiles := [wTile 0 (some (0x3F800000,0x40000000))]})] id)
def selection2_u : Tok := wTok (fun u => {u with tiles := [wTile 0 (some (0x3F800000,0x40000000))]})
def selection2_pr : F32 × F32 := (0x3F800000,0x40000000)
def selection3_s : State := armed (wPass [wTok (fun u => {u with tiles := [wTile 0 (some (0x3F800000,0x40000000))], nextTile := 1})] id)
def selection3_q : Pass := wPass [wTok (fun u => {u with tiles := [wTile 0 (some (0x3F800000,0x40000000))], nextTile := 1})] id
def selection3_u : Tok := wTok (fun u => {u with tiles := [wTile 0 (some (0x3F800000,0x40000000))], nextTile := 1})
def selection4_s : State := armed (wPass [wTok (fun u => {u with selected := true, chosen := [(0,0x3F800000),(3,0x40000000)]})] id)
def selection4_q : Pass := wPass [wTok (fun u => {u with selected := true, chosen := [(0,0x3F800000),(3,0x40000000)]})] id
def selection5_s : State := starved (armed (wPass [wSel] id))
def selection5_q : Pass := wPass [wSel] id
def microSteps1_s : State := inPass (wAdm [wTick 0 0 1, wTick 3 1 1] id)
def microSteps1_x : StepSt := wRun (wAdm [wTick 0 0 1, wTick 3 1 1] id)
def microSteps1_q : Pass := wAdm [wTick 0 0 1, wTick 3 1 1] id
def microSteps2_s : State := inPass (wAdm [wTick 0 0 2] (fun y => {y with sorted := true, acked := true}))
def microSteps2_x : StepSt := wRun (wAdm [wTick 0 0 2] (fun y => {y with sorted := true, acked := true}))
def microSteps2_q : Pass := wAdm [wTick 0 0 2] (fun y => {y with sorted := true, acked := true})
def microSteps3_s : State := inPass (wAdm [] (fun y => {y with sorted := true, acked := true}))
def microSteps3_x : StepSt := wRun (wAdm [] (fun y => {y with sorted := true, acked := true}))
def microSteps3_q : Pass := wAdm [] (fun y => {y with sorted := true, acked := true})
def rosterAndFinal1_s : State := wHeld (wMsg 0xB 0 (bodyRoster 5 0 true 1)) (wAdm [] id)
def rosterAndFinal1_m : Msg := wMsg 0xB 0 (bodyRoster 5 0 true 1)
def rosterAndFinal1_x : StepSt := wRun (wAdm [] id)
def rosterAndFinal2_s : State := withPart (fun x => {x with step := some {wRun (wAdm [] id) with aset := none, rosters := [(1,true),(32,false),(33,true)]}}) (inPass (wAdm [] id))
def rosterAndFinal2_x : StepSt := {wRun (wAdm [] id) with aset := none, rosters := [(1,true),(32,false),(33,true)]}
def rosterAndFinal3_s : State := wHeld (wMsg 0xA 0 (bodyFinal 5 0 0 1)) (wAdm [] id)
def rosterAndFinal3_m : Msg := wMsg 0xA 0 (bodyFinal 5 0 0 1)
def rosterAndFinal3_q : Pass := wAdm [] id
def tallies1_s : State := wHeld wTally (wAdm [] id)
def tallies2_s : State := wHeld {wTally with body := wTally.body ++ [0]} (wAdm [] id)
def tallies2_m : Msg := {wTally with body := wTally.body ++ [0]}
def tallies3_s : State := wHeld wGwTally (wAdm [] id)
def tallies4_s : State := wHeld wTally (wAdm [] id) |> withPart (fun x => {x with step := some {wRun (wAdm [] id) with stepNo := 6}})
def grants1_s : State := inPass (wAdm [] (fun y => {y with tallies := wRx 0}))
def grants1_x : StepSt := wRun (wAdm [] (fun y => {y with tallies := wRx 0}))
def grants1_q : Pass := wAdm [] (fun y => {y with tallies := wRx 0})
def grants2_s : State := wHeld (wMsg 3 0 (bodyGrant 1 0 0 0 5 0 1)) (wAdm [wTick 3 1 1] (fun y => {y with sorted := true, out := [(1,0)]}))
def grants2_m : Msg := wMsg 3 0 (bodyGrant 1 0 0 0 5 0 1)
def grants2_x : StepSt := wRun (wAdm [wTick 3 1 1] (fun y => {y with sorted := true, out := [(1,0)]}))
def grants2_q : Pass := wAdm [wTick 3 1 1] (fun y => {y with sorted := true, out := [(1,0)]})
def grants3_s : State := wHeld {wMsg 6 0 (bodyGwGrant 32 0 0 0 5 []) with src := 32} (wAdm [wTick 3 32 1] (fun y => {y with sorted := true, out := [(32,0)]}))
def grants3_m : Msg := {wMsg 6 0 (bodyGwGrant 32 0 0 0 5 []) with src := 32}
def grants3_x : StepSt := wRun (wAdm [wTick 3 32 1] (fun y => {y with sorted := true, out := [(32,0)]}))
def grants3_q : Pass := wAdm [wTick 3 32 1] (fun y => {y with sorted := true, out := [(32,0)]})
def grants4_s : State := inPass (wAdm [] (fun y => {y with fans := [wFan (fun f => {f with answers := [(0,1,false)]})]}))
def grants4_x : StepSt := wRun (wAdm [] (fun y => {y with fans := [wFan (fun f => {f with answers := [(0,1,false)]})]}))
def grants4_q : Pass := wAdm [] (fun y => {y with fans := [wFan (fun f => {f with answers := [(0,1,false)]})]})
def grants4_f : GwFan := wFan (fun f => {f with answers := [(0,1,false)]})
def piles1_s : State := wHeld wPile (wAdm [] (fun y => {y with tallies := [wOwed], tallyIn := true, runs := [(0, 0, 1, 1)], ranAll := true}))
def piles1_x : StepSt := wRun (wAdm [] (fun y => {y with tallies := [wOwed], tallyIn := true, runs := [(0, 0, 1, 1)], ranAll := true}))
def piles1_q : Pass := wAdm [] (fun y => {y with tallies := [wOwed], tallyIn := true, runs := [(0, 0, 1, 1)], ranAll := true})
def piles2_s : State := wHeld wPile (wAdm [] (fun y => {y with tallies := [wOwed]}))
def piles2_x : StepSt := wRun (wAdm [] (fun y => {y with tallies := [wOwed]}))
def piles2_q : Pass := wAdm [] (fun y => {y with tallies := [wOwed]})
def piles3_s : State := wHeld wGwPile (wAdm [] (fun y => {y with fans := [wFan id]}))
def piles3_x : StepSt := wRun (wAdm [] (fun y => {y with fans := [wFan id]}))
def piles3_q : Pass := wAdm [] (fun y => {y with fans := [wFan id]})
def piles3_f : GwFan := wFan id
def piles3_rs : List GwRow := [⟨1, 7, [(0, 0, 0)], zeros 256⟩]
def piles3_g : GwFan := wFan (fun f => {f with cells := [0]})
def piles4_s : State := starvedSys (wHeld wGwPile (wAdm [] (fun y => {y with fans := [wFan id]})))
def piles5_s : State := inPass (wAdm [] wArr) |> fun s => {s with hamper := {s.hamper with reserved := [(0, 1)]}}
def piles5_x : StepSt := wRun (wAdm [] wArr)
def piles5_q : Pass := wAdm [] wArr
def piles6_s : State := moved (inPass (wAdm [] (fun y => {y with tallyIn := true, tallies := wRx 2})))
def piles6_x : StepSt := wRun (wAdm [] (fun y => {y with tallyIn := true, tallies := wRx 2}))
def piles6_q : Pass := wAdm [] (fun y => {y with tallyIn := true, tallies := wRx 2})
def piles7_s : State := inPass (wAdm [] (fun y => {y with tallyIn := true, tallies := wRx 2}))
def piles8_s : State := starved (inPass (wAdm [] (fun y => {y with tallyIn := true, tallies := wRx 2})))
def returns1_r : SeamReq := wReq 2 (toLE 4 5 ++ zeros 12)
def returns2_s : State := {wLoad with seam := {wLoad.seam with cmpls := [(2, toLE 4 5 ++ zeros 4)]}}
def returns3_data : Bytes := toLE 4 5 ++ zeros 4
def returns4_s : State := tabbed (wTab id) wLoad
def returns4_data : Bytes := toLE 4 6 ++ zeros 4
def returns6_v : WorkTab := { wRowTab with answered := true }
def returns7_s : State := wHeld (wMsg 7 0 (directPile 0 1 0 0 8 5 0 [wRowOf 3])) (wAdm [wTick 3 1 4] (fun y => {y with sorted := true}))
def returns7_m : Msg := (wMsg 7 0 (directPile 0 1 0 0 8 5 0 [wRowOf 3]))
def returns7_x : StepSt := wRun (wAdm [wTick 3 1 4] (fun y => {y with sorted := true}))
def returns7_q : Pass := wAdm [wTick 3 1 4] (fun y => {y with sorted := true})
def returns8_s : State := chan1 wRel 5 (wHeld (wMsg 7 0 (directPile 1 32 0 0 8 5 0 [wRowOf 3])) (wAdm [] id))
def returns8_m : Msg := (wMsg 7 0 (directPile 1 32 0 0 8 5 0 [wRowOf 3]))
def returns9_s : State := chan1 wRel 5 (wHeld (wMsg 7 0 (directPile 1 32 0 0 8 5 0 [wRowOf 3])) (wAdm [] id)) |> fun s => {s with link := {s.link with slots := [{(⟨30, 0, 1, 0, 7, 0, true, true, 1, 1, 1, 1, [], 0⟩ : SlotHold) with n := 0}]}}
def returns9_k : SlotHold := {(⟨30, 0, 1, 0, 7, 0, true, true, 1, 1, 1, 1, [], 0⟩ : SlotHold) with n := 0}
def returns10_s : State := chan1 wRel 5 (wHeld (wMsg 7 0 (directPile 1 32 0 0 8 5 0 [wRowOf 3])) (wAdm [] id)) |> fun s => {s with link := {s.link with slots := [{(⟨30, 0, 1, 0, 7, 0, true, true, 1, 1, 1, 1, [], 0⟩ : SlotHold) with n := 0, whole := false, len := 900}]}}
def returns10_k : SlotHold := {(⟨30, 0, 1, 0, 7, 0, true, true, 1, 1, 1, 1, [], 0⟩ : SlotHold) with n := 0, whole := false, len := 900}
def returns11_s : State := chan1 wRel 5 (wHeld (wMsg 7 0 (directPile 1 32 0 0 8 5 0 [wRowOf 3])) (wAdm [] id)) |> fun s => {s with link := {s.link with slots := [{(⟨30, 0, 1, 0, 7, 0, true, true, 1, 1, 1, 1, [], 0⟩ : SlotHold) with n := 1}]}}
def returns11_k : SlotHold := {(⟨30, 0, 1, 0, 7, 0, true, true, 1, 1, 1, 1, [], 0⟩ : SlotHold) with n := 1}
def returns12_s : State := wHeld (wMsg 7 0 (directPile 1 32 0 0 8 5 0 [wRowOf 3])) (wAdm [] id) |> fun s => {s with link := {s.link with dead := [(32, 0)]}}
def returns13_s : State := inPass (wAdm [wTick 3 1 5] (fun y => {y with sorted := true}))
def returns13_x : StepSt := wRun (wAdm [wTick 3 1 5] (fun y => {y with sorted := true}))
def returns13_q : Pass := wAdm [wTick 3 1 5] (fun y => {y with sorted := true})
def returns14_s : State := wHeld (wMsg 9 0 (bodyVoid 1 1 1 0 0 5 0)) (wAdm [] id)
def returns14_m : Msg := (wMsg 9 0 (bodyVoid 1 1 1 0 0 5 0))
def fold1_s : State := withPart (fun y => {y with step := some {wRun (wPass [wTok (fun u => {u with whole := true})] (fun q => {q with blocks := [0]})) with combRec := recOf 64 [(0,1,1),(1,1,1)]}}) (inPass (wAdm [] id))
def fold1_x : StepSt := {wRun (wPass [wTok (fun u => {u with whole := true})] (fun q => {q with blocks := [0]})) with combRec := recOf 64 [(0,1,1),(1,1,1)]}
def fold1_q : Pass := wPass [wTok (fun u => {u with whole := true})] (fun q => {q with blocks := [0]})
def fold2_s : State := withPart (fun y => {y with step := some {wRun (wPass [wTok id] (fun q => {q with blocks := [0]})) with combRec := recOf 64 [(0,1,1),(1,1,1)]}}) (inPass (wAdm [] id))
def fold2_x : StepSt := {wRun (wPass [wTok id] (fun q => {q with blocks := [0]})) with combRec := recOf 64 [(0,1,1),(1,1,1)]}
def fold2_q : Pass := wPass [wTok id] (fun q => {q with blocks := [0]})
def fold2_u : Tok := wTok id
def fold3_s : State := inPass (wAdm [{wTick 3 1 5 with out := zeros 256}] (fun y => {y with sorted := true, returnsDone := true}))
def fold3_x : StepSt := wRun (wAdm [{wTick 3 1 5 with out := zeros 256}] (fun y => {y with sorted := true, returnsDone := true}))
def fold3_q : Pass := wAdm [{wTick 3 1 5 with out := zeros 256}] (fun y => {y with sorted := true, returnsDone := true})
def fold5_s : State := (let s := leaking (keyFold 3) 2097152 wLoad; {s with fold := {s.fold with buckets := List.replicate 4 1}})
def passAndStepEnd1_s : State := inPass (wOver [(0x170000, 1, 0x3F800000)])
def passAndStepEnd1_x : StepSt := wRun (wOver [(0x170000, 1, 0x3F800000)])
def passAndStepEnd1_q : Pass := wOver [(0x170000, 1, 0x3F800000)]
def passAndStepEnd2_s : State := inPass ({ wOver [] with admitted := true })
def passAndStepEnd2_x : StepSt := wRun ({ wOver [] with admitted := true })
def passAndStepEnd2_q : Pass := { wOver [] with admitted := true }
def passAndStepEnd3_s : State := inPass ({ wOver [] with journaled := true })
def passAndStepEnd3_x : StepSt := wRun ({ wOver [] with journaled := true })
def passAndStepEnd3_q : Pass := { wOver [] with journaled := true }
def passAndStepEnd4_s : State := inRed 512 (wReds [] (fun x => {x with nextLayer := 2, lstat := [0,0]}))
def passAndStepEnd4_x : StepSt := wReds [] (fun x => {x with nextLayer := 2, lstat := [0,0]})
def passAndStepEnd5_s : State := inRed 512 (wReds [] (fun x => {x with nextLayer := 2, lstat := [0,0], fin := 1}))
def passAndStepEnd5_x : StepSt := wReds [] (fun x => {x with nextLayer := 2, lstat := [0,0], fin := 1})
def passAndStepEnd6_s : State := (inRed 512 (wReds [] (fun x => {x with nextLayer := 2, lstat := [0,0], fin := 2}))).onGroup 0 (fun g => {g with cur := some wEnds})
def passAndStepEnd6_x : StepSt := wReds [] (fun x => {x with nextLayer := 2, lstat := [0,0], fin := 2})
def reduction1_s : State := (inRed 512 (wReds [] id)).onGroup 0 (fun g => {g with bells := [(0,0,true)]})
def reduction1_x : StepSt := wReds [] id
def reduction2_s : State := inRed 1 (wReds [wRed (fun r => {r with right := [(1025, 0, [0, 0])], bufs := [(0, 1, 1025)]})] id)
def reduction2_x : StepSt := wReds [wRed (fun r => {r with right := [(1025, 0, [0, 0])], bufs := [(0, 1, 1025)]})] id
def reduction2_r : Red := wRed (fun r => {r with right := [(1025, 0, [0, 0])], bufs := [(0, 1, 1025)]})
def reduction2_a : List F32 := [0,0]
def reduction3_s : State := inRed 512 (wReds [wRed id] id)
def reduction3_x : StepSt := wReds [wRed id] id
def reduction3_r : Red := wRed id
def reduction5_s : State := holding (ownMsg 0x20 1 (bodyFdValue 5 0 3 0 false false [1,2])) (inRed 512 (wReds [wRed id] id))
def reduction5_m : Msg := ownMsg 0x20 1 (bodyFdValue 5 0 3 0 false false [1,2])
def reduction6_s : State := holding (ownMsg 0x22 1 (bodyFd 5 0 1 1)) (inRed 512 (wReds [wRed id] id))
def reduction6_m : Msg := ownMsg 0x22 1 (bodyFd 5 0 1 1)
def reduction7_s : State := holding (ownMsg 0x21 1 (bodyFdValue 5 0 1 0 false true [1,2])) (inRed 0 (wReds [wRed id] id))
def reduction7_m : Msg := ownMsg 0x21 1 (bodyFdValue 5 0 1 0 false true [1,2])
def reduction8_s : State := inRed 512 (wReds [wRed (fun r => {r with chunkSt := [2]})] id)
def reduction8_x : StepSt := wReds [wRed (fun r => {r with chunkSt := [2]})] id
def reduction8_r : Red := wRed (fun r => {r with chunkSt := [2]})
def reduction9_s : State := holding (ownMsg 0x23 1 (bodyFd 5 0 0 1)) (inRed 512 (wReds [] id))
def reduction9_m : Msg := ownMsg 0x23 1 (bodyFd 5 0 0 1)
def reduction10_s : State := inRed 512 (wReds [wRed (fun r => {r with chunkSt := [3], crcs := [(0,(crc64 (zeros 8)).toNat)], state := 2})] (fun x => {x with nextLayer := 2}))
def reduction10_x : StepSt := wReds [wRed (fun r => {r with chunkSt := [3], crcs := [(0,(crc64 (zeros 8)).toNat)], state := 2})] (fun x => {x with nextLayer := 2})
def reduction10_r : Red := wRed (fun r => {r with chunkSt := [3], crcs := [(0,(crc64 (zeros 8)).toNat)], state := 2})

/-! ### Premises met -/

/-- Columns of zero weights are zero. -/
theorem column_zero (n m i : Nat) : column (List.replicate n (List.replicate m (0 : F32))) i = List.replicate n 0 := by
  simp only [column, List.map_replicate]
  congr 1
  by_cases h : i < m <;> simp [List.getD, h]

theorem getD_rep {α : Type} (n c : Nat) (x d : α) (h : c < n) : (List.replicate n x).getD c d = x := by
  simp [List.getD, h]

theorem sum_zero : sum32 (List.replicate 128 0) = 0 := by decide +kernel

theorem wsum_zero : (List.range 128).map (fun i => sum32 (column (List.replicate 128 (List.replicate 128 0)) i))
    = List.replicate 128 0 := by
  simp only [column_zero, sum_zero]
  simp

/-- With zero weights a token row whose partials do not sum to zero fails the check. -/
theorem zero_weights_bad (errs : List CellErr) (a p : List F32)
    (he : errs.reverse.find? (fun e => e.row == 0 && e.col == 128) = none)
    (h : checkSum (dot32 a (List.replicate 128 0)) (sum32 p) (dot32 (a.map f32Abs) (List.replicate 128 0)) = some true) :
    (runChecks 1 0 errs [[a]] [List.replicate 128 (List.replicate 128 0)] [[p]]).bad = true := by
  have h0 : f32Abs 0 = 0 := by decide +kernel
  have hw : (List.range 128).map (fun i => sum32 ((column (List.replicate 128 (List.replicate 128 0)) i).map f32Abs))
      = List.replicate 128 0 := by
    simp only [column_zero, List.map_replicate, h0, sum_zero]
    simp
  have hr : List.range 1 = [0] := rfl
  have hl : ((List.replicate 128 (List.replicate 128 (0 : F32))).headD []).length = 128 := rfl
  unfold runChecks RunCheck.bad
  simp only [List.length_cons, List.length_nil, List.getD_cons_zero, List.headD_cons, Nat.zero_add, hr, hl, wsum_zero, hw,
    List.flatMap_cons, List.flatMap_nil, List.map_cons, List.map_nil, List.append_nil, List.find?_cons, Nat.zero_mul, he,
    Option.map_none, Option.getD_none, h, beq_self_eq_true, Option.map_some, Option.isSome_some, Bool.true_or]

/-- The checksum row of equal columns. -/
theorem cells_rep (x : List F32) (f : List F32 → F32) :
    ((List.replicate 128 x).zip (List.range 128)).map (fun w => f w.1) = List.replicate 128 (f x) := by
  rw [List.eq_replicate_iff]
  refine ⟨by simp, fun b hb => ?_⟩
  obtain ⟨w, hw, rfl⟩ := List.mem_map.1 hb
  rw [(List.mem_replicate.1 (List.of_mem_zip hw).1).2]

/-- With zero weights and zero partials every check passes. -/
theorem zero_weights_good (a : List F32) (as am : List F32)
    (has : (List.range 128).map (fun i => sum32 (column [a] i)) = as)
    (ham : (List.range 128).map (fun i => sum32 ((column [a] i).map f32Abs)) = am)
    (h : checkSum (dot32 a (List.replicate 128 0)) (sum32 (List.replicate 128 0))
      (dot32 (a.map f32Abs) (List.replicate 128 0)) = some false)
    (hc : checkSum (dot32 as (List.replicate 128 0)) (sum32 [0]) (dot32 am (List.replicate 128 0)) = some false)
    (hk : checkSum (dot32 as (List.replicate 128 0)) (sum32 (List.replicate 128 (dot32 as (List.replicate 128 0))))
      (dot32 am (List.replicate 128 0)) = some false) :
    (runChecks 1 0 [] [[a]] [List.replicate 128 (List.replicate 128 0)] [[List.replicate 128 0]]).bad = false := by
  have h0 : f32Abs 0 = 0 := by decide +kernel
  have hw : (List.range 128).map (fun i => sum32 ((column (List.replicate 128 (List.replicate 128 0)) i).map f32Abs))
      = List.replicate 128 0 := by
    simp only [column_zero, List.map_replicate, h0, sum_zero]
    simp
  have hr : List.range 1 = [0] := rfl
  have hl : ((List.replicate 128 (List.replicate 128 (0 : F32))).headD []).length = 128 := rfl
  have hz : ∀ c, column [List.replicate 128 (0 : F32)] c = [0] := fun c => column_zero 1 128 c
  unfold runChecks RunCheck.bad
  simp only [List.length_cons, List.length_nil, List.getD_cons_zero, List.headD_cons, Nat.zero_add, hr, hl, wsum_zero, hw,
    List.flatMap_cons, List.flatMap_nil, List.map_cons, List.map_nil, List.append_nil, List.find?_cons, List.reverse_nil,
    List.find?_nil, Option.map_none, Option.getD_none, h, has, ham, hz,
    cells_rep (List.replicate 128 0) (dot32 as), List.length_replicate, hk]
  have hn : List.find? (fun e : Nat × Option Bool => e.2 == some true)
      ((List.range 128).map (fun c => (c, checkSum ((List.replicate 128 (dot32 as (List.replicate 128 0))).getD c 0)
        (sum32 [0]) (dot32 am (List.map f32Abs ((List.replicate 128 (List.replicate 128 0)).getD c [])))))) = none := by
    rw [List.find?_eq_none]
    intro e he
    obtain ⟨c, hc', rfl⟩ := List.mem_map.1 he
    have hc' := List.mem_range.1 hc'
    have e1 : (List.replicate 128 (dot32 as (List.replicate 128 0))).getD c 0 = dot32 as (List.replicate 128 0) :=
      getD_rep _ _ _ _ hc'
    have e2 : (List.replicate 128 (List.replicate 128 (0 : F32))).getD c [] = List.replicate 128 0 :=
      getD_rep _ _ _ _ hc'
    simp only [e1, e2, List.map_replicate, h0, hc]
    decide
  rw [hn]
  rfl
/-- The parts of a run over router rows of zeros. -/
theorem runData_zero (s : State) (p : Nat) (e pr : Bytes) (n : Nat) (t : Tok) (a : List F32) (het : leEtype e = 1)
    (hg : 0 < segCount e)
    (hrow : ∀ c, (if c < tileRows pr e n then s.routerRow p e (128 * n + c) else []) = zeros 256
      ∨ (if c < tileRows pr e n then s.routerRow p e (128 * n + c) else []) = [])
    (hw : (wStream 1 (zeros 256) 0).map enc32 = List.replicate 128 0)
    (ha : (aStream 1 t.actHi t.actLo 0).map enc32 = a)
    (hp : segPartial (aStream 1 t.actHi t.actLo 0) (wStream 1 (zeros 256) 0) = 0) :
    (s.runData p e pr n 0 1 [t]).acts = [[a]]
      ∧ (s.runData p e pr n 0 1 [t]).wts = [List.replicate 128 (List.replicate 128 0)]
      ∧ (s.runData p e pr n 0 1 [t]).parts = [[List.replicate 128 0]] := by
  have h1 : (List.range 1).filter (fun g => decide (0 + g < segCount e)) = [0] := by
    simp [List.range_one, hg]
  have h0 : enc32 (Fp.fin false 0 0) = 0 := by decide +kernel
  have hz : (zeros 256).isEmpty = false := rfl
  unfold State.runData
  simp only [het, h1, List.map_cons, List.map_nil, Nat.add_zero, ha, List.map_map, show ((1 : Nat) = 0) = False by decide,
    if_false, List.zip_cons_cons, List.zip_nil_right]
  refine ⟨trivial, ?_, ?_⟩
  · congr 1
    rw [List.eq_replicate_iff]
    refine ⟨by simp, fun b hb => ?_⟩
    obtain ⟨c, -, rfl⟩ := List.mem_map.1 hb
    simp only [Function.comp]
    rcases hrow c with h | h <;> rw [h]
    · simp only [hz, Bool.false_eq_true, if_false, hw]
    · simp only [List.isEmpty_nil, if_true, List.map_replicate, h0]
  · congr 2
    rw [List.eq_replicate_iff]
    refine ⟨by simp, fun b hb => ?_⟩
    obtain ⟨x, hx, rfl⟩ := List.mem_map.1 hb
    rw [List.zip_map'] at hx
    obtain ⟨c, -, rfl⟩ := List.mem_map.1 hx
    simp only [Function.comp]
    rcases hrow c with h | h <;> rw [h]
    · simp only [hz, Bool.false_eq_true, if_false, hp]
    · simp only [List.isEmpty_nil, if_true]
/-- StepTakesFront, clause 1. -/
theorem test_stepTakesFront1 :
    stepTakesFront1_s.pending = [stepTakesFront1_c] := by decide +kernel
/-- StepTakesFront, clause 2. -/
theorem test_stepTakesFront2 :
    wHead.pending = [] := by decide +kernel
/-- StepKeepsSound, clause 1. -/
theorem test_stepKeepsSound1 :
    wHead.sound := sound_up rfl (by decide +kernel)
/-- ResetCompletes, clause 1. -/
theorem test_reset1 :
    wHead.boot.rstLow = false := by decide +kernel
/-- ResetCompletes, clause 2. -/
theorem test_reset2 :
    wLow.boot.rstLow = true := by decide +kernel
/-- ResetCompletes, clause 4. -/
theorem test_reset4 :
    reset3_s.recd.present = false := by decide +kernel
/-- ResetCompletes, clause 5. -/
theorem test_reset5 :
    wHead.recd.present = true := by decide +kernel
/-- StartBegins, clause 1. -/
theorem test_startBegins1 :
    wLow.boot.rstLow = true ∧ wLow.recd.present = true ∧ wLow.power.thermLow = false
    ∧ (wLow.boot.keys.all fun x => x == 0) = false := by decide +kernel
/-- StartBegins, clause 2. -/
theorem test_startBegins2 :
    startBegins2_s.boot.rstLow = true ∧ startBegins2_s.recd.present = true
    ∧ (startBegins2_s.boot.keys.all fun x => x == 0) = true := by decide +kernel
/-- StartBegins, clause 3. -/
theorem test_startBegins3 :
    startBegins3_s.boot.rstLow = true ∧ startBegins3_s.recd.present = true ∧ startBegins3_s.power.thermLow = true
    ∧ (startBegins3_s.boot.keys.all fun x => x == 0) = false := by decide +kernel
/-- StartBegins, clause 4. -/
theorem test_startBegins4 :
    startBegins4_s.boot.rstLow = false ∧ startBegins4_s.boot.state = 1 ∧ startBegins4_s.boot.waiting = none
    ∧ startBegins4_s.boot.reasonA = 15 ∧ startBegins4_s.boot.reasonB = 15 := by decide +kernel
/-- StartBegins, clause 5. -/
theorem test_startBegins5 :
    startBegins5_s.boot.rstLow = false ∧ startBegins5_s.boot.state = 1 ∧ startBegins5_s.boot.waiting = none
    ∧ startBegins5_s.power.alertLow = false ∧ startBegins5_s.boot.reasonA = 0 ∧ startBegins5_s.boot.reasonB = 15
    ∧ startBegins5_s.boot.againA = false ∧ startBegins5_s.boot.againB = false := by decide +kernel
/-- StartBegins, clauses 6, 7, 8. -/
theorem test_startBegins6 :
    startBegins6_s.boot.reasonA = 0 ∧ startBegins6_s.boot.reasonB = 0
    ∧ fld startBegins6_s.boot.imgA 8 4 < fld startBegins6_s.boot.imgB 8 4 := by decide +kernel
/-- StartBegins, clauses 9, 10, 11. -/
theorem test_startBegins9 :
    startBegins9_s.boot.reasonA = 0 ∧ startBegins9_s.boot.reasonB = 0
    ∧ fld startBegins9_s.boot.imgB 8 4 < fld startBegins9_s.boot.imgA 8 4 := by decide +kernel
/-- StartBegins, clauses 12, 13. -/
theorem test_startBegins12 :
    startBegins12_s.boot.reasonA = 0 ∧ startBegins12_s.boot.reasonB = 0
    ∧ fld startBegins12_s.boot.imgA 8 4 = fld startBegins12_s.boot.imgB 8 4
    ∧ imgHashOf startBegins12_s.boot.imgA ≠ imgHashOf startBegins12_s.boot.imgB := by decide +kernel
/-- StartStatesComplete, clause 1. -/
theorem test_startStates1 :
    startStates1_s.boot.rstLow = false ∧ startStates1_s.boot.state = 3 ∧ startStates1_s.boot.waiting = none
    ∧ startStates1_s.power.alertLow = false
    ∧ 995 * (10000 + 1000 * fld (selHdr startStates1_s.boot) 20 1) ≤ 1000 * 10000
    ∧ 1000 * 10000 ≤ 1005 * (10000 + 1000 * fld (selHdr startStates1_s.boot) 20 1) := by decide +kernel
/-- StartStatesComplete, clause 2. -/
theorem test_startStates2 :
    startStates1_s.boot.rstLow = false ∧ startStates1_s.boot.state = 3 ∧ startStates1_s.boot.waiting = none
    ∧ (1000 * 10051 < 995 * (10000 + 1000 * fld (selHdr startStates1_s.boot) 20 1) ∨ 1005 * (10000 + 1000 * fld (selHdr startStates1_s.boot) 20 1) < 1000 * 10051) := by decide +kernel
/-- StartStatesComplete, clause 3. -/
theorem test_startStates3 :
    startStates3_s.boot.rstLow = false ∧ startStates3_s.boot.state = 4 ∧ startStates3_s.boot.waiting = none
    ∧ startStates3_s.power.alertLow = false := by decide +kernel
/-- StartStatesComplete, clause 4. -/
theorem test_startStates4 :
    startStates4_s.boot.rstLow = false ∧ startStates4_s.power.rampOn = true ∧ startStates4_s.power.ramps = [33, 34] := by decide +kernel
/-- StartStatesComplete, clause 5. -/
theorem test_startStates5 :
    startStates5_s.boot.rstLow = false ∧ startStates5_s.boot.state = 6 ∧ startStates5_s.boot.waiting = none
    ∧ imgHashOf startBegins1_a ≠ startStates5_s.boot.imgHash := by decide +kernel
/-- StartStatesComplete, clause 7. -/
theorem test_startStates7 :
    startStates7_s.boot.rstLow = false ∧ startStates7_s.power.alertLow = false ∧ startStates7_s.boot.state = 8
    ∧ startStates7_s.boot.waiting = none := by decide +kernel
/-- StartStatesComplete, clause 8. -/
theorem test_startStates8 :
    startStates8_s.boot.rstLow = false ∧ startStates8_s.power.alertLow = false ∧ startStates8_s.boot.state = 9
    ∧ startStates8_s.boot.waiting = none ∧ startStates8_s.headMgr = true ∧ startStates8_s.stitch.state = 0 := by decide +kernel
/-- StartStatesComplete, clause 9. -/
theorem test_startStates9 :
    startStates9_s.boot.rstLow = false ∧ startStates9_s.power.alertLow = false ∧ startStates9_s.boot.state = 9
    ∧ startStates9_s.headMgr = false ∧ startStates9_s.stitch.state = 0 ∧ 1000 ≤ startStates9_s.stitch.lockRun := by decide +kernel
/-- StartStatesComplete, clause 10. -/
theorem test_startStates10 :
    startStates10_s.boot.rstLow = false ∧ startStates10_s.boot.state = 9 ∧ startStates10_s.boot.waiting = none
    ∧ startStates10_s.headMgr = false ∧ startStates10_s.stitch.state ≠ 1 := by decide +kernel
/-- StartStatesComplete, clause 11. -/
theorem test_startStates11 :
    startStates11_s.boot.rstLow = false ∧ startStates11_s.boot.state = 10 ∧ startStates11_s.boot.waiting = none
    ∧ startStates11_s.power.alertLow = false := by decide +kernel
/-- KeyStoreCompletes, clause 1. -/
theorem test_keyStore1 :
    keyStore1_s.boot.rstLow = false ∧ bit (BitVec.toNat keyStore1_v) 8 = true ∧ keyStore1_s.boot.state = 15
    ∧ keyStore1_s.boot.code = 3 ∧ keyStore1_s.boot.keyBusy = none ∧ BitVec.toNat keyStore1_v % 16 < 12
    ∧ keyStore1_s.boot.keys.getD (BitVec.toNat keyStore1_v % 16) 0 = 0 := by decide +kernel
/-- KeyStoreCompletes, clause 2. -/
theorem test_keyStore2 :
    keyStore1_s.boot.rstLow = false ∧ bit (BitVec.toNat keyStore2_v) 8 = true
    ∧ (keyStore1_s.boot.state ≠ 15 ∨ keyStore1_s.boot.code ≠ 3 ∨ keyStore1_s.boot.keyBusy ≠ none ∨ 12 ≤ BitVec.toNat keyStore2_v % 16 ∨ keyStore1_s.boot.keys.getD (BitVec.toNat keyStore2_v % 16) 0 ≠ 0) := by decide +kernel
/-- KeyStoreCompletes, clause 3. -/
theorem test_keyStore3 :
    keyStore3_s.boot.keyBusy = some (11, keyStore3_w) := by decide +kernel
/-- PowerPinsComplete, clause 1. -/
theorem test_powerPins1 :
    wHead.boot.rstLow = false ∧ wHead.power.alertLow = false ∧ spWf wHead.regs = true
    ∧ wHead.powered rPWR_ALERT_CNT = true := by decide +kernel
/-- PowerPinsComplete, clause 2. -/
theorem test_powerPins2 :
    powerPins2_s.power.alertLow = true ∧ powerPins2_s.boot.waiting = none := by decide +kernel
/-- PowerPinsComplete, clause 3. -/
theorem test_powerPins3 :
    powerPins3_s.power.alertLow = true ∧ powerPins3_s.boot.waiting = some 8 := by decide +kernel
/-- PowerPinsComplete, clause 4. -/
theorem test_powerPins4 :
    wHead.boot.rstLow = false ∧ wHead.power.thermLow = false ∧ wHead.boot.state = 11 ∧ spWf wHead.regs = true
    ∧ wHead.powered rTHERM_CNT = true := by decide +kernel
/-- PowerPinsComplete, clause 5. -/
theorem test_powerPins5 :
    startBegins4_s.boot.rstLow = false ∧ startBegins4_s.power.thermLow = false ∧ 1 ≤ startBegins4_s.boot.state
    ∧ startBegins4_s.boot.state ≤ 10 := by decide +kernel
/-- PowerPinsComplete, clause 6. -/
theorem test_powerPins6 :
    powerPins6_s.power.thermLow = true := by decide +kernel
/-- ManagersComplete, clause 1. -/
theorem test_managers1 :
    due managers1_s managers1_m 29 ∧ managers1_s.isDead managers1_m.src = false ∧ List.length managers1_m.body = 16
    ∧ rsv managers1_m.body 1 7 = true ∧ 4 ≤ fld managers1_m.body 0 1 ∧ fld managers1_m.body 0 1 ≤ 16 := ⟨⟨by decide +kernel, by decide +kernel⟩, by decide +kernel⟩
/-- ManagersComplete, clause 2. -/
theorem test_managers2 :
    due managers2_s managers2_m 26 ∧ managers2_s.isDead managers2_m.src = false ∧ List.length managers2_m.body = 16
    ∧ fld managers2_m.body 0 8 % 1562500 = 0 := ⟨⟨by decide +kernel, by decide +kernel⟩, by decide +kernel⟩
/-- ManagersComplete, clause 3. -/
theorem test_managers3 :
    due managers3_s managers3_m 23 ∧ managers3_s.isDead managers3_m.src = false ∧ List.length managers3_m.body = 80
    ∧ rsv managers3_m.body 1 7 = true ∧ fld managers3_m.body 0 1 = managers3_s.pod := ⟨⟨by decide +kernel, by decide +kernel⟩, by decide +kernel⟩
/-- ManagersComplete, clause 4. -/
theorem test_managers4 :
    due managers4_s managers4_m 22 ∧ managers4_s.isDead managers4_m.src = false ∧ List.length managers4_m.body = 144
    ∧ rsv managers4_m.body 1 7 = true ∧ fld managers4_m.body 0 1 = managers4_s.pod := ⟨⟨by decide +kernel, by decide +kernel⟩, by decide +kernel⟩
/-- ManagersComplete, clause 5. -/
theorem test_managers5 :
    due managers5_s managers5_m 24 ∧ List.length managers5_m.body = 32 ∧ rsv managers5_m.body 2 2 = true
    ∧ rsv managers5_m.body 12 4 = true ∧ rsv managers5_m.body 24 8 = true ∧ managers5_s.podMgr = true
    ∧ fld managers5_m.body 0 2 / 32 = managers5_s.pod ∧ managers5_s.mgr.linkRows.length = 32
    ∧ managers5_s.mgr.railRows.length = 32 := ⟨⟨by decide +kernel, by decide +kernel⟩, by decide +kernel⟩
/-- ManagersComplete, clause 6. -/
theorem test_managers6 :
    managers6_s.boot.rstLow = false ∧ 8 ≤ managers6_s.boot.state ∧ managers6_s.boot.state ≤ 11
    ∧ managers6_s.link.reportDue = true ∧ managers6_s.link.retRep = []
    ∧ managers6_s.mgrOf managers6_s.pod = managers6_s.member := by decide +kernel
/-- ManagersComplete, clause 7. -/
theorem test_managers7 :
    managers7_s.inService = true ∧ managers7_s.podMgr = true ∧ managers7_s.mgr.calPend = true
    ∧ managers7_s.podPeers = [1] := by decide +kernel
/-- ManagersComplete, clause 8. -/
theorem test_managers8 :
    due managers8_s wCounts 19 ∧ 32 ≤ List.length wCounts.body ∧ fld wCounts.body 9 1 = 0
    ∧ rsv wCounts.body 14 18 = true ∧ managers8_s.podMgr = true ∧ managers8_s.gValid (fld wCounts.body 8 1) = true
    ∧ fld wCounts.body 12 2 = managers8_s.pLayers (managers8_s.gPart (fld wCounts.body 8 1))
    ∧ List.length wCounts.body = 32 + 8 * sumNat (managers8_s.expertCounts (managers8_s.gPart (fld wCounts.body 8 1)))
    ∧ managers8_s.biasU ≠ 0 ∧ managers8_s.isDead (fld wCounts.body 10 2) = false ∧ managers8_s.mgr.biasAcc = []
    ∧ 0 ∈ managers8_s.members (fld wCounts.body 8 1) ∧ 0 / 32 = managers8_s.pod ∧ 0 ≠ fld wCounts.body 10 2
    ∧ managers8_s.stepGroup (managers8_s.gPart (fld wCounts.body 8 1)) = fld wCounts.body 8 1
    ∧ managers8_s.launchOf (fld wCounts.body 8 1) = none := ⟨⟨by decide +kernel, by decide +kernel⟩, by decide +kernel⟩
/-- ManagersComplete, clause 9. -/
theorem test_managers9 :
    managers9_s.sound ∧ due managers9_s wBias 20 ∧ managers9_s.gPart (fld wBias.body 8 1) < 8
    ∧ List.length wBias.body = 32 + 4 * fld wBias.body 12 2 ∧ rsv wBias.body 9 1 = true ∧ rsv wBias.body 14 2 = true
    ∧ rsv wBias.body 20 12 = true ∧ managers9_s.gValid (fld wBias.body 8 1) = true
    ∧ fld wBias.body 10 2 < managers9_s.pLayers (managers9_s.gPart (fld wBias.body 8 1))
    ∧ fld wBias.body 12 2 = leExperts (managers9_s.layerEnt (managers9_s.gPart (fld wBias.body 8 1)) (fld wBias.body 10 2))
    ∧ allFinite (List.drop 32 wBias.body) = true ∧ managers9_s.isDead wBias.src = false
    ∧ managers9_s.stopped (managers9_s.gPart (fld wBias.body 8 1)) = false
    ∧ (managers9_s.tab (managers9_s.gPart (fld wBias.body 8 1)) 3).live.epoch < fld wBias.body 16 4
    ∧ 0 < fld wBias.body 10 2 := ⟨sound_up rfl (by decide +kernel), ⟨by decide +kernel, by decide +kernel⟩, by decide +kernel⟩
/-- DeathsComplete, clause 1. -/
theorem test_deaths1 :
    deaths1_s.sound ∧ due deaths1_s deaths1_m 28 ∧ List.length deaths1_m.body = 16 ∧ rsv deaths1_m.body 9 1 = true
    ∧ rsv deaths1_m.body 12 4 = true ∧ fld deaths1_m.body 10 2 < 512
    ∧ deaths1_s.gValid (fld deaths1_m.body 8 1) = true ∧ deaths1_s.gPart (fld deaths1_m.body 8 1) < 8
    ∧ deaths1_s.isDead deaths1_m.src = false ∧ deaths1_m.src / 32 = deaths1_s.pod
    ∧ (deaths1_s.part (deaths1_s.gPart (fld deaths1_m.body 8 1))).step = some wStep
    ∧ wStep.stepNo = fld deaths1_m.body 0 8 ∧ fld deaths1_m.body 10 2 ∉ wStep.stragglers
    ∧ deaths1_s.powered rSTRAGGLE_CNT = true := ⟨sound_up rfl (by decide +kernel), ⟨by decide +kernel, by decide +kernel⟩, by decide +kernel⟩
/-- DeathsComplete, clause 2. -/
theorem test_deaths2 :
    deaths2_s.inService = true ∧ deaths2_s.podMgr = true ∧ 1 < deaths2_s.podSize
    ∧ deaths2_s.isDead (32 * deaths2_s.pod + 1) = false ∧ deaths2_s.deathDue 1 = true := by decide +kernel
/-- DeathsComplete, clause 3. -/
theorem test_deaths3 :
    due deaths3_s deaths3_m 13 ∧ List.length deaths3_m.body = 16 ∧ rsv deaths3_m.body 4 4 = true
    ∧ fld deaths3_m.body 0 2 < 512 ∧ deaths3_s.isDead (fld deaths3_m.body 0 2) = false
    ∧ deaths3_s.isDead (fld deaths3_m.body 2 2) = false := ⟨⟨by decide +kernel, by decide +kernel⟩, by decide +kernel⟩
/-- DeathsComplete, clause 4. -/
theorem test_deaths4 :
    deaths4_s.sound ∧ due deaths4_s deaths4_m 30 ∧ List.length deaths4_m.body = 16 ∧ rsv deaths4_m.body 14 2 = true
    ∧ fld deaths4_m.body 9 1 ≤ 1 ∧ fld deaths4_m.body 12 2 < 512 ∧ deaths4_s.gValid (fld deaths4_m.body 8 1) = true
    ∧ deaths4_s.gPart (fld deaths4_m.body 8 1) < 8 ∧ deaths4_s.isDead (fld deaths4_m.body 12 2) = false
    ∧ (deaths4_s.part (deaths4_s.gPart (fld deaths4_m.body 8 1))).step = some wStep
    ∧ wStep.stepNo = fld deaths4_m.body 0 8 ∧ deaths4_s.powered rWITHDRAW_CNT = true := ⟨sound_up rfl (by decide +kernel), ⟨by decide +kernel, by decide +kernel⟩, by decide +kernel⟩
/-- DeathsComplete, clause 5. -/
theorem test_deaths5 :
    deaths5_s.sound ∧ due deaths5_s deaths5_m 30 ∧ List.length deaths5_m.body = 16 ∧ rsv deaths5_m.body 14 2 = true
    ∧ fld deaths5_m.body 9 1 ≤ 1 ∧ fld deaths5_m.body 12 2 < 512 ∧ deaths5_s.isDead (fld deaths5_m.body 12 2) = true
    ∧ deaths5_s.gValid (fld deaths5_m.body 8 1) = false ∧ deaths5_s.powered rWITHDRAW_CNT = true
    ∧ deaths5_s.powered rXCH_STALE_CNT = true := ⟨sound_up rfl (by decide +kernel), ⟨by decide +kernel, by decide +kernel⟩, by decide +kernel⟩
/-- DeathsComplete, clause 6. -/
theorem test_deaths6 :
    deaths6_s.sound ∧ 0 < 8 ∧ (deaths6_s.part 0).step = some wStep ∧ (deaths6_s.part 0).waits = [deaths6_w]
    ∧ deaths6_w.layer = 0 ∧ deaths6_w.micro = 0 ∧ deaths6_w.handler = 8 ∧ deaths6_s.missing 0 0 0 8 deaths6_w.src ≠ []
    ∧ deaths6_w.since + 32 * (deaths6_w.sent + 1) ≤ deaths6_s.stitch.count ∧ deaths6_s.powered rXCH_WAIT_CNT = true := ⟨sound_up rfl (by decide +kernel), by decide +kernel⟩
/-- DeathsComplete, clause 7. -/
theorem test_deaths7 :
    due deaths7_s deaths7_m 12 ∧ List.length deaths7_m.body = 80 ∧ rsv deaths7_m.body 15 1 = true
    ∧ deaths7_s.podMgr = true ∧ deaths7_s.gValid (fld deaths7_m.body 14 1) = true ∧ fld deaths7_m.body 11 1 ≤ 11
    ∧ deaths7_s.isDead (fld deaths7_m.body 12 2) = false
    ∧ List.filter (fun i => bit (fld deaths7_m.body (16 + i / 8) 1) (i % 8)) (List.range 512) = [1]
    ∧ deaths7_s.mgr.waits = [] ∧ 32 < fld (deaths7_s.sect 11) 8 4 := ⟨⟨by decide +kernel, by decide +kernel⟩, by decide +kernel⟩
/-- DeathsComplete, clause 8. -/
theorem test_deaths8 :
    due deaths8_s deaths8_m 12 ∧ (List.length deaths8_m.body ≠ 80 ∨ rsv deaths8_m.body 15 1 = false) := ⟨⟨by decide +kernel, by decide +kernel⟩, by decide +kernel⟩
/-- StitchReferenceCompletes, clause 1. -/
theorem test_stitchReference1 :
    wRef.usesRef = true ∧ Int.natAbs 16000 ≤ 16000 := by decide +kernel
/-- StitchReferenceCompletes, clause 1. -/
theorem test_stitchReference1b :
    stitchReference1b_s.usesRef = true ∧ (-16000).natAbs ≤ 16000 := by decide +kernel
/-- StitchReferenceCompletes, clause 2. -/
theorem test_stitchReference2 :
    wRef.usesRef = true ∧ 16000 < Int.natAbs 16001 ∧ spWf wRef.regs = true ∧ wRef.powered rREF_EXTRA_CNT = true := by decide +kernel
/-- StitchReferenceCompletes, clause 3. -/
theorem test_stitchReference3 :
    wRef.usesRef = true ∧ spWf wRef.regs = true ∧ wRef.powered rREF_MISS_CNT = true := by decide +kernel
/-- StitchReferenceCompletes, clause 3. -/
theorem test_stitchReference3b :
    stitchReference3b_s.usesRef = true ∧ spWf stitchReference3b_s.regs = true
    ∧ stitchReference3b_s.powered rREF_MISS_CNT = true := by decide +kernel
/-- StitchReferenceCompletes, clause 4. -/
theorem test_stitchReference4 :
    stitchReference4_s.stitch.state = 1
    ∧ (4 ≤ stitchReference4_s.stitch.badRun ∨ 16 ≤ stitchReference4_s.stitch.silentRun)
    ∧ spWf stitchReference4_s.regs = true ∧ stitchReference4_s.powered rSTITCH_EVT = true := by decide +kernel
/-- StitchReferenceCompletes, clause 5. -/
theorem test_stitchReference5 :
    stitchReference5_s.stitch.state = 1 ∧ stitchReference5_s.stitch.relocked = true ∧ stitchReference5_s.noStep = true
    ∧ stitchReference5_s.stitch.count ≠ stitchReference5_s.refCount ∧ spWf stitchReference5_s.regs = true
    ∧ stitchReference5_s.powered rSTITCH_EVT = true := by decide +kernel
/-- StitchReferenceCompletes, clause 7. -/
theorem test_stitchReference7 :
    stitchReference7_s.stitch.src = 1 ∧ 64 ≤ stitchReference7_s.stitch.directRun := by decide +kernel
/-- BoundaryCounts, clause 1. -/
theorem test_boundaryCounts1 :
    wHead.boot.rstLow = false ∧ 9 ≤ wHead.boot.state ∧ wHead.boot.state ≤ 11 := by decide +kernel
/-- BoundaryCounts, clause 1. -/
theorem test_boundaryCounts1b :
    boundaryCounts1b_s.boot.rstLow = false ∧ 9 ≤ boundaryCounts1b_s.boot.state ∧ boundaryCounts1b_s.boot.state ≤ 11 := by decide +kernel
/-- BoundaryCounts, clause 2. -/
theorem test_boundaryCounts2 :
    startStates7_s.boot.rstLow = true ∨ startStates7_s.boot.state < 9 ∨ 11 < startStates7_s.boot.state := by decide +kernel
/-- TimeFlitsComplete, clause 1. -/
theorem test_timeFlits1 :
    (timeFlits1_s.stitch.state = 1 ∨ timeFlits1_s.stitch.state = 3) ∧ 30 < 31 ∧ timeFlits1_s.active 30 = true
    ∧ timeFlits1_s.boot.rstLow = false ∧ timeFlits1_s.chan 30 = some wChan ∧ wChan.id = 30 ∧ wChan.port = 30
    ∧ wChan.markDue = false ∧ timeFlits1_s.sendDue 30 timeFlits1_s.stitch.marked 64 = true := by decide +kernel
/-- EventClearCompletes, clause 1. -/
theorem test_eventClear1 :
    wHead.boot.rstLow = false ∧ wHead.mgtBad rSTITCH_EVT = false ∧ kindAt rSTITCH_EVT = some RegKind.w1c
    ∧ statusGroup rSTITCH_EVT = none ∧ spWf wHead.regs = true ∧ wHead.boot.state ≠ 15 := by decide +kernel
/-- EventClearCompletes, clause 2. -/
theorem test_eventClear2 :
    eventClear2_s.boot.rstLow = false ∧ eventClear2_s.powered rGLOBAL_EVT = true ∧ spWf eventClear2_s.regs = true
    ∧ eventClear2_s.boot.state = 15 := by decide +kernel
/-- EventClearCompletes, clause 3. -/
theorem test_eventClear3 :
    eventClear3_s.boot.rstLow = false ∧ eventClear3_s.powered rGLOBAL_EVT = true ∧ spWf eventClear3_s.regs = true
    ∧ eventClear3_s.boot.state = 11 := by decide +kernel
/-- IrregularAccesses, clause 1. -/
theorem test_irregularAccesses1 :
    65538 % 4 ≠ 0 ∨ 2883584 ≤ 65538 := by decide +kernel
/-- IrregularAccesses, clauses 2, 3, 4, 5. -/
theorem test_irregularAccesses2 :
    wHead.boot.rstLow = false ∧ (kindAt 2883584 = none ∨ wHead.powered 2883584 = false) := by decide +kernel
/-- IrregularAccesses, clause 6. -/
theorem test_irregularAccesses6 :
    irregularAccesses6_s.boot.rstLow = false ∧ irregularAccesses6_s.powered (196640 + 4 * 0) = false := by decide +kernel
/-- IrregularAccesses, clause 7. -/
theorem test_irregularAccesses7 :
    irregularAccesses6_s.boot.rstLow = false ∧ irregularAccesses6_s.powered (1572872 + 1024 * 35) = false := by decide +kernel
/-- IrregularAccesses, clause 8. -/
theorem test_irregularAccesses8 :
    irregularAccesses8_s.boot.rstLow = false ∧ irregularAccesses8_s.powered (rJRN_CONSUMED_HI 0) = false := by decide +kernel
/-- IrregularAccesses, clause 9. -/
theorem test_irregularAccesses9 :
    wHead.boot.rstLow = false ∧ wHead.powered 0 = true ∧ kindAt 0 = some RegKind.ro := by decide +kernel
/-- CountersCount, clause 1. -/
theorem test_countersCount1 :
    spWf countersCount1_s.regs = true := by decide +kernel
/-- CountersCount, clauses 2, 4. -/
theorem test_countersCount2 :
    spWf countersCount1_s.regs = true ∧ countersCount1_s.powered rREF_MISS_CNT = true := by decide +kernel
/-- CountersCount, clause 3. -/
theorem test_countersCount3 :
    spWf countersCount1_s.regs = true ∧ countersCount1_s.powered rREF_MISS_CNT = true ∧ 64 ≠ rREF_MISS_CNT := by decide +kernel
/-- CountersCount, clause 5. -/
theorem test_countersCount5 :
    spWf wLow.regs = true ∧ wLow.powered countersCount5_a = false := by decide +kernel
/-- CountersCount, clause 6. -/
theorem test_countersCount6 :
    countersCount1_s.boot.rstLow = false ∧ countersCount1_s.powered rREF_MISS_CNT = true
    ∧ kindAt rREF_MISS_CNT = some RegKind.rc ∧ spWf countersCount1_s.regs = true := by decide +kernel
/-- SplitReadCompletes, clause 1. -/
theorem test_splitRead1 :
    wHead.boot.rstLow = false ∧ wHead.mgtBad 131072 = false ∧ wHead.splitAt 131072 = some (1000, rSTITCH_HI)
    ∧ spWf wHead.regs = true := by decide +kernel
/-- PlainWritesComplete, clause 1. -/
theorem test_plainWrites1 :
    wHead.boot.rstLow = false ∧ wHead.powered 65712 = true := by decide +kernel
/-- PlainWritesComplete, clause 2. -/
theorem test_plainWrites2 :
    7 < 8 ∧ wHead.boot.rstLow = false ∧ wHead.powered (rJRN_CONSUMED_LO 7) = true ∧ spWf wHead.regs = true := by decide +kernel
/-- PlainWritesComplete, clause 3. -/
theorem test_plainWrites3 :
    wHead.headMgr = true ∧ wHead.running = true ∧ wHead.powered 2621720 = true := by decide +kernel
/-- PlainWritesComplete, clause 4. -/
theorem test_plainWrites4 :
    wHead.boot.rstLow = false ∧ 3 < 4 ∧ spWf wHead.regs = true := by decide +kernel
/-- PlainWritesComplete, clause 5. -/
theorem test_plainWrites5 :
    wHead.headMgr = true ∧ wHead.running = true := by decide +kernel
/-- PlainWritesComplete, clause 6. -/
theorem test_plainWrites6 :
    plainWrites6_s.recd.present = true ∧ plainWrites6_s.boot.rstLow = false
    ∧ (plainWrites6_s.stitch.state = 1 ∨ plainWrites6_s.stitch.state = 3) ∧ plainWrites6_s.stitch.count % 1562500 = 0
    ∧ plainWrites6_s.recd.tickAt ≠ plainWrites6_s.stitch.count ∧ plainWrites6_s.recd.calPend = some 7 := by decide +kernel
/-- RuntimeWritesComplete, clause 1. -/
theorem test_runtimeWrites1 :
    runtimeWrites1_s.boot.rstLow = false ∧ 0 < 8 ∧ 0 < runtimeWrites1_s.parts.length
    ∧ runtimeWrites1_s.powered (rJRN_CONSUMED_HI 0) = true ∧ spWf runtimeWrites1_s.regs = true
    ∧ (runtimeWrites1_s.part 0).jrnC ≤ BitVec.toNat eventClear1_v * 2 ^ 32 + BitVec.toNat (runtimeWrites1_s.reg (rJRN_CONSUMED_LO 0))
    ∧ BitVec.toNat eventClear1_v * 2 ^ 32 + BitVec.toNat (runtimeWrites1_s.reg (rJRN_CONSUMED_LO 0)) ≤ (runtimeWrites1_s.part 0).jrnW := by decide +kernel
/-- RuntimeWritesComplete, clause 2. -/
theorem test_runtimeWrites2 :
    runtimeWrites2_s.boot.rstLow = false ∧ 0 < 8 ∧ 0 < runtimeWrites2_s.parts.length
    ∧ runtimeWrites2_s.powered (rJRN_CONSUMED_HI 0) = true ∧ spWf runtimeWrites2_s.regs = true
    ∧ (BitVec.toNat eventClear1_v * 2 ^ 32 + BitVec.toNat (runtimeWrites2_s.reg (rJRN_CONSUMED_LO 0)) < (runtimeWrites2_s.part 0).jrnC ∨ (runtimeWrites2_s.part 0).jrnW < BitVec.toNat eventClear1_v * 2 ^ 32 + BitVec.toNat (runtimeWrites2_s.reg (rJRN_CONSUMED_LO 0)))
    ∧ runtimeWrites2_s.powered rJRN_EVT = true := by decide +kernel
/-- RuntimeWritesComplete, clause 3. -/
theorem test_runtimeWrites3 :
    runtimeWrites3_s.boot.rstLow = false ∧ 7 ≤ runtimeWrites3_s.boot.state ∧ runtimeWrites3_s.boot.state ≤ 11
    ∧ 1 ≤ runtimeWrites3_s.power.window
    ∧ BitVec.toNat runtimeWrites3_v / 2 ^ 24 = (runtimeWrites3_s.power.window - 1) % 256 := by decide +kernel
/-- RuntimeWritesComplete, clause 4. -/
theorem test_runtimeWrites4 :
    runtimeWrites3_s.boot.rstLow = false ∧ 7 ≤ runtimeWrites3_s.boot.state ∧ runtimeWrites3_s.boot.state ≤ 11
    ∧ 1 ≤ runtimeWrites3_s.power.window
    ∧ BitVec.toNat runtimeWrites4_v / 2 ^ 24 ≠ (runtimeWrites3_s.power.window - 1) % 256
    ∧ runtimeWrites3_s.powered rTELEM_IGN_CNT = true ∧ spWf runtimeWrites3_s.regs = true := by decide +kernel
/-- ForcedWritesComplete, clause 1. -/
theorem test_forcedWrites1 :
    timeFlits1_s.boot.rstLow = false ∧ 35 < 36 ∧ timeFlits1_s.link.ports.length = 36
    ∧ timeFlits1_s.powered (1572872 + 1024 * 35) = true ∧ (timeFlits1_s.port 35).state = 5
    ∧ (timeFlits1_s.port 35).absent = false ∧ bit (BitVec.toNat eventClear1_v) 0 = true := by decide +kernel
/-- ForcedWritesComplete, clause 2. -/
theorem test_forcedWrites2 :
    timeFlits1_s.boot.rstLow = false ∧ 35 < 36 ∧ timeFlits1_s.link.ports.length = 36
    ∧ timeFlits1_s.powered (1572872 + 1024 * 35) = true ∧ (timeFlits1_s.port 35).state = 5
    ∧ (timeFlits1_s.port 35).absent = false ∧ bit (BitVec.toNat eventClear1_now) 0 = false := by decide +kernel
/-- ForcedWritesComplete, clause 4. -/
theorem test_forcedWrites4 :
    wHead.running = true ∧ wHead.self.state = 0 ∧ BitVec.toNat forcedWrites4_v / 256 % 256 ≠ 195
    ∧ spWf wHead.regs = true ∧ wHead.powered rST_EVT = true := by decide +kernel
/-- SelfTestCompletes, clauses 1, 2, 3, 4. -/
theorem test_selfTest1 :
    startBegins2_s.boot.rstLow = true := by decide +kernel
/-- SelfTestCompletes, clause 5. -/
theorem test_selfTest5 :
    startBegins2_s.boot.rstLow = true ∧ startBegins2_s.self.wrapper ≠ 4 := by decide +kernel
/-- SelfTestCompletes, clause 6. -/
theorem test_selfTest6 :
    selfTest6_s.boot.rstLow = true ∧ selfTest6_s.self.wrapper = 4 := by decide +kernel
/-- SelfTestCompletes, clause 7. -/
theorem test_selfTest7 :
    startBegins2_s.boot.rstLow = true ∧ startBegins2_s.recd.present = true := by decide +kernel
/-- SelfTestCompletes, clause 8. -/
theorem test_selfTest8 :
    selfTest8_s.running = true ∧ selfTest8_s.self.state = 1 ∧ selfTest8_s.drained = true := by decide +kernel
/-- SelfTestCompletes, clause 9. -/
theorem test_selfTest9 :
    selfTest9_s.self.state = 2 ∧ 11940 ≤ 11940 ∧ 11940 ≤ 16080 ∧ 700 ≤ 700 ∧ 700 ≤ 850 := by decide +kernel
/-- SelfTestCompletes, clause 9. -/
theorem test_selfTest9b :
    selfTest9_s.self.state = 2 ∧ 11940 ≤ 16080 ∧ 16080 ≤ 16080 ∧ 700 ≤ 850 ∧ 850 ≤ 850 := by decide +kernel
/-- SelfTestCompletes, clause 10. -/
theorem test_selfTest10 :
    selfTest9_s.self.state = 2 ∧ (11939 < 11940 ∨ 16080 < 11939) := by decide +kernel
/-- SelfTestCompletes, clause 11. -/
theorem test_selfTest11 :
    selfTest9_s.self.state = 2 ∧ 11940 ≤ 11940 ∧ 11940 ≤ 16080 ∧ (699 < 700 ∨ 850 < 699) := by decide +kernel
/-- SelfTestCompletes, clause 13. -/
theorem test_selfTest13 :
    selfTest13_s.self.state = 4 := by decide +kernel
/-- SelfTestCompletes, clause 14. -/
theorem test_selfTest14 :
    selfTest14_s.self.state = 5 ∧ selfTest14_s.recd.resultOfs = some 4096 ∧ selfTest14_s.self.code = 0
    ∧ selfTest14_s.self.wrapHeld = none := by decide +kernel
/-- SelfTestCompletes, clause 15. -/
theorem test_selfTest15 :
    selfTest14_s.self.state = 5 ∧ selfTest14_s.recd.resultOfs = some 4096 ∧ selfTest14_s.self.code = 0
    ∧ selfTest14_s.self.writeTry = 0 := by decide +kernel
/-- RecorderCompletes, clause 1. -/
theorem test_recorder1 :
    recorder1_s.lintDue (recorder1_s.lintNext 30000 recorder1_s.recd.lintPos) = true
    ∧ (recorder1_s.lintNext 30000 recorder1_s.recd.lintPos < 256 → ∀ r ∈ recorder1_s.press.runs, ∀ x ∈ r.span, x.1 ≠ recorder1_s.lintNext 30000 recorder1_s.recd.lintPos / 8) := by decide +kernel
/-- RecorderCompletes, clause 2. -/
theorem test_recorder2 :
    recorder1_s.lintDue (recorder1_s.lintNext 30000 recorder1_s.recd.lintPos) = true
    ∧ (recorder1_s.lintNext 30000 recorder1_s.recd.lintPos < 256 → ∀ r ∈ recorder1_s.press.runs, ∀ x ∈ r.span, x.1 ≠ recorder1_s.lintNext 30000 recorder1_s.recd.lintPos / 8)
    ∧ recorder1_s.self.lintAgain = false := by decide +kernel
/-- RecorderCompletes, clause 3. -/
theorem test_recorder3 :
    recorder3_s.inService = true ∧ 0 < recorder3_s.recd.uptime ∧ recorder3_s.recd.uptime % 600 = 0
    ∧ recorder3_s.recd.logAt ≠ recorder3_s.recd.uptime := by decide +kernel
/-- RecorderCompletes, clause 4. -/
theorem test_recorder4 :
    recorder4_s.recd.present = true ∧ recorder4_s.boot.rstLow = false ∧ recorder4_s.stitch.state = 3
    ∧ recorder4_s.stitch.count % 1562500 = 0 ∧ recorder4_s.recd.tickAt ≠ recorder4_s.stitch.count := by decide +kernel
/-- RecorderCompletes, clause 4. -/
theorem test_recorder4b :
    recorder4b_s.recd.present = true ∧ recorder4b_s.boot.rstLow = false ∧ recorder4b_s.stitch.state = 3
    ∧ recorder4b_s.stitch.count % 1562500 = 0 ∧ recorder4b_s.recd.tickAt ≠ recorder4b_s.stitch.count := by decide +kernel
/-- RecorderCompletes, clause 5. -/
theorem test_recorder5 :
    wHead.boot.rstLow = false ∧ 7 ≤ wHead.boot.state ∧ wHead.boot.state ≤ 11 ∧ wHead.power.wakeWin = none := by decide +kernel
/-- RecorderCompletes, clause 5. -/
theorem test_recorder5b :
    recorder5b_s.boot.rstLow = false ∧ 7 ≤ recorder5b_s.boot.state ∧ recorder5b_s.boot.state ≤ 11
    ∧ recorder5b_s.power.wakeWin = none := by decide +kernel
/-- RecorderCompletes, clause 6. -/
theorem test_recorder6 :
    recorder6_s.boot.rstLow = false ∧ recorder6_s.boot.state = 7 ∧ recorder6_s.power.window = 63
    ∧ recorder6_s.power.wakeWin = none ∧ recorder6_s.power.alertLow = false ∧ recorder6_s.power.thermLow = false := by decide +kernel
/-- DoorbellsComplete, clause 1. -/
theorem test_doorbells1 :
    wIdle.sound ∧ wIdle.running = true ∧ (wIdle.hostWrites doorbells1_r.host).slotGate doorbells1_r = none
    ∧ doorbells1_r.slot < 64 ∧ fld doorbells1_r.data 7 1 = 0 ∧ fld doorbells1_r.data 4 3 = 0
    ∧ (¬(2 ^ wIdle.gcfg doorbells1_r.slot 3 1 < (fld doorbells1_r.data 0 4 + 2 ^ 32 - (wIdle.group doorbells1_r.slot).head) % 2 ^ 32 ∨ 2 ^ 31 ≤ (fld doorbells1_r.data 0 4 + 2 ^ 32 - (wIdle.group doorbells1_r.slot).tail) % 2 ^ 32)) := ⟨sound_up rfl (by decide +kernel), by decide +kernel⟩
/-- DoorbellsComplete, clause 2. -/
theorem test_doorbells2 :
    wIdle.sound ∧ wIdle.running = true ∧ (wIdle.hostWrites doorbells2_r.host).slotGate doorbells2_r = none
    ∧ doorbells2_r.slot < 64 ∧ fld doorbells2_r.data 7 1 = 0 ∧ fld doorbells2_r.data 4 3 = 0
    ∧ (2 ^ wIdle.gcfg doorbells2_r.slot 3 1 < (fld doorbells2_r.data 0 4 + 2 ^ 32 - (wIdle.group doorbells2_r.slot).head) % 2 ^ 32 ∨ 2 ^ 31 ≤ (fld doorbells2_r.data 0 4 + 2 ^ 32 - (wIdle.group doorbells2_r.slot).tail) % 2 ^ 32) := ⟨sound_up rfl (by decide +kernel), by decide +kernel⟩
/-- DoorbellsComplete, clause 3. -/
theorem test_doorbells3 :
    wIdle.sound ∧ wIdle.running = true ∧ (wIdle.hostWrites doorbells3_r.host).slotGate doorbells3_r = none
    ∧ doorbells3_r.slot < 64 := ⟨sound_up rfl (by decide +kernel), by decide +kernel⟩
/-- DoorbellsComplete, clause 4. -/
theorem test_doorbells4 :
    doorbells4_s.sound ∧ doorbells4_s.running = true
    ∧ (doorbells4_s.hostWrites doorbells4_r.host).slotGate doorbells4_r = none ∧ doorbells4_r.slot < 64
    ∧ fld doorbells4_r.data 7 1 = 1 ∧ fld doorbells4_r.data 4 3 = 0 := ⟨sound_up rfl (by decide +kernel), by decide +kernel⟩
/-- DoorbellsComplete, clauses 5, 6. -/
theorem test_doorbells5 :
    0 < doorbells5_s.groups.length ∧ doorbells5_s.gBatch 0 = false ∧ 1 ≠ 0 ∧ doorbells5_s.nextBell 0 5 = some 1 := by decide +kernel
/-- DoorbellsComplete, clauses 7, 8. -/
theorem test_doorbells7 :
    0 < wIdle.groups.length ∧ (wIdle.gBatch 0 = true ∨ 1 = 0 ∨ wIdle.nextBell 0 5 ≠ some 1) ∧ spWf wIdle.regs = true
    ∧ wIdle.powered rLAYER_ORDER_CNT = true := by decide +kernel
/-- AttachPortCompletes, clause 1. -/
theorem test_attachPort1 :
    attachPort1_s.boot.rstLow = false ∧ attachPort1_s.invalidSts attachPort1_r = some 2
    ∧ attachPort1_s.seam.rspWait = []
    ∧ (if attachPort1_r.gen2 = true then attachPort1_s.seam.crdIp2 else attachPort1_s.seam.crdIp) ≠ 0 := by decide +kernel
/-- AttachPortCompletes, clause 1. -/
theorem test_attachPort1b :
    wIdle.boot.rstLow = false ∧ wIdle.invalidSts attachPort1b_r = some 1 ∧ wIdle.seam.rspWait = []
    ∧ (if attachPort1b_r.gen2 = true then wIdle.seam.crdIp2 else wIdle.seam.crdIp) ≠ 0 := by decide +kernel
/-- AttachPortCompletes, clause 2. -/
theorem test_attachPort2 :
    startStates5_s.boot.rstLow = false ∧ startStates5_s.invalidSts attachPort2_r = some 1
    ∧ startStates5_s.seam.rspWait = []
    ∧ (if attachPort2_r.gen2 = true then startStates5_s.seam.crdIp2 else startStates5_s.seam.crdIp) = 0 := by decide +kernel
/-- AttachPortCompletes, clause 3. -/
theorem test_attachPort3 :
    attachPort1_r.opc ≠ 1 ∧ attachPort1_r.opc ≠ 2 := by decide +kernel
/-- AttachPortCompletes, clause 4. -/
theorem test_attachPort4 :
    (attachPort4_r.opc = 1 ∨ attachPort4_r.opc = 2) ∧ startStates5_s.boot.state ≤ 6 := by decide +kernel
/-- AttachPortCompletes, clause 5. -/
theorem test_attachPort5 :
    (attachPort4_r.opc = 1 ∨ attachPort4_r.opc = 2) ∧ 7 ≤ attachPort3_s.boot.state ∧ attachPort3_s.boot.state ≠ 11 := by decide +kernel
/-- AttachPortCompletes, clause 6. -/
theorem test_attachPort6 :
    (attachPort6_r.opc = 1 ∨ attachPort6_r.opc = 2) ∧ wIdle.boot.state = 11
    ∧ attachPort6_r.addr < wIdle.hdrF (if attachPort6_r.gen2 = true then 40 else 32) 8 := by decide +kernel
/-- AttachPortCompletes, clause 7. -/
theorem test_attachPort7 :
    attachPort7_r.opc = 1 ∧ wIdle.boot.state = 11
    ∧ wIdle.hdrF (if attachPort7_r.gen2 = true then 40 else 32) 8 ≤ attachPort7_r.addr
    ∧ seamSlot (attachPort7_r.addr - wIdle.hdrF (if attachPort7_r.gen2 = true then 40 else 32) 8) = true := by decide +kernel
/-- AttachPortCompletes, clauses 8, 9. -/
theorem test_attachPort8 :
    wIdle.boot.rstLow = false := by decide +kernel
/-- AttachPortCompletes, clause 10. -/
theorem test_attachPort10 :
    wIdle.boot.rstLow = false ∧ wIdle.seam.rspWait = [] := by decide +kernel
/-- AttachPortCompletes, clause 11. -/
theorem test_attachPort11 :
    attachPort11_s.boot.rstLow = false ∧ attachPort11_s.seam.rspWait = [attachPort11_w]
    ∧ attachPort11_s.seam.crdIp = 0 ∧ attachPort11_s.seam.crdIp2 = 0 := by decide +kernel
/-- AttachPortCompletes, clause 13. -/
theorem test_attachPort13 :
    attachPort13_s.seam.notes = [attachPort13_n] ∧ attachPort13_n.held = false
    ∧ (if attachPort13_n.gen2 = true then attachPort13_s.seam.crdOq2 else attachPort13_s.seam.crdOq) ≠ 0
    ∧ attachPort13_n.kind = 0 := by decide +kernel
/-- AttachPortCompletes, clause 14. -/
theorem test_attachPort14 :
    attachPort14_s.seam.notes = [attachPort14_n] ∧ attachPort14_n.held = false
    ∧ (if attachPort14_n.gen2 = true then attachPort14_s.seam.crdOq2 else attachPort14_s.seam.crdOq) ≠ 0
    ∧ attachPort14_n.kind = 1 := by decide +kernel
/-- AttachPortCompletes, clause 15. -/
theorem test_attachPort15 :
    attachPort15_s.seam.notes = [attachPort15_n] ∧ attachPort15_n.held = false
    ∧ (if attachPort15_n.gen2 = true then attachPort15_s.seam.crdOq2 else attachPort15_s.seam.crdOq) ≠ 0
    ∧ attachPort15_n.kind = 2 := by decide +kernel
/-- AttachPortCompletes, clause 16. -/
theorem test_attachPort16 :
    attachPort16_s.seam.notes = [attachPort16_n] ∧ attachPort16_n.held = false
    ∧ (if attachPort16_n.gen2 = true then attachPort16_s.seam.crdOq2 else attachPort16_s.seam.crdOq) ≠ 0
    ∧ attachPort16_n.kind = 3 := by decide +kernel
/-- MemoryPortsComplete, clause 1. -/
theorem test_memoryPorts1 :
    memoryPorts1_s.frontRead 11 = some (0, memoryPorts1_r) ∧ memoryPorts1_s.sealStall memoryPorts1_r = false
    ∧ validGranules 255 < memoryPorts1_r.left := by decide +kernel
/-- MemoryPortsComplete, clause 3. -/
theorem test_memoryPorts3 :
    memoryPorts1_s.frontRead 11 = some (0, memoryPorts1_r) ∧ memoryPorts1_s.sealStall memoryPorts1_r = false
    ∧ validGranules 255 < memoryPorts1_r.left ∧ spWf memoryPorts1_s.regs = true
    ∧ memoryPorts1_s.powered (rMEM_CONTRACT_CNT 11) = true := by decide +kernel
/-- MemoryPortsComplete, clause 4. -/
theorem test_memoryPorts4 :
    memoryPorts4_s.sound ∧ memoryPorts4_s.frontWrite 11 = some (0, memoryPorts4_w)
    ∧ ({ memoryPorts4_s with memp := { memoryPorts4_s.memp with writes := memoryPorts4_s.memp.writes.eraseIdx 0 } } : State).writing memoryPorts4_w.obj = true := ⟨sound_up rfl (by decide +kernel), by decide +kernel⟩
/-- MemoryPortsComplete, clause 5. -/
theorem test_memoryPorts5 :
    memoryPorts5_s.sound ∧ memoryPorts5_s.frontWrite 11 = some (0, memoryPorts5_w)
    ∧ (memoryPorts5_w.obj = MemObj.combined 0 0 0 ∨ memoryPorts5_w.obj = MemObj.redResult 0 0 0 ∨ memoryPorts5_w.obj = MemObj.ledger 0 ∨ memoryPorts5_w.obj = MemObj.saveArea 0 ∨ memoryPorts5_w.obj = MemObj.linkEntry 0 true ∨ memoryPorts5_w.obj = MemObj.linkEntry 0 false) := ⟨sound_up rfl (by decide +kernel), by decide +kernel⟩
/-- MemoryPortsComplete, clause 6. -/
theorem test_memoryPorts6 :
    memoryPorts6_s.sound ∧ memoryPorts6_s.frontWrite 11 = some (0, memoryPorts4_w)
    ∧ memoryPorts4_w.obj = MemObj.workTable 1
    ∧ ({ memoryPorts6_s with memp := { memoryPorts6_s.memp with writes := memoryPorts6_s.memp.writes.eraseIdx 0 } } : State).writing memoryPorts4_w.obj = false := ⟨sound_up rfl (by decide +kernel), by decide +kernel⟩
/-- MemoryPortsComplete, clause 7. -/
theorem test_memoryPorts7 :
    memoryPorts7_s.sound ∧ memoryPorts7_s.frontWrite 11 = some (0, memoryPorts7_w)
    ∧ memoryPorts7_w.obj = MemObj.journal 0 ∧ 0 < 8
    ∧ ({ memoryPorts7_s with memp := { memoryPorts7_s.memp with writes := memoryPorts7_s.memp.writes.eraseIdx 0 } } : State).writing memoryPorts7_w.obj = false := ⟨sound_up rfl (by decide +kernel), by decide +kernel⟩
/-- MemoryPortsComplete, clause 8. -/
theorem test_memoryPorts8 :
    memoryPorts8_s.sound ∧ memoryPorts8_s.frontWrite 11 = some (0, memoryPorts8_w)
    ∧ memoryPorts8_w.obj = MemObj.complRec 0 ∧ 0 < 64
    ∧ ({ memoryPorts8_s with memp := { memoryPorts8_s.memp with writes := memoryPorts8_s.memp.writes.eraseIdx 0 } } : State).writing memoryPorts8_w.obj = false := ⟨sound_up rfl (by decide +kernel), by decide +kernel⟩
/-- MemoryPortsComplete, clause 9. -/
theorem test_memoryPorts9 :
    memoryPorts9_s.sound ∧ memoryPorts9_s.frontWrite 11 = some (0, memoryPorts9_w)
    ∧ memoryPorts9_w.obj = MemObj.batchOut 1 ∧ 1 < 64
    ∧ ({ memoryPorts9_s with memp := { memoryPorts9_s.memp with writes := memoryPorts9_s.memp.writes.eraseIdx 0 } } : State).cmdWriting 1 = false
    ∧ (memoryPorts9_s.group 1).cur = some memoryPorts9_c ∧ memoryPorts9_c.phase = 3 ∧ memoryPorts9_c.endAs = none
    ∧ memoryPorts9_c.torn = false ∧ memoryPorts9_s.stopped (memoryPorts9_s.gPart 1) = false
    ∧ (memoryPorts9_s.tr (memoryPorts9_s.gPart 1) (fld memoryPorts9_c.desc 8 8) 32 4).isSome = true
    ∧ fld memoryPorts9_c.desc 8 8 % 32 = 0 ∧ memoryPorts9_c.seq = fld memoryPorts9_c.desc 4 4 := ⟨sound_up rfl (by decide +kernel), by decide +kernel⟩
/-- MemoryPortsComplete, clause 10. -/
theorem test_memoryPorts10 :
    memoryPorts6_s.frontWrite 11 = some (0, memoryPorts4_w) ∧ spWf memoryPorts6_s.regs = true
    ∧ memoryPorts6_s.powered (rMEM_CONTRACT_CNT 11) = true := by decide +kernel
/-- MemoryPortsComplete, clause 11. -/
theorem test_memoryPorts11 :
    11 < memoryPorts11_s.memp.buckets.length
    ∧ memoryPorts11_s.leakDue (keyMem 11) 2097152 (memoryPorts11_s.memp.buckets.getD 11 0) = true := by decide +kernel
/-- MemoryPortsComplete, clause 12. -/
theorem test_memoryPorts12 :
    memoryPorts12_s.sound ∧ 11 < 12 ∧ memoryPorts12_s.memp.buckets.length = 12
    ∧ memoryPorts12_s.powered (rMEM_UE_CNT 11) = true ∧ memoryPorts12_s.frontRead 11 = some (0, memoryPorts2_r)
    ∧ memoryPorts12_s.sealStall memoryPorts2_r = false ∧ memoryPorts12_s.memp.buckets.getD 11 0 < 63 := ⟨sound_up rfl (by decide +kernel), by decide +kernel⟩
/-- MemoryPortsComplete, clause 13. -/
theorem test_memoryPorts13 :
    memoryPorts13_s.sound ∧ 11 < 12 ∧ memoryPorts13_s.memp.buckets.length = 12
    ∧ memoryPorts13_s.powered (rMEM_UE_CNT 11) = true ∧ memoryPorts13_s.frontRead 11 = some (0, memoryPorts2_r)
    ∧ memoryPorts13_s.sealStall memoryPorts2_r = false ∧ 63 ≤ memoryPorts13_s.memp.buckets.getD 11 0
    ∧ bit memoryPorts13_s.units.memRet 11 = false := ⟨sound_up rfl (by decide +kernel), by decide +kernel⟩
/-- MemoryPortsComplete, clause 15. -/
theorem test_memoryPorts15 :
    memoryPorts15_s.sound ∧ 11 < 12 ∧ memoryPorts15_s.memp.buckets.length = 12
    ∧ memoryPorts15_s.powered (rMEM_WERR_CNT 11) = true ∧ memoryPorts15_s.frontWrite 11 = some (0, memoryPorts15_w)
    ∧ memoryPorts15_s.memp.buckets.getD 11 0 < 63 ∧ memoryPorts15_w.obj = MemObj.saveArea 1 ∧ 1 < 64
    ∧ (memoryPorts15_s.group 1).cur = some memoryPorts15_c ∧ memoryPorts15_c.saved = 1 ∧ memoryPorts15_c.phase = 1
    ∧ memoryPorts15_c.torn = false ∧ memoryPorts15_s.stopped (memoryPorts15_s.gPart 1) = false
    ∧ (memoryPorts15_s.tr (memoryPorts15_s.gPart 1) (fld memoryPorts15_c.desc 8 8) 32 4).isSome = true
    ∧ fld memoryPorts15_c.desc 8 8 % 32 = 0 ∧ memoryPorts15_c.seq = fld memoryPorts15_c.desc 4 4 := ⟨sound_up rfl (by decide +kernel), by decide +kernel⟩
/-- MemoryPortsComplete, clause 17. -/
theorem test_memoryPorts17 :
    memoryPorts16_s.nextRetry = some memoryPorts16_r ∧ memoryPorts16_r.write = false
    ∧ plainRead memoryPorts16_r.obj = true ∧ spWf memoryPorts16_s.regs = true
    ∧ memoryPorts16_s.powered (rMEM_CONTRACT_CNT memoryPorts16_r.port) = true := by decide +kernel
/-- MemoryPortsComplete, clause 18. -/
theorem test_memoryPorts18 :
    memoryPorts18_s.nextRetry = some memoryPorts18_r ∧ memoryPorts18_r.write = true
    ∧ memoryPorts18_r.obj = MemObj.workTable 1 := by decide +kernel
/-- MemoryPortsComplete, clause 19. -/
theorem test_memoryPorts19 :
    memoryPorts19_s.sound ∧ memoryPorts19_s.nextRetry = some memoryPorts19_r
    ∧ memoryPorts19_r.obj = MemObj.router 0 0 0 0 0 ∧ memoryPorts19_r.write = false ∧ 0 < 8
    ∧ memoryPorts19_s.pValid 0 = true ∧ memoryPorts19_s.stopped 0 = false
    ∧ memoryPorts19_s.objLive memoryPorts19_r.obj = true
    ∧ memoryPorts19_s.memp.buckets.getD memoryPorts19_r.port 0 < 63 := ⟨sound_up rfl (by decide +kernel), by decide +kernel⟩
/-- NopCompletes, clause 1. -/
theorem test_nop1 :
    taken nop1_s 0 nop1_d 0 noReads ∧ rsv nop1_d 16 48 = true :=
  ⟨⟨sound_up rfl (by decide +kernel), by decide +kernel, by decide +kernel, by decide +kernel, by decide +kernel,
    by decide +kernel, ⟨by decide +kernel, by decide +kernel⟩⟩, by decide +kernel⟩
/-- NopCompletes, clause 2. -/
theorem test_nop2 :
    taken nop2_s 0 nop2_d 0 noReads ∧ rsv nop2_d 16 48 = false :=
  ⟨⟨sound_up rfl (by decide +kernel), by decide +kernel, by decide +kernel, by decide +kernel, by decide +kernel,
    by decide +kernel, ⟨by decide +kernel, by decide +kernel⟩⟩, by decide +kernel⟩
/-- NopCompletes, clause 3. -/
theorem test_nop3 :
    nop3_s.sound ∧ nop3_s.ready 0 = true ∧ nop3_s.headDesc 0 = some nop3_d ∧ fld nop3_d 8 8 % 32 = 0
    ∧ (nop3_s.tr (nop3_s.gPart 0) (fld nop3_d 8 8) 32 4).isSome = true
    ∧ classOk (nop3_s.gBatch 0) (fld nop3_d 0 1) = false ∧ (nop3_s.group 0).fetch ≠ 0
    ∧ nop3_s.reading (MemObj.command 0) = false := ⟨sound_up rfl (by decide +kernel), by decide +kernel⟩
/-- NopCompletes, clause 4. -/
theorem test_nop4 :
    nop4_s.sound ∧ nop4_s.ready 1 = true ∧ nop4_s.headDesc 1 = some nop4_d ∧ fld nop4_d 8 8 % 32 = 0
    ∧ (nop4_s.tr (nop4_s.gPart 1) (fld nop4_d 8 8) 32 4).isSome = true
    ∧ classOk (nop4_s.gBatch 1) (fld nop4_d 0 1) = false ∧ (nop4_s.group 1).fetch ≠ 0
    ∧ nop4_s.reading (MemObj.command 1) = false := ⟨sound_up rfl (by decide +kernel), by decide +kernel⟩
/-- NopCompletes, clause 5. -/
theorem test_nop5 :
    nop5_s.sound ∧ 0 < 64 ∧ nop5_s.ready 0 = true ∧ nop5_s.headDesc 0 = some nop1_d ∧ (nop5_s.group 0).fetch = 0 := ⟨sound_up rfl (by decide +kernel), by decide +kernel⟩
/-- NopCompletes, clause 6. -/
theorem test_nop6 :
    nop6_s.sound ∧ 0 < 64 ∧ nop6_s.ready 0 = true ∧ nop6_s.headDesc 0 = some nop1_d ∧ (nop6_s.group 0).fetch ≠ 0
    ∧ nop6_s.reading (MemObj.command 0) = true := ⟨sound_up rfl (by decide +kernel), by decide +kernel⟩
/-- StreamControlCompletes, clause 1. -/
theorem test_streamControl1 :
    taken streamControl1_s 0 streamControl1_d 2 noReads ∧ streamFault streamControl1_d = 0
    ∧ fld streamControl1_d 24 8 = 0 ∧ streamControl1_s.ctxUnderTest (fld streamControl1_d 16 2) = false
    ∧ fld streamControl1_d 18 1 = 0 ∧ fld (streamControl1_s.context (fld streamControl1_d 16 2)) 0 1 = 0 :=
  ⟨⟨sound_up rfl (by decide +kernel), by decide +kernel, by decide +kernel, by decide +kernel, by decide +kernel,
    by decide +kernel, ⟨by decide +kernel, by decide +kernel⟩⟩, by decide +kernel⟩
/-- StreamControlCompletes, clause 2. -/
theorem test_streamControl2 :
    taken streamControl2_s 0 streamControl2_d 2 noReads ∧ streamFault streamControl2_d = 0
    ∧ fld streamControl2_d 24 8 = 0 ∧ streamControl2_s.ctxUnderTest (fld streamControl2_d 16 2) = false
    ∧ fld streamControl2_d 18 1 = 1 ∧ fld (streamControl2_s.context (fld streamControl2_d 16 2)) 0 1 = 1
    ∧ fld (streamControl2_s.context (fld streamControl2_d 16 2)) 1 1 = streamControl2_s.gPart 0 :=
  ⟨⟨sound_up rfl (by decide +kernel), by decide +kernel, by decide +kernel, by decide +kernel, by decide +kernel,
    by decide +kernel, ⟨by decide +kernel, by decide +kernel⟩⟩, by decide +kernel⟩
/-- StreamControlCompletes, clause 3. -/
theorem test_streamControl3 :
    taken streamControl3_s 0 streamControl3_d 2 noReads ∧ streamFault streamControl3_d = 0
    ∧ fld streamControl3_d 24 8 = 0 ∧ streamControl3_s.ctxUnderTest (fld streamControl3_d 16 2) = false
    ∧ fld streamControl3_d 18 1 = 2 ∧ fld (streamControl3_s.context (fld streamControl3_d 16 2)) 0 1 = 2
    ∧ fld (streamControl3_s.context (fld streamControl3_d 16 2)) 1 1 = streamControl3_s.gPart 0 :=
  ⟨⟨sound_up rfl (by decide +kernel), by decide +kernel, by decide +kernel, by decide +kernel, by decide +kernel,
    by decide +kernel, ⟨by decide +kernel, by decide +kernel⟩⟩, by decide +kernel⟩
/-- StreamControlCompletes, clause 4. -/
theorem test_streamControl4 :
    taken streamControl4_s 0 streamControl4_d 2 noReads ∧ streamFault streamControl4_d = 0
    ∧ fld streamControl4_d 24 8 = 0 ∧ streamControl4_s.ctxUnderTest (fld streamControl4_d 16 2) = false
    ∧ fld streamControl4_d 18 1 = 3 ∧ fld (streamControl4_s.context (fld streamControl4_d 16 2)) 0 1 = 1
    ∧ fld (streamControl4_s.context (fld streamControl4_d 16 2)) 1 1 = streamControl4_s.gPart 0 :=
  ⟨⟨sound_up rfl (by decide +kernel), by decide +kernel, by decide +kernel, by decide +kernel, by decide +kernel,
    by decide +kernel, ⟨by decide +kernel, by decide +kernel⟩⟩, by decide +kernel⟩
/-- StreamControlCompletes, clause 5. -/
theorem test_streamControl5 :
    taken streamControl5_s 0 streamControl1_d 2 noReads ∧ streamFault streamControl1_d = 0
    ∧ fld streamControl1_d 24 8 = 0 ∧ streamControl5_s.ctxUnderTest (fld streamControl1_d 16 2) = false
    ∧ fld streamControl1_d 18 1 = 0 ∧ fld (streamControl5_s.context (fld streamControl1_d 16 2)) 0 1 ≠ 0 :=
  ⟨⟨sound_up rfl (by decide +kernel), by decide +kernel, by decide +kernel, by decide +kernel, by decide +kernel,
    by decide +kernel, ⟨by decide +kernel, by decide +kernel⟩⟩, by decide +kernel⟩
/-- StreamControlCompletes, clause 6. -/
theorem test_streamControl6 :
    taken streamControl6_s 0 streamControl6_d 2 (ctxReads 0 0) ∧ streamFault streamControl6_d = 0
    ∧ fld streamControl6_d 24 8 ≠ 0 ∧ streamControl6_s.ctxUnderTest (fld streamControl6_d 16 2) = false
    ∧ fld streamControl6_d 18 1 = 0 ∧ fld (streamControl6_s.context (fld streamControl6_d 16 2)) 0 1 = 0
    ∧ streamControl6_s.loadCtx (streamControl6_s.gPart 0) (fld streamControl6_d 24 8) = Sum.inl streamControl6_b :=
  ⟨⟨sound_up rfl (by decide +kernel), by decide +kernel, by decide +kernel, by decide +kernel, by decide +kernel,
    by decide +kernel, ⟨by decide +kernel, by decide +kernel⟩⟩, by decide +kernel⟩
/-- StreamControlCompletes, clause 7. -/
theorem test_streamControl7 :
    taken streamControl7_s 0 streamControl7_d 2 noReads ∧ streamFault streamControl7_d = 0
    ∧ fld streamControl7_d 24 8 ≠ 0 ∧ streamControl7_s.ctxUnderTest (fld streamControl7_d 16 2) = false ∧ 0 < 64
    ∧ fld streamControl7_d 18 1 = 1 ∧ fld (streamControl7_s.context (fld streamControl7_d 16 2)) 0 1 = 1
    ∧ fld (streamControl7_s.context (fld streamControl7_d 16 2)) 1 1 = streamControl7_s.gPart 0
    ∧ streamControl7_s.tr (streamControl7_s.gPart 0) (fld streamControl7_d 24 8) 64 4 = some 1048640 :=
  ⟨⟨sound_up rfl (by decide +kernel), by decide +kernel, by decide +kernel, by decide +kernel, by decide +kernel,
    by decide +kernel, ⟨by decide +kernel, by decide +kernel⟩⟩, by decide +kernel⟩
/-- TableLoadsComplete, clause 1. -/
theorem test_tableLoads1 :
    taken tableLoads1_s 0 tableLoads1_d 3 (loadReads 0 0 ([64, 8, 32].getD 0 0)) ∧ tableLoads1_s.gPart 0 < 8
    ∧ (tableLoads1_s.part (tableLoads1_s.gPart 0)).tables.length = 4 ∧ 0 < 3 ∧ fld tableLoads1_d 16 1 = 0
    ∧ tableLoads1_s.loadFault (tableLoads1_s.gPart 0) 0 tableLoads1_d = 0 ∧ 0 = 0
    ∧ buildLayers (tableLoads1_s.begin 0 1 tableLoads1_d) (tableLoads1_s.gPart 0) tableLoads1_d = Sum.inl tableLoads1_es :=
  ⟨⟨sound_up rfl (by decide +kernel), by decide +kernel, by decide +kernel, by decide +kernel, by decide +kernel,
    by decide +kernel, ⟨by decide +kernel, by decide +kernel⟩⟩, by decide +kernel⟩
/-- TableLoadsComplete, clause 2. -/
theorem test_tableLoads2 :
    taken tableLoads2_s 0 tableLoads2_d 3 (loadReads 0 1 ([64, 8, 32].getD 1 0)) ∧ tableLoads2_s.gPart 0 < 8
    ∧ (tableLoads2_s.part (tableLoads2_s.gPart 0)).tables.length = 4 ∧ 1 < 3 ∧ fld tableLoads2_d 16 1 = 1
    ∧ tableLoads2_s.loadFault (tableLoads2_s.gPart 0) 1 tableLoads2_d = 0 ∧ 1 = 1
    ∧ buildMaps (tableLoads2_s.begin 0 1 tableLoads2_d) (tableLoads2_s.gPart 0) tableLoads2_d = Sum.inl tableLoads2_es :=
  ⟨⟨sound_up rfl (by decide +kernel), by decide +kernel, by decide +kernel, by decide +kernel, by decide +kernel,
    by decide +kernel, ⟨by decide +kernel, by decide +kernel⟩⟩, by decide +kernel⟩
/-- TableLoadsComplete, clause 3. -/
theorem test_tableLoads3 :
    taken tableLoads3_s 0 tableLoads3_d 3 (loadReads 0 2 ([64, 8, 32].getD 2 0)) ∧ tableLoads3_s.gPart 0 < 8
    ∧ (tableLoads3_s.part (tableLoads3_s.gPart 0)).tables.length = 4 ∧ 2 < 3 ∧ fld tableLoads3_d 16 1 = 2
    ∧ tableLoads3_s.loadFault (tableLoads3_s.gPart 0) 2 tableLoads3_d = 0 ∧ 2 = 2
    ∧ buildProfs (tableLoads3_s.begin 0 1 tableLoads3_d) (tableLoads3_s.gPart 0) tableLoads3_d = Sum.inl tableLoads3_es :=
  ⟨⟨sound_up rfl (by decide +kernel), by decide +kernel, by decide +kernel, by decide +kernel, by decide +kernel,
    by decide +kernel, ⟨by decide +kernel, by decide +kernel⟩⟩, by decide +kernel⟩
/-- TableLoadsComplete, clause 4. -/
theorem test_tableLoads4 :
    taken tableLoads4_s 0 tableLoads4_d 3 (biasReads 0) ∧ tableLoads4_s.gPart 0 < 8
    ∧ (tableLoads4_s.part (tableLoads4_s.gPart 0)).tables.length = 4 ∧ fld tableLoads4_d 16 1 = 3
    ∧ tableLoads4_s.loadFault (tableLoads4_s.gPart 0) 3 tableLoads4_d = 0 ∧ tableLoads4_s.biasU = 0
    ∧ fld tableLoads4_d 22 2 < tableLoads4_s.pLayers (tableLoads4_s.gPart 0)
    ∧ tableLoads4_s.loadBytes (tableLoads4_s.gPart 0) 4 tableLoads4_d = some tableLoads4_b
    ∧ allFinite tableLoads4_b = true
    ∧ fld tableLoads4_d 18 2 + fld tableLoads4_d 20 2 ≤ maxNat (List.map (fun es => leExperts (entAt es (fld tableLoads4_d 22 2))) (tableLoads4_s.entryBanks (tableLoads4_s.gPart 0) 0)) :=
  ⟨⟨sound_up rfl (by decide +kernel), by decide +kernel, by decide +kernel, by decide +kernel, by decide +kernel,
    by decide +kernel, ⟨by decide +kernel, by decide +kernel⟩⟩, by decide +kernel⟩
/-- TableLoadsComplete, clause 5. -/
theorem test_tableLoads5 :
    taken tableLoads5_s 0 tableLoads5_d 3 noReads ∧ tableLoads5_s.gPart 0 < 8
    ∧ (tableLoads5_s.part (tableLoads5_s.gPart 0)).tables.length = 4 ∧ fld tableLoads5_d 16 1 = 4
    ∧ rsv tableLoads5_d 28 4 = true ∧ rsv tableLoads5_d 48 16 = true ∧ fld tableLoads5_d 17 1 = 0
    ∧ fld tableLoads5_d 18 2 = 0 ∧ fld tableLoads5_d 20 2 = 0 ∧ fld tableLoads5_d 24 4 = 0
    ∧ fld tableLoads5_d 32 8 = 0 ∧ fld tableLoads5_d 22 2 < tableLoads5_s.pLayers (tableLoads5_s.gPart 0)
    ∧ tableLoads5_s.layerHeld (tableLoads5_s.gPart 0) (fld tableLoads5_d 22 2) = false
    ∧ tableLoads5_s.batchOn (tableLoads5_s.gPart 0) (fld tableLoads5_d 22 2) = false :=
  ⟨⟨sound_up rfl (by decide +kernel), by decide +kernel, by decide +kernel, by decide +kernel, by decide +kernel,
    by decide +kernel, ⟨by decide +kernel, by decide +kernel⟩⟩, by decide +kernel⟩
/-- TableLoadsComplete, clause 6. -/
theorem test_tableLoads6 :
    tableLoads6_s.sound ∧ tableLoads6_s.running = true ∧ tableLoads6_r.slot < 8
    ∧ tableLoads6_s.pValid tableLoads6_r.slot = true ∧ tableLoads6_s.stopped tableLoads6_r.slot = false
    ∧ fld tableLoads6_r.data 2 6 = 0 ∧ tableLoads6_s.layerHeld tableLoads6_r.slot (fld tableLoads6_r.data 0 2) = true := ⟨sound_up rfl (by decide +kernel), by decide +kernel⟩
/-- TableLoadsComplete, clause 7. -/
theorem test_tableLoads7 :
    wLoad.sound ∧ wLoad.running = true ∧ tableLoads6_r.slot < 8 ∧ wLoad.pValid tableLoads6_r.slot = true
    ∧ wLoad.stopped tableLoads6_r.slot = false ∧ fld tableLoads6_r.data 2 6 = 0
    ∧ wLoad.layerHeld tableLoads6_r.slot (fld tableLoads6_r.data 0 2) = false
    ∧ wLoad.powered (rSEL_CNT tableLoads6_r.slot 9) = true := ⟨sound_up rfl (by decide +kernel), by decide +kernel⟩
/-- TableLoadsComplete, clause 9. -/
theorem test_tableLoads9 :
    tableLoads8_s.sound ∧ 0 < 8 ∧ (tableLoads8_s.part 0).tables.length = 4
    ∧ List.find? (fun h => h.1 == 1 && h.2.2.2) (tableLoads8_s.part 0).holds = some tableLoads9_h := ⟨sound_up rfl (by decide +kernel), by decide +kernel⟩
/-- StepCommandCompletes, clause 1. -/
theorem test_stepCommand1 :
    taken stepCommand1_s 0 stepCommand1_d 1 (stepReads 0) ∧ stepCommand1_s.gPart 0 < 8
    ∧ ((stepCommand1_s.segList (stepCommand1_s.gPart 0) stepCommand1_d).any fun b => stepCommand1_s.ctxUnderTest (fld b 0 2)) = false
    ∧ (stepCommand1_s.part (stepCommand1_s.gPart 0)).state = 1
    ∧ (stepCommand1_s.part (stepCommand1_s.gPart 0)).step = none
    ∧ (stepCommand1_s.part (stepCommand1_s.gPart 0)).stopping = false
    ∧ ((stepCommand1_s.part (stepCommand1_s.gPart 0)).anyNo = true ∨ Option.map (fun n => (n + 1) % 2 ^ 64) (stepCommand1_s.part (stepCommand1_s.gPart 0)).lastNo = some (fld stepCommand1_d 16 8)) :=
  ⟨⟨sound_up rfl (by decide +kernel), by decide +kernel, by decide +kernel, by decide +kernel, by decide +kernel,
    by decide +kernel, ⟨by decide +kernel, by decide +kernel⟩⟩, by decide +kernel⟩
/-- StepCommandCompletes, clause 2. -/
theorem test_stepCommand2 :
    taken stepCommand2_s 0 stepCommand2_d 1 (stepReads 0) ∧ stepCommand2_s.gPart 0 < 8
    ∧ ((stepCommand2_s.segList (stepCommand2_s.gPart 0) stepCommand2_d).any fun b => stepCommand2_s.ctxUnderTest (fld b 0 2)) = false
    ∧ (stepCommand2_s.part (stepCommand2_s.gPart 0)).state = 1
    ∧ (stepCommand2_s.part (stepCommand2_s.gPart 0)).step = none
    ∧ (stepCommand2_s.part (stepCommand2_s.gPart 0)).stopping = false
    ∧ (stepCommand2_s.part (stepCommand2_s.gPart 0)).anyNo = false
    ∧ stepCommand2_s.pValid (stepCommand2_s.gPart 0) = true
    ∧ Option.map (fun n => (n + 1) % 2 ^ 64) (stepCommand2_s.part (stepCommand2_s.gPart 0)).lastNo ≠ some (fld stepCommand2_d 16 8) :=
  ⟨⟨sound_up rfl (by decide +kernel), by decide +kernel, by decide +kernel, by decide +kernel, by decide +kernel,
    by decide +kernel, ⟨by decide +kernel, by decide +kernel⟩⟩, by decide +kernel⟩
/-- StepCommandCompletes, clause 3. -/
theorem test_stepCommand3 :
    taken stepCommand3_s 0 stepCommand2_d 1 (stepReads 0) ∧ stepCommand3_s.gPart 0 < 8
    ∧ ((stepCommand3_s.segList (stepCommand3_s.gPart 0) stepCommand2_d).any fun b => stepCommand3_s.ctxUnderTest (fld b 0 2)) = false
    ∧ (stepCommand3_s.part (stepCommand3_s.gPart 0)).state = 2 ∧ stepCommand3_s.power.wakeq ≠ [] :=
  ⟨⟨sound_up rfl (by decide +kernel), by decide +kernel, by decide +kernel, by decide +kernel, by decide +kernel,
    by decide +kernel, ⟨by decide +kernel, by decide +kernel⟩⟩, by decide +kernel⟩
/-- StepCommandCompletes, clause 4. -/
theorem test_stepCommand4 :
    stepCommand4_s.sound ∧ fetched stepCommand4_s 0 wRsvStep (stepReads 0) ∧ stepCommand4_s.ready 0 = true
    ∧ stepCommand4_s.headDesc 0 = some wRsvStep ∧ stepCommand4_s.headFault 0 wRsvStep = 0 ∧ fld wRsvStep 0 1 = 1
    ∧ stepCommand4_s.gBatch 0 = false ∧ headRsv wRsvStep = false := ⟨sound_up rfl (by decide +kernel), ⟨by decide +kernel, by decide +kernel⟩, by decide +kernel⟩
/-- ParkAndWakeComplete, clause 1. -/
theorem test_parkAndWake1 :
    taken parkAndWake1_s 0 parkAndWake1_d 4 noReads ∧ rsv parkAndWake1_d 16 48 = true
    ∧ (parkAndWake1_s.part (parkAndWake1_s.gPart 0)).state ≠ 3 :=
  ⟨⟨sound_up rfl (by decide +kernel), by decide +kernel, by decide +kernel, by decide +kernel, by decide +kernel,
    by decide +kernel, ⟨by decide +kernel, by decide +kernel⟩⟩, by decide +kernel⟩
/-- ParkAndWakeComplete, clause 2. -/
theorem test_parkAndWake2 :
    parkAndWake2_s.sound ∧ 0 < 8 ∧ parkAndWake2_s.stepGroup 0 < 64
    ∧ parkAndWake2_s.gPart (parkAndWake2_s.stepGroup 0) = 0
    ∧ (parkAndWake2_s.group (parkAndWake2_s.stepGroup 0)).cur = some parkAndWake2_c ∧ parkAndWake2_c.phase = 0
    ∧ ((parkAndWake2_s.part 0).state = 1 ∨ (parkAndWake2_s.part 0).state = 2) ∧ parkAndWake2_s.parkClear 0 = true := ⟨sound_up rfl (by decide +kernel), by decide +kernel⟩
/-- ParkAndWakeComplete, clause 3. -/
theorem test_parkAndWake3 :
    parkAndWake3_s.sound ∧ 0 < 8 ∧ parkAndWake3_s.running = true ∧ (parkAndWake3_s.part 0).state = 3
    ∧ (parkAndWake3_s.part 0).wakeTry ≠ 0 ∧ parkAndWake3_s.pLayers 0 ≤ (parkAndWake3_s.part 0).wakeLayer := ⟨sound_up rfl (by decide +kernel), by decide +kernel⟩
/-- ParkAndWakeComplete, clause 4. -/
theorem test_parkAndWake4 :
    parkAndWake4_s.sound ∧ 0 < 8 ∧ parkAndWake4_s.running = true ∧ (parkAndWake4_s.part 0).state = 3
    ∧ (parkAndWake4_s.part 0).wakeTry ≠ 0 ∧ (parkAndWake4_s.part 0).wakeLayer < parkAndWake4_s.pLayers 0 := ⟨sound_up rfl (by decide +kernel), by decide +kernel⟩
/-- ParkAndWakeComplete, clauses 5, 6. -/
theorem test_parkAndWake5 :
    parkAndWake5_s.sound ∧ 0 < 8 ∧ (parkAndWake5_s.part 0).state = 3
    ∧ wakeSig parkAndWake5_j.pr parkAndWake5_j.e (parkAndWake5_j.pass.toks.headD (onesTok 0 0)) = fld parkAndWake5_j.e 40 8 := ⟨sound_up rfl (by decide +kernel), by decide +kernel⟩
/-- ParkAndWakeComplete, clauses 7, 8, 9. -/
theorem test_parkAndWake7 :
    parkAndWake5_s.sound ∧ 0 < 8 ∧ (parkAndWake5_s.part 0).state = 3
    ∧ wakeSig parkAndWake7_j.pr parkAndWake7_j.e (parkAndWake7_j.pass.toks.headD (onesTok 0 0)) ≠ fld parkAndWake7_j.e 40 8
    ∧ (parkAndWake5_s.part 0).wakeTry = 1 := ⟨sound_up rfl (by decide +kernel), by decide +kernel⟩
/-- ParkAndWakeComplete, clauses 10, 11. -/
theorem test_parkAndWake10 :
    parkAndWake10_s.sound ∧ 0 < 8 ∧ (parkAndWake10_s.part 0).state = 3
    ∧ wakeSig parkAndWake7_j.pr parkAndWake7_j.e (parkAndWake7_j.pass.toks.headD (onesTok 0 0)) ≠ fld parkAndWake7_j.e 40 8
    ∧ (parkAndWake10_s.part 0).wakeTry ≠ 1 ∧ parkAndWake10_s.pValid 0 = true := ⟨sound_up rfl (by decide +kernel), by decide +kernel⟩
/-- RestartCompletes, clause 1. -/
theorem test_restart1 :
    restart1_s.sound ∧ restart1_s.boot.rstLow = false ∧ 0 < 8 ∧ restart1_s.powered (196640 + 4 * 0) = true
    ∧ bit (BitVec.toNat eventClear1_v) 0 = true ∧ (restart1_s.part 0).state = 4 ∧ restart1_s.units.memRet = 0
    ∧ restart1_s.isDead restart1_s.member = false ∧ (restart1_s.part 0).step = none
    ∧ (restart1_s.tr 0 (255 * 2 ^ 56 + 128) 128 2).isSome = true := ⟨sound_up rfl (by decide +kernel), by decide +kernel⟩
/-- RestartCompletes, clause 2. -/
theorem test_restart2 :
    restart2_s.sound ∧ 0 < 8 ∧ restart2_s.frontRead 11 = some (0, restart2_r) ∧ restart2_r.obj = MemObj.record 0
    ∧ restart2_s.sealStall restart2_r = false ∧ restart2_r.left ≤ validGranules 3
    ∧ ({ restart2_s with memp := { restart2_s.memp with reads := restart2_s.memp.reads.eraseIdx 0 } } : State).reading (MemObj.record 0) = false
    ∧ restart2_s.stopped 0 = false ∧ (restart2_s.part 0).jrnRec = []
    ∧ restart2_s.readRecords 0 = some (restart2_j, restart2_l) := ⟨sound_up rfl (by decide +kernel), by decide +kernel⟩
/-- RestartCompletes, clause 3. -/
theorem test_restart3 :
    restart3_s.sound ∧ 0 < 8 ∧ restart3_s.frontRead 11 = some (0, restart2_r) ∧ restart2_r.obj = MemObj.record 0
    ∧ restart3_s.sealStall restart2_r = false ∧ restart2_r.left ≤ validGranules 3
    ∧ ({ restart3_s with memp := { restart3_s.memp with reads := restart3_s.memp.reads.eraseIdx 0 } } : State).reading (MemObj.record 0) = false
    ∧ restart3_s.stopped 0 = false ∧ (restart3_s.part 0).jrnRec = [] ∧ restart3_s.readRecords 0 = none
    ∧ restart3_s.pValid 0 = true := ⟨sound_up rfl (by decide +kernel), by decide +kernel⟩
/-- RestartCompletes, clause 4. -/
theorem test_restart4 :
    wLoad.boot.rstLow = false ∧ 7 < 8 ∧ wLoad.powered (196640 + 4 * 7) = true
    ∧ (bit (BitVec.toNat eventClear1_v) 0 = false ∨ (wLoad.part 7).state ≠ 4) := by decide +kernel
/-- RestartCompletes, clause 5. -/
theorem test_restart5 :
    restart5_s.sound ∧ 0 < 8 ∧ (restart5_s.part 0).stopping = true ∧ restart5_s.tabs = []
    ∧ restart5_s.writesOf 0 = false ∧ (restart5_s.part 0).step = none := ⟨sound_up rfl (by decide +kernel), by decide +kernel⟩
/-- AbortsComplete, clause 1. -/
theorem test_aborts1 :
    aborts1_s.sound ∧ 1 < 64 ∧ (aborts1_s.group 1).aborts = [(3, false, true)]
    ∧ aborts1_s.powered (rABORT_RESULT 1) = true ∧ aborts1_s.powered rFLT_EVT = true
    ∧ aborts1_s.stopped (aborts1_s.gPart 1) = false ∧ false = false ∧ (aborts1_s.group 1).lastSeq ≠ some 3
    ∧ (aborts1_s.group 1).abortHead = false ∧ (aborts1_s.group 1).cur = some aborts1_c ∧ aborts1_c.seq = 3
    ∧ (fld aborts1_c.desc 0 1 = 4 ∨ fld aborts1_c.desc 0 1 = 5) ∧ aborts1_c.phase ≠ 2 ∧ aborts1_c.torn = false
    ∧ (aborts1_c.phase ≠ 3 ∨ aborts1_s.cmdWriting 1 = false) ∧ (aborts1_c.phase ≠ 1 ∨ aborts1_s.runsOn 1 = false) := ⟨sound_up rfl (by decide +kernel), by decide +kernel⟩
/-- AbortsComplete, clause 2. -/
theorem test_aborts2 :
    aborts2_s.sound ∧ 1 < 64 ∧ (aborts2_s.group 1).aborts = [(3, false, true)]
    ∧ aborts2_s.powered (rABORT_RESULT 1) = true ∧ aborts2_s.powered rFLT_EVT = true
    ∧ aborts2_s.stopped (aborts2_s.gPart 1) = false ∧ false = false ∧ (aborts2_s.group 1).lastSeq ≠ some 3
    ∧ (aborts2_s.group 1).abortHead = false ∧ (aborts2_s.group 1).cur = some aborts1_c ∧ aborts1_c.seq = 3
    ∧ (fld aborts1_c.desc 0 1 = 4 ∨ fld aborts1_c.desc 0 1 = 5) ∧ aborts1_c.phase ≠ 2 ∧ aborts1_c.endAs = none
    ∧ (aborts1_c.phase = 3 ∧ aborts2_s.cmdWriting 1 = true ∨ aborts1_c.phase = 1 ∧ aborts2_s.runsOn 1 = true) := ⟨sound_up rfl (by decide +kernel), by decide +kernel⟩
/-- AbortsComplete, clause 3. -/
theorem test_aborts3 :
    aborts3_s.sound ∧ 0 < 64 ∧ (aborts3_s.group 0).aborts = [(9, false, true)]
    ∧ aborts3_s.powered (rABORT_RESULT 0) = true ∧ aborts3_s.powered rFLT_EVT = true
    ∧ aborts3_s.stopped (aborts3_s.gPart 0) = false ∧ false = false ∧ (aborts3_s.group 0).lastSeq ≠ some 9
    ∧ (aborts3_s.group 0).abortHead = false ∧ (aborts3_s.group 0).cur = some aborts3_c ∧ aborts3_c.seq = 9
    ∧ aborts3_c.phase = 2 ∧ fld aborts3_c.desc 0 1 = 1 ∧ aborts3_s.gPart 0 < 8
    ∧ (aborts3_s.part (aborts3_s.gPart 0)).step = some wStep ∧ wStep.tornBy = none ∧ wStep.launched = true
    ∧ wStep.fin ≤ 2 := ⟨sound_up rfl (by decide +kernel), by decide +kernel⟩
/-- AbortsComplete, clause 4. -/
theorem test_aborts4 :
    aborts4_s.sound ∧ 0 < 64 ∧ (aborts4_s.group 0).aborts = [(9, false, true)]
    ∧ aborts4_s.powered (rABORT_RESULT 0) = true ∧ aborts4_s.powered rFLT_EVT = true
    ∧ aborts4_s.stopped (aborts4_s.gPart 0) = false ∧ false = false ∧ (aborts4_s.group 0).lastSeq ≠ some 9
    ∧ (aborts4_s.group 0).abortHead = false ∧ (aborts4_s.group 0).cur = some aborts3_c ∧ aborts3_c.seq = 9
    ∧ aborts3_c.phase = 2 ∧ fld aborts3_c.desc 0 1 = 1 ∧ aborts4_s.gPart 0 < 8
    ∧ (aborts4_s.part (aborts4_s.gPart 0)).step = some aborts4_x ∧ aborts4_x.tornBy = none
    ∧ aborts4_x.launched = false := ⟨sound_up rfl (by decide +kernel), by decide +kernel⟩
/-- AbortsComplete, clause 5. -/
theorem test_aborts5 :
    aborts5_s.sound ∧ 1 < 64 ∧ (aborts5_s.group 1).aborts = [(3, false, true)]
    ∧ aborts5_s.powered (rABORT_RESULT 1) = true ∧ aborts5_s.powered rFLT_EVT = true
    ∧ aborts5_s.stopped (aborts5_s.gPart 1) = false ∧ false = false ∧ (aborts5_s.group 1).lastSeq ≠ some 3
    ∧ (aborts5_s.group 1).abortHead = false ∧ (aborts5_s.group 1).cur = none ∧ aborts5_s.atHead 1 = true
    ∧ (aborts5_s.group 1).recBusy = false ∧ aborts5_s.headDesc 1 = some nop3_d ∧ fld nop3_d 4 4 = 3
    ∧ (fld nop3_d 0 1 = 4 ∨ fld nop3_d 0 1 = 5) ∧ fld nop3_d 8 8 % 32 = 0
    ∧ (aborts5_s.tr (aborts5_s.gPart 1) (fld nop3_d 8 8) 32 4).isSome = true := ⟨sound_up rfl (by decide +kernel), by decide +kernel⟩
/-- AbortsComplete, clause 6. -/
theorem test_aborts6 :
    aborts6_s.sound ∧ 0 < 64 ∧ (aborts6_s.group 0).aborts = [(3, false, true)]
    ∧ aborts6_s.powered (rABORT_RESULT 0) = true ∧ aborts6_s.powered rFLT_EVT = true
    ∧ aborts6_s.stopped (aborts6_s.gPart 0) = false ∧ false = false ∧ (aborts6_s.group 0).lastSeq ≠ some 3
    ∧ (aborts6_s.group 0).abortHead = false ∧ (aborts6_s.group 0).cur = none ∧ aborts6_s.atHead 0 = true
    ∧ (aborts6_s.group 0).recBusy = false ∧ aborts6_s.headDesc 0 = some nop4_d ∧ fld nop4_d 4 4 = 3
    ∧ fld nop4_d 0 1 = 1 := ⟨sound_up rfl (by decide +kernel), by decide +kernel⟩
/-- AbortsComplete, clause 7. -/
theorem test_aborts7 :
    aborts7_s.sound ∧ 1 < 64 ∧ (aborts7_s.group 1).aborts = [(3, false, true)]
    ∧ aborts7_s.powered (rABORT_RESULT 1) = true ∧ aborts7_s.powered rFLT_EVT = true
    ∧ aborts7_s.stopped (aborts7_s.gPart 1) = false
    ∧ (false = true ∧ 2 = 4 ∨ false = false ∧ (aborts7_s.group 1).lastSeq = some 3 ∧ 2 = 2 ∨ (false = false ∧ (aborts7_s.group 1).lastSeq ≠ some 3 ∧ 2 = 3 ∧ ∃ c, (aborts7_s.group 1).cur = some c ∧ c.seq ≠ 3) ∨ false = false ∧ (aborts7_s.group 1).lastSeq ≠ some 3 ∧ 2 = 3 ∧ (aborts7_s.group 1).cur = none ∧ aborts7_s.atHead 1 = false ∨ false = false ∧ (aborts7_s.group 1).lastSeq ≠ some 3 ∧ 2 = 4 ∧ ∃ c, (aborts7_s.group 1).cur = some c ∧ c.seq = 3 ∧ ((aborts7_s.group 1).abortHead = true ∨ fld c.desc 0 1 = 0 ∨ fld c.desc 0 1 = 2 ∨ fld c.desc 0 1 = 3)) := ⟨sound_up rfl (by decide +kernel), by decide +kernel⟩
/-- AbortsComplete, clause 7. -/
theorem test_aborts7b :
    aborts7b_s.sound ∧ 1 < 64 ∧ (aborts7b_s.group 1).aborts = [(3, true, true)]
    ∧ aborts7b_s.powered (rABORT_RESULT 1) = true ∧ aborts7b_s.powered rFLT_EVT = true
    ∧ aborts7b_s.stopped (aborts7b_s.gPart 1) = false
    ∧ (true = true ∧ 4 = 4 ∨ true = false ∧ (aborts7b_s.group 1).lastSeq = some 3 ∧ 4 = 2 ∨ (true = false ∧ (aborts7b_s.group 1).lastSeq ≠ some 3 ∧ 4 = 3 ∧ ∃ c, (aborts7b_s.group 1).cur = some c ∧ c.seq ≠ 3) ∨ true = false ∧ (aborts7b_s.group 1).lastSeq ≠ some 3 ∧ 4 = 3 ∧ (aborts7b_s.group 1).cur = none ∧ aborts7b_s.atHead 1 = false ∨ true = false ∧ (aborts7b_s.group 1).lastSeq ≠ some 3 ∧ 4 = 4 ∧ ∃ c, (aborts7b_s.group 1).cur = some c ∧ c.seq = 3 ∧ ((aborts7b_s.group 1).abortHead = true ∨ fld c.desc 0 1 = 0 ∨ fld c.desc 0 1 = 2 ∨ fld c.desc 0 1 = 3)) := ⟨sound_up rfl (by decide +kernel), by decide +kernel⟩
/-- AbortsComplete, clause 7. -/
theorem test_aborts7c :
    aborts7c_s.sound ∧ 1 < 64 ∧ (aborts7c_s.group 1).aborts = [(4, false, true)]
    ∧ aborts7c_s.powered (rABORT_RESULT 1) = true ∧ aborts7c_s.powered rFLT_EVT = true
    ∧ aborts7c_s.stopped (aborts7c_s.gPart 1) = false
    ∧ (false = true ∧ 3 = 4 ∨ false = false ∧ (aborts7c_s.group 1).lastSeq = some 4 ∧ 3 = 2 ∨ (false = false ∧ (aborts7c_s.group 1).lastSeq ≠ some 4 ∧ 3 = 3 ∧ ∃ c, (aborts7c_s.group 1).cur = some c ∧ c.seq ≠ 4) ∨ false = false ∧ (aborts7c_s.group 1).lastSeq ≠ some 4 ∧ 3 = 3 ∧ (aborts7c_s.group 1).cur = none ∧ aborts7c_s.atHead 1 = false ∨ false = false ∧ (aborts7c_s.group 1).lastSeq ≠ some 4 ∧ 3 = 4 ∧ ∃ c, (aborts7c_s.group 1).cur = some c ∧ c.seq = 4 ∧ ((aborts7c_s.group 1).abortHead = true ∨ fld c.desc 0 1 = 0 ∨ fld c.desc 0 1 = 2 ∨ fld c.desc 0 1 = 3)) := ⟨sound_up rfl (by decide +kernel), by decide +kernel⟩
/-- AbortsComplete, clause 7. -/
theorem test_aborts7d :
    aborts7d_s.sound ∧ 1 < 64 ∧ (aborts7d_s.group 1).aborts = [(4, false, true)]
    ∧ aborts7d_s.powered (rABORT_RESULT 1) = true ∧ aborts7d_s.powered rFLT_EVT = true
    ∧ aborts7d_s.stopped (aborts7d_s.gPart 1) = false
    ∧ (false = true ∧ 3 = 4 ∨ false = false ∧ (aborts7d_s.group 1).lastSeq = some 4 ∧ 3 = 2 ∨ (false = false ∧ (aborts7d_s.group 1).lastSeq ≠ some 4 ∧ 3 = 3 ∧ ∃ c, (aborts7d_s.group 1).cur = some c ∧ c.seq ≠ 4) ∨ false = false ∧ (aborts7d_s.group 1).lastSeq ≠ some 4 ∧ 3 = 3 ∧ (aborts7d_s.group 1).cur = none ∧ aborts7d_s.atHead 1 = false ∨ false = false ∧ (aborts7d_s.group 1).lastSeq ≠ some 4 ∧ 3 = 4 ∧ ∃ c, (aborts7d_s.group 1).cur = some c ∧ c.seq = 4 ∧ ((aborts7d_s.group 1).abortHead = true ∨ fld c.desc 0 1 = 0 ∨ fld c.desc 0 1 = 2 ∨ fld c.desc 0 1 = 3)) := ⟨sound_up rfl (by decide +kernel), by decide +kernel⟩
/-- AbortsComplete, clause 7. -/
theorem test_aborts7e :
    aborts7e_s.sound ∧ 1 < 64 ∧ (aborts7e_s.group 1).aborts = [(3, false, true)]
    ∧ aborts7e_s.powered (rABORT_RESULT 1) = true ∧ aborts7e_s.powered rFLT_EVT = true
    ∧ aborts7e_s.stopped (aborts7e_s.gPart 1) = false
    ∧ (false = true ∧ 4 = 4 ∨ false = false ∧ (aborts7e_s.group 1).lastSeq = some 3 ∧ 4 = 2 ∨ (false = false ∧ (aborts7e_s.group 1).lastSeq ≠ some 3 ∧ 4 = 3 ∧ ∃ c, (aborts7e_s.group 1).cur = some c ∧ c.seq ≠ 3) ∨ false = false ∧ (aborts7e_s.group 1).lastSeq ≠ some 3 ∧ 4 = 3 ∧ (aborts7e_s.group 1).cur = none ∧ aborts7e_s.atHead 1 = false ∨ false = false ∧ (aborts7e_s.group 1).lastSeq ≠ some 3 ∧ 4 = 4 ∧ ∃ c, (aborts7e_s.group 1).cur = some c ∧ c.seq = 3 ∧ ((aborts7e_s.group 1).abortHead = true ∨ fld c.desc 0 1 = 0 ∨ fld c.desc 0 1 = 2 ∨ fld c.desc 0 1 = 3)) := ⟨sound_up rfl (by decide +kernel), by decide +kernel⟩
/-- AbortsComplete, clause 8. -/
theorem test_aborts8 :
    aborts8_s.sound ∧ 1 < 64 ∧ (aborts8_s.group 1).aborts = [(3, false, true)]
    ∧ aborts8_s.stopped (aborts8_s.gPart 1) = true
    ∧ (aborts8_s.part (aborts8_s.gPart 1)).tornAt ≠ aborts8_s.stitch.count := ⟨sound_up rfl (by decide +kernel), by decide +kernel⟩
/-- AbortsComplete, clause 9. -/
theorem test_aborts9 :
    aborts9_s.sound ∧ 1 < 64 ∧ (aborts9_s.group 1).cur = some aborts1_c
    ∧ aborts9_s.tr (aborts9_s.gPart 1) (aborts9_s.gcfg 1 16 8) (saveExtent (aborts9_s.pCores (aborts9_s.gPart 1))) 6 = some 1114112
    ∧ aborts9_s.gBatch 1 = true ∧ aborts9_s.gInstr 1 = true ∧ aborts1_c.phase = 1 ∧ aborts1_c.saved = 0
    ∧ aborts1_c.endAs = none ∧ aborts9_s.preempted 1 = true ∧ aborts9_s.runsLeft 1 = false
    ∧ aborts9_s.instrLeft 1 = true ∧ aborts9_s.powered rPREEMPT_CNT = true := ⟨sound_up rfl (by decide +kernel), by decide +kernel⟩
/-- AbortsComplete, clause 10. -/
theorem test_aborts10 :
    aborts10_s.sound ∧ 1 < 64 ∧ (aborts10_s.group 1).cur = some memoryPorts15_c
    ∧ aborts10_s.tr (aborts10_s.gPart 1) (aborts10_s.gcfg 1 16 8) (saveExtent (aborts10_s.pCores (aborts10_s.gPart 1))) 6 = some 1114112
    ∧ memoryPorts15_c.saved = 1 ∧ aborts10_s.writing (MemObj.saveArea 1) = false ∧ aborts10_s.self.request = false := ⟨sound_up rfl (by decide +kernel), by decide +kernel⟩
/-- AbortsComplete, clause 11. -/
theorem test_aborts11 :
    aborts11_s.sound ∧ 1 < 64 ∧ (aborts11_s.group 1).cur = some memoryPorts15_c
    ∧ aborts11_s.tr (aborts11_s.gPart 1) (aborts11_s.gcfg 1 16 8) (saveExtent (aborts11_s.pCores (aborts11_s.gPart 1))) 6 = some 1114112
    ∧ memoryPorts15_c.saved = 1 ∧ aborts11_s.writing (MemObj.saveArea 1) = false ∧ aborts11_s.self.request = true := ⟨sound_up rfl (by decide +kernel), by decide +kernel⟩
/-- AbortsComplete, clause 12. -/
theorem test_aborts12 :
    aborts12_s.sound ∧ 1 < 64 ∧ (aborts12_s.group 1).cur = some aborts12_c
    ∧ aborts12_s.tr (aborts12_s.gPart 1) (aborts12_s.gcfg 1 16 8) (saveExtent (aborts12_s.pCores (aborts12_s.gPart 1))) 6 = some 1114112
    ∧ aborts12_c.saved = 2 ∧ aborts12_s.highest 1 = true := ⟨sound_up rfl (by decide +kernel), by decide +kernel⟩
/-- AbortsComplete, clause 13. -/
theorem test_aborts13 :
    aborts13_s.sound ∧ 1 < 64 ∧ (aborts13_s.group 1).cur = some aborts13_c
    ∧ aborts13_s.tr (aborts13_s.gPart 1) (aborts13_s.gcfg 1 16 8) (saveExtent (aborts13_s.pCores (aborts13_s.gPart 1))) 6 = some 1114112
    ∧ aborts13_c.saved = 3 ∧ aborts13_s.frontRead 11 = some (0, aborts13_r) ∧ aborts13_r.obj = MemObj.saveArea 1
    ∧ aborts13_s.sealStall aborts13_r = false ∧ aborts13_r.left ≤ validGranules 255
    ∧ ({ aborts13_s with memp := { aborts13_s.memp with reads := aborts13_s.memp.reads.eraseIdx 0 } } : State).reading (MemObj.saveArea 1) = false := ⟨sound_up rfl (by decide +kernel), by decide +kernel⟩
/-- JournalWritesComplete, clause 1. -/
theorem test_journalWrites1 :
    journalWrites1_s.sound ∧ 0 < 8 ∧ (journalWrites1_s.part 0).jrnQ = [journalWrites1_r]
    ∧ journalWrites1_s.writing (MemObj.journal 0) = false
    ∧ journalWrites1_s.tr 0 (fld (journalWrites1_s.part 0).jrnRec 8 8) 1 6 = some 3145728
    ∧ List.length journalWrites1_r ≤ 2 ^ fld (journalWrites1_s.part 0).jrnRec 1 1 - (journalWrites1_s.part 0).jrnW % 2 ^ fld (journalWrites1_s.part 0).jrnRec 1 1
    ∧ List.length journalWrites1_r ≤ 2 ^ fld (journalWrites1_s.part 0).jrnRec 1 1 - ((journalWrites1_s.part 0).jrnW - (journalWrites1_s.part 0).jrnC) := ⟨sound_up rfl (by decide +kernel), by decide +kernel⟩
/-- JournalWritesComplete, clause 2. -/
theorem test_journalWrites2 :
    journalWrites2_s.sound ∧ 0 < 8 ∧ (journalWrites2_s.part 0).jrnQ = [journalWrites1_r]
    ∧ journalWrites2_s.writing (MemObj.journal 0) = false
    ∧ journalWrites2_s.tr 0 (fld (journalWrites2_s.part 0).jrnRec 8 8) 1 6 = some 3145728
    ∧ List.length journalWrites1_r ≤ 2 ^ fld (journalWrites2_s.part 0).jrnRec 1 1 - (journalWrites2_s.part 0).jrnW % 2 ^ fld (journalWrites2_s.part 0).jrnRec 1 1
    ∧ 2 ^ fld (journalWrites2_s.part 0).jrnRec 1 1 - ((journalWrites2_s.part 0).jrnW - (journalWrites2_s.part 0).jrnC) < List.length journalWrites1_r
    ∧ (journalWrites2_s.part 0).jrnWait = false ∧ journalWrites2_s.powered rJRN_FULL_CNT = true := ⟨sound_up rfl (by decide +kernel), by decide +kernel⟩
/-- HamperCompletes, clause 1. -/
theorem test_hamper1 :
    ownOk (wLoad.sect 5) 0 = true ∧ 1 ≤ 255 ∧ 255 ≤ 255 ∧ 1 ≤ 3 ∧ wLoad.hamper.waiting = [] ∧ wLoad.hamper.chains = []
    ∧ wLoad.hamper.withheld = [] ∧ wLoad.mayGrant 0 3 false = true := by decide +kernel
/-- HamperCompletes, clause 2. -/
theorem test_hamper2 :
    ownOk (wLoad.sect 5) 0 = true ∧ 1 ≤ 255 ∧ 255 ≤ 255 ∧ 1 ≤ 3 ∧ wLoad.hamper.waiting = [] ∧ wLoad.hamper.chains = []
    ∧ wLoad.hamper.withheld = [] ∧ 1 < 2 ∧ 1 ≤ 2 ∧ wLoad.mayGrant 0 (2 + 3) false = true := by decide +kernel
/-- HamperCompletes, clause 3. -/
theorem test_hamper3 :
    wLoad.hamper.waiting = [] ∧ hamper3_a.rank ≠ hamper3_b.rank := by decide +kernel
/-- HamperCompletes, clause 4. -/
theorem test_hamper4 :
    ownOk (hamper4_s.sect 5) 0 = true ∧ 1 ≤ 255 ∧ 255 ≤ 255 ∧ 1 ≤ 3 ∧ hamper4_s.hamper.waiting = []
    ∧ hamper4_s.mayGrant 0 3 true = false ∧ spWf hamper4_s.regs = true ∧ hamper4_s.powered rMPOOL_DENY_CNT = true := by decide +kernel
/-- HamperCompletes, clause 5. -/
theorem test_hamper5 :
    hamper5_s.hamper.chains = [hamper5_c] ∧ hamper5_c.cells.head? = some (false, 7)
    ∧ (∀ e ∈ hamper5_c.cells, e.1 = false) ∧ hamper5_c.ref = 1 := by decide +kernel
/-- HamperCompletes, clause 6. -/
theorem test_hamper6 :
    hamper6_s.hamper.chains = [hamper6_c] ∧ hamper6_c.cells.head? = some (false, 7)
    ∧ (∀ e ∈ hamper6_c.cells, e.1 = false) ∧ 1 < hamper6_c.ref := by decide +kernel
/-- HamperCompletes, clause 7. -/
theorem test_hamper7 :
    hamper6_s.hamper.chains = [hamper6_c] ∧ hamper6_c.cells.head? = some (false, 7)
    ∧ (∀ e ∈ hamper6_c.cells, e.1 = false) ∧ hamper6_c.ref + 253 ≤ 255 := by decide +kernel
/-- HamperCompletes, clause 8. -/
theorem test_hamper8 :
    hamper5_s.hamper.chains = [hamper5_c] ∧ hamper5_c.cells.head? = some (false, 7)
    ∧ (∀ e ∈ hamper5_c.cells, e.1 = false) ∧ hamper5_c.ref + 1 ≤ 255 ∧ 1 ≤ 1 ∧ 1 < hamper5_c.ref + 1 := by decide +kernel
/-- HamperCompletes, clause 9. -/
theorem test_hamper9 :
    hamper9_s.sound ∧ hamper9_s.hamper.chains = [hamper9_c] ∧ hamper9_c.cells.head? = some (true, 7)
    ∧ hamper9_c.poison = [] ∧ 1 < hamper9_c.ref := ⟨sound_up rfl (by decide +kernel), by decide +kernel⟩
/-- HamperCompletes, clause 10. -/
theorem test_hamper10 :
    spWf wLoad.regs = true ∧ wLoad.powered rREF_ERR_CNT = true ∧ wLoad.headedBy true 7 = none := by decide +kernel
/-- HamperCompletes, clause 11. -/
theorem test_hamper11 :
    spWf wLoad.regs = true ∧ wLoad.powered rREF_ERR_CNT = true
    ∧ (wLoad.headedBy true 7 = none ∨ ∃ c, wLoad.headedBy true 7 = some c ∧ 255 < c.ref + 1)
    ∧ hamper3_b.memory = false ∧ hamper3_b.contig = false
    ∧ wLoad.mayGrant hamper3_b.owner hamper3_b.cells false = true := by decide +kernel
/-- HamperCompletes, clause 11. -/
theorem test_hamper11b :
    spWf hamper6_s.regs = true ∧ hamper6_s.powered rREF_ERR_CNT = true
    ∧ (hamper6_s.headedBy false 7 = none ∨ ∃ c, hamper6_s.headedBy false 7 = some c ∧ 255 < c.ref + 254)
    ∧ hamper3_b.memory = false ∧ hamper3_b.contig = false
    ∧ hamper6_s.mayGrant hamper3_b.owner hamper3_b.cells false = true := by decide +kernel
/-- FlitsArrive, clause 1. -/
theorem test_flitsArrive1 :
    parseFlit flitsArrive1_b = some flitsArrive1_f ∧ flitsArrive1_s.chan flitsArrive1_c.id = some flitsArrive1_c
    ∧ flitsArrive1_s.hears flitsArrive1_c.port = true ∧ flitsArrive1_c.active = true ∧ flitsArrive1_f.kind = 1
    ∧ flitsArrive1_f.seq = flitsArrive1_c.rxX % 65536 ∧ flitsArrive1_c.held = [] := ⟨parse_flitBytes flitsArrive1_f (by decide +kernel), by decide +kernel⟩
/-- FlitsArrive, clause 2. -/
theorem test_flitsArrive2 :
    parseFlit flitsArrive2_b = some wData ∧ flitsArrive2_s.chan wChan.id = some wChan
    ∧ flitsArrive2_s.hears wChan.port = true ∧ wChan.active = true ∧ wData.kind = 1 ∧ wData.seq = wChan.rxX % 65536
    ∧ wChan.held = [] ∧ wChan.asm = [] ∧ flitsArrive2_s.link.slots = [] ∧ flitsArrive2_s.link.early = []
    ∧ (msgOf wChan wData.owner wData.payload).length + 16 ≤ List.length wData.payload
    ∧ bit (msgOf wChan wData.owner wData.payload).flags 0 = false ∧ (msgOf wChan wData.owner wData.payload).typ ≠ 7
    ∧ (msgOf wChan wData.owner wData.payload).typ ≠ 2
    ∧ reservedTyp (msgOf wChan wData.owner wData.payload).typ = false
    ∧ flitsArrive2_s.isDead (msgOf wChan wData.owner wData.payload).src = false
    ∧ (∀ k ∈ flitsArrive2_s.link.inbox, keyOf k ≠ keyOf (msgOf wChan wData.owner wData.payload))
    ∧ flitsArrive2_s.rxNext (msgOf wChan wData.owner wData.payload).src wData.owner = ((msgOf wChan wData.owner wData.payload).msgNo, []) := ⟨parse_flitBytes wData (by decide +kernel), by decide +kernel⟩
/-- FlitsArrive, clause 3. -/
theorem test_flitsArrive3 :
    parseFlit flitsArrive3_b = some flitsArrive3_f ∧ flitsArrive2_s.chan wChan.id = some wChan
    ∧ flitsArrive2_s.hears wChan.port = true ∧ wChan.active = true ∧ flitsArrive3_f.kind = 0 := ⟨parse_flitBytes flitsArrive3_f (by decide +kernel), by decide +kernel⟩
/-- FlitsArrive, clause 4. -/
theorem test_flitsArrive4 :
    flitsArrive4_s.sound ∧ 35 < 36 ∧ flitsArrive4_s.hears 35 = true ∧ stage (flitsArrive4_s.port 35) ≠ 2
    ∧ (flitsArrive4_s.port 35).failRun < 15 ∧ (flitsArrive4_s.port 35).bucket < 1023
    ∧ 35 < flitsArrive4_s.recd.linkErr.length ∧ flitsArrive4_s.powered (rLK_CRC_CNT 35) = true := ⟨sound_up rfl (by decide +kernel), by decide +kernel⟩
/-- ResendsComplete, clause 1. -/
theorem test_resends1 :
    resends1_s.chan resends1_c.id = some resends1_c ∧ resends1_c.id < 31 ∧ resends1_c.missing = [(65537, 0)]
    ∧ resends1_s.hears resends1_c.port = true ∧ 0 = 0 ∧ resends1_c.markDue = false := by decide +kernel
/-- ResendsComplete, clause 2. -/
theorem test_resends2 :
    resends2_s.chan resends2_c.id = some resends2_c ∧ resends2_c.id < 31 ∧ resends2_c.missing = [(65537, 7)]
    ∧ resends2_s.hears resends2_c.port = true ∧ 1 ≤ 7 ∧ 7 < 8 ∧ resends2_c.markDue = false := by decide +kernel
/-- ResendsComplete, clause 3. -/
theorem test_resends3 :
    resends3_s.chan resends3_c.id = some resends3_c ∧ resends3_c.id < 31 ∧ resends3_c.missing = [(65537, 8)]
    ∧ resends3_s.hears resends3_c.port = true ∧ 8 ≤ 8 ∧ resends3_c.port < resends3_s.link.ports.length
    ∧ (resends3_s.port resends3_c.port).absent = false := by decide +kernel
/-- ResendsComplete, clause 4. -/
theorem test_resends4 :
    parseFlit resends4_b = some resends4_f ∧ resends4_s.chan resends4_c.id = some resends4_c
    ∧ resends4_s.hears resends4_c.port = true ∧ ackedBy resends4_f.ack resends4_u.x = false ∧ resends4_c.waiting = []
    ∧ isControl 1 resends4_f = true ∧ fld resends4_f.payload 2 2 = 1 ∧ resends4_c.unacked = [resends4_u]
    ∧ resends4_u.sends < 9 ∧ fld resends4_f.payload 16 2 = resends4_u.x % 65536 := ⟨parse_flitBytes resends4_f (by decide +kernel), by decide +kernel⟩
/-- ResendsComplete, clause 5. -/
theorem test_resends5 :
    resends5_s.chan resends5_c.id = some resends5_c ∧ resends5_c.id < 31 ∧ resends5_s.active resends5_c.port = true
    ∧ resends5_c.unacked = [resends5_u] ∧ resends5_u.owed = true
    ∧ resends5_s.replayUnderTest resends5_c.port resends5_u.x = false := by decide +kernel
/-- TrainingCompletes, clause 1. -/
theorem test_training1 :
    training1_s.sound ∧ 35 < 36 ∧ (training1_s.port 35).state = 1 := ⟨sound_up rfl (by decide +kernel), by decide +kernel⟩
/-- TrainingCompletes, clause 2. -/
theorem test_training2 :
    training2_s.sound ∧ 35 < 36 ∧ 1 ≤ (training2_s.port 35).state ∧ (training2_s.port 35).state ≤ 4 := ⟨sound_up rfl (by decide +kernel), by decide +kernel⟩
/-- TrainingCompletes, clause 2. -/
theorem test_training2b :
    training1_s.sound ∧ 30 < 36 ∧ 1 ≤ (training1_s.port 30).state ∧ (training1_s.port 30).state ≤ 4 := ⟨sound_up rfl (by decide +kernel), by decide +kernel⟩
/-- TrainingCompletes, clause 3. -/
theorem test_training3 :
    training3_s.sound ∧ 30 < 36 ∧ (training3_s.port 30).state = 6 ∧ (training3_s.port 30).absent = false := ⟨sound_up rfl (by decide +kernel), by decide +kernel⟩
/-- TrainingCompletes, clause 4. -/
theorem test_training4 :
    flitsArrive2_s.sound ∧ 30 < 36 ∧ (flitsArrive2_s.port 30).state = 5 ∧ 30 < flitsArrive2_s.recd.linkRt.length := ⟨sound_up rfl (by decide +kernel), by decide +kernel⟩
/-- TrainingCompletes, clause 5. -/
theorem test_training5 :
    training5_s.sound ∧ 30 < 36 ∧ training5_s.leakDue (keyLink 30) 1024 (training5_s.port 30).bucket = true := ⟨sound_up rfl (by decide +kernel), by decide +kernel⟩
/-- HelloAndProbeComplete, clause 1. -/
theorem test_helloAndProbe1 :
    parseFlit helloAndProbe1_b = some helloAndProbe1_f
    ∧ helloAndProbe1_s.chan helloAndProbe1_c.id = some helloAndProbe1_c
    ∧ helloAndProbe1_s.hears helloAndProbe1_c.port = true ∧ helloAndProbe1_c.port < helloAndProbe1_s.link.ports.length
    ∧ (helloAndProbe1_s.port helloAndProbe1_c.port).absent = false ∧ isControl 2 helloAndProbe1_f = true
    ∧ stage (helloAndProbe1_s.port helloAndProbe1_c.port) = 3
    ∧ (¬(fld helloAndProbe1_f.payload 2 1 = helloAndProbe1_s.hdrF 24 1 ∧ fld helloAndProbe1_f.payload 3 1 = helloAndProbe1_c.peer / 32 ∧ fld helloAndProbe1_f.payload 4 1 = helloAndProbe1_c.peer % 32 ∧ (helloAndProbe1_c.port < 31 → fld helloAndProbe1_f.payload 5 1 = 30 - helloAndProbe1_c.port))) := ⟨parse_flitBytes helloAndProbe1_f (by decide +kernel), by decide +kernel⟩
/-- HelloAndProbeComplete, clause 2. -/
theorem test_helloAndProbe2 :
    parseFlit helloAndProbe2_b = some helloAndProbe2_f
    ∧ helloAndProbe1_s.chan helloAndProbe1_c.id = some helloAndProbe1_c
    ∧ helloAndProbe1_s.hears helloAndProbe1_c.port = true ∧ helloAndProbe1_c.port < helloAndProbe1_s.link.ports.length
    ∧ (helloAndProbe1_s.port helloAndProbe1_c.port).absent = false ∧ isControl 2 helloAndProbe2_f = true
    ∧ stage (helloAndProbe1_s.port helloAndProbe1_c.port) = 3
    ∧ (fld helloAndProbe2_f.payload 2 1 = helloAndProbe1_s.hdrF 24 1 ∧ fld helloAndProbe2_f.payload 3 1 = helloAndProbe1_c.peer / 32 ∧ fld helloAndProbe2_f.payload 4 1 = helloAndProbe1_c.peer % 32 ∧ (helloAndProbe1_c.port < 31 → fld helloAndProbe2_f.payload 5 1 = 30 - helloAndProbe1_c.port))
    ∧ fld helloAndProbe2_f.payload 6 1 ≠ (helloAndProbe1_s.port helloAndProbe1_c.port).mode := ⟨parse_flitBytes helloAndProbe2_f (by decide +kernel), by decide +kernel⟩
/-- HelloAndProbeComplete, clause 3. -/
theorem test_helloAndProbe3 :
    parseFlit helloAndProbe3_b = some helloAndProbe3_f
    ∧ helloAndProbe3_s.chan helloAndProbe3_c.id = some helloAndProbe3_c
    ∧ helloAndProbe3_s.hears helloAndProbe3_c.port = true ∧ helloAndProbe3_c.port < helloAndProbe3_s.link.ports.length
    ∧ (helloAndProbe3_s.port helloAndProbe3_c.port).absent = false ∧ isControl 2 helloAndProbe3_f = true
    ∧ (helloAndProbe3_s.port helloAndProbe3_c.port).state = 3
    ∧ (fld helloAndProbe3_f.payload 2 1 = helloAndProbe3_s.hdrF 24 1 ∧ fld helloAndProbe3_f.payload 3 1 = helloAndProbe3_c.peer / 32 ∧ fld helloAndProbe3_f.payload 4 1 = helloAndProbe3_c.peer % 32 ∧ (helloAndProbe3_c.port < 31 → fld helloAndProbe3_f.payload 5 1 = 30 - helloAndProbe3_c.port))
    ∧ fld helloAndProbe3_f.payload 6 1 = (helloAndProbe3_s.port helloAndProbe3_c.port).mode
    ∧ helloAndProbe3_c.active = false ∧ helloAndProbe3_c.wasActive = false ∧ helloAndProbe3_c.helloRun < 15 := ⟨parse_flitBytes helloAndProbe3_f (by decide +kernel), by decide +kernel⟩
/-- HelloAndProbeComplete, clause 4. -/
theorem test_helloAndProbe4 :
    parseFlit helloAndProbe4_b = some helloAndProbe4_f ∧ flitsArrive2_s.chan wChan.id = some wChan
    ∧ flitsArrive2_s.hears wChan.port = true ∧ wChan.port < flitsArrive2_s.link.ports.length
    ∧ (flitsArrive2_s.port wChan.port).absent = false ∧ isControl 6 helloAndProbe4_f = true ∧ wChan.id < 31
    ∧ (flitsArrive2_s.port wChan.port).state = 5 := ⟨parse_flitBytes helloAndProbe4_f (by decide +kernel), by decide +kernel⟩
/-- HelloAndProbeComplete, clause 5. -/
theorem test_helloAndProbe5 :
    parseFlit helloAndProbe5_b = some helloAndProbe5_f ∧ flitsArrive2_s.chan wChan.id = some wChan
    ∧ flitsArrive2_s.hears wChan.port = true ∧ wChan.port < flitsArrive2_s.link.ports.length
    ∧ (flitsArrive2_s.port wChan.port).absent = false ∧ isControl 5 helloAndProbe5_f = true
    ∧ fld helloAndProbe5_f.payload 1 1 = 0 ∧ wChan.id < 31 ∧ wChan.waiting = [] ∧ wChan.markDue = false
    ∧ flitsArrive2_s.link.slots = [] ∧ flitsArrive2_s.link.early = [] ∧ (flitsArrive2_s.port wChan.port).state = 5 := ⟨parse_flitBytes helloAndProbe5_f (by decide +kernel), by decide +kernel⟩
/-- HelloAndProbeComplete, clause 6. -/
theorem test_helloAndProbe6 :
    parseFlit helloAndProbe6_b = some helloAndProbe6_f ∧ helloAndProbe6_s.chan wChan.id = some wChan
    ∧ helloAndProbe6_s.hears wChan.port = true ∧ wChan.port < helloAndProbe6_s.link.ports.length
    ∧ (helloAndProbe6_s.port wChan.port).absent = false ∧ isControl 5 helloAndProbe6_f = true
    ∧ fld helloAndProbe6_f.payload 1 1 = 1 ∧ (helloAndProbe6_s.port wChan.port).state = 4
    ∧ (helloAndProbe6_s.port wChan.port).probes.length = 63 := ⟨parse_flitBytes helloAndProbe6_f (by decide +kernel), by decide +kernel⟩
/-- HelloAndProbeComplete, clause 7. -/
theorem test_helloAndProbe7 :
    helloAndProbe7_s.chan wChan.id = some wChan ∧ wChan.id < 31 ∧ helloAndProbe7_s.hears wChan.port = true
    ∧ stage (helloAndProbe7_s.port wChan.port) = 3 := by decide +kernel
/-- RelayAndUplinkComplete, clause 1. -/
theorem test_relayAndUplink1 :
    relayAndUplink1_s.sound ∧ 30 < 36 ∧ (relayAndUplink1_s.port 30).pendSvc = true
    ∧ (∀ q ∈ relayAndUplink1_s.parts, q.state ≠ 1) ∧ relayAndUplink1_s.stitch.count % 64 = 0 := ⟨sound_up rfl (by decide +kernel), by decide +kernel⟩
/-- RelayAndUplinkComplete, clause 2. -/
theorem test_relayAndUplink2 :
    relayAndUplink2_s.sound ∧ parseFlit relayAndUplink2_b = some relayAndUplink2_f
    ∧ relayAndUplink2_s.chan wChan.id = some wChan ∧ relayAndUplink2_s.hears wChan.port = true ∧ wChan.active = true
    ∧ isControl 7 relayAndUplink2_f = true ∧ fld relayAndUplink2_f.payload 4 2 / 32 = relayAndUplink2_s.pod
    ∧ relayAndUplink2_s.portTo (fld relayAndUplink2_f.payload 4 2 % 32) < 31
    ∧ (relayAndUplink2_s.port (relayAndUplink2_s.portTo (fld relayAndUplink2_f.payload 4 2 % 32))).relayed = some (wChan.peer % 32) := ⟨sound_up rfl (by decide +kernel), parse_flitBytes relayAndUplink2_f (by decide +kernel), by decide +kernel⟩
/-- RelayAndUplinkComplete, clause 3. -/
theorem test_relayAndUplink3 :
    relayAndUplink3_s.link.inbox = [wPassOn] ∧ bit wPassOn.flags 0 = true ∧ wPassOn.dst ≠ relayAndUplink3_s.member
    ∧ wPassOn.dst / 32 = relayAndUplink3_s.pod
    ∧ relayAndUplink3_s.chan (relayAndUplink3_s.portTo (wPassOn.dst % 32)) = some wRel
    ∧ relayAndUplink3_s.active wRel.port = true ∧ List.find? (holdIs wPassOn) relayAndUplink3_s.link.slots = none := by decide +kernel
/-- RelayAndUplinkComplete, clause 4. -/
theorem test_relayAndUplink4 :
    relayAndUplink4_s.link.inbox = [wPassOn] ∧ bit wPassOn.flags 0 = true ∧ wPassOn.dst ≠ relayAndUplink4_s.member
    ∧ wPassOn.dst / 32 = relayAndUplink4_s.pod
    ∧ relayAndUplink4_s.chan (relayAndUplink4_s.portTo (wPassOn.dst % 32)) = some wRel
    ∧ relayAndUplink4_s.active wRel.port = true ∧ relayAndUplink4_s.link.slots = [relayAndUplink4_h]
    ∧ holdIs wPassOn relayAndUplink4_h = true ∧ relayAndUplink4_h.fate = 0
    ∧ relayAndUplink4_h.got ≤ relayAndUplink4_h.n := by decide +kernel
/-- RelayAndUplinkComplete, clause 5. -/
theorem test_relayAndUplink5 :
    relayAndUplink5_s.link.inbox = [wPassOn] ∧ bit wPassOn.flags 0 = true ∧ wPassOn.dst ≠ relayAndUplink5_s.member
    ∧ wPassOn.dst / 32 = relayAndUplink5_s.pod
    ∧ relayAndUplink5_s.chan (relayAndUplink5_s.portTo (wPassOn.dst % 32)) = some wRel
    ∧ relayAndUplink5_s.active wRel.port = true ∧ relayAndUplink5_s.link.slots = [relayAndUplink5_h]
    ∧ holdIs wPassOn relayAndUplink5_h = true ∧ relayAndUplink5_h.fate = 0 ∧ relayAndUplink5_h.n = 0
    ∧ 0 < relayAndUplink5_h.got ∧ relayAndUplink5_h.whole = true := by decide +kernel
/-- RelayAndUplinkComplete, clause 6. -/
theorem test_relayAndUplink6 :
    relayAndUplink6_s.link.inbox = [wPassOn] ∧ bit wPassOn.flags 0 = true ∧ wPassOn.dst ≠ relayAndUplink6_s.member
    ∧ wPassOn.dst / 32 = relayAndUplink6_s.pod
    ∧ relayAndUplink6_s.chan (relayAndUplink6_s.portTo (wPassOn.dst % 32)) = some wRel
    ∧ relayAndUplink6_s.active wRel.port = true ∧ relayAndUplink6_s.link.slots = [relayAndUplink6_h]
    ∧ holdIs wPassOn relayAndUplink6_h = true ∧ relayAndUplink6_h.fate = 0
    ∧ relayAndUplink6_h.n < relayAndUplink6_h.got ∧ (relayAndUplink6_h.whole = false ∨ relayAndUplink6_h.n ≠ 0) := by decide +kernel
/-- RelayAndUplinkComplete, clause 7. -/
theorem test_relayAndUplink7 :
    relayAndUplink7_s.link.inbox = [wPassOn] ∧ bit wPassOn.flags 0 = true ∧ wPassOn.dst ≠ relayAndUplink7_s.member
    ∧ wPassOn.dst / 32 = relayAndUplink7_s.pod
    ∧ relayAndUplink7_s.chan (relayAndUplink7_s.portTo (wPassOn.dst % 32)) = some wRel
    ∧ relayAndUplink7_s.link.slots = [relayAndUplink7_h] ∧ holdIs wPassOn relayAndUplink7_h = true
    ∧ relayAndUplink7_h.fate ≠ 0 := by decide +kernel
/-- RelayAndUplinkComplete, clause 8. -/
theorem test_relayAndUplink8 :
    relayAndUplink8_s.link.inbox = [relayAndUplink8_m] ∧ bit relayAndUplink8_m.flags 0 = true
    ∧ relayAndUplink8_m.dst ≠ relayAndUplink8_s.member ∧ relayAndUplink8_m.dst / 32 = relayAndUplink8_s.pod
    ∧ relayAndUplink8_s.chan (relayAndUplink8_s.portTo (relayAndUplink8_m.dst % 32)) = some relayAndUplink8_c
    ∧ relayAndUplink8_s.active relayAndUplink8_c.port = false
    ∧ relayAndUplink8_s.chan relayAndUplink8_m.chan = some wChan ∧ wChan.id < 31
    ∧ relayAndUplink8_s.hears wChan.port = true
    ∧ List.find? (holdIs relayAndUplink8_m) relayAndUplink8_s.link.slots = none := by decide +kernel
/-- RelayAndUplinkComplete, clause 9. -/
theorem test_relayAndUplink9 :
    relayAndUplink9_s.link.inbox = [relayAndUplink8_m] ∧ bit relayAndUplink8_m.flags 0 = true
    ∧ relayAndUplink8_m.dst ≠ relayAndUplink9_s.member ∧ relayAndUplink8_m.dst / 32 = relayAndUplink9_s.pod
    ∧ relayAndUplink9_s.chan (relayAndUplink9_s.portTo (relayAndUplink8_m.dst % 32)) = some relayAndUplink8_c
    ∧ relayAndUplink9_s.active relayAndUplink8_c.port = false
    ∧ relayAndUplink9_s.chan relayAndUplink8_m.chan = some wChan ∧ wChan.id < 31
    ∧ relayAndUplink9_s.hears wChan.port = true ∧ relayAndUplink9_s.link.slots = [relayAndUplink9_h]
    ∧ holdIs relayAndUplink8_m relayAndUplink9_h = true ∧ relayAndUplink9_h.fate = 0 := by decide +kernel
/-- RelayAndUplinkComplete, clause 10. -/
theorem test_relayAndUplink10 :
    relayAndUplink10_s.chan relayAndUplink10_c.id = some relayAndUplink10_c ∧ 31 ≤ relayAndUplink10_c.id
    ∧ 31 ≤ relayAndUplink10_c.port ∧ relayAndUplink10_s.active relayAndUplink10_c.port = true
    ∧ relayAndUplink10_c.lastAck ≠ relayAndUplink10_c.rxX % 65536 ∧ relayAndUplink10_c.markDue = false := by decide +kernel
/-- RelayAndUplinkComplete, clause 11. -/
theorem test_relayAndUplink11 :
    relayAndUplink11_s.sound ∧ 31 ≤ 31 ∧ 31 < 36 ∧ (relayAndUplink11_s.port 31).state = 5
    ∧ relayAndUplink11_s.boot.rstLow = false ∧ (relayAndUplink11_s.port 31).failRun < 8
    ∧ (relayAndUplink11_s.port 31).bucket < 1016 ∧ relayAndUplink11_s.powered (rLK_CRC_CNT 31) = true := ⟨sound_up rfl (by decide +kernel), by decide +kernel⟩
/-- RelayAndUplinkComplete, clause 12. -/
theorem test_relayAndUplink12 :
    relayAndUplink12_s.sound ∧ 35 < 36 ∧ (relayAndUplink12_s.port 35).rediv = true
    ∧ (∀ c ∈ relayAndUplink12_s.link.chans, c.port = 35 → c.unacked = [] ∧ c.held = [] ∧ c.missing = [] ∧ c.lastAck = c.rxX % 65536) := ⟨sound_up rfl (by decide +kernel), by decide +kernel⟩
/-- LaunchMessagesComplete, clause 1. -/
theorem test_launchMessages1 :
    launchMessages1_s.sound ∧ 0 < 8 ∧ (launchMessages1_s.part 0).step = some launchMessages1_x
    ∧ launchMessages1_x.launched = false ∧ launchMessages1_x.launchAt = none ∧ launchMessages1_x.readySent = false
    ∧ launchMessages1_s.inService = true ∧ launchMessages1_s.readyOk 0 = true
    ∧ launchMessages1_s.mgrOf launchMessages1_s.pod = launchMessages1_s.member := ⟨sound_up rfl (by decide +kernel), by decide +kernel⟩
/-- LaunchMessagesComplete, clause 2. -/
theorem test_launchMessages2 :
    due launchMessages2_s launchMessages2_m 16 ∧ readyLayout launchMessages2_m.body = true
    ∧ launchMessages2_s.podMgr = true ∧ launchMessages2_s.gValid (fld launchMessages2_m.body 8 1) = true
    ∧ fld launchMessages2_m.body 10 2 ∈ launchMessages2_s.members (fld launchMessages2_m.body 8 1)
    ∧ fld launchMessages2_m.body 10 2 / 32 = launchMessages2_s.pod
    ∧ launchMessages2_s.isDead (fld launchMessages2_m.body 10 2) = false := ⟨⟨by decide +kernel, by decide +kernel⟩, by decide +kernel⟩
/-- LaunchMessagesComplete, clause 3. -/
theorem test_launchMessages3 :
    due launchMessages3_s launchMessages3_m 17 ∧ readyLayout launchMessages3_m.body = true
    ∧ launchMessages3_s.headMgr = true ∧ launchMessages3_s.gValid (fld launchMessages3_m.body 8 1) = true
    ∧ fld launchMessages3_m.body 10 2 / 32 ∈ launchMessages3_s.otherPods (fld launchMessages3_m.body 8 1)
    ∧ launchMessages3_s.isDead (fld launchMessages3_m.body 10 2) = false := ⟨⟨by decide +kernel, by decide +kernel⟩, by decide +kernel⟩
/-- LaunchMessagesComplete, clause 4. -/
theorem test_launchMessages4 :
    launchMessages4_s.sound ∧ due launchMessages4_s launchMessages4_m 18 ∧ List.length launchMessages4_m.body = 64
    ∧ rsv launchMessages4_m.body 9 7 = true ∧ rsv launchMessages4_m.body 40 24 = true
    ∧ launchMessages4_s.gValid (fld launchMessages4_m.body 8 1) = true
    ∧ launchMessages4_s.isDead launchMessages4_m.src = false ∧ launchMessages4_m.src / 32 = launchMessages4_s.pod
    ∧ launchMessages4_s.gPart (fld launchMessages4_m.body 8 1) < 8
    ∧ (launchMessages4_s.part (launchMessages4_s.gPart (fld launchMessages4_m.body 8 1))).step = some launchMessages4_x
    ∧ launchMessages4_x.group = fld launchMessages4_m.body 8 1
    ∧ launchMessages4_x.stepNo = fld launchMessages4_m.body 0 8 ∧ launchMessages4_x.launchAt = none
    ∧ launchMessages4_s.powered rLATE_LAUNCH_CNT = true
    ∧ launchMessages4_s.stitch.count < fld launchMessages4_m.body 16 8 := ⟨sound_up rfl (by decide +kernel), ⟨by decide +kernel, by decide +kernel⟩, by decide +kernel⟩
/-- LaunchMessagesComplete, clause 5. -/
theorem test_launchMessages5 :
    launchMessages5_s.sound ∧ due launchMessages5_s launchMessages5_m 18 ∧ List.length launchMessages5_m.body = 64
    ∧ rsv launchMessages5_m.body 9 7 = true ∧ rsv launchMessages5_m.body 40 24 = true
    ∧ launchMessages5_s.gValid (fld launchMessages5_m.body 8 1) = true
    ∧ launchMessages5_s.isDead launchMessages5_m.src = false ∧ launchMessages5_m.src / 32 = launchMessages5_s.pod
    ∧ launchMessages5_s.gPart (fld launchMessages5_m.body 8 1) < 8
    ∧ (launchMessages5_s.part (launchMessages5_s.gPart (fld launchMessages5_m.body 8 1))).step = some launchMessages4_x
    ∧ launchMessages4_x.group = fld launchMessages5_m.body 8 1
    ∧ launchMessages4_x.stepNo = fld launchMessages5_m.body 0 8 ∧ launchMessages4_x.launchAt = none
    ∧ launchMessages5_s.powered rLATE_LAUNCH_CNT = true
    ∧ fld launchMessages5_m.body 16 8 ≤ launchMessages5_s.stitch.count := ⟨sound_up rfl (by decide +kernel), ⟨by decide +kernel, by decide +kernel⟩, by decide +kernel⟩
/-- LaunchAndPassStart, clause 1. -/
theorem test_launchAndPassStart1 :
    launchAndPassStart1_s.sound ∧ 0 < 8 ∧ (launchAndPassStart1_s.part 0).step = some launchAndPassStart1_x
    ∧ launchAndPassStart1_s.launchDue launchAndPassStart1_x = true := ⟨sound_up rfl (by decide +kernel), by decide +kernel⟩
/-- LaunchAndPassStart, clause 2. -/
theorem test_launchAndPassStart2 :
    launchAndPassStart2_s.sound ∧ 0 < 8 ∧ (launchAndPassStart2_s.part 0).step = some launchAndPassStart2_x
    ∧ launchAndPassStart2_x.launched = false ∧ launchAndPassStart2_x.askedAt = some 990
    ∧ launchAndPassStart2_s.reading (MemObj.record 0) = true := ⟨sound_up rfl (by decide +kernel), by decide +kernel⟩
/-- LaunchAndPassStart, clause 3. -/
theorem test_launchAndPassStart3 :
    launchAndPassStart3_s.sound ∧ 0 < 8 ∧ (launchAndPassStart3_s.part 0).step = some launchAndPassStart2_x
    ∧ launchAndPassStart2_x.launched = false ∧ launchAndPassStart2_x.askedAt = some 990
    ∧ launchAndPassStart3_s.reading (MemObj.record 0) = false ∧ launchAndPassStart3_s.units.arraysPend = 0
    ∧ launchAndPassStart3_s.units.foldsPend = 0 ∧ (launchAndPassStart3_s.part 0).state = 1
    ∧ (launchAndPassStart3_s.part 0).tables.length = 4
    ∧ launchAndPassStart3_s.readEngines 0 = some (launchAndPassStart3_e, launchAndPassStart3_c)
    ∧ launchAndPassStart3_s.readRecords 0 = some (restart2_j, restart2_l) := ⟨sound_up rfl (by decide +kernel), by decide +kernel⟩
/-- LaunchAndPassStart, clause 4. -/
theorem test_launchAndPassStart4 :
    launchAndPassStart4_s.sound ∧ 0 < 8 ∧ (launchAndPassStart4_s.part 0).step = some launchAndPassStart4_x
    ∧ launchAndPassStart4_s.passDue 0 launchAndPassStart4_x launchAndPassStart4_x.nextLayer = true
    ∧ ((launchAndPassStart4_s.handleAddrs 0 launchAndPassStart4_x launchAndPassStart4_x.nextLayer).all fun a => (launchAndPassStart4_s.tr 0 a 8 2).isSome) = true := ⟨sound_up rfl (by decide +kernel), by decide +kernel⟩
/-- PressCompletes, clause 1. -/
theorem test_press1 :
    press1_s.sound ∧ 0 < 8 ∧ press1_s.job 0 = some (press1_ref, press1_j) ∧ 0 ∉ press1_j.pass.blocks
    ∧ blockToks press1_j.pass 0 ≠ [] ∧ press1_s.mayIssue 0 = true
    ∧ press1_s.rowsAwaited 0 press1_ref press1_j.pass (blockToks press1_j.pass 0) = false
    ∧ press1_s.jobHeld press1_ref = false
    ∧ (0 < 2 ∨ (blockToks press1_j.pass (0 - 2)).all (press1_s.rowOver press1_ref press1_j) = true)
    ∧ press1_ref = JobRef.step 0 ∧ press1_s.pass 0 0 = some press1_j.pass := ⟨sound_up rfl (by decide +kernel), by decide +kernel⟩
/-- PressCompletes, clause 2. -/
theorem test_press2 :
    press2_s.sound ∧ 0 < 8 ∧ press2_s.job 0 = some (press2_ref, wJob) ∧ 0 ∉ wJob.pass.blocks
    ∧ blockToks wJob.pass 0 ≠ [] ∧ press2_s.mayIssue 0 = true
    ∧ press2_s.rowsAwaited 0 press2_ref wJob.pass (blockToks wJob.pass 0) = false
    ∧ press2_s.jobHeld press2_ref = false
    ∧ (0 < 2 ∨ (blockToks wJob.pass (0 - 2)).all (press2_s.rowOver press2_ref wJob) = true)
    ∧ press2_ref = JobRef.batch 1 ∧ 1 < 64 ∧ (press2_s.group 1).cur = some press2_c ∧ press2_c.job = some wJob := ⟨sound_up rfl (by decide +kernel), by decide +kernel⟩
/-- PressCompletes, clause 3. -/
theorem test_press3 :
    (∀ u ∈ press3_units, u ≠ []) ∧ press3_r ∈ planBlock 0 press1_ref press3_j 0 false press3_units := by decide +kernel
/-- PressCompletes, clause 4. -/
theorem test_press4 :
    press4_s.sound ∧ 0 < 8 ∧ press4_s.job 0 = some (press1_ref, press3_j)
    ∧ firstFor (press4_s.openRuns press1_ref (press4_s.planned 0 press1_ref press3_j)) 0 = some press3_r
    ∧ (0, 0) ∈ press3_r.span
    ∧ press4_s.runReady 0 press3_j (press4_s.openRuns press1_ref (press4_s.planned 0 press1_ref press3_j)) press3_r = true := ⟨sound_up rfl (by decide +kernel), by decide +kernel⟩
/-- PressCompletes, clause 8. -/
theorem test_press8 :
    31 < press8_s.press.buckets.length
    ∧ press8_s.leakDue (keyArray 31) 2097152 (press8_s.press.buckets.getD 31 0) = true := by decide +kernel
/-- SelectionCompletes, clause 1. -/
theorem test_selection1 :
    selection1_s.sound ∧ 0 < 8 ∧ selection1_s.jobTok 0 0 = some (press1_ref, selection1_j, selection1_u)
    ∧ selection1_s.jobHeld press1_ref = false ∧ selection1_s.mayIssue 0 = true ∧ fld selection1_j.pr 0 1 = 0
    ∧ 0 < scoreTiles selection1_j.e ∧ tileDrained selection1_j.pr selection1_j.e selection1_u 0 = true
    ∧ (∀ x ∈ selection1_u.tiles, x.tile = 0 → x.pair = none) := ⟨sound_up rfl (by decide +kernel), by decide +kernel⟩
/-- SelectionCompletes, clause 2. -/
theorem test_selection2 :
    selection2_s.sound ∧ 0 < 8 ∧ selection2_s.jobTok 0 0 = some (press1_ref, selection2_j, selection2_u)
    ∧ selection2_s.jobHeld press1_ref = false ∧ selection2_s.mayIssue 0 = true
    ∧ ((List.find? (fun x => x.tile == selection2_u.nextTile) selection2_u.tiles).bind fun x => x.pair) = some selection2_pr := ⟨sound_up rfl (by decide +kernel), by decide +kernel⟩
/-- SelectionCompletes, clause 3. -/
theorem test_selection3 :
    selection3_s.sound ∧ 0 < 8 ∧ selection3_s.curTok 0 0 = some (selection3_q, selection3_u)
    ∧ selection3_s.pass 0 selection3_q.layer = some selection3_q ∧ selection3_u.selected = false
    ∧ selection3_s.mayIssue 0 = true
    ∧ (List.range (scoreTiles (selection3_s.layerEnt 0 selection3_q.layer))).all (tileDrained (selection3_s.profEnt 0 selection3_q.layer) (selection3_s.layerEnt 0 selection3_q.layer) selection3_u) = true
    ∧ selection3_u.nextTile = scoreTiles (selection3_s.layerEnt 0 selection3_q.layer) := ⟨sound_up rfl (by decide +kernel), by decide +kernel⟩
/-- SelectionCompletes, clause 4. -/
theorem test_selection4 :
    selection4_s.sound ∧ 0 < 8 ∧ selection4_s.curPass 0 = some selection4_q
    ∧ selection4_s.pass 0 selection4_q.layer = some selection4_q ∧ selection4_s.mayIssue 0 = true
    ∧ selection4_q.toks ≠ [] ∧ (∀ u ∈ selection4_q.toks, u.selected = true ∨ u.whole = true)
    ∧ (selection4_s.ticketCells 0 selection4_q.layer (admitPass selection4_s.member (selection4_s.profEnt 0 selection4_q.layer) (selection4_s.mapEnt 0 selection4_q.layer) selection4_q.toks).tickets).isSome = true := ⟨sound_up rfl (by decide +kernel), by decide +kernel⟩
/-- SelectionCompletes, clause 5. -/
theorem test_selection5 :
    selection5_s.sound ∧ 0 < 8 ∧ selection5_s.curPass 0 = some selection5_q
    ∧ selection5_s.pass 0 selection5_q.layer = some selection5_q ∧ selection5_s.mayIssue 0 = true
    ∧ selection5_q.toks ≠ [] ∧ (∀ u ∈ selection5_q.toks, u.selected = true ∨ u.whole = true)
    ∧ selection5_s.ticketCells 0 selection5_q.layer (admitPass selection5_s.member (selection5_s.profEnt 0 selection5_q.layer) (selection5_s.mapEnt 0 selection5_q.layer) selection5_q.toks).tickets = none := ⟨sound_up rfl (by decide +kernel), by decide +kernel⟩
/-- MicroStepsComplete, clause 1. -/
theorem test_microSteps1 :
    microSteps1_s.sound ∧ 0 < 8 ∧ (microSteps1_s.part 0).step = some microSteps1_x
    ∧ microSteps1_s.pass 0 0 = some microSteps1_q ∧ microSteps1_x.launched = true ∧ microSteps1_x.tornBy = none
    ∧ microSteps1_q.ended = false ∧ microSteps1_q.admitted = true ∧ microSteps1_q.srcDone = false
    ∧ (microOf microSteps1_q microSteps1_q.lastMicro).sorted = false ∧ selfOut microSteps1_x 0 = false
    ∧ microSteps1_s.sorterOpen 0 = true ∧ microSteps1_s.mayIssue 0 = true
    ∧ (((microSteps1_s.charge 13 (List.filter (fun k => k.micro == microSteps1_q.lastMicro && k.st == 1) microSteps1_q.tickets).length).loseGone 0 0 microSteps1_q.lastMicro).ownTally 0 0 microSteps1_q.lastMicro (microSteps1_s.xCfg 0 0)).isSome = true := ⟨sound_up rfl (by decide +kernel), by decide +kernel⟩
/-- MicroStepsComplete, clause 2. -/
theorem test_microSteps2 :
    microSteps2_s.sound ∧ 0 < 8 ∧ microSteps2_s.xLive 0 0 = some (microSteps2_x, microSteps2_q)
    ∧ microSteps2_s.pass 0 0 = some microSteps2_q ∧ microSteps2_q.admitted = true ∧ microSteps2_q.srcDone = false
    ∧ (microOf microSteps2_q microSteps2_q.lastMicro).sorted = true
    ∧ (∀ o ∈ (microOf microSteps2_q microSteps2_q.lastMicro).out, o.2 ≠ 0) ∧ selfOut microSteps2_x 0 = false
    ∧ (microOf microSteps2_q microSteps2_q.lastMicro).acked = true
    ∧ (∃ k ∈ microSteps2_q.tickets, k.st = 2 ∨ k.st = 3) ∧ microSteps2_q.lastMicro + 1 < microSteps2_s.microMax 0 0
    ∧ microSteps2_s.stitch.count ≤ microSteps2_q.start + fld (microSteps2_s.profEnt 0 0) 20 2 := ⟨sound_up rfl (by decide +kernel), by decide +kernel⟩
/-- MicroStepsComplete, clause 3. -/
theorem test_microSteps3 :
    microSteps3_s.sound ∧ 0 < 8 ∧ microSteps3_s.xLive 0 0 = some (microSteps3_x, microSteps3_q)
    ∧ microSteps3_s.pass 0 0 = some microSteps3_q ∧ microSteps3_q.admitted = true ∧ microSteps3_q.srcDone = false
    ∧ (microOf microSteps3_q microSteps3_q.lastMicro).sorted = true
    ∧ (∀ o ∈ (microOf microSteps3_q microSteps3_q.lastMicro).out, o.2 ≠ 0) ∧ selfOut microSteps3_x 0 = false
    ∧ (microOf microSteps3_q microSteps3_q.lastMicro).acked = true
    ∧ (∀ k ∈ microSteps3_q.tickets, k.st ≠ 2 ∧ k.st ≠ 3) := ⟨sound_up rfl (by decide +kernel), by decide +kernel⟩
/-- RosterAndFinalComplete, clause 1. -/
theorem test_rosterAndFinal1 :
    rosterAndFinal1_s.sound ∧ due rosterAndFinal1_s rosterAndFinal1_m 11 ∧ rosterAndFinal1_m.owner < 8
    ∧ (rosterAndFinal1_s.part rosterAndFinal1_m.owner).step = some rosterAndFinal1_x
    ∧ rosterAndFinal1_x.launched = true ∧ rosterAndFinal1_x.tornBy = none
    ∧ rosterAndFinal1_x.stepNo = fld rosterAndFinal1_m.body 0 8
    ∧ (∀ r ∈ rosterAndFinal1_x.rosters, r.1 ≠ fld rosterAndFinal1_m.body 10 2)
    ∧ rosterAndFinal1_s.isDead (fld rosterAndFinal1_m.body 10 2) = false
    ∧ rosterAndFinal1_m.src / 32 = rosterAndFinal1_s.pod ∧ List.length rosterAndFinal1_m.body = 16
    ∧ rsv rosterAndFinal1_m.body 12 4 = true ∧ fld rosterAndFinal1_m.body 9 1 ≤ 1
    ∧ fld rosterAndFinal1_m.body 8 1 = rosterAndFinal1_x.group
    ∧ fld rosterAndFinal1_m.body 10 2 ∈ rosterAndFinal1_s.members rosterAndFinal1_x.group := ⟨sound_up rfl (by decide +kernel), ⟨by decide +kernel, by decide +kernel⟩, by decide +kernel⟩
/-- RosterAndFinalComplete, clause 2. -/
theorem test_rosterAndFinal2 :
    rosterAndFinal2_s.sound ∧ 0 < 8 ∧ (rosterAndFinal2_s.part 0).step = some rosterAndFinal2_x
    ∧ rosterAndFinal2_x.launched = true ∧ rosterAndFinal2_x.aset = none
    ∧ (∀ a ∈ rosterAndFinal2_s.members rosterAndFinal2_x.group, a ≠ rosterAndFinal2_s.member → (∃ r ∈ rosterAndFinal2_x.rosters, r.1 = a) ∨ rosterAndFinal2_s.isDead a = true) := ⟨sound_up rfl (by decide +kernel), by decide +kernel⟩
/-- RosterAndFinalComplete, clause 3. -/
theorem test_rosterAndFinal3 :
    due rosterAndFinal3_s rosterAndFinal3_m 10
    ∧ meets rosterAndFinal3_s rosterAndFinal3_m.owner (fld rosterAndFinal3_m.body 0 8) (fld rosterAndFinal3_m.body 8 2) rosterAndFinal1_x rosterAndFinal3_q
    ∧ rosterAndFinal1_x.tornBy = none ∧ rosterAndFinal3_m.src / 32 = rosterAndFinal3_s.pod
    ∧ List.length rosterAndFinal3_m.body = 16 ∧ rsv rosterAndFinal3_m.body 11 1 = true
    ∧ rsv rosterAndFinal3_m.body 14 2 = true ∧ fld rosterAndFinal3_m.body 12 2 < 512
    ∧ rosterAndFinal3_s.maySpeak rosterAndFinal1_x rosterAndFinal3_q (rosterAndFinal3_s.xCfg rosterAndFinal3_m.owner (fld rosterAndFinal3_m.body 8 2)) (fld rosterAndFinal3_m.body 12 2) (fld rosterAndFinal3_m.body 10 1) = true
    ∧ rxOf (microOf rosterAndFinal3_q (fld rosterAndFinal3_m.body 10 1)) (fld rosterAndFinal3_m.body 12 2) = none := ⟨⟨by decide +kernel, by decide +kernel⟩, ⟨sound_up rfl (by decide +kernel), by decide +kernel⟩, by decide +kernel⟩
/-- TalliesComplete, clause 1. -/
theorem test_tallies1 :
    due tallies1_s wTally 1
    ∧ meets tallies1_s wTally.owner (parseHdr wTally.body).stepNo (parseHdr wTally.body).layer rosterAndFinal1_x rosterAndFinal3_q
    ∧ tallies1_s.maySpeak rosterAndFinal1_x rosterAndFinal3_q (tallies1_s.xCfg wTally.owner (parseHdr wTally.body).layer) (parseHdr wTally.body).src (parseHdr wTally.body).micro = true
    ∧ rxOf (microOf rosterAndFinal3_q (parseHdr wTally.body).micro) (parseHdr wTally.body).src = none
    ∧ tallyLayout wTally.body false = true ∧ (parseHdr wTally.body).dst = tallies1_s.member
    ∧ (tallyContent wTally.body (parseEntries wTally.body (tallies1_s.xCfg wTally.owner (parseHdr wTally.body).layer).home) fun e => e.dest == tallies1_s.member) = true
    ∧ rosterAndFinal1_x.tornBy = none
    ∧ (tallies1_s.takeTally wTally.owner (parseHdr wTally.body).layer (parseHdr wTally.body).micro (tallies1_s.xCfg wTally.owner (parseHdr wTally.body).layer) (parseHdr wTally.body).src wTally.src (parseEntries wTally.body (tallies1_s.xCfg wTally.owner (parseHdr wTally.body).layer).home)).isSome = true := ⟨⟨by decide +kernel, by decide +kernel⟩, ⟨sound_up rfl (by decide +kernel), by decide +kernel⟩, by decide +kernel⟩
/-- TalliesComplete, clause 2. -/
theorem test_tallies2 :
    due tallies2_s tallies2_m 1
    ∧ meets tallies2_s tallies2_m.owner (parseHdr tallies2_m.body).stepNo (parseHdr tallies2_m.body).layer rosterAndFinal1_x rosterAndFinal3_q
    ∧ tallies2_s.maySpeak rosterAndFinal1_x rosterAndFinal3_q (tallies2_s.xCfg tallies2_m.owner (parseHdr tallies2_m.body).layer) (parseHdr tallies2_m.body).src (parseHdr tallies2_m.body).micro = true
    ∧ rxOf (microOf rosterAndFinal3_q (parseHdr tallies2_m.body).micro) (parseHdr tallies2_m.body).src = none
    ∧ tallyLayout tallies2_m.body false = false ∧ tallies2_s.powered rXCH_CORRUPT_CNT = true := ⟨⟨by decide +kernel, by decide +kernel⟩, ⟨sound_up rfl (by decide +kernel), by decide +kernel⟩, by decide +kernel⟩
/-- TalliesComplete, clause 3. -/
theorem test_tallies3 :
    due tallies3_s wGwTally 4
    ∧ meets tallies3_s wGwTally.owner (parseHdr wGwTally.body).stepNo (parseHdr wGwTally.body).layer rosterAndFinal1_x rosterAndFinal3_q
    ∧ tallies3_s.maySpeak rosterAndFinal1_x rosterAndFinal3_q (tallies3_s.xCfg wGwTally.owner (parseHdr wGwTally.body).layer) (parseHdr wGwTally.body).src (parseHdr wGwTally.body).micro = true
    ∧ fanOf (microOf rosterAndFinal3_q (parseHdr wGwTally.body).micro) (parseHdr wGwTally.body).src = none
    ∧ tallyLayout wGwTally.body true = true ∧ (parseHdr wGwTally.body).dst = tallies3_s.member
    ∧ (tallyContent wGwTally.body (parseEntries wGwTally.body (tallies3_s.xCfg wGwTally.owner (parseHdr wGwTally.body).layer).home) fun e => decide (e.dest / 32 = tallies3_s.pod)) = true
    ∧ (tallies3_s.fanTally wGwTally.owner (parseHdr wGwTally.body).layer (parseHdr wGwTally.body).micro rosterAndFinal1_x (tallies3_s.xCfg wGwTally.owner (parseHdr wGwTally.body).layer) (parseHdr wGwTally.body).src (parseHdr wGwTally.body).flags (parseEntries wGwTally.body (tallies3_s.xCfg wGwTally.owner (parseHdr wGwTally.body).layer).home)).isSome = true := ⟨⟨by decide +kernel, by decide +kernel⟩, ⟨sound_up rfl (by decide +kernel), by decide +kernel⟩, by decide +kernel⟩
/-- TalliesComplete, clause 4. -/
theorem test_tallies4 :
    tallies4_s.sound ∧ due tallies4_s wTally 1
    ∧ tallies4_s.xWhen wTally.owner (parseHdr wTally.body).stepNo (parseHdr wTally.body).layer = 1
    ∧ tallies4_s.powered rXCH_STALE_CNT = true := ⟨sound_up rfl (by decide +kernel), ⟨by decide +kernel, by decide +kernel⟩, by decide +kernel⟩
/-- GrantsComplete, clause 1. -/
theorem test_grants1 :
    grants1_s.sound ∧ 0 < 8 ∧ grants1_s.xLive 0 0 = some (grants1_x, grants1_q) ∧ grants1_s.pass 0 0 = some grants1_q
    ∧ 0 < (grants1_s.xCfg 0 0).most ∧ (microOf grants1_q 0).tallyIn = false
    ∧ (0 = 0 ∨ (microOf grants1_q (0 - 1)).tallyIn = true) ∧ sourcesAt grants1_x grants1_q grants1_s.member 0 ≠ []
    ∧ (∀ a ∈ sourcesAt grants1_x grants1_q grants1_s.member 0, (rxOf (microOf grants1_q 0) a).isSome = true) := ⟨sound_up rfl (by decide +kernel), by decide +kernel⟩
/-- GrantsComplete, clause 2. -/
theorem test_grants2 :
    due grants2_s grants2_m 3
    ∧ meets grants2_s grants2_m.owner (fld grants2_m.body 8 8) (fld grants2_m.body 4 2) grants2_x grants2_q
    ∧ List.length grants2_m.body = 32 ∧ rsv grants2_m.body 7 1 = true ∧ rsv grants2_m.body 24 8 = true
    ∧ fld grants2_m.body 2 2 = grants2_s.member ∧ grants2_x.tornBy = none
    ∧ (microOf grants2_q (fld grants2_m.body 6 1)).sorted = true
    ∧ outOf (microOf grants2_q (fld grants2_m.body 6 1)) (fld grants2_m.body 0 2) = 0
    ∧ fld grants2_m.body 16 4 + fld grants2_m.body 20 4 = (bound grants2_q (fld grants2_m.body 6 1) (fld grants2_m.body 0 2)).length := ⟨⟨by decide +kernel, by decide +kernel⟩, ⟨sound_up rfl (by decide +kernel), by decide +kernel⟩, by decide +kernel⟩
/-- GrantsComplete, clause 3. -/
theorem test_grants3 :
    due grants3_s grants3_m 6
    ∧ meets grants3_s grants3_m.owner (fld grants3_m.body 8 8) (fld grants3_m.body 4 2) grants3_x grants3_q
    ∧ List.length grants3_m.body = 32 + 8 * fld grants3_m.body 16 2 ∧ rsv grants3_m.body 7 1 = true
    ∧ rsv grants3_m.body 18 14 = true ∧ (∀ i < fld grants3_m.body 16 2, fld grants3_m.body (34 + 8 * i) 2 < 2)
    ∧ fld grants3_m.body 2 2 = grants3_s.member ∧ grants3_x.tornBy = none
    ∧ (microOf grants3_q (fld grants3_m.body 6 1)).sorted = true
    ∧ outOf (microOf grants3_q (fld grants3_m.body 6 1)) (fld grants3_m.body 0 2) = 0
    ∧ (∀ e ∈ gwEntries grants3_m.body, e.1 / 32 = fld grants3_m.body 0 2 / 32 ∧ (e.2.2 = true → e.2.1 = 0) ∧ ∃ n, Option.map (fun x => x.2) (List.find? (fun d => d.1 == e.1) (microOf grants3_q (fld grants3_m.body 6 1)).listed) = some n ∧ 0 < n ∧ e.2.1 ≤ n) := ⟨⟨by decide +kernel, by decide +kernel⟩, ⟨sound_up rfl (by decide +kernel), by decide +kernel⟩, by decide +kernel⟩
/-- GrantsComplete, clause 4. -/
theorem test_grants4 :
    grants4_s.sound ∧ 0 < 8 ∧ (grants4_s.part 0).step = some grants4_x ∧ grants4_s.pass 0 0 = some grants4_q
    ∧ fanOf (microOf grants4_q 0) 32 = some grants4_f ∧ (∃ y ∈ grants4_q.micros, y.m = 0)
    ∧ (grants4_s.xCfg 0 0).elastic = true ∧ grants4_f.dead = false ∧ grants4_f.sentGrant = false
    ∧ fanDests grants4_f ≠ [] ∧ (∀ d ∈ fanDests grants4_f, (fanAnswer grants4_x 0 grants4_f d).isSome = true) := ⟨sound_up rfl (by decide +kernel), by decide +kernel⟩
/-- PilesComplete, clause 1. -/
theorem test_piles1 :
    due piles1_s wPile 2
    ∧ meets piles1_s wPile.owner (parseHdr wPile.body).stepNo (parseHdr wPile.body).layer piles1_x piles1_q
    ∧ rxOf (microOf piles1_q (parseHdr wPile.body).micro) (parseHdr wPile.body).src = some wOwed
    ∧ piles1_x.tornBy = none ∧ wOwed.state = 0
    ∧ piles1_s.maySpeak piles1_x piles1_q (piles1_s.xCfg wPile.owner (parseHdr wPile.body).layer) (parseHdr wPile.body).src (parseHdr wPile.body).micro = true
    ∧ (parseHdr wPile.body).dst = piles1_s.member
    ∧ pileLayout wPile.body false (piles1_s.xCfg wPile.owner (parseHdr wPile.body).layer).plen = true
    ∧ (parseHdr wPile.body).tickets ≤ wOwed.tickets ∧ (parseHdr wPile.body).rows = (parseHdr wPile.body).tickets
    ∧ rowsAscend (parsePile wPile.body (piles1_s.xCfg wPile.owner (parseHdr wPile.body).layer).plen) = true
    ∧ (∀ w ∈ parsePile wPile.body (piles1_s.xCfg wPile.owner (parseHdr wPile.body).layer).plen, ∃ k ∈ wOwed.entries, k.expert = w.expert)
    ∧ (parsePile wPile.body (piles1_s.xCfg wPile.owner (parseHdr wPile.body).layer).plen = [] ∨ (microOf piles1_q (parseHdr wPile.body).micro).ranAll = true) := ⟨⟨by decide +kernel, by decide +kernel⟩, ⟨sound_up rfl (by decide +kernel), by decide +kernel⟩, by decide +kernel⟩
/-- PilesComplete, clause 2. -/
theorem test_piles2 :
    due piles2_s wPile 2
    ∧ meets piles2_s wPile.owner (parseHdr wPile.body).stepNo (parseHdr wPile.body).layer piles2_x piles2_q
    ∧ rxOf (microOf piles2_q (parseHdr wPile.body).micro) (parseHdr wPile.body).src = some wOwed
    ∧ piles2_x.tornBy = none ∧ wOwed.state = 0
    ∧ piles2_s.maySpeak piles2_x piles2_q (piles2_s.xCfg wPile.owner (parseHdr wPile.body).layer) (parseHdr wPile.body).src (parseHdr wPile.body).micro = true
    ∧ (parseHdr wPile.body).dst = piles2_s.member
    ∧ pileLayout wPile.body false (piles2_s.xCfg wPile.owner (parseHdr wPile.body).layer).plen = true
    ∧ (parseHdr wPile.body).tickets ≤ wOwed.tickets ∧ (parseHdr wPile.body).rows = (parseHdr wPile.body).tickets
    ∧ rowsAscend (parsePile wPile.body (piles2_s.xCfg wPile.owner (parseHdr wPile.body).layer).plen) = true
    ∧ (∀ w ∈ parsePile wPile.body (piles2_s.xCfg wPile.owner (parseHdr wPile.body).layer).plen, ∃ k ∈ wOwed.entries, k.expert = w.expert)
    ∧ parsePile wPile.body (piles2_s.xCfg wPile.owner (parseHdr wPile.body).layer).plen ≠ []
    ∧ (microOf piles2_q (parseHdr wPile.body).micro).ranAll = false := ⟨⟨by decide +kernel, by decide +kernel⟩, ⟨sound_up rfl (by decide +kernel), by decide +kernel⟩, by decide +kernel⟩
/-- PilesComplete, clause 3. -/
theorem test_piles3 :
    due piles3_s wGwPile 5
    ∧ meets piles3_s wGwPile.owner (parseHdr wGwPile.body).stepNo (parseHdr wGwPile.body).layer piles3_x piles3_q
    ∧ fanOf (microOf piles3_q (parseHdr wGwPile.body).micro) (parseHdr wGwPile.body).src = some piles3_f
    ∧ piles3_f.dead = false ∧ piles3_f.piled = false ∧ (parseHdr wGwPile.body).src ∈ piles3_x.aset.getD []
    ∧ goneFrom piles3_x (parseHdr wGwPile.body).src (parseHdr wGwPile.body).layer false = false
    ∧ (parseHdr wGwPile.body).dst = piles3_s.member
    ∧ parseGwPile wGwPile.body (piles3_s.xCfg wGwPile.owner (parseHdr wGwPile.body).layer).plen = some piles3_rs
    ∧ (gwContent piles3_rs fun e d => decide (d / 32 = piles3_s.pod) && (replicasOf (piles3_s.xCfg wGwPile.owner (parseHdr wGwPile.body).layer).mp e).contains d && decide (e < (piles3_s.xCfg wGwPile.owner (parseHdr wGwPile.body).layer).experts)) = true
    ∧ (((((piles3_s.claim wGwPile).2.onFan wGwPile.owner (parseHdr wGwPile.body).layer (parseHdr wGwPile.body).micro (parseHdr wGwPile.body).src fun f => { f with cells := f.cells ++ (piles3_s.claim wGwPile).1 }).transitRows wGwPile.owner (parseHdr wGwPile.body).layer (parseHdr wGwPile.body).micro (parseHdr wGwPile.body).src (piles3_s.xCfg wGwPile.owner (parseHdr wGwPile.body).layer).plen (List.drop (piles3_f.cells ++ (piles3_s.claim wGwPile).1).length piles3_rs)).pass wGwPile.owner (parseHdr wGwPile.body).layer).bind fun r => fanOf (microOf r (parseHdr wGwPile.body).micro) (parseHdr wGwPile.body).src) = some piles3_g
    ∧ piles3_rs.length ≤ piles3_g.cells.length := ⟨⟨by decide +kernel, by decide +kernel⟩, ⟨sound_up rfl (by decide +kernel), by decide +kernel⟩, by decide +kernel⟩
/-- PilesComplete, clause 4. -/
theorem test_piles4 :
    due piles4_s wGwPile 5
    ∧ meets piles4_s wGwPile.owner (parseHdr wGwPile.body).stepNo (parseHdr wGwPile.body).layer piles3_x piles3_q
    ∧ fanOf (microOf piles3_q (parseHdr wGwPile.body).micro) (parseHdr wGwPile.body).src = some piles3_f
    ∧ piles3_f.dead = false ∧ piles3_f.piled = false ∧ (parseHdr wGwPile.body).src ∈ piles3_x.aset.getD []
    ∧ goneFrom piles3_x (parseHdr wGwPile.body).src (parseHdr wGwPile.body).layer false = false
    ∧ (parseHdr wGwPile.body).dst = piles4_s.member
    ∧ parseGwPile wGwPile.body (piles4_s.xCfg wGwPile.owner (parseHdr wGwPile.body).layer).plen = some piles3_rs
    ∧ (gwContent piles3_rs fun e d => decide (d / 32 = piles4_s.pod) && (replicasOf (piles4_s.xCfg wGwPile.owner (parseHdr wGwPile.body).layer).mp e).contains d && decide (e < (piles4_s.xCfg wGwPile.owner (parseHdr wGwPile.body).layer).experts)) = true
    ∧ (((((piles4_s.claim wGwPile).2.onFan wGwPile.owner (parseHdr wGwPile.body).layer (parseHdr wGwPile.body).micro (parseHdr wGwPile.body).src fun f => { f with cells := f.cells ++ (piles4_s.claim wGwPile).1 }).transitRows wGwPile.owner (parseHdr wGwPile.body).layer (parseHdr wGwPile.body).micro (parseHdr wGwPile.body).src (piles4_s.xCfg wGwPile.owner (parseHdr wGwPile.body).layer).plen (List.drop (piles3_f.cells ++ (piles4_s.claim wGwPile).1).length piles3_rs)).pass wGwPile.owner (parseHdr wGwPile.body).layer).bind fun r => fanOf (microOf r (parseHdr wGwPile.body).micro) (parseHdr wGwPile.body).src) = some piles3_f
    ∧ piles3_f.cells.length < piles3_rs.length := ⟨⟨by decide +kernel, by decide +kernel⟩, ⟨sound_up rfl (by decide +kernel), by decide +kernel⟩, by decide +kernel⟩
/-- PilesComplete, clause 5. -/
theorem test_piles5 :
    piles5_s.sound ∧ 0 < 8 ∧ piles5_s.xLive 0 0 = some (piles5_x, piles5_q) ∧ piles5_s.pass 0 0 = some piles5_q
    ∧ (microOf piles5_q 0).runs = [] ∧ piles5_s.runSizes 0 0 piles5_x piles5_q (microOf piles5_q 0) = some [(0, 0, 1)]
    ∧ (piles5_s.runFromReserved (piles5_s.xCfg 0 0).owner (1 * (piles5_s.xCfg 0 0).cells) (some (0, 0))).isSome = true := ⟨sound_up rfl (by decide +kernel), by decide +kernel⟩
/-- PilesComplete, clause 6. -/
theorem test_piles6 :
    piles6_s.sound ∧ 0 < 8 ∧ piles6_s.xLive 0 0 = some (piles6_x, piles6_q) ∧ piles6_s.pass 0 0 = some piles6_q
    ∧ pilesIn piles6_x piles6_q (microOf piles6_q 0) piles6_s.member = true
    ∧ piles6_s.entriesOf 0 0 (microOf piles6_q 0) = [] := ⟨sound_up rfl (by decide +kernel), by decide +kernel⟩
/-- PilesComplete, clause 7. -/
theorem test_piles7 :
    piles7_s.sound ∧ 0 < 8 ∧ piles7_s.xLive 0 0 = some (piles6_x, piles6_q) ∧ piles7_s.pass 0 0 = some piles6_q
    ∧ pilesIn piles6_x piles6_q (microOf piles6_q 0) piles7_s.member = true
    ∧ piles7_s.entriesOf 0 0 (microOf piles6_q 0) ≠ []
    ∧ (∀ i < (List.map (fun e => (e.1, e.2.1)) (filled (piles7_s.entriesOf 0 0 (microOf piles6_q 0)))).length, (runOf (microOf piles6_q 0) ((List.map (fun e => (e.1, e.2.1)) (filled (piles7_s.entriesOf 0 0 (microOf piles6_q 0)))).getD i (0, 0)).1 ((List.map (fun e => (e.1, e.2.1)) (filled (piles7_s.entriesOf 0 0 (microOf piles6_q 0)))).getD i (0, 0)).2 (chunkNo (List.map (fun e => (e.1, e.2.1)) (filled (piles7_s.entriesOf 0 0 (microOf piles6_q 0)))) i)).isSome = true)
    ∧ (microOf piles6_q 0).tabRuns.length + (piles7_s.allocRuns (piles7_s.xCfg 0 0).owner (some (0, 0)) (List.drop (microOf piles6_q 0).tabRuns.length (tableCells (piles7_s.entriesOf 0 0 (microOf piles6_q 0)).length :: List.map (fun e => e.2.2.length * outCells (piles7_s.xCfg 0 0).k) (filled (piles7_s.entriesOf 0 0 (microOf piles6_q 0)))))).1.length = (tableCells (piles7_s.entriesOf 0 0 (microOf piles6_q 0)).length :: List.map (fun e => e.2.2.length * outCells (piles7_s.xCfg 0 0).k) (filled (piles7_s.entriesOf 0 0 (microOf piles6_q 0)))).length := ⟨sound_up rfl (by decide +kernel), by decide +kernel⟩
/-- PilesComplete, clause 8. -/
theorem test_piles8 :
    piles8_s.sound ∧ 0 < 8 ∧ piles8_s.xLive 0 0 = some (piles6_x, piles6_q) ∧ piles8_s.pass 0 0 = some piles6_q
    ∧ pilesIn piles6_x piles6_q (microOf piles6_q 0) piles8_s.member = true
    ∧ piles8_s.entriesOf 0 0 (microOf piles6_q 0) ≠ []
    ∧ (∀ i < (List.map (fun e => (e.1, e.2.1)) (filled (piles8_s.entriesOf 0 0 (microOf piles6_q 0)))).length, (runOf (microOf piles6_q 0) ((List.map (fun e => (e.1, e.2.1)) (filled (piles8_s.entriesOf 0 0 (microOf piles6_q 0)))).getD i (0, 0)).1 ((List.map (fun e => (e.1, e.2.1)) (filled (piles8_s.entriesOf 0 0 (microOf piles6_q 0)))).getD i (0, 0)).2 (chunkNo (List.map (fun e => (e.1, e.2.1)) (filled (piles8_s.entriesOf 0 0 (microOf piles6_q 0)))) i)).isSome = true)
    ∧ (microOf piles6_q 0).tabRuns.length + (piles8_s.allocRuns (piles8_s.xCfg 0 0).owner (some (0, 0)) (List.drop (microOf piles6_q 0).tabRuns.length (tableCells (piles8_s.entriesOf 0 0 (microOf piles6_q 0)).length :: List.map (fun e => e.2.2.length * outCells (piles8_s.xCfg 0 0).k) (filled (piles8_s.entriesOf 0 0 (microOf piles6_q 0)))))).1.length < (tableCells (piles8_s.entriesOf 0 0 (microOf piles6_q 0)).length :: List.map (fun e => e.2.2.length * outCells (piles8_s.xCfg 0 0).k) (filled (piles8_s.entriesOf 0 0 (microOf piles6_q 0)))).length := ⟨sound_up rfl (by decide +kernel), by decide +kernel⟩
/-- ReturnsComplete, clause 1. -/
theorem test_returns1 :
    wLoad.sound ∧ wLoad.running = true := ⟨sound_up rfl (by decide +kernel), by decide +kernel⟩
/-- ReturnsComplete, clause 2. -/
theorem test_returns2 :
    returns2_s.boot.rstLow = false ∧ 9 ≤ returns2_s.boot.state ∧ returns2_s.boot.state ≤ 11 := by decide +kernel
/-- ReturnsComplete, clause 3. -/
theorem test_returns3 :
    wLoad.sound ∧ (∀ w ∈ wLoad.tabs, w.tag ≠ fld returns3_data 0 4) ∧ wLoad.powered rENG_CMPL_IGN_CNT = true := ⟨sound_up rfl (by decide +kernel), by decide +kernel⟩
/-- ReturnsComplete, clauses 4, 5. -/
theorem test_returns4 :
    returns4_s.sound ∧ (∀ w ∈ returns4_s.tabs, w.tag ≠ fld returns4_data 0 4)
    ∧ returns4_s.powered rENG_CMPL_IGN_CNT = true := ⟨sound_up rfl (by decide +kernel), by decide +kernel⟩
/-- ReturnsComplete, clause 6. -/
theorem test_returns6 :
    rowTabbed.sound ∧ rowTabbed.tabs = [wRowTab] ∧ wRowTab.tag = fld returns3_data 0 4 ∧ wRowTab.engq = 2
    ∧ wRowTab.notified = true ∧ wRowTab.answered = false ∧ fld returns3_data 4 1 = 0 ∧ fld returns3_data 5 3 = 0
    ∧ returns6_v ∈ (rowTabbed.applyCompletion 2 returns3_data).tabs ∧ returns6_v.tag = wRowTab.tag := ⟨sound_up rfl (by decide +kernel), by decide +kernel⟩
/-- ReturnsComplete, clause 7. -/
theorem test_returns7 :
    due returns7_s returns7_m 7
    ∧ meets returns7_s returns7_m.owner (parseHdr returns7_m.body).stepNo (parseHdr returns7_m.body).layer returns7_x returns7_q
    ∧ (parseHdr returns7_m.body).src = returns7_s.member ∧ returns7_x.tornBy = none
    ∧ (parseHdr returns7_m.body).dst ∉ (microOf returns7_q (parseHdr returns7_m.body).micro).retRx
    ∧ (parseHdr returns7_m.body).dst ∉ (microOf returns7_q (parseHdr returns7_m.body).micro).voidRx
    ∧ returns7_s.isDead (parseHdr returns7_m.body).dst = false
    ∧ listOrder (List.filter (fun t => t.micro == (parseHdr returns7_m.body).micro && t.dest == (parseHdr returns7_m.body).dst && t.st == 4) returns7_q.tickets) ≠ []
    ∧ pileLayout returns7_m.body true (2 * (returns7_s.xCfg returns7_m.owner (parseHdr returns7_m.body).layer).k) = true
    ∧ List.map (fun w => (w.stream, w.pos, w.expert, w.rank)) (parsePile returns7_m.body (2 * (returns7_s.xCfg returns7_m.owner (parseHdr returns7_m.body).layer).k)) = List.map (fun t => (t.stream, t.pos, t.expert, t.rank)) (listOrder (List.filter (fun t => t.micro == (parseHdr returns7_m.body).micro && t.dest == (parseHdr returns7_m.body).dst && t.st == 4) returns7_q.tickets))
    ∧ ((returns7_s.claim returns7_m).2.storeReturns returns7_m.owner (parseHdr returns7_m.body).layer (parseHdr returns7_m.body).micro (parseHdr returns7_m.body).dst (returns7_s.xCfg returns7_m.owner (parseHdr returns7_m.body).layer).k (List.map (fun x => x.data) (parsePile returns7_m.body (2 * (returns7_s.xCfg returns7_m.owner (parseHdr returns7_m.body).layer).k))) (returns7_s.claim returns7_m).1).isSome = true := ⟨⟨by decide +kernel, by decide +kernel⟩, ⟨sound_up rfl (by decide +kernel), by decide +kernel⟩, by decide +kernel⟩
/-- ReturnsComplete, clause 8. -/
theorem test_returns8 :
    due returns8_s returns8_m 7 ∧ (parseHdr returns8_m.body).src ≠ returns8_s.member
    ∧ returns8_s.returnBefore returns8_m (parseHdr returns8_m.body).src = false
    ∧ returns8_s.isDead (parseHdr returns8_m.body).dst = false
    ∧ (returns8_s.chan (returns8_s.route (parseHdr returns8_m.body).src 7 (returns8_s.backTo (parseHdr returns8_m.body).src)).1).isSome = true
    ∧ List.find? (holdIs returns8_m) returns8_s.link.slots = none := ⟨⟨by decide +kernel, by decide +kernel⟩, by decide +kernel⟩
/-- ReturnsComplete, clause 9. -/
theorem test_returns9 :
    due returns9_s returns8_m 7 ∧ (parseHdr returns8_m.body).src ≠ returns9_s.member
    ∧ returns9_s.returnBefore returns8_m (parseHdr returns8_m.body).src = false
    ∧ returns9_s.isDead (parseHdr returns8_m.body).dst = false
    ∧ (returns9_s.chan (returns9_s.route (parseHdr returns8_m.body).src 7 (returns9_s.backTo (parseHdr returns8_m.body).src)).1).isSome = true
    ∧ returns9_s.link.slots = [returns9_k] ∧ holdIs returns8_m returns9_k = true ∧ returns9_k.fate = 0
    ∧ returns9_k.n = 0 ∧ 0 < returns9_k.got ∧ returns9_k.whole = true := ⟨⟨by decide +kernel, by decide +kernel⟩, by decide +kernel⟩
/-- ReturnsComplete, clause 10. -/
theorem test_returns10 :
    due returns10_s returns8_m 7 ∧ (parseHdr returns8_m.body).src ≠ returns10_s.member
    ∧ returns10_s.returnBefore returns8_m (parseHdr returns8_m.body).src = false
    ∧ returns10_s.isDead (parseHdr returns8_m.body).dst = false
    ∧ (returns10_s.chan (returns10_s.route (parseHdr returns8_m.body).src 7 (returns10_s.backTo (parseHdr returns8_m.body).src)).1).isSome = true
    ∧ returns10_s.link.slots = [returns10_k] ∧ holdIs returns8_m returns10_k = true ∧ returns10_k.fate = 0
    ∧ returns10_k.n < returns10_k.got ∧ (returns10_k.whole = false ∨ returns10_k.n ≠ 0) := ⟨⟨by decide +kernel, by decide +kernel⟩, by decide +kernel⟩
/-- ReturnsComplete, clause 11. -/
theorem test_returns11 :
    due returns11_s returns8_m 7 ∧ (parseHdr returns8_m.body).src ≠ returns11_s.member
    ∧ returns11_s.returnBefore returns8_m (parseHdr returns8_m.body).src = false
    ∧ returns11_s.isDead (parseHdr returns8_m.body).dst = false
    ∧ (returns11_s.chan (returns11_s.route (parseHdr returns8_m.body).src 7 (returns11_s.backTo (parseHdr returns8_m.body).src)).1).isSome = true
    ∧ returns11_s.link.slots = [returns11_k] ∧ holdIs returns8_m returns11_k = true ∧ returns11_k.fate = 0
    ∧ returns11_k.got ≤ returns11_k.n := ⟨⟨by decide +kernel, by decide +kernel⟩, by decide +kernel⟩
/-- ReturnsComplete, clause 12. -/
theorem test_returns12 :
    due returns12_s returns8_m 7 ∧ returns12_s.sound ∧ (parseHdr returns8_m.body).src ≠ returns12_s.member
    ∧ returns12_s.returnBefore returns8_m (parseHdr returns8_m.body).src = false
    ∧ returns12_s.isDead (parseHdr returns8_m.body).dst = true
    ∧ List.find? (holdIs returns8_m) returns12_s.link.slots = none ∧ returns12_s.powered rXCH_STALE_CNT = true := ⟨⟨by decide +kernel, by decide +kernel⟩, sound_up rfl (by decide +kernel), by decide +kernel⟩
/-- ReturnsComplete, clause 13. -/
theorem test_returns13 :
    returns13_s.sound ∧ 0 < 8 ∧ returns13_s.xLive 0 0 = some (returns13_x, returns13_q)
    ∧ returns13_s.pass 0 0 = some returns13_q ∧ (microOf returns13_q 0).returnsDone = false
    ∧ (microOf returns13_q 0).sorted = true ∧ (∀ o ∈ (microOf returns13_q 0).out, o.2 ≠ 0)
    ∧ (∀ k ∈ returns13_q.tickets, k.micro = 0 → k.st ≠ 1 ∧ k.st ≠ 4) := ⟨sound_up rfl (by decide +kernel), by decide +kernel⟩
/-- ReturnsComplete, clause 14. -/
theorem test_returns14 :
    due returns14_s returns14_m 9
    ∧ meets returns14_s returns14_m.owner (fld returns14_m.body 8 8) (fld returns14_m.body 4 2) rosterAndFinal1_x rosterAndFinal3_q
    ∧ List.length returns14_m.body = 32 ∧ rsv returns14_m.body 7 1 = true ∧ rsv returns14_m.body 18 14 = true
    ∧ fld returns14_m.body 0 1 = 1 ∧ fld returns14_m.body 1 1 = 1 ∧ fld returns14_m.body 2 2 < 512
    ∧ fld returns14_m.body 16 2 < 512 ∧ returns14_m.src / 32 = returns14_s.pod ∧ rosterAndFinal1_x.tornBy = none
    ∧ returns14_s.maySpeak rosterAndFinal1_x rosterAndFinal3_q (returns14_s.xCfg returns14_m.owner (fld returns14_m.body 4 2)) (fld returns14_m.body 2 2) (fld returns14_m.body 6 1) = true
    ∧ rxOf (microOf rosterAndFinal3_q (fld returns14_m.body 6 1)) (fld returns14_m.body 2 2) = none := ⟨⟨by decide +kernel, by decide +kernel⟩, ⟨sound_up rfl (by decide +kernel), by decide +kernel⟩, by decide +kernel⟩
/-- FoldCompletes, clause 1. -/
theorem test_fold1 :
    fold1_s.sound ∧ 0 < 8 ∧ (fold1_s.part 0).step = some fold1_x ∧ fold1_s.pass 0 0 = some fold1_q
    ∧ fuses fold1_x 0 = true ∧ fold1_x.tornBy = none ∧ fold1_q.ended = false ∧ fold1_q.toks ≠ []
    ∧ (∀ b < ceilDiv fold1_q.toks.length 8, b ∈ fold1_q.blocks) ∧ fold1_q.sharedTag = none ∧ fold1_q.sharedAns = false
    ∧ fold1_q.sharedRuns = [] ∧ (∀ u ∈ fold1_q.toks, u.whole = true) := ⟨sound_up rfl (by decide +kernel), by decide +kernel⟩
/-- FoldCompletes, clause 2. -/
theorem test_fold2 :
    fold2_s.sound ∧ 0 < 8 ∧ (fold2_s.part 0).step = some fold2_x ∧ fold2_s.pass 0 0 = some fold2_q
    ∧ fuses fold2_x 0 = true ∧ fold2_x.tornBy = none ∧ fold2_q.ended = false ∧ fold2_q.toks ≠ []
    ∧ (∀ b < ceilDiv fold2_q.toks.length 8, b ∈ fold2_q.blocks) ∧ fold2_q.sharedTag = none ∧ fold2_q.sharedAns = false
    ∧ fold2_q.sharedRuns = [] ∧ fold2_q.toks = [fold2_u] ∧ fold2_u.whole = false
    ∧ (fold2_s.allocRuns (fold2_s.xCfg 0 0).owner (some (0, 0)) [tableCells 1, (fold2_s.xCfg 0 0).cells, outCells (fold2_s.xCfg 0 0).k]).1.length = 3 := ⟨sound_up rfl (by decide +kernel), by decide +kernel⟩
/-- FoldCompletes, clause 3. -/
theorem test_fold3 :
    fold3_s.sound ∧ 0 < 8 ∧ (fold3_s.part 0).step = some fold3_x ∧ fold3_s.pass 0 0 = some fold3_q ∧ fold3_q.layer = 0
    ∧ List.find? (fun t => t.row == 0) fold3_q.toks = some wSel ∧ fold3_x.launched = true ∧ fold3_x.tornBy = none
    ∧ fold3_q.ended = false ∧ fold3_s.mayIssue 0 = true ∧ fold3_s.combineReady 0 fold3_x fold3_q wSel = true
    ∧ (fold3_s.part 0).state = 1
    ∧ (fold3_s.foldFor 0 (fold3_s.homeCluster 0 (List.findIdx (fun t => t.row == 0) fold3_q.toks / 8))).2 = true := ⟨sound_up rfl (by decide +kernel), by decide +kernel⟩
/-- FoldCompletes, clause 4. -/
theorem test_fold4 :
    fold3_s.sound ∧ 0 < 8 ∧ (fold3_s.part 0).step = some fold3_x ∧ fold3_s.pass 0 0 = some fold3_q ∧ fold3_q.layer = 0
    ∧ List.find? (fun t => t.row == 0) fold3_q.toks = some wSel ∧ fold3_x.launched = true ∧ fold3_x.tornBy = none
    ∧ fold3_q.ended = false ∧ fold3_s.mayIssue 0 = true ∧ fold3_s.combineReady 0 fold3_x fold3_q wSel = true
    ∧ (fold3_s.part 0).state = 1
    ∧ (fold3_s.foldFor 0 (fold3_s.homeCluster 0 (List.findIdx (fun t => t.row == 0) fold3_q.toks / 8))).2 = true
    ∧ bit fold3_s.units.folds (fold3_s.foldFor 0 (fold3_s.homeCluster 0 (List.findIdx (fun t => t.row == 0) fold3_q.toks / 8))).1 = true
    ∧ 2 ^ (fold3_s.foldFor 0 (fold3_s.homeCluster 0 (List.findIdx (fun t => t.row == 0) fold3_q.toks / 8))).1 ≠ fold3_s.units.folds
    ∧ fold3_s.powered rFD_RETRY_CNT = true ∧ 1 < fold3_s.combineTries 0 fold3_x fold3_q wSel 8 := ⟨sound_up rfl (by decide +kernel), by decide +kernel⟩
/-- FoldCompletes, clause 5. -/
theorem test_fold5 :
    3 < fold5_s.fold.buckets.length ∧ fold5_s.leakDue (keyFold 3) 2097152 (fold5_s.fold.buckets.getD 3 0) = true := by decide +kernel
/-- PassAndStepEnd, clause 1. -/
theorem test_passAndStepEnd1 :
    passAndStepEnd1_s.sound ∧ 0 < 8 ∧ (passAndStepEnd1_s.part 0).step = some passAndStepEnd1_x
    ∧ passAndStepEnd1_s.pass 0 0 = some passAndStepEnd1_q ∧ passAndStepEnd1_q.layer = 0
    ∧ passAndStepEnd1_x.launched = true ∧ passAndStepEnd1_x.tornBy = none ∧ passAndStepEnd1_q.ended = false
    ∧ (∀ r ∈ passAndStepEnd1_x.passes, r.ended = true ∨ 0 ≤ r.layer)
    ∧ passAndStepEnd1_s.srcOver 0 passAndStepEnd1_x passAndStepEnd1_q = true
    ∧ destOver passAndStepEnd1_x passAndStepEnd1_q passAndStepEnd1_s.member (passAndStepEnd1_s.microMax 0 0) = true
    ∧ passAndStepEnd1_q.sadd ≠ [] ∧ (∀ u ∈ passAndStepEnd1_q.toks, u.written = true ∨ u.whole = true)
    ∧ (∀ r ∈ passAndStepEnd1_x.passes, passAndStepEnd1_s.reading (MemObj.target 0 r.layer) = false) := ⟨sound_up rfl (by decide +kernel), by decide +kernel⟩
/-- PassAndStepEnd, clause 2. -/
theorem test_passAndStepEnd2 :
    passAndStepEnd2_s.sound ∧ 0 < 8 ∧ (passAndStepEnd2_s.part 0).step = some passAndStepEnd2_x
    ∧ passAndStepEnd2_s.pass 0 0 = some passAndStepEnd2_q ∧ passAndStepEnd2_q.layer = 0
    ∧ passAndStepEnd2_x.launched = true ∧ passAndStepEnd2_x.tornBy = none ∧ passAndStepEnd2_q.ended = false
    ∧ (∀ r ∈ passAndStepEnd2_x.passes, r.ended = true ∨ 0 ≤ r.layer)
    ∧ passAndStepEnd2_s.srcOver 0 passAndStepEnd2_x passAndStepEnd2_q = true
    ∧ destOver passAndStepEnd2_x passAndStepEnd2_q passAndStepEnd2_s.member (passAndStepEnd2_s.microMax 0 0) = true
    ∧ passAndStepEnd2_q.sadd = [] ∧ passAndStepEnd2_q.journaled = false ∧ passAndStepEnd2_q.admitted = true
    ∧ passAndStepEnd2_x.redAbort = none := ⟨sound_up rfl (by decide +kernel), by decide +kernel⟩
/-- PassAndStepEnd, clause 3. -/
theorem test_passAndStepEnd3 :
    passAndStepEnd3_s.sound ∧ 0 < 8 ∧ (passAndStepEnd3_s.part 0).step = some passAndStepEnd3_x
    ∧ passAndStepEnd3_s.pass 0 0 = some passAndStepEnd3_q ∧ passAndStepEnd3_q.layer = 0
    ∧ passAndStepEnd3_x.launched = true ∧ passAndStepEnd3_x.tornBy = none ∧ passAndStepEnd3_q.ended = false
    ∧ (∀ r ∈ passAndStepEnd3_x.passes, r.ended = true ∨ 0 ≤ r.layer)
    ∧ passAndStepEnd3_s.srcOver 0 passAndStepEnd3_x passAndStepEnd3_q = true
    ∧ destOver passAndStepEnd3_x passAndStepEnd3_q passAndStepEnd3_s.member (passAndStepEnd3_s.microMax 0 0) = true
    ∧ passAndStepEnd3_q.sadd = [] ∧ passAndStepEnd3_q.journaled = true ∧ passAndStepEnd3_s.jrnIdle 0 = true
    ∧ 0 < passAndStepEnd3_x.lstat.length := ⟨sound_up rfl (by decide +kernel), by decide +kernel⟩
/-- PassAndStepEnd, clause 4. -/
theorem test_passAndStepEnd4 :
    passAndStepEnd4_s.sound ∧ 0 < 8 ∧ (passAndStepEnd4_s.part 0).step = some passAndStepEnd4_x
    ∧ passAndStepEnd4_s.stepOver 0 passAndStepEnd4_x = true ∧ passAndStepEnd4_x.fin = 0 := ⟨sound_up rfl (by decide +kernel), by decide +kernel⟩
/-- PassAndStepEnd, clause 5. -/
theorem test_passAndStepEnd5 :
    passAndStepEnd5_s.sound ∧ 0 < 8 ∧ (passAndStepEnd5_s.part 0).step = some passAndStepEnd5_x
    ∧ passAndStepEnd5_s.stepOver 0 passAndStepEnd5_x = true ∧ passAndStepEnd5_x.fin = 1
    ∧ passAndStepEnd5_s.writing (MemObj.ledger 0) = false := ⟨sound_up rfl (by decide +kernel), by decide +kernel⟩
/-- PassAndStepEnd, clause 6. -/
theorem test_passAndStepEnd6 :
    passAndStepEnd6_s.sound ∧ 0 < 8 ∧ (passAndStepEnd6_s.part 0).step = some passAndStepEnd6_x
    ∧ passAndStepEnd6_s.stepOver 0 passAndStepEnd6_x = true ∧ passAndStepEnd6_x.fin = 2
    ∧ passAndStepEnd6_s.jrnIdle 0 = true
    ∧ (stepStatus passAndStepEnd6_x = 0 → ∀ g ∈ passAndStepEnd6_x.segs, g.kept = true → passAndStepEnd6_s.ctxUnderTest g.stream = false)
    ∧ passAndStepEnd6_x.group < 64 ∧ passAndStepEnd6_s.gPart passAndStepEnd6_x.group = 0
    ∧ (passAndStepEnd6_s.part 0).state = 1 ∧ (passAndStepEnd6_s.group passAndStepEnd6_x.group).cur = some wEnds
    ∧ wEnds.torn = false := ⟨sound_up rfl (by decide +kernel), by decide +kernel⟩
/-- ReductionCompletes, clause 1. -/
theorem test_reduction1 :
    reduction1_s.sound ∧ 0 < 8 ∧ (reduction1_s.part 0).step = some reduction1_x
    ∧ reduction1_s.redDue 0 0 reduction1_x = true := ⟨sound_up rfl (by decide +kernel), by decide +kernel⟩
/-- ReductionCompletes, clause 2. -/
theorem test_reduction2 :
    reduction2_s.sound ∧ 0 < 8 ∧ (reduction2_s.part 0).step = some reduction2_x ∧ reduction2_x.reds = [reduction2_r]
    ∧ reduction2_r.state = 1 ∧ reduction2_x.tornBy = none ∧ reduction2_s.mayIssue 0 = true ∧ 1 ≤ 512 ∧ 512 ≤ 1023
    ∧ holder (reduction2_s.redBlock reduction2_x.group) 512 = reduction2_s.member
    ∧ chunkOpen reduction2_x (reduction2_s.redBlock reduction2_x.group) reduction2_r 0 = true
    ∧ reduction2_r.chunkSt.getD 0 0 ≤ 1
    ∧ reduction2_s.nodesBelow (reduction2_s.redBlock reduction2_x.group) reduction2_r 512 0 = true
    ∧ reduction2_r.moved = []
    ∧ (reduction2_s.foldFor 0 (reduction2_s.foldUnits.getD (0 % max 1 reduction2_s.foldUnits.length) 0)).2 = true
    ∧ reduction2_s.reading (MemObj.contrib 0 reduction2_r.layer) = false
    ∧ reduction2_s.reading (MemObj.foldIn 0 reduction2_r.layer 512 0) = false
    ∧ (∀ v ∈ reduction2_r.vals, v.1 ≠ 512 ∨ v.2.1 ≠ 0)
    ∧ reduction2_s.nodeVal 0 (reduction2_s.redBlock reduction2_x.group) (foldLayer (reduction2_s.redBlock reduction2_x.group) reduction2_r.layer) reduction2_r (2 * 512) 0 = some reduction2_a
    ∧ reduction2_s.rightVal 0 (reduction2_s.redBlock reduction2_x.group) (foldLayer (reduction2_s.redBlock reduction2_x.group) reduction2_r.layer) reduction2_r (2 * 512 + 1) 0 = some reduction2_a
    ∧ (reduction2_s.part 0).state = 1 ∧ reduction2_s.inputRanges reduction2_r 512 0 reduction2_a.length ≠ []
    ∧ (512, 0) ∉ reduction2_r.asked := ⟨sound_up rfl (by decide +kernel), by decide +kernel⟩
/-- ReductionCompletes, clause 3. -/
theorem test_reduction3 :
    reduction3_s.sound ∧ 0 < 8 ∧ (reduction3_s.part 0).step = some reduction3_x ∧ reduction3_x.reds = [reduction3_r]
    ∧ reduction3_r.state = 1 ∧ reduction3_x.tornBy = none ∧ reduction3_s.mayIssue 0 = true ∧ 1 ≤ 512 ∧ 512 ≤ 1023
    ∧ holder (reduction3_s.redBlock reduction3_x.group) 512 = reduction3_s.member
    ∧ chunkOpen reduction3_x (reduction3_s.redBlock reduction3_x.group) reduction3_r 0 = true
    ∧ reduction3_r.chunkSt.getD 0 0 ≤ 1
    ∧ reduction3_s.nodesBelow (reduction3_s.redBlock reduction3_x.group) reduction3_r 512 0 = true
    ∧ reduction3_r.moved = []
    ∧ (reduction3_s.foldFor 0 (reduction3_s.foldUnits.getD (0 % max 1 reduction3_s.foldUnits.length) 0)).2 = true
    ∧ reduction3_s.reading (MemObj.contrib 0 reduction3_r.layer) = false
    ∧ reduction3_s.reading (MemObj.foldIn 0 reduction3_r.layer 512 0) = false
    ∧ (∀ v ∈ reduction3_r.vals, v.1 ≠ 512 ∨ v.2.1 ≠ 0)
    ∧ reduction3_s.nodeVal 0 (reduction3_s.redBlock reduction3_x.group) (foldLayer (reduction3_s.redBlock reduction3_x.group) reduction3_r.layer) reduction3_r (2 * 512) 0 = some reduction2_a
    ∧ reduction3_s.rightVal 0 (reduction3_s.redBlock reduction3_x.group) (foldLayer (reduction3_s.redBlock reduction3_x.group) reduction3_r.layer) reduction3_r (2 * 512 + 1) 0 = some reduction2_a
    ∧ (reduction3_s.part 0).state = 1
    ∧ (reduction3_s.inputRanges reduction3_r 512 0 reduction2_a.length = [] ∨ (512, 0) ∈ reduction3_r.asked) := ⟨sound_up rfl (by decide +kernel), by decide +kernel⟩
/-- ReductionCompletes, clause 4. -/
theorem test_reduction4 :
    reduction3_s.sound ∧ 0 < 8 ∧ (reduction3_s.part 0).step = some reduction3_x ∧ reduction3_x.reds = [reduction3_r]
    ∧ reduction3_r.state = 1 ∧ reduction3_x.tornBy = none ∧ reduction3_s.mayIssue 0 = true ∧ 1 ≤ 512 ∧ 512 ≤ 1023
    ∧ holder (reduction3_s.redBlock reduction3_x.group) 512 = reduction3_s.member
    ∧ chunkOpen reduction3_x (reduction3_s.redBlock reduction3_x.group) reduction3_r 0 = true
    ∧ reduction3_r.chunkSt.getD 0 0 ≤ 1
    ∧ reduction3_s.nodesBelow (reduction3_s.redBlock reduction3_x.group) reduction3_r 512 0 = true
    ∧ reduction3_r.moved = []
    ∧ (reduction3_s.foldFor 0 (reduction3_s.foldUnits.getD (0 % max 1 reduction3_s.foldUnits.length) 0)).2 = true
    ∧ reduction3_s.reading (MemObj.contrib 0 reduction3_r.layer) = false
    ∧ reduction3_s.reading (MemObj.foldIn 0 reduction3_r.layer 512 0) = false
    ∧ (∀ v ∈ reduction3_r.vals, v.1 ≠ 512 ∨ v.2.1 ≠ 0)
    ∧ reduction3_s.nodeVal 0 (reduction3_s.redBlock reduction3_x.group) (foldLayer (reduction3_s.redBlock reduction3_x.group) reduction3_r.layer) reduction3_r (2 * 512) 0 = some reduction2_a
    ∧ reduction3_s.rightVal 0 (reduction3_s.redBlock reduction3_x.group) (foldLayer (reduction3_s.redBlock reduction3_x.group) reduction3_r.layer) reduction3_r (2 * 512 + 1) 0 = some reduction2_a
    ∧ (reduction3_s.part 0).state = 1
    ∧ (reduction3_s.inputRanges reduction3_r 512 0 reduction2_a.length = [] ∨ (512, 0) ∈ reduction3_r.asked)
    ∧ bit reduction3_s.units.folds (reduction3_s.foldFor 0 (reduction3_s.foldUnits.getD (0 % max 1 reduction3_s.foldUnits.length) 0)).1 = true
    ∧ 2 ^ (reduction3_s.foldFor 0 (reduction3_s.foldUnits.getD (0 % max 1 reduction3_s.foldUnits.length) 0)).1 ≠ reduction3_s.units.folds
    ∧ reduction3_s.powered rFD_RETRY_CNT = true
    ∧ 1 < failedTries 8 (resOp false (reduction2_a.getD (8 / 49152 % max 1 reduction2_a.length) 0) (reduction2_a.getD (8 / 49152 % max 1 reduction2_a.length) 0)) := ⟨sound_up rfl (by decide +kernel), by decide +kernel⟩
/-- ReductionCompletes, clause 5. -/
theorem test_reduction5 :
    reduction5_s.sound ∧ due reduction5_s reduction5_m 32 ∧ reduction5_m.owner < 8
    ∧ (reduction5_s.part reduction5_m.owner).step = some reduction3_x ∧ reduction3_x.reds = [reduction3_r]
    ∧ reduction3_r.layer = fld reduction5_m.body 8 2 ∧ reduction3_r.state = 1
    ∧ reduction5_s.redWhen reduction5_m.owner (fld reduction5_m.body 0 8) (fld reduction5_m.body 8 2) (holder (reduction5_s.redBlock (reduction5_s.stepGroup reduction5_m.owner)) (fld reduction5_m.body 10 2)) false = 2
    ∧ within (fld reduction5_m.body 10 2) 2 2047 = true ∧ fld reduction5_m.body 10 2 % 2 = 1
    ∧ holder (reduction5_s.redBlock (reduction5_s.stepGroup reduction5_m.owner)) (fld reduction5_m.body 10 2 / 2) = reduction5_s.member
    ∧ holder (reduction5_s.redBlock (reduction5_s.stepGroup reduction5_m.owner)) (fld reduction5_m.body 10 2) ≠ reduction5_s.member
    ∧ fdLayout reduction5_m.body (foldLayer (reduction5_s.redBlock (reduction5_s.stepGroup reduction5_m.owner)) (fld reduction5_m.body 8 2)) (if reduction5_s.arrFree reduction5_m.owner = true then reduction5_s.levelNarrow reduction5_m.owner (reduction5_s.redBlock (reduction5_s.stepGroup reduction5_m.owner)) (fld reduction5_m.body 10 2) else decide (holder (reduction5_s.redBlock (reduction5_s.stepGroup reduction5_m.owner)) (fld reduction5_m.body 10 2) / 32 ≠ reduction5_s.pod)) = true
    ∧ fld reduction5_m.body 24 8 = 0
    ∧ (∀ v ∈ reduction3_r.right, v.1 ≠ fld reduction5_m.body 10 2 ∨ v.2.1 ≠ fld reduction5_m.body 12 4)
    ∧ chunkOpen reduction3_x (reduction5_s.redBlock (reduction5_s.stepGroup reduction5_m.owner)) reduction3_r (fld reduction5_m.body 12 4) = true
    ∧ (∀ u ∈ reduction3_r.bufs, u.1 = fld reduction5_m.body 12 4 → u.2.1 = nodeLevel (fld reduction5_m.body 10 2 / 2) → u.2.2 = fld reduction5_m.body 10 2 ∨ reduction5_s.bufLive (reduction5_s.redBlock (reduction5_s.stepGroup reduction5_m.owner)) reduction3_r (fld reduction5_m.body 12 4) u.2.2 = false) := ⟨sound_up rfl (by decide +kernel), ⟨by decide +kernel, by decide +kernel⟩, by decide +kernel⟩
/-- ReductionCompletes, clause 6. -/
theorem test_reduction6 :
    reduction6_s.sound ∧ due reduction6_s reduction6_m 34 ∧ reduction6_m.owner < 8
    ∧ (reduction6_s.part reduction6_m.owner).step = some reduction3_x ∧ reduction3_x.reds = [reduction3_r]
    ∧ reduction3_r.layer = fld reduction6_m.body 8 2
    ∧ reduction6_s.redWhen reduction6_m.owner (fld reduction6_m.body 0 8) (fld reduction6_m.body 8 2) (fld reduction6_m.body 12 2) true = 2
    ∧ List.length reduction6_m.body = 16 ∧ rsv reduction6_m.body 11 1 = true ∧ rsv reduction6_m.body 14 2 = true
    ∧ memberOk (fld reduction6_m.body 12 2) = true
    ∧ fld reduction6_m.body 8 2 < reduction6_s.pLayers reduction6_m.owner
    ∧ within (fld reduction6_m.body 10 1) 1 3 = true ∧ reduction6_m.src / 32 = reduction6_s.pod
    ∧ reduction6_s.powered rFD_RED_ABORT_CNT = true := ⟨sound_up rfl (by decide +kernel), ⟨by decide +kernel, by decide +kernel⟩, by decide +kernel⟩
/-- ReductionCompletes, clause 7. -/
theorem test_reduction7 :
    reduction7_s.sound ∧ due reduction7_s reduction7_m 33 ∧ reduction7_m.owner < 8
    ∧ (reduction7_s.part reduction7_m.owner).step = some reduction3_x ∧ reduction3_x.reds = [reduction3_r]
    ∧ reduction3_r.layer = fld reduction7_m.body 8 2 ∧ reduction3_r.state = 1
    ∧ reduction7_s.redWhen reduction7_m.owner (fld reduction7_m.body 0 8) (fld reduction7_m.body 8 2) (holder (reduction7_s.redBlock (reduction7_s.stepGroup reduction7_m.owner)) 1) false = 2
    ∧ reduction7_m.src / 32 = reduction7_s.pod
    ∧ fdLayout reduction7_m.body (foldLayer (reduction7_s.redBlock reduction3_x.group) (fld reduction7_m.body 8 2)) (reduction7_s.rootNarrow reduction7_m.owner (reduction7_s.redBlock reduction3_x.group) reduction3_x.group) = true
    ∧ fld reduction7_m.body 10 2 = 1 ∧ fld reduction7_m.body 24 8 = (crc64 (List.drop 32 reduction7_m.body)).toNat
    ∧ holder (reduction7_s.redBlock reduction3_x.group) 1 ≠ reduction7_s.member
    ∧ fld reduction7_m.body 12 4 < reduction3_r.chunkSt.length
    ∧ reduction3_r.chunkSt.getD (fld reduction7_m.body 12 4) 0 < 2
    ∧ fld (foldLayer (reduction7_s.redBlock reduction3_x.group) (fld reduction7_m.body 8 2)) 21 1 = 0 := ⟨sound_up rfl (by decide +kernel), ⟨by decide +kernel, by decide +kernel⟩, by decide +kernel⟩
/-- ReductionCompletes, clause 8. -/
theorem test_reduction8 :
    reduction8_s.sound ∧ 0 < 8 ∧ (reduction8_s.part 0).step = some reduction8_x ∧ reduction8_x.reds = [reduction8_r]
    ∧ reduction8_r.state = 1 ∧ 0 < reduction8_r.chunkSt.length ∧ reduction8_r.chunkSt.getD 0 0 = 2
    ∧ reduction8_s.writing (MemObj.redResult 0 reduction8_r.layer 0) = false
    ∧ reduction8_r.block < reduction8_s.fold.redSealed.length := ⟨sound_up rfl (by decide +kernel), by decide +kernel⟩
/-- ReductionCompletes, clause 9. -/
theorem test_reduction9 :
    reduction9_s.sound ∧ due reduction9_s reduction9_m 35 ∧ reduction9_m.owner < 8
    ∧ (reduction9_s.part reduction9_m.owner).step = some reduction1_x ∧ reduction1_x.launched = true
    ∧ fld reduction9_m.body 0 8 = reduction1_x.stepNo ∧ reduction1_x.poisonAt = none ∧ reduction1_x.fin ≤ 2
    ∧ reduction9_s.isDead (fld reduction9_m.body 12 2) = false ∧ List.length reduction9_m.body = 16
    ∧ rsv reduction9_m.body 11 1 = true ∧ rsv reduction9_m.body 14 2 = true
    ∧ memberOk (fld reduction9_m.body 12 2) = true
    ∧ fld reduction9_m.body 8 2 < reduction9_s.pLayers reduction9_m.owner ∧ fld reduction9_m.body 10 1 = 0
    ∧ reduction9_m.src / 32 = reduction9_s.pod ∧ reduction9_s.powered rFD_POISON_CNT = true := ⟨sound_up rfl (by decide +kernel), ⟨by decide +kernel, by decide +kernel⟩, by decide +kernel⟩
/-- ReductionCompletes, clause 10. -/
theorem test_reduction10 :
    reduction10_s.sound ∧ 0 < 8 ∧ (reduction10_s.part 0).step = some reduction10_x ∧ reduction10_x.launched = true
    ∧ reduction10_x.tornBy = none ∧ reduction10_x.fin = 0 ∧ (∀ q ∈ reduction10_x.passes, q.ended = true)
    ∧ reduction10_x.nextLayer = reduction10_s.pLayers 0 ∧ reduction10_x.reds = [reduction10_r]
    ∧ reduction10_r.audited = false ∧ reduction10_r.chunkSt = [3]
    ∧ reduction10_r.crcs = [(0, (crc64 (reduction10_s.rd (reduction10_s.resultRange 0 (foldLayer (reduction10_s.redBlock reduction10_x.group) reduction10_r.layer) 0).1 (reduction10_s.resultRange 0 (foldLayer (reduction10_s.redBlock reduction10_x.group) reduction10_r.layer) 0).2)).toNat)] := ⟨sound_up rfl (by decide +kernel), by decide +kernel⟩

/-- BoundaryCounts, clause 3. -/
theorem test_boundaryCounts3 :
    isReset .lockLoss = false ∧ wHead.boot.state = 11 ∧ wHead.stitch.state ≠ 0 := by decide +kernel
/-! #### Witnesses beside the configuration's open values -/

/-- The manager channel of pod 0 toward the manager of pod 1. -/
def mgrChan : Chan := { wChan with id := 65, port := 31, peer := 32 + Config.podManager 1 % 32 }
/-- The head manager with that channel, in service and listening. -/
def timing : State := chan1 mgrChan 5 wHead
def listening : State := { chan1 mgrChan 5 (wAt 9) with stitch := resetStitch }
/-- A member whose channel to its pod manager is known. -/
def mgrLink : Chan := { wChan with id := 30, port := 30, peer := Config.podManager 0 % 32 }
def following : State := { chan1 mgrLink 5 wMem with stitch := { resetStitch with markOwn := some 5 } }
def wTime : Flit := ctl ([3] ++ zeros 7 ++ toLE 8 77)
def wCount : Flit := ctl ([4] ++ zeros 7 ++ toLE 8 77)

theorem timeChan_mgr (s : State) (h2 : s.podMgr = true) (h3 : s.headMgr = true) (h4 : s.pod = 0) :
    s.timeChan mgrChan = true := by
  have h : mgrChan.peer / 32 = 1 := by simp only [mgrChan]; omega
  simp only [State.timeChan, h2, h3, h, State.mgrOf, State.mgrBlock, h4]
  simp [mgrChan]

/-- TimeFlitsComplete, clause 2. -/
theorem test_timeFlits2 :
    timing.chan 65 = some mgrChan ∧ timing.timeChan mgrChan = true ∧ timing.active mgrChan.port = true
    ∧ timing.boot.rstLow = false ∧ 9 ≤ timing.boot.state
    ∧ mgrChan.markDue = false ∧ timing.sendDue 65 timing.stitch.count 8 = true
    ∧ timing.stitch.peers.find? (fun x => decide (x.1 = 65)) = none :=
  ⟨rfl, timeChan_mgr _ (by decide +kernel) (by decide +kernel) (by decide +kernel), by decide +kernel⟩
/-- TimeFlitsComplete, clause 3. -/
theorem test_timeFlits3 :
    listening.chan mgrChan.id = some mgrChan ∧ listening.hears mgrChan.port = true
    ∧ parseFlit (flitBytes wTime) = some wTime ∧ isControl 3 wTime = true ∧ listening.timeChan mgrChan = true
    ∧ listening.headMgr = true ∧ listening.boot.state = 9 ∧ listening.stitch.state = 0 :=
  ⟨rfl, by decide +kernel, parse_flitBytes _ (by decide +kernel), by decide +kernel,
    timeChan_mgr _ (by decide +kernel) (by decide +kernel) (by decide +kernel), by decide +kernel, by decide +kernel,
    by decide +kernel⟩
/-- TimeFlitsComplete, clause 4. -/
theorem test_timeFlits4 :
    following.chan mgrLink.id = some mgrLink ∧ following.hears mgrLink.port = true
    ∧ parseFlit (flitBytes wCount) = some wCount ∧ isControl 4 wCount = true ∧ mgrLink.id < 31
    ∧ mgrLink.active = true ∧ wCount.mark = false ∧ following.stitch.markOwn = some 5
    ∧ following.podMgr = false ∧ following.stitch.src = 0 ∧ mgrLink.peer % 32 = following.mgrBlock following.pod :=
  ⟨rfl, by decide +kernel, parse_flitBytes _ (by decide +kernel), by decide +kernel, by decide +kernel, by decide +kernel,
    by decide +kernel, by decide +kernel, by decide +kernel, by decide +kernel, by
      have h : following.pod = 0 := by decide +kernel
      have g : following.podMgr = false := by decide +kernel
      simp [mgrLink, State.mgrBlock, h, g]⟩
/-- StitchReferenceCompletes, clause 6. -/
theorem test_stitchReference6 : ∃ b,
    stitchReference6_s.podMgr = false ∧ 16 ≤ stitchReference6_s.stitch.directSilent
    ∧ 9 ≤ stitchReference6_s.boot.state ∧ stitchReference6_s.boot.state ≤ 11 ∧ b ≠ stitchReference6_s.block
    ∧ b ≠ stitchReference6_s.mgrBlock stitchReference6_s.pod ∧ b < stitchReference6_s.podSize := by
  have hp : stitchReference6_s.podMgr = false := by decide +kernel
  have hb : stitchReference6_s.block = 0 := by decide +kernel
  have hn : stitchReference6_s.podSize = 32 := by decide +kernel
  by_cases h : stitchReference6_s.mgrBlock stitchReference6_s.pod = 1
  · exact ⟨2, hp, by decide +kernel, by decide +kernel, by decide +kernel, by rw [hb]; decide, by rw [h]; decide,
      by rw [hn]; decide⟩
  · exact ⟨1, hp, by decide +kernel, by decide +kernel, by decide +kernel, by rw [hb]; decide, fun e => h e.symm,
      by rw [hn]; decide⟩
/-- SelfTestCompletes, clause 12. -/
theorem test_selfTest12 : ∃ m : BitVec 64,
    selfTest12_s.self.state = 3 ∧ 0 < misrParts 45 ∧ m ≠ Config.misrReference 45 0 := by
  refine ⟨Config.misrReference 45 0 + 1, by decide +kernel, by decide +kernel, fun h => ?_⟩
  bv_omega
/-- ForcedWritesComplete, clause 3. -/
theorem test_forcedWrites3 :
    wHead.running = true ∧ wHead.self.state = 0 ∧ BitVec.toNat forcedWrites3_v / 256 % 256 = 195
    ∧ bit (BitVec.toNat forcedWrites3_v) 0 = true ∧ (∀ g : Nat, (wHead.group g).cur = none) := by
  refine ⟨by decide +kernel, by decide +kernel, by decide +kernel, by decide +kernel, fun g => ?_⟩
  have h : wHead.groups = List.replicate 64 resetGroup := rfl
  rw [State.group, h]
  by_cases hg : g < 64
  · rw [getD_rep _ _ _ _ hg]; rfl
  · rw [List.getD_eq_default _ _ (by rw [List.length_replicate]; omega)]; rfl

/-! #### Runs of Press over a router of zeros -/

/-- The data of the runs of the next three tests. -/
theorem data_of (s : State) (hrow : ∀ c < 8, s.routerRow 0 (s.layerEnt 0 0) (128 * 0 + c) = zeros 256)
    (ht : tileRows (s.profEnt 0 0) (s.layerEnt 0 0) 0 = 8)
    (he : leEtype (s.layerEnt 0 0) = 1) (hg : 0 < segCount (s.layerEnt 0 0)) :
    (s.runData 0 (s.layerEnt 0 0) (s.profEnt 0 0) 0 0 1 [wTok id]).acts = [[List.replicate 128 0x3F800000]]
      ∧ (s.runData 0 (s.layerEnt 0 0) (s.profEnt 0 0) 0 0 1 [wTok id]).wts = [List.replicate 128 (List.replicate 128 0)]
      ∧ (s.runData 0 (s.layerEnt 0 0) (s.profEnt 0 0) 0 0 1 [wTok id]).parts = [[List.replicate 128 0]] := by
  refine runData_zero s 0 _ _ 0 (wTok id) _ he hg (fun c => ?_) (by decide +kernel) (by decide +kernel) (by decide +kernel)
  rw [ht]
  by_cases h : c < 8
  · exact .inl (by rw [if_pos h]; exact hrow c h)
  · exact .inr (if_neg h)

theorem data5 : (press5_s.runData 0 (press5_s.layerEnt 0 0) (press5_s.profEnt 0 0) 0 0 1 [wTok id]).acts
      = [[List.replicate 128 0x3F800000]]
    ∧ (press5_s.runData 0 (press5_s.layerEnt 0 0) (press5_s.profEnt 0 0) 0 0 1 [wTok id]).wts
      = [List.replicate 128 (List.replicate 128 0)]
    ∧ (press5_s.runData 0 (press5_s.layerEnt 0 0) (press5_s.profEnt 0 0) 0 0 1 [wTok id]).parts = [[List.replicate 128 0]] :=
  data_of _ (by decide +kernel) (by decide +kernel) (by decide +kernel) (by decide +kernel)

/-- The check of a run of those on array 0, with these faulty cells, fails or does not. -/
def badRun (s : State) (errs : List CellErr) : Bool :=
  let d := s.runData 0 (s.layerEnt 0 0) (s.profEnt 0 0) 0 0 1 [wTok id]
  (runChecks 1 ((s.press.runCnt.getD 0 1 - 1) % 1) errs d.acts d.wts (withErrs 1 errs d.parts)).bad

/-- PressCompletes, clause 5: a run over zero weights passes its checks. -/
theorem test_press5 :
    press5_s.sound ∧ badRun press5_s [] = false
    ∧ press5_s.press.runs = [press3_r] ∧ press3_r.span = [(0, 0)] ∧ press3_r.job = .step 0 ∧ press3_r.part = 0
    ∧ press5_s.curPass 0 = some wBlk ∧ wBlk.layer = 0 ∧ press5_s.pass 0 0 = some wBlk
    ∧ setOf (leEtype (press5_s.layerEnt 0 0)) (blockToks wBlk press3_r.block) press3_r.setNo = some (press5_us, 1)
    ∧ press3_r.retry = false := by
  refine ⟨sound_up rfl (by decide +kernel), ?_, by decide +kernel⟩
  simp only [badRun, data5.1, data5.2.1, data5.2.2, Nat.mod_one]
  exact zero_weights_good _ (List.replicate 128 0x3F800000) (List.replicate 128 0x3F800000) (by decide +kernel)
    (by decide +kernel) (by decide +kernel) (by decide +kernel) (by decide +kernel)
/-- PressCompletes, clause 6: a faulty cell fails the check of its row; the other premises are those of clause 5. -/
theorem test_press6 : badRun press5_s press6_errs = true := by
  simp only [badRun, data5.1, data5.2.1, data5.2.2, Nat.mod_one]
  exact zero_weights_bad _ _ (0x3F800000 :: List.replicate 127 0) (by decide +kernel) (by decide +kernel)
/-- PressCompletes, clause 7: the same in a retry. -/
theorem test_press7 :
    press7_s.sound ∧ badRun press7_s press6_errs = true
    ∧ press7_s.press.runs = [press7_r] ∧ press7_r.span = [(0, 0)] ∧ press7_r.job = .step 0 ∧ press7_r.part = 0
    ∧ press7_s.curPass 0 = some wBlk ∧ press7_s.pass 0 0 = some wBlk
    ∧ setOf (leEtype (press7_s.layerEnt 0 0)) (blockToks wBlk press7_r.block) press7_r.setNo = some (press5_us, 1)
    ∧ press7_r.retry = true ∧ bit press7_s.units.arrays 0 = true := by
  refine ⟨sound_up rfl (by decide +kernel), ?_, by decide +kernel⟩
  have d := data_of press7_s (by decide +kernel) (by decide +kernel) (by decide +kernel) (by decide +kernel)
  simp only [badRun, d.1, d.2.1, d.2.2, Nat.mod_one]
  exact zero_weights_bad _ _ (0x3F800000 :: List.replicate 127 0) (by decide +kernel) (by decide +kernel)
/-- MemoryPortsComplete, clause 2. -/
theorem test_memoryPorts2 :
    memoryPorts2_s.frontRead 11 = some (0, memoryPorts2_r) ∧ memoryPorts2_s.sealStall memoryPorts2_r = false
    ∧ memoryPorts2_r.left ≤ validGranules 255 ∧ (∀ p l m k, memoryPorts2_r.obj ≠ .expertOut p l m k) :=
  ⟨by decide +kernel, by decide +kernel, by decide +kernel, fun _ _ _ _ h => by cases h⟩
/-- MemoryPortsComplete, clause 14. -/
theorem test_memoryPorts14 :
    memoryPorts6_s.sound ∧ (∀ g, memoryPorts4_w.obj ≠ .saveArea g) ∧ memoryPorts6_s.memp.buckets.length = 12
    ∧ memoryPorts6_s.powered (rMEM_WERR_CNT 11) = true ∧ memoryPorts6_s.frontWrite 11 = some (0, memoryPorts4_w)
    ∧ memoryPorts6_s.memp.buckets.getD 11 0 < 63 :=
  ⟨sound_up rfl (by decide +kernel), fun _ h => (by cases h), by decide +kernel⟩
/-- MemoryPortsComplete, clause 16. -/
theorem test_memoryPorts16 :
    (∀ p l m k, memoryPorts16_r.obj ≠ .expertOut p l m k) ∧ memoryPorts16_s.nextRetry = some memoryPorts16_r
    ∧ memoryPorts16_r.write = false :=
  ⟨fun _ _ _ _ h => (by cases h), by decide +kernel⟩
/-! #### The whole image of LOAD -/

theorem zeros_slice (n o k : Nat) (h : o + k ≤ n) : slice (zeros n) o k = zeros k := by
  simp only [slice, zeros, List.drop_replicate, List.take_replicate]
  congr 1
  omega
theorem zeros_leNat (n : Nat) : leNat (zeros n) = 0 := by
  induction n with
  | zero => rfl
  | succ n ih => simpa [zeros, List.replicate_succ, leNat] using ih
theorem zeros_fld (n o k : Nat) : fld (zeros n) o k = 0 := by
  simp only [fld, slice, zeros, List.drop_replicate, List.take_replicate]
  exact zeros_leNat _
theorem zeros_allZero (n : Nat) : allZero (zeros n) = true := by
  simp [allZero, zeros]
theorem zeros_length (n : Nat) : (zeros n).length = n := List.length_replicate
theorem zeros_rsv (n o k : Nat) : rsv (zeros n) o k = true := by
  simp only [rsv, slice, zeros, List.drop_replicate, List.take_replicate]
  exact zeros_allZero _
/-- Past a prefix, a run of zeros. -/
theorem slice_past (a : Bytes) (n o k : Nat) (h : a.length ≤ o) (hk : o + k ≤ a.length + n) : slice (a ++ zeros n) o k = zeros k := by
  rw [← zeros_slice n (o - a.length) k (by omega)]
  simp [slice, List.drop_append, List.drop_eq_nil_of_le h]
/-- A field past a prefix. -/
theorem fld_past (a : Bytes) (n o k : Nat) (h : a.length ≤ o) : fld (a ++ zeros n) o k = 0 := by
  have : slice (a ++ zeros n) o k = slice (zeros n) (o - a.length) k := by
    simp [slice, List.drop_append, List.drop_eq_nil_of_le h]
  rw [fld, this]
  exact zeros_fld n _ k
theorem rsv_past (a : Bytes) (n o k : Nat) (h : a.length ≤ o) : rsv (a ++ zeros n) o k = true := by
  have : slice (a ++ zeros n) o k = slice (zeros n) (o - a.length) k := by
    simp [slice, List.drop_append, List.drop_eq_nil_of_le h]
  rw [rsv, this]
  exact zeros_rsv n _ k

theorem fld_slice (b : Bytes) (a n o k : Nat) (h : o + k ≤ n) : fld (slice b a n) o k = fld b (a + o) k := by
  simp only [fld, slice, List.drop_take, List.take_take, List.drop_drop, Nat.min_eq_left (show k ≤ n - o by omega)]

/-- The sections of the image that are not all zero: POWER, HAMPER with an owner group for the system, SCHEDULE with every
resource the system's. -/
def wPower : Bytes := recOf 128 ([(0, 4, 100000), (4, 4, 90000), (8, 4, 1000000), (20, 1, 16)]
  ++ (List.range 15).map (fun i => (32 + 4 * i, 4, 1)))
def wHamper : Bytes := recOf 288 [(32, 1, 1), (33, 1, 8)]
def wSlot : Bytes := List.replicate 26 0x88 ++ zeros 6
def wSched : Bytes := [1, 2] ++ (zeros 14 ++ (List.replicate 16 wSlot).flatten)
/-- Directory entry i: TYPE, offset, length. -/
def wDir (i t o n : Nat) : List (Nat × Nat × Nat) := [(512 + 16 * i, 2, t), (514 + 16 * i, 2, 1), (516 + 16 * i, 4, o), (520 + 16 * i, 4, n)]
/-- The image up to the capacity in SEGMENTS. -/
def wFront : Bytes :=
  recOf 768 ([(12, 4, 741376), (0x16, 2, 10)] ++ wDir 0 1 768 128 ++ wDir 1 5 1024 288 ++ wDir 2 10 1536 528
    ++ wDir 3 4 2304 32832 ++ wDir 4 2 35328 256 ++ wDir 5 3 35584 2048 ++ wDir 6 6 37632 131136 ++ wDir 7 7 168960 524544
    ++ wDir 8 8 693504 4096 ++ wDir 9 12 697600 41280)
  ++ (wPower ++ (zeros 128 ++ (wHamper ++ (zeros 224 ++ (wSched ++ (zeros 240 ++ [1, 0]))))))
def wImage : Bytes := wFront ++ zeros 739070
def wSegs : Bytes := [1, 0] ++ zeros 32830

theorem front_length : wFront.length = 2306 := by decide +kernel
theorem image_zeros (o k : Nat) (h : 2306 ≤ o) (hk : o + k ≤ 741376) : slice wImage o k = zeros k :=
  slice_past _ _ _ _ (by rw [front_length]; exact h) (by rw [front_length]; omega)
theorem image_segs : slice wImage 2304 32832 = wSegs := by
  have h : wImage = wFront.take 2304 ++ (wSegs ++ zeros 706240) := by
    have e : wFront = wFront.take 2304 ++ [1, 0] := by decide +kernel
    have z : zeros 739070 = zeros 32830 ++ zeros 706240 := by simp only [zeros, List.replicate_append_replicate]
    rw [wImage, z, wSegs]
    conv_lhs => rw [e]
    simp only [List.append_assoc]
  have l : (wFront.take 2304).length = 2304 := by rw [List.length_take, front_length]; rfl
  have ls : wSegs.length = 32832 := by simp only [wSegs, zeros, List.length_append, List.length_replicate]; rfl
  have e : slice (wFront.take 2304 ++ (wSegs ++ zeros 706240)) (wFront.take 2304).length wSegs.length = wSegs := by
    simp only [slice, List.drop_left, List.take_left]
  rw [l, ls] at e
  rw [h]
  exact e
theorem image_directory : directory wImage = [(1, 1, 768, 128), (5, 1, 1024, 288), (10, 1, 1536, 528), (4, 1, 2304, 32832),
    (2, 1, 35328, 256), (3, 1, 35584, 2048), (6, 1, 37632, 131136), (7, 1, 168960, 524544), (8, 1, 693504, 4096),
    (12, 1, 697600, 41280)] := by decide +kernel
theorem image_power : slice wImage 768 128 = wPower := by decide +kernel
theorem image_hamper : slice wImage 1024 288 = wHamper := by decide +kernel
theorem image_sched : slice wImage 1536 528 = wSched := by decide +kernel
def wLoaded : ImgSt where
  hdr := wImage.take 512
  sections := [(1, wPower), (2, zeros 256), (3, zeros 2048), (4, wSegs), (5, wHamper), (6, zeros 131136), (7, zeros 524544),
    (8, zeros 4096), (10, wSched), (12, zeros 41280)]
theorem image_sections : { hdr := wImage.take 512, sections := sectionsOf wImage } = wLoaded := by
  have h : sectionsOf wImage = wLoaded.sections := by
    simp only [sectionsOf, image_directory, List.range, List.range.loop, List.filterMap_cons, List.filterMap_nil, List.find?]
    simp [image_power, image_hamper, image_sched, image_segs, image_zeros]
    rfl
  rw [h]
  rfl

theorem sec_zero (t n o k : Nat) (h : wLoaded.sec t = zeros n) : fld (wLoaded.sec t) o k = 0 := by
  rw [h]
  exact zeros_fld n o k
theorem l_power : powerOk (wLoaded.sec 1) = true := by
  show powerOk wPower = true
  decide +kernel
theorem l_pf (p o n : Nat) : wLoaded.pf p o n = 0 := sec_zero 2 256 _ _ rfl
theorem l_gf (p o n : Nat) : wLoaded.gf p o n = 0 := sec_zero 3 2048 _ _ rfl
theorem l_pOk (p : Nat) : wLoaded.pOk p = false := by
  rw [ImgSt.pOk, l_pf]
  exact Bool.and_false _
theorem l_partitions : partitionsOk wLoaded = true := by
  have h : wLoaded.sec 2 = zeros 256 := rfl
  simp only [partitionsOk, l_pf, h, zeros_rsv, zeros_length]
  rfl
theorem l_isStepOf (p g : Nat) : wLoaded.isStepOf p g = false := by
  rw [ImgSt.isStepOf, l_gf]
  rfl
theorem l_groups : groupsOk wLoaded = true := by
  have h : wLoaded.sec 3 = zeros 2048 := rfl
  have g (g : Nat) : Machine.groupOk wLoaded g = true := by
    simp only [Machine.groupOk, l_gf, h, zeros_rsv]
    rfl
  have a : (List.range 64).all (Machine.groupOk wLoaded) = true := List.all_eq_true.2 (fun x _ => g x)
  simp only [groupsOk, a, l_gf, l_pOk, h, zeros_length]
  decide +kernel
theorem seg_ent (p i : Nat) : segEnt wSegs p i = slice wSegs (64 + 4096 * p + 16 * i) 16 := rfl
theorem seg_fld (p i o n : Nat) : fld (segEnt wSegs p i) o n = 0 := by
  have : ∃ k, segEnt wSegs p i = zeros k := by
    refine ⟨min 16 (32830 - (62 + 4096 * p + 16 * i)), ?_⟩
    have h : (64 + 4096 * p + 16 * i) = 2 + (62 + 4096 * p + 16 * i) := by omega
    rw [seg_ent, h]
    simp only [slice, wSegs, zeros]
    rw [← List.drop_drop]
    simp only [List.cons_append, List.drop_succ_cons, List.nil_append, List.drop_replicate,
      List.take_replicate]
  obtain ⟨k, h⟩ := this
  rw [h]
  exact zeros_fld k o n

theorem seg_valid (p : Nat) : validSegs wSegs p = [] := by
  have h (i : Nat) : segPerm wSegs p i = 0 := seg_fld p i 6 1
  simp only [validSegs, h]
  rfl
theorem seg_length : wSegs.length = 32832 := by
  simp only [wSegs, List.length_append, zeros_length]
  rfl
theorem seg_rsv (p i o n : Nat) : rsv (segEnt wSegs p i) o n = true := by
  rw [seg_ent, slice]
  rw [rsv, slice]
  refine List.all_eq_true.2 (fun x hx => ?_)
  have h1 : x ∈ wSegs.drop 2 := by
    have := List.mem_of_mem_drop (List.mem_of_mem_take hx)
    have := List.mem_of_mem_take this
    have h : (64 + 4096 * p + 16 * i) = 2 + (62 + 4096 * p + 16 * i) := by omega
    rw [h, ← List.drop_drop] at this
    exact List.mem_of_mem_drop this
  have h2 : x ∈ zeros 32830 := h1
  have h3 : x = 0 := List.eq_of_mem_replicate h2
  rw [h3]
  rfl
theorem l_segments : segmentsOk wLoaded = true := by
  have h : wLoaded.sec 4 = wSegs := rfl
  have c : fld wSegs 0 2 = 1 := by decide +kernel
  have r : rsv wSegs 2 62 = true := by decide +kernel
  have f (p i : Nat) : segPerm wSegs p i = 0 := seg_fld p i 6 1
  simp only [segmentsOk, h, c, r, f, seg_valid, seg_rsv, seg_length]
  decide +kernel
theorem l_hamper : hamperOk wLoaded = true := by
  have h : wLoaded.sec 5 = wHamper := rfl
  have c : capBytes wSegs = 12 * 2 ^ 30 := by decide +kernel
  have h4 : wLoaded.sec 4 = wSegs := rfl
  simp only [hamperOk, ImgSt.fits, ImgSt.pool, ImgSt.linkArr, h, h4, c, l_pOk]
  decide +kernel
theorem l_layers : layersOk wLoaded = true := by
  have h : wLoaded.sec 6 = zeros 131136 := rfl
  have b (p : Nat) : wLoaded.biasArea p = (0, 8388608) := by rw [ImgSt.biasArea, h, zeros_fld]
  have s (a n : Nat) : allZero (slice (zeros 131136) a n) = true := zeros_rsv _ a n
  simp only [layersOk, h, b, s, l_pf, l_pOk, zeros_length, List.range_zero, List.map_nil, reserveOk, List.all_nil,
    decide_true, Bool.and_true, Bool.true_and, Bool.false_eq_true, if_false]
  exact List.all_eq_true.2 (fun _ _ => rfl)
theorem l_placement : placementOk wLoaded = true := by
  have h : wLoaded.sec 7 = zeros 524544 := rfl
  have f (n o k : Nat) : fld (wLoaded.map n) o k = 0 := by
    rw [ImgSt.map, h]
    simp only [slice, zeros, List.drop_replicate, List.take_replicate]
    exact zeros_fld _ o k
  have z (n : Nat) : allZero (wLoaded.map n) = true := by
    rw [ImgSt.map, h]
    exact zeros_rsv _ _ _
  simp only [placementOk, h, f, z, zeros_length]
  rfl
theorem l_profiles : profilesOk wLoaded = true := by
  have h : wLoaded.sec 8 = zeros 4096 := rfl
  have z (p i : Nat) : profUnused (wLoaded.prof p i) = true := by
    rw [ImgSt.prof, h]
    exact zeros_rsv _ _ _
  simp only [profilesOk, h, z, zeros_length]
  rfl
theorem l_schedule : scheduleOk wLoaded = true := by
  have h : wLoaded.sec 10 = wSched := rfl
  have w : (List.range 16).all (fun k => slice wSched (16 + 32 * k) 32 == wSlot) = true := by decide +kernel
  have o : (List.range 52).all (fun r => bits (fld wSlot (r / 2) 1) (4 * (r % 2)) 4 == 8) = true := by decide +kernel
  have o' (k r : Nat) (hk : k < 16) (hr : r < 52) : slotOwner wSched 0 k r = 8 := by
    have h1 : slice wSched (16 + 32 * k) 32 = wSlot := by
      simpa using List.all_eq_true.1 w k (List.mem_range.2 hk)
    have h2 : bits (fld wSlot (r / 2) 1) (4 * (r % 2)) 4 = 8 := by
      simpa using List.all_eq_true.1 o r (List.mem_range.2 hr)
    rw [← h1, fld_slice _ _ _ _ _ (by omega)] at h2
    have h3 : 16 + (16 * 0 + k) * 32 + r / 2 = 16 + 32 * k + r / 2 := by omega
    rw [slotOwner, h3]
    exact h2
  have n : fld wSched 0 1 = 1 := by decide +kernel
  have rest : (within 1 1 16 && within (fld wSched 1 1) 2 64 && decide (wSched.length = 16 + 512 * 1) && rsv wSched 2 14
    && (List.range 16).all (fun k => rsv wSched (16 + (16 * 0 + k) * 32 + 26) 6)) = true := by decide +kernel
  simp only [Bool.and_eq_true] at rest
  obtain ⟨⟨⟨⟨r1, r2⟩, r3⟩, r4⟩, r5⟩ := rest
  simp only [scheduleOk, h, n, r1, r2, r3, r4, Bool.true_and, Bool.and_eq_true, List.all_eq_true, List.mem_range]
  refine ⟨fun f hf k hk => ⟨?_, fun r hr => ?_⟩, fun r hr => ?_⟩
  · have : f = 0 := by omega
    subst this
    exact List.all_eq_true.1 r5 k (List.mem_range.2 hk)
  · have : f = 0 := by omega
    subst this
    rw [o' k r hk hr]
    rfl
  · rw [Bool.or_eq_true]
    refine Or.inr ?_
    exact List.any_eq_true.2 ⟨0, by decide, List.any_eq_true.2 ⟨0, by decide, by rw [o' 0 r (by decide) (by omega)]; rfl⟩⟩
theorem l_fold : foldOk wLoaded = true := by
  have h : wLoaded.sec 12 = zeros 41280 := rfl
  have h4 : wLoaded.sec 4 = wSegs := rfl
  have h5 : wLoaded.sec 5 = wHamper := rfl
  have c : capBytes wSegs = 12 * 2 ^ 30 := by decide +kernel
  have hp : wLoaded.pool = (0, 0) ∧ wLoaded.linkArr = (0, 0) := by
    rw [ImgSt.pool, ImgSt.linkArr, h5]
    decide +kernel
  have f (i o k : Nat) : fld (foldBlock (zeros 41280) i) o k = 0 := by
    simp only [foldBlock, slice, zeros, List.drop_replicate, List.take_replicate]
    exact zeros_fld _ o k
  have z (i : Nat) : allZero (foldBlock (zeros 41280) i) = true := zeros_rsv _ _ _
  simp only [foldOk, ImgSt.fits, h, h4, c, hp.1, hp.2, f, z, l_pOk, seg_valid, zeros_fld, zeros_rsv, zeros_length]
  decide +kernel
theorem image_sound : firstBadSection wLoaded = none := by
  have h9 : biasOk wLoaded = true := by
    show biasOk { wLoaded with sections := [] } = true
    decide +kernel
  have h11 : bit (fld wLoaded.hdr 0x15 1) 2 = false := by decide +kernel
  have h13 : wLoaded.sections.any (fun e => e.1 == 13) = false := rfl
  simp only [firstBadSection, List.find?_eq_none]
  intro t ht
  have : t < 14 := List.mem_range.1 ht
  interval_cases t <;> simp [sectionOk, l_power, l_partitions, l_groups, l_segments, l_hamper, l_layers, l_placement,
    l_profiles, h9, l_schedule, h11, l_fold, h13]

/-- A member in LOAD whose verified copy is this image. -/
def startStates6_s : State := { wAt 6 with boot := { (wAt 6).boot with imgHash := imgHashOf wImage } }
/-- StartStatesComplete, clause 6. -/
theorem test_startStates6 : startStates6_s.boot.rstLow = false ∧ startStates6_s.boot.state = 6
    ∧ startStates6_s.boot.waiting = none ∧ imgHashOf wImage = startStates6_s.boot.imgHash
    ∧ startStates6_s.power.alertLow = false ∧ startStates6_s.seam.rspWait = []
    ∧ firstBadSection { hdr := wImage.take 512, sections := sectionsOf wImage } = none :=
  ⟨by decide, by decide, by decide, by
    simp only [startStates6_s], by decide, by decide, by
    rw [image_sections]
    exact image_sound⟩
/-! #### Memory cells -/

theorem keys_cells (b : Nat) (bs : Bytes) : ∀ c ∈ cells b bs, b ≤ c.1 := by
  induction bs generalizing b with
  | nil => simp [cells]
  | cons x r ih =>
    intro c hc
    simp only [cells] at hc
    split at hc
    · have := ih (b + 1) c hc; omega
    · rcases List.mem_cons.1 hc with rfl | h
      · exact Nat.le_refl _
      · have := ih (b + 1) c h; omega

theorem above_cells (k b : Nat) (bs : Bytes) (h : k < b) : spAbove k (cells b bs) = true := by
  induction bs generalizing b with
  | nil => rfl
  | cons x r ih =>
    simp only [cells]
    split
    · exact ih (b + 1) (by omega)
    · simp [spAbove, h, ih (b + 1) (by omega)]

theorem wf_cells (b : Nat) (bs : Bytes) : spWf (cells b bs) = true := by
  induction bs generalizing b with
  | nil => rfl
  | cons x r ih =>
    simp only [cells]
    split
    · exact ih _
    · rename_i h
      have h' : ¬x = 0#8 := h
      simp [spWf, h', ih, above_cells]

theorem above_append (k : Nat) (x y : List Host.Cell) :
    spAbove k (x ++ y) = (spAbove k x && spAbove k y) := by
  induction x with
  | nil => simp [spAbove]
  | cons a r ih => simp [spAbove, ih, Bool.and_assoc]

theorem wf_append (x y : List Host.Cell) (hx : spWf x = true) (hy : spWf y = true)
    (h : ∀ c ∈ x, spAbove c.1 y = true) : spWf (x ++ y) = true := by
  induction x with
  | nil => exact hy
  | cons a r ih =>
    simp only [spWf, Bool.and_eq_true] at hx
    simp [spWf, above_append, hx.1.2, ih hx.2 (fun c hc => h c (List.mem_cons_of_mem _ hc)), h a List.mem_cons_self]
    simpa using hx.1.1

theorem get_left (x y : List Host.Cell) (k : Nat) (h : ∀ c ∈ y, c.1 ≠ k) : spGet (x ++ y) k = spGet x k := by
  induction x with
  | nil =>
    induction y with
    | nil => rfl
    | cons a r ih =>
      simp only [List.nil_append, spGet, if_neg (h a List.mem_cons_self)]
      exact ih (fun c hc => h c (List.mem_cons_of_mem _ hc))
  | cons a r ih => simp only [List.cons_append, spGet, ih]

theorem get_right (x y : List Host.Cell) (k : Nat) (h : ∀ c ∈ x, c.1 ≠ k) : spGet (x ++ y) k = spGet y k := by
  induction x with
  | nil => rfl
  | cons a r ih =>
    simp only [List.cons_append, spGet, if_neg (h a List.mem_cons_self)]
    exact ih (fun c hc => h c (List.mem_cons_of_mem _ hc))

theorem get_cells (b : Nat) (bs : Bytes) (o : Nat) : spGet (cells b bs) (b + o) = bs.getD o 0 := by
  induction bs generalizing b o with
  | nil => rfl
  | cons x r ih =>
    have hn : ∀ c ∈ cells (b + 1) r, c.1 ≠ b := fun c hc => by have := keys_cells (b + 1) r c hc; omega
    cases o with
    | zero =>
      simp only [cells]
      split
      · rename_i h
        have := get_left [] (cells (b + 1) r) b hn
        simpa [h, spGet] using this
      · simp [spGet]
    | succ o =>
      have e : b + (o + 1) = b + 1 + o := by omega
      simp only [cells]
      split
      · rw [e, ih]; rfl
      · rw [spGet, if_neg (by omega), e, ih]; rfl

theorem read_cells (x : List Host.Cell) (b : Nat) (bs : Bytes) (h : ∀ c ∈ x, c.1 < b) (o n : Nat)
    (hn : o + n ≤ bs.length) : memRead (x ++ cells b bs) (b + o) n = slice bs o n := by
  induction n generalizing o with
  | zero => simp [memRead, slice]
  | succ n ih =>
    have hd : bs.drop o = bs.getD o 0 :: bs.drop (o + 1) := by
      rw [List.getD_eq_getElem _ _ (by omega)]
      exact List.drop_eq_getElem_cons (by omega)
    rw [memRead, get_right _ _ _ (fun c hc => by have := h c hc; omega), get_cells, Nat.add_assoc, ih (o + 1) (by omega)]
    simp [slice, hd]

theorem read_below (x : List Host.Cell) (b : Nat) (bs : Bytes) (a n : Nat) (h : a + n ≤ b) :
    memRead (x ++ cells b bs) a n = memRead x a n := by
  induction n generalizing a with
  | zero => rfl
  | succ n ih =>
    rw [memRead, memRead, get_left _ _ _ (fun c hc => by have := keys_cells b bs c hc; omega), ih (a + 1) (by omega)]

/-! #### A journal entry, whose STEP_HEAD names the class and whose CRC covers it -/

/-- A step with one token row, in the past of a member with a FOLD block and a privileged INSTRUCTION group 1. -/
def wPast : StepSt := { wRun (wPass [] id) with passes := [] }
def wOld : State :=
  let s := part0 { wFull none with issueF := 16 } wIdle
  { s with img := { s.img with sections := (12, wFold 512) :: wSectsOf 0 28 } }
def entHead : Bytes := wOld.recHead 0 wPast
def entSegs : Bytes := recSegs 0 wPast
def entPass : Bytes := recPass 0 0 5 0 (freshMicro 0 980)
def entEnd : Bytes := recEnd 0 wPast 0 999 (entHead ++ (entSegs ++ entPass))
def entry : Bytes := entHead ++ (entSegs ++ (entPass ++ entEnd))

theorem length_entHead : entHead.length = 192 := by decide +kernel
theorem length_entSegs : entSegs.length = 64 := by decide +kernel
theorem length_entPass : entPass.length = 64 := by decide +kernel
theorem length_entEnd : entEnd.length = 64 := by decide +kernel
theorem length_entry : entry.length = 384 := by decide +kernel
theorem slice_head : slice entry 0 192 = entHead := by
  rw [slice, List.drop_zero, ← length_entHead, entry, List.take_left]
theorem slice_segs : slice entry 192 64 = entSegs := by
  rw [slice, ← length_entHead, entry, List.drop_left, ← length_entSegs, List.take_left]
theorem slice_pass : slice entry 256 64 = entPass := by
  have h : entry = (entHead ++ entSegs) ++ (entPass ++ entEnd) := by simp [entry]
  have l : (entHead ++ entSegs).length = 256 := by rw [List.length_append, length_entHead, length_entSegs]
  rw [slice, h, ← l, List.drop_left, ← length_entPass, List.take_left]
theorem slice_end : slice entry 320 64 = entEnd := by
  have h : entry = (entHead ++ (entSegs ++ entPass)) ++ entEnd := by simp [entry]
  have l : (entHead ++ (entSegs ++ entPass)).length = 320 := by
    rw [List.length_append, List.length_append, length_entHead, length_entSegs, length_entPass]
  rw [slice, h, ← l, List.drop_left, ← length_entEnd, List.take_length]

/-- The bytes of a STEP_HEAD between its head and ARITH_CLASS. -/
def beforeClass : Bytes :=
  toLE 8 (wPast.launchAt.getD 0)
    ++ (toLE 8 (if (wOld.foldOf wPast.group).isSome then (wOld.tseed wPast.group wPast.stepNo).toNat else 0)
    ++ (wPast.epochs.flatMap (toLE 4) ++ ((wOld.part 0).tables.flatMap (fun t => toLE 8 t.live.digest)
    ++ (wOld.boot.imgHash.take 48 ++ zeros (48 - wOld.boot.imgHash.length)))))

theorem arith_lt : arithClass < 256 ^ 4 := by
  have h : Config.implClass.toNat < 2 ^ 16 := Config.implClass.isLt
  unfold arithClass
  generalize Config.implClass.toNat = n at h
  omega

/-- The class that the entry names is the implementation's. -/
theorem class_entHead : fld entHead 128 4 = arithClass := by
  have e : ∃ n c, entHead = (jrnHead 1 0 0 n wPast.stepNo ++ beforeClass) ++ (toLE 4 arithClass ++ c) := by
    simp only [entHead, State.recHead, jrnRecord, beforeClass, List.append_assoc]
    exact ⟨_, _, rfl⟩
  obtain ⟨n, c, e⟩ := e
  have l : (jrnHead 1 0 0 n wPast.stepNo ++ beforeClass).length = 128 := by
    have : beforeClass.length = 112 := by decide +kernel
    rw [List.length_append, this]
    simp [jrnHead]
  have := fld_after (jrnHead 1 0 0 n wPast.stepNo ++ beforeClass) c 4 arithClass arith_lt
  rw [← e, l] at this
  exact this

theorem word_lt (x : BitVec 64) : x.toNat < 256 ^ 8 := x.isLt

/-- The CRC of the entry stands in its last field. -/
theorem crc_entry : fld entEnd 56 8 = (crc64 (entHead ++ (entSegs ++ entPass) ++ entEnd.take 56)).toNat := by
  have e : ∃ b : Bytes, b.length = 56 ∧ entEnd = b ++ toLE 8 (crc64 (entHead ++ (entSegs ++ entPass) ++ b)).toNat :=
    ⟨_, by decide +kernel, rfl⟩
  obtain ⟨b, hb, he⟩ := e
  have ht : entEnd.take 56 = b := by rw [he, ← hb, List.take_left]
  rw [ht, he]
  have := fld_after b [] 8 (crc64 (entHead ++ (entSegs ++ entPass) ++ b)).toNat (word_lt _)
  rw [hb, List.append_nil] at this
  exact this

/-- The entry is whole. -/
theorem entry_ok : entryOk 0 [entHead, entSegs, entPass, entEnd] = true := by
  have h : ([entHead, entSegs, entPass, entEnd].dropLast.flatten : Bytes) = entHead ++ (entSegs ++ entPass) := by simp
  simp only [entryOk, List.getLastD_cons, h, ← crc_entry, List.getLastD_nil, beq_self_eq_true, Bool.and_true]
  decide +kernel

/-! #### REPLAY -/

/-- The REPLAY command of a target and a node. -/
def wRep (target node : Nat) : Bytes :=
  wDesc 5 [(16, 8, 0x60000), (26, 1, target), (28, 2, node), (32, 8, 0x50000), (56, 8, 0x50080)]
/-- Memory below the entry: the command at HEAD of group 1 and the tensor descriptors. -/
def wLowMem (target node : Nat) (i o : Bytes) : List Host.Cell :=
  cells 0x102000 (wRep target node) ++ (cells 0x150000 i ++ cells 0x150080 o)
/-- The member with the entry above that. -/
def replaying (m : List Host.Cell) : State :=
  ({ wOld with mem := m ++ cells 0x160000 entry } : State).onGroup 1 (fun x => { x with tail := 1, tailEff := 1, fetch := 9 })
/-- The same without the entry. -/
def without (m : List Host.Cell) : State := { replaying m with mem := m }
/-- The same with the command running. -/
def replayCmd (d : Bytes) (m : List Host.Cell) : State := running 1 { wCmd 0 with desc := d } (replaying m)
/-- What the fault checks of REPLAY read. -/
def wTabsOf (m : List Host.Cell) : RepTabs :=
  { e := wLayer, pr := wProf, mp := wMap 8, bias := (replaying m).biasVals 0 0 0 8, epochs := [0, 0, 0, 0] }
def wRepOf (target node : Nat) (m : List Host.Cell) : Rep :=
  { target := target, layer := 0, node := node, head := entHead, recs := [entHead, entSegs, entPass, entEnd]
    tabs := wTabsOf m }

theorem rd_entry (m : List Host.Cell) (h : (m.all (fun c => decide (c.1 < 0x160000))) = true) (o n : Nat)
    (hn : o + n ≤ 384) : (replaying m).rd (0x160000 + o) n = slice entry o n :=
  read_cells m 0x160000 entry (by simpa using h) o n (by rw [length_entry]; exact hn)

/-- One record of the entry is read. -/
theorem entry_step (m : List Host.Cell) (h : (m.all (fun c => decide (c.1 < 0x160000))) = true) (n o len : Nat)
    (r : Bytes) (h0 : 0 < len) (hlen : o + len ≤ 384) (hr : slice entry o len = r)
    (h1 : translate (wOld.sect 4) 0 (0x60000 + o) 64 2 = some (0x160000 + o))
    (h2 : translate (wOld.sect 4) 0 (0x60000 + o) len 2 = some (0x160000 + o)) (h3 : o + 16 ≤ 384)
    (hw : fld (slice entry o 16) 4 4 = len) (h4 : len % 64 = 0) :
    (replaying m).entryAt 0 (n + 1) (0x60000 + o) = if fld r 0 1 = 5 then .inl [r]
      else match (replaying m).entryAt 0 n (0x60000 + o + len) with
        | .inl rs => .inl (r :: rs)
        | .inr k => .inr k := by
  have t1 : (replaying m).tr 0 (0x60000 + o) 64 2 = some (0x160000 + o) := h1
  have t2 : (replaying m).tr 0 (0x60000 + o) len 2 = some (0x160000 + o) := h2
  have c : ¬(len % 64 ≠ 0 ∨ len = 0) := by omega
  rw [State.entryAt, t1]
  simp only [rd_entry m h o 16 h3, hw, if_neg c, t2, rd_entry m h o len hlen, hr] <;> rfl

theorem entry_at (m : List Host.Cell) (h : (m.all (fun c => decide (c.1 < 0x160000))) = true) :
    (replaying m).entryAt 0 67 0x60000 = .inl [entHead, entSegs, entPass, entEnd] := by
  have a4 : (replaying m).entryAt 0 64 (0x60000 + 320) = .inl [entEnd] := by
    rw [entry_step m h 63 320 64 entEnd (by decide) (by decide) slice_end (by decide +kernel) (by decide +kernel)
      (by decide) (by decide +kernel) (by decide), if_pos (by decide +kernel)]
  have a3 : (replaying m).entryAt 0 65 (0x60000 + 256) = .inl [entPass, entEnd] := by
    rw [entry_step m h 64 256 64 entPass (by decide) (by decide) slice_pass (by decide +kernel) (by decide +kernel)
      (by decide) (by decide +kernel) (by decide), if_neg (by decide +kernel), a4]
  have a2 : (replaying m).entryAt 0 66 (0x60000 + 192) = .inl [entSegs, entPass, entEnd] := by
    rw [entry_step m h 65 192 64 entSegs (by decide) (by decide) slice_segs (by decide +kernel) (by decide +kernel)
      (by decide) (by decide +kernel) (by decide), if_neg (by decide +kernel), a3]
  have a1 := entry_step m h 66 0 192 entHead (by decide) (by decide) slice_head (by decide +kernel) (by decide +kernel)
      (by decide) (by decide +kernel) (by decide)
  rw [if_neg (by decide +kernel), a2] at a1
  exact a1

/-- The descriptors are checked as though the entry were not there. -/
theorem td_check (m : List Host.Cell) (addr a : Nat) (w : Bool) (f : Td → Bool)
    (h : translate (wOld.sect 4) 0 addr 128 2 = some a) (ha : a + 128 ≤ 0x160000) :
    (replaying m).tdCheck 0 addr w f = (without m).tdCheck 0 addr w f := by
  have t1 : (replaying m).tr 0 addr 128 2 = some a := h
  have t2 : (without m).tr 0 addr 128 2 = some a := h
  have hr : (replaying m).rd a 128 = (without m).rd a 128 := read_below m 0x160000 entry a 128 ha
  unfold State.tdCheck
  rw [t1, t2]
  simp only [hr]
  rfl
theorem rep_tabs (m : List Host.Cell) : (replaying m).repTabs 0 0 false [] entHead = some (wTabsOf m) := by
  have b (n : Nat) (h : n < 4) : (replaying m).repBank 0 n false [] entHead = some ((wOld.tab 0 n).live) := by
    have : ∀ n < 4, wOld.repBank 0 n false [] entHead = some ((wOld.tab 0 n).live) := by decide +kernel
    exact this n h
  simp only [State.repTabs, b 0 (by decide), b 1 (by decide), b 2 (by decide), b 3 (by decide)]
  rfl

/-- REPLAY of a target finds its entry, its tables and its descriptors. -/
theorem rep_ok (target node : Nat) (m : List Host.Cell) (hm : (m.all (fun c => decide (c.1 < 0x160000))) = true)
    (h1 : fld (wRep target node) 26 1 = target ∧ fld (wRep target node) 24 2 = 0 ∧ fld (wRep target node) 27 1 = 0
      ∧ fld (wRep target node) 28 2 = node ∧ fld (wRep target node) 16 8 = 0x60000 ∧ fld (wRep target node) 32 8 = 0x50000
      ∧ fld (wRep target node) 40 8 = 0 ∧ fld (wRep target node) 48 8 = 0 ∧ fld (wRep target node) 56 8 = 0x50080)
    (h2 : (!headRsv (wRep target node) || !rsv (wRep target node) 30 2 || decide (5 < target)) = false)
    (h3 : (if target = 5 then !within node 1 2047 else decide (node ≠ 0)) = false)
    (h4 : ¬(target = 5 ∧ (!(replaying m).gPriv 1 ∨ fld (foldLayer ((replaying m).redBlock ((replaying m).stepGroup 0)) 0) 0 8 = 0
      ∨ (!(replaying m).arrFree 0 ∧ slice entHead 80 48
        ≠ (replaying m).boot.imgHash.take 48 ++ zeros (48 - (replaying m).boot.imgHash.length)))))
    (h5 : (without m).tdCheck 0 0x50000 false ((replaying m).repShape 0 (wRepOf target node m) 0) = 0)
    (h6 : (without m).tdCheck 0 0x50080 true ((replaying m).repShape 0 (wRepOf target node m) 3) = 0) :
    (replaying m).repOf 1 [] (wRep target node) = .inl (wRepOf target node m) := by
  obtain ⟨e1, e2, e3, e4, e5, e6, e7, e8, e9⟩ := h1
  have hp : (replaying m).gPart 1 = 0 := by
    show wOld.gPart 1 = 0
    decide +kernel
  have hl : (replaying m).pLayers 0 = 2 := by
    show wOld.pLayers 0 = 2
    decide +kernel
  have hf : (wRepOf target node m).fuse 2 = false ∧ (wRepOf target node m).fuse 0 = false := by
    show bit (fld entHead 152 1) 2 = false ∧ bit (fld entHead 152 1) 0 = false
    decide +kernel
  have hn : (replaying m).mostRecs 0 = 67 := by
    show wOld.mostRecs 0 = 67
    decide +kernel
  have hq : (passRecs 0 [entHead, entSegs, entPass, entEnd]).isEmpty = false := by decide +kernel
  have hd : (replaying m).repTdFault 0 (wRep target node) (wRepOf target node m) = 0 := by
    simp only [State.repTdFault, e6, e7, e8, e9, hf, td_check m 0x50000 0x150000 _ _ (by decide +kernel) (by decide),
      td_check m 0x50080 0x150080 _ _ (by decide +kernel) (by decide), h5, h6]
    simp [firstFault]
  simp only [Bool.or_eq_false_iff] at h2
  have b0 : bit 0 0 = false := rfl
  have hd' := hd
  simp only [wRepOf] at hd'
  simp only [State.repOf, hp, hl, hn, e1, e2, e3, e4, e5, e7, e8, h2, h3, entry_at m hm, entry_ok, class_entHead, b0, rep_tabs m,
    List.headD_cons, if_neg h4, hq, hd', wRepOf]
  simp
theorem rep_sound (m : List Host.Cell) (hm : (m.all (fun c => decide (c.1 < 0x160000))) = true) (hw : spWf m = true) :
    (replaying m).sound := by
  refine sound_up (show (replaying m).boot = wBoot from rfl) ?_
  have h : spWf (replaying m).mem = true := wf_append m _ hw (wf_cells _ _) (fun c hc => above_cells _ _ _ (by
    simpa using List.all_eq_true.1 hm c hc))
  rw [h, Bool.true_and]
  rfl

/-- The command of a target stands at HEAD, and its partition's cores are free. -/
theorem rep_taken (target node : Nat) (i o : Bytes) (m : List Host.Cell) (hx : m = wLowMem target node i o)
    (hm : (m.all (fun c => decide (c.1 < 0x160000))) = true) (hw : spWf m = true)
    (hr : memRead m 0x102000 64 = wRep target node) (hc : classOk true (fld (wRep target node) 0 1) = true)
    (h8 : fld (wRep target node) 8 8 = 0x8000) (h0 : fld (wRep target node) 0 1 = 5)
    (hh : headRsv (wRep target node) = true) : taken (replaying m) 1 (wRep target node) 5 (repReads 1) := by
  subst hx
  have hd : (replaying (wLowMem target node i o)).headDesc 1 = some (wRep target node) := by
    have ht : (replaying (wLowMem target node i o)).tr ((replaying (wLowMem target node i o)).gPart 1)
        ((replaying (wLowMem target node i o)).gcfg 1 8 8
          + 64 * (((replaying (wLowMem target node i o)).group 1).head % 2 ^ (replaying (wLowMem target node i o)).gcfg 1 3 1))
        64 2 = some 0x102000 := by
      show wOld.tr (wOld.gPart 1) (wOld.gcfg 1 8 8 + 64 * (0 % 2 ^ wOld.gcfg 1 3 1)) 64 2 = some 0x102000
      decide +kernel
    rw [State.headDesc, ht]
    exact congrArg some ((read_below _ 0x160000 entry 0x102000 64 (by decide)).trans hr)
  have hy : (replaying []).ready 1 = true := by decide +kernel
  have hg : (replaying (wLowMem target node i o)).gBatch 1 = true := by
    show wOld.gBatch 1 = true
    decide +kernel
  have ht : ((replaying (wLowMem target node i o)).tr ((replaying (wLowMem target node i o)).gPart 1) 0x8000 32 4).isNone = false := by
    show (wOld.tr (wOld.gPart 1) 0x8000 32 4).isNone = false
    decide +kernel
  have hf : (replaying (wLowMem target node i o)).headFault 1 (wRep target node) = 0 := by
    simp only [State.headFault, hg, hc, h8, ht]
    rfl
  refine ⟨rep_sound _ hm hw, hy, hd, hf, h0, hh, ?_⟩
  refine ⟨show (9 : Nat) ≠ 0 by decide, rfl, ?_⟩
  rw [State.toRead, if_pos hf]
  rfl

/-- No other command of the partition goes before it. -/
theorem rep_free (m : List Host.Cell) : (replaying m).coresFree 1 0 = true := by
  have alone (f : Nat → Bool) (b : Nat) (hb : b < 64) : (wOld.gValid b && wOld.gBatch b && wOld.gPart b == wOld.gPart 1
      && decide (wOld.gPrio b < wOld.gPrio 1) && f b) = false ∧ (wOld.gValid b && wOld.gBatch b && wOld.gPart b == wOld.gPart 1
      && wOld.gPrio b == wOld.gPrio 1 && decide (b < 1) && f b) = false := by
    have h : ∀ b < 64, (wOld.gValid b && wOld.gBatch b && wOld.gPart b == wOld.gPart 1
      && decide (wOld.gPrio b < wOld.gPrio 1)) = false ∧ (wOld.gValid b && wOld.gBatch b && wOld.gPart b == wOld.gPart 1
      && wOld.gPrio b == wOld.gPrio 1 && decide (b < 1)) = false := by decide +kernel
    rw [(h b hb).1, (h b hb).2]
    exact ⟨rfl, rfl⟩
  have o : (List.range 64).any (fun b => (replaying m).outranks b 1) = false := by
    rw [List.any_eq_false]
    exact fun b hb => Bool.not_eq_true _ ▸ (alone (replaying m).runnable b (List.mem_range.1 hb)).1
  have n : (List.range 64).all (fun b => !(replaying m).standsBefore b 1) = true := by
    rw [List.all_eq_true]
    exact fun b hb => (congrArg not (alone (replaying m).runnable b (List.mem_range.1 hb)).2 : _ = !false)
  have c : (replaying m).coresWanted ((replaying m).gPart 1) = false := by
    show wOld.coresWanted (wOld.gPart 1) = false
    decide +kernel
  have k : ((replaying []).part ((replaying []).gPart 1)).state == 1 && !(replaying []).batchHasCores ((replaying []).gPart 1)
      && !(replaying []).lentNow ((replaying []).gPart 1) && !(replaying []).layerHeld ((replaying []).gPart 1) 0 := by
    decide +kernel
  simp only [Bool.and_eq_true] at k
  simp only [State.coresFree, State.highest, State.preempted, c, o, n, Bool.and_eq_true]
  exact ⟨⟨k.1.1.1, ⟨⟨⟨rfl, k.1.1.2⟩, k.1.2⟩, trivial⟩⟩, k.2⟩

/-- The premises of a replay that begins. -/
def begins (m : List Host.Cell) (d : Bytes) : Prop :=
  taken (replaying m) 1 d 5 (repReads 1) ∧ ((replaying m).group 1).cur = none ∧ (replaying m).coresFree 1 (fld d 24 2) = true
    ∧ ∃ r, (replaying m).repOf 1 [] d = .inl r

/-- The premises of a replay that runs. -/
def runs (m : List Host.Cell) (d : Bytes) : Prop :=
  (replayCmd d m).sound ∧ ((replayCmd d m).group 1).cur = some { wCmd 0 with desc := d }
    ∧ (replayCmd d m).reading (.command 1) = false ∧ fld d 0 1 = 5
    ∧ ((replayCmd d m).part ((replayCmd d m).gPart 1)).state = 1
    ∧ (replayCmd d m).mayIssue ((replayCmd d m).gPart 1) = true
    ∧ (replayCmd d m).layerHeld ((replayCmd d m).gPart 1) (fld d 24 2) = false
    ∧ (wCmd 0).job.all (fun j => j.done && j.pass.toks.all ((replayCmd d m).rowOver (.batch 1) j)) = true
    ∧ (replayCmd d m).powered rJRN_LAST_REPLAY = true
    ∧ ∃ r, (replayCmd d m).repOf 1 (wCmd 0).epochs d = .inl r

set_option maxRecDepth 10000 in
theorem both (target node : Nat) (m : List Host.Cell) (ht : taken (replaying m) 1 (wRep target node) 5 (repReads 1))
    (hl : fld (wRep target node) 24 2 = 0) (hr : (replaying m).repOf 1 [] (wRep target node) = .inl (wRepOf target node m)) :
    begins m (wRep target node) ∧ runs m (wRep target node) := by
  have c2 : ((replaying []).part 0).state = 1 := by decide +kernel
  have c3 : (replaying []).mayIssue 0 = true := by decide +kernel
  have c5 : (replaying []).powered rJRN_LAST_REPLAY = true := by decide +kernel
  have c4 : (replaying []).layerHeld 0 0 = false := by decide +kernel
  have hp : (replayCmd (wRep target node) m).gPart 1 = 0 := by
    show wOld.gPart 1 = 0
    decide +kernel
  have hs : (replayCmd (wRep target node) m).sound := by
    have h := ht.1
    refine ⟨h.1, ⟨h.2.1.1, ?_, h.2.1.2.2⟩, h.2.2⟩
    have := h.2.1.2.1
    simpa [replayCmd, running, State.onGroup, length_setAt] using this
  exact ⟨⟨ht, rfl, by rw [hl]; exact rep_free m, _, hr⟩,
    ⟨hs, rfl, rfl, ht.2.2.2.2.1, by rw [hp]; exact c2, by rw [hp]; exact c3, by rw [hp, hl]; exact c4, rfl, c5, _, hr⟩⟩

def rIn : Bytes := wTd 1 0x60000 [128, 1] [1, 128]
def rOut0 : Bytes := wTd 0 0x70000 [128, 1] [1, 128]
def rMem0 : List Host.Cell := wLowMem 0 0 rIn rOut0
/-- ReplaysComplete, clauses 1 and 7. -/
theorem test_replays1 : begins rMem0 (wRep 0 0) ∧ runs rMem0 (wRep 0 0) ∧ fld (wRep 0 0) 26 1 = 0 :=
  have h : begins rMem0 (wRep 0 0) ∧ runs rMem0 (wRep 0 0) := both 0 0 rMem0
    (rep_taken 0 0 rIn rOut0 rMem0 rfl (by decide +kernel) (by decide +kernel) (by decide +kernel) (by decide +kernel)
      (by decide +kernel) (by decide +kernel) (by decide +kernel)) (by decide +kernel)
    (rep_ok 0 0 rMem0 (by decide +kernel) (by decide +kernel) (by decide +kernel) (by decide +kernel) (by decide +kernel)
      (by decide +kernel) (by decide +kernel))
  ⟨h.1, h.2, by decide +kernel⟩
def rIn1 : Bytes := wTd 1 0x60000 [128, 1] [1, 128]
def rOut1 : Bytes := wTd 0 0x70000 [8, 1] [1, 128]
def rMem1 : List Host.Cell := wLowMem 1 0 rIn1 rOut1
/-- ReplaysComplete, clauses 2 and 8. -/
theorem test_replays2 : begins rMem1 (wRep 1 0) ∧ runs rMem1 (wRep 1 0) ∧ fld (wRep 1 0) 26 1 = 1 :=
  have h : begins rMem1 (wRep 1 0) ∧ runs rMem1 (wRep 1 0) := both 1 0 rMem1
    (rep_taken 1 0 rIn1 rOut1 rMem1 rfl (by decide +kernel) (by decide +kernel) (by decide +kernel)
      (by decide +kernel) (by decide +kernel) (by decide +kernel) (by decide +kernel)) (by decide +kernel)
    (rep_ok 1 0 rMem1 (by decide +kernel) (by decide +kernel) (by decide +kernel) (by decide +kernel) (by decide +kernel)
      (by decide +kernel) (by decide +kernel))
  ⟨h.1, h.2, by decide +kernel⟩

def rIn2 : Bytes := wTd 1 0x60000 [128, 1] [1, 128]
def rOut2 : Bytes := wTd 7 0x70000 [8] [1]
def rMem2 : List Host.Cell := wLowMem 2 0 rIn2 rOut2
/-- ReplaysComplete, clauses 3 and 9. -/
theorem test_replays3 : begins rMem2 (wRep 2 0) ∧ runs rMem2 (wRep 2 0) ∧ fld (wRep 2 0) 26 1 = 2 :=
  have h : begins rMem2 (wRep 2 0) ∧ runs rMem2 (wRep 2 0) := both 2 0 rMem2
    (rep_taken 2 0 rIn2 rOut2 rMem2 rfl (by decide +kernel) (by decide +kernel) (by decide +kernel)
      (by decide +kernel) (by decide +kernel) (by decide +kernel) (by decide +kernel)) (by decide +kernel)
    (rep_ok 2 0 rMem2 (by decide +kernel) (by decide +kernel) (by decide +kernel) (by decide +kernel) (by decide +kernel)
      (by decide +kernel) (by decide +kernel))
  ⟨h.1, h.2, by decide +kernel⟩

def rIn3 : Bytes := wTd 1 0x60000 [128, 1] [1, 128]
def rOut3 : Bytes := wTd 1 0x70000 [128, 1] [1, 128]
def rMem3 : List Host.Cell := wLowMem 3 0 rIn3 rOut3
/-- ReplaysComplete, clauses 4 and 10. -/
theorem test_replays4 : begins rMem3 (wRep 3 0) ∧ runs rMem3 (wRep 3 0) ∧ fld (wRep 3 0) 26 1 = 3 :=
  have h : begins rMem3 (wRep 3 0) ∧ runs rMem3 (wRep 3 0) := both 3 0 rMem3
    (rep_taken 3 0 rIn3 rOut3 rMem3 rfl (by decide +kernel) (by decide +kernel) (by decide +kernel)
      (by decide +kernel) (by decide +kernel) (by decide +kernel) (by decide +kernel)) (by decide +kernel)
    (rep_ok 3 0 rMem3 (by decide +kernel) (by decide +kernel) (by decide +kernel) (by decide +kernel) (by decide +kernel)
      (by decide +kernel) (by decide +kernel))
  ⟨h.1, h.2, by decide +kernel⟩

def rIn4 : Bytes := wTd 1 0x60000 [128, 2, 1] [1, 128, 256]
def rOut4 : Bytes := wTd 0 0x70000 [128, 1] [1, 128]
def rMem4 : List Host.Cell := wLowMem 4 0 rIn4 rOut4
/-- ReplaysComplete, clauses 5 and 11. -/
theorem test_replays5 : begins rMem4 (wRep 4 0) ∧ runs rMem4 (wRep 4 0) ∧ fld (wRep 4 0) 26 1 = 4 :=
  have h : begins rMem4 (wRep 4 0) ∧ runs rMem4 (wRep 4 0) := both 4 0 rMem4
    (rep_taken 4 0 rIn4 rOut4 rMem4 rfl (by decide +kernel) (by decide +kernel) (by decide +kernel)
      (by decide +kernel) (by decide +kernel) (by decide +kernel) (by decide +kernel)) (by decide +kernel)
    (rep_ok 4 0 rMem4 (by decide +kernel) (by decide +kernel) (by decide +kernel) (by decide +kernel) (by decide +kernel)
      (by decide +kernel) (by decide +kernel))
  ⟨h.1, h.2, by decide +kernel⟩

def rIn5 : Bytes := wTd 0 0x60000 [2, 1024] [1, 16]
def rOut5 : Bytes := wTd 0 0x70000 [2] [1]
def rMem5 : List Host.Cell := wLowMem 5 512 rIn5 rOut5
/-- ReplaysComplete, clauses 6 and 12. -/
theorem test_replays6 : begins rMem5 (wRep 5 512) ∧ runs rMem5 (wRep 5 512) ∧ fld (wRep 5 512) 26 1 = 5 :=
  have h : begins rMem5 (wRep 5 512) ∧ runs rMem5 (wRep 5 512) := both 5 512 rMem5
    (rep_taken 5 512 rIn5 rOut5 rMem5 rfl (by decide +kernel) (by decide +kernel) (by decide +kernel)
      (by decide +kernel) (by decide +kernel) (by decide +kernel) (by decide +kernel)) (by decide +kernel)
    (rep_ok 5 512 rMem5 (by decide +kernel) (by decide +kernel) (by decide +kernel) (by decide +kernel) (by decide +kernel)
      (by decide +kernel) (by decide +kernel))
  ⟨h.1, h.2, by decide +kernel⟩

/-! #### Statements over a command and a next state -/

/-- An outcome is a next state. -/
def nexts (o : Host.Outcome State Fault Refusal) : Bool :=
  match o with
  | .next _ => true
  | .fault _ => false
  | .refused _ => false
theorem of_nexts {o : Host.Outcome State Fault Refusal} (h : nexts o = true) : ∃ t, o = .next t := by
  cases o with
  | next t => exact ⟨t, rfl⟩
  | fault f => cases h
  | refused r => cases h

/-- ImageStays, clauses 1, 2: a ring doorbell in RUNNING. -/
theorem test_imageStays : isReset (.ringDoorbell (wReq 1 (toLE 8 1))) = false ∧ isStart (.ringDoorbell (wReq 1 (toLE 8 1))) = false
    ∧ (∀ img us, Instr.ringDoorbell (wReq 1 (toLE 8 1)) ≠ .load img us)
    ∧ (∀ us, Instr.ringDoorbell (wReq 1 (toLE 8 1)) ≠ .partitionUp us)
    ∧ (∀ ops, Instr.ringDoorbell (wReq 1 (toLE 8 1)) ≠ .energyWindowClose ops)
    ∧ ∃ t, exec (.ringDoorbell (wReq 1 (toLE 8 1))) wIdle = .next t :=
  ⟨rfl, rfl, fun _ _ => Instr.noConfusion, fun _ => Instr.noConfusion, fun _ => Instr.noConfusion, of_nexts (by decide +kernel)⟩

/-- A start refused with KEY_UNFUSED, one key word fused, another being programmed. -/
def wRefused : State :=
  { State.reset with boot := { resetBoot with rstLow := false, state := 15, code := 3, keyBusy := some (1, 9), keys := 1 :: List.replicate 11 0 } }
theorem sound_refused : wRefused.sound := by
  refine ⟨⟨by decide +kernel, by decide +kernel⟩, ⟨by decide +kernel, by decide +kernel, by decide +kernel, by decide +kernel⟩, ?_⟩
  simp [State.started, BootSt.started, wRefused, resetBoot]
/-- RefusedStays, clauses 1, 2, 3: the programming of a key word ends. -/
theorem test_refusedStays : wRefused.sound ∧ isReset .keyProgramDone = false ∧ wRefused.boot.state = 15
    ∧ wRefused.boot.keys.getD 0 0 ≠ 0 ∧ ∃ t, exec .keyProgramDone wRefused = .next t :=
  ⟨sound_refused, rfl, rfl, by decide, of_nexts (by decide +kernel)⟩

/-- ExecKeepsQueue and ResetSound have no premises. FrameOfLinks: an alignment loss on port 30, ACTIVE. -/
theorem test_frameOfLinks : isLink (.alignmentLoss 30) = true ∧ (¬ (linked wChan 5).pooled 0)
    ∧ ∃ t, exec (.alignmentLoss 30) (linked wChan 5) = .next t := by
  refine ⟨rfl, ?_, of_nexts (by decide +kernel)⟩
  have h : fld ((linked wChan 5).sect 5) 0 8 = 0x40000000 ∧ fld ((linked wChan 5).sect 5) 16 8 = 0x48000000 := by
    decide +kernel
  have e : (linked wChan 5).hamper.chains = [] := by decide +kernel
  simp only [State.pooled, h.1, h.2, e]
  rintro ⟨k, -, ⟨h, -⟩ | ⟨h, -⟩⟩
  · omega
  · omega
/-- FrameOfLinks, the last clauses: a HELLO. -/
theorem test_frameOfLinks16 : isQuietLink (.helloSend 30) = true ∧ ∃ t, exec (.helloSend 30) (linked wChan 5) = .next t :=
  ⟨rfl, of_nexts (by decide +kernel)⟩
/-- FrameOfStart: a power alert in RUNNING. -/
theorem test_frameOfStart : isStart .pwrAlert = true ∧ bits wHead.power.domOn 0 4 = 15 ∧ bit wHead.power.domOn 45 = true
    ∧ (∀ m, Instr.pwrAlert ≠ .cal m) ∧ ∃ t, exec .pwrAlert wHead = .next t :=
  ⟨rfl, by decide +kernel, by decide +kernel, fun _ => Instr.noConfusion, of_nexts (by decide +kernel)⟩
/-- FrameOfSteps: the active set of a step is fixed. -/
theorem test_frameOfSteps : stepPart (.activeSetFixed 0) = some 0 ∧ isQuietStep (.activeSetFixed 0) = true
    ∧ worksRows (.activeSetFixed 0) = false ∧ ∃ t, exec (.activeSetFixed 0) (inPass (wAdm [] id)) = .next t :=
  ⟨rfl, rfl, rfl, of_nexts (by decide +kernel)⟩
/-- A NOP at HEAD beside a run of Press. -/
def queuePress : State := { nop1_s with press := { nop1_s.press with runs := [wRunOf false] } }
/-- FrameOfQueues, the first clauses: a NOP at HEAD, and a byte that it does not store to. -/
theorem test_frameOfQueues1 : nop1_s.sound ∧ queueGroup (.nop 0) = some 0 ∧ untouched nop1_s 0 0
    ∧ ∃ t, exec (.nop 0) nop1_s = .next t := by
  refine ⟨sound_up rfl (by decide +kernel), rfl, fun d b h => ?_, of_nexts (by decide +kernel)⟩
  have e : nop1_s.headDesc 0 = some nop1_d := by decide +kernel
  rw [e] at h
  cases h
  have k : nop1_s.tr (nop1_s.gPart 0) (fld nop1_d 8 8) 32 4 = some 0x108000 := by decide +kernel
  have z : fld nop1_d 0 1 = 0 := by decide +kernel
  rw [k, z]
  refine ⟨fun hb => ?_, fun hb => by cases hb⟩
  cases hb
  exact .inl (by decide)
/-- FrameOfQueues, clause 6: a NOP beside a run of Press. -/
theorem test_frameOfQueues6 : queuePress.sound ∧ queueGroup (.nop 0) = some 0
    ∧ ∃ t r, exec (.nop 0) queuePress = .next t ∧ r ∈ t.press.runs := by
  refine ⟨sound_up rfl (by decide +kernel), rfl, ?_⟩
  have h : (match exec (.nop 0) queuePress with
    | .next t => decide (wRunOf false ∈ t.press.runs)
    | _ => false) = true := by decide +kernel
  revert h
  cases exec (.nop 0) queuePress with
  | next t => exact fun h => ⟨t, wRunOf false, rfl, of_decide_eq_true h⟩
  | fault f => exact fun h => by cases h
  | refused r => exact fun h => by cases h
/-- FrameOfQueues, the doorbells and the abort request. -/
theorem test_frameOfQueues2 : ∃ t, exec (.ringDoorbell (wReq 1 (toLE 8 1))) wIdle = .next t :=
  of_nexts (by decide +kernel)
/-- FrameOfQueues, the notifications. -/
theorem test_frameOfQueues3 : ∃ t, exec (.completionNotify 0) (noted 0) = .next t := of_nexts (by decide +kernel)

/-! ### Ill-formed commands -/

/-- One ill-formed command for each check of WellFormed. -/
theorem test_refuses_partition : wellFormed (.holdClear 8 0) = false := by decide
theorem test_refuses_group : wellFormed (.nop 64) = false := by decide
theorem test_refuses_layer : wellFormed (.holdClear 0 256) = false := by decide
theorem test_refuses_port : wellFormed (.phyAlign 36) = false := by decide
theorem test_refuses_memory_port : wellFormed (.memReadBeat 12 ⟨255, false⟩) = false := by decide
theorem test_refuses_granules : wellFormed (.memReadBeat 0 ⟨256, false⟩) = false := by decide
theorem test_refuses_array : wellFormed (.prBucketLeak 32) = false := by decide
theorem test_refuses_cluster : wellFormed (.fdBucketLeak 4) = false := by decide
theorem test_refuses_domain : wellFormed (.domainSwitchOn 48) = false := by decide
theorem test_refuses_block : wellFormed (.deadDeclare 32) = false := by decide
theorem test_refuses_member : wellFormed (.gwCollect 0 0 0 512) = false := by decide
theorem test_refuses_line : wellFormed (.evtMapWrite 4 0) = false := by decide
theorem test_refuses_channel : wellFormed (.helloSend 31) = false ∧ wellFormed (.helloSend 80) = false := by decide
theorem test_refuses_handler : wellFormed (.waitSend 0 0 0 12) = false := by decide
theorem test_refuses_mismatch : wellFormed (.nodeAdd 0 1 0 3) = false := by decide
theorem test_refuses_node : wellFormed (.nodeAdd 0 0 0 0) = false ∧ wellFormed (.nodeAdd 0 1024 0 0) = false := by decide
theorem test_refuses_tag : wellFormed (.workReadyNotify 0) = false := by decide
theorem test_refuses_sequence : wellFormed (.nackTimeout 0 65536) = false := by decide
theorem test_refuses_register_address : wellFormed (.splitLoRead 0x10002) = false ∧ wellFormed (.splitLoRead 0x1000000) = false := by
  decide
theorem test_refuses_flit : wellFormed (.count 0 []) = false := by decide
/-- An arrival after the end of its stitch. -/
theorem test_refuses_arrival : wellFormed (.dataFlitReceive 0 ⟨zeros 512, 656000⟩) = false := by decide +kernel
theorem test_refuses_header : wellFormed (.rstNDeassert ⟨[], [], [], []⟩ [] [] 0) = false := by decide
theorem test_refuses_slot : wellFormed (.ringDoorbell { wReq 64 (zeros 8) with host := [] }) = false
    ∧ wellFormed (.weightWriteRelease (wReq 8 (zeros 8))) = false := by decide
theorem test_refuses_request : wellFormed (.seamInvalidRequest ⟨false, 1, 0, 0, 1, 32⟩) = false := by decide
theorem test_refuses_message : wellFormed (.tally { wMsg 1 0 [] with length := 64 }) = false := by decide
theorem test_refuses_cell_request : wellFormed (.hamperAlloc [⟨0, 0, false, false, 0, 1, none⟩]) = false := by decide
theorem test_refuses_held_classes : wellFormed (.stitchBoundary [] []) = false := by decide
theorem test_refuses_count : wellFormed (.stitchSlip (2 ^ 64)) = false := by decide
theorem test_refuses_layers : wellFormed (.wakeCheckDone 0 257) = false := by decide
theorem test_refuses_tile : wellFormed (.pressRunIssue 0 0 0 16 0 0) = false := by decide
theorem test_refuses_no_reference : wellFormed (.hamperRelease (false, 0) 0) = false
    ∧ wellFormed (.hamperAddRef (false, 0) [] ⟨0, ⟨0, 0, false, false, 1, 1, none⟩⟩) = false := by decide
theorem test_refuses_cell : wellFormed (.pressRunEnd 0 [⟨8, 0, 0⟩]) = false := by decide
theorem test_refuses_bit : wellFormed (.memoryTestEnd [⟨0, 1028, 0⟩]) = false := by decide
/-- A flit of 512 bytes on a channel is well-formed. -/
theorem test_accepts_flit : wellFormed (.count 0 (zeros 512)) = true := by decide +kernel

/-! ### Values that the specification works out -/

/-- The worked example of the softmax state: exp(−2) rounds to 0.13533528, and the merge of (4, 7.5) and (6, 2.25) gives (6,
3.2650146). -/
theorem test_exp : f32Exp 0xC0000000 = 0x3E0A9555 := by decide +kernel
theorem test_merge : mergePair (0x40800000, 0x40F00000) (0x40C00000, 0x40100000) = (0x40C00000, 0x4050F600) := by decide +kernel
/-- There exp(0) / 3.2650146 rounds to 0.30627734. -/
theorem test_gating : f32Div (f32Exp 0) 0x4050F600 = 0x3E9CD062 := by decide +kernel
/-- Check values of the named standards: CRC-32C and the FCS over the digits 1 to 9 (R83, R60), the first bytes of SHA-384 of
"abc" (R79). -/
theorem test_crc32c : crc32c [0x31, 0x32, 0x33, 0x34, 0x35, 0x36, 0x37, 0x38, 0x39] = 0xE3069283 := by decide +kernel
theorem test_fcs : fcs32 [0x31, 0x32, 0x33, 0x34, 0x35, 0x36, 0x37, 0x38, 0x39] = 0xCBF43926 := by decide +kernel
theorem test_sha384 : (sha384 [0x61, 0x62, 0x63]).take 8 = [0xCB, 0x00, 0x75, 0x3F, 0x45, 0xA3, 0x5E, 0x8B] := by decide +kernel

end Sys2Proof.Tests
end

section
/-! SUPPORT. The register map and the accesses that the management port cannot answer (R66 to R68, R468): every row of the
map lies on word boundaries, so an address off them names no register, and a bad access has one lemma for each command of
the port. -/

namespace Sys2Proof.Machine

/-! ### Where the map names no register -/

/-- The registers of a row lie on word boundaries (R468). -/
def RegRow.aligned (r : RegRow) : Bool := r.base % 4 == 0 && r.stride % 4 == 0

/-- The register tables of the mapped regions, and the empty one beyond them. -/
def regTables : List (List RegRow) :=
  [regsIdentity, regsBoot, regsStitch, regsQueue, regsSeg, regsPress, regsStarch, regsSelect, regsHamper, regsLink,
    regsFold, regsFault, regsJournal, regsPower, regsSelf, []]

theorem regionRows_mem_regTables (a : Nat) : regionRows a ∈ regTables := by
  unfold regionRows
  repeat' refine iteInduction (motive := (· ∈ regTables)) (fun _ => ?_) (fun _ => ?_)
  all_goals simp [regTables]

theorem regTables_aligned : ∀ rows ∈ regTables, ∀ r ∈ rows, r.aligned = true := by decide

theorem regionRows_of_beyond {a : Nat} (h : 0x2C0000 ≤ a) : regionRows a = [] := by
  simp (disch := omega) only [regionRows, if_neg]

/-- An aligned row holds aligned addresses only. -/
theorem RegRow.mod_four_of_index {r : RegRow} {a i : Nat} (hr : r.aligned = true) (h : r.index a = some i) :
    a % 4 = 0 := by
  simp only [RegRow.aligned, Bool.and_eq_true, beq_iff_eq] at hr
  obtain ⟨hbase, hstride⟩ := hr
  simp only [RegRow.index, Option.ite_none_right_eq_some] at h
  obtain ⟨⟨hle, hmod, -⟩, -⟩ := h
  have hdvd : 4 ∣ a - r.base := (Nat.dvd_of_mod_eq_zero hstride).trans (Nat.dvd_of_mod_eq_zero hmod)
  omega

theorem findReg_eq_none_of_unaligned {rows : List RegRow} {a : Nat} (hrows : ∀ r ∈ rows, r.aligned = true)
    (ha : a % 4 ≠ 0) : findReg rows a = none := by
  induction rows with
  | nil => rfl
  | cons r rest ih =>
    obtain ⟨hr, hrest⟩ := List.forall_mem_cons.mp hrows
    have hnone : r.index a = none :=
      Option.eq_none_iff_forall_ne_some.mpr fun _ h => ha (RegRow.mod_four_of_index hr h)
    simp only [findReg, hnone, ih hrest]

theorem kindAt_eq_none_of_unaligned {a : Nat} (h : a % 4 ≠ 0) : kindAt a = none := by
  simp only [kindAt, regAt,
    findReg_eq_none_of_unaligned (regTables_aligned _ (regionRows_mem_regTables a)) h, Option.map_none]

theorem kindAt_eq_none_of_beyond {a : Nat} (h : 0x2C0000 ≤ a) : kindAt a = none := by
  simp only [kindAt, regAt, regionRows_of_beyond h, findReg, Option.map_none]

/-! ### Accesses that are not answered -/

theorem State.mgtBad_iff (s : State) (a : Nat) : s.mgtBad a = true ↔ kindAt a = none ∨ s.powered a = false := by
  simp [State.mgtBad]

theorem answers_eq_of_exec {c : Instr} {s t : State} (h : exec c s = .next t) : answers c s (· = t) := ⟨t, h, rfl⟩

section
variable {s : State} {a : Nat} (hrst : s.boot.rstLow = false) (hbad : s.mgtBad a = true)
include hrst hbad

theorem exec_w1cClear_of_mgtBad (v now : Word) : exec (.w1cClear a v now) s = .next s.mgtFail := by
  change execW1cClear a v now s = _
  simp [execW1cClear, hrst, hbad]

theorem exec_rcCounterRead_of_mgtBad (n : Nat) : exec (.rcCounterRead a n) s = .next s.mgtFail := by
  change execRcCounterRead a n s = _
  simp [execRcCounterRead, hrst, hbad]

theorem exec_splitLoRead_of_mgtBad : exec (.splitLoRead a) s = .next s.mgtFail := by
  change execSplitLoRead a s = _
  simp [execSplitLoRead, hrst, hbad]

theorem exec_registerWriteOther_of_mgtBad (v : Word) : exec (.registerWriteOther a v) s = .next s.mgtFail := by
  change execRegisterWriteOther a v s = _
  simp [execRegisterWriteOther, hrst, hbad]

end

/-! ### The three indexed writes at a register that is off -/

section
variable {s : State} {p : Nat} (hrst : s.boot.rstLow = false)
include hrst

theorem exec_partRestart_of_off (v : Word) (hoff : s.powered (0x30020 + 4 * p) = false) :
    exec (.partRestart p v) s = .next s.mgtFail := by
  change execPartRestart p v s = _
  simp [execPartRestart, hrst, hoff, State.mgtFail]

theorem exec_linkRetireForced_of_off (v : Word) (hoff : s.powered (0x180008 + 0x400 * p) = false) :
    exec (.linkRetireForced p v) s = .next s.mgtFail := by
  change execLinkRetireForced p v s = _
  simp [execLinkRetireForced, hrst, hoff, State.mgtFail]

theorem exec_jrnConsumedWrite_of_off (v : Word) (hoff : s.powered (rJRN_CONSUMED_HI p) = false) :
    exec (.jrnConsumedWrite p v) s = .next s.mgtFail := by
  change execJrnConsumedWrite p v s = _
  simp [execJrnConsumedWrite, hrst, hoff, State.mgtFail]

end

/-! ### Writes to read-only registers -/

/-- A read-only register is neither KEY_PROG_DATA nor CAL_SET_LO, which the write of other registers singles out. -/
theorem ne_keyProgData_calSetLo_of_ro {a : Nat} (h : kindAt a = some .ro) : a ≠ 0x100B0 ∧ a ≠ 0x280118 := by
  have hkey : kindAt 0x100B0 = some .rw := by decide
  have hcal : kindAt 0x280118 = some .rw := by decide
  constructor
  · rintro rfl
    simp [hkey] at h
  · rintro rfl
    simp [hcal] at h

theorem exec_registerWriteOther_of_ro {s : State} {a : Nat} (v : Word) (hrst : s.boot.rstLow = false)
    (hon : s.powered a = true) (hro : kindAt a = some .ro) : exec (.registerWriteOther a v) s = .next s.mgtAck := by
  have hgood : s.mgtBad a = false := by simp [State.mgtBad, hro, hon]
  have hown : ownWrite a = false := by simp [ownWrite, hro]
  obtain ⟨hkey, hcal⟩ := ne_keyProgData_calSetLo_of_ro hro
  change execRegisterWriteOther a v s = _
  simp [execRegisterWriteOther, hrst, hgood, hown, hkey, hcal, hro]

/-- Settles O19: an unaligned address and one beyond the regions name no register by the rows of the map; the rest runs
each command on an access that cannot be answered, and a write on a read-only register. -/
theorem irregularAccesses : Obligations.IrregularAccesses := by
  refine ⟨fun a h => h.elim kindAt_eq_none_of_unaligned kindAt_eq_none_of_beyond, ?_, ?_, ?_⟩
  · intro s a n v now hrst h
    have hbad : s.mgtBad a = true := (s.mgtBad_iff a).mpr h
    exact ⟨answers_eq_of_exec (exec_w1cClear_of_mgtBad hrst hbad v now),
      answers_eq_of_exec (exec_rcCounterRead_of_mgtBad hrst hbad n),
      answers_eq_of_exec (exec_splitLoRead_of_mgtBad hrst hbad),
      answers_eq_of_exec (exec_registerWriteOther_of_mgtBad hrst hbad v)⟩
  · intro s p v hrst
    exact ⟨fun hoff => answers_eq_of_exec (exec_partRestart_of_off hrst v hoff),
      fun hoff => answers_eq_of_exec (exec_linkRetireForced_of_off hrst v hoff),
      fun hoff => answers_eq_of_exec (exec_jrnConsumedWrite_of_off hrst v hoff)⟩
  · intro s a v hrst hon hro
    exact answers_eq_of_exec (exec_registerWriteOther_of_ro v hrst hon hro)

end Sys2Proof.Machine
end

section
/-! SUPPORT. The RC counters (R472, R69): when the family of a register is on, what counting events in one does to the
register file, and what its read leaves. -/

namespace Sys2Proof.Machine

theorem bit_eq_testBit (v i : Nat) : bit v i = v.testBit i := Nat.testBit_eq_decide_div_mod_eq.symm

theorem land_ne_zero_iff {v w : Nat} : v &&& w ≠ 0 ↔ ∃ i, bit w i = true ∧ bit v i = true := by
  simp only [bit_eq_testBit]
  constructor
  · intro h
    obtain ⟨i, hi⟩ := Nat.exists_testBit_of_ne_zero h
    rw [Nat.testBit_and, Bool.and_eq_true] at hi
    exact ⟨i, hi.symm⟩
  · rintro ⟨i, hw, hv⟩ h
    have hi : (v &&& w).testBit i = true := by rw [Nat.testBit_and, hv, hw, Bool.and_true]
    rw [h, Nat.zero_testBit] at hi
    exact Bool.false_ne_true hi

/-- A family answers exactly while one of its domains is on (R469). -/
theorem State.powered_iff (s : State) (a : Nat) :
    s.powered a = true ↔ ∃ d, bit (regDomains a) d = true ∧ bit s.power.domOn d = true :=
  decide_eq_true_iff.trans land_ne_zero_iff

theorem satAdd_toNat (v : Word) (n : Nat) : (satAdd v n).toNat = min (v.toNat + n) (2 ^ 32 - 1) := by
  rw [satAdd, BitVec.toNat_ofNat]
  exact Nat.mod_eq_of_lt (by omega)

section
variable {s : State} {a b : Nat} (v : Word)

theorem State.reg_setReg_self (hwf : spWf s.regs = true) : (s.setReg a v).reg a = v := by
  rw [s.reg_setReg a a v hwf, if_pos rfl]

theorem State.reg_setReg_of_ne (hwf : spWf s.regs = true) (hb : b ≠ a) : (s.setReg a v).reg b = s.reg b := by
  rw [s.reg_setReg a b v hwf, if_neg hb]

end

/-! ### Counting events -/

section
variable {s : State} {a : Nat}

theorem State.bump_of_powered (hon : s.powered a = true) (n : Nat) :
    s.bump a n = s.setReg a (satAdd (s.reg a) n) := if_pos hon

theorem State.bump_of_off (hoff : s.powered a = false) (n : Nat) : s.bump a n = s :=
  if_neg (ne_true_of_eq_false hoff)

theorem State.reg_bump_self (hon : s.powered a = true) (hwf : spWf s.regs = true) (n : Nat) :
    ((s.bump a n).reg a).toNat = min ((s.reg a).toNat + n) (2 ^ 32 - 1) := by
  rw [bump_of_powered hon, reg_setReg_self _ hwf, satAdd_toNat]

theorem State.reg_bump_of_ne (hon : s.powered a = true) (hwf : spWf s.regs = true) (n : Nat) {b : Nat} (hb : b ≠ a) :
    (s.bump a n).reg b = s.reg b := by
  rw [bump_of_powered hon, reg_setReg_of_ne _ hwf hb]

theorem State.bump_eq_with_regs (hon : s.powered a = true) (n : Nat) :
    s.bump a n = { s with regs := (s.bump a n).regs } := by
  rw [bump_of_powered hon, State.setReg]

/-! ### Reading a counter -/

/-- The read takes the count and leaves the counter as though it had counted `n` events from zero (R69). -/
theorem exec_rcCounterRead_of_rc (hrst : s.boot.rstLow = false) (hon : s.powered a = true)
    (hrc : kindAt a = some .rc) (n : Nat) :
    exec (.rcCounterRead a n) s = .next ((s.mgtRead (s.reg a)).setReg a (satAdd 0 n)) := by
  have hgood : s.mgtBad a = false := by simp [State.mgtBad, hrc, hon]
  change execRcCounterRead a n s = _
  simp [execRcCounterRead, hrst, hgood, hrc]

end

/-- Settles O20: a bump is the saturating store at a register whose family is on and nothing at one that is off, and the
read of a counter is the same store over a count of zero. -/
theorem countersCount : Obligations.CountersCount := by
  refine ⟨fun s a n hwf => ⟨s.powered_iff a, fun hon => ?_, fun hoff => State.bump_of_off hoff n⟩, ?_⟩
  · exact ⟨State.reg_bump_self hon hwf n, fun b hb => State.reg_bump_of_ne hon hwf n hb, State.bump_eq_with_regs hon n⟩
  · intro s a n hrst hon hrc hwf
    have hread : spWf (s.mgtRead (s.reg a)).regs = true := hwf
    refine ⟨_, exec_rcCounterRead_of_rc hrst hon hrc n, rfl, rfl, ?_, ?_, rfl⟩
    · simp [State.reg_setReg_self _ hread, satAdd_toNat]
    · exact fun b hb => State.reg_setReg_of_ne _ hread hb

end Sys2Proof.Machine
end

section
/-! SUPPORT. What an operation may touch: `State.Same F s t` says that `t` agrees with `s` on every part of the state that
`F` does not name, and keeps the queue, the canonical forms and the shape. One lemma per operation follows; a frame or an
invariant is then a choice of `F`. -/

-- One declaration after another: the check bounds the memory, and with it the threads.
set_option Elab.async false

namespace Sys2Proof.Machine

/-- A part of the state: a field, one partition or group, the lists of piles of one partition (R276, R330), attached memory
inside and outside the memory pool, a domain that goes off (`off`) or comes on (`on`) with what its units hold. -/
inductive Touch where
  | free | mgt | regs | mem | pool | boot | img | units | stitch | seam | memp | hamper | ctx
  | part (p : Nat) | lists (p : Nat) | group (g : Nat) | press | leaks | cores | off | on | link | mgr | fold | power
  | recd | self | tabs | nextTag | pins

/-- The memory cells of the pool: those of its section and those that a chain holds (R170, R171). -/
def State.poolCell (s : State) (k : Nat) : Prop :=
  k < s.poolCells true ∨ ∃ c ∈ s.hamper.chains, (true, k) ∈ c.cells

/-- Every domain of core `n` and that of the Starch slices is on (R428). -/
def PowerSt.coreOn (w : PowerSt) (n : Nat) : Prop := bits w.domOn (4 * n) 4 = 15 ∧ bit w.domOn 45 = true

/-- `t` agrees with `s` but for what `F` names. -/
structure State.Same (F : Touch → Prop) (s t : State) : Prop where
  pending : t.pending = s.pending
  regsWf : spWf s.regs = true → spWf t.regs = true
  memWf : spWf s.mem = true → spWf t.mem = true
  partsLen : s.parts.length = 8 → t.parts.length = 8
  groupsLen : s.groups.length = 64 → t.groups.length = 64
  portsLen : s.link.ports.length = 36 → t.link.ports.length = 36
  free : ¬F .free → t.free = s.free
  mgt : ¬F .mgt → t.mgtData = s.mgtData ∧ t.mgtErr = s.mgtErr
  regs : ¬F .regs → t.regs = s.regs
  mem : ¬F .mem → ¬F .pool → t.mem = s.mem
  poolOnly : ¬F .mem → ¬F .img → poolOnly s t
  cells : ¬F .mem → ¬F .img → ∀ k, t.poolCell k → s.poolCell k
  boot : ¬F .boot → t.boot = s.boot
  img : ¬F .img → t.img = s.img
  units : ¬F .units → t.units = s.units
  stitch : ¬F .stitch → t.stitch = s.stitch
  seam : ¬F .seam → t.seam = s.seam
  memp : ¬F .memp → t.memp = s.memp
  hamper : ¬F .hamper → t.hamper = s.hamper
  ctx : ¬F .ctx → t.ctx = s.ctx
  part : ∀ p, ¬F (.part p) → ¬F (.lists p) → t.part p = s.part p
  parts : (∀ p, ¬F (.part p) ∧ ¬F (.lists p)) → t.parts = s.parts
  views : (∀ p, ¬F (.part p)) → t.parts.map linkView = s.parts.map linkView
  group : ∀ g, ¬F (.group g) → t.group g = s.group g
  groups : (∀ g, ¬F (.group g)) → t.groups = s.groups
  press : ¬F .press → t.press = s.press
  leaks : ¬F .leaks → t.leaks = s.leaks
  cores : ¬F .cores → ¬F .off → t.cores = s.cores
  coresOn : ¬F .cores → ¬F .on → ∀ n, t.power.coreOn n →
    s.power.coreOn n ∧ t.cores.getD n resetCore = s.cores.getD n resetCore
  link : ¬F .link → t.link = s.link
  mgr : ¬F .mgr → t.mgr = s.mgr
  fold : ¬F .fold → t.fold = s.fold
  power : ¬F .power → t.power = s.power
  pins : ¬F .pins → t.power.alertLow = s.power.alertLow ∧ t.power.thermLow = s.power.thermLow
  domOn : ¬F .on → ¬F .press ∨ ¬F .regs → t.power.domOn = s.power.domOn
  recd : ¬F .recd → t.recd = s.recd
  self : ¬F .self → t.self = s.self
  tabs : ¬F .tabs → t.tabs = s.tabs
  nextTag : ¬F .nextTag → t.nextTag = s.nextTag

/-! ### Sparse maps that need no canonical form -/

theorem spGet_spSet_of_ne {w : Nat} (m : List (Nat × BitVec w)) {k a : Nat} (v : BitVec w) (h : a ≠ k) :
    spGet (spSet m k v) a = spGet m a := by
  induction m with
  | nil =>
    unfold spSet
    split <;> simp [spGet, Ne.symm h]
  | cons e r ih =>
    obtain ⟨b, x⟩ := e
    unfold spSet
    split_ifs with hlt hv heq hv
    · rfl
    · simp [spGet, Ne.symm h]
    · simp [spGet, ← heq, Ne.symm h]
    · simp [spGet, ← heq, Ne.symm h]
    · simp [spGet, ih]

theorem spGet_memWrite_of_outside (bs : Bytes) (m : List (Nat × Byte)) (a k : Nat) (hk : k < a ∨ a + bs.length ≤ k) :
    spGet (memWrite m a bs) k = spGet m k := by
  induction bs generalizing m a with
  | nil => rfl
  | cons b bs ih =>
    simp only [List.length_cons] at hk
    rw [memWrite, ih _ _ (by omega), spGet_spSet_of_ne _ _ (by omega)]

/-! ### How the relation composes -/

theorem State.pooled_iff (s : State) (a : Nat) :
    s.pooled a ↔ ∃ k, s.poolCell k ∧ (fld (s.sect 5) 0 8 + 4096 * k ≤ a ∧ a < fld (s.sect 5) 0 8 + 4096 * k + 4096
      ∨ fld (s.sect 5) 16 8 + 4 * k ≤ a ∧ a < fld (s.sect 5) 16 8 + 4 * k + 4) := Iff.rfl

theorem State.poolCell_of_chains {s t : State} (hi : t.img = s.img)
    (hc : ∀ c ∈ t.hamper.chains, ∀ k, (true, k) ∈ c.cells → s.poolCell k) (k : Nat) (h : t.poolCell k) : s.poolCell k := by
  rcases h with h | ⟨c, hc', hk⟩
  · exact .inl (by simpa only [State.poolCells, State.sect, hi] using h)
  · exact hc c hc' k hk

namespace State.Same

variable {F : Touch → Prop}

theorem refl (s : State) : s.Same F s := by
  constructor <;> intros <;> first | rfl | assumption | exact ⟨rfl, rfl⟩ | exact ⟨‹_›, rfl⟩ | exact fun _ _ => rfl

theorem pooled {s t : State} (h : s.Same F t) (hm : ¬F .mem) (hi : ¬F .img) (a : Nat) (ha : t.pooled a) :
    s.pooled a := by
  obtain ⟨k, hk, hr⟩ := (t.pooled_iff a).mp ha
  refine (s.pooled_iff a).mpr ⟨k, h.cells hm hi k hk, ?_⟩
  simpa only [State.sect, h.img hi] using hr

theorem trans {s t u : State} (h : s.Same F t) (k : t.Same F u) : s.Same F u where
  pending := k.pending.trans h.pending
  regsWf x := k.regsWf (h.regsWf x)
  memWf x := k.memWf (h.memWf x)
  partsLen x := k.partsLen (h.partsLen x)
  groupsLen x := k.groupsLen (h.groupsLen x)
  portsLen x := k.portsLen (h.portsLen x)
  free x := (k.free x).trans (h.free x)
  mgt x := ⟨(k.mgt x).1.trans (h.mgt x).1, (k.mgt x).2.trans (h.mgt x).2⟩
  regs x := (k.regs x).trans (h.regs x)
  mem x y := (k.mem x y).trans (h.mem x y)
  poolOnly x y a ha := (k.poolOnly x y a fun hp => ha (h.pooled x y a hp)).trans (h.poolOnly x y a ha)
  cells x y n hn := h.cells x y n (k.cells x y n hn)
  boot x := (k.boot x).trans (h.boot x)
  img x := (k.img x).trans (h.img x)
  units x := (k.units x).trans (h.units x)
  stitch x := (k.stitch x).trans (h.stitch x)
  seam x := (k.seam x).trans (h.seam x)
  memp x := (k.memp x).trans (h.memp x)
  hamper x := (k.hamper x).trans (h.hamper x)
  ctx x := (k.ctx x).trans (h.ctx x)
  part p x y := (k.part p x y).trans (h.part p x y)
  parts x := (k.parts x).trans (h.parts x)
  views x := (k.views x).trans (h.views x)
  group g x := (k.group g x).trans (h.group g x)
  groups x := (k.groups x).trans (h.groups x)
  press x := (k.press x).trans (h.press x)
  leaks x := (k.leaks x).trans (h.leaks x)
  cores x y := (k.cores x y).trans (h.cores x y)
  coresOn x y n hn := ⟨(h.coresOn x y n (k.coresOn x y n hn).1).1,
    (k.coresOn x y n hn).2.trans (h.coresOn x y n (k.coresOn x y n hn).1).2⟩
  link x := (k.link x).trans (h.link x)
  mgr x := (k.mgr x).trans (h.mgr x)
  fold x := (k.fold x).trans (h.fold x)
  power x := (k.power x).trans (h.power x)
  pins x := ⟨(k.pins x).1.trans (h.pins x).1, (k.pins x).2.trans (h.pins x).2⟩
  domOn x y := (k.domOn x y).trans (h.domOn x y)
  recd x := (k.recd x).trans (h.recd x)
  self x := (k.self x).trans (h.self x)
  tabs x := (k.tabs x).trans (h.tabs x)
  nextTag x := (k.nextTag x).trans (h.nextTag x)

/-- An update of fields: partitions, groups and the chains of the pools as they are, no domain switched, the canonical forms
and every port kept. -/
theorem upd {s t : State} {a0 : List Instr} {a1 : Nat} {a2 : Word} {a3 : Bool} {a4 : List (Nat × Word)} {a5 :
    List (Nat × Byte)} {a6 : BootSt} {a7 : ImgSt} {a8 : UnitSt} {a9 : StitchSt} {a10 : SeamSt} {a11 : MemSt}
    {a12 : HamperSt} {a13 : List (Nat × Bytes)} {a14 : List Part} {a15 : List Group} {a16 : PressSt} {a17 : List
    (Nat × Nat)} {a18 : List CoreSt} {a19 : LinkSt} {a20 : MgrSt} {a21 : FoldSt} {a22 : PowerSt} {a23 : RecSt}
    {a24 : SelfSt} {a25 : List WorkTab} {a26 : Nat} (h : s.Same F t)
    (h0 : a0 = t.pending) (h14 : a14 = t.parts) (h15 : a15 = t.groups)
    (hc : a12.chains = t.hamper.chains) (hd : a22.domOn = t.power.domOn)
    (hm : spWf t.mem = true → spWf a5 = true := by with_reducible exact fun h => h)
    (hr : spWf t.regs = true → spWf a4 = true := by with_reducible exact fun h => h)
    (hp : t.link.ports.length = 36 → a19.ports.length = 36 := by with_reducible first | exact fun h => h | exact Keeps.setLen)
    (h4 : a4 = t.regs ∨ F .regs := by with_reducible first | exact .inr ‹_› | exact .inl rfl)
    (h5 : a5 = t.mem ∨ F .mem := by with_reducible first | exact .inr ‹_› | exact .inl rfl)
    (h1 : a1 = t.free ∨ F .free := by with_reducible first | exact .inr ‹_› | exact .inl rfl)
    (h2 : a2 = t.mgtData ∧ a3 = t.mgtErr ∨ F .mgt := by with_reducible first | exact .inr ‹_› | exact .inl ⟨rfl, rfl⟩)
    (h6 : a6 = t.boot ∨ F .boot := by with_reducible first | exact .inr ‹_› | exact .inl rfl)
    (h7 : a7 = t.img ∨ F .img := by with_reducible first | exact .inr ‹_› | exact .inl rfl)
    (h8 : a8 = t.units ∨ F .units := by with_reducible first | exact .inr ‹_› | exact .inl rfl)
    (h9 : a9 = t.stitch ∨ F .stitch := by with_reducible first | exact .inr ‹_› | exact .inl rfl)
    (h10 : a10 = t.seam ∨ F .seam := by with_reducible first | exact .inr ‹_› | exact .inl rfl)
    (h11 : a11 = t.memp ∨ F .memp := by with_reducible first | exact .inr ‹_› | exact .inl rfl)
    (h12 : a12 = t.hamper ∨ F .hamper := by with_reducible first | exact .inr ‹_› | exact .inl rfl)
    (h13 : a13 = t.ctx ∨ F .ctx := by with_reducible first | exact .inr ‹_› | exact .inl rfl)
    (h16 : a16 = t.press ∨ F .press := by with_reducible first | exact .inr ‹_› | exact .inl rfl)
    (h17 : a17 = t.leaks ∨ F .leaks := by with_reducible first | exact .inr ‹_› | exact .inl rfl)
    (h18 : a18 = t.cores ∨ F .cores := by with_reducible first | exact .inr ‹_› | exact .inl rfl)
    (h19 : a19 = t.link ∨ F .link := by with_reducible first | exact .inr ‹_› | exact .inl rfl)
    (h20 : a20 = t.mgr ∨ F .mgr := by with_reducible first | exact .inr ‹_› | exact .inl rfl)
    (h21 : a21 = t.fold ∨ F .fold := by with_reducible first | exact .inr ‹_› | exact .inl rfl)
    (h22 : a22 = t.power ∨ F .power := by with_reducible first | exact .inr ‹_› | exact .inl rfl)
    (hpins : a22.alertLow = t.power.alertLow ∧ a22.thermLow = t.power.thermLow ∨ F .pins := by
      with_reducible first | exact .inr ‹_› | exact .inl ⟨rfl, rfl⟩)
    (h23 : a23 = t.recd ∨ F .recd := by with_reducible first | exact .inr ‹_› | exact .inl rfl)
    (h24 : a24 = t.self ∨ F .self := by with_reducible first | exact .inr ‹_› | exact .inl rfl)
    (h25 : a25 = t.tabs ∨ F .tabs := by with_reducible first | exact .inr ‹_› | exact .inl rfl)
    (h26 : a26 = t.nextTag ∨ F .nextTag := by with_reducible first | exact .inr ‹_› | exact .inl rfl) :
    s.Same F (State.mk a0 a1 a2 a3 a4 a5 a6 a7 a8 a9 a10 a11 a12 a13
      a14 a15 a16 a17 a18 a19 a20 a21 a22 a23 a24 a25 a26) := by
  subst h0 h14 h15
  refine h.trans
    { pending := rfl, regsWf := hr, memWf := hm, partsLen := id, groupsLen := id, portsLen := hp, free := h1.resolve_right,
      mgt := h2.resolve_right, regs := h4.resolve_right, mem := fun x _ => h5.resolve_right x, poolOnly := ?_,
      cells := ?_, boot := h6.resolve_right, img := h7.resolve_right, units := h8.resolve_right,
      stitch := h9.resolve_right, seam := h10.resolve_right, memp := h11.resolve_right, hamper := h12.resolve_right,
      ctx := h13.resolve_right, part := fun _ _ _ => rfl, parts := fun _ => rfl, views := fun _ => rfl,
      group := fun _ _ => rfl, groups := fun _ => rfl, press := h16.resolve_right, leaks := h17.resolve_right,
      cores := fun x _ => h18.resolve_right x, coresOn := ?_, link := h19.resolve_right, mgr := h20.resolve_right,
      fold := h21.resolve_right, power := h22.resolve_right, pins := hpins.resolve_right, domOn := fun _ _ => hd, recd := h23.resolve_right, self := h24.resolve_right,
      tabs := h25.resolve_right, nextTag := h26.resolve_right }
  · intro x _ a _
    rw [h5.resolve_right x]
  · intro _ hi
    refine State.poolCell_of_chains (h7.resolve_right hi) fun c hm k hk => .inr ⟨c, ?_, hk⟩
    rwa [← hc]
  · intro x _ n hn
    have hcore : a18 = t.cores := h18.resolve_right x
    refine ⟨?_, by rw [hcore]⟩
    simpa only [PowerSt.coreOn, hd] using hn

theorem ofIte {s a b : State} {c : Prop} [Decidable c] (ha : c → s.Same F a) (hb : ¬c → s.Same F b) :
    s.Same F (if c then a else b) := by
  split
  · exact ha ‹_›
  · exact hb ‹_›

theorem foldl {α : Type} {s t : State} (l : List α) (f : State → α → State) (hf : ∀ u a, s.Same F u → s.Same F (f u a))
    (h : s.Same F t) : s.Same F (l.foldl f t) := by
  induction l generalizing t with
  | nil => exact h
  | cons a l ih => exact ih (hf t a h)

/-- A fold over a pair whose first part is the state. -/
theorem foldl_fst {α β : Type} {s : State} (l : List α) (f : State × β → α → State × β)
    (hf : ∀ u a, s.Same F u.1 → s.Same F (f u a).1) (p : State × β) (h : s.Same F p.1) : s.Same F (l.foldl f p).1 := by
  induction l generalizing p with
  | nil => exact h
  | cons a l ih => exact ih (f p a) (hf p a h)

/-- A fold over a pair whose second part is the state. -/
theorem foldl_snd {α β : Type} {s : State} (l : List α) (f : β × State → α → β × State)
    (hf : ∀ u a, s.Same F u.2 → s.Same F (f u a).2) (p : β × State) (h : s.Same F p.2) : s.Same F (l.foldl f p).2 := by
  induction l generalizing p with
  | nil => exact h
  | cons a l ih => exact ih (f p a) (hf p a h)

end State.Same

/-- Whatever an operation answers, it agrees with `s` but for what `F` names. -/
def State.SameAll {α : Type} (F : Touch → Prop) (s : State) (pr : α → State) (o : Option α) : Prop :=
  ∀ a, o = some a → s.Same F (pr a)

/-- The command answers a next state that agrees with `s` but for what `F` names. -/
def State.Ends (F : Touch → Prop) (s : State) (o : Host.Outcome State Fault Refusal) : Prop :=
  ∃ t, o = .next t ∧ s.Same F t

namespace State.Same

variable {F : Touch → Prop}

/-- A state bound to a name. -/
theorem cut {s x v : State} {g : Prop} (_ : x = v) (hv : s.Same F v) (hg : s.Same F x → g) : g := by
  subst x
  exact hg hv

/-- The same for an operation that may answer nothing. -/
theorem cutAll {α : Type} {s : State} {pr : α → State} {x v : Option α} {g : Prop} (_ : x = v)
    (hv : s.SameAll F pr v) (hg : s.SameAll F pr x → g) : g := by
  subst x
  exact hg hv

theorem allOf {α : Type} {s : State} {pr : α → State} {o : Option α} (h : ∀ a, o = some a → s.Same F (pr a)) :
    s.SameAll F pr o := h

theorem allNone {α : Type} {s : State} {pr : α → State} : s.SameAll F pr none := fun _ e => by cases e

theorem allSome {α : Type} {s : State} {pr : α → State} {a : α} (h : s.Same F (pr a)) : s.SameAll F pr (some a) :=
  fun _ e => by cases e; exact h

theorem allIte {α : Type} {s : State} {pr : α → State} {a b : Option α} {c : Prop} [Decidable c]
    (ha : c → s.SameAll F pr a) (hb : ¬c → s.SameAll F pr b) : s.SameAll F pr (if c then a else b) := by
  split
  · exact ha ‹_›
  · exact hb ‹_›

theorem allMap {α β : Type} {s : State} {pr : α → State} (f : β → α) (o : Option β)
    (h : ∀ b, o = some b → s.Same F (pr (f b))) : s.SameAll F pr (o.map f) := by
  intro a e
  cases o with
  | none => cases e
  | some b => cases e; exact h b rfl

theorem allMapOf {α : Type} {s : State} {pr : α → State} (o : Option State) (f : State → α)
    (h : s.SameAll F (fun x => x) o) (hf : ∀ t, s.Same F t → s.Same F (pr (f t))) : s.SameAll F pr (o.map f) := by
  cases o with
  | none => exact allNone
  | some t => exact allSome (hf t (h t rfl))

theorem allBind {α : Type} {s : State} {pr : α → State} (o : Option State) (f : State → Option α)
    (h : s.SameAll F (fun x => x) o) (hf : ∀ t, s.Same F t → s.SameAll F pr (f t)) : s.SameAll F pr (o.bind f) := by
  cases o with
  | none => exact allNone
  | some t => exact hf t (h t rfl)

theorem allFoldl {α β : Type} {s : State} {pr : β → State} (l : List α) (f : Option β → α → Option β)
    (hf : ∀ o a, s.SameAll F pr o → s.SameAll F pr (f o a)) (o : Option β) (h : s.SameAll F pr o) :
    s.SameAll F pr (l.foldl f o) := by
  induction l generalizing o with
  | nil => exact h
  | cons a l ih => exact ih _ (hf o a h)

end State.Same

namespace State.Ends

variable {F : Touch → Prop}

theorem next {s t : State} (h : s.Same F t) : s.Ends F (.next t) := ⟨t, rfl, h⟩

theorem ofIte {s : State} {a b : Host.Outcome State Fault Refusal} {c : Prop} [Decidable c] (ha : c → s.Ends F a)
    (hb : ¬c → s.Ends F b) : s.Ends F (if c then a else b) := by
  split
  · exact ha ‹_›
  · exact hb ‹_›

end State.Ends

end Sys2Proof.Machine
end

section
/-! SUPPORT. What the primitive updates touch: a register, a domain, a partition, a group, attached memory, and the chains of
the buffer pools. -/

-- One declaration after another: the check bounds the memory, and with it the threads.
set_option Elab.async false

namespace Sys2Proof.Machine

variable {F : Touch → Prop} {s0 s : State}

/-- An update of registers alone. -/
theorem State.Same.onRegs (fRegs : F .regs) {r : List (Nat × Word)} (hr : spWf s.regs = true → spWf r = true)
    (h : s0.Same F s) : s0.Same F { s with regs := r } :=
  State.Same.upd h rfl rfl rfl rfl rfl (hr := hr)

theorem State.setReg_same (a : Nat) (v : Word) (h0 : s0.Same F s) (fRegs : F .regs) : s0.Same F (s.setReg a v) :=
  State.Same.onRegs fRegs (spWf_spSet _ _ _) h0

/-- An update of attached memory alone. -/
theorem State.Same.onMem (fMem : F .mem) {m : List (Nat × Byte)} (hm : spWf s.mem = true → spWf m = true)
    (h : s0.Same F s) : s0.Same F { s with mem := m } :=
  State.Same.upd h rfl rfl rfl rfl rfl (hm := hm)

/-! ### Domains (R428) -/

theorem testBit_sub_two_pow {v n : Nat} (h : v.testBit n = true) (i : Nat) :
    (v - 2 ^ n).testBit i = (v.testBit i && decide (i ≠ n)) := by
  have hmod : v / 2 ^ n % 2 = 1 := by simpa [Nat.testBit_eq_decide_div_mod_eq] using h
  have hv : v = 2 ^ (n + 1) * (v / 2 ^ n / 2) + (2 ^ n + v % 2 ^ n) := by
    have hq : v / 2 ^ n = 2 * (v / 2 ^ n / 2) + 1 := by omega
    calc v = 2 ^ n * (v / 2 ^ n) + v % 2 ^ n := (Nat.div_add_mod v (2 ^ n)).symm
      _ = 2 ^ n * (2 * (v / 2 ^ n / 2) + 1) + v % 2 ^ n := by rw [← hq]
      _ = _ := by ring
  generalize v / 2 ^ n / 2 = a at hv
  have hr : v % 2 ^ n < 2 ^ n := Nat.mod_lt _ (by positivity)
  generalize v % 2 ^ n = r at hv hr
  have hsub : v - 2 ^ n = 2 ^ (n + 1) * a + r := by omega
  have hr' : r < 2 ^ (n + 1) := by rw [Nat.pow_succ]; omega
  have hr2 : 2 ^ n + r < 2 ^ (n + 1) := by rw [Nat.pow_succ]; omega
  rw [hsub, hv, Nat.testBit_two_pow_mul_add _ hr', Nat.testBit_two_pow_mul_add _ hr2]
  rcases lt_trichotomy i n with hi | rfl | hi
  · simp [hi.ne, Nat.lt_succ_of_lt hi, Nat.testBit_two_pow_add_gt hi]
  · simp [Nat.testBit_lt_two_pow hr]
  · simp [hi.ne', Nat.not_lt.mpr hi]

/-- A domain that goes off is off, and every other one as it was. -/
theorem bit_off (v n i : Nat) : bit (v - (if bit v n then 2 ^ n else 0)) i = (bit v i && decide (i ≠ n)) := by
  split
  case isTrue hn =>
    rw [bit_eq_testBit] at hn
    rw [bit_eq_testBit, bit_eq_testBit, testBit_sub_two_pow hn]
  case isFalse hn =>
    rcases eq_or_ne i n with rfl | hi
    · simpa using hn
    · simp [hi]

theorem State.bit_domOn_domainsOff (s : State) (ns : List Nat) (i : Nat) :
    bit (s.domainsOff ns).power.domOn i = (bit s.power.domOn i && decide (i ∉ ns)) := by
  induction ns generalizing s with
  | nil => simp [State.domainsOff]
  | cons n ns ih =>
    have h := ih (s.domainOff n)
    simp only [State.domainsOff, List.foldl_cons] at h ⊢
    rw [h, State.domainOff, bit_off]
    by_cases hi : i = n <;> simp [hi]

/-- Domains that go off change registers, cores, Press and power alone. -/
theorem State.domainsOff_eq (s : State) (ns : List Nat) : ∃ r p c w,
    s.domainsOff ns = { s with regs := r, press := p, cores := c, power := w } ∧ (spWf s.regs = true → spWf r = true) := by
  induction ns generalizing s with
  | nil => exact ⟨_, _, _, _, rfl, id⟩
  | cons n ns ih =>
    obtain ⟨r, p, c, w, e, hr⟩ := ih (s.domainOff n)
    exact ⟨r, p, c, w, e, fun k => hr (spWf_filter _ _ k)⟩

/-- Domains that go off leave of the power state all but which are on and their repair entries. -/
theorem State.domainsOff_power (s : State) (ns : List Nat) : ∃ d r,
    (s.domainsOff ns).power = { s.power with domOn := d, repaired := r } := by
  induction ns generalizing s with
  | nil => exact ⟨_, _, rfl⟩
  | cons n ns ih => exact ih (s.domainOff n)

theorem State.domainsOff_same (ns : List Nat) (h0 : s0.Same F s) (fRegs : F .regs) (fPress : F .press) (fPower : F .power)
    (fCores : F .cores) : s0.Same F (s.domainsOff ns) := by
  obtain ⟨d, q, ew⟩ := s.domainsOff_power ns
  obtain ⟨r, p, c, w, e, hr⟩ := s.domainsOff_eq ns
  rw [e] at ew ⊢
  exact h0.trans { State.Same.refl s with
    regsWf := hr, regs := fun h => absurd fRegs h, press := fun h => absurd fPress h,
    cores := fun h _ => absurd fCores h, coresOn := fun h => absurd fCores h, power := fun h => absurd fPower h
    pins := fun _ => ew ▸ ⟨rfl, rfl⟩, domOn := fun _ h => h.elim (absurd fPress) (absurd fRegs) }

theorem State.domainOff_same (n : Nat) (h0 : s0.Same F s) (fRegs : F .regs) (fPress : F .press) (fPower : F .power)
    (fCores : F .cores) : s0.Same F (s.domainOff n) :=
  State.domainsOff_same [n] h0 fRegs fPress fPower fCores

/-- With every domain of the block off no core counts as on. -/
theorem State.domainsOff_all_same (h0 : s0.Same F s) (fRegs : F .regs) (fPress : F .press) (fPower : F .power)
    (fOff : F .off) : s0.Same F (s.domainsOff (List.range 46)) := by
  have hoff : bit (s.domainsOff (List.range 46)).power.domOn 45 = false := by simp [State.bit_domOn_domainsOff]
  obtain ⟨d, q, ew⟩ := s.domainsOff_power (List.range 46)
  obtain ⟨r, p, c, w, e, hr⟩ := s.domainsOff_eq (List.range 46)
  rw [e] at hoff ew ⊢
  exact h0.trans { State.Same.refl s with
    regsWf := hr, regs := fun h => absurd fRegs h, press := fun h => absurd fPress h,
    cores := fun _ h => absurd fOff h, power := fun h => absurd fPower h
    pins := fun _ => ew ▸ ⟨rfl, rfl⟩, domOn := fun _ h => h.elim (absurd fPress) (absurd fRegs)
    coresOn := fun _ _ n hn => absurd hn.2 (ne_true_of_eq_false hoff) }

theorem State.domainOn_same (n : Nat) (h0 : s0.Same F s) (fPower : F .power) (fOn : F .on) : s0.Same F (s.domainOn n) :=
  h0.trans { State.Same.refl s with power := fun h => absurd fPower h, domOn := fun h => absurd fOn h, coresOn := fun _ h => absurd fOn h }

/-! ### Partitions and groups -/

/-- A view that an update does not show is the same of every element. -/
theorem map_setAt_of_eq {α β : Type} (v : α → β) (l : List α) (i : Nat) (f : α → α) (hf : ∀ x, v (f x) = v x) :
    (setAt l i f).map v = l.map v := by
  induction l generalizing i with
  | nil => rfl
  | cons x r ih => cases i <;> simp [setAt, hf, ih]

/-- Partitions replaced, each as the relation asks. -/
theorem State.Same.onParts {ps : List Part} (h : s0.Same F s) (hl : s.parts.length = 8 → ps.length = 8)
    (hp : ∀ p, ¬F (.part p) → ¬F (.lists p) → ps.getD p resetPart = s.part p)
    (hs : (∀ p, ¬F (.part p) ∧ ¬F (.lists p)) → ps = s.parts)
    (hv : (∀ p, ¬F (.part p)) → ps.map linkView = s.parts.map linkView) : s0.Same F { s with parts := ps } := by
  refine h.trans { State.Same.refl s with partsLen := hl, part := hp, parts := hs, views := hv }

theorem State.onPart_same (p : Nat) (f : Part → Part) (h0 : s0.Same F s) (fPart : F (.part p)) :
    s0.Same F (s.onPart p f) := by
  refine State.Same.onParts h0 (by simp) (fun q hq _ => ?_) (fun h => absurd fPart (h p).1) (fun h => absurd fPart (h p))
  have hne : p ≠ q := fun e => hq (e ▸ fPart)
  rw [getD_setAt, if_neg (fun e => hne e.1)]
  rfl

/-- An update of a partition that the lists of piles that have come alone may show. -/
theorem State.onPart_lists_same (p : Nat) (f : Part → Part) (hf : ∀ x, linkView (f x) = linkView x) (h0 : s0.Same F s)
    (fLists : F (.lists p)) : s0.Same F (s.onPart p f) := by
  refine State.Same.onParts h0 (by simp) (fun q _ hq => ?_) (fun h => absurd fLists (h p).2) (fun _ => ?_)
  · have hne : p ≠ q := fun e => hq (e ▸ fLists)
    rw [getD_setAt, if_neg (fun e => hne e.1)]
    rfl
  · exact map_setAt_of_eq linkView s.parts p f hf

theorem State.onGroup_same (g : Nat) (f : Group → Group) (h0 : s0.Same F s) (fGroup : F (.group g)) :
    s0.Same F (s.onGroup g f) := by
  refine h0.trans { State.Same.refl s with
    groupsLen := by simp [State.onGroup], group := fun k hk => ?_, groups := fun h => absurd fGroup (h g) }
  have hne : g ≠ k := fun e => hk (e ▸ fGroup)
  rw [State.onGroup, State.group, getD_setAt, if_neg (fun e => hne e.1)]
  rfl

/-- Partitions and groups replaced at will. -/
theorem State.Same.onAll {ps : List Part} {gs : List Group} (h : s0.Same F s) (fPart : ∀ p, F (.part p))
    (fGroup : ∀ g, F (.group g)) (hp : s.parts.length = 8 → ps.length = 8) (hg : s.groups.length = 64 → gs.length = 64) :
    s0.Same F { s with parts := ps, groups := gs } :=
  h.trans { State.Same.refl s with
    partsLen := hp, groupsLen := hg, part := fun p hn => absurd (fPart p) hn, parts := fun hn => absurd (fPart 0) (hn 0).1,
    views := fun hn => absurd (fPart 0) (hn 0), group := fun g hn => absurd (fGroup g) hn,
    groups := fun hn => absurd (fGroup 0) (hn 0) }

/-! ### Bytes of the memory pool and its chains (R170 to R179) -/

/-- The bytes of cell `k` and of its link entry. -/
theorem State.pooled_of_poolCell (s : State) {k a : Nat} (hk : s.poolCell k)
    (ha : fld (s.sect 5) 0 8 + 4096 * k ≤ a ∧ a < fld (s.sect 5) 0 8 + 4096 * k + 4096
      ∨ fld (s.sect 5) 16 8 + 4 * k ≤ a ∧ a < fld (s.sect 5) 16 8 + 4 * k + 4) : s.pooled a := ⟨k, hk, ha⟩

theorem State.charge_same (k n : Nat) (h0 : s0.Same F s) (fPower : F .power) : s0.Same F (s.charge k n) :=
  h0.trans { State.Same.refl s with power := fun h => absurd fPower h, coresOn := fun _ _ _ hn => ⟨hn, rfl⟩ }

theorem State.issueNow_same (rs : List ReadReq) (ws : List WriteReq) (h0 : s0.Same F s) (fMemp : F .memp) (fPower : F .power) :
    s0.Same F (s.issueNow rs ws) :=
  State.charge_same _ _ (State.charge_same _ _
    (h0.trans { State.Same.refl s with memp := fun h => absurd fMemp h }) fPower) fPower

theorem State.askWrites_same (ps : List (Nat × Nat)) (obj : MemObj) (h0 : s0.Same F s) (fMemp : F .memp)
    (fPower : F .power) : s0.Same F (s.askWrites ps obj) :=
  State.issueNow_same _ _ (h0.trans { State.Same.refl s with memp := fun h => absurd fMemp h }) fMemp fPower

theorem State.wr_same (a : Nat) (bs : Bytes) (obj : MemObj) (h0 : s0.Same F s) (fMem : F .mem) (fMemp : F .memp)
    (fPower : F .power) : s0.Same F (s.wr a bs obj) :=
  State.askWrites_same _ _ (State.Same.onMem fMem (spWf_memWrite _ _ _) h0) fMemp fPower

/-- A write into bytes of the pool. -/
theorem State.wr_pool_same (a : Nat) (bs : Bytes) (obj : MemObj)
    (hp : ¬F .mem → ¬F .img → ∀ i, a ≤ i → i < a + bs.length → s0.pooled i) (h0 : s0.Same F s) (fPool : F .pool)
    (fMemp : F .memp) (fPower : F .power) : s0.Same F (s.wr a bs obj) := by
  refine State.askWrites_same _ _ { h0 with
    memWf := fun x => spWf_memWrite _ _ _ (h0.memWf x), mem := fun _ h => absurd fPool h,
    poolOnly := fun x y i hi => ?_ } fMemp fPower
  refine (spGet_memWrite_of_outside bs s.mem a i ?_).trans (h0.poolOnly x y i hi)
  by_contra hc
  exact hi (hp x y i (by omega) (by omega))

/-- Writes to the link entries of a chain whose cells are the pool's. -/
theorem State.writeLinks_same (c : Chain) (hc : ¬F .mem → ¬F .img → ∀ k, (true, k) ∈ c.cells → s0.poolCell k)
    (h0 : s0.Same F s) (fPool : F .pool) (fMemp : F .memp) (fPower : F .power) : s0.Same F (s.writeLinks c) := by
  refine State.Same.foldl _ _ (fun u i hu => ?_) h0
  split
  case h_1 k hk =>
    refine State.wr_pool_same _ _ _ (fun x y a ha hb => ?_) hu fPool fMemp fPower
    refine s0.pooled_of_poolCell (hc x y k (List.mem_of_getElem? hk)) (.inr ?_)
    have hs : s.sect 5 = s0.sect 5 := by simp only [State.sect, h0.img y]
    rw [← hs]
    exact ⟨ha, by simpa using hb⟩
  case h_2 => exact hu

/-- Bytes of a buffer into cells that are the pool's. -/
theorem State.fillCells_same (cells : List (Bool × Nat)) (data : Bytes) (obj : MemObj)
    (hc : ¬F .mem → ¬F .img → ∀ e ∈ cells, s0.poolCell e.2) (h0 : s0.Same F s) (fPool : F .pool) (fMemp : F .memp)
    (fPower : F .power) : s0.Same F (s.fillCells cells data obj) := by
  have key : ∀ l : List Nat, (∀ i ∈ l, i < cells.length) → ∀ u, s0.Same F u → s0.Same F (l.foldl (fun s i =>
      let b := slice data (4096 * i) 4096
      if b.isEmpty then s else s.wr (s.cellAddr (cells.getD i (true, 0)).2) b obj) u) := by
    intro l
    induction l with
    | nil => exact fun _ _ hu => hu
    | cons i l ih =>
      intro hl u hu
      refine ih (fun j hj => hl j (List.mem_cons_of_mem _ hj)) _ (State.Same.ofIte (fun _ => hu) fun _ => ?_)
      refine State.wr_pool_same _ _ _ (fun x y a ha hb => ?_) hu fPool fMemp fPower
      have hlt : i < cells.length := hl i List.mem_cons_self
      have hlen : (slice data (4096 * i) 4096).length ≤ 4096 := by simp [slice]
      have hs : u.sect 5 = s0.sect 5 := by simp only [State.sect, hu.img y]
      rw [List.getD_eq_getElem _ _ hlt, State.cellAddr, hs] at ha hb
      exact s0.pooled_of_poolCell (hc x y _ (List.getElem_mem hlt)) (.inl ⟨ha, by omega⟩)
  exact key _ (fun _ hi => List.mem_range.mp hi) _ h0

/-- Chains replaced, the cells of each the pool's. -/
theorem State.Same.onHamper {h : HamperSt}
    (hc : ¬F .mem → ¬F .img → ∀ c ∈ h.chains, ∀ k, (true, k) ∈ c.cells → s0.poolCell k) (h0 : s0.Same F s)
    (fHamper : F .hamper) : s0.Same F { s with hamper := h } :=
  { h0 with
    hamper := fun h => absurd fHamper h, cells := fun x y => State.poolCell_of_chains (h0.img y) (hc x y) }

/-- The cells of the chains that are there are the pool's. -/
theorem State.Same.chain_cells (h : s0.Same F s) (x : ¬F .mem) (y : ¬F .img) {c : Chain} (hc : c ∈ s.hamper.chains) {k : Nat}
    (hk : (true, k) ∈ c.cells) : s0.poolCell k := h.cells x y k (.inr ⟨c, hc, hk⟩)

theorem State.newChain_same (o : Nat) (cells : List (Bool × Nat)) (refs : Nat) (pass : Option (Nat × Nat)) (dirty : Bool)
    (data : Bytes) (hc : ¬F .mem → ¬F .img → ∀ k, (true, k) ∈ cells → s0.poolCell k) (h0 : s0.Same F s) (fPool : F .pool)
    (fMemp : F .memp) (fHamper : F .hamper) (fPower : F .power) :
    s0.Same F (s.newChain o cells refs pass dirty data).2 := by
  refine State.writeLinks_same _ hc (State.charge_same _ _ (State.Same.onHamper ?_ h0 fHamper) fPower) fPool fMemp fPower
  intro x y c hm k hk
  rcases List.mem_append.mp hm with hm | hm
  · exact h0.chain_cells x y hm hk
  · rw [List.mem_singleton.mp hm] at hk
    exact hc x y k hk

/-! ### Allocation (R172, R174) -/

theorem mem_lowestFree {taken : List Nat} {k c n x : Nat} (h : x ∈ lowestFree taken k c n) : n ≠ 0 ∧ x < c + k := by
  induction k generalizing c n with
  | zero => cases h
  | succ k ih =>
    unfold lowestFree at h
    split at h
    · cases h
    case isFalse hn =>
      split at h
      · exact ⟨hn, by have := (ih h).2; omega⟩
      · rcases List.mem_cons.mp h with rfl | h
        · exact ⟨hn, by omega⟩
        · exact ⟨hn, by have := (ih h).2; omega⟩

theorem State.lt_poolCells_of_lowestFree {o n x : Nat} {m : Bool} (hg : s.mayGrant o n m = true)
    (h : x ∈ lowestFree (takenCells s.hamper m) (n + (takenCells s.hamper m).length) 0 n) : x < s.poolCells m := by
  obtain ⟨hn, hx⟩ := mem_lowestFree h
  simp only [State.mayGrant, Bool.and_eq_true, decide_eq_true_eq] at hg
  obtain ⟨⟨hfree, -⟩, -⟩ := hg
  simp only [State.freeCells] at hfree
  omega

theorem lowestRun_le {taken : List Nat} {total n c : Nat} (h : lowestRun taken total n = some c) : c + n ≤ total := by
  have := List.find?_some h
  simp only [Bool.and_eq_true, decide_eq_true_eq] at this
  exact this.1

/-- The cells that a granted request takes lie in the pool. -/
theorem State.Same.poolCell_lowest {o n : Nat} (h0 : s0.Same F s) (hg : s.mayGrant o n true = true) (x : ¬F .mem)
    (y : ¬F .img) {e : Bool × Nat} (he : e ∈ (lowestFree (takenCells s.hamper true)
      (n + (takenCells s.hamper true).length) 0 n).map (fun c => (true, c))) : s0.poolCell e.2 := by
  obtain ⟨c, hc, rfl⟩ := List.mem_map.mp he
  exact h0.cells x y c (.inl (State.lt_poolCells_of_lowestFree hg hc))

/-- The cells of a free run lie in the pool. -/
theorem State.Same.poolCell_run {n c : Nat} {taken : List Nat} (h0 : s0.Same F s)
    (hr : lowestRun taken (s.poolCells true) n = some c) (x : ¬F .mem) (y : ¬F .img) {e : Bool × Nat}
    (he : e ∈ (List.range n).map (fun i => (true, c + i))) : s0.poolCell e.2 := by
  obtain ⟨i, hi, rfl⟩ := List.mem_map.mp he
  have hle := lowestRun_le hr
  have hlt := List.mem_range.mp hi
  exact h0.cells x y (c + i) (.inl (by omega))

theorem State.unreserve_same (o n : Nat) (h0 : s0.Same F s) (fHamper : F .hamper) : s0.Same F (s.unreserve o n) :=
  State.Same.onHamper (fun x y _ hc _ hk => h0.chain_cells x y hc hk) h0 fHamper

theorem State.allocMem_same {o n refs : Nat} {contig : Bool} {pass : Option (Nat × Nat)} {dirty : Bool} {data : Bytes}
    {v : Nat} {u : State} (e : s.allocMem o n refs contig pass dirty data = some (v, u)) (h0 : s0.Same F s) (fPool : F .pool)
    (fMemp : F .memp) (fHamper : F .hamper) (fPower : F .power) : s0.Same F u := by
  unfold State.allocMem at e
  dsimp only at e
  split at e
  · cases e
  case isFalse hg =>
    split at e
    · obtain ⟨c, hc, hu⟩ := Option.map_eq_some_iff.mp e
      obtain rfl : _ = u := congrArg Prod.snd hu
      exact State.newChain_same _ _ _ _ _ _ (fun x y _ hk => h0.poolCell_run hc x y hk) h0 fPool fMemp fHamper fPower
    · obtain rfl : _ = u := congrArg Prod.snd (Option.some.inj e)
      have hg : s.mayGrant o n true = true := by simpa using hg
      exact State.newChain_same _ _ _ _ _ _ (fun x y _ hk => h0.poolCell_lowest hg x y hk) h0 fPool fMemp fHamper fPower

theorem State.runFromReserved_same {o n : Nat} {pass : Option (Nat × Nat)} {v : Nat} {u : State}
    (e : s.runFromReserved o n pass = some (v, u)) (h0 : s0.Same F s) (fPool : F .pool) (fMemp : F .memp)
    (fHamper : F .hamper) (fPower : F .power) : s0.Same F u := by
  obtain ⟨c, hc, hu⟩ := Option.map_eq_some_iff.mp e
  obtain rfl : _ = u := congrArg Prod.snd hu
  exact State.newChain_same _ _ _ _ _ _ (fun x y _ hk => h0.poolCell_run hc x y hk) (State.unreserve_same _ _ h0 fHamper)
    fPool fMemp fHamper fPower

theorem State.bump_same (a n : Nat) (h0 : s0.Same F s) (fRegs : F .regs) : s0.Same F (s.bump a n) :=
  State.Same.ofIte (fun _ => State.setReg_same _ _ h0 fRegs) (fun _ => h0)

theorem State.allocStage_same {o n refs : Nat} {pass : Option (Nat × Nat)} {dirty : Bool} {data : Bytes} {obj : MemObj}
    {v : Nat} {u : State} (e : s.allocStage o n refs pass dirty data obj = some (v, u)) (h0 : s0.Same F s) (fRegs : F .regs)
    (fPool : F .pool) (fMemp : F .memp) (fHamper : F .hamper) (fPower : F .power) : s0.Same F u := by
  unfold State.allocStage at e
  dsimp only at e
  split at e
  · obtain rfl : _ = u := congrArg Prod.snd (Option.some.inj e)
    exact State.newChain_same _ _ _ _ _ _ (fun _ _ k hk => by simp at hk) h0 fPool fMemp fHamper fPower
  · split at e
    case isTrue hg =>
      obtain rfl : _ = u := congrArg Prod.snd (Option.some.inj e)
      have hb : s0.Same F (s.bump rSTAGE_FALLBACK_CNT 1) := State.bump_same _ _ h0 fRegs
      exact State.fillCells_same _ _ _ (fun x y _ he => hb.poolCell_lowest hg x y he)
        (State.newChain_same _ _ _ _ _ _ (fun x y _ hk => hb.poolCell_lowest hg x y hk) hb fPool fMemp fHamper fPower)
        fPool fMemp fPower
    · cases e

/-- Writes to link entries wherever they lie. -/
theorem State.writeLinks_mem_same (c : Chain) (h0 : s0.Same F s) (fMem : F .mem) (fMemp : F .memp) (fPower : F .power) :
    s0.Same F (s.writeLinks c) := by
  refine State.Same.foldl _ _ (fun u i hu => ?_) h0
  split
  · exact State.wr_same _ _ _ hu fMem fMemp fPower
  · exact hu

/-- Bytes of a buffer into any cells. -/
theorem State.fillCells_mem_same (cells : List (Bool × Nat)) (data : Bytes) (obj : MemObj) (h0 : s0.Same F s) (fMem : F .mem)
    (fMemp : F .memp) (fPower : F .power) : s0.Same F (s.fillCells cells data obj) :=
  State.Same.foldl _ _ (fun _ _ hu =>
    State.Same.ofIte (fun _ => hu) (fun _ => State.wr_same _ _ _ hu fMem fMemp fPower)) h0

theorem State.allocFilled_same {r : CellReq} {dirty : Bool} {data : Bytes} {obj : MemObj} {v : Nat} {u : State}
    (e : s.allocFilled r dirty data obj = some (v, u)) (h0 : s0.Same F s) (fMem : F .mem) (fPool : F .pool) (fMemp : F .memp)
    (fHamper : F .hamper) (fPower : F .power) : s0.Same F u := by
  obtain ⟨⟨w, t⟩, ht, hu⟩ := Option.map_eq_some_iff.mp e
  obtain rfl : _ = u := congrArg Prod.snd hu
  exact State.fillCells_mem_same _ _ _ (State.allocMem_same ht h0 fPool fMemp fHamper fPower) fMem fMemp fPower

/-- Chains that stay are those that were there. -/
theorem State.dropChains_same (f : Chain → Bool) (h0 : s0.Same F s) (fHamper : F .hamper) : s0.Same F (s.dropChains f) :=
  State.Same.onHamper (fun x y _ hc _ hk => h0.chain_cells x y (List.mem_filter.mp hc).1 hk) h0 fHamper

theorem State.setChain_same (d : Chain) (hd : ¬F .mem → ¬F .img → ∀ k, (true, k) ∈ d.cells → s0.poolCell k)
    (h0 : s0.Same F s) (fPool : F .pool) (fMemp : F .memp) (fHamper : F .hamper) (fPower : F .power) :
    s0.Same F (s.setChain d) := by
  refine State.writeLinks_same _ hd (State.Same.onHamper (fun x y c hc k hk => ?_) h0 fHamper) fPool fMemp fPower
  obtain ⟨e, he, rfl⟩ := List.mem_map.mp hc
  split at hk
  · exact hd x y k hk
  · exact h0.chain_cells x y he hk

theorem State.askReads_same (ps : List (Nat × Nat)) (obj : MemObj) (h0 : s0.Same F s) (fMemp : F .memp)
    (fPower : F .power) : s0.Same F (s.askReads ps obj) :=
  State.issueNow_same _ _ (h0.trans { State.Same.refl s with memp := fun h => absurd fMemp h }) fMemp fPower

theorem State.readLinks_same (c : Chain) (n : Nat) (h0 : s0.Same F s) (fMemp : F .memp) (fPower : F .power) :
    s0.Same F (s.readLinks c n) :=
  State.Same.foldl _ _ (fun _ _ hu => State.askReads_same _ _ hu fMemp fPower) h0

theorem State.releaseN_same (m : Bool) (cell n : Nat) (h0 : s0.Same F s) (fRegs : F .regs) (fPool : F .pool) (fMemp : F .memp)
    (fHamper : F .hamper) (fPower : F .power) : s0.Same F (s.releaseN m cell n) := by
  unfold State.releaseN
  split
  · exact State.bump_same _ _ h0 fRegs
  case h_2 c hc =>
    refine State.Same.ofIte (fun _ => ?_) (fun _ => ?_)
    · have hd := State.dropChains_same (fun e => e.id == c.id)
        (State.readLinks_same c c.cells.length h0 fMemp fPower) fHamper
      exact State.Same.ofIte (fun _ => State.bump_same _ _ hd fRegs) (fun _ => hd)
    · exact State.setChain_same _ (fun x y _ hk => h0.chain_cells x y (List.mem_of_find?_eq_some hc) hk)
        (State.readLinks_same _ _ h0 fMemp fPower) fPool fMemp fHamper fPower

end Sys2Proof.Machine
end

section
/-! SUPPORT. What each shared operation touches: one lemma per operation, in the order of the model. -/

-- One declaration after another: the check bounds the memory, and with it the threads.
set_option Elab.async false

namespace Sys2Proof.Machine

theorem State.latch_same {F : Touch → Prop} {s0 s : State} (a : Nat) (v : Word) (h0 : s0.Same F s) (fRegs : F .regs) :
    s0.Same F (s.latch a v) := by
  unfold State.latch
  repeat' with_reducible first
    | assumption
    | apply State.setReg_same
    | (refine State.Same.ofIte (fun _ => ?_) (fun _ => ?_))

theorem State.raise_same {F : Touch → Prop} {s0 s : State} (a i : Nat) (h0 : s0.Same F s) (fRegs : F .regs) :
    s0.Same F (s.raise a i) := by
  unfold State.raise
  repeat' with_reducible first
    | assumption
    | apply State.setReg_same
    | (refine State.Same.ofIte (fun _ => ?_) (fun _ => ?_))

theorem State.rampsOff_same {F : Touch → Prop} {s0 s : State} (h0 : s0.Same F s) (fPower : F .power) :
    s0.Same F (s.rampsOff) := by
  unfold State.rampsOff
  repeat' with_reducible first
    | assumption
    | (extract_lets +onlyGivenNames x; clear_value (e : x = _); subst e)
    | refine State.Same.upd ?_ rfl rfl rfl rfl rfl

theorem State.onPort_same {F : Touch → Prop} {s0 s : State} (p : Nat) (f : Port → Port) (h0 : s0.Same F s)
    (fLink : F .link) :
    s0.Same F (s.onPort p f) := by
  unfold State.onPort
  repeat' with_reducible first
    | assumption
    | (extract_lets +onlyGivenNames x; clear_value (e : x = _); subst e)
    | refine State.Same.upd ?_ rfl rfl rfl rfl rfl
    | exact Keeps.setLen

theorem State.onChan_same {F : Touch → Prop} {s0 s : State} (id : Nat) (f : Chan → Chan) (h0 : s0.Same F s)
    (fLink : F .link) :
    s0.Same F (s.onChan id f) := by
  unfold State.onChan
  repeat' with_reducible first
    | assumption
    | (extract_lets +onlyGivenNames x; clear_value (e : x = _); subst e)
    | (refine State.Same.ofIte (fun _ => ?_) (fun _ => ?_))
    | split
    | refine State.Same.upd ?_ rfl rfl rfl rfl rfl

theorem State.onStep_same {F : Touch → Prop} {s0 s : State} (p : Nat) (f : StepSt → StepSt) (h0 : s0.Same F s)
    (fPart : F (.part p)) :
    s0.Same F (s.onStep p f) := by
  unfold State.onStep
  repeat' with_reducible first
    | assumption
    | apply State.onPart_same

theorem State.onPass_same {F : Touch → Prop} {s0 s : State} (p l : Nat) (f : Pass → Pass) (h0 : s0.Same F s)
    (fPart : F (.part p)) :
    s0.Same F (s.onPass p l f) := by
  unfold State.onPass
  repeat' with_reducible first
    | assumption
    | apply State.onStep_same

theorem State.onMicro_same {F : Touch → Prop} {s0 s : State} (p l m : Nat) (f : Micro → Micro) (h0 : s0.Same F s)
    (fPart : F (.part p)) :
    s0.Same F (s.onMicro p l m f) := by
  unfold State.onMicro
  repeat' with_reducible first
    | assumption
    | apply State.onPass_same

theorem State.replan_same {F : Touch → Prop} {s0 s : State} (p : Nat) (h0 : s0.Same F s) (fPart : F (.part p)) :
    s0.Same F (s.replan p) := by
  unfold State.replan
  repeat' with_reducible first
    | assumption
    | apply State.onPart_same

theorem State.leakMark_same {F : Touch → Prop} {s0 s : State} (key : Nat) (h0 : s0.Same F s) (fLeaks : F .leaks) :
    s0.Same F (s.leakMark key) := by
  unfold State.leakMark
  repeat' with_reducible first
    | assumption
    | refine State.Same.upd ?_ rfl rfl rfl rfl rfl

theorem State.issueSlots_same {F : Touch → Prop} {s0 s : State} (h0 : s0.Same F s) (fMemp : F .memp)
    (fPower : F .power) :
    s0.Same F (s.issueSlots) := by
  unfold State.issueSlots
  repeat' with_reducible first
    | assumption
    | (extract_lets +onlyGivenNames x; clear_value (e : x = _); subst e)
    | apply State.issueNow_same
    | refine State.Same.upd ?_ rfl rfl rfl rfl rfl

theorem State.issueRead_same {F : Touch → Prop} {s0 s : State} (a len : Nat) (obj : MemObj) (h0 : s0.Same F s)
    (fMemp : F .memp) (fPower : F .power) :
    s0.Same F (s.issueRead a len obj) := by
  unfold State.issueRead
  repeat' with_reducible first
    | assumption
    | apply State.askReads_same

theorem State.hostWrites_same {F : Touch → Prop} {s0 s : State} (ws : List HostWrite) (h0 : s0.Same F s)
    (fMem : F .mem) :
    s0.Same F (s.hostWrites ws) :=
  State.Same.onMem fMem (spWf_foldl _ _ (fun _ _ k => spWf_memWrite _ _ _ k) _) h0

theorem State.draw_same {F : Touch → Prop} {s0 s : State} (h0 : s0.Same F s) (fFree : F .free) :
    s0.Same F (s.draw).2 := by
  unfold State.draw
  repeat' with_reducible first
    | assumption
    | dsimp only
    | refine State.Same.upd ?_ rfl rfl rfl rfl rfl

theorem State.issueReads_same {F : Touch → Prop} {s0 s : State} (rs : List (Nat × Nat)) (obj : MemObj)
    (h0 : s0.Same F s) (fMemp : F .memp) (fPower : F .power) :
    s0.Same F (s.issueReads rs obj) := by
  unfold State.issueReads
  repeat' with_reducible first
    | assumption
    | apply State.issueRead_same
    | (refine State.Same.foldl _ _ (fun u a hu => ?_) ?_)

theorem State.useTd_same {F : Touch → Prop} {s0 s : State} (p : Nat) (t : Td) (h0 : s0.Same F s) (fRegs : F .regs) :
    s0.Same F (s.useTd p t) := by
  unfold State.useTd
  repeat' with_reducible first
    | assumption
    | apply State.bump_same

theorem Fetch.row_same {F : Touch → Prop} {s0 : State} (p : Nat) (t : Td) (idx : List Int) (k : Nat)
    (obj : Nat → MemObj)
    (f : Fetch) (r : Nat × Nat) (h0 : s0.Same F f.st) (fMemp : F .memp) (fPower : F .power) :
    s0.Same F (Fetch.row p t idx k obj f r).st :=
  State.Same.foldl _ _ (fun _ _ h => State.issueRead_same _ _ _ h fMemp fPower) h0

theorem State.fetchAt_same {F : Touch → Prop} {s0 s : State} (p : Nat) (t : Td) (idx : List Int) (k : Nat)
    (places : List (Nat × Nat)) (obj : Nat → MemObj) (h0 : s0.Same F s) (fMemp : F .memp) (fPower : F .power) :
    s0.Same F (s.fetchAt p t idx k places obj).1 := by
  have key : ∀ (places : List (Nat × Nat)) (f : Fetch), s0.Same F f.st →
      s0.Same F (places.foldl (Fetch.row p t idx k obj) f).st := by
    intro places
    induction places with
    | nil => exact fun _ h => h
    | cons r places ih => exact fun f h => ih _ (Fetch.row_same p t idx k obj f r h fMemp fPower)
  exact key places _ h0

theorem State.fetchRows_same {F : Touch → Prop} {s0 s : State} (p : Nat) (t : Td) (idx : List Int) (k l : Nat)
    (rows : List Nat) (obj : Nat → MemObj) (h0 : s0.Same F s) (fMemp : F .memp) (fPower : F .power) :
    s0.Same F (s.fetchRows p t idx k l rows obj).1 :=
  State.fetchAt_same _ _ _ _ _ _ h0 fMemp fPower

theorem State.wrBytes_same {F : Touch → Prop} {s0 s : State} (bs : List (Nat × Byte)) (obj : MemObj) (h0 : s0.Same F s)
    (fMem : F .mem) (fMemp : F .memp) (fPower : F .power) : s0.Same F (s.wrBytes bs obj) :=
  State.askWrites_same _ _ (State.Same.onMem fMem (spWf_foldl _ _ (fun _ _ k => spWf_spSet _ _ _ k) _) h0) fMemp fPower

theorem State.tdPut_same {F : Touch → Prop} {s0 s : State} (p : Nat) (t : Td) (idx : List Int) (es : List
    (List Nat × Nat × Nat)) (above : List Nat) (obj : MemObj) (h0 : s0.Same F s) (fRegs : F .regs) (fMem : F .mem)
    (fMemp : F .memp) (fPower : F .power) :
    s0.Same F (s.tdPut p t idx es above obj) := by
  unfold State.tdPut
  repeat' with_reducible first
    | assumption
    | (extract_lets +onlyGivenNames x; clear_value (e : x = _); subst e)
    | apply State.bump_same
    | apply State.wrBytes_same

theorem State.tdAdd_same {F : Touch → Prop} {s0 s : State} (p : Nat) (t : Td) (idx : List Int) (es : List
    (List Nat × F32)) (adds : List (Nat × Nat × F32)) (h0 : s0.Same F s) (fRegs : F .regs) :
    s0.Same F (s.tdAdd p t idx es adds).1 := by
  unfold State.tdAdd
  repeat' with_reducible first
    | assumption
    | (extract_lets +onlyGivenNames x; clear_value (e : x = _); subst e)
    | apply State.bump_same

theorem State.tdFlush_same {F : Touch → Prop} {s0 s : State} (t : Td) (adds mine : List (Nat × Nat × F32))
    (obj : Nat → MemObj) (h0 : s0.Same F s) (fMem : F .mem) (fMemp : F .memp) (fPower : F .power) :
    s0.Same F (s.tdFlush t adds mine obj) := by
  unfold State.tdFlush
  repeat' with_reducible first
    | assumption
    | (extract_lets +onlyGivenNames x; clear_value (e : x = _); subst e)
    | apply State.wrBytes_same
    | (refine State.Same.foldl _ _ (fun u a hu => ?_) ?_)

theorem State.divideShares_same {F : Touch → Prop} {s0 s : State} (f : Nat → Bool) (h0 : s0.Same F s)
    (fLink : F .link) :
    s0.Same F (s.divideShares f) := by
  unfold State.divideShares
  repeat' with_reducible first
    | assumption
    | (extract_lets +onlyGivenNames x; clear_value (e : x = _); subst e)
    | (refine State.Same.ofIte (fun _ => ?_) (fun _ => ?_))
    | split
    | refine State.Same.upd ?_ rfl rfl rfl rfl rfl

theorem State.chansStart_same {F : Touch → Prop} {s0 s : State} (h0 : s0.Same F s) (fLink : F .link) :
    s0.Same F (s.chansStart) := by
  unfold State.chansStart
  repeat' with_reducible first
    | assumption
    | (extract_lets +onlyGivenNames x; clear_value (e : x = _); subst e)
    | apply State.divideShares_same
    | (refine State.Same.ofIte (fun _ => ?_) (fun _ => ?_))
    | split
    | refine State.Same.upd ?_ rfl rfl rfl rfl rfl

theorem State.trainAll_same {F : Touch → Prop} {s0 s : State} (h0 : s0.Same F s)
    (fLink : F .link) : s0.Same F s.trainAll :=
  State.chansStart_same (State.Same.upd h0 rfl rfl rfl rfl rfl (hp := fun _ => by simp)) fLink

theorem State.showUnits_same {F : Touch → Prop} {s0 s : State} (h0 : s0.Same F s) (fUnits : F .units) :
    s0.Same F (s.showUnits) := by
  unfold State.showUnits
  repeat' with_reducible first
    | assumption
    | (extract_lets +onlyGivenNames x; clear_value (e : x = _); subst e)
    | refine State.Same.upd ?_ rfl rfl rfl rfl rfl

theorem State.showSlices_same {F : Touch → Prop} {s0 s : State} (p : Nat) (h0 : s0.Same F s) (fUnits : F .units) :
    s0.Same F (s.showSlices p) := by
  unfold State.showSlices
  repeat' with_reducible first
    | assumption
    | (extract_lets +onlyGivenNames x; clear_value (e : x = _); subst e)
    | (refine State.Same.ofIte (fun _ => ?_) (fun _ => ?_))
    | split
    | refine State.Same.upd ?_ rfl rfl rfl rfl rfl

theorem State.denied_same {F : Touch → Prop} {s0 s : State} (mem : Bool) (h0 : s0.Same F s) (fRegs : F .regs) :
    s0.Same F (s.denied mem) := by
  unfold State.denied
  repeat' with_reducible first
    | assumption
    | apply State.bump_same
    | (refine State.Same.ofIte (fun _ => ?_) (fun _ => ?_))

theorem State.reserve_same {F : Touch → Prop} {s0 s : State} {o n : Nat} {u : State} (e : (s.reserve o n) = some u)
    (h0 : s0.Same F s) (fHamper : F .hamper) : s0.Same F u := by
  refine (?_ : s0.SameAll F (fun x => x) (s.reserve o n)) _ e
  clear e
  unfold State.reserve
  repeat' with_reducible first
    | assumption
    | exact State.Same.allNone
    | refine State.Same.allSome ?_
    | (refine State.Same.allIte (fun _ => ?_) (fun _ => ?_))
    | refine State.Same.allMapOf _ _ ?_ (fun _ _ => ?_)
    | refine State.Same.allMap _ _ (fun _ _ => ?_)
    | refine State.Same.allBind _ _ ?_ (fun _ _ => ?_)
    | refine State.Same.allFoldl _ _ (fun _ _ _ => ?_) _ ?_
    | (extract_lets +onlyGivenNames x; clear_value (e : x = _); subst e)
    | (refine State.Same.ofIte (fun _ => ?_) (fun _ => ?_))
    | split
    | dsimp only
    | refine State.Same.upd ?_ rfl rfl rfl rfl rfl

theorem State.freeChain_same {F : Touch → Prop} {s0 s : State} (id : Nat) (h0 : s0.Same F s) (fHamper : F .hamper) :
    s0.Same F (s.freeChain id) := by
  unfold State.freeChain
  repeat' with_reducible first
    | assumption
    | apply State.dropChains_same

theorem State.freeOwner_same {F : Touch → Prop} {s0 s : State} (o : Nat) (h0 : s0.Same F s) (fHamper : F .hamper) :
    s0.Same F (s.freeOwner o) := by
  unfold State.freeOwner
  repeat' with_reducible first
    | assumption
    | (extract_lets +onlyGivenNames x; clear_value (e : x = _); subst e)
    | apply State.dropChains_same
    | refine State.Same.upd ?_ rfl rfl rfl rfl rfl

theorem State.release_same {F : Touch → Prop} {s0 s : State} (mem : Bool) (cell : Nat) (h0 : s0.Same F s)
    (fRegs : F .regs) (fPool : F .pool) (fMemp : F .memp) (fHamper : F .hamper) (fPower : F .power) :
    s0.Same F (s.release mem cell) := by
  unfold State.release
  repeat' with_reducible first
    | assumption
    | apply State.releaseN_same

theorem State.releaseId_same {F : Touch → Prop} {s0 s : State} (id : Nat) (h0 : s0.Same F s) (fRegs : F .regs)
    (fPool : F .pool) (fMemp : F .memp) (fHamper : F .hamper) (fPower : F .power) :
    s0.Same F (s.releaseId id) := by
  unfold State.releaseId
  repeat' with_reducible first
    | assumption
    | apply State.release_same
    | split

theorem State.serveReq_same {F : Touch → Prop} {s0 s : State} (r : CellReq) (h0 : s0.Same F s) (fRegs : F .regs)
    (fMem : F .mem) (fPool : F .pool) (fMemp : F .memp) (fHamper : F .hamper) (fPower : F .power) :
    s0.Same F (s.serveReq r) := by
  unfold State.serveReq
  repeat' with_reducible first
    | assumption
    | (extract_lets +onlyGivenNames x; clear_value (e : x = _); subst e)
    | (refine State.allocStage_same (by assumption) ?_ ?_ ?_ ?_ ?_ ?_)
    | apply State.denied_same
    | (refine State.allocFilled_same (by assumption) ?_ ?_ ?_ ?_ ?_ ?_)
    | (rename_i q; split at q)
    | (refine State.Same.ofIte (fun _ => ?_) (fun _ => ?_))
    | split
    | refine State.Same.upd ?_ rfl rfl rfl rfl rfl

theorem State.serveCycle_same {F : Touch → Prop} {s0 s : State} (reqs : List CellReq) (h0 : s0.Same F s)
    (fRegs : F .regs) (fMem : F .mem) (fPool : F .pool) (fMemp : F .memp) (fHamper : F .hamper) (fPower : F .power) :
    s0.Same F (s.serveCycle reqs) := by
  unfold State.serveCycle
  repeat' with_reducible first
    | assumption
    | (extract_lets +onlyGivenNames x; clear_value (e : x = _); subst e)
    | apply State.serveReq_same
    | (refine State.Same.foldl _ _ (fun u a hu => ?_) ?_)
    | refine State.Same.upd ?_ rfl rfl rfl rfl rfl

theorem State.addRef_same {F : Touch → Prop} {s0 s : State} (mem : Bool) (cell : Nat) (copy : CellReq) (k : Nat)
    (h0 : s0.Same F s) (fRegs : F .regs) (fMem : F .mem) (fPool : F .pool) (fMemp : F .memp) (fHamper : F .hamper)
    (fPower : F .power) : s0.Same F (s.addRef mem cell copy k) := by
  have refuse (r : CellReq) : s0.Same F ((s.bump rREF_ERR_CNT 1).serveReq r) :=
    State.serveReq_same _ (State.bump_same _ _ h0 fRegs) fRegs fMem fPool fMemp fHamper fPower
  unfold State.addRef
  dsimp only
  split
  · exact refuse _
  case h_2 c hc =>
    refine State.Same.ofIte (fun _ => refuse _) (fun _ => ?_)
    exact State.setChain_same _ (fun x y _ hk => h0.chain_cells x y (List.mem_of_find?_eq_some hc) hk)
      (State.readLinks_same _ _ h0 fMemp fPower) fPool fMemp fHamper fPower

theorem State.stamp_same {F : Touch → Prop} {s0 s : State} (c : Chan) (fs : List Flit) (h0 : s0.Same F s)
    (fFree : F .free) (fLink : F .link) :
    s0.Same F (s.stamp c fs).2 := by
  unfold State.stamp
  repeat' with_reducible first
    | assumption
    | apply State.onChan_same
    | apply State.draw_same
    | (refine State.Same.ofIte (fun _ => ?_) (fun _ => ?_))
    | split

theorem State.emit_same {F : Touch → Prop} {s0 s : State} (c : Chan) (fs : List Flit) (h0 : s0.Same F s)
    (fLink : F .link) (fPower : F .power) :
    s0.Same F (s.emit c fs) := by
  unfold State.emit
  repeat' with_reducible first
    | assumption
    | (extract_lets +onlyGivenNames x; clear_value (e : x = _); subst e)
    | apply State.onChan_same
    | apply State.charge_same
    | (refine State.Same.ofIte (fun _ => ?_) (fun _ => ?_))
    | split
    | refine State.Same.upd ?_ rfl rfl rfl rfl rfl

theorem State.drive_same {F : Touch → Prop} {s0 s : State} (c : Chan) (fs : List Flit) (h0 : s0.Same F s)
    (fFree : F .free) (fLink : F .link) (fPower : F .power) :
    s0.Same F (s.drive c fs) := by
  unfold State.drive
  repeat' with_reducible first
    | assumption
    | (extract_lets +onlyGivenNames x; clear_value (e : x = _); subst e)
    | apply State.stamp_same
    | apply State.emit_same

theorem State.control_same {F : Touch → Prop} {s0 s : State} (id : Nat) (payload : Bytes) (h0 : s0.Same F s)
    (fFree : F .free) (fLink : F .link) (fPower : F .power) :
    s0.Same F (s.control id payload) := by
  unfold State.control
  repeat' with_reducible first
    | assumption
    | apply State.drive_same
    | (refine State.Same.ofIte (fun _ => ?_) (fun _ => ?_))
    | split

theorem State.pump_same {F : Touch → Prop} {s0 s : State} (id : Nat) (h0 : s0.Same F s) (fFree : F .free)
    (fLink : F .link) (fPower : F .power) :
    s0.Same F (s.pump id) := by
  unfold State.pump
  repeat' with_reducible first
    | assumption
    | (extract_lets +onlyGivenNames x; clear_value (e : x = _); subst e)
    | apply State.onChan_same
    | apply State.stamp_same
    | apply State.emit_same
    | apply State.credit_same
    | (refine State.Same.ofIte (fun _ => ?_) (fun _ => ?_))
    | split
    | refine State.Same.upd ?_ rfl rfl rfl rfl rfl

theorem State.pumpAll_same {F : Touch → Prop} {s0 s : State} (h0 : s0.Same F s) (fFree : F .free) (fLink : F .link)
    (fPower : F .power) :
    s0.Same F (s.pumpAll) := by
  unfold State.pumpAll
  repeat' with_reducible first
    | assumption
    | apply State.pump_same
    | (refine State.Same.foldl _ _ (fun u a hu => ?_) ?_)

theorem State.enqueue_same {F : Touch → Prop} {s0 s : State} (id wire : Nat) (m : TxMsg) (h0 : s0.Same F s)
    (fFree : F .free) (fLink : F .link) (fPower : F .power) :
    s0.Same F (s.enqueue id wire m) := by
  unfold State.enqueue
  repeat' with_reducible first
    | assumption
    | (extract_lets +onlyGivenNames x; clear_value (e : x = _); subst e)
    | apply State.onChan_same
    | apply State.pump_same
    | split
    | refine State.Same.upd ?_ rfl rfl rfl rfl rfl

theorem State.sendOn_same {F : Touch → Prop} {s0 s : State} (m : TxMsg) (back : Bool) (h0 : s0.Same F s)
    (fFree : F .free) (fRegs : F .regs) (fLink : F .link) (fPower : F .power) :
    s0.Same F (s.sendOn m back) := by
  unfold State.sendOn
  repeat' with_reducible first
    | assumption
    | (extract_lets +onlyGivenNames x; clear_value (e : x = _); subst e)
    | apply State.bump_same
    | apply State.enqueue_same
    | (refine State.Same.ofIte (fun _ => ?_) (fun _ => ?_))
    | split
    | refine State.Same.upd ?_ rfl rfl rfl rfl rfl

theorem State.sendWith_same {F : Touch → Prop} {s0 s : State} (chains : List Nat) (dst owner typ trigger : Nat)
    (body : Bytes) (back : Bool) (h0 : s0.Same F s) (fFree : F .free) (fRegs : F .regs) (fLink : F .link)
    (fPower : F .power) :
    s0.Same F (s.sendWith chains dst owner typ trigger body back) := by
  unfold State.sendWith
  repeat' with_reducible first
    | assumption
    | apply State.sendOn_same

theorem State.send_same {F : Touch → Prop} {s0 s : State} (dst owner typ trigger : Nat) (body : Bytes) (back : Bool)
    (h0 : s0.Same F s) (fFree : F .free) (fRegs : F .regs) (fLink : F .link) (fPower : F .power) :
    s0.Same F (s.send dst owner typ trigger body back) := by
  unfold State.send
  repeat' with_reducible first
    | assumption
    | apply State.sendWith_same

theorem State.sendAll_same {F : Touch → Prop} {s0 s : State} (dsts : List Nat) (owner typ trigger : Nat)
    (body : Bytes) (h0 : s0.Same F s) (fFree : F .free) (fRegs : F .regs) (fLink : F .link) (fPower : F .power) :
    s0.Same F (s.sendAll dsts owner typ trigger body) := by
  unfold State.sendAll
  repeat' with_reducible first
    | assumption
    | apply State.send_same
    | (refine State.Same.foldl _ _ (fun u a hu => ?_) ?_)

theorem State.sendMgr_same {F : Touch → Prop} {s0 s : State} (dst typ : Nat) (body : Bytes) (h0 : s0.Same F s)
    (fFree : F .free) (fRegs : F .regs) (fLink : F .link) (fPower : F .power) :
    s0.Same F (s.sendMgr dst typ body) := by
  unfold State.sendMgr
  repeat' with_reducible first
    | assumption
    | apply State.send_same

theorem State.freeSent_same {F : Touch → Prop} {s0 s : State} (id : Nat) (h0 : s0.Same F s) (fRegs : F .regs)
    (fPool : F .pool) (fMemp : F .memp) (fHamper : F .hamper) (fLink : F .link) (fPower : F .power) :
    s0.Same F (s.freeSent id) := by
  unfold State.freeSent
  repeat' with_reducible first
    | assumption
    | (extract_lets +onlyGivenNames x; clear_value (e : x = _); subst e)
    | apply State.releaseId_same
    | (refine State.Same.foldl _ _ (fun u a hu => ?_) ?_)
    | split
    | refine State.Same.upd ?_ rfl rfl rfl rfl rfl

theorem State.freeSlots_same {F : Touch → Prop} {s0 s : State} (chan n : Nat) (h0 : s0.Same F s) (fLink : F .link) :
    s0.Same F (s.freeSlots chan n) := by
  unfold State.freeSlots
  repeat' with_reducible first
    | assumption
    | apply State.onChan_same

theorem State.holdSlot_same {F : Touch → Prop} {s0 s : State} (m : Msg) (whole : Bool) (h0 : s0.Same F s)
    (fLink : F .link) :
    s0.Same F (s.holdSlot m whole) := by
  unfold State.holdSlot
  repeat' with_reducible first
    | assumption
    | (extract_lets +onlyGivenNames x; clear_value (e : x = _); subst e)
    | (refine State.Same.ofIte (fun _ => ?_) (fun _ => ?_))
    | split
    | refine State.Same.upd ?_ rfl rfl rfl rfl rfl

theorem State.dropHolds_same {F : Touch → Prop} {s0 s : State} (f : SlotHold → Bool) (h0 : s0.Same F s)
    (fRegs : F .regs) (fPool : F .pool) (fMemp : F .memp) (fHamper : F .hamper) (fLink : F .link)
    (fPower : F .power) :
    s0.Same F (s.dropHolds f) := by
  unfold State.dropHolds
  repeat' with_reducible first
    | assumption
    | (extract_lets +onlyGivenNames x; clear_value (e : x = _); subst e)
    | apply State.releaseId_same
    | apply State.freeSlots_same
    | (refine State.Same.foldl _ _ (fun u a hu => ?_) ?_)
    | refine State.Same.upd ?_ rfl rfl rfl rfl rfl

theorem State.dropHold_same {F : Touch → Prop} {s0 s : State} (m : Msg) (h0 : s0.Same F s) (fRegs : F .regs)
    (fPool : F .pool) (fMemp : F .memp) (fHamper : F .hamper) (fLink : F .link) (fPower : F .power) :
    s0.Same F (s.dropHold m) := by
  unfold State.dropHold
  repeat' with_reducible first
    | assumption
    | apply State.dropHolds_same

theorem State.putHold_same {F : Touch → Prop} {s0 s : State} (h : SlotHold) (h0 : s0.Same F s) (fLink : F .link) :
    s0.Same F (s.putHold h) := by
  unfold State.putHold
  repeat' with_reducible first
    | assumption
    | (extract_lets +onlyGivenNames x; clear_value (e : x = _); subst e)
    | (refine State.Same.ofIte (fun _ => ?_) (fun _ => ?_))
    | split
    | refine State.Same.upd ?_ rfl rfl rfl rfl rfl

theorem State.claim_same {F : Touch → Prop} {s0 s : State} (m : Msg) (h0 : s0.Same F s) (fLink : F .link) :
    s0.Same F (s.claim m).2 := by
  unfold State.claim
  repeat' with_reducible first
    | assumption
    | apply State.putHold_same
    | split

theorem State.putInbox_same {F : Touch → Prop} {s0 s : State} (m : Msg) (h0 : s0.Same F s) (fLink : F .link) :
    s0.Same F (s.putInbox m) := by
  unfold State.putInbox
  repeat' with_reducible first
    | assumption
    | (extract_lets +onlyGivenNames x; clear_value (e : x = _); subst e)
    | (refine State.Same.ofIte (fun _ => ?_) (fun _ => ?_))
    | split
    | refine State.Same.upd ?_ rfl rfl rfl rfl rfl

theorem State.freeHold_same {F : Touch → Prop} {s0 s : State} (h : SlotHold) (h0 : s0.Same F s) (fLink : F .link) :
    s0.Same F (s.freeHold h) := by
  unfold State.freeHold
  repeat' with_reducible first
    | assumption
    | apply State.freeSlots_same
    | apply State.putHold_same

theorem State.rowCell_same {F : Touch → Prop} {s0 s : State} {h : SlotHold} {q : Pass} {b : Bytes} {i : Nat} {v : Nat}
    {u : State} (e : (s.rowCell h q b i) = some (v, u))
    (h0 : s0.Same F s) (fRegs : F .regs) (fPool : F .pool) (fMemp : F .memp) (fHamper : F .hamper)
    (fPower : F .power) : s0.Same F u := by
  refine (?_ : s0.SameAll F (·.2) (s.rowCell h q b i)) _ e
  clear e
  unfold State.rowCell
  repeat' with_reducible first
    | assumption
    | exact State.Same.allNone
    | refine State.Same.allSome ?_
    | (refine State.Same.allIte (fun _ => ?_) (fun _ => ?_))
    | refine State.Same.allMapOf _ _ ?_ (fun _ _ => ?_)
    | refine State.Same.allMap _ _ (fun _ _ => ?_)
    | refine State.Same.allBind _ _ ?_ (fun _ _ => ?_)
    | refine State.Same.allFoldl _ _ (fun _ _ _ => ?_) _ ?_
    | (extract_lets +onlyGivenNames x; clear_value (e : x = _); subst e)
    | (refine State.allocStage_same (by assumption) ?_ ?_ ?_ ?_ ?_ ?_)
    | exact State.Same.allOf (fun _ e => State.allocStage_same e (by assumption) (by assumption) (by assumption) (by
        assumption) (by assumption) (by assumption))

theorem State.rowCells_same {F : Touch → Prop} {s0 s : State} (h : SlotHold) (q : Pass) (b : Bytes) (n : Nat)
    (h0 : s0.Same F s) (fRegs : F .regs) (fPool : F .pool) (fMemp : F .memp) (fHamper : F .hamper) (fPower : F .power) :
    s0.Same F (s.rowCells h q b n).2 := by
  induction n generalizing s h with
  | zero => exact h0
  | succ n ih =>
    unfold State.rowCells
    split
    · exact h0
    · split
      · exact State.denied_same _ h0 fRegs
      · exact ih _ (State.rowCell_same (by assumption) h0 fRegs fPool fMemp fHamper fPower)

theorem State.handRows_same {F : Touch → Prop} {s0 s : State} (h : SlotHold) (q : Pass) (b : Bytes) (h0 : s0.Same F s)
    (fRegs : F .regs) (fPool : F .pool) (fMemp : F .memp) (fHamper : F .hamper) (fLink : F .link) (fPower : F .power) :
    s0.Same F (s.handRows h q b) := by
  unfold State.handRows
  split
  · exact State.freeHold_same _ h0 fLink
  · exact State.freeSlots_same _ _ (State.putHold_same _
      (State.rowCells_same _ _ _ _ h0 fRegs fPool fMemp fHamper fPower) fLink) fLink

theorem State.handPile_same {F : Touch → Prop} {s0 s : State} (h : SlotHold) (q : Pass) (b : Bytes) (h0 : s0.Same F s)
    (fRegs : F .regs) (fPool : F .pool) (fMemp : F .memp) (fHamper : F .hamper) (fLink : F .link)
    (fPower : F .power) :
    s0.Same F (s.handPile h q b) := by
  unfold State.handPile
  repeat' with_reducible first
    | assumption
    | (refine State.allocStage_same (by assumption) ?_ ?_ ?_ ?_ ?_ ?_)
    | apply State.denied_same
    | apply State.freeHold_same
    | (refine State.Same.ofIte (fun _ => ?_) (fun _ => ?_))
    | split

theorem State.moveOn_same {F : Touch → Prop} {s0 s : State} (h : SlotHold) (h0 : s0.Same F s) (fFree : F .free)
    (fRegs : F .regs) (fPool : F .pool) (fMemp : F .memp) (fHamper : F .hamper) (fLink : F .link)
    (fPower : F .power) :
    s0.Same F (s.moveOn h) := by
  unfold State.moveOn
  repeat' with_reducible first
    | assumption
    | (extract_lets +onlyGivenNames x; clear_value (e : x = _); subst e)
    | apply State.releaseId_same
    | apply State.pumpAll_same
    | apply State.putHold_same
    | (refine State.Same.ofIte (fun _ => ?_) (fun _ => ?_))
    | (refine State.Same.foldl _ _ (fun u a hu => ?_) ?_)
    | split
    | refine State.Same.upd ?_ rfl rfl rfl rfl rfl

theorem State.handTransit_same {F : Touch → Prop} {s0 s : State} (h : SlotHold) (h0 : s0.Same F s) (fFree : F .free)
    (fRegs : F .regs) (fPool : F .pool) (fMemp : F .memp) (fHamper : F .hamper) (fLink : F .link)
    (fPower : F .power) :
    s0.Same F (s.handTransit h) := by
  unfold State.handTransit
  repeat' with_reducible first
    | assumption
    | (extract_lets +onlyGivenNames x; clear_value (e : x = _); subst e)
    | (refine State.allocStage_same (by assumption) ?_ ?_ ?_ ?_ ?_ ?_)
    | apply State.denied_same
    | apply State.freeHold_same
    | apply State.moveOn_same
    | (refine State.Same.ofIte (fun _ => ?_) (fun _ => ?_))
    | split
    | refine State.Same.upd ?_ rfl rfl rfl rfl rfl

theorem State.handOne_same {F : Touch → Prop} {s0 s : State} (h : SlotHold) (h0 : s0.Same F s) (fFree : F .free)
    (fRegs : F .regs) (fPool : F .pool) (fMemp : F .memp) (fHamper : F .hamper) (fLink : F .link)
    (fPower : F .power) :
    s0.Same F (s.handOne h) := by
  unfold State.handOne
  repeat' with_reducible first
    | assumption
    | (extract_lets +onlyGivenNames x; clear_value (e : x = _); subst e)
    | apply State.freeHold_same
    | apply State.handRows_same
    | apply State.handPile_same
    | apply State.handTransit_same
    | (refine State.Same.ofIte (fun _ => ?_) (fun _ => ?_))
    | split

theorem State.noteList_same {F : Touch → Prop} {s0 s : State} (h : SlotHold) (h0 : s0.Same F s) (fLists : F
    (.lists h.owner)) :
    s0.Same F (s.noteList h) := by
  unfold State.noteList
  dsimp only
  refine State.Same.ofIte (fun _ => h0) (fun _ => ?_)
  split
  · exact h0
  · refine State.onPart_lists_same _ _ (fun x => ?_) h0 fLists
    cases hx : x.step with
    | none => simp [linkView, hx]
    | some y =>
      simp only [linkView, onPassOf, hx, Option.map_some, List.map_map]
      congr 3
      refine List.map_congr_left fun q _ => ?_
      simp only [Function.comp_apply]
      split <;> rfl

theorem State.handOver_same {F : Touch → Prop} {s0 s : State} (h0 : s0.Same F s) (fFree : F .free) (fRegs : F .regs)
    (fPool : F .pool) (fMemp : F .memp) (fHamper : F .hamper) (fLists : ∀ p, F (.lists p)) (fLink : F .link)
    (fPower : F .power) :
    s0.Same F (s.handOver) := by
  unfold State.handOver
  repeat' with_reducible first
    | assumption
    | exact fLists _
    | (extract_lets +onlyGivenNames x; clear_value (e : x = _); subst e)
    | apply State.handOne_same
    | apply State.noteList_same
    | (refine State.Same.foldl _ _ (fun u a hu => ?_) ?_)

theorem State.markCorrupt_same {F : Touch → Prop} {s0 s : State} (msg : Msg) (check : Nat) (h0 : s0.Same F s)
    (fRegs : F .regs) :
    s0.Same F (s.markCorrupt msg check) := by
  unfold State.markCorrupt
  repeat' with_reducible first
    | assumption
    | (extract_lets +onlyGivenNames x; clear_value (e : x = _); subst e)
    | apply State.latch_same
    | apply State.bump_same
    | apply State.raise_same

theorem State.arrive_same {F : Touch → Prop} {s0 s : State} (m : Msg) (h0 : s0.Same F s) (fRegs : F .regs)
    (fPool : F .pool) (fMemp : F .memp) (fHamper : F .hamper) (fLink : F .link) (fPower : F .power) :
    s0.Same F (s.arrive m) := by
  unfold State.arrive
  repeat' with_reducible first
    | assumption
    | (extract_lets +onlyGivenNames x; clear_value (e : x = _); subst e)
    | apply State.bump_same
    | apply State.dropHold_same
    | apply State.putInbox_same
    | apply State.markCorrupt_same
    | (refine State.Same.ofIte (fun _ => ?_) (fun _ => ?_))
    | split
    | refine State.Same.upd ?_ rfl rfl rfl rfl rfl

theorem State.arriveEarly_same {F : Touch → Prop} {s0 s : State} (n : Nat) (h0 : s0.Same F s) (fRegs : F .regs)
    (fPool : F .pool)
    (fMemp : F .memp) (fHamper : F .hamper) (fLink : F .link) (fPower : F .power) :
    s0.Same F (State.arriveEarly n s) := by
  induction n generalizing s with
  | zero => exact h0
  | succ n ih =>
    have k : s0.Same F (s.link.early.foldl State.arrive { s with link := { s.link with early := [] } }) :=
      State.Same.foldl _ _ (fun _ _ hu => State.arrive_same _ hu fRegs fPool fMemp fHamper fLink fPower)
        (State.Same.upd h0 rfl rfl rfl rfl rfl)
    unfold State.arriveEarly
    exact State.Same.ofIte (fun _ => h0) (fun _ => State.Same.ofIte (fun _ => k) (fun _ => ih k))

theorem State.handBytes_same {F : Touch → Prop} {s0 s : State} (m : Msg) (h0 : s0.Same F s) (fLink : F .link) :
    s0.Same F (s.handBytes m) := by
  unfold State.handBytes
  repeat' with_reducible first
    | assumption
    | (extract_lets +onlyGivenNames x; clear_value (e : x = _); subst e)
    | (refine State.Same.ofIte (fun _ => ?_) (fun _ => ?_))
    | split
    | refine State.Same.upd ?_ rfl rfl rfl rfl rfl

theorem State.showTransit_same {F : Touch → Prop} {s0 s : State} (m : Msg) (h0 : s0.Same F s) (fLink : F .link) :
    s0.Same F (s.showTransit m) := by
  unfold State.showTransit
  repeat' with_reducible first
    | assumption
    | apply State.putInbox_same
    | (refine State.Same.ofIte (fun _ => ?_) (fun _ => ?_))

theorem State.join_same {F : Touch → Prop} {s0 s : State} (id : Nat) (f : Flit) (h0 : s0.Same F s) (fRegs : F .regs)
    (fPool : F .pool) (fMemp : F .memp) (fHamper : F .hamper) (fLink : F .link) (fPower : F .power) :
    s0.Same F (s.join id f) := by
  unfold State.join
  repeat' with_reducible first
    | assumption
    | (extract_lets +onlyGivenNames x; clear_value (e : x = _); subst e)
    | apply State.onChan_same
    | apply State.holdSlot_same
    | apply State.arrive_same
    | apply State.handBytes_same
    | apply State.showTransit_same
    | (refine State.Same.ofIte (fun _ => ?_) (fun _ => ?_))
    | split

theorem State.rxMark_same {F : Touch → Prop} {s0 s : State} (c : Chan) (f : Flit) (arrivalPs : Option Nat)
    (h0 : s0.Same F s) (fFree : F .free) (fStitch : F .stitch) :
    s0.Same F (s.rxMark c f arrivalPs) := by
  unfold State.rxMark
  repeat' with_reducible first
    | assumption
    | (extract_lets +onlyGivenNames x; clear_value (e : x = _); subst e)
    | apply State.draw_same
    | (refine State.Same.ofIte (fun _ => ?_) (fun _ => ?_))
    | split
    | refine State.Same.upd ?_ rfl rfl rfl rfl rfl

theorem State.rxFlit_same {F : Touch → Prop} {s0 s : State} (id : Nat) (f : Flit) (arrivalPs : Option Nat)
    (h0 : s0.Same F s) (fFree : F .free) (fRegs : F .regs) (fPool : F .pool) (fStitch : F .stitch) (fMemp : F .memp)
    (fHamper : F .hamper) (fLists : ∀ p, F (.lists p)) (fLink : F .link) (fPower : F .power) :
    s0.Same F (s.rxFlit id f arrivalPs) := by
  unfold State.rxFlit
  repeat' with_reducible first
    | assumption
    | exact fLists _
    | (extract_lets +onlyGivenNames x; clear_value (e : x = _); subst e)
    | apply State.onChan_same
    | apply State.pump_same
    | apply State.freeSent_same
    | apply State.handOver_same
    | apply State.arriveEarly_same
    | apply State.join_same
    | apply State.rxMark_same
    | (refine State.Same.ofIte (fun _ => ?_) (fun _ => ?_))
    | (refine State.Same.foldl _ _ (fun u a hu => ?_) ?_)
    | split

theorem State.take_same {F : Touch → Prop} {s0 s : State} (m : Msg) (h0 : s0.Same F s) (fRegs : F .regs)
    (fPool : F .pool) (fMemp : F .memp) (fHamper : F .hamper) (fLink : F .link) (fPower : F .power) :
    s0.Same F (s.take m) := by
  unfold State.take
  repeat' with_reducible first
    | assumption
    | (extract_lets +onlyGivenNames x; clear_value (e : x = _); subst e)
    | apply State.dropHold_same
    | refine State.Same.upd ?_ rfl rfl rfl rfl rfl

theorem State.discard_same {F : Touch → Prop} {s0 s : State} (m : Msg) (h0 : s0.Same F s) (fRegs : F .regs)
    (fPool : F .pool) (fMemp : F .memp) (fHamper : F .hamper) (fLink : F .link) (fPower : F .power) :
    s0.Same F (s.discard m) := by
  unfold State.discard
  repeat' with_reducible first
    | assumption
    | apply State.releaseId_same
    | apply State.freeHold_same
    | apply State.take_same
    | (refine State.Same.ofIte (fun _ => ?_) (fun _ => ?_))
    | (refine State.Same.foldl _ _ (fun u a hu => ?_) ?_)
    | split

theorem State.passOn_same {F : Touch → Prop} {s0 s u : State} (m : Msg)
    (go : State → Nat → Bytes → Option MsgKey → List Nat → State)
    (hg : ∀ v n b w c, s0.Same F v → s0.Same F (go v n b w c)) (e : s.passOn m go = some u) (h0 : s0.Same F s)
    (fRegs : F .regs) (fPool : F .pool) (fMemp : F .memp) (fHamper : F .hamper) (fLink : F .link) (fPower : F .power) :
    s0.Same F u := by
  unfold State.passOn at e
  split at e
  · cases e
    exact hg _ _ _ _ _ (State.take_same _ h0 fRegs fPool fMemp fHamper fLink fPower)
  · split at e
    · cases e
    · split at e
      · cases e
        exact hg _ _ _ _ _ (State.take_same _ (State.putHold_same _ h0 fLink) fRegs fPool fMemp fHamper fLink fPower)
      · cases e
        exact hg _ _ _ _ _ (State.putHold_same _ h0 fLink)

theorem State.onPortChans_same {F : Touch → Prop} {s0 s : State} (p : Nat) (f : Chan → Chan) (h0 : s0.Same F s)
    (fLink : F .link) :
    s0.Same F (s.onPortChans p f) := by
  unfold State.onPortChans
  repeat' with_reducible first
    | assumption
    | (extract_lets +onlyGivenNames x; clear_value (e : x = _); subst e)
    | (refine State.Same.ofIte (fun _ => ?_) (fun _ => ?_))
    | split
    | refine State.Same.upd ?_ rfl rfl rfl rfl rfl

theorem State.oweReport_same {F : Touch → Prop} {s0 s : State} (h0 : s0.Same F s) (fLink : F .link) :
    s0.Same F (s.oweReport) := by
  unfold State.oweReport
  repeat' with_reducible first
    | assumption
    | (extract_lets +onlyGivenNames x; clear_value (e : x = _); subst e)
    | refine State.Same.upd ?_ rfl rfl rfl rfl rfl

theorem State.resendVia_same {F : Touch → Prop} {s0 s : State} (old r d : Nat) (h0 : s0.Same F s) (fFree : F .free)
    (fRegs : F .regs) (fLink : F .link) (fPower : F .power) :
    s0.Same F (s.resendVia old r d) := by
  unfold State.resendVia
  repeat' with_reducible first
    | assumption
    | (extract_lets +onlyGivenNames x; clear_value (e : x = _); subst e)
    | apply State.bump_same
    | apply State.enqueue_same
    | (refine State.Same.ofIte (fun _ => ?_) (fun _ => ?_))
    | (refine State.Same.foldl _ _ (fun u a hu => ?_) ?_)
    | split
    | refine State.Same.upd ?_ rfl rfl rfl rfl rfl

theorem State.chooseRelay_same {F : Touch → Prop} {s0 s : State} (p old : Nat) (h0 : s0.Same F s) (fFree : F .free)
    (fRegs : F .regs) (fLink : F .link) (fPower : F .power) :
    s0.Same F (s.chooseRelay p old) := by
  unfold State.chooseRelay
  repeat' with_reducible first
    | assumption
    | (extract_lets +onlyGivenNames x; clear_value (e : x = _); subst e)
    | apply State.raise_same
    | apply State.onPort_same
    | apply State.pump_same
    | apply State.resendVia_same
    | split

theorem State.leaveActive_same {F : Touch → Prop} {s0 s : State} (p : Nat) (h0 : s0.Same F s) (fFree : F .free)
    (fRegs : F .regs) (fPool : F .pool) (fMemp : F .memp) (fHamper : F .hamper) (fLink : F .link)
    (fPower : F .power) :
    s0.Same F (s.leaveActive p) := by
  unfold State.leaveActive
  repeat' with_reducible first
    | assumption
    | (extract_lets +onlyGivenNames x; clear_value (e : x = _); subst e)
    | apply State.releaseId_same
    | apply State.control_same
    | apply State.chooseRelay_same
    | (refine State.Same.ofIte (fun _ => ?_) (fun _ => ?_))
    | (refine State.Same.foldl _ _ (fun u a hu => ?_) ?_)
    | split
    | refine State.Same.upd ?_ rfl rfl rfl rfl rfl

theorem State.sendHello_same {F : Touch → Prop} {s0 s : State} (id : Nat) (h0 : s0.Same F s) (fFree : F .free)
    (fLink : F .link) (fPower : F .power) :
    s0.Same F (s.sendHello id) := by
  unfold State.sendHello
  repeat' with_reducible first
    | assumption
    | apply State.control_same
    | split

theorem State.rehome_same {F : Touch → Prop} {s0 s : State} (h0 : s0.Same F s) (fFree : F .free) (fLink : F .link)
    (fPower : F .power) :
    s0.Same F (s.rehome) := by
  unfold State.rehome
  repeat' with_reducible first
    | assumption
    | (extract_lets +onlyGivenNames x; clear_value (e : x = _); subst e)
    | apply State.onPort_same
    | apply State.sendHello_same
    | (refine State.Same.ofIte (fun _ => ?_) (fun _ => ?_))
    | (refine State.Same.foldl _ _ (fun u a hu => ?_) ?_)
    | split
    | refine State.Same.upd ?_ rfl rfl rfl rfl rfl

theorem State.retirePort_same {F : Touch → Prop} {s0 s : State} (p fail : Nat) (h0 : s0.Same F s) (fFree : F .free)
    (fRegs : F .regs) (fPool : F .pool) (fUnits : F .units) (fMemp : F .memp) (fHamper : F .hamper) (fLink : F .link)
    (fPower : F .power) (fRecd : F .recd) :
    s0.Same F (s.retirePort p fail) := by
  unfold State.retirePort
  repeat' with_reducible first
    | assumption
    | (extract_lets +onlyGivenNames x; clear_value (e : x = _); subst e)
    | apply State.raise_same
    | apply State.onPort_same
    | apply State.control_same
    | apply State.onPortChans_same
    | apply State.oweReport_same
    | apply State.leaveActive_same
    | apply State.rehome_same
    | (refine State.Same.ofIte (fun _ => ?_) (fun _ => ?_))
    | (refine State.Same.foldl _ _ (fun u a hu => ?_) ?_)
    | split
    | refine State.Same.upd ?_ rfl rfl rfl rfl rfl

theorem State.enterRetrain_same {F : Touch → Prop} {s0 s : State} (p : Nat) (h0 : s0.Same F s) (fFree : F .free)
    (fRegs : F .regs) (fPool : F .pool) (fMemp : F .memp) (fHamper : F .hamper) (fLink : F .link) (fPower : F .power)
    (fRecd : F .recd) :
    s0.Same F (s.enterRetrain p) := by
  unfold State.enterRetrain
  repeat' with_reducible first
    | assumption
    | (extract_lets +onlyGivenNames x; clear_value (e : x = _); subst e)
    | apply State.bump_same
    | apply State.raise_same
    | apply State.onPort_same
    | apply State.onPortChans_same
    | apply State.oweReport_same
    | apply State.leaveActive_same
    | apply State.failRun_same
    | refine State.Same.upd ?_ rfl rfl rfl rfl rfl

theorem State.restartTraining_same {F : Touch → Prop} {s0 s : State} (p : Nat) (h0 : s0.Same F s) (fFree : F .free)
    (fRegs : F .regs) (fPool : F .pool) (fUnits : F .units) (fMemp : F .memp) (fHamper : F .hamper) (fLink : F .link)
    (fPower : F .power) (fRecd : F .recd) :
    s0.Same F (s.restartTraining p) := by
  unfold State.restartTraining
  repeat' with_reducible first
    | assumption
    | (extract_lets +onlyGivenNames x; clear_value (e : x = _); subst e)
    | apply State.onPort_same
    | apply State.onPortChans_same
    | apply State.retirePort_same
    | apply State.failRun_same
    | (refine State.Same.ofIte (fun _ => ?_) (fun _ => ?_))

theorem State.failFlit_same {F : Touch → Prop} {s0 s : State} (p : Nat) (h0 : s0.Same F s) (fFree : F .free)
    (fRegs : F .regs) (fPool : F .pool) (fUnits : F .units) (fMemp : F .memp) (fHamper : F .hamper)
    (fLeaks : F .leaks) (fLink : F .link) (fPower : F .power) (fRecd : F .recd) :
    s0.Same F (s.failFlit p) := by
  unfold State.failFlit
  repeat' with_reducible first
    | assumption
    | (extract_lets +onlyGivenNames x; clear_value (e : x = _); subst e)
    | apply State.bump_same
    | apply State.onPort_same
    | apply State.leakMark_same
    | apply State.retirePort_same
    | apply State.enterRetrain_same
    | apply State.restartTraining_same
    | apply State.failRun_same
    | (refine State.Same.ofIte (fun _ => ?_) (fun _ => ?_))
    | split
    | refine State.Same.upd ?_ rfl rfl rfl rfl rfl

theorem State.badFlit_same {F : Touch → Prop} {s0 s : State} (p : Nat) (h0 : s0.Same F s) (fFree : F .free)
    (fRegs : F .regs) (fPool : F .pool) (fUnits : F .units) (fMemp : F .memp) (fHamper : F .hamper)
    (fLeaks : F .leaks) (fLink : F .link) (fPower : F .power) (fRecd : F .recd) :
    s0.Same F (s.badFlit p) := by
  unfold State.badFlit
  repeat' with_reducible first
    | assumption
    | apply State.charge_same
    | apply State.failFlit_same
    | (refine State.Same.ofIte (fun _ => ?_) (fun _ => ?_))

theorem State.goodFlit_same {F : Touch → Prop} {s0 s : State} (p : Nat) (h0 : s0.Same F s) (fLink : F .link) :
    s0.Same F (s.goodFlit p) := by
  unfold State.goodFlit
  repeat' with_reducible first
    | assumption
    | (extract_lets +onlyGivenNames x; clear_value (e : x = _); subst e)
    | apply State.onPort_same
    | apply State.failRun_same
    | (refine State.Same.ofIte (fun _ => ?_) (fun _ => ?_))

theorem State.onFlit_same {F : Touch → Prop} {s0 s : State} (id : Nat) (b : Bytes) (t : Option Nat)
    (right : Flit → Bool)
    (f : State → Chan → Flit → State) (hf : ∀ u c x, s0.Same F u → s0.Same F (f u c x)) (h : s0.Same F s) (fFree : F
        .free) (fRegs : F .regs) (fPool : F .pool) (fUnits : F .units) (fStitch : F .stitch) (fMemp : F .memp)
        (fHamper : F .hamper) (fLists : ∀ p, F (.lists p)) (fLeaks : F .leaks) (fLink : F .link) (fPower : F .power)
        (fRecd : F .recd) :
    s0.Same F (s.onFlit id b t right f) := by
  unfold State.onFlit
  repeat' with_reducible first
    | assumption
    | exact fLists _
    | (extract_lets +onlyGivenNames x; clear_value (e : x = _); subst e)
    | apply State.charge_same
    | apply State.rxFlit_same
    | apply State.badFlit_same
    | apply State.goodFlit_same
    | apply hf
    | (refine State.Same.ofIte (fun _ => ?_) (fun _ => ?_))
    | split

theorem State.sendProbe_same {F : Touch → Prop} {s0 s : State} (id n : Nat) (h0 : s0.Same F s) (fFree : F .free)
    (fLink : F .link) (fPower : F .power) :
    s0.Same F (s.sendProbe id n) := by
  unfold State.sendProbe
  repeat' with_reducible first
    | assumption
    | apply State.control_same

theorem State.clearChan_same {F : Touch → Prop} {s0 s : State} (c : Chan) (h0 : s0.Same F s) (fRegs : F .regs)
    (fPool : F .pool) (fMemp : F .memp) (fHamper : F .hamper) (fLink : F .link) (fPower : F .power) :
    s0.Same F (s.clearChan c) := by
  unfold State.clearChan
  repeat' with_reducible first
    | assumption
    | (extract_lets +onlyGivenNames x; clear_value (e : x = _); subst e)
    | apply State.onChan_same
    | apply State.releaseId_same
    | (refine State.Same.foldl _ _ (fun u a hu => ?_) ?_)
    | refine State.Same.upd ?_ rfl rfl rfl rfl rfl

theorem State.reviveDead_same {F : Touch → Prop} {s0 s : State} (h0 : s0.Same F s) (fLink : F .link) :
    s0.Same F (s.reviveDead) := by
  unfold State.reviveDead
  repeat' with_reducible first
    | assumption
    | (extract_lets +onlyGivenNames x; clear_value (e : x = _); subst e)
    | split
    | refine State.Same.upd ?_ rfl rfl rfl rfl rfl

theorem State.helloOk_same {F : Touch → Prop} {s0 s : State} (id : Nat) (c : Chan) (pl : Bytes) (h0 : s0.Same F s)
    (fFree : F .free) (fRegs : F .regs) (fPool : F .pool) (fMemp : F .memp) (fHamper : F .hamper) (fLink : F .link)
    (fMgr : F .mgr) (fPower : F .power) :
    s0.Same F (s.helloOk id c pl) := by
  unfold State.helloOk
  repeat' with_reducible first
    | assumption
    | (extract_lets +onlyGivenNames x; clear_value (e : x = _); subst e)
    | apply State.onPort_same
    | apply State.onChan_same
    | apply State.pump_same
    | apply State.take_same
    | apply State.oweReport_same
    | apply State.sendProbe_same
    | apply State.clearChan_same
    | apply State.reviveDead_same
    | (refine State.Same.ofIte (fun _ => ?_) (fun _ => ?_))
    | split
    | refine State.Same.upd ?_ rfl rfl rfl rfl rfl

theorem State.portUp_same {F : Touch → Prop} {s0 s : State} (p : Nat) (h0 : s0.Same F s) (fFree : F .free)
    (fRegs : F .regs) (fLink : F .link) (fPower : F .power) :
    s0.Same F (s.portUp p) := by
  unfold State.portUp
  repeat' with_reducible first
    | assumption
    | (extract_lets +onlyGivenNames x; clear_value (e : x = _); subst e)
    | apply State.raise_same
    | apply State.onPort_same
    | apply State.pumpAll_same
    | apply State.oweReport_same
    | apply State.chooseRelay_same
    | apply State.rehome_same
    | apply State.failRun_same
    | (refine State.Same.ofIte (fun _ => ?_) (fun _ => ?_))
    | (refine State.Same.foldl _ _ (fun u a hu => ?_) ?_)

theorem State.serveLost_same {F : Touch → Prop} {s0 s : State} (h0 : s0.Same F s) (fLink : F .link) :
    s0.Same F (s.serveLost) := by
  unfold State.serveLost
  repeat' with_reducible first
    | assumption
    | apply State.onPort_same
    | (refine State.Same.ofIte (fun _ => ?_) (fun _ => ?_))
    | (refine State.Same.foldl _ _ (fun u a hu => ?_) ?_)

theorem State.countSubst_same {F : Touch → Prop} {s0 s : State} (gs : List (Nat × Nat × Bool)) (h0 : s0.Same F s)
    (fRegs : F .regs) :
    s0.Same F (s.countSubst gs) := by
  unfold State.countSubst
  repeat' with_reducible first
    | assumption
    | (extract_lets +onlyGivenNames x; clear_value (e : x = _); subst e)
    | apply State.bump_same
    | apply State.raise_same
    | (refine State.Same.ofIte (fun _ => ?_) (fun _ => ?_))

theorem State.spread_same {F : Touch → Prop} {s0 s : State} (p typ t : Nat) (body : Bytes) (gs : List
    (Nat × Nat × Bool)) (h0 : s0.Same F s) (fFree : F .free) (fRegs : F .regs) (fLink : F .link) (fPower : F .power) :
    s0.Same F (s.spread p typ t body gs) := by
  unfold State.spread
  repeat' with_reducible first
    | assumption
    | apply State.sendAll_same

theorem State.fanPod_same {F : Touch → Prop} {s0 s : State} (p typ t : Nat) (body : Bytes) (h0 : s0.Same F s)
    (fFree : F .free) (fRegs : F .regs) (fLink : F .link) (fPower : F .power) :
    s0.Same F (s.fanPod p typ t body) := by
  unfold State.fanPod
  repeat' with_reducible first
    | assumption
    | apply State.sendAll_same

theorem State.sendVoid_same {F : Touch → Prop} {s0 s : State} (p dst replaces reason subject l m stepNo party : Nat)
    (toGateway back : Bool) (h0 : s0.Same F s) (fFree : F .free) (fRegs : F .regs) (fLink : F .link)
    (fPower : F .power) :
    s0.Same F (s.sendVoid p dst replaces reason subject l m stepNo party toGateway back) := by
  unfold State.sendVoid
  repeat' with_reducible first
    | assumption
    | apply State.bump_same
    | apply State.send_same

theorem State.voidReturn_same {F : Touch → Prop} {s0 s : State} (p via src l m stepNo reason : Nat) (h0 : s0.Same F s)
    (fFree : F .free) (fRegs : F .regs) (fLink : F .link) (fPower : F .power) :
    s0.Same F (s.voidReturn p via src l m stepNo reason) := by
  unfold State.voidReturn
  repeat' with_reducible first
    | assumption
    | (extract_lets +onlyGivenNames x; clear_value (e : x = _); subst e)
    | apply State.sendVoid_same

theorem State.voidGrant_same {F : Touch → Prop} {s0 s : State} (p via src l m stepNo reason : Nat) (h0 : s0.Same F s)
    (fFree : F .free) (fRegs : F .regs) (fPart : F (.part p)) (fLink : F .link) (fPower : F .power) :
    s0.Same F (s.voidGrant p via src l m stepNo reason) := by
  unfold State.voidGrant
  repeat' with_reducible first
    | assumption
    | (extract_lets +onlyGivenNames x; clear_value (e : x = _); subst e)
    | apply State.onMicro_same
    | apply State.sendVoid_same
    | (refine State.Same.ofIte (fun _ => ?_) (fun _ => ?_))

theorem State.spreadMgr_same {F : Touch → Prop} {s0 s : State} (typ : Nat) (body : Bytes) (h0 : s0.Same F s)
    (fFree : F .free) (fRegs : F .regs) (fLink : F .link) (fPower : F .power) :
    s0.Same F (s.spreadMgr typ body) := by
  unfold State.spreadMgr
  repeat' with_reducible first
    | assumption
    | (extract_lets +onlyGivenNames x; clear_value (e : x = _); subst e)
    | apply State.sendAll_same
    | (refine State.Same.ofIte (fun _ => ?_) (fun _ => ?_))

theorem State.sendWithdraw_same {F : Touch → Prop} {s0 s : State} (p : Nat) (x : StepSt) (scope : Nat)
    (h0 : s0.Same F s) (fFree : F .free) (fRegs : F .regs) (fLink : F .link) (fPower : F .power) :
    s0.Same F (s.sendWithdraw p x scope) := by
  unfold State.sendWithdraw
  repeat' with_reducible first
    | assumption
    | apply State.spreadMgr_same
    | (refine State.Same.ofIte (fun _ => ?_) (fun _ => ?_))

theorem State.sendFinal_same {F : Touch → Prop} {s0 s : State} (p l m microMax stepNo : Nat) (gs : List
    (Nat × Nat × Bool)) (h0 : s0.Same F s) (fFree : F .free) (fRegs : F .regs) (fLink : F .link) (fPower : F .power) :
    s0.Same F (s.sendFinal p l m microMax stepNo gs) := by
  unfold State.sendFinal
  repeat' with_reducible first
    | assumption
    | apply State.spread_same
    | (refine State.Same.ofIte (fun _ => ?_) (fun _ => ?_))

theorem State.waitOn_same {F : Touch → Prop} {s0 s : State} (p l m h : Nat) (src : Option Nat) (since : Nat)
    (h0 : s0.Same F s) (fPart : F (.part p)) :
    s0.Same F (s.waitOn p l m h src since) := by
  unfold State.waitOn
  repeat' with_reducible first
    | assumption
    | (extract_lets +onlyGivenNames x; clear_value (e : x = _); subst e)
    | apply State.onPart_same
    | (refine State.Same.ofIte (fun _ => ?_) (fun _ => ?_))

theorem State.waitSince_same {F : Touch → Prop} {s0 s : State} (p l m h since : Nat) (h0 : s0.Same F s) (fPart : F
    (.part p)) :
    s0.Same F (s.waitSince p l m h since) := by
  unfold State.waitSince
  repeat' with_reducible first
    | assumption
    | apply State.waitOn_same

theorem State.waitFor_same {F : Touch → Prop} {s0 s : State} (p l m h : Nat) (h0 : s0.Same F s) (fPart : F (.part p)) :
    s0.Same F (s.waitFor p l m h) := by
  unfold State.waitFor
  repeat' with_reducible first
    | assumption
    | apply State.waitSince_same

theorem State.waitFan_same {F : Touch → Prop} {s0 s : State} (p l m h src : Nat) (h0 : s0.Same F s) (fPart : F
    (.part p)) :
    s0.Same F (s.waitFan p l m h src) := by
  unfold State.waitFan
  repeat' with_reducible first
    | assumption
    | apply State.waitOn_same

theorem State.voidDest_same {F : Touch → Prop} {s0 s : State} (p l stepNo : Nat) (elastic : Bool) (m : Micro)
    (h0 : s0.Same F s) (fFree : F .free) (fRegs : F .regs) (fPart : F (.part p)) (fLink : F .link)
    (fPower : F .power) :
    s0.Same F (s.voidDest p l stepNo elastic m) := by
  unfold State.voidDest
  repeat' with_reducible first
    | assumption
    | apply State.voidReturn_same
    | apply State.voidGrant_same
    | (refine State.Same.ofIte (fun _ => ?_) (fun _ => ?_))
    | (refine State.Same.foldl _ _ (fun u a hu => ?_) ?_)

theorem State.voidSrc_same {F : Touch → Prop} {s0 s : State} (p l stepNo : Nat) (gs : List (Nat × Nat × Bool))
    (m : Micro) (h0 : s0.Same F s) (fFree : F .free) (fRegs : F .regs) (fLink : F .link) (fPower : F .power) :
    s0.Same F (s.voidSrc p l stepNo gs m) := by
  unfold State.voidSrc
  repeat' with_reducible first
    | assumption
    | (extract_lets +onlyGivenNames x; clear_value (e : x = _); subst e)
    | apply State.sendVoid_same
    | (refine State.Same.ofIte (fun _ => ?_) (fun _ => ?_))
    | (refine State.Same.foldl _ _ (fun u a hu => ?_) ?_)

theorem State.ledgerWrite_same {F : Touch → Prop} {s0 s : State} (p : Nat) (x : StepSt) (off : Nat) (b : Bytes)
    (h0 : s0.Same F s) (fMem : F .mem) (fMemp : F .memp) (fPower : F .power) :
    s0.Same F (s.ledgerWrite p x off b) := by
  unfold State.ledgerWrite
  repeat' with_reducible first
    | assumption
    | apply State.wr_same

theorem State.ledgerOpen_same {F : Touch → Prop} {s0 s : State} (p : Nat) (x : StepSt) (h0 : s0.Same F s)
    (fMem : F .mem) (fMemp : F .memp) (fPower : F .power) :
    s0.Same F (s.ledgerOpen p x) := by
  unfold State.ledgerOpen
  repeat' with_reducible first
    | assumption
    | (extract_lets +onlyGivenNames x; clear_value (e : x = _); subst e)
    | apply State.ledgerWrite_same

theorem State.ledgerLayer_same {F : Touch → Prop} {s0 s : State} (p : Nat) (x : StepSt) (l : Nat) (bitmap : Bytes)
    (h0 : s0.Same F s) (fMem : F .mem) (fMemp : F .memp) (fPower : F .power) :
    s0.Same F (s.ledgerLayer p x l bitmap) := by
  unfold State.ledgerLayer
  repeat' with_reducible first
    | assumption
    | apply State.ledgerWrite_same

theorem State.jrnPush_same {F : Touch → Prop} {s0 s : State} (p : Nat) (b : Bytes) (h0 : s0.Same F s) (fPart : F
    (.part p)) :
    s0.Same F (s.jrnPush p b) := by
  unfold State.jrnPush
  repeat' with_reducible first
    | assumption
    | apply State.onPart_same

theorem State.jrnDone_same {F : Touch → Prop} {s0 s : State} (p : Nat) (h0 : s0.Same F s) (fPart : F (.part p)) :
    s0.Same F (s.jrnDone p) := by
  unfold State.jrnDone
  repeat' with_reducible first
    | assumption
    | apply State.onPart_same
    | (refine State.Same.ofIte (fun _ => ?_) (fun _ => ?_))

theorem State.account_same {F : Touch → Prop} {s0 s : State} (h0 : s0.Same F s) (fPower : F .power) :
    s0.Same F (s.account) := by
  unfold State.account
  repeat' with_reducible first
    | assumption
    | (extract_lets +onlyGivenNames x; clear_value (e : x = _); subst e)
    | refine State.Same.upd ?_ rfl rfl rfl rfl rfl

theorem State.govern_same {F : Touch → Prop} {s0 s : State} (runs others last : List Nat) (h0 : s0.Same F s)
    (fRegs : F .regs) (fPower : F .power) :
    s0.Same F (s.govern runs others last) := by
  unfold State.govern
  repeat' with_reducible first
    | assumption
    | (extract_lets +onlyGivenNames x; clear_value (e : x = _); subst e)
    | apply State.bump_same
    | (refine State.Same.ofIte (fun _ => ?_) (fun _ => ?_))
    | split
    | refine State.Same.upd ?_ rfl rfl rfl rfl rfl

theorem State.calibrate_same {F : Touch → Prop} {s0 s : State} (k : Nat) (wins upd : List Nat) (h0 : s0.Same F s)
    (fPower : F .power) :
    s0.Same F (s.calibrate k wins upd) := by
  unfold State.calibrate
  repeat' with_reducible first
    | assumption
    | (extract_lets +onlyGivenNames x; clear_value (e : x = _); subst e)
    | (refine State.Same.ofIte (fun _ => ?_) (fun _ => ?_))
    | (refine State.Same.foldl _ _ (fun u a hu => ?_) ?_)
    | split
    | refine State.Same.upd ?_ rfl rfl rfl rfl rfl

theorem State.energyDigest_same {F : Touch → Prop} {s0 s : State} (h0 : s0.Same F s) (fPower : F .power) :
    s0.Same F (s.energyDigest) := by
  unfold State.energyDigest
  repeat' with_reducible first
    | assumption
    | (extract_lets +onlyGivenNames x; clear_value (e : x = _); subst e)
    | apply State.take_same
    | refine State.Same.upd ?_ rfl rfl rfl rfl rfl

theorem State.startRecal_same {F : Touch → Prop} {s0 s : State} (h0 : s0.Same F s) (fPower : F .power) :
    s0.Same F (s.startRecal) := by
  unfold State.startRecal
  repeat' with_reducible first
    | assumption
    | (extract_lets +onlyGivenNames x; clear_value (e : x = _); subst e)
    | refine State.Same.upd ?_ rfl rfl rfl rfl rfl

theorem State.rampUp_same {F : Touch → Prop} {s0 s : State} (p : Nat) (h0 : s0.Same F s) (fPower : F .power) :
    s0.Same F (s.rampUp p) := by
  unfold State.rampUp
  repeat' with_reducible first
    | assumption
    | (extract_lets +onlyGivenNames x; clear_value (e : x = _); subst e)
    | refine State.Same.upd ?_ rfl rfl rfl rfl rfl

theorem State.startRamps_same {F : Touch → Prop} {s0 s : State} (h0 : s0.Same F s) (fPower : F .power) :
    s0.Same F (s.startRamps) := by
  unfold State.startRamps
  repeat' with_reducible first
    | assumption
    | apply State.rampUp_same
    | split

theorem State.dropStarch_same {F : Touch → Prop} {s0 s : State} (h0 : s0.Same F s) (fRegs : F .regs)
    (fPress : F .press) (fCores : F .cores) (fPower : F .power) :
    s0.Same F (s.dropStarch) := by
  unfold State.dropStarch
  repeat' with_reducible first
    | assumption
    | apply State.domainOff_same
    | (refine State.Same.ofIte (fun _ => ?_) (fun _ => ?_))

theorem State.partOff_same {F : Touch → Prop} {s0 s : State} (p : Nat) (h0 : s0.Same F s) (fRegs : F .regs)
    (fPress : F .press) (fCores : F .cores) (fPower : F .power) :
    s0.Same F (s.partOff p) := by
  unfold State.partOff
  repeat' with_reducible first
    | assumption
    | apply State.domainsOff_same
    | apply State.dropStarch_same

theorem State.wake_same {F : Touch → Prop} {s0 s : State} (p : Nat) (h0 : s0.Same F s) (fPower : F .power) :
    s0.Same F (s.wake p) := by
  unfold State.wake
  repeat' with_reducible first
    | assumption
    | (extract_lets +onlyGivenNames x; clear_value (e : x = _); subst e)
    | apply State.startRecal_same
    | apply State.startRamps_same
    | (refine State.Same.ofIte (fun _ => ?_) (fun _ => ?_))
    | split
    | refine State.Same.upd ?_ rfl rfl rfl rfl rfl

theorem State.endRecal_same {F : Touch → Prop} {s0 s : State} (h0 : s0.Same F s) (fPart : ∀ p, F (.part p))
    (fPower : F .power) :
    s0.Same F (s.endRecal) := by
  unfold State.endRecal
  repeat' with_reducible first
    | assumption
    | exact fPart _
    | (extract_lets +onlyGivenNames x; clear_value (e : x = _); subst e)
    | apply State.onPart_same
    | apply State.startRecal_same
    | apply State.startRamps_same
    | (refine State.Same.ofIte (fun _ => ?_) (fun _ => ?_))
    | split
    | refine State.Same.upd ?_ rfl rfl rfl rfl rfl

theorem State.lowWindow_same {F : Touch → Prop} {s0 s : State} (h0 : s0.Same F s) (fPower : F .power) :
    s0.Same F (s.lowWindow) := by
  unfold State.lowWindow
  repeat' with_reducible first
    | assumption
    | (extract_lets +onlyGivenNames x; clear_value (e : x = _); subst e)
    | (refine State.Same.ofIte (fun _ => ?_) (fun _ => ?_))
    | split
    | refine State.Same.upd ?_ rfl rfl rfl rfl rfl

theorem State.powerRefuse_same {F : Touch → Prop} {s0 s : State} (h0 : s0.Same F s) (fSelf : F .self) :
    s0.Same F (s.powerRefuse) := by
  unfold State.powerRefuse
  repeat' with_reducible first
    | assumption
    | (extract_lets +onlyGivenNames x; clear_value (e : x = _); subst e)
    | (refine State.Same.ofIte (fun _ => ?_) (fun _ => ?_))
    | split
    | refine State.Same.upd ?_ rfl rfl rfl rfl rfl

theorem State.mgtAck_same {F : Touch → Prop} {s0 s : State} (h0 : s0.Same F s) (fMgt : F .mgt) :
    s0.Same F (s.mgtAck) := by
  unfold State.mgtAck
  repeat' with_reducible first
    | assumption
    | refine State.Same.upd ?_ rfl rfl rfl rfl rfl

theorem State.kernelsAt_same {F : Touch → Prop} {s0 s : State} (w : Nat) (h0 : s0.Same F s) (fPart : ∀ p, F (.part p))
    (fPower : F .power) :
    s0.Same F (s.kernelsAt w) := by
  unfold State.kernelsAt
  repeat' with_reducible first
    | assumption
    | exact fPart _
    | (extract_lets +onlyGivenNames x; clear_value (e : x = _); subst e)
    | apply State.calibrate_same
    | apply State.energyDigest_same
    | apply State.endRecal_same
    | (refine State.Same.ofIte (fun _ => ?_) (fun _ => ?_))
    | split

theorem State.driveRsps_same {F : Touch → Prop} {s0 s : State} (g : Bool) (n : Nat) (h0 : s0.Same F s)
    (fSeam : F .seam) :
    s0.Same F (s.driveRsps g n) := by
  induction n generalizing s with
  | zero => exact h0
  | succ n ih =>
    unfold State.driveRsps
    split
    · exact h0
    · exact State.Same.ofIte (fun _ => h0) (fun _ => ih (State.Same.upd h0 rfl rfl rfl rfl rfl))

theorem State.drainRsps_same {F : Touch → Prop} {s0 s : State} (h0 : s0.Same F s) (fSeam : F .seam) :
    s0.Same F (s.drainRsps) := by
  unfold State.drainRsps
  repeat' with_reducible first
    | assumption
    | apply State.driveRsps_same

theorem State.respondTo_same {F : Touch → Prop} {s0 s : State} (gen2 : Bool) (sts tag dom beats : Nat)
    (h0 : s0.Same F s) (fSeam : F .seam) :
    s0.Same F (s.respondTo gen2 sts tag dom beats) := by
  unfold State.respondTo
  repeat' with_reducible first
    | assumption
    | (extract_lets +onlyGivenNames x; clear_value (e : x = _); subst e)
    | apply State.drainRsps_same
    | (refine State.Same.ofIte (fun _ => ?_) (fun _ => ?_))
    | split
    | refine State.Same.upd ?_ rfl rfl rfl rfl rfl

theorem State.respond_same {F : Touch → Prop} {s0 s : State} (gen2 : Bool) (sts tag dom : Nat) (h0 : s0.Same F s)
    (fSeam : F .seam) :
    s0.Same F (s.respond gen2 sts tag dom) := by
  unfold State.respond
  repeat' with_reducible first
    | assumption
    | apply State.respondTo_same

theorem State.reply_same {F : Touch → Prop} {s0 s : State} (r : SeamReq) (sts : Nat) (h0 : s0.Same F s)
    (fSeam : F .seam) :
    s0.Same F (s.reply r sts) := by
  unfold State.reply
  repeat' with_reducible first
    | assumption
    | apply State.respond_same

theorem State.driveNote_same {F : Touch → Prop} {s0 s : State} (f : Note → Bool) (h0 : s0.Same F s) (fSeam : F .seam) :
    s0.Same F (s.driveNote f) := by
  unfold State.driveNote
  repeat' with_reducible first
    | assumption
    | (extract_lets +onlyGivenNames x; clear_value (e : x = _); subst e)
    | (refine State.Same.ofIte (fun _ => ?_) (fun _ => ?_))
    | split
    | refine State.Same.upd ?_ rfl rfl rfl rfl rfl

theorem State.groupNote_same {F : Touch → Prop} {s0 s : State} (kind g dom : Nat) (data : Bytes) (held : Bool)
    (h0 : s0.Same F s) (fSeam : F .seam) :
    s0.Same F (s.groupNote kind g dom data held) := by
  unfold State.groupNote
  repeat' with_reducible first
    | assumption
    | (extract_lets +onlyGivenNames x; clear_value (e : x = _); subst e)
    | refine State.Same.upd ?_ rfl rfl rfl rfl rfl

theorem State.earlyGate_same {F : Touch → Prop} {s0 s : State} {r : SeamReq} {u : State} (e : (s.earlyGate r) = some u)
    (h0 : s0.Same F s) (fSeam : F .seam) : s0.Same F u := by
  refine (?_ : s0.SameAll F (fun x => x) (s.earlyGate r)) _ e
  clear e
  unfold State.earlyGate
  repeat' with_reducible first
    | assumption
    | exact State.Same.allNone
    | refine State.Same.allSome ?_
    | (refine State.Same.allIte (fun _ => ?_) (fun _ => ?_))
    | refine State.Same.allMapOf _ _ ?_ (fun _ _ => ?_)
    | refine State.Same.allMap _ _ (fun _ _ => ?_)
    | refine State.Same.allBind _ _ ?_ (fun _ _ => ?_)
    | refine State.Same.allFoldl _ _ (fun _ _ _ => ?_) _ ?_
    | apply State.reply_same

theorem State.slotGate_same {F : Touch → Prop} {s0 s : State} {r : SeamReq} {u : State} (e : (s.slotGate r) = some u)
    (h0 : s0.Same F s) (fRegs : F .regs) (fSeam : F .seam) : s0.Same F u := by
  refine (?_ : s0.SameAll F (fun x => x) (s.slotGate r)) _ e
  clear e
  unfold State.slotGate
  repeat' with_reducible first
    | assumption
    | exact State.Same.allNone
    | refine State.Same.allSome ?_
    | (refine State.Same.allIte (fun _ => ?_) (fun _ => ?_))
    | refine State.Same.allMapOf _ _ ?_ (fun _ _ => ?_)
    | refine State.Same.allMap _ _ (fun _ _ => ?_)
    | refine State.Same.allBind _ _ ?_ (fun _ _ => ?_)
    | refine State.Same.allFoldl _ _ (fun _ _ _ => ?_) _ ?_
    | apply State.bump_same
    | apply State.reply_same
    | (refine State.earlyGate_same (by assumption) ?_ ?_)
    | exact State.Same.allOf (fun _ e => State.earlyGate_same e (by assumption) (by assumption))

theorem State.registerBell_same {F : Touch → Prop} {s0 s : State} (g layer low : Nat) (h0 : s0.Same F s)
    (fRegs : F .regs) (fGroup : F (.group g)) :
    s0.Same F (s.registerBell g layer low) := by
  unfold State.registerBell
  repeat' with_reducible first
    | assumption
    | apply State.bump_same
    | apply State.onGroup_same
    | (refine State.Same.ofIte (fun _ => ?_) (fun _ => ?_))

theorem State.registerBells_same {F : Touch → Prop} {s0 s : State} (g : Nat) (h0 : s0.Same F s) (fRegs : F .regs)
    (fGroup : F (.group g)) :
    s0.Same F (s.registerBells g) := by
  unfold State.registerBells
  repeat' with_reducible first
    | assumption
    | (extract_lets +onlyGivenNames x; clear_value (e : x = _); subst e)
    | apply State.onGroup_same
    | apply State.registerBell_same
    | (refine State.Same.foldl _ _ (fun u a hu => ?_) ?_)

theorem State.coresBack_same {F : Touch → Prop} {s0 s : State} (g : Nat) (h0 : s0.Same F s) (fPart : ∀ p, F (.part p)) :
    s0.Same F (s.coresBack g) := by
  unfold State.coresBack
  repeat' with_reducible first
    | assumption
    | exact fPart _
    | apply State.onPart_same
    | (refine State.Same.ofIte (fun _ => ?_) (fun _ => ?_))

theorem State.clearLanes_same {F : Touch → Prop} {s0 s : State} (p : Nat) (h0 : s0.Same F s) (fCores : F .cores) :
    s0.Same F (s.clearLanes p) := by
  unfold State.clearLanes
  repeat' with_reducible first
    | assumption
    | (refine State.Same.ofIte (fun _ => ?_) (fun _ => ?_))
    | split
    | refine State.Same.upd ?_ rfl rfl rfl rfl rfl

theorem State.credit_same {F : Touch → Prop} {s0 s : State} (client status : Nat) (h0 : s0.Same F s) (fRegs : F .regs) :
    s0.Same F (s.credit client status) := by
  unfold State.credit
  repeat' with_reducible first
    | assumption
    | apply State.bump_same

theorem State.leaveCores_same {F : Touch → Prop} {s0 s : State} (g status : Nat) (c : Cmd) (h0 : s0.Same F s)
    (fPart : ∀ p, F (.part p)) (fCores : F .cores) :
    s0.Same F (s.leaveCores g status c) := by
  unfold State.leaveCores
  repeat' with_reducible first
    | assumption
    | exact fPart _
    | (extract_lets +onlyGivenNames x; clear_value (e : x = _); subst e)
    | apply State.coresBack_same
    | apply State.clearLanes_same
    | (refine State.Same.ofIte (fun _ => ?_) (fun _ => ?_))

theorem State.complete_same {F : Touch → Prop} {s0 s : State} (g status fault diverted stepNo ledger endAt : Nat)
    (jobs : List (Nat × Nat)) (h0 : s0.Same F s) (fRegs : F .regs) (fMem : F .mem) (fSeam : F .seam) (fMemp : F .memp)
    (fPart : ∀ p, F (.part p)) (fGroup : F (.group g)) (fPress : F .press) (fCores : F .cores) (fPower : F .power) :
    s0.Same F (s.complete g status fault diverted stepNo ledger endAt jobs) := by
  unfold State.complete
  repeat' with_reducible first
    | assumption
    | exact fPart _
    | (extract_lets +onlyGivenNames x; clear_value (e : x = _); subst e)
    | apply State.onGroup_same
    | apply State.wr_same
    | apply State.groupNote_same
    | apply State.credit_same
    | apply State.leaveCores_same
    | (refine State.Same.ofIte (fun _ => ?_) (fun _ => ?_))
    | (refine State.Same.foldl _ _ (fun u a hu => ?_) ?_)
    | split
    | refine State.Same.upd ?_ rfl rfl rfl rfl rfl

theorem State.completeCmd_same {F : Touch → Prop} {s0 s : State} (g status fault : Nat) (h0 : s0.Same F s)
    (fRegs : F .regs) (fMem : F .mem) (fSeam : F .seam) (fMemp : F .memp) (fPart : ∀ p, F (.part p)) (fGroup : F
    (.group g)) (fPress : F .press) (fCores : F .cores) (fPower : F .power) :
    s0.Same F (s.completeCmd g status fault) := by
  unfold State.completeCmd
  repeat' with_reducible first
    | assumption
    | exact fPart _
    | apply State.complete_same
    | split

theorem State.endWhen_same {F : Touch → Prop} {s0 s : State} (g status fault : Nat) (torn : Bool) (busy : Cmd → Bool)
    (h0 : s0.Same F s) (fRegs : F .regs) (fMem : F .mem) (fSeam : F .seam) (fMemp : F .memp) (fPart : ∀ p, F
    (.part p)) (fGroup : F (.group g)) (fPress : F .press) (fCores : F .cores) (fPower : F .power) :
    s0.Same F (s.endWhen g status fault torn busy) := by
  unfold State.endWhen
  repeat' with_reducible first
    | assumption
    | exact fPart _
    | apply State.onGroup_same
    | apply State.completeCmd_same
    | (refine State.Same.ofIte (fun _ => ?_) (fun _ => ?_))
    | split

theorem State.endWritten_same {F : Touch → Prop} {s0 s : State} (g status fault : Nat) (torn : Bool)
    (h0 : s0.Same F s) (fRegs : F .regs) (fMem : F .mem) (fSeam : F .seam) (fMemp : F .memp) (fPart : ∀ p, F
    (.part p)) (fGroup : F (.group g)) (fPress : F .press) (fCores : F .cores) (fPower : F .power) :
    s0.Same F (s.endWritten g status fault torn) := by
  unfold State.endWritten
  repeat' with_reducible first
    | assumption
    | exact fPart _
    | apply State.endWhen_same

theorem State.endCmd_same {F : Touch → Prop} {s0 s : State} (g status fault : Nat) (h0 : s0.Same F s)
    (fRegs : F .regs) (fMem : F .mem) (fSeam : F .seam) (fMemp : F .memp) (fPart : ∀ p, F (.part p)) (fGroup : F
    (.group g)) (fPress : F .press) (fCores : F .cores) (fPower : F .power) :
    s0.Same F (s.endCmd g status fault) := by
  unfold State.endCmd
  repeat' with_reducible first
    | assumption
    | exact fPart _
    | apply State.endWhen_same

theorem State.runsDrained_same {F : Touch → Prop} {s0 s : State} (g : Nat) (h0 : s0.Same F s) (fRegs : F .regs)
    (fMem : F .mem) (fSeam : F .seam) (fMemp : F .memp) (fPart : ∀ p, F (.part p)) (fGroup : F (.group g))
    (fPress : F .press) (fCores : F .cores) (fPower : F .power) :
    s0.Same F (s.runsDrained g) := by
  unfold State.runsDrained
  repeat' with_reducible first
    | assumption
    | exact fPart _
    | apply State.completeCmd_same
    | (refine State.Same.ofIte (fun _ => ?_) (fun _ => ?_))
    | split

theorem State.recVisible_same {F : Touch → Prop} {s0 s : State} (g : Nat) (h0 : s0.Same F s) (fSeam : F .seam)
    (fGroup : F (.group g)) :
    s0.Same F (s.recVisible g) := by
  unfold State.recVisible
  repeat' with_reducible first
    | assumption
    | (extract_lets +onlyGivenNames x; clear_value (e : x = _); subst e)
    | apply State.onGroup_same
    | (refine State.Same.ofIte (fun _ => ?_) (fun _ => ?_))
    | split
    | refine State.Same.upd ?_ rfl rfl rfl rfl rfl

theorem State.askCmd_same {F : Touch → Prop} {s0 s : State} (g : Nat) (rs : List (Nat × Nat)) (h0 : s0.Same F s)
    (fMemp : F .memp) (fGroup : F (.group g)) (fPower : F .power) :
    s0.Same F (s.askCmd g rs) := by
  unfold State.askCmd
  repeat' with_reducible first
    | assumption
    | apply State.onGroup_same
    | apply State.issueReads_same

theorem State.fetchRecords_same {F : Touch → Prop} {s0 s : State} (p off len : Nat) (h0 : s0.Same F s)
    (fMemp : F .memp) (fPower : F .power) :
    s0.Same F (s.fetchRecords p off len) := by
  unfold State.fetchRecords
  repeat' with_reducible first
    | assumption
    | apply State.issueRead_same
    | split

theorem State.begin_same {F : Touch → Prop} {s0 s : State} (g phase : Nat) (d : Bytes) (h0 : s0.Same F s) (fGroup : F
    (.group g)) :
    s0.Same F (s.begin g phase d) := by
  unfold State.begin
  repeat' with_reducible first
    | assumption
    | apply State.onGroup_same

theorem State.refuseDesc_same {F : Touch → Prop} {s0 s : State} (g fault : Nat) (d : Bytes) (h0 : s0.Same F s)
    (fRegs : F .regs) (fMem : F .mem) (fSeam : F .seam) (fMemp : F .memp) (fPart : ∀ p, F (.part p)) (fGroup : F
    (.group g)) (fPress : F .press) (fCores : F .cores) (fPower : F .power) :
    s0.Same F (s.refuseDesc g fault d) := by
  unfold State.refuseDesc
  repeat' with_reducible first
    | assumption
    | exact fPart _
    | (extract_lets +onlyGivenNames x; clear_value (e : x = _); subst e)
    | apply State.complete_same
    | apply State.completeCmd_same
    | apply State.begin_same
    | (refine State.Same.ofIte (fun _ => ?_) (fun _ => ?_))

theorem State.runDesc_same {F : Touch → Prop} {s0 s : State} (g : Nat) (mine : Bytes → Bool)
    (ops : Nat → Bytes → State → List (Nat × Nat))
    (f : Bytes → State → State) (hf : ∀ d u, s0.Same F u → s0.Same F (f d u)) (h0 : s0.Same F s) (fRegs : F .regs)
        (fMem : F .mem) (fSeam : F .seam) (fMemp : F .memp) (fPart : ∀ p, F (.part p)) (fGroup : F (.group g)) (fPress
        : F .press) (fCores : F .cores) (fPower : F .power) :
    s0.Same F (s.runDesc g mine ops f) := by
  unfold State.runDesc
  repeat' with_reducible first
    | assumption
    | exact fPart _
    | (extract_lets +onlyGivenNames x; clear_value (e : x = _); subst e)
    | apply State.bump_same
    | apply State.askCmd_same
    | apply State.refuseDesc_same
    | apply hf
    | (refine State.Same.ofIte (fun _ => ?_) (fun _ => ?_))
    | split

theorem State.answer_same {F : Touch → Prop} {s0 s : State} (g fault : Nat) (h0 : s0.Same F s) (fRegs : F .regs)
    (fMem : F .mem) (fSeam : F .seam) (fMemp : F .memp) (fPart : ∀ p, F (.part p)) (fGroup : F (.group g))
    (fPress : F .press) (fCores : F .cores) (fPower : F .power) :
    s0.Same F (s.answer g fault) := by
  unfold State.answer
  repeat' with_reducible first
    | assumption
    | exact fPart _
    | apply State.completeCmd_same

theorem State.abortRed_same {F : Touch → Prop} {s0 s : State} (p l : Nat) (h0 : s0.Same F s) (fFree : F .free)
    (fRegs : F .regs)
    (fMem : F .mem) (fPart : F (.part p)) (fFold : F .fold) : s0.Same F (s.abortRed p l) := by
  unfold State.abortRed
  split
  · exact h0
  · have hd : s0.Same F s.draw.2 := State.draw_same h0 fFree
    generalize s.draw = d at hd ⊢
    obtain ⟨k, u⟩ := d
    dsimp only at hd ⊢
    refine State.raise_same _ _ (State.bump_same _ _ (State.onStep_same _ _ ?_ fPart) fRegs) fRegs
    exact State.Same.upd hd rfl rfl rfl rfl rfl (hm := spWf_foldl _ _ (fun _ _ k => spWf_memWrite _ _ _ k) _)

theorem State.raiseAbort_same {F : Touch → Prop} {s0 s : State} (p l reason : Nat) (h0 : s0.Same F s)
    (fFree : F .free) (fRegs : F .regs) (fMem : F .mem) (fPart : F (.part p)) (fLink : F .link) (fFold : F .fold)
    (fPower : F .power) :
    s0.Same F (s.raiseAbort p l reason) := by
  unfold State.raiseAbort
  repeat' with_reducible first
    | assumption
    | apply State.spread_same
    | apply State.abortRed_same
    | (refine State.Same.ofIte (fun _ => ?_) (fun _ => ?_))
    | split

theorem State.endAgain_same {F : Touch → Prop} {s0 s : State} (p : Nat) (h0 : s0.Same F s) (fPart : F (.part p)) :
    s0.Same F (s.endAgain p) := by
  unfold State.endAgain
  repeat' with_reducible first
    | assumption
    | apply State.onPart_same
    | apply State.onStep_same
    | apply State.take_same
    | (refine State.Same.ofIte (fun _ => ?_) (fun _ => ?_))
    | split

theorem State.freeTorn_same {F : Touch → Prop} {s0 s : State} (p : Nat) (h0 : s0.Same F s) (fHamper : F .hamper) :
    s0.Same F (s.freeTorn p) := by
  unfold State.freeTorn
  repeat' with_reducible first
    | assumption
    | apply State.freeOwner_same
    | (refine State.Same.ofIte (fun _ => ?_) (fun _ => ?_))

theorem State.teardown_same {F : Touch → Prop} {s0 s : State} (p fault : Nat) (h0 : s0.Same F s) (fFree : F .free)
    (fRegs : F .regs) (fMem : F .mem) (fSeam : F .seam) (fMemp : F .memp) (fHamper : F .hamper) (fPart : ∀ p, F
    (.part p)) (fGroup : ∀ p, F (.group p)) (fPress : F .press) (fCores : F .cores) (fLink : F .link)
    (fFold : F .fold) (fPower : F .power) :
    s0.Same F (s.teardown p fault) := by
  unfold State.teardown
  repeat' with_reducible first
    | assumption
    | exact fGroup _
    | exact fPart _
    | (extract_lets +onlyGivenNames x; clear_value (e : x = _); subst e)
    | apply State.latch_same
    | apply State.raise_same
    | apply State.onPart_same
    | apply State.onGroup_same
    | apply State.sendWithdraw_same
    | apply State.sendFinal_same
    | apply State.voidDest_same
    | apply State.voidSrc_same
    | apply State.wake_same
    | apply State.clearLanes_same
    | apply State.endWritten_same
    | apply State.raiseAbort_same
    | apply State.endAgain_same
    | apply State.freeTorn_same
    | (refine State.Same.ofIte (fun _ => ?_) (fun _ => ?_))
    | (refine State.Same.foldl _ _ (fun u a hu => ?_) ?_)
    | split
    | refine State.Same.upd ?_ rfl rfl rfl rfl rfl

theorem State.teardownAll_same {F : Touch → Prop} {s0 s : State} (fault : Nat) (h0 : s0.Same F s) (fFree : F .free)
    (fRegs : F .regs) (fMem : F .mem) (fSeam : F .seam) (fMemp : F .memp) (fHamper : F .hamper) (fPart : ∀ p, F
    (.part p)) (fGroup : ∀ p, F (.group p)) (fPress : F .press) (fCores : F .cores) (fLink : F .link)
    (fFold : F .fold) (fPower : F .power) :
    s0.Same F (s.teardownAll fault) := by
  unfold State.teardownAll
  repeat' with_reducible first
    | assumption
    | exact fGroup _
    | exact fPart _
    | apply State.teardown_same
    | (refine State.Same.foldl _ _ (fun u a hu => ?_) ?_)

theorem State.takeRecords_same {F : Touch → Prop} {s0 s : State} (p : Nat) (h0 : s0.Same F s) (fFree : F .free)
    (fRegs : F .regs) (fMem : F .mem) (fSeam : F .seam) (fMemp : F .memp) (fHamper : F .hamper) (fPart : ∀ p, F
    (.part p)) (fGroup : ∀ p, F (.group p)) (fPress : F .press) (fCores : F .cores) (fLink : F .link)
    (fFold : F .fold) (fPower : F .power) :
    s0.Same F (s.takeRecords p) := by
  unfold State.takeRecords
  repeat' with_reducible first
    | assumption
    | exact fGroup _
    | exact fPart _
    | apply State.onPart_same
    | apply State.teardown_same
    | (refine State.Same.ofIte (fun _ => ?_) (fun _ => ?_))
    | split

theorem State.setContext_same {F : Touch → Prop} {s0 s : State} (n : Nat) (b : Bytes) (h0 : s0.Same F s)
    (fCtx : F .ctx) :
    s0.Same F (s.setContext n b) := by
  unfold State.setContext
  repeat' with_reducible first
    | assumption
    | (extract_lets +onlyGivenNames x; clear_value (e : x = _); subst e)
    | (refine State.Same.ofIte (fun _ => ?_) (fun _ => ?_))
    | split
    | refine State.Same.upd ?_ rfl rfl rfl rfl rfl

theorem State.runStream_same {F : Touch → Prop} {s0 s : State} (g a : Nat)
    (f : State → Nat → Bytes → Nat → Bytes ⊕ Nat) (h0 : s0.Same F s) (fRegs : F .regs) (fMem : F .mem)
    (fSeam : F .seam) (fMemp : F .memp) (fCtx : F .ctx) (fPart : ∀ p, F (.part p)) (fGroup : F (.group g))
    (fPress : F .press) (fCores : F .cores) (fPower : F .power) :
    s0.Same F (s.runStream g a f) := by
  unfold State.runStream
  repeat' with_reducible first
    | assumption
    | exact fPart _
    | (extract_lets +onlyGivenNames x; clear_value (e : x = _); subst e)
    | apply State.begin_same
    | apply State.runDesc_same
    | apply State.answer_same
    | apply State.setContext_same
    | (refine State.Same.ofIte (fun _ => ?_) (fun _ => ?_))
    | split
    | intro _

theorem State.cmdWritten_same {F : Touch → Prop} {s0 s : State} (g : Nat) (h0 : s0.Same F s) (fRegs : F .regs)
    (fMem : F .mem) (fSeam : F .seam) (fMemp : F .memp) (fPart : ∀ p, F (.part p)) (fGroup : F (.group g))
    (fPress : F .press) (fCores : F .cores) (fPower : F .power) :
    s0.Same F (s.cmdWritten g) := by
  unfold State.cmdWritten
  repeat' with_reducible first
    | assumption
    | exact fPart _
    | apply State.completeCmd_same
    | apply State.answer_same
    | (refine State.Same.ofIte (fun _ => ?_) (fun _ => ?_))
    | split

theorem State.abortNow_same {F : Touch → Prop} {s0 s : State} (g : Nat) (h0 : s0.Same F s) (fFree : F .free)
    (fRegs : F .regs) (fMem : F .mem) (fSeam : F .seam) (fMemp : F .memp) (fPart : ∀ p, F (.part p)) (fGroup : F
    (.group g)) (fPress : F .press) (fCores : F .cores) (fLink : F .link) (fPower : F .power) :
    s0.Same F (s.abortNow g) := by
  unfold State.abortNow
  repeat' with_reducible first
    | assumption
    | exact fPart _
    | (extract_lets +onlyGivenNames x; clear_value (e : x = _); subst e)
    | apply State.onGroup_same
    | apply State.onStep_same
    | apply State.sendWithdraw_same
    | apply State.completeCmd_same
    | apply State.endCmd_same
    | apply State.begin_same
    | apply State.endAgain_same
    | (refine State.Same.ofIte (fun _ => ?_) (fun _ => ?_))
    | split

theorem State.stopCores_same {F : Touch → Prop} {s0 s : State} (g p : Nat) (h0 : s0.Same F s) (fFree : F .free)
    (fGroup : F (.group g)) (fCores : F .cores) :
    s0.Same F (s.stopCores g p) := by
  unfold State.stopCores
  repeat' with_reducible first
    | assumption
    | apply State.onGroup_same
    | apply State.draw_same
    | (refine State.Same.ofIte (fun _ => ?_) (fun _ => ?_))
    | split
    | refine State.Same.upd ?_ rfl rfl rfl rfl rfl

theorem State.restored_same {F : Touch → Prop} {s0 s : State} (g : Nat) (h0 : s0.Same F s) (fGroup : F (.group g))
    (fCores : F .cores) :
    s0.Same F (s.restored g) := by
  unfold State.restored
  repeat' with_reducible first
    | assumption
    | (extract_lets +onlyGivenNames x; clear_value (e : x = _); subst e)
    | apply State.onGroup_same
    | (refine State.Same.ofIte (fun _ => ?_) (fun _ => ?_))
    | split
    | refine State.Same.upd ?_ rfl rfl rfl rfl rfl

theorem State.abortSaved_same {F : Touch → Prop} {s0 s : State} (h0 : s0.Same F s) (fRegs : F .regs) (fMem : F .mem)
    (fSeam : F .seam) (fMemp : F .memp) (fPart : ∀ p, F (.part p)) (fGroup : ∀ p, F (.group p)) (fPress : F .press)
    (fCores : F .cores) (fPower : F .power) :
    s0.Same F (s.abortSaved) := by
  unfold State.abortSaved
  repeat' with_reducible first
    | assumption
    | exact fGroup _
    | exact fPart _
    | apply State.completeCmd_same
    | (refine State.Same.ofIte (fun _ => ?_) (fun _ => ?_))
    | (refine State.Same.foldl _ _ (fun u a hu => ?_) ?_)
    | split

theorem State.copyMem_same {F : Touch → Prop} {s0 s : State} (p src dst n : Nat) (h0 : s0.Same F s) (fMem : F .mem)
    (fMemp : F .memp) (fPower : F .power) : s0.Same F (s.copyMem p src dst n) :=
  State.askWrites_same _ _ (State.Same.onMem fMem (spWf_memCopy _ _ _ _) h0) fMemp fPower

theorem State.onTab_same {F : Touch → Prop} {s0 s : State} (p t : Nat) (f : TablePair → TablePair) (h0 : s0.Same F s)
    (fPart : F (.part p)) :
    s0.Same F (s.onTab p t f) := by
  unfold State.onTab
  repeat' with_reducible first
    | assumption
    | apply State.onPart_same

theorem State.loadBias_same {F : Touch → Prop} {s0 s : State} (p : Nat) (h0 : s0.Same F s) (fMem : F .mem) : s0.Same F
    (s.loadBias p) :=
  State.Same.onMem fMem
    (fun k => spWf_foldl _ _ (fun _ _ k => spWf_memWrite _ _ _ k) _ (spWf_memErase _ _ _ k)) h0

theorem State.loadTables_same {F : Touch → Prop} {s0 s : State} (p : Nat) (h0 : s0.Same F s) (fMem : F .mem)
    (fPart : F (.part p)) :
    s0.Same F (s.loadTables p) := by
  unfold State.loadTables
  repeat' with_reducible first
    | assumption
    | (extract_lets +onlyGivenNames x; clear_value (e : x = _); subst e)
    | apply State.onPart_same
    | apply State.onTab_same
    | apply State.loadBias_same

theorem State.bringUp_same {F : Touch → Prop} {s0 s : State} (p : Nat) (h0 : s0.Same F s) (fFree : F .free)
    (fRegs : F .regs) (fMem : F .mem) (fSeam : F .seam) (fMemp : F .memp) (fHamper : F .hamper) (fPart : ∀ p, F
    (.part p)) (fGroup : ∀ p, F (.group p)) (fPress : F .press) (fCores : F .cores) (fLink : F .link)
    (fFold : F .fold) (fPower : F .power) :
    s0.Same F (s.bringUp p) := by
  unfold State.bringUp
  repeat' with_reducible first
    | assumption
    | exact fGroup _
    | exact fPart _
    | (extract_lets +onlyGivenNames x; clear_value (e : x = _); subst e)
    | apply State.onPart_same
    | apply State.fetchRecords_same
    | apply State.takeRecords_same
    | (refine State.Same.ofIte (fun _ => ?_) (fun _ => ?_))

theorem State.setShadow_same {F : Touch → Prop} {s0 s : State} (p t epoch : Nat) (es : List Bytes) (h0 : s0.Same F s)
    (fPart : F (.part p)) :
    s0.Same F (s.setShadow p t epoch es) := by
  unfold State.setShadow
  repeat' with_reducible first
    | assumption
    | apply State.onTab_same

theorem State.retireBatch_same {F : Touch → Prop} {s0 s : State} (p t : Nat) (h0 : s0.Same F s) (fGroup : ∀ g, F
    (.group g)) :
    s0.Same F (s.retireBatch p t) :=
  State.Same.ofIte (fun _ => h0) fun _ => h0.trans { State.Same.refl s with
    groupsLen := fun _ => by simp, group := fun g hn => absurd (fGroup g) hn, groups := fun hn => absurd (fGroup 0)
        (hn 0) }

theorem State.batchAborts_same {F : Touch → Prop} {s0 s : State} (h0 : s0.Same F s) (fRegs : F .regs) (fMem : F .mem)
    (fSeam : F .seam) (fMemp : F .memp) (fPart : ∀ p, F (.part p)) (fGroup : ∀ p, F (.group p)) (fPress : F .press)
    (fCores : F .cores) (fPower : F .power) :
    s0.Same F (s.batchAborts) := by
  unfold State.batchAborts
  repeat' with_reducible first
    | assumption
    | exact fGroup _
    | exact fPart _
    | (extract_lets +onlyGivenNames x; clear_value (e : x = _); subst e)
    | apply State.bump_same
    | apply State.onGroup_same
    | apply State.endWritten_same
    | (refine State.Same.ofIte (fun _ => ?_) (fun _ => ?_))
    | (refine State.Same.foldl _ _ (fun u a hu => ?_) ?_)
    | split

theorem State.runLoad_same {F : Touch → Prop} {s0 s : State} (g t : Nat)
    (build : State → Nat → Bytes → List Bytes ⊕ Nat) (h0 : s0.Same F s) (fRegs : F .regs) (fMem : F .mem)
    (fSeam : F .seam) (fMemp : F .memp) (fPart : ∀ p, F (.part p)) (fGroup : ∀ p, F (.group p)) (fPress : F .press)
    (fCores : F .cores) (fPower : F .power) :
    s0.Same F (s.runLoad g t build) := by
  unfold State.runLoad
  repeat' with_reducible first
    | assumption
    | exact fGroup _
    | exact fPart _
    | (extract_lets +onlyGivenNames x; clear_value (e : x = _); subst e)
    | apply State.begin_same
    | apply State.runDesc_same
    | apply State.answer_same
    | apply State.setShadow_same
    | apply State.retireBatch_same
    | (refine State.Same.ofIte (fun _ => ?_) (fun _ => ?_))
    | split
    | intro _

theorem State.openBias_same {F : Touch → Prop} {s0 s : State} (p : Nat) (h0 : s0.Same F s) (fMem : F .mem)
    (fMemp : F .memp) (fPower : F .power) :
    s0.Same F (s.openBias p) := by
  unfold State.openBias
  repeat' with_reducible first
    | assumption
    | (extract_lets +onlyGivenNames x; clear_value (e : x = _); subst e)
    | apply State.copyMem_same
    | (refine State.Same.ofIte (fun _ => ?_) (fun _ => ?_))

theorem State.closeBias_same {F : Touch → Prop} {s0 s : State} (p epoch : Nat) (h0 : s0.Same F s) (fPart : F
    (.part p)) :
    s0.Same F (s.closeBias p epoch) := by
  unfold State.closeBias
  repeat' with_reducible first
    | assumption
    | (extract_lets +onlyGivenNames x; clear_value (e : x = _); subst e)
    | apply State.onTab_same

theorem State.heardCount_same {F : Touch → Prop} {s0 s : State} (ofs : Int) (h0 : s0.Same F s) (fStitch : F .stitch) :
    s0.Same F (s.heardCount ofs) := by
  unfold State.heardCount
  repeat' with_reducible first
    | assumption
    | (extract_lets +onlyGivenNames x; clear_value (e : x = _); subst e)
    | (refine State.Same.ofIte (fun _ => ?_) (fun _ => ?_))
    | split
    | refine State.Same.upd ?_ rfl rfl rfl rfl rfl

theorem State.markStitch_same {F : Touch → Prop} {s0 s : State} (h0 : s0.Same F s) (fStitch : F .stitch)
    (fLink : F .link) :
    s0.Same F (s.markStitch) := by
  unfold State.markStitch
  repeat' with_reducible first
    | assumption
    | (extract_lets +onlyGivenNames x; clear_value (e : x = _); subst e)
    | (refine State.Same.ofIte (fun _ => ?_) (fun _ => ?_))
    | split
    | refine State.Same.upd ?_ rfl rfl rfl rfl rfl

theorem State.idleMarks_same {F : Touch → Prop} {s0 s : State} (h0 : s0.Same F s) (fFree : F .free) (fLink : F .link)
    (fPower : F .power) :
    s0.Same F (s.idleMarks) := by
  unfold State.idleMarks
  repeat' with_reducible first
    | assumption
    | apply State.drive_same
    | (refine State.Same.ofIte (fun _ => ?_) (fun _ => ?_))
    | (refine State.Same.foldl _ _ (fun u a hu => ?_) ?_)
    | split

theorem State.noteSent_same {F : Touch → Prop} {s0 s : State} (chan now : Nat) (h0 : s0.Same F s)
    (fStitch : F .stitch) :
    s0.Same F (s.noteSent chan now) := by
  unfold State.noteSent
  repeat' with_reducible first
    | assumption
    | (extract_lets +onlyGivenNames x; clear_value (e : x = _); subst e)
    | refine State.Same.upd ?_ rfl rfl rfl rfl rfl

theorem State.takeCalendar_same {F : Touch → Prop} {s0 s : State} (count secs : Nat) (h0 : s0.Same F s)
    (fMgr : F .mgr) (fRecd : F .recd) :
    s0.Same F (s.takeCalendar count secs) := by
  unfold State.takeCalendar
  repeat' with_reducible first
    | assumption
    | (extract_lets +onlyGivenNames x; clear_value (e : x = _); subst e)
    | (refine State.Same.ofIte (fun _ => ?_) (fun _ => ?_))
    | split
    | refine State.Same.upd ?_ rfl rfl rfl rfl rfl

theorem State.judgePhase_same {F : Touch → Prop} {s0 s : State} (h0 : s0.Same F s) (fStitch : F .stitch) :
    s0.Same F (s.judgePhase) := by
  unfold State.judgePhase
  repeat' with_reducible first
    | assumption
    | (extract_lets +onlyGivenNames x; clear_value (e : x = _); subst e)
    | (refine State.Same.ofIte (fun _ => ?_) (fun _ => ?_))
    | split
    | refine State.Same.upd ?_ rfl rfl rfl rfl rfl

theorem State.countReach_same {F : Touch → Prop} {s0 s : State} (h0 : s0.Same F s) (fMgr : F .mgr) :
    s0.Same F (s.countReach) := by
  unfold State.countReach
  repeat' with_reducible first
    | assumption
    | (extract_lets +onlyGivenNames x; clear_value (e : x = _); subst e)
    | (refine State.Same.ofIte (fun _ => ?_) (fun _ => ?_))
    | (refine State.Same.foldl _ _ (fun u a hu => ?_) ?_)
    | split
    | refine State.Same.upd ?_ rfl rfl rfl rfl rfl

theorem State.flash_same {F : Touch → Prop} {s0 s : State} (ops : List (Nat × Option Bytes)) (h0 : s0.Same F s)
    (fRecd : F .recd) :
    s0.Same F (s.flash ops) := by
  unfold State.flash
  repeat' with_reducible first
    | assumption
    | (extract_lets +onlyGivenNames x; clear_value (e : x = _); subst e)
    | refine State.Same.upd ?_ rfl rfl rfl rfl rfl

theorem State.testRefuse_same {F : Touch → Prop} {s0 s : State} (h0 : s0.Same F s) (fRegs : F .regs) :
    s0.Same F (s.testRefuse) := by
  unfold State.testRefuse
  repeat' with_reducible first
    | assumption
    | apply State.bump_same

theorem State.selfIdle_same {F : Touch → Prop} {s0 s : State} (h0 : s0.Same F s) (fSelf : F .self) :
    s0.Same F (s.selfIdle) := by
  unfold State.selfIdle
  repeat' with_reducible first
    | assumption
    | (extract_lets +onlyGivenNames x; clear_value (e : x = _); subst e)
    | refine State.Same.upd ?_ rfl rfl rfl rfl rfl

theorem State.wrapUpdate_same {F : Touch → Prop} {s0 s : State} (code : Nat) (h0 : s0.Same F s) (fRegs : F .regs)
    (fSelf : F .self) :
    s0.Same F (s.wrapUpdate code) := by
  unfold State.wrapUpdate
  repeat' with_reducible first
    | assumption
    | (extract_lets +onlyGivenNames x; clear_value (e : x = _); subst e)
    | apply State.testRefuse_same
    | apply State.selfIdle_same
    | (refine State.Same.ofIte (fun _ => ?_) (fun _ => ?_))
    | split
    | refine State.Same.upd ?_ rfl rfl rfl rfl rfl

theorem State.selfFinish_same {F : Touch → Prop} {s0 s : State} (h0 : s0.Same F s) (fRegs : F .regs)
    (fPress : F .press) (fOff : F .off) (fPower : F .power) (fRecd : F .recd) (fSelf : F .self) :
    s0.Same F (s.selfFinish) := by
  unfold State.selfFinish
  repeat' with_reducible first
    | assumption
    | (extract_lets +onlyGivenNames x; clear_value (e : x = _); subst e)
    | apply State.raise_same
    | apply State.domainsOff_all_same
    | apply State.rampsOff_same
    | apply State.testRefuse_same
    | (refine State.Same.ofIte (fun _ => ?_) (fun _ => ?_))
    | split
    | refine State.Same.upd ?_ rfl rfl rfl rfl rfl

theorem State.lintRetire_same {F : Touch → Prop} {s0 s : State} (n : Nat) (h0 : s0.Same F s) (fUnits : F .units)
    (fHamper : F .hamper) :
    s0.Same F (s.lintRetire n) := by
  unfold State.lintRetire
  repeat' with_reducible first
    | assumption
    | (extract_lets +onlyGivenNames x; clear_value (e : x = _); subst e)
    | (refine State.Same.ofIte (fun _ => ?_) (fun _ => ?_))
    | split
    | refine State.Same.upd ?_ rfl rfl rfl rfl rfl

theorem State.readLog_same {F : Touch → Prop} {s0 s : State} (logs : List Bytes) (snap : Option Bytes)
    (h0 : s0.Same F s) (fRecd : F .recd) :
    s0.Same F (s.readLog logs snap) := by
  unfold State.readLog
  repeat' with_reducible first
    | assumption
    | (extract_lets +onlyGivenNames x; clear_value (e : x = _); subst e)
    | (refine State.Same.ofIte (fun _ => ?_) (fun _ => ?_))
    | (refine State.Same.foldl _ _ (fun u a hu => ?_) ?_)
    | split
    | refine State.Same.upd ?_ rfl rfl rfl rfl rfl

theorem State.onJob_same {F : Touch → Prop} {s0 s : State} (p : Nat) (r : JobRef) (f : Pass → Pass) (h0 : s0.Same F s)
    (fPart : F (.part p)) (fGroup : ∀ g, r = .batch g → F (.group g)) : s0.Same F (s.onJob p r f) := by
  cases r with
  | step l => exact State.onPass_same _ _ _ h0 fPart
  | batch n => exact State.onGroup_same _ _ h0 (fGroup n rfl)
  | wake => exact State.onPart_same _ _ h0 fPart

theorem State.onLane_same {F : Touch → Prop} {s0 s : State} (c l : Nat) (f : Lane → Lane) (h0 : s0.Same F s)
    (fCores : F .cores) :
    s0.Same F (s.onLane c l f) := by
  unfold State.onLane
  repeat' with_reducible first
    | assumption
    | refine State.Same.upd ?_ rfl rfl rfl rfl rfl

theorem State.countStat_same {F : Touch → Prop} {s0 s : State} (p : Nat) (t : Option RowStat) (h0 : s0.Same F s)
    (fRegs : F .regs) :
    s0.Same F (s.countStat p t) := by
  unfold State.countStat
  repeat' with_reducible first
    | assumption
    | (extract_lets +onlyGivenNames x; clear_value (e : x = _); subst e)
    | apply State.bump_same
    | (refine State.Same.ofIte (fun _ => ?_) (fun _ => ?_))
    | split

theorem State.normTok_same {F : Touch → Prop} {s0 s : State} (p : Nat) (r : JobRef) (j : Job) (t : Tok)
    (h0 : s0.Same F s) (fRegs : F .regs) (fCores : F .cores) (fPower : F .power) :
    s0.Same F (s.normTok p r j t).1 := by
  unfold State.normTok
  repeat' with_reducible first
    | assumption
    | (extract_lets +onlyGivenNames x; clear_value (e : x = _); subst e)
    | (refine State.Same.foldl_fst _ _ (fun u a hu => ?_) _ ?_)
    | apply State.bump_same
    | apply State.charge_same
    | apply State.onLane_same
    | apply State.countStat_same
    | (refine State.Same.ofIte (fun _ => ?_) (fun _ => ?_))
    | (refine State.Same.foldl _ _ (fun u a hu => ?_) ?_)
    | split

theorem State.askTile_same {F : Touch → Prop} {s0 s : State} (p : Nat) (e pr : Bytes) (l b j n : Nat)
    (h0 : s0.Same F s) (fMemp : F .memp) (fPower : F .power) :
    s0.Same F (s.askTile p e pr l b j n) := by
  unfold State.askTile
  repeat' with_reducible first
    | assumption
    | (extract_lets +onlyGivenNames x; clear_value (e : x = _); subst e)
    | apply State.askReads_same

theorem State.issueRouter_same {F : Touch → Prop} {s0 s : State} (p : Nat) (e pr : Bytes) (l b : Nat)
    (h0 : s0.Same F s) (fMemp : F .memp) (fPower : F .power) :
    s0.Same F (s.issueRouter p e pr l b) := by
  unfold State.issueRouter
  repeat' with_reducible first
    | assumption
    | apply State.askTile_same
    | (refine State.Same.foldl _ _ (fun u a hu => ?_) ?_)

theorem State.issueRun_same {F : Touch → Prop} {s0 s : State} (p : Nat) (ref : JobRef) (j : Job) (q : Pass) (r : Run)
    (h0 : s0.Same F s) (fPart : F (.part p)) (fGroup : ∀ p, F (.group p)) (fPress : F .press) (fPower : F .power) :
    s0.Same F (s.issueRun p ref j q r) := by
  unfold State.issueRun
  repeat' with_reducible first
    | assumption
    | exact fGroup _
    | exact fun g _ => fGroup g
    | (extract_lets +onlyGivenNames x; clear_value (e : x = _); subst e)
    | apply State.charge_same
    | apply State.onJob_same
    | (refine State.Same.foldl _ _ (fun u a hu => ?_) ?_)
    | refine State.Same.upd ?_ rfl rfl rfl rfl rfl

theorem State.holdAcc_same {F : Touch → Prop} {s0 s : State} (a : Nat) (v : List F32) (h0 : s0.Same F s)
    (fCores : F .cores) :
    s0.Same F (s.holdAcc a v) := by
  unfold State.holdAcc
  repeat' with_reducible first
    | assumption
    | refine State.Same.upd ?_ rfl rfl rfl rfl rfl

theorem State.raiseBucket_same {F : Touch → Prop} {s0 s : State} (a : Nat) (h0 : s0.Same F s) (fUnits : F .units)
    (fPress : F .press) (fLeaks : F .leaks) :
    s0.Same F (s.raiseBucket a) := by
  unfold State.raiseBucket
  repeat' with_reducible first
    | assumption
    | (extract_lets +onlyGivenNames x; clear_value (e : x = _); subst e)
    | apply State.leakMark_same
    | (refine State.Same.ofIte (fun _ => ?_) (fun _ => ?_))
    | split
    | refine State.Same.upd ?_ rfl rfl rfl rfl rfl

theorem State.countMis_same {F : Touch → Prop} {s0 s : State} (a : Nat) (h0 : s0.Same F s) (fRecd : F .recd) :
    s0.Same F (s.countMis a) := by
  unfold State.countMis
  repeat' with_reducible first
    | assumption
    | (extract_lets +onlyGivenNames x; clear_value (e : x = _); subst e)
    | refine State.Same.upd ?_ rfl rfl rfl rfl rfl

theorem State.leaveArray_same {F : Touch → Prop} {s0 s : State} (a : Nat) (h0 : s0.Same F s) (fPress : F .press) :
    s0.Same F (s.leaveArray a) := by
  unfold State.leaveArray
  repeat' with_reducible first
    | assumption
    | (extract_lets +onlyGivenNames x; clear_value (e : x = _); subst e)
    | refine State.Same.upd ?_ rfl rfl rfl rfl rfl

theorem State.moveJob_same {F : Touch → Prop} {s0 s : State} (p a t : Nat) (on : List Run) (ref : JobRef)
    (h0 : s0.Same F s) (fMemp : F .memp) (fPart : F (.part p)) (fGroup : ∀ p, F (.group p)) (fPower : F .power) :
    s0.Same F (s.moveJob p a t on ref) := by
  unfold State.moveJob
  repeat' with_reducible first
    | assumption
    | exact fGroup _
    | exact fun g _ => fGroup g
    | (extract_lets +onlyGivenNames x; clear_value (e : x = _); subst e)
    | apply State.onJob_same
    | apply State.askTile_same
    | (refine State.Same.ofIte (fun _ => ?_) (fun _ => ?_))
    | (refine State.Same.foldl _ _ (fun u a hu => ?_) ?_)
    | split

theorem State.retireArray_same {F : Touch → Prop} {s0 s : State} (a : Nat) (h0 : s0.Same F s) (fFree : F .free)
    (fRegs : F .regs) (fMem : F .mem) (fUnits : F .units) (fSeam : F .seam) (fMemp : F .memp) (fHamper : F .hamper)
    (fPart : ∀ p, F (.part p)) (fGroup : ∀ p, F (.group p)) (fPress : F .press) (fCores : F .cores) (fLink : F .link)
    (fFold : F .fold) (fPower : F .power) :
    s0.Same F (s.retireArray a) := by
  unfold State.retireArray
  repeat' with_reducible first
    | assumption
    | exact fGroup _
    | exact fPart _
    | (extract_lets +onlyGivenNames x; clear_value (e : x = _); subst e)
    | apply State.bump_same
    | apply State.raise_same
    | apply State.wake_same
    | apply State.teardown_same
    | apply State.leaveArray_same
    | apply State.moveJob_same
    | (refine State.Same.ofIte (fun _ => ?_) (fun _ => ?_))
    | (refine State.Same.foldl _ _ (fun u a hu => ?_) ?_)
    | split
    | refine State.Same.upd ?_ rfl rfl rfl rfl rfl

theorem State.retirePending_same {F : Touch → Prop} {s0 s : State} (p : Nat) (h0 : s0.Same F s) (fFree : F .free)
    (fRegs : F .regs) (fMem : F .mem) (fUnits : F .units) (fSeam : F .seam) (fMemp : F .memp) (fHamper : F .hamper)
    (fPart : ∀ p, F (.part p)) (fGroup : ∀ p, F (.group p)) (fPress : F .press) (fCores : F .cores) (fLink : F .link)
    (fFold : F .fold) (fPower : F .power) :
    s0.Same F (s.retirePending p) := by
  unfold State.retirePending
  repeat' with_reducible first
    | assumption
    | exact fGroup _
    | exact fPart _
    | apply State.retireArray_same
    | (refine State.Same.ofIte (fun _ => ?_) (fun _ => ?_))
    | (refine State.Same.foldl _ _ (fun u a hu => ?_) ?_)

theorem State.startWake_same {F : Touch → Prop} {s0 s : State} (p l : Nat) (h0 : s0.Same F s) (fMemp : F .memp)
    (fPart : F (.part p)) (fPower : F .power) :
    s0.Same F (s.startWake p l) := by
  unfold State.startWake
  repeat' with_reducible first
    | assumption
    | (extract_lets +onlyGivenNames x; clear_value (e : x = _); subst e)
    | apply State.onPart_same
    | apply State.wake_same
    | apply State.issueRouter_same

theorem State.startWakes_same {F : Touch → Prop} {s0 s : State} (h0 : s0.Same F s) (fMemp : F .memp) (fPart : ∀ p, F
    (.part p)) (fPower : F .power) :
    s0.Same F (s.startWakes) := by
  unfold State.startWakes
  repeat' with_reducible first
    | assumption
    | exact fPart _
    | (extract_lets +onlyGivenNames x; clear_value (e : x = _); subst e)
    | apply State.wake_same
    | apply State.startWake_same
    | (refine State.Same.ofIte (fun _ => ?_) (fun _ => ?_))
    | (refine State.Same.foldl _ _ (fun u a hu => ?_) ?_)

theorem State.endWakeLayer_same {F : Touch → Prop} {s0 s : State} (p : Nat) (j : Job) (h0 : s0.Same F s)
    (fFree : F .free) (fRegs : F .regs) (fMem : F .mem) (fSeam : F .seam) (fMemp : F .memp) (fHamper : F .hamper)
    (fPart : ∀ p, F (.part p)) (fGroup : ∀ p, F (.group p)) (fPress : F .press) (fCores : F .cores) (fLink : F .link)
    (fFold : F .fold) (fPower : F .power) :
    s0.Same F (s.endWakeLayer p j) := by
  unfold State.endWakeLayer
  repeat' with_reducible first
    | assumption
    | exact fGroup _
    | exact fPart _
    | (extract_lets +onlyGivenNames x; clear_value (e : x = _); subst e)
    | apply State.onPart_same
    | apply State.wake_same
    | apply State.teardown_same
    | apply State.startWake_same
    | (refine State.Same.ofIte (fun _ => ?_) (fun _ => ?_))

theorem State.takeWake_same {F : Touch → Prop} {s0 s : State} (p tile seg : Nat) (v : List F32) (h0 : s0.Same F s)
    (fFree : F .free) (fRegs : F .regs) (fMem : F .mem) (fSeam : F .seam) (fMemp : F .memp) (fHamper : F .hamper)
    (fPart : ∀ p, F (.part p)) (fGroup : ∀ p, F (.group p)) (fPress : F .press) (fCores : F .cores) (fLink : F .link)
    (fFold : F .fold) (fPower : F .power) :
    s0.Same F (s.takeWake p tile seg v) := by
  unfold State.takeWake
  repeat' with_reducible first
    | assumption
    | exact fGroup _
    | exact fun g _ => fGroup g
    | exact fPart _
    | (extract_lets +onlyGivenNames x; clear_value (e : x = _); subst e)
    | apply State.onPart_same
    | apply State.wake_same
    | apply State.onJob_same
    | apply State.endWakeLayer_same
    | (refine State.Same.ofIte (fun _ => ?_) (fun _ => ?_))
    | split

theorem State.addWake_same {F : Touch → Prop} {s0 s : State} (p tile : Nat) (now : Bool) (r : Run) (as : List Nat)
    (h0 : s0.Same F s) (fPart : F (.part p)) (fGroup : ∀ p, F (.group p)) :
    s0.Same F (s.addWake p tile now r as) := by
  unfold State.addWake
  repeat' with_reducible first
    | assumption
    | exact fGroup _
    | exact fun g _ => fGroup g
    | (extract_lets +onlyGivenNames x; clear_value (e : x = _); subst e)
    | apply State.wake_same
    | apply State.onJob_same

theorem State.wakePartial_same {F : Touch → Prop} {s0 s : State} (p tile seg a : Nat) (r : Run) (v : List F32)
    (h0 : s0.Same F s) (fFree : F .free) (fRegs : F .regs) (fMem : F .mem) (fUnits : F .units) (fSeam : F .seam)
    (fMemp : F .memp) (fHamper : F .hamper) (fPart : ∀ p, F (.part p)) (fGroup : ∀ p, F (.group p))
    (fPress : F .press) (fCores : F .cores) (fLink : F .link) (fFold : F .fold) (fPower : F .power) :
    s0.Same F (s.wakePartial p tile seg a r v) := by
  unfold State.wakePartial
  repeat' with_reducible first
    | assumption
    | exact fGroup _
    | exact fPart _
    | (extract_lets +onlyGivenNames x; clear_value (e : x = _); subst e)
    | apply State.raise_same
    | apply State.onPart_same
    | apply State.retireArray_same
    | apply State.takeWake_same
    | apply State.addWake_same
    | (refine State.Same.ofIte (fun _ => ?_) (fun _ => ?_))
    | (refine State.Same.foldl _ _ (fun u a hu => ?_) ?_)
    | split

theorem State.failRun_same {F : Touch → Prop} {s0 s : State} (r : Run) (a tile : Nat) (c : RunCheck)
    (h0 : s0.Same F s) (fFree : F .free) (fRegs : F .regs) (fMem : F .mem) (fUnits : F .units) (fSeam : F .seam)
    (fMemp : F .memp) (fHamper : F .hamper) (fPart : ∀ p, F (.part p)) (fGroup : ∀ p, F (.group p))
    (fPress : F .press) (fCores : F .cores) (fLink : F .link) (fFold : F .fold) (fPower : F .power)
    (fRecd : F .recd) :
    s0.Same F (s.failRun r a tile c) := by
  unfold State.failRun
  repeat' with_reducible first
    | assumption
    | exact fGroup _
    | exact fun g _ => fGroup g
    | exact fPart _
    | (extract_lets +onlyGivenNames x; clear_value (e : x = _); subst e)
    | apply State.latch_same
    | apply State.raise_same
    | apply State.onJob_same
    | apply State.countMis_same
    | apply State.leaveArray_same
    | apply State.retireArray_same
    | (refine State.Same.ofIte (fun _ => ?_) (fun _ => ?_))

theorem State.onTok_same {F : Touch → Prop} {s0 s : State} (p l row : Nat) (f : Tok → Tok) (h0 : s0.Same F s)
    (fPart : F (.part p)) :
    s0.Same F (s.onTok p l row f) := by
  unfold State.onTok
  repeat' with_reducible first
    | assumption
    | apply State.onPass_same

theorem State.countAdm_same {F : Touch → Prop} {s0 s : State} (p : Nat) (c : List Nat) (h0 : s0.Same F s)
    (fRegs : F .regs) :
    s0.Same F (s.countAdm p c) := by
  unfold State.countAdm
  repeat' with_reducible first
    | assumption
    | (extract_lets +onlyGivenNames x; clear_value (e : x = _); subst e)
    | apply State.bump_same
    | (refine State.Same.ofIte (fun _ => ?_) (fun _ => ?_))

theorem State.ticketCells_same {F : Touch → Prop} {s0 s : State} {p l : Nat} {ks : List Ticket} {u : State} (e :
    (s.ticketCells p l ks) = some u)
    (h0 : s0.Same F s) (fRegs : F .regs) (fPool : F .pool) (fMemp : F .memp) (fHamper : F .hamper) (fPart : F
    (.part p)) (fPower : F .power) : s0.Same F u := by
  refine (?_ : s0.SameAll F (fun x => x) (s.ticketCells p l ks)) _ e
  clear e
  unfold State.ticketCells
  repeat' with_reducible first
    | assumption
    | exact State.Same.allNone
    | refine State.Same.allSome ?_
    | (refine State.Same.allIte (fun _ => ?_) (fun _ => ?_))
    | refine State.Same.allMapOf _ _ ?_ (fun _ _ => ?_)
    | refine State.Same.allMap _ _ (fun _ _ => ?_)
    | refine State.Same.allBind _ _ ?_ (fun _ _ => ?_)
    | refine State.Same.allFoldl _ _ (fun _ _ _ => ?_) _ ?_
    | apply State.onPass_same
    | (refine State.allocStage_same (by assumption) ?_ ?_ ?_ ?_ ?_ ?_)

theorem State.keepTickets_same {F : Touch → Prop} {s0 s : State} (p l : Nat) (h0 : s0.Same F s) (fPool : F .pool)
    (fMemp : F .memp)
    (fHamper : F .hamper) (fPower : F .power) : s0.Same F (s.keepTickets p l) := by
  have keep (c : Chain) (b : Bytes) : s0.Same F { s with hamper := { s.hamper with
      chains := s.hamper.chains.map (fun x => if x.id = c.id then { x with data := b } else x) } } := by
    refine State.Same.onHamper (fun x y d hd k hk => ?_) h0 fHamper
    obtain ⟨e, he, rfl⟩ := List.mem_map.mp hd
    split at hk <;> exact h0.chain_cells x y he hk
  unfold State.keepTickets
  split
  · exact h0
  · split
    · exact h0
    case h_2 c hc =>
      have hmem : c ∈ s.hamper.chains := by
        obtain ⟨i, -, hi⟩ := Option.bind_eq_some_iff.mp hc
        exact List.mem_of_find?_eq_some hi
      refine State.Same.ofIte (fun _ => h0) (fun _ => State.Same.ofIte (fun hall => ?_) (fun _ => keep c _))
      refine State.fillCells_same _ _ _ (fun x y e he => ?_) (keep c _) fPool fMemp fPower
      obtain ⟨m, k⟩ := e
      obtain rfl : m = true := List.all_eq_true.mp hall _ he
      exact h0.chain_cells x y hmem he

theorem State.freeTickets_same {F : Touch → Prop} {s0 s : State} (p l : Nat) (h0 : s0.Same F s) (fHamper : F .hamper)
    (fPart : F (.part p)) :
    s0.Same F (s.freeTickets p l) := by
  unfold State.freeTickets
  repeat' with_reducible first
    | assumption
    | apply State.onPass_same
    | apply State.freeChain_same
    | (refine State.Same.ofIte (fun _ => ?_) (fun _ => ?_))
    | split

theorem State.readResiduals_same {F : Touch → Prop} {s0 s : State} (p l : Nat) (x : StepSt) (k : Nat)
    (toks : List Tok) (h0 : s0.Same F s) (fMemp : F .memp) (fPart : F (.part p)) (fPower : F .power) :
    s0.Same F (s.readResiduals p l x k toks) := by
  unfold State.readResiduals
  repeat' with_reducible first
    | assumption
    | apply State.onPass_same
    | apply State.fetchRows_same
    | split

theorem State.addTally_same {F : Touch → Prop} {s0 s : State} (p l m : Nat) (t : RxTally) (h0 : s0.Same F s)
    (fPart : F (.part p)) :
    s0.Same F (s.addTally p l m t) := by
  unfold State.addTally
  repeat' with_reducible first
    | assumption
    | apply State.onMicro_same

theorem State.onRx_same {F : Touch → Prop} {s0 s : State} (p l m src : Nat) (f : RxTally → RxTally) (h0 : s0.Same F s)
    (fPart : F (.part p)) :
    s0.Same F (s.onRx p l m src f) := by
  unfold State.onRx
  repeat' with_reducible first
    | assumption
    | apply State.onMicro_same

theorem State.reserveFor_same {F : Touch → Prop} {s0 s : State} {p l m o n : Nat} {u : State} (e :
    (s.reserveFor p l m o n) = some u)
    (h0 : s0.Same F s) (fHamper : F .hamper) (fPart : F (.part p)) : s0.Same F u := by
  refine (?_ : s0.SameAll F (fun x => x) (s.reserveFor p l m o n)) _ e
  clear e
  unfold State.reserveFor
  repeat' with_reducible first
    | assumption
    | exact State.Same.allNone
    | refine State.Same.allSome ?_
    | (refine State.Same.allIte (fun _ => ?_) (fun _ => ?_))
    | refine State.Same.allMapOf _ _ ?_ (fun _ _ => ?_)
    | refine State.Same.allMap _ _ (fun _ _ => ?_)
    | refine State.Same.allBind _ _ ?_ (fun _ _ => ?_)
    | refine State.Same.allFoldl _ _ (fun _ _ _ => ?_) _ ?_
    | apply State.onMicro_same
    | (refine State.reserve_same (by assumption) ?_ ?_)
    | exact State.Same.allOf (fun _ e => State.reserve_same e (by assumption) (by assumption))

theorem State.unreserveFor_same {F : Touch → Prop} {s0 s : State} (p l m o n : Nat) (h0 : s0.Same F s)
    (fHamper : F .hamper) (fPart : F (.part p)) :
    s0.Same F (s.unreserveFor p l m o n) := by
  unfold State.unreserveFor
  repeat' with_reducible first
    | assumption
    | (extract_lets +onlyGivenNames x; clear_value (e : x = _); subst e)
    | apply State.onMicro_same
    | apply State.unreserve_same
    | (refine State.Same.ofIte (fun _ => ?_) (fun _ => ?_))
    | split

theorem State.takeTally_same {F : Touch → Prop} {s0 s : State} {p l m : Nat} {c : XCfg} {src via : Nat}
    {es : List TallyEnt} {u : State} (e : (s.takeTally p l m c src via es) = some u)
    (h0 : s0.Same F s) (fHamper : F .hamper) (fPart : F (.part p)) : s0.Same F u := by
  refine (?_ : s0.SameAll F (fun x => x) (s.takeTally p l m c src via es)) _ e
  clear e
  unfold State.takeTally
  repeat' with_reducible first
    | assumption
    | exact State.Same.allNone
    | refine State.Same.allSome ?_
    | (refine State.Same.allIte (fun _ => ?_) (fun _ => ?_))
    | refine State.Same.allMapOf _ _ ?_ (fun _ _ => ?_)
    | refine State.Same.allMap _ _ (fun _ _ => ?_)
    | refine State.Same.allBind _ _ ?_ (fun _ _ => ?_)
    | refine State.Same.allFoldl _ _ (fun _ _ _ => ?_) _ ?_
    | apply State.addTally_same
    | (refine State.reserveFor_same (by assumption) ?_ ?_ ?_)
    | exact State.Same.allOf (fun _ e => State.reserveFor_same e (by assumption) (by assumption) (by assumption))

theorem State.setOut_same {F : Touch → Prop} {s0 s : State} (p l m d v : Nat) (h0 : s0.Same F s) (fPart : F (.part p)) :
    s0.Same F (s.setOut p l m d v) := by
  unfold State.setOut
  repeat' with_reducible first
    | assumption
    | apply State.onMicro_same

theorem State.setTickets_same {F : Touch → Prop} {s0 s : State} (p l : Nat) (f : Ticket → Bool) (st : Nat)
    (h0 : s0.Same F s) (fPart : F (.part p)) :
    s0.Same F (s.setTickets p l f st) := by
  unfold State.setTickets
  repeat' with_reducible first
    | assumption
    | apply State.onPass_same

theorem State.dropTickets_same {F : Touch → Prop} {s0 s : State} (p l m : Nat) (f : Ticket → Bool)
    (st code ci vb : Nat) (h0 : s0.Same F s) (fRegs : F .regs) (fPool : F .pool) (fMemp : F .memp)
    (fHamper : F .hamper) (fPart : F (.part p)) (fPower : F .power) :
    s0.Same F (s.dropTickets p l m f st code ci vb) := by
  unfold State.dropTickets
  repeat' with_reducible first
    | assumption
    | (extract_lets +onlyGivenNames x; clear_value (e : x = _); subst e)
    | apply State.bump_same
    | apply State.onPass_same
    | apply State.onMicro_same
    | apply State.keepTickets_same
    | (refine State.Same.ofIte (fun _ => ?_) (fun _ => ?_))
    | (refine State.Same.foldl _ _ (fun u a hu => ?_) ?_)
    | split

theorem State.markLost_same {F : Touch → Prop} {s0 s : State} (p l : Nat) (rows : List Nat) (h0 : s0.Same F s)
    (fRegs : F .regs) (fPart : F (.part p)) :
    s0.Same F (s.markLost p l rows) := by
  unfold State.markLost
  repeat' with_reducible first
    | assumption
    | (extract_lets +onlyGivenNames x; clear_value (e : x = _); subst e)
    | apply State.bump_same
    | apply State.raise_same
    | apply State.onPass_same
    | (refine State.Same.ofIte (fun _ => ?_) (fun _ => ?_))
    | split

theorem State.loseTickets_same {F : Touch → Prop} {s0 s : State} (p l m : Nat) (f : Ticket → Bool) (h0 : s0.Same F s)
    (fRegs : F .regs) (fPool : F .pool) (fMemp : F .memp) (fHamper : F .hamper) (fPart : F (.part p))
    (fPower : F .power) :
    s0.Same F (s.loseTickets p l m f) := by
  unfold State.loseTickets
  repeat' with_reducible first
    | assumption
    | (extract_lets +onlyGivenNames x; clear_value (e : x = _); subst e)
    | apply State.bump_same
    | apply State.raise_same
    | apply State.dropTickets_same
    | apply State.markLost_same
    | (refine State.Same.ofIte (fun _ => ?_) (fun _ => ?_))
    | split

theorem State.sendPile_same {F : Touch → Prop} {s0 s : State} (p l m d : Nat) (h0 : s0.Same F s) (fFree : F .free)
    (fRegs : F .regs) (fPart : F (.part p)) (fLink : F .link) (fPower : F .power) :
    s0.Same F (s.sendPile p l m d) := by
  unfold State.sendPile
  repeat' with_reducible first
    | assumption
    | (extract_lets +onlyGivenNames x; clear_value (e : x = _); subst e)
    | apply State.send_same
    | apply State.waitFor_same
    | apply State.setOut_same
    | apply State.setTickets_same
    | (refine State.Same.ofIte (fun _ => ?_) (fun _ => ?_))
    | split

theorem State.sendGwPile_same {F : Touch → Prop} {s0 s : State} (p l m gw : Nat) (h0 : s0.Same F s) (fFree : F .free)
    (fRegs : F .regs) (fPart : F (.part p)) (fLink : F .link) (fPower : F .power) :
    s0.Same F (s.sendGwPile p l m gw) := by
  unfold State.sendGwPile
  repeat' with_reducible first
    | assumption
    | (extract_lets +onlyGivenNames x; clear_value (e : x = _); subst e)
    | apply State.bump_same
    | apply State.send_same
    | apply State.waitFor_same
    | apply State.setOut_same
    | apply State.setTickets_same
    | (refine State.Same.ofIte (fun _ => ?_) (fun _ => ?_))
    | split

theorem State.ownPile_same {F : Touch → Prop} {s0 s : State} (p l m : Nat) (h0 : s0.Same F s) (fPart : F (.part p)) :
    s0.Same F (s.ownPile p l m) := by
  unfold State.ownPile
  repeat' with_reducible first
    | assumption
    | (extract_lets +onlyGivenNames x; clear_value (e : x = _); subst e)
    | apply State.onMicro_same
    | apply State.onRx_same
    | apply State.setTickets_same
    | (refine State.Same.ofIte (fun _ => ?_) (fun _ => ?_))
    | split

theorem State.withhold_same {F : Touch → Prop} {s0 s : State} (p l m d n : Nat) (h0 : s0.Same F s) (fRegs : F .regs)
    (fPart : F (.part p)) :
    s0.Same F (s.withhold p l m d n) := by
  unfold State.withhold
  repeat' with_reducible first
    | assumption
    | (extract_lets +onlyGivenNames x; clear_value (e : x = _); subst e)
    | apply State.bump_same
    | apply State.onMicro_same
    | apply State.setTickets_same
    | (refine State.Same.ofIte (fun _ => ?_) (fun _ => ?_))
    | split

theorem State.loseGone_same {F : Touch → Prop} {s0 s : State} (p l m : Nat) (h0 : s0.Same F s) (fRegs : F .regs)
    (fPool : F .pool) (fMemp : F .memp) (fHamper : F .hamper) (fPart : F (.part p)) (fPower : F .power) :
    s0.Same F (s.loseGone p l m) := by
  unfold State.loseGone
  repeat' with_reducible first
    | assumption
    | apply State.loseTickets_same
    | split

theorem State.follow_same {F : Touch → Prop} {s0 s : State} (p l m d n : Nat) (c : XCfg) (h0 : s0.Same F s)
    (fFree : F .free) (fRegs : F .regs) (fPart : F (.part p)) (fLink : F .link) (fPower : F .power) :
    s0.Same F (s.follow p l m d n c) := by
  unfold State.follow
  repeat' with_reducible first
    | assumption
    | (extract_lets +onlyGivenNames x; clear_value (e : x = _); subst e)
    | apply State.onMicro_same
    | apply State.waitFor_same
    | apply State.sendPile_same
    | apply State.sendGwPile_same
    | (refine State.Same.ofIte (fun _ => ?_) (fun _ => ?_))

theorem State.ownTally_same {F : Touch → Prop} {s0 s : State} {p l m : Nat} {c : XCfg} {u : State} (e :
    (s.ownTally p l m c) = some u)
    (h0 : s0.Same F s) (fHamper : F .hamper) (fPart : F (.part p)) : s0.Same F u := by
  refine (?_ : s0.SameAll F (fun x => x) (s.ownTally p l m c)) _ e
  clear e
  unfold State.ownTally
  repeat' with_reducible first
    | assumption
    | exact State.Same.allNone
    | refine State.Same.allSome ?_
    | (refine State.Same.allIte (fun _ => ?_) (fun _ => ?_))
    | refine State.Same.allMapOf _ _ ?_ (fun _ _ => ?_)
    | refine State.Same.allMap _ _ (fun _ _ => ?_)
    | refine State.Same.allBind _ _ ?_ (fun _ _ => ?_)
    | refine State.Same.allFoldl _ _ (fun _ _ _ => ?_) _ ?_
    | (refine State.takeTally_same (by assumption) ?_ ?_ ?_)
    | exact State.Same.allOf (fun _ e => State.takeTally_same e (by assumption) (by assumption) (by assumption))
    | apply State.ownPile_same
    | (refine State.Same.ofIte (fun _ => ?_) (fun _ => ?_))
    | split

theorem State.spreadSort_same {F : Touch → Prop} {s0 s : State} (p l m : Nat) (x : StepSt) (c : XCfg) (gates : List
    (Nat × Nat × Bool)) (h0 : s0.Same F s) (fFree : F .free) (fRegs : F .regs) (fPart : F (.part p)) (fLink : F .link)
    (fPower : F .power) :
    s0.Same F (s.spreadSort p l m x c gates) := by
  unfold State.spreadSort
  repeat' with_reducible first
    | assumption
    | (extract_lets +onlyGivenNames x; clear_value (e : x = _); subst e)
    | apply State.onMicro_same
    | apply State.send_same
    | apply State.follow_same
    | (refine State.Same.foldl _ _ (fun u a hu => ?_) ?_)

theorem State.endSource_same {F : Touch → Prop} {s0 s : State} (p l n : Nat) (x : StepSt) (h0 : s0.Same F s)
    (fFree : F .free) (fRegs : F .regs) (fPart : F (.part p)) (fLink : F .link) (fPower : F .power) :
    s0.Same F (s.endSource p l n x) := by
  unfold State.endSource
  repeat' with_reducible first
    | assumption
    | (extract_lets +onlyGivenNames x; clear_value (e : x = _); subst e)
    | apply State.onPass_same
    | apply State.countSubst_same
    | apply State.sendFinal_same
    | apply State.addTally_same
    | (refine State.Same.ofIte (fun _ => ?_) (fun _ => ?_))

theorem State.xOpen_same {F : Touch → Prop} {s0 s : State} {p l : Nat} {v : StepSt × Pass} {u : State} (e :
    (s.xOpen p l) = some (u, v))
    (h0 : s0.Same F s) (fPart : F (.part p)) : s0.Same F u := by
  refine (?_ : s0.SameAll F (·.1) (s.xOpen p l)) _ e
  clear e
  unfold State.xOpen
  repeat' with_reducible first
    | assumption
    | exact State.Same.allNone
    | refine State.Same.allSome ?_
    | (refine State.Same.allIte (fun _ => ?_) (fun _ => ?_))
    | refine State.Same.allMapOf _ _ ?_ (fun _ _ => ?_)
    | refine State.Same.allMap _ _ (fun _ _ => ?_)
    | refine State.Same.allBind _ _ ?_ (fun _ _ => ?_)
    | refine State.Same.allFoldl _ _ (fun _ _ _ => ?_) _ ?_
    | (extract_lets +onlyGivenNames x; clear_value (e : x = _); subst e)
    | apply State.onStep_same
    | split

theorem State.stale_same {F : Touch → Prop} {s0 s : State} (msg : Msg) (h0 : s0.Same F s) (fRegs : F .regs)
    (fPool : F .pool) (fMemp : F .memp) (fHamper : F .hamper) (fLink : F .link) (fPower : F .power) :
    s0.Same F (s.stale msg) := by
  unfold State.stale
  repeat' with_reducible first
    | assumption
    | apply State.bump_same
    | apply State.take_same

theorem State.dup_same {F : Touch → Prop} {s0 s : State} (msg : Msg) (h0 : s0.Same F s) (fRegs : F .regs)
    (fPool : F .pool) (fMemp : F .memp) (fHamper : F .hamper) (fLink : F .link) (fPower : F .power) :
    s0.Same F (s.dup msg) := by
  unfold State.dup
  repeat' with_reducible first
    | assumption
    | apply State.bump_same
    | apply State.take_same

theorem State.corrupt_same {F : Touch → Prop} {s0 s : State} (msg : Msg) (check : Nat) (h0 : s0.Same F s)
    (fRegs : F .regs) (fPool : F .pool) (fMemp : F .memp) (fHamper : F .hamper) (fLink : F .link)
    (fPower : F .power) :
    s0.Same F (s.corrupt msg check) := by
  unfold State.corrupt
  repeat' with_reducible first
    | assumption
    | apply State.markCorrupt_same
    | apply State.take_same

theorem State.receive_same {F : Touch → Prop} {s0 s : State} (msg : Msg) (typ stepNo l : Nat)
    (f : State → StepSt → Pass → State)
    (hf : ∀ u x q, s0.Same F u → s0.Same F (f u x q)) (h0 : s0.Same F s) (fRegs : F .regs) (fPool : F .pool) (fMemp :
        F .memp) (fHamper : F .hamper) (fPart : F (.part msg.owner)) (fLink : F .link) (fPower : F .power) : s0.Same F
        (s.receive msg typ stepNo l f) := by
  unfold State.receive
  repeat' with_reducible first
    | assumption
    | (refine State.xOpen_same (by assumption) ?_ ?_)
    | apply State.stale_same
    | apply hf
    | (refine State.Same.ofIte (fun _ => ?_) (fun _ => ?_))
    | split

theorem State.fanOn_same {F : Touch → Prop} {s0 s : State} (msg : Msg) (h0 : s0.Same F s) (fFree : F .free)
    (fRegs : F .regs) (fLink : F .link) (fPower : F .power) :
    s0.Same F (s.fanOn msg) := by
  unfold State.fanOn
  repeat' with_reducible first
    | assumption
    | apply State.fanPod_same
    | (refine State.Same.ofIte (fun _ => ?_) (fun _ => ?_))

theorem State.unvoid_same {F : Touch → Prop} {s0 s : State} (p l m src from_ : Nat) (h0 : s0.Same F s) (fPart : F
    (.part p)) :
    s0.Same F (s.unvoid p l m src from_) := by
  unfold State.unvoid
  repeat' with_reducible first
    | assumption
    | apply State.onMicro_same

theorem State.voidBack_same {F : Touch → Prop} {s0 s : State} (p l m stepNo src via reason : Nat) (elastic : Bool)
    (h0 : s0.Same F s) (fFree : F .free) (fRegs : F .regs) (fPart : F (.part p)) (fLink : F .link)
    (fPower : F .power) :
    s0.Same F (s.voidBack p l m stepNo src via reason elastic) := by
  unfold State.voidBack
  repeat' with_reducible first
    | assumption
    | apply State.voidReturn_same
    | apply State.voidGrant_same
    | (refine State.Same.ofIte (fun _ => ?_) (fun _ => ?_))

theorem State.fanTally_same {F : Touch → Prop} {s0 s : State} {p l m : Nat} {x : StepSt} {c : XCfg} {src flags : Nat}
    {es : List TallyEnt} {u : State} (e : (s.fanTally p l m x c src flags es) = some u)
    (h0 : s0.Same F s) (fFree : F .free) (fRegs : F .regs) (fHamper : F .hamper) (fPart : F (.part p))
    (fLink : F .link) (fPower : F .power) : s0.Same F u := by
  refine (?_ : s0.SameAll F (fun x => x) (s.fanTally p l m x c src flags es)) _ e
  clear e
  unfold State.fanTally
  repeat' with_reducible first
    | assumption
    | exact State.Same.allNone
    | refine State.Same.allSome ?_
    | (refine State.Same.allIte (fun _ => ?_) (fun _ => ?_))
    | refine State.Same.allMapOf _ _ ?_ (fun _ _ => ?_)
    | refine State.Same.allMap _ _ (fun _ _ => ?_)
    | refine State.Same.allBind _ _ ?_ (fun _ _ => ?_)
    | refine State.Same.allFoldl _ _ (fun _ _ _ => ?_) _ ?_
    | (extract_lets +onlyGivenNames x; clear_value (e : x = _); subst e)
    | apply State.onMicro_same
    | apply State.send_same
    | apply State.sendVoid_same
    | apply State.waitFan_same
    | apply State.addTally_same
    | (refine State.takeTally_same (by assumption) ?_ ?_ ?_)
    | exact State.Same.allOf (fun _ e => State.takeTally_same e (by assumption) (by assumption) (by assumption))
    | (refine State.Same.ofIte (fun _ => ?_) (fun _ => ?_))
    | (refine State.Same.foldl _ _ (fun u a hu => ?_) ?_)

theorem State.onFan_same {F : Touch → Prop} {s0 s : State} (p l m src : Nat) (f : GwFan → GwFan) (h0 : s0.Same F s)
    (fPart : F (.part p)) :
    s0.Same F (s.onFan p l m src f) := by
  unfold State.onFan
  repeat' with_reducible first
    | assumption
    | apply State.onMicro_same

theorem State.fanVoidTally_same {F : Touch → Prop} {s0 s : State} (p l m stepNo src reason : Nat) (h0 : s0.Same F s)
    (fFree : F .free) (fRegs : F .regs) (fPart : F (.part p)) (fLink : F .link) (fPower : F .power) :
    s0.Same F (s.fanVoidTally p l m stepNo src reason) := by
  unfold State.fanVoidTally
  repeat' with_reducible first
    | assumption
    | (extract_lets +onlyGivenNames x; clear_value (e : x = _); subst e)
    | apply State.onMicro_same
    | apply State.sendVoid_same
    | apply State.addTally_same
    | (refine State.Same.foldl _ _ (fun u a hu => ?_) ?_)

theorem State.giveGrant_same {F : Touch → Prop} {s0 s : State} (p l m stepNo : Nat) (t : RxTally) (g : Nat)
    (h0 : s0.Same F s) (fFree : F .free) (fRegs : F .regs) (fPart : F (.part p)) (fLink : F .link)
    (fPower : F .power) :
    s0.Same F (s.giveGrant p l m stepNo t g) := by
  unfold State.giveGrant
  repeat' with_reducible first
    | assumption
    | (extract_lets +onlyGivenNames x; clear_value (e : x = _); subst e)
    | apply State.send_same
    | apply State.onRx_same
    | apply State.ownPile_same
    | apply State.withhold_same
    | apply State.onFan_same
    | (refine State.Same.ofIte (fun _ => ?_) (fun _ => ?_))

theorem State.noPile_same {F : Touch → Prop} {s0 s : State} (p l m src : Nat) (c : XCfg) (h0 : s0.Same F s)
    (fHamper : F .hamper) (fPart : F (.part p)) :
    s0.Same F (s.noPile p l m src c) := by
  unfold State.noPile
  repeat' with_reducible first
    | assumption
    | (extract_lets +onlyGivenNames x; clear_value (e : x = _); subst e)
    | apply State.onRx_same
    | apply State.unreserveFor_same
    | (refine State.Same.ofIte (fun _ => ?_) (fun _ => ?_))
    | split

theorem State.takePile_same {F : Touch → Prop} {s0 s : State} (p l m src via : Nat) (mx : Bool) (ws : List WireRow)
    (cells : List Nat) (h0 : s0.Same F s) (fPart : F (.part p)) :
    s0.Same F (s.takePile p l m src via mx ws cells) := by
  unfold State.takePile
  repeat' with_reducible first
    | assumption
    | (extract_lets +onlyGivenNames x; clear_value (e : x = _); subst e)
    | apply State.onMicro_same
    | apply State.onRx_same
    | (refine State.Same.ofIte (fun _ => ?_) (fun _ => ?_))

theorem State.transitRows_same {F : Touch → Prop} {s0 s : State} (p l m src len : Nat) (rs : List GwRow)
    (h0 : s0.Same F s)
    (fRegs : F .regs) (fPool : F .pool) (fMemp : F .memp) (fHamper : F .hamper) (fPart : F (.part p)) (fPower : F
        .power) :
    s0.Same F (s.transitRows p l m src len rs) := by
  induction rs generalizing s with
  | nil => exact h0
  | cons r rs ih =>
    unfold State.transitRows
    split
    · exact ih (State.onFan_same _ _ _ _ _
        (State.allocStage_same (by assumption) h0 fRegs fPool fMemp fHamper fPower) fPart)
    · exact State.denied_same _ h0 fRegs

theorem State.fanPiles_same {F : Touch → Prop} {s0 s : State} (p l m : Nat) (x : StepSt) (f : GwFan) (mx : Bool)
    (rs : List GwRow) (h0 : s0.Same F s) (fFree : F .free) (fRegs : F .regs) (fPool : F .pool) (fMemp : F .memp)
    (fHamper : F .hamper) (fPart : F (.part p)) (fLink : F .link) (fPower : F .power) :
    s0.Same F (s.fanPiles p l m x f mx rs) := by
  unfold State.fanPiles
  repeat' with_reducible first
    | assumption
    | (extract_lets +onlyGivenNames x; clear_value (e : x = _); subst e)
    | apply State.releaseId_same
    | apply State.sendWith_same
    | apply State.waitFan_same
    | apply State.onFan_same
    | apply State.takePile_same
    | (refine State.Same.ofIte (fun _ => ?_) (fun _ => ?_))
    | (refine State.Same.foldl _ _ (fun u a hu => ?_) ?_)
    | split

theorem State.fanNoPiles_same {F : Touch → Prop} {s0 s : State} (p l m : Nat) (x : StepSt) (c : XCfg) (f : GwFan)
    (reason : Nat) (h0 : s0.Same F s) (fFree : F .free) (fRegs : F .regs) (fHamper : F .hamper) (fPart : F (.part p))
    (fLink : F .link) (fPower : F .power) :
    s0.Same F (s.fanNoPiles p l m x c f reason) := by
  unfold State.fanNoPiles
  repeat' with_reducible first
    | assumption
    | (extract_lets +onlyGivenNames x; clear_value (e : x = _); subst e)
    | apply State.send_same
    | apply State.sendVoid_same
    | apply State.onRx_same
    | apply State.onFan_same
    | apply State.noPile_same
    | (refine State.Same.ofIte (fun _ => ?_) (fun _ => ?_))
    | (refine State.Same.foldl _ _ (fun u a hu => ?_) ?_)
    | split

theorem State.returnCell_same {F : Touch → Prop} {s0 s : State} {p l k : Nat} {t : Ticket} {row : Bytes}
    {came : Option Nat} {v : Nat} {u : State} (e : (s.returnCell p l k t row came) = some (v, u))
    (h0 : s0.Same F s) (fRegs : F .regs) (fPool : F .pool) (fMemp : F .memp) (fHamper : F .hamper)
    (fPower : F .power) : s0.Same F u := by
  refine (?_ : s0.SameAll F (·.2) (s.returnCell p l k t row came)) _ e
  clear e
  unfold State.returnCell
  repeat' with_reducible first
    | assumption
    | exact State.Same.allNone
    | refine State.Same.allSome ?_
    | (refine State.Same.allIte (fun _ => ?_) (fun _ => ?_))
    | refine State.Same.allMapOf _ _ ?_ (fun _ _ => ?_)
    | refine State.Same.allMap _ _ (fun _ _ => ?_)
    | refine State.Same.allBind _ _ ?_ (fun _ _ => ?_)
    | refine State.Same.allFoldl _ _ (fun _ _ _ => ?_) _ ?_
    | (refine State.allocStage_same (by assumption) ?_ ?_ ?_ ?_ ?_ ?_)
    | exact State.Same.allOf (fun _ e => State.allocStage_same e (by assumption) (by assumption) (by assumption) (by
        assumption) (by assumption) (by assumption))
    | split

theorem State.storeReturns_same {F : Touch → Prop} {s0 s : State} {p l m d k : Nat} {rows : List Bytes}
    {came : List Nat} {u : State} (e : (s.storeReturns p l m d k rows came) = some u)
    (h0 : s0.Same F s) (fRegs : F .regs) (fPool : F .pool) (fMemp : F .memp) (fHamper : F .hamper) (fPart : F
    (.part p)) (fPower : F .power) : s0.Same F u := by
  refine (?_ : s0.SameAll F (fun x => x) (s.storeReturns p l m d k rows came)) _ e
  clear e
  unfold State.storeReturns
  repeat' with_reducible first
    | assumption
    | exact State.Same.allNone
    | refine State.Same.allSome ?_
    | (refine State.Same.allIte (fun _ => ?_) (fun _ => ?_))
    | refine State.Same.allMapOf _ _ ?_ (fun _ _ => ?_)
    | refine State.Same.allMap _ _ (fun _ _ => ?_)
    | refine State.Same.allBind _ _ ?_ (fun _ _ => ?_)
    | refine State.Same.allFoldl _ _ (fun _ _ _ => ?_) _ ?_
    | (extract_lets +onlyGivenNames x; clear_value (e : x = _); subst e)
    | apply State.onPass_same
    | apply State.releaseId_same
    | apply State.setTickets_same
    | (refine State.returnCell_same (by assumption) ?_ ?_ ?_ ?_ ?_ ?_)
    | exact State.Same.allOf (fun _ e => State.returnCell_same e (by assumption) (by assumption) (by assumption) (by
        assumption) (by assumption) (by assumption))
    | (refine State.Same.ofIte (fun _ => ?_) (fun _ => ?_))
    | (refine State.Same.foldl _ _ (fun u a hu => ?_) ?_)
    | split

theorem State.countReturn_same {F : Touch → Prop} {s0 s : State} (p l m d : Nat) (h0 : s0.Same F s) (fPart : F
    (.part p)) :
    s0.Same F (s.countReturn p l m d) := by
  unfold State.countReturn
  repeat' with_reducible first
    | assumption
    | apply State.onMicro_same

theorem State.wentBack_same {F : Touch → Prop} {s0 s : State} (p l m src dest : Nat) (h0 : s0.Same F s) (fPart : F
    (.part p)) :
    s0.Same F (s.wentBack p l m src dest) := by
  unfold State.wentBack
  repeat' with_reducible first
    | assumption
    | apply State.onFan_same

theorem State.void_same {F : Touch → Prop} {s0 s : State} {x : StepSt} {q : Pass} {msg : Msg} {reason : Nat}
    {u : State} (e : (s.void x q msg reason) = some u)
    (h0 : s0.Same F s) (fFree : F .free) (fRegs : F .regs) (fPool : F .pool) (fMemp : F .memp) (fHamper : F .hamper)
    (fPart : F (.part msg.owner)) (fLink : F .link) (fPower : F .power) : s0.Same F u := by
  refine (?_ : s0.SameAll F (fun x => x) (s.void x q msg reason)) _ e
  clear e
  unfold State.void
  repeat' with_reducible first
    | assumption
    | exact State.Same.allNone
    | refine State.Same.allSome ?_
    | (refine State.Same.allIte (fun _ => ?_) (fun _ => ?_))
    | refine State.Same.allMapOf _ _ ?_ (fun _ _ => ?_)
    | refine State.Same.allMap _ _ (fun _ _ => ?_)
    | refine State.Same.allBind _ _ ?_ (fun _ _ => ?_)
    | refine State.Same.allFoldl _ _ (fun _ _ _ => ?_) _ ?_
    | (extract_lets +onlyGivenNames x; clear_value (e : x = _); subst e)
    | apply State.onMicro_same
    | apply State.addTally_same
    | apply State.setOut_same
    | apply State.loseTickets_same
    | apply State.onFan_same
    | apply State.fanVoidTally_same
    | apply State.noPile_same
    | apply State.fanNoPiles_same
    | apply State.countReturn_same
    | (refine State.Same.ofIte (fun _ => ?_) (fun _ => ?_))
    | split

theorem State.takeRuns_same {F : Touch → Prop} {s0 s : State} (p l m : Nat) (c : XCfg) (es : List (Nat × Nat × Nat))
    (h0 : s0.Same F s) (fPool : F .pool) (fMemp : F .memp) (fHamper : F .hamper) (fPart : F (.part p))
    (fPower : F .power) :
    s0.Same F (s.takeRuns p l m c es) := by
  induction es generalizing s with
  | nil => exact h0
  | cons e es ih =>
    obtain ⟨x, r, n⟩ := e
    unfold State.takeRuns
    split
    · exact h0
    · exact ih (State.onMicro_same _ _ _ _ (State.runFromReserved_same (by assumption) h0 fPool fMemp fHamper fPower)
        fPart)

theorem State.noteRuns_same {F : Touch → Prop} {s0 s : State} (p l m n : Nat) (h0 : s0.Same F s) (fPart : F (.part p)) :
    s0.Same F (s.noteRuns p l m n) := by
  unfold State.noteRuns
  repeat' with_reducible first
    | assumption
    | apply State.onMicro_same

theorem State.allocRuns_same {F : Touch → Prop} {s0 s : State} (o : Nat) (pass : Option (Nat × Nat)) (ns : List Nat)
    (h0 : s0.Same F s) (fRegs : F .regs) (fPool : F .pool) (fMemp : F .memp) (fHamper : F .hamper) (fPower : F .power) :
    s0.Same F (s.allocRuns o pass ns).2 := by
  induction ns generalizing s with
  | nil => exact h0
  | cons n r ih =>
    unfold State.allocRuns
    split
    · exact State.denied_same _ h0 fRegs
    · exact ih (State.allocMem_same (by assumption) h0 fPool fMemp fHamper fPower)

theorem State.tableNote_same {F : Touch → Prop} {s0 s : State} (p : Nat) (eng : Bytes) (addr tag entries rows : Nat)
    (h0 : s0.Same F s) (fSeam : F .seam) :
    s0.Same F (s.tableNote p eng addr tag entries rows) := by
  unfold State.tableNote
  repeat' with_reducible first
    | assumption
    | (extract_lets +onlyGivenNames x; clear_value (e : x = _); subst e)
    | refine State.Same.upd ?_ rfl rfl rfl rfl rfl

theorem State.writeTable_same {F : Touch → Prop} {s0 s : State} (p l m : Nat) (x : StepSt) (shared : Bool) (tab : Nat)
    (ents : List (Nat × Nat × Nat × Nat × Nat × Nat)) (datas : List (List Bytes)) (ids : List (Nat × Nat × Nat × Nat))
    (h0 : s0.Same F s) (fMem : F .mem) (fSeam : F .seam) (fMemp : F .memp) (fPower : F .power) (fTabs : F .tabs)
    (fNextTag : F .nextTag) :
    s0.Same F (s.writeTable p l m x shared tab ents datas ids) := by
  unfold State.writeTable
  repeat' with_reducible first
    | assumption
    | (extract_lets +onlyGivenNames x; clear_value (e : x = _); subst e)
    | apply State.wr_same
    | apply State.tableNote_same
    | (refine State.Same.ofIte (fun _ => ?_) (fun _ => ?_))
    | (refine State.Same.foldl _ _ (fun u a hu => ?_) ?_)
    | split
    | refine State.Same.upd ?_ rfl rfl rfl rfl rfl

theorem State.taint_same {F : Touch → Prop} {s0 s : State} (id : Nat) (h0 : s0.Same F s) (fPool : F .pool)
    (fMemp : F .memp)
    (fHamper : F .hamper) (fPower : F .power) : s0.Same F (s.taint id) := by
  unfold State.taint
  split
  case h_1 c hc =>
    exact State.setChain_same _ (fun x y _ hk => h0.chain_cells x y (List.mem_of_find?_eq_some hc) hk) h0 fPool fMemp
        fHamper
      fPower
  · exact h0

theorem State.placed_same {F : Touch → Prop} {s0 s : State} (p l m : Nat) (used : List Nat) (h0 : s0.Same F s)
    (fRegs : F .regs) (fPool : F .pool) (fMemp : F .memp) (fHamper : F .hamper) (fPart : F (.part p))
    (fPower : F .power) :
    s0.Same F (s.placed p l m used) := by
  unfold State.placed
  repeat' with_reducible first
    | assumption
    | (extract_lets +onlyGivenNames x; clear_value (e : x = _); subst e)
    | apply State.onMicro_same
    | apply State.freeChain_same
    | apply State.releaseId_same
    | apply State.unreserveFor_same
    | (refine State.Same.foldl _ _ (fun u a hu => ?_) ?_)
    | split

theorem State.freeInputs_same {F : Touch → Prop} {s0 s : State} (t : WorkTab) (h0 : s0.Same F s) (fHamper : F .hamper) :
    s0.Same F (s.freeInputs t) := by
  unfold State.freeInputs
  repeat' with_reducible first
    | assumption
    | apply State.freeChain_same
    | (refine State.Same.foldl _ _ (fun u a hu => ?_) ?_)

theorem State.freeOutputs_same {F : Touch → Prop} {s0 s : State} (t : WorkTab) (h0 : s0.Same F s)
    (fHamper : F .hamper) :
    s0.Same F (s.freeOutputs t) := by
  unfold State.freeOutputs
  repeat' with_reducible first
    | assumption
    | apply State.freeChain_same
    | (refine State.Same.foldl _ _ (fun u a hu => ?_) ?_)

theorem State.dropTab_same {F : Touch → Prop} {s0 s : State} (tag : Nat) (h0 : s0.Same F s) (fTabs : F .tabs) :
    s0.Same F (s.dropTab tag) := by
  unfold State.dropTab
  repeat' with_reducible first
    | assumption
    | refine State.Same.upd ?_ rfl rfl rfl rfl rfl

theorem State.destOut_same {F : Touch → Prop} {s0 s : State} (p l m : Nat) (t : WorkTab) (h0 : s0.Same F s)
    (fHamper : F .hamper) (fPart : F (.part p)) (fTabs : F .tabs) :
    s0.Same F (s.destOut p l m t) := by
  unfold State.destOut
  repeat' with_reducible first
    | assumption
    | apply State.onMicro_same
    | apply State.freeOutputs_same
    | apply State.dropTab_same
    | (refine State.Same.ofIte (fun _ => ?_) (fun _ => ?_))
    | split

theorem State.pileBack_same {F : Touch → Prop} {s0 s : State} (p l m src : Nat) (h0 : s0.Same F s) (fPart : F
    (.part p)) :
    s0.Same F (s.pileBack p l m src) := by
  unfold State.pileBack
  repeat' with_reducible first
    | assumption
    | apply State.onMicro_same

theorem State.freeReturned_same {F : Touch → Prop} {s0 s : State} (p l m : Nat) (t : WorkTab) (h0 : s0.Same F s)
    (fHamper : F .hamper) :
    s0.Same F (s.freeReturned p l m t) := by
  unfold State.freeReturned
  repeat' with_reducible first
    | assumption
    | (extract_lets +onlyGivenNames x; clear_value (e : x = _); subst e)
    | apply State.freeChain_same
    | apply State.take_same
    | (refine State.Same.ofIte (fun _ => ?_) (fun _ => ?_))
    | (refine State.Same.foldl _ _ (fun u a hu => ?_) ?_)
    | split

theorem State.sendReturn_same {F : Touch → Prop} {s0 s : State} (p l m src : Nat) (h0 : s0.Same F s) (fFree : F .free)
    (fRegs : F .regs) (fPool : F .pool) (fMemp : F .memp) (fHamper : F .hamper) (fPart : F (.part p))
    (fLink : F .link) (fPower : F .power) (fTabs : F .tabs) :
    s0.Same F (s.sendReturn p l m src) := by
  unfold State.sendReturn
  repeat' with_reducible first
    | assumption
    | (extract_lets +onlyGivenNames x; clear_value (e : x = _); subst e)
    | apply State.denied_same
    | apply State.send_same
    | (refine State.storeReturns_same (by assumption) ?_ ?_ ?_ ?_ ?_ ?_ ?_)
    | apply State.countReturn_same
    | apply State.destOut_same
    | apply State.pileBack_same
    | apply State.freeReturned_same
    | (refine State.Same.ofIte (fun _ => ?_) (fun _ => ?_))
    | split
    | refine State.Same.upd ?_ rfl rfl rfl rfl rfl

theorem State.readOutputs_same {F : Touch → Prop} {s0 s : State} (p l m : Nat) (t : WorkTab) (h0 : s0.Same F s)
    (fMemp : F .memp) (fHamper : F .hamper) (fPart : F (.part p)) (fPower : F .power) (fTabs : F .tabs) :
    s0.Same F (s.readOutputs p l m t) := by
  unfold State.readOutputs
  repeat' with_reducible first
    | assumption
    | (extract_lets +onlyGivenNames x; clear_value (e : x = _); subst e)
    | apply State.issueRead_same
    | apply State.destOut_same
    | apply State.pileBack_same
    | (refine State.Same.foldl _ _ (fun u a hu => ?_) ?_)
    | split

theorem State.failTable_same {F : Touch → Prop} {s0 s : State} (p l m : Nat) (t : WorkTab) (h0 : s0.Same F s)
    (fFree : F .free) (fRegs : F .regs) (fPool : F .pool) (fMemp : F .memp) (fHamper : F .hamper) (fPart : F
    (.part p)) (fLink : F .link) (fPower : F .power) (fTabs : F .tabs) :
    s0.Same F (s.failTable p l m t) := by
  unfold State.failTable
  repeat' with_reducible first
    | assumption
    | (extract_lets +onlyGivenNames x; clear_value (e : x = _); subst e)
    | apply State.onMicro_same
    | apply State.voidReturn_same
    | apply State.loseTickets_same
    | apply State.countReturn_same
    | apply State.freeInputs_same
    | apply State.freeOutputs_same
    | apply State.dropTab_same
    | (refine State.Same.ofIte (fun _ => ?_) (fun _ => ?_))
    | (refine State.Same.foldl _ _ (fun u a hu => ?_) ?_)
    | split

theorem State.loseToken_same {F : Touch → Prop} {s0 s : State} (p l row : Nat) (h0 : s0.Same F s) (fRegs : F .regs)
    (fPart : F (.part p)) :
    s0.Same F (s.loseToken p l row) := by
  unfold State.loseToken
  repeat' with_reducible first
    | assumption
    | (extract_lets +onlyGivenNames x; clear_value (e : x = _); subst e)
    | apply State.onMicro_same
    | apply State.onTok_same
    | apply State.markLost_same
    | (refine State.Same.ofIte (fun _ => ?_) (fun _ => ?_))
    | split

theorem State.sharedAnswer_same {F : Touch → Prop} {s0 s : State} (p l : Nat) (t : WorkTab) (ok : Bool)
    (h0 : s0.Same F s) (fRegs : F .regs) (fMemp : F .memp) (fHamper : F .hamper) (fPart : F (.part p))
    (fPower : F .power) (fTabs : F .tabs) :
    s0.Same F (s.sharedAnswer p l t ok) := by
  unfold State.sharedAnswer
  repeat' with_reducible first
    | assumption
    | (extract_lets +onlyGivenNames x; clear_value (e : x = _); subst e)
    | apply State.bump_same
    | apply State.onPass_same
    | apply State.onMicro_same
    | apply State.issueRead_same
    | apply State.freeInputs_same
    | apply State.freeOutputs_same
    | apply State.dropTab_same
    | apply State.loseToken_same
    | (refine State.Same.ofIte (fun _ => ?_) (fun _ => ?_))
    | (refine State.Same.foldl _ _ (fun u a hu => ?_) ?_)
    | split

theorem State.applyCompletion_same {F : Touch → Prop} {s0 s : State} (slot : Nat) (data : Bytes) (h0 : s0.Same F s)
    (fFree : F .free) (fRegs : F .regs) (fPool : F .pool) (fMemp : F .memp) (fHamper : F .hamper) (fPart : ∀ p, F
    (.part p)) (fLink : F .link) (fPower : F .power) (fTabs : F .tabs) :
    s0.Same F (s.applyCompletion slot data) := by
  unfold State.applyCompletion
  repeat' with_reducible first
    | assumption
    | exact fPart _
    | (extract_lets +onlyGivenNames x; clear_value (e : x = _); subst e)
    | apply State.bump_same
    | apply State.freeTorn_same
    | apply State.freeInputs_same
    | apply State.dropTab_same
    | apply State.readOutputs_same
    | apply State.failTable_same
    | apply State.sharedAnswer_same
    | (refine State.Same.ofIte (fun _ => ?_) (fun _ => ?_))
    | split
    | refine State.Same.upd ?_ rfl rfl rfl rfl rfl

theorem State.retireFold_same {F : Touch → Prop} {s0 s : State} (c : Nat) (h0 : s0.Same F s) (fFree : F .free)
    (fRegs : F .regs) (fMem : F .mem) (fUnits : F .units) (fSeam : F .seam) (fMemp : F .memp) (fHamper : F .hamper)
    (fPart : ∀ p, F (.part p)) (fGroup : ∀ p, F (.group p)) (fPress : F .press) (fCores : F .cores) (fLink : F .link)
    (fFold : F .fold) (fPower : F .power) :
    s0.Same F (s.retireFold c) := by
  unfold State.retireFold
  repeat' with_reducible first
    | assumption
    | exact fGroup _
    | exact fPart _
    | (extract_lets +onlyGivenNames x; clear_value (e : x = _); subst e)
    | apply State.bump_same
    | apply State.raise_same
    | apply State.teardownAll_same
    | (refine State.Same.ofIte (fun _ => ?_) (fun _ => ?_))
    | split
    | refine State.Same.upd ?_ rfl rfl rfl rfl rfl

theorem State.retireFoldsPending_same {F : Touch → Prop} {s0 s : State} (h0 : s0.Same F s) (fFree : F .free)
    (fRegs : F .regs) (fMem : F .mem) (fUnits : F .units) (fSeam : F .seam) (fMemp : F .memp) (fHamper : F .hamper)
    (fPart : ∀ p, F (.part p)) (fGroup : ∀ p, F (.group p)) (fPress : F .press) (fCores : F .cores) (fLink : F .link)
    (fFold : F .fold) (fPower : F .power) :
    s0.Same F (s.retireFoldsPending) := by
  unfold State.retireFoldsPending
  repeat' with_reducible first
    | assumption
    | exact fGroup _
    | exact fPart _
    | apply State.retireFold_same
    | (refine State.Same.ofIte (fun _ => ?_) (fun _ => ?_))
    | (refine State.Same.foldl _ _ (fun u a hu => ?_) ?_)

theorem State.residue_same {F : Touch → Prop} {s0 s : State} (unit : Nat) (node failed : Bool) (level index : Nat)
    (h0 : s0.Same F s) (fFree : F .free) (fRegs : F .regs) (fMem : F .mem) (fUnits : F .units) (fSeam : F .seam)
    (fMemp : F .memp) (fHamper : F .hamper) (fPart : ∀ p, F (.part p)) (fGroup : ∀ p, F (.group p))
    (fPress : F .press) (fLeaks : F .leaks) (fCores : F .cores) (fLink : F .link) (fFold : F .fold)
    (fPower : F .power) :
    s0.Same F (s.residue unit node failed level index) := by
  unfold State.residue
  repeat' with_reducible first
    | assumption
    | exact fGroup _
    | exact fPart _
    | (extract_lets +onlyGivenNames x; clear_value (e : x = _); subst e)
    | apply State.latch_same
    | apply State.bump_same
    | apply State.raise_same
    | apply State.leakMark_same
    | apply State.retireFold_same
    | (refine State.Same.ofIte (fun _ => ?_) (fun _ => ?_))
    | split
    | refine State.Same.upd ?_ rfl rfl rfl rfl rfl

theorem State.poisonCells_same {F : Touch → Prop} {s0 s : State} (p l : Nat) (h0 : s0.Same F s) (fMem : F .mem)
    (fMemp : F .memp)
    (fHamper : F .hamper) (fPower : F .power) : s0.Same F (s.poisonCells p l) := by
  refine State.Same.foldl _ _ (fun _ _ hu => State.writeLinks_mem_same _ hu fMem fMemp fPower)
    (State.Same.onHamper (fun x y d hd k hk => ?_) h0 fHamper)
  obtain ⟨e, he, rfl⟩ := List.mem_map.mp hd
  simp only [apply_ite Chain.cells, ite_self] at hk
  exact h0.chain_cells x y he hk

theorem State.poison_same {F : Touch → Prop} {s0 s : State} (p l : Nat) (raised : Bool) (h0 : s0.Same F s)
    (fFree : F .free) (fRegs : F .regs) (fMem : F .mem) (fMemp : F .memp) (fHamper : F .hamper) (fPart : F (.part p))
    (fLink : F .link) (fPower : F .power) :
    s0.Same F (s.poison p l raised) := by
  unfold State.poison
  repeat' with_reducible first
    | assumption
    | (extract_lets +onlyGivenNames x; clear_value (e : x = _); subst e)
    | apply State.bump_same
    | apply State.raise_same
    | apply State.onStep_same
    | apply State.spread_same
    | apply State.endAgain_same
    | apply State.poisonCells_same
    | (refine State.Same.ofIte (fun _ => ?_) (fun _ => ?_))
    | split

theorem State.freeShared_same {F : Touch → Prop} {s0 s : State} (p l : Nat) (h0 : s0.Same F s) (fHamper : F .hamper)
    (fTabs : F .tabs) :
    s0.Same F (s.freeShared p l) := by
  unfold State.freeShared
  repeat' with_reducible first
    | assumption
    | (extract_lets +onlyGivenNames x; clear_value (e : x = _); subst e)
    | apply State.freeChain_same
    | apply State.take_same
    | apply State.dropTab_same
    | (refine State.Same.ofIte (fun _ => ?_) (fun _ => ?_))
    | (refine State.Same.foldl _ _ (fun u a hu => ?_) ?_)
    | split

theorem State.rowOut_same {F : Touch → Prop} {s0 s : State} (p : Nat) (x : StepSt) (q : Pass) (k row : Nat)
    (v : List F32)
    (h0 : s0.Same F s) (fRegs : F .regs) (fMem : F .mem) (fMemp : F .memp) (fPart : F (.part p)) (fPower : F .power) :
    s0.Same F (s.rowOut p x q k row v) := by
  unfold State.rowOut
  dsimp only
  split
  · exact State.onPass_same _ _ _ (State.onStep_same _ _ (State.issueReads_same _ _
      (State.tdAdd_same _ _ _ _ _ h0 fRegs) fMemp fPower) fPart) fPart
  · exact State.tdPut_same _ _ _ _ _ _ h0 fRegs fMem fMemp fPower

theorem State.writeAdds_same {F : Touch → Prop} {s0 s : State} (p l : Nat) (h0 : s0.Same F s) (fMem : F .mem)
    (fMemp : F .memp) (fPart : F (.part p)) (fPower : F .power) :
    s0.Same F (s.writeAdds p l) := by
  unfold State.writeAdds
  repeat' with_reducible first
    | assumption
    | apply State.onPass_same
    | apply State.tdFlush_same
    | (refine State.Same.ofIte (fun _ => ?_) (fun _ => ?_))
    | split

theorem State.putNode_same {F : Touch → Prop} {s0 s : State} (p l c h id : Nat) (k : Bytes) (r : Red) (vs : List F32)
    (h0 : s0.Same F s) (fMem : F .mem) (fMemp : F .memp) (fPart : F (.part p)) (fPower : F .power) :
    s0.Same F (s.putNode p l c h id k r vs) := by
  unfold State.putNode
  repeat' with_reducible first
    | assumption
    | apply State.onStep_same
    | apply State.wr_same
    | (refine State.Same.ofIte (fun _ => ?_) (fun _ => ?_))

theorem State.narrowed_same {F : Touch → Prop} {s0 s : State} (p l id c : Nat) (yes : Bool) (vs : List F32)
    (h0 : s0.Same F s) (fRegs : F .regs) (fPart : F (.part p)) :
    s0.Same F (s.narrowed p l id c yes vs).1 := by
  unfold State.narrowed
  repeat' with_reducible first
    | assumption
    | (extract_lets +onlyGivenNames x; clear_value (e : x = _); subst e)
    | apply State.bump_same
    | apply State.onStep_same
    | (refine State.Same.ofIte (fun _ => ?_) (fun _ => ?_))
    | split

theorem State.sendValue_same {F : Touch → Prop} {s0 s : State} (p l id c : Nat) (k : Bytes) (vs : List F32)
    (h0 : s0.Same F s) (fFree : F .free) (fRegs : F .regs) (fPart : F (.part p)) (fLink : F .link)
    (fPower : F .power) :
    s0.Same F (s.sendValue p l id c k vs) := by
  unfold State.sendValue
  repeat' with_reducible first
    | assumption
    | (extract_lets +onlyGivenNames x; clear_value (e : x = _); subst e)
    | apply State.send_same
    | apply State.countSubst_same
    | apply State.narrowed_same
    | (refine State.Same.ofIte (fun _ => ?_) (fun _ => ?_))
    | split

theorem State.startChunk_same {F : Touch → Prop} {s0 s : State} (p l c : Nat) (h0 : s0.Same F s) (fFree : F .free)
    (fRegs : F .regs) (fPart : F (.part p)) (fLink : F .link) (fPower : F .power) :
    s0.Same F (s.startChunk p l c) := by
  unfold State.startChunk
  repeat' with_reducible first
    | assumption
    | (extract_lets +onlyGivenNames x; clear_value (e : x = _); subst e)
    | apply State.sendValue_same
    | (refine State.Same.ofIte (fun _ => ?_) (fun _ => ?_))
    | (refine State.Same.foldl _ _ (fun u a hu => ?_) ?_)
    | split

theorem State.writeResult_same {F : Touch → Prop} {s0 s : State} (p l c : Nat) (e : Bytes) (vs : List F32)
    (h0 : s0.Same F s) (fMem : F .mem) (fMemp : F .memp) (fPart : F (.part p)) (fPower : F .power) :
    s0.Same F (s.writeResult p l c e vs) := by
  unfold State.writeResult
  repeat' with_reducible first
    | assumption
    | (extract_lets +onlyGivenNames x; clear_value (e : x = _); subst e)
    | apply State.onStep_same
    | apply State.wr_same

theorem State.heldFor_same {F : Touch → Prop} {s0 s : State} {b : Bytes} {n : Nat} {v : Nat} {u : State} (e :
    (s.heldFor b n) = some (v, u))
    (h0 : s0.Same F s) (fRegs : F .regs) (fPool : F .pool) (fMemp : F .memp) (fHamper : F .hamper)
    (fPower : F .power) : s0.Same F u := by
  refine (?_ : s0.SameAll F (·.2) (s.heldFor b n)) _ e
  clear e
  unfold State.heldFor
  repeat' with_reducible first
    | assumption
    | exact State.Same.allNone
    | refine State.Same.allSome ?_
    | (refine State.Same.allIte (fun _ => ?_) (fun _ => ?_))
    | refine State.Same.allMapOf _ _ ?_ (fun _ _ => ?_)
    | refine State.Same.allMap _ _ (fun _ _ => ?_)
    | refine State.Same.allBind _ _ ?_ (fun _ _ => ?_)
    | refine State.Same.allFoldl _ _ (fun _ _ _ => ?_) _ ?_
    | (refine State.allocStage_same (by assumption) ?_ ?_ ?_ ?_ ?_ ?_)
    | exact State.Same.allOf (fun _ e => State.allocStage_same e (by assumption) (by assumption) (by assumption) (by
        assumption) (by assumption) (by assumption))

theorem State.fanHeld_same {F : Touch → Prop} {s0 s : State} {msg : Msg} {u : State} (e : (s.fanHeld msg) = some u)
    (h0 : s0.Same F s) (fFree : F .free) (fRegs : F .regs) (fPool : F .pool) (fMemp : F .memp) (fHamper : F .hamper)
    (fLink : F .link) (fPower : F .power) : s0.Same F u := by
  refine (?_ : s0.SameAll F (fun x => x) (s.fanHeld msg)) _ e
  clear e
  unfold State.fanHeld
  repeat' with_reducible first
    | assumption
    | exact State.Same.allNone
    | refine State.Same.allSome ?_
    | (refine State.Same.allIte (fun _ => ?_) (fun _ => ?_))
    | refine State.Same.allMapOf _ _ ?_ (fun _ _ => ?_)
    | refine State.Same.allMap _ _ (fun _ _ => ?_)
    | refine State.Same.allBind _ _ ?_ (fun _ _ => ?_)
    | refine State.Same.allFoldl _ _ (fun _ _ _ => ?_) _ ?_
    | apply State.sendWith_same
    | (refine State.heldFor_same (by assumption) ?_ ?_ ?_ ?_ ?_ ?_)
    | exact State.Same.allOf (fun _ e => State.heldFor_same e (by assumption) (by assumption) (by assumption) (by
        assumption) (by assumption) (by assumption))
    | (refine State.Same.ofIte (fun _ => ?_) (fun _ => ?_))
    | (refine State.Same.foldl _ _ (fun u a hu => ?_) ?_)

theorem State.openAborted_same {F : Touch → Prop} {s0 s : State} (h0 : s0.Same F s) (fPart : ∀ p, F (.part p)) :
    s0.Same F (s.openAborted) := by
  unfold State.openAborted
  repeat' with_reducible first
    | assumption
    | exact fPart _
    | apply State.onStep_same
    | (refine State.Same.ofIte (fun _ => ?_) (fun _ => ?_))
    | (refine State.Same.foldl _ _ (fun u a hu => ?_) ?_)
    | split

theorem State.startChunks_same {F : Touch → Prop} {s0 s : State} (p l : Nat) (h0 : s0.Same F s) (fFree : F .free)
    (fRegs : F .regs) (fPart : F (.part p)) (fLink : F .link) (fPower : F .power) :
    s0.Same F (s.startChunks p l) := by
  unfold State.startChunks
  repeat' with_reducible first
    | assumption
    | (extract_lets +onlyGivenNames x; clear_value (e : x = _); subst e)
    | apply State.startChunk_same
    | (refine State.Same.ofIte (fun _ => ?_) (fun _ => ?_))
    | (refine State.Same.foldl _ _ (fun u a hu => ?_) ?_)
    | split

theorem State.startNext_same {F : Touch → Prop} {s0 s : State} (p l : Nat) (h0 : s0.Same F s) (fFree : F .free)
    (fRegs : F .regs) (fPart : F (.part p)) (fLink : F .link) (fPower : F .power) :
    s0.Same F (s.startNext p l) := by
  unfold State.startNext
  repeat' with_reducible first
    | assumption
    | apply State.startChunks_same
    | split

theorem State.fdControl_same {F : Touch → Prop} {s0 s : State} (msg : Msg) (typ : Nat) (f : State → Nat → State)
    (hf : ∀ u l, s0.Same F u → s0.Same F (f u l)) (h0 : s0.Same F s) (fFree : F .free) (fRegs : F .regs) (fPool : F
        .pool) (fMemp : F .memp) (fHamper : F .hamper) (fLink : F .link) (fPower : F .power) : s0.Same F (s.fdControl
        msg typ f) := by
  unfold State.fdControl
  repeat' with_reducible first
    | assumption
    | (extract_lets +onlyGivenNames x; clear_value (e : x = _); subst e)
    | apply State.denied_same
    | apply State.take_same
    | apply State.stale_same
    | apply State.corrupt_same
    | (refine State.fanHeld_same (by assumption) ?_ ?_ ?_ ?_ ?_ ?_ ?_ ?_)
    | apply hf
    | (refine State.Same.ofIte (fun _ => ?_) (fun _ => ?_))
    | split

theorem State.toMember_same {F : Touch → Prop} {s0 s : State} (dst typ : Nat) (body : Bytes) (h0 : s0.Same F s)
    (fFree : F .free) (fRegs : F .regs) (fLink : F .link) (fPower : F .power) :
    s0.Same F (s.toMember dst typ body) := by
  unfold State.toMember
  repeat' with_reducible first
    | assumption
    | (extract_lets +onlyGivenNames x; clear_value (e : x = _); subst e)
    | apply State.sendMgr_same
    | (refine State.Same.ofIte (fun _ => ?_) (fun _ => ?_))
    | split
    | refine State.Same.upd ?_ rfl rfl rfl rfl rfl

theorem State.toPod_same {F : Touch → Prop} {s0 s : State} (typ : Nat) (body : Bytes) (h0 : s0.Same F s)
    (fFree : F .free) (fRegs : F .regs) (fLink : F .link) (fPower : F .power) :
    s0.Same F (s.toPod typ body) := by
  unfold State.toPod
  repeat' with_reducible first
    | assumption
    | apply State.sendAll_same
    | apply State.toMember_same

theorem State.mgrTake_same {F : Touch → Prop} {s0 s : State} (msg : Msg) (typ orig : Nat) (ok : Bool)
    (f : State → State)
    (hf : ∀ u, s0.Same F u → s0.Same F (f u)) (h0 : s0.Same F s) (fRegs : F .regs) (fPool : F .pool) (fMemp : F .memp)
        (fHamper : F .hamper) (fLink : F .link) (fPower : F .power) : s0.Same F (s.mgrTake msg typ orig ok f) := by
  unfold State.mgrTake
  repeat' with_reducible first
    | assumption
    | apply State.take_same
    | apply State.stale_same
    | apply State.corrupt_same
    | apply hf
    | (refine State.Same.ofIte (fun _ => ?_) (fun _ => ?_))

theorem State.deliver_same {F : Touch → Prop} {s0 s : State} (msg : Msg) (h0 : s0.Same F s) (fFree : F .free)
    (fRegs : F .regs) (fLink : F .link) (fPower : F .power) :
    s0.Same F (s.deliver msg) := by
  unfold State.deliver
  repeat' with_reducible first
    | assumption
    | apply State.sendAll_same
    | (refine State.Same.ofIte (fun _ => ?_) (fun _ => ?_))

theorem State.onLaunch_same {F : Touch → Prop} {s0 s : State} (g stepNo : Nat) (f : LaunchSt → LaunchSt)
    (h0 : s0.Same F s) (fMgr : F .mgr) :
    s0.Same F (s.onLaunch g stepNo f) := by
  unfold State.onLaunch
  repeat' with_reducible first
    | assumption
    | (extract_lets +onlyGivenNames x; clear_value (e : x = _); subst e)
    | (refine State.Same.ofIte (fun _ => ?_) (fun _ => ?_))
    | split
    | refine State.Same.upd ?_ rfl rfl rfl rfl rfl

theorem State.decideLaunch_same {F : Touch → Prop} {s0 s : State} (g stepNo : Nat) (sets : List (List Nat))
    (h0 : s0.Same F s) (fFree : F .free) (fRegs : F .regs) (fLink : F .link) (fMgr : F .mgr) (fPower : F .power) :
    s0.Same F (s.decideLaunch g stepNo sets) := by
  unfold State.decideLaunch
  repeat' with_reducible first
    | assumption
    | (extract_lets +onlyGivenNames x; clear_value (e : x = _); subst e)
    | apply State.raise_same
    | apply State.sendMgr_same
    | apply State.take_same
    | apply State.toPod_same
    | apply State.onLaunch_same
    | (refine State.Same.ofIte (fun _ => ?_) (fun _ => ?_))
    | (refine State.Same.foldl _ _ (fun u a hu => ?_) ?_)
    | split

theorem State.tryLaunch_same {F : Touch → Prop} {s0 s : State} (g : Nat) (h0 : s0.Same F s) (fFree : F .free)
    (fRegs : F .regs) (fLink : F .link) (fMgr : F .mgr) (fPower : F .power) :
    s0.Same F (s.tryLaunch g) := by
  unfold State.tryLaunch
  repeat' with_reducible first
    | assumption
    | (extract_lets +onlyGivenNames x; clear_value (e : x = _); subst e)
    | apply State.sendMgr_same
    | apply State.decideLaunch_same
    | (refine State.Same.ofIte (fun _ => ?_) (fun _ => ?_))
    | split

theorem State.setPodF_same {F : Touch → Prop} {s0 s : State} (f : Nat) (h0 : s0.Same F s) (fFree : F .free)
    (fRegs : F .regs) (fLink : F .link) (fMgr : F .mgr) (fPower : F .power) :
    s0.Same F (s.setPodF f) := by
  unfold State.setPodF
  repeat' with_reducible first
    | assumption
    | (extract_lets +onlyGivenNames x; clear_value (e : x = _); subst e)
    | apply State.toPod_same
    | (refine State.Same.ofIte (fun _ => ?_) (fun _ => ?_))
    | split
    | refine State.Same.upd ?_ rfl rfl rfl rfl rfl

theorem State.goodStep_same {F : Touch → Prop} {s0 s : State} (h0 : s0.Same F s) (fFree : F .free) (fRegs : F .regs)
    (fLink : F .link) (fMgr : F .mgr) (fPower : F .power) :
    s0.Same F (s.goodStep) := by
  unfold State.goodStep
  repeat' with_reducible first
    | assumption
    | (extract_lets +onlyGivenNames x; clear_value (e : x = _); subst e)
    | apply State.setPodF_same
    | (refine State.Same.ofIte (fun _ => ?_) (fun _ => ?_))
    | split
    | refine State.Same.upd ?_ rfl rfl rfl rfl rfl

theorem State.declareStraggler_same {F : Touch → Prop} {s0 s : State} (g stepNo x : Nat) (h0 : s0.Same F s)
    (fFree : F .free) (fRegs : F .regs) (fLink : F .link) (fMgr : F .mgr) (fPower : F .power) :
    s0.Same F (s.declareStraggler g stepNo x) := by
  unfold State.declareStraggler
  repeat' with_reducible first
    | assumption
    | (extract_lets +onlyGivenNames x; clear_value (e : x = _); subst e)
    | apply State.spreadMgr_same
    | apply State.toMember_same
    | apply State.setPodF_same
    | (refine State.Same.ofIte (fun _ => ?_) (fun _ => ?_))
    | split
    | refine State.Same.upd ?_ rfl rfl rfl rfl rfl

theorem State.addWait_same {F : Touch → Prop} {s0 s : State} (a : WaitAcct) (h0 : s0.Same F s) (fMgr : F .mgr) :
    s0.Same F (s.addWait a).2 := by
  unfold State.addWait
  repeat' with_reducible first
    | assumption
    | (extract_lets +onlyGivenNames x; clear_value (e : x = _); subst e)
    | dsimp only
    | refine State.Same.upd ?_ rfl rfl rfl rfl rfl

theorem State.dropSource_same {F : Touch → Prop} {s0 s : State} (p l m : Nat) (src : Nat) (h0 : s0.Same F s)
    (fHamper : F .hamper) (fPart : F (.part p)) :
    s0.Same F (s.dropSource p l m src) := by
  unfold State.dropSource
  repeat' with_reducible first
    | assumption
    | (extract_lets +onlyGivenNames x; clear_value (e : x = _); subst e)
    | apply State.onFan_same
    | apply State.noPile_same
    | (refine State.Same.ofIte (fun _ => ?_) (fun _ => ?_))
    | split

theorem State.dropDest_same {F : Touch → Prop} {s0 s : State} (p l m d : Nat) (h0 : s0.Same F s) (fRegs : F .regs)
    (fPool : F .pool) (fMemp : F .memp) (fHamper : F .hamper) (fPart : F (.part p)) (fPower : F .power) :
    s0.Same F (s.dropDest p l m d) := by
  unfold State.dropDest
  repeat' with_reducible first
    | assumption
    | (extract_lets +onlyGivenNames x; clear_value (e : x = _); subst e)
    | apply State.onMicro_same
    | apply State.setOut_same
    | apply State.loseTickets_same
    | (refine State.Same.ofIte (fun _ => ?_) (fun _ => ?_))
    | split

theorem State.dropGate_same {F : Touch → Prop} {s0 s : State} (p : Nat) (x : StepSt) (q : Pass) (m gw : Nat)
    (h0 : s0.Same F s) (fRegs : F .regs) (fPool : F .pool) (fMemp : F .memp) (fHamper : F .hamper) (fPart : F
    (.part p)) (fPower : F .power) :
    s0.Same F (s.dropGate p x q m gw) := by
  unfold State.dropGate
  repeat' with_reducible first
    | assumption
    | (extract_lets +onlyGivenNames x; clear_value (e : x = _); subst e)
    | apply State.addTally_same
    | apply State.setOut_same
    | apply State.loseTickets_same
    | apply State.noPile_same
    | (refine State.Same.ofIte (fun _ => ?_) (fun _ => ?_))
    | (refine State.Same.foldl _ _ (fun u a hu => ?_) ?_)

theorem State.leaveStep_same {F : Touch → Prop} {s0 s : State} (p m fromL : Nat) (dest gate : Bool) (h0 : s0.Same F s)
    (fRegs : F .regs) (fPool : F .pool) (fMemp : F .memp) (fHamper : F .hamper) (fPart : F (.part p))
    (fPower : F .power) :
    s0.Same F (s.leaveStep p m fromL dest gate) := by
  unfold State.leaveStep
  repeat' with_reducible first
    | assumption
    | (extract_lets +onlyGivenNames x; clear_value (e : x = _); subst e)
    | apply State.onStep_same
    | apply State.dropSource_same
    | apply State.dropDest_same
    | apply State.dropGate_same
    | (refine State.Same.ofIte (fun _ => ?_) (fun _ => ?_))
    | (refine State.Same.foldl _ _ (fun u a hu => ?_) ?_)
    | split

theorem State.deadShard_same {F : Touch → Prop} {s0 s : State} (p m : Nat) (h0 : s0.Same F s) (fFree : F .free)
    (fRegs : F .regs) (fMem : F .mem) (fPart : F (.part p)) (fLink : F .link) (fFold : F .fold) (fPower : F .power) :
    s0.Same F (s.deadShard p m) := by
  unfold State.deadShard
  repeat' with_reducible first
    | assumption
    | apply State.abortRed_same
    | apply State.raiseAbort_same
    | (refine State.Same.ofIte (fun _ => ?_) (fun _ => ?_))
    | (refine State.Same.foldl _ _ (fun u a hu => ?_) ?_)
    | split

theorem State.markDead_same {F : Touch → Prop} {s0 s : State} (m : Nat) (h0 : s0.Same F s) (fFree : F .free)
    (fRegs : F .regs) (fMem : F .mem) (fPool : F .pool) (fSeam : F .seam) (fMemp : F .memp) (fHamper : F .hamper)
    (fPart : ∀ p, F (.part p)) (fGroup : ∀ p, F (.group p)) (fPress : F .press) (fCores : F .cores) (fLink : F .link)
    (fFold : F .fold) (fPower : F .power) :
    s0.Same F (s.markDead m) := by
  unfold State.markDead
  repeat' with_reducible first
    | assumption
    | exact fGroup _
    | exact fPart _
    | (extract_lets +onlyGivenNames x; clear_value (e : x = _); subst e)
    | apply State.raise_same
    | apply State.dropHolds_same
    | apply State.chooseRelay_same
    | apply State.teardownAll_same
    | apply State.leaveStep_same
    | apply State.deadShard_same
    | (refine State.Same.ofIte (fun _ => ?_) (fun _ => ?_))
    | (refine State.Same.foldl _ _ (fun u a hu => ?_) ?_)
    | split
    | refine State.Same.upd ?_ rfl rfl rfl rfl rfl

theorem State.passWithdraw_same {F : Touch → Prop} {s0 s : State} (msg : Msg) (h0 : s0.Same F s) (fFree : F .free)
    (fRegs : F .regs) (fLink : F .link) (fPower : F .power) :
    s0.Same F (s.passWithdraw msg) := by
  unfold State.passWithdraw
  repeat' with_reducible first
    | assumption
    | apply State.sendAll_same
    | (refine State.Same.ofIte (fun _ => ?_) (fun _ => ?_))

theorem State.decideBias_same {F : Touch → Prop} {s0 s : State} (g last : Nat) (counts : List Nat) (h0 : s0.Same F s)
    (fFree : F .free) (fRegs : F .regs) (fLink : F .link) (fMgr : F .mgr) (fPower : F .power) :
    s0.Same F (s.decideBias g last counts) := by
  unfold State.decideBias
  repeat' with_reducible first
    | assumption
    | (extract_lets +onlyGivenNames x; clear_value (e : x = _); subst e)
    | apply State.sendMgr_same
    | apply State.take_same
    | apply State.toPod_same
    | (refine State.Same.foldl _ _ (fun u a hu => ?_) ?_)
    | refine State.Same.upd ?_ rfl rfl rfl rfl rfl

theorem State.nextBias_same {F : Touch → Prop} {s0 s : State} (p : Nat) (h0 : s0.Same F s) (fFree : F .free)
    (fRegs : F .regs) (fLink : F .link) (fMgr : F .mgr) (fPower : F .power) :
    s0.Same F (s.nextBias p) := by
  unfold State.nextBias
  repeat' with_reducible first
    | assumption
    | (extract_lets +onlyGivenNames x; clear_value (e : x = _); subst e)
    | apply State.decideBias_same
    | (refine State.Same.ofIte (fun _ => ?_) (fun _ => ?_))
    | split
    | refine State.Same.upd ?_ rfl rfl rfl rfl rfl

theorem State.clearExcluded_same {F : Touch → Prop} {s0 s : State} (h0 : s0.Same F s) (fLink : F .link) :
    s0.Same F (s.clearExcluded) := by
  unfold State.clearExcluded
  repeat' with_reducible first
    | assumption
    | apply State.onPort_same
    | (refine State.Same.foldl _ _ (fun u a hu => ?_) ?_)

theorem State.bindTables_same {F : Touch → Prop} {s0 s : State} (p : Nat) (es : List Nat) (h0 : s0.Same F s)
    (fRegs : F .regs) (fPart : F (.part p)) :
    s0.Same F (s.bindTables p es) := by
  unfold State.bindTables
  repeat' with_reducible first
    | assumption
    | (extract_lets +onlyGivenNames x; clear_value (e : x = _); subst e)
    | apply State.raise_same
    | apply State.onTab_same
    | (refine State.Same.ofIte (fun _ => ?_) (fun _ => ?_))
    | (refine State.Same.foldl _ _ (fun u a hu => ?_) ?_)

theorem State.launchNow_same {F : Touch → Prop} {s0 s : State} (p : Nat) (x : StepSt) (eng comb jrn led : Bytes)
    (h0 : s0.Same F s) (fFree : F .free) (fRegs : F .regs) (fMem : F .mem) (fMemp : F .memp) (fPart : F (.part p))
    (fLink : F .link) (fPower : F .power) :
    s0.Same F (s.launchNow p x eng comb jrn led) := by
  unfold State.launchNow
  repeat' with_reducible first
    | assumption
    | (extract_lets +onlyGivenNames x; clear_value (e : x = _); subst e)
    | apply State.onPart_same
    | apply State.countSubst_same
    | apply State.spread_same
    | apply State.waitFor_same
    | apply State.ledgerOpen_same
    | apply State.jrnPush_same

theorem State.dropRetired_same {F : Touch → Prop} {s0 s : State} (p : Nat) (h0 : s0.Same F s) (fRegs : F .regs)
    (fPress : F .press) (fCores : F .cores) (fPower : F .power) :
    s0.Same F (s.dropRetired p) := by
  unfold State.dropRetired
  repeat' with_reducible first
    | assumption
    | (extract_lets +onlyGivenNames x; clear_value (e : x = _); subst e)
    | apply State.domainsOff_same

theorem State.monitor_same {F : Touch → Prop} {s0 s : State} (p : Nat) (x : StepSt) (l : Nat) (h0 : s0.Same F s)
    (fCtx : F .ctx) :
    s0.Same F (s.monitor p x l) := by
  unfold State.monitor
  repeat' with_reducible first
    | assumption
    | (extract_lets +onlyGivenNames x; clear_value (e : x = _); subst e)
    | apply State.setContext_same
    | (refine State.Same.foldl _ _ (fun u a hu => ?_) ?_)

theorem State.issuePassReads_same {F : Touch → Prop} {s0 s : State} (p : Nat) (x : StepSt) (l : Nat) (tokens : Bool)
    (h0 : s0.Same F s) (fMemp : F .memp) (fPower : F .power) :
    s0.Same F (s.issuePassReads p x l tokens) := by
  unfold State.issuePassReads
  repeat' with_reducible first
    | assumption
    | (extract_lets +onlyGivenNames x; clear_value (e : x = _); subst e)
    | apply State.issueReads_same
    | (refine State.Same.ofIte (fun _ => ?_) (fun _ => ?_))

theorem State.readTokens_same {F : Touch → Prop} {s0 s : State} (p l : Nat) (h0 : s0.Same F s) (fRegs : F .regs)
    (fMemp : F .memp) (fPart : F (.part p)) (fPower : F .power) :
    s0.Same F (s.readTokens p l) := by
  unfold State.readTokens
  repeat' with_reducible first
    | assumption
    | (extract_lets +onlyGivenNames x; clear_value (e : x = _); subst e)
    | apply State.onPass_same
    | apply State.useTd_same
    | apply State.fetchRows_same
    | split

theorem State.startPass_same {F : Touch → Prop} {s0 s : State} (p : Nat) (x : StepSt) (l : Nat) (h0 : s0.Same F s)
    (fMemp : F .memp) (fCtx : F .ctx) (fPart : F (.part p)) (fGroup : ∀ p, F (.group p)) (fPower : F .power) :
    s0.Same F (s.startPass p x l) := by
  unfold State.startPass
  repeat' with_reducible first
    | assumption
    | exact fGroup _
    | (extract_lets +onlyGivenNames x; clear_value (e : x = _); subst e)
    | apply State.onPart_same
    | apply State.onGroup_same
    | apply State.onStep_same
    | apply State.waitFor_same
    | apply State.monitor_same
    | apply State.issuePassReads_same
    | (refine State.Same.ofIte (fun _ => ?_) (fun _ => ?_))

theorem State.journalPass_same {F : Touch → Prop} {s0 s : State} (p : Nat) (x : StepSt) (q : Pass) (h0 : s0.Same F s)
    (fPart : F (.part p)) :
    s0.Same F (s.journalPass p x q) := by
  unfold State.journalPass
  repeat' with_reducible first
    | assumption
    | (extract_lets +onlyGivenNames x; clear_value (e : x = _); subst e)
    | apply State.jrnPush_same
    | (refine State.Same.ofIte (fun _ => ?_) (fun _ => ?_))
    | (refine State.Same.foldl _ _ (fun u a hu => ?_) ?_)

theorem State.closePass_same {F : Touch → Prop} {s0 s : State} (p : Nat) (q : Pass) (w : Nat) (h0 : s0.Same F s)
    (fMem : F .mem) (fMemp : F .memp) (fPart : F (.part p)) (fPower : F .power) :
    s0.Same F (s.closePass p q w) := by
  unfold State.closePass
  repeat' with_reducible first
    | assumption
    | (extract_lets +onlyGivenNames x; clear_value (e : x = _); subst e)
    | apply State.onStep_same
    | apply State.ledgerLayer_same
    | apply State.journalPass_same
    | (refine State.Same.foldl _ _ (fun u a hu => ?_) ?_)
    | split

theorem State.countBias_same {F : Touch → Prop} {s0 s : State} (p : Nat) (x : StepSt) (status : Nat)
    (h0 : s0.Same F s) (fMgr : F .mgr) :
    s0.Same F (s.countBias p x status) := by
  unfold State.countBias
  repeat' with_reducible first
    | assumption
    | (extract_lets +onlyGivenNames x; clear_value (e : x = _); subst e)
    | (refine State.Same.ofIte (fun _ => ?_) (fun _ => ?_))
    | split
    | refine State.Same.upd ?_ rfl rfl rfl rfl rfl

theorem State.endWindow_same {F : Touch → Prop} {s0 s : State} (p : Nat) (x : StepSt) (status : Nat)
    (h0 : s0.Same F s) (fFree : F .free) (fRegs : F .regs) (fLink : F .link) (fMgr : F .mgr) (fPower : F .power) :
    s0.Same F (s.endWindow p x status) := by
  unfold State.endWindow
  repeat' with_reducible first
    | assumption
    | (extract_lets +onlyGivenNames x; clear_value (e : x = _); subst e)
    | apply State.toMember_same
    | apply State.countBias_same
    | (refine State.Same.ofIte (fun _ => ?_) (fun _ => ?_))
    | split
    | refine State.Same.upd ?_ rfl rfl rfl rfl rfl

theorem State.ledgerClose_same {F : Touch → Prop} {s0 s : State} (p : Nat) (x : StepSt) (status fault : Nat)
    (st : List Nat) (h0 : s0.Same F s) (fMem : F .mem) (fMemp : F .memp) (fPart : F (.part p)) (fPower : F .power) :
    s0.Same F (s.ledgerClose p x status fault st) := by
  unfold State.ledgerClose
  repeat' with_reducible first
    | assumption
    | (extract_lets +onlyGivenNames x; clear_value (e : x = _); subst e)
    | apply State.onStep_same
    | apply State.ledgerWrite_same
    | (refine State.Same.foldl _ _ (fun u a hu => ?_) ?_)

theorem State.commitSegs_same {F : Touch → Prop} {s0 s : State} (p : Nat) (x : StepSt) (h0 : s0.Same F s)
    (fCtx : F .ctx) :
    s0.Same F (s.commitSegs p x) := by
  unfold State.commitSegs
  repeat' with_reducible first
    | assumption
    | (extract_lets +onlyGivenNames x; clear_value (e : x = _); subst e)
    | apply State.setContext_same
    | (refine State.Same.ofIte (fun _ => ?_) (fun _ => ?_))
    | (refine State.Same.foldl _ _ (fun u a hu => ?_) ?_)

theorem State.divertNotes_same {F : Touch → Prop} {s0 s : State} (p : Nat) (x : StepSt) (h0 : s0.Same F s)
    (fSeam : F .seam) :
    s0.Same F (s.divertNotes p x) := by
  unfold State.divertNotes
  repeat' with_reducible first
    | assumption
    | apply State.groupNote_same
    | (refine State.Same.foldl _ _ (fun u a hu => ?_) ?_)

theorem State.recordStep_same {F : Touch → Prop} {s0 s : State} (p : Nat) (x : StepSt) (status fault : Nat)
    (h0 : s0.Same F s) (fFree : F .free) (fRegs : F .regs) (fMem : F .mem) (fSeam : F .seam) (fMemp : F .memp)
    (fPart : ∀ p, F (.part p)) (fGroup : ∀ p, F (.group p)) (fPress : F .press) (fCores : F .cores) (fLink : F .link)
    (fMgr : F .mgr) (fPower : F .power) (fRecd : F .recd) :
    s0.Same F (s.recordStep p x status fault) := by
  unfold State.recordStep
  repeat' with_reducible first
    | assumption
    | exact fGroup _
    | exact fPart _
    | (extract_lets +onlyGivenNames x; clear_value (e : x = _); subst e)
    | apply State.complete_same
    | apply State.endWindow_same
    | apply State.divertNotes_same
    | (refine State.Same.ofIte (fun _ => ?_) (fun _ => ?_))
    | split
    | refine State.Same.upd ?_ rfl rfl rfl rfl rfl

theorem State.pushEnd_same {F : Touch → Prop} {s0 s : State} (p : Nat) (x : StepSt) (status : Nat) (h0 : s0.Same F s)
    (fPart : F (.part p)) :
    s0.Same F (s.pushEnd p x status) := by
  unfold State.pushEnd
  repeat' with_reducible first
    | assumption
    | apply State.onStep_same
    | apply State.jrnPush_same

theorem State.dropUnsent_same {F : Touch → Prop} {s0 s : State} (p : Nat) (h0 : s0.Same F s) (fSeam : F .seam)
    (fTabs : F .tabs) :
    s0.Same F (s.dropUnsent p) := by
  unfold State.dropUnsent
  repeat' with_reducible first
    | assumption
    | (extract_lets +onlyGivenNames x; clear_value (e : x = _); subst e)
    | refine State.Same.upd ?_ rfl rfl rfl rfl rfl

theorem State.closeTorn_same {F : Touch → Prop} {s0 s : State} (p : Nat) (x : StepSt) (h0 : s0.Same F s)
    (fMem : F .mem) (fMemp : F .memp) (fPart : F (.part p)) (fPower : F .power) :
    s0.Same F (s.closeTorn p x) := by
  unfold State.closeTorn
  repeat' with_reducible first
    | assumption
    | (extract_lets +onlyGivenNames x; clear_value (e : x = _); subst e)
    | apply State.onStep_same
    | apply State.closePass_same
    | (refine State.Same.ofIte (fun _ => ?_) (fun _ => ?_))
    | (refine State.Same.foldl _ _ (fun u a hu => ?_) ?_)

theorem State.endTeardown_same {F : Touch → Prop} {s0 s : State} (p : Nat) (h0 : s0.Same F s) (fRegs : F .regs)
    (fHamper : F .hamper) (fPart : F (.part p)) (fPress : F .press) (fCores : F .cores) (fPower : F .power) :
    s0.Same F (s.endTeardown p) := by
  unfold State.endTeardown
  repeat' with_reducible first
    | assumption
    | (extract_lets +onlyGivenNames x; clear_value (e : x = _); subst e)
    | apply State.onPart_same
    | apply State.freeOwner_same
    | apply State.partOff_same
    | (refine State.Same.ofIte (fun _ => ?_) (fun _ => ?_))

theorem State.repChoose_same {F : Touch → Prop} {s0 s : State} (p : Nat) (r : Rep) (ks : List Tok) (h0 : s0.Same F s)
    (fPower : F .power) :
    s0.Same F (s.repChoose p r ks).2 := by
  unfold State.repChoose
  repeat' with_reducible first
    | assumption
    | (extract_lets +onlyGivenNames x; clear_value (e : x = _); subst e)
    | apply State.charge_same

theorem State.repAdd_same {F : Touch → Prop} {s0 s : State} (g p : Nat) (t : Td) (idx : List Int) (es : List
    (List Nat × F32))
    (h0 : s0.Same F s) (fRegs : F .regs) (fMem : F .mem) (fMemp : F .memp) (fPower : F .power) :
    s0.Same F (s.repAdd g p t idx es) := by
  unfold State.repAdd
  dsimp only
  exact State.tdFlush_same _ _ _ _ (State.tdAdd_same _ _ _ _ _ h0 fRegs) fMem fMemp fPower

theorem State.repOut_same {F : Touch → Prop} {s0 s : State} (g p addr : Nat) (rows : List (Nat × List F32))
    (h0 : s0.Same F s) (fRegs : F .regs) (fMem : F .mem) (fMemp : F .memp) (fPower : F .power) :
    s0.Same F (s.repOut g p addr rows) := by
  unfold State.repOut
  repeat' with_reducible first
    | assumption
    | (extract_lets +onlyGivenNames x; clear_value (e : x = _); subst e)
    | apply State.useTd_same
    | apply State.tdPut_same
    | apply State.take_same
    | apply State.repAdd_same
    | (refine State.Same.ofIte (fun _ => ?_) (fun _ => ?_))

theorem State.repPut_same {F : Touch → Prop} {s0 s : State} (g p addr : Nat) (es : List (List Nat × Nat × Nat))
    (h0 : s0.Same F s) (fRegs : F .regs) (fMem : F .mem) (fMemp : F .memp) (fPower : F .power) :
    s0.Same F (s.repPut g p addr es) := by
  unfold State.repPut
  repeat' with_reducible first
    | assumption
    | (extract_lets +onlyGivenNames x; clear_value (e : x = _); subst e)
    | apply State.bump_same
    | apply State.wr_same
    | apply State.useTd_same
    | apply State.tdPut_same
    | apply State.repAdd_same
    | (refine State.Same.ofIte (fun _ => ?_) (fun _ => ?_))
    | (refine State.Same.foldl _ _ (fun u a hu => ?_) ?_)

theorem State.replayNormNow_same {F : Touch → Prop} {s0 s : State} (g : Nat) (d : Bytes) (_r : Rep) (ks : List Tok)
    (h0 : s0.Same F s) (fRegs : F .regs) (fMem : F .mem) (fMemp : F .memp) (fPower : F .power) :
    s0.Same F (s.replayNormNow g d _r ks).1 := by
  unfold State.replayNormNow
  repeat' with_reducible first
    | assumption
    | (extract_lets +onlyGivenNames x; clear_value (e : x = _); subst e)
    | apply State.repOut_same

theorem State.replayScoresNow_same {F : Touch → Prop} {s0 s : State} (g : Nat) (d : Bytes) (r : Rep) (ks : List Tok)
    (h0 : s0.Same F s) (fRegs : F .regs) (fMem : F .mem) (fMemp : F .memp) (fPower : F .power) :
    s0.Same F (s.replayScoresNow g d r ks).1 := by
  unfold State.replayScoresNow
  repeat' with_reducible first
    | assumption
    | (extract_lets +onlyGivenNames x; clear_value (e : x = _); subst e)
    | apply State.repOut_same

theorem State.replayTicketsNow_same {F : Touch → Prop} {s0 s : State} (g : Nat) (d : Bytes) (r : Rep) (ks : List Tok)
    (h0 : s0.Same F s) (fRegs : F .regs) (fMem : F .mem) (fMemp : F .memp) (fPower : F .power) :
    s0.Same F (s.replayTicketsNow g d r ks).1 := by
  unfold State.replayTicketsNow
  repeat' with_reducible first
    | assumption
    | (extract_lets +onlyGivenNames x; clear_value (e : x = _); subst e)
    | apply State.take_same
    | apply State.repChoose_same
    | apply State.repPut_same

theorem State.replayPayloadNow_same {F : Touch → Prop} {s0 s : State} (g : Nat) (d : Bytes) (r : Rep) (ks : List Tok)
    (h0 : s0.Same F s) (fRegs : F .regs) (fMem : F .mem) (fMemp : F .memp) (fPower : F .power) :
    s0.Same F (s.replayPayloadNow g d r ks).1 := by
  unfold State.replayPayloadNow
  repeat' with_reducible first
    | assumption
    | (extract_lets +onlyGivenNames x; clear_value (e : x = _); subst e)
    | apply State.repPut_same

theorem State.replayCombineNow_same {F : Touch → Prop} {s0 s : State} (g : Nat) (d : Bytes) (r : Rep) (ks : List Tok)
    (h0 : s0.Same F s) (fFree : F .free) (fRegs : F .regs) (fMem : F .mem) (fMemp : F .memp) (fPower : F .power) :
    s0.Same F (s.replayCombineNow g d r ks).1 := by
  unfold State.replayCombineNow
  repeat' with_reducible first
    | assumption
    | (extract_lets +onlyGivenNames x; clear_value (e : x = _); subst e)
    | apply State.bump_same
    | apply State.charge_same
    | apply State.draw_same
    | apply State.repChoose_same
    | apply State.repOut_same
    | (refine State.Same.ofIte (fun _ => ?_) (fun _ => ?_))
    | split

theorem State.replayReduceNow_same {F : Touch → Prop} {s0 s : State} (g : Nat) (d : Bytes) (r : Rep) (_ks : List Tok)
    (h0 : s0.Same F s) (fRegs : F .regs) (fMem : F .mem) (fMemp : F .memp) (fPower : F .power) :
    s0.Same F (s.replayReduceNow g d r _ks).1 := by
  unfold State.replayReduceNow
  repeat' with_reducible first
    | assumption
    | (extract_lets +onlyGivenNames x; clear_value (e : x = _); subst e)
    | apply State.bump_same
    | apply State.charge_same
    | apply State.repOut_same

theorem State.bindCmd_same {F : Touch → Prop} {s0 s : State} (g : Nat) (es : List Nat) (h0 : s0.Same F s) (fGroup : F
    (.group g)) :
    s0.Same F (s.bindCmd g es) := by
  unfold State.bindCmd
  repeat' with_reducible first
    | assumption
    | apply State.onGroup_same

theorem State.replayDone_same {F : Touch → Prop} {s0 s : State} (g l bad : Nat) (diff : Bool) (h0 : s0.Same F s)
    (fRegs : F .regs) (fMem : F .mem) (fSeam : F .seam) (fMemp : F .memp) (fPart : ∀ p, F (.part p)) (fGroup : F
    (.group g)) (fPress : F .press) (fCores : F .cores) (fPower : F .power) :
    s0.Same F (s.replayDone g l bad diff) := by
  unfold State.replayDone
  repeat' with_reducible first
    | assumption
    | exact fPart _
    | (extract_lets +onlyGivenNames x; clear_value (e : x = _); subst e)
    | apply State.latch_same
    | apply State.bump_same
    | apply State.raise_same
    | apply State.onGroup_same
    | apply State.cmdWritten_same
    | (refine State.Same.ofIte (fun _ => ?_) (fun _ => ?_))

theorem State.fetchInputs_same {F : Touch → Prop} {s0 s : State} (g addr k : Nat) (rows ls : List Nat)
    (h0 : s0.Same F s) (fMemp : F .memp) (fPower : F .power) :
    s0.Same F (s.fetchInputs g addr k rows ls) := by
  unfold State.fetchInputs
  repeat' with_reducible first
    | assumption
    | (extract_lets +onlyGivenNames x; clear_value (e : x = _); subst e)
    | apply State.fetchAt_same

theorem State.startRep_same {F : Touch → Prop} {s0 s : State} (g : Nat) (d : Bytes) (r : Rep) (h0 : s0.Same F s)
    (fRegs : F .regs) (fMemp : F .memp) (fGroup : F (.group g)) (fPower : F .power) :
    s0.Same F (s.startRep g d r) := by
  unfold State.startRep
  repeat' with_reducible first
    | assumption
    | (extract_lets +onlyGivenNames x; clear_value (e : x = _); subst e)
    | apply State.onGroup_same
    | apply State.issueReads_same
    | apply State.useTd_same
    | apply State.begin_same
    | apply State.bindCmd_same
    | apply State.fetchInputs_same
    | (refine State.Same.ofIte (fun _ => ?_) (fun _ => ?_))
    | (refine State.Same.foldl _ _ (fun u a hu => ?_) ?_)

theorem State.runReplay_same {F : Touch → Prop} {s0 s : State} (g target : Nat)
    (f : State → Nat → Bytes → Rep → List Tok → State × Nat × Bool)
    (hf : ∀ u d r ks, s0.Same F u → s0.Same F (f u g d r ks).1) (h0 : s0.Same F s) (fRegs : F .regs) (fMem : F .mem)
        (fSeam : F .seam) (fMemp : F .memp) (fPart : ∀ p, F (.part p)) (fGroup : F (.group g)) (fPress : F .press)
        (fCores : F .cores) (fPower : F .power) : s0.Same F (s.runReplay g target f) := by
  unfold State.runReplay
  repeat' with_reducible first
    | assumption
    | exact fPart _
    | (extract_lets +onlyGivenNames x; clear_value (e : x = _); subst e)
    | apply State.begin_same
    | apply State.runDesc_same
    | apply State.answer_same
    | apply State.replayDone_same
    | apply State.startRep_same
    | apply hf
    | (refine State.Same.ofIte (fun _ => ?_) (fun _ => ?_))
    | split
    | intro _

theorem State.tookGranules_same {F : Touch → Prop} {s0 s : State} (i k : Nat) (r : ReadReq) (h0 : s0.Same F s)
    (fMemp : F .memp) :
    s0.Same F (s.tookGranules i k r) := by
  unfold State.tookGranules
  repeat' with_reducible first
    | assumption
    | (extract_lets +onlyGivenNames x; clear_value (e : x = _); subst e)
    | (refine State.Same.ofIte (fun _ => ?_) (fun _ => ?_))
    | split
    | refine State.Same.upd ?_ rfl rfl rfl rfl rfl

theorem State.readDone_same {F : Touch → Prop} {s0 s : State} (o : MemObj) (h0 : s0.Same F s) (fFree : F .free)
    (fRegs : F .regs) (fMem : F .mem) (fPool : F .pool) (fSeam : F .seam) (fMemp : F .memp) (fHamper : F .hamper)
    (fPart : ∀ p, F (.part p)) (fGroup : ∀ p, F (.group p)) (fPress : F .press) (fCores : F .cores) (fLink : F .link)
    (fFold : F .fold) (fPower : F .power) (fTabs : F .tabs) :
    s0.Same F (s.readDone o) := by
  unfold State.readDone
  repeat' with_reducible first
    | assumption
    | exact fGroup _
    | exact fPart _
    | apply State.takeRecords_same
    | apply State.restored_same
    | apply State.sendReturn_same
    | apply State.writeAdds_same
    | apply State.startChunks_same
    | apply State.readTokens_same
    | (refine State.Same.ofIte (fun _ => ?_) (fun _ => ?_))
    | split

theorem State.dataWritten_same {F : Touch → Prop} {s0 s : State} (p : Nat) (h0 : s0.Same F s) (fRegs : F .regs)
    (fMem : F .mem) (fSeam : F .seam) (fMemp : F .memp) (fPart : ∀ p, F (.part p)) (fGroup : ∀ p, F (.group p))
    (fPress : F .press) (fCores : F .cores) (fPower : F .power) :
    s0.Same F (s.dataWritten p) := by
  unfold State.dataWritten
  repeat' with_reducible first
    | assumption
    | exact fGroup _
    | exact fPart _
    | apply State.cmdWritten_same
    | (refine State.Same.ofIte (fun _ => ?_) (fun _ => ?_))
    | (refine State.Same.foldl _ _ (fun u a hu => ?_) ?_)

theorem State.writeDone_same {F : Touch → Prop} {s0 s : State} (o : MemObj) (h0 : s0.Same F s) (fRegs : F .regs)
    (fMem : F .mem) (fSeam : F .seam) (fMemp : F .memp) (fPart : ∀ p, F (.part p)) (fGroup : ∀ p, F (.group p))
    (fPress : F .press) (fCores : F .cores) (fPower : F .power) :
    s0.Same F (s.writeDone o) := by
  unfold State.writeDone
  repeat' with_reducible first
    | assumption
    | exact fGroup _
    | exact fPart _
    | (extract_lets +onlyGivenNames x; clear_value (e : x = _); subst e)
    | apply State.jrnDone_same
    | apply State.recVisible_same
    | apply State.cmdWritten_same
    | apply State.dataWritten_same
    | (refine State.Same.ofIte (fun _ => ?_) (fun _ => ?_))
    | split
    | refine State.Same.upd ?_ rfl rfl rfl rfl rfl

theorem State.lateBeat_same {F : Touch → Prop} {s0 s : State} (port : Nat) (late : Bool) (h0 : s0.Same F s)
    (fRegs : F .regs) :
    s0.Same F (s.lateBeat port late) := by
  unfold State.lateBeat
  repeat' with_reducible first
    | assumption
    | apply State.bump_same
    | (refine State.Same.ofIte (fun _ => ?_) (fun _ => ?_))

theorem State.endSaves_same {F : Touch → Prop} {s0 s : State} (h0 : s0.Same F s) (fRegs : F .regs) (fMem : F .mem)
    (fSeam : F .seam) (fMemp : F .memp) (fPart : ∀ p, F (.part p)) (fGroup : ∀ p, F (.group p)) (fPress : F .press)
    (fCores : F .cores) (fPower : F .power) :
    s0.Same F (s.endSaves) := by
  unfold State.endSaves
  repeat' with_reducible first
    | assumption
    | exact fGroup _
    | exact fPart _
    | apply State.completeCmd_same
    | (refine State.Same.ofIte (fun _ => ?_) (fun _ => ?_))
    | (refine State.Same.foldl _ _ (fun u a hu => ?_) ?_)
    | split

theorem State.retireMemPort_same {F : Touch → Prop} {s0 s : State} (n : Nat) (h0 : s0.Same F s) (fFree : F .free)
    (fRegs : F .regs) (fMem : F .mem) (fUnits : F .units) (fSeam : F .seam) (fMemp : F .memp) (fHamper : F .hamper)
    (fPart : ∀ p, F (.part p)) (fGroup : ∀ p, F (.group p)) (fPress : F .press) (fCores : F .cores) (fLink : F .link)
    (fFold : F .fold) (fPower : F .power) :
    s0.Same F (s.retireMemPort n) := by
  unfold State.retireMemPort
  repeat' with_reducible first
    | assumption
    | exact fGroup _
    | exact fPart _
    | (extract_lets +onlyGivenNames x; clear_value (e : x = _); subst e)
    | apply State.raise_same
    | apply State.teardownAll_same
    | apply State.endSaves_same
    | (refine State.Same.ofIte (fun _ => ?_) (fun _ => ?_))
    | split
    | refine State.Same.upd ?_ rfl rfl rfl rfl rfl

theorem State.memEvent_same {F : Touch → Prop} {s0 s : State} (n cnt : Nat) (h0 : s0.Same F s) (fFree : F .free)
    (fRegs : F .regs) (fMem : F .mem) (fUnits : F .units) (fSeam : F .seam) (fMemp : F .memp) (fHamper : F .hamper)
    (fPart : ∀ p, F (.part p)) (fGroup : ∀ p, F (.group p)) (fPress : F .press) (fLeaks : F .leaks)
    (fCores : F .cores) (fLink : F .link) (fFold : F .fold) (fPower : F .power) :
    s0.Same F (s.memEvent n cnt) := by
  unfold State.memEvent
  repeat' with_reducible first
    | assumption
    | exact fGroup _
    | exact fPart _
    | (extract_lets +onlyGivenNames x; clear_value (e : x = _); subst e)
    | apply State.bump_same
    | apply State.leakMark_same
    | apply State.retireMemPort_same
    | (refine State.Same.ofIte (fun _ => ?_) (fun _ => ?_))
    | split
    | refine State.Same.upd ?_ rfl rfl rfl rfl rfl

theorem State.retryLater_same {F : Touch → Prop} {s0 s : State} (r : Retry) (h0 : s0.Same F s) (fMemp : F .memp) :
    s0.Same F (s.retryLater r) := by
  unfold State.retryLater
  repeat' with_reducible first
    | assumption
    | (extract_lets +onlyGivenNames x; clear_value (e : x = _); subst e)
    | refine State.Same.upd ?_ rfl rfl rfl rfl rfl

theorem State.undefinedAt_same {F : Touch → Prop} {s0 s : State} (a n : Nat) (h0 : s0.Same F s) (fFree : F .free)
    (fMem : F .mem) :
    s0.Same F (s.undefinedAt a n) :=
  State.Same.onMem fMem (spWf_memWrite _ _ _) (State.draw_same h0 fFree)

theorem State.loseWritten_same {F : Touch → Prop} {s0 s : State} (p l row : Nat) (h0 : s0.Same F s) (fRegs : F .regs)
    (fPart : F (.part p)) :
    s0.Same F (s.loseWritten p l row) := by
  unfold State.loseWritten
  repeat' with_reducible first
    | assumption
    | (extract_lets +onlyGivenNames x; clear_value (e : x = _); subst e)
    | apply State.onMicro_same
    | apply State.onTok_same
    | apply State.markLost_same
    | (refine State.Same.ofIte (fun _ => ?_) (fun _ => ?_))
    | split

theorem State.loseRow_same {F : Touch → Prop} {s0 s : State} (p l row : Nat) (h0 : s0.Same F s) (fRegs : F .regs)
    (fPool : F .pool) (fMemp : F .memp) (fHamper : F .hamper) (fPart : F (.part p)) (fPower : F .power) :
    s0.Same F (s.loseRow p l row) := by
  unfold State.loseRow
  repeat' with_reducible first
    | assumption
    | (extract_lets +onlyGivenNames x; clear_value (e : x = _); subst e)
    | apply State.onPass_same
    | apply State.releaseId_same
    | apply State.loseToken_same
    | (refine State.Same.ofIte (fun _ => ?_) (fun _ => ?_))
    | (refine State.Same.foldl _ _ (fun u a hu => ?_) ?_)
    | split

theorem State.loseRows_same {F : Touch → Prop} {s0 s : State} (p l : Nat) (deps : Pass → List (Nat × List Nat))
    (row : Nat) (h0 : s0.Same F s) (fRegs : F .regs) (fPool : F .pool) (fMemp : F .memp) (fHamper : F .hamper)
    (fPart : F (.part p)) (fPower : F .power) :
    s0.Same F (s.loseRows p l deps row) := by
  unfold State.loseRows
  repeat' with_reducible first
    | assumption
    | apply State.loseRow_same
    | (refine State.Same.foldl _ _ (fun u a hu => ?_) ?_)

theorem State.loseReturn_same {F : Touch → Prop} {s0 s : State} (p l m src : Nat) (h0 : s0.Same F s) (fFree : F .free)
    (fRegs : F .regs) (fPool : F .pool) (fMemp : F .memp) (fHamper : F .hamper) (fPart : F (.part p))
    (fLink : F .link) (fPower : F .power) (fTabs : F .tabs) :
    s0.Same F (s.loseReturn p l m src) := by
  unfold State.loseReturn
  repeat' with_reducible first
    | assumption
    | (extract_lets +onlyGivenNames x; clear_value (e : x = _); subst e)
    | apply State.voidReturn_same
    | apply State.loseTickets_same
    | apply State.countReturn_same
    | apply State.destOut_same
    | apply State.pileBack_same
    | (refine State.Same.ofIte (fun _ => ?_) (fun _ => ?_))
    | split

theorem State.loseTable_same {F : Touch → Prop} {s0 s : State} (tag : Nat) (h0 : s0.Same F s) (fFree : F .free)
    (fRegs : F .regs) (fPool : F .pool) (fSeam : F .seam) (fMemp : F .memp) (fHamper : F .hamper) (fPart : ∀ p, F
    (.part p)) (fLink : F .link) (fPower : F .power) (fTabs : F .tabs) :
    s0.Same F (s.loseTable tag) := by
  unfold State.loseTable
  repeat' with_reducible first
    | assumption
    | exact fPart _
    | (extract_lets +onlyGivenNames x; clear_value (e : x = _); subst e)
    | apply State.bump_same
    | apply State.failTable_same
    | apply State.sharedAnswer_same
    | (refine State.Same.ofIte (fun _ => ?_) (fun _ => ?_))
    | split
    | refine State.Same.upd ?_ rfl rfl rfl rfl rfl

theorem State.loseShared_same {F : Touch → Prop} {s0 s : State} (p l row : Nat) (h0 : s0.Same F s) (fRegs : F .regs)
    (fPool : F .pool) (fMemp : F .memp) (fHamper : F .hamper) (fPart : F (.part p)) (fPower : F .power) :
    s0.Same F (s.loseShared p l row) := by
  unfold State.loseShared
  repeat' with_reducible first
    | assumption
    | (extract_lets +onlyGivenNames x; clear_value (e : x = _); subst e)
    | apply State.bump_same
    | apply State.onMicro_same
    | apply State.loseRow_same

theorem State.readLost_same {F : Touch → Prop} {s0 s : State} (o : MemObj) (h0 : s0.Same F s) (fFree : F .free)
    (fRegs : F .regs) (fMem : F .mem) (fPool : F .pool) (fSeam : F .seam) (fMemp : F .memp) (fHamper : F .hamper)
    (fPart : ∀ p, F (.part p)) (fGroup : ∀ p, F (.group p)) (fPress : F .press) (fCores : F .cores) (fLink : F .link)
    (fFold : F .fold) (fPower : F .power) (fTabs : F .tabs) :
    s0.Same F (s.readLost o) := by
  unfold State.readLost
  repeat' with_reducible first
    | assumption
    | exact fGroup _
    | exact fPart _
    | (extract_lets +onlyGivenNames x; clear_value (e : x = _); subst e)
    | apply State.teardown_same
    | apply State.teardownAll_same
    | apply State.loseTickets_same
    | apply State.poison_same
    | apply State.loseRows_same
    | apply State.loseReturn_same
    | apply State.loseShared_same
    | (refine State.Same.ofIte (fun _ => ?_) (fun _ => ?_))
    | split

theorem State.loseLedger_same {F : Touch → Prop} {s0 s : State} (p : Nat) (h0 : s0.Same F s) (fPart : F (.part p)) :
    s0.Same F (s.loseLedger p) := by
  unfold State.loseLedger
  repeat' with_reducible first
    | assumption
    | (extract_lets +onlyGivenNames x; clear_value (e : x = _); subst e)
    | apply State.onStep_same
    | apply State.endAgain_same
    | (refine State.Same.ofIte (fun _ => ?_) (fun _ => ?_))

theorem State.writeLost_same {F : Touch → Prop} {s0 s : State} (o : MemObj) (a len : Nat) (h0 : s0.Same F s)
    (fFree : F .free) (fRegs : F .regs) (fMem : F .mem) (fPool : F .pool) (fSeam : F .seam) (fMemp : F .memp)
    (fHamper : F .hamper) (fPart : ∀ p, F (.part p)) (fGroup : ∀ p, F (.group p)) (fPress : F .press)
    (fCores : F .cores) (fLink : F .link) (fFold : F .fold) (fPower : F .power) (fTabs : F .tabs) :
    s0.Same F (s.writeLost o a len) := by
  unfold State.writeLost
  repeat' with_reducible first
    | assumption
    | exact fGroup _
    | exact fPart _
    | (extract_lets +onlyGivenNames x; clear_value (e : x = _); subst e)
    | apply State.raise_same
    | apply State.onGroup_same
    | apply State.teardown_same
    | apply State.teardownAll_same
    | apply State.cmdWritten_same
    | apply State.poison_same
    | apply State.writeDone_same
    | apply State.undefinedAt_same
    | apply State.loseWritten_same
    | apply State.loseTable_same
    | apply State.loseLedger_same
    | (refine State.Same.ofIte (fun _ => ?_) (fun _ => ?_))
    | split
    | refine State.Same.upd ?_ rfl rfl rfl rfl rfl

theorem State.registerInputs_same {F : Touch → Prop} {s0 s : State} (h0 : s0.Same F s) (fPart : ∀ p, F (.part p))
    (fGroup : ∀ g, F (.group g)) : s0.Same F s.registerInputs :=
  State.Same.onAll h0 fPart fGroup (by simp) (by simp)

theorem State.applyCompletions_same {F : Touch → Prop} {s0 s : State} (h0 : s0.Same F s) (fFree : F .free)
    (fRegs : F .regs) (fPool : F .pool) (fSeam : F .seam) (fMemp : F .memp) (fHamper : F .hamper) (fPart : ∀ p, F
    (.part p)) (fLink : F .link) (fPower : F .power) (fTabs : F .tabs) :
    s0.Same F (s.applyCompletions) := by
  unfold State.applyCompletions
  repeat' with_reducible first
    | assumption
    | exact fPart _
    | (extract_lets +onlyGivenNames x; clear_value (e : x = _); subst e)
    | apply State.applyCompletion_same
    | (refine State.Same.foldl _ _ (fun u a hu => ?_) ?_)
    | refine State.Same.upd ?_ rfl rfl rfl rfl rfl

theorem State.registerAll_same {F : Touch → Prop} {s0 s : State} (h0 : s0.Same F s) (fFree : F .free)
    (fRegs : F .regs) (fPool : F .pool) (fSeam : F .seam) (fMemp : F .memp) (fHamper : F .hamper) (fPart : ∀ p, F
    (.part p)) (fGroup : ∀ p, F (.group p)) (fLink : F .link) (fPower : F .power) (fTabs : F .tabs) :
    s0.Same F (s.registerAll) := by
  unfold State.registerAll
  repeat' with_reducible first
    | assumption
    | exact fGroup _
    | exact fPart _
    | apply State.registerBells_same
    | apply State.registerInputs_same
    | apply State.applyCompletions_same
    | (refine State.Same.foldl _ _ (fun u a hu => ?_) ?_)

theorem State.markAcked_same {F : Touch → Prop} {s0 s : State} (h0 : s0.Same F s) (fPart : ∀ p, F (.part p)) :
    s0.Same F (s.markAcked) := by
  unfold State.markAcked
  repeat' with_reducible first
    | assumption
    | exact fPart _
    | apply State.onMicro_same
    | (refine State.Same.foldl _ _ (fun u a hu => ?_) ?_)
    | split

theorem State.serveWaiting_same {F : Touch → Prop} {s0 s : State} (h0 : s0.Same F s) (fRegs : F .regs)
    (fMem : F .mem) (fPool : F .pool) (fMemp : F .memp) (fHamper : F .hamper) (fPower : F .power) :
    s0.Same F (s.serveWaiting) := by
  unfold State.serveWaiting
  repeat' with_reducible first
    | assumption
    | apply State.serveCycle_same
    | (refine State.Same.ofIte (fun _ => ?_) (fun _ => ?_))

theorem State.showIdle_same {F : Touch → Prop} {s0 s : State} (h0 : s0.Same F s) (fUnits : F .units) :
    s0.Same F (s.showIdle) := by
  unfold State.showIdle
  repeat' with_reducible first
    | assumption
    | apply State.showUnits_same
    | (refine State.Same.ofIte (fun _ => ?_) (fun _ => ?_))

theorem State.mgtFail_same {F : Touch → Prop} {s0 s : State} (h0 : s0.Same F s) (fMgt : F .mgt) :
    s0.Same F (s.mgtFail) := by
  unfold State.mgtFail
  repeat' with_reducible first
    | assumption
    | refine State.Same.upd ?_ rfl rfl rfl rfl rfl

theorem State.mgtRead_same {F : Touch → Prop} {s0 s : State} (v : Word) (h0 : s0.Same F s) (fMgt : F .mgt) :
    s0.Same F (s.mgtRead v) := by
  unfold State.mgtRead
  repeat' with_reducible first
    | assumption
    | refine State.Same.upd ?_ rfl rfl rfl rfl rfl

end Sys2Proof.Machine
end

section
/-! SUPPORT. What the operations of the start sequence touch. -/

-- One declaration after another: the check bounds the memory, and with it the threads.
set_option Elab.async false

namespace Sys2Proof.Machine

variable {F : Touch → Prop} {s0 s : State}

/-- A refused start: every domain off, the links reset (R94, R95). -/
theorem State.refuseStart_same (c d us : Nat) (h0 : s0.Same F s) (fRegs : F .regs) (fBoot : F .boot) (fPress : F .press)
    (fOff : F .off) (fLink : F .link) (fPower : F .power) : s0.Same F (s.refuseStart c d us) := by
  have hd : s0.Same F (s.domainsOff (List.range 46)) := State.domainsOff_all_same h0 fRegs fPress fPower fOff
  unfold State.refuseStart
  generalize s.domainsOff (List.range 46) = u at hd
  exact State.raise_same _ _ (State.rampsOff_same
    (State.Same.upd hd rfl rfl rfl rfl rfl (hp := fun _ => by simp [resetLink])) fPower) fRegs

theorem State.enterWork_same (n us : Nat) (h0 : s0.Same F s) (fRegs : F .regs) (fBoot : F .boot) (fUnits : F .units)
    (fStitch : F .stitch) (fPress : F .press) (fOff : F .off) (fLink : F .link) (fPower : F .power) (fRecd : F .recd) :
    s0.Same F (s.enterWork n us) := by
  unfold State.enterWork
  repeat' with_reducible first
    | assumption
    | (extract_lets +onlyGivenNames x; clear_value (e : x = _); subst e)
    | apply State.refuseStart_same
    | apply State.showUnits_same
    | apply State.trainAll_same
    | apply State.raise_same
    | refine State.Same.ofIte (fun _ => ?_) (fun _ => ?_)
    | split
    | refine State.Same.upd ?_ rfl rfl rfl rfl rfl

theorem State.enter_same (n us : Nat) (h0 : s0.Same F s) (fRegs : F .regs) (fBoot : F .boot) (fUnits : F .units)
    (fStitch : F .stitch) (fPress : F .press) (fOff : F .off) (fLink : F .link) (fPower : F .power) (fRecd : F .recd) :
    s0.Same F (s.enter n us) :=
  State.Same.ofIte (fun _ => State.Same.upd h0 rfl rfl rfl rfl rfl)
    (fun _ => State.enterWork_same n us h0 fRegs fBoot fUnits fStitch fPress fOff fLink fPower fRecd)

theorem State.takeCopy_same (c : CopyId) (rejected : Bool) (us : Nat) (h0 : s0.Same F s) (fRegs : F .regs)
    (fBoot : F .boot) (fUnits : F .units) (fStitch : F .stitch) (fPress : F .press) (fOff : F .off) (fLink : F .link)
    (fPower : F .power) (fRecd : F .recd) : s0.Same F (s.takeCopy c rejected us) :=
  State.enter_same 3 us (State.Same.upd h0 rfl rfl rfl rfl rfl) fRegs fBoot fUnits fStitch fPress fOff fLink fPower fRecd

theorem State.selectCopy_same (us : Nat) (h0 : s0.Same F s) (fRegs : F .regs) (fBoot : F .boot) (fUnits : F .units)
    (fStitch : F .stitch) (fPress : F .press) (fOff : F .off) (fLink : F .link) (fPower : F .power) (fRecd : F .recd) :
    s0.Same F (s.selectCopy us) := by
  have take (c : CopyId) (r : Bool) : s0.Same F (s.takeCopy c r us) :=
    State.takeCopy_same c r us h0 fRegs fBoot fUnits fStitch fPress fOff fLink fPower fRecd
  have refuse (c : Nat) : s0.Same F (s.refuseStart c 0 us) :=
    State.refuseStart_same c 0 us h0 fRegs fBoot fPress fOff fLink fPower
  unfold State.selectCopy
  dsimp only
  split
  · exact State.Same.ofIte (fun _ => take _ _) fun _ =>
      State.Same.ofIte (fun _ => take _ _) fun _ => State.Same.ofIte (fun _ => take _ _) fun _ => refuse 2
  · exact take _ _
  · exact take _ _
  · exact refuse 1

theorem State.auth_same (us : Nat) (h0 : s0.Same F s) (fRegs : F .regs) (fBoot : F .boot) (fUnits : F .units)
    (fStitch : F .stitch) (fPress : F .press) (fOff : F .off) (fLink : F .link) (fPower : F .power) (fRecd : F .recd) :
    s0.Same F (s.auth us) :=
  State.Same.ofIte (fun _ => State.Same.upd h0 rfl rfl rfl rfl rfl)
    (fun _ => State.selectCopy_same us (State.Same.upd h0 rfl rfl rfl rfl rfl) fRegs fBoot fUnits fStitch fPress fOff fLink
      fPower fRecd)

theorem State.enterAuth_same (us : Nat) (h0 : s0.Same F s) (fRegs : F .regs) (fBoot : F .boot) (fUnits : F .units)
    (fStitch : F .stitch) (fPress : F .press) (fOff : F .off) (fLink : F .link) (fPower : F .power) (fRecd : F .recd) :
    s0.Same F (s.enterAuth us) :=
  State.Same.ofIte (fun _ => State.Same.upd h0 rfl rfl rfl rfl rfl)
    (fun _ => State.auth_same us h0 fRegs fBoot fUnits fStitch fPress fOff fLink fPower fRecd)

theorem State.enterNow_same (n us : Nat) (h0 : s0.Same F s) (fRegs : F .regs) (fBoot : F .boot) (fUnits : F .units)
    (fStitch : F .stitch) (fPress : F .press) (fOff : F .off) (fLink : F .link) (fPower : F .power) (fRecd : F .recd) :
    s0.Same F (s.enterNow n us) :=
  State.Same.ofIte (fun _ => State.auth_same us h0 fRegs fBoot fUnits fStitch fPress fOff fLink fPower fRecd)
    (fun _ => State.enterWork_same n us h0 fRegs fBoot fUnits fStitch fPress fOff fLink fPower fRecd)

/-! ### The operations of one command -/

theorem State.taintRuns_same (y : Micro) (ents : List (Nat × List (Nat × WireRow))) (h0 : s0.Same F s) (fPool : F .pool)
    (fMemp : F .memp) (fHamper : F .hamper) (fPower : F .power) : s0.Same F (s.taintRuns y ents) :=
  State.Same.foldl _ _ (fun _ _ hu => State.taint_same _ hu fPool fMemp fHamper fPower) h0

theorem State.toAssembler_same (r : Run) (a tile : Nat) (ts : List Tok) (parts : List (List (List F32)))
    (h0 : s0.Same F s) (fFree : F .free) (fRegs : F .regs) (fMem : F .mem) (fUnits : F .units) (fSeam : F .seam)
    (fMemp : F .memp) (fHamper : F .hamper) (fPart : ∀ p, F (.part p)) (fGroup : ∀ g, F (.group g)) (fPress : F .press)
    (fCores : F .cores) (fLink : F .link) (fFold : F .fold) (fPower : F .power) :
    s0.Same F (s.toAssembler r a tile ts parts) := by
  unfold State.toAssembler
  split
  · exact State.wakePartial_same _ _ _ _ _ _ h0 fFree fRegs fMem fUnits fSeam fMemp fHamper fPart fGroup fPress fCores fLink
      fFold fPower
  · exact State.onJob_same _ _ _ h0 (fPart _) (fun g _ => fGroup g)

/-- The batch command that a partition works on stands in one of its groups. -/
theorem State.gPart_of_batchJob {s : State} {p g : Nat} {j : Job} (h : s.batchJob p = some (g, j)) : s.gPart g = p := by
  obtain ⟨n, -, hn⟩ := List.mem_filterMap.mp (List.mem_of_mem_head? h)
  split at hn
  case isFalse => cases hn
  case isTrue hv =>
    simp only [Bool.and_eq_true, beq_iff_eq] at hv
    obtain ⟨⟨-, hp⟩, -⟩ := hv
    obtain ⟨c, -, hc⟩ := Option.bind_eq_some_iff.mp hn
    split at hc
    · obtain ⟨k, -, hk⟩ := Option.map_eq_some_iff.mp hc
      cases hk
      exact hp
    · cases hc

theorem State.gPart_of_job {s : State} {p g : Nat} {j : Job} (h : s.job p = some (.batch g, j)) : s.gPart g = p := by
  unfold State.job at h
  split at h
  · obtain ⟨w, -, hw⟩ := Option.map_eq_some_iff.mp h
    cases hw
  · split at h
    · cases h
      exact State.gPart_of_batchJob (by assumption)
    · obtain ⟨w, -, hw⟩ := Option.map_eq_some_iff.mp h
      cases hw

theorem State.gPart_of_jobTok {s : State} {p row g : Nat} {j : Job} {t : Tok} (h : s.jobTok p row = some (.batch g, j, t)) :
    s.gPart g = p := by
  obtain ⟨⟨r, k⟩, hr, hk⟩ := Option.bind_eq_some_iff.mp h
  split at hk
  · obtain ⟨u, -, hu⟩ := Option.map_eq_some_iff.mp hk
    cases hu
    exact State.gPart_of_job hr
  · cases hk

/-- What RST_N and the loss of the supply put back: all but the queue, the free choices and attached memory. -/
theorem State.reset_same {F : Touch → Prop} {s : State} (b : BootSt) (w : PowerSt) (r : RecSt) (x : SelfSt)
    (hall : ∀ f, F f) : s.Same F { State.reset with
      pending := s.pending, free := s.free, mem := s.mem, boot := b, power := w, recd := r, self := x } := by
  constructor
  case regsWf => exact fun _ => (by decide : spWf State.reset.regs = true)
  case partsLen | groupsLen | portsLen => exact fun _ => rfl
  case memWf => exact id
  case pending => rfl
  case part | group => exact fun _ h => absurd (hall _) h
  case parts => exact fun h => absurd (hall _) (h 0).1
  case views | groups => exact fun h => absurd (hall _) (h 0)
  all_goals exact fun h => absurd (hall _) h

end Sys2Proof.Machine
end

section
/-! SUPPORT. What each command touches: one lemma per command, in the order of the model. -/

-- One declaration after another: the check bounds the memory, and with it the threads.
set_option Elab.async false

namespace Sys2Proof.Machine

theorem execDomainSwitchOn_ends {F : Touch → Prop} {s : State} (dom : Nat) (fRegs : F .regs) (fBoot : F .boot)
    (fUnits : F .units) (fStitch : F .stitch) (fPress : F .press) (fOff : F .off) (fOn : F .on) (fLink : F .link)
    (fPower : F .power) (fRecd : F .recd) :
    s.Ends F (execDomainSwitchOn dom s) := by
  unfold execDomainSwitchOn
  repeat' with_reducible first
    | assumption
    | exact State.Same.refl _
    | (extract_lets +onlyGivenNames x; clear_value (e : x = _); subst e)
    | apply State.Ends.next
    | refine State.Ends.ofIte (fun _ => ?_) (fun _ => ?_)
    | apply State.domainOn_same
    | apply State.enter_same
    | apply State.startRecal_same
    | (refine State.Same.ofIte (fun _ => ?_) (fun _ => ?_))
    | split
    | refine State.Same.upd ?_ rfl rfl rfl rfl rfl

theorem execPwrAlert_ends {F : Touch → Prop} {s : State} (fRegs : F .regs) (fPower : F .power) (fSelf : F .self)
    (fPins : F .pins) :
    s.Ends F (execPwrAlert s) := by
  unfold execPwrAlert
  repeat' with_reducible first
    | assumption
    | exact State.Same.refl _
    | (extract_lets +onlyGivenNames x; clear_value (e : x = _); subst e)
    | apply State.Ends.next
    | refine State.Ends.ofIte (fun _ => ?_) (fun _ => ?_)
    | apply State.powerRefuse_same
    | apply State.bump_same
    | apply State.raise_same
    | apply State.lowWindow_same
    | (refine State.Same.ofIte (fun _ => ?_) (fun _ => ?_))
    | refine State.Same.upd ?_ rfl rfl rfl rfl rfl

theorem execPwrAlertRelease_ends {F : Touch → Prop} {s : State} (us : Nat) (fRegs : F .regs) (fBoot : F .boot)
    (fUnits : F .units) (fStitch : F .stitch) (fPress : F .press) (fOff : F .off) (fLink : F .link)
    (fPower : F .power) (fRecd : F .recd)
    (fPins : F .pins) :
    s.Ends F (execPwrAlertRelease us s) := by
  unfold execPwrAlertRelease
  repeat' with_reducible first
    | assumption
    | exact State.Same.refl _
    | (extract_lets +onlyGivenNames x; clear_value (e : x = _); subst e)
    | apply State.Ends.next
    | refine State.Ends.ofIte (fun _ => ?_) (fun _ => ?_)
    | apply State.enterNow_same
    | (refine State.Same.ofIte (fun _ => ?_) (fun _ => ?_))
    | split
    | refine State.Same.upd ?_ rfl rfl rfl rfl rfl

theorem execThermTrip_ends {F : Touch → Prop} {s : State} (us : Nat) (fRegs : F .regs) (fBoot : F .boot)
    (fPress : F .press)
    (fOff : F .off) (fLink : F .link) (fPower : F .power) (fSelf : F .self)
    (fPins : F .pins) : s.Ends F (execThermTrip us s) := by
  have hlow : s.Same F { s with power := { s.power with thermLow := true } } :=
    State.Same.upd (.refl s) rfl rfl rfl rfl rfl
  unfold execThermTrip
  refine State.Ends.ofIte (fun _ => .next (.refl s)) fun _ => State.Ends.ofIte (fun _ => .next ?_) fun _ => ?_
  · exact State.powerRefuse_same hlow fSelf
  · have h := State.powerRefuse_same (State.lowWindow_same
      (State.bump_same rTHERM_CNT 1 (State.raise_same rPWR_EVT 1 hlow fRegs) fRegs) fPower) fSelf
    exact State.Ends.ofIte (fun _ => .next (State.refuseStart_same _ _ _ h fRegs fBoot fPress fOff fLink fPower))
      fun _ => .next h

theorem execThermTripRelease_ends {F : Touch → Prop} {s : State} (fPower : F .power)
    (fPins : F .pins) :
    s.Ends F (execThermTripRelease s) := by
  unfold execThermTripRelease
  repeat' with_reducible first
    | assumption
    | exact State.Same.refl _
    | apply State.Ends.next
    | refine State.Ends.ofIte (fun _ => ?_) (fun _ => ?_)
    | (refine State.Same.ofIte (fun _ => ?_) (fun _ => ?_))
    | refine State.Same.upd ?_ rfl rfl rfl rfl rfl

theorem execPwrTelemWrite_ends {F : Touch → Prop} {s : State} (value : Word) (fMgt : F .mgt) (fRegs : F .regs)
    (fPower : F .power) :
    s.Ends F (execPwrTelemWrite value s) := by
  unfold execPwrTelemWrite
  repeat' with_reducible first
    | assumption
    | exact State.Same.refl _
    | (extract_lets +onlyGivenNames x; clear_value (e : x = _); subst e)
    | apply State.Ends.next
    | refine State.Ends.ofIte (fun _ => ?_) (fun _ => ?_)
    | apply State.mgtAck_same
    | apply State.bump_same
    | (refine State.Same.ofIte (fun _ => ?_) (fun _ => ?_))
    | refine State.Same.upd ?_ rfl rfl rfl rfl rfl

theorem execEnergyWindowClose_ends {F : Touch → Prop} {s : State} (ops : List Nat) (fRegs : F .regs) (fBoot : F .boot)
    (fUnits : F .units) (fStitch : F .stitch) (fPart : ∀ p, F (.part p)) (fPress : F .press) (fOff : F .off)
    (fLink : F .link) (fPower : F .power) (fRecd : F .recd) :
    s.Ends F (execEnergyWindowClose ops s) := by
  unfold execEnergyWindowClose
  repeat' with_reducible first
    | assumption
    | exact State.Same.refl _
    | exact fPart _
    | (extract_lets +onlyGivenNames x; clear_value (e : x = _); subst e)
    | apply State.Ends.next
    | refine State.Ends.ofIte (fun _ => ?_) (fun _ => ?_)
    | apply State.kernelsAt_same
    | apply State.lowWindow_same
    | apply State.enter_same
    | apply State.energyDigest_same
    | (refine State.Same.ofIte (fun _ => ?_) (fun _ => ?_))
    | refine State.Same.upd ?_ rfl rfl rfl rfl rfl

theorem execHamperRelease_ends {F : Touch → Prop} {s : State} (buffer : Bool × Nat) (n : Nat) (fRegs : F .regs)
    (fPool : F .pool) (fMemp : F .memp) (fHamper : F .hamper) (fPower : F .power) :
    s.Ends F (execHamperRelease buffer n s) := by
  unfold execHamperRelease
  repeat' with_reducible first
    | assumption
    | exact State.Same.refl _
    | apply State.Ends.next
    | apply State.releaseN_same

theorem execHamperAddRef_ends {F : Touch → Prop} {s : State} (buffer : Bool × Nat) (refs : List Nat) (rest : RefCycle)
    (fRegs : F .regs) (fMem : F .mem) (fPool : F .pool) (fMemp : F .memp) (fHamper : F .hamper) (fPower : F .power) :
    s.Ends F (execHamperAddRef buffer refs rest s) := by
  unfold execHamperAddRef
  repeat' with_reducible first
    | assumption
    | exact State.Same.refl _
    | (extract_lets +onlyGivenNames x; clear_value (e : x = _); subst e)
    | apply State.Ends.next
    | refine State.Ends.ofIte (fun _ => ?_) (fun _ => ?_)
    | apply State.addRef_same
    | apply State.releaseN_same
    | (refine State.Same.ofIte (fun _ => ?_) (fun _ => ?_))
    | (refine State.Same.foldl _ _ (fun u a hu => ?_) ?_)

theorem execHamperAlloc_ends {F : Touch → Prop} {s : State} (reqs : List CellReq) (fRegs : F .regs) (fMem : F .mem)
    (fPool : F .pool) (fMemp : F .memp) (fHamper : F .hamper) (fPower : F .power) :
    s.Ends F (execHamperAlloc reqs s) := by
  unfold execHamperAlloc
  repeat' with_reducible first
    | assumption
    | exact State.Same.refl _
    | apply State.Ends.next
    | apply State.serveCycle_same

theorem execJournalWrite_ends {F : Touch → Prop} {s : State} (part : Nat) (fRegs : F .regs) (fMem : F .mem)
    (fMemp : F .memp) (fPart : F (.part part)) (fPower : F .power) :
    s.Ends F (execJournalWrite part s) := by
  unfold execJournalWrite
  repeat' with_reducible first
    | assumption
    | exact State.Same.refl _
    | (extract_lets +onlyGivenNames x; clear_value (e : x = _); subst e)
    | apply State.Ends.next
    | refine State.Ends.ofIte (fun _ => ?_) (fun _ => ?_)
    | apply State.bump_same
    | apply State.onPart_same
    | apply State.wr_same
    | (refine State.Same.ofIte (fun _ => ?_) (fun _ => ?_))
    | split

theorem execJrnConsumedWrite_ends {F : Touch → Prop} {s : State} (part : Nat) (value : Word) (fMgt : F .mgt)
    (fRegs : F .regs) (fPart : F (.part part)) :
    s.Ends F (execJrnConsumedWrite part value s) := by
  unfold execJrnConsumedWrite
  repeat' with_reducible first
    | assumption
    | exact State.Same.refl _
    | apply State.Ends.next
    | refine State.Ends.ofIte (fun _ => ?_) (fun _ => ?_)
    | apply State.raise_same
    | apply State.setReg_same
    | apply State.onPart_same
    | (refine State.Same.ofIte (fun _ => ?_) (fun _ => ?_))
    | refine State.Same.upd ?_ rfl rfl rfl rfl rfl

theorem execDataFlitReceive_ends {F : Touch → Prop} {s : State} (chan : Nat) (flit : RxFlit) (fFree : F .free)
    (fRegs : F .regs) (fPool : F .pool) (fUnits : F .units) (fStitch : F .stitch) (fMemp : F .memp)
    (fHamper : F .hamper) (fLists : ∀ p, F (.lists p)) (fLeaks : F .leaks) (fLink : F .link) (fPower : F .power)
    (fRecd : F .recd) :
    s.Ends F (execDataFlitReceive chan flit s) := by
  unfold execDataFlitReceive
  repeat' with_reducible first
    | assumption
    | exact State.Same.refl _
    | exact fLists _
    | apply State.Ends.next
    | apply State.onFlit_same
    | intro _

theorem execIdleFlitReceive_ends {F : Touch → Prop} {s : State} (chan : Nat) (flit : RxFlit) (fFree : F .free)
    (fRegs : F .regs) (fPool : F .pool) (fUnits : F .units) (fStitch : F .stitch) (fMemp : F .memp)
    (fHamper : F .hamper) (fLists : ∀ p, F (.lists p)) (fLeaks : F .leaks) (fLink : F .link) (fPower : F .power)
    (fRecd : F .recd) :
    s.Ends F (execIdleFlitReceive chan flit s) := by
  unfold execIdleFlitReceive
  repeat' with_reducible first
    | assumption
    | exact State.Same.refl _
    | exact fLists _
    | apply State.Ends.next
    | apply State.onFlit_same
    | intro _

theorem execFailedFlit_ends {F : Touch → Prop} {s : State} (port : Nat) (fFree : F .free) (fRegs : F .regs)
    (fPool : F .pool) (fUnits : F .units) (fMemp : F .memp) (fHamper : F .hamper) (fLeaks : F .leaks)
    (fLink : F .link) (fPower : F .power) (fRecd : F .recd) :
    s.Ends F (execFailedFlit port s) := by
  unfold execFailedFlit
  repeat' with_reducible first
    | assumption
    | exact State.Same.refl _
    | apply State.Ends.next
    | apply State.badFlit_same

theorem execNackSend_ends {F : Touch → Prop} {s : State} (chan : Nat) (fFree : F .free) (fLink : F .link)
    (fPower : F .power) :
    s.Ends F (execNackSend chan s) := by
  unfold execNackSend
  repeat' with_reducible first
    | assumption
    | exact State.Same.refl _
    | (extract_lets +onlyGivenNames x; clear_value (e : x = _); subst e)
    | apply State.Ends.next
    | refine State.Ends.ofIte (fun _ => ?_) (fun _ => ?_)
    | apply State.onChan_same
    | apply State.control_same
    | (refine State.Same.ofIte (fun _ => ?_) (fun _ => ?_))
    | split

theorem execNackTimeout_ends {F : Touch → Prop} {s : State} (chan seq : Nat) (fFree : F .free) (fRegs : F .regs)
    (fPool : F .pool) (fUnits : F .units) (fMemp : F .memp) (fHamper : F .hamper) (fLink : F .link)
    (fPower : F .power) (fRecd : F .recd) :
    s.Ends F (execNackTimeout chan seq s) := by
  unfold execNackTimeout
  repeat' with_reducible first
    | assumption
    | exact State.Same.refl _
    | (extract_lets +onlyGivenNames x; clear_value (e : x = _); subst e)
    | apply State.Ends.next
    | refine State.Ends.ofIte (fun _ => ?_) (fun _ => ?_)
    | apply State.retirePort_same
    | apply State.onChan_same
    | apply State.control_same
    | (refine State.Same.ofIte (fun _ => ?_) (fun _ => ?_))
    | split

theorem execNack_ends {F : Touch → Prop} {s : State} (chan : Nat) (flit : Bytes) (fFree : F .free) (fRegs : F .regs)
    (fPool : F .pool) (fUnits : F .units) (fStitch : F .stitch) (fMemp : F .memp) (fHamper : F .hamper)
    (fLists : ∀ p, F (.lists p)) (fLeaks : F .leaks) (fLink : F .link) (fPower : F .power) (fRecd : F .recd) :
    s.Ends F (execNack chan flit s) := by
  unfold execNack
  repeat' with_reducible first
    | assumption
    | exact State.Same.refl _
    | exact fLists _
    | (extract_lets +onlyGivenNames x; clear_value (e : x = _); subst e)
    | apply State.Ends.next
    | refine State.Ends.ofIte (fun _ => ?_) (fun _ => ?_)
    | apply State.onFlit_same
    | apply State.retirePort_same
    | apply State.onChan_same
    | (refine State.Same.ofIte (fun _ => ?_) (fun _ => ?_))
    | refine State.Same.upd ?_ rfl rfl rfl rfl rfl
    | intro _

theorem execResend_ends {F : Touch → Prop} {s : State} (chan : Nat) (fFree : F .free) (fRegs : F .regs)
    (fLink : F .link) (fPower : F .power) :
    s.Ends F (execResend chan s) := by
  unfold execResend
  repeat' with_reducible first
    | assumption
    | exact State.Same.refl _
    | (extract_lets +onlyGivenNames x; clear_value (e : x = _); subst e)
    | apply State.Ends.next
    | refine State.Ends.ofIte (fun _ => ?_) (fun _ => ?_)
    | apply State.onChan_same
    | apply State.bump_same
    | apply State.drive_same
    | (refine State.Same.ofIte (fun _ => ?_) (fun _ => ?_))
    | split

theorem execPhyAlign_ends {F : Touch → Prop} {s : State} (port : Nat) (fLink : F .link) :
    s.Ends F (execPhyAlign port s) := by
  unfold execPhyAlign
  repeat' with_reducible first
    | assumption
    | exact State.Same.refl _
    | apply State.Ends.next
    | refine State.Ends.ofIte (fun _ => ?_) (fun _ => ?_)
    | apply State.onPort_same

theorem execTrainBoundExpire_ends {F : Touch → Prop} {s : State} (port : Nat) (fFree : F .free) (fRegs : F .regs)
    (fPool : F .pool) (fUnits : F .units) (fMemp : F .memp) (fHamper : F .hamper) (fLink : F .link)
    (fPower : F .power) (fRecd : F .recd) :
    s.Ends F (execTrainBoundExpire port s) := by
  unfold execTrainBoundExpire
  repeat' with_reducible first
    | assumption
    | exact State.Same.refl _
    | apply State.Ends.next
    | refine State.Ends.ofIte (fun _ => ?_) (fun _ => ?_)
    | apply State.restartTraining_same

theorem execRetrainExpire_ends {F : Touch → Prop} {s : State} (port : Nat) (fFree : F .free) (fRegs : F .regs)
    (fPool : F .pool) (fUnits : F .units) (fMemp : F .memp) (fHamper : F .hamper) (fLink : F .link)
    (fPower : F .power) (fRecd : F .recd) :
    s.Ends F (execRetrainExpire port s) := by
  unfold execRetrainExpire
  repeat' with_reducible first
    | assumption
    | exact State.Same.refl _
    | apply State.Ends.next
    | refine State.Ends.ofIte (fun _ => ?_) (fun _ => ?_)
    | apply State.retirePort_same

theorem execAlignmentLoss_ends {F : Touch → Prop} {s : State} (port : Nat) (fFree : F .free) (fRegs : F .regs)
    (fPool : F .pool) (fUnits : F .units) (fMemp : F .memp) (fHamper : F .hamper) (fLink : F .link)
    (fPower : F .power) (fRecd : F .recd) :
    s.Ends F (execAlignmentLoss port s) := by
  unfold execAlignmentLoss
  repeat' with_reducible first
    | assumption
    | exact State.Same.refl _
    | apply State.Ends.next
    | refine State.Ends.ofIte (fun _ => ?_) (fun _ => ?_)
    | apply State.enterRetrain_same
    | apply State.restartTraining_same

theorem execHelloSend_ends {F : Touch → Prop} {s : State} (chan : Nat) (fFree : F .free) (fLink : F .link)
    (fPower : F .power) :
    s.Ends F (execHelloSend chan s) := by
  unfold execHelloSend
  repeat' with_reducible first
    | assumption
    | exact State.Same.refl _
    | apply State.Ends.next
    | refine State.Ends.ofIte (fun _ => ?_) (fun _ => ?_)
    | apply State.sendHello_same
    | (refine State.Same.ofIte (fun _ => ?_) (fun _ => ?_))
    | split

theorem execHello_ends {F : Touch → Prop} {s : State} (chan : Nat) (flit : Bytes) (fFree : F .free) (fRegs : F .regs)
    (fPool : F .pool) (fUnits : F .units) (fStitch : F .stitch) (fMemp : F .memp) (fHamper : F .hamper)
    (fLists : ∀ p, F (.lists p)) (fLeaks : F .leaks) (fLink : F .link) (fMgr : F .mgr) (fPower : F .power)
    (fRecd : F .recd) :
    s.Ends F (execHello chan flit s) := by
  unfold execHello
  repeat' with_reducible first
    | assumption
    | exact State.Same.refl _
    | exact fLists _
    | (extract_lets +onlyGivenNames x; clear_value (e : x = _); subst e)
    | apply State.Ends.next
    | refine State.Ends.ofIte (fun _ => ?_) (fun _ => ?_)
    | apply State.onFlit_same
    | apply State.retirePort_same
    | apply State.helloOk_same
    | (refine State.Same.ofIte (fun _ => ?_) (fun _ => ?_))
    | intro _

theorem execProbe_ends {F : Touch → Prop} {s : State} (chan : Nat) (flit : Bytes) (roundTripPs : Nat)
    (fFree : F .free) (fRegs : F .regs) (fPool : F .pool) (fUnits : F .units) (fStitch : F .stitch) (fMemp : F .memp)
    (fHamper : F .hamper) (fLists : ∀ p, F (.lists p)) (fLeaks : F .leaks) (fLink : F .link) (fPower : F .power)
    (fRecd : F .recd) :
    s.Ends F (execProbe chan flit roundTripPs s) := by
  unfold execProbe
  repeat' with_reducible first
    | assumption
    | exact State.Same.refl _
    | exact fLists _
    | (extract_lets +onlyGivenNames x; clear_value (e : x = _); subst e)
    | apply State.Ends.next
    | refine State.Ends.ofIte (fun _ => ?_) (fun _ => ?_)
    | apply State.onFlit_same
    | apply State.control_same
    | apply State.onPort_same
    | apply State.portUp_same
    | apply State.sendProbe_same
    | (refine State.Same.ofIte (fun _ => ?_) (fun _ => ?_))
    | refine State.Same.upd ?_ rfl rfl rfl rfl rfl
    | intro _

theorem execRetire_ends {F : Touch → Prop} {s : State} (chan : Nat) (flit : Bytes) (fFree : F .free) (fRegs : F .regs)
    (fPool : F .pool) (fUnits : F .units) (fStitch : F .stitch) (fMemp : F .memp) (fHamper : F .hamper)
    (fLists : ∀ p, F (.lists p)) (fLeaks : F .leaks) (fLink : F .link) (fPower : F .power) (fRecd : F .recd) :
    s.Ends F (execRetire chan flit s) := by
  unfold execRetire
  repeat' with_reducible first
    | assumption
    | exact State.Same.refl _
    | exact fLists _
    | apply State.Ends.next
    | refine State.Ends.ofIte (fun _ => ?_) (fun _ => ?_)
    | apply State.onFlit_same
    | apply State.retirePort_same
    | (refine State.Same.ofIte (fun _ => ?_) (fun _ => ?_))
    | intro _

theorem execLinkRetireForced_ends {F : Touch → Prop} {s : State} (port : Nat) (value : Word) (fFree : F .free)
    (fMgt : F .mgt) (fRegs : F .regs) (fPool : F .pool) (fUnits : F .units) (fMemp : F .memp) (fHamper : F .hamper)
    (fLink : F .link) (fPower : F .power) (fRecd : F .recd) :
    s.Ends F (execLinkRetireForced port value s) := by
  unfold execLinkRetireForced
  repeat' with_reducible first
    | assumption
    | exact State.Same.refl _
    | (extract_lets +onlyGivenNames x; clear_value (e : x = _); subst e)
    | apply State.Ends.next
    | refine State.Ends.ofIte (fun _ => ?_) (fun _ => ?_)
    | apply State.retirePort_same
    | (refine State.Same.ofIte (fun _ => ?_) (fun _ => ?_))
    | refine State.Same.upd ?_ rfl rfl rfl rfl rfl

theorem execPortServiceStart_ends {F : Touch → Prop} {s : State} (port : Nat) (fFree : F .free) (fLink : F .link)
    (fPower : F .power) :
    s.Ends F (execPortServiceStart port s) := by
  unfold execPortServiceStart
  repeat' with_reducible first
    | assumption
    | exact State.Same.refl _
    | (extract_lets +onlyGivenNames x; clear_value (e : x = _); subst e)
    | apply State.Ends.next
    | refine State.Ends.ofIte (fun _ => ?_) (fun _ => ?_)
    | apply State.pumpAll_same
    | apply State.onPort_same

theorem execRelayReject_ends {F : Touch → Prop} {s : State} (chan : Nat) (flit : Bytes) (fFree : F .free)
    (fRegs : F .regs) (fPool : F .pool) (fUnits : F .units) (fStitch : F .stitch) (fMemp : F .memp)
    (fHamper : F .hamper) (fLists : ∀ p, F (.lists p)) (fLeaks : F .leaks) (fLink : F .link) (fPower : F .power)
    (fRecd : F .recd) :
    s.Ends F (execRelayReject chan flit s) := by
  unfold execRelayReject
  repeat' with_reducible first
    | assumption
    | exact State.Same.refl _
    | exact fLists _
    | (extract_lets +onlyGivenNames x; clear_value (e : x = _); subst e)
    | apply State.Ends.next
    | refine State.Ends.ofIte (fun _ => ?_) (fun _ => ?_)
    | apply State.chooseRelay_same
    | apply State.onPort_same
    | apply State.onFlit_same
    | (refine State.Same.ofIte (fun _ => ?_) (fun _ => ?_))
    | split
    | refine State.Same.upd ?_ rfl rfl rfl rfl rfl
    | intro _

theorem execRelayForward_ends {F : Touch → Prop} {s : State} (msg : Msg) (fFree : F .free) (fRegs : F .regs)
    (fPool : F .pool)
    (fMemp : F .memp) (fHamper : F .hamper) (fLists : ∀ p, F (.lists p)) (fLink : F .link) (fPower : F .power) :
    s.Ends F (execRelayForward msg s) := by
  unfold execRelayForward
  refine State.Ends.ofIte (fun _ => .next (.refl s)) fun _ => ?_
  extract_lets id ok go fresh
  clear_value ok fresh
  refine State.Ends.ofIte (fun _ => .next (.refl s)) fun _ => State.Ends.ofIte (fun _ => .next ?_) fun _ => ?_
  · exact State.control_same _ _ (State.discard_same _ (.refl s) fRegs fPool fMemp fHamper fLink fPower) fFree fLink
      fPower
  · split
    · exact .next (State.passOn_same msg go (fun _ _ _ _ _ h => State.enqueue_same _ _ _ h fFree fLink fPower)
        (by assumption) (.refl s) fRegs fPool fMemp fHamper fLink fPower)
    · exact .next (State.handOver_same (.refl s) fFree fRegs fPool fMemp fHamper fLists fLink fPower)

theorem execUplinkIdleFrame_ends {F : Touch → Prop} {s : State} (chan : Nat) (fFree : F .free) (fLink : F .link)
    (fPower : F .power) :
    s.Ends F (execUplinkIdleFrame chan s) := by
  unfold execUplinkIdleFrame
  repeat' with_reducible first
    | assumption
    | exact State.Same.refl _
    | apply State.Ends.next
    | refine State.Ends.ofIte (fun _ => ?_) (fun _ => ?_)
    | apply State.drive_same
    | (refine State.Same.ofIte (fun _ => ?_) (fun _ => ?_))
    | split

theorem execUplinkFrameLost_ends {F : Touch → Prop} {s : State} (port : Nat) (fFree : F .free) (fRegs : F .regs)
    (fPool : F .pool) (fUnits : F .units) (fMemp : F .memp) (fHamper : F .hamper) (fLeaks : F .leaks)
    (fLink : F .link) (fPower : F .power) (fRecd : F .recd) :
    s.Ends F (execUplinkFrameLost port s) := by
  unfold execUplinkFrameLost
  repeat' with_reducible first
    | assumption
    | exact State.Same.refl _
    | apply State.Ends.next
    | refine State.Ends.ofIte (fun _ => ?_) (fun _ => ?_)
    | apply State.badFlit_same
    | (refine State.Same.ofIte (fun _ => ?_) (fun _ => ?_))
    | (refine State.Same.foldl _ _ (fun u a hu => ?_) ?_)

theorem execUplinkShareRedivide_ends {F : Touch → Prop} {s : State} (port : Nat) (fLink : F .link) :
    s.Ends F (execUplinkShareRedivide port s) := by
  unfold execUplinkShareRedivide
  repeat' with_reducible first
    | assumption
    | exact State.Same.refl _
    | (extract_lets +onlyGivenNames x; clear_value (e : x = _); subst e)
    | apply State.Ends.next
    | refine State.Ends.ofIte (fun _ => ?_) (fun _ => ?_)
    | apply State.divideShares_same
    | apply State.onPort_same

theorem execLkBucketLeak_ends {F : Touch → Prop} {s : State} (port : Nat) (fLeaks : F .leaks) (fLink : F .link) :
    s.Ends F (execLkBucketLeak port s) := by
  unfold execLkBucketLeak
  repeat' with_reducible first
    | assumption
    | exact State.Same.refl _
    | apply State.Ends.next
    | refine State.Ends.ofIte (fun _ => ?_) (fun _ => ?_)
    | apply State.leakMark_same
    | apply State.onPort_same

theorem execCompletionNotify_ends {F : Touch → Prop} {s : State} (group : Nat) (fSeam : F .seam) :
    s.Ends F (execCompletionNotify group s) := by
  unfold execCompletionNotify
  repeat' with_reducible first
    | assumption
    | exact State.Same.refl _
    | apply State.Ends.next
    | apply State.driveNote_same

theorem execWorkReadyNotify_ends {F : Touch → Prop} {s : State} (tag : Nat) (fRegs : F .regs) (fSeam : F .seam)
    (fTabs : F .tabs) :
    s.Ends F (execWorkReadyNotify tag s) := by
  unfold execWorkReadyNotify
  repeat' with_reducible first
    | assumption
    | exact State.Same.refl _
    | (extract_lets +onlyGivenNames x; clear_value (e : x = _); subst e)
    | apply State.Ends.next
    | refine State.Ends.ofIte (fun _ => ?_) (fun _ => ?_)
    | apply State.driveNote_same
    | apply State.bump_same
    | (refine State.Same.ofIte (fun _ => ?_) (fun _ => ?_))
    | split
    | refine State.Same.upd ?_ rfl rfl rfl rfl rfl

theorem execDivertNotify_ends {F : Touch → Prop} {s : State} (group : Nat) (fSeam : F .seam) :
    s.Ends F (execDivertNotify group s) := by
  unfold execDivertNotify
  repeat' with_reducible first
    | assumption
    | exact State.Same.refl _
    | apply State.Ends.next
    | apply State.driveNote_same

theorem execAbortNotify_ends {F : Touch → Prop} {s : State} (group : Nat) (fSeam : F .seam) :
    s.Ends F (execAbortNotify group s) := by
  unfold execAbortNotify
  repeat' with_reducible first
    | assumption
    | exact State.Same.refl _
    | apply State.Ends.next
    | apply State.driveNote_same

theorem execSeamCreditReturn_ends {F : Touch → Prop} {s : State} (gen2 response : Bool) (fSeam : F .seam) :
    s.Ends F (execSeamCreditReturn gen2 response s) := by
  unfold execSeamCreditReturn
  repeat' with_reducible first
    | assumption
    | exact State.Same.refl _
    | apply State.Ends.next
    | refine State.Ends.ofIte (fun _ => ?_) (fun _ => ?_)
    | apply State.drainRsps_same
    | (refine State.Same.ofIte (fun _ => ?_) (fun _ => ?_))
    | refine State.Same.upd ?_ rfl rfl rfl rfl rfl

theorem execSeamInvalidRequest_ends {F : Touch → Prop} {s : State} (req : SeamRaw) (fSeam : F .seam) :
    s.Ends F (execSeamInvalidRequest req s) := by
  unfold execSeamInvalidRequest
  repeat' with_reducible first
    | assumption
    | exact State.Same.refl _
    | apply State.Ends.next
    | refine State.Ends.ofIte (fun _ => ?_) (fun _ => ?_)
    | apply State.respondTo_same
    | (refine State.Same.ofIte (fun _ => ?_) (fun _ => ?_))
    | split

theorem execRingDoorbell_ends {F : Touch → Prop} {s : State} (req : SeamReq) (fRegs : F .regs) (fMem : F .mem)
    (fSeam : F .seam) (fGroup : ∀ p, F (.group p)) :
    s.Ends F (execRingDoorbell req s) := by
  unfold execRingDoorbell
  repeat' with_reducible first
    | assumption
    | exact State.Same.refl _
    | exact fGroup _
    | (extract_lets +onlyGivenNames x; clear_value (e : x = _); subst e)
    | apply State.Ends.next
    | refine State.Ends.ofIte (fun _ => ?_) (fun _ => ?_)
    | apply State.hostWrites_same
    | (refine State.slotGate_same (by assumption) ?_ ?_ ?_)
    | apply State.reply_same
    | apply State.bump_same
    | apply State.onGroup_same
    | (refine State.Same.ofIte (fun _ => ?_) (fun _ => ?_))
    | split

theorem execLayerDoorbell_ends {F : Touch → Prop} {s : State} (req : SeamReq) (fRegs : F .regs) (fMem : F .mem)
    (fSeam : F .seam) (fGroup : ∀ p, F (.group p)) :
    s.Ends F (execLayerDoorbell req s) := by
  unfold execLayerDoorbell
  repeat' with_reducible first
    | assumption
    | exact State.Same.refl _
    | exact fGroup _
    | (extract_lets +onlyGivenNames x; clear_value (e : x = _); subst e)
    | apply State.Ends.next
    | refine State.Ends.ofIte (fun _ => ?_) (fun _ => ?_)
    | apply State.hostWrites_same
    | (refine State.slotGate_same (by assumption) ?_ ?_ ?_)
    | apply State.reply_same
    | apply State.bump_same
    | apply State.onGroup_same
    | (refine State.Same.ofIte (fun _ => ?_) (fun _ => ?_))
    | split

theorem execAbortRequest_ends {F : Touch → Prop} {s : State} (req : SeamReq) (fRegs : F .regs) (fMem : F .mem)
    (fSeam : F .seam) (fGroup : ∀ p, F (.group p)) :
    s.Ends F (execAbortRequest req s) := by
  unfold execAbortRequest
  repeat' with_reducible first
    | assumption
    | exact State.Same.refl _
    | exact fGroup _
    | (extract_lets +onlyGivenNames x; clear_value (e : x = _); subst e)
    | apply State.Ends.next
    | refine State.Ends.ofIte (fun _ => ?_) (fun _ => ?_)
    | apply State.hostWrites_same
    | (refine State.slotGate_same (by assumption) ?_ ?_ ?_)
    | apply State.onGroup_same
    | apply State.reply_same
    | apply State.bump_same
    | (refine State.Same.ofIte (fun _ => ?_) (fun _ => ?_))
    | split

theorem execNop_ends {F : Touch → Prop} {s : State} (group : Nat) (fRegs : F .regs) (fMem : F .mem) (fSeam : F .seam)
    (fMemp : F .memp) (fPart : ∀ p, F (.part p)) (fGroup : F (.group group)) (fPress : F .press) (fCores : F .cores)
    (fPower : F .power) :
    s.Ends F (execNop group s) := by
  unfold execNop
  repeat' with_reducible first
    | assumption
    | exact State.Same.refl _
    | exact fPart _
    | apply State.Ends.next
    | refine State.Ends.ofIte (fun _ => ?_) (fun _ => ?_)
    | apply State.runDesc_same
    | apply State.answer_same
    | apply State.begin_same
    | (refine State.Same.ofIte (fun _ => ?_) (fun _ => ?_))
    | intro _

theorem execPartRestart_ends {F : Touch → Prop} {s : State} (part : Nat) (value : Word) (fFree : F .free)
    (fMgt : F .mgt) (fRegs : F .regs) (fMem : F .mem) (fSeam : F .seam) (fMemp : F .memp) (fHamper : F .hamper)
    (fPart : ∀ p, F (.part p)) (fGroup : ∀ p, F (.group p)) (fPress : F .press) (fCores : F .cores) (fLink : F .link)
    (fFold : F .fold) (fPower : F .power) :
    s.Ends F (execPartRestart part value s) := by
  unfold execPartRestart
  repeat' with_reducible first
    | assumption
    | exact State.Same.refl _
    | exact fPart _
    | exact fGroup _
    | (extract_lets +onlyGivenNames x; clear_value (e : x = _); subst e)
    | apply State.Ends.next
    | refine State.Ends.ofIte (fun _ => ?_) (fun _ => ?_)
    | apply State.mgtAck_same
    | apply State.onPart_same
    | apply State.fetchRecords_same
    | apply State.rampUp_same
    | apply State.replan_same
    | apply State.takeRecords_same
    | (refine State.Same.ofIte (fun _ => ?_) (fun _ => ?_))
    | split
    | refine State.Same.upd ?_ rfl rfl rfl rfl rfl

theorem execStreamOpen_ends {F : Touch → Prop} {s : State} (group : Nat) (fRegs : F .regs) (fMem : F .mem)
    (fSeam : F .seam) (fMemp : F .memp) (fCtx : F .ctx) (fPart : ∀ p, F (.part p)) (fGroup : F (.group group))
    (fPress : F .press) (fCores : F .cores) (fPower : F .power) :
    s.Ends F (execStreamOpen group s) := by
  unfold execStreamOpen
  repeat' with_reducible first
    | assumption
    | exact State.Same.refl _
    | exact fPart _
    | apply State.Ends.next
    | refine State.Ends.ofIte (fun _ => ?_) (fun _ => ?_)
    | apply State.runStream_same

theorem execStreamResume_ends {F : Touch → Prop} {s : State} (group : Nat) (fRegs : F .regs) (fMem : F .mem)
    (fSeam : F .seam) (fMemp : F .memp) (fCtx : F .ctx) (fPart : ∀ p, F (.part p)) (fGroup : F (.group group))
    (fPress : F .press) (fCores : F .cores) (fPower : F .power) :
    s.Ends F (execStreamResume group s) := by
  unfold execStreamResume
  repeat' with_reducible first
    | assumption
    | exact State.Same.refl _
    | exact fPart _
    | apply State.Ends.next
    | refine State.Ends.ofIte (fun _ => ?_) (fun _ => ?_)
    | apply State.runStream_same

theorem execStreamClose_ends {F : Touch → Prop} {s : State} (group : Nat) (fRegs : F .regs) (fMem : F .mem)
    (fSeam : F .seam) (fMemp : F .memp) (fCtx : F .ctx) (fPart : ∀ p, F (.part p)) (fGroup : F (.group group))
    (fPress : F .press) (fCores : F .cores) (fPower : F .power) :
    s.Ends F (execStreamClose group s) := by
  unfold execStreamClose
  repeat' with_reducible first
    | assumption
    | exact State.Same.refl _
    | exact fPart _
    | apply State.Ends.next
    | refine State.Ends.ofIte (fun _ => ?_) (fun _ => ?_)
    | apply State.runStream_same

theorem execStreamPause_ends {F : Touch → Prop} {s : State} (group : Nat) (fRegs : F .regs) (fMem : F .mem)
    (fSeam : F .seam) (fMemp : F .memp) (fCtx : F .ctx) (fPart : ∀ p, F (.part p)) (fGroup : F (.group group))
    (fPress : F .press) (fCores : F .cores) (fPower : F .power) :
    s.Ends F (execStreamPause group s) := by
  unfold execStreamPause
  repeat' with_reducible first
    | assumption
    | exact State.Same.refl _
    | exact fPart _
    | (extract_lets +onlyGivenNames x; clear_value (e : x = _); subst e)
    | apply State.Ends.next
    | refine State.Ends.ofIte (fun _ => ?_) (fun _ => ?_)
    | apply State.runDesc_same
    | apply State.begin_same
    | apply State.answer_same
    | apply State.setContext_same
    | apply State.onGroup_same
    | apply State.wr_same
    | (refine State.Same.ofIte (fun _ => ?_) (fun _ => ?_))
    | split
    | refine State.Same.upd ?_ rfl rfl rfl rfl rfl
    | intro _

theorem execStep_ends {F : Touch → Prop} {s : State} (group : Nat) (fFree : F .free) (fRegs : F .regs) (fMem : F .mem)
    (fSeam : F .seam) (fMemp : F .memp) (fHamper : F .hamper) (fPart : ∀ p, F (.part p)) (fGroup : ∀ p, F (.group p))
    (fPress : F .press) (fCores : F .cores) (fLink : F .link) (fFold : F .fold) (fPower : F .power) :
    s.Ends F (execStep group s) := by
  unfold execStep
  repeat' with_reducible first
    | assumption
    | exact State.Same.refl _
    | exact fPart _
    | exact fGroup _
    | (extract_lets +onlyGivenNames x; clear_value (e : x = _); subst e)
    | apply State.Ends.next
    | refine State.Ends.ofIte (fun _ => ?_) (fun _ => ?_)
    | apply State.runDesc_same
    | apply State.refuseDesc_same
    | apply State.wake_same
    | apply State.onPart_same
    | apply State.teardown_same
    | apply State.onGroup_same
    | apply State.begin_same
    | apply State.bump_same
    | (refine State.Same.ofIte (fun _ => ?_) (fun _ => ?_))
    | refine State.Same.upd ?_ rfl rfl rfl rfl rfl
    | intro _

theorem execPark_ends {F : Touch → Prop} {s : State} (group : Nat) (fRegs : F .regs) (fMem : F .mem) (fSeam : F .seam)
    (fMemp : F .memp) (fPart : ∀ p, F (.part p)) (fGroup : F (.group group)) (fPress : F .press) (fCores : F .cores)
    (fPower : F .power) :
    s.Ends F (execPark group s) := by
  unfold execPark
  repeat' with_reducible first
    | assumption
    | exact State.Same.refl _
    | exact fPart _
    | apply State.Ends.next
    | refine State.Ends.ofIte (fun _ => ?_) (fun _ => ?_)
    | apply State.runDesc_same
    | apply State.answer_same
    | apply State.begin_same
    | (refine State.Same.ofIte (fun _ => ?_) (fun _ => ?_))
    | intro _

theorem execParkComplete_ends {F : Touch → Prop} {s : State} (part : Nat) (fRegs : F .regs) (fMem : F .mem)
    (fSeam : F .seam) (fMemp : F .memp) (fPart : ∀ p, F (.part p)) (fGroup : ∀ p, F (.group p)) (fPress : F .press)
    (fCores : F .cores) (fPower : F .power) :
    s.Ends F (execParkComplete part s) := by
  unfold execParkComplete
  repeat' with_reducible first
    | assumption
    | exact State.Same.refl _
    | exact fPart _
    | exact fGroup _
    | (extract_lets +onlyGivenNames x; clear_value (e : x = _); subst e)
    | apply State.Ends.next
    | refine State.Ends.ofIte (fun _ => ?_) (fun _ => ?_)
    | apply State.partOff_same
    | apply State.onPart_same
    | apply State.answer_same
    | (refine State.Same.ofIte (fun _ => ?_) (fun _ => ?_))
    | split

theorem execAbortRegister_ends {F : Touch → Prop} {s : State} (group : Nat) (fFree : F .free) (fRegs : F .regs)
    (fMem : F .mem) (fSeam : F .seam) (fMemp : F .memp) (fPart : ∀ p, F (.part p)) (fGroup : F (.group group))
    (fPress : F .press) (fCores : F .cores) (fLink : F .link) (fPower : F .power) :
    s.Ends F (execAbortRegister group s) := by
  unfold execAbortRegister
  repeat' with_reducible first
    | assumption
    | exact State.Same.refl _
    | exact fPart _
    | (extract_lets +onlyGivenNames x; clear_value (e : x = _); subst e)
    | apply State.Ends.next
    | refine State.Ends.ofIte (fun _ => ?_) (fun _ => ?_)
    | apply State.onGroup_same
    | apply State.raise_same
    | apply State.latch_same
    | apply State.abortNow_same
    | apply State.groupNote_same
    | (refine State.Same.ofIte (fun _ => ?_) (fun _ => ?_))
    | split

theorem execPreemptRegister_ends {F : Touch → Prop} {s : State} (group : Nat) (fFree : F .free) (fRegs : F .regs)
    (fMem : F .mem) (fMemp : F .memp) (fGroup : F (.group group)) (fCores : F .cores) (fPower : F .power) :
    s.Ends F (execPreemptRegister group s) := by
  unfold execPreemptRegister
  repeat' with_reducible first
    | assumption
    | exact State.Same.refl _
    | (extract_lets +onlyGivenNames x; clear_value (e : x = _); subst e)
    | apply State.Ends.next
    | refine State.Ends.ofIte (fun _ => ?_) (fun _ => ?_)
    | apply State.stopCores_same
    | apply State.bump_same
    | apply State.wr_same
    | (refine State.Same.ofIte (fun _ => ?_) (fun _ => ?_))
    | split

theorem execPreemptSaveDone_ends {F : Touch → Prop} {s : State} (group : Nat) (fRegs : F .regs) (fMem : F .mem)
    (fSeam : F .seam) (fMemp : F .memp) (fPart : ∀ p, F (.part p)) (fGroup : F (.group group)) (fPress : F .press)
    (fCores : F .cores) (fPower : F .power) :
    s.Ends F (execPreemptSaveDone group s) := by
  unfold execPreemptSaveDone
  repeat' with_reducible first
    | assumption
    | exact State.Same.refl _
    | exact fPart _
    | apply State.Ends.next
    | refine State.Ends.ofIte (fun _ => ?_) (fun _ => ?_)
    | apply State.completeCmd_same
    | apply State.onGroup_same
    | apply State.onPart_same
    | (refine State.Same.ofIte (fun _ => ?_) (fun _ => ?_))
    | split

theorem execPreemptRestore_ends {F : Touch → Prop} {s : State} (group : Nat) (fMemp : F .memp) (fGroup : F
    (.group group)) (fPower : F .power) :
    s.Ends F (execPreemptRestore group s) := by
  unfold execPreemptRestore
  repeat' with_reducible first
    | assumption
    | exact State.Same.refl _
    | (extract_lets +onlyGivenNames x; clear_value (e : x = _); subst e)
    | apply State.Ends.next
    | refine State.Ends.ofIte (fun _ => ?_) (fun _ => ?_)
    | apply State.issueRead_same
    | apply State.onGroup_same
    | (refine State.Same.ofIte (fun _ => ?_) (fun _ => ?_))
    | split

theorem execLogWrite_ends {F : Touch → Prop} {s : State} (fRecd : F .recd) :
    s.Ends F (execLogWrite s) := by
  unfold execLogWrite
  repeat' with_reducible first
    | assumption
    | exact State.Same.refl _
    | (extract_lets +onlyGivenNames x; clear_value (e : x = _); subst e)
    | apply State.Ends.next
    | refine State.Ends.ofIte (fun _ => ?_) (fun _ => ?_)
    | apply State.flash_same
    | (refine State.Same.ofIte (fun _ => ?_) (fun _ => ?_))
    | refine State.Same.upd ?_ rfl rfl rfl rfl rfl

theorem execCalendarTick_ends {F : Touch → Prop} {s : State} (fMgr : F .mgr) (fRecd : F .recd) :
    s.Ends F (execCalendarTick s) := by
  unfold execCalendarTick
  repeat' with_reducible first
    | assumption
    | exact State.Same.refl _
    | (extract_lets +onlyGivenNames x; clear_value (e : x = _); subst e)
    | apply State.Ends.next
    | refine State.Ends.ofIte (fun _ => ?_) (fun _ => ?_)
    | (refine State.Same.ofIte (fun _ => ?_) (fun _ => ?_))
    | split
    | refine State.Same.upd ?_ rfl rfl rfl rfl rfl

theorem execCalSet_ends {F : Touch → Prop} {s : State} (value : Word) (fMgt : F .mgt) (fRecd : F .recd) :
    s.Ends F (execCalSet value s) := by
  unfold execCalSet
  repeat' with_reducible first
    | assumption
    | exact State.Same.refl _
    | (extract_lets +onlyGivenNames x; clear_value (e : x = _); subst e)
    | apply State.Ends.next
    | refine State.Ends.ofIte (fun _ => ?_) (fun _ => ?_)
    | apply State.mgtAck_same
    | (refine State.Same.ofIte (fun _ => ?_) (fun _ => ?_))
    | refine State.Same.upd ?_ rfl rfl rfl rfl rfl

theorem execWsBypass_ends {F : Touch → Prop} {s : State} (fRegs : F .regs) (fPress : F .press) (fOff : F .off)
    (fPower : F .power) (fSelf : F .self) :
    s.Ends F (execWsBypass s) := by
  unfold execWsBypass
  repeat' with_reducible first
    | assumption
    | exact State.Same.refl _
    | apply State.Ends.next
    | refine State.Ends.ofIte (fun _ => ?_) (fun _ => ?_)
    | apply State.rampsOff_same
    | apply State.domainsOff_all_same
    | (refine State.Same.ofIte (fun _ => ?_) (fun _ => ?_))
    | refine State.Same.upd ?_ rfl rfl rfl rfl rfl

theorem execWsExtest_ends {F : Touch → Prop} {s : State} (fRegs : F .regs) (fSelf : F .self) :
    s.Ends F (execWsExtest s) := by
  unfold execWsExtest
  repeat' with_reducible first
    | assumption
    | exact State.Same.refl _
    | apply State.Ends.next
    | apply State.wrapUpdate_same

theorem execWsIntest_ends {F : Touch → Prop} {s : State} (fRegs : F .regs) (fSelf : F .self) :
    s.Ends F (execWsIntest s) := by
  unfold execWsIntest
  repeat' with_reducible first
    | assumption
    | exact State.Same.refl _
    | apply State.Ends.next
    | apply State.wrapUpdate_same

theorem execScanAccess_ends {F : Touch → Prop} {s : State} (fRegs : F .regs) (fSelf : F .self) :
    s.Ends F (execScanAccess s) := by
  unfold execScanAccess
  repeat' with_reducible first
    | assumption
    | exact State.Same.refl _
    | apply State.Ends.next
    | apply State.wrapUpdate_same

theorem execMbistAccess_ends {F : Touch → Prop} {s : State} (fRegs : F .regs) (fSelf : F .self) :
    s.Ends F (execMbistAccess s) := by
  unfold execMbistAccess
  repeat' with_reducible first
    | assumption
    | exact State.Same.refl _
    | apply State.Ends.next
    | apply State.wrapUpdate_same

theorem execSelftestRun_ends {F : Touch → Prop} {s : State} (fRegs : F .regs) (fPower : F .power) (fSelf : F .self) :
    s.Ends F (execSelftestRun s) := by
  unfold execSelftestRun
  repeat' with_reducible first
    | assumption
    | exact State.Same.refl _
    | apply State.Ends.next
    | refine State.Ends.ofIte (fun _ => ?_) (fun _ => ?_)
    | apply State.testRefuse_same
    | (refine State.Same.ofIte (fun _ => ?_) (fun _ => ?_))
    | refine State.Same.upd ?_ rfl rfl rfl rfl rfl

theorem execShutdownRequest_ends {F : Touch → Prop} {s : State} (value : Word) (fMgt : F .mgt) (fRegs : F .regs)
    (fMem : F .mem) (fSeam : F .seam) (fMemp : F .memp) (fPart : ∀ p, F (.part p)) (fGroup : ∀ p, F (.group p))
    (fPress : F .press) (fCores : F .cores) (fPower : F .power) (fSelf : F .self) :
    s.Ends F (execShutdownRequest value s) := by
  unfold execShutdownRequest
  repeat' with_reducible first
    | assumption
    | exact State.Same.refl _
    | exact fPart _
    | exact fGroup _
    | (extract_lets +onlyGivenNames x; clear_value (e : x = _); subst e)
    | apply State.Ends.next
    | refine State.Ends.ofIte (fun _ => ?_) (fun _ => ?_)
    | apply State.mgtAck_same
    | apply State.raise_same
    | apply State.abortSaved_same
    | (refine State.Same.ofIte (fun _ => ?_) (fun _ => ?_))
    | refine State.Same.upd ?_ rfl rfl rfl rfl rfl

theorem execDrainEnd_ends {F : Touch → Prop} {s : State} (fLink : F .link) (fSelf : F .self) : s.Ends F
    (execDrainEnd s) :=
  State.Ends.ofIte (fun _ => .next (State.Same.upd (.refl s) rfl rfl rfl rfl rfl (hp := by simp)))
    (fun _ => .next (.refl s))

theorem execSelftestCheck_ends {F : Touch → Prop} {s : State} (cycles vddMv : Nat) (fSelf : F .self) :
    s.Ends F (execSelftestCheck cycles vddMv s) := by
  unfold execSelftestCheck
  repeat' with_reducible first
    | assumption
    | exact State.Same.refl _
    | (extract_lets +onlyGivenNames x; clear_value (e : x = _); subst e)
    | apply State.Ends.next
    | refine State.Ends.ofIte (fun _ => ?_) (fun _ => ?_)
    | (refine State.Same.ofIte (fun _ => ?_) (fun _ => ?_))
    | refine State.Same.upd ?_ rfl rfl rfl rfl rfl

theorem execLogicTestEnd_ends {F : Touch → Prop} {s : State} (misr : List (Nat × Nat × BitVec 64)) (reinit : List
    (Nat × Nat)) (fSelf : F .self) :
    s.Ends F (execLogicTestEnd misr reinit s) := by
  unfold execLogicTestEnd
  repeat' with_reducible first
    | assumption
    | exact State.Same.refl _
    | (extract_lets +onlyGivenNames x; clear_value (e : x = _); subst e)
    | apply State.Ends.next
    | refine State.Ends.ofIte (fun _ => ?_) (fun _ => ?_)
    | (refine State.Same.ofIte (fun _ => ?_) (fun _ => ?_))
    | (refine State.Same.foldl _ _ (fun u a hu => ?_) ?_)
    | refine State.Same.upd ?_ rfl rfl rfl rfl rfl

theorem execMemoryTestEnd_ends {F : Touch → Prop} {s : State} (bits : List BadBit) (fSelf : F .self) :
    s.Ends F (execMemoryTestEnd bits s) := by
  unfold execMemoryTestEnd
  repeat' with_reducible first
    | assumption
    | exact State.Same.refl _
    | (extract_lets +onlyGivenNames x; clear_value (e : x = _); subst e)
    | apply State.Ends.next
    | refine State.Ends.ofIte (fun _ => ?_) (fun _ => ?_)
    | (refine State.Same.ofIte (fun _ => ?_) (fun _ => ?_))
    | (refine State.Same.foldl _ _ (fun u a hu => ?_) ?_)
    | refine State.Same.upd ?_ rfl rfl rfl rfl rfl

theorem execResultWriteEnd_ends {F : Touch → Prop} {s : State} (ok : Bool) (fRegs : F .regs) (fBoot : F .boot)
    (fPress : F .press) (fOff : F .off) (fPower : F .power) (fRecd : F .recd) (fSelf : F .self) :
    s.Ends F (execResultWriteEnd ok s) := by
  unfold execResultWriteEnd
  repeat' with_reducible first
    | assumption
    | exact State.Same.refl _
    | (extract_lets +onlyGivenNames x; clear_value (e : x = _); subst e)
    | apply State.Ends.next
    | refine State.Ends.ofIte (fun _ => ?_) (fun _ => ?_)
    | apply State.selfFinish_same
    | apply State.flash_same
    | (refine State.Same.ofIte (fun _ => ?_) (fun _ => ?_))
    | split
    | refine State.Same.upd ?_ rfl rfl rfl rfl rfl

theorem execLintPart_ends {F : Touch → Prop} {s : State} (fail : Option Nat) (fRegs : F .regs) (fUnits : F .units)
    (fHamper : F .hamper) (fRecd : F .recd) (fSelf : F .self) :
    s.Ends F (execLintPart fail s) := by
  unfold execLintPart
  repeat' with_reducible first
    | assumption
    | exact State.Same.refl _
    | (extract_lets +onlyGivenNames x; clear_value (e : x = _); subst e)
    | apply State.Ends.next
    | refine State.Ends.ofIte (fun _ => ?_) (fun _ => ?_)
    | apply State.raise_same
    | apply State.bump_same
    | apply State.latch_same
    | apply State.lintRetire_same
    | (refine State.Same.ofIte (fun _ => ?_) (fun _ => ?_))
    | split
    | refine State.Same.upd ?_ rfl rfl rfl rfl rfl

theorem execTableLoadLayer_ends {F : Touch → Prop} {s : State} (group : Nat) (fRegs : F .regs) (fMem : F .mem)
    (fSeam : F .seam) (fMemp : F .memp) (fPart : ∀ p, F (.part p)) (fGroup : ∀ p, F (.group p)) (fPress : F .press)
    (fCores : F .cores) (fPower : F .power) :
    s.Ends F (execTableLoadLayer group s) := by
  unfold execTableLoadLayer
  repeat' with_reducible first
    | assumption
    | exact State.Same.refl _
    | exact fPart _
    | exact fGroup _
    | apply State.Ends.next
    | apply State.runLoad_same

theorem execTableLoadPlacement_ends {F : Touch → Prop} {s : State} (group : Nat) (fRegs : F .regs) (fMem : F .mem)
    (fSeam : F .seam) (fMemp : F .memp) (fPart : ∀ p, F (.part p)) (fGroup : ∀ p, F (.group p)) (fPress : F .press)
    (fCores : F .cores) (fPower : F .power) :
    s.Ends F (execTableLoadPlacement group s) := by
  unfold execTableLoadPlacement
  repeat' with_reducible first
    | assumption
    | exact State.Same.refl _
    | exact fPart _
    | exact fGroup _
    | apply State.Ends.next
    | apply State.runLoad_same

theorem execTableLoadProfile_ends {F : Touch → Prop} {s : State} (group : Nat) (fRegs : F .regs) (fMem : F .mem)
    (fSeam : F .seam) (fMemp : F .memp) (fPart : ∀ p, F (.part p)) (fGroup : ∀ p, F (.group p)) (fPress : F .press)
    (fCores : F .cores) (fPower : F .power) :
    s.Ends F (execTableLoadProfile group s) := by
  unfold execTableLoadProfile
  repeat' with_reducible first
    | assumption
    | exact State.Same.refl _
    | exact fPart _
    | exact fGroup _
    | apply State.Ends.next
    | apply State.runLoad_same

theorem execTableLoadBias_ends {F : Touch → Prop} {s : State} (group : Nat) (fRegs : F .regs) (fMem : F .mem)
    (fSeam : F .seam) (fMemp : F .memp) (fPart : ∀ p, F (.part p)) (fGroup : ∀ p, F (.group p)) (fPress : F .press)
    (fCores : F .cores) (fPower : F .power) :
    s.Ends F (execTableLoadBias group s) := by
  unfold execTableLoadBias
  repeat' with_reducible first
    | assumption
    | exact State.Same.refl _
    | exact fPart _
    | exact fGroup _
    | (extract_lets +onlyGivenNames x; clear_value (e : x = _); subst e)
    | apply State.Ends.next
    | refine State.Ends.ofIte (fun _ => ?_) (fun _ => ?_)
    | apply State.runDesc_same
    | apply State.begin_same
    | apply State.answer_same
    | apply State.openBias_same
    | apply State.retireBatch_same
    | apply State.wr_same
    | apply State.onGroup_same
    | apply State.closeBias_same
    | (refine State.Same.ofIte (fun _ => ?_) (fun _ => ?_))
    | split
    | refine State.Same.upd ?_ rfl rfl rfl rfl rfl
    | intro _

theorem execTableLoadHold_ends {F : Touch → Prop} {s : State} (group : Nat) (fRegs : F .regs) (fMem : F .mem)
    (fSeam : F .seam) (fMemp : F .memp) (fPart : ∀ p, F (.part p)) (fGroup : F (.group group)) (fPress : F .press)
    (fCores : F .cores) (fPower : F .power) :
    s.Ends F (execTableLoadHold group s) := by
  unfold execTableLoadHold
  repeat' with_reducible first
    | assumption
    | exact State.Same.refl _
    | exact fPart _
    | (extract_lets +onlyGivenNames x; clear_value (e : x = _); subst e)
    | apply State.Ends.next
    | refine State.Ends.ofIte (fun _ => ?_) (fun _ => ?_)
    | apply State.runDesc_same
    | apply State.answer_same
    | apply State.begin_same
    | apply State.onPart_same
    | (refine State.Same.ofIte (fun _ => ?_) (fun _ => ?_))
    | refine State.Same.upd ?_ rfl rfl rfl rfl rfl
    | intro _

theorem execWeightWriteRelease_ends {F : Touch → Prop} {s : State} (req : SeamReq) (fRegs : F .regs) (fMem : F .mem)
    (fSeam : F .seam) (fPart : ∀ p, F (.part p)) :
    s.Ends F (execWeightWriteRelease req s) := by
  unfold execWeightWriteRelease
  repeat' with_reducible first
    | assumption
    | exact State.Same.refl _
    | exact fPart _
    | (extract_lets +onlyGivenNames x; clear_value (e : x = _); subst e)
    | apply State.Ends.next
    | refine State.Ends.ofIte (fun _ => ?_) (fun _ => ?_)
    | apply State.hostWrites_same
    | (refine State.earlyGate_same (by assumption) ?_ ?_)
    | apply State.reply_same
    | apply State.bump_same
    | apply State.onPart_same
    | (refine State.Same.ofIte (fun _ => ?_) (fun _ => ?_))
    | split

theorem execHoldClear_ends {F : Touch → Prop} {s : State} (part layer : Nat) (fPart : F (.part part)) :
    s.Ends F (execHoldClear part layer s) := by
  unfold execHoldClear
  repeat' with_reducible first
    | assumption
    | exact State.Same.refl _
    | (extract_lets +onlyGivenNames x; clear_value (e : x = _); subst e)
    | apply State.Ends.next
    | refine State.Ends.ofIte (fun _ => ?_) (fun _ => ?_)
    | apply State.onPart_same
    | apply State.onTab_same
    | (refine State.Same.ofIte (fun _ => ?_) (fun _ => ?_))
    | split

theorem execRstNAssert_ends {F : Touch → Prop} {s : State} (hall : ∀ f, F f) : s.Ends F (execRstNAssert s) :=
  State.Ends.ofIte (fun _ => .next (.refl s)) fun _ => .next (State.reset_same _ _ _ _ hall)

theorem execAlwaysOnSupplyLoss_ends {F : Touch → Prop} {s : State} (hall : ∀ f, F f) :
    s.Ends F (execAlwaysOnSupplyLoss s) :=
  .next (State.reset_same _ _ _ _ hall)

theorem execAlwaysOnSupplyUp_ends {F : Touch → Prop} {s : State} (fRecd : F .recd) :
    s.Ends F (execAlwaysOnSupplyUp s) := by
  unfold execAlwaysOnSupplyUp
  repeat' with_reducible first
    | assumption
    | exact State.Same.refl _
    | apply State.Ends.next
    | refine State.Ends.ofIte (fun _ => ?_) (fun _ => ?_)
    | (refine State.Same.ofIte (fun _ => ?_) (fun _ => ?_))
    | refine State.Same.upd ?_ rfl rfl rfl rfl rfl

theorem execRstNDeassert_ends {F : Touch → Prop} {s : State} (sfdp : SfdpRead) (hdrA hdrB : Bytes) (us : Nat)
    (fRegs : F .regs) (fBoot : F .boot) (fPress : F .press) (fOff : F .off) (fLink : F .link) (fPower : F .power)
    (fSelf : F .self) :
    s.Ends F (execRstNDeassert sfdp hdrA hdrB us s) := by
  unfold execRstNDeassert
  repeat' with_reducible first
    | assumption
    | exact State.Same.refl _
    | (extract_lets +onlyGivenNames x; clear_value (e : x = _); subst e)
    | apply State.Ends.next
    | refine State.Ends.ofIte (fun _ => ?_) (fun _ => ?_)
    | apply State.rampsOff_same
    | apply State.domainsOff_all_same
    | apply State.refuseStart_same
    | (refine State.Same.ofIte (fun _ => ?_) (fun _ => ?_))
    | split
    | refine State.Same.upd ?_ rfl rfl rfl rfl rfl

theorem execCopyReadDone_ends {F : Touch → Prop} {s : State} (copy : CopyId) (img : Bytes) (us : Nat)
    (fRegs : F .regs) (fBoot : F .boot) (fUnits : F .units) (fStitch : F .stitch) (fPress : F .press) (fOff : F .off)
    (fLink : F .link) (fPower : F .power) (fRecd : F .recd) :
    s.Ends F (execCopyReadDone copy img us s) := by
  unfold execCopyReadDone
  repeat' with_reducible first
    | assumption
    | exact State.Same.refl _
    | (extract_lets +onlyGivenNames x; clear_value (e : x = _); subst e)
    | apply State.Ends.next
    | refine State.Ends.ofIte (fun _ => ?_) (fun _ => ?_)
    | apply State.enterAuth_same
    | apply State.selectCopy_same
    | (refine State.Same.ofIte (fun _ => ?_) (fun _ => ?_))
    | split
    | refine State.Same.upd ?_ rfl rfl rfl rfl rfl

theorem execClockCheck_ends {F : Touch → Prop} {s : State} (cycles us : Nat) (fRegs : F .regs) (fBoot : F .boot)
    (fUnits : F .units) (fStitch : F .stitch) (fPress : F .press) (fOff : F .off) (fLink : F .link)
    (fPower : F .power) (fRecd : F .recd) :
    s.Ends F (execClockCheck cycles us s) := by
  unfold execClockCheck
  repeat' with_reducible first
    | assumption
    | exact State.Same.refl _
    | (extract_lets +onlyGivenNames x; clear_value (e : x = _); subst e)
    | apply State.Ends.next
    | refine State.Ends.ofIte (fun _ => ?_) (fun _ => ?_)
    | apply State.refuseStart_same
    | apply State.enter_same

theorem execRepair_ends {F : Touch → Prop} {s : State} (record : Option Bytes) (page : Byte) (logs : List Bytes)
    (us : Nat) (fRegs : F .regs) (fBoot : F .boot) (fUnits : F .units) (fStitch : F .stitch) (fPress : F .press)
    (fOff : F .off) (fLink : F .link) (fPower : F .power) (fRecd : F .recd) :
    s.Ends F (execRepair record page logs us s) := by
  unfold execRepair
  repeat' with_reducible first
    | assumption
    | exact State.Same.refl _
    | (extract_lets +onlyGivenNames x; clear_value (e : x = _); subst e)
    | apply State.Ends.next
    | refine State.Ends.ofIte (fun _ => ?_) (fun _ => ?_)
    | apply State.readLog_same
    | apply State.refuseStart_same
    | apply State.enter_same
    | (refine State.Same.ofIte (fun _ => ?_) (fun _ => ?_))
    | refine State.Same.upd ?_ rfl rfl rfl rfl rfl

theorem execLoad_ends {F : Touch → Prop} {s : State} (img : Bytes) (us : Nat) (fRegs : F .regs) (fBoot : F .boot)
    (fImg : F .img) (fUnits : F .units) (fStitch : F .stitch) (fSeam : F .seam) (fPress : F .press) (fOff : F .off)
    (fLink : F .link) (fPower : F .power) (fRecd : F .recd) :
    s.Ends F (execLoad img us s) := by
  unfold execLoad
  repeat' with_reducible first
    | assumption
    | exact State.Same.refl _
    | (extract_lets +onlyGivenNames x; clear_value (e : x = _); subst e)
    | apply State.Ends.next
    | refine State.Ends.ofIte (fun _ => ?_) (fun _ => ?_)
    | apply State.refuseStart_same
    | apply State.enter_same
    | apply State.drainRsps_same
    | (refine State.Same.ofIte (fun _ => ?_) (fun _ => ?_))
    | split
    | refine State.Same.upd ?_ rfl rfl rfl rfl rfl

theorem execPartitionUp_ends {F : Touch → Prop} {s : State} (us : Nat) (fFree : F .free) (fRegs : F .regs)
    (fMem : F .mem) (fBoot : F .boot) (fUnits : F .units) (fStitch : F .stitch) (fSeam : F .seam) (fMemp : F .memp)
    (fHamper : F .hamper) (fPart : ∀ p, F (.part p)) (fGroup : ∀ p, F (.group p)) (fPress : F .press)
    (fCores : F .cores) (fOff : F .off) (fLink : F .link) (fFold : F .fold) (fPower : F .power) (fRecd : F .recd) :
    s.Ends F (execPartitionUp us s) := by
  unfold execPartitionUp
  repeat' with_reducible first
    | assumption
    | exact State.Same.refl _
    | exact fPart _
    | exact fGroup _
    | (extract_lets +onlyGivenNames x; clear_value (e : x = _); subst e)
    | apply State.Ends.next
    | refine State.Ends.ofIte (fun _ => ?_) (fun _ => ?_)
    | apply State.replan_same
    | apply State.loadTables_same
    | apply State.bringUp_same
    | apply State.showSlices_same
    | apply State.domainsOff_same
    | apply State.enter_same
    | (refine State.Same.ofIte (fun _ => ?_) (fun _ => ?_))
    | (refine State.Same.foldl _ _ (fun u a hu => ?_) ?_)
    | refine State.Same.upd ?_ rfl rfl rfl rfl rfl

theorem execKeyProgram_ends {F : Touch → Prop} {s : State} (value : Word) (fMgt : F .mgt) (fBoot : F .boot) :
    s.Ends F (execKeyProgram value s) := by
  unfold execKeyProgram
  repeat' with_reducible first
    | assumption
    | exact State.Same.refl _
    | (extract_lets +onlyGivenNames x; clear_value (e : x = _); subst e)
    | apply State.Ends.next
    | refine State.Ends.ofIte (fun _ => ?_) (fun _ => ?_)
    | apply State.mgtAck_same
    | (refine State.Same.ofIte (fun _ => ?_) (fun _ => ?_))
    | refine State.Same.upd ?_ rfl rfl rfl rfl rfl

theorem execKeyProgramDone_ends {F : Touch → Prop} {s : State} (fBoot : F .boot) :
    s.Ends F (execKeyProgramDone s) := by
  unfold execKeyProgramDone
  repeat' with_reducible first
    | assumption
    | exact State.Same.refl _
    | apply State.Ends.next
    | split
    | refine State.Same.upd ?_ rfl rfl rfl rfl rfl

theorem execNormalise_ends {F : Touch → Prop} {s : State} (part block : Nat) (fRegs : F .regs) (fMemp : F .memp)
    (fPart : F (.part part)) (fGroup : ∀ g, s.gPart g = part → F (.group g)) (fCores : F .cores) (fPower : F .power) :
    s.Ends F (execNormalise part block s) := by
  unfold execNormalise
  split
  case h_2 => exact .next (.refl s)
  case h_1 ref j hj =>
    extract_lets q ts
    clear_value ts
    refine State.Ends.ofIte (fun _ => .next (.refl s)) fun _ => .next ?_
    have hu : s.Same F (ts.foldl (fun (a : State × List Tok) t =>
        match a.1.normTok part ref j t with | (s, u) => (s, a.2 ++ [u])) (s, [])).1 := by
      refine State.Same.foldl_fst _ _ (fun u t h => ?_) _ (.refl s)
      exact State.normTok_same part ref j t h fRegs fCores fPower
    have hjob (f : Pass → Pass) := State.onJob_same part ref f hu fPart
      (fun g hg => fGroup g (State.gPart_of_job (hg ▸ hj)))
    exact State.Same.ofIte (fun _ => State.issueRouter_same _ _ _ _ _ (hjob _) fMemp fPower) fun _ => hjob _

theorem execPressRunIssue_ends {F : Touch → Prop} {s : State} (part array block tile setNo seg : Nat) (fPart : F
    (.part part)) (fGroup : ∀ p, F (.group p)) (fPress : F .press) (fPower : F .power) :
    s.Ends F (execPressRunIssue part array block tile setNo seg s) := by
  unfold execPressRunIssue
  repeat' with_reducible first
    | assumption
    | exact State.Same.refl _
    | exact fGroup _
    | (extract_lets +onlyGivenNames x; clear_value (e : x = _); subst e)
    | apply State.Ends.next
    | refine State.Ends.ofIte (fun _ => ?_) (fun _ => ?_)
    | apply State.issueRun_same
    | (refine State.Same.ofIte (fun _ => ?_) (fun _ => ?_))
    | split

theorem execWakeCheckDone_ends {F : Touch → Prop} {s : State} (part layers : Nat) (fPart : F (.part part)) :
    s.Ends F (execWakeCheckDone part layers s) := by
  unfold execWakeCheckDone
  repeat' with_reducible first
    | assumption
    | exact State.Same.refl _
    | (extract_lets +onlyGivenNames x; clear_value (e : x = _); subst e)
    | apply State.Ends.next
    | refine State.Ends.ofIte (fun _ => ?_) (fun _ => ?_)
    | apply State.replan_same
    | apply State.onPart_same

theorem execPressRunEnd_ends {F : Touch → Prop} {s : State} (array : Nat) (errs : List CellErr) (fFree : F .free)
    (fRegs : F .regs) (fMem : F .mem) (fUnits : F .units) (fSeam : F .seam) (fMemp : F .memp) (fHamper : F .hamper)
    (fPart : ∀ p, F (.part p)) (fGroup : ∀ p, F (.group p)) (fPress : F .press) (fLeaks : F .leaks)
    (fCores : F .cores) (fLink : F .link) (fFold : F .fold) (fPower : F .power) (fRecd : F .recd) :
    s.Ends F (execPressRunEnd array errs s) := by
  unfold execPressRunEnd
  repeat' with_reducible first
    | assumption
    | exact State.Same.refl _
    | exact fPart _
    | exact fGroup _
    | (extract_lets +onlyGivenNames x; clear_value (e : x = _); subst e)
    | apply State.Ends.next
    | refine State.Ends.ofIte (fun _ => ?_) (fun _ => ?_)
    | apply State.leaveArray_same
    | apply State.holdAcc_same
    | apply State.bump_same
    | apply State.failRun_same
    | apply State.raiseBucket_same
    | apply State.toAssembler_same
    | apply State.runsDrained_same
    | (refine State.Same.ofIte (fun _ => ?_) (fun _ => ?_))
    | split

theorem execPrBucketLeak_ends {F : Touch → Prop} {s : State} (array : Nat) (fPress : F .press) (fLeaks : F .leaks) :
    s.Ends F (execPrBucketLeak array s) := by
  unfold execPrBucketLeak
  repeat' with_reducible first
    | assumption
    | exact State.Same.refl _
    | apply State.Ends.next
    | refine State.Ends.ofIte (fun _ => ?_) (fun _ => ?_)
    | apply State.leakMark_same
    | (refine State.Same.ofIte (fun _ => ?_) (fun _ => ?_))
    | refine State.Same.upd ?_ rfl rfl rfl rfl rfl

theorem execTileReduce_ends {F : Touch → Prop} {s : State} (part row tile : Nat) (fPart : F (.part part))
    (fGroup : ∀ g, s.gPart g = part → F (.group g)) (fPower : F .power) : s.Ends F (execTileReduce part row tile s) :=
        by
  unfold execTileReduce
  split
  · exact .next (.refl s)
  case h_2 ref j t hj =>
    extract_lets done
    clear_value done
    exact State.Ends.ofIte (fun _ => .next (.refl s)) fun _ => .next (State.onJob_same part ref _
      (State.charge_same _ _ (.refl s) fPower) fPart (fun g hg => fGroup g (State.gPart_of_jobTok (hg ▸ hj))))

theorem execSoftmaxMerge_ends {F : Touch → Prop} {s : State} (part row : Nat) (fPart : F (.part part))
    (fGroup : ∀ g, s.gPart g = part → F (.group g)) (fCores : F .cores) (fPower : F .power) :
    s.Ends F (execSoftmaxMerge part row s) := by
  unfold execSoftmaxMerge
  split
  · exact .next (.refl s)
  case h_2 ref j t hj =>
    split
    · exact .next (.refl s)
    · exact State.Ends.ofIte (fun _ => .next (.refl s)) fun _ => .next (State.onJob_same part ref _
        (State.onLane_same _ _ _ (State.charge_same _ _ (.refl s) fPower) fCores) fPart
        (fun g hg => fGroup g (State.gPart_of_jobTok (hg ▸ hj))))

theorem execTokenSelect_ends {F : Touch → Prop} {s : State} (part row : Nat) (fRegs : F .regs) (fPart : F
    (.part part)) (fCores : F .cores) (fPower : F .power) :
    s.Ends F (execTokenSelect part row s) := by
  unfold execTokenSelect
  repeat' with_reducible first
    | assumption
    | exact State.Same.refl _
    | (extract_lets +onlyGivenNames x; clear_value (e : x = _); subst e)
    | apply State.Ends.next
    | refine State.Ends.ofIte (fun _ => ?_) (fun _ => ?_)
    | apply State.bump_same
    | apply State.charge_same
    | apply State.onLane_same
    | apply State.onTok_same
    | (refine State.Same.ofIte (fun _ => ?_) (fun _ => ?_))
    | split

theorem execAdmission_ends {F : Touch → Prop} {s : State} (part : Nat) (fRegs : F .regs) (fPool : F .pool)
    (fMemp : F .memp) (fHamper : F .hamper) (fPart : F (.part part)) (fCores : F .cores) (fPower : F .power) :
    s.Ends F (execAdmission part s) := by
  unfold execAdmission
  repeat' with_reducible first
    | assumption
    | exact State.Same.refl _
    | (extract_lets +onlyGivenNames x; clear_value (e : x = _); subst e)
    | apply State.Ends.next
    | refine State.Ends.ofIte (fun _ => ?_) (fun _ => ?_)
    | (refine State.ticketCells_same (by assumption) ?_ ?_ ?_ ?_ ?_ ?_ ?_)
    | apply State.denied_same
    | apply State.countAdm_same
    | apply State.clearLanes_same
    | apply State.onPass_same
    | apply State.readResiduals_same
    | apply State.onMicro_same
    | (refine State.Same.ofIte (fun _ => ?_) (fun _ => ?_))
    | split

theorem execSortEnd_ends {F : Touch → Prop} {s : State} (part layer : Nat) (fFree : F .free) (fRegs : F .regs)
    (fPool : F .pool) (fMemp : F .memp) (fHamper : F .hamper) (fPart : F (.part part)) (fLink : F .link)
    (fPower : F .power) :
    s.Ends F (execSortEnd part layer s) := by
  unfold execSortEnd
  repeat' with_reducible first
    | assumption
    | exact State.Same.refl _
    | (extract_lets +onlyGivenNames x; clear_value (e : x = _); subst e)
    | apply State.Ends.next
    | refine State.Ends.ofIte (fun _ => ?_) (fun _ => ?_)
    | apply State.loseGone_same
    | apply State.charge_same
    | (refine State.ownTally_same (by assumption) ?_ ?_ ?_)
    | apply State.denied_same
    | apply State.onMicro_same
    | apply State.countSubst_same
    | apply State.waitFor_same
    | apply State.spreadSort_same
    | (refine State.Same.ofIte (fun _ => ?_) (fun _ => ?_))
    | split

theorem execMicroStepStart_ends {F : Touch → Prop} {s : State} (part layer : Nat) (fFree : F .free) (fRegs : F .regs)
    (fPool : F .pool) (fMemp : F .memp) (fHamper : F .hamper) (fPart : F (.part part)) (fLink : F .link)
    (fPower : F .power) :
    s.Ends F (execMicroStepStart part layer s) := by
  unfold execMicroStepStart
  repeat' with_reducible first
    | assumption
    | exact State.Same.refl _
    | (extract_lets +onlyGivenNames x; clear_value (e : x = _); subst e)
    | apply State.Ends.next
    | refine State.Ends.ofIte (fun _ => ?_) (fun _ => ?_)
    | apply State.countAdm_same
    | apply State.keepTickets_same
    | apply State.onPass_same
    | apply State.onMicro_same
    | apply State.raise_same
    | apply State.bump_same
    | apply State.endSource_same
    | apply State.dropTickets_same
    | (refine State.Same.ofIte (fun _ => ?_) (fun _ => ?_))
    | split

theorem execRoster_ends {F : Touch → Prop} {s : State} (msg : Msg) (fFree : F .free) (fRegs : F .regs)
    (fPool : F .pool) (fMemp : F .memp) (fHamper : F .hamper) (fPart : F (.part msg.owner)) (fLink : F .link)
    (fPower : F .power) :
    s.Ends F (execRoster msg s) := by
  unfold execRoster
  repeat' with_reducible first
    | assumption
    | exact State.Same.refl _
    | (extract_lets +onlyGivenNames x; clear_value (e : x = _); subst e)
    | apply State.Ends.next
    | refine State.Ends.ofIte (fun _ => ?_) (fun _ => ?_)
    | apply State.stale_same
    | apply State.fanOn_same
    | apply State.dup_same
    | apply State.corrupt_same
    | apply State.take_same
    | apply State.onStep_same
    | (refine State.Same.ofIte (fun _ => ?_) (fun _ => ?_))
    | split

theorem execActiveSetFixed_ends {F : Touch → Prop} {s : State} (part : Nat) (fPart : F (.part part)) :
    s.Ends F (execActiveSetFixed part s) := by
  unfold execActiveSetFixed
  repeat' with_reducible first
    | assumption
    | exact State.Same.refl _
    | (extract_lets +onlyGivenNames x; clear_value (e : x = _); subst e)
    | apply State.Ends.next
    | refine State.Ends.ofIte (fun _ => ?_) (fun _ => ?_)
    | apply State.onStep_same
    | (refine State.Same.ofIte (fun _ => ?_) (fun _ => ?_))
    | split

theorem execFinalMsg_ends {F : Touch → Prop} {s : State} (msg : Msg) (fFree : F .free) (fRegs : F .regs)
    (fPool : F .pool) (fMemp : F .memp) (fHamper : F .hamper) (fPart : F (.part msg.owner)) (fLink : F .link)
    (fPower : F .power) :
    s.Ends F (execFinalMsg msg s) := by
  unfold execFinalMsg
  repeat' with_reducible first
    | assumption
    | exact State.Same.refl _
    | (extract_lets +onlyGivenNames x; clear_value (e : x = _); subst e)
    | apply State.Ends.next
    | refine State.Ends.ofIte (fun _ => ?_) (fun _ => ?_)
    | apply State.fanOn_same
    | apply State.corrupt_same
    | apply State.receive_same
    | apply State.stale_same
    | apply State.dup_same
    | apply State.take_same
    | apply State.addTally_same
    | apply State.unvoid_same
    | (refine State.Same.ofIte (fun _ => ?_) (fun _ => ?_))
    | split
    | refine State.Same.upd ?_ rfl rfl rfl rfl rfl
    | intro _

theorem execTally_ends {F : Touch → Prop} {s : State} (msg : Msg) (fFree : F .free) (fRegs : F .regs) (fPool : F .pool)
    (fMemp : F .memp) (fHamper : F .hamper) (fPart : F (.part msg.owner)) (fLink : F .link) (fPower : F .power) :
    s.Ends F (execTally msg s) := by
  unfold execTally
  extract_lets b h p l m
  refine .next (State.receive_same _ _ _ _ _ (fun u x q hu => ?_) (.refl s) fRegs fPool fMemp fHamper fPart fLink
      fPower)
  extract_lets c y z w
  have hw : s.Same F w := State.unvoid_same _ _ _ _ _ hu fPart
  clear_value w y z
  have hstale := State.stale_same msg hw fRegs fPool fMemp fHamper fLink fPower
  refine State.Same.ofIte (fun _ => hstale) fun _ => ?_
  split
  · exact State.Same.ofIte (fun _ => hstale) fun _ => State.dup_same msg hw fRegs fPool fMemp fHamper fLink fPower
  case h_2 es bad v _ _ _ =>
    clear_value bad
    have hv : s.Same F v := State.addTally_same _ _ _ _ hstale fPart
    refine State.Same.ofIte (fun _ => ?_) fun _ => State.Same.ofIte (fun _ => ?_) fun _ => ?_
    · exact State.voidBack_same _ _ _ _ _ _ _ _ (State.addTally_same _ _ _ _
        (State.corrupt_same _ _ hw fRegs fPool fMemp fHamper fLink fPower) fPart) fFree fRegs fPart fLink fPower
    · exact State.Same.ofIte (fun _ => hv) fun _ => State.voidBack_same _ _ _ _ _ _ _ _ hv fFree fRegs fPart fLink
        fPower
    · split
      · exact State.take_same _ (State.takeTally_same (by assumption) hw fHamper fPart) fRegs fPool fMemp fHamper
          fLink fPower
      · exact State.denied_same _ hw fRegs

theorem execGwTally_ends {F : Touch → Prop} {s : State} (msg : Msg) (fFree : F .free) (fRegs : F .regs)
    (fPool : F .pool) (fMemp : F .memp) (fHamper : F .hamper) (fPart : F (.part msg.owner)) (fLink : F .link)
    (fPower : F .power) :
    s.Ends F (execGwTally msg s) := by
  unfold execGwTally
  repeat' with_reducible first
    | assumption
    | exact State.Same.refl _
    | (extract_lets +onlyGivenNames x; clear_value (e : x = _); subst e)
    | apply State.Ends.next
    | refine State.Ends.ofIte (fun _ => ?_) (fun _ => ?_)
    | apply State.receive_same
    | apply State.stale_same
    | apply State.dup_same
    | apply State.sendVoid_same
    | apply State.fanVoidTally_same
    | apply State.corrupt_same
    | (refine State.fanTally_same (by assumption) ?_ ?_ ?_ ?_ ?_ ?_ ?_)
    | apply State.take_same
    | apply State.denied_same
    | (refine State.Same.ofIte (fun _ => ?_) (fun _ => ?_))
    | split
    | refine State.Same.upd ?_ rfl rfl rfl rfl rfl
    | intro _

theorem execTallyIn_ends {F : Touch → Prop} {s : State} (part layer micro : Nat) (fFree : F .free) (fRegs : F .regs)
    (fHamper : F .hamper) (fPart : F (.part part)) (fLink : F .link) (fPower : F .power) :
    s.Ends F (execTallyIn part layer micro s) := by
  unfold execTallyIn
  split
  · exact .next (.refl s)
  · extract_lets m y src c s1 past s2 ms ts ts' cap gs n
    have h1 : s.Same F s1 := State.onMicro_same _ _ _ _ (.refl s) fPart
    have h2 : s.Same F s2 := State.waitSince_same _ _ _ _ _ (State.waitSince_same _ _ _ _ _
      (State.waitFor_same _ _ _ _ h1 fPart) fPart) fPart
    clear_value s1 s2 src past gs n
    refine State.Ends.ofIte (fun _ => .next (.refl s)) fun _ => State.Ends.ofIte (fun _ => .next ?_) fun _ =>
      State.Ends.ofIte (fun _ => .next h2) fun _ => ?_
    · exact State.onMicro_same _ _ _ _ h1 fPart
    · split
      · exact .next h2
      case h_2 u hu =>
        have h3 : s.Same F u := by
          split at hu
          · exact Option.some.inj hu ▸ h2
          · exact State.reserveFor_same hu h2 fHamper fPart
        exact .next (State.Same.foldl _ _ (fun _ _ h => State.giveGrant_same _ _ _ _ _ _ h fFree fRegs fPart fLink
            fPower) h3)

theorem execGrant_ends {F : Touch → Prop} {s : State} (msg : Msg) (fFree : F .free) (fRegs : F .regs)
    (fPool : F .pool) (fMemp : F .memp) (fHamper : F .hamper) (fPart : F (.part msg.owner)) (fLink : F .link)
    (fPower : F .power) :
    s.Ends F (execGrant msg s) := by
  unfold execGrant
  repeat' with_reducible first
    | assumption
    | exact State.Same.refl _
    | (extract_lets +onlyGivenNames x; clear_value (e : x = _); subst e)
    | apply State.Ends.next
    | refine State.Ends.ofIte (fun _ => ?_) (fun _ => ?_)
    | apply State.receive_same
    | apply State.stale_same
    | apply State.dup_same
    | apply State.corrupt_same
    | apply State.take_same
    | apply State.sendPile_same
    | apply State.withhold_same
    | apply State.onFan_same
    | (refine State.Same.ofIte (fun _ => ?_) (fun _ => ?_))
    | split
    | refine State.Same.upd ?_ rfl rfl rfl rfl rfl
    | intro _

theorem execGwCollect_ends {F : Touch → Prop} {s : State} (part layer micro src : Nat) (fFree : F .free)
    (fRegs : F .regs) (fPart : F (.part part)) (fLink : F .link) (fPower : F .power) :
    s.Ends F (execGwCollect part layer micro src s) := by
  unfold execGwCollect
  repeat' with_reducible first
    | assumption
    | exact State.Same.refl _
    | (extract_lets +onlyGivenNames x; clear_value (e : x = _); subst e)
    | apply State.Ends.next
    | refine State.Ends.ofIte (fun _ => ?_) (fun _ => ?_)
    | apply State.onFan_same
    | apply State.waitFan_same
    | apply State.send_same
    | (refine State.Same.ofIte (fun _ => ?_) (fun _ => ?_))
    | split

theorem execGwGrant_ends {F : Touch → Prop} {s : State} (msg : Msg) (fFree : F .free) (fRegs : F .regs)
    (fPool : F .pool) (fMemp : F .memp) (fHamper : F .hamper) (fPart : F (.part msg.owner)) (fLink : F .link)
    (fPower : F .power) :
    s.Ends F (execGwGrant msg s) := by
  unfold execGwGrant
  repeat' with_reducible first
    | assumption
    | exact State.Same.refl _
    | (extract_lets +onlyGivenNames x; clear_value (e : x = _); subst e)
    | apply State.Ends.next
    | refine State.Ends.ofIte (fun _ => ?_) (fun _ => ?_)
    | apply State.receive_same
    | apply State.stale_same
    | apply State.dup_same
    | apply State.sendGwPile_same
    | apply State.withhold_same
    | apply State.corrupt_same
    | apply State.loseTickets_same
    | apply State.take_same
    | (refine State.Same.ofIte (fun _ => ?_) (fun _ => ?_))
    | (refine State.Same.foldl _ _ (fun u a hu => ?_) ?_)
    | intro _

theorem execPile_ends {F : Touch → Prop} {s : State} (msg : Msg) (fFree : F .free) (fRegs : F .regs) (fPool : F .pool)
    (fMemp : F .memp) (fHamper : F .hamper) (fPart : F (.part msg.owner)) (fLink : F .link) (fPower : F .power) :
    s.Ends F (execPile msg s) := by
  unfold execPile
  repeat' with_reducible first
    | assumption
    | exact State.Same.refl _
    | (extract_lets +onlyGivenNames x; clear_value (e : x = _); subst e)
    | apply State.Ends.next
    | refine State.Ends.ofIte (fun _ => ?_) (fun _ => ?_)
    | apply State.receive_same
    | apply State.stale_same
    | apply State.dup_same
    | apply State.voidReturn_same
    | apply State.noPile_same
    | apply State.corrupt_same
    | apply State.takePile_same
    | apply State.take_same
    | (refine State.Same.ofIte (fun _ => ?_) (fun _ => ?_))
    | split
    | refine State.Same.upd ?_ rfl rfl rfl rfl rfl
    | intro _

theorem execGwPile_ends {F : Touch → Prop} {s : State} (msg : Msg) (fFree : F .free) (fRegs : F .regs) (fPool : F .pool)
    (fMemp : F .memp) (fHamper : F .hamper) (fPart : F (.part msg.owner)) (fLink : F .link) (fPower : F .power) :
    s.Ends F (execGwPile msg s) := by
  unfold execGwPile
  extract_lets b h p l m
  refine .next (State.receive_same _ _ _ _ _ (fun u x q hu => ?_) (.refl s) fRegs fPool fMemp fHamper fPart fLink
      fPower)
  extract_lets c
  have hstale := State.stale_same msg hu fRegs fPool fMemp fHamper fLink fPower
  split
  · exact State.Same.ofIte (fun _ => hu) fun _ => hstale
  case h_2 rs homes bad rows _ f _ =>
    clear_value bad
    refine State.Same.ofIte (fun _ => hstale) fun _ => State.Same.ofIte
      (fun _ => State.dup_same msg hu fRegs fPool fMemp fHamper fLink fPower) fun _ =>
        State.Same.ofIte (fun _ => ?_) fun _ => ?_
    · exact State.sendVoid_same _ _ _ _ _ _ _ _ _ _ _ (State.fanNoPiles_same _ _ _ _ _ _ _
        (State.corrupt_same _ _ hu fRegs fPool fMemp fHamper fLink fPower) fFree fRegs fHamper fPart fLink fPower)
        fFree fRegs fLink fPower
    · have hw := State.claim_same msg hu fLink
      generalize u.claim msg = v at hw ⊢
      obtain ⟨came, v⟩ := v
      dsimp -zeta only at hw ⊢
      extract_lets v1 v2
      have h1 : s.Same F v1 := State.onFan_same _ _ _ _ _ hw fPart
      have h2 : s.Same F v2 := State.transitRows_same _ _ _ _ _ _ h1 fRegs fPool fMemp fHamper fPart fPower
      clear_value v1 v2
      split
      · exact State.Same.ofIte (fun _ => h2) fun _ => State.fanPiles_same _ _ _ _ _ _ _
          (State.take_same _ h2 fRegs fPool fMemp fHamper fLink fPower) fFree fRegs fPool fMemp fHamper fPart fLink
              fPower
      · exact h2

theorem execReturnPile_ends {F : Touch → Prop} {s : State} (msg : Msg) (fRegs : F .regs) (fPool : F .pool)
    (fMemp : F .memp)
    (fHamper : F .hamper) (fPart : F (.part msg.owner)) (fLink : F .link) (fPower : F .power) :
    s.Ends F (execReturnPile msg s) := by
  unfold execReturnPile
  extract_lets b h p l m
  refine State.Ends.ofIte (fun _ => .next (.refl s)) fun _ => .next (State.receive_same _ _ _ _ _ (fun u x q hu => ?_)
    (.refl s) fRegs fPool fMemp fHamper fPart fLink fPower)
  extract_lets c y ks ws same bad
  clear_value bad same ks
  have hstale := State.stale_same msg hu fRegs fPool fMemp fHamper fLink fPower
  refine State.Same.ofIte (fun _ => hstale) fun _ => State.Same.ofIte (fun _ => hstale) fun _ =>
    State.Same.ofIte (fun _ => State.dup_same msg hu fRegs fPool fMemp fHamper fLink fPower) fun _ =>
    State.Same.ofIte (fun _ => hstale) fun _ => State.Same.ofIte (fun _ => ?_) fun _ => ?_
  · exact State.countReturn_same _ _ _ _ (State.loseTickets_same _ _ _ _
      (State.corrupt_same _ _ hu fRegs fPool fMemp fHamper fLink fPower) fRegs fPool fMemp fHamper fPart fPower) fPart
  · have hw := State.claim_same msg hu fLink
    generalize u.claim msg = v at hw ⊢
    obtain ⟨came, v⟩ := v
    dsimp -zeta only at hw ⊢
    split
    · exact State.countReturn_same _ _ _ _ (State.take_same _
        (State.storeReturns_same (by assumption) hw fRegs fPool fMemp fHamper fPart fPower)
        fRegs fPool fMemp fHamper fLink fPower) fPart
    · exact State.denied_same _ hu fRegs

theorem execGwReturn_ends {F : Touch → Prop} {s : State} (msg : Msg) (fFree : F .free) (fRegs : F .regs)
    (fPool : F .pool)
    (fMemp : F .memp) (fHamper : F .hamper) (fPart : F (.part msg.owner)) (fLists : ∀ p, F (.lists p)) (fLink : F .link)
    (fPower : F .power) : s.Ends F (execGwReturn msg s) := by
  unfold execGwReturn
  extract_lets h src fresh go
  clear_value fresh
  refine State.Ends.ofIte (fun _ => .next (.refl s)) fun _ => State.Ends.ofIte (fun _ => .next ?_) fun _ => ?_
  · exact State.bump_same _ _ (State.discard_same _ (.refl s) fRegs fPool fMemp fHamper fLink fPower) fRegs
  · split
    · refine .next (State.passOn_same msg go (fun _ _ _ _ _ h => ?_) (by assumption) (.refl s) fRegs fPool fMemp fHamper
        fLink fPower)
      exact State.sendOn_same _ _ (State.wentBack_same _ _ _ _ _ h fPart) fFree fRegs fLink fPower
    · exact .next (State.handOver_same (.refl s) fFree fRegs fPool fMemp fHamper fLists fLink fPower)

theorem execReturnIn_ends {F : Touch → Prop} {s : State} (part layer micro : Nat) (fMemp : F .memp) (fPart : F
    (.part part)) (fPower : F .power) :
    s.Ends F (execReturnIn part layer micro s) := by
  unfold execReturnIn
  repeat' with_reducible first
    | assumption
    | exact State.Same.refl _
    | (extract_lets +onlyGivenNames x; clear_value (e : x = _); subst e)
    | apply State.Ends.next
    | refine State.Ends.ofIte (fun _ => ?_) (fun _ => ?_)
    | apply State.onMicro_same
    | apply State.issueRead_same
    | apply State.readLinks_same
    | (refine State.Same.ofIte (fun _ => ?_) (fun _ => ?_))
    | (refine State.Same.foldl _ _ (fun u a hu => ?_) ?_)
    | split

theorem execVoidMsg_ends {F : Touch → Prop} {s : State} (msg : Msg) (fFree : F .free) (fRegs : F .regs)
    (fPool : F .pool)
    (fMemp : F .memp) (fHamper : F .hamper) (fPart : F (.part msg.owner)) (fLink : F .link) (fPower : F .power) :
    s.Ends F (execVoidMsg msg s) := by
  have hcorrupt {u : State} (n : Nat) (hu : s.Same F u) : s.Same F (u.corrupt msg n) :=
    State.corrupt_same msg n hu fRegs fPool fMemp fHamper fLink fPower
  have hstale {u : State} (hu : s.Same F u) : s.Same F (u.stale msg) :=
    State.stale_same msg hu fRegs fPool fMemp fHamper fLink fPower
  have htake {u : State} (hu : s.Same F u) : s.Same F (u.take msg) :=
    State.take_same msg hu fRegs fPool fMemp fHamper fLink fPower
  unfold execVoidMsg
  extract_lets b party
  refine State.Ends.ofIte (fun _ => ?_) fun _ => State.Ends.ofIte (fun _ => .next (hcorrupt _ (.refl s))) fun _ =>
    .next (State.receive_same _ _ _ _ _ (fun u x q hu => ?_) (.refl s) fRegs fPool fMemp fHamper fPart fLink fPower)
  · exact State.Ends.ofIte (fun _ => .next (hstale (.refl s))) fun _ => .next (State.send_same _ _ _ _ _ _
      (State.bump_same _ _ (State.wentBack_same _ _ _ _ _ (htake (.refl s)) fPart) fRegs) fFree fRegs fLink fPower)
  · extract_lets lay range reason
    clear_value lay range reason
    split
    case h_1 t ht =>
      have hv : s.Same F t := by
        split at ht
        · exact State.void_same ht hu fFree fRegs fPool fMemp fHamper fPart fLink fPower
        · cases ht
      exact State.Same.ofIte (fun _ => hcorrupt _ hv) fun _ => State.Same.ofIte (fun _ => hcorrupt _ hv) fun _ =>
          htake hv
    case h_2 => exact State.Same.ofIte (fun _ => hstale hu) fun _ => hcorrupt _ hu

theorem execInputRunAlloc_ends {F : Touch → Prop} {s : State} (part layer micro : Nat) (fFree : F .free)
    (fRegs : F .regs) (fPool : F .pool) (fMemp : F .memp) (fHamper : F .hamper) (fPart : ∀ p, F (.part p))
    (fLists : ∀ p, F (.lists p)) (fLink : F .link) (fPower : F .power) :
    s.Ends F (execInputRunAlloc part layer micro s) := by
  unfold execInputRunAlloc
  repeat' with_reducible first
    | assumption
    | exact State.Same.refl _
    | exact fPart _
    | exact fLists _
    | (extract_lets +onlyGivenNames x; clear_value (e : x = _); subst e)
    | apply State.Ends.next
    | apply State.takeRuns_same
    | apply State.handOver_same
    | apply State.noteRuns_same
    | split

theorem execPileIn_ends {F : Touch → Prop} {s : State} (part layer micro : Nat) (fRegs : F .regs) (fMem : F .mem)
    (fPool : F .pool) (fSeam : F .seam) (fMemp : F .memp) (fHamper : F .hamper) (fPart : F (.part part))
    (fPower : F .power) (fTabs : F .tabs) (fNextTag : F .nextTag) :
    s.Ends F (execPileIn part layer micro s) := by
  unfold execPileIn
  repeat' with_reducible first
    | assumption
    | exact State.Same.refl _
    | (extract_lets +onlyGivenNames x; clear_value (e : x = _); subst e)
    | apply State.Ends.next
    | refine State.Ends.ofIte (fun _ => ?_) (fun _ => ?_)
    | apply State.onMicro_same
    | apply State.placed_same
    | apply State.allocRuns_same
    | apply State.taintRuns_same
    | apply State.writeTable_same
    | (refine State.Same.ofIte (fun _ => ?_) (fun _ => ?_))
    | split

theorem execEngineCompletion_ends {F : Touch → Prop} {s : State} (req : SeamReq) (fMem : F .mem) (fSeam : F .seam) :
    s.Ends F (execEngineCompletion req s) := by
  unfold execEngineCompletion
  repeat' with_reducible first
    | assumption
    | exact State.Same.refl _
    | (extract_lets +onlyGivenNames x; clear_value (e : x = _); subst e)
    | apply State.Ends.next
    | refine State.Ends.ofIte (fun _ => ?_) (fun _ => ?_)
    | apply State.hostWrites_same
    | (refine State.earlyGate_same (by assumption) ?_ ?_)
    | apply State.reply_same
    | (refine State.Same.ofIte (fun _ => ?_) (fun _ => ?_))
    | split
    | refine State.Same.upd ?_ rfl rfl rfl rfl rfl

theorem execFdBucketLeak_ends {F : Touch → Prop} {s : State} (cluster : Nat) (fLeaks : F .leaks) (fFold : F .fold) :
    s.Ends F (execFdBucketLeak cluster s) := by
  unfold execFdBucketLeak
  repeat' with_reducible first
    | assumption
    | exact State.Same.refl _
    | apply State.Ends.next
    | refine State.Ends.ofIte (fun _ => ?_) (fun _ => ?_)
    | apply State.leakMark_same
    | (refine State.Same.ofIte (fun _ => ?_) (fun _ => ?_))
    | refine State.Same.upd ?_ rfl rfl rfl rfl rfl

theorem execSharedTableWrite_ends {F : Touch → Prop} {s : State} (part layer : Nat) (fRegs : F .regs) (fMem : F .mem)
    (fPool : F .pool) (fSeam : F .seam) (fMemp : F .memp) (fHamper : F .hamper) (fPart : F (.part part))
    (fPower : F .power) (fTabs : F .tabs) (fNextTag : F .nextTag) :
    s.Ends F (execSharedTableWrite part layer s) := by
  unfold execSharedTableWrite
  repeat' with_reducible first
    | assumption
    | exact State.Same.refl _
    | (extract_lets +onlyGivenNames x; clear_value (e : x = _); subst e)
    | apply State.Ends.next
    | refine State.Ends.ofIte (fun _ => ?_) (fun _ => ?_)
    | apply State.onPass_same
    | apply State.freeChain_same
    | apply State.allocRuns_same
    | apply State.writeTable_same
    | (refine State.Same.ofIte (fun _ => ?_) (fun _ => ?_))
    | (refine State.Same.foldl _ _ (fun u a hu => ?_) ?_)
    | split

theorem execFoldCombine_ends {F : Touch → Prop} {s : State} (part layer row mismatch : Nat) (fFree : F .free)
    (fRegs : F .regs) (fMem : F .mem) (fPool : F .pool) (fUnits : F .units) (fSeam : F .seam) (fMemp : F .memp)
    (fHamper : F .hamper) (fPart : ∀ p, F (.part p)) (fGroup : ∀ p, F (.group p)) (fPress : F .press)
    (fLeaks : F .leaks) (fCores : F .cores) (fLink : F .link) (fFold : F .fold) (fPower : F .power)
    (fTabs : F .tabs) :
    s.Ends F (execFoldCombine part layer row mismatch s) := by
  unfold execFoldCombine
  repeat' with_reducible first
    | assumption
    | exact State.Same.refl _
    | exact fPart _
    | exact fGroup _
    | (extract_lets +onlyGivenNames x; clear_value (e : x = _); subst e)
    | apply State.Ends.next
    | refine State.Ends.ofIte (fun _ => ?_) (fun _ => ?_)
    | apply State.charge_same
    | apply State.residue_same
    | apply State.poison_same
    | apply State.bump_same
    | apply State.rowOut_same
    | apply State.releaseId_same
    | apply State.onPass_same
    | apply State.writeAdds_same
    | apply State.freeTickets_same
    | apply State.freeShared_same
    | (refine State.Same.ofIte (fun _ => ?_) (fun _ => ?_))
    | (refine State.Same.foldl _ _ (fun u a hu => ?_) ?_)
    | split

theorem execReductionStart_ends {F : Touch → Prop} {s : State} (part layer : Nat) (fFree : F .free) (fRegs : F .regs)
    (fMemp : F .memp) (fPart : F (.part part)) (fLink : F .link) (fFold : F .fold) (fPower : F .power) :
    s.Ends F (execReductionStart part layer s) := by
  unfold execReductionStart
  repeat' with_reducible first
    | assumption
    | exact State.Same.refl _
    | (extract_lets +onlyGivenNames x; clear_value (e : x = _); subst e)
    | apply State.Ends.next
    | refine State.Ends.ofIte (fun _ => ?_) (fun _ => ?_)
    | apply State.onStep_same
    | apply State.issueRead_same
    | apply State.waitFor_same
    | apply State.startChunks_same
    | (refine State.Same.ofIte (fun _ => ?_) (fun _ => ?_))
    | split
    | refine State.Same.upd ?_ rfl rfl rfl rfl rfl

theorem execNodeAdd_ends {F : Touch → Prop} {s : State} (part node chunk mismatch : Nat) (fFree : F .free)
    (fRegs : F .regs) (fMem : F .mem) (fUnits : F .units) (fSeam : F .seam) (fMemp : F .memp) (fHamper : F .hamper)
    (fPart : ∀ p, F (.part p)) (fGroup : ∀ p, F (.group p)) (fPress : F .press) (fLeaks : F .leaks)
    (fCores : F .cores) (fLink : F .link) (fFold : F .fold) (fPower : F .power) :
    s.Ends F (execNodeAdd part node chunk mismatch s) := by
  unfold execNodeAdd
  repeat' with_reducible first
    | assumption
    | exact State.Same.refl _
    | exact fPart _
    | exact fGroup _
    | (extract_lets +onlyGivenNames x; clear_value (e : x = _); subst e)
    | apply State.Ends.next
    | refine State.Ends.ofIte (fun _ => ?_) (fun _ => ?_)
    | apply State.onStep_same
    | apply State.issueReads_same
    | apply State.charge_same
    | apply State.residue_same
    | apply State.narrowed_same
    | apply State.putNode_same
    | apply State.writeResult_same
    | apply State.spread_same
    | apply State.sendValue_same
    | (refine State.Same.ofIte (fun _ => ?_) (fun _ => ?_))
    | split

theorem execFdValue_ends {F : Touch → Prop} {s : State} (msg : Msg) (fFree : F .free) (fRegs : F .regs)
    (fMem : F .mem) (fPool : F .pool) (fMemp : F .memp) (fHamper : F .hamper) (fPart : F (.part msg.owner))
    (fLink : F .link) (fFold : F .fold) (fPower : F .power) :
    s.Ends F (execFdValue msg s) := by
  unfold execFdValue
  repeat' with_reducible first
    | assumption
    | exact State.Same.refl _
    | (extract_lets +onlyGivenNames x; clear_value (e : x = _); subst e)
    | apply State.Ends.next
    | refine State.Ends.ofIte (fun _ => ?_) (fun _ => ?_)
    | (refine State.heldFor_same (by assumption) ?_ ?_ ?_ ?_ ?_ ?_)
    | apply State.sendWith_same
    | apply State.take_same
    | apply State.denied_same
    | apply State.corrupt_same
    | apply State.stale_same
    | apply State.raiseAbort_same
    | apply State.dup_same
    | apply State.putNode_same
    | apply State.onStep_same
    | (refine State.Same.ofIte (fun _ => ?_) (fun _ => ?_))
    | split

theorem execFdResult_ends {F : Touch → Prop} {s : State} (msg : Msg) (fFree : F .free) (fRegs : F .regs)
    (fMem : F .mem) (fPool : F .pool) (fMemp : F .memp) (fHamper : F .hamper) (fPart : F (.part msg.owner))
    (fLink : F .link) (fFold : F .fold) (fPower : F .power) :
    s.Ends F (execFdResult msg s) := by
  unfold execFdResult
  repeat' with_reducible first
    | assumption
    | exact State.Same.refl _
    | (extract_lets +onlyGivenNames x; clear_value (e : x = _); subst e)
    | apply State.Ends.next
    | refine State.Ends.ofIte (fun _ => ?_) (fun _ => ?_)
    | (refine State.fanHeld_same (by assumption) ?_ ?_ ?_ ?_ ?_ ?_ ?_ ?_)
    | apply State.denied_same
    | apply State.stale_same
    | apply State.corrupt_same
    | apply State.raiseAbort_same
    | apply State.dup_same
    | apply State.writeResult_same
    | apply State.take_same
    | (refine State.Same.ofIte (fun _ => ?_) (fun _ => ?_))
    | split

theorem execChunkSeal_ends {F : Touch → Prop} {s : State} (part chunk : Nat) (fFree : F .free) (fRegs : F .regs)
    (fPart : F (.part part)) (fLink : F .link) (fFold : F .fold) (fPower : F .power) :
    s.Ends F (execChunkSeal part chunk s) := by
  unfold execChunkSeal
  repeat' with_reducible first
    | assumption
    | exact State.Same.refl _
    | (extract_lets +onlyGivenNames x; clear_value (e : x = _); subst e)
    | apply State.Ends.next
    | refine State.Ends.ofIte (fun _ => ?_) (fun _ => ?_)
    | apply State.onStep_same
    | apply State.startChunk_same
    | apply State.startNext_same
    | (refine State.Same.ofIte (fun _ => ?_) (fun _ => ?_))
    | split
    | refine State.Same.upd ?_ rfl rfl rfl rfl rfl

theorem execFdAbort_ends {F : Touch → Prop} {s : State} (msg : Msg) (fFree : F .free) (fRegs : F .regs)
    (fMem : F .mem) (fPool : F .pool) (fMemp : F .memp) (fHamper : F .hamper) (fPart : F (.part msg.owner))
    (fLink : F .link) (fFold : F .fold) (fPower : F .power) :
    s.Ends F (execFdAbort msg s) := by
  unfold execFdAbort
  repeat' with_reducible first
    | assumption
    | exact State.Same.refl _
    | apply State.Ends.next
    | apply State.fdControl_same
    | apply State.abortRed_same
    | intro _

theorem execFdPoison_ends {F : Touch → Prop} {s : State} (msg : Msg) (fFree : F .free) (fRegs : F .regs)
    (fMem : F .mem) (fPool : F .pool) (fMemp : F .memp) (fHamper : F .hamper) (fPart : F (.part msg.owner))
    (fLink : F .link) (fPower : F .power) :
    s.Ends F (execFdPoison msg s) := by
  unfold execFdPoison
  repeat' with_reducible first
    | assumption
    | exact State.Same.refl _
    | apply State.Ends.next
    | apply State.fdControl_same
    | apply State.poison_same
    | intro _

theorem execSealAudit_ends {F : Touch → Prop} {s : State} (part : Nat) (fFree : F .free) (fRegs : F .regs)
    (fMem : F .mem) (fMemp : F .memp) (fHamper : F .hamper) (fPart : F (.part part)) (fLink : F .link)
    (fPower : F .power) :
    s.Ends F (execSealAudit part s) := by
  unfold execSealAudit
  repeat' with_reducible first
    | assumption
    | exact State.Same.refl _
    | (extract_lets +onlyGivenNames x; clear_value (e : x = _); subst e)
    | apply State.Ends.next
    | refine State.Ends.ofIte (fun _ => ?_) (fun _ => ?_)
    | apply State.issueRead_same
    | apply State.onStep_same
    | apply State.bump_same
    | apply State.poison_same
    | (refine State.Same.ofIte (fun _ => ?_) (fun _ => ?_))
    | (refine State.Same.foldl _ _ (fun u a hu => ?_) ?_)
    | split

theorem execLinkTrainEnd_ends {F : Touch → Prop} {s : State} (timeout : Bool) (fRegs : F .regs) (fBoot : F .boot)
    (fUnits : F .units) (fStitch : F .stitch) (fPress : F .press) (fOff : F .off) (fLink : F .link)
    (fPower : F .power) (fRecd : F .recd) :
    s.Ends F (execLinkTrainEnd timeout s) := by
  unfold execLinkTrainEnd
  repeat' with_reducible first
    | assumption
    | exact State.Same.refl _
    | (extract_lets +onlyGivenNames x; clear_value (e : x = _); subst e)
    | apply State.Ends.next
    | refine State.Ends.ofIte (fun _ => ?_) (fun _ => ?_)
    | apply State.enter_same

theorem execHeadListenEnd_ends {F : Touch → Prop} {s : State} (fRegs : F .regs) (fBoot : F .boot) (fUnits : F .units)
    (fStitch : F .stitch) (fPress : F .press) (fOff : F .off) (fLink : F .link) (fPower : F .power)
    (fRecd : F .recd) :
    s.Ends F (execHeadListenEnd s) := by
  unfold execHeadListenEnd
  repeat' with_reducible first
    | assumption
    | exact State.Same.refl _
    | (extract_lets +onlyGivenNames x; clear_value (e : x = _); subst e)
    | apply State.Ends.next
    | refine State.Ends.ofIte (fun _ => ?_) (fun _ => ?_)
    | apply State.enter_same
    | (refine State.Same.ofIte (fun _ => ?_) (fun _ => ?_))
    | refine State.Same.upd ?_ rfl rfl rfl rfl rfl

theorem execLockAcquired_ends {F : Touch → Prop} {s : State} (fRegs : F .regs) (fBoot : F .boot) (fUnits : F .units)
    (fStitch : F .stitch) (fPress : F .press) (fOff : F .off) (fLink : F .link) (fPower : F .power)
    (fRecd : F .recd) :
    s.Ends F (execLockAcquired s) := by
  unfold execLockAcquired
  repeat' with_reducible first
    | assumption
    | exact State.Same.refl _
    | (extract_lets +onlyGivenNames x; clear_value (e : x = _); subst e)
    | apply State.Ends.next
    | refine State.Ends.ofIte (fun _ => ?_) (fun _ => ?_)
    | apply State.enter_same
    | (refine State.Same.ofIte (fun _ => ?_) (fun _ => ?_))
    | refine State.Same.upd ?_ rfl rfl rfl rfl rfl

theorem execStitchLockTimeout_ends {F : Touch → Prop} {s : State} (us : Nat) (fRegs : F .regs) (fBoot : F .boot)
    (fPress : F .press) (fOff : F .off) (fLink : F .link) (fPower : F .power) :
    s.Ends F (execStitchLockTimeout us s) := by
  unfold execStitchLockTimeout
  repeat' with_reducible first
    | assumption
    | exact State.Same.refl _
    | apply State.Ends.next
    | refine State.Ends.ofIte (fun _ => ?_) (fun _ => ?_)
    | apply State.refuseStart_same

theorem execLockLoss_ends {F : Touch → Prop} {s : State} (fRegs : F .regs) (fStitch : F .stitch) :
    s.Ends F (execLockLoss s) := by
  unfold execLockLoss
  repeat' with_reducible first
    | assumption
    | exact State.Same.refl _
    | (extract_lets +onlyGivenNames x; clear_value (e : x = _); subst e)
    | apply State.Ends.next
    | refine State.Ends.ofIte (fun _ => ?_) (fun _ => ?_)
    | apply State.bump_same
    | apply State.raise_same
    | (refine State.Same.ofIte (fun _ => ?_) (fun _ => ?_))
    | refine State.Same.upd ?_ rfl rfl rfl rfl rfl

theorem execStitchSlip_ends {F : Touch → Prop} {s : State} (refCount : Nat) (fRegs : F .regs) (fStitch : F .stitch) :
    s.Ends F (execStitchSlip refCount s) := by
  unfold execStitchSlip
  repeat' with_reducible first
    | assumption
    | exact State.Same.refl _
    | (extract_lets +onlyGivenNames x; clear_value (e : x = _); subst e)
    | apply State.Ends.next
    | refine State.Ends.ofIte (fun _ => ?_) (fun _ => ?_)
    | apply State.bump_same
    | apply State.raise_same
    | (refine State.Same.ofIte (fun _ => ?_) (fun _ => ?_))
    | refine State.Same.upd ?_ rfl rfl rfl rfl rfl

theorem execStitchRefEdge_ends {F : Touch → Prop} {s : State} (offsetPs : Int) (fRegs : F .regs) (fStitch : F .stitch) :
    s.Ends F (execStitchRefEdge offsetPs s) := by
  unfold execStitchRefEdge
  repeat' with_reducible first
    | assumption
    | exact State.Same.refl _
    | (extract_lets +onlyGivenNames x; clear_value (e : x = _); subst e)
    | apply State.Ends.next
    | refine State.Ends.ofIte (fun _ => ?_) (fun _ => ?_)
    | apply State.raise_same
    | apply State.bump_same
    | (refine State.Same.ofIte (fun _ => ?_) (fun _ => ?_))
    | refine State.Same.upd ?_ rfl rfl rfl rfl rfl

theorem execStitchRefMiss_ends {F : Touch → Prop} {s : State} (fRegs : F .regs) (fStitch : F .stitch) :
    s.Ends F (execStitchRefMiss s) := by
  unfold execStitchRefMiss
  repeat' with_reducible first
    | assumption
    | exact State.Same.refl _
    | (extract_lets +onlyGivenNames x; clear_value (e : x = _); subst e)
    | apply State.Ends.next
    | refine State.Ends.ofIte (fun _ => ?_) (fun _ => ?_)
    | apply State.bump_same
    | apply State.raise_same
    | (refine State.Same.ofIte (fun _ => ?_) (fun _ => ?_))
    | refine State.Same.upd ?_ rfl rfl rfl rfl rfl

theorem execStitchRelaySwitch_ends {F : Touch → Prop} {s : State} (lockedDirect : List Nat) (fStitch : F .stitch) :
    s.Ends F (execStitchRelaySwitch lockedDirect s) := by
  unfold execStitchRelaySwitch
  repeat' with_reducible first
    | assumption
    | exact State.Same.refl _
    | (extract_lets +onlyGivenNames x; clear_value (e : x = _); subst e)
    | apply State.Ends.next
    | refine State.Ends.ofIte (fun _ => ?_) (fun _ => ?_)
    | (refine State.Same.ofIte (fun _ => ?_) (fun _ => ?_))
    | (refine State.Same.foldl _ _ (fun u a hu => ?_) ?_)
    | split
    | refine State.Same.upd ?_ rfl rfl rfl rfl rfl

theorem execStitchDirectRestore_ends {F : Touch → Prop} {s : State} (fStitch : F .stitch) :
    s.Ends F (execStitchDirectRestore s) := by
  unfold execStitchDirectRestore
  repeat' with_reducible first
    | assumption
    | exact State.Same.refl _
    | apply State.Ends.next
    | refine State.Ends.ofIte (fun _ => ?_) (fun _ => ?_)
    | (refine State.Same.ofIte (fun _ => ?_) (fun _ => ?_))
    | refine State.Same.upd ?_ rfl rfl rfl rfl rfl

theorem execCountFlitSend_ends {F : Touch → Prop} {s : State} (port : Nat) (fFree : F .free) (fStitch : F .stitch)
    (fLink : F .link) (fPower : F .power) :
    s.Ends F (execCountFlitSend port s) := by
  unfold execCountFlitSend
  repeat' with_reducible first
    | assumption
    | exact State.Same.refl _
    | apply State.Ends.next
    | refine State.Ends.ofIte (fun _ => ?_) (fun _ => ?_)
    | apply State.control_same
    | apply State.noteSent_same

theorem execTimeSend_ends {F : Touch → Prop} {s : State} (chan txOfs : Nat) (fFree : F .free) (fStitch : F .stitch)
    (fLink : F .link) (fPower : F .power) :
    s.Ends F (execTimeSend chan txOfs s) := by
  unfold execTimeSend
  repeat' with_reducible first
    | assumption
    | exact State.Same.refl _
    | (extract_lets +onlyGivenNames x; clear_value (e : x = _); subst e)
    | apply State.Ends.next
    | refine State.Ends.ofIte (fun _ => ?_) (fun _ => ?_)
    | apply State.control_same
    | apply State.noteSent_same
    | (refine State.Same.ofIte (fun _ => ?_) (fun _ => ?_))
    | split

theorem execTime_ends {F : Touch → Prop} {s : State} (chan : Nat) (flit : Bytes) (arrivalPs : Nat) (fFree : F .free)
    (fRegs : F .regs) (fPool : F .pool) (fUnits : F .units) (fStitch : F .stitch) (fMemp : F .memp)
    (fHamper : F .hamper) (fLists : ∀ p, F (.lists p)) (fLeaks : F .leaks) (fLink : F .link) (fMgr : F .mgr)
    (fPower : F .power) (fRecd : F .recd) :
    s.Ends F (execTime chan flit arrivalPs s) := by
  unfold execTime
  repeat' with_reducible first
    | assumption
    | exact State.Same.refl _
    | exact fLists _
    | (extract_lets +onlyGivenNames x; clear_value (e : x = _); subst e)
    | apply State.Ends.next
    | refine State.Ends.ofIte (fun _ => ?_) (fun _ => ?_)
    | apply State.onFlit_same
    | apply State.takeCalendar_same
    | apply State.heardCount_same
    | (refine State.Same.ofIte (fun _ => ?_) (fun _ => ?_))
    | refine State.Same.upd ?_ rfl rfl rfl rfl rfl
    | intro _

theorem execCount_ends {F : Touch → Prop} {s : State} (chan : Nat) (flit : Bytes) (fFree : F .free) (fRegs : F .regs)
    (fPool : F .pool) (fUnits : F .units) (fStitch : F .stitch) (fMemp : F .memp) (fHamper : F .hamper)
    (fLists : ∀ p, F (.lists p)) (fLeaks : F .leaks) (fLink : F .link) (fPower : F .power) (fRecd : F .recd) :
    s.Ends F (execCount chan flit s) := by
  unfold execCount
  repeat' with_reducible first
    | assumption
    | exact State.Same.refl _
    | exact fLists _
    | (extract_lets +onlyGivenNames x; clear_value (e : x = _); subst e)
    | apply State.Ends.next
    | refine State.Ends.ofIte (fun _ => ?_) (fun _ => ?_)
    | apply State.onFlit_same
    | apply State.heardCount_same
    | (refine State.Same.ofIte (fun _ => ?_) (fun _ => ?_))
    | split
    | refine State.Same.upd ?_ rfl rfl rfl rfl rfl
    | intro _

theorem execReadySend_ends {F : Touch → Prop} {s : State} (part : Nat) (fFree : F .free) (fRegs : F .regs) (fPart : F
    (.part part)) (fLink : F .link) (fPower : F .power) :
    s.Ends F (execReadySend part s) := by
  unfold execReadySend
  repeat' with_reducible first
    | assumption
    | exact State.Same.refl _
    | (extract_lets +onlyGivenNames x; clear_value (e : x = _); subst e)
    | apply State.Ends.next
    | refine State.Ends.ofIte (fun _ => ?_) (fun _ => ?_)
    | apply State.bump_same
    | apply State.onStep_same
    | apply State.toMember_same
    | (refine State.Same.ofIte (fun _ => ?_) (fun _ => ?_))
    | split

theorem execReady_ends {F : Touch → Prop} {s : State} (msg : Msg) (fFree : F .free) (fRegs : F .regs)
    (fPool : F .pool) (fMemp : F .memp) (fHamper : F .hamper) (fLink : F .link) (fMgr : F .mgr) (fPower : F .power) :
    s.Ends F (execReady msg s) := by
  unfold execReady
  repeat' with_reducible first
    | assumption
    | exact State.Same.refl _
    | (extract_lets +onlyGivenNames x; clear_value (e : x = _); subst e)
    | apply State.Ends.next
    | apply State.mgrTake_same
    | apply State.onLaunch_same
    | apply State.tryLaunch_same
    | refine State.Same.upd ?_ rfl rfl rfl rfl rfl
    | intro _

theorem execPodReady_ends {F : Touch → Prop} {s : State} (msg : Msg) (fFree : F .free) (fRegs : F .regs)
    (fPool : F .pool) (fMemp : F .memp) (fHamper : F .hamper) (fLink : F .link) (fMgr : F .mgr) (fPower : F .power) :
    s.Ends F (execPodReady msg s) := by
  unfold execPodReady
  repeat' with_reducible first
    | assumption
    | exact State.Same.refl _
    | (extract_lets +onlyGivenNames x; clear_value (e : x = _); subst e)
    | apply State.Ends.next
    | apply State.mgrTake_same
    | apply State.onLaunch_same
    | apply State.tryLaunch_same
    | refine State.Same.upd ?_ rfl rfl rfl rfl rfl
    | intro _

theorem execLaunch_ends {F : Touch → Prop} {s : State} (msg : Msg) (fFree : F .free) (fRegs : F .regs)
    (fPool : F .pool) (fMemp : F .memp) (fHamper : F .hamper) (fPart : ∀ p, F (.part p)) (fLink : F .link)
    (fMgr : F .mgr) (fPower : F .power) :
    s.Ends F (execLaunch msg s) := by
  unfold execLaunch
  repeat' with_reducible first
    | assumption
    | exact State.Same.refl _
    | exact fPart _
    | (extract_lets +onlyGivenNames x; clear_value (e : x = _); subst e)
    | apply State.Ends.next
    | refine State.Ends.ofIte (fun _ => ?_) (fun _ => ?_)
    | apply State.mgrTake_same
    | apply State.deliver_same
    | apply State.onLaunch_same
    | apply State.bump_same
    | apply State.onStep_same
    | apply State.raise_same
    | (refine State.Same.ofIte (fun _ => ?_) (fun _ => ?_))
    | split
    | refine State.Same.upd ?_ rfl rfl rfl rfl rfl
    | intro _

theorem execPlan_ends {F : Touch → Prop} {s : State} (msg : Msg) (fRegs : F .regs) (fPool : F .pool) (fMemp : F .memp)
    (fHamper : F .hamper) (fLink : F .link) (fPower : F .power) :
    s.Ends F (execPlan msg s) := by
  unfold execPlan
  repeat' with_reducible first
    | assumption
    | exact State.Same.refl _
    | (extract_lets +onlyGivenNames x; clear_value (e : x = _); subst e)
    | apply State.Ends.next
    | refine State.Ends.ofIte (fun _ => ?_) (fun _ => ?_)
    | apply State.mgrTake_same
    | apply State.raise_same
    | (refine State.Same.ofIte (fun _ => ?_) (fun _ => ?_))
    | refine State.Same.upd ?_ rfl rfl rfl rfl rfl
    | intro _

theorem execWaitSend_ends {F : Touch → Prop} {s : State} (part layer micro handler : Nat) (fFree : F .free)
    (fRegs : F .regs) (fPart : F (.part part)) (fLink : F .link) (fPower : F .power) :
    s.Ends F (execWaitSend part layer micro handler s) := by
  unfold execWaitSend
  repeat' with_reducible first
    | assumption
    | exact State.Same.refl _
    | (extract_lets +onlyGivenNames x; clear_value (e : x = _); subst e)
    | apply State.Ends.next
    | refine State.Ends.ofIte (fun _ => ?_) (fun _ => ?_)
    | apply State.onPart_same
    | apply State.raise_same
    | apply State.bump_same
    | apply State.toMember_same
    | (refine State.Same.ofIte (fun _ => ?_) (fun _ => ?_))
    | split

theorem execWaitMsg_ends {F : Touch → Prop} {s : State} (msg : Msg) (fFree : F .free) (fRegs : F .regs)
    (fPool : F .pool) (fMemp : F .memp) (fHamper : F .hamper) (fLink : F .link) (fMgr : F .mgr) (fPower : F .power) :
    s.Ends F (execWaitMsg msg s) := by
  unfold execWaitMsg
  repeat' with_reducible first
    | assumption
    | exact State.Same.refl _
    | (extract_lets +onlyGivenNames x; clear_value (e : x = _); subst e)
    | apply State.Ends.next
    | refine State.Ends.ofIte (fun _ => ?_) (fun _ => ?_)
    | apply State.corrupt_same
    | apply State.mgrTake_same
    | apply State.addWait_same
    | apply State.declareStraggler_same
    | (refine State.Same.ofIte (fun _ => ?_) (fun _ => ?_))
    | (refine State.Same.foldl _ _ (fun u a hu => ?_) ?_)
    | intro _

theorem execStraggle_ends {F : Touch → Prop} {s : State} (msg : Msg) (fFree : F .free) (fRegs : F .regs)
    (fPool : F .pool) (fMemp : F .memp) (fHamper : F .hamper) (fPart : ∀ p, F (.part p)) (fLink : F .link)
    (fPower : F .power) :
    s.Ends F (execStraggle msg s) := by
  unfold execStraggle
  repeat' with_reducible first
    | assumption
    | exact State.Same.refl _
    | exact fPart _
    | (extract_lets +onlyGivenNames x; clear_value (e : x = _); subst e)
    | apply State.Ends.next
    | refine State.Ends.ofIte (fun _ => ?_) (fun _ => ?_)
    | apply State.mgrTake_same
    | apply State.deliver_same
    | apply State.bump_same
    | apply State.onStep_same
    | apply State.raise_same
    | (refine State.Same.ofIte (fun _ => ?_) (fun _ => ?_))
    | split
    | refine State.Same.upd ?_ rfl rfl rfl rfl rfl
    | intro _

theorem execDeadDeclare_ends {F : Touch → Prop} {s : State} (block : Nat) (fFree : F .free) (fRegs : F .regs)
    (fLink : F .link) (fMgr : F .mgr) (fPower : F .power) :
    s.Ends F (execDeadDeclare block s) := by
  unfold execDeadDeclare
  repeat' with_reducible first
    | assumption
    | exact State.Same.refl _
    | (extract_lets +onlyGivenNames x; clear_value (e : x = _); subst e)
    | apply State.Ends.next
    | refine State.Ends.ofIte (fun _ => ?_) (fun _ => ?_)
    | apply State.toMember_same
    | apply State.spreadMgr_same
    | (refine State.Same.ofIte (fun _ => ?_) (fun _ => ?_))
    | refine State.Same.upd ?_ rfl rfl rfl rfl rfl

theorem execDead_ends {F : Touch → Prop} {s : State} (msg : Msg) (fFree : F .free) (fRegs : F .regs) (fMem : F .mem)
    (fPool : F .pool) (fSeam : F .seam) (fMemp : F .memp) (fHamper : F .hamper) (fPart : ∀ p, F (.part p))
    (fGroup : ∀ p, F (.group p)) (fPress : F .press) (fCores : F .cores) (fLink : F .link) (fFold : F .fold)
    (fPower : F .power) :
    s.Ends F (execDead msg s) := by
  unfold execDead
  repeat' with_reducible first
    | assumption
    | exact State.Same.refl _
    | exact fPart _
    | exact fGroup _
    | (extract_lets +onlyGivenNames x; clear_value (e : x = _); subst e)
    | apply State.Ends.next
    | refine State.Ends.ofIte (fun _ => ?_) (fun _ => ?_)
    | apply State.corrupt_same
    | apply State.stale_same
    | apply State.markDead_same
    | apply State.deliver_same
    | apply State.take_same

theorem execWithdraw_ends {F : Touch → Prop} {s : State} (msg : Msg) (fFree : F .free) (fRegs : F .regs)
    (fPool : F .pool) (fMemp : F .memp) (fHamper : F .hamper) (fPart : ∀ p, F (.part p)) (fLink : F .link)
    (fPower : F .power) :
    s.Ends F (execWithdraw msg s) := by
  unfold execWithdraw
  repeat' with_reducible first
    | assumption
    | exact State.Same.refl _
    | exact fPart _
    | (extract_lets +onlyGivenNames x; clear_value (e : x = _); subst e)
    | apply State.Ends.next
    | refine State.Ends.ofIte (fun _ => ?_) (fun _ => ?_)
    | apply State.raise_same
    | apply State.bump_same
    | apply State.stale_same
    | apply State.mgrTake_same
    | apply State.passWithdraw_same
    | apply State.leaveStep_same
    | (refine State.Same.ofIte (fun _ => ?_) (fun _ => ?_))
    | split
    | refine State.Same.upd ?_ rfl rfl rfl rfl rfl
    | intro _

theorem execBiasCounts_ends {F : Touch → Prop} {s : State} (msg : Msg) (fFree : F .free) (fRegs : F .regs)
    (fPool : F .pool) (fMemp : F .memp) (fHamper : F .hamper) (fLink : F .link) (fMgr : F .mgr) (fPower : F .power) :
    s.Ends F (execBiasCounts msg s) := by
  unfold execBiasCounts
  repeat' with_reducible first
    | assumption
    | exact State.Same.refl _
    | (extract_lets +onlyGivenNames x; clear_value (e : x = _); subst e)
    | apply State.Ends.next
    | refine State.Ends.ofIte (fun _ => ?_) (fun _ => ?_)
    | apply State.mgrTake_same
    | apply State.bump_same
    | apply State.tryLaunch_same
    | apply State.nextBias_same
    | apply State.sendMgr_same
    | (refine State.Same.ofIte (fun _ => ?_) (fun _ => ?_))
    | refine State.Same.upd ?_ rfl rfl rfl rfl rfl
    | intro _

theorem execBiasTable_ends {F : Touch → Prop} {s : State} (msg : Msg) (fFree : F .free) (fRegs : F .regs)
    (fMem : F .mem) (fPool : F .pool) (fMemp : F .memp) (fHamper : F .hamper) (fPart : ∀ p, F (.part p))
    (fGroup : ∀ p, F (.group p)) (fLink : F .link) (fPower : F .power) :
    s.Ends F (execBiasTable msg s) := by
  unfold execBiasTable
  repeat' with_reducible first
    | assumption
    | exact State.Same.refl _
    | exact fPart _
    | exact fGroup _
    | (extract_lets +onlyGivenNames x; clear_value (e : x = _); subst e)
    | apply State.Ends.next
    | refine State.Ends.ofIte (fun _ => ?_) (fun _ => ?_)
    | apply State.mgrTake_same
    | apply State.deliver_same
    | apply State.bump_same
    | apply State.issueRead_same
    | apply State.openBias_same
    | apply State.retireBatch_same
    | apply State.wr_same
    | apply State.onStep_same
    | apply State.closeBias_same
    | (refine State.Same.ofIte (fun _ => ?_) (fun _ => ?_))
    | refine State.Same.upd ?_ rfl rfl rfl rfl rfl
    | intro _

theorem execLinkMap_ends {F : Touch → Prop} {s : State} (msg : Msg) (fFree : F .free) (fRegs : F .regs)
    (fPool : F .pool) (fMemp : F .memp) (fHamper : F .hamper) (fLink : F .link) (fPower : F .power) :
    s.Ends F (execLinkMap msg s) := by
  unfold execLinkMap
  repeat' with_reducible first
    | assumption
    | exact State.Same.refl _
    | (extract_lets +onlyGivenNames x; clear_value (e : x = _); subst e)
    | apply State.Ends.next
    | apply State.mgrTake_same
    | apply State.clearExcluded_same
    | apply State.reviveDead_same
    | apply State.chooseRelay_same
    | (refine State.Same.foldl _ _ (fun u a hu => ?_) ?_)
    | refine State.Same.upd ?_ rfl rfl rfl rfl rfl
    | intro _

theorem execRailMap_ends {F : Touch → Prop} {s : State} (msg : Msg) (fRegs : F .regs) (fPool : F .pool)
    (fMemp : F .memp) (fHamper : F .hamper) (fLink : F .link) (fPower : F .power) :
    s.Ends F (execRailMap msg s) := by
  unfold execRailMap
  repeat' with_reducible first
    | assumption
    | exact State.Same.refl _
    | (extract_lets +onlyGivenNames x; clear_value (e : x = _); subst e)
    | apply State.Ends.next
    | apply State.mgrTake_same
    | refine State.Same.upd ?_ rfl rfl rfl rfl rfl
    | intro _

theorem execPortReportSend_ends {F : Touch → Prop} {s : State} (fFree : F .free) (fRegs : F .regs) (fLink : F .link)
    (fPower : F .power) :
    s.Ends F (execPortReportSend s) := by
  unfold execPortReportSend
  repeat' with_reducible first
    | assumption
    | exact State.Same.refl _
    | (extract_lets +onlyGivenNames x; clear_value (e : x = _); subst e)
    | apply State.Ends.next
    | refine State.Ends.ofIte (fun _ => ?_) (fun _ => ?_)
    | apply State.toMember_same
    | (refine State.Same.ofIte (fun _ => ?_) (fun _ => ?_))
    | refine State.Same.upd ?_ rfl rfl rfl rfl rfl

theorem execPortReport_ends {F : Touch → Prop} {s : State} (msg : Msg) (fFree : F .free) (fRegs : F .regs)
    (fPool : F .pool) (fMemp : F .memp) (fHamper : F .hamper) (fLink : F .link) (fMgr : F .mgr) (fPower : F .power) :
    s.Ends F (execPortReport msg s) := by
  unfold execPortReport
  repeat' with_reducible first
    | assumption
    | exact State.Same.refl _
    | (extract_lets +onlyGivenNames x; clear_value (e : x = _); subst e)
    | apply State.Ends.next
    | refine State.Ends.ofIte (fun _ => ?_) (fun _ => ?_)
    | apply State.mgrTake_same
    | apply State.toPod_same
    | (refine State.Same.ofIte (fun _ => ?_) (fun _ => ?_))
    | refine State.Same.upd ?_ rfl rfl rfl rfl rfl
    | intro _

theorem execCalSend_ends {F : Touch → Prop} {s : State} (fFree : F .free) (fRegs : F .regs) (fLink : F .link)
    (fMgr : F .mgr) (fPower : F .power) :
    s.Ends F (execCalSend s) := by
  unfold execCalSend
  repeat' with_reducible first
    | assumption
    | exact State.Same.refl _
    | (extract_lets +onlyGivenNames x; clear_value (e : x = _); subst e)
    | apply State.Ends.next
    | refine State.Ends.ofIte (fun _ => ?_) (fun _ => ?_)
    | apply State.sendAll_same
    | (refine State.Same.ofIte (fun _ => ?_) (fun _ => ?_))
    | refine State.Same.upd ?_ rfl rfl rfl rfl rfl

theorem execCal_ends {F : Touch → Prop} {s : State} (msg : Msg) (fRegs : F .regs) (fPool : F .pool) (fMemp : F .memp)
    (fHamper : F .hamper) (fLink : F .link) (fPower : F .power) (fRecd : F .recd) :
    s.Ends F (execCal msg s) := by
  unfold execCal
  repeat' with_reducible first
    | assumption
    | exact State.Same.refl _
    | (extract_lets +onlyGivenNames x; clear_value (e : x = _); subst e)
    | apply State.Ends.next
    | apply State.mgrTake_same
    | refine State.Same.upd ?_ rfl rfl rfl rfl rfl
    | intro _

theorem execStepLaunch_ends {F : Touch → Prop} {s : State} (part : Nat) (fFree : F .free) (fRegs : F .regs)
    (fMem : F .mem) (fUnits : F .units) (fSeam : F .seam) (fMemp : F .memp) (fHamper : F .hamper) (fPart : ∀ p, F
    (.part p)) (fGroup : ∀ p, F (.group p)) (fPress : F .press) (fCores : F .cores) (fLink : F .link) (fMgr : F .mgr)
    (fFold : F .fold) (fPower : F .power) :
    s.Ends F (execStepLaunch part s) := by
  unfold execStepLaunch
  repeat' with_reducible first
    | assumption
    | exact State.Same.refl _
    | exact fPart _
    | exact fGroup _
    | (extract_lets +onlyGivenNames x; clear_value (e : x = _); subst e)
    | apply State.Ends.next
    | refine State.Ends.ofIte (fun _ => ?_) (fun _ => ?_)
    | apply State.onStep_same
    | apply State.fetchRecords_same
    | apply State.showSlices_same
    | apply State.dropRetired_same
    | apply State.showUnits_same
    | apply State.retireFoldsPending_same
    | apply State.replan_same
    | apply State.retirePending_same
    | apply State.bindTables_same
    | apply State.nextBias_same
    | apply State.launchNow_same
    | apply State.teardown_same
    | (refine State.Same.ofIte (fun _ => ?_) (fun _ => ?_))
    | split

theorem execPassStart_ends {F : Touch → Prop} {s : State} (part : Nat) (fFree : F .free) (fRegs : F .regs)
    (fMem : F .mem) (fSeam : F .seam) (fMemp : F .memp) (fHamper : F .hamper) (fCtx : F .ctx) (fPart : ∀ p, F
    (.part p)) (fGroup : ∀ p, F (.group p)) (fPress : F .press) (fCores : F .cores) (fLink : F .link)
    (fFold : F .fold) (fPower : F .power) :
    s.Ends F (execPassStart part s) := by
  unfold execPassStart
  repeat' with_reducible first
    | assumption
    | exact State.Same.refl _
    | exact fPart _
    | exact fGroup _
    | (extract_lets +onlyGivenNames x; clear_value (e : x = _); subst e)
    | apply State.Ends.next
    | refine State.Ends.ofIte (fun _ => ?_) (fun _ => ?_)
    | apply State.teardown_same
    | apply State.startPass_same
    | (refine State.Same.ofIte (fun _ => ?_) (fun _ => ?_))
    | split

theorem execPassComplete_ends {F : Touch → Prop} {s : State} (part layer : Nat) (fMem : F .mem) (fMemp : F .memp)
    (fHamper : F .hamper) (fPart : F (.part part)) (fPower : F .power) :
    s.Ends F (execPassComplete part layer s) := by
  unfold execPassComplete
  repeat' with_reducible first
    | assumption
    | exact State.Same.refl _
    | (extract_lets +onlyGivenNames x; clear_value (e : x = _); subst e)
    | apply State.Ends.next
    | refine State.Ends.ofIte (fun _ => ?_) (fun _ => ?_)
    | apply State.writeAdds_same
    | apply State.onPass_same
    | apply State.journalPass_same
    | apply State.closePass_same
    | apply State.dropChains_same
    | apply State.onPart_same
    | (refine State.Same.ofIte (fun _ => ?_) (fun _ => ?_))
    | split

theorem execStepComplete_ends {F : Touch → Prop} {s : State} (part : Nat) (fFree : F .free) (fRegs : F .regs)
    (fMem : F .mem) (fSeam : F .seam) (fMemp : F .memp) (fCtx : F .ctx) (fPart : ∀ p, F (.part p)) (fGroup : ∀ p, F
    (.group p)) (fPress : F .press) (fCores : F .cores) (fLink : F .link) (fMgr : F .mgr) (fPower : F .power)
    (fRecd : F .recd) :
    s.Ends F (execStepComplete part s) := by
  unfold execStepComplete
  repeat' with_reducible first
    | assumption
    | exact State.Same.refl _
    | exact fPart _
    | exact fGroup _
    | (extract_lets +onlyGivenNames x; clear_value (e : x = _); subst e)
    | apply State.Ends.next
    | refine State.Ends.ofIte (fun _ => ?_) (fun _ => ?_)
    | apply State.ledgerClose_same
    | apply State.onStep_same
    | apply State.pushEnd_same
    | apply State.commitSegs_same
    | apply State.recordStep_same
    | apply State.onPart_same
    | apply State.onGroup_same
    | apply State.goodStep_same
    | (refine State.Same.ofIte (fun _ => ?_) (fun _ => ?_))
    | split

theorem execTeardownFinish_ends {F : Touch → Prop} {s : State} (part : Nat) (fFree : F .free) (fRegs : F .regs)
    (fMem : F .mem) (fSeam : F .seam) (fMemp : F .memp) (fHamper : F .hamper) (fPart : ∀ p, F (.part p))
    (fGroup : ∀ p, F (.group p)) (fPress : F .press) (fCores : F .cores) (fLink : F .link) (fMgr : F .mgr)
    (fPower : F .power) (fRecd : F .recd) (fTabs : F .tabs) :
    s.Ends F (execTeardownFinish part s) := by
  unfold execTeardownFinish
  repeat' with_reducible first
    | assumption
    | exact State.Same.refl _
    | exact fPart _
    | exact fGroup _
    | (extract_lets +onlyGivenNames x; clear_value (e : x = _); subst e)
    | apply State.Ends.next
    | refine State.Ends.ofIte (fun _ => ?_) (fun _ => ?_)
    | apply State.dropUnsent_same
    | apply State.endTeardown_same
    | apply State.recordStep_same
    | apply State.closeTorn_same
    | apply State.ledgerClose_same
    | apply State.onStep_same
    | apply State.pushEnd_same
    | (refine State.Same.ofIte (fun _ => ?_) (fun _ => ?_))
    | split

theorem execReplayNorm_ends {F : Touch → Prop} {s : State} (group : Nat) (fRegs : F .regs) (fMem : F .mem)
    (fSeam : F .seam) (fMemp : F .memp) (fPart : ∀ p, F (.part p)) (fGroup : F (.group group)) (fPress : F .press)
    (fCores : F .cores) (fPower : F .power) :
    s.Ends F (execReplayNorm group s) := by
  unfold execReplayNorm
  repeat' with_reducible first
    | assumption
    | exact State.Same.refl _
    | exact fPart _
    | apply State.Ends.next
    | apply State.runReplay_same
    | apply State.replayNormNow_same
    | intro _

theorem execReplayScores_ends {F : Touch → Prop} {s : State} (group : Nat) (fRegs : F .regs) (fMem : F .mem)
    (fSeam : F .seam) (fMemp : F .memp) (fPart : ∀ p, F (.part p)) (fGroup : F (.group group)) (fPress : F .press)
    (fCores : F .cores) (fPower : F .power) :
    s.Ends F (execReplayScores group s) := by
  unfold execReplayScores
  repeat' with_reducible first
    | assumption
    | exact State.Same.refl _
    | exact fPart _
    | apply State.Ends.next
    | apply State.runReplay_same
    | apply State.replayScoresNow_same
    | intro _

theorem execReplayTickets_ends {F : Touch → Prop} {s : State} (group : Nat) (fRegs : F .regs) (fMem : F .mem)
    (fSeam : F .seam) (fMemp : F .memp) (fPart : ∀ p, F (.part p)) (fGroup : F (.group group)) (fPress : F .press)
    (fCores : F .cores) (fPower : F .power) :
    s.Ends F (execReplayTickets group s) := by
  unfold execReplayTickets
  repeat' with_reducible first
    | assumption
    | exact State.Same.refl _
    | exact fPart _
    | apply State.Ends.next
    | apply State.runReplay_same
    | apply State.replayTicketsNow_same
    | intro _

theorem execReplayPayload_ends {F : Touch → Prop} {s : State} (group : Nat) (fRegs : F .regs) (fMem : F .mem)
    (fSeam : F .seam) (fMemp : F .memp) (fPart : ∀ p, F (.part p)) (fGroup : F (.group group)) (fPress : F .press)
    (fCores : F .cores) (fPower : F .power) :
    s.Ends F (execReplayPayload group s) := by
  unfold execReplayPayload
  repeat' with_reducible first
    | assumption
    | exact State.Same.refl _
    | exact fPart _
    | apply State.Ends.next
    | apply State.runReplay_same
    | apply State.replayPayloadNow_same
    | intro _

theorem execReplayCombine_ends {F : Touch → Prop} {s : State} (group : Nat) (fFree : F .free) (fRegs : F .regs)
    (fMem : F .mem) (fSeam : F .seam) (fMemp : F .memp) (fPart : ∀ p, F (.part p)) (fGroup : F (.group group))
    (fPress : F .press) (fCores : F .cores) (fPower : F .power) :
    s.Ends F (execReplayCombine group s) := by
  unfold execReplayCombine
  repeat' with_reducible first
    | assumption
    | exact State.Same.refl _
    | exact fPart _
    | apply State.Ends.next
    | apply State.runReplay_same
    | apply State.replayCombineNow_same
    | intro _

theorem execReplayReduce_ends {F : Touch → Prop} {s : State} (group : Nat) (fRegs : F .regs) (fMem : F .mem)
    (fSeam : F .seam) (fMemp : F .memp) (fPart : ∀ p, F (.part p)) (fGroup : F (.group group)) (fPress : F .press)
    (fCores : F .cores) (fPower : F .power) :
    s.Ends F (execReplayReduce group s) := by
  unfold execReplayReduce
  repeat' with_reducible first
    | assumption
    | exact State.Same.refl _
    | exact fPart _
    | apply State.Ends.next
    | apply State.runReplay_same
    | apply State.replayReduceNow_same
    | intro _

theorem execMemReadBeat_ends {F : Touch → Prop} {s : State} (port : Nat) (beat : MemBeat) (fFree : F .free)
    (fRegs : F .regs) (fMem : F .mem) (fPool : F .pool) (fSeam : F .seam) (fMemp : F .memp) (fHamper : F .hamper)
    (fPart : ∀ p, F (.part p)) (fGroup : ∀ p, F (.group p)) (fPress : F .press) (fCores : F .cores) (fLink : F .link)
    (fFold : F .fold) (fPower : F .power) (fTabs : F .tabs) :
    s.Ends F (execMemReadBeat port beat s) := by
  unfold execMemReadBeat
  repeat' with_reducible first
    | assumption
    | exact State.Same.refl _
    | exact fPart _
    | exact fGroup _
    | (extract_lets +onlyGivenNames x; clear_value (e : x = _); subst e)
    | apply State.Ends.next
    | refine State.Ends.ofIte (fun _ => ?_) (fun _ => ?_)
    | apply State.bump_same
    | apply State.readDone_same
    | apply State.tookGranules_same
    | apply State.lateBeat_same
    | (refine State.Same.ofIte (fun _ => ?_) (fun _ => ?_))
    | split
    | refine State.Same.upd ?_ rfl rfl rfl rfl rfl

theorem execMemRequestAccepted_ends {F : Touch → Prop} {s : State} (port : Nat) (fRegs : F .regs) :
    s.Ends F (execMemRequestAccepted port s) := by
  unfold execMemRequestAccepted
  repeat' with_reducible first
    | assumption
    | exact State.Same.refl _
    | apply State.Ends.next
    | refine State.Ends.ofIte (fun _ => ?_) (fun _ => ?_)
    | apply State.bump_same

theorem execMemWriteResponse_ends {F : Touch → Prop} {s : State} (port : Nat) (fRegs : F .regs) (fMem : F .mem)
    (fSeam : F .seam) (fMemp : F .memp) (fPart : ∀ p, F (.part p)) (fGroup : ∀ p, F (.group p)) (fPress : F .press)
    (fCores : F .cores) (fPower : F .power) :
    s.Ends F (execMemWriteResponse port s) := by
  unfold execMemWriteResponse
  repeat' with_reducible first
    | assumption
    | exact State.Same.refl _
    | exact fPart _
    | exact fGroup _
    | apply State.Ends.next
    | apply State.writeDone_same
    | split
    | refine State.Same.upd ?_ rfl rfl rfl rfl rfl

theorem execMemUe_ends {F : Touch → Prop} {s : State} (port : Nat) (beat : UeBeat) (fFree : F .free) (fRegs : F .regs)
    (fMem : F .mem) (fUnits : F .units) (fSeam : F .seam) (fMemp : F .memp) (fHamper : F .hamper) (fPart : ∀ p, F
    (.part p)) (fGroup : ∀ p, F (.group p)) (fPress : F .press) (fLeaks : F .leaks) (fCores : F .cores)
    (fLink : F .link) (fFold : F .fold) (fPower : F .power) :
    s.Ends F (execMemUe port beat s) := by
  unfold execMemUe
  repeat' with_reducible first
    | assumption
    | exact State.Same.refl _
    | exact fPart _
    | exact fGroup _
    | (extract_lets +onlyGivenNames x; clear_value (e : x = _); subst e)
    | apply State.Ends.next
    | refine State.Ends.ofIte (fun _ => ?_) (fun _ => ?_)
    | apply State.retryLater_same
    | apply State.memEvent_same
    | apply State.tookGranules_same
    | apply State.lateBeat_same
    | (refine State.Same.ofIte (fun _ => ?_) (fun _ => ?_))
    | split

theorem execMemWriteError_ends {F : Touch → Prop} {s : State} (port : Nat) (fFree : F .free) (fRegs : F .regs)
    (fMem : F .mem) (fUnits : F .units) (fSeam : F .seam) (fMemp : F .memp) (fHamper : F .hamper) (fPart : ∀ p, F
    (.part p)) (fGroup : ∀ p, F (.group p)) (fPress : F .press) (fLeaks : F .leaks) (fCores : F .cores)
    (fLink : F .link) (fFold : F .fold) (fPower : F .power) :
    s.Ends F (execMemWriteError port s) := by
  unfold execMemWriteError
  repeat' with_reducible first
    | assumption
    | exact State.Same.refl _
    | exact fPart _
    | exact fGroup _
    | (extract_lets +onlyGivenNames x; clear_value (e : x = _); subst e)
    | apply State.Ends.next
    | refine State.Ends.ofIte (fun _ => ?_) (fun _ => ?_)
    | apply State.completeCmd_same
    | apply State.memEvent_same
    | apply State.retryLater_same
    | (refine State.Same.ofIte (fun _ => ?_) (fun _ => ?_))
    | split
    | refine State.Same.upd ?_ rfl rfl rfl rfl rfl

theorem execMemRetry_ends {F : Touch → Prop} {s : State} (again : RetryEnd) (fFree : F .free) (fRegs : F .regs)
    (fMem : F .mem) (fPool : F .pool) (fUnits : F .units) (fSeam : F .seam) (fMemp : F .memp) (fHamper : F .hamper)
    (fPart : ∀ p, F (.part p)) (fGroup : ∀ p, F (.group p)) (fPress : F .press) (fLeaks : F .leaks)
    (fCores : F .cores) (fLink : F .link) (fFold : F .fold) (fPower : F .power) (fTabs : F .tabs) :
    s.Ends F (execMemRetry again s) := by
  unfold execMemRetry
  repeat' with_reducible first
    | assumption
    | exact State.Same.refl _
    | exact fPart _
    | exact fGroup _
    | (extract_lets +onlyGivenNames x; clear_value (e : x = _); subst e)
    | apply State.Ends.next
    | refine State.Ends.ofIte (fun _ => ?_) (fun _ => ?_)
    | apply State.charge_same
    | apply State.lateBeat_same
    | apply State.writeDone_same
    | apply State.readDone_same
    | apply State.memEvent_same
    | apply State.raise_same
    | apply State.writeLost_same
    | apply State.poison_same
    | apply State.readLost_same
    | (refine State.Same.ofIte (fun _ => ?_) (fun _ => ?_))
    | (refine State.Same.foldl _ _ (fun u a hu => ?_) ?_)
    | split
    | refine State.Same.upd ?_ rfl rfl rfl rfl rfl

theorem execMemBucketLeak_ends {F : Touch → Prop} {s : State} (port : Nat) (fMemp : F .memp) (fLeaks : F .leaks) :
    s.Ends F (execMemBucketLeak port s) := by
  unfold execMemBucketLeak
  repeat' with_reducible first
    | assumption
    | exact State.Same.refl _
    | apply State.Ends.next
    | refine State.Ends.ofIte (fun _ => ?_) (fun _ => ?_)
    | apply State.leakMark_same
    | (refine State.Same.ofIte (fun _ => ?_) (fun _ => ?_))
    | refine State.Same.upd ?_ rfl rfl rfl rfl rfl

theorem execStitchBoundary_ends {F : Touch → Prop} {s : State} (runs others : List Nat) (fFree : F .free)
    (fRegs : F .regs) (fMem : F .mem) (fPool : F .pool) (fUnits : F .units) (fStitch : F .stitch) (fSeam : F .seam)
    (fMemp : F .memp) (fHamper : F .hamper) (fPart : ∀ p, F (.part p)) (fLists : ∀ p, F (.lists p)) (fGroup : ∀ p, F
    (.group p)) (fPress : F .press) (fCores : F .cores) (fLink : F .link) (fMgr : F .mgr) (fPower : F .power)
    (fTabs : F .tabs) :
    s.Ends F (execStitchBoundary runs others s) := by
  unfold execStitchBoundary
  repeat' with_reducible first
    | assumption
    | exact State.Same.refl _
    | exact fPart _
    | exact fLists _
    | exact fGroup _
    | (extract_lets +onlyGivenNames x; clear_value (e : x = _); subst e)
    | apply State.Ends.next
    | refine State.Ends.ofIte (fun _ => ?_) (fun _ => ?_)
    | apply State.account_same
    | apply State.judgePhase_same
    | apply State.startWakes_same
    | apply State.serveWaiting_same
    | apply State.issueSlots_same
    | apply State.markAcked_same
    | apply State.openAborted_same
    | apply State.batchAborts_same
    | apply State.registerAll_same
    | apply State.govern_same
    | apply State.handOver_same
    | apply State.serveLost_same
    | apply State.showIdle_same
    | apply State.countReach_same
    | apply State.markStitch_same
    | apply State.idleMarks_same
    | apply State.pumpAll_same
    | (refine State.Same.ofIte (fun _ => ?_) (fun _ => ?_))
    | refine State.Same.upd ?_ rfl rfl rfl rfl rfl

theorem execW1cClear_ends {F : Touch → Prop} {s : State} (addr : Nat) (value setNow : Word) (fMgt : F .mgt)
    (fRegs : F .regs) (fGroup : ∀ p, F (.group p)) :
    s.Ends F (execW1cClear addr value setNow s) := by
  unfold execW1cClear
  repeat' with_reducible first
    | assumption
    | exact State.Same.refl _
    | exact fGroup _
    | (extract_lets +onlyGivenNames x; clear_value (e : x = _); subst e)
    | apply State.Ends.next
    | refine State.Ends.ofIte (fun _ => ?_) (fun _ => ?_)
    | apply State.mgtFail_same
    | apply State.mgtAck_same
    | apply State.onGroup_same
    | apply State.setReg_same
    | (refine State.Same.ofIte (fun _ => ?_) (fun _ => ?_))
    | split

theorem execRcCounterRead_ends {F : Touch → Prop} {s : State} (addr add : Nat) (fMgt : F .mgt) (fRegs : F .regs) :
    s.Ends F (execRcCounterRead addr add s) := by
  unfold execRcCounterRead
  repeat' with_reducible first
    | assumption
    | exact State.Same.refl _
    | apply State.Ends.next
    | refine State.Ends.ofIte (fun _ => ?_) (fun _ => ?_)
    | apply State.mgtFail_same
    | apply State.setReg_same
    | apply State.mgtRead_same

theorem execSplitLoRead_ends {F : Touch → Prop} {s : State} (addr : Nat) (fMgt : F .mgt) (fRegs : F .regs) :
    s.Ends F (execSplitLoRead addr s) := by
  unfold execSplitLoRead
  repeat' with_reducible first
    | assumption
    | exact State.Same.refl _
    | apply State.Ends.next
    | refine State.Ends.ofIte (fun _ => ?_) (fun _ => ?_)
    | apply State.mgtFail_same
    | apply State.setReg_same
    | apply State.mgtRead_same
    | (refine State.Same.ofIte (fun _ => ?_) (fun _ => ?_))
    | split

theorem execEvtMapWrite_ends {F : Touch → Prop} {s : State} (line : Nat) (value : Word) (fMgt : F .mgt)
    (fRegs : F .regs) :
    s.Ends F (execEvtMapWrite line value s) := by
  unfold execEvtMapWrite
  repeat' with_reducible first
    | assumption
    | exact State.Same.refl _
    | apply State.Ends.next
    | refine State.Ends.ofIte (fun _ => ?_) (fun _ => ?_)
    | apply State.setReg_same
    | apply State.mgtAck_same

theorem execRegisterWriteOther_ends {F : Touch → Prop} {s : State} (addr : Nat) (value : Word) (fMgt : F .mgt)
    (fRegs : F .regs) (fBoot : F .boot) (fRecd : F .recd) :
    s.Ends F (execRegisterWriteOther addr value s) := by
  unfold execRegisterWriteOther
  repeat' with_reducible first
    | assumption
    | exact State.Same.refl _
    | (extract_lets +onlyGivenNames x; clear_value (e : x = _); subst e)
    | apply State.Ends.next
    | refine State.Ends.ofIte (fun _ => ?_) (fun _ => ?_)
    | apply State.mgtFail_same
    | apply State.mgtAck_same
    | apply State.setReg_same
    | (refine State.Same.ofIte (fun _ => ?_) (fun _ => ?_))
    | refine State.Same.upd ?_ rfl rfl rfl rfl rfl

end Sys2Proof.Machine
end

section
/-! SUPPORT. What each command touches, said once: every frame, and every promise that a command keeps by leaving a field alone,
is read off this table. -/

-- One declaration after another: the check bounds the memory, and with it the threads.
set_option Elab.async false

namespace Sys2Proof.Machine

/-- `F` names all that a command may touch in the state `s`. -/
def State.allows (F : Touch → Prop) (s : State) (c : Instr) : Prop :=
  match c with
  | .rstNAssert => ∀ f, F f
  | .rstNDeassert _ _ _ _ => F .regs ∧ F .boot ∧ F .press ∧ F .off ∧ F .link ∧ F .power ∧ F .self
  | .copyReadDone _ _ _ => F .regs ∧ F .boot ∧ F .units ∧ F .stitch ∧ F .press ∧ F .off ∧ F .link ∧ F .power ∧ F .recd
  | .clockCheck _ _ => F .regs ∧ F .boot ∧ F .units ∧ F .stitch ∧ F .press ∧ F .off ∧ F .link ∧ F .power ∧ F .recd
  | .repair _ _ _ _ => F .regs ∧ F .boot ∧ F .units ∧ F .stitch ∧ F .press ∧ F .off ∧ F .link ∧ F .power ∧ F .recd
  | .domainSwitchOn _ => F .regs ∧ F .boot ∧ F .units ∧ F .stitch ∧ F .press ∧ F .off ∧ F .on ∧ F .link ∧ F .power ∧
      F .recd
  | .load _ _ => F .regs ∧ F .boot ∧ F .img ∧ F .units ∧ F .stitch ∧ F .seam ∧ F .press ∧ F .off ∧ F .link ∧ F .power
      ∧ F .recd
  | .linkTrainEnd _ => F .regs ∧ F .boot ∧ F .units ∧ F .stitch ∧ F .press ∧ F .off ∧ F .link ∧ F .power ∧ F .recd
  | .headListenEnd => F .regs ∧ F .boot ∧ F .units ∧ F .stitch ∧ F .press ∧ F .off ∧ F .link ∧ F .power ∧ F .recd
  | .lockAcquired => F .regs ∧ F .boot ∧ F .units ∧ F .stitch ∧ F .press ∧ F .off ∧ F .link ∧ F .power ∧ F .recd
  | .stitchLockTimeout _ => F .regs ∧ F .boot ∧ F .press ∧ F .off ∧ F .link ∧ F .power
  | .partitionUp _ => F .free ∧ F .regs ∧ F .mem ∧ F .boot ∧ F .units ∧ F .stitch ∧ F .seam ∧ F .memp ∧ F .hamper ∧ (∀
      p, F (.part p)) ∧ (∀ p, F (.group p)) ∧ F .press ∧ F .cores ∧ F .off ∧ F .link ∧ F .fold ∧ F .power ∧ F .recd
  | .keyProgram _ => F .mgt ∧ F .boot
  | .keyProgramDone => F .boot
  | .pwrAlert => F .regs ∧ F .power ∧ F .self ∧ F .pins
  | .pwrAlertRelease _ => F .regs ∧ F .boot ∧ F .units ∧ F .stitch ∧ F .press ∧ F .off ∧ F .link ∧ F .power ∧ F .recd
    ∧ F .pins
  | .thermTrip _ => F .regs ∧ F .boot ∧ F .press ∧ F .off ∧ F .link ∧ F .power ∧ F .self ∧ F .pins
  | .thermTripRelease => F .power ∧ F .pins
  | .stitchRefEdge _ => F .regs ∧ F .stitch
  | .stitchRefMiss => F .regs ∧ F .stitch
  | .stitchBoundary _ _ => F .free ∧ F .regs ∧ F .mem ∧ F .pool ∧ F .units ∧ F .stitch ∧ F .seam ∧ F .memp ∧ F .hamper
      ∧ (∀ p, F (.part p)) ∧ (∀ p, F (.lists p)) ∧ (∀ p, F (.group p)) ∧ F .press ∧ F .cores ∧ F .link ∧ F .mgr ∧
      F .power ∧ F .tabs
  | .lockLoss => F .regs ∧ F .stitch
  | .stitchSlip _ => F .regs ∧ F .stitch
  | .stitchRelaySwitch _ => F .stitch
  | .stitchDirectRestore => F .stitch
  | .countFlitSend _ => F .free ∧ F .stitch ∧ F .link ∧ F .power
  | .timeSend _ _ => F .free ∧ F .stitch ∧ F .link ∧ F .power
  | .ringDoorbell _ => F .regs ∧ F .mem ∧ F .seam ∧ (∀ p, F (.group p))
  | .layerDoorbell _ => F .regs ∧ F .mem ∧ F .seam ∧ (∀ p, F (.group p))
  | .engineCompletion _ => F .mem ∧ F .seam
  | .weightWriteRelease _ => F .regs ∧ F .mem ∧ F .seam ∧ (∀ p, F (.part p))
  | .holdClear part _ => F (.part part)
  | .abortRequest _ => F .regs ∧ F .mem ∧ F .seam ∧ (∀ p, F (.group p))
  | .abortRegister group => F .free ∧ F .regs ∧ F .mem ∧ F .seam ∧ F .memp ∧ (∀ p, F (.part p)) ∧ F (.group group) ∧
      F .press ∧ F .cores ∧ F .link ∧ F .power
  | .seamInvalidRequest _ => F .seam
  | .completionNotify _ => F .seam
  | .workReadyNotify _ => F .regs ∧ F .seam ∧ F .tabs
  | .divertNotify _ => F .seam
  | .abortNotify _ => F .seam
  | .memReadBeat _ _ => F .free ∧ F .regs ∧ F .mem ∧ F .pool ∧ F .seam ∧ F .memp ∧ F .hamper ∧ (∀ p, F (.part p)) ∧ (∀
      p, F (.group p)) ∧ F .press ∧ F .cores ∧ F .link ∧ F .fold ∧ F .power ∧ F .tabs
  | .memUe _ _ => F .free ∧ F .regs ∧ F .mem ∧ F .units ∧ F .seam ∧ F .memp ∧ F .hamper ∧ (∀ p, F (.part p)) ∧ (∀ p, F
      (.group p)) ∧ F .press ∧ F .leaks ∧ F .cores ∧ F .link ∧ F .fold ∧ F .power
  | .memWriteResponse _ => F .regs ∧ F .mem ∧ F .seam ∧ F .memp ∧ (∀ p, F (.part p)) ∧ (∀ p, F (.group p)) ∧ F .press
      ∧ F .cores ∧ F .power
  | .memWriteError _ => F .free ∧ F .regs ∧ F .mem ∧ F .units ∧ F .seam ∧ F .memp ∧ F .hamper ∧ (∀ p, F (.part p)) ∧
      (∀ p, F (.group p)) ∧ F .press ∧ F .leaks ∧ F .cores ∧ F .link ∧ F .fold ∧ F .power
  | .memRetry _ => F .free ∧ F .regs ∧ F .mem ∧ F .pool ∧ F .units ∧ F .seam ∧ F .memp ∧ F .hamper ∧ (∀ p, F (.part
      p)) ∧ (∀ p, F (.group p)) ∧ F .press ∧ F .leaks ∧ F .cores ∧ F .link ∧ F .fold ∧ F .power ∧ F .tabs
  | .partRestart _ _ => F .free ∧ F .mgt ∧ F .regs ∧ F .mem ∧ F .seam ∧ F .memp ∧ F .hamper ∧ (∀ p, F (.part p)) ∧ (∀
      p, F (.group p)) ∧ F .press ∧ F .cores ∧ F .link ∧ F .fold ∧ F .power
  | .linkRetireForced _ _ => F .free ∧ F .mgt ∧ F .regs ∧ F .pool ∧ F .units ∧ F .memp ∧ F .hamper ∧ F .link ∧
      F .power ∧ F .recd
  | .jrnConsumedWrite part _ => F .mgt ∧ F .regs ∧ F (.part part)
  | .shutdownRequest _ => F .mgt ∧ F .regs ∧ F .mem ∧ F .seam ∧ F .memp ∧ (∀ p, F (.part p)) ∧ (∀ p, F (.group p)) ∧
      F .press ∧ F .cores ∧ F .power ∧ F .self
  | .calSet _ => F .mgt ∧ F .recd
  | .evtMapWrite _ _ => F .mgt ∧ F .regs
  | .pwrTelemWrite _ => F .mgt ∧ F .regs ∧ F .power
  | .w1cClear _ _ _ => F .mgt ∧ F .regs ∧ (∀ p, F (.group p))
  | .rcCounterRead _ _ => F .mgt ∧ F .regs
  | .splitLoRead _ => F .mgt ∧ F .regs
  | .registerWriteOther _ _ => F .mgt ∧ F .regs ∧ F .boot ∧ F .recd
  | .wsBypass => F .regs ∧ F .press ∧ F .off ∧ F .power ∧ F .self
  | .wsExtest => F .regs ∧ F .self
  | .wsIntest => F .regs ∧ F .self
  | .selftestRun => F .regs ∧ F .power ∧ F .self
  | .scanAccess => F .regs ∧ F .self
  | .mbistAccess => F .regs ∧ F .self
  | .nop group => F .regs ∧ F .mem ∧ F .seam ∧ F .memp ∧ (∀ p, F (.part p)) ∧ F (.group group) ∧ F .press ∧ F .cores ∧
      F .power
  | .step _ => F .free ∧ F .regs ∧ F .mem ∧ F .seam ∧ F .memp ∧ F .hamper ∧ (∀ p, F (.part p)) ∧ (∀ p, F (.group p)) ∧
      F .press ∧ F .cores ∧ F .link ∧ F .fold ∧ F .power
  | .streamOpen group => F .regs ∧ F .mem ∧ F .seam ∧ F .memp ∧ F .ctx ∧ (∀ p, F (.part p)) ∧ F (.group group) ∧
      F .press ∧ F .cores ∧ F .power
  | .streamPause group => F .regs ∧ F .mem ∧ F .seam ∧ F .memp ∧ F .ctx ∧ (∀ p, F (.part p)) ∧ F (.group group) ∧
      F .press ∧ F .cores ∧ F .power
  | .streamResume group => F .regs ∧ F .mem ∧ F .seam ∧ F .memp ∧ F .ctx ∧ (∀ p, F (.part p)) ∧ F (.group group) ∧
      F .press ∧ F .cores ∧ F .power
  | .streamClose group => F .regs ∧ F .mem ∧ F .seam ∧ F .memp ∧ F .ctx ∧ (∀ p, F (.part p)) ∧ F (.group group) ∧
      F .press ∧ F .cores ∧ F .power
  | .tableLoadLayer _ => F .regs ∧ F .mem ∧ F .seam ∧ F .memp ∧ (∀ p, F (.part p)) ∧ (∀ p, F (.group p)) ∧ F .press ∧
      F .cores ∧ F .power
  | .tableLoadPlacement _ => F .regs ∧ F .mem ∧ F .seam ∧ F .memp ∧ (∀ p, F (.part p)) ∧ (∀ p, F (.group p)) ∧
      F .press ∧ F .cores ∧ F .power
  | .tableLoadProfile _ => F .regs ∧ F .mem ∧ F .seam ∧ F .memp ∧ (∀ p, F (.part p)) ∧ (∀ p, F (.group p)) ∧ F .press
      ∧ F .cores ∧ F .power
  | .tableLoadBias _ => F .regs ∧ F .mem ∧ F .seam ∧ F .memp ∧ (∀ p, F (.part p)) ∧ (∀ p, F (.group p)) ∧ F .press ∧
      F .cores ∧ F .power
  | .tableLoadHold group => F .regs ∧ F .mem ∧ F .seam ∧ F .memp ∧ (∀ p, F (.part p)) ∧ F (.group group) ∧ F .press ∧
      F .cores ∧ F .power
  | .park group => F .regs ∧ F .mem ∧ F .seam ∧ F .memp ∧ (∀ p, F (.part p)) ∧ F (.group group) ∧ F .press ∧ F .cores
      ∧ F .power
  | .parkComplete _ => F .regs ∧ F .mem ∧ F .seam ∧ F .memp ∧ (∀ p, F (.part p)) ∧ (∀ p, F (.group p)) ∧ F .press ∧
      F .cores ∧ F .power
  | .wakeCheckDone part _ => F (.part part)
  | .replayNorm group => F .regs ∧ F .mem ∧ F .seam ∧ F .memp ∧ (∀ p, F (.part p)) ∧ F (.group group) ∧ F .press ∧
      F .cores ∧ F .power
  | .replayScores group => F .regs ∧ F .mem ∧ F .seam ∧ F .memp ∧ (∀ p, F (.part p)) ∧ F (.group group) ∧ F .press ∧
      F .cores ∧ F .power
  | .replayTickets group => F .regs ∧ F .mem ∧ F .seam ∧ F .memp ∧ (∀ p, F (.part p)) ∧ F (.group group) ∧ F .press ∧
      F .cores ∧ F .power
  | .replayPayload group => F .regs ∧ F .mem ∧ F .seam ∧ F .memp ∧ (∀ p, F (.part p)) ∧ F (.group group) ∧ F .press ∧
      F .cores ∧ F .power
  | .replayCombine group => F .free ∧ F .regs ∧ F .mem ∧ F .seam ∧ F .memp ∧ (∀ p, F (.part p)) ∧ F (.group group) ∧
      F .press ∧ F .cores ∧ F .power
  | .replayReduce group => F .regs ∧ F .mem ∧ F .seam ∧ F .memp ∧ (∀ p, F (.part p)) ∧ F (.group group) ∧ F .press ∧
      F .cores ∧ F .power
  | .readySend part => F .free ∧ F .regs ∧ F (.part part) ∧ F .link ∧ F .power
  | .ready _ => F .free ∧ F .regs ∧ F .pool ∧ F .memp ∧ F .hamper ∧ F .link ∧ F .mgr ∧ F .power
  | .podReady _ => F .free ∧ F .regs ∧ F .pool ∧ F .memp ∧ F .hamper ∧ F .link ∧ F .mgr ∧ F .power
  | .launch _ => F .free ∧ F .regs ∧ F .pool ∧ F .memp ∧ F .hamper ∧ (∀ p, F (.part p)) ∧ F .link ∧ F .mgr ∧ F .power
  | .stepLaunch _ => F .free ∧ F .regs ∧ F .mem ∧ F .units ∧ F .seam ∧ F .memp ∧ F .hamper ∧ (∀ p, F (.part p)) ∧ (∀
      p, F (.group p)) ∧ F .press ∧ F .cores ∧ F .link ∧ F .mgr ∧ F .fold ∧ F .power
  | .passStart _ => F .free ∧ F .regs ∧ F .mem ∧ F .seam ∧ F .memp ∧ F .hamper ∧ F .ctx ∧ (∀ p, F (.part p)) ∧ (∀ p, F
      (.group p)) ∧ F .press ∧ F .cores ∧ F .link ∧ F .fold ∧ F .power
  | .normalise part _ => F .regs ∧ F .memp ∧ F (.part part) ∧ (∀ g, s.gPart g = part → F (.group g)) ∧ F .cores ∧
      F .power
  | .pressRunIssue part _ _ _ _ _ => F (.part part) ∧ (∀ p, F (.group p)) ∧ F .press ∧ F .power
  | .pressRunEnd _ _ => F .free ∧ F .regs ∧ F .mem ∧ F .units ∧ F .seam ∧ F .memp ∧ F .hamper ∧ (∀ p, F (.part p)) ∧
      (∀ p, F (.group p)) ∧ F .press ∧ F .leaks ∧ F .cores ∧ F .link ∧ F .fold ∧ F .power ∧ F .recd
  | .tileReduce part _ _ => F (.part part) ∧ (∀ g, s.gPart g = part → F (.group g)) ∧ F .power
  | .softmaxMerge part _ => F (.part part) ∧ (∀ g, s.gPart g = part → F (.group g)) ∧ F .cores ∧ F .power
  | .tokenSelect part _ => F .regs ∧ F (.part part) ∧ F .cores ∧ F .power
  | .admission part => F .regs ∧ F .pool ∧ F .memp ∧ F .hamper ∧ F (.part part) ∧ F .cores ∧ F .power
  | .sortEnd part _ => F .free ∧ F .regs ∧ F .pool ∧ F .memp ∧ F .hamper ∧ F (.part part) ∧ F .link ∧ F .power
  | .microStepStart part _ => F .free ∧ F .regs ∧ F .pool ∧ F .memp ∧ F .hamper ∧ F (.part part) ∧ F .link ∧ F .power
  | .roster msg => F .free ∧ F .regs ∧ F .pool ∧ F .memp ∧ F .hamper ∧ F (.part msg.owner) ∧ F .link ∧ F .power
  | .activeSetFixed part => F (.part part)
  | .tally msg => F .free ∧ F .regs ∧ F .pool ∧ F .memp ∧ F .hamper ∧ F (.part msg.owner) ∧ F .link ∧ F .power
  | .tallyIn part _ _ => F .free ∧ F .regs ∧ F .hamper ∧ F (.part part) ∧ F .link ∧ F .power
  | .gwTally msg => F .free ∧ F .regs ∧ F .pool ∧ F .memp ∧ F .hamper ∧ F (.part msg.owner) ∧ F .link ∧ F .power
  | .grant msg => F .free ∧ F .regs ∧ F .pool ∧ F .memp ∧ F .hamper ∧ F (.part msg.owner) ∧ F .link ∧ F .power
  | .gwCollect part _ _ _ => F .free ∧ F .regs ∧ F (.part part) ∧ F .link ∧ F .power
  | .gwGrant msg => F .free ∧ F .regs ∧ F .pool ∧ F .memp ∧ F .hamper ∧ F (.part msg.owner) ∧ F .link ∧ F .power
  | .pile msg => F .free ∧ F .regs ∧ F .pool ∧ F .memp ∧ F .hamper ∧ F (.part msg.owner) ∧ F .link ∧ F .power
  | .gwPile msg => F .free ∧ F .regs ∧ F .pool ∧ F .memp ∧ F .hamper ∧ F (.part msg.owner) ∧ F .link ∧ F .power
  | .pileIn part _ _ => F .regs ∧ F .mem ∧ F .pool ∧ F .seam ∧ F .memp ∧ F .hamper ∧ F (.part part) ∧ F .power ∧
      F .tabs ∧ F .nextTag
  | .inputRunAlloc _ _ _ => F .free ∧ F .regs ∧ F .pool ∧ F .memp ∧ F .hamper ∧ (∀ p, F (.part p)) ∧ (∀ p, F (.lists
      p)) ∧ F .link ∧ F .power
  | .returnPile msg => F .regs ∧ F .pool ∧ F .memp ∧ F .hamper ∧ F (.part msg.owner) ∧ F .link ∧ F .power
  | .gwReturn msg => F .free ∧ F .regs ∧ F .pool ∧ F .memp ∧ F .hamper ∧ F (.part msg.owner) ∧ (∀ p, F (.lists p)) ∧
      F .link ∧ F .power
  | .returnIn part _ _ => F .memp ∧ F (.part part) ∧ F .power
  | .voidMsg msg => F .free ∧ F .regs ∧ F .pool ∧ F .memp ∧ F .hamper ∧ F (.part msg.owner) ∧ F .link ∧ F .power
  | .finalMsg msg => F .free ∧ F .regs ∧ F .pool ∧ F .memp ∧ F .hamper ∧ F (.part msg.owner) ∧ F .link ∧ F .power
  | .waitSend part _ _ _ => F .free ∧ F .regs ∧ F (.part part) ∧ F .link ∧ F .power
  | .waitMsg _ => F .free ∧ F .regs ∧ F .pool ∧ F .memp ∧ F .hamper ∧ F .link ∧ F .mgr ∧ F .power
  | .straggle _ => F .free ∧ F .regs ∧ F .pool ∧ F .memp ∧ F .hamper ∧ (∀ p, F (.part p)) ∧ F .link ∧ F .power
  | .deadDeclare _ => F .free ∧ F .regs ∧ F .link ∧ F .mgr ∧ F .power
  | .dead _ => F .free ∧ F .regs ∧ F .mem ∧ F .pool ∧ F .seam ∧ F .memp ∧ F .hamper ∧ (∀ p, F (.part p)) ∧ (∀ p, F
      (.group p)) ∧ F .press ∧ F .cores ∧ F .link ∧ F .fold ∧ F .power
  | .withdraw _ => F .free ∧ F .regs ∧ F .pool ∧ F .memp ∧ F .hamper ∧ (∀ p, F (.part p)) ∧ F .link ∧ F .power
  | .biasCounts _ => F .free ∧ F .regs ∧ F .pool ∧ F .memp ∧ F .hamper ∧ F .link ∧ F .mgr ∧ F .power
  | .biasTable _ => F .free ∧ F .regs ∧ F .mem ∧ F .pool ∧ F .memp ∧ F .hamper ∧ (∀ p, F (.part p)) ∧ (∀ p, F (.group
      p)) ∧ F .link ∧ F .power
  | .linkMap _ => F .free ∧ F .regs ∧ F .pool ∧ F .memp ∧ F .hamper ∧ F .link ∧ F .power
  | .railMap _ => F .regs ∧ F .pool ∧ F .memp ∧ F .hamper ∧ F .link ∧ F .power
  | .portReportSend => F .free ∧ F .regs ∧ F .link ∧ F .power
  | .portReport _ => F .free ∧ F .regs ∧ F .pool ∧ F .memp ∧ F .hamper ∧ F .link ∧ F .mgr ∧ F .power
  | .cal _ => F .regs ∧ F .pool ∧ F .memp ∧ F .hamper ∧ F .link ∧ F .power ∧ F .recd
  | .calSend => F .free ∧ F .regs ∧ F .link ∧ F .mgr ∧ F .power
  | .plan _ => F .regs ∧ F .pool ∧ F .memp ∧ F .hamper ∧ F .link ∧ F .power
  | .sharedTableWrite part _ => F .regs ∧ F .mem ∧ F .pool ∧ F .seam ∧ F .memp ∧ F .hamper ∧ F (.part part) ∧ F .power
      ∧ F .tabs ∧ F .nextTag
  | .foldCombine _ _ _ _ => F .free ∧ F .regs ∧ F .mem ∧ F .pool ∧ F .units ∧ F .seam ∧ F .memp ∧ F .hamper ∧ (∀ p, F
      (.part p)) ∧ (∀ p, F (.group p)) ∧ F .press ∧ F .leaks ∧ F .cores ∧ F .link ∧ F .fold ∧ F .power ∧ F .tabs
  | .passComplete part _ => F .mem ∧ F .memp ∧ F .hamper ∧ F (.part part) ∧ F .power
  | .stepComplete _ => F .free ∧ F .regs ∧ F .mem ∧ F .seam ∧ F .memp ∧ F .ctx ∧ (∀ p, F (.part p)) ∧ (∀ p, F (.group
      p)) ∧ F .press ∧ F .cores ∧ F .link ∧ F .mgr ∧ F .power ∧ F .recd
  | .reductionStart part _ => F .free ∧ F .regs ∧ F .memp ∧ F (.part part) ∧ F .link ∧ F .fold ∧ F .power
  | .nodeAdd _ _ _ _ => F .free ∧ F .regs ∧ F .mem ∧ F .units ∧ F .seam ∧ F .memp ∧ F .hamper ∧ (∀ p, F (.part p)) ∧
      (∀ p, F (.group p)) ∧ F .press ∧ F .leaks ∧ F .cores ∧ F .link ∧ F .fold ∧ F .power
  | .fdValue msg => F .free ∧ F .regs ∧ F .mem ∧ F .pool ∧ F .memp ∧ F .hamper ∧ F (.part msg.owner) ∧ F .link ∧
      F .fold ∧ F .power
  | .fdResult msg => F .free ∧ F .regs ∧ F .mem ∧ F .pool ∧ F .memp ∧ F .hamper ∧ F (.part msg.owner) ∧ F .link ∧
      F .fold ∧ F .power
  | .chunkSeal part _ => F .free ∧ F .regs ∧ F (.part part) ∧ F .link ∧ F .fold ∧ F .power
  | .fdAbort msg => F .free ∧ F .regs ∧ F .mem ∧ F .pool ∧ F .memp ∧ F .hamper ∧ F (.part msg.owner) ∧ F .link ∧
      F .fold ∧ F .power
  | .fdPoison msg => F .free ∧ F .regs ∧ F .mem ∧ F .pool ∧ F .memp ∧ F .hamper ∧ F (.part msg.owner) ∧ F .link ∧
      F .power
  | .sealAudit part => F .free ∧ F .regs ∧ F .mem ∧ F .memp ∧ F .hamper ∧ F (.part part) ∧ F .link ∧ F .power
  | .preemptRegister group => F .free ∧ F .regs ∧ F .mem ∧ F .memp ∧ F (.group group) ∧ F .cores ∧ F .power
  | .preemptSaveDone group => F .regs ∧ F .mem ∧ F .seam ∧ F .memp ∧ (∀ p, F (.part p)) ∧ F (.group group) ∧ F .press
      ∧ F .cores ∧ F .power
  | .preemptRestore group => F .memp ∧ F (.group group) ∧ F .power
  | .teardownFinish _ => F .free ∧ F .regs ∧ F .mem ∧ F .seam ∧ F .memp ∧ F .hamper ∧ (∀ p, F (.part p)) ∧ (∀ p, F
      (.group p)) ∧ F .press ∧ F .cores ∧ F .link ∧ F .mgr ∧ F .power ∧ F .recd ∧ F .tabs
  | .journalWrite part => F .regs ∧ F .mem ∧ F .memp ∧ F (.part part) ∧ F .power
  | .hamperAlloc _ => F .regs ∧ F .mem ∧ F .pool ∧ F .memp ∧ F .hamper ∧ F .power
  | .hamperRelease _ _ => F .regs ∧ F .pool ∧ F .memp ∧ F .hamper ∧ F .power
  | .hamperAddRef _ _ _ => F .regs ∧ F .mem ∧ F .pool ∧ F .memp ∧ F .hamper ∧ F .power
  | .dataFlitReceive _ _ => F .free ∧ F .regs ∧ F .pool ∧ F .units ∧ F .stitch ∧ F .memp ∧ F .hamper ∧ (∀ p, F (.lists
      p)) ∧ F .leaks ∧ F .link ∧ F .power ∧ F .recd
  | .idleFlitReceive _ _ => F .free ∧ F .regs ∧ F .pool ∧ F .units ∧ F .stitch ∧ F .memp ∧ F .hamper ∧ (∀ p, F (.lists
      p)) ∧ F .leaks ∧ F .link ∧ F .power ∧ F .recd
  | .failedFlit _ => F .free ∧ F .regs ∧ F .pool ∧ F .units ∧ F .memp ∧ F .hamper ∧ F .leaks ∧ F .link ∧ F .power ∧
      F .recd
  | .nackSend _ => F .free ∧ F .link ∧ F .power
  | .nackTimeout _ _ => F .free ∧ F .regs ∧ F .pool ∧ F .units ∧ F .memp ∧ F .hamper ∧ F .link ∧ F .power ∧ F .recd
  | .nack _ _ => F .free ∧ F .regs ∧ F .pool ∧ F .units ∧ F .stitch ∧ F .memp ∧ F .hamper ∧ (∀ p, F (.lists p)) ∧
      F .leaks ∧ F .link ∧ F .power ∧ F .recd
  | .resend _ => F .free ∧ F .regs ∧ F .link ∧ F .power
  | .hello _ _ => F .free ∧ F .regs ∧ F .pool ∧ F .units ∧ F .stitch ∧ F .memp ∧ F .hamper ∧ (∀ p, F (.lists p)) ∧
      F .leaks ∧ F .link ∧ F .mgr ∧ F .power ∧ F .recd
  | .time _ _ _ => F .free ∧ F .regs ∧ F .pool ∧ F .units ∧ F .stitch ∧ F .memp ∧ F .hamper ∧ (∀ p, F (.lists p)) ∧
      F .leaks ∧ F .link ∧ F .mgr ∧ F .power ∧ F .recd
  | .count _ _ => F .free ∧ F .regs ∧ F .pool ∧ F .units ∧ F .stitch ∧ F .memp ∧ F .hamper ∧ (∀ p, F (.lists p)) ∧
      F .leaks ∧ F .link ∧ F .power ∧ F .recd
  | .probe _ _ _ => F .free ∧ F .regs ∧ F .pool ∧ F .units ∧ F .stitch ∧ F .memp ∧ F .hamper ∧ (∀ p, F (.lists p)) ∧
      F .leaks ∧ F .link ∧ F .power ∧ F .recd
  | .retire _ _ => F .free ∧ F .regs ∧ F .pool ∧ F .units ∧ F .stitch ∧ F .memp ∧ F .hamper ∧ (∀ p, F (.lists p)) ∧
      F .leaks ∧ F .link ∧ F .power ∧ F .recd
  | .relayReject _ _ => F .free ∧ F .regs ∧ F .pool ∧ F .units ∧ F .stitch ∧ F .memp ∧ F .hamper ∧ (∀ p, F (.lists p))
      ∧ F .leaks ∧ F .link ∧ F .power ∧ F .recd
  | .relayForward _ => F .free ∧ F .regs ∧ F .pool ∧ F .memp ∧ F .hamper ∧ (∀ p, F (.lists p)) ∧ F .link ∧ F .power
  | .phyAlign _ => F .link
  | .trainBoundExpire _ => F .free ∧ F .regs ∧ F .pool ∧ F .units ∧ F .memp ∧ F .hamper ∧ F .link ∧ F .power ∧ F .recd
  | .retrainExpire _ => F .free ∧ F .regs ∧ F .pool ∧ F .units ∧ F .memp ∧ F .hamper ∧ F .link ∧ F .power ∧ F .recd
  | .portServiceStart _ => F .free ∧ F .link ∧ F .power
  | .uplinkIdleFrame _ => F .free ∧ F .link ∧ F .power
  | .uplinkFrameLost _ => F .free ∧ F .regs ∧ F .pool ∧ F .units ∧ F .memp ∧ F .hamper ∧ F .leaks ∧ F .link ∧ F .power
      ∧ F .recd
  | .uplinkShareRedivide _ => F .link
  | .lkBucketLeak _ => F .leaks ∧ F .link
  | .prBucketLeak _ => F .press ∧ F .leaks
  | .fdBucketLeak _ => F .leaks ∧ F .fold
  | .memBucketLeak _ => F .memp ∧ F .leaks
  | .energyWindowClose _ => F .regs ∧ F .boot ∧ F .units ∧ F .stitch ∧ (∀ p, F (.part p)) ∧ F .press ∧ F .off ∧
      F .link ∧ F .power ∧ F .recd
  | .drainEnd => F .link ∧ F .self
  | .selftestCheck _ _ => F .self
  | .logicTestEnd _ _ => F .self
  | .memoryTestEnd _ => F .self
  | .resultWriteEnd _ => F .regs ∧ F .boot ∧ F .press ∧ F .off ∧ F .power ∧ F .recd ∧ F .self
  | .lintPart _ => F .regs ∧ F .units ∧ F .hamper ∧ F .recd ∧ F .self
  | .logWrite => F .recd
  | .calendarTick => F .mgr ∧ F .recd
  | .alignmentLoss _ => F .free ∧ F .regs ∧ F .pool ∧ F .units ∧ F .memp ∧ F .hamper ∧ F .link ∧ F .power ∧ F .recd
  | .helloSend _ => F .free ∧ F .link ∧ F .power
  | .seamCreditReturn _ _ => F .seam
  | .memRequestAccepted _ => F .regs
  | .alwaysOnSupplyLoss => ∀ f, F f
  | .alwaysOnSupplyUp => F .recd

/-- Every command answers a next state that differs from the one before in what the command touches alone. -/
theorem exec_ends {F : Touch → Prop} {s : State} (c : Instr) (h : s.allows F c) : s.Ends F (exec c s) :=
  match c, h with
  | .rstNAssert, hall => execRstNAssert_ends hall
  | .rstNDeassert sfdp hdrA hdrB us, ⟨fRegs, fBoot, fPress, fOff, fLink, fPower, fSelf⟩ => execRstNDeassert_ends sfdp
      hdrA hdrB us fRegs fBoot fPress fOff fLink fPower fSelf
  | .copyReadDone copy img us, ⟨fRegs, fBoot, fUnits, fStitch, fPress, fOff, fLink, fPower, fRecd⟩ =>
      execCopyReadDone_ends copy img us fRegs fBoot fUnits fStitch fPress fOff fLink fPower fRecd
  | .clockCheck cycles us, ⟨fRegs, fBoot, fUnits, fStitch, fPress, fOff, fLink, fPower, fRecd⟩ => execClockCheck_ends
      cycles us fRegs fBoot fUnits fStitch fPress fOff fLink fPower fRecd
  | .repair record page logs us, ⟨fRegs, fBoot, fUnits, fStitch, fPress, fOff, fLink, fPower, fRecd⟩ =>
      execRepair_ends record page logs us fRegs fBoot fUnits fStitch fPress fOff fLink fPower fRecd
  | .domainSwitchOn dom, ⟨fRegs, fBoot, fUnits, fStitch, fPress, fOff, fOn, fLink, fPower, fRecd⟩ =>
      execDomainSwitchOn_ends dom fRegs fBoot fUnits fStitch fPress fOff fOn fLink fPower fRecd
  | .load img us, ⟨fRegs, fBoot, fImg, fUnits, fStitch, fSeam, fPress, fOff, fLink, fPower, fRecd⟩ => execLoad_ends
      img us fRegs fBoot fImg fUnits fStitch fSeam fPress fOff fLink fPower fRecd
  | .linkTrainEnd timeout, ⟨fRegs, fBoot, fUnits, fStitch, fPress, fOff, fLink, fPower, fRecd⟩ =>
      execLinkTrainEnd_ends timeout fRegs fBoot fUnits fStitch fPress fOff fLink fPower fRecd
  | .headListenEnd, ⟨fRegs, fBoot, fUnits, fStitch, fPress, fOff, fLink, fPower, fRecd⟩ => execHeadListenEnd_ends
      fRegs fBoot fUnits fStitch fPress fOff fLink fPower fRecd
  | .lockAcquired, ⟨fRegs, fBoot, fUnits, fStitch, fPress, fOff, fLink, fPower, fRecd⟩ => execLockAcquired_ends fRegs
      fBoot fUnits fStitch fPress fOff fLink fPower fRecd
  | .stitchLockTimeout us, ⟨fRegs, fBoot, fPress, fOff, fLink, fPower⟩ => execStitchLockTimeout_ends us fRegs fBoot
      fPress fOff fLink fPower
  | .partitionUp us, ⟨fFree, fRegs, fMem, fBoot, fUnits, fStitch, fSeam, fMemp, fHamper, fPart, fGroup, fPress,
      fCores, fOff, fLink, fFold, fPower, fRecd⟩ => execPartitionUp_ends us fFree fRegs fMem fBoot fUnits fStitch
      fSeam fMemp fHamper fPart fGroup fPress fCores fOff fLink fFold fPower fRecd
  | .keyProgram value, ⟨fMgt, fBoot⟩ => execKeyProgram_ends value fMgt fBoot
  | .keyProgramDone, fBoot => execKeyProgramDone_ends fBoot
  | .pwrAlert, ⟨fRegs, fPower, fSelf, fPins⟩ => execPwrAlert_ends fRegs fPower fSelf fPins
  | .pwrAlertRelease us, ⟨fRegs, fBoot, fUnits, fStitch, fPress, fOff, fLink, fPower, fRecd, fPins⟩ =>
      execPwrAlertRelease_ends us fRegs fBoot fUnits fStitch fPress fOff fLink fPower fRecd fPins
  | .thermTrip us, ⟨fRegs, fBoot, fPress, fOff, fLink, fPower, fSelf, fPins⟩ => execThermTrip_ends us fRegs fBoot fPress fOff
      fLink fPower fSelf fPins
  | .thermTripRelease, ⟨fPower, fPins⟩ => execThermTripRelease_ends fPower fPins
  | .stitchRefEdge offsetPs, ⟨fRegs, fStitch⟩ => execStitchRefEdge_ends offsetPs fRegs fStitch
  | .stitchRefMiss, ⟨fRegs, fStitch⟩ => execStitchRefMiss_ends fRegs fStitch
  | .stitchBoundary runs others, ⟨fFree, fRegs, fMem, fPool, fUnits, fStitch, fSeam, fMemp, fHamper, fPart, fLists,
      fGroup, fPress, fCores, fLink, fMgr, fPower, fTabs⟩ => execStitchBoundary_ends runs others fFree fRegs fMem
      fPool fUnits fStitch fSeam fMemp fHamper fPart fLists fGroup fPress fCores fLink fMgr fPower fTabs
  | .lockLoss, ⟨fRegs, fStitch⟩ => execLockLoss_ends fRegs fStitch
  | .stitchSlip refCount, ⟨fRegs, fStitch⟩ => execStitchSlip_ends refCount fRegs fStitch
  | .stitchRelaySwitch lockedDirect, fStitch => execStitchRelaySwitch_ends lockedDirect fStitch
  | .stitchDirectRestore, fStitch => execStitchDirectRestore_ends fStitch
  | .countFlitSend port, ⟨fFree, fStitch, fLink, fPower⟩ => execCountFlitSend_ends port fFree fStitch fLink fPower
  | .timeSend chan txOfs, ⟨fFree, fStitch, fLink, fPower⟩ => execTimeSend_ends chan txOfs fFree fStitch fLink fPower
  | .ringDoorbell req, ⟨fRegs, fMem, fSeam, fGroup⟩ => execRingDoorbell_ends req fRegs fMem fSeam fGroup
  | .layerDoorbell req, ⟨fRegs, fMem, fSeam, fGroup⟩ => execLayerDoorbell_ends req fRegs fMem fSeam fGroup
  | .engineCompletion req, ⟨fMem, fSeam⟩ => execEngineCompletion_ends req fMem fSeam
  | .weightWriteRelease req, ⟨fRegs, fMem, fSeam, fPart⟩ => execWeightWriteRelease_ends req fRegs fMem fSeam fPart
  | .holdClear part layer, fPart => execHoldClear_ends part layer fPart
  | .abortRequest req, ⟨fRegs, fMem, fSeam, fGroup⟩ => execAbortRequest_ends req fRegs fMem fSeam fGroup
  | .abortRegister group, ⟨fFree, fRegs, fMem, fSeam, fMemp, fPart, fGroup, fPress, fCores, fLink, fPower⟩ =>
      execAbortRegister_ends group fFree fRegs fMem fSeam fMemp fPart fGroup fPress fCores fLink fPower
  | .seamInvalidRequest req, fSeam => execSeamInvalidRequest_ends req fSeam
  | .completionNotify group, fSeam => execCompletionNotify_ends group fSeam
  | .workReadyNotify tag, ⟨fRegs, fSeam, fTabs⟩ => execWorkReadyNotify_ends tag fRegs fSeam fTabs
  | .divertNotify group, fSeam => execDivertNotify_ends group fSeam
  | .abortNotify group, fSeam => execAbortNotify_ends group fSeam
  | .memReadBeat port beat, ⟨fFree, fRegs, fMem, fPool, fSeam, fMemp, fHamper, fPart, fGroup, fPress, fCores, fLink,
      fFold, fPower, fTabs⟩ => execMemReadBeat_ends port beat fFree fRegs fMem fPool fSeam fMemp fHamper fPart fGroup
      fPress fCores fLink fFold fPower fTabs
  | .memUe port beat, ⟨fFree, fRegs, fMem, fUnits, fSeam, fMemp, fHamper, fPart, fGroup, fPress, fLeaks, fCores,
      fLink, fFold, fPower⟩ => execMemUe_ends port beat fFree fRegs fMem fUnits fSeam fMemp fHamper fPart fGroup
      fPress fLeaks fCores fLink fFold fPower
  | .memWriteResponse port, ⟨fRegs, fMem, fSeam, fMemp, fPart, fGroup, fPress, fCores, fPower⟩ =>
      execMemWriteResponse_ends port fRegs fMem fSeam fMemp fPart fGroup fPress fCores fPower
  | .memWriteError port, ⟨fFree, fRegs, fMem, fUnits, fSeam, fMemp, fHamper, fPart, fGroup, fPress, fLeaks, fCores,
      fLink, fFold, fPower⟩ => execMemWriteError_ends port fFree fRegs fMem fUnits fSeam fMemp fHamper fPart fGroup
      fPress fLeaks fCores fLink fFold fPower
  | .memRetry again, ⟨fFree, fRegs, fMem, fPool, fUnits, fSeam, fMemp, fHamper, fPart, fGroup, fPress, fLeaks, fCores,
      fLink, fFold, fPower, fTabs⟩ => execMemRetry_ends again fFree fRegs fMem fPool fUnits fSeam fMemp fHamper fPart
      fGroup fPress fLeaks fCores fLink fFold fPower fTabs
  | .partRestart part value, ⟨fFree, fMgt, fRegs, fMem, fSeam, fMemp, fHamper, fPart, fGroup, fPress, fCores, fLink,
      fFold, fPower⟩ => execPartRestart_ends part value fFree fMgt fRegs fMem fSeam fMemp fHamper fPart fGroup fPress
      fCores fLink fFold fPower
  | .linkRetireForced port value, ⟨fFree, fMgt, fRegs, fPool, fUnits, fMemp, fHamper, fLink, fPower, fRecd⟩ =>
      execLinkRetireForced_ends port value fFree fMgt fRegs fPool fUnits fMemp fHamper fLink fPower fRecd
  | .jrnConsumedWrite part value, ⟨fMgt, fRegs, fPart⟩ => execJrnConsumedWrite_ends part value fMgt fRegs fPart
  | .shutdownRequest value, ⟨fMgt, fRegs, fMem, fSeam, fMemp, fPart, fGroup, fPress, fCores, fPower, fSelf⟩ =>
      execShutdownRequest_ends value fMgt fRegs fMem fSeam fMemp fPart fGroup fPress fCores fPower fSelf
  | .calSet value, ⟨fMgt, fRecd⟩ => execCalSet_ends value fMgt fRecd
  | .evtMapWrite line value, ⟨fMgt, fRegs⟩ => execEvtMapWrite_ends line value fMgt fRegs
  | .pwrTelemWrite value, ⟨fMgt, fRegs, fPower⟩ => execPwrTelemWrite_ends value fMgt fRegs fPower
  | .w1cClear addr value setNow, ⟨fMgt, fRegs, fGroup⟩ => execW1cClear_ends addr value setNow fMgt fRegs fGroup
  | .rcCounterRead addr add, ⟨fMgt, fRegs⟩ => execRcCounterRead_ends addr add fMgt fRegs
  | .splitLoRead addr, ⟨fMgt, fRegs⟩ => execSplitLoRead_ends addr fMgt fRegs
  | .registerWriteOther addr value, ⟨fMgt, fRegs, fBoot, fRecd⟩ => execRegisterWriteOther_ends addr value fMgt fRegs
      fBoot fRecd
  | .wsBypass, ⟨fRegs, fPress, fOff, fPower, fSelf⟩ => execWsBypass_ends fRegs fPress fOff fPower fSelf
  | .wsExtest, ⟨fRegs, fSelf⟩ => execWsExtest_ends fRegs fSelf
  | .wsIntest, ⟨fRegs, fSelf⟩ => execWsIntest_ends fRegs fSelf
  | .selftestRun, ⟨fRegs, fPower, fSelf⟩ => execSelftestRun_ends fRegs fPower fSelf
  | .scanAccess, ⟨fRegs, fSelf⟩ => execScanAccess_ends fRegs fSelf
  | .mbistAccess, ⟨fRegs, fSelf⟩ => execMbistAccess_ends fRegs fSelf
  | .nop group, ⟨fRegs, fMem, fSeam, fMemp, fPart, fGroup, fPress, fCores, fPower⟩ => execNop_ends group fRegs fMem
      fSeam fMemp fPart fGroup fPress fCores fPower
  | .step group, ⟨fFree, fRegs, fMem, fSeam, fMemp, fHamper, fPart, fGroup, fPress, fCores, fLink, fFold, fPower⟩ =>
      execStep_ends group fFree fRegs fMem fSeam fMemp fHamper fPart fGroup fPress fCores fLink fFold fPower
  | .streamOpen group, ⟨fRegs, fMem, fSeam, fMemp, fCtx, fPart, fGroup, fPress, fCores, fPower⟩ => execStreamOpen_ends
      group fRegs fMem fSeam fMemp fCtx fPart fGroup fPress fCores fPower
  | .streamPause group, ⟨fRegs, fMem, fSeam, fMemp, fCtx, fPart, fGroup, fPress, fCores, fPower⟩ =>
      execStreamPause_ends group fRegs fMem fSeam fMemp fCtx fPart fGroup fPress fCores fPower
  | .streamResume group, ⟨fRegs, fMem, fSeam, fMemp, fCtx, fPart, fGroup, fPress, fCores, fPower⟩ =>
      execStreamResume_ends group fRegs fMem fSeam fMemp fCtx fPart fGroup fPress fCores fPower
  | .streamClose group, ⟨fRegs, fMem, fSeam, fMemp, fCtx, fPart, fGroup, fPress, fCores, fPower⟩ =>
      execStreamClose_ends group fRegs fMem fSeam fMemp fCtx fPart fGroup fPress fCores fPower
  | .tableLoadLayer group, ⟨fRegs, fMem, fSeam, fMemp, fPart, fGroup, fPress, fCores, fPower⟩ =>
      execTableLoadLayer_ends group fRegs fMem fSeam fMemp fPart fGroup fPress fCores fPower
  | .tableLoadPlacement group, ⟨fRegs, fMem, fSeam, fMemp, fPart, fGroup, fPress, fCores, fPower⟩ =>
      execTableLoadPlacement_ends group fRegs fMem fSeam fMemp fPart fGroup fPress fCores fPower
  | .tableLoadProfile group, ⟨fRegs, fMem, fSeam, fMemp, fPart, fGroup, fPress, fCores, fPower⟩ =>
      execTableLoadProfile_ends group fRegs fMem fSeam fMemp fPart fGroup fPress fCores fPower
  | .tableLoadBias group, ⟨fRegs, fMem, fSeam, fMemp, fPart, fGroup, fPress, fCores, fPower⟩ => execTableLoadBias_ends
      group fRegs fMem fSeam fMemp fPart fGroup fPress fCores fPower
  | .tableLoadHold group, ⟨fRegs, fMem, fSeam, fMemp, fPart, fGroup, fPress, fCores, fPower⟩ => execTableLoadHold_ends
      group fRegs fMem fSeam fMemp fPart fGroup fPress fCores fPower
  | .park group, ⟨fRegs, fMem, fSeam, fMemp, fPart, fGroup, fPress, fCores, fPower⟩ => execPark_ends group fRegs fMem
      fSeam fMemp fPart fGroup fPress fCores fPower
  | .parkComplete part, ⟨fRegs, fMem, fSeam, fMemp, fPart, fGroup, fPress, fCores, fPower⟩ => execParkComplete_ends
      part fRegs fMem fSeam fMemp fPart fGroup fPress fCores fPower
  | .wakeCheckDone part layers, fPart => execWakeCheckDone_ends part layers fPart
  | .replayNorm group, ⟨fRegs, fMem, fSeam, fMemp, fPart, fGroup, fPress, fCores, fPower⟩ => execReplayNorm_ends group
      fRegs fMem fSeam fMemp fPart fGroup fPress fCores fPower
  | .replayScores group, ⟨fRegs, fMem, fSeam, fMemp, fPart, fGroup, fPress, fCores, fPower⟩ => execReplayScores_ends
      group fRegs fMem fSeam fMemp fPart fGroup fPress fCores fPower
  | .replayTickets group, ⟨fRegs, fMem, fSeam, fMemp, fPart, fGroup, fPress, fCores, fPower⟩ => execReplayTickets_ends
      group fRegs fMem fSeam fMemp fPart fGroup fPress fCores fPower
  | .replayPayload group, ⟨fRegs, fMem, fSeam, fMemp, fPart, fGroup, fPress, fCores, fPower⟩ => execReplayPayload_ends
      group fRegs fMem fSeam fMemp fPart fGroup fPress fCores fPower
  | .replayCombine group, ⟨fFree, fRegs, fMem, fSeam, fMemp, fPart, fGroup, fPress, fCores, fPower⟩ =>
      execReplayCombine_ends group fFree fRegs fMem fSeam fMemp fPart fGroup fPress fCores fPower
  | .replayReduce group, ⟨fRegs, fMem, fSeam, fMemp, fPart, fGroup, fPress, fCores, fPower⟩ => execReplayReduce_ends
      group fRegs fMem fSeam fMemp fPart fGroup fPress fCores fPower
  | .readySend part, ⟨fFree, fRegs, fPart, fLink, fPower⟩ => execReadySend_ends part fFree fRegs fPart fLink fPower
  | .ready msg, ⟨fFree, fRegs, fPool, fMemp, fHamper, fLink, fMgr, fPower⟩ => execReady_ends msg fFree fRegs fPool
      fMemp fHamper fLink fMgr fPower
  | .podReady msg, ⟨fFree, fRegs, fPool, fMemp, fHamper, fLink, fMgr, fPower⟩ => execPodReady_ends msg fFree fRegs
      fPool fMemp fHamper fLink fMgr fPower
  | .launch msg, ⟨fFree, fRegs, fPool, fMemp, fHamper, fPart, fLink, fMgr, fPower⟩ => execLaunch_ends msg fFree fRegs
      fPool fMemp fHamper fPart fLink fMgr fPower
  | .stepLaunch part, ⟨fFree, fRegs, fMem, fUnits, fSeam, fMemp, fHamper, fPart, fGroup, fPress, fCores, fLink, fMgr,
      fFold, fPower⟩ => execStepLaunch_ends part fFree fRegs fMem fUnits fSeam fMemp fHamper fPart fGroup fPress
      fCores fLink fMgr fFold fPower
  | .passStart part, ⟨fFree, fRegs, fMem, fSeam, fMemp, fHamper, fCtx, fPart, fGroup, fPress, fCores, fLink, fFold,
      fPower⟩ => execPassStart_ends part fFree fRegs fMem fSeam fMemp fHamper fCtx fPart fGroup fPress fCores fLink
      fFold fPower
  | .normalise part block, ⟨fRegs, fMemp, fPart, fGroup, fCores, fPower⟩ => execNormalise_ends part block fRegs fMemp
      fPart fGroup fCores fPower
  | .pressRunIssue part array block tile setNo seg, ⟨fPart, fGroup, fPress, fPower⟩ => execPressRunIssue_ends part
      array block tile setNo seg fPart fGroup fPress fPower
  | .pressRunEnd array errs, ⟨fFree, fRegs, fMem, fUnits, fSeam, fMemp, fHamper, fPart, fGroup, fPress, fLeaks,
      fCores, fLink, fFold, fPower, fRecd⟩ => execPressRunEnd_ends array errs fFree fRegs fMem fUnits fSeam fMemp
      fHamper fPart fGroup fPress fLeaks fCores fLink fFold fPower fRecd
  | .tileReduce part row tile, ⟨fPart, fGroup, fPower⟩ => execTileReduce_ends part row tile fPart fGroup fPower
  | .softmaxMerge part row, ⟨fPart, fGroup, fCores, fPower⟩ => execSoftmaxMerge_ends part row fPart fGroup fCores
      fPower
  | .tokenSelect part row, ⟨fRegs, fPart, fCores, fPower⟩ => execTokenSelect_ends part row fRegs fPart fCores fPower
  | .admission part, ⟨fRegs, fPool, fMemp, fHamper, fPart, fCores, fPower⟩ => execAdmission_ends part fRegs fPool
      fMemp fHamper fPart fCores fPower
  | .sortEnd part layer, ⟨fFree, fRegs, fPool, fMemp, fHamper, fPart, fLink, fPower⟩ => execSortEnd_ends part layer
      fFree fRegs fPool fMemp fHamper fPart fLink fPower
  | .microStepStart part layer, ⟨fFree, fRegs, fPool, fMemp, fHamper, fPart, fLink, fPower⟩ => execMicroStepStart_ends
      part layer fFree fRegs fPool fMemp fHamper fPart fLink fPower
  | .roster msg, ⟨fFree, fRegs, fPool, fMemp, fHamper, fPart, fLink, fPower⟩ => execRoster_ends msg fFree fRegs fPool
      fMemp fHamper fPart fLink fPower
  | .activeSetFixed part, fPart => execActiveSetFixed_ends part fPart
  | .tally msg, ⟨fFree, fRegs, fPool, fMemp, fHamper, fPart, fLink, fPower⟩ => execTally_ends msg fFree fRegs fPool
      fMemp fHamper fPart fLink fPower
  | .tallyIn part layer micro, ⟨fFree, fRegs, fHamper, fPart, fLink, fPower⟩ => execTallyIn_ends part layer micro
      fFree fRegs fHamper fPart fLink fPower
  | .gwTally msg, ⟨fFree, fRegs, fPool, fMemp, fHamper, fPart, fLink, fPower⟩ => execGwTally_ends msg fFree fRegs
      fPool fMemp fHamper fPart fLink fPower
  | .grant msg, ⟨fFree, fRegs, fPool, fMemp, fHamper, fPart, fLink, fPower⟩ => execGrant_ends msg fFree fRegs fPool
      fMemp fHamper fPart fLink fPower
  | .gwCollect part layer micro src, ⟨fFree, fRegs, fPart, fLink, fPower⟩ => execGwCollect_ends part layer micro src
      fFree fRegs fPart fLink fPower
  | .gwGrant msg, ⟨fFree, fRegs, fPool, fMemp, fHamper, fPart, fLink, fPower⟩ => execGwGrant_ends msg fFree fRegs
      fPool fMemp fHamper fPart fLink fPower
  | .pile msg, ⟨fFree, fRegs, fPool, fMemp, fHamper, fPart, fLink, fPower⟩ => execPile_ends msg fFree fRegs fPool
      fMemp fHamper fPart fLink fPower
  | .gwPile msg, ⟨fFree, fRegs, fPool, fMemp, fHamper, fPart, fLink, fPower⟩ => execGwPile_ends msg fFree fRegs fPool
      fMemp fHamper fPart fLink fPower
  | .pileIn part layer micro, ⟨fRegs, fMem, fPool, fSeam, fMemp, fHamper, fPart, fPower, fTabs, fNextTag⟩ =>
      execPileIn_ends part layer micro fRegs fMem fPool fSeam fMemp fHamper fPart fPower fTabs fNextTag
  | .inputRunAlloc part layer micro, ⟨fFree, fRegs, fPool, fMemp, fHamper, fPart, fLists, fLink, fPower⟩ =>
      execInputRunAlloc_ends part layer micro fFree fRegs fPool fMemp fHamper fPart fLists fLink fPower
  | .returnPile msg, ⟨fRegs, fPool, fMemp, fHamper, fPart, fLink, fPower⟩ => execReturnPile_ends msg fRegs fPool fMemp
      fHamper fPart fLink fPower
  | .gwReturn msg, ⟨fFree, fRegs, fPool, fMemp, fHamper, fPart, fLists, fLink, fPower⟩ => execGwReturn_ends msg fFree
      fRegs fPool fMemp fHamper fPart fLists fLink fPower
  | .returnIn part layer micro, ⟨fMemp, fPart, fPower⟩ => execReturnIn_ends part layer micro fMemp fPart fPower
  | .voidMsg msg, ⟨fFree, fRegs, fPool, fMemp, fHamper, fPart, fLink, fPower⟩ => execVoidMsg_ends msg fFree fRegs
      fPool fMemp fHamper fPart fLink fPower
  | .finalMsg msg, ⟨fFree, fRegs, fPool, fMemp, fHamper, fPart, fLink, fPower⟩ => execFinalMsg_ends msg fFree fRegs
      fPool fMemp fHamper fPart fLink fPower
  | .waitSend part layer micro handler, ⟨fFree, fRegs, fPart, fLink, fPower⟩ => execWaitSend_ends part layer micro
      handler fFree fRegs fPart fLink fPower
  | .waitMsg msg, ⟨fFree, fRegs, fPool, fMemp, fHamper, fLink, fMgr, fPower⟩ => execWaitMsg_ends msg fFree fRegs fPool
      fMemp fHamper fLink fMgr fPower
  | .straggle msg, ⟨fFree, fRegs, fPool, fMemp, fHamper, fPart, fLink, fPower⟩ => execStraggle_ends msg fFree fRegs
      fPool fMemp fHamper fPart fLink fPower
  | .deadDeclare block, ⟨fFree, fRegs, fLink, fMgr, fPower⟩ => execDeadDeclare_ends block fFree fRegs fLink fMgr
      fPower
  | .dead msg, ⟨fFree, fRegs, fMem, fPool, fSeam, fMemp, fHamper, fPart, fGroup, fPress, fCores, fLink, fFold, fPower⟩
      => execDead_ends msg fFree fRegs fMem fPool fSeam fMemp fHamper fPart fGroup fPress fCores fLink fFold fPower
  | .withdraw msg, ⟨fFree, fRegs, fPool, fMemp, fHamper, fPart, fLink, fPower⟩ => execWithdraw_ends msg fFree fRegs
      fPool fMemp fHamper fPart fLink fPower
  | .biasCounts msg, ⟨fFree, fRegs, fPool, fMemp, fHamper, fLink, fMgr, fPower⟩ => execBiasCounts_ends msg fFree fRegs
      fPool fMemp fHamper fLink fMgr fPower
  | .biasTable msg, ⟨fFree, fRegs, fMem, fPool, fMemp, fHamper, fPart, fGroup, fLink, fPower⟩ => execBiasTable_ends
      msg fFree fRegs fMem fPool fMemp fHamper fPart fGroup fLink fPower
  | .linkMap msg, ⟨fFree, fRegs, fPool, fMemp, fHamper, fLink, fPower⟩ => execLinkMap_ends msg fFree fRegs fPool fMemp
      fHamper fLink fPower
  | .railMap msg, ⟨fRegs, fPool, fMemp, fHamper, fLink, fPower⟩ => execRailMap_ends msg fRegs fPool fMemp fHamper
      fLink fPower
  | .portReportSend, ⟨fFree, fRegs, fLink, fPower⟩ => execPortReportSend_ends fFree fRegs fLink fPower
  | .portReport msg, ⟨fFree, fRegs, fPool, fMemp, fHamper, fLink, fMgr, fPower⟩ => execPortReport_ends msg fFree fRegs
      fPool fMemp fHamper fLink fMgr fPower
  | .cal msg, ⟨fRegs, fPool, fMemp, fHamper, fLink, fPower, fRecd⟩ => execCal_ends msg fRegs fPool fMemp fHamper fLink
      fPower fRecd
  | .calSend, ⟨fFree, fRegs, fLink, fMgr, fPower⟩ => execCalSend_ends fFree fRegs fLink fMgr fPower
  | .plan msg, ⟨fRegs, fPool, fMemp, fHamper, fLink, fPower⟩ => execPlan_ends msg fRegs fPool fMemp fHamper fLink
      fPower
  | .sharedTableWrite part layer, ⟨fRegs, fMem, fPool, fSeam, fMemp, fHamper, fPart, fPower, fTabs, fNextTag⟩ =>
      execSharedTableWrite_ends part layer fRegs fMem fPool fSeam fMemp fHamper fPart fPower fTabs fNextTag
  | .foldCombine part layer row mismatch, ⟨fFree, fRegs, fMem, fPool, fUnits, fSeam, fMemp, fHamper, fPart, fGroup,
      fPress, fLeaks, fCores, fLink, fFold, fPower, fTabs⟩ => execFoldCombine_ends part layer row mismatch fFree fRegs
      fMem fPool fUnits fSeam fMemp fHamper fPart fGroup fPress fLeaks fCores fLink fFold fPower fTabs
  | .passComplete part layer, ⟨fMem, fMemp, fHamper, fPart, fPower⟩ => execPassComplete_ends part layer fMem fMemp
      fHamper fPart fPower
  | .stepComplete part, ⟨fFree, fRegs, fMem, fSeam, fMemp, fCtx, fPart, fGroup, fPress, fCores, fLink, fMgr, fPower,
      fRecd⟩ => execStepComplete_ends part fFree fRegs fMem fSeam fMemp fCtx fPart fGroup fPress fCores fLink fMgr
      fPower fRecd
  | .reductionStart part layer, ⟨fFree, fRegs, fMemp, fPart, fLink, fFold, fPower⟩ => execReductionStart_ends part
      layer fFree fRegs fMemp fPart fLink fFold fPower
  | .nodeAdd part node chunk mismatch, ⟨fFree, fRegs, fMem, fUnits, fSeam, fMemp, fHamper, fPart, fGroup, fPress,
      fLeaks, fCores, fLink, fFold, fPower⟩ => execNodeAdd_ends part node chunk mismatch fFree fRegs fMem fUnits fSeam
      fMemp fHamper fPart fGroup fPress fLeaks fCores fLink fFold fPower
  | .fdValue msg, ⟨fFree, fRegs, fMem, fPool, fMemp, fHamper, fPart, fLink, fFold, fPower⟩ => execFdValue_ends msg
      fFree fRegs fMem fPool fMemp fHamper fPart fLink fFold fPower
  | .fdResult msg, ⟨fFree, fRegs, fMem, fPool, fMemp, fHamper, fPart, fLink, fFold, fPower⟩ => execFdResult_ends msg
      fFree fRegs fMem fPool fMemp fHamper fPart fLink fFold fPower
  | .chunkSeal part chunk, ⟨fFree, fRegs, fPart, fLink, fFold, fPower⟩ => execChunkSeal_ends part chunk fFree fRegs
      fPart fLink fFold fPower
  | .fdAbort msg, ⟨fFree, fRegs, fMem, fPool, fMemp, fHamper, fPart, fLink, fFold, fPower⟩ => execFdAbort_ends msg
      fFree fRegs fMem fPool fMemp fHamper fPart fLink fFold fPower
  | .fdPoison msg, ⟨fFree, fRegs, fMem, fPool, fMemp, fHamper, fPart, fLink, fPower⟩ => execFdPoison_ends msg fFree
      fRegs fMem fPool fMemp fHamper fPart fLink fPower
  | .sealAudit part, ⟨fFree, fRegs, fMem, fMemp, fHamper, fPart, fLink, fPower⟩ => execSealAudit_ends part fFree fRegs
      fMem fMemp fHamper fPart fLink fPower
  | .preemptRegister group, ⟨fFree, fRegs, fMem, fMemp, fGroup, fCores, fPower⟩ => execPreemptRegister_ends group
      fFree fRegs fMem fMemp fGroup fCores fPower
  | .preemptSaveDone group, ⟨fRegs, fMem, fSeam, fMemp, fPart, fGroup, fPress, fCores, fPower⟩ =>
      execPreemptSaveDone_ends group fRegs fMem fSeam fMemp fPart fGroup fPress fCores fPower
  | .preemptRestore group, ⟨fMemp, fGroup, fPower⟩ => execPreemptRestore_ends group fMemp fGroup fPower
  | .teardownFinish part, ⟨fFree, fRegs, fMem, fSeam, fMemp, fHamper, fPart, fGroup, fPress, fCores, fLink, fMgr,
      fPower, fRecd, fTabs⟩ => execTeardownFinish_ends part fFree fRegs fMem fSeam fMemp fHamper fPart fGroup fPress
      fCores fLink fMgr fPower fRecd fTabs
  | .journalWrite part, ⟨fRegs, fMem, fMemp, fPart, fPower⟩ => execJournalWrite_ends part fRegs fMem fMemp fPart
      fPower
  | .hamperAlloc reqs, ⟨fRegs, fMem, fPool, fMemp, fHamper, fPower⟩ => execHamperAlloc_ends reqs fRegs fMem fPool
      fMemp fHamper fPower
  | .hamperRelease buffer n, ⟨fRegs, fPool, fMemp, fHamper, fPower⟩ => execHamperRelease_ends buffer n fRegs fPool
      fMemp fHamper fPower
  | .hamperAddRef buffer refs rest, ⟨fRegs, fMem, fPool, fMemp, fHamper, fPower⟩ => execHamperAddRef_ends buffer refs
      rest fRegs fMem fPool fMemp fHamper fPower
  | .dataFlitReceive chan flit, ⟨fFree, fRegs, fPool, fUnits, fStitch, fMemp, fHamper, fLists, fLeaks, fLink, fPower,
      fRecd⟩ => execDataFlitReceive_ends chan flit fFree fRegs fPool fUnits fStitch fMemp fHamper fLists fLeaks fLink
      fPower fRecd
  | .idleFlitReceive chan flit, ⟨fFree, fRegs, fPool, fUnits, fStitch, fMemp, fHamper, fLists, fLeaks, fLink, fPower,
      fRecd⟩ => execIdleFlitReceive_ends chan flit fFree fRegs fPool fUnits fStitch fMemp fHamper fLists fLeaks fLink
      fPower fRecd
  | .failedFlit port, ⟨fFree, fRegs, fPool, fUnits, fMemp, fHamper, fLeaks, fLink, fPower, fRecd⟩ =>
      execFailedFlit_ends port fFree fRegs fPool fUnits fMemp fHamper fLeaks fLink fPower fRecd
  | .nackSend chan, ⟨fFree, fLink, fPower⟩ => execNackSend_ends chan fFree fLink fPower
  | .nackTimeout chan seq, ⟨fFree, fRegs, fPool, fUnits, fMemp, fHamper, fLink, fPower, fRecd⟩ => execNackTimeout_ends
      chan seq fFree fRegs fPool fUnits fMemp fHamper fLink fPower fRecd
  | .nack chan flit, ⟨fFree, fRegs, fPool, fUnits, fStitch, fMemp, fHamper, fLists, fLeaks, fLink, fPower, fRecd⟩ =>
      execNack_ends chan flit fFree fRegs fPool fUnits fStitch fMemp fHamper fLists fLeaks fLink fPower fRecd
  | .resend chan, ⟨fFree, fRegs, fLink, fPower⟩ => execResend_ends chan fFree fRegs fLink fPower
  | .hello chan flit, ⟨fFree, fRegs, fPool, fUnits, fStitch, fMemp, fHamper, fLists, fLeaks, fLink, fMgr, fPower,
      fRecd⟩ => execHello_ends chan flit fFree fRegs fPool fUnits fStitch fMemp fHamper fLists fLeaks fLink fMgr
      fPower fRecd
  | .time chan flit arrivalPs, ⟨fFree, fRegs, fPool, fUnits, fStitch, fMemp, fHamper, fLists, fLeaks, fLink, fMgr,
      fPower, fRecd⟩ => execTime_ends chan flit arrivalPs fFree fRegs fPool fUnits fStitch fMemp fHamper fLists fLeaks
      fLink fMgr fPower fRecd
  | .count chan flit, ⟨fFree, fRegs, fPool, fUnits, fStitch, fMemp, fHamper, fLists, fLeaks, fLink, fPower, fRecd⟩ =>
      execCount_ends chan flit fFree fRegs fPool fUnits fStitch fMemp fHamper fLists fLeaks fLink fPower fRecd
  | .probe chan flit roundTripPs, ⟨fFree, fRegs, fPool, fUnits, fStitch, fMemp, fHamper, fLists, fLeaks, fLink,
      fPower, fRecd⟩ => execProbe_ends chan flit roundTripPs fFree fRegs fPool fUnits fStitch fMemp fHamper fLists
      fLeaks fLink fPower fRecd
  | .retire chan flit, ⟨fFree, fRegs, fPool, fUnits, fStitch, fMemp, fHamper, fLists, fLeaks, fLink, fPower, fRecd⟩ =>
      execRetire_ends chan flit fFree fRegs fPool fUnits fStitch fMemp fHamper fLists fLeaks fLink fPower fRecd
  | .relayReject chan flit, ⟨fFree, fRegs, fPool, fUnits, fStitch, fMemp, fHamper, fLists, fLeaks, fLink, fPower,
      fRecd⟩ => execRelayReject_ends chan flit fFree fRegs fPool fUnits fStitch fMemp fHamper fLists fLeaks fLink
      fPower fRecd
  | .relayForward msg, ⟨fFree, fRegs, fPool, fMemp, fHamper, fLists, fLink, fPower⟩ => execRelayForward_ends msg fFree
      fRegs fPool fMemp fHamper fLists fLink fPower
  | .phyAlign port, fLink => execPhyAlign_ends port fLink
  | .trainBoundExpire port, ⟨fFree, fRegs, fPool, fUnits, fMemp, fHamper, fLink, fPower, fRecd⟩ =>
      execTrainBoundExpire_ends port fFree fRegs fPool fUnits fMemp fHamper fLink fPower fRecd
  | .retrainExpire port, ⟨fFree, fRegs, fPool, fUnits, fMemp, fHamper, fLink, fPower, fRecd⟩ => execRetrainExpire_ends
      port fFree fRegs fPool fUnits fMemp fHamper fLink fPower fRecd
  | .portServiceStart port, ⟨fFree, fLink, fPower⟩ => execPortServiceStart_ends port fFree fLink fPower
  | .uplinkIdleFrame chan, ⟨fFree, fLink, fPower⟩ => execUplinkIdleFrame_ends chan fFree fLink fPower
  | .uplinkFrameLost port, ⟨fFree, fRegs, fPool, fUnits, fMemp, fHamper, fLeaks, fLink, fPower, fRecd⟩ =>
      execUplinkFrameLost_ends port fFree fRegs fPool fUnits fMemp fHamper fLeaks fLink fPower fRecd
  | .uplinkShareRedivide port, fLink => execUplinkShareRedivide_ends port fLink
  | .lkBucketLeak port, ⟨fLeaks, fLink⟩ => execLkBucketLeak_ends port fLeaks fLink
  | .prBucketLeak array, ⟨fPress, fLeaks⟩ => execPrBucketLeak_ends array fPress fLeaks
  | .fdBucketLeak cluster, ⟨fLeaks, fFold⟩ => execFdBucketLeak_ends cluster fLeaks fFold
  | .memBucketLeak port, ⟨fMemp, fLeaks⟩ => execMemBucketLeak_ends port fMemp fLeaks
  | .energyWindowClose ops, ⟨fRegs, fBoot, fUnits, fStitch, fPart, fPress, fOff, fLink, fPower, fRecd⟩ =>
      execEnergyWindowClose_ends ops fRegs fBoot fUnits fStitch fPart fPress fOff fLink fPower fRecd
  | .drainEnd, ⟨fLink, fSelf⟩ => execDrainEnd_ends fLink fSelf
  | .selftestCheck cycles vddMv, fSelf => execSelftestCheck_ends cycles vddMv fSelf
  | .logicTestEnd misr reinit, fSelf => execLogicTestEnd_ends misr reinit fSelf
  | .memoryTestEnd bits, fSelf => execMemoryTestEnd_ends bits fSelf
  | .resultWriteEnd ok, ⟨fRegs, fBoot, fPress, fOff, fPower, fRecd, fSelf⟩ => execResultWriteEnd_ends ok fRegs fBoot
      fPress fOff fPower fRecd fSelf
  | .lintPart fail, ⟨fRegs, fUnits, fHamper, fRecd, fSelf⟩ => execLintPart_ends fail fRegs fUnits fHamper fRecd fSelf
  | .logWrite, fRecd => execLogWrite_ends fRecd
  | .calendarTick, ⟨fMgr, fRecd⟩ => execCalendarTick_ends fMgr fRecd
  | .alignmentLoss port, ⟨fFree, fRegs, fPool, fUnits, fMemp, fHamper, fLink, fPower, fRecd⟩ => execAlignmentLoss_ends
      port fFree fRegs fPool fUnits fMemp fHamper fLink fPower fRecd
  | .helloSend chan, ⟨fFree, fLink, fPower⟩ => execHelloSend_ends chan fFree fLink fPower
  | .seamCreditReturn gen2 response, fSeam => execSeamCreditReturn_ends gen2 response fSeam
  | .memRequestAccepted port, fRegs => execMemRequestAccepted_ends port fRegs
  | .alwaysOnSupplyLoss, hall => execAlwaysOnSupplyLoss_ends hall
  | .alwaysOnSupplyUp, fRecd => execAlwaysOnSupplyUp_ends fRecd

theorem exec_same {F : Touch → Prop} {s t : State} {c : Instr} (h : s.allows F c) (e : exec c s = .next t) : s.Same F t := by
  obtain ⟨u, hu, hs⟩ := exec_ends c h
  rw [e] at hu
  cases hu
  exact hs

end Sys2Proof.Machine
end

section
/-! SUPPORT. The frames: which commands a choice of `F` allows, and the obligations that follow from that. -/

-- One declaration after another: the check bounds the memory, and with it the threads.
set_option Elab.async false

namespace Sys2Proof.Machine

theorem State.allows_of_all {F : Touch → Prop} {s : State} (h : ∀ f, F f) (c : Instr) : s.allows F c := by
  cases c <;> simp [State.allows, h]

/-- Settles O4: no command touches the queue. -/
theorem execKeepsQueue : Obligations.ExecKeepsQueue := by
  intro c s
  obtain ⟨t, ht, hs⟩ := exec_ends c (s.allows_of_all (F := fun _ => True) (fun _ => trivial) c)
  exact ⟨t, ht, hs.pending⟩

/-! ### The link commands -/

/-- What a link command may touch. -/
def linkTouch : Touch → Prop
  | .free | .regs | .pool | .units | .stitch | .memp | .hamper | .leaks | .link | .mgr | .power | .recd | .lists _ => True
  | _ => False

theorem State.allows_link {s : State} {c : Instr} (h : isLink c = true) : s.allows linkTouch c := by
  cases c
  all_goals first
    | exact absurd h Bool.false_ne_true
    | simp [State.allows, linkTouch]

/-- What a link command that only sends or trains may touch. -/
def quietLinkTouch : Touch → Prop
  | .free | .regs | .units | .stitch | .leaks | .link | .power | .recd | .mgr => True
  | _ => False

theorem State.allows_quietLink {s : State} {c : Instr} (h : isQuietLink c = true) : s.allows quietLinkTouch c := by
  cases c
  all_goals first
    | exact absurd h Bool.false_ne_true
    | simp [State.allows, quietLinkTouch]

/-- Settles O57. -/
theorem frameOfLinks : Obligations.FrameOfLinks := by
  constructor
  · intro c s t hc e
    have h := exec_same (State.allows_link hc) e
    obtain ⟨hdata, herr⟩ := h.mgt id
    exact ⟨h.poolOnly id id, h.views fun _ => id, h.groups fun _ => id, h.press id, h.cores id id, h.ctx id, h.fold id,
      h.tabs id, h.nextTag id, h.boot id, h.img id, h.seam id, h.self id, hdata, herr⟩
  · intro c s t hc e
    have h := exec_same (State.allows_quietLink hc) e
    refine ⟨fun a => ?_, h.parts fun _ => ⟨id, id⟩, h.memp id, h.hamper id⟩
    rw [h.mem id id]

/-! ### The commands of a step in progress -/

/-- What a command of a step of partition `p` may touch; `rows`: it may work on the rows of a batch command. -/
def stepTouch (s : State) (p : Nat) (rows : Bool) : Touch → Prop
  | .part q => q = p
  | .group g => rows = true ∧ s.gPart g = p
  | .free | .regs | .pool | .memp | .hamper | .cores | .link | .fold | .power | .leaks => True
  | _ => False

theorem State.allows_step {s : State} {c : Instr} {p : Nat} (h : stepPart c = some p) :
    s.allows (stepTouch s p (worksRows c)) c := by
  unfold stepPart at h
  split at h
  all_goals cases h
  all_goals simp +contextual [State.allows, stepTouch, worksRows]

/-- What a command of a step may touch that neither takes a message nor asks for cells. -/
def quietStepTouch : Touch → Prop
  | .mem | .pool | .img => False
  | _ => True

theorem State.allows_quietStep {s : State} {c : Instr} (h : isQuietStep c = true) : s.allows quietStepTouch c := by
  cases c
  all_goals first
    | exact absurd h Bool.false_ne_true
    | simp [State.allows, quietStepTouch]

/-- Settles O59. -/
theorem frameOfSteps : Obligations.FrameOfSteps := by
  intro c s t p hc e
  have h := exec_same (State.allows_step hc) e
  refine ⟨h.poolOnly id id, fun hq a => ?_, fun q hq => h.part q hq id, fun hw => h.groups fun g hg => ?_,
    fun g hg => h.group g fun hx => hg hx.2, h.press id, h.ctx id, h.tabs id, h.nextTag id, h.boot id, h.img id,
    h.stitch id, h.units id, h.seam id, h.mgr id, h.recd id, h.self id⟩
  · rw [(exec_same (State.allows_quietStep hq) e).mem id id]
  · exact absurd (hw.symm.trans hg.1) (by decide)

/-! ### The commands of the start, the pins, the tests and the registers -/

/-- What such a command may touch; `cal`: a CAL, `dom`: DOMAIN_SWITCH_ON. -/
def startTouch (cal dom : Bool) : Touch → Prop
  | .mgt | .regs | .boot | .img | .units | .stitch | .seam | .press | .leaks | .off | .link | .mgr | .power | .recd
  | .self | .pins => True
  | .pool | .memp | .hamper => cal = true
  | .on => dom = true
  | _ => False

theorem State.allows_start {s : State} {c : Instr} (h : isStart c = true) : s.allows (startTouch true true) c := by
  cases c
  all_goals first
    | exact absurd h Bool.false_ne_true
    | simp [State.allows, startTouch]

/-- But for a CAL no cell goes back. -/
theorem State.allows_start_of_ne_cal {s : State} {c : Instr} (h : isStart c = true) (hc : ∀ m, c ≠ .cal m) :
    s.allows (startTouch false true) c := by
  cases c
  all_goals first
    | exact absurd h Bool.false_ne_true
    | exact absurd rfl (hc _)
    | simp [State.allows, startTouch]

/-- But for DOMAIN_SWITCH_ON no domain comes on. -/
theorem State.allows_start_of_ne_domain {s : State} {c : Instr} (h : isStart c = true) (hd : ∀ d, c ≠ .domainSwitchOn d) :
    s.allows (startTouch true false) c := by
  cases c
  all_goals first
    | exact absurd h Bool.false_ne_true
    | exact absurd rfl (hd _)
    | simp [State.allows, startTouch]

/-- A domain that comes on changes no core; what follows it in DOMAIN_SWITCH_ON switches none on. -/
theorem execDomainSwitchOn_cores {s t : State} {d n : Nat} (e : execDomainSwitchOn d s = .next t)
    (hn : t.power.coreOn n) : t.cores.getD n resetCore = s.cores.getD n resetCore := by
  unfold execDomainSwitchOn at e
  split at e
  · cases e
    rfl
  · split at e
    · cases e
      rfl
    case isFalse rest _ _ =>
      extract_lets u x w at e
      have hu : u.Same (startTouch true false) w := State.Same.upd (.refl u) rfl rfl rfl rfl rfl (h22 := .inr trivial)
      obtain ⟨v, hv, hs⟩ : u.Ends (startTouch true false) (if rest.isEmpty = true then
          if w.boot.state = 5 then .next (w.enter 6 0)
          else if w.boot.state = 11 ∧ w.power.wakeq ≠ [] ∧ w.power.wakeWin = none then .next w.startRecal
          else .next w
        else .next w) := by
        refine State.Ends.ofIte (fun _ => State.Ends.ofIte (fun _ => .next ?_) fun _ =>
          State.Ends.ofIte (fun _ => .next ?_) fun _ => .next hu) fun _ => .next hu
        · exact State.enter_same _ _ hu trivial trivial trivial trivial trivial trivial trivial trivial trivial
        · exact State.startRecal_same hu trivial
      rw [hv] at e
      cases e
      exact (hs.coresOn id Bool.false_ne_true n hn).2

/-- Settles O58: a CAL alone writes, and only to the link entries of the cells that its message held. -/
theorem frameOfStart : Obligations.FrameOfStart := by
  intro c s t hc e
  have h := exec_same (State.allows_start hc) e
  have hmem (hm : ∀ m, c ≠ .cal m) : t.mem = s.mem ∧ t.hamper = s.hamper ∧ t.memp = s.memp := by
    have hs := exec_same (State.allows_start_of_ne_cal hc hm) e
    exact ⟨hs.mem id Bool.false_ne_true, hs.hamper Bool.false_ne_true, hs.memp Bool.false_ne_true⟩
  refine ⟨?_, h.parts fun _ => ⟨id, id⟩, h.groups fun _ => id, h.ctx id, h.fold id, h.tabs id, h.nextTag id, h.free id,
    fun n h4 h45 => ?_, fun hm => ?_⟩
  · by_cases hm : ∃ m, c = .cal m
    · obtain ⟨m, rfl⟩ := hm
      exact (exec_same (F := linkTouch) (by simp [State.allows, linkTouch]) e).poolOnly id id
    · intro a _
      rw [(hmem fun m he => hm ⟨m, he⟩).1]
  · by_cases hd : ∃ d, c = .domainSwitchOn d
    · obtain ⟨d, rfl⟩ := hd
      exact execDomainSwitchOn_cores e ⟨h4, h45⟩
    · have hs := exec_same (State.allows_start_of_ne_domain hc fun d he => hd ⟨d, he⟩) e
      exact (hs.coresOn id Bool.false_ne_true n ⟨h4, h45⟩).2
  · obtain ⟨hx, hh, hp⟩ := hmem hm
    exact ⟨fun a => by rw [hx], hh, hp⟩

end Sys2Proof.Machine
end

section
/-! SUPPORT. How the start state may follow another (R84, R89, R93 to R95): what every command but a reset keeps of it. -/

-- One declaration after another: the check bounds the memory, and with it the threads.
set_option Elab.async false

namespace Sys2Proof.Machine

/-- `c` may follow `b`: it keeps the promises of the start sequence, a refused start with its code, and every key word that
holds a value. -/
structure BootSt.Follows (b c : BootSt) : Prop where
  started : b.started → c.started
  refused : b.started → b.state = 15 → c.state = 15 ∧ c.code = b.code
  keys : b.started → ∀ n, b.keys.getD n 0 ≠ 0 → c.keys.getD n 0 = b.keys.getD n 0
  keysLen : b.keys.length = 12 → c.keys.length = 12

namespace BootSt.Follows

theorem refl (b : BootSt) : b.Follows b := ⟨id, fun _ h => ⟨h, rfl⟩, fun _ _ _ => rfl, id⟩

theorem ofEq {b c : BootSt} (h : c = b) : b.Follows c := h ▸ refl b

theorem trans {a b c : BootSt} (h : a.Follows b) (k : b.Follows c) : a.Follows c where
  started x := k.started (h.started x)
  refused x y := by
    obtain ⟨hs, hc⟩ := h.refused x y
    obtain ⟨ks, kc⟩ := k.refused (h.started x) hs
    exact ⟨ks, kc.trans hc⟩
  keys x n y := by
    have hk := h.keys x n y
    rw [k.keys (h.started x) n (hk ▸ y), hk]
  keysLen x := k.keysLen (h.keysLen x)

/-- A change of what the promises do not speak of. -/
theorem ofCore {b c : BootSt} (hl : c.lock = b.lock) (hs : c.state = b.state) (hc : c.code = b.code)
    (hw : c.waiting = b.waiting) (hr : c.rstLow = b.rstLow) (hb : c.keyBusy = b.keyBusy) (hk : c.keys = b.keys) :
    b.Follows c :=
  ⟨fun h => by simpa only [BootSt.started, hl, hs, hw, hr, hb, hk] using h, fun _ h => ⟨hs.trans h, hc⟩,
    fun _ _ _ => by rw [hk], fun h => hk ▸ h⟩

/-- A turn of the start sequence before RUNNING. -/
theorem ofTurn {b c : BootSt} (hb : b.started → b.state ≤ 10) (hs : b.started → c.started) (hk : c.keys = b.keys) :
    b.Follows c :=
  ⟨hs, fun x y => by have := hb x; omega, fun _ _ _ => by rw [hk], fun h => hk ▸ h⟩

end BootSt.Follows

/-! ### The key store in the operations of the start sequence -/

@[simp] theorem State.domainsOff_boot (s : State) (ns : List Nat) : (s.domainsOff ns).boot = s.boot := by
  obtain ⟨r, p, c, w, e, -⟩ := s.domainsOff_eq ns
  rw [e]

@[simp] theorem State.refuseStart_boot (s : State) (c d us : Nat) : (s.refuseStart c d us).boot =
    { s.boot with state := 15, code := c, detail := d, waiting := none, startUs := us } := by
  simp [State.refuseStart, State.rampsOff]

theorem State.enterWork_keys (s : State) (n us : Nat) : (s.enterWork n us).boot.keys = s.boot.keys := by
  unfold State.enterWork
  dsimp only
  split
  · split <;> simp
  · rfl
  · rfl
  · rfl
  · rfl
  · simp
  · rfl

theorem State.enter_keys (s : State) (n us : Nat) : (s.enter n us).boot.keys = s.boot.keys := by
  unfold State.enter
  split
  · rfl
  · exact s.enterWork_keys n us

theorem State.takeCopy_keys (s : State) (c : CopyId) (r : Bool) (us : Nat) : (s.takeCopy c r us).boot.keys = s.boot.keys :=
  State.enter_keys _ _ _

theorem State.selectCopy_keys (s : State) (us : Nat) : (s.selectCopy us).boot.keys = s.boot.keys := by
  have take (c : CopyId) (r : Bool) := s.takeCopy_keys c r us
  unfold State.selectCopy
  dsimp only
  split
  · split_ifs
    · exact take _ _
    · exact take _ _
    · exact take _ _
    · simp
  · exact take _ _
  · exact take _ _
  · simp

theorem State.auth_keys (s : State) (us : Nat) : (s.auth us).boot.keys = s.boot.keys := by
  unfold State.auth
  dsimp only
  split
  · rfl
  · exact State.selectCopy_keys _ us

theorem State.enterAuth_keys (s : State) (us : Nat) : (s.enterAuth us).boot.keys = s.boot.keys := by
  unfold State.enterAuth
  split
  · rfl
  · exact s.auth_keys us

theorem State.enterNow_keys (s : State) (n us : Nat) : (s.enterNow n us).boot.keys = s.boot.keys := by
  unfold State.enterNow
  split
  · exact s.auth_keys us
  · exact s.enterWork_keys n us

theorem State.refuseStart_follows {s : State} (c d us : Nat) (hs : s.boot.state ≤ 10) (hr : s.boot.rstLow = false) :
    s.boot.Follows (s.refuseStart c d us).boot :=
  .ofTurn (fun _ => hs) (State.refuseStart_safe c d us (by omega) hr).started (by simp)

theorem State.enter_follows {s : State} (n us : Nat) (hn : 2 ≤ n) (hm : n ≤ 11) (hs : s.boot.state ≤ 10)
    (hr : s.boot.rstLow = false) : s.boot.Follows (s.enter n us).boot :=
  .ofTurn (fun _ => hs) (State.enter_safe n us hn hm hs hr).started (s.enter_keys n us)

/-- The same after other updates. -/
theorem State.enter_follows_of_boot {s u : State} (hb : u.boot = s.boot) (n us : Nat) (hn : 2 ≤ n) (hm : n ≤ 11)
    (hs : s.boot.state ≤ 10) (hr : s.boot.rstLow = false) : s.boot.Follows (u.enter n us).boot :=
  hb ▸ State.enter_follows n us hn hm (hb ▸ hs) (hb ▸ hr)

/-! ### The commands that change the start state -/

/-- The command answers a next state whose start state follows that of `s`. -/
def State.Turns (s : State) (o : Host.Outcome State Fault Refusal) : Prop := ∃ t, o = .next t ∧ s.boot.Follows t.boot

namespace State.Turns

theorem next {s t : State} (h : s.boot.Follows t.boot) : s.Turns (.next t) := ⟨t, rfl, h⟩

theorem same {s : State} : s.Turns (.next s) := next (.refl _)

theorem ofIte {s : State} {a b : Host.Outcome State Fault Refusal} {c : Prop} [Decidable c] (ha : c → s.Turns a)
    (hb : ¬c → s.Turns b) : s.Turns (if c then a else b) := by
  split
  · exact ha ‹_›
  · exact hb ‹_›

/-- What stood before the turn in the same command. -/
theorem trans {s t : State} {o : Host.Outcome State Fault Refusal} (h : s.boot.Follows t.boot) (k : t.Turns o) :
    s.Turns o := by
  obtain ⟨u, hu, hs⟩ := k
  exact ⟨u, hu, h.trans hs⟩

end State.Turns

/-- All but the start state. -/
def notBoot : Touch → Prop
  | .boot => False
  | _ => True

theorem execRstNDeassert_turns {s : State} (sfdp : SfdpRead) (a b : Bytes) (us : Nat) :
    s.Turns (execRstNDeassert sfdp a b us s) := by
  unfold execRstNDeassert
  refine .ofIte (fun _ => .same) fun hg => ?_
  have hlow : s.boot.rstLow = true := by
    by_contra h
    exact hg (by simp [h])
  have hbegin : s.boot.Follows { s.boot with rstLow := false, state := 1, xfers := [.reset 10] } := by
    refine .ofTurn (fun h => ?_) (fun h => ?_) rfl
    · have := (h.2.2.1 hlow).1
      omega
    · obtain ⟨hl, hw, hr, hk⟩ := h
      obtain ⟨h0, hn⟩ := hr hlow
      exact ⟨by simpa [h0] using hl, fun n e => absurd (hn.symm.trans e) (by simp), fun e => (by cases e), hk⟩
  extract_lets u x v
  have hv : v.boot = { s.boot with rstLow := false, state := 1, xfers := [.reset 10] } := by
    simp [v, x, u, State.rampsOff]
  clear_value v
  have hstate : v.boot.state ≤ 10 := by rw [hv]; exact (by decide : 1 ≤ 10)
  have hr : v.boot.rstLow = false := by rw [hv]
  refine .trans (hv ▸ hbegin) (.ofIte (fun _ => .next (State.refuseStart_follows _ _ _ hstate hr)) fun _ =>
    .ofIte (fun _ => .next (State.refuseStart_follows _ _ _ hstate hr)) fun _ => .next ?_)
  exact .ofCore rfl rfl rfl rfl rfl rfl rfl

theorem execCopyReadDone_turns {s : State} (c : CopyId) (img : Bytes) (us : Nat) : s.Turns (execCopyReadDone c img us s) := by
  unfold execCopyReadDone
  refine .ofIte (fun _ => .same) fun hg => ?_
  simp only [not_or, Bool.not_eq_true, not_not] at hg
  obtain ⟨hr, hs, -, -⟩ := hg
  extract_lets b u
  have hb : s.boot.Follows b := by
    cases c <;> exact .ofCore rfl rfl rfl rfl rfl rfl rfl
  have hstate : b.state ≤ 10 := by
    have : b.state = s.boot.state := by cases c <;> rfl
    omega
  have hrst : b.rstLow = false := by
    cases c <;> exact hr
  clear_value b
  refine .trans (t := u) hb ?_
  split
  · exact .same
  · refine .next ?_
    split
    · exact .ofTurn (fun _ => hstate) (State.enterAuth_safe us hstate hrst).started (State.enterAuth_keys _ _)
    · exact .ofTurn (fun _ => hstate) (State.selectCopy_safe us hstate hrst).started (State.selectCopy_keys _ _)

/-- The reads of REPAIR are transfers alone. -/
theorem BootSt.repairReads_eq (b : BootSt) (r : Option Bytes) (logs : List Bytes) :
    ∃ x, b.repairReads r logs = { b with xfers := x } := by
  have one {c : BootSt} (a n : Nat) (hc : ∃ x, c = { b with xfers := x }) :
      ∃ x, c.readFlash a n = { b with xfers := x } := by
    obtain ⟨x, rfl⟩ := hc
    exact ⟨_, rfl⟩
  have all (l : List Nat) (at_ : BootSt → Nat → Nat) (n : Nat) (c : BootSt) (hc : ∃ x, c = { b with xfers := x }) :
      ∃ x, l.foldl (fun c a => c.readFlash (at_ c a) n) c = { b with xfers := x } := by
    induction l generalizing c with
    | nil => exact hc
    | cons a l ih => exact ih _ (one _ _ hc)
  unfold BootSt.repairReads
  extract_lets n b1 b2 b3 heads order tried
  have h1 : ∃ x, b1 = { b with xfers := x } := one _ _ ⟨_, rfl⟩
  have h2 : ∃ x, b2 = { b with xfers := x } := by
    dsimp only [b2]
    split
    · exact h1
    · exact one _ _ (one _ _ h1)
  exact all _ (fun c i => c.logOfs + 4096 * i) 512 _ (all _ (fun c i => c.logOfs + 4096 * i) 16 _ h2)

theorem execClockCheck_turns {s : State} (cycles us : Nat) : s.Turns (execClockCheck cycles us s) := by
  unfold execClockCheck
  refine .ofIte (fun _ => .same) fun hg => ?_
  simp only [not_or, Bool.not_eq_true, ne_eq, not_not] at hg
  obtain ⟨hr, hs, -⟩ := hg
  exact .ofIte (fun _ => .next (State.refuseStart_follows _ _ _ (by omega) hr))
    fun _ => .next (State.enter_follows _ _ (by decide) (by decide) (by omega) hr)

theorem execRepair_turns {s : State} (r : Option Bytes) (page : Byte) (logs : List Bytes) (us : Nat) :
    s.Turns (execRepair r page logs us s) := by
  unfold execRepair
  refine .ofIte (fun _ => .same) fun hg => ?_
  simp only [not_or, Bool.not_eq_true, ne_eq, not_not] at hg
  obtain ⟨hr, hs, -⟩ := hg
  extract_lets rc use b s1 s2 u x s3 cl
  obtain ⟨xs, hx⟩ := s.boot.repairReads_eq r logs
  have h2 : s2.boot = { s.boot with xfers := xs } := by
    have := (State.readLog_same (F := notBoot) (logs.take 64) (rc.map (fun r => slice r 128 512)) (.refl s1) trivial).boot id
    exact this.trans hx
  have h3 : s3.boot = { s.boot with
      xfers := xs, noRecord := use.isNone, stale := use.isSome && page == 0, recordUse := use.isSome
      repairs := recordRepairs b } := by simp only [s3, x, h2]
  clear_value s3
  have hstate : s3.boot.state ≤ 10 := by rw [h3]; exact (show s.boot.state ≤ 10 by omega)
  have hrst : s3.boot.rstLow = false := by rw [h3]; exact hr
  refine .trans (t := s3) (h3 ▸ .ofCore rfl rfl rfl rfl rfl rfl rfl) ?_
  exact .ofIte (fun _ => .next (State.refuseStart_follows _ _ _ hstate hrst)) fun _ =>
    .ofIte (fun _ => .next (State.refuseStart_follows _ _ _ hstate hrst)) fun _ =>
      .next (State.enter_follows _ _ (by decide) (by decide) hstate hrst)

theorem execLoad_turns {s : State} (img : Bytes) (us : Nat) : s.Turns (execLoad img us s) := by
  unfold execLoad
  refine .ofIte (fun _ => .same) fun hg => ?_
  simp only [not_or, Bool.not_eq_true, ne_eq, not_not] at hg
  obtain ⟨hr, hs, -⟩ := hg
  extract_lets +onlyGivenNames u
  have hstate : u.boot.state ≤ 10 := show s.boot.state ≤ 10 by omega
  have hrst : u.boot.rstLow = false := hr
  refine .trans (t := u) (.ofCore rfl rfl rfl rfl rfl rfl rfl) ?_
  refine .ofIte (fun _ => .next (State.refuseStart_follows _ _ _ hstate hrst)) fun _ => ?_
  extract_lets +onlyGivenNames v
  refine .trans (t := v) (.refl _) ?_
  split
  · exact .next (State.refuseStart_follows _ _ _ hstate hrst)
  · have hw (w : State) (hw : w.boot = v.boot) : w.drainRsps.boot = v.boot :=
      ((State.drainRsps_same (F := notBoot) (.refl w) trivial).boot id).trans hw
    extract_lets +onlyGivenNames x y w
    have hb : w.drainRsps.boot = v.boot := hw w rfl
    refine .next ?_
    rw [← hb]
    exact State.enter_follows _ _ (by decide) (by decide) (hb ▸ hstate) (hb ▸ hrst)

theorem execLinkTrainEnd_turns {s : State} (timeout : Bool) : s.Turns (execLinkTrainEnd timeout s) := by
  unfold execLinkTrainEnd
  refine .ofIte (fun hg => .next ?_) fun _ => .same
  simp only [Bool.and_eq_true, Bool.not_eq_true', beq_iff_eq] at hg
  obtain ⟨⟨⟨hr, hs⟩, -⟩, -⟩ := hg
  exact State.enter_follows _ _ (by decide) (by decide) (by omega) hr

theorem execHeadListenEnd_turns {s : State} : s.Turns (execHeadListenEnd s) := by
  unfold execHeadListenEnd
  refine .ofIte (fun hg => .next ?_) fun _ => .same
  simp only [Bool.and_eq_true, Bool.not_eq_true', beq_iff_eq] at hg
  obtain ⟨⟨⟨⟨hr, hs⟩, -⟩, -⟩, -⟩ := hg
  refine State.enter_follows_of_boot ?_ _ _ (by omega) (by omega) (by omega) hr
  rfl

theorem execLockAcquired_turns {s : State} : s.Turns (execLockAcquired s) := by
  unfold execLockAcquired
  refine .ofIte (fun hg => .ofIte (fun hs => .next ?_) fun _ => .next (.refl _)) fun _ => .same
  simp only [Bool.and_eq_true, Bool.not_eq_true'] at hg
  obtain ⟨⟨⟨⟨⟨hr, -⟩, -⟩, -⟩, -⟩, -⟩ := hg
  have hs : s.boot.state = 9 := hs
  refine State.enter_follows_of_boot ?_ _ _ (by omega) (by omega) (by omega) hr
  rfl

theorem execStitchLockTimeout_turns {s : State} (us : Nat) : s.Turns (execStitchLockTimeout us s) := by
  unfold execStitchLockTimeout
  refine .ofIte (fun hg => .next ?_) fun _ => .same
  simp only [Bool.and_eq_true, Bool.not_eq_true', beq_iff_eq] at hg
  obtain ⟨⟨⟨⟨hr, hs⟩, -⟩, -⟩, -⟩ := hg
  exact State.refuseStart_follows _ _ _ (by omega) hr

theorem execKeyProgramDone_turns {s : State} : s.Turns (execKeyProgramDone s) := by
  unfold execKeyProgramDone
  split
  case h_2 => exact .same
  case h_1 n w hb =>
    refine .next ⟨fun h => ?_, fun _ h => ⟨h, rfl⟩, fun h k hk => ?_, fun h => by simpa using h⟩
    · obtain ⟨hl, hw, hr, -⟩ := h
      exact ⟨hl, hw, hr, fun m v e => by cases e⟩
    · have hz : n ≠ k := fun e => hk (e ▸ (h.2.2.2 n w hb).2)
      exact (getD_setAt _ _ _ _ _).trans (if_neg fun e => hz e.1)

theorem execKeyProgram_turns {s : State} (v : Word) : s.Turns (execKeyProgram v s) := by
  unfold execKeyProgram
  refine .ofIte (fun _ => .same) fun _ => ?_
  extract_lets u n m clr x b
  have hb : u.boot.Follows b := .ofCore rfl rfl rfl rfl rfl rfl rfl
  refine .trans (t := u) (.refl _) (.ofIte (fun _ => .next hb) fun _ => .ofIte (fun hg => .next (hb.trans ?_))
    fun _ => .next (hb.trans (.ofCore rfl rfl rfl rfl rfl rfl rfl)))
  obtain ⟨-, -, -, hn, hz⟩ := hg
  refine ⟨fun h => ?_, fun _ h => ⟨h, rfl⟩, fun _ _ _ => rfl, id⟩
  obtain ⟨hl, hw, hr, -⟩ := h
  refine ⟨hl, hw, hr, fun k w e => ?_⟩
  cases e
  exact ⟨hn, hz⟩

theorem execPwrAlertRelease_turns {s : State} (us : Nat) : s.Turns (execPwrAlertRelease us s) := by
  unfold execPwrAlertRelease
  refine .ofIte (fun _ => .same) fun _ => ?_
  extract_lets x u
  refine .trans (t := u) (.refl _) ?_
  split
  case h_2 => exact .same
  case h_1 n hn =>
    have hbefore (h : s.boot.started) : s.boot.state ≤ 10 ∧ s.boot.rstLow = false := by
      obtain ⟨-, hw, hr, -⟩ := h
      refine ⟨(hw n hn).1, ?_⟩
      by_contra hlow
      have := (hr (by simpa using hlow)).2
      exact absurd (hn.symm.trans this) (by simp)
    refine .next (.ofTurn (fun h => (hbefore h).1) (fun h => ?_) (State.enterNow_keys _ _ _))
    obtain ⟨hs, hr⟩ := hbefore h
    exact (State.enterNow_safe (s := u) n us hs hr).started h

theorem execThermTrip_turns {s : State} (us : Nat) : s.Turns (execThermTrip us s) := by
  unfold execThermTrip
  refine .ofIte (fun _ => .same) fun _ => .ofIte (fun _ => .next (.ofEq ?_)) fun hr => ?_
  · exact (State.powerRefuse_same (F := notBoot) (.refl _) trivial).boot id
  · extract_lets x u v w
    have hb : w.boot = s.boot := (State.powerRefuse_same (F := notBoot) (State.lowWindow_same
      (State.bump_same _ _ (State.raise_same _ _ (.refl u) trivial) trivial) trivial) trivial).boot id
    refine .trans (t := w) (.ofEq hb) (.ofIte (fun hs => .next ?_) fun _ => .same)
    exact State.refuseStart_follows _ _ _ hs.2 (by simpa [hb] using hr)

theorem execEnergyWindowClose_turns {s : State} (ops : List Nat) : s.Turns (execEnergyWindowClose ops s) := by
  unfold execEnergyWindowClose
  refine .ofIte (fun _ => .same) fun hg => ?_
  simp only [not_or, Bool.not_eq_true] at hg
  obtain ⟨hr, -, -⟩ := hg
  extract_lets w uj keep p q u v z
  have hv : u.Same notBoot v := State.kernelsAt_same w (.refl u) (fun _ => trivial) trivial
  have hz : u.Same notBoot z := State.Same.ofIte (fun _ => State.lowWindow_same hv trivial) fun _ => hv
  have hb : z.boot = s.boot := hz.boot id
  refine .trans (t := z) (.ofEq hb) (.ofIte (fun hs => .next ?_) fun _ => .same)
  obtain ⟨-, hs⟩ := hs
  refine State.enter_follows_of_boot ?_ _ _ (by omega) (by omega) (by omega) (hb ▸ hr)
  rfl

theorem execDomainSwitchOn_turns {s : State} (d : Nat) : s.Turns (execDomainSwitchOn d s) := by
  unfold execDomainSwitchOn
  split
  · exact .same
  · refine .ofIte (fun _ => .same) fun hg => ?_
    extract_lets u x w
    refine .trans (t := w) (.refl _) (.ofIte (fun _ => .ofIte (fun hs => .next ?_) fun _ =>
      .ofIte (fun _ => .next (.ofEq ((State.startRecal_same (F := notBoot) (.refl _) trivial).boot id)))
        fun _ => .same) fun _ => .same)
    have hrst (h : w.boot.started) : w.boot.rstLow = false := by
      by_contra hlow
      have := (h.2.2.1 (by simpa using hlow)).1
      omega
    exact .ofTurn (fun _ => by omega) (fun h => (State.enter_safe _ _ (by decide) (by decide) (by omega) (hrst h)).started h)
      (State.enter_keys _ _ _)

theorem execResultWriteEnd_turns {s : State} (ok : Bool) : s.Turns (execResultWriteEnd ok s) := by
  have fin {u : State} (b : BootSt) (hu : u.boot = b) : u.selfFinish.boot = b :=
    hu ▸ (State.selfFinish_same (F := notBoot) (.refl u) trivial trivial trivial trivial trivial trivial).boot id
  unfold execResultWriteEnd
  refine .ofIte (fun _ => .same) fun _ => ?_
  split
  · exact .next (.ofEq (fin _ (by rfl)))
  · extract_lets r v u
    refine .trans (t := u) (.ofCore rfl rfl rfl rfl rfl rfl rfl) (.ofIte (fun _ => .next (.ofEq (fin _ (by rfl)))) fun _ =>
      .ofIte (fun _ => .next (.refl _)) fun _ => .next (.ofEq (fin _ (by rfl))))

theorem execPartitionUp_turns {s : State} (us : Nat) : s.Turns (execPartitionUp us s) := by
  unfold execPartitionUp
  refine .ofIte (fun _ => .same) fun hg => ?_
  simp only [not_or, Bool.not_eq_true, ne_eq, not_not] at hg
  obtain ⟨hr, hs, -⟩ := hg
  extract_lets valid s1 ups s2 s3 s4 x s5 off s6
  have h1 : s.Same notBoot s1 := State.Same.foldl _ _ (fun _ _ h => State.replan_same _ h trivial) (.refl s)
  have h2 : s.Same notBoot s2 := State.Same.foldl _ _ (fun _ _ h => State.loadTables_same _ h trivial trivial) h1
  have h3 : s.Same notBoot s3 := State.Same.foldl _ _ (fun _ _ h => State.bringUp_same _ h trivial trivial trivial trivial
    trivial trivial (fun _ => trivial) (fun _ => trivial) trivial trivial trivial trivial trivial) h2
  have h4 : s.Same notBoot s4 := State.Same.foldl _ _ (fun _ _ h => State.showSlices_same _ h trivial) h3
  have hb : s6.boot = { s.boot with partDown := decide (ups.length < valid.length) } := by
    simp only [s6, State.domainsOff_boot, s5, x, h4.boot id]
  clear_value s6
  refine .trans (t := s6) (hb ▸ .ofCore rfl rfl rfl rfl rfl rfl rfl) (.next ?_)
  exact State.enter_follows _ _ (by decide) (by decide) (by rw [hb]; exact (show s.boot.state ≤ 10 by omega))
    (by rw [hb]; exact hr)

/-! ### Every command but a reset -/

/-- The commands that may change the start state. -/
def onStart (c : Instr) : Bool :=
  match c with
  | .rstNAssert | .rstNDeassert .. | .copyReadDone .. | .clockCheck .. | .repair .. | .domainSwitchOn .. | .load ..
  | .linkTrainEnd .. | .headListenEnd | .lockAcquired | .stitchLockTimeout .. | .partitionUp .. | .keyProgram ..
  | .keyProgramDone | .pwrAlertRelease .. | .thermTrip .. | .registerWriteOther .. | .energyWindowClose ..
  | .resultWriteEnd .. | .alwaysOnSupplyLoss => true
  | _ => false

theorem State.allows_notBoot {s : State} {c : Instr} (h : onStart c = false) : s.allows notBoot c := by
  cases c
  all_goals first
    | exact absurd h (ne_false_of_eq_true rfl)
    | simp [State.allows, notBoot]

theorem execRegisterWriteOther_turns {s : State} (a : Nat) (v : Word) : s.Turns (execRegisterWriteOther a v s) := by
  unfold execRegisterWriteOther
  refine .ofIte (fun _ => .same) fun _ => .ofIte (fun _ => .next (.refl _)) fun _ => .ofIte (fun _ => .same) fun _ => ?_
  refine .ofIte (fun _ => .next (.ofCore rfl rfl rfl rfl rfl rfl rfl)) fun _ => .ofIte (fun _ => .next ?_) fun _ =>
    .ofIte (fun _ => .next (.refl _)) fun _ => .next (.refl _)
  split <;> exact .refl _

theorem State.turns_of_notBoot {s : State} {c : Instr} (h : onStart c = false) : s.Turns (exec c s) := by
  obtain ⟨t, ht, hs⟩ := exec_ends c (State.allows_notBoot (s := s) h)
  exact ⟨t, ht, .ofEq (hs.boot id)⟩

theorem exec_turns (s : State) {c : Instr} (hr : isReset c = false) : s.Turns (exec c s) := by
  cases c
  case rstNAssert | alwaysOnSupplyLoss => cases hr
  case rstNDeassert x a b us => exact execRstNDeassert_turns x a b us
  case copyReadDone c img us => exact execCopyReadDone_turns c img us
  case clockCheck n us => exact execClockCheck_turns n us
  case repair r page logs us => exact execRepair_turns r page logs us
  case domainSwitchOn d => exact execDomainSwitchOn_turns d
  case load img us => exact execLoad_turns img us
  case linkTrainEnd t => exact execLinkTrainEnd_turns t
  case headListenEnd => exact execHeadListenEnd_turns
  case lockAcquired => exact execLockAcquired_turns
  case stitchLockTimeout us => exact execStitchLockTimeout_turns us
  case partitionUp us => exact execPartitionUp_turns us
  case keyProgram v => exact execKeyProgram_turns v
  case keyProgramDone => exact execKeyProgramDone_turns
  case pwrAlertRelease us => exact execPwrAlertRelease_turns us
  case thermTrip us => exact execThermTrip_turns us
  case registerWriteOther a v => exact execRegisterWriteOther_turns a v
  case energyWindowClose ops => exact execEnergyWindowClose_turns ops
  case resultWriteEnd ok => exact execResultWriteEnd_turns ok
  all_goals exact State.turns_of_notBoot rfl

/-! ### Reset -/

theorem resetBoot_started (k : List Word) : BootSt.started { resetBoot with keys := k } := by
  simp [BootSt.started, resetBoot]

/-- A reset keeps the key store and the promises of the start sequence. -/
theorem exec_boot_of_isReset {s t : State} {c : Instr} (hr : isReset c = true) (e : exec c s = .next t) :
    (s.boot.started → t.boot.started) ∧ t.boot.keys = s.boot.keys := by
  cases c
  case rstNAssert =>
    change execRstNAssert s = _ at e
    unfold execRstNAssert at e
    split at e
    · cases e
      exact ⟨id, rfl⟩
    · cases e
      exact ⟨fun _ => resetBoot_started _, rfl⟩
  case alwaysOnSupplyLoss =>
    cases e
    exact ⟨fun _ => resetBoot_started _, rfl⟩
  all_goals exact absurd hr Bool.false_ne_true

/-- Every command keeps a state sound. -/
theorem exec_sound {s t : State} {c : Instr} (h : s.sound) (e : exec c s = .next t) : t.sound := by
  have hs := exec_same (s.allows_of_all (F := fun _ => True) (fun _ => trivial) c) e
  have hb : (s.boot.started → t.boot.started) ∧ (s.boot.keys.length = 12 → t.boot.keys.length = 12) := by
    cases hr : isReset c with
    | true =>
      obtain ⟨h1, h2⟩ := exec_boot_of_isReset hr e
      exact ⟨h1, fun k => h2 ▸ k⟩
    | false =>
      obtain ⟨u, hu, hf⟩ := exec_turns s hr
      rw [e] at hu
      cases hu
      exact ⟨hf.started, hf.keysLen⟩
  obtain ⟨⟨hm, hg⟩, ⟨hparts, hgroups, hports, hkeys⟩, hst⟩ := h
  exact ⟨⟨hs.memWf hm, hs.regsWf hg⟩, ⟨hs.partsLen hparts, hs.groupsLen hgroups, hs.portsLen hports, hb.2 hkeys⟩, hb.1 hst⟩

/-- Settles O1: by the definition of a step. -/
theorem stepTakesFront : Obligations.StepTakesFront :=
  ⟨fun c rest s h => by rw [step, h], fun s h => by rw [step, h]⟩

/-- Settles O3: the queue is no part of what makes a state sound, and every command keeps a sound state sound. -/
theorem stepKeepsSound : Obligations.StepKeepsSound := by
  intro s h
  cases hq : s.pending with
  | nil => exact ⟨s, stepTakesFront.2 s hq, h⟩
  | cons c rest =>
    have hs : ({ s with pending := rest } : State).sound := h
    obtain ⟨t, ht, -⟩ := execKeepsQueue c { s with pending := rest }
    exact ⟨t, (stepTakesFront.1 c rest s hq).trans ht, exec_sound hs ht⟩

/-- Settles O2: by evaluation. -/
theorem resetSound : Obligations.ResetSound := by
  refine ⟨⟨⟨by decide, by decide⟩, ⟨rfl, rfl, rfl, rfl⟩, resetBoot_started _⟩, rfl, rfl⟩

/-- Settles O6. -/
theorem refusedStays : Obligations.RefusedStays := by
  constructor
  · intro c s t hs hr h15 e
    obtain ⟨u, hu, hf⟩ := exec_turns s hr
    rw [e] at hu
    cases hu
    exact hf.refused hs.2.2 h15
  · intro c s t n hs hn e
    cases hr : isReset c with
    | true => rw [(exec_boot_of_isReset hr e).2]
    | false =>
      obtain ⟨u, hu, hf⟩ := exec_turns s hr
      rw [e] at hu
      cases hu
      exact hf.keys hs.2.2 n hn

end Sys2Proof.Machine
end

section
/-! SUPPORT. Reading registers after events and counts: what `raise`, `bump` and `setReg` leave in each register and in
which families are on. -/

-- One declaration after another: the check bounds the memory, and with it the threads.
set_option Elab.async false

namespace Sys2Proof.Machine

theorem answers_of_exec {c : Instr} {s t : State} {P : State → Prop} (h : exec c s = .next t) (hP : P t) :
    answers c s P := ⟨t, h, hP⟩

theorem State.powered_congr {s t : State} (h : t.power.domOn = s.power.domOn) (a : Nat) :
    t.powered a = s.powered a := by
  unfold State.powered
  rw [h]

/-- Registers of one family are on together (R469). -/
theorem State.powered_of_family (s : State) {a b : Nat} (h : regDomains a = regDomains b) : s.powered a = s.powered b := by
  unfold State.powered
  rw [h]

theorem State.Same.powered {F : Touch → Prop} {s t : State} (h : s.Same F t) (hon : ¬F .on) (hoff : ¬F .press ∨ ¬F .regs)
    (a : Nat) : t.powered a = s.powered a := State.powered_congr (h.domOn hon hoff) a

theorem State.reg_congr {s t : State} (h : t.regs = s.regs) (a : Nat) : t.reg a = s.reg a := by
  unfold State.reg
  rw [h]

@[simp] theorem State.powered_setReg (s : State) (a b : Nat) (v : Word) : (s.setReg a v).powered b = s.powered b := rfl

@[simp] theorem State.powered_raise (s : State) (a i b : Nat) : (s.raise a i).powered b = s.powered b :=
  State.powered_congr (by simp) b

@[simp] theorem State.powered_bump (s : State) (a n b : Nat) : (s.bump a n).powered b = s.powered b :=
  State.powered_congr (by simp) b

theorem State.raise_with_regs (s : State) (a i : Nat) : s.raise a i = { s with regs := (s.raise a i).regs } := by
  unfold State.raise
  split <;> rfl

theorem State.bump_with_regs (s : State) (a n : Nat) : s.bump a n = { s with regs := (s.bump a n).regs } := by
  unfold State.bump
  split <;> rfl

theorem State.latch_with_regs (s : State) (a : Nat) (v : Word) :
    s.latch a v = { s with regs := (s.latch a v).regs } := by
  unfold State.latch
  split <;> rfl

theorem State.spWf_regs_raise {s : State} (h : spWf s.regs = true) (a i : Nat) : spWf (s.raise a i).regs = true := by
  unfold State.raise
  split
  · exact spWf_spSet _ _ _ h
  · exact h

theorem State.spWf_regs_bump {s : State} (h : spWf s.regs = true) (a n : Nat) : spWf (s.bump a n).regs = true := by
  unfold State.bump
  split
  · exact spWf_spSet _ _ _ h
  · exact h

theorem State.reg_raise_of_ne {s : State} (h : spWf s.regs = true) (i : Nat) {a b : Nat} (hb : b ≠ a) :
    (s.raise a i).reg b = s.reg b := by
  unfold State.raise
  split
  · exact State.reg_setReg_of_ne _ h hb
  · rfl

theorem State.reg_raise_self {s : State} (h : spWf s.regs = true) {a : Nat} (hp : s.powered a = true) (i : Nat) :
    (s.raise a i).reg a = s.reg a ||| BitVec.ofNat 32 (2 ^ i) := by
  rw [State.raise, if_pos hp, State.reg_setReg_self _ h]

theorem State.getLsbD_reg_raise {s : State} (h : spWf s.regs = true) {a i : Nat} (hp : s.powered a = true) (hi : i < 32) :
    ((s.raise a i).reg a).getLsbD i = true := by
  simp only [State.reg_raise_self h hp, BitVec.getLsbD_or, BitVec.getLsbD_ofNat, Nat.testBit_two_pow_self, hi,
    decide_true, Bool.and_true, Bool.or_true]

theorem State.reg_bump_ne {s : State} (h : spWf s.regs = true) (n : Nat) {a b : Nat} (hb : b ≠ a) :
    (s.bump a n).reg b = s.reg b := by
  unfold State.bump
  split
  · exact State.reg_setReg_of_ne _ h hb
  · rfl

theorem State.getLsbD_reg_raise_bump {s : State} (h : spWf s.regs = true) {a b i : Nat} (hp : s.powered a = true)
    (hi : i < 32) (n : Nat) (hb : a ≠ b) : (((s.raise a i).bump b n).reg a).getLsbD i = true := by
  rw [State.reg_bump_ne (State.spWf_regs_raise h _ _) n hb, State.getLsbD_reg_raise h hp hi]

theorem State.reg_bump_eq {s : State} (h : spWf s.regs = true) {a : Nat} (hp : s.powered a = true) (n : Nat) :
    (s.bump a n).reg a = satAdd (s.reg a) n := by
  rw [State.bump_of_powered hp, State.reg_setReg_self _ h]

theorem State.reg_raise_bump {s : State} (h : spWf s.regs = true) (a i : Nat) {b : Nat} (hp : s.powered b = true) (n : Nat)
    (hb : b ≠ a) : ((s.raise a i).bump b n).reg b = satAdd (s.reg b) n := by
  rw [State.reg_bump_eq (State.spWf_regs_raise h _ _) (by rwa [State.powered_raise]), State.reg_raise_of_ne h _ hb]

/-! ### What a sound state provides -/

section
variable {s : State} (h : s.sound)
include h

theorem State.sound.memWf : spWf s.mem = true := by
  obtain ⟨⟨hm, _⟩, _⟩ := h
  exact hm

theorem State.sound.regsWf : spWf s.regs = true := by
  obtain ⟨⟨_, hr⟩, _⟩ := h
  exact hr

theorem State.sound.partsLen : s.parts.length = 8 := by
  obtain ⟨_, ⟨hp, _⟩, _⟩ := h
  exact hp

theorem State.sound.groupsLen : s.groups.length = 64 := by
  obtain ⟨_, ⟨_, hg, _⟩, _⟩ := h
  exact hg

theorem State.sound.portsLen : s.link.ports.length = 36 := by
  obtain ⟨_, ⟨_, _, hp, _⟩, _⟩ := h
  exact hp

end

end Sys2Proof.Machine
end

section
/-! SUPPORT. The reset, the key store and the power pins: what each command of theirs answers (O7, O10, O11). -/

-- One declaration after another: the check bounds the memory, and with it the threads.
set_option Elab.async false

namespace Sys2Proof.Machine

theorem exec_rstNAssert_of_high {s : State} (h : s.boot.rstLow = false) : exec .rstNAssert s = .next
    { State.reset with
      pending := s.pending, free := s.free, mem := s.mem, recd := keepRec s.recd
      boot := { resetBoot with keys := s.boot.keys }
      power := { resetPower with alertLow := s.power.alertLow, thermLow := s.power.thermLow }
      self := { resetSelf with wrapper := 0 } } := by
  change execRstNAssert s = _
  simp [execRstNAssert, h]

theorem exec_rstNAssert_of_low {s : State} (h : s.boot.rstLow = true) : exec .rstNAssert s = .next s := by
  change execRstNAssert s = _
  simp [execRstNAssert, h]

theorem exec_alwaysOnSupplyUp_of_absent {s : State} (h : s.recd.present = false) :
    exec .alwaysOnSupplyUp s = .next { s with recd := resetRec } := by
  change execAlwaysOnSupplyUp s = _
  simp only [execAlwaysOnSupplyUp, h, Bool.false_eq_true, if_false]
  rfl

theorem exec_alwaysOnSupplyUp_of_present {s : State} (h : s.recd.present = true) :
    exec .alwaysOnSupplyUp s = .next s := by
  change execAlwaysOnSupplyUp s = _
  simp [execAlwaysOnSupplyUp, h]

/-- Settles O7. -/
theorem resetCompletes : Obligations.ResetCompletes := by
  unfold Obligations.ResetCompletes
  refine ⟨fun s h => ?_, fun s h => ?_, fun s => ⟨_, rfl, rfl⟩, fun s => ⟨fun h => ?_, fun h => ?_⟩⟩
  · exact answers_of_exec (exec_rstNAssert_of_high h)
      ⟨rfl, rfl, rfl, rfl, rfl, rfl, rfl, rfl, rfl, rfl, rfl, rfl, rfl, rfl, rfl⟩
  · exact answers_of_exec (exec_rstNAssert_of_low h) rfl
  · exact answers_of_exec (exec_alwaysOnSupplyUp_of_absent h) rfl
  · exact answers_of_exec (exec_alwaysOnSupplyUp_of_present h) rfl

/-! ### The key store -/

theorem exec_keyProgram_of_taken {s : State} {v : Word} (hr : s.boot.rstLow = false) (hgo : bit v.toNat 8 = true)
    (h : s.boot.state = 15 ∧ s.boot.code = 3 ∧ s.boot.keyBusy = none ∧ v.toNat % 16 < 12
      ∧ s.boot.keys.getD (v.toNat % 16) 0 = 0) :
    exec (.keyProgram v) s = .next { s.mgtAck with boot := { s.boot with
      keyWord := v.toNat % 16, keyErr := s.boot.keyErr && !bit v.toNat 17
      keyBusy := some (v.toNat % 16, s.boot.keyData) } } := by
  obtain ⟨hs, hc, hb, hn, hk⟩ := h
  have hb : s.boot.keyBusy.isNone = true := by rw [hb]; rfl
  change execKeyProgram v s = _
  simp only [execKeyProgram, State.mgtAck, hr, hgo, Bool.false_eq_true, if_false, Bool.not_true]
  rw [if_pos ⟨hs, hc, hb, hn, hk⟩]

theorem exec_keyProgram_of_wrong {s : State} {v : Word} (hr : s.boot.rstLow = false) (hgo : bit v.toNat 8 = true)
    (h : ¬(s.boot.state = 15 ∧ s.boot.code = 3 ∧ s.boot.keyBusy = none ∧ v.toNat % 16 < 12
      ∧ s.boot.keys.getD (v.toNat % 16) 0 = 0)) :
    exec (.keyProgram v) s = .next { s.mgtAck with boot := { s.boot with
      keyWord := v.toNat % 16, keyErr := true } } := by
  rw [← Option.isNone_iff_eq_none] at h
  change execKeyProgram v s = _
  simp only [execKeyProgram, State.mgtAck, hr, hgo, Bool.false_eq_true, if_false, Bool.not_true]
  rw [if_neg h]

/-- Settles O10. -/
theorem keyStoreCompletes : Obligations.KeyStoreCompletes := by
  unfold Obligations.KeyStoreCompletes
  refine ⟨fun s v hr hgo => ⟨fun hs hc hb hn hk => ?_, fun h => ?_⟩, fun s n w h => ?_⟩
  · exact answers_of_exec (exec_keyProgram_of_taken hr hgo ⟨hs, hc, hb, hn, hk⟩) ⟨rfl, rfl, rfl⟩
  · refine answers_of_exec (exec_keyProgram_of_wrong hr hgo ?_) ⟨rfl, rfl, rfl⟩
    rintro ⟨hs, hc, hb, hn, hk⟩
    rcases h with h | h | h | h | h
    · exact h hs
    · exact h hc
    · exact h hb
    · omega
    · exact h hk
  · have e : exec .keyProgramDone s
        = .next { s with boot := { s.boot with keys := setAt s.boot.keys n (fun _ => w), keyBusy := none } } := by
      change execKeyProgramDone s = _
      simp [execKeyProgramDone, h]
    refine answers_of_exec e ⟨rfl, fun hn => ?_, fun k hk => ?_⟩
    · exact (getD_setAt s.boot.keys n n (fun _ => w) 0).trans (if_pos ⟨rfl, hn⟩)
    · exact (getD_setAt s.boot.keys n k (fun _ => w) 0).trans (if_neg fun h => hk h.1.symm)

/-! ### The power pins -/

theorem State.powerRefuse_eq_with_self (s : State) : s.powerRefuse = { s with self := s.powerRefuse.self } := by
  unfold State.powerRefuse
  split <;> rfl

theorem State.lowWindow_eq_with_power (s : State) : ∃ w,
    s.lowWindow = { s with power := { s.power with lowWin := w } } := by
  unfold State.lowWindow
  split
  · exact ⟨_, rfl⟩
  · exact ⟨_, rfl⟩

/-- A pin that goes low notes its window and ends a test, and touches nothing else. -/
theorem State.lowWindow_powerRefuse_eq (s : State) : ∃ w x,
    s.lowWindow.powerRefuse = { s with power := { s.power with lowWin := w }, self := x } := by
  obtain ⟨w, h⟩ := s.lowWindow_eq_with_power
  exact ⟨w, _, by rw [State.powerRefuse_eq_with_self, h]⟩

theorem exec_pwrAlert_eq {s : State} (hr : s.boot.rstLow = false) (ha : s.power.alertLow = false) :
    exec .pwrAlert s = .next
      ((({ s with power := { s.power with alertLow := true } } : State).raise rPWR_EVT 0).bump
        rPWR_ALERT_CNT 1).lowWindow.powerRefuse := by
  change execPwrAlert s = _
  simp [execPwrAlert, hr, ha]

theorem exec_thermTrip_eq (us : Nat) {s : State} (hr : s.boot.rstLow = false) (ht : s.power.thermLow = false) :
    let u := ((({ s with power := { s.power with thermLow := true } } : State).raise rPWR_EVT 1).bump
      rTHERM_CNT 1).lowWindow.powerRefuse
    exec (.thermTrip us) s
      = .next (if 1 ≤ s.boot.state ∧ s.boot.state ≤ 10 then u.refuseStart 13 0 us else u) := by
  intro u
  change execThermTrip us s = _
  have hb : u.boot = s.boot := by
    obtain ⟨w, x, e⟩ := State.lowWindow_powerRefuse_eq
      ((({ s with power := { s.power with thermLow := true } } : State).raise rPWR_EVT 1).bump rTHERM_CNT 1)
    simp [u, e]
  simp only [execThermTrip, hr, ht, Bool.false_eq_true, if_false]
  rw [show (_ : State).boot = s.boot from hb]
  split <;> rfl

@[simp] theorem State.refuseStart_thermLow (s : State) (c d us : Nat) :
    (s.refuseStart c d us).power.thermLow = s.power.thermLow := by
  obtain ⟨d, r, e⟩ := s.domainsOff_power (List.range 46)
  simp [State.refuseStart, State.rampsOff, e]

@[simp] theorem State.refuseStart_alertLow (s : State) (c d us : Nat) :
    (s.refuseStart c d us).power.alertLow = s.power.alertLow := by
  obtain ⟨d, r, e⟩ := s.domainsOff_power (List.range 46)
  simp [State.refuseStart, State.rampsOff, e]

/-- A pin that goes low, counted (R438, R439). -/
theorem State.pinLow_spec {s : State} (hwf : spWf s.regs = true) (i a : Nat) (ha : a ≠ rPWR_EVT)
    (hp : s.powered a = true) : ∃ r w x,
    ((s.raise rPWR_EVT i).bump a 1).lowWindow.powerRefuse
        = { s with regs := r, power := { s.power with lowWin := w }, self := x }
      ∧ spGet r a = satAdd (s.reg a) 1 := by
  obtain ⟨w, x, e⟩ := State.lowWindow_powerRefuse_eq ((s.raise rPWR_EVT i).bump a 1)
  refine ⟨((s.raise rPWR_EVT i).bump a 1).regs, w, x, ?_, ?_⟩
  · rw [e, State.bump_with_regs, State.raise_with_regs]
  · change ((s.raise rPWR_EVT i).bump a 1).reg a = _
    rw [State.reg_bump_eq (State.spWf_regs_raise hwf _ _) (by simpa using hp), State.reg_raise_of_ne hwf _ ha]

/-- Settles O11. -/
theorem powerPinsComplete : Obligations.PowerPinsComplete := by
  unfold Obligations.PowerPinsComplete
  refine ⟨fun s hr ha hwf hp => ?_, fun s us ha => ⟨fun hw => ?_, fun hw => ?_⟩,
    fun s us hr ht => ⟨fun hs hwf hp => ?_, fun hlo hhi => ?_⟩, fun s ht => ?_⟩
  · obtain ⟨r, w, x, e, hreg⟩ := State.pinLow_spec (s := { s with power := { s.power with alertLow := true } }) hwf 0
      rPWR_ALERT_CNT (by decide) hp
    exact answers_of_exec (exec_pwrAlert_eq hr ha) (by rw [e]; exact ⟨rfl, hreg, rfl, rfl⟩)
  · have e : exec (.pwrAlertRelease us) s = .next { s with power := { s.power with
        alertLow := false, resume := !s.boot.rstLow
        rampOn := !s.power.ramps.isEmpty && !s.power.thermLow } } := by
      change execPwrAlertRelease us s = _
      simp [execPwrAlertRelease, ha, hw]
    exact answers_of_exec e ⟨rfl, rfl, rfl, rfl⟩
  · have e : exec (.pwrAlertRelease us) s = .next (({ s with power := { s.power with
        alertLow := false, resume := !s.boot.rstLow
        rampOn := !s.power.ramps.isEmpty && !s.power.thermLow } } : State).enterWork 8 us) := by
      change execPwrAlertRelease us s = _
      simp [execPwrAlertRelease, ha, hw, State.enterNow]
    refine answers_of_exec e ?_
    exact ⟨rfl, rfl, rfl⟩
  · obtain ⟨r, w, x, e, hreg⟩ := State.pinLow_spec (s := { s with power := { s.power with thermLow := true } }) hwf 1
      rTHERM_CNT (by decide) hp
    have h := exec_thermTrip_eq us hr ht
    simp only [hs, if_neg (show ¬(1 ≤ 11 ∧ 11 ≤ 10) by decide)] at h
    exact answers_of_exec h (by rw [e]; exact ⟨rfl, hreg, rfl⟩)
  · have h := exec_thermTrip_eq us hr ht
    simp only [if_pos (show 1 ≤ s.boot.state ∧ s.boot.state ≤ 10 from ⟨hlo, hhi⟩)] at h
    obtain ⟨w, x, e⟩ := State.lowWindow_powerRefuse_eq
      ((({ s with power := { s.power with thermLow := true } } : State).raise rPWR_EVT 1).bump rTHERM_CNT 1)
    exact answers_of_exec h (by simp [e])
  · have e : exec .thermTripRelease s = .next { s with power := { s.power with
        thermLow := false, resume := !s.boot.rstLow
        rampOn := !s.power.ramps.isEmpty && !s.power.alertLow } } := by
      change execThermTripRelease s = _
      simp [execThermTripRelease, ht]
    exact answers_of_exec e ⟨rfl, rfl, rfl, rfl⟩

end Sys2Proof.Machine
end

section
/-! SUPPORT. The start from the rise of RST_N to the copy selected (O8). -/

-- One declaration after another: the check bounds the memory, and with it the threads.
set_option Elab.async false

namespace Sys2Proof.Machine

/-! ### The rise of RST_N -/

@[simp] theorem State.domainsOff_thermLow (s : State) (ns : List Nat) : (s.domainsOff ns).power.thermLow = s.power.thermLow := by
  obtain ⟨d, r, e⟩ := s.domainsOff_power ns
  rw [e]

section
variable {s : State} (x : SfdpRead) (a b : Bytes) (us : Nat) (hr : s.boot.rstLow = true) (hp : s.recd.present = true)
include hr hp

theorem exec_rstNDeassert_of_unfused (hk : s.boot.keys.all (· == 0) = true) :
    exec (.rstNDeassert x a b us) s = .next (({ (s.domainsOff (List.range 46)).rampsOff with
      self := resetSelf, boot := { s.boot with rstLow := false, state := 1, xfers := [.reset 10] } } : State).refuseStart
        3 0 us) := by
  change execRstNDeassert x a b us s = _
  simp only [execRstNDeassert, hr, hp, Bool.not_true, Bool.or_self, Bool.false_eq_true, if_false, State.rampsOff,
    State.domainsOff_boot, hk, if_true]

theorem exec_rstNDeassert_of_hot (hk : s.boot.keys.all (· == 0) = false) (ht : s.power.thermLow = true) :
    exec (.rstNDeassert x a b us) s = .next (({ (s.domainsOff (List.range 46)).rampsOff with
      self := resetSelf, boot := { s.boot with rstLow := false, state := 1, xfers := [.reset 10] } } : State).refuseStart
        13 0 us) := by
  change execRstNDeassert x a b us s = _
  simp only [execRstNDeassert, hr, hp, Bool.not_true, Bool.or_self, Bool.false_eq_true, if_false, State.rampsOff,
    State.domainsOff_boot, hk, State.domainsOff_thermLow, ht, if_true]

/-- The flash is reset, and the SFDP area and both headers are read (R62, R63, R89). -/
theorem exec_rstNDeassert_of_sound (hk : s.boot.keys.all (· == 0) = false) (ht : s.power.thermLow = false) : ∃ o,
    exec (.rstNDeassert x a b us) s = .next { (s.domainsOff (List.range 46)).rampsOff with
      self := resetSelf
      boot := { s.boot with
        rstLow := false, state := 1, sfdp := parseSfdp x, hdrA := a.take 512, hdrB := b.take 512, octalMode := o
        xfers := [.reset 10] ++ (sfdpXfers x ++ [.single 0 512, .single 0x2000000 512]) } } := by
  change ∃ o, execRstNDeassert x a b us s = _
  simp only [execRstNDeassert, hr, hp, Bool.not_true, Bool.or_self, Bool.false_eq_true, if_false, State.rampsOff,
    State.domainsOff_boot, hk, State.domainsOff_thermLow, ht]
  exact ⟨_, rfl⟩

end

/-! ### The copies -/

theorem copyReason_le (keys : List Word) (img : Bytes) : copyReason keys img ≤ 7 := by
  unfold copyReason
  have step {p : Prop} [Decidable p] {a b : Nat} (ha : a ≤ 7) (hb : b ≤ 7) : (if p then a else b) ≤ 7 := by
    split <;> assumption
  exact step (by decide) (step (by decide) (step (by decide) (step (by decide) (step (by decide) (step (by decide)
    (step (by decide) (by decide)))))))

@[simp] theorem State.refuseStart_recd (s : State) (c d us : Nat) : (s.refuseStart c d us).recd = s.recd := by
  obtain ⟨r, p, cs, w, e, -⟩ := s.domainsOff_eq (List.range 46)
  simp [State.refuseStart, State.rampsOff, e]

theorem State.enterWork_three (s : State) (us : Nat) :
    let u := { s with boot := { s.boot with state := 3, waiting := none } }
    let c := selectCode (selHdr u.boot) u.boot.sfdp
    s.enterWork 3 us = if c ≠ 0 then u.refuseStart c 0 us
      else { u with recd := { u.recd with resultOfs := some (fld (selHdr u.boot) 0x40 4) } } := rfl

/-- CLOCK_CHECK, whether it is entered, waited for or refused, leaves the choice of the copy. -/
theorem State.enter_three_choice (s : State) (us : Nat) :
    (s.enter 3 us).boot.copySel = s.boot.copySel ∧ (s.enter 3 us).boot.copyRej = s.boot.copyRej
      ∧ (s.enter 3 us).boot.imgHash = s.boot.imgHash ∧ (s.enter 3 us).recd.rejected = s.recd.rejected := by
  rw [State.enter]
  split
  · exact ⟨rfl, rfl, rfl, rfl⟩
  · rw [State.enterWork_three]
    extract_lets u c
    split
    · simp [u]
    · exact ⟨rfl, rfl, rfl, rfl⟩

theorem State.takeCopy_spec (s : State) (c : CopyId) (rej : Bool) (us : Nat) :
    (s.takeCopy c rej us).boot.copySel = some c ∧ (s.takeCopy c rej us).boot.copyRej = rej
      ∧ (s.takeCopy c rej us).boot.imgHash = imgHashOf (if c = .a then s.boot.imgA else s.boot.imgB)
      ∧ (s.takeCopy c rej us).recd.rejected = (s.recd.rejected || rej) :=
  State.enter_three_choice _ us

section
variable {s : State} (us : Nat) (ha : s.boot.reasonA = 0)
include ha

theorem State.selectCopy_of_bad (hb : s.boot.reasonB ≠ 0) : s.selectCopy us = s.takeCopy .a true us := by
  have hb : (s.boot.reasonB == 0) = false := by simpa using hb
  simp only [State.selectCopy, ha, hb, beq_self_eq_true]

variable (hb : s.boot.reasonB = 0)
include hb

theorem State.selectCopy_of_older (h : fld s.boot.imgA 8 4 < fld s.boot.imgB 8 4) :
    s.selectCopy us = s.takeCopy .b false us := by
  simp only [State.selectCopy, ha, hb, beq_self_eq_true, if_neg (Nat.not_lt_of_lt h), if_pos h]

theorem State.selectCopy_of_newer (h : fld s.boot.imgB 8 4 < fld s.boot.imgA 8 4) :
    s.selectCopy us = s.takeCopy .a false us := by
  simp only [State.selectCopy, ha, hb, beq_self_eq_true, if_pos h]

theorem State.selectCopy_of_conflict (h : fld s.boot.imgA 8 4 = fld s.boot.imgB 8 4)
    (hh : imgHashOf s.boot.imgA ≠ imgHashOf s.boot.imgB) : s.selectCopy us = s.refuseStart 2 0 us := by
  simp only [State.selectCopy, ha, hb, beq_self_eq_true, h, lt_irrefl, if_false, if_neg hh]

/-- Of two valid copies that of the higher generation is taken; a conflict refuses the start (R87). -/
theorem State.selectCopy_of_valid :
    (fld s.boot.imgA 8 4 < fld s.boot.imgB 8 4 → (s.selectCopy us).boot.copySel = some .b
        ∧ (s.selectCopy us).boot.copyRej = false ∧ (s.selectCopy us).boot.imgHash = imgHashOf s.boot.imgB)
      ∧ (fld s.boot.imgB 8 4 < fld s.boot.imgA 8 4 → (s.selectCopy us).boot.copySel = some .a
        ∧ (s.selectCopy us).boot.copyRej = false ∧ (s.selectCopy us).boot.imgHash = imgHashOf s.boot.imgA)
      ∧ (fld s.boot.imgB 8 4 = fld s.boot.imgA 8 4 → imgHashOf s.boot.imgA ≠ imgHashOf s.boot.imgB →
        (s.selectCopy us).boot.state = 15 ∧ (s.selectCopy us).boot.code = 2
          ∧ (s.selectCopy us).boot.startUs = us) := by
  refine ⟨fun h => ?_, fun h => ?_, fun h hh => ?_⟩
  · rw [State.selectCopy_of_older us ha hb h]
    obtain ⟨h1, h2, h3, -⟩ := State.takeCopy_spec s .b false us
    exact ⟨h1, h2, h3⟩
  · rw [State.selectCopy_of_newer us ha hb h]
    obtain ⟨h1, h2, h3, -⟩ := State.takeCopy_spec s .a false us
    exact ⟨h1, h2, h3⟩
  · rw [State.selectCopy_of_conflict us ha hb h.symm hh]
    simp

end

theorem exec_copyReadDone_of_first {s : State} (img : Bytes) (us : Nat) (hr : s.boot.rstLow = false)
    (hs : s.boot.state = 1) (hw : s.boot.waiting = none) (ha : s.boot.reasonA = 15) (hb : s.boot.reasonB = 15) :
    exec (.copyReadDone .a img us) s = .next { s with boot := { s.boot with
      hdrA := img.take 512, imgA := img, reasonA := copyReason s.boot.keys img, againA := false
      xfers := s.boot.xfers ++ [if s.boot.octalMode then .octal 0 img.length else .single 0 img.length] } } := by
  have hn : copyReason s.boot.keys img ≠ 15 := by
    have := copyReason_le s.boot.keys img
    omega
  change execCopyReadDone .a img us s = _
  simp [execCopyReadDone, nextCopy, storeCopy, BootSt.readXfer, copyAt, hr, hs, hw, ha, hb, hn]

/-- With the second copy read, the copy is selected (R87). -/
theorem exec_copyReadDone_of_second {s : State} (img : Bytes) (us : Nat) (hr : s.boot.rstLow = false)
    (hs : s.boot.state = 1) (hw : s.boot.waiting = none) (hl : s.power.alertLow = false) (ha : s.boot.reasonA = 0)
    (hb : s.boot.reasonB = 15) (hga : s.boot.againA = false) :
    ∃ u : State, exec (.copyReadDone .b img us) s = .next (u.selectCopy us) ∧ u.boot.reasonA = 0
      ∧ u.boot.reasonB = copyReason s.boot.keys img ∧ u.boot.imgA = s.boot.imgA ∧ u.boot.imgB = img := by
  refine ⟨{ s with boot := { storeCopy (s.boot.readXfer .b s.boot.octalMode img.length) .b img
    (copyReason s.boot.keys img) with state := 2, waiting := none } }, ?_, ha, rfl, rfl, rfl⟩
  have hn : copyReason s.boot.keys img ≠ 15 := by
    have := copyReason_le s.boot.keys img
    omega
  change execCopyReadDone .b img us s = _
  simp [execCopyReadDone, nextCopy, storeCopy, BootSt.readXfer, hr, hs, hw, ha, hb, hn, hga, State.enterAuth, hl, State.auth]

/-- Settles O8. -/
theorem startBegins : Obligations.StartBegins := by
  unfold Obligations.StartBegins
  refine ⟨fun s x a b us hr hp ht hk => ?_, fun s x a b us hr hp hk => ?_, fun s x a b us hr hp ht hk => ?_,
    fun s img us hr hs hw ha hb => ?_, fun s img us hr hs hw hl ha hb hga hgb => ?_, fun s us ha hb => ?_⟩
  · obtain ⟨o, e⟩ := exec_rstNDeassert_of_sound x a b us hr hp hk ht
    obtain ⟨r, p, cs, w, eo, -⟩ := s.domainsOff_eq (List.range 46)
    refine answers_of_exec e ⟨rfl, rfl, rfl, rfl, rfl, rfl, rfl, ?_, ?_, ?_⟩
    · simp only [State.rampsOff, eo]
    · simp only [State.rampsOff]
    · simp only [State.rampsOff, eo]
  · exact answers_of_exec (exec_rstNDeassert_of_unfused x a b us hr hp hk) (by simp)
  · exact answers_of_exec (exec_rstNDeassert_of_hot x a b us hr hp hk ht) (by simp)
  · exact answers_of_exec (exec_copyReadDone_of_first img us hr hs hw ha hb) rfl
  · obtain ⟨u, e, hua, hub, hia, hib⟩ := exec_copyReadDone_of_second img us hr hs hw hl ha hb hga
    refine answers_of_exec e ⟨fun hn => ?_, fun h0 => ?_⟩
    · rw [State.selectCopy_of_bad us hua (hub ▸ hn), ← hia]
      obtain ⟨h1, h2, h3, h4⟩ := State.takeCopy_spec u .a true us
      exact ⟨h1, h2, h3, h4.trans (Bool.or_true _)⟩
    · have h := State.selectCopy_of_valid us hua (hub.trans h0)
      rw [hia, hib] at h
      exact h
  · obtain ⟨hold, hnew, hsame⟩ := State.selectCopy_of_valid us ha hb
    exact ⟨hold, hnew, fun h hh => (hsame h.symm hh).imp_right And.left⟩

end Sys2Proof.Machine
end

section
/-! SUPPORT. The states of the start, from CLOCK_CHECK to RUNNING (O9). -/

-- One declaration after another: the check bounds the memory, and with it the threads.
set_option Elab.async false

namespace Sys2Proof.Machine

@[simp] theorem State.refuseStart_img (s : State) (c d us : Nat) : (s.refuseStart c d us).img = s.img := by
  obtain ⟨r, p, cs, w, e, -⟩ := s.domainsOff_eq (List.range 46)
  simp [State.refuseStart, State.rampsOff, e]

theorem State.enter_of_free {s : State} (h : s.power.alertLow = false) (n us : Nat) : s.enter n us = s.enterWork n us := by
  rw [State.enter, h, if_neg Bool.false_ne_true]

section
variable {s : State} {cycles : Nat} (us : Nat) (hr : s.boot.rstLow = false) (hs : s.boot.state = 3)
  (hw : s.boot.waiting = none)
include hr hs hw

theorem exec_clockCheck_eq : exec (.clockCheck cycles us) s = .next
    (let nom := 10000 + 1000 * fld (selHdr s.boot) 0x14 1
     if nom < 200 * (if cycles < nom then nom - cycles else cycles - nom) then s.refuseStart 5 0 us
     else s.enter 4 us) := by
  change execClockCheck cycles us s = _
  simp only [execClockCheck, hr, hs, hw, Option.isSome_none, Bool.false_eq_true, ne_eq, not_true_eq_false, or_self,
    if_false]
  exact (apply_ite Host.Outcome.next _ _ _).symm

end

/-- The parts of the record that REPAIR reads are absent where there is no record (R90, R91). -/
theorem unitsOf_nil (h : Bytes) :
    (unitsOf h []).arrays = 2 ^ 32 - 1 ∧ (unitsOf h []).folds = 15 ∧ (unitsOf h []).memPorts = 4095
      ∧ (unitsOf h []).links = maskOf 36 (fun p => !portAbsent h p) := by
  refine ⟨rfl, rfl, rfl, ?_⟩
  simp only [unitsOf]
  congr 1
  funext p
  have hb : bit (fld [] 36 8) p = false := by
    have h0 : fld [] 36 8 = 0 := by decide
    rw [h0, bit_eq_testBit, Nat.zero_testBit]
  rw [hb, Bool.not_false, Bool.true_and]

theorem State.readLog_only (s : State) (logs : List Bytes) (snap : Option Bytes) :
    s.Same (· = .recd) (s.readLog logs snap) := State.readLog_same logs snap (.refl s) rfl

@[simp] theorem selHdr_repairReads (b : BootSt) (r : Option Bytes) (logs : List Bytes) :
    selHdr (b.repairReads r logs) = selHdr b := by
  obtain ⟨x, e⟩ := b.repairReads_eq r logs
  rw [e]
  rfl

theorem exec_repair_of_none {s : State} (page : Byte) (logs : List Bytes) (us : Nat) (hr : s.boot.rstLow = false)
    (hs : s.boot.state = 4) (hw : s.boot.waiting = none) :
    ∃ u : State, exec (.repair none page logs us) s = .next (u.enter 5 us) ∧ u.power.alertLow = s.power.alertLow
      ∧ u.units = unitsOf (selHdr s.boot) [] ∧ u.boot.noRecord = true ∧ u.boot.stale = false := by
  have hu := State.readLog_only { s with boot := s.boot.repairReads none logs } (logs.take 64) none
  have hb := hu.boot (by simp)
  have hc : ¬clustersClosed (coresClosed (fld [] 28 4) (fld [] 32 1)) (fld [] 33 1) = 15 := by decide
  have hm : ¬(unitsOf (selHdr s.boot) []).memPorts ≠ 4095 := not_not.mpr (unitsOf_nil _).2.2.1
  change ∃ u : State, execRepair none page logs us s = _ ∧ _
  simp only [execRepair, hr, hs, hw, Option.isSome_none, Bool.false_eq_true, ne_eq, not_true_eq_false, or_self, if_false,
    Option.filter_none, Option.getD_none, Option.map_none, Option.isNone_none, Bool.false_and, hb, selHdr_repairReads,
    if_neg hc, hm]
  exact ⟨_, rfl, (hu.pins (by simp)).1, rfl, rfl, rfl⟩

/-! ### LOAD and the states after it -/

theorem State.drainRsps_of_nil {s : State} (h : s.seam.rspWait = []) : s.drainRsps = s := by
  simp only [State.drainRsps, h, List.length_nil, State.driveRsps]

section
variable {s : State} {img : Bytes} (us : Nat) (hr : s.boot.rstLow = false) (hs : s.boot.state = 6)
  (hw : s.boot.waiting = none)
include hr hs hw

theorem exec_load_of_mismatch (h : imgHashOf img ≠ s.boot.imgHash) :
    exec (.load img us) s = .next (({ s with
      boot := s.boot.readXfer (s.boot.copySel.getD .a) s.boot.octalSel img.length } : State).refuseStart 4 0 us) := by
  have h' : imgHashOf img ≠ (s.boot.readXfer (s.boot.copySel.getD .a) s.boot.octalSel img.length).imgHash := h
  change execLoad img us s = _
  simp only [execLoad, hr, hs, hw, Option.isSome_none, Bool.false_eq_true, ne_eq, not_true_eq_false, or_self, if_false]
  rw [if_pos h']

theorem exec_load_of_sound (h : imgHashOf img = s.boot.imgHash) (hn : s.seam.rspWait = [])
    (hb : firstBadSection { hdr := img.take 512, sections := sectionsOf img } = none) : ∃ u : State,
    exec (.load img us) s = .next (u.enter 7 us) ∧ u.power.alertLow = s.power.alertLow
      ∧ u.img = { hdr := img.take 512, sections := sectionsOf img } ∧ u.seam.crdIp = fld (img.take 512) 0x30 1 := by
  have h' : ¬imgHashOf img ≠ (s.boot.readXfer (s.boot.copySel.getD .a) s.boot.octalSel img.length).imgHash :=
    not_not.mpr h
  change ∃ u : State, execLoad img us s = _ ∧ _
  simp only [execLoad, hr, hs, hw, Option.isSome_none, Bool.false_eq_true, ne_eq, not_true_eq_false, or_self, if_false,
    if_neg h', hb]
  refine ⟨_, rfl, ?_⟩
  rw [State.drainRsps_of_nil (by exact hn)]
  exact ⟨rfl, rfl, rfl⟩

end

/-- The partitions that come UP leave the start state, the image, the recorder and the pins. -/
theorem exec_partitionUp_of_run {s : State} (us : Nat) (hr : s.boot.rstLow = false) (hs : s.boot.state = 10)
    (hw : s.boot.waiting = none) : ∃ u : State, exec (.partitionUp us) s = .next (u.enter 11 us)
      ∧ u.power.alertLow = s.power.alertLow ∧ u.img = s.img := by
  have e : ∃ u : State, execPartitionUp us s = .next (u.enter 11 us)
      ∧ s.Same (fun x => x ≠ .pins ∧ x ≠ .img) u := by
    simp only [execPartitionUp, hr, hs, hw, Option.isSome_none, Bool.false_eq_true, ne_eq, not_true_eq_false, or_self,
      if_false]
    refine ⟨_, rfl, State.domainsOff_same _ (State.Same.upd (.foldl _ _ (fun u p hu => State.showSlices_same p hu ?_)
      (.foldl _ _ (fun u p hu => State.bringUp_same p hu ?_ ?_ ?_ ?_ ?_ ?_ ?_ ?_ ?_ ?_ ?_ ?_ ?_)
        (.foldl _ _ (fun u p hu => State.loadTables_same p hu ?_ ?_)
          (.foldl _ _ (fun u p hu => State.replan_same p hu ?_) (.refl s))))) rfl rfl rfl rfl rfl
        (h6 := .inr ?_)) ?_ ?_ ?_ ?_⟩
    all_goals simp
  obtain ⟨u, e, hu⟩ := e
  exact ⟨u, e, (hu.pins (by simp)).1, hu.img (by simp)⟩

/-- Settles O9. -/
theorem startStatesComplete : Obligations.StartStatesComplete := by
  unfold Obligations.StartStatesComplete
  refine ⟨fun s cycles us hr hs hw => ?_, fun s page logs us hr hs hw ha => ?_,
    fun s dom d rest hr hon hl => ?_, fun s img us hr hs hw => ⟨fun h => ?_, fun h ha hn hb => ?_⟩,
    fun s hr ha => ⟨fun hs hw => ?_, fun hs hw hh hst => ?_, fun hs hh hst hl => ?_⟩,
    fun s us hr hs hw hh hst => ?_, fun s us hr hs hw ha => ?_⟩
  · intro nom
    refine ⟨fun ha hlo hhi => ?_, fun hout => ?_⟩
    · refine answers_of_exec ((exec_clockCheck_eq us hr hs hw).trans (congrArg _ (if_neg ?_))) ?_
      · change ¬nom < 200 * (if cycles < nom then nom - cycles else cycles - nom)
        split <;> omega
      · rw [State.enter_of_free ha]
        exact ⟨rfl, rfl, rfl⟩
    · refine answers_of_exec ((exec_clockCheck_eq us hr hs hw).trans (congrArg _ (if_pos ?_))) (by simp)
      change nom < 200 * (if cycles < nom then nom - cycles else cycles - nom)
      split <;> omega
  · obtain ⟨u, e, hp, hu, hn, hst⟩ := exec_repair_of_none page logs us hr hs hw
    refine answers_of_exec e ?_
    rw [State.enter_of_free (hp.trans ha)]
    obtain ⟨h1, h2, h3, h4⟩ := unitsOf_nil (selHdr s.boot)
    rw [← hu] at h1 h2 h3 h4
    exact ⟨rfl, hn, hst, h1, h2, h3, h4, rfl⟩
  · have e : exec (.domainSwitchOn dom) s = .next { s.domainOn dom with power := { (s.domainOn dom).power with
        ramps := d :: rest, rampOn := !(s.power.alertLow || s.power.thermLow) } } := by
      change execDomainSwitchOn dom s = _
      simp [execDomainSwitchOn, hl, hon, hr]
      rfl
    exact answers_of_exec e ⟨rfl, rfl, rfl, rfl, rfl⟩
  · exact answers_of_exec (exec_load_of_mismatch us hr hs hw h) (by simp)
  · obtain ⟨u, e, hu, hi, hc⟩ := exec_load_of_sound us hr hs hw h hn hb
    refine answers_of_exec e ?_
    rw [State.enter_of_free (hu.trans ha)]
    exact ⟨rfl, congrArg ImgSt.hdr hi, congrArg ImgSt.sections hi, hc⟩
  · have e : exec (.linkTrainEnd true) s = .next (s.enter 9 0) := by
      change execLinkTrainEnd true s = _
      simp [execLinkTrainEnd, hr, hs, hw]
    refine answers_of_exec e ?_
    rw [State.enter_of_free ha]
    exact ⟨rfl, rfl, rfl⟩
  · have e : exec .headListenEnd s = .next (({ s with stitch := { s.stitch with
        count := s.stitch.heard.getD 0, state := 3, phasePs := 0 } } : State).enter 10 0) := by
      change execHeadListenEnd s = _
      simp [execHeadListenEnd, hr, hs, hw, hh, hst]
    refine answers_of_exec e ?_
    rw [State.enter_of_free (by exact ha)]
    exact ⟨rfl, rfl, rfl⟩
  · have e : exec .lockAcquired s = .next (({ s with stitch := { s.stitch with
        state := 1, relocked := false, badRun := 0 } } : State).enter 10 0) := by
      change execLockAcquired s = _
      simp [execLockAcquired, hr, hs, hh, hst, hl]
    refine answers_of_exec e ?_
    rw [State.enter_of_free (by exact ha)]
    exact ⟨rfl, rfl, rfl⟩
  · have e : exec (.stitchLockTimeout us) s = .next (s.refuseStart 12 0 us) := by
      change execStitchLockTimeout us s = _
      simp [execStitchLockTimeout, hr, hs, hw, hh, hst]
    exact answers_of_exec e (by simp)
  · obtain ⟨u, e, hu, hi⟩ := exec_partitionUp_of_run us hr hs hw
    refine answers_of_exec e ?_
    rw [State.enter_of_free (hu.trans ha)]
    simp only [State.enterWork, State.raise_boot, State.raise_recd, State.raise_img, hi, and_self]

end Sys2Proof.Machine
end

section
/-! SUPPORT. The accesses of single registers: W1C clears, split reads and the plain and runtime writes (O18, O21, O22,
O23). -/

-- One declaration after another: the check bounds the memory, and with it the threads.
set_option Elab.async false

namespace Sys2Proof.Machine

/-! ### W1C registers -/

theorem getLsbD_w1cWord (old v set : Word) (m : Nat) {i : Nat} (hi : i < 32) :
    (w1cWord old v set (BitVec.ofNat 32 m)).getLsbD i
      = ((old.getLsbD i && !v.getLsbD i) || (set.getLsbD i && m / 2 ^ i % 2 == 1)) := by
  simp only [w1cWord, BitVec.getLsbD_or, BitVec.getLsbD_and, BitVec.getLsbD_not, BitVec.getLsbD_ofNat, hi, decide_true,
    Bool.true_and, Nat.testBit_eq_decide_div_mod_eq, beq_eq_decide]

theorem exec_w1cClear_eq {s : State} {a : Nat} (v now : Word) (hr : s.boot.rstLow = false) (hb : s.mgtBad a = false)
    (hk : kindAt a = some .w1c) (hg : statusGroup a = none) :
    exec (.w1cClear a v now) s = .next (s.mgtAck.setReg a (w1cWord (s.reg a) v
      (if a = rGLOBAL_EVT ∧ s.boot.state = 15 then now ||| 1 else now) (BitVec.ofNat 32 (evtMask a)))) := by
  change execW1cClear a v now s = _
  simp only [execW1cClear, hr, hb, hk, hg, Bool.false_eq_true, if_false, ne_eq, not_true_eq_false]
  rfl

theorem State.mgtBad_of_powered {s : State} {a : Nat} (hk : kindAt a ≠ none) (hp : s.powered a = true) :
    s.mgtBad a = false := by
  rw [Bool.eq_false_iff, ne_eq, State.mgtBad_iff]
  rintro (h | h)
  · exact hk h
  · exact absurd hp (ne_true_of_eq_false h)

/-- Settles O18. -/
theorem eventClearCompletes : Obligations.EventClearCompletes := by
  unfold Obligations.EventClearCompletes
  refine ⟨fun s a v now hr hb hk hg hwf hs => ?_, fun s hr hp hwf => ?_⟩
  · refine answers_of_exec (exec_w1cClear_eq v now hr hb hk hg) ⟨rfl, fun i hi => ?_, fun b hne => ?_, rfl, rfl, rfl⟩
    · rw [if_neg (fun h => hs h.2), State.reg_setReg_self _ (by exact hwf), getLsbD_w1cWord _ _ _ _ hi]
    · exact State.reg_setReg_of_ne (s := s.mgtAck) _ hwf hne
  · have e := exec_w1cClear_eq (a := rGLOBAL_EVT) 1 0 hr (State.mgtBad_of_powered (by decide) hp) (by decide) (by decide)
    refine ⟨fun hs => answers_of_exec e ?_, fun hs => answers_of_exec e ?_⟩
    · rw [if_pos ⟨rfl, hs⟩, State.reg_setReg_self _ (by exact hwf), getLsbD_w1cWord _ _ _ _ (by decide)]
      simp [evtMask]
    · rw [if_neg (fun h => absurd (hs.symm.trans h.2) (by decide)), State.reg_setReg_self _ (by exact hwf),
        getLsbD_w1cWord _ _ _ _ (by decide)]
      simp

/-! ### Split reads -/

/-- Settles O21. -/
theorem splitReadCompletes : Obligations.SplitReadCompletes := by
  intro s a v hi hr hb hsp hwf
  have e : exec (.splitLoRead a) s
      = .next ((s.mgtRead (BitVec.ofNat 32 v)).setReg hi (BitVec.ofNat 32 (v / 2 ^ 32))) := by
    change execSplitLoRead a s = _
    simp only [execSplitLoRead, hr, hb, hsp, Bool.false_eq_true, if_false]
  exact answers_of_exec e ⟨rfl, rfl, State.reg_setReg_self (s := s.mgtRead _) _ hwf,
    fun b hne => State.reg_setReg_of_ne (s := s.mgtRead _) _ hwf hne, rfl⟩

/-! ### Plain writes -/

theorem exec_registerWriteOther_eq {s : State} {a : Nat} (v : Word) (hr : s.boot.rstLow = false)
    (hk : kindAt a ≠ none) (hp : s.powered a = true) (ho : ownWrite a = false) :
    exec (.registerWriteOther a v) s = .next
      (if a = 0x100B0 then { s.mgtAck with boot := { s.boot with keyData := v } }
       else if a = 0x280118 then
         (if s.headMgr && s.running then { s.mgtAck with recd := { s.recd with calSetLo := v } } else s.mgtAck)
       else if kindAt a = some .rw then s.mgtAck.setReg a v else s.mgtAck) := by
  change execRegisterWriteOther a v s = _
  rw [execRegisterWriteOther, if_neg (ne_true_of_eq_false hr),
    if_neg (ne_true_of_eq_false (State.mgtBad_of_powered hk hp)), if_neg (ne_true_of_eq_false ho)]
  simp only [apply_ite Host.Outcome.next]
  rfl

theorem State.rstLow_of_running {s : State} (h : s.running = true) : s.boot.rstLow = false ∧ s.boot.state = 11 := by
  simpa [State.running] using h

theorem jRN_CONSUMED_LO_facts : ∀ p < 8, kindAt (rJRN_CONSUMED_LO p) = some .rw ∧ ownWrite (rJRN_CONSUMED_LO p) = false
    ∧ rJRN_CONSUMED_LO p ≠ 0x100B0 ∧ rJRN_CONSUMED_LO p ≠ 0x280118 := by decide

/-- Settles O22. -/
theorem plainWritesComplete : Obligations.PlainWritesComplete := by
  unfold Obligations.PlainWritesComplete
  refine ⟨fun s v hr hp => ?_, fun s v p hlt hr hp hwf => ?_, fun s v hh hrun hp => ?_, fun s n v hr hn hwf => ?_,
    fun s v hh hrun => ?_, fun s n hpr hr hst hc ht hcp => ?_⟩
  · exact answers_of_exec (exec_registerWriteOther_eq v hr (by decide) hp (by decide)) rfl
  · obtain ⟨hk, ho, h1, h2⟩ := jRN_CONSUMED_LO_facts p hlt
    refine answers_of_exec (exec_registerWriteOther_eq v hr (by simp [hk]) hp ho) ?_
    rw [if_neg h1, if_neg h2, if_pos hk]
    exact ⟨State.reg_setReg_self (s := s.mgtAck) _ hwf, fun b hne => State.reg_setReg_of_ne (s := s.mgtAck) _ hwf hne, rfl⟩
  · obtain ⟨hr, -⟩ := State.rstLow_of_running hrun
    refine answers_of_exec (exec_registerWriteOther_eq v hr (by decide) hp (by decide)) ?_
    rw [if_neg (by decide), if_pos rfl, hh, hrun]
    rfl
  · have e : exec (.evtMapWrite n v) s = .next (s.mgtAck.setReg (rEVT_MAP n) (v &&& 0xFFF)) := by
      change execEvtMapWrite n v s = _
      rw [execEvtMapWrite, if_neg]
      simp [hr, hn]
    exact answers_of_exec e ⟨State.reg_setReg_self (s := s.mgtAck) _ hwf,
      fun b hne => State.reg_setReg_of_ne (s := s.mgtAck) _ hwf hne, rfl⟩
  · obtain ⟨hr, -⟩ := State.rstLow_of_running hrun
    have hh' : s.mgtAck.headMgr = true := hh
    have hrun' : s.mgtAck.running = true := hrun
    refine answers_of_exec (c := .calSet v) (t := { s with
      mgtData := 0, mgtErr := false
      recd := { s.recd with calSetHi := v, calPend := some (v.toNat * 2 ^ 32 + s.recd.calSetLo.toNat) } }) ?_ rfl
    change execCalSet v s = _
    simp only [execCalSet, hr, hh', hrun', Bool.false_eq_true, if_false, Bool.and_self, if_true]
    rfl
  · have hby : (!s.boot.rstLow && (s.stitch.state == 1 || s.stitch.state == 3)) = true := by simpa [hr] using hst
    have e : exec .calendarTick s = .next { s with
        recd := { s.recd with
          lifeSec := s.recd.lifeSec + 1, uptime := if s.running then s.recd.uptime + 1 else s.recd.uptime
          tickAt := s.stitch.count, calendar := n, calSrc := 2, calPend := none }
        mgr := { s.mgr with calPend := s.podMgr } } := by
      change execCalendarTick s = _
      simp only [execCalendarTick, hby, hpr, hc, hcp, Bool.not_true, Bool.false_eq_true, if_false, ne_eq,
        not_true_eq_false, decide_false, Bool.true_and, Bool.or_self, if_true, ht]
    exact answers_of_exec e ⟨rfl, rfl, rfl, rfl⟩

/-! ### The runtime writes -/

section
variable {s : State} {p : Nat} {v : Word} (hr : s.boot.rstLow = false) (hp : p < 8)
  (hon : s.powered (rJRN_CONSUMED_HI p) = true)
include hr hp hon

theorem exec_jrnConsumedWrite_eq : exec (.jrnConsumedWrite p v) s = .next
    (let n := v.toNat * 2 ^ 32 + (s.reg (rJRN_CONSUMED_LO p)).toNat
     if n < (s.part p).jrnC ∨ (s.part p).jrnW < n then s.mgtAck.raise rJRN_EVT 0
     else (s.mgtAck.onPart p (fun y => { y with jrnC := n })).setReg (rJRN_CONSUMED_HI p) v) := by
  change execJrnConsumedWrite p v s = _
  simp only [execJrnConsumedWrite, hr, hon, Bool.false_eq_true, if_false, Bool.not_true, or_false,
    if_neg (Nat.not_le_of_lt hp)]
  exact (apply_ite Host.Outcome.next _ _ _).symm

end

/-- Settles O23. -/
theorem runtimeWritesComplete : Obligations.RuntimeWritesComplete := by
  unfold Obligations.RuntimeWritesComplete
  refine ⟨fun s p v hr hp hl hon hwf => ⟨fun hlo hhi => ?_, fun hout hon' => ?_⟩,
    fun s v hr hlo hhi hw => ⟨fun h => ?_, fun h hon hwf => ?_⟩⟩
  · refine answers_of_exec ((exec_jrnConsumedWrite_eq hr hp hon).trans (congrArg _ (if_neg ?_))) ?_
    · omega
    · have hp' := fun q => State.part_onPart s.mgtAck p q (fun y => { y with
        jrnC := v.toNat * 2 ^ 32 + (s.reg (rJRN_CONSUMED_LO p)).toNat }) hl
      refine ⟨?_, ?_, State.reg_setReg_self (s := s.mgtAck.onPart p _) _ hwf, rfl, fun q hq => ?_, rfl⟩
      · exact (congrArg Part.jrnC (hp' p)).trans (by rw [if_pos rfl])
      · exact (congrArg Part.jrnW (hp' p)).trans (by rw [if_pos rfl]; rfl)
      · exact (hp' q).trans (if_neg (Ne.symm hq))
  · refine answers_of_exec ((exec_jrnConsumedWrite_eq hr hp hon).trans (congrArg _ (if_pos hout))) ⟨?_, ?_, ?_⟩
    · exact State.raise_parts _ _ _
    · exact State.getLsbD_reg_raise (s := s.mgtAck) hwf hon' (by decide)
    · exact State.raise_mem _ _ _
  · have e : exec (.pwrTelemWrite v) s = .next { s.mgtAck with power := { s.power with
        telem := v
        telemOk := s.power.telemOk.filter (fun x => decide (x.1 ≠ s.power.window - 1))
          ++ [(s.power.window - 1, v.toNat % 2 ^ 24)] } } := by
      change execPwrTelemWrite v s = _
      simp only [execPwrTelemWrite, hr, Bool.false_eq_true, if_false]
      exact if_pos ⟨⟨hlo, hhi, hw⟩, h⟩
    exact answers_of_exec e ⟨rfl, by simp, rfl, rfl⟩
  · have e : exec (.pwrTelemWrite v) s = .next (s.mgtAck.bump rTELEM_IGN_CNT 1) := by
      change execPwrTelemWrite v s = _
      simp only [execPwrTelemWrite, hr, Bool.false_eq_true, if_false]
      exact if_neg (fun k => h k.2)
    exact answers_of_exec e ⟨State.bump_power _ _ _, State.reg_bump_eq (s := s.mgtAck) hwf hon 1⟩

end Sys2Proof.Machine
end

section
/-! SUPPORT. The stitch reference: edges, misses, the loss of lock, the slip and the relayed reference (O15). -/

-- One declaration after another: the check bounds the memory, and with it the threads.
set_option Elab.async false

namespace Sys2Proof.Machine

section
variable {s : State} (hu : s.usesRef = true)
include hu

/-- Whether a good edge ends the loss of the reference (R106). -/
theorem exec_stitchRefEdge_of_good {ofs : Int} (h : ofs.natAbs ≤ 16000) :
    let back := s.stitch.refLost && decide (64 ≤ s.stitch.goodRun + 1)
    let t : State := { s with stitch := { s.stitch with
      missRun := 0, goodRun := s.stitch.goodRun + 1, got := s.stitch.got || s.stitch.src == 2 || back
      measured := if s.stitch.src == 2 || back then ofs else s.stitch.measured
      refLost := s.stitch.refLost && !back, src := if back then 2 else s.stitch.src } }
    exec (.stitchRefEdge ofs) s = .next (if back then t.raise rSTITCH_EVT 2 else t) := by
  change execStitchRefEdge ofs s = _
  rw [execStitchRefEdge, if_neg (by simp [hu]), if_pos h]

theorem exec_stitchRefEdge_of_extra {ofs : Int} (h : 16000 < ofs.natAbs) : exec (.stitchRefEdge ofs) s
    = .next (({ s with stitch := { s.stitch with goodRun := 0 } } : State).bump rREF_EXTRA_CNT 1) := by
  change execStitchRefEdge ofs s = _
  rw [execStitchRefEdge, if_neg (by simp [hu]), if_neg (Nat.not_le_of_lt h)]

theorem exec_stitchRefMiss_eq :
    let lost := decide (16 ≤ s.stitch.missRun + 1) && !s.stitch.refLost
    let t := ({ s with stitch := { s.stitch with
      missRun := s.stitch.missRun + 1, goodRun := 0, refLost := s.stitch.refLost || lost
      src := if lost then (if s.headMgr then 4 else 3) else s.stitch.src } } : State).bump rREF_MISS_CNT 1
    exec .stitchRefMiss s = .next (if lost then t.raise rSTITCH_EVT 1 else t) := by
  change execStitchRefMiss s = _
  rw [execStitchRefMiss, if_neg (by simp [hu])]

end

/-- The events of the stitch family are raised where its counters count. -/
theorem State.powered_stitch (s : State) : s.powered rREF_MISS_CNT = s.powered rSTITCH_EVT
    ∧ s.powered rLOCK_LOSS_CNT = s.powered rSTITCH_EVT ∧ s.powered rSLIP_CNT = s.powered rSTITCH_EVT :=
  ⟨s.powered_of_family (by decide), s.powered_of_family (by decide), s.powered_of_family (by decide)⟩

theorem stitchRefMiss_spec {s : State} (hu : s.usesRef = true) (hwf : spWf s.regs = true)
    (hp : s.powered rREF_MISS_CNT = true) : answers .stitchRefMiss s (fun t =>
      t.stitch.missRun = s.stitch.missRun + 1 ∧ t.stitch.goodRun = 0 ∧ t.stitch.count = s.stitch.count
        ∧ t.reg rREF_MISS_CNT = satAdd (s.reg rREF_MISS_CNT) 1
        ∧ (s.stitch.missRun + 1 < 16 → t.stitch.src = s.stitch.src ∧ t.stitch.refLost = s.stitch.refLost)
        ∧ (16 ≤ s.stitch.missRun + 1 → s.stitch.refLost = false →
          t.stitch.refLost = true ∧ t.stitch.src = (if s.headMgr then 4 else 3)
            ∧ (t.reg rSTITCH_EVT).getLsbD 1 = true)) := by
  refine answers_of_exec (exec_stitchRefMiss_eq hu) ?_
  by_cases hl : (decide (16 ≤ s.stitch.missRun + 1) && !s.stitch.refLost) = true
  · obtain ⟨h16, hlost⟩ : 16 ≤ s.stitch.missRun + 1 ∧ s.stitch.refLost = false := by simpa using hl
    simp only [hl, if_true, State.raise_stitch, State.bump_stitch]
    refine ⟨trivial, trivial, trivial, ?_, fun h => absurd h (Nat.not_lt_of_le h16), fun _ _ => ⟨by simp, trivial, ?_⟩⟩
    · rw [State.reg_raise_of_ne (State.spWf_regs_bump (by exact hwf) _ _) _ (by decide),
        State.reg_bump_eq (by exact hwf) (by exact hp)]
      rfl
    · exact State.getLsbD_reg_raise (State.spWf_regs_bump (by exact hwf) _ _)
        ((State.powered_bump _ _ _ _).trans ((State.powered_stitch s).1.symm.trans hp)) (by decide)
  · have hf : (decide (16 ≤ s.stitch.missRun + 1) && !s.stitch.refLost) = false := Bool.eq_false_iff.mpr hl
    simp only [hf, Bool.false_eq_true, if_false, State.bump_stitch, Bool.or_false]
    refine ⟨trivial, trivial, trivial, State.reg_bump_eq (by exact hwf) (by exact hp) 1, fun _ => ⟨trivial, trivial⟩,
      fun h16 hlost => absurd (by simp [h16, hlost]) hl⟩

/-- Settles O15. -/
theorem stitchReferenceCompletes : Obligations.StitchReferenceCompletes := by
  unfold Obligations.StitchReferenceCompletes
  refine ⟨fun s ofs hu => ⟨fun h => ?_, fun h hwf hp => ?_, fun hwf hp => stitchRefMiss_spec hu hwf hp⟩,
    fun s hst hbad hwf hp => ?_, fun s hst hre hno hne hwf hp => ?_, fun s b hm hsil hlo hhi hb hmb hlt => ?_,
    fun s hsrc hrun => ?_⟩
  · refine answers_of_exec (exec_stitchRefEdge_of_good hu h) ?_
    by_cases hb : (s.stitch.refLost && decide (64 ≤ s.stitch.goodRun + 1)) = true
    · obtain ⟨hl, h64⟩ : s.stitch.refLost = true ∧ 64 ≤ s.stitch.goodRun + 1 := by simpa using hb
      simp only [hb, if_true, State.raise_stitch]
      refine ⟨trivial, trivial, trivial, fun _ _ => by simp, fun h => ?_⟩
      rcases h with h | h
      · exact absurd hl (ne_true_of_eq_false h)
      · exact absurd h64 (Nat.not_le_of_lt h)
    · simp only [hb, Bool.false_eq_true, if_false]
      exact ⟨trivial, trivial, trivial, fun hl h64 => absurd (by simp [hl, h64]) hb, fun _ => by simp⟩
  · exact answers_of_exec (exec_stitchRefEdge_of_extra hu h)
      ⟨State.bump_stitch _ _ _, State.reg_bump_eq (by exact hwf) (by exact hp) 1⟩
  · have e : exec .lockLoss s = .next ((({ s with stitch := { s.stitch with
        state := 2, lockRun := 0, badRun := 0, relocked := false } } : State).raise rSTITCH_EVT 0).bump
          rLOCK_LOSS_CNT 1) := by
      change execLockLoss s = _
      rw [execLockLoss, if_pos (by simpa [hst] using hbad)]
    refine answers_of_exec e ⟨by simp, by simp, ?_, ?_⟩
    · exact State.getLsbD_reg_raise_bump (by exact hwf) (by exact hp) (by decide) 1 (by decide)
    · exact State.reg_raise_bump (by exact hwf) _ _ (by exact (State.powered_stitch s).2.1.trans hp) 1 (by decide)
  · have e : exec (.stitchSlip s.refCount) s = .next ((({ s with stitch := { s.stitch with
        count := s.refCount, refOfs := 0, markOwn := none, relocked := false } } : State).raise rSTITCH_EVT 3).bump
          rSLIP_CNT 1) := by
      change execStitchSlip s.refCount s = _
      rw [execStitchSlip, if_pos (by simp [hst, hre, hno, hne])]
    refine answers_of_exec e ⟨by simp, by simp, by simp, ?_, ?_⟩
    · exact State.getLsbD_reg_raise_bump (by exact hwf) (by exact hp) (by decide) 1 (by decide)
    · exact State.reg_raise_bump (by exact hwf) _ _ (by exact (State.powered_stitch s).2.2.trans hp) 1 (by decide)
  · have e : exec (.stitchRelaySwitch [b]) s = .next { s with stitch := { s.stitch with src := 1, relay := b } } := by
      have hf : [b].filter (fun b => b ≠ s.block && b ≠ s.mgrBlock s.pod && decide (b < s.podSize)) = [b] := by
        simp [hb, hmb, hlt]
      change execStitchRelaySwitch [b] s = _
      rw [execStitchRelaySwitch, hf]
      exact if_neg (by simp [hm, hsil, hlo, hhi])
    exact answers_of_exec e rfl
  · have e : exec .stitchDirectRestore s = .next { s with stitch := { s.stitch with src := 0, relay := 0 } } := by
      change execStitchDirectRestore s = _
      rw [execStitchDirectRestore, if_pos (by simp [hsrc, hrun])]
    exact answers_of_exec e rfl

end Sys2Proof.Machine
end

section
/-! SUPPORT. The counterexample to O16: a wait at a boundary of the start that stands in RUNNING. A sound state has none, but
the statement asks for no sound state. -/

-- One declaration after another: the check bounds the memory, and with it the threads.
set_option Elab.async false

namespace Sys2Proof.Machine

/-- RUNNING with a low PWR_ALERT_N and a wait at the entry of STITCH_LOCK, in stitch 5. -/
def waitsInRunning : State :=
  { State.reset with
    boot := { resetBoot with rstLow := false, state := 11, waiting := some 9 }
    power := { resetPower with alertLow := true }
    stitch := { resetStitch with state := 1, count := 5 } }

/-- The release of PWR_ALERT_N enters STITCH_LOCK, whose entry starts the count at zero. -/
theorem exec_pwrAlertRelease_waitsInRunning :
    ∃ t, exec (.pwrAlertRelease 0) waitsInRunning = .next t ∧ t.stitch.count = 0 := ⟨_, rfl, rfl⟩

/-- Refutes O16: the third part asks for no sound state, and with a wait at the entry of STITCH_LOCK standing in RUNNING the
release of PWR_ALERT_N starts the count again. -/
theorem not_boundaryCounts : ¬ Obligations.BoundaryCounts := by
  rintro ⟨-, -, h⟩
  obtain ⟨t, e, hc⟩ := exec_pwrAlertRelease_waitsInRunning
  rcases h (.pwrAlertRelease 0) waitsInRunning t rfl rfl (by decide) e with h0 | ⟨⟨_, _, h0⟩, -⟩ | ⟨h0, -⟩
  · rw [hc] at h0
    exact absurd h0 (by decide)
  · cases h0
  · cases h0

end Sys2Proof.Machine
end

section
/-! SUPPORT. The self-test, the recorder and the energy windows (O25, O26). -/

-- One declaration after another: the check bounds the memory, and with it the threads.
set_option Elab.async false

namespace Sys2Proof.Machine

/-! ### The wrapper -/

theorem State.wrapUpdate_of_low {s : State} (h : s.boot.rstLow = true) (n : Nat) :
    s.wrapUpdate n = { s with self := { resetSelf with wrapper := n } } := by
  rw [State.wrapUpdate, if_pos h]
  rfl

theorem exec_wsBypass_of_run {s : State} (h : s.self.wrapper = 4) : ∃ r p c, ∃ w : PowerSt,
    exec .wsBypass s = .next { s with
        regs := r, press := p, cores := c, power := { w with ramps := [], rampOn := false }, self := resetSelf }
      ∧ ∀ d, d < 46 → bit w.domOn d = false := by
  have hoff := State.bit_domOn_domainsOff s (List.range 46)
  obtain ⟨r, p, c, w, e, -⟩ := s.domainsOff_eq (List.range 46)
  rw [e] at hoff
  refine ⟨r, p, c, w, ?_, fun d hd => by simp [hoff, hd]⟩
  change execWsBypass s = _
  rw [execWsBypass, if_pos h, e]
  rfl

theorem exec_wsBypass_of_other {s : State} (h : s.self.wrapper ≠ 4) :
    exec .wsBypass s = .next { s with self := { s.self with wrapper := 0, wrapHeld := none } } := by
  change execWsBypass s = _
  rw [execWsBypass, if_neg h]

theorem wrapper_spec {s : State} (h : s.boot.rstLow = true) :
    answers .wsExtest s (fun t => t.self = { resetSelf with wrapper := 1 } ∧ t.boot = s.boot ∧ t.mem = s.mem)
      ∧ answers .wsIntest s (fun t => t.self = { resetSelf with wrapper := 2 } ∧ t.boot = s.boot ∧ t.mem = s.mem)
      ∧ answers .scanAccess s (fun t => t.self = { resetSelf with wrapper := 5 } ∧ t.boot = s.boot ∧ t.mem = s.mem)
      ∧ answers .mbistAccess s (fun t => t.self = { resetSelf with wrapper := 6 } ∧ t.boot = s.boot ∧ t.mem = s.mem) := by
  have e (n : Nat) : (s.wrapUpdate n).self = { resetSelf with wrapper := n } ∧ (s.wrapUpdate n).boot = s.boot
      ∧ (s.wrapUpdate n).mem = s.mem := by
    rw [State.wrapUpdate_of_low h]
    exact ⟨rfl, rfl, rfl⟩
  exact ⟨answers_of_exec rfl (e 1), answers_of_exec rfl (e 2), answers_of_exec rfl (e 5), answers_of_exec rfl (e 6)⟩

theorem exec_selftestRun_of_low {s : State} (h : s.boot.rstLow = true) (hp : s.recd.present = true) :
    exec .selftestRun s = .next { s with
      self := { resetSelf with wrapper := 4, state := 2, floor := true }
      power := { s.power with ramps := testOrder.filter (fun d => !bit s.power.domOn d), rampOn := true } } := by
  change execSelftestRun s = _
  rw [execSelftestRun, if_pos ⟨h, hp⟩]

/-! ### The states of the test -/

theorem exec_drainEnd_of_drained {s : State} (hr : s.running = true) (hs : s.self.state = 1) (hd : s.drained = true) :
    exec .drainEnd s = .next { s with
      self := { s.self with state := 2 }
      link := { s.link with
        ports := s.link.ports.map (fun p => { p with state := 0, sub := 0 }), chans := [] } } := by
  change execDrainEnd s = _
  rw [execDrainEnd, if_pos ⟨hr, hs, hd⟩]

theorem exec_selftestCheck_eq {s : State} (cy mv : Nat) (hs : s.self.state = 2) :
    let code := if !within cy 11940 16080 then 1 else if !within mv 700 850 then 2 else 0
    exec (.selftestCheck cy mv) s = .next { s with self := { s.self with
      cclk := cy / 10, vdd := mv, code := code, state := if code = 0 then 3 else 5, writeTry := 0 } } := by
  change execSelftestCheck cy mv s = _
  rw [execSelftestCheck, if_neg (not_not.mpr hs)]

theorem within_iff {v lo hi : Nat} : within v lo hi = true ↔ lo ≤ v ∧ v ≤ hi := by simp [within]

theorem within_eq_false_iff {v lo hi : Nat} : within v lo hi = false ↔ v < lo ∨ hi < v := by
  rw [← Bool.not_eq_true, within_iff]
  omega

theorem SelfSt.allClusters_found (x : SelfSt) : x.allClusters.found = x.found := rfl

theorem SelfSt.markPart_found (x : SelfSt) (d k : Nat) : (x.markPart d k).found = x.found := by
  unfold SelfSt.markPart
  repeat' split
  all_goals rfl

theorem exec_logicTestEnd_of_bad {s : State} {d k : Nat} {m : BitVec 64} (hs : s.self.state = 3) (hr : s.power.ramps = [])
    (hk : k < misrParts d) (hm : m ≠ Config.misrReference d k) : ∃ x : SelfSt,
    exec (.logicTestEnd [(d, k, m)] []) s = .next { s with self := { x with
        state := 4, found := s.self.found ++ [resultEntry 1 d 0xFFFF 0 0 0xFF k] } } := by
  refine ⟨{ (s.self.markPart d k) with domFail := orMask s.self.domFail (2 ^ d) }, ?_⟩
  have hf : [(d, k, m)].filter (fun e => decide (e.2.1 < misrParts e.1)
      && decide (e.2.2 ≠ Config.misrReference e.1 e.2.1)) = [(d, k, m)] := by
    simp [hk, hm]
  change execLogicTestEnd [(d, k, m)] [] s = _
  rw [execLogicTestEnd, if_neg (by simp [hs, hr]), hf]
  simp only [List.map_cons, List.map_nil, List.filter_nil, List.append_nil, List.foldl_cons, List.foldl_nil,
    SelfSt.markPart_found]

theorem exec_memoryTestEnd_of_none {s : State} (hs : s.self.state = 4) : ∃ x : SelfSt,
    exec (.memoryTestEnd []) s = .next { s with self := { x with state := 5, writeTry := 0 } } := by
  refine ⟨s.self.closeEntries s.boot.repairs, ?_⟩
  change execMemoryTestEnd [] s = _
  rw [execMemoryTestEnd, if_neg (not_not.mpr hs)]
  rfl

/-- What the end of a test that found no fault of its own leaves. -/
theorem State.selfFinish_spec {s : State} (hc : s.self.code = 0) (hw : s.self.wrapHeld = none) :
    s.selfFinish.self.state = 6 ∧ s.selfFinish.self.entries = s.self.found.length
      ∧ s.selfFinish.recd.flashOps = s.recd.flashOps := by
  obtain ⟨r, p, c, w, e, -⟩ := s.domainsOff_eq (List.range 46)
  simp [State.selfFinish, State.rampsOff, e, hc, hw]

theorem resultWriteEnd_spec {s : State} {ofs : Nat} (hs : s.self.state = 5) (ho : s.recd.resultOfs = some ofs)
    (hc : s.self.code = 0) :
    (s.self.wrapHeld = none → answers (.resultWriteEnd true) s (fun t => t.self.state = 6
        ∧ t.recd.flashOps = s.recd.flashOps ++ resultOps ofs s.resultRecord ∧ t.self.entries = s.self.found.length))
      ∧ (s.self.writeTry = 0 → answers (.resultWriteEnd false) s (fun t =>
        t.self.state = 5 ∧ t.self.writeTry = 1)) := by
  let u : State := { s.flash (resultOps ofs s.resultRecord) with boot := s.boot.readFlash ofs s.resultRecord.length }
  refine ⟨fun hw => ?_, fun ht => ?_⟩
  · have e : exec (.resultWriteEnd true) s = .next u.selfFinish := by
      change execResultWriteEnd true s = _
      rw [execResultWriteEnd, if_neg (not_not.mpr hs)]
      simp only [ho, if_true]
      rfl
    obtain ⟨h1, h2, h3⟩ := State.selfFinish_spec (s := u) hc hw
    exact answers_of_exec e ⟨h1, h3, h2⟩
  · have e : exec (.resultWriteEnd false) s = .next { u with self := { s.self with writeTry := 1 } } := by
      change execResultWriteEnd false s = _
      rw [execResultWriteEnd, if_neg (not_not.mpr hs)]
      simp only [ho, Bool.false_eq_true, if_false]
      exact if_pos ht
    exact answers_of_exec e ⟨hs, rfl⟩

/-- Settles O25. -/
theorem selfTestCompletes : Obligations.SelfTestCompletes := by
  unfold Obligations.SelfTestCompletes
  refine ⟨fun s h => ?_, fun s hr hs hd => ?_, fun s cy mv hs => ⟨fun h1 h2 h3 h4 => ?_, fun h => ?_, fun h1 h2 h => ?_⟩,
    fun s d k m hs hr hk hm => ?_, fun s hs => ?_, fun s ofs hs ho hc => resultWriteEnd_spec hs ho hc⟩
  · obtain ⟨h1, h2, h3, h4⟩ := wrapper_spec h
    refine ⟨h1, h2, h3, h4, fun hw => answers_of_exec (exec_wsBypass_of_other hw) rfl,
      fun hw => ?_, fun hp => answers_of_exec (exec_selftestRun_of_low h hp) ⟨rfl, rfl, rfl, rfl, rfl, rfl⟩⟩
    obtain ⟨r, p, c, w, e, hoff⟩ := exec_wsBypass_of_run hw
    exact answers_of_exec e ⟨rfl, rfl, hoff, rfl, rfl⟩
  · refine answers_of_exec (exec_drainEnd_of_drained hr hs hd) ⟨rfl, rfl, fun p hp => ?_, rfl, rfl⟩
    obtain ⟨q, -, rfl⟩ := List.mem_map.mp hp
    rfl
  · refine answers_of_exec (exec_selftestCheck_eq cy mv hs) ?_
    simp [within_iff.mpr ⟨h1, h2⟩, within_iff.mpr ⟨h3, h4⟩]
  · refine answers_of_exec (exec_selftestCheck_eq cy mv hs) ?_
    simp [within_eq_false_iff.mpr h]
  · refine answers_of_exec (exec_selftestCheck_eq cy mv hs) ?_
    simp [within_iff.mpr ⟨h1, h2⟩, within_eq_false_iff.mpr h]
  · obtain ⟨x, e⟩ := exec_logicTestEnd_of_bad hs hr hk hm
    exact answers_of_exec e ⟨rfl, rfl, rfl, rfl⟩
  · obtain ⟨x, e⟩ := exec_memoryTestEnd_of_none hs
    exact answers_of_exec e ⟨rfl, rfl, rfl, rfl⟩

/-! ### Lint and the log -/

theorem State.bump_raise_latch_eq (s : State) (a n b i c : Nat) (v : Word) : ∃ r,
    ((s.bump a n).raise b i).latch c v = { s with regs := r } :=
  ⟨_, by rw [State.latch_with_regs, State.raise_with_regs, State.bump_with_regs]⟩

section
variable {s : State} (hd : s.lintDue (s.lintNext 30000 s.recd.lintPos) = true)
  (hrun : s.lintNext 30000 s.recd.lintPos < 256 →
    ∀ r ∈ s.press.runs, ∀ x ∈ r.span, x.1 ≠ s.lintNext 30000 s.recd.lintPos / 8)
include hd hrun

theorem lintPart_goes_on : ¬(!s.lintDue (s.lintNext 30000 s.recd.lintPos) ∨ (s.lintNext 30000 s.recd.lintPos < 256
    ∧ s.press.runs.any (fun r => r.span.any (fun x => x.1 == s.lintNext 30000 s.recd.lintPos / 8)))) := by
  rintro (h | ⟨h, hany⟩)
  · simp [hd] at h
  · obtain ⟨r, hr, hx⟩ := List.any_eq_true.mp hany
    obtain ⟨x, hx, he⟩ := List.any_eq_true.mp hx
    exact hrun h r hr x hx (beq_iff_eq.mp he)

theorem exec_lintPart_of_pass : exec (.lintPart none) s = .next { s with
    self := { s.self with lintAt := some (s.stitch.count, s.lintNext 30000 s.recd.lintPos), lintAgain := false }
    recd := { s.recd with lintPos := (s.lintNext 30000 s.recd.lintPos + 1) % lintParts } } := by
  change execLintPart none s = _
  rw [execLintPart, if_neg (lintPart_goes_on hd hrun)]

/-- A first failure is counted and the part is repeated (R458). -/
theorem exec_lintPart_of_fail (row : Nat) (ha : s.self.lintAgain = false) : ∃ r l,
    exec (.lintPart (some row)) s = .next { s with
      regs := r
      self := { s.self with lintAt := some (s.stitch.count, s.lintNext 30000 s.recd.lintPos), lintAgain := true }
      recd := { s.recd with
        lintFails := s.recd.lintFails + 1, arrLint := l, lintPos := s.lintNext 30000 s.recd.lintPos } } := by
  change ∃ r l, execLintPart (some row) s = _
  rw [execLintPart, if_neg (lintPart_goes_on hd hrun)]
  have hsecond : ¬s.self.lintAgain = true := ne_true_of_eq_false ha
  obtain ⟨r, e⟩ := State.bump_raise_latch_eq
    { s with self := { s.self with lintAt := some (s.stitch.count, s.lintNext 30000 s.recd.lintPos) } } rLINT_FAIL_CNT 1
    rST_EVT 1 rLINT_LAST (BitVec.ofNat 32 (s.lintNext 30000 s.recd.lintPos + (if s.self.lintAgain then 2 ^ 17 else 0)
      + (if 272 ≤ s.lintNext 30000 s.recd.lintPos then row % 1024 * 2 ^ 18 else 0)))
  refine ⟨r, if s.lintNext 30000 s.recd.lintPos < 256 then
    setAt s.recd.arrLint (s.lintNext 30000 s.recd.lintPos / 8) (· + 1) else s.recd.arrLint, (if_neg hsecond).trans ?_⟩
  rw [e]

end

theorem exec_logWrite_of_due {s : State} (hs : s.inService = true) (h0 : 0 < s.recd.uptime)
    (h6 : s.recd.uptime % 600 = 0) (hl : s.recd.logAt ≠ s.recd.uptime) :
    let ofs := s.hdrF 0x3C 4 + 4096 * ((s.recd.logSeq + 1) % 64)
    exec .logWrite s = .next { s with recd := { s.recd with
      flashOps := s.recd.flashOps ++ (ofs, none) :: programOps ofs (s.logRecord (s.recd.logSeq + 1))
      logSeq := s.recd.logSeq + 1, logAt := s.recd.uptime, rejected := false, testRefused := false, restored := false } } := by
  change execLogWrite s = _
  rw [execLogWrite, if_pos ⟨hs, h0, h6, hl⟩]
  rfl

/-! ### The calendar -/

theorem exec_calendarTick_of_stitch {s : State} (hp : s.recd.present = true) (hr : s.boot.rstLow = false)
    (hs : s.stitch.state = 3) (hc : s.stitch.count % 1562500 = 0) (ht : s.recd.tickAt ≠ s.stitch.count) : ∃ m u,
    exec .calendarTick s = .next { s with
      mgr := m
      recd := match s.recd.calPend with
        | some v => { s.recd with
            lifeSec := s.recd.lifeSec + 1, uptime := u, tickAt := s.stitch.count, calendar := v, calSrc := 2, calPend := none }
        | none => { s.recd with
            lifeSec := s.recd.lifeSec + 1, uptime := u, tickAt := s.stitch.count
            calendar := s.recd.calendar + if s.recd.calSrc = 0 then 0 else 1 } } := by
  have hby : (!s.boot.rstLow && (s.stitch.state == 1 || s.stitch.state == 3)) = true := by simp [hr, hs]
  change ∃ m u, execCalendarTick s = _
  rw [execCalendarTick]
  simp only [hby]
  rw [if_neg (by simp [hp]), if_neg (by simp [hc, ht])]
  cases s.recd.calPend with
  | none => exact ⟨_, _, rfl⟩
  | some v => exact ⟨_, _, rfl⟩

/-! ### The energy windows -/

theorem State.calibrate_eq (s : State) (k : Nat) (wins upd : List Nat) : ∃ a b c,
    s.calibrate k wins upd = { s with power := { s.power with seeded := a, clamped := b, cost := c } } := by
  unfold State.calibrate
  split
  · exact ⟨_, _, _, rfl⟩
  · exact ⟨_, _, _, rfl⟩

theorem State.kernelsAt_eq {s : State} (h : s.power.wakeWin = none) (w : Nat) : ∃ a b c d,
    s.kernelsAt w = { s with power := { s.power with seeded := a, clamped := b, cost := c, digest := d } } := by
  have hpre : ∃ a b c d, (if 8 ≤ w ∧ w ≤ 64 ∧ w % 8 = 0 then
      let k := w / 8 - 1
      let s := s.calibrate k ((List.range 6).map (fun i => 8 * k + 2 + i)) (kernelEntries k)
      if w = 64 then s.energyDigest else s
      else s) = { s with power := { s.power with seeded := a, clamped := b, cost := c, digest := d } } := by
    split
    · obtain ⟨a, b, c, e⟩ := s.calibrate_eq (w / 8 - 1) ((List.range 6).map (fun i => 8 * (w / 8 - 1) + 2 + i))
        (kernelEntries (w / 8 - 1))
      simp only [e]
      split
      · exact ⟨_, _, _, _, rfl⟩
      · exact ⟨_, _, _, _, rfl⟩
    · exact ⟨_, _, _, _, rfl⟩
  obtain ⟨a, b, c, d, e⟩ := hpre
  refine ⟨a, b, c, d, ?_⟩
  rw [State.kernelsAt]
  simp only [e, h]

/-- The close of a window publishes its charges and counts it; the 64th of CALIBRATE ends that state. -/
theorem exec_energyWindowClose_eq {s : State} (ops : List Nat) (hr : s.boot.rstLow = false) (hlo : 7 ≤ s.boot.state)
    (hhi : s.boot.state ≤ 11) (hw : s.power.wakeWin = none) : ∃ p : PowerSt,
    let t : State := { s with
      power := p, recd := { s.recd with energyUj := s.recd.energyUj + s.power.winPj / 1000000 } }
    exec (.energyWindowClose ops) s = .next (if s.power.window = 63 ∧ s.boot.state = 7 then
        ({ t with power := { p with calDone := true } } : State).energyDigest.enter 8 0 else t)
      ∧ p.energyWin = s.power.winPj / 1000000 ∧ p.winPj = 0 ∧ p.window = s.power.window + 1
      ∧ p.alertLow = s.power.alertLow := by
  let keep := decide (s.power.window < 64) || s.power.wakeWin.isSome
  let u : State := { s with
    power := { s.power with
      energyWin := s.power.winPj / 1000000, winPj := 0, window := s.power.window + 1
      kernOps := if keep then s.power.kernOps ++ [(s.power.window, ops.take 15)] else s.power.kernOps }
    recd := { s.recd with energyUj := s.recd.energyUj + s.power.winPj / 1000000 } }
  obtain ⟨a, b, c, d, ek⟩ := State.kernelsAt_eq (s := u) hw s.power.window
  obtain ⟨l, el⟩ := (u.kernelsAt s.power.window).lowWindow_eq_with_power
  have hlow : ∃ l, (if (u.kernelsAt s.power.window).power.alertLow || (u.kernelsAt s.power.window).power.thermLow then
      (u.kernelsAt s.power.window).lowWindow else u.kernelsAt s.power.window)
      = { u with power := { u.power with seeded := a, clamped := b, cost := c, digest := d, lowWin := l } } := by
    rw [el, ek]
    split
    · exact ⟨_, rfl⟩
    · exact ⟨_, rfl⟩
  obtain ⟨l, hlow⟩ := hlow
  refine ⟨{ u.power with seeded := a, clamped := b, cost := c, digest := d, lowWin := l }, ?_, rfl, rfl, rfl, rfl⟩
  change execEnergyWindowClose ops s = _
  rw [execEnergyWindowClose, if_neg (by rw [hr]; simp; omega)]
  exact (congrArg (fun v : State => if s.power.window = 63 ∧ v.boot.state = 7 then
    Host.Outcome.next (({ v with power := { v.power with calDone := true } } : State).energyDigest.enter 8 0)
    else .next v) hlow).trans (apply_ite Host.Outcome.next _ _ _).symm

theorem State.enter_eight_spec (s : State) (us : Nat) : (s.enter 8 us).power = s.power ∧ (s.enter 8 us).mem = s.mem
    ∧ (s.enter 8 us).recd.energyUj = s.recd.energyUj ∧ (s.power.alertLow = false → (s.enter 8 us).boot.state = 8) := by
  cases h : s.power.alertLow with
  | true =>
    rw [State.enter, h, if_pos rfl]
    exact ⟨rfl, rfl, rfl, fun h => absurd h.symm Bool.false_ne_true⟩
  | false =>
    rw [State.enter_of_free h]
    exact ⟨rfl, rfl, rfl, fun _ => rfl⟩

/-- Settles O26. -/
theorem recorderCompletes : Obligations.RecorderCompletes := by
  unfold Obligations.RecorderCompletes
  refine ⟨fun s => ?_, fun s hs h0 h6 hl => ?_, fun s hp hr hs hc ht => ?_, fun s ops hr hlo hhi hw => ?_,
    fun s ops hr hs hwin hw ha ht => ?_⟩
  · intro n hd hrun
    refine ⟨answers_of_exec (exec_lintPart_of_pass hd hrun) ⟨rfl, rfl, rfl, rfl⟩, fun row ha => ?_⟩
    obtain ⟨r, l, e⟩ := exec_lintPart_of_fail hd hrun row ha
    exact answers_of_exec e ⟨rfl, rfl, rfl, rfl, rfl⟩
  · exact answers_of_exec (exec_logWrite_of_due hs h0 h6 hl) ⟨rfl, rfl, rfl, rfl, rfl⟩
  · obtain ⟨m, u, e⟩ := exec_calendarTick_of_stitch hp hr hs hc ht
    refine answers_of_exec e ?_
    cases h : s.recd.calPend with
    | none =>
      refine ⟨rfl, rfl, rfl, rfl, fun v hv => ?_, fun _ hsrc => ?_⟩
      · cases hv
      · simp [hsrc]
    | some v =>
      refine ⟨rfl, rfl, rfl, rfl, fun w hv => ?_, fun hn => ?_⟩
      · cases hv
        exact ⟨rfl, rfl, rfl⟩
      · cases hn
  · obtain ⟨p, e, h1, h2, h3, -⟩ := exec_energyWindowClose_eq ops hr hlo hhi hw
    refine answers_of_exec e ?_
    split
    · obtain ⟨hp, hm, hu, -⟩ := State.enter_eight_spec (State.energyDigest { s with
        power := { p with calDone := true }
        recd := { s.recd with energyUj := s.recd.energyUj + s.power.winPj / 1000000 } }) 0
      rw [hp, hm, hu]
      exact ⟨h1, h2, h3, rfl, rfl⟩
    · exact ⟨h1, h2, h3, rfl, rfl⟩
  · obtain ⟨p, e, -, -, -, hal⟩ := exec_energyWindowClose_eq ops hr (by omega) (by omega) hw
    refine answers_of_exec e ?_
    rw [if_pos ⟨hwin, hs⟩]
    obtain ⟨hp, -, -, hst⟩ := State.enter_eight_spec (State.energyDigest { s with
      power := { p with calDone := true }
      recd := { s.recd with energyUj := s.recd.energyUj + s.power.winPj / 1000000 } }) 0
    rw [hp]
    exact ⟨hst (hal.trans ha), rfl⟩

end Sys2Proof.Machine
end

section
/-! SUPPORT. What sending leaves of the ports, and a port that is retired (R307, O24). -/

-- One declaration after another: the check bounds the memory, and with it the threads.
set_option Elab.async false

namespace Sys2Proof.Machine

/-! ### Sending leaves the ports -/

@[simp] theorem State.stamp_ports (s : State) (c : Chan) (fs : List Flit) : (s.stamp c fs).2.link.ports = s.link.ports := by
  cases fs with
  | nil => rfl
  | cons f r =>
    unfold State.stamp
    simp only
    split
    · rfl
    · rfl

@[simp] theorem State.emit_ports (s : State) (c : Chan) (fs : List Flit) : (s.emit c fs).link.ports = s.link.ports := rfl

@[simp] theorem State.drive_ports (s : State) (c : Chan) (fs : List Flit) : (s.drive c fs).link.ports = s.link.ports :=
  s.stamp_ports c fs

@[simp] theorem State.control_ports (s : State) (id : Nat) (b : Bytes) : (s.control id b).link.ports = s.link.ports := by
  unfold State.control
  split
  · split
    · exact s.drive_ports _ _
    · rfl
  · rfl

@[simp] theorem State.pump_ports (s : State) (id : Nat) : (s.pump id).link.ports = s.link.ports := by
  unfold State.pump
  split
  · rfl
  · extract_lets +onlyGivenNames base places
    split
    extract_lets +onlyGivenNames x
    split
    · rfl
    · exact State.stamp_ports _ _ _

@[simp] theorem State.enqueue_ports (s : State) (id wire : Nat) (m : TxMsg) :
    (s.enqueue id wire m).link.ports = s.link.ports := by
  unfold State.enqueue
  split
  · rfl
  · exact State.pump_ports _ _

/-- What a fold of operations that each leave a view leaves of it. -/
theorem foldl_view {α β : Type} (v : State → β) (f : State → α → State) (h : ∀ s a, v (f s a) = v s) (l : List α)
    (s : State) : v (l.foldl f s) = v s := by
  induction l generalizing s with
  | nil => rfl
  | cons a l ih => exact (ih _).trans (h s a)

@[simp] theorem State.resendVia_ports (s : State) (old r d : Nat) : (s.resendVia old r d).link.ports = s.link.ports := by
  unfold State.resendVia
  refine (foldl_view (fun s => s.link.ports) _ (fun s m => ?_) _ _).trans rfl
  simp only [State.enqueue_ports]
  split
  · rfl
  · rw [State.bump_link]

@[simp] theorem State.sendHello_ports (s : State) (id : Nat) : (s.sendHello id).link.ports = s.link.ports := by
  unfold State.sendHello
  split
  · rfl
  · exact State.control_ports _ _ _

@[simp] theorem State.releaseId_link (s : State) (id : Nat) : (s.releaseId id).link = s.link :=
  (State.releaseId_same (F := (· ≠ .link)) id (.refl s) (by simp) (by simp) (by simp) (by simp) (by simp)).link (by simp)

/-! ### The state of a port -/

/-- The state, the cause of its retirement and the absence of every port are as before. -/
def State.PortsAs (s t : State) : Prop :=
  ∀ q, (t.port q).state = (s.port q).state ∧ (t.port q).fail = (s.port q).fail ∧ (t.port q).absent = (s.port q).absent

namespace State.PortsAs

theorem ofPorts {s t : State} (h : t.link.ports = s.link.ports) : s.PortsAs t := by
  intro q
  simp only [State.port, h, and_self]

theorem trans {s t u : State} (h : s.PortsAs t) (k : t.PortsAs u) : s.PortsAs u := fun q =>
  ⟨(k q).1.trans (h q).1, (k q).2.1.trans (h q).2.1, (k q).2.2.trans (h q).2.2⟩

theorem onPort (s : State) (p : Nat) (f : Port → Port)
    (hf : ∀ x, (f x).state = x.state ∧ (f x).fail = x.fail ∧ (f x).absent = x.absent) : s.PortsAs (s.onPort p f) := by
  intro q
  simp only [State.port, State.onPort, getD_setAt]
  split
  · exact hf _
  · exact ⟨rfl, rfl, rfl⟩

theorem foldl {α : Type} (f : State → α → State) (hf : ∀ (s : State) a, s.PortsAs (f s a)) (l : List α) (s : State) :
    s.PortsAs (l.foldl f s) := by
  induction l generalizing s with
  | nil => exact ofPorts rfl
  | cons a l ih => exact (hf s a).trans (ih _)

end State.PortsAs

theorem State.chooseRelay_portsAs (s : State) (p old : Nat) : s.PortsAs (s.chooseRelay p old) := by
  unfold State.chooseRelay
  extract_lets b r t u
  have ht : s.PortsAs t := .onPort s p _ fun x => ⟨rfl, rfl, rfl⟩
  clear_value t r
  split
  · exact ht.trans (.ofPorts (by simp [u]))
  · exact ht.trans ((State.PortsAs.onPort t p (fun x => { x with pendSvc := false })
      fun x => ⟨rfl, rfl, rfl⟩).trans (.ofPorts (State.pump_ports _ _)))

theorem State.leaveActive_portsAs (s : State) (p : Nat) : s.PortsAs (s.leaveActive p) := by
  unfold State.leaveActive
  split
  · exact .ofPorts rfl
  · extract_lets b fwd l s1 s2 s3 s4
    have h2 : s.PortsAs s2 := .ofPorts
      (foldl_view (fun s => s.link.ports) _ (fun s id => by rw [State.releaseId_link]) _ _)
    have h3 : s2.PortsAs s3 := .foldl _ (fun s m => .ofPorts (by simp)) _ _
    have h4 : s3.PortsAs s4 := by
      unfold s4
      split
      · exact .ofPorts rfl
      · exact State.chooseRelay_portsAs _ _ _
    exact h2.trans (h3.trans (h4.trans (.foldl _ (fun s q => State.chooseRelay_portsAs _ _ _) _ _)))

theorem State.rehome_portsAs (s : State) : s.PortsAs s.rehome := by
  unfold State.rehome
  split
  · exact .ofPorts rfl
  · extract_lets moves ids l s1 s2
    split
    · exact .ofPorts rfl
    · have h1 : s.PortsAs s1 := .ofPorts rfl
      have h2 : s1.PortsAs s2 := .onPort s1 _ _ fun x => ⟨rfl, rfl, rfl⟩
      exact h1.trans (h2.trans (.foldl _ (fun s id => .ofPorts (by simp)) _ _))

/-- A port that is retired stands in RETIRED with the cause, and every other port as before (R307). -/
theorem State.retirePort_spec {s : State} {p : Nat} (n : Nat) (hl : p < s.link.ports.length) (hs : (s.port p).state ≠ 7)
    (ha : (s.port p).absent = false) : ((s.retirePort p n).port p).state = 7 ∧ ((s.retirePort p n).port p).fail = n
      ∧ ∀ q, q ≠ p → ((s.retirePort p n).port q).state = (s.port q).state
        ∧ ((s.retirePort p n).port q).fail = (s.port q).fail := by
  let f (x : Port) : Port := { x with state := 7, sub := 0, fail := n, pendSvc := false }
  have key : ∃ u v : State, s.PortsAs u ∧ u.link.ports.length = s.link.ports.length
      ∧ v.link.ports = (u.onPort p f).link.ports ∧ v.PortsAs (s.retirePort p n) := by
    unfold State.retirePort
    extract_lets x lanes s1 s2 s3 l k m s4 s5
    have h1 : s1.link.ports = s.link.ports := by
      unfold s1
      split
      · exact foldl_view (fun s => s.link.ports) _ (fun s _ => by simp) _ _
      · rfl
    rw [if_neg (by simp [x, hs, ha])]
    refine ⟨s1, s5, .ofPorts h1, by rw [h1], ?_, ?_⟩
    · simp only [s5, State.oweReport, s4, k, s3, State.raise_link]
      rfl
    · split
      · exact (State.PortsAs.ofPorts rfl).trans (State.leaveActive_portsAs _ _)
      · exact (State.PortsAs.ofPorts rfl).trans (State.rehome_portsAs _)
  obtain ⟨u, v, hu, hul, hv, ht⟩ := key
  have hport (q : Nat) : v.port q = if p = q then f (u.port q) else u.port q := by
    rw [← State.port_onPort u p q f (hul ▸ hl)]
    simp only [State.port, hv]
  refine ⟨?_, ?_, fun q hq => ?_⟩
  · rw [(ht p).1, hport, if_pos rfl]
  · rw [(ht p).2.1, hport, if_pos rfl]
  · rw [(ht q).1, (ht q).2.1, hport, if_neg (Ne.symm hq)]
    exact ⟨(hu q).1, (hu q).2.1⟩

/-! ### The forced writes -/

/-- What the retirement of a port may touch. -/
def retireTouch : Touch → Prop
  | .free | .regs | .pool | .units | .memp | .hamper | .link | .power | .recd => True
  | _ => False

theorem exec_linkRetireForced_eq {s : State} {p : Nat} {v : Word} (hr : s.boot.rstLow = false) (hp : p < 36)
    (hon : s.powered (0x180008 + 0x400 * p) = true) : exec (.linkRetireForced p v) s
      = .next (if bit v.toNat 0 then s.mgtAck.retirePort p 4 else s.mgtAck) := by
  change execLinkRetireForced p v s = _
  rw [execLinkRetireForced, if_neg (ne_true_of_eq_false hr), if_neg (by simp [hp, hon])]
  exact (apply_ite Host.Outcome.next _ _ _).symm

theorem State.abortSaved_of_none {s : State} (h : ∀ g, (s.group g).cur = none) : s.abortSaved = s := by
  have key (l : List Nat) : l.foldl (fun s g => match (s.group g).cur with
      | some c => if c.saved = 2 then s.completeCmd g 2 0 else s
      | none => s) s = s := by
    induction l with
    | nil => rfl
    | cons g l ih =>
      rw [List.foldl_cons]
      simp only [h g]
      exact ih
  exact key _

theorem exec_shutdownRequest_of_key {s : State} {v : Word} (hrun : s.running = true) (hs : s.self.state = 0)
    (hk : v.toNat / 256 % 256 = 0xC3) (hb : bit v.toNat 0 = true) (hg : ∀ g, (s.group g).cur = none) :
    exec (.shutdownRequest v) s = .next { s.mgtAck with self := { s.self with state := 1, request := true } } := by
  change execShutdownRequest v s = _
  rw [execShutdownRequest, if_neg (ne_true_of_eq_false (State.rstLow_of_running hrun).1)]
  dsimp only
  rw [if_neg (not_not.mpr hk), if_pos ⟨hb, hrun, hs⟩]
  exact congrArg _ (State.abortSaved_of_none hg)

theorem exec_shutdownRequest_of_wrong_key {s : State} {v : Word} (hrun : s.running = true)
    (hk : v.toNat / 256 % 256 ≠ 0xC3) : exec (.shutdownRequest v) s = .next (s.mgtAck.raise rST_EVT 0) := by
  change execShutdownRequest v s = _
  rw [execShutdownRequest, if_neg (ne_true_of_eq_false (State.rstLow_of_running hrun).1)]
  exact if_pos hk

/-- Settles O24. -/
theorem forcedWritesComplete : Obligations.ForcedWritesComplete := by
  unfold Obligations.ForcedWritesComplete
  refine ⟨fun s p v hr hp hl hon hst ha => ⟨fun hb => ?_, fun hb => ?_⟩,
    fun s v hrun hs => ⟨fun hk hb hg => ?_, fun hk hwf hon => ?_⟩⟩
  · have hne : (s.mgtAck.port p).state ≠ 7 := ne_of_eq_of_ne hst (by decide)
    obtain ⟨h1, h2, -⟩ := State.retirePort_spec (s := s.mgtAck) (p := p) 4 (hl.symm ▸ hp) hne ha
    have h := State.retirePort_same (F := retireTouch) p 4 (.refl s.mgtAck) trivial trivial trivial trivial trivial trivial
      trivial trivial trivial
    exact answers_of_exec ((exec_linkRetireForced_eq hr hp hon).trans (by rw [hb]; rfl))
      ⟨h1, h2, (h.mgt id).2, h.poolOnly id id, h.parts fun _ => ⟨id, id⟩⟩
  · exact answers_of_exec ((exec_linkRetireForced_eq hr hp hon).trans (by rw [hb]; rfl)) rfl
  · exact answers_of_exec (exec_shutdownRequest_of_key hrun hs hk hb hg) ⟨rfl, rfl, rfl, rfl, rfl, rfl⟩
  · exact answers_of_exec (exec_shutdownRequest_of_wrong_key hrun hk)
      ⟨State.raise_self _ _ _, State.getLsbD_reg_raise (s := s.mgtAck) hwf hon (by decide), State.raise_mem _ _ _⟩

end Sys2Proof.Machine
end

section
/-! SUPPORT. Memory read back, and how a command of a group completes: its record, its group and what it leaves (R137). -/

-- One declaration after another: the check bounds the memory, and with it the threads.
set_option Elab.async false

namespace Sys2Proof.Machine

/-! ### Memory -/

theorem memRead_congr {m m' : List (Nat × Byte)} {a n : Nat} (h : ∀ i, a ≤ i → i < a + n → spGet m' i = spGet m i) :
    memRead m' a n = memRead m a n := by
  induction n generalizing a with
  | zero => rfl
  | succ n ih =>
    simp only [memRead]
    rw [h a (Nat.le_refl a) (by omega), ih fun i hi hn => h i (by omega) (by omega)]

theorem memRead_memWrite_self (bs : Bytes) (m : List (Nat × Byte)) (a : Nat) (h : spWf m = true) :
    memRead (memWrite m a bs) a bs.length = bs := by
  induction bs generalizing m a with
  | nil => rfl
  | cons b bs ih =>
    simp only [memWrite, memRead, List.length_cons]
    rw [ih _ _ (spWf_spSet m a b h), spGet_memWrite_outside bs _ (a + 1) a (spWf_spSet m a b h) (.inl (by omega)),
      spGet_spSet m a a b h, if_pos rfl]

theorem State.rd_congr {s t : State} (h : t.mem = s.mem) (a n : Nat) : t.rd a n = s.rd a n := by
  simp only [State.rd, h]

theorem State.rd_of_write {s t : State} {a : Nat} {bs : Bytes} (h : t.mem = memWrite s.mem a bs) (hwf : spWf s.mem = true)
    {n : Nat} (hn : bs.length = n) : t.rd a n = bs := by
  subst hn
  rw [State.rd, h, memRead_memWrite_self bs s.mem a hwf]

theorem State.wr_eq (s : State) (a : Nat) (bs : Bytes) (o : MemObj) : ∃ m p,
    s.wr a bs o = { s with mem := memWrite s.mem a bs, memp := m, power := { s.power with ops := p } }
      ∧ m.buckets = s.memp.buckets :=
  ⟨_, _, rfl, rfl⟩

theorem State.issueReads_eq (s : State) (rs : List (Nat × Nat)) (o : MemObj) : ∃ m p,
    s.issueReads rs o = { s with memp := m, power := { s.power with ops := p } } := by
  unfold State.issueReads
  induction rs generalizing s with
  | nil => exact ⟨_, _, rfl⟩
  | cons r rs ih => exact ih (s.issueRead r.1 r.2 o)

/-! ### Groups -/

@[simp] theorem State.group_onGroup_self {s : State} {g : Nat} (h : g < s.groups.length) (f : Group → Group) :
    (s.onGroup g f).group g = f (s.group g) := by
  rw [State.group_onGroup s g g f h, if_pos rfl]

theorem State.group_onGroup_ne (s : State) {g k : Nat} (f : Group → Group) (h : k ≠ g) :
    (s.onGroup g f).group k = s.group k := by
  rw [State.onGroup, State.group, getD_setAt, if_neg fun e => h e.1.symm]
  rfl

/-- A command that runs in a group is a group of the block. -/
theorem State.lt_groups_of_cur {s : State} {g : Nat} {c : Cmd} (h : (s.group g).cur = some c) : g < s.groups.length := by
  by_contra hn
  rw [State.group, List.getD_eq_default _ _ (Nat.le_of_not_lt hn)] at h
  cases h

/-! ### A command that completes -/

/-- The completion record (R137). -/
def recordOf (seq status fault diverted stepNo endAt ledger : Nat) : Bytes :=
  toLE 4 seq ++ toLE 1 status ++ toLE 1 fault ++ toLE 2 diverted ++ toLE 8 stepNo ++ toLE 8 endAt ++ toLE 4 ledger
    ++ zeros 4

@[simp] theorem length_zeros (n : Nat) : (zeros n).length = n := by simp [zeros]

@[simp] theorem length_recordOf (a b c d e f g : Nat) : (recordOf a b c d e f g).length = 32 := by
  simp [recordOf]

/-- Where the record goes, where its address translates (R137). -/
def State.recordAt (s : State) (g : Nat) (d : Bytes) : Option Nat :=
  if fld d 8 8 % 32 = 0 then s.tr (s.gPart g) (fld d 8 8) 32 4 else none

/-- A store at a place that may not translate. -/
def memWriteAt (m : List (Nat × Byte)) : Option Nat → Bytes → List (Nat × Byte)
  | some a, bs => memWrite m a bs
  | none, _ => m

theorem State.credits_with_regs (s : State) (jobs : List (Nat × Nat)) : ∃ r,
    jobs.foldl (fun s j => s.credit j.1 j.2) s = { s with regs := r } := by
  induction jobs generalizing s with
  | nil => exact ⟨_, rfl⟩
  | cons j jobs ih =>
    obtain ⟨r, e⟩ := ih (s.credit j.1 j.2)
    refine ⟨r, e.trans ?_⟩
    rw [State.credit, State.bump_with_regs]

/-- A command that leaves its cores changes lanes and, where the cores go back to work that pre-empted it, `lentAt` (R142). -/
theorem State.leaveCores_eq (s : State) (g status : Nat) (c : Cmd) : ∃ ps cs,
    s.leaveCores g status c = { s with parts := ps, cores := cs }
      ∧ ∀ q, ∃ n, ps.getD q resetPart = { s.part q with lentAt := n } := by
  unfold State.leaveCores
  extract_lets u
  have hu : ∃ ps, u = { s with parts := ps } ∧ ∀ q, ∃ n, ps.getD q resetPart = { s.part q with lentAt := n } := by
    unfold u State.coresBack
    split
    · split
      · refine ⟨_, rfl, fun q => ?_⟩
        rw [getD_setAt]
        split
        · exact ⟨_, rfl⟩
        · exact ⟨_, rfl⟩
      · exact ⟨_, rfl, fun q => ⟨_, rfl⟩⟩
    · exact ⟨_, rfl, fun q => ⟨_, rfl⟩⟩
  obtain ⟨ps, e, hq⟩ := hu
  rw [e]
  split
  · exact ⟨_, _, rfl, hq⟩
  · exact ⟨_, _, rfl, hq⟩

/-- How a command completes: its record, its notes, its runs, its cores and its group. -/
theorem State.complete_eq {s : State} {g : Nat} {c : Cmd} (hc : (s.group g).cur = some c)
    (status fault diverted stepNo ledger endAt : Nat) (jobs : List (Nat × Nat)) :
    ∃ r m o n ps cs, m.buckets = s.memp.buckets ∧ s.complete g status fault diverted stepNo ledger endAt jobs = ({ s with
        regs := r, memp := m, power := { s.power with ops := o }, seam := { s.seam with notes := n }
        parts := ps, cores := cs
        mem := memWriteAt s.mem (s.recordAt g c.desc) (recordOf c.seq status fault diverted stepNo endAt ledger)
        press := { s.press with runs := s.press.runs.filter (fun r => r.job != .batch g) } } : State).onGroup g
          (fun x => { x with
            fetch := 0, cur := none, recBusy := (s.recordAt g c.desc).isSome, lastSeq := some c.seq, abortHead := false
            head := if s.stopped (s.gPart g)
                || (c.torn || (c.phase == 2 && ((s.part (s.gPart g)).step.bind (·.tornBy)).isSome))
              then x.head else (x.head + 1) % 2 ^ 32 }) := by
  obtain ⟨ps, cs, el, hq⟩ := s.leaveCores_eq g status c
  obtain ⟨k, hk⟩ := hq (s.gPart g)
  unfold State.complete
  simp -zeta only [hc, el]
  extract_lets s0 p addr place head s1 held s2 torn s3 s4 q s5
  have hp : place = s.recordAt g c.desc := rfl
  have h1 : ∃ m o, s1 = { s0 with
      memp := m, power := { s.power with ops := o }
      mem := memWriteAt s.mem (s.recordAt g c.desc) (recordOf c.seq status fault diverted stepNo endAt ledger) }
        ∧ m.buckets = s.memp.buckets := by
    unfold s1
    rw [hp]
    cases s.recordAt g c.desc with
    | none => exact ⟨s.memp, s.power.ops, rfl, rfl⟩
    | some a => exact s0.wr_eq a (recordOf c.seq status fault diverted stepNo endAt ledger) (.complRec g)
  have h2 : ∃ r, s2 = { s1 with regs := r } := by
    unfold s2
    split
    · exact s1.credits_with_regs jobs
    · exact ⟨_, rfl⟩
  have h3 : ∃ n, s3 = { s2 with seam := { s2.seam with notes := n } } := by
    unfold s3
    split
    · exact ⟨_, rfl⟩
    · exact ⟨_, rfl⟩
  have h4 : ∃ n, s4 = { s3 with seam := { s3.seam with notes := n } } := by
    unfold s4
    split
    · exact ⟨_, rfl⟩
    · exact ⟨_, rfl⟩
  obtain ⟨m, o, h1, hb⟩ := h1
  obtain ⟨r, h2⟩ := h2
  obtain ⟨n, h3⟩ := h3
  obtain ⟨l, h4⟩ := h4
  have hpart : s0.part (s.gPart g) = { s.part (s.gPart g) with lentAt := k } := hk
  have hstop : s5.stopped p = s.stopped (s.gPart g) := by
    have h : s5.stopped p = s0.stopped (s.gPart g) := by
      simp only [s5, h4, h3, h2, h1]
      rfl
    rw [h, State.stopped, hpart, State.stopped]
  have htorn : torn = (c.torn || (c.phase == 2 && ((s.part (s.gPart g)).step.bind (·.tornBy)).isSome)) := by
    have h : (s2.part p).step = (s.part (s.gPart g)).step := by
      have h0 : (s2.part p).step = (s0.part (s.gPart g)).step := by
        simp only [h2, h1]
        rfl
      rw [h0, hpart]
    simp only [torn, h]
  refine ⟨r, m, o, l, ps, cs, hb, ?_⟩
  rw [hstop, htorn]
  simp only [s5, q, held, hp, h4, h3, h2, h1]
  rfl

/-- The record's place in `completed` is the one at which it was stored. -/
theorem State.recordAt_eq {s : State} {g : Nat} {d : Bytes} (h : fld d 8 8 % 32 = 0) :
    s.recordAt g d = s.tr (s.gPart g) (fld d 8 8) 32 4 := if_pos h

/-- A command that completes while its group runs on does so as R137 says. -/
theorem State.completeCmd_completed {s : State} {g : Nat} {c : Cmd} {status : Nat} (fault : Nat)
    (hc : (s.group g).cur = some c) (hseq : c.seq = fld c.desc 4 4)
    (ha : fld c.desc 8 8 % 32 = 0) (ht : (s.tr (s.gPart g) (fld c.desc 8 8) 32 4).isSome = true)
    (hst : s.stopped (s.gPart g) = false) (htorn : c.torn = false) (hph : c.phase ≠ 2) (hwf : spWf s.mem = true) :
    completed s (s.completeCmd g status fault) g c.desc status fault := by
  have hg := State.lt_groups_of_cur hc
  have hn : (c.phase == 2) = false := by simpa using hph
  simp only [State.completeCmd, hc]
  obtain ⟨r, m, o, n, ps, cs, -, e⟩ := State.complete_eq hc status fault 0 0 0xFFFFFFFF s.stitch.count [(fld c.desc 2 1, status)]
  rw [e, State.recordAt_eq ha]
  refine ⟨?_, ?_, ?_, ?_, fun a hat => ?_⟩
  · rw [State.group_onGroup_self (by exact hg)]
  · rw [State.group_onGroup_self (by exact hg), hseq]
  · rw [State.group_onGroup_self (by exact hg)]
    exact ht
  · rw [State.group_onGroup_self (by exact hg)]
    simp only [hst, htorn, hn, Bool.false_and, Bool.or_self, Bool.false_eq_true, if_false]
    rfl
  · refine (State.rd_of_write (s := s) (a := a) (bs := recordOf c.seq status fault 0 0 s.stitch.count 0xFFFFFFFF) ?_ hwf
      (by simp)).trans ?_
    · simp only [State.onGroup_mem, hat, memWriteAt]
    · rw [hseq, recordOf]

theorem State.answer_ctx (s : State) (g fault : Nat) : (s.answer g fault).ctx = s.ctx :=
  (State.completeCmd_same (F := (· ≠ .ctx)) g _ fault (.refl s) nofun nofun nofun nofun nofun nofun nofun nofun
    nofun).ctx (by simp)

/-- What `completed` says of a state it says of one with the same image, stitch and HEAD. -/
theorem completed_congr {s u t : State} {g : Nat} {d : Bytes} {status fault : Nat} (hi : u.img = s.img)
    (hs : u.stitch = s.stitch) (hh : (u.group g).head = (s.group g).head) (h : completed u t g d status fault) :
    completed s t g d status fault := by
  obtain ⟨h1, h2, h3, h4, h5⟩ := h
  refine ⟨h1, h2, h3, hh ▸ h4, fun a ha => ?_⟩
  rw [← hs]
  refine h5 a (Eq.trans ?_ ha)
  simp only [State.tr, State.sect, State.gPart, State.gcfg, hi]

/-! ### A command that begins and ends in one -/

/-- The command of a descriptor that has just begun. -/
def freshCmd (phase : Nat) (d : Bytes) : Cmd where
  endAs := none
  torn := false
  cut := false
  phase := phase
  seq := fld d 4 4
  desc := d
  epochs := []
  index := 0
  saved := 0
  job := none

theorem State.begin_group {s : State} {g : Nat} (hg : g < s.groups.length) (phase : Nat) (d : Bytes) :
    (s.begin g phase d).group g = { s.group g with cur := some (freshCmd phase d) } := by
  rw [State.begin, State.group_onGroup_self hg]
  rfl

theorem State.begin_cur {s : State} {g : Nat} (hg : g < s.groups.length) (phase : Nat) (d : Bytes) :
    ((s.begin g phase d).group g).cur = some (freshCmd phase d) := by
  rw [State.begin_group hg]

/-- A descriptor that is taken and answered at once. -/
theorem State.answer_completed {s : State} {g : Nat} {d : Bytes} (fault : Nat) (hs : s.sound) (hg : g < 64)
    (ha : fld d 8 8 % 32 = 0) (ht : (s.tr (s.gPart g) (fld d 8 8) 32 4).isSome = true)
    (hst : s.stopped (s.gPart g) = false) :
    completed s ((s.begin g 1 d).answer g fault) g d (if fault = 0 then 0 else 4) fault := by
  have hl : g < s.groups.length := hs.groupsLen.symm ▸ hg
  refine completed_congr (u := s.begin g 1 d) rfl rfl (by rw [State.begin, State.group_onGroup_self hl]) ?_
  exact State.completeCmd_completed fault (State.begin_cur hl 1 d) rfl ha ht hst rfl (by simp [freshCmd]) hs.memWf

end Sys2Proof.Machine
end

section
/-! SUPPORT. The counterexample to O60: a stream context of more than 64 bytes, which a sound state may hold and no command
makes, is written whole by a PAUSE with CTX_ADDR. -/

-- One declaration after another: the check bounds the memory, and with it the threads.
set_option Elab.async false

namespace Sys2Proof.Machine

/-- PAUSE of stream 1 to logical address 0x40, its record at 0x20. -/
def pauseDesc : Bytes :=
  [2] ++ zeros 3 ++ toLE 4 9 ++ toLE 8 0x20 ++ toLE 2 1 ++ [1] ++ zeros 5 ++ toLE 8 0x40 ++ zeros 32

/-- Group 0 of partition 0 with the PAUSE at HEAD, fetched, and a context of 71 bytes open in stream 1. -/
def longContext : State :=
  { State.reset with
    boot := { resetBoot with rstLow := false, state := 11, lock := true }
    img := { hdr := [], sections := [
      (3, [1, 0, 0, 0] ++ zeros 4 ++ toLE 8 0x1000 ++ zeros 16),
      (4, zeros 64 ++ toLE 6 0 ++ [7, 0] ++ toLE 6 0x100000 ++ zeros 2)] }
    mem := memWrite [] 0x1000 pauseDesc
    ctx := [(1, [1, 0] ++ zeros 68 ++ [7])]
    parts := { resetPart with state := 1 } :: List.replicate 7 resetPart
    groups := { resetGroup with tail := 1, tailEff := 1, fetch := 1 } :: List.replicate 63 resetGroup }

theorem sound_longContext : longContext.sound := by
  refine ⟨⟨by decide +kernel, by decide +kernel⟩, ⟨rfl, rfl, rfl, rfl⟩, ?_⟩
  simp [State.started, BootSt.started, longContext, resetBoot]

theorem headDesc_longContext : longContext.headDesc 0 = some pauseDesc := by decide +kernel

/-- Byte 70 of the context is stored, behind the 64 of CTX_ADDR. -/
theorem exec_streamPause_longContext : ∃ t, exec (.streamPause 0) longContext = .next t ∧ spGet t.mem 0x86 = 7 :=
  ⟨_, rfl, by decide +kernel⟩

theorem untouched_longContext : untouched longContext 0 0x86 := by
  intro d b hd
  rw [headDesc_longContext] at hd
  obtain rfl : pauseDesc = d := Option.some.inj hd
  have hrec : longContext.tr (longContext.gPart 0) (fld pauseDesc 8 8) 32 4 = some 0x20 := by decide +kernel
  have hctx : longContext.tr (longContext.gPart 0) (fld pauseDesc 24 8) 64 4 = some 0x40 := by decide +kernel
  rw [hrec, hctx]
  refine ⟨fun h => ?_, fun _ h => ?_⟩
  · cases h
    decide
  · cases h
    decide

/-- Refutes O60: soundness bounds no stream context, and a PAUSE stores all the bytes of a longer one. -/
theorem not_frameOfQueues : ¬ Obligations.FrameOfQueues := by
  rintro ⟨h, -⟩
  obtain ⟨t, e, hb⟩ := exec_streamPause_longContext
  obtain ⟨hm, -⟩ := h (.streamPause 0) longContext t 0 sound_longContext rfl e
  have h0 : spGet longContext.mem 0x86 = 0 := by decide +kernel
  have h7 := hm 0x86 untouched_longContext
  rw [hb, h0] at h7
  exact absurd h7 (by decide)

end Sys2Proof.Machine
end

section
/-! SUPPORT. The attach port: responses, doorbells, credits and notifications (O27, O28). -/

-- One declaration after another: the check bounds the memory, and with it the threads.
set_option Elab.async false

namespace Sys2Proof.Machine

/-! ### Responses -/

/-- The credits of a generation for responses. -/
def SeamSt.rspCredits (x : SeamSt) (gen2 : Bool) : Nat := if gen2 then x.crdIp2 else x.crdIp

/-- The response at the front of the queue is driven. -/
def SeamSt.driven (x : SeamSt) (r : SeamRsp) (rest : List SeamRsp) : SeamSt :=
  { x with
    rspWait := rest, rspSent := x.rspSent ++ [r]
    crdIp := if r.gen2 then x.crdIp else x.crdIp - 1, crdIp2 := if r.gen2 then x.crdIp2 - 1 else x.crdIp2 }

theorem State.driveRsps_of_no_credit (s : State) (gen2 : Bool) (n : Nat) (h : s.seam.rspCredits gen2 = 0) :
    s.driveRsps gen2 n = s := by
  cases n with
  | zero => rfl
  | succ n =>
    rw [State.driveRsps]
    split
    · rfl
    · exact if_pos h

theorem State.driveRsps_of_nil (s : State) (gen2 : Bool) (n : Nat) (h : s.seam.rspWait = []) : s.driveRsps gen2 n = s := by
  cases n with
  | zero => rfl
  | succ n =>
    rw [State.driveRsps, h]
    rfl

/-- The oldest response of the generation is the one at the front. -/
theorem State.driveRsps_front {s : State} {r : SeamRsp} {rest : List SeamRsp} (h : s.seam.rspWait = r :: rest)
    (hc : s.seam.rspCredits r.gen2 ≠ 0) (n : Nat) :
    s.driveRsps r.gen2 (n + 1) = ({ s with seam := s.seam.driven r rest } : State).driveRsps r.gen2 n := by
  have hf : s.seam.rspWait.find? (fun x => x.gen2 == r.gen2) = some r := by simp [h]
  have he : s.seam.rspWait.erase r = rest := by simp [h]
  rw [State.driveRsps, hf]
  exact (if_neg hc).trans (by rw [he]; rfl)

/-- A single waiting response is driven where its generation has a credit, else it waits (R43). -/
theorem State.drainRsps_of_one {s : State} {r : SeamRsp} (h : s.seam.rspWait = [r]) :
    s.drainRsps = if s.seam.rspCredits r.gen2 = 0 then s else { s with seam := s.seam.driven r [] } := by
  have hn : s.seam.rspWait.length = 0 + 1 := by rw [h]; rfl
  have other (gen2 : Bool) (hg : gen2 ≠ r.gen2) : s.driveRsps gen2 (0 + 1) = s := by
    have hf : s.seam.rspWait.find? (fun x => x.gen2 == gen2) = none := by simp [h, Ne.symm hg]
    rw [State.driveRsps, hf]
  have mine : s.driveRsps r.gen2 (0 + 1)
      = if s.seam.rspCredits r.gen2 = 0 then s else { s with seam := s.seam.driven r [] } := by
    split
    · exact s.driveRsps_of_no_credit _ _ ‹_›
    · exact State.driveRsps_front h ‹_› 0
  rw [State.drainRsps, hn]
  cases hg : r.gen2 with
  | true =>
    rw [other false (by simp [hg])]
    rw [hg] at mine
    exact mine
  | false =>
    rw [hg] at mine
    rw [mine]
    split
    · exact other true (by simp [hg])
    · exact State.driveRsps_of_nil _ _ _ rfl

/-- A credit lets the oldest waiting response of its generation go, and no other (R43). -/
theorem State.drainRsps_of_credit {s : State} {r : SeamRsp} {rest : List SeamRsp} (h : s.seam.rspWait = r :: rest)
    (hc : s.seam.rspCredits r.gen2 = 1) (ho : s.seam.rspCredits (!r.gen2) = 0) :
    s.drainRsps = { s with seam := s.seam.driven r rest } := by
  have hn : s.seam.rspWait.length = rest.length + 1 := by rw [h]; rfl
  have mine : s.driveRsps r.gen2 (rest.length + 1) = { s with seam := s.seam.driven r rest } := by
    rw [State.driveRsps_front h (by rw [hc]; decide)]
    refine State.driveRsps_of_no_credit _ _ _ ?_
    cases hg : r.gen2 with
    | true =>
      rw [hg] at hc
      have hc : s.seam.crdIp2 = 1 := hc
      simp [SeamSt.rspCredits, SeamSt.driven, hg, hc]
    | false =>
      rw [hg] at hc
      have hc : s.seam.crdIp = 1 := hc
      simp [SeamSt.rspCredits, SeamSt.driven, hg, hc]
  rw [State.drainRsps, hn]
  cases hg : r.gen2 with
  | true =>
    rw [hg] at mine ho
    rw [State.driveRsps_of_no_credit s false _ ho]
    exact mine
  | false =>
    rw [hg] at mine ho
    have ho : s.seam.crdIp2 = 0 := ho
    rw [mine]
    exact State.driveRsps_of_no_credit _ _ _ (by simp [SeamSt.rspCredits, SeamSt.driven, hg, ho])

/-- The response to a request, and the credit that the request gives back (R43, R45). -/
def SeamSt.answered (x : SeamSt) (gen2 : Bool) (r : SeamRsp) : SeamSt :=
  { x with
    rspWait := x.rspWait ++ [r], retIq := if gen2 then x.retIq else x.retIq + 1
    retIq2 := if gen2 then x.retIq2 + 1 else x.retIq2 }

theorem State.respondTo_of_nil {s : State} (h : s.seam.rspWait = []) (gen2 : Bool) (sts tag dom beats : Nat) :
    let r : SeamRsp := { gen2 := gen2, sts := sts, tag := tag, dom := if gen2 then 0 else dom, beats := beats
                         data := zeros ((beats + 1) * beatBytes gen2) }
    s.respondTo gen2 sts tag dom beats = { s with
      seam := if s.seam.rspCredits gen2 = 0 then s.seam.answered gen2 r else (s.seam.answered gen2 r).driven r [] } := by
  intro r
  have hw : ({ s with seam := s.seam.answered gen2 r } : State).seam.rspWait = [r] := by
    simp [SeamSt.answered, h]
  refine (State.drainRsps_of_one hw).trans ?_
  have hc : ({ s with seam := s.seam.answered gen2 r } : State).seam.rspCredits r.gen2 = s.seam.rspCredits gen2 := rfl
  rw [hc]
  split
  · rfl
  · rfl

/-- A doorbell is answered (R45). -/
theorem State.replied_reply {s u : State} {r : SeamReq} {sts : Nat} (hu : u.seam = s.seam) : replied s (u.reply r sts) r sts := by
  intro h
  rw [State.reply, State.respond, State.respondTo_of_nil (hu ▸ h)]
  have hd : zeros ((0 + 1) * beatBytes r.gen2) = zeros (beatBytes r.gen2) := by rw [Nat.zero_add, Nat.one_mul]
  simp only [hu, hd]
  refine ⟨fun hc => ?_, fun hc => ?_⟩
  · rw [if_neg (by exact hc)]
    refine ⟨rfl, rfl, ?_⟩
    cases hg : r.gen2 with
    | true =>
      rw [hg] at hc
      have hc : s.seam.crdIp2 ≠ 0 := hc
      simp only [SeamSt.driven, SeamSt.answered, if_true]
      omega
    | false =>
      rw [hg] at hc
      have hc : s.seam.crdIp ≠ 0 := hc
      simp only [SeamSt.driven, SeamSt.answered, Bool.false_eq_true, if_false]
      omega
  · rw [if_pos (by exact hc)]
    refine ⟨?_, rfl⟩
    simp only [SeamSt.answered, h]
    rfl

theorem State.reply_only (s : State) (r : SeamReq) (sts : Nat) : s.Same (· = .seam) (s.reply r sts) :=
  State.reply_same r sts (.refl s) rfl

/-! ### Doorbells and abort requests -/

section
variable {s : State} {r : SeamReq} (hrun : s.running = true) (hgate : (s.hostWrites r.host).slotGate r = none)
include hrun hgate

theorem exec_ringDoorbell_of_ring (h7 : fld r.data 7 1 = 0) (h4 : fld r.data 4 3 = 0) :
    exec (.ringDoorbell r) s = .next
      (if 2 ^ s.gcfg r.slot 3 1 < (fld r.data 0 4 + 2 ^ 32 - (s.group r.slot).head) % 2 ^ 32
          ∨ 2 ^ 31 ≤ (fld r.data 0 4 + 2 ^ 32 - (s.group r.slot).tail) % 2 ^ 32 then
        (((s.hostWrites r.host).onGroup r.slot (fun y => { y with tailErr := true })).bump rRING_FAULT_CNT 1).reply r 0
      else ((s.hostWrites r.host).onGroup r.slot (fun y => { y with tail := fld r.data 0 4 })).reply r 0) := by
  obtain ⟨hr, -⟩ := State.rstLow_of_running hrun
  change execRingDoorbell r s = _
  rw [execRingDoorbell, if_neg (by simp [hr, h7])]
  simp only [hgate, h7, h4, ne_eq, not_true_eq_false, or_self, if_false]
  exact (apply_ite Host.Outcome.next _ _ _).symm

theorem exec_layerDoorbell_of_bell (h7 : fld r.data 7 1 = 1) (h4 : fld r.data 4 3 = 0) :
    exec (.layerDoorbell r) s = .next (((s.hostWrites r.host).onGroup r.slot (fun y => { y with
      bells := y.bells ++ [(fld r.data 0 2, fld r.data 2 2, false)] })).reply r 0) := by
  obtain ⟨hr, -⟩ := State.rstLow_of_running hrun
  change execLayerDoorbell r s = _
  rw [execLayerDoorbell, if_neg (by simp [hr, h7])]
  simp only [hgate, h4, ne_eq, not_true_eq_false, if_false]

theorem exec_abortRequest_eq : exec (.abortRequest r) s = .next
    ((((s.hostWrites r.host).onGroup r.slot (fun y => { y with
      aborts := y.aborts ++ [(fld r.data 0 4, decide (fld r.data 7 1 ≠ 0) || decide (fld r.data 4 3 ≠ 0), false)] })).bump
        rABORT_CNT 1).reply r 0) := by
  obtain ⟨hr, -⟩ := State.rstLow_of_running hrun
  change execAbortRequest r s = _
  rw [execAbortRequest, if_neg (ne_true_of_eq_false hr)]
  simp only [hgate]

end

/-- What a doorbell leaves once its group took it: the group, the announced writes and the answer. -/
theorem State.doorbell_spec {s u : State} {r : SeamReq} (f : Group → Group) (hg : r.slot < s.groups.length)
    (hu : u = (s.hostWrites r.host).onGroup r.slot f
      ∨ ∃ a n, u = ((s.hostWrites r.host).onGroup r.slot f).bump a n) :
    ((u.reply r 0).group r.slot) = f (s.group r.slot) ∧ (u.reply r 0).mem = (s.hostWrites r.host).mem
      ∧ replied s (u.reply r 0) r 0 ∧ (u.reply r 0).regs = u.regs := by
  have hs := u.reply_only r 0
  have key : u.group r.slot = f (s.group r.slot) ∧ u.mem = (s.hostWrites r.host).mem ∧ u.seam = s.seam := by
    have hself := State.group_onGroup_self (s := s.hostWrites r.host) hg f
    rcases hu with rfl | ⟨a, n, rfl⟩
    · exact ⟨hself, rfl, rfl⟩
    · refine ⟨?_, by simp, by simp [State.hostWrites]⟩
      rw [State.bump_with_regs]
      exact hself
  obtain ⟨hgr, hm, hse⟩ := key
  exact ⟨(hs.group _ (by simp)).trans hgr, (hs.mem (by simp) (by simp)).trans hm, State.replied_reply hse, hs.regs (by simp)⟩

/-- Settles O27. -/
theorem doorbellsComplete : Obligations.DoorbellsComplete := by
  unfold Obligations.DoorbellsComplete
  refine ⟨fun s r hs hrun hgate hslot => ?_, fun s g layer low hg => ⟨fun hb hl hn => ?_, fun h hwf hp => ?_⟩⟩
  · have hg : r.slot < s.groups.length := hs.groupsLen.symm ▸ hslot
    intro v out
    refine ⟨fun h7 h4 hout => ?_, fun h7 h4 hout => ?_, ?_, fun h7 h4 => ?_⟩
    · refine answers_of_exec ((exec_ringDoorbell_of_ring hrun hgate h7 h4).trans (congrArg _ (if_neg hout))) ?_
      obtain ⟨hgr, hm, hrep, hregs⟩ := State.doorbell_spec (s := s) (r := r) _ hg (.inl rfl)
      rw [hgr]
      exact ⟨rfl, rfl, rfl, hm, hregs, hrep⟩
    · refine answers_of_exec ((exec_ringDoorbell_of_ring hrun hgate h7 h4).trans (congrArg _ (if_pos hout))) ?_
      obtain ⟨hgr, hm, hrep, -⟩ := State.doorbell_spec (s := s) (r := r) _ hg (.inr ⟨_, _, rfl⟩)
      rw [hgr]
      exact ⟨rfl, rfl, hm, hrep⟩
    · refine answers_of_exec (exec_abortRequest_eq hrun hgate) ?_
      obtain ⟨hgr, hm, hrep, -⟩ := State.doorbell_spec (s := s) (r := r) _ hg (.inr ⟨_, _, rfl⟩)
      rw [hgr]
      exact ⟨rfl, hm, hrep⟩
    · refine answers_of_exec (exec_layerDoorbell_of_bell hrun hgate h7 h4) ?_
      obtain ⟨hgr, hm, hrep, hregs⟩ := State.doorbell_spec (s := s) (r := r) _ hg (.inl rfl)
      rw [hgr]
      exact ⟨rfl, hm, hregs, hrep⟩
  · rw [State.registerBell, if_pos (by simp [hb, hl, hn]), State.group_onGroup_self hg]
    refine ⟨?_, rfl⟩
    dsimp only
    split
    · obtain ⟨b, hm, hk⟩ := List.any_eq_true.mp ‹_›
      exact ⟨b, hm, by simpa using hk⟩
    · exact ⟨_, List.mem_append_right _ (List.mem_singleton_self _), rfl, rfl⟩
  · have hno : ¬(!s.gBatch g && decide (layer ≠ 0) && s.nextBell g low == some layer) = true := by
      rcases h with h | h | h <;> simp [h]
    rw [State.registerBell, if_neg hno]
    exact ⟨State.bump_groups _ _ _, State.reg_bump_eq hwf hp 1⟩

/-! ### Credits, requests and notifications -/

theorem insertBy_perm {α : Type} (le : α → α → Bool) (x : α) (l : List α) : (insertBy le x l).Perm (x :: l) := by
  induction l with
  | nil => exact .refl _
  | cons y r ih =>
    rw [insertBy]
    split
    · exact .refl _
    · exact (ih.cons y).trans (.swap x y r)

theorem sortBy_perm {α : Type} (le : α → α → Bool) (l : List α) : (sortBy le l).Perm l := by
  induction l with
  | nil => exact .refl _
  | cons x r ih => exact (insertBy_perm le x _).trans (ih.cons x)

theorem insertBy_pairwise {α : Type} {le : α → α → Bool} (ht : ∀ a b, le a b = true ∨ le b a = true)
    (htr : ∀ a b c, le a b = true → le b c = true → le a c = true) (x : α) {l : List α}
    (h : l.Pairwise (fun a b => le a b = true)) : (insertBy le x l).Pairwise (fun a b => le a b = true) := by
  induction l with
  | nil => exact List.pairwise_singleton _ _
  | cons y r ih =>
    obtain ⟨hy, hr⟩ := List.pairwise_cons.mp h
    rw [insertBy]
    split
    · refine List.pairwise_cons.mpr ⟨fun z hz => ?_, h⟩
      rcases List.mem_cons.mp hz with rfl | hz
      · assumption
      · exact htr _ _ _ ‹_› (hy z hz)
    · refine List.pairwise_cons.mpr ⟨fun z hz => ?_, ih hr⟩
      rcases List.mem_cons.mp ((insertBy_perm le x r).mem_iff.mp hz) with rfl | hz
      · exact (ht y z).resolve_right ‹_›
      · exact hy z hz

theorem sortBy_pairwise {α : Type} {le : α → α → Bool} (ht : ∀ a b, le a b = true ∨ le b a = true)
    (htr : ∀ a b c, le a b = true → le b c = true → le a c = true) (l : List α) :
    (sortBy le l).Pairwise (fun a b => le a b = true) := by
  induction l with
  | nil => exact List.Pairwise.nil
  | cons x r ih => exact insertBy_pairwise ht htr x ih

/-- The credits of a generation for notifications. -/
def SeamSt.outCredits (x : SeamSt) (gen2 : Bool) : Nat := if gen2 then x.crdOq2 else x.crdOq

/-- A note leaves as one WRITE beat and takes a credit (R43, R49). -/
def SeamSt.noted (x : SeamSt) (n : Note) (rest : List Note) : SeamSt :=
  { x with
    notes := rest
    sent := x.sent ++ [{ gen2 := n.gen2, opc := 2, dom := n.dom, tag := (Config.outTag x.sent.length).toNat, beats := 0
                         addr := n.addr, beat := n.data ++ zeros (beatBytes n.gen2 - n.data.length) }]
    crdOq := if n.gen2 then x.crdOq else x.crdOq - 1, crdOq2 := if n.gen2 then x.crdOq2 - 1 else x.crdOq2 }

theorem SeamSt.noted_credits {x : SeamSt} {n : Note} (rest : List Note) (h : x.outCredits n.gen2 ≠ 0) :
    (x.noted n rest).crdOq + (x.noted n rest).crdOq2 + 1 = x.crdOq + x.crdOq2 := by
  cases hg : n.gen2 with
  | true =>
    rw [hg] at h
    have h : x.crdOq2 ≠ 0 := h
    simp only [SeamSt.noted, hg, if_true]
    omega
  | false =>
    rw [hg] at h
    have h : x.crdOq ≠ 0 := h
    simp only [SeamSt.noted, hg, Bool.false_eq_true, if_false]
    omega

section
variable {s : State} {n : Note} {rest : List Note} (hn : s.seam.notes = n :: rest) (hh : n.held = false)
  (hc : s.seam.outCredits n.gen2 ≠ 0) {f : Note → Bool} (hf : f n = true)
include hn hh hc hf

theorem State.driveNote_front : s.driveNote f = { s with seam := s.seam.noted n rest } := by
  have hfind : s.seam.notes.find? (fun n => f n && !n.held) = some n := by simp [hn, hh, hf]
  have he : s.seam.notes.erase n = rest := by simp [hn]
  rw [State.driveNote, hfind]
  exact (if_neg hc).trans (by rw [he]; rfl)

theorem State.noteDue_front : s.noteDue f = true := by
  have hfind : s.seam.notes.find? (fun n => f n && !n.held) = some n := by simp [hn, hh, hf]
  rw [State.noteDue, hfind]
  exact decide_eq_true (Nat.pos_of_ne_zero hc)

end

/-- Settles O28. -/
theorem attachPortCompletes : Obligations.AttachPortCompletes := by
  unfold Obligations.AttachPortCompletes
  refine ⟨fun s r k hr hk hw => ?_, fun s r => ⟨fun h1 h2 => ?_, fun ho hb => ?_, fun ho hlo hne => ?_, fun ho hb ha => ?_,
      fun ho hb ha hsl => ?_⟩,
    fun s hr => ⟨?_, ?_, fun hw => ?_, fun w rest hw hc hc2 => ?_⟩, fun s rs => ?_, fun s n rest hn hh hc => ?_⟩
  · intro m rsp
    have e : exec (.seamInvalidRequest r) s = .next (s.respondTo r.gen2 k r.tag r.dom m) := by
      change execSeamInvalidRequest r s = _
      rw [execSeamInvalidRequest, if_neg (ne_true_of_eq_false hr), hk]
    rw [State.respondTo_of_nil hw] at e
    have hans : s.seam.rspWait ++ [rsp] = [rsp] := by rw [hw]; rfl
    refine ⟨fun hc => answers_of_exec e ?_, fun hc => answers_of_exec e ?_⟩
    · rw [if_neg (by exact hc)]
      exact ⟨rfl, rfl, rfl⟩
    · rw [if_pos (by exact hc)]
      exact ⟨rfl, hans, rfl⟩
  · simp [State.invalidSts, h1, h2]
  · rw [State.invalidSts, if_neg (by omega)]
    exact if_pos hb
  · rw [State.invalidSts, if_neg (by omega)]
    exact (if_neg (by omega)).trans (if_pos hne)
  · rw [State.invalidSts, if_neg (by omega)]
    exact (if_neg (by omega)).trans ((if_neg (not_not.mpr hb)).trans (if_pos (by simp [ha])))
  · rw [State.invalidSts, if_neg (by omega)]
    exact (if_neg (by omega)).trans ((if_neg (not_not.mpr hb)).trans ((if_neg (by simp [ha, hsl])).trans (if_pos (.inl ho))))
  · refine answers_of_exec (c := .seamCreditReturn false false) ?_ rfl
    change execSeamCreditReturn false false s = _
    rw [execSeamCreditReturn, if_neg (ne_true_of_eq_false hr)]
    rfl
  · refine answers_of_exec (c := .seamCreditReturn true false) ?_ rfl
    change execSeamCreditReturn true false s = _
    rw [execSeamCreditReturn, if_neg (ne_true_of_eq_false hr)]
    rfl
  · refine answers_of_exec (c := .seamCreditReturn false true) (t := { s with seam := { s.seam with
      crdIp := s.seam.crdIp + 1 } }) ?_ rfl
    change execSeamCreditReturn false true s = _
    rw [execSeamCreditReturn, if_neg (ne_true_of_eq_false hr), if_pos rfl, State.drainRsps_of_nil (by exact hw)]
    rfl
  · cases hg : w.gen2 with
    | true =>
      refine answers_of_exec (c := .seamCreditReturn true true) (t := { s with seam := { s.seam with
        rspWait := rest, rspSent := s.seam.rspSent ++ [w] } }) ?_ rfl
      change execSeamCreditReturn true true s = _
      rw [execSeamCreditReturn, if_neg (ne_true_of_eq_false hr), if_pos rfl, State.drainRsps_of_credit (by exact hw)
        (by rw [hg]; exact congrArg (· + 1) hc2) (by rw [hg]; exact hc)]
      simp only [SeamSt.driven, hg, if_true]
      rfl
    | false =>
      refine answers_of_exec (c := .seamCreditReturn false true) (t := { s with seam := { s.seam with
        rspWait := rest, rspSent := s.seam.rspSent ++ [w] } }) ?_ rfl
      change execSeamCreditReturn false true s = _
      rw [execSeamCreditReturn, if_neg (ne_true_of_eq_false hr), if_pos rfl, State.drainRsps_of_credit (by exact hw)
        (by rw [hg]; exact congrArg (· + 1) hc) (by rw [hg]; exact hc2)]
      simp only [SeamSt.driven, hg, Bool.false_eq_true, if_false]
      rfl
  · refine ⟨_, rfl, sortBy_perm _ _, ?_⟩
    refine (sortBy_pairwise (fun a b => ?_) (fun a b c hab hbc => ?_) rs).imp fun h => of_decide_eq_true h
    · simpa using Nat.le_total _ _
    · simp only [decide_eq_true_eq] at hab hbc ⊢
      exact hab.trans hbc
  · intro out left
    have hleft : left { s with seam := s.seam.noted n rest } :=
      ⟨rfl, rfl, SeamSt.noted_credits rest hc, rfl, rfl⟩
    have hnote (kind : Nat) (hk : n.kind = kind) :
        s.driveNote (fun x => x.kind == kind && x.key == n.key) = { s with seam := s.seam.noted n rest } :=
      State.driveNote_front hn hh hc (by simp [hk])
    refine ⟨fun hk =>
        answers_of_exec (congrArg Host.Outcome.next (hnote 0 hk) : execCompletionNotify n.key s = _) hleft, fun hk => ?_,
      fun hk =>
        answers_of_exec (congrArg Host.Outcome.next (hnote 2 hk) : execDivertNotify n.key s = _) hleft,
      fun hk =>
        answers_of_exec (congrArg Host.Outcome.next (hnote 3 hk) : execAbortNotify n.key s = _) hleft⟩
    have hdue : s.noteDue (fun x => x.kind == 1 && x.key == n.key) = true :=
      State.noteDue_front hn hh hc (by simp [hk])
    have hd := hnote 1 hk
    change ∃ t, execWorkReadyNotify n.key s = .next t ∧ left t
    simp only [execWorkReadyNotify, hdue, hd, Bool.not_true, Bool.false_eq_true, if_false]
    split
    · exact ⟨_, rfl, hleft⟩
    · refine ⟨_, rfl, ?_⟩
      rw [State.bump_with_regs]
      exact hleft

end Sys2Proof.Machine
end

section
/-! SUPPORT. The descriptor at HEAD: when it is read, refused or taken; and the rows that complete at once (O30, O31). -/

-- One declaration after another: the check bounds the memory, and with it the threads.
set_option Elab.async false

namespace Sys2Proof.Machine

/-! ### Requests of attached memory -/

theorem piecesOf_ne_nil (a : Nat) {n : Nat} (h : 0 < n) : piecesOf a n ≠ [] := by
  unfold piecesOf
  rw [pages, if_neg (Nat.ne_of_gt h)]
  exact List.cons_ne_nil _ _

theorem State.reading_askReads (s : State) {ps : List (Nat × Nat)} (h : ps ≠ []) (o : MemObj) :
    (s.askReads ps o).reading o = true := by
  obtain ⟨q, ps, rfl⟩ := List.exists_cons_of_ne_nil h
  by_cases hn : s.readOpen o (readReq o q).port = true
  · have hm : (readReq o q) ∈ (s.askReads (q :: ps) o).memp.reads :=
      List.mem_append_right _ (List.mem_filter.mpr ⟨List.mem_map_of_mem (List.mem_cons_self ..), hn⟩)
    rw [State.reading, List.any_eq_true.mpr ⟨_, hm, decide_eq_true rfl⟩]
    rfl
  · have hm : (readReq o q) ∈ (s.askReads (q :: ps) o).memp.readQ :=
      List.mem_append_right _ (List.mem_filter.mpr ⟨List.mem_map_of_mem (List.mem_cons_self ..), by simp [hn]⟩)
    rw [State.reading, List.any_eq_true.mpr ⟨_, hm, decide_eq_true rfl⟩, Bool.or_true]
    rfl

theorem State.writing_askWrites (s : State) {ps : List (Nat × Nat)} (h : ps ≠ []) (o : MemObj) :
    (s.askWrites ps o).writing o = true := by
  obtain ⟨q, ps, rfl⟩ := List.exists_cons_of_ne_nil h
  by_cases hn : s.writeOpen o (writeReq o q).port = true
  · have hm : (writeReq o q) ∈ (s.askWrites (q :: ps) o).memp.writes :=
      List.mem_append_right _ (List.mem_filter.mpr ⟨List.mem_map_of_mem (List.mem_cons_self ..), hn⟩)
    rw [State.writing, List.any_eq_true.mpr ⟨_, hm, decide_eq_true rfl⟩]
    rfl
  · have hm : (writeReq o q) ∈ (s.askWrites (q :: ps) o).memp.writeQ :=
      List.mem_append_right _ (List.mem_filter.mpr ⟨List.mem_map_of_mem (List.mem_cons_self ..), by simp [hn]⟩)
    rw [State.writing, List.any_eq_true.mpr ⟨_, hm, decide_eq_true rfl⟩, Bool.or_true]
    rfl

theorem State.writing_wr (s : State) (a : Nat) {bs : Bytes} (h : bs ≠ []) (o : MemObj) :
    (s.wr a bs o).writing o = true :=
  State.writing_askWrites _ (piecesOf_ne_nil a (List.length_pos_iff.mpr h)) o

/-! ### The descriptor at HEAD -/

section
variable {s : State} {g : Nat} {d : Bytes} (hready : s.ready g = true)
include hready

theorem State.lt_of_ready : g < 64 := by
  simp only [State.ready, State.gValid, Bool.and_eq_true, decide_eq_true_eq] at hready
  exact hready.1.1.1.1.2.1

theorem State.stopped_of_ready : s.stopped (s.gPart g) = false := by
  simp only [State.ready, Bool.and_eq_true, Bool.not_eq_true'] at hready
  exact hready.2

theorem State.cur_of_ready : (s.group g).cur = none := by
  simp only [State.ready, Bool.and_eq_true, Option.isNone_iff_eq_none] at hready
  exact hready.1.1.1.2

variable (hd : s.headDesc g = some d) (mine : Bytes → Bool) (ops : Nat → Bytes → State → List (Nat × Nat))
  (f : Bytes → State → State)
include hd

theorem State.runDesc_of_unread (h0 : (s.group g).fetch = 0) : s.runDesc g mine ops f
    = s.askCmd g (s.rangeOf (s.gPart g) (s.gcfg g 8 8 + 64 * ((s.group g).head % 2 ^ s.gcfg g 3 1)) 64) := by
  rw [State.runDesc, if_neg (by simp [hready]), hd]
  exact if_pos h0

variable (h0 : (s.group g).fetch ≠ 0)
include h0

theorem State.runDesc_of_reading (hr : s.reading (.command g) = true) : s.runDesc g mine ops f = s := by
  rw [State.runDesc, if_neg (by simp [hready]), hd]
  exact (if_neg h0).trans (if_pos hr)

variable (hr : s.reading (.command g) = false)
include hr

theorem State.runDesc_of_here {mine : Bytes → Bool} (hb : s.headFault g d = 0) (hm : mine d = true)
    {ops : Nat → Bytes → State → List (Nat × Nat)} (ht : s.toRead g ops d = []) : s.runDesc g mine ops f = f d s := by
  rw [State.runDesc, if_neg (by simp [hready]), hd]
  refine (if_neg h0).trans ((if_neg (ne_true_of_eq_false hr)).trans ((if_neg (by simp [hm])).trans ?_))
  rw [ht]
  exact (if_neg (by simp)).trans (if_neg (not_not.mpr hb))

/-- An opcode that the group's class does not execute is refused whichever row is commanded (R133). -/
theorem State.runDesc_of_class (hc : classOk (s.gBatch g) (fld d 0 1) = false) :
    s.runDesc g mine ops f = s.refuseDesc g 1 d := by
  have hb : s.headFault g d = 1 := by simp [State.headFault, hc]
  have ht : s.toRead g ops d = [] := by
    rw [State.toRead, hb, if_neg (by decide), if_neg]
    rintro ⟨-, h1, h2⟩
    simp [classOk, h1, h2] at hc
  rw [State.runDesc, if_neg (by simp [hready]), hd]
  refine (if_neg h0).trans ((if_neg (ne_true_of_eq_false hr)).trans ((if_neg (by simp [hb])).trans ?_))
  rw [ht, hb]
  exact (if_neg (by simp)).trans (if_pos (by decide))

end

/-- What a taken descriptor is: the premises of its rows taken apart. -/
theorem taken.facts {s : State} {g : Nat} {d : Bytes} {opc : Nat} {ops : Nat → Bytes → State → List (Nat × Nat)}
    (h : taken s g d opc ops) : s.sound ∧ g < 64 ∧ s.stopped (s.gPart g) = false ∧ fld d 8 8 % 32 = 0
      ∧ (s.tr (s.gPart g) (fld d 8 8) 32 4).isSome = true ∧ fld d 0 1 = opc ∧ headRsv d = true := by
  obtain ⟨hs, hready, -, hf, ho, hh, -⟩ := h
  have ha : fld d 8 8 % 32 = 0 ∧ (s.tr (s.gPart g) (fld d 8 8) 32 4).isSome = true := by
    unfold State.headFault at hf
    split at hf
    · exact absurd hf (by decide)
    · split at hf
      · exact absurd hf (by decide)
      · split at hf
        · exact absurd hf (by decide)
        · refine ⟨not_not.mp ‹_›, ?_⟩
          rwa [Option.isNone_iff_eq_none, ← ne_eq, Option.ne_none_iff_isSome] at *
  exact ⟨hs, State.lt_of_ready hready, State.stopped_of_ready hready, ha.1, ha.2, ho, hh⟩

/-- A taken descriptor acts once what its row reads is here. -/
theorem taken.runDesc {s : State} {g : Nat} {d : Bytes} {opc : Nat} {ops ops' : Nat → Bytes → State → List (Nat × Nat)}
    (h : taken s g d opc ops) {mine : Bytes → Bool} (hm : mine d = true) (ht : s.toRead g ops' d = [])
    (f : Bytes → State → State) : s.runDesc g mine ops' f = f d s := by
  obtain ⟨-, hready, hd, hf, -, -, h0, hr, -⟩ := h
  exact State.runDesc_of_here hready hd f h0 hr hf hm ht

theorem taken.toRead {s : State} {g : Nat} {d : Bytes} {opc : Nat} {ops : Nat → Bytes → State → List (Nat × Nat)}
    (h : taken s g d opc ops) : s.toRead g ops d = [] := by
  obtain ⟨-, -, -, -, -, -, -, -, ht⟩ := h
  exact ht

theorem taken.answer_completed {s : State} {g : Nat} {d : Bytes} {opc : Nat} {ops : Nat → Bytes → State → List (Nat × Nat)}
    (h : taken s g d opc ops) (fault : Nat) :
    completed s ((s.begin g 1 d).answer g fault) g d (if fault = 0 then 0 else 4) fault := by
  obtain ⟨hs, hg, hst, ha, ht, ho, -⟩ := h.facts
  exact State.answer_completed fault hs hg ha ht hst

theorem refuseDesc_completed {s : State} {g : Nat} {d : Bytes} {fault : Nat} (hs : s.sound) (hready : s.ready g = true)
    (hn : ¬(fld d 0 1 = 1 ∧ !s.gBatch g)) (hf : fault ≠ 0) (ha : fld d 8 8 % 32 = 0)
    (ht : (s.tr (s.gPart g) (fld d 8 8) 32 4).isSome = true) :
    completed s (s.refuseDesc g fault d) g d 4 fault := by
  have h := State.answer_completed fault hs (State.lt_of_ready hready) ha ht (State.stopped_of_ready hready)
  rw [State.answer, if_neg hf] at h
  rw [State.refuseDesc]
  rwa [if_neg (by exact hn)]

/-! ### NOP -/

/-- Settles O30. -/
theorem nopCompletes : Obligations.NopCompletes := by
  unfold Obligations.NopCompletes
  refine ⟨fun s g d h => ?_, fun s g d hs hready hd ha ht hc h0 hr => ?_, fun s g d hs hg hready hd => ⟨fun h0 => ?_,
    fun h0 hr => ?_⟩⟩
  · obtain ⟨-, -, -, -, -, ho, hh⟩ := h.facts
    have e : exec (.nop g) s = .next ((s.begin g 1 d).answer g (if headRsv d && rsv d 16 48 then 0 else 2)) :=
      congrArg Host.Outcome.next (h.runDesc (by simp [ho]) h.toRead _)
    refine ⟨fun hv => ?_, fun hv => ?_⟩
    · rw [hh, hv] at e
      exact answers_of_exec e (h.answer_completed 0)
    · rw [hh, hv] at e
      exact answers_of_exec e (h.answer_completed 2)
  · have hn : ¬(fld d 0 1 = 1 ∧ !s.gBatch g) := by
      rintro ⟨h1, h2⟩
      simp [classOk, h1, h2] at hc
    have hcomp := refuseDesc_completed (fault := 1) hs hready hn (by decide) ha ht
    have e (mine ops f) := congrArg (Host.Outcome.next : State → Host.Outcome State Fault Refusal)
      (State.runDesc_of_class hready hd mine ops f h0 hr hc)
    exact ⟨answers_of_exec (e _ _ _ : execNop g s = _) hcomp, answers_of_exec (e _ _ _ : execStep g s = _) hcomp⟩
  · have hl : g < s.groups.length := hs.groupsLen.symm ▸ hg
    have e : exec (.nop g) s = _ := congrArg Host.Outcome.next (State.runDesc_of_unread hready hd _ _ _ h0)
    obtain ⟨a, ha⟩ : ∃ a, s.rangeOf (s.gPart g) (s.gcfg g 8 8 + 64 * ((s.group g).head % 2 ^ s.gcfg g 3 1)) 64
        = [(a, 64)] := by
      rw [State.headDesc, Option.map_eq_some_iff] at hd
      obtain ⟨a, ha, -⟩ := hd
      exact ⟨a, by rw [State.rangeOf, ha]; rfl⟩
    rw [ha] at e
    refine answers_of_exec e ⟨?_, ?_, fun k hk => ?_, rfl, rfl, rfl⟩
    · exact State.reading_askReads s (piecesOf_ne_nil a (n := 64) (by decide)) (.command g)
    · rw [State.askCmd, State.group_onGroup_self (by exact hl)]
      change { s.group g with fetch := (s.group g).fetch + 1 } = _
      rw [h0]
    · exact State.group_onGroup_ne _ _ hk
  · exact answers_of_exec (congrArg Host.Outcome.next (State.runDesc_of_reading hready hd _ _ _ h0 hr) : execNop g s = _) rfl

/-! ### Stream contexts -/

theorem find_insertBy_self {α : Type} (le : Nat × α → Nat × α → Bool) (n : Nat) (b : α) (l : List (Nat × α))
    (h : ∀ e ∈ l, e.1 ≠ n) : (insertBy le (n, b) l).find? (fun e => e.1 == n) = some (n, b) := by
  induction l with
  | nil => simp [insertBy]
  | cons y r ih =>
    have hy : (y.1 == n) = false := by simpa using h y (List.mem_cons_self ..)
    rw [insertBy]
    split
    · simp
    · rw [List.find?_cons, hy]
      exact ih fun e he => h e (List.mem_cons_of_mem _ he)

theorem allZero_iff (b : Bytes) : allZero b = true ↔ ∀ x ∈ b, x = 0 := by
  simp [allZero, List.all_eq_true]

/-- A context that is stored reads back; one of 64 zeros stands for a context that is not kept. -/
theorem State.context_setContext (s : State) (n : Nat) (b : Bytes) (h : allZero b = false ∨ b = zeros 64) :
    (s.setContext n b).context n = b := by
  have hrest : ∀ e ∈ s.ctx.filter (fun e => e.1 != n), e.1 ≠ n := fun e he => by simpa using (List.mem_filter.mp he).2
  cases hz : allZero b with
  | false =>
    simp only [State.setContext, State.context, hz, Bool.false_eq_true, if_false]
    rw [find_insertBy_self _ n b _ hrest]
    rfl
  | true =>
    have hb : b = zeros 64 := h.resolve_left (ne_false_of_eq_true hz)
    simp only [State.setContext, State.context, hz, if_true]
    rw [List.find?_eq_none.mpr fun e he => by simpa using hrest e he]
    exact hb.symm

theorem allZero_patch_zero (c v : Bytes) (x : Byte) (h : x ≠ 0) : allZero (patch c 0 (x :: v)) = false := by
  rw [Bool.eq_false_iff, ne_eq, allZero_iff]
  intro hz
  exact h (hz x (by simp [patch]))

theorem State.toRead_ctxReads {s : State} {g a : Nat} {d : Bytes} {opc : Nat} (h : taken s g d opc noReads)
    (h0 : fld d 24 8 = 0) : s.toRead g (ctxReads g a) d = [] := by
  obtain ⟨-, -, -, hf, -⟩ := h
  rw [State.toRead, if_pos hf]
  simp [ctxReads, h0]

/-- A stream command that leaves a context completes with it (R135). -/
theorem State.setContext_answer_completed {s : State} {g n : Nat} {d b : Bytes}
    {ops : Nat → Bytes → State → List (Nat × Nat)} (h : taken s g d 2 ops) (hb : allZero b = false ∨ b = zeros 64) :
    completed s (((s.begin g 1 d).setContext n b).answer g 0) g d 0 0
      ∧ (((s.begin g 1 d).setContext n b).answer g 0).context n = b := by
  obtain ⟨hs, hg, hst, ha, ht, ho, -⟩ := h.facts
  have hl : g < s.groups.length := hs.groupsLen.symm ▸ hg
  let u := (s.begin g 1 d).setContext n b
  have hcur : (u.group g).cur = some (freshCmd 1 d) := State.begin_cur hl 1 d
  refine ⟨completed_congr (u := u) rfl rfl ?_ (State.completeCmd_completed 0 hcur rfl ha ht hst rfl (by simp [freshCmd])
    hs.memWf), ?_⟩
  · change ((s.begin g 1 d).group g).head = _
    rw [State.begin, State.group_onGroup_self hl]
  · change (u.answer g 0).context n = b
    rw [State.context, State.answer_ctx]
    exact State.context_setContext _ n b hb

theorem exec_stream_fault {s : State} {g n : Nat} {d : Bytes} {ops : Nat → Bytes → State → List (Nat × Nat)}
    (h : taken s g d 2 ops) (k : Nat) (hk : k ≠ 0) :
    completed s ((s.begin g 1 d).answer g k) g d 4 k ∧ ((s.begin g 1 d).answer g k).context n = s.context n := by
  refine ⟨by simpa [hk] using h.answer_completed k, ?_⟩
  rw [State.context, State.answer_ctx, State.context]
  rfl

section
variable {s : State} {g a : Nat} {d : Bytes} {ops : Nat → Bytes → State → List (Nat × Nat)} (h : taken s g d 2 ops)
  (hf : streamFault d = 0) (hu : s.ctxUnderTest (fld d 16 2) = false) (ha : fld d 18 1 = a)
  (ht : s.toRead g (ctxReads g a) d = []) {f : State → Nat → Bytes → Nat → Bytes ⊕ Nat}
include h hf hu ha ht

/-- The rows of STREAM_CTL but PAUSE, once their descriptor acts (R135). -/
theorem taken.runStream : s.runStream g a f = match f (s.begin g 1 d) (s.gPart g) (s.context (fld d 16 2)) (fld d 24 8) with
    | .inr k => (s.begin g 1 d).answer g k
    | .inl b => ((s.begin g 1 d).setContext (fld d 16 2) b).answer g 0 := by
  obtain ⟨-, -, -, -, -, ho, -⟩ := h.facts
  have hm : isStream a d = true := by simp [isStream, ho, ha]
  refine (h.runDesc hm ht _).trans ?_
  dsimp only
  rw [if_neg (ne_true_of_eq_false hu), if_neg (not_not.mpr hf)]
  rfl

theorem taken.runStream_inl {b : Bytes}
    (hb : f (s.begin g 1 d) (s.gPart g) (s.context (fld d 16 2)) (fld d 24 8) = .inl b) :
    s.runStream g a f = ((s.begin g 1 d).setContext (fld d 16 2) b).answer g 0 := by
  rw [h.runStream hf hu ha ht, hb]

theorem taken.runStream_inr {k : Nat}
    (hb : f (s.begin g 1 d) (s.gPart g) (s.context (fld d 16 2)) (fld d 24 8) = .inr k) :
    s.runStream g a f = (s.begin g 1 d).answer g k := by
  rw [h.runStream hf hu ha ht, hb]

end

theorem State.begin_groups_length (s : State) (g phase : Nat) (d : Bytes) :
    (s.begin g phase d).groups.length = s.groups.length := by
  simp [State.begin, State.onGroup]

theorem taken.opcode {s : State} {g : Nat} {d : Bytes} {opc : Nat} {ops : Nat → Bytes → State → List (Nat × Nat)}
    (h : taken s g d opc ops) : fld d 0 1 = opc := by
  obtain ⟨-, -, -, -, -, ho, -⟩ := h.facts
  exact ho

/-- Settles O31. -/
theorem streamControlCompletes : Obligations.StreamControlCompletes := by
  unfold Obligations.StreamControlCompletes
  refine ⟨fun s g d h hf h0 hu => ?_, fun s g d a hf hn hu => ?_⟩
  · intro n c
    have hr (k : Nat) := State.toRead_ctxReads (a := k) h h0
    refine ⟨fun hk hc => ?_, fun hk hc hp => ?_, fun hk hc hp => ?_, fun hk hc hp => ?_, fun hk hc => ?_⟩
    · change ∃ t, execStreamOpen g s = .next t ∧ _
      refine ⟨_, congrArg Host.Outcome.next (h.runStream_inl hf hu hk (hr 0) ?_),
        State.setContext_answer_completed h (.inl (allZero_patch_zero _ _ 1 (by decide)))⟩
      exact (if_neg (not_not.mpr hc)).trans (if_pos h0)
    · change ∃ t, execStreamPause g s = .next t ∧ _
      refine ⟨_, congrArg Host.Outcome.next ((h.runDesc (by simp [isStream, h.opcode, hk]) h.toRead _).trans ?_),
        State.setContext_answer_completed h (.inl (allZero_patch_zero c [] 2 (by decide)))⟩
      exact (if_neg (ne_true_of_eq_false hu)).trans ((if_neg (not_not.mpr hf)).trans
        ((if_neg (not_or.mpr ⟨not_not.mpr hc, not_not.mpr hp⟩)).trans (if_pos h0)))
    · change ∃ t, execStreamResume g s = .next t ∧ _
      refine ⟨_, congrArg Host.Outcome.next (h.runStream_inl hf hu hk (hr 2) ?_),
        State.setContext_answer_completed h (.inl (allZero_patch_zero _ _ 1 (by decide)))⟩
      exact (if_neg (by simp [c, n] at hc hp; simp [hc, hp])).trans (if_pos h0)
    · change ∃ t, execStreamClose g s = .next t ∧ _
      refine ⟨_, congrArg Host.Outcome.next (h.runStream_inl hf hu hk (hr 3) ?_), State.setContext_answer_completed h (.inr rfl)⟩
      exact if_neg fun hx => hx.2 hp
    · change ∃ t, execStreamOpen g s = .next t ∧ _
      exact ⟨_, congrArg Host.Outcome.next (h.runStream_inr hf hu hk (hr 0) (if_pos hc)), exec_stream_fault h 5 (by decide)⟩
  · intro n c
    refine ⟨fun b h hk hc hb => ?_, fun h hg hk hc hp ha => ?_⟩
    · change ∃ t, execStreamOpen g s = .next t ∧ _
      refine ⟨_, congrArg Host.Outcome.next (h.runStream_inl hf hu hk h.toRead ?_),
        State.setContext_answer_completed h (.inl (allZero_patch_zero _ _ 1 (by decide)))⟩
      refine (if_neg (not_not.mpr hc)).trans ((if_neg hn).trans ?_)
      rw [show (s.begin g 1 d).loadCtx (s.gPart g) (fld d 24 8) = .inl b from hb]
      rfl
    · obtain ⟨hs, -⟩ := h.facts
      have hl : g < s.groups.length := hs.groupsLen.symm ▸ hg
      have hlen := (State.begin_groups_length s g 1 d).symm ▸ hl
      change ∃ t, execStreamPause g s = .next t ∧ _
      refine ⟨((((s.begin g 1 d).setContext n (patch c 0 (toLE 1 2))).wr a (patch c 0 (toLE 1 2))
        (.context (s.gPart g))).onGroup g (fun x => { x with cur := x.cur.map (fun k => { k with phase := 3 }) })),
        congrArg Host.Outcome.next ((h.runDesc (by simp [isStream, h.opcode, hk]) h.toRead _).trans ?_), ?_, ?_, ?_, ?_, ?_⟩
      · refine (if_neg (ne_true_of_eq_false hu)).trans ((if_neg (not_not.mpr hf)).trans
          ((if_neg (not_or.mpr ⟨not_not.mpr hc, not_not.mpr hp⟩)).trans ((if_neg hn).trans ?_)))
        have ha' : ({ s with groups := (s.begin g 1 d).groups } : State).tr (s.gPart g) (fld d 24 8) 64 4 = some a := ha
        change (match ({ s with groups := (s.begin g 1 d).groups } : State).tr (s.gPart g) (fld d 24 8) 64 4 with
          | none => _ | some a => _) = _
        rw [ha']
        rfl
      · exact State.context_setContext _ n _ (.inl (allZero_patch_zero c [] 2 (by decide)))
      · exact State.rd_of_write (s := s) rfl hs.memWf rfl
      · exact State.writing_wr _ a (by simp [patch, toLE]) _
      · rw [State.group_onGroup_self (by exact hlen)]
        change (((s.begin g 1 d).group g).cur.map _).map _ = _
        rw [State.begin_cur hl]
        rfl
      · rw [State.group_onGroup_self (by exact hlen)]
        change ((s.begin g 1 d).group g).head = _
        rw [State.begin_group hl]

end Sys2Proof.Machine
end

section
/-! SUPPORT. The next journal record, written at the write count's place of the ring (R385, O37). -/

-- One declaration after another: the check bounds the memory, and with it the threads.
set_option Elab.async false

namespace Sys2Proof.Machine

theorem State.part_onPart_self {s : State} {p : Nat} (h : p < s.parts.length) (f : Part → Part) :
    (s.onPart p f).part p = f (s.part p) := by
  rw [State.part_onPart s p p f h, if_pos rfl]

theorem State.part_onPart_ne (s : State) {p q : Nat} (f : Part → Part) (h : q ≠ p) : (s.onPart p f).part q = s.part q := by
  rw [State.onPart, State.part, getD_setAt, if_neg fun e => h e.1.symm]
  rfl

theorem piecesOf_zero (a : Nat) : piecesOf a 0 = [] := rfl

/-- Writing answers for an object whether a store of it is outstanding: after one of no byte, as before. -/
theorem State.writing_wr_eq (s : State) (a : Nat) (bs : Bytes) (o : MemObj) (h : s.writing o = false) :
    (s.wr a bs o).writing o = !bs.isEmpty := by
  cases bs with
  | nil =>
    refine Eq.trans ?_ h
    simp [State.wr, piecesOf_zero, State.askWrites, State.writing, State.issueNow]
  | cons b bs => exact State.writing_wr s a (List.cons_ne_nil b bs) o

/-- Settles O37. -/
theorem journalWritesComplete : Obligations.JournalWritesComplete := by
  unfold Obligations.JournalWritesComplete
  intro s p a r rest hs hp hq hw ha size used
  have hl : p < s.parts.length := hs.partsLen.symm ▸ hp
  refine ⟨fun h1 h2 => ?_, fun h1 h2 h3 hon => ?_⟩
  · have e : exec (.journalWrite p) s = .next ((s.onPart p (fun y => { y with jrnWait := false })).wr
        (a + (s.part p).jrnW % size) r (.journal p)) := by
      change execJournalWrite p s = _
      simp only [execJournalWrite, hq]
      rw [if_neg (ne_true_of_eq_false hw), decide_eq_false (Nat.not_lt.mpr h1)]
      simp only [Bool.false_eq_true, if_false]
      rw [if_neg (Nat.not_lt.mpr h2)]
      change Host.Outcome.next ((s.onPart p _).wr ((s.tr p (fld (s.part p).jrnRec 8 8) 1 6).getD 0 + _) r _) = _
      rw [ha]
      rfl
    refine answers_of_exec e ⟨?_, ?_, ?_, rfl, fun b hb => ?_⟩
    · exact State.rd_of_write (s := s) rfl hs.memWf rfl
    · exact State.writing_wr_eq (s.onPart p _) _ r _ hw
    · refine (congrArg Part.jrnQ (State.part_onPart_self hl _)).trans hq
    · exact State.byte_wr (s.onPart p _) _ b r _ hs.memWf hb
  · have e : exec (.journalWrite p) s
        = .next ((s.onPart p (fun y => { y with jrnWait := true })).bump rJRN_FULL_CNT 1) := by
      change execJournalWrite p s = _
      simp only [execJournalWrite, hq]
      rw [if_neg (ne_true_of_eq_false hw), decide_eq_false (Nat.not_lt.mpr h1)]
      simp only [Bool.false_eq_true, if_false]
      rw [if_pos h2, if_neg (ne_true_of_eq_false h3)]
    refine answers_of_exec e ⟨?_, ?_, ?_⟩
    · rw [State.part, State.bump_parts]
      exact congrArg Part.jrnWait (State.part_onPart_self hl _)
    · exact State.reg_bump_eq (s := s.onPart p _) hs.regsWf hon 1
    · rw [State.bump_mem]
      rfl

end Sys2Proof.Machine
end

section
/-! SUPPORT. What an operation leaves of every partition, as a view of its record; and a partition that is torn down (R151). -/

-- One declaration after another: the check bounds the memory, and with it the threads.
set_option Elab.async false

namespace Sys2Proof.Machine

/-- The view `v` of every partition is as before. -/
def State.Views {β : Type} (v : Part → β) (s t : State) : Prop := ∀ q, v (t.part q) = v (s.part q)

/-- Everything but the partitions. -/
def offParts : Touch → Prop
  | .part _ | .lists _ => False
  | _ => True

theorem State.Same.offParts {s t : State} (h : s.Same offParts t) : t.parts = s.parts := h.parts fun _ => ⟨id, id⟩

namespace State.Views

variable {β : Type} {v : Part → β}

theorem refl (s : State) : s.Views v s := fun _ => rfl

theorem trans {s t u : State} (h : s.Views v t) (k : t.Views v u) : s.Views v u := fun q => (k q).trans (h q)

theorem ofParts {s t : State} (h : t.parts = s.parts) : s.Views v t := fun q => by simp only [State.part, h]

theorem ofSame {s t : State} (h : s.Same offParts t) : s.Views v t := ofParts h.offParts

theorem onPart (s : State) (p : Nat) {f : Part → Part} (hf : ∀ x, v (f x) = v x) : s.Views v (s.onPart p f) := by
  intro q
  rw [State.part, State.onPart, getD_setAt]
  split
  · exact hf _
  · rfl

theorem foldl {α : Type} {f : State → α → State} (hf : ∀ (s : State) a, s.Views v (f s a)) (l : List α) (s : State) :
    s.Views v (l.foldl f s) := by
  induction l generalizing s with
  | nil => exact refl s
  | cons a l ih => exact (hf s a).trans (ih _)

end State.Views

@[simp] theorem State.onPart_length (s : State) (p : Nat) (f : Part → Part) :
    (s.onPart p f).parts.length = s.parts.length := by
  simp [State.onPart]

/-- What a partition runs on: its state, its fault, whether a teardown is under way, and whether it has a step. -/
def runView (x : Part) : Nat × Nat × Bool × Bool := (x.state, x.fault, x.stopping, x.step.isNone)

theorem runView_onStep (f : StepSt → StepSt) (x : Part) : runView { x with step := x.step.map f } = runView x := by
  simp [runView]

theorem State.onStep_run (s : State) (p : Nat) (f : StepSt → StepSt) : s.Views runView (s.onStep p f) :=
  .onPart s p (runView_onStep f)

theorem State.endAgain_run (s : State) (p : Nat) : s.Views runView (s.endAgain p) := by
  unfold State.endAgain
  split
  · exact .refl s
  · split
    · exact s.onStep_run p _
    · split
      · split
        · exact s.onStep_run p _
        · exact State.Views.trans (State.Views.onPart s p (f := fun y => { y with
            jrnQ := y.jrnQ.dropLast, jrnCrc := y.jrnCrc.take (y.jrnCrc.length - 64) }) fun x => rfl) (State.onStep_run _ p _)
      · exact .refl s

/-- A command that completes leaves the partitions but for the cores that it gives back (R142). -/
theorem State.complete_parts {s : State} {g : Nat} {c : Cmd} (hc : (s.group g).cur = some c)
    (status fault diverted stepNo ledger endAt : Nat) (jobs : List (Nat × Nat)) :
    (s.complete g status fault diverted stepNo ledger endAt jobs).parts = (s.leaveCores g status c).parts := by
  unfold State.complete
  simp -zeta only [hc]
  extract_lets u p addr place head s1 held s2 torn s3 s4
  have h1 : s1.parts = u.parts := by
    unfold s1
    clear_value place u
    split
    · exact State.askWrites_parts _ _ _
    · rfl
  have h2 : s2.parts = s1.parts := by
    unfold s2
    split
    · obtain ⟨r, e⟩ := s1.credits_with_regs jobs
      rw [e]
    · rfl
  have h3 : s3.parts = s2.parts := by
    unfold s3
    split
    · rfl
    · rfl
  have h4 : s4.parts = s3.parts := by
    unfold s4
    split
    · rfl
    · rfl
  exact h4.trans (h3.trans (h2.trans h1))

theorem State.coresBack_views {β : Type} {v : Part → β} (hv : ∀ x n, v { x with lentAt := n } = v x) (s : State) (g : Nat) :
    s.Views v (s.coresBack g) := by
  unfold State.coresBack
  split
  · exact .onPart s _ fun x => hv x _
  · exact .refl s

theorem State.leaveCores_views {β : Type} {v : Part → β} (hv : ∀ x n, v { x with lentAt := n } = v x) (s : State)
    (g status : Nat) (c : Cmd) : s.Views v (s.leaveCores g status c) := by
  unfold State.leaveCores
  extract_lets u
  have hu : s.Views v u := by
    unfold u
    split
    · exact s.coresBack_views hv g
    · exact .refl s
  split
  · exact hu.trans (.ofParts rfl)
  · exact hu

theorem State.complete_views {β : Type} {v : Part → β} (hv : ∀ x n, v { x with lentAt := n } = v x) (s : State)
    (g status fault diverted stepNo ledger endAt : Nat) (jobs : List (Nat × Nat)) :
    s.Views v (s.complete g status fault diverted stepNo ledger endAt jobs) := by
  cases hc : (s.group g).cur with
  | none =>
    unfold State.complete
    rw [hc]
    exact .refl s
  | some c => exact (s.leaveCores_views hv g status c).trans (.ofParts (State.complete_parts hc ..))

theorem State.completeCmd_views {β : Type} {v : Part → β} (hv : ∀ x n, v { x with lentAt := n } = v x) (s : State)
    (g status fault : Nat) : s.Views v (s.completeCmd g status fault) := by
  unfold State.completeCmd
  split
  · exact s.complete_views hv _ _ _ _ _ _ _ _
  · exact .refl s

theorem State.endWhen_views {β : Type} {v : Part → β} (hv : ∀ x n, v { x with lentAt := n } = v x) (s : State)
    (g status fault : Nat) (torn : Bool) (busy : Cmd → Bool) : s.Views v (s.endWhen g status fault torn busy) := by
  unfold State.endWhen
  split
  · split
    · split
      · exact .refl s
      · exact .ofParts rfl
    · exact s.completeCmd_views hv _ _ _
  · exact .refl s

theorem State.endWritten_views {β : Type} {v : Part → β} (hv : ∀ x n, v { x with lentAt := n } = v x) (s : State)
    (g status fault : Nat) (torn : Bool) : s.Views v (s.endWritten g status fault torn) :=
  s.endWhen_views hv g status fault torn _

theorem State.voidGrant_run (s : State) (p via src l m stepNo reason : Nat) :
    s.Views runView (s.voidGrant p via src l m stepNo reason) := by
  unfold State.voidGrant
  extract_lets me
  split
  · exact s.onStep_run p _
  · exact .ofSame (State.sendVoid_same _ _ _ _ _ _ _ _ _ _ _ (.refl s) trivial trivial trivial trivial)

theorem State.voidDest_run (s : State) (p l stepNo : Nat) (elastic : Bool) (m : Micro) :
    s.Views runView (s.voidDest p l stepNo elastic m) := by
  refine .foldl (fun s t => ?_) _ s
  split
  · exact s.voidGrant_run _ _ _ _ _ _ _
  · split
    · exact .refl s
    · exact .ofSame (State.voidReturn_same _ _ _ _ _ _ _ (.refl s) trivial trivial trivial trivial)

theorem State.abortRed_run (s : State) (p l : Nat) : s.Views runView (s.abortRed p l) := by
  unfold State.abortRed
  split
  · exact .refl s
  · extract_lets e
    split
    rename_i x r _ _ k u hdraw
    extract_lets m fo t t2
    have hk : u.parts = s.parts := by
      have hu : u = s.draw.2 := by rw [hdraw]
      rw [hu]
      rfl
    have h1 : s.Views runView t := .ofParts hk
    exact (h1.trans (t.onStep_run p _)).trans (.ofParts (by rw [State.raise_parts, State.bump_parts]))

theorem State.raiseAbort_run (s : State) (p l reason : Nat) : s.Views runView (s.raiseAbort p l reason) := by
  unfold State.raiseAbort
  split
  · exact .refl s
  · split
    · exact .trans (.ofSame (State.spread_same _ _ _ _ _ (.refl s) trivial trivial trivial trivial)) (State.abortRed_run _ p l)
    · exact .refl s

/-- A partition that runs and is torn down (R151): its state, its fault and what it keeps of a step. -/
theorem State.teardown_run {s : State} {p : Nat} (fault : Nat) (hlen : s.parts.length = 8) (hp : p < 8)
    (hst : s.stopped p = false) (hv : s.pValid p = true) : ∃ b, runView ((s.teardown p fault).part p) = (4, fault, true, b)
      ∧ ((s.part p).step = none → b = true)
      ∧ ∀ q, q ≠ p → runView ((s.teardown p fault).part q) = runView (s.part q) := by
  unfold State.teardown
  rw [if_neg (by simp [hst, hv])]
  extract_lets x layer s1 s2 s3 gs s4 cl pr po s5 s6
  have h2 : s.Views runView s2 := (s.endAgain_run p).trans (.ofParts (by rw [State.latch_parts, State.raise_parts]))
  have hl : p < s2.parts.length := by
    have h8 := (State.endAgain_same (F := fun _ => True) p (.refl s) trivial).partsLen hlen
    have h28 : s2.parts = (s.endAgain p).parts := by
      rw [State.latch_parts, State.raise_parts]
    rw [h28, h8]
    exact hp
  have h5 : s3.Views runView s6 := by
    refine .trans (t := s4) (.foldl (fun s g => ?_) _ _) ?_
    · extract_lets t
      refine .trans ?_ (.ofParts rfl)
      unfold t
      split
      · split
        · exact .refl s
        · exact s.endWritten_views (fun x n => rfl) _ _ _ _
      · exact .refl s
    · have h6 : s5.Same offParts s6 := State.freeTorn_same p (.refl s5) trivial
      exact .trans (t := s5) (.ofParts rfl) (.ofSame h6)
  have h3 : runView (s3.part p) = (4, fault, true, ((s2.part p).step.filter (fun y => y.launched || y.abortReg)).isNone) := by
    unfold s3
    rw [State.part_onPart_self hl]
    simp [runView]
  have hq (q : Nat) (hn : q ≠ p) : runView (s3.part q) = runView (s.part q) := by
    unfold s3
    rw [State.part_onPart_ne _ _ hn, h2 q]
  have hnone (h : (s.part p).step = none) : ((s2.part p).step.filter (fun y => y.launched || y.abortReg)).isNone = true := by
    have hv2 := congrArg (·.2.2.2) (h2 p)
    simp only [runView, h, Option.isNone_none, Option.isNone_iff_eq_none] at hv2
    simp [hv2]
  suffices hw : ∀ t, s6.Views runView t → ∃ b, runView (t.part p) = (4, fault, true, b)
      ∧ ((s.part p).step = none → b = true) ∧ ∀ q, q ≠ p → runView (t.part q) = runView (s.part q) by
    refine hw _ ?_
    split
    · exact .refl s6
    · extract_lets t1 t2
      refine .trans (t := t1) (.foldl (fun s q => ?_) _ _) (.trans (t := t2) (.foldl (fun s r => ?_) _ _) ?_)
      · extract_lets t m gates
        have ht : s.Views runView t := .foldl (fun s m => s.voidDest_run _ _ _ _ _) _ _
        split
        · refine ht.trans (.ofSame ?_)
          exact State.sendFinal_same _ _ _ _ _ _ (State.voidSrc_same _ _ _ _ _ (.refl t) trivial trivial trivial trivial)
            trivial trivial trivial trivial
        · exact ht
      · exact s.raiseAbort_run _ _ _
      · exact .ofSame (State.sendWithdraw_same _ _ _ (.refl t2) trivial trivial trivial trivial)
  exact fun t ht => ⟨_, ((h5.trans ht) p).trans h3, hnone, fun q hn => ((h5.trans ht) q).trans (hq q hn)⟩

end Sys2Proof.Machine
end

section
/-! SUPPORT. PART_CTL RESTART, the records of segment 255 and the end of a teardown (R151, R384, R410, R428; O35). -/

-- One declaration after another: the check bounds the memory, and with it the threads.
set_option Elab.async false

namespace Sys2Proof.Machine

/-! ### Array domains that go off -/

theorem State.bit_partOff (s : State) {p a : Nat} (ha : a < 32) (hb : bit (s.pCores p) (a / 4) = true) :
    bit (s.partOff p).power.domOn a = false := by
  let l := (List.range 32).filter (fun a => bit (s.pCores p) (a / 4))
  have hm : a ∈ l := List.mem_filter.mpr ⟨List.mem_range.mpr ha, hb⟩
  unfold State.partOff State.dropStarch
  split
  · rw [State.bit_domOn_domainsOff]
    simp [l] at hm ⊢
    simp [ha, hb]
  · change bit ((s.domainsOff l).domainsOff [45]).power.domOn a = false
    rw [State.bit_domOn_domainsOff, State.bit_domOn_domainsOff]
    simp [hm]

/-- Switching the domains of a partition's cores off leaves everything but the registers, the arrays, the cores and the supply. -/
def offTouch : Touch → Prop
  | .regs | .press | .cores | .power | .off => True
  | _ => False

theorem State.partOff_touch (s : State) (p : Nat) : s.Same offTouch (s.partOff p) :=
  State.partOff_same p (.refl s) trivial trivial trivial trivial

/-! ### Restart -/

/-- The partition as RESTART leaves it, before its records are asked for. -/
def State.restarted (s : State) (p : Nat) : State :=
  ((s.mgtAck.onPart p (fun x => { x with
    state := 1, ledNext := 0, anyNo := true, jrnRec := [], ledRec := [], step := x.step.filter (fun y => y.fin ≠ 3)
    lastNo := match x.step with | some y => some y.stepNo | none => x.lastNo })).replan p).rampUp p

theorem exec_partRestart_of_down {s : State} {p a : Nat} {v : Word} (hr : s.boot.rstLow = false) (hp : p < 8)
    (hon : s.powered (0x30020 + 4 * p) = true) (hb : bit v.toNat 0 = true) (hst : (s.part p).state = 4)
    (hu : s.units.memRet = 0) (hd : s.isDead s.member = false) (ht : s.tr p (255 * 2 ^ 56 + 128) 128 2 = some a) :
    exec (.partRestart p v) s = .next ((s.restarted p).issueRead a 128 (.record p)) := by
  have hrd : ((s.restarted p).issueRead a 128 (.record p)).reading (.record p) = true :=
    State.reading_askReads _ (piecesOf_ne_nil a (n := 128) (by decide)) _
  change execPartRestart p v s = _
  rw [execPartRestart, if_neg (ne_true_of_eq_false hr), if_neg (by simp [hon, hp])]
  dsimp only
  rw [if_neg (by simp only [not_or]; exact ⟨by simp [hb], not_not.mpr hst, not_not.mpr hu, ne_true_of_eq_false hd⟩)]
  have hf : (s.restarted p).fetchRecords p 128 128 = (s.restarted p).issueRead a 128 (.record p) := by
    rw [State.fetchRecords, show (s.restarted p).tr p (255 * 2 ^ 56 + 128) 128 2 = some a from ht]
  change Host.Outcome.next (if ((s.restarted p).fetchRecords p 128 128).reading (.record p) = true
    then (s.restarted p).fetchRecords p 128 128 else _) = _
  rw [hf, if_pos hrd]

theorem exec_partRestart_of_other {s : State} {p : Nat} {v : Word} (hr : s.boot.rstLow = false) (hp : p < 8)
    (hon : s.powered (0x30020 + 4 * p) = true) (h : bit v.toNat 0 = false ∨ (s.part p).state ≠ 4) :
    exec (.partRestart p v) s = .next s.mgtAck := by
  change execPartRestart p v s = _
  rw [execPartRestart, if_neg (ne_true_of_eq_false hr), if_neg (by simp [hon, hp])]
  exact if_pos (h.elim (fun h => .inl (by simp [h])) fun h => .inr (.inl h))

/-! ### The last beat of a read -/

/-- A beat that brings the rest of the port's oldest read ends it. -/
theorem exec_memReadBeat_last {s : State} {n i gv : Nat} {r : ReadReq} (hf : s.frontRead n = some (i, r))
    (hs : s.sealStall r = false) (hl : r.left ≤ validGranules gv) : exec (.memReadBeat n ⟨gv, false⟩) s
      = .next (({ s with memp := { s.memp with reads := s.memp.reads.eraseIdx i } } : State).readDone r.obj) := by
  change execMemReadBeat n ⟨gv, false⟩ s = _
  simp only [execMemReadBeat, hf]
  rw [if_neg (ne_true_of_eq_false hs)]
  refine congrArg (fun u : State => Host.Outcome.next (u.readDone r.obj)) ?_
  rw [State.tookGranules, if_pos hl]
  rfl

/-- What the end of a teardown touches beside its partition (R410, R428). -/
def finishTouch : Touch → Prop
  | .regs | .press | .cores | .power | .off | .seam | .tabs | .hamper => True
  | _ => False

/-- The end of a teardown without a step: `w` is the state before the partition's record is brought up to date. -/
theorem exec_teardownFinish_of_stepless {s : State} {p : Nat} (hstop : (s.part p).stopping = true) (ht : s.tabs = [])
    (hw : s.writesOf p = false) (hstep : (s.part p).step = none) : ∃ (f : Part → Part) (w : State),
      exec (.teardownFinish p) s = .next (w.onPart p f) ∧ (∀ y, (f y).stopping = false ∧ (f y).state = y.state)
        ∧ s.Same finishTouch w ∧ (∀ c ∈ w.hamper.chains, c.owner ≠ ownerOf (s.sect 5) p)
        ∧ ((s.part p).state = 4 → ∀ a, a < 32 → bit (s.pCores p) (a / 4) = true → bit w.power.domOn a = false) := by
  let v := (s.dropUnsent p).freeOwner (ownerOf (s.sect 5) p)
  have e : exec (.teardownFinish p) s = .next ((s.dropUnsent p).endTeardown p) := by
    change execTeardownFinish p s = _
    simp only [execTeardownFinish]
    rw [if_neg (by simp [hstop, State.tabsAnswered, ht, hw])]
    have hn : ((s.part p).step.filter (fun x => x.tornBy.isSome)) = none := by rw [hstep]; rfl
    rw [hn]
  have hv : s.Same finishTouch v :=
    State.freeOwner_same _ (State.dropUnsent_same p (.refl s) trivial trivial) trivial
  have hown : ∀ c ∈ v.hamper.chains, c.owner ≠ ownerOf (s.sect 5) p := by
    intro c hc
    simpa using (List.mem_filter.mp hc).2
  refine ⟨_, if (v.part p).state != 4 then v else v.partOff p, e, fun y => ⟨rfl, rfl⟩, ?_, ?_, ?_⟩
  · split
    · exact hv
    · exact State.partOff_same p hv trivial trivial trivial trivial
  · split
    · exact hown
    · rw [(v.partOff_touch p).hamper id]
      exact hown
  · intro h4 a ha hb
    have h4' : ((v.part p).state != 4) = false := by simp [show (v.part p).state = 4 from h4]
    rw [h4']
    exact v.bit_partOff ha hb

/-- Settles O35. -/
theorem restartCompletes : Obligations.RestartCompletes := by
  unfold Obligations.RestartCompletes
  refine ⟨fun s p v hs hr hp hon hb hst hu hd hstep ht => ?_, fun s n i gv p r hs hp hf ho hse hle hrd hst hj => ?_,
    fun s p v hr hp hon h => answers_of_exec (exec_partRestart_of_other hr hp hon h) rfl,
    fun s p hs hp hstop ht hw hstep => ?_⟩
  · have hl : p < s.parts.length := hs.partsLen.symm ▸ hp
    obtain ⟨a, ha⟩ := Option.isSome_iff_exists.mp ht
    obtain ⟨k, hpart⟩ : ∃ k, (s.restarted p).part p = { s.part p with
        state := 1, ledNext := 0, anyNo := true, jrnRec := [], ledRec := [], arrays := k
        step := (s.part p).step.filter (fun y => y.fin ≠ 3)
        lastNo := match (s.part p).step with | some y => some y.stepNo | none => (s.part p).lastNo } := by
      let u := s.mgtAck.onPart p (fun x => { x with
        state := 1, ledNext := 0, anyNo := true, jrnRec := [], ledRec := [], step := x.step.filter (fun y => y.fin ≠ 3)
        lastNo := match x.step with | some y => some y.stepNo | none => x.lastNo })
      have hu : p < u.parts.length := (State.onPart_length _ _ _).symm ▸ hl
      have h1 : (s.restarted p).part p = { u.part p with arrays := sumNat ((u.arraysOf p).map (2 ^ ·)) } :=
        State.part_onPart_self hu _
      exact ⟨sumNat ((u.arraysOf p).map (2 ^ ·)), h1.trans (by rw [State.part_onPart_self (s := s.mgtAck) hl]; rfl)⟩
    refine answers_of_exec (exec_partRestart_of_down hr hp hon hb hst hu hd ha) ⟨?_, ?_, ?_, ?_, ?_, rfl, rfl, rfl, fun q hq => ?_⟩
    · exact congrArg Part.state hpart
    · exact State.reading_askReads _ (piecesOf_ne_nil a (n := 128) (by decide)) _
    · exact congrArg Part.jrnRec hpart
    · exact congrArg Part.ledNext hpart
    · exact congrArg Part.anyNo hpart
    · exact (State.part_onPart_ne _ _ hq).trans (State.part_onPart_ne _ _ hq)
  · have e := exec_memReadBeat_last hf hse hle
    rw [ho, State.readDone, if_neg (ne_true_of_eq_false hrd)] at e
    have hl : p < s.parts.length := hs.partsLen.symm ▸ hp
    let u : State := { s with memp := { s.memp with reads := s.memp.reads.eraseIdx i } }
    have hj0 : (s.part p).jrnRec.length = 0 := List.length_eq_zero_iff.mpr hj
    have ht : u.takeRecords p = match s.readRecords p with
        | some (j, l) => u.onPart p (fun x => { x with jrnRec := j, ledRec := l })
        | none => u.teardown p 8 := by
      refine (if_neg ?_).trans rfl
      rintro h
      rcases Bool.or_eq_true_iff.mp h with h | h
      · exact absurd (hst.symm.trans h) (by decide)
      · exact absurd hj0 (of_decide_eq_true h)
    change exec _ s = .next (u.takeRecords p) at e
    rw [ht] at e
    refine ⟨fun j l h => ?_, fun h hv => ?_⟩
    · rw [h] at e
      exact answers_of_exec e ⟨State.part_onPart_self (s := u) hl _, rfl, rfl⟩
    · rw [h] at e
      obtain ⟨b, hb, -⟩ := State.teardown_run (s := u) 8 hs.partsLen hp hst hv
      simp only [runView, Prod.mk.injEq] at hb
      exact answers_of_exec e ⟨hb.1, hb.2.1⟩
  · obtain ⟨f, w, e, hf, hsame, hown, hoff⟩ := exec_teardownFinish_of_stepless hstop ht hw hstep
    have hwp : w.parts = s.parts := hsame.parts fun _ => ⟨id, id⟩
    have hl : p < w.parts.length := hwp ▸ hs.partsLen.symm ▸ hp
    have hpart : w.part p = s.part p := by rw [State.part, hwp, State.part]
    refine answers_of_exec e ⟨?_, ?_, hsame.mem id id, hown, hoff⟩
    · rw [State.part_onPart_self hl, (hf _).1]
    · rw [State.part_onPart_self hl, (hf _).2, hpart]

end Sys2Proof.Machine
end

section
/-! SUPPORT. The ports of attached memory: beats, responses, errors and their repetition (R51 to R56, R406 to R408; O29). -/

-- One declaration after another: the check bounds the memory, and with it the threads.
set_option Elab.async false

namespace Sys2Proof.Machine

/-! ### Bits of a mask -/

/-- A bit of a mask that is set or cleared reads as set or cleared, and every other one as it was. -/
theorem bit_setBit (v k i : Nat) (b : Bool) : bit (setBit v k b) i = if i = k then b else bit v i := by
  have hadd (h : v.testBit k = false) (j : Nat) (hj : j ≠ k) : (v + 2 ^ k).testBit j = v.testBit j := by
    have hk : (v + 2 ^ k).testBit k = true := by
      rw [Nat.add_comm, Nat.testBit_two_pow_add_eq, h]
      rfl
    have := testBit_sub_two_pow hk j
    simpa [hj] using this.symm
  unfold setBit
  simp only [bit_eq_testBit]
  by_cases hv : v.testBit k = true
  · cases b with
    | true =>
      by_cases hi : i = k
      · simp [hi, hv]
      · simp [hi, hv]
    | false =>
      simp only [hv, if_true, Bool.false_eq_true, if_false, testBit_sub_two_pow hv]
      by_cases hi : i = k
      · simp [hi]
      · simp [hi]
  · have hv' : v.testBit k = false := by simpa using hv
    cases b with
    | true =>
      by_cases hi : i = k
      · subst hi
        rw [if_neg hv, if_pos rfl, if_pos rfl, Nat.add_comm, Nat.testBit_two_pow_add_eq, hv']
        rfl
      · rw [if_neg hv, if_pos rfl, if_neg hi, hadd hv' i hi]
    | false =>
      by_cases hi : i = k
      · subst hi
        simp [hv']
      · simp [hv', hi]

/-! ### The front of a port -/

theorem State.frontRead_get {s : State} {n i : Nat} {r : ReadReq} (h : s.frontRead n = some (i, r)) :
    s.memp.reads[i]? = some r := by
  unfold State.frontRead at h
  obtain ⟨k, -, hk⟩ := Option.bind_eq_some_iff.mp h
  obtain ⟨r', hr, e⟩ := Option.map_eq_some_iff.mp hk
  cases e
  exact hr

theorem getElem?_setAt_self {α : Type} (l : List α) (i : Nat) (f : α → α) {a : α} (h : l[i]? = some a) :
    (setAt l i f)[i]? = some (f a) := by
  induction l generalizing i with
  | nil => cases h
  | cons x l ih =>
    cases i with
    | zero => cases h; rfl
    | succ i => exact ih i h

/-! ### Reads -/

theorem exec_memReadBeat_eq {s : State} {n i gv : Nat} {late : Bool} {r : ReadReq} (hf : s.frontRead n = some (i, r))
    (hs : s.sealStall r = false) : exec (.memReadBeat n ⟨gv, late⟩) s
      = .next (((s.lateBeat n late).tookGranules i (validGranules gv) r).readDone r.obj) := by
  change execMemReadBeat n ⟨gv, late⟩ s = _
  simp only [execMemReadBeat, hf]
  rw [if_neg (ne_true_of_eq_false hs)]

/-- A read of which beats are still to come is not done. -/
theorem State.readDone_of_left {s : State} {n i k : Nat} {r : ReadReq} (hf : s.frontRead n = some (i, r)) (hl : k < r.left)
    {u : State} (hu : u.memp = s.memp) : (u.tookGranules i k r).readDone r.obj = { u with memp := { s.memp with
      reads := setAt s.memp.reads i (fun (r : ReadReq) => { r with
        addr := r.addr / 64 * 64 + 64 * k, gran := r.gran + k, left := r.left - k }) } } := by
  have e : u.tookGranules i k r = { u with memp := { s.memp with reads := setAt s.memp.reads i (fun (r : ReadReq) => { r with
      addr := r.addr / 64 * 64 + 64 * k, gran := r.gran + k, left := r.left - k }) } } := by
    rw [State.tookGranules, if_neg (Nat.not_le.mpr hl), hu]
  have hr : (u.tookGranules i k r).reading r.obj = true := by
    have hm := List.mem_of_getElem? (getElem?_setAt_self _ i (fun (r : ReadReq) => { r with
      addr := r.addr / 64 * 64 + 64 * k, gran := r.gran + k, left := r.left - k }) (State.frontRead_get hf))
    rw [e, State.reading, List.any_eq_true.mpr ⟨_, hm, decide_eq_true rfl⟩]
    rfl
  exact (if_pos hr).trans e

theorem State.readDone_of_plain (s : State) {o : MemObj} (h : plainRead o = true) : s.readDone o = s := by
  unfold State.readDone
  split
  · rfl
  · split <;> first | rfl | cases h

/-! ### Write responses -/

theorem exec_memWriteResponse_eq {s : State} {n i : Nat} {w : WriteReq} (hf : s.frontWrite n = some (i, w)) :
    exec (.memWriteResponse n) s
      = .next (({ s with memp := { s.memp with writes := s.memp.writes.eraseIdx i } } : State).writeDone w.obj) := by
  change execMemWriteResponse n s = _
  simp only [execMemWriteResponse, hf]

theorem State.writeDone_of_writing {s : State} {o : MemObj} (h : s.writing o = true) : s.writeDone o = s := if_pos h

theorem State.cmdWritten_completed {s : State} {g : Nat} {c : Cmd} (hw : s.cmdWriting g = false)
    (hc : (s.group g).cur = some c) (hph : c.phase = 3) (he : c.endAs = none) (ht : c.torn = false)
    (hst : s.stopped (s.gPart g) = false) (hr : (s.tr (s.gPart g) (fld c.desc 8 8) 32 4).isSome = true)
    (ha : fld c.desc 8 8 % 32 = 0) (hseq : c.seq = fld c.desc 4 4) (hwf : spWf s.mem = true) :
    completed s (s.cmdWritten g) g c.desc 0 0 := by
  have e : s.cmdWritten g = s.completeCmd g 0 0 := by
    simp only [State.cmdWritten, hc, he]
    rw [if_pos (by simp [hph, hw])]
    rfl
  rw [e]
  exact State.completeCmd_completed 0 hc hseq ha hr hst ht (by omega) hwf

/-! ### Errors -/

/-- The state in which an error has raised the bucket, before it is counted (R406). -/
def State.errorNoted (s : State) (n : Nat) : State :=
  let u : State := { s with memp := { s.memp with
    buckets := setAt s.memp.buckets n (fun _ => s.memp.buckets.getD n 0 + 1) } }
  if s.memp.buckets.getD n 0 = 0 then u.leakMark (keyMem n) else u

theorem State.memEvent_of_room {s : State} {n : Nat} (cnt : Nat) (h : s.memp.buckets.getD n 0 < 63) :
    s.memEvent n cnt = (s.errorNoted n).bump cnt 1 := by
  have hk : min 64 (s.memp.buckets.getD n 0 + 1) = s.memp.buckets.getD n 0 + 1 := by omega
  simp only [State.memEvent, hk, State.errorNoted, Nat.add_eq_right]
  rw [if_neg (by omega)]

theorem State.errorNoted_eq (s : State) (n : Nat) : ∃ l, s.errorNoted n = { s with
    leaks := l
    memp := { s.memp with buckets := setAt s.memp.buckets n (fun _ => s.memp.buckets.getD n 0 + 1) } } := by
  unfold State.errorNoted
  extract_lets u
  split
  · exact ⟨_, rfl⟩
  · exact ⟨_, rfl⟩

/-- An error that does not fill the bucket raises it and is counted (R406). -/
theorem State.memEvent_spec {s : State} {n : Nat} (cnt : Nat) (h : s.memp.buckets.getD n 0 < 63) : ∃ r l,
    s.memEvent n cnt = { s with
      regs := r, leaks := l
      memp := { s.memp with buckets := setAt s.memp.buckets n (fun _ => s.memp.buckets.getD n 0 + 1) } }
      ∧ (spWf s.regs = true → s.powered cnt = true → (s.memEvent n cnt).reg cnt = satAdd (s.reg cnt) 1) := by
  obtain ⟨l, e⟩ := s.errorNoted_eq n
  refine ⟨_, l, (State.memEvent_of_room cnt h).trans ((State.bump_with_regs _ _ _).trans (by rw [e])), fun hwf hp => ?_⟩
  rw [State.memEvent_of_room cnt h, e]
  exact State.reg_bump_eq (s := { s with leaks := l, memp := _ }) hwf hp 1

/-- The 64th error retires the port and tears every partition down (R408). -/
theorem State.memEvent_full {s : State} {n : Nat} (cnt : Nat) (h : 63 ≤ s.memp.buckets.getD n 0)
    (hb : bit s.units.memRet n = false) : ∃ u : State, s.memEvent n cnt = u.endSaves.teardownAll 13
      ∧ bit u.units.memRet n = true ∧ u.parts = s.parts ∧ u.img = s.img := by
  have hk : min 64 (s.memp.buckets.getD n 0 + 1) = 64 := by omega
  simp only [State.memEvent, hk]
  rw [if_pos trivial]
  obtain ⟨l, r, e⟩ : ∃ l r, State.bump (if 64 = 1 then
      ({ s with memp := { s.memp with buckets := setAt s.memp.buckets n (fun _ => 64) } } : State).leakMark (keyMem n)
      else { s with memp := { s.memp with buckets := setAt s.memp.buckets n (fun _ => 64) } }) cnt 1 = { s with
        regs := r, leaks := l, memp := { s.memp with buckets := setAt s.memp.buckets n (fun _ => 64) } } :=
    ⟨_, _, State.bump_with_regs _ _ _⟩
  rw [e]
  unfold State.retireMemPort
  rw [if_neg (ne_true_of_eq_false hb)]
  refine ⟨_, rfl, ?_, ?_, ?_⟩
  · rw [State.raise_units]
    exact (bit_setBit _ _ _ _).trans (if_pos rfl)
  · rw [State.raise_parts]
  · rw [State.raise_img]

/-! ### All partitions torn down -/

theorem State.teardown_img (s : State) (p fault : Nat) : (s.teardown p fault).img = s.img :=
  (State.teardown_same (F := (· ≠ .img)) p fault (.refl s) nofun nofun nofun nofun nofun nofun nofun nofun nofun nofun
    nofun nofun nofun).img (by simp)

theorem State.teardown_units (s : State) (p fault : Nat) : (s.teardown p fault).units = s.units :=
  (State.teardown_same (F := (· ≠ .units)) p fault (.refl s) nofun nofun nofun nofun nofun nofun nofun nofun nofun nofun
    nofun nofun nofun).units (by simp)

theorem State.teardown_length {s : State} (p fault : Nat) (h : s.parts.length = 8) : (s.teardown p fault).parts.length = 8 :=
  (State.teardown_same (F := fun _ => True) p fault (.refl s) trivial trivial trivial trivial trivial trivial (fun _ => trivial)
    (fun _ => trivial) trivial trivial trivial trivial trivial).partsLen h

theorem State.stopped_of_run {s t : State} {p : Nat} (h : runView (t.part p) = runView (s.part p)) :
    t.stopped p = s.stopped p := by
  simp only [runView, Prod.mk.injEq] at h
  rw [State.stopped, State.stopped, h.1]

theorem State.stopped_teardown {s : State} {p : Nat} (fault : Nat) (hl : s.parts.length = 8) (hv : s.pValid p = true) :
    (s.teardown p fault).stopped p = true := by
  have hp : p < 8 := by
    simp only [State.pValid, Bool.and_eq_true, decide_eq_true_eq] at hv
    exact hv.1
  by_cases h : s.stopped p = true
  · rw [State.teardown, if_pos (by simp [h])]
    exact h
  · obtain ⟨b, hb, -⟩ := State.teardown_run fault hl hp (by simpa using h) hv
    simp only [runView, Prod.mk.injEq] at hb
    rw [State.stopped, hb.1]
    rfl

theorem State.stopped_teardown_of_stopped {s : State} {q : Nat} (p fault : Nat) (hl : s.parts.length = 8)
    (h : s.stopped q = true) : (s.teardown p fault).stopped q = true := by
  by_cases hst : (s.stopped p || !s.pValid p) = true
  · rwa [State.teardown, if_pos hst]
  · simp only [Bool.or_eq_true, Bool.not_eq_true', not_or, Bool.not_eq_false, Bool.not_eq_true] at hst
    by_cases hq : q = p
    · subst hq
      exact State.stopped_teardown fault hl hst.2
    · have hp : p < 8 := by
        have hv := hst.2
        simp only [State.pValid, Bool.and_eq_true, decide_eq_true_eq] at hv
        exact hv.1
      obtain ⟨-, -, -, ho⟩ := State.teardown_run fault hl hp hst.1 hst.2
      rwa [State.stopped_of_run (ho q hq)]

/-- With every partition torn down, every valid one stands still (R408). -/
theorem State.stopped_teardownAll {s : State} {p : Nat} (fault : Nat) (hl : s.parts.length = 8) (hv : s.pValid p = true) :
    (s.teardownAll fault).stopped p = true := by
  have hmem : p ∈ List.range 8 := by
    simp only [State.pValid, Bool.and_eq_true, decide_eq_true_eq] at hv
    exact List.mem_range.mpr hv.1
  have key (l : List Nat) : ∀ s : State, s.parts.length = 8 → s.pValid p = true → p ∈ l ∨ s.stopped p = true →
      (l.foldl (fun s p => s.teardown p fault) s).stopped p = true := by
    induction l with
    | nil => exact fun s _ _ h => h.resolve_left (by simp)
    | cons q l ih =>
      intro s hl hv h
      refine ih _ (State.teardown_length q fault hl) (by simpa only [State.pValid, State.pcfg, State.sect, State.teardown_img] using hv) ?_
      rcases h with h | h
      · rcases List.mem_cons.mp h with rfl | h
        · exact .inr (State.stopped_teardown fault hl hv)
        · exact .inl h
      · exact .inr (State.stopped_teardown_of_stopped q fault hl h)
  exact key _ s hl hv (.inl hmem)

theorem State.teardownAll_units (s : State) (fault : Nat) : (s.teardownAll fault).units = s.units :=
  foldl_view (·.units) _ (fun s p => s.teardown_units p fault) _ s

theorem State.endSaves_views {β : Type} {v : Part → β} (hv : ∀ x n, v { x with lentAt := n } = v x) (s : State) :
    s.Views v s.endSaves := by
  refine .foldl (fun s g => ?_) _ s
  split
  · split
    · exact s.completeCmd_views hv _ _ _
    · exact .refl s
  · exact .refl s

theorem State.completeCmd_buckets (s : State) (g status fault : Nat) :
    (s.completeCmd g status fault).memp.buckets = s.memp.buckets := by
  unfold State.completeCmd
  split
  · obtain ⟨r, m, o, n, ps, cs, hb, e⟩ := State.complete_eq ‹_› status fault 0 0 0xFFFFFFFF s.stitch.count _
    rw [e]
    exact hb
  · rfl

theorem State.completeCmd_units (s : State) (g status fault : Nat) : (s.completeCmd g status fault).units = s.units :=
  (State.completeCmd_same (F := (· ≠ .units)) g status fault (.refl s) nofun nofun nofun nofun nofun nofun nofun nofun
    nofun).units (by simp)

theorem State.completeCmd_img (s : State) (g status fault : Nat) : (s.completeCmd g status fault).img = s.img :=
  (State.completeCmd_same (F := (· ≠ .img)) g status fault (.refl s) nofun nofun nofun nofun nofun nofun nofun nofun
    nofun).img (by simp)

section
variable (s : State)

theorem State.endSaves_units : s.endSaves.units = s.units :=
  (State.endSaves_same (F := (· ≠ .units)) (.refl s) nofun nofun nofun nofun nofun nofun nofun nofun nofun).units (by simp)

theorem State.endSaves_img : s.endSaves.img = s.img :=
  (State.endSaves_same (F := (· ≠ .img)) (.refl s) nofun nofun nofun nofun nofun nofun nofun nofun nofun).img (by simp)

theorem State.endSaves_length {s : State} (h : s.parts.length = 8) : s.endSaves.parts.length = 8 :=
  (State.endSaves_same (F := fun _ => True) (.refl s) trivial trivial trivial trivial (fun _ => trivial) (fun _ => trivial)
    trivial trivial trivial).partsLen h

end

/-! ### Poison -/

theorem State.poison_run (s : State) (p l : Nat) (raised : Bool) : s.Views runView (s.poison p l raised) := by
  unfold State.poison
  split
  · exact .refl s
  · split
    · exact .refl s
    · extract_lets t u
      have ht : s.Views runView t := (s.endAgain_run p).trans (State.onStep_run _ p _)
      have hu : t.Views runView u := .trans (.ofSame (State.poisonCells_same p l (.refl t) trivial trivial trivial trivial))
        (.ofParts (by rw [State.raise_parts, State.bump_parts]))
      have htu := ht.trans hu
      split
      · exact htu.trans (.ofSame (State.spread_same _ _ _ _ _ (.refl u) trivial trivial trivial trivial))
      · exact htu

/-! ### Repetition -/

/-- The state in which the oldest access that may be repeated is repeated (R406). -/
def State.repeating (s : State) (r : Retry) : State :=
  ({ s with memp := { s.memp with retries := s.memp.retries.erase r } } : State).charge (if r.write then 7 else 6)
    (granules r.addr r.len)

theorem exec_memRetry_ok {s : State} {r : Retry} (h : s.nextRetry = some r) : exec (.memRetry ⟨true, false⟩) s
    = .next (if r.write then (s.repeating r).writeDone r.obj else (s.repeating r).readDone r.obj) := by
  change execMemRetry ⟨true, false⟩ s = _
  simp only [execMemRetry, h]
  rfl

theorem exec_memRetry_late {s : State} {r : Retry} (h : s.nextRetry = some r) (hw : r.write = false)
    (hp : plainRead r.obj = true) : exec (.memRetry ⟨true, true⟩) s = .next (((({ s with memp := { s.memp with
      retries := s.memp.retries.erase r } } : State).bump (rMEM_CONTRACT_CNT r.port) 1)).charge 6 (granules r.addr r.len)) := by
  change execMemRetry ⟨true, true⟩ s = _
  simp only [execMemRetry, h, hw]
  exact congrArg _ (State.readDone_of_plain _ hp)

/-- A router segment that is lost for good tears its partition down (R407). -/
theorem exec_memRetry_router {s : State} {r : Retry} {p l b k g : Nat} (h : s.nextRetry = some r)
    (ho : r.obj = .router p l b k g) (hw : r.write = false) (hlive : s.objLive r.obj = true)
    (hb : s.memp.buckets.getD r.port 0 < 63) : ∃ (es : List (Nat × Nat)) (u : State), u.parts = s.parts ∧ u.img = s.img
      ∧ exec (.memRetry ⟨false, false⟩) s = .next (es.foldl (fun s e => s.poison e.1 e.2 true) (u.teardown p 12)) := by
  let cnt := if r.write then rMEM_WERR_CNT r.port else rMEM_UE_CNT r.port
  obtain ⟨x, q, e, -⟩ := State.memEvent_spec (s := s.repeating r) (n := r.port) cnt hb
  let v := ((s.repeating r).memEvent r.port cnt).raise rFLT_EVT 1
  have hv : v.parts = s.parts ∧ v.img = s.img := by
    simp only [v, e, State.raise_parts, State.raise_img]
    exact ⟨rfl, rfl⟩
  have hvl : v.objLive r.obj = true := by
    rw [ho] at hlive ⊢
    rw [← hlive]
    simp only [State.objLive, State.objPart, State.part, hv.1]
  refine ⟨v.sealedAt r.addr r.len, v, hv.1, hv.2, ?_⟩
  change execMemRetry ⟨false, false⟩ s = _
  simp only [execMemRetry, h]
  refine (if_neg Bool.false_ne_true).trans ((if_neg ?_).trans ((if_neg (ne_true_of_eq_false hw)).trans ?_))
  · intro hx
    simp only [Bool.and_eq_true, Bool.not_eq_true'] at hx
    exact absurd (hvl.symm.trans hx.2) (by decide)
  · change Host.Outcome.next ((v.sealedAt r.addr r.len).foldl (fun s e => s.poison e.1 e.2 true) (v.readLost r.obj)) = _
    rw [ho]
    rfl

theorem State.writeDone_workTable (s : State) (tag : Nat) : ∃ n,
    s.writeDone (.workTable tag) = { s with seam := { s.seam with notes := n } } := by
  by_cases h : s.writing (.workTable tag) = true
  · exact ⟨_, if_pos h⟩
  · exact ⟨_, if_neg h⟩

/-- Notes that a rule releases where `P` holds are released there. -/
theorem mem_released {P : Note → Prop} [DecidablePred P] {l : List Note} {x : Note}
    (hx : x ∈ l.map (fun n => if P n then { n with held := false } else n))
    (hP : P x) : x.held = false := by
  obtain ⟨y, -, rfl⟩ := List.mem_map.mp hx
  by_cases hy : P y
  · rw [if_pos hy]
  · rw [if_neg hy] at hP
    exact absurd hP hy

/-- Settles O29. -/
theorem memoryPortsComplete : Obligations.MemoryPortsComplete := by
  unfold Obligations.MemoryPortsComplete
  refine ⟨fun s n i gv r hf hs hl => ?_, fun s n i gv r hf hs hl hp => ?_, fun s n i gv r hf hs hl hwf hon => ?_,
    fun s n i w hs hf => ?_, fun s n i w hf hwf hon => ?_, fun s n hn hl => ?_, fun s n i r hs hn hlen hon hf hse => ?_,
    fun s n i w hs hn hlen hon hf hb => ?_, fun s r h => ?_⟩
  · exact answers_of_exec ((exec_memReadBeat_eq hf hs).trans (congrArg _ (State.readDone_of_left hf hl rfl))) ⟨rfl, rfl, rfl⟩
  · exact answers_of_exec ((exec_memReadBeat_last hf hs hl).trans (congrArg _ (State.readDone_of_plain _ hp))) ⟨rfl, rfl, rfl⟩
  · refine answers_of_exec ((exec_memReadBeat_eq hf hs).trans (congrArg _ (State.readDone_of_left hf hl (State.bump_memp _ _ _))))
      ⟨?_, ?_⟩
    · exact State.reg_bump_eq hwf hon 1
    · exact State.bump_mem _ _ _
  · intro u off
    have e := exec_memWriteResponse_eq hf
    refine ⟨fun hw => ?_, fun p l k ho => ?_, fun tag ho hw => ?_, fun p ho hp hw => ?_, fun g ho hg hw => ?_,
      fun g c ho hg hw hc hph hend ht hst hr ha hseq => ?_⟩
    · exact answers_of_exec (e.trans (congrArg _ (State.writeDone_of_writing hw))) rfl
    · refine answers_of_exec (e.trans (congrArg _ ?_)) (rfl : u = u)
      rcases ho with ho | ho | ho | ho | ho | ho <;> rw [ho] <;> exact ite_self _
    · rw [ho] at e hw
      refine answers_of_exec (e.trans (congrArg _ (if_neg (ne_true_of_eq_false hw)))) ⟨⟨rfl, rfl, rfl⟩, fun x hx hk ht => ?_⟩
      exact mem_released (P := fun n => n.kind = 1 ∧ n.key = tag) hx ⟨hk, ht⟩
    · rw [ho] at e hw
      have hl : p < u.parts.length := hs.partsLen.symm ▸ hp
      have e2 : u.writeDone (.journal p) = u.onPart p (fun x => { x with
          jrnW := (x.jrnW + (x.jrnQ.headD []).length) % 2 ^ 64, jrnQ := x.jrnQ.drop 1 }) :=
        (if_neg (ne_true_of_eq_false hw)).trans (if_neg (ne_true_of_eq_false hw))
      refine answers_of_exec (e.trans (congrArg _ e2)) ⟨⟨rfl, rfl, rfl⟩, ?_, ?_⟩
      · rw [State.part_onPart_self hl]
        rfl
      · rw [State.part_onPart_self hl]
        rfl
    · rw [ho] at e hw
      have hl : g < u.groups.length := hs.groupsLen.symm ▸ hg
      have e2 : u.writeDone (.complRec g) = u.recVisible g := if_neg (ne_true_of_eq_false hw)
      have e3 : u.recVisible g = _ := if_neg (ne_true_of_eq_false hw)
      refine answers_of_exec (e.trans (congrArg _ (e2.trans e3))) ⟨⟨rfl, rfl, rfl⟩, ?_, fun x hx hk ht => ?_⟩
      · exact congrArg Group.recBusy (State.group_onGroup_self hl _)
      · exact mem_released (P := fun n => n.kind ≠ 1 ∧ n.key = g) hx ⟨hk, ht⟩
    · rw [ho] at e
      have hwb : u.writing (.batchOut g) = false := by
        simp only [State.cmdWriting, Bool.or_eq_false_iff] at hw
        exact hw.1.2
      have e2 : u.writeDone (.batchOut g) = u.cmdWritten g := if_neg (ne_true_of_eq_false hwb)
      exact answers_of_exec (e.trans (congrArg _ e2)) (completed_congr (u := u) rfl rfl rfl
        (State.cmdWritten_completed hw hc hph hend ht hst hr ha hseq hs.memWf))
  · have e : exec (.memRequestAccepted n) s = .next (s.bump (rMEM_CONTRACT_CNT n) 1) := by
      change execMemRequestAccepted n s = _
      rw [execMemRequestAccepted, if_pos (by simp [hf])]
    exact answers_of_exec e ⟨State.reg_bump_eq hwf hon 1, State.bump_memp _ _ _, State.bump_mem _ _ _⟩
  · have e : exec (.memBucketLeak n) s = .next (({ s with memp := { s.memp with
        buckets := setAt s.memp.buckets n (· - 1) } } : State).leakMark (keyMem n)) := by
      change execMemBucketLeak n s = _
      rw [execMemBucketLeak, if_pos hl]
    refine answers_of_exec e ⟨?_, fun k hk => ?_, rfl, rfl⟩
    · exact (getD_setAt ..).trans (if_pos ⟨rfl, hn⟩)
    · exact (getD_setAt ..).trans (if_neg fun h => hk h.1.symm)
  · let u : State := (s.retryLater { port := n, write := false, addr := r.addr / 64 * 64, len := 64, obj := r.obj }).tookGranules
      i 1 r
    have e : exec (.memUe n ⟨r.obj, false⟩) s = .next (u.memEvent n (rMEM_UE_CNT n)) := by
      change execMemUe n ⟨r.obj, false⟩ s = _
      simp only [execMemUe, hf]
      rw [if_neg (by simp [hse])]
      rfl
    have hl : n < s.memp.buckets.length := hlen.symm ▸ hn
    refine ⟨fun hb => ?_, fun hb hret => ?_⟩
    · obtain ⟨x, l, e2, hreg⟩ := State.memEvent_spec (s := u) (n := n) (rMEM_UE_CNT n) hb
      refine answers_of_exec e ⟨?_, hreg hs.regsWf hon, ?_, ?_, ?_⟩
      · rw [e2]
        exact (getD_setAt ..).trans (if_pos ⟨rfl, hl⟩)
      · rw [e2]
        rfl
      · rw [e2]
        rfl
      · rw [e2]
        rfl
    · obtain ⟨v, e2, hv, hparts, himg⟩ := State.memEvent_full (s := u) (n := n) (rMEM_UE_CNT n) hb hret
      refine answers_of_exec (e.trans (congrArg _ e2)) ⟨?_, fun p hp => ?_⟩
      · rw [State.teardownAll_units, State.endSaves_units]
        exact hv
      · have hvi : v.endSaves.img = s.img := (State.endSaves_img v).trans himg
        have hst := State.stopped_teardownAll (s := v.endSaves) (p := p) 13
          (State.endSaves_length (hparts ▸ hs.partsLen)) (by simpa only [State.pValid, State.pcfg, State.sect, hvi] using hp)
        simpa [State.stopped] using hst
  · let u : State := { s with memp := { s.memp with writes := s.memp.writes.eraseIdx i } }
    refine ⟨fun ho => ?_, fun g c ho hg hc hsv hph ht hst hr ha hseq => ?_⟩
    · let v := u.retryLater { port := n, write := true, addr := w.addr, len := w.len, obj := w.obj }
      have e : exec (.memWriteError n) s = .next (v.memEvent n (rMEM_WERR_CNT n)) := by
        change execMemWriteError n s = _
        simp only [execMemWriteError, hf]
        rfl
      obtain ⟨x, l, e2, hreg⟩ := State.memEvent_spec (s := v) (n := n) (rMEM_WERR_CNT n) hb
      refine answers_of_exec e ⟨?_, hreg hs.regsWf hon, ?_, ?_⟩
      · rw [e2]
        rfl
      · rw [e2]
        rfl
      · rw [e2]
        rfl
    · have e : exec (.memWriteError n) s = .next ((u.completeCmd g 2 10).memEvent n (rMEM_WERR_CNT n)) := by
        have hc' : (({ s with memp := { s.memp with writes := s.memp.writes.eraseIdx i } } : State).group g).cur = some c := hc
        change execMemWriteError n s = _
        simp only [execMemWriteError, hf, ho, hc']
        exact congrArg (fun u : State => Host.Outcome.next (u.memEvent n (rMEM_WERR_CNT n))) (if_pos (.inl hsv))
      have hm := State.completeCmd_completed (s := u) 10 (status := 2) hc hseq ha hr hst ht (by omega) hs.memWf
      obtain ⟨x, l, e2, -⟩ := State.memEvent_spec (s := u.completeCmd g 2 10) (n := n) (rMEM_WERR_CNT n)
        ((congrArg (fun l => List.getD l n 0) (State.completeCmd_buckets u g 2 10)).symm ▸ hb)
      rw [e2] at e
      exact answers_of_exec e (completed_congr (u := u) rfl rfl rfl hm)
  · refine ⟨fun hw hp => ⟨?_, fun hwf hon => ?_⟩, fun tag hw ho => ?_, fun p l b k g hs ho hw hp hv hst hlive hb => ?_⟩
    · have e := exec_memRetry_ok h
      rw [hw] at e
      exact answers_of_exec (e.trans (congrArg _ (State.readDone_of_plain _ hp))) ⟨rfl, rfl, rfl⟩
    · let u : State := { s with memp := { s.memp with retries := s.memp.retries.erase r } }
      exact answers_of_exec (exec_memRetry_late h hw hp) ⟨congrArg (·.retries) (State.bump_memp u _ _), State.bump_mem u _ _,
        State.reg_bump_eq (s := u) hwf hon 1⟩
    · have e := (exec_memRetry_ok h).trans (congrArg _ (if_pos hw))
      obtain ⟨n, e2⟩ := State.writeDone_workTable (s.repeating r) tag
      rw [ho, e2] at e
      exact answers_of_exec e ⟨rfl, rfl, rfl⟩
    · obtain ⟨es, u, hparts, himg, e⟩ := exec_memRetry_router h ho hw hlive hb
      have hst' : u.stopped p = false := by simpa only [State.stopped, State.part, hparts] using hst
      obtain ⟨c, hc, -⟩ := State.teardown_run (s := u) 12 (hparts ▸ hs.partsLen) hp hst'
        (by simpa only [State.pValid, State.pcfg, State.sect, himg] using hv)
      have hq := (State.Views.foldl (v := runView) (fun s (e : Nat × Nat) => s.poison_run e.1 e.2 true) es (u.teardown p 12) p).trans hc
      simp only [runView, Prod.mk.injEq] at hq
      exact answers_of_exec e ⟨hq.1, hq.2.1⟩

end Sys2Proof.Machine
end

section
/-! SUPPORT. STEP and PARK at HEAD, and the wake check (R115, R136, R146, R208; O33, O34). -/

-- One declaration after another: the check bounds the memory, and with it the threads.
set_option Elab.async false

namespace Sys2Proof.Machine

/-! ### STEP -/

theorem State.wake_of_queue {s : State} (p : Nat) (h : s.power.wakeq ≠ []) :
    s.wake p = { s with power := { s.power with wakeq := s.power.wakeq ++ [p] } } := by
  unfold State.wake
  exact if_neg (by simpa using h)

theorem memRead_take (m : List (Nat × Byte)) (a k n : Nat) (h : k ≤ n) : (memRead m a n).take k = memRead m a k := by
  induction k generalizing a n with
  | zero => rfl
  | succ k ih =>
    cases n with
    | zero => omega
    | succ n => simp only [memRead, List.take_succ_cons, ih (a + 1) n (by omega)]

theorem State.rd_take (s : State) (a k n : Nat) (h : k ≤ n) : (s.rd a n).take k = s.rd a k := memRead_take _ _ _ _ h

/-- What RDIVERT_CNT and RVARY_CNT count changes registers alone. -/
theorem State.bump_bump_eq (s : State) (a b n : Nat) : ∃ r, (s.bump a n).bump b n = { s with regs := r } :=
  ⟨_, by rw [State.bump_with_regs, State.bump_with_regs s]⟩

section
variable {s : State} {g : Nat} {d : Bytes} (h : taken s g d 1 (stepReads g))
include h

/-- A STEP that may become its partition's step does (R136). -/
theorem taken.step_taken (ht : (s.segList (s.gPart g) d).any (fun b => s.ctxUnderTest (fld b 0 2)) = false)
    (h1 : (s.part (s.gPart g)).state = 1) (hn : (s.part (s.gPart g)).step = none)
    (hs : (s.part (s.gPart g)).stopping = false)
    (hno : (s.part (s.gPart g)).anyNo = true
      ∨ (s.part (s.gPart g)).lastNo.map (fun n => (n + 1) % 2 ^ 64) = some (fld d 16 8)) :
    ∃ r, exec (.step g) s = .next { (s.begin g 2 d).onPart (s.gPart g) (fun y => { y with
      step := some (s.newStep g d) }) with regs := r } := by
  obtain ⟨-, -, -, -, -, -, hh⟩ := h.facts
  obtain ⟨r, e⟩ := State.bump_bump_eq ((s.begin g 2 d).onPart (s.gPart g) (fun y => { y with step := some (s.newStep g d) }))
    rDIVERT_CNT (rVARY_CNT (s.gPart g) 0) (s.newStep g d).diverted.length
  refine ⟨r, congrArg Host.Outcome.next ((h.runDesc (by simp [h.opcode]) h.toRead _).trans ?_)⟩
  refine (if_neg (by simp [hh])).trans ((if_neg (by omega)).trans ((if_neg ?_).trans ((if_neg ?_).trans e)))
  · rw [h1, hn, hs, ht]
    decide
  · rcases hno with hno | hno
    · simp [hno]
    · rw [hno]
      simp

/-- A STEP with a wrong number tears its partition down (R136). -/
theorem taken.step_wrong (ht : (s.segList (s.gPart g) d).any (fun b => s.ctxUnderTest (fld b 0 2)) = false)
    (h1 : (s.part (s.gPart g)).state = 1) (hn : (s.part (s.gPart g)).step = none)
    (hs : (s.part (s.gPart g)).stopping = false) (ha : (s.part (s.gPart g)).anyNo = false)
    (hno : (s.part (s.gPart g)).lastNo.map (fun n => (n + 1) % 2 ^ 64) ≠ some (fld d 16 8)) :
    exec (.step g) s = .next (((s.begin g 1 d).onGroup g (fun y => { y with cur := none })).teardown (s.gPart g) 9) := by
  obtain ⟨-, -, -, -, -, -, hh⟩ := h.facts
  refine congrArg Host.Outcome.next ((h.runDesc (by simp [h.opcode]) h.toRead _).trans ?_)
  refine (if_neg (by simp [hh])).trans ((if_neg (by omega)).trans ((if_neg ?_).trans (if_pos ?_)))
  · rw [h1, hn, hs, ht]
    decide
  · rw [ha]
    simpa using hno

/-- A STEP on a PARKED partition wakes it (R146). -/
theorem taken.step_wakes (h2 : (s.part (s.gPart g)).state = 2) :
    exec (.step g) s = .next ((s.onPart (s.gPart g) (fun y => { y with state := 3 })).wake (s.gPart g)) := by
  obtain ⟨-, -, -, -, -, -, hh⟩ := h.facts
  refine congrArg Host.Outcome.next ((h.runDesc (by simp [h.opcode]) h.toRead _).trans ?_)
  exact (if_neg (by simp [hh])).trans (if_pos h2)

end

/-- A command that has just begun holds no core. -/
theorem State.leaveCores_freshCmd (s : State) (g status phase : Nat) {d : Bytes} (h : fld d 0 1 ≠ 5) :
    s.leaveCores g status (freshCmd phase d) = s := by
  unfold State.leaveCores
  simp [freshCmd, h]

/-- Settles O33. -/
theorem stepCommandCompletes : Obligations.StepCommandCompletes := by
  unfold Obligations.StepCommandCompletes
  refine ⟨fun s g d h hp ht => ?_, fun s g d hs hready hd hf ho hb hh hfe => ?_⟩
  · intro p
    obtain ⟨hs, hg, hst, -⟩ := h.facts
    have hl : p < s.parts.length := hs.partsLen.symm ▸ hp
    have hgl : g < s.groups.length := hs.groupsLen.symm ▸ hg
    refine ⟨fun h1 hn hstop hno => ?_, fun h1 hn hstop ha hv hno => ?_, fun h2 hw => ?_⟩
    · obtain ⟨r, e⟩ := h.step_taken ht h1 hn hstop hno
      refine answers_of_exec e ⟨?_, ?_, ?_, rfl⟩
      · exact congrArg Part.step (State.part_onPart_self (s := s.begin g 2 d) hl _)
      · change ((s.begin g 2 d).group g).head = _
        rw [State.begin_group hgl]
      · change ((s.begin g 2 d).group g).cur.map _ = _
        rw [State.begin_cur hgl]
        rfl
    · obtain ⟨b, hr, hb, -⟩ := State.teardown_run (s := (s.begin g 1 d).onGroup g (fun y => { y with cur := none })) 9
        hs.partsLen hp hst hv
      simp only [runView, Prod.mk.injEq] at hr
      refine answers_of_exec (h.step_wrong ht h1 hn hstop ha hno) ⟨hr.1, hr.2.1, ?_⟩
      simpa [hb hn] using hr.2.2.2
    · have e := h.step_wakes h2
      rw [State.wake_of_queue _ (by exact hw)] at e
      exact answers_of_exec e ⟨congrArg Part.state (State.part_onPart_self hl _), rfl, rfl, rfl⟩
  · have hg := State.lt_of_ready hready
    have hgl : g < s.groups.length := hs.groupsLen.symm ▸ hg
    obtain ⟨h0, hr, hrd⟩ := hfe
    have e : exec (.step g) s = .next (s.refuseDesc g 2 d) := by
      refine congrArg Host.Outcome.next ((State.runDesc_of_here hready hd _ h0 hr hf (by simp [ho]) hrd).trans ?_)
      exact if_pos (by simp [hh])
    have hhead : fld d 8 8 % 32 = 0 := by
      by_contra hx
      unfold State.headFault at hf
      rw [if_neg (by simp [classOk, ho, hb]), if_pos hx] at hf
      cases hf
    let jobs := ((s.begin g 1 d).segList ((s.begin g 1 d).gPart g) d).map (fun b => (fld b 3 1, 4))
    have hcur := State.begin_cur hgl 1 d
    have e2 : s.refuseDesc g 2 d = (s.begin g 1 d).complete g 4 2 0 (fld d 16 8) 0xFFFFFFFF s.stitch.count jobs :=
      if_pos ⟨ho, by simp [show (s.begin g 1 d).gBatch g = false from hb]⟩
    rw [e2] at e
    have hparts : ((s.begin g 1 d).complete g 4 2 0 (fld d 16 8) 0xFFFFFFFF s.stitch.count jobs).parts = s.parts := by
      rw [State.complete_parts hcur, State.leaveCores_freshCmd _ g 4 1 (by omega)]
      rfl
    obtain ⟨r, m, o, n, ps, cs, -, e3⟩ := State.complete_eq hcur 4 2 0 (fld d 16 8) 0xFFFFFFFF s.stitch.count jobs
    have hlen : g < (s.begin g 1 d).groups.length := (State.begin_groups_length s g 1 d).symm ▸ hgl
    have hgroup := (congrArg (fun t : State => t.group g) e3).trans (State.group_onGroup_self (by exact hlen) _)
    have hstop : (s.begin g 1 d).stopped ((s.begin g 1 d).gPart g) = false := State.stopped_of_ready (s := s) hready
    refine answers_of_exec e ⟨?_, ?_, hparts, ?_, fun a ha => ?_⟩
    · exact congrArg Group.cur hgroup
    · exact congrArg Group.lastSeq hgroup
    · refine (congrArg Group.head hgroup).trans ?_
      simp only [hstop, freshCmd]
      change (((s.begin g 1 d).group g).head + 1) % 2 ^ 32 = _
      rw [State.begin_group hgl]
    · have hat : (s.begin g 1 d).recordAt g d = some a := (if_pos hhead).trans ha
      have hm := (congrArg State.mem e3).trans (congrArg (fun o => memWriteAt s.mem o
        (recordOf (fld d 4 4) 4 2 0 (fld d 16 8) s.stitch.count 0xFFFFFFFF)) hat)
      rw [← State.rd_take _ a 8 32 (by decide), State.rd_of_write hm hs.memWf (length_recordOf _ _ _ _ _ _ _)]
      rfl

/-! ### PARK and the wake check -/

theorem exec_parkComplete_of_clear {s : State} {p : Nat} {c : Cmd} (hc : (s.group (s.stepGroup p)).cur = some c)
    (hph : c.phase = 0) (hst : (s.part p).state = 1 ∨ (s.part p).state = 2) (hclear : s.parkClear p = true) :
    exec (.parkComplete p) s
      = .next (((s.onPart p (fun x => { x with state := 2 })).partOff p).answer (s.stepGroup p) 0) := by
  change execParkComplete p s = _
  simp only [execParkComplete, hc]
  exact if_neg (by simp [hph, hst, hclear])

theorem exec_wakeCheckDone_of_compared {s : State} {p : Nat} (hrun : s.running = true) (hst : (s.part p).state = 3)
    (ht : (s.part p).wakeTry ≠ 0) (hl : s.pLayers p ≤ (s.part p).wakeLayer) : exec (.wakeCheckDone p (s.pLayers p)) s
      = .next ((s.onPart p (fun y => { y with state := 1, wakeTry := 0, wakeLayer := 0 })).replan p) := by
  change execWakeCheckDone p (s.pLayers p) s = _
  rw [execWakeCheckDone]
  exact if_neg (by simp [hrun, hst, ht, hl])

theorem exec_wakeCheckDone_of_layer {s : State} {p : Nat} (n : Nat) (hl : (s.part p).wakeLayer < s.pLayers p) :
    exec (.wakeCheckDone p n) s = .next s := by
  change execWakeCheckDone p n s = _
  rw [execWakeCheckDone]
  exact if_pos (.inr (.inr (.inr (.inl hl))))

theorem State.issueRouter_parts (s : State) (p : Nat) (e pr : Bytes) (l k : Nat) :
    (s.issueRouter p e pr l k).parts = s.parts :=
  (State.issueRouter_same (F := offParts) p e pr l k (.refl s) trivial trivial).offParts

/-- The wake check of a layer that begins leaves the partition's state and tries (R146). -/
theorem State.startWake_part {s : State} {p : Nat} (hl : p < s.parts.length) (l : Nat) : ∃ j,
    (s.startWake p l).part p = { s.part p with wakeLayer := l, wakeGot := [], wake := some j } := by
  unfold State.startWake
  extract_lets e pr et q
  exact ⟨_, (congrArg (fun ps => List.getD ps p resetPart) (State.issueRouter_parts _ p e pr l 0)).trans
    (State.part_onPart_self hl _)⟩

/-- Settles O34. -/
theorem parkAndWakeComplete : Obligations.ParkAndWakeComplete := by
  unfold Obligations.ParkAndWakeComplete
  refine ⟨fun s g d h hr hst => ?_, fun s p c hs hp hg hgp hc hph hst hclear => ?_, fun s p hs hp hrun hst ht => ⟨fun hl => ?_,
    fun hl n => answers_of_exec (exec_wakeCheckDone_of_layer n hl) rfl⟩, fun s p j hs hp hst => ?_⟩
  · obtain ⟨hs, hg, -, -, -, -, hh⟩ := h.facts
    have hgl : g < s.groups.length := hs.groupsLen.symm ▸ hg
    have e : exec (.park g) s = .next (s.begin g 0 d) := by
      refine congrArg Host.Outcome.next ((h.runDesc (by simp [h.opcode]) h.toRead _).trans ?_)
      exact (if_neg (by simp [hh, hr])).trans (if_neg hst)
    refine answers_of_exec e ⟨?_, ?_, rfl, rfl, rfl⟩
    · rw [State.begin_cur hgl]
      rfl
    · rw [State.begin_group hgl]
  · have hl : p < s.parts.length := hs.partsLen.symm ▸ hp
    let u := (s.onPart p (fun x => { x with state := 2 })).partOff p
    have hu : (s.onPart p (fun x => { x with state := 2 })).Same offTouch u := State.partOff_touch _ p
    have hup : u.part p = { s.part p with state := 2 } := by
      rw [State.part, hu.parts fun _ => ⟨id, id⟩]
      exact State.part_onPart_self hl _
    have huc : (u.group (s.stepGroup p)).cur = some c := by
      rw [State.group, hu.groups fun _ => id]
      exact hc
    obtain ⟨r, m, o, n, ps, cs, -, e⟩ := State.complete_eq huc (if 0 = 0 then 0 else 4) 0 0 0 0xFFFFFFFF u.stitch.count
      [(fld c.desc 2 1, if 0 = 0 then 0 else 4)]
    have e2 : u.answer (s.stepGroup p) 0 = _ := (show u.answer (s.stepGroup p) 0 = u.complete (s.stepGroup p) _ _ _ _ _ _ _ by
      rw [State.answer, State.completeCmd, huc]).trans e
    have hgroup := (congrArg (fun t : State => t.group (s.stepGroup p)) e2).trans (State.group_onGroup_self
      (by exact State.lt_groups_of_cur huc) _)
    refine answers_of_exec (exec_parkComplete_of_clear hc hph hst hclear) ⟨?_, congrArg Group.cur hgroup,
      congrArg Group.lastSeq hgroup, fun a ha hb => ?_⟩
    · exact ((u.completeCmd_views (v := Part.state) (fun x n => rfl) _ _ _) p).trans (congrArg Part.state hup)
    · refine (congrArg (fun t : State => bit t.power.domOn a) e2).trans ?_
      exact State.bit_partOff _ ha hb
  · have hl' : p < s.parts.length := hs.partsLen.symm ▸ hp
    refine answers_of_exec (exec_wakeCheckDone_of_compared hrun hst ht hl) ⟨?_, rfl, rfl, rfl⟩
    rw [State.replan, State.part_onPart_self ((State.onPart_length _ _ _).symm ▸ hl'), State.part_onPart_self hl']
  · intro seen
    have hl : p < s.parts.length := hs.partsLen.symm ▸ hp
    refine ⟨fun h => ?_, fun h ht => ?_, fun h ht hv => ?_⟩
    · let u := s.onPart p (fun x => { x with wakeLayer := j.pass.layer + 1, wake := none, wakeGot := [] })
      have hu : u.part p = { s.part p with wakeLayer := j.pass.layer + 1, wake := none, wakeGot := [] } :=
        State.part_onPart_self hl _
      have e : s.endWakeLayer p j = if j.pass.layer + 1 < u.pLayers p ∧ !u.layerHeld p (j.pass.layer + 1)
          then u.startWake p (j.pass.layer + 1) else u := if_pos h
      rw [e]
      split
      · obtain ⟨k, hk⟩ := State.startWake_part (s := u) (p := p) ((State.onPart_length _ _ _).symm ▸ hl) (j.pass.layer + 1)
        rw [hk, hu]
        exact ⟨rfl, hst⟩
      · rw [hu]
        exact ⟨rfl, hst⟩
    · have e : s.endWakeLayer p j = (s.onPart p (fun x => { x with wakeTry := 2 })).startWake p j.pass.layer :=
        (if_neg h).trans (if_pos ht)
      obtain ⟨k, hk⟩ := State.startWake_part (s := s.onPart p (fun x => { x with wakeTry := 2 })) (p := p)
        ((State.onPart_length _ _ _).symm ▸ hl) j.pass.layer
      rw [e, hk, State.part_onPart_self hl]
      exact ⟨rfl, rfl, hst⟩
    · have e : s.endWakeLayer p j = s.teardown p 11 := (if_neg h).trans (if_neg ht)
      obtain ⟨b, hr, -⟩ := State.teardown_run (s := s) 11 hs.partsLen hp (by simp [State.stopped, hst]) hv
      simp only [runView, Prod.mk.injEq] at hr
      rw [e]
      exact ⟨hr.1, hr.2.1⟩

end Sys2Proof.Machine
end

section
/-! SUPPORT. Table loads, HOLD and its release (R255 to R262; O32). -/

-- One declaration after another: the check bounds the memory, and with it the threads.
set_option Elab.async false

namespace Sys2Proof.Machine

/-! ### The batch commands whose bank a load overwrites (R258) -/

section
variable {s : State} {g : Nat} (p t : Nat) (hg : g < 64)
include hg

theorem State.retireBatch_group : (s.retireBatch p t).group g
    = if (s.tab p t).sh = 2 ∧ (s.gValid g && s.gPart g == p && s.gBatch g) = true then
        { s.group g with cur := (s.group g).cur.map (fun c =>
          if c.epochs.getD t 0 = (s.tab p t).shadow.epoch then { c with cut := true } else c) }
      else s.group g := by
  unfold State.retireBatch
  dsimp only
  by_cases hsh : (s.tab p t).sh = 2
  · rw [if_neg (not_not.mpr hsh), State.group, List.getD_eq_getElem?_getD, List.getElem?_map,
      List.getElem?_range hg]
    simp only [Option.map_some, Option.getD_some, hsh, true_and]
  · rw [if_pos hsh, if_neg fun h => hsh h.1]

/-- A command of any group is at most marked. -/
theorem State.retireBatch_of_cur {c : Cmd} (hc : (s.group g).cur = some c) : ∃ b,
    (s.retireBatch p t).group g = { s.group g with cur := some { c with cut := b } } := by
  rw [State.retireBatch_group p t hg]
  split
  · rw [hc]
    simp only [Option.map_some]
    split
    · exact ⟨true, rfl⟩
    · exact ⟨c.cut, rfl⟩
  · exact ⟨c.cut, by rw [← hc]⟩

theorem State.retireBatch_bound {c : Cmd} (hv : s.gValid g = true) (hp : s.gPart g = p) (hb : s.gBatch g = true)
    (hc : (s.group g).cur = some c) (hsh : (s.tab p t).sh = 2) (he : c.epochs.getD t 0 = (s.tab p t).shadow.epoch) :
    ((s.retireBatch p t).group g).cur = some { c with cut := true } := by
  rw [State.retireBatch_group p t hg, if_pos ⟨hsh, by simp [hv, hp, hb]⟩, hc]
  exact congrArg some (if_pos he)

end

theorem State.retireBatch_only (s : State) (p t : Nat) :
    s.Same (fun f => ∃ g, f = .group g) (s.retireBatch p t) :=
  State.retireBatch_same p t (.refl s) fun g => ⟨g, rfl⟩

/-! ### Tables -/

theorem State.tab_onTab_self {s : State} {p t : Nat} (hp : p < s.parts.length) (ht : t < (s.part p).tables.length)
    (f : TablePair → TablePair) : (s.onTab p t f).tab p t = f (s.tab p t) := by
  rw [State.onTab, State.tab, State.part_onPart_self hp]
  exact (getD_setAt ..).trans (if_pos ⟨rfl, ht⟩)

theorem taken.load {s : State} {g t : Nat} {d : Bytes} {es : List Bytes} {build : State → Nat → Bytes → List Bytes ⊕ Nat}
    (h : taken s g d 3 (loadReads g t ([64, 8, 32].getD t 0))) (ht : fld d 16 1 = t)
    (hf : s.loadFault (s.gPart g) t d = 0) (hb : build (s.begin g 1 d) (s.gPart g) d = .inl es) :
    s.runLoad g t build = (((s.begin g 1 d).retireBatch (s.gPart g) t).setShadow (s.gPart g) t (fld d 24 4) es).answer g 0 := by
  refine (h.runDesc (by simp [isLoad, h.opcode, ht]) h.toRead _).trans ((if_neg (not_not.mpr hf)).trans ?_)
  rw [show build (s.begin g 1 d) ((s.begin g 1 d).gPart g) d = .inl es from hb]
  rfl

/-- A load of a table in the block, its checks passed (R255, R258). -/
theorem taken.load_spec {s : State} {g k : Nat} {d : Bytes} {ops : Nat → Bytes → State → List (Nat × Nat)}
    (h : taken s g d 3 ops) (es : List Bytes) (hp : s.gPart g < 8) (hk : k < (s.part (s.gPart g)).tables.length) :
    let t := (((s.begin g 1 d).retireBatch (s.gPart g) k).setShadow (s.gPart g) k (fld d 24 4) es).answer g 0
    completed s t g d 0 0 ∧ (t.tab (s.gPart g) k).sh = 1 ∧ (t.tab (s.gPart g) k).shadow.epoch = fld d 24 4
      ∧ (t.tab (s.gPart g) k).live = (s.tab (s.gPart g) k).live ∧ (t.tab (s.gPart g) k).shadow.entries = es
      ∧ (∀ b c, b < 64 → s.gValid b = true → s.gPart b = s.gPart g → s.gBatch b = true → (s.group b).cur = some c →
        (s.tab (s.gPart g) k).sh = 2 → c.epochs.getD k 0 = (s.tab (s.gPart g) k).shadow.epoch →
        (t.group b).cur = some { c with cut := true }) := by
  obtain ⟨hs, hg, hst, ha, htr, -, -⟩ := h.facts
  obtain ⟨-, hready, -⟩ := h
  have hgl : g < s.groups.length := hs.groupsLen.symm ▸ hg
  have hpl : s.gPart g < s.parts.length := hs.partsLen.symm ▸ hp
  have hfree : (s.group g).cur = none := State.cur_of_ready hready
  let u := (s.begin g 1 d).retireBatch (s.gPart g) k
  let v := u.setShadow (s.gPart g) k (fld d 24 4) es
  have hu := (s.begin g 1 d).retireBatch_only (s.gPart g) k
  obtain ⟨b, hub⟩ := State.retireBatch_of_cur (s.gPart g) k hg (State.begin_cur hgl 1 d)
  have hcur : (v.group g).cur = some { freshCmd 1 d with cut := b } := congrArg Group.cur hub
  have hup : u.part (s.gPart g) = s.part (s.gPart g) := hu.part _ nofun nofun
  have hul : u.parts.length = s.parts.length := congrArg List.length (hu.parts fun _ => ⟨nofun, nofun⟩)
  have hvt : v.tab (s.gPart g) k = { s.tab (s.gPart g) k with
      sh := 1
      shadow := { (s.tab (s.gPart g) k).shadow with epoch := fld d 24 4, entries := es, digest := bankDigest k es } } := by
    refine (State.tab_onTab_self (hul ▸ hpl) (hup ▸ hk) _).trans ?_
    rw [State.tab, hup]
    rfl
  have hvst : v.stopped (s.gPart g) = false := by
    have hs1 : (v.part (s.gPart g)).state = (s.part (s.gPart g)).state := by
      refine (congrArg Part.state (State.part_onPart_self (hul ▸ hpl) _)).trans ?_
      rw [hup]
    rw [State.stopped, hs1]
    exact hst
  intro t
  have htab : t.tab (s.gPart g) k = v.tab (s.gPart g) k :=
    congrArg (List.getD · k emptyTable) ((v.completeCmd_views (v := Part.tables) (fun x n => rfl) g _ 0) (s.gPart g))
  have htg (n : Nat) (hn : n ≠ g) : t.group n = v.group n :=
    (State.completeCmd_same (F := (· ≠ .group n)) g _ 0 (.refl v) nofun nofun nofun nofun nofun (fun e => hn (by cases e; rfl))
      nofun nofun nofun).group n (by simp)
  rw [htab, hvt]
  refine ⟨?_, rfl, rfl, rfl, rfl, fun n c hn hv hnp hb hc hsh he => ?_⟩
  · refine completed_congr (u := v) (hu.img nofun) (hu.stitch nofun) ?_ (State.completeCmd_completed 0 hcur rfl ha ?_ ?_ rfl
      (by simp [freshCmd]) (hu.memWf hs.memWf))
    · exact (congrArg Group.head hub).trans (by rw [State.begin_group hgl])
    · simpa only [State.tr, State.sect, State.gPart, State.gcfg, show v.img = s.img from hu.img nofun, freshCmd] using htr
    · rw [State.gPart, State.gcfg, State.sect, show v.img = s.img from hu.img nofun]
      exact hvst
  · have hne : n ≠ g := by
      rintro rfl
      rw [hfree] at hc
      cases hc
    rw [htg n hne]
    exact State.retireBatch_bound (s := s.begin g 1 d) (s.gPart g) k hn hv hnp hb
      (by rw [State.begin, State.group_onGroup_ne _ _ hne]; exact hc) hsh he

/-! ### Bias loads and HOLD -/

theorem State.spWf_openBias {s : State} (p : Nat) (h : spWf s.mem = true) : spWf (s.openBias p).mem = true :=
  (State.openBias_same (F := fun _ => True) p (.refl s) trivial trivial trivial).memWf h

/-- The bias bank that a load fills, and the state in which its values stand there. -/
def State.biasLoaded (s : State) (g : Nat) (d b : Bytes) : State :=
  let p := s.gPart g
  let u := ((s.begin g 1 d).retireBatch p 3).openBias p
  u.wr (u.biasBank p (1 - (u.tab p 3).live.ix) + 16384 * fld d 22 2 + 4 * fld d 18 2) b (.fatal p)

/-- What the making ready of a bias bank touches (R258). -/
def biasTouch : Touch → Prop
  | .group _ | .mem | .memp | .power => True
  | _ => False

theorem State.biasLoaded_eq (s : State) {g : Nat} (hg : g < s.groups.length) (d b : Bytes) (h64 : g < 64) : ∃ u : State,
    s.Same biasTouch u ∧ (∃ c, (u.group g).cur = some { freshCmd 1 d with cut := c })
      ∧ s.biasLoaded g d b = u.wr (s.biasBank (s.gPart g) (1 - (s.tab (s.gPart g) 3).live.ix) + 16384 * fld d 22 2
        + 4 * fld d 18 2) b (.fatal (s.gPart g)) := by
  let v := (s.begin g 1 d).retireBatch (s.gPart g) 3
  let u := v.openBias (s.gPart g)
  have hv : s.Same biasTouch v := State.retireBatch_same _ _ (State.begin_same g 1 d (.refl s) trivial) fun _ => trivial
  have hu : s.Same biasTouch u := State.openBias_same _ hv trivial trivial trivial
  obtain ⟨c, hc⟩ := State.retireBatch_of_cur (s.gPart g) 3 h64 (State.begin_cur hg 1 d)
  have hug : u.group g = v.group g :=
    (State.openBias_same (F := (· ≠ .group g)) _ (.refl v) nofun nofun nofun).group g (by simp)
  refine ⟨u, hu, ⟨c, by rw [hug]; exact congrArg Group.cur hc⟩, ?_⟩
  have hi : u.img = s.img := hu.img id
  have hp : u.parts = s.parts := hu.parts fun _ => ⟨id, id⟩
  have ha : u.biasBank (s.gPart g) (1 - (u.tab (s.gPart g) 3).live.ix)
      = s.biasBank (s.gPart g) (1 - (s.tab (s.gPart g) 3).live.ix) := by
    simp only [State.biasBank, State.tab, State.part, hi, hp]
  rw [← ha]
  rfl

theorem State.tab_onGroup (s : State) (g : Nat) (f : Group → Group) (p t : Nat) : (s.onGroup g f).tab p t = s.tab p t := rfl

theorem State.closeBias_groups (s : State) (p epoch : Nat) : (s.closeBias p epoch).groups = s.groups := rfl

theorem State.closeBias_mem (s : State) (p epoch : Nat) : (s.closeBias p epoch).mem = s.mem := rfl

theorem State.closeBias_tab {s : State} {p : Nat} (epoch : Nat) (hp : p < s.parts.length)
    (ht : 3 < (s.part p).tables.length) : ((s.closeBias p epoch).tab p 3).sh = 1
      ∧ ((s.closeBias p epoch).tab p 3).shadow.epoch = epoch ∧ ((s.closeBias p epoch).tab p 3).live = (s.tab p 3).live := by
  have h := State.tab_onTab_self hp ht (fun x => { x with sh := 1, shadow := { x.shadow with
    epoch := epoch, ix := 1 - (s.tab p 3).live.ix, digest := s.biasDigest p (1 - (s.tab p 3).live.ix) } })
  change (State.tab (s.onTab p 3 _) p 3).sh = 1 ∧ (State.tab (s.onTab p 3 _) p 3).shadow.epoch = epoch
    ∧ (State.tab (s.onTab p 3 _) p 3).live = _
  rw [h]
  exact ⟨rfl, rfl, rfl⟩

/-- A bias load that passed its checks (R243, R258). -/
theorem State.biasLoaded_spec {s : State} {g : Nat} (hs : s.sound) (hg : g < 64) (hp : s.gPart g < 8)
    (ht : (s.part (s.gPart g)).tables.length = 4) (d b : Bytes) :
    let p := s.gPart g
    let t := ((s.biasLoaded g d b).closeBias p (fld d 24 4)).onGroup g (fun x => { x with
      cur := x.cur.map (fun c => { c with phase := 3 }) })
    (t.tab p 3).sh = 1 ∧ (t.tab p 3).shadow.epoch = fld d 24 4 ∧ (t.tab p 3).live = (s.tab p 3).live
      ∧ (t.group g).cur.map (·.phase) = some 3
      ∧ t.rd (s.biasBank p (1 - (s.tab p 3).live.ix) + 16384 * fld d 22 2 + 4 * fld d 18 2) b.length = b := by
  intro p t
  simp only [t, State.tab_onGroup]
  have hgl : g < s.groups.length := hs.groupsLen.symm ▸ hg
  obtain ⟨u, hu, ⟨c, hc⟩, e⟩ := s.biasLoaded_eq hgl d b hg
  have hparts : (s.biasLoaded g d b).parts = s.parts := by
    rw [e, State.wr, State.askWrites_parts]
    exact hu.parts fun _ => ⟨id, id⟩
  have hgroups : (s.biasLoaded g d b).groups = u.groups := by
    rw [e, State.wr, State.askWrites_groups]
  have hpl : p < (s.biasLoaded g d b).parts.length := by rw [hparts]; exact hs.partsLen.symm ▸ hp
  have hpart : (s.biasLoaded g d b).part p = s.part p := by simp only [State.part, hparts]
  obtain ⟨h1, h2, h3⟩ := State.closeBias_tab (fld d 24 4) hpl (by rw [hpart]; exact ht.symm ▸ (by decide))
  refine ⟨h1, h2, h3.trans (by rw [State.tab, hpart, State.tab]), ?_, ?_⟩
  · have hl : g < ((s.biasLoaded g d b).closeBias p (fld d 24 4)).groups.length := by
      rw [State.closeBias_groups, hgroups, hu.groupsLen hs.groupsLen]
      exact hg
    have hcur : (((s.biasLoaded g d b).closeBias p (fld d 24 4)).group g).cur = some { freshCmd 1 d with cut := c } := by
      rw [State.group, State.closeBias_groups, hgroups]
      exact hc
    rw [State.group_onGroup_self hl, hcur]
    rfl
  · refine State.rd_of_write (s := u) ?_ (hu.memWf hs.memWf) rfl
    rw [State.onGroup_mem, State.closeBias_mem, e]
    exact State.askWrites_mem _ _ _

theorem taken.biasLoad {s : State} {g : Nat} {d b : Bytes} (h : taken s g d 3 (biasReads g)) (ht : fld d 16 1 = 3)
    (hf : s.loadFault (s.gPart g) 3 d = 0) (hu : s.biasU = 0) (hl : fld d 22 2 < s.pLayers (s.gPart g))
    (hb : s.loadBytes (s.gPart g) 4 d = some b) (hfin : allFinite b = true)
    (hm : fld d 18 2 + fld d 20 2 ≤ maxNat ((s.entryBanks (s.gPart g) 0).map (fun es => leExperts (entAt es (fld d 22 2))))) :
    exec (.tableLoadBias g) s = .next (((s.biasLoaded g d b).closeBias (s.gPart g) (fld d 24 4)).onGroup g (fun x => { x with
      cur := x.cur.map (fun c => { c with phase := 3 }) })) := by
  refine congrArg Host.Outcome.next ((h.runDesc (by simp [isLoad, h.opcode, ht]) h.toRead _).trans ((if_neg (not_not.mpr hf)).trans
    ((if_neg ?_).trans ?_)))
  · rintro (h1 | h1 | h1)
    · exact h1 hu
    · exact absurd hl (Nat.not_lt.mpr h1)
    · exact absurd hm (Nat.not_le.mpr h1)
  · rw [show (s.begin g 1 d).loadBytes ((s.begin g 1 d).gPart g) 4 d = some b from hb]
    exact if_neg (by simp [hfin])

theorem taken.hold {s : State} {g : Nat} {d : Bytes} (h : taken s g d 3 noReads) (ht : fld d 16 1 = 4)
    (h1 : rsv d 28 4 = true) (h2 : rsv d 48 16 = true) (h3 : fld d 17 1 = 0) (h4 : fld d 18 2 = 0) (h5 : fld d 20 2 = 0)
    (h6 : fld d 24 4 = 0) (h7 : fld d 32 8 = 0) (hl : fld d 22 2 < s.pLayers (s.gPart g))
    (hh : s.layerHeld (s.gPart g) (fld d 22 2) = false) (hb : s.batchOn (s.gPart g) (fld d 22 2) = false) :
    exec (.tableLoadHold g) s = .next (((s.begin g 1 d).onPart (s.gPart g) (fun x => { x with
      holds := x.holds ++ [(fld d 22 2, fld d 40 8, false, false)] })).answer g 0) := by
  obtain ⟨-, -, -, -, -, -, hrsv⟩ := h.facts
  refine congrArg Host.Outcome.next ((h.runDesc (by simp [isLoad, h.opcode, ht]) h.toRead _).trans ?_)
  refine (if_neg (by simp [hrsv, ht, h1, h2])).trans ((if_neg ?_).trans (if_neg (ne_true_of_eq_false hb)))
  simp only [h3, h4, h5, h6, h7, hh, ne_eq, not_true_eq_false, Bool.false_eq_true, false_or, or_false]
  omega

/-! ### The release of a held layer -/

theorem State.earlyGate_of_running {s : State} (h : s.running = true) (r : SeamReq) (ws : List HostWrite) :
    (s.hostWrites ws).earlyGate r = none := by
  obtain ⟨-, hb⟩ := State.rstLow_of_running h
  exact (if_neg (by rw [show (s.hostWrites ws).boot.state = 11 from hb]; decide)).trans (if_neg (not_not.mpr hb))

section
variable {s : State} {r : SeamReq} (hrun : s.running = true) (hv : s.pValid r.slot = true) (hst : s.stopped r.slot = false)
include hrun hv hst

theorem exec_weightWriteRelease_of_held (hf : fld r.data 2 6 = 0) (hh : s.layerHeld r.slot (fld r.data 0 2) = true) :
    exec (.weightWriteRelease r) s = .next (((s.hostWrites r.host).onPart r.slot (fun x => { x with
      holds := x.holds.map (fun h => if h.1 = fld r.data 0 2 then (h.1, h.2.1, true, h.2.2.2) else h) })).reply r 0) := by
  obtain ⟨hr, -⟩ := State.rstLow_of_running hrun
  change execWeightWriteRelease r s = _
  rw [execWeightWriteRelease, if_neg (ne_true_of_eq_false hr)]
  simp only [State.earlyGate_of_running hrun]
  have h1 : ((s.hostWrites r.host).pValid r.slot) = true := hv
  have h2 : ((s.hostWrites r.host).stopped r.slot) = false := hst
  have h3 : ((s.hostWrites r.host).layerHeld r.slot (fld r.data 0 2)) = true := hh
  exact (if_neg (by simp [h1, h2])).trans (if_neg (by simp [hf, h3]))

theorem exec_weightWriteRelease_of_free (hh : s.layerHeld r.slot (fld r.data 0 2) = false) :
    exec (.weightWriteRelease r) s = .next (((s.hostWrites r.host).bump (rSEL_CNT r.slot 9) 1).reply r 0) := by
  obtain ⟨hr, -⟩ := State.rstLow_of_running hrun
  change execWeightWriteRelease r s = _
  rw [execWeightWriteRelease, if_neg (ne_true_of_eq_false hr)]
  simp only [State.earlyGate_of_running hrun]
  have h1 : ((s.hostWrites r.host).pValid r.slot) = true := hv
  have h2 : ((s.hostWrites r.host).stopped r.slot) = false := hst
  have h3 : ((s.hostWrites r.host).layerHeld r.slot (fld r.data 0 2)) = false := hh
  exact (if_neg (by simp [h1, h2])).trans (if_pos (.inr (by simp [h3])))

end

/-! ### The hold clears -/

theorem exec_holdClear_of_released {s : State} {p l : Nat} {h : Nat × Nat × Bool × Bool}
    (hf : (s.part p).holds.find? (fun h => h.1 == l && h.2.2.2) = some h) : ∃ sig : Bank → Bank,
    exec (.holdClear p l) s = .next ((s.onPart p (fun x => { x with holds := x.holds.filter (fun k => k.1 != l) })).onTab p 0
        (fun t => { t with live := sig t.live, shadow := sig t.shadow }))
      ∧ ∀ b i, (sig b).entries.getD i []
        = if i ≠ l ∨ b.entries.getD i [] = [] then b.entries.getD i [] else patch (b.entries.getD i []) 40 (toLE 8 h.2.1) := by
  refine ⟨fun b => { b with entries := setAt b.entries l (fun e => if e.isEmpty then e else patch e 40 (toLE 8 h.2.1)) },
    ?_, fun b i => ?_⟩
  · change execHoldClear p l s = _
    simp only [execHoldClear, hf]
  · rw [getD_setAt]
    by_cases hi : i = l
    · subst hi
      by_cases hb : i < b.entries.length
      · rw [if_pos ⟨rfl, hb⟩]
        cases h0 : b.entries.getD i [] with
        | nil => simp
        | cons y ys => simp
      · have h0 : b.entries.getD i [] = [] := List.getD_eq_default _ _ (Nat.le_of_not_lt hb)
        rw [if_neg fun h => hb h.2, h0, if_pos (.inr rfl)]
    · rw [if_neg fun h => hi h.1.symm, if_pos (.inl hi)]

theorem State.registerInputs_holds (s : State) (p : Nat) : (s.registerInputs.part p).holds
    = (s.part p).holds.map (fun h => (h.1, h.2.1, h.2.2.1, h.2.2.2 || h.2.2.1)) := by
  simp only [State.part, State.registerInputs, List.getD_eq_getElem?_getD, List.getElem?_map]
  cases s.parts[p]? with
  | none => rfl
  | some x => rfl

theorem any_filter_ne (l : List (Nat × Nat × Bool × Bool)) (n k : Nat) :
    (l.filter (fun h => h.1 != n)).any (fun h => h.1 == k) = if k = n then false else l.any (fun h => h.1 == k) := by
  rw [List.any_filter]
  by_cases hk : k = n
  · subst hk
    simp
  · rw [if_neg hk]
    congr 1
    funext h
    by_cases hh : h.1 = k
    · simp [hh, hk]
    · simp [hh]

/-- Settles O32. -/
theorem tableLoadsComplete : Obligations.TableLoadsComplete := by
  unfold Obligations.TableLoadsComplete
  refine ⟨fun s g d hp ht => ?_, fun s r hs hrun hr hv hst hf => ⟨fun hh => ?_, fun hh hon => ?_⟩, State.registerInputs_holds,
    fun s p l h hs hp ht hfind => ?_⟩
  · intro p loads
    refine ⟨fun k es hk h htype hf => ?_, fun b h htype hf hu hl hb hfin hm => ?_,
      fun h h0 h1 h2 h3 h4 h5 h6 h7 hl hh hb => ?_⟩
    · have hspec := h.load_spec es hp (ht.symm ▸ (by omega) : k < (s.part (s.gPart g)).tables.length)
      obtain ⟨hc, hsh, hep, hlive, hes, hbound⟩ := hspec
      refine ⟨fun hk hb => ?_, fun hk hb => ?_, fun hk hb => ?_⟩
      · subst hk
        exact answers_of_exec (congrArg Host.Outcome.next (h.load htype hf hb) : execTableLoadLayer g s = _)
          ⟨⟨hc, hsh, hep, hlive, hbound⟩, hes⟩
      · subst hk
        exact answers_of_exec (congrArg Host.Outcome.next (h.load htype hf hb) : execTableLoadPlacement g s = _)
          ⟨⟨hc, hsh, hep, hlive, hbound⟩, hes⟩
      · subst hk
        exact answers_of_exec (congrArg Host.Outcome.next (h.load htype hf hb) : execTableLoadProfile g s = _)
          ⟨⟨hc, hsh, hep, hlive, hbound⟩, hes⟩
    · obtain ⟨hs, hg, -⟩ := h.facts
      exact answers_of_exec (h.biasLoad htype hf hu hl hb hfin hm) (State.biasLoaded_spec hs hg hp ht d b)
    · obtain ⟨hs, hg, hst, ha, htr, -, -⟩ := h.facts
      have hgl : g < s.groups.length := hs.groupsLen.symm ▸ hg
      have hpl : p < s.parts.length := hs.partsLen.symm ▸ hp
      let u := (s.begin g 1 d).onPart p (fun x => { x with holds := x.holds ++ [(fld d 22 2, fld d 40 8, false, false)] })
      have hup : u.part p = { s.part p with holds := (s.part p).holds ++ [(fld d 22 2, fld d 40 8, false, false)] } :=
        State.part_onPart_self (s := s.begin g 1 d) hpl _
      refine answers_of_exec (h.hold h0 h1 h2 h3 h4 h5 h6 h7 hl hh hb) ⟨completed_congr (u := u) rfl rfl ?_
        (State.completeCmd_completed (s := u) 0 (State.begin_cur hgl 1 d) rfl ha htr ?_ rfl (by simp [freshCmd]) hs.memWf), ?_⟩
      · change ((s.begin g 1 d).group g).head = _
        rw [State.begin_group hgl]
      · change ((u.part p).state == 0 || (u.part p).state == 4) = false
        rw [hup]
        exact hst
      · exact ((u.completeCmd_views (v := Part.holds) (fun x n => rfl) g _ 0) p).trans (congrArg Part.holds hup)
  · refine answers_of_exec (exec_weightWriteRelease_of_held hrun hv hst hf hh) ?_
    let u := (s.hostWrites r.host).onPart r.slot (fun x => { x with
      holds := x.holds.map (fun h => if h.1 = fld r.data 0 2 then (h.1, h.2.1, true, h.2.2.2) else h) })
    have hu := u.reply_only r 0
    have hholds : ((u.reply r 0).part r.slot).holds = (s.part r.slot).holds.map
        (fun h => if h.1 = fld r.data 0 2 then (h.1, h.2.1, true, h.2.2.2) else h) := by
      rw [State.part, hu.parts fun _ => ⟨nofun, nofun⟩]
      exact congrArg Part.holds (State.part_onPart_self (s := s.hostWrites r.host) (hs.partsLen.symm ▸ hr) _)
    refine ⟨fun h hm hl => ?_, ?_, hu.regs nofun, hu.mem nofun nofun, State.replied_reply rfl⟩
    · rw [hholds] at hm
      obtain ⟨k, -, rfl⟩ := List.mem_map.mp hm
      by_cases hk : k.1 = fld r.data 0 2
      · rw [if_pos hk]
      · rw [if_neg hk] at hl
        exact absurd hl hk
    · rw [State.layerHeld, hholds, List.any_map, ← hh, State.layerHeld]
      congr 1
      funext k
      by_cases hk : k.1 = fld r.data 0 2
      · simp [hk]
      · simp [hk]
  · let u := (s.hostWrites r.host).bump (rSEL_CNT r.slot 9) 1
    have hu := u.reply_only r 0
    refine answers_of_exec (exec_weightWriteRelease_of_free hrun hv hst hh) ⟨?_, ?_, State.replied_reply (State.bump_seam _ _ _)⟩
    · exact (hu.parts fun _ => ⟨nofun, nofun⟩).trans (State.bump_parts _ _ _)
    · rw [State.reg, hu.regs nofun]
      exact State.reg_bump_eq (s := s.hostWrites r.host) hs.regsWf hon 1
  · have hpl : p < s.parts.length := hs.partsLen.symm ▸ hp
    obtain ⟨sig, e, hsig⟩ := exec_holdClear_of_released hfind
    let u := s.onPart p (fun x => { x with holds := x.holds.filter (fun k => k.1 != l) })
    have hup : u.part p = { s.part p with holds := (s.part p).holds.filter (fun k => k.1 != l) } := State.part_onPart_self hpl _
    have hul : p < u.parts.length := (State.onPart_length _ _ _).symm ▸ hpl
    have htab := State.tab_onTab_self (s := u) (p := p) (t := 0) hul (by rw [hup]; exact ht.symm ▸ (by decide))
      (fun t => { t with live := sig t.live, shadow := sig t.shadow })
    have hst : u.tab p 0 = s.tab p 0 := by rw [State.tab, hup, State.tab]
    intro signed
    refine answers_of_exec e ⟨rfl, rfl, rfl, fun k => ?_, fun i => ?_, fun i => ?_⟩
    · rw [State.layerHeld, State.onTab, State.part_onPart_self hul, hup]
      exact any_filter_ne _ l k
    · rw [htab, hst]
      exact hsig _ i
    · rw [htab, hst]
      exact hsig _ i

end Sys2Proof.Machine
end

section
/-! SUPPORT. Which registers the shared operations change: what a send, a release and a completion count. -/

-- One declaration after another: the check bounds the memory, and with it the threads.
set_option Elab.async false

namespace Sys2Proof.Machine

/-- No register is changed but those of `B`. -/
structure State.RegsBut (B : Nat → Prop) (s t : State) : Prop where
  reg : ∀ a, ¬B a → t.reg a = s.reg a

namespace State.RegsBut

variable {B : Nat → Prop}

theorem refl (s : State) : s.RegsBut B s := ⟨fun _ _ => rfl⟩

theorem trans {s t u : State} (h : s.RegsBut B t) (k : t.RegsBut B u) : s.RegsBut B u := ⟨fun a ha =>
  (k.reg a ha).trans (h.reg a ha)⟩

theorem mono {C : Nat → Prop} {s t : State} (h : s.RegsBut B t) (hBC : ∀ a, B a → C a) : s.RegsBut C t := ⟨fun a ha =>
  h.reg a fun hb => ha (hBC a hb)⟩

theorem ofRegs {s t : State} (h : t.regs = s.regs) : s.RegsBut B t := ⟨fun _ _ => by simp only [State.reg, h]⟩

theorem setReg (s : State) {a : Nat} (v : Word) (h : B a) : s.RegsBut B (s.setReg a v) := ⟨fun _ hb =>
  spGet_spSet_of_ne _ _ fun e => hb (e ▸ h)⟩

theorem bump (s : State) {a : Nat} (n : Nat) (h : B a) : s.RegsBut B (s.bump a n) := by
  unfold State.bump
  split
  · exact setReg s _ h
  · exact refl s

theorem raise (s : State) {a : Nat} (i : Nat) (h : B a) : s.RegsBut B (s.raise a i) := by
  unfold State.raise
  split
  · exact setReg s _ h
  · exact refl s

theorem latch (s : State) {a : Nat} (v : Word) (h : B a) : s.RegsBut B (s.latch a v) := by
  unfold State.latch
  split
  · exact setReg s _ h
  · exact refl s

theorem foldl {α : Type} {f : State → α → State} (hf : ∀ (s : State) a, s.RegsBut B (f s a)) (l : List α) (s : State) :
    s.RegsBut B (l.foldl f s) := by
  induction l generalizing s with
  | nil => exact refl s
  | cons a l ih => exact (hf s a).trans (ih _)

end State.RegsBut

/-! ### Sends -/

/-- The count of messages that take a relay (R309). -/
def isRelayCnt (a : Nat) : Prop := ∃ p, a = rLK_RELAY_CNT p

/-- Everything but the registers. -/
def offRegs : Touch → Prop
  | .regs => False
  | _ => True

theorem State.Same.offRegs {s t : State} (h : s.Same offRegs t) : t.regs = s.regs := h.regs id

theorem State.sendOn_regs (s : State) (m : TxMsg) (back : Bool) : s.RegsBut isRelayCnt (s.sendOn m back) := by
  unfold State.sendOn
  extract_lets n l u d
  split
  extract_lets v
  have hv : s.RegsBut isRelayCnt v := by
    unfold v
    split
    · exact .trans (t := u) (.ofRegs rfl) (.bump u 1 ⟨d, rfl⟩)
    · exact .ofRegs rfl
  exact hv.trans (.ofRegs (State.enqueue_same (F := Machine.offRegs) _ _ _ (.refl v) trivial trivial trivial).offRegs)

theorem State.sendWith_regs (s : State) (cs : List Nat) (dst owner typ trigger : Nat) (body : Bytes) (back : Bool) :
    s.RegsBut isRelayCnt (s.sendWith cs dst owner typ trigger body back) := s.sendOn_regs _ _

theorem State.send_regs (s : State) (dst owner typ trigger : Nat) (body : Bytes) (back : Bool) :
    s.RegsBut isRelayCnt (s.send dst owner typ trigger body back) := s.sendWith_regs ..

theorem State.sendAll_regs (s : State) (dsts : List Nat) (owner typ trigger : Nat) (body : Bytes) :
    s.RegsBut isRelayCnt (s.sendAll dsts owner typ trigger body) :=
  .foldl (fun s d => s.send_regs d owner typ trigger body false) dsts s

theorem State.spread_regs (s : State) (p typ t : Nat) (body : Bytes) (gs : List (Nat × Nat × Bool)) :
    s.RegsBut isRelayCnt (s.spread p typ t body gs) := s.sendAll_regs ..

theorem State.spreadMgr_regs (s : State) (typ : Nat) (body : Bytes) : s.RegsBut isRelayCnt (s.spreadMgr typ body) := by
  unfold State.spreadMgr
  extract_lets u
  have hu : s.RegsBut isRelayCnt u := s.sendAll_regs ..
  split
  · exact hu.trans (u.sendAll_regs ..)
  · exact hu

theorem State.sendWithdraw_regs (s : State) (p : Nat) (x : StepSt) (scope : Nat) :
    s.RegsBut isRelayCnt (s.sendWithdraw p x scope) := by
  unfold State.sendWithdraw
  split
  · exact s.spreadMgr_regs ..
  · exact .refl s

/-! ### Releases -/

theorem State.writeLinks_regs (s : State) (c : Chain) : (s.writeLinks c).regs = s.regs := by
  refine foldl_view (·.regs) _ (fun s i => ?_) _ s
  split
  · exact State.askWrites_regs _ _ _
  · rfl

theorem State.readLinks_regs (s : State) (c : Chain) (n : Nat) : (s.readLinks c n).regs = s.regs :=
  (State.readLinks_same (F := Machine.offRegs) c n (.refl s) trivial trivial).offRegs

theorem State.releaseN_regs (s : State) (m : Bool) (cell n : Nat) : s.RegsBut (· = rREF_ERR_CNT) (s.releaseN m cell n) := by
  unfold State.releaseN
  split
  · exact .bump s n rfl
  · split
    · extract_lets u
      have hu : s.RegsBut (· = rREF_ERR_CNT) u := .ofRegs (State.readLinks_regs _ _ _)
      split
      · exact hu.trans (.bump u _ rfl)
      · exact hu
    · exact .ofRegs ((State.writeLinks_regs _ _).trans (State.readLinks_regs _ _ _))

theorem State.releaseId_regs (s : State) (id : Nat) : s.RegsBut (· = rREF_ERR_CNT) (s.releaseId id) := by
  unfold State.releaseId
  split
  · exact s.releaseN_regs _ _ _
  · exact .refl s

theorem State.dropHolds_regs (s : State) (f : SlotHold → Bool) : s.RegsBut (· = rREF_ERR_CNT) (s.dropHolds f) := by
  unfold State.dropHolds
  refine .trans (t := { s with link := { s.link with slots := s.link.slots.filter (fun h => !f h) } }) (.ofRegs rfl)
    (.foldl (fun s h => ?_) _ _)
  exact .trans (.foldl (fun s id => s.releaseId_regs id) _ _) (.ofRegs rfl)

theorem State.take_regs (s : State) (m : Msg) : s.RegsBut (· = rREF_ERR_CNT) (s.take m) :=
  .trans (t := { s with link := { s.link with inbox := s.link.inbox.erase m } }) (.ofRegs rfl) (State.dropHolds_regs _ _)

theorem State.take_refErrOnly (s : State) (m : Msg) : refErrOnly s (s.take m) := (s.take_regs m).reg

/-! ### Completions -/

/-- The counts of the commands of a client that ended (R137). -/
def isAcctCnt (a : Nat) : Prop := ∃ c < 256, a = rACCT_DONE c ∨ a = rACCT_ABORT c

theorem State.credit_regs (s : State) (client status : Nat) : s.RegsBut isAcctCnt (s.credit client status) := by
  refine .bump s 1 ⟨client % 256, Nat.mod_lt _ (by decide), ?_⟩
  split
  · exact .inl rfl
  · exact .inr rfl

theorem State.complete_regs (s : State) (g status fault diverted stepNo ledger endAt : Nat) (jobs : List (Nat × Nat)) :
    s.RegsBut isAcctCnt (s.complete g status fault diverted stepNo ledger endAt jobs) := by
  unfold State.complete
  split
  · exact .refl s
  · rename_i c hc
    extract_lets u p addr place head s1 held s2 torn s3 s4
    have hu : s.RegsBut isAcctCnt u := .ofRegs (by
      obtain ⟨ps, cs, e, -⟩ := s.leaveCores_eq g status c
      simp only [u, e])
    have h1 : u.RegsBut isAcctCnt s1 := by
      unfold s1
      clear_value place u
      split
      · exact .ofRegs (State.askWrites_regs _ _ _)
      · exact .refl u
    have h2 : s1.RegsBut isAcctCnt s2 := by
      unfold s2
      split
      · exact .foldl (fun s j => s.credit_regs j.1 j.2) jobs s1
      · exact .refl s1
    have h3 : s2.RegsBut isAcctCnt s3 := by
      unfold s3
      split
      · exact .ofRegs rfl
      · exact .refl s2
    have h4 : s3.RegsBut isAcctCnt s4 := by
      unfold s4
      split
      · exact .ofRegs rfl
      · exact .refl s3
    exact hu.trans (h1.trans (h2.trans (h3.trans (h4.trans (.ofRegs rfl)))))

theorem State.completeCmd_regs (s : State) (g status fault : Nat) :
    s.RegsBut isAcctCnt (s.completeCmd g status fault) := by
  unfold State.completeCmd
  split
  · exact s.complete_regs _ _ _ _ _ _ _ _
  · exact .refl s

end Sys2Proof.Machine
end

section
/-! SUPPORT. Abort requests at the boundary (R417 to R419; O36). -/

-- One declaration after another: the check bounds the memory, and with it the threads.
set_option Elab.async false

namespace Sys2Proof.Machine

/-! ### The request is decided -/

/-- The state in which the result of the oldest request of a group stands in ABORT_RESULT (R417). -/
def State.abortDecided (s : State) (g r seq : Nat) (rest : List (Nat × Bool × Bool)) : State :=
  ((s.onGroup g (fun x => { x with aborts := rest })).latch (rABORT_RESULT g)
    (BitVec.ofNat 32 (r + 256 * (seq % 2 ^ 24)))).raise rFLT_EVT 7

/-- What R417 says of ABORT_RESULT, of FLT_EVT and of the requests that are left. -/
def abortTold (t : State) (g r seq : Nat) (rest : List (Nat × Bool × Bool)) : Prop :=
  t.reg (rABORT_RESULT g) = BitVec.ofNat 32 (r + 256 * (seq % 2 ^ 24)) ∧ (t.reg rFLT_EVT).getLsbD 7 = true
    ∧ (t.group g).aborts = rest

theorem State.abortDecided_eq (s : State) (g r seq : Nat) (rest : List (Nat × Bool × Bool)) : ∃ x,
    s.abortDecided g r seq rest = { s.onGroup g (fun x => { x with aborts := rest }) with regs := x } :=
  ⟨_, by rw [State.abortDecided, State.raise_with_regs, State.latch_with_regs]⟩

theorem rABORT_RESULT_ne {g : Nat} (hg : g < 64) : rABORT_RESULT g ≠ rFLT_EVT ∧ ¬isAcctCnt (rABORT_RESULT g)
    ∧ ¬isRelayCnt (rABORT_RESULT g) ∧ ¬isAcctCnt rFLT_EVT ∧ ¬isRelayCnt rFLT_EVT := by
  simp only [isAcctCnt, isRelayCnt, rABORT_RESULT, rFLT_EVT, rACCT_DONE, rACCT_ABORT, rLK_RELAY_CNT]
  refine ⟨by omega, ?_, ?_, ?_, ?_⟩
  · rintro ⟨c, hc, h | h⟩ <;> omega
  · rintro ⟨p, h⟩
    omega
  · rintro ⟨c, hc, h | h⟩ <;> omega
  · rintro ⟨p, h⟩
    omega

section
variable {s : State} {g seq : Nat} {rest : List (Nat × Bool × Bool)} (hs : s.sound) (hg : g < 64)
  (hp : s.powered (rABORT_RESULT g) = true) (hf : s.powered rFLT_EVT = true)
include hs hg hp hf

theorem State.abortDecided_told (r : Nat) : abortTold (s.abortDecided g r seq rest) g r seq rest := by
  have hgl : g < s.groups.length := hs.groupsLen.symm ▸ hg
  obtain ⟨hne, -⟩ := rABORT_RESULT_ne hg
  let u := s.onGroup g (fun x => { x with aborts := rest })
  have hwf : spWf (u.latch (rABORT_RESULT g) (BitVec.ofNat 32 (r + 256 * (seq % 2 ^ 24)))).regs = true := by
    rw [State.latch, if_pos (by exact hp)]
    exact spWf_spSet _ _ _ hs.regsWf
  refine ⟨?_, ?_, ?_⟩
  · rw [State.abortDecided, State.reg_raise_of_ne hwf _ hne, State.latch, if_pos (by exact hp),
      State.reg_setReg_self (s := s.onGroup g _) _ hs.regsWf]
  · refine State.getLsbD_reg_raise hwf ?_ (by decide)
    rw [← hf]
    exact State.powered_congr (s := s) (congrArg PowerSt.domOn (State.latch_power u _ _)) _
  · obtain ⟨x, e⟩ := s.abortDecided_eq g r seq rest
    rw [e]
    exact congrArg Group.aborts (State.group_onGroup_self hgl _)

/-- What is told stays told under operations that count ended commands or relays alone. -/
theorem State.abortTold_of_regs {B : Nat → Prop} {r : Nat} {t : State} (h : (s.abortDecided g r seq rest).RegsBut B t)
    (h1 : ¬B (rABORT_RESULT g)) (h2 : ¬B rFLT_EVT) (ha : (t.group g).aborts = rest) : abortTold t g r seq rest := by
  obtain ⟨k1, k2, -⟩ := State.abortDecided_told (seq := seq) (rest := rest) hs hg hp hf r
  exact ⟨(h.reg _ h1).trans k1, by rw [h.reg _ h2]; exact k2, ha⟩

end

theorem exec_abortRegister_of_up {s : State} {g seq : Nat} {bad : Bool} {rest : List (Nat × Bool × Bool)}
    (ha : (s.group g).aborts = (seq, bad, true) :: rest) (hst : s.stopped (s.gPart g) = false) :
    exec (.abortRegister g) s = .next (let r := s.abortResult g seq bad
      if r = 1 then (s.abortDecided g r seq rest).abortNow g
      else (s.abortDecided g r seq rest).groupNote 3 g 0 (toLE 4 seq ++ toLE 1 (0x80 + r) ++ zeros 3 ++ toLE 1 g) false) := by
  change execAbortRegister g s = _
  simp only [execAbortRegister, ha]
  refine (if_neg (by simp)).trans ((if_neg ?_).trans (apply_ite Host.Outcome.next _ _ _).symm)
  rw [show (s.onGroup g _).stopped ((s.onGroup g _).gPart g) = false from hst]
  simp

theorem exec_abortRegister_of_down {s : State} {g seq : Nat} {bad : Bool} {rest : List (Nat × Bool × Bool)}
    (ha : (s.group g).aborts = (seq, bad, true) :: rest) (hst : s.stopped (s.gPart g) = true)
    (ht : (s.part (s.gPart g)).tornAt ≠ s.stitch.count) :
    exec (.abortRegister g) s = .next (s.onGroup g (fun x => { x with aborts := rest })) := by
  change execAbortRegister g s = _
  simp only [execAbortRegister, ha]
  refine (if_neg (by simp)).trans (if_pos ?_)
  rw [show (s.onGroup g _).stopped ((s.onGroup g _).gPart g) = true from hst]
  simp only [Bool.true_and, bne_iff_ne]
  exact ht

/-! ### What the result does (R418) -/

/-- The group's command is under abort. -/
def State.abortMarked (s : State) (g : Nat) : State := s.onGroup g (fun x => { x with abortHead := true })

theorem State.abortNow_of_cmd {s : State} {g : Nat} {c : Cmd} (hg : g < s.groups.length) (hc : (s.group g).cur = some c)
    (hph : c.phase ≠ 2) : s.abortNow g = (s.abortMarked g).endCmd g 2 15 := by
  have hw : ((s.abortMarked g).group g).cur = some c := (congrArg Group.cur (State.group_onGroup_self hg _)).trans hc
  unfold State.abortMarked at hw
  simp only [State.abortNow, hw]
  exact if_pos hph

theorem State.abortNow_of_head {s : State} {g : Nat} {d : Bytes} (hg : g < s.groups.length) (hc : (s.group g).cur = none)
    (hd : s.headDesc g = some d) : s.abortNow g = if fld d 0 1 = 1 then s.abortMarked g
      else ((s.abortMarked g).begin g 1 d).completeCmd g 2 15 := by
  have hself := State.group_onGroup_self hg (fun x => { x with abortHead := true })
  have hw : ((s.abortMarked g).group g).cur = none := (congrArg Group.cur hself).trans hc
  have hw2 : (s.abortMarked g).headDesc g = some d := by
    rw [← hd, State.headDesc, State.headDesc, State.abortMarked, hself]
    rfl
  unfold State.abortMarked at hw hw2
  simp only [State.abortNow, hw, hw2]
  rfl

theorem State.abortNow_of_step {s : State} {g : Nat} {c : Cmd} {x : StepSt} (hg : g < s.groups.length)
    (hc : (s.group g).cur = some c) (hph : c.phase = 2) (hx : (s.part (s.gPart g)).step = some x) (ht : x.tornBy = none) :
    s.abortNow g = if x.launched then (((s.abortMarked g).endAgain (s.gPart g)).onStep (s.gPart g) (fun y => { y with
        abortReg := true, withdrawn := some y.nextLayer })).sendWithdraw (s.gPart g) x 0
      else (s.abortMarked g).onStep (s.gPart g) (fun y => { y with abortReg := true }) := by
  have hw : ((s.abortMarked g).group g).cur = some c := (congrArg Group.cur (State.group_onGroup_self hg _)).trans hc
  have hw2 : ((s.abortMarked g).part (s.gPart g)).step = some x := hx
  unfold State.abortMarked at hw hw2
  simp only [State.abortNow, hw, hw2]
  refine (if_neg (not_not.mpr hph)).trans (if_neg ?_)
  simp [ht]

theorem State.endAgain_length (s : State) (p : Nat) : (s.endAgain p).parts.length = s.parts.length := by
  unfold State.endAgain
  split
  · rfl
  · split
    · exact State.onPart_length _ _ _
    · split
      · split
        · exact State.onPart_length _ _ _
        · exact (State.onPart_length _ _ _).trans (State.onPart_length _ _ _)
      · rfl

/-- An end of a step that has begun is taken back (R418). -/
theorem State.endAgain_step {s : State} {p : Nat} {x : StepSt} (hp : p < s.parts.length) (hx : (s.part p).step = some x)
    (hf : x.fin ≤ 2) : ∃ e, ((s.endAgain p).part p).step = some { x with fin := 0, endOut := e } := by
  unfold State.endAgain
  rw [hx]
  dsimp only
  by_cases h1 : x.fin = 1
  · rw [if_pos h1, State.step_onStep s p _ hp, hx]
    exact ⟨_, rfl⟩
  · rw [if_neg h1]
    by_cases h2 : x.fin = 2
    · rw [if_pos h2]
      split
      · rw [State.step_onStep s p _ hp, hx]
        exact ⟨_, rfl⟩
      · rw [State.step_onStep _ p _ ((State.onPart_length _ _ _).symm ▸ hp), State.part_onPart_self hp, hx]
        exact ⟨_, rfl⟩
    · rw [if_neg h2, hx]
      have h0 : x.fin = 0 := by omega
      exact ⟨x.endOut, by rw [← h0]⟩

theorem State.completeCmd_group {s : State} {g : Nat} {c : Cmd} (hc : (s.group g).cur = some c) (status fault : Nat) :
    ∃ b, (s.completeCmd g status fault).group g = { s.group g with
      fetch := 0
      cur := none
      lastSeq := some c.seq
      recBusy := b
      head := if s.stopped (s.gPart g) || (c.torn || (c.phase == 2 && ((s.part (s.gPart g)).step.bind (·.tornBy)).isSome))
        then (s.group g).head else ((s.group g).head + 1) % 2 ^ 32
      abortHead := false } := by
  obtain ⟨k, m, o, n, ps, cs, -, e⟩ := State.complete_eq hc status fault 0 0 0xFFFFFFFF s.stitch.count [(fld c.desc 2 1, status)]
  rw [State.completeCmd, hc]
  dsimp only
  rw [e, State.group_onGroup_self (by exact State.lt_groups_of_cur hc)]
  exact ⟨_, rfl⟩

/-! ### RESULT 1 -/

section
variable {s : State} {g seq : Nat} (hl : (s.group g).lastSeq ≠ some seq) (hh : (s.group g).abortHead = false)
include hl hh

theorem State.abortResult_of_cmd {c : Cmd} (hc : (s.group g).cur = some c) (hseq : c.seq = seq)
    (ho : fld c.desc 0 1 = 1 ∨ fld c.desc 0 1 = 4 ∨ fld c.desc 0 1 = 5) : s.abortResult g seq false = 1 := by
  simp only [State.abortResult, hc, hseq, if_true, hh, Bool.false_eq_true, if_false]
  rw [if_neg hl, if_pos ho]

theorem State.abortResult_of_head {d : Bytes} (hc : (s.group g).cur = none) (hat : s.atHead g = true)
    (hrec : (s.group g).recBusy = false) (hd : s.headDesc g = some d) (hseq : fld d 4 4 = seq)
    (ho : fld d 0 1 = 1 ∨ fld d 0 1 = 4 ∨ fld d 0 1 = 5) : s.abortResult g seq false = 1 := by
  simp only [State.abortResult, hc, hat, hrec, hd, Bool.not_false, Bool.and_self, if_true, Option.bind_some, hseq, hh,
    Bool.false_eq_true, if_false]
  rw [if_neg hl, if_pos ho]

end

section
variable {s : State} {g : Nat} (r seq : Nat) (rest : List (Nat × Bool × Bool)) (hs : s.sound) (hg : g < 64)
include hs hg

theorem State.abortDecided_group : (s.abortDecided g r seq rest).group g = { s.group g with aborts := rest } := by
  obtain ⟨x, e⟩ := s.abortDecided_eq g r seq rest
  rw [e]
  exact State.group_onGroup_self (hs.groupsLen.symm ▸ hg) _

theorem State.abortDecided_length : g < (s.abortDecided g r seq rest).groups.length := by
  obtain ⟨x, e⟩ := s.abortDecided_eq g r seq rest
  rw [e]
  simpa [State.onGroup] using hs.groupsLen.symm ▸ hg

/-- The group as an abort with RESULT 1 finds it. -/
theorem State.abortMarked_group : ((s.abortDecided g r seq rest).abortMarked g).group g
    = { s.group g with aborts := rest, abortHead := true } := by
  rw [State.abortMarked, State.group_onGroup_self (State.abortDecided_length r seq rest hs hg),
    State.abortDecided_group r seq rest hs hg]

theorem State.abortMarked_length : g < ((s.abortDecided g r seq rest).abortMarked g).groups.length := by
  simpa [State.abortMarked, State.onGroup] using State.abortDecided_length r seq rest hs hg

end

section
variable {s : State} {g seq : Nat} {rest : List (Nat × Bool × Bool)} (hs : s.sound) (hg : g < 64)
  (ha : (s.group g).aborts = (seq, false, true) :: rest) (hp : s.powered (rABORT_RESULT g) = true)
  (hf : s.powered rFLT_EVT = true) (hst : s.stopped (s.gPart g) = false) (hl : (s.group g).lastSeq ≠ some seq)
  (hh : (s.group g).abortHead = false)
include hs hg ha hp hf hst hl hh

/-- An abort of the PARK or the REPLAY that runs (R418). -/
theorem abort_of_running {c : Cmd} (hc : (s.group g).cur = some c) (hseq : c.seq = seq)
    (ho : fld c.desc 0 1 = 4 ∨ fld c.desc 0 1 = 5) (hph : c.phase ≠ 2) :
    (c.torn = false → c.phase ≠ 3 ∨ s.cmdWriting g = false → c.phase ≠ 1 ∨ s.runsOn g = false →
        answers (.abortRegister g) s (fun t => abortTold t g 1 seq rest ∧ (t.group g).cur = none
          ∧ (t.group g).lastSeq = some seq ∧ (t.group g).head = ((s.group g).head + 1) % 2 ^ 32))
      ∧ (c.endAs = none → c.phase = 3 ∧ s.cmdWriting g = true ∨ c.phase = 1 ∧ s.runsOn g = true →
        answers (.abortRegister g) s (fun t => abortTold t g 1 seq rest
          ∧ (t.group g).cur = some { c with endAs := some (2, 15), torn := false }
          ∧ (t.group g).head = (s.group g).head ∧ t.mem = s.mem)) := by
  let u := s.abortDecided g 1 seq rest
  let w := u.abortMarked g
  have hwg : w.group g = { s.group g with aborts := rest, abortHead := true } :=
    State.abortMarked_group 1 seq rest hs hg
  have hwl : g < w.groups.length := State.abortMarked_length 1 seq rest hs hg
  have hwc : (w.group g).cur = some c := (congrArg Group.cur hwg).trans hc
  obtain ⟨x, hu⟩ := s.abortDecided_eq g 1 seq rest
  have hwrite : w.cmdWriting g = s.cmdWriting g := by
    simp only [w, u, hu]
    rfl
  have hruns : w.runsOn g = s.runsOn g := by
    simp only [w, u, hu]
    rfl
  have e : exec (.abortRegister g) s = .next (w.endCmd g 2 15) := by
    rw [exec_abortRegister_of_up ha hst, State.abortResult_of_cmd hl hh hc hseq (.inr ho)]
    exact congrArg _ (State.abortNow_of_cmd (State.abortDecided_length 1 seq rest hs hg)
      ((congrArg Group.cur (State.abortDecided_group 1 seq rest hs hg)).trans hc) hph)
  refine ⟨fun ht h3 h1 => ?_, fun hn hbusy => ?_⟩
  · have e2 : w.endCmd g 2 15 = w.completeCmd g 2 15 := by
      simp only [State.endCmd, State.endWhen, hwc]
      refine if_neg ?_
      rw [hwrite, hruns]
      rcases h3 with h3 | h3 <;> rcases h1 with h1 | h1 <;> simp [h3, h1]
    obtain ⟨b, hself⟩ := State.completeCmd_group hwc 2 15
    have hstop : w.stopped (w.gPart g) = false := by
      simp only [w, u, hu]
      exact hst
    obtain ⟨-, h1', -, h2', -⟩ := rABORT_RESULT_ne hg
    refine answers_of_exec (e.trans (congrArg _ e2)) ⟨?_, by rw [hself], ?_, ?_⟩
    · refine State.abortTold_of_regs (B := isAcctCnt) hs hg hp hf ?_ h1' h2' ?_
      · exact .trans (t := w) (.ofRegs rfl) (w.completeCmd_regs g 2 15)
      · exact (congrArg Group.aborts hself).trans (congrArg Group.aborts hwg)
    · exact (congrArg Group.lastSeq hself).trans (congrArg some hseq)
    · refine (congrArg Group.head hself).trans ?_
      have hp2 : (c.phase == 2) = false := by simpa using hph
      simp only [hstop, ht, hp2, Bool.false_and, Bool.or_self, Bool.false_eq_true, if_false]
      simp [hwg]
  · have e2 : w.endCmd g 2 15 = w.onGroup g (fun x => { x with
        cur := some { c with endAs := some (2, 15), torn := false } }) := by
      simp only [State.endCmd, State.endWhen, hwc]
      refine (if_pos ?_).trans (if_neg (by simp [hn]))
      rw [hwrite, hruns]
      rcases hbusy with ⟨h3, h1⟩ | ⟨h3, h1⟩ <;> simp [h3, h1]
    have hself := State.group_onGroup_self hwl (fun x => { x with
        cur := some { c with endAs := some (2, 15), torn := false } })
    refine answers_of_exec (e.trans (congrArg _ e2)) ⟨?_, ?_, ?_, ?_⟩
    · exact State.abortTold_of_regs (B := fun _ => False) hs hg hp hf (.ofRegs rfl) id id (by rw [hself, hwg])
    · rw [hself]
    · rw [hself, hwg]
    · change w.mem = _
      simp only [w, u, hu]
      rfl

/-- An abort of a STEP in its partition (R418). -/
theorem abort_of_step {c : Cmd} {x : StepSt} (hc : (s.group g).cur = some c) (hseq : c.seq = seq) (hph : c.phase = 2)
    (ho : fld c.desc 0 1 = 1) (hgp : s.gPart g < 8) (hx : (s.part (s.gPart g)).step = some x) (hn : x.tornBy = none) :
    (x.launched = true → x.fin ≤ 2 → answers (.abortRegister g) s (fun t => abortTold t g 1 seq rest
        ∧ ((t.group g).cur = (s.group g).cur ∧ (t.group g).head = (s.group g).head)
        ∧ ∃ y, (t.part (s.gPart g)).step = some y ∧ y.abortReg = true ∧ y.withdrawn = some x.nextLayer
          ∧ y.fin = 0 ∧ y.passes = x.passes ∧ y.lstat = x.lstat))
      ∧ (x.launched = false → answers (.abortRegister g) s (fun t => abortTold t g 1 seq rest
        ∧ ((t.group g).cur = (s.group g).cur ∧ (t.group g).head = (s.group g).head)
        ∧ (t.part (s.gPart g)).step = some { x with abortReg := true } ∧ t.mem = s.mem)) := by
  let u := s.abortDecided g 1 seq rest
  let w := u.abortMarked g
  have hwg : w.group g = { s.group g with aborts := rest, abortHead := true } := State.abortMarked_group 1 seq rest hs hg
  obtain ⟨k, hu⟩ := s.abortDecided_eq g 1 seq rest
  have hup : u.parts = s.parts := by
    simp only [u, hu]
    rfl
  have hui : u.gPart g = s.gPart g := by
    simp only [u, hu]
    rfl
  have hwp : w.part (s.gPart g) = s.part (s.gPart g) := by
    change u.part _ = _
    simp only [State.part, hup]
  have hwl : s.gPart g < w.parts.length := by
    change _ < u.parts.length
    rw [hup, hs.partsLen]
    exact hgp
  have e : exec (.abortRegister g) s = .next (if x.launched then ((w.endAgain (s.gPart g)).onStep (s.gPart g) (fun y => { y with
      abortReg := true, withdrawn := some y.nextLayer })).sendWithdraw (s.gPart g) x 0
      else w.onStep (s.gPart g) (fun y => { y with abortReg := true })) := by
    rw [exec_abortRegister_of_up ha hst, State.abortResult_of_cmd hl hh hc hseq (.inl ho)]
    have h := State.abortNow_of_step (State.abortDecided_length 1 seq rest hs hg)
      ((congrArg Group.cur (State.abortDecided_group 1 seq rest hs hg)).trans hc) hph (x := x)
      (by rw [show (s.abortDecided g 1 seq rest).gPart g = s.gPart g from hui]; exact (congrArg Part.step hwp).trans hx) hn
    rw [show (s.abortDecided g 1 seq rest).gPart g = s.gPart g from hui] at h
    exact congrArg _ h
  obtain ⟨-, -, h1, -, h2⟩ := rABORT_RESULT_ne hg
  refine ⟨fun hlaunch hfin => ?_, fun hlaunch => ?_⟩
  · rw [if_pos hlaunch] at e
    obtain ⟨q, hq⟩ := State.endAgain_step hwl ((congrArg Part.step hwp).trans hx) hfin
    let v := (w.endAgain (s.gPart g)).onStep (s.gPart g) (fun y => { y with
      abortReg := true, withdrawn := some y.nextLayer })
    let t := v.sendWithdraw (s.gPart g) x 0
    have hea : w.Same (fun f => f = .part (s.gPart g)) v := State.onStep_same _ _ (State.endAgain_same _ (.refl w) rfl) rfl
    have ht := State.sendWithdraw_same (F := fun f => f = .free ∨ f = .regs ∨ f = .link ∨ f = .power) (s.gPart g) x 0 (.refl v)
      (by simp) (by simp) (by simp) (by simp)
    have htg : t.group g = w.group g := (ht.group g (by simp)).trans (hea.group g (by simp))
    refine answers_of_exec e ⟨?_, ?_, { x with
      fin := 0, endOut := q, abortReg := true, withdrawn := some x.nextLayer }, ?_, rfl, rfl, rfl, rfl, rfl⟩
    · refine State.abortTold_of_regs (B := isRelayCnt) hs hg hp hf ?_ h1 h2 ?_
      · exact .trans (t := v) (.ofRegs (hea.regs (by simp))) (v.sendWithdraw_regs _ x 0)
      · rw [htg, hwg]
    · exact ⟨by rw [htg, hwg], by rw [htg, hwg]⟩
    · refine (congrArg Part.step (ht.part (s.gPart g) (by simp) (by simp))).trans ?_
      rw [State.step_onStep _ _ _ (by rw [State.endAgain_length]; exact hwl), hq]
      rfl
  · rw [if_neg (by simp [hlaunch])] at e
    refine answers_of_exec e ⟨?_, ?_, ?_, ?_⟩
    · exact State.abortTold_of_regs (B := fun _ => False) hs hg hp hf (.ofRegs rfl) id id (by
        change (w.group g).aborts = _; rw [hwg])
    · change (w.group g).cur = _ ∧ (w.group g).head = _
      rw [hwg]
      exact ⟨rfl, rfl⟩
    · refine (State.step_onStep w _ _ hwl).trans ?_
      rw [hwp, hx]
      rfl
    · change u.mem = _
      simp only [u, hu]
      rfl

/-- An abort of the command at HEAD (R418). -/
theorem abort_of_head {d : Bytes} (hc : (s.group g).cur = none) (hat : s.atHead g = true)
    (hrec : (s.group g).recBusy = false) (hd : s.headDesc g = some d) (hseq : fld d 4 4 = seq) :
    (fld d 0 1 = 4 ∨ fld d 0 1 = 5 → fld d 8 8 % 32 = 0 → (s.tr (s.gPart g) (fld d 8 8) 32 4).isSome = true →
        answers (.abortRegister g) s (fun t => abortTold t g 1 seq rest ∧ completed s t g d 2 15))
      ∧ (fld d 0 1 = 1 → answers (.abortRegister g) s (fun t => abortTold t g 1 seq rest
        ∧ ((t.group g).cur = (s.group g).cur ∧ (t.group g).head = (s.group g).head)
        ∧ (t.group g).abortHead = true ∧ t.parts = s.parts ∧ t.mem = s.mem)) := by
  let u := s.abortDecided g 1 seq rest
  let w := u.abortMarked g
  have hwg : w.group g = { s.group g with aborts := rest, abortHead := true } := State.abortMarked_group 1 seq rest hs hg
  have hwl : g < w.groups.length := State.abortMarked_length 1 seq rest hs hg
  obtain ⟨k, hu⟩ := s.abortDecided_eq g 1 seq rest
  have e (ho : fld d 0 1 = 1 ∨ fld d 0 1 = 4 ∨ fld d 0 1 = 5) : exec (.abortRegister g) s
      = .next (if fld d 0 1 = 1 then w else (w.begin g 1 d).completeCmd g 2 15) := by
    rw [exec_abortRegister_of_up ha hst, State.abortResult_of_head hl hh hc hat hrec hd hseq ho]
    refine congrArg _ (State.abortNow_of_head (State.abortDecided_length 1 seq rest hs hg)
      ((congrArg Group.cur (State.abortDecided_group 1 seq rest hs hg)).trans hc) ?_)
    rw [← hd, State.headDesc, State.headDesc, State.abortDecided_group 1 seq rest hs hg, hu]
    rfl
  refine ⟨fun ho hal htr => ?_, fun ho => ?_⟩
  · have e1 := e (.inr ho)
    rw [if_neg (by omega)] at e1
    let v := w.begin g 1 d
    have hcur : (v.group g).cur = some (freshCmd 1 d) := State.begin_cur hwl 1 d
    obtain ⟨-, h1, -, h2, -⟩ := rABORT_RESULT_ne hg
    have hvi : v.img = s.img := by
      change u.img = _
      simp only [u, hu]
      rfl
    have hvm : v.mem = s.mem := by
      change u.mem = _
      simp only [u, hu]
      rfl
    have htr' : (v.tr (v.gPart g) (fld d 8 8) 32 4).isSome = true := by
      rw [← htr]
      simp only [State.tr, State.sect, State.gPart, State.gcfg, hvi]
    have hstop : v.stopped (v.gPart g) = false := by
      rw [← hst]
      change u.stopped (u.gPart g) = _
      simp only [u, hu]
      rfl
    refine answers_of_exec e1 ⟨?_, ?_⟩
    · refine State.abortTold_of_regs (B := isAcctCnt) hs hg hp hf (.trans (t := v) (.ofRegs rfl)
        (v.completeCmd_regs g 2 15)) h1 h2 ?_
      obtain ⟨b, hself⟩ := State.completeCmd_group hcur 2 15
      rw [hself, State.begin_group hwl, hwg]
    · refine completed_congr (u := v) hvi ?_ ?_ ?_
      · change u.stitch = _
        simp only [u, hu]
        rfl
      · rw [State.begin_group hwl, hwg]
      · exact State.completeCmd_completed 15 hcur rfl hal htr' hstop rfl (by simp [freshCmd]) (hvm ▸ hs.memWf)
  · have e1 := e (.inl ho)
    rw [if_pos ho] at e1
    refine answers_of_exec e1 ⟨?_, ⟨by rw [hwg], by rw [hwg]⟩, by rw [hwg], ?_, ?_⟩
    · exact State.abortTold_of_regs (B := fun _ => False) hs hg hp hf (.ofRegs rfl) id id (by rw [hwg])
    · change u.parts = _
      simp only [u, hu]
      rfl
    · change u.mem = _
      simp only [u, hu]
      rfl

end

/-! ### The other results (R417) -/

section
variable {s : State} {g seq : Nat} {bad : Bool} {rest : List (Nat × Bool × Bool)} (hs : s.sound) (hg : g < 64)
  (ha : (s.group g).aborts = (seq, bad, true) :: rest) (hp : s.powered (rABORT_RESULT g) = true)
  (hf : s.powered rFLT_EVT = true) (hst : s.stopped (s.gPart g) = false)
include hs hg ha hp hf hst

/-- A result that ends no command. -/
theorem abort_of_result {r : Nat} (hr : s.abortResult g seq bad = r) (h1 : r ≠ 1) :
    answers (.abortRegister g) s (fun t => abortTold t g r seq rest
      ∧ ((t.group g).cur = (s.group g).cur ∧ (t.group g).head = (s.group g).head)
      ∧ t.seam.notes.length = s.seam.notes.length + 1 ∧ t.mem = s.mem ∧ t.parts = s.parts) := by
  have e := exec_abortRegister_of_up ha hst
  simp only [hr] at e
  rw [if_neg h1] at e
  have hself := State.abortDecided_group r seq rest hs hg
  obtain ⟨k, hu⟩ := s.abortDecided_eq g r seq rest
  refine answers_of_exec e ⟨State.abortDecided_told hs hg hp hf r, ?_, ?_, ?_, ?_⟩
  · change ((s.abortDecided g r seq rest).group g).cur = _ ∧ ((s.abortDecided g r seq rest).group g).head = _
    rw [hself]
    exact ⟨rfl, rfl⟩
  · simp only [State.groupNote, List.length_append, hu]
    rfl
  · simp only [State.groupNote, hu]
    rfl
  · simp only [State.groupNote, hu]
    rfl

end

theorem State.abortResult_of_bad (s : State) (g seq : Nat) : s.abortResult g seq true = 4 := rfl

theorem State.abortResult_of_done {s : State} {g seq : Nat} (hl : (s.group g).lastSeq = some seq) :
    s.abortResult g seq false = 2 := by
  simp only [State.abortResult, Bool.false_eq_true, if_false, hl, if_true]

section
variable {s : State} {g seq : Nat} (hl : (s.group g).lastSeq ≠ some seq)
include hl

theorem State.abortResult_of_other {c : Cmd} (hc : (s.group g).cur = some c) (hq : c.seq ≠ seq) :
    s.abortResult g seq false = 3 := by
  simp only [State.abortResult, Bool.false_eq_true, if_false, hc, if_neg hq, if_neg hl]

theorem State.abortResult_of_notHere (hc : (s.group g).cur = none) (hat : s.atHead g = false) :
    s.abortResult g seq false = 3 := by
  simp only [State.abortResult, Bool.false_eq_true, if_false, hc, hat, Bool.false_and, if_neg hl]

theorem State.abortResult_of_unabortable {c : Cmd} (hc : (s.group g).cur = some c) (hq : c.seq = seq)
    (ho : (s.group g).abortHead = true ∨ fld c.desc 0 1 = 0 ∨ fld c.desc 0 1 = 2 ∨ fld c.desc 0 1 = 3) :
    s.abortResult g seq false = 4 := by
  simp only [State.abortResult, Bool.false_eq_true, if_false, hc, if_pos hq, if_neg hl]
  rcases ho with h | h
  · rw [if_pos h]
  · rw [if_neg (by omega : ¬(fld c.desc 0 1 = 1 ∨ fld c.desc 0 1 = 4 ∨ fld c.desc 0 1 = 5)), ite_self]

end

/-- A request of a partition that went down before the boundary is dropped (R417). -/
theorem abort_of_down {s : State} {g seq : Nat} {bad : Bool} {rest : List (Nat × Bool × Bool)} (hs : s.sound) (hg : g < 64)
    (ha : (s.group g).aborts = (seq, bad, true) :: rest) (hst : s.stopped (s.gPart g) = true)
    (ht : (s.part (s.gPart g)).tornAt ≠ s.stitch.count) : answers (.abortRegister g) s (fun t =>
      t.group g = { s.group g with aborts := rest } ∧ t.regs = s.regs ∧ t.seam = s.seam ∧ t.parts = s.parts
        ∧ t.mem = s.mem) :=
  answers_of_exec (exec_abortRegister_of_down ha hst ht)
    ⟨State.group_onGroup_self (hs.groupsLen.symm ▸ hg) _, rfl, rfl, rfl, rfl⟩

/-! ### Slices -/

theorem slice_append_left {a b : Bytes} {k n : Nat} (h : k + n ≤ a.length) : slice (a ++ b) k n = slice a k n := by
  rw [slice, slice, List.drop_append_of_le_length (by omega), List.take_append_of_le_length (by simp; omega)]

theorem slice_append_right (a b : Bytes) {k m n : Nat} (h : a.length = m) : slice (a ++ b) (m + k) n = slice b k n := by
  rw [slice, slice, ← h, List.drop_length_add_append]

/-- A slice within one of the parts of equal length that a list gives. -/
theorem slice_flatMap {α : Type} (f : α → Bytes) {n : Nat} {l : List α} (h : ∀ a ∈ l, (f a).length = n) {i : Nat} {a : α}
    (hi : l[i]? = some a) {k m : Nat} (hk : k + m ≤ n) : slice (l.flatMap f) (n * i + k) m = slice (f a) k m := by
  induction l generalizing i with
  | nil => simp at hi
  | cons b l ih =>
    have hb : (f b).length = n := h b (List.mem_cons_self ..)
    rw [List.flatMap_cons]
    cases i with
    | zero =>
      obtain rfl : b = a := by simpa using hi
      rw [Nat.mul_zero, Nat.zero_add, slice_append_left (hb.symm ▸ hk)]
    | succ i =>
      rw [show n * (i + 1) + k = n + (n * i + k) by rw [Nat.mul_succ]; omega, slice_append_right _ _ hb]
      exact ih (fun x hx => h x (List.mem_cons_of_mem _ hx)) (by simpa using hi)

theorem length_flatMap_const {α β : Type} (f : α → List β) {n : Nat} {l : List α} (h : ∀ a ∈ l, (f a).length = n) :
    (l.flatMap f).length = n * l.length := by
  induction l with
  | nil => rfl
  | cons b l ih =>
    rw [List.flatMap_cons, List.length_append, h b (List.mem_cons_self ..), ih fun x hx => h x (List.mem_cons_of_mem _ hx),
      List.length_cons, Nat.mul_succ, Nat.add_comm]

theorem memRead_drop (m : List (Nat × Byte)) (a k n : Nat) : (memRead m a n).drop k = memRead m (a + k) (n - k) := by
  induction k generalizing a n with
  | zero => rfl
  | succ k ih =>
    cases n with
    | zero => simp [memRead]
    | succ n => rw [memRead, List.drop_succ_cons, ih, Nat.add_sub_add_right, Nat.add_right_comm, Nat.add_assoc]

theorem State.slice_rd (s : State) (a : Nat) {k m n : Nat} (h : k + m ≤ n) : slice (s.rd a n) k m = s.rd (a + k) m := by
  rw [slice, State.rd, memRead_drop, memRead_take _ _ _ _ (by omega), State.rd]

theorem State.rd_slice_of_write {s t : State} {a : Nat} {bs : Bytes} (h : t.mem = memWrite s.mem a bs)
    (hwf : spWf s.mem = true) {k m : Nat} (hk : k + m ≤ bs.length) : t.rd (a + k) m = slice bs k m := by
  rw [← State.slice_rd t a hk, State.rd_of_write h hwf rfl]

/-! ### The save area (R143, R233) -/

theorem length_laneBytes (l : Lane) : (laneBytes l).length = 16 := by
  simp [laneBytes, zeros]

/-- The header of a save area. -/
def saveHeader (s : State) (g : Nat) (c : Cmd) : Bytes :=
  toLE 4 c.seq ++ toLE 1 g ++ toLE 1 (s.pCores (s.gPart g)) ++ zeros 2 ++ toLE 8 s.stitch.count ++ toLE 4 c.index ++ zeros 44

theorem length_saveHeader (s : State) (g : Nat) (c : Cmd) : (saveHeader s g c).length = 64 := by
  simp [saveHeader, zeros]

/-- The lanes of core number c in a save area of a partition that owns the cores of a list. -/
def saveLanes (s : State) (own : List Nat) (c : Nat) : Bytes :=
  if own.contains c then (s.core c).lanes.flatMap laneBytes else zeros 256

theorem length_saveLanes {s : State} (own : List Nat) {c : Nat} (h : (s.core c).lanes.length = 16) :
    (saveLanes s own c).length = 256 := by
  rw [saveLanes]
  split
  · rw [length_flatMap_const laneBytes (n := 16) fun l _ => length_laneBytes l, h]
  · exact List.length_replicate

theorem State.saveArea_eq (s : State) (g : Nat) (c : Cmd) : ∃ r, s.saveArea g c
    = saveHeader s g c ++ ((List.range 8).flatMap (saveLanes s (s.ownCores (s.gPart g))) ++ r) :=
  ⟨zeros 1984 ++ (s.ownCores (s.gPart g)).flatMap (fun c => coreBytes (s.core c)), by
    simp only [State.saveArea, saveHeader, List.append_assoc]
    rfl⟩

section
variable {s : State} (h16 : ∀ i, i < 8 → (s.core i).lanes.length = 16)
include h16

theorem State.le_length_saveArea (g : Nat) (c : Cmd) : 2112 ≤ (s.saveArea g c).length := by
  obtain ⟨r, e⟩ := s.saveArea_eq g c
  have hl := length_flatMap_const (saveLanes s (s.ownCores (s.gPart g))) (n := 256) (l := List.range 8)
    fun i hi => length_saveLanes _ (h16 i (List.mem_range.mp hi))
  rw [e, List.length_append, List.length_append, length_saveHeader, hl, List.length_range]
  omega

theorem State.slice_saveArea (g : Nat) (c : Cmd) {k j : Nat} {l : Lane} (hk : k ∈ s.ownCores (s.gPart g))
    (hl : (s.core k).lanes[j]? = some l) : slice (s.saveArea g c) (64 + 256 * k + 16 * j) 16 = laneBytes l := by
  have hk8 : k < 8 := List.mem_range.mp (List.mem_filter.mp hk).1
  have hj : j < 16 := h16 k hk8 ▸ (List.getElem?_eq_some_iff.mp hl).1
  have hlen : ∀ i ∈ List.range 8, (saveLanes s (s.ownCores (s.gPart g)) i).length = 256 :=
    fun i hi => length_saveLanes _ (h16 i (List.mem_range.mp hi))
  obtain ⟨r, e⟩ := s.saveArea_eq g c
  have htot := length_flatMap_const _ hlen
  rw [List.length_range] at htot
  rw [e, Nat.add_assoc, slice_append_right _ _ (length_saveHeader s g c), slice_append_left (by rw [htot]; omega),
    slice_flatMap _ hlen (i := k) (a := k) (by simp [hk8]) (by omega), saveLanes, if_pos (by simpa using hk)]
  have h := slice_flatMap laneBytes (fun l _ => length_laneBytes l) hl (k := 0) (m := 16) (Nat.le_refl _)
  rw [Nat.add_zero] at h
  rw [h, slice, List.drop_zero, List.take_of_length_le (length_laneBytes l).le]

end

theorem State.take_saveArea (s : State) (g : Nat) (c : Cmd) : (s.saveArea g c).take 16
    = toLE 4 c.seq ++ toLE 1 g ++ toLE 1 (s.pCores (s.gPart g)) ++ zeros 2 ++ toLE 8 s.stitch.count := by
  obtain ⟨r, e⟩ := s.saveArea_eq g c
  rw [e, saveHeader, List.append_assoc, List.append_assoc, List.take_left' (by simp [zeros])]


end Sys2Proof.Machine
end

section
/-! SUPPORT. Pre-emption with save and restore (R143, R144; O36). -/

-- One declaration after another: the check bounds the memory, and with it the threads.
set_option Elab.async false

namespace Sys2Proof.Machine

/-! ### Pre-emption (R143, R144) -/

theorem getD_map_range (f : Nat → CoreSt) {k : Nat} (hk : k < 8) : ((List.range 8).map f).getD k resetCore = f k := by
  rw [List.getD_eq_getElem?_getD, List.getElem?_map, List.getElem?_range hk]
  rfl

theorem lanes_with (c : CoreSt) (p i : Bytes) : ({ c with pad := p, issue := i } : CoreSt).lanes = c.lanes := rfl

theorem stoppedCore_lanes (k j : Nat) (c : CoreSt) : (stoppedCore k j c).lanes = c.lanes := lanes_with _ _ _

/-- The state once a group's command has stopped: its number of the next instruction and its cores' scratchpads and issue
states are free values. -/
theorem State.stopCores_eq (s : State) (g p : Nat) : ∃ i cs, s.stopCores g p = ({ s with free := s.free + 1, cores := cs } : State).onGroup g
      (fun x => { x with cur := x.cur.map (fun c => { c with index := i, saved := 1 }) })
    ∧ ∀ k, k < 8 → (cs.getD k resetCore).lanes = (s.core k).lanes := by
  refine ⟨leNat ((List.range 4).map (Config.freeByte s.free)),
    (List.range 8).map (fun c => if (s.ownCores p).contains c then stoppedCore s.free c (s.core c) else s.core c), ?_,
    fun k hk => ?_⟩
  · have h (c : Nat) : ({ s with free := s.free + 1 } : State).core c = s.core c := rfl
    simp only [State.stopCores, State.draw, h]
    rfl
  rw [getD_map_range _ hk]
  split
  · exact stoppedCore_lanes _ _ _
  · rfl

theorem State.wr_mem (s : State) (a : Nat) (bs : Bytes) (o : MemObj) : (s.wr a bs o).mem = memWrite s.mem a bs := rfl

/-- What is held once the save area is being written. -/
theorem State.saved_spec {u : State} (g a : Nat) (d : Cmd) (hm : spWf u.mem = true) (hr : spWf u.regs = true)
    (hp : u.powered rPREEMPT_CNT = true) :
    let t := (u.wr a (u.saveArea g d) (.saveArea g)).bump rPREEMPT_CNT 1
    t.groups = u.groups ∧ t.reg rPREEMPT_CNT = satAdd (u.reg rPREEMPT_CNT) 1
      ∧ t.rd a 16 = toLE 4 d.seq ++ toLE 1 g ++ toLE 1 (u.pCores (u.gPart g)) ++ zeros 2 ++ toLE 8 u.stitch.count
      ∧ ((∀ i, i < 8 → (u.core i).lanes.length = 16) → ∀ k ∈ u.ownCores (u.gPart g), ∀ j l,
        (u.core k).lanes[j]? = some l → t.rd (a + 64 + 256 * k + 16 * j) 16 = laneBytes l) := by
  have hlen0 : 64 ≤ (u.saveArea g d).length := by
    obtain ⟨r, e⟩ := u.saveArea_eq g d
    rw [e, List.length_append, length_saveHeader]
    omega
  have htake := u.take_saveArea g d
  have hlen (h16) := State.le_length_saveArea (s := u) h16 g d
  have hslice (h16) {k j l} := State.slice_saveArea (s := u) h16 g d (k := k) (j := j) (l := l)
  generalize u.saveArea g d = b at hlen0 htake hlen hslice ⊢
  intro t
  have hmem : t.mem = memWrite u.mem a b := by rw [State.bump_mem, State.wr_mem]
  refine ⟨?_, State.reg_bump_eq (s := u.wr a b (.saveArea g)) hr hp 1, ?_, fun h16 k hk j l hl => ?_⟩
  · simp only [t, State.bump_groups, State.wr_groups]
  · have h := State.rd_slice_of_write hmem hm (k := 0) (m := 16) (by omega)
    rw [Nat.add_zero] at h
    exact h.trans htake
  · have hk8 : k < 8 := List.mem_range.mp (List.mem_filter.mp hk).1
    have hj : j < 16 := h16 k hk8 ▸ (List.getElem?_eq_some_iff.mp hl).1
    have hlen := hlen h16
    rw [show a + 64 + 256 * k + 16 * j = a + (64 + 256 * k + 16 * j) by omega,
      State.rd_slice_of_write hmem hm (by omega), hslice h16 hk hl]

section
variable {s : State} {g a : Nat} {c : Cmd} (hs : s.sound) (hg : g < 64) (hc : (s.group g).cur = some c)
  (ht : s.tr (s.gPart g) (s.gcfg g 16 8) (saveExtent (s.pCores (s.gPart g))) 6 = some a)
include hs hg hc ht

theorem preemptRegister_of_preempted (hb : s.gBatch g = true) (hi : s.gInstr g = true) (hph : c.phase = 1)
    (hsv : c.saved = 0) (he : c.endAs = none) (hpre : s.preempted g = true) (hr : s.runsLeft g = false)
    (hl : s.instrLeft g = true) (hp : s.powered rPREEMPT_CNT = true) : answers (.preemptRegister g) s (fun t =>
      (t.group g).cur.map (fun d => (d.saved, d.seq, d.desc, d.phase)) = some (1, c.seq, c.desc, c.phase)
      ∧ t.reg rPREEMPT_CNT = satAdd (s.reg rPREEMPT_CNT) 1
      ∧ t.rd a 16 = toLE 4 c.seq ++ toLE 1 g ++ toLE 1 (s.pCores (s.gPart g)) ++ zeros 2 ++ toLE 8 s.stitch.count
      ∧ (∀ k ∈ s.ownCores (s.gPart g), ∀ j l, (s.core k).lanes.length = 16 → (s.core k).lanes[j]? = some l →
        (∀ i, i < 8 → (s.core i).lanes.length = 16) → t.rd (a + 64 + 256 * k + 16 * j) 16 = laneBytes l)
      ∧ (∀ k, k ≠ g → t.group k = s.group k)) := by
  obtain ⟨i, cs, hu, hlanes⟩ := s.stopCores_eq g (s.gPart g)
  let u := s.stopCores g (s.gPart g)
  let d : Cmd := { c with index := i, saved := 1 }
  have hcur : (u.group g).cur = some d := by
    simp only [u, hu]
    rw [State.group_onGroup_self (by exact hs.groupsLen.symm ▸ hg)]
    exact congrArg (Option.map _) hc
  have e : exec (.preemptRegister g) s
      = .next ((u.wr a (u.saveArea g ((u.group g).cur.getD c)) (.saveArea g)).bump rPREEMPT_CNT 1) := by
    change execPreemptRegister g s = _
    simp only [execPreemptRegister, hc, ht]
    rw [if_neg (by simp [hb, hi, hph, hsv, he, hpre, hr, hl])]
  have hum : u.mem = s.mem ∧ u.regs = s.regs ∧ u.power = s.power ∧ u.stitch = s.stitch ∧ u.img = s.img ∧ u.cores = cs := by
    simp only [u, hu]
    exact ⟨rfl, rfl, rfl, rfl, rfl, rfl⟩
  have hgr (k : Nat) (hk : k ≠ g) : u.group k = s.group k := by
    simp only [u, hu]
    exact State.group_onGroup_ne _ _ hk
  clear_value u
  rw [hcur, Option.getD_some] at e
  obtain ⟨h1, h2, h3, h4, h5, h6⟩ := hum
  obtain ⟨k1, k2, k3, k4⟩ := State.saved_spec (u := u) g a d (h1 ▸ hs.memWf) (h2 ▸ hs.regsWf)
    ((State.powered_congr (congrArg PowerSt.domOn h3) _).trans hp)
  have hgp : u.gPart g = s.gPart g := by simp only [State.gPart, State.gcfg, State.sect, h5]
  have hpc (p : Nat) : u.pCores p = s.pCores p := by simp only [State.pCores, State.pcfg, State.sect, h5]
  have hl' (k : Nat) (hk : k < 8) : (u.core k).lanes = (s.core k).lanes := by
    rw [State.core, h6]
    exact hlanes k hk
  refine answers_of_exec e ⟨?_, ?_, ?_, fun k hk j l _ hkl h16 => ?_, fun k hk => ?_⟩
  · rw [State.group, k1]
    exact congrArg (Option.map _) hcur
  · rw [k2, State.reg, h2]
    rfl
  · rw [k3, hgp, hpc, h4]
  · refine k4 (fun i hi => (hl' i hi).symm ▸ h16 i hi) k ?_ j l ?_
    · rw [State.ownCores, hgp, hpc]
      exact hk
    · rw [hl' k (List.mem_range.mp (List.mem_filter.mp hk).1)]
      exact hkl
  · rw [State.group, k1]
    exact hgr k hk

end

theorem State.restored_eq {s : State} {g a : Nat} {c : Cmd} (hc : (s.group g).cur = some c)
    (ht : s.tr (s.gPart g) (s.gcfg g 16 8) (saveExtent (s.pCores (s.gPart g))) 6 = some a) (hsv : c.saved = 3) :
    s.restored g = ({ s with cores := (List.range 8).map (fun c => if (s.ownCores (s.gPart g)).contains c
        then coreFrom (s.rd a (saveExtent (s.pCores (s.gPart g)))) ((s.ownCores (s.gPart g)).takeWhile (· ≠ c)).length c
        else s.core c) } : State).onGroup g (fun x => { x with cur := x.cur.map (fun c => { c with
          index := fld (s.rd a (saveExtent (s.pCores (s.gPart g)))) 16 4, saved := 0 }) }) := by
  simp only [State.restored, hc, ht]
  rw [if_neg (by simp [hsv])]

/-- The save's last write response (R143). -/
theorem preemptSaveDone_of_saved {s : State} {g : Nat} {c : Cmd} (hs : s.sound) (hg : g < 64) (hc : (s.group g).cur = some c)
    (hsv : c.saved = 1) (hw : s.writing (.saveArea g) = false) :
    (s.self.request = false → answers (.preemptSaveDone g) s (fun t =>
        (t.group g).cur = some { c with saved := 2 } ∧ t.mem = s.mem ∧ t.regs = s.regs))
      ∧ (s.self.request = true → answers (.preemptSaveDone g) s (fun t =>
        (t.group g).cur = none ∧ (t.group g).lastSeq = some c.seq)) := by
  have e : exec (.preemptSaveDone g) s = if s.self.request then .next (s.completeCmd g 2 0) else
      .next ((s.onPart (s.gPart g) (fun x => { x with lentAt := some s.stitch.count })).onGroup g (fun x => { x with
        cur := some { c with saved := 2 } })) := by
    change execPreemptSaveDone g s = _
    simp only [execPreemptSaveDone, hc]
    exact if_pos ⟨hsv, by simp [hw]⟩
  refine ⟨fun hr => ?_, fun hr => ?_⟩
  · rw [if_neg (by simp [hr])] at e
    refine answers_of_exec e ⟨?_, rfl, rfl⟩
    rw [State.group_onGroup_self (by exact hs.groupsLen.symm ▸ hg)]
  · rw [if_pos hr] at e
    obtain ⟨b, hself⟩ := State.completeCmd_group hc 2 0
    exact answers_of_exec e (by rw [hself]; exact ⟨rfl, rfl⟩)

section
variable {s : State} {g a : Nat} {c : Cmd} (hs : s.sound) (hg : g < 64) (hc : (s.group g).cur = some c)
  (ht : s.tr (s.gPart g) (s.gcfg g 16 8) (saveExtent (s.pCores (s.gPart g))) 6 = some a)
include hs hg hc ht

/-- The save area is asked for (R144). -/
theorem preemptRestore_of_highest (hsv : c.saved = 2) (hh : s.highest g = true) : answers (.preemptRestore g) s (fun t =>
    (t.group g).cur = some { c with saved := 3 } ∧ t.reading (.saveArea g) = true
      ∧ (∀ k, k ≠ g → t.group k = s.group k) ∧ t.memp.writes = s.memp.writes ∧ t.mem = s.mem ∧ t.regs = s.regs) := by
  have hne := piecesOf_ne_nil a (n := saveExtent (s.pCores (s.gPart g))) (by unfold saveExtent; omega)
  have e : exec (.preemptRestore g) s = .next ((s.askReads (piecesOf a (saveExtent (s.pCores (s.gPart g)))) (.saveArea g)).onGroup g
      (fun x => { x with cur := some { c with saved := 3 } })) := by
    change execPreemptRestore g s = _
    simp only [execPreemptRestore, hc, ht]
    rw [if_pos ⟨hsv, hh⟩, State.issueRead]
  generalize piecesOf a (saveExtent (s.pCores (s.gPart g))) = ps at hne e
  refine answers_of_exec e ⟨?_, State.reading_askReads s hne _, fun k hk => State.group_onGroup_ne _ _ hk, ?_, rfl, rfl⟩
  · rw [State.group_onGroup_self (by exact hs.groupsLen.symm ▸ hg)]
  · exact List.append_nil _

/-- The last of the save area is here (R144, R233). -/
theorem memReadBeat_of_saveArea {n i gv : Nat} {r : ReadReq} (hsv : c.saved = 3) (hf : s.frontRead n = some (i, r))
    (hobj : r.obj = .saveArea g) (hseal : s.sealStall r = false) (hl : r.left ≤ validGranules gv)
    (hlast : ({ s with memp := { s.memp with reads := s.memp.reads.eraseIdx i } } : State).reading (.saveArea g) = false) :
    answers (.memReadBeat n ⟨gv, false⟩) s (fun t =>
      (t.group g).cur.map (fun d => (d.saved, d.seq, d.desc, d.phase)) = some (0, c.seq, c.desc, c.phase)
      ∧ (∀ k ∈ s.ownCores (s.gPart g), ∀ j l, (t.core k).lanes[j]? = some l →
        l = laneOf (s.rd (a + 64 + 256 * k + 16 * j) 16))
      ∧ (∀ k, k < 8 → k ∉ s.ownCores (s.gPart g) → t.core k = s.core k) ∧ t.mem = s.mem ∧ t.regs = s.regs) := by
  let u : State := { s with memp := { s.memp with reads := s.memp.reads.eraseIdx i } }
  let b := s.rd a (saveExtent (s.pCores (s.gPart g)))
  let own := s.ownCores (s.gPart g)
  have e : exec (.memReadBeat n ⟨gv, false⟩) s = .next (({ u with cores := (List.range 8).map (fun c =>
        if own.contains c then coreFrom b (own.takeWhile (· ≠ c)).length c else s.core c) } : State).onGroup g
      (fun x => { x with cur := x.cur.map (fun c => { c with index := fld b 16 4, saved := 0 }) })) := by
    rw [exec_memReadBeat_last hf hseal hl, hobj, State.readDone, if_neg (by rw [hlast]; simp)]
    exact congrArg Host.Outcome.next (State.restored_eq (s := u) hc ht hsv)
  have hcore (k : Nat) (hk : k < 8) := getD_map_range
    (fun c => if own.contains c then coreFrom b (own.takeWhile (· ≠ c)).length c else s.core c) hk
  refine answers_of_exec e ⟨?_, fun k hk j l hkl => ?_, fun k hk hn => ?_, rfl, rfl⟩
  · rw [State.group_onGroup_self (by exact hs.groupsLen.symm ▸ hg)]
    change (((s.group g).cur.map _).map _) = _
    rw [hc]
    rfl
  · have hk8 : k < 8 := List.mem_range.mp (List.mem_filter.mp hk).1
    have h := (congrArg (fun x : CoreSt => x.lanes[j]?) (hcore k hk8)).symm.trans hkl
    rw [if_pos (by simpa [own] using hk)] at h
    obtain ⟨hj, hjl⟩ : j < 16 ∧ laneOf (slice b (64 + 256 * k + 16 * j) 16) = l := by
      simpa [coreFrom, List.getElem?_map, List.getElem?_eq_some_iff] using h
    rw [← hjl, State.slice_rd s a (by unfold saveExtent; omega), show a + (64 + 256 * k + 16 * j) = a + 64 + 256 * k + 16 * j by omega]
  · refine (hcore k hk).trans (if_neg ?_)
    simpa [own] using hn

end

/-- Settles O36: the requests by their result, pre-emption by its steps. -/
theorem abortsComplete : Obligations.AbortsComplete := by
  refine ⟨fun s g seq bad rest hs hg ha hp hf hst => ?_, fun s g seq bad rest hs hg ha hst ht => abort_of_down hs hg ha hst ht,
    fun s g a c hs hg hc ht => ?_⟩
  · refine ⟨fun hb hl hh => ?_, fun r hr => ?_⟩
    · subst hb
      exact ⟨fun c hc hseq ho hph => abort_of_running hs hg ha hp hf hst hl hh hc hseq ho hph,
        fun c x hc hseq hph ho hgp hx hn => abort_of_step hs hg ha hp hf hst hl hh hc hseq hph ho hgp hx hn,
        fun d hc hat hrec hd hseq => abort_of_head hs hg ha hp hf hst hl hh hc hat hrec hd hseq⟩
    · obtain ⟨rfl, rfl⟩ | ⟨rfl, hl, rfl⟩ | ⟨rfl, hl, rfl, c, hc, hq⟩ | ⟨rfl, hl, rfl, hc, hat⟩ | ⟨rfl, hl, rfl, c, hc, hq, ho⟩ := hr
      · exact abort_of_result hs hg ha hp hf hst (s.abortResult_of_bad g seq) (by decide)
      · exact abort_of_result hs hg ha hp hf hst (State.abortResult_of_done hl) (by decide)
      · exact abort_of_result hs hg ha hp hf hst (State.abortResult_of_other hl hc hq) (by decide)
      · exact abort_of_result hs hg ha hp hf hst (State.abortResult_of_notHere hl hc hat) (by decide)
      · exact abort_of_result hs hg ha hp hf hst (State.abortResult_of_unabortable hl hc hq ho) (by decide)
  · exact ⟨fun hb hi hph hsv he hpre hr hl hp => preemptRegister_of_preempted hs hg hc ht hb hi hph hsv he hpre hr hl hp,
      fun hsv hw => preemptSaveDone_of_saved hs hg hc hsv hw,
      fun hsv hh => preemptRestore_of_highest hs hg hc ht hsv hh,
      fun n i gv r hsv hf hobj hseal hl hlast => memReadBeat_of_saveArea hs hg hc ht hsv hf hobj hseal hl hlast⟩

end Sys2Proof.Machine
end

section
/-! SUPPORT. The messages of the managers (R308, R437; O12). -/

-- One declaration after another: the check bounds the memory, and with it the threads.
set_option Elab.async false

namespace Sys2Proof.Machine

/-- A PLAN of four issues for member 0. -/
def planMsg : Msg where
  chan := 0
  owner := 8
  typ := 0x1D
  flags := 0
  src := 1
  dst := 0
  trigger := 0xFFFF
  msgNo := 0
  length := 16
  body := [4] ++ zeros 15

/-- The PLAN stands in the inbox, and its slot holds a chain of one memory cell. -/
def planHeld : State :=
  { State.reset with
    link := { State.reset.link with
      inbox := [planMsg]
      slots := [{ chan := 0, owner := 8, src := 1, msgNo := 0, typ := 0x1D, trigger := 0xFFFF, whole := true, transit := false
                  goal := 0, n := 1, got := 1, len := 16, chains := [7], fate := 0 }] }
    hamper := { State.reset.hamper with
      chains := [{ id := 7, owner := 0, cells := [(true, 0)], ref := 1, poison := [], data := [], pass := none }] } }

theorem due_planHeld : due planHeld planMsg 0x1D := by
  refine ⟨by decide +kernel, rfl, by decide +kernel, by decide +kernel⟩

/-- The release of the chain asks for its link entry, one operation of entry 6 (R171, R432). -/
theorem exec_plan_planHeld : ∃ t, exec (.plan planMsg) planHeld = .next t ∧ t.power.ops.getD 6 0 = 1 :=
  ⟨_, rfl, by decide +kernel⟩

/-- Refutes O12: of a PLAN whose slots hold a chain with a memory cell the release asks for the cell's link entry; the
statement has the power account as it stood before that read. -/
theorem not_managersComplete : ¬ Obligations.ManagersComplete := by
  rintro ⟨h, -⟩
  obtain ⟨hplan, -⟩ := h planHeld planMsg (by decide +kernel)
  obtain ⟨u, hu, rfl⟩ := hplan due_planHeld (by decide +kernel) (by decide +kernel) (by decide +kernel) (by decide +kernel)
  obtain ⟨t, ht, h1⟩ := exec_plan_planHeld
  obtain rfl := Host.Outcome.next.inj (hu.symm.trans ht)
  rw [if_neg (by decide +kernel), State.raise_power] at h1
  exact absurd h1 (by decide +kernel)

end Sys2Proof.Machine
end

section
/-! SUPPORT. What the messages leave of the links: sending changes the transmitters alone (`RestAs`), and the consumption of
what came changes besides the inbox, the slots and the streams (`FixedAs`). -/

-- One declaration after another: the check bounds the memory, and with it the threads.
set_option Elab.async false

namespace Sys2Proof.Machine

/-- A channel but for its transmitter. -/
def Chan.rest (c : Chan) : Chan :=
  { c with nextX := 0, unacked := [], waiting := [], credits := 0, lastAck := 0, lastCred := 0, markDue := false }

/-- A channel but for its transmitter and the slots that it gave back. -/
def Chan.fixed (c : Chan) : Chan := { c.rest with freed := 0 }

/-- The links but for the transmitters. -/
def LinkSt.rest (l : LinkSt) : LinkSt := { l with txStr := [], sent := [], frames := [], chans := l.chans.map Chan.rest }

/-- The links but for the transmitters and what has come. -/
def LinkSt.fixed (l : LinkSt) : LinkSt :=
  { l with txStr := [], sent := [], frames := [], inbox := [], early := [], slots := [], rxStr := []
           chans := l.chans.map Chan.fixed }

/-- The links of two states differ in their transmitters alone. -/
def State.RestAs (s t : State) : Prop := t.link.rest = s.link.rest

/-- The links of two states differ in their transmitters and in what has come alone. -/
def State.FixedAs (s t : State) : Prop := t.link.fixed = s.link.fixed

theorem LinkSt.fixed_rest (l : LinkSt) : l.rest.fixed = l.fixed := by
  simp only [LinkSt.rest, LinkSt.fixed, List.map_map]
  rfl

namespace State.RestAs

theorem refl (s : State) : s.RestAs s := rfl

theorem trans {s t u : State} (h : s.RestAs t) (k : t.RestAs u) : s.RestAs u := Eq.trans k h

theorem ofLink {s t : State} (h : t.link = s.link) : s.RestAs t := congrArg LinkSt.rest h

theorem step {s t u : State} (h : t.Same (· ≠ .link) u) (k : s.RestAs t) : s.RestAs u :=
  k.trans (ofLink (h.link (by simp)))

/-- An update of fields other than the links. -/
theorem upd {s t : State} {a0 : List Instr} {a1 : Nat} {a2 : Word} {a3 : Bool} {a4 : List (Nat × Word)} {a5 : List
    (Nat × Byte)} {a6 : BootSt} {a7 : ImgSt} {a8 : UnitSt} {a9 : StitchSt} {a10 : SeamSt} {a11 : MemSt} {a12 :
    HamperSt} {a13 : List (Nat × Bytes)} {a14 : List Part} {a15 : List Group} {a16 : PressSt} {a17 : List (Nat ×
    Nat)} {a18 : List CoreSt} {a19 : LinkSt} {a20 : MgrSt} {a21 : FoldSt} {a22 : PowerSt} {a23 : RecSt} {a24 :
    SelfSt} {a25 : List WorkTab} {a26 : Nat} (h : s.RestAs t) (h19 : a19 = t.link) :
    s.RestAs (State.mk a0 a1 a2 a3 a4 a5 a6 a7 a8 a9 a10 a11 a12 a13
      a14 a15 a16 a17 a18 a19 a20 a21 a22 a23 a24 a25 a26) := h19 ▸ h

theorem setSent {s t : State} (k : s.RestAs t) (x : List TxMsg) :
    s.RestAs { t with link := { t.link with sent := x } } := k

theorem ofIte {s t u : State} {c : Prop} [Decidable c] (h : c → s.RestAs t) (k : ¬c → s.RestAs u) :
    s.RestAs (if c then t else u) := by
  split
  · exact h ‹_›
  · exact k ‹_›

theorem foldl {α : Type} {s0 s : State} (f : State → α → State) (l : List α)
    (h : ∀ u a, s0.RestAs u → s0.RestAs (f u a)) (h0 : s0.RestAs s) : s0.RestAs (l.foldl f s) := by
  induction l generalizing s with
  | nil => exact h0
  | cons a l ih => exact ih (h s a h0)

section
variable {s t : State} (h : s.RestAs t)
include h

theorem ports : t.link.ports = s.link.ports := congrArg LinkSt.ports (a₁ := t.link.rest) (a₂ := s.link.rest) h
theorem inbox : t.link.inbox = s.link.inbox := congrArg LinkSt.inbox (a₁ := t.link.rest) (a₂ := s.link.rest) h
theorem early : t.link.early = s.link.early := congrArg LinkSt.early (a₁ := t.link.rest) (a₂ := s.link.rest) h
theorem slots : t.link.slots = s.link.slots := congrArg LinkSt.slots (a₁ := t.link.rest) (a₂ := s.link.rest) h
theorem rxStr : t.link.rxStr = s.link.rxStr := congrArg LinkSt.rxStr (a₁ := t.link.rest) (a₂ := s.link.rest) h
theorem dead : t.link.dead = s.link.dead := congrArg LinkSt.dead (a₁ := t.link.rest) (a₂ := s.link.rest) h
theorem reportDue : t.link.reportDue = s.link.reportDue := congrArg LinkSt.reportDue (a₁ := t.link.rest) (a₂ := s.link.rest) h
theorem chans : t.link.chans.map Chan.rest = s.link.chans.map Chan.rest := congrArg LinkSt.chans (a₁ := t.link.rest) (a₂ := s.link.rest) h
theorem isDead (m : Nat) : t.isDead m = s.isDead m := by rw [State.isDead, h.dead, State.isDead]
theorem port (p : Nat) : t.port p = s.port p := by rw [State.port, h.ports, State.port]

end

end State.RestAs

namespace State.FixedAs

theorem refl (s : State) : s.FixedAs s := rfl

theorem trans {s t u : State} (h : s.FixedAs t) (k : t.FixedAs u) : s.FixedAs u := Eq.trans k h

theorem ofRest {s t : State} (h : s.RestAs t) : s.FixedAs t := by
  rw [State.FixedAs, ← t.link.fixed_rest, h, LinkSt.fixed_rest]

theorem ofLink {s t : State} (h : t.link = s.link) : s.FixedAs t := congrArg LinkSt.fixed h

theorem step {s t u : State} (h : t.Same (· ≠ .link) u) (k : s.FixedAs t) : s.FixedAs u :=
  k.trans (ofLink (h.link (by simp)))

theorem rest {s t u : State} (h : t.RestAs u) (k : s.FixedAs t) : s.FixedAs u := k.trans (ofRest h)

/-- An update of fields other than the links. -/
theorem upd {s t : State} {a0 : List Instr} {a1 : Nat} {a2 : Word} {a3 : Bool} {a4 : List (Nat × Word)} {a5 : List
    (Nat × Byte)} {a6 : BootSt} {a7 : ImgSt} {a8 : UnitSt} {a9 : StitchSt} {a10 : SeamSt} {a11 : MemSt} {a12 :
    HamperSt} {a13 : List (Nat × Bytes)} {a14 : List Part} {a15 : List Group} {a16 : PressSt} {a17 : List (Nat ×
    Nat)} {a18 : List CoreSt} {a19 : LinkSt} {a20 : MgrSt} {a21 : FoldSt} {a22 : PowerSt} {a23 : RecSt} {a24 :
    SelfSt} {a25 : List WorkTab} {a26 : Nat} (h : s.FixedAs t) (h19 : a19 = t.link) :
    s.FixedAs (State.mk a0 a1 a2 a3 a4 a5 a6 a7 a8 a9 a10 a11 a12 a13
      a14 a15 a16 a17 a18 a19 a20 a21 a22 a23 a24 a25 a26) := h19 ▸ h

theorem ofIte {s t u : State} {c : Prop} [Decidable c] (h : c → s.FixedAs t) (k : ¬c → s.FixedAs u) :
    s.FixedAs (if c then t else u) := by
  split
  · exact h ‹_›
  · exact k ‹_›

theorem foldl {α : Type} {s0 s : State} (f : State → α → State) (l : List α)
    (h : ∀ u a, s0.FixedAs u → s0.FixedAs (f u a)) (h0 : s0.FixedAs s) : s0.FixedAs (l.foldl f s) := by
  induction l generalizing s with
  | nil => exact h0
  | cons a l ih => exact ih (h s a h0)

section
variable {s t : State} (h : s.FixedAs t)
include h

theorem ports : t.link.ports = s.link.ports := congrArg LinkSt.ports (a₁ := t.link.fixed) (a₂ := s.link.fixed) h
theorem dead : t.link.dead = s.link.dead := congrArg LinkSt.dead (a₁ := t.link.fixed) (a₂ := s.link.fixed) h
theorem reportDue : t.link.reportDue = s.link.reportDue := congrArg LinkSt.reportDue (a₁ := t.link.fixed) (a₂ := s.link.fixed) h
theorem chans : t.link.chans.map Chan.fixed = s.link.chans.map Chan.fixed := congrArg LinkSt.chans (a₁ := t.link.fixed) (a₂ := s.link.fixed) h
theorem isDead (m : Nat) : t.isDead m = s.isDead m := by rw [State.isDead, h.dead, State.isDead]
theorem port (p : Nat) : t.port p = s.port p := by rw [State.port, h.ports, State.port]

end

end State.FixedAs

/-! ### The transmitters -/

theorem State.onChan_rest {s0 s : State} (id : Nat) (f : Chan → Chan) (hf : ∀ c, (f c).rest = c.rest) (h0 : s0.RestAs s) :
    s0.RestAs (s.onChan id f) := by
  refine h0.trans ?_
  simp only [State.RestAs, State.onChan, LinkSt.rest, List.map_map]
  congr 1
  refine List.map_congr_left fun c _ => ?_
  simp only [Function.comp_apply]
  split
  · exact hf c
  · rfl

theorem State.stamp_rest {s0 s : State} (c : Chan) (fs : List Flit) (h0 : s0.RestAs s) : s0.RestAs (s.stamp c fs).2 := by
  unfold State.stamp
  split
  · split
    · exact State.onChan_rest _ _ (fun _ => rfl) (h0.trans rfl)
    · exact h0
  · exact h0

theorem State.emit_rest {s0 s : State} (c : Chan) (fs : List Flit) (h0 : s0.RestAs s) : s0.RestAs (s.emit c fs) := by
  unfold State.emit
  refine State.onChan_rest _ _ (fun _ => rfl) (h0.trans ?_)
  rfl

theorem State.drive_rest {s0 s : State} (c : Chan) (fs : List Flit) (h0 : s0.RestAs s) : s0.RestAs (s.drive c fs) := by
  unfold State.drive
  exact State.emit_rest _ _ (State.stamp_rest _ _ h0)

theorem State.control_rest {s0 s : State} (id : Nat) (payload : Bytes) (h0 : s0.RestAs s) :
    s0.RestAs (s.control id payload) := by
  unfold State.control
  split
  · exact .ofIte (fun _ => State.drive_rest _ _ h0) fun _ => h0
  · exact h0

theorem State.pump_rest {s0 s : State} (id : Nat) (h0 : s0.RestAs s) : s0.RestAs (s.pump id) := by
  unfold State.pump
  split
  · exact h0
  · extract_lets +onlyGivenNames base places
    split
    extract_lets +onlyGivenNames x
    refine .ofIte (fun _ => h0) fun _ => State.emit_rest _ _ ?_
    refine State.RestAs.setSent ?_ _
    exact State.onChan_rest _ _ (fun _ => rfl) (State.stamp_rest _ _ h0)

theorem State.pumpAll_rest {s0 s : State} (h0 : s0.RestAs s) : s0.RestAs s.pumpAll := by
  unfold State.pumpAll
  exact .foldl _ _ (fun _ id h => State.pump_rest id h) h0

theorem State.enqueue_rest {s0 s : State} (id wire : Nat) (m : TxMsg) (h0 : s0.RestAs s) :
    s0.RestAs (s.enqueue id wire m) := by
  unfold State.enqueue
  split
  · exact h0
  · next c _ =>
    extract_lets n ts s1 s2
    exact State.pump_rest _ (.trans (t := s1) (State.onChan_rest _ _ (fun _ => rfl) h0) rfl)

theorem State.sendOn_rest {s0 s : State} (m : TxMsg) (back : Bool) (h0 : s0.RestAs s) : s0.RestAs (s.sendOn m back) := by
  unfold State.sendOn
  extract_lets +onlyGivenNames n
  split
  refine State.enqueue_rest _ _ _ (.ofIte (fun _ => ?_) fun _ => h0.trans rfl)
  exact .step (State.bump_same _ _ (.refl _) nofun) (h0.trans rfl)

theorem State.sendWith_rest {s0 s : State} (chains : List Nat) (dst owner typ trigger : Nat) (body : Bytes) (back : Bool)
    (h0 : s0.RestAs s) : s0.RestAs (s.sendWith chains dst owner typ trigger body back) := by
  unfold State.sendWith
  exact State.sendOn_rest _ _ h0

theorem State.freeSent_rest {s0 s : State} (id : Nat) (h0 : s0.RestAs s) : s0.RestAs (s.freeSent id) := by
  unfold State.freeSent
  split
  · exact h0
  · extract_lets first done cells
    refine .foldl _ _ (fun u a h => .trans h (.ofLink (State.releaseId_link u a))) (h0.trans rfl)

theorem State.onPart_rest {s0 s : State} (p : Nat) (f : Part → Part) (h0 : s0.RestAs s) : s0.RestAs (s.onPart p f) :=
  .step (State.onPart_same (F := (· ≠ .link)) p f (.refl s) nofun) h0

theorem State.onGroup_rest {s0 s : State} (g : Nat) (f : Group → Group) (h0 : s0.RestAs s) : s0.RestAs
    (s.onGroup g f) :=
  .step (State.onGroup_same (F := (· ≠ .link)) g f (.refl s) nofun) h0

theorem State.bump_rest {s0 s : State} (a n : Nat) (h0 : s0.RestAs s) : s0.RestAs (s.bump a n) :=
  .step (State.bump_same (F := (· ≠ .link)) a n (.refl s) nofun) h0

theorem State.latch_rest {s0 s : State} (a : Nat) (v : Word) (h0 : s0.RestAs s) : s0.RestAs (s.latch a v) :=
  .step (State.latch_same (F := (· ≠ .link)) a v (.refl s) nofun) h0

theorem State.raise_rest {s0 s : State} (a i : Nat) (h0 : s0.RestAs s) : s0.RestAs (s.raise a i) :=
  .step (State.raise_same (F := (· ≠ .link)) a i (.refl s) nofun) h0

theorem State.onStep_rest {s0 s : State} (p : Nat) (f : StepSt → StepSt) (h0 : s0.RestAs s) : s0.RestAs
    (s.onStep p f) :=
  .step (State.onStep_same (F := (· ≠ .link)) p f (.refl s) nofun) h0

theorem State.onPass_rest {s0 s : State} (p l : Nat) (f : Pass → Pass) (h0 : s0.RestAs s) : s0.RestAs
    (s.onPass p l f) :=
  .step (State.onPass_same (F := (· ≠ .link)) p l f (.refl s) nofun) h0

theorem State.onMicro_rest {s0 s : State} (p l m : Nat) (f : Micro → Micro) (h0 : s0.RestAs s) : s0.RestAs
    (s.onMicro p l m f) :=
  .step (State.onMicro_same (F := (· ≠ .link)) p l m f (.refl s) nofun) h0

theorem State.leakMark_rest {s0 s : State} (key : Nat) (h0 : s0.RestAs s) : s0.RestAs (s.leakMark key) :=
  .step (State.leakMark_same (F := (· ≠ .link)) key (.refl s) nofun) h0

theorem State.releaseId_rest {s0 s : State} (id : Nat) (h0 : s0.RestAs s) : s0.RestAs (s.releaseId id) :=
  .step (State.releaseId_same (F := (· ≠ .link)) id (.refl s) nofun nofun nofun nofun nofun) h0

theorem State.countSubst_rest {s0 s : State} (gs : List (Nat × Nat × Bool)) (h0 : s0.RestAs s) : s0.RestAs
    (s.countSubst gs) :=
  .step (State.countSubst_same (F := (· ≠ .link)) gs (.refl s) nofun) h0

theorem State.waitFor_rest {s0 s : State} (p l m h : Nat) (h0 : s0.RestAs s) : s0.RestAs (s.waitFor p l m h) :=
  .step (State.waitFor_same (F := (· ≠ .link)) p l m h (.refl s) nofun) h0

theorem State.waitFan_rest {s0 s : State} (p l m h src : Nat) (h0 : s0.RestAs s) : s0.RestAs (s.waitFan p l m h src) :=
  .step (State.waitFan_same (F := (· ≠ .link)) p l m h src (.refl s) nofun) h0

theorem State.ledgerOpen_rest {s0 s : State} (p : Nat) (x : StepSt) (h0 : s0.RestAs s) : s0.RestAs (s.ledgerOpen p x) :=
  .step (State.ledgerOpen_same (F := (· ≠ .link)) p x (.refl s) nofun nofun nofun) h0

theorem State.jrnPush_rest {s0 s : State} (p : Nat) (b : Bytes) (h0 : s0.RestAs s) : s0.RestAs (s.jrnPush p b) :=
  .step (State.jrnPush_same (F := (· ≠ .link)) p b (.refl s) nofun) h0

theorem State.wake_rest {s0 s : State} (p : Nat) (h0 : s0.RestAs s) : s0.RestAs (s.wake p) :=
  .step (State.wake_same (F := (· ≠ .link)) p (.refl s) nofun) h0

theorem State.registerBells_rest {s0 s : State} (g : Nat) (h0 : s0.RestAs s) : s0.RestAs (s.registerBells g) :=
  .step (State.registerBells_same (F := (· ≠ .link)) g (.refl s) nofun nofun) h0

theorem State.clearLanes_rest {s0 s : State} (p : Nat) (h0 : s0.RestAs s) : s0.RestAs (s.clearLanes p) :=
  .step (State.clearLanes_same (F := (· ≠ .link)) p (.refl s) nofun) h0

theorem State.completeCmd_rest {s0 s : State} (g status fault : Nat) (h0 : s0.RestAs s) : s0.RestAs
    (s.completeCmd g status fault) :=
  .step (State.completeCmd_same (F := (· ≠ .link)) g status fault (.refl s) nofun nofun nofun nofun nofun nofun nofun
      nofun nofun) h0

theorem State.endWritten_rest {s0 s : State} (g status fault : Nat) (torn : Bool) (h0 : s0.RestAs s) : s0.RestAs
    (s.endWritten g status fault torn) :=
  .step (State.endWritten_same (F := (· ≠ .link)) g status fault torn (.refl s) nofun nofun nofun nofun nofun nofun
      nofun nofun nofun) h0

theorem State.endCmd_rest {s0 s : State} (g status fault : Nat) (h0 : s0.RestAs s) : s0.RestAs
    (s.endCmd g status fault) :=
  .step (State.endCmd_same (F := (· ≠ .link)) g status fault (.refl s) nofun nofun nofun nofun nofun nofun nofun nofun
      nofun) h0

theorem State.fetchRecords_rest {s0 s : State} (p off len : Nat) (h0 : s0.RestAs s) : s0.RestAs
    (s.fetchRecords p off len) :=
  .step (State.fetchRecords_same (F := (· ≠ .link)) p off len (.refl s) nofun nofun) h0

theorem State.begin_rest {s0 s : State} (g phase : Nat) (d : Bytes) (h0 : s0.RestAs s) : s0.RestAs
    (s.begin g phase d) :=
  .step (State.begin_same (F := (· ≠ .link)) g phase d (.refl s) nofun) h0

theorem State.abortRed_rest {s0 s : State} (p l : Nat) (h0 : s0.RestAs s) : s0.RestAs (s.abortRed p l) :=
  .step (State.abortRed_same (F := (· ≠ .link)) p l (.refl s) nofun nofun nofun nofun nofun) h0

theorem State.endAgain_rest {s0 s : State} (p : Nat) (h0 : s0.RestAs s) : s0.RestAs (s.endAgain p) :=
  .step (State.endAgain_same (F := (· ≠ .link)) p (.refl s) nofun) h0

theorem State.freeTorn_rest {s0 s : State} (p : Nat) (h0 : s0.RestAs s) : s0.RestAs (s.freeTorn p) :=
  .step (State.freeTorn_same (F := (· ≠ .link)) p (.refl s) nofun) h0

theorem State.cmdWritten_rest {s0 s : State} (g : Nat) (h0 : s0.RestAs s) : s0.RestAs (s.cmdWritten g) :=
  .step (State.cmdWritten_same (F := (· ≠ .link)) g (.refl s) nofun nofun nofun nofun nofun nofun nofun nofun nofun) h0

theorem State.onJob_rest {s0 s : State} (p : Nat) (r : JobRef) (f : Pass → Pass) (h0 : s0.RestAs s) : s0.RestAs
    (s.onJob p r f) :=
  .step (State.onJob_same (F := (· ≠ .link)) p r f (.refl s) nofun nofun) h0

theorem State.countMis_rest {s0 s : State} (a : Nat) (h0 : s0.RestAs s) : s0.RestAs (s.countMis a) :=
  .step (State.countMis_same (F := (· ≠ .link)) a (.refl s) nofun) h0

theorem State.leaveArray_rest {s0 s : State} (a : Nat) (h0 : s0.RestAs s) : s0.RestAs (s.leaveArray a) :=
  .step (State.leaveArray_same (F := (· ≠ .link)) a (.refl s) nofun) h0

theorem State.moveJob_rest {s0 s : State} (p a t : Nat) (on : List Run) (ref : JobRef) (h0 : s0.RestAs s) : s0.RestAs
    (s.moveJob p a t on ref) :=
  .step (State.moveJob_same (F := (· ≠ .link)) p a t on ref (.refl s) nofun nofun nofun nofun) h0

theorem State.startWake_rest {s0 s : State} (p l : Nat) (h0 : s0.RestAs s) : s0.RestAs (s.startWake p l) :=
  .step (State.startWake_same (F := (· ≠ .link)) p l (.refl s) nofun nofun nofun) h0

theorem State.addWake_rest {s0 s : State} (p tile : Nat) (now : Bool) (r : Run) (as : List Nat)
    (h0 : s0.RestAs s) : s0.RestAs (s.addWake p tile now r as) :=
  .step (State.addWake_same (F := (· ≠ .link)) p tile now r as (.refl s) nofun nofun) h0

theorem State.addTally_rest {s0 s : State} (p l m : Nat) (t : RxTally) (h0 : s0.RestAs s) : s0.RestAs
    (s.addTally p l m t) :=
  .step (State.addTally_same (F := (· ≠ .link)) p l m t (.refl s) nofun) h0

theorem State.onRx_rest {s0 s : State} (p l m src : Nat) (f : RxTally → RxTally) (h0 : s0.RestAs s) : s0.RestAs
    (s.onRx p l m src f) :=
  .step (State.onRx_same (F := (· ≠ .link)) p l m src f (.refl s) nofun) h0

theorem State.setOut_rest {s0 s : State} (p l m d v : Nat) (h0 : s0.RestAs s) : s0.RestAs (s.setOut p l m d v) :=
  .step (State.setOut_same (F := (· ≠ .link)) p l m d v (.refl s) nofun) h0

theorem State.setTickets_rest {s0 s : State} (p l : Nat) (f : Ticket → Bool) (st : Nat) (h0 : s0.RestAs s) : s0.RestAs
    (s.setTickets p l f st) :=
  .step (State.setTickets_same (F := (· ≠ .link)) p l f st (.refl s) nofun) h0

theorem State.loseTickets_rest {s0 s : State} (p l m : Nat) (f : Ticket → Bool) (h0 : s0.RestAs s) : s0.RestAs
    (s.loseTickets p l m f) :=
  .step (State.loseTickets_same (F := (· ≠ .link)) p l m f (.refl s) nofun nofun nofun nofun nofun nofun) h0

theorem State.ownPile_rest {s0 s : State} (p l m : Nat) (h0 : s0.RestAs s) : s0.RestAs (s.ownPile p l m) :=
  .step (State.ownPile_same (F := (· ≠ .link)) p l m (.refl s) nofun) h0

theorem State.withhold_rest {s0 s : State} (p l m d n : Nat) (h0 : s0.RestAs s) : s0.RestAs (s.withhold p l m d n) :=
  .step (State.withhold_same (F := (· ≠ .link)) p l m d n (.refl s) nofun nofun) h0

theorem State.onFan_rest {s0 s : State} (p l m src : Nat) (f : GwFan → GwFan) (h0 : s0.RestAs s) : s0.RestAs
    (s.onFan p l m src f) :=
  .step (State.onFan_same (F := (· ≠ .link)) p l m src f (.refl s) nofun) h0

theorem State.noPile_rest {s0 s : State} (p l m src : Nat) (c : XCfg) (h0 : s0.RestAs s) : s0.RestAs
    (s.noPile p l m src c) :=
  .step (State.noPile_same (F := (· ≠ .link)) p l m src c (.refl s) nofun nofun) h0

theorem State.takePile_rest {s0 s : State} (p l m src via : Nat) (mx : Bool) (ws : List WireRow) (cells : List Nat)
    (h0 : s0.RestAs s) : s0.RestAs (s.takePile p l m src via mx ws cells) :=
  .step (State.takePile_same (F := (· ≠ .link)) p l m src via mx ws cells (.refl s) nofun) h0

theorem State.countReturn_rest {s0 s : State} (p l m d : Nat) (h0 : s0.RestAs s) : s0.RestAs (s.countReturn p l m d) :=
  .step (State.countReturn_same (F := (· ≠ .link)) p l m d (.refl s) nofun) h0

theorem State.freeInputs_rest {s0 s : State} (t : WorkTab) (h0 : s0.RestAs s) : s0.RestAs (s.freeInputs t) :=
  .step (State.freeInputs_same (F := (· ≠ .link)) t (.refl s) nofun) h0

theorem State.freeOutputs_rest {s0 s : State} (t : WorkTab) (h0 : s0.RestAs s) : s0.RestAs (s.freeOutputs t) :=
  .step (State.freeOutputs_same (F := (· ≠ .link)) t (.refl s) nofun) h0

theorem State.dropTab_rest {s0 s : State} (tag : Nat) (h0 : s0.RestAs s) : s0.RestAs (s.dropTab tag) :=
  .step (State.dropTab_same (F := (· ≠ .link)) tag (.refl s) nofun) h0

theorem State.destOut_rest {s0 s : State} (p l m : Nat) (t : WorkTab) (h0 : s0.RestAs s) : s0.RestAs
    (s.destOut p l m t) :=
  .step (State.destOut_same (F := (· ≠ .link)) p l m t (.refl s) nofun nofun nofun) h0

theorem State.pileBack_rest {s0 s : State} (p l m src : Nat) (h0 : s0.RestAs s) : s0.RestAs (s.pileBack p l m src) :=
  .step (State.pileBack_same (F := (· ≠ .link)) p l m src (.refl s) nofun) h0

theorem State.readOutputs_rest {s0 s : State} (p l m : Nat) (t : WorkTab) (h0 : s0.RestAs s) : s0.RestAs
    (s.readOutputs p l m t) :=
  .step (State.readOutputs_same (F := (· ≠ .link)) p l m t (.refl s) nofun nofun nofun nofun nofun) h0

theorem State.sharedAnswer_rest {s0 s : State} (p l : Nat) (t : WorkTab) (ok : Bool) (h0 : s0.RestAs s) : s0.RestAs
    (s.sharedAnswer p l t ok) :=
  .step (State.sharedAnswer_same (F := (· ≠ .link)) p l t ok (.refl s) nofun nofun nofun nofun nofun nofun) h0

theorem State.poisonCells_rest {s0 s : State} (p l : Nat) (h0 : s0.RestAs s) : s0.RestAs (s.poisonCells p l) :=
  .step (State.poisonCells_same (F := (· ≠ .link)) p l (.refl s) nofun nofun nofun nofun) h0

theorem State.narrowed_rest {s0 s : State} (p l id c : Nat) (yes : Bool) (vs : List F32)
    (h0 : s0.RestAs s) : s0.RestAs (s.narrowed p l id c yes vs).1 :=
  .step (State.narrowed_same (F := (· ≠ .link)) p l id c yes vs (.refl s) nofun nofun) h0

theorem State.writeDone_rest {s0 s : State} (o : MemObj) (h0 : s0.RestAs s) : s0.RestAs (s.writeDone o) :=
  .step (State.writeDone_same (F := (· ≠ .link)) o (.refl s) nofun nofun nofun nofun nofun nofun nofun nofun nofun) h0

theorem State.endSaves_rest {s0 s : State} (h0 : s0.RestAs s) : s0.RestAs (s.endSaves) :=
  .step (State.endSaves_same (F := (· ≠ .link)) (.refl s) nofun nofun nofun nofun nofun nofun nofun nofun nofun) h0

theorem State.undefinedAt_rest {s0 s : State} (a n : Nat) (h0 : s0.RestAs s) : s0.RestAs (s.undefinedAt a n) :=
  .step (State.undefinedAt_same (F := (· ≠ .link)) a n (.refl s) nofun nofun) h0

theorem State.loseWritten_rest {s0 s : State} (p l row : Nat) (h0 : s0.RestAs s) : s0.RestAs (s.loseWritten p l row) :=
  .step (State.loseWritten_same (F := (· ≠ .link)) p l row (.refl s) nofun nofun) h0

theorem State.loseRows_rest {s0 s : State} (p l : Nat) (deps : Pass → List (Nat × List Nat)) (row : Nat)
    (h0 : s0.RestAs s) : s0.RestAs (s.loseRows p l deps row) :=
  .step (State.loseRows_same (F := (· ≠ .link)) p l deps row (.refl s) nofun nofun nofun nofun nofun nofun) h0

theorem State.loseShared_rest {s0 s : State} (p l row : Nat) (h0 : s0.RestAs s) : s0.RestAs (s.loseShared p l row) :=
  .step (State.loseShared_same (F := (· ≠ .link)) p l row (.refl s) nofun nofun nofun nofun nofun nofun) h0

theorem State.loseLedger_rest {s0 s : State} (p : Nat) (h0 : s0.RestAs s) : s0.RestAs (s.loseLedger p) :=
  .step (State.loseLedger_same (F := (· ≠ .link)) p (.refl s) nofun) h0

theorem State.registerInputs_rest {s0 s : State} (h0 : s0.RestAs s) : s0.RestAs s.registerInputs :=
  .step (State.registerInputs_same (F := (· ≠ .link)) (.refl s) nofun nofun) h0

/-! ### The operations that send -/

theorem State.send_rest {s0 s : State} (dst owner typ trigger : Nat) (body : Bytes) (back : Bool)
    (h0 : s0.RestAs s) : s0.RestAs (s.send dst owner typ trigger body back) := by
  unfold State.send
  repeat' with_reducible first
    | assumption
    | apply State.sendWith_rest

theorem State.sendAll_rest {s0 s : State} (dsts : List Nat) (owner typ trigger : Nat)
    (body : Bytes) (h0 : s0.RestAs s) : s0.RestAs (s.sendAll dsts owner typ trigger body) := by
  unfold State.sendAll
  repeat' with_reducible first
    | assumption
    | apply State.send_rest
    | (refine State.RestAs.foldl _ _ (fun u a hu => ?_) ?_)

theorem State.sendMgr_rest {s0 s : State} (dst typ : Nat) (body : Bytes) (h0 : s0.RestAs s) : s0.RestAs
    (s.sendMgr dst typ body) := by
  unfold State.sendMgr
  repeat' with_reducible first
    | assumption
    | apply State.send_rest

theorem State.sendHello_rest {s0 s : State} (id : Nat) (h0 : s0.RestAs s) : s0.RestAs (s.sendHello id) := by
  unfold State.sendHello
  repeat' with_reducible first
    | assumption
    | apply State.control_rest
    | split

theorem State.sendProbe_rest {s0 s : State} (id n : Nat) (h0 : s0.RestAs s) : s0.RestAs (s.sendProbe id n) := by
  unfold State.sendProbe
  repeat' with_reducible first
    | assumption
    | apply State.control_rest

theorem State.spread_rest {s0 s : State} (p typ t : Nat) (body : Bytes) (gs : List
    (Nat × Nat × Bool)) (h0 : s0.RestAs s) : s0.RestAs (s.spread p typ t body gs) := by
  unfold State.spread
  repeat' with_reducible first
    | assumption
    | apply State.sendAll_rest

theorem State.fanPod_rest {s0 s : State} (p typ t : Nat) (body : Bytes) (h0 : s0.RestAs s) : s0.RestAs
    (s.fanPod p typ t body) := by
  unfold State.fanPod
  repeat' with_reducible first
    | assumption
    | apply State.sendAll_rest

theorem State.sendVoid_rest {s0 s : State} (p dst replaces reason subject l m stepNo party : Nat)
    (toGateway back : Bool) (h0 : s0.RestAs s) : s0.RestAs (s.sendVoid p dst replaces reason subject l m stepNo party
        toGateway back) := by
  unfold State.sendVoid
  repeat' with_reducible first
    | assumption
    | apply State.bump_rest
    | apply State.send_rest

theorem State.voidReturn_rest {s0 s : State} (p via src l m stepNo reason : Nat) (h0 : s0.RestAs s) : s0.RestAs
    (s.voidReturn p via src l m stepNo reason) := by
  unfold State.voidReturn
  repeat' with_reducible first
    | assumption
    | (extract_lets +onlyGivenNames x; clear_value (e : x = _); subst e)
    | apply State.sendVoid_rest

theorem State.voidGrant_rest {s0 s : State} (p via src l m stepNo reason : Nat) (h0 : s0.RestAs s) : s0.RestAs
    (s.voidGrant p via src l m stepNo reason) := by
  unfold State.voidGrant
  repeat' with_reducible first
    | assumption
    | (extract_lets +onlyGivenNames x; clear_value (e : x = _); subst e)
    | apply State.onMicro_rest
    | apply State.sendVoid_rest
    | (refine State.RestAs.ofIte (fun _ => ?_) (fun _ => ?_))

theorem State.spreadMgr_rest {s0 s : State} (typ : Nat) (body : Bytes) (h0 : s0.RestAs s) : s0.RestAs
    (s.spreadMgr typ body) := by
  unfold State.spreadMgr
  repeat' with_reducible first
    | assumption
    | (extract_lets +onlyGivenNames x; clear_value (e : x = _); subst e)
    | apply State.sendAll_rest
    | (refine State.RestAs.ofIte (fun _ => ?_) (fun _ => ?_))

theorem State.sendWithdraw_rest {s0 s : State} (p : Nat) (x : StepSt) (scope : Nat) (h0 : s0.RestAs s) : s0.RestAs
    (s.sendWithdraw p x scope) := by
  unfold State.sendWithdraw
  repeat' with_reducible first
    | assumption
    | apply State.spreadMgr_rest
    | (refine State.RestAs.ofIte (fun _ => ?_) (fun _ => ?_))

theorem State.sendFinal_rest {s0 s : State} (p l m microMax stepNo : Nat) (gs : List
    (Nat × Nat × Bool)) (h0 : s0.RestAs s) : s0.RestAs (s.sendFinal p l m microMax stepNo gs) := by
  unfold State.sendFinal
  repeat' with_reducible first
    | assumption
    | apply State.spread_rest
    | (refine State.RestAs.ofIte (fun _ => ?_) (fun _ => ?_))

theorem State.voidDest_rest {s0 s : State} (p l stepNo : Nat) (elastic : Bool) (m : Micro)
    (h0 : s0.RestAs s) : s0.RestAs (s.voidDest p l stepNo elastic m) := by
  unfold State.voidDest
  repeat' with_reducible first
    | assumption
    | apply State.voidReturn_rest
    | apply State.voidGrant_rest
    | (refine State.RestAs.ofIte (fun _ => ?_) (fun _ => ?_))
    | (refine State.RestAs.foldl _ _ (fun u a hu => ?_) ?_)

theorem State.voidSrc_rest {s0 s : State} (p l stepNo : Nat) (gs : List (Nat × Nat × Bool))
    (m : Micro) (h0 : s0.RestAs s) : s0.RestAs (s.voidSrc p l stepNo gs m) := by
  unfold State.voidSrc
  repeat' with_reducible first
    | assumption
    | (extract_lets +onlyGivenNames x; clear_value (e : x = _); subst e)
    | apply State.sendVoid_rest
    | (refine State.RestAs.ofIte (fun _ => ?_) (fun _ => ?_))
    | (refine State.RestAs.foldl _ _ (fun u a hu => ?_) ?_)

theorem State.raiseAbort_rest {s0 s : State} (p l reason : Nat) (h0 : s0.RestAs s) : s0.RestAs
    (s.raiseAbort p l reason) := by
  unfold State.raiseAbort
  repeat' with_reducible first
    | assumption
    | apply State.spread_rest
    | apply State.abortRed_rest
    | (refine State.RestAs.ofIte (fun _ => ?_) (fun _ => ?_))
    | split

theorem State.teardown_rest {s0 s : State} (p fault : Nat) (h0 : s0.RestAs s) : s0.RestAs (s.teardown p fault) := by
  unfold State.teardown
  repeat' with_reducible first
    | assumption
    | exact fGroup _
    | exact fPart _
    | (extract_lets +onlyGivenNames x; clear_value (e : x = _); subst e)
    | apply State.latch_rest
    | apply State.raise_rest
    | apply State.onPart_rest
    | apply State.onGroup_rest
    | apply State.sendWithdraw_rest
    | apply State.sendFinal_rest
    | apply State.voidDest_rest
    | apply State.voidSrc_rest
    | apply State.wake_rest
    | apply State.clearLanes_rest
    | apply State.endWritten_rest
    | apply State.raiseAbort_rest
    | apply State.endAgain_rest
    | apply State.freeTorn_rest
    | (refine State.RestAs.ofIte (fun _ => ?_) (fun _ => ?_))
    | (refine State.RestAs.foldl _ _ (fun u a hu => ?_) ?_)
    | split
    | refine State.RestAs.upd ?_ rfl

theorem State.teardownAll_rest {s0 s : State} (fault : Nat) (h0 : s0.RestAs s) : s0.RestAs (s.teardownAll fault) := by
  unfold State.teardownAll
  repeat' with_reducible first
    | assumption
    | exact fGroup _
    | exact fPart _
    | apply State.teardown_rest
    | (refine State.RestAs.foldl _ _ (fun u a hu => ?_) ?_)

theorem State.takeRecords_rest {s0 s : State} (p : Nat) (h0 : s0.RestAs s) : s0.RestAs (s.takeRecords p) := by
  unfold State.takeRecords
  repeat' with_reducible first
    | assumption
    | exact fGroup _
    | exact fPart _
    | apply State.onPart_rest
    | apply State.teardown_rest
    | (refine State.RestAs.ofIte (fun _ => ?_) (fun _ => ?_))
    | split

theorem State.abortNow_rest {s0 s : State} (g : Nat) (h0 : s0.RestAs s) : s0.RestAs (s.abortNow g) := by
  unfold State.abortNow
  repeat' with_reducible first
    | assumption
    | exact fPart _
    | (extract_lets +onlyGivenNames x; clear_value (e : x = _); subst e)
    | apply State.onGroup_rest
    | apply State.onStep_rest
    | apply State.sendWithdraw_rest
    | apply State.completeCmd_rest
    | apply State.endCmd_rest
    | apply State.begin_rest
    | apply State.endAgain_rest
    | (refine State.RestAs.ofIte (fun _ => ?_) (fun _ => ?_))
    | split

theorem State.bringUp_rest {s0 s : State} (p : Nat) (h0 : s0.RestAs s) : s0.RestAs (s.bringUp p) := by
  unfold State.bringUp
  repeat' with_reducible first
    | assumption
    | exact fGroup _
    | exact fPart _
    | (extract_lets +onlyGivenNames x; clear_value (e : x = _); subst e)
    | apply State.onPart_rest
    | apply State.fetchRecords_rest
    | apply State.takeRecords_rest
    | (refine State.RestAs.ofIte (fun _ => ?_) (fun _ => ?_))

theorem State.idleMarks_rest {s0 s : State} (h0 : s0.RestAs s) : s0.RestAs (s.idleMarks) := by
  unfold State.idleMarks
  repeat' with_reducible first
    | assumption
    | apply State.drive_rest
    | (refine State.RestAs.ofIte (fun _ => ?_) (fun _ => ?_))
    | (refine State.RestAs.foldl _ _ (fun u a hu => ?_) ?_)
    | split

theorem State.retireArray_rest {s0 s : State} (a : Nat) (h0 : s0.RestAs s) : s0.RestAs (s.retireArray a) := by
  unfold State.retireArray
  repeat' with_reducible first
    | assumption
    | exact fGroup _
    | exact fPart _
    | (extract_lets +onlyGivenNames x; clear_value (e : x = _); subst e)
    | apply State.bump_rest
    | apply State.raise_rest
    | apply State.wake_rest
    | apply State.teardown_rest
    | apply State.leaveArray_rest
    | apply State.moveJob_rest
    | (refine State.RestAs.ofIte (fun _ => ?_) (fun _ => ?_))
    | (refine State.RestAs.foldl _ _ (fun u a hu => ?_) ?_)
    | split
    | refine State.RestAs.upd ?_ rfl

theorem State.retirePending_rest {s0 s : State} (p : Nat) (h0 : s0.RestAs s) : s0.RestAs (s.retirePending p) := by
  unfold State.retirePending
  repeat' with_reducible first
    | assumption
    | exact fGroup _
    | exact fPart _
    | apply State.retireArray_rest
    | (refine State.RestAs.ofIte (fun _ => ?_) (fun _ => ?_))
    | (refine State.RestAs.foldl _ _ (fun u a hu => ?_) ?_)

theorem State.endWakeLayer_rest {s0 s : State} (p : Nat) (j : Job) (h0 : s0.RestAs s) : s0.RestAs
    (s.endWakeLayer p j) := by
  unfold State.endWakeLayer
  repeat' with_reducible first
    | assumption
    | exact fGroup _
    | exact fPart _
    | (extract_lets +onlyGivenNames x; clear_value (e : x = _); subst e)
    | apply State.onPart_rest
    | apply State.wake_rest
    | apply State.teardown_rest
    | apply State.startWake_rest
    | (refine State.RestAs.ofIte (fun _ => ?_) (fun _ => ?_))

theorem State.takeWake_rest {s0 s : State} (p tile seg : Nat) (v : List F32) (h0 : s0.RestAs s) : s0.RestAs
    (s.takeWake p tile seg v) := by
  unfold State.takeWake
  repeat' with_reducible first
    | assumption
    | exact fGroup _
    | exact fun g _ => fGroup g
    | exact fPart _
    | (extract_lets +onlyGivenNames x; clear_value (e : x = _); subst e)
    | apply State.onPart_rest
    | apply State.wake_rest
    | apply State.onJob_rest
    | apply State.endWakeLayer_rest
    | (refine State.RestAs.ofIte (fun _ => ?_) (fun _ => ?_))
    | split

theorem State.wakePartial_rest {s0 s : State} (p tile seg a : Nat) (r : Run) (v : List F32)
    (h0 : s0.RestAs s) : s0.RestAs (s.wakePartial p tile seg a r v) := by
  unfold State.wakePartial
  repeat' with_reducible first
    | assumption
    | exact fGroup _
    | exact fPart _
    | (extract_lets +onlyGivenNames x; clear_value (e : x = _); subst e)
    | apply State.raise_rest
    | apply State.onPart_rest
    | apply State.retireArray_rest
    | apply State.takeWake_rest
    | apply State.addWake_rest
    | (refine State.RestAs.ofIte (fun _ => ?_) (fun _ => ?_))
    | (refine State.RestAs.foldl _ _ (fun u a hu => ?_) ?_)
    | split

theorem State.failRun_rest {s0 s : State} (r : Run) (a tile : Nat) (c : RunCheck) (h0 : s0.RestAs s) : s0.RestAs
    (s.failRun r a tile c) := by
  unfold State.failRun
  repeat' with_reducible first
    | assumption
    | exact fGroup _
    | exact fun g _ => fGroup g
    | exact fPart _
    | (extract_lets +onlyGivenNames x; clear_value (e : x = _); subst e)
    | apply State.latch_rest
    | apply State.raise_rest
    | apply State.onJob_rest
    | apply State.countMis_rest
    | apply State.leaveArray_rest
    | apply State.retireArray_rest
    | (refine State.RestAs.ofIte (fun _ => ?_) (fun _ => ?_))

theorem State.sendPile_rest {s0 s : State} (p l m d : Nat) (h0 : s0.RestAs s) : s0.RestAs (s.sendPile p l m d) := by
  unfold State.sendPile
  repeat' with_reducible first
    | assumption
    | (extract_lets +onlyGivenNames x; clear_value (e : x = _); subst e)
    | apply State.send_rest
    | apply State.waitFor_rest
    | apply State.setOut_rest
    | apply State.setTickets_rest
    | (refine State.RestAs.ofIte (fun _ => ?_) (fun _ => ?_))
    | split

theorem State.sendGwPile_rest {s0 s : State} (p l m gw : Nat) (h0 : s0.RestAs s) : s0.RestAs
    (s.sendGwPile p l m gw) := by
  unfold State.sendGwPile
  repeat' with_reducible first
    | assumption
    | (extract_lets +onlyGivenNames x; clear_value (e : x = _); subst e)
    | apply State.bump_rest
    | apply State.send_rest
    | apply State.waitFor_rest
    | apply State.setOut_rest
    | apply State.setTickets_rest
    | (refine State.RestAs.ofIte (fun _ => ?_) (fun _ => ?_))
    | split

theorem State.follow_rest {s0 s : State} (p l m d n : Nat) (c : XCfg) (h0 : s0.RestAs s) : s0.RestAs
    (s.follow p l m d n c) := by
  unfold State.follow
  repeat' with_reducible first
    | assumption
    | (extract_lets +onlyGivenNames x; clear_value (e : x = _); subst e)
    | apply State.onMicro_rest
    | apply State.waitFor_rest
    | apply State.sendPile_rest
    | apply State.sendGwPile_rest
    | (refine State.RestAs.ofIte (fun _ => ?_) (fun _ => ?_))

theorem State.spreadSort_rest {s0 s : State} (p l m : Nat) (x : StepSt) (c : XCfg) (gates : List
    (Nat × Nat × Bool)) (h0 : s0.RestAs s) : s0.RestAs (s.spreadSort p l m x c gates) := by
  unfold State.spreadSort
  repeat' with_reducible first
    | assumption
    | (extract_lets +onlyGivenNames x; clear_value (e : x = _); subst e)
    | apply State.onMicro_rest
    | apply State.send_rest
    | apply State.follow_rest
    | (refine State.RestAs.foldl _ _ (fun u a hu => ?_) ?_)

theorem State.endSource_rest {s0 s : State} (p l n : Nat) (x : StepSt) (h0 : s0.RestAs s) : s0.RestAs
    (s.endSource p l n x) := by
  unfold State.endSource
  repeat' with_reducible first
    | assumption
    | (extract_lets +onlyGivenNames x; clear_value (e : x = _); subst e)
    | apply State.onPass_rest
    | apply State.countSubst_rest
    | apply State.sendFinal_rest
    | apply State.addTally_rest
    | (refine State.RestAs.ofIte (fun _ => ?_) (fun _ => ?_))

theorem State.fanOn_rest {s0 s : State} (msg : Msg) (h0 : s0.RestAs s) : s0.RestAs (s.fanOn msg) := by
  unfold State.fanOn
  repeat' with_reducible first
    | assumption
    | apply State.fanPod_rest
    | (refine State.RestAs.ofIte (fun _ => ?_) (fun _ => ?_))

theorem State.voidBack_rest {s0 s : State} (p l m stepNo src via reason : Nat) (elastic : Bool)
    (h0 : s0.RestAs s) : s0.RestAs (s.voidBack p l m stepNo src via reason elastic) := by
  unfold State.voidBack
  repeat' with_reducible first
    | assumption
    | apply State.voidReturn_rest
    | apply State.voidGrant_rest
    | (refine State.RestAs.ofIte (fun _ => ?_) (fun _ => ?_))

theorem State.fanVoidTally_rest {s0 s : State} (p l m stepNo src reason : Nat) (h0 : s0.RestAs s) : s0.RestAs
    (s.fanVoidTally p l m stepNo src reason) := by
  unfold State.fanVoidTally
  repeat' with_reducible first
    | assumption
    | (extract_lets +onlyGivenNames x; clear_value (e : x = _); subst e)
    | apply State.onMicro_rest
    | apply State.sendVoid_rest
    | apply State.addTally_rest
    | (refine State.RestAs.foldl _ _ (fun u a hu => ?_) ?_)

theorem State.giveGrant_rest {s0 s : State} (p l m stepNo : Nat) (t : RxTally) (g : Nat)
    (h0 : s0.RestAs s) : s0.RestAs (s.giveGrant p l m stepNo t g) := by
  unfold State.giveGrant
  repeat' with_reducible first
    | assumption
    | (extract_lets +onlyGivenNames x; clear_value (e : x = _); subst e)
    | apply State.send_rest
    | apply State.onRx_rest
    | apply State.ownPile_rest
    | apply State.withhold_rest
    | apply State.onFan_rest
    | (refine State.RestAs.ofIte (fun _ => ?_) (fun _ => ?_))

theorem State.fanPiles_rest {s0 s : State} (p l m : Nat) (x : StepSt) (f : GwFan) (mx : Bool)
    (rs : List GwRow) (h0 : s0.RestAs s) : s0.RestAs (s.fanPiles p l m x f mx rs) := by
  unfold State.fanPiles
  repeat' with_reducible first
    | assumption
    | (extract_lets +onlyGivenNames x; clear_value (e : x = _); subst e)
    | apply State.releaseId_rest
    | apply State.sendWith_rest
    | apply State.waitFan_rest
    | apply State.onFan_rest
    | apply State.takePile_rest
    | (refine State.RestAs.ofIte (fun _ => ?_) (fun _ => ?_))
    | (refine State.RestAs.foldl _ _ (fun u a hu => ?_) ?_)
    | split

theorem State.fanNoPiles_rest {s0 s : State} (p l m : Nat) (x : StepSt) (c : XCfg) (f : GwFan)
    (reason : Nat) (h0 : s0.RestAs s) : s0.RestAs (s.fanNoPiles p l m x c f reason) := by
  unfold State.fanNoPiles
  repeat' with_reducible first
    | assumption
    | (extract_lets +onlyGivenNames x; clear_value (e : x = _); subst e)
    | apply State.send_rest
    | apply State.sendVoid_rest
    | apply State.onRx_rest
    | apply State.onFan_rest
    | apply State.noPile_rest
    | (refine State.RestAs.ofIte (fun _ => ?_) (fun _ => ?_))
    | (refine State.RestAs.foldl _ _ (fun u a hu => ?_) ?_)
    | split

theorem State.failTable_rest {s0 s : State} (p l m : Nat) (t : WorkTab) (h0 : s0.RestAs s) : s0.RestAs
    (s.failTable p l m t) := by
  unfold State.failTable
  repeat' with_reducible first
    | assumption
    | (extract_lets +onlyGivenNames x; clear_value (e : x = _); subst e)
    | apply State.onMicro_rest
    | apply State.voidReturn_rest
    | apply State.loseTickets_rest
    | apply State.countReturn_rest
    | apply State.freeInputs_rest
    | apply State.freeOutputs_rest
    | apply State.dropTab_rest
    | (refine State.RestAs.ofIte (fun _ => ?_) (fun _ => ?_))
    | (refine State.RestAs.foldl _ _ (fun u a hu => ?_) ?_)
    | split

theorem State.applyCompletion_rest {s0 s : State} (slot : Nat) (data : Bytes) (h0 : s0.RestAs s) : s0.RestAs
    (s.applyCompletion slot data) := by
  unfold State.applyCompletion
  repeat' with_reducible first
    | assumption
    | exact fPart _
    | (extract_lets +onlyGivenNames x; clear_value (e : x = _); subst e)
    | apply State.bump_rest
    | apply State.freeTorn_rest
    | apply State.freeInputs_rest
    | apply State.dropTab_rest
    | apply State.readOutputs_rest
    | apply State.failTable_rest
    | apply State.sharedAnswer_rest
    | (refine State.RestAs.ofIte (fun _ => ?_) (fun _ => ?_))
    | split
    | refine State.RestAs.upd ?_ rfl

theorem State.retireFold_rest {s0 s : State} (c : Nat) (h0 : s0.RestAs s) : s0.RestAs (s.retireFold c) := by
  unfold State.retireFold
  repeat' with_reducible first
    | assumption
    | exact fGroup _
    | exact fPart _
    | (extract_lets +onlyGivenNames x; clear_value (e : x = _); subst e)
    | apply State.bump_rest
    | apply State.raise_rest
    | apply State.teardownAll_rest
    | (refine State.RestAs.ofIte (fun _ => ?_) (fun _ => ?_))
    | split
    | refine State.RestAs.upd ?_ rfl

theorem State.retireFoldsPending_rest {s0 s : State} (h0 : s0.RestAs s) : s0.RestAs (s.retireFoldsPending) := by
  unfold State.retireFoldsPending
  repeat' with_reducible first
    | assumption
    | exact fGroup _
    | exact fPart _
    | apply State.retireFold_rest
    | (refine State.RestAs.ofIte (fun _ => ?_) (fun _ => ?_))
    | (refine State.RestAs.foldl _ _ (fun u a hu => ?_) ?_)

theorem State.residue_rest {s0 s : State} (unit : Nat) (node failed : Bool) (level index : Nat)
    (h0 : s0.RestAs s) : s0.RestAs (s.residue unit node failed level index) := by
  unfold State.residue
  repeat' with_reducible first
    | assumption
    | exact fGroup _
    | exact fPart _
    | (extract_lets +onlyGivenNames x; clear_value (e : x = _); subst e)
    | apply State.latch_rest
    | apply State.bump_rest
    | apply State.raise_rest
    | apply State.leakMark_rest
    | apply State.retireFold_rest
    | (refine State.RestAs.ofIte (fun _ => ?_) (fun _ => ?_))
    | split
    | refine State.RestAs.upd ?_ rfl

theorem State.poison_rest {s0 s : State} (p l : Nat) (raised : Bool) (h0 : s0.RestAs s) : s0.RestAs
    (s.poison p l raised) := by
  unfold State.poison
  repeat' with_reducible first
    | assumption
    | (extract_lets +onlyGivenNames x; clear_value (e : x = _); subst e)
    | apply State.bump_rest
    | apply State.raise_rest
    | apply State.onStep_rest
    | apply State.spread_rest
    | apply State.endAgain_rest
    | apply State.poisonCells_rest
    | (refine State.RestAs.ofIte (fun _ => ?_) (fun _ => ?_))
    | split

theorem State.sendValue_rest {s0 s : State} (p l id c : Nat) (k : Bytes) (vs : List F32)
    (h0 : s0.RestAs s) : s0.RestAs (s.sendValue p l id c k vs) := by
  unfold State.sendValue
  repeat' with_reducible first
    | assumption
    | (extract_lets +onlyGivenNames x; clear_value (e : x = _); subst e)
    | apply State.send_rest
    | apply State.countSubst_rest
    | apply State.narrowed_rest
    | (refine State.RestAs.ofIte (fun _ => ?_) (fun _ => ?_))
    | split

theorem State.startChunk_rest {s0 s : State} (p l c : Nat) (h0 : s0.RestAs s) : s0.RestAs (s.startChunk p l c) := by
  unfold State.startChunk
  repeat' with_reducible first
    | assumption
    | (extract_lets +onlyGivenNames x; clear_value (e : x = _); subst e)
    | apply State.sendValue_rest
    | (refine State.RestAs.ofIte (fun _ => ?_) (fun _ => ?_))
    | (refine State.RestAs.foldl _ _ (fun u a hu => ?_) ?_)
    | split

theorem State.startChunks_rest {s0 s : State} (p l : Nat) (h0 : s0.RestAs s) : s0.RestAs (s.startChunks p l) := by
  unfold State.startChunks
  repeat' with_reducible first
    | assumption
    | (extract_lets +onlyGivenNames x; clear_value (e : x = _); subst e)
    | apply State.startChunk_rest
    | (refine State.RestAs.ofIte (fun _ => ?_) (fun _ => ?_))
    | (refine State.RestAs.foldl _ _ (fun u a hu => ?_) ?_)
    | split

theorem State.startNext_rest {s0 s : State} (p l : Nat) (h0 : s0.RestAs s) : s0.RestAs (s.startNext p l) := by
  unfold State.startNext
  repeat' with_reducible first
    | assumption
    | apply State.startChunks_rest
    | split

theorem State.deliver_rest {s0 s : State} (msg : Msg) (h0 : s0.RestAs s) : s0.RestAs (s.deliver msg) := by
  unfold State.deliver
  repeat' with_reducible first
    | assumption
    | apply State.sendAll_rest
    | (refine State.RestAs.ofIte (fun _ => ?_) (fun _ => ?_))

theorem State.deadShard_rest {s0 s : State} (p m : Nat) (h0 : s0.RestAs s) : s0.RestAs (s.deadShard p m) := by
  unfold State.deadShard
  repeat' with_reducible first
    | assumption
    | apply State.abortRed_rest
    | apply State.raiseAbort_rest
    | (refine State.RestAs.ofIte (fun _ => ?_) (fun _ => ?_))
    | (refine State.RestAs.foldl _ _ (fun u a hu => ?_) ?_)
    | split

theorem State.passWithdraw_rest {s0 s : State} (msg : Msg) (h0 : s0.RestAs s) : s0.RestAs (s.passWithdraw msg) := by
  unfold State.passWithdraw
  repeat' with_reducible first
    | assumption
    | apply State.sendAll_rest
    | (refine State.RestAs.ofIte (fun _ => ?_) (fun _ => ?_))

theorem State.launchNow_rest {s0 s : State} (p : Nat) (x : StepSt) (eng comb jrn led : Bytes)
    (h0 : s0.RestAs s) : s0.RestAs (s.launchNow p x eng comb jrn led) := by
  unfold State.launchNow
  repeat' with_reducible first
    | assumption
    | (extract_lets +onlyGivenNames x; clear_value (e : x = _); subst e)
    | apply State.onPart_rest
    | apply State.countSubst_rest
    | apply State.spread_rest
    | apply State.waitFor_rest
    | apply State.ledgerOpen_rest
    | apply State.jrnPush_rest

theorem State.retireMemPort_rest {s0 s : State} (n : Nat) (h0 : s0.RestAs s) : s0.RestAs (s.retireMemPort n) := by
  unfold State.retireMemPort
  repeat' with_reducible first
    | assumption
    | exact fGroup _
    | exact fPart _
    | (extract_lets +onlyGivenNames x; clear_value (e : x = _); subst e)
    | apply State.raise_rest
    | apply State.teardownAll_rest
    | apply State.endSaves_rest
    | (refine State.RestAs.ofIte (fun _ => ?_) (fun _ => ?_))
    | split
    | refine State.RestAs.upd ?_ rfl

theorem State.memEvent_rest {s0 s : State} (n cnt : Nat) (h0 : s0.RestAs s) : s0.RestAs (s.memEvent n cnt) := by
  unfold State.memEvent
  repeat' with_reducible first
    | assumption
    | exact fGroup _
    | exact fPart _
    | (extract_lets +onlyGivenNames x; clear_value (e : x = _); subst e)
    | apply State.bump_rest
    | apply State.leakMark_rest
    | apply State.retireMemPort_rest
    | (refine State.RestAs.ofIte (fun _ => ?_) (fun _ => ?_))
    | split
    | refine State.RestAs.upd ?_ rfl

theorem State.loseReturn_rest {s0 s : State} (p l m src : Nat) (h0 : s0.RestAs s) : s0.RestAs
    (s.loseReturn p l m src) := by
  unfold State.loseReturn
  repeat' with_reducible first
    | assumption
    | (extract_lets +onlyGivenNames x; clear_value (e : x = _); subst e)
    | apply State.voidReturn_rest
    | apply State.loseTickets_rest
    | apply State.countReturn_rest
    | apply State.destOut_rest
    | apply State.pileBack_rest
    | (refine State.RestAs.ofIte (fun _ => ?_) (fun _ => ?_))
    | split

theorem State.loseTable_rest {s0 s : State} (tag : Nat) (h0 : s0.RestAs s) : s0.RestAs (s.loseTable tag) := by
  unfold State.loseTable
  repeat' with_reducible first
    | assumption
    | exact fPart _
    | (extract_lets +onlyGivenNames x; clear_value (e : x = _); subst e)
    | apply State.bump_rest
    | apply State.failTable_rest
    | apply State.sharedAnswer_rest
    | (refine State.RestAs.ofIte (fun _ => ?_) (fun _ => ?_))
    | split
    | refine State.RestAs.upd ?_ rfl

theorem State.readLost_rest {s0 s : State} (o : MemObj) (h0 : s0.RestAs s) : s0.RestAs (s.readLost o) := by
  unfold State.readLost
  repeat' with_reducible first
    | assumption
    | exact fGroup _
    | exact fPart _
    | (extract_lets +onlyGivenNames x; clear_value (e : x = _); subst e)
    | apply State.teardown_rest
    | apply State.teardownAll_rest
    | apply State.loseTickets_rest
    | apply State.poison_rest
    | apply State.loseRows_rest
    | apply State.loseReturn_rest
    | apply State.loseShared_rest
    | (refine State.RestAs.ofIte (fun _ => ?_) (fun _ => ?_))
    | split

theorem State.writeLost_rest {s0 s : State} (o : MemObj) (a len : Nat) (h0 : s0.RestAs s) : s0.RestAs
    (s.writeLost o a len) := by
  unfold State.writeLost
  repeat' with_reducible first
    | assumption
    | exact fGroup _
    | exact fPart _
    | (extract_lets +onlyGivenNames x; clear_value (e : x = _); subst e)
    | apply State.raise_rest
    | apply State.onGroup_rest
    | apply State.teardown_rest
    | apply State.teardownAll_rest
    | apply State.cmdWritten_rest
    | apply State.poison_rest
    | apply State.writeDone_rest
    | apply State.undefinedAt_rest
    | apply State.loseWritten_rest
    | apply State.loseTable_rest
    | apply State.loseLedger_rest
    | (refine State.RestAs.ofIte (fun _ => ?_) (fun _ => ?_))
    | split
    | refine State.RestAs.upd ?_ rfl

theorem State.applyCompletions_rest {s0 s : State} (h0 : s0.RestAs s) : s0.RestAs (s.applyCompletions) := by
  unfold State.applyCompletions
  repeat' with_reducible first
    | assumption
    | exact fPart _
    | (extract_lets +onlyGivenNames x; clear_value (e : x = _); subst e)
    | apply State.applyCompletion_rest
    | (refine State.RestAs.foldl _ _ (fun u a hu => ?_) ?_)
    | refine State.RestAs.upd ?_ rfl

theorem State.registerAll_rest {s0 s : State} (h0 : s0.RestAs s) : s0.RestAs (s.registerAll) := by
  unfold State.registerAll
  repeat' with_reducible first
    | assumption
    | exact fGroup _
    | exact fPart _
    | apply State.registerBells_rest
    | apply State.registerInputs_rest
    | apply State.applyCompletions_rest
    | (refine State.RestAs.foldl _ _ (fun u a hu => ?_) ?_)

end Sys2Proof.Machine
end

section
/-! SUPPORT. What the consumption of messages leaves of the links (R294 to R299). -/

-- One declaration after another: the check bounds the memory, and with it the threads.
set_option Elab.async false

namespace Sys2Proof.Machine

/-! ### The inbox, the slots and the streams -/

theorem State.onChan_fixed {s0 s : State} (id : Nat) (f : Chan → Chan) (hf : ∀ c, (f c).fixed = c.fixed) (h0 : s0.FixedAs s) :
    s0.FixedAs (s.onChan id f) := by
  refine h0.trans ?_
  simp only [State.FixedAs, State.onChan, LinkSt.fixed, List.map_map]
  congr 1
  refine List.map_congr_left fun c _ => ?_
  simp only [Function.comp_apply]
  split
  · exact hf c
  · rfl

theorem State.freeSlots_fixed {s0 s : State} (chan n : Nat) (h0 : s0.FixedAs s) : s0.FixedAs (s.freeSlots chan n) := by
  unfold State.freeSlots
  exact State.onChan_fixed _ _ (fun _ => rfl) h0

theorem State.putHold_fixed {s0 s : State} (h : SlotHold) (h0 : s0.FixedAs s) : s0.FixedAs (s.putHold h) := h0.trans rfl

theorem State.putInbox_fixed {s0 s : State} (m : Msg) (h0 : s0.FixedAs s) : s0.FixedAs (s.putInbox m) := h0.trans rfl

theorem State.dropHolds_fixed {s0 s : State} (f : SlotHold → Bool) (h0 : s0.FixedAs s) : s0.FixedAs (s.dropHolds f) := by
  unfold State.dropHolds
  refine .foldl _ _ (fun u h k => State.freeSlots_fixed _ _ ?_) (h0.trans rfl)
  exact .foldl _ _ (fun u a k => k.trans (.ofLink (State.releaseId_link u a))) k

theorem State.take_fixed {s0 s : State} (m : Msg) (h0 : s0.FixedAs s) : s0.FixedAs (s.take m) := by
  unfold State.take State.dropHold
  exact State.dropHolds_fixed _ (h0.trans rfl)

theorem State.dropHold_fixed {s0 s : State} (m : Msg) (h0 : s0.FixedAs s) : s0.FixedAs (s.dropHold m) := by
  unfold State.dropHold
  exact State.dropHolds_fixed _ h0

theorem State.holdSlot_fixed {s0 s : State} (m : Msg) (whole : Bool) (h0 : s0.FixedAs s) :
    s0.FixedAs (s.holdSlot m whole) := h0.trans rfl

theorem State.handBytes_fixed {s0 s : State} (m : Msg) (h0 : s0.FixedAs s) : s0.FixedAs (s.handBytes m) := by
  unfold State.handBytes
  extract_lets +onlyGivenNames o
  split
  exact .ofIte (fun _ => h0) fun _ => h0.trans rfl

theorem State.toMember_fixed {s0 s : State} (dst typ : Nat) (body : Bytes) (h0 : s0.FixedAs s) :
    s0.FixedAs (s.toMember dst typ body) := by
  unfold State.toMember
  exact .ofIte (fun _ => h0.trans rfl) fun _ => .rest (State.sendMgr_rest _ _ _ (.refl _)) h0

theorem State.arrive_fixed {s0 s : State} (m : Msg) (h0 : s0.FixedAs s) : s0.FixedAs (s.arrive m) := by
  unfold State.arrive
  refine .ofIte (fun _ => State.putInbox_fixed _ h0) fun _ => ?_
  extract_lets +onlyGivenNames o
  split
  refine .ofIte (fun _ => State.dropHold_fixed _ h0) fun _ => .ofIte (fun _ => ?_) fun _ => h0.trans rfl
  refine .ofIte (fun _ => ?_) fun _ => .ofIte (fun _ => ?_) fun _ => State.putInbox_fixed _ (h0.trans rfl)
  · exact .step (State.markCorrupt_same _ _ (.refl _) nofun) (State.dropHold_fixed _ (h0.trans rfl))
  · exact .step (State.bump_same _ _ (.refl _) nofun) (State.dropHold_fixed _ (h0.trans rfl))

theorem State.arriveEarly_fixed {s0 s : State} (n : Nat) (h0 : s0.FixedAs s) : s0.FixedAs (State.arriveEarly n s) := by
  induction n generalizing s with
  | zero => exact h0
  | succ n ih =>
    unfold State.arriveEarly
    extract_lets ms l t
    have ht : s0.FixedAs t := .foldl _ _ (fun u m h => State.arrive_fixed m h) (h0.trans rfl)
    exact .ofIte (fun _ => h0) fun _ => .ofIte (fun _ => ht) fun _ => ih ht

theorem State.moveOn_fixed {s0 s : State} (h : SlotHold) (h0 : s0.FixedAs s) : s0.FixedAs (s.moveOn h) := by
  unfold State.moveOn
  split
  · extract_lets m s1 l s2 s3
    refine .rest (State.pumpAll_rest (.refl _)) ?_
    have h2 : s0.FixedAs s2 := by
      refine h0.trans ?_
      simp only [State.FixedAs, s2, s1, State.putHold, LinkSt.fixed, List.map_map]
      rfl
    exact .ofIte (fun _ => h2.trans rfl) fun _ => h2
  · exact State.putHold_fixed _ (.foldl _ _ (fun u a k => k.trans (.ofLink (State.releaseId_link u a))) h0)

theorem State.freeHold_fixed {s0 s : State} (h : SlotHold) (h0 : s0.FixedAs s) : s0.FixedAs (s.freeHold h) := by
  unfold State.freeHold
  exact State.freeSlots_fixed _ _ (State.putHold_fixed _ h0)

theorem State.handTransit_fixed {s0 s : State} (h : SlotHold) (h0 : s0.FixedAs s) : s0.FixedAs (s.handTransit h) := by
  unfold State.handTransit
  refine .ofIte (fun _ => ?_) fun _ => ?_
  · exact .ofIte (fun _ => (State.freeHold_fixed _ h0).trans rfl) fun _ => State.freeHold_fixed _ h0
  · extract_lets +onlyGivenNames b
    split
    · next e =>
      have ht := State.FixedAs.step (State.allocStage_same e (.refl _) nofun nofun nofun nofun nofun) h0
      exact .ofIte (fun _ => State.moveOn_fixed _ (State.freeHold_fixed _ ht)) fun _ => State.freeHold_fixed _ ht
    · exact .step (State.denied_same _ (.refl _) nofun) h0

theorem State.markStitch_fixed {s0 s : State} (h0 : s0.FixedAs s) : s0.FixedAs s.markStitch := by
  refine h0.trans ?_
  simp only [State.FixedAs, State.markStitch, LinkSt.fixed, List.map_map]
  rfl

theorem State.bump_fixed {s0 s : State} (a n : Nat) (h0 : s0.FixedAs s) : s0.FixedAs (s.bump a n) :=
  .step (State.bump_same (F := (· ≠ .link)) a n (.refl s) nofun) h0

theorem State.raise_fixed {s0 s : State} (a i : Nat) (h0 : s0.FixedAs s) : s0.FixedAs (s.raise a i) :=
  .step (State.raise_same (F := (· ≠ .link)) a i (.refl s) nofun) h0

theorem State.denied_fixed {s0 s : State} (mem : Bool) (h0 : s0.FixedAs s) : s0.FixedAs (s.denied mem) :=
  .step (State.denied_same (F := (· ≠ .link)) mem (.refl s) nofun) h0

theorem State.releaseId_fixed {s0 s : State} (id : Nat) (h0 : s0.FixedAs s) : s0.FixedAs (s.releaseId id) :=
  .step (State.releaseId_same (F := (· ≠ .link)) id (.refl s) nofun nofun nofun nofun nofun) h0

theorem State.send_fixed {s0 s : State} (dst owner typ trigger : Nat) (body : Bytes) (back : Bool)
    (h0 : s0.FixedAs s) : s0.FixedAs (s.send dst owner typ trigger body back) :=
  .rest (State.send_rest dst owner typ trigger body back (.refl s)) h0

theorem State.sendAll_fixed {s0 s : State} (dsts : List Nat) (owner typ trigger : Nat) (body : Bytes)
    (h0 : s0.FixedAs s) : s0.FixedAs (s.sendAll dsts owner typ trigger body) :=
  .rest (State.sendAll_rest dsts owner typ trigger body (.refl s)) h0

theorem State.sendMgr_fixed {s0 s : State} (dst typ : Nat) (body : Bytes) (h0 : s0.FixedAs s) : s0.FixedAs
    (s.sendMgr dst typ body) :=
  .rest (State.sendMgr_rest dst typ body (.refl s)) h0

theorem State.noteList_fixed {s0 s : State} (h : SlotHold) (h0 : s0.FixedAs s) : s0.FixedAs (s.noteList h) :=
  .step (State.noteList_same (F := (· ≠ .link)) h (.refl s) nofun) h0

theorem State.markCorrupt_fixed {s0 s : State} (msg : Msg) (check : Nat) (h0 : s0.FixedAs s) : s0.FixedAs
    (s.markCorrupt msg check) :=
  .step (State.markCorrupt_same (F := (· ≠ .link)) msg check (.refl s) nofun) h0

theorem State.spreadMgr_fixed {s0 s : State} (typ : Nat) (body : Bytes) (h0 : s0.FixedAs s) : s0.FixedAs
    (s.spreadMgr typ body) :=
  .rest (State.spreadMgr_rest typ body (.refl s)) h0

theorem State.complete_fixed {s0 s : State} (g status fault diverted stepNo ledger endAt : Nat) (jobs : List
    (Nat × Nat)) (h0 : s0.FixedAs s) : s0.FixedAs (s.complete g status fault diverted stepNo ledger endAt jobs) :=
  .step (State.complete_same (F := (· ≠ .link)) g status fault diverted stepNo ledger endAt jobs (.refl s) nofun nofun
      nofun nofun nofun nofun nofun nofun nofun) h0

theorem State.takeRecords_fixed {s0 s : State} (p : Nat) (h0 : s0.FixedAs s) : s0.FixedAs (s.takeRecords p) :=
  .rest (State.takeRecords_rest p (.refl s)) h0

theorem State.restored_fixed {s0 s : State} (g : Nat) (h0 : s0.FixedAs s) : s0.FixedAs (s.restored g) :=
  .step (State.restored_same (F := (· ≠ .link)) g (.refl s) nofun nofun) h0

theorem State.countReturn_fixed {s0 s : State} (p l m d : Nat) (h0 : s0.FixedAs s) : s0.FixedAs
    (s.countReturn p l m d) :=
  .step (State.countReturn_same (F := (· ≠ .link)) p l m d (.refl s) nofun) h0

theorem State.destOut_fixed {s0 s : State} (p l m : Nat) (t : WorkTab) (h0 : s0.FixedAs s) : s0.FixedAs
    (s.destOut p l m t) :=
  .step (State.destOut_same (F := (· ≠ .link)) p l m t (.refl s) nofun nofun nofun) h0

theorem State.pileBack_fixed {s0 s : State} (p l m src : Nat) (h0 : s0.FixedAs s) : s0.FixedAs (s.pileBack p l m src) :=
  .step (State.pileBack_same (F := (· ≠ .link)) p l m src (.refl s) nofun) h0

theorem State.freeReturned_fixed {s0 s : State} (p l m : Nat) (t : WorkTab) (h0 : s0.FixedAs s) : s0.FixedAs
    (s.freeReturned p l m t) :=
  .step (State.freeReturned_same (F := (· ≠ .link)) p l m t (.refl s) nofun) h0

theorem State.writeAdds_fixed {s0 s : State} (p l : Nat) (h0 : s0.FixedAs s) : s0.FixedAs (s.writeAdds p l) :=
  .step (State.writeAdds_same (F := (· ≠ .link)) p l (.refl s) nofun nofun nofun nofun) h0

theorem State.startChunks_fixed {s0 s : State} (p l : Nat) (h0 : s0.FixedAs s) : s0.FixedAs (s.startChunks p l) :=
  .rest (State.startChunks_rest p l (.refl s)) h0

theorem State.onLaunch_fixed {s0 s : State} (g stepNo : Nat) (f : LaunchSt → LaunchSt)
    (h0 : s0.FixedAs s) : s0.FixedAs (s.onLaunch g stepNo f) :=
  .step (State.onLaunch_same (F := (· ≠ .link)) g stepNo f (.refl s) nofun) h0

theorem State.readTokens_fixed {s0 s : State} (p l : Nat) (h0 : s0.FixedAs s) : s0.FixedAs (s.readTokens p l) :=
  .step (State.readTokens_same (F := (· ≠ .link)) p l (.refl s) nofun nofun nofun nofun) h0

theorem State.countBias_fixed {s0 s : State} (p : Nat) (x : StepSt) (status : Nat) (h0 : s0.FixedAs s) : s0.FixedAs
    (s.countBias p x status) :=
  .step (State.countBias_same (F := (· ≠ .link)) p x status (.refl s) nofun) h0

theorem State.divertNotes_fixed {s0 s : State} (p : Nat) (x : StepSt) (h0 : s0.FixedAs s) : s0.FixedAs
    (s.divertNotes p x) :=
  .step (State.divertNotes_same (F := (· ≠ .link)) p x (.refl s) nofun) h0

theorem State.handRows_fixed {s0 s : State} (h : SlotHold) (q : Pass) (b : Bytes) (h0 : s0.FixedAs s) :
    s0.FixedAs (s.handRows h q b) := by
  unfold State.handRows
  refine .ofIte (fun _ => State.freeHold_fixed _ h0) fun _ => ?_
  split
  next e =>
    have hs := State.rowCells_same (F := (· ≠ .link)) h q b (fld b 24 4) (.refl s) nofun nofun nofun nofun nofun
    rw [e] at hs
    exact State.freeSlots_fixed _ _ (State.putHold_fixed _ (.step hs h0))

theorem State.handPile_fixed {s0 s : State} (h : SlotHold) (q : Pass) (b : Bytes) (h0 : s0.FixedAs s) : s0.FixedAs
    (s.handPile h q b) := by
  unfold State.handPile
  repeat' with_reducible first
    | assumption
    | (refine State.FixedAs.step (State.allocStage_same (F := (· ≠ Touch.link)) (by assumption) (.refl _) (by simp)
        (by simp) (by simp) (by simp) (by simp)) ?_)
    | apply State.denied_fixed
    | apply State.freeHold_fixed
    | (refine State.FixedAs.ofIte (fun _ => ?_) (fun _ => ?_))
    | split

theorem State.handOne_fixed {s0 s : State} (h : SlotHold) (h0 : s0.FixedAs s) : s0.FixedAs (s.handOne h) := by
  unfold State.handOne
  repeat' with_reducible first
    | assumption
    | (extract_lets +onlyGivenNames x; clear_value (e : x = _); subst e)
    | apply State.freeHold_fixed
    | apply State.handRows_fixed
    | apply State.handPile_fixed
    | apply State.handTransit_fixed
    | (refine State.FixedAs.ofIte (fun _ => ?_) (fun _ => ?_))
    | split

theorem State.handOver_fixed {s0 s : State} (h0 : s0.FixedAs s) : s0.FixedAs (s.handOver) := by
  unfold State.handOver
  repeat' with_reducible first
    | assumption
    | exact fLists _
    | (extract_lets +onlyGivenNames x; clear_value (e : x = _); subst e)
    | apply State.handOne_fixed
    | apply State.noteList_fixed
    | (refine State.FixedAs.foldl _ _ (fun u a hu => ?_) ?_)

theorem State.showTransit_fixed {s0 s : State} (m : Msg) (h0 : s0.FixedAs s) : s0.FixedAs (s.showTransit m) := by
  unfold State.showTransit
  repeat' with_reducible first
    | assumption
    | apply State.putInbox_fixed
    | (refine State.FixedAs.ofIte (fun _ => ?_) (fun _ => ?_))

theorem State.discard_fixed {s0 s : State} (m : Msg) (h0 : s0.FixedAs s) : s0.FixedAs (s.discard m) := by
  unfold State.discard
  repeat' with_reducible first
    | assumption
    | apply State.releaseId_fixed
    | apply State.freeHold_fixed
    | apply State.take_fixed
    | (refine State.FixedAs.ofIte (fun _ => ?_) (fun _ => ?_))
    | (refine State.FixedAs.foldl _ _ (fun u a hu => ?_) ?_)
    | split

theorem State.stale_fixed {s0 s : State} (msg : Msg) (h0 : s0.FixedAs s) : s0.FixedAs (s.stale msg) := by
  unfold State.stale
  repeat' with_reducible first
    | assumption
    | apply State.bump_fixed
    | apply State.take_fixed

theorem State.dup_fixed {s0 s : State} (msg : Msg) (h0 : s0.FixedAs s) : s0.FixedAs (s.dup msg) := by
  unfold State.dup
  repeat' with_reducible first
    | assumption
    | apply State.bump_fixed
    | apply State.take_fixed

theorem State.corrupt_fixed {s0 s : State} (msg : Msg) (check : Nat) (h0 : s0.FixedAs s) : s0.FixedAs
    (s.corrupt msg check) := by
  unfold State.corrupt
  repeat' with_reducible first
    | assumption
    | apply State.markCorrupt_fixed
    | apply State.take_fixed

theorem State.toPod_fixed {s0 s : State} (typ : Nat) (body : Bytes) (h0 : s0.FixedAs s) : s0.FixedAs
    (s.toPod typ body) := by
  unfold State.toPod
  repeat' with_reducible first
    | assumption
    | apply State.sendAll_fixed
    | apply State.toMember_fixed

theorem State.decideLaunch_fixed {s0 s : State} (g stepNo : Nat) (sets : List (List Nat))
    (h0 : s0.FixedAs s) : s0.FixedAs (s.decideLaunch g stepNo sets) := by
  unfold State.decideLaunch
  repeat' with_reducible first
    | assumption
    | (extract_lets +onlyGivenNames x; clear_value (e : x = _); subst e)
    | apply State.raise_fixed
    | apply State.sendMgr_fixed
    | apply State.take_fixed
    | apply State.toPod_fixed
    | apply State.onLaunch_fixed
    | (refine State.FixedAs.ofIte (fun _ => ?_) (fun _ => ?_))
    | (refine State.FixedAs.foldl _ _ (fun u a hu => ?_) ?_)
    | split

theorem State.tryLaunch_fixed {s0 s : State} (g : Nat) (h0 : s0.FixedAs s) : s0.FixedAs (s.tryLaunch g) := by
  unfold State.tryLaunch
  repeat' with_reducible first
    | assumption
    | (extract_lets +onlyGivenNames x; clear_value (e : x = _); subst e)
    | apply State.sendMgr_fixed
    | apply State.decideLaunch_fixed
    | (refine State.FixedAs.ofIte (fun _ => ?_) (fun _ => ?_))
    | split

theorem State.setPodF_fixed {s0 s : State} (f : Nat) (h0 : s0.FixedAs s) : s0.FixedAs (s.setPodF f) := by
  unfold State.setPodF
  repeat' with_reducible first
    | assumption
    | (extract_lets +onlyGivenNames x; clear_value (e : x = _); subst e)
    | apply State.toPod_fixed
    | (refine State.FixedAs.ofIte (fun _ => ?_) (fun _ => ?_))
    | split
    | refine State.FixedAs.upd ?_ rfl

theorem State.goodStep_fixed {s0 s : State} (h0 : s0.FixedAs s) : s0.FixedAs (s.goodStep) := by
  unfold State.goodStep
  repeat' with_reducible first
    | assumption
    | (extract_lets +onlyGivenNames x; clear_value (e : x = _); subst e)
    | apply State.setPodF_fixed
    | (refine State.FixedAs.ofIte (fun _ => ?_) (fun _ => ?_))
    | split
    | refine State.FixedAs.upd ?_ rfl

theorem State.declareStraggler_fixed {s0 s : State} (g stepNo x : Nat) (h0 : s0.FixedAs s) : s0.FixedAs
    (s.declareStraggler g stepNo x) := by
  unfold State.declareStraggler
  repeat' with_reducible first
    | assumption
    | (extract_lets +onlyGivenNames x; clear_value (e : x = _); subst e)
    | apply State.spreadMgr_fixed
    | apply State.toMember_fixed
    | apply State.setPodF_fixed
    | (refine State.FixedAs.ofIte (fun _ => ?_) (fun _ => ?_))
    | split
    | refine State.FixedAs.upd ?_ rfl

theorem State.decideBias_fixed {s0 s : State} (g last : Nat) (counts : List Nat) (h0 : s0.FixedAs s) : s0.FixedAs
    (s.decideBias g last counts) := by
  unfold State.decideBias
  repeat' with_reducible first
    | assumption
    | (extract_lets +onlyGivenNames x; clear_value (e : x = _); subst e)
    | apply State.sendMgr_fixed
    | apply State.take_fixed
    | apply State.toPod_fixed
    | (refine State.FixedAs.foldl _ _ (fun u a hu => ?_) ?_)
    | refine State.FixedAs.upd ?_ rfl

theorem State.nextBias_fixed {s0 s : State} (p : Nat) (h0 : s0.FixedAs s) : s0.FixedAs (s.nextBias p) := by
  unfold State.nextBias
  repeat' with_reducible first
    | assumption
    | (extract_lets +onlyGivenNames x; clear_value (e : x = _); subst e)
    | apply State.decideBias_fixed
    | (refine State.FixedAs.ofIte (fun _ => ?_) (fun _ => ?_))
    | split
    | refine State.FixedAs.upd ?_ rfl

theorem State.endWindow_fixed {s0 s : State} (p : Nat) (x : StepSt) (status : Nat) (h0 : s0.FixedAs s) : s0.FixedAs
    (s.endWindow p x status) := by
  unfold State.endWindow
  repeat' with_reducible first
    | assumption
    | (extract_lets +onlyGivenNames x; clear_value (e : x = _); subst e)
    | apply State.toMember_fixed
    | apply State.countBias_fixed
    | (refine State.FixedAs.ofIte (fun _ => ?_) (fun _ => ?_))
    | split
    | refine State.FixedAs.upd ?_ rfl

theorem State.recordStep_fixed {s0 s : State} (p : Nat) (x : StepSt) (status fault : Nat)
    (h0 : s0.FixedAs s) : s0.FixedAs (s.recordStep p x status fault) := by
  unfold State.recordStep
  repeat' with_reducible first
    | assumption
    | exact fGroup _
    | exact fPart _
    | (extract_lets +onlyGivenNames x; clear_value (e : x = _); subst e)
    | apply State.complete_fixed
    | apply State.endWindow_fixed
    | apply State.divertNotes_fixed
    | (refine State.FixedAs.ofIte (fun _ => ?_) (fun _ => ?_))
    | split
    | refine State.FixedAs.upd ?_ rfl
end Sys2Proof.Machine
end

section
/-! SUPPORT. Channels, and the CONTROL flits that leave on them (R296 to R301). -/

-- One declaration after another: the check bounds the memory, and with it the threads.
set_option Elab.async false

namespace Sys2Proof.Machine

/-! ### A channel by its number -/

theorem State.chan_id {s : State} {k : Nat} {c : Chan} (h : s.chan k = some c) : c.id = k := by
  simpa using List.find?_some h

theorem State.chan_mem {s : State} {k : Nat} {c : Chan} (h : s.chan k = some c) : c ∈ s.link.chans :=
  List.mem_of_find?_eq_some h

theorem State.chan_of_map {s t : State} (g : Chan → Chan) (hg : ∀ c, (g c).id = c.id) (h : t.link.chans = s.link.chans.map g)
    (k : Nat) : t.chan k = (s.chan k).map g := by
  rw [State.chan, h, List.find?_map]
  exact congrArg (Option.map g) (congrArg (s.link.chans.find? ·) (funext fun c => by simp [hg]))

theorem State.chan_onChan (s : State) (id : Nat) (f : Chan → Chan) (hf : ∀ c, (f c).id = c.id) (k : Nat) :
    (s.onChan id f).chan k = (s.chan k).map (fun c => if c.id = id then f c else c) :=
  State.chan_of_map _ (fun c => by split <;> simp [hf]) rfl k

theorem State.chan_onChan_self {s : State} {id : Nat} {f : Chan → Chan} {c : Chan} (hf : ∀ c, (f c).id = c.id)
    (h : s.chan id = some c) : (s.onChan id f).chan id = some (f c) := by
  rw [State.chan_onChan s id f hf, h, Option.map_some, if_pos (State.chan_id h)]

theorem State.chan_setChan {s : State} {id : Nat} {c d : Chan} (h : s.chan id = some c) (hd : d.id = id) :
    (s.onChan id (fun _ => d)).chan id = some d := by
  rw [State.chan_of_map (s := s) (t := s.onChan id (fun _ => d)) (fun x => if x.id = id then d else x) (fun x => by
    split
    · next hx => rw [hd, hx]
    · rfl) rfl id, h]
  exact congrArg some (if_pos (State.chan_id h))

/-- A view of channels that two states share. -/
theorem chan_of_views {s t : State} (v : Chan → Chan) (hv : ∀ c, (v c).id = c.id)
    (h : t.link.chans.map v = s.link.chans.map v) (k : Nat) : (t.chan k).map v = (s.chan k).map v := by
  have hp : ((fun c : Chan => decide (c.id = k)) ∘ v) = fun c => decide (c.id = k) := funext fun c => by simp [hv]
  have hf (l : List Chan) : (l.map v).find? (fun c => c.id = k) = (l.find? (fun c => c.id = k)).map v := by
    rw [List.find?_map, hp]
  rw [State.chan, State.chan, ← hf, h, hf]

theorem State.RestAs.chan {s t : State} (h : s.RestAs t) (k : Nat) : (t.chan k).map Chan.rest = (s.chan k).map Chan.rest :=
  chan_of_views (s := s) (t := t) Chan.rest (fun _ => rfl) h.chans k

theorem State.FixedAs.chan {s t : State} (h : s.FixedAs t) (k : Nat) :
    (t.chan k).map Chan.fixed = (s.chan k).map Chan.fixed := chan_of_views (s := s) (t := t) Chan.fixed (fun _ => rfl) h.chans k

theorem State.FixedAs.chan_some {s t : State} (h : s.FixedAs t) {k : Nat} {c : Chan} (hc : s.chan k = some c) :
    ∃ e, t.chan k = some e ∧ e.fixed = c.fixed := by
  have e := h.chan k
  rw [hc] at e
  simpa using e

/-! ### One flit leaves -/

/-- The channel once a flit has left on it: what it last acknowledged. -/
def Chan.sentOne (c x : Chan) : Chan := { x with lastAck := c.rxX % 65536, lastCred := c.freed % 4096 }

section
variable {s : State} {c : Chan} {f : Flit} (hid : c.id < 31) (hm : c.markDue = false ∨ f.resend = true)
include hid hm

/-- A flit that carries no mark leaves as it is. -/
theorem State.drive_one : ∃ o, s.drive c [f] = ({ s with
    power := o, link := { s.link with frames := s.link.frames ++ [(c.port, flitBytes f)] } } : State).onChan c.id c.sentOne := by
  have h : s.stamp c [f] = ([f], s) := by
    simp only [State.stamp]
    exact if_neg (by rcases hm with h | h <;> simp [h])
  rw [State.drive, h]
  simp only [State.emit, if_pos hid]
  exact ⟨_, rfl⟩

end

/-- One flit of an intra-pod channel is one frame (R300). -/
theorem State.drive_length (s : State) {c : Chan} (f : Flit) (hid : c.id < 31) :
    (s.drive c [f]).link.frames.length = s.link.frames.length + 1 := by
  have hs : (s.stamp c [f]).1.length = 1 ∧ (s.stamp c [f]).2.link.frames = s.link.frames := by
    simp only [State.stamp]
    split
    · exact ⟨rfl, rfl⟩
    · exact ⟨rfl, rfl⟩
  simp only [State.drive, State.emit, if_pos hid, State.onChan, List.length_append, List.length_map, hs.1]
  exact congrArg (·.length + 1) hs.2

/-- A CONTROL flit of an intra-pod channel (R301). -/
theorem State.control_one {s : State} {k : Nat} {c : Chan} (payload : Bytes) (hc : s.chan k = some c) (hid : k < 31)
    (hh : s.hears c.port = true) (hm : c.markDue = false) : ∃ o, s.control k payload = ({ s with
      power := o
      link := { s.link with frames := s.link.frames ++ [(c.port, flitBytes (chanFlit c 2 8 payload))] } } : State).onChan k c.sentOne := by
  obtain ⟨o, e⟩ := State.drive_one (s := s) (c := c) (f := chanFlit c 2 8 payload) (by rw [State.chan_id hc]; exact hid) (.inl hm)
  rw [State.chan_id hc] at e
  refine ⟨o, ?_⟩
  rw [State.control, hc]
  exact (if_pos hh).trans e

end Sys2Proof.Machine
end

section
/-! SUPPORT. What the choice of relays leaves of the ports (R305, R310). -/

-- One declaration after another: the check bounds the memory, and with it the threads.
set_option Elab.async false

namespace Sys2Proof.Machine

/-- A port but for its relay. -/
def Port.rest (x : Port) : Port := { x with relayed := none, pendSvc := false }

/-- The links but for the transmitters, what has come and the relays. -/
def LinkSt.relay (l : LinkSt) : LinkSt := { l.fixed with ports := l.ports.map Port.rest }

/-- The links of two states differ in their transmitters, what has come and the relays alone. -/
def State.RelayAs (s t : State) : Prop := t.link.relay = s.link.relay

namespace State.RelayAs

theorem refl (s : State) : s.RelayAs s := rfl

theorem trans {s t u : State} (h : s.RelayAs t) (k : t.RelayAs u) : s.RelayAs u := Eq.trans k h

theorem ofFixed {s t : State} (h : s.FixedAs t) : s.RelayAs t := by
  rw [State.RelayAs, LinkSt.relay, h, h.ports, LinkSt.relay]

theorem ofRest {s t : State} (h : s.RestAs t) : s.RelayAs t := .ofFixed (.ofRest h)

theorem ofLink {s t : State} (h : t.link = s.link) : s.RelayAs t := .ofRest (.ofLink h)

theorem foldl {α : Type} {s0 s : State} (f : State → α → State) (l : List α)
    (h : ∀ u a, s0.RelayAs u → s0.RelayAs (f u a)) (h0 : s0.RelayAs s) : s0.RelayAs (l.foldl f s) := by
  induction l generalizing s with
  | nil => exact h0
  | cons a l ih => exact ih (h s a h0)

theorem onPort (s : State) (p : Nat) (f : Port → Port) (hf : ∀ x, (f x).rest = x.rest) : s.RelayAs (s.onPort p f) := by
  have h (l : List Port) : (setAt l p f).map Port.rest = l.map Port.rest := by
    induction l generalizing p with
    | nil => rfl
    | cons x l ih =>
      cases p with
      | zero => exact congrArg (· :: l.map Port.rest) (hf x)
      | succ p => exact congrArg (x.rest :: ·) (ih p)
  simp only [State.RelayAs, LinkSt.relay, State.onPort, LinkSt.fixed, h]

section
variable {s t : State} (h : s.RelayAs t)
include h

theorem ports : t.link.ports.map Port.rest = s.link.ports.map Port.rest :=
  congrArg LinkSt.ports (a₁ := t.link.relay) (a₂ := s.link.relay) h
theorem dead : t.link.dead = s.link.dead := congrArg LinkSt.dead (a₁ := t.link.relay) (a₂ := s.link.relay) h
theorem reportDue : t.link.reportDue = s.link.reportDue :=
  congrArg LinkSt.reportDue (a₁ := t.link.relay) (a₂ := s.link.relay) h
theorem chans : t.link.chans.map Chan.fixed = s.link.chans.map Chan.fixed :=
  congrArg LinkSt.chans (a₁ := t.link.relay) (a₂ := s.link.relay) h
theorem isDead (m : Nat) : t.isDead m = s.isDead m := by rw [State.isDead, h.dead, State.isDead]

theorem port (p : Nat) : (t.port p).rest = (s.port p).rest := by
  have e (u : State) : (u.port p).rest = (u.link.ports.map Port.rest).getD p resetPort := by
    rw [State.port, List.getD_eq_getElem?_getD, List.getD_eq_getElem?_getD, List.getElem?_map]
    cases u.link.ports[p]? <;> rfl
  rw [e, e, h.ports]

end

end State.RelayAs

theorem State.resendVia_relayAs (s : State) (old r d : Nat) : s.RelayAs (s.resendVia old r d) := by
  unfold State.resendVia
  refine .foldl _ _ (fun u m h => h.trans (.ofRest (State.enqueue_rest _ _ _ ?_))) (.ofRest rfl)
  exact .ofIte (fun _ => .refl u) fun _ => State.bump_rest _ _ (.refl u)

theorem State.chooseRelay_relayAs (s : State) (p old : Nat) : s.RelayAs (s.chooseRelay p old) := by
  unfold State.chooseRelay
  extract_lets b r t _
  have ht : s.RelayAs t := .onPort s p _ fun x => rfl
  cases r
  case none => exact ht.trans ((State.RelayAs.onPort t p (fun x => { x with pendSvc := false }) fun x => rfl).trans
    (.ofRest (State.pump_rest _ (.refl _))))
  case some k => exact ht.trans (.trans (.ofRest (State.raise_rest _ _ (.refl t))) (State.resendVia_relayAs _ _ _ _))

theorem State.leaveActive_relayAs (s : State) (p : Nat) : s.RelayAs (s.leaveActive p) := by
  unfold State.leaveActive
  split
  · exact .refl s
  · extract_lets b fwd l s1 s2 s3 s4
    have h2 : s.RelayAs s2 := .foldl _ _ (fun u a h => h.trans (.ofLink (State.releaseId_link u a))) (.ofRest rfl)
    have h3 : s.RelayAs s3 := .foldl _ _ (fun u m h => h.trans (.ofRest (State.control_rest _ _ (.refl u)))) h2
    have h4 : s.RelayAs s4 := by
      unfold s4
      split
      · exact h3
      · exact h3.trans (State.chooseRelay_relayAs _ _ _)
    exact .foldl _ _ (fun u q h => h.trans (State.chooseRelay_relayAs _ _ _)) h4

end Sys2Proof.Machine
end

section
/-! SUPPORT. Training of the ports (R302, R306, R307; O41). -/

-- One declaration after another: the check bounds the memory, and with it the threads.
set_option Elab.async false

namespace Sys2Proof.Machine

theorem State.port_onPort_self {s : State} {p : Nat} (h : p < s.link.ports.length) (f : Port → Port) :
    (s.onPort p f).port p = f (s.port p) := by
  rw [State.port_onPort s p p f h, if_pos rfl]

theorem State.port_onPort_ne {s : State} {p q : Nat} (h : p < s.link.ports.length) (hq : q ≠ p) (f : Port → Port) :
    (s.onPort p f).port q = s.port q := by
  rw [State.port_onPort s p q f h, if_neg (Ne.symm hq)]

/-- A port that is retired is no longer usable (R90, R307). -/
theorem State.retirePort_links {s : State} {p : Nat} (n : Nat) (hs : (s.port p).state ≠ 7) (ha : (s.port p).absent = false) :
    (s.retirePort p n).units.links = s.units.links - (if bit s.units.links p then 2 ^ p else 0) := by
  unfold State.retirePort
  extract_lets x lanes s1 s2 s3 l k m s4 s5
  have h1 : s1.units = s.units := by
    unfold s1
    split
    · exact foldl_view (fun s => s.units) _ (fun u _ => ((State.control_same (F := (· ≠ .units)) p _ (.refl u) nofun nofun
        nofun).units (by simp))) _ _
    · rfl
  have h3 : s3.units = s.units := (State.raise_units _ _ _).trans h1
  have h5 : s5.units.links = s.units.links - (if bit s.units.links p then 2 ^ p else 0) := by
    simp only [s5, State.oweReport, s4, k, h3]
  rw [if_neg (by simp [x, hs, ha])]
  split
  · exact (congrArg UnitSt.links ((State.leaveActive_same (F := (· ≠ .units)) p (.refl _) nofun nofun nofun nofun nofun
      nofun nofun).units (by simp))).trans h5
  · exact (congrArg UnitSt.links ((State.rehome_same (F := (· ≠ .units)) (.refl _) nofun nofun nofun).units
      (by simp))).trans h5

section
variable {s : State} {p : Nat} (hs : s.sound) (hp : p < 36)
include hs hp

theorem phyAlign_of_phyUp (h : (s.port p).state = 1) : answers (.phyAlign p) s (fun t => (t.port p).state = 2
    ∧ (∀ q, q ≠ p → t.port q = s.port q) ∧ t.mem = s.mem ∧ t.regs = s.regs) := by
  have hl : p < s.link.ports.length := hs.portsLen.symm ▸ hp
  have e : exec (.phyAlign p) s = .next (s.onPort p (atStage 2)) := if_pos (by simp [stage, h])
  refine answers_of_exec e ⟨?_, fun q hq => State.port_onPort_ne hl hq _, rfl, rfl⟩
  rw [State.port_onPort_self hl, atStage, if_neg (by simp [h])]

theorem trainBoundExpire_of_training (h1 : 1 ≤ (s.port p).state) (h4 : (s.port p).state ≤ 4) :
    answers (.trainBoundExpire p) s (fun t => (t.port p).state = 1 ∧ t.mem = s.mem ∧ t.regs = s.regs) := by
  have hl : p < s.link.ports.length := hs.portsLen.symm ▸ hp
  have h6 : (s.port p).state ≠ 6 := by omega
  have hst : stage (s.port p) = (s.port p).state := if_neg h6
  let u := s.onPortChans p (fun c => { c with active := false, helloRun := 0, lastHello := [] })
  have e : exec (.trainBoundExpire p) s = .next (u.onPort p (fun x => { (atStage 1 x) with failRun := 0 })) :=
    (if_pos (by rw [hst]; exact ⟨h1, h4⟩)).trans
      (congrArg Host.Outcome.next ((if_neg (by exact h6)).trans (if_pos (by exact ⟨h1, h4⟩))))
  refine answers_of_exec e ⟨?_, rfl, rfl⟩
  rw [State.port_onPort_self (s := u) hl]
  change (atStage 1 (s.port p)).state = 1
  rw [atStage, if_neg h6]

theorem retrainExpire_of_retrain (h : (s.port p).state = 6) (ha : (s.port p).absent = false) :
    answers (.retrainExpire p) s (fun t => (t.port p).state = 7 ∧ (t.port p).fail = 3 ∧ bit t.units.links p = false
      ∧ poolOnly s t) := by
  have hne : (s.port p).state ≠ 7 := by omega
  have e : exec (.retrainExpire p) s = .next (s.retirePort p 3) := if_pos h
  obtain ⟨h7, h3, -⟩ := State.retirePort_spec 3 (hs.portsLen.symm ▸ hp) hne ha
  have hsame := State.retirePort_same (F := retireTouch) p 3 (.refl s) trivial trivial trivial trivial trivial trivial
      trivial trivial trivial
  refine answers_of_exec e ⟨h7, h3, ?_, hsame.poolOnly id id⟩
  rw [State.retirePort_links 3 hne ha]
  simp [bit_off]

theorem alignmentLoss_of_active (h : (s.port p).state = 5) (hr : p < s.recd.linkRt.length) :
    answers (.alignmentLoss p) s (fun t => (t.port p).state = 6 ∧ (t.port p).sub = 1
      ∧ t.recd.linkRt.getD p 0 = s.recd.linkRt.getD p 0 + 1 ∧ t.link.reportDue = true ∧ poolOnly s t) := by
  have hl : p < s.link.ports.length := hs.portsLen.symm ▸ hp
  have e : exec (.alignmentLoss p) s = .next (s.enterRetrain p) := if_pos h
  have hsame := State.enterRetrain_same (F := retireTouch) p (.refl s) trivial trivial trivial trivial trivial trivial
      trivial trivial
  have key : ∃ u : State, u.RelayAs (s.enterRetrain p) ∧ u.recd = (s.enterRetrain p).recd ∧ u.link.reportDue = true
      ∧ (u.port p).state = 6 ∧ (u.port p).sub = 1 ∧ u.recd.linkRt = setAt s.recd.linkRt p (· + 1) := by
    unfold State.enterRetrain
    extract_lets s1 s2 s3 r s4
    refine ⟨s4.oweReport, State.leaveActive_relayAs _ _, ?_, rfl, ?_⟩
    · exact ((State.leaveActive_same (F := (· ≠ .recd)) p (.refl s4.oweReport) nofun nofun nofun nofun nofun nofun
        nofun).recd (by simp)).symm
    · have h3 : s3.link = s2.link ∧ s3.recd = s2.recd := by simp [s3]
      have hport : s4.oweReport.port p = s1.port p := by
        change s3.link.ports.getD p resetPort = _
        rw [h3.1]
        rfl
      refine ⟨?_, ?_, ?_⟩
      · rw [hport, State.port_onPort_self hl]
      · rw [hport, State.port_onPort_self hl]
      · change setAt s3.recd.linkRt p (· + 1) = _
        rw [h3.2]
        rfl
  obtain ⟨u, hu, hrec, hdue, h6, h1, hrt⟩ := key
  refine answers_of_exec e ⟨?_, ?_, ?_, ?_, hsame.poolOnly id id⟩
  · exact (congrArg Port.state (hu.port p)).trans h6
  · exact (congrArg Port.sub (hu.port p)).trans h1
  · rw [← hrec, hrt, getD_setAt, if_pos ⟨rfl, hr⟩]
  · rw [hu.reportDue, hdue]

theorem lkBucketLeak_of_due (h : s.leakDue (keyLink p) 1024 (s.port p).bucket = true) : answers (.lkBucketLeak p) s (fun t =>
    (t.port p).bucket = (s.port p).bucket - 1 ∧ (t.port p).state = (s.port p).state ∧ t.mem = s.mem ∧ t.regs = s.regs) := by
  have hl : p < s.link.ports.length := hs.portsLen.symm ▸ hp
  have e : exec (.lkBucketLeak p) s
      = .next ((s.onPort p (fun x => { x with bucket := x.bucket - 1 })).leakMark (keyLink p)) := if_pos h
  have hport := State.port_onPort_self hl (fun x => { x with bucket := x.bucket - 1 })
  refine answers_of_exec e ⟨(congrArg Port.bucket hport).trans rfl, (congrArg Port.state hport :).trans rfl, rfl, rfl⟩

end

/-- Settles O41: one lemma per command. -/
theorem trainingCompletes : Obligations.TrainingCompletes := by
  intro s p hs hp
  exact ⟨phyAlign_of_phyUp hs hp, trainBoundExpire_of_training hs hp, retrainExpire_of_retrain hs hp,
    alignmentLoss_of_active hs hp, lkBucketLeak_of_due hs hp⟩

end Sys2Proof.Machine
end

section
/-! SUPPORT. A flit that has come (R294 to R299). -/

-- One declaration after another: the check bounds the memory, and with it the threads.
set_option Elab.async false

namespace Sys2Proof.Machine

/-! ### The port that takes it -/

/-- Among the ports a good flit changes the counts of training alone (R302). -/
theorem State.goodFlit_eq (s : State) (p : Nat) : ∃ f : Port → Port, s.goodFlit p = s.onPort p f
    ∧ (∀ x, (f x).mode = x.mode ∧ (f x).absent = x.absent ∧ (f x).fail = x.fail ∧ (f x).relayed = x.relayed
      ∧ (f x).excluded = x.excluded ∧ (f x).rtt = x.rtt)
    ∧ (stage (s.port p) ≠ 2 → ∀ x, f x = { x with failRun := 0 }) := by
  have hat (x : Port) : (atStage 3 x).mode = x.mode ∧ (atStage 3 x).absent = x.absent ∧ (atStage 3 x).fail = x.fail
      ∧ (atStage 3 x).relayed = x.relayed ∧ (atStage 3 x).excluded = x.excluded ∧ (atStage 3 x).rtt = x.rtt := by
    rw [atStage]
    split <;> exact ⟨rfl, rfl, rfl, rfl, rfl, rfl⟩
  have htwice (f g : Port → Port) (l : List Port) : setAt (setAt l p f) p g = setAt l p (fun x => g (f x)) := by
    induction l generalizing p with
    | nil => rfl
    | cons x l ih =>
      cases p with
      | zero => rfl
      | succ p => exact congrArg (x :: ·) (ih p)
  have honPort (f g : Port → Port) : (s.onPort p f).onPort p g = s.onPort p (fun x => g (f x)) := by
    simp only [State.onPort, htwice]
  unfold State.goodFlit
  dsimp only
  by_cases h : stage (s.port p) = 2
  · rw [if_pos h, honPort, honPort]
    split
    · exact ⟨_, rfl, fun x => hat { x with failRun := 0 }, fun hn => absurd h hn⟩
    · exact ⟨_, rfl, fun x => ⟨rfl, rfl, rfl, rfl, rfl, rfl⟩, fun hn => absurd h hn⟩
  · rw [if_neg h]
    exact ⟨_, rfl, fun x => ⟨rfl, rfl, rfl, rfl, rfl, rfl⟩, fun _ _ => rfl⟩

/-- The state once a good flit has been counted. -/
def State.gotFlit (s : State) (p : Nat) : State := (s.charge 9 1).goodFlit p

theorem State.gotFlit_link (s : State) (p : Nat) : ∃ ps, (s.gotFlit p).link = { s.link with ports := ps } := by
  obtain ⟨f, e, -⟩ := (s.charge 9 1).goodFlit_eq p
  exact ⟨_, by rw [State.gotFlit, e]; rfl⟩

theorem State.gotFlit_chan (s : State) (p k : Nat) : (s.gotFlit p).chan k = s.chan k := by
  obtain ⟨ps, e⟩ := s.gotFlit_link p
  rw [State.chan, e, State.chan]

/-- Outside PHY_ALIGNED a good flit leaves its port but for the count of failed ones. -/
theorem State.gotFlit_port {s : State} {p : Nat} (h : stage (s.port p) ≠ 2) (q : Nat) :
    (s.gotFlit p).port q = s.port q ∨ (s.gotFlit p).port q = { s.port q with failRun := 0 } := by
  obtain ⟨f, e, -, hf⟩ := (s.charge 9 1).goodFlit_eq p
  rw [State.gotFlit, e, State.port, State.onPort, getD_setAt]
  split
  · rw [hf h]
    exact .inr rfl
  · exact .inl rfl

/-! ### The channel that takes it -/

theorem rxHeader_id (c : Chan) (f : Flit) : (rxHeader c f).id = c.id := by
  unfold rxHeader
  extract_lets more fresh c1
  split
  · rfl
  · split <;> rfl

/-- What a header leaves of a channel (R296, R297). -/
theorem rxHeader_keeps (c : Chan) (f : Flit) : (rxHeader c f).port = c.port ∧ (rxHeader c f).peer = c.peer
    ∧ (rxHeader c f).rxX = c.rxX ∧ (rxHeader c f).held = c.held ∧ (rxHeader c f).asm = c.asm
    ∧ (rxHeader c f).active = c.active ∧ (rxHeader c f).waiting = c.waiting ∧ (rxHeader c f).freed = c.freed
    ∧ (rxHeader c f).unacked = c.unacked.filter (fun t => !ackedBy f.ack t.x)
    ∧ (rxHeader c f).markDue = c.markDue ∧ (rxHeader c f).nextX = c.nextX
    ∧ ((f.credit + 4096 - c.credSeen) % 4096 ≤ 1000 → (rxHeader c f).credSeen = f.credit) := by
  unfold rxHeader
  extract_lets more fresh c1
  have hc : (f.credit + 4096 - c.credSeen) % 4096 ≤ 1000 → c1.credSeen = f.credit := fun h => if_pos (by simpa [fresh, more] using h)
  split
  · exact ⟨rfl, rfl, rfl, rfl, rfl, rfl, rfl, rfl, rfl, rfl, rfl, hc⟩
  · split
    · exact ⟨rfl, rfl, rfl, rfl, rfl, rfl, rfl, rfl, rfl, rfl, rfl, hc⟩
    · exact ⟨rfl, rfl, rfl, rfl, rfl, rfl, rfl, rfl, rfl, rfl, rfl, hc⟩

/-- What follows the header of a flit: messages that were early, slots whose consumer may take them, messages whose flits are
acknowledged, and flits that may leave now. -/
def State.settle (s : State) (id : Nat) : State :=
  (((State.arriveEarly (s.link.early.length + 1) s).handOver).freeSent id).pump id

theorem State.settle_fixed {s0 s : State} (id : Nat) (h0 : s0.FixedAs s) : s0.FixedAs (s.settle id) := by
  unfold State.settle
  exact .rest (State.pump_rest _ (.refl _)) (.rest (State.freeSent_rest _ (.refl _))
    (State.handOver_fixed (State.arriveEarly_fixed _ h0)))

/-- A flit that carries no data on a channel in use. -/
theorem State.rxFlit_of_control {s : State} {id : Nat} {c : Chan} {f : Flit} (ps : Option Nat) (hc : s.chan id = some c)
    (hk : f.kind ≠ 1) : s.rxFlit id f ps
      = ((if f.mark then s.rxMark c f ps else s).onChan id (fun _ => rxHeader c f)).settle id := by
  unfold State.rxFlit
  rw [hc]
  dsimp only
  rw [if_neg hk]
  rfl

/-- The state once a good flit has been taken. -/
def State.heardFlit (s : State) (c : Chan) (f : Flit) (ps : Option Nat) : State :=
  if c.active then (s.gotFlit c.port).rxFlit c.id f ps else s.gotFlit c.port

theorem State.onFlit_of_good {s : State} {c : Chan} {b : Bytes} {f : Flit} {ps : Option Nat} {right : Flit → Bool}
    (g : State → Chan → Flit → State) (hc : s.chan c.id = some c) (hh : s.hears c.port = true) (hp : parseFlit b = some f)
    (hr : right f = true) : s.onFlit c.id b ps right g
      = g (s.heardFlit c f ps) (((s.heardFlit c f ps).chan c.id).getD c) f := by
  simp only [State.onFlit, hc, hh, hp, hr]
  rfl

theorem State.rxMark_link (s : State) (c : Chan) (f : Flit) (ps : Option Nat) : (s.rxMark c f ps).link = s.link :=
  (State.rxMark_same (F := fun x => x = .free ∨ x = .stitch) c f ps (.refl s) (.inl rfl) (.inr rfl)).link (by simp)

/-- On an uplink a mark changes nothing (R312). -/
theorem State.rxMark_of_uplink {s : State} {c : Chan} (f : Flit) (ps : Option Nat) (h : 31 ≤ c.id) : s.rxMark c f ps = s := by
  have hd : decide (c.id < 31) = false := decide_eq_false (by omega)
  simp [State.rxMark, hd]

section
variable {s : State} {c : Chan} {f : Flit} (ps : Option Nat) (hc : s.chan c.id = some c) (hk : f.kind ≠ 1)
include hc hk

theorem State.heardFlit_eq : s.heardFlit c f ps = s.gotFlit c.port ∧ c.active = false ∨ c.active = true ∧ s.heardFlit c f ps
    = ((if f.mark then (s.gotFlit c.port).rxMark c f ps else s.gotFlit c.port).onChan c.id
      (fun _ => rxHeader c f)).settle c.id := by
  rw [State.heardFlit]
  cases h : c.active with
  | false => exact .inl ⟨rfl, rfl⟩
  | true => exact .inr ⟨rfl, State.rxFlit_of_control ps ((s.gotFlit_chan c.port c.id).trans hc) hk⟩

/-- The channel that took a flit without data. -/
theorem State.heardFlit_chan : ∃ e, (s.heardFlit c f ps).chan c.id = some e
    ∧ e.fixed = (if c.active then rxHeader c f else c).fixed := by
  rcases State.heardFlit_eq ps hc hk with ⟨e, h⟩ | ⟨h, e⟩
  · exact ⟨c, by rw [e, State.gotFlit_chan, hc], by rw [h]; rfl⟩
  · let u := if f.mark then (s.gotFlit c.port).rxMark c f ps else s.gotFlit c.port
    have hl : u.link = (s.gotFlit c.port).link := by
      simp only [u]
      split
      · exact State.rxMark_link _ _ _ _
      · rfl
    have hu : u.chan c.id = some c := by
      rw [State.chan, hl]
      exact (s.gotFlit_chan c.port c.id).trans hc
    have hv : (u.onChan c.id (fun _ => rxHeader c f)).chan c.id = some (rxHeader c f) :=
      State.chan_setChan hu (rxHeader_id c f)
    obtain ⟨x, hx, hf⟩ := (State.settle_fixed c.id (.refl _)).chan_some hv
    rw [e]
    exact ⟨x, hx, by rw [h]; exact hf⟩

theorem State.heardFlit_ports : (s.heardFlit c f ps).link.ports = (s.gotFlit c.port).link.ports := by
  rcases State.heardFlit_eq ps hc hk with ⟨e, h⟩ | ⟨h, e⟩
  · rw [e]
  · rw [e, (State.settle_fixed c.id (.refl _)).ports]
    change (ite _ _ _ : State).link.ports = _
    split
    · exact congrArg LinkSt.ports (State.rxMark_link _ _ _ _)
    · rfl

/-- The stitch reference stays as it is where the flit carries no mark of the member's reference (R312). -/
theorem State.heardFlit_stitch (hm : c.active = false ∨ f.mark = false ∨ 31 ≤ c.id) :
    (s.heardFlit c f ps).stitch = s.stitch := by
  have hg : (s.gotFlit c.port).stitch = s.stitch :=
    (State.goodFlit_same (F := (· = .link)) c.port (.refl (s.charge 9 1)) rfl).stitch (by simp)
  have hsettle (u : State) : (u.settle c.id).stitch = u.stitch := by
    unfold State.settle
    have h1 := State.arriveEarly_same (F := (· ≠ .stitch)) (u.link.early.length + 1) (.refl u) nofun nofun nofun nofun nofun
      nofun
    have h2 := State.handOver_same (F := (· ≠ .stitch)) h1 nofun nofun nofun nofun nofun nofun nofun nofun
    have h3 := State.freeSent_same (F := (· ≠ .stitch)) c.id h2 nofun nofun nofun nofun nofun nofun
    exact (State.pump_same (F := (· ≠ .stitch)) c.id h3 nofun nofun nofun).stitch (by simp)
  rcases State.heardFlit_eq ps hc hk with ⟨e, h⟩ | ⟨h, e⟩
  · rw [e, hg]
  · rw [e, hsettle]
    have hu : (if f.mark then (s.gotFlit c.port).rxMark c f ps else s.gotFlit c.port) = s.gotFlit c.port := by
      split
      · next hmk =>
        rcases hm with hm | hm | hm
        · rw [h] at hm
          exact absurd hm (by decide)
        · rw [hm] at hmk
          exact absurd hmk (by decide)
        · exact State.rxMark_of_uplink _ _ hm
      · rfl
    rw [hu]
    exact hg

end

/-- What the reception of a flit touches. -/
def flitTouch : Touch → Prop
  | .free | .regs | .pool | .stitch | .memp | .hamper | .link | .power => True
  | .lists _ => True
  | _ => False

theorem State.gotFlit_same {F : Touch → Prop} (s : State) (p : Nat) (hl : F .link) (hp : F .power) : s.Same F (s.gotFlit p) :=
  State.goodFlit_same p (State.charge_same 9 1 (.refl s) hp) hl

theorem State.heardFlit_same (s : State) (c : Chan) (f : Flit) (ps : Option Nat) : s.Same flitTouch (s.heardFlit c f ps) := by
  have h := s.gotFlit_same (F := flitTouch) c.port trivial trivial
  unfold State.heardFlit
  split
  · exact State.rxFlit_same _ _ _ h trivial trivial trivial trivial trivial trivial (fun _ => trivial) trivial trivial
  · exact h

end Sys2Proof.Machine
end

section
/-! SUPPORT. HELLO, PROBE and RETIRE (R301 to R307; O42). -/

-- One declaration after another: the check bounds the memory, and with it the threads.
set_option Elab.async false

namespace Sys2Proof.Machine

theorem stage_of_state {x : Port} {n : Nat} (h : x.state = n) (hn : n ≠ 6) : stage x = n := by
  rw [stage, if_neg (by omega), h]

theorem state_of_stage {x : Port} (h5 : stage x ≤ 5) : x.state ≠ 7 := by
  intro h7
  rw [stage_of_state h7 (by decide)] at h5
  omega

theorem stage_failRun (x : Port) : stage { x with failRun := 0 } = stage x := rfl

section
variable {s : State} {p : Nat} (hst : stage (s.port p) ≠ 2)
include hst

theorem State.gotFlit_port_state (q : Nat) : ((s.gotFlit p).port q).state = (s.port q).state
    ∧ ((s.gotFlit p).port q).absent = (s.port q).absent ∧ ((s.gotFlit p).port q).mode = (s.port q).mode
    ∧ stage ((s.gotFlit p).port q) = stage (s.port q) ∧ ((s.gotFlit p).port q).probes = (s.port q).probes := by
  rcases State.gotFlit_port hst q with h | h
  · rw [h]
    exact ⟨rfl, rfl, rfl, rfl, rfl⟩
  · rw [h]
    exact ⟨rfl, rfl, rfl, rfl, rfl⟩

end

theorem State.gotFlit_length (s : State) (p : Nat) : (s.gotFlit p).link.ports.length = s.link.ports.length := by
  obtain ⟨f, e, -⟩ := (s.charge 9 1).goodFlit_eq p
  rw [State.gotFlit, e]
  simp [State.onPort]

theorem Chan.fields_of_fixed {e c : Chan} (h : e.fixed = c.fixed) : e.port = c.port ∧ e.peer = c.peer ∧ e.rxX = c.rxX
    ∧ e.held = c.held ∧ e.credSeen = c.credSeen ∧ e.missing = c.missing ∧ e.asm = c.asm ∧ e.active = c.active := by
  simp only [Chan.fixed, Chan.rest, Chan.mk.injEq] at h
  obtain ⟨-, h2, h3, -, -, -, -, -, -, -, h11, -, h13, h14, h15, -, h17, -, -, h20, -⟩ := h
  exact ⟨h2, h3, h13, h14, h11, h15, h17, h20⟩

/-- What a flit without data leaves of its channel. -/
theorem State.heardFlit_fields {s : State} {c : Chan} {f : Flit} (ps : Option Nat) (hc : s.chan c.id = some c)
    (hk : f.kind ≠ 1) : ∃ e, (s.heardFlit c f ps).chan c.id = some e ∧ e.id = c.id ∧ e.port = c.port ∧ e.peer = c.peer
      ∧ e.rxX = c.rxX ∧ e.held = c.held
      ∧ (c.active = true → (f.credit + 4096 - c.credSeen) % 4096 ≤ 1000 → e.credSeen = f.credit) := by
  obtain ⟨e, he, hf⟩ := State.heardFlit_chan ps hc hk
  obtain ⟨h1, h2, h3, h4, -, -, -, -, -, -, -, h5⟩ := rxHeader_keeps c f
  refine ⟨e, he, State.chan_id he, ?_⟩
  obtain ⟨g2, g3, g4, g5, g6, -⟩ := Chan.fields_of_fixed hf
  cases h : c.active with
  | false =>
    rw [if_neg (by simp [h])] at g2 g3 g4 g5
    exact ⟨g2, g3, g4, g5, nofun⟩
  | true =>
    rw [if_pos h] at g2 g3 g4 g5 g6
    exact ⟨g2.trans h1, g3.trans h2, g4.trans h3, g5.trans h4, fun _ hcr => g6.trans (h5 hcr)⟩

theorem kind_of_control {k : Nat} {f : Flit} (h : isControl k f = true) : f.kind ≠ 1 := by
  rw [isControl, Bool.and_eq_true, beq_iff_eq] at h
  omega

section
variable {s : State} {c : Chan} {f : Flit} {b : Bytes} (hc : s.chan c.id = some c) (hh : s.hears c.port = true)
include hc hh

/-- A flit that retires its port. -/
theorem retires_of_heard {ps : Option Nat} {k n : Nat} (hl : c.port < s.link.ports.length)
    (ha : (s.port c.port).absent = false) (hk : isControl k f = true) (h3 : 3 ≤ stage (s.port c.port)) :
    (((s.heardFlit c f ps).retirePort c.port n).port c.port).state = 7
      ∧ (((s.heardFlit c f ps).retirePort c.port n).port c.port).fail = n := by
  have hports := State.heardFlit_ports ps hc (kind_of_control hk)
  have hport (q : Nat) : (s.heardFlit c f ps).port q = (s.gotFlit c.port).port q := by rw [State.port, hports, State.port]
  obtain ⟨h1, h2, -⟩ := State.gotFlit_port_state (s := s) (p := c.port) (by omega) c.port
  have hst : stage (s.port c.port) ≤ 5 := by
    simp only [State.hears, Bool.and_eq_true, decide_eq_true_eq] at hh
    exact hh.2
  obtain ⟨h7, hn, -⟩ := State.retirePort_spec (s := s.heardFlit c f ps) (p := c.port) n
    (by rw [hports, State.gotFlit_length]; exact hl) (by rw [hport, h1]; exact state_of_stage hst)
    (by rw [hport, h2]; exact ha)
  exact ⟨h7, hn⟩

variable (hp : parseFlit b = some f)
include hp

/-- A HELLO of a port that waits for one. -/
theorem exec_hello_of_heard (hk : isControl 2 f = true) (h3 : stage (s.port c.port) = 3) : ∃ e,
    (s.heardFlit c f none).chan c.id = some e ∧ e.port = c.port ∧ e.peer = c.peer ∧ exec (.hello c.id b) s = .next
      (if !(decide (fld f.payload 2 1 = s.hdrF 0x18 1) && decide (fld f.payload 3 1 = c.peer / 32)
          && decide (fld f.payload 4 1 = c.peer % 32) && (decide (31 ≤ c.port) || decide (fld f.payload 5 1 = 30 - c.port)))
        then (s.heardFlit c f none).retirePort c.port 6
        else if fld f.payload 6 1 ≠ (s.port c.port).mode then (s.heardFlit c f none).retirePort c.port 7
        else (s.heardFlit c f none).helloOk c.id e f.payload) := by
  have hk1 := kind_of_control hk
  obtain ⟨e, he, -, hep, hpe, -⟩ := State.heardFlit_fields none hc hk1
  have hport (q : Nat) : (s.heardFlit c f none).port q = (s.gotFlit c.port).port q := by
    rw [State.port, State.heardFlit_ports none hc hk1, State.port]
  obtain ⟨-, -, hmode, hstage, -⟩ := State.gotFlit_port_state (s := s) (p := c.port) (by omega) c.port
  have hhdr (o n : Nat) : (s.heardFlit c f none).hdrF o n = s.hdrF o n := by
    rw [State.hdrF, (s.heardFlit_same c f none).img id, State.hdrF]
  refine ⟨e, he, hep, hpe, ?_⟩
  refine (congrArg Host.Outcome.next (State.onFlit_of_good _ hc hh hp hk) : exec (.hello c.id b) s = _).trans ?_
  simp only [he, Option.getD_some, hep, hpe, hport, hmode, hstage, h3, hhdr]
  rfl

end

theorem State.reviveDead_links (u : State) : u.reviveDead.link.chans = u.link.chans
    ∧ u.reviveDead.link.ports = u.link.ports ∧ u.reviveDead.mem = u.mem := ⟨rfl, rfl, rfl⟩

/-- A HELLO that agrees, on a channel that was never in use (R303). -/
theorem State.helloOk_first {u : State} {id : Nat} {c : Chan} {pl : Bytes} (hc : u.chan id = some c)
    (hwas : c.wasActive = false) (hrun : c.helloRun < 15) : ∃ e, (u.helloOk id c pl).chan id = some e
      ∧ e.session = some (fld pl 8 2) ∧ e.credits = fld pl 10 2 ∧ e.lastHello = pl.take 12
      ∧ (u.helloOk id c pl).link.ports = u.link.ports ∧ (u.helloOk id c pl).mem = u.mem := by
  unfold State.helloOk
  extract_lets ses share isNew sc flying mg s1 first agree run s2 s3 ok s4 s5
  have hnew : isNew = false := by simp [isNew, hwas]
  have hr : ¬16 ≤ run := by
    unfold run
    split <;> omega
  have hok : ok = false := by simp [ok, hr, hwas]
  have h5 : s5 = s3 := by simp only [s5, s4, hok, Bool.false_and, Bool.false_eq_true, if_false]
  have h1 : s1 = u := if_neg (by simp [hnew])
  rw [if_neg (fun h => hr h.2), if_neg (by simp [hok]), h5]
  obtain ⟨k1, k2, k3⟩ := s2.reviveDead_links
  have h2 := State.chan_onChan_self (f := fun x => { x with
    session := some ses, peerPort := fld pl 5 1, lastHello := pl.take 12, helloRun := run, peerShare := share
    credits := if first then share else if x.unacked.isEmpty then x.credits + share - x.peerShare else x.credits })
    (fun _ => rfl) (h1.symm ▸ hc)
  refine ⟨_, (?_ : s3.chan id = s2.chan id).trans h2, rfl, if_pos (by simp [first, hwas]), rfl, k2.trans ?_, k3.trans ?_⟩
  · rw [State.chan, k1, State.chan]
  · change s1.link.ports = _
    rw [h1]
  · change s1.mem = _
    rw [h1]

/-! ### PROBE -/

theorem State.rehome_reportDue (u : State) : u.rehome.link.reportDue = u.link.reportDue := by
  unfold State.rehome
  split
  · rfl
  · extract_lets moves ids s1 s2
    split
    · rfl
    · exact foldl_view (fun s => s.link.reportDue) _ (fun s id => (State.sendHello_rest id (.refl s)).reportDue) _ _

/-- The 64th PROBE reply brings the port ACTIVE (R304). -/
theorem State.portUp_spec {u : State} {p : Nat} (hl : p < u.link.ports.length) :
    ((u.portUp p).port p).state = 5 ∧ (u.portUp p).link.reportDue = true := by
  unfold State.portUp
  extract_lets x rtt long wait s1 s2 s3
  have h2 : s2.link = s1.link := by
    unfold s2
    split
    · exact State.raise_link _ _ _
    · rfl
  have h3 : s2.PortsAs s3 := .foldl _ (fun s q => State.chooseRelay_portsAs s q q) _ _
  have hall : s2.PortsAs s3.oweReport.rehome.pumpAll :=
    h3.trans ((State.PortsAs.ofPorts (t := s3.oweReport) rfl).trans ((State.rehome_portsAs _).trans
      (.ofPorts (State.pumpAll_rest (.refl _)).ports)))
  refine ⟨?_, ?_⟩
  · rw [(hall p).1, State.port, h2]
    exact congrArg Port.state (State.port_onPort_self hl _)
  · rw [(State.pumpAll_rest (.refl _)).reportDue, State.rehome_reportDue]
    rfl

/-- With no slot held, no message early and no flit waiting, what follows a header frees messages alone. -/
theorem State.settle_quiet {s : State} {id : Nat} {c : Chan} (hc : s.chan id = some c) (hw : c.waiting = [])
    (hslots : s.link.slots = []) (hearly : s.link.early = []) : ∃ l, (s.settle id).link = { s.link with sent := l } := by
  have h1 : State.arriveEarly (s.link.early.length + 1) s = s := by
    rw [hearly]
    simp [State.arriveEarly, hearly]
  have h2 : s.handOver = s := by simp [State.handOver, hslots]
  have h3 : ∃ l, (s.freeSent id).link = { s.link with sent := l } := by
    rw [State.freeSent, hc]
    exact ⟨_, foldl_view (fun s => s.link) _ State.releaseId_link _ _⟩
  obtain ⟨l, hl⟩ := h3
  have hc3 : (s.freeSent id).chan id = some c := by
    rw [State.chan, hl]
    exact hc
  rw [State.settle, h1, h2]
  refine ⟨l, (?_ : _ = (s.freeSent id).link).trans hl⟩
  rw [State.pump, hc3]
  simp [hw, pickFlits]

/-- A flit without data that leaves nothing to settle. -/
theorem State.heardFlit_quiet {s : State} {c : Chan} {f : Flit} (ps : Option Nat) (hc : s.chan c.id = some c)
    (hh : s.hears c.port = true) (hk : f.kind ≠ 1) (hw : c.waiting = []) (hslots : s.link.slots = [])
    (hearly : s.link.early = []) (h2 : stage (s.port c.port) ≠ 2) : ∃ e, (s.heardFlit c f ps).chan c.id = some e
      ∧ e.port = c.port ∧ e.markDue = c.markDue ∧ (∀ k o pl, chanFlit e k o pl = chanFlit c k o pl)
      ∧ (s.heardFlit c f ps).link.frames = s.link.frames ∧ (s.heardFlit c f ps).hears e.port = true := by
  obtain ⟨ps', hg⟩ := s.gotFlit_link c.port
  have hhears (u : State) (hb : u.boot = s.boot) (hu : u.link.ports = (s.gotFlit c.port).link.ports) :
      u.hears c.port = true := by
    have hport : u.port c.port = (s.gotFlit c.port).port c.port := by rw [State.port, hu, State.port]
    obtain ⟨-, -, -, g4, -⟩ := State.gotFlit_port_state h2 c.port
    rw [← hh, State.hears, hport, g4, hb, State.hears]
  have hears := hhears _ ((s.heardFlit_same c f ps).boot id) (State.heardFlit_ports ps hc hk)
  rcases State.heardFlit_eq ps hc hk with ⟨e, -⟩ | ⟨-, e⟩
  · rw [e] at hears ⊢
    exact ⟨c, (s.gotFlit_chan _ _).trans hc, rfl, rfl, fun _ _ _ => rfl, by rw [hg], hears⟩
  · let u := (if f.mark then (s.gotFlit c.port).rxMark c f ps else s.gotFlit c.port).onChan c.id (fun _ => rxHeader c f)
    obtain ⟨h1, -, h3, -, -, -, h7, h8, -, h10, h11, -⟩ := rxHeader_keeps c f
    have hul : u.link = { s.link with ports := ps', chans := u.link.chans } := by
      have hl : (if f.mark then (s.gotFlit c.port).rxMark c f ps else s.gotFlit c.port).link
          = { s.link with ports := ps' } := by
        split
        · rw [State.rxMark_link, hg]
        · exact hg
      simp only [u, State.onChan, hl]
    have hu : u.chan c.id = some (rxHeader c f) := by
      have hl : (if f.mark then (s.gotFlit c.port).rxMark c f ps else s.gotFlit c.port).chan c.id = some c := by
        split
        · rw [State.chan, State.rxMark_link]
          exact (s.gotFlit_chan _ _).trans hc
        · exact (s.gotFlit_chan _ _).trans hc
      exact State.chan_setChan hl (rxHeader_id c f)
    obtain ⟨l, hl⟩ := State.settle_quiet hu (h7.trans hw) (by rw [hul]; exact hslots) (by rw [hul]; exact hearly)
    rw [e] at hears ⊢
    refine ⟨rxHeader c f, ?_, h1, h10, fun k o pl => ?_, ?_, h1.symm ▸ hears⟩
    · rw [State.chan, hl]
      exact hu
    · rw [chanFlit, h3, h7, h8, h11, chanFlit]
    · rw [hl, hul]

section
variable {s : State} {c : Chan} {f : Flit} {b : Bytes} (hc : s.chan c.id = some c) (hh : s.hears c.port = true)
  (hp : parseFlit b = some f)
include hc hh hp

/-- A PROBE request is answered (R304). -/
theorem probe_of_request (hk : isControl 5 f = true) (hq : fld f.payload 1 1 = 0) (hid : c.id < 31) (hw : c.waiting = [])
    (hm : c.markDue = false) (hslots : s.link.slots = []) (hearly : s.link.early = []) (h5 : (s.port c.port).state = 5)
    (rt : Nat) : answers (.probe c.id b rt) s (fun t => t.link.frames
      = s.link.frames ++ [(c.port, flitBytes (chanFlit c 2 8 ([5, 1] ++ zeros 6 ++ slice f.payload 8 8)))] ∧ poolOnly s t) := by
  let u := s.heardFlit c f none
  obtain ⟨e, he, hep, hem, hfl, hframes, hears⟩ := State.heardFlit_quiet none hc hh (kind_of_control hk) hw hslots hearly
    (by rw [stage_of_state h5 (by decide)]; decide)
  have e1 : exec (.probe c.id b rt) s = .next (u.control c.id ([5, 1] ++ zeros 6 ++ slice f.payload 8 8)) := by
    refine (congrArg Host.Outcome.next (State.onFlit_of_good _ hc hh hp hk) : exec (.probe c.id b rt) s = _).trans ?_
    rw [if_pos hq]
  obtain ⟨o, e2⟩ := State.control_one ([5, 1] ++ zeros 6 ++ slice f.payload 8 8) he hid hears (hem.trans hm)
  refine answers_of_exec e1 ⟨?_, (exec_same (F := linkTouch) (by simp [State.allows, linkTouch]) e1).poolOnly id id⟩
  rw [e2, ← hfl, ← hep, ← hframes]
  rfl

/-- The 64th PROBE reply (R304). -/
theorem probe_of_reply (hl : c.port < s.link.ports.length) (hk : isControl 5 f = true) (hq : fld f.payload 1 1 = 1)
    (h4 : (s.port c.port).state = 4) (h63 : (s.port c.port).probes.length = 63) (rt : Nat) :
    answers (.probe c.id b rt) s (fun t => (t.port c.port).state = 5 ∧ t.link.reportDue = true ∧ poolOnly s t) := by
  have hk1 := kind_of_control hk
  let u := s.heardFlit c f none
  obtain ⟨e, he, -, hep, -⟩ := State.heardFlit_fields none hc hk1
  have hst : stage (s.port c.port) = 4 := stage_of_state h4 (by decide)
  have hports := State.heardFlit_ports none hc hk1
  have hport (q : Nat) : u.port q = (s.gotFlit c.port).port q := by rw [State.port, hports, State.port]
  obtain ⟨-, -, -, g4, g5⟩ := State.gotFlit_port_state (s := s) (p := c.port) (by omega) c.port
  have e1 : exec (.probe c.id b rt) s
      = .next ((u.onPort c.port (fun x => { x with probes := x.probes ++ [rt] })).portUp c.port) := by
    refine (congrArg Host.Outcome.next (State.onFlit_of_good _ hc hh hp hk) : exec (.probe c.id b rt) s = _).trans ?_
    simp only [he, Option.getD_some, hep]
    rw [if_neg (by omega)]
    refine congrArg Host.Outcome.next ((if_pos (by rw [hport, g4, hst])).trans (if_pos ?_))
    rw [hport, g5, h63]
  have hul : c.port < (u.onPort c.port (fun x => { x with probes := x.probes ++ [rt] })).link.ports.length := by
    simp only [State.onPort, length_setAt]
    rw [hports, State.gotFlit_length]
    exact hl
  obtain ⟨h5, hdue⟩ := State.portUp_spec hul
  exact answers_of_exec e1 ⟨h5, hdue, (exec_same (F := linkTouch) (by simp [State.allows, linkTouch]) e1).poolOnly id id⟩

end

/-! ### HELLO and RETIRE -/

theorem exec_hello_of_known {s : State} {c : Chan} {f : Flit} {b : Bytes} (hc : s.chan c.id = some c)
    (hh : s.hears c.port = true) (hp : parseFlit b = some f)
    (hid : fld f.payload 2 1 = s.hdrF 0x18 1 ∧ fld f.payload 3 1 = c.peer / 32 ∧ fld f.payload 4 1 = c.peer % 32
      ∧ (c.port < 31 → fld f.payload 5 1 = 30 - c.port)) (hk : isControl 2 f = true) (h3 : stage (s.port c.port) = 3) : ∃ e,
    (s.heardFlit c f none).chan c.id = some e ∧ exec (.hello c.id b) s = .next
      (if fld f.payload 6 1 ≠ (s.port c.port).mode then (s.heardFlit c f none).retirePort c.port 7
        else (s.heardFlit c f none).helloOk c.id e f.payload) := by
  obtain ⟨e, he, -, -, e1⟩ := exec_hello_of_heard hc hh hp hk h3
  refine ⟨e, he, e1.trans (congrArg Host.Outcome.next (if_neg ?_))⟩
  obtain ⟨h1, h2, h3, h4⟩ := hid
  by_cases hlt : c.port < 31
  · simp [h1, h2, h3, h4 hlt]
  · simp [h1, h2, h3, Nat.le_of_not_lt hlt]

section
variable {s : State} {c : Chan} {f : Flit} {b : Bytes} (hc : s.chan c.id = some c) (hh : s.hears c.port = true)
  (hl : c.port < s.link.ports.length) (ha : (s.port c.port).absent = false) (hp : parseFlit b = some f)
include hc hh hl ha hp

theorem hello_of_stranger (hk : isControl 2 f = true) (h3 : stage (s.port c.port) = 3)
    (hid : ¬(fld f.payload 2 1 = s.hdrF 0x18 1 ∧ fld f.payload 3 1 = c.peer / 32 ∧ fld f.payload 4 1 = c.peer % 32
      ∧ (c.port < 31 → fld f.payload 5 1 = 30 - c.port))) : answers (.hello c.id b) s (fun t =>
    (t.port c.port).state = 7 ∧ (t.port c.port).fail = 6 ∧ poolOnly s t) := by
  obtain ⟨e, -, -, -, e1⟩ := exec_hello_of_heard hc hh hp hk h3
  rw [if_pos] at e1
  · obtain ⟨h7, h6⟩ := retires_of_heard (ps := none) (n := 6) hc hh hl ha hk (by omega)
    exact answers_of_exec e1 ⟨h7, h6, (exec_same (F := linkTouch) (by simp [State.allows, linkTouch]) e1).poolOnly id id⟩
  · simp only [Bool.not_eq_true', Bool.and_eq_false_iff, decide_eq_false_iff_not, Bool.or_eq_false_iff]
    by_contra h
    push Not at h
    obtain ⟨⟨⟨h1, h2⟩, h3⟩, h4⟩ := h
    exact hid ⟨h1, h2, h3, fun hlt => h4 (by omega)⟩

section
variable (hid : fld f.payload 2 1 = s.hdrF 0x18 1 ∧ fld f.payload 3 1 = c.peer / 32 ∧ fld f.payload 4 1 = c.peer % 32
      ∧ (c.port < 31 → fld f.payload 5 1 = 30 - c.port))
include hid

theorem hello_of_wrong_mode (hk : isControl 2 f = true) (h3 : stage (s.port c.port) = 3)
    (hm : fld f.payload 6 1 ≠ (s.port c.port).mode) : answers (.hello c.id b) s (fun t =>
    (t.port c.port).state = 7 ∧ (t.port c.port).fail = 7 ∧ poolOnly s t) := by
  obtain ⟨e, -, e1⟩ := exec_hello_of_known hc hh hp hid hk h3
  rw [if_pos hm] at e1
  obtain ⟨h7, h6⟩ := retires_of_heard (ps := none) (n := 7) hc hh hl ha hk (by omega)
  exact answers_of_exec e1 ⟨h7, h6, (exec_same (F := linkTouch) (by simp [State.allows, linkTouch]) e1).poolOnly id id⟩

omit hl ha in
theorem hello_of_first (hk : isControl 2 f = true) (h3 : (s.port c.port).state = 3)
    (hm : fld f.payload 6 1 = (s.port c.port).mode) (hact : c.active = false) (hwas : c.wasActive = false)
    (hrun : c.helloRun < 15) : answers (.hello c.id b) s (fun t => ∃ e, t.chan c.id = some e
      ∧ e.session = some (fld f.payload 8 2) ∧ e.credits = fld f.payload 10 2 ∧ e.lastHello = f.payload.take 12
      ∧ (t.port c.port).state = 3 ∧ t.mem = s.mem) := by
  have hst : stage (s.port c.port) = 3 := stage_of_state h3 (by decide)
  obtain ⟨e, he, e1⟩ := exec_hello_of_known hc hh hp hid hk hst
  rw [if_neg (not_not.mpr hm)] at e1
  have hu : s.heardFlit c f none = s.gotFlit c.port := if_neg (by simp [hact])
  rw [hu] at he e1
  rw [State.gotFlit_chan, hc] at he
  obtain rfl := Option.some.inj he
  obtain ⟨x, hx, h4, h5, h6, h7, h8⟩ := State.helloOk_first (pl := f.payload) ((s.gotFlit_chan c.port c.id).trans hc) hwas hrun
  refine answers_of_exec e1 ⟨x, hx, h4, h5, h6, ?_, h8.trans ((s.gotFlit_same (F := fun x => x = .link ∨ x = .power) c.port
    (.inl rfl) (.inr rfl)).mem (by simp) (by simp))⟩
  rw [State.port, h7]
  exact (State.gotFlit_port_state (s := s) (p := c.port) (by omega) c.port).1.trans h3

end

theorem retire_of_peer (hk : isControl 6 f = true) (hid : c.id < 31) (h5 : (s.port c.port).state = 5) :
    answers (.retire c.id b) s (fun t => (t.port c.port).state = 7 ∧ (t.port c.port).fail = 5 ∧ poolOnly s t) := by
  obtain ⟨e, he, -, hep, -⟩ := State.heardFlit_fields none hc (kind_of_control hk)
  have hst : stage (s.port c.port) = 5 := stage_of_state h5 (by decide)
  have e1 : exec (.retire c.id b) s = .next ((s.heardFlit c f none).retirePort c.port 5) := by
    refine (congrArg Host.Outcome.next (State.onFlit_of_good _ hc hh hp hk) : exec (.retire c.id b) s = _).trans ?_
    rw [he, Option.getD_some, State.chan_id he, if_pos hid, hep]
  obtain ⟨h7, h6⟩ := retires_of_heard (ps := none) (n := 5) hc hh hl ha hk (by omega)
  exact answers_of_exec e1 ⟨h7, h6, (exec_same (F := linkTouch) (by simp [State.allows, linkTouch]) e1).poolOnly id id⟩

end

/-- A HELLO leaves (R303). -/
theorem helloSend_of_hello {s : State} {c : Chan} (hc : s.chan c.id = some c) (hid : c.id < 31) (hh : s.hears c.port = true)
    (h3 : stage (s.port c.port) = 3) : answers (.helloSend c.id) s (fun t =>
      t.link.frames.length = s.link.frames.length + 1 ∧ t.mem = s.mem ∧ t.regs = s.regs) := by
  have e : exec (.helloSend c.id) s = .next (s.sendHello c.id) := by
    change execHelloSend c.id s = _
    simp only [execHelloSend, hc]
    exact if_pos (.inl h3)
  have hsame := State.sendHello_same (F := fun x => x = .free ∨ x = .link ∨ x = .power) c.id (.refl s) (by simp) (by simp)
    (by simp)
  refine answers_of_exec e ⟨?_, hsame.mem (by simp) (by simp), hsame.regs (by simp)⟩
  simp only [State.sendHello, hc, State.control, if_pos hh]
  exact State.drive_length s _ hid

/-- Settles O42: the HELLOs by what they say, the PROBEs, RETIRE and the HELLO that leaves. -/
theorem helloAndProbeComplete : Obligations.HelloAndProbeComplete := by
  refine ⟨fun s c f b hc hh hl ha hp => ?_, fun s c hc hid hh h3 => helloSend_of_hello hc hid hh h3⟩
  intro id keeps
  exact ⟨fun hk h3 hid => hello_of_stranger hc hh hl ha hp hk h3 hid,
    fun hk h3 hid hm => hello_of_wrong_mode hc hh hl ha hp hid hk h3 hm,
    fun hk h3 hid hm hact hwas hrun => hello_of_first hc hh hp hid hk h3 hm hact hwas hrun,
    fun hk hid h5 => retire_of_peer hc hh hl ha hp hk hid h5,
    fun hk hq hid hw hm hslots hearly h5 rt => probe_of_request hc hh hp hk hq hid hw hm hslots hearly h5 rt,
    fun hk hq h4 h63 rt => probe_of_reply hc hh hp hl hk hq h4 h63 rt⟩

end Sys2Proof.Machine
end

section
/-! SUPPORT. A channel with no flit waiting sends none of its own accord (R299). -/

-- One declaration after another: the check bounds the memory, and with it the threads.
set_option Elab.async false

namespace Sys2Proof.Machine

/-- The channel has these flits unacknowledged, and none waits. -/
def State.quiet (s : State) (id : Nat) (us : List TxFlit) : Prop :=
  ∃ c, s.chan id = some c ∧ c.unacked = us ∧ c.waiting = []

/-- A channel without a waiting flit keeps what is unacknowledged. -/
def State.QuietAs (s t : State) : Prop := ∀ id us, s.quiet id us → t.quiet id us

namespace State.QuietAs

theorem refl (s : State) : s.QuietAs s := fun _ _ h => h

theorem trans {s t u : State} (h : s.QuietAs t) (k : t.QuietAs u) : s.QuietAs u := fun id us q => k id us (h id us q)

theorem ofChans {s t : State} (h : t.link.chans = s.link.chans) : s.QuietAs t := by
  rintro id us ⟨c, hc, h1, h2⟩
  exact ⟨c, by rw [State.chan, h]; exact hc, h1, h2⟩

theorem ofLink {s t : State} (h : t.link = s.link) : s.QuietAs t := ofChans (congrArg LinkSt.chans h)

theorem ofMap {s t : State} (g : Chan → Chan) (hid : ∀ c, (g c).id = c.id)
    (hg : ∀ c, (g c).unacked = c.unacked ∧ (c.waiting = [] → (g c).waiting = [])) (h : t.link.chans = s.link.chans.map g) :
    s.QuietAs t := by
  rintro id us ⟨c, hc, h1, h2⟩
  exact ⟨g c, by rw [State.chan_of_map g hid h, hc]; rfl, (hg c).1.trans h1, (hg c).2 h2⟩

theorem foldl {α : Type} {s0 s : State} (f : State → α → State) (l : List α)
    (h : ∀ u a, s0.QuietAs u → s0.QuietAs (f u a)) (h0 : s0.QuietAs s) : s0.QuietAs (l.foldl f s) := by
  induction l generalizing s with
  | nil => exact h0
  | cons a l ih => exact ih (h s a h0)

theorem onChan (s : State) (id : Nat) (f : Chan → Chan) (hid : ∀ c, (f c).id = c.id)
    (hf : ∀ c, (f c).unacked = c.unacked ∧ (f c).waiting = c.waiting) : s.QuietAs (s.onChan id f) :=
  ofMap _ (fun c => by split <;> simp [hid]) (fun c => by
    split
    · exact ⟨(hf c).1, fun h => (hf c).2.trans h⟩
    · exact ⟨rfl, fun h => h⟩) rfl

end State.QuietAs

open State.QuietAs in
theorem State.releaseAll_quiet (s : State) (l : List Nat) : s.QuietAs (l.foldl State.releaseId s) :=
  .foldl _ _ (fun u a h => h.trans (ofLink (State.releaseId_link u a))) (.refl s)

theorem State.freeSlots_quiet (s : State) (k n : Nat) : s.QuietAs (s.freeSlots k n) :=
  .onChan s k _ (fun _ => rfl) fun _ => ⟨rfl, rfl⟩

theorem State.dropHolds_quiet (s : State) (f : SlotHold → Bool) : s.QuietAs (s.dropHolds f) := by
  unfold State.dropHolds
  refine .foldl _ _ (fun u h k => k.trans ?_) (.ofChans rfl)
  exact (State.releaseAll_quiet u h.chains).trans (State.freeSlots_quiet _ _ _)

theorem State.arrive_quiet (s : State) (m : Msg) : s.QuietAs (s.arrive m) := by
  unfold State.arrive
  split
  · exact .ofChans rfl
  · extract_lets +onlyGivenNames o
    split
    split
    · exact State.dropHolds_quiet _ _
    · split
      · extract_lets +onlyGivenNames l u
        split
        · exact (State.QuietAs.ofChans rfl).trans ((State.dropHolds_quiet u (holdIs m)).trans
            (.ofLink ((State.markCorrupt_same (F := (· ≠ .link)) m 7 (.refl _) nofun).link (by simp))))
        · split
          · exact (State.QuietAs.ofChans rfl).trans ((State.dropHolds_quiet u (holdIs m)).trans
              (.ofLink (State.bump_link _ _ _)))
          · exact .ofChans rfl
      · exact .ofChans rfl

theorem State.arriveEarly_quiet (n : Nat) (s : State) : s.QuietAs (State.arriveEarly n s) := by
  induction n generalizing s with
  | zero => exact .refl s
  | succ n ih =>
    unfold State.arriveEarly
    extract_lets ms l t
    have ht : s.QuietAs t := .foldl _ _ (fun u m h => h.trans (State.arrive_quiet u m)) (.ofChans rfl)
    split
    · exact .refl s
    · split
      · exact ht
      · exact ht.trans (ih t)

theorem State.emit_quiet (s : State) (c : Chan) (fs : List Flit) : s.QuietAs (s.emit c fs) := by
  unfold State.emit
  exact (State.QuietAs.ofChans rfl).trans (.onChan _ _ _ (fun _ => rfl) fun _ => ⟨rfl, rfl⟩)

theorem State.stamp_quiet (s : State) (c : Chan) (fs : List Flit) : s.QuietAs (s.stamp c fs).2 := by
  unfold State.stamp
  split
  · split
    · exact (State.QuietAs.ofChans rfl).trans (.onChan _ _ _ (fun _ => rfl) fun _ => ⟨rfl, rfl⟩)
    · exact .refl s
  · exact .refl s

theorem State.pump_quiet (s : State) (k : Nat) : s.QuietAs (s.pump k) := by
  rintro id us ⟨c, hc, h1, h2⟩
  by_cases hk : k = id
  · subst hk
    refine ⟨c, ?_, h1, h2⟩
    rw [State.pump, hc]
    simpa [h2, pickFlits] using hc
  · unfold State.pump
    split
    · exact ⟨c, hc, h1, h2⟩
    · extract_lets +onlyGivenNames base places
      split
      extract_lets +onlyGivenNames x
      split
      · exact ⟨c, hc, h1, h2⟩
      · refine State.emit_quiet _ _ _ id us ?_
        obtain ⟨e, he, k1, k2⟩ := s.stamp_quiet _ _ id us ⟨c, hc, h1, h2⟩
        refine ⟨e, ?_, k1, k2⟩
        refine ((State.chan_onChan _ k _ (by intro _; rfl) id).trans (congrArg _ he)).trans ?_
        rw [Option.map_some, if_neg (by rw [State.chan_id he]; exact fun h => hk h.symm)]

theorem State.pumpAll_quiet (s : State) : s.QuietAs s.pumpAll := by
  unfold State.pumpAll
  exact .foldl _ _ (fun u k h => h.trans (State.pump_quiet u k)) (.refl s)

theorem State.moveOn_quiet (s : State) (h : SlotHold) : s.QuietAs (s.moveOn h) := by
  unfold State.moveOn
  split
  · extract_lets m s1 l s2 k s3
    have h2 : s.QuietAs s2 := .ofMap (fun c => { c with waiting := c.waiting.map m.fill }) (fun _ => rfl)
      (fun c => ⟨rfl, fun h => by simp [h]⟩) rfl
    refine .trans ?_ (State.pumpAll_quiet s3)
    unfold s3
    split
    · exact h2.trans (.ofChans rfl)
    · exact h2
  · exact (State.releaseAll_quiet s _).trans (.ofChans rfl)

theorem State.freeHold_quiet (s : State) (h : SlotHold) : s.QuietAs (s.freeHold h) := by
  unfold State.freeHold
  exact (State.QuietAs.ofChans rfl).trans (State.freeSlots_quiet _ _ _)

theorem State.handTransit_quiet (s : State) (h : SlotHold) : s.QuietAs (s.handTransit h) := by
  unfold State.handTransit
  split
  · extract_lets +onlyGivenNames u
    split
    · exact (State.freeHold_quiet s h).trans (.ofChans rfl)
    · exact State.freeHold_quiet s h
  · extract_lets +onlyGivenNames b
    split
    · next e =>
      have ht := State.QuietAs.ofLink ((State.allocStage_same (F := (· ≠ .link)) e (.refl s) nofun nofun nofun nofun
        nofun).link (by simp))
      split
      · exact ht.trans ((State.freeHold_quiet _ _).trans (State.moveOn_quiet _ _))
      · exact ht.trans (State.freeHold_quiet _ _)
    · exact .ofLink ((State.denied_same (F := (· ≠ .link)) false (.refl s) nofun).link (by simp))

theorem State.handRows_quiet (s : State) (h : SlotHold) (q : Pass) (b : Bytes) : s.QuietAs (s.handRows h q b) := by
  unfold State.handRows
  split
  · exact State.freeHold_quiet _ _
  · split
    next e =>
      have hs := State.rowCells_same (F := (· ≠ .link)) h q b (fld b 24 4) (.refl s) nofun nofun nofun nofun nofun
      rw [e] at hs
      exact (State.QuietAs.ofLink (hs.link (by simp))).trans ((State.QuietAs.ofChans rfl).trans (State.freeSlots_quiet _ _ _))

theorem State.handPile_quiet (s : State) (h : SlotHold) (q : Pass) (b : Bytes) : s.QuietAs (s.handPile h q b) := by
  unfold State.handPile
  split
  · exact .refl s
  · split
    · split
      · exact .refl s
      · exact State.freeHold_quiet _ _
    · split
      · exact .refl s
      · split
        · exact State.freeHold_quiet _ _
        · split
          · exact .refl s
          · split
            · next e =>
              exact (State.QuietAs.ofLink ((State.allocStage_same (F := (· ≠ .link)) e (.refl s) nofun nofun nofun nofun
                nofun).link (by simp))).trans (State.freeHold_quiet _ _)
            · exact .ofLink ((State.denied_same (F := (· ≠ .link)) false (.refl s) nofun).link (by simp))

theorem State.handOne_quiet (s : State) (h : SlotHold) : s.QuietAs (s.handOne h) := by
  unfold State.handOne
  extract_lets +onlyGivenNames r b
  split
  · exact .refl s
  · split
    · exact State.handTransit_quiet s h
    · split
      · exact .refl s
      · split
        · split
          · exact State.freeHold_quiet s h
          · split
            · exact State.handPile_quiet s h _ b
            · split
              · exact State.handRows_quiet s h _ b
              · exact State.freeHold_quiet s h
        · split
          · exact .refl s
          · exact State.freeHold_quiet s h

theorem State.handOver_quiet (s : State) : s.QuietAs s.handOver := by
  unfold State.handOver
  refine .foldl _ _ (fun u h k => k.trans (State.handOne_quiet u h)) (.foldl _ _ (fun u h k => k.trans ?_) (.refl s))
  exact .ofLink ((State.noteList_same (F := (· ≠ .link)) h (.refl u) nofun).link (by simp))

theorem State.freeSent_quiet (s : State) (id : Nat) : s.QuietAs (s.freeSent id) := by
  unfold State.freeSent
  split
  · exact .refl _
  · extract_lets first done cells
    exact .foldl _ _ (fun u a h => h.trans (.ofLink (State.releaseId_link u a))) (.ofChans rfl)

theorem State.settle_quietAs (s : State) (id : Nat) : s.QuietAs (s.settle id) :=
  (State.arriveEarly_quiet _ s).trans ((State.handOver_quiet _).trans ((State.freeSent_quiet _ id).trans
    (State.pump_quiet _ id)))

end Sys2Proof.Machine
end

section
/-! SUPPORT. NACK, its timeout and re-sends (R297, R298; O40). -/

-- One declaration after another: the check bounds the memory, and with it the threads.
set_option Elab.async false

namespace Sys2Proof.Machine

section
variable {s : State} {c : Chan} {x n : Nat} (hc : s.chan c.id = some c) (hid : c.id < 31) (hm : c.missing = [(x, n)])
  (hh : s.hears c.port = true)
include hc hid hm hh

omit hm in
/-- A NACK that names one number leaves as one flit (R297). -/
theorem nack_of_count (k : Nat) (hd : c.markDue = false) (f : Chan → Chan) (hf : ∀ y : Chan, f y = { y with missing := (f y).missing })
    (hk : (f c).missing = [(x, k)]) :
    let t := (s.onChan c.id f).control c.id (nackPayload [x])
    (t.chan c.id).map (·.missing) = some [(x, k)]
      ∧ t.link.frames = s.link.frames ++ [(c.port, flitBytes (chanFlit c 2 8 (nackPayload [x])))] ∧ t.mem = s.mem := by
  intro t
  have hfi (y : Chan) : (f y).id = y.id := by rw [hf y]
  have hu := State.chan_onChan_self (f := f) hfi hc
  have hfd : (f c).markDue = false := by rw [hf c]; exact hd
  have hfp : (f c).port = c.port := by rw [hf c]
  have hfc : chanFlit (f c) 2 8 (nackPayload [x]) = chanFlit c 2 8 (nackPayload [x]) := by
    rw [hf c]
    rfl
  obtain ⟨o, e⟩ := State.control_one (nackPayload [x]) hu hid (by rw [hfp]; exact hh) hfd
  refine ⟨?_, ?_, ?_⟩
  · simp only [t]
    rw [e, State.chan_onChan_self (by intro _; rfl) (by exact hu)]
    exact congrArg some hk
  · simp only [t]
    rw [e, hfp, hfc]
    rfl
  · simp only [t]
    rw [e]
    rfl

theorem nackSend_of_missing (hn : n = 0) (hd : c.markDue = false) : answers (.nackSend c.id) s (fun t =>
    (t.chan c.id).map (·.missing) = some [(x, 1)]
      ∧ t.link.frames = s.link.frames ++ [(c.port, flitBytes (chanFlit c 2 8 (nackPayload [x])))] ∧ t.mem = s.mem) := by
  subst hn
  have e : exec (.nackSend c.id) s = .next ((s.onChan c.id (fun c => { c with
      missing := c.missing.map (fun m => if [x].contains m.1 then (m.1, 1) else m) })).control c.id (nackPayload [x])) := by
    change execNackSend c.id s = _
    simp only [execNackSend, hc, hm]
    exact if_neg (by simp [hh])
  exact answers_of_exec e (nack_of_count hc hid hh 1 hd _ (fun _ => rfl) (by simp [hm]))

theorem nackTimeout_of_missing (h1 : 1 ≤ n) (h8 : n < 8) (hd : c.markDue = false) :
    answers (.nackTimeout c.id (x % 65536)) s (fun t => (t.chan c.id).map (·.missing) = some [(x, n + 1)]
      ∧ t.link.frames = s.link.frames ++ [(c.port, flitBytes (chanFlit c 2 8 (nackPayload [x])))] ∧ t.mem = s.mem) := by
  have hfind : [(x, n)].find? (fun m => m.1 % 65536 == x % 65536 && decide (1 ≤ m.2)) = some (x, n) := by simp [h1]
  have e : exec (.nackTimeout c.id (x % 65536)) s = .next ((s.onChan c.id (fun c => { c with
      missing := c.missing.map (fun m => if m.1 = x then (x, n + 1) else m) })).control c.id (nackPayload [x])) := by
    change execNackTimeout c.id (x % 65536) s = _
    simp only [execNackTimeout, hc, hm, hfind]
    exact (if_neg (by simp [hh])).trans (if_neg (by omega))
  exact answers_of_exec e (nack_of_count hc hid hh (n + 1) hd _ (fun _ => rfl) (by simp [hm]))

omit hid in
theorem nackTimeout_of_ninth (h8 : 8 ≤ n) (hl : c.port < s.link.ports.length) (ha : (s.port c.port).absent = false) :
    answers (.nackTimeout c.id (x % 65536)) s (fun t => (t.port c.port).state = 7 ∧ (t.port c.port).fail = 2
      ∧ poolOnly s t) := by
  have hfind : [(x, n)].find? (fun m => m.1 % 65536 == x % 65536 && decide (1 ≤ m.2)) = some (x, n) := by
    simp only [List.find?_cons, beq_self_eq_true, Bool.true_and, decide_eq_true (show 1 ≤ n by omega)]
  have e : exec (.nackTimeout c.id (x % 65536)) s = .next (s.retirePort c.port 2) := by
    change execNackTimeout c.id (x % 65536) s = _
    simp only [execNackTimeout, hc, hm, hfind]
    exact (if_neg (by simp [hh])).trans (if_pos h8)
  have h5 : stage (s.port c.port) ≤ 5 := by
    simp only [State.hears, Bool.and_eq_true, decide_eq_true_eq] at hh
    exact hh.2
  obtain ⟨h7, h2, -⟩ := State.retirePort_spec 2 hl (state_of_stage h5) ha
  exact answers_of_exec e ⟨h7, h2, (exec_same (F := linkTouch) (by simp [State.allows, linkTouch]) e).poolOnly id id⟩

end

/-- A NACK marks the flits that it names (R298). -/
theorem nack_of_named {s : State} {c : Chan} {f : Flit} {b : Bytes} {u : TxFlit} (hc : s.chan c.id = some c)
    (hh : s.hears c.port = true) (hack : ackedBy f.ack u.x = false) (hw : c.waiting = []) (hp : parseFlit b = some f)
    (hk : isControl 1 f = true) (h1 : fld f.payload 2 2 = 1) (hu : c.unacked = [u]) (h9 : u.sends < 9)
    (hx : fld f.payload 16 2 = u.x % 65536) : answers (.nack c.id b) s (fun t =>
      (t.chan c.id).map (·.unacked) = some [{ u with owed := true }] ∧ poolOnly s t) := by
  have hk1 := kind_of_control hk
  have hq : (s.heardFlit c f none).quiet c.id [u] := by
    rcases State.heardFlit_eq none hc hk1 with ⟨e, -⟩ | ⟨-, e⟩
    · rw [e]
      exact ⟨c, (s.gotFlit_chan _ _).trans hc, hu, hw⟩
    · rw [e]
      refine State.settle_quietAs _ _ _ _ ⟨rxHeader c f, ?_, ?_, ?_⟩
      · have hl : (if f.mark then (s.gotFlit c.port).rxMark c f none else s.gotFlit c.port).chan c.id = some c := by
          split
          · rw [State.chan, State.rxMark_link]
            exact (s.gotFlit_chan _ _).trans hc
          · exact (s.gotFlit_chan _ _).trans hc
        exact State.chan_setChan hl (rxHeader_id c f)
      · obtain ⟨-, -, -, -, -, -, -, -, h, -⟩ := rxHeader_keeps c f
        rw [h, hu]
        simp [hack]
      · obtain ⟨-, -, -, -, -, -, h, -⟩ := rxHeader_keeps c f
        rw [h, hw]
  obtain ⟨e, he, heu, -⟩ := hq
  have hseqs : (List.range (min 240 (fld f.payload 2 2))).map (fun i => fld f.payload (16 + 2 * i) 2) = [u.x % 65536] := by
    rw [h1, ← hx]
    rfl
  have e1 : exec (.nack c.id b) s = .next ((s.heardFlit c f none).onChan c.id (fun c => { c with
      unacked := c.unacked.map (fun t => if [u.x % 65536].contains (t.x % 65536) then { t with owed := true } else t) })) := by
    refine (congrArg Host.Outcome.next (State.onFlit_of_good _ hc hh hp hk) : exec (.nack c.id b) s = _).trans ?_
    simp only [he, Option.getD_some, heu, hseqs]
    rw [if_neg (by simp; omega)]
  refine answers_of_exec e1 ⟨?_, (exec_same (F := linkTouch) (by simp [State.allows, linkTouch]) e1).poolOnly id id⟩
  rw [State.chan_onChan_self (by intro _; rfl) he]
  simp [heu]

/-- A flit owed is sent again with its header (R298). -/
theorem resend_of_owed {s : State} {c : Chan} {u : TxFlit} (hc : s.chan c.id = some c) (hid : c.id < 31)
    (ha : s.active c.port = true) (hu : c.unacked = [u]) (ho : u.owed = true) (ht : s.replayUnderTest c.port u.x = false) :
    answers (.resend c.id) s (fun t => (t.chan c.id).map (·.unacked) = some [{ u with owed := false, sends := u.sends + 1 }]
      ∧ t.link.frames = s.link.frames ++ [(c.port, flitBytes { u.flit with resend := true })] ∧ t.mem = s.mem) := by
  let v := (s.onChan c.id (fun c => { c with
    unacked := c.unacked.map (fun y => if y.x = u.x then { y with owed := false, sends := y.sends + 1 } else y) })).bump
      (rLK_RESEND_CNT c.port) 1
  have e : exec (.resend c.id) s = .next (v.drive c [{ u.flit with resend := true }]) := by
    change execResend c.id s = _
    have hf : [u].find? (fun y => y.owed) = some u := by simp [ho]
    simp only [execResend, hc, hu, hf]
    exact if_neg (by simp [ha, ht])
  obtain ⟨o, e2⟩ := State.drive_one (s := v) (c := c) (f := { u.flit with resend := true }) hid (.inr rfl)
  rw [e2] at e
  have hl : v.link = (s.onChan c.id (fun c => { c with
    unacked := c.unacked.map (fun y => if y.x = u.x then { y with owed := false, sends := y.sends + 1 } else y) })).link :=
    State.bump_link _ _ _
  have hv : v.chan c.id = some { c with unacked := [{ u with owed := false, sends := u.sends + 1 }] } := by
    rw [State.chan, hl]
    refine (State.chan_onChan_self (by intro _; rfl) hc).trans ?_
    simp [hu]
  refine answers_of_exec e ⟨?_, ?_, ?_⟩
  · rw [State.chan_onChan_self (by intro _; rfl) (by exact hv)]
    rfl
  · change v.link.frames ++ _ = _
    rw [hl]
    rfl
  · exact State.bump_mem _ _ _

/-- Settles O40: one lemma per command and case. -/
theorem resendsComplete : Obligations.ResendsComplete := by
  refine ⟨fun s c x n hc hid hm hh => ⟨nackSend_of_missing hc hid hm hh, nackTimeout_of_missing hc hid hm hh,
    nackTimeout_of_ninth hc hm hh⟩, fun s c f b u hc hh hack hw hp hk h1 hu h9 hx =>
    nack_of_named hc hh hack hw hp hk h1 hu h9 hx, fun s c u hc hid ha hu ho ht => resend_of_owed hc hid ha hu ho ht⟩

end Sys2Proof.Machine
end

section
/-! SUPPORT. COUNT and TIME flits (R301, R312, R313; O17). -/

-- One declaration after another: the check bounds the memory, and with it the threads.
set_option Elab.async false

namespace Sys2Proof.Machine

theorem State.hears_of_active {s : State} {p : Nat} (ha : s.active p = true) (hr : s.boot.rstLow = false) :
    s.hears p = true := by
  have h5 : stage (s.port p) = 5 := stage_of_state (by simpa [State.active] using ha) (by decide)
  simp [State.hears, hr, h5]

/-- A COUNT leaves (R312). -/
theorem countFlitSend_of_due {s : State} {c : Chan} {port : Nat} (hst : s.stitch.state = 1 ∨ s.stitch.state = 3)
    (hp : port < 31) (ha : s.active port = true) (hr : s.boot.rstLow = false) (hc : s.chan port = some c)
    (hcp : c.port = port) (hm : c.markDue = false) (hd : s.sendDue port s.stitch.marked 64 = true) :
    answers (.countFlitSend port) s (fun t => t.link.frames
        = s.link.frames ++ [(port, flitBytes (chanFlit c 2 8 ([4] ++ zeros 7 ++ toLE 8 s.stitch.marked)))]
      ∧ (port, s.stitch.marked) ∈ t.stitch.sentAt ∧ t.stitch.count = s.stitch.count ∧ t.mem = s.mem ∧ t.regs = s.regs) := by
  have e : exec (.countFlitSend port) s
      = .next ((s.noteSent port s.stitch.marked).control port ([4] ++ zeros 7 ++ toLE 8 s.stitch.marked)) :=
    if_pos (by rcases hst with h | h <;> simp [h, hp, ha, hd])
  obtain ⟨o, e2⟩ := State.control_one (s := s.noteSent port s.stitch.marked) ([4] ++ zeros 7 ++ toLE 8 s.stitch.marked) hc hp
    (by rw [hcp]; exact State.hears_of_active (s := s.noteSent port s.stitch.marked) ha hr) hm
  rw [e2, hcp] at e
  exact answers_of_exec e ⟨rfl, List.mem_append_right _ (List.mem_singleton_self _), rfl, rfl, rfl⟩

/-- One flit fills a frame with idle flits (R300). -/
theorem State.framesOf_one (s : State) (c : Chan) (f : Flit) :
    s.framesOf c ([f].length + 1) [f] = [s.frame c ((f :: List.replicate 7 (idleFlit c)).map flitBytes)] := rfl

/-- One flit of an uplink channel leaves in a frame of its own (R300). -/
theorem State.control_frame {s : State} {k : Nat} {c : Chan} (payload : Bytes) (hc : s.chan k = some c) (hid : 31 ≤ k)
    (hh : s.hears c.port = true) (hm : c.markDue = false) : ∃ o, s.control k payload = ({ s with
      power := o
      link := { s.link with frames := s.link.frames ++ [(c.port, s.frame c ((chanFlit c 2 8 payload
        :: List.replicate 7 (idleFlit c)).map flitBytes))] } } : State).onChan k c.sentOne := by
  have hck := State.chan_id hc
  have hn : ¬c.id < 31 := by omega
  have hs : s.stamp c [chanFlit c 2 8 payload] = ([chanFlit c 2 8 payload], s) := if_neg (by simp [hm])
  have hd : s.drive c [chanFlit c 2 8 payload] = s.emit c [chanFlit c 2 8 payload] := by
    change (s.stamp c [chanFlit c 2 8 payload]).2.emit c (s.stamp c [chanFlit c 2 8 payload]).1 = _
    rw [hs]
  rw [State.control, hc]
  refine ⟨(s.charge 8 8).power, (if_pos hh).trans (hd.trans ?_)⟩
  rw [State.emit, if_neg hn, if_neg hn, s.framesOf_one, hck]
  rfl

/-- A TIME leaves (R313). -/
theorem timeSend_of_due {s : State} {c : Chan} {chan : Nat} (ofs : Nat) (hc : s.chan chan = some c) (ht : s.timeChan c = true)
    (ha : s.active c.port = true) (hr : s.boot.rstLow = false) (h9 : 9 ≤ s.boot.state) (hm : c.markDue = false)
    (hd : s.sendDue chan s.stitch.count 8 = true) (ho : s.slotOpen sysOwner (12 + c.port) = true)
    (hh : s.headMgr = false ∨ s.stitch.state = 3) (hn : s.stitch.peers.find? (fun x => x.1 = chan) = none) :
    answers (.timeSend chan ofs) s (fun t => t.link.frames = s.link.frames ++ [(c.port, s.frame c
        ((chanFlit c 2 8 ([3, 0] ++ toLE 2 s.member ++ zeros 4 ++ toLE 8 s.stitch.count ++ toLE 4 ofs ++ toLE 4 0
          ++ toLE 8 0 ++ toLE 8 0 ++ toLE 4 0 ++ zeros 4 ++ toLE 8 (if s.headMgr then s.recd.calendar else 0))
          :: List.replicate 7 (idleFlit c)).map flitBytes))]
      ∧ (chan, s.stitch.count) ∈ t.stitch.sentAt ∧ t.stitch.count = s.stitch.count ∧ t.mem = s.mem) := by
  have h64 : 64 ≤ chan := by
    simp only [State.timeChan, Bool.and_eq_true, decide_eq_true_eq] at ht
    have := ht.1.1
    rwa [State.chan_id hc] at this
  let pl := [3, 0] ++ toLE 2 s.member ++ zeros 4 ++ toLE 8 s.stitch.count ++ toLE 4 ofs ++ toLE 4 0
    ++ toLE 8 0 ++ toLE 8 0 ++ toLE 4 0 ++ zeros 4 ++ toLE 8 (if s.headMgr then s.recd.calendar else 0)
  have e : exec (.timeSend chan ofs) s = .next ((s.noteSent chan s.stitch.count).control chan pl) := by
    change execTimeSend chan ofs s = _
    simp only [execTimeSend, hc, hn, Option.getD_none]
    refine if_neg ?_
    rcases hh with h | h <;> simp [ht, ha, hr, h9, ho, hd, h]
  obtain ⟨o, e2⟩ := State.control_frame (s := s.noteSent chan s.stitch.count) pl hc (by omega)
    (State.hears_of_active (s := s.noteSent chan s.stitch.count) ha hr) hm
  rw [e2] at e
  exact answers_of_exec e ⟨rfl, List.mem_append_right _ (List.mem_singleton_self _), rfl, rfl⟩

theorem State.mgrBlock_congr {s t : State} (h : t.img = s.img) (q : Nat) : t.mgrBlock q = s.mgrBlock q := by
  have hhdr (o n : Nat) : t.hdrF o n = s.hdrF o n := by rw [State.hdrF, h, State.hdrF]
  refine ite_congr ?_ (fun _ => by rw [State.block, hhdr, State.block]) (fun _ => rfl)
  rw [State.podMgr, State.pod, hhdr, hhdr, State.podMgr, State.pod]

/-- What a TIME leaves at the head manager in STITCH_LOCK (R101, R313). -/
def State.headHeard (u : State) (chan : Nat) (f : Flit) (arrivalPs : Nat) : State :=
  let count := fld f.payload 8 8
  { u with stitch := { u.stitch with
    peers := u.stitch.peers.filter (fun (x : Nat × Nat × Nat × Nat × Nat) => decide (x.1 ≠ chan))
      ++ [(chan, count, fld f.payload 16 4, u.stitch.count, arrivalPs)]
    got := u.stitch.got || !u.headMgr
    roundPs := if fld f.payload 24 8 = 0 then u.stitch.roundPs
      else ((u.stitch.count * 640000 + arrivalPs : Nat) - (fld f.payload 24 8 * 640000 + fld f.payload 40 4 : Nat) : Int)
        - ((count * 640000 + fld f.payload 16 4 : Nat) - (fld f.payload 32 8 * 640000 + fld f.payload 20 4 : Nat) : Int)
    heard := some (max count (u.stitch.heard.getD 0)) } }

/-- A good TIME of a time channel at the head manager (R101, R313). -/
theorem time_of_head {s : State} {c : Chan} {f : Flit} {b : Bytes} (at4 : Nat) (hc : s.chan c.id = some c)
    (hh : s.hears c.port = true) (hp : parseFlit b = some f) (hk : isControl 3 f = true) (ht : s.timeChan c = true)
    (hhead : s.headMgr = true) (h9 : s.boot.state = 9) (h0 : s.stitch.state = 0) : answers (.time c.id b at4) s (fun t =>
      t.stitch.heard = some (max (fld f.payload 8 8) (s.stitch.heard.getD 0)) ∧ t.stitch.count = s.stitch.count
        ∧ (fld f.payload 24 8 = 0 → t.stitch.roundPs = s.stitch.roundPs)
        ∧ (fld f.payload 24 8 ≠ 0 → t.stitch.roundPs = ((s.stitch.count * 640000 + at4 : Nat)
              - (fld f.payload 24 8 * 640000 + fld f.payload 40 4 : Nat) : Int)
            - ((fld f.payload 8 8 * 640000 + fld f.payload 16 4 : Nat)
              - (fld f.payload 32 8 * 640000 + fld f.payload 20 4 : Nat) : Int))) := by
  have hk1 := kind_of_control hk
  have h64 : 64 ≤ c.id := by
    simp only [State.timeChan, Bool.and_eq_true, decide_eq_true_eq] at ht
    exact ht.1.1
  let u := s.heardFlit c f none
  have hsame := s.heardFlit_same c f none
  obtain ⟨e, he, hei, hep, hpe, -⟩ := State.heardFlit_fields none hc hk1
  have hst : u.stitch = s.stitch := State.heardFlit_stitch none hc hk1 (.inr (.inr (by omega)))
  have himg : u.img = s.img := hsame.img id
  have hhdr (o n : Nat) : u.hdrF o n = s.hdrF o n := by rw [State.hdrF, himg, State.hdrF]
  have huh : u.headMgr = true := by rw [← hhead, State.headMgr, hhdr, State.headMgr]
  have hup : u.podMgr = s.podMgr := by rw [State.podMgr, hhdr, State.podMgr]
  have hut : u.timeChan e = true := by
    rw [← ht, State.timeChan, State.timeChan, huh, hhead, hei, hpe, hup]
    refine congrArg (_ && _ && ·) ((if_pos rfl).trans (Eq.trans ?_ (if_pos rfl).symm))
    rw [State.mgrOf, State.mgrBlock_congr himg, State.mgrOf]
  have hb : u.boot.state = 9 ∧ u.stitch.state = 0 := ⟨by rw [hsame.boot id]; exact h9, by rw [hst]; exact h0⟩
  refine answers_of_exec (t := u.headHeard c.id f at4) ?_ ?_
  · refine (congrArg Host.Outcome.next (State.onFlit_of_good _ hc hh hp hk) : exec (.time c.id b at4) s = _).trans ?_
    rw [show s.heardFlit c f none = u from rfl, he, Option.getD_some]
    refine congrArg Host.Outcome.next ((if_neg (by rw [hut]; decide)).trans ?_)
    exact (if_pos huh).trans (if_pos hb)
  · simp only [State.headHeard, hst]
    exact ⟨trivial, trivial, fun h => if_pos h, fun h => if_neg h⟩

/-- A COUNT of the pod manager (R109, R312). -/
theorem count_of_manager {s : State} {c : Chan} {f : Flit} {b : Bytes} {k : Nat} (hc : s.chan c.id = some c)
    (hh : s.hears c.port = true) (hp : parseFlit b = some f) (hk : isControl 4 f = true) (hm : c.active = false ∨ f.mark = false)
    (hid : c.id < 31) (hpod : s.podMgr = false) (hsrc : s.stitch.src = 0) (hpeer : c.peer % 32 = s.mgrBlock s.pod)
    (hown : s.stitch.markOwn = some k) : answers (.count c.id b) s (fun t => t.boot = s.boot ∧ poolOnly s t
      ∧ (s.stitch.state = 0 → t.stitch.count = ((s.stitch.count : Int) + ((fld f.payload 8 8 : Int) - k)).toNat)
      ∧ (s.stitch.state ≠ 0 → t.stitch.count = s.stitch.count ∧ t.stitch.refOfs = (fld f.payload 8 8 : Int) - k)) := by
  have hk1 := kind_of_control hk
  let u := s.heardFlit c f none
  have hsame := s.heardFlit_same c f none
  obtain ⟨e, he, hei, -, hpe, -⟩ := State.heardFlit_fields none hc hk1
  have hst : u.stitch = s.stitch := State.heardFlit_stitch none hc hk1 (hm.imp_right .inl)
  have himg : u.img = s.img := hsame.img id
  have hhdr (o n : Nat) : u.hdrF o n = s.hdrF o n := by rw [State.hdrF, himg, State.hdrF]
  have hup : u.podMgr = false := by rw [← hpod, State.podMgr, hhdr, State.podMgr]
  have hum : u.mgrBlock u.pod = s.mgrBlock s.pod := by
    rw [State.mgrBlock_congr himg, State.pod, hhdr, State.pod]
  have e : exec (.count c.id b) s = .next (u.heardCount ((fld f.payload 8 8 : Int) - k)) := by
    refine (congrArg Host.Outcome.next (State.onFlit_of_good _ hc hh hp hk) : exec (.count c.id b) s = _).trans ?_
    rw [show s.heardFlit c f none = u from rfl, he, Option.getD_some]
    refine congrArg Host.Outcome.next ((if_neg ?_).trans ?_)
    · simp [hup, hei, hid, hst, hsrc, hum, hpe, hpeer]
    · rw [hst, hown]
  have hx := exec_same (F := linkTouch) (by simp [State.allows, linkTouch]) e
  refine answers_of_exec e ⟨hx.boot id, hx.poolOnly id id, fun h => ?_, fun h => ?_⟩
  · rw [State.heardCount, if_pos (by rw [hst]; exact h), hst]
  · rw [State.heardCount, if_neg (by rw [hst]; exact h), hst]
    exact ⟨rfl, rfl⟩

/-- Settles O17: what leaves is one CONTROL flit, and the time flits change the reference alone. -/
theorem timeFlitsComplete : Obligations.TimeFlitsComplete := by
  refine ⟨fun s c port h1 h2 h3 h4 h5 _ h7 h8 h9 => countFlitSend_of_due h1 h2 h3 h4 h5 h7 h8 h9,
    fun s c chan ofs h1 h2 h3 h4 h5 h6 h7 h8 h9 h10 => timeSend_of_due ofs h1 h2 h3 h4 h5 h6 h7 h8 h9 h10,
    fun s c f b at4 h1 h2 h3 h4 h5 h6 h7 h8 => time_of_head at4 h1 h2 h3 h4 h5 h6 h7 h8,
    fun s c f b k h1 h2 h3 h4 h5 h6 h7 h8 h9 h10 => count_of_manager h1 h2 h3 h4 h5 h6 h7 h8 h9 h10⟩

end Sys2Proof.Machine
end

section
/-! SUPPORT. The buffer pools (R171 to R178; O38). -/

-- One declaration after another: the check bounds the memory, and with it the threads.
set_option Elab.async false

namespace Sys2Proof.Machine

/-! ### The search for free cells -/

theorem lowestFree_none (taken : List Nat) (k c : Nat) : lowestFree taken k c 0 = [] := by
  cases k <;> rfl

/-- Cells that stand below the place of the search do not count. -/
theorem lowestFree_of_above {taken : List Nat} {c : Nat} (h : ∀ t ∈ taken, t < c) (k n : Nat) :
    lowestFree taken (n + k) c n = List.range' c n := by
  induction n generalizing c with
  | zero => exact lowestFree_none _ _ _
  | succ n ih =>
    have hc : taken.contains c = false := by
      rw [List.contains_eq_mem]
      exact decide_eq_false fun hm => absurd (h c hm) (by omega)
    rw [Nat.succ_add, lowestFree, if_neg (Nat.succ_ne_zero n), hc, if_neg (by decide), Nat.add_sub_cancel,
      ih fun t ht => Nat.lt_succ_of_lt (h t ht), List.range'_succ]

/-- Cells 0 to `m - 1` are taken: the search passes over them. -/
theorem lowestFree_of_range (m k n : Nat) : lowestFree (List.range m) (n + (k + m)) 0 n = List.range' m n := by
  have hskip (j c : Nat) (h : c + j = m) : lowestFree (List.range m) (n + k + j) c n = lowestFree (List.range m) (n + k) m n := by
    induction j generalizing c with
    | zero =>
      obtain rfl : c = m := h
      rfl
    | succ j ih =>
      by_cases h0 : n = 0
      · rw [h0, lowestFree_none, lowestFree_none]
      · have hc : (List.range m).contains c = true := by
          rw [List.contains_eq_mem]
          exact decide_eq_true (List.mem_range.mpr (by omega))
        rw [← ih (c + 1) (by omega), ← Nat.add_assoc, lowestFree, if_neg h0, if_pos hc]
  rw [← Nat.add_assoc, hskip m 0 (Nat.zero_add m), lowestFree_of_above fun t ht => List.mem_range.mp ht]

theorem lowestFree_fresh (taken : List Nat) (k c n : Nat) : ∀ x ∈ lowestFree taken k c n, x ∉ taken := by
  induction k generalizing c n with
  | zero => intro x hx; cases hx
  | succ k ih =>
    rw [lowestFree]
    split
    · intro x hx; cases hx
    · split
      case isTrue => exact ih _ _
      case isFalse h =>
        intro x hx
        rcases List.mem_cons.mp hx with rfl | hx
        · simpa using h
        · exact ih _ _ x hx

/-! ### Chains of staging cells -/

/-- Staging cells have no link entries (R171). -/
theorem State.writeLinks_of_staging (s : State) {c : Chain} (h : ∀ e ∈ c.cells, e.1 = false) : s.writeLinks c = s := by
  rw [State.writeLinks]
  generalize List.range c.cells.length = l
  induction l with
  | nil => rfl
  | cons i l ih =>
    rw [List.foldl_cons]
    refine Eq.trans (congrArg (List.foldl _ · l) ?_) ih
    cases hi : c.cells[i]? with
    | none => rfl
    | some e =>
      obtain ⟨m, k⟩ := e
      obtain rfl : m = false := h _ (List.mem_of_getElem? hi)
      rfl

theorem State.readLinks_of_staging (s : State) {c : Chain} (h : ∀ e ∈ c.cells, e.1 = false) (n : Nat) :
    s.readLinks c n = s := by
  have hf : (c.cells.take n).filter (·.1) = [] := List.filter_eq_nil_iff.mpr fun e he => by
    rw [h e (List.mem_of_mem_take he)]; decide
  rw [State.readLinks, hf]
  rfl

/-- A chain of staging cells for a request that copies nothing poisoned. -/
def stagingChain (s : State) (o refs : Nat) (cells : List Nat) (data : Bytes) : Chain :=
  { id := s.hamper.nextId, owner := o, cells := cells.map (fun c => (false, c)), ref := refs, poison := [], data := data
    pass := none }

/-- The condition of a grant reads the pools, the image and the units alone (R174). -/
theorem State.mayGrant_congr {s t : State} (hc : t.hamper.chains = s.hamper.chains) (hr : t.hamper.reserved = s.hamper.reserved)
    (hw : t.hamper.withheld = s.hamper.withheld) (hi : t.img = s.img) (hu : t.units = s.units) (o n : Nat) (m : Bool) :
    t.mayGrant o n m = s.mayGrant o n m := by
  have htaken : takenCells t.hamper m = takenCells s.hamper m := by rw [takenCells, chainCells, hc, hw, takenCells, chainCells]
  have hsect : t.sect 5 = s.sect 5 := by rw [State.sect, hi, State.sect]
  have hfree : t.freeCells m = s.freeCells m := by
    rw [State.freeCells, htaken, hr, State.poolCells, hsect, State.freeCells, State.poolCells]
  have hused (q : Nat) : usedBy t.hamper q m = usedBy s.hamper q m := by rw [usedBy, reservedBy, hc, hr, usedBy, reservedBy]
  have hmin (q : Nat) : t.minCells q m = s.minCells q m := by rw [State.minCells, hsect, State.minCells]
  have hguard : t.guarded o m = s.guarded o m := by simp only [State.guarded, hused, hmin]
  rw [State.mayGrant, hfree, hguard, hu, State.mayGrant]

section
variable {s : State} {r : CellReq} (hmem : r.memory = false) (hcon : r.contig = false)
include hmem hcon

/-- A staging request that is granted (R172, R174, R177). -/
theorem State.serveReq_granted (hg : s.mayGrant r.owner r.cells false = true) : ∃ p d q,
    let t := takenCells s.hamper false
    let cells := lowestFree t (r.cells + t.length) 0 r.cells
    d.cells = cells.map (fun c => (false, c)) ∧ d = { stagingChain s r.owner r.refs cells (s.copied r).2 with poison := q }
      ∧ ((s.copied r).1 = false → q = [])
      ∧ s.serveReq r = { s with
        hamper := { s.hamper with
          chains := s.hamper.chains ++ [d], nextId := s.hamper.nextId + 1
          left := s.hamper.left.filter (fun e => !d.cells.contains (false, e.1)) }
        power := { s.power with ops := p } } := by
  let t := takenCells s.hamper false
  let cells := (lowestFree t (r.cells + t.length) 0 r.cells).map (fun c => (false, c))
  let d : Chain := { id := s.hamper.nextId, owner := r.owner, cells := cells, ref := r.refs
                     poison := if (s.copied r).1 || none.any (fun q : Nat × Nat => s.passPoison q.1 q.2) then cells else []
                     data := (s.copied r).2, pass := none }
  refine ⟨setAt s.power.ops 14 (· + 1), d, d.poison, rfl, rfl, fun h => by simp [d, h], ?_⟩
  have hd : ∀ e ∈ d.cells, e.1 = false := by
    intro e he
    obtain ⟨c, -, rfl⟩ := List.mem_map.mp he
    rfl
  have e : s.serveReq r = (s.newChain r.owner cells r.refs none (s.copied r).1 (s.copied r).2).2 := by
    rw [State.serveReq, hmem, hcon]
    simp only [Bool.or_false, Bool.false_eq_true, if_false]
    rw [State.allocStage, if_pos hg]
  rw [e, State.newChain]
  exact State.writeLinks_of_staging _ hd

end

/-! ### Requests of one cycle (R172, R175) -/

/-- A staging request without a buffer to copy. -/
def stagingAsk (o refs rank n : Nat) : CellReq :=
  { rank := rank, owner := o, memory := false, contig := false, cells := n, refs := refs, src := none }

/-- The chain of `n` staging cells from a place on. -/
def stagingRun (o refs id at_ n : Nat) : Chain :=
  { id := id, owner := o, cells := (List.range n).map (fun i => (false, at_ + i)), ref := refs, poison := [], data := []
    pass := none }

/-- With the cells below `m` taken a granted request takes the next ones. -/
theorem State.serveReq_ask {s : State} {o refs rank n m : Nat} (ht : takenCells s.hamper false = List.range m)
    (hg : s.mayGrant o n false = true) : ∃ l p, s.serveReq (stagingAsk o refs rank n) = { s with
      hamper := { s.hamper with
        chains := s.hamper.chains ++ [stagingRun o refs s.hamper.nextId m n], nextId := s.hamper.nextId + 1, left := l }
      power := { s.power with ops := p } } := by
  obtain ⟨p, d, q, hcells, hd, hq, e⟩ := State.serveReq_granted (s := s) (r := stagingAsk o refs rank n) rfl rfl hg
  have hlow : lowestFree (takenCells s.hamper false) (n + (takenCells s.hamper false).length) 0 n = List.range' m n := by
    rw [ht, List.length_range, show n + m = n + (0 + m) by omega, lowestFree_of_range]
  have hrun : d = stagingRun o refs s.hamper.nextId m n := by
    rw [hd, hq rfl, stagingChain, stagingRun]
    change Chain.mk _ _ ((lowestFree (takenCells s.hamper false) (n + (takenCells s.hamper false).length) 0 n).map _) _ _ _ _ = _
    rw [hlow, List.range'_eq_map_range, List.map_map]
    rfl
  rw [hrun] at e
  exact ⟨_, p, e⟩

theorem takenCells_run {h : HamperSt} {o refs id m : Nat} (hc : h.chains = [stagingRun o refs id 0 m]) (hw : h.withheld = []) :
    takenCells h false = List.range m := by
  simp [takenCells, chainCells, hc, hw, stagingRun, List.filter_map, Function.comp_def]

/-- A grant of `m + n` cells leaves a grant of `n` after one of `m` (R174). -/
theorem State.mayGrant_after {s t : State} {o refs id m n : Nat} (hg : s.mayGrant o (m + n) false = true)
    (hc : s.hamper.chains = []) (hw : s.hamper.withheld = []) (htc : t.hamper.chains = [stagingRun o refs id 0 m])
    (htw : t.hamper.withheld = []) (hi : t.img = s.img) : t.mayGrant o n false = true := by
  have hsect : t.sect 5 = s.sect 5 := by rw [State.sect, hi, State.sect]
  have hfree : t.freeCells false = s.freeCells false - m := by
    have h0 : takenCells s.hamper false = [] := by simp [takenCells, chainCells, hc, hw]
    simp [State.freeCells, takenCells_run htc htw, h0, State.poolCells]
  have hguard : t.guarded o false = s.guarded o false := by
    refine congrArg sumNat (List.map_congr_left fun q hq => ?_)
    have hqo : q ≠ o := by simpa using (List.mem_filter.mp hq).2
    rw [State.minCells, hsect, State.minCells, usedBy, usedBy, hc, htc]
    simp [stagingRun, Ne.symm hqo]
  simp only [State.mayGrant, Bool.not_false, Bool.true_or, Bool.and_true, Bool.and_eq_true, decide_eq_true_eq] at hg ⊢
  rw [hfree, hguard]
  omega

theorem State.mayGrant_part {s : State} {o m n : Nat} (hg : s.mayGrant o (m + n) false = true) : s.mayGrant o m false = true := by
  simp only [State.mayGrant, Bool.not_false, Bool.true_or, Bool.and_true, Bool.and_eq_true, decide_eq_true_eq] at hg ⊢
  omega

/-- Requests that the pools take all enter the order of the cycle (R175). -/
theorem exec_hamperAlloc (s : State) (reqs : List CellReq) (h : ∀ r ∈ reqs, s.reqOk r = true) (hw : s.hamper.waiting = []) :
    exec (.hamperAlloc reqs) s = .next ((reqs.foldl (fun l r => insertBy (fun a b => decide (a.rank < b.rank)) r l) []).foldl
      State.serveReq { s with hamper := { s.hamper with waiting := [] } }) := by
  change Host.Outcome.next (s.serveCycle (reqs.filter s.reqOk)) = _
  rw [List.filter_eq_self.mpr h, State.serveCycle, hw]

theorem State.reqOk_ask {s : State} {o n refs : Nat} (rank : Nat) (ho : ownOk (s.sect 5) o = true) (h1 : 1 ≤ refs)
    (h2 : refs ≤ 255) (hn : 1 ≤ n) : s.reqOk (stagingAsk o refs rank n) = true := by
  simp [State.reqOk, stagingAsk, ho, within, h1, h2, hn]

section
variable {s : State} {o n refs rank : Nat} (ho : ownOk (s.sect 5) o = true) (h1 : 1 ≤ refs) (h2 : refs ≤ 255) (hn : 1 ≤ n)
  (hwait : s.hamper.waiting = []) (hch : s.hamper.chains = []) (hwith : s.hamper.withheld = [])
include ho h1 h2 hn hwait hch hwith

/-- One staging request of an empty pool takes the lowest cells. -/
theorem hamperAlloc_one (hg : s.mayGrant o n false = true) : answers (.hamperAlloc [stagingAsk o refs rank n]) s (fun t =>
    t.hamper.chains = [stagingRun o refs s.hamper.nextId 0 n] ∧ t.hamper.waiting = [] ∧ t.mem = s.mem ∧ t.regs = s.regs) := by
  let u : State := { s with hamper := { s.hamper with waiting := [] } }
  have e := exec_hamperAlloc s [stagingAsk o refs rank n] (fun r hr => by
    obtain rfl := List.mem_singleton.mp hr
    exact State.reqOk_ask rank ho h1 h2 hn) hwait
  obtain ⟨l, p, h⟩ := State.serveReq_ask (s := u) (m := 0) (refs := refs) (rank := rank)
    (show takenCells u.hamper false = List.range 0 by simp [u, takenCells, chainCells, hch, hwith]) hg
  refine answers_of_exec (e.trans (congrArg Host.Outcome.next h)) ⟨?_, rfl, rfl, rfl⟩
  change s.hamper.chains ++ _ = _
  rw [hch, List.nil_append]

/-- Of two requests of one cycle the lower rank takes the lower cells, whichever is listed first. -/
theorem hamperAlloc_two {k m : Nat} (hk : k < rank) (hm : 1 ≤ m) (hg : s.mayGrant o (m + n) false = true) :
    answers (.hamperAlloc [stagingAsk o refs rank n, stagingAsk o refs k m]) s (fun t =>
      t.hamper.chains = [stagingRun o refs s.hamper.nextId 0 m, stagingRun o refs (s.hamper.nextId + 1) m n]
        ∧ t.hamper.waiting = [] ∧ t.mem = s.mem ∧ t.regs = s.regs) := by
  let u : State := { s with hamper := { s.hamper with waiting := [] } }
  have e := exec_hamperAlloc s [stagingAsk o refs rank n, stagingAsk o refs k m] (fun r hr => by
    rcases List.mem_cons.mp hr with rfl | hr
    · exact State.reqOk_ask rank ho h1 h2 hn
    · obtain rfl := List.mem_singleton.mp hr
      exact State.reqOk_ask k ho h1 h2 hm) hwait
  obtain ⟨l, p, h⟩ := State.serveReq_ask (s := u) (m := 0) (refs := refs) (rank := k)
    (show takenCells u.hamper false = List.range 0 by simp [u, takenCells, chainCells, hch, hwith]) (State.mayGrant_part (s := u) hg)
  have hvc : (u.serveReq (stagingAsk o refs k m)).hamper.chains = [stagingRun o refs s.hamper.nextId 0 m] := by
    rw [h]
    change s.hamper.chains ++ _ = _
    rw [hch, List.nil_append]
  have hvw : (u.serveReq (stagingAsk o refs k m)).hamper.withheld = [] := by rw [h]; exact hwith
  obtain ⟨l', p', h'⟩ := State.serveReq_ask (refs := refs) (rank := rank) (takenCells_run hvc hvw)
    (State.mayGrant_after hg hch hwith hvc hvw (by rw [h]))
  have hr : [stagingAsk o refs rank n, stagingAsk o refs k m].foldl
      (fun l r => insertBy (fun a b => decide (a.rank < b.rank)) r l) [] = [stagingAsk o refs k m, stagingAsk o refs rank n] :=
    if_pos (decide_eq_true hk)
  rw [hr] at e
  refine answers_of_exec (e.trans (congrArg Host.Outcome.next h')) ⟨?_, ?_, ?_, ?_⟩
  · change (u.serveReq _).hamper.chains ++ [stagingRun o refs (u.serveReq _).hamper.nextId m n] = _
    rw [hvc, h]
    rfl
  all_goals rw [h]

end

/-- The order in which two requests of different rank are listed does not matter (R175). -/
theorem hamperAlloc_swap {s : State} {a b : CellReq} (hw : s.hamper.waiting = []) (hr : a.rank ≠ b.rank) :
    answers (.hamperAlloc [a, b]) s (fun t => exec (.hamperAlloc [b, a]) s = .next t) := by
  refine answers_of_exec (t := s.serveCycle ([a, b].filter s.reqOk)) rfl ?_
  refine congrArg Host.Outcome.next ?_
  cases ha : s.reqOk a <;> cases hb : s.reqOk b <;> simp only [List.filter, ha, hb]
  rw [State.serveCycle, State.serveCycle, hw]
  refine congrArg (List.foldl _ _) ?_
  rcases Nat.lt_or_gt_of_ne hr with h | h <;> simp [insertBy, h, Nat.lt_asymm h]

/-- A memory request that may not be granted waits and is counted (R176). -/
theorem hamperAlloc_denied {s : State} {o n refs rank : Nat} (ho : ownOk (s.sect 5) o = true) (h1 : 1 ≤ refs)
    (h2 : refs ≤ 255) (hn : 1 ≤ n) (hwait : s.hamper.waiting = []) (hg : s.mayGrant o n true = false)
    (hwf : spWf s.regs = true) (hp : s.powered rMPOOL_DENY_CNT = true) :
    let ask : CellReq := { rank := rank, owner := o, memory := true, contig := false, cells := n, refs := refs, src := none }
    answers (.hamperAlloc [ask]) s (fun t => t.hamper.chains = s.hamper.chains ∧ t.hamper.waiting = [ask]
      ∧ t.reg rMPOOL_DENY_CNT = satAdd (s.reg rMPOOL_DENY_CNT) 1 ∧ t.mem = s.mem) := by
  intro ask
  let u : State := { s with hamper := { s.hamper with waiting := [] } }
  have e := exec_hamperAlloc s [ask] (fun r hr => by
    obtain rfl := List.mem_singleton.mp hr
    simp [ask, State.reqOk, ho, within, h1, h2, hn]) hwait
  have hserve : u.serveReq ask = { u.bump rMPOOL_DENY_CNT 1 with
      hamper := { (u.bump rMPOOL_DENY_CNT 1).hamper with
        waiting := insertBy (fun a b => decide (a.rank < b.rank)) ask (u.bump rMPOOL_DENY_CNT 1).hamper.waiting } } := by
    have hnone : u.allocMem o n refs false none false [] = none := if_pos (by rw [show u.mayGrant o n true = false from hg]; rfl)
    have ha : u.allocFilled ask false [] (.linkEntry (u.ownerPart o).1 (u.ownerPart o).2) = none := by
      change (u.allocMem o n refs false none false []).map _ = none
      rw [hnone]
      rfl
    change (match u.allocFilled ask false [] _ with | some (_, t) => t | none => _ : State) = _
    rw [ha]
    rfl
  refine answers_of_exec (e.trans (congrArg Host.Outcome.next hserve)) ⟨?_, ?_, State.reg_bump_eq (s := u) hwf hp 1, ?_⟩
  · change (u.bump rMPOOL_DENY_CNT 1).hamper.chains = _
    rw [State.bump_hamper]
  · change insertBy _ ask (u.bump rMPOOL_DENY_CNT 1).hamper.waiting = _
    rw [State.bump_hamper]
    rfl
  · exact State.bump_mem u _ _

/-! ### Releases and added references (R177, R178) -/

/-- The headed chain is the only one there. -/
theorem State.headedBy_one {s : State} {m : Bool} {cell : Nat} {c : Chain} (hc : s.hamper.chains = [c])
    (hh : c.cells.head? = some (m, cell)) : s.headedBy m cell = some c := by
  simp [State.headedBy, hc, hh]

/-- The chain of a state that holds one takes a new count. -/
theorem State.setChain_one {s : State} {c d : Chain} (hc : s.hamper.chains = [c]) (hid : c.id = d.id) :
    s.setChain d = ({ s with hamper := { s.hamper with chains := [d] } } : State).writeLinks d := by
  have h : s.hamper.chains.map (fun (x : Chain) => if x.id = d.id then d else x) = [d] := by
    rw [hc, List.map_singleton, if_pos hid]
  rw [State.setChain, h]

theorem State.freeChain_one {s : State} {c : Chain} (hc : s.hamper.chains = [c]) : ∃ l, s.freeChain c.id = { s with
    hamper := { s.hamper with chains := [], left := l } } := by
  have h : s.hamper.chains.filter (fun x => !(x.id == c.id)) = [] := by simp [hc]
  simp only [State.freeChain, State.dropChains, h]
  exact ⟨_, rfl⟩

section
variable {s : State} {c : Chain} {cell : Nat} (hc : s.hamper.chains = [c]) (hh : c.cells.head? = some (false, cell))
  (hst : ∀ e ∈ c.cells, e.1 = false)
include hc hh hst

theorem State.releaseN_last {n : Nat} (h : c.ref = n) : ∃ l, s.releaseN false cell n = { s with
    hamper := { s.hamper with chains := [], left := l } } := by
  rw [State.releaseN, State.headedBy_one hc hh]
  simp only [if_pos (Nat.le_of_eq h), if_neg (Nat.not_lt.mpr (Nat.le_of_eq h.symm)), State.readLinks_of_staging s hst]
  exact State.freeChain_one hc

theorem State.releaseN_fewer {n : Nat} (h : n < c.ref) : s.releaseN false cell n = { s with
    hamper := { s.hamper with chains := [{ c with ref := c.ref - n }] } } := by
  rw [State.releaseN, State.headedBy_one hc hh]
  simp only [if_neg (Nat.not_le.mpr h), State.readLinks_of_staging s hst]
  exact (State.setChain_one (d := { c with ref := c.ref - n }) hc rfl).trans (State.writeLinks_of_staging _ hst)

theorem State.addRef_taken {k : Nat} (copy : CellReq) (h : c.ref + k ≤ 255) : s.addRef false cell copy k = { s with
    hamper := { s.hamper with chains := [{ c with ref := c.ref + k }] } } := by
  rw [State.addRef, State.headedBy_one hc hh]
  simp only [if_neg (Nat.not_lt.mpr h), State.readLinks_of_staging s hst]
  exact (State.setChain_one (d := { c with ref := c.ref + k }) hc rfl).trans (State.writeLinks_of_staging _ hst)

end

/-- Releases of a buffer of memory cells lower its count, and its head link entry says so (R171, R177). -/
theorem hamperRelease_memory {s : State} {cell n : Nat} {c : Chain} (hs : s.sound) (hc : s.hamper.chains = [c])
    (hh : c.cells.head? = some (true, cell)) (hp : c.poison = []) (h : n < c.ref) :
    answers (.hamperRelease (true, cell) n) s (fun t => t.hamper.chains = [{ c with ref := c.ref - n }] ∧ t.regs = s.regs
      ∧ (∀ i, c.cells = [(true, cell)] → i = fld (s.sect 5) 16 8 + 4 * cell →
        t.rd i 4 = toLE 4 (2 ^ 21 + 2 ^ 22 * (c.ref - n)))) := by
  let r := s.readLinks c 1
  let d : Chain := { c with ref := c.ref - n }
  let u : State := { r with hamper := { r.hamper with chains := [d] } }
  have hr : s.Same (fun x => x = .memp ∨ x = .power) r := State.readLinks_same c 1 (.refl s) (.inl rfl) (.inr rfl)
  have hrc : r.hamper.chains = [c] := by rw [hr.hamper (by simp), hc]
  have e : exec (.hamperRelease (true, cell) n) s = .next (u.writeLinks d) := by
    refine congrArg Host.Outcome.next ?_
    change s.releaseN true cell n = _
    rw [State.releaseN, State.headedBy_one hc hh]
    simp only [if_neg (Nat.not_le.mpr h)]
    exact State.setChain_one hrc rfl
  have hw : u.Same (fun x => x = .mem ∨ x = .memp ∨ x = .power) (u.writeLinks d) :=
    State.writeLinks_mem_same d (.refl u) (.inl rfl) (.inr (.inl rfl)) (.inr (.inr rfl))
  refine answers_of_exec e ⟨by rw [hw.hamper (by simp)], (hw.regs (by simp)).trans (hr.regs (by simp)), fun i hcells hi => ?_⟩
  have hword : linkWord d 0 = 2 ^ 21 + 2 ^ 22 * (c.ref - n) := by
    simp [linkWord, d, hcells, hp]
  have hsect : u.sect 5 = s.sect 5 := by
    rw [State.sect, show u.img = s.img from hr.img (by simp), State.sect]
  have hlink : u.writeLinks d = u.wr i (toLE 4 (linkWord d 0)) (.linkEntry (u.ownerPart c.owner).1 (u.ownerPart c.owner).2) := by
    rw [State.writeLinks, hsect, hi, show d.cells = [(true, cell)] from hcells]
    rfl
  rw [hlink, hword]
  exact State.rd_of_write (State.wr_mem u _ _ _) (by rw [show u.mem = s.mem from hr.mem (by simp) (by simp)]; exact hs.memWf) (by simp)

/-- An added reference that no chain takes is counted, and the data goes into a new chain (R177, R178). -/
theorem hamperAddRef_copied {s : State} {m : Bool} {cell k : Nat} {copy : CellReq} (hwf : spWf s.regs = true)
    (hp : s.powered rREF_ERR_CNT = true)
    (hn : s.headedBy m cell = none ∨ ∃ c, s.headedBy m cell = some c ∧ 255 < c.ref + k) (hmem : copy.memory = false)
    (hcon : copy.contig = false) (hg : s.mayGrant copy.owner copy.cells false = true) :
    answers (.hamperAddRef (m, cell) [k] ⟨0, copy⟩) s (fun t =>
      t.reg rREF_ERR_CNT = satAdd (s.reg rREF_ERR_CNT) 1 ∧ t.mem = s.mem
        ∧ ∃ e : Chain, t.hamper.chains = s.hamper.chains ++ [e] ∧ e.ref = k ∧ e.owner = copy.owner
          ∧ e.data = (match s.headedBy m cell with
            | some c => c.data
            | none => if m then s.rd (s.cellAddr cell) (copy.cells * 256)
              else ((s.hamper.left.find? (fun e => e.1 == cell)).map (·.2)).getD [])
          ∧ (∀ x ∈ e.cells, x.1 = false ∧ x.2 ∉ takenCells s.hamper false)) := by
  let u := s.bump rREF_ERR_CNT 1
  let r : CellReq := { copy with refs := k, src := some (m, cell) }
  have hham : u.hamper = s.hamper := State.bump_hamper s _ _
  have e : exec (.hamperAddRef (m, cell) [k] ⟨0, copy⟩) s = .next (u.serveReq r) := by
    refine congrArg Host.Outcome.next ?_
    change s.addRef m cell copy k = _
    rw [State.addRef]
    rcases hn with h | ⟨c, h, h255⟩ <;> rw [h]
    exact if_pos h255
  have hgu : u.mayGrant r.owner r.cells false = true :=
    (State.mayGrant_congr (by rw [hham]) (by rw [hham]) (by rw [hham]) (State.bump_img s _ _) (State.bump_units s _ _) _ _ _).trans hg
  obtain ⟨p, d, q, hcells, hd, -, h⟩ := State.serveReq_granted (s := u) (r := r) hmem hcon hgu
  rw [h] at e
  refine answers_of_exec e ⟨State.reg_bump_eq hwf hp 1, State.bump_mem s _ _, d, by rw [hham], by rw [hd]; rfl, by rw [hd]; rfl, ?_, ?_⟩
  · have hdata : d.data = (u.copied r).2 := by rw [hd]; rfl
    have hheaded : u.headedBy m cell = s.headedBy m cell := by rw [State.headedBy, hham, State.headedBy]
    have haddr : u.cellAddr cell = s.cellAddr cell := by
      rw [State.cellAddr, State.sect, State.bump_img, State.cellAddr, State.sect]
    rw [hdata]
    have hrd (a n : Nat) : u.rd a n = s.rd a n := State.rd_congr (State.bump_mem s _ _) a n
    simp only [State.copied, r, hheaded, hmem, hcon, haddr, hham, hrd]
    cases s.headedBy m cell <;> rfl
  · intro x hx
    rw [hcells] at hx
    obtain ⟨y, hy, rfl⟩ := List.mem_map.mp hx
    rw [← hham]
    exact ⟨rfl, lowestFree_fresh _ _ _ _ y hy⟩

/-- Settles O38: the search takes the lowest free cells, and the counts of one chain follow its releases. -/
theorem hamperCompletes : Obligations.HamperCompletes := by
  refine ⟨fun s o n refs rank ho h1 h2 hn hw hc hwh => ⟨fun hg => hamperAlloc_one ho h1 h2 hn hw hc hwh hg,
      fun k m hk hm hg => hamperAlloc_two ho h1 h2 hn hw hc hwh hk hm hg⟩,
    fun s a b hw hr => hamperAlloc_swap hw hr,
    fun s o n refs rank ho h1 h2 hn hw hg hwf hp => hamperAlloc_denied ho h1 h2 hn hw hg hwf hp,
    fun s cell n k copy c hc hh hst => ⟨fun h => ?_, fun h => ?_, fun h => ?_, fun h hn hlt => ?_⟩,
    fun s cell n c hs hc hh hp h => hamperRelease_memory hs hc hh hp h,
    fun s m cell n k copy hwf hp => ⟨fun hn => ?_, fun hn hm hcon hg => hamperAddRef_copied hwf hp hn hm hcon hg⟩⟩
  · obtain ⟨l, e⟩ := State.releaseN_last hc hh hst h
    exact answers_of_exec (congrArg Host.Outcome.next e) ⟨rfl, rfl, rfl⟩
  · exact answers_of_exec (congrArg Host.Outcome.next (State.releaseN_fewer hc hh hst h)) ⟨rfl, rfl, rfl⟩
  · exact answers_of_exec (congrArg Host.Outcome.next (State.addRef_taken hc hh hst copy h)) ⟨rfl, rfl, rfl⟩
  · have e : exec (.hamperAddRef (false, cell) [k] ⟨n, copy⟩) s
        = .next ((s.addRef false cell copy k).releaseN false cell n) :=
      congrArg Host.Outcome.next (if_neg (by omega : ¬n = 0))
    rw [State.addRef_taken hc hh hst copy h, State.releaseN_fewer (c := { c with ref := c.ref + k }) rfl hh hst hlt] at e
    exact answers_of_exec e ⟨rfl, rfl, rfl⟩
  · have e : exec (.hamperRelease (m, cell) n) s = .next (s.bump rREF_ERR_CNT n) := by
      refine congrArg Host.Outcome.next ?_
      change s.releaseN m cell n = _
      rw [State.releaseN, hn]
    exact answers_of_exec e ⟨State.bump_hamper s _ _, State.reg_bump_eq hwf hp n, State.bump_mem s _ _⟩

end Sys2Proof.Machine
end

section
/-! SUPPORT. DATA and IDLE flits, and flits that fail (R291 to R302; O39). -/

-- One declaration after another: the check bounds the memory, and with it the threads.
set_option Elab.async false

namespace Sys2Proof.Machine

/-- The flit of the next number takes its place at once (R299). -/
theorem rxData_of_next {c : Chan} {f : Flit} (hseq : f.seq = c.rxX % 65536) (hheld : c.held = []) :
    rxData c f = ({ c with rxX := c.rxX + 1, missing := c.missing.filter (fun m => decide (m.1 ≠ c.rxX)), held := [] }, [f]) := by
  have hd : (c.rxX % 65536 + 65536 - c.rxX % 65536) % 65536 = 0 := by omega
  have hx : resolveX c.rxX f.seq = some c.rxX := by
    rw [resolveX, hseq, hd]
    rfl
  rw [rxData, hx, hheld]
  simp only [Nat.lt_irrefl, List.any_nil, Bool.false_eq_true, or_self, if_false, List.nil_append, List.length_nil, drain]
  simp

/-- The message that an owner's flits make up, once this one has joined it. -/
def joined (c : Chan) (f : Flit) : Bytes := ((c.asm.find? (fun a => a.1 = f.owner)).map (·.2)).getD [] ++ f.payload

/-- A flit that joins its message leaves the channel but for the messages in progress. -/
theorem State.join_chan {s : State} {id : Nat} {c : Chan} (f : Flit) (hc : s.chan id = some c) : ∃ a e,
    (s.join id f).chan id = some e ∧ e.fixed = ({ c with asm := a } : Chan).fixed := by
  let m := msgOf c f.owner (joined c f)
  let whole := decide (m.length + 16 ≤ (joined c f).length)
  let rest := c.asm.filter (fun a => decide (a.1 ≠ f.owner))
  let g (x : Chan) : Chan := { x with asm := if whole then rest else rest ++ [(f.owner, joined c f)] }
  let u := ((s.onChan id g).holdSlot m whole).handBytes m
  have hj : s.join id f = if whole then u.arrive m else u.showTransit m := by
    rw [State.join, hc]
    rfl
  have hg : (s.onChan id g).chan id = some (g c) := State.chan_onChan_self (fun _ => rfl) hc
  have hu : (s.onChan id g).FixedAs u := State.handBytes_fixed m (State.holdSlot_fixed m whole (.refl _))
  have hf : (s.onChan id g).FixedAs (s.join id f) := by
    rw [hj]
    exact .ofIte (fun _ => State.arrive_fixed m hu) (fun _ => State.showTransit_fixed m hu)
  obtain ⟨e, he, hfix⟩ := hf.chan_some hg
  exact ⟨_, e, he, hfix⟩

section
variable {s : State} {c : Chan} {f : Flit} (ps : Option Nat) (hc : s.chan c.id = some c) (ha : c.active = true)
  (hk : f.kind = 1) (hseq : f.seq = c.rxX % 65536) (hheld : c.held = [])
include hc ha hk hseq hheld

/-- A DATA flit of the next number joins its message. -/
theorem State.heardFlit_data : ∃ (u : State) (d : Chan) (l : List (Nat × Nat)),
    u.link = { (s.gotFlit c.port).link with chans := u.link.chans } ∧ u.chan c.id = some d
      ∧ d = { rxHeader c f with rxX := c.rxX + 1, missing := l, held := [] }
      ∧ s.heardFlit c f ps = (u.join c.id f).settle c.id := by
  obtain ⟨h1, h2, h3, h4, -⟩ := rxHeader_keeps c f
  have hd := rxData_of_next (c := rxHeader c f) (f := f) (h3 ▸ hseq) (h4.trans hheld)
  let v := if f.mark then (s.gotFlit c.port).rxMark c f ps else s.gotFlit c.port
  have hv : v.link = (s.gotFlit c.port).link := by
    simp only [v]
    split
    · exact State.rxMark_link _ _ _ _
    · rfl
  have hvc : v.chan c.id = some c := by
    rw [State.chan, hv]
    exact (s.gotFlit_chan c.port c.id).trans hc
  let d : Chan := { rxHeader c f with rxX := (rxHeader c f).rxX + 1, missing := (rxHeader c f).missing.filter (fun m => decide (m.1 ≠ (rxHeader c f).rxX)), held := [] }
  have hgc : (s.gotFlit c.port).chan c.id = some c := (s.gotFlit_chan c.port c.id).trans hc
  refine ⟨v.onChan c.id (fun _ => d), d, _, ?_, State.chan_setChan hvc (rxHeader_id c f), by rw [← h3], ?_⟩
  · simp only [State.onChan, hv]
  · rw [State.heardFlit, if_pos ha, State.rxFlit, hgc]
    dsimp only
    rw [if_pos hk, hd]
    rfl

/-- The channel's receive number moves on (R299). -/
theorem dataFlit_of_next {b : Bytes} {t : Nat} (hh : s.hears c.port = true) (hp : parseFlit b = some f) :
    answers (.dataFlitReceive c.id ⟨b, t⟩) s (fun t =>
      poolOnly s t ∧ ∃ e, t.chan c.id = some e ∧ e.rxX = c.rxX + 1 ∧ e.held = []) := by
  obtain ⟨u, d, l, -, hd, hde, e⟩ := State.heardFlit_data (some t) hc ha hk hseq hheld
  have ex : exec (.dataFlitReceive c.id ⟨b, t⟩) s = .next (s.heardFlit c f (some t)) :=
    congrArg Host.Outcome.next (State.onFlit_of_good _ hc hh hp (by simp [hk]))
  refine answers_of_exec ex ⟨(exec_same (F := linkTouch) (by simp [State.allows, linkTouch]) ex).poolOnly id id, ?_⟩
  obtain ⟨a, x, hx, hf⟩ := State.join_chan f hd
  obtain ⟨y, hy, hf'⟩ := (State.settle_fixed c.id (.refl (u.join c.id f))).chan_some hx
  obtain ⟨-, -, hr, hl, -⟩ := Chan.fields_of_fixed (hf'.trans hf)
  rw [e]
  exact ⟨y, hy, hr.trans (by rw [hde]), hl.trans (by rw [hde])⟩

end

/-! ### A message of one flit -/

/-- The slot that a message of one flit holds. -/
def oneSlot (m : Msg) : SlotHold :=
  { chan := m.chan, owner := streamOwner m, src := m.src, msgNo := m.msgNo, typ := m.typ, trigger := m.trigger, whole := true
    transit := false, goal := m.dst, n := 1, got := 1, len := m.length, chains := [], fate := 0 }

section
variable {s : State} {m : Msg} (hf : bit m.flags 0 = false) (h7 : m.typ ≠ 7)
include hf h7

theorem State.passesOn_own : s.passesOn m = false := by
  simp [State.passesOn, hf, h7]

theorem State.holdSlot_first (hslots : s.link.slots = []) : s.holdSlot m true
    = { s with link := { s.link with slots := [oneSlot m] } } := by
  simp only [State.holdSlot, hslots, List.find?_nil, Option.isSome_none, Bool.false_eq_true, if_false, List.nil_append,
    Option.map_none, Option.getD_none, State.passesOn_own hf h7, if_neg h7]
  rfl

theorem State.handBytes_first (hn : s.rxNext m.src (streamOwner m) = (m.msgNo, [])) : ∃ l, s.handBytes m
    = { s with link := { s.link with rxStr := l ++ [{ peer := m.src, owner := streamOwner m, next := m.msgNo, part := m.body }] } }
      ∧ ∀ x ∈ l, (x.peer == m.src && x.owner == streamOwner m) = false := by
  refine ⟨s.link.rxStr.filter (fun x => !(x.peer == m.src && x.owner == streamOwner m)), ?_, fun x hx => ?_⟩
  · rw [State.handBytes]
    simp [hn, State.passesOn_own hf h7]
  · exact (Bool.not_eq_true' _).mp (List.mem_filter.mp hx).2

end

/-- The message in progress, handed over in whole, stands in the inbox (R295). -/
theorem State.arrive_whole {s : State} {m : Msg} {l : List Stream} (hf : bit m.flags 0 = false)
    (hstr : s.link.rxStr = l ++ [{ peer := m.src, owner := streamOwner m, next := m.msgNo, part := m.body }])
    (hl : ∀ x ∈ l, (x.peer == m.src && x.owner == streamOwner m) = false) (hres : reservedTyp m.typ = false)
    (hdead : s.isDead m.src = false) (hin : ∀ k ∈ s.link.inbox, keyOf k ≠ keyOf m) : ∃ r, s.arrive m
      = { s with link := { s.link with inbox := s.link.inbox ++ [m], rxStr := r } } := by
  have hn : s.rxNext m.src (streamOwner m) = (m.msgNo, m.body) := by
    rw [State.rxNext, hstr, List.find?_append, List.find?_eq_none.mpr fun x hx => by simp [hl x hx]]
    simp
  have ho : streamOwner m = m.owner := by simp [streamOwner, hf]
  let u : State := { s with link := { s.link with rxStr := setStream s.link.rxStr m.src (streamOwner m) (m.msgNo + 1) } }
  have hm : ({ m with owner := streamOwner m, body := m.body ++ m.body.drop m.body.length } : Msg) = m := by
    rw [ho, List.drop_length, List.append_nil]
  have hany : s.link.inbox.any (fun k => keyOf k == keyOf m) = false := by
    simpa using hin
  have e : s.arrive m = u.putInbox m := by
    rw [State.arrive, if_neg (by simp [hf])]
    simp only [hn, Nat.lt_irrefl, if_false, if_true, hres, Bool.false_eq_true]
    rw [if_neg (by rw [show u.isDead m.src = s.isDead m.src from rfl, hdead]; simp), hm]
  refine ⟨setStream s.link.rxStr m.src (streamOwner m) (m.msgNo + 1), e.trans ?_⟩
  rw [State.putInbox, show u.link.inbox = s.link.inbox from rfl, hany]
  rfl

/-- A message of one flit on a channel without one in progress. -/
theorem State.join_one {s : State} {id : Nat} {c : Chan} {f : Flit} (hc : s.chan id = some c) (hasm : c.asm = [])
    (hslots : s.link.slots = []) :
    let m := msgOf c f.owner f.payload
    m.length + 16 ≤ f.payload.length → bit m.flags 0 = false → m.typ ≠ 7 → reservedTyp m.typ = false → s.isDead m.src = false →
    (∀ k ∈ s.link.inbox, keyOf k ≠ keyOf m) → s.rxNext m.src f.owner = (m.msgNo, []) → ∃ r, (s.join id f)
      = { s with link := { s.link with
          inbox := s.link.inbox ++ [m], rxStr := r, slots := [oneSlot m]
          chans := s.link.chans.map (fun x => if x.id = id then { x with asm := [] } else x) } } := by
  intro m hlen hflags h7 hres hdead hin hnext
  let u := s.onChan id (fun x => { x with asm := [] })
  have ho : streamOwner m = f.owner := by simp [streamOwner, hflags]; rfl
  have hj : s.join id f = ((u.holdSlot m true).handBytes m).arrive m := by
    rw [State.join, hc]
    simp only [hasm, List.find?_nil, Option.map_none, Option.getD_none, List.nil_append, List.filter_nil]
    simp only [show decide ((msgOf c f.owner f.payload).length + 16 ≤ f.payload.length) = true from decide_eq_true hlen, if_true]
    rfl
  have h1 : u.holdSlot m true = { u with link := { u.link with slots := [oneSlot m] } } :=
    State.holdSlot_first hflags h7 hslots
  let v : State := { u with link := { u.link with slots := [oneSlot m] } }
  obtain ⟨l, h2, hl⟩ := State.handBytes_first (s := v) hflags h7 (by rw [ho]; exact hnext)
  rw [hj, h1, h2]
  obtain ⟨r, h3⟩ := State.arrive_whole (s := { v with link := { v.link with
    rxStr := l ++ [{ peer := m.src, owner := streamOwner m, next := m.msgNo, part := m.body }] } }) hflags rfl hl hres hdead hin
  exact ⟨r, h3⟩

/-- With no message early and no slot whose bytes may go on, what follows a header sends and frees alone. -/
theorem State.settle_rest {s : State} (id : Nat) (he : s.link.early = []) (hh : s.handOver = s) : s.RestAs (s.settle id) := by
  have h1 : State.arriveEarly (s.link.early.length + 1) s = s := by
    rw [he]
    simp [State.arriveEarly, he]
  rw [State.settle, h1, hh]
  exact State.pump_rest _ (State.freeSent_rest _ (.refl s))

/-- A whole message keeps its slots until its consumer takes it (R299). -/
theorem State.handOver_whole {s : State} {h : SlotHold} (hs : s.link.slots = [h]) (hw : h.whole = true) (ht : h.transit = false)
    (h2 : h.typ ≠ 2) : s.handOver = s := by
  have h1 : s.noteList h = s := if_pos (.inl h2)
  have h3 : s.handOne h = s := by
    rw [State.handOne]
    simp [ht, hw, h2]
  rw [State.handOver, hs, List.foldl_cons, List.foldl_nil, h1, hs, List.foldl_cons, List.foldl_nil, h3]

/-- What the consumer of a message of one flit gives back (R291). -/
theorem State.take_oneSlot {s : State} {m : Msg} {c : Chan} (hs : s.link.slots = [oneSlot m]) (hc : s.chan m.chan = some c) :
    (s.take m).chan m.chan = some { c with freed := c.freed + 1 } := by
  have hk : holdIs m (oneSlot m) = true := by simp [holdIs, oneSlot, SlotHold.key, keyOf]
  let u : State := { s with link := { s.link with inbox := s.link.inbox.erase m, slots := [] } }
  have e : s.take m = u.onChan m.chan (fun c => { c with freed := c.freed + 1 }) := by
    rw [State.take, State.dropHold, State.dropHolds]
    simp only [hs, List.filter_singleton, hk, Bool.not_true]
    rfl
  rw [e]
  exact State.chan_onChan_self (s := u) (f := fun c => { c with freed := c.freed + 1 }) (fun _ => rfl) hc

section
variable {s : State} {c : Chan} {f : Flit} {b : Bytes} (hc : s.chan c.id = some c) (hh : s.hears c.port = true)
  (ha : c.active = true) (hp : parseFlit b = some f)
include hc hh ha hp

/-- A message of one flit stands in the inbox with its slot held (R295, R299). -/
theorem dataFlit_of_message {ps : Nat} (hk : f.kind = 1) (hseq : f.seq = c.rxX % 65536) (hheld : c.held = [])
    (hasm : c.asm = []) (hslots : s.link.slots = []) (hearly : s.link.early = []) :
    let m := msgOf c f.owner f.payload
    m.length + 16 ≤ f.payload.length → bit m.flags 0 = false → m.typ ≠ 7 → m.typ ≠ 2 → reservedTyp m.typ = false →
    s.isDead m.src = false → (∀ k ∈ s.link.inbox, keyOf k ≠ keyOf m) → s.rxNext m.src f.owner = (m.msgNo, []) →
    answers (.dataFlitReceive c.id ⟨b, ps⟩) s (fun t => t.link.inbox = s.link.inbox ++ [m]
      ∧ (t.chan c.id).map (·.freed) = some c.freed ∧ ((t.take m).chan c.id).map (·.freed) = some (c.freed + 1)) := by
  intro m hlen hflags h7 h2 hres hdead hin hnext
  obtain ⟨u, d, l, hul, hd, hde, e⟩ := State.heardFlit_data (some ps) hc ha hk hseq hheld
  obtain ⟨ps', hg⟩ := s.gotFlit_link c.port
  rw [hg] at hul
  obtain ⟨hid, -, -, -, hka, -, -, hkf, -⟩ := rxHeader_keeps c f
  have hm : msgOf d f.owner f.payload = m := by
    have hdi : d.id = c.id := State.chan_id hd
    simp only [msgOf, hdi, m]
  obtain ⟨r, hj⟩ := State.join_one hd (by rw [hde]; exact hka.trans hasm) (by rw [hul]; exact hslots) (by rw [hm]; exact hlen)
    (by rw [hm]; exact hflags) (by rw [hm]; exact h7) (by rw [hm]; exact hres)
    (by rw [hm, State.isDead, hul]; exact hdead) (by rw [hm, hul]; exact hin) (by rw [hm, State.rxNext, hul]; exact hnext)
  rw [hm] at hj
  let v := u.join c.id f
  have hvs : v.link.slots = [oneSlot m] := by rw [show v = _ from hj]
  have hr : v.RestAs (v.settle c.id) := State.settle_rest c.id (by rw [show v = _ from hj, hul]; exact hearly)
    (State.handOver_whole hvs rfl rfl h2)
  have hv : v.chan c.id = some { d with asm := [] } := by
    rw [State.chan, show v = _ from hj]
    exact State.chan_onChan_self (s := u) (f := fun x => { x with asm := [] }) (fun _ => rfl) hd
  obtain ⟨y, hy, hyf⟩ : ∃ y, (v.settle c.id).chan c.id = some y ∧ y.freed = c.freed := by
    obtain ⟨y, hy, hyr⟩ := Option.map_eq_some_iff.mp ((hr.chan c.id).trans (congrArg (Option.map Chan.rest) hv))
    have : y.freed = d.freed := congrArg Chan.freed (a₁ := y.rest) (a₂ := Chan.rest { d with asm := [] }) hyr
    exact ⟨y, hy, this.trans (by rw [hde]; exact hkf)⟩
  have ex : exec (.dataFlitReceive c.id ⟨b, ps⟩) s = .next (v.settle c.id) :=
    (congrArg Host.Outcome.next (State.onFlit_of_good _ hc hh hp (by simp [hk]))).trans (congrArg Host.Outcome.next e)
  refine answers_of_exec ex ⟨?_, by rw [hy, ← hyf]; rfl, ?_⟩
  · rw [hr.inbox, show v = _ from hj, hul]
  · have htake : ((v.settle c.id).take m).chan c.id = _ :=
      State.take_oneSlot (s := v.settle c.id) (m := m) (by rw [hr.slots, hvs]) hy
    rw [htake, ← hyf]
    rfl

/-- An IDLE flit delivers nothing (R294). -/
theorem idleFlit_of_good {ps : Nat} (hk : f.kind = 0) : answers (.idleFlitReceive c.id ⟨b, ps⟩) s (fun t => poolOnly s t
    ∧ (s.link.early = [] → s.link.slots = [] → t.link.inbox = s.link.inbox)
    ∧ ∃ e, t.chan c.id = some e ∧ e.rxX = c.rxX ∧ e.held = c.held
      ∧ ((f.credit + 4096 - c.credSeen) % 4096 ≤ 1000 → e.credSeen = f.credit)) := by
  have hk1 : f.kind ≠ 1 := by omega
  obtain ⟨e, he, -, -, -, hx, hl, hcr⟩ := State.heardFlit_fields (some ps) hc hk1
  have ex : exec (.idleFlitReceive c.id ⟨b, ps⟩) s = .next (s.heardFlit c f (some ps)) :=
    congrArg Host.Outcome.next (State.onFlit_of_good _ hc hh hp (by simp [hk]))
  refine answers_of_exec ex ⟨(exec_same (F := linkTouch) (by simp [State.allows, linkTouch]) ex).poolOnly id id,
    fun hearly hslots => ?_, e, he, hx, hl, hcr ha⟩
  rcases State.heardFlit_eq (some ps) hc hk1 with ⟨-, h⟩ | ⟨-, h⟩
  · rw [ha] at h
    exact absurd h (by decide)
  · obtain ⟨ps', hg⟩ := s.gotFlit_link c.port
    let v := if f.mark then (s.gotFlit c.port).rxMark c f (some ps) else s.gotFlit c.port
    have hv : v.link = { s.link with ports := ps' } := by
      simp only [v]
      split
      · exact (State.rxMark_link _ _ _ _).trans hg
      · exact hg
    let u := v.onChan c.id (fun _ => rxHeader c f)
    have hu : u.link = { s.link with ports := ps', chans := u.link.chans } := by simp only [u, State.onChan, hv]
    have hr : u.RestAs (u.settle c.id) := State.settle_rest c.id (by rw [hu]; exact hearly)
      (by simp [State.handOver, show u.link.slots = [] by rw [hu]; exact hslots])
    rw [h]
    exact hr.inbox.trans (by rw [hu])

end

/-- A flit that fails is counted (R302, R306). -/
theorem failedFlit_counted {s : State} {p : Nat} (hs : s.sound) (hp : p < 36) (hh : s.hears p = true)
    (h2 : stage (s.port p) ≠ 2) (hrun : (s.port p).failRun < 15) (hb : (s.port p).bucket < 1023)
    (hl : p < s.recd.linkErr.length) (hon : s.powered (rLK_CRC_CNT p) = true) :
    answers (.failedFlit p) s (fun t => t.reg (rLK_CRC_CNT p) = satAdd (s.reg (rLK_CRC_CNT p)) 1
      ∧ t.recd.linkErr.getD p 0 = s.recd.linkErr.getD p 0 + 1 ∧ (t.port p).bucket = (s.port p).bucket + 1
      ∧ (t.port p).failRun = (s.port p).failRun + 1 ∧ (t.port p).state = (s.port p).state ∧ t.mem = s.mem) := by
  let a := (s.charge 9 1).bump (rLK_CRC_CNT p) 1
  let u : State := { a with recd := { a.recd with linkErr := setAt a.recd.linkErr p (· + 1) } }
  let v := if (s.port p).bucket = 0 then u.leakMark (keyLink p) else u
  have hvl : v.link = s.link := by
    have : u.link = s.link := State.bump_link (s.charge 9 1) _ _
    simp only [v]
    split
    · exact this
    · exact this
  have hv : v.regs = a.regs ∧ v.recd = u.recd ∧ v.mem = s.mem := by
    have hm : u.mem = s.mem := State.bump_mem (s.charge 9 1) _ _
    simp only [v]
    split
    · exact ⟨rfl, rfl, hm⟩
    · exact ⟨rfl, rfl, hm⟩
  have hport (q : Nat) : v.port q = s.port q := by rw [State.port, hvl, State.port]
  have e : exec (.failedFlit p) s = .next (v.onPort p (fun x =>
      { x with bucket := min 1024 (x.bucket + 1), failRun := x.failRun + 1 })) := by
    refine congrArg Host.Outcome.next ((if_pos hh).trans ?_)
    rw [State.failFlit]
    rw [if_neg (by rw [show (s.charge 9 1).hears p = s.hears p from rfl, hh]; decide)]
    refine (if_neg h2).trans ?_
    exact (if_neg (by show ¬1024 ≤ (s.port p).bucket + 1; omega)).trans (if_neg (by show ¬16 ≤ (s.port p).failRun + 1; omega))
  have hself := State.port_onPort_self (s := v) (p := p) (by rw [hvl, hs.portsLen]; exact hp) (fun x =>
    { x with bucket := min 1024 (x.bucket + 1), failRun := x.failRun + 1 })
  refine answers_of_exec e ⟨?_, ?_, ?_, ?_, ?_, hv.2.2⟩
  · refine Eq.trans (congrArg (fun r => spGet r (rLK_CRC_CNT p)) hv.1) (State.reg_bump_eq (s := s.charge 9 1) hs.regsWf hon 1)
  · change v.recd.linkErr.getD p 0 = _
    rw [hv.2.1]
    change (setAt a.recd.linkErr p (· + 1)).getD p 0 = _
    rw [show a.recd = s.recd from State.bump_recd (s.charge 9 1) _ _, getD_setAt]
    simp [hl]
  · rw [hself, hport]
    change min 1024 _ = _
    omega
  · rw [hself, hport]
  · rw [hself, hport]

/-- Settles O39: what a good flit leaves of its channel, and the counts of a failed one. -/
theorem flitsArrive : Obligations.FlitsArrive :=
  ⟨fun _ _ _ _ _ hc hh ha hp => ⟨fun hk hs hl => dataFlit_of_next hc ha hk hs hl hh hp,
      fun hk hseq hheld hasm hs he => dataFlit_of_message hc hh ha hp hk hseq hheld hasm hs he,
      fun hk => idleFlit_of_good hc hh ha hp hk⟩,
    fun _ _ hs hp hh h2 hr hb hl hon => failedFlit_counted hs hp hh h2 hr hb hl hon⟩

end Sys2Proof.Machine
end

section
/-! SUPPORT. Service of a port, RELAYED messages, and uplinks (R300, R305, R309 to R311; O43). -/

-- One declaration after another: the check bounds the memory, and with it the threads.
set_option Elab.async false

namespace Sys2Proof.Machine

/-! ### Service and RELAY_REJECT -/

/-- A port in waiting takes service (R305). -/
theorem portServiceStart_of_idle {s : State} {p : Nat} (hs : s.sound) (hp : p < 36) (hw : (s.port p).pendSvc = true)
    (hup : ∀ q ∈ s.parts, q.state ≠ 1) (h64 : s.stitch.count % 64 = 0) : answers (.portServiceStart p) s (fun t =>
      (t.port p).pendSvc = false ∧ (t.port p).relayed = none ∧ (t.port p).excluded = [] ∧ t.mem = s.mem ∧ t.regs = s.regs) := by
  let f (x : Port) : Port := { x with pendSvc := false, relayed := none, excluded := [] }
  have hall : s.parts.all (fun p => p.state ≠ 1) = true := List.all_eq_true.mpr fun q hq => decide_eq_true (hup q hq)
  have e : exec (.portServiceStart p) s = .next (s.onPort p f).pumpAll := if_pos (by rw [hw, hall, h64]; simp)
  have hsame := State.pumpAll_same (F := fun x => x = .free ∨ x = .link ∨ x = .power) (.refl (s.onPort p f)) (by simp) (by simp)
    (by simp)
  have hport : ((s.onPort p f).pumpAll).port p = f (s.port p) := by
    rw [State.port, (State.pumpAll_rest (.refl (s.onPort p f))).ports]
    exact State.port_onPort_self (by rw [hs.portsLen]; exact hp) f
  refine answers_of_exec e ⟨?_, ?_, ?_, hsame.mem (by simp) (by simp), hsame.regs (by simp)⟩ <;> rw [hport]

/-- A good flit excludes no relay. -/
theorem State.gotFlit_excluded {s : State} {p : Nat} (q : Nat) : ((s.gotFlit p).port q).excluded = (s.port q).excluded := by
  obtain ⟨f, e, hf, -⟩ := (s.charge 9 1).goodFlit_eq p
  rw [State.gotFlit, e, State.port, State.onPort, getD_setAt]
  split
  · exact (hf _).2.2.2.2.1
  · rfl

theorem State.hears_congr {s t : State} {p : Nat} (hb : t.boot = s.boot) (hp : stage (t.port p) = stage (s.port p)) :
    t.hears p = s.hears p := by
  rw [State.hears, hb, hp, State.hears]

theorem stage_of_rest {x y : Port} (h : x.rest = y.rest) : stage x = stage y :=
  congrArg stage (a₁ := x.rest) (a₂ := y.rest) h

/-- A RELAY_REJECT excludes the relay that sent it (R309). -/
theorem relayReject_of_relay {s : State} {c : Chan} {f : Flit} {b : Bytes} (hs : s.sound) (hc : s.chan c.id = some c)
    (hh : s.hears c.port = true) (ha : c.active = true) (hp : parseFlit b = some f) (hk : isControl 7 f = true)
    (hpod : fld f.payload 4 2 / 32 = s.pod) (h31 : s.portTo (fld f.payload 4 2 % 32) < 31)
    (hr : (s.port (s.portTo (fld f.payload 4 2 % 32))).relayed = some (c.peer % 32)) :
    answers (.relayReject c.id b) s (fun t => (t.port (s.portTo (fld f.payload 4 2 % 32))).excluded
      = (s.port (s.portTo (fld f.payload 4 2 % 32))).excluded ++ [c.peer % 32] ∧ poolOnly s t) := by
  let p := s.portTo (fld f.payload 4 2 % 32)
  let g (x : Port) : Port := { x with excluded := x.excluded ++ [c.peer % 32] }
  let u := (s.onPort p g).chooseRelay p c.id
  have hl : p < s.link.ports.length := by rw [hs.portsLen]; omega
  have hru : (s.onPort p g).RelayAs u := State.chooseRelay_relayAs _ _ _
  have e : exec (.relayReject c.id b) s = .next (u.onFlit c.id b none (isControl 7) (fun s _ _ => s)) := by
    change execRelayReject c.id b s = _
    simp only [execRelayReject, hc, hp, hh, ha, hk, Bool.and_true, if_true]
    rw [if_pos ⟨hpod, hr⟩]
  have hx := (exec_same (F := linkTouch) (by simp [State.allows, linkTouch]) e).poolOnly id id
  obtain ⟨c', hc', hf⟩ : ∃ c', u.chan c.id = some c' ∧ c'.fixed = c.fixed := by
    have := chan_of_views (s := s.onPort p g) (t := u) Chan.fixed (fun _ => rfl) hru.chans c.id
    rw [show (s.onPort p g).chan c.id = some c from hc] at this
    exact Option.map_eq_some_iff.mp this
  have hid : c'.id = c.id := State.chan_id hc'
  obtain ⟨hcp, -⟩ := Chan.fields_of_fixed hf
  have hstage : stage (u.port c.port) = stage (s.port c.port) := by
    refine (stage_of_rest (hru.port c.port)).trans ?_
    by_cases hq : c.port = p
    · rw [hq, State.port_onPort_self hl]
      rfl
    · rw [State.port_onPort_ne hl hq]
  have hboot : u.boot = s.boot := (State.chooseRelay_same (F := (· ≠ .boot)) p c.id (.refl (s.onPort p g)) nofun nofun nofun
    nofun).boot (by simp)
  have hhu : u.hears c'.port = true := by rw [hcp, State.hears_congr hboot hstage, hh]
  have e2 : u.onFlit c.id b none (isControl 7) (fun s _ _ => s) = u.heardFlit c' f none := by
    rw [← hid] at hc' ⊢
    exact State.onFlit_of_good _ hc' hhu hp hk
  rw [e2] at e
  refine answers_of_exec e ⟨?_, e2 ▸ hx⟩
  have hports := State.heardFlit_ports none (hid ▸ hc' : u.chan c'.id = some c') (kind_of_control hk)
  rw [State.port, hports]
  refine (State.gotFlit_excluded p).trans ((congrArg Port.excluded (a₁ := (u.port p).rest) (a₂ := ((s.onPort p g).port p).rest)
    (hru.port p)).trans ?_)
  rw [State.port_onPort_self hl]
  rfl

/-! ### Messages kept until they are acknowledged -/

/-- Two kept messages differ in the number of their last flit alone. -/
def TxMsg.sameBut (x m : TxMsg) : Prop := ∃ n, x = { m with lastX := n }

theorem State.stamp_sent (s : State) (c : Chan) (fs : List Flit) : (s.stamp c fs).2.link.sent = s.link.sent := by
  unfold State.stamp
  split
  · split <;> rfl
  · rfl

/-- A CONTROL flit of an intra-pod channel that may leave (R301). -/
theorem State.control_sends {s : State} {k : Nat} {c : Chan} (payload : Bytes) (hc : s.chan k = some c) (hid : c.id < 31)
    (hh : s.hears c.port = true) : (s.control k payload).link.sent = s.link.sent
      ∧ (s.control k payload).link.frames.length = s.link.frames.length + 1 := by
  have e : s.control k payload = s.drive c [chanFlit c 2 8 payload] := by
    rw [State.control, hc]
    exact if_pos hh
  rw [e]
  exact ⟨s.stamp_sent c _, s.drive_length _ hid⟩

theorem State.pump_sent (s : State) (id : Nat) {m : TxMsg} (h : ∃ x ∈ s.link.sent, x.sameBut m) :
    ∃ x ∈ (s.pump id).link.sent, x.sameBut m := by
  unfold State.pump
  split
  · exact h
  · extract_lets +onlyGivenNames base places
    split
    extract_lets +onlyGivenNames x
    split
    · exact h
    · obtain ⟨y, hy, n, rfl⟩ := h
      have hm (num : Nat → Nat) (k : Nat) : ({ m with lastX := n } : TxMsg).sameBut m
          ∧ (if ({ m with lastX := n } : TxMsg).chan = k then { ({ m with lastX := n } : TxMsg) with lastX := num n }
            else { m with lastX := n }).sameBut m := by
        refine ⟨⟨n, rfl⟩, ?_⟩
        split
        · exact ⟨num n, rfl⟩
        · exact ⟨n, rfl⟩
      exact ⟨_, List.mem_map_of_mem (by rw [← s.stamp_sent] at hy; exact hy), (hm _ _).2⟩

/-- A queued message is kept (R297). -/
theorem State.enqueue_sent {s : State} {id : Nat} (wire : Nat) (m : TxMsg) {c : Chan} (hc : s.chan id = some c) :
    ∃ x ∈ (s.enqueue id wire m).link.sent, x.sameBut { m with chan := id } := by
  rw [State.enqueue, hc]
  exact State.pump_sent _ _ ⟨_, List.mem_append_right _ (List.mem_singleton_self _), _, rfl⟩

/-! ### Bytes that wait for their cells -/

/-- What has come and what is kept are as before. -/
def State.HeldAs (s t : State) : Prop := t.link.inbox = s.link.inbox ∧ t.link.sent = s.link.sent

theorem State.HeldAs.ofLink {s t : State} (h : t.link = s.link) : s.HeldAs t := ⟨by rw [h], by rw [h]⟩

theorem State.freeHold_held {s t : State} (h : SlotHold) (ht : s.HeldAs t) : s.HeldAs (t.freeHold h) := ht

theorem State.handRows_held (s : State) (h : SlotHold) (q : Pass) (b : Bytes) : s.HeldAs (s.handRows h q b) := by
  unfold State.handRows
  split
  · exact State.freeHold_held h (.ofLink rfl)
  · split
    next e =>
      have hs := State.rowCells_same (F := (· ≠ .link)) h q b (fld b 24 4) (.refl s) nofun nofun nofun nofun nofun
      rw [e] at hs
      have hl : s.HeldAs (s.rowCells h q b (fld b 24 4)).2 := .ofLink (by rw [e]; exact hs.link (by simp))
      rw [e] at hl
      exact hl

theorem State.handPile_held (s : State) (h : SlotHold) (q : Pass) (b : Bytes) : s.HeldAs (s.handPile h q b) := by
  have hrefl : s.HeldAs s := .ofLink rfl
  unfold State.handPile
  split
  · exact hrefl
  · split
    · split
      · exact hrefl
      · exact State.freeHold_held h hrefl
    · split
      · exact hrefl
      · split
        · exact State.freeHold_held h hrefl
        · split
          · exact hrefl
          · split
            · next e =>
              exact State.freeHold_held _ (.ofLink ((State.allocStage_same (F := (· ≠ .link)) e (.refl s) nofun nofun nofun
                nofun nofun).link (by simp)))
            · exact .ofLink ((State.denied_same (F := (· ≠ .link)) false (.refl s) nofun).link (by simp))

/-- A message that neither goes on nor was discarded stays here. -/
theorem State.handTransit_held (s : State) {h : SlotHold} (hf : h.fate = 0) : s.HeldAs (s.handTransit h) := by
  unfold State.handTransit
  rw [if_neg (by omega)]
  extract_lets +onlyGivenNames b
  split
  · next e =>
    have ht := State.HeldAs.ofLink ((State.allocStage_same (F := (· ≠ .link)) e (.refl s) nofun nofun nofun nofun
      nofun).link (by simp))
    rw [if_neg (by omega)]
    exact State.freeHold_held _ ht
  · exact .ofLink ((State.denied_same (F := (· ≠ .link)) false (.refl s) nofun).link (by simp))

theorem State.handOne_held (s : State) {h : SlotHold} (hf : h.fate = 0) : s.HeldAs (s.handOne h) := by
  have hrefl : s.HeldAs s := .ofLink rfl
  unfold State.handOne
  extract_lets +onlyGivenNames r b
  split
  · exact hrefl
  · split
    · exact State.handTransit_held s hf
    · split
      · exact hrefl
      · split
        · split
          · exact State.freeHold_held h hrefl
          · split
            · exact State.handPile_held s h _ b
            · split
              · exact State.handRows_held s h _ b
              · exact State.freeHold_held h hrefl
        · split
          · exact hrefl
          · exact State.freeHold_held h hrefl

/-- One hold whose message stays here. -/
theorem State.handOver_here {s : State} {h : SlotHold} (hs : s.link.slots = [h]) (hf : h.fate = 0) :
    s.handOver.link.inbox = s.link.inbox ∧ s.handOver.link.sent = s.link.sent := by
  have hn : (s.noteList h).link = s.link :=
    (State.noteList_same (F := (· ≠ .link)) h (.refl s) nofun).link (by simp)
  have e : s.handOver = (s.noteList h).handOne h := by
    rw [State.handOver, hs, List.foldl_cons, List.foldl_nil, hn, hs]
    rfl
  rw [e]
  obtain ⟨h1, h2⟩ := State.handOne_held (s.noteList h) hf
  exact ⟨h1.trans (by rw [hn]), h2.trans (by rw [hn])⟩

/-! ### A RELAYED message for another member (R310) -/

/-- What stands in the transmitter for a message that is passed on. -/
def relayedTx (id : Nat) (m : Msg) (len : Nat) (body : Bytes) (via : Option MsgKey) (cells : List Nat) : TxMsg :=
  { chan := id, owner := m.flags / 16, typ := m.typ, flags := m.flags, src := m.src, dst := m.dst, trigger := m.trigger
    msgNo := m.msgNo, len := len, body := body, via := via, lastX := 0, chains := cells }

/-- The message stands in the transmitter of a channel, unchanged, and memory and registers are as before. -/
def goesOn (s : State) (id : Nat) (m : Msg) (t : State) (body : Bytes) (via : Option MsgKey) (cells : List Nat) : Prop :=
  t.mem = s.mem ∧ t.regs = s.regs ∧ ∃ x ∈ t.link.sent, x.chan = id ∧ x.owner = m.flags / 16 ∧ x.dst = m.dst ∧ x.src = m.src
    ∧ x.flags = m.flags ∧ x.msgNo = m.msgNo ∧ x.typ = m.typ ∧ x.trigger = m.trigger ∧ x.len = m.length ∧ x.body = body
    ∧ x.via = via ∧ x.chains = cells

theorem goesOn_enqueue {s u : State} {id : Nat} {c : Chan} (m : Msg) (body : Bytes) (via : Option MsgKey) (cells : List Nat)
    (hc : u.chan id = some c) (hm : u.mem = s.mem) (hr : u.regs = s.regs) :
    goesOn s id m (u.enqueue id 8 (relayedTx id m m.length body via cells)) body via cells := by
  have hsame := State.enqueue_same (F := fun x => x = .free ∨ x = .link ∨ x = .power) id 8
    (relayedTx id m m.length body via cells) (.refl u) (by simp) (by simp) (by simp)
  refine ⟨(hsame.mem (by simp) (by simp)).trans hm, (hsame.regs (by simp)).trans hr, ?_⟩
  obtain ⟨x, hx, n, rfl⟩ := State.enqueue_sent 8 (relayedTx id m m.length body via cells) hc
  exact ⟨_, hx, rfl, rfl, rfl, rfl, rfl, rfl, rfl, rfl, rfl, rfl, rfl, rfl⟩

/-- Nothing is held for the message: taking it empties the inbox alone. -/
theorem State.take_unheld {s : State} {m : Msg} (h : s.link.slots.find? (holdIs m) = none) :
    s.take m = { s with link := { s.link with inbox := s.link.inbox.erase m } } := by
  have hf : s.link.slots.filter (holdIs m) = [] :=
    List.filter_eq_nil_iff.mpr fun x hx => by simpa using List.find?_eq_none.mp h x hx
  have hn : s.link.slots.filter (fun x => !holdIs m x) = s.link.slots :=
    List.filter_eq_self.mpr fun x hx => by simpa using List.find?_eq_none.mp h x hx
  rw [State.take, State.dropHold, State.dropHolds]
  simp only [hf, hn]
  rfl

/-- The only hold is the message's: taking it frees the slots and the cells. -/
theorem State.take_held {s : State} {m : Msg} {h : SlotHold} (hs : s.link.slots = [h]) (hh : holdIs m h = true) :
    s.take m = (h.chains.foldl State.releaseId { s with link := { s.link with inbox := s.link.inbox.erase m, slots := [] } }).freeSlots
      h.chan h.n := by
  rw [State.take, State.dropHold, State.dropHolds]
  simp only [hs, List.filter_singleton, hh, Bool.not_true]
  rfl

theorem State.freeSlots_chan {s : State} {k : Nat} {c : Chan} (hc : s.chan k = some c) (j n : Nat) :
    (s.freeSlots j n).chan k = some (if c.id = j then { c with freed := c.freed + n } else c) := by
  refine (State.chan_onChan s j (fun c => { c with freed := c.freed + n }) (fun _ => rfl) k).trans ?_
  rw [hc]
  rfl

theorem State.putHold_one {s : State} {h k : SlotHold} (hs : s.link.slots = [h]) (hk : h.key = k.key) :
    s.putHold k = { s with link := { s.link with slots := [k] } } := by
  rw [State.putHold, hs, List.map_singleton, if_pos hk]

/-- What is held of a message is dropped; what is still to come of it is dropped as it arrives (R310). -/
theorem State.discard_held {s : State} {m : Msg} {h : SlotHold} (hs : s.link.slots = [h]) (hh : holdIs m h = true) :
    ∃ l, (s.discard m).link = { s.link with
        inbox := l, slots := if h.whole then [] else [{ h with chains := [], fate := 2, n := 0 }]
        chans := (s.freeSlots h.chan h.n).link.chans } ∧ (s.discard m).boot = s.boot := by
  have hrel (u : State) : (h.chains.foldl State.releaseId u).link = u.link :=
    foldl_view (fun s => s.link) _ State.releaseId_link _ _
  have hb : (s.discard m).boot = s.boot :=
    (State.discard_same (F := (· ≠ .boot)) m (.refl s) nofun nofun nofun nofun nofun nofun).boot (by simp)
  have e : s.discard m = if h.whole then s.take m else (h.chains.foldl State.releaseId s).freeHold { h with chains := [], fate := 2 } := by
    rw [State.discard, hs, List.find?_cons_of_pos hh]
  by_cases hw : h.whole = true
  · refine ⟨s.link.inbox.erase m, ?_, hb⟩
    rw [e, if_pos hw, if_pos hw, State.take_held hs hh]
    simp only [State.freeSlots, State.onChan, hrel]
  · refine ⟨s.link.inbox, ?_, hb⟩
    have hput := State.putHold_one (s := h.chains.foldl State.releaseId s) (h := h)
      (k := { h with chains := [], fate := 2, n := 0 }) (by rw [hrel]; exact hs) rfl
    rw [e, if_neg hw, if_neg hw, State.freeHold]
    refine (congrArg (fun u : State => (u.freeSlots h.chan h.n).link) hput).trans ?_
    simp only [State.freeSlots, State.onChan, hrel]

section
variable {s : State} {m : Msg} {c : Chan} (hin : s.link.inbox = [m]) (hflags : bit m.flags 0 = true) (hdst : m.dst ≠ s.member)
  (hpod : m.dst / 32 = s.pod) (hc : s.chan (s.portTo (m.dst % 32)) = some c)
include hin hflags hdst

/-- A message that goes on already, or was discarded, is passed on no second time. -/
theorem relayForward_again {h : SlotHold} (hs : s.link.slots = [h]) (hh : holdIs m h = true) (hf : h.fate ≠ 0) :
    answers (.relayForward m) s (fun t => t = s) := by
  refine answers_of_exec (t := s) ?_ rfl
  change execRelayForward m s = _
  rw [execRelayForward, if_neg (by simp [State.holds, hin, hflags, hdst])]
  exact if_pos (by simp [hs, hh, hf])

include hpod hc

/-- The message is passed on where the port of its destination is ACTIVE. -/
theorem exec_relayForward_active (ha : s.active c.port = true)
    (hfresh : s.link.slots.any (fun h => holdIs m h && h.fate != 0) = false) : exec (.relayForward m) s
      = match s.passOn m (fun u len body via cells => u.enqueue (s.portTo (m.dst % 32)) 8
          (relayedTx (s.portTo (m.dst % 32)) m len body via cells)) with
        | some t => .next t
        | none => .next s.handOver := by
  change execRelayForward m s = _
  rw [execRelayForward, if_neg (by simp [State.holds, hin, hflags, hdst])]
  simp only [hfresh, hpod, if_true, hc, ha, beq_self_eq_true, Bool.true_or, Bool.and_true, Bool.not_false, Bool.not_true,
    Bool.false_eq_true, if_false]
  rfl

/-- It is discarded, and a RELAY_REJECT drawn, where that port is not ACTIVE. -/
theorem exec_relayForward_down (ha : s.active c.port = false)
    (hfresh : s.link.slots.any (fun h => holdIs m h && h.fate != 0) = false) : exec (.relayForward m) s
      = .next ((s.discard m).control m.chan (rejectPayload m.dst (m.flags / 16) m.msgNo)) := by
  change execRelayForward m s = _
  rw [execRelayForward, if_neg (by simp [State.holds, hin, hflags, hdst])]
  simp only [hfresh, hpod, if_true, hc, ha, beq_self_eq_true, Bool.and_false, Bool.not_false, Bool.not_true, Bool.false_eq_true,
    if_false]

/-- All of it is here, with no slot held. -/
theorem relayForward_of_unheld (ha : s.active c.port = true) (hn : s.link.slots.find? (holdIs m) = none) :
    answers (.relayForward m) s (fun t => goesOn s (s.portTo (m.dst % 32)) m t m.body none [] ∧ t.link.inbox = []) := by
  have hfresh : s.link.slots.any (fun h => holdIs m h && h.fate != 0) = false :=
    List.any_eq_false.mpr fun x hx => by
      have := List.find?_eq_none.mp hn x hx
      simp [Bool.eq_false_iff.mpr this]
  have e := exec_relayForward_active hin hflags hdst hpod hc ha hfresh
  simp only [State.passOn, hn, State.take_unheld hn, hin, List.erase_cons_head] at e
  refine answers_of_exec e ⟨goesOn_enqueue m m.body none [] hc rfl rfl, ?_⟩
  exact (State.enqueue_rest _ _ _ (.refl _)).inbox

section
variable {h : SlotHold} (ha : s.active c.port = true) (hs : s.link.slots = [h]) (hh : holdIs m h = true) (hf : h.fate = 0)
include ha hs hh hf

theorem exec_relayForward_held : exec (.relayForward m) s
    = (match (if h.got ≤ h.n then none
        else if h.whole ∧ h.n = 0 then
          some (((s.putHold { h with chains := [] }).take m).enqueue (s.portTo (m.dst % 32)) 8
            (relayedTx (s.portTo (m.dst % 32)) m m.length m.body none h.chains))
        else some ((s.putHold { h with chains := [], fate := 1 }).enqueue (s.portTo (m.dst % 32)) 8
          (relayedTx (s.portTo (m.dst % 32)) m m.length (m.body.take (496 * (h.got - h.n) - 16)) (some h.key) h.chains))) with
      | some t => .next t
      | none => .next s.handOver) := by
  refine (exec_relayForward_active hin hflags hdst hpod hc ha (by simp [hs, hf])).trans ?_
  rw [State.passOn, hs, List.find?_cons_of_pos hh]
  simp only [hf, ne_eq, not_true_eq_false, false_or]

/-- All of it is here, in staging cells. -/
theorem relayForward_of_whole (h0 : h.n = 0) (hgot : 0 < h.got) (hw : h.whole = true) : answers (.relayForward m) s (fun t =>
    goesOn s (s.portTo (m.dst % 32)) m t m.body none h.chains ∧ t.link.inbox = [] ∧ t.link.slots = []) := by
  have e := exec_relayForward_held hin hflags hdst hpod hc ha hs hh hf
  rw [if_neg (by omega), if_pos ⟨hw, h0⟩] at e
  let u : State := { s with link := { s.link with slots := [{ h with chains := [] }] } }
  have hput : s.putHold { h with chains := [] } = u := State.putHold_one hs rfl
  have htake : u.take m = ({ u with link := { u.link with inbox := [], slots := [] } } : State).freeSlots h.chan h.n := by
    rw [State.take_held (s := u) rfl hh]
    rw [show u.link.inbox.erase m = [] by simp [u, hin]]
    rfl
  rw [hput, htake] at e
  have hc' : (({ u with link := { u.link with inbox := [], slots := [] } } : State).freeSlots h.chan h.n).chan
      (s.portTo (m.dst % 32)) = some (if c.id = h.chan then { c with freed := c.freed + h.n } else c) :=
    State.freeSlots_chan (s := { u with link := { u.link with inbox := [], slots := [] } }) hc _ _
  have hr := State.enqueue_rest (s.portTo (m.dst % 32)) 8 (relayedTx (s.portTo (m.dst % 32)) m m.length m.body none h.chains)
    (.refl (({ u with link := { u.link with inbox := [], slots := [] } } : State).freeSlots h.chan h.n))
  exact answers_of_exec e ⟨goesOn_enqueue m m.body none h.chains hc' rfl rfl, hr.inbox, hr.slots⟩

/-- The flits that have their cells go on, the rest is awaited. -/
theorem relayForward_of_part (hgot : h.n < h.got) (hw : h.whole = false ∨ h.n ≠ 0) : answers (.relayForward m) s (fun t =>
    goesOn s (s.portTo (m.dst % 32)) m t (m.body.take (496 * (h.got - h.n) - 16)) (some h.key) h.chains ∧ t.link.inbox = [m]
      ∧ t.link.slots = [{ h with chains := [], fate := 1 }]) := by
  have e := exec_relayForward_held hin hflags hdst hpod hc ha hs hh hf
  rw [if_neg (by omega), if_neg (by rintro ⟨h1, h2⟩; rcases hw with h | h <;> simp_all)] at e
  let u : State := { s with link := { s.link with slots := [{ h with chains := [], fate := 1 }] } }
  have hput : s.putHold { h with chains := [], fate := 1 } = u := State.putHold_one hs rfl
  rw [hput] at e
  have hr := State.enqueue_rest (s.portTo (m.dst % 32)) 8
    (relayedTx (s.portTo (m.dst % 32)) m m.length (m.body.take (496 * (h.got - h.n) - 16)) (some h.key) h.chains) (.refl u)
  exact answers_of_exec e ⟨goesOn_enqueue m _ (some h.key) h.chains hc rfl rfl, hr.inbox.trans hin, hr.slots⟩

/-- None of its flits has its cells yet. -/
theorem relayForward_of_uncelled (hgot : h.got ≤ h.n) : answers (.relayForward m) s (fun t => t.link.inbox = [m]
    ∧ t.link.sent = s.link.sent ∧ poolOnly s t) := by
  have e := exec_relayForward_held hin hflags hdst hpod hc ha hs hh hf
  rw [if_pos hgot] at e
  obtain ⟨h1, h2⟩ := State.handOver_here (s := s) (h := h) hs hf
  exact answers_of_exec e ⟨h1.trans hin, h2, (exec_same (F := linkTouch) (by simp [State.allows, linkTouch]) e).poolOnly id id⟩

end

section
variable {e : Chan} (ha : s.active c.port = false) (he : s.chan m.chan = some e) (hid : e.id < 31) (hh : s.hears e.port = true)
include ha he hid hh

/-- A message that nothing holds is dropped, and its sender told. -/
theorem relayReject_of_unheld (hn : s.link.slots.find? (holdIs m) = none) : answers (.relayForward m) s (fun t =>
    t.link.inbox = [] ∧ t.link.sent = s.link.sent ∧ t.link.frames.length = s.link.frames.length + 1 ∧ poolOnly s t) := by
  have hfresh : s.link.slots.any (fun h => holdIs m h && h.fate != 0) = false :=
    List.any_eq_false.mpr fun x hx => by
      have := List.find?_eq_none.mp hn x hx
      simp [Bool.eq_false_iff.mpr this]
  have ex := exec_relayForward_down hin hflags hdst hpod hc ha hfresh
  have hd : s.discard m = { s with link := { s.link with inbox := [] } } := by
    rw [State.discard, hn]
    refine (State.take_unheld hn).trans ?_
    rw [hin, List.erase_cons_head]
  rw [hd] at ex
  obtain ⟨h1, h2⟩ := State.control_sends (s := { s with link := { s.link with inbox := [] } })
    (rejectPayload m.dst (m.flags / 16) m.msgNo) he hid hh
  exact answers_of_exec ex ⟨(State.control_rest _ _ (.refl _)).inbox, h1, h2,
    (exec_same (F := linkTouch) (by simp [State.allows, linkTouch]) ex).poolOnly id id⟩

/-- What has come of it is dropped with its cells, and its sender told. -/
theorem relayReject_of_held {h : SlotHold} (hs : s.link.slots = [h]) (hk : holdIs m h = true) (hf : h.fate = 0) :
    answers (.relayForward m) s (fun t => t.link.sent = s.link.sent ∧ t.link.frames.length = s.link.frames.length + 1
      ∧ poolOnly s t ∧ t.link.slots = if h.whole then [] else [{ h with chains := [], fate := 2, n := 0 }]) := by
  have ex := exec_relayForward_down hin hflags hdst hpod hc ha (by simp [hs, hf])
  obtain ⟨l, hl, hb⟩ := State.discard_held hs hk
  have hchan : (s.discard m).chan m.chan = some (if e.id = h.chan then { e with freed := e.freed + h.n } else e) := by
    rw [State.chan, hl]
    exact State.freeSlots_chan he h.chan h.n
  have hport (p : Nat) : (s.discard m).port p = s.port p := by rw [State.port, hl, State.port]
  obtain ⟨h1, h2⟩ := State.control_sends (rejectPayload m.dst (m.flags / 16) m.msgNo) hchan
    (by split <;> exact hid) (by
      rw [← hh]
      split <;> exact State.hears_congr hb (by rw [hport]))
  refine answers_of_exec ex ⟨h1.trans (by rw [hl]), h2.trans (by rw [hl]),
    (exec_same (F := linkTouch) (by simp [State.allows, linkTouch]) ex).poolOnly id id, ?_⟩
  exact (State.control_rest _ _ (.refl _)).slots.trans (by rw [hl])

end

end

/-! ### Uplinks (R300, R311) -/

/-- An uplink channel whose ACK moved sends one IDLE frame. -/
theorem uplinkIdleFrame_of_moved {s : State} {c : Chan} (hc : s.chan c.id = some c) (hid : 31 ≤ c.id) (hp : 31 ≤ c.port)
    (ha : s.active c.port = true) (hack : c.lastAck ≠ c.rxX % 65536) (hm : c.markDue = false) :
    answers (.uplinkIdleFrame c.id) s (fun t => t.link.frames
        = s.link.frames ++ [(c.port, s.frame c ((List.replicate 8 (idleFlit c)).map flitBytes))]
      ∧ (t.chan c.id).map (fun e => (e.lastAck, e.lastCred)) = some (c.rxX % 65536, c.freed % 4096) ∧ t.mem = s.mem) := by
  have hn : ¬c.id < 31 := by omega
  have hs : s.stamp c (List.replicate 8 (idleFlit c)) = (List.replicate 8 (idleFlit c), s) := if_neg (by simp [hm])
  have hf : s.framesOf c ((List.replicate 8 (idleFlit c)).length + 1) (List.replicate 8 (idleFlit c))
      = [s.frame c ((List.replicate 8 (idleFlit c)).map flitBytes)] := rfl
  have e : exec (.uplinkIdleFrame c.id) s = .next ({ s.charge 8 8 with link := { s.link with
      frames := s.link.frames ++ [(c.port, s.frame c ((List.replicate 8 (idleFlit c)).map flitBytes))] } }.onChan c.id c.sentOne) := by
    change execUplinkIdleFrame c.id s = _
    rw [execUplinkIdleFrame, hc]
    refine (if_pos ⟨hp, ha, .inl hack⟩).trans (congrArg Host.Outcome.next ?_)
    rw [State.drive, hs, State.emit, if_neg hn, if_neg hn, hf]
    rfl
  have hself := State.chan_onChan_self (s := { s.charge 8 8 with link := { s.link with
      frames := s.link.frames ++ [(c.port, s.frame c ((List.replicate 8 (idleFlit c)).map flitBytes))] } })
    (f := c.sentOne) (fun _ => rfl) hc
  exact answers_of_exec e ⟨rfl, by rw [hself]; rfl, rfl⟩

/-- What a failed flit of an ACTIVE port adds (R302, R306). -/
structure Failed (s : State) (p n : Nat) (t : State) : Prop where
  bucket : (t.port p).bucket = (s.port p).bucket + n
  failRun : (t.port p).failRun = (s.port p).failRun + n
  state : (t.port p).state = (s.port p).state
  length : t.link.ports.length = s.link.ports.length
  regs : spWf t.regs = true
  reg : t.reg (rLK_CRC_CNT p) = satAdd (s.reg (rLK_CRC_CNT p)) n
  on : t.power.domOn = s.power.domOn
  boot : t.boot = s.boot
  mem : t.mem = s.mem

theorem satAdd_satAdd (v : Word) (m n : Nat) : satAdd (satAdd v m) n = satAdd v (m + n) := by
  apply BitVec.eq_of_toNat_eq
  simp only [satAdd, BitVec.toNat_ofNat]
  omega

/-- One more flit fails on an ACTIVE port, short of its bounds. -/
theorem Failed.next {s t : State} {p n : Nat} (h : Failed s p n t) (hl : p < s.link.ports.length) (h5 : (s.port p).state = 5)
    (hr : s.boot.rstLow = false) (hb : (s.port p).bucket + n < 1023) (hf : (s.port p).failRun + n < 15)
    (hon : s.powered (rLK_CRC_CNT p) = true) : Failed s p (n + 1) (t.badFlit p) := by
  obtain ⟨kb, kf, k5, kl, kw, kr, ko, kboot, km⟩ := h
  have hst : stage (t.port p) = 5 := stage_of_state (k5.trans h5) (by decide)
  have hh : t.hears p = true := by simp [State.hears, kboot, hr, hst]
  let a := (t.charge 9 1).bump (rLK_CRC_CNT p) 1
  let u : State := { a with recd := { a.recd with linkErr := setAt a.recd.linkErr p (· + 1) } }
  let v := if (t.port p).bucket = 0 then u.leakMark (keyLink p) else u
  have ha : a.link = t.link ∧ a.mem = t.mem ∧ a.power.domOn = t.power.domOn ∧ a.boot = t.boot := by
    refine ⟨State.bump_link _ _ _, State.bump_mem _ _ _, ?_, State.bump_boot _ _ _⟩
    rw [State.bump_power]
    rfl
  have hv : v.regs = a.regs ∧ v.link = a.link ∧ v.mem = a.mem ∧ v.power = a.power ∧ v.boot = a.boot := by
    simp only [v]
    split
    · exact ⟨rfl, rfl, rfl, rfl, rfl⟩
    · exact ⟨rfl, rfl, rfl, rfl, rfl⟩
  obtain ⟨al, am, ao, ab⟩ := ha
  obtain ⟨vr, vl, vm, vp, vb⟩ := hv
  let g (x : Port) : Port := { x with bucket := min 1024 (x.bucket + 1), failRun := x.failRun + 1 }
  have e : t.badFlit p = v.onPort p g := by
    refine (if_pos hh).trans ?_
    rw [State.failFlit, if_neg (by rw [show (t.charge 9 1).hears p = t.hears p from rfl, hh]; decide)]
    refine (if_neg (by rw [show (t.charge 9 1).port p = t.port p from rfl, hst]; decide)).trans ?_
    exact (if_neg (by show ¬1024 ≤ (t.port p).bucket + 1; omega)).trans (if_neg (by show ¬16 ≤ (t.port p).failRun + 1; omega))
  have hport : v.port p = t.port p := by rw [State.port, vl, al, State.port]
  have hself : (v.onPort p g).port p = g (t.port p) := by
    rw [State.port_onPort_self (by rw [vl, al, kl]; exact hl), hport]
  have hpow : (t.charge 9 1).powered (rLK_CRC_CNT p) = true := (State.powered_congr (s := s) ko _).trans hon
  rw [e]
  refine ⟨?_, ?_, ?_, ?_, ?_, ?_, ?_, vb.trans (ab.trans kboot), vm.trans (am.trans km)⟩
  · rw [hself]
    change min 1024 _ = _
    omega
  · rw [hself]
    change (t.port p).failRun + 1 = _
    omega
  · rw [hself]
    exact k5
  · change (setAt v.link.ports p g).length = _
    rw [length_setAt, vl, al, kl]
  · exact vr ▸ State.spWf_regs_bump (s := t.charge 9 1) kw _ _
  · refine (congrArg (fun r => spGet r (rLK_CRC_CNT p)) vr).trans ((State.reg_bump_eq (s := t.charge 9 1) kw hpow 1).trans ?_)
    rw [show (t.charge 9 1).reg (rLK_CRC_CNT p) = t.reg (rLK_CRC_CNT p) from rfl, kr, satAdd_satAdd]
  · exact (congrArg PowerSt.domOn vp).trans (ao.trans ko)

/-- A lost frame counts eight failed flits (R300). -/
theorem uplinkFrameLost_of_active {s : State} {p : Nat} (hs : s.sound) (h31 : 31 ≤ p) (hp : p < 36) (h5 : (s.port p).state = 5)
    (hr : s.boot.rstLow = false) (hf : (s.port p).failRun < 8) (hb : (s.port p).bucket < 1016)
    (hon : s.powered (rLK_CRC_CNT p) = true) : answers (.uplinkFrameLost p) s (fun t =>
      (t.port p).bucket = (s.port p).bucket + 8 ∧ (t.port p).failRun = (s.port p).failRun + 8
        ∧ t.reg (rLK_CRC_CNT p) = satAdd (s.reg (rLK_CRC_CNT p)) 8 ∧ t.mem = s.mem) := by
  have hl : p < s.link.ports.length := by rw [hs.portsLen]; exact hp
  have hn (n : Nat) (h : n ≤ 8) : Failed s p n ((List.range n).foldl (fun s _ => s.badFlit p) s) := by
    induction n with
    | zero =>
      refine ⟨rfl, rfl, rfl, rfl, hs.regsWf, ?_, rfl, rfl, rfl⟩
      have := (s.reg (rLK_CRC_CNT p)).isLt
      refine BitVec.eq_of_toNat_eq ?_
      simp only [satAdd, BitVec.toNat_ofNat]
      change (s.reg (rLK_CRC_CNT p)).toNat = _
      omega
    | succ n ih =>
      rw [List.range_succ, List.foldl_append]
      exact (ih (by omega)).next hl h5 hr (by omega) (by omega) hon
  obtain ⟨k1, k2, -, -, -, k3, -, -, k4⟩ := hn 8 (Nat.le_refl 8)
  exact answers_of_exec (if_pos h31) ⟨k1, k2, k3, k4⟩

/-- The shares of the channels of a port are divided anew (R311). -/
theorem uplinkShareRedivide_of_still {s : State} {p : Nat} (hs : s.sound) (hp : p < 36) (hd : (s.port p).rediv = true)
    (hc : ∀ c ∈ s.link.chans, c.port = p → c.unacked = [] ∧ c.held = [] ∧ c.missing = [] ∧ c.lastAck = c.rxX % 65536) :
    answers (.uplinkShareRedivide p) s (fun t => (t.port p).rediv = false
      ∧ (∀ c ∈ t.link.chans, 31 ≤ c.id → c.port = p →
        c.share = 1000 / max 1 (t.link.chans.filter (fun e => e.port == p)).length)
      ∧ (∀ c ∈ t.link.chans, c.port ≠ p → c ∈ s.link.chans)
      ∧ t.link.frames = s.link.frames ∧ t.mem = s.mem ∧ t.regs = s.regs) := by
  let n := (s.link.chans.filter (fun e => e.port == p)).length
  let u := s.onPort p (fun x => { x with rediv := false })
  let g (c : Chan) : Chan := if c.id < 31 ∨ !(c.port == p) then c
    else { c with share := 1000 / max 1 (s.link.chans.filter (fun e => e.port == c.port)).length }
  have e : exec (.uplinkShareRedivide p) s = .next { u with link := { u.link with chans := s.link.chans.map g } } := by
    refine if_pos ?_
    rw [hd, Bool.true_and, List.all_eq_true]
    intro c hcm
    obtain ⟨hcs, hcp⟩ := List.mem_filter.mp hcm
    obtain ⟨h1, h2, h3, h4⟩ := hc c hcs (by simpa using hcp)
    simp [h1, h2, h3, h4]
  have hgp (c : Chan) : (g c).port = c.port := by
    simp only [g]
    split <;> rfl
  have hgi (c : Chan) : (g c).id = c.id := by
    simp only [g]
    split <;> rfl
  have hn : ((s.link.chans.map g).filter (fun e => e.port == p)).length = n := by
    rw [List.filter_map, List.length_map]
    simp only [Function.comp_def, hgp, n]
  have hself : u.port p = _ := State.port_onPort_self (by rw [hs.portsLen]; exact hp) _
  refine answers_of_exec e ⟨?_, ?_, ?_, rfl, rfl, rfl⟩
  · change (u.port p).rediv = false
    rw [hself]
  · intro c hcm hid hcp
    change c.share = 1000 / max 1 ((s.link.chans.map g).filter (fun e => e.port == p)).length
    obtain ⟨d, hd, rfl⟩ := List.mem_map.mp hcm
    rw [hgi] at hid
    rw [hgp] at hcp
    rw [hn]
    simp only [g]
    rw [if_neg (by rintro (h | h); · omega
                   · simp [hcp] at h), hcp]
  · intro c hcm hcp
    obtain ⟨d, hd, rfl⟩ := List.mem_map.mp hcm
    rw [hgp] at hcp
    have : g d = d := if_pos (.inr (by simp [hcp]))
    rw [this]
    exact hd

/-- Settles O43: a message that is passed on stands unchanged in the transmitter of its way. -/
theorem relayAndUplinkComplete : Obligations.RelayAndUplinkComplete :=
  ⟨fun _ _ hs hp hw hup h64 => portServiceStart_of_idle hs hp hw hup h64,
    fun _ _ _ _ hs hc hh ha hp hk hpod h31 hr => relayReject_of_relay hs hc hh ha hp hk hpod h31 hr,
    fun _ _ _ hin hf hd hp hc => ⟨fun ha hn => relayForward_of_unheld hin hf hd hp hc ha hn,
      fun _ ha hs hh h0 => ⟨fun hg => relayForward_of_uncelled hin hf hd hp hc ha hs hh h0 hg,
        fun hn hg hw => relayForward_of_whole hin hf hd hp hc ha hs hh h0 hn hg hw,
        fun hg hw => relayForward_of_part hin hf hd hp hc ha hs hh h0 hg hw⟩,
      fun _ hs hh h0 => relayForward_again hin hf hd hs hh h0,
      fun _ ha he hid hh => ⟨fun hn => relayReject_of_unheld hin hf hd hp hc ha he hid hh hn,
        fun _ hs hk h0 => relayReject_of_held hin hf hd hp hc ha he hid hh hs hk h0⟩⟩,
    fun _ _ hc hid hp ha hack hm => uplinkIdleFrame_of_moved hc hid hp ha hack hm,
    fun _ _ hs h31 hp h5 hr hf hb hon => uplinkFrameLost_of_active hs h31 hp h5 hr hf hb hon,
    fun _ _ hs hp hd hc => uplinkShareRedivide_of_still hs hp hd hc⟩

end Sys2Proof.Machine
end

section
/-! SUPPORT. What the taking of a message leaves, and the messages of a launch (R118 to R120; O44). -/

-- One declaration after another: the check bounds the memory, and with it the threads.
set_option Elab.async false

namespace Sys2Proof.Machine

/-! ### A message is taken -/

/-- What the taking of a message touches. -/
def takeTouch : Touch → Prop
  | .regs | .pool | .memp | .hamper | .link | .power => True
  | _ => False

theorem State.take_touch (s : State) (m : Msg) : s.Same takeTouch (s.take m) :=
  State.take_same m (.refl s) trivial trivial trivial trivial trivial trivial

theorem State.dropHolds_inbox (s : State) (f : SlotHold → Bool) : (s.dropHolds f).link.inbox = s.link.inbox := by
  refine foldl_view (fun s => s.link.inbox) _ (fun u h => ?_) _ { s with link := { s.link with
    slots := s.link.slots.filter (fun h => !f h) } }
  change (h.chains.foldl State.releaseId u).link.inbox = _
  rw [foldl_view (fun s => s.link) _ State.releaseId_link]

theorem State.take_inbox (s : State) (m : Msg) : (s.take m).link.inbox = s.link.inbox.erase m :=
  State.dropHolds_inbox _ _

theorem State.take_powered (s : State) (m : Msg) (a : Nat) : (s.take m).powered a = s.powered a :=
  State.powered_congr ((s.take_touch m).domOn id (.inl id)) a

theorem State.take_reg {s : State} (m : Msg) {a : Nat} (h : a ≠ rREF_ERR_CNT) : (s.take m).reg a = s.reg a :=
  (s.take_regs m).reg a h

/-- A register counts once a message has been taken. -/
theorem State.take_bump_reg {s : State} (m : Msg) {a : Nat} (hs : spWf s.regs = true) (hp : s.powered a = true)
    (h : a ≠ rREF_ERR_CNT) (n : Nat) : ((s.take m).bump a n).reg a = satAdd (s.reg a) n := by
  rw [State.reg_bump_eq ((s.take_touch m).regsWf hs) ((s.take_powered m a).trans hp), State.take_reg m h]

/-- The handler of a manager message that is due, sound and of a live sender (R308). -/
theorem State.mgrTake_of_due {s : State} {m : Msg} {typ orig : Nat} {ok : Bool} (f : State → State) (hd : due s m typ)
    (hok : ok = true) (hdead : s.isDead orig = false) : s.mgrTake m typ orig ok f = f (s.take m) := by
  obtain ⟨h1, h2, h3, h4⟩ := hd
  rw [State.mgrTake, if_neg (by simp [h1, h2, h3]), h4, if_neg (by decide), hok, if_neg (by decide), hdead, if_neg (by simp)]

/-! ### READY and POD_READY -/

/-- The row in which a manager collects a launch (R118). -/
def State.launchRow (s : State) (g stepNo : Nat) : LaunchSt :=
  match s.launchOf g with
  | some l => if l.done || decide (l.stepNo ≠ stepNo) then freshLaunch g stepNo else l
  | none => freshLaunch g stepNo

theorem State.onLaunch_launches (s : State) (g stepNo : Nat) (f : LaunchSt → LaunchSt) : (s.onLaunch g stepNo f).mgr.launches
    = s.mgr.launches.filter (fun l => l.group != g) ++ [f (s.launchRow g stepNo)] := rfl

theorem State.launchRow_fields (s : State) (g stepNo : Nat) :
    (s.launchRow g stepNo).group = g ∧ (s.launchRow g stepNo).stepNo = stepNo := by
  unfold State.launchRow
  split
  · next l h =>
    split
    · exact ⟨rfl, rfl⟩
    · next hn =>
      refine ⟨?_, (by simpa using hn : l.done = false ∧ l.stepNo = stepNo).2⟩
      simpa using List.find?_some h
  · exact ⟨rfl, rfl⟩

theorem State.launchRow_of_open {s : State} {g stepNo : Nat} {l : LaunchSt} (h : s.launchOf g = some l) (hd : l.done = false)
    (hn : l.stepNo = stepNo) : s.launchRow g stepNo = l := by
  rw [State.launchRow, h]
  exact if_neg (by simp [hd, hn])

theorem State.launchOf_onLaunch (s : State) {g stepNo : Nat} {f : LaunchSt → LaunchSt} (hf : ∀ l, (f l).group = l.group) :
    (s.onLaunch g stepNo f).launchOf g = some (f (s.launchRow g stepNo)) := by
  have h1 : ∀ x ∈ s.mgr.launches.filter (fun l => l.group != g), ¬(x.group == g) = true := fun x hx => by
    simpa using (List.mem_filter.mp hx).2
  rw [State.launchOf, State.onLaunch_launches, List.find?_append, List.find?_eq_none.mpr h1]
  simp [hf, s.launchRow_fields g stepNo]

/-- A launch row but for whether the launch is decided. -/
def sameReports (l k : LaunchSt) : Prop := k.group = l.group ∧ k.stepNo = l.stepNo ∧ k.heard = l.heard ∧ k.pods = l.pods

theorem State.toPod_mgr (s : State) (typ : Nat) (body : Bytes) : (s.toPod typ body).mgr = s.mgr :=
  (State.toPod_same (F := (· ≠ .mgr)) typ body (.refl s) nofun nofun nofun nofun).mgr (by simp)

theorem State.decideLaunch_row {s : State} {g : Nat} {l : LaunchSt} (h : s.launchOf g = some l) (hd : l.done = false)
    (sets : List (List Nat)) : ∃ k ∈ (s.decideLaunch g l.stepNo sets).mgr.launches, sameReports l k := by
  have hl : l ∈ s.mgr.launches := List.mem_of_find?_eq_some h
  unfold State.decideLaunch
  split
  · exact ⟨l, by rw [State.raise_mgr]; exact hl, rfl, rfl, rfl, rfl⟩
  · split
    · exact ⟨l, hl, rfl, rfl, rfl, rfl⟩
    · extract_lets +onlyGivenNames at_ body u v
      have hv : v.mgr = u.mgr := foldl_view (fun s => s.mgr) _ (fun w q =>
        (State.sendMgr_same (F := (· ≠ .mgr)) _ _ _ (.refl w) nofun nofun nofun nofun).mgr (by simp)) _ u
      refine ⟨{ l with done := true }, ?_, rfl, rfl, rfl, rfl⟩
      rw [State.toPod_mgr, hv]
      refine List.mem_append_right _ (List.mem_singleton.mpr ?_)
      exact congrArg (fun x : LaunchSt => { x with done := true }) (State.launchRow_of_open h hd rfl).symm

/-- What a manager has heard stays while it decides the launch (R118, R119). -/
theorem State.tryLaunch_row {s : State} {g : Nat} {l : LaunchSt} (h : s.launchOf g = some l) :
    ∃ k ∈ (s.tryLaunch g).mgr.launches, sameReports l k := by
  have hl : l ∈ s.mgr.launches := List.mem_of_find?_eq_some h
  have hself : ∃ k ∈ s.mgr.launches, sameReports l k := ⟨l, hl, rfl, rfl, rfl, rfl⟩
  rw [State.tryLaunch, h]
  dsimp only
  split
  · exact hself
  · next hd =>
    have hd : l.done = false := by
      cases hl : l.done with
      | false => rfl
      | true => simp [hl] at hd
    split
    · exact State.decideLaunch_row h hd _
    · split
      · split
        · exact hself
        · exact State.decideLaunch_row h hd _
      · rw [(State.sendMgr_same (F := (· ≠ .mgr)) _ _ _ (.refl s) nofun nofun nofun nofun).mgr (by simp)]
        exact hself

/-- A pod manager keeps what a member holds (R118). -/
theorem ready_of_member {s : State} {m : Msg} (hd : due s m 0x10) (hl : readyLayout m.body = true) (hpod : s.podMgr = true)
    (hg : s.gValid (fld m.body 8 1) = true) (hmem : fld m.body 10 2 ∈ s.members (fld m.body 8 1))
    (hp : fld m.body 10 2 / 32 = s.pod) (hdead : s.isDead (fld m.body 10 2) = false) :
    answers (.ready m) s (fun t => ∃ l ∈ t.mgr.launches, l.group = fld m.body 8 1 ∧ l.stepNo = fld m.body 0 8
      ∧ (fld m.body 10 2, epochsAt m.body 16, epochsAt m.body 32) ∈ l.heard) := by
  let f (l : LaunchSt) : LaunchSt := { l with heard := l.heard.filter (fun h => h.1 != fld m.body 10 2)
    ++ [(fld m.body 10 2, epochsAt m.body 16, epochsAt m.body 32)] }
  have e : exec (.ready m) s
      = .next (((s.take m).onLaunch (fld m.body 8 1) (fld m.body 0 8) f).tryLaunch (fld m.body 8 1)) :=
    congrArg Host.Outcome.next (State.mgrTake_of_due _ hd (by simp [hl, hpod, hg, hmem, hp]) hdead)
  obtain ⟨h1, h2⟩ := (s.take m).launchRow_fields (fld m.body 8 1) (fld m.body 0 8)
  obtain ⟨k, hk, k1, k2, k3, -⟩ := State.tryLaunch_row ((s.take m).launchOf_onLaunch (stepNo := fld m.body 0 8) (f := f)
    fun _ => rfl)
  exact answers_of_exec e ⟨k, hk, k1.trans h1, k2.trans h2, k3 ▸ List.mem_append_right _ (List.mem_singleton_self _)⟩

/-- The head manager keeps what a pod holds (R118). -/
theorem podReady_of_pod {s : State} {m : Msg} (hd : due s m 0x11) (hl : readyLayout m.body = true) (hhead : s.headMgr = true)
    (hg : s.gValid (fld m.body 8 1) = true) (hpod : fld m.body 10 2 / 32 ∈ s.otherPods (fld m.body 8 1))
    (hdead : s.isDead (fld m.body 10 2) = false) :
    answers (.podReady m) s (fun t => ∃ l ∈ t.mgr.launches, l.group = fld m.body 8 1 ∧ l.stepNo = fld m.body 0 8
      ∧ (fld m.body 10 2 / 32, epochsAt m.body 16, epochsAt m.body 32) ∈ l.pods) := by
  let f (l : LaunchSt) : LaunchSt := { l with pods := l.pods.filter (fun h => h.1 != fld m.body 10 2 / 32)
    ++ [(fld m.body 10 2 / 32, epochsAt m.body 16, epochsAt m.body 32)] }
  have e : exec (.podReady m) s
      = .next (((s.take m).onLaunch (fld m.body 8 1) (fld m.body 0 8) f).tryLaunch (fld m.body 8 1)) :=
    congrArg Host.Outcome.next (State.mgrTake_of_due _ hd (by simp [hl, hhead, hg, hpod]) hdead)
  obtain ⟨h1, h2⟩ := (s.take m).launchRow_fields (fld m.body 8 1) (fld m.body 0 8)
  obtain ⟨k, hk, k1, k2, -, k3⟩ := State.tryLaunch_row ((s.take m).launchOf_onLaunch (stepNo := fld m.body 0 8) (f := f)
    fun _ => rfl)
  exact answers_of_exec e ⟨k, hk, k1.trans h1, k2.trans h2, k3 ▸ List.mem_append_right _ (List.mem_singleton_self _)⟩

/-! ### READY leaves, LAUNCH arrives -/

/-- A ready member sends READY once (R118). -/
theorem readySend_of_ready {s : State} {p : Nat} {x : StepSt} (hs : s.sound) (hp : p < 8) (hx : (s.part p).step = some x)
    (hl : x.launched = false) (ha : x.launchAt = none) (hr : x.readySent = false) (hin : s.inService = true)
    (hok : s.readyOk p = true) (hm : s.mgrOf s.pod = s.member) : answers (.readySend p) s (fun t =>
      (t.part p).step = some { x with readySent := true } ∧ t.mem = s.mem ∧ t.regs = s.regs
        ∧ t.link.inbox.map (fun m => (m.typ, m.body)) = s.link.inbox.map (fun m => (m.typ, m.body))
          ++ [(0x10, bodyReady x.stepNo x.group s.member ((s.part p).tables.map (·.live.epoch))
              ((s.part p).tables.map TablePair.pending))]) := by
  let body := bodyReady x.stepNo x.group s.member ((s.part p).tables.map (·.live.epoch)) ((s.part p).tables.map TablePair.pending)
  let u := s.onStep p (fun y => { y with readySent := true })
  have e : exec (.readySend p) s = .next (u.toMember (s.mgrOf s.pod) 0x10 body) := by
    change execReadySend p s = _
    rw [execReadySend, hx]
    simp only [hl, ha, hr, hin, hok, Option.isSome_none, Bool.not_true, Bool.or_self, Bool.false_eq_true, if_false]
    rfl
  have hto : u.toMember (s.mgrOf s.pod) 0x10 body = { u with link := { u.link with inbox := u.link.inbox
      ++ [{ chan := 0, owner := 8, typ := 0x10, flags := 0, src := s.mgrOf s.pod, dst := s.mgrOf s.pod, trigger := 0xFFFF
            msgNo := 0, length := body.length, body := body }] } } := if_pos hm
  rw [hto] at e
  refine answers_of_exec e ⟨?_, rfl, rfl, ?_⟩
  · exact (State.step_onStep s p _ (by rw [hs.partsLen]; exact hp)).trans (by rw [hx]; rfl)
  · exact List.map_append

/-- A LAUNCH of the pod manager for a step of the member that has no launch stitch yet. -/
theorem exec_launch_of_due {s : State} {m : Msg} {x : StepSt} (hd : due s m 0x12) (hlen : m.body.length = 64)
    (h9 : rsv m.body 9 7 = true) (h40 : rsv m.body 40 24 = true) (hg : s.gValid (fld m.body 8 1) = true)
    (hdead : s.isDead m.src = false) (hpod : m.src / 32 = s.pod)
    (hx : (s.part (s.gPart (fld m.body 8 1))).step = some x) (hxg : x.group = fld m.body 8 1) (hn : x.stepNo = fld m.body 0 8)
    (ha : x.launchAt = none) : exec (.launch m) s = .next (if s.stitch.count < fld m.body 16 8 then
        (s.take m).onStep (s.gPart (fld m.body 8 1)) (fun x => { x with launchAt := some (fld m.body 16 8), epochs := epochsAt m.body 24 })
      else (((s.take m).onStep (s.gPart (fld m.body 8 1)) (fun x => { x with
        launchAt := some (s.frameLen * (s.stitch.count / s.frameLen + 1)), epochs := epochsAt m.body 24 })).raise rSTITCH_EVT 4).bump
          rLATE_LAUNCH_CNT 1) := by
  have ht := s.take_touch m
  have himg : (s.take m).img = s.img := ht.img id
  have hpart : (s.take m).gPart (fld m.body 8 1) = s.gPart (fld m.body 8 1) := by
    rw [State.gPart, State.gcfg, State.sect, himg, State.gPart, State.gcfg, State.sect]
  have hstitch : (s.take m).stitch = s.stitch := ht.stitch id
  have hframe : (s.take m).frameLen = s.frameLen := by
    rw [State.frameLen, State.sect, himg, State.frameLen, State.sect]
  have hpod' : (s.take m).pod = s.pod := by rw [State.pod, State.hdrF, himg, State.pod, State.hdrF]
  have hstep : ((s.take m).part (s.gPart (fld m.body 8 1))).step = some x := by rw [ht.part _ id id, hx]
  refine congrArg Host.Outcome.next ((State.mgrTake_of_due _ hd (by simp [hlen, h9, h40, hg]) hdead).trans ?_)
  have hdel : (s.take m).deliver m = s.take m := if_neg (by simp [hpod', hpod])
  simp only [hdel, hpod', hpod, hpart, hstep, hstitch, hframe, hxg, hn, ha, bne_self_eq_false, Bool.and_false, Bool.false_eq_true,
    if_false, ne_eq, not_true_eq_false, Option.isSome_none, or_self]

/-- A LAUNCH before its stitch fixes the launch stitch (R119). -/
theorem launch_of_early {s : State} {m : Msg} {x : StepSt} (hs : s.sound) (hd : due s m 0x12) (hlen : m.body.length = 64)
    (h9 : rsv m.body 9 7 = true) (h40 : rsv m.body 40 24 = true) (hg : s.gValid (fld m.body 8 1) = true)
    (hdead : s.isDead m.src = false) (hpod : m.src / 32 = s.pod) (h8 : s.gPart (fld m.body 8 1) < 8)
    (hx : (s.part (s.gPart (fld m.body 8 1))).step = some x) (hxg : x.group = fld m.body 8 1) (hn : x.stepNo = fld m.body 0 8)
    (ha : x.launchAt = none) :
    (s.stitch.count < fld m.body 16 8 → answers (.launch m) s (fun t =>
        (t.part (s.gPart (fld m.body 8 1))).step
          = some { x with launchAt := some (fld m.body 16 8), epochs := epochsAt m.body 24 }
        ∧ t.link.inbox = s.link.inbox.erase m ∧ poolOnly s t ∧ t.regs = (s.take m).regs))
      ∧ (s.powered rLATE_LAUNCH_CNT = true → fld m.body 16 8 ≤ s.stitch.count → answers (.launch m) s (fun t =>
        (t.part (s.gPart (fld m.body 8 1))).step = some { x with
          launchAt := some (s.frameLen * (s.stitch.count / s.frameLen + 1)), epochs := epochsAt m.body 24 }
        ∧ t.reg rLATE_LAUNCH_CNT = satAdd (s.reg rLATE_LAUNCH_CNT) 1 ∧ (t.reg rSTITCH_EVT).getLsbD 4 = true)) := by
  have ht := s.take_touch m
  have e := exec_launch_of_due hd hlen h9 h40 hg hdead hpod hx hxg hn ha
  have hlen : (s.take m).parts.length = 8 := ht.partsLen hs.partsLen
  have hstep (f : StepSt → StepSt) : (((s.take m).onStep (s.gPart (fld m.body 8 1)) f).part (s.gPart (fld m.body 8 1))).step
      = some (f x) := by
    rw [State.step_onStep _ _ _ (by rw [hlen]; exact h8), ht.part _ id id, hx]
    rfl
  refine ⟨fun hlt => ?_, fun hp hle => ?_⟩
  · rw [if_pos hlt] at e
    exact answers_of_exec e ⟨hstep _, State.take_inbox s m, ht.poolOnly id id, rfl⟩
  · rw [if_neg (Nat.not_lt.mpr hle)] at e
    let f (x : StepSt) : StepSt :=
      { x with launchAt := some (s.frameLen * (s.stitch.count / s.frameLen + 1)), epochs := epochsAt m.body 24 }
    let u := (s.take m).onStep (s.gPart (fld m.body 8 1)) f
    have hwf : spWf u.regs = true := ht.regsWf hs.regsWf
    have hpu : u.powered rLATE_LAUNCH_CNT = true := (s.take_powered m _).trans hp
    have hpe : u.powered rSTITCH_EVT = true := (u.powered_of_family (by decide)).symm.trans hpu
    refine answers_of_exec e ⟨?_, ?_, ?_⟩
    · rw [State.part, State.bump_parts, State.raise_parts]
      exact hstep f
    · refine (State.reg_raise_bump hwf _ _ hpu _ (by decide)).trans ?_
      rw [show u.reg rLATE_LAUNCH_CNT = (s.take m).reg rLATE_LAUNCH_CNT from rfl, State.take_reg m (by decide)]
    · exact State.getLsbD_reg_raise_bump hwf hpe (by decide) _ (by decide)

/-- Settles O44: the rows of the managers and the step take what the messages say. -/
theorem launchMessagesComplete : Obligations.LaunchMessagesComplete := by
  refine ⟨fun s p x hs hp hx hl ha hr hin hok hm => readySend_of_ready hs hp hx hl ha hr hin hok hm,
    fun s m hd hl hp hg hm hq hdead => ready_of_member hd hl hp hg hm hq hdead,
    fun s m hd hl hh hg hp hdead => podReady_of_pod hd hl hh hg hp hdead,
    fun s m x hs hd hlen h9 h40 hg hdead hpod h8 hx hxg hn ha hon => ?_⟩
  obtain ⟨h1, h2⟩ := launch_of_early hs hd hlen h9 h40 hg hdead hpod h8 hx hxg hn ha
  exact ⟨h1, h2 hon⟩

end Sys2Proof.Machine
end

section
/-! SUPPORT. A step is launched, and its next pass starts (R116, R120, R121, R256; O45). -/

-- One declaration after another: the check bounds the memory, and with it the threads.
set_option Elab.async false

namespace Sys2Proof.Machine

/-! ### The records are asked for, and the step is launched -/

theorem State.onStep_step {s : State} (hs : s.sound) {p : Nat} (hp : p < 8) {x : StepSt} (hx : (s.part p).step = some x)
    (f : StepSt → StepSt) : ((s.onStep p f).part p).step = some (f x) := by
  rw [State.step_onStep s p f (by rw [hs.partsLen]; exact hp), hx]
  rfl

/-- In its launch stitch a step asks for its records (R120, R283). -/
theorem stepLaunch_of_due {s : State} {p : Nat} {x : StepSt} (hs : s.sound) (hp : p < 8) (hx : (s.part p).step = some x)
    (hd : s.launchDue x = true) : answers (.stepLaunch p) s (fun t =>
      (t.part p).step = some { x with askedAt := some s.stitch.count }
        ∧ ((s.tr p (255 * 2 ^ 56) 256 2).isSome = true → t.reading (.record p) = true) ∧ t.mem = s.mem ∧ t.regs = s.regs) := by
  let u := s.fetchRecords p 0 256
  have hu : s.Same (fun x => x = .memp ∨ x = .power) u := State.fetchRecords_same p 0 256 (.refl s) (by simp) (by simp)
  have e : exec (.stepLaunch p) s = .next (u.onStep p (fun x => { x with askedAt := some s.stitch.count })) := by
    change execStepLaunch p s = _
    rw [execStepLaunch, hx]
    exact if_pos hd
  refine answers_of_exec e ⟨?_, fun ht => ?_, hu.mem (by simp) (by simp), hu.regs (by simp)⟩
  · rw [State.step_onStep u p _ (by rw [hu.partsLen hs.partsLen]; exact hp), hu.part p (by simp) (by simp), hx]
    rfl
  · obtain ⟨a, ha⟩ := Option.isSome_iff_exists.mp ht
    have : u = s.issueRead a 256 (.record p) := by
      simp only [u, State.fetchRecords, Nat.add_zero, ha]
    change u.reading (.record p) = true
    rw [this]
    exact State.reading_askReads s (piecesOf_ne_nil a (n := 256) (by decide)) _

/-- While its records are on the way nothing changes. -/
theorem stepLaunch_of_reading {s : State} {p a : Nat} {x : StepSt} (hx : (s.part p).step = some x) (ha : x.askedAt = some a)
    (hr : s.reading (.record p) = true) : answers (.stepLaunch p) s (fun t => t = s) := by
  refine answers_of_exec (t := s) ?_ rfl
  change execStepLaunch p s = _
  rw [execStepLaunch, hx]
  exact (if_neg (by simp [State.launchDue, ha])).trans (if_pos (by simp [hr]))

/-- What a launch is to leave of a partition. -/
def launchView (x : Part) : Option StepSt × List TablePair × Bytes × Bytes × Nat := (x.step, x.tables, x.jrnRec, x.ledRec, x.state)

theorem State.jrnPush_launch (s : State) (p : Nat) (b : Bytes) : s.Views launchView (s.jrnPush p b) := .onPart s p fun _ => rfl

theorem State.waitFor_launch (s : State) (p l m h : Nat) : s.Views launchView (s.waitFor p l m h) := by
  change s.Views launchView (s.waitOn p l m h none _)
  unfold State.waitOn
  extract_lets hit
  split
  · exact .refl s
  · exact .onPart s p fun _ => rfl

/-- The step that a launch makes (R120). -/
def State.launched (s : State) (p : Nat) (x : StepSt) (e c : Bytes) : StepSt :=
  { x with
    launched := true, segs := s.segsNow x.segs, launchAt := some (x.askedAt.getD s.stitch.count), engRec := e, combRec := c
    active := (s.segsNow x.segs).any (·.kept) && !x.abortReg, withdrawn := if x.abortReg then some 0 else none
    ledger := (s.part p).ledNext }

theorem State.launchNow_view {s : State} {p : Nat} {x : StepSt} {e c j l : Bytes} (hp : p < s.parts.length) : launchView (((s.launchNow p x e c j l).nextBias p).part p)
      = (some (s.launched p x e c), (s.part p).tables, j, l, (s.part p).state) := by
  let f (q : Part) : Part := { q with
    step := some (s.launched p x e c), ledNext := nextLedger q.ledNext, jrnRec := j, ledRec := l, lastStart := none
    issueF := s.power.issueF }
  let u := s.onPart p f
  have hv : u.Views launchView ((s.launchNow p x e c j l).nextBias p) := by
    unfold State.launchNow
    extract_lets +onlyGivenNames segs y v w z gs
    have h1 : v.Views launchView w := .ofSame (State.ledgerOpen_same p y (.refl v) trivial trivial trivial)
    have h2 : w.Views launchView z := (State.jrnPush_launch _ _ _).trans (State.jrnPush_launch _ _ _)
    have h3 := State.spread_same (F := offParts) p 0x0B (trig p 0 0 8) (bodyRoster y.stepNo y.group y.active z.member) gs
      (State.countSubst_same gs (.refl z) trivial) trivial trivial trivial trivial
    change v.Views launchView _
    refine (h1.trans (h2.trans ((State.Views.ofSame h3).trans (State.waitFor_launch _ p 0 0 8)))).trans ?_
    exact .ofSame (State.nextBias_same p (.refl _) trivial trivial trivial trivial trivial)
  rw [hv p, State.part_onPart_self hp]
  rfl

/-- Binding gives each table of a partition its epoch (R256). -/
theorem State.bindTables_part {s : State} {p : Nat} (es : List Nat) (hp : p < s.parts.length)
    (h4 : (s.part p).tables.length = 4) : ∃ ts, (s.bindTables p es).part p = { s.part p with tables := ts }
      ∧ ∀ k < 4, ts.getD k emptyTable = (s.tab p k).bind (es.getD k 0) := by
  have hn (n : Nat) (h : n ≤ 4) : ∃ ts, ts.length = 4
      ∧ ((List.range n).foldl (fun s t => s.onTab p t (fun x => x.bind (es.getD t 0))) s).parts.length = s.parts.length
      ∧ ((List.range n).foldl (fun s t => s.onTab p t (fun x => x.bind (es.getD t 0))) s).part p = { s.part p with tables := ts }
      ∧ ∀ k < 4, ts.getD k emptyTable = if k < n then (s.tab p k).bind (es.getD k 0) else s.tab p k := by
    induction n with
    | zero => exact ⟨_, h4, rfl, rfl, fun k _ => rfl⟩
    | succ n ih =>
      obtain ⟨ts, hl, hpl, hts, hk⟩ := ih (by omega)
      refine ⟨setAt ts n (fun x => x.bind (es.getD n 0)), by rw [length_setAt, hl], ?_, ?_, fun k h => ?_⟩
      · rw [List.range_succ, List.foldl_append]
        exact (State.onPart_length _ _ _).trans hpl
      · rw [List.range_succ, List.foldl_append]
        refine (State.part_onPart_self (by rw [hpl]; exact hp) _).trans ?_
        rw [hts]
      · rw [getD_setAt, hk k h, hl]
        by_cases hkn : n = k
        · subst hkn
          simp [h]
        · simp [hkn, show (k < n + 1 ↔ k < n) by omega]
  obtain ⟨ts, -, -, hts, hk⟩ := hn 4 (Nat.le_refl 4)
  refine ⟨ts, ?_, fun k h => (hk k h).trans (if_pos h)⟩
  unfold State.bindTables
  extract_lets t loop u
  split
  · rw [State.part, State.raise_parts]
    exact hts
  · exact hts

theorem State.rec255_congr {s t : State} (hm : t.mem = s.mem) (hi : t.img = s.img) (p off : Nat) :
    t.rec255 p off = s.rec255 p off := by
  rw [State.rec255, State.tr, State.sect, hi, State.rec255, State.tr, State.sect]
  simp only [State.rd_congr hm]

theorem State.readEngines_congr {s t : State} (hm : t.mem = s.mem) (hi : t.img = s.img) {p : Nat} :
    t.readEngines p = s.readEngines p := by
  have hrec : t.rec255 = s.rec255 := funext fun p => funext fun o => State.rec255_congr hm hi p o
  have htr : t.tr = s.tr := by funext p a n k; rw [State.tr, State.sect, hi, State.tr, State.sect]
  rw [State.readEngines, hrec, htr, State.readEngines]

theorem State.readRecords_congr {s t : State} (hm : t.mem = s.mem) (hi : t.img = s.img) {p : Nat} :
    t.readRecords p = s.readRecords p := by
  have hrec : t.rec255 = s.rec255 := funext fun p => funext fun o => State.rec255_congr hm hi p o
  have htr : t.tr = s.tr := by funext p a n k; rw [State.tr, State.sect, hi, State.tr, State.sect]
  have hlay : t.pLayers = s.pLayers := by funext p; rw [State.pLayers, State.pcfg, State.sect, hi, State.pLayers, State.pcfg, State.sect]
  have hj : t.jrnRecOk = s.jrnRecOk := by funext p b; rw [State.jrnRecOk, htr, State.jrnRecOk]
  have hl : t.ledRecOk = s.ledRecOk := by funext p b; rw [State.ledRecOk, htr, hlay, State.ledRecOk]
  rw [State.readRecords, hrec, hj, hl, State.readRecords]

/-- With its records here a step is launched (R120, R121, R256). -/
theorem stepLaunch_of_here {s : State} {p a : Nat} {x : StepSt} {e c j l : Bytes} (hs : s.sound) (hp : p < 8)
    (hx : (s.part p).step = some x) (hl : x.launched = false) (ha : x.askedAt = some a) (hr : s.reading (.record p) = false)
    (har : s.units.arraysPend = 0) (hfo : s.units.foldsPend = 0) (h1 : (s.part p).state = 1) (h4 : (s.part p).tables.length = 4)
    (he : s.readEngines p = some (e, c)) (hj : s.readRecords p = some (j, l)) : answers (.stepLaunch p) s (fun t =>
      (∃ y, (t.part p).step = some y ∧ y.launched = true ∧ y.launchAt = some a ∧ y.stepNo = x.stepNo
          ∧ y.ledger = (s.part p).ledNext ∧ y.engRec = e ∧ y.combRec = c)
        ∧ (∀ k, k < 4 → t.tab p k = (s.tab p k).bind (x.epochs.getD k 0)) ∧ (t.part p).jrnRec = j
        ∧ (t.part p).ledRec = l ∧ (t.part p).state = 1) := by
  have hpl : p < s.parts.length := by rw [hs.partsLen]; exact hp
  have hret : s.retirePending p = s := by
    rw [State.retirePending]
    generalize s.arraysOf p = as
    induction as with
    | nil => rfl
    | cons b as ih => rwa [List.foldl_cons, if_neg (by simp [bit, har])]
  let r := s.replan p
  have hfold : r.retireFoldsPending = r := by
    rw [State.retireFoldsPending]
    generalize List.range 4 = cs
    induction cs with
    | nil => rfl
    | cons b cs ih => rwa [List.foldl_cons, if_neg (by rw [show r.units = s.units from rfl, hfo]; simp [bit])]
  let v := (r.showUnits.dropRetired p).showSlices p
  have hv : r.Same (fun x => x = .units ∨ x = .regs ∨ x = .press ∨ x = .cores ∨ x = .power) v :=
    State.showSlices_same p (State.dropRetired_same p (State.showUnits_same (.refl r) (by simp)) (by simp) (by simp) (by simp)
      (by simp)) (by simp)
  have hvp : v.part p = { s.part p with arrays := sumNat ((s.arraysOf p).map (2 ^ ·)) } :=
    (hv.part p (by simp) (by simp)).trans (State.part_onPart_self hpl _)
  have hvl : p < v.parts.length := by
    rw [hv.partsLen ((State.onPart_length _ _ _).trans hs.partsLen)]
    exact hp
  let w := v.bindTables p x.epochs
  have hw : v.Same (fun x => x = .regs ∨ x = .part p) w := State.bindTables_same p x.epochs (.refl v) (by simp) (by simp)
  obtain ⟨ts, hwp, hts⟩ := State.bindTables_part (s := v) x.epochs hvl (by rw [hvp]; exact h4)
  have hmem : w.mem = s.mem := (hw.mem (by simp) (by simp)).trans (hv.mem (by simp) (by simp))
  have himg : w.img = s.img := (hw.img (by simp)).trans (hv.img (by simp))
  have hwl : p < w.parts.length := by
    rw [hw.partsLen (by rw [hv.partsLen ((State.onPart_length _ _ _).trans hs.partsLen)])]
    exact hp
  have ex : exec (.stepLaunch p) s = .next ((w.launchNow p x e c j l).nextBias p) := by
    change execStepLaunch p s = _
    rw [execStepLaunch, hx]
    refine (if_neg (by simp [State.launchDue, ha])).trans ((if_neg (by simp [hl, ha, hr])).trans ?_)
    rw [hret, show s.replan p = r from rfl, hfold]
    refine (if_neg (by rw [show (r.showUnits.dropRetired p).showSlices p = v from rfl, hvp]; exact not_not.mpr h1)).trans ?_
    dsimp only
    rw [show ((r.showUnits.dropRetired p).showSlices p).bindTables p x.epochs = w from rfl, State.readEngines_congr hmem himg,
      State.readRecords_congr hmem himg, he, hj]
  have hview := State.launchNow_view (s := w) (p := p) (x := x) (e := e) (c := c) (j := j) (l := l) hwl
  generalize hres : (w.launchNow p x e c j l).nextBias p = t at ex hview
  simp only [launchView, Prod.mk.injEq] at hview
  obtain ⟨k1, k2, k3, k4, k5⟩ := hview
  refine answers_of_exec ex ⟨⟨_, k1, rfl, by simp [State.launched, ha], rfl, ?_, rfl, rfl⟩, fun k hk => ?_, k3, k4, ?_⟩
  · change (w.part p).ledNext = _
    rw [hwp, hvp]
  · rw [State.tab, k2, hwp, hts k hk, State.tab, hvp, State.tab]
  · rw [k5, hwp, hvp, h1]

/-! ### The next pass starts -/

theorem State.waitFor_step (s : State) (p l m h : Nat) : s.Views Part.step (s.waitFor p l m h) := by
  change s.Views Part.step (s.waitOn p l m h none _)
  unfold State.waitOn
  extract_lets hit
  split
  · exact .refl s
  · exact .onPart s p fun _ => rfl

/-- The next pass starts with the tokens of the kept segments (R116). -/
theorem passStart_of_due {s : State} {p : Nat} {x : StepSt} (hs : s.sound) (hp : p < 8) (hx : (s.part p).step = some x)
    (hd : s.passDue p x x.nextLayer = true)
    (ha : (s.handleAddrs p x x.nextLayer).all (fun a => (s.tr p a 8 2).isSome) = true) : answers (.passStart p) s (fun t =>
      ∃ y q, (t.part p).step = some y ∧ y.nextLayer = x.nextLayer + 1 ∧ y.passes = x.passes ++ [q] ∧ q.layer = x.nextLayer
        ∧ q.start = s.stitch.count ∧ q.toks = passToks x x.nextLayer ∧ t.mem = s.mem) := by
  have hpl : p < s.parts.length := by rw [hs.partsLen]; exact hp
  have e : exec (.passStart p) s = .next (s.startPass p x x.nextLayer) := by
    change execPassStart p s = _
    rw [execPassStart, hx]
    exact (if_neg (by simp [hd])).trans (if_neg (by simp [ha]))
  let f (y : StepSt) : StepSt := { y with
    passes := y.passes ++ [freshPass x.nextLayer s.stitch.count (passToks x x.nextLayer)], nextLayer := x.nextLayer + 1 }
  have hmem : (s.startPass p x x.nextLayer).mem = s.mem :=
    (State.startPass_same (F := fun x => x ≠ .mem ∧ x ≠ .pool) p x x.nextLayer (.refl s) (by simp) (by simp) (by simp) (by simp)
      (by simp)).mem (by simp) (by simp)
  have hstep : ((s.startPass p x x.nextLayer).part p).step = some (f x) := by
    unfold State.startPass
    extract_lets +onlyGivenNames now toks a b c d g w
    have ha : (a.part p).step = some x := by rw [State.part_onPart_self hpl, ← hx]
    have hab : a.Same (· = .ctx) b := State.monitor_same p x x.nextLayer (.refl a) rfl
    have hc : (c.part p).step = some x := (congrArg Part.step (hab.part p (by simp) (by simp))).trans ha
    have hcl : p < c.parts.length := by
      change p < b.parts.length
      rw [hab.partsLen ((State.onPart_length _ _ _).trans hs.partsLen)]
      exact hp
    have hd : (d.part p).step = some (f x) := (State.step_onStep c p _ hcl).trans (by rw [hc]; rfl)
    have hg : (g.part p).step = some (f x) := by
      have := State.issuePassReads_same (F := offParts) p x x.nextLayer (!toks.isEmpty) (.refl d) trivial trivial
      rw [State.part, this.offParts]
      exact hd
    have hw : (w.part p).step = some (f x) := (g.waitFor_step p x.nextLayer 0 0 p).trans hg
    split
    · exact hw
    · exact (w.waitFor_step p x.nextLayer 0 4 p).trans hw
  exact answers_of_exec e ⟨f x, _, hstep, rfl, rfl, rfl, rfl, rfl, hmem⟩

/-- Settles O45: the launched step keeps what it is to keep, and the new pass is the last one of its list. -/
theorem launchAndPassStart : Obligations.LaunchAndPassStart :=
  ⟨fun _ _ _ hs hp hx hd => stepLaunch_of_due hs hp hx hd,
    fun _ _ _ _ hs hp hx hl ha => ⟨fun hr => stepLaunch_of_reading hx ha hr,
      fun _ _ _ _ hr har hfo h1 h4 he hj => stepLaunch_of_here hs hp hx hl ha hr har hfo h1 h4 he hj⟩,
    fun _ _ _ hs hp hx hd ha => passStart_of_due hs hp hx hd ha⟩

end Sys2Proof.Machine
end

section
/-! SUPPORT. Passes and their micro-steps as the operations of the exchange leave them (R274, R321, R326). -/

-- One declaration after another: the check bounds the memory, and with it the threads.
set_option Elab.async false

namespace Sys2Proof.Machine

/-! ### The pass of a layer -/

theorem State.lt_parts_of_step {s : State} {p : Nat} {x : StepSt} (h : (s.part p).step = some x) : p < s.parts.length := by
  by_contra hn
  rw [State.part, List.getD_eq_getElem?_getD, List.getElem?_eq_none (by omega)] at h
  exact absurd h nofun

theorem State.lt_parts_of_pass {s : State} {p l : Nat} {q : Pass} (h : s.pass p l = some q) : p < s.parts.length := by
  obtain ⟨x, hx, -⟩ := Option.bind_eq_some_iff.mp h
  exact State.lt_parts_of_step hx

theorem State.pass_of_step {s : State} {p : Nat} {x : StepSt} (h : (s.part p).step = some x) (l : Nat) :
    s.pass p l = x.passes.find? (fun q => q.layer = l) := by
  rw [State.pass, h]
  rfl

theorem State.pass_layer {s : State} {p l : Nat} {q : Pass} (h : s.pass p l = some q) : q.layer = l := by
  obtain ⟨x, -, hq⟩ := Option.bind_eq_some_iff.mp h
  simpa using List.find?_some hq

theorem State.Views.pass {s t : State} (h : s.Views Part.step t) (p l : Nat) : t.pass p l = s.pass p l := by
  rw [State.pass, h p, State.pass]

theorem State.pass_congr {s t : State} (h : t.parts = s.parts) (p l : Nat) : t.pass p l = s.pass p l :=
  (State.Views.ofParts h : s.Views Part.step t).pass p l

theorem find_layer_map {l : Nat} {f : Pass → Pass} (hf : ∀ q, (f q).layer = q.layer) (k : Nat) (qs : List Pass) :
    (qs.map (fun q => if q.layer = l then f q else q)).find? (fun q => q.layer = k)
      = (qs.find? (fun q => q.layer = k)).map (fun q => if q.layer = l then f q else q) := by
  rw [List.find?_map]
  congr 2
  funext q
  simp only [Function.comp_apply]
  split
  · rw [hf]
  · rfl

theorem State.pass_onPass {s : State} {p l : Nat} {q : Pass} {f : Pass → Pass} (hf : ∀ q, (f q).layer = q.layer)
    (h : s.pass p l = some q) : (s.onPass p l f).pass p l = some (f q) := by
  rw [State.pass, State.onPass, State.step_onStep _ _ _ (State.lt_parts_of_pass h)]
  obtain ⟨x, hx, hq⟩ := Option.bind_eq_some_iff.mp h
  rw [hx]
  refine (find_layer_map hf l x.passes).trans ?_
  rw [hq, Option.map_some, if_pos (State.pass_layer h)]

/-- The steps of other partitions, and what a step holds beside its passes. -/
theorem State.step_onPass {s : State} {p : Nat} {x : StepSt} (h : (s.part p).step = some x) (l : Nat) (f : Pass → Pass) :
    ((s.onPass p l f).part p).step = some (onPassOf l f x) := by
  rw [State.onPass, State.step_onStep _ _ _ (State.lt_parts_of_step h), h]
  rfl

/-! ### The micro-step of a pass -/

theorem onMicroOf_layer (m n : Nat) (f : Micro → Micro) (q : Pass) : (onMicroOf m n f q).layer = q.layer := by
  unfold onMicroOf
  split <;> rfl

theorem onMicroOf_tickets (m n : Nat) (f : Micro → Micro) (q : Pass) : (onMicroOf m n f q).tickets = q.tickets := by
  unfold onMicroOf
  split <;> rfl

/-- The micro-step itself, begun now where there was none. -/
theorem microOf_onMicroOf {m : Nat} {f : Micro → Micro} (hf : ∀ y, (f y).m = y.m) (n : Nat) (q : Pass) :
    ∃ k, microOf (onMicroOf m n f q) m = f { microOf q m with start := k } := by
  have hfind : ∀ ys : List Micro, (ys.map (fun y => if y.m = m then f y else y)).find? (fun y => y.m = m)
      = (ys.find? (fun y => y.m = m)).map f := by
    intro ys
    induction ys with
    | nil => rfl
    | cons y ys ih =>
      by_cases h : y.m = m
      · simp [h, hf]
      · rw [List.map_cons, if_neg h, List.find?_cons_of_neg (by simpa using h), ih, List.find?_cons_of_neg (by simpa using h)]
  unfold onMicroOf
  split
  · next h =>
    obtain ⟨y, hy⟩ : ∃ y, q.micros.find? (fun x => x.m = m) = some y :=
      Option.isSome_iff_exists.mp (by simpa [List.find?_isSome] using h)
    refine ⟨y.start, ?_⟩
    rw [microOf, hfind, hy, microOf, hy]
    rfl
  · next h =>
    have hn : q.micros.find? (fun x => x.m = m) = none := by simpa [List.find?_eq_none] using h
    refine ⟨n, ?_⟩
    have hm : (f (freshMicro m n)).m = m := hf _
    rw [microOf, List.find?_append, hn, Option.none_or, List.find?_cons_of_pos (by simpa using hm), microOf, hn]
    rfl

theorem microOf_onMicroOf_ne {m k : Nat} {f : Micro → Micro} (hf : ∀ y, (f y).m = y.m) (n : Nat) (q : Pass) (h : k ≠ m) :
    microOf (onMicroOf m n f q) k = microOf q k := by
  have hfind : ∀ ys : List Micro, (ys.map (fun y => if y.m = m then f y else y)).find? (fun y => y.m = k)
      = ys.find? (fun y => y.m = k) := by
    intro ys
    induction ys with
    | nil => rfl
    | cons y ys ih =>
      by_cases hy : y.m = m
      · rw [List.map_cons, if_pos hy, List.find?_cons_of_neg (by simp [hf, hy, Ne.symm h]), ih,
          List.find?_cons_of_neg (by simp [hy, Ne.symm h])]
      · rw [List.map_cons, if_neg hy, List.find?_cons, List.find?_cons, ih]
  unfold onMicroOf
  split
  · rw [microOf, hfind, microOf]
  · have hm : (f (freshMicro m n)).m = m := hf _
    rw [microOf, List.find?_append, microOf]
    simp [hm, Ne.symm h]

/-- A micro-step of a pass is changed. -/
theorem State.pass_onMicro {s : State} {p l m : Nat} {q : Pass} (f : Micro → Micro) (h : s.pass p l = some q) :
    (s.onMicro p l m f).pass p l = some (onMicroOf m s.stitch.count f q) :=
  State.pass_onPass (onMicroOf_layer m _ f) h

/-! ### A message of the exchange meets its pass -/

/-- The handler of a message that is due and whose pass is open (R321, R326). -/
theorem State.receive_of_meets {s : State} {m : Msg} {typ stepNo l : Nat} {x : StepSt} {q : Pass}
    (f : State → StepSt → Pass → State) (hd : due s m typ) (hm : meets s m.owner stepNo l x q) :
    s.receive m typ stepNo l f = f s x q := by
  obtain ⟨h1, h2, h3, -⟩ := hd
  obtain ⟨-, -, hx, hq, -, hw⟩ := hm
  have ho : s.xOpen m.owner l = some (s, x, q) := by
    rw [State.pass_of_step hx] at hq
    rw [State.xOpen, hx]
    simp only [beq_eq_decide] at hq ⊢
    rw [hq]
  rw [State.receive, if_neg (by simp [h1, h2, h3]), hw]
  simp only [ho]

end Sys2Proof.Machine
end

section
/-! SUPPORT. ROSTER, the active set and FINAL (R323, R325, R326; O49). -/

-- One declaration after another: the check bounds the memory, and with it the threads.
set_option Elab.async false

namespace Sys2Proof.Machine

/-! ### Tallies of a micro-step -/

theorem rxOf_none_of_sub {y z : Micro} {src : Nat} (h : ∀ t ∈ z.tallies, t ∈ y.tallies) (hn : rxOf y src = none) :
    rxOf z src = none :=
  List.find?_eq_none.mpr fun t ht => List.find?_eq_none.mp hn t (h t ht)

/-- Dropping void tallies finds no new one. -/
theorem State.unvoid_pass {s : State} {p l m src : Nat} {q : Pass} (from_ : Nat) (h : s.pass p l = some q)
    (hn : rxOf (microOf q m) src = none) : ∃ r, (s.unvoid p l m src from_).pass p l = some r
      ∧ rxOf (microOf r m) src = none := by
  let f (y : Micro) : Micro :=
    if y.tallyIn then y else { y with tallies := y.tallies.filter (fun t => !(t.src == src && t.lost s from_)) }
  have hf (y : Micro) : (f y).m = y.m := by
    simp only [f]
    split <;> rfl
  refine ⟨_, State.pass_onMicro f h, ?_⟩
  obtain ⟨k, hk⟩ := microOf_onMicroOf hf s.stitch.count q
  rw [hk]
  refine rxOf_none_of_sub (y := microOf q m) (fun t ht => ?_) hn
  simp only [f] at ht
  split at ht
  · exact ht
  · exact (List.mem_filter.mp ht).1

/-- A tally of a source that has none yet is counted (R326). -/
theorem State.addTally_pass {s : State} {p l m : Nat} {q : Pass} (t : RxTally) (h : s.pass p l = some q)
    (hn : rxOf (microOf q m) t.src = none) : ∃ r, (s.addTally p l m t).pass p l = some r
      ∧ rxOf (microOf r m) t.src = some t := by
  refine ⟨_, State.pass_onMicro _ h, ?_⟩
  obtain ⟨k, hk⟩ := microOf_onMicroOf (m := m) (f := fun y => { y with tallies := y.tallies ++ [t] }) (fun _ => rfl)
    s.stitch.count q
  rw [hk, rxOf, List.find?_append, show (microOf q m).tallies.find? (fun u => u.src == t.src) = none from hn]
  simp

/-- A message that is counted as of a source comes from this pod: nothing is passed on (R322). -/
theorem State.fanOn_of_pod {s : State} {m : Msg} (h : m.src / 32 = s.pod) : s.fanOn m = s := if_pos h

/-- What the number of a step and its open pass say of the step (R321). -/
theorem State.xWhen_open {s : State} {p stepNo l : Nat} {x : StepSt} (hx : (s.part p).step = some x)
    (h : s.xWhen p stepNo l = 2) : x.stepNo = stepNo ∧ l < s.pLayers p := by
  rw [State.xWhen, hx] at h
  dsimp only at h
  split at h
  · exact absurd h (by decide)
  · next h1 =>
    split at h
    · split at h <;> exact absurd h (by decide)
    · next h2 =>
      refine ⟨by omega, ?_⟩
      split at h
      · exact absurd h (by decide)
      · split at h
        · exact absurd h (by decide)
        · next h3 => exact Nat.lt_of_not_le h3

/-! ### The statements -/

/-- A ROSTER records its member's ACTIVE bit (R323). -/
theorem roster_of_member {s : State} {m : Msg} {x : StepSt} (hs : s.sound) (hd : due s m 0x0B) (hp : m.owner < 8)
    (hx : (s.part m.owner).step = some x) (hl : x.launched = true) (ht : x.tornBy = none) (hn : x.stepNo = fld m.body 0 8)
    (hr : ∀ r ∈ x.rosters, r.1 ≠ fld m.body 10 2) (hdead : s.isDead (fld m.body 10 2) = false) (hpod : m.src / 32 = s.pod)
    (hlen : m.body.length = 16) (h12 : rsv m.body 12 4 = true) (h9 : fld m.body 9 1 ≤ 1) (hg : fld m.body 8 1 = x.group)
    (hmem : fld m.body 10 2 ∈ s.members x.group) : answers (.roster m) s (fun t => (t.part m.owner).step
        = some { x with rosters := x.rosters ++ [(fld m.body 10 2, fld m.body 9 1 == 1)] }
      ∧ t.link.inbox = s.link.inbox.erase m ∧ poolOnly s t ∧ refErrOnly s t) := by
  let f (x : StepSt) : StepSt := { x with rosters := x.rosters ++ [(fld m.body 10 2, fld m.body 9 1 == 1)] }
  have hany : x.rosters.any (fun r => r.1 == fld m.body 10 2) = false := by
    rw [List.any_eq_false]
    intro r hrm
    simpa using hr r hrm
  have htouch := s.take_touch m
  have e : exec (.roster m) s = .next ((s.take m).onStep m.owner f) := by
    obtain ⟨h1, h2, h3, h4⟩ := hd
    change execRoster m s = _
    rw [execRoster, if_neg (by simp [h1, h2, h3]), hx]
    dsimp only
    rw [if_neg (by omega), if_neg (by simp [hn, hl]), if_neg (by omega), if_neg (by simp [hdead, ht]), hany,
      if_neg (by decide), State.fanOn_of_pod hpod]
    simp only [h4, hlen, h12, h9, hg, hmem, decide_true, Bool.true_and, Bool.not_true, Bool.false_eq_true, if_false, beq_self_eq_true,
      List.contains_eq_mem]
    rfl
  refine answers_of_exec e ⟨?_, s.take_inbox m, htouch.poolOnly id id, s.take_refErrOnly m⟩
  rw [State.step_onStep _ _ _ (by rw [htouch.partsLen hs.partsLen]; exact hp), htouch.part _ id id, hx]
  rfl

/-- The active set is fixed once every other member has been heard (R323). -/
theorem activeSetFixed_of_heard {s : State} {p : Nat} {x : StepSt} (hs : s.sound) (hp : p < 8) (hx : (s.part p).step = some x)
    (hl : x.launched = true) (ha : x.aset = none)
    (hh : ∀ a ∈ s.members x.group, a ≠ s.member → (∃ r ∈ x.rosters, r.1 = a) ∨ s.isDead a = true) :
    answers (.activeSetFixed p) s (fun t => (∃ y, (t.part p).step = some y ∧ y.aset = some ((s.members x.group).filter
      (fun a => if a = s.member then x.active else x.rosters.contains (a, true)))) ∧ t.mem = s.mem ∧ t.regs = s.regs) := by
  have hall : ((s.members x.group).filter (· ≠ s.member)).all (fun m => x.rosters.any (fun r => r.1 == m) || s.isDead m) = true := by
    rw [List.all_eq_true]
    intro a ham
    obtain ⟨h1, h2⟩ := List.mem_filter.mp ham
    rcases hh a h1 (by simpa using h2) with ⟨r, hr, rfl⟩ | h
    · simp only [Bool.or_eq_true, List.any_eq_true]
      exact .inl ⟨r, hr, by simp⟩
    · simp [h]
  have e : exec (.activeSetFixed p) s = .next (s.onStep p (fun y => { y with aset := some ((s.members y.group).filter
      (fun a => if a = s.member then x.active else x.rosters.contains (a, true))) })) := by
    change execActiveSetFixed p s = _
    rw [execActiveSetFixed, hx]
    dsimp only
    rw [hl, ha, hall]
    rfl
  exact answers_of_exec e ⟨⟨_, State.onStep_step hs hp hx _, rfl⟩, rfl, rfl⟩

/-- A FINAL counts as an arrival with no ticket (R325, R326). -/
theorem finalMsg_of_source {s : State} {m : Msg} {x : StepSt} {q : Pass} (hd : due s m 0x0A)
    (hm : meets s m.owner (fld m.body 0 8) (fld m.body 8 2) x q) (ht : x.tornBy = none) (hpod : m.src / 32 = s.pod)
    (hlen : m.body.length = 16) (h11 : rsv m.body 11 1 = true) (h14 : rsv m.body 14 2 = true) (h12 : fld m.body 12 2 < 512)
    (hsp : s.maySpeak x q (s.xCfg m.owner (fld m.body 8 2)) (fld m.body 12 2) (fld m.body 10 1) = true)
    (hn : rxOf (microOf q (fld m.body 10 1)) (fld m.body 12 2) = none) : answers (.finalMsg m) s (fun t =>
      (∃ r, t.pass m.owner (fld m.body 8 2) = some r ∧ rxOf (microOf r (fld m.body 10 1)) (fld m.body 12 2)
          = some (emptyRx (fld m.body 12 2) m.src true))
        ∧ t.link.inbox = s.link.inbox.erase m ∧ poolOnly s t ∧ refErrOnly s t) := by
  obtain ⟨hs, hp, hx, hq, hl, hw⟩ := id hm
  obtain ⟨h1, h2, h3, h4⟩ := id hd
  have htouch := s.take_touch m
  obtain ⟨-, hlay⟩ := State.xWhen_open hx hw
  have hno : s.noLayer m.owner (fld m.body 0 8) (fld m.body 8 2) = false := by
    rw [State.noLayer, hx]
    simp [Nat.not_le.mpr hlay]
  have hmost : fld m.body 10 1 < (s.xCfg m.owner (fld m.body 8 2)).most := by
    simp only [State.maySpeak, Bool.and_eq_true, decide_eq_true_eq] at hsp
    exact hsp.1.1
  let t := emptyRx (fld m.body 12 2) m.src true
  let u := ((s.take m).unvoid m.owner (fld m.body 8 2) (fld m.body 10 1) (fld m.body 12 2) m.src).addTally m.owner
    (fld m.body 8 2) (fld m.body 10 1) t
  have hy (y : Micro) (hy : rxOf y (fld m.body 12 2) = none) :
      rxOf (if y.tallyIn then y else { y with tallies := y.tallies.filter (fun t => !t.lost s m.src) }) (fld m.body 12 2) = none := by
    refine rxOf_none_of_sub (fun t ht => ?_) hy
    split at ht
    · exact ht
    · exact (List.mem_filter.mp ht).1
  have e : exec (.finalMsg m) s = .next u := by
    change execFinalMsg m s = _
    rw [execFinalMsg]
    simp only [hw, h1, h2, h3, hno, OfNat.ofNat_ne_one, false_and, if_false, Bool.and_false, Bool.false_eq_true]
    refine congrArg Host.Outcome.next ((State.receive_of_meets _ hd hm).trans ?_)
    simp only [State.fanOn_of_pod hpod]
    rw [if_neg (by simp [memberOk, h12, Nat.not_le.mpr hmost]), if_neg (by simp [ht]), if_neg (by simp [hsp]), hy _ hn]
    simp only [h4, hlen, h11, h14, decide_true, Bool.true_and, Bool.not_true, Bool.false_eq_true, if_false]
    rfl
  have hq' : (s.take m).pass m.owner (fld m.body 8 2) = some q := by rw [State.pass, htouch.part _ id id]; exact hq
  obtain ⟨r, hr, hrn⟩ := State.unvoid_pass m.src hq' hn
  obtain ⟨r', hr', hrt⟩ := State.addTally_pass t hr hrn
  exact answers_of_exec e ⟨⟨r', hr', hrt⟩, s.take_inbox m, htouch.poolOnly id id, s.take_refErrOnly m⟩

/-- Settles O49: each message is counted at its place of the step. -/
theorem rosterAndFinalComplete : Obligations.RosterAndFinalComplete :=
  ⟨fun _ _ _ hs hd hp hx hl ht hn hr hdead hpod hlen h12 h9 hg hmem =>
      roster_of_member hs hd hp hx hl ht hn hr hdead hpod hlen h12 h9 hg hmem,
    fun _ _ _ hs hp hx hl ha hh => activeSetFixed_of_heard hs hp hx hl ha hh,
    fun _ _ _ _ hd hm ht hpod hlen h11 h14 h12 hsp hn => finalMsg_of_source hd hm ht hpod hlen h11 h14 h12 hsp hn⟩

end Sys2Proof.Machine
end

section
/-! SUPPORT. TALLY and GW_TALLY, sound, corrupt and stale (R274, R281, R326, R334, R335; O50). -/

-- One declaration after another: the check bounds the memory, and with it the threads.
set_option Elab.async false

namespace Sys2Proof.Machine

/-- All that leaves the image and attached memory outside the pool alone. -/
def poolTouch : Touch → Prop
  | .mem | .img => False
  | _ => True

theorem poolOnly_of_exec {s t : State} {c : Instr} (h : s.allows poolTouch c) (e : exec c s = .next t) : poolOnly s t :=
  (exec_same h e).poolOnly id id

/-- All but attached memory. -/
def offMem : Touch → Prop
  | .mem | .pool => False
  | _ => True

theorem mem_of_exec {s t : State} {c : Instr} (h : s.allows offMem c) (e : exec c s = .next t) : t.mem = s.mem :=
  (exec_same h e).mem id id

/-! ### The micro-step that a change leaves -/

theorem State.pass_micro {s : State} {p l m : Nat} {q : Pass} {f : Micro → Micro} (hf : ∀ y, (f y).m = y.m)
    (h : s.pass p l = some q) : ∃ r k, (s.onMicro p l m f).pass p l = some r
      ∧ microOf r m = f { microOf q m with start := k } := by
  obtain ⟨k, hk⟩ := microOf_onMicroOf (m := m) hf s.stitch.count q
  exact ⟨_, k, State.pass_onMicro f h, hk⟩

theorem rxOf_unlost {y : Micro} {src : Nat} (s : State) (from_ : Nat) (h : rxOf y src = none) :
    rxOf (if y.tallyIn then y else { y with tallies := y.tallies.filter (fun t => !t.lost s from_) }) src = none := by
  refine rxOf_none_of_sub (fun t ht => ?_) h
  split at ht
  · exact ht
  · exact (List.mem_filter.mp ht).1

/-- The row of a TALLY that is taken (R274, R335). -/
def takenTally (c : XCfg) (src via : Nat) (es : List TallyEnt) : RxTally where
  src := src
  via := via
  final := false
  entries := es
  tickets := entTickets es
  granted := if c.elastic then 0 else entTickets es
  state := 0
  voided := false
  list := none

theorem rxOf_of_append {y z : Micro} {t : RxTally} (h : y.tallies = z.tallies ++ [t]) (hn : rxOf z t.src = none) :
    rxOf y t.src = some t := by
  rw [rxOf, h, List.find?_append, show z.tallies.find? (fun u => u.src == t.src) = none from hn]
  simp

/-- A TALLY that is taken joins those of its micro-step (R274). -/
theorem State.takeTally_pass {s u : State} {p l m src via : Nat} {c : XCfg} {es : List TallyEnt} {q : Pass}
    (hu : s.takeTally p l m c src via es = some u) (h : s.pass p l = some q) : ∃ r, u.pass p l = some r
      ∧ (microOf r m).tallies = (microOf q m).tallies ++ [takenTally c src via es] ∧ (microOf r m).fans = (microOf q m).fans := by
  have hadd {v : State} {r : Pass} (hv : v.pass p l = some r) : ∃ w, (v.addTally p l m (takenTally c src via es)).pass p l = some w
      ∧ (microOf w m).tallies = (microOf r m).tallies ++ [takenTally c src via es] ∧ (microOf w m).fans = (microOf r m).fans := by
    obtain ⟨w, k, hw, hk⟩ := State.pass_micro
      (f := fun y => { y with tallies := y.tallies ++ [takenTally c src via es] }) (fun _ => rfl) hv
    exact ⟨w, hw, by rw [hk], by rw [hk]⟩
  unfold State.takeTally at hu
  extract_lets n at hu
  split at hu
  · cases hu
    exact hadd h
  · obtain ⟨v, hv, rfl⟩ := Option.map_eq_some_iff.mp hu
    obtain ⟨w, hw, rfl⟩ := Option.map_eq_some_iff.mp hv
    have hwp : w.pass p l = some q := by
      rw [State.pass_congr ((State.reserve_same (F := (· = .hamper)) hw (.refl s) rfl).parts (by simp))]
      exact h
    obtain ⟨r, k, hr, hk⟩ := State.pass_micro (f := fun y => { y with resv := y.resv + n * c.cells }) (fun _ => rfl) hwp
    obtain ⟨r', hr', ht, hf⟩ := hadd hr
    exact ⟨r', hr', by rw [ht, hk], by rw [hf, hk]⟩

/-- Whether a TALLY may be taken depends on the pools alone (R335). -/
theorem State.takeTally_isSome {s t : State} (hh : t.hamper = s.hamper) (hi : t.img = s.img) (hu : t.units = s.units)
    (p l m src via : Nat) (c : XCfg) (es : List TallyEnt) :
    (t.takeTally p l m c src via es).isSome = (s.takeTally p l m c src via es).isSome := by
  have hg (o n : Nat) : t.mayGrant o n true = s.mayGrant o n true :=
    State.mayGrant_congr (by rw [hh]) (by rw [hh]) (by rw [hh]) hi hu o n true
  unfold State.takeTally
  extract_lets n a
  by_cases hc : (c.elastic || n == 0) = true
  · rw [if_pos hc, if_pos hc]
    rfl
  · rw [if_neg hc, if_neg hc, Option.isSome_map, Option.isSome_map, State.reserveFor, State.reserveFor, Option.isSome_map,
      Option.isSome_map, State.reserve, State.reserve, hg]
    split <;> rfl

/-! ### VOID answers -/

/-- The registers that a VOID counts (R334). -/
def isVoidCnt (a : Nat) : Prop := a = rXCH_VOID_CNT ∨ isRelayCnt a

theorem not_isVoidCnt_corrupt : ¬isVoidCnt rXCH_CORRUPT_CNT := by
  rintro (h | ⟨p, h⟩)
  · exact absurd h (by decide)
  · simp only [rXCH_CORRUPT_CNT, rLK_RELAY_CNT] at h
    omega

theorem State.sendVoid_regs (s : State) (p dst replaces reason subject l m stepNo party : Nat) (toGateway back : Bool) :
    s.RegsBut isVoidCnt (s.sendVoid p dst replaces reason subject l m stepNo party toGateway back) :=
  .trans (.bump s 1 (.inl rfl)) ((State.send_regs _ ..).mono fun _ => .inr)

theorem State.send_parts (s : State) (dst owner typ trigger : Nat) (body : Bytes) (back : Bool) :
    (s.send dst owner typ trigger body back).parts = s.parts :=
  (State.send_same (F := fun f => f = .free ∨ f = .regs ∨ f = .link ∨ f = .power) _ _ _ _ _ _ (.refl s)
    (by simp) (by simp) (by simp) (by simp)).parts (by simp)

theorem State.sendVoid_parts (s : State) (p dst replaces reason subject l m stepNo party : Nat) (toGateway back : Bool) :
    (s.sendVoid p dst replaces reason subject l m stepNo party toGateway back).parts = s.parts := by
  rw [State.sendVoid, State.send_parts, State.bump_parts]

theorem State.voidBack_regs (s : State) (p l m stepNo src via reason : Nat) (elastic : Bool) :
    s.RegsBut isVoidCnt (s.voidBack p l m stepNo src via reason elastic) := by
  unfold State.voidBack
  split
  · unfold State.voidGrant
    extract_lets me
    split
    · exact .ofRegs rfl
    · exact s.sendVoid_regs ..
  · exact s.sendVoid_regs ..

/-- A VOID for a TALLY that is not taken leaves the tallies as they are. -/
theorem State.voidBack_pass {s : State} {p l m : Nat} {q : Pass} (stepNo src via reason : Nat) (elastic : Bool)
    (h : s.pass p l = some q) : ∃ r, (s.voidBack p l m stepNo src via reason elastic).pass p l = some r
      ∧ (microOf r m).tallies = (microOf q m).tallies := by
  unfold State.voidBack
  split
  · unfold State.voidGrant
    extract_lets me
    split
    · obtain ⟨r, k, hr, hk⟩ := State.pass_micro (m := m) (f := fun y => { y with fans := y.fans.map (fun (f : GwFan) =>
        if f.src = src ∧ !f.answers.any (fun a => a.1 == me) then { f with answers := f.answers ++ [(me, 0, true)] } else f) })
        (fun _ => rfl) h
      exact ⟨r, hr, by rw [hk]⟩
    · exact ⟨q, by rw [State.pass_congr (s.sendVoid_parts ..)]; exact h, rfl⟩
  · exact ⟨q, by rw [State.voidReturn, State.pass_congr (State.sendVoid_parts ..)]; exact h, rfl⟩

/-- A corrupt message is counted (R335). -/
theorem State.corrupt_reg {s : State} (m : Msg) (k : Nat) (hs : spWf s.regs = true) (hp : s.powered rXCH_CORRUPT_CNT = true) :
    (s.corrupt m k).reg rXCH_CORRUPT_CNT = satAdd (s.reg rXCH_CORRUPT_CNT) 1 := by
  unfold State.corrupt State.markCorrupt
  rw [(State.RegsBut.raise (B := (· = rXCH_EVT)) _ 0 rfl).reg _ (by decide),
    (State.RegsBut.latch (B := (· = rXCH_LAST_BAD)) _ _ rfl).reg _ (by decide)]
  exact State.take_bump_reg m hs hp (by decide) 1

theorem State.corrupt_parts (s : State) (m : Msg) (k : Nat) : (s.corrupt m k).parts = s.parts :=
  ((s.take_touch m).trans (State.markCorrupt_same (F := takeTouch) m k (.refl _) trivial)).parts fun _ => ⟨id, id⟩

/-! ### The statements -/

/-- A TALLY with a sound layout and content is counted with its entries (R274, R326). -/
theorem tally_of_sound {s : State} {m : Msg} {x : StepSt} {q : Pass} (hd : due s m 1)
    (hm : meets s m.owner (parseHdr m.body).stepNo (parseHdr m.body).layer x q)
    (hsp : s.maySpeak x q (s.xCfg m.owner (parseHdr m.body).layer) (parseHdr m.body).src (parseHdr m.body).micro = true)
    (hn : rxOf (microOf q (parseHdr m.body).micro) (parseHdr m.body).src = none) (hlay : tallyLayout m.body false = true)
    (hdst : (parseHdr m.body).dst = s.member)
    (hcon : tallyContent m.body (parseEntries m.body (s.xCfg m.owner (parseHdr m.body).layer).home)
      (fun e => e.dest == s.member) = true) (ht : x.tornBy = none)
    (hsome : (s.takeTally m.owner (parseHdr m.body).layer (parseHdr m.body).micro (s.xCfg m.owner (parseHdr m.body).layer)
      (parseHdr m.body).src m.src (parseEntries m.body (s.xCfg m.owner (parseHdr m.body).layer).home)).isSome = true) :
    answers (.tally m) s (fun t => (∃ r e, t.pass m.owner (parseHdr m.body).layer = some r
        ∧ rxOf (microOf r (parseHdr m.body).micro) (parseHdr m.body).src = some e
        ∧ e.entries = parseEntries m.body (s.xCfg m.owner (parseHdr m.body).layer).home
        ∧ e.tickets = entTickets (parseEntries m.body (s.xCfg m.owner (parseHdr m.body).layer).home) ∧ e.via = m.src
        ∧ e.state = 0 ∧ e.granted = if (s.xCfg m.owner (parseHdr m.body).layer).elastic then 0
          else entTickets (parseEntries m.body (s.xCfg m.owner (parseHdr m.body).layer).home))
      ∧ t.link.inbox = s.link.inbox.erase m ∧ poolOnly s t ∧ refErrOnly s t) := by
  generalize hh : parseHdr m.body = h at *
  let v := s.unvoid m.owner h.layer h.micro h.src m.src
  let c := s.xCfg m.owner h.layer
  let es := parseEntries m.body c.home
  obtain ⟨u, hu⟩ : ∃ u, v.takeTally m.owner h.layer h.micro c h.src m.src es = some u := by
    refine Option.isSome_iff_exists.mp ?_
    rw [State.takeTally_isSome (s := s) (t := v) rfl rfl rfl]
    exact hsome
  obtain ⟨-, -, -, hq, -, -⟩ := id hm
  obtain ⟨-, -, -, h4⟩ := id hd
  have e : exec (.tally m) s = .next (u.take m) := by
    change execTally m s = _
    rw [execTally]
    refine congrArg Host.Outcome.next ((State.receive_of_meets _ hd (by rw [hh]; exact hm)).trans ?_)
    dsimp only
    rw [hh]
    refine (if_neg ?_).trans ?_
    · rw [show (s.unvoid m.owner h.layer h.micro h.src m.src).maySpeak x q c h.src h.micro
        = s.maySpeak x q c h.src h.micro from rfl, hsp]
      decide
    · rw [rxOf_unlost s m.src hn]
      dsimp only
      rw [show (s.unvoid m.owner h.layer h.micro h.src m.src).headOk m = s.headOk m from rfl,
        show (s.unvoid m.owner h.layer h.micro h.src m.src).member = s.member from rfl, h4, hlay, hdst, hcon, ht]
      simp only [beq_self_eq_true, Bool.and_true, Bool.not_true, Bool.false_eq_true, if_false, ne_eq, not_true_eq_false,
        Option.isSome_none]
      rw [show (s.unvoid m.owner h.layer h.micro h.src m.src).takeTally m.owner h.layer h.micro
        (s.xCfg m.owner h.layer) h.src m.src (parseEntries m.body (s.xCfg m.owner h.layer).home) = some u from hu]
  obtain ⟨r, hr, hrn⟩ := State.unvoid_pass m.src hq hn
  obtain ⟨r', hr', ha, -⟩ := State.takeTally_pass hu hr
  have hregs : u.regs = s.regs := (State.takeTally_same (F := (· ≠ .regs)) hu (.refl v) nofun nofun).regs (by simp)
  have hlink : u.link = s.link := (State.takeTally_same (F := (· ≠ .link)) hu (.refl v) nofun nofun).link (by simp)
  refine answers_of_exec e ⟨⟨r', _, ?_, rxOf_of_append ha hrn, rfl, rfl, rfl, rfl, rfl⟩, ?_, poolOnly_of_exec (by simp [State.allows, poolTouch]) e,
    fun a ha => ?_⟩
  · rw [State.pass_congr ((u.take_touch m).parts fun _ => ⟨id, id⟩)]
    exact hr'
  · rw [State.take_inbox, hlink]
  · rw [State.take_reg m ha, State.reg_congr hregs]

/-- A TALLY whose layout fails counts as one without tickets (R335). -/
theorem tally_of_corrupt {s : State} {m : Msg} {x : StepSt} {q : Pass} (hd : due s m 1)
    (hm : meets s m.owner (parseHdr m.body).stepNo (parseHdr m.body).layer x q)
    (hsp : s.maySpeak x q (s.xCfg m.owner (parseHdr m.body).layer) (parseHdr m.body).src (parseHdr m.body).micro = true)
    (hn : rxOf (microOf q (parseHdr m.body).micro) (parseHdr m.body).src = none) (hlay : tallyLayout m.body false = false)
    (hpow : s.powered rXCH_CORRUPT_CNT = true) : answers (.tally m) s (fun t =>
      (∃ r, t.pass m.owner (parseHdr m.body).layer = some r
        ∧ rxOf (microOf r (parseHdr m.body).micro) (parseHdr m.body).src = some (emptyRx (parseHdr m.body).src m.src false))
      ∧ t.reg rXCH_CORRUPT_CNT = satAdd (s.reg rXCH_CORRUPT_CNT) 1 ∧ poolOnly s t) := by
  generalize hh : parseHdr m.body = h at *
  let v := s.unvoid m.owner h.layer h.micro h.src m.src
  let c := s.xCfg m.owner h.layer
  let rx := emptyRx h.src m.src false
  let w := (v.corrupt m 1).addTally m.owner h.layer h.micro rx
  let u := w.voidBack m.owner h.layer h.micro h.stepNo h.src m.src 3 c.elastic
  obtain ⟨hs, -, -, hq, -, -⟩ := id hm
  have e : exec (.tally m) s = .next u := by
    change execTally m s = _
    rw [execTally]
    refine congrArg Host.Outcome.next ((State.receive_of_meets _ hd (by rw [hh]; exact hm)).trans ?_)
    dsimp only
    rw [hh]
    refine (if_neg ?_).trans ?_
    · rw [show (s.unvoid m.owner h.layer h.micro h.src m.src).maySpeak x q c h.src h.micro
        = s.maySpeak x q c h.src h.micro from rfl, hsp]
      decide
    · rw [rxOf_unlost s m.src hn]
      dsimp only
      rw [hlay]
      simp only [Bool.and_false, Bool.false_and, Bool.not_false, if_true, ne_eq, not_false_eq_true,
        one_ne_zero]
      rfl
  obtain ⟨r, hr, hrn⟩ := State.unvoid_pass m.src hq hn
  have hr : (v.corrupt m 1).pass m.owner h.layer = some r := by
    rw [State.pass_congr (v.corrupt_parts m 1)]
    exact hr
  obtain ⟨r₁, hr₁, hrx⟩ := State.addTally_pass rx hr hrn
  obtain ⟨r₂, hr₂, hta⟩ := State.voidBack_pass h.stepNo h.src m.src 3 c.elastic hr₁
  refine answers_of_exec e ⟨⟨r₂, hr₂, ?_⟩, ?_, poolOnly_of_exec (by simp [State.allows, poolTouch]) e⟩
  · rw [rxOf, hta]
    exact hrx
  · rw [(w.voidBack_regs ..).reg _ not_isVoidCnt_corrupt]
    exact State.corrupt_reg (s := v) m 1 hs.regsWf hpow

/-- The waits of a partition are not of its passes. -/
theorem State.waitOn_pass (s : State) (p l m h : Nat) (src : Option Nat) (since k j : Nat) :
    (s.waitOn p l m h src since).pass k j = s.pass k j := by
  refine State.Views.pass (s := s) ?_ k j
  unfold State.waitOn
  extract_lets hit
  split
  · exact .refl s
  · exact .onPart s p fun _ => rfl

/-- A gateway tally that is taken opens its fan-out (R281, R335). -/
theorem State.fanTally_pass {s u : State} {p l m src flags : Nat} {x : StepSt} {c : XCfg} {es : List TallyEnt} {q : Pass}
    (hu : s.fanTally p l m x c src flags es = some u) (h : s.pass p l = some q) (hn : fanOf (microOf q m) src = none) :
    ∃ r f, u.pass p l = some r ∧ fanOf (microOf r m) src = some f ∧ f.entries = es ∧ f.piled = false ∧ f.sentGrant = false := by
  unfold State.fanTally at hu
  extract_lets own me s1 mine ans fan at hu
  obtain ⟨v, hv, hz⟩ := Option.map_eq_some_iff.mp hu
  have hpv : ∃ r, v.pass p l = some r ∧ (microOf r m).fans = (microOf q m).fans := by
    unfold mine at hv
    split at hv
    · cases hv
      obtain ⟨r, k, hr, hk⟩ := State.pass_micro (m := m)
        (f := fun y => { y with tallies := y.tallies ++ [emptyRx src me false] }) (fun _ => rfl) h
      refine ⟨r, ?_, by rw [hk]⟩
      split
      · exact hr
      · rw [State.pass_congr (State.sendVoid_parts ..)]
        exact hr
    · obtain ⟨r, hr, -, hf⟩ := State.takeTally_pass hv h
      exact ⟨r, hr, hf⟩
  obtain ⟨r, hr, hf⟩ := hpv
  extract_lets w z at hz
  have hw : w.pass p l = some r := by
    have hwv : w.parts = v.parts := by
      refine foldl_view (·.parts) _ (fun s d => ?_) _ v
      exact s.send_parts ..
    rw [State.pass_congr hwv]
    exact hr
  obtain ⟨r', k, hr', hk⟩ := State.pass_micro (m := m) (f := fun y => { y with fans := y.fans ++ [fan] }) (fun _ => rfl) hw
  refine ⟨r', fan, ?_, ?_, rfl, rfl, rfl⟩
  · rw [← hz, State.waitFan, State.waitOn_pass]
    exact hr'
  · rw [hk, fanOf, List.find?_append, hf,
      show (microOf q m).fans.find? (fun f => f.src == src) = none from hn]
    simp [fan]

theorem State.takeTally_rest {s u : State} {p l m src via : Nat} {c : XCfg} {es : List TallyEnt}
    (hu : s.takeTally p l m c src via es = some u) : s.RestAs u :=
  .ofLink ((State.takeTally_same (F := (· ≠ .link)) hu (.refl s) nofun nofun).link (by simp))

/-- A gateway tally that is taken only sends. -/
theorem State.fanTally_rest {s u : State} {p l m src flags : Nat} {x : StepSt} {c : XCfg} {es : List TallyEnt}
    (hu : s.fanTally p l m x c src flags es = some u) : s.RestAs u := by
  unfold State.fanTally at hu
  extract_lets own me s1 mine ans fan at hu
  obtain ⟨v, hv, hz⟩ := Option.map_eq_some_iff.mp hu
  have hsv : s.RestAs v := by
    unfold mine at hv
    split at hv
    · cases hv
      exact .ofIte (fun _ => .refl s) fun _ => State.sendVoid_rest _ _ _ _ _ _ _ _ _ _ _ (.refl s)
    · exact State.takeTally_rest hv
  extract_lets w z at hz
  have hvw : v.RestAs w := .foldl _ _ (fun _ _ h => State.send_rest _ _ _ _ _ _ h) (.refl v)
  have hwu : w.RestAs u := by
    rw [← hz]
    exact .ofLink ((State.waitFan_same (F := (· ≠ .link)) _ _ _ _ _ (.refl _) nofun).link (by simp))
  exact hsv.trans (hvw.trans hwu)

/-- Of what has come, a gateway tally that is taken changes nothing. -/
theorem State.fanTally_inbox {s u : State} {p l m src flags : Nat} {x : StepSt} {c : XCfg} {es : List TallyEnt}
    (hu : s.fanTally p l m x c src flags es = some u) : u.link.inbox = s.link.inbox :=
  (State.fanTally_rest hu).inbox

/-- A GW_TALLY with a sound layout and content opens its fan-out (R281). -/
theorem gwTally_of_sound {s : State} {m : Msg} {x : StepSt} {q : Pass} (hd : due s m 4)
    (hm : meets s m.owner (parseHdr m.body).stepNo (parseHdr m.body).layer x q)
    (hsp : s.maySpeak x q (s.xCfg m.owner (parseHdr m.body).layer) (parseHdr m.body).src (parseHdr m.body).micro = true)
    (hn : fanOf (microOf q (parseHdr m.body).micro) (parseHdr m.body).src = none) (hlay : tallyLayout m.body true = true)
    (hdst : (parseHdr m.body).dst = s.member)
    (hcon : tallyContent m.body (parseEntries m.body (s.xCfg m.owner (parseHdr m.body).layer).home)
      (fun e => decide (e.dest / 32 = s.pod)) = true)
    (hsome : (s.fanTally m.owner (parseHdr m.body).layer (parseHdr m.body).micro x
      (s.xCfg m.owner (parseHdr m.body).layer) (parseHdr m.body).src (parseHdr m.body).flags
      (parseEntries m.body (s.xCfg m.owner (parseHdr m.body).layer).home)).isSome = true) :
    answers (.gwTally m) s (fun t => (∃ r f, t.pass m.owner (parseHdr m.body).layer = some r
        ∧ fanOf (microOf r (parseHdr m.body).micro) (parseHdr m.body).src = some f
        ∧ f.entries = parseEntries m.body (s.xCfg m.owner (parseHdr m.body).layer).home
        ∧ f.piled = false ∧ f.sentGrant = false)
      ∧ t.link.inbox = s.link.inbox.erase m ∧ poolOnly s t) := by
  obtain ⟨u, hu⟩ := Option.isSome_iff_exists.mp hsome
  obtain ⟨-, -, -, hq, -, -⟩ := id hm
  obtain ⟨-, -, -, h4⟩ := id hd
  have e : exec (.gwTally m) s = .next (u.take m) := by
    change execGwTally m s = _
    rw [execGwTally]
    refine congrArg Host.Outcome.next ((State.receive_of_meets _ hd hm).trans ?_)
    dsimp only
    rw [hsp, hn, h4, hlay, hdst, hcon, hu]
    simp
  obtain ⟨r, f, hr, hf⟩ := State.fanTally_pass hu hq hn
  refine answers_of_exec e ⟨⟨r, f, ?_, hf⟩, ?_, poolOnly_of_exec (by simp [State.allows, poolTouch]) e⟩
  · rw [State.pass_congr ((u.take_touch m).parts fun _ => ⟨id, id⟩)]
    exact hr
  · rw [State.take_inbox, State.fanTally_inbox hu]

/-- A TALLY of a layer that is over is stale (R321). -/
theorem tally_of_ended {s : State} {m : Msg} (hs : s.sound) (hd : due s m 1)
    (hw : s.xWhen m.owner (parseHdr m.body).stepNo (parseHdr m.body).layer = 1) (hp : s.powered rXCH_STALE_CNT = true) :
    answers (.tally m) s (fun t => t.link.inbox = s.link.inbox.erase m
      ∧ t.reg rXCH_STALE_CNT = satAdd (s.reg rXCH_STALE_CNT) 1 ∧ t.parts = s.parts ∧ poolOnly s t) := by
  obtain ⟨h1, h2, h3, -⟩ := hd
  have e : exec (.tally m) s = .next (s.stale m) := by
    change execTally m s = _
    rw [execTally]
    refine congrArg Host.Outcome.next ?_
    rw [State.receive, if_neg (by simp [h1, h2, h3]), hw]
    rfl
  refine answers_of_exec e ⟨?_, State.take_bump_reg m hs.regsWf hp (by decide) 1, ?_,
    poolOnly_of_exec (by simp [State.allows, poolTouch]) e⟩
  · rw [State.stale, State.bump_link, State.take_inbox]
  · rw [State.stale, State.bump_parts]
    exact (s.take_touch m).parts fun _ => ⟨id, id⟩

/-- Settles O50: a TALLY is counted as its layout, its content and its layer say. -/
theorem talliesComplete : Obligations.TalliesComplete :=
  ⟨fun _ _ _ _ hd hm hsp hn => ⟨fun hlay hdst hcon ht hsome => tally_of_sound hd hm hsp hn hlay hdst hcon ht hsome,
      fun hlay hp => tally_of_corrupt hd hm hsp hn hlay hp⟩,
    fun _ _ _ _ hd hm hsp hn hlay hdst hcon hsome => gwTally_of_sound hd hm hsp hn hlay hdst hcon hsome,
    fun _ _ hs hd hw hp => tally_of_ended hs hd hw hp⟩

end Sys2Proof.Machine
end

section
/-! SUPPORT. What an operation of the exchange leaves of a pass, as a view of it (R321). -/

-- One declaration after another: the check bounds the memory, and with it the threads.
set_option Elab.async false

namespace Sys2Proof.Machine

variable {α : Type} {v : Pass → α}

/-- The view `v` of the pass of layer `l` is as before. -/
def State.PassAs (v : Pass → α) (p l : Nat) (s t : State) : Prop := (t.pass p l).map v = (s.pass p l).map v

theorem find_layer_map_self {l : Nat} {f : Pass → Pass} (hf : ∀ q, (f q).layer = q.layer) (qs : List Pass) :
    (qs.map (fun q => if q.layer = l then f q else q)).find? (fun q => q.layer = l)
      = (qs.find? (fun q => q.layer = l)).map f := by
  rw [find_layer_map hf l qs]
  cases h : qs.find? (fun q => q.layer = l) with
  | none => rfl
  | some q => rw [Option.map_some, if_pos (by simpa using List.find?_some h), Option.map_some]

theorem State.pass_onPass_map (s : State) (p l : Nat) {f : Pass → Pass} (hf : ∀ q, (f q).layer = q.layer) :
    (s.onPass p l f).pass p l = (s.pass p l).map f := by
  cases h : s.pass p l with
  | some q => rw [State.pass_onPass hf h, Option.map_some]
  | none =>
    rw [Option.map_none, Option.eq_none_iff_forall_not_mem]
    intro r hr
    obtain ⟨y, hy, hry⟩ := Option.bind_eq_some_iff.mp hr
    have hlt : p < s.parts.length := by simpa [State.onPass, State.onStep] using State.lt_parts_of_step hy
    rw [State.onPass, State.step_onStep _ _ _ hlt] at hy
    obtain ⟨x, hx, rfl⟩ := Option.map_eq_some_iff.mp hy
    rw [State.pass_of_step hx] at h
    rw [onPassOf, find_layer_map_self hf, h] at hry
    exact absurd hry nofun

namespace State.PassAs

variable {p l : Nat}

theorem refl (s : State) : s.PassAs v p l s := rfl

theorem trans {s t u : State} (h : s.PassAs v p l t) (k : t.PassAs v p l u) : s.PassAs v p l u := Eq.trans k h

theorem ofPass {s t : State} (h : t.pass p l = s.pass p l) : s.PassAs v p l t := congrArg (Option.map v) h

theorem ofParts {s t : State} (h : t.parts = s.parts) : s.PassAs v p l t := ofPass (State.pass_congr h p l)

theorem ofSame {s t : State} (h : s.Same Machine.offParts t) : s.PassAs v p l t := ofParts h.offParts

theorem ofViews {s t : State} (h : s.Views Part.step t) : s.PassAs v p l t := ofPass (h.pass p l)

theorem onPass (s : State) {f : Pass → Pass} (hf : ∀ q, (f q).layer = q.layer) (hv : ∀ q, v (f q) = v q) :
    s.PassAs v p l (s.onPass p l f) := by
  rw [State.PassAs, State.pass_onPass_map _ _ _ hf, Option.map_map]
  congr 1
  funext q
  exact hv q

/-- A change of one micro-step that the view does not see. -/
theorem onMicro (s : State) (m : Nat) {f : Micro → Micro} (hv : ∀ q n, v (onMicroOf m n f q) = v q) :
    s.PassAs v p l (s.onMicro p l m f) :=
  onPass s (onMicroOf_layer m _ f) fun q => hv q _

theorem ofIte {s t u : State} {c : Prop} [Decidable c] (h : c → s.PassAs v p l t) (k : ¬c → s.PassAs v p l u) :
    s.PassAs v p l (if c then t else u) := by
  split
  · exact h ‹_›
  · exact k ‹_›

theorem foldl {β : Type} {f : State → β → State} (hf : ∀ (s : State) a, s.PassAs v p l (f s a)) (bs : List β) (s : State) :
    s.PassAs v p l (bs.foldl f s) := by
  induction bs generalizing s with
  | nil => exact refl s
  | cons b bs ih => exact (hf s b).trans (ih _)

/-- The pass that a state with the same view has. -/
theorem get {s t : State} {q : Pass} (h : s.PassAs v p l t) (hq : s.pass p l = some q) : ∃ r, t.pass p l = some r ∧ v r = v q := by
  rw [State.PassAs, hq] at h
  exact Option.map_eq_some_iff.mp h

end State.PassAs

/-! ### Views of one micro-step -/

/-- A view of one micro-step, whatever its start. -/
def microView {α : Type} (m : Nat) (w : Micro → α) (q : Pass) : α := w { microOf q m with start := 0 }

theorem microView_onMicroOf {m : Nat} {w : Micro → α} {f : Micro → Micro} (hm : ∀ y, (f y).m = y.m)
    (hw : ∀ (y : Micro) k, w { f { y with start := k } with start := 0 } = w { y with start := 0 }) (q : Pass) (n : Nat) :
    microView m w (onMicroOf m n f q) = microView m w q := by
  obtain ⟨k, hk⟩ := microOf_onMicroOf (m := m) hm n q
  rw [microView, hk, hw, microView]

namespace State.PassAs

variable {p l m : Nat} {w : Micro → α}

/-- A change of the micro-step that its view does not see. -/
theorem micro (s : State) {f : Micro → Micro} (hm : ∀ y, (f y).m = y.m)
    (hw : ∀ (y : Micro) k, w { f { y with start := k } with start := 0 } = w { y with start := 0 }) :
    s.PassAs (microView m w) p l (s.onMicro p l m f) :=
  onMicro s m fun q n => microView_onMicroOf hm hw q n

end State.PassAs

/-! ### The operations -/

theorem State.raise_passAs {p l : Nat} (s : State) (a i : Nat) : s.PassAs v p l (s.raise a i) := .ofParts (State.raise_parts _ _ _)

theorem State.bump_passAs {p l : Nat} (s : State) (a n : Nat) : s.PassAs v p l (s.bump a n) := .ofParts (State.bump_parts _ _ _)

theorem State.waitOn_passAs {k j : Nat} (s : State) (p l m h : Nat) (src : Option Nat) (since : Nat) :
    s.PassAs v k j (s.waitOn p l m h src since) := .ofPass (s.waitOn_pass p l m h src since k j)

theorem State.send_passAs {p l : Nat} (s : State) (dst owner typ trigger : Nat) (body : Bytes) (back : Bool) :
    s.PassAs v p l (s.send dst owner typ trigger body back) := .ofParts (s.send_parts ..)

theorem State.take_passAs {p l : Nat} (s : State) (m : Msg) : s.PassAs v p l (s.take m) :=
  .ofParts ((s.take_touch m).parts fun _ => ⟨id, id⟩)

theorem State.keepTickets_passAs {k j : Nat} (s : State) (p l : Nat) : s.PassAs v k j (s.keepTickets p l) :=
  .ofSame (State.keepTickets_same p l (.refl s) trivial trivial trivial trivial)

/-- A view that sees of a pass neither its rows nor its tickets. -/
def BlindToTickets (v : Pass → α) : Prop := ∀ q toks ks, v { q with toks := toks, tickets := ks } = v q

theorem BlindToTickets.tickets (h : BlindToTickets v) (q : Pass) (ks : List Ticket) : v { q with tickets := ks } = v q :=
  h q q.toks ks

theorem BlindToTickets.toks (h : BlindToTickets v) (q : Pass) (ts : List Tok) : v { q with toks := ts } = v q :=
  h q ts q.tickets

theorem State.setTickets_passAs (hv : BlindToTickets v) (s : State) (p l : Nat) (f : Ticket → Bool) (st : Nat) :
    s.PassAs v p l (s.setTickets p l f st) := .onPass s (fun _ => rfl) fun q => hv.tickets q _

theorem State.markLost_passAs (hv : BlindToTickets v) (s : State) (p l : Nat) (rows : List Nat) :
    s.PassAs v p l (s.markLost p l rows) := by
  unfold State.markLost
  split
  · exact .refl s
  · extract_lets fresh n u
    split
    · exact .refl s
    · have hu : s.PassAs v p l u := .onPass s (fun _ => rfl) fun q => hv.toks q _
      exact hu.trans ((State.bump_passAs _ _ _).trans (State.raise_passAs _ _ _))

/-- A change of what a micro-step counts and notes, and of nothing else of it. -/
def CountsOnly (f : Micro → Micro) : Prop := ∀ y, ∃ cs n es, f y = { y with counts := cs, vary := n, events := es }

/-- A view that sees of a pass no row, no ticket and no count of the micro-step `m`. -/
structure BlindToLoss (m : Nat) (v : Pass → α) : Prop where
  rows : BlindToTickets v
  counts : ∀ f, CountsOnly f → ∀ q n, v (onMicroOf m n f q) = v q

section
variable {m : Nat} (hv : BlindToLoss m v)
include hv

theorem BlindToLoss.onMicro (s : State) (p l : Nat) {f : Micro → Micro} (hf : CountsOnly f) :
    s.PassAs v p l (s.onMicro p l m f) := .onMicro s m fun q n => hv.counts f hf q n

theorem State.dropTickets_views (s : State) (p l : Nat) (f : Ticket → Bool) (st code ci vb : Nat) :
    s.PassAs v p l (s.dropTickets p l m f st code ci vb) := by
  unfold State.dropTickets
  split
  · exact .refl s
  · extract_lets hit gone ks rows bare bares toks ks₁ s₁ s₂
    split
    · exact .refl s
    · have h₁ : s.PassAs v p l s₁ := .trans (.onPass (f := fun q => { q with toks := toks, tickets := ks₁ }) s (fun _ => rfl)
        fun q => hv.rows q _ _) (State.keepTickets_passAs _ p l)
      have h₂ : s₁.PassAs v p l s₂ := hv.onMicro s₁ p l fun y => ⟨_, _, _, rfl⟩
      exact h₁.trans (h₂.trans ((State.bump_passAs _ _ _).trans (State.bump_passAs _ _ _)))

theorem State.loseTickets_views (s : State) (p l : Nat) (f : Ticket → Bool) : s.PassAs v p l (s.loseTickets p l m f) := by
  unfold State.loseTickets
  split
  · exact .refl s
  · extract_lets gone u
    split
    · exact .refl s
    · have hu : s.PassAs v p l u := (s.bump_passAs _ _).trans (State.raise_passAs _ _ _)
      exact hu.trans ((State.dropTickets_views hv _ _ _ _ _ _ _ _).trans (State.markLost_passAs hv.rows _ _ _ _))

theorem State.withhold_views (s : State) (p l d n : Nat) : s.PassAs v p l (s.withhold p l m d n) := by
  unfold State.withhold
  split
  · exact .refl s
  · extract_lets ks s₁ s₂
    split
    · exact .refl s
    · have h₁ : s.PassAs v p l s₁ := s.setTickets_passAs hv.rows _ _ _ _
      have h₂ : s₁.PassAs v p l s₂ := hv.onMicro s₁ p l fun y => ⟨_, _, _, rfl⟩
      exact h₁.trans (h₂.trans ((State.bump_passAs _ _ _).trans (State.bump_passAs _ _ _)))

end

section
variable {m : Nat} {w : Micro → α}

/-- A view that sees of a micro-step neither its counts nor its events. -/
def BlindToCounts (w : Micro → α) : Prop := ∀ y cs n es, w { y with counts := cs, vary := n, events := es } = w y

theorem microView_blind (m : Nat) (w : Micro → α) : BlindToTickets (microView m w) := fun _ _ _ => rfl

theorem BlindToCounts.loss (hw : BlindToCounts w) : BlindToLoss m (microView m w) where
  rows := microView_blind m w
  counts f hf q n := by
    have hm (y : Micro) : (f y).m = y.m := by
      obtain ⟨cs, n, es, e⟩ := hf y
      rw [e]
    refine microView_onMicroOf hm (fun y k => ?_) q n
    obtain ⟨cs, n, es, e⟩ := hf { y with start := k }
    rw [e]
    exact hw { y with start := 0 } cs n es

theorem State.loseTickets_passAs (hw : BlindToCounts w) (s : State) (p l : Nat) (f : Ticket → Bool) :
    s.PassAs (microView m w) p l (s.loseTickets p l m f) := State.loseTickets_views hw.loss s p l f

theorem State.withhold_passAs (hw : BlindToCounts w) (s : State) (p l d n : Nat) :
    s.PassAs (microView m w) p l (s.withhold p l m d n) := State.withhold_views hw.loss s p l d n

end

end Sys2Proof.Machine
end

section
/-! SUPPORT. TALLY_IN, GRANT, GW_GRANT and their collection (R252, R280, R326 to R329; O51). -/

-- One declaration after another: the check bounds the memory, and with it the threads.
set_option Elab.async false

namespace Sys2Proof.Machine

section
variable {α : Type} {m : Nat} {w : Micro → α}

/-- A view that sees of a micro-step no tally, pile, fan-out, count or event. -/
def BlindToGrants (w : Micro → α) : Prop := ∀ y ts ps fs cs n es r,
  w { y with tallies := ts, piles := ps, fans := fs, counts := cs, vary := n, events := es, resv := r } = w y

theorem BlindToGrants.counts (h : BlindToGrants w) : BlindToCounts w := fun y cs n es =>
  h y y.tallies y.piles y.fans cs n es y.resv

theorem State.onRx_passAs (hw : BlindToGrants w) (s : State) (p l src : Nat) (f : RxTally → RxTally) :
    s.PassAs (microView m w) p l (s.onRx p l m src f) :=
  .micro s (fun _ => rfl) fun y _ => hw { y with start := 0 } _ y.piles y.fans y.counts y.vary y.events y.resv

theorem State.onFan_passAs (hw : BlindToGrants w) (s : State) (p l src : Nat) (f : GwFan → GwFan) :
    s.PassAs (microView m w) p l (s.onFan p l m src f) :=
  .micro s (fun _ => rfl) fun y _ => hw { y with start := 0 } y.tallies y.piles _ y.counts y.vary y.events y.resv

theorem State.ownPile_passAs (hw : BlindToGrants w) (s : State) (p l : Nat) :
    s.PassAs (microView m w) p l (s.ownPile p l m) := by
  unfold State.ownPile
  split
  · extract_lets c ks me s₁ s₂
    have h₁ : s.PassAs (microView m w) p l s₁ := s.setTickets_passAs (microView_blind m w) _ _ _ _
    have h₂ : s₁.PassAs (microView m w) p l s₂ := s₁.onRx_passAs hw _ _ _ _
    refine .ofIte (fun _ => h₁.trans h₂) fun _ => h₁.trans (h₂.trans (.micro s₂ (fun _ => rfl) fun y _ =>
      hw { y with start := 0 } y.tallies _ y.fans y.counts y.vary y.events y.resv))
  · exact .refl s

theorem State.giveGrant_passAs (hw : BlindToGrants w) (s : State) (p l stepNo : Nat) (t : RxTally) (g : Nat) :
    s.PassAs (microView m w) p l (s.giveGrant p l m stepNo t g) := by
  unfold State.giveGrant
  extract_lets me s₁ k
  have h₁ : s.PassAs (microView m w) p l s₁ := s.onRx_passAs hw _ _ _ _
  refine h₁.trans (.ofIte (fun _ => ?_) fun _ => .ofIte (fun _ => s₁.onFan_passAs hw _ _ _ _) fun _ => s₁.send_passAs ..)
  exact (s₁.withhold_passAs hw.counts _ _ _ _).trans (State.ownPile_passAs hw _ _ _)

theorem State.reserveFor_passAs (hw : BlindToGrants w) {s u : State} {p l o n : Nat} (h : s.reserveFor p l m o n = some u) :
    s.PassAs (microView m w) p l u := by
  obtain ⟨v, hv, rfl⟩ := Option.map_eq_some_iff.mp h
  refine .trans (t := v) (.ofParts ?_) (.micro v (fun _ => rfl) fun y _ =>
    hw { y with start := 0 } y.tallies y.piles y.fans y.counts y.vary y.events _)
  exact (State.reserve_same (F := (· = .hamper)) hv (.refl s) rfl).parts (by simp)

end

/-! ### The outgoing tallies of a micro-step -/

theorem outOf_setOut {y z : Micro} {d v : Nat} (h : z.out = y.out.map (fun o => if o.1 = d then (d, v) else o))
    (hd : outOf y d ≠ 3) : outOf z d = v := by
  have hf : ∀ os : List (Nat × Nat), (os.map (fun o => if o.1 = d then (d, v) else o)).find? (fun o => o.1 == d)
      = (os.find? (fun o => o.1 == d)).map (fun _ => (d, v)) := by
    intro os
    induction os with
    | nil => rfl
    | cons o os ih =>
      by_cases ho : o.1 = d
      · simp [ho]
      · rw [List.map_cons, if_neg ho, List.find?_cons_of_neg (by simpa using ho), ih, List.find?_cons_of_neg (by simpa using ho)]
  rw [outOf, h, hf]
  cases ho : y.out.find? (fun o => o.1 == d) with
  | none => exact absurd (by rw [outOf, ho]; rfl) hd
  | some o => rfl

theorem find_of_outOf {y : Micro} {d : Nat} (h : outOf y d = 0) : outOf y d ≠ 3 := by omega

/-- The step of a partition that has a pass. -/
theorem State.step_of_pass {s : State} {p l : Nat} {q : Pass} (h : s.pass p l = some q) : ∃ x, (s.part p).step = some x := by
  obtain ⟨x, hx, -⟩ := Option.bind_eq_some_iff.mp h
  exact ⟨x, hx⟩

section
variable {s : State} {p l m : Nat} {q : Pass}

/-- The tickets of `f` leave and the receiver `d` is no longer waited for, however it is counted and sent. -/
theorem State.sent_pass {s₁ s₂ : State} {f : Ticket → Bool} {d : Nat} (hq : s.pass p l = some q) (ho : outOf (microOf q m) d ≠ 3)
    (h₁ : (s.setTickets p l f 4).PassAs id p l s₁) (h₂ : (s₁.setOut p l m d 1).PassAs id p l s₂) :
    ∃ r, s₂.pass p l = some r ∧ outOf (microOf r m) d = 1 ∧ r.tickets = q.tickets.map (fun k => if f k then { k with st := 4 } else k) := by
  let q₁ : Pass := { q with tickets := q.tickets.map (fun k => if f k then { k with st := 4 } else k) }
  let g (y : Micro) : Micro := { y with out := y.out.map (fun o => if o.1 = d then (d, 1) else o) }
  obtain ⟨r₁, hr₁, e₁⟩ := h₁.get (State.pass_onPass (fun _ => rfl) hq)
  obtain rfl : r₁ = q₁ := e₁
  obtain ⟨k, hk⟩ := microOf_onMicroOf (m := m) (f := g) (fun _ => rfl) s₁.stitch.count q₁
  obtain ⟨r₂, hr₂, e₂⟩ := h₂.get (State.pass_onMicro g hr₁)
  obtain rfl : r₂ = onMicroOf m s₁.stitch.count g q₁ := e₂
  refine ⟨_, hr₂, ?_, onMicroOf_tickets ..⟩
  rw [hk]
  exact outOf_setOut (y := microOf q m) rfl ho

theorem State.sendPile_pass (hq : s.pass p l = some q) {d : Nat} (ho : outOf (microOf q m) d ≠ 3) :
    ∃ r, (s.sendPile p l m d).pass p l = some r ∧ outOf (microOf r m) d = 1
      ∧ r.tickets = q.tickets.map (fun k => if k.micro == m && k.dest == d && k.st == 1 then { k with st := 4 } else k) := by
  obtain ⟨x, hx⟩ := State.step_of_pass hq
  rw [State.sendPile, hx, hq]
  dsimp only
  exact State.sent_pass hq ho (.ofIte (fun _ => .refl _) fun _ => State.waitOn_passAs _ _ _ _ _ _ _) (State.send_passAs ..)

theorem State.sendGwPile_pass (hq : s.pass p l = some q) {gw : Nat} (ho : outOf (microOf q m) gw ≠ 3) :
    ∃ r, (s.sendGwPile p l m gw).pass p l = some r ∧ outOf (microOf r m) gw = 1
      ∧ r.tickets = q.tickets.map (fun k => if k.micro == m && k.dest / 32 == gw / 32 && k.st == 1 then { k with st := 4 } else k) := by
  obtain ⟨x, hx⟩ := State.step_of_pass hq
  rw [State.sendGwPile, hx, hq]
  dsimp only
  refine State.sent_pass hq ho ?_ (State.send_passAs ..)
  exact (State.bump_passAs _ _ _).trans (.ofIte (fun _ => .refl _) fun _ => State.waitOn_passAs _ _ _ _ _ _ _)

end

/-- No ticket of `f` that waited does so once those of `f` were sent. -/
theorem sent_st {ks : List Ticket} {f : Ticket → Bool} {k : Ticket} (hk : k ∈ ks.map (fun k => if f k then { k with st := 4 } else k))
    (hf : k.st = 1 → f k = true) : k.st ≠ 1 := by
  obtain ⟨j, -, rfl⟩ := List.mem_map.mp hk
  intro h1
  split at h1
  · exact absurd h1 (by simp)
  · next hn =>
    rw [if_neg hn] at hf
    exact hn (hf h1)

/-! ### The statements -/

/-- With every source heard TALLY_IN is over (R326). -/
theorem tallyIn_of_heard {s : State} {p l m : Nat} {x : StepSt} {q : Pass} (hx : s.xLive p l = some (x, q))
    (hq : s.pass p l = some q) (hm : m < (s.xCfg p l).most) (hin : (microOf q m).tallyIn = false)
    (hlast : m = 0 ∨ (microOf q (m - 1)).tallyIn = true) (hsrc : sourcesAt x q s.member m ≠ [])
    (hall : ∀ a ∈ sourcesAt x q s.member m, (rxOf (microOf q m) a).isSome = true) : answers (.tallyIn p l m) s (fun t =>
      (∃ r, t.pass p l = some r ∧ (microOf r m).tallyIn = true) ∧ t.mem = s.mem) := by
  let u := s.onMicro p l m (fun y => { y with tallyIn := true })
  have hblind : BlindToGrants Micro.tallyIn := fun _ _ _ _ _ _ _ _ => rfl
  obtain ⟨r, k, hr, hk⟩ := State.pass_micro (m := m) (f := fun y => { y with tallyIn := true }) (fun _ => rfl) hq
  obtain ⟨t, e, ht⟩ : ∃ t, exec (.tallyIn p l m) s = .next t ∧ u.PassAs (microView m Micro.tallyIn) p l t := by
    change ∃ t, execTallyIn p l m s = _ ∧ _
    rw [execTallyIn, hx]
    dsimp only
    rw [if_neg (by
      simp only [List.isEmpty_iff, hsrc, List.all_eq_true.mpr hall, hin, not_or]
      rcases hlast with h | h <;> simp [h] <;> omega)]
    split
    · exact ⟨_, rfl, .micro u (fun _ => rfl) fun _ _ => rfl⟩
    · have hwait (v : State) : v.PassAs (microView m Micro.tallyIn) p l
            (((v.waitFor p l m 1).waitSince p l (m + 1) 0 q.start).waitSince p l (m + 1) 4 q.start) :=
          (v.waitOn_passAs ..).trans ((State.waitOn_passAs ..).trans (State.waitOn_passAs ..))
      split
      · exact ⟨_, rfl, hwait u⟩
      · split
        · exact ⟨_, rfl, hwait u⟩
        · next v hv =>
          refine ⟨_, rfl, (hwait u).trans (.trans ?_ (.foldl (fun v e => v.giveGrant_passAs hblind _ _ _ _ _) _ v))⟩
          split at hv
          · cases hv
            exact .refl _
          · exact State.reserveFor_passAs hblind hv
  obtain ⟨r', hr', hin'⟩ := ht.get hr
  refine answers_of_exec e ⟨⟨r', hr', hin'.trans ?_⟩, mem_of_exec (by simp [State.allows, offMem]) e⟩
  rw [microView, hk]

/-- A GRANT releases its pile (R327). -/
theorem grant_of_pending {s : State} {m : Msg} {x : StepSt} {q : Pass} (hd : due s m 3) (hlen : m.body.length = 32)
    (h7 : rsv m.body 7 1 = true) (h24 : rsv m.body 24 8 = true) (hsrc : fld m.body 2 2 = s.member) (ht : x.tornBy = none)
    (hm : meets s m.owner (fld m.body 8 8) (fld m.body 4 2) x q) (hsort : (microOf q (fld m.body 6 1)).sorted = true)
    (ho : outOf (microOf q (fld m.body 6 1)) (fld m.body 0 2) = 0)
    (hn : fld m.body 16 4 + fld m.body 20 4 = (bound q (fld m.body 6 1) (fld m.body 0 2)).length) :
    answers (.grant m) s (fun t => (∃ r, t.pass m.owner (fld m.body 4 2) = some r
        ∧ outOf (microOf r (fld m.body 6 1)) (fld m.body 0 2) = 1
        ∧ (∀ k ∈ r.tickets, k.micro = fld m.body 6 1 → k.dest = fld m.body 0 2 → k.st ≠ 1))
      ∧ t.link.inbox = s.link.inbox.erase m ∧ poolOnly s t) := by
  let u := (s.take m).withhold m.owner (fld m.body 4 2) (fld m.body 6 1) (fld m.body 0 2) (fld m.body 20 4)
  have e : exec (.grant m) s
      = .next (u.sendPile m.owner (fld m.body 4 2) (fld m.body 6 1) (fld m.body 0 2)) := by
    obtain ⟨-, -, -, h4⟩ := id hd
    change execGrant m s = _
    rw [execGrant]
    refine congrArg Host.Outcome.next ((State.receive_of_meets _ hd hm).trans ?_)
    simp only [hsrc, ht, hsort, ho, h4, hlen, h7, h24, hn, if_true, Option.isSome_none, Bool.false_eq_true, Bool.not_true,
      Nat.not_le_of_lt (show 0 < 2 by decide), or_self, if_false, Nat.zero_ne_one, decide_true, Bool.and_true, ne_eq,
      not_true_eq_false]
    rfl
  obtain ⟨-, -, -, hq, -, -⟩ := hm
  have hu : s.PassAs (microView (fld m.body 6 1) Micro.out) m.owner (fld m.body 4 2) u :=
    (s.take_passAs m).trans (State.withhold_passAs (fun _ _ _ _ => rfl) _ _ _ _ _)
  obtain ⟨r, hr, hout⟩ := hu.get hq
  have hor : outOf (microOf r (fld m.body 6 1)) (fld m.body 0 2) ≠ 3 := by
    rw [outOf, show (microOf r (fld m.body 6 1)).out = (microOf q (fld m.body 6 1)).out from hout]
    exact find_of_outOf ho
  obtain ⟨r', hr', ho', hk'⟩ := State.sendPile_pass hr hor
  have hin : (u.sendPile m.owner (fld m.body 4 2) (fld m.body 6 1) (fld m.body 0 2)).link.inbox = s.link.inbox.erase m := by
    rw [(State.sendPile_rest _ _ _ _ (State.withhold_rest _ _ _ _ _ (.refl (s.take m)))).inbox, State.take_inbox]
  refine answers_of_exec e ⟨⟨r', hr', ho', fun k hk h1 h2 => sent_st (hk' ▸ hk) fun h => ?_⟩, hin,
    poolOnly_of_exec (by simp [State.allows, poolTouch]) e⟩
  simp [h, h1, h2]

/-- A GW_GRANT releases the pile of its pod (R328, R329). -/
theorem gwGrant_of_pending {s : State} {m : Msg} {x : StepSt} {q : Pass} (hd : due s m 6)
    (hlen : m.body.length = 32 + 8 * fld m.body 16 2) (h7 : rsv m.body 7 1 = true) (h18 : rsv m.body 18 14 = true)
    (hflag : ∀ i, i < fld m.body 16 2 → fld m.body (34 + 8 * i) 2 < 2) (hsrc : fld m.body 2 2 = s.member) (ht : x.tornBy = none)
    (hm : meets s m.owner (fld m.body 8 8) (fld m.body 4 2) x q) (hsort : (microOf q (fld m.body 6 1)).sorted = true)
    (ho : outOf (microOf q (fld m.body 6 1)) (fld m.body 0 2) = 0)
    (hes : ∀ e ∈ gwEntries m.body, e.1 / 32 = fld m.body 0 2 / 32 ∧ (e.2.2 = true → e.2.1 = 0)
      ∧ ∃ n, ((microOf q (fld m.body 6 1)).listed.find? (fun d => d.1 == e.1)).map (·.2) = some n ∧ 0 < n ∧ e.2.1 ≤ n) :
    answers (.gwGrant m) s (fun t => (∃ r, t.pass m.owner (fld m.body 4 2) = some r
        ∧ outOf (microOf r (fld m.body 6 1)) (fld m.body 0 2) = 1
        ∧ (∀ k ∈ r.tickets, k.micro = fld m.body 6 1 → k.dest / 32 = fld m.body 0 2 / 32 → k.st ≠ 1))
      ∧ t.link.inbox = s.link.inbox.erase m ∧ poolOnly s t) := by
  let f (s : State) (e : Nat × Nat × Bool) : State :=
    if e.2.2 then s.loseTickets m.owner (fld m.body 4 2) (fld m.body 6 1) (fun k => k.micro == fld m.body 6 1 && k.dest == e.1 && k.st == 1)
    else s.withhold m.owner (fld m.body 4 2) (fld m.body 6 1) e.1 e.2.1
  let u := (gwEntries m.body).foldl f (s.take m)
  have hgood : (gwEntries m.body).all (fun e =>
      decide (0 < (((microOf q (fld m.body 6 1)).listed.find? (fun d => d.1 == e.1)).map (·.2)).getD 0)
        && decide (e.1 / 32 = fld m.body 0 2 / 32)
        && decide (e.2.1 ≤ (((microOf q (fld m.body 6 1)).listed.find? (fun d => d.1 == e.1)).map (·.2)).getD 0)
        && (!e.2.2 || e.2.1 == 0)) = true := by
    rw [List.all_eq_true]
    intro e he
    obtain ⟨h1, h2, n, h3, h4, h5⟩ := hes e he
    rw [h3]
    cases hb : e.2.2 <;> simp [h1, h4, h5, hb, h2]
  have hrange : (List.range (fld m.body 16 2)).all (fun i => decide (fld m.body (34 + 8 * i) 2 < 2)) = true := by
    simpa [List.all_eq_true] using hflag
  have e : exec (.gwGrant m) s = .next (u.sendGwPile m.owner (fld m.body 4 2) (fld m.body 6 1) (fld m.body 0 2)) := by
    obtain ⟨-, -, -, h4⟩ := id hd
    change execGwGrant m s = _
    rw [execGwGrant]
    refine congrArg Host.Outcome.next ((State.receive_of_meets _ hd hm).trans ?_)
    dsimp only
    rw [hgood, hrange, h4, hsrc, h7, h18, ho, hsort, ht]
    simp only [hlen, Nat.le_add_right, decide_true, beq_self_eq_true, Bool.and_true, Bool.not_true, Bool.false_eq_true,
      if_false, ne_eq, not_true_eq_false, Option.isSome_none, or_self, Nat.zero_ne_one,
      Nat.not_le_of_lt (show 0 < 2 by decide)]
    rfl
  obtain ⟨-, -, -, hq, -, -⟩ := hm
  have hcounts : BlindToCounts Micro.out := fun _ _ _ _ => rfl
  have hu : s.PassAs (microView (fld m.body 6 1) Micro.out) m.owner (fld m.body 4 2) u :=
    (s.take_passAs m).trans (.foldl (fun v a => .ofIte (fun _ => v.loseTickets_passAs hcounts _ _ _) fun _ =>
      v.withhold_passAs hcounts _ _ _ _) _ _)
  obtain ⟨r, hr, hout⟩ := hu.get hq
  have hor : outOf (microOf r (fld m.body 6 1)) (fld m.body 0 2) ≠ 3 := by
    rw [outOf, show (microOf r (fld m.body 6 1)).out = (microOf q (fld m.body 6 1)).out from hout]
    exact find_of_outOf ho
  obtain ⟨r', hr', ho', hk'⟩ := State.sendGwPile_pass hr hor
  have hf (v : State) (a : Nat × Nat × Bool) (h : (s.take m).RestAs v) : (s.take m).RestAs (f v a) :=
    .ofIte (fun _ => State.loseTickets_rest _ _ _ _ h) fun _ => State.withhold_rest _ _ _ _ _ h
  have hrest : (s.take m).RestAs u := .foldl f (gwEntries m.body) hf (.refl _)
  have hin : (u.sendGwPile m.owner (fld m.body 4 2) (fld m.body 6 1) (fld m.body 0 2)).link.inbox = s.link.inbox.erase m := by
    rw [(State.sendGwPile_rest _ _ _ _ hrest).inbox, State.take_inbox]
  refine answers_of_exec e ⟨⟨r', hr', ho', fun k hk h1 h2 => sent_st (hk' ▸ hk) fun h => ?_⟩, hin,
    poolOnly_of_exec (by simp [State.allows, poolTouch]) e⟩
  simp [h, h1, h2]

/-- A gateway that has every answer sends its GW_GRANT (R328). -/
theorem gwCollect_of_answers {s : State} {p l m src : Nat} {x : StepSt} {q : Pass} {f : GwFan} (hx : (s.part p).step = some x)
    (hq : s.pass p l = some q) (hf : fanOf (microOf q m) src = some f) (hel : (s.xCfg p l).elastic = true)
    (hdead : f.dead = false) (hsent : f.sentGrant = false) (hne : fanDests f ≠ [])
    (hall : ∀ d ∈ fanDests f, (fanAnswer x l f d).isSome = true) : answers (.gwCollect p l m src) s (fun t =>
      (∃ r g, t.pass p l = some r ∧ fanOf (microOf r m) src = some g ∧ g.sentGrant = true) ∧ t.mem = s.mem) := by
  let as := (fanDests f).filterMap (fanAnswer x l f)
  let g (f : GwFan) : GwFan := { f with sentGrant := true, answers := as }
  let u := s.onFan p l m src g
  let w := u.waitFan p l m 5 src
  let v := w.send src p 6 (trig p l m 2) (bodyGwGrant w.member src l m x.stepNo as) (w.backTo src)
  have hlen : as.length = (fanDests f).length := by
    have h : ∀ ds : List Nat, (∀ d ∈ ds, (fanAnswer x l f d).isSome = true) → (ds.filterMap (fanAnswer x l f)).length = ds.length := by
      intro ds
      induction ds with
      | nil => exact fun _ => rfl
      | cons d ds ih =>
        intro h
        obtain ⟨a, ha⟩ := Option.isSome_iff_exists.mp (h d List.mem_cons_self)
        rw [List.filterMap_cons_some ha, List.length_cons, ih fun d hd => h d (List.mem_cons_of_mem _ hd), List.length_cons]
    exact h _ hall
  have e : exec (.gwCollect p l m src) s = .next v := by
    change execGwCollect p l m src s = _
    rw [execGwCollect, hx, hq]
    dsimp only
    rw [hf]
    dsimp only
    rw [if_neg (by simp [hel, hdead, hsent, hne, List.isEmpty_iff, show ((fanDests f).filterMap (fanAnswer x l f)).length = _ from hlen])]
  obtain ⟨r, k, hr, hk⟩ := State.pass_micro (m := m)
    (f := fun y => { y with fans := y.fans.map (fun h => if h.src = src then g h else h) }) (fun _ => rfl) hq
  refine answers_of_exec e ⟨⟨r, g f, ?_, ?_, rfl⟩, mem_of_exec (by simp [State.allows, offMem]) e⟩
  · exact (State.pass_congr (State.send_parts ..) p l).trans ((u.waitOn_pass ..).trans hr)
  · have hcomp : ((fun f : GwFan => f.src == src) ∘ fun h => if h.src = src then g h else h) = fun f => f.src == src := by
      funext h
      by_cases he : h.src = src <;> simp [he, g]
    rw [hk, fanOf, List.find?_map, hcomp, show (microOf q m).fans.find? (fun f => f.src == src) = some f from hf, Option.map_some,
      if_pos (by simpa using List.find?_some hf)]

/-- Settles O51: what each grant does to the tickets that wait for it. -/
theorem grantsComplete : Obligations.GrantsComplete :=
  ⟨fun _ _ _ _ _ _ _ _ hx hq hm hin hlast hsrc hall => tallyIn_of_heard hx hq hm hin hlast hsrc hall,
    fun _ _ _ _ hd hlen h7 h24 hsrc ht hm hsort ho hn => grant_of_pending hd hlen h7 h24 hsrc ht hm hsort ho hn,
    fun _ _ _ _ hd hlen h7 h18 hflag hsrc ht hm hsort ho hes =>
      gwGrant_of_pending hd hlen h7 h18 hflag hsrc ht hm hsort ho hes,
    fun _ _ _ _ _ _ _ _ _ _ hx hq hf _ hel hdead hsent hne hall => gwCollect_of_answers hx hq hf hel hdead hsent hne hall⟩

end Sys2Proof.Machine
end

section
/-! SUPPORT. PILE, GW_PILE, the input runs and PILE_IN (R276, R278, R281, R284, R289, R330; O52). -/

-- One declaration after another: the check bounds the memory, and with it the threads.
set_option Elab.async false

namespace Sys2Proof.Machine

/-! ### Rows found by their key -/

theorem find_map_key {α : Type} {key : α → Nat} {f : α → α} (hf : ∀ a, key (f a) = key a) (k : Nat) (as : List α) :
    (as.map (fun a => if key a = k then f a else a)).find? (fun a => key a == k) = (as.find? (fun a => key a == k)).map f := by
  induction as with
  | nil => rfl
  | cons a as ih =>
    by_cases h : key a = k
    · simp [h, hf]
    · rw [List.map_cons, if_neg h, List.find?_cons_of_neg (by simpa using h), ih, List.find?_cons_of_neg (by simpa using h)]

theorem State.onRx_pass {s : State} {p l m src : Nat} {q : Pass} {f : RxTally → RxTally} (hf : ∀ t, (f t).src = t.src)
    (h : s.pass p l = some q) : ∃ r, (s.onRx p l m src f).pass p l = some r
      ∧ rxOf (microOf r m) src = (rxOf (microOf q m) src).map f ∧ (microOf r m).piles = (microOf q m).piles := by
  obtain ⟨r, k, hr, hk⟩ := State.pass_micro (m := m)
    (f := fun y => { y with tallies := y.tallies.map (fun t => if t.src = src then f t else t) }) (fun _ => rfl) h
  refine ⟨r, hr, ?_, by rw [hk]⟩
  rw [hk]
  exact find_map_key hf src _

theorem State.onFan_pass {s : State} {p l m src : Nat} {q : Pass} {f : GwFan → GwFan} (hf : ∀ g, (f g).src = g.src)
    (h : s.pass p l = some q) : ∃ r, (s.onFan p l m src f).pass p l = some r
      ∧ fanOf (microOf r m) src = (fanOf (microOf q m) src).map f := by
  obtain ⟨r, k, hr, hk⟩ := State.pass_micro (m := m)
    (f := fun y => { y with fans := y.fans.map (fun g => if g.src = src then f g else g) }) (fun _ => rfl) h
  refine ⟨r, hr, ?_⟩
  rw [hk]
  exact find_map_key hf src _

/-! ### PILE -/

/-- A pile that is taken has arrived with its rows (R276). -/
theorem State.takePile_pass {s : State} {p l m src via : Nat} {q : Pass} {e : RxTally} (mx : Bool) (ws : List WireRow)
    (cells : List Nat) (h : s.pass p l = some q) (he : rxOf (microOf q m) src = some e) :
    ∃ r, (s.takePile p l m src via mx ws cells).pass p l = some r
      ∧ (rxOf (microOf r m) src).map (·.state) = some 1
      ∧ (ws ≠ [] → { src := src, via := via, mx := mx, rows := ws, cells := cells } ∈ (microOf r m).piles) := by
  obtain ⟨r, hr, hrx, -⟩ := State.onRx_pass (m := m) (src := src) (f := fun t => { t with state := 1 }) (fun _ => rfl) h
  rw [he] at hrx
  unfold State.takePile
  extract_lets u
  by_cases hw : ws = []
  · rw [if_pos (by simp [hw])]
    exact ⟨r, hr, by rw [hrx]; rfl, fun hn => absurd hw hn⟩
  · rw [if_neg (by simpa using hw)]
    obtain ⟨r', k, hr', hk⟩ := State.pass_micro (m := m) (f := fun y => { y with
      piles := y.piles ++ [{ src := src, via := via, mx := mx, rows := ws, cells := cells }] }) (fun _ => rfl) hr
    have hrx' : rxOf (microOf r' m) src = some { e with state := 1 } := by
      rw [hk]
      exact hrx
    exact ⟨r', hr', by rw [hrx']; rfl, fun _ => by rw [hk]; simp⟩

theorem pileCheck_sound {e : RxTally} {h : PileHdr} {ws : List WireRow} (htk : h.tickets ≤ e.tickets) (hrow : h.rows = h.tickets)
    (hasc : rowsAscend ws = true) (hexp : ∀ w ∈ ws, ∃ k ∈ e.entries, k.expert = w.expert) : pileCheck e h ws = 0 := by
  have hall : ws.all (fun w => e.entries.any (fun k => k.expert == w.expert)) = true := by
    simpa [List.all_eq_true] using hexp
  rw [pileCheck, if_neg (by omega), if_neg (by omega), hasc, hall]
  rfl

section
variable {s : State} {m : Msg} {x : StepSt} {q : Pass} {e : RxTally} (hd : due s m 2)
    (hm : meets s m.owner (parseHdr m.body).stepNo (parseHdr m.body).layer x q)
    (hrx : rxOf (microOf q (parseHdr m.body).micro) (parseHdr m.body).src = some e) (ht : x.tornBy = none) (he : e.state = 0)
    (hsp : s.maySpeak x q (s.xCfg m.owner (parseHdr m.body).layer) (parseHdr m.body).src (parseHdr m.body).micro = true)
    (hdst : (parseHdr m.body).dst = s.member)
    (hlay : pileLayout m.body false (s.xCfg m.owner (parseHdr m.body).layer).plen = true)
    (htk : (parseHdr m.body).tickets ≤ e.tickets) (hrow : (parseHdr m.body).rows = (parseHdr m.body).tickets)
    (hasc : rowsAscend (parsePile m.body (s.xCfg m.owner (parseHdr m.body).layer).plen) = true)
    (hexp : ∀ w ∈ parsePile m.body (s.xCfg m.owner (parseHdr m.body).layer).plen, ∃ k ∈ e.entries, k.expert = w.expert)
include hd hm hrx ht he hsp hdst hlay htk hrow hasc hexp

/-- A sound pile is taken where its rows can be placed, and stays where it is elsewhere (R276, R330). -/
theorem exec_pile_of_sound : exec (.pile m) s = .next (if canPlace (microOf q (parseHdr m.body).micro)
      (parsePile m.body (s.xCfg m.owner (parseHdr m.body).layer).plen) = true
    then (s.take m).takePile m.owner (parseHdr m.body).layer (parseHdr m.body).micro (parseHdr m.body).src m.src
      (bit (parseHdr m.body).flags 2) (parsePile m.body (s.xCfg m.owner (parseHdr m.body).layer).plen) []
    else s) := by
  obtain ⟨-, -, -, h4⟩ := id hd
  have hcheck := pileCheck_sound htk hrow hasc hexp
  change execPile m s = _
  rw [execPile]
  refine congrArg Host.Outcome.next ((State.receive_of_meets _ hd hm).trans ?_)
  dsimp only
  rw [hrx]
  dsimp only
  rw [if_neg (by simp [ht, he, hsp]), if_neg (by simp [he]), h4, hlay, hdst, hcheck]
  simp

end

/-! ### GW_PILE -/

/-- A view that sees of a micro-step neither its tallies nor its piles. -/
def BlindToPiles {α : Type} (w : Micro → α) : Prop := ∀ y ts ps, w { y with tallies := ts, piles := ps } = w y

theorem State.takePile_passAs {α : Type} {m : Nat} {w : Micro → α} (hw : BlindToPiles w) (s : State) (p l src via : Nat) (mx : Bool)
    (ws : List WireRow) (cells : List Nat) : s.PassAs (microView m w) p l (s.takePile p l m src via mx ws cells) := by
  unfold State.takePile
  extract_lets u
  have hu : s.PassAs (microView m w) p l u := .micro s (fun _ => rfl) fun y _ => hw { y with start := 0 } _ y.piles
  exact .ofIte (fun _ => hu) fun _ => hu.trans (.micro u (fun _ => rfl) fun y _ => hw { y with start := 0 } y.tallies _)

theorem State.releaseIds_passAs {α : Type} {v : Pass → α} {p l : Nat} (s : State) (ids : List Nat) :
    s.PassAs v p l (ids.foldl State.releaseId s) := .foldl (fun s id => .ofSame
  (State.releaseId_same (F := Machine.offParts) id (.refl s) trivial trivial trivial trivial trivial)) ids s

theorem State.sendWith_passAs {α : Type} {v : Pass → α} {p l : Nat} (s : State) (cs : List Nat) (dst owner typ trigger : Nat)
    (body : Bytes) (back : Bool) : s.PassAs v p l (s.sendWith cs dst owner typ trigger body back) :=
  .ofSame (State.sendWith_same (F := Machine.offParts) cs _ _ _ _ _ _ (.refl s) trivial trivial trivial trivial)

/-- A gateway pile that is fanned out holds its transit rows no longer (R278). -/
theorem State.fanPiles_pass {s : State} {p l m : Nat} {q : Pass} {f : GwFan} (x : StepSt) (mx : Bool) (rs : List GwRow)
    (h : s.pass p l = some q) (hf : fanOf (microOf q m) f.src = some f) : ∃ r, (s.fanPiles p l m x f mx rs).pass p l = some r
      ∧ (fanOf (microOf r m) f.src).map (fun k => (k.piled, k.cells)) = some (true, []) := by
  unfold State.fanPiles
  extract_lets me voided s₁ own s₂ owed s₃
  have h₁ : s.PassAs (microView m Micro.fans) p l s₁ := .foldl (fun u d => .ofIte (fun _ => u.releaseIds_passAs _) fun _ =>
    u.sendWith_passAs ..) _ s
  have h₂ : s₁.PassAs (microView m Micro.fans) p l s₂ := by
    unfold s₂
    split
    · exact .ofIte (fun _ => s₁.takePile_passAs (fun _ _ _ => rfl) ..) fun _ => s₁.releaseIds_passAs _
    · exact s₁.releaseIds_passAs _
  obtain ⟨r, hr, hfans⟩ := (h₁.trans h₂).get h
  obtain ⟨r', hr', hf'⟩ := State.onFan_pass (m := m) (src := f.src)
    (f := fun g => { g with piled := true, cells := [], owed := owed }) (fun _ => rfl) hr
  have hfr : fanOf (microOf r m) f.src = some f := by
    rw [fanOf, show (microOf r m).fans = (microOf q m).fans from hfans]
    exact hf
  rw [hfr] at hf'
  refine ⟨r', ?_, by rw [hf']; rfl⟩
  split
  · exact hr'
  · exact (s₃.waitOn_pass ..).trans hr'

theorem State.claim_inbox (s : State) (m : Msg) : (s.claim m).2.link.inbox = s.link.inbox := by
  unfold State.claim
  split <;> rfl

theorem State.transitRows_link (s : State) (p l m src len : Nat) (rs : List GwRow) :
    (s.transitRows p l m src len rs).link = s.link :=
  (State.transitRows_same (F := (· ≠ .link)) p l m src len rs (.refl s) nofun nofun nofun nofun nofun nofun).link (by simp)

section
variable {s : State} {m : Msg} {x : StepSt} {q : Pass} {f : GwFan} {rs : List GwRow} (hd : due s m 5)
    (hm : meets s m.owner (parseHdr m.body).stepNo (parseHdr m.body).layer x q)
    (hf : fanOf (microOf q (parseHdr m.body).micro) (parseHdr m.body).src = some f) (hdead : f.dead = false)
    (hpiled : f.piled = false) (haset : (parseHdr m.body).src ∈ x.aset.getD [])
    (hgone : goneFrom x (parseHdr m.body).src (parseHdr m.body).layer false = false)
    (hdst : (parseHdr m.body).dst = s.member)
    (hrs : parseGwPile m.body (s.xCfg m.owner (parseHdr m.body).layer).plen = some rs)
    (hcon : gwContent rs (fun e d => decide (d / 32 = s.pod)
      && (replicasOf (s.xCfg m.owner (parseHdr m.body).layer).mp e).contains d
      && decide (e < (s.xCfg m.owner (parseHdr m.body).layer).experts)) = true)
include hd hm hf hdead hpiled haset hgone hdst hrs hcon

/-- The state once a gateway pile has taken what transit buffers it gets (R278). -/
def State.gwPileRows (s : State) (m : Msg) (f : GwFan) (rs : List GwRow) : State :=
  let h := parseHdr m.body
  let came := (s.claim m).1
  ((s.claim m).2.onFan m.owner h.layer h.micro h.src (fun f => { f with cells := f.cells ++ came })).transitRows m.owner
    h.layer h.micro h.src (s.xCfg m.owner h.layer).plen (rs.drop (f.cells ++ came).length)

theorem exec_gwPile_of_sound {g : GwFan} (hg : ((s.gwPileRows m f rs).pass m.owner (parseHdr m.body).layer).bind
      (fun r => fanOf (microOf r (parseHdr m.body).micro) (parseHdr m.body).src) = some g) :
    exec (.gwPile m) s = .next (if g.cells.length < rs.length then s.gwPileRows m f rs
      else ((s.gwPileRows m f rs).take m).fanPiles m.owner (parseHdr m.body).layer (parseHdr m.body).micro x g
        (bit (parseHdr m.body).flags 2) rs) := by
  obtain ⟨-, -, -, h4⟩ := id hd
  change execGwPile m s = _
  rw [execGwPile]
  refine congrArg Host.Outcome.next ((State.receive_of_meets _ hd hm).trans ?_)
  dsimp only
  rw [hf]
  dsimp only
  rw [if_neg (by simp [hdead, haset, hgone]), if_neg (by simp [hpiled]), hrs, h4, hdst]
  dsimp only [Option.getD_some, Option.isSome_some]
  refine (if_neg (by simp only [hcon, beq_self_eq_true, Bool.and_true, Bool.not_true, Bool.false_eq_true, if_false, ne_eq,
    not_true_eq_false, not_false_eq_true])).trans ?_
  change (match ((s.gwPileRows m f rs).pass m.owner (parseHdr m.body).layer).bind
      (fun r => fanOf (microOf r (parseHdr m.body).micro) (parseHdr m.body).src) with
    | some g => if g.cells.length < rs.length then s.gwPileRows m f rs
      else ((s.gwPileRows m f rs).take m).fanPiles m.owner (parseHdr m.body).layer (parseHdr m.body).micro x g
        (bit (parseHdr m.body).flags 2) rs
    | none => s.gwPileRows m f rs) = _
  rw [hg]

end

/-! ### The input runs -/

/-- A change of another pass, or one that the view does not see. -/
theorem State.PassAs.onPassAt {α : Type} {v : Pass → α} {p l : Nat} (s : State) (k j : Nat) {f : Pass → Pass}
    (hf : ∀ q, (f q).layer = q.layer) (hv : ∀ q, v (f q) = v q) : s.PassAs v p l (s.onPass k j f) := by
  by_cases hkj : k = p ∧ j = l
  · obtain ⟨rfl, rfl⟩ := hkj
    exact .onPass s hf hv
  refine .ofPass ?_
  by_cases hk : k = p
  · subst hk
    have hj : l ≠ j := fun h => hkj ⟨rfl, h.symm⟩
    rw [State.pass, State.pass]
    by_cases hlt : k < s.parts.length
    · rw [State.onPass, State.step_onStep _ _ _ hlt]
      cases hx : (s.part k).step with
      | none => rfl
      | some x =>
        refine (find_layer_map hf l x.passes).trans ?_
        change _ = x.passes.find? (fun q => q.layer = l)
        cases hq : x.passes.find? (fun q => q.layer = l) with
        | none => rfl
        | some q =>
          have hl : q.layer = l := by simpa using List.find?_some hq
          rw [Option.map_some, if_neg (by rw [hl]; exact hj)]
    · rw [State.onPass, State.onStep, State.part, State.onPart, getD_setAt, if_neg fun h => hlt h.2]
      rfl
  · rw [State.pass, State.onPass, State.onStep, State.part_onPart_ne _ _ (Ne.symm hk), State.pass]

theorem microOf_map {f : Micro → Micro} (hf : ∀ y, (f y).m = y.m) (q : Pass) (m : Nat) :
    microOf { q with micros := q.micros.map f } m = ((q.micros.find? (fun y => y.m = m)).map f).getD (freshMicro m 0) := by
  rw [microOf, List.find?_map]
  congr 3
  funext y
  simp [hf]

/-- Views of a micro-step that a change of all of them does not see. -/
theorem microView_map {α : Type} {w : Micro → α} {f : Micro → Micro} (m : Nat) (hf : ∀ y, (f y).m = y.m)
    (hw : ∀ y, w { f y with start := 0 } = w { y with start := 0 }) (q : Pass) :
    microView m w { q with micros := q.micros.map f } = microView m w q := by
  rw [microView, microOf_map hf, microView, microOf]
  cases q.micros.find? (fun y => y.m = m) with
  | none => rfl
  | some y => exact hw y

section
variable {α : Type} {m : Nat} {w : Micro → α}

/-- A view that sees of a micro-step no tally. -/
def BlindToTallies (w : Micro → α) : Prop := ∀ y ts, w { y with tallies := ts } = w y

theorem State.noteList_passAs (hw : BlindToTallies w) {p l : Nat} (s : State) (h : SlotHold) :
    s.PassAs (microView m w) p l (s.noteList h) := by
  unfold State.noteList
  extract_lets b
  split
  · exact .refl s
  · split
    · exact .refl s
    · refine .onPassAt s _ _ (fun _ => rfl) fun q => microView_map m (fun y => ?_) (fun y => ?_) q
      · split <;> rfl
      · split
        · exact hw { y with start := 0 } _
        · rfl

/-- What came of a pile's lists is noted; nothing else of a micro-step changes as slots are given back. -/
theorem State.handOver_passAs (hw : BlindToTallies w) {p l : Nat} (s : State) : s.PassAs (microView m w) p l s.handOver := by
  unfold State.handOver
  extract_lets u
  have hu : s.PassAs (microView m w) p l u := .foldl (fun s h => s.noteList_passAs hw h) _ s
  refine hu.trans (.foldl (fun s h => .ofSame ?_) _ u)
  exact State.handOne_same (F := Machine.offParts) h (.refl s) trivial trivial trivial trivial trivial trivial trivial

end

/-- The reservation becomes the run of a table entry (R281). -/
theorem State.takeRuns_one {s : State} {p l m a b n : Nat} {c : XCfg} {q : Pass} (h : s.pass p l = some q)
    (hr : (s.runFromReserved c.owner (n * c.cells) (some (p, l))).isSome = true) :
    ∃ r i, (s.takeRuns p l m c [(a, b, n)]).pass p l = some r ∧ (microOf r m).runs = (microOf q m).runs ++ [(a, b, n, i)]
      ∧ (microOf r m).resv = (microOf q m).resv - n * c.cells ∧ (microOf r m).piles = (microOf q m).piles := by
  obtain ⟨⟨i, u⟩, hu⟩ := Option.isSome_iff_exists.mp hr
  rw [State.takeRuns, hu]
  have hup : u.pass p l = some q := by
    rw [State.pass_congr (State.runFromReserved_same (F := Machine.offParts) hu (.refl s) trivial trivial trivial trivial).offParts]
    exact h
  obtain ⟨r, k, hr, hk⟩ := State.pass_micro (m := m)
    (f := fun y => { y with runs := y.runs ++ [(a, b, n, i)], resv := y.resv - n * c.cells }) (fun _ => rfl) hup
  exact ⟨r, i, hr, by rw [hk], by rw [hk], by rw [hk]⟩

theorem runOf_nil {y : Micro} (h : y.runs = []) (a b n : Nat) : runOf y a b n = none := by
  simp [runOf, h]

/-- The runs of a micro-step and what they are taken for. -/
def runsView (y : Micro) : List (Nat × Nat × Nat × Nat) × Bool × Nat × List RxPile := (y.runs, y.ranAll, y.resv, y.piles)

/-- The input run of a table's one entry (R281, R284). -/
theorem inputRunAlloc_one {s : State} {p l m a b n : Nat} {x : StepSt} {q : Pass} (hx : s.xLive p l = some (x, q))
    (hq : s.pass p l = some q) (hruns : (microOf q m).runs = []) (hsize : s.runSizes p l x q (microOf q m) = some [(a, b, n)])
    (hres : (s.runFromReserved (s.xCfg p l).owner (n * (s.xCfg p l).cells) (some (p, l))).isSome = true) :
    answers (.inputRunAlloc p l m) s (fun t => (∃ r i, t.pass p l = some r ∧ (microOf r m).runs = [(a, b, n, i)]
        ∧ (microOf r m).ranAll = true ∧ (microOf r m).piles = (microOf q m).piles
        ∧ (microOf r m).resv = (microOf q m).resv - n * (s.xCfg p l).cells)
      ∧ poolOnly s t) := by
  let u := s.takeRuns p l m (s.xCfg p l) [(a, b, n)]
  let v := u.noteRuns p l m 1
  have e : exec (.inputRunAlloc p l m) s = .next v.handOver := by
    change execInputRunAlloc p l m s = _
    rw [execInputRunAlloc, hx]
    dsimp only
    rw [hsize]
    simp [runOf_nil hruns, v, u, List.range_succ]
  obtain ⟨r, i, hr, hrr, hrv, hrp⟩ := State.takeRuns_one (m := m) (a := a) (b := b) hq hres
  obtain ⟨r', k, hr', hk⟩ := State.pass_micro (m := m) (f := fun y => { y with ranAll := decide (1 ≤ y.runs.length) })
    (fun _ => rfl) hr
  obtain ⟨r'', hr'', hw⟩ := (State.handOver_passAs (m := m) (w := runsView) (fun _ _ => rfl) v).get hr'
  have hw : runsView (microOf r'' m) = runsView (microOf r' m) := hw
  rw [hk, runsView, runsView, hrr, hrv, hrp, hruns] at hw
  simp only [List.nil_append, List.length_singleton, Nat.le_refl, decide_true, Prod.mk.injEq] at hw
  obtain ⟨h1, h2, h3, h4⟩ := hw
  exact answers_of_exec e ⟨⟨r'', i, hr'', h1, h2, h4, h3⟩, poolOnly_of_exec (by simp [State.allows, poolTouch]) e⟩

/-! ### PILE_IN -/

theorem State.allocRuns_passAs {α : Type} {v : Pass → α} {p l : Nat} (s : State) (o : Nat) (pass : Option (Nat × Nat))
    (ns : List Nat) : s.PassAs v p l (s.allocRuns o pass ns).2 :=
  .ofSame (State.allocRuns_same (F := Machine.offParts) o pass ns (.refl s) trivial trivial trivial trivial trivial)

theorem State.unreserveFor_passAs {α : Type} {m : Nat} {w : Micro → α} (hw : BlindToGrants w) (s : State) (p l o n : Nat) :
    s.PassAs (microView m w) p l (s.unreserveFor p l m o n) := by
  unfold State.unreserveFor
  split
  · exact .refl s
  · extract_lets k
    refine .ofIte (fun _ => .refl s) fun _ => ?_
    refine .trans (t := s.unreserve o k) (.ofParts rfl) (.micro _ (fun _ => rfl) fun y _ => ?_)
    exact hw { y with start := 0 } y.tallies y.piles y.fans y.counts y.vary y.events _

theorem State.freeChains_passAs {α : Type} {v : Pass → α} {p l : Nat} (s : State) (ids : List Nat) :
    s.PassAs v p l (ids.foldl State.freeChain s) := .foldl (fun s id => .ofSame
  (State.freeChain_same (F := Machine.offParts) id (.refl s) trivial)) ids s

/-- The piles of a micro-step are placed: it is over for them (R281). -/
theorem State.placed_pass {s : State} {p l m : Nat} {q : Pass} (used : List Nat) (h : s.pass p l = some q) :
    ∃ r, (s.placed p l m used).pass p l = some r ∧ (microOf r m).pileIn = true := by
  unfold State.placed
  split
  · next hn => exact absurd (h.symm.trans hn) nofun
  next q' hq =>
  obtain rfl : q = q' := Option.some.inj (h.symm.trans hq)
  extract_lets y u v
  have hv : s.PassAs (microView m fun _ => ()) p l (v.unreserveFor p l m (v.xCfg p l).owner y.resv) :=
    (s.releaseIds_passAs _).trans ((u.freeChains_passAs _).trans (v.unreserveFor_passAs (fun _ _ _ _ _ _ _ _ => rfl) ..))
  obtain ⟨r, hr, -⟩ := hv.get h
  obtain ⟨r', k, hr', hk⟩ := State.pass_micro (m := m)
    (f := fun y => { y with pileIn := true, piles := y.piles.map (fun r => { r with cells := [] }) }) (fun _ => rfl) hr
  exact ⟨r', hr', by rw [hk]⟩

theorem State.placed_tabs (s : State) (p l m : Nat) (used : List Nat) : (s.placed p l m used).tabs = s.tabs :=
  (State.placed_same (F := (· ≠ .tabs)) p l m used (.refl s) nofun nofun nofun nofun nofun nofun).tabs (by simp)

theorem State.placed_nextTag (s : State) (p l m : Nat) (used : List Nat) : (s.placed p l m used).nextTag = s.nextTag :=
  (State.placed_same (F := (· ≠ .nextTag)) p l m used (.refl s) nofun nofun nofun nofun nofun nofun).nextTag (by simp)

/-- Piles that hold no transit row change no memory as they are placed. -/
theorem State.placed_mem {s : State} {p l m : Nat} {q : Pass} (used : List Nat) (h : s.pass p l = some q)
    (hc : ∀ r ∈ (microOf q m).piles, r.cells = []) : (s.placed p l m used).mem = s.mem := by
  unfold State.placed
  split
  · rfl
  next q' hq =>
  obtain rfl : q = q' := Option.some.inj (h.symm.trans hq)
  extract_lets y u v
  have hu : u = s := by
    unfold u
    rw [List.flatMap_eq_nil_iff.mpr hc]
    rfl
  have hv : v.mem = u.mem := foldl_view (·.mem) _ (fun s id =>
    (State.freeChain_same (F := fun f => f ≠ .mem ∧ f ≠ .pool) id (.refl s) (by simp)).mem (by simp) (by simp)) _ u
  change (v.unreserveFor p l m (v.xCfg p l).owner y.resv).mem = s.mem
  rw [(State.unreserveFor_same (F := fun f => f ≠ .mem ∧ f ≠ .pool) p l m _ _ (.refl v) (by simp) (by simp)).mem (by simp) (by simp),
    hv, hu]

/-- A table of its own for what is written, under the next tag (R281, R284). -/
theorem State.writeTable_tabs (s : State) (p l m : Nat) (x : StepSt) (shared : Bool) (tab : Nat)
    (ents : List (Nat × Nat × Nat × Nat × Nat × Nat)) (datas : List (List Bytes)) (ids : List (Nat × Nat × Nat × Nat)) :
    ∃ t, (s.writeTable p l m x shared tab ents datas ids).tabs = s.tabs ++ [t] ∧ t.tag = s.nextTag ∧ t.part = p ∧ t.layer = l
      ∧ t.micro = m ∧ t.shared = shared ∧ t.rowIds = ids ∧ t.notified = false
      ∧ (s.writeTable p l m x shared tab ents datas ids).nextTag = tagAfter s.nextTag := by
  unfold State.writeTable
  extract_lets c tag inS outS addr rows inAt outAt body t s₁ s₂ s₃
  have h₂ : (s₂.tabs, s₂.nextTag) = (s₁.tabs, s₁.nextTag) := foldl_view (fun s => (s.tabs, s.nextTag)) _ (fun s e =>
    foldl_view (fun s => (s.tabs, s.nextTag)) _ (fun s i => by rw [State.wr_tabs, State.wr_nextTag]) _ s) _ s₁
  have h₃ : (s₃.tabs, s₃.nextTag) = (s₁.tabs, s₁.nextTag) := by rw [← h₂, State.wr_tabs, State.wr_nextTag]
  have ht : s₁.tabs = s.tabs ++ [t] := rfl
  have hn : s₁.nextTag = tagAfter s.nextTag := rfl
  clear_value s₃ s₂ s₁
  obtain ⟨ht', hn'⟩ := Prod.mk.inj h₃
  exact ⟨t, ht'.trans ht, rfl, rfl, rfl, rfl, rfl, rfl, rfl, hn'.trans hn⟩

/-- The runs of a table that were granted stay with the micro-step (R284). -/
theorem State.tabRuns_pass {s : State} {p l m : Nat} {q : Pass} (hq : s.pass p l = some q) (o : Nat) (ns : List Nat) : ∃ r, (((s.allocRuns o (some (p, l)) ns).2).onMicro p l m
      (fun z => { z with tabRuns := (microOf q m).tabRuns ++ (s.allocRuns o (some (p, l)) ns).1 })).pass p l = some r
    ∧ (microOf r m).pileIn = (microOf q m).pileIn
    ∧ (microOf r m).tabRuns = (microOf q m).tabRuns ++ (s.allocRuns o (some (p, l)) ns).1 := by
  obtain ⟨r, hr, e⟩ := (s.allocRuns_passAs (v := id) (p := p) (l := l) o (some (p, l)) ns).get hq
  obtain rfl : r = q := e
  obtain ⟨r', k, hr', hk⟩ := State.pass_micro (m := m) (f := fun z => { z with
    tabRuns := (microOf r m).tabRuns ++ (s.allocRuns o (some (p, l)) ns).1 }) (fun _ => rfl) hr
  exact ⟨r', hr', by rw [hk], by rw [hk]⟩

theorem State.allocRuns_tabs (s : State) (o : Nat) (pass : Option (Nat × Nat)) (ns : List Nat) :
    (s.allocRuns o pass ns).2.tabs = s.tabs ∧ (s.allocRuns o pass ns).2.nextTag = s.nextTag :=
  ⟨(State.allocRuns_same (F := (· ≠ .tabs)) o pass ns (.refl s) nofun nofun nofun nofun nofun).tabs (by simp),
    (State.allocRuns_same (F := (· ≠ .nextTag)) o pass ns (.refl s) nofun nofun nofun nofun nofun).nextTag (by simp)⟩

/-- What PILE_IN asks of a micro-step: the entries of its table, and the input run of each that has rows (R281, R289). -/
def State.entryKeys (s : State) (p l : Nat) (y : Micro) : List (Nat × Nat) :=
  (filled (s.entriesOf p l y)).map (fun e => (e.1, e.2.1))

/-- The cells that the table of a micro-step and its output runs take (R284). -/
def State.tableSizes (s : State) (p l : Nat) (y : Micro) : List Nat :=
  tableCells (s.entriesOf p l y).length :: (filled (s.entriesOf p l y)).map (fun e => e.2.2.length * outCells (s.xCfg p l).k)

section
variable {s : State} {p l m : Nat} {x : StepSt} {q : Pass} (hx : s.xLive p l = some (x, q)) (hq : s.pass p l = some q)
    (hin : pilesIn x q (microOf q m) s.member = true)
include hx hq hin

/-- A micro-step to which no row came has no table (R281). -/
theorem pileIn_of_nothing (hes : s.entriesOf p l (microOf q m) = []) : answers (.pileIn p l m) s (fun t =>
    (∃ r, t.pass p l = some r ∧ (microOf r m).pileIn = true ∧ (microOf r m).destDone = true) ∧ t.tabs = s.tabs
      ∧ ((∀ r ∈ (microOf q m).piles, r.cells = []) → t.mem = s.mem)) := by
  have e : exec (.pileIn p l m) s = .next ((s.placed p l m []).onMicro p l m (fun y => { y with destDone := true })) := by
    change execPileIn p l m s = _
    rw [execPileIn, hx]
    dsimp only
    rw [hes, hin]
    rfl
  obtain ⟨r, hr, hrp⟩ := State.placed_pass (m := m) [] hq
  obtain ⟨r', k, hr', hk⟩ := State.pass_micro (m := m) (f := fun y => { y with destDone := true }) (fun _ => rfl) hr
  exact answers_of_exec e ⟨⟨r', hr', by rw [hk]; exact hrp, by rw [hk]⟩, s.placed_tabs p l m [], fun hc => State.placed_mem [] hq hc⟩

section
variable (hes : s.entriesOf p l (microOf q m) ≠ [])
    (hruns : ∀ i, i < (s.entryKeys p l (microOf q m)).length → (runOf (microOf q m) ((s.entryKeys p l (microOf q m)).getD i (0, 0)).1
      ((s.entryKeys p l (microOf q m)).getD i (0, 0)).2 (chunkNo (s.entryKeys p l (microOf q m)) i)).isSome = true)
include hes hruns

omit hq in
/-- Where every input run exists, the table and the output runs are taken, and the table is written once all are here. -/
theorem exec_pileIn_of_runs : ∃ taints ents datas ids used,
    let y := microOf q m
    let a := s.allocRuns (s.xCfg p l).owner (some (p, l)) ((s.tableSizes p l y).drop y.tabRuns.length)
    let u := a.2.onMicro p l m (fun z => { z with tabRuns := y.tabRuns ++ a.1 })
    exec (.pileIn p l m) s = .next (if (y.tabRuns ++ a.1).length < (s.tableSizes p l y).length then u
      else ((((u.taintRuns y taints).writeTable p l m x false ((y.tabRuns ++ a.1).headD 0) ents datas ids).placed p l m used).onMicro
        p l m (fun z => { z with tableTag := some u.nextTag }))) := by
  have hall : ((List.range (s.entryKeys p l (microOf q m)).length).map (fun i => runOf (microOf q m)
      ((s.entryKeys p l (microOf q m)).getD i (0, 0)).1 ((s.entryKeys p l (microOf q m)).getD i (0, 0)).2
      (chunkNo (s.entryKeys p l (microOf q m)) i))).all (·.isSome) = true := by
    simpa [List.all_eq_true] using hruns
  iterate 5 apply Exists.intro
  change execPileIn p l m s = _
  rw [execPileIn, hx]
  dsimp only
  rw [if_neg (by
    rw [State.entryKeys] at hall
    rw [hin, hall]
    decide), if_neg (by simpa using hes)]
  exact (apply_ite Host.Outcome.next _ _ _).symm

/-- PILE_IN writes the table once the table and its output runs are granted (R281, R284). -/
theorem pileIn_of_all (hgot : (microOf q m).tabRuns.length + (s.allocRuns (s.xCfg p l).owner (some (p, l))
      ((s.tableSizes p l (microOf q m)).drop (microOf q m).tabRuns.length)).1.length = (s.tableSizes p l (microOf q m)).length) :
    answers (.pileIn p l m) s (fun t =>
      (∃ r, t.pass p l = some r ∧ (microOf r m).pileIn = true ∧ (microOf r m).tableTag = some s.nextTag)
        ∧ (∃ w ∈ t.tabs, w.tag = s.nextTag ∧ w.part = p ∧ w.layer = l ∧ w.micro = m ∧ w.notified = false)
        ∧ t.nextTag = tagAfter s.nextTag) := by
  obtain ⟨taints, ents, datas, ids, used, e⟩ := exec_pileIn_of_runs hx hin hes hruns
  dsimp only at e
  rw [if_neg (by rw [List.length_append]; omega)] at e
  obtain ⟨r, hr, -, -⟩ := State.tabRuns_pass (m := m) hq (s.xCfg p l).owner
    ((s.tableSizes p l (microOf q m)).drop (microOf q m).tabRuns.length)
  obtain ⟨htabs, htag⟩ := s.allocRuns_tabs (s.xCfg p l).owner (some (p, l))
    ((s.tableSizes p l (microOf q m)).drop (microOf q m).tabRuns.length)
  generalize s.allocRuns (s.xCfg p l).owner (some (p, l)) ((s.tableSizes p l (microOf q m)).drop (microOf q m).tabRuns.length)
    = a at *
  let u := a.2.onMicro p l m (fun z => { z with tabRuns := (microOf q m).tabRuns ++ a.1 })
  let v := u.taintRuns (microOf q m) taints
  let w := v.writeTable p l m x false (((microOf q m).tabRuns ++ a.1).headD 0) ents datas ids
  have hut : u.nextTag = s.nextTag := htag
  have hvt : v.nextTag = s.nextTag := by
    rw [(State.taintRuns_same (F := (· ≠ .nextTag)) (microOf q m) taints (.refl u) nofun nofun nofun nofun).nextTag (by simp), hut]
  obtain ⟨t, ht, h1, h2, h3, h4, -, -, h5, h6⟩ := v.writeTable_tabs p l m x false (((microOf q m).tabRuns ++ a.1).headD 0) ents datas ids
  have hw : u.PassAs id p l w := .trans (.ofSame (State.taintRuns_same (F := Machine.offParts) _ _ (.refl u) trivial trivial trivial
    trivial)) (.ofSame (State.writeTable_same (F := Machine.offParts) _ _ _ _ _ _ _ _ _ (.refl v) trivial trivial trivial trivial
    trivial trivial))
  obtain ⟨r₁, hr₁, -⟩ := hw.get hr
  obtain ⟨r₂, hr₂, hin₂⟩ := State.placed_pass (m := m) used hr₁
  obtain ⟨r₃, k, hr₃, hk⟩ := State.pass_micro (m := m) (f := fun z => { z with tableTag := some u.nextTag }) (fun _ => rfl) hr₂
  refine answers_of_exec e ⟨⟨r₃, hr₃, by rw [hk]; exact hin₂, by rw [hk]; exact congrArg some hut⟩, ⟨t, ?_, ?_, h2, h3, h4, h5⟩, ?_⟩
  · change t ∈ (w.placed p l m used).tabs
    rw [State.placed_tabs, ht]
    exact List.mem_append_right _ List.mem_cons_self
  · rw [h1, hvt]
  · change (w.placed p l m used).nextTag = _
    rw [State.placed_nextTag, h6, hvt]

/-- What is granted of a table and its output runs is kept while the rest is awaited (R284). -/
theorem pileIn_of_some (hnone : (microOf q m).pileIn = false) (hgot : (microOf q m).tabRuns.length + (s.allocRuns (s.xCfg p l).owner (some (p, l))
      ((s.tableSizes p l (microOf q m)).drop (microOf q m).tabRuns.length)).1.length < (s.tableSizes p l (microOf q m)).length) :
    answers (.pileIn p l m) s (fun t => (∃ r, t.pass p l = some r ∧ (microOf r m).pileIn = false
        ∧ (microOf r m).tabRuns = (microOf q m).tabRuns ++ (s.allocRuns (s.xCfg p l).owner (some (p, l))
          ((s.tableSizes p l (microOf q m)).drop (microOf q m).tabRuns.length)).1)
      ∧ t.tabs = s.tabs ∧ t.nextTag = s.nextTag) := by
  obtain ⟨taints, ents, datas, ids, used, e⟩ := exec_pileIn_of_runs hx hin hes hruns
  dsimp only at e
  rw [if_pos (by rw [List.length_append]; omega)] at e
  obtain ⟨r, hr, h1, h2⟩ := State.tabRuns_pass (m := m) hq (s.xCfg p l).owner
    ((s.tableSizes p l (microOf q m)).drop (microOf q m).tabRuns.length)
  obtain ⟨htabs, htag⟩ := s.allocRuns_tabs (s.xCfg p l).owner (some (p, l))
    ((s.tableSizes p l (microOf q m)).drop (microOf q m).tabRuns.length)
  exact answers_of_exec e ⟨⟨r, hr, h1.trans hnone, h2⟩, htabs, htag⟩

end
end

/-! ### The statements -/

/-- A sound pile whose rows can be placed has arrived with them (R276). -/
theorem pile_of_sound {s : State} {m : Msg} {q : Pass} {e : RxTally} {ws : List WireRow} {can : Bool}
    (hq : s.pass m.owner (parseHdr m.body).layer = some q)
    (he : rxOf (microOf q (parseHdr m.body).micro) (parseHdr m.body).src = some e)
    (hexec : exec (.pile m) s = .next (if can = true then (s.take m).takePile m.owner (parseHdr m.body).layer
      (parseHdr m.body).micro (parseHdr m.body).src m.src (bit (parseHdr m.body).flags 2) ws [] else s)) (hcan : can = true) :
    answers (.pile m) s (fun t => (∃ r, t.pass m.owner (parseHdr m.body).layer = some r
        ∧ (rxOf (microOf r (parseHdr m.body).micro) (parseHdr m.body).src).map (·.state) = some 1
        ∧ (ws ≠ [] → RxPile.mk (parseHdr m.body).src m.src (bit (parseHdr m.body).flags 2) ws []
          ∈ (microOf r (parseHdr m.body).micro).piles))
      ∧ t.link.inbox = s.link.inbox.erase m ∧ poolOnly s t ∧ refErrOnly s t) := by
  rw [if_pos hcan] at hexec
  have hq' : (s.take m).pass m.owner (parseHdr m.body).layer = some q := by
    rw [State.pass_congr ((s.take_touch m).parts fun _ => ⟨id, id⟩)]
    exact hq
  refine answers_of_exec hexec ⟨State.takePile_pass _ _ _ hq' he, ?_, poolOnly_of_exec (by simp [State.allows, poolTouch]) hexec,
    fun a ha => ?_⟩
  · rw [(State.takePile_rest _ _ _ _ _ _ _ _ (.refl (s.take m))).inbox, State.take_inbox]
  · rw [State.reg_congr ((State.takePile_same (F := (· ≠ .regs)) _ _ _ _ _ _ _ _ (.refl (s.take m)) nofun).regs (by simp)),
      State.take_reg m ha]

/-- Settles O52: where the rows of each pile go, and what its table takes. -/
theorem pilesComplete : Obligations.PilesComplete := by
  refine ⟨fun s m x q e hd => ?_, fun s m x q f rs hd => ?_, fun s p l m x q a b n _ _ hx hq hruns hsize hres =>
    inputRunAlloc_one hx hq hruns hsize hres, fun s p l m x q _ _ hx hq hin => ?_⟩
  · intro h c ws y hm hrx ht he hsp hdst hlay htk hrow hasc hexp
    have hexec := exec_pile_of_sound hd hm hrx ht he hsp hdst hlay htk hrow hasc hexp
    obtain ⟨-, -, -, hq, -, -⟩ := hm
    refine ⟨fun hcan => pile_of_sound hq hrx hexec ?_, fun hne hran => ?_⟩
    · rcases hcan with h | h
      · simp [canPlace, show parsePile m.body (s.xCfg m.owner (parseHdr m.body).layer).plen = [] from h]
      · simp [canPlace, show (microOf q (parseHdr m.body).micro).ranAll = true from h]
    · rw [if_neg (by simp [canPlace, show (microOf q (parseHdr m.body).micro).ranAll = false from hran,
        show parsePile m.body (s.xCfg m.owner (parseHdr m.body).layer).plen ≠ [] from hne])] at hexec
      exact answers_of_exec hexec rfl
  · intro h c hm hf hdead hpiled haset hgone hdst hrs hcon came v u g hg
    have hexec := exec_gwPile_of_sound hd hm hf hdead hpiled haset hgone hdst hrs hcon hg
    have hlink : u.link.inbox = s.link.inbox := by
      rw [State.transitRows_link]
      exact s.claim_inbox m
    refine ⟨fun hle => ?_, fun hlt => ?_⟩
    · rw [if_neg (by omega)] at hexec
      obtain ⟨r, hr, hgr⟩ := Option.bind_eq_some_iff.mp hg
      have hsrc : g.src = h.src := by simpa using List.find?_some hgr
      have hr' : (u.take m).pass m.owner h.layer = some r := by
        rw [State.pass_congr ((u.take_touch m).parts fun _ => ⟨id, id⟩)]
        exact hr
      obtain ⟨r', hr'', hfan⟩ := State.fanPiles_pass (m := h.micro) (f := g) x (bit h.flags 2) rs hr' (by rw [hsrc]; exact hgr)
      rw [hsrc] at hfan
      refine answers_of_exec hexec ⟨⟨r', hr'', hfan⟩, ?_, poolOnly_of_exec (by simp [State.allows, poolTouch]) hexec⟩
      rw [(State.fanPiles_rest _ _ _ _ _ _ _ (.refl ((s.gwPileRows m f rs).take m))).inbox, State.take_inbox]
      exact congrArg (List.erase · m) hlink
    · rw [if_pos hlt] at hexec
      exact answers_of_exec hexec ⟨rfl, hlink⟩
  · intro y es keys sizes runs
    refine ⟨fun hes => pileIn_of_nothing hx hq hin hes, fun hes hruns => ⟨fun hgot => pileIn_of_all hx hq hin hes hruns hgot,
      fun hgot => pileIn_of_some hx hq hin hes hruns ?_ hgot⟩⟩
    rw [pilesIn] at hin
    simp only [Bool.and_eq_true, Bool.not_eq_true'] at hin
    exact hin.1.1.2

end Sys2Proof.Machine
end

section
/-! SUPPORT. The completions of the expert engines: answered at once, applied at a boundary (R111, R286; O53). -/

-- One declaration after another: the check bounds the memory, and with it the threads.
set_option Elab.async false

namespace Sys2Proof.Machine

/-! ### What waits for a boundary -/

theorem State.driveRsps_cmpls (gen2 : Bool) (n : Nat) (s : State) : (s.driveRsps gen2 n).seam.cmpls = s.seam.cmpls := by
  induction n generalizing s with
  | zero => rfl
  | succ n ih =>
    rw [State.driveRsps]
    split
    · rfl
    · by_cases hc : (if gen2 then s.seam.crdIp2 else s.seam.crdIp) = 0
      · rw [if_pos hc]
      · rw [if_neg hc, ih]

theorem State.reply_cmpls (s : State) (r : SeamReq) (sts : Nat) : (s.reply r sts).seam.cmpls = s.seam.cmpls := by
  rw [State.reply, State.respond, State.respondTo]
  exact (State.driveRsps_cmpls ..).trans (State.driveRsps_cmpls ..)

theorem State.completeCmd_cmpls (s : State) (g status fault : Nat) : (s.completeCmd g status fault).seam.cmpls = s.seam.cmpls := by
  unfold State.completeCmd
  split
  · next c hc =>
    obtain ⟨r, m, o, n, ps, cs, -, e⟩ := State.complete_eq hc status fault 0 0 0xFFFFFFFF s.stitch.count [(fld c.desc 2 1, status)]
    rw [e]
    rfl
  · rfl

theorem State.endWritten_cmpls (s : State) (g status fault : Nat) (torn : Bool) :
    (s.endWritten g status fault torn).seam.cmpls = s.seam.cmpls := by
  unfold State.endWritten State.endWhen
  split
  · split
    · split <;> rfl
    · exact s.completeCmd_cmpls g status fault
  · rfl

theorem State.batchAborts_cmpls (s : State) : s.batchAborts.seam.cmpls = s.seam.cmpls := by
  unfold State.batchAborts
  generalize List.range 64 = gs
  refine foldl_view (fun s => s.seam.cmpls) _ (fun s g => ?_) gs s
  split
  · split
    · rw [State.endWritten_cmpls, State.bump_seam]
      rfl
    · rfl
  · rfl

/-- Everything but the attach port. -/
def offSeam : Touch → Prop
  | .seam => False
  | _ => True

theorem State.Same.offSeam {s t : State} (h : s.Same Machine.offSeam t) : t.seam = s.seam := h.seam id

theorem State.applyCompletions_cmpls (s : State) : s.applyCompletions.seam.cmpls = [] := by
  rw [State.applyCompletions]
  have h := foldl_view (fun s => s.seam) (fun (s : State) (c : Nat × Bytes) => s.applyCompletion c.1 c.2) (fun u c =>
    (State.applyCompletion_same (F := offSeam) c.1 c.2 (.refl u) trivial trivial trivial trivial trivial (fun _ => trivial) trivial
      trivial trivial).offSeam) s.seam.cmpls { s with seam := { s.seam with cmpls := [] } }
  exact congrArg SeamSt.cmpls h

theorem State.registerAll_cmpls (s : State) : s.registerAll.seam.cmpls = [] := by
  rw [State.registerAll, State.applyCompletions_cmpls]

/-- A boundary applies every completion that was accepted before it (R111). -/
theorem stitchBoundary_cmpls {s : State} (runs others : List Nat) (h1 : s.boot.rstLow = false) (h2 : 9 ≤ s.boot.state)
    (h3 : s.boot.state ≤ 11) : answers (.stitchBoundary runs others) s (fun t => t.seam.cmpls = []) := by
  obtain ⟨u, hu⟩ : ∃ u : State, exec (.stitchBoundary runs others) s = .next
      ((if u.registerAll.batchAborts.openAborted.markAcked.issueSlots.serveWaiting.startWakes.running then
        u.registerAll.batchAborts.openAborted.markAcked.issueSlots.serveWaiting.startWakes.govern runs others s.power.ops
      else u.registerAll.batchAborts.openAborted.markAcked.issueSlots.serveWaiting.startWakes).markStitch.countReach.showIdle.serveLost.handOver.pumpAll.idleMarks) := by
    refine ⟨_, (if_neg ?_ : execStitchBoundary runs others s = _)⟩
    simp [h1]
    omega
  have hv : u.registerAll.batchAborts.seam.cmpls = [] := by rw [State.batchAborts_cmpls, State.registerAll_cmpls]
  refine answers_of_exec hu ?_
  generalize u.registerAll.batchAborts = v at hv
  have h : v.Same offSeam v.openAborted.markAcked.issueSlots.serveWaiting.startWakes :=
    State.startWakes_same (State.serveWaiting_same (State.issueSlots_same (State.markAcked_same (State.openAborted_same (.refl v)
      fun _ => trivial) fun _ => trivial) trivial trivial) trivial trivial trivial trivial trivial trivial) trivial
      (fun _ => trivial) trivial
  have hg (w : State) (hw : v.Same offSeam w) : v.Same offSeam
      w.markStitch.countReach.showIdle.serveLost.handOver.pumpAll.idleMarks :=
    State.idleMarks_same (State.pumpAll_same (State.handOver_same (State.serveLost_same (State.showIdle_same (State.countReach_same
      (State.markStitch_same hw trivial trivial) trivial) trivial) trivial) trivial trivial trivial trivial trivial
      (fun _ => trivial) trivial trivial) trivial trivial trivial) trivial trivial trivial
  rw [(hg _ (.ofIte (fun _ => State.govern_same _ _ _ h trivial trivial) fun _ => h)).offSeam]
  exact hv

/-- A completion is answered at once; it waits for a boundary (R111, R286). -/
theorem engineCompletion_waits {s : State} {r : SeamReq} (hrun : s.running = true) : answers (.engineCompletion r) s (fun t =>
    t.seam.cmpls = s.seam.cmpls ++ [(r.slot, r.data)] ∧ t.tabs = s.tabs ∧ t.parts = s.parts ∧ t.regs = s.regs
      ∧ t.mem = (s.hostWrites r.host).mem ∧ replied s t r 0) := by
  let u : State := { s.hostWrites r.host with seam := { s.seam with cmpls := s.seam.cmpls ++ [(r.slot, r.data)] } }
  obtain ⟨hr, -⟩ := State.rstLow_of_running hrun
  have e : exec (.engineCompletion r) s = .next (u.reply r 0) := by
    change execEngineCompletion r s = _
    rw [execEngineCompletion, if_neg (ne_true_of_eq_false hr)]
    simp only [State.earlyGate_of_running hrun]
    rfl
  have h := State.reply_same (F := (· = .seam)) r 0 (.refl u) rfl
  exact answers_of_exec e ⟨State.reply_cmpls u r 0, h.tabs nofun, h.parts fun _ => ⟨nofun, nofun⟩, h.regs nofun, h.mem nofun nofun,
    State.replied_reply (s := u) (u := u) rfl⟩

/-! ### A completion takes effect -/

/-- One that matches no table is counted (R288). -/
theorem State.applyCompletion_of_none {s : State} (slot : Nat) (data : Bytes) (hs : s.sound)
    (h : ∀ w ∈ s.tabs, w.tag ≠ fld data 0 4) (hp : s.powered rENG_CMPL_IGN_CNT = true) :
    (s.applyCompletion slot data).tabs = s.tabs ∧ (s.applyCompletion slot data).parts = s.parts
      ∧ (s.applyCompletion slot data).reg rENG_CMPL_IGN_CNT = satAdd (s.reg rENG_CMPL_IGN_CNT) 1 := by
  have e : s.applyCompletion slot data = s.bump rENG_CMPL_IGN_CNT 1 := by
    rw [State.applyCompletion, List.find?_eq_none.mpr fun w hw => by simp [h w hw]]
  rw [e]
  exact ⟨State.bump_tabs _ _ _, State.bump_parts _ _ _, State.reg_bump_eq hs.regsWf hp 1⟩

/-- The tables of a state are among those of another. -/
def State.TabsIn (s t : State) : Prop := ∀ w ∈ t.tabs, w ∈ s.tabs

namespace State.TabsIn

theorem refl (s : State) : s.TabsIn s := fun _ h => h

theorem trans {s t u : State} (h : s.TabsIn t) (k : t.TabsIn u) : s.TabsIn u := fun w hw => h w (k w hw)

theorem ofTabs {s t : State} (h : t.tabs = s.tabs) : s.TabsIn t := fun _ hw => h ▸ hw

end State.TabsIn

theorem State.dropTab_tabsIn (s : State) (tag : Nat) : s.TabsIn (s.dropTab tag) := fun _ hw => (List.mem_filter.mp hw).1

/-- Everything but the tables. -/
def offTabs : Touch → Prop
  | .tabs => False
  | _ => True

theorem State.Same.tabsIn {s t : State} (h : s.Same Machine.offTabs t) : s.TabsIn t := .ofTabs (h.tabs id)

theorem State.freeInputs_tabsIn (s : State) (t : WorkTab) : s.TabsIn (s.freeInputs t) :=
  (State.freeInputs_same (F := Machine.offTabs) t (.refl s) trivial).tabsIn

theorem State.TabsIn.foldl {α : Type} {f : State → α → State} (hf : ∀ (s : State) a, s.Same Machine.offTabs (f s a)) (l : List α) (s : State) :
    s.TabsIn (l.foldl f s) := .ofTabs (foldl_view (·.tabs) f (fun s a => (hf s a).tabs id) l s)

theorem State.destOut_tabsIn (s : State) (p l m : Nat) (t : WorkTab) : s.TabsIn (s.destOut p l m t) := by
  unfold State.destOut
  split
  · exact .refl s
  · split
    · exact .trans (t := s.freeOutputs t) (State.freeOutputs_same (F := Machine.offTabs) t (.refl s) trivial).tabsIn
        ((s.freeOutputs t).dropTab_tabsIn _)
    · exact .refl s

theorem State.readOutputs_tabsIn (s : State) (p l m : Nat) (t : WorkTab) : s.TabsIn (s.readOutputs p l m t) := by
  unfold State.readOutputs
  split
  · extract_lets y u c v
    have hu : s.TabsIn u := .foldl (fun s r => State.pileBack_same _ _ _ _ (.refl s) trivial) _ s
    have hv : u.TabsIn v := .foldl (fun s r => .foldl _ _ (fun _ _ h => State.issueRead_same _ _ _ h trivial trivial) (.refl s)) _ u
    exact hu.trans (hv.trans (v.destOut_tabsIn _ _ _ _))
  · exact .refl s

theorem State.sharedAnswer_tabsIn (s : State) (p l : Nat) (t : WorkTab) (ok : Bool) : s.TabsIn (s.sharedAnswer p l t ok) := by
  unfold State.sharedAnswer
  split
  · exact s.dropTab_tabsIn _
  · extract_lets u v c live w x
    have hu : s.TabsIn u := s.freeInputs_tabsIn t
    split
    · exact hu.trans (.foldl (fun s k => State.issueRead_same _ _ _ (.refl s) trivial trivial) _ v)
    · have hw : u.TabsIn w := .trans (t := u.freeOutputs t) (State.freeOutputs_same (F := Machine.offTabs) t (.refl u) trivial).tabsIn
        ((u.freeOutputs t).dropTab_tabsIn _)
      have hx : w.TabsIn x := .foldl (fun s k => State.loseToken_same _ _ _ (.refl s) trivial trivial) _ w
      exact hu.trans (hw.trans (hx.trans (.ofTabs (State.bump_tabs _ _ _))))

/-- One that matches its table marks it answered (R286, R287). -/
theorem State.applyCompletion_of_tab {s : State} {slot : Nat} {data : Bytes} {w : WorkTab} (ht : s.tabs = [w]) (htag : w.tag = fld data 0 4)
    (hq : w.engq = slot) (hn : w.notified = true) (ha : w.answered = false) (h4 : fld data 4 1 = 0) (h5 : fld data 5 3 = 0) :
    ∀ v ∈ (s.applyCompletion slot data).tabs, v.tag = w.tag → v.answered = true := by
  let u : State := { s with tabs := [{ w with answered := true }] }
  suffices h : u.TabsIn (s.applyCompletion slot data) by
    intro v hv _
    obtain rfl := List.mem_singleton.mp (h v hv)
    rfl
  have hf : s.tabs.find? (fun t => t.tag == fld data 0 4 && t.engq == slot && t.notified && !t.answered) = some w := by
    simp [ht, htag, hq, hn, ha]
  rw [State.applyCompletion, hf]
  simp only [h4, h5, ht, ← htag, List.map_singleton, if_true, Nat.not_lt_zero, decide_false, ne_eq, not_true_eq_false, Bool.or_self,
    Bool.false_eq_true, if_false, Bool.not_false, Bool.true_and, beq_self_eq_true]
  refine (fun (h : u.TabsIn _) => h) ?_
  have htorn : u.TabsIn ((u.dropTab w.tag).freeTorn w.part) := (u.dropTab_tabsIn _).trans
    (State.freeTorn_same (F := Machine.offTabs) _ (.refl _) trivial).tabsIn
  split
  · split
    · exact htorn
    · split
      · exact u.sharedAnswer_tabsIn _ _ _ _
      · exact (u.freeInputs_tabsIn w).trans (State.readOutputs_tabsIn _ _ _ _ _)
  · exact htorn

end Sys2Proof.Machine
end

section
/-! SUPPORT. RETURN, RETURN_IN and VOID (R331, R332, R336; O53). -/

-- One declaration after another: the check bounds the memory, and with it the threads.
set_option Elab.async false

namespace Sys2Proof.Machine

/-! ### The tickets that a RETURN answers -/

theorem mem_listOrder {k : Ticket} {ks : List Ticket} : k ∈ listOrder ks ↔ k ∈ ks := (sortBy_perm _ _).mem_iff

/-- A fold that may stop keeps what each of its steps keeps. -/
theorem foldl_range_some {P : Nat → State → Prop} {f : Option State → Nat → Option State} {s t : State} (n : Nat)
    (hnone : ∀ i, f none i = none) (hf : ∀ i u v, i < n → P i u → f (some u) i = some v → P (i + 1) v) (h0 : P 0 s)
    (h : (List.range n).foldl f (some s) = some t) : P n t := by
  induction n generalizing t with
  | zero =>
    obtain rfl := Option.some.inj h
    exact h0
  | succ n ih =>
    rw [List.range_succ, List.foldl_append] at h
    cases hu : (List.range n).foldl f (some s) with
    | none =>
      rw [hu, List.foldl_cons, hnone] at h
      exact absurd h nofun
    | some u =>
      rw [hu] at h
      exact hf n u t (Nat.lt_succ_self n) (ih (fun i u v hi => hf i u v (Nat.lt_succ_of_lt hi)) hu) h

theorem State.releaseId_parts (s : State) (id : Nat) : (s.releaseId id).parts = s.parts :=
  (State.releaseId_same (F := Machine.offParts) id (.refl s) trivial trivial trivial trivial trivial).offParts

/-- The tickets of a destination whose rows are still awaited. -/
def awaits (m d : Nat) (t : Ticket) : Bool := t.micro == m && t.dest == d && t.st == 4

/-- Of the tickets that are awaited, those from the i-th on are left. -/
def State.LeftFrom (p l m d : Nat) (ks : List Ticket) (i : Nat) (s : State) : Prop :=
  ∃ r, s.pass p l = some r ∧ ∀ k ∈ r.tickets, awaits m d k = true → k ∈ ks.drop i

theorem mem_drop_succ {ks : List Ticket} {i : Nat} {e k : Ticket} (he : ks[i]? = some e) (hk : k ∈ ks.drop i) (hne : k ≠ e) :
    k ∈ ks.drop (i + 1) := by
  obtain ⟨hi, rfl⟩ := List.getElem?_eq_some_iff.mp he
  rw [List.drop_eq_getElem_cons hi] at hk
  exact (List.mem_cons.mp hk).resolve_left hne

/-- The i-th ticket has its row: it is awaited no longer. -/
theorem State.LeftFrom.onPass {p l m d i : Nat} {ks : List Ticket} {s : State} {e : Ticket} {g : Ticket → Ticket}
    (h : s.LeftFrom p l m d ks i) (he : ks[i]? = some e) (hg : ∀ t, (g t).st = 5) {c : Ticket → Bool} (hc : ∀ t, c t = true ↔ t = e) :
    (s.onPass p l (fun q => { q with tickets := q.tickets.map (fun t => if c t then g t else t) })).LeftFrom p l m d ks (i + 1) := by
  obtain ⟨r, hr, hk⟩ := h
  refine ⟨_, State.pass_onPass (fun _ => rfl) hr, fun k hkm ha => ?_⟩
  obtain ⟨t, ht, rfl⟩ := List.mem_map.mp hkm
  by_cases hct : c t = true
  · rw [if_pos hct] at ha
    simp [awaits, hg] at ha
  · rw [if_neg hct] at ha ⊢
    exact mem_drop_succ he (hk t ht ha) fun h => hct ((hc t).mpr h)

theorem State.LeftFrom.ofPass {p l m d i : Nat} {ks : List Ticket} {s t : State} (h : s.LeftFrom p l m d ks i)
    (ht : t.pass p l = s.pass p l) : t.LeftFrom p l m d ks i := by
  obtain ⟨r, hr, hk⟩ := h
  exact ⟨r, ht.trans hr, hk⟩

/-- Once the rows of a RETURN are stored none of its tickets is awaited (R332). -/
theorem State.storeReturns_pass {s t : State} {p l m d k : Nat} {rows : List Bytes} {came : List Nat} {q : Pass}
    (hq : s.pass p l = some q) (hlen : rows.length = (listOrder (q.tickets.filter (awaits m d))).length)
    (h : s.storeReturns p l m d k rows came = some t) :
    ∃ r, t.pass p l = some r ∧ ∀ k ∈ r.tickets, awaits m d k = false := by
  rw [State.storeReturns, hq] at h
  have hkey : t.LeftFrom p l m d (listOrder (q.tickets.filter (awaits m d)))
      (min (listOrder (q.tickets.filter (awaits m d))).length rows.length) := by
    refine foldl_range_some (P := fun i s => s.LeftFrom p l m d (listOrder (q.tickets.filter (awaits m d))) i) _
      (fun _ => rfl) (fun i u v hi hu hv => ?_) ⟨q, hq, fun k hk ha => ?_⟩ h
    · dsimp only [Option.bind_some] at hv
      split at hv
      · next he =>
        have : (listOrder (q.tickets.filter (awaits m d))).length ≤ i := List.getElem?_eq_none_iff.mp he
        omega
      · next e he =>
        split at hv
        · cases hv
          refine State.LeftFrom.onPass (.ofPass hu ?_) he (g := fun t => { t with st := 5 }) (fun _ => rfl) (c := (· == e))
            fun _ => beq_iff_eq
          exact State.pass_congr (foldl_view (·.parts) _ State.releaseId_parts _ u) p l
        · obtain ⟨⟨id, w⟩, hw, rfl⟩ := Option.map_eq_some_iff.mp hv
          have hwp := (State.returnCell_same (F := Machine.offParts) hw (.refl u) trivial trivial trivial trivial trivial).offParts
          simpa using State.LeftFrom.onPass (.ofPass hu (State.pass_congr hwp p l)) he
            (g := fun t => { t with st := 5, out := rows.getD i [], chain := some id }) (fun _ => rfl) (c := (· == e))
            fun _ => beq_iff_eq
    · rw [List.drop_zero, mem_listOrder]
      exact List.mem_filter.mpr ⟨hk, ha⟩
  obtain ⟨r, hr, hk⟩ := hkey
  refine ⟨r, hr, fun k hkm => ?_⟩
  by_contra hn
  have := hk k hkm (by simpa using hn)
  rw [hlen, Nat.min_self, List.drop_length] at this
  exact absurd this nofun

/-- A RETURN that matches its tickets fills them and is counted (R332). -/
theorem returnPile_of_sound {s : State} {m : Msg} {x : StepSt} {q : Pass} (hd : due s m 7) (hsrc : (parseHdr m.body).src = s.member)
    (hm : meets s m.owner (parseHdr m.body).stepNo (parseHdr m.body).layer x q) (ht : x.tornBy = none)
    (hret : (parseHdr m.body).dst ∉ (microOf q (parseHdr m.body).micro).retRx)
    (hvoid : (parseHdr m.body).dst ∉ (microOf q (parseHdr m.body).micro).voidRx) (hdead : s.isDead (parseHdr m.body).dst = false)
    (hks : listOrder (q.tickets.filter (awaits (parseHdr m.body).micro (parseHdr m.body).dst)) ≠ [])
    (hlay : pileLayout m.body true (2 * (s.xCfg m.owner (parseHdr m.body).layer).k) = true)
    (hsame : (parsePile m.body (2 * (s.xCfg m.owner (parseHdr m.body).layer).k)).map (fun w => (w.stream, w.pos, w.expert, w.rank))
      = (listOrder (q.tickets.filter (awaits (parseHdr m.body).micro (parseHdr m.body).dst))).map
        (fun t => (t.stream, t.pos, t.expert, t.rank)))
    (hsome : ((s.claim m).2.storeReturns m.owner (parseHdr m.body).layer (parseHdr m.body).micro (parseHdr m.body).dst
      (s.xCfg m.owner (parseHdr m.body).layer).k ((parsePile m.body (2 * (s.xCfg m.owner (parseHdr m.body).layer).k)).map (·.data))
      (s.claim m).1).isSome = true) : answers (.returnPile m) s (fun t =>
        (∃ r, t.pass m.owner (parseHdr m.body).layer = some r ∧ (parseHdr m.body).dst ∈ (microOf r (parseHdr m.body).micro).retRx
          ∧ (∀ k ∈ r.tickets, k.micro = (parseHdr m.body).micro → k.dest = (parseHdr m.body).dst → k.st ≠ 4))
        ∧ t.link.inbox = s.link.inbox.erase m ∧ poolOnly s t) := by
  obtain ⟨u, hu⟩ := Option.isSome_iff_exists.mp hsome
  obtain ⟨-, -, -, h4⟩ := id hd
  have e : exec (.returnPile m) s = .next ((u.take m).countReturn m.owner (parseHdr m.body).layer (parseHdr m.body).micro
      (parseHdr m.body).dst) := by
    change execReturnPile m s = _
    rw [execReturnPile]
    dsimp only
    rw [if_neg (by simp [hsrc])]
    refine congrArg Host.Outcome.next ((State.receive_of_meets _ hd hm).trans ?_)
    rw [if_neg (by simp [ht]), if_neg (by simp [hvoid, hdead]), if_neg (by simp [hret]),
      if_neg (by rw [List.isEmpty_iff]; exact hks), h4, hlay]
    refine (if_neg ?_).trans ?_
    · rw [show (parsePile m.body (2 * (s.xCfg m.owner (parseHdr m.body).layer).k)).map (fun w => (w.stream, w.pos, w.expert, w.rank))
        = (listOrder (q.tickets.filter (fun t => t.micro == (parseHdr m.body).micro && t.dest == (parseHdr m.body).dst && t.st == 4))).map
          (fun t => (t.stream, t.pos, t.expert, t.rank)) from hsame]
      simp
    · rw [hu]
  obtain ⟨-, -, -, hq, -, -⟩ := hm
  have hq' : (s.claim m).2.pass m.owner (parseHdr m.body).layer = some q := by
    rw [State.pass_congr (State.claim_same (F := Machine.offParts) m (.refl s) trivial).offParts]
    exact hq
  have hlen : ((parsePile m.body (2 * (s.xCfg m.owner (parseHdr m.body).layer).k)).map (·.data)).length
      = (listOrder (q.tickets.filter (awaits (parseHdr m.body).micro (parseHdr m.body).dst))).length := by
    simpa using congrArg List.length hsame
  obtain ⟨r, hr, hk⟩ := State.storeReturns_pass hq' hlen hu
  have hr' : (u.take m).pass m.owner (parseHdr m.body).layer = some r := by
    rw [State.pass_congr ((u.take_touch m).parts fun _ => ⟨id, id⟩)]
    exact hr
  let f (y : Micro) : Micro := { y with retRx := y.retRx ++ [(parseHdr m.body).dst] }
  obtain ⟨n, hn⟩ := microOf_onMicroOf (m := (parseHdr m.body).micro) (f := f) (fun _ => rfl) (u.take m).stitch.count r
  refine answers_of_exec e ⟨⟨_, State.pass_onMicro f hr', by rw [hn]; simp [f], fun k hkm h1 h2 h3 => ?_⟩, ?_,
    poolOnly_of_exec (by simp [State.allows, poolTouch]) e⟩
  · rw [onMicroOf_tickets] at hkm
    have := hk k hkm
    simp [awaits, h1, h2, h3] at this
  · have hl : u.link = (s.claim m).2.link :=
      (State.storeReturns_same (F := (· ≠ .link)) hu (.refl _) nofun nofun nofun nofun nofun nofun).link (by simp)
    change (u.take m).link.inbox = _
    rw [State.take_inbox, hl, State.claim_inbox]

/-- RETURN_IN ends the returns of a micro-step whose tickets are all answered (R336). -/
theorem returnIn_of_answered {s : State} {p l m : Nat} {x : StepSt} {q : Pass} (hx : s.xLive p l = some (x, q))
    (hq : s.pass p l = some q) (hdone : (microOf q m).returnsDone = false) (hsort : (microOf q m).sorted = true)
    (hout : ∀ o ∈ (microOf q m).out, o.2 ≠ 0) (hk : ∀ k ∈ q.tickets, k.micro = m → k.st ≠ 1 ∧ k.st ≠ 4) :
    answers (.returnIn p l m) s (fun t => (∃ r, t.pass p l = some r ∧ (microOf r m).returnsDone = true ∧ r.tickets = q.tickets)
      ∧ t.mem = s.mem ∧ t.regs = s.regs) := by
  let f (y : Micro) : Micro := { y with returnsDone := true }
  let u := s.onMicro p l m f
  have h0 : (microOf q m).out.any (fun o => o.2 == 0) = false := by
    simpa [List.any_eq_false] using hout
  have h1 : (q.tickets.filter (fun t => t.micro == m)).any (fun t => t.st == 1 || t.st == 4) = false := by
    rw [List.any_eq_false]
    intro k hkm
    obtain ⟨h2, h3⟩ := List.mem_filter.mp hkm
    simp [hk k h2 (by simpa using h3)]
  obtain ⟨t, e, ht⟩ : ∃ t, exec (.returnIn p l m) s = .next t ∧ u.Same Machine.offParts t := by
    change ∃ t, execReturnIn p l m s = _ ∧ _
    rw [execReturnIn, hx]
    dsimp only
    rw [if_neg (by simp [hdone, hsort, h0, h1])]
    refine ⟨_, rfl, .foldl _ _ (fun v k hv => ?_) (.refl u)⟩
    split
    · exact .foldl _ _ (fun _ _ h => State.issueRead_same _ _ _ h trivial trivial) (State.readLinks_same _ _ hv trivial trivial)
    · exact hv
  obtain ⟨n, hn⟩ := microOf_onMicroOf (m := m) (f := f) (fun _ => rfl) s.stitch.count q
  refine answers_of_exec e ⟨⟨_, (State.pass_congr ht.offParts p l).trans (State.pass_onMicro f hq), by rw [hn], onMicroOf_tickets ..⟩,
    mem_of_exec (by simp [State.allows, offMem]) e, ?_⟩
  exact (exec_same (F := offRegs) (by simp [State.allows, offRegs]) e).offRegs

/-- A VOID in place of a TALLY counts as one without tickets (R326). -/
theorem voidMsg_of_tally {s : State} {m : Msg} {x : StepSt} {q : Pass} (hd : due s m 9) (hlen : m.body.length = 32)
    (h7 : rsv m.body 7 1 = true) (h18 : rsv m.body 18 14 = true) (hrep : fld m.body 0 1 = 1) (hrea : fld m.body 1 1 = 1)
    (hsub : fld m.body 2 2 < 512) (hparty : fld m.body 16 2 < 512) (ht : x.tornBy = none)
    (hm : meets s m.owner (fld m.body 8 8) (fld m.body 4 2) x q)
    (hsp : s.maySpeak x q (s.xCfg m.owner (fld m.body 4 2)) (fld m.body 2 2) (fld m.body 6 1) = true)
    (hn : rxOf (microOf q (fld m.body 6 1)) (fld m.body 2 2) = none) : answers (.voidMsg m) s (fun t =>
      (∃ r, t.pass m.owner (fld m.body 4 2) = some r
        ∧ rxOf (microOf r (fld m.body 6 1)) (fld m.body 2 2) = some (emptyRx (fld m.body 2 2) m.src false))
      ∧ t.link.inbox = s.link.inbox.erase m ∧ poolOnly s t ∧ refErrOnly s t) := by
  let t := emptyRx (fld m.body 2 2) m.src false
  let u := s.addTally m.owner (fld m.body 4 2) (fld m.body 6 1) t
  obtain ⟨h1, h2, h3, h4⟩ := id hd
  obtain ⟨-, -, hx, hq, hl, hw⟩ := id hm
  obtain ⟨-, hlay⟩ := State.xWhen_open hx hw
  have hno : s.noLayer m.owner (fld m.body 8 8) (fld m.body 4 2) = false := by
    rw [State.noLayer, hx]
    simp [Nat.not_le.mpr hlay]
  have hmost : fld m.body 6 1 < (s.xCfg m.owner (fld m.body 4 2)).most := by
    simp only [State.maySpeak, Bool.and_eq_true, decide_eq_true_eq] at hsp
    exact hsp.1.1
  have hvoid : s.void x q m 1 = some u := by
    unfold State.void
    simp only [hrep, hl, ht, hsp, hn]
    rfl
  have e : exec (.voidMsg m) s = .next (u.take m) := by
    change execVoidMsg m s = _
    rw [execVoidMsg]
    simp only [hrep, hno, show ((1 : Nat) == 7) = false from rfl, Bool.and_false, Bool.false_and, Bool.false_eq_true, if_false]
    refine congrArg Host.Outcome.next ((State.receive_of_meets _ hd hm).trans ?_)
    simp only [h4, hlen, h7, h18, hrea, hmost, memberOk, hsub, hparty, within, Nat.le_refl, decide_true, Bool.and_true,
      Bool.true_or, if_true, hvoid, Bool.not_true, Bool.false_eq_true, if_false, show (1 ≤ 7) from by decide,
      show (1 ≤ 3) from by decide]
  obtain ⟨r, hr, hrt⟩ := State.addTally_pass t hq hn
  refine answers_of_exec e ⟨⟨r, ?_, hrt⟩, u.take_inbox m, poolOnly_of_exec (by simp [State.allows, poolTouch]) e,
    fun a ha => State.take_reg (s := u) m ha⟩
  rw [State.pass_congr ((u.take_touch m).parts fun _ => ⟨id, id⟩)]
  exact hr

end Sys2Proof.Machine
end

section
/-! SUPPORT. A RETURN that a gateway passes on (R331; O53). -/

-- One declaration after another: the check bounds the memory, and with it the threads.
set_option Elab.async false

namespace Sys2Proof.Machine

/-! ### The numbers of the messages sent -/

theorem State.stamp_txStr (s : State) (c : Chan) (fs : List Flit) : (s.stamp c fs).2.link.txStr = s.link.txStr := by
  unfold State.stamp
  split
  · split <;> rfl
  · rfl

theorem State.pump_txStr (s : State) (id : Nat) : (s.pump id).link.txStr = s.link.txStr := by
  unfold State.pump
  split
  · rfl
  · extract_lets +onlyGivenNames base places
    split
    extract_lets +onlyGivenNames x
    split
    · rfl
    · exact s.stamp_txStr _ _

theorem State.enqueue_txStr (s : State) (id wire : Nat) (m : TxMsg) : (s.enqueue id wire m).link.txStr = s.link.txStr := by
  unfold State.enqueue
  split
  · rfl
  · exact State.pump_txStr _ _

theorem find_setStream (l : List Stream) (peer owner n : Nat) :
    (setStream l peer owner n).find? (fun x => x.peer == peer && x.owner == owner)
      = some { peer := peer, owner := owner, next := n, part := [] } := by
  rw [setStream, List.find?_append, List.find?_eq_none.mpr fun x hx => by simpa [imp_iff_not_or] using (List.mem_filter.mp hx).2]
  simp

theorem State.txNext_congr {s t : State} (h : t.link.txStr = s.link.txStr) (peer owner : Nat) :
    t.txNext peer owner = s.txNext peer owner := by
  rw [State.txNext, h, State.txNext]

/-- A message that is sent stands in the transmitter of its channel, under the next number of its stream (R308). -/
theorem State.sendOn_sent {s : State} {c : Chan} (m : TxMsg) (back : Bool) (hc : s.chan (s.route m.dst m.typ back).1 = some c) :
    (∃ x ∈ (s.sendOn m back).link.sent, ∃ n fl, x = { m with chan := (s.route m.dst m.typ back).1, flags := fl, src := s.member
                                                             msgNo := s.txNext m.dst m.owner, lastX := n })
      ∧ (s.sendOn m back).txNext m.dst m.owner = s.txNext m.dst m.owner + 1 := by
  unfold State.sendOn
  extract_lets n l w d
  rcases hroute : s.route m.dst m.typ back with ⟨id, rel⟩
  rw [hroute] at hc
  dsimp only at hc ⊢
  obtain ⟨u, hu⟩ : ∃ u, u = if (rel && m.dst / 32 == w.pod) = true then w.bump (rLK_RELAY_CNT d) 1 else w := ⟨_, rfl⟩
  rw [← hu]
  have hul : u.link = { s.link with txStr := setStream s.link.txStr m.dst m.owner (n + 1) } := by
    rw [hu]
    split
    · exact State.bump_link _ _ _
    · rfl
  have hmem : u.member = s.member := by
    have hi : u.img = s.img := by
      rw [hu]
      split
      · exact State.bump_img _ _ _
      · rfl
    rw [State.member, State.hdrF, State.hdrF, hi, State.member, State.hdrF, State.hdrF]
  have hcu : u.chan id = some c := by
    rw [State.chan, hul]
    exact hc
  obtain ⟨x, hx, k, rfl⟩ := State.enqueue_sent (if rel then 8 else m.owner)
    ({ m with chan := id, flags := if rel then 1 + 16 * m.owner else 0, src := u.member, msgNo := n }) hcu
  refine ⟨⟨_, hx, k, if rel then 1 + 16 * m.owner else 0, by rw [hmem]⟩, ?_⟩
  rw [State.txNext, State.enqueue_txStr, hul, find_setStream]
  rfl

/-! ### The route of a RETURN -/

/-- A message that is no manager's takes its way by the links and the image (R309). -/
theorem State.route_congr {s t : State} (h : s.FixedAs t) (hi : t.img = s.img) (d : Nat) (back : Bool) :
    t.route d 7 back = s.route d 7 back := by
  have hport (b : Nat) : t.portTo b = s.portTo b := by rw [State.portTo, State.block, State.hdrF, hi, State.portTo, State.block, State.hdrF]
  have hpod : t.pod = s.pod := by rw [State.pod, State.hdrF, hi, State.pod, State.hdrF]
  have hblock : t.block = s.block := by rw [State.block, State.hdrF, hi, State.block, State.hdrF]
  simp only [State.route, hport, hpod, hblock, h.port, show mgrTyp 7 = false from rfl, Bool.false_and]

theorem State.backTo_congr {s t : State} (hi : t.img = s.img) (via : Nat) : t.backTo via = s.backTo via := by
  rw [State.backTo, State.pod, State.block, State.hdrF, State.hdrF, hi, State.backTo, State.pod, State.block, State.hdrF, State.hdrF]

theorem State.take_txStr (s : State) (m : Msg) : (s.take m).link.txStr = s.link.txStr := by
  refine foldl_view (fun s => s.link.txStr) _ (fun u h => ?_) _ { s with link := { s.link with
    inbox := s.link.inbox.erase m, slots := s.link.slots.filter (fun h => !holdIs m h) } }
  change (h.chains.foldl State.releaseId u).link.txStr = _
  rw [foldl_view (fun s => s.link) _ State.releaseId_link]

/-! ### What is owed to a destination -/

/-- A RETURN that went back is owed no longer (R331). -/
theorem State.wentBack_owed {s : State} {p l m src dest : Nat} {r : Pass} (h : (s.wentBack p l m src dest).pass p l = some r) :
    ∀ f ∈ (microOf r m).fans, f.src = src → dest ∉ f.owed := by
  rw [State.wentBack, State.onFan, State.onMicro, State.pass_onPass_map _ _ _ (onMicroOf_layer m _ _)] at h
  obtain ⟨q, -, rfl⟩ := Option.map_eq_some_iff.mp h
  obtain ⟨k, hk⟩ := microOf_onMicroOf (m := m) (f := fun y => { y with fans := y.fans.map (fun g =>
    if g.src = src then { g with owed := g.owed.filter (· ≠ dest) } else g) }) (fun _ => rfl) s.stitch.count q
  rw [hk]
  intro f hf hs
  obtain ⟨g, -, rfl⟩ := List.mem_map.mp hf
  by_cases hg : g.src = src
  · rw [if_pos hg]
    simp
  · rw [if_neg hg] at hs
    exact absurd hs hg

/-! ### The statements -/

/-- The message stands in the transmitter of its way back, and its RETURN is owed no longer. -/
def returnGoes (s : State) (m : Msg) (t : State) (body : Bytes) (via : Option MsgKey) (cells : List Nat) : Prop :=
  let h := parseHdr m.body
  let path := (s.route h.src 7 (s.backTo h.src)).1
  poolOnly s t
    ∧ (∃ x ∈ t.link.sent, x.chan = path ∧ x.owner = m.owner ∧ x.dst = h.src ∧ x.src = s.member ∧ x.typ = 7
      ∧ x.trigger = m.trigger ∧ x.msgNo = s.txNext h.src m.owner ∧ x.len = m.length ∧ x.body = body ∧ x.via = via
      ∧ x.chains = cells)
    ∧ t.txNext h.src m.owner = s.txNext h.src m.owner + 1
    ∧ (∀ r, t.pass m.owner h.layer = some r → ∀ f ∈ (microOf r h.micro).fans, f.src = h.src → h.dst ∉ f.owed)

/-- A message on its way back from a gateway. -/
def backTx (m : Msg) (len : Nat) (body : Bytes) (via : Option MsgKey) (cells : List Nat) : TxMsg :=
  { chan := 0, owner := m.owner, typ := 7, flags := 0, src := 0, dst := (parseHdr m.body).src, trigger := m.trigger, msgNo := 0
    len := len, body := body, via := via, lastX := 0, chains := cells }

theorem fresh_of_unheld {s : State} {m : Msg} (hn : s.link.slots.find? (holdIs m) = none) :
    s.link.slots.any (fun h => holdIs m h && h.fate != 0) = false :=
  List.any_eq_false.mpr fun x hx => by
    have := List.find?_eq_none.mp hn x hx
    simp [Bool.eq_false_iff.mpr this]

/-- What passes a RETURN on. -/
def State.goBack (s : State) (m : Msg) (len : Nat) (body : Bytes) (via : Option MsgKey) (cells : List Nat) : State :=
  (s.wentBack m.owner (parseHdr m.body).layer (parseHdr m.body).micro (parseHdr m.body).src (parseHdr m.body).dst).sendOn
    (backTx m len body via cells) (s.backTo (parseHdr m.body).src)

theorem State.goBack_rest (s : State) (m : Msg) (len : Nat) (body : Bytes) (via : Option MsgKey) (cells : List Nat) :
    s.RestAs (s.goBack m len body via cells) := State.sendOn_rest _ _ (.ofLink rfl)

theorem State.goBack_goes {s u : State} {m : Msg} (body : Bytes) (via : Option MsgKey) (cells : List Nat) (hf : s.FixedAs u)
    (hi : u.img = s.img) (hx : u.link.txStr = s.link.txStr)
    (hc : (s.chan (s.route (parseHdr m.body).src 7 (s.backTo (parseHdr m.body).src)).1).isSome = true)
    (hpool : poolOnly s (u.goBack m m.length body via cells)) : returnGoes s m (u.goBack m m.length body via cells) body via cells := by
  let h := parseHdr m.body
  let w := u.wentBack m.owner h.layer h.micro h.src h.dst
  have hroute : w.route h.src 7 (u.backTo h.src) = s.route h.src 7 (s.backTo h.src) := by
    rw [State.backTo_congr hi]
    exact State.route_congr (t := w) hf hi _ _
  obtain ⟨c, hc⟩ := Option.isSome_iff_exists.mp hc
  obtain ⟨e, he, -⟩ := hf.chan_some hc
  obtain ⟨⟨x, hxm, n, fl, hxe⟩, hnext⟩ := State.sendOn_sent (s := w) (c := e) (backTx m m.length body via cells) (u.backTo h.src)
    (hroute ▸ he)
  have htx : w.txNext h.src m.owner = s.txNext h.src m.owner := State.txNext_congr (t := w) hx _ _
  refine ⟨hpool, ⟨x, hxm, ?_⟩, hnext.trans (by rw [← htx]; rfl), fun r hr => State.wentBack_owed (s := u) (p := m.owner) (l := h.layer) ?_⟩
  · rw [hxe]
    refine ⟨congrArg Prod.fst hroute, rfl, rfl, ?_, rfl, rfl, htx, rfl, rfl, rfl, rfl⟩
    change w.member = s.member
    rw [State.member, State.hdrF, State.hdrF, show w.img = s.img from hi, State.member, State.hdrF, State.hdrF]
  · rw [← hr]
    exact (State.pass_congr (State.sendOn_same (F := Machine.offParts) _ _ (.refl w) trivial trivial trivial trivial).offParts _ _).symm

section
variable {s : State} {m : Msg} (hd : due s m 7) (hsrc : (parseHdr m.body).src ≠ s.member)
    (hbef : s.returnBefore m (parseHdr m.body).src = false)
include hd hsrc hbef

theorem exec_gwReturn_of_live (hfresh : s.link.slots.any (fun h => holdIs m h && h.fate != 0) = false)
    (hdead : s.isDead (parseHdr m.body).dst = false) : exec (.gwReturn m) s
      = match s.passOn m (fun u => u.goBack m) with
        | some t => .next t
        | none => .next s.handOver := by
  obtain ⟨h1, h2, h3, -⟩ := hd
  change execGwReturn m s = _
  rw [execGwReturn]
  dsimp only
  rw [if_neg (by simp [h1, h2, h3, hsrc, hbef, hfresh]), if_neg (by simp [hdead])]
  rfl

/-- One of a member declared dead is dropped as stale (R331). -/
theorem gwReturn_of_dead (hs : s.sound) (hdead : s.isDead (parseHdr m.body).dst = true)
    (hn : s.link.slots.find? (holdIs m) = none) (hp : s.powered rXCH_STALE_CNT = true) : answers (.gwReturn m) s (fun t =>
      t.link.inbox = s.link.inbox.erase m ∧ t.link.sent = s.link.sent
        ∧ t.reg rXCH_STALE_CNT = satAdd (s.reg rXCH_STALE_CNT) 1 ∧ poolOnly s t) := by
  obtain ⟨h1, h2, h3, -⟩ := hd
  have e : exec (.gwReturn m) s = .next ((s.take m).bump rXCH_STALE_CNT 1) := by
    change execGwReturn m s = _
    rw [execGwReturn]
    dsimp only
    rw [if_neg (by simp [h1, h2, h3, hsrc, hbef, fresh_of_unheld hn]), if_pos hdead, State.discard, hn]
  refine answers_of_exec e ⟨?_, ?_, State.take_bump_reg m hs.regsWf hp (by decide) 1,
    poolOnly_of_exec (by simp [State.allows, poolTouch]) e⟩
  · rw [State.bump_link, State.take_inbox]
  · rw [State.bump_link, State.take_unheld hn]

section
variable (hdead : s.isDead (parseHdr m.body).dst = false)
    (hc : (s.chan (s.route (parseHdr m.body).src 7 (s.backTo (parseHdr m.body).src)).1).isSome = true)
include hdead hc

theorem gwReturn_of_unheld (hn : s.link.slots.find? (holdIs m) = none) : answers (.gwReturn m) s (fun t =>
    returnGoes s m t m.body none [] ∧ t.link.inbox = s.link.inbox.erase m) := by
  have e := exec_gwReturn_of_live hd hsrc hbef (fresh_of_unheld hn) hdead
  simp only [State.passOn, hn] at e
  refine answers_of_exec e ⟨State.goBack_goes m.body none [] (State.take_fixed m (.refl s)) ?_ (s.take_txStr m) hc
    (poolOnly_of_exec (by simp [State.allows, poolTouch]) e), ?_⟩
  · exact (s.take_touch m).img id
  · exact (State.goBack_rest ..).inbox.trans (s.take_inbox m)

section
variable {k : SlotHold} (hs : s.link.slots = [k]) (hk : holdIs m k = true) (hf : k.fate = 0)
include hs hk hf

omit hc in
theorem exec_gwReturn_of_held : exec (.gwReturn m) s = (match (if k.got ≤ k.n then none
      else if k.whole ∧ k.n = 0 then some (((s.putHold { k with chains := [] }).take m).goBack m m.length m.body none k.chains)
      else some ((s.putHold { k with chains := [], fate := 1 }).goBack m m.length (m.body.take (496 * (k.got - k.n) - 16))
        (some k.key) k.chains)) with
    | some t => .next t
    | none => .next s.handOver) := by
  refine (exec_gwReturn_of_live hd hsrc hbef (by simp [hs, hf]) hdead).trans ?_
  rw [State.passOn, hs, List.find?_cons_of_pos hk]
  simp only [hf, ne_eq, not_true_eq_false, false_or]

/-- All of it is here, in staging cells. -/
theorem gwReturn_of_whole (h0 : k.n = 0) (hgot : 0 < k.got) (hw : k.whole = true) : answers (.gwReturn m) s (fun t =>
    returnGoes s m t m.body none k.chains ∧ t.link.inbox = s.link.inbox.erase m) := by
  have e := exec_gwReturn_of_held hd hsrc hbef hdead hs hk hf
  rw [if_neg (by omega), if_pos ⟨hw, h0⟩] at e
  let u := s.putHold { k with chains := [] }
  refine answers_of_exec e ⟨State.goBack_goes m.body none k.chains (State.take_fixed m (State.putHold_fixed _ (.refl s))) ?_
    (u.take_txStr m) hc (poolOnly_of_exec (by simp [State.allows, poolTouch]) e), ?_⟩
  · exact (u.take_touch m).img id
  · exact (State.goBack_rest ..).inbox.trans (u.take_inbox m)

/-- The flits that have their cells go on, the rest is awaited. -/
theorem gwReturn_of_part (hgot : k.n < k.got) (hw : k.whole = false ∨ k.n ≠ 0) : answers (.gwReturn m) s (fun t =>
    returnGoes s m t (m.body.take (496 * (k.got - k.n) - 16)) (some k.key) k.chains ∧ t.link.inbox = s.link.inbox
      ∧ t.link.slots = [{ k with chains := [], fate := 1 }]) := by
  have e := exec_gwReturn_of_held hd hsrc hbef hdead hs hk hf
  rw [if_neg (by omega), if_neg (by rintro ⟨h1, h2⟩; rcases hw with h | h <;> simp_all)] at e
  let u := s.putHold { k with chains := [], fate := 1 }
  have hu : u.link.slots = [{ k with chains := [], fate := 1 }] := 
    congrArg (fun t : State => t.link.slots) (a₁ := u) (State.putHold_one (k := { k with chains := [], fate := 1 }) hs rfl)
  have hr := u.goBack_rest m m.length (m.body.take (496 * (k.got - k.n) - 16)) (some k.key) k.chains
  exact answers_of_exec e ⟨State.goBack_goes _ (some k.key) k.chains (State.putHold_fixed _ (.refl s)) rfl rfl hc
    (poolOnly_of_exec (by simp [State.allows, poolTouch]) e), hr.inbox, hr.slots.trans hu⟩

omit hc in
/-- None of its flits has its cells yet. -/
theorem gwReturn_of_uncelled (hgot : k.got ≤ k.n) : answers (.gwReturn m) s (fun t => t.link.inbox = s.link.inbox
    ∧ t.link.sent = s.link.sent ∧ poolOnly s t) := by
  have e := exec_gwReturn_of_held hd hsrc hbef hdead hs hk hf
  rw [if_pos hgot] at e
  obtain ⟨h1, h2⟩ := State.handOver_here (s := s) (h := k) hs hf
  exact answers_of_exec e ⟨h1, h2, poolOnly_of_exec (by simp [State.allows, poolTouch]) e⟩

end
end
end

/-- Settles O53: the completions, the RETURNs and the VOIDs of a step. -/
theorem returnsComplete : Obligations.ReturnsComplete :=
  ⟨fun _ _ _ hrun => engineCompletion_waits hrun, fun _ runs others h1 h2 h3 => stitchBoundary_cmpls runs others h1 h2 h3,
    fun _ slot data hs => ⟨fun h hp => State.applyCompletion_of_none slot data hs h hp,
      fun _ ht htag hq hn ha h4 h5 => State.applyCompletion_of_tab ht htag hq hn ha h4 h5⟩,
    fun _ _ _ _ hd hsrc hm ht hret hvoid hdead hks hlay hsame hsome =>
      returnPile_of_sound hd hsrc hm ht hret hvoid hdead hks hlay hsame hsome,
    fun _ _ hd hsrc hbef => ⟨fun hdead hc => ⟨fun hn => gwReturn_of_unheld hd hsrc hbef hdead hc hn,
        fun _ hs hk hf => ⟨fun h0 hgot hw => gwReturn_of_whole hd hsrc hbef hdead hc hs hk hf h0 hgot hw,
          fun hgot hw => gwReturn_of_part hd hsrc hbef hdead hc hs hk hf hgot hw,
          fun hgot => gwReturn_of_uncelled hd hsrc hbef hdead hs hk hf hgot⟩⟩,
      fun hs hdead hn hp => gwReturn_of_dead hd hsrc hbef hs hdead hn hp⟩,
    fun _ _ _ _ _ _ _ _ hx hq hdone hsort hout hk => returnIn_of_answered hx hq hdone hsort hout hk,
    fun _ _ _ _ hd hlen h7 h18 hrep hrea hsub hparty _ ht hm hsp hn =>
      voidMsg_of_tally hd hlen h7 h18 hrep hrea hsub hparty ht hm hsp hn⟩

end Sys2Proof.Machine
end

section
/-! SUPPORT. The end of the sort and the next micro-step (R270 to R277, R325, R326; O48). -/

-- One declaration after another: the check bounds the memory, and with it the threads.
set_option Elab.async false

namespace Sys2Proof.Machine

/-! ### Which micro-step is the last, and whether the source is over -/

/-- The source side of a pass. -/
def sourceView (q : Pass) : Nat × Bool := (q.lastMicro, q.srcDone)

theorem sourceView_onMicroOf (m n : Nat) (f : Micro → Micro) (q : Pass) : sourceView (onMicroOf m n f q) = sourceView q := by
  unfold onMicroOf
  split <;> rfl

theorem State.onMicro_source (s : State) (p l m : Nat) (f : Micro → Micro) : s.PassAs sourceView p l (s.onMicro p l m f) :=
  .onMicro s m fun q n => sourceView_onMicroOf m n f q

theorem sourceView_blind (m : Nat) : BlindToLoss m sourceView where
  rows _ _ _ := rfl
  counts f _ q n := sourceView_onMicroOf m n f q

/-! ### What the sort sends -/

/-- A view that sees of the pass neither its tickets nor what is owed to whom. -/
structure BlindToSort {α : Type} (m : Nat) (v : Pass → α) : Prop where
  loss : BlindToLoss m v
  exchange : ∀ f : Micro → Micro, (∀ y, ∃ os ls ts ps rv, f y = { y with out := os, listed := ls, tallies := ts, piles := ps, resv := rv })
    → ∀ q n, v (onMicroOf m n f q) = v q

section
variable {α : Type} {m : Nat} {v : Pass → α} (hv : BlindToSort m v)
include hv

theorem BlindToSort.onMicro (s : State) (p l : Nat) {f : Micro → Micro}
    (hf : ∀ y, ∃ os ls ts ps rv, f y = { y with out := os, listed := ls, tallies := ts, piles := ps, resv := rv }) :
    s.PassAs v p l (s.onMicro p l m f) := .onMicro s m fun q n => hv.exchange f hf q n

theorem State.sendPile_views (s : State) (p l d : Nat) : s.PassAs v p l (s.sendPile p l m d) := by
  unfold State.sendPile
  split
  · extract_lets c body s₁ s₂
    have h₁ : s.PassAs v p l s₁ := s.setTickets_passAs hv.loss.rows _ _ _ _
    have h₂ : s₁.PassAs v p l s₂ := .ofIte (fun _ => .refl s₁) fun _ => s₁.waitOn_passAs ..
    exact h₁.trans (h₂.trans (.trans (hv.onMicro s₂ p l fun _ => ⟨_, _, _, _, _, rfl⟩) (State.send_passAs ..)))
  · exact .refl s

theorem State.sendGwPile_views (s : State) (p l gw : Nat) : s.PassAs v p l (s.sendGwPile p l m gw) := by
  unfold State.sendGwPile
  split
  · extract_lets c ks rows body s₁ s₂ s₃
    have h₁ : s.PassAs v p l s₁ := s.setTickets_passAs hv.loss.rows _ _ _ _
    have h₂ : s₁.PassAs v p l s₂ := s₁.bump_passAs _ _
    have h₃ : s₂.PassAs v p l s₃ := .ofIte (fun _ => .refl s₂) fun _ => s₂.waitOn_passAs ..
    exact h₁.trans (h₂.trans (h₃.trans (.trans (hv.onMicro s₃ p l fun _ => ⟨_, _, _, _, _, rfl⟩) (State.send_passAs ..))))
  · exact .refl s

theorem State.follow_views (s : State) (p l d n : Nat) (c : XCfg) : s.PassAs v p l (s.follow p l m d n c) := by
  unfold State.follow
  extract_lets u
  have hu : s.PassAs v p l u := hv.onMicro s p l fun _ => ⟨_, _, _, _, _, rfl⟩
  refine hu.trans (.ofIte (fun _ => u.waitOn_passAs ..) fun _ => .ofIte (fun _ => u.sendPile_views hv p l d) fun _ =>
    u.sendGwPile_views hv p l d)

theorem State.spreadSort_views (s : State) (p l : Nat) (x : StepSt) (c : XCfg) (gates : List (Nat × Nat × Bool)) :
    s.PassAs v p l (s.spreadSort p l m x c gates) := by
  unfold State.spreadSort
  extract_lets body q u
  have hu : s.PassAs v p l u := .foldl (fun s d => (s.send_passAs ..).trans (State.follow_views hv _ _ _ _ _ _)) _ s
  exact hu.trans (.foldl (fun s g => .trans (hv.onMicro s p l fun _ => ⟨_, _, _, _, _, rfl⟩)
    ((State.send_passAs ..).trans (State.follow_views hv _ _ _ _ _ _))) _ u)

theorem State.addTally_views (s : State) (p l : Nat) (t : RxTally) : s.PassAs v p l (s.addTally p l m t) :=
  hv.onMicro s p l fun _ => ⟨_, _, _, _, _, rfl⟩

theorem State.takeTally_views {s u : State} {p l src via : Nat} {c : XCfg} {es : List TallyEnt}
    (h : s.takeTally p l m c src via es = some u) : s.PassAs v p l u := by
  unfold State.takeTally at h
  extract_lets n t at h
  split at h
  · cases h
    exact s.addTally_views hv p l t
  · obtain ⟨a, ha, rfl⟩ := Option.map_eq_some_iff.mp h
    obtain ⟨b, hb, rfl⟩ := Option.map_eq_some_iff.mp ha
    have hsb : s.PassAs v p l b := .ofParts ((State.reserve_same (F := (· = .hamper)) hb (.refl s) rfl).parts (by simp))
    exact hsb.trans ((hv.onMicro b p l fun _ => ⟨_, _, _, _, _, rfl⟩).trans (State.addTally_views hv _ _ _ _))

theorem State.ownPile_views (s : State) (p l : Nat) : s.PassAs v p l (s.ownPile p l m) := by
  unfold State.ownPile
  split
  · extract_lets c ks me s₁ s₂
    have h₁ : s.PassAs v p l s₁ := s.setTickets_passAs hv.loss.rows _ _ _ _
    have h₂ : s₁.PassAs v p l s₂ := hv.onMicro s₁ p l fun _ => ⟨_, _, _, _, _, rfl⟩
    exact .ofIte (fun _ => h₁.trans h₂) fun _ => h₁.trans (h₂.trans (hv.onMicro s₂ p l fun _ => ⟨_, _, _, _, _, rfl⟩))
  · exact .refl s

theorem State.ownTally_views {s u : State} {p l : Nat} {c : XCfg} (h : s.ownTally p l m c = some u) : s.PassAs v p l u := by
  unfold State.ownTally at h
  split at h
  · exact absurd h nofun
  · obtain ⟨a, ha, rfl⟩ := Option.map_eq_some_iff.mp h
    exact (State.takeTally_views hv ha).trans (.ofIte (fun _ => .refl a) fun _ => a.ownPile_views hv p l)

theorem State.loseGone_views (s : State) (p l : Nat) : s.PassAs v p l (s.loseGone p l m) := by
  unfold State.loseGone
  split
  · exact .refl s
  · exact s.loseTickets_views hv.loss p l _

end

theorem State.countSubst_passAs {α : Type} {v : Pass → α} {p l : Nat} (s : State) (gs : List (Nat × Nat × Bool)) :
    s.PassAs v p l (s.countSubst gs) := .ofSame (State.countSubst_same (F := Machine.offParts) gs (.refl s) trivial)

theorem sourceView_sort (m : Nat) : BlindToSort m sourceView where
  loss := sourceView_blind m
  exchange f _ q n := sourceView_onMicroOf m n f q

theorem sortedView_sort (m : Nat) : BlindToSort m (microView m Micro.sorted) where
  loss := BlindToCounts.loss fun _ _ _ _ => rfl
  exchange f hf q n := by
    have hm (y : Micro) : (f y).m = y.m := by
      obtain ⟨os, ls, ts, ps, rv, e⟩ := hf y
      rw [e]
    refine microView_onMicroOf hm (fun y k => ?_) q n
    obtain ⟨os, ls, ts, ps, rv, e⟩ := hf { y with start := k }
    rw [e]

/-- The end of the sort marks the micro-step (R270). -/
theorem sortEnd_of_slot {s : State} {p l : Nat} {x : StepSt} {q : Pass} (hx : (s.part p).step = some x) (hq : s.pass p l = some q)
    (hl : x.launched = true) (ht : x.tornBy = none) (he : q.ended = false) (ha : q.admitted = true) (hd : q.srcDone = false)
    (hsort : (microOf q q.lastMicro).sorted = false) (hout : selfOut x l = false) (hopen : s.sorterOpen p = true)
    (hissue : s.mayIssue p = true) (hsome : (((s.charge 13 (q.tickets.filter (fun k => k.micro == q.lastMicro && k.st == 1)).length).loseGone
      p l q.lastMicro).ownTally p l q.lastMicro (s.xCfg p l)).isSome = true) : answers (.sortEnd p l) s (fun t => ∃ r,
        t.pass p l = some r ∧ (microOf r q.lastMicro).sorted = true ∧ r.lastMicro = q.lastMicro) := by
  obtain ⟨u, hu⟩ := Option.isSome_iff_exists.mp hsome
  let gates := u.gatesOf x.group
  let w := (u.countSubst gates).onMicro p l q.lastMicro (fun y => { y with sorted := true, gates := gates })
  let z := if gates.length < (w.otherPods x.group).length then w.waitFor p l q.lastMicro 4 else w
  have e : exec (.sortEnd p l) s = .next (z.spreadSort p l q.lastMicro x (s.xCfg p l) gates) := by
    change execSortEnd p l s = _
    rw [execSortEnd, hx, hq]
    dsimp only
    rw [hl, ht, he, ha, hd, hsort, hout, hopen, hissue, hu]
    rfl
  let v := s.charge 13 (q.tickets.filter (fun k => k.micro == q.lastMicro && k.st == 1)).length
  have hlose : v.PassAs sourceView p l (v.loseGone p l q.lastMicro) := v.loseGone_views (sourceView_sort q.lastMicro) p l
  have hown : (v.loseGone p l q.lastMicro).PassAs sourceView p l u := State.ownTally_views (sourceView_sort q.lastMicro) hu
  have hsrc : s.PassAs sourceView p l u := .trans (t := v) (.ofParts rfl) (hlose.trans hown)
  obtain ⟨r, hr, hv⟩ := (hsrc.trans (u.countSubst_passAs gates)).get hq
  obtain ⟨r₁, k, hr₁, hk⟩ := State.pass_micro (m := q.lastMicro) (f := fun y => { y with sorted := true, gates := gates })
    (fun _ => rfl) hr
  have hwz {α : Type} {v : Pass → α} (hv : BlindToSort q.lastMicro v) : w.PassAs v p l (z.spreadSort p l q.lastMicro x (s.xCfg p l) gates) :=
    .trans (.ofIte (fun _ => w.waitOn_passAs ..) fun _ => .refl w) (z.spreadSort_views hv p l x _ gates)
  obtain ⟨r₂, hr₂, h₂⟩ := (hwz (sortedView_sort q.lastMicro)).get hr₁
  obtain ⟨r₃, hr₃, h₃⟩ := (hwz (sourceView_sort q.lastMicro)).get hr₁
  obtain rfl : r₂ = r₃ := Option.some.inj (hr₂.symm.trans hr₃)
  refine answers_of_exec e ⟨r₂, hr₂, h₂.trans (by rw [microView, hk]), ?_⟩
  have hfirst : sourceView r₁ = sourceView r := by
    obtain ⟨r', hr', h'⟩ := ((u.countSubst gates).onMicro_source p l q.lastMicro
      (fun y => { y with sorted := true, gates := gates })).get hr
    obtain rfl : r' = r₁ := Option.some.inj (hr'.symm.trans hr₁)
    exact h'
  exact congrArg Prod.fst (h₃.trans (hfirst.trans hv))

section
variable {s : State} {p l : Nat} {x : StepSt} {q : Pass} (hx : s.xLive p l = some (x, q)) (hq : s.pass p l = some q)
    (ha : q.admitted = true) (hd : q.srcDone = false) (hsort : (microOf q q.lastMicro).sorted = true)
    (hpend : ∀ o ∈ (microOf q q.lastMicro).out, o.2 ≠ 0) (hout : selfOut x l = false) (hack : (microOf q q.lastMicro).acked = true)
include hx hq ha hd hsort hpend hout hack

/-- Once its payload is acknowledged the next micro-step begins with what was deferred (R325). -/
theorem microStepStart_next (hleft : ∃ k ∈ q.tickets, k.st = 2 ∨ k.st = 3) (hmost : q.lastMicro + 1 < s.microMax p l)
    (htime : s.stitch.count ≤ q.start + fld (s.profEnt p l) 20 2) : answers (.microStepStart p l) s (fun t => ∃ r,
      t.pass p l = some r ∧ r.lastMicro = q.lastMicro + 1 ∧ r.srcDone = false ∧ poolOnly s t) := by
  let a := admitMicro s.member (s.profEnt p l) (s.mapEnt p l) (q.lastMicro + 1) q.toks q.replUse q.tickets
  let g (q' : Pass) : Pass := { q' with tickets := a.tickets, replUse := a.replUse, lastMicro := q.lastMicro + 1 }
  let u := ((s.countAdm p a.counts).onPass p l g).keepTickets p l
  have h0 : (microOf q q.lastMicro).out.any (fun o => o.2 == 0) = false := by simpa [List.any_eq_false] using hpend
  have h1 : q.tickets.any (fun k => k.st == 2 || k.st == 3) = true := by simpa [List.any_eq_true] using hleft
  have e : exec (.microStepStart p l) s = .next (u.onMicro p l (q.lastMicro + 1) (fun y => { y with
      start := u.stitch.count, counts := addCounts y.counts a.counts, events := y.events ++ a.events })) := by
    change execMicroStepStart p l s = _
    rw [execMicroStepStart, hx]
    dsimp only
    rw [ha, hd, hsort, h0, hout, hack]
    refine (if_neg (by decide)).trans (if_pos ⟨h1, hmost, htime⟩)
  have hadm : s.PassAs id p l (s.countAdm p a.counts) :=
    .ofSame (State.countAdm_same (F := Machine.offParts) p a.counts (.refl s) trivial)
  obtain ⟨r, hr, hid⟩ := hadm.get hq
  obtain rfl : r = q := hid
  obtain ⟨r₁, hr₁, h₁⟩ := ((State.keepTickets_passAs (v := sourceView) _ p l).trans (u.onMicro_source p l (r.lastMicro + 1) _)).get
    (State.pass_onPass (f := g) (fun _ => rfl) hr)
  obtain ⟨h2, h3⟩ := Prod.mk.inj h₁
  exact answers_of_exec e ⟨r₁, hr₁, h2, h3.trans hd, poolOnly_of_exec (by simp [State.allows, poolTouch]) e⟩

/-- With nothing deferred the source ends (R325). -/
theorem microStepStart_end (hleft : ∀ k ∈ q.tickets, k.st ≠ 2 ∧ k.st ≠ 3) : answers (.microStepStart p l) s (fun t => ∃ r,
      t.pass p l = some r ∧ r.lastMicro = q.lastMicro ∧ r.srcDone = true) := by
  have h0 : (microOf q q.lastMicro).out.any (fun o => o.2 == 0) = false := by simpa [List.any_eq_false] using hpend
  have h1 : q.tickets.any (fun k => k.st == 2 || k.st == 3) = false := by
    rw [List.any_eq_false]
    intro k hk
    simp [hleft k hk]
  have h2 : q.tickets.filter (fun k => k.st == 2 || k.st == 3) = [] := by
    rw [List.filter_eq_nil_iff]
    exact fun k hk => by simp [hleft k hk]
  let u := s.dropTickets p l q.lastMicro (fun k => k.st == 2 || k.st == 3) 6 5 5 2
  have e : exec (.microStepStart p l) s = .next (u.endSource p l (q.lastMicro + 1) x) := by
    change execMicroStepStart p l s = _
    rw [execMicroStepStart, hx]
    dsimp only
    rw [ha, hd, hsort, h0, hout, hack, h1, h2]
    refine (if_neg (by decide)).trans ((if_neg (by simp)).trans ?_)
    rfl
  obtain ⟨r, hr, hv⟩ := (State.dropTickets_views (sourceView_blind q.lastMicro) s p l _ 6 5 5 2).get hq
  have hend : (u.onPass p l (fun q => { q with srcDone := true })).PassAs sourceView p l (u.endSource p l (q.lastMicro + 1) x) := by
    unfold State.endSource
    extract_lets gates most me w z
    have hz : w.PassAs sourceView p l z := .ofIte (fun _ => w.onMicro_source ..) fun _ => .refl w
    let y := z.countSubst (if q.lastMicro + 1 < most then gates else [])
    have hy : y.Same Machine.offParts (y.sendFinal p l (q.lastMicro + 1) most x.stepNo gates) :=
      State.sendFinal_same _ _ _ _ _ _ (.refl y) trivial trivial trivial trivial
    exact hz.trans ((z.countSubst_passAs _).trans (.ofSame hy))
  obtain ⟨r₁, hr₁, h₁⟩ := hend.get (State.pass_onPass (f := fun q => { q with srcDone := true }) (fun _ => rfl) hr)
  obtain ⟨h3, h4⟩ := Prod.mk.inj h₁
  exact answers_of_exec e ⟨r₁, hr₁, h3.trans (Prod.mk.inj hv).1, h4⟩

end

/-- Settles O48: the sort of a micro-step ends, and the next one begins or the source ends. -/
theorem microStepsComplete : Obligations.MicroStepsComplete :=
  ⟨fun _ _ _ _ _ _ _ hx hq hl ht he ha hd hsort hout hopen hissue hsome =>
      sortEnd_of_slot hx hq hl ht he ha hd hsort hout hopen hissue hsome,
    fun _ _ _ _ _ _ _ hx hq ha hd hsort hpend hout hack =>
      ⟨fun hleft hmost htime => microStepStart_next hx hq ha hd hsort hpend hout hack hleft hmost htime,
        fun hleft => microStepStart_end hx hq ha hd hsort hpend hout hack hleft⟩⟩

end Sys2Proof.Machine
end

section
/-! SUPPORT. Tile reduction, merge, selection and admission (R227 to R229, R236 to R240, R247; O47). -/

-- One declaration after another: the check bounds the memory, and with it the threads.
set_option Elab.async false

namespace Sys2Proof.Machine

/-! ### One row of a job -/

theorem find_onTok {f : Tok → Tok} (hr : ∀ t, (f t).row = t.row) (hw : ∀ t, (f t).whole = t.whole) (row : Nat) (ts : List Tok) :
    (ts.map (fun t => if t.row = row then f t else t)).find? (fun k => k.row == row && !k.whole)
      = (ts.find? (fun k => k.row == row && !k.whole)).map f := by
  induction ts with
  | nil => rfl
  | cons t ts ih =>
    by_cases h : t.row = row
    · rw [List.map_cons, if_pos h, List.find?_cons, List.find?_cons, hr, hw, ih]
      cases (t.row == row && !t.whole) <;> rfl
    · rw [List.map_cons, if_neg h, List.find?_cons_of_neg (by simp [h]), ih, List.find?_cons_of_neg (by simp [h])]

/-- The row of a job, however it is reached, once it is changed. -/
structure RowBecomes (s : State) (p row : Nat) (ref : JobRef) (j : Job) (t : State) (v : Tok) : Prop where
  step : ∀ l, ref = .step l → s.pass p l = some j.pass → ∃ r, t.pass p l = some r
    ∧ r.toks.find? (fun k => k.row == row && !k.whole) = some v
  batch : ∀ g c, ref = .batch g → g < 64 → (s.group g).cur = some c → c.job = some j → ∃ d r, (t.group g).cur = some d
    ∧ d.job = some r ∧ r.pass.toks.find? (fun k => k.row == row && !k.whole) = some v

theorem State.onJob_row {s u : State} {p row : Nat} {ref : JobRef} {j : Job} {v : Tok} {f : Tok → Tok} (hs : s.sound)
    (hv : j.pass.toks.find? (fun k => k.row == row && !k.whole) = some v) (hp : u.parts = s.parts) (hg : u.groups = s.groups)
    (hr : ∀ t, (f t).row = t.row) (hw : ∀ t, (f t).whole = t.whole) :
    RowBecomes s p row ref j (u.onJob p ref (onTokOf row f)) (f v) where
  step l e h := by
    subst e
    have hu : u.pass p l = some j.pass := (State.pass_congr hp p l).trans h
    exact ⟨_, State.pass_onPass (fun _ => rfl) hu, (find_onTok hr hw row _).trans (by rw [hv]; rfl)⟩
  batch g c e h hc hj := by
    subst e
    have hgl : g < u.groups.length := by
      rw [hg, hs.groupsLen]
      exact h
    have hug : u.group g = s.group g := by rw [State.group, hg, State.group]
    refine ⟨{ c with job := some { j with pass := onTokOf row f j.pass } }, { j with pass := onTokOf row f j.pass }, ?_, rfl,
      (find_onTok hr hw row _).trans (by rw [hv]; rfl)⟩
    rw [State.onJob, State.group_onGroup_self hgl, hug, hc]
    dsimp only [Option.map_some]
    rw [hj]
    rfl

theorem State.jobTok_found {s : State} {p row : Nat} {ref : JobRef} {j : Job} {u : Tok} (h : s.jobTok p row = some (ref, j, u)) :
    j.pass.toks.find? (fun k => k.row == row && !k.whole) = some u := by
  obtain ⟨r, -, h2⟩ := Option.bind_eq_some_iff.mp h
  split at h2
  · obtain ⟨t, ht, e⟩ := Option.map_eq_some_iff.mp h2
    obtain ⟨rfl, rfl, rfl⟩ : r.1 = ref ∧ r.2 = j ∧ t = u := by simpa using e
    exact ht
  · exact absurd h2 nofun

/-- A drained tile gives its local pair (R227). -/
theorem tileReduce_of_drained {s : State} {p row n : Nat} {ref : JobRef} {j : Job} {u : Tok} (hs : s.sound)
    (hj : s.jobTok p row = some (ref, j, u)) (hheld : s.jobHeld ref = false) (hi : s.mayIssue p = true) (h0 : fld j.pr 0 1 = 0)
    (hn : n < scoreTiles j.e) (hd : tileDrained j.pr j.e u n = true) (hu : ∀ x ∈ u.tiles, x.tile = n → x.pair = none) :
    answers (.tileReduce p row n) s (fun t => t.mem = s.mem ∧ t.regs = s.regs ∧ ∃ v, RowBecomes s p row ref j t v
      ∧ ∀ x ∈ v.tiles, x.tile = n → x.pair = some (tilePair (((s.tokYs p j.pr j.e u).drop (128 * n)).take 128))) := by
  let pair := tilePair (((s.tokYs p j.pr j.e u).drop (128 * n)).take 128)
  let f (t : Tok) : Tok := { t with tiles := t.tiles.map (fun x => if x.tile = n then { x with pair := some pair } else x) }
  have hdone : u.tiles.any (fun x => x.tile == n && x.pair.isSome) = false := by
    rw [List.any_eq_false]
    intro x hx
    by_cases h : x.tile = n
    · simp [hu x hx h]
    · simp [h]
  have e : exec (.tileReduce p row n) s = .next ((s.charge 10 8).onJob p ref (onTokOf row f)) := by
    change execTileReduce p row n s = _
    rw [execTileReduce, hj]
    dsimp only
    rw [if_neg (by simp [h0, hi, hheld, hd, hdone, Nat.not_le.mpr hn])]
  refine answers_of_exec e ⟨mem_of_exec (by simp [State.allows, offMem]) e, ?_, f u, State.onJob_row hs (State.jobTok_found hj) rfl rfl
    (fun _ => rfl) fun _ => rfl, fun x hx ht => ?_⟩
  · exact (exec_same (F := offRegs) (by simp [State.allows, offRegs]) e).offRegs
  · obtain ⟨y, -, rfl⟩ := List.mem_map.mp hx
    by_cases hy : y.tile = n
    · rw [if_pos hy]
    · rw [if_neg hy] at ht
      exact absurd ht hy

/-- The next pair merges into the token's (R228). -/
theorem softmaxMerge_of_pair {s : State} {p row : Nat} {ref : JobRef} {j : Job} {u : Tok} {pr : F32 × F32} (hs : s.sound)
    (hj : s.jobTok p row = some (ref, j, u)) (hheld : s.jobHeld ref = false) (hi : s.mayIssue p = true)
    (hpr : (u.tiles.find? (fun x => x.tile == u.nextTile)).bind (·.pair) = some pr) :
    answers (.softmaxMerge p row) s (fun t => t.mem = s.mem ∧ t.regs = s.regs ∧ ∃ v, RowBecomes s p row ref j t v
      ∧ v.nextTile = u.nextTile + 1 ∧ (v.m, v.z) = if u.nextTile = 0 then pr else mergePair (u.m, u.z) pr) := by
  let a := if u.nextTile = 0 then pr else mergePair (u.m, u.z) pr
  let f (t : Tok) : Tok := { t with m := a.1, z := a.2, nextTile := u.nextTile + 1 }
  obtain ⟨w, e, hw⟩ : ∃ w : State, exec (.softmaxMerge p row) s = .next (w.onJob p ref (onTokOf row f))
      ∧ w.parts = s.parts ∧ w.groups = s.groups := by
    change ∃ w : State, execSoftmaxMerge p row s = _ ∧ _
    rw [execSoftmaxMerge, hj]
    dsimp only
    rw [hpr]
    exact ⟨_, if_neg (by simp [hi, hheld]), rfl, rfl⟩
  exact answers_of_exec e ⟨mem_of_exec (by simp [State.allows, offMem]) e,
    (exec_same (F := offRegs) (by simp [State.allows, offRegs]) e).offRegs, f u,
    State.onJob_row hs (State.jobTok_found hj) hw.1 hw.2 (fun _ => rfl) fun _ => rfl, rfl, rfl⟩

/-! ### Selection and admission -/

/-- A token with the lists that the selection chose. -/
def selectedTok (ch : List (Nat × F32) × List (Nat × F32)) (t : Tok) : Tok :=
  { t with chosen := ch.1, cand := ch.2, selected := true, nullRt := ch.1.isEmpty }

/-- The lists that the selection of a token chooses (R229). -/
def State.choiceOf (s : State) (p : Nat) (q : Pass) (u : Tok) : List (Nat × F32) × List (Nat × F32) :=
  choose (s.profEnt p q.layer) (s.mapEnt p q.layer) (s.tokYs p (s.profEnt p q.layer) (s.layerEnt p q.layer) u)
    (s.biasVals p (s.tab p 3).live.ix q.layer (leExperts (s.layerEnt p q.layer)))

theorem State.curTok_found {s : State} {p row : Nat} {q : Pass} {u : Tok} (hc : s.curTok p row = some (q, u)) :
    q.toks.find? (fun t => t.row == row && !t.whole) = some u := by
  obtain ⟨r, -, h2⟩ := Option.bind_eq_some_iff.mp hc
  obtain ⟨t, ht, e⟩ := Option.map_eq_some_iff.mp h2
  obtain ⟨rfl, rfl⟩ := Prod.mk.inj e
  exact ht

/-- A token whose tiles are all in is selected (R229, R236). -/
theorem tokenSelect_of_drained {s : State} {p row : Nat} {q : Pass} {u : Tok} (hc : s.curTok p row = some (q, u))
    (hq : s.pass p q.layer = some q) (hsel : u.selected = false) (hi : s.mayIssue p = true)
    (hd : (List.range (scoreTiles (s.layerEnt p q.layer))).all
      (tileDrained (s.profEnt p q.layer) (s.layerEnt p q.layer) u) = true)
    (hn : u.nextTile = scoreTiles (s.layerEnt p q.layer)) : answers (.tokenSelect p row) s (fun t => t.mem = s.mem ∧ ∃ r,
      t.pass p q.layer = some r
        ∧ r.toks.find? (fun k => k.row == row && !k.whole) = some (selectedTok (s.choiceOf p q u) u)) := by
  obtain ⟨w, e, hw⟩ : ∃ w : State,
      exec (.tokenSelect p row) s = .next (w.onTok p q.layer row (selectedTok (s.choiceOf p q u))) ∧ w.parts = s.parts := by
    change ∃ w : State, execTokenSelect p row s = _ ∧ _
    rw [execTokenSelect, hc]
    dsimp only
    rw [if_neg (by simp [hsel, hi, hd, hn])]
    rw [State.choiceOf]
    generalize choose (s.profEnt p q.layer) (s.mapEnt p q.layer) _ _ = ch
    refine ⟨_, rfl, ?_⟩
    unfold State.onLane State.charge
    dsimp only
    split
    · rw [State.bump_parts, State.bump_parts]
    · split
      · rw [State.bump_parts, State.bump_parts]
      · rw [State.bump_parts]
  have hwq : w.pass p q.layer = some q := (State.pass_congr hw p _).trans hq
  exact answers_of_exec e ⟨mem_of_exec (by simp [State.allows, offMem]) e, _, State.pass_onPass (fun _ => rfl) hwq,
    (find_onTok (f := selectedTok (s.choiceOf p q u)) (fun _ => rfl) (fun _ => rfl) row q.toks).trans
      (by rw [State.curTok_found hc]; rfl)⟩

/-! ### Admission -/

theorem answers_mono {c : Instr} {s : State} {P Q : State → Prop} (h : answers c s P) (k : ∀ t, P t → Q t) : answers c s Q := by
  obtain ⟨t, e, ht⟩ := h
  exact ⟨t, e, k t ht⟩

/-- What the admission of a pass fixes of it. -/
def admissionView (q : Pass) : Bool × Bool × List Tok × List Ticket := (q.admitted, q.stage4, q.toks, q.tickets)

theorem onMicroOf_admission (m n : Nat) (f : Micro → Micro) (q : Pass) :
    admissionView (onMicroOf m n f q) = admissionView q := by
  unfold onMicroOf
  split <;> rfl

section
variable {p l : Nat}

theorem State.countAdm_parts (s : State) (p : Nat) (c : List Nat) : (s.countAdm p c).parts = s.parts :=
  (State.countAdm_same (F := Machine.offParts) p c (.refl s) trivial).offParts

/-- Asking for the residual rows changes only what the pass waits for. -/
theorem State.readResiduals_passAs (s : State) (x : StepSt) (k : Nat) (ts : List Tok) :
    s.PassAs admissionView p l (s.readResiduals p l x k ts) := by
  unfold State.readResiduals
  split
  · exact .refl s
  · exact .trans (.ofSame (State.fetchRows_same (F := Machine.offParts) _ _ _ _ _ _ _ (.refl s) trivial trivial))
      (.onPass _ (fun _ => rfl) fun _ => rfl)

theorem State.ticketCells_pass {s u : State} {q : Pass} {ks : List Ticket} (h : s.ticketCells p l ks = some u)
    (hq : s.pass p l = some q) : ∃ r, u.pass p l = some r := by
  unfold State.ticketCells at h
  split at h
  · exact ⟨q, by rw [← Option.some.inj h, hq]⟩
  · obtain ⟨⟨c, v⟩, e, rfl⟩ := Option.map_eq_some_iff.mp h
    have hv : v.parts = s.parts :=
      (State.allocStage_same (F := Machine.offParts) e (.refl s) trivial trivial trivial trivial trivial).offParts
    exact ⟨_, State.pass_onPass (fun _ => rfl) ((State.pass_congr hv p l).trans hq)⟩

end

/-- A pass all of whose tokens are selected is admitted once its tickets have their cells (R236 to R240). -/
theorem admission_of_selected {s : State} {p : Nat} {q : Pass} (hc : s.curPass p = some q) (hq : s.pass p q.layer = some q)
    (hi : s.mayIssue p = true) (hn : q.toks ≠ []) (hsel : ∀ u ∈ q.toks, u.selected = true ∨ u.whole = true)
    (hcells : (s.ticketCells p q.layer
      (admitPass s.member (s.profEnt p q.layer) (s.mapEnt p q.layer) q.toks).tickets).isSome = true) :
    answers (.admission p) s (fun t => ∃ r, t.pass p q.layer = some r ∧ r.admitted = true ∧ r.stage4 = true
      ∧ r.toks = (admitPass s.member (s.profEnt p q.layer) (s.mapEnt p q.layer) q.toks).toks
      ∧ r.tickets = (admitPass s.member (s.profEnt p q.layer) (s.mapEnt p q.layer) q.toks).tickets) := by
  let a := admitPass s.member (s.profEnt p q.layer) (s.mapEnt p q.layer) q.toks
  obtain ⟨u, hu⟩ := Option.isSome_iff_exists.mp hcells
  obtain ⟨q₁, hq₁⟩ := State.ticketCells_pass hu hq
  let v : State := (u.clearLanes p).countAdm p a.counts
  have hv : v.pass p q.layer = some q₁ := (State.pass_congr (State.countAdm_parts ..) p _).trans hq₁
  let w := v.onPass p q.layer (fun q => { q with
    toks := a.toks, tickets := a.tickets, replUse := a.replUse, stage4 := true, s4At := v.stitch.count, admitted := true })
  have hw : w.pass p q.layer = some _ := State.pass_onPass (fun _ => rfl) hv
  obtain ⟨y, hy, e⟩ : ∃ y, w.PassAs admissionView p q.layer y ∧ exec (.admission p) s = .next (y.onMicro p q.layer 0 (fun m =>
      { m with start := y.stitch.count, counts := addCounts m.counts a.counts, events := m.events ++ a.events })) := by
    change ∃ y, _ ∧ execAdmission p s = _
    rw [execAdmission, hc]
    dsimp only
    rw [if_neg (by simpa [hi, hn, or_iff_not_imp_left] using hsel), hu]
    refine ⟨_, ?_, rfl⟩
    change State.PassAs _ _ _ w (match (w.part p).step with | some x => ite _ _ _ | none => w)
    split
    · exact .ofIte (fun _ => w.readResiduals_passAs ..) fun _ => .refl w
    · exact .refl w
  obtain ⟨r, hr, er⟩ := (hy.trans (.onMicro (v := admissionView) (m := 0) (f := fun m => { m with
    start := y.stitch.count, counts := addCounts m.counts a.counts, events := m.events ++ a.events }) y fun q n => onMicroOf_admission 0 n _ q)).get hw
  obtain ⟨h1, h2, h3, h4⟩ : r.admitted = true ∧ r.stage4 = true ∧ r.toks = a.toks ∧ r.tickets = a.tickets := by
    simpa [admissionView] using er
  exact answers_of_exec e ⟨r, hr, h1, h2, h3, h4⟩

/-- A pass whose tickets get no cells stays as it is, but for the count of the refusal (R239). -/
theorem admission_of_denied {s : State} {p : Nat} {q : Pass} (hc : s.curPass p = some q)
    (hi : s.mayIssue p = true) (hn : q.toks ≠ []) (hsel : ∀ u ∈ q.toks, u.selected = true ∨ u.whole = true)
    (hcells : s.ticketCells p q.layer (admitPass s.member (s.profEnt p q.layer) (s.mapEnt p q.layer) q.toks).tickets = none) :
    answers (.admission p) s (fun t => t.parts = s.parts ∧ t.hamper = s.hamper ∧ t.mem = s.mem) := by
  have e : exec (.admission p) s = .next (s.denied false) := by
    change execAdmission p s = _
    rw [execAdmission, hc]
    dsimp only
    rw [if_neg (by simpa [hi, hn, or_iff_not_imp_left] using hsel), hcells]
  have h : s.Same (· = .regs) (s.denied false) := State.denied_same false (.refl s) rfl
  exact answers_of_exec e ⟨h.parts (by simp), h.hamper (by simp), h.mem (by simp) (by simp)⟩

/-! ### O47 -/

/-- Settles O47: a drained tile, the next pair, a token whose tiles are all in, and a pass whose tokens are selected, one at a
time; the row of a job is followed through the pass of a step and through the command of a group. -/
theorem selectionCompletes : Obligations.SelectionCompletes := by
  have both {s t : State} {p row : Nat} {ref : JobRef} {j : Job} {f : Tok → Prop}
      (h : t.mem = s.mem ∧ t.regs = s.regs ∧ ∃ v, RowBecomes s p row ref j t v ∧ f v) : t.mem = s.mem ∧ t.regs = s.regs
        ∧ (∀ l, ref = .step l → s.pass p l = some j.pass → ∃ r v, t.pass p l = some r
          ∧ r.toks.find? (fun k => k.row == row && !k.whole) = some v ∧ f v)
        ∧ (∀ g c, ref = .batch g → g < 64 → (s.group g).cur = some c → c.job = some j → ∃ d r v,
          (t.group g).cur = some d ∧ d.job = some r ∧ r.pass.toks.find? (fun k => k.row == row && !k.whole) = some v ∧ f v) := by
    obtain ⟨hm, hr, v, hv, hf⟩ := h
    refine ⟨hm, hr, fun l e h => ?_, fun g c e hg hc hj => ?_⟩
    · obtain ⟨r, h1, h2⟩ := hv.step l e h
      exact ⟨r, v, h1, h2, hf⟩
    · obtain ⟨d, r, h1, h2, h3⟩ := hv.batch g c e hg hc hj
      exact ⟨d, r, v, h1, h2, h3, hf⟩
  refine ⟨fun s p row ref j u hs _ hj hheld hi => ⟨fun n h0 hn hd hu => ?_, fun pr hpr => ?_⟩,
    fun s p row q u hs _ hc hq hsel hi hd hn => ?_, fun s p q hs _ hc hq hi hn hsel => ⟨fun h => ?_, fun h => ?_⟩⟩
  · exact answers_mono (tileReduce_of_drained hs hj hheld hi h0 hn hd hu) fun _ => both
  · exact answers_mono (softmaxMerge_of_pair hs hj hheld hi hpr) fun _ => both
  · exact answers_mono (tokenSelect_of_drained hc hq hsel hi hd hn) fun _ ⟨hm, r, hr, hf⟩ => ⟨hm, r, _, hr, hf, rfl, rfl, rfl, rfl⟩
  · exact admission_of_selected hc hq hi hn hsel h
  · exact admission_of_denied hc hi hn hsel h

end Sys2Proof.Machine
end

section
/-! SUPPORT. The shared tables, the combine of a token and the residue bucket (R343 to R355; O54). -/

-- One declaration after another: the check bounds the memory, and with it the threads.
set_option Elab.async false

namespace Sys2Proof.Machine

/-! ### The shared table of a pass -/

theorem sortBy_singleton {α : Type} (le : α → α → Bool) (a : α) : sortBy le [a] = [a] := rfl

section
variable {s : State} {p l : Nat} {x : StepSt} {q : Pass} (hx : (s.part p).step = some x) (hq : s.pass p l = some q)
  (hf : fuses x 0 = true) (ht : x.tornBy = none) (he : q.ended = false) (hn : q.toks ≠ [])
  (hb : ∀ b, b < ceilDiv q.toks.length 8 → b ∈ q.blocks) (htag : q.sharedTag = none) (hans : q.sharedAns = false)
include hx hq hf ht he hn hb htag hans

/-- A pass without a token left needs no shared table (R343). -/
theorem sharedTableWrite_of_whole (hw : ∀ u ∈ q.toks, u.whole = true) : answers (.sharedTableWrite p l) s (fun t =>
    (∃ r, t.pass p l = some r ∧ r.sharedAns = true ∧ r.sharedTag = none) ∧ t.tabs = s.tabs ∧ t.mem = s.mem) := by
  have hnone : q.toks.filter (fun t => !t.whole) = [] := by
    rw [List.filter_eq_nil_iff]
    intro u hu
    simp [hw u hu]
  have e : exec (.sharedTableWrite p l) s = .next (s.onPass p l (fun q => { q with sharedAns := true })) := by
    change execSharedTableWrite p l s = _
    rw [execSharedTableWrite, hx, hq]
    dsimp only
    rw [if_neg (by simpa [hf, ht, he, hn, htag, hans] using hb), hnone]
    rfl
  exact answers_of_exec e ⟨⟨_, State.pass_onPass (fun _ => rfl) hq, rfl, htag⟩, rfl, rfl⟩

/-- One token left gets a table of one row, under the next tag, once its runs are granted (R343, R344). -/
theorem sharedTableWrite_of_one {u : Tok} (hruns : q.sharedRuns = []) (hu : q.toks = [u]) (hw : u.whole = false)
    (hgot : (s.allocRuns (s.xCfg p l).owner (some (p, l))
      [tableCells 1, (s.xCfg p l).cells, outCells (s.xCfg p l).k]).1.length = 3) :
    answers (.sharedTableWrite p l) s (fun t => (∃ r, t.pass p l = some r ∧ r.sharedTag = some s.nextTag)
      ∧ (∃ w ∈ t.tabs, w.tag = s.nextTag ∧ w.shared = true ∧ w.rowIds = [(0, u.stream, u.pos, 0xFFFF)])) := by
  let a := s.allocRuns (s.xCfg p l).owner (some (p, l)) [tableCells 1, (s.xCfg p l).cells, outCells (s.xCfg p l).k]
  let v := a.2.onPass p l (fun q => { q with sharedRuns := a.1 })
  have hgroups (n : Nat) : groupsOf (max 1 n) 2 [u] = [[u]] := by
    have h : 1 ≤ max 1 n := le_max_left 1 n
    generalize max 1 n = k at h
    obtain ⟨k, rfl⟩ := Nat.exists_eq_add_of_le' h
    simp [groupsOf]
  have hfil : [u].filter (fun t => !t.whole) = [u] := by simp [hw]
  have htwo : [u].length + 1 = 2 := rfl
  obtain ⟨tab, ents, datas, e⟩ : ∃ tab ents datas, exec (.sharedTableWrite p l) s = .next ((v.writeTable p l 0 x true tab ents
      datas [(0, u.stream, u.pos, 0xFFFF)]).onPass p l (fun q => { q with sharedTag := some v.nextTag })) := by
    have h : execSharedTableWrite p l s = execSharedTableWrite p l s := rfl
    conv_rhs at h => rw [execSharedTableWrite, hx, hq]
    dsimp only at h
    rw [if_neg (by simpa [hf, ht, he, hn, htag, hans] using hb), hu, hruns, hfil, if_neg (by simp), sortBy_singleton, htwo,
      hgroups] at h
    simp only [List.zip_nil_left, List.takeWhile_nil, List.map_nil, List.length_nil, List.drop_zero, List.drop_nil,
      List.foldl_nil, List.nil_append, List.map_cons, List.length_singleton, one_mul, List.cons_append] at h
    rw [if_neg (by rw [hgot]; exact lt_irrefl 3)] at h
    exact ⟨_, _, _, h⟩
  have hv : v.nextTag = s.nextTag := (s.allocRuns_tabs ..).2
  obtain ⟨r, hr, -⟩ := (s.allocRuns_passAs (v := id) (p := p) (l := l) (s.xCfg p l).owner (some (p, l))
    [tableCells 1, (s.xCfg p l).cells, outCells (s.xCfg p l).k]).get hq
  have hvp : v.pass p l = some { r with sharedRuns := a.1 } := State.pass_onPass (fun _ => rfl) hr
  clear_value v a
  let w := v.writeTable p l 0 x true tab ents datas [(0, u.stream, u.pos, 0xFFFF)]
  obtain ⟨t, htabs, h1, -, -, -, h2, h3, -⟩ := v.writeTable_tabs p l 0 x true tab ents datas [(0, u.stream, u.pos, 0xFFFF)]
  have hw : v.PassAs id p l w :=
    .ofSame (State.writeTable_same _ _ _ _ _ _ _ _ _ (.refl v) trivial trivial trivial trivial trivial trivial)
  obtain ⟨r₂, hr₂, -⟩ := hw.get hvp
  have htw : t ∈ w.tabs := by
    rw [show w.tabs = v.tabs ++ [t] from htabs]
    exact List.mem_append_right _ List.mem_cons_self
  have hend := State.pass_onPass (s := w) (f := fun q => { q with sharedTag := some v.nextTag }) (fun _ => rfl) hr₂
  replace e : exec (.sharedTableWrite p l) s = .next (w.onPass p l (fun q => { q with sharedTag := some v.nextTag })) := e
  clear_value w
  exact answers_of_exec e ⟨⟨_, hend, congrArg some hv⟩, t, htw, h1.trans hv, h2, h3⟩

end

/-- The residue bucket of a Fold unit leaks after its period (R355). -/
theorem fdBucketLeak_of_due {s : State} {c : Nat} (hc : c < s.fold.buckets.length)
    (hd : s.leakDue (keyFold c) 2097152 (s.fold.buckets.getD c 0) = true) : answers (.fdBucketLeak c) s (fun t =>
      t.fold.buckets.getD c 0 = s.fold.buckets.getD c 0 - 1
        ∧ (∀ k, k ≠ c → t.fold.buckets.getD k 0 = s.fold.buckets.getD k 0) ∧ t.mem = s.mem ∧ t.regs = s.regs) := by
  refine answers_of_exec (if_pos hd) ⟨?_, fun k hk => ?_, rfl, rfl⟩
  · exact (getD_setAt _ _ _ _ _).trans (by simp [hc])
  · exact (getD_setAt _ _ _ _ _).trans (by simp [hk.symm])

/-! ### A Fold unit that is retired -/

theorem setBit_off_ne_zero {v k : Nat} (hb : bit v k = true) (hv : 2 ^ k ≠ v) : setBit v k false ≠ 0 := by
  have h : 2 ^ k ≤ v := by
    by_contra hlt
    have h0 : v / 2 ^ k = 0 := Nat.div_eq_of_lt (Nat.lt_of_not_le hlt)
    simp [bit, h0] at hb
  rw [setBit, if_pos hb]
  simp only [Bool.false_eq_true, if_false]
  omega

/-- What the retirement of one Fold unit among several leaves, and that the unit is gone (R355). -/
theorem State.retireFold_of_on {s : State} {c : Nat} (hon : bit s.units.folds c = true) (hmore : 2 ^ c ≠ s.units.folds) :
    bit (s.retireFold c).units.folds c = false ∧ (s.retireFold c).parts = s.parts ∧ (s.retireFold c).mem = s.mem
      ∧ (spWf s.regs = true → (s.retireFold c).reg rFD_RETRY_CNT = s.reg rFD_RETRY_CNT) := by
  have hne := setBit_off_ne_zero hon hmore
  unfold State.retireFold
  rw [if_neg (by simp [hon])]
  extract_lets y u v
  have hv : v.units = u.units := by rw [State.bump_units, State.raise_units]
  rw [if_neg (by rw [hv]; exact hne)]
  refine ⟨?_, by rw [State.bump_parts, State.raise_parts], by rw [State.bump_mem, State.raise_mem], fun hwf => ?_⟩
  · rw [hv]
    exact (bit_setBit ..).trans (if_pos rfl)
  · rw [State.reg_bump_ne (State.spWf_regs_raise (s := u) hwf _ _) _ (by decide), State.reg_raise_of_ne (s := u) hwf _ (by decide)]
    rfl

/-- A second failed residue of a unit is counted and retires it (R355). -/
theorem State.residue_failed {s : State} {c : Nat} {node : Bool} {level index : Nat} (hwf : spWf s.regs = true)
    (hon : bit s.units.folds c = true) (hmore : 2 ^ c ≠ s.units.folds) (hp : s.powered rFD_RETRY_CNT = true) :
    bit (s.residue c node true level index).units.folds c = false ∧ (s.residue c node true level index).parts = s.parts
      ∧ (s.residue c node true level index).reg rFD_RETRY_CNT = satAdd (s.reg rFD_RETRY_CNT) 1
      ∧ (s.residue c node true level index).mem = s.mem := by
  unfold State.residue
  extract_lets n u v w z b y
  obtain ⟨hu₁, hu₂, hu₃, hu₄, hu₅⟩ : u.parts = s.parts ∧ u.mem = s.mem ∧ u.units = s.units ∧ spWf u.regs = true
      ∧ u.reg rFD_RETRY_CNT = satAdd (s.reg rFD_RETRY_CNT) 1 := by
    have hb := State.spWf_regs_bump hwf rFD_RETRY_CNT 1
    refine ⟨by rw [State.raise_parts, State.bump_parts], by rw [State.raise_mem, State.bump_mem],
      by rw [State.raise_units, State.bump_units], State.spWf_regs_raise hb _ _, ?_⟩
    rw [State.reg_raise_of_ne hb _ (by decide), State.reg_bump_eq hwf hp]
  obtain ⟨hv₁, hv₂, hv₃, hv₄⟩ : v.parts = u.parts ∧ v.mem = u.mem ∧ v.units = u.units ∧ v.regs = u.regs := by
    unfold v
    split <;> exact ⟨rfl, rfl, rfl, rfl⟩
  obtain ⟨hw₁, hw₂, hw₃, hw₄, hw₅⟩ : w.parts = v.parts ∧ w.mem = v.mem ∧ w.units = v.units ∧ spWf w.regs = true
      ∧ w.reg rFD_RETRY_CNT = v.reg rFD_RETRY_CNT := by
    have hvw : spWf v.regs = true := by
      rw [hv₄]
      exact hu₄
    unfold w State.latch
    split
    · exact ⟨rfl, rfl, rfl, spWf_spSet _ _ _ hvw, State.reg_setReg_of_ne _ hvw (by decide)⟩
    · exact ⟨rfl, rfl, rfl, hvw, rfl⟩
  have hy : y.units.folds = s.units.folds := by rw [← hu₃, ← hv₃, ← hw₃]
  have hyr : y.reg rFD_RETRY_CNT = satAdd (s.reg rFD_RETRY_CNT) 1 :=
    hw₅.trans ((State.reg_congr hv₄ _).trans hu₅)
  have hyp : y.parts = s.parts := hw₁.trans (hv₁.trans hu₁)
  have hym : y.mem = s.mem := hw₂.trans (hv₂.trans hu₂)
  have hyw : spWf y.regs = true := hw₄
  clear_value y
  rw [if_pos rfl]
  obtain ⟨h1, h2, h3, h4⟩ := State.retireFold_of_on (s := y) (c := c) (by rwa [hy]) (by rwa [hy])
  exact ⟨h1, h2.trans hyp, (h4 hyw).trans hyr, h3.trans hym⟩

/-! ### The combine of a token -/

/-- What the combine of a token does to its pass. -/
def combinedPass (row : Nat) (q : Pass) : Pass := { q with
  toks := q.toks.map (fun u => if u.row = row then { u with written := true } else u)
  tickets := q.tickets.map (fun k => if k.row = row then { k with chain := none } else k) }

/-- The tokens and the tickets of a pass. -/
def rowsView (q : Pass) : List Tok × List Ticket := (q.toks, q.tickets)

section
variable {α : Type} {v : Pass → α} {p l : Nat}

theorem State.PassAs.ofPasses {s t : State} (h : s.Views (fun x => x.step.map (·.passes)) t) : s.PassAs v p l t := by
  refine .ofPass ?_
  have e (s : State) : s.pass p l = ((s.part p).step.map (·.passes)).bind (fun qs => qs.find? (fun q => q.layer = l)) :=
    (Option.bind_map ..).symm
  have hp : (t.part p).step.map (·.passes) = (s.part p).step.map (·.passes) := h p
  rw [e, e, hp]

theorem State.onPart_passAs (s : State) (k : Nat) {f : Part → Part} (hf : ∀ x, (f x).step = x.step) :
    s.PassAs v p l (s.onPart k f) := .ofPasses (.onPart s k fun x => by rw [hf])

theorem State.onStep_passAs (s : State) (k : Nat) {f : StepSt → StepSt} (hf : ∀ x, (f x).passes = x.passes) :
    s.PassAs v p l (s.onStep k f) :=
  .ofPasses (.onPart s k fun x => by simp [Option.map_map, Function.comp_def, hf])

theorem State.endAgain_passAs (s : State) (k : Nat) : s.PassAs v p l (s.endAgain k) := by
  unfold State.endAgain
  split
  · exact .refl s
  · refine .ofIte (fun _ => s.onStep_passAs _ fun _ => rfl) fun _ => .ofIte (fun _ => .ofIte (fun _ => ?_) fun _ => ?_) fun _ => .refl s
    · exact s.onStep_passAs _ fun _ => rfl
    · let f (y : Part) : Part := { y with jrnQ := y.jrnQ.dropLast, jrnCrc := y.jrnCrc.take (y.jrnCrc.length - 64) }
      exact .trans (s.onPart_passAs k (f := f) fun _ => rfl) (State.onStep_passAs _ k (f := fun x => { x with fin := 0 }) fun _ => rfl)

theorem State.poison_passAs (s : State) (k j : Nat) (raised : Bool) : s.PassAs v p l (s.poison k j raised) := by
  unfold State.poison
  split
  · exact .refl s
  · refine .ofIte (fun _ => .refl s) fun _ => ?_
    extract_lets t u
    have ht : s.PassAs v p l t := (s.endAgain_passAs k).trans (State.onStep_passAs _ _ fun _ => rfl)
    have hu : t.PassAs v p l u := .trans (.ofSame (State.poisonCells_same k j (.refl t) trivial trivial trivial trivial))
      (.ofParts (by rw [State.raise_parts, State.bump_parts]))
    exact (ht.trans hu).trans (.ofIte (fun _ => .ofSame (State.spread_same _ _ _ _ _ (.refl u) trivial trivial trivial trivial))
      fun _ => .refl u)

theorem State.rowOut_passAs (s : State) (x : StepSt) (q : Pass) (k row : Nat) (vs : List F32) :
    s.PassAs rowsView p l (s.rowOut p x q k row vs) := by
  unfold State.rowOut
  extract_lets t es
  refine .ofIte (fun _ => ?_) fun _ => .ofSame (State.tdPut_same _ _ _ _ _ _ (.refl s) trivial trivial trivial trivial)
  refine .trans ?_ (.onPassAt _ _ _ (fun _ => rfl) fun _ => rfl)
  refine .trans ?_ (State.onStep_passAs _ _ fun _ => rfl)
  refine .trans (.ofSame (State.tdAdd_same (F := Machine.offParts) p t q.outIdx es x.sadd (.refl s) trivial)) ?_
  obtain ⟨m, k, e⟩ := State.issueReads_eq _ _ _
  rw [e]
  exact .refl _

theorem State.freeTickets_passAs (s : State) (k j : Nat) : s.PassAs rowsView p l (s.freeTickets k j) := by
  unfold State.freeTickets
  split
  · exact .refl s
  · split
    · exact .refl s
    · refine .ofIte (fun _ => ?_) fun _ => .refl s
      exact .trans (State.freeChains_passAs s [_]) (.onPassAt _ _ _ (fun _ => rfl) fun _ => rfl)

theorem State.writeAdds_passAs (s : State) (k j : Nat) : s.PassAs rowsView p l (s.writeAdds k j) := by
  unfold State.writeAdds
  split
  · refine .ofIte (fun _ => .refl s) fun _ => ?_
    exact .trans (.ofSame (State.tdFlush_same _ _ _ _ (.refl s) trivial trivial trivial)) (.onPassAt _ _ _ (fun _ => rfl) fun _ => rfl)
  · exact .refl s

end

theorem failedTries_zero (ops : List ResStep) : failedTries 0 ops = 0 := by
  unfold failedTries
  dsimp only
  split
  · split <;> rfl
  · rfl

section
variable {s : State} {p l row : Nat} {x : StepSt} {q : Pass} {u : Tok} (hx : (s.part p).step = some x) (hq : s.pass p l = some q)
  (hu : q.toks.find? (fun t => t.row == row) = some u) (hl : x.launched = true) (ht : x.tornBy = none) (he : q.ended = false)
  (hi : s.mayIssue p = true) (hr : s.combineReady p x q u = true) (hup : (s.part p).state = 1)
  (hopen : (s.foldFor p (s.homeCluster p ((q.toks.findIdx (fun t => t.row == row)) / 8))).2 = true)
include hx hq hu hl ht he hi hr hup hopen

/-- A token whose inputs are here is combined, and what it held goes back (R347 to R352). -/
theorem exec_foldCombine : ∃ w : State, s.PassAs rowsView p l w ∧ exec (.foldCombine p l row 0) s
    = .next ((((w.onPass p l (combinedPass row)).freeShared p l).freeTickets p l).writeAdds p l) := by
  have h : execFoldCombine p l row 0 s = execFoldCombine p l row 0 s := rfl
  conv_rhs at h => rw [execFoldCombine, hx, hq]
  dsimp only at h
  rw [hu] at h
  dsimp only at h
  rw [if_neg (by simp [hl, ht, he, hi, hr]), if_neg (by simp [hopen]), State.combineTries, failedTries_zero, if_pos rfl,
    if_neg (by rintro (h | h); exacts [absurd h (by decide), h hup])] at h
  refine ⟨_, ?_, h⟩
  refine .trans ?_ (.foldl (fun s k => ?_) _ _)
  · refine .trans (.trans (.trans ?_ (State.bump_passAs ..)) (.ofIte (fun _ => State.bump_passAs ..) fun _ => .refl _))
      (State.rowOut_passAs ..)
    exact .trans (.ofParts rfl) (.ofIte (fun _ => State.poison_passAs ..) fun _ => .refl _)
  · split
    · exact .ofParts (State.releaseId_parts ..)
    · exact .refl s

theorem foldCombine_of_ready : answers (.foldCombine p l row 0) s (fun t => ∃ r, t.pass p l = some r
    ∧ (∀ v ∈ r.toks, v.row = row → v.written = true) ∧ (∀ k ∈ r.tickets, k.row = row → k.chain = none)
    ∧ r.toks.length = q.toks.length) := by
  obtain ⟨w, hw, e⟩ := exec_foldCombine hx hq hu hl ht he hi hr hup hopen
  obtain ⟨r, hr, hrv⟩ := hw.get hq
  obtain ⟨htoks, -⟩ := Prod.mk.inj hrv
  let v := w.onPass p l (combinedPass row)
  have hv : v.pass p l = some (combinedPass row r) := State.pass_onPass (fun _ => rfl) hr
  have hend : v.PassAs rowsView p l (((v.freeShared p l).freeTickets p l).writeAdds p l) :=
    .trans (.ofSame (State.freeShared_same (F := Machine.offParts) p l (.refl v) trivial trivial))
      ((State.freeTickets_passAs _ p l).trans (State.writeAdds_passAs _ p l))
  obtain ⟨r', hr', hview⟩ := hend.get hv
  obtain ⟨ht', hk'⟩ := Prod.mk.inj hview
  refine answers_of_exec e ⟨r', hr', fun t h hrow => ?_, fun k h hrow => ?_, ?_⟩
  · rw [ht'] at h
    obtain ⟨y, -, rfl⟩ := List.mem_map.mp h
    by_cases hy : y.row = row
    · rw [if_pos hy]
    · rw [if_neg hy] at hrow
      exact absurd hrow hy
  · rw [hk'] at h
    obtain ⟨y, -, rfl⟩ := List.mem_map.mp h
    by_cases hy : y.row = row
    · rw [if_pos hy]
    · rw [if_neg hy] at hrow
      exact absurd hrow hy
  · rw [ht']
    exact (List.length_map _).trans (congrArg List.length htoks)

omit hup in
/-- The second residue that fails retires the unit, and the token is not combined (R355). -/
theorem foldCombine_of_retired (hs : s.sound)
    (hon : bit s.units.folds (s.foldFor p (s.homeCluster p ((q.toks.findIdx (fun t => t.row == row)) / 8))).1 = true)
    (hmore : 2 ^ (s.foldFor p (s.homeCluster p ((q.toks.findIdx (fun t => t.row == row)) / 8))).1 ≠ s.units.folds)
    (hp : s.powered rFD_RETRY_CNT = true) {fault : Nat} (hbad : 1 < s.combineTries p x q u fault) :
    answers (.foldCombine p l row fault) s (fun t =>
      bit t.units.folds (s.foldFor p (s.homeCluster p ((q.toks.findIdx (fun t => t.row == row)) / 8))).1 = false
        ∧ t.parts = s.parts ∧ t.reg rFD_RETRY_CNT = satAdd (s.reg rFD_RETRY_CNT) 1 ∧ t.mem = s.mem) := by
  have h : execFoldCombine p l row fault s = execFoldCombine p l row fault s := rfl
  conv_rhs at h => rw [execFoldCombine, hx, hq]
  dsimp only at h
  rw [hu] at h
  dsimp only at h
  rw [if_neg (by simp [hl, ht, he, hi, hr]), if_neg (by simp [hopen]), if_pos (Or.inl hbad),
    if_neg (show ¬ s.combineTries p x q u fault = 0 by omega), decide_eq_true hbad] at h
  exact answers_of_exec h (State.residue_failed hs.regsWf hon hmore hp)

end

/-! ### O54 -/

/-- Settles O54: the shared table of a pass without a token left and of one with one token, the combine of a token whose inputs
are here, a unit whose residues fail twice, and the leak of its bucket. -/
theorem foldCompletes : Obligations.FoldCompletes := by
  refine ⟨fun s p l x q _ _ hx hq hf ht he hn hb htag hans hruns => ⟨fun hw => ?_, fun u hu hw hgot => ?_⟩,
    fun s p l row x q u hs _ hx hq _ hu hl ht he hi hr hup hopen => ⟨?_, fun hon hmore hp fault hbad => ?_⟩,
    fun s c hc hd => fdBucketLeak_of_due hc hd⟩
  · exact sharedTableWrite_of_whole hx hq hf ht he hn hb htag hans hw
  · exact sharedTableWrite_of_one hx hq hf ht he hn hb htag hans hruns hu hw hgot
  · exact foldCombine_of_ready hx hq hu hl ht he hi hr hup hopen
  · exact foldCombine_of_retired hx hq hu hl ht he hi hr hopen hs hon hmore hp hbad

end Sys2Proof.Machine
end

section
/-! SUPPORT. The end of a pass and of a step (R31, R325, R385, R390 to R393, R412, R413; O55). -/

-- One declaration after another: the check bounds the memory, and with it the threads.
set_option Elab.async false

namespace Sys2Proof.Machine

/-! ### The end of a pass -/

/-- The pass of layer `l` as the first that is not over, with its roles over (R325). -/
structure PassOver (s : State) (p l : Nat) (x : StepSt) (q : Pass) : Prop where
  step : (s.part p).step = some x
  pass : s.pass p l = some q
  launched : x.launched = true
  tornBy : x.tornBy = none
  ended : q.ended = false
  first : ∀ r ∈ x.passes, r.ended = true ∨ l ≤ r.layer
  src : s.srcOver p x q = true
  dest : destOver x q s.member (s.microMax p l) = true

section
variable {s : State} {p l : Nat} {x : StepSt} {q : Pass} (h : PassOver s p l x q)
include h

theorem exec_passComplete : exec (.passComplete p l) s = .next (if !q.sadd.isEmpty then s.writeAdds p l
    else
      let v := (s.journalPass p x q).onPass p l (fun q => { q with journaled := true })
      if !v.jrnIdle p then v
      else
        let w := (v.closePass p { q with journaled := true } (passWord q (passStatus x q))).dropChains (fun c => c.pass == some (p, l))
        (w.onPart p (fun y => { y with waits := y.waits.filter (fun w => w.layer != l) })).onPass p l
          (fun q => { q with ended := true })) := by
  change execPassComplete p l s = _
  rw [execPassComplete, h.step, h.pass]
  dsimp only
  rw [if_neg (by simpa [h.launched, h.tornBy, h.ended, h.src, h.dest, or_iff_not_imp_left] using h.first)]
  split
  · rfl
  · split <;> rfl

/-- The sums of a scatter-add are written first (R352). -/
theorem passComplete_of_adds (hadd : q.sadd ≠ []) (hw : ∀ u ∈ q.toks, u.written = true ∨ u.whole = true)
    (hread : ∀ r ∈ x.passes, s.reading (.target p r.layer) = false) : answers (.passComplete p l) s (fun t =>
      ∃ r, t.pass p l = some r ∧ r.sadd = [] ∧ r.ended = false ∧ r.toks = q.toks) := by
  have hv : s.writeAdds p l = (s.tdFlush (s.td p (leNat x.outTd)) x.sadd q.sadd (.combined p l)).onPass p l
      (fun q => { q with sadd := [] }) := by
    rw [State.writeAdds, h.step, h.pass]
    exact if_neg (by simpa [hadd, or_iff_not_imp_left] using And.intro hread (by simpa [or_iff_not_imp_left] using hw))
  have hp : (s.tdFlush (s.td p (leNat x.outTd)) x.sadd q.sadd (.combined p l)).parts = s.parts :=
    (State.tdFlush_same (F := Machine.offParts) _ _ _ _ (.refl s) trivial trivial trivial).offParts
  have e := exec_passComplete h
  rw [if_pos (by simp [hadd]), hv] at e
  exact answers_of_exec e ⟨_, State.pass_onPass (fun _ => rfl) ((State.pass_congr hp p l).trans h.pass), rfl, h.ended, rfl⟩

end

/-! The journal records of a pass stand at the end of the queue (R385, R390). -/

section
variable {p : Nat}

theorem State.jrnPush_grows {s : State} (hp : p < s.parts.length) (b : Bytes) :
    ((s.jrnPush p b).part p).jrnQ.length = (s.part p).jrnQ.length + 1 := by
  rw [State.jrnPush, State.part_onPart_self hp]
  exact List.length_append

/-- The queue after a pass has at least one record more for each micro-step. -/
theorem journal_foldl_grows {f : State → Micro → State}
    (hf : ∀ s y, p < s.parts.length → (f s y).parts.length = s.parts.length ∧ (s.part p).jrnQ.length < ((f s y).part p).jrnQ.length)
    (ys : List Micro) {s : State} (hp : p < s.parts.length) :
    (s.part p).jrnQ.length + ys.length ≤ ((ys.foldl f s).part p).jrnQ.length := by
  induction ys generalizing s with
  | nil => exact le_refl _
  | cons y ys ih =>
    obtain ⟨h1, h2⟩ := hf s y hp
    have h := ih (s := f s y) (h1 ▸ hp)
    rw [List.length_cons, List.foldl_cons]
    omega

theorem State.journalPass_grows {s : State} {x : StepSt} {q : Pass} (hp : p < s.parts.length)
    (hj : q.journaled = false) (ha : q.admitted = true) (hr : x.redAbort = none) :
    (s.part p).jrnQ.length < ((s.journalPass p x q).part p).jrnQ.length := by
  have hn : (journaled x q).length = q.lastMicro + 1 := by rw [journaled, List.length_map, List.length_range]
  refine Nat.lt_of_lt_of_le (m := (s.part p).jrnQ.length + (journaled x q).length) (by omega) ?_
  rw [State.journalPass, if_neg (by simp [hj, ha, hr])]
  refine journal_foldl_grows (fun s y hp => ?_) _ hp
  dsimp only
  split
  · exact ⟨s.onPart_length p _, by rw [State.jrnPush_grows hp]; omega⟩
  · have hl : ∀ b, (s.jrnPush p b).parts.length = s.parts.length := fun b => s.onPart_length p _
    refine ⟨(State.onPart_length ..).trans (hl _), ?_⟩
    rw [State.jrnPush_grows ((hl _).symm ▸ hp), State.jrnPush_grows hp]
    omega

theorem State.journalPass_passAs {α : Type} {v : Pass → α} {k l : Nat} (s : State) (x : StepSt) (q : Pass) :
    s.PassAs v k l (s.journalPass p x q) := by
  unfold State.journalPass
  refine .ofIte (fun _ => .refl s) fun _ => .foldl (fun s y => ?_) _ s
  extract_lets n u
  have hu : s.PassAs v k l u := s.onPart_passAs p fun _ => rfl
  exact .ofIte (fun _ => hu) fun _ => hu.trans (u.onPart_passAs p fun _ => rfl)

end

section
variable {s : State} {p l : Nat} {x : StepSt} {q : Pass} (h : PassOver s p l x q) (hadd : q.sadd = [])
include h hadd

/-- Its journal records are queued next (R385). -/
theorem passComplete_of_unjournaled (hj : q.journaled = false) (ha : q.admitted = true) (hr : x.redAbort = none) :
    answers (.passComplete p l) s (fun t => (∃ r, t.pass p l = some r ∧ r.journaled = true ∧ r.ended = false ∧ r.toks = q.toks)
      ∧ (s.part p).jrnQ.length < (t.part p).jrnQ.length ∧ t.mem = s.mem) := by
  let v := (s.journalPass p x q).onPass p l (fun q => { q with journaled := true })
  have hp : p < s.parts.length := State.lt_parts_of_step h.step
  have hgrow : (s.part p).jrnQ.length < (v.part p).jrnQ.length := by
    have hv : (s.journalPass p x q).Views (fun x => x.jrnQ.length) v := .onPart _ p fun _ => rfl
    exact Nat.lt_of_lt_of_eq (State.journalPass_grows hp hj ha hr) (hv p).symm
  obtain ⟨r, hr', e'⟩ := (s.journalPass_passAs (v := id) x q (p := p)).get h.pass
  obtain rfl : r = q := e'
  have e := exec_passComplete h
  rw [if_neg (by simp [hadd])] at e
  have hidle : v.jrnIdle p = false := by
    rw [State.jrnIdle, List.isEmpty_eq_false_iff]
    exact List.ne_nil_of_length_pos (by omega)
  dsimp only at e
  rw [if_pos (show (!v.jrnIdle p) = true by rw [hidle]; rfl)] at e
  refine answers_of_exec e ⟨⟨_, State.pass_onPass (fun _ => rfl) hr', rfl, h.ended, rfl⟩, hgrow, ?_⟩
  exact (State.journalPass_same (F := fun f => f ≠ .mem ∧ f ≠ .pool) p x r (.refl s) (by simp)).mem (by simp) (by simp)

/-- With its records written the pass ends with its LSTAT word, and its waits and its cells go (R391 to R393). -/
theorem passComplete_of_journaled (hj : q.journaled = true) (hidle : s.jrnIdle p = true) (hlay : q.layer = l)
    (hl : l < x.lstat.length) : answers (.passComplete p l) s (fun t =>
      (∃ y r, (t.part p).step = some y ∧ t.pass p l = some r ∧ r.ended = true
          ∧ y.lstat.getD l 7 = passWord q (passStatus x q) ∧ (∀ k, k ≠ l → y.lstat.getD k 7 = x.lstat.getD k 7))
        ∧ (∀ w ∈ (t.part p).waits, w.layer ≠ l) ∧ (∀ c ∈ t.hamper.chains, c.pass ≠ some (p, l))) := by
  have hp : p < s.parts.length := State.lt_parts_of_step h.step
  let word := passWord q (passStatus x q)
  let v := s.onPass p l (fun q => { q with journaled := true })
  have hv : (s.journalPass p x q).onPass p l (fun q => { q with journaled := true }) = v := by
    rw [State.journalPass, if_pos (by simp [hj])]
  let x₁ : StepSt := onPassOf l (fun q => { q with journaled := true }) x
  have hx₁ : (v.part p).step = some x₁ := by
    unfold v
    rw [State.onPass, State.step_onStep _ _ _ hp, h.step]
    rfl
  have hvp : v.pass p l = some { q with journaled := true } := State.pass_onPass (fun _ => rfl) h.pass
  let f (x : StepSt) : StepSt := { x with
    lstat := setAt x.lstat q.layer (fun _ => word), vary := x.vary ||| q.micros.foldl (fun v y => v ||| y.vary) 0 }
  have hpv : p < v.parts.length := by simpa [v, State.onPass, State.onStep] using hp
  have hc : v.closePass p { q with journaled := true } word
      = (v.onStep p f).ledgerLayer p (f x₁) q.layer (passBitmap { q with journaled := true }) := by
    have hs : ((v.onStep p f).part p).step = some (f x₁) := by
      rw [State.step_onStep _ _ _ hpv, hx₁]
      rfl
    rw [State.closePass, hx₁]
    dsimp only
    rw [State.journalPass, if_pos (by simp)]
    exact (congrArg (fun o => match o with
      | some y => (v.onStep p f).ledgerLayer p y q.layer (passBitmap { q with journaled := true })
      | none => v.onStep p f) hs :)
  let w := v.closePass p { q with journaled := true } word
  have hwp : w.parts = (v.onStep p f).parts := by
    unfold w
    rw [hc]
    exact (State.ledgerLayer_same (F := Machine.offParts) _ _ _ _ (.refl _) trivial trivial trivial).offParts
  have hws : (w.part p).step = some (f x₁) := by
    rw [State.part, hwp, ← State.part, State.step_onStep _ _ _ hpv, hx₁]
    rfl
  have hwq : w.pass p l = some { q with journaled := true } := by
    obtain ⟨r, hr, e⟩ := ((v.onStep_passAs (v := id) (p := p) (l := l) p (f := f) fun _ => rfl).trans (.ofParts hwp)).get hvp
    rw [hr, show r = { q with journaled := true } from e]
  have hpw : p < w.parts.length := by
    rw [hwp]
    simpa [State.onStep] using hpv
  have e := exec_passComplete h
  rw [if_neg (by simp [hadd])] at e
  dsimp only at e
  rw [hv, if_neg (show ¬(!v.jrnIdle p) = true from ?_)] at e
  · let u := w.dropChains (fun c => c.pass == some (p, l))
    let y := u.onPart p (fun y => { y with waits := y.waits.filter (fun w => w.layer != l) })
    replace e : exec (.passComplete p l) s = .next (y.onPass p l (fun q => { q with ended := true })) := e
    have hu : (u.part p).step = some (f x₁) := hws
    have hy : (y.part p).step = some (f x₁) := by
      unfold y
      rw [State.part_onPart_self (show p < u.parts.length from hpw)]
      exact hu
    have hyq : y.pass p l = some { q with journaled := true } := by
      obtain ⟨r, hr, e⟩ := (u.onPart_passAs (v := id) (p := p) (l := l) p
        (f := fun y => { y with waits := y.waits.filter (fun w => w.layer != l) }) fun _ => rfl).get hwq
      exact hr.trans (congrArg some e)
    have hpy : p < y.parts.length := by simpa [y, u, State.dropChains] using hpw
    refine answers_of_exec e ⟨⟨_, _, (State.step_onStep _ _ _ hpy).trans (congrArg (Option.map _) hy),
      State.pass_onPass (fun _ => rfl) hyq, rfl, ?_, fun k hk => ?_⟩, fun z hz => ?_, fun c hmem => ?_⟩
    · change (setAt x.lstat q.layer (fun _ => word)).getD l 7 = _
      rw [getD_setAt, hlay]
      simp [hl, word]
    · change (setAt x.lstat q.layer (fun _ => word)).getD k 7 = _
      rw [getD_setAt, hlay]
      simp [Ne.symm hk]
    · have hwaits : y.Views (·.waits) (y.onPass p l (fun q => { q with ended := true })) := .onPart _ p fun _ => rfl
      have hw := hwaits p
      dsimp only at hw
      rw [hw] at hz
      unfold y at hz
      rw [State.part_onPart_self (show p < u.parts.length from hpw)] at hz
      simpa using (List.mem_filter.mp hz).2
    · simpa using (List.mem_filter.mp (show c ∈ w.hamper.chains.filter (fun c => !(c.pass == some (p, l))) from hmem)).2
  · have hq : s.Views (·.jrnQ) v := .onPart _ p fun _ => rfl
    have hqp : (v.part p).jrnQ = (s.part p).jrnQ := hq p
    rw [State.jrnIdle, hqp, ← State.jrnIdle, hidle]
    simp

end

/-! ### The end of a step -/

section
variable {s : State} {p : Nat} {x : StepSt} (hx : (s.part p).step = some x) (hover : s.stepOver p x = true)
include hx hover

/-- The ledger header of a step is written first (R391). -/
theorem stepComplete_of_zero (h0 : x.fin = 0) : answers (.stepComplete p) s (fun t => ∃ y, (t.part p).step = some y ∧ y.fin = 1
    ∧ y.endAt = s.stitch.count ∧ y.lstat = finalStat x) := by
  have e : exec (.stepComplete p) s = .next (s.ledgerClose p x (stepStatus { x with lstat := finalStat x })
      (stepFaultCode { x with lstat := finalStat x }) (finalStat x)) := by
    change execStepComplete p s = _
    rw [execStepComplete, hx]
    dsimp only
    rw [if_neg (by simp [hover]), if_pos h0]
  refine answers_of_exec e ?_
  unfold State.ledgerClose
  extract_lets y u v
  have hv : s.Same (fun f => f = .mem ∨ f = .pool ∨ f = .memp ∨ f = .power) v := by
    refine State.ledgerWrite_same _ _ _ _ (.foldl _ _ (fun u l hu => State.ledgerWrite_same _ _ _ _ hu ?_ ?_ ?_) (.refl s)) ?_ ?_ ?_
    all_goals simp
  have hvp : v.parts = s.parts := hv.parts fun _ => by simp
  have hst : v.stitch = s.stitch := hv.stitch (by simp)
  clear_value v
  have hlt : p < v.parts.length := hvp ▸ State.lt_parts_of_step hx
  have hvx : (v.part p).step = some x := by rw [State.part, hvp, ← State.part, hx]
  exact ⟨_, (State.step_onStep _ _ _ hlt).trans (congrArg (Option.map _) hvx), rfl, by rw [← hst], rfl⟩

/-- Its STEP_END is queued next (R392). -/
theorem stepComplete_of_one (h1 : x.fin = 1) (hw : s.writing (.ledger p) = false) : answers (.stepComplete p) s (fun t =>
    (∃ y, (t.part p).step = some y ∧ y.fin = 2) ∧ t.mem = s.mem) := by
  have hp : p < s.parts.length := State.lt_parts_of_step hx
  obtain ⟨u, e, hu, hpu, hm⟩ : ∃ u : State, exec (.stepComplete p) s = .next (u.onStep p (fun x => { x with fin := 2 }))
      ∧ (u.part p).step = some x ∧ p < u.parts.length ∧ u.mem = s.mem := by
    change ∃ u : State, execStepComplete p s = _ ∧ _
    rw [execStepComplete, hx]
    dsimp only
    rw [if_neg (by simp [hover]), if_neg (by omega), if_pos h1, if_neg (by simp [hw])]
    split
    · exact ⟨s, rfl, hx, hp, rfl⟩
    · refine ⟨_, rfl, ?_, ?_, rfl⟩
      · rw [State.jrnPush, State.part_onPart_self hp]
        exact hx
      · simpa [State.jrnPush] using hp
  exact answers_of_exec e ⟨⟨_, (State.step_onStep _ _ _ hpu).trans (congrArg (Option.map _) hu), rfl⟩, hm⟩

end

/-- The group of a step once its command is completed, and the count of steps (R137, R393). -/
theorem State.complete_group {s : State} {g : Nat} {c : Cmd} (hc : (s.group g).cur = some c)
    (status fault diverted stepNo ledger endAt : Nat) (jobs : List (Nat × Nat)) :
    let t := s.complete g status fault diverted stepNo ledger endAt jobs
    (t.group g).cur = none ∧ (t.group g).lastSeq = some c.seq ∧ (t.group g).bells = (s.group g).bells ∧ t.recd = s.recd
      ∧ (t.group g).head = if s.stopped (s.gPart g)
            || (c.torn || (c.phase == 2 && ((s.part (s.gPart g)).step.bind (·.tornBy)).isSome))
          then (s.group g).head else ((s.group g).head + 1) % 2 ^ 32 := by
  obtain ⟨r, m, o, n, ps, cs, -, e⟩ := State.complete_eq hc status fault diverted stepNo ledger endAt jobs
  dsimp only
  rw [e, State.group_onGroup_self (by exact State.lt_groups_of_cur hc)]
  exact ⟨rfl, rfl, rfl, rfl, rfl⟩

/-- The record of a step, the notes of its diverted rows and the end of its window leave its group and its partition. -/
theorem State.recordStep_rest (s : State) (p : Nat) (x : StepSt) (status fault : Nat) : ∃ diverted stepNo ledger endAt jobs,
    let u := s.complete x.group status fault diverted stepNo ledger endAt jobs
    let t := s.recordStep p x status fault
    t.groups = u.groups ∧ t.parts = u.parts ∧ t.recd.steps = (u.recd.steps + 1) % 2 ^ 64 := by
  iterate 5 apply Exists.intro
  intro u t
  have hv : u.Same (fun f => f = .seam ∨ f = .free ∨ f = .regs ∨ f = .link ∨ f = .mgr ∨ f = .power)
      ((u.divertNotes p x).endWindow p x status) := by
    refine State.endWindow_same _ _ _ (State.divertNotes_same _ _ (.refl u) ?_) ?_ ?_ ?_ ?_ ?_
    all_goals simp
  refine ⟨hv.groups fun _ => by simp, hv.parts fun _ => by simp, ?_⟩
  exact congrArg (fun r : RecSt => (r.steps + 1) % 2 ^ 64) (hv.recd (by simp))

section
variable {s : State} {p : Nat} {x : StepSt} (hx : (s.part p).step = some x) (hover : s.stepOver p x = true)
include hx hover

/-- What the last command of a step comes to. -/
theorem exec_stepComplete_two (h2 : x.fin = 2) (hidle : s.jrnIdle p = true)
    (hseg : stepStatus x = 0 → ∀ g ∈ x.segs, g.kept = true → s.ctxUnderTest g.stream = false) : exec (.stepComplete p) s
      = .next (
        let u := (if stepStatus x = 0 then s.commitSegs p x else s).recordStep p x (stepStatus x) (stepFaultCode x)
        let v := (u.onPart p (fun y => { y with
          step := none, waits := [], lastStart := none
          lastNo := if stepStatus x = 3 then y.lastNo else some x.stepNo
          firstNo := if y.anyNo ∧ stepStatus x ≠ 3 then x.stepNo else y.firstNo
          anyNo := y.anyNo && decide (stepStatus x = 3) })).onGroup x.group
            (fun g => { g with bells := g.bells.filter (fun b => !b.2.2) })
        if stepStatus x = 3 then v else v.goodStep) := by
  change execStepComplete p s = _
  rw [execStepComplete, hx]
  dsimp only
  rw [if_neg (by simp [hover]), if_neg (by omega), if_neg (by omega), if_neg ?_]
  rw [hidle]
  simpa using hseg

/-- With its records written the step gets its completion record and leaves its partition (R393, R412). -/
theorem stepComplete_of_two (hs : s.sound) (h2 : x.fin = 2) (hidle : s.jrnIdle p = true)
    (hseg : stepStatus x = 0 → ∀ g ∈ x.segs, g.kept = true → s.ctxUnderTest g.stream = false) (hg : x.group < 64)
    (hgp : s.gPart x.group = p) (hup : (s.part p).state = 1) {c : Cmd} (hc : (s.group x.group).cur = some c)
    (ht : c.torn = false) : answers (.stepComplete p) s (fun t => (t.part p).step = none
      ∧ (t.group x.group).cur = none ∧ (t.group x.group).lastSeq = some c.seq ∧ (∀ b ∈ (t.group x.group).bells, b.2.2 = false)
      ∧ (t.group x.group).head = ((s.group x.group).head + 1) % 2 ^ 32
      ∧ t.recd.steps = (s.recd.steps + 1) % 2 ^ 64
      ∧ (stepStatus x ≠ 3 → (t.part p).lastNo = some x.stepNo ∧ (t.part p).anyNo = false)) := by
  have htb : x.tornBy = none := by
    have h := hover
    simp only [State.stepOver, Bool.and_eq_true, Option.isNone_iff_eq_none] at h
    exact h.1.1.1.1.2
  let a := if stepStatus x = 0 then s.commitSegs p x else s
  have ha : s.Same (· = .ctx) a := .ofIte (fun _ => State.commitSegs_same p x (.refl s) rfl) fun _ => .refl s
  have hag : a.group x.group = s.group x.group := ha.group _ nofun
  have hac : (a.group x.group).cur = some c := hag ▸ hc
  have hap : a.part p = s.part p := ha.part p nofun nofun
  have hgpa : a.gPart x.group = p := by
    rw [← hgp, State.gPart, State.gcfg, State.sect, ha.img nofun, ← State.sect, ← State.gcfg, ← State.gPart]
  obtain ⟨d, n, led, at_, jobs, hgr, hpa, hst⟩ := a.recordStep_rest p x (stepStatus x) (stepFaultCode x)
  obtain ⟨hcur, hseq, -, hrecd, hhead⟩ := State.complete_group hac (stepStatus x) (stepFaultCode x) d n led at_ jobs
  let z := a.complete x.group (stepStatus x) (stepFaultCode x) d n led at_ jobs
  let u := a.recordStep p x (stepStatus x) (stepFaultCode x)
  have hug : u.group x.group = z.group x.group := by rw [State.group, hgr, ← State.group]
  rw [hgpa, hap, hx, State.stopped, hap, hup, hag, ht] at hhead
  replace hhead : (z.group x.group).head = ((s.group x.group).head + 1) % 2 ^ 32 := by
    refine hhead.trans (if_neg ?_)
    simp [htb]
  have hlens : u.groups.length = 64 ∧ u.parts.length = 8 := by
    have hsa : a.Same (fun _ => True) u :=
      State.recordStep_same _ _ _ _ (.refl a) trivial trivial trivial trivial trivial (fun _ => trivial)
        (fun _ => trivial) trivial trivial trivial trivial trivial trivial
    exact ⟨hsa.groupsLen (ha.groupsLen hs.groupsLen), hsa.partsLen (ha.partsLen hs.partsLen)⟩
  let f (y : Part) : Part := { y with
    step := none, waits := [], lastStart := none
    lastNo := if stepStatus x = 3 then y.lastNo else some x.stepNo
    firstNo := if y.anyNo ∧ stepStatus x ≠ 3 then x.stepNo else y.firstNo
    anyNo := y.anyNo && decide (stepStatus x = 3) }
  let h (g : Group) : Group := { g with bells := g.bells.filter (fun b => !b.2.2) }
  let v := (u.onPart p f).onGroup x.group h
  have e : exec (.stepComplete p) s = .next (if stepStatus x = 3 then v else v.goodStep) :=
    exec_stepComplete_two hx hover h2 hidle hseg
  have hv : v.Same (fun f => f = .free ∨ f = .regs ∨ f = .link ∨ f = .mgr ∨ f = .power)
      (if stepStatus x = 3 then v else v.goodStep) := by
    refine .ofIte (fun _ => .refl v) fun _ => State.goodStep_same (.refl v) ?_ ?_ ?_ ?_ ?_
    all_goals simp
  have hvg : v.group x.group = h (z.group x.group) := by
    rw [← hug]
    exact State.group_onGroup_self (show x.group < u.groups.length by omega) h
  have hvp : v.part p = f (u.part p) := State.part_onPart_self (show p < u.parts.length by
    rw [hlens.2, ← hs.partsLen]
    exact State.lt_parts_of_step hx) f
  have hvr : v.recd.steps = (s.recd.steps + 1) % 2 ^ 64 := by
    rw [show v.recd.steps = (z.recd.steps + 1) % 2 ^ 64 from hst, show z.recd = a.recd from hrecd, ha.recd nofun]
  refine answers_of_exec e ?_
  rw [hv.part p (by simp) (by simp), hv.group _ (by simp), hv.recd (by simp), hvr, hvg, hvp]
  refine ⟨rfl, hcur, hseq, fun b hb => by simpa using (List.mem_filter.mp hb).2, hhead, rfl, fun h3 => ⟨if_neg h3, ?_⟩⟩
  exact (congrArg ((u.part p).anyNo && ·) (decide_eq_false h3)).trans (Bool.and_false _)

end

/-! ### O55 -/

/-- Settles O55: the three commands that end a pass, and the three that end a step, each with what it writes and queues. -/
theorem passAndStepEnd : Obligations.PassAndStepEnd := by
  refine ⟨fun s p l x q hs _ hx hq hlay hl ht he hfirst hsrc hdest => ?_, fun s p x hs _ hx hover => ⟨fun h0 => ?_, fun h1 hw => ?_,
    fun h2 hidle hseg hg hgp hup c hc htorn => ?_⟩⟩
  · have h : PassOver s p l x q := ⟨hx, hq, hl, ht, he, hfirst, hsrc, hdest⟩
    refine ⟨fun hadd hw hread => ?_, fun hadd hj ha hr => ?_, fun hadd hj hidle hlt => ?_⟩
    · exact passComplete_of_adds h hadd hw hread
    · exact passComplete_of_unjournaled h hadd hj ha hr
    · exact passComplete_of_journaled h hadd hj hidle hlay hlt
  · exact stepComplete_of_zero hx hover h0
  · exact stepComplete_of_one hx hover h1 hw
  · exact stepComplete_of_two hx hover hs h2 hidle hseg hg hgp hup hc htorn

end Sys2Proof.Machine
end

section
/-! SUPPORT. Stragglers, deaths, withdrawals and waits (R338, R341, R415, R416, R422, R423; O13). -/

-- One declaration after another: the check bounds the memory, and with it the threads.
set_option Elab.async false

namespace Sys2Proof.Machine

theorem not_isRelayCnt_faults : ¬isRelayCnt rSTRAGGLE_CNT ∧ ¬isRelayCnt rWITHDRAW_CNT ∧ ¬isRelayCnt rFLT_EVT
    ∧ ¬isRelayCnt rXCH_STALE_CNT ∧ ¬isRelayCnt rXCH_WAIT_CNT ∧ ¬isRelayCnt rXCH_EVT := by
  simp only [isRelayCnt, rSTRAGGLE_CNT, rWITHDRAW_CNT, rFLT_EVT, rXCH_STALE_CNT, rXCH_WAIT_CNT, rXCH_EVT,
    rLK_RELAY_CNT]
  refine ⟨?_, ?_, ?_, ?_, ?_, ?_⟩ <;> rintro ⟨p, h⟩ <;> omega

/-! ### Stragglers -/

/-- What the taking and the handing on of a manager message leave. -/
def handTouch : Touch → Prop
  | .free | .regs | .pool | .memp | .hamper | .link | .power => True
  | _ => False

section
variable (s : State) (m : Msg)

theorem State.handed_touch : s.Same handTouch ((s.take m).deliver m) :=
  State.deliver_same m (State.take_same m (.refl s) trivial trivial trivial trivial trivial trivial) trivial trivial trivial trivial

theorem State.handed_inbox : ((s.take m).deliver m).link.inbox = s.link.inbox.erase m :=
  (State.deliver_rest m (.refl _)).inbox.trans (s.take_inbox m)

theorem State.deliver_regs : s.RegsBut isRelayCnt (s.deliver m) := by
  unfold State.deliver
  split
  · exact s.sendAll_regs ..
  · exact .refl s

theorem State.passWithdraw_regs : s.RegsBut isRelayCnt (s.passWithdraw m) := by
  unfold State.passWithdraw
  split
  · exact .refl s
  · split
    · exact s.sendAll_regs ..
    · exact s.sendAll_regs ..

end

/-- A straggler is kept and counted once (R415). -/
theorem straggle_of_due {s : State} {m : Msg} {y : StepSt} (hs : s.sound) (hd : due s m 0x1C) (hlen : m.body.length = 16)
    (h9 : rsv m.body 9 1 = true) (h12 : rsv m.body 12 4 = true) (hx : fld m.body 10 2 < 512)
    (hg : s.gValid (fld m.body 8 1) = true) (hp8 : s.gPart (fld m.body 8 1) < 8) (hdead : s.isDead m.src = false)
    (hy : (s.part (s.gPart (fld m.body 8 1))).step = some y) (hno : y.stepNo = fld m.body 0 8)
    (hnew : fld m.body 10 2 ∉ y.stragglers) (hp : s.powered rSTRAGGLE_CNT = true) :
    answers (.straggle m) s (fun t => (∃ z, (t.part (s.gPart (fld m.body 8 1))).step = some z
        ∧ z.stragglers = y.stragglers ++ [fld m.body 10 2]) ∧ t.reg rSTRAGGLE_CNT = satAdd (s.reg rSTRAGGLE_CNT) 1
      ∧ (t.reg rFLT_EVT).getLsbD 4 = true ∧ t.link.inbox = s.link.inbox.erase m ∧ poolOnly s t) := by
  let p := s.gPart (fld m.body 8 1)
  let u := (s.take m).deliver m
  let v := u.onStep p (fun y => { y with stragglers := y.stragglers ++ [fld m.body 10 2], vary := y.vary ||| 8 })
  have hu : s.Same handTouch u := s.handed_touch m
  have hug : u.gValid (fld m.body 8 1) = true := by
    rw [State.gValid, State.gcfg, State.sect, hu.img id, ← State.sect, ← State.gcfg, ← State.gValid, hg]
  have huy : (u.part p).step = some y := by rw [hu.part p id id, hy]
  have e : exec (.straggle m) s = .next (((v.bump rSTRAGGLE_CNT 1).bump (rVARY_CNT p 3) 1).raise rFLT_EVT 4) := by
    change execStraggle m s = _
    unfold execStraggle
    dsimp only
    rw [if_neg (by simp [hg, hy, hno])]
    refine congrArg Host.Outcome.next ((State.mgrTake_of_due _ hd (by simp [hlen, h9, h12, hx]) hdead).trans ?_)
    rw [show (((s.take m).deliver m).part (s.gPart (fld m.body 8 1))).step = some y from huy]
    dsimp only
    rw [if_neg (by simpa [hno] using hug), if_neg (by simpa using hnew)]
  have hreg : ∀ a, ¬isRelayCnt a → a ≠ rREF_ERR_CNT → v.reg a = s.reg a := fun a h1 h2 =>
    (((s.take m).deliver_regs m).reg a h1).trans (s.take_reg m h2)
  have hpv : v.powered rSTRAGGLE_CNT = true := (State.powered_congr (hu.domOn id (.inl id)) _).trans hp
  have hwf : spWf v.regs = true := hu.regsWf hs.regsWf
  have hwf₁ := State.spWf_regs_bump hwf rSTRAGGLE_CNT 1
  have hwf₂ := State.spWf_regs_bump hwf₁ (rVARY_CNT p 3) 1
  have hvary : rSTRAGGLE_CNT ≠ rVARY_CNT p 3 := by
    simp only [rSTRAGGLE_CNT, rVARY_CNT]
    omega
  refine answers_of_exec e ⟨?_, ?_, ?_, ?_, poolOnly_of_exec (by simp [State.allows, poolTouch]) e⟩
  · refine ⟨{ y with stragglers := y.stragglers ++ [fld m.body 10 2], vary := y.vary ||| 8 }, ?_, rfl⟩
    rw [State.part, State.raise_parts, State.bump_parts, State.bump_parts, ← State.part,
      State.step_onStep _ _ _ (State.lt_parts_of_step huy), huy]
    rfl
  · rw [State.reg_raise_of_ne hwf₂ _ (by decide), State.reg_bump_ne hwf₁ _ hvary, State.reg_bump_eq hwf hpv,
      hreg _ not_isRelayCnt_faults.1 (by decide)]
  · refine State.getLsbD_reg_raise hwf₂ ?_ (by decide)
    rw [State.powered_bump, State.powered_bump, ← hpv]
    exact State.powered_of_family _ (by decide)
  · rw [State.raise_link, State.bump_link, State.bump_link]
    exact s.handed_inbox m

/-! ### Deaths -/

/-- A death due is declared to every member, and to this one (R416). -/
theorem deadDeclare_of_due {s : State} {b : Nat} (hsv : s.inService = true) (hmgr : s.podMgr = true) (hb : b < s.podSize)
    (hdead : s.isDead (32 * s.pod + b) = false) (hdue : s.deathDue b = true) : answers (.deadDeclare b) s (fun t =>
      t.link.inbox.map (fun k => (k.typ, k.body)) = s.link.inbox.map (fun k => (k.typ, k.body))
          ++ [(0x0D, bodyDead (32 * s.pod + b) s.member s.stitch.count)]
        ∧ (∀ e ∈ t.mgr.sessions, e.1 ≠ 32 * s.pod + b) ∧ t.parts = s.parts ∧ t.mem = s.mem) := by
  let body := bodyDead (32 * s.pod + b) s.member s.stitch.count
  let u : State := { s with mgr := { s.mgr with sessions := s.mgr.sessions.filter (fun e => e.1 != 32 * s.pod + b) } }
  let v := u.spreadMgr 0x0D body
  have e : exec (.deadDeclare b) s = .next (v.toMember u.member 0x0D body) := by
    change execDeadDeclare b s = _
    unfold execDeadDeclare
    dsimp only
    rw [if_neg (by simp [hsv, hmgr, hb, hdead, hdue])]
  have hv : u.Same (fun f => f = .free ∨ f = .regs ∨ f = .link ∨ f = .power) v := by
    refine State.spreadMgr_same _ _ (.refl u) ?_ ?_ ?_ ?_
    all_goals simp
  have hmem : u.member = v.member := by rw [State.member, State.member, State.hdrF, State.hdrF, State.hdrF, State.hdrF, hv.img (by simp)]
  have hin : v.link.inbox = s.link.inbox := (State.spreadMgr_rest 0x0D body (.refl u)).inbox
  refine answers_of_exec e ?_
  rw [State.toMember, if_pos hmem]
  refine ⟨?_, fun x hx => ?_, ?_, ?_⟩
  · rw [List.map_append, hin]
    rfl
  · rw [show (_ : State).mgr = u.mgr from hv.mgr (by simp)] at hx
    simpa using (List.mem_filter.mp hx).2
  · exact hv.parts fun _ => by simp
  · exact hv.mem (by simp) (by simp)

theorem State.leaveStep_rest {s0 s : State} (p m fromL : Nat) (dest gate : Bool) (h0 : s0.RestAs s) :
    s0.RestAs (s.leaveStep p m fromL dest gate) :=
  .step (State.leaveStep_same (F := (· ≠ .link)) p m fromL dest gate (.refl s) nofun nofun nofun nofun nofun nofun) h0

/-- A member that is declared dead is dead here (R416). -/
theorem State.isDead_markDead (s : State) (m : Nat) : (s.markDead m).isDead m = true := by
  unfold State.markDead
  split
  · assumption
  extract_lets held lk u v w via y
  have hu : u.isDead m = true := by
    rw [State.isDead, List.any_eq_true]
    exact ⟨(m, held), List.mem_append_right _ List.mem_cons_self, beq_self_eq_true m⟩
  have hw : u.RelayAs w := (State.RelayAs.ofFixed (State.dropHolds_fixed _ (.refl u))).trans (.ofLink (State.raise_link ..))
  split
  · refine ((State.RelayAs.trans hw ?_).isDead m).trans hu
    exact .ofRest (State.teardownAll_rest 14 (.ofLink (State.raise_link ..)))
  · have hy : w.RelayAs y := .foldl _ _ (fun u q h => h.trans (State.chooseRelay_relayAs u _ _)) (.refl w)
    refine (((hw.trans hy).trans ?_).isDead m).trans hu
    exact .ofRest (.foldl _ _ (fun u p h => State.deadShard_rest p m (State.leaveStep_rest p m 0 true true h)) (.refl y))

theorem dead_of_due {s : State} {m : Msg} (hd : due s m 0x0D) (hlen : m.body.length = 16) (h4 : rsv m.body 4 4 = true)
    (hx : fld m.body 0 2 < 512) (horig : s.isDead (fld m.body 2 2) = false) :
    answers (.dead m) s (fun t => t.isDead (fld m.body 0 2) = true ∧ t.boot = s.boot) := by
  have e : exec (.dead m) s = .next (((s.take m).deliver m).markDead (fld m.body 0 2)) := by
    obtain ⟨h1, h2, h3, h5⟩ := hd
    change execDead m s = _
    unfold execDead
    dsimp only
    rw [if_neg (by simp [h1, h2, h3]), if_neg (by simp [h5, hlen, h4]), if_neg (by omega), horig, if_neg (by decide)]
  exact answers_of_exec e ⟨State.isDead_markDead _ _, (exec_same (F := (· ≠ .boot)) (by simp [State.allows]) e).boot (by simp)⟩

/-! ### Withdrawals -/

/-- Who has left a step. -/
def goneView (x : Part) : Option (List (Nat × Bool × Nat)) := x.step.map (·.gone)

section
variable (s : State)

theorem State.onPass_gone (p l : Nat) (f : Pass → Pass) : s.Views goneView (s.onPass p l f) :=
  .onPart s p fun x => by simp [goneView, Option.map_map, Function.comp_def, onPassOf]

theorem State.onMicro_gone (p l m : Nat) (f : Micro → Micro) : s.Views goneView (s.onMicro p l m f) := s.onPass_gone p l _

theorem State.unreserveFor_gone (p l m o n : Nat) : s.Views goneView (s.unreserveFor p l m o n) := by
  unfold State.unreserveFor
  split
  · exact .refl s
  · extract_lets k
    split
    · exact .refl s
    · exact .trans (t := s.unreserve o k) (.ofParts rfl) (State.onMicro_gone _ p l m _)

theorem State.noPile_gone (p l m src : Nat) (c : XCfg) : s.Views goneView (s.noPile p l m src c) := by
  unfold State.noPile
  split
  · exact .refl s
  · extract_lets taken u
    have hu : s.Views goneView u := by
      unfold u
      split
      · exact .refl s
      · exact s.unreserveFor_gone _ _ _ _ _
    exact hu.trans (u.onMicro_gone _ _ _ _)

theorem State.markLost_gone (p l : Nat) (rows : List Nat) : s.Views goneView (s.markLost p l rows) := by
  unfold State.markLost
  split
  · exact .refl s
  · extract_lets fresh n u
    split
    · exact .refl s
    · exact (s.onPass_gone p l _).trans (.ofParts (by rw [State.raise_parts, State.bump_parts]))

theorem State.dropTickets_gone (p l m : Nat) (f : Ticket → Bool) (st code ci vb : Nat) :
    s.Views goneView (s.dropTickets p l m f st code ci vb) := by
  unfold State.dropTickets
  split
  · exact .refl s
  · extract_lets hit gone ks rows bare bares toks ks₁ u v
    split
    · exact .refl s
    · have hu : s.Views goneView u :=
        (s.onPass_gone p l _).trans (.ofSame (State.keepTickets_same p l (.refl _) trivial trivial trivial trivial))
      exact (hu.trans (u.onMicro_gone p l m _)).trans (.ofParts (by rw [State.bump_parts, State.bump_parts]))

theorem State.loseTickets_gone (p l m : Nat) (f : Ticket → Bool) : s.Views goneView (s.loseTickets p l m f) := by
  unfold State.loseTickets
  split
  · exact .refl s
  · extract_lets gone u
    split
    · exact .refl s
    · have hu : s.Views goneView u := .ofParts (by rw [State.raise_parts, State.bump_parts])
      exact (hu.trans (u.dropTickets_gone p l m f _ _ _ _)).trans (State.markLost_gone _ p l _)

theorem State.dropSource_gone (p l m src : Nat) : s.Views goneView (s.dropSource p l m src) := by
  unfold State.dropSource
  extract_lets c
  split
  · exact .refl s
  · extract_lets u
    have hu : s.Views goneView u := by
      unfold u
      split
      · split
        · exact s.noPile_gone _ _ _ _ _
        · exact .refl s
      · exact .refl s
    exact hu.trans (u.onMicro_gone _ _ _ _)

theorem State.dropDest_gone (p l m d : Nat) : s.Views goneView (s.dropDest p l m d) := by
  unfold State.dropDest
  extract_lets u
  have hu : s.Views goneView u := s.loseTickets_gone _ _ _ _
  split
  · exact hu
  · next y hy =>
    let v := u.onMicro p l m (fun y => { y with fans := y.fans.map (fun (f : GwFan) => { f with owed := f.owed.filter (· ≠ d) }) })
    change s.Views goneView (ite _ (v.setOut p l m d 2) v)
    have hv : s.Views goneView v := hu.trans (u.onMicro_gone _ _ _ _)
    split
    · exact hv.trans (v.onMicro_gone _ _ _ _)
    · exact hv

theorem State.dropGate_gone (p : Nat) (x : StepSt) (q : Pass) (m gw : Nat) : s.Views goneView (s.dropGate p x q m gw) := by
  unfold State.dropGate
  extract_lets l c y w u v
  have hw : s.Views goneView w := s.loseTickets_gone _ _ _ _
  have hu : s.Views goneView u := by
    unfold u
    split
    · exact hw.trans (w.onMicro_gone _ _ _ _)
    · exact .refl s
  split
  · exact hu
  · have hv : u.Views goneView v := .foldl (fun s t => s.noPile_gone _ _ _ _ _) _ u
    exact (hu.trans hv).trans (.foldl (fun s t => s.onMicro_gone _ _ _ _) _ v)

end

/-- A member that leaves a step is among those gone from it (R423). -/
theorem State.gone_leaveStep {s : State} {p : Nat} {x : StepSt} (hx : (s.part p).step = some x) (m fromL : Nat) (dest gate : Bool) :
    ∃ z, ((s.leaveStep p m fromL dest gate).part p).step = some z ∧ (m, dest, fromL) ∈ z.gone := by
  have key : goneView ((s.leaveStep p m fromL dest gate).part p) = some (x.gone ++ [(m, dest, fromL)]) := by
    unfold State.leaveStep
    rw [hx]
    dsimp only
    let u := s.onStep p (fun x => { x with gone := x.gone ++ [(m, dest, fromL)] })
    have hu : goneView (u.part p) = some (x.gone ++ [(m, dest, fromL)]) := by
      rw [goneView, State.step_onStep _ _ _ (State.lt_parts_of_step hx), hx]
      rfl
    have hdrop (v : State) (q : Pass) (y : Micro) : v.Views goneView
        (if gate then (if dest then (v.dropSource p q.layer y.m m).dropDest p q.layer y.m m
            else v.dropSource p q.layer y.m m).dropGate p x q y.m m
          else if dest then (v.dropSource p q.layer y.m m).dropDest p q.layer y.m m else v.dropSource p q.layer y.m m) := by
      have h₁ : v.Views goneView (v.dropSource p q.layer y.m m) := v.dropSource_gone _ _ _ _
      have h₂ : v.Views goneView (if dest then (v.dropSource p q.layer y.m m).dropDest p q.layer y.m m
          else v.dropSource p q.layer y.m m) := by
        split
        · exact h₁.trans (State.dropDest_gone _ _ _ _ _)
        · exact h₁
      split
      · exact h₂.trans (State.dropGate_gone _ _ _ _ _ _)
      · exact h₂
    split
    · exact hu
    · exact (State.Views.foldl (fun v q => .foldl (fun v y => hdrop v q y) _ v) _ u p).trans hu
  obtain ⟨z, hz, e⟩ := Option.map_eq_some_iff.mp key
  exact ⟨z, hz, by rw [e]; exact List.mem_append_right _ List.mem_cons_self⟩

/-- A withdrawal counted and shown (R423). -/
def State.withdrawSeen (s : State) : State := (s.bump rWITHDRAW_CNT 1).raise rFLT_EVT 5

/-- What the count of a withdrawal says, of a state whose other registers are as before. -/
theorem State.withdrawSeen_regs {s u : State} (hr : u.reg rWITHDRAW_CNT = s.reg rWITHDRAW_CNT) (hwf : spWf u.regs = true)
    (hp : u.powered rWITHDRAW_CNT = true) : u.withdrawSeen.reg rWITHDRAW_CNT = satAdd (s.reg rWITHDRAW_CNT) 1
      ∧ (u.withdrawSeen.reg rFLT_EVT).getLsbD 5 = true := by
  have hwf₁ := State.spWf_regs_bump hwf rWITHDRAW_CNT 1
  refine ⟨?_, State.getLsbD_reg_raise hwf₁ ?_ (by decide)⟩
  · rw [State.withdrawSeen, State.reg_raise_of_ne hwf₁ _ (by decide), State.reg_bump_eq hwf hp, hr]
  · rw [State.powered_bump, ← hp]
    exact State.powered_of_family _ (by decide)

/-- A withdrawal takes its member out of the step from its layer on (R423). -/
theorem withdraw_of_due {s : State} {m : Msg} {y : StepSt} (hs : s.sound) (hd : due s m 0x1E) (hlen : m.body.length = 16)
    (h14 : rsv m.body 14 2 = true) (h9 : fld m.body 9 1 ≤ 1) (horig : fld m.body 12 2 < 512)
    (hg : s.gValid (fld m.body 8 1) = true) (hdead : s.isDead (fld m.body 12 2) = false)
    (hy : (s.part (s.gPart (fld m.body 8 1))).step = some y) (hno : y.stepNo = fld m.body 0 8)
    (hp : s.powered rWITHDRAW_CNT = true) : answers (.withdraw m) s (fun t =>
      (∃ z, (t.part (s.gPart (fld m.body 8 1))).step = some z
          ∧ (fld m.body 12 2, fld m.body 9 1 == 1, fld m.body 10 2) ∈ z.gone)
        ∧ (y.aset = none → t.reg rWITHDRAW_CNT = satAdd (s.reg rWITHDRAW_CNT) 1 ∧ (t.reg rFLT_EVT).getLsbD 5 = true)) := by
  let p := s.gPart (fld m.body 8 1)
  let v := (s.take m).passWithdraw m
  let u := v.withdrawSeen
  have hv : s.Same handTouch v := State.passWithdraw_same m
    (State.take_same m (.refl s) trivial trivial trivial trivial trivial trivial) trivial trivial trivial trivial
  have hu : s.Same handTouch u := State.raise_same _ _ (State.bump_same _ _ hv trivial) trivial
  have hug : u.gValid (fld m.body 8 1) = true := by
    rw [State.gValid, State.gcfg, State.sect, hu.img id, ← State.sect, ← State.gcfg, ← State.gValid, hg]
  have huy : (u.part p).step = some y := by rw [hu.part p id id, hy]
  have e : exec (.withdraw m) s = .next (u.leaveStep p (fld m.body 12 2) (fld m.body 10 2) (fld m.body 9 1 == 1) false) := by
    change execWithdraw m s = _
    unfold execWithdraw
    dsimp only
    rw [if_neg (by simp [hg, hy, hno]), if_neg (by simp [hdead])]
    refine congrArg Host.Outcome.next ((State.mgrTake_of_due _ hd (by simp [hlen, h14, h9, horig]) hdead).trans ?_)
    refine (if_neg (by change ¬(!u.gValid (fld m.body 8 1)) = true; rw [hug]; decide)).trans ?_
    change (match (u.part p).step with | some y => ite _ _ _ | none => _) = _
    rw [huy]
    exact if_neg (by simp [hno])
  refine answers_of_exec e ⟨State.gone_leaveStep huy .., fun ha => ?_⟩
  have hl : (u.leaveStep p (fld m.body 12 2) (fld m.body 10 2) (fld m.body 9 1 == 1) false).regs = u.regs := by
    rw [State.leaveStep, huy]
    dsimp only
    rw [if_pos (by simp [ha])]
    rfl
  have hr : v.reg rWITHDRAW_CNT = s.reg rWITHDRAW_CNT :=
    (((s.take m).passWithdraw_regs m).reg _ not_isRelayCnt_faults.2.1).trans (s.take_reg m (by decide))
  rw [State.reg_congr hl, State.reg_congr hl]
  exact State.withdrawSeen_regs hr (hv.regsWf hs.regsWf) ((State.powered_congr (hv.domOn id (.inl id)) _).trans hp)

/-- A withdrawal of a dead member is counted and stale (R423). -/
theorem withdraw_of_dead {s : State} {m : Msg} (hs : s.sound) (hd : due s m 0x1E) (hlen : m.body.length = 16)
    (h14 : rsv m.body 14 2 = true) (h9 : fld m.body 9 1 ≤ 1) (horig : fld m.body 12 2 < 512)
    (hdead : s.isDead (fld m.body 12 2) = true) (hg : s.gValid (fld m.body 8 1) = false)
    (hp : s.powered rWITHDRAW_CNT = true) (hp' : s.powered rXCH_STALE_CNT = true) : answers (.withdraw m) s (fun t =>
      t.parts = s.parts ∧ t.reg rWITHDRAW_CNT = satAdd (s.reg rWITHDRAW_CNT) 1
        ∧ t.reg rXCH_STALE_CNT = satAdd (s.reg rXCH_STALE_CNT) 1) := by
  let u := s.stale m
  have hu : s.Same takeTouch u := State.bump_same _ _ (s.take_touch m) trivial
  have e : exec (.withdraw m) s = .next u.withdrawSeen := by
    obtain ⟨h1, h2, h3, h4⟩ := hd
    change execWithdraw m s = _
    unfold execWithdraw
    dsimp only
    rw [if_neg (by simp [hg]), if_pos (by simp [h1, h2, h3, h4, hlen, h14, h9, horig, hdead])]
    rfl
  have hwt := (s.take_touch m).regsWf hs.regsWf
  have hwf : spWf u.regs = true := hu.regsWf hs.regsWf
  have hr : u.reg rWITHDRAW_CNT = s.reg rWITHDRAW_CNT :=
    (State.reg_bump_ne hwt _ (by decide)).trans (s.take_reg m (by decide))
  refine answers_of_exec e ⟨?_, (State.withdrawSeen_regs hr hwf
    ((State.powered_congr (hu.domOn id (.inl id)) _).trans hp)).1, ?_⟩
  · rw [State.withdrawSeen, State.raise_parts, State.bump_parts, hu.parts fun _ => ⟨id, id⟩]
  · rw [State.withdrawSeen, State.reg_raise_of_ne (State.spWf_regs_bump hwf _ _) _ (by decide), State.reg_bump_ne hwf _ (by decide)]
    exact State.take_bump_reg m hs.regsWf hp' (by decide) 1

/-! ### Waits -/

theorem State.toMember_regs (s : State) (dst typ : Nat) (body : Bytes) : s.RegsBut isRelayCnt (s.toMember dst typ body) := by
  unfold State.toMember
  split
  · exact .ofRegs rfl
  · exact s.send_regs ..

/-- A wait of 32 stitches more is reported once more (R341). -/
theorem waitSend_of_due {s : State} {p : Nat} {w : WaitSt} {x : StepSt} (hs : s.sound)
    (hx : (s.part p).step = some x) (hw : (s.part p).waits = [w]) (hmiss : s.missing p w.layer w.micro w.handler w.src ≠ [])
    (hdue : w.since + 32 * (w.sent + 1) ≤ s.stitch.count) (hp : s.powered rXCH_WAIT_CNT = true) :
    answers (.waitSend p w.layer w.micro w.handler) s (fun t => (t.part p).waits = [{ w with sent := w.sent + 1 }]
      ∧ t.reg rXCH_WAIT_CNT = satAdd (s.reg rXCH_WAIT_CNT) 1 ∧ (t.reg rXCH_EVT).getLsbD 3 = true ∧ t.mem = s.mem) := by
  let u := s.onPart p (fun y => { y with waits := y.waits.map (fun v => if v = w then { v with sent := v.sent + 1 } else v) })
  let v := (u.bump rXCH_WAIT_CNT 1).raise rXCH_EVT 3
  have hfind : (s.part p).waits.find? (s.waitDue p w.layer w.micro w.handler) = some w := by
    rw [hw, List.find?_cons_of_pos]
    simp [State.waitDue, hdue, hmiss]
  have e : exec (.waitSend p w.layer w.micro w.handler) s = .next (v.toMember (v.mgrOf v.pod) 0x0C
      (bodyWait x.stepNo w.layer w.micro w.handler v.member x.group (s.missing p w.layer w.micro w.handler w.src))) := by
    change execWaitSend p w.layer w.micro w.handler s = _
    rw [execWaitSend, hfind, hx]
  have hwf : spWf u.regs = true := hs.regsWf
  have hwf₁ := State.spWf_regs_bump hwf rXCH_WAIT_CNT 1
  have hpu : u.powered rXCH_WAIT_CNT = true := hp
  have hcnt : v.reg rXCH_WAIT_CNT = satAdd (s.reg rXCH_WAIT_CNT) 1 := by
    rw [State.reg_raise_of_ne hwf₁ _ (by decide), State.reg_bump_eq hwf hpu]
    rfl
  have hevt : (v.reg rXCH_EVT).getLsbD 3 = true := by
    refine State.getLsbD_reg_raise hwf₁ ?_ (by decide)
    rw [State.powered_bump, ← hpu]
    exact State.powered_of_family _ (by decide)
  have hvp : v.parts = u.parts := by rw [State.raise_parts, State.bump_parts]
  have hvm : v.mem = s.mem := by
    rw [State.raise_mem, State.bump_mem]
    rfl
  clear_value v
  let t := v.toMember (v.mgrOf v.pod) 0x0C
    (bodyWait x.stepNo w.layer w.micro w.handler v.member x.group (s.missing p w.layer w.micro w.handler w.src))
  have hr : v.RegsBut isRelayCnt t := v.toMember_regs _ _ _
  have ht : v.Same (fun f => f = .free ∨ f = .regs ∨ f = .link ∨ f = .power) t := by
    refine State.toMember_same _ _ _ (.refl v) ?_ ?_ ?_ ?_
    all_goals simp
  obtain ⟨-, -, -, -, h5, h6⟩ := not_isRelayCnt_faults
  refine answers_of_exec e ⟨?_, (hr.reg _ h5).trans hcnt, ?_, (ht.mem (by simp) (by simp)).trans hvm⟩
  · change (t.part p).waits = _
    rw [ht.part p (by simp) (by simp), State.part, hvp, ← State.part, State.part_onPart_self (State.lt_parts_of_step hx), hw]
    simp
  · change (t.reg rXCH_EVT).getLsbD 3 = true
    rw [hr.reg _ h6, hevt]

theorem State.addWait_of_nil {s : State} (hw : s.mgr.waits = []) (a : WaitAcct) : s.addWait a
    = (32, { s with mgr := { s.mgr with waits := [{ a with total := 32 }] } }) := by
  unfold State.addWait
  rw [hw]
  rfl

/-- The pod manager adds 32 for each member named (R422). -/
theorem waitMsg_of_due {s : State} {m : Msg} {a : Nat} (hd : due s m 0x0C) (hlen : m.body.length = 80)
    (h15 : rsv m.body 15 1 = true) (hmgr : s.podMgr = true) (hg : s.gValid (fld m.body 14 1) = true)
    (h11 : fld m.body 11 1 ≤ 11) (hdead : s.isDead (fld m.body 12 2) = false)
    (hone : (List.range 512).filter (fun i => bit (fld m.body (16 + i / 8) 1) (i % 8)) = [a]) (hnone : s.mgr.waits = [])
    (hfew : 32 < fld (s.sect 11) 8 4) : answers (.waitMsg m) s (fun t =>
      t.mgr.waits = [WaitAcct.mk (fld m.body 14 1) (fld m.body 0 8) (fld m.body 8 2) (fld m.body 10 1)
        (fld m.body 11 1) (fld m.body 12 2) a 32] ∧ t.link.inbox = s.link.inbox.erase m ∧ t.parts = s.parts
        ∧ poolOnly s t) := by
  have ht := s.take_touch m
  have hw : (s.take m).mgr.waits = [] := by rw [ht.mgr id, hnone]
  have hfew' : ¬fld (s.sect 11) 8 4 ≤ 32 := by omega
  have e : exec (.waitMsg m) s = .next { s.take m with mgr := { (s.take m).mgr with waits := [WaitAcct.mk (fld m.body 14 1)
      (fld m.body 0 8) (fld m.body 8 2) (fld m.body 10 1) (fld m.body 11 1) (fld m.body 12 2) a 32] } } := by
    change execWaitMsg m s = _
    unfold execWaitMsg
    dsimp only
    rw [if_neg (by simp [hlen, h15])]
    refine congrArg Host.Outcome.next ((State.mgrTake_of_due _ hd (by simp [hmgr, hg, h11]) hdead).trans ?_)
    rw [hone, List.foldl_cons, List.foldl_nil, State.addWait_of_nil hw]
    refine if_neg ?_
    rw [State.sect] at hfew' ⊢
    rwa [← ht.img id] at hfew'
  exact answers_of_exec e ⟨rfl, s.take_inbox m, ht.parts fun _ => ⟨id, id⟩,
    poolOnly_of_exec (by simp [State.allows, poolTouch]) e⟩

/-- A WAIT whose layout fails is recorded as corrupt (R308). -/
theorem waitMsg_of_layout {s : State} {m : Msg} (hd : due s m 0x0C) (hbad : m.body.length ≠ 80 ∨ rsv m.body 15 1 = false) :
    answers (.waitMsg m) s (fun t => t = s.corrupt m 1) := by
  obtain ⟨h1, h2, h3, -⟩ := hd
  refine answers_of_exec (if_pos ?_) rfl
  have hb : (decide (m.body.length = 80) && rsv m.body 15 1) = false := by
    rcases hbad with h | h
    · simp [h]
    · simp [h]
  simp [h1, h2, h3, hb]

/-! ### O13 -/

/-- Settles O13: each message of a death, a withdrawal or a wait is taken by its handler; what a handler sends touches no counter
of its own, and what the members gone do to the exchange leaves who is gone. -/
theorem deathsComplete : Obligations.DeathsComplete := by
  refine ⟨fun s m y hs hd hlen h9 h12 hx hg hp8 hdead _ hy hno hnew hp => ?_, fun s b hsv hmgr hb hdead hdue => ?_,
    fun s m hd hlen h4 hx _ horig => ?_, fun s m y hs hd hlen h14 h9 horig hg _ hdead hy hno hp => ?_,
    fun s m hs hd hlen h14 h9 horig hdead hg hp hp' => ?_,
    fun s p l m h w x hs _ hx hw hl hm hh hmiss hdue hp => ?_,
    fun s m a hd hlen h15 hmgr hg h11 hdead hone hnone hfew => ?_, fun s m hd hbad => ?_⟩
  · exact straggle_of_due hs hd hlen h9 h12 hx hg hp8 hdead hy hno hnew hp
  · exact deadDeclare_of_due hsv hmgr hb hdead hdue
  · exact dead_of_due hd hlen h4 hx horig
  · exact withdraw_of_due hs hd hlen h14 h9 horig hg hdead hy hno hp
  · exact withdraw_of_dead hs hd hlen h14 h9 horig hdead hg hp hp'
  · subst hl hm hh
    exact waitSend_of_due hs hx hw hmiss hdue hp
  · exact waitMsg_of_due hd hlen h15 hmgr hg h11 hdead hone hnone hfew
  · exact waitMsg_of_layout hd hbad

end Sys2Proof.Machine
end

section
/-! SUPPORT. The replay of a recorded entry (R397 to R405; O14). -/

-- One declaration after another: the check bounds the memory, and with it the threads.
set_option Elab.async false

namespace Sys2Proof.Machine

/-! ### A REPLAY begins -/

/-- A REPLAY stands at HEAD with its entry taken. -/
def replayBegun (s : State) (g : Nat) (d : Bytes) (r : Rep) (t : State) : Prop :=
  (t.group g).head = (s.group g).head ∧ t.mem = s.mem ∧ t.parts = s.parts
    ∧ ∃ c, (t.group g).cur = some c ∧ c.phase = 1 ∧ c.seq = fld d 4 4 ∧ c.desc = d ∧ c.epochs = r.tabs.epochs
      ∧ c.job.map (fun j => j.pass.toks) = if r.rowTd d = 0 then none else some r.toks

/-- What the reads of a REPLAY touch. -/
def readTouch : Touch → Prop
  | .regs | .memp | .power => True
  | _ => False

/-- The command of a group whose command is changed. -/
theorem State.group_onCur {s : State} {g : Nat} {x : Group} {c : Cmd} (hg : g < s.groups.length)
    (hx : s.group g = { x with cur := some c }) (f : Cmd → Cmd) :
    (s.onGroup g (fun y => { y with cur := y.cur.map f })).group g = { x with cur := some (f c) } := by
  rw [State.group_onGroup_self hg, hx]
  rfl

theorem State.startRep_begun {s : State} {g : Nat} (hg : g < s.groups.length) (d : Bytes) (r : Rep) :
    replayBegun s g d r (s.startRep g d r) := by
  unfold State.startRep
  extract_lets p k rows u v w h y td y₁ q₀ q
  have hu : u.group g = { s.group g with cur := some { freshCmd 1 d with epochs := r.tabs.epochs } } := by
    have hb := State.begin_group hg 1 d
    have hl : g < (s.begin g 1 d).groups.length := by simpa [State.begin, State.onGroup] using hg
    unfold u
    rw [State.bindCmd, State.group_onGroup_self hl, hb]
    rfl
  have hv : u.Same readTouch v := .foldl _ _ (fun u o h => State.useTd_same _ _ h trivial) (.refl u)
  have hw : u.Same readTouch w := .ofIte (fun _ => State.fetchInputs_same _ _ _ _ _ hv trivial trivial) fun _ => hv
  have hy : u.Same readTouch y :=
    .ofIte (fun _ => State.fetchInputs_same _ _ _ _ _ hw trivial trivial) fun _ =>
      .ofIte (fun _ => State.fetchInputs_same _ _ _ _ _ hw trivial trivial) fun _ => hw
  have hy₁ : u.Same readTouch y₁ :=
    State.fetchInputs_same _ _ _ _ _ (State.issueReads_same _ _ hy trivial trivial) trivial trivial
  have hul : g < u.groups.length := by simpa [u, State.bindCmd, State.begin, State.onGroup] using hg
  have hum : u.mem = s.mem ∧ u.parts = s.parts := ⟨rfl, rfl⟩
  clear_value u
  split
  · next h0 =>
    have hyg : y.group g = u.group g := hy.group g id
    refine ⟨by rw [hyg, hu], (hy.mem id id).trans hum.1, (hy.parts fun _ => ⟨id, id⟩).trans hum.2,
      { freshCmd 1 d with epochs := r.tabs.epochs }, by rw [hyg, hu], rfl, rfl, rfl,
      rfl, (if_pos h0).symm⟩
  · next h0 =>
    have hyg : y₁.group g = u.group g := hy₁.group g id
    have hlen : g < y₁.groups.length := by
      rw [hy₁.groups fun _ => id]
      exact hul
    have hq : some q.toks = if r.rowTd d = 0 then none else some r.toks := (if_neg h0).symm
    clear_value q y₁
    have hf := State.group_onCur hlen (hyg.trans hu) (fun c => { c with
      job := some { pass := q, e := r.tabs.e, pr := r.tabs.pr
                    scores := r.target == 1 || r.target == 2 || r.target == 4 } })
    have hhead := congrArg Group.head hf
    have hcur := congrArg Group.cur hf
    exact ⟨hhead, (hy₁.mem id id).trans hum.1, (hy₁.parts fun _ => ⟨id, id⟩).trans hum.2, _,
      hcur, rfl, rfl, rfl, rfl, hq⟩

/-- A REPLAY whose entry and descriptors are sound begins and stays at HEAD (R397). -/
theorem runReplay_begins {s : State} {g target : Nat} {d : Bytes} {r : Rep}
    (f : State → Nat → Bytes → Rep → List Tok → State × Nat × Bool) (h : taken s g d 5 (repReads g)) (hcur : (s.group g).cur = none)
    (hfree : s.coresFree g (fld d 24 2) = true) (hr : s.repOf g [] d = .inl r) (ht : fld d 26 1 = target) :
    replayBegun s g d r (s.runReplay g target f) := by
  obtain ⟨hs, hg, -, -, -, ho, -⟩ := h.facts
  rw [State.runReplay, hcur]
  dsimp only
  rw [h.runDesc (by simp [isReplay, ho, ht]) h.toRead]
  rw [if_neg (by simp [hfree]), hr]
  exact State.startRep_begun (hs.groupsLen.symm ▸ hg) d r

/-! ### A REPLAY ends its run -/

/-- What the run of a REPLAY touches before it is over. -/
def runTouch : Touch → Prop
  | .free | .regs | .mem | .memp | .power => True
  | _ => False

/-- The end of a run: its register, and a command that waits for its writes. -/
def replayRan (s : State) (g : Nat) (c : Cmd) (o : State × Nat × Bool) (t : State) : Prop :=
  (t.group g).cur.map (·.phase) ≠ some 1
    ∧ t.reg rJRN_LAST_REPLAY = BitVec.ofNat 32 (g % 64 + 256 * (fld c.desc 24 2 % 256) + 65536 * min 65535 o.2.1)
    ∧ (o.1.cmdWriting g = true → t.mem = o.1.mem ∧ (t.group g).cur = some { c with phase := 3 }
      ∧ (t.group g).head = (s.group g).head)

theorem State.cmdWritten_regs (s : State) (g : Nat) : s.RegsBut isAcctCnt (s.cmdWritten g) := by
  unfold State.cmdWritten
  split
  · split
    · split
      · exact s.completeCmd_regs ..
      · exact s.completeCmd_regs ..
    · exact .refl s
  · exact .refl s

theorem not_isAcctCnt_replay : ¬isAcctCnt rJRN_LAST_REPLAY := by
  simp only [isAcctCnt, rJRN_LAST_REPLAY, rACCT_DONE, rACCT_ABORT]
  rintro ⟨c, hc, h | h⟩ <;> omega

theorem State.replayDone_ran {s u : State} {g bad : Nat} {c : Cmd} {diff : Bool} (hu : s.Same runTouch u)
    (hwf : spWf s.regs = true) (hp : s.powered rJRN_LAST_REPLAY = true) (hc : (s.group g).cur = some c) :
    replayRan s g c (u, bad, diff) (u.replayDone g (fld c.desc 24 2) bad diff) := by
  have hg : g < u.groups.length := by
    rw [hu.groups fun _ => id]
    exact State.lt_groups_of_cur hc
  have hug : u.group g = s.group g := hu.group g id
  unfold State.replayDone
  extract_lets word v w y
  have hpu : u.powered rJRN_LAST_REPLAY = true := (State.powered_congr (hu.domOn id (.inl id)) _).trans hp
  have hwu : spWf u.regs = true := hu.regsWf hwf
  have hv : u.Same (· = .regs) v := State.latch_same _ _ (.refl u) rfl
  have hw : u.Same (· = .regs) w :=
    .ofIte (fun _ => State.raise_same _ _ (State.bump_same _ _ hv rfl) rfl) fun _ => hv
  have hvr : v.reg rJRN_LAST_REPLAY = word := by
    unfold v
    rw [State.latch, if_pos hpu]
    exact State.reg_setReg_self _ hwu
  have hwr : w.reg rJRN_LAST_REPLAY = word := by
    have hvw : spWf v.regs = true := hv.regsWf hwu
    unfold w
    split
    · rw [State.reg_raise_of_ne (State.spWf_regs_bump hvw _ _) _ (by decide), State.reg_bump_ne hvw _ (by decide), hvr]
    · exact hvr
  have hwg : w.group g = s.group g := (hw.group g nofun).trans hug
  have hwl : g < w.groups.length := by
    rw [hw.groups fun _ => nofun]
    exact hg
  have hyg : y.group g = { s.group g with cur := some { c with phase := 3 } } := by
    unfold y
    rw [State.group_onGroup_self hwl, hwg, hc]
    rfl
  have hyc : (y.group g).cur = some { c with phase := 3 } := by rw [hyg]
  have hym : y.memp = u.memp ∧ y.mem = u.mem := ⟨hw.memp nofun, hw.mem nofun nofun⟩
  have hyi : y.img = u.img := hw.img nofun
  have hyr : y.reg rJRN_LAST_REPLAY = word := hwr
  clear_value y
  have hwrit : y.cmdWriting g = u.cmdWriting g := by
    have hw : y.writing = u.writing := by
      funext o
      rw [State.writing, State.writing, hym.1]
    have hgp : y.gPart g = u.gPart g := by
      rw [State.gPart, State.gPart, State.gcfg, State.gcfg, State.sect, State.sect, hyi]
    rw [State.cmdWriting, State.cmdWriting, hw, hgp]
  refine ⟨?_, ((y.cmdWritten_regs g).reg _ not_isAcctCnt_replay).trans hyr, fun hwriting => ?_⟩
  · unfold State.cmdWritten
    rw [hyc]
    dsimp only
    have hdone (status fault : Nat) : ((y.completeCmd g status fault).group g).cur = none := by
      obtain ⟨b, e⟩ := State.completeCmd_group hyc status fault
      rw [e]
    split
    · split
      · rw [hdone]
        nofun
      · rw [State.answer, hdone]
        nofun
    · rw [hyc]
      simp
  · have e : y.cmdWritten g = y := by
      rw [State.cmdWritten, hyc]
      exact if_neg (by simp [hwrit, show u.cmdWriting g = true from hwriting])
    rw [e, hyg]
    exact ⟨hym.2, rfl, rfl⟩

/-- Once its inputs are here and its rows are done a REPLAY writes its output (R398 to R405). -/
theorem runReplay_ran {s : State} {g target : Nat} {c : Cmd} {r : Rep}
    {f : State → Nat → Bytes → Rep → List Tok → State × Nat × Bool} (hs : s.sound) (hc : (s.group g).cur = some c) (h1 : c.phase = 1)
    (hsaved : c.saved = 0) (hcut : c.cut = false) (hend : c.endAs = none) (hread : s.reading (.command g) = false)
    (hop : fld c.desc 0 1 = 5) (hup : (s.part (s.gPart g)).state = 1) (hi : s.mayIssue (s.gPart g) = true)
    (hheld : s.layerHeld (s.gPart g) (fld c.desc 24 2) = false) (hr : s.repOf g c.epochs c.desc = .inl r)
    (hrows : c.job.all (fun j => j.done && j.pass.toks.all (s.rowOver (.batch g) j)) = true)
    (hp : s.powered rJRN_LAST_REPLAY = true) (ht : fld c.desc 26 1 = target)
    (hf : s.Same runTouch (f s g c.desc r ((c.job.map (·.pass.toks)).getD [])).1) :
    replayRan s g c (f s g c.desc r ((c.job.map (·.pass.toks)).getD [])) (s.runReplay g target f) := by
  have hany : c.job.any (fun j => !j.done || !j.pass.toks.all (s.rowOver (.batch g) j)) = false := by
    cases hj : c.job with
    | none => rfl
    | some j =>
      rw [hj] at hrows
      rw [Option.any_some, ← Bool.not_and, show (j.done && j.pass.toks.all (s.rowOver (.batch g) j)) = true from hrows]
      rfl
  rw [State.runReplay, hc]
  dsimp only
  rw [if_neg (by simp [h1, hsaved, hcut, hend, hread, hop, hup, hi, hheld, isReplay, ht, hany]), hr]
  exact State.replayDone_ran hf hs.regsWf hp hc

/-! ### O14 -/

/-- Settles O14: a REPLAY of every target begins by `runReplay` and ends by it; the six targets differ in what their run touches
besides the group alone. -/
theorem replaysComplete : Obligations.ReplaysComplete := by
  refine ⟨fun s g d r h hcur hfree hr => ?_, fun s g c r hs _ hc h1 hsaved hcut hend hread hop hup hi hheld hr hrows hp => ?_⟩
  · have begun (target : Nat) (f : State → Nat → Bytes → Rep → List Tok → State × Nat × Bool) (ht : fld d 26 1 = target) :=
      runReplay_begins f h hcur hfree hr ht
    exact ⟨fun ht => answers_of_exec rfl (begun 0 _ ht), fun ht => answers_of_exec rfl (begun 1 _ ht),
      fun ht => answers_of_exec rfl (begun 2 _ ht), fun ht => answers_of_exec rfl (begun 3 _ ht),
      fun ht => answers_of_exec rfl (begun 4 _ ht), fun ht => answers_of_exec rfl (begun 5 _ ht)⟩
  · have ran (target : Nat) (f : State → Nat → Bytes → Rep → List Tok → State × Nat × Bool) (ht : fld c.desc 26 1 = target)
        (hf : s.Same runTouch (f s g c.desc r ((c.job.map (·.pass.toks)).getD [])).1) :=
      runReplay_ran hs hc h1 hsaved hcut hend hread hop hup hi hheld hr hrows hp ht hf
    refine ⟨fun ht => answers_of_exec rfl (ran 0 _ ht ?_), fun ht => answers_of_exec rfl (ran 1 _ ht ?_),
      fun ht => answers_of_exec rfl (ran 2 _ ht ?_), fun ht => answers_of_exec rfl (ran 3 _ ht ?_),
      fun ht => answers_of_exec rfl (ran 4 _ ht ?_), fun ht => answers_of_exec rfl (ran 5 _ ht ?_)⟩
    · exact State.replayNormNow_same g _ _ _ (.refl s) trivial trivial trivial trivial
    · exact State.replayScoresNow_same g _ _ _ (.refl s) trivial trivial trivial trivial
    · exact State.replayTicketsNow_same g _ _ _ (.refl s) trivial trivial trivial trivial
    · exact State.replayPayloadNow_same g _ _ _ (.refl s) trivial trivial trivial trivial
    · exact State.replayCombineNow_same g _ _ _ (.refl s) trivial trivial trivial trivial trivial
    · exact State.replayReduceNow_same g _ _ _ (.refl s) trivial trivial trivial trivial

end Sys2Proof.Machine
end

section
/-! SUPPORT. Normalisation and the plan of a row block (R18, R28, R183, R187 to R189; O46). -/

-- One declaration after another: the check bounds the memory, and with it the threads.
set_option Elab.async false

namespace Sys2Proof.Machine

/-! ### The rows of a block are normalised -/

/-- What the normalisation of rows touches. -/
def normTouch : Touch → Prop
  | .regs | .cores | .power => True
  | _ => False

/-- The rows of a block one after the other, with what they leave. -/
def State.normRows (s : State) (p : Nat) (ref : JobRef) (j : Job) (ts : List Tok) : State × List Tok :=
  ts.foldl (fun (a : State × List Tok) t =>
    let (s, u) := a.1.normTok p ref j t
    (s, a.2 ++ [u])) (s, [])

theorem State.normTok_row (s : State) (p : Nat) (ref : JobRef) (j : Job) (t : Tok) : (s.normTok p ref j t).2.row = t.row := by
  unfold State.normTok
  split <;> rfl

theorem normRows_foldl (p : Nat) (ref : JobRef) (j : Job) (ts : List Tok) (a : State × List Tok) :
    let b := ts.foldl (fun (a : State × List Tok) t =>
      let (s, u) := a.1.normTok p ref j t
      (s, a.2 ++ [u])) a
    a.1.Same normTouch b.1 ∧ b.2.map (·.row) = a.2.map (·.row) ++ ts.map (·.row) := by
  induction ts generalizing a with
  | nil => exact ⟨.refl _, (List.append_nil _).symm⟩
  | cons t ts ih =>
    obtain ⟨h1, h2⟩ := ih ((a.1.normTok p ref j t).1, a.2 ++ [(a.1.normTok p ref j t).2])
    refine ⟨.trans (State.normTok_same p ref j t (.refl a.1) trivial trivial trivial) h1, h2.trans ?_⟩
    rw [List.map_append, List.map_cons, List.map_nil, State.normTok_row, List.append_assoc]
    rfl

theorem State.normRows_same (s : State) (p : Nat) (ref : JobRef) (j : Job) (ts : List Tok) :
    s.Same normTouch (s.normRows p ref j ts).1 := (normRows_foldl p ref j ts (s, [])).1

theorem State.normRows_rows (s : State) (p : Nat) (ref : JobRef) (j : Job) (ts : List Tok) :
    (s.normRows p ref j ts).2.map (·.row) = ts.map (·.row) := (normRows_foldl p ref j ts (s, [])).2

/-- A pass with the rows of one block in the place of the old ones. -/
def normalisedPass (b : Nat) (us : List Tok) (q : Pass) : Pass := { q with
  blocks := q.blocks ++ [b]
  toks := q.toks.take (8 * b) ++ us ++ q.toks.drop (8 * b + us.length) }

theorem normalisedPass_rows {b : Nat} {us : List Tok} {q : Pass} (h : us.map (·.row) = (blockToks q b).map (·.row)) :
    (normalisedPass b us q).toks.map (·.row) = q.toks.map (·.row) := by
  have hl : us.length = (blockToks q b).length := by simpa using congrArg List.length h
  have hb : blockToks q b = (q.toks.drop (8 * b)).take us.length := by
    rw [hl, blockToks, List.length_take, ← List.take_take, List.take_length]
  change (q.toks.take (8 * b) ++ us ++ q.toks.drop (8 * b + us.length)).map (·.row) = _
  rw [List.map_append, List.map_append, h, hb, ← List.map_append, ← List.map_append, ← List.drop_drop, List.append_assoc,
    List.take_append_drop, List.take_append_drop]

/-- The normalisation of a resident row block, as one step (R183). -/
theorem exec_normalise {s : State} {p b : Nat} {ref : JobRef} {j : Job} (hj : s.job p = some (ref, j)) (hb : b ∉ j.pass.blocks)
    (hn : blockToks j.pass b ≠ []) (hi : s.mayIssue p = true) (haw : s.rowsAwaited p ref j.pass (blockToks j.pass b) = false)
    (hheld : s.jobHeld ref = false) (hover : b < 2 ∨ (blockToks j.pass (b - 2)).all (s.rowOver ref j) = true) :
    let r := s.normRows p ref j (blockToks j.pass b)
    let t := r.1.onJob p ref (normalisedPass b r.2)
    exec (.normalise p b) s = .next (if j.scores then t.issueRouter p j.e j.pr j.pass.layer b else t) := by
  change execNormalise p b s = _
  rw [execNormalise, hj]
  dsimp only
  rw [if_neg ?_]
  · rfl
  · rcases hover with h | h
    · simp [hb, hn, hi, haw, hheld, Nat.not_le.mpr h]
    · simp only [hb, hn, hi, haw, hheld, h, List.contains_eq_mem, List.isEmpty_iff]
      simp

section
variable {s : State} {p b : Nat} {ref : JobRef} {j : Job} (hj : s.job p = some (ref, j)) (hb : b ∉ j.pass.blocks)
    (hn : blockToks j.pass b ≠ []) (hi : s.mayIssue p = true) (haw : s.rowsAwaited p ref j.pass (blockToks j.pass b) = false)
    (hheld : s.jobHeld ref = false) (hover : b < 2 ∨ (blockToks j.pass (b - 2)).all (s.rowOver ref j) = true)
include hj hb hn hi haw hheld hover

theorem normalise_of_step {l : Nat} (hl : ref = .step l) (hq : s.pass p l = some j.pass) : answers (.normalise p b) s (fun t =>
    (∃ r, t.pass p l = some r ∧ r.blocks = j.pass.blocks ++ [b] ∧ r.tickets = j.pass.tickets
      ∧ r.toks.map (·.row) = j.pass.toks.map (·.row)) ∧ t.mem = s.mem) := by
  have e := exec_normalise hj hb hn hi haw hheld hover
  have hsame := s.normRows_same p ref j (blockToks j.pass b)
  have hrows := normalisedPass_rows (q := j.pass) (s.normRows_rows p ref j (blockToks j.pass b))
  subst hl
  dsimp only at e
  generalize s.normRows p (.step l) j (blockToks j.pass b) = r at e hsame hrows
  have hrq : r.1.pass p l = some j.pass := (State.pass_congr (hsame.parts fun _ => ⟨id, id⟩) p l).trans hq
  let t := r.1.onJob p (.step l) (normalisedPass b r.2)
  have ht : t.pass p l = some (normalisedPass b r.2 j.pass) := State.pass_onPass (fun _ => rfl) hrq
  have htm : t.mem = s.mem := hsame.mem id id
  have hend : t.Same (fun f => f = .memp ∨ f = .power) (if j.scores then t.issueRouter p j.e j.pr j.pass.layer b else t) :=
    .ofIte (fun _ => State.issueRouter_same _ _ _ _ _ (.refl t) (by simp) (by simp)) fun _ => .refl t
  refine answers_of_exec e ⟨⟨normalisedPass b r.2 j.pass, ?_, rfl, rfl, hrows⟩, (hend.mem (by simp) (by simp)).trans htm⟩
  exact (State.pass_congr (hend.parts fun _ => by simp) p l).trans ht

theorem normalise_of_batch {g : Nat} {c : Cmd} (hl : ref = .batch g) (hg : g < s.groups.length) (hc : (s.group g).cur = some c)
    (hcj : c.job = some j) : answers (.normalise p b) s (fun t =>
      (∃ d r, (t.group g).cur = some d ∧ d.job = some r ∧ r.pass.blocks = j.pass.blocks ++ [b]
        ∧ r.pass.tickets = j.pass.tickets ∧ r.pass.toks.map (·.row) = j.pass.toks.map (·.row)) ∧ t.mem = s.mem) := by
  have e := exec_normalise hj hb hn hi haw hheld hover
  have hsame := s.normRows_same p ref j (blockToks j.pass b)
  have hrows := normalisedPass_rows (q := j.pass) (s.normRows_rows p ref j (blockToks j.pass b))
  subst hl
  dsimp only at e
  generalize s.normRows p (.batch g) j (blockToks j.pass b) = r at e hsame hrows
  let t := r.1.onJob p (.batch g) (normalisedPass b r.2)
  have hrg : r.1.group g = { s.group g with cur := some c } := by
    rw [hsame.group g id, ← hc]
  have hrl : g < r.1.groups.length := by rwa [hsame.groups fun _ => id]
  have ht : (t.group g).cur = some { c with job := some { j with pass := normalisedPass b r.2 j.pass } } := by
    have h := State.group_onCur hrl hrg (fun c => { c with
      job := c.job.map (fun j => { j with pass := normalisedPass b r.2 j.pass }) })
    have h' := congrArg Group.cur h
    rw [hcj] at h'
    exact h'
  have htm : t.mem = s.mem := hsame.mem id id
  have hend : t.Same (fun f => f = .memp ∨ f = .power) (if j.scores then t.issueRouter p j.e j.pr j.pass.layer b else t) :=
    .ofIte (fun _ => State.issueRouter_same _ _ _ _ _ (.refl t) (by simp) (by simp)) fun _ => .refl t
  refine answers_of_exec e ⟨⟨{ c with job := some { j with pass := normalisedPass b r.2 j.pass } },
    { j with pass := normalisedPass b r.2 j.pass }, ?_, rfl, rfl, rfl, hrows⟩, (hend.mem (by simp) (by simp)).trans htm⟩
  rw [hend.group g (by simp)]
  exact ht

end

/-! ### The plan of a row block -/

theorem spanOf_cases (a t : Nat) : spanOf a t = 1 ∨ spanOf a t = 2 ∧ 2 ≤ min a t ∨ spanOf a t = 4 ∧ 4 ≤ min a t := by
  unfold spanOf
  dsimp only
  split
  · exact .inr (.inr ⟨rfl, ‹_›⟩)
  · split
    · exact .inr (.inl ⟨rfl, ‹_›⟩)
    · exact .inl rfl

/-- The tiles of one chunk go to units of 1, 2 or 4 arrays (R187). -/
theorem assignTiles_spans (mk : List (Nat × Nat) → Run) (hmk : ∀ sp, (mk sp).span = sp) (n : Nat) (us : List (List Nat)) (ts : List Nat)
    (hu : ∀ u ∈ us, u ≠ []) : (∀ r ∈ (assignTiles mk n us ts).1, r.span.length = 1 ∨ r.span.length = 2 ∨ r.span.length = 4)
      ∧ ∀ u ∈ (assignTiles mk n us ts).2, u ≠ [] := by
  induction n generalizing us ts with
  | zero => exact ⟨nofun, hu⟩
  | succ n ih =>
    match us, ts with
    | [], _ => exact ⟨nofun, hu⟩
    | u :: us, [] => exact ⟨nofun, hu⟩
    | u :: us, t :: ts =>
      have hu' : ∀ v ∈ us ++ [u], v ≠ [] := fun v hv => hu v (by simpa [or_comm] using hv)
      obtain ⟨h1, h2⟩ := ih (us ++ [u]) ((t :: ts).drop (spanOf u.length (ts.length + 1))) hu'
      refine ⟨fun r hr => ?_, h2⟩
      rcases List.mem_cons.mp hr with rfl | hr
      · have hpos : 0 < u.length := List.length_pos_iff.mpr (hu u List.mem_cons_self)
        rw [hmk, List.length_zip, List.length_take, List.length_cons]
        rcases spanOf_cases u.length (ts.length + 1) with h | ⟨h, hle⟩ | ⟨h, hle⟩
        · omega
        · omega
        · omega
      · exact h1 r hr

/-- The tiles of every task go to units of 1, 2 or 4 arrays. -/
theorem assignTasks_spans {α : Type} (mk : α → List (Nat × Nat) → Run) (hmk : ∀ t sp, (mk t sp).span = sp) (n : α → Nat)
    (tiles : α → List Nat) (tasks : List α) (a : List Run × List (List Nat))
    (ha : ∀ r ∈ a.1, r.span.length = 1 ∨ r.span.length = 2 ∨ r.span.length = 4) (hu : ∀ u ∈ a.2, u ≠ []) :
    ∀ r ∈ (tasks.foldl (fun (a : List Run × List (List Nat)) t =>
      (a.1 ++ (assignTiles (mk t) (n t) a.2 (tiles t)).1, (assignTiles (mk t) (n t) a.2 (tiles t)).2)) a).1,
      r.span.length = 1 ∨ r.span.length = 2 ∨ r.span.length = 4 := by
  induction tasks generalizing a with
  | nil => exact ha
  | cons t tasks ih =>
    obtain ⟨h1, h2⟩ := assignTiles_spans (mk t) (hmk t) (n t) a.2 (tiles t) hu
    refine ih _ (fun r hr => ?_) h2
    rcases List.mem_append.mp hr with hr | hr
    · exact ha r hr
    · exact h1 r hr

theorem planBlock_spans {p b : Nat} {ref : JobRef} {j : Job} {major : Bool} {units : List (List Nat)} (hu : ∀ u ∈ units, u ≠ []) :
    ∀ r ∈ planBlock p ref j b major units, r.span.length = 1 ∨ r.span.length = 2 ∨ r.span.length = 4 := by
  unfold planBlock
  exact assignTasks_spans _ (fun _ _ => rfl) _ _ _ _ nofun hu

/-! ### A run issues -/

/-- A count goes up at the arrays that a run spans. -/
theorem getD_foldl_count (sp : List (Nat × Nat)) (cnt : List Nat) {a : Nat} (ha : a < cnt.length) :
    (sp.foldl (fun n x => setAt n x.1 (· + 1)) cnt).getD a 0 = cnt.getD a 0 + (sp.map (·.1)).count a := by
  induction sp generalizing cnt with
  | nil => rfl
  | cons x sp ih =>
    have hl : a < (setAt cnt x.1 (· + 1)).length := by simpa using ha
    rw [List.foldl_cons, ih _ hl, List.map_cons, List.count_cons, getD_setAt]
    by_cases h : x.1 = a
    · subst h
      simp [ha]
      omega
    · simp [h]

theorem State.job_layer {s : State} {p l : Nat} {j : Job} (h : s.job p = some (.step l, j)) : j.pass.layer = l := by
  unfold State.job at h
  split at h
  · obtain ⟨k, -, e⟩ := Option.map_eq_some_iff.mp h
    cases e
  · split at h
    · cases h
    · obtain ⟨q, -, e⟩ := Option.map_eq_some_iff.mp h
      cases e
      rfl

theorem State.planned_layer (s : State) (p : Nat) (ref : JobRef) (j : Job) : (s.planned p ref j).layer = j.pass.layer := by
  unfold State.planned
  dsimp only
  split <;> rfl

/-- A pass of its layer in the place of the one that was there. -/
theorem State.pass_onPass_const {s : State} {p l : Nat} {q w : Pass} (hq : q.layer = l) (hw : s.pass p l = some w) :
    (s.onPass p l (fun _ => q)).pass p l = some q := by
  have hwl : w.layer = l := State.pass_layer hw
  have e : s.onPass p l (fun _ => q) = s.onPass p l (fun r => if r.layer = l then q else r) := by
    rw [State.onPass, State.onPass]
    congr 1
    funext x
    rw [onPassOf, onPassOf]
    congr 1
    refine List.map_congr_left fun r _ => ?_
    split
    · rfl
    · rfl
  have hkeep (r : Pass) : (if r.layer = l then q else r).layer = r.layer := by
    split
    · next h => rw [hq, h]
    · rfl
  rw [e, State.pass_onPass hkeep hw, if_pos hwl]

theorem pressRunIssue_of_ready {s : State} {p a n : Nat} {ref : JobRef} {j : Job} {r : Run} (hj : s.job p = some (ref, j))
    (hfirst : firstFor (s.openRuns ref (s.planned p ref j)) a = some r) (hmem : (a, n) ∈ r.span)
    (hready : s.runReady p j (s.openRuns ref (s.planned p ref j)) r = true) :
    answers (.pressRunIssue p a r.block n r.setNo r.seg) s (fun t =>
      t.press.runs = s.press.runs ++ r.span.map (fun x => { r with span := [x] })
        ∧ ((r.span.map (·.1)).Nodup → a < s.press.runCnt.length → t.press.runCnt.getD a 0 = s.press.runCnt.getD a 0 + 1)
        ∧ (∀ l w, ref = .step l → s.pass p l = some w → ∃ v, t.pass p l = some v ∧ v.plan = (s.planned p ref j).plan.erase r)
        ∧ t.mem = s.mem ∧ t.regs = s.regs) := by
  have e : exec (.pressRunIssue p a r.block n r.setNo r.seg) s = .next (s.issueRun p ref j (s.planned p ref j) r) := by
    change execPressRunIssue p a r.block n r.setNo r.seg s = _
    rw [execPressRunIssue, hj]
    dsimp only
    rw [hfirst]
    dsimp only
    rw [if_pos (by simp [hready, hmem])]
  have hpress : (s.issueRun p ref j (s.planned p ref j) r).press = { s.press with
      runs := s.press.runs ++ r.span.map (fun x => { r with span := [x] })
      runCnt := r.span.foldl (fun n x => setAt n x.1 (· + 1)) s.press.runCnt } := by
    unfold State.issueRun State.onJob
    cases ref <;> rfl
  have hsame : s.Same (fun f => f ≠ .mem ∧ f ≠ .pool ∧ f ≠ .regs) (s.issueRun p ref j (s.planned p ref j) r) := by
    refine State.issueRun_same _ _ _ _ _ (.refl s) ?_ ?_ ?_ ?_
    all_goals simp
  refine answers_of_exec e ⟨by rw [hpress], fun hnd ha => ?_, fun l w hl hw => ?_, hsame.mem (by simp) (by simp), hsame.regs (by simp)⟩
  · rw [hpress]
    dsimp only
    rw [getD_foldl_count _ _ ha, List.count_eq_one_of_mem hnd (List.mem_map_of_mem (f := (·.1)) hmem)]
  · subst hl
    refine ⟨{ s.planned p (.step l) j with plan := (s.planned p (.step l) j).plan.erase r }, ?_, rfl⟩
    exact State.pass_onPass_const ((s.planned_layer p (.step l) j).trans (State.job_layer hj)) hw

/-! ### A run ends -/

/-- The runs of a state are among those of another. -/
def State.FewerRuns (s t : State) : Prop := ∀ r ∈ t.press.runs, r ∈ s.press.runs

/-- Everything but the Press. -/
def offPress : Touch → Prop
  | .press => False
  | _ => True

namespace State.FewerRuns

theorem refl (s : State) : s.FewerRuns s := fun _ h => h

theorem trans {s t u : State} (h : s.FewerRuns t) (k : t.FewerRuns u) : s.FewerRuns u := fun r hr => h r (k r hr)

theorem ofSame {s t : State} (h : s.Same offPress t) : s.FewerRuns t := fun r hr => by rwa [h.press id] at hr

theorem ofFilter {s t : State} (f : Run → Bool) (h : t.press.runs = s.press.runs.filter f) : s.FewerRuns t := fun r hr => by
  rw [h] at hr
  exact (List.mem_filter.mp hr).1

theorem foldl {α : Type} {f : State → α → State} (hf : ∀ (s : State) a, s.FewerRuns (f s a)) (l : List α) (s : State) :
    s.FewerRuns (l.foldl f s) := by
  induction l generalizing s with
  | nil => exact refl s
  | cons a l ih => exact (hf s a).trans (ih _)

theorem nil {s t : State} (h : s.FewerRuns t) (hs : s.press.runs = []) : t.press.runs = [] :=
  List.eq_nil_iff_forall_not_mem.mpr fun r hr => by
    have := h r hr
    rw [hs] at this
    exact absurd this List.not_mem_nil

end State.FewerRuns

theorem State.completeCmd_fewer (s : State) (g status fault : Nat) : s.FewerRuns (s.completeCmd g status fault) := by
  unfold State.completeCmd
  split
  · next c hc =>
    obtain ⟨k, m, o, n, ps, cs, -, e⟩ := State.complete_eq hc status fault 0 0 0xFFFFFFFF s.stitch.count [(fld c.desc 2 1, status)]
    rw [e]
    exact .ofFilter _ rfl
  · exact .refl s

theorem State.endWritten_fewer (s : State) (g status fault : Nat) (torn : Bool) : s.FewerRuns (s.endWritten g status fault torn) := by
  unfold State.endWritten State.endWhen
  split
  · split
    · split
      · exact .refl s
      · exact .ofSame (State.onGroup_same _ _ (.refl s) trivial)
    · exact s.completeCmd_fewer g status fault
  · exact .refl s

theorem State.teardown_fewer (s : State) (p fault : Nat) : s.FewerRuns (s.teardown p fault) := by
  unfold State.teardown
  split
  · exact .refl s
  extract_lets x layer u v w gs y c b₁ b₂ z o
  have hw : s.Same offPress w := State.onPart_same _ _ (State.latch_same _ _ (State.raise_same _ _
    (State.endAgain_same p (.refl s) trivial) trivial) trivial) trivial
  have hy : w.FewerRuns y := by
    refine .foldl (fun s g => ?_) gs w
    refine .trans (t := match (s.group g).cur with
      | some c => if c.phase = 2 then s else s.endWritten g 2 fault true
      | none => s) ?_ (.ofSame (State.onGroup_same _ _ (.refl _) trivial))
    split
    · split
      · exact .refl s
      · exact s.endWritten_fewer g 2 fault true
    · exact .refl s
  have hz : y.FewerRuns z := .ofFilter (fun r => r.part != p) rfl
  have ho : s.FewerRuns o := (State.FewerRuns.ofSame hw).trans (hy.trans
    (hz.trans (.ofSame (State.freeTorn_same p (.refl z) trivial))))
  clear_value o
  split
  · exact ho
  · next x₁ _ =>
    refine ho.trans (.ofSame (State.sendWithdraw_same _ _ _ (.foldl _ _ (fun u r h => ?_) (.foldl _ _ (fun u q h => ?_) (.refl o)))
      trivial trivial trivial trivial))
    · exact State.raiseAbort_same _ _ _ h trivial trivial trivial trivial trivial trivial trivial
    · have hd : o.Same offPress (q.micros.foldl (fun s m =>
          s.voidDest p q.layer x₁.stepNo (s.capPolicy p q.layer == 0) m) u) :=
        .foldl _ _ (fun u m h => State.voidDest_same _ _ _ _ _ h trivial trivial trivial trivial trivial) h
      refine .ofIte (fun _ => ?_) fun _ => hd
      exact State.sendFinal_same _ _ _ _ _ _ (State.voidSrc_same _ _ _ _ _ hd trivial trivial trivial trivial) trivial trivial
        trivial trivial

/-- A retirement leaves no run on its array, and the array is gone (R204). -/
theorem State.retireArray_of_one {s : State} {r : Run} {a n : Nat} (hruns : s.press.runs = [r]) (hspan : r.span = [(a, n)])
    (hon : bit s.units.arrays a = true) : (s.retireArray a).press.runs = [] ∧ bit (s.retireArray a).units.arrays a = false := by
  have hspans : r.span.any (fun x => x.1 == a) = true := by simp [hspan]
  unfold State.retireArray
  rw [if_neg (by simp [hon])]
  extract_lets p on y u v
  have hv : v.press.runs = [] := by
    rw [State.bump_press, State.raise_press]
    change s.press.runs.filter _ = []
    rw [hruns, List.filter_cons_of_neg (by simp [hspans]), List.filter_nil]
  have hvu : bit v.units.arrays a = false := by
    rw [State.bump_units, State.raise_units]
    exact (bit_setBit ..).trans (if_pos rfl)
  clear_value v
  split
  · exact ⟨hv, hvu⟩
  · split
    · exact ⟨(v.teardown_fewer p 11).nil hv, by
        rw [(State.teardown_same (F := (· ≠ .units)) p 11 (.refl v) nofun nofun nofun nofun nofun nofun nofun nofun nofun nofun nofun
          nofun nofun).units (by simp)]
        exact hvu⟩
    · next t ht =>
      have h (js : List JobRef) : v.Same (fun f => f = .memp ∨ f = .power ∨ (∃ p, f = .part p) ∨ ∃ g, f = .group g)
          (js.foldl (State.moveJob · p a t on ·) v) := by
        refine .foldl _ _ (fun u j h => State.moveJob_same _ _ _ _ _ h ?_ ?_ ?_ ?_) (.refl v)
        all_goals simp
      exact ⟨by rw [(h _).press (by simp), hv], by rw [(h _).units (by simp), hvu]⟩

section
variable {s : State} {r : Run} {a n l k : Nat} {q : Pass} {us : List Tok} {errs : List CellErr} (hruns : s.press.runs = [r])
  (hspan : r.span = [(a, n)]) (hjob : r.job = .step l) (hcur : s.curPass r.part = some q) (hlay : q.layer = l)
  (hset : setOf (leEtype (s.layerEnt r.part l)) (blockToks q r.block) r.setNo = some (us, k))
include hruns hspan hjob hcur hlay hset

/-- What the end of a run comes to. -/
theorem exec_pressRunEnd :
    let d := s.runData r.part (s.layerEnt r.part l) (s.profEnt r.part l) n r.seg k us
    let ps := withErrs k errs d.parts
    let c := runChecks k ((s.press.runCnt.getD a 1 - 1) % k) errs d.acts d.wts ps
    let u := (s.bump (rPR_SKIP_CNT (a / 4)) c.skips).holdAcc a (accOf k ps d.idle)
    exec (.pressRunEnd a errs) s = .next (if c.bad then u.failRun r a n c
      else ((if r.retry then (u.bump (rPR_RETRY_CNT (a / 4)) 1).raiseBucket a else u).leaveArray a).toAssembler r a n us ps) := by
  have hat : s.jobAt r.part (.step l) = some { pass := q, e := s.layerEnt r.part l, pr := s.profEnt r.part l, scores := true } := by
    rw [State.jobAt, hcur, Option.filter_some, if_pos (by simp [hlay])]
    rfl
  change execPressRunEnd a errs s = _
  rw [execPressRunEnd, hruns, List.find?_cons_of_pos (by simp [hspan])]
  dsimp only
  rw [hjob, hat, Option.bind_some, hset]
  dsimp only [Option.map_some]
  rw [hspan, List.find?_cons_of_pos (by simp)]
  rfl

/-- The partials of a run whose checks pass stand in the accumulators and are added (R190 to R203). -/
theorem pressRunEnd_of_good (hq : s.pass r.part l = some q) (hretry : r.retry = false)
    (hgood : (runChecks k ((s.press.runCnt.getD a 1 - 1) % k) errs
      (s.runData r.part (s.layerEnt r.part l) (s.profEnt r.part l) n r.seg k us).acts
      (s.runData r.part (s.layerEnt r.part l) (s.profEnt r.part l) n r.seg k us).wts
      (withErrs k errs (s.runData r.part (s.layerEnt r.part l) (s.profEnt r.part l) n r.seg k us).parts)).bad = false) :
    answers (.pressRunEnd a errs) s (fun t => t.press.runs = [] ∧ t.press.runCnt = s.press.runCnt ∧ t.mem = s.mem
      ∧ (a / 4 < s.cores.length → a % 4 < (s.core (a / 4)).acc.length → (t.core (a / 4)).acc.getD (a % 4) []
        = accOf k (withErrs k errs (s.runData r.part (s.layerEnt r.part l) (s.profEnt r.part l) n r.seg k us).parts)
          (s.runData r.part (s.layerEnt r.part l) (s.profEnt r.part l) n r.seg k us).idle)
      ∧ ∃ w, t.pass r.part l = some w ∧ w.toks = q.toks.map (fun u => match (us.map (·.row)).findIdx? (· == u.row) with
        | some i => addRun (s.assembler r.part n) n r.seg ((withErrs k errs
          (s.runData r.part (s.layerEnt r.part l) (s.profEnt r.part l) n r.seg k us).parts).map (fun g => g.getD i [])) u
        | none => u)) := by
  have e := exec_pressRunEnd (errs := errs) hruns hspan hjob hcur hlay hset
  dsimp only at e
  rw [if_neg (by rw [hgood]; decide), hretry, if_neg (by decide)] at e
  generalize (s.runData r.part (s.layerEnt r.part l) (s.profEnt r.part l) n r.seg k us) = d at e hgood ⊢
  generalize withErrs k errs d.parts = ps at e hgood ⊢
  generalize runChecks k ((s.press.runCnt.getD a 1 - 1) % k) errs d.acts d.wts ps = c at e hgood
  let u := s.bump (rPR_SKIP_CNT (a / 4)) c.skips
  let v := (u.holdAcc a (accOf k ps d.idle)).leaveArray a
  have hu : s.Same (· = .regs) u := State.bump_same _ _ (.refl s) rfl
  have hv : s.Same (fun f => f = .regs ∨ f = .cores ∨ f = .press) v := by
    refine State.leaveArray_same _ (State.holdAcc_same _ _ (State.bump_same _ _ (.refl s) ?_) ?_) ?_
    all_goals simp
  have hvp : v.pass r.part l = some q := (State.pass_congr (hv.parts fun _ => by simp) _ l).trans hq
  have hasm : v.assembler r.part n = s.assembler r.part n := by
    rw [State.assembler, State.coresOf, State.planArrays, State.pCores, State.pcfg, State.sect, hv.img (by simp),
      hv.part _ (by simp) (by simp)]
    rfl
  have hruns' : v.press.runs = [] := by
    change u.press.runs.filter _ = []
    rw [hu.press nofun, hruns, List.filter_cons_of_neg (by simp [hspan]), List.filter_nil]
  have hcnt : v.press.runCnt = s.press.runCnt := by
    have h := congrArg PressSt.runCnt (hu.press nofun)
    exact h
  have hcores : v.cores = setAt s.cores (a / 4) (fun x => { x with acc := setAt x.acc (a % 4) (fun _ => accOf k ps d.idle) }) := by
    change setAt u.cores _ _ = _
    rw [hu.cores nofun nofun]
  have hmem : v.mem = s.mem := hv.mem (by simp) (by simp)
  replace e : exec (.pressRunEnd a errs) s = .next (v.toAssembler r a n us ps) := e
  rw [State.toAssembler, hjob] at e
  dsimp only at e
  rw [hasm] at e
  clear_value v
  refine answers_of_exec e ⟨hruns', hcnt, hmem, fun ha hc => ?_, _, State.pass_onPass (fun _ => rfl) hvp, rfl⟩
  change (v.cores.getD (a / 4) resetCore).acc.getD (a % 4) [] = _
  rw [hcores, getD_setAt, if_pos ⟨rfl, ha⟩]
  exact (getD_setAt ..).trans (if_pos ⟨rfl, hc⟩)

/-- The first failure of a run plans it once more, as the next of its array (R204). -/
theorem pressRunEnd_of_bad (hq : s.pass r.part l = some q) (hretry : r.retry = false)
    (hbad : (runChecks k ((s.press.runCnt.getD a 1 - 1) % k) errs
      (s.runData r.part (s.layerEnt r.part l) (s.profEnt r.part l) n r.seg k us).acts
      (s.runData r.part (s.layerEnt r.part l) (s.profEnt r.part l) n r.seg k us).wts
      (withErrs k errs (s.runData r.part (s.layerEnt r.part l) (s.profEnt r.part l) n r.seg k us).parts)).bad = true) :
    answers (.pressRunEnd a errs) s (fun t => t.press.runs = [] ∧ t.mem = s.mem
      ∧ ∃ w, t.pass r.part l = some w ∧ w.plan = { r with retry := true } :: q.plan ∧ w.toks = q.toks) := by
  have e := exec_pressRunEnd (errs := errs) hruns hspan hjob hcur hlay hset
  dsimp only at e
  rw [if_pos hbad] at e
  generalize (s.runData r.part (s.layerEnt r.part l) (s.profEnt r.part l) n r.seg k us) = d at e
  generalize withErrs k errs d.parts = ps at e
  generalize runChecks k ((s.press.runCnt.getD a 1 - 1) % k) errs d.acts d.wts ps = c at e
  let u := (s.bump (rPR_SKIP_CNT (a / 4)) c.skips).holdAcc a (accOf k ps d.idle)
  let v := ((u.raise (rPR_EVT (a / 4)) 0).latch (rPR_LAST_CHK (a / 4)) (lastChk a n r.seg c r.retry)).countMis a
  have hv : s.Same (fun f => f = .regs ∨ f = .cores ∨ f = .recd) v := by
    refine State.countMis_same _ (State.latch_same _ _ (State.raise_same _ _ (State.holdAcc_same _ _
      (State.bump_same _ _ (.refl s) ?_) ?_) ?_) ?_) ?_
    all_goals simp
  have hvp : (v.leaveArray a).pass r.part l = some q := (State.pass_congr (hv.parts fun _ => by simp) _ l).trans hq
  have hruns' : (v.leaveArray a).press.runs = [] := by
    change v.press.runs.filter _ = []
    rw [hv.press (by simp), hruns, List.filter_cons_of_neg (by simp [hspan]), List.filter_nil]
  have hmem : (v.leaveArray a).mem = s.mem := hv.mem (by simp) (by simp)
  replace e : exec (.pressRunEnd a errs) s = .next (if r.retry then v.retireArray a
    else (v.leaveArray a).onJob r.part r.job (fun q => { q with plan := { r with retry := true } :: q.plan })) := e
  have hon (w : State) (f : Pass → Pass) : w.onJob r.part r.job f = w.onPass r.part l f := by
    rw [hjob]
    rfl
  rw [if_neg (by rw [hretry]; decide), hon] at e
  generalize v.leaveArray a = w at e hvp hruns' hmem
  have hend := State.pass_onPass (f := fun q => { q with plan := { r with retry := true } :: q.plan }) (fun _ => rfl) hvp
  exact answers_of_exec e ⟨hruns', hmem, { q with plan := { r with retry := true } :: q.plan }, hend, rfl, rfl⟩

/-- The second failure retires the array (R204). -/
theorem pressRunEnd_of_worse (hretry : r.retry = true) (hon : bit s.units.arrays a = true)
    (hbad : (runChecks k ((s.press.runCnt.getD a 1 - 1) % k) errs
      (s.runData r.part (s.layerEnt r.part l) (s.profEnt r.part l) n r.seg k us).acts
      (s.runData r.part (s.layerEnt r.part l) (s.profEnt r.part l) n r.seg k us).wts
      (withErrs k errs (s.runData r.part (s.layerEnt r.part l) (s.profEnt r.part l) n r.seg k us).parts)).bad = true) :
    answers (.pressRunEnd a errs) s (fun t => t.press.runs = [] ∧ bit t.units.arrays a = false) := by
  have e := exec_pressRunEnd (errs := errs) hruns hspan hjob hcur hlay hset
  dsimp only at e
  rw [if_pos hbad, State.failRun, if_pos hretry] at e
  refine answers_of_exec e ?_
  generalize runChecks k _ errs _ _ _ = c
  generalize accOf k _ _ = acc
  let u := (s.bump (rPR_SKIP_CNT (a / 4)) c.skips).holdAcc a acc
  let v := ((u.raise (rPR_EVT (a / 4)) 0).latch (rPR_LAST_CHK (a / 4)) (lastChk a n r.seg c r.retry)).countMis a
  have hv : s.Same (fun f => f = .regs ∨ f = .cores ∨ f = .recd) v := by
    refine State.countMis_same _ (State.latch_same _ _ (State.raise_same _ _ (State.holdAcc_same _ _
      (State.bump_same _ _ (.refl s) ?_) ?_) ?_) ?_) ?_
    all_goals simp
  exact State.retireArray_of_one (s := v) ((congrArg PressSt.runs (hv.press (by simp))).trans hruns) hspan (by
    rw [hv.units (by simp)]
    exact hon)

end

/-- The bucket of an array leaks after its period (R205). -/
theorem prBucketLeak_of_due {s : State} {a : Nat} (ha : a < s.press.buckets.length)
    (hd : s.leakDue (keyArray a) 2097152 (s.press.buckets.getD a 0) = true) : answers (.prBucketLeak a) s (fun t =>
      t.press.buckets.getD a 0 = s.press.buckets.getD a 0 - 1
        ∧ (∀ b, b ≠ a → t.press.buckets.getD b 0 = s.press.buckets.getD b 0)
        ∧ t.press.runs = s.press.runs ∧ t.mem = s.mem ∧ t.regs = s.regs) := by
  refine answers_of_exec (if_pos hd) ⟨?_, fun k hk => ?_, rfl, rfl, rfl⟩
  · exact (getD_setAt _ _ _ _ _).trans (by simp [ha])
  · exact (getD_setAt _ _ _ _ _).trans (by simp [hk.symm])

/-! ### O46 -/

/-- Settles O46: the rows of a block keep their order as they are normalised, every plan spans 1, 2 or 4 arrays, and a run issues
and ends with what its checks say. -/
theorem pressCompletes : Obligations.PressCompletes := by
  refine ⟨fun s p b ref j hs _ hj hb hn hi haw hheld hover => ⟨fun l hl hq => ?_, fun g c hl hg hc hcj => ?_⟩,
    fun p b ref j major units hu => planBlock_spans hu,
    fun s p a n ref j r _ _ hj hfirst hmem hready => pressRunIssue_of_ready hj hfirst hmem hready,
    fun s r a n l k q us errs _ hruns hspan hjob _ hcur hlay hq hset => ⟨fun hgood hretry => ?_, fun hbad hretry => ?_,
      fun hbad hretry hon => ?_⟩,
    fun s a ha hd => prBucketLeak_of_due ha hd⟩
  · exact normalise_of_step hj hb hn hi haw hheld hover hl hq
  · exact normalise_of_batch hj hb hn hi haw hheld hover hl (hs.groupsLen.symm ▸ hg) hc hcj
  · exact pressRunEnd_of_good hruns hspan hjob hcur hlay hset hq hretry hgood
  · exact pressRunEnd_of_bad hruns hspan hjob hcur hlay hset hq hretry hbad
  · exact pressRunEnd_of_worse hruns hspan hjob hcur hlay hset hretry hon hbad

end Sys2Proof.Machine
end

section
/-! SUPPORT. What a reduction sends leaves of it, and its start and its seals (R356 to R366; O56). -/

-- One declaration after another: the check bounds the memory, and with it the threads.
set_option Elab.async false

namespace Sys2Proof.Machine

/-! ### The reductions of a step but for their count of narrowed values -/

/-- A reduction but for its count of narrowed values. -/
def Red.quiet (r : Red) : Red := { r with narrowed := 0 }

/-- The reductions of a partition's step, but for their counts. -/
def redsView (x : Part) : Option (List Red) := x.step.map (fun y => y.reds.map Red.quiet)

theorem quiet_onRed {l : Nat} {f : Red → Red} (hf : ∀ r, (f r).quiet = r.quiet) (x : StepSt) :
    (onRed l f x).reds.map Red.quiet = x.reds.map Red.quiet := by
  rw [onRed, List.map_map]
  refine List.map_congr_left fun r _ => ?_
  simp only [Function.comp_apply]
  split
  · exact hf r
  · rfl

section
variable (s : State) (p : Nat)

theorem State.onStep_reds {f : StepSt → StepSt} (hf : ∀ x, (f x).reds.map Red.quiet = x.reds.map Red.quiet) :
    s.Views redsView (s.onStep p f) :=
  .onPart s p fun x => by simp [redsView, Option.map_map, Function.comp_def, hf]

theorem State.waitFor_reds (l m h : Nat) : s.Views redsView (s.waitFor p l m h) := by
  unfold State.waitFor State.waitSince State.waitOn
  dsimp only
  split
  · exact .refl s
  · exact .onPart s p fun _ => rfl

theorem State.narrowed_reds (l id c : Nat) (yes : Bool) (vs : List F32) : s.Views redsView (s.narrowed p l id c yes vs).1 := by
  unfold State.narrowed
  split
  · exact .refl s
  · split
    · exact .refl s
    · extract_lets rs u v
      have hu : s.Views redsView u := .ofParts (State.bump_parts _ _ _)
      refine hu.trans ?_
      unfold v
      split
      · exact .refl u
      · exact .trans (.ofParts (State.bump_parts _ _ _)) (State.onStep_reds _ p fun x =>
          quiet_onRed (l := l) (f := fun r => { r with narrowed := r.narrowed + rs.length }) (fun _ => rfl) x)

theorem State.sendValue_reds (l id c : Nat) (k : Bytes) (vs : List F32) : s.Views redsView (s.sendValue p l id c k vs) := by
  unfold State.sendValue
  split
  · exact .refl s
  · next x _ =>
    extract_lets d cross adaptive
    have hn := s.narrowed_reds p l id c adaptive vs
    generalize s.narrowed p l id c adaptive vs = r at hn
    dsimp only
    split
    · split
      · next g _ => exact hn.trans (.trans (.ofSame (State.countSubst_same [g] (.refl r.1) trivial)) (.ofParts (State.send_parts ..)))
      · exact hn
    · exact hn.trans (.ofParts (State.send_parts ..))

theorem State.startChunk_reds (l c : Nat) : s.Views redsView (s.startChunk p l c) := by
  unfold State.startChunk
  split
  · exact .refl s
  · next x _ =>
    extract_lets k e js
    split
    · exact .foldl (fun s j => s.sendValue_reds p l (1024 + j) c k _) js s
    · exact .refl s

theorem State.startChunks_reds (l : Nat) : s.Views redsView (s.startChunks p l) := by
  unfold State.startChunks
  split
  · exact .refl s
  · extract_lets k
    split
    · exact .refl s
    · split
      · exact .refl s
      · exact .foldl (fun s c => s.startChunk_reds p l c) _ s

theorem State.startNext_reds (l : Nat) : s.Views redsView (s.startNext p l) := by
  unfold State.startNext
  split
  · exact s.startChunks_reds p _
  · exact .refl s

end

/-- The reductions of a step whose view is known, one for one. -/
theorem State.Views.reds {s t : State} (h : s.Views redsView t) {p : Nat} {y : StepSt} (hy : (s.part p).step = some y) :
    ∃ z, (t.part p).step = some z ∧ z.reds.map Red.quiet = y.reds.map Red.quiet := by
  have hp := h p
  rw [redsView, redsView, hy] at hp
  exact Option.map_eq_some_iff.mp hp

/-! ### A reduction begins -/

/-- The waits of a reduction and its first values, once its contributions are here, change no reduction but its counts. -/
theorem State.begun_reds (u v : State) (p l : Nat) (o : MemObj) (hv : v.parts = u.parts) :
    u.Views redsView (let w := (v.waitFor p l 0 9).waitFor p l 0 10; if w.reading o then w else w.startChunks p l) := by
  extract_lets w
  have hw : u.Views redsView w := .trans (.ofParts hv) (.trans (v.waitFor_reds p l 0 9) (State.waitFor_reds _ p l 0 10))
  split
  · exact hw
  · exact hw.trans (w.startChunks_reds p l)

/-- A reduction begins with every chunk waiting, and its contributions are asked for (R356, R357). -/
theorem reductionStart_of_due {s : State} {p l : Nat} {x : StepSt} (hx : (s.part p).step = some x) (hdue : s.redDue p l x = true) :
    answers (.reductionStart p l) s (fun t => (∃ y r, (t.part p).step = some y ∧ r ∈ y.reds ∧ r.layer = l ∧ r.state = 1
        ∧ r.start = s.stitch.count
        ∧ r.chunkSt = List.replicate (chunkCount (foldLayer (s.redBlock x.group) l)) 0) ∧ t.mem = s.mem) := by
  let r₀ : Red := { block := (s.foldOf x.group).getD 0, layer := l, start := s.stitch.count, vals := [], right := [], bufs := []
                    asked := [], moved := [], chunkSt := List.replicate (chunkCount (foldLayer (s.redBlock x.group) l)) 0, crcs := []
                    state := 1, narrowed := 0, audited := false }
  let u := s.onStep p (fun x => { x with reds := x.reds ++ [r₀] })
  have hu : (u.part p).step = some { x with reds := x.reds ++ [r₀] } := by
    unfold u
    rw [State.step_onStep _ _ _ (State.lt_parts_of_step hx), hx]
    rfl
  obtain ⟨t, e, hv⟩ : ∃ t, exec (.reductionStart p l) s = .next t ∧ u.Views redsView t := by
    change ∃ t, execReductionStart p l s = _ ∧ _
    rw [execReductionStart, hx]
    dsimp only
    rw [if_neg (by simp [hdue])]
    exact ⟨_, rfl, State.begun_reds u _ p l _ rfl⟩
  obtain ⟨z, hz, hreds⟩ := hv.reds hu
  have hmem : r₀ ∈ z.reds.map Red.quiet := by
    rw [hreds, List.map_append]
    exact List.mem_append_right _ List.mem_cons_self
  obtain ⟨r, hr, er⟩ := List.mem_map.mp hmem
  refine answers_of_exec e ⟨⟨z, r, hz, hr, ?_⟩, mem_of_exec (by simp [State.allows, offMem]) e⟩
  exact ⟨congrArg Red.layer er, congrArg Red.state er, congrArg Red.start er, congrArg Red.chunkSt er⟩

end Sys2Proof.Machine
end

section
/-! SUPPORT. Results, seals, the audit, the poison and the abort of a reduction (R359, R364 to R371; O56). -/

-- One declaration after another: the check bounds the memory, and with it the threads.
set_option Elab.async false

namespace Sys2Proof.Machine

/-! ### The one reduction of a step -/

theorem onRed_of_one {x : StepSt} {r : Red} {l : Nat} (f : Red → Red) (hr : x.reds = [r]) (hl : r.layer = l) :
    onRed l f x = { x with reds := [f r] } := by
  simp [onRed, hr, hl]

section
variable {s t : State} {p : Nat} {x : StepSt} {r : Red} (hx : (s.part p).step = some x) (hr : x.reds = [r])
include hx hr

/-- The step of a partition after a change of its one reduction. -/
theorem State.step_onRed {l : Nat} (f : Red → Red) (hl : r.layer = l) :
    ((s.onStep p (onRed l f)).part p).step = some { x with reds := [f r] } := by
  rw [State.step_onStep _ _ _ (State.lt_parts_of_step hx), hx, Option.map_some, onRed_of_one f hr hl]

/-- The one reduction of a step whose view is known. -/
theorem State.Views.red (h : s.Views redsView t) : ∃ y w, (t.part p).step = some y ∧ y.reds = [w] ∧ w.quiet = r.quiet := by
  obtain ⟨y, hy, hreds⟩ := h.reds hx
  rw [hr, List.map_singleton] at hreds
  obtain ⟨w, hw, hq⟩ := List.map_eq_singleton_iff.mp hreds
  exact ⟨y, w, hy, hw, hq⟩

end

/-! ### The seal of a chunk -/

/-- Everything but the Fold unit's record. -/
def offFold : Touch → Prop
  | .fold => False
  | _ => True

/-- A chunk whose writes have their responses is sealed and counted; with the last of them the reduction ends (R359, R366). -/
theorem chunkSeal_of_written {s : State} {p c : Nat} {x : StepSt} {r : Red} (hx : (s.part p).step = some x) (hr : x.reds = [r])
    (hst : r.state = 1) (hc : c < r.chunkSt.length) (h2 : r.chunkSt.getD c 0 = 2)
    (hw : s.writing (.redResult p r.layer c) = false) (hb : r.block < s.fold.redSealed.length) :
    answers (.chunkSeal p c) s (fun t => (∃ y w, (t.part p).step = some y ∧ y.reds = [w] ∧ w.chunkSt.getD c 0 = 3
        ∧ (w.chunkSt.all (· == 3) = true → w.state = 2))
      ∧ t.fold.redSealed.getD r.block 0 = s.fold.redSealed.getD r.block 0 + 1 ∧ t.mem = s.mem) := by
  let st := setAt r.chunkSt c (fun _ => 3)
  let f (r : Red) : Red := { r with
    chunkSt := st, state := if st.all (· == 3) then 2 else 1
    vals := r.vals.filter (fun v => v.2.1 != c), right := r.right.filter (fun v => v.2.1 != c)
    bufs := r.bufs.filter (fun b => b.1 != c) }
  let u := s.onStep p (onRed r.layer f)
  let v : State := { u with fold := { u.fold with
    redSealed := setAt u.fold.redSealed r.block (· + 1)
    redState := if st.all (· == 3) then setAt u.fold.redState r.block (fun _ => 2) else u.fold.redState } }
  have hv : (v.part p).step = some { x with reds := [f r] } := State.step_onRed hx hr f rfl
  have hfind : x.reds.find? (fun r => r.state == 1) = some r := by simp [hr, hst]
  obtain ⟨t, e, ht, hfold⟩ : ∃ t, exec (.chunkSeal p c) s = .next t ∧ v.Views redsView t ∧ t.fold = v.fold := by
    let w := v.startChunk p r.layer (c + fld (v.redBlock x.group) 3 1)
    have hvw : v.Views redsView w := v.startChunk_reds p _ _
    have hwf : w.fold = v.fold :=
      (State.startChunk_same (F := offFold) p r.layer _ (.refl v) trivial trivial trivial trivial trivial).fold id
    have h : execChunkSeal p c s = execChunkSeal p c s := rfl
    conv_rhs at h => rw [execChunkSeal, hx]
    dsimp only at h
    rw [hfind] at h
    dsimp only at h
    rw [if_neg (not_or.mpr ⟨not_not.mpr h2, by simp [hw]⟩)] at h
    refine ⟨if st.all (· == 3) then w.startNext p r.layer else w, h, ?_⟩
    split
    · exact ⟨hvw.trans (w.startNext_reds p _), ((State.startNext_same (F := offFold) p r.layer (.refl w) trivial trivial trivial
        trivial trivial).fold id).trans hwf⟩
    · exact ⟨hvw, hwf⟩
  obtain ⟨y, w, hy, hyr, hq⟩ := ht.red hv rfl
  have hchunk : w.chunkSt = st := congrArg Red.chunkSt hq
  have hstate : w.state = if st.all (· == 3) then 2 else 1 := congrArg Red.state hq
  refine answers_of_exec e ⟨⟨y, w, hy, hyr, ?_, fun hall => ?_⟩, ?_, mem_of_exec (by simp [State.allows, offMem]) e⟩
  · rw [hchunk]
    exact (getD_setAt ..).trans (if_pos ⟨rfl, hc⟩)
  · rw [hstate, ← hchunk, if_pos hall]
  · rw [hfold]
    exact (getD_setAt ..).trans (if_pos ⟨rfl, hb⟩)

/-! ### The audit -/

/-- An audit that finds the sealed results as they were written ends with nothing counted (R365). -/
theorem sealAudit_of_sound {s : State} {p : Nat} {x : StepSt} {r : Red} (hwf : spWf s.regs = true)
    (hx : (s.part p).step = some x) (hl : x.launched = true) (ht : x.tornBy = none) (hfin : x.fin = 0)
    (hended : ∀ q ∈ x.passes, q.ended = true) (hn : x.nextLayer = s.pLayers p) (hr : x.reds = [r]) (ha : r.audited = false)
    (hst : r.chunkSt = [3]) (hcrc : r.crcs = [(0, (crc64 (s.rd (s.resultRange p (foldLayer (s.redBlock x.group)
        r.layer) 0).1 (s.resultRange p (foldLayer (s.redBlock x.group) r.layer) 0).2)).toNat)]) :
    answers (.sealAudit p) s (fun t => (t.part p).step = some { x with reds := [{ r with audited := true }] }
        ∧ t.mem = s.mem ∧ (s.powered rFD_AUDIT_FAIL_CNT = true → t.reg rFD_AUDIT_FAIL_CNT = s.reg rFD_AUDIT_FAIL_CNT)) := by
  have hlist : auditList x = [(r.layer, 0)] := by simp [auditList, hr, ha, hst]
  have hall : x.passes.all (·.ended) = true := List.all_eq_true.mpr hended
  let g := s.resultRange p (foldLayer (s.redBlock x.group) r.layer) 0
  let u := s.issueRead g.1 g.2 (.sealed p r.layer 0)
  let v := u.onStep p (fun x => { x with reds := x.reds.map (fun r => { r with audited := true }) })
  have e : exec (.sealAudit p) s = .next (v.bump rFD_AUDIT_FAIL_CNT 0) := by
    have hbad : (auditList x).filter (fun a =>
        let g := u.resultRange p (foldLayer (s.redBlock x.group) a.1) a.2
        (crc64 (u.rd g.1 g.2)).toNat != ((x.reds.find? (fun r => r.layer == a.1)).bind (fun r =>
          (r.crcs.find? (fun e => e.1 == a.2)).map (·.2))).getD 0) = [] := by
      rw [hlist]
      simp [hr, hcrc]
      rfl
    have h : execSealAudit p s = execSealAudit p s := rfl
    conv_rhs at h => rw [execSealAudit, hx]
    dsimp only at h
    rw [if_neg (by simp [hl, ht, hfin, hn, hr, ha, hall])] at h
    simp only [hlist, List.foldl_cons, List.foldl_nil] at h hbad
    erw [hbad] at h
    exact h
  refine answers_of_exec e ⟨?_, State.bump_mem v _ _, fun hp => ?_⟩
  · rw [State.part, State.bump_parts]
    refine (State.step_onStep u _ _ (State.lt_parts_of_step (s := u) hx)).trans ?_
    rw [show u.part p = s.part p from rfl, hx, Option.map_some, hr]
    rfl
  · rw [State.reg_bump_eq (s := v) hwf hp]
    exact BitVec.eq_of_toNat_eq (by rw [satAdd_toNat]; have := (v.reg rFD_AUDIT_FAIL_CNT).isLt; change _ = (v.reg _).toNat; omega)

end Sys2Proof.Machine
end

section
/-! SUPPORT. The poison and the abort of a reduction (R369, R371, R375; O56). -/

-- One declaration after another: the check bounds the memory, and with it the threads.
set_option Elab.async false

namespace Sys2Proof.Machine

/-- A message of this pod is not handed on. -/
theorem State.fanHeld_of_pod {s : State} {m : Msg} (h : m.src / 32 = s.pod) : s.fanHeld m = some s := if_pos (.inl h)

/-- A control of a reduction that is due, sound and of this pod is taken and has its effect (R369, R371). -/
theorem State.fdControl_of_due {s : State} {m : Msg} {typ : Nat} (f : State → Nat → State) (hd : due s m typ)
    (hw : s.redWhen m.owner (fld m.body 0 8) (fld m.body 8 2) (fld m.body 12 2) (typ == 0x22) = 2
      ∨ typ = 0x23 ∧ s.isDead (fld m.body 12 2) = false ∧ ∃ x, (s.part m.owner).step = some x ∧ fld m.body 0 8 = x.stepNo
        ∧ x.launched = true ∧ x.fin ≠ 3)
    (hlen : m.body.length = 16) (h11 : rsv m.body 11 1 = true) (h14 : rsv m.body 14 2 = true)
    (hmem : Machine.memberOk (fld m.body 12 2) = true) (hl : fld m.body 8 2 < s.pLayers m.owner)
    (hkind : (if typ = 0x22 then within (fld m.body 10 1) 1 3 else fld m.body 10 1 == 0) = true)
    (hpod : m.src / 32 = s.pod) : s.fdControl m typ f = f (s.take m) (fld m.body 8 2) := by
  obtain ⟨h1, h2, h3, h4⟩ := hd
  have h : s.fdControl m typ f = s.fdControl m typ f := rfl
  conv_rhs at h => rw [State.fdControl]
  dsimp only at h
  have htwo : (if typ = 0x23 ∧ (!s.isDead (fld m.body 12 2)) = true then (match (s.part m.owner).step with
      | some x => if fld m.body 0 8 = x.stepNo ∧ x.launched = true ∧ x.fin ≠ 3 then 2
          else s.redWhen m.owner (fld m.body 0 8) (fld m.body 8 2) (fld m.body 12 2) (typ == 0x22)
      | none => s.redWhen m.owner (fld m.body 0 8) (fld m.body 8 2) (fld m.body 12 2) (typ == 0x22))
      else s.redWhen m.owner (fld m.body 0 8) (fld m.body 8 2) (fld m.body 12 2) (typ == 0x22)) = 2 := by
    rcases hw with hw | ⟨ht, hdead, x, hx, hno, hlaunch, hfin⟩
    · rw [hw]
      repeat' split
      all_goals rfl
    · rw [if_pos ⟨ht, by simp [hdead]⟩, hx]
      exact if_pos ⟨hno, hlaunch, hfin⟩
  rw [if_neg (by simp [h1, h2, h3])] at h
  erw [htwo] at h
  rw [if_neg (by decide), State.fanHeld_of_pod hpod] at h
  dsimp only at h
  rw [if_neg (by decide), hkind, if_pos (by simp [h4, hlen, h11, h14, hmem, hl])] at h
  exact h

/-! ### Poison -/

/-- The change of a poison without its message to the other members. -/
theorem State.poison_of_due {s : State} {p l : Nat} {x : StepSt} (hwf : spWf s.regs = true) (hx : (s.part p).step = some x)
    (hl : x.launched = true) (hn : x.poisonAt = none) (hf : x.fin ≤ 2) (hp : s.powered rFD_POISON_CNT = true) :
    (∃ y, ((s.poison p l false).part p).step = some y ∧ y.poisonAt = some l ∧ y.fin = 0 ∧ y.lstat = x.lstat ∧ y.passes = x.passes)
      ∧ (s.poison p l false).reg rFD_POISON_CNT = satAdd (s.reg rFD_POISON_CNT) 1
      ∧ (s.poison p l false).link = s.link := by
  let v := (s.endAgain p).onStep p (fun x => { x with poisonAt := some l })
  let w := v.poisonCells p l
  have e : s.poison p l false = (w.bump rFD_POISON_CNT 1).raise rFD_EVT 2 := by
    rw [State.poison, hx]
    dsimp only
    rw [if_neg (by simp [hl, hn]; omega), if_neg (by decide)]
  have hv : s.Same (fun f => f = .part p) v := State.onStep_same _ _ (State.endAgain_same p (.refl s) rfl) rfl
  have hw : v.Same (fun f => f = .mem ∨ f = .memp ∨ f = .hamper ∨ f = .power) w :=
    State.poisonCells_same p l (.refl v) (by simp) (by simp) (by simp) (by simp)
  obtain ⟨o, ho⟩ := State.endAgain_step (State.lt_parts_of_step hx) hx hf
  have hstep : (v.part p).step = some { x with fin := 0, endOut := o, poisonAt := some l } := by
    rw [State.step_onStep _ _ _ (State.lt_parts_of_step ho), ho]
    rfl
  have hregs : w.regs = s.regs := (hw.regs (by simp)).trans (hv.regs (by simp))
  have hwwf : spWf w.regs = true := hregs ▸ hwf
  have hreg : w.reg rFD_POISON_CNT = s.reg rFD_POISON_CNT := congrArg (spGet · rFD_POISON_CNT) hregs
  have hpow : w.powered rFD_POISON_CNT = true := (State.powered_congr
    ((hw.domOn (by simp) (.inl (by simp))).trans (hv.domOn (by simp) (.inl (by simp)))) _).trans hp
  rw [e]
  refine ⟨⟨{ x with fin := 0, endOut := o, poisonAt := some l }, ?_, rfl, rfl, rfl, rfl⟩, ?_, ?_⟩
  · rw [State.part, State.raise_parts, State.bump_parts]
    exact (congrArg Part.step (hw.part p (by simp) (by simp))).trans hstep
  · rw [State.reg_raise_of_ne (State.spWf_regs_bump hwwf _ _) _ (by decide), State.reg_bump_eq hwwf hpow, hreg]
  · rw [State.raise_link, State.bump_link, hw.link (by simp), hv.link (by simp)]

/-- FD_POISON marks the step, whose end is made again (R375). -/
theorem fdPoison_of_due {s : State} {m : Msg} {x : StepSt} (hs : s.sound) (hd : due s m 0x23)
    (hx : (s.part m.owner).step = some x) (hl : x.launched = true) (hno : fld m.body 0 8 = x.stepNo) (hn : x.poisonAt = none)
    (hf : x.fin ≤ 2) (hdead : s.isDead (fld m.body 12 2) = false) (hlen : m.body.length = 16) (h11 : rsv m.body 11 1 = true)
    (h14 : rsv m.body 14 2 = true) (hmem : Machine.memberOk (fld m.body 12 2) = true) (hlay : fld m.body 8 2 < s.pLayers m.owner)
    (hkind : fld m.body 10 1 = 0) (hpod : m.src / 32 = s.pod) (hp : s.powered rFD_POISON_CNT = true) :
    answers (.fdPoison m) s (fun t => (∃ y, (t.part m.owner).step = some y ∧ y.poisonAt = some (fld m.body 8 2)
        ∧ y.fin = 0 ∧ y.lstat = x.lstat ∧ y.passes = x.passes)
      ∧ t.reg rFD_POISON_CNT = satAdd (s.reg rFD_POISON_CNT) 1 ∧ t.link.inbox = s.link.inbox.erase m) := by
  have ht := s.take_touch m
  have hx' : ((s.take m).part m.owner).step = some x := by rw [ht.part _ id id, hx]
  obtain ⟨hy, hreg, hlink⟩ := State.poison_of_due (l := fld m.body 8 2) (ht.regsWf hs.regsWf) hx' hl hn hf
    ((s.take_powered m _).trans hp)
  have e : exec (.fdPoison m) s = .next ((s.take m).poison m.owner (fld m.body 8 2) false) :=
    congrArg Host.Outcome.next (State.fdControl_of_due _ hd (.inr ⟨rfl, hdead, x, hx, hno, hl, by omega⟩) hlen h11 h14 hmem hlay
      (by simp [hkind]) hpod)
  refine answers_of_exec e ⟨hy, ?_, ?_⟩
  · rw [hreg, State.take_reg m (by decide)]
  · rw [hlink, State.take_inbox]

/-! ### The abort of a reduction -/

/-- The change of an abort: the reduction and its chunks are abandoned, and it is counted. -/
theorem State.abortRed_of_one {s : State} {p l : Nat} {x : StepSt} {r : Red} (hwf : spWf s.regs = true)
    (hx : (s.part p).step = some x) (hr : x.reds = [r]) (hl : r.layer = l) (hst : r.state ≠ 3)
    (hp : s.powered rFD_RED_ABORT_CNT = true) :
    (∃ y w, ((s.abortRed p l).part p).step = some y ∧ y.redAbort = some l ∧ y.reds = [w] ∧ w.state = 3 ∧ w.vals = [] ∧ w.right = []
        ∧ ∀ v ∈ w.chunkSt, v = 4)
      ∧ (s.abortRed p l).reg rFD_RED_ABORT_CNT = satAdd (s.reg rFD_RED_ABORT_CNT) 1 ∧ (s.abortRed p l).link = s.link := by
  let f (x : StepSt) : StepSt := { onRed l (fun r => { r with
    state := 3, chunkSt := r.chunkSt.map (fun _ => 4), vals := [], right := [], bufs := [] }) x with redAbort := some l }
  obtain ⟨u, e, hparts, hregs, hpow, hlink⟩ : ∃ u : State, s.abortRed p l = ((u.onStep p f).bump rFD_RED_ABORT_CNT 1).raise rFD_EVT 3
      ∧ u.parts = s.parts ∧ u.regs = s.regs ∧ u.power = s.power ∧ u.link = s.link := by
    have hfind : (s.part p).step.bind (fun x => (x.reds.find? (fun r => r.layer == l && r.state ≠ 3)).map (fun r => (x, r)))
        = some (x, r) := by
      simp [hx, hr, hl, hst]
    have h : s.abortRed p l = s.abortRed p l := rfl
    conv_rhs at h => rw [State.abortRed, hfind]
    exact ⟨_, h, rfl, rfl, rfl, rfl⟩
  let v := u.onStep p f
  have hstep : (v.part p).step = some (f x) := by
    have hu : (u.part p).step = some x := by rw [State.part, hparts]; exact hx
    rw [State.step_onStep _ _ _ (State.lt_parts_of_step hu), hu]
    rfl
  have hvr : v.regs = s.regs := hregs
  have hvwf : spWf v.regs = true := hvr ▸ hwf
  have hreg : v.reg rFD_RED_ABORT_CNT = s.reg rFD_RED_ABORT_CNT := congrArg (spGet · rFD_RED_ABORT_CNT) hvr
  have hvp : v.powered rFD_RED_ABORT_CNT = true := (State.powered_congr (congrArg PowerSt.domOn hpow) _).trans hp
  rw [e]
  refine ⟨⟨f x, { r with state := 3, chunkSt := r.chunkSt.map (fun _ => 4), vals := [], right := [], bufs := [] }, ?_, rfl, ?_, rfl,
    rfl, rfl, by simp⟩, ?_, ?_⟩
  · rw [State.part, State.raise_parts, State.bump_parts]
    exact hstep
  · exact congrArg StepSt.reds (onRed_of_one _ hr hl)
  · rw [State.reg_raise_of_ne (State.spWf_regs_bump hvwf _ _) _ (by decide), State.reg_bump_eq hvwf hvp, hreg]
  · rw [State.raise_link, State.bump_link]
    exact hlink

/-- A reduction to which a control may come is not abandoned. -/
theorem State.state_of_redWhen {s : State} {p n l o : Nat} {ends : Bool} {x : StepSt} {r : Red} (hx : (s.part p).step = some x)
    (hr : x.reds = [r]) (hl : r.layer = l) (h : s.redWhen p n l o ends = 2) : r.state ≠ 3 := by
  intro h3
  have hfind : x.reds.find? (fun r => r.layer == l) = some r := by simp [hr, hl]
  rw [State.redWhen, hx] at h
  dsimp only at h
  rw [hfind] at h
  dsimp only at h
  rw [if_neg (show ¬ (r.state = 1 ∨ (ends = true ∧ r.state = 2)) by simp [h3])] at h
  split_ifs at h <;> omega

/-- FD_ABORT abandons the reduction (R369). -/
theorem fdAbort_of_due {s : State} {m : Msg} {x : StepSt} {r : Red} (hs : s.sound) (hd : due s m 0x22)
    (hx : (s.part m.owner).step = some x) (hr : x.reds = [r]) (hl : r.layer = fld m.body 8 2)
    (hw : s.redWhen m.owner (fld m.body 0 8) (fld m.body 8 2) (fld m.body 12 2) true = 2) (hlen : m.body.length = 16)
    (h11 : rsv m.body 11 1 = true) (h14 : rsv m.body 14 2 = true) (hmem : Machine.memberOk (fld m.body 12 2) = true)
    (hlay : fld m.body 8 2 < s.pLayers m.owner) (hkind : within (fld m.body 10 1) 1 3 = true) (hpod : m.src / 32 = s.pod)
    (hp : s.powered rFD_RED_ABORT_CNT = true) :
    answers (.fdAbort m) s (fun t => (∃ y w, (t.part m.owner).step = some y ∧ y.redAbort = some (fld m.body 8 2) ∧ y.reds = [w]
        ∧ w.state = 3 ∧ w.vals = [] ∧ w.right = [] ∧ ∀ v ∈ w.chunkSt, v = 4)
      ∧ t.reg rFD_RED_ABORT_CNT = satAdd (s.reg rFD_RED_ABORT_CNT) 1 ∧ t.link.inbox = s.link.inbox.erase m) := by
  have ht := s.take_touch m
  have hx' : ((s.take m).part m.owner).step = some x := by rw [ht.part _ id id, hx]
  obtain ⟨hy, hreg, hlink⟩ := State.abortRed_of_one (ht.regsWf hs.regsWf) hx' hr hl (State.state_of_redWhen hx hr hl hw)
    ((s.take_powered m _).trans hp)
  have e : exec (.fdAbort m) s = .next ((s.take m).abortRed m.owner (fld m.body 8 2)) :=
    congrArg Host.Outcome.next (State.fdControl_of_due _ hd (.inl hw) hlen h11 h14 hmem hlay hkind hpod)
  refine answers_of_exec e ⟨hy, ?_, ?_⟩
  · rw [hreg, State.take_reg m (by decide)]
  · rw [hlink, State.take_inbox]

end Sys2Proof.Machine
end

section
/-! SUPPORT. Results and values that come from other members (R356 to R363; O56). -/

-- One declaration after another: the check bounds the memory, and with it the threads.
set_option Elab.async false

namespace Sys2Proof.Machine

/-- The bytes of values as F32 (R361). -/
def nodeBytes (vs : List F32) : Bytes := vs.flatMap (fun v => toLE 4 v.toNat)

theorem length_nodeBytes (vs : List F32) : (nodeBytes vs).length = 4 * vs.length :=
  length_flatMap_const _ fun _ _ => length_toLE _ _

/-! ### What depends on the image alone -/

theorem State.foldBuf_congr {s t : State} (h : t.img = s.img) (blk c k : Nat) : t.foldBuf blk c k = s.foldBuf blk c k := by
  have hb : t.sect 12 = s.sect 12 := by simp only [State.sect, h]
  rw [State.foldBuf, State.foldBuf, hb]

theorem State.bufLive_congr {s t : State} (h : t.img = s.img) (k : Bytes) (r : Red) (c id : Nat) :
    t.bufLive k r c id = s.bufLive k r c id := by
  simp only [State.bufLive, State.member, State.hdrF, h]

theorem State.resultRange_congr {s t : State} (h : t.img = s.img) (p : Nat) (e : Bytes) (c : Nat) :
    t.resultRange p e c = s.resultRange p e c := by
  simp only [State.resultRange, State.tr, State.sect, h]

/-! ### Results -/

section
variable {s : State} {p l : Nat} {x : StepSt} {r : Red} (hx : (s.part p).step = some x) (hr : x.reds = [r]) (hl : r.layer = l)
include hx hr hl

/-- A result of F32 values stands in its row, and its chunk waits for the responses (R364). -/
theorem State.writeResult_one (c : Nat) {e : Bytes} (he : fld e 21 1 = 0) (vs : List F32) :
    (∃ w, ((s.writeResult p l c e vs).part p).step = some { x with reds := [w] } ∧ w.chunkSt = setAt r.chunkSt c (fun _ => 2)
        ∧ w.vals = r.vals ∧ w.layer = l)
      ∧ (s.writeResult p l c e vs).mem = memWrite s.mem (s.resultRange p e c).1 (nodeBytes vs)
      ∧ (s.writeResult p l c e vs).link = s.link := by
  have hb : vs.flatMap (fun v => if fld e 21 1 = 1 then toLE 2 (f32ToBf v) else toLE 4 v.toNat) = nodeBytes vs := by
    simp [he, nodeBytes]
  rw [State.writeResult, hb]
  refine ⟨⟨_, State.step_onRed hx hr _ hl, rfl, rfl, hl⟩, ?_, rfl⟩
  rw [State.wr_mem]
  rfl

/-- A value is put into its buffer of the Fold region where no value waits there (R363). -/
theorem State.putNode_of_free (c h id : Nat) {k : Bytes} {q : Red} (vs : List F32)
    (hfree : ∀ u ∈ q.bufs, u.1 = c → u.2.1 = h → u.2.2 = id ∨ s.bufLive k q c u.2.2 = false) :
    ((s.putNode p l c h id k q vs).part p).step = some { x with reds := [{ r with
        bufs := r.bufs.filter (fun b => !(b.1 == c && b.2.1 == h)) ++ [(c, h, id)] }] }
      ∧ (s.putNode p l c h id k q vs).mem = memWrite s.mem (s.foldBuf q.block c h) (nodeBytes vs)
      ∧ (s.putNode p l c h id k q vs).link = s.link ∧ (s.putNode p l c h id k q vs).regs = s.regs := by
  have hno : ¬ q.bufs.any (fun b => b.1 == c && b.2.1 == h && b.2.2 != id && s.bufLive k q c b.2.2) = true := by
    rw [List.any_eq_true]
    rintro ⟨u, hu, hb⟩
    simp only [Bool.and_eq_true, beq_iff_eq, bne_iff_ne, ne_eq] at hb
    obtain ⟨⟨⟨h1, h2⟩, h3⟩, h4⟩ := hb
    rcases hfree u hu h1 h2 with h | h
    · exact h3 h
    · rw [h] at h4
      cases h4
  rw [State.putNode, if_neg hno]
  exact ⟨State.step_onRed (s := s.wr _ _ _) hx hr _ hl, rfl, rfl, rfl⟩

end

/-- The reduction of a layer that runs. -/
theorem runningRed_of_one {x : StepSt} {r : Red} {l : Nat} (hr : x.reds = [r]) (hl : r.layer = l) (hst : r.state = 1) :
    runningRed x l = some r := by
  simp [runningRed, hr, hl, hst]

/-- A result of the root is written to its row (R364, R366). -/
theorem fdResult_of_due {s : State} {m : Msg} {x : StepSt} {r : Red} (hs : s.sound) (hx : (s.part m.owner).step = some x)
    (hr : x.reds = [r]) (hl : r.layer = fld m.body 8 2) (hst : r.state = 1)
    (hw : s.redWhen m.owner (fld m.body 0 8) (fld m.body 8 2) (holder (s.redBlock (s.stepGroup m.owner)) 1) false = 2)
    (hd : due s m 0x21) (hpod : m.src / 32 = s.pod) (hlay : fdLayout m.body (foldLayer (s.redBlock x.group) (fld m.body 8 2))
      (s.rootNarrow m.owner (s.redBlock x.group) x.group) = true)
    (hid : fld m.body 10 2 = 1) (hcrc : fld m.body 24 8 = (crc64 (m.body.drop 32)).toNat)
    (hroot : holder (s.redBlock x.group) 1 ≠ s.member) (hc : fld m.body 12 4 < r.chunkSt.length)
    (hlt : r.chunkSt.getD (fld m.body 12 4) 0 < 2) (he : fld (foldLayer (s.redBlock x.group) (fld m.body 8 2)) 21 1 = 0) :
    answers (.fdResult m) s (fun t => (∃ y w, (t.part m.owner).step = some y ∧ y.reds = [w]
        ∧ w.chunkSt.getD (fld m.body 12 4) 0 = 2)
      ∧ t.rd (s.resultRange m.owner (foldLayer (s.redBlock x.group) (fld m.body 8 2)) (fld m.body 12 4)).1
          (4 * (bodyValues m.body).length) = (bodyValues m.body).flatMap (fun v => toLE 4 v.toNat)
      ∧ t.link.inbox = s.link.inbox.erase m) := by
  obtain ⟨h1, h2, h3, h4⟩ := hd
  have ht := s.take_touch m
  have hx' : ((s.take m).part m.owner).step = some x := by rw [ht.part _ id id, hx]
  have e : exec (.fdResult m) s = .next ((s.take m).writeResult m.owner (fld m.body 8 2) (fld m.body 12 4)
      (foldLayer (s.redBlock x.group) (fld m.body 8 2)) (bodyValues m.body)) := by
    change execFdResult m s = _
    rw [execFdResult]
    dsimp only
    rw [if_neg (by simp [h1, h2, h3]), hw, hx, State.fanHeld_of_pod hpod]
    simp only [Option.bind_some, runningRed_of_one hr hl hst]
    rw [if_neg (by decide)]
    dsimp only
    rw [if_neg (by simp [h4, hlay, hid, ← hcrc, hroot]), if_neg (Nat.not_le.mpr hlt)]
  obtain ⟨⟨w, hw₁, hw₂, -⟩, hmem, hlink⟩ := State.writeResult_one hx' hr hl (fld m.body 12 4) he (bodyValues m.body)
  refine answers_of_exec e ⟨⟨_, w, hw₁, rfl, ?_⟩, ?_, ?_⟩
  · rw [hw₂]
    exact (getD_setAt ..).trans (if_pos ⟨rfl, hc⟩)
  · rw [State.resultRange_congr (ht.img id)] at hmem
    exact State.rd_of_write hmem (ht.memWf hs.memWf) (length_nodeBytes _)
  · rw [hlink, State.take_inbox]

/-! ### Values -/

/-- The value of a right child is held, and stands in its buffer of the Fold region (R360, R363). -/
theorem fdValue_of_due {s : State} {m : Msg} {x : StepSt} {r : Red} (hs : s.sound) (hx : (s.part m.owner).step = some x)
    (hr : x.reds = [r]) (hl : r.layer = fld m.body 8 2) (hd : due s m 0x20) (hst : r.state = 1)
    (hw : s.redWhen m.owner (fld m.body 0 8) (fld m.body 8 2) (holder (s.redBlock (s.stepGroup m.owner)) (fld m.body 10 2)) false = 2)
    (hid : within (fld m.body 10 2) 2 2047 = true) (hodd : fld m.body 10 2 % 2 = 1)
    (hhere : holder (s.redBlock (s.stepGroup m.owner)) (fld m.body 10 2 / 2) = s.member)
    (hthere : holder (s.redBlock (s.stepGroup m.owner)) (fld m.body 10 2) ≠ s.member)
    (hlay : fdLayout m.body (foldLayer (s.redBlock (s.stepGroup m.owner)) (fld m.body 8 2))
      (if s.arrFree m.owner then s.levelNarrow m.owner (s.redBlock (s.stepGroup m.owner)) (fld m.body 10 2)
        else decide (holder (s.redBlock (s.stepGroup m.owner)) (fld m.body 10 2) / 32 ≠ s.pod)) = true)
    (hcrc : fld m.body 24 8 = 0) (hnew : ∀ v ∈ r.right, v.1 ≠ fld m.body 10 2 ∨ v.2.1 ≠ fld m.body 12 4)
    (hopen : chunkOpen x (s.redBlock (s.stepGroup m.owner)) r (fld m.body 12 4) = true)
    (hfree : ∀ u ∈ r.bufs, u.1 = fld m.body 12 4 → u.2.1 = nodeLevel (fld m.body 10 2 / 2) → u.2.2 = fld m.body 10 2
      ∨ s.bufLive (s.redBlock (s.stepGroup m.owner)) r (fld m.body 12 4) u.2.2 = false) :
    answers (.fdValue m) s (fun t => (∃ y w, (t.part m.owner).step = some y ∧ y.reds = [w]
        ∧ w.right = r.right ++ [(fld m.body 10 2, fld m.body 12 4, bodyValues m.body)]
        ∧ (fld m.body 12 4, nodeLevel (fld m.body 10 2 / 2), fld m.body 10 2) ∈ w.bufs
        ∧ w.vals = r.vals ∧ w.chunkSt = r.chunkSt ∧ w.layer = fld m.body 8 2 ∧ w.state = 1)
      ∧ t.link.inbox = s.link.inbox.erase m ∧ refErrOnly s t
      ∧ (let at_ := s.foldBuf r.block (fld m.body 12 4) (nodeLevel (fld m.body 10 2 / 2))
        t.rd at_ (4 * (bodyValues m.body).length) = (bodyValues m.body).flatMap (fun u => toLE 4 u.toNat)
          ∧ ∀ i, i < at_ ∨ at_ + 4 * (bodyValues m.body).length ≤ i → ¬ s.pooled i → spGet t.mem i = spGet s.mem i)) := by
  obtain ⟨h1, h2, h3, h4⟩ := hd
  have ht := s.take_touch m
  have hx' : ((s.take m).part m.owner).step = some x := by rw [ht.part _ id id, hx]
  let f (r : Red) : Red := { r with right := r.right ++ [(fld m.body 10 2, fld m.body 12 4, bodyValues m.body)] }
  let v := (s.take m).onStep m.owner (onRed (fld m.body 8 2) f)
  have e : exec (.fdValue m) s = .next (v.putNode m.owner (fld m.body 8 2) (fld m.body 12 4) (nodeLevel (fld m.body 10 2 / 2))
      (fld m.body 10 2) (s.redBlock (s.stepGroup m.owner)) r (bodyValues m.body)) := by
    have hany : r.right.any (fun v => v.1 == fld m.body 10 2 && v.2.1 == fld m.body 12 4) = false := by
      rw [List.any_eq_false]
      intro v hv
      have := hnew v hv
      simp only [Bool.and_eq_true, beq_iff_eq]
      tauto
    change execFdValue m s = _
    rw [execFdValue]
    dsimp only
    rw [if_neg (by simp [h1, h2, h3]), if_neg (fun h => h.2.1 hhere), hw, hx]
    simp only [runningRed_of_one hr hl hst]
    rw [hlay, if_neg (by simp [h4, hid, hodd, hhere, hthere, hcrc]), hany, hopen, if_neg (by decide), if_neg (by decide)]
  have hv : (v.part m.owner).step = some { x with reds := [f r] } := State.step_onRed hx' hr f hl
  have himg : v.img = s.img := ht.img id
  obtain ⟨hstep, hmem, hlink, hregs⟩ := State.putNode_of_free hv rfl hl (fld m.body 12 4) (nodeLevel (fld m.body 10 2 / 2))
    (fld m.body 10 2) (bodyValues m.body) (fun u hu hu₁ hu₂ => (State.bufLive_congr himg ..).symm ▸ hfree u hu hu₁ hu₂)
  rw [State.foldBuf_congr himg] at hmem
  have hvwf : spWf v.mem = true := ht.memWf hs.memWf
  refine answers_of_exec e ⟨⟨_, _, hstep, rfl, rfl, List.mem_append_right _ List.mem_cons_self, rfl, rfl, hl, hst⟩, ?_, fun a ha => ?_,
    State.rd_of_write hmem hvwf (length_nodeBytes _), fun i hi hn => ?_⟩
  · exact (congrArg (·.inbox) hlink).trans (s.take_inbox m)
  · exact (congrArg (spGet · a) hregs).trans (s.take_refErrOnly m a ha)
  · rw [hmem, spGet_memWrite_outside _ _ _ _ hvwf (by rwa [length_nodeBytes])]
    exact ht.poolOnly id id i hn

end Sys2Proof.Machine
end

section
/-! SUPPORT. A node of a reduction: its inputs, its value and a unit that fails (R353, R354, R358 to R363; O56). -/

-- One declaration after another: the check bounds the memory, and with it the threads.
set_option Elab.async false

namespace Sys2Proof.Machine

/-! ### A value in its buffer -/

/-- What two reductions share that differ in their counts alone. -/
theorem Red.fields_of_quiet {w r : Red} (h : w.quiet = r.quiet) : w.vals = r.vals ∧ w.layer = r.layer ∧ w.bufs = r.bufs := by
  have h₁ := congrArg Red.vals h
  have h₂ := congrArg Red.layer h
  have h₃ := congrArg Red.bufs h
  exact ⟨h₁, h₂, h₃⟩

theorem State.foldLevel_congr {s t : State} (h : t.img = s.img) (k : Bytes) (id : Nat) : t.foldLevel k id = s.foldLevel k id := by
  have hm : t.member = s.member := by simp only [State.member, State.hdrF, h]
  rw [State.foldLevel, State.foldLevel, hm]

section
variable {s : State} {p l : Nat} {x : StepSt} {r : Red} (hx : (s.part p).step = some x) (hr : x.reds = [r]) (hl : r.layer = l)
include hx hr hl

/-- A value that is put leaves the reduction its values, whether its buffer is free or not (R363). -/
theorem State.putNode_vals (c h id : Nat) (k : Bytes) (q : Red) (vs : List F32) :
    ∃ w, ((s.putNode p l c h id k q vs).part p).step = some { x with reds := [w] } ∧ w.vals = r.vals ∧ w.layer = l := by
  unfold State.putNode
  split
  · exact ⟨r, by rw [hx, ← hr], rfl, hl⟩
  · exact ⟨_, State.step_onRed (s := s.wr _ _ _) hx hr _ hl, rfl, hl⟩

/-- A result that is written leaves the reduction its values (R364). -/
theorem State.writeResult_vals (c : Nat) (e : Bytes) (vs : List F32) :
    ∃ w, ((s.writeResult p l c e vs).part p).step = some { x with reds := [w] } ∧ w.vals = r.vals ∧ w.layer = l := by
  unfold State.writeResult
  exact ⟨_, State.step_onRed hx hr _ hl, rfl, hl⟩

end

/-- What sending the value of a node leaves of memory. -/
theorem State.sendValue_mem (s : State) (p l id c : Nat) (k : Bytes) (vs : List F32) : (s.sendValue p l id c k vs).mem = s.mem :=
  (State.sendValue_same (F := offMem) p l id c k vs (.refl s) trivial trivial trivial trivial trivial).mem (fun h => h) (fun h => h)

/-! ### A node that may be computed -/

/-- The tries that the residues of a node's additions fail (R353). -/
def nodeTries (fault : Nat) (a b : List F32) : Nat :=
  failedTries fault (resOp false (a.getD (fault / 49152 % max 1 a.length) 0) (b.getD (fault / 49152 % max 1 a.length) 0))

/-- The unit and the charge after the tries of a node's additions (R353, R432). -/
def State.nodeTried (s : State) (n c unit len tries : Nat) : State :=
  let s := s.charge 12 (ceilDiv len 64 * (1 + min tries 1))
  if tries = 0 then s else s.residue unit true (decide (1 < tries)) (nodeLevel n) c

/-- Whether the value of a node is narrowed (R361). -/
def State.rootOrNarrow (s : State) (p n g : Nat) (k : Bytes) : Bool := if n = 1 then s.rootNarrow p k g else s.levelNarrow p k n

/-- A node's value joins those of its reduction, and its chunk is no longer waiting (R358). -/
def valued (n c : Nat) (v : List F32) (r : Red) : Red :=
  { r with vals := r.vals ++ [(n, c, v)], chunkSt := setAt r.chunkSt c (max 1) }

/-- Where the value of a node goes: the root's to every member and its row, another's to the holder of its parent (R358, R364). -/
def State.passNode (s : State) (p n c : Nat) (x : StepSt) (l : Nat) (k : Bytes) (yes : Bool) (v : List F32) :
    State :=
  if n = 1 then
    (s.spread p 0x21 (trig p l 0 10) (bodyFdValue x.stepNo l 1 c yes true v) (s.gatesOf x.group)).writeResult
      p l c (foldLayer k l) v
  else if n % 2 = 1 ∧ holder k (n / 2) ≠ s.member then s.sendValue p l n c k v
  else s

/-- Where a value goes changes no value of the reduction, and neither its buffers nor memory but for the root's row. -/
theorem State.passNode_red {s : State} {p l : Nat} {y : StepSt} {r : Red} (hy : (s.part p).step = some y) (hr : y.reds = [r])
    (hl : r.layer = l) (n c : Nat) (x : StepSt) (k : Bytes) (yes : Bool) (v : List F32) :
    ∃ z w, ((s.passNode p n c x l k yes v).part p).step = some z ∧ z.reds = [w] ∧ w.vals = r.vals ∧ w.layer = l
      ∧ (n ≠ 1 → w.bufs = r.bufs ∧ (s.passNode p n c x l k yes v).mem = s.mem) := by
  unfold State.passNode
  split
  · next h1 =>
    have hs : s.Same (fun f => f = .free ∨ f = .regs ∨ f = .link ∨ f = .power) (s.spread p 0x21 (trig p l 0 10)
        (bodyFdValue x.stepNo l 1 c yes true v) (s.gatesOf x.group)) :=
      State.spread_same _ _ _ _ _ (.refl s) (by simp) (by simp) (by simp) (by simp)
    obtain ⟨w, hw, hv, hwl⟩ := State.writeResult_vals ((congrArg Part.step (hs.part p (by simp) (by simp))).trans hy) hr hl c
      (foldLayer k l) v
    exact ⟨_, w, hw, rfl, hv, hwl, fun h => absurd h1 h⟩
  · split
    · obtain ⟨z, w, hz, hw, hq⟩ := (s.sendValue_reds p l n c k v).red hy hr
      obtain ⟨hvals, hlay, hbufs⟩ := Red.fields_of_quiet hq
      exact ⟨z, w, hz, hw, hvals, hlay.trans hl, fun _ => ⟨hbufs, s.sendValue_mem p l n c k v⟩⟩
    · exact ⟨y, r, hy, hr, rfl, hl, fun _ => ⟨rfl, rfl⟩⟩

/-- A value that joins its reduction keeps a buffer free of it that was, and frees those of its children (R363). -/
theorem State.bufLive_valued {s : State} {k : Bytes} {r : Red} {n c i : Nat} (v : List F32)
    (h : i / 2 = n ∨ s.bufLive k r c i = false) : s.bufLive k { r with vals := r.vals ++ [(n, c, v)] } c i = false := by
  unfold State.bufLive at h ⊢
  rw [List.any_append]
  rcases h with rfl | h
  · simp
  · rcases Bool.and_eq_false_iff.mp h with h | h
    · rw [h, Bool.false_and]
    · simp [Bool.not_eq_eq_eq_not.mp h]

section
variable {s : State} {p n c : Nat} {x : StepSt} {r : Red} {a b : List F32} (hx : (s.part p).step = some x) (hr : x.reds = [r])
  (hst : r.state = 1) (htorn : x.tornBy = none) (hi : s.mayIssue p = true) (h1 : 1 ≤ n) (h2 : n ≤ 1023)
  (hhere : holder (s.redBlock x.group) n = s.member) (hopen : chunkOpen x (s.redBlock x.group) r c = true)
  (hle : r.chunkSt.getD c 0 ≤ 1) (hbelow : s.nodesBelow (s.redBlock x.group) r n c = true) (hmoved : r.moved = [])
  (hunit : (s.foldFor p (s.foldUnits.getD (c % max 1 s.foldUnits.length) 0)).2 = true)
  (hrc : s.reading (.contrib p r.layer) = false) (hrf : s.reading (.foldIn p r.layer n c) = false)
  (hnew : ∀ v ∈ r.vals, v.1 ≠ n ∨ v.2.1 ≠ c)
  (ha : s.nodeVal p (s.redBlock x.group) (foldLayer (s.redBlock x.group) r.layer) r (2 * n) c = some a)
  (hb : s.rightVal p (s.redBlock x.group) (foldLayer (s.redBlock x.group) r.layer) r (2 * n + 1) c = some b)
include hx hr hst htorn hi h1 h2 hhere hopen hle hbelow hmoved hunit hrc hrf hnew ha hb

/-- The command of a node whose children's values are here, in a slot of its unit (R354, R358). -/
theorem exec_nodeAdd (fault : Nat) :
    let k := s.redBlock x.group
    let home := s.foldUnits.getD (c % max 1 s.foldUnits.length) 0
    let ins := s.inputRanges r n c a.length
    let u := s.nodeTried n c (s.foldFor p home).1 a.length (nodeTries fault a b)
    let yes := u.rootOrNarrow p n x.group k
    let d := u.narrowed p r.layer n c yes (rowOp f32Add a b)
    let v := d.1.onStep p (onRed r.layer (valued n c d.2))
    exec (.nodeAdd p n c fault) s = .next (
      if ins ≠ [] ∧ (n, c) ∉ r.asked then
        (s.issueReads ins (.foldIn p r.layer n c)).onStep p (onRed r.layer (fun r => { r with asked := r.asked ++ [(n, c)] }))
      else if 1 < nodeTries fault a b ∨ (u.part p).state ≠ 1 then
        u.onStep p (onRed r.layer (fun r => { r with moved := r.moved ++ [(n, c, home)] }))
      else
        (v.putNode p r.layer c (v.foldLevel k n) n k { r with vals := r.vals ++ [(n, c, d.2)] } d.2).passNode p n c x r.layer k yes d.2) := by
  intro k home ins u yes d v
  have hfind : x.reds.find? (fun r => r.state == 1) = some r := by simp [hr, hst]
  have hany : r.vals.any (fun v => v.1 == n && v.2.1 == c) = false := by
    rw [List.any_eq_false]
    intro v hv
    have := hnew v hv
    simp only [Bool.and_eq_true, beq_iff_eq]
    tauto
  have h : execNodeAdd p n c fault s = execNodeAdd p n c fault s := rfl
  conv_rhs at h => rw [execNodeAdd, hx]
  dsimp only at h
  rw [hfind] at h
  dsimp only at h
  rw [ha, hb] at h
  dsimp only at h
  rw [hany, hopen, hbelow, hi, hrc, hrf, decide_eq_true hle, if_neg (by simp [h1, h2, within, hhere, htorn]), hmoved] at h
  rw [List.find?_nil, Option.map_none, Option.getD_none] at h
  have htries : nodeTries fault a b = failedTries fault (resOp false (a.getD (fault / 49152 % max 1 a.length) 0)
    (b.getD (fault / 49152 % max 1 a.length) 0)) := rfl
  have htried : u = if nodeTries fault a b = 0 then s.charge 12 (ceilDiv a.length 64 * (1 + min (nodeTries fault a b) 1))
    else (s.charge 12 (ceilDiv a.length 64 * (1 + min (nodeTries fault a b) 1))).residue (s.foldFor p home).1 true
      (decide (1 < nodeTries fault a b)) (nodeLevel n) c := rfl
  have hyes : yes = if n = 1 then u.rootNarrow p k x.group else u.levelNarrow p k n := rfl
  have hsum : d = u.narrowed p r.layer n c yes (rowOp f32Add a b) := rfl
  rw [← htries, ← htried, ← hyes, ← hsum, if_neg (by rw [hunit]; decide)] at h
  clear_value u yes d
  have hbool : (!ins.isEmpty && !r.asked.contains (n, c)) = true ↔ ins ≠ [] ∧ (n, c) ∉ r.asked := by simp
  by_cases hask : ins ≠ [] ∧ (n, c) ∉ r.asked
  · rw [if_pos (hbool.mpr hask)] at h
    rw [if_pos hask]
    exact h
  rw [if_neg (mt hbool.mp hask)] at h
  rw [if_neg hask]
  refine h.trans ?_
  by_cases hbad : 1 < nodeTries fault a b ∨ (u.part p).state ≠ 1
  · rw [if_pos hbad, if_pos hbad]
  rw [if_neg hbad, if_neg hbad]
  unfold State.passNode
  split
  · rfl
  · exact (apply_ite Host.Outcome.next _ _ _).symm

/-- A node whose inputs lie in the Fold region asks for them first (R54, R363). -/
theorem nodeAdd_of_asking (hin : s.inputRanges r n c a.length ≠ []) (hask : (n, c) ∉ r.asked) :
    answers (.nodeAdd p n c 0) s (fun t =>
      (∃ y, (t.part p).step = some y ∧ y.reds = [{ r with asked := r.asked ++ [(n, c)] }]) ∧ t.mem = s.mem) := by
  have e := exec_nodeAdd hx hr hst htorn hi h1 h2 hhere hopen hle hbelow hmoved hunit hrc hrf hnew ha hb 0
  dsimp only at e
  rw [if_pos ⟨hin, hask⟩] at e
  obtain ⟨m, q, hm⟩ := s.issueReads_eq (s.inputRanges r n c a.length) (.foldIn p r.layer n c)
  rw [hm] at e
  exact answers_of_exec e ⟨⟨_, State.step_onRed (s := { s with memp := m, power := { s.power with ops := q } }) hx hr _ rfl, rfl⟩, rfl⟩

/-- A node whose residues fail twice goes to another unit (R354, R355). -/
theorem nodeAdd_of_failed (hin : s.inputRanges r n c a.length = [] ∨ (n, c) ∈ r.asked) {fault : Nat}
    (hbad : 1 < nodeTries fault a b) (hwf : spWf s.regs = true)
    (hon : bit s.units.folds (s.foldFor p (s.foldUnits.getD (c % max 1 s.foldUnits.length) 0)).1 = true)
    (hmore : 2 ^ (s.foldFor p (s.foldUnits.getD (c % max 1 s.foldUnits.length) 0)).1 ≠ s.units.folds)
    (hp : s.powered rFD_RETRY_CNT = true) :
    answers (.nodeAdd p n c fault) s (fun t =>
      bit t.units.folds (s.foldFor p (s.foldUnits.getD (c % max 1 s.foldUnits.length) 0)).1 = false
        ∧ (∃ y, (t.part p).step = some y
          ∧ y.reds = [{ r with moved := [(n, c, s.foldUnits.getD (c % max 1 s.foldUnits.length) 0)] }])
        ∧ t.reg rFD_RETRY_CNT = satAdd (s.reg rFD_RETRY_CNT) 1 ∧ t.mem = s.mem) := by
  have e := exec_nodeAdd hx hr hst htorn hi h1 h2 hhere hopen hle hbelow hmoved hunit hrc hrf hnew ha hb fault
  dsimp only at e
  rw [if_neg (by tauto), if_pos (.inl hbad), State.nodeTried, if_neg (by omega), decide_eq_true hbad] at e
  generalize hu : s.charge 12 _ = u at e
  have huu : u.regs = s.regs ∧ u.units = s.units ∧ u.parts = s.parts ∧ u.mem = s.mem ∧ u.power.domOn = s.power.domOn := by
    subst hu
    exact ⟨rfl, rfl, rfl, rfl, rfl⟩
  obtain ⟨hregs, hunits, hparts, hmem, hdom⟩ := huu
  obtain ⟨hgone, hup, hcnt, hum⟩ := State.residue_failed (s := u) (node := true) (level := nodeLevel n) (index := c) (hregs ▸ hwf)
    (hunits ▸ hon) (hunits ▸ hmore) ((State.powered_congr hdom _).trans hp)
  have hstep := congrArg (fun l => (l.getD p resetPart).step) (hup.trans hparts)
  refine answers_of_exec e ⟨hgone, ⟨_, State.step_onRed (hstep.trans hx) hr _ rfl, by rw [hmoved]; rfl⟩, hcnt.trans ?_, hum.trans hmem⟩
  rw [State.reg, hregs]
  rfl

/-- A node whose inputs are here and whose residues hold: its value joins the reduction and stands in the region (R358, R363). -/
theorem nodeAdd_of_ready (hin : s.inputRanges r n c a.length = [] ∨ (n, c) ∈ r.asked) (hup : (s.part p).state = 1)
    (hwf : spWf s.mem = true) :
    answers (.nodeAdd p n c 0) s (fun t =>
      ∃ y w v, (t.part p).step = some y ∧ y.reds = [w] ∧ v ∈ w.vals ∧ v.1 = n ∧ v.2.1 = c ∧ w.layer = r.layer
        ∧ (n ≠ 1 → (∀ u ∈ r.bufs, u.1 = c → u.2.1 = s.foldLevel (s.redBlock x.group) n →
            u.2.2 = n ∨ u.2.2 / 2 = n ∨ s.bufLive (s.redBlock x.group) r c u.2.2 = false) →
          let at_ := s.foldBuf r.block c (s.foldLevel (s.redBlock x.group) n)
          (c, s.foldLevel (s.redBlock x.group) n, n) ∈ w.bufs
            ∧ t.rd at_ (4 * v.2.2.length) = v.2.2.flatMap (fun u => toLE 4 u.toNat)
            ∧ ∀ i, i < at_ ∨ at_ + 4 * v.2.2.length ≤ i → spGet t.mem i = spGet s.mem i)) := by
  have e := exec_nodeAdd hx hr hst htorn hi h1 h2 hhere hopen hle hbelow hmoved hunit hrc hrf hnew ha hb 0
  dsimp only at e
  rw [if_neg (by tauto), State.nodeTried, show nodeTries 0 a b = 0 from failedTries_zero _, if_pos rfl] at e
  generalize hu : s.charge 12 _ = u at e
  have huu : u.parts = s.parts ∧ u.mem = s.mem ∧ u.img = s.img := by
    subst hu
    exact ⟨rfl, rfl, rfl⟩
  obtain ⟨hparts, hmem, himg⟩ := huu
  have hup' : (u.part p).state = 1 := by rw [State.part, hparts]; exact hup
  have hux : (u.part p).step = some x := by rw [State.part, hparts]; exact hx
  rw [if_neg (by rintro (h | h); exacts [absurd h (by decide), h hup'])] at e
  generalize u.rootOrNarrow p n x.group (s.redBlock x.group) = yes at e
  have hdv := u.narrowed_reds p r.layer n c yes (rowOp f32Add a b)
  have hds : u.Same (fun f => f = .regs ∨ f = .part p) (u.narrowed p r.layer n c yes (rowOp f32Add a b)).1 :=
    State.narrowed_same _ _ _ _ _ _ (.refl u) (by simp) (by simp)
  generalize u.narrowed p r.layer n c yes (rowOp f32Add a b) = d at e hdv hds
  obtain ⟨d, vs⟩ := d
  dsimp only at e hdv hds
  obtain ⟨y, w, hy, hw, hq⟩ := hdv.red hux hr
  obtain ⟨-, hwl, -⟩ := Red.fields_of_quiet hq
  let v := d.onStep p (onRed r.layer (valued n c vs))
  have hv : (v.part p).step = some { y with reds := [valued n c vs w] } := State.step_onRed hy hw _ hwl
  have hvm : v.mem = s.mem := (hds.mem (by simp) (by simp)).trans hmem
  have hvi : v.img = s.img := (hds.img (by simp)).trans himg
  have hlevel : v.foldLevel (s.redBlock x.group) n = s.foldLevel (s.redBlock x.group) n :=
    State.foldLevel_congr hvi ..
  replace e : exec (.nodeAdd p n c 0) s = .next ((v.putNode p r.layer c (v.foldLevel (s.redBlock x.group) n) n (s.redBlock x.group)
    { r with vals := r.vals ++ [(n, c, vs)] } vs).passNode p n c x r.layer (s.redBlock x.group) yes vs) := e
  rw [hlevel] at e
  clear_value v
  obtain ⟨w₁, hw₁, hvals₁, hl₁⟩ := State.putNode_vals hv rfl hwl c (s.foldLevel (s.redBlock x.group) n) n (s.redBlock x.group)
    { r with vals := r.vals ++ [(n, c, vs)] } vs
  obtain ⟨z, w₂, hz, hw₂, hvals₂, hl₂, hrest⟩ := State.passNode_red hw₁ rfl hl₁ n c x (s.redBlock x.group) yes vs
  refine answers_of_exec e ⟨z, w₂, (n, c, vs), hz, hw₂, ?_, rfl, rfl, hl₂, fun hroot hfree => ?_⟩
  · rw [hvals₂, hvals₁]
    exact List.mem_append_right _ List.mem_cons_self
  obtain ⟨hput, hputm, -, -⟩ := State.putNode_of_free (q := { r with vals := r.vals ++ [(n, c, vs)] }) (k := s.redBlock x.group) hv rfl hwl
    c (s.foldLevel (s.redBlock x.group) n) n vs fun i hi hi₁ hi₂ => (hfree i hi hi₁ hi₂).imp_right fun h =>
      (State.bufLive_congr hvi ..).trans (State.bufLive_valued vs h)
  obtain ⟨hbufs, hm⟩ := hrest hroot
  have hsame : w₁ = _ := List.singleton_inj.mp (congrArg StepSt.reds (Option.some.inj (hw₁.symm.trans hput)))
  have hend := hm.trans (hputm.trans (by rw [State.foldBuf_congr hvi, hvm]))
  refine ⟨?_, State.rd_of_write hend hwf (length_nodeBytes _), fun i hi => ?_⟩
  · rw [hbufs, hsame]
    exact List.mem_append_right _ List.mem_cons_self
  · rw [hend, spGet_memWrite_outside _ _ _ _ hwf (by rwa [length_nodeBytes])]

end

/-! ### O56 -/

/-- Settles O56: a reduction's start, its nodes, the values, results, aborts and poison that come from other members, the seal of a
chunk and the audit of a sealed one. -/
theorem reductionCompletes : Obligations.ReductionCompletes := by
  refine ⟨fun s p l x _ _ hx hd => reductionStart_of_due hx hd, fun s p n c x r a b hs _ hx hr hst ht hi => ?_,
    fun s m x r hs _ hx hr hl => ⟨fun hd hst hw hid hodd hhere hthere hlay hcrc hnew hopen hfree => ?_,
      fun hd hw hlen h11 h14 hmem hlay hkind hpod hp => ?_⟩,
    fun s m x r hs _ hx hr hl hst hw => ?_, fun s p c x r _ _ hx hr hst hc h2 hw hb => chunkSeal_of_written hx hr hst hc h2 hw hb,
    fun s m x hs hd _ hx hl hno hn hf hdead hlen h11 h14 hmem hlay hkind hpod hp =>
      fdPoison_of_due hs hd hx hl hno hn hf hdead hlen h11 h14 hmem hlay hkind hpod hp,
    fun s p x r hs _ hx hl ht hf he hn hr ha hst hcrc => sealAudit_of_sound hs.regsWf hx hl ht hf he hn hr ha hst hcrc⟩
  · intro k e home unit h1 h2 hhere hopen hle hbelow hmoved hunit hrc hrf hnew ha hb hup
    refine ⟨fun hin hask => ?_, fun hin => ⟨?_, fun hon hmore hp fault hbad => ?_⟩⟩
    · exact nodeAdd_of_asking hx hr hst ht hi h1 h2 hhere hopen hle hbelow hmoved hunit hrc hrf hnew ha hb hin hask
    · exact nodeAdd_of_ready hx hr hst ht hi h1 h2 hhere hopen hle hbelow hmoved hunit hrc hrf hnew ha hb hin hup hs.memWf
    · exact nodeAdd_of_failed hx hr hst ht hi h1 h2 hhere hopen hle hbelow hmoved hunit hrc hrf hnew ha hb hin hbad hs.regsWf hon
        hmore hp
  · exact fdValue_of_due hs hx hr hl hd hst hw hid hodd hhere hthere hlay hcrc hnew hopen hfree
  · exact fdAbort_of_due hs hd hx hr hl hw hlen h11 h14 hmem hlay hkind hpod hp
  · intro e hd hpod hlay hid hcrc hroot hc hlt he
    exact fdResult_of_due hs hx hr hl hst hw hd hpod hlay hid hcrc hroot hc hlt he

end Sys2Proof.Machine
end
